-- ==== Sys2Proof/Word.lean ====
section
/-! DEFINITION. The plain words of the machine: bytes, 32-bit register words, and the conversions between byte
sequences and numbers, little-endian for registers and table entries, big-endian for packet fields. -/

namespace Sys2Proof

/-- A byte of a frame, of a memory or of a table entry. -/
abbrev Byte := BitVec 8

/-- A 32-bit word as BAR0 carries it (R38). -/
abbrev Word := BitVec 32

/-- The low `n` bits of a number. -/
def lowBits (n v : Nat) : Nat := v % 2 ^ n

/-- Bits `hi` down to `lo` of a number. -/
def bitField (v hi lo : Nat) : Nat := (v / 2 ^ lo) % 2 ^ (hi + 1 - lo)

/-- `v` with bits `hi` down to `lo` replaced by `x`. -/
def setBitField (v hi lo x : Nat) : Nat :=
  v - bitField v hi lo * 2 ^ lo + (x % 2 ^ (hi + 1 - lo)) * 2 ^ lo

/-- Whether bit `i` of a number is 1. -/
def bitOn (v i : Nat) : Bool := (v / 2 ^ i) % 2 == 1

/-- The value 1 or 0 of a truth value. -/
def b2n (b : Bool) : Nat := if b then 1 else 0

/-- A sequence of bytes read as a little-endian number. -/
def leNat : List Byte → Nat
  | [] => 0
  | b :: t => b.toNat + 256 * leNat t

/-- The `n` bytes of a number, least significant first. -/
def leBytes : Nat → Nat → List Byte
  | 0, _ => []
  | n + 1, v => BitVec.ofNat 8 v :: leBytes n (v / 256)

/-- A sequence of bytes read as a big-endian number (network byte order). -/
def beNat (l : List Byte) : Nat := l.foldl (fun a b => a * 256 + b.toNat) 0

/-- The `n` bytes of a number, most significant first. -/
def beBytes (n v : Nat) : List Byte := (leBytes n v).reverse

/-- `n` bytes of a list from offset `o`, short where the list ends. -/
def slice (l : List Byte) (o n : Nat) : List Byte := (l.drop o).take n

/-- The big-endian number in `n` bytes at offset `o`; bytes past the end read as absent. -/
def beAt (l : List Byte) (o n : Nat) : Nat := beNat (slice l o n)

/-- A number read as a two's complement value of `w` bits. -/
def signed (w v : Nat) : Int := if v % 2 ^ w < 2 ^ (w - 1) then (v % 2 ^ w : Nat) else (v % 2 ^ w : Nat) - (2 ^ w : Nat)

/-- The two's complement encoding of `v` in `w` bits. -/
def encSigned (w : Nat) (v : Int) : Nat := (v % (2 ^ w : Nat)).toNat

/-- Saturating addition at `2^w - 1`. -/
def satAdd (w a b : Nat) : Nat := min (a + b) (2 ^ w - 1)

/-- Wrapping addition modulo `2^w`. -/
def wrapAdd (w a b : Nat) : Nat := (a + b) % 2 ^ w

/-- Subtraction modulo `2^w`. -/
def wrapSub (w a b : Nat) : Nat := (a + 2 ^ w - b % 2 ^ w) % 2 ^ w

/-- Division rounded up. -/
def ceilDiv (a b : Nat) : Nat := (a + b - 1) / b

/-- The bytes of `l` with those from offset `o` on replaced by `x`, never lengthening `l`. -/
def patchBytes (l : List Byte) (o : Nat) (x : List Byte) : List Byte :=
  (l.take o ++ x ++ l.drop (o + x.length)).take l.length

/-- The number of one bits among bits 0 to `n` − 1. -/
def popcount (v : Nat) : Nat → Nat
  | 0 => 0
  | n + 1 => b2n (bitOn v n) + popcount v n

end Sys2Proof
end

