-- ==== Sys2Proof/Syntax.lean ====
section
/-! DEFINITION. The commands of the engine: the accesses, operations, external events and elapsed times that the opcode table
lists, with their operands. Frames and buffers are their bytes; a master is its identifier of R37; every other operand is a
number that `Instr.wf` bounds. -/

namespace Sys2Proof

/-- A configuration write that the spec names (R420): Bus Master Enable, the power state, the base of a BAR. -/
inductive PcieCfg where
  | bme (on : Bool)
  | power (d3 : Bool)
  | bar (n base : Nat)
deriving DecidableEq, Repr

/-- A write to the MSI-X table or the function mask (R419): dword `i` of the entry of a vector, or the function mask. -/
inductive MsixWrite where
  | dword (vec i value : Nat)
  | fnMask (on : Bool)
deriving DecidableEq, Repr

/-- A stall of dispatch with its clocks: by a full bank request queue (R137), or by a write-back of statistics (R183). -/
inductive StallEnd where
  | bank (clocks : Nat)
  | writeback (clocks : Nat)
deriving DecidableEq, Repr

/-- The instructions of the test access port (R507). -/
inductive JtagInstr where
  | bypass | idcode | samplePreload | extest | extestPulse | extestTrain | clamp | highz | dbgReg
deriving DecidableEq, Repr

/-- The instructions under which the pins follow the test logic. -/
def JtagInstr.takesPins : JtagInstr → Bool
  | .extest | .extestPulse | .extestTrain | .clamp | .highz => true
  | .bypass | .idcode | .samplePreload | .dbgReg => false

/-- The common command codes that the I3C target answers or accepts (R506). -/
inductive I3cCode where
  | entdaa (addr : Nat)
  | setdasa (addr : Nat)
  | rstdaa | getpid | getbcr | getdcr | getstatus | getmwl | getmrl | enec | disec
deriving DecidableEq, Repr

/-- The commands: one constructor for each row of the opcode table. The load, demand, errors, replays and peak that a decision of a loop
carries say what its sender has seen; the loop decides by what it has itself measured. -/
inductive Instr where
  /-- R7. A BAR0 write to a register field with no row of its own takes effect, is staged or is dropped according to the
  field's access type. -/
  | registerWrite (m addr v : Nat) (full : Bool)
  /-- R9. A read of a register with an RC field returns the value and clears the field, whichever master reads it. -/
  | clearOnRead (m addr : Nat)
  /-- R44. A write of 1 to PG_SRST returns the page's block registers to reset values and sets PG_RESET_BUSY. -/
  | softReset (page m : Nat)
  /-- R44. PG_RESET_BUSY clears within 10 µs of the soft reset and the page's block registers accept writes again. -/
  | softResetDone (page : Nat)
  /-- R46. A write of 1 to PG_LOCK_SET locks the page's RWL fields until engine reset. -/
  | pageLock (page m : Nat)
  /-- R42. A write to EVT_INJ fires each selected event of the page exactly as its source would. -/
  | eventInject (page m v : Nat)
  /-- R42. A write to FLT_INJ makes each selected fault detector of the page fire with its full effect. -/
  | faultInject (page m v : Nat)
  /-- R50. A 32-bit write to a table-access window or bulk aperture begins or continues assembly of an entry, or is dropped
  for a collision. -/
  | windowWordWrite (m addr v : Nat)
  /-- R52. An assembly whose owner has made no write for 100 µs ends and its partial entry is discarded. -/
  | assemblyTimeout (win m : Nat)
  /-- R51. A read of an entry's first-read word through a window or aperture takes a snapshot of the whole entry. -/
  | windowSnapshotRead (m addr : Nat)
  /-- R49. A write to TBL_APn_CTRL selects table and base and discards any partial entry, counting TBL_AP_DROPS. -/
  | apertureCtrlWrite (a m v : Nat)
  /-- R67. BEGIN binds an IDLE or DONE slot to the issuing master and zeroes its status fields. -/
  | cairnBegin (n m : Nat)
  /-- R58. COMMIT unbinds a slot and either rolls it back on a failed pre-check or moves it to VALIDATE. -/
  | cairnCommit (n m : Nat)
  /-- R66. ABORT discards every staged write of a slot and moves it to DONE with result ABORTED. -/
  | cairnAbort (n m : Nat)
  /-- R67. RELEASE returns a DONE slot to IDLE with result NONE. -/
  | cairnRelease (n m : Nat)
  /-- R58. Validation of a slot's staged targets ends, moving the slot to PENDING or to DONE with ECC or INVALID. -/
  | cairnValidateDone (n : Nat)
  /-- R59. At the apply instant every staged value of a PENDING slot takes effect, old values go to the version store and
  the epoch flips. -/
  | cairnApply (n : Nat)
  /-- R65. A slot that stays in PENDING beyond CAIRN_WAIT_LIMIT sets CAIRN_EVT_WAIT once. -/
  | cairnWaitExceeded (n : Nat)
  /-- R27. A write of GOV_LOOP_CTRLn requests AUTO or HANDS_OFF for a loop, or is refused with GOV_EVT_BADMODE. -/
  | govModeWrite (loop mode m : Nat)
  /-- R30. A requested mode takes effect once the loop's current action has completed. -/
  | govModeApply (loop : Nat)
  /-- R32. A write of GOV_HEARTBEAT from a Governor thread counts as a heartbeat; from any other master it is ignored and
  sets GOV_EVT_OWNER. -/
  | govHeartbeat (m v : Nat)
  /-- R32. After 10 ms without a heartbeat every loop goes HANDS_OFF, actuators freeze and a Governor-stall fault is
  recorded. -/
  | govStall
  /-- R34. A write of GOV_LOG_RD records entries consumed, or is ignored with GOV_EVT_BADRD if above GOV_LOG_WR. -/
  | govLogRdWrite (m v : Nat)
  /-- R73. A write setting PORT_EN is validated and enables the port into WAIT_SIGNAL, or sets PORT_EVT_BADCFG. -/
  | portEnable (p m : Nat)
  /-- R73. Clearing PORT_EN finishes the frame in transmission, aborts the frame in reception and moves the port to
  DISABLED. -/
  | portDisable (p m : Nat)
  /-- R74. Signal on every lane of the port moves it from WAIT_SIGNAL to TRAINING or ALIGNING. -/
  | signalDetected (p : Nat) (kr : Bool)
  /-- R74. Training completes on every lane and the port moves to ALIGNING with LANE_TRAINED set. -/
  | trainingComplete (p : Nat)
  /-- R74. 500 ms of training without completion returns the port to WAIT_SIGNAL and sets PORT_EVT_TRAIN_TO. -/
  | trainingTimeout (p : Nat)
  /-- R74. Lane alignment, FEC lock and no local fault move the port to UP and set PORT_EVT_LINK. -/
  | linkUp (p : Nat)
  /-- R74. Loss of signal, alignment or FEC lock on any lane moves an UP port to WAIT_SIGNAL and aborts the frame in
  reception. -/
  | linkLoss (p l : Nat) (sig : Bool)
  /-- R74. A remote fault received or cleared makes the MAC send idles only and the Scheduler stop or resume selecting the
  port. -/
  | remoteFaultChange (p : Nat) (on : Bool)
  /-- R76. At the end of each 1 ms window PORT_HI_SER is set or cleared against PORT_FEC_DEG_THR. -/
  | fecWindowEnd (p : Nat) (hist : List Nat) (unc : Nat)
  /-- R97. A write of PG_PWR_REQ on a lane page powers the lane down or up, ignored for a lane of an enabled port. -/
  | lanePowerRequest (l req m : Nat)
  /-- R93. The first bit after the start delimiter crosses the receive balls; the ingress timestamp is taken and the traffic
  detector counts it. -/
  | frameStart (p : Nat) (wire : List Byte)
  /-- R81. With 64 bytes arrived the pre-classifier assigns an ingress priority and the frame is admitted or dropped whole.
  -/
  | entranceAdmit (p : Nat)
  /-- R77. A frame ends at the MAC; runts, oversize frames and MAC Control frames are handled and the FCS verdict is
  declared. -/
  | frameReceive (p : Nat)
  /-- R85. A received PFC frame reloads or ends the pause timers of the priorities it names. -/
  | pfcReceive (p vec : Nat) (quanta : List Nat)
  /-- R87. A received PAUSE frame pauses every queue class of the port when PAUSE is honoured, and is otherwise counted and
  ignored. -/
  | pauseReceive (p quanta : Nat)
  /-- R85. A priority's pause timer runs out and the Scheduler may start its packets again. -/
  | pfcPauseExpire (p t : Nat)
  /-- R85. A priority paused for longer than PORT_PFC_WD fires PORT_EVT_PFC_WD. -/
  | pfcWatchdog (p i : Nat)
  /-- R86. While a priority stays in XOFF the engine resends the PFC frame each time half the quanta time passes. -/
  | pfcResend (p : Nat)
  /-- R83. ENT_OVERLOAD falls after ENT_OVL_HOLD µs with no entrance drop. -/
  | entOverloadClear (g : Nat)
  /-- R82. The dispatcher hands an eligible head to a pipeline by weighted round robin and the packet passes stages 4 to 6.
  -/
  | headDispatch (src : Nat) (lag : Bool)
  /-- R137, R183. A full bank request queue drains, or a statistics write-back that stalled dispatch ends, and the
  stalled dispatchers resume issuing heads. -/
  | vaultStallEnd (stall : StallEnd)
  /-- R209. At stage 7 with its verdict known a packet is charged to its queue, spills, pushes out or is dropped, and its
  counters update. -/
  | admission (src : Nat)
  /-- R214. A tail section holding 16 complete cells requests a Sump span, writes the cells and side record and appends the
  span. -/
  | spillSpanWrite (q : Nat)
  /-- R215. A long-haul queue over its Sump share copies 256 Sump spans into one far span. -/
  | farMigrate (q port : Nat)
  /-- R215. The far copy completes; the far span replaces the 256 Sump spans, which are freed. -/
  | farCopyComplete (q : Nat)
  /-- R216. A spilling queue's head below ADM_REFILL_LO issues reads of the front of its spill section. -/
  | refillRead (q : Nat)
  /-- R216. A Sump span or far piece read completes into new REFILL head-section cells, with side-record checks. -/
  | refillComplete (q : Nat)
  /-- R222. The orphan sweep returns allocated cells that no chain reaches to the free list within 10 ms. -/
  | orphanSweep
  /-- R228. A write of PG_EN = 1 on a pool page validates the configuration and enables the pool with every buffer free. -/
  | poolEnable (n m : Nat)
  /-- R228. A write of PG_EN = 0 disables a pool, or is ignored while any buffer is allocated. -/
  | poolDisable (n m : Nat)
  /-- R225. POOL_ALLOC_GO makes a register-port request for owner bit 5 served under R224. -/
  | poolAlloc (n m : Nat)
  /-- R227. A write of POOL_FREE_IDX frees a buffer, or is ignored for a double free or a bad index. -/
  | poolFree (n i m : Nat)
  /-- R229. Every 1 ms the BUFFER loop raises or lowers ADM_SHARE of each spill-enabled profile within its envelope. -/
  | bufferLoopDecision
  /-- R240. A slice walks from an eligible port down to a queue and hands its front packet to egress, updating tags and
  credits. -/
  | schedulerDecision (p : Nat)
  /-- R248. At each refill boundary every shaper accrues credit up to its cap, and a new refill period takes effect. -/
  | refillBoundary
  /-- R269. Egress reads and verifies a packet's cells, applies the rewrite descriptor, computes the FCS, encrypts and sends
  it with an egress timestamp. -/
  | packetTransmit (p : Nat)
  /-- R124. A packet leaving a recirculation port is rewritten into new cells and enters the recirculation holding buffer.
  -/
  | recirculateEgress (g : Nat)
  /-- R373. A packet leaving a Grotto port is written with its punt record into a slot of the bound channel and committed.
  -/
  | grottoPortDeliver (g : Nat)
  /-- R435. A packet leaving the host port is written into buffers of its chosen PUNT ring, held, or dropped. -/
  | hostPunt
  /-- R144. A write of 1 to LPM_DRAIN sets it to wait for every walk begun before the write. -/
  | lpmDrain (m : Nat)
  /-- R144. The engine clears LPM_DRAIN once every earlier walk has ended. -/
  | lpmDrainDone
  /-- R150. DS_CAC_GO clears a Dripstone entry only if valid with the given generation and reports DS_CAC_RC. -/
  | dsCompareAndClear (m : Nat)
  /-- R156. INSERT places a key in a free candidate slot, relocates along a path, or uses the stash, returning OK,
  DUPLICATE, FULL or RETRY. -/
  | exmInsert (c m ty : Nat)
  /-- R156. DELETE clears an exact-match entry or returns NOT_FOUND. -/
  | exmDelete (c m ty : Nat)
  /-- R156. UPDATE rewrites EXM_RESULT in place or returns NOT_FOUND. -/
  | exmUpdate (c m ty : Nat)
  /-- R156. LOOKUP returns the result and location of a key. -/
  | exmLookup (c m ty : Nat)
  /-- R156. HASH returns the two candidate buckets of a key without table access. -/
  | exmHash (c m ty : Nat)
  /-- R150. The MIGRATE loop inserts a Dripstone route into the trie and then compare-and-clears the entry. -/
  | migrate (i : Nat)
  /-- R150. The MIGRATE loop removes a withdrawn prefix from the trie, waits for drain and clears the withdraw entry. -/
  | withdraw (i : Nat)
  /-- R158. The MIGRATE loop re-inserts a stash entry into the table and clears it once the copy is valid. -/
  | stashReinsert (i : Nat)
  /-- R167. The MIGRATE loop compacts trie lines by copy-on-write. -/
  | trieCompact (i : Nat)
  /-- R143. The MIGRATE loop builds the root node of a newly valid VRF and writes word 0 of its root entry. -/
  | rootBuild (i : Nat)
  /-- R123. The scrubber compares one classifier CAM entry with its copy every CLS_SCRUB_INT ns and repairs a mismatch. -/
  | clsScrub (i : Nat)
  /-- R148. The scrubber compares one Dripstone entry with its copy every DS_SCRUB_INT ns and repairs a mismatch. -/
  | dsScrub (i : Nat)
  /-- R163. The digest comparator completes a region's pass and compares its digest, skipping written regions. -/
  | digestCheck
  /-- R131. CLS_INJ_GO flips a CAM key bit or corrupts a copy's parity. -/
  | clsInject (m : Nat)
  /-- R167. DS_INJ_GO flips a Dripstone key bit or corrupts a copy's parity. -/
  | dsInject (m : Nat)
  /-- R162. VLT_INJ_GO makes the stored parity of one chosen entry wrong. -/
  | vltParInject (m : Nat)
  /-- R184. A write of 1 to STC_FLUSH starts adding every present delta into the Sump. -/
  | stcFlush (m : Nat)
  /-- R184. Every delta present at the flush write has reached the Sump; STC_FLUSH clears and STC_EVT_FLUSHED is set. -/
  | stcFlushDone
  /-- R183. A delta line is added into the Sump on eviction, half range, flush or STC_WB_MAX expiry. -/
  | statWriteback (k : Nat)
  /-- R203. STC_INJ_GO makes a delta line or policer state uncorrectable at its next read. -/
  | stcInject (m : Nat)
  /-- R230. CHM_INJ_GO arms a cell-check, link, Sump span or far piece error on a queue. -/
  | chmInject (m : Nat)
  /-- R260. SCH_INJ_GO makes a Scheduler state or configuration entry uncorrectable at its next read. -/
  | schInject (m : Nat)
  /-- R274. Each millisecond Rimstone copies every ledger counter and in-flight count at one edge, or skips if the last
  evaluation is unfinished. -/
  | rimstoneSnapshot
  /-- R275. Rimstone's evaluation of every ledger ends and each discrepancy is recorded and reported. -/
  | rimstoneAudit
  /-- R284. RIM_INJ_GO adds an amount to a ledger's balance for the next audit only. -/
  | rimInject (m : Nat)
  /-- R287. A PLL loses lock; a Gallery PLL causes a Gallery reset and relock, any other stops its domain. -/
  | pllLossOfLock (x : Nat)
  /-- R317. CLK_INJ_GO signals loss of lock on a chosen domain. -/
  | clkInject (m : Nat)
  /-- R289. A comparator trips after GLW_DEBOUNCE + 1 samples beyond its threshold and takes its action. -/
  | glowwormTrip (n : Nat)
  /-- R289. A tripped comparator re-arms after a sample on the other side of its hysteresis point. -/
  | glowwormRearm (n : Nat)
  /-- R292. A write of PG_PWR_REQ on a Gallery power page sets its active step and resting state. -/
  | galleryPowerRequest (g m req : Nat)
  /-- R293. A Gallery idle for GAL_IDLE_NS enters its permitted resting state, or a shallower one with GAL_REST_BLOCK set.
  -/
  | galleryRestEntry (g : Nat)
  /-- R293. A wake source starts the wake of a resting Gallery, or turns round an entry in progress. -/
  | galleryWake (g cause : Nat)
  /-- R295. VDD_GALg reports power-good and the core clock switches to its step. -/
  | galleryPowerGood (g : Nat)
  /-- R295. The woken Gallery dispatches its first head. -/
  | galleryWakeDone (g : Nat)
  /-- R296. Power-good not reported 10 µs after a request sets GAL_FLT_PGOOD. -/
  | powerGoodTimeout (g : Nat)
  /-- R298. Every 100 µs the POWER loop sets each Gallery's step and resting state from its load. -/
  | powerLoopDecision (g load peak : Nat)
  /-- R339. The POWER loop chooses a stack's pin rate from its demand and headroom. -/
  | sumpRateDecision (k demand peak : Nat)
  /-- R315. Every 1 ms the THERMAL loop raises or lowers TH_CAP by temperature and power estimate. -/
  | thermalLoopDecision
  /-- R302. A write of TOD_PHASE_ADJ replaces any slew in progress with a new slew at TOD_SLEW ppm. -/
  | todPhaseAdj (m v : Nat)
  /-- R302. The slew amount is used up and the slew ends. -/
  | todSlewEnd
  /-- R302. TOD_STEP sets the time of day at the next D17 edge, cancels the slew and sets TOD_EVT_STEP. -/
  | todStep (m : Nat)
  /-- R303. A read of TOD_RD_FRAC latches the whole time of day for that master. -/
  | todReadLatch (m : Nat)
  /-- R307. TOD_VALID_SET sets TOD_VALID unless a loss condition holds. -/
  | todValidSet (m : Nat)
  /-- R307. TOD_VALID_CLR clears TOD_VALID and sets TOD_EVT_INVALID. -/
  | todValidClr (m : Nat)
  /-- R305. A rising 1PPS input edge captures the time into TOD_PPS_CAP and sets TOD_EVT_PPS. -/
  | ppsInEdge
  /-- R305. No 1PPS edge for 1.1 s sets TOD_EVT_PPS_LOSS. -/
  | ppsLoss
  /-- R306. The 1PPS output rises at each whole second plus TOD_PPS_OUT_ADJ. -/
  | ppsOutEdge
  /-- R307. Loss of the system reference clears TOD_VALID and sets TOD_EVT_REF_LOSS. -/
  | sysrefLoss
  /-- R327. A pseudo-channel serves a queued read, write or atomic pair addition under its scheduling and quality-of-service
  rules. -/
  | hbmRequest (k pc : Nat)
  /-- R331. A pseudo-channel issues a per-bank refresh at its interval, postponing at most 8 times. -/
  | hbmRefresh (k pc : Nat)
  /-- R336. The scrubber reads a Sump line, rewriting it corrected or poisoned. -/
  | hbmScrub (line : Nat)
  /-- R337. A write of HBM_RATE_REQ starts a pin-rate step, or is ignored for an untrained rate. -/
  | hbmRateRequest (k m rate : Nat)
  /-- R337. The spare PLL output locks and the stack stalls through self-refresh to switch rate. -/
  | hbmStepStall (k : Nat)
  /-- R337. Commands resume at the new rate, HBM_STEP_NS is recorded and HBM_EVT_STEP_DONE is set. -/
  | hbmStepDone (k : Nat)
  /-- R337. The spare output not locked 50 µs after the request abandons the step and sets HBM_EVT_STEP_FAIL. -/
  | hbmStepFail (k : Nat)
  /-- R332. The REFRESH loop raises or lowers HBM_REF_MULT by the corrected-error rate. -/
  | refreshLoopDecision (k ce peak : Nat)
  /-- R342. The RETRAIN loop retrains one pseudo-channel in 8 stalling steps. -/
  | hbmPcRetrain (k pc margin ce demand : Nat) (periodic : Bool)
  /-- R342. The RETRAIN loop re-adapts the receivers of a port's lanes in service. -/
  | serdesReadapt (p : Nat)
  /-- R342. The RETRAIN loop takes a CXL link through Recovery with equalisation redone. -/
  | cxlRecovery (p replays : Nat)
  /-- R351. HBM_PG_GO runs the pattern generator and compare helper on a pseudo-channel's scratch region. -/
  | hbmPgRun (k m : Nat)
  /-- R351. A pattern run ends with its lane error counts and HBM_EVT_CMP_DONE set. -/
  | hbmCmpDone (k : Nat) (errs : List Nat)
  /-- R340. A write of HBM_DLY_SEL stores a lane setting for a rate, applying at once for the rate in force. -/
  | hbmDelaySet (k v m : Nat)
  /-- R351. HBM_TRN_GO marks a rate trained or untrained on the stack. -/
  | hbmTrnMark (k m : Nat)
  /-- R352. HBM_INJ_GO arms an ECC or SIDE_SEQ error on the next write from a port. -/
  | hbmEccInject (k m : Nat)
  /-- R344. A write of FAR_LINK_EN starts or stops the bring-up of a CXL port. -/
  | farLinkEnable (p : Nat) (on : Bool) (m : Nat)
  /-- R344. After FAR_PERST_MS the Far controller deasserts the port's PERST_N and training begins. -/
  | farPerstRelease (p : Nat)
  /-- R344. The link reaches L0 in Flit mode and the port moves to ENUM. -/
  | farLinkTrained (p speed width : Nat)
  /-- R344. HDM decoder 0 is programmed, FAR_MEM_SIZE set, FAR_LINK_GEN incremented and the port is READY. -/
  | farEnumDone (p gib : Nat)
  /-- R344. Training or enumeration fails and the port enters FAILED with FAR_ENUM_RC. -/
  | farEnumFail (p rc : Nat)
  /-- R344. A FAILED port with FAR_LINK_EN = 1 retries bring-up from step 2 every second. -/
  | farRetry (p : Nat)
  /-- R345. A Recovery that returns to L0 returns the port to READY. -/
  | farRecoveryExit (p : Nat)
  /-- R345. A failed Recovery or link loss moves the port to FAILED and makes outstanding reads unreadable. -/
  | farLinkDown (p : Nat)
  /-- R348. A far read completion returns data, or poisoned data that makes the piece unreadable. -/
  | farReadComplete (q : Nat)
  /-- R348. A far read or write not completed within FAR_TIMEOUT makes the piece unreadable or abandons the migration. -/
  | farRequestTimeout (q : Nat) (wr : Bool)
  /-- R355. FAR_IO_GO issues a CXL.io configuration or memory access to the device. -/
  | farIoAccess (p m : Nat)
  /-- R355. The CXL.io access completes with FAR_IO_RC and its read data. -/
  | farIoDone (p rc data : Nat)
  /-- R354. FAR_INJ_GO injects a flit CRC error, poison, withheld completion or forced Recovery. -/
  | farInject (p m : Nat)
  /-- R364. START runs an IDLE thread from GRT_TH_ENTRY with zeroed registers. -/
  | threadStart (th m : Nat)
  /-- R364. RESTART abandons windows, clears binds, timer and events and runs the thread from its entry. -/
  | threadRestart (th m : Nat)
  /-- R364. HALT moves a thread to HALTED with cause COMMAND. -/
  | threadHalt (th m : Nat)
  /-- R364. KILL acts as RESTART but leaves the thread IDLE. -/
  | threadKill (th m : Nat)
  /-- R366. GRT_CORE_RESTART restarts every vendor thread and kills every customer thread of the core. -/
  | coreRestart (c m : Nat)
  /-- R366. A core restart completes; on cores 30 and 31 the Governor resumes and its loops log RESUME. -/
  | coreRestartDone (c : Nat)
  /-- R369. A waiting thread's wait or blocking channel operation is satisfied and it returns to RUN. -/
  | threadWake (th : Nat)
  /-- R378. Thread 0 acts on a halted customer thread within 10 µs by GRT_POL_FLT. -/
  | supervisorFaultPolicy (th : Nat)
  /-- R378. Thread 0 passes an ICU delivery on bit 26 to the configured thread by SEND. -/
  | supervisorIcuForward (c : Nat)
  /-- R380. All customer threads closed-waiting for GRT_DL_CYC clocks fires the detector and sets bit 28 of thread 0. -/
  | deadlockDetect (c : Nat)
  /-- R380. Thread 0 applies GRT_POL_DL within 10 µs of a detection. -/
  | supervisorDeadlockPolicy (c : Nat)
  /-- R367. A thread's timer expires and latches event bit 24. -/
  | tcbTimerExpire (th : Nat)
  /-- R368. A load of TCB_WAIT waits until pending events meet the mask and returns them, clearing latched ones. -/
  | tcbWait (th : Nat)
  /-- R368. A load of TCB_POLL returns the pending event bits. -/
  | tcbPoll (th : Nat)
  /-- R368. A load or store of TCB_WAIT_MASK reads or sets the wait mask. -/
  | tcbWaitMask (th : Nat)
  /-- R368. A store to TCB_SEND sets an event bit of a thread of the same core. -/
  | tcbSend (th : Nat)
  /-- R368. A store to TCB_TIMER arms or cancels the thread's timer; a load returns the time remaining. -/
  | tcbTimer (th : Nat)
  /-- R368. A store to TCB_BIND binds an event bit to a channel's NOT_EMPTY or NOT_FULL condition. -/
  | tcbBind (th : Nat)
  /-- R370. A store to TCB_COMMIT appends a reserved slot to the channel's ready list with its length. -/
  | tcbCommit (th : Nat)
  /-- R371. A store to TCB_RELEASE cancels a reservation, returns an acquired slot or frees an abandoned window. -/
  | tcbRelease (th : Nat)
  /-- R368. A load of TCB_WSTAT returns a window's state, channel and length. -/
  | tcbWstat (th : Nat)
  /-- R376. A store to TCB_POOL_SIZE sets the size of the next pool request. -/
  | tcbPoolSize (th : Nat)
  /-- R376. A load of TCB_POOL_ALLOC requests a buffer for owner bit 0 and returns its pool and index. -/
  | tcbPoolAlloc (th : Nat)
  /-- R376. A store to TCB_POOL_FREE frees a pool buffer. -/
  | tcbPoolFree (th : Nat)
  /-- R368. A load of TCB_POOL_BP returns every pool's back-pressure level. -/
  | tcbPoolBp (th : Nat)
  /-- R368. A load of TCB_ID returns the thread's master ID. -/
  | tcbId (th : Nat)
  /-- R371. A load of TCB_RESERVE maps the head free slot of a channel to a window, or returns an error at once. -/
  | tcbReserve (th : Nat)
  /-- R371. A load of TCB_RESERVE_WAIT reserves a slot, waiting while the channel is full. -/
  | tcbReserveWait (th : Nat)
  /-- R371. A load of TCB_ACQUIRE maps the oldest committed slot read-only, or returns an error at once. -/
  | tcbAcquire (th : Nat)
  /-- R371. A load of TCB_ACQUIRE_WAIT acquires a slot, waiting while the channel is empty. -/
  | tcbAcquireWait (th : Nat)
  /-- R374. The inject source takes a ready slot of a Gallery's inject channel, copies the packet into cells and frees the
  slot. -/
  | grottoInjectTake (g : Nat)
  /-- R381. STOP moves a thread to STOPPED within 64 clocks, keeping its windows, binds, timer and events. -/
  | dbgStop (th m : Nat)
  /-- R381. RESUME returns a stopped thread to its prior state. -/
  | dbgResume (th m : Nat)
  /-- R381. STEP executes GRT_DBG_COUNT instructions of a stopped thread. -/
  | dbgStep (th m : Nat)
  /-- R381. The stepped instruction count runs out, or a blocking load ends it, and the thread stops again. -/
  | dbgStepEnd (th : Nat)
  /-- R383. ABANDON returns the slot of a stopped thread's window and marks the window ABANDONED. -/
  | dbgAbandon (th m : Nat)
  /-- R382. READ_REG returns a stopped thread's selected register through GRT_DBG_DATA. -/
  | dbgReadReg (th m : Nat)
  /-- R382. WRITE_REG writes a stopped thread's selected register from GRT_DBG_DATA. -/
  | dbgWriteReg (th m : Nat)
  /-- R387. GRT_INJ_GO arms a local-memory or register-file error on a thread's next read. -/
  | grtInject (c m : Nat)
  /-- R410. Grotto instruction ADD writes the sum of two registers. -/
  | add (th : Nat)
  /-- R410. Grotto instruction SUB writes the difference of two registers. -/
  | sub (th : Nat)
  /-- R410. Grotto instruction AND writes the bitwise AND of two registers. -/
  | and (th : Nat)
  /-- R410. Grotto instruction OR writes the bitwise OR of two registers. -/
  | or (th : Nat)
  /-- R410. Grotto instruction XOR writes the bitwise XOR of two registers. -/
  | xor (th : Nat)
  /-- R410. Grotto instruction SHL shifts a register left by a register. -/
  | shl (th : Nat)
  /-- R410. Grotto instruction SHR shifts a register right logically by a register. -/
  | shr (th : Nat)
  /-- R410. Grotto instruction SAR shifts a register right arithmetically by a register. -/
  | sar (th : Nat)
  /-- R410. Grotto instruction ADDI adds a sign-extended immediate. -/
  | addi (th : Nat)
  /-- R410. Grotto instruction ANDI ANDs a zero-extended immediate. -/
  | andi (th : Nat)
  /-- R410. Grotto instruction ORI ORs a zero-extended immediate. -/
  | ori (th : Nat)
  /-- R410. Grotto instruction XORI XORs a zero-extended immediate. -/
  | xori (th : Nat)
  /-- R410. Grotto instruction SHLI shifts left by an immediate. -/
  | shli (th : Nat)
  /-- R410. Grotto instruction SHRI shifts right logically by an immediate. -/
  | shri (th : Nat)
  /-- R410. Grotto instruction SARI shifts right arithmetically by an immediate. -/
  | sari (th : Nat)
  /-- R410. Grotto instruction LIH loads an immediate shifted left by 16. -/
  | lih (th : Nat)
  /-- R410. Grotto instruction CLT compares signed less-than. -/
  | clt (th : Nat)
  /-- R410. Grotto instruction CLTU compares unsigned less-than. -/
  | cltu (th : Nat)
  /-- R410. Grotto instruction CEQ compares for equality. -/
  | ceq (th : Nat)
  /-- R410. Grotto instruction MUL writes the low product. -/
  | mul (th : Nat)
  /-- R410. Grotto instruction MULH writes the high product. -/
  | mulh (th : Nat)
  /-- R410. Grotto instruction DIV divides signed, returning all ones on divide by zero. -/
  | div (th : Nat)
  /-- R410. Grotto instruction DIVU divides unsigned, returning all ones on divide by zero. -/
  | divu (th : Nat)
  /-- R410. Grotto instruction REM returns the remainder, or the dividend on divide by zero. -/
  | rem (th : Nat)
  /-- R410. Grotto instruction LB loads a sign-extended byte. -/
  | lb (th : Nat)
  /-- R410. Grotto instruction LH loads a sign-extended halfword. -/
  | lh (th : Nat)
  /-- R410. Grotto instruction LW loads a sign-extended word. -/
  | lw (th : Nat)
  /-- R410. Grotto instruction LD loads a doubleword from memory, a window, the control block or BAR0. -/
  | ld (th : Nat)
  /-- R410. Grotto instruction LBU loads a zero-extended byte. -/
  | lbu (th : Nat)
  /-- R410. Grotto instruction LHU loads a zero-extended halfword. -/
  | lhu (th : Nat)
  /-- R410. Grotto instruction LWU loads a zero-extended word. -/
  | lwu (th : Nat)
  /-- R410. Grotto instruction SB stores a byte. -/
  | sb (th : Nat)
  /-- R410. Grotto instruction SH stores a halfword. -/
  | sh (th : Nat)
  /-- R410. Grotto instruction SW stores a word. -/
  | sw (th : Nat)
  /-- R410. Grotto instruction SD stores a doubleword. -/
  | sd (th : Nat)
  /-- R410. Grotto instruction BEQ branches if equal. -/
  | beq (th : Nat)
  /-- R410. Grotto instruction BNE branches if not equal. -/
  | bne (th : Nat)
  /-- R410. Grotto instruction BLT branches if signed less. -/
  | blt (th : Nat)
  /-- R410. Grotto instruction BGE branches if signed greater or equal. -/
  | bge (th : Nat)
  /-- R410. Grotto instruction BLTU branches if unsigned less. -/
  | bltu (th : Nat)
  /-- R410. Grotto instruction BGEU branches if unsigned greater or equal. -/
  | bgeu (th : Nat)
  /-- R410. Grotto instruction CALL branches and writes the link register. -/
  | call (th : Nat)
  /-- R410. Grotto instruction JR jumps to a register address. -/
  | jr (th : Nat)
  /-- R410. Grotto instruction CRC32C computes a CRC-32C step. -/
  | crc32c (th : Nat)
  /-- R410. Grotto instruction POPCNT counts set bits. -/
  | popcnt (th : Nat)
  /-- R410. Grotto instruction CLZ counts leading zeros. -/
  | clz (th : Nat)
  /-- R410. Grotto instruction BSWAP reverses byte order. -/
  | bswap (th : Nat)
  /-- R410. Grotto instruction EXTR extracts a bit field. -/
  | extr (th : Nat)
  /-- R410. Grotto instruction INSR inserts a bit field. -/
  | insr (th : Nat)
  /-- R410. Grotto instruction CSEL selects conditionally. -/
  | csel (th : Nat)
  /-- R410. Grotto instruction FENCE waits until every earlier access of the thread has completed. -/
  | fence (th : Nat)
  /-- R501. RESET_N falling stops every domain except D0 and puts outputs in their reset states. -/
  | engineResetAssert
  /-- R497. Release of RESET_N samples the straps, returns every page to reset values and starts Asuth. -/
  | engineResetRelease (flashRel slow test : Bool)
  /-- R497. The Lamp's power-on reset releases 1 ms after VDD_LAMP and LAMP_CLK are present and clears everything. -/
  | lampPowerOn (sa : Nat) (ready flashRel slow test : Bool)
  /-- R499. A rail below 90 % of nominal for 2 µs starts the brown-out hold with FAULT_N asserted. -/
  | brownoutStart
  /-- R499. The brown-out hold ends 1 ms after every rail is back in tolerance and the engine boots. -/
  | brownoutEnd
  /-- R501. A reset held at high temperature is released once the junction falls below 102 °C. -/
  | thermalResetHoldEnd
  /-- R405. BOOT_LD_GO starts the checks of an image written into the load buffer. -/
  | bootLdGo (m : Nat)
  /-- R405. The load checks complete, the image is written or staged, BOOT_LD_RC is set and BOOT_EVT_LD_DONE fires. -/
  | bootLdDone
  /-- R404. BOOT_LD_RESUME continues a boot paused in WAIT_HOST from the paused step. -/
  | bootLdResume (m : Nat)
  /-- R397. BOOT_PROV_GO from JTAG fuses a key slot's hash from the load buffer. -/
  | keyProvision (slot m : Nat)
  /-- R397. BOOT_PROV_GO with BOOT_PROV_REVOKE permanently revokes a key slot. -/
  | keyRevoke (slot m : Nat)
  /-- R392. A write of BOOT_FLASH_REL puts the xSPI pins in or out of high impedance. -/
  | flashRelease (on : Bool) (m : Nat)
  /-- R415. BOOT_INJ_GO arms a signature or tag failure for the next load. -/
  | bootInject (m : Nat)
  /-- R420. An FLR, hot reset or PERST_N resets every ring, the host-interface pages and MSI-X and aborts the host's Cairn
  slot. -/
  | hostInterfaceReset
  /-- R420. The PCIe link leaving L0 stops every RUNNING ring with cause LINK. -/
  | hostLinkDown
  /-- R429. A write of RING_EN = 1 validates the ring's configuration and makes it RUNNING. -/
  | ringEnable (n m : Nat)
  /-- R423. A doorbell write advances RING_PROD, or is a protocol error with cause DOORBELL. -/
  | ringDoorbell (n v : Nat)
  /-- R427. RING_RESET or clearing RING_EN moves the ring to RESETTING and stops fetching. -/
  | ringReset (n m : Nat)
  /-- R427. Begun work finishes, both indices become 0, the write-back is sent and the ring ends RUNNING or DISABLED. -/
  | ringResetDone (n : Nat)
  /-- R426. A job completes in index order, RING_CONS advances and the write-back is sent. -/
  | ringJobComplete (n : Nat)
  /-- R431. A ring notifies by vector and RING_EVT_CMPL after RING_COAL_JOBS jobs or RING_COAL_US µs. -/
  | ringNotify (n : Nat)
  /-- R432. An INJECT job's packet is read from host buffers, staged and handed to a Gallery's inject source or dropped. -/
  | injectJob (n : Nat)
  /-- R432. An inject fetch delayed by an empty staging pool retries every 1 µs. -/
  | injectFetchRetry (n : Nat)
  /-- R440. Table command NOP completes with value 0. -/
  | tblCmdNop (n : Nat)
  /-- R440. Table command CONT continues the data of the preceding WRITE_ENTRY. -/
  | tblCmdCont (n : Nat)
  /-- R441. Table command WRITE_ENTRY writes or stages one table entry as one unit. -/
  | tblCmdWriteEntry (n : Nat)
  /-- R440. Table command READ_ENTRY writes a whole table entry to a host address. -/
  | tblCmdReadEntry (n : Nat)
  /-- R441. Table command REG_WRITE writes or stages a BAR0 register as the host. -/
  | tblCmdRegWrite (n : Nat)
  /-- R441. Table command DS_ADD writes a Dripstone entry at the lowest free address at or above DS_ADD_FLOOR, waiting while
  none is free. -/
  | tblCmdDsAdd (n : Nat)
  /-- R441. Table command EXM joins the exact-match command order and runs the selected operation. -/
  | tblCmdExm (n : Nat)
  /-- R441. Table command CAIRN writes a Cairn command, optionally mode and target, and optionally waits for DONE. -/
  | tblCmdCairn (n : Nat)
  /-- R444. HIF_INJ_GO makes the next DMA read of a ring end in an error. -/
  | hifInject (m : Nat)
  /-- R450. A PENDING source is delivered to the next available target of its set by MSI-X or Grotto event bit. -/
  | icuDeliver (bank : Nat)
  /-- R449. ICU_ACK from the recorded target returns an ACTIVE source to IDLE or PENDING, or is refused as a bad
  acknowledge. -/
  | icuAck (bank t src m : Nat)
  /-- R451. ICU_MASK_SET masks a source's delivery. -/
  | icuMaskSet (bank src m : Nat)
  /-- R451. ICU_MASK_CLR unmasks a source's delivery. -/
  | icuMaskClr (bank src m : Nat)
  /-- R460. A reported fault writes a new record, or merges into its scope's open record, and may start a contain action. -/
  | fmuRecord
  /-- R470. A Survey configuration write is checked, zeroes the counter and takes effect at the next D17 edge. -/
  | svyConfig (i m v : Nat)
  /-- R473. At each window end WINDOW counters move to SVY_LAST, restart and may export a SURVEY_WINDOW record. -/
  | svyWindowEnd
  /-- R474. SVY_LATCH copies every EDGE and LEVEL count into SVY_LAST at one D17 edge. -/
  | svyLatch (m : Nat)
  /-- R478. A read of a counter pair returns the Sump line plus its cached delta at one D15 clock. -/
  | statPairRead (k : Nat)
  /-- R479. A write of a counter pair adds its delta into the Sump and then sets the line to the written value. -/
  | statPairWrite (k v : Nat)
  /-- R481. SNP_GO starts a statistics snapshot at once or arms it for a target time, or is refused. -/
  | snpGo (m : Nat)
  /-- R481. An armed snapshot starts when the time of day reaches its target, flushing present deltas. -/
  | snpStart
  /-- R481. Every pair write completes, the header is written and SNP_EVT_DONE is set. -/
  | snpDone
  /-- R482. A far failure or port leaving READY ends the snapshot without a header and sets SNP_EVT_FAIL. -/
  | snpFail
  /-- R487. A complete block of 4,096 Echo records is copied to a far buffer, or skipped, and reported. -/
  | echoArchive (port : Nat)
  /-- R484. A write of ECHO_SEED reseeds the sampling LFSR. -/
  | echoSeedWrite (v m : Nat)
  /-- R506. An I3C private write of 4 bytes sets the mirror's read address. -/
  | i3cAddressWrite (l : List Byte)
  /-- R506. An I3C private read returns up to 16 bytes of registers and advances the address, or is NACKed if too early. -/
  | i3cPrivateRead (n : Nat)
  /-- R506. The I3C target answers a common command code such as ENTDAA or GETPID. -/
  | i3cCcc (c : I3cCode)
  /-- R507. A new JTAG instruction takes effect; boundary-scan instructions take the pins and bring every link down. -/
  | jtagInstruction (i : JtagInstr)
  /-- R507. A DBG_REG access carries a register access as master 0x200. -/
  | jtagDbgRegAccess (addr : Nat) (v : Option Nat)
  /-- R289. Every 10 µs the temperature sensors and supply monitors are sampled, updating TEMP, VMON, TH_JMAX, TH_EVT_HOT,
  the HBM refresh factor and HBM_EVT_HOT or HBM_FLT_OVERTEMP. -/
  | sensorSample (temps volts : List (Option Nat)) (est : Option Nat)
  /-- R497. VDD_LAMP falling below 0.69 V asserts the Lamp's power-on reset, clearing TH_TRIP_LAST and the time of day. -/
  | lampPowerLoss
  /-- R420. The PCIe link returns to L0, HIF_LINK_UP changes and HIF_EVT_LINK is set. -/
  | hostLinkUp (speed width : Nat)
  /-- R420. A host configuration write changes Bus Master Enable, the power state or BAR assignment, stopping or resuming
  ring DMA. -/
  | pcieConfigWrite (c : PcieCfg)
  /-- R419. A host write to the MSI-X table or function mask masks or unmasks a vector, sending one merged message if its
  pending bit is set. -/
  | msixTableWrite (w : MsixWrite)
  /-- R425. A ring or buffer DMA read completes with Unsupported Request, Completer Abort, poison or a completion timeout,
  stopping the ring in ERROR with cause DMA. -/
  | ringDmaError (n : Nat)
  /-- R345. A CXL link enters Recovery of its own accord, FAR_STATE becomes RECOVERY and far requests are held. -/
  | farLinkRecovery (p : Nat)
  /-- R348. A flit CRC error on a CXL link causes a link-layer replay, counts FAR_REPLAY and may set FAR_EVT_REPLAY_HI. -/
  | farFlitCrcError (p : Nat)
  /-- R307. The system reference input returns, ending the loss condition so that TOD_VALID_SET is accepted again. -/
  | sysrefReturn
deriving DecidableEq, Repr

end Sys2Proof
end

