-- ==== Sys2Proof/Config.lean ====
section
/-! DEFINITION. What an implementation fixes and the spec does not, and the values it leaves open. Each is an uninterpreted
constant: nothing can be proved about its value. A fresh open value is a constant applied to the state's counter `fresh`. -/

namespace Sys2Proof.Config

/-- An open value of `w` bits, the `n`-th one taken (see the assumption log for each use). -/
opaque freeValue : (n w : Nat) → Nat

/-- The stepping of the part, PG_STEP (R42: per stepping). -/
opaque pgStep : Nat

/-- The block revision of a page, PG_BLKREV (R42: per page), and its block-defined capability words. -/
opaque pgBlkRev : (page : Nat) → Nat
opaque pgCapBlk0 : (page : Nat) → Nat
opaque pgCapBlk1 : (page : Nat) → Nat

/-- The instance and index that PG_ID shows where the spec names none (R42): the instance of pages outside the Galleries, stacks,
far ports and cores, the index of a device-wide page. -/
opaque pgInst : (page : Nat) → Nat
opaque pgIndexWide : (page : Nat) → Nat

/-- The block type of a page, PG_TYPE (R42: per page, never zero on a page that exists). -/
opaque pgType : (page : Nat) → Nat

/-- The SecY counter that counts a frame dropped because the SecY entry is invalid or the transmit SA cannot be used (R91, R99: counted,
and not where). -/
opaque secyDropCtr : (tx : Bool) → Nat

/-- Whether an image's ECDSA and ML-DSA signatures verify (R395, R396). -/
opaque sigEcdsaOk : List Byte → Bool
opaque sigMldsaOk : List Byte → Bool

/-- The SHA-384 digest of bytes, as a number (R396, R397), and the hash that key slot 0 holds. -/
opaque sha384 : List Byte → Nat
opaque vendorHash : Nat

/-- The image payload as decrypted under the class key, and whether its tag verifies (R396). -/
opaque imgDecrypt : List Byte → List Byte
opaque imgTagOk : List Byte → Bool

/-- The segments of a CUSTOMER or GRT_FW payload (R402): master ID, slice offset, entry address, START bit and bytes. The spec
names these parts and not their layout. -/
opaque imgSegments : List Byte → List (Nat × Nat × Nat × Bool × List Byte)

/-- The match registers of a GRT_PATCH payload that are valid, with the block that each holds, and its patch micro-ops; and the micro-ops of
the Grotto ROM (R408). The spec gives neither the payload's layout nor the ROM's contents. -/
opaque grtPatchMatch : List Byte → Nat → Option Nat
opaque grtPatchUop : List Byte → Nat → Nat
opaque grtRom : Nat → Nat

/-- The I3C target's provisioned identifier, device characteristics, status and length limits (R506: answered, and not stated). -/
opaque i3cPid : Nat
opaque i3cDcr : Nat
opaque i3cStatus : (n : Nat) → Nat
opaque i3cMwl : Nat
opaque i3cMrl : Nat

/-- Whether Cairn's staging store holds a staged target with an uncorrectable error at the `n`-th open value (R58): the spec gives the
error no cause that a command names. -/
opaque stagingEcc : (n addr : Nat) → Bool

/-- Whether a test of boot passes (R390): 2 the ROM, 3 the fuses, 6 the memories; the count tells one start from another. -/
opaque bootTest : (step n : Nat) → Bool

/-- The 64 bytes, as a number, that a pattern puts into the `i`-th scratch line of a pseudo-channel, from its mode and its seed (R351): the spec names the patterns and not the order of their bits in a line. -/
opaque hbmPattern : (mode seed i : Nat) → Nat

/-- The word of the action-engine ROM at an address (R406), whose contents the spec does not give. -/
opaque aeRom : (a : Nat) → Nat

/-- Whether a stack trains at a rate (R341). -/
opaque hbmTrains : (n stack rate : Nat) → Bool

/-- Whether the `k`-th draw of the Echo sampling register after a seed takes a packet at one in `n` (R484): the spec gives
neither the register's taps nor the comparison. -/
opaque echoDraw : (seed k n : Nat) → Bool

/-- Whether one-step operation writes originTimestamp for a PTP message type, or else adds the residence time to
correctionField (R94: the spec names both and not when). -/
opaque ptpOrigin : (messageType : Nat) → Bool

/-! The Grotto instructions where R409 and R410 name an effect and not every part of it: whether a branch offset counts from the next
instruction, whether a word of opcodes 0x30 to 0x38 with other bits set is undefined, a shift by 64 or more, the sign of MULH, a
signed division that is inexact with operands of differing signs or that overflows, a remainder of a negative operand, the step of
CRC32C, the position and length of EXTR and INSR, and the operand that CSEL selects. -/
opaque branchNext : Bool
opaque wordUndefined : (w : Nat) → Bool
opaque wideShift : (op a n : Nat) → Nat
opaque mulhSigned : Bool
opaque divSigned : (a b : Nat) → Nat
opaque remSigned : (a b : Nat) → Nat
opaque crcStep : (a b : Nat) → Nat
opaque bitPos : (w b : Nat) → Nat
opaque bitLen : (w b : Nat) → Nat
opaque cselFirst : (w d a b : Nat) → Bool

end Sys2Proof.Config
end

