-- ==== Sys2Proof/Machine/Fields.lean ====
section
/-! DEFINITION. What a register field is (R7), and the sparse maps that hold register fields, table entries, counters and
bytes: lists of key and value with strictly rising keys and no entry equal to what an absent key reads as. -/

namespace Sys2Proof.Machine

/-- The access types of R7; a reserved bit has no field, reads as zero and ignores writes (R8). -/
inductive Acc where
  | rw | ro | w1c | w1s | wo | rc | rws | rwl
deriving DecidableEq, Repr

/-- A register field: the byte offset of its register in the page, its bits, its access type and its reset value. A
register that repeats has a stride and a count; a register inside a repeating block has a second count at stride 4. -/
structure Fld where
  off : Nat
  hi : Nat
  lo : Nat
  acc : Acc
  rst : Nat
  stride : Nat := 4096
  cnt : Nat := 1
  cnt2 : Nat := 1
  rsts : List Nat := []
deriving DecidableEq, Repr

/-- The number of bits of a field. -/
def Fld.width (f : Fld) : Nat := f.hi + 1 - f.lo

/-- The BAR0 address of the register of the field, at indices `i` and `j`. -/
def Fld.addr (f : Fld) (page i j : Nat) : Nat := page + f.off + f.stride * i + 4 * j

/-- The key under which the field is kept: its register's address and its lowest bit. -/
def Fld.key (f : Fld) (page i j : Nat) : Nat := f.addr page i j * 32 + f.lo

/-- The reset value of the field at index `i`. -/
def Fld.reset (f : Fld) (i : Nat) : Nat := f.rsts.getD i f.rst

/-- The indices at which a register offset is one of the field's registers. -/
def Fld.indexAt (f : Fld) (off : Nat) : Option (Nat × Nat) :=
  if off < f.off then none
  else
    let d := off - f.off
    let i := d / f.stride
    let r := d % f.stride
    if i < f.cnt ∧ r % 4 = 0 ∧ r / 4 < f.cnt2 then some (i, r / 4) else none

namespace Sp

variable {α : Type}

/-- What the map holds at key `k`, or `d` where it lists nothing. -/
def get (d : α) : List (Nat × α) → Nat → α
  | [], _ => d
  | e :: t, k => if e.1 = k then e.2 else get d t k

/-- The map with the value `v` listed at key `k`, in the place that keeps the keys rising. -/
def ins : List (Nat × α) → Nat → α → List (Nat × α)
  | [], k, v => [(k, v)]
  | e :: t, k, v =>
    if e.1 < k then e :: ins t k v
    else if e.1 = k then (k, v) :: t
    else (k, v) :: e :: t

/-- The map with nothing listed at key `k`. -/
def del (m : List (Nat × α)) (k : Nat) : List (Nat × α) := m.filter (fun e => e.1 != k)

/-- The map with `v` at key `k`; the value an absent key reads as is not listed. -/
def set [DecidableEq α] (d : α) (m : List (Nat × α)) (k : Nat) (v : α) : List (Nat × α) :=
  if v = d then del m k else ins m k v

/-- The map with every key of `[lo, hi)` absent. -/
def clearRange (m : List (Nat × α)) (lo hi : Nat) : List (Nat × α) :=
  m.filter (fun e => e.1 < lo || hi ≤ e.1)

/-- The keys rise strictly from above `b`. -/
def sortedFrom : Nat → List (Nat × α) → Bool
  | _, [] => true
  | b, e :: t => decide (b ≤ e.1) && sortedFrom (e.1 + 1) t

/-- The canonical form: keys strictly rising, and no entry equal to the value of an absent key. -/
def wf [DecidableEq α] (d : α) (m : List (Nat × α)) : Bool := sortedFrom 0 m && m.all (fun e => e.2 ≠ d)

end Sp

end Sys2Proof.Machine
end

