-- ==== Sys2Proof/Machine/RegMap.lean ====
section
/-! DEFINITION. Every field of every BAR0 page, as the register tables of the spec list them: offset, bits, access type
(R7) and reset value, grouped by the kind of page that holds it, with the event and fault bits of each page. -/

namespace Sys2Proof.Machine

namespace R

/-! Fields of page kind HDR. -/
/-- R42, register PG_ID. -/
def PG_TYPE : Fld := { off := 0x0, hi := 31, lo := 20, acc := .ro, rst := 0x0 }
/-- R42, register PG_ID. -/
def PG_INST : Fld := { off := 0x0, hi := 19, lo := 12, acc := .ro, rst := 0x0 }
/-- R42, register PG_ID. -/
def PG_FMT : Fld := { off := 0x0, hi := 11, lo := 8, acc := .ro, rst := 0x1 }
/-- R42, register PG_ID. -/
def PG_INDEX : Fld := { off := 0x0, hi := 7, lo := 0, acc := .ro, rst := 0x0 }
/-- R42, register PG_REV. -/
def PG_STEP : Fld := { off := 0x4, hi := 31, lo := 24, acc := .ro, rst := 0x0 }
/-- R42, register PG_REV. -/
def PG_COMPAT : Fld := { off := 0x4, hi := 23, lo := 16, acc := .ro, rst := 0x1 }
/-- R42, register PG_REV. -/
def PG_BLKREV : Fld := { off := 0x4, hi := 15, lo := 0, acc := .ro, rst := 0x0 }
/-- R42, register PG_CAP0. -/
def PG_CAP_WINDOW : Fld := { off := 0x8, hi := 31, lo := 31, acc := .ro, rst := 0x0 }
/-- R42, register PG_CAP0. -/
def PG_CAP_RWS : Fld := { off := 0x8, hi := 30, lo := 30, acc := .ro, rst := 0x0 }
/-- R42, register PG_CAP0. -/
def PG_CAP_RWL : Fld := { off := 0x8, hi := 29, lo := 29, acc := .ro, rst := 0x0 }
/-- R42, register PG_CAP0. -/
def PG_CAP_BLK0 : Fld := { off := 0x8, hi := 28, lo := 0, acc := .ro, rst := 0x0 }
/-- R42, register PG_CAP1. -/
def PG_CAP_BLK1 : Fld := { off := 0xC, hi := 31, lo := 0, acc := .ro, rst := 0x0 }
/-- R42, register PG_CTRL. -/
def PG_SRST : Fld := { off := 0x10, hi := 1, lo := 1, acc := .wo, rst := 0x0 }
/-- R42, register PG_CTRL. -/
def PG_EN : Fld := { off := 0x10, hi := 0, lo := 0, acc := .rw, rst := 0x0 }
/-- R42, register PG_STAT. -/
def PG_STAT_BLK : Fld := { off := 0x14, hi := 31, lo := 16, acc := .ro, rst := 0x0 }
/-- R42, register PG_STAT. -/
def PG_LOCKED : Fld := { off := 0x14, hi := 2, lo := 2, acc := .ro, rst := 0x0 }
/-- R42, register PG_STAT. -/
def PG_RESET_BUSY : Fld := { off := 0x14, hi := 1, lo := 1, acc := .ro, rst := 0x0 }
/-- R42, register PG_STAT. -/
def PG_READY : Fld := { off := 0x14, hi := 0, lo := 0, acc := .ro, rst := 0x0 }
/-- R42, register PG_PWR. -/
def PG_PWR_STATE : Fld := { off := 0x18, hi := 11, lo := 8, acc := .ro, rst := 0x0 }
/-- R42, register PG_PWR. -/
def PG_PWR_REQ : Fld := { off := 0x18, hi := 3, lo := 0, acc := .rw, rst := 0x0 }
/-- R42, register EVT_PEND. -/
def EVT_PEND : Fld := { off := 0x20, hi := 31, lo := 0, acc := .w1c, rst := 0x0 }
/-- R42, register EVT_EN. -/
def EVT_EN : Fld := { off := 0x24, hi := 31, lo := 0, acc := .rw, rst := 0x0 }
/-- R42, register EVT_CLASS. -/
def EVT_CLASS : Fld := { off := 0x28, hi := 31, lo := 0, acc := .rw, rst := 0x0 }
/-- R42, register EVT_INJ. -/
def EVT_INJ : Fld := { off := 0x2C, hi := 31, lo := 0, acc := .wo, rst := 0x0 }
/-- R42, register EVT_OVR. -/
def EVT_OVR : Fld := { off := 0x30, hi := 31, lo := 0, acc := .rc, rst := 0x0 }
/-- R42, register FLT_STAT. -/
def FLT_LOCK_VIOL : Fld := { off := 0x40, hi := 31, lo := 31, acc := .w1c, rst := 0x0 }
/-- R42, register FLT_STAT. -/
def FLT_ACCESS : Fld := { off := 0x40, hi := 30, lo := 30, acc := .w1c, rst := 0x0 }
/-- R42, register FLT_STAT. -/
def FLT_REG_PARITY : Fld := { off := 0x40, hi := 29, lo := 29, acc := .w1c, rst := 0x0 }
/-- R42, register FLT_STAT. -/
def FLT_BLK : Fld := { off := 0x40, hi := 27, lo := 0, acc := .w1c, rst := 0x0 }
/-- R42, register FLT_EN. -/
def FLT_EN : Fld := { off := 0x44, hi := 31, lo := 0, acc := .rw, rst := 0xE0000000 }
/-- R42, register FLT_INJ. -/
def FLT_INJ : Fld := { off := 0x48, hi := 31, lo := 0, acc := .wo, rst := 0x0 }
/-- R42, register FLT_SEV. -/
def FLT_SEV : Fld := { off := 0x4C, hi := 31, lo := 0, acc := .rw, rst := 0x0 }
/-- R42, register PG_TXN. -/
def PG_TXN_SLOTS : Fld := { off := 0x60, hi := 23, lo := 16, acc := .ro, rst := 0x0 }
/-- R42, register PG_TXN. -/
def PG_TXN_COUNT : Fld := { off := 0x60, hi := 15, lo := 0, acc := .ro, rst := 0x0 }
/-- R42, register PG_LOCK. -/
def PG_LOCK_SET : Fld := { off := 0x64, hi := 0, lo := 0, acc := .w1s, rst := 0x0 }

/-! Fields of page kind lamp. -/
/-- R316, register TOD_CTRL. -/
def TOD_VALID_SET : Fld := { off := 0x80, hi := 7, lo := 7, acc := .wo, rst := 0x0 }
/-- R316, register TOD_CTRL. -/
def TOD_VALID_CLR : Fld := { off := 0x80, hi := 6, lo := 6, acc := .wo, rst := 0x0 }
/-- R316, register TOD_CTRL. -/
def TOD_PPS_REQ : Fld := { off := 0x80, hi := 5, lo := 5, acc := .rw, rst := 0x0 }
/-- R316, register TOD_CTRL. -/
def TOD_STEP : Fld := { off := 0x80, hi := 4, lo := 4, acc := .wo, rst := 0x0 }
/-- R316, register TOD_CTRL. -/
def TOD_PPS_OUT_EN : Fld := { off := 0x80, hi := 3, lo := 3, acc := .rw, rst := 0x0 }
/-- R316, register TOD_CTRL. -/
def TOD_VALID : Fld := { off := 0x80, hi := 0, lo := 0, acc := .ro, rst := 0x0 }
/-- R316, register TOD_SET_SECHI. -/
def TOD_SET_SECHI : Fld := { off := 0x84, hi := 15, lo := 0, acc := .rw, rst := 0x0 }
/-- R316, register TOD_SET_SECLO. -/
def TOD_SET_SECLO : Fld := { off := 0x88, hi := 31, lo := 0, acc := .rw, rst := 0x0 }
/-- R316, register TOD_SET_NS. -/
def TOD_SET_NS : Fld := { off := 0x8C, hi := 29, lo := 0, acc := .rw, rst := 0x0 }
/-- R316, register TOD_RD_FRAC. -/
def TOD_RD_FRAC : Fld := { off := 0x90, hi := 15, lo := 0, acc := .ro, rst := 0x0 }
/-- R316, register TOD_RD_NS. -/
def TOD_RD_NS : Fld := { off := 0x94, hi := 29, lo := 0, acc := .ro, rst := 0x0 }
/-- R316, register TOD_RD_SECLO. -/
def TOD_RD_SECLO : Fld := { off := 0x98, hi := 31, lo := 0, acc := .ro, rst := 0x0 }
/-- R316, register TOD_RD_SECHI. -/
def TOD_RD_SECHI : Fld := { off := 0x9C, hi := 15, lo := 0, acc := .ro, rst := 0x0 }
/-- R316, register TOD_FREQ_ADJ. -/
def TOD_FREQ_ADJ : Fld := { off := 0xA0, hi := 31, lo := 0, acc := .rw, rst := 0x0 }
/-- R316, register TOD_PHASE_ADJ. -/
def TOD_PHASE_ADJ : Fld := { off := 0xA4, hi := 31, lo := 0, acc := .rw, rst := 0x0 }
/-- R316, register TOD_SLEW. -/
def TOD_SLEW : Fld := { off := 0xA8, hi := 9, lo := 0, acc := .rw, rst := 0x64 }
/-- R316, register TOD_PPS_ADJ. -/
def TOD_PPS_IN_ADJ : Fld := { off := 0xAC, hi := 31, lo := 16, acc := .rw, rst := 0x0 }
/-- R316, register TOD_PPS_ADJ. -/
def TOD_PPS_OUT_ADJ : Fld := { off := 0xAC, hi := 15, lo := 0, acc := .rw, rst := 0x0 }
/-- R316, register TOD_PPS_CAP_NS. -/
def TOD_PPS_CAP_NS : Fld := { off := 0xB0, hi := 29, lo := 0, acc := .ro, rst := 0x0 }
/-- R316, register TOD_PPS_CAP_SEC. -/
def TOD_PPS_CAP_SEC : Fld := { off := 0xB4, hi := 31, lo := 0, acc := .ro, rst := 0x0 }
/-- R316, register TOD_PPS_WIDTH. -/
def TOD_PPS_WIDTH : Fld := { off := 0xB8, hi := 15, lo := 0, acc := .rw, rst := 0x2710 }
/-- R316, register TH_CTRL. -/
def TH_HOT : Fld := { off := 0xC0, hi := 31, lo := 24, acc := .rw, rst := 0x64 }
/-- R316, register TH_CTRL. -/
def TH_HYST : Fld := { off := 0xC0, hi := 23, lo := 16, acc := .rw, rst := 0x5 }
/-- R316, register TH_CTRL. -/
def TH_CAP : Fld := { off := 0xC0, hi := 1, lo := 0, acc := .rw, rst := 0x0 }
/-- R316, register TH_PWR_LIMIT. -/
def TH_PWR_LIMIT : Fld := { off := 0xC4, hi := 10, lo := 0, acc := .rw, rst := 0x0 }
/-- R316, register TH_STAT. -/
def TH_TRIP_LAST : Fld := { off := 0xC8, hi := 31, lo := 31, acc := .w1c, rst := 0x0 }
/-- R316, register TH_STAT. -/
def TH_THROTTLED : Fld := { off := 0xC8, hi := 30, lo := 30, acc := .ro, rst := 0x0 }
/-- R316, register TH_STAT. -/
def TH_JMAX : Fld := { off := 0xC8, hi := 15, lo := 0, acc := .ro, rst := 0x0 }
/-- R316, register TH_PWR_EST. -/
def TH_PWR_EST : Fld := { off := 0xCC, hi := 10, lo := 0, acc := .ro, rst := 0x0 }
/-- R316, register TEMPi. -/
def TEMP_OK : Fld := { off := 0x100, hi := 31, lo := 31, acc := .ro, rst := 0x0, stride := 0x4, cnt := 24 }
/-- R316, register TEMPi. -/
def TEMP : Fld := { off := 0x100, hi := 15, lo := 0, acc := .ro, rst := 0x0, stride := 0x4, cnt := 24 }
/-- R316, register VMONr. -/
def VMON_OK : Fld := { off := 0x180, hi := 31, lo := 31, acc := .ro, rst := 0x0, stride := 0x4, cnt := 16 }
/-- R316, register VMONr. -/
def VMON : Fld := { off := 0x180, hi := 15, lo := 0, acc := .ro, rst := 0x0, stride := 0x4, cnt := 16 }
/-- R316, register GLW_FIRED_LO. -/
def GLW_FIRED_LO : Fld := { off := 0x1C0, hi := 31, lo := 0, acc := .w1c, rst := 0x0 }
/-- R316, register GLW_FIRED_HI. -/
def GLW_FIRED_HI : Fld := { off := 0x1C4, hi := 31, lo := 0, acc := .w1c, rst := 0x0 }

/-! Fields of page kind clocks. -/
/-- R317, register CLK_STATn. -/
def CLK_FREQ_MHZ : Fld := { off := 0x80, hi := 31, lo := 16, acc := .ro, rst := 0x0, stride := 0x4, cnt := 18 }
/-- R317, register CLK_STATn. -/
def CLK_RUN : Fld := { off := 0x80, hi := 2, lo := 2, acc := .ro, rst := 0x0, stride := 0x4, cnt := 18 }
/-- R317, register CLK_STATn. -/
def CLK_LOL_SEEN : Fld := { off := 0x80, hi := 1, lo := 1, acc := .w1c, rst := 0x0, stride := 0x4, cnt := 18 }
/-- R317, register CLK_STATn. -/
def CLK_LOCK : Fld := { off := 0x80, hi := 0, lo := 0, acc := .ro, rst := 0x0, stride := 0x4, cnt := 18 }
/-- R317, register SYNCE_OUTk. -/
def SYNCE_EN : Fld := { off := 0x100, hi := 31, lo := 31, acc := .rw, rst := 0x0, stride := 0x4, cnt := 4 }
/-- R317, register SYNCE_OUTk. -/
def SYNCE_SQ_EN : Fld := { off := 0x100, hi := 30, lo := 30, acc := .rw, rst := 0x1, stride := 0x4, cnt := 4 }
/-- R317, register SYNCE_OUTk. -/
def SYNCE_SQUELCHED : Fld := { off := 0x100, hi := 29, lo := 29, acc := .ro, rst := 0x0, stride := 0x4, cnt := 4 }
/-- R317, register SYNCE_OUTk. -/
def SYNCE_FREQ : Fld := { off := 0x100, hi := 28, lo := 28, acc := .rw, rst := 0x0, stride := 0x4, cnt := 4 }
/-- R317, register SYNCE_OUTk. -/
def SYNCE_LANE : Fld := { off := 0x100, hi := 8, lo := 0, acc := .rw, rst := 0x0, stride := 0x4, cnt := 4 }
/-- R317, register CLK_INJ. -/
def CLK_INJ_GO : Fld := { off := 0x110, hi := 31, lo := 31, acc := .wo, rst := 0x0 }
/-- R317, register CLK_INJ. -/
def CLK_INJ_DOM : Fld := { off := 0x110, hi := 4, lo := 0, acc := .rw, rst := 0x0 }

/-! Fields of page kind governor. -/
/-- R36, register GOV_LOOP_CTRLn. -/
def GOV_MIN_INTERVAL : Fld := { off := 0x80, hi := 23, lo := 8, acc := .rw, rst := 0x0, stride := 0x4, cnt := 6 }
/-- R36, register GOV_LOOP_CTRLn. -/
def GOV_LOG_ADVISE : Fld := { off := 0x80, hi := 4, lo := 4, acc := .rw, rst := 0x0, stride := 0x4, cnt := 6 }
/-- R36, register GOV_LOOP_CTRLn. -/
def GOV_LOG_EN : Fld := { off := 0x80, hi := 3, lo := 3, acc := .rw, rst := 0x1, stride := 0x4, cnt := 6 }
/-- R36, register GOV_LOOP_CTRLn. -/
def GOV_MODE : Fld := { off := 0x80, hi := 1, lo := 0, acc := .rw, rst := 0x0, stride := 0x4, cnt := 6 }
/-- R36, register GOV_LOOP_STATn. -/
def GOV_ACT_CNT : Fld := { off := 0xA0, hi := 31, lo := 16, acc := .ro, rst := 0x0, stride := 0x4, cnt := 8 }
/-- R36, register GOV_LOOP_STATn. -/
def GOV_LAST_REASON : Fld := { off := 0xA0, hi := 15, lo := 8, acc := .ro, rst := 0x0, stride := 0x4, cnt := 8 }
/-- R36, register GOV_LOOP_STATn. -/
def GOV_BUSY : Fld := { off := 0xA0, hi := 1, lo := 1, acc := .ro, rst := 0x0, stride := 0x4, cnt := 8 }
/-- R36, register GOV_LOOP_STATn. -/
def GOV_MODE_EFF : Fld := { off := 0xA0, hi := 0, lo := 0, acc := .ro, rst := 0x0, stride := 0x4, cnt := 8 }
/-- R36, register GOV_LOG_WR. -/
def GOV_LOG_WR : Fld := { off := 0xC0, hi := 31, lo := 0, acc := .ro, rst := 0x0 }
/-- R36, register GOV_LOG_RD. -/
def GOV_LOG_RD : Fld := { off := 0xC4, hi := 31, lo := 0, acc := .rw, rst := 0x0 }
/-- R36, register GOV_LOG_LOST. -/
def GOV_LOG_LOST : Fld := { off := 0xC8, hi := 31, lo := 0, acc := .rc, rst := 0x0 }
/-- R36, register GOV_LOG_WIN. -/
def GOV_LOG_WIN : Fld := { off := 0xCC, hi := 5, lo := 0, acc := .rw, rst := 0x0 }
/-- R36, register GOV_HEARTBEAT. -/
def GOV_HEARTBEAT : Fld := { off := 0xD0, hi := 31, lo := 0, acc := .rw, rst := 0x0 }

/-! Fields of page kind cairn. -/
/-- R70, register CAIRN_EPOCH. -/
def CAIRN_FLIP_CNT : Fld := { off := 0x80, hi := 31, lo := 16, acc := .ro, rst := 0x0 }
/-- R70, register CAIRN_EPOCH. -/
def CAIRN_EPOCH_CUR : Fld := { off := 0x80, hi := 1, lo := 0, acc := .ro, rst := 0x0 }
/-- R70, register CAIRN_MYSLOT. -/
def CAIRN_MYSLOT : Fld := { off := 0x84, hi := 3, lo := 0, acc := .ro, rst := 0xF }
/-- R70, register CAIRN_VS_USED. -/
def CAIRN_VS_USED : Fld := { off := 0x88, hi := 18, lo := 0, acc := .ro, rst := 0x0 }
/-- R70, register CAIRN_WAIT_LIMIT. -/
def CAIRN_WAIT_LIMIT : Fld := { off := 0x8C, hi := 15, lo := 0, acc := .rw, rst := 0x64 }
/-- R70, register CAIRN_CMDn. -/
def CAIRN_CMD : Fld := { off := 0x100, hi := 2, lo := 0, acc := .wo, rst := 0x0, stride := 0x40, cnt := 8 }
/-- R70, register CAIRN_MODEn. -/
def CAIRN_MODE : Fld := { off := 0x104, hi := 1, lo := 0, acc := .rw, rst := 0x0, stride := 0x40, cnt := 8 }
/-- R70, register CAIRN_TNSn. -/
def CAIRN_TNS : Fld := { off := 0x108, hi := 29, lo := 0, acc := .rw, rst := 0x0, stride := 0x40, cnt := 8 }
/-- R70, register CAIRN_TSECLOn. -/
def CAIRN_TSECLO : Fld := { off := 0x10C, hi := 31, lo := 0, acc := .rw, rst := 0x0, stride := 0x40, cnt := 8 }
/-- R70, register CAIRN_TSECHIn. -/
def CAIRN_TSECHI : Fld := { off := 0x110, hi := 15, lo := 0, acc := .rw, rst := 0x0, stride := 0x40, cnt := 8 }
/-- R70, register CAIRN_STATn. -/
def CAIRN_STATE : Fld := { off := 0x114, hi := 31, lo := 28, acc := .ro, rst := 0x0, stride := 0x40, cnt := 8 }
/-- R70, register CAIRN_STATn. -/
def CAIRN_RESULT : Fld := { off := 0x114, hi := 27, lo := 24, acc := .ro, rst := 0x0, stride := 0x40, cnt := 8 }
/-- R70, register CAIRN_STATn. -/
def CAIRN_EPOCH_TO : Fld := { off := 0x114, hi := 21, lo := 20, acc := .ro, rst := 0x0, stride := 0x40, cnt := 8 }
/-- R70, register CAIRN_STATn. -/
def CAIRN_OWNER : Fld := { off := 0x114, hi := 9, lo := 0, acc := .ro, rst := 0x0, stride := 0x40, cnt := 8 }
/-- R70, register CAIRN_CNTn. -/
def CAIRN_REG_CNT : Fld := { off := 0x118, hi := 29, lo := 17, acc := .ro, rst := 0x0, stride := 0x40, cnt := 8 }
/-- R70, register CAIRN_CNTn. -/
def CAIRN_ENT_CNT : Fld := { off := 0x118, hi := 16, lo := 0, acc := .ro, rst := 0x0, stride := 0x40, cnt := 8 }
/-- R70, register CAIRN_ERRADDRn. -/
def CAIRN_ERRADDR : Fld := { off := 0x11C, hi := 31, lo := 0, acc := .ro, rst := 0x0, stride := 0x40, cnt := 8 }
/-- R70, register CAIRN_APSECn. -/
def CAIRN_APSEC : Fld := { off := 0x120, hi := 31, lo := 0, acc := .ro, rst := 0x0, stride := 0x40, cnt := 8 }
/-- R70, register CAIRN_APNSn. -/
def CAIRN_APNS : Fld := { off := 0x124, hi := 29, lo := 0, acc := .ro, rst := 0x0, stride := 0x40, cnt := 8 }
/-- R70, register CAIRN_LATEn. -/
def CAIRN_LATE : Fld := { off := 0x128, hi := 31, lo := 0, acc := .ro, rst := 0x0, stride := 0x40, cnt := 8 }

/-! Fields of page kind icu. -/
/-- R455, register ICU_TGT_EN_LO. -/
def ICU_TGT_EN_LO : Fld := { off := 0x80, hi := 31, lo := 0, acc := .rw, rst := 0x0 }
/-- R455, register ICU_TGT_EN_HI. -/
def ICU_TGT_EN_HI : Fld := { off := 0x84, hi := 31, lo := 0, acc := .rw, rst := 0x0 }
/-- R455, register ICU_TGT_SLEEP_LO. -/
def ICU_TGT_SLEEP_LO : Fld := { off := 0x88, hi := 31, lo := 0, acc := .rw, rst := 0x0 }
/-- R455, register ICU_TGT_SLEEP_HI. -/
def ICU_TGT_SLEEP_HI : Fld := { off := 0x8C, hi := 31, lo := 0, acc := .ro, rst := 0x0 }
/-- R455, register ICU_ACK. -/
def ICU_ACK_TGT : Fld := { off := 0x90, hi := 21, lo := 16, acc := .wo, rst := 0x0 }
/-- R455, register ICU_ACK. -/
def ICU_ACK_SRC : Fld := { off := 0x90, hi := 11, lo := 0, acc := .wo, rst := 0x0 }
/-- R455, register ICU_MASK_SET. -/
def ICU_MASK_SET : Fld := { off := 0x94, hi := 11, lo := 0, acc := .wo, rst := 0x0 }
/-- R455, register ICU_MASK_CLR. -/
def ICU_MASK_CLR : Fld := { off := 0x98, hi := 11, lo := 0, acc := .wo, rst := 0x0 }
/-- R455, register ICU_WIN. -/
def ICU_WIN : Fld := { off := 0x9C, hi := 5, lo := 0, acc := .rw, rst := 0x0 }
/-- R455, register ICU_DELIV. -/
def ICU_DELIV : Fld := { off := 0xA0, hi := 31, lo := 0, acc := .rc, rst := 0x0 }
/-- R455, register ICU_COALESCE. -/
def ICU_COALESCE : Fld := { off := 0xA4, hi := 31, lo := 0, acc := .rc, rst := 0x0 }
/-- R455, register ICU_NOTGT. -/
def ICU_NOTGT : Fld := { off := 0xA8, hi := 31, lo := 0, acc := .rc, rst := 0x0 }
/-- R455, register ICU_REQUEUE. -/
def ICU_REQUEUE : Fld := { off := 0xAC, hi := 31, lo := 0, acc := .rc, rst := 0x0 }
/-- R455, register ICU_BADACK. -/
def ICU_BADACK : Fld := { off := 0xB0, hi := 31, lo := 0, acc := .rc, rst := 0x0 }
/-- R455, register ICU_NEXTt. -/
def ICU_NEXT_VALID : Fld := { off := 0x200, hi := 31, lo := 31, acc := .ro, rst := 0x0, stride := 0x4, cnt := 64 }
/-- R455, register ICU_NEXTt. -/
def ICU_NEXT_SRC : Fld := { off := 0x200, hi := 11, lo := 0, acc := .ro, rst := 0x0, stride := 0x4, cnt := 64 }

/-! Fields of page kind fmu. -/
/-- R469, register FMU_CTRL. -/
def FMU_FATAL_ACT : Fld := { off := 0x80, hi := 1, lo := 0, acc := .rw, rst := 0x0 }
/-- R469, register FMU_REC_WR. -/
def FMU_REC_WR : Fld := { off := 0x84, hi := 31, lo := 0, acc := .ro, rst := 0x0 }
/-- R469, register FMU_REC_RD. -/
def FMU_REC_RD : Fld := { off := 0x88, hi := 31, lo := 0, acc := .rw, rst := 0x0 }
/-- R469, register FMU_REC_LOST. -/
def FMU_REC_LOST : Fld := { off := 0x8C, hi := 31, lo := 0, acc := .rc, rst := 0x0 }
/-- R469, register FMU_WIN. -/
def FMU_WIN : Fld := { off := 0x90, hi := 4, lo := 0, acc := .rw, rst := 0x0 }
/-- R469, register FMU_STAT. -/
def FMU_FAULT_N : Fld := { off := 0x94, hi := 31, lo := 31, acc := .ro, rst := 0x0 }
/-- R469, register FMU_STAT. -/
def FMU_TRIP_HOLD : Fld := { off := 0x94, hi := 30, lo := 30, acc := .ro, rst := 0x0 }
/-- R469, register FMU_STAT. -/
def FMU_FAULT_PAGES : Fld := { off := 0x94, hi := 11, lo := 0, acc := .ro, rst := 0x0 }
/-- R469, register FMU_MERGE_TOTAL. -/
def FMU_MERGE_TOTAL : Fld := { off := 0x98, hi := 31, lo := 0, acc := .rc, rst := 0x0 }
/-- R469, register FMU_FE_STAT. -/
def FMU_FE_VALID : Fld := { off := 0xA0, hi := 31, lo := 31, acc := .w1c, rst := 0x0 }
/-- R469, register FMU_FE_STAT. -/
def FMU_FE_FATAL : Fld := { off := 0xA0, hi := 30, lo := 30, acc := .ro, rst := 0x0 }
/-- R469, register FMU_FE_STAT. -/
def FMU_FE_INJ : Fld := { off := 0xA0, hi := 29, lo := 29, acc := .ro, rst := 0x0 }
/-- R469, register FMU_FE_STAT. -/
def FMU_FE_TOD_VALID : Fld := { off := 0xA0, hi := 28, lo := 28, acc := .ro, rst := 0x0 }
/-- R469, register FMU_FE_STAT. -/
def FMU_FE_ACCESS : Fld := { off := 0xA0, hi := 27, lo := 24, acc := .ro, rst := 0x0 }
/-- R469, register FMU_FE_STAT. -/
def FMU_FE_SPACE : Fld := { off := 0xA0, hi := 23, lo := 20, acc := .ro, rst := 0x0 }
/-- R469, register FMU_FE_STAT. -/
def FMU_FE_BIT : Fld := { off := 0xA0, hi := 16, lo := 12, acc := .ro, rst := 0x0 }
/-- R469, register FMU_FE_STAT. -/
def FMU_FE_PAGE : Fld := { off := 0xA0, hi := 11, lo := 0, acc := .ro, rst := 0x0 }
/-- R469, register FMU_FE_MASTER. -/
def FMU_FE_MASTER : Fld := { off := 0xA4, hi := 9, lo := 0, acc := .ro, rst := 0x0 }
/-- R469, register FMU_FE_ADDR_LO. -/
def FMU_FE_ADDR_LO : Fld := { off := 0xA8, hi := 31, lo := 0, acc := .ro, rst := 0x0 }
/-- R469, register FMU_FE_ADDR_HI. -/
def FMU_FE_ADDR_HI : Fld := { off := 0xAC, hi := 31, lo := 0, acc := .ro, rst := 0x0 }
/-- R469, register FMU_FE_SEC. -/
def FMU_FE_SEC : Fld := { off := 0xB0, hi := 31, lo := 0, acc := .ro, rst := 0x0 }
/-- R469, register FMU_FE_NS. -/
def FMU_FE_NS : Fld := { off := 0xB4, hi := 29, lo := 0, acc := .ro, rst := 0x0 }
/-- R469, register FMU_FE_SEQ. -/
def FMU_FE_SEQ : Fld := { off := 0xB8, hi := 31, lo := 0, acc := .ro, rst := 0x0 }
/-- R469, register FMU_FE_DETAIL. -/
def FMU_FE_DETAIL : Fld := { off := 0xBC, hi := 31, lo := 0, acc := .ro, rst := 0x0 }

/-! Fields of page kind survey. -/
/-- R476, register SVY_CTRL. -/
def SVY_RUN : Fld := { off := 0x80, hi := 31, lo := 31, acc := .rw, rst := 0x1 }
/-- R476, register SVY_CTRL. -/
def SVY_LATCH : Fld := { off := 0x80, hi := 30, lo := 30, acc := .wo, rst := 0x0 }
/-- R476, register SVY_CTRL. -/
def SVY_WIN_US : Fld := { off := 0x80, hi := 15, lo := 0, acc := .rw, rst := 0x3E8 }
/-- R476, register SVY_TEL. -/
def SVY_TEL_EN : Fld := { off := 0x84, hi := 31, lo := 31, acc := .rw, rst := 0x0 }
/-- R476, register SVY_TEL. -/
def SVY_TEL_RING : Fld := { off := 0x84, hi := 7, lo := 0, acc := .rw, rst := 0xFF }
/-- R476, register SVY_USER_RD. -/
def SVY_USER_RD : Fld := { off := 0x88, hi := 31, lo := 0, acc := .rwl, rst := 0x0, stride := 0x4, cnt := 2 }
/-- R476, register SVY_USER_CFG. -/
def SVY_USER_CFG : Fld := { off := 0x90, hi := 31, lo := 0, acc := .rwl, rst := 0x0, stride := 0x4, cnt := 2 }
/-- R476, register SVY_WRAP. -/
def SVY_WRAP : Fld := { off := 0x98, hi := 31, lo := 0, acc := .w1c, rst := 0x0, stride := 0x4, cnt := 2 }
/-- R476, register SVY_LATCH_SEC. -/
def SVY_LATCH_SEC : Fld := { off := 0xA0, hi := 31, lo := 0, acc := .ro, rst := 0x0 }
/-- R476, register SVY_LATCH_NS. -/
def SVY_LATCH_NS : Fld := { off := 0xA4, hi := 29, lo := 0, acc := .ro, rst := 0x0 }
/-- R476, register SVY_TELSEL. -/
def SVY_TELSEL : Fld := { off := 0xA8, hi := 31, lo := 0, acc := .rw, rst := 0x0, stride := 0x4, cnt := 2 }

/-! Fields of page kind galPower. -/
/-- R318, register GAL_PWR_CFG. -/
def GAL_IDLE_NS : Fld := { off := 0x80, hi := 31, lo := 16, acc := .rw, rst := 0x3E8 }
/-- R318, register GAL_PWR_CFG. -/
def GAL_PARK_QUIET : Fld := { off := 0x80, hi := 15, lo := 8, acc := .rw, rst := 0x64 }
/-- R318, register GAL_PWR_CFG. -/
def GAL_ENV_REST : Fld := { off := 0x80, hi := 3, lo := 2, acc := .rw, rst := 0x0 }
/-- R318, register GAL_PWR_CFG. -/
def GAL_ENV_STEP : Fld := { off := 0x80, hi := 1, lo := 0, acc := .rw, rst := 0x0 }
/-- R318, register GAL_LOAD_CFG. -/
def GAL_NAP_THR : Fld := { off := 0x84, hi := 31, lo := 16, acc := .rw, rst := 0xC8 }
/-- R318, register GAL_LOAD_CFG. -/
def GAL_HEADROOM : Fld := { off := 0x84, hi := 15, lo := 8, acc := .rw, rst := 0x19 }
/-- R318, register GAL_LOAD_CFG. -/
def GAL_DWELL : Fld := { off := 0x84, hi := 7, lo := 0, acc := .rw, rst := 0xA }
/-- R318, register GAL_PWR_STAT. -/
def GAL_WAKE_CAUSE : Fld := { off := 0x88, hi := 19, lo := 16, acc := .ro, rst := 0x0 }
/-- R318, register GAL_PWR_STAT. -/
def GAL_REST_BLOCK : Fld := { off := 0x88, hi := 2, lo := 0, acc := .ro, rst := 0x0 }
/-- R318, register GAL_WAKE_FILL. -/
def GAL_FILL_NAP : Fld := { off := 0x8C, hi := 31, lo := 16, acc := .ro, rst := 0x0 }
/-- R318, register GAL_WAKE_FILL. -/
def GAL_FILL_DOZE : Fld := { off := 0x8C, hi := 15, lo := 0, acc := .ro, rst := 0x0 }
/-- R318, register GAL_PARK_OK_LO. -/
def GAL_PARK_OK_LO : Fld := { off := 0x90, hi := 31, lo := 0, acc := .rw, rst := 0x0 }
/-- R318, register GAL_PARK_OK_HI. -/
def GAL_PARK_OK_HI : Fld := { off := 0x94, hi := 31, lo := 0, acc := .rw, rst := 0x0 }
/-- R318, register GAL_WAKE_MAX. -/
def GAL_WAKE_MAX : Fld := { off := 0x98, hi := 31, lo := 0, acc := .rc, rst := 0x0 }

/-! Fields of page kind preclass. -/
/-- R98, register ENT_THRp. -/
def ENT_THR : Fld := { off := 0x80, hi := 14, lo := 0, acc := .rw, rst := 0x0, stride := 0x4, cnt := 4, rsts := [13824, 12288, 11264, 10240] }
/-- R98, register ENT_LEVEL. -/
def ENT_OVERLOAD : Fld := { off := 0x90, hi := 31, lo := 31, acc := .ro, rst := 0x0 }
/-- R98, register ENT_LEVEL. -/
def ENT_PEAK : Fld := { off := 0x90, hi := 30, lo := 16, acc := .rc, rst := 0x0 }
/-- R98, register ENT_LEVEL. -/
def ENT_OCC : Fld := { off := 0x90, hi := 14, lo := 0, acc := .ro, rst := 0x0 }
/-- R98, register ENT_OVL_HOLD. -/
def ENT_OVL_HOLD : Fld := { off := 0x94, hi := 15, lo := 0, acc := .rw, rst := 0x3E8 }
/-- R98, register PRE_DSCP_MAPn. -/
def PRE_DSCP_MAP : Fld := { off := 0xA0, hi := 31, lo := 0, acc := .rw, rst := 0xFFFFFFFF, stride := 0x4, cnt := 4 }
/-- R98, register PRE_PCP_TC_MAP. -/
def PRE_PCP_MAP : Fld := { off := 0xB0, hi := 31, lo := 16, acc := .rw, rst := 0xFFFF }
/-- R98, register PRE_PCP_TC_MAP. -/
def PRE_TC_MAP : Fld := { off := 0xB0, hi := 15, lo := 0, acc := .rw, rst := 0xFFFF }
/-- R98, register PRE_BUILTIN. -/
def PRE_BUILTIN : Fld := { off := 0xB4, hi := 9, lo := 0, acc := .rw, rst := 0x3FF }
/-- R98, register GAL_DISP_W. -/
def GAL_DISP_RECIRC : Fld := { off := 0xC0, hi := 15, lo := 8, acc := .rw, rst := 0x8 }
/-- R98, register GAL_DISP_W. -/
def GAL_DISP_INJ : Fld := { off := 0xC0, hi := 7, lo := 0, acc := .rw, rst := 0x1 }

/-! Fields of page kind lane. -/
/-- R97, register LANE_CTRL. -/
def LANE_TX_POL : Fld := { off := 0x80, hi := 7, lo := 7, acc := .rwl, rst := 0x0 }
/-- R97, register LANE_CTRL. -/
def LANE_RX_POL : Fld := { off := 0x80, hi := 6, lo := 6, acc := .rwl, rst := 0x0 }
/-- R97, register LANE_CTRL. -/
def LANE_LOOP : Fld := { off := 0x80, hi := 5, lo := 4, acc := .rw, rst := 0x0 }
/-- R97, register LANE_CTRL. -/
def LANE_RATE : Fld := { off := 0x80, hi := 1, lo := 0, acc := .ro, rst := 0x0 }
/-- R97, register LANE_STAT. -/
def LANE_SNR : Fld := { off := 0x84, hi := 31, lo := 16, acc := .ro, rst := 0x0 }
/-- R97, register LANE_STAT. -/
def LANE_TRAINED : Fld := { off := 0x84, hi := 3, lo := 3, acc := .ro, rst := 0x0 }
/-- R97, register LANE_STAT. -/
def LANE_CDR_LOCK : Fld := { off := 0x84, hi := 2, lo := 2, acc := .ro, rst := 0x0 }
/-- R97, register LANE_STAT. -/
def LANE_SIG_DET : Fld := { off := 0x84, hi := 1, lo := 1, acc := .ro, rst := 0x0 }
/-- R97, register LANE_STAT. -/
def LANE_MEMBER : Fld := { off := 0x84, hi := 0, lo := 0, acc := .ro, rst := 0x0 }
/-- R97, register LANE_INJ. -/
def LANE_INJ_CNT : Fld := { off := 0x88, hi := 31, lo := 16, acc := .rw, rst := 0x0 }
/-- R97, register LANE_INJ. -/
def LANE_INJ_SYM : Fld := { off := 0x88, hi := 4, lo := 0, acc := .rw, rst := 0x0 }
/-- R97, register PORT_CFG. -/
def PORT_EN : Fld := { off := 0x100, hi := 31, lo := 31, acc := .rw, rst := 0x0 }
/-- R97, register PORT_CFG. -/
def PORT_MODE : Fld := { off := 0x100, hi := 30, lo := 27, acc := .rw, rst := 0x0 }
/-- R97, register PORT_CFG. -/
def PORT_CT_EN : Fld := { off := 0x100, hi := 26, lo := 26, acc := .rw, rst := 0x0 }
/-- R97, register PORT_CFG. -/
def PORT_PAUSE_EN : Fld := { off := 0x100, hi := 25, lo := 25, acc := .rw, rst := 0x0 }
/-- R97, register PORT_CFG. -/
def PORT_MACSEC_EN : Fld := { off := 0x100, hi := 24, lo := 24, acc := .rw, rst := 0x0 }
/-- R97, register PORT_CFG. -/
def PORT_MAX_FRAME : Fld := { off := 0x100, hi := 21, lo := 8, acc := .rw, rst := 0x600 }
/-- R97, register PORT_CFG. -/
def PORT_PFC_UNTAG : Fld := { off := 0x100, hi := 7, lo := 5, acc := .rw, rst := 0x0 }
/-- R97, register PORT_CFG. -/
def PORT_TRUST : Fld := { off := 0x100, hi := 4, lo := 2, acc := .rw, rst := 0x7 }
/-- R97, register PORT_CFG. -/
def PORT_DEF_PRIO : Fld := { off := 0x100, hi := 1, lo := 0, acc := .rw, rst := 0x3 }
/-- R97, register PORT_STAT. -/
def PORT_LINK_STATE : Fld := { off := 0x104, hi := 31, lo := 28, acc := .ro, rst := 0x0 }
/-- R97, register PORT_STAT. -/
def PORT_LOCAL_FAULT : Fld := { off := 0x104, hi := 27, lo := 27, acc := .ro, rst := 0x0 }
/-- R97, register PORT_STAT. -/
def PORT_REMOTE_FAULT : Fld := { off := 0x104, hi := 26, lo := 26, acc := .ro, rst := 0x0 }
/-- R97, register PORT_STAT. -/
def PORT_HI_SER : Fld := { off := 0x104, hi := 25, lo := 25, acc := .ro, rst := 0x0 }
/-- R97, register PORT_STAT. -/
def PORT_PFC_PAUSED : Fld := { off := 0x104, hi := 15, lo := 8, acc := .ro, rst := 0x0 }
/-- R97, register PORT_STAT. -/
def PORT_PFC_XOFF : Fld := { off := 0x104, hi := 7, lo := 0, acc := .ro, rst := 0x0 }
/-- R97, register PORT_PFC_CTRL. -/
def PORT_PFC_RX_EN : Fld := { off := 0x108, hi := 31, lo := 24, acc := .rw, rst := 0x0 }
/-- R97, register PORT_PFC_CTRL. -/
def PORT_PFC_TX_EN : Fld := { off := 0x108, hi := 23, lo := 16, acc := .rw, rst := 0x0 }
/-- R97, register PORT_PFC_CTRL. -/
def PORT_PFC_QUANTA : Fld := { off := 0x108, hi := 15, lo := 0, acc := .rw, rst := 0xFFFF }
/-- R97, register PORT_PFC_THR. -/
def PORT_PFC_XOFF_THR : Fld := { off := 0x10C, hi := 31, lo := 16, acc := .rw, rst := 0x280 }
/-- R97, register PORT_PFC_THR. -/
def PORT_PFC_XON_THR : Fld := { off := 0x10C, hi := 15, lo := 0, acc := .rw, rst := 0x200 }
/-- R97, register PORT_PFC_MAP0. -/
def PORT_PFC_MAP0 : Fld := { off := 0x110, hi := 31, lo := 0, acc := .rw, rst := 0x8040201 }
/-- R97, register PORT_PFC_MAP1. -/
def PORT_PFC_MAP1 : Fld := { off := 0x114, hi := 31, lo := 0, acc := .rw, rst := 0x80402010 }
/-- R97, register PORT_PFC_WD. -/
def PORT_PFC_WD : Fld := { off := 0x118, hi := 15, lo := 0, acc := .rw, rst := 0x64 }
/-- R97, register PORT_TS_ADJ. -/
def PORT_TS_RX_ADJ : Fld := { off := 0x11C, hi := 31, lo := 16, acc := .rw, rst := 0x0 }
/-- R97, register PORT_TS_ADJ. -/
def PORT_TS_TX_ADJ : Fld := { off := 0x11C, hi := 15, lo := 0, acc := .rw, rst := 0x0 }
/-- R97, register PORT_FEC_DEG_THR. -/
def PORT_FEC_DEG_THR : Fld := { off := 0x120, hi := 31, lo := 0, acc := .rw, rst := 0x0 }
/-- R97, register PORT_INJ. -/
def PORT_INJ_CNT : Fld := { off := 0x124, hi := 31, lo := 16, acc := .rw, rst := 0x0 }
/-- R97, register PORT_INJ. -/
def PORT_INJ_ICV : Fld := { off := 0x124, hi := 1, lo := 1, acc := .rw, rst := 0x0 }
/-- R97, register PORT_INJ. -/
def PORT_INJ_FCS : Fld := { off := 0x124, hi := 0, lo := 0, acc := .rw, rst := 0x0 }

/-! Fields of page kind msec. -/
/-- R99, register MSEC_WIN. -/
def MSEC_WIN_TBL : Fld := { off := 0x80, hi := 27, lo := 24, acc := .rw, rst := 0x0 }
/-- R99, register MSEC_WIN. -/
def MSEC_WIN_BASE : Fld := { off := 0x80, hi := 11, lo := 0, acc := .rw, rst := 0x0 }
/-- R99, register MSEC_PN_THR. -/
def MSEC_PN_THR : Fld := { off := 0x84, hi := 5, lo := 0, acc := .rw, rst := 0x1E }
/-- R99, register MSEC_PN_SA. -/
def MSEC_PN_SA : Fld := { off := 0x88, hi := 7, lo := 0, acc := .ro, rst := 0x0 }

/-! Fields of page kind parser. -/
/-- R128, register PAR_OPTS. -/
def PAR_TPID_X : Fld := { off := 0x88, hi := 31, lo := 16, acc := .rws, rst := 0x0 }
/-- R128, register PAR_OPTS. -/
def PAR_PW_ETH : Fld := { off := 0x88, hi := 3, lo := 3, acc := .rws, rst := 0x0 }
/-- R128, register PAR_OPTS. -/
def PAR_IPIP_EN : Fld := { off := 0x88, hi := 2, lo := 2, acc := .rws, rst := 0x1 }
/-- R128, register PAR_OPTS. -/
def PAR_GRE_EN : Fld := { off := 0x88, hi := 1, lo := 1, acc := .rws, rst := 0x1 }
/-- R128, register PAR_OPTS. -/
def PAR_VXLAN_EN : Fld := { off := 0x88, hi := 0, lo := 0, acc := .rws, rst := 0x1 }
/-- R128, register PAR_VXLAN_PORT. -/
def PAR_VXLAN_PORT : Fld := { off := 0x8C, hi := 15, lo := 0, acc := .rws, rst := 0x12B5 }
/-- R128, register PAR_HASH_SEED. -/
def PAR_HASH_SEED : Fld := { off := 0x90, hi := 31, lo := 0, acc := .rws, rst := 0x0 }
/-- R128, register PAR_HASH_SEL. -/
def PAR_HASH_SEL : Fld := { off := 0x94, hi := 5, lo := 0, acc := .rws, rst := 0x3F }
/-- R128, register PAR_INJ. -/
def PAR_INJ_CNT : Fld := { off := 0xA0, hi := 31, lo := 16, acc := .rw, rst := 0x0 }
/-- R128, register PAR_INJ. -/
def PAR_INJ_REASON : Fld := { off := 0xA0, hi := 4, lo := 0, acc := .rw, rst := 0x0 }
/-- R128, register PAR_MAL_ACT0. -/
def PAR_MAL_R1 : Fld := { off := 0x80, hi := 3, lo := 0, acc := .rws, rst := 0x0 }
/-- R128, register PAR_MAL_ACT0. -/
def PAR_MAL_R2 : Fld := { off := 0x80, hi := 7, lo := 4, acc := .rws, rst := 0x0 }
/-- R128, register PAR_MAL_ACT0. -/
def PAR_MAL_R3 : Fld := { off := 0x80, hi := 11, lo := 8, acc := .rws, rst := 0x0 }
/-- R128, register PAR_MAL_ACT0. -/
def PAR_MAL_R4 : Fld := { off := 0x80, hi := 15, lo := 12, acc := .rws, rst := 0x0 }
/-- R128, register PAR_MAL_ACT0. -/
def PAR_MAL_R5 : Fld := { off := 0x80, hi := 19, lo := 16, acc := .rws, rst := 0x0 }
/-- R128, register PAR_MAL_ACT0. -/
def PAR_MAL_R6 : Fld := { off := 0x80, hi := 23, lo := 20, acc := .rws, rst := 0x0 }
/-- R128, register PAR_MAL_ACT0. -/
def PAR_MAL_R7 : Fld := { off := 0x80, hi := 27, lo := 24, acc := .rws, rst := 0x0 }
/-- R128, register PAR_MAL_ACT0. -/
def PAR_MAL_R8 : Fld := { off := 0x80, hi := 31, lo := 28, acc := .rws, rst := 0x0 }
/-- R128, register PAR_MAL_ACT1. -/
def PAR_MAL_R9 : Fld := { off := 0x84, hi := 3, lo := 0, acc := .rws, rst := 0x0 }
/-- R128, register PAR_MAL_ACT1. -/
def PAR_MAL_R10 : Fld := { off := 0x84, hi := 7, lo := 4, acc := .rws, rst := 0x0 }
/-- R128, register PAR_MAL_ACT1. -/
def PAR_MAL_R11 : Fld := { off := 0x84, hi := 11, lo := 8, acc := .rws, rst := 0x0 }
/-- R128, register PAR_MAL_ACT1. -/
def PAR_MAL_R12 : Fld := { off := 0x84, hi := 15, lo := 12, acc := .rws, rst := 0x1 }
/-- R128, register PAR_MAL_ACT1. -/
def PAR_MAL_R13 : Fld := { off := 0x84, hi := 19, lo := 16, acc := .rws, rst := 0x1 }
/-- R128, register PAR_MAL_ACT1. -/
def PAR_MAL_R14 : Fld := { off := 0x84, hi := 23, lo := 20, acc := .rws, rst := 0x1 }
/-- R128, register PAR_MAL_ACT1. -/
def PAR_MAL_R15 : Fld := { off := 0x84, hi := 27, lo := 24, acc := .rws, rst := 0x0 }
/-- R128, register PAR_MAL_ACT1. -/
def PAR_MAL_R16 : Fld := { off := 0x84, hi := 31, lo := 28, acc := .rws, rst := 0x0 }

/-! Fields of page kind parserPort. -/
/-- R129, register PAR_PORTk. -/
def PAR_VRF : Fld := { off := 0x80, hi := 31, lo := 16, acc := .rws, rst := 0x0, stride := 0x4, cnt := 67 }
/-- R129, register PAR_PORTk. -/
def PAR_PROF_A_EN : Fld := { off := 0x80, hi := 15, lo := 15, acc := .rws, rst := 0x0, stride := 0x4, cnt := 67 }
/-- R129, register PAR_PORTk. -/
def PAR_PROF_A : Fld := { off := 0x80, hi := 14, lo := 9, acc := .rws, rst := 0x0, stride := 0x4, cnt := 67 }
/-- R129, register PAR_PORTk. -/
def PAR_PROF_B_EN : Fld := { off := 0x80, hi := 8, lo := 8, acc := .rws, rst := 0x0, stride := 0x4, cnt := 67 }
/-- R129, register PAR_PORTk. -/
def PAR_PROF_B : Fld := { off := 0x80, hi := 7, lo := 2, acc := .rws, rst := 0x0, stride := 0x4, cnt := 67 }

/-! Fields of page kind parserKey. -/
/-- R130, register KP_CTRL. -/
def KP_EN : Fld := { off := 0x80, hi := 31, lo := 31, acc := .rws, rst := 0x0, stride := 0x60, cnt := 20 }
/-- R130, register KP_CTRL. -/
def KP_WIDTH : Fld := { off := 0x80, hi := 30, lo := 29, acc := .rws, rst := 0x0, stride := 0x60, cnt := 20 }
/-- R130, register KP_CTRL. -/
def KP_TAG : Fld := { off := 0x80, hi := 28, lo := 21, acc := .rws, rst := 0x0, stride := 0x60, cnt := 20 }
/-- R130, register KP_CTRL. -/
def KP_MISS_DISP : Fld := { off := 0x80, hi := 20, lo := 17, acc := .rws, rst := 0x0, stride := 0x60, cnt := 20 }
/-- R130, register KP_CMDi. -/
def CMD_EN : Fld := { off := 0x84, hi := 31, lo := 31, acc := .rws, rst := 0x0, stride := 0x60, cnt := 20, cnt2 := 20 }
/-- R130, register KP_CMDi. -/
def CMD_SRC : Fld := { off := 0x84, hi := 30, lo := 30, acc := .rws, rst := 0x0, stride := 0x60, cnt := 20, cnt2 := 20 }
/-- R130, register KP_CMDi. -/
def CMD_SLOT : Fld := { off := 0x84, hi := 29, lo := 27, acc := .rws, rst := 0x0, stride := 0x60, cnt := 20, cnt2 := 20 }
/-- R130, register KP_CMDi. -/
def CMD_OFF : Fld := { off := 0x84, hi := 26, lo := 18, acc := .rws, rst := 0x0, stride := 0x60, cnt := 20, cnt2 := 20 }
/-- R130, register KP_CMDi. -/
def CMD_LEN : Fld := { off := 0x84, hi := 17, lo := 16, acc := .rws, rst := 0x0, stride := 0x60, cnt := 20, cnt2 := 20 }

/-! Fields of page kind act. -/
/-- R201, register ACT_TTL_CTRL. -/
def ACT_TTL_ACT : Fld := { off := 0x80, hi := 1, lo := 0, acc := .rws, rst := 0x0 }
/-- R201, register ACT_DEF_QCLASS. -/
def ACT_DEF_QCLASS : Fld := { off := 0x84, hi := 11, lo := 0, acc := .rws, rst := 0xF7 }
/-- R201, register ACT_CSID_FMT. -/
def ACT_CSID_BLK : Fld := { off := 0x88, hi := 7, lo := 4, acc := .rws, rst := 0x4 }
/-- R201, register ACT_CSID_FMT. -/
def ACT_CSID_LEN : Fld := { off := 0x88, hi := 0, lo := 0, acc := .rws, rst := 0x0 }
/-- R201, register ACT_RCY_SUB. -/
def ACT_RCY_SUB : Fld := { off := 0x8C, hi := 16, lo := 0, acc := .rws, rst := 0x0 }
/-- R201, register ACT_PUNT_SUBd. -/
def ACT_PUNT_SUB : Fld := { off := 0x90, hi := 16, lo := 0, acc := .rws, rst := 0x0, stride := 0x4, cnt := 9 }
/-- R201, register ACT_PUNT_CLSn. -/
def ACT_PUNT_CLS : Fld := { off := 0xC0, hi := 31, lo := 0, acc := .rws, rst := 0x77777777, stride := 0x4, cnt := 32 }
/-- R201, register ACT_PUNT_TRUNC. -/
def ACT_PUNT_TRUNC : Fld := { off := 0x140, hi := 13, lo := 0, acc := .rws, rst := 0x100 }
/-- R201, register ACT_INJ. -/
def ACT_INJ_CNT : Fld := { off := 0x144, hi := 31, lo := 16, acc := .rw, rst := 0x0 }

/-! Fields of page kind act1. -/
/-- R416, register ACT_MATCHi. -/
def ACT_M_VALID : Fld := { off := 0x100, hi := 31, lo := 31, acc := .ro, rst := 0x0, stride := 0x4, cnt := 32 }
/-- R416, register ACT_MATCHi. -/
def ACT_M_BLOCK : Fld := { off := 0x100, hi := 9, lo := 0, acc := .ro, rst := 0x0, stride := 0x4, cnt := 32 }

/-! Fields of page kind rew. -/
/-- R202, register REW_INJ. -/
def REW_INJ_CNT : Fld := { off := 0x80, hi := 31, lo := 16, acc := .rw, rst := 0x0 }

/-! Fields of page kind chm. -/
/-- R230, register CHM_FREE. -/
def CHM_FREE : Fld := { off := 0x80, hi := 21, lo := 0, acc := .ro, rst := 0x200000 }
/-- R230, register CHM_WR_RSV. -/
def CHM_WR_RSV : Fld := { off := 0x84, hi := 21, lo := 0, acc := .rw, rst := 0x20000 }
/-- R230, register CHM_SHARED_LIMIT. -/
def CHM_SHARED_LIMIT : Fld := { off := 0x88, hi := 21, lo := 0, acc := .rw, rst := 0x140000 }
/-- R230, register CHM_HDRM_LIMIT. -/
def CHM_HDRM_LIMIT : Fld := { off := 0x8C, hi := 21, lo := 0, acc := .rw, rst := 0x20000 }
/-- R230, register CHM_BKLG_LIMIT. -/
def CHM_BKLG_LIMIT : Fld := { off := 0x90, hi := 21, lo := 0, acc := .rw, rst := 0x40000 }
/-- R230, register CHM_REFILL_LIMIT. -/
def CHM_REFILL_LIMIT : Fld := { off := 0x94, hi := 21, lo := 0, acc := .rw, rst := 0x40000 }
/-- R230, register CHM_SHARED_USED. -/
def CHM_SHARED_USED : Fld := { off := 0x98, hi := 21, lo := 0, acc := .ro, rst := 0x0 }
/-- R230, register CHM_HDRM_USED. -/
def CHM_HDRM_USED : Fld := { off := 0x9C, hi := 21, lo := 0, acc := .ro, rst := 0x0 }
/-- R230, register CHM_BKLG_USED. -/
def CHM_BKLG_USED : Fld := { off := 0xA0, hi := 21, lo := 0, acc := .ro, rst := 0x0 }
/-- R230, register CHM_REFILL_USED. -/
def CHM_REFILL_USED : Fld := { off := 0xA4, hi := 21, lo := 0, acc := .ro, rst := 0x0 }
/-- R230, register CHM_PEAK. -/
def CHM_PEAK : Fld := { off := 0xA8, hi := 21, lo := 0, acc := .rc, rst := 0x0 }
/-- R230, register CHM_PUSH_CTRL. -/
def CHM_PUSH_EN : Fld := { off := 0xAC, hi := 31, lo := 31, acc := .rw, rst := 0x1 }
/-- R230, register CHM_PUSH_CTRL. -/
def CHM_PUSH_MAX : Fld := { off := 0xAC, hi := 2, lo := 0, acc := .rw, rst := 0x4 }
/-- R230, register CHM_GOV_THR. -/
def CHM_BUF_HI : Fld := { off := 0xB0, hi := 31, lo := 16, acc := .rw, rst := 0x2134 }
/-- R230, register CHM_GOV_THR. -/
def CHM_BUF_LO : Fld := { off := 0xB0, hi := 15, lo := 0, acc := .rw, rst := 0x1388 }
/-- R230, register CHM_PFC_THR. -/
def CHM_PFC_XOFF : Fld := { off := 0xB4, hi := 31, lo := 16, acc := .rw, rst := 0x100 }
/-- R230, register CHM_PFC_THR. -/
def CHM_PFC_XON : Fld := { off := 0xB4, hi := 15, lo := 0, acc := .rw, rst := 0xC0 }
/-- R230, register CHM_INJ. -/
def CHM_INJ_GO : Fld := { off := 0xB8, hi := 31, lo := 31, acc := .wo, rst := 0x0 }
/-- R230, register CHM_INJ. -/
def CHM_INJ_KIND : Fld := { off := 0xB8, hi := 30, lo := 29, acc := .rw, rst := 0x0 }
/-- R230, register CHM_INJ. -/
def CHM_INJ_Q : Fld := { off := 0xB8, hi := 19, lo := 0, acc := .rw, rst := 0x0 }

/-! Fields of page kind chmQ. -/
/-- R232, register Q_WIN. -/
def Q_WIN : Fld := { off := 0x80, hi := 12, lo := 0, acc := .rw, rst := 0x0 }

/-! Fields of page kind chmPC. -/
/-- R233, register CHM_CNT_SEL. -/
def CHM_CNT_SEL : Fld := { off := 0x80, hi := 5, lo := 0, acc := .rw, rst := 0x0 }

/-! Fields of page kind sch. -/
/-- R260, register SCH_REFILL. -/
def SCH_REFILL_NS : Fld := { off := 0x80, hi := 15, lo := 0, acc := .rw, rst := 0x80 }
/-- R260, register SCH_REFILL_NEXT. -/
def SCH_REFILL_NEXT : Fld := { off := 0x84, hi := 15, lo := 0, acc := .ro, rst := 0x0 }
/-- R260, register SCH_OVHk. -/
def SCH_OVH : Fld := { off := 0x90, hi := 7, lo := 0, acc := .rws, rst := 0x0, stride := 0x4, cnt := 8, rsts := [0, 20, 0, 0, 0, 0, 0, 0] }
/-- R260, register SCH_INJ. -/
def SCH_INJ_GO : Fld := { off := 0xB0, hi := 31, lo := 31, acc := .wo, rst := 0x0 }
/-- R260, register SCH_INJ. -/
def SCH_INJ_CFG : Fld := { off := 0xB0, hi := 30, lo := 30, acc := .rw, rst := 0x0 }
/-- R260, register SCH_INJ. -/
def SCH_INJ_LVL : Fld := { off := 0xB0, hi := 21, lo := 20, acc := .rw, rst := 0x0 }
/-- R260, register SCH_INJ. -/
def SCH_INJ_IDX : Fld := { off := 0xB0, hi := 19, lo := 0, acc := .rw, rst := 0x0 }
/-- R260, register SCH_ERR_IDX. -/
def SCH_ERR_LVL : Fld := { off := 0xB4, hi := 21, lo := 20, acc := .ro, rst := 0x0 }
/-- R260, register SCH_ERR_IDX. -/
def SCH_ERR_NODE : Fld := { off := 0xB4, hi := 19, lo := 0, acc := .ro, rst := 0x0 }

/-! Fields of page kind schPort. -/
/-- R261, register SCH_PORT_WIN. -/
def SCH_PORT_WIN : Fld := { off := 0x80, hi := 2, lo := 0, acc := .rw, rst := 0x0 }

/-! Fields of page kind schSvc. -/
/-- R262, register SCH_SVC_WIN. -/
def SCH_SVC_WIN : Fld := { off := 0x80, hi := 6, lo := 0, acc := .rw, rst := 0x0 }

/-! Fields of page kind schSub. -/
/-- R264, register SCH_SUB_WIN. -/
def SCH_SUB_WIN : Fld := { off := 0x80, hi := 9, lo := 0, acc := .rw, rst := 0x0 }

/-! Fields of page kind schQ. -/
/-- R265, register SCH_Q_WIN. -/
def SCH_Q_WIN : Fld := { off := 0x80, hi := 12, lo := 0, acc := .rw, rst := 0x0 }

/-! Fields of page kind schState. -/
/-- R266, register SCH_ST_SEL. -/
def SCH_ST_LVL : Fld := { off := 0x80, hi := 21, lo := 20, acc := .rw, rst := 0x0 }
/-- R266, register SCH_ST_SEL. -/
def SCH_ST_WIN : Fld := { off := 0x80, hi := 14, lo := 0, acc := .rw, rst := 0x0 }

/-! Fields of page kind schSvcShp. -/
/-- R263, register SCH_SVC_RATEj. -/
def SCH_SVC_RATE_ODD : Fld := { off := 0x80, hi := 31, lo := 16, acc := .rws, rst := 0xFFFF, stride := 0x4, cnt := 256 }
/-- R263, register SCH_SVC_RATEj. -/
def SCH_SVC_RATE_EVEN : Fld := { off := 0x80, hi := 15, lo := 0, acc := .rws, rst := 0xFFFF, stride := 0x4, cnt := 256 }
/-- R263, register SCH_SVC_CAPj. -/
def SCH_SVC_CAP3 : Fld := { off := 0x480, hi := 31, lo := 24, acc := .rws, rst := 0x0, stride := 0x4, cnt := 128 }
/-- R263, register SCH_SVC_CAPj. -/
def SCH_SVC_CAP2 : Fld := { off := 0x480, hi := 23, lo := 16, acc := .rws, rst := 0x0, stride := 0x4, cnt := 128 }
/-- R263, register SCH_SVC_CAPj. -/
def SCH_SVC_CAP1 : Fld := { off := 0x480, hi := 15, lo := 8, acc := .rws, rst := 0x0, stride := 0x4, cnt := 128 }
/-- R263, register SCH_SVC_CAPj. -/
def SCH_SVC_CAP0 : Fld := { off := 0x480, hi := 7, lo := 0, acc := .rws, rst := 0x0, stride := 0x4, cnt := 128 }

/-! Fields of page kind rim. -/
/-- R284, register RIM_CTRL. -/
def RIM_EN : Fld := { off := 0x80, hi := 31, lo := 31, acc := .rw, rst := 0x1 }
/-- R284, register RIM_AUD_CNT. -/
def RIM_AUD_CNT : Fld := { off := 0x84, hi := 31, lo := 0, acc := .ro, rst := 0x0 }
/-- R284, register RIM_AUD_SEC. -/
def RIM_AUD_SEC : Fld := { off := 0x88, hi := 31, lo := 0, acc := .ro, rst := 0x0 }
/-- R284, register RIM_AUD_NS. -/
def RIM_AUD_NS : Fld := { off := 0x8C, hi := 29, lo := 0, acc := .ro, rst := 0x0 }
/-- R284, register RIM_DISC_CNT. -/
def RIM_DISC_CNT : Fld := { off := 0x90, hi := 31, lo := 0, acc := .rc, rst := 0x0 }
/-- R284, register RIM_DISC_ID. -/
def RIM_DISC_LEDGER : Fld := { off := 0x94, hi := 25, lo := 20, acc := .ro, rst := 0x0 }
/-- R284, register RIM_DISC_SIZE_LO. -/
def RIM_DISC_SIZE_LO : Fld := { off := 0x98, hi := 31, lo := 0, acc := .ro, rst := 0x0 }
/-- R284, register RIM_DISC_SIZE_HI. -/
def RIM_DISC_SIZE_HI : Fld := { off := 0x9C, hi := 31, lo := 0, acc := .ro, rst := 0x0 }
/-- R284, register RIM_INJ. -/
def RIM_INJ_GO : Fld := { off := 0xA0, hi := 31, lo := 31, acc := .wo, rst := 0x0 }
/-- R284, register RIM_INJ. -/
def RIM_INJ_LEDGER : Fld := { off := 0xA0, hi := 5, lo := 0, acc := .rw, rst := 0x0 }
/-- R284, register RIM_INJ_AMT. -/
def RIM_INJ_AMT : Fld := { off := 0xA4, hi := 31, lo := 0, acc := .rw, rst := 0x0 }
/-- R284, register RIM_OVR. -/
def RIM_OVR : Fld := { off := 0xA8, hi := 31, lo := 0, acc := .rc, rst := 0x0 }

/-! Fields of page kind vault. -/
/-- R165, register VLT_STALL. -/
def VLT_STALL : Fld := { off := 0x80, hi := 31, lo := 0, acc := .rc, rst := 0x0 }
/-- R165, register VLT_DIG_CTRL. -/
def VLT_DIG_EN : Fld := { off := 0x84, hi := 31, lo := 31, acc := .rw, rst := 0x1 }
/-- R165, register VLT_DIG_CTRL. -/
def VLT_DIG_INT : Fld := { off := 0x84, hi := 15, lo := 0, acc := .rw, rst := 0x8 }
/-- R165, register VLT_DIG_STAT. -/
def VLT_DIG_PASS : Fld := { off := 0x88, hi := 31, lo := 16, acc := .ro, rst := 0x0 }
/-- R165, register VLT_DIG_STAT. -/
def VLT_DIG_LAST : Fld := { off := 0x88, hi := 10, lo := 0, acc := .ro, rst := 0x0 }
/-- R165, register VLT_DIG_MISM. -/
def VLT_DIG_MISM : Fld := { off := 0x8C, hi := 31, lo := 0, acc := .rc, rst := 0x0 }
/-- R165, register VLT_DIG_SKIP. -/
def VLT_DIG_SKIP : Fld := { off := 0x90, hi := 31, lo := 0, acc := .rc, rst := 0x0 }
/-- R165, register VLT_DIG_WIN. -/
def VLT_DIG_WIN : Fld := { off := 0x94, hi := 2, lo := 0, acc := .rw, rst := 0x0 }
/-- R165, register VLT_PAR_INJ. -/
def VLT_INJ_GO : Fld := { off := 0x98, hi := 31, lo := 31, acc := .wo, rst := 0x0 }
/-- R165, register VLT_PAR_INJ. -/
def VLT_INJ_TABLE : Fld := { off := 0x98, hi := 29, lo := 26, acc := .rw, rst := 0x0 }
/-- R165, register VLT_PAR_INJ. -/
def VLT_INJ_IDX : Fld := { off := 0x98, hi := 25, lo := 0, acc := .rw, rst := 0x0 }

/-! Fields of page kind exm. -/
/-- R166, register EXM_SEED0. -/
def EXM_SEED0 : Fld := { off := 0x80, hi := 31, lo := 0, acc := .rw, rst := 0x0 }
/-- R166, register EXM_SEED1. -/
def EXM_SEED1 : Fld := { off := 0x84, hi := 31, lo := 0, acc := .rw, rst := 0x5A5A5A5A }
/-- R166, register EXM_WIDE_BKTS. -/
def EXM_WIDE_BKTS : Fld := { off := 0x88, hi := 23, lo := 0, acc := .rw, rst := 0x100000 }
/-- R166, register EXM_CNT. -/
def EXM_VALID_CNT : Fld := { off := 0x8C, hi := 25, lo := 0, acc := .ro, rst := 0x0 }
/-- R166, register EXM_STASH. -/
def EXM_STASH_CNT : Fld := { off := 0x90, hi := 26, lo := 16, acc := .ro, rst := 0x0 }
/-- R166, register EXM_STASH. -/
def EXM_STASH_THR : Fld := { off := 0x90, hi := 10, lo := 0, acc := .rw, rst := 0x300 }
/-- R166, register EXM_DUP. -/
def EXM_DUP : Fld := { off := 0x94, hi := 31, lo := 0, acc := .rc, rst := 0x0 }
/-- R166, register EXM_PAR. -/
def EXM_PAR : Fld := { off := 0x98, hi := 31, lo := 0, acc := .rc, rst := 0x0 }
/-- R166, register EXM_ROT. -/
def EXM_ROT : Fld := { off := 0x9C, hi := 31, lo := 0, acc := .ro, rst := 0x0 }

/-! Fields of page kind exmCtx. -/
/-- R166, register EXM_KEYi. -/
def EXM_KEY : Fld := { off := 0x80, hi := 31, lo := 0, acc := .rw, rst := 0x0, stride := 0x4, cnt := 6 }
/-- R166, register EXM_RES. -/
def EXM_RES : Fld := { off := 0x98, hi := 23, lo := 0, acc := .rw, rst := 0x0 }
/-- R166, register EXM_OPCTL. -/
def EXM_TYPE : Fld := { off := 0x9C, hi := 7, lo := 4, acc := .rw, rst := 0x0 }
/-- R166, register EXM_OPCTL. -/
def EXM_OP : Fld := { off := 0x9C, hi := 2, lo := 0, acc := .wo, rst := 0x0 }
/-- R166, register EXM_STATUS. -/
def EXM_BUSY : Fld := { off := 0xA0, hi := 31, lo := 31, acc := .ro, rst := 0x0 }
/-- R166, register EXM_STATUS. -/
def EXM_RC : Fld := { off := 0xA0, hi := 30, lo := 27, acc := .ro, rst := 0x0 }
/-- R166, register EXM_STATUS. -/
def EXM_MOVES : Fld := { off := 0xA0, hi := 26, lo := 22, acc := .ro, rst := 0x0 }
/-- R166, register EXM_STATUS. -/
def EXM_IN_STASH : Fld := { off := 0xA0, hi := 21, lo := 21, acc := .ro, rst := 0x0 }
/-- R166, register EXM_LOC. -/
def EXM_LOC : Fld := { off := 0xA4, hi := 25, lo := 0, acc := .ro, rst := 0x0 }
/-- R166, register EXM_H0. -/
def EXM_H0 : Fld := { off := 0xA8, hi := 22, lo := 0, acc := .ro, rst := 0x0 }
/-- R166, register EXM_H1. -/
def EXM_H1 : Fld := { off := 0xAC, hi := 22, lo := 0, acc := .ro, rst := 0x0 }

/-! Fields of page kind lpm. -/
/-- R167, register LPM_CTRL. -/
def LPM_MAX_NODES : Fld := { off := 0x80, hi := 4, lo := 0, acc := .rw, rst := 0x14 }
/-- R167, register LPM_DRAIN. -/
def LPM_DRAIN : Fld := { off := 0x84, hi := 0, lo := 0, acc := .w1s, rst := 0x0 }
/-- R167, register LPM_ROOT_WIN. -/
def LPM_ROOT_WIN : Fld := { off := 0x88, hi := 8, lo := 0, acc := .rw, rst := 0x0 }
/-- R167, register LPM_DEPTH_EXC. -/
def LPM_DEPTH_EXC : Fld := { off := 0x8C, hi := 31, lo := 0, acc := .rc, rst := 0x0 }
/-- R167, register LPM_PAR. -/
def LPM_PAR : Fld := { off := 0x90, hi := 31, lo := 0, acc := .rc, rst := 0x0 }
/-- R167, register LPM_NO_VRF. -/
def LPM_NO_VRF : Fld := { off := 0x94, hi := 31, lo := 0, acc := .rc, rst := 0x0 }
/-- R167, register LPM_MIG_ENV. -/
def LPM_MIG_MAX : Fld := { off := 0x98, hi := 5, lo := 0, acc := .rw, rst := 0x20 }

/-! Fields of page kind ds. -/
/-- R167, register DS_VALID_CNT. -/
def DS_VALID_CNT : Fld := { off := 0x80, hi := 16, lo := 0, acc := .ro, rst := 0x0 }
/-- R167, register DS_WD_CNT. -/
def DS_WD_CNT : Fld := { off := 0x84, hi := 16, lo := 0, acc := .ro, rst := 0x0 }
/-- R167, register DS_FREE_HINT. -/
def DS_NONE_FREE : Fld := { off := 0x88, hi := 31, lo := 31, acc := .ro, rst := 0x0 }
/-- R167, register DS_FREE_HINT. -/
def DS_FREE_HINT : Fld := { off := 0x88, hi := 15, lo := 0, acc := .ro, rst := 0x0 }
/-- R167, register DS_HIGH_THR. -/
def DS_HIGH_THR : Fld := { off := 0x8C, hi := 16, lo := 0, acc := .rw, rst := 0xC000 }
/-- R167, register DS_CAC_ADDR. -/
def DS_CAC_GEN : Fld := { off := 0x90, hi := 31, lo := 24, acc := .rw, rst := 0x0 }
/-- R167, register DS_CAC_ADDR. -/
def DS_CAC_IDX : Fld := { off := 0x90, hi := 15, lo := 0, acc := .rw, rst := 0x0 }
/-- R167, register DS_CAC_CMD. -/
def DS_CAC_RC : Fld := { off := 0x94, hi := 2, lo := 1, acc := .ro, rst := 0x0 }
/-- R167, register DS_CAC_CMD. -/
def DS_CAC_GO : Fld := { off := 0x94, hi := 0, lo := 0, acc := .wo, rst := 0x0 }
/-- R167, register DS_SCRUB. -/
def DS_SCRUB_EN : Fld := { off := 0x98, hi := 31, lo := 31, acc := .rw, rst := 0x1 }
/-- R167, register DS_SCRUB. -/
def DS_SCRUB_INT : Fld := { off := 0x98, hi := 15, lo := 0, acc := .rw, rst := 0x100 }
/-- R167, register DS_FALSE_HIT. -/
def DS_FALSE_HIT : Fld := { off := 0x9C, hi := 31, lo := 0, acc := .rc, rst := 0x0 }
/-- R167, register DS_SCRUB_FIX. -/
def DS_SCRUB_FIX : Fld := { off := 0xA0, hi := 31, lo := 0, acc := .rc, rst := 0x0 }
/-- R167, register DS_VERIFY_EXH. -/
def DS_VERIFY_EXH : Fld := { off := 0xA4, hi := 31, lo := 0, acc := .rc, rst := 0x0 }
/-- R167, register DS_INJ. -/
def DS_INJ_GO : Fld := { off := 0xA8, hi := 31, lo := 31, acc := .wo, rst := 0x0 }
/-- R167, register DS_INJ. -/
def DS_INJ_COPY : Fld := { off := 0xA8, hi := 30, lo := 30, acc := .rw, rst := 0x0 }
/-- R167, register DS_INJ. -/
def DS_INJ_BIT : Fld := { off := 0xA8, hi := 23, lo := 16, acc := .rw, rst := 0x0 }
/-- R167, register DS_INJ. -/
def DS_INJ_IDX : Fld := { off := 0xA8, hi := 15, lo := 0, acc := .rw, rst := 0x0 }
/-- R167, register DS_ADD_FLOOR. -/
def DS_ADD_FLOOR : Fld := { off := 0xAC, hi := 15, lo := 0, acc := .rw, rst := 0x0 }

/-! Fields of page kind cls. -/
/-- R131, register CLS_SCRUB. -/
def CLS_SCRUB_EN : Fld := { off := 0x80, hi := 31, lo := 31, acc := .rw, rst := 0x1 }
/-- R131, register CLS_SCRUB. -/
def CLS_SCRUB_INT : Fld := { off := 0x80, hi := 15, lo := 0, acc := .rw, rst := 0x40 }
/-- R131, register CLS_FALSE_HIT. -/
def CLS_FALSE_HIT : Fld := { off := 0x84, hi := 31, lo := 0, acc := .rc, rst := 0x0 }
/-- R131, register CLS_PAR_MISS. -/
def CLS_PAR_MISS : Fld := { off := 0x88, hi := 31, lo := 0, acc := .rc, rst := 0x0 }
/-- R131, register CLS_SCRUB_FIX. -/
def CLS_SCRUB_FIX : Fld := { off := 0x8C, hi := 31, lo := 0, acc := .rc, rst := 0x0 }
/-- R131, register CLS_ERR. -/
def CLS_ERR_KIND : Fld := { off := 0x90, hi := 31, lo := 30, acc := .ro, rst := 0x0 }
/-- R131, register CLS_ERR. -/
def CLS_ERR_IDX : Fld := { off := 0x90, hi := 17, lo := 0, acc := .ro, rst := 0x0 }
/-- R131, register CLS_VALID_CNT. -/
def CLS_VALID_CNT : Fld := { off := 0x94, hi := 18, lo := 0, acc := .ro, rst := 0x0 }
/-- R131, register CLS_INJ. -/
def CLS_INJ_GO : Fld := { off := 0x98, hi := 31, lo := 31, acc := .wo, rst := 0x0 }
/-- R131, register CLS_INJ. -/
def CLS_INJ_COPY : Fld := { off := 0x98, hi := 30, lo := 30, acc := .rw, rst := 0x0 }
/-- R131, register CLS_INJ. -/
def CLS_INJ_BIT : Fld := { off := 0x98, hi := 25, lo := 18, acc := .rw, rst := 0x0 }
/-- R131, register CLS_INJ. -/
def CLS_INJ_IDX : Fld := { off := 0x98, hi := 17, lo := 0, acc := .rw, rst := 0x0 }

/-! Fields of page kind lkp. -/
/-- R168, register LKP_WIN. -/
def LKP_WIN : Fld := { off := 0x80, hi := 2, lo := 0, acc := .rw, rst := 0x0 }
/-- R168, register LKP_NH_INVALID. -/
def LKP_NH_INVALID : Fld := { off := 0x84, hi := 31, lo := 0, acc := .rc, rst := 0x0 }
/-- R168, register LKP_NH_PARITY. -/
def LKP_NH_PARITY : Fld := { off := 0x88, hi := 31, lo := 0, acc := .rc, rst := 0x0 }
/-- R168, register LKP_CHAIN_ERR. -/
def LKP_CHAIN_ERR : Fld := { off := 0x8C, hi := 31, lo := 0, acc := .rc, rst := 0x0 }

/-! Fields of page kind stc. -/
/-- R203, register STC_CTRL. -/
def STC_FLUSH : Fld := { off := 0x80, hi := 31, lo := 31, acc := .w1s, rst := 0x0 }
/-- R203, register STC_CTRL. -/
def STC_WB_MAX : Fld := { off := 0x80, hi := 15, lo := 0, acc := .rw, rst := 0x64 }
/-- R203, register STC_MISS. -/
def STC_MISS : Fld := { off := 0x84, hi := 31, lo := 0, acc := .rc, rst := 0x0 }
/-- R203, register STC_WB. -/
def STC_WB : Fld := { off := 0x88, hi := 31, lo := 0, acc := .rc, rst := 0x0 }
/-- R203, register STC_STALL. -/
def STC_STALL : Fld := { off := 0x8C, hi := 31, lo := 0, acc := .rc, rst := 0x0 }
/-- R203, register STC_LOST. -/
def STC_LOST : Fld := { off := 0x90, hi := 31, lo := 0, acc := .rc, rst := 0x0 }
/-- R203, register POL_PAR. -/
def POL_PAR : Fld := { off := 0x94, hi := 31, lo := 0, acc := .rc, rst := 0x0 }
/-- R203, register POL_LOST. -/
def POL_LOST : Fld := { off := 0x98, hi := 31, lo := 0, acc := .rc, rst := 0x0 }
/-- R203, register STC_INJ. -/
def STC_INJ_GO : Fld := { off := 0x9C, hi := 31, lo := 31, acc := .wo, rst := 0x0 }
/-- R203, register STC_INJ. -/
def STC_INJ_POL : Fld := { off := 0x9C, hi := 30, lo := 30, acc := .rw, rst := 0x0 }
/-- R203, register STC_INJ. -/
def STC_INJ_IDX : Fld := { off := 0x9C, hi := 29, lo := 0, acc := .rw, rst := 0x0 }

/-! Fields of page kind aperture. -/
/-- R49, register TBL_APn_CTRL. -/
def TBL_AP_TABLE : Fld := { off := 0x80, hi := 31, lo := 24, acc := .rw, rst := 0x0, stride := 0x8, cnt := 12 }
/-- R49, register TBL_APn_CTRL. -/
def TBL_AP_BASE : Fld := { off := 0x80, hi := 23, lo := 0, acc := .rw, rst := 0x0, stride := 0x8, cnt := 12 }
/-- R49, register TBL_APn_STAT. -/
def TBL_AP_DROPS : Fld := { off := 0x84, hi := 31, lo := 16, acc := .ro, rst := 0x0, stride := 0x8, cnt := 12 }
/-- R49, register TBL_APn_STAT. -/
def TBL_AP_STRIDE : Fld := { off := 0x84, hi := 6, lo := 0, acc := .ro, rst := 0x0, stride := 0x8, cnt := 12 }

/-! Fields of page kind hbm0. -/
/-- R349, register HBM_RATE. -/
def HBM_ENV_SLOW : Fld := { off := 0x80, hi := 15, lo := 12, acc := .rw, rst := 0x0 }
/-- R349, register HBM_RATE. -/
def HBM_ENV_FAST : Fld := { off := 0x80, hi := 11, lo := 8, acc := .rw, rst := 0x0 }
/-- R349, register HBM_RATE. -/
def HBM_RATE_CUR : Fld := { off := 0x80, hi := 7, lo := 4, acc := .ro, rst := 0x6 }
/-- R349, register HBM_RATE. -/
def HBM_RATE_REQ : Fld := { off := 0x80, hi := 3, lo := 0, acc := .rw, rst := 0x6 }
/-- R349, register HBM_STEP. -/
def HBM_STEP_BUSY : Fld := { off := 0x84, hi := 31, lo := 31, acc := .ro, rst := 0x0 }
/-- R349, register HBM_STEP. -/
def HBM_TRAINED : Fld := { off := 0x84, hi := 22, lo := 16, acc := .ro, rst := 0x0 }
/-- R349, register HBM_STEP. -/
def HBM_STEP_NS : Fld := { off := 0x84, hi := 15, lo := 0, acc := .ro, rst := 0x0 }
/-- R349, register HBM_PWR_CFG. -/
def HBM_HEADROOM : Fld := { off := 0x88, hi := 15, lo := 8, acc := .rw, rst := 0x19 }
/-- R349, register HBM_PWR_CFG. -/
def HBM_DWELL : Fld := { off := 0x88, hi := 7, lo := 0, acc := .rw, rst := 0xA }
/-- R349, register HBM_REF. -/
def HBM_REF_ENV : Fld := { off := 0x8C, hi := 11, lo := 8, acc := .rw, rst := 0x4 }
/-- R349, register HBM_REF. -/
def HBM_REF_TFACT : Fld := { off := 0x8C, hi := 5, lo := 4, acc := .ro, rst := 0x0 }
/-- R349, register HBM_REF. -/
def HBM_REF_MULT : Fld := { off := 0x8C, hi := 2, lo := 0, acc := .rw, rst := 0x1 }
/-- R349, register HBM_CE_THR. -/
def HBM_CE_HI : Fld := { off := 0x90, hi := 31, lo := 16, acc := .rw, rst := 0x64 }
/-- R349, register HBM_CE_THR. -/
def HBM_CE_LO : Fld := { off := 0x90, hi := 15, lo := 0, acc := .rw, rst := 0xA }
/-- R349, register HBM_TIMS0–3. -/
def HBM_TIMS : Fld := { off := 0xA0, hi := 31, lo := 0, acc := .ro, rst := 0x0, stride := 0x4, cnt := 4 }
/-- R349, register HBM_TIMA0–3. -/
def HBM_TIMA : Fld := { off := 0xB0, hi := 31, lo := 0, acc := .ro, rst := 0x0, stride := 0x4, cnt := 4 }

/-! Fields of page kind hbm1. -/
/-- R350, register HBM_QOS. -/
def HBM_QOS_MODE : Fld := { off := 0x80, hi := 0, lo := 0, acc := .rw, rst := 0x1 }
/-- R350, register HBM_WR_WM. -/
def HBM_WR_HI : Fld := { off := 0x84, hi := 15, lo := 8, acc := .rw, rst := 0x30 }
/-- R350, register HBM_WR_WM. -/
def HBM_WR_LO : Fld := { off := 0x84, hi := 7, lo := 0, acc := .rw, rst := 0x10 }
/-- R350, register HBM_PANIC. -/
def HBM_PANIC_ON : Fld := { off := 0x88, hi := 15, lo := 8, acc := .rw, rst := 0x20 }
/-- R350, register HBM_PANIC. -/
def HBM_PANIC_OFF : Fld := { off := 0x88, hi := 7, lo := 0, acc := .rw, rst := 0x8 }
/-- R350, register HBM_AGE_MAX. -/
def HBM_AGE_MAX : Fld := { off := 0x8C, hi := 15, lo := 0, acc := .rw, rst := 0x3E8 }
/-- R350, register HBM_TGTn. -/
def HBM_TGT : Fld := { off := 0x90, hi := 15, lo := 0, acc := .rw, rst := 0x3E8, stride := 0x4, cnt := 8 }

/-! Fields of page kind hbm2. -/
/-- R351, register HBM_PG_CTRL. -/
def HBM_PG_GO : Fld := { off := 0x80, hi := 31, lo := 31, acc := .wo, rst := 0x0 }
/-- R351, register HBM_PG_CTRL. -/
def HBM_PG_MODE : Fld := { off := 0x80, hi := 30, lo := 28, acc := .rw, rst := 0x0 }
/-- R351, register HBM_PG_CTRL. -/
def HBM_PG_WRITE : Fld := { off := 0x80, hi := 27, lo := 27, acc := .rw, rst := 0x0 }
/-- R351, register HBM_PG_CTRL. -/
def HBM_PG_PC : Fld := { off := 0x80, hi := 26, lo := 22, acc := .rw, rst := 0x0 }
/-- R351, register HBM_PG_CTRL. -/
def HBM_PG_BURSTS : Fld := { off := 0x80, hi := 15, lo := 0, acc := .rw, rst := 0x0 }
/-- R351, register HBM_PG_SEED. -/
def HBM_PG_SEED : Fld := { off := 0x84, hi := 31, lo := 0, acc := .rw, rst := 0x1 }
/-- R351, register HBM_CMP_STAT. -/
def HBM_CMP_BUSY : Fld := { off := 0x88, hi := 31, lo := 31, acc := .ro, rst := 0x0 }
/-- R351, register HBM_CMP_STAT. -/
def HBM_CMP_ERRS : Fld := { off := 0x88, hi := 30, lo := 0, acc := .ro, rst := 0x0 }
/-- R351, register HBM_DLY_SEL. -/
def HBM_DLY_RATE : Fld := { off := 0x8C, hi := 31, lo := 28, acc := .rw, rst := 0x0 }
/-- R351, register HBM_DLY_SEL. -/
def HBM_DLY_KIND : Fld := { off := 0x8C, hi := 27, lo := 25, acc := .rw, rst := 0x0 }
/-- R351, register HBM_DLY_SEL. -/
def HBM_DLY_PC : Fld := { off := 0x8C, hi := 24, lo := 20, acc := .rw, rst := 0x0 }
/-- R351, register HBM_DLY_SEL. -/
def HBM_DLY_LANE : Fld := { off := 0x8C, hi := 19, lo := 14, acc := .rw, rst := 0x0 }
/-- R351, register HBM_DLY_SEL. -/
def HBM_DLY_VAL : Fld := { off := 0x8C, hi := 9, lo := 0, acc := .rw, rst := 0x0 }
/-- R351, register HBM_TRN_MARK. -/
def HBM_TRN_GO : Fld := { off := 0x90, hi := 7, lo := 7, acc := .wo, rst := 0x0 }
/-- R351, register HBM_TRN_MARK. -/
def HBM_TRN_VALUE : Fld := { off := 0x90, hi := 6, lo := 6, acc := .rw, rst := 0x0 }
/-- R351, register HBM_TRN_MARK. -/
def HBM_TRN_RATE : Fld := { off := 0x90, hi := 3, lo := 0, acc := .rw, rst := 0x0 }

/-! Fields of page kind hbm3. -/
/-- R352, register HBM_SCRUB. -/
def HBM_SCRUB_EN : Fld := { off := 0x80, hi := 31, lo := 31, acc := .rw, rst := 0x1 }
/-- R352, register HBM_SCRUB. -/
def HBM_SCRUB_HRS : Fld := { off := 0x80, hi := 7, lo := 0, acc := .rw, rst := 0x18 }
/-- R352, register HBM_UE_LO. -/
def HBM_UE_ADDR_LO : Fld := { off := 0x84, hi := 31, lo := 0, acc := .ro, rst := 0x0 }
/-- R352, register HBM_UE_HI. -/
def HBM_UE_PORT : Fld := { off := 0x88, hi := 31, lo := 29, acc := .ro, rst := 0x0 }
/-- R352, register HBM_UE_HI. -/
def HBM_UE_ADDR_HI : Fld := { off := 0x88, hi := 5, lo := 0, acc := .ro, rst := 0x0 }
/-- R352, register HBM_ECC_INJ. -/
def HBM_INJ_GO : Fld := { off := 0x8C, hi := 31, lo := 31, acc := .wo, rst := 0x0 }
/-- R352, register HBM_ECC_INJ. -/
def HBM_INJ_KIND : Fld := { off := 0x8C, hi := 30, lo := 29, acc := .rw, rst := 0x0 }
/-- R352, register HBM_ECC_INJ. -/
def HBM_INJ_PORT : Fld := { off := 0x8C, hi := 2, lo := 0, acc := .rw, rst := 0x0 }

/-! Fields of page kind sump. -/
/-- R353, register SUMP_MAPi. -/
def SUMP_MAP : Fld := { off := 0x80, hi := 16, lo := 0, acc := .rw, rst := 0x0, stride := 0x4, cnt := 11, rsts := [1, 2, 4, 8, 16, 32, 64, 128, 256, 512, 1024] }
/-- R353, register SUMP_WIN_LO. -/
def SUMP_WIN_ADDR_LO : Fld := { off := 0xB0, hi := 31, lo := 11, acc := .rw, rst := 0x0 }
/-- R353, register SUMP_WIN_HI. -/
def SUMP_WIN_ADDR_HI : Fld := { off := 0xB4, hi := 5, lo := 0, acc := .rw, rst := 0x0 }
/-- R353, register SUMP_WIN_STAT. -/
def SUMP_WIN_UE : Fld := { off := 0xB8, hi := 0, lo := 0, acc := .rc, rst := 0x0 }
/-- R353, register RT_CTRL. -/
def RT_HBM_EN : Fld := { off := 0xC0, hi := 31, lo := 31, acc := .rw, rst := 0x1 }
/-- R353, register RT_CTRL. -/
def RT_SER_EN : Fld := { off := 0xC0, hi := 30, lo := 30, acc := .rw, rst := 0x1 }
/-- R353, register RT_CTRL. -/
def RT_CXL_EN : Fld := { off := 0xC0, hi := 29, lo := 29, acc := .rw, rst := 0x1 }
/-- R353, register RT_CTRL. -/
def RT_DEMAND_MAX : Fld := { off := 0xC0, hi := 15, lo := 8, acc := .rw, rst := 0x32 }
/-- R353, register RT_CTRL. -/
def RT_CHECK_S : Fld := { off := 0xC0, hi := 7, lo := 0, acc := .rw, rst := 0x3C }
/-- R353, register RT_THR. -/
def RT_HBM_MARGIN : Fld := { off := 0xC4, hi := 31, lo := 24, acc := .rw, rst := 0x14 }
/-- R353, register RT_THR. -/
def RT_SER_DWELL : Fld := { off := 0xC4, hi := 23, lo := 16, acc := .rw, rst := 0x64 }
/-- R353, register RT_THR. -/
def RT_CE_THR : Fld := { off := 0xC4, hi := 15, lo := 0, acc := .rw, rst := 0x3E8 }
/-- R353, register RT_CXL. -/
def RT_CXL_REPLAY : Fld := { off := 0xC8, hi := 15, lo := 0, acc := .rw, rst := 0x10 }

/-! Fields of page kind far0. -/
/-- R354, register FAR_CTRL. -/
def FAR_LINK_EN : Fld := { off := 0x80, hi := 31, lo := 31, acc := .rw, rst := 0x0 }
/-- R354, register FAR_CTRL. -/
def FAR_PERST_MS : Fld := { off := 0x80, hi := 15, lo := 0, acc := .rw, rst := 0x64 }
/-- R354, register FAR_LINK. -/
def FAR_STATE : Fld := { off := 0x84, hi := 31, lo := 28, acc := .ro, rst := 0x0 }
/-- R354, register FAR_LINK. -/
def FAR_ENUM_RC : Fld := { off := 0x84, hi := 27, lo := 24, acc := .ro, rst := 0x0 }
/-- R354, register FAR_LINK. -/
def FAR_SPEED : Fld := { off := 0x84, hi := 23, lo := 22, acc := .ro, rst := 0x0 }
/-- R354, register FAR_LINK. -/
def FAR_WIDTH : Fld := { off := 0x84, hi := 21, lo := 16, acc := .ro, rst := 0x0 }
/-- R354, register FAR_LINK. -/
def FAR_LINK_GEN : Fld := { off := 0x84, hi := 15, lo := 0, acc := .ro, rst := 0x0 }
/-- R354, register FAR_MEM_SIZE. -/
def FAR_MEM_SIZE : Fld := { off := 0x88, hi := 11, lo := 0, acc := .ro, rst := 0x0 }
/-- R354, register FAR_DATA_BASE. -/
def FAR_DATA_BASE : Fld := { off := 0x8C, hi := 11, lo := 0, acc := .rw, rst := 0x0 }
/-- R354, register FAR_DATA_SIZE. -/
def FAR_DATA_SIZE : Fld := { off := 0x90, hi := 11, lo := 0, acc := .rw, rst := 0x0 }
/-- R354, register FAR_SIDE_BASE. -/
def FAR_SIDE_BASE : Fld := { off := 0x94, hi := 11, lo := 0, acc := .rw, rst := 0x0 }
/-- R354, register FAR_TIMEOUT. -/
def FAR_TIMEOUT : Fld := { off := 0x98, hi := 15, lo := 0, acc := .rw, rst := 0x2710 }
/-- R354, register FAR_INJ. -/
def FAR_INJ_GO : Fld := { off := 0x9C, hi := 31, lo := 31, acc := .wo, rst := 0x0 }
/-- R354, register FAR_INJ. -/
def FAR_INJ_KIND : Fld := { off := 0x9C, hi := 30, lo := 29, acc := .rw, rst := 0x0 }

/-! Fields of page kind far1. -/
/-- R355, register FAR_IO_ADDR_LO. -/
def FAR_IO_ADDR_LO : Fld := { off := 0x80, hi := 31, lo := 0, acc := .rw, rst := 0x0 }
/-- R355, register FAR_IO_ADDR_HI. -/
def FAR_IO_ADDR_HI : Fld := { off := 0x84, hi := 31, lo := 0, acc := .rw, rst := 0x0 }
/-- R355, register FAR_IO_DATA. -/
def FAR_IO_DATA : Fld := { off := 0x88, hi := 31, lo := 0, acc := .rw, rst := 0x0 }
/-- R355, register FAR_IO_CMD. -/
def FAR_IO_GO : Fld := { off := 0x8C, hi := 31, lo := 31, acc := .wo, rst := 0x0 }
/-- R355, register FAR_IO_CMD. -/
def FAR_IO_WR : Fld := { off := 0x8C, hi := 30, lo := 30, acc := .rw, rst := 0x0 }
/-- R355, register FAR_IO_CMD. -/
def FAR_IO_SPACE : Fld := { off := 0x8C, hi := 29, lo := 28, acc := .rw, rst := 0x0 }
/-- R355, register FAR_IO_CMD. -/
def FAR_IO_BE : Fld := { off := 0x8C, hi := 3, lo := 0, acc := .rw, rst := 0xF }
/-- R355, register FAR_IO_STAT. -/
def FAR_IO_BUSY : Fld := { off := 0x90, hi := 31, lo := 31, acc := .ro, rst := 0x0 }
/-- R355, register FAR_IO_STAT. -/
def FAR_IO_RC : Fld := { off := 0x90, hi := 30, lo := 28, acc := .ro, rst := 0x0 }

/-! Fields of page kind core0. -/
/-- R385, register GRT_CORE_CTRL. -/
def GRT_CORE_RESTART : Fld := { off := 0x80, hi := 31, lo := 31, acc := .wo, rst := 0x0 }
/-- R385, register GRT_POL. -/
def GRT_RESTART_MAX : Fld := { off := 0x84, hi := 15, lo := 8, acc := .rw, rst := 0x3 }
/-- R385, register GRT_POL. -/
def GRT_POL_DL : Fld := { off := 0x84, hi := 3, lo := 2, acc := .rw, rst := 0x0 }
/-- R385, register GRT_POL. -/
def GRT_POL_FLT : Fld := { off := 0x84, hi := 1, lo := 0, acc := .rw, rst := 0x0 }
/-- R385, register GRT_ICU_FWD. -/
def GRT_ICU_EN : Fld := { off := 0x88, hi := 31, lo := 31, acc := .rw, rst := 0x0 }
/-- R385, register GRT_ICU_FWD. -/
def GRT_ICU_THREAD : Fld := { off := 0x88, hi := 6, lo := 4, acc := .rw, rst := 0x0 }
/-- R385, register GRT_ICU_FWD. -/
def GRT_ICU_BIT : Fld := { off := 0x88, hi := 3, lo := 0, acc := .rw, rst := 0x0 }
/-- R385, register GRT_DL. -/
def GRT_DL_CYC : Fld := { off := 0x8C, hi := 31, lo := 16, acc := .rw, rst := 0x400 }
/-- R385, register GRT_DL. -/
def GRT_DL_THREADS : Fld := { off := 0x8C, hi := 7, lo := 0, acc := .ro, rst := 0x0 }
/-- R385, register GRT_SLOTk. -/
def GRT_SLOT0 : Fld := { off := 0xC0, hi := 3, lo := 0, acc := .rw, rst := 0x0, stride := 0x4, cnt := 8 }
/-- R385, register GRT_SLOTk. -/
def GRT_SLOT1 : Fld := { off := 0xC0, hi := 7, lo := 4, acc := .rw, rst := 0x1, stride := 0x4, cnt := 8 }
/-- R385, register GRT_SLOTk. -/
def GRT_SLOT2 : Fld := { off := 0xC0, hi := 11, lo := 8, acc := .rw, rst := 0x2, stride := 0x4, cnt := 8 }
/-- R385, register GRT_SLOTk. -/
def GRT_SLOT3 : Fld := { off := 0xC0, hi := 15, lo := 12, acc := .rw, rst := 0x3, stride := 0x4, cnt := 8 }
/-- R385, register GRT_SLOTk. -/
def GRT_SLOT4 : Fld := { off := 0xC0, hi := 19, lo := 16, acc := .rw, rst := 0x4, stride := 0x4, cnt := 8 }
/-- R385, register GRT_SLOTk. -/
def GRT_SLOT5 : Fld := { off := 0xC0, hi := 23, lo := 20, acc := .rw, rst := 0x5, stride := 0x4, cnt := 8 }
/-- R385, register GRT_SLOTk. -/
def GRT_SLOT6 : Fld := { off := 0xC0, hi := 27, lo := 24, acc := .rw, rst := 0x6, stride := 0x4, cnt := 8 }
/-- R385, register GRT_SLOTk. -/
def GRT_SLOT7 : Fld := { off := 0xC0, hi := 31, lo := 28, acc := .rw, rst := 0x7, stride := 0x4, cnt := 8 }

/-! Fields of page kind core1. -/
/-- R386, register GRT_TH_CMDt. -/
def GRT_TH_CMD : Fld := { off := 0x80, hi := 2, lo := 0, acc := .wo, rst := 0x0, stride := 0x20, cnt := 8 }
/-- R386, register GRT_TH_STATt. -/
def GRT_TH_STATE : Fld := { off := 0x84, hi := 31, lo := 28, acc := .ro, rst := 0x0, stride := 0x20, cnt := 8 }
/-- R386, register GRT_TH_STATt. -/
def GRT_TH_CAUSE : Fld := { off := 0x84, hi := 27, lo := 24, acc := .ro, rst := 0x0, stride := 0x20, cnt := 8 }
/-- R386, register GRT_TH_STATt. -/
def GRT_TH_PRIOR : Fld := { off := 0x84, hi := 23, lo := 20, acc := .ro, rst := 0x0, stride := 0x20, cnt := 8 }
/-- R386, register GRT_TH_ENTRYt. -/
def GRT_TH_ENTRY : Fld := { off := 0x88, hi := 31, lo := 0, acc := .rw, rst := 0x0, stride := 0x20, cnt := 8 }
/-- R386, register GRT_TH_PCt. -/
def GRT_TH_PC : Fld := { off := 0x8C, hi := 31, lo := 0, acc := .ro, rst := 0x0, stride := 0x20, cnt := 8 }
/-- R386, register GRT_TH_FADDRt. -/
def GRT_TH_FADDR : Fld := { off := 0x90, hi := 31, lo := 0, acc := .ro, rst := 0x0, stride := 0x20, cnt := 8 }
/-- R386, register GRT_TH_WMASKt. -/
def GRT_TH_WMASK : Fld := { off := 0x94, hi := 31, lo := 0, acc := .ro, rst := 0x0, stride := 0x20, cnt := 8 }
/-- R386, register GRT_TH_EVTt. -/
def GRT_TH_EVT : Fld := { off := 0x98, hi := 31, lo := 0, acc := .ro, rst := 0x0, stride := 0x20, cnt := 8 }

/-! Fields of page kind core2. -/
/-- R387, register GRT_DBG_CMD. -/
def GRT_DBG_GO : Fld := { off := 0x80, hi := 31, lo := 31, acc := .wo, rst := 0x0 }
/-- R387, register GRT_DBG_CMD. -/
def GRT_DBG_OP : Fld := { off := 0x80, hi := 30, lo := 28, acc := .rw, rst := 0x0 }
/-- R387, register GRT_DBG_CMD. -/
def GRT_DBG_THREAD : Fld := { off := 0x80, hi := 26, lo := 24, acc := .rw, rst := 0x0 }
/-- R387, register GRT_DBG_CMD. -/
def GRT_DBG_WIN : Fld := { off := 0x80, hi := 21, lo := 20, acc := .rw, rst := 0x0 }
/-- R387, register GRT_DBG_CMD. -/
def GRT_DBG_COUNT : Fld := { off := 0x80, hi := 15, lo := 0, acc := .rw, rst := 0x0 }
/-- R387, register GRT_DBG_SEL. -/
def GRT_DBG_SEL : Fld := { off := 0x84, hi := 5, lo := 0, acc := .rw, rst := 0x0 }
/-- R387, register GRT_DBG_DATA_LO. -/
def GRT_DBG_DATA_LO : Fld := { off := 0x88, hi := 31, lo := 0, acc := .rw, rst := 0x0 }
/-- R387, register GRT_DBG_DATA_HI. -/
def GRT_DBG_DATA_HI : Fld := { off := 0x8C, hi := 31, lo := 0, acc := .rw, rst := 0x0 }
/-- R387, register GRT_DBG_STAT. -/
def GRT_DBG_BUSY : Fld := { off := 0x90, hi := 31, lo := 31, acc := .ro, rst := 0x0 }
/-- R387, register GRT_DBG_STAT. -/
def GRT_DBG_RC : Fld := { off := 0x90, hi := 30, lo := 28, acc := .ro, rst := 0x0 }
/-- R387, register GRT_INJ. -/
def GRT_INJ_GO : Fld := { off := 0x94, hi := 31, lo := 31, acc := .wo, rst := 0x0 }
/-- R387, register GRT_INJ. -/
def GRT_INJ_KIND : Fld := { off := 0x94, hi := 30, lo := 30, acc := .rw, rst := 0x0 }
/-- R387, register GRT_INJ. -/
def GRT_INJ_THREAD : Fld := { off := 0x94, hi := 2, lo := 0, acc := .rw, rst := 0x0 }

/-! Fields of page kind cplx0. -/
/-- R389, register GRT_PORT_CHg. -/
def GRT_PORT_EN : Fld := { off := 0x80, hi := 31, lo := 31, acc := .rw, rst := 0x0, stride := 0x4, cnt := 8 }
/-- R389, register GRT_PORT_CHg. -/
def GRT_PORT_CH : Fld := { off := 0x80, hi := 9, lo := 0, acc := .rw, rst := 0x0, stride := 0x4, cnt := 8 }
/-- R389, register GRT_INJ_CHg. -/
def GRT_INJ_EN : Fld := { off := 0xA0, hi := 31, lo := 31, acc := .rw, rst := 0x0, stride := 0x4, cnt := 8 }
/-- R389, register GRT_INJ_CHg. -/
def GRT_INJ_CH : Fld := { off := 0xA0, hi := 9, lo := 0, acc := .rw, rst := 0x0, stride := 0x4, cnt := 8 }
/-- R389, register GRT_TSRET. -/
def GRT_TS_EN : Fld := { off := 0xC0, hi := 31, lo := 31, acc := .rw, rst := 0x0 }
/-- R389, register GRT_TSRET. -/
def GRT_TS_CH : Fld := { off := 0xC0, hi := 9, lo := 0, acc := .rw, rst := 0x0 }
/-- R389, register GRT_CH_WIN. -/
def GRT_CH_WIN : Fld := { off := 0xC4, hi := 3, lo := 0, acc := .rw, rst := 0x0 }

/-! Fields of page kind hif. -/
/-- R444, register HIF_LINK. -/
def HIF_SPEED : Fld := { off := 0x80, hi := 31, lo := 28, acc := .ro, rst := 0x0 }
/-- R444, register HIF_LINK. -/
def HIF_WIDTH : Fld := { off := 0x80, hi := 27, lo := 22, acc := .ro, rst := 0x0 }
/-- R444, register HIF_LINK. -/
def HIF_LINK_UP : Fld := { off := 0x80, hi := 21, lo := 21, acc := .ro, rst := 0x0 }
/-- R444, register HIF_LINK. -/
def HIF_BME : Fld := { off := 0x80, hi := 20, lo := 20, acc := .ro, rst := 0x0 }
/-- R444, register HIF_PUNT_MAPc. -/
def HIF_PUNT_HOLD : Fld := { off := 0xA0, hi := 31, lo := 31, acc := .rw, rst := 0x0, stride := 0x4, cnt := 8 }
/-- R444, register HIF_PUNT_MAPc. -/
def HIF_PUNT_SPREAD : Fld := { off := 0xA0, hi := 10, lo := 8, acc := .rw, rst := 0x0, stride := 0x4, cnt := 8 }
/-- R444, register HIF_PUNT_MAPc. -/
def HIF_PUNT_RING : Fld := { off := 0xA0, hi := 7, lo := 0, acc := .rw, rst := 0x0, stride := 0x4, cnt := 8 }
/-- R444, register HIF_INJ. -/
def HIF_INJ_GO : Fld := { off := 0xC0, hi := 31, lo := 31, acc := .wo, rst := 0x0 }
/-- R444, register HIF_INJ. -/
def HIF_INJ_KIND : Fld := { off := 0xC0, hi := 30, lo := 29, acc := .rw, rst := 0x0 }
/-- R444, register HIF_INJ. -/
def HIF_INJ_RING : Fld := { off := 0xC0, hi := 7, lo := 0, acc := .rw, rst := 0x0 }

/-! Fields of page kind boot. -/
/-- R415, register BOOT_STAT. -/
def BOOT_STAGE : Fld := { off := 0x80, hi := 31, lo := 28, acc := .ro, rst := 0x0 }
/-- R415, register BOOT_STAT. -/
def BOOT_ERR : Fld := { off := 0x80, hi := 27, lo := 24, acc := .ro, rst := 0x0 }
/-- R415, register BOOT_STAT. -/
def BOOT_ERR_ENT : Fld := { off := 0x80, hi := 23, lo := 19, acc := .ro, rst := 0x0 }
/-- R415, register BOOT_STAT. -/
def BOOT_FROM_HOST : Fld := { off := 0x80, hi := 0, lo := 0, acc := .ro, rst := 0x0 }
/-- R415, register BOOT_TIME_MS. -/
def BOOT_TIME_MS : Fld := { off := 0x84, hi := 31, lo := 0, acc := .ro, rst := 0x0 }
/-- R415, register BOOT_IMG_OK. -/
def BOOT_IMG_OK : Fld := { off := 0x88, hi := 31, lo := 0, acc := .ro, rst := 0x0 }
/-- R415, register BOOT_IMG_FAIL. -/
def BOOT_IMG_FAIL : Fld := { off := 0x8C, hi := 31, lo := 0, acc := .ro, rst := 0x0 }
/-- R415, register BOOT_FUSE. -/
def BOOT_KEY_PROV : Fld := { off := 0x90, hi := 31, lo := 28, acc := .ro, rst := 0x0 }
/-- R415, register BOOT_FUSE. -/
def BOOT_KEY_REVOKED : Fld := { off := 0x90, hi := 27, lo := 24, acc := .ro, rst := 0x0 }
/-- R415, register BOOT_FUSE. -/
def BOOT_SVN_V : Fld := { off := 0x90, hi := 23, lo := 18, acc := .ro, rst := 0x0 }
/-- R415, register BOOT_FUSE. -/
def BOOT_SVN_C : Fld := { off := 0x90, hi := 17, lo := 12, acc := .ro, rst := 0x0 }
/-- R415, register BOOT_FUSE. -/
def BOOT_COMPAT_SUP : Fld := { off := 0x90, hi := 7, lo := 0, acc := .ro, rst := 0x2 }
/-- R415, register BOOT_PATCH_VER. -/
def BOOT_GRT_PATCH_VER : Fld := { off := 0x94, hi := 31, lo := 16, acc := .ro, rst := 0x0 }
/-- R415, register BOOT_PATCH_VER. -/
def BOOT_AE_PATCH_VER : Fld := { off := 0x94, hi := 15, lo := 0, acc := .ro, rst := 0x0 }
/-- R415, register BOOT_LD_CTRL. -/
def BOOT_LD_GO : Fld := { off := 0x98, hi := 31, lo := 31, acc := .wo, rst := 0x0 }
/-- R415, register BOOT_LD_CTRL. -/
def BOOT_LD_RESUME : Fld := { off := 0x98, hi := 30, lo := 30, acc := .wo, rst := 0x0 }
/-- R415, register BOOT_LD_CTRL. -/
def BOOT_FLASH_REL : Fld := { off := 0x98, hi := 29, lo := 29, acc := .rw, rst := 0x0 }
/-- R415, register BOOT_LD_CTRL. -/
def BOOT_LD_LEN : Fld := { off := 0x98, hi := 20, lo := 0, acc := .rw, rst := 0x0 }
/-- R415, register BOOT_LD_STAT. -/
def BOOT_LD_BUSY : Fld := { off := 0x9C, hi := 31, lo := 31, acc := .ro, rst := 0x0 }
/-- R415, register BOOT_LD_STAT. -/
def BOOT_LD_RC : Fld := { off := 0x9C, hi := 30, lo := 27, acc := .ro, rst := 0x0 }
/-- R415, register BOOT_LD_WIN. -/
def BOOT_LD_WIN : Fld := { off := 0xA0, hi := 8, lo := 0, acc := .rw, rst := 0x0 }
/-- R415, register BOOT_PROV. -/
def BOOT_PROV_GO : Fld := { off := 0xA4, hi := 31, lo := 31, acc := .wo, rst := 0x0 }
/-- R415, register BOOT_PROV. -/
def BOOT_PROV_REVOKE : Fld := { off := 0xA4, hi := 30, lo := 30, acc := .rw, rst := 0x0 }
/-- R415, register BOOT_PROV. -/
def BOOT_PROV_SLOT : Fld := { off := 0xA4, hi := 1, lo := 0, acc := .rw, rst := 0x0 }
/-- R415, register BOOT_INJ. -/
def BOOT_INJ_GO : Fld := { off := 0xA8, hi := 31, lo := 31, acc := .wo, rst := 0x0 }
/-- R415, register BOOT_INJ. -/
def BOOT_INJ_KIND : Fld := { off := 0xA8, hi := 30, lo := 29, acc := .rw, rst := 0x0 }

/-! Fields of page kind ring. -/
/-- R445, register RING_CFG. -/
def RING_EN : Fld := { off := 0x80, hi := 31, lo := 31, acc := .rw, rst := 0x0 }
/-- R445, register RING_CFG. -/
def RING_KIND : Fld := { off := 0x80, hi := 30, lo := 28, acc := .rw, rst := 0x0 }
/-- R445, register RING_CFG. -/
def RING_LOG2 : Fld := { off := 0x80, hi := 27, lo := 23, acc := .rw, rst := 0x0 }
/-- R445, register RING_CFG. -/
def RING_GAL : Fld := { off := 0x80, hi := 22, lo := 20, acc := .rw, rst := 0x0 }
/-- R445, register RING_CFG. -/
def RING_WB_EN : Fld := { off := 0x80, hi := 19, lo := 19, acc := .rw, rst := 0x0 }
/-- R445, register RING_CFG. -/
def RING_AUX : Fld := { off := 0x80, hi := 15, lo := 8, acc := .rw, rst := 0xFF }
/-- R445, register RING_BASE_LO. -/
def RING_BASE_LO : Fld := { off := 0x84, hi := 31, lo := 0, acc := .rw, rst := 0x0 }
/-- R445, register RING_BASE_HI. -/
def RING_BASE_HI : Fld := { off := 0x88, hi := 31, lo := 0, acc := .rw, rst := 0x0 }
/-- R445, register RING_WB_LO. -/
def RING_WB_LO : Fld := { off := 0x8C, hi := 31, lo := 0, acc := .rw, rst := 0x0 }
/-- R445, register RING_WB_HI. -/
def RING_WB_HI : Fld := { off := 0x90, hi := 31, lo := 0, acc := .rw, rst := 0x0 }
/-- R445, register RING_PROD. -/
def RING_PROD : Fld := { off := 0x94, hi := 31, lo := 0, acc := .ro, rst := 0x0 }
/-- R445, register RING_CONS. -/
def RING_CONS : Fld := { off := 0x98, hi := 31, lo := 0, acc := .ro, rst := 0x0 }
/-- R445, register RING_STAT. -/
def RING_STATE : Fld := { off := 0x9C, hi := 31, lo := 28, acc := .ro, rst := 0x0 }
/-- R445, register RING_STAT. -/
def RING_ERR : Fld := { off := 0x9C, hi := 27, lo := 24, acc := .ro, rst := 0x0 }
/-- R445, register RING_ERR_IDX. -/
def RING_ERR_IDX : Fld := { off := 0xA0, hi := 31, lo := 0, acc := .ro, rst := 0x0 }
/-- R445, register RING_CTRL. -/
def RING_RESET : Fld := { off := 0xA4, hi := 31, lo := 31, acc := .wo, rst := 0x0 }
/-- R445, register RING_IRQ. -/
def RING_VEC : Fld := { off := 0xA8, hi := 26, lo := 16, acc := .rw, rst := 0x0 }
/-- R445, register RING_IRQ. -/
def RING_COAL_JOBS : Fld := { off := 0xA8, hi := 15, lo := 8, acc := .rw, rst := 0x1 }
/-- R445, register RING_IRQ. -/
def RING_COAL_US : Fld := { off := 0xA8, hi := 7, lo := 0, acc := .rw, rst := 0x1 }
/-- R445, register RING_RST. -/
def RING_RST_CNT : Fld := { off := 0xAC, hi := 15, lo := 0, acc := .ro, rst := 0x0 }

/-! Fields of page kind pool. -/
/-- R234, register POOL_CFG. -/
def POOL_MEM : Fld := { off := 0x80, hi := 9, lo := 8, acc := .rw, rst := 0x0 }
/-- R234, register POOL_CFG. -/
def POOL_OWNERS : Fld := { off := 0x80, hi := 5, lo := 0, acc := .rw, rst := 0x0 }
/-- R234, register POOL_SIZE. -/
def POOL_SIZE : Fld := { off := 0x84, hi := 24, lo := 0, acc := .rw, rst := 0x0 }
/-- R234, register POOL_BASE_LO. -/
def POOL_BASE_LO : Fld := { off := 0x88, hi := 31, lo := 0, acc := .rw, rst := 0x0 }
/-- R234, register POOL_BASE_HI. -/
def POOL_BASE_HI : Fld := { off := 0x8C, hi := 31, lo := 0, acc := .rw, rst := 0x0 }
/-- R234, register POOL_COUNT. -/
def POOL_COUNT : Fld := { off := 0x90, hi := 27, lo := 0, acc := .rw, rst := 0x0 }
/-- R234, register POOL_FREE_CNT. -/
def POOL_FREE_CNT : Fld := { off := 0x94, hi := 27, lo := 0, acc := .ro, rst := 0x0 }
/-- R234, register POOL_WARN. -/
def POOL_WARN : Fld := { off := 0x98, hi := 27, lo := 0, acc := .rw, rst := 0x0 }
/-- R234, register POOL_CRIT. -/
def POOL_CRIT : Fld := { off := 0x9C, hi := 27, lo := 0, acc := .rw, rst := 0x0 }
/-- R234, register POOL_MIN. -/
def POOL_MIN : Fld := { off := 0xA0, hi := 27, lo := 0, acc := .rc, rst := 0x0 }
/-- R234, register POOL_FAIL. -/
def POOL_FAIL : Fld := { off := 0xA4, hi := 31, lo := 0, acc := .rc, rst := 0x0 }
/-- R234, register POOL_DFREE. -/
def POOL_DFREE : Fld := { off := 0xA8, hi := 31, lo := 0, acc := .rc, rst := 0x0 }
/-- R234, register POOL_BADIDX. -/
def POOL_BADIDX : Fld := { off := 0xAC, hi := 31, lo := 0, acc := .rc, rst := 0x0 }
/-- R234, register POOL_LOST. -/
def POOL_LOST : Fld := { off := 0xB0, hi := 27, lo := 0, acc := .ro, rst := 0x0 }
/-- R234, register POOL_ALLOC. -/
def POOL_ALLOC_POOL : Fld := { off := 0xB4, hi := 7, lo := 4, acc := .ro, rst := 0x0 }
/-- R234, register POOL_ALLOC. -/
def POOL_ALLOC_GO : Fld := { off := 0xB4, hi := 0, lo := 0, acc := .wo, rst := 0x0 }
/-- R234, register POOL_ALLOC_RES. -/
def POOL_ALLOC_BUSY : Fld := { off := 0xB8, hi := 31, lo := 31, acc := .ro, rst := 0x0 }
/-- R234, register POOL_ALLOC_RES. -/
def POOL_ALLOC_RC : Fld := { off := 0xB8, hi := 30, lo := 29, acc := .ro, rst := 0x0 }
/-- R234, register POOL_ALLOC_RES. -/
def POOL_ALLOC_IDX : Fld := { off := 0xB8, hi := 27, lo := 0, acc := .ro, rst := 0x0 }
/-- R234, register POOL_FREE_IDX. -/
def POOL_FREE_IDX : Fld := { off := 0xBC, hi := 27, lo := 0, acc := .wo, rst := 0x0 }

/-! Fields of page kind echo0. -/
/-- R489, register ECHO_CTRL. -/
def ECHO_EN : Fld := { off := 0x80, hi := 31, lo := 31, acc := .rw, rst := 0x0 }
/-- R489, register ECHO_CTRL. -/
def ECHO_ARCH_EN : Fld := { off := 0x80, hi := 30, lo := 30, acc := .rw, rst := 0x0 }
/-- R489, register ECHO_CTRL. -/
def ECHO_SAMPLE_RAND : Fld := { off := 0x80, hi := 29, lo := 29, acc := .rw, rst := 0x0 }
/-- R489, register ECHO_CTRL. -/
def ECHO_RATE : Fld := { off := 0x80, hi := 8, lo := 0, acc := .rw, rst := 0xC8 }
/-- R489, register ECHO_SEED. -/
def ECHO_SEED : Fld := { off := 0x84, hi := 31, lo := 0, acc := .rw, rst := 0x1 }
/-- R489, register ECHO_WR. -/
def ECHO_WR : Fld := { off := 0x88, hi := 31, lo := 0, acc := .ro, rst := 0x0 }
/-- R489, register ECHO_TEL. -/
def ECHO_TEL_RING : Fld := { off := 0x8C, hi := 7, lo := 0, acc := .rw, rst := 0xFF }
/-- R489, register ECHO_ARCH_NEXT. -/
def ECHO_ARCH_NEXT : Fld := { off := 0x90, hi := 12, lo := 0, acc := .ro, rst := 0x0 }
/-- R489, register ECHO_PORT_WIN. -/
def ECHO_PORT_WIN : Fld := { off := 0x94, hi := 2, lo := 0, acc := .rw, rst := 0x0 }

/-! Fields of page kind echo1. -/
/-- R490, register ECHO_WIN_POS. -/
def ECHO_WIN_POS : Fld := { off := 0x80, hi := 21, lo := 0, acc := .rw, rst := 0x0 }

/-! Fields of page kind snp. -/
/-- R490, register SNP_CTRL. -/
def SNP_GO : Fld := { off := 0x80, hi := 31, lo := 31, acc := .wo, rst := 0x0 }
/-- R490, register SNP_CTRL. -/
def SNP_AT_EN : Fld := { off := 0x80, hi := 30, lo := 30, acc := .rw, rst := 0x0 }
/-- R490, register SNP_CTRL. -/
def SNP_BUSY : Fld := { off := 0x80, hi := 29, lo := 29, acc := .ro, rst := 0x0 }
/-- R490, register SNP_CTRL. -/
def SNP_RC : Fld := { off := 0x80, hi := 28, lo := 25, acc := .ro, rst := 0x0 }
/-- R490, register SNP_CTRL. -/
def SNP_PORT : Fld := { off := 0x80, hi := 24, lo := 24, acc := .rw, rst := 0x0 }
/-- R490, register SNP_CTRL. -/
def SNP_TEL_RING : Fld := { off := 0x80, hi := 7, lo := 0, acc := .rw, rst := 0xFF }
/-- R490, register SNP_FIRST. -/
def SNP_FIRST : Fld := { off := 0x84, hi := 29, lo := 0, acc := .rw, rst := 0x0 }
/-- R490, register SNP_COUNT. -/
def SNP_COUNT : Fld := { off := 0x88, hi := 30, lo := 0, acc := .rw, rst := 0x0 }
/-- R490, register SNP_ADDR_LO. -/
def SNP_ADDR_LO : Fld := { off := 0x8C, hi := 31, lo := 0, acc := .rw, rst := 0x0 }
/-- R490, register SNP_ADDR_HI. -/
def SNP_ADDR_HI : Fld := { off := 0x90, hi := 31, lo := 0, acc := .rw, rst := 0x0 }
/-- R490, register SNP_TNS. -/
def SNP_TNS : Fld := { off := 0x94, hi := 29, lo := 0, acc := .rw, rst := 0x0 }
/-- R490, register SNP_TSECLO. -/
def SNP_TSECLO : Fld := { off := 0x98, hi := 31, lo := 0, acc := .rw, rst := 0x0 }
/-- R490, register SNP_TSECHI. -/
def SNP_TSECHI : Fld := { off := 0x9C, hi := 15, lo := 0, acc := .rw, rst := 0x0 }
/-- R490, register SNP_SEQ. -/
def SNP_SEQ : Fld := { off := 0xA0, hi := 31, lo := 0, acc := .ro, rst := 0x0 }

/-! Event bits (EVT_PEND) and block fault bits (FLT_STAT) of each page. -/
def TH_EVT_HOT : Nat := 0
def TH_EVT_THROTTLE : Nat := 1
def TOD_EVT_STEP : Nat := 2
def TOD_EVT_REF_LOSS : Nat := 3
def TOD_EVT_PPS_LOSS : Nat := 4
def TOD_EVT_INVALID : Nat := 5
def TOD_EVT_PPS : Nat := 6
def LAMP_EVT_GLW : Nat := 7
def LAMP_EVT_BADCFG : Nat := 8
def LAMP_EVT_NOTGT : Nat := 9
def CLK_EVT_LOL : Nat := 0
def CLK_EVT_SQUELCH : Nat := 1
def GOV_EVT_HIGH : Nat := 0
def GOV_EVT_LOST : Nat := 1
def GOV_EVT_BADMODE : Nat := 2
def GOV_EVT_BADRD : Nat := 3
def GOV_EVT_OWNER : Nat := 4
def GOV_EVT_STALL : Nat := 5
def CAIRN_EVT_DONE : Nat := 0
def CAIRN_EVT_POISON : Nat := 8
def CAIRN_EVT_WAIT : Nat := 9
def CAIRN_EVT_LATE : Nat := 10
def CAIRN_EVT_OWNER : Nat := 11
def CAIRN_EVT_BADCMD : Nat := 12
def ICU_EVT_REQUEUE : Nat := 0
def ICU_EVT_BADACK : Nat := 1
def ICU_EVT_BADCFG : Nat := 2
def FMU_EVT_REC : Nat := 0
def FMU_EVT_LOST : Nat := 1
def FMU_EVT_HIGH : Nat := 2
def FMU_EVT_FATAL : Nat := 3
def FMU_EVT_BADCFG : Nat := 4
def SVY_EVT_WINDOW : Nat := 0
def SVY_EVT_WRAP : Nat := 1
def SVY_EVT_DENIED : Nat := 2
def SVY_EVT_BADCFG : Nat := 3
def GAL_EVT_REST_BLOCK : Nat := 0
def GAL_EVT_BOOST : Nat := 1
def GAL_EVT_PARK_DROP : Nat := 2
def GAL_EVT_WAKE_LATE : Nat := 3
def GAL_EVT_BADREQ : Nat := 4
def ENT_EVT_FULL : Nat := 0
def ENT_EVT_BADTHR : Nat := 1
def ENT_EVT_OVERLOAD : Nat := 2
def PORT_EVT_NOTPORT : Nat := 0
def PORT_EVT_TRAIN_TO : Nat := 1
def PORT_EVT_PFC_WD : Nat := 2
def PORT_EVT_STOMP : Nat := 3
def PORT_EVT_HI_SER : Nat := 4
def PORT_EVT_BADCFG : Nat := 5
def PORT_EVT_LINK : Nat := 6
def MSEC_EVT_PN_THR : Nat := 0
def MSEC_EVT_PN_EXH : Nat := 1
def MSEC_EVT_BADENT : Nat := 2
def PAR_EVT_MAL : Nat := 0
def PAR_EVT_BADCFG : Nat := 1
def PAR_EVT_KPOVER : Nat := 2
def ACT_EVT_HCHK : Nat := 0
def ACT_EVT_IDX : Nat := 1
def ACT_EVT_BADCFG : Nat := 2
def REW_EVT_PTP : Nat := 0
def REW_EVT_DCHK : Nat := 1
def CHM_EVT_ORPHAN : Nat := 0
def CHM_EVT_BKLG_FULL : Nat := 1
def CHM_EVT_PUSHOUT : Nat := 2
def CHM_EVT_REFILL_LATE : Nat := 3
def CHM_EVT_BADPROF : Nat := 4
def CHM_EVT_BADCFG : Nat := 5
def SCH_EVT_STATE : Nat := 0
def SCH_EVT_SLOT : Nat := 1
def SCH_EVT_DETACH : Nat := 2
def SCH_EVT_BADCFG : Nat := 3
def RIM_EVT_OVR : Nat := 0
def RIM_EVT_LOST : Nat := 1
def RIM_EVT_DISC : Nat := 2
def VLT_EVT_STALL : Nat := 0
def VLT_EVT_DIGEST : Nat := 1
def EXM_EVT_PARITY : Nat := 0
def EXM_EVT_DUP : Nat := 1
def EXM_EVT_FULL : Nat := 2
def EXM_EVT_STASH : Nat := 3
def EXM_EVT_BADCFG : Nat := 4
def LPM_EVT_DEPTH : Nat := 0
def LPM_EVT_PARITY : Nat := 1
def LPM_EVT_BADENT : Nat := 2
def LPM_EVT_BADENV : Nat := 3
def DS_EVT_PARITY : Nat := 0
def DS_EVT_SCRUB : Nat := 1
def DS_EVT_FALSEHIT : Nat := 2
def DS_EVT_HIGH : Nat := 3
def DS_EVT_BADENT : Nat := 4
def CLS_EVT_FALSEHIT : Nat := 0
def CLS_EVT_PARITY : Nat := 1
def CLS_EVT_SCRUB : Nat := 2
def CLS_EVT_BADENT : Nat := 3
def LKP_EVT_INVALID : Nat := 0
def LKP_EVT_PARITY : Nat := 1
def POL_EVT_PAR : Nat := 0
def STC_EVT_ECC : Nat := 1
def STC_EVT_FLUSHED : Nat := 2
def POL_EVT_BADENT : Nat := 3
def HBM_EVT_CE_HI : Nat := 0
def HBM_EVT_HOT : Nat := 1
def HBM_EVT_STEP_FAIL : Nat := 2
def HBM_EVT_STEP_DONE : Nat := 3
def HBM_EVT_BADCFG : Nat := 4
def HBM_EVT_PANIC : Nat := 0
def HBM_EVT_QOSCFG : Nat := 1
def HBM_EVT_CMP_DONE : Nat := 0
def HBM_EVT_CE : Nat := 0
def HBM_EVT_UE : Nat := 1
def HBM_EVT_SIDE : Nat := 2
def SUMP_EVT_BADCFG : Nat := 0
def RT_EVT_SER_GIVEUP : Nat := 1
def FAR_EVT_ENUM_FAIL : Nat := 0
def FAR_EVT_LINK : Nat := 1
def FAR_EVT_REPLAY_HI : Nat := 2
def FAR_EVT_BADCFG : Nat := 3
def GRT_EVT_BADCFG : Nat := 0
def GRT_EVT_DENIED : Nat := 1
def GRT_EVT_DEADLOCK : Nat := 2
def GRT_EVT_GIVEUP : Nat := 3
def GRT_EVT_CHCFG : Nat := 0
def HIF_EVT_PUNT_DROP : Nat := 0
def HIF_EVT_NOPOOL : Nat := 1
def HIF_EVT_FLR : Nat := 2
def HIF_EVT_LINK : Nat := 3
def HIF_EVT_BADCFG : Nat := 4
def BOOT_EVT_BADCMD : Nat := 0
def BOOT_EVT_LD_DONE : Nat := 1
def BOOT_EVT_IMG_FAIL : Nat := 2
def BOOT_EVT_DONE : Nat := 3
def RING_EVT_CMPL : Nat := 0
def RING_EVT_DROP : Nat := 1
def RING_EVT_PROTO : Nat := 2
def RING_EVT_BADCFG : Nat := 3
def POOL_EVT_EMPTY : Nat := 0
def POOL_EVT_CRIT : Nat := 1
def POOL_EVT_WARN : Nat := 2
def POOL_EVT_BADCFG : Nat := 3
def ECHO_EVT_DROP : Nat := 0
def ECHO_EVT_SKIP : Nat := 1
def ECHO_EVT_ARCH : Nat := 2
def ECHO_EVT_BADCFG : Nat := 3
def SNP_EVT_FAIL : Nat := 0
def SNP_EVT_DONE : Nat := 1
def SNP_EVT_BADCFG : Nat := 2
def TH_FLT_TRIP : Nat := 0
def TH_FLT_SENSOR : Nat := 1
def GLW_FLT_TRIP : Nat := 2
def CLK_FLT_LOL : Nat := 0
def ICU_FLT_STATE : Nat := 0
def FMU_FLT_REC_ECC : Nat := 0
def GAL_FLT_PGOOD : Nat := 0
def ENT_FLT_ECC : Nat := 0
def PORT_FLT_PCS : Nat := 0
def PORT_FLT_TSU : Nat := 1
def MSEC_FLT_KEY_ECC : Nat := 0
def PAR_FLT_PARSER : Nat := 0
def ACT_FLT_HCHK : Nat := 0
def ACT_FLT_UCODE : Nat := 1
def ACT_FLT_PATCH_PAR : Nat := 0
def REW_FLT_DCHK : Nat := 0
def CHM_FLT_FAR_UE : Nat := 0
def CHM_FLT_SUMP_UE : Nat := 1
def CHM_FLT_CELLCHK : Nat := 2
def CHM_FLT_LINK : Nat := 3
def SCH_FLT_STATE_ECC : Nat := 0
def SCH_FLT_CFG_ECC : Nat := 1
def RIM_FLT_SELF : Nat := 0
def RIM_FLT_DISC : Nat := 1
def VLT_FLT_DIGEST : Nat := 0
def DS_FLT_VERIFY_EXH : Nat := 0
def DS_FLT_COPY : Nat := 1
def CLS_FLT_VERIFY_EXH : Nat := 0
def CLS_FLT_COPY : Nat := 1
def POL_FLT_ECC : Nat := 0
def STC_FLT_ECC : Nat := 1
def HBM_FLT_OVERTEMP : Nat := 0
def HBM_FLT_UE : Nat := 0
def HBM_FLT_SIDE : Nat := 1
def FAR_FLT_POISON : Nat := 0
def FAR_FLT_TIMEOUT : Nat := 1
def FAR_FLT_LINK : Nat := 2
def GRT_FLT_THREAD : Nat := 0
def GRT_FLT_SUPV : Nat := 1
def GRT_FLT_DEADLOCK : Nat := 2
def GRT_FLT_MEM_UE : Nat := 3
def HIF_FLT_LINK_DOWN : Nat := 0
def BOOT_FLT_FUSE : Nat := 0
def BOOT_FLT_HALT : Nat := 1
def RING_FLT_DMA : Nat := 0
def POOL_FLT_STATE_ECC : Nat := 0
def POOL_FLT_DFREE : Nat := 1
def ECHO_FLT_ARCH : Nat := 0
def SNP_FLT_FAR : Nat := 0

end R

/-- The kinds of page that the map of R41 holds. `blank` is a page with the common header only. -/
inductive PK where
  | lamp | clocks | governor | cairn | icu | fmu | survey | galPower
  | preclass | lane | msec | parser | parserPort | parserKey | act | act1
  | rew | chm | chmCtr | chmQ | chmPC | sch | schPort | schSvc
  | schSub | schQ | schState | schSvcShp | rim | vault | exm | exmCtx
  | lpm | ds | cls | lkp | stc | aperture | hbm0 | hbm1
  | hbm2 | hbm3 | sump | far0 | far1 | core0 | core1 | core2
  | cplx0 | cplx1 | hif | boot | ring | pool | echo0 | echo1
  | snp | blank
deriving DecidableEq, Repr

/-- The block registers of a page of kind `k`. -/
def PK.flds : PK → List Fld
  | .lamp => [R.TOD_VALID_SET, R.TOD_VALID_CLR, R.TOD_PPS_REQ, R.TOD_STEP, R.TOD_PPS_OUT_EN, R.TOD_VALID, R.TOD_SET_SECHI, R.TOD_SET_SECLO, R.TOD_SET_NS, R.TOD_RD_FRAC, R.TOD_RD_NS, R.TOD_RD_SECLO, R.TOD_RD_SECHI, R.TOD_FREQ_ADJ, R.TOD_PHASE_ADJ, R.TOD_SLEW, R.TOD_PPS_IN_ADJ, R.TOD_PPS_OUT_ADJ, R.TOD_PPS_CAP_NS, R.TOD_PPS_CAP_SEC, R.TOD_PPS_WIDTH, R.TH_HOT, R.TH_HYST, R.TH_CAP, R.TH_PWR_LIMIT, R.TH_TRIP_LAST, R.TH_THROTTLED, R.TH_JMAX, R.TH_PWR_EST, R.TEMP_OK, R.TEMP, R.VMON_OK, R.VMON, R.GLW_FIRED_LO, R.GLW_FIRED_HI]
  | .clocks => [R.CLK_FREQ_MHZ, R.CLK_RUN, R.CLK_LOL_SEEN, R.CLK_LOCK, R.SYNCE_EN, R.SYNCE_SQ_EN, R.SYNCE_SQUELCHED, R.SYNCE_FREQ, R.SYNCE_LANE, R.CLK_INJ_GO, R.CLK_INJ_DOM]
  | .governor => [R.GOV_MIN_INTERVAL, R.GOV_LOG_ADVISE, R.GOV_LOG_EN, R.GOV_MODE, R.GOV_ACT_CNT, R.GOV_LAST_REASON, R.GOV_BUSY, R.GOV_MODE_EFF, R.GOV_LOG_WR, R.GOV_LOG_RD, R.GOV_LOG_LOST, R.GOV_LOG_WIN, R.GOV_HEARTBEAT]
  | .cairn => [R.CAIRN_FLIP_CNT, R.CAIRN_EPOCH_CUR, R.CAIRN_MYSLOT, R.CAIRN_VS_USED, R.CAIRN_WAIT_LIMIT, R.CAIRN_CMD, R.CAIRN_MODE, R.CAIRN_TNS, R.CAIRN_TSECLO, R.CAIRN_TSECHI, R.CAIRN_STATE, R.CAIRN_RESULT, R.CAIRN_EPOCH_TO, R.CAIRN_OWNER, R.CAIRN_REG_CNT, R.CAIRN_ENT_CNT, R.CAIRN_ERRADDR, R.CAIRN_APSEC, R.CAIRN_APNS, R.CAIRN_LATE]
  | .icu => [R.ICU_TGT_EN_LO, R.ICU_TGT_EN_HI, R.ICU_TGT_SLEEP_LO, R.ICU_TGT_SLEEP_HI, R.ICU_ACK_TGT, R.ICU_ACK_SRC, R.ICU_MASK_SET, R.ICU_MASK_CLR, R.ICU_WIN, R.ICU_DELIV, R.ICU_COALESCE, R.ICU_NOTGT, R.ICU_REQUEUE, R.ICU_BADACK, R.ICU_NEXT_VALID, R.ICU_NEXT_SRC]
  | .fmu => [R.FMU_FATAL_ACT, R.FMU_REC_WR, R.FMU_REC_RD, R.FMU_REC_LOST, R.FMU_WIN, R.FMU_FAULT_N, R.FMU_TRIP_HOLD, R.FMU_FAULT_PAGES, R.FMU_MERGE_TOTAL, R.FMU_FE_VALID, R.FMU_FE_FATAL, R.FMU_FE_INJ, R.FMU_FE_TOD_VALID, R.FMU_FE_ACCESS, R.FMU_FE_SPACE, R.FMU_FE_BIT, R.FMU_FE_PAGE, R.FMU_FE_MASTER, R.FMU_FE_ADDR_LO, R.FMU_FE_ADDR_HI, R.FMU_FE_SEC, R.FMU_FE_NS, R.FMU_FE_SEQ, R.FMU_FE_DETAIL]
  | .survey => [R.SVY_RUN, R.SVY_LATCH, R.SVY_WIN_US, R.SVY_TEL_EN, R.SVY_TEL_RING, R.SVY_USER_RD, R.SVY_USER_CFG, R.SVY_WRAP, R.SVY_LATCH_SEC, R.SVY_LATCH_NS, R.SVY_TELSEL]
  | .galPower => [R.GAL_IDLE_NS, R.GAL_PARK_QUIET, R.GAL_ENV_REST, R.GAL_ENV_STEP, R.GAL_NAP_THR, R.GAL_HEADROOM, R.GAL_DWELL, R.GAL_WAKE_CAUSE, R.GAL_REST_BLOCK, R.GAL_FILL_NAP, R.GAL_FILL_DOZE, R.GAL_PARK_OK_LO, R.GAL_PARK_OK_HI, R.GAL_WAKE_MAX]
  | .preclass => [R.ENT_THR, R.ENT_OVERLOAD, R.ENT_PEAK, R.ENT_OCC, R.ENT_OVL_HOLD, R.PRE_DSCP_MAP, R.PRE_PCP_MAP, R.PRE_TC_MAP, R.PRE_BUILTIN, R.GAL_DISP_RECIRC, R.GAL_DISP_INJ]
  | .lane => [R.LANE_TX_POL, R.LANE_RX_POL, R.LANE_LOOP, R.LANE_RATE, R.LANE_SNR, R.LANE_TRAINED, R.LANE_CDR_LOCK, R.LANE_SIG_DET, R.LANE_MEMBER, R.LANE_INJ_CNT, R.LANE_INJ_SYM, R.PORT_EN, R.PORT_MODE, R.PORT_CT_EN, R.PORT_PAUSE_EN, R.PORT_MACSEC_EN, R.PORT_MAX_FRAME, R.PORT_PFC_UNTAG, R.PORT_TRUST, R.PORT_DEF_PRIO, R.PORT_LINK_STATE, R.PORT_LOCAL_FAULT, R.PORT_REMOTE_FAULT, R.PORT_HI_SER, R.PORT_PFC_PAUSED, R.PORT_PFC_XOFF, R.PORT_PFC_RX_EN, R.PORT_PFC_TX_EN, R.PORT_PFC_QUANTA, R.PORT_PFC_XOFF_THR, R.PORT_PFC_XON_THR, R.PORT_PFC_MAP0, R.PORT_PFC_MAP1, R.PORT_PFC_WD, R.PORT_TS_RX_ADJ, R.PORT_TS_TX_ADJ, R.PORT_FEC_DEG_THR, R.PORT_INJ_CNT, R.PORT_INJ_ICV, R.PORT_INJ_FCS]
  | .msec => [R.MSEC_WIN_TBL, R.MSEC_WIN_BASE, R.MSEC_PN_THR, R.MSEC_PN_SA]
  | .parser => [R.PAR_TPID_X, R.PAR_PW_ETH, R.PAR_IPIP_EN, R.PAR_GRE_EN, R.PAR_VXLAN_EN, R.PAR_VXLAN_PORT, R.PAR_HASH_SEED, R.PAR_HASH_SEL, R.PAR_INJ_CNT, R.PAR_INJ_REASON, R.PAR_MAL_R1, R.PAR_MAL_R2, R.PAR_MAL_R3, R.PAR_MAL_R4, R.PAR_MAL_R5, R.PAR_MAL_R6, R.PAR_MAL_R7, R.PAR_MAL_R8, R.PAR_MAL_R9, R.PAR_MAL_R10, R.PAR_MAL_R11, R.PAR_MAL_R12, R.PAR_MAL_R13, R.PAR_MAL_R14, R.PAR_MAL_R15, R.PAR_MAL_R16]
  | .parserPort => [R.PAR_VRF, R.PAR_PROF_A_EN, R.PAR_PROF_A, R.PAR_PROF_B_EN, R.PAR_PROF_B]
  | .parserKey => [R.KP_EN, R.KP_WIDTH, R.KP_TAG, R.KP_MISS_DISP, R.CMD_EN, R.CMD_SRC, R.CMD_SLOT, R.CMD_OFF, R.CMD_LEN]
  | .act => [R.ACT_TTL_ACT, R.ACT_DEF_QCLASS, R.ACT_CSID_BLK, R.ACT_CSID_LEN, R.ACT_RCY_SUB, R.ACT_PUNT_SUB, R.ACT_PUNT_CLS, R.ACT_PUNT_TRUNC, R.ACT_INJ_CNT]
  | .act1 => [R.ACT_M_VALID, R.ACT_M_BLOCK]
  | .rew => [R.REW_INJ_CNT]
  | .chm => [R.CHM_FREE, R.CHM_WR_RSV, R.CHM_SHARED_LIMIT, R.CHM_HDRM_LIMIT, R.CHM_BKLG_LIMIT, R.CHM_REFILL_LIMIT, R.CHM_SHARED_USED, R.CHM_HDRM_USED, R.CHM_BKLG_USED, R.CHM_REFILL_USED, R.CHM_PEAK, R.CHM_PUSH_EN, R.CHM_PUSH_MAX, R.CHM_BUF_HI, R.CHM_BUF_LO, R.CHM_PFC_XOFF, R.CHM_PFC_XON, R.CHM_INJ_GO, R.CHM_INJ_KIND, R.CHM_INJ_Q]
  | .chmCtr => []
  | .chmQ => [R.Q_WIN]
  | .chmPC => [R.CHM_CNT_SEL]
  | .sch => [R.SCH_REFILL_NS, R.SCH_REFILL_NEXT, R.SCH_OVH, R.SCH_INJ_GO, R.SCH_INJ_CFG, R.SCH_INJ_LVL, R.SCH_INJ_IDX, R.SCH_ERR_LVL, R.SCH_ERR_NODE]
  | .schPort => [R.SCH_PORT_WIN]
  | .schSvc => [R.SCH_SVC_WIN]
  | .schSub => [R.SCH_SUB_WIN]
  | .schQ => [R.SCH_Q_WIN]
  | .schState => [R.SCH_ST_LVL, R.SCH_ST_WIN]
  | .schSvcShp => [R.SCH_SVC_RATE_ODD, R.SCH_SVC_RATE_EVEN, R.SCH_SVC_CAP3, R.SCH_SVC_CAP2, R.SCH_SVC_CAP1, R.SCH_SVC_CAP0]
  | .rim => [R.RIM_EN, R.RIM_AUD_CNT, R.RIM_AUD_SEC, R.RIM_AUD_NS, R.RIM_DISC_CNT, R.RIM_DISC_LEDGER, R.RIM_DISC_SIZE_LO, R.RIM_DISC_SIZE_HI, R.RIM_INJ_GO, R.RIM_INJ_LEDGER, R.RIM_INJ_AMT, R.RIM_OVR]
  | .vault => [R.VLT_STALL, R.VLT_DIG_EN, R.VLT_DIG_INT, R.VLT_DIG_PASS, R.VLT_DIG_LAST, R.VLT_DIG_MISM, R.VLT_DIG_SKIP, R.VLT_DIG_WIN, R.VLT_INJ_GO, R.VLT_INJ_TABLE, R.VLT_INJ_IDX]
  | .exm => [R.EXM_SEED0, R.EXM_SEED1, R.EXM_WIDE_BKTS, R.EXM_VALID_CNT, R.EXM_STASH_CNT, R.EXM_STASH_THR, R.EXM_DUP, R.EXM_PAR, R.EXM_ROT]
  | .exmCtx => [R.EXM_KEY, R.EXM_RES, R.EXM_TYPE, R.EXM_OP, R.EXM_BUSY, R.EXM_RC, R.EXM_MOVES, R.EXM_IN_STASH, R.EXM_LOC, R.EXM_H0, R.EXM_H1]
  | .lpm => [R.LPM_MAX_NODES, R.LPM_DRAIN, R.LPM_ROOT_WIN, R.LPM_DEPTH_EXC, R.LPM_PAR, R.LPM_NO_VRF, R.LPM_MIG_MAX]
  | .ds => [R.DS_VALID_CNT, R.DS_WD_CNT, R.DS_NONE_FREE, R.DS_FREE_HINT, R.DS_HIGH_THR, R.DS_CAC_GEN, R.DS_CAC_IDX, R.DS_CAC_RC, R.DS_CAC_GO, R.DS_SCRUB_EN, R.DS_SCRUB_INT, R.DS_FALSE_HIT, R.DS_SCRUB_FIX, R.DS_VERIFY_EXH, R.DS_INJ_GO, R.DS_INJ_COPY, R.DS_INJ_BIT, R.DS_INJ_IDX, R.DS_ADD_FLOOR]
  | .cls => [R.CLS_SCRUB_EN, R.CLS_SCRUB_INT, R.CLS_FALSE_HIT, R.CLS_PAR_MISS, R.CLS_SCRUB_FIX, R.CLS_ERR_KIND, R.CLS_ERR_IDX, R.CLS_VALID_CNT, R.CLS_INJ_GO, R.CLS_INJ_COPY, R.CLS_INJ_BIT, R.CLS_INJ_IDX]
  | .lkp => [R.LKP_WIN, R.LKP_NH_INVALID, R.LKP_NH_PARITY, R.LKP_CHAIN_ERR]
  | .stc => [R.STC_FLUSH, R.STC_WB_MAX, R.STC_MISS, R.STC_WB, R.STC_STALL, R.STC_LOST, R.POL_PAR, R.POL_LOST, R.STC_INJ_GO, R.STC_INJ_POL, R.STC_INJ_IDX]
  | .aperture => [R.TBL_AP_TABLE, R.TBL_AP_BASE, R.TBL_AP_DROPS, R.TBL_AP_STRIDE]
  | .hbm0 => [R.HBM_ENV_SLOW, R.HBM_ENV_FAST, R.HBM_RATE_CUR, R.HBM_RATE_REQ, R.HBM_STEP_BUSY, R.HBM_TRAINED, R.HBM_STEP_NS, R.HBM_HEADROOM, R.HBM_DWELL, R.HBM_REF_ENV, R.HBM_REF_TFACT, R.HBM_REF_MULT, R.HBM_CE_HI, R.HBM_CE_LO, R.HBM_TIMS, R.HBM_TIMA]
  | .hbm1 => [R.HBM_QOS_MODE, R.HBM_WR_HI, R.HBM_WR_LO, R.HBM_PANIC_ON, R.HBM_PANIC_OFF, R.HBM_AGE_MAX, R.HBM_TGT]
  | .hbm2 => [R.HBM_PG_GO, R.HBM_PG_MODE, R.HBM_PG_WRITE, R.HBM_PG_PC, R.HBM_PG_BURSTS, R.HBM_PG_SEED, R.HBM_CMP_BUSY, R.HBM_CMP_ERRS, R.HBM_DLY_RATE, R.HBM_DLY_KIND, R.HBM_DLY_PC, R.HBM_DLY_LANE, R.HBM_DLY_VAL, R.HBM_TRN_GO, R.HBM_TRN_VALUE, R.HBM_TRN_RATE]
  | .hbm3 => [R.HBM_SCRUB_EN, R.HBM_SCRUB_HRS, R.HBM_UE_ADDR_LO, R.HBM_UE_PORT, R.HBM_UE_ADDR_HI, R.HBM_INJ_GO, R.HBM_INJ_KIND, R.HBM_INJ_PORT]
  | .sump => [R.SUMP_MAP, R.SUMP_WIN_ADDR_LO, R.SUMP_WIN_ADDR_HI, R.SUMP_WIN_UE, R.RT_HBM_EN, R.RT_SER_EN, R.RT_CXL_EN, R.RT_DEMAND_MAX, R.RT_CHECK_S, R.RT_HBM_MARGIN, R.RT_SER_DWELL, R.RT_CE_THR, R.RT_CXL_REPLAY]
  | .far0 => [R.FAR_LINK_EN, R.FAR_PERST_MS, R.FAR_STATE, R.FAR_ENUM_RC, R.FAR_SPEED, R.FAR_WIDTH, R.FAR_LINK_GEN, R.FAR_MEM_SIZE, R.FAR_DATA_BASE, R.FAR_DATA_SIZE, R.FAR_SIDE_BASE, R.FAR_TIMEOUT, R.FAR_INJ_GO, R.FAR_INJ_KIND]
  | .far1 => [R.FAR_IO_ADDR_LO, R.FAR_IO_ADDR_HI, R.FAR_IO_DATA, R.FAR_IO_GO, R.FAR_IO_WR, R.FAR_IO_SPACE, R.FAR_IO_BE, R.FAR_IO_BUSY, R.FAR_IO_RC]
  | .core0 => [R.GRT_CORE_RESTART, R.GRT_RESTART_MAX, R.GRT_POL_DL, R.GRT_POL_FLT, R.GRT_ICU_EN, R.GRT_ICU_THREAD, R.GRT_ICU_BIT, R.GRT_DL_CYC, R.GRT_DL_THREADS, R.GRT_SLOT0, R.GRT_SLOT1, R.GRT_SLOT2, R.GRT_SLOT3, R.GRT_SLOT4, R.GRT_SLOT5, R.GRT_SLOT6, R.GRT_SLOT7]
  | .core1 => [R.GRT_TH_CMD, R.GRT_TH_STATE, R.GRT_TH_CAUSE, R.GRT_TH_PRIOR, R.GRT_TH_ENTRY, R.GRT_TH_PC, R.GRT_TH_FADDR, R.GRT_TH_WMASK, R.GRT_TH_EVT]
  | .core2 => [R.GRT_DBG_GO, R.GRT_DBG_OP, R.GRT_DBG_THREAD, R.GRT_DBG_WIN, R.GRT_DBG_COUNT, R.GRT_DBG_SEL, R.GRT_DBG_DATA_LO, R.GRT_DBG_DATA_HI, R.GRT_DBG_BUSY, R.GRT_DBG_RC, R.GRT_INJ_GO, R.GRT_INJ_KIND, R.GRT_INJ_THREAD]
  | .cplx0 => [R.GRT_PORT_EN, R.GRT_PORT_CH, R.GRT_INJ_EN, R.GRT_INJ_CH, R.GRT_TS_EN, R.GRT_TS_CH, R.GRT_CH_WIN]
  | .cplx1 => []
  | .hif => [R.HIF_SPEED, R.HIF_WIDTH, R.HIF_LINK_UP, R.HIF_BME, R.HIF_PUNT_HOLD, R.HIF_PUNT_SPREAD, R.HIF_PUNT_RING, R.HIF_INJ_GO, R.HIF_INJ_KIND, R.HIF_INJ_RING]
  | .boot => [R.BOOT_STAGE, R.BOOT_ERR, R.BOOT_ERR_ENT, R.BOOT_FROM_HOST, R.BOOT_TIME_MS, R.BOOT_IMG_OK, R.BOOT_IMG_FAIL, R.BOOT_KEY_PROV, R.BOOT_KEY_REVOKED, R.BOOT_SVN_V, R.BOOT_SVN_C, R.BOOT_COMPAT_SUP, R.BOOT_GRT_PATCH_VER, R.BOOT_AE_PATCH_VER, R.BOOT_LD_GO, R.BOOT_LD_RESUME, R.BOOT_FLASH_REL, R.BOOT_LD_LEN, R.BOOT_LD_BUSY, R.BOOT_LD_RC, R.BOOT_LD_WIN, R.BOOT_PROV_GO, R.BOOT_PROV_REVOKE, R.BOOT_PROV_SLOT, R.BOOT_INJ_GO, R.BOOT_INJ_KIND]
  | .ring => [R.RING_EN, R.RING_KIND, R.RING_LOG2, R.RING_GAL, R.RING_WB_EN, R.RING_AUX, R.RING_BASE_LO, R.RING_BASE_HI, R.RING_WB_LO, R.RING_WB_HI, R.RING_PROD, R.RING_CONS, R.RING_STATE, R.RING_ERR, R.RING_ERR_IDX, R.RING_RESET, R.RING_VEC, R.RING_COAL_JOBS, R.RING_COAL_US, R.RING_RST_CNT]
  | .pool => [R.POOL_MEM, R.POOL_OWNERS, R.POOL_SIZE, R.POOL_BASE_LO, R.POOL_BASE_HI, R.POOL_COUNT, R.POOL_FREE_CNT, R.POOL_WARN, R.POOL_CRIT, R.POOL_MIN, R.POOL_FAIL, R.POOL_DFREE, R.POOL_BADIDX, R.POOL_LOST, R.POOL_ALLOC_POOL, R.POOL_ALLOC_GO, R.POOL_ALLOC_BUSY, R.POOL_ALLOC_RC, R.POOL_ALLOC_IDX, R.POOL_FREE_IDX]
  | .echo0 => [R.ECHO_EN, R.ECHO_ARCH_EN, R.ECHO_SAMPLE_RAND, R.ECHO_RATE, R.ECHO_SEED, R.ECHO_WR, R.ECHO_TEL_RING, R.ECHO_ARCH_NEXT, R.ECHO_PORT_WIN]
  | .echo1 => [R.ECHO_WIN_POS]
  | .snp => [R.SNP_GO, R.SNP_AT_EN, R.SNP_BUSY, R.SNP_RC, R.SNP_PORT, R.SNP_TEL_RING, R.SNP_FIRST, R.SNP_COUNT, R.SNP_ADDR_LO, R.SNP_ADDR_HI, R.SNP_TNS, R.SNP_TSECLO, R.SNP_TSECHI, R.SNP_SEQ]
  | .blank => []

/-- The bit positions at which EVT_PEND of the page is defined. -/
def PK.evts : PK → List Nat
  | .lamp => [0, 1, 2, 3, 4, 5, 6, 7, 8, 9]
  | .clocks => [0, 1]
  | .governor => [0, 1, 2, 3, 4, 5]
  | .cairn => [0, 1, 2, 3, 4, 5, 6, 7, 8, 9, 10, 11, 12]
  | .icu => [0, 1, 2]
  | .fmu => [0, 1, 2, 3, 4]
  | .survey => [0, 1, 2, 3]
  | .galPower => [0, 1, 2, 3, 4]
  | .preclass => [0, 1, 2]
  | .lane => [0, 1, 2, 3, 4, 5, 6]
  | .msec => [0, 1, 2]
  | .parser => [0, 1, 2]
  | .parserPort => []
  | .parserKey => []
  | .act => [0, 1, 2]
  | .act1 => []
  | .rew => [0, 1]
  | .chm => [0, 1, 2, 3, 4, 5]
  | .chmCtr => []
  | .chmQ => []
  | .chmPC => []
  | .sch => [0, 1, 2, 3]
  | .schPort => []
  | .schSvc => []
  | .schSub => []
  | .schQ => []
  | .schState => []
  | .schSvcShp => []
  | .rim => [0, 1, 2]
  | .vault => [0, 1]
  | .exm => [0, 1, 2, 3, 4]
  | .exmCtx => []
  | .lpm => [0, 1, 2, 3]
  | .ds => [0, 1, 2, 3, 4]
  | .cls => [0, 1, 2, 3]
  | .lkp => [0, 1]
  | .stc => [0, 1, 2, 3]
  | .aperture => []
  | .hbm0 => [0, 1, 2, 3, 4]
  | .hbm1 => [0, 1]
  | .hbm2 => [0]
  | .hbm3 => [0, 1, 2]
  | .sump => [0, 1]
  | .far0 => [0, 1, 2, 3]
  | .far1 => []
  | .core0 => [0, 1, 2, 3]
  | .core1 => []
  | .core2 => []
  | .cplx0 => [0]
  | .cplx1 => []
  | .hif => [0, 1, 2, 3, 4]
  | .boot => [0, 1, 2, 3]
  | .ring => [0, 1, 2, 3]
  | .pool => [0, 1, 2, 3]
  | .echo0 => [0, 1, 2, 3]
  | .echo1 => []
  | .snp => [0, 1, 2]
  | .blank => []

/-- The block-defined bit positions of FLT_STAT of the page; bits 29 to 31 are common to all pages (R42). -/
def PK.flts : PK → List Nat
  | .lamp => [0, 1, 2]
  | .clocks => [0]
  | .governor => []
  | .cairn => []
  | .icu => [0]
  | .fmu => [0]
  | .survey => []
  | .galPower => [0]
  | .preclass => [0]
  | .lane => [0, 1]
  | .msec => [0]
  | .parser => [0]
  | .parserPort => []
  | .parserKey => []
  | .act => [0, 1]
  | .act1 => [0]
  | .rew => [0]
  | .chm => [0, 1, 2, 3]
  | .chmCtr => []
  | .chmQ => []
  | .chmPC => []
  | .sch => [0, 1]
  | .schPort => []
  | .schSvc => []
  | .schSub => []
  | .schQ => []
  | .schState => []
  | .schSvcShp => []
  | .rim => [0, 1]
  | .vault => [0]
  | .exm => []
  | .exmCtx => []
  | .lpm => []
  | .ds => [0, 1]
  | .cls => [0, 1]
  | .lkp => []
  | .stc => [0, 1]
  | .aperture => []
  | .hbm0 => [0]
  | .hbm1 => []
  | .hbm2 => []
  | .hbm3 => [0, 1]
  | .sump => []
  | .far0 => [0, 1, 2]
  | .far1 => []
  | .core0 => [0, 1, 2, 3]
  | .core1 => []
  | .core2 => []
  | .cplx0 => []
  | .cplx1 => []
  | .hif => [0]
  | .boot => [0, 1]
  | .ring => [0]
  | .pool => [0, 1]
  | .echo0 => [0]
  | .echo1 => []
  | .snp => [0]
  | .blank => []

end Sys2Proof.Machine
end

