-- ==== Sys2Proof/Machine/Operands.lean ====
section
/-! DEFINITION. Where things are: the addresses of the pages (R41), the kind of page at a page number, the master
identifiers (R37), the port identifiers (R10), and the identifiers of tables and of window contents. -/

namespace Sys2Proof.Machine

namespace Pg

def lamp : Nat := 0x00000000
def clocks : Nat := 0x00001000
def governor : Nat := 0x00002000
def cairn : Nat := 0x00003000
/-- The bank pages of the ICU: 0 normal, 1 fast (R455). -/
def icu (bank : Nat) : Nat := 0x00004000 + 0x1000 * bank
def fmu : Nat := 0x00006000
def survey : Nat := 0x00007000
def gallery (g : Nat) : Nat := 0x00100000 + 0x00100000 * g
def galPower (g : Nat) : Nat := gallery g + 0x1000
def preclass (g : Nat) : Nat := gallery g + 0x3000
/-- The lane page of lane `l`, 0 to 511 (R97). -/
def lane (l : Nat) : Nat := gallery (l / 64) + 0x10000 + 0x1000 * (l % 64)
def msec (g : Nat) : Nat := gallery g + 0x50000
def parser (g : Nat) : Nat := gallery g + 0x60000
def parserPort (g : Nat) : Nat := gallery g + 0x61000
/-- The page that holds key profile `p` (R130). -/
def parserKey (g p : Nat) : Nat := gallery g + 0x62000 + 0x1000 * (p / 20)
def act (g : Nat) : Nat := gallery g + 0x70000
def act1 (g : Nat) : Nat := gallery g + 0x71000
def rew (g : Nat) : Nat := gallery g + 0x80000
def chm : Nat := 0x00900000
def chmCtr : Nat := 0x00901000
def chmQ : Nat := 0x00902000
def chmPC : Nat := 0x00903000
def sch : Nat := 0x00920000
/-- Scheduler page `n`. -/
def schPage (n : Nat) : Nat := sch + 0x1000 * n
def rim : Nat := 0x00980000
def vault : Nat := 0x00A00000
def exm : Nat := 0x00A10000
def exmCtx (c : Nat) : Nat := 0x00A11000 + 0x1000 * c
def lpm : Nat := 0x00A20000
def ds : Nat := 0x00A21000
def cls : Nat := 0x00A30000
def lkp : Nat := 0x00A40000
def stc : Nat := 0x00A50000
def aperture : Nat := 0x00A60000
/-- Page `n` of HBM stack `s`. -/
def hbm (s n : Nat) : Nat := 0x00B00000 + 0x40000 * s + 0x1000 * n
def sump : Nat := 0x00B04000
/-- Page `n` of far port `p`. -/
def far (p n : Nat) : Nat := 0x00C00000 + 0x80000 * p + 0x1000 * n
/-- Page `n` of Grotto core `c`. -/
def core (c n : Nat) : Nat := 0x00D00000 + 0x4000 * c + 0x1000 * n
def cplx (n : Nat) : Nat := 0x00D80000 + 0x1000 * n
def hif : Nat := 0x00E00000
def boot : Nat := 0x00E0F000
def ring (n : Nat) : Nat := 0x00E10000 + 0x1000 * n
def pool (n : Nat) : Nat := 0x00F00000 + 0x1000 * n
def echo (n : Nat) : Nat := 0x00F80000 + 0x1000 * n
def snp : Nat := echo 2

end Pg

/-- The kind of page at a page number (BAR0 address divided by 4,096), or none where no page is behind it (R41). -/
def pageKind (n : Nat) : Option PK :=
  if n < 0x100 then
    match n with
    | 0 => some .lamp | 1 => some .clocks | 2 => some .governor | 3 => some .cairn
    | 4 => some .icu | 5 => some .icu | 6 => some .fmu | 7 => some .survey
    | _ => none
  else if n < 0x900 then
    let q := n % 0x100
    if q = 1 then some .galPower
    else if q = 3 then some .preclass
    else if q < 4 then some .blank
    else if q < 0x10 then none
    else if q < 0x50 then some .lane
    else if q = 0x50 then some .msec
    else if q < 0x58 then some .blank
    else if q < 0x60 then none
    else if q = 0x60 then some .parser
    else if q = 0x61 then some .parserPort
    else if q < 0x66 then some .parserKey
    else if q < 0x68 then some .blank
    else if q < 0x70 then none
    else if q = 0x70 then some .act
    else if q = 0x71 then some .act1
    else if q < 0x78 then some .blank
    else if q = 0x80 then some .rew
    else if 0x80 < q ∧ q < 0x84 then some .blank
    else none
  else if n < 0xA00 then
    match n with
    | 0x900 => some .chm | 0x901 => some .chmCtr | 0x902 => some .chmQ | 0x903 => some .chmPC
    | 0x920 => some .sch | 0x921 => some .schPort | 0x922 => some .schSvc | 0x923 => some .schSub
    | 0x924 => some .schQ | 0x925 => some .schState | 0x980 => some .rim
    | _ => if n < 0x910 then some .blank else if n < 0x920 then none
           else if n < 0x940 then some .blank else if n < 0x960 then some .schSvcShp else none
  else if n < 0xB00 then
    match n with
    | 0xA00 => some .vault | 0xA10 => some .exm | 0xA11 => some .exmCtx | 0xA12 => some .exmCtx
    | 0xA13 => some .exmCtx | 0xA14 => some .exmCtx | 0xA20 => some .lpm | 0xA21 => some .ds
    | 0xA30 => some .cls | 0xA40 => some .lkp | 0xA50 => some .stc | 0xA60 => some .aperture
    | _ => if n < 0xA04 then some .blank
           else if n / 0x10 = 0xA1 ∨ n / 0x10 = 0xA2 ∨ n / 0x10 = 0xA3 ∨ n / 0x10 = 0xA4 then
             (if n % 0x10 < 8 then some .blank else none)
           else if n / 0x10 = 0xA5 ∧ n % 0x10 < 4 then some .blank else none
  else if n < 0xC00 then
    let q := n % 0x40
    if q = 0 then some .hbm0 else if q = 1 then some .hbm1 else if q = 2 then some .hbm2
    else if q = 3 then some .hbm3 else if n = 0xB04 then some .sump else if q < 8 then some .blank else none
  else if n < 0xD00 then
    let q := n % 0x80
    if q = 0 then some .far0 else if q = 1 then some .far1 else if q < 8 then some .blank else none
  else if n < 0xE00 then
    if n < 0xD80 then
      match n % 4 with
      | 0 => some .core0 | 1 => some .core1 | 2 => some .core2 | _ => some .blank
    else if n = 0xD80 then some .cplx0 else if n = 0xD81 then some .cplx1
    else if n < 0xD88 then some .blank else none
  else if n < 0xF00 then
    if n = 0xE00 then some .hif else if n = 0xE0F then some .boot
    else if n < 0xE0F then some .blank else some .ring
  else if n < 0x1000 then
    if n < 0xF10 then some .pool
    else match n with
      | 0xF80 => some .echo0 | 0xF81 => some .echo1 | 0xF82 => some .snp | 0xF83 => some .blank | _ => none
  else none

/-- The page address of a BAR0 address. -/
def pageOf (addr : Nat) : Nat := addr / 0x1000 * 0x1000

/-- The kind of page at a BAR0 address. -/
def kindAt (addr : Nat) : Option PK := pageKind (addr / 0x1000)

namespace Master

def host : Nat := 0x000
def jtag : Nat := 0x200
def asuth : Nat := 0x201
def bmc : Nat := 0x202
/-- Grotto core `c`, thread `t` (R37). -/
def thread (c t : Nat) : Nat := 0x100 + 8 * c + t
/-- Whether a master is a vendor thread of the Governor's cores, 30 and 31 (R32). -/
def isGovernor (m : Nat) : Bool := decide (0x1F0 ≤ m ∧ m ≤ 0x1FF)
/-- Whether a master may use the load path (R405). -/
def mayLoad (m : Nat) : Bool := m == host || m == jtag
/-- Whether a master is a Grotto thread. -/
def isThread (m : Nat) : Bool := decide (0x100 ≤ m ∧ m ≤ 0x1FF)
/-- Whether a master is a customer thread: threads 1 to 7 of cores 0 to 29 (R25). -/
def isCustomer (m : Nat) : Bool := decide (0x100 ≤ m ∧ m < 0x1F0 ∧ m % 8 ≠ 0)

end Master

/-- The Gallery, and the egress slice, of a port (R12, R236): the host port is slice 0's. -/
def portGal (p : Nat) : Nat := if p < 512 then p / 64 else if p < 520 then p - 512 else if p < 528 then p - 520 else 0

/-! The tables: the ten of R49, then the contents of page windows. A window that repeats per Gallery, core or page adds
its number times 2^8. -/

namespace Tbl

def exm : Nat := 0x01
def stash : Nat := 0x02
def trie : Nat := 0x03
def ds : Nat := 0x04
def cls : Nat := 0x05
def nh : Nat := 0x06
def ecmp : Nat := 0x07
def encap : Nat := 0x08
def pol : Nat := 0x09
def stat : Nat := 0x0A
def root : Nat := 0x20
def lkp : Nat := 0x21
def digest : Nat := 0x22
def preRule (g : Nat) : Nat := 0x23 + 0x100 * g
def secy (g : Nat) : Nat := 0x24 + 0x100 * g
def txSa (g : Nat) : Nat := 0x25 + 0x100 * g
def rxSc (g : Nat) : Nat := 0x26 + 0x100 * g
def rxSa (g : Nat) : Nat := 0x27 + 0x100 * g
def profile : Nat := 0x28
def queue : Nat := 0x29
def schPort : Nat := 0x2A
def schSvc : Nat := 0x2B
def schSub : Nat := 0x2C
def schQ : Nat := 0x2D
def glow : Nat := 0x2E
def icu (bank : Nat) : Nat := 0x2F + bank
def sump : Nat := 0x31
def grant (c : Nat) : Nat := 0x32 + 0x100 * c
def range (c : Nat) : Nat := 0x33 + 0x100 * c
def chan : Nat := 0x34
def ldBuf : Nat := 0x35
def svy : Nat := 0x36
def echoPort : Nat := 0x37
def pattern (s : Nat) : Nat := 0x38 + 0x100 * s
/-- The timing entries of HBM stack `s`, by rate (R349). -/
def timing (s : Nat) : Nat := 0x39 + 0x100 * s
/-- The patch RAM of a Gallery's action engines, by word (R406). -/
def patch (g : Nat) : Nat := 0x3A + 0x100 * g
/-- Windows that only show what is elsewhere: counters, log entries, records, statistics. -/
def show_ : Nat := 0x3F
/-- A page's counters as 8-byte entries. -/
def ctr (page : Nat) : Nat := 0x40 + 0x100 * (page / 0x1000)

end Tbl

/-! The times from which the waits that a register sets are counted, by kind × 2^20 + instance. -/

namespace Mk

/-- A Gallery's last drop under R81 (R83). -/
def overload (g : Nat) : Nat := g
/-- The last load of a port's pause timer, and the start of a priority's pause (R85, R87). -/
def pause (p t : Nat) : Nat := 2 ^ 20 + 16 * p + t
def paused (p i : Nat) : Nat := 2 * 2 ^ 20 + 8 * p + i
/-- The last XOFF frame of a port (R86). -/
def xoff (p : Nat) : Nat := 3 * 2 ^ 20 + p
/-- The last entry that each scrubber read, and the last pass of the digest comparator (R123, R148, R163). -/
def clsScrub : Nat := 4 * 2 ^ 20
def dsScrub : Nat := 4 * 2 ^ 20 + 1
def digest : Nat := 4 * 2 ^ 20 + 2
/-- The last edge of the 1PPS input (R305). -/
def pps : Nat := 4 * 2 ^ 20 + 3
/-- A ring's first completion not yet notified (R431). -/
def ring (n : Nat) : Nat := 5 * 2 ^ 20 + n
/-- Since when the conditions of a core's deadlock detector have held (R380). -/
def deadlock (c : Nat) : Nat := 6 * 2 ^ 20 + c
/-- FAR_LINK_EN of a far port written 1, and its last failure (R344). -/
def farOn (p : Nat) : Nat := 7 * 2 ^ 20 + p
def farFailed (p : Nat) : Nat := 8 * 2 ^ 20 + p
/-- The last periodic check of a pseudo-channel (R342). -/
def check (k : Nat) : Nat := 9 * 2 ^ 20 + k
/-- Since when PORT_HI_SER of a port has been set (R342). -/
def hiSer (p : Nat) : Nat := 10 * 2 ^ 20 + p

end Mk

/-- The key of an entry in the table store. -/
def entKey (tid idx : Nat) : Nat := tid * 2 ^ 40 + idx

end Sys2Proof.Machine
end

