-- ==== Sys2Proof/Machine/Crc.lean ====
section
/-! DEFINITION. The cyclic redundancy checks of the spec: the frame check sequence (CRC-32), the CRC-32C of cells, flow
hashes and side records, and the CRC-16 of the header vector (R105, R106, R205). -/

namespace Sys2Proof.Machine

/-- One bit of a reflected CRC with reversed polynomial `p`. -/
def crcRefBit (p c : Nat) : Nat := if c % 2 = 1 then (c / 2) ^^^ p else c / 2

/-- One byte of a reflected CRC. -/
def crcRefByte (p c : Nat) (b : Byte) : Nat :=
  let r := fun c => crcRefBit p (crcRefBit p c)
  let c := c ^^^ b.toNat
  r (r (r (r c)))

/-- A reflected 32-bit CRC over bytes, from an initial value, with no final inversion. -/
def crcRef (p init : Nat) (l : List Byte) : Nat := l.foldl (crcRefByte p) init

/-- CRC-32C, polynomial 0x1EDC_6F41, reflected, from `init`, with no final inversion (R106). -/
def crc32cFrom (init : Nat) (l : List Byte) : Nat := crcRef 0x82F63B78 init l

/-- CRC-32C with the customary initial value and final inversion. -/
def crc32c (l : List Byte) : Nat := crc32cFrom 0xFFFFFFFF l ^^^ 0xFFFFFFFF

/-- The IEEE 802.3 frame check sequence of a frame's bytes, as the 32-bit CRC. -/
def fcs32 (l : List Byte) : Nat := crcRef 0xEDB88320 0xFFFFFFFF l ^^^ 0xFFFFFFFF

/-- The four FCS bytes as they follow the frame on the wire. -/
def fcsBytes (l : List Byte) : List Byte := leBytes 4 (fcs32 l)

/-- Whether a frame's last four bytes are the FCS of the bytes before them (R77). -/
def fcsOk (f : List Byte) : Bool :=
  decide (4 ≤ f.length) && f.drop (f.length - 4) == fcsBytes (f.take (f.length - 4))

/-- One bit of the CRC-16 of R105, most significant bit first. -/
def crc16Bit (c : Nat) : Nat := if c ≥ 0x8000 then ((c * 2) % 0x10000) ^^^ 0x1021 else c * 2

/-- One byte of the CRC-16 of R105. -/
def crc16Byte (c : Nat) (b : Byte) : Nat :=
  let r := fun c => crc16Bit (crc16Bit c)
  let c := c ^^^ (b.toNat * 256)
  r (r (r (r c)))

/-- The header check of R105: polynomial 0x1021, initial value 0xFFFF, no final inversion. -/
def crc16 (l : List Byte) : Nat := l.foldl crc16Byte 0xFFFF

/-- The ones' complement sum of 16-bit words, folded to 16 bits; an odd last byte is padded with zero. -/
def inetFold : List Byte → Nat → Nat
  | [], a => a
  | [b], a => (a + b.toNat * 256) % 0x10000 + (a + b.toNat * 256) / 0x10000
  | b :: c :: t, a =>
    let s := a + b.toNat * 256 + c.toNat
    inetFold t (s % 0x10000 + s / 0x10000)

/-- The Internet checksum of bytes. -/
def inetCsum (l : List Byte) : Nat := 0xFFFF - inetFold l 0

end Sys2Proof.Machine
end

