-- ==== Sys2Proof/Machine/Parser.lean ====
section
/-! DEFINITION. Stage 4: the parser (R100 to R108) as a function from frame bytes and parser options to the header vector
and the mask of malformed reasons; the 160-byte form of the vector (R103); the header check (R105); the flow hash (R106). -/

namespace Sys2Proof.Machine

/-- A layer slot of the header vector: type code (R104) and byte offset. -/
structure Slot where
  ty : Nat := 0
  off : Nat := 0x3FF
deriving DecidableEq, Repr

/-- The header vector of R103. Multi-byte values are numbers; `HV.encode` lays them out as the table states. -/
structure HV where
  check : Nat := 0
  inPort : Nat := 0
  inPrio : Nat := 0
  epoch : Nat := 0
  pass2 : Bool := false
  inj : Bool := false
  len : Nat := 0
  malMask : Nat := 0
  vlanCnt : Nat := 0
  fFrag : Bool := false
  fFragFirst : Bool := false
  fIp4Opt : Bool := false
  fHbh : Bool := false
  fSrh : Bool := false
  fInner : Bool := false
  fDepth : Bool := false
  fDmacMc : Bool := false
  fTtlLe1 : Bool := false
  fRtrAlert : Bool := false
  fPtp : Bool := false
  fOam : Bool := false
  fL4Skip : Bool := false
  vrf : Nat := 0
  slots : List Slot := List.replicate 8 {}
  dmac : Nat := 0
  smac : Nat := 0
  etype : Nat := 0
  tci0 : Nat := 0
  tci1 : Nat := 0
  srhSl : Nat := 0
  srhLe : Nat := 0
  lse : List Nat := [0, 0, 0]
  labelCnt : Nat := 0
  eli : Bool := false
  cw : Bool := false
  gach : Bool := false
  ttlDone : Bool := false
  oproto : Nat := 0
  otos : Nat := 0
  ottl : Nat := 0
  odst : Nat := 0
  osrc : Nat := 0
  ol4ports : Nat := 0
  ol4aux : Nat := 0
  fragOff : Nat := 0
  idst : Nat := 0
  isrc : Nat := 0
  il4ports : Nat := 0
  iproto : Nat := 0
  itos : Nat := 0
  ittl : Nat := 0
  flowHash : Nat := 0
  entropy : Nat := 0
  metaData : Nat := 0
deriving DecidableEq, Repr

/-- Slot `n` of the vector. -/
def HV.slot (h : HV) (n : Nat) : Slot := h.slots.getD n {}

/-- The vector with slot `n` given a type and an offset. -/
def HV.setSlot (h : HV) (n ty off : Nat) : HV := { h with slots := h.slots.set n ⟨ty, off⟩ }

/-- Bytes 2 to 159 of the vector, as R103 lays them out. -/
def HV.body (h : HV) : List Byte :=
  leBytes 2 (h.inPort * 64 + h.inPrio * 16 + h.epoch * 4 + b2n h.pass2 * 2 + b2n h.inj) ++
  leBytes 2 h.len ++ leBytes 2 h.malMask ++
  leBytes 2 (h.vlanCnt * 0x4000 + b2n h.fFrag * 0x2000 + b2n h.fFragFirst * 0x1000 + b2n h.fIp4Opt * 0x800 +
    b2n h.fHbh * 0x400 + b2n h.fSrh * 0x200 + b2n h.fInner * 0x100 + b2n h.fDepth * 0x80 + b2n h.fDmacMc * 0x40 +
    b2n h.fTtlLe1 * 0x20 + b2n h.fRtrAlert * 0x10 + b2n h.fPtp * 8 + b2n h.fOam * 4 + b2n h.fL4Skip * 2 +
    b2n (h.malMask != 0)) ++
  leBytes 2 h.vrf ++
  (h.slots.map (fun s => leBytes 2 (s.ty * 1024 + s.off))).flatten ++
  beBytes 6 h.dmac ++ beBytes 6 h.smac ++ leBytes 2 h.etype ++ leBytes 2 h.tci0 ++ leBytes 2 h.tci1 ++
  leBytes 1 h.srhSl ++ leBytes 1 h.srhLe ++
  (h.lse.map (beBytes 4)).flatten ++
  leBytes 1 (h.labelCnt * 16 + b2n h.eli * 8 + b2n h.cw * 4 + b2n h.gach * 2 + b2n h.ttlDone) ++
  leBytes 1 h.oproto ++ leBytes 1 h.otos ++ leBytes 1 h.ottl ++
  leBytes 16 h.odst ++ leBytes 16 h.osrc ++ leBytes 4 h.ol4ports ++ leBytes 2 h.ol4aux ++ leBytes 2 h.fragOff ++
  leBytes 16 h.idst ++ leBytes 16 h.isrc ++ leBytes 4 h.il4ports ++ leBytes 1 h.iproto ++ leBytes 1 h.itos ++
  leBytes 1 h.ittl ++ [0] ++ leBytes 4 h.flowHash ++ leBytes 4 h.entropy ++ leBytes 2 h.metaData ++ leBytes 6 0

/-- The 160 bytes of the vector. -/
def HV.encode (h : HV) : List Byte := leBytes 2 h.check ++ h.body

/-- The vector with its header check computed over bytes 2 to 159 (R105). -/
def HV.seal (h : HV) : HV := { h with check := crc16 h.body }

/-- Whether the header check holds (R105, R199). -/
def HV.checkOk (h : HV) : Bool := h.check == crc16 h.body

/-- A change to the vector made by a later stage. The check travels with the change: it is recomputed only from the bytes
as they were checked, so an error already in the vector stays an error (R268). -/
def HV.update (h : HV) (f : HV → HV) : HV :=
  let h' := f h
  if h.checkOk then h'.seal else { h' with check := h.check }

/-- The parser options of parser page 0 (R128) as one view reads them. -/
structure ParCfg where
  tpidX : Nat := 0
  pwEth : Bool := false
  ipip : Bool := true
  gre : Bool := true
  vxlan : Bool := true
  vxlanPort : Nat := 0x12B5
  hashSeed : Nat := 0
  hashSel : Nat := 0x3F
deriving DecidableEq, Repr

/-- The parser at work: the parse window, the frame's end before its FCS, the vector so far, and what it has passed. -/
structure Par where
  cfg : ParCfg
  win : List Byte
  fend : Nat
  hv : HV := {}
  mal : Nat := 0
  tunnel : Bool := false
  inner : Bool := false
  flowO : Nat := 0
  flowI : Nat := 0
  ent : Nat := 0
deriving DecidableEq, Repr

/-- The header that comes next. -/
inductive Nxt where
  | stop
  | eth (off slot : Nat)
  | mpls (off : Nat)
  | mpls5 (off : Nat)
  | ip4 (off : Nat)
  | ip6 (off : Nat)
  | arp (off : Nat)
  | ptp (off : Nat)
  | gre (off : Nat)
deriving DecidableEq, Repr

namespace Par

/-- Malformed reason `r` is found (R107). -/
def bad (p : Par) (r : Nat) : Par :=
  if bitOn p.mal (r - 1) then p else { p with mal := p.mal + 2 ^ (r - 1) }

/-- The vector changed. -/
def put (p : Par) (f : HV → HV) : Par := { p with hv := f p.hv }

/-- Big-endian number of the window. -/
def at_ (p : Par) (o n : Nat) : Nat := beAt p.win o n

/-- The byte at an offset of the window. -/
def byte (p : Par) (o : Nat) : Nat := beAt p.win o 1

/-- A header that extends past the window of a longer frame: reason 14 (R108). -/
def deep (p : Par) : Par := if p.win.length < p.fend then (p.bad 14).put fun h => { h with fDepth := true } else p

/-- A header or a length field that extends to `stop`: reason 1 where the frame ends first (R108). -/
def upTo (p : Par) (stop : Nat) : Par := if p.fend < stop then p.bad 1 else p

/-- Whether `n` bytes at `off` lie in the parse window; if not, reason 14 where the frame goes on past byte 511 and
reason 1 where the frame ends first; both may hold (R107, R108). -/
def need (p : Par) (off n : Nat) : Bool × Par :=
  if off + n ≤ p.win.length then (true, p) else (false, (p.upTo (off + n)).deep)

/-- A slot given its type and offset. -/
def slot (p : Par) (s ty off : Nat) : Par := p.put fun h => h.setSlot s ty off

/-- The TPIDs that mark a VLAN tag (R101). -/
def isTpid (p : Par) (e : Nat) : Bool :=
  e == 0x8100 || e == 0x88A8 || (p.cfg.tpidX != 0 && e == p.cfg.tpidX)

/-- The VLAN tags of an Ethernet header: `n` counts those parsed, `q` is the offset of the current type field. Answers the
parser, the offset after the type field and the type, or nothing where parsing ends (reasons 1, 3 and 14). -/
def tags (p : Par) (s off : Nat) : Nat → Nat → Par × Option (Nat × Nat)
  | 0, q => if p.isTpid (p.at_ q 2) then (p.bad 3, none) else (p, some (q + 2, p.at_ q 2))
  | k + 1, q =>
    if p.isTpid (p.at_ q 2) then
      match p.need q 6 with
      | (false, p) => (p, none)
      | (true, p) =>
        let n := 1 - k
        let t := p.at_ (q + 2) 2
        let p := if s = 0 then p.put fun h =>
          { h with vlanCnt := n + 1, tci0 := if n = 0 then t else h.tci0, tci1 := if n = 1 then t else h.tci1 } else p
        (p.slot s (2 + n) off).tags s off k (q + 4)
    else (p, some (q + 2, p.at_ q 2))

/-- An Ethernet header in slot 0 or slot 5 (R101, R102). -/
def eth (p : Par) (off s : Nat) : Par × Nxt :=
  match (p.slot s 1 off).need off 14 with
  | (false, p) => (p, .stop)
  | (true, p) =>
    let p := if s = 0 then
        let p := p.put fun h => { h with dmac := p.at_ off 6, smac := p.at_ (off + 6) 6,
                                         fDmacMc := p.byte off % 2 == 1 }
        if p.byte (off + 6) % 2 = 1 then p.bad 2 else p
      else p
    match p.tags s off 2 (off + 12) with
    | (p, none) => (p, .stop)
    | (p, some (q, et)) =>
      let p := if s = 0 then p.put fun h => { h with etype := et } else p
      if et ≤ 1500 then ((((p.slot s 4 off).upTo (q + et)).need q 3).2, .stop)
      else if et = 0x8847 ∨ et = 0x8848 then (p, if s = 0 then .mpls q else .stop)
      else if et = 0x0800 then (p, .ip4 q)
      else if et = 0x86DD then (p, .ip6 q)
      else if et = 0x0806 then (p, if s = 0 then .arp q else .stop)
      else if et = 0x88F7 then (p, .ptp q)
      else (p, .stop)

/-- ARP in slot 2: the fixed part and the addresses its length fields name. -/
def arp (p : Par) (off : Nat) : Par × Nxt :=
  match (p.slot 2 20 off).need off 8 with
  | (false, p) => (p, .stop)
  | (true, p) => ((p.need off (8 + 2 * (p.byte (off + 4) + p.byte (off + 5)))).2, .stop)

/-- A PTP message: its 34-byte common header. -/
def ptp (p : Par) (off : Nat) : Par × Nxt :=
  match p.need off 34 with
  | (false, p) => (p, .stop)
  | (true, p) => (p.put fun h => { h with fPtp := true }, .stop)

/-- Label stack entries of the slot 1 stack: `k` may still come, `n` are parsed, `eli` follows a label 7. Of several entropy labels
in one stack the last is kept (DESIGN CHOICE, log entry 41). -/
def labels (p : Par) : Nat → Nat → Nat → Bool → Par × Option Nat
  | 0, _, _, _ => (p.bad 4, none)
  | k + 1, n, q, eli =>
    match p.need q 4 with
    | (false, p) => (p, none)
    | (true, p) =>
      let e := p.at_ q 4
      let label := e / 4096
      let p := if eli then { p with ent := label } else p
      let isEli := !eli && label == 7
      let p := p.put fun h => { h with labelCnt := n + 1, lse := if n < 3 then h.lse.set n e else h.lse,
                                       eli := h.eli || isEli }
      if bitOn e 8 then (p, some (q + 4)) else p.labels k (n + 1) (q + 4) isEli

/-- The first nibble after a label stack, where the frame goes on. -/
def nibble (p : Par) (q : Nat) : Par × Option Nat :=
  if p.fend ≤ q then (p, none)
  else match p.need q 1 with
    | (false, p) => (p, none)
    | (true, p) => (p, some (p.byte q / 16))

/-- The slot 1 label stack and what its first nibble shows (R101). -/
def mpls (p : Par) (off : Nat) : Par × Nxt :=
  match (p.slot 1 8 off).labels 12 0 off false with
  | (p, none) => (p, .stop)
  | (p, some q) =>
    match p.nibble q with
    | (p, some 4) => (p, .ip4 q)
    | (p, some 6) => (p, .ip6 q)
    | (p, some 0) =>
      let p := { (p.slot 4 36 q).put (fun h => { h with cw := true }) with tunnel := true }
      match p.need q 4 with
      | (true, p) => if p.cfg.pwEth then ({ p with inner := true }, .eth (q + 4) 5) else (p, .stop)
      | (false, p) => (p, .stop)
    | (p, some 1) =>
      let p := { (p.slot 4 37 q).put (fun h => { h with gach := true, fOam := true }) with tunnel := true }
      ((p.need q 4).2, .stop)
    | (p, _) => (p, .stop)

/-- Entries of a stack reached through GRE, to its bottom. -/
def labels5 (p : Par) : Nat → Nat → Par × Option Nat
  | 0, _ => (p.bad 4, none)
  | k + 1, q =>
    match p.need q 4 with
    | (false, p) => (p, none)
    | (true, p) => if bitOn (p.at_ q 4) 8 then (p, some (q + 4)) else p.labels5 k (q + 4)

/-- A label stack reached through GRE, in slot 5; only an IP header under it is parsed (R102). -/
def mpls5 (p : Par) (off : Nat) : Par × Nxt :=
  match (p.slot 5 8 off).labels5 12 off with
  | (p, none) => (p, .stop)
  | (p, some q) =>
    match p.nibble q with
    | (p, some 4) => (p, .ip4 q)
    | (p, some 6) => (p, .ip6 q)
    | (p, _) => (p, .stop)

/-- Whether an option area holds the router alert: IPv4 option number 20, or IPv6 hop-by-hop option type 5. `k` bounds
the options looked at. -/
def routerAlert (v6 : Bool) : Nat → List Byte → Bool
  | 0, _ => false
  | _, [] => false
  | k + 1, t :: r =>
    if v6 then
      if t = 0 then routerAlert v6 k r
      else if t = 5 then true
      else match r with
        | [] => false
        | n :: r' => routerAlert v6 k (r'.drop n.toNat)
    else
      if t = 1 then routerAlert v6 k r
      else if t = 0 then false
      else if t.toNat % 32 = 20 then true
      else match r with
        | [] => false
        | n :: r' => if n.toNat < 2 then false else routerAlert v6 k (r'.drop (n.toNat - 2))

/-- Fragment fields. Answers whether the packet is a non-first fragment, which has no L4 header (R102). -/
def frag (p : Par) (fo : Nat) : Bool × Par :=
  let p := if p.hv.fFrag then p else
    p.put fun h => { h with fFrag := true, fragOff := fo, fFragFirst := fo == 0 }
  if fo = 0 then (false, p) else (true, p.put fun h => { h with fL4Skip := true })

/-- What follows a UDP header at `q` whose IP payload ends at `stop`. -/
def udp (p : Par) (q stop : Nat) : Par × Nxt :=
  let len := p.at_ (q + 4) 2
  let dport := p.at_ (q + 2) 2
  let long := decide (len < 8 ∨ stop < q + len)
  let p := if long then p.bad 12 else p
  let p := p.upTo (q + len)
  let p := if dport = 3784 ∨ dport = 4784 then p.put fun h => { h with fOam := true } else p
  if long then (p, .stop)
  else if dport = 319 ∨ dport = 320 then (p, .ptp (q + 8))
  else if p.cfg.vxlan && dport == p.cfg.vxlanPort && !(p.tunnel || p.inner) then
    match ({ p with tunnel := true, inner := true }.slot 4 33 (q + 8)).need (q + 8) 8 with
    | (false, p) => (p, .stop)
    | (true, p) => if bitOn (p.byte (q + 8)) 3 then (p, .eth (q + 16) 5) else (p.bad 13, .stop)
  else (p, .stop)

/-- The payload of an IP header: `v6` tells the family, `srh` whether an SRH precedes it (R101, R102). A header directly behind an
outer SRH is the first of its kind: an L4 header goes to slot 3, and a GRE header is shown there as type 29 (DESIGN CHOICE, log
entry 41: R102 says that the first L4 header goes to slot 3 and that headers after slot 4 go to slots 5 to 7). -/
def payload (p : Par) (proto q stop : Nat) (v6 srh : Bool) : Par × Nxt :=
  let s := if p.inner then 7 else 3
  if (proto = 4 ∨ proto = 41) ∧ ¬ p.inner ∧ (p.cfg.ipip ∨ srh) then
    ({ p with inner := true }, if proto = 4 then .ip4 q else .ip6 q)
  else if proto = 47 ∧ p.cfg.gre ∧ ¬ (p.tunnel ∨ p.inner) then (p, .gre q)
  else
    let icmp := if v6 then 58 else 1
    let ty := if proto = 6 then 24 else if proto = 17 then 25 else if proto = icmp then (if v6 then 27 else 26)
      else if proto = 132 then 28 else 29
    let p := p.slot s ty q
    if ty = 29 then (p, .stop)
    else
      let n := if ty = 24 then 20 else if ty = 25 then 8 else if ty = 28 then 12 else 4
      match p.need q n with
      | (false, p) => (p, .stop)
      | (true, p) =>
        let ports := p.at_ q 4
        let p := if ty = 26 ∨ ty = 27 then p
          else if s = 7 then p.put fun h => { h with il4ports := ports }
          else p.put fun h => { h with ol4ports := ports }
        if ty = 24 then
          let p := if s = 3 then p.put fun h => { h with ol4aux := p.at_ (q + 12) 2 % 512 } else p
          if p.byte (q + 12) / 16 < 5 then (p.bad 12, .stop)
          else ((p.need q (4 * (p.byte (q + 12) / 16))).2, .stop)
        else if ty = 26 ∨ ty = 27 then
          (if s = 3 then p.put fun h => { h with ol4aux := p.at_ q 2 } else p, .stop)
        else if ty = 25 then p.udp q stop
        else (p, .stop)

/-- An IP header of type `ty` begun, in slot 2 or slot 6; a slot 6 header is the inner one (R103). -/
def ipSlot (p : Par) (ty off : Nat) : Par :=
  if p.inner then (p.slot 6 ty off).put fun h => { h with fInner := true } else p.slot 2 ty off

/-- IPv4 in slot 2 or slot 6: every condition that the bytes at hand show is tested (R107). -/
def ip4 (p : Par) (off : Nat) : Par × Nxt :=
  let s := if p.inner then 6 else 2
  match (p.ipSlot 16 off).need off 20 with
  | (false, p) => (p, .stop)
  | (true, p) =>
    let ihl := p.byte off % 16
    match p.need off (4 * ihl) with
    | (whole, p) =>
      let tl := p.at_ (off + 2) 2
      let short := decide (p.byte off / 16 ≠ 4 ∨ ihl < 5 ∨ tl < 4 * ihl ∨ p.fend < off + tl)
      let p := if short then p.bad 5 else p
      let p := p.upTo (off + tl)
      let p := if whole ∧ 5 ≤ ihl ∧ inetCsum (slice p.win off (4 * ihl)) ≠ 0 then p.bad 6 else p
      let p := if ihl > 5 then
          let p := (p.slot s 17 off).put fun h => { h with fIp4Opt := true }
          if routerAlert false 40 (slice p.win (off + 20) (4 * ihl - 20)) then
            p.put fun h => { h with fRtrAlert := true } else p
        else p
      let proto := p.byte (off + 9)
      let src := p.at_ (off + 12) 4
      let dst := p.at_ (off + 16) 4
      let tos := p.byte (off + 1)
      let ttl := p.byte (off + 8)
      let p := if s = 2 then
          let p := p.put fun h => { h with oproto := proto, otos := tos, ottl := ttl, odst := dst, osrc := src }
          if src / 2 ^ 28 = 14 ∨ src / 2 ^ 24 = 127 ∨ src = 0xFFFFFFFF ∨ dst / 2 ^ 24 = 0 ∨ dst / 2 ^ 24 = 127
          then p.bad 7 else p
        else p.put fun h => { h with iproto := proto, itos := tos, ittl := ttl, idst := dst, isrc := src }
      let fl := p.at_ (off + 6) 2
      let r := if bitOn fl 13 ∨ fl % 0x2000 ≠ 0 then p.frag (fl % 0x2000) else (false, p)
      if r.1 ∨ short ∨ ¬ whole then (r.2, .stop)
      else r.2.payload proto (off + 4 * ihl) (off + tl) false false

/-- The SRH at `q`, in slot 4 (R102, reason 11). Answers whether parsing goes on. -/
def srh (p : Par) (q : Nat) : Bool × Par :=
  let p := { p.slot 4 34 q with tunnel := true }
  let hel := p.byte (q + 1)
  let sl := p.byte (q + 3)
  let le := p.byte (q + 4)
  let p := p.put fun h => { h with fSrh := true, srhSl := sl, srhLe := le }
  if hel % 2 = 1 ∨ hel < 2 * (le + 1) ∨ le + 1 < sl then (false, p.bad 11) else (true, p)

/-- The next header recorded for slot `s`. -/
def setProto (p : Par) (s nh : Nat) : Par :=
  if s = 2 then p.put fun h => { h with oproto := nh } else p.put fun h => { h with iproto := nh }

/-- The extension headers of an IPv6 header at `off`: `k` bounds the headers left, `cnt` are passed. -/
def ext6 (p : Par) (s off stop : Nat) : Nat → Nat → Nat → Nat → Bool → Par × Nxt
  | 0, _, nh, _, _ => (p.setProto s nh, .stop)
  | k + 1, cnt, nh, q, seen =>
    if nh = 0 ∨ nh = 43 ∨ nh = 44 ∨ nh = 51 ∨ nh = 60 then
      let many := decide (cnt = 8 ∨ (nh = 0 ∧ cnt ≠ 0))
      let p := if many then p.bad 10 else p
      let p := if cnt = 8 then p else p.slot s 19 off
      let p := if nh = 0 ∧ cnt ≠ 8 then p.put fun h => { h with fHbh := true } else p
      match p.need q 8 with
      | (false, p) => (p.setProto s nh, .stop)
      | (true, p) =>
        let nxt := p.byte q
        let ln := if nh = 44 then 8 else if nh = 51 then (p.byte (q + 1) + 2) * 4 else (p.byte (q + 1) + 1) * 8
        match p.need q ln with
        | (whole, p) =>
          let stops := many || !whole
          if nh = 0 then
            let p := if ¬ many ∧ routerAlert true 512 (slice p.win (q + 2) (ln - 2)) then
              p.put fun h => { h with fRtrAlert := true } else p
            if stops then (p.setProto s nh, .stop) else p.ext6 s off stop k (cnt + 1) nxt (q + ln) seen
          else if nh = 43 ∧ p.byte (q + 2) = 4 ∧ ¬ many then
            if p.tunnel ∨ p.inner then
              ((p.slot (if s = 6 then 7 else 3) 29 q).setProto s nh, .stop)
            else
              let r := p.srh q
              if stops ∨ ¬ r.1 then (r.2.setProto s nh, .stop) else r.2.ext6 s off stop k (cnt + 1) nxt (q + ln) true
          else if stops then (p.setProto s nh, .stop)
          else if nh = 44 then
            match p.frag (p.at_ (q + 2) 2 / 8) with
            | (true, p) => (p.setProto s nxt, .stop)
            | (false, p) => p.ext6 s off stop k (cnt + 1) nxt (q + ln) seen
          else p.ext6 s off stop k (cnt + 1) nxt (q + ln) seen
    else (p.setProto s nh).payload nh q stop true seen

/-- IPv6 in slot 2 or slot 6. -/
def ip6 (p : Par) (off : Nat) : Par × Nxt :=
  let s := if p.inner then 6 else 2
  match (p.ipSlot 18 off).need off 40 with
  | (false, p) => (p, .stop)
  | (true, p) =>
    let w0 := p.at_ off 4
    let stop := off + 40 + p.at_ (off + 4) 2
    let short := decide (w0 / 2 ^ 28 ≠ 6 ∨ p.fend < stop)
    let p := if short then p.bad 8 else p
    let p := p.upTo stop
    let src := p.at_ (off + 8) 16
    let dst := p.at_ (off + 24) 16
    let tos := w0 / 2 ^ 20 % 256
    let ttl := p.byte (off + 7)
    let p := if s = 2 then
        let p := { p.put (fun h => { h with otos := tos, ottl := ttl, odst := dst, osrc := src }) with
                   flowO := w0 % 2 ^ 20 }
        if src / 2 ^ 120 = 0xFF ∨ src = 1 ∨ dst = 0 ∨ dst = 1 then p.bad 9 else p
      else { p.put (fun h => { h with itos := tos, ittl := ttl, idst := dst, isrc := src }) with flowI := w0 % 2 ^ 20 }
    let nh := p.byte (off + 6)
    if short then (p.setProto s nh, .stop)
    else p.ext6 s off stop 9 0 nh (off + 40) false

/-- GRE in slot 4: version 0 with optional checksum, key and sequence number. -/
def greH (p : Par) (q : Nat) : Par × Nxt :=
  match ({ p with tunnel := true, inner := true }.slot 4 32 q).need q 4 with
  | (false, p) => (p, .stop)
  | (true, p) =>
    let fl := p.at_ q 2
    let odd := decide (fl % 8 ≠ 0 ∨ bitOn fl 14 ∨ fl / 8 % 512 ≠ 0)
    let p := if odd then p.bad 13 else p
    let hl := 4 + 4 * (fl / 2 ^ 15 % 2 + fl / 2 ^ 13 % 2 + fl / 2 ^ 12 % 2)
    match p.need q hl with
    | (false, p) => (p, .stop)
    | (true, p) =>
      if odd then (p, .stop)
      else
        let pt := p.at_ (q + 2) 2
        (p, if pt = 0x6558 then .eth (q + hl) 5 else if pt = 0x0800 then .ip4 (q + hl)
            else if pt = 0x86DD then .ip6 (q + hl)
            else if pt = 0x8847 ∨ pt = 0x8848 then .mpls5 (q + hl) else .stop)

/-- One header. -/
def one (p : Par) : Nxt → Par × Nxt
  | .stop => (p, .stop)
  | .eth o s => p.eth o s
  | .mpls o => p.mpls o
  | .mpls5 o => p.mpls5 o
  | .ip4 o => p.ip4 o
  | .ip6 o => p.ip6 o
  | .arp o => p.arp o
  | .ptp o => p.ptp o
  | .gre o => p.greH o

/-- The headers in turn; one tunnel level bounds them well below `k`. -/
def run : Nat → Par → Nxt → Par
  | 0, p, _ => p
  | _, p, .stop => p
  | k + 1, p, n => let r := p.one n; run k r.1 r.2

/-- The fields that the flow hash runs over (R106). A label is hashed in 3 bytes with zero in bits [23:20], as R106 says of a flow label
and not of a label (DESIGN CHOICE, log entry 41). -/
def hashBytes (p : Par) : List Byte :=
  let h := p.hv
  let sel := p.cfg.hashSel
  let inn := bitOn sel 5 && h.fInner
  let ty := (h.slot (if inn then 6 else 2)).ty
  let v4 := ty == 16 || ty == 17
  let v6 := ty == 18 || ty == 19
  if v4 || v6 then
    let alen := if v4 then 4 else 16
    (if bitOn sel 0 then beBytes alen (if inn then h.idst else h.odst) else []) ++
    (if bitOn sel 1 then beBytes alen (if inn then h.isrc else h.osrc) else []) ++
    (if bitOn sel 2 then beBytes 1 (if inn then h.iproto else h.oproto) else []) ++
    (if bitOn sel 3 then beBytes 4 (if inn then h.il4ports else h.ol4ports) else []) ++
    (if bitOn sel 4 && v6 then beBytes 3 (if inn then p.flowI else p.flowO) else [])
  else if (h.slot 1).ty = 8 then
    if h.eli then beBytes 3 p.ent
    else (h.lse.map (fun e => beBytes 3 (e / 4096))).flatten
  else beBytes 6 h.dmac ++ beBytes 6 h.smac ++ beBytes 2 h.etype

/-- The flow label of the hashed header, for HV_ENTROPY (R103). -/
def hashFlow (p : Par) : Nat :=
  let inn := bitOn p.cfg.hashSel 5 && p.hv.fInner
  let ty := (p.hv.slot (if inn then 6 else 2)).ty
  if ty = 18 ∨ ty = 19 then (if inn then p.flowI else p.flowO) else 0

/-- The forwarding TTL as the vector shows it: the top label's, or else slot 2's (R103). -/
def ttlSeen (h : HV) : Option Nat :=
  if (h.slot 1).ty = 8 then some (h.lse.getD 0 0 % 256)
  else if 16 ≤ (h.slot 2).ty ∧ (h.slot 2).ty ≤ 19 then some h.ottl else none

/-- The fields computed at the end of the parse. -/
def finish (p : Par) : Par :=
  p.put fun h => { h with
    fTtlLe1 := match ttlSeen h with | some t => decide (t ≤ 1) | none => false
    flowHash := crc32cFrom p.cfg.hashSeed p.hashBytes
    entropy := if h.eli then p.ent else p.hashFlow }

end Par

/-- What the parser makes of a frame of L bytes, FCS included: the vector, not yet sealed, with HV_LEN and HV_MAL_MASK
set. The fields that the packet's source gives (port, priority, epoch, VRF) are set by the caller. -/
def parse (cfg : ParCfg) (f : List Byte) : HV :=
  let p : Par := { cfg := cfg, win := f.take (min 512 (f.length - 4)), fend := f.length - 4 }
  let p := (Par.run 16 p (.eth 0 0)).finish
  { p.hv with len := f.length, malMask := p.mal }

/-- The lowest-numbered malformed reason of a mask, 1 to 16 (R107). -/
def malReason (mask : Nat) : Option Nat := ((List.range 16).find? (fun i => bitOn mask i)).map (· + 1)

end Sys2Proof.Machine
end

