-- ==== Sys2Proof/Machine/Types.lean ====
section
/-! DEFINITION. The records of which the state is made: fault records, interrupt sources, packets and their rewrite
descriptors, queue sections, and the working parts of each block that no register shows. -/

namespace Sys2Proof.Machine

/-! Interrupts and faults (chapter 15). -/

/-- The state of an interrupt source in one bank (R449). -/
inductive SrcState where
  | idle | pending | active | activePending
deriving DecidableEq, Repr

/-- An interrupt source in one bank: the entry of R456, the time of its last delivery, and whether it is already counted
as waiting for a target (R452). -/
structure IcuSrc where
  tgt : Nat := 0
  minInt : Nat := 0
  mask : Bool := false
  st : SrcState := .idle
  lastTgt : Nat := 63
  deliv : Nat := 0
  lastAt : Option Nat := none
  waiting : Bool := false
deriving DecidableEq, Repr

/-- What a detector knows of the access that failed (R461). -/
structure FltInfo where
  access : Nat := 0
  space : Nat := 0
  addr : Nat := 0
  master : Nat := 0x3FF
  detail : Nat := 0
  inj : Bool := false
deriving DecidableEq, Repr

/-- A reported fault or a repeat on its way to the FMU (R457, R460). -/
structure Report where
  page : Nat
  bit : Nat
  fatal : Bool
  info : FltInfo
  at_ : Nat
  tod : Nat
  todValid : Bool
deriving DecidableEq, Repr

/-- A fault record (R462). -/
structure FmuRec where
  sec : Nat := 0
  ns : Nat := 0
  seq : Nat := 0
  page : Nat := 0
  fatal : Bool := false
  todValid : Bool := false
  inj : Bool := false
  bit : Nat := 0
  access : Nat := 0
  space : Nat := 0
  addr : Nat := 0
  master : Nat := 0
  merge : Nat := 0
  detail : Nat := 0
deriving DecidableEq, Repr

/-! The decision log (R33). -/

structure LogEntry where
  sec : Nat := 0
  ns : Nat := 0
  seq : Nat := 0
  inst : Nat := 0
  loop : Nat := 0
  adv : Bool := false
  action : Nat := 0
  reason : Nat := 0
  input : Nat := 0
  bound : Nat := 0
  old : Nat := 0
  new : Nat := 0
deriving DecidableEq, Repr

/-! Cairn (chapter 02). -/

/-- What a staged write or a version-store value names: a register by its word address, a table entry by table and
index, an action-engine patch word or match register by Gallery and index. -/
inductive Target where
  | reg (addr : Nat)
  | ent (tid idx : Nat)
  | patch (g w : Nat)
  | matchReg (g i : Nat)
deriving DecidableEq, Repr

/-- One staged write: its target, the value, the address that identifies it (R522), and the bits that keep the value they
have at the apply instant: words of a counter pair that were not written (R479), and actuators of a loop in AUTO (R29). -/
structure Staged where
  tgt : Target
  val : Nat
  addr : Nat
  keep : Nat := 0
deriving DecidableEq, Repr

/-- An old value held for views that still need it (R21): the flip that replaced it. -/
structure OldVal where
  flip : Nat
  tgt : Target
  val : Nat
deriving DecidableEq, Repr

/-- A Grotto micro-op (R411): its operation, the register fields D, A and B, whether it is the instruction's last, whether the register
fields name temporaries, and the immediate or branch target within the block. -/
structure Uop where
  op : Nat
  d : Nat
  a : Nat
  b : Nat
  last : Bool
  tmp : Bool
  x : Nat
deriving DecidableEq, Repr

/-- A microword of the action engines by the fields of R170. -/
structure Microword where
  next : Nat
  cond : Nat
  alu0 : Nat
  alu1 : Nat
  vecWr : Nat
  desc : Nat
  meter : Nat
  count : Nat
  tbl : Nat
  disp : Nat
  chk : Nat
deriving DecidableEq, Repr

/-- The working part of a transaction slot: the master bound to it, what it stages, when it entered PENDING, whether the
wait was reported, the version of an action-engine patch it stages, and the security version that the patch commits (R398). -/
structure Slot' where
  bound : Option Nat := none
  patch : Option Nat := none
  svn : Option Nat := none
  staged : List Staged := []
  since : Nat := 0
  waitSeen : Bool := false
deriving DecidableEq, Repr

/-! Windows and apertures (R50, R51). -/

/-- What a part of a window shows: a table entry, an 8-byte counter of a page, a decision-log entry, a fault record, a word of
the fault map, 32 sources' P or A bits of a bank, a Survey count, MACsec statistics of a SecY or an SA of a Gallery, a
Scheduler node's state, a ledger's totals, a lane's error count, a Sump word, an Echo record; or nothing, which reads zero. -/
inductive Shown where
  | ent (tid idx : Nat)
  | ctr (page i : Nat)
  | log (pos : Nat)
  | rec_ (pos : Nat)
  | faults (word : Nat)
  | bits (bank word : Nat) (active : Bool)
  | count (i : Nat)
  | secy (g i : Nat)
  | sa (g i : Nat)
  | node (l i : Nat)
  | ledger (i : Nat)
  | lane (s i : Nat)
  | sump (addr : Nat)
  | echo (pos : Nat)
  | none
deriving DecidableEq, Repr

/-- An assembly in progress (R50): the window (a page address, or an aperture's base), its owner, the entry and the words
written so far, by word number. -/
structure Assembly where
  win : Nat
  owner : Nat
  of : Shown
  words : List (Nat × Nat)
deriving DecidableEq, Repr

/-- A read snapshot (R51): the window, the reader, the entry and its value. -/
structure Snapshot where
  win : Nat
  reader : Nat
  of : Shown
  val : Nat
deriving DecidableEq, Repr

/-! Pins. -/

/-- The outputs of R502: the transmitters of the network lanes, of PCIe and of the CXL ports, and the single pins. -/
inductive Pin where
  | netTx (lane : Nat)
  | pcieTx
  | cxlTx (p : Nat)
  | cxlRefclk (p : Nat)
  | cxlPerstN (p : Nat)
  | xspiRstN
  | xspiCsN
  | xspiClk
  | synce (k : Nat)
  | ppsOut
  | tdo
  | faultN
  | thermtripN
deriving DecidableEq, Repr

/-- What an output shows: a level, electrical idle or a clock that is off, high impedance, its data or clock, or what the boundary-scan
register puts there. -/
inductive Level where
  | low | high | idle | float | data | scan
deriving DecidableEq, Repr

/-! Packets. -/

/-- The rewrite descriptor (R185); `check` is REW_CHECK. -/
structure Rewrite where
  check : Nat := 0
  strip : Nat := 0
  editTtl : Bool := false
  editTos : Bool := false
  ip4csum : Bool := false
  ptp : Nat := 0
  puntRec : Bool := false
  trim : Bool := false
  lateLen : Bool := false
  ttl : Nat := 0
  tos : Nat := 0
  editOff : Nat := 0
  lfix : List (Nat × Nat) := [(0, 0), (0, 0), (0, 0)]
  token : Nat := 0
  ins : List Byte := []
deriving DecidableEq, Repr

/-- Bytes 2 to 191 of the descriptor. -/
def Rewrite.body (r : Rewrite) : List Byte :=
  leBytes 2 r.strip ++ leBytes 1 r.ins.length ++
  leBytes 1 (b2n r.editTtl * 128 + b2n r.editTos * 64 + b2n r.ip4csum * 32 + r.ptp * 8 + b2n r.puntRec * 4 +
    b2n r.trim * 2 + b2n r.lateLen) ++
  leBytes 1 r.ttl ++ leBytes 1 r.tos ++ leBytes 2 r.editOff ++
  (r.lfix.map (fun x => leBytes 2 (x.1 * 0x4000 + x.2))).flatten ++ leBytes 4 r.token ++ leBytes 12 0 ++
  (r.ins ++ List.replicate (160 - r.ins.length) 0)

/-- The descriptor with REW_CHECK computed over bytes 2 to 191 (R199). -/
def Rewrite.seal (r : Rewrite) : Rewrite := { r with check := crc16 r.body }

/-- Whether REW_CHECK holds (R200). -/
def Rewrite.checkOk (r : Rewrite) : Bool := r.check == crc16 r.body

/-- The verdict on a packet's frame: not yet known, good, or bad with the fault's kind. -/
inductive Verdict where
  | unknown | good | badFcs | badIcv | oversize | aborted | cellChk | noCell
deriving DecidableEq, Repr

/-- What stage 6 decided (R173): discard, send to the queue of the packet, or a malformed packet's own action. A packet
booked as lost to error carries the counter index that names the error. -/
inductive Disp where
  | drop
  | lost (cause : Nat)
  | enqueue
deriving DecidableEq, Repr

/-- A frame in the entrance buffer: `data` is what the MAC delivers after MACsec removal, `held` the bytes that have
arrived, `ts` the ingress timestamp in 2^-16 ns. -/
structure EntFrame where
  data : List Byte
  ts : Nat
  prio : Nat
  pfcPrio : Nat
  held : Nat
  complete : Bool := false
  verdict : Verdict := .unknown
deriving DecidableEq, Repr

/-- Where a frame in reception stands (R75): fewer than 64 bytes have arrived, admitted and last in its port's FIFO,
dropped, or dispatched as a packet. -/
inductive RxAt where
  | mac
  | entrance
  | gone
  | pipe (pid : Nat)
deriving DecidableEq, Repr

/-- Why a frame in reception is dropped: under R81, in PARK (R295), in a Gallery reset when it began (R282), by MACsec, or lost since it
was admitted (R84, R282). -/
inductive RxDrop where
  | entrance | park | reset | msec | lost
deriving DecidableEq, Repr

/-- The frame a port is receiving: the frame as it is on the wire, what MACsec makes of it, when it began, where it stands, and why
where it is dropped. -/
structure RxFrame where
  wire : List Byte
  data : List Byte
  ts : Nat
  icvBad : Bool := false
  place : RxAt := .mac
  since : Nat := 0
  why : RxDrop := .lost
deriving DecidableEq, Repr

/-- A request for a Survey, Echo or telemetry capture that travels with a packet. -/
structure EchoReq where
  cls : Bool := false
  mal : Bool := false
deriving DecidableEq, Repr

/-- A packet beyond the dispatcher, in any tier. -/
structure Pkt where
  data : List Byte := []
  len : Nat := 0
  gal : Nat := 0
  inPort : Nat := 0
  inPrio : Nat := 0
  pfcPrio : Nat := 0
  ts : Nat := 0
  epoch : Nat := 0
  pass2 : Bool := false
  inj : Bool := false
  ptpSrc : Nat := 0
  outPort : Nat := 0
  queue : Nat := 0
  colour : Nat := 3
  ct : Bool := false
  copy : Bool := false
  rw : Rewrite := {}
  verdict : Verdict := .unknown
  disp : Disp := .enqueue
  stats : List Nat := []
  cnts : List (Nat × Nat) := []
  mal : Nat := 0
  malAct : Nat := 1
  vrf : Nat := 0
  metaData : Nat := 0
  ttlDone : Bool := false
  hv : HV := {}
  echo : EchoReq := {}
  owner : Nat := 0
  dataCells : Nat := 0
  reason : Nat := 0
  chkBad : Bool := false
  started : Bool := false
  discard : Bool := false
  hole : Bool := false
  keep : Option Nat := none
  nh : Nat := 0xFFFFFF
  rule : Nat := 0x3FFFF
  src : Nat := 0
  linkBad : Bool := false
  admitted : Bool := false
  gone : Bool := false
  echoed : Bool := false
  outTs : Nat := 0
deriving DecidableEq, Repr

/-- The charge classes of R207. -/
inductive Cls where
  | shared | hdrm | bklg | refill
deriving DecidableEq, Repr

/-- A Chamber cell: references to it (R206) and the class it is charged to, once admitted. -/
structure CellSt where
  refs : Nat := 0
  cls : Option Cls := none
deriving DecidableEq, Repr

/-- A cell in a queue: the packet, the position (0 the record cell, then the data cells), and the Chamber cell. -/
structure QCell where
  pid : Nat
  pos : Nat
  cell : Nat
deriving DecidableEq, Repr

/-- A span of a spill section: in the Sump or on a far port, the pool and buffer that hold it, its cells in order, reads of
it in flight, the pieces of a far span already read and those that are void (R335), its number within the queue, and the far
link generation it was written under, and when reads of it were last begun (R348). -/
structure Span where
  far : Bool := false
  port : Nat := 0
  pool : Nat := 0
  buf : Nat := 0
  cells : List QCell := []
  flight : Nat := 0
  pieces : Nat := 0
  void : List Nat := []
  seq : Nat := 0
  gen : Nat := 0
  since : Nat := 0
deriving DecidableEq, Repr

/-- A far migration in progress: the far port, pool and buffer of its span, the number of its first Sump span, and when it began. -/
structure Migr where
  port : Nat
  pool : Nat
  buf : Nat
  first : Nat
  since : Nat := 0
deriving DecidableEq, Repr

/-- A queue: its three sections (head, spill, tail), a far migration in progress, the next span number, when it entered its
depth bucket, whether its refill is under way towards ADM_REFILL_HI (R216), and armed injections. -/
structure Queue where
  spill : Bool := false
  head : List QCell := []
  spans : List Span := []
  tail : List QCell := []
  migr : Option Migr := none
  spanSeq : Nat := 0
  bucketAt : Nat := 0
  refilling : Bool := false
  linkArm : Bool := false
  chkArm : Bool := false
  sumpUeArm : Bool := false
  farUeArm : Bool := false
deriving DecidableEq, Repr

/-- A request that waits at a pseudo-channel (R327): its bank and row, its port, whether it writes, its line address and the
time it arrived, with its deadline and the target that gave it (R329). -/
structure HbmReq where
  stack : Nat
  pc : Nat
  bank : Nat
  row : Nat
  port : Nat
  wr : Bool
  addr : Nat
  since : Nat
  due : Nat := 0
  tgt : Nat := 0
deriving DecidableEq, Repr

end Sys2Proof.Machine
end

