-- ==== Sys2Proof/Machine/State.lean ====
section
/-! DEFINITION. The state of the engine as plain data, the reasons a step can stop, and the state right after reset. Every
register field lives in `Body.regs`, every 64-bit page counter in `Body.ctrs`, every table and window entry in `Body.tbls`;
what no register shows is in the part of its block. -/

namespace Sys2Proof.Machine

/-- Why a step faults. No command of this block faults: the spec gives every access and event an effect. -/
inductive Fault where
  /-- Raised by no meaning; it stands for an engine whose supplies are lost, which no command models. Safe. -/
  | unpowered
deriving DecidableEq, Repr

/-- Why a step is refused. -/
inductive Refusal where
  /-- Raised by the dispatch of a command that has no meaning yet. Safe. -/
  | notModelled (mnemonic : String)
deriving DecidableEq, Repr

/-- Interrupts and faults: the sources of each bank, the record ring, the open record of each scope, the reports that
wait for the FMU, the scopes whose contain action runs, and record positions with an uncorrectable error. -/
structure IrqSt where
  normal : List (Nat × IcuSrc) := []
  fast : List (Nat × IcuSrc) := []
  recs : List (Nat × FmuRec) := []
  opened : List (Nat × Nat) := []
  reports : List Report := []
  recBad : List Nat := []
  recArm : Bool := false
deriving DecidableEq, Repr

/-- The Governor: frozen after a stall (R32), the decision log by position, and the time of each loop's last action on
each instance; the actions that run, as loop and instance (R30); and of the RETRAIN loop the times of each port's
re-adaptations and the ports it has given up (R342). -/
structure GovSt where
  frozen : Bool := false
  log : List (Nat × LogEntry) := []
  lastAct : List (Nat × Nat) := []
  running : List (Nat × Nat) := []
  readapt : List (Nat × List Nat) := []
  giveUp : List Nat := []
deriving DecidableEq, Repr

/-- Cairn: the slots, the number of flips since reset, the flips of the last 20 ns with their times (R19), the flip each Gallery
tags with, and the version store. -/
structure CairnSt where
  slots : List (Nat × Slot') := []
  flips : Nat := 0
  flipAt : List (Nat × Nat) := []
  galTag : List (Nat × Nat) := []
  old : List OldVal := []
deriving DecidableEq, Repr

/-- Table windows and apertures: assemblies in progress and read snapshots. -/
structure WinSt where
  asm : List Assembly := []
  snaps : List Snapshot := []
deriving DecidableEq, Repr

/-- The network side: the frame each port is receiving, the entrance FIFO of each ingress port, when a port last heard a
frame begin, PAUSE and PFC timers as loaded (in quanta; timer 8 of a port is PAUSE's), ports whose entrance count holds
XOFF, port and priority pairs whose Chamber count holds it, SA keys with an uncorrectable error, and armed entrance ECC
errors. -/
structure NetSt where
  rx : List (Nat × RxFrame) := []
  ent : List (Nat × List EntFrame) := []
  heard : List (Nat × Nat) := []
  pause : List (Nat × Nat) := []
  entXoff : List Nat := []
  chmXoff : List Nat := []
  keyBad : List Nat := []
  entEcc : List Nat := []
deriving DecidableEq, Repr

/-- The state of a policer (R176, R178): tokens in 1/1,024 units, the carried parts of accrual, the last update. -/
structure PolSt where
  tc : Nat := 0
  tp : Nat := 0
  last : Nat := 0
  remC : Nat := 0
  remP : Nat := 0
deriving DecidableEq, Repr

/-- A packet at an inject source (R197): its control record, its bytes with a new FCS, who sent it, when,
and the pool and staging buffer that hold a host's packet until it is in Chamber cells. -/
structure InjPkt where
  rec_ : List Byte
  data : List Byte
  host : Bool
  src : Nat
  ts : Nat
  stage : List (Nat × Nat) := []
deriving DecidableEq, Repr

/-- The header pipelines: packets in every tier, packets on their way to stage 7, recirculation holding buffers, inject
sources, the heads that each requester of a dispatcher has had in its round (R82), entries with bad parity, flipped CAM key bits, policer states, armed injections, the IPv4 identification of each
source (R188), the digest regions written since their pass began (R163), the region the comparator is in, the VRFs created
in AUTO whose root node is yet to be built (R143), and of the MIGRATE loop the trie lines that it frees and the Dripstone entries, with
their generations, that it clears once LPM_DRAIN has returned to 0 (R144, R150). -/
structure PipeSt where
  pkts : List (Nat × Pkt) := []
  nextPid : Nat := 0
  stage7 : List Nat := []
  rcyHold : List (Nat × List Nat) := []
  injQ : List (Nat × List InjPkt) := []
  disp : List (Nat × Nat) := []
  parBad : List (Nat × Nat) := []
  camFlip : List (Nat × Nat) := []
  pol : List (Nat × PolSt) := []
  polBad : List Nat := []
  ucodeArm : List Nat := []
  parserArm : List Nat := []
  ipId : List (Nat × Nat) := []
  digDirty : List Nat := []
  digPass : Nat := 0
  newRoots : List Nat := []
  trieFree : List Nat := []
  dsWait : List (Nat × Nat) := []
deriving DecidableEq, Repr

/-- A delta line of the statistics cache (R183). -/
structure Delta where
  pkts : Nat := 0
  bytes : Nat := 0
deriving DecidableEq, Repr

/-- The statistics cache: delta lines, when each took its first delta, lines armed with an uncorrectable error, and the deltas that a flush in
progress covers. The pairs themselves are in the Sump (R477). -/
structure StatSt where
  lines : List (Nat × Delta) := []
  since : List (Nat × Nat) := []
  bad : List Nat := []
  flush : List (Nat × Delta) := []
deriving DecidableEq, Repr

/-- The buffer: queues, Chamber cells, the order in which queues entered their depth buckets, profiles that wrote spans in
the BUFFER loop's period, cells beyond a link break and how many were booked so, the entries of the free list and those out of service
(R277); and for each pool the buffers allocated, those out of service, those whose state bit is lost, an armed state error, and the pools
whose POOL_MIN has been read and not set since (R234). -/
structure BufSt where
  queues : List (Nat × Queue) := []
  cells : List (Nat × CellSt) := []
  seq : Nat := 0
  wrote : List Nat := []
  orphans : List Nat := []
  orphanBooked : Nat := 0
  freeList : Nat := 2097152
  outSvc : Nat := 0
  alloc : List (Nat × List Nat) := []
  dead : List (Nat × List Nat) := []
  bitBad : List (Nat × Nat) := []
  bitArm : List Nat := []
  minClr : List Nat := []
deriving DecidableEq, Repr

/-- The memories that are not registers or tables, as bytes: the Sump, the far memory of each CXL port, the Grotto's, and the
host's as the engine reaches it by DMA. An unlisted byte reads as zero. -/
structure MemSt where
  sump : List Host.Cell := []
  far0 : List Host.Cell := []
  far1 : List Host.Cell := []
  grt : List Host.Cell := []
  host : List Host.Cell := []
deriving DecidableEq, Repr

/-- Rimstone: what entered and left each ledger since reset, what was lost to error, the balance, entries and exits at the
last snapshot (the cell total is whole from the start), the amounts that an injection adds to the next audit, the difference of each total
from its fixed value then and at the snapshot before (R275), and the amounts that a fired self check adds to the next audit and to the one
after (R279). -/
structure RimSt where
  ins : List (Nat × Nat) := []
  outs : List (Nat × Nat) := []
  lost : List (Nat × Nat) := []
  disc : List (Nat × Nat) := []
  prevBal : List (Nat × Nat) := [(24, 2097152)]
  prevIn : List (Nat × Nat) := []
  prevOut : List (Nat × Nat) := []
  snapBal : List (Nat × Nat) := []
  snapIn : List (Nat × Nat) := []
  snapOut : List (Nat × Nat) := []
  snapOpen : Bool := false
  snapAt : Nat := 0
  arm : List (Nat × Nat) := []
  snapArm : List (Nat × Nat) := []
  snapFix : List (Nat × Nat) := []
  prevFix : List (Nat × Nat) := []
  selfArm : List (Nat × Nat) := []
  selfNext : List (Nat × Nat) := []
deriving DecidableEq, Repr

/-- The HBM controllers: requests that wait, in arrival order; pseudo-channels in write drain and stacks in panic; the open
row of each bank; lines with a correctable and with an uncorrectable error; armed errors by stack and port; refreshes
postponed and the next bank of each pseudo-channel's round robin; trained settings by stack, rate, pseudo-channel, kind and
lane; lines whose data is coded for another line's address, with that line (R333); lane error counts of the last run; stacks whose step has stalled them and when; and the rate that each step goes to; of each stack the bytes
served when its demand was last measured and its averages with their times (R339), the corrected errors counted at the decisions of the
REFRESH loop (R332), and of each pseudo-channel the corrected errors of the last second (R342). -/
structure HbmSt where
  queue : List HbmReq := []
  drain : List Nat := []
  panic : List Nat := []
  rows : List (Nat × Nat) := []
  ce : List Nat := []
  ue : List Nat := []
  arm : List (Nat × Nat) := []
  postponed : List (Nat × Nat) := []
  refBank : List (Nat × Nat) := []
  delay : List (Nat × Nat) := []
  laneErr : List (Nat × Nat) := []
  coded : List (Nat × Nat) := []
  stalled : List (Nat × Nat) := []
  target : List (Nat × Nat) := []
  served : List (Nat × Nat) := []
  load : List (Nat × List (Nat × Nat)) := []
  errs : List (Nat × List (Nat × Nat)) := []
  pcErr : List (Nat × List Nat) := []
deriving DecidableEq, Repr

/-- The far ports: ports armed to poison a read or to withhold a completion; queues whose front read's completion is withheld,
and those whose far copy's is; and the replays of the last milliseconds, newest first (R342, R348). -/
structure FarSt where
  armPoison : List Nat := []
  armHold : List Nat := []
  heldRead : List Nat := []
  heldCopy : List Nat := []
  replays : List (Nat × List (Nat × Nat)) := []
deriving DecidableEq, Repr

/-- The Echo capture (R484 to R487): the record bucket in 1/1,000 record and its last update, the packets counted on each port
since its last sample, the draws made since the seed was written, and the number of the block that is next for the archive. -/
structure EchoSt where
  tokens : Nat := 1024000
  last : Nat := 0
  cnt : List (Nat × Nat) := []
  drawn : Nat := 0
  arch : Nat := 0
deriving DecidableEq, Repr

/-- A packet that a slice has handed to egress: the slice, the packet and its Chamber cells. -/
structure EgrPkt where
  slice : Nat
  port : Nat
  pid : Nat
  queue : Nat
  cells : List QCell
deriving DecidableEq, Repr

/-- The Scheduler (R242, R248): start tags, virtual times, credits and the numerators of carried fractions by node, the
children eligible at the last evaluation, the period that runs and when it ends, the decisions that each port has had in its round (R238),
the D13 clock that each slice is in with its decisions in it, the slices that are short of slots, nodes with uncorrectable configuration, nodes armed with a
state or a configuration error, Galleries asked to wake, and the packets in egress. Node keys are level × 2^20 + index; a virtual time's is 4 × node + level. -/
structure SchSt where
  s : List (Nat × Nat) := []
  v : List (Nat × Nat) := []
  credit : List (Nat × Int) := []
  frac : List (Nat × Nat) := []
  elig : List Nat := []
  period : Nat := 128
  next : Nat := 128
  turn : List (Nat × Nat) := []
  slot : List (Nat × (Nat × Nat)) := []
  short : List Nat := []
  badCfg : List Nat := []
  armState : List Nat := []
  armCfg : List Nat := []
  wake : List Nat := []
  egr : List EgrPkt := []
deriving DecidableEq, Repr

/-- A channel window of a thread (R370, R371): 0 free, 1 reserved, 2 acquired, 3 abandoned; its channel, slot and length. -/
structure Win where
  st : Nat := 0
  ch : Nat := 0
  slot : Nat := 0
  len : Nat := 0
deriving DecidableEq, Repr

/-- What a thread in WAIT waits for: events, or room or a message in a channel. -/
inductive WaitOn where
  | events
  | reserve (ch : Nat)
  | acquire (ch : Nat)
deriving DecidableEq, Repr

/-- The blocking load that a thread waits at: what it waits for, the register it loads, and whether a 4-byte load extends the
sign. -/
structure Waiting where
  on : WaitOn
  d : Nat
  sx : Bool
deriving DecidableEq, Repr

/-- A Grotto thread (R356, R367, R368): registers G1 to G31, program counter, wait mask, latched events, binds, the time its
timer expires, pool request size, windows, the wait it is in, instructions left of a STEP, armed injections, and the times of
restarts by the supervisor. -/
structure Thread where
  regs : List (Nat × Nat) := []
  pc : Nat := 0
  wmask : Nat := 0
  pend : Nat := 0
  binds : List (Nat × Nat) := []
  timer : Option Nat := none
  psize : Nat := 0
  wins : List (Nat × Win) := []
  wait : Option Waiting := none
  steps : Option Nat := none
  ueArm : Bool := false
  rfArm : Bool := false
  restarts : List Nat := []
deriving DecidableEq, Repr

/-- A channel (R370): its free slots and ready slots with their lengths, in order, and its counts. -/
structure Chan where
  free : List Nat := []
  ready : List (Nat × Nat) := []
  commits : Nat := 0
  abandons : Nat := 0
deriving DecidableEq, Repr

/-- The Grotto: threads by 8 × core + thread, channels, words of local memory with an uncorrectable error, cores that restart,
cores whose deadlock detector has fired and waits for a new instruction or command, and the customer threads whose halt the firmware of
their thread 0 has yet to act on (R367, R378). -/
structure GrtSt where
  ths : List (Nat × Thread) := []
  chans : List (Nat × Chan) := []
  bad : List Nat := []
  restarting : List Nat := []
  dlFired : List Nat := []
  halts : List Nat := []
deriving DecidableEq, Repr

/-- A vector of the MSI-X table (R418): a masked vector sends nothing. -/
structure Vec where
  addr : Nat := 0
  data : Nat := 0
  masked : Bool := true
deriving DecidableEq, Repr

/-- What a ring holds beside its page: jobs done that no write-back covers yet, as entries and packet bytes; how many entries of
the job in execution are done and whether one of them failed; whether a command waits, or an inject fetch; jobs not yet
notified; telemetry slots taken whose record waits for DMA. -/
structure RingRun where
  done : List (Nat × Nat) := []
  idx : Nat := 0
  failed : Bool := false
  waiting : Bool := false
  delayed : Bool := false
  note : Nat := 0
  tel : List (Nat × List Byte) := []
deriving DecidableEq, Repr

/-- A punt packet that the host port holds (R436): its ring, its bytes, and the staging buffer. -/
structure HeldPunt where
  ring : Nat
  bytes : List Byte
  pktBytes : Nat
  pool : Nat
  buf : Nat
deriving DecidableEq, Repr

/-- The host interface: the function's power state, BAR assignments, the MSI-X table with its mask and pending bits, the
rings, a held punt packet, armed DMA errors by ring, and the table-command ring served last. -/
structure HostSt where
  d3 : Bool := false
  bars : List (Nat × Nat) := []
  fnMask : Bool := false
  vecs : List (Nat × Vec) := []
  pba : List Nat := []
  rings : List (Nat × RingRun) := []
  held : Option HeldPunt := none
  arm : List (Nat × Nat) := []
  last : Nat := 239
deriving DecidableEq, Repr

/-- Survey (R470 to R474): occurrences and bytes of the events that no other counter holds, the running count and the
last value of each counter, the window in force in µs and whether its end is due (R473), and of each Gallery the pipeline slots since its
heads were last counted, in 1/1,000, with that count of heads (R471). -/
structure SvySt where
  ev : List (Nat × Nat) := []
  cnt : List (Nat × Nat) := []
  last : List (Nat × Nat) := []
  win : Nat := 1000
  winDue : Bool := false
  slots : List (Nat × (Nat × Nat)) := []
deriving DecidableEq, Repr

/-- What the engine sends, oldest first: frames, PFC frames, MSI-X messages, and CXL.io requests (R355). The levels of its pins are
functions of the state. -/
inductive Out where
  | frame (port : Nat) (bytes : List Byte) (errored : Bool)
  | pfc (port vector quanta : Nat)
  | msix (vector addr data : Nat)
  | cxlIo (port : Nat) (wr mem : Bool) (addr data be : Nat)
deriving DecidableEq, Repr

/-- The power of a Gallery beside its registers (R291 to R297, R495): the resting state that a wake leaves and when the wake
began, since when the active Gallery has been idle, whether power-good has come and whether it came late, whether a boost holds, a request written during the wake, whether
an injection withholds power-good or is armed to, whether a Gallery reset waits for the wake, and the regulator's code. -/
structure GalPwr where
  left : Nat := 0
  since : Nat := 0
  idleAt : Option Nat := none
  good : Bool := false
  late : Bool := false
  boost : Bool := false
  held : Option Nat := none
  withheld : Bool := false
  arm : Bool := false
  resetDue : Bool := false
  vid : Nat := 0
deriving DecidableEq, Repr

/-- The Lamp: the Galleries' power; consecutive samples of each comparator beyond its threshold and frames begun in each
Gallery since the last sample (R289); the time of day below 2^-16 ns (in units of 2^-16 × 10^-9 ns), the slew still to apply
in those units, the heads that the POWER loop has counted for each Gallery since it last measured and its averages with their times (R298), the
time latched for each master (R301 to R303); whether the 1PPS input and the system reference are lost, the
1PPS output, whether it is due to rise and when it falls; since when the conditions of the THERMAL loop have held (R315); and the domains whose PLL has
lost lock (R287). -/
structure LampSt where
  gal : List (Nat × GalPwr) := []
  run : List (Nat × Nat) := []
  traffic : List (Nat × Nat) := []
  heads : List (Nat × Nat) := []
  load : List (Nat × List (Nat × Nat)) := []
  todRem : Nat := 0
  slew : Int := 0
  latch : List (Nat × Nat) := []
  ppsLost : Bool := false
  refLost : Bool := false
  ppsOut : Bool := false
  ppsDue : Bool := false
  ppsOff : Nat := 0
  hotAt : Option Nat := none
  powAt : Option Nat := none
  coolAt : Option Nat := none
  lost : List Nat := []
deriving DecidableEq, Repr

/-- How the engine stands (R288, R314, R497 to R501): VDD_LAMP absent, held in reset by RESET_N, in the brown-out hold, held
in reset because it is too hot, running, or stopped by a thermal trip. -/
inductive Mode where
  | off | held | brownout | hot | running | tripped
deriving DecidableEq, Repr

/-- The straps of R500 but the I3C address: flash release, slow xSPI, manufacturing test. -/
structure Straps where
  flashRel : Bool := false
  slow : Bool := false
  test : Bool := false
deriving DecidableEq, Repr

/-- Supplies and resets: how the engine stands, whether RESET_N has been released while a condition of R498 holds the reset,
the straps as sampled, the I3C address straps, whether the pins follow the test logic (R507), and whether a trip's fault waits
to be recorded (R316) and was injected, and whether only VDD_LAMP has come up (R288). -/
structure PwrSt where
  mode : Mode := .held
  released : Bool := false
  straps : Straps := {}
  sa : Nat := 0
  testPins : Bool := false
  tripDue : Bool := false
  tripInj : Bool := false
  lampOnly : Bool := false
deriving DecidableEq, Repr

/-- Asuth (chapter 13): how far boot has come by step of R390, the step that paused in WAIT_HOST; the master that wrote
BOOT_LD_GO and the length it gave, whether a target thread was not IDLE then, and the threads that the load writes; an armed
injection; payloads accepted from the host in WAIT_HOST that wait for their step, by type; the boot configuration's register
list and training list; the Grotto patch: the valid match registers with the block that each holds, and the micro-ops of the patch RAM (R408, R411); the security version that an applied
action-engine patch commits (R398). -/
structure BootSt where
  reached : Nat := 0
  paused : Nat := 0
  master : Nat := 0
  len : Nat := 0
  tgtBusy : Bool := false
  tgts : List Nat := []
  arm : Option Nat := none
  held : List (Nat × List Byte) := []
  regList : List (Nat × Nat) := []
  training : Nat := 0
  grtMatch : List (Nat × Nat) := []
  grtUops : List (Nat × Nat) := []
  svnDue : Nat := 0
deriving DecidableEq, Repr

/-- BAR0 answers from boot step 5 (R390). -/
def BootSt.bar0 (x : BootSt) : Bool := decide (5 ≤ x.reached)

/-- A statistics snapshot in progress: whether it waits for its time, its port, and when it started. -/
structure SnpSt where
  waiting : Bool := false
  port : Nat := 0
  start : Nat := 0
deriving DecidableEq, Repr

/-- The service ports (R506, R507): the I3C read address, its dynamic address, when the address was last written and when the
last read ended, the current instruction of the test access port. -/
structure SvcSt where
  addr : Nat := 0
  dyn : Option Nat := none
  wrAt : Option Nat := none
  rdAt : Option Nat := none
  instr : JtagInstr := .idcode
deriving DecidableEq, Repr

/-- Everything but what is sticky. `clk` counts nanoseconds, `fresh` the open values taken (the model's own field), `rdata` is
what the last read answered, and `marks` holds the times from which waits are counted, by the keys of `Mk`. -/
structure Body where
  clk : Nat := 0
  fresh : Nat := 0
  tod : Nat := 0
  regs : List (Nat × Nat) := []
  ctrs : List (Nat × Nat) := []
  tbls : List (Nat × Nat) := []
  irq : IrqSt := {}
  gov : GovSt := {}
  cairn : CairnSt := {}
  win : WinSt := {}
  net : NetSt := {}
  pipe : PipeSt := {}
  stat : StatSt := {}
  buf : BufSt := {}
  rim : RimSt := {}
  mem : MemSt := {}
  hbm : HbmSt := {}
  far : FarSt := {}
  echo : EchoSt := {}
  sch : SchSt := {}
  grt : GrtSt := {}
  host : HostSt := {}
  svy : SvySt := {}
  lamp : LampSt := {}
  sup : PwrSt := {}
  boot : BootSt := {}
  snp : SnpSt := {}
  svc : SvcSt := {}
  rdata : List Nat := []
  out : List Out := []
  marks : List (Nat × Nat) := []
deriving DecidableEq, Repr

/-- What no ordinary command changes: the locked pages (R46), the fuses (key slots provisioned with their hashes, slots revoked,
the two security versions; R397, R398), and the boot flash, which the engine never writes (R392). -/
structure Sticky where
  locked : List Nat := []
  prov : List (Nat × Nat) := []
  revoked : List Nat := []
  svnV : Nat := 0
  svnC : Nat := 0
  flash : List Host.Cell := []
deriving DecidableEq, Repr

structure Dev where
  sticky : Sticky := {}
  body : Body := {}
deriving DecidableEq, Repr

structure State where
  dev : Dev := {}
  pending : List Instr := []
deriving DecidableEq, Repr

/-- The state right after reset: RESET_N holds the engine (R501), every register and table entry reads its reset value, and
PG_EN of the device-wide pages is 1 (R42). -/
def State.reset : State :=
  { dev := { body := { regs := (List.range 8).map fun n => ((n * 0x1000 + 0x10) * 32, 1) } } }

end Sys2Proof.Machine
end

