-- ==== Sys2Proof/Machine/Ops.lean ====
section
/-! DEFINITION. The named operations over the state: register fields, 64-bit counters, table entries, bytes of memory,
the time of day, open values and outputs. Everything else reads and writes the state through these. -/

namespace Sys2Proof.Machine

namespace Body

/-- The value of a register field, at index `i` (and `j`) where the register repeats: no more than the field's bits. -/
def rd (b : Body) (page : Nat) (f : Fld) (i : Nat := 0) (j : Nat := 0) : Nat :=
  Sp.get (f.reset i) b.regs (f.key page i j) % 2 ^ f.width

/-- The body with a register field set; the value is cut to the field's width. -/
def wr (b : Body) (page : Nat) (f : Fld) (v : Nat) (i : Nat := 0) (j : Nat := 0) : Body :=
  { b with regs := Sp.set (f.reset i) b.regs (f.key page i j) (v % 2 ^ f.width) }

/-- Whether a one-bit field is 1. -/
def on (b : Body) (page : Nat) (f : Fld) (i : Nat := 0) (j : Nat := 0) : Bool := b.rd page f i j == 1

/-- A counting register field: it adds and stays at its largest value. -/
def sat (b : Body) (page : Nat) (f : Fld) (n : Nat := 1) (i : Nat := 0) : Body :=
  b.wr page f (min (b.rd page f i + n) (2 ^ f.width - 1)) i

/-- A counting register field that wraps. -/
def inc (b : Body) (page : Nat) (f : Fld) (n : Nat := 1) (i : Nat := 0) : Body :=
  b.wr page f (b.rd page f i + n) i

/-- The key of counter `i` of a page's counter window. -/
def ctrKey (page i : Nat) : Nat := page * 0x1000 + i

/-- The 64-bit counter `i` of a page's window. -/
def ctr (b : Body) (page i : Nat) : Nat := Sp.get 0 b.ctrs (ctrKey page i)

/-- Counter `i` of a page plus `n`, modulo 2^64. -/
def count (b : Body) (page i : Nat) (n : Nat := 1) : Body :=
  { b with ctrs := Sp.set 0 b.ctrs (ctrKey page i) ((b.ctr page i + n) % 2 ^ 64) }

/-- Counter `i` of a page set to a value. -/
def setCtr (b : Body) (page i v : Nat) : Body := { b with ctrs := Sp.set 0 b.ctrs (ctrKey page i) (v % 2 ^ 64) }

/-- The next open value of `w` bits, and the state's counter moved past it. -/
def free (b : Body) (w : Nat) : Nat × Body := (Config.freeValue b.fresh w % 2 ^ w, { b with fresh := b.fresh + 1 })

/-- The present time marked under a key, and a mark taken away. -/
def mark (b : Body) (k : Nat) : Body := { b with marks := Sp.ins b.marks k b.clk }
def unmark (b : Body) (k : Nat) : Body := { b with marks := Sp.del b.marks k }

/-- Whether `n` ns have passed since the time marked under a key; they have where none is (DESIGN CHOICE, log entry 47). -/
def passed (b : Body) (k n : Nat) : Bool :=
  match b.marks.find? (fun e => e.1 == k) with | some e => decide (e.2 + n ≤ b.clk) | none => true

/-- Whether a time is marked under a key, and `n` ns have passed since. -/
def lasted (b : Body) (k n : Nat) : Bool :=
  match b.marks.find? (fun e => e.1 == k) with | some e => decide (e.2 + n ≤ b.clk) | none => false

/-- A time marked while a condition holds: where it has just come, and none where it does not hold. -/
def markWhile (b : Body) (k : Nat) (c : Bool) : Body :=
  if ¬ c then b.unmark k else if b.marks.any (fun e => e.1 == k) then b else b.mark k

/-- An effect at most once every `n` ns. -/
def paced (b : Body) (k n : Nat) (f : Body → Body) : Body := if b.passed k n then f (b.mark k) else b

/-- An output appended to what the engine has shown. -/
def emit (b : Body) (o : Out) : Body := { b with out := b.out ++ [o] }

/-- The time of day in whole nanoseconds since its epoch; the state keeps 2^-16 ns. -/
def ns (b : Body) : Nat := b.tod / 65536

/-- Seconds of the time of day. -/
def todSec (b : Body) : Nat := b.ns / 1000000000

/-- Nanoseconds within the second. -/
def todNs (b : Body) : Nat := b.ns % 1000000000

end Body

/-- A comparator entry of the Lamp (R316): source, action, threshold and re-arm distance, valid and fixed. -/
def glowEnt (src act thr hyst : Nat) : Nat :=
  src + act * 2 ^ 12 + thr * 2 ^ 32 + hyst * 2 ^ 64 + 2 ^ 255 + 2 ^ 253

/-- The comparators that R290 fixes. -/
def glowFixed (n : Nat) : Nat :=
  if n < 8 then glowEnt (8 + n) 8 1 0
  else if n < 16 then glowEnt (n - 8) 9 1024 0
  else if n = 16 then glowEnt 0x40 10 840 24
  else if n = 17 then glowEnt 0x40 11 920 0
  else 0

/-- The value that an entry of a table reads as when nothing has written it, as the number its bytes spell: R231 profile 0,
the Scheduler's reset tree (R261, R262, R264, R265), and the fixed comparators (R290). -/
def tblReset (tid idx : Nat) : Nat :=
  if tid = Tbl.profile then
    if idx = 0 then
      (0xC0000000 + 4096) + 2 ^ 32 * 1024 + 2 ^ 64 * 65536 + 2 ^ 96 * 0xFFFFFFFF + 2 ^ 128 * 0xFFFFFFFF +
        2 ^ 160 * 0xFFFFFFFF + 2 ^ 192 * 0x1FFFFFF + 2 ^ 224 * 1024 + 2 ^ 240 * 2048
    else 0
  else if tid = Tbl.schPort then (if idx ≤ 528 then 0xFFFF else 0)
  else if tid = Tbl.schSvc then (if idx ≤ 528 then idx + 0x30010000 + 2 ^ 127 else 0)
  else if tid = Tbl.schSub then (if idx ≤ 528 then idx + 0x30010000 + 2 ^ 32 * 0xFFFF + 2 ^ 127 else 0)
  else if tid = Tbl.schQ then 0x3001 + 0xFFFF0000
  else if tid = Tbl.glow then glowFixed idx
  else 0

namespace Body

/-- The entry `idx` of table `tid` in force now. -/
def ent (b : Body) (tid idx : Nat) : Nat := Sp.get (tblReset tid idx) b.tbls (entKey tid idx)

/-- The body with an entry set. -/
def setEnt (b : Body) (tid idx v : Nat) : Body :=
  { b with tbls := Sp.set (tblReset tid idx) b.tbls (entKey tid idx) v }

/-- Values of a target held for older views are discarded, as an immediate write requires (R22). -/
def discardOld (b : Body) (t : Target) : Body :=
  { b with cairn := { b.cairn with old := b.cairn.old.filter fun o => o.tgt ≠ t } }

/-- The key of a Survey event (R471). -/
def svyKey (blk inst ev : Nat) : Nat := (blk * 1024 + inst) * 512 + ev

/-- An occurrence, or bytes, of a Survey event that no other counter holds. -/
def svyBump (b : Body) (blk inst ev n : Nat) : Body :=
  { b with svy := { b.svy with ev := Sp.set 0 b.svy.ev (svyKey blk inst ev) (Sp.get 0 b.svy.ev (svyKey blk inst ev) + n) } }

/-- Whether a table's entries are lines of the Vault (R135). -/
def vaultTbl (tid : Nat) : Bool :=
  tid == Tbl.exm || tid == Tbl.stash || tid == Tbl.trie || tid == Tbl.nh || tid == Tbl.ecmp || tid == Tbl.encap ||
  tid == Tbl.pol || tid == Tbl.root

/-- An entry written: its parity and its CAM copy are good again (R162, R123, R148). -/
def putEnt (b : Body) (tid idx v : Nat) : Body :=
  let b := b.setEnt tid idx v
  let b := if vaultTbl tid then b.svyBump 2 0 1 1 else b
  { b with pipe := { b.pipe with parBad := b.pipe.parBad.filter (· ≠ (tid, idx)),
                                 camFlip := Sp.del b.pipe.camFlip (entKey tid idx) } }

/-- The value that view `seq` reads where the store may hold an older one: the oldest value replaced by a later flip
(R17, R21). -/
def viewed (b : Body) (seq : Nat) (t : Target) (now : Nat) : Nat :=
  match b.cairn.old.find? (fun o => decide (seq < o.flip ∧ o.tgt = t)) with
  | some o => o.val
  | none => now

/-- An epoch-governed entry as view `seq` reads it. -/
def entV (b : Body) (seq tid idx : Nat) : Nat := b.viewed seq (.ent tid idx) (b.ent tid idx)

/-- An epoch-governed register field as view `seq` reads it (R17). -/
def rdV (b : Body) (seq page : Nat) (f : Fld) (i : Nat := 0) (j : Nat := 0) : Nat :=
  match b.cairn.old.find? (fun o => decide (seq < o.flip ∧ o.tgt = .reg (f.addr page i j))) with
  | some o => bitField o.val f.hi f.lo
  | none => b.rd page f i j

/-- The flip that a Gallery tags with (R16, R19). -/
def tagOf (b : Body) (g : Nat) : Nat := Sp.get 0 b.cairn.galTag g

/-- A number put in its place in a rising list; a number already there is not repeated. -/
def insertNat (x : Nat) : List Nat → List Nat
  | [] => [x]
  | y :: t => if x < y then x :: y :: t else if x = y then y :: t else y :: insertNat x t

/-- The indices of table `tid` at which any view may read something other than the reset entry, rising. -/
def entIdxs (b : Body) (tid : Nat) : List Nat :=
  let cur := (b.tbls.filter (fun e => e.1 / 2 ^ 40 == tid)).map (fun e => e.1 % 2 ^ 40)
  let old := b.cairn.old.filterMap (fun o => match o.tgt with
    | .ent t i => if t = tid ∧ ¬ cur.contains i then some i else none
    | _ => none)
  (old.eraseDups ++ cur).foldr insertNat []

end Body

/-! Bytes of memory: canonical lists of address and byte; an absent address reads as zero. -/

namespace Mem

/-- The byte at an address. -/
def get (m : List Host.Cell) (a : Nat) : Byte := Sp.get 0 m a

/-- The memory with a byte written. -/
def set (m : List Host.Cell) (a : Nat) (v : Byte) : List Host.Cell := Sp.set 0 m a v

/-- The memory with bytes written from an address on. -/
def write (m : List Host.Cell) (a : Nat) : List Byte → List Host.Cell
  | [] => m
  | v :: t => write (set m a v) (a + 1) t

/-- `n` bytes from an address on. -/
def read (m : List Host.Cell) (a n : Nat) : List Byte := (List.range n).map (fun i => get m (a + i))

/-- The canonical form: addresses strictly rising, no byte equal to what an absent address reads as. -/
def wf (m : List Host.Cell) : Bool := Sp.wf 0 m

end Mem

end Sys2Proof.Machine
end

