-- ==== Sys2Proof/Machine/Flags.lean ====
section
/-! DEFINITION. Events and faults: the event bits of a page and the ICU inputs they drive (R43, R446, R447, R449), the
fault bits and the reports they make (R457), FAULT_N (R465), and the lasting conditions of R447. -/

namespace Sys2Proof.Machine

/-- EVT_PEND bit `n`. -/
def evtPend (n : Nat) : Fld := { off := 0x20, hi := n, lo := n, acc := .w1c, rst := 0 }
/-- EVT_EN bit `n`. -/
def evtEn (n : Nat) : Fld := { off := 0x24, hi := n, lo := n, acc := .rw, rst := 0 }
/-- EVT_CLASS bit `n`. -/
def evtClass (n : Nat) : Fld := { off := 0x28, hi := n, lo := n, acc := .rw, rst := 0 }
/-- FLT_STAT bit `n`. -/
def fltStat (n : Nat) : Fld := { off := 0x40, hi := n, lo := n, acc := .w1c, rst := 0 }
/-- FLT_EN bit `n`; bits 29 to 31 reset to 1 (R42). -/
def fltEn (n : Nat) : Fld := { off := 0x44, hi := n, lo := n, acc := .rw, rst := if 29 ≤ n then 1 else 0 }
/-- FLT_SEV bit `n`. -/
def fltSev (n : Nat) : Fld := { off := 0x4C, hi := n, lo := n, acc := .rw, rst := 0 }

/-- FLT_LOCK_VIOL, FLT_ACCESS and FLT_REG_PARITY, common to all pages. -/
def FLT_LOCK_VIOL : Nat := 31
def FLT_ACCESS : Nat := 30
def FLT_REG_PARITY : Nat := 29

/-- The fault bits that a page of a kind defines. -/
def PK.fltBits (k : PK) : List Nat := k.flts ++ [29, 30, 31]

namespace Body

/-- The sources of a bank: 0 normal, 1 fast. -/
def icuSrcs (b : Body) (bank : Nat) : List (Nat × IcuSrc) := if bank = 0 then b.irq.normal else b.irq.fast

/-- What a source reads as at reset: an empty set, a minimum interval of 10 in the normal bank and 0 in the fast (R456). -/
def icuReset (bank : Nat) : IcuSrc := { minInt := if bank = 0 then 10 else 0 }

/-- Source `s` of a bank. -/
def icu (b : Body) (bank s : Nat) : IcuSrc := Sp.get (icuReset bank) (b.icuSrcs bank) s

/-- The body with source `s` of a bank set. -/
def setIcu (b : Body) (bank s : Nat) (x : IcuSrc) : Body :=
  if bank = 0 then { b with irq := { b.irq with normal := Sp.set (icuReset 0) b.irq.normal s x } }
  else { b with irq := { b.irq with fast := Sp.set (icuReset bank) b.irq.fast s x } }

/-- The input that a page drives into a bank (R446). -/
def icuInput (b : Body) (bank page : Nat) : Bool :=
  match kindAt page with
  | none => false
  | some k => k.evts.any fun n => b.on page (evtPend n) && b.on page (evtEn n) && b.rd page (evtClass n) == bank

/-- A new occurrence at a bank's input: the transitions of R449 on "newly set, or the input rises". -/
def icuEdge (b : Body) (bank page : Nat) : Body :=
  let s := page / 0x1000
  let x := b.icu bank s
  match x.st with
  | .idle => b.setIcu bank s { x with st := .pending, waiting := false }
  | .pending => b
  | .active => b.setIcu bank s { x with st := .activePending }
  | .activePending => b.sat (Pg.icu bank) R.ICU_COALESCE

/-- An occurrence of event `n` of a page (R43, R447): it sets the pending bit, or is coalesced and counted; a bit newly set
that feeds a bank's input moves the source there. -/
def fire (b : Body) (page n : Nat) : Body :=
  if b.on page (evtPend n) then b.sat page R.EVT_OVR
  else
    let b := b.wr page (evtPend n) 1
    if b.on page (evtEn n) then b.icuEdge (b.rd page (evtClass n)) page else b

/-- A lasting event that holds is set again in the clock after it is cleared, without a count (R447). -/
def fireLasting (b : Body) (page n : Nat) : Body :=
  if b.on page (evtPend n) then b else b.fire page n

/-- The class of fault bit `n` of a page: fatal where FLT_SEV is 1 (R458). -/
def fltFatal (b : Body) (page n : Nat) : Bool := b.on page (fltSev n)

/-- A report of fault `n` of a page put in the FMU's queue (R457). -/
def report (b : Body) (page n : Nat) (x : FltInfo) : Body :=
  { b with irq := { b.irq with reports := b.irq.reports ++
      [{ page := page, bit := n, fatal := b.fltFatal page n, info := x, at_ := b.clk, tod := b.tod,
         todValid := b.on Pg.lamp R.TOD_VALID }] } }

/-- Fault detector `n` of a page fires: its bit is set, and where it is enabled the fault or its repeat is reported. -/
def fault (b : Body) (page n : Nat) (x : FltInfo := {}) : Body :=
  let b := b.wr page (fltStat n) 1
  if b.on page (fltEn n) then b.report page n x else b

/-- Whether fault bit `n` of a page is an uncleared reported fault. -/
def uncleared (b : Body) (page n : Nat) : Bool := b.on page (fltStat n) && b.on page (fltEn n)

/-- Whether a page holds an uncleared reported fault. -/
def pageFaulty (b : Body) (page : Nat) : Bool :=
  match kindAt page with
  | none => false
  | some k => k.fltBits.any fun n => b.uncleared page n

/-- The pages on which some fault bit is set, rising. -/
def fltPages (b : Body) : List Nat :=
  (b.regs.filterMap (fun e =>
    let a := e.1 / 32
    if a % 0x1000 = 0x40 then some (pageOf a) else none)).eraseDups

/-- The pages that hold an uncleared reported fault (FMU_FAULT_PAGES). -/
def faultyPages (b : Body) : List Nat := b.fltPages.filter (fun p => b.pageFaulty p)

/-- FAULT_N as the engine's faults and the Lamp's hold drive it (R465); BOOT_FLT_HALT drives it whatever FLT_EN holds (R404,
R458). -/
def faultN (b : Body) : Bool :=
  !b.faultyPages.isEmpty || b.on Pg.fmu R.FMU_TRIP_HOLD || b.on Pg.boot (fltStat R.BOOT_FLT_HALT)

/-- The scope of a page (R459), as a number: Gallery, stack, far port, core and ring scopes, and every other page alone. -/
def scopeOf (page : Nat) : Nat :=
  let n := page / 0x1000
  if 0x100 ≤ n ∧ n < 0x900 then 0x10000 + (n / 0x100 - 1)
  else if 0xB00 ≤ n ∧ n < 0xC00 then 0x10100 + (n - 0xB00) / 0x40
  else if 0xC00 ≤ n ∧ n < 0xD00 then 0x10200 + (n - 0xC00) / 0x80
  else if 0xD00 ≤ n ∧ n < 0xD80 then 0x10300 + (n - 0xD00) / 4
  else if 0xE10 ≤ n ∧ n < 0xF00 then 0x10400 + (n - 0xE10)
  else n

/-- Whether a scope holds an uncleared reported fault (R460). -/
def scopeOpen (b : Body) (scope : Nat) : Bool := b.faultyPages.any fun p => scopeOf p == scope

/-- The records of scopes that hold no uncleared fault any more are closed (R460). -/
def closeScopes (b : Body) : Body :=
  { b with irq := { b.irq with opened := b.irq.opened.filter fun e => b.scopeOpen e.1 } }

/-- Whether the condition of a lasting event of a page holds (R447): unread log entries (R34) and records (R463), Dripstone
occupancy (R152), junction temperature (R311), HBM temperature (R331). -/
def lasting (b : Body) (page n : Nat) : Bool :=
  if page = Pg.governor ∧ n = R.GOV_EVT_HIGH then
    decide (3072 ≤ wrapSub 32 (b.rd page R.GOV_LOG_WR) (b.rd page R.GOV_LOG_RD))
  else if page = Pg.fmu ∧ n = R.FMU_EVT_HIGH then
    decide (768 ≤ wrapSub 32 (b.rd page R.FMU_REC_WR) (b.rd page R.FMU_REC_RD))
  else if page = Pg.ds ∧ n = R.DS_EVT_HIGH then
    decide (b.rd page R.DS_HIGH_THR ≤
      ((b.entIdxs Tbl.ds).filter (fun i => bitOn (b.ent Tbl.ds i) 255)).length)
  else if page = Pg.lamp ∧ n = R.TH_EVT_HOT then
    decide ((b.rd page R.TH_HOT * 8 : Nat) ≤ signed 16 (b.rd page R.TH_JMAX))
  else (List.range 4).any fun s => page == Pg.hbm s 0 && n == R.HBM_EVT_HOT && b.on Pg.lamp R.TEMP_OK (16 + s) &&
    decide (760 < signed 16 (b.rd Pg.lamp R.TEMP (16 + s)))

/-- A lasting event set where its condition holds. -/
def holdEvent (b : Body) (page n : Nat) : Body := if b.lasting page n then b.fireLasting page n else b

/-! The end of an assembly (R52). -/

/-- A partial entry discarded: counted in TBL_AP_DROPS for an aperture, FLT_ACCESS in its page for a page window. -/
def asmDrop (b : Body) (win master : Nat) : Body :=
  if 0x1000000 ≤ win then b.sat Pg.aperture R.TBL_AP_DROPS 1 ((win - 0x1000000) / 0x400000)
  else b.fault win FLT_ACCESS { access := 2, space := 1, addr := win, master := master }

/-- The assembly in a window, if any, ends without its entry. -/
def asmEnd (b : Body) (win : Nat) : Body :=
  match b.win.asm.find? (fun a => a.win == win) with
  | none => b
  | some a => ({ b with win := { b.win with asm := b.win.asm.filter fun a => a.win != win } }).asmDrop win a.owner

/-- Every assembly and snapshot of a master ends. -/
def asmEndOf (b : Body) (m : Nat) : Body :=
  let b := ((b.win.asm.filter fun a => a.owner == m).map (·.win)).foldl (fun b w => b.asmEnd w) b
  { b with win := { b.win with snaps := b.win.snaps.filter fun s => s.reader != m } }

/-! The conservation ledgers (R273, R276). -/

/-- Items that enter ledger `l`. -/
def ledIn (b : Body) (l n : Nat) : Body :=
  { b with rim := { b.rim with ins := Sp.set 0 b.rim.ins l ((Sp.get 0 b.rim.ins l + n) % 2 ^ 64) } }

/-- Items that leave ledger `l`. -/
def ledOut (b : Body) (l n : Nat) : Body :=
  { b with rim := { b.rim with outs := Sp.set 0 b.rim.outs l ((Sp.get 0 b.rim.outs l + n) % 2 ^ 64) } }

/-- Items of ledger `l` booked as lost to error: they leave the ledger and are added to RIM_LOST
(R277, R284). -/
def lose (b : Body) (l n : Nat) : Body :=
  let b := b.ledOut l n
  ({ b with rim := { b.rim with lost := Sp.set 0 b.rim.lost l ((Sp.get 0 b.rim.lost l + n) % 2 ^ 64) } }).fire
    Pg.rim R.RIM_EVT_LOST

/-- Whether the second copy of an amount whose record is destroyed can be read; where it cannot, which is open, the amount booked is 0
(R277, log entry 45). -/
def mirrored (b : Body) : Bool × Body :=
  let (v, b) := b.free 1
  (v == 0, b)

/-- The ledger numbers of R276. -/
def ledEntrance (g : Nat) : Nat := g
def ledPipe (g : Nat) : Nat := 8 + g
def ledEgress (g : Nat) : Nat := 16 + g
def ledCells : Nat := 24
def ledQueue : Nat := 25
def ledSump : Nat := 26
def ledFar : Nat := 27
def ledPool (n : Nat) : Nat := 28 + n
def ledCredit (g : Nat) : Nat := 44 + g
def ledTokens : Nat := 52
def ledStatPkts : Nat := 53
def ledStatBytes : Nat := 54

end Body

end Sys2Proof.Machine
end

