-- ==== Sys2Proof/Machine/Gov.lean ====
section
/-! DEFINITION. The Governor: its modes, heartbeat and stall (R26 to R32), the decision log (R33, R34), and the one operation
by which a loop acts. -/

namespace Sys2Proof.Machine

/-! Loop numbers (R26) and reason codes (R33). -/
def LOOP_POWER : Nat := 0
def LOOP_BUFFER : Nat := 1
def LOOP_REFRESH : Nat := 2
def LOOP_RETRAIN : Nat := 3
def LOOP_MIGRATE : Nat := 4
def LOOP_THERMAL : Nat := 5
def LOAD_LOW : Nat := 1
def LOAD_HIGH : Nat := 2
def RSN_TEMP : Nat := 3
def RSN_ENVELOPE : Nat := 4
def RSN_WINDOW : Nat := 5
def RSN_ERROR_RATE : Nat := 6
def RSN_OCCUPANCY : Nat := 7
def RSN_RESUME : Nat := 8

namespace Body

/-- The number of log entries not yet read. -/
def logUnread (b : Body) : Nat := wrapSub 32 (b.rd Pg.governor R.GOV_LOG_WR) (b.rd Pg.governor R.GOV_LOG_RD)

/-- Whether the log holds at least `n` unread entries. -/
def logAtLeast (b : Body) (n : Nat) : Bool := decide (n ≤ b.logUnread)

/-- The log with an entry at the position of its sequence number. -/
def logPut (b : Body) (e : LogEntry) : Body :=
  { b with gov := { b.gov with log := Sp.ins b.gov.log (e.seq % 4096) e } }

/-- An entry written to the decision log (R33, R34). -/
def logWrite (b : Body) (loop inst : Nat) (adv : Bool) (action reason input bound old new : Nat) : Body :=
  let n := b.rd Pg.governor R.GOV_LOG_WR
  let b := if b.logAtLeast 4096 then
      (b.sat Pg.governor R.GOV_LOG_LOST).fire Pg.governor R.GOV_EVT_LOST else b
  let e : LogEntry := { sec := lowBits 32 b.todSec, ns := b.todNs, seq := n, inst := inst, loop := loop, adv := adv,
                        action := action, reason := reason, input := lowBits 32 input, bound := lowBits 32 bound,
                        old := lowBits 32 old, new := lowBits 32 new }
  let b := ((b.logPut e).wr Pg.governor R.GOV_LOG_WR (n + 1)).wr Pg.governor R.GOV_LAST_REASON reason loop
  if b.logAtLeast 3072 then b.fireLasting Pg.governor R.GOV_EVT_HIGH else b

/-- Whether a loop is in AUTO (R27). -/
def loopAuto (b : Body) (loop : Nat) : Bool := b.rd Pg.governor R.GOV_MODE_EFF loop == 0

/-- A loop's action on an instance: taken and logged in AUTO, where GOV_MIN_INTERVAL has passed since its last one; logged
as advisory in HANDS_OFF where that is asked for (R27, R33, R36). `inst` tells kinds of instances apart above its low 8 bits, which
LOG_INST shows. GOV_MIN_INTERVAL lies between two actions, so it holds back no advisory entry (DESIGN CHOICE, log entry 38). -/
def govAct (b : Body) (loop inst action reason input bound old new : Nat) (apply : Body → Body) : Body :=
  if b.loopAuto loop then
    let key := loop * 2 ^ 24 + inst
    let soon := match b.gov.lastAct.find? (fun e => e.1 == key) with
      | some e => decide (b.clk < e.2 + b.rd Pg.governor R.GOV_MIN_INTERVAL loop * 1000)
      | none => false
    if soon then b
    else
      let b := apply b
      let b := { b with gov := { b.gov with lastAct := Sp.ins b.gov.lastAct key b.clk } }
      let b := b.inc Pg.governor R.GOV_ACT_CNT 1 loop
      if b.on Pg.governor R.GOV_LOG_EN loop then b.logWrite loop inst false action reason input bound old new else b
  else if b.on Pg.governor R.GOV_LOG_ADVISE loop ∧ b.on Pg.governor R.GOV_LOG_EN loop then
    b.logWrite loop inst true action reason input bound old new
  else b

/-- A write of GOV_HEARTBEAT (R32). -/
def govHeartbeat (b : Body) (master v : Nat) : Body :=
  if Master.isGovernor master then b.wr Pg.governor R.GOV_HEARTBEAT v
  else b.fire Pg.governor R.GOV_EVT_OWNER

/-- 10 ms without a heartbeat, or the event injected: every loop is in HANDS_OFF and the actuators freeze (R32). The first is noted
once until the Governor restarts; each injection has the whole effect. -/
def govStall (b : Body) (inj : Bool) : Body :=
  if b.gov.frozen ∧ ¬ inj then b
  else
    let b := { b with gov := { b.gov with frozen := true } }
    let b := (List.range 6).foldl (fun b n => b.wr Pg.governor R.GOV_MODE_EFF 1 n) b
    let (bit, b) := b.free 5
    (b.report Pg.governor bit { inj := inj }).fire Pg.governor R.GOV_EVT_STALL

/-- A loop's entry with reason RESUME (R33, R366), for the whole engine. The spec gives it no action, no input and no actuator: those
fields are open. It is no action that the loop would take: LOG_ADV is 0 and GOV_LOG_ADVISE is not asked, also where the loop goes on in
HANDS_OFF (DESIGN CHOICE, log entry 38). -/
def govResumeLog (b : Body) (loop : Nat) : Body :=
  if ¬ b.on Pg.governor R.GOV_LOG_EN loop then b
  else
    let (action, b) := b.free 7
    let (input, b) := b.free 32
    let (bound, b) := b.free 32
    let (old, b) := b.free 32
    let (new, b) := b.free 32
    b.logWrite loop 0xFF false action RSN_RESUME input bound old new

/-- The mode in force follows the one requested, unless an action runs or the loops are frozen (R30, R32). -/
def govModeTake (b : Body) (loop : Nat) : Body :=
  if b.gov.frozen ∨ b.on Pg.governor R.GOV_BUSY loop then b
  else b.wr Pg.governor R.GOV_MODE_EFF (b.rd Pg.governor R.GOV_MODE loop) loop

/-- A requested mode takes effect, and a change re-evaluates the loop, which logs RESUME (R30, R33). -/
def govModeApply (b : Body) (loop : Nat) : Body :=
  let c := b.govModeTake loop
  if c.rd Pg.governor R.GOV_MODE_EFF loop = b.rd Pg.governor R.GOV_MODE_EFF loop then c else c.govResumeLog loop

/-- A write of GOV_MODE (R27, R36). -/
def govModeWrite (b : Body) (loop mode : Nat) : Body :=
  if 6 ≤ loop then b
  else if 2 ≤ mode then b.fire Pg.governor R.GOV_EVT_BADMODE
  else (b.wr Pg.governor R.GOV_MODE mode loop).govModeApply loop

/-- The Governor restarted (R32, R366): it writes its heartbeat, the loops take the modes in GOV_MODE, and each logs RESUME. -/
def govRestart (b : Body) : Body :=
  let b := ({ b with gov := { b.gov with frozen := false } }).inc Pg.governor R.GOV_HEARTBEAT
  let b := (List.range 6).foldl (fun b n => b.govModeTake n) b
  (List.range 6).foldl (fun b n => b.govResumeLog n) b

/-! Actions that run on (R30): a Gallery's wake or step, a stack's pin-rate step, a link's recovery. -/

/-- GOV_BUSY of a loop as its running actions make it. -/
def govBusy (b : Body) (loop : Nat) : Body :=
  b.wr Pg.governor R.GOV_BUSY (b2n (b.gov.running.any fun e => e.1 == loop)) loop

/-- A loop's action on an instance that goes on after the command that began it, if it does. -/
def govBegin (b : Body) (loop inst : Nat) (runs : Bool) : Body :=
  if runs then ({ b with gov := { b.gov with running := (loop, inst) :: b.gov.running.filter (· ≠ (loop, inst)) } }).govBusy loop else b

/-- An instance at rest: an action on it that a loop began has completed. -/
def govEnd (b : Body) (loop inst : Nat) : Body :=
  if b.gov.running.contains (loop, inst) then
    ({ b with gov := { b.gov with running := b.gov.running.filter (· ≠ (loop, inst)) } }).govBusy loop
  else b

/-- A write of GOV_LOG_RD (R34). -/
def govLogRd (b : Body) (v : Nat) : Body :=
  if b.rd Pg.governor R.GOV_LOG_WR < v then b.fire Pg.governor R.GOV_EVT_BADRD
  else (b.wr Pg.governor R.GOV_LOG_RD v).holdEvent Pg.governor R.GOV_EVT_HIGH

/-- Whether a master's write to an actuator of a loop is refused: the host's, while the loop is in AUTO (R29). -/
def ownerRefuses (b : Body) (loop master : Nat) : Bool := master == Master.host && b.loopAuto loop

end Body

end Sys2Proof.Machine
end

