-- ==== Sys2Proof/Machine/Pools.lean ====
section
/-! DEFINITION. The Pool manager (R223 to R228, R234). -/

namespace Sys2Proof.Machine

/-- What a request to the Pool manager gives (R224). -/
inductive PoolRes where
  | ok (pool buf : Nat)
  | empty (pool : Nat)
  | noPool
deriving DecidableEq, Repr

namespace Body

/-- A register field of pool `n`. -/
def prd' (b : Body) (n : Nat) (f : Fld) : Nat := b.rd (Pg.pool n) f

/-- The allocated buffers of a pool, rising, and those out of service. -/
def allocOf (b : Body) (n : Nat) : List Nat := Sp.get [] b.buf.alloc n
def deadOf (b : Body) (n : Nat) : List Nat := Sp.get [] b.buf.dead n
def setAlloc (b : Body) (n : Nat) (l : List Nat) : Body := { b with buf := { b.buf with alloc := Sp.set [] b.buf.alloc n l } }

/-- Whether a pool is enabled. -/
def poolOn (b : Body) (n : Nat) : Bool := b.on (Pg.pool n) R.PG_EN

/-- The size of a pool's buffers in bytes, and its base address. -/
def poolSize (b : Body) (n : Nat) : Nat := b.prd' n R.POOL_SIZE * 64
def poolBase (b : Body) (n : Nat) : Nat := b.prd' n R.POOL_BASE_LO + 2 ^ 32 * b.prd' n R.POOL_BASE_HI

/-- The address of a buffer (R223). -/
def bufAddr (b : Body) (n i : Nat) : Nat := b.poolBase n + i * b.poolSize n

/-- The back-pressure level of a pool (R226). -/
def poolLevel (b : Body) (n : Nat) : Nat :=
  let f := b.prd' n R.POOL_FREE_CNT
  if b.prd' n R.POOL_WARN < f then 0 else if b.prd' n R.POOL_CRIT < f then 1 else 2

/-- The enabled pool that serves a request of owner `o` in memory `mem` for `size` bytes (R224). -/
def poolFor (b : Body) (o mem size : Nat) : Option Nat :=
  ((List.range 16).filter fun n =>
    b.poolOn n && b.prd' n R.POOL_MEM == mem && bitOn (b.prd' n R.POOL_OWNERS) o && decide (size ≤ b.poolSize n)).foldl
    (fun x n => match x with
      | none => some n
      | some m => if b.poolSize n < b.poolSize m then some n else x) none

/-- The `k`-th index that is not in a rising list. -/
def nthFree : Nat → List Nat → Nat
  | k, [] => k
  | k, x :: t => if x ≤ k then nthFree (k + 1) t else k

/-- POOL_MIN after a change of the free buffers of a pool from `was` to `now`: the lowest since the last read, which began at `was`
(R234). -/
def minNote (b : Body) (n was now : Nat) : Body :=
  let old := if b.buf.minClr.contains n then was else b.prd' n R.POOL_MIN
  { b.wr (Pg.pool n) R.POOL_MIN (min now (min was old)) with buf := { b.buf with minClr := b.buf.minClr.erase n } }

/-- A read of POOL_MIN clears it (R7); it starts again from the free buffers of then (log entry 44). -/
def minClear (b : Body) (n : Nat) : Body :=
  { b.wr (Pg.pool n) R.POOL_MIN 0 with buf := { b.buf with minClr := if b.poolOn n then insertNat n b.buf.minClr else b.buf.minClr } }

/-- One of the free buffers of a pool is taken; the spec does not say which (see the assumption log). -/
def poolTake (b : Body) (n : Nat) : Nat × Body :=
  let free := b.prd' n R.POOL_FREE_CNT
  let (k, b) := b.free 28
  let used := (b.deadOf n).foldl (fun l x => insertNat x l) (b.allocOf n)
  let i := nthFree (k % free) used
  let b := b.setAlloc n (insertNat i (b.allocOf n))
  let left := free - 1
  let b := (b.wr (Pg.pool n) R.POOL_FREE_CNT left).minNote n free left
  let b := if left = b.prd' n R.POOL_WARN then b.fire (Pg.pool n) R.POOL_EVT_WARN else b
  let b := if left = b.prd' n R.POOL_CRIT then b.fire (Pg.pool n) R.POOL_EVT_CRIT else b
  let b := if left = 0 then b.fire (Pg.pool n) R.POOL_EVT_EMPTY else b
  let b := if b.buf.bitArm.contains n then
      { b with buf := { b.buf with bitArm := b.buf.bitArm.erase n, bitBad := (n, i) :: b.buf.bitBad } } else b
  (i, b.ledIn (ledPool n) 1)

/-- A request to the Pool manager (R224). -/
def poolReq (b : Body) (o mem size : Nat) : Body × PoolRes :=
  match b.poolFor o mem size with
  | none => (b, .noPool)
  | some n =>
    if b.prd' n R.POOL_FREE_CNT = 0 then (b.sat (Pg.pool n) R.POOL_FAIL, .empty n)
    else
      let (i, b) := b.poolTake n
      let b := if o = 2 then b.ledIn ledSump 1 else if o = 3 then b.ledIn ledFar 1 else b
      (b, .ok n i)

/-- A buffer freed by a master (R227). -/
def poolFree (b : Body) (n i master : Nat) : Body :=
  let pg := Pg.pool n
  if b.prd' n R.POOL_COUNT ≤ i then b.sat pg R.POOL_BADIDX
  else if b.buf.bitBad.contains (n, i) then
    let b := { b with buf := { b.buf with bitBad := b.buf.bitBad.erase (n, i), dead := Sp.set [] b.buf.dead n (insertNat i (b.deadOf n)) } }
    let b := b.setAlloc n ((b.allocOf n).erase i)
    (((b.sat pg R.POOL_LOST).lose (ledPool n) 1).fault pg R.POOL_FLT_STATE_ECC { space := 10, addr := i, master := master, detail := n, inj := true })
  else if ¬ (b.allocOf n).contains i then
    (b.sat pg R.POOL_DFREE).fault pg R.POOL_FLT_DFREE { space := 10, addr := i, master := master, detail := n }
  else
    let was := b.prd' n R.POOL_FREE_CNT
    (((b.setAlloc n ((b.allocOf n).erase i)).wr pg R.POOL_FREE_CNT (was + 1)).minNote n was (was + 1)).ledOut (ledPool n) 1

/-- A span freed by the engine itself: it leaves its span ledger too. -/
def spanFree (b : Body) (far : Bool) (n i : Nat) : Body :=
  (b.poolFree n i 0x3FF).ledOut (if far then ledFar else ledSump) 1

/-- The range of a pool inside its memory (R228, R322, R346). -/
def poolRangeOk (b : Body) (n : Nat) : Bool :=
  let lo := b.poolBase n
  let hi := lo + b.poolSize n * b.prd' n R.POOL_COUNT
  match b.prd' n R.POOL_MEM with
  | 0 => decide (hi ≤ 0x8000000)
  | 1 => decide (hi ≤ 0x1C00000000)
  | m =>
    let pg := Pg.far (m - 2) 0
    let base := b.rd pg R.FAR_DATA_BASE * 2 ^ 30
    b.rd pg R.FAR_STATE == 3 && decide (base ≤ lo ∧ hi ≤ base + b.rd pg R.FAR_DATA_SIZE * 2 ^ 30)

/-- The checks of R228 on a write of PG_EN = 1. -/
def poolValid (b : Body) (n : Nat) : Bool :=
  let lo := b.poolBase n
  let hi := lo + b.poolSize n * b.prd' n R.POOL_COUNT
  let own := b.prd' n R.POOL_OWNERS
  let mem := b.prd' n R.POOL_MEM
  b.prd' n R.POOL_SIZE != 0 && b.prd' n R.POOL_COUNT != 0 && lo % 4096 == 0 && b.poolRangeOk n &&
  ((List.range 16).all fun m => m == n || !b.poolOn m || b.prd' m R.POOL_MEM != mem ||
    decide (hi ≤ b.poolBase m) || decide (b.poolBase m + b.poolSize m * b.prd' m R.POOL_COUNT ≤ lo)) &&
  decide (b.prd' n R.POOL_CRIT ≤ b.prd' n R.POOL_WARN ∧ b.prd' n R.POOL_WARN < b.prd' n R.POOL_COUNT) &&
  (!bitOn own 2 || (b.poolSize n == 4096 && mem == 1)) && (!bitOn own 3 || (b.poolSize n == 1048576 && decide (2 ≤ mem)))

/-- A write of PG_EN = 1 on a pool page (R228): every buffer is free. -/
def poolEnable (b : Body) (n : Nat) : Body :=
  if b.poolOn n then b
  else if ¬ b.poolValid n then b.fire (Pg.pool n) R.POOL_EVT_BADCFG
  else
    let cnt := b.prd' n R.POOL_COUNT
    let b := (b.setAlloc n []).wr (Pg.pool n) R.PG_EN 1
    let b := { b with buf := { b.buf with dead := Sp.del b.buf.dead n, bitBad := b.buf.bitBad.filter (fun x => x.1 != n),
                                          minClr := b.buf.minClr.erase n } }
    ((b.wr (Pg.pool n) R.POOL_FREE_CNT cnt).wr (Pg.pool n) R.POOL_MIN cnt).wr (Pg.pool n) R.POOL_LOST 0

/-- A write of PG_EN = 0 on a pool page (R228). -/
def poolDisable (b : Body) (n : Nat) : Body :=
  if ¬ b.poolOn n then b
  else if b.allocOf n ≠ [] then b.fire (Pg.pool n) R.POOL_EVT_BADCFG
  else b.wr (Pg.pool n) R.PG_EN 0

/-- POOL_ALLOC_GO on the page of pool `n` (R225): the request of owner bit 5 is served at once. -/
def poolAllocGo (b : Body) (n : Nat) : Body :=
  let pg := Pg.pool n
  match b.poolReq 5 (b.prd' n R.POOL_MEM) (b.poolSize n) with
  | (b, .ok m i) => ((b.wr pg R.POOL_ALLOC_RC 0).wr pg R.POOL_ALLOC_IDX i).wr pg R.POOL_ALLOC_POOL m
  | (b, .empty _) => b.wr pg R.POOL_ALLOC_RC 1
  | (b, .noPool) => b.wr pg R.POOL_ALLOC_RC 2

end Body

end Sys2Proof.Machine
end

