-- ==== Sys2Proof/Machine/Sump.lean ====
section
/-! DEFINITION. The Sump as its ports reach it: the address map (R322, R325), line errors (R333, R334, R336), the queues of a
pseudo-channel (R326 to R329) and the regions of the store. Every access takes effect in arrival order when it is made, as
R328 lets every requester see it; the request itself waits in its pseudo-channel's queue until it is served. -/

namespace Sys2Proof.Machine

namespace Sump

def sideBase : Nat := 0x1C00000000
def statBase : Nat := 0x1CE0000000
def echoBase : Nat := 0x20E0000000
def scratchBase : Nat := 0x22E0000000
def scratchEnd : Nat := 0x23E0000000

/-- The address of the side record of the span at a packet-data address (R322). -/
def sideAddr (a : Nat) : Nat := sideBase + 128 * (a / 4096)
/-- The address of a counter pair. -/
def pairAddr (k : Nat) : Nat := statBase + 16 * k

end Sump

/-- Where a Sump line is: stack, pseudo-channel, bank (stack ID, bank group, bank) and row (R325). -/
structure HbmLoc where
  stack : Nat
  pc : Nat
  bank : Nat
  row : Nat
deriving DecidableEq, Repr

namespace Body

/-- The eleven parities that SUMP_MAP takes of a row quotient (R325). -/
def sumpHash (b : Body) (q : Nat) : Nat :=
  (List.range 11).foldl (fun v i => v + (popcount (q &&& b.rd Pg.sump R.SUMP_MAP i) 17 % 2) * 2 ^ i) 0

/-- The location of the line of a Sump address (R325). -/
def hbmLoc (b : Body) (addr : Nat) : HbmLoc :=
  let a := addr / 64
  let lo := a % 0x8000
  let q := a / 0x8000
  let f := b.sumpHash q
  let ch := (lo / 4 % 128) ^^^ (f % 128)
  let bg := (lo / 2 ^ 9 % 4) ^^^ (f / 128 % 4)
  let ba := (lo / 2 ^ 11 % 4) ^^^ (f / 512 % 4)
  { stack := ch % 4, pc := ch / 4, bank := q / 24576 * 16 + bg * 4 + ba, row := q % 24576 }

/-- The key of a pseudo-channel, and of one of its banks. -/
def pcKey (s pc : Nat) : Nat := 32 * s + pc
def bankKey (l : HbmLoc) : Nat := 64 * pcKey l.stack l.pc + l.bank

/-- Counter `i` of a stack's page 3. -/
def hbmCount (b : Body) (s i : Nat) (n : Nat := 1) : Body := b.count (Pg.hbm s 3) i n

/-- The requests in a queue of a pseudo-channel, which holds 64; the others wait at their ports (R327). -/
def hbmWaiting (b : Body) (s pc : Nat) (wr : Bool) : List HbmReq :=
  (b.hbm.queue.filter fun r => r.stack == s && r.pc == pc && r.wr == wr).take 64

/-- The span reads of the drain port that are pending on a stack: the spans with a line still to be read there (R329). -/
def hbmDrainReads (b : Body) (s : Nat) : Nat :=
  (((b.hbm.queue.filter fun r => r.stack == s && r.port == 1 && !r.wr && decide (r.addr < Sump.sideBase)).map (·.addr / 4096)).eraseDups).length

/-- Write drain entered or left as the write queue's length stands (R327); in DEADLINE it is entered at 64 entries (R329). -/
def hbmDrainUpdate (b : Body) (s pc : Nat) : Body :=
  let n := (b.hbmWaiting s pc true).length
  let k := pcKey s pc
  if b.hbm.drain.contains k then
    if n ≤ b.rd (Pg.hbm s 1) R.HBM_WR_LO then { b with hbm := { b.hbm with drain := b.hbm.drain.erase k } } else b
  else if (if b.on (Pg.hbm s 1) R.HBM_QOS_MODE then 64 else b.rd (Pg.hbm s 1) R.HBM_WR_HI) ≤ n then
    ({ b with hbm := { b.hbm with drain := insertNat k b.hbm.drain } }).hbmCount s 7
  else b

/-- Panic entered or left as the drain port's reads stand; only in NORMAL (R329). -/
def hbmPanicUpdate (b : Body) (s : Nat) : Body :=
  let n := b.hbmDrainReads s
  if b.hbm.panic.contains s then
    if n ≤ b.rd (Pg.hbm s 1) R.HBM_PANIC_OFF ∨ b.on (Pg.hbm s 1) R.HBM_QOS_MODE then
      { b with hbm := { b.hbm with panic := b.hbm.panic.erase s } } else b
  else if b.rd (Pg.hbm s 1) R.HBM_PANIC_ON ≤ n ∧ ¬ b.on (Pg.hbm s 1) R.HBM_QOS_MODE then
    (({ b with hbm := { b.hbm with panic := insertNat s b.hbm.panic } }).hbmCount s 6).fire (Pg.hbm s 1) R.HBM_EVT_PANIC
  else b

/-- A request for a line put in its pseudo-channel's queue; a second write to a line replaces the queued one, and discards a scrubber's
correction that waits (R328). -/
def hbmPut (b : Body) (port : Nat) (wr : Bool) (addr : Nat) : Body :=
  let a := addr / 64 * 64
  let l := b.hbmLoc a
  let b := if wr ∧ port ≠ 6 then { b with hbm := { b.hbm with queue := b.hbm.queue.filter fun r => !(r.wr && r.addr == a && r.port == 6) } } else b
  if b.hbm.queue.any (fun r => r.wr && r.addr == a) then b
  else
    let t := b.rd (Pg.hbm l.stack 1) R.HBM_TGT port
    let r : HbmReq := { stack := l.stack, pc := l.pc, bank := l.bank, row := l.row, port := port, wr := wr, addr := a,
                        since := b.clk, due := b.clk + t, tgt := t }
    (({ b with hbm := { b.hbm with queue := b.hbm.queue ++ [r] } }).hbmDrainUpdate l.stack l.pc).hbmPanicUpdate l.stack

/-- The line addresses that `n` bytes from an address touch. -/
def linesOf (addr n : Nat) : List Nat :=
  if n = 0 then [] else (List.range ((addr + n - 1) / 64 - addr / 64 + 1)).map fun i => (addr / 64 + i) * 64

/-- A line written by a port: it is coded for its own address (R333), and takes what an armed injection makes of it (R352). -/
def lineWritten (b : Body) (port a : Nat) : Body :=
  let b := { b with hbm := { b.hbm with coded := Sp.del b.hbm.coded a } }
  let s := (b.hbmLoc a).stack
  let k := 8 * s + port
  let h := b.hbm
  let side := decide (Sump.sideBase ≤ a ∧ a < Sump.statBase)
  match h.arm.find? (fun e => e.1 == k) with
  | some (_, 0) => { b with hbm := { h with arm := Sp.del h.arm k, ce := insertNat a h.ce, ue := h.ue.erase a } }
  | some (_, 1) => { b with hbm := { h with arm := Sp.del h.arm k, ue := insertNat a h.ue, ce := h.ce.erase a } }
  | some (_, 2) =>
    if side ∧ a % 128 = 64 then
      let sq := leNat (Mem.read b.mem.sump (a + 20) 4)
      { b with hbm := { h with arm := Sp.del h.arm k, ue := h.ue.erase a, ce := h.ce.erase a },
               mem := { b.mem with sump := Mem.write b.mem.sump (a + 20) (leBytes 4 (sq ^^^ 0xFFFFFFFF)) } }
    else { b with hbm := { h with ue := h.ue.erase a, ce := h.ce.erase a } }
  | _ => { b with hbm := { h with ue := h.ue.erase a, ce := h.ce.erase a } }

/-- Bytes written to the Sump through a port. The reserved region ignores writes (R322). -/
def sumpWrite (b : Body) (port addr : Nat) (l : List Byte) : Body :=
  if Sump.scratchEnd ≤ addr then b
  else
    let b := { b with mem := { b.mem with sump := Mem.write b.mem.sump addr l } }
    (linesOf addr l.length).foldl (fun b a => (b.hbmPut port true a).lineWritten port a) b

/-- Whether a line reads uncorrectable: it is so, or the place that its address now names holds another line's data (R333). -/
def lineBad (b : Body) (a : Nat) : Bool := b.hbm.ue.contains a || b.hbm.coded.any fun e => e.1 == a

/-- The lines of the Sump that hold anything, or an error. -/
def sumpLines (b : Body) : List Nat := ((b.mem.sump.map fun (c : Host.Cell) => c.1 / 64 * 64) ++ b.hbm.ce ++ b.hbm.ue ++ b.hbm.coded.map Prod.fst).eraseDups

/-- A change of SUMP_MAP from its state in `was`: the data stays where it is in the stacks, so each line is found at the address that now names
its place, coded for the address that it was written at (R325, R333). -/
def sumpRemap (was b : Body) : Body :=
  let dst := fun (a : Nat) => let q := a / 64 / 0x8000; a ^^^ ((was.sumpHash q ^^^ b.sumpHash q) * 256)
  let moved := (was.sumpLines.filter fun a => dst a != a)
  if moved = [] then b
  else
    let h := b.hbm
    let code := was.sumpLines.filterMap fun a =>
      let home := match h.coded.find? (fun e => e.1 == a) with | some e => e.2 | none => a
      if dst a = home then none else some (dst a, home)
    { b with
        mem := { b.mem with sump := b.mem.sump.foldl (fun m (c : Host.Cell) => Mem.set m (dst (c.1 / 64 * 64) + c.1 % 64) c.2) [] },
        hbm := { h with ce := (h.ce.map dst).foldr insertNat [], ue := (h.ue.map dst).foldr insertNat [],
                        coded := code.foldl (fun m e => Sp.ins m e.1 e.2) [] } }

/-- A corrected or uncorrectable error found on the read of a line (R333). -/
def lineError (b : Body) (port a : Nat) : Body :=
  let s := (b.hbmLoc a).stack
  let pg := Pg.hbm s 3
  if b.lineBad a then
    let b := (b.hbmCount s 1).fire pg R.HBM_EVT_UE
    let b := ((b.wr pg R.HBM_UE_ADDR_LO a).wr pg R.HBM_UE_ADDR_HI (a / 2 ^ 32)).wr pg R.HBM_UE_PORT port
    b.fault pg R.HBM_FLT_UE { access := 3, space := 2, addr := a, detail := port, inj := true }
  else if b.hbm.ce.contains a then
    let k := pcKey s (b.hbmLoc a).pc
    let l := (Sp.get [] b.hbm.pcErr k).filter (fun t => decide (b.clk < t + 1000000000)) ++ [b.clk]
    (({ b with hbm := { b.hbm with pcErr := Sp.set [] b.hbm.pcErr k l } }).hbmCount s 0).fire pg R.HBM_EVT_CE
  else b

/-- Bytes read from the Sump through a port, and whether a line of them is uncorrectable. -/
def sumpRead (b : Body) (port addr n : Nat) : Body × List Byte × Bool :=
  let ls := linesOf addr n
  let bad := ls.any b.lineBad
  let b := ls.foldl (fun b a => (b.hbmPut port false a).lineError port a) b
  (b, if Sump.scratchEnd ≤ addr then List.replicate n 0 else Mem.read b.mem.sump addr n, bad)

/-- The pair `k` in the Sump: packets and bytes. -/
def pairMem (b : Body) (k : Nat) : Nat × Nat :=
  (leNat (Mem.read b.mem.sump (Sump.pairAddr k) 8), leNat (Mem.read b.mem.sump (Sump.pairAddr k + 8) 8))

/-- An atomic addition to a pair (R326); on an uncorrectable line the pair is written with the delta alone (R334). -/
def pairAdd (b : Body) (k pkts bytes : Nat) : Body :=
  let a := Sump.pairAddr k
  let line := a / 64 * 64
  let bad := b.lineBad line
  let old := if bad then (0, 0) else b.pairMem k
  let b := b.lineError 3 line
  let b := if bad then b.hbmCount (b.hbmLoc line).stack 5 else b
  b.sumpWrite 3 a (leBytes 8 (old.1 + pkts) ++ leBytes 8 (old.2 + bytes))

end Body

end Sys2Proof.Machine
end

