-- ==== Sys2Proof/Machine/Echo.lean ====
section
/-! DEFINITION. The Echo capture of packets into the live ring (R483 to R486). -/

namespace Sys2Proof.Machine

/-! Echo counters (R489). -/
def ECHO_RECORDS : Nat := 0
def ECHO_DROP : Nat := 1
def ECHO_ARCH_BLOCKS : Nat := 2
def ECHO_ARCH_SKIP : Nat := 3
def ECHO_ARCH_FAIL : Nat := 4
def ECHO_UE_CNT : Nat := 5

namespace Body

/-- A time of day as records carry it: nanoseconds in [31:0], seconds above (R483). -/
def timeBytes (t : Nat) : List Byte :=
  leBytes 10 (t / 65536 % 1000000000 + 2 ^ 32 * (t / 65536 / 1000000000))

/-- The Echo entry of a port. -/
def echoEnt (b : Body) (port : Nat) : Nat := b.ent Tbl.echoPort port
def echoMirIn (e : Nat) : Bool := bitOn e 31
def echoMirOut (e : Nat) : Bool := bitOn e 30
def echoN (e : Nat) : Nat := e % 2 ^ 24

/-- Whether the sampler of a port takes the packet (R484). A random draw comes from a shift register of which the spec gives
neither the taps nor the comparison: it is an open value. -/
def echoSample (b : Body) (port : Nat) : Body × Bool :=
  let n := echoN (b.echoEnt port)
  if n = 0 then (b, false)
  else if b.on (Pg.echo 0) R.ECHO_SAMPLE_RAND then
    ({ b with echo := { b.echo with drawn := b.echo.drawn + 1 } },
      Config.echoDraw (max 1 (b.rd (Pg.echo 0) R.ECHO_SEED)) b.echo.drawn n)
  else
    let k := Sp.get 0 b.echo.cnt port + 1
    if n ≤ k then ({ b with echo := { b.echo with cnt := Sp.del b.echo.cnt port } }, true)
    else ({ b with echo := { b.echo with cnt := Sp.set 0 b.echo.cnt port k } }, false)

/-- The bucket brought up to now (R485). -/
def echoAccrue (b : Body) : Body :=
  let t := min 1024000 (b.echo.tokens + (b.clk - b.echo.last) * b.rd (Pg.echo 0) R.ECHO_RATE)
  { b with echo := { b.echo with tokens := t, last := b.clk } }

/-- A record written to the live ring, or dropped beyond the rate (R485, R486). `body` is bytes 4 to 255. -/
def echoRecord (b : Body) (body : List Byte) : Body :=
  let b := b.echoAccrue
  if b.echo.tokens < 1000 then
    let b := b.count (Pg.echo 0) ECHO_DROP
    b.fireLasting (Pg.echo 0) R.ECHO_EVT_DROP
  else
    let n := b.rd (Pg.echo 0) R.ECHO_WR
    let b := { b with echo := { b.echo with tokens := b.echo.tokens - 1000 } }
    let b := b.sumpWrite 4 (Sump.echoBase + 256 * (n % 2 ^ 25)) (leBytes 4 n ++ body)
    (b.wr (Pg.echo 0) R.ECHO_WR (n + 1)).count (Pg.echo 0) ECHO_RECORDS

/-- Bytes 4 to 255 of a record (R483). -/
def echoBody (ts port point trig colour len flags reason queue rule : Nat) (cap : List Byte) : List Byte :=
  let c := cap.take 224
  timeBytes ts ++ leBytes 2 (port * 64 + point * 32 + trig) ++ leBytes 2 (colour * 0x4000 + len % 0x4000) ++
  leBytes 1 flags ++ leBytes 1 reason ++ leBytes 4 queue ++ leBytes 2 c.length ++ leBytes 2 0 ++ leBytes 4 rule ++
  c ++ List.replicate (224 - c.length) 0

/-- The point-0 capture of a packet at stage 7 (R484): `bad` is its verdict, `adm` whether it was admitted. -/
def echoIn (b : Body) (p : Pkt) (bad adm : Bool) : Body :=
  if ¬ b.on (Pg.echo 0) R.ECHO_EN ∨ p.copy ∨ p.echoed then b
  else
    let (b, smp) := b.echoSample p.inPort
    let trig := b2n p.echo.cls + 2 * b2n p.echo.mal + 4 * b2n smp + 8 * b2n (echoMirIn (b.echoEnt p.inPort))
    if trig = 0 then b
    else
      let flags := b2n bad * 128 + b2n (!adm) * 64 + b2n p.pass2 * 16 + p.epoch * 4
      b.echoRecord (echoBody p.ts p.inPort 0 trig p.colour p.len flags p.mal
        (if p.disp = .enqueue then p.queue else 0xFFFFF) p.rule p.data)

/-- The point-1 capture of a packet that leaves a network port, as rewritten (R484). -/
def echoOut (b : Body) (p : Pkt) (frame : List Byte) (ts : Nat) : Body :=
  if ¬ b.on (Pg.echo 0) R.ECHO_EN ∨ ¬ echoMirOut (b.echoEnt p.outPort) then b
  else
    b.echoRecord (echoBody ts p.outPort 1 16 p.colour frame.length (b2n p.pass2 * 16 + p.epoch * 4) p.mal p.queue p.rule
      frame)

/-- A write of ECHO_SEED (R484): 0 acts as 1, and the draws begin again. -/
def echoSeedWrite (b : Body) (v : Nat) : Body :=
  { b.wr (Pg.echo 0) R.ECHO_SEED v with echo := { b.echo with drawn := 0 } }

end Body

end Sys2Proof.Machine
end

