-- ==== Sys2Proof/Machine/Gcm.lean ====
section
/-! DEFINITION. The cipher of MACsec (R88): AES with a 256-bit key (FIPS 197) in the Galois/Counter Mode of NIST SP 800-38D, as the suites
GCM-AES-256 and GCM-AES-XPN-256 of IEEE 802.1AE name it. Keys, initial values and blocks are numbers, most significant byte first. -/

namespace Sys2Proof.Machine

/-! AES-256. -/

/-- A byte times x in the field of AES. -/
def gfDouble (a : Nat) : Nat := if a < 128 then 2 * a else (2 * a) % 256 ^^^ 0x1B

/-- The product of `a` with the low `n` bits of `b` in the field of AES. -/
def gfMul : (n a b : Nat) → Nat
  | 0, _, _ => 0
  | n + 1, a, b => (if b % 2 = 1 then a else 0) ^^^ gfMul n (gfDouble a) (b / 2)

/-- `a` to the power `2 ^ n - 1`, squared: with `n` 7 the inverse in the field, and 0 for 0. -/
def gfInv : (n a : Nat) → Nat
  | 0, _ => 1
  | n + 1, a => let r := gfInv n a; let t := gfMul 8 r a; gfMul 8 t t

/-- A byte rotated left. -/
def rotl8 (a n : Nat) : Nat := (a * 2 ^ n) % 256 + a / 2 ^ (8 - n)

/-- The substitution of a byte. -/
def aesSub (a : Nat) : Nat :=
  let x := gfInv 7 a
  x ^^^ rotl8 x 1 ^^^ rotl8 x 2 ^^^ rotl8 x 3 ^^^ rotl8 x 4 ^^^ 0x63

/-- The `n` bytes of a number, most significant first, as numbers. -/
def beNats (n v : Nat) : List Nat := (beBytes n v).map BitVec.toNat

/-- The number that bytes spell, most significant first. -/
def ofNats (l : List Nat) : Nat := l.foldl (fun a x => a * 256 + x) 0

/-- The words of the key schedule from word `i` on, given the eight before it, oldest first; `n` more words. -/
def aesWords : (n i rcon : Nat) → List (List Nat) → List (List Nat)
  | 0, _, _, _ => []
  | n + 1, i, rcon, w =>
    let last := w.getD 7 []
    let t := if i % 8 = 0 then ((last.drop 1 ++ last.take 1).map aesSub).zipWith (· ^^^ ·) [rcon, 0, 0, 0]
      else if i % 8 = 4 then last.map aesSub else last
    let x := (w.getD 0 []).zipWith (· ^^^ ·) t
    x :: aesWords n (i + 1) (if i % 8 = 0 then gfDouble rcon else rcon) (w.drop 1 ++ [x])

/-- The fifteen round keys of a 256-bit key, 16 bytes each. -/
def aesKeys (key : Nat) : List (List Nat) :=
  let k := beNats 32 key
  let w := (List.range 8).map fun i => (k.drop (4 * i)).take 4
  let l := (w ++ aesWords 52 8 1 w).flatten
  (List.range 15).map fun i => (l.drop (16 * i)).take 16

/-- The rows of a block shifted. -/
def aesShift (s : List Nat) : List Nat := (List.range 16).map fun i => s.getD ((i + 4 * (i % 4)) % 16) 0

/-- The columns of a block mixed. -/
def aesMix (s : List Nat) : List Nat :=
  (List.range 16).map fun i =>
    let c := i / 4 * 4
    let a := fun k => s.getD (c + (i + k) % 4) 0
    gfDouble (a 0) ^^^ (gfDouble (a 1) ^^^ a 1) ^^^ a 2 ^^^ a 3

/-- The rounds of a block after the first key. -/
def aesRounds : List (List Nat) → List Nat → List Nat
  | [], s => s
  | [k], s => (aesShift (s.map aesSub)).zipWith (· ^^^ ·) k
  | k :: rest, s => aesRounds rest ((aesMix (aesShift (s.map aesSub))).zipWith (· ^^^ ·) k)

/-- A block enciphered under round keys. -/
def aesBlock (keys : List (List Nat)) (block : Nat) : Nat :=
  match keys with
  | [] => block
  | k :: rest => ofNats (aesRounds rest ((beNats 16 block).zipWith (· ^^^ ·) k))

/-! Galois/Counter Mode with a 96-bit initial value and a 16-byte tag. -/

/-- The product of two blocks in the field of GCM, whose bit 0 is the most significant: `n` bits of `x`, from bit `n - 1` down. -/
def ghMul : (n x v : Nat) → Nat
  | 0, _, _ => 0
  | n + 1, x, v =>
    (if x / 2 ^ n % 2 = 1 then v else 0) ^^^ ghMul n x (if v % 2 = 1 then v / 2 ^^^ (0xE1 * 2 ^ 120) else v / 2)

/-- Bytes as blocks, the last one padded with zeros. -/
def gcmBlocks (l : List Byte) : List Nat :=
  (List.range (ceilDiv l.length 16)).map fun i =>
    let s := slice l (16 * i) 16
    beNat (s ++ List.replicate (16 - s.length) 0)

/-- The hash of the authenticated bytes and the ciphertext. -/
def gcmHash (h : Nat) (aad ct : List Byte) : Nat :=
  (gcmBlocks aad ++ gcmBlocks ct ++ [aad.length * 8 * 2 ^ 64 + ct.length * 8]).foldl (fun y x => ghMul 128 (y ^^^ x) h) 0

/-- The key stream over bytes: enciphering and deciphering are one. -/
def gcmCrypt (key iv : Nat) (text : List Byte) : List Byte :=
  let keys := aesKeys key
  (List.range (ceilDiv text.length 16)).flatMap fun i =>
    (slice text (16 * i) 16).zipWith (· ^^^ ·) (beBytes 16 (aesBlock keys (iv * 2 ^ 32 + (i + 2) % 2 ^ 32)))

/-- The 16-byte integrity check value over authenticated bytes and ciphertext. -/
def gcmIcv (key iv : Nat) (aad ct : List Byte) : List Byte :=
  let keys := aesKeys key
  beBytes 16 (gcmHash (aesBlock keys 0) aad ct ^^^ aesBlock keys (iv * 2 ^ 32 + 1))

end Sys2Proof.Machine
end

