-- ==== Sys2Proof/Machine/Msec.lean ====
section
/-! DEFINITION. MACsec (R88 to R92): a SecY and its SAs as their entries give them, what reception makes of a frame, and what
transmission makes of one. -/

namespace Sys2Proof.Machine

def secyReplayWin (e : Nat) : Nat := e % 2 ^ 32
def secyXpn (e : Nat) : Bool := bitOn e 32
def secyValidate (e : Nat) : Nat := bitField e 34 33
def secyReplay (e : Nat) : Bool := bitOn e 35
def secyProtect (e : Nat) : Bool := bitOn e 36
def secyIncSci (e : Nat) : Bool := bitOn e 37
def secyUseEs (e : Nat) : Bool := bitOn e 38
def secyUseScb (e : Nat) : Bool := bitOn e 39
def secyConf (e : Nat) : Nat := match bitField e 41 40 with | 0 => 0 | 1 => 30 | _ => 50
def secyClear (e : Nat) : Nat := bitField e 43 42
def secyAn (e : Nat) : Nat := bitField e 45 44
def secyEncrypt (e : Nat) : Bool := bitOn e 46
def secySci (e : Nat) : Nat := bitField e 127 64

/-- Whether a SecY entry is valid: its valid bit, and no code listed as invalid (R91). -/
def secyOk (e : Nat) : Bool :=
  bitOn e 47 && secyValidate e != 3 && secyClear e != 3 && bitField e 41 40 != 3

def saKey (e : Nat) : Nat := e % 2 ^ 256
def saSalt (e : Nat) : Nat := bitField e 351 256
def saSsci (e : Nat) : Nat := bitField e 383 352
def saPn (e : Nat) : Nat := bitField e 447 384
def saUsable (e : Nat) : Bool := bitOn e 455 && bitOn e 454

/-- The initial value of the cipher for a packet number: SCI and PN, or for XPN the salt with SSCI and PN. -/
def msecIv (xpn : Bool) (sa sci pn : Nat) : Nat :=
  if xpn then saSalt sa ^^^ (saSsci sa * 2 ^ 64 + pn) else sci * 2 ^ 32 + pn

/-- The bytes of VLAN tags that stand clear ahead of the SecTAG: up to `n` tags. -/
def clearTags (w : List Byte) : Nat → Nat → Nat
  | 0, o => o
  | n + 1, o => if beAt w o 2 = 0x8100 ∨ beAt w o 2 = 0x88A8 then clearTags w n (o + 4) else o

/-- The indices of a SecY's counters (R92). -/
def secyCtr (lane n : Nat) : Nat := 16 * lane + n
/-- The indices of an SA's counters: transmit SAs 0 to 255, receive SAs from 256 (R92). -/
def saCtr (sa n : Nat) : Nat := 1024 + 8 * sa + n

/-- The key of an SA in a Gallery's key store: transmit SAs 0 to 255, receive SAs from 256. -/
def saKeyIdx (g : Nat) (tx : Bool) (i : Nat) : Nat := 4096 * g + (if tx then i else 256 + i)

/-- What MACsec makes of a received frame: the frame to deliver, none where it is dropped at the MAC; whether its ICV failed
under a setting that drops it; the counters it adds to; and the SA whose lowest acceptable PN moves. -/
structure MsecRx where
  data : Option (List Byte)
  icvBad : Bool := false
  ctrs : List (Nat × Nat) := []
  pn : Option (Nat × Nat) := none
deriving DecidableEq, Repr

/-- A frame's bytes with a new FCS behind them. -/
def withFcs (l : List Byte) : List Byte := l ++ fcsBytes l

namespace Body

/-- The receive SC that a frame names, by SCI or as the only one of its lane (R89). -/
def rxScOf (b : Body) (g lane : Nat) (sci : Option Nat) : Option Nat :=
  let mine := (b.entIdxs (Tbl.rxSc g)).filter fun i =>
    let e := b.ent (Tbl.rxSc g) i
    bitOn e 79 && bitField e 69 64 == lane
  match sci with
  | some s => mine.find? fun i => b.ent (Tbl.rxSc g) i % 2 ^ 64 == s
  | none => match mine with | [i] => some i | _ => none

/-- The receive process of IEEE 802.1AE on a frame as it is on the wire, for a port with MACsec on (R88, R89, R91). A frame with E set and
C clear is the KaY's: like EAPOL it takes the uncontrolled port (DEDUCED from the standard, log entry 14). Frames of an SA whose key has an
error are counted in InPktsNotUsingSA (DESIGN CHOICE, log entry 40: R99 says counted, and not where). -/
def msecRx (b : Body) (port : Nat) (wire : List Byte) : MsecRx :=
  let g := port / 64
  let lane := port % 64
  let y := b.ent (Tbl.secy g) lane
  let st := fun n => secyCtr lane n
  let eapol := beAt wire 12 2 == 0x888E
  if eapol then { data := some wire }
  else if ¬ secyOk y then { data := none, ctrs := [(st (Config.secyDropCtr false % 12), 1)] }
  else
    let o := clearTags wire (secyClear y) 12
    let strict := secyValidate y == 2
    if beAt wire o 2 ≠ 0x88E5 then
      if strict then { data := none, ctrs := [(st 5, 1)] } else { data := some wire, ctrs := [(st 4, 1)] }
    else
      let tci := beAt wire (o + 2) 1
      let sl := beAt wire (o + 3) 1
      let pn32 := beAt wire (o + 4) 4
      let es := bitOn tci 6
      let sc := bitOn tci 5
      let scb := bitOn tci 4
      let e := bitOn tci 3
      let c := bitOn tci 2
      let taglen := if sc then 16 else 8
      let body := o + taglen
      let room := wire.length - 4 - 16 - body
      let xpn := secyXpn y
      if bitOn tci 7 ∨ (sc ∧ (es ∨ scb)) ∨ 48 ≤ sl ∨ (pn32 = 0 ∧ ¬ xpn) ∨ wire.length < body + 20 ∨ room < sl then
        { data := none, ctrs := [(st 6, 1)] }
      else if e ∧ ¬ c then { data := some wire }
      else
        let n := if sl = 0 then room else sl
        let text := slice wire body n
        let icv := slice wire (body + n) 16
        let sci := if sc then some (beAt wire (o + 8) 8) else if es then some (beAt wire 6 6 * 2 ^ 16 + (if scb then 0 else 1)) else none
        let plain := withFcs (wire.take o ++ text)
        match b.rxScOf g lane sci with
        | none =>
          if strict ∨ c then { data := none, ctrs := [(st 8, 1)] } else { data := some plain, ctrs := [(st 7, 1)] }
        | some i =>
          let sai := 4 * i + tci % 4
          let sa := b.ent (Tbl.rxSa g) sai
          let sx := fun k => saCtr (256 + sai) k
          if b.net.keyBad.contains (saKeyIdx g false sai) then { data := none, ctrs := [(sx 3, 1)] }
          else if ¬ saUsable sa then
            if strict ∨ c then { data := none, ctrs := [(sx 3, 1)] } else { data := some plain, ctrs := [(sx 4, 1)] }
          else
            let low := saPn sa
            let hi := low / 2 ^ 32 + (if pn32 < low % 2 ^ 32 ∧ 2 ^ 31 ≤ low % 2 ^ 32 ∧ pn32 < 2 ^ 31 then 1 else 0)
            let pn := if xpn then hi * 2 ^ 32 + pn32 else pn32
            if secyReplay y ∧ pn < low then { data := none, ctrs := [(sx 7, 1)] }
            else if secyValidate y = 0 then { data := some plain, ctrs := [(sx 5, 1)] }
            else
              let off := if e then secyConf y else n
              let aad := wire.take 12 ++ slice wire o taglen ++ text.take off
              let ct := text.drop off
              let scin := (b.ent (Tbl.rxSc g) i) % 2 ^ 64
              let iv := msecIv xpn sa scin pn
              let good := icv == gcmIcv (saKey sa) iv aad ct
              let pt := if e then gcmCrypt (saKey sa) iv ct else ct
              let out := withFcs (wire.take o ++ text.take off ++ pt)
              let oct := if e then (st 11, n) else (st 10, n)
              if good then
                let low' := max low (pn + 1 - secyReplayWin y)
                { data := some out, ctrs := [oct, (sx (if pn < low then 6 else 0), 1)], pn := some (sai, low') }
              else if strict ∨ c then { data := some out, icvBad := true, ctrs := [oct, (sx 2, 1)] }
              else { data := some out, ctrs := [oct, (sx 1, 1)] }

/-- The counters of a received frame added, and the PN of its SA moved on. -/
def msecNote (b : Body) (g : Nat) (r : MsecRx) : Body :=
  let b := r.ctrs.foldl (fun b x => b.count (Pg.msec g) x.1 x.2) b
  match r.pn with
  | some (sa, pn) => b.setEnt (Tbl.rxSa g) sa (setBitField (b.ent (Tbl.rxSa g) sa) 447 384 pn)
  | none => b

/-- MSEC_FLT_KEY_ECC injected: the key of an SA in use, which one the spec leaves open, has an uncorrectable error (R99). -/
def keyInject (b : Body) (g : Nat) : Body :=
  let use := fun (t : Nat) (tx : Bool) => ((b.entIdxs t).filter fun i => saUsable (b.ent t i)).map (saKeyIdx g tx)
  let l := use (Tbl.txSa g) true ++ use (Tbl.rxSa g) false
  match l with
  | [] => b
  | k :: _ =>
    let (v, b) := b.free 12
    { b with net := { b.net with keyBad := insertNat (l.getD (v % l.length) k) b.net.keyBad } }

/-- What MACsec makes of a frame to send, without its FCS, on a port with MACsec on; none where it is dropped (R90, R91). The warning comes
when the next PN comes within its distance. -/
def msecTx (b : Body) (port : Nat) (f : List Byte) : Body × Option (List Byte) :=
  let g := port / 64
  let lane := port % 64
  let y := b.ent (Tbl.secy g) lane
  let pg := Pg.msec g
  let drop := b.count pg (secyCtr lane (Config.secyDropCtr true % 12))
  if ¬ secyOk y then (drop, none)
  else if beAt f 12 2 = 0x888E then (b, some f)
  else if ¬ secyProtect y then (b.count pg (secyCtr lane 0), some f)
  else
    let sai := 4 * lane + secyAn y
    let sa := b.ent (Tbl.txSa g) sai
    let xpn := secyXpn y
    let limit := if xpn then 2 ^ 64 - 1 else 2 ^ 32 - 1
    let pn := saPn sa
    if b.net.keyBad.contains (saKeyIdx g true sai) ∨ ¬ saUsable sa then (drop, none)
    else if limit ≤ pn then
      (((b.count (Pg.lane port) 18).wr pg R.MSEC_PN_SA sai).fire pg R.MSEC_EVT_PN_EXH, none)
    else
      let o := clearTags f (secyClear y) 12
      let text := f.drop o
      let enc := secyEncrypt y
      let off := if enc then secyConf y else text.length
      let own := !secyIncSci y
      let tci := b2n (secyUseEs y && own) * 64 + b2n (secyIncSci y) * 32 + b2n (secyUseScb y && own) * 16 + b2n enc * 8 + b2n enc * 4 +
        secyAn y
      let sl := if text.length < 48 then text.length else 0
      let tag := beBytes 2 0x88E5 ++ leBytes 1 tci ++ leBytes 1 sl ++ beBytes 4 pn ++
        (if secyIncSci y then beBytes 8 (secySci y) else [])
      let aad := f.take 12 ++ tag ++ text.take off
      let iv := msecIv xpn sa (secySci y) pn
      let ct := if enc then gcmCrypt (saKey sa) iv (text.drop off) else text.drop off
      let icv := gcmIcv (saKey sa) iv aad ct
      let b := b.setEnt (Tbl.txSa g) sai (setBitField sa 447 384 (pn + 1))
      let near := fun n => decide (limit - n ≤ 2 ^ (b.rd pg R.MSEC_PN_THR))
      let b := if near (pn + 1) && !near pn then
          (b.wr pg R.MSEC_PN_SA sai).fire pg R.MSEC_EVT_PN_THR else b
      let b := b.count pg (saCtr sai (if enc then 1 else 0))
      let b := b.count pg (secyCtr lane (if enc then 3 else 2)) text.length
      (b, some (f.take o ++ tag ++ text.take off ++ ct ++ icv))

end Body

end Sys2Proof.Machine
end

