-- ==== Sys2Proof/Machine/Net.lean ====
section
/-! DEFINITION. Ports and lanes, reception, the pre-classifier and the entrance buffer, PFC and PAUSE (R71 to R87, R96 to R98). -/

namespace Sys2Proof.Machine

/-! Port modes (R71). -/

def modeLanes (m : Nat) : Nat := [0, 1, 1, 2, 1, 4, 2, 4, 8].getD m 0
/-- The MAC rate of a mode in Gbit/s. -/
def modeGb (m : Nat) : Nat := [0, 50, 100, 200, 200, 400, 400, 800, 1600].getD m 0
def modeLaneRate (m : Nat) : Nat := [0, 1, 2, 2, 3, 2, 3, 3, 3].getD m 0

/-! Indices of a lane page's counters (R97). -/

def RX_OK : Nat := 0
def RX_BYTES : Nat := 1
def RX_FCS_ERR : Nat := 2
def RX_RUNT : Nat := 3
def RX_OVERSIZE : Nat := 4
def RX_ABORT : Nat := 5
def RX_PFC : Nat := 6
def RX_PAUSE : Nat := 7
def RX_CTL_OTHER : Nat := 8
def ENT_DROP (p : Nat) : Nat := 9 + p
def ENT_TRUNC : Nat := 13
def TX_OK : Nat := 14
def TX_BYTES : Nat := 15
def TX_PFC : Nat := 16
def TX_OVERSIZE : Nat := 17
def TX_STOMP : Nat := 19
def STOMP_FCS : Nat := 20
def STOMP_ICV : Nat := 21
def STOMP_OVERSIZE : Nat := 22
def STOMP_CELLCHK : Nat := 23
def STOMP_ABORT : Nat := 24
def ENT_ABORT : Nat := 44
def RX_ABORT_PIPE : Nat := 45

namespace Body

/-- A register field of a port's lane page. -/
def prd (b : Body) (p : Nat) (f : Fld) : Nat := b.rd (Pg.lane p) f
def pwr (b : Body) (p : Nat) (f : Fld) (v : Nat) : Body := b.wr (Pg.lane p) f v

/-- The lanes of a port as its mode stands. -/
def portLanes (b : Body) (p : Nat) : List Nat := (List.range (modeLanes (b.prd p R.PORT_MODE))).map (p + ·)

/-- The enabled port that a lane belongs to, if any. -/
def laneOwner (b : Body) (l : Nat) : Option Nat :=
  [1, 2, 4, 8].findSome? fun n =>
    let p := l - l % n
    if b.prd p R.PORT_EN = 1 ∧ modeLanes (b.prd p R.PORT_MODE) = n then some p else none

/-- Whether a port is UP (R74). -/
def portUp (b : Body) (p : Nat) : Bool := b.prd p R.PORT_EN == 1 && b.prd p R.PORT_LINK_STATE == 4

/-- Whether the Scheduler may select a port: UP and with no remote fault (R74). -/
def portSends (b : Body) (p : Nat) : Bool := b.portUp p && b.prd p R.PORT_REMOTE_FAULT == 0

/-- The MAC rate of a port in Gbit/s. -/
def portGb (b : Body) (p : Nat) : Nat := modeGb (b.prd p R.PORT_MODE)

/-- The enabled network ports of a Gallery. -/
def galPorts (b : Body) (g : Nat) : List Nat := ((List.range 64).map (64 * g + ·)).filter fun p => b.prd p R.PORT_EN == 1

/-- GAL_WAKE_FILL recomputed (R296). -/
def wakeFill (b : Body) (g : Nat) : Body :=
  let r := ((b.galPorts g).map b.portGb).foldl (· + ·) 0
  (b.wr (Pg.galPower g) R.GAL_FILL_NAP (ceilDiv (r * 19712) 20480)).wr (Pg.galPower g) R.GAL_FILL_DOZE
    (ceilDiv (r * 1152) 20480)

/-- The squelch of the recovered-clock outputs (R308). -/
def synceUpdate (b : Body) : Body :=
  (List.range 4).foldl (fun b k =>
    let l := b.rd Pg.clocks R.SYNCE_LANE k
    let up := match b.laneOwner l with | some p => b.portUp p | none => false
    let ok := b.prd l R.LANE_CDR_LOCK == 1 && b.prd l R.LANE_SIG_DET == 1 && up
    let sq := b.on Pg.clocks R.SYNCE_EN k && b.on Pg.clocks R.SYNCE_SQ_EN k && !ok
    let was := b.on Pg.clocks R.SYNCE_SQUELCHED k
    let b := b.wr Pg.clocks R.SYNCE_SQUELCHED (b2n sq) k
    if sq && !was then b.fire Pg.clocks R.CLK_EVT_SQUELCH else b) b

/-- The divider of recovered-clock output `k` (R308): the signalling rate of its lane over 156.25 MHz or 25 MHz, in whole periods of the
recovered bit clock; none while the output is off, squelched, or its lane off. -/
def synceDivider (b : Body) (k : Nat) : Option Nat :=
  let r := b.prd (b.rd Pg.clocks R.SYNCE_LANE k) R.LANE_RATE
  if ¬ b.on Pg.clocks R.SYNCE_EN k ∨ b.on Pg.clocks R.SYNCE_SQUELCHED k ∨ r = 0 then none
  else some ((if b.on Pg.clocks R.SYNCE_FREQ k then 2125 else 340) * 2 ^ (r - 1))

/-- The checks of R73 on a write that sets PORT_EN. -/
def portValid (b : Body) (p : Nat) : Bool :=
  let n := modeLanes (b.prd p R.PORT_MODE)
  let mf := b.prd p R.PORT_MAX_FRAME
  n != 0 && p % 64 % n == 0 && decide (64 ≤ mf ∧ mf ≤ 10240) &&
  (b.portLanes p).all fun l => (b.laneOwner l).isNone && b.rd (Pg.lane l) R.PG_PWR_STATE == 0

/-- PORT_EN set from 0 (R73). -/
def portEnable (b : Body) (p : Nat) : Body :=
  if b.prd p R.PORT_EN = 1 then b
  else if ¬ b.portValid p then b.fire (Pg.lane p) R.PORT_EVT_BADCFG
  else
    let rate := modeLaneRate (b.prd p R.PORT_MODE)
    let b := (b.portLanes p).foldl (fun b l => (b.pwr l R.LANE_MEMBER 1).pwr l R.LANE_RATE rate) b
    (((b.pwr p R.PORT_EN 1).pwr p R.PORT_LINK_STATE 1).wakeFill (p / 64)).synceUpdate

/-! Reception. -/

/-- The entrance FIFO of a port. -/
def fifo (b : Body) (p : Nat) : List EntFrame := Sp.get [] b.net.ent p
def setFifo (b : Body) (p : Nat) (l : List EntFrame) : Body := { b with net := { b.net with ent := Sp.set [] b.net.ent p l } }

/-- The frame a port is receiving. -/
def rxOf (b : Body) (p : Nat) : Option RxFrame := (b.net.rx.find? (fun e => e.1 == p)).map (·.2)
def setRx (b : Body) (p : Nat) (f : Option RxFrame) : Body :=
  { b with net := { b.net with rx := match f with
    | some f => Sp.ins b.net.rx p f
    | none => Sp.del b.net.rx p } }

/-- Bytes counted for a frame: rounded up to a multiple of 64 (R79). -/
def round64 (n : Nat) : Nat := ceilDiv n 64 * 64

/-- The occupancy of a Gallery's entrance buffer in bytes (R79). -/
def entOcc (b : Body) (g : Nat) : Nat :=
  ((b.net.ent.filter (fun e => e.1 / 64 == g)).flatMap (fun e => e.2.map (fun f => round64 f.held))).foldl (· + ·) 0

/-- A Gallery is at work: its time idle starts anew (R293). -/
def galBusy (b : Body) (g : Nat) : Body :=
  { b with lamp := { b.lamp with gal := Sp.set {} b.lamp.gal g { Sp.get {} b.lamp.gal g with idleAt := none } } }

/-- A head dispatched, or a frame dropped under R81, as the POWER loop counts it (R298). -/
def headCount (b : Body) (g : Nat) : Body :=
  { b with lamp := { b.lamp with heads := Sp.set 0 b.lamp.heads g (Sp.get 0 b.lamp.heads g + 1) } }

/-- ENT_OCC and ENT_PEAK brought up to date (R98). A peak that a read has cleared starts again from the occupancy as it stood (log entry
44). -/
def entLevel (b : Body) (g : Nat) : Body :=
  let u := ceilDiv (b.entOcc g) 256
  let was := b.rd (Pg.preclass g) R.ENT_OCC
  (b.wr (Pg.preclass g) R.ENT_OCC u).wr (Pg.preclass g) R.ENT_PEAK (max was (max u (b.rd (Pg.preclass g) R.ENT_PEAK)))

/-- The power state of a Gallery (R291). -/
def galState (b : Body) (g : Nat) : Nat := b.rd (Pg.galPower g) R.PG_PWR_STATE

/-- Whether a Gallery is in PARK, or on its way out of it (R291, R295). -/
def parked (b : Body) (g : Nat) : Bool :=
  b.galState g == 6 || (b.galState g == 7 && (Sp.get ({} : GalPwr) b.lamp.gal g).left == 6)

/-! PFC on transmission (R86, R213). -/

/-- The bytes a port holds in the entrance buffer for priorities that generate PFC (R86). -/
def pfcBytes (b : Body) (p : Nat) : Nat :=
  (((b.fifo p).filter (fun f => bitOn (b.prd p R.PORT_PFC_TX_EN) f.pfcPrio)).map (·.held)).foldl (· + ·) 0

/-- A PFC frame that names a set of priorities, with one quanta value. The MAC sends none with a remote fault (R74), and none in PARK, where
it is stopped (R291). The time until it is sent again runs from the last frame (R86). -/
def sendPfc (b : Body) (p vec quanta : Nat) : Body :=
  if b.portSends p && !b.parked (p / 64) then ((b.mark (Mk.xoff p)).count (Pg.lane p) TX_PFC).emit (.pfc p vec quanta) else b

/-- The priorities that a port holds in XOFF, from its entrance count or a Chamber count. -/
def xoffVec (b : Body) (p : Nat) : Nat :=
  let e := if b.net.entXoff.contains p then b.prd p R.PORT_PFC_TX_EN else 0
  (List.range 8).foldl (fun v i => if b.net.chmXoff.contains (8 * p + i) then v ||| 2 ^ i else v) e

/-- PORT_PFC_XOFF brought up to date, with the frames that a change sends (R86, R213); `again` sends one also where the priorities are held
already. -/
def xoffUpdate (b : Body) (p : Nat) (again : Bool := false) : Body :=
  let old := b.prd p R.PORT_PFC_XOFF
  let new := b.xoffVec p
  let b := b.pwr p R.PORT_PFC_XOFF new
  let b := if new &&& (new ^^^ old) ≠ 0 ∨ again then b.sendPfc p new (b.prd p R.PORT_PFC_QUANTA) else b
  if old &&& (new ^^^ old) ≠ 0 then b.sendPfc p (old &&& (new ^^^ old)) 0 else b

/-- The entrance count of a port compared with its thresholds (R86). -/
def pfcEntrance (b : Body) (p : Nat) : Body :=
  let n := b.pfcBytes p
  let held := b.net.entXoff.contains p
  let reached := decide (b.prd p R.PORT_PFC_TX_EN ≠ 0 ∧ b.prd p R.PORT_PFC_XOFF_THR * 256 ≤ n) && !held
  let b := if reached then
      { b with net := { b.net with entXoff := insertNat p b.net.entXoff } }
    else if n < b.prd p R.PORT_PFC_XON_THR * 256 ∧ held then
      { b with net := { b.net with entXoff := b.net.entXoff.erase p } }
    else b
  b.xoffUpdate p reached

/-- The entrance buffer's gauges and a port's PFC after a change to its FIFO; the Gallery is not idle. -/
def entChanged (b : Body) (p : Nat) : Body := ((b.galBusy (p / 64)).entLevel (p / 64)).pfcEntrance p

/-- A drop under R81: the first since the last hold raises ENT_OVERLOAD (R83), and the POWER loop counts it (R298). -/
def overload (b : Body) (g : Nat) : Body :=
  let b := b.mark (Mk.overload g)
  let b := if b.on (Pg.preclass g) R.ENT_OVERLOAD then b else b.fire (Pg.preclass g) R.ENT_EVT_OVERLOAD
  (b.wr (Pg.preclass g) R.ENT_OVERLOAD 1).headCount g

/-- The verdict on the frame of a packet and of its copies, where none is in yet. -/
def setVerdict (b : Body) (pid : Nat) (v : Verdict) : Body :=
  { b with pipe := { b.pipe with pkts := b.pipe.pkts.map fun e =>
      if e.2.owner = pid ∧ e.2.verdict = .unknown then (e.1, { e.2 with verdict := v }) else e } }

/-- The frame in reception of a port is cut short (R75). -/
def rxAbort (b : Body) (p : Nat) : Body :=
  match b.rxOf p with
  | none => b
  | some f =>
    let b := b.setRx p none
    match f.place with
    | .gone => if f.why = .msec ∨ f.why = .lost then b.count (Pg.lane p) RX_ABORT else b
    | .mac => b.count (Pg.lane p) RX_ABORT
    | .entrance =>
      let b := ((b.count (Pg.lane p) RX_ABORT).count (Pg.lane p) ENT_ABORT).ledOut (ledEntrance (p / 64)) 1
      (b.setFifo p (b.fifo p).dropLast).entChanged p
    | .pipe pid =>
      (b.count (Pg.lane p) RX_ABORT).setVerdict pid .aborted

/-- PORT_EN cleared (R73, R74). LANE_TRAINED of every lane is cleared (DESIGN CHOICE, log entry 40). -/
def portDisable (b : Body) (p : Nat) : Body :=
  if b.prd p R.PORT_EN = 0 then b
  else
    let b := b.rxAbort p
    let b := (b.portLanes p).foldl (fun b l =>
      ((b.pwr l R.LANE_MEMBER 0).pwr l R.LANE_RATE 0).pwr l R.LANE_TRAINED 0) b
    (((b.pwr p R.PORT_EN 0).pwr p R.PORT_LINK_STATE 0).wakeFill (p / 64)).synceUpdate

/-- Signal on every lane of a port that waits for it; `kr` tells a backplane or copper medium, which trains (R71, R74). -/
def signalDetected (b : Body) (p : Nat) (kr : Bool) : Body :=
  if b.prd p R.PORT_LINK_STATE ≠ 1 then b
  else
    let b := (b.portLanes p).foldl (fun b l => (b.pwr l R.LANE_SIG_DET 1).pwr l R.LANE_CDR_LOCK 1) b
    (b.pwr p R.PORT_LINK_STATE (if kr then 2 else 3)).synceUpdate

/-- Training completes on every lane (R74). -/
def trainingComplete (b : Body) (p : Nat) : Body :=
  if b.prd p R.PORT_LINK_STATE ≠ 2 then b
  else ((b.portLanes p).foldl (fun b l => b.pwr l R.LANE_TRAINED 1) b).pwr p R.PORT_LINK_STATE 3

/-- 500 ms of training without completion (R74). -/
def trainingTimeout (b : Body) (p : Nat) : Body :=
  if b.prd p R.PORT_LINK_STATE ≠ 2 then b
  else (b.pwr p R.PORT_LINK_STATE 1).fire (Pg.lane p) R.PORT_EVT_TRAIN_TO

/-- Alignment, FEC lock and no local fault (R74). -/
def linkUp (b : Body) (p : Nat) : Body :=
  if b.prd p R.PORT_LINK_STATE ≠ 3 then b
  else (((b.pwr p R.PORT_LINK_STATE 4).pwr p R.PORT_LOCAL_FAULT 0).fire (Pg.lane p) R.PORT_EVT_LINK).synceUpdate

/-- Loss on lane `l`, one of the port's: of signal where `sig`, else of alignment or FEC lock (R74). LANE_TRAINED of every lane is cleared:
the spec does not say when it clears (DESIGN CHOICE, log entry 40). -/
def linkLoss (b : Body) (p l : Nat) (sig : Bool) : Body :=
  if b.prd p R.PORT_LINK_STATE ≠ 4 ∨ l ∉ b.portLanes p then b
  else
    let b := (b.portLanes p).foldl (fun b x => b.pwr x R.LANE_TRAINED 0) b
    let b := if sig then (b.pwr l R.LANE_SIG_DET 0).pwr l R.LANE_CDR_LOCK 0 else b
    (((b.pwr p R.PORT_LINK_STATE 1).fire (Pg.lane p) R.PORT_EVT_LINK).rxAbort p).synceUpdate

/-- A remote fault received or cleared (R74). -/
def remoteFault (b : Body) (p : Nat) (on : Bool) : Body := b.pwr p R.PORT_REMOTE_FAULT (b2n on)

/-- The end of a 1 ms FEC window: `hist` counts its codewords by symbol errors corrected, `unc` the uncorrectable (R76). -/
def fecWindow (b : Body) (p : Nat) (hist : List Nat) (unc : Nat) : Body :=
  let h := hist.take 16
  let corr := (h.drop 1).foldl (· + ·) 0
  let syms := (h.zipIdx.map (fun x => x.1 * x.2)).foldl (· + ·) 0
  let b := ((b.count (Pg.lane p) 25 corr).count (Pg.lane p) 26 unc).count (Pg.lane p) 27 syms
  let b := h.zipIdx.foldl (fun b x => b.count (Pg.lane p) (28 + x.2) x.1) b
  let thr := b.prd p R.PORT_FEC_DEG_THR
  if thr ≠ 0 ∧ thr < syms then
    let b := if b.prd p R.PORT_HI_SER = 1 then b else b.mark (Mk.hiSer p)
    (b.pwr p R.PORT_HI_SER 1).fire (Pg.lane p) R.PORT_EVT_HI_SER
  else { b.pwr p R.PORT_HI_SER 0 with gov := { b.gov with giveUp := b.gov.giveUp.erase p } }

/-- PG_PWR_REQ of a lane page: 1 powers the lane down, 0 up; a request of 1 for a lane of an enabled port is ignored (R97). -/
def lanePower (b : Body) (l req : Nat) : Body :=
  if req = 1 then
    if (b.laneOwner l).isSome then b else (b.pwr l R.PG_PWR_REQ 1).pwr l R.PG_PWR_STATE 1
  else if req = 0 then (b.pwr l R.PG_PWR_REQ 0).pwr l R.PG_PWR_STATE 0
  else b

/-- The time of day with a signed adjustment in ps, at a resolution of 250 ps (R93). -/
def stamp (b : Body) (adj : Nat) : Nat := ((b.tod : Int) + signed 16 adj * 65536 / 1000).toNat / 16384 * 16384

/-- A frame begun, as the traffic detector of a Gallery counts it (R289). -/
def noteTraffic (b : Body) (g : Nat) : Body :=
  { b with lamp := { b.lamp with traffic := Sp.set 0 b.lamp.traffic g (Sp.get 0 b.lamp.traffic g + 1) } }

/-- The EtherType of MAC Control (R78). -/
def isMacControl (wire : List Byte) : Bool := beAt wire 12 2 == 0x8808

/-- Whether a Gallery reset is in progress (R282). -/
def galInReset (b : Body) (g : Nat) : Bool := b.on (Pg.gallery g) R.PG_RESET_BUSY

/-- What MACsec makes of a wire frame, where the port has it on. MAC Control is consumed at the MAC before it (R78). -/
def rxView (b : Body) (p : Nat) (wire : List Byte) : MsecRx :=
  if b.prd p R.PORT_MACSEC_EN = 1 ∧ ¬ isMacControl wire then b.msecRx p wire else { data := some wire }

/-- How a port's lanes loop (R97): 1 near-end, where what it sends is what it receives; 2 far-end, where it sends on what it receives. A port
whose lanes disagree does not loop. -/
def portLoop (b : Body) (p : Nat) : Nat :=
  let k := b.prd p R.LANE_LOOP
  if b.prd p R.PORT_EN = 1 ∧ (b.portLanes p).all fun l => b.prd l R.LANE_LOOP == k then k else 0

/-- A frame begins on a port: its bytes as the wire carries them, FCS included (R93). A port that is not UP, or is still
receiving, hears none. In PARK the frame is discarded and counted (R295); in a Gallery reset it is dropped at the MAC
(R282). -/
def frameIn (b : Body) (p : Nat) (wire : List Byte) : Body :=
  let g := p / 64
  if ¬ b.portUp p ∨ (b.rxOf p).isSome then b
  else
    let b := { b with net := { b.net with heard := Sp.ins b.net.heard p b.clk } }
    let v := b.rxView p wire
    let f : RxFrame := { wire := wire, data := v.data.getD wire, ts := b.stamp (b.prd p R.PORT_TS_RX_ADJ),
                         icvBad := v.icvBad, place := if v.data.isNone then .gone else .mac, since := b.clk, why := .msec }
    let b := if isMacControl wire then b else b.noteTraffic g
    if b.parked g then
      ((b.count (Pg.galPower g) 3).fire (Pg.galPower g) R.GAL_EVT_PARK_DROP).setRx p (some { f with place := .gone, why := .park })
    else if b.galInReset g then (b.count (Pg.lane p) RX_ABORT).setRx p (some { f with place := .gone, why := .reset })
    else b.setRx p (some f)

/-- The same for a frame from the link, which a near-end loop shuts out. -/
def frameStart (b : Body) (p : Nat) (wire : List Byte) : Body := if b.portLoop p = 1 then b else b.frameIn p wire

/-! The pre-classifier (R80). -/

/-- What the pre-classifier sees in the first 64 bytes: the destination, the type after the tags, the outer tag's PCP, the
top label's TC, the DSCP, the protocol, and the ports or ICMPv6 type. -/
structure PreHdr where
  dmac : Nat
  etype : Option Nat := none
  pcp : Option Nat := none
  tc : Option Nat := none
  dscp : Option Nat := none
  proto : Option Nat := none
  sport : Option Nat := none
  dport : Option Nat := none
  icmp6 : Option Nat := none
deriving DecidableEq, Repr

/-- A big-endian field of the first 64 bytes, none where it reaches beyond them. -/
def pre64 (d : List Byte) (o n : Nat) : Option Nat := if o + n ≤ 64 ∧ o + n ≤ d.length then some (beAt d o n) else none

def isTag (d : List Byte) (o : Nat) : Bool := beAt d o 2 == 0x8100 || beAt d o 2 == 0x88A8

def preHdr (d : List Byte) : PreHdr :=
  let n := if isTag d 12 then (if isTag d 16 then 2 else 1) else 0
  let q := 14 + 4 * n
  let et := pre64 d (12 + 4 * n) 2
  let h : PreHdr := { dmac := beAt d 0 6, etype := et,
                      pcp := if n = 0 then none else (pre64 d 14 2).map (· / 2 ^ 13) }
  let ports := fun (h : PreHdr) (proto o : Nat) =>
    if proto = 6 ∨ proto = 17 then { h with sport := pre64 d o 2, dport := pre64 d (o + 2) 2 } else h
  match et with
  | some 0x0800 =>
    let ihl := beAt d q 1 % 16
    match pre64 d (q + 9) 1 with
    | some pr =>
      let h := { h with dscp := (pre64 d (q + 1) 1).map (· / 4), proto := some pr }
      if beAt d (q + 6) 2 % 0x2000 = 0 then ports h pr (q + 4 * ihl) else h
    | none => h
  | some 0x86DD =>
    match pre64 d (q + 6) 1 with
    | some pr =>
      let h := { h with dscp := (pre64 d q 2).map (· / 2 ^ 6 % 64), proto := some pr }
      if pr = 58 then { h with icmp6 := pre64 d (q + 40) 1 } else ports h pr (q + 40)
    | none => h
  | some 0x8847 => { h with tc := (pre64 d q 4).map (· / 2 ^ 9 % 8) }
  | some 0x8848 => { h with tc := (pre64 d q 4).map (· / 2 ^ 9 % 8) }
  | _ => h

/-- Whether a field matches under a mask; an absent field matches only a zero mask. -/
def preMatch (v : Option Nat) (key mask : Nat) : Bool :=
  mask == 0 || (match v with | some x => (x &&& mask) == (key &&& mask) | none => false)

def preRuleMatch (e : Nat) (h : PreHdr) : Bool :=
  bitOn e 183 && preMatch (some h.dmac) (e % 2 ^ 48) (bitField e 95 48) &&
  preMatch h.etype (bitField e 111 96) (bitField e 127 112) && preMatch h.proto (bitField e 135 128) (bitField e 143 136) &&
  preMatch h.dport (bitField e 159 144) (bitField e 175 160)

/-- Whether an enabled built-in recogniser knows the frame (R80). -/
def preBuiltin (en : Nat) (h : PreHdr) : Bool :=
  let et := fun x => h.etype == some x
  let udp := h.proto == some 17
  let tcp := h.proto == some 6
  let dp := fun x => h.dport == some x
  let anyp := fun x => h.dport == some x || h.sport == some x
  let llc := match h.etype with | some x => decide (x ≤ 1500) | none => false
  (bitOn en 0 && et 0x8809) || (bitOn en 1 && et 0x88CC) || (bitOn en 2 && et 0x888E) ||
  (bitOn en 3 && (et 0x88F7 || (udp && (dp 319 || dp 320)))) ||
  (bitOn en 4 && (et 0x0806 || (match h.icmp6 with | some t => decide (133 ≤ t ∧ t ≤ 137) | none => false))) ||
  (bitOn en 5 && llc && (h.dmac == 0x0180C2000014 || h.dmac == 0x0180C2000015 || h.dmac == 0x09002B000005)) ||
  (bitOn en 6 && h.proto == some 89) || (bitOn en 7 && tcp && anyp 179) ||
  (bitOn en 8 && udp && (dp 3784 || dp 4784)) || (bitOn en 9 && (tcp || udp) && anyp 646)

/-- The ingress priority of a frame on a port (R80). -/
def preClassify (b : Body) (p : Nat) (d : List Byte) : Nat :=
  let g := p / 64
  let pc := Pg.preclass g
  let h := preHdr d
  let tr := b.prd p R.PORT_TRUST
  match ((b.entIdxs (Tbl.preRule g)).find? fun i => preRuleMatch (b.ent (Tbl.preRule g) i) h) with
  | some i => bitField (b.ent (Tbl.preRule g) i) 177 176
  | none =>
    if preBuiltin (b.rd pc R.PRE_BUILTIN) h then 0
    else match (if bitOn tr 1 then h.tc else none) with
    | some t => b.rd pc R.PRE_TC_MAP / 4 ^ t % 4
    | none => match (if bitOn tr 2 then h.dscp else none) with
      | some x => b.rd pc R.PRE_DSCP_MAP (x / 16) / 4 ^ (x % 16) % 4
      | none => match (if bitOn tr 0 then h.pcp else none) with
        | some x => b.rd pc R.PRE_PCP_MAP / 4 ^ x % 4
        | none => b.prd p R.PORT_DEF_PRIO

/-- 64 bytes of the frame have arrived: its priority, and admission (R80, R81). Runts and MAC Control frames never come so
far. -/
def entranceAdmit (b : Body) (p : Nat) : Body :=
  let g := p / 64
  match b.rxOf p with
  | none => b
  | some f =>
    if f.place ≠ .mac ∨ f.wire.length < 64 ∨ isMacControl f.wire then b
    else
      let pr := b.preClassify p f.data
      if b.entOcc g < b.rd (Pg.preclass g) R.ENT_THR pr * 256 then
        let e : EntFrame :=
          { data := f.data, ts := f.ts, prio := pr, held := min 64 f.data.length,
            pfcPrio := (preHdr f.data).pcp.getD (b.prd p R.PORT_PFC_UNTAG) }
        (((b.setFifo p (b.fifo p ++ [e])).setRx p (some { f with place := .entrance, why := .lost })).ledIn (ledEntrance g) 1).entChanged p
      else ((b.count (Pg.lane p) (ENT_DROP pr)).setRx p (some { f with place := .gone, why := .entrance })).overload g

/-! PFC and PAUSE on reception (R85, R87). Timer 8 of a port is PAUSE's. -/

def setPause (b : Body) (p t q : Nat) : Body :=
  { b.mark (Mk.pause p t) with net := { b.net with pause := Sp.set 0 b.net.pause (16 * p + t) q } }

/-- Quanta of 512 bit times at a port's MAC rate, in ns rounded up (R85). -/
def quantaNs (b : Body) (p q : Nat) : Nat := ceilDiv (q * 512) (max 1 (b.portGb p))

/-- PORT_PFC_PAUSED bit `i` set or cleared; the watchdog counts from where it was set. -/
def setPaused (b : Body) (p i : Nat) (on : Bool) : Body :=
  let b := if on && !bitOn (b.prd p R.PORT_PFC_PAUSED) i then b.mark (Mk.paused p i) else b
  b.pwr p R.PORT_PFC_PAUSED (setBitField (b.prd p R.PORT_PFC_PAUSED) i i (b2n on))

/-- A received PFC frame: the priorities of `vec` with their quanta (R85). In PARK none is honoured. -/
def pfcReceive (b : Body) (p vec : Nat) (quanta : List Nat) : Body :=
  if ¬ b.portUp p ∨ b.parked (p / 64) then b
  else (List.range 8).foldl (fun b i =>
    if bitOn vec i ∧ bitOn (b.prd p R.PORT_PFC_RX_EN) i then
      let q := quanta.getD i 0 % 0x10000
      (b.setPause p i q).setPaused p i (q != 0)
    else b) (b.count (Pg.lane p) RX_PFC)

/-- A received PAUSE frame (R87). -/
def pauseReceive (b : Body) (p quanta : Nat) : Body :=
  if ¬ b.portUp p ∨ b.parked (p / 64) then b
  else
  let b := b.count (Pg.lane p) RX_PAUSE
  if b.prd p R.PORT_PAUSE_EN = 1 ∧ b.prd p R.PORT_PFC_RX_EN = 0 then b.setPause p 8 (quanta % 0x10000) else b

/-- A pause timer of a port runs out once its quanta have passed: 0 to 7 a priority's, 8 PAUSE's (R85, R87). -/
def pauseExpire (b : Body) (p t : Nat) : Body :=
  if ¬ b.passed (Mk.pause p t) (b.quantaNs p (Sp.get 0 b.net.pause (16 * p + t))) then b
  else if t < 8 then (b.setPause p t 0).setPaused p t false else b.setPause p 8 0

/-- A priority has been paused for longer than PORT_PFC_WD (R85). -/
def pfcWatchdog (b : Body) (p i : Nat) : Body :=
  if bitOn (b.prd p R.PORT_PFC_PAUSED) i ∧ b.prd p R.PORT_PFC_WD ≠ 0 ∧
      b.passed (Mk.paused p i) (b.prd p R.PORT_PFC_WD * 1000000 + 1) then b.fire (Pg.lane p) R.PORT_EVT_PFC_WD else b

/-- Half the quanta time has passed while a priority stays in XOFF (R86). -/
def pfcResend (b : Body) (p : Nat) : Body :=
  if b.prd p R.PORT_PFC_XOFF = 0 ∨ ¬ b.passed (Mk.xoff p) (ceilDiv (b.prd p R.PORT_PFC_QUANTA * 256) (max 1 (b.portGb p))) then b
  else b.sendPfc p (b.prd p R.PORT_PFC_XOFF) (b.prd p R.PORT_PFC_QUANTA)

/-- Whether PFC or PAUSE holds a queue class of a port (R85, R87, R251). -/
def classPaused (b : Body) (p cls : Nat) : Bool :=
  Sp.get 0 b.net.pause (16 * p + 8) != 0 ||
  (List.range 8).any fun i =>
    bitOn (b.prd p R.PORT_PFC_PAUSED) i &&
    bitOn ((if i < 4 then b.prd p R.PORT_PFC_MAP0 / 256 ^ i else b.prd p R.PORT_PFC_MAP1 / 256 ^ (i - 4)) % 256) cls

/-- A MAC Control frame consumed at the MAC (R78). -/
def macControl (b : Body) (p : Nat) (w : List Byte) : Body :=
  let op := beAt w 14 2
  if op = 0x0101 then b.pfcReceive p (beAt w 16 2) ((List.range 8).map fun i => beAt w (18 + 2 * i) 2)
  else if op = 0x0001 then b.pauseReceive p (beAt w 16 2)
  else b.count (Pg.lane p) RX_CTL_OTHER

/-- The verdict on a received frame at its end (R77). -/
def rxVerdict (b : Body) (p : Nat) (f : RxFrame) : Verdict :=
  if b.prd p R.PORT_MAX_FRAME < f.wire.length then .oversize
  else if ¬ fcsOk f.wire then .badFcs
  else if f.icvBad then .badIcv else .good

/-- A packet changed in place. -/
def modPkt (b : Body) (pid : Nat) (f : Pkt → Pkt) : Body :=
  { b with pipe := { b.pipe with pkts := b.pipe.pkts.map fun e => if e.1 = pid then (e.1, f e.2) else e } }

/-- Whether `n` bytes of the last frame of a port's FIFO find the entrance buffer completely full (R79, R81). -/
def entFull (b : Body) (p n : Nat) : Bool :=
  match (b.fifo p).getLast? with
  | none => false
  | some e => decide (4194304 < b.entOcc (p / 64) - round64 e.held + round64 n)

/-- The last frame of a port's FIFO holds `n` bytes, and at its end has a verdict; one that finds the buffer full is dropped whole, a drop
under R81. -/
def entHold (b : Body) (p n : Nat) (v : Option Verdict) : Body :=
  let g := p / 64
  let l := b.fifo p
  match l.getLast? with
  | none => b
  | some e =>
    if b.entFull p n then
      let b := ((b.count (Pg.lane p) ENT_TRUNC).fire (Pg.preclass g) R.ENT_EVT_FULL).ledOut (ledEntrance g) 1
      let b := if v.isSome then b else b.setRx p ((b.rxOf p).map fun f => { f with place := .gone, why := .entrance })
      ((b.setFifo p l.dropLast).entChanged p).overload g
    else
      let e := { e with held := n, data := if v.isSome then e.data.take n else e.data, complete := v.isSome,
                        verdict := v.getD e.verdict }
      (b.setFifo p (l.dropLast ++ [e])).entChanged p

/-- The bytes of a frame in reception that have arrived since it began, at the port's rate, as the entrance buffer counts them: a frame over
the maximum is cut one byte beyond it (R77, R79). -/
def rxArrived (b : Body) (p : Nat) (f : RxFrame) : Nat :=
  min (min f.data.length (b.prd p R.PORT_MAX_FRAME + 1)) (max 64 ((b.clk - f.since) * b.portGb p / 8))

/-- The frames in reception that stand in entrance buffers grow by what has arrived. -/
def rxGrow (b : Body) : Body :=
  b.net.rx.foldl (fun b e => if e.2.place = .entrance then b.entHold e.1 (b.rxArrived e.1 e.2) none else b) b

/-- A frame ends at the MAC (R77, R78, R81). A frame that no ENTRANCE_ADMIT came for is admitted or dropped first. Runts
and MAC Control frames end here; an admitted frame's remaining bytes are
in the buffer, which it may find full; a dispatched packet gets its verdict. RX_OK and RX_BYTES count the good frames that no drop under R81,
no MACsec drop and no MAC Control takes away (DESIGN CHOICE, log entry 40). A far-end loop sends the frame on (R97). -/
def frameReceive (b : Body) (p : Nat) : Body :=
  let g := p / 64
  let b := b.entranceAdmit p
  match b.rxOf p with
  | none => b
  | some f =>
    let b := b.setRx p none
    let b := if b.portLoop p = 2 then b.emit (.frame p f.wire false) else b
    let v := b.rxVerdict p f
    let good := fun (b : Body) =>
      if v = .good then (b.count (Pg.lane p) RX_OK).count (Pg.lane p) RX_BYTES f.wire.length else b
    let msec := fun (b : Body) => if fcsOk f.wire then b.msecNote g (b.rxView p f.wire) else b
    let bad := fun (b : Body) => match v with
      | .oversize => b.count (Pg.lane p) RX_OVERSIZE
      | .badFcs => b.count (Pg.lane p) RX_FCS_ERR
      | _ => b
    if f.place = .gone ∧ f.why ≠ .msec then b
    else if f.wire.length < 64 then b.count (Pg.lane p) RX_RUNT
    else match f.place with
    | .gone => msec (bad b)
    | .mac => if ¬ isMacControl f.wire then b else if v = .good then b.macControl p f.wire else bad b
    | .entrance =>
      let n := if v = .oversize then min f.data.length (b.prd p R.PORT_MAX_FRAME + 1) else f.data.length
      let b := msec (if b.entFull p n then b else good b)
      b.entHold p n (some v)
    | .pipe pid => (msec (good b)).setVerdict pid v

/-- ENT_OVL_HOLD µs have passed with no entrance drop (R83). -/
def overloadClear (b : Body) (g : Nat) : Body :=
  if b.passed (Mk.overload g) (b.rd (Pg.preclass g) R.ENT_OVL_HOLD * 1000) then b.wr (Pg.preclass g) R.ENT_OVERLOAD 0 else b

end Body

end Sys2Proof.Machine
end

