-- ==== Sys2Proof/Machine/Rings.lean ====
section
/-! DEFINITION. The host interface and its descriptor rings (R417 to R438, R443): vectors, doorbells, job checks, completion and
write-back, notification, reset, inject jobs, punt buffers and telemetry records. -/

namespace Sys2Proof.Machine

/-! Counters of endpoint page 0 (R444) and of a ring page (R445). -/
def HIF_PUNT_DROP : Nat := 0
def HIF_PUNT_NOBUF : Nat := 1
def HIF_INJ_BAD : Nat := 2
def HIF_TEL_DROP : Nat := 3
def HIF_LINK_DOWN : Nat := 4
def HIF_FLR : Nat := 5
def HIF_PUNT_PKTS : Nat := 6
def HIF_INJ_PKTS : Nat := 7
def HIF_CMDS : Nat := 8
def RING_JOBS : Nat := 0
def RING_ENTRIES : Nat := 1
def RING_BYTES : Nat := 2
def RING_DROPS : Nat := 3
def RING_CMD_ERR : Nat := 4
def RING_PROTO_ERR : Nat := 5

/-! Ring kinds (R421), states (R428) and causes (R425). -/
def KIND_INJECT : Nat := 1
def KIND_PUNT : Nat := 2
def KIND_CMD : Nat := 3
def KIND_TEL : Nat := 4
def RING_DISABLED : Nat := 0
def RING_RUNNING : Nat := 1
def RING_ERROR : Nat := 2
def RING_RESETTING : Nat := 3
def RING_STOPPED : Nat := 4
def CAUSE_DOORBELL : Nat := 1
def CAUSE_CHAIN : Nat := 2
def CAUSE_ENTRY : Nat := 3
def CAUSE_DMA : Nat := 4
def CAUSE_LINK : Nat := 5

namespace Body

/-- A register field of ring `n`. -/
def rrd (b : Body) (n : Nat) (f : Fld) : Nat := b.rd (Pg.ring n) f
def rwr (b : Body) (n : Nat) (f : Fld) (v : Nat) : Body := b.wr (Pg.ring n) f v

/-- What ring `n` holds beside its page. -/
def run (b : Body) (n : Nat) : RingRun := Sp.get {} b.host.rings n
def setRun (b : Body) (n : Nat) (x : RingRun) : Body := { b with host := { b.host with rings := Sp.set {} b.host.rings n x } }

/-- Whether the engine can reach host memory: link in L0, Bus Master Enable, not D3hot (R420). -/
def dmaOk (b : Body) : Bool := b.on Pg.hif R.HIF_LINK_UP && b.on Pg.hif R.HIF_BME && !b.host.d3

/-- Bytes written to host memory. -/
def hostWrite (b : Body) (a : Nat) (l : List Byte) : Body :=
  { b with mem := { b.mem with host := Mem.write b.mem.host (a % 2 ^ 64) l } }

/-! Vectors (R419). -/

/-- An MSI-X vector. -/
def vec (b : Body) (v : Nat) : Vec := Sp.get {} b.host.vecs v

/-- A pending vector is sent where nothing masks it and the function may send. -/
def vecTry (b : Body) (v : Nat) : Body :=
  if b.host.pba.contains v ∧ ¬ b.host.fnMask ∧ ¬ (b.vec v).masked ∧ b.dmaOk then
    ({ b with host := { b.host with pba := b.host.pba.erase v } }).emit (.msix v (b.vec v).addr (b.vec v).data)
  else b

/-- A notification of a vector: one message, or its pending bit while it is masked. -/
def vecNotify (b : Body) (v : Nat) : Body :=
  ({ b with host := { b.host with pba := insertNat v b.host.pba } }).vecTry v

/-- Every pending vector that may now be sent is sent. -/
def vecAll (b : Body) : Body := b.host.pba.foldl (fun b v => b.vecTry v) b

/-! Ring geometry (R421, R422). -/

/-- The entry size of a kind. -/
def entrySize (kind : Nat) : Nat := if kind ≤ 2 then 16 else 64
def ringSize (b : Body) (n : Nat) : Nat := 2 ^ b.rrd n R.RING_LOG2
def ringBase (b : Body) (n : Nat) : Nat := b.rrd n R.RING_BASE_LO + 2 ^ 32 * b.rrd n R.RING_BASE_HI

/-- The host address of the entry of an index. -/
def entryAddr (b : Body) (n k : Nat) : Nat :=
  b.ringBase n + k % b.ringSize n * entrySize (b.rrd n R.RING_KIND)

/-- The bytes of the entry of an index. -/
def ringEntry (b : Body) (n k : Nat) : List Byte := Mem.read b.mem.host (b.entryAddr n k) (entrySize (b.rrd n R.RING_KIND))

/-- The index of the first entry that no done job covers, and the number of entries from there to RING_PROD. -/
def ringFront (b : Body) (n : Nat) : Nat := (b.rrd n R.RING_CONS + ((b.run n).done.map (·.1)).foldl (· + ·) 0) % 2 ^ 32
def ringLeft (b : Body) (n : Nat) : Nat := wrapSub 32 (b.rrd n R.RING_PROD) (b.ringFront n)

/-- The write-back of R426. -/
def ringWb (b : Body) (n : Nat) : Body :=
  if b.on (Pg.ring n) R.RING_WB_EN ∧ b.dmaOk then
    b.hostWrite (b.rrd n R.RING_WB_LO + 2 ^ 32 * b.rrd n R.RING_WB_HI)
      (leBytes 4 (b.rrd n R.RING_CONS) ++ leBytes 2 (b.rrd n R.RING_RST_CNT) ++ leBytes 1 (b.rrd n R.RING_STATE) ++ [0])
  else b

/-- A running ring stops (R425): the state it enters, the cause, and the index shown. -/
def ringStop (b : Body) (n st cause idx : Nat) : Body :=
  let b := ((b.rwr n R.RING_STATE st).rwr n R.RING_ERR cause).rwr n R.RING_ERR_IDX idx
  let b := b.setRun n { (b.run n) with idx := 0, failed := false, waiting := false, delayed := false }
  let b := (b.fire (Pg.ring n) R.RING_EVT_PROTO).count (Pg.ring n) RING_PROTO_ERR
  b.ringWb n

/-- The done jobs of a ring published: RING_CONS passes them. -/
def ringPublish (b : Body) (n : Nat) : Body :=
  match (b.run n).done with
  | [] => b
  | j :: rest =>
    let x := b.run n
    let b := if x.note = 0 then b.mark (Mk.ring n) else b
    let b := b.setRun n { x with done := rest, note := x.note + 1 }
    let b := b.rwr n R.RING_CONS (b.rrd n R.RING_CONS + j.1)
    ((b.count (Pg.ring n) RING_JOBS).count (Pg.ring n) RING_ENTRIES j.1).count (Pg.ring n) RING_BYTES j.2

/-- A protocol error (R425): every job already done is published first. -/
def ringError (b : Body) (n cause idx : Nat) (inj : Bool := false) : Body :=
  let b := (b.run n).done.foldl (fun b _ => b.ringPublish n) b
  let b := if cause = CAUSE_DMA then b.fault (Pg.ring n) R.RING_FLT_DMA { access := 7, space := 5, addr := b.entryAddr n idx, detail := n, inj := inj } else b
  b.ringStop n RING_ERROR cause idx

/-! Jobs (R424). -/

end Body

/-- The flags of an entry. -/
def entryFirst (kind : Nat) (e : List Byte) : Bool := bitOn (leNat (slice e (if kind = KIND_CMD then 3 else 10) 1)) 7
def entryLast (kind : Nat) (e : List Byte) : Bool := bitOn (leNat (slice e (if kind = KIND_CMD then 3 else 10) 1)) 6

/-- The fields of a table command (R439). -/
def cmdOp (e : List Byte) : Nat := leNat (slice e 2 1)
def cmdTarget (e : List Byte) : Nat := leNat (slice e 4 4)
def cmdArg (e : List Byte) : Nat := leNat (slice e 8 4)
def cmdData (e : List Byte) : List Byte := e.drop 16
def cmdStop (e : List Byte) : Bool := bitOn (leNat (slice e 3 1)) 5

/-- Whether entry `e` of a job breaks its entry table (R425, R432, R439, R440); `prev` is the opcode of the entry before. -/
def entryBad (kind : Nat) (e : List Byte) (prev : Option Nat) : Bool :=
  if kind = KIND_INJECT then
    let len := leNat (slice e 8 2)
    len == 0 || decide (10252 < len) || leNat (slice e 10 1) % 64 != 0 || leNat (slice e 11 5) != 0
  else if kind = KIND_CMD then
    leNat (slice e 3 1) % 32 != 0 ||
    (cmdOp e == 1 && prev != some 2 && prev != some 1) ||
    ((cmdOp e == 2 || cmdOp e == 3) && cmdArg e / 256 != 0)
  else false

/-- What stands at the front of an INJECT or TABLE_CMD ring. -/
inductive JobRes where
  | wait
  | job (entries : List (List Byte))
  | err (cause idx : Nat)
deriving DecidableEq, Repr

/-- Entries read from index `k` on, of `left` that the engine owns, until the job ends; `n` more may belong to it. -/
def scanJob (kind : Nat) (entry : Nat → List Byte) (k left : Nat) : Nat → List (List Byte) → JobRes
  | 0, _ => .err CAUSE_CHAIN ((k + 63) % 2 ^ 32)
  | n + 1, acc =>
    let i := acc.length
    if left ≤ i then .wait
    else
      let e := entry ((k + i) % 2 ^ 32)
      if entryFirst kind e != (i == 0) then .err CAUSE_CHAIN ((k + i) % 2 ^ 32)
      else if entryLast kind e then .job (acc ++ [e])
      else scanJob kind entry k left n (acc ++ [e])

/-- The position of the first entry that breaks its entry table. -/
def badEntry (kind : Nat) : Nat → Option Nat → List (List Byte) → Option Nat
  | _, _, [] => none
  | i, prev, e :: t => if entryBad kind e prev then some i else badEntry kind (i + 1) (some (cmdOp e)) t

namespace Body

/-- The job at the front of an INJECT or TABLE_CMD ring, flags checked before fields (R424, R425). -/
def jobAt (b : Body) (n : Nat) : JobRes :=
  let kind := b.rrd n R.RING_KIND
  let k := b.ringFront n
  match scanJob kind (b.ringEntry n) k (b.ringLeft n) 64 [] with
  | .job l => match badEntry kind 0 none l with
    | some i => .err CAUSE_ENTRY ((k + i) % 2 ^ 32)
    | none => .job l
  | r => r

/-- Whether a ring runs with a kind. -/
def ringRuns (b : Body) (n kind : Nat) : Bool := b.rrd n R.RING_STATE == RING_RUNNING && b.rrd n R.RING_KIND == kind

/-- The fetch at the front of an INJECT or TABLE_CMD ring: an armed DMA error (R444), and the checks of R424 and R425. A job in
execution has passed them. -/
def ringFetch (b : Body) (n : Nat) : Body :=
  if ¬ (b.ringRuns n KIND_INJECT || b.ringRuns n KIND_CMD) || !b.dmaOk || (b.run n).idx != 0 || b.ringLeft n == 0 then b
  else
    match b.host.arm.find? (fun e => e.1 == n) with
    | some e =>
      let b := { b with host := { b.host with arm := b.host.arm.erase e } }
      b.ringError n CAUSE_DMA (b.ringFront n) true
    | none =>
      match b.jobAt n with
      | .err c i => b.ringError n c i
      | _ => b

/-- A doorbell write (R423, R430). -/
def ringDoorbell (b : Body) (n v : Nat) : Body :=
  if b.rrd n R.RING_STATE ≠ RING_RUNNING then b.fire (Pg.ring n) R.RING_EVT_BADCFG
  else if v = b.rrd n R.RING_PROD then b
  else if wrapSub 32 v (b.rrd n R.RING_PROD) ≤ b.ringSize n ∧ wrapSub 32 v (b.rrd n R.RING_CONS) ≤ b.ringSize n then
    (b.rwr n R.RING_PROD v).ringFetch n
  else b.ringError n CAUSE_DOORBELL v

/-- A job completes (R426): RING_CONS moves past it and the write-back follows. Rings wait while DMA is stopped (R420). -/
def ringJobComplete (b : Body) (n : Nat) : Body :=
  if b.rrd n R.RING_STATE ≠ RING_RUNNING ∨ (b.run n).done = [] ∨ ¬ b.dmaOk then b
  else ((b.ringPublish n).ringWb n).ringFetch n

/-- A ring notifies (R431): RING_COAL_JOBS jobs are done, or RING_COAL_US µs have passed since the first completion not yet notified. -/
def ringNotify (b : Body) (n : Nat) : Body :=
  let x := b.run n
  if x.note = 0 ∨ (x.note < max 1 (b.rrd n R.RING_COAL_JOBS) ∧
      ¬ b.passed (Mk.ring n) (max 1 (b.rrd n R.RING_COAL_US) * 1000)) then b
  else
    let b := b.setRun n { x with note := 0 }
    let v := b.rrd n R.RING_VEC
    let b := if v = 0 then b else b.vecNotify v
    b.fire (Pg.ring n) R.RING_EVT_CMPL

/-- The checks of R429. -/
def ringValid (b : Body) (n : Nat) : Bool :=
  let k := b.rrd n R.RING_KIND
  let l := b.rrd n R.RING_LOG2
  let v := b.rrd n R.RING_VEC
  let a := b.rrd n R.RING_AUX
  decide (1 ≤ k ∧ k ≤ 4) && decide (6 ≤ l ∧ l ≤ 16) && b.rrd n R.RING_BASE_LO % 4096 == 0 &&
  (b.rrd n R.RING_WB_LO % 8 == 0 || !b.on (Pg.ring n) R.RING_WB_EN) &&
  (v == 0 || decide (64 ≤ v ∧ v ≤ 2047)) && (k != KIND_INJECT || a == 0xFF || decide (a ≤ 239))

/-- RING_EN written 1 (R428, R429). -/
def ringEnable (b : Body) (n : Nat) : Body :=
  if b.rrd n R.RING_STATE ≠ RING_DISABLED then b
  else if b.ringValid n then (b.rwr n R.RING_EN 1).rwr n R.RING_STATE RING_RUNNING
  else (b.rwr n R.RING_EN 0).fire (Pg.ring n) R.RING_EVT_BADCFG

/-- RING_RESET written 1, or RING_EN cleared where `off` (R427, R428). -/
def ringReset (b : Body) (n : Nat) (off : Bool) : Body :=
  let st := b.rrd n R.RING_STATE
  if st = RING_DISABLED then b
  else
    let b := if off then b.rwr n R.RING_EN 0 else b
    if st = RING_RESETTING then b
    else
      let b := b.rwr n R.RING_STATE RING_RESETTING
      b.setRun n { (b.run n) with idx := 0, failed := false, waiting := false, delayed := false, tel := [] }

/-- Steps 3 to 5 of R427. -/
def ringResetDone (b : Body) (n : Nat) : Body :=
  if b.rrd n R.RING_STATE ≠ RING_RESETTING then b
  else
    let b := b.setRun n {}
    let b := ((b.rwr n R.RING_PROD 0).rwr n R.RING_CONS 0).inc (Pg.ring n) R.RING_RST_CNT
    let b := (b.rwr n R.RING_ERR 0).rwr n R.RING_ERR_IDX 0
    (b.ringWb n).rwr n R.RING_STATE (if b.on (Pg.ring n) R.RING_EN then RING_RUNNING else RING_DISABLED)

/-- A DMA read of the ring or of its buffers ends in an error (R425). -/
def ringDmaError (b : Body) (n : Nat) : Body :=
  if b.rrd n R.RING_STATE ≠ RING_RUNNING then b else b.ringError n CAUSE_DMA (b.ringFront n)

/-! Inject rings (R432). -/

/-- The bytes of the buffers of a job, in order. -/
def gather (b : Body) (l : List (List Byte)) : List Byte :=
  l.flatMap fun e => Mem.read b.mem.host (leNat (slice e 0 8)) (leNat (slice e 8 2))

/-- The job at the front of an INJECT ring: its packet is staged and handed to the inject source of RING_GAL, or dropped. -/
def injectJob (b : Body) (n : Nat) : Body :=
  if ¬ b.ringRuns n KIND_INJECT ∨ ¬ b.dmaOk then b
  else
    let b := b.ringFetch n
    match (if b.ringRuns n KIND_INJECT then b.jobAt n else .wait) with
    | .job l =>
      let size := (l.map fun e => leNat (slice e 8 2)).foldl (· + ·) 0
      let done := fun (b : Body) (bytes : Nat) =>
        b.setRun n { (b.run n) with done := (b.run n).done ++ [(l.length, bytes)], delayed := false }
      if size < 16 + 60 ∨ 16 + 10236 < size then done (b.count Pg.hif HIF_INJ_BAD) 0
      else
        match b.poolFor 1 0 size with
        | none => done (b.count Pg.hif HIF_INJ_BAD) 0
        | some m =>
          if b.prd' m R.POOL_FREE_CNT ≠ 0 ∧ b.poolLevel m = 2 then b
          else
            match b.poolReq 1 0 size with
            | (b, .ok m i) =>
              let g := b.rrd n R.RING_GAL
              let d := b.gather l
              let x : InjPkt := { rec_ := d.take 16, data := withFcs (d.drop 16), host := true, src := n, ts := b.stamp 0,
                                  stage := [(m, i)] }
              let b := { b with pipe := { b.pipe with injQ := Sp.set [] b.pipe.injQ g (Sp.get [] b.pipe.injQ g ++ [x]) } }
              done (b.count Pg.hif HIF_INJ_PKTS) (size - 16)
            | (b, .empty _) => (b.fire Pg.hif R.HIF_EVT_NOPOOL).setRun n { (b.run n) with delayed := true }
            | (b, .noPool) => done (b.count Pg.hif HIF_INJ_BAD) 0
    | _ => b

/-- A delayed fetch tries again (R432). -/
def injectFetchRetry (b : Body) (n : Nat) : Body := if (b.run n).delayed then b.injectJob n else b

/-! Punt rings (R434 to R438). -/

/-- How the posted entries from index `k` on take `len` bytes: the entries used with the bytes in each, or none where they do not
suffice, or the index of an entry that breaks the table. -/
def puntPlan (b : Body) (n : Nat) : Nat → Nat → Nat → Except Nat (Option (List (Nat × Nat)))
  | 0, _, _ => .ok none
  | f + 1, k, len =>
    if k = b.rrd n R.RING_PROD then .ok none
    else
      let e := b.ringEntry n k
      let sz := leNat (slice e 8 2)
      if sz < 256 ∨ 16384 < sz ∨ sz % 64 ≠ 0 ∨ leNat (slice e 10 2) ≠ 0 ∨ leNat (slice e 15 1) ≠ 0 then .error k
      else if len ≤ sz then .ok (some [(k, len)])
      else
        match puntPlan b n f ((k + 1) % 2 ^ 32) (len - sz) with
        | .ok (some l) => .ok (some ((k, sz) :: l))
        | r => r

/-- Punted bytes written into the planned entries, in order. -/
def puntFill (b : Body) (n : Nat) : Bool → List (Nat × Nat) → List Byte → Body
  | _, [], _ => b
  | first, (k, len) :: t, l =>
    let a := leNat (slice (b.ringEntry n k) 0 8)
    let b := b.hostWrite a (l.take len)
    let b := b.hostWrite (b.entryAddr n k + 12) (leBytes 2 len ++ leBytes 1 (b2n first * 128 + b2n t.isEmpty * 64))
    puntFill b n false t (l.drop len)

/-- What becomes of a punt packet at its ring. -/
inductive PuntRes where
  | sent | hold | drop
deriving DecidableEq, Repr

/-- A punt packet offered to its ring: written where the ring can take it (R435), held or to be dropped where it cannot
(R436, R438). -/
def puntOffer (b : Body) (n : Nat) (hold : Bool) (bytes : List Byte) (pktBytes : Nat) : Body × PuntRes :=
  if 239 < n ∨ ¬ b.ringRuns n KIND_PUNT ∨ ¬ b.dmaOk then (b, .drop)
  else
    match b.host.arm.find? (fun e => e.1 == n) with
    | some e =>
      if b.ringLeft n = 0 then (b, if hold then .hold else .drop)
      else
        (({ b with host := { b.host with arm := b.host.arm.erase e } }).ringError n CAUSE_DMA (b.ringFront n) true, .drop)
    | none =>
      match b.puntPlan n 41 (b.ringFront n) bytes.length with
      | .error i => (b.ringError n CAUSE_ENTRY i, .drop)
      | .ok none => (b, if hold then .hold else .drop)
      | .ok (some l) =>
        let b := b.puntFill n true l bytes
        let b := b.setRun n { (b.run n) with done := (b.run n).done ++ [(l.length, pktBytes)] }
        (b.count Pg.hif HIF_PUNT_PKTS, .sent)

/-- The drop of R436. -/
def puntDropped (b : Body) (n : Nat) : Body :=
  let b := b.count Pg.hif HIF_PUNT_DROP
  let b := if n ≤ 239 then (b.count (Pg.ring n) RING_DROPS).fire (Pg.ring n) R.RING_EVT_DROP else b
  b.fire Pg.hif R.HIF_EVT_PUNT_DROP

/-- Whether the host port has room (R237, R437). -/
def hostRoom (b : Body) : Bool :=
  b.host.held.isNone && (match b.poolFor 1 0 10272 with | some m => b.poolLevel m != 2 | none => false)

/-- A held punt packet offered again. -/
def puntHeld (b : Body) (h : HeldPunt) : Body :=
  match b.puntOffer h.ring true h.bytes h.pktBytes with
  | (b, .hold) => b
  | (b, r) =>
    let b := { b with host := { b.host with held := none } }
    let b := if r = .drop then b.puntDropped h.ring else b
    b.poolFree h.pool h.buf 0x3FF

/-- A punt packet that leaves egress, its punt record in front, in queue class `cls` with flow hash `hash` (R435 to R438). -/
def puntArrive (b : Body) (cls hash : Nat) (bytes : List Byte) : Body :=
  match b.poolReq 1 0 10272 with
  | (b, .ok m i) =>
    let n := b.rd Pg.hif R.HIF_PUNT_RING cls + hash % 2 ^ b.rd Pg.hif R.HIF_PUNT_SPREAD cls
    match b.puntOffer n (b.on Pg.hif R.HIF_PUNT_HOLD cls) bytes (bytes.length - 32) with
    | (b, .hold) =>
      { b with host := { b.host with held := some { ring := n, bytes := bytes, pktBytes := bytes.length - 32, pool := m, buf := i } } }
    | (b, r) =>
      let b := if r = .drop then b.puntDropped n else b
      b.poolFree m i 0x3FF
  | (b, _) => b.count Pg.hif HIF_PUNT_NOBUF

/-! Telemetry rings (R443). -/

/-- A record of a type with its bytes from byte 4 on offered to a TELEMETRY ring: none where it is not running, or full. While
DMA is stopped the record waits in its slot (R420). -/
def telRecord (b : Body) (n type : Nat) (body : List Byte) : Option Body :=
  if 239 < n ∨ ¬ b.ringRuns n KIND_TEL then none
  else
    let x := b.run n
    let e := leBytes 1 type ++ [0] ++ leBytes 2 body.length ++ body ++ List.replicate (60 - body.length) 0
    if b.ringLeft n ≤ x.tel.length then none
    else if b.dmaOk ∧ x.tel = [] then
      some ((b.hostWrite (b.entryAddr n (b.ringFront n)) e).setRun n { x with done := x.done ++ [(1, 0)] })
    else some (b.setRun n { x with tel := x.tel ++ [((b.ringFront n + x.tel.length) % 2 ^ 32, e)] })

/-- Records that waited for DMA are written. -/
def telFlush (b : Body) (n : Nat) : Body :=
  let x := b.run n
  if ¬ b.dmaOk ∨ x.tel = [] ∨ ¬ b.ringRuns n KIND_TEL then b
  else
    let b := x.tel.foldl (fun b e => b.hostWrite (b.entryAddr n e.1) e.2) b
    b.setRun n { x with tel := [], done := x.done ++ x.tel.map fun _ => (1, 0) }

/-- The two-step timestamp of a packet that a host ring injected (R433): `t` is the egress time in 2^-16 ns. -/
def tsToRing (b : Body) (ring port token t : Nat) : Body :=
  let body := leBytes 4 token ++ leBytes 2 (port * 64) ++ leBytes 2 ring ++ timeBytes t ++ leBytes 2 (t % 65536)
  match b.telRecord (b.rrd ring R.RING_AUX) 1 body with
  | some b => b
  | none => (b.count Pg.hif HIF_TEL_DROP).fire (Pg.rew (portGal port)) R.REW_EVT_PTP

/-! Endpoint events (R420). -/

/-- The link leaves L0 without a reset. -/
def hostLinkDown (b : Body) : Body :=
  if ¬ b.on Pg.hif R.HIF_LINK_UP then b
  else
    let b := (b.wr Pg.hif R.HIF_LINK_UP 0).fire Pg.hif R.HIF_EVT_LINK
    let b := (List.range 240).foldl (fun b n =>
      if b.rrd n R.RING_STATE = RING_RUNNING then
        let b := b.ringStop n RING_STOPPED CAUSE_LINK (b.rrd n R.RING_CONS)
        b.setRun n { (b.run n) with tel := [], done := [] }
      else b) b
    (b.count Pg.hif HIF_LINK_DOWN).fault Pg.hif R.HIF_FLT_LINK_DOWN

/-- The link returns to L0. -/
def hostLinkUp (b : Body) (speed width : Nat) : Body :=
  let b := (b.wr Pg.hif R.HIF_SPEED speed).wr Pg.hif R.HIF_WIDTH width
  if b.on Pg.hif R.HIF_LINK_UP then b
  else ((b.wr Pg.hif R.HIF_LINK_UP 1).fire Pg.hif R.HIF_EVT_LINK).vecAll

/-- DMA may have resumed: waiting records, jobs to fetch and pending vectors go out. -/
def dmaResume (b : Body) : Body :=
  if b.dmaOk then ((List.range 240).foldl (fun b n => (b.telFlush n).ringFetch n) b).vecAll else b

/-- A host configuration write (R420). -/
def pcieConfig (b : Body) (c : PcieCfg) : Body :=
  match c with
  | .bme on => (b.wr Pg.hif R.HIF_BME (b2n on)).dmaResume
  | .power d3 => ({ b with host := { b.host with d3 := d3 } }).dmaResume
  | .bar n a => { b with host := { b.host with bars := Sp.set 0 b.host.bars n a } }

/-- A host write to the MSI-X table (R419): dwords 0 and 1 are the address, 2 the data, 3 the vector control. -/
def msixWrite (b : Body) (w : MsixWrite) : Body :=
  match w with
  | .fnMask on => ({ b with host := { b.host with fnMask := on } }).vecAll
  | .dword v i x =>
    let o := b.vec v
    let y := match i with
      | 0 => { o with addr := o.addr / 2 ^ 32 * 2 ^ 32 + x }
      | 1 => { o with addr := o.addr % 2 ^ 32 + 2 ^ 32 * x }
      | 2 => { o with data := x }
      | _ => { o with masked := bitOn x 0 }
    ({ b with host := { b.host with vecs := Sp.set {} b.host.vecs v y } }).vecTry v

/-- HIF_INJ_GO (R444). -/
def hifInject (b : Body) : Body :=
  let k := b.rd Pg.hif R.HIF_INJ_KIND
  let n := b.rd Pg.hif R.HIF_INJ_RING
  if k = 3 ∨ 239 < n then b
  else { b with host := { b.host with arm := (n, k) :: b.host.arm.filter (fun e => e.1 != n) } }

end Body

end Sys2Proof.Machine
end

