-- ==== Sys2Proof/Machine/Icu.lean ====
section
/-! DEFINITION. Delivery of interrupts (R448 to R456): targets, delivery, acknowledge, masks, and requeue. -/

namespace Sys2Proof.Machine

/-- The code of a source's state (R449). -/
def SrcState.code : SrcState → Nat
  | .idle => 0 | .pending => 1 | .active => 2 | .activePending => 3

namespace Body

/-- Thread `th` (8 × core + thread) of the Grotto. -/
def thr (b : Body) (th : Nat) : Thread := Sp.get {} b.grt.ths th
def setThr (b : Body) (th : Nat) (x : Thread) : Body := { b with grt := { b.grt with ths := Sp.set {} b.grt.ths th x } }

/-- A latched event bit of a thread set (R367). -/
def setBit (b : Body) (th n : Nat) : Body :=
  let x := b.thr th
  b.setThr th { x with pend := setBitField x.pend n n 1 }

/-- Whether target `t` is available in a bank (R448). -/
def tgtAvail (b : Body) (bank t : Nat) : Bool :=
  let pg := Pg.icu bank
  if t < 32 then bitOn (b.rd pg R.ICU_TGT_EN_LO) t && !bitOn (b.rd pg R.ICU_TGT_SLEEP_LO) t
  else bitOn (b.rd pg R.ICU_TGT_EN_HI) (t - 32) && !bitOn (b.rd pg R.ICU_TGT_SLEEP_HI) (t - 32)

/-- The target that a source is delivered to: the first available one of its set after the last, in ascending order and
wrapping (R450). -/
def icuTarget (b : Body) (bank : Nat) (x : IcuSrc) : Option Nat :=
  ((List.range 64).map fun i => (x.lastTgt + 1 + i) % 64).find? fun t => bitOn x.tgt t && b.tgtAvail bank t

/-- Whether a pending source may be delivered as far as its mask and interval go (R450, R451). -/
def icuReady (b : Body) (x : IcuSrc) : Bool :=
  x.st == .pending && !x.mask &&
  (match x.lastAt with | none => true | some a => decide (a + 100 * x.minInt ≤ b.clk))

/-- A source without an available target is counted once for its wait (R452). -/
def icuNoTarget (b : Body) (bank s : Nat) : Body :=
  let x := b.icu bank s
  if x.waiting then b
  else ((b.setIcu bank s { x with waiting := true }).sat (Pg.icu bank) R.ICU_NOTGT).fire Pg.lamp R.LAMP_EVT_NOTGT

/-- Source `s` delivered to target `t` (R448, R449). -/
def icuSend (b : Body) (bank s t : Nat) : Body :=
  let x := b.icu bank s
  let b := b.setIcu bank s { x with st := .active, lastTgt := t, deliv := (x.deliv + 1) % 2 ^ 32, lastAt := some b.clk,
                                    waiting := false }
  let b := b.sat (Pg.icu bank) R.ICU_DELIV
  if t < 32 then b.vecNotify (2 * t + bank) else b.setBit (8 * (t - 32)) 26

/-- Whether a bank has delivered in the present D2 clock: it delivers at most one source in each (R450). -/
def icuBusy (b : Body) (bank : Nat) : Bool := (b.icuSrcs bank).any fun e => e.2.lastAt == some b.clk

/-- One delivery of a bank: the lowest source that can be (R450). Sources below it that find no target begin their wait. -/
def icuDeliver (b : Body) (bank : Nat) : Body :=
  if b.icuBusy bank then b else
  let ready := (b.icuSrcs bank).filter fun e => b.icuReady e.2
  match ready.find? fun e => (b.icuTarget bank e.2).isSome with
  | none => ready.foldl (fun b e => b.icuNoTarget bank e.1) b
  | some e =>
    let b := (ready.filter fun f => f.1 < e.1).foldl (fun b f => b.icuNoTarget bank f.1) b
    match b.icuTarget bank (b.icu bank e.1) with
    | some t => b.icuSend bank e.1 t
    | none => b

/-- ICU_ACK (R449). -/
def icuAck (b : Body) (bank t s : Nat) : Body :=
  let x := b.icu bank s
  let bad := (b.sat (Pg.icu bank) R.ICU_BADACK).fire (Pg.icu bank) R.ICU_EVT_BADACK
  if x.lastTgt ≠ t then bad
  else match x.st with
    | .active => b.setIcu bank s { x with st := if b.icuInput bank (0x1000 * s) then .pending else .idle }
    | .activePending => b.setIcu bank s { x with st := .pending }
    | _ => bad

/-- ICU_MASK_SET and ICU_MASK_CLR (R451). -/
def icuMask (b : Body) (bank s : Nat) (on : Bool) : Body := b.setIcu bank s { (b.icu bank s) with mask := on }

/-- A target of a bank has become unavailable: what is delivered to it goes back to PENDING (R449, R452). -/
def icuRequeue (b : Body) (bank t : Nat) : Body :=
  ((b.icuSrcs bank).filter fun e => (e.2.st == .active || e.2.st == .activePending) && e.2.lastTgt == t).foldl
    (fun b e => ((b.setIcu bank e.1 { e.2 with st := .pending }).sat (Pg.icu bank) R.ICU_REQUEUE).fire (Pg.icu bank)
      R.ICU_EVT_REQUEUE) b

/-- A change of the registers that make targets of a bank available: those that were and no longer are lose what is delivered
to them. -/
def icuTargets (b : Body) (bank : Nat) (f : Body → Body) : Body :=
  let lost := (List.range 64).filter fun t => b.tgtAvail bank t && !(f b).tgtAvail bank t
  lost.foldl (fun b t => b.icuRequeue bank t) (f b)

/-- The source that ICU_NEXT of a target shows (R454). -/
def icuNext (b : Body) (bank t : Nat) : Option Nat :=
  ((b.icuSrcs bank).find? fun e => (e.2.st == .active || e.2.st == .activePending) && e.2.lastTgt == t).map (·.1)

/-- ICU_FLT_STATE by injection (R455): the lowest delivered source loses its state and is pending again. -/
def icuStateFault (b : Body) (bank : Nat) : Body :=
  match (b.icuSrcs bank).find? fun e => e.2.st == .active || e.2.st == .activePending with
  | some e => b.setIcu bank e.1 { e.2 with st := .pending }
  | none => b

end Body

end Sys2Proof.Machine
end

