-- ==== Sys2Proof/Machine/Chan.lean ====
section
/-! DEFINITION. Grotto threads, their states, commands and faults, local memory, and channels with the endpoints the engine
binds (R356 to R383). -/

namespace Sys2Proof.Machine

/-! Thread states (R364) and causes (R377). -/
def TH_IDLE : Nat := 0
def TH_RUN : Nat := 1
def TH_WAIT : Nat := 2
def TH_HALTED : Nat := 3
def TH_STOPPED : Nat := 4
def CS_ILLEGAL : Nat := 1
def CS_MEM_ACCESS : Nat := 2
def CS_MEM_ALIGN : Nat := 3
def CS_MEM_UE : Nat := 4
def CS_REG_DENIED : Nat := 5
def CS_CHANNEL : Nat := 6
def CS_REGFILE : Nat := 7
def CS_DEADLOCK : Nat := 8
def CS_COMMAND : Nat := 9

/-! Fields of a channel entry (R372). -/
def chValid (e : Nat) : Bool := bitOn e 31
def chS (e : Nat) : Nat := bitField e 27 24
def chN (e : Nat) : Nat := bitField e 23 20
def chBase (e : Nat) : Nat := bitField e 58 32
def chWr (e : Nat) : Nat := bitField e 95 64
def chRd (e : Nat) : Nat := bitField e 127 96
/-- The bytes of a slot, and the number of slots. -/
def chSlot (e : Nat) : Nat := 64 * 2 ^ chS e
def chCount (e : Nat) : Nat := 2 ^ chN e
/-- The kind, core and mask of an endpoint word. -/
def epKind (w : Nat) : Nat := bitField w 31 30
def epCore (w : Nat) : Nat := bitField w 12 8
def epMask (w : Nat) : Nat := w % 256
/-- Whether thread `th` is among the threads of an endpoint word. -/
def epHas (w th : Nat) : Bool := epKind w == 1 || (epKind w == 0 && epCore w == th / 8 && bitOn (epMask w) (th % 8))

/-- The Grotto local memory address of a thread's slice (R359). -/
def sliceBase (th : Nat) : Nat := th / 8 * 0x400000 + th % 8 * 0x80000

/-- Whether thread `th` is a customer thread (R25). -/
def isCust (th : Nat) : Bool := Master.isCustomer (0x100 + th)

namespace Body

/-- A field of a thread's block on core page 1. -/
def trd (b : Body) (th : Nat) (f : Fld) : Nat := b.rd (Pg.core (th / 8) 1) f (th % 8)
def twr (b : Body) (th : Nat) (f : Fld) (v : Nat) : Body := b.wr (Pg.core (th / 8) 1) f v (th % 8)

/-- The state of a thread. -/
def tst (b : Body) (th : Nat) : Nat := b.trd th R.GRT_TH_STATE

/-- Counter `n` of a thread, on core page 3 (R388). -/
def tcount (b : Body) (th n : Nat) : Body := b.count (Pg.core (th / 8) 3) (4 * (th % 8) + n)

/-- The sleep bit of a core's ICU target brought up to date in both banks (R379, R448). -/
def coreSleep (b : Body) (c : Nat) : Body :=
  let st := b.tst (8 * c)
  let sleep := b.grt.restarting.contains c || (st != TH_RUN && st != TH_WAIT)
  [0, 1].foldl (fun b bank =>
    let pg := Pg.icu bank
    b.icuTargets bank fun b => b.wr pg R.ICU_TGT_SLEEP_HI (setBitField (b.rd pg R.ICU_TGT_SLEEP_HI) c c (b2n sleep))) b

/-- The state of a thread moved: the conditions of the deadlock detector count anew (R380). -/
def tmove (b : Body) (th st : Nat) : Body :=
  let b := (b.unmark (Mk.deadlock (th / 8))).twr th R.GRT_TH_STATE st
  if th % 8 = 0 then b.coreSleep (th / 8) else b

/-- The deadlock detector of a core may fire again (R380). -/
def dlRearm (b : Body) (c : Nat) : Body := { b with grt := { b.grt with dlFired := b.grt.dlFired.erase c } }

/-- A thread has issued an instruction, whether it completes or faults: for one other than thread 0 the detector of its core may
fire again (R380). -/
def dlIssue (b : Body) (th : Nat) : Body := if th % 8 = 0 then b else b.dlRearm (th / 8)

/-- The state of a thread moved by a command; one that changes it lets the deadlock detector fire again (R380). -/
def cmdMove (b : Body) (th st : Nat) : Body := if b.tst th = st then b.tmove th st else (b.tmove th st).dlRearm (th / 8)

/-! Local memory (R363). -/

/-- Bytes written to local memory; a word with an uncorrectable error is good again once it is written. -/
def grtWrite (b : Body) (a : Nat) (l : List Byte) : Body :=
  { b with mem := { b.mem with grt := Mem.write b.mem.grt a l },
           grt := { b.grt with bad := b.grt.bad.filter fun w => w < a / 8 || (a + l.length - 1) / 8 < w } }

/-- Bytes of local memory. -/
def grtBytes (b : Body) (a n : Nat) : List Byte := Mem.read b.mem.grt a n

/-- Whether some word of a range has an uncorrectable error. -/
def grtBad (b : Body) (a n : Nat) : Bool := b.grt.bad.any fun w => decide (a / 8 ≤ w ∧ w ≤ (a + n - 1) / 8)

/-! Channels (R370). -/

/-- The entry of a channel, and its lists. -/
def chEnt (b : Body) (ch : Nat) : Nat := b.ent Tbl.chan ch
def chan (b : Body) (ch : Nat) : Chan := Sp.get {} b.grt.chans ch

/-- Whether the receiver of Grotto port 520 + g has room (R373). -/
def grtRoom (b : Body) (g : Nat) : Bool :=
  b.on (Pg.cplx 0) R.GRT_PORT_EN g && !(b.chan (b.rd (Pg.cplx 0) R.GRT_PORT_CH g)).free.isEmpty

/-- The lists of a channel set. -/
def setChan (b : Body) (ch : Nat) (x : Chan) : Body :=
  { b with grt := { b.grt with chans := Sp.set {} b.grt.chans ch x } }

/-- The address of a slot. -/
def slotAddr (b : Body) (ch slot : Nat) : Nat := chBase (b.chEnt ch) + slot * chSlot (b.chEnt ch)

/-- A slot that returns to the tail of the free list. -/
def slotFree (b : Body) (ch slot : Nat) : Body :=
  let x := b.chan ch
  b.setChan ch { x with free := x.free ++ [slot] }

/-- The slot at the head of the free list taken. -/
def slotTake (b : Body) (ch : Nat) : Option (Nat × Body) :=
  match (b.chan ch).free with
  | [] => none
  | s :: rest => some (s, b.setChan ch { (b.chan ch) with free := rest })

/-- A slot committed with its length. -/
def slotCommit (b : Body) (ch slot len : Nat) : Body :=
  let x := b.chan ch
  b.setChan ch { x with ready := x.ready ++ [(slot, len)], commits := (x.commits + 1) % 2 ^ 32 }

/-- A message discarded or a reservation abandoned: its slot returns and is counted (R371, R383). -/
def slotAbandon (b : Body) (ch slot : Nat) : Body :=
  let b := b.slotFree ch slot
  let x := b.chan ch
  b.setChan ch { x with abandons := (x.abandons + 1) % 2 ^ 32 }

/-! Windows (R370, R371). -/

/-- Window `w` of a thread. -/
def win' (b : Body) (th w : Nat) : Win := Sp.get {} (b.thr th).wins w
def setWin (b : Body) (th w : Nat) (x : Win) : Body :=
  let t := b.thr th
  b.setThr th { t with wins := Sp.set {} t.wins w x }

/-- The lowest free window of a thread. -/
def freeWin (b : Body) (th : Nat) : Option Nat := (List.range 4).find? fun w => (b.win' th w).st == 0

/-- The 32-bit error result of R371. -/
def chErr (code : Nat) : Nat := 2 ^ 31 + code * 2 ^ 28

/-- RESERVE of a channel by a thread: the result, with code 1 where the channel is full (R371). -/
def chReserve (b : Body) (th ch : Nat) : Body × Nat :=
  if ¬ chValid (b.chEnt ch) then (b, chErr 3)
  else if ¬ epHas (chWr (b.chEnt ch)) th then (b, chErr 4)
  else match b.freeWin th with
    | none => (b, chErr 2)
    | some w =>
      match b.slotTake ch with
      | none => (b.tcount th 3, chErr 1)
      | some (s, b) => (b.setWin th w { st := 1, ch := ch, slot := s, len := 0 }, w * 2 ^ 26)

/-- ACQUIRE of a channel by a thread (R371). -/
def chAcquire (b : Body) (th ch : Nat) : Body × Nat :=
  if ¬ chValid (b.chEnt ch) then (b, chErr 3)
  else if ¬ epHas (chRd (b.chEnt ch)) th then (b, chErr 4)
  else match b.freeWin th with
    | none => (b, chErr 2)
    | some w =>
      let x := b.chan ch
      match x.ready with
      | [] => (b, chErr 1)
      | (s, len) :: rest =>
        ((b.setChan ch { x with ready := rest }).setWin th w { st := 2, ch := ch, slot := s, len := len },
          w * 2 ^ 26 + len)

/-- COMMIT of window `w` with a length; none where it faults (R371). -/
def chCommit (b : Body) (th w len : Nat) : Option Body :=
  let x := b.win' th w
  if x.st ≠ 1 ∨ len = 0 ∨ chSlot (b.chEnt x.ch) < len then none
  else some ((b.slotCommit x.ch x.slot len).setWin th w {})

/-- RELEASE of window `w`; none where it faults (R371). -/
def chRelease (b : Body) (th w : Nat) : Option Body :=
  let x := b.win' th w
  match x.st with
  | 0 => none
  | 3 => some (b.setWin th w {})
  | _ => some ((b.slotFree x.ch x.slot).setWin th w {})

/-- What RESTART and KILL do to a window (R371). -/
def winDrop (b : Body) (th w : Nat) : Body :=
  let x := b.win' th w
  match x.st with
  | 0 => b
  | 1 => (b.slotFree x.ch x.slot).setWin th w {}
  | 2 => (b.slotAbandon x.ch x.slot).setWin th w {}
  | _ => b.setWin th w {}

/-- The debugger's ABANDON of a window; none where it is free or abandoned (R383). -/
def winAbandon (b : Body) (th w : Nat) : Option Body :=
  let x := b.win' th w
  if x.st = 1 ∨ x.st = 2 then some ((b.slotAbandon x.ch x.slot).setWin th w { x with st := 3 }) else none

/-! Events and waits (R367 to R369). -/

/-- Whether the condition of a bind holds. -/
def bindHolds (b : Body) (w : Nat) : Bool :=
  let ch := w % 1024
  bitOn w 31 && chValid (b.chEnt ch) &&
  (if bitOn w 30 then !(b.chan ch).free.isEmpty else !(b.chan ch).ready.isEmpty)

/-- The level bits of a thread. -/
def levelBits (b : Body) (th : Nat) : Nat :=
  (List.range 8).foldl (fun v k => v + b2n (b.bindHolds (Sp.get 0 (b.thr th).binds k)) * 2 ^ (16 + k)) 0

/-- The pending bits of a thread. -/
def pendBits (b : Body) (th : Nat) : Nat := (b.thr th).pend + b.levelBits th

/-- The effective wait mask of a thread (R368). -/
def effMask (b : Body) (th : Nat) : Nat :=
  let m := (b.thr th).wmask
  if th % 8 = 0 then setBitField m 28 28 1 else m

/-- A general register; G0 reads zero. -/
def greg (b : Body) (th r : Nat) : Nat := if r = 0 then 0 else Sp.get 0 (b.thr th).regs r

/-- A general register written; G0 discards (R356). -/
def setG (b : Body) (th r v : Nat) : Body :=
  if r = 0 then b
  else
    let x := b.thr th
    b.setThr th { x with regs := Sp.set 0 x.regs r (v % 2 ^ 64) }

/-- A 4-byte value as a load leaves it in a register. -/
def ext32 (sx : Bool) (v : Nat) : Nat := if sx then encSigned 64 (signed 32 v) else v % 2 ^ 32

/-- The program counter moved to the next instruction. -/
def nextPc (b : Body) (th : Nat) : Body :=
  let x := b.thr th
  b.setThr th { x with pc := (x.pc + 4) % 2 ^ 64 }

/-- A blocking load carried out where its condition holds, its wait ended (R368, R369, R371); none where it must wait. -/
def waitTry (b : Body) (th : Nat) (w : Waiting) : Option Body :=
  let fin := fun (b : Body) (v : Nat) => some ((b.setG th w.d v).nextPc th)
  match w.on with
  | .events =>
    let v := b.pendBits th &&& b.effMask th
    if v = 0 then none
    else
      let x := b.thr th
      fin (b.setThr th { x with pend := x.pend - (x.pend &&& v) }) v
  | .reserve ch =>
    if chValid (b.chEnt ch) && epHas (chWr (b.chEnt ch)) th && (b.freeWin th).isSome && (b.chan ch).free.isEmpty then none
    else
      let (b, v) := b.chReserve th ch
      fin b (ext32 w.sx v)
  | .acquire ch =>
    if chValid (b.chEnt ch) && epHas (chRd (b.chEnt ch)) th && (b.freeWin th).isSome && (b.chan ch).ready.isEmpty then none
    else
      let (b, v) := b.chAcquire th ch
      fin b (ext32 w.sx v)

/-! Thread commands (R364 to R366) and faults (R377). -/

/-- A STEP that ends: the thread is stopped again and the debugger's operation completes (R381). -/
def stepEnd (b : Body) (th prior : Nat) : Body :=
  let x := b.thr th
  let b := b.setThr th { x with steps := none }
  let b := (b.twr th R.GRT_TH_PRIOR prior).tmove th TH_STOPPED
  let pg := Pg.core (th / 8) 2
  ((b.wr pg R.GRT_DBG_BUSY 0).wr pg R.GRT_DBG_RC 0).setBit th 29

/-- A STEP cut short by a command: the debugger is free again. -/
def stepDrop (b : Body) (th : Nat) : Body :=
  if (b.thr th).steps.isSome then b.wr (Pg.core (th / 8) 2) R.GRT_DBG_BUSY 0 else b

/-- A customer thread has halted: bit 27 of its thread 0 (R367), whose firmware is to act on it (R378). -/
def haltNote (b : Body) (th : Nat) : Body :=
  ({ b with grt := { b.grt with halts := insertNat th b.grt.halts } }).setBit (th / 8 * 8) 27

/-- A fault at the instruction of a thread (R377); `at_` tells the access that failed (R461). -/
def tfault (b : Body) (th cause addr : Nat) (at_ : FltInfo) : Body :=
  let c := th / 8
  let x := b.thr th
  let b := (b.twr th R.GRT_TH_CAUSE cause).twr th R.GRT_TH_FADDR addr
  let b := (b.tcount th 2).dlIssue th
  let b := match x.steps with
    | some _ => (b.stepEnd th TH_RUN)
    | none => b
  let b := (b.setThr th { (b.thr th) with wait := none, steps := none }).tmove th TH_HALTED
  let info : FltInfo := { at_ with master := 0x100 + th, detail := cause, inj := cause == CS_MEM_UE || cause == CS_REGFILE }
  if isCust th then (b.haltNote th).fault (Pg.core c 0) R.GRT_FLT_THREAD info
  else b.fault (Pg.core c 0) R.GRT_FLT_SUPV info

/-- Windows abandoned, binds, timer and events cleared, registers zero, PC at the entry (R364). -/
def tclear (b : Body) (th : Nat) : Body :=
  let b := ((List.range 4).foldl (fun b w => b.winDrop th w) (b.stepDrop th)).asmEndOf (0x100 + th)
  let b := { b with grt := { b.grt with halts := b.grt.halts.erase th } }
  let x := b.thr th
  b.setThr th { x with regs := [], pc := b.trd th R.GRT_TH_ENTRY, pend := 0, binds := [], timer := none, wait := none,
                       steps := none }

/-- RESTART of a thread. -/
def trestart (b : Body) (th : Nat) : Body := (b.tclear th).cmdMove th TH_RUN

/-- KILL of a thread. -/
def tkill (b : Body) (th : Nat) : Body := (b.tclear th).cmdMove th TH_IDLE

/-- Whether a master may command a thread (R365). -/
def tcmdOk (th master : Nat) : Bool :=
  if isCust th then master == Master.host || master == Master.jtag || master == Master.thread (th / 8) 0
  else master == Master.jtag

/-- A command that its master may give, or GRT_EVT_DENIED (R365). -/
def tcmd (b : Body) (th master : Nat) (f : Body → Body) : Body :=
  if tcmdOk th master then f b else b.fire (Pg.core (th / 8) 0) R.GRT_EVT_DENIED

/-- An IDLE thread runs from its entry with zeroed registers (R364). -/
def tstart (b : Body) (th : Nat) : Body :=
  let x := b.thr th
  (b.setThr th { x with regs := [], pc := b.trd th R.GRT_TH_ENTRY, wait := none, steps := none }).cmdMove th TH_RUN

/-- START (R364). It is ignored for a thread that a load writes (R402). -/
def threadStart (b : Body) (th master : Nat) : Body :=
  b.tcmd th master fun b =>
    if b.tst th ≠ TH_IDLE ∨ b.boot.tgts.contains th then b.fire (Pg.core (th / 8) 0) R.GRT_EVT_BADCFG
    else b.tstart th

def threadRestart (b : Body) (th master : Nat) : Body := b.tcmd th master fun b => b.trestart th
def threadKill (b : Body) (th master : Nat) : Body := b.tcmd th master fun b => b.tkill th

/-- HALT with a cause. A halted customer thread sets bit 27 of thread 0 (R367). -/
def thalt (b : Body) (th cause : Nat) : Body :=
  if b.tst th = TH_IDLE then b
  else
    let b := (b.stepDrop th).setThr th { (b.thr th) with wait := none, steps := none }
    let b := (b.twr th R.GRT_TH_CAUSE cause).cmdMove th TH_HALTED
    if isCust th then b.haltNote th else b

/-- HALT (R364). -/
def threadHalt (b : Body) (th master : Nat) : Body := b.tcmd th master fun b => b.thalt th CS_COMMAND

/-- GRT_CORE_RESTART (R366): from the host or the JTAG debugger; cores 30 and 31 restart together. -/
def coreRestart (b : Body) (c master : Nat) : Body :=
  if master ≠ Master.host ∧ master ≠ Master.jtag then b
  else
    (if c = 30 ∨ c = 31 then [30, 31] else [c]).foldl (fun b c =>
      let b := { b with grt := { b.grt with restarting := insertNat c b.grt.restarting } }
      let b := (List.range 8).foldl (fun b t =>
        let th := 8 * c + t
        if isCust th then b.tkill th else b.trestart th) b
      b.coreSleep c) b

/-- A core restart has completed; cores 30 and 31 together bring the Governor back (R32, R366). -/
def coreRestartDone (b : Body) (c : Nat) : Body :=
  if ¬ b.grt.restarting.contains c then b
  else
    let cs := if c = 30 ∨ c = 31 then [30, 31] else [c]
    let b := cs.foldl (fun b c => ({ b with grt := { b.grt with restarting := b.grt.restarting.erase c } }).coreSleep c) b
    if c = 30 ∨ c = 31 then b.govRestart else b

/-- A waiting thread whose wait is satisfied (R369). -/
def threadWake (b : Body) (th : Nat) : Body :=
  if b.tst th ≠ TH_WAIT then b
  else match (b.thr th).wait with
    | none => b
    | some w =>
      match b.waitTry th w with
      | none => b
      | some b => ((b.setThr th { (b.thr th) with wait := none }).tmove th TH_RUN)

/-- A thread's timer expires at its time (R367). -/
def timerExpire (b : Body) (th : Nat) : Body :=
  match (b.thr th).timer with
  | none => b
  | some t => if b.clk < t then b else (b.setThr th { (b.thr th) with timer := none }).setBit th 24

/-! The supervisor's policies (R378, R380). -/

/-- Whether thread 0 of a core can act. -/
def supvRuns (b : Body) (c : Nat) : Bool := b.tst (8 * c) == TH_RUN || b.tst (8 * c) == TH_WAIT

/-- A latched bit of a thread taken by its firmware. -/
def takeBit (b : Body) (th n : Nat) : Body :=
  let x := b.thr th
  b.setThr th { x with pend := setBitField x.pend n n 0 }

/-- Thread 0 acts on a customer thread that has halted (R378): its WAIT has returned bit 27, which may stand for several. -/
def faultPolicy (b : Body) (th : Nat) : Body :=
  let c := th / 8
  let cause := b.trd th R.GRT_TH_CAUSE
  if ¬ b.supvRuns c ∨ ¬ isCust th ∨ b.tst th ≠ TH_HALTED ∨ ¬ b.grt.halts.contains th then b
  else
    let b : Body := { b with grt := { b.grt with halts := b.grt.halts.erase th } }
    let b := b.takeBit (8 * c) 27
    if b.rd (Pg.core c 0) R.GRT_POL_FLT ≠ 1 ∨ cause = 0 ∨ 7 < cause then b
    else
      let recent := (b.thr th).restarts.filter fun t => decide (b.clk < t + 1000000000)
      if recent.length < b.rd (Pg.core c 0) R.GRT_RESTART_MAX then
        (b.setThr th { (b.thr th) with restarts := recent ++ [b.clk] }).trestart th
      else b.fire (Pg.core c 0) R.GRT_EVT_GIVEUP

/-- Thread 0 passes an ICU delivery on (R378). -/
def icuForward (b : Body) (c : Nat) : Body :=
  let pg := Pg.core c 0
  if ¬ b.supvRuns c ∨ ¬ b.on pg R.GRT_ICU_EN ∨ ¬ bitOn (b.thr (8 * c)).pend 26 then b
  else (b.takeBit (8 * c) 26).setBit (8 * c + b.rd pg R.GRT_ICU_THREAD) (b.rd pg R.GRT_ICU_BIT)

/-- Whether a channel condition can only come true on core `c` (R380): for NOT_EMPTY its writers, for NOT_FULL its readers. -/
def condOnCore (b : Body) (c ch : Nat) (notFull : Bool) : Bool :=
  let w := if notFull then chRd (b.chEnt ch) else chWr (b.chEnt ch)
  epKind w == 0 && epCore w == c

/-- Whether the wait of a thread is closed (R380). -/
def waitClosed (b : Body) (th : Nat) : Bool :=
  let x := b.thr th
  let c := th / 8
  match x.wait with
  | none => false
  | some w =>
    match w.on with
    | .reserve ch => b.condOnCore c ch true
    | .acquire ch => b.condOnCore c ch false
    | .events =>
      let m := b.effMask th
      !(bitOn m 24 && x.timer.isSome) && !bitOn m 25 &&
      (List.range 8).all fun k =>
        let bd := Sp.get 0 x.binds k
        !(bitOn m (16 + k) && bitOn bd 31) || b.condOnCore c (bd % 1024) (bitOn bd 30)

/-- The threads that the detector judges as customers: 1 to 7 of a core (R380). -/
def judged (c : Nat) : List Nat := (List.range 7).map fun i => 8 * c + 1 + i

/-- The detector of a core fires with its full effect (R380). -/
def deadlockFire (b : Body) (c : Nat) (inj : Bool := false) : Body :=
  let ws := (judged c).filter fun th => b.tst th == TH_WAIT
  let b := b.setBit (8 * c) 28
  let b := b.wr (Pg.core c 0) R.GRT_DL_THREADS ((ws.map fun th => 2 ^ (th % 8)).foldl (· + ·) 0)
  let b := (b.count (Pg.core c 3) 32).fault (Pg.core c 0) R.GRT_FLT_DEADLOCK { access := 0, space := 7, master := 0x100 + 8 * c, detail := c, inj := inj }
  let b := { b with grt := { b.grt with dlFired := insertNat c b.grt.dlFired } }
  if b.tst (8 * c) = TH_HALTED ∨ b.tst (8 * c) = TH_IDLE then b.fire (Pg.core c 0) R.GRT_EVT_DEADLOCK else b

/-- Whether the conditions of R380 hold on a core. -/
def dlQuiet (b : Body) (c : Nat) : Bool :=
  let st := b.tst (8 * c)
  let quiet := (judged c).all fun th =>
    let s := b.tst th
    s == TH_HALTED || s == TH_IDLE || (s == TH_WAIT && b.waitClosed th)
  quiet && (judged c).any (fun th => b.tst th == TH_WAIT) && (st == TH_WAIT || st == TH_HALTED || st == TH_IDLE)

/-- Since when they have held, brought up to date. -/
def dlWatch (b : Body) (c : Nat) : Body := b.markWhile (Mk.deadlock c) (b.dlQuiet c)

/-- GRT_DL_CYC clocks of D14 in ns: less than 256 acts as 256. -/
def dlTime (b : Body) (c : Nat) : Nat := ceilDiv (2 * max 256 (b.rd (Pg.core c 0) R.GRT_DL_CYC)) 3

/-- The conditions of R380 have held for GRT_DL_CYC clocks. -/
def deadlockDetect (b : Body) (c : Nat) : Body :=
  if b.dlQuiet c && b.lasted (Mk.deadlock c) (b.dlTime c) && !b.grt.dlFired.contains c then b.deadlockFire c else b

/-- Thread 0 applies GRT_POL_DL (R380). -/
def deadlockPolicy (b : Body) (c : Nat) : Body :=
  if ¬ b.supvRuns c ∨ ¬ bitOn (b.thr (8 * c)).pend 28 then b
  else
    let b := b.takeBit (8 * c) 28
    let v := b.rd (Pg.core c 0) R.GRT_DL_THREADS
    let ws := (judged c).filter fun th => bitOn v (th % 8) && b.tst th == TH_WAIT
    match b.rd (Pg.core c 0) R.GRT_POL_DL with
    | 1 => ws.foldl (fun b th => b.trestart th) b
    | 2 => ws.foldl (fun b th => b.thalt th CS_DEADLOCK) b
    | _ => b

/-! The debugger (R381 to R383). -/

/-- The result of a debugger operation on a thread: RC, and bit 29 where it completed. -/
def dbgRc (b : Body) (th rc : Nat) : Body :=
  let b := b.wr (Pg.core (th / 8) 2) R.GRT_DBG_RC rc
  if rc = 0 then b.setBit th 29 else b

/-- A debugger operation that its master may make (R381). -/
def dbg (b : Body) (th master : Nat) (f : Body → Body) : Body :=
  let pg := Pg.core (th / 8) 2
  if b.on pg R.GRT_DBG_BUSY then b
  else if master = Master.jtag ∨ (master = Master.host ∧ isCust th) then f b
  else (b.wr pg R.GRT_DBG_RC 2).fire (Pg.core (th / 8) 0) R.GRT_EVT_DENIED

/-- An operation that needs a STOPPED thread. -/
def dbgStopped (b : Body) (th master : Nat) (f : Body → Body) : Body :=
  b.dbg th master fun b => if b.tst th = TH_STOPPED then f b else b.dbgRc th 1

/-- STOP. A blocking load in progress is issued again on RESUME: the program counter still names it. -/
def dbgStop (b : Body) (th master : Nat) : Body :=
  b.dbg th master fun b =>
    let st := b.tst th
    if st = TH_RUN ∨ st = TH_WAIT then
      ((b.twr th R.GRT_TH_PRIOR st).cmdMove th TH_STOPPED).dbgRc th 0
    else b.dbgRc th 0

/-- RESUME. A wait is evaluated again. -/
def dbgResume (b : Body) (th master : Nat) : Body :=
  b.dbg th master fun b =>
    if b.tst th ≠ TH_STOPPED then b.dbgRc th 1
    else
      let p := b.trd th R.GRT_TH_PRIOR
      ((b.cmdMove th p).dbgRc th 0).threadWake th

/-- STEP: the thread may execute GRT_DBG_COUNT instructions. A wait that it stopped in is issued again as its first. -/
def dbgStep (b : Body) (th master : Nat) : Body :=
  b.dbgStopped th master fun b =>
    let pg := Pg.core (th / 8) 2
    let n := max 1 (b.rd pg R.GRT_DBG_COUNT)
    let b := (b.setThr th { (b.thr th) with steps := some n, wait := none }).twr th R.GRT_TH_PRIOR TH_RUN
    b.wr pg R.GRT_DBG_BUSY 1

/-- A STEP ends: its count has run out, or a blocking load that cannot complete ends it (R381). -/
def dbgStepEnd (b : Body) (th : Nat) : Body :=
  if (b.thr th).steps = some 0 then b.stepEnd th TH_RUN else b

/-- ABANDON (R383). -/
def dbgAbandon (b : Body) (th master : Nat) : Body :=
  b.dbgStopped th master fun b =>
    match b.winAbandon th (b.rd (Pg.core (th / 8) 2) R.GRT_DBG_WIN) with
    | some b => b.dbgRc th 0
    | none => b.dbgRc th 5

/-- The value of TCB_WSTAT of a window (R368). -/
def winStat (b : Body) (th w : Nat) : Nat :=
  let x := b.win' th w
  x.st * 2 ^ 30 + x.ch * 2 ^ 16 + x.len

/-- READ_REG (R382). -/
def dbgRead (b : Body) (th master : Nat) : Body :=
  b.dbgStopped th master fun b =>
    let pg := Pg.core (th / 8) 2
    let sel := b.rd pg R.GRT_DBG_SEL
    let x := b.thr th
    let v := if sel < 32 then some (b.greg th sel) else if sel = 32 then some x.pc else if sel = 33 then some x.wmask
      else if sel = 34 then some (b.pendBits th) else if 36 ≤ sel ∧ sel < 40 then some (b.winStat th (sel - 36)) else none
    match v with
    | some v => ((b.wr pg R.GRT_DBG_DATA_LO v).wr pg R.GRT_DBG_DATA_HI (v / 2 ^ 32)).dbgRc th 0
    | none => b.dbgRc th 4

/-- The latched event bits of a thread (R367): 26 to 28 are thread 0's alone. -/
def latchedMask (th : Nat) : Nat := if th % 8 = 0 then 0x3F00FFFF else 0x2300FFFF

/-- WRITE_REG (R382). -/
def dbgWrite (b : Body) (th master : Nat) : Body :=
  b.dbgStopped th master fun b =>
    let pg := Pg.core (th / 8) 2
    let sel := b.rd pg R.GRT_DBG_SEL
    let v := b.rd pg R.GRT_DBG_DATA_LO + 2 ^ 32 * b.rd pg R.GRT_DBG_DATA_HI
    let x := b.thr th
    if sel < 32 then (b.setG th sel v).dbgRc th 0
    else if sel = 32 then (b.setThr th { x with pc := v }).dbgRc th 0
    else if sel = 33 then (b.setThr th { x with wmask := v % 2 ^ 32 }).dbgRc th 0
    else if sel = 34 then (b.setThr th { x with pend := v &&& latchedMask th }).dbgRc th 0
    else b.dbgRc th 4

/-- GRT_INJ_GO (R387). -/
def grtInject (b : Body) (c : Nat) : Body :=
  let pg := Pg.core c 2
  let th := 8 * c + b.rd pg R.GRT_INJ_THREAD
  let x := b.thr th
  b.setThr th (if b.rd pg R.GRT_INJ_KIND = 0 then { x with ueArm := true } else { x with rfArm := true })

/-! The endpoints that the engine binds (R373 to R375). -/

/-- A message written by the engine into a channel; none where the channel has no free slot. Answers whether it was cut. -/
def chDeliver (b : Body) (ch : Nat) (l : List Byte) : Option Body :=
  match b.slotTake ch with
  | none => none
  | some (s, b) => some ((b.grtWrite (b.slotAddr ch s) l).slotCommit ch s l.length)

/-- A two-step timestamp of a packet that a thread injected (R375). -/
def tsToGrotto (b : Body) (port token t : Nat) : Body :=
  let l := leBytes 4 token ++ leBytes 2 (port * 64) ++ leBytes 2 0 ++ timeBytes t ++ leBytes 2 (t % 65536) ++ leBytes 12 0
  let ch := b.rd (Pg.cplx 0) R.GRT_TS_CH
  let lost := fun (b : Body) => (b.count (Pg.cplx 1) 16).fire (Pg.rew (portGal port)) R.REW_EVT_PTP
  if ¬ b.on (Pg.cplx 0) R.GRT_TS_EN then lost b
  else match b.chDeliver ch (l.take (chSlot (b.chEnt ch))) with
    | some b => b
    | none => lost b

/-- The inject source takes the oldest ready slot of a Gallery's inject channel (R374). -/
def grottoInjectTake (b : Body) (g : Nat) : Body :=
  let ch := b.rd (Pg.cplx 0) R.GRT_INJ_CH g
  if ¬ b.on (Pg.cplx 0) R.GRT_INJ_EN g then b
  else
    let x := b.chan ch
    match x.ready with
    | [] => b
    | (s, len) :: rest =>
      let a := b.slotAddr ch s
      let bad := decide (len < 16 + 60 ∨ 16 + 10236 < len) || b.grtBad a len
      let d := b.grtBytes a len
      let b := (b.setChan ch { x with ready := rest }).slotFree ch s
      if bad then b.count (Pg.cplx 1) (8 + g)
      else
        let y : InjPkt := { rec_ := d.take 16, data := withFcs (d.drop 16), host := false, src := ch, ts := b.stamp 0 }
        { b with pipe := { b.pipe with injQ := Sp.set [] b.pipe.injQ g (Sp.get [] b.pipe.injQ g ++ [y]) } }

end Body

end Sys2Proof.Machine
end

