-- ==== Sys2Proof/Machine/Classify.lean ====
section
/-! DEFINITION. Stage 4 with its options as one view reads them, and the classifier of stage 5: keys (R113, R114), the CAM
(R115 to R117), the combined result (R119 to R121) and verification against the SRAM copy (R122). -/

namespace Sys2Proof.Machine

/-- The nibble of malformed reason `r` in PAR_MAL_ACT0 or PAR_MAL_ACT1 (R128). -/
def malFld (r : Nat) : Fld :=
  { off := if r ≤ 8 then 0x80 else 0x84, hi := 4 * ((r - 1) % 8) + 3, lo := 4 * ((r - 1) % 8), acc := .rws,
    rst := if 12 ≤ r ∧ r ≤ 14 then 1 else 0 }

namespace Body

/-- The action of malformed reason `r` in Gallery `g` (R109). -/
def malAct (b : Body) (seq g r : Nat) : Nat := b.rdV seq (Pg.parser g) (malFld r) % 8

/-- PAR_MAL_ECHO of reason `r`. -/
def malEcho (b : Body) (seq g r : Nat) : Bool := b.rdV seq (Pg.parser g) (malFld r) / 8 == 1

/-- The parser options of Gallery `g` as a view reads them. -/
def parCfg (b : Body) (seq g : Nat) : ParCfg :=
  let r := b.rdV seq (Pg.parser g)
  { tpidX := r R.PAR_TPID_X, pwEth := r R.PAR_PW_ETH == 1, ipip := r R.PAR_IPIP_EN == 1, gre := r R.PAR_GRE_EN == 1,
    vxlan := r R.PAR_VXLAN_EN == 1, vxlanPort := r R.PAR_VXLAN_PORT, hashSeed := r R.PAR_HASH_SEED,
    hashSel := r R.PAR_HASH_SEL }

/-- The index in parser page 1 of the PAR_PORT entry of a packet's source: the first lane of a network port, or the
entries of recirculation, the Grotto and the host (R113, R129). -/
def parIdx (port : Nat) (pass2 : Bool) : Nat :=
  if pass2 then 64 else if port < 512 then port % 64 else if port = 528 then 66 else 65

/-- The view of a 160-bit CAM key bit fault: the exclusive-or of the CAM's key with its copy. -/
def camFlip (b : Body) (tid idx : Nat) : Nat := Sp.get 0 b.pipe.camFlip (entKey tid idx)

/-- Whether the stored parity of an entry is wrong (R162). -/
def parityBad (b : Body) (tid idx : Nat) : Bool := b.pipe.parBad.contains (tid, idx)

/-- The key of a search by profile `p` of Gallery `g` (R114): `h` is the vector as the parser left it, `win` the parse
window. -/
def clsKey (b : Body) (seq g p : Nat) (h : HV) (win : List Byte) : Nat :=
  let pg := Pg.parserKey g p
  let r := fun f j => b.rdV seq pg f (p % 20) j
  let w := 160 * (b.rdV seq pg R.KP_WIDTH (p % 20) + 1)
  let vec := h.encode
  let bytes := (List.range 20).flatMap fun j =>
    if r R.CMD_EN j = 1 then
      let s := h.slot (r R.CMD_SLOT j)
      (List.range (r R.CMD_LEN j + 1)).map fun k =>
        if r R.CMD_SRC j = 0 then vec.getD (r R.CMD_OFF j + k) 0
        else if s.ty = 0 then 0 else win.getD (s.off + r R.CMD_OFF j + k) 0
    else []
  let b' := bytes.take (w / 8)
  beNat b' * 2 ^ (w - 8 * b'.length)

/-! The fields of a CAM entry (R117). -/

def ceValid (e : Nat) : Bool := bitOn e 511
def ceHead (e : Nat) : Bool := bitOn e 510
def ceWidth (e : Nat) : Nat := bitField e 509 508
def cePart (e : Nat) : Nat := bitField e 507 506
def ceProfile (e : Nat) : Nat := bitField e 505 498

/-- The bits of the key that entry `j` of a rule holds. -/
def keyPart (key w j : Nat) : Nat := (key / 2 ^ (160 * (w - j))) % 2 ^ 160

/-- Whether entry `j` of a rule compares equal; `flip` is the error in the stored key. -/
def cePartMatch (e flip key w t j : Nat) : Bool :=
  ceValid e && ceWidth e == w && ceProfile e == t &&
  ((keyPart key w j ^^^ (e % 2 ^ 160 ^^^ flip)) &&& bitField e 319 160) == 0

/-- Whether the CAM matches the rule at head `i` (R115). -/
def camMatch (b : Body) (seq key w t i : Nat) : Bool :=
  decide (i % 4 + w + 1 ≤ 4) && ceHead (b.entV seq Tbl.cls i) &&
  (List.range (w + 1)).all fun j =>
    cePartMatch (b.entV seq Tbl.cls (i + j)) (b.camFlip Tbl.cls (i + j)) key w t j

/-- The first entry of a matched rule at which the copy fails: its kind, 1 a copy that disagrees, 2 bad parity (R122). -/
def copyFails (b : Body) (seq key w t i : Nat) : Option (Nat × Nat) :=
  (List.range (w + 1)).findSome? fun j =>
    if b.parityBad Tbl.cls (i + j) then some (2, i + j)
    else if cePartMatch (b.entV seq Tbl.cls (i + j)) 0 key w t j then none
    else some (1, i + j)

/-- A false hit or a copy parity miss reported (R122, R131). -/
def clsReport (b : Body) (kind idx : Nat) : Body :=
  let b := (b.wr Pg.cls R.CLS_ERR_KIND kind).wr Pg.cls R.CLS_ERR_IDX idx
  if kind = 1 then (b.sat Pg.cls R.CLS_FALSE_HIT).fire Pg.cls R.CLS_EVT_FALSEHIT
  else (b.sat Pg.cls R.CLS_PAR_MISS).fire Pg.cls R.CLS_EVT_PARITY

end Body

/-- What a classifier search finds. -/
inductive Found where
  | miss
  | exhausted
  | hit (idx : Nat)
deriving DecidableEq, Repr

namespace Body

/-- The candidates examined in turn; `n` may still be examined (R122). -/
def clsVerify (b : Body) (seq key w t : Nat) : Nat → List Nat → Body × Found
  | _, [] => (b, .miss)
  | 0, _ => (b.fault Pg.cls R.CLS_FLT_VERIFY_EXH { access := 6, inj := true }, .exhausted)
  | n + 1, i :: l =>
    match b.copyFails seq key w t i with
    | none => (b, .hit i)
    | some (kind, idx) =>
      let b := b.clsReport kind idx
      if n = 0 then (b.fault Pg.cls R.CLS_FLT_VERIFY_EXH { access := 6, inj := true }, .exhausted) else b.clsVerify seq key w t n l

/-- One classifier search: the lowest matching index whose copy verifies, of at most four candidates (R116, R122). -/
def clsSearch (b : Body) (seq key w t : Nat) : Body × Found :=
  b.clsVerify seq key w t 4 ((b.entIdxs Tbl.cls).filter (fun i => b.camMatch seq key w t i))

end Body

/-- The result of one search: the disposition, the rule and the action fields it sets (R119, R121). -/
structure ClsRes where
  disp : Nat := 0
  hit : Bool := false
  rule : Nat := 0x3FFFF
  final : Bool := false
  vrf : Option Nat := none
  qclass : Option Nat := none
  metaD : Option Nat := none
  dscp : Option Nat := none
  counter : Option Nat := none
  policer : Option Nat := none
  echo : Bool := false
  nh : Nat := 0
deriving DecidableEq, Repr

/-- The action data of a rule's head (R119). -/
def ClsRes.ofHead (idx e : Nat) : ClsRes :=
  let a := bitField e 479 320
  let by_ := fun k => bitField a (8 * k + 7) (8 * k)
  let f := by_ 1
  let opt := fun (bit v : Nat) => if bitOn f bit then some v else none
  { disp := by_ 0 / 16, hit := true, rule := idx, final := bitOn f 0
    vrf := opt 7 (bitField a 31 16), qclass := opt 6 (by_ 4 / 32), metaD := opt 5 (bitField a 63 48),
    counter := opt 4 (bitField a 93 64), policer := opt 3 (bitField a 119 96), echo := bitOn f 2,
    dscp := opt 1 (by_ 5 / 4), nh := bitField a 151 128 }

/-- The combined result of a pass (R120). -/
structure Comb where
  disp : Nat := 0
  rule : Nat := 0x3FFFF
  nh : Nat := 0
  copyHost : Option Nat := none
  copyGrt : Option Nat := none
  vrf : Option Nat := none
  qclass : Option Nat := none
  metaD : Option Nat := none
  dscp : Option Nat := none
  counters : List Nat := []
  polA : Option Nat := none
  polB : Option Nat := none
  echo : Bool := false
deriving DecidableEq, Repr

/-- The precedence of a forwarding disposition, 0 the highest; the copies forward as CONTINUE (R120). -/
def dispRank (d : Nat) : Nat := if 1 ≤ d ∧ d ≤ 5 then d - 1 else 5

/-- The results of searches A and B combined (R120). `noRcy` ignores RECIRCULATE, as reason 16 with CONTINUE does (R109). -/
def combine (noRcy : Bool) (ra rb : Option ClsRes) : Comb :=
  let rb := match ra with
    | some a => if a.final then none else rb
    | none => rb
  let fix := fun (r : ClsRes) =>
    if r.disp = 5 ∧ ¬ r.hit then { r with disp := 0 } else if noRcy ∧ r.disp = 4 then { r with disp := 0 } else r
  let rs := (ra.toList ++ rb.toList).map fix
  let best : Option ClsRes := rs.foldl (fun (x : Option ClsRes) r =>
    match x with
    | none => some r
    | some y => if dispRank r.disp ≤ dispRank y.disp then some r else x) none
  let d : Nat := match best with | some r => if dispRank r.disp = 5 then 0 else r.disp | none => 0
  let last := fun {α : Type} (f : ClsRes → Option α) => (rs.reverse.findSome? f)
  let copies := decide (d ≠ 1 ∧ d ≠ 2 ∧ d ≠ 3)
  { disp := d
    rule := match best with | some r => r.rule | none => 0x3FFFF
    nh := match best with | some r => r.nh | none => 0
    copyHost := if copies then last (fun r => if r.disp = 6 then some r.rule else none) else none
    copyGrt := if copies then last (fun r => if r.disp = 7 then some r.rule else none) else none
    vrf := last (·.vrf), qclass := last (·.qclass), metaD := last (·.metaD), dscp := last (·.dscp)
    counters := rs.filterMap (·.counter)
    polA := (ra.map fix).bind (·.policer), polB := rb.bind (·.policer)
    echo := rs.any (·.echo) }

namespace Body

/-- One search of a pass, where it is made: the profile's width, tag and miss disposition (R113, R121). Answers the result
and whether the search was exhausted. -/
def clsOne (b : Body) (seq g port : Nat) (pass2 : Bool) (fen fprof : Fld) (h : HV) (win : List Byte) :
    Body × Option ClsRes × Bool :=
  let pp := Pg.parserPort g
  let i := parIdx port pass2
  if b.rdV seq pp fen i = 0 then (b, none, false)
  else
    let p := b.rdV seq pp fprof i
    let kp := fun f => b.rdV seq (Pg.parserKey g p) f (p % 20)
    if kp R.KP_EN = 0 then (b, none, false)
    else
      let missR : ClsRes := { disp := kp R.KP_MISS_DISP }
      match b.clsSearch seq (b.clsKey seq g p h win) (kp R.KP_WIDTH) (kp R.KP_TAG) with
      | (b, .hit idx) => (b, some (ClsRes.ofHead idx (b.entV seq Tbl.cls idx)), false)
      | (b, .miss) => (b, some missR, false)
      | (b, .exhausted) => (b, some missR, true)

/-- Both searches of a pass, A then B; an exhausted search is reason 15 (R108, R113). -/
def classify (b : Body) (seq g port : Nat) (pass2 : Bool) (h : HV) (win : List Byte) :
    Body × Option ClsRes × Option ClsRes × Bool :=
  let (b, ra, xa) := b.clsOne seq g port pass2 R.PAR_PROF_A_EN R.PAR_PROF_A h win
  let (b, rb, xb) := b.clsOne seq g port pass2 R.PAR_PROF_B_EN R.PAR_PROF_B h win
  (b, ra, rb, xa || xb)

/-- Whether the profile at index `p` of a Gallery as it stands places bytes below key bit 0 (R114). -/
def profileOver (b : Body) (g p : Nat) : Bool :=
  let pg := Pg.parserKey g p
  b.on pg R.KP_EN (p % 20) &&
  decide (20 * (b.rd pg R.KP_WIDTH (p % 20) + 1) <
    ((List.range 20).map fun j =>
      if b.on pg R.CMD_EN (p % 20) j then b.rd pg R.CMD_LEN (p % 20) j + 1 else 0).foldl (· + ·) 0)

end Body

end Sys2Proof.Machine
end

