-- ==== Sys2Proof/Machine/Exact.lean ====
section
/-! DEFINITION. The exact-match table (R153 to R158): keys and buckets, a search, and the commands of the contexts and the
table-command ring. -/

namespace Sys2Proof.Machine

/-- An exact-match key: its type, its 96 key bits, and the second half's 96 bits for IPV6_HOST (R154). -/
structure XKey where
  ty : Nat
  k1 : Nat
  k2 : Nat := 0
deriving DecidableEq, Repr

/-- IPV6_HOST keys are wide. -/
def XKey.wide (k : XKey) : Bool := k.ty == 3

def XKey.label (space label : Nat) : XKey := { ty := 1, k1 := space * 2 ^ 80 + label * 2 ^ 60 }
def XKey.host4 (vrf addr : Nat) : XKey := { ty := 2, k1 := vrf * 2 ^ 80 + (addr % 2 ^ 32) * 2 ^ 48 }
def XKey.host6 (vrf addr : Nat) : XKey :=
  { ty := 3, k1 := vrf * 2 ^ 80 + addr / 2 ^ 48, k2 := addr % 2 ^ 48 * 2 ^ 48 }

/-- The bytes the bucket hash runs over: the type code, then the key bytes in the order of the format (R153). -/
def XKey.bytes (k : XKey) : List Byte :=
  leBytes 1 k.ty ++ leBytes 12 k.k1 ++ (if k.wide then leBytes 12 k.k2 else [])

/-- One 16-byte slot holding a narrow entry or a half of a wide one. -/
def xSlot (ty key res : Nat) (wide part : Bool) : Nat :=
  key + 2 ^ 96 * res + 2 ^ 120 * ty + 2 ^ 125 * b2n part + 2 ^ 126 * b2n wide + 2 ^ 127

def xValid (e : Nat) : Bool := bitOn e 127
def xWide (e : Nat) : Bool := bitOn e 126
def xPart (e : Nat) : Bool := bitOn e 125
def xType (e : Nat) : Nat := bitField e 123 120
def xRes (e : Nat) : Nat := bitField e 119 96
def xKeyBits (e : Nat) : Nat := e % 2 ^ 96

/-- Where an entry is: a slot of the table or an entry of the stash. -/
inductive XLoc where
  | slot (n : Nat)
  | stash (i : Nat)
deriving DecidableEq, Repr

/-- A step of a relocation: the entry with key `key` at place `i` of `bk` goes to place `j` of `bk'`. -/
structure XMove where
  bk : Nat
  i : Nat
  bk' : Nat
  j : Nat
  key : Option XKey
deriving DecidableEq, Repr

/-- EXM_LOC of a location (R166). -/
def XLoc.code : XLoc → Nat
  | .slot n => n
  | .stash i => 33554432 + i

namespace Body

/-- The buckets of the wide partition as they stand. -/
def exmWide (b : Body) : Nat := b.rd Pg.exm R.EXM_WIDE_BKTS

/-- The candidate buckets of a key, at most two; none where its partition has no buckets (R153). -/
def exmBuckets (b : Body) (k : XKey) : List Nat :=
  let size := if k.wide then b.exmWide else 8388608 - b.exmWide
  let base := if k.wide then 8388608 - b.exmWide else 0
  if size = 0 then []
  else [R.EXM_SEED0, R.EXM_SEED1].map fun s => base + crc32cFrom (b.rd Pg.exm s) k.bytes * size / 2 ^ 32

/-- Whether a 32-byte pair of halves is the wide entry of a key (R155). -/
def pairHolds (a c : Nat) (k : XKey) : Bool :=
  xValid a && xValid c && xWide a && xWide c && !xPart a && xPart c && xType a == k.ty && xType c == k.ty &&
    xKeyBits a == k.k1 && xKeyBits c == k.k2

/-- Whether the entry at a location is key `k` in view `seq`; bad parity counts as empty. -/
def exmHolds (b : Body) (seq : Nat) (k : XKey) : XLoc → Bool
  | .slot n =>
    let e := b.entV seq Tbl.exm n
    if b.parityBad Tbl.exm n then false
    else if k.wide then
      n % 2 == 0 && !b.parityBad Tbl.exm (n + 1) && pairHolds e (b.entV seq Tbl.exm (n + 1)) k
    else xValid e && !xWide e && xType e == k.ty && xKeyBits e == k.k1
  | .stash i =>
    let e := b.entV seq Tbl.stash i
    if b.parityBad Tbl.stash i then false
    else if k.wide then pairHolds (e % 2 ^ 128) (e / 2 ^ 128) k
    else xValid (e % 2 ^ 128) && !xWide (e % 2 ^ 128) && xType e == k.ty && xKeyBits e == k.k1

/-- The slots of a bucket. -/
def bktSlots (bk : Nat) : List Nat := [4 * bk, 4 * bk + 1, 4 * bk + 2, 4 * bk + 3]

/-- The stash entries that hold something or have bad parity, rising. -/
def stashIdxs (b : Body) : List Nat :=
  ((b.pipe.parBad.filter fun e => e.1 == Tbl.stash).map (·.2)).foldr insertNat (b.entIdxs Tbl.stash)

/-- The places a search of a key looks, in the order of R155. -/
def exmPlaces (b : Body) (k : XKey) : List XLoc :=
  (b.exmBuckets k).eraseDups.flatMap (fun bk => (bktSlots bk).map XLoc.slot) ++ b.stashIdxs.map XLoc.stash

/-- The copies of a key in view `seq`, in the order of R155. -/
def exmCopies (b : Body) (seq : Nat) (k : XKey) : List XLoc := (b.exmPlaces k).filter fun l => b.exmHolds seq k l

/-- The result at a location. -/
def exmResAt (b : Body) (seq : Nat) : XLoc → Nat
  | .slot n => xRes (b.entV seq Tbl.exm n)
  | .stash i => xRes (b.entV seq Tbl.stash i % 2 ^ 128)

/-- EXM_PAR counts each slot read with bad parity, and the parity event fires (R155, R162). -/
def exmParity (b : Body) (ls : List XLoc) : Body :=
  ls.foldl (fun b l =>
    let bad := match l with
      | .slot n => b.parityBad Tbl.exm n
      | .stash i => b.parityBad Tbl.stash i
    if bad then (b.sat Pg.exm R.EXM_PAR).fire Pg.exm R.EXM_EVT_PARITY else b) b

/-- A search of a key in view `seq`: the first copy, with parity and duplicates recorded (R155). -/
def exmFind (b : Body) (seq : Nat) (k : XKey) : Body × Option XLoc :=
  let cs := b.exmCopies seq k
  let b := b.exmParity (b.exmPlaces k)
  let b := if 1 < cs.length then (b.sat Pg.exm R.EXM_DUP).fire Pg.exm R.EXM_EVT_DUP else b
  (b, cs.head?)

/-- A current view: one that no held value is older than. -/
def nowSeq (b : Body) : Nat := b.cairn.flips

/-- The key of the entry in slot `n` of the table as it stands, where it has one: a valid narrow entry, or a wide entry at
its first half with both halves valid, of a type that is not reserved. -/
def exmKeyAt (b : Body) (n : Nat) : Option XKey :=
  let e := b.ent Tbl.exm n
  let ty := xType e
  if ¬ xValid e ∨ b.parityBad Tbl.exm n then none
  else if xWide e then
    let c := b.ent Tbl.exm (n + 1)
    if n % 2 = 0 ∧ ty = 3 ∧ ¬ b.parityBad Tbl.exm (n + 1) ∧ pairHolds e c { ty := 3, k1 := xKeyBits e, k2 := xKeyBits c }
    then some { ty := 3, k1 := xKeyBits e, k2 := xKeyBits c } else none
  else if ty = 1 ∨ ty = 2 then some { ty := ty, k1 := xKeyBits e } else none

/-- Whether slot `n` is free for an entry: it holds no valid entry, or its parity is bad (R156). -/
def exmSlotFree (b : Body) (n : Nat) : Bool := !xValid (b.ent Tbl.exm n) || b.parityBad Tbl.exm n

/-- The number of slots an entry of this kind may take in a bucket, and slot `i` of bucket `bk`. -/
def exmSlots (wide : Bool) : Nat := if wide then 2 else 4
def exmSlotNo (wide : Bool) (bk i : Nat) : Nat := if wide then 4 * bk + 2 * i else 4 * bk + i

/-- Whether place `i` of bucket `bk` is free. -/
def exmFree (b : Body) (wide : Bool) (bk i : Nat) : Bool :=
  if wide then b.exmSlotFree (4 * bk + 2 * i) && b.exmSlotFree (4 * bk + 2 * i + 1) else b.exmSlotFree (4 * bk + i)

/-- The lowest free place of a bucket. -/
def exmFreeSlot (b : Body) (wide : Bool) (bk : Nat) : Option Nat :=
  (List.range (exmSlots wide)).find? fun i => b.exmFree wide bk i

/-- The other bucket of the entry at place `i` of bucket `bk`; none where it has no other bucket (R156). -/
def exmOther (b : Body) (wide : Bool) (bk i : Nat) : Option Nat :=
  match b.exmKeyAt (exmSlotNo wide bk i) with
  | none => none
  | some k =>
    if k.wide ≠ wide then none
    else match b.exmBuckets k with
      | [x, y] => if x = bk then some y else if y = bk then some x else none
      | _ => none

/-- The key and result of stash entry `i`, where it holds a valid one. -/
def stashKeyAt (b : Body) (i : Nat) : Option XKey :=
  let e := b.ent Tbl.stash i
  let lo := e % 2 ^ 128
  let hi := e / 2 ^ 128
  if ¬ xValid lo ∨ b.parityBad Tbl.stash i then none
  else if xWide lo then
    let k : XKey := { ty := 3, k1 := xKeyBits lo, k2 := xKeyBits hi }
    if xType lo = 3 ∧ pairHolds lo hi k then some k else none
  else if xType lo = 1 ∨ xType lo = 2 then some { ty := xType lo, k1 := xKeyBits lo } else none

/-- The digest region of a key (R163): its first bucket modulo 512. -/
def exmRegion (b : Body) (k : XKey) : List Nat := ((b.exmBuckets k).take 1).map (· % 512)

/-- The digest regions that an exact-match slot or a stash entry belongs to as it stands. -/
def exmRegions (b : Body) (tid idx : Nat) : List Nat :=
  let ks := if tid = Tbl.exm then [b.exmKeyAt idx, b.exmKeyAt (idx / 2 * 2)] else [b.stashKeyAt idx]
  ((ks.filterMap id).map fun k => b.exmRegion k).flatten

/-- Digest regions marked as written during their pass (R163). -/
def digMark (b : Body) (rs : List Nat) : Body :=
  { b with pipe := { b.pipe with digDirty := rs.foldl (fun l r => insertNat r l) b.pipe.digDirty } }

/-- A slot or stash entry set, and its digest regions, before and after, marked as written. -/
def exmSet (b : Body) (tid idx v : Nat) : Body :=
  let rs := b.exmRegions tid idx
  let b := b.putEnt tid idx v
  b.digMark (rs ++ b.exmRegions tid idx)

/-- A write to the exact-match table or the stash by the engine itself, seen at once by every view (R22). -/
def exmPut (b : Body) (tid idx v : Nat) : Body := (b.exmSet tid idx v).discardOld (.ent tid idx)

/-- A key and result written at place `i` of bucket `bk`; of a wide entry the second half goes first (R157). -/
def exmPlace (b : Body) (k : XKey) (res bk i : Nat) : Body :=
  let n := exmSlotNo k.wide bk i
  if k.wide then
    (b.exmPut Tbl.exm (n + 1) (xSlot k.ty k.k2 0 true true)).exmPut Tbl.exm n (xSlot k.ty k.k1 res true false)
  else b.exmPut Tbl.exm n (xSlot k.ty k.k1 res false false)

/-- An entry cleared. -/
def exmErase (b : Body) (wide : Bool) : XLoc → Body
  | .slot n => if wide then (b.exmPut Tbl.exm n 0).exmPut Tbl.exm (n + 1) 0 else b.exmPut Tbl.exm n 0
  | .stash i => b.exmPut Tbl.stash i 0

/-- One step of a relocation; none where the path has changed since the search: the entry has left its place or the new place is taken
(R156). -/
def exmMove (b : Body) (wide : Bool) (m : XMove) : Option Body :=
  let n := exmSlotNo wide m.bk m.i
  match m.key with
  | none => none
  | some k =>
    if b.exmKeyAt n = some k ∧ b.exmFree wide m.bk' m.j then
      some ((b.exmPlace k (xRes (b.ent Tbl.exm n)) m.bk' m.j).exmErase wide (.slot n))
    else none

/-- The steps in turn: the body, the steps made, and whether all of them were. -/
def exmMoves (b : Body) (wide : Bool) : List XMove → Body × Nat × Bool
  | [] => (b, 0, true)
  | m :: l =>
    match b.exmMove wide m with
    | none => (b, 0, false)
    | some b => let r := b.exmMoves wide l; (r.1, r.2.1 + 1, r.2.2)

/-- The path search of INSERT (R156): `fuel` steps from step `i`, the bucket, the one before it, and the path so far, most
recent step first. Answers the buckets read beyond the first, and the moves from the end of the path to its start. -/
def exmPath (b : Body) (wide : Bool) (rot : Nat) :
    Nat → Nat → Nat → Option Nat → List (Nat × Nat × Nat) → List Nat × Option (List XMove)
  | 0, _, _, _, path => (path.map (·.2.2), none)
  | fuel + 1, i, bk, prev, path =>
    let n := exmSlots wide
    let cand := (List.range n).map fun d => (rot + i + d) % n
    match cand.find? (fun s => match b.exmOther wide bk s with
        | some a => decide (a ≠ bk ∧ some a ≠ prev)
        | none => false) with
    | none => (path.map (·.2.2), none)
    | some s =>
      match b.exmOther wide bk s with
      | none => (path.map (·.2.2), none)
      | some a =>
        let path := (bk, s, a) :: path
        match b.exmFreeSlot wide a with
        | some j =>
          -- the last step goes to the free slot, each earlier one to the slot the step after it leaves
          (path.map (·.2.2), some ((path.foldl (fun (acc : List XMove × Nat) (p : Nat × Nat × Nat) =>
            (acc.1 ++ [{ bk := p.1, i := p.2.1, bk' := p.2.2, j := acc.2, key := b.exmKeyAt (exmSlotNo wide p.1 p.2.1) }], p.2.1))
            ([], j)).1))
        | none => b.exmPath wide rot fuel (i + 1) a (some bk) path

/-- The outcome of a command: EXM_RC, EXM_MOVES, the location and the result. -/
structure XOut where
  rc : Nat
  moves : Nat := 0
  loc : Option XLoc := none
  res : Option Nat := none
deriving DecidableEq, Repr

/-- The lowest free entry of the stash. -/
def stashFree (b : Body) : Option Nat :=
  (List.range 1024).find? fun i => !xValid (b.ent Tbl.stash i % 2 ^ 128) || b.parityBad Tbl.stash i

/-- The valid entries of the stash (EXM_STASH_CNT). -/
def stashCnt (b : Body) : Nat :=
  ((b.entIdxs Tbl.stash).filter fun i => xValid (b.ent Tbl.stash i % 2 ^ 128)).length

/-- The occupied slots (EXM_VALID_CNT). -/
def exmCnt (b : Body) : Nat := ((b.entIdxs Tbl.exm).filter fun i => xValid (b.ent Tbl.exm i)).length

/-- INSERT without the search for the key itself: placing it in a bucket, by relocation, or in the stash (R156). -/
def exmInsertNew (b : Body) (k : XKey) (res : Nat) : Body × XOut :=
  let bks := b.exmBuckets k
  match bks.findSome? (fun bk => (b.exmFreeSlot k.wide bk).map fun i => (bk, i)) with
  | some (bk, i) => (b.exmPlace k res bk i, { rc := 0, loc := some (.slot (exmSlotNo k.wide bk i)) })
  | none =>
    let rot := b.rd Pg.exm R.EXM_ROT
    let path := match bks with
      | [] => ([], none)
      | b0 :: _ => b.exmPath k.wide rot 16 0 b0 none []
    let b := b.exmParity ((path.1.eraseDups.filter fun bk => !bks.contains bk).flatMap fun bk => (bktSlots bk).map XLoc.slot)
    let b := if bks = [] then b else b.inc Pg.exm R.EXM_ROT
    match path.2, bks with
    | some ms, b0 :: _ =>
      let r := b.exmMoves k.wide ms
      match r.2.2, r.1.exmFreeSlot k.wide b0 with
      | true, some i =>
        (r.1.exmPlace k res b0 i, { rc := 0, moves := r.2.1, loc := some (.slot (exmSlotNo k.wide b0 i)) })
      | _, _ => (r.1, { rc := 6, moves := r.2.1 })
    | _, _ =>
      match b.stashFree with
      | some i =>
        let v := if k.wide then xSlot k.ty k.k1 res true false + 2 ^ 128 * xSlot k.ty k.k2 0 true true
          else xSlot k.ty k.k1 res false false
        let b := b.exmPut Tbl.stash i v
        let b := if b.stashCnt = b.rd Pg.exm R.EXM_STASH_THR then b.fire Pg.exm R.EXM_EVT_STASH else b
        (b, { rc := 0, loc := some (.stash i) })
      | none => (b.fire Pg.exm R.EXM_EVT_FULL, { rc := 3 })

/-- One command on a key that may name a table entry (R156): 1 INSERT, 2 DELETE, 3 UPDATE, 4 LOOKUP. -/
def exmCommand (b : Body) (op : Nat) (k : XKey) (res : Nat) : Body × XOut :=
  let (b, loc) := b.exmFind b.nowSeq k
  match op, loc with
  | 1, some l => (b, { rc := 1, loc := some l })
  | 1, none => b.exmInsertNew k res
  | _, none => (b, { rc := 2 })
  | 2, some l => (b.exmErase k.wide l, { rc := 0, loc := some l })
  | 3, some l =>
    match l with
    | .slot n => (b.exmPut Tbl.exm n (setBitField (b.ent Tbl.exm n) 119 96 res), { rc := 0, loc := some l })
    | .stash i => (b.exmPut Tbl.stash i (setBitField (b.ent Tbl.stash i) 119 96 res), { rc := 0, loc := some l })
  | _, some l => (b, { rc := 0, loc := some l, res := some (b.exmResAt b.nowSeq l) })

end Body

end Sys2Proof.Machine
end

