-- ==== Sys2Proof/Machine/Lookup.lean ====
section
/-! DEFINITION. The forwarding lookup of a pass (R132): the trie walk (R138 to R142), the Dripstone search (R145 to R148),
the longest match across both (R149), and the next-hop chain with ECMP and encapsulation (R133, R134, R159 to R162). -/

namespace Sys2Proof.Machine

/-- Why a route drops a packet. -/
inductive RouteDrop where
  | noVrf | verifyExh | invalid | parity | popNoIp | chain
deriving DecidableEq, Repr

/-- The route result of a pass: the terminal next hop with its entry, or a drop; whether the chain popped the whole stack;
and whether the packet was routed in the IP case. -/
structure Route where
  drop : Option RouteDrop := none
  nh : Nat := 0xFFFFFF
  ent : Nat := 0
  popped : Bool := false
  ipCase : Bool := false
deriving DecidableEq, Repr

/-! Fields of entries. -/

def nhType (e : Nat) : Nat := bitField e 31 28
def nhPop (e : Nat) : Nat := bitField e 27 26
def nhPort (e : Nat) : Nat := bitField e 25 16
def nhVrf (e : Nat) : Nat := e % 2 ^ 16
def nhCounter (e : Nat) : Nat := bitField e 61 32
def nhSub (e : Nat) : Nat := bitField e 95 79
def nhValid (e : Nat) : Bool := bitOn e 127
def nhAux (e : Nat) : Nat := bitField e 123 116
def nhArg (e : Nat) : Nat := bitField e 115 96

def dsValid (e : Nat) : Bool := bitOn e 255
def dsAddr (e : Nat) : Nat := e % 2 ^ 128
def dsVrf (e : Nat) : Nat := bitField e 143 128
def dsLen (e : Nat) : Nat := bitField e 151 144
def dsWithdraw (e : Nat) : Bool := bitOn e 158
def dsAf (e : Nat) : Nat := bitField e 159 159
def dsNh (e : Nat) : Nat := bitField e 183 160
def dsGen (e : Nat) : Nat := bitField e 199 192

def tnChild (e : Nat) : Nat := e % 2 ^ 128
def tnPfx (e : Nat) : Nat := bitField e 255 128
def tnChildBase (e : Nat) : Nat := bitField e 278 256
def tnResBase (e : Nat) : Nat := bitField e 314 288
def tnStride (e : Nat) : Nat := bitField e 450 448
def tnBitpos (e : Nat) : Nat := bitField e 463 456
def tnValid (e : Nat) : Bool := bitOn e 511

/-- The number of address bits of a family (R138). -/
def famBits (fam : Nat) : Nat := if fam = 0 then 32 else 128

/-- Walk bits `p` to `p + s − 1` of an address of `w` bits; bits past the end read as zero (R141). -/
def walkBits (w addr p s : Nat) : Nat := addr * 2 ^ (p + s) / 2 ^ w % 2 ^ s

namespace Body

/-- A parity failure of an LPM table (R162). -/
def lpmParity (b : Body) : Body := (b.sat Pg.lpm R.LPM_PAR).fire Pg.lpm R.LPM_EVT_PARITY

/-- The matches that a node records (R141): length and result index. -/
def nodeMatches (e w addr p : Nat) : List (Nat × Nat) :=
  let s := tnStride e
  let v := walkBits w addr p s
  (List.range s).filterMap fun j =>
    let pos := 2 ^ j - 1 + v / 2 ^ (s - j)
    if p + j ≤ w ∧ bitOn (tnPfx e) pos then some (p + j, tnResBase e + popcount (tnPfx e) pos) else none

/-- The walk of the trie (R141, R142): `fuel` nodes may still be read; the matches so far are in `ms`. -/
def trieWalk (b : Body) (seq w addr : Nat) : Nat → Nat → Nat → List (Nat × Nat) → Body × List (Nat × Nat)
  | 0, _, _, ms => ((b.sat Pg.lpm R.LPM_DEPTH_EXC).fire Pg.lpm R.LPM_EVT_DEPTH, ms)
  | fuel + 1, line, p, ms =>
    let e := b.entV seq Tbl.trie line
    if b.parityBad Tbl.trie line ∨ ¬ tnValid e ∨ tnBitpos e ≠ p then (b.lpmParity, ms)
    else
      let ms := ms ++ nodeMatches e w addr p
      let s := tnStride e
      let v := walkBits w addr p s
      if p + s ≤ w ∧ bitOn (tnChild e) v then
        b.trieWalk seq w addr fuel (tnChildBase e + popcount (tnChild e) v) (p + s) ms
      else (b, ms)

/-- A result word, where its parity is good (R140, R149). -/
def trieRes (b : Body) (seq r : Nat) : Option Nat :=
  if b.parityBad Tbl.trie (r / 16) then none
  else some (bitField (b.entV seq Tbl.trie (r / 16)) (32 * (r % 16) + 23) (32 * (r % 16)))

/-- Whether an entry matches a key in its first DS_LEN walk bits; `flip` is the error in the stored key (R145). -/
def dsMatches (e flip vrf fam addr : Nat) : Bool :=
  let w := famBits fam
  dsValid e && (dsVrf e ^^^ bitField flip 175 160) == vrf && (dsAf e ^^^ bitField flip 159 159) == fam &&
  decide (dsLen e ≤ w) && walkBits w ((dsAddr e ^^^ (flip % 2 ^ 128)) % 2 ^ w) 0 (dsLen e) == walkBits w addr 0 (dsLen e)

/-- A place in the order of verification: longer first, then routes, then lower addresses (R148). -/
def dsBefore (x y : Nat × Nat × Bool) : Bool :=
  if x.2.1 = y.2.1 then (if x.2.2 = y.2.2 then decide (x.1 ≤ y.1) else !x.2.2) else decide (y.2.1 < x.2.1)

/-- A list put in the order of a comparison. -/
def insSorted {α : Type} (lt : α → α → Bool) (x : α) : List α → List α
  | [] => [x]
  | y :: t => if lt x y then x :: y :: t else y :: insSorted lt x t

/-- The result of a Dripstone search: exhausted, or the route winner's length and next hop and the withdrawn lengths. -/
structure DsRes where
  exhausted : Bool := false
  route : Option (Nat × Nat) := none
  withdrawn : List Nat := []
deriving DecidableEq, Repr

/-- The candidates verified in turn: `n` verifications and `m` failures remain (R148). -/
def dsVerify (b : Body) (seq vrf fam addr : Nat) : Nat → Nat → List (Nat × Nat × Bool) → DsRes → Body × DsRes
  | _, _, [], r => (b, r)
  | 0, _, _, r => (b.fault Pg.ds R.DS_FLT_VERIFY_EXH { access := 6, inj := true }, { r with exhausted := true })
  | n + 1, m, (i, len, wd) :: l, r =>
    let e := b.entV seq Tbl.ds i
    let par := b.parityBad Tbl.ds i
    if par || !dsMatches e 0 vrf fam addr then
      let b := (b.sat Pg.ds R.DS_FALSE_HIT).fire Pg.ds (if par then R.DS_EVT_PARITY else R.DS_EVT_FALSEHIT)
      match m with
      | 0 | 1 => (b.fault Pg.ds R.DS_FLT_VERIFY_EXH { access := 6, inj := true }, { r with exhausted := true })
      | m' + 2 => b.dsVerify seq vrf fam addr n (m' + 1) l r
    else if wd then b.dsVerify seq vrf fam addr n m l { r with withdrawn := len :: r.withdrawn }
    else (b, { r with route := some (len, dsNh e) })

/-- A search of the Dripstone CAM (R147, R148). -/
def dsSearch (b : Body) (seq vrf fam addr : Nat) : Body × DsRes :=
  let cands := (b.entIdxs Tbl.ds).filterMap fun i =>
    let e := b.entV seq Tbl.ds i
    if dsMatches e (b.camFlip Tbl.ds i) vrf fam addr then some (i, dsLen e, dsWithdraw e) else none
  b.dsVerify seq vrf fam addr 8 4 (cands.foldr (insSorted dsBefore) []) {}

/-- The code of R149, from length `len` down, with `reads` result words still to read. -/
def longest (b : Body) (seq missNh : Nat) (ds : DsRes) (ms : List (Nat × Nat)) : Nat → Nat → Body × Nat
  | reads, len =>
    let here (b : Body) (reads : Nat) (next : Body → Nat → Body × Nat) : Body × Nat :=
      match ds.route with
      | some (l, nh) =>
        if l = len then (b, nh) else
          match ms.find? (fun x => x.1 == len && !ds.withdrawn.contains len) with
          | none => next b reads
          | some (_, r) =>
            match reads with
            | 0 => (b, missNh)
            | reads + 1 => match b.trieRes seq r with
              | some nh => (b, nh)
              | none => next b.lpmParity reads
      | none =>
        match ms.find? (fun x => x.1 == len && !ds.withdrawn.contains len) with
        | none => next b reads
        | some (_, r) =>
          match reads with
          | 0 => (b, missNh)
          | reads + 1 => match b.trieRes seq r with
            | some nh => (b, nh)
            | none => next b.lpmParity reads
    match len with
    | 0 => here b reads (fun b _ => (b, missNh))
    | n + 1 => here b reads (fun b reads => b.longest seq missNh ds ms reads n)

/-- LPM of an address (R139, R149): a next hop, or the drop it would make. -/
def lpm (b : Body) (seq vrf fam addr : Nat) : Body × (RouteDrop ⊕ Nat) :=
  let ri := 2 * vrf + fam
  let root := b.entV seq Tbl.root ri
  let rootBad := b.parityBad Tbl.root ri
  let b := if rootBad then b.lpmParity else b
  let ok := !rootBad && bitOn root 63
  let (b, ms) := if ok && !bitOn root 31 then
      b.trieWalk seq (famBits fam) addr (b.rd Pg.lpm R.LPM_MAX_NODES) (root % 2 ^ 23) 0 []
    else (b, [])
  let (b, ds) := b.dsSearch seq vrf fam addr
  if !ok then (b, .inl .noVrf)
  else if ds.exhausted then (b, .inl .verifyExh)
  else
    let r := b.longest seq (bitField root 55 32) ds ms 2 (famBits fam)
    (r.1, .inr r.2)

/-- The port whose LKP_PORT entry a pass reads (R132): its source's, which on the second pass is the Gallery's recirculation port. -/
def lkpSource (g port : Nat) (pass2 : Bool) : Nat := if pass2 then 512 + g else port

/-- The LKP_PORT entry of a port (R168). -/
def lkpPort (b : Body) (port : Nat) : Nat := b.ent Tbl.lkp port

/-- The IP case of R132 in VRF `vrf` on the slot 2 header. -/
def lookupIp (b : Body) (seq lkp vrf : Nat) (h : HV) : Body × (RouteDrop ⊕ Nat) :=
  let v4 := (h.slot 2).ty == 16 || (h.slot 2).ty == 17
  let fam := if v4 then 0 else 1
  let noip := bitField lkp 87 64
  if ¬ bitOn lkp 127 then (b, .inr noip)
  else
    let (b, hit) := if bitOn lkp 14 then
        b.exmFind seq (if v4 then .host4 vrf h.odst else .host6 vrf h.odst)
      else (b, none)
    let (b, r) := if bitOn lkp 13 then b.lpm seq vrf fam h.odst else (b, .inr noip)
    match hit with
    | some l => (b, .inr (b.exmResAt seq l))
    | none => (b, r)

/-- Whether slot 2 holds an IP header. -/
def hasIp (h : HV) : Bool := decide (16 ≤ (h.slot 2).ty ∧ (h.slot 2).ty ≤ 19)

/-- The forwarding lookup of a pass (R132): its result, and whether it was made in the IP case. -/
def lookupFirst (b : Body) (seq port : Nat) (h : HV) : Body × (RouteDrop ⊕ Nat) × Bool :=
  let lkp := b.lkpPort port
  let noip := bitField lkp 87 64
  if ¬ bitOn lkp 127 then (b, .inr noip, hasIp h && (h.slot 1).ty != 8)
  else if (h.slot 1).ty = 8 ∧ bitOn lkp 15 then
    let (b, hit) := b.exmFind seq (.label (bitField lkp 31 16) (h.lse.getD 0 0 / 4096))
    match hit with
    | some l => (b, .inr (b.exmResAt seq l), false)
    | none => (b, .inr (bitField lkp 55 32), false)
  else if hasIp h then
    let (b, r) := b.lookupIp seq lkp h.vrf h
    (b, r, true)
  else (b, .inr noip, false)

/-- A parity failure of the next-hop region (R162). -/
def nhParity (b : Body) : Body := (b.sat Pg.lkp R.LKP_NH_PARITY).fire Pg.lkp R.LKP_EVT_PARITY

/-- A chain that breaks R134. -/
def chainErr (b : Body) : Body := (b.sat Pg.lkp R.LKP_CHAIN_ERR).fire Pg.lkp R.LKP_EVT_INVALID

/-- The member that a flow takes of an ECMP group (R160). -/
def ecmpMember (b : Body) (seq grp hash : Nat) : Body × (RouteDrop ⊕ Nat) :=
  let e := b.entV seq Tbl.ecmp grp
  if b.parityBad Tbl.ecmp grp then (b.nhParity, .inl .parity)
  else
    let size := bitField e 41 32
    let base := e % 2 ^ 25
    if ¬ bitOn e 127 ∨ size = 0 ∨ 512 < size ∨ 33554432 < base + size then (b, .inl .invalid)
    else
      let h16 := (hash / 2 ^ 16) ^^^ (hash % 2 ^ 16)
      let m := base + h16 * size / 2 ^ 16
      let blk := 262144 + m / 4
      if b.parityBad Tbl.ecmp blk then (b.nhParity, .inl .parity)
      else
        let w := b.entV seq Tbl.ecmp blk / 2 ^ (32 * (m % 4)) % 2 ^ 32
        if bitOn w 31 then (b, .inr (w % 2 ^ 24)) else (b, .inl .invalid)

/-- The chain from a next-hop index (R133, R134): `fuel` next-hop entries may still be read. -/
def chain (b : Body) (seq lkp : Nat) (h : HV) : Nat → Nat → Bool → Route → Body × Route
  | 0, _, _, r => (b.chainErr, { r with drop := some .chain })
  | fuel + 1, nh, member, r =>
    let r := { r with nh := nh }
    if 4194304 ≤ nh then (b, { r with drop := some .invalid })
    else if b.parityBad Tbl.nh nh then (b.nhParity, { r with drop := some .parity })
    else
      let e := b.entV seq Tbl.nh nh
      let t := if nhValid e then nhType e else 0
      let r := { r with ent := e }
      if t = 0 ∨ 8 ≤ t then (b, { r with drop := some .invalid })
      else if (t = 2 ∨ t = 3) ∧ member then (b.chainErr, { r with drop := some .chain })
      else if t = 2 then
        match b.ecmpMember seq (nhArg e % 2 ^ 18) h.flowHash with
        | (b, .inl d) => (b, { r with drop := some d })
        | (b, .inr m) => b.chain seq lkp h fuel m true r
      else if t = 3 then
        if r.popped then (b.chainErr, { r with drop := some .chain })
        else if ¬ hasIp h then (b, { r with drop := some .popNoIp })
        else
          match b.lookupIp seq lkp (nhVrf e) h with
          | (b, .inl d) => (b, { r with drop := some d, popped := true, ipCase := true })
          | (b, .inr m) => b.chain seq lkp h fuel m false { r with popped := true, ipCase := true }
      else (b, r)

/-- The route result of a pass: the lookup, or CLS_NH under REDIRECT_NH, and its chain (R132, R134). -/
def route (b : Body) (seq port : Nat) (h : HV) (redirect : Option Nat) : Body × Route :=
  let lkp := b.lkpPort port
  let (b, first, ip) := b.lookupFirst seq port h
  match redirect, first with
  | some nh, _ => b.chain seq lkp h 3 nh false { ipCase := hasIp h && (h.slot 1).ty != 8 }
  | none, .inl d => (b, { drop := some d, ipCase := ip })
  | none, .inr nh => b.chain seq lkp h 3 nh false { ipCase := ip }

/-- An encapsulation entry as read (R161): its kind and its data bytes. -/
def encRead (b : Body) (seq idx : Nat) : Body × (RouteDrop ⊕ (Nat × List Byte)) :=
  if 983040 ≤ idx then (b, .inl .invalid)
  else if b.parityBad Tbl.encap idx then (b.nhParity, .inl .parity)
  else
    let e := b.entV seq Tbl.encap idx
    let len := e % 2 ^ 7
    let cont := bitOn e 29
    let data (v : Nat) : List Byte := (leBytes 64 v).drop 4
    if ¬ bitOn e 31 ∨ ¬ bitOn e 30 ∨ 120 < len ∨ (60 < len ∧ ¬ cont) ∨ (len ≤ 60 ∧ cont) then (b, .inl .invalid)
    else if ¬ cont then (b, .inr (bitField e 23 16, (data e).take len))
    else if 983040 ≤ idx + 1 then (b, .inl .invalid)
    else if b.parityBad Tbl.encap (idx + 1) then (b.nhParity, .inl .parity)
    else
      let c := b.entV seq Tbl.encap (idx + 1)
      if ¬ bitOn c 31 ∨ bitOn c 30 then (b, .inl .invalid)
      else (b, .inr (bitField e 23 16, (data e ++ data c).take len))

end Body

end Sys2Proof.Machine
end

