-- ==== Sys2Proof/Machine/Action.lean ====
section
/-! DEFINITION. The action engines of stage 6 (R169 to R201): policers, the final disposition, TTL, the queue, SRv6 endpoints,
the rewrite descriptor with its encapsulation kinds, punts, copies and injected packets. -/

namespace Sys2Proof.Machine

/-- Indices of the action page's counters (R201). -/
def ACT_DROP_CLS : Nat := 0
def ACT_DROP_POL : Nat := 1
def ACT_DROP_NH : Nat := 2
def ACT_DROP_TTL : Nat := 3
def ACT_DROP_POP : Nat := 4
def ACT_DROP_QPORT : Nat := 5
def ACT_DROP_SID : Nat := 6
def ACT_IDX_ERR : Nat := 7
def ACT_HCHK_ERR : Nat := 8
def ACT_TTL_EXP : Nat := 9
def ACT_PUNT_HOST : Nat := 10
def ACT_PUNT_GRT : Nat := 11
def ACT_COPY : Nat := 12
def ACT_GREEN : Nat := 13
def ACT_INJ_LOOKUP : Nat := 16
def ACT_INJ_DIRECT : Nat := 17
def ACT_INJ_BAD : Nat := 18

/-! Policers. -/

def polMode (c : Nat) : Nat := bitField c 135 134
def polAware (c : Nat) : Bool := bitOn c 133
def polPkt (c : Nat) : Bool := bitOn c 132
def polYAct (c : Nat) : Nat := bitField c 131 130
def polRAct (c : Nat) : Nat := bitField c 129 128
def polOverhead (c : Nat) : Int := signed 8 (bitField c 143 136)
def polYDscp (c : Nat) : Nat := bitField c 151 146
def polRDscp (c : Nat) : Nat := bitField c 159 154
def polValid (c : Nat) : Bool := bitOn c 255
def polCir (c : Nat) : Nat := c % 2 ^ 32
def polPir (c : Nat) : Nat := bitField c 63 32
def polCbs (c : Nat) : Nat := bitField c 91 64
def polPbs (c : Nat) : Nat := bitField c 123 96

/-- Tokens accrued over `dt` ns at a rate, in 1/1,024 units, from the carried part: whole units and the new carried part.
A rate in kbit/s is 128 / 10^6 units a nanosecond; one in packets/s is 1,024 / 10^9 (R176, R178). -/
def accrue (pkt : Bool) (rate dt carry : Nat) : Nat × Nat :=
  let d := if pkt then 1000000000 else 1000000
  let x := rate * dt * (if pkt then 1024 else 128) + carry
  (x / d, x % d)

/-- The accrual of R178 to time `now` under configuration `c`. -/
def polAccrue (c : Nat) (st : PolSt) (now : Nat) : PolSt :=
  let dt := wrapSub 64 now st.last
  let cbs := polCbs c * 1024
  let pbs := polPbs c * 1024
  let (ac, remC) := accrue (polPkt c) (polCir c) dt st.remC
  let tc := min (st.tc + ac) (max st.tc cbs)
  let (ap, remP) := if polMode c = 1 then accrue (polPkt c) (polPir c) dt st.remP else (0, st.remP)
  let tp := if polMode c = 0 then min (st.tp + (st.tc + ac - tc)) (max st.tp pbs)
    else if polMode c = 1 then min (st.tp + ap) (max st.tp pbs) else st.tp
  { tc := tc, tp := tp, last := now, remC := remC, remP := remP }

/-- The tokens a packet of `len` bytes asks for, in 1/1,024 units (R178). -/
def polNeed (c len : Nat) : Nat := (if polPkt c then 1 else max 1 ((len : Int) + polOverhead c).toNat) * 1024

/-- The colour of a packet that needs `n` tokens, with input colour `inp` (0 green, 1 yellow, 2 red), and the buckets
after it (R178). -/
def polColour (c : Nat) (st : PolSt) (inp n : Nat) : PolSt × Nat :=
  if polAware c ∧ inp = 2 then (st, 2)
  else if polMode c = 1 then
    if st.tp < n then (st, 2)
    else if (polAware c ∧ inp = 1) ∨ st.tc < n then ({ st with tp := st.tp - n }, 1)
    else ({ st with tc := st.tc - n, tp := st.tp - n }, 0)
  else if (¬ polAware c ∨ inp = 0) ∧ n ≤ st.tc then ({ st with tc := st.tc - n }, 0)
  else if polMode c = 0 ∧ n ≤ st.tp then ({ st with tp := st.tp - n }, 1)
  else (st, 2)

namespace Body

/-- The time of day in ns modulo 2^64, as policers keep it (R176). -/
def polNow (b : Body) : Nat := b.ns % 2 ^ 64

/-- The state of a policer. -/
def polSt (b : Body) (i : Nat) : PolSt := Sp.get {} b.pipe.pol i

/-- The body with a policer's state set. -/
def setPol (b : Body) (i : Nat) (s : PolSt) : Body := { b with pipe := { b.pipe with pol := Sp.set {} b.pipe.pol i s } }

/-- A policer state found uncorrectable is zeroed and booked (R181). -/
def polHeal (b : Body) (i : Nat) : Body :=
  if b.pipe.polBad.contains i then
    let st := b.polSt i
    let (ok, b) := b.mirrored
    let b := (b.setPol i { st with tc := 0, tp := 0, remC := 0, remP := 0 }).lose ledTokens (if ok then st.tc + st.tp else 0)
    let b := { b with pipe := { b.pipe with polBad := b.pipe.polBad.filter (· ≠ i) } }
    (b.sat Pg.stc R.POL_LOST).fault Pg.stc R.POL_FLT_ECC { access := 6, detail := i, inj := true }
  else b

/-- One meter for a packet: nothing where it is skipped, else the colour and the configuration. The counter to add at
stage 7 goes with it (R174, R178, R181). -/
def police (b : Body) (seq g i inp len : Nat) : Body × Option (Nat × Nat) × List (Nat × Nat) :=
  if 1048576 ≤ i then (b.fire (Pg.act g) R.ACT_EVT_IDX, none, [(Pg.act g, ACT_IDX_ERR)])
  else if b.parityBad Tbl.pol i then ((b.sat Pg.stc R.POL_PAR).fire Pg.stc R.POL_EVT_PAR, none, [])
  else
    let c := b.entV seq Tbl.pol i
    if ¬ polValid c then (b.fire (Pg.act g) R.ACT_EVT_IDX, none, [(Pg.act g, ACT_IDX_ERR)])
    else
      let live := polValid (b.ent Tbl.pol i)
      let b := b.polHeal i
      let s0 := if live then b.polSt i else { last := b.polNow }
      let sa := polAccrue c s0 b.polNow
      let (s1, col) := polColour c sa inp (polNeed c len)
      if live then
        let b := (b.ledIn ledTokens (sa.tc + sa.tp - (s0.tc + s0.tp))).ledOut ledTokens (sa.tc + sa.tp - (s1.tc + s1.tp))
        (b.setPol i s1, some (col, c), [])
      else (b, some (col, c), [])

/-- The port to which the Scheduler attaches a subscriber node, if it is attached (R175, R235). -/
def subPort (b : Body) (s : Nat) : Option Nat :=
  let e := b.ent Tbl.schSub s
  let v := b.ent Tbl.schSvc (e % 2 ^ 14)
  if bitOn e 127 ∧ bitOn v 127 then some (v % 2 ^ 10) else none

end Body

/-! What stage 6 decides to do with a packet. -/

/-- The plan for a packet: a drop with its counter, a route drop, forwarding, a punt, or recirculation. `sid` is a frame
start replaced by an SRv6 endpoint: the bytes removed, the bytes put in their place, and where the IPv6 header lies in
them; for a termination `strip` and the bytes to put in front. -/
inductive Plan where
  | drop (ctr : Nat) (nh : Bool)
  | routeDrop (d : RouteDrop)
  | fwd (port sub enc : Nat) (sid : Option (Nat × List Byte))
  | punt (port reason : Nat) (counted nh : Bool)
  | rcy (vrf : Option Nat) (sid : Option (Nat × List Byte)) (endB keepIp nh : Bool)
deriving DecidableEq, Repr

/-- The SRH of a packet is in slot 4 with a segment left: the frame start as END leaves it (R190). -/
def endEdit (h : HV) (d : List Byte) (dec : Nat) : Option (Nat × List Byte) :=
  let s2 := (h.slot 2).off
  let q := (h.slot 4).off
  if (h.slot 4).ty = 34 ∧ h.srhSl ≠ 0 ∧ 18 ≤ (h.slot 2).ty ∧ (h.slot 2).ty ≤ 19 then
    let sl := h.srhSl - 1
    let pre := d.take (q + 4)
    let pre := patchBytes pre (q + 3) [BitVec.ofNat 8 sl]
    let pre := patchBytes pre (s2 + 24) (slice d (q + 8 + 16 * sl) 16)
    some (q + 4, patchBytes pre (s2 + 7) [BitVec.ofNat 8 (h.ottl - dec)])
  else none

/-- The C-SID argument shifted left by one C-SID, where it is not zero (R190). `blk` is the block and `cl` the C-SID in
bytes. -/
def csidEdit (h : HV) (d : List Byte) (blk cl dec : Nat) : Option (Nat × List Byte) :=
  let s2 := (h.slot 2).off
  let arg := slice (beBytes 16 h.odst) (blk + cl) (16 - blk - cl)
  if beNat arg ≠ 0 ∧ 18 ≤ (h.slot 2).ty ∧ (h.slot 2).ty ≤ 19 then
    let dst := slice (beBytes 16 h.odst) 0 blk ++ arg ++ List.replicate cl 0
    let pre := patchBytes (d.take (s2 + 40)) (s2 + 24) dst
    some (s2 + 40, patchBytes pre (s2 + 7) [BitVec.ofNat 8 (h.ottl - dec)])
  else none

/-- The bytes in front of the IPv6 header that a frame keeps: all of them, or, where the chain has popped the whole label stack (R159),
its Ethernet header and tags with the type of the header. -/
def unlabelled (h : HV) (popped : Bool) (pre : List Byte) : List Byte :=
  if popped ∧ (h.slot 1).ty = 8 then
    pre.take ((h.slot 1).off - 2) ++ beBytes 2 (if (h.slot 2).ty ≤ 17 then 0x0800 else 0x86DD) ++ pre.drop (h.slot 2).off
  else pre

/-- The Ethernet header that stands in front of an inner IP header on its second pass: the addresses of slot 0 and the
type of the header. The second pass parses from an Ethernet header (R100), and R190 gives it the inner header (DEDUCED, log entry 25). -/
def etherFor (d : List Byte) (v6 : Bool) : List Byte := d.take 12 ++ beBytes 2 (if v6 then 0x86DD else 0x0800)

namespace Body

/-- What a LOCAL_SID next hop does (R190). `dec` is 1 where the pass decrements the hop limit. END_DT4, END_DT6 and END_DT46 ask for no
segment left, as RFC 8986 does: a packet with one is discarded, counted in ACT_DROP_SID (the counter DESIGN CHOICE, log entry 43). -/
def sidPlan (b : Body) (seq g : Nat) (r : Route) (h : HV) (d : List Byte) (dec : Nat) : Plan :=
  let code := nhAux r.ent
  let blk := b.rdV seq (Pg.act g) R.ACT_CSID_BLK
  let cl := if b.rdV seq (Pg.act g) R.ACT_CSID_LEN = 1 then 4 else 2
  let csid := csidEdit h d blk cl dec
  let edit := if code = 8 ∨ code = 9 then csid.orElse (fun _ => endEdit h d dec) else endEdit h d dec
  let vrf := some (nhVrf r.ent)
  let t6 := (h.slot 6).ty
  let v4 := t6 == 16 || t6 == 17
  let v6 := t6 == 18 || t6 == 19
  if code = 1 ∨ code = 8 then
    match edit with
    | some e => .rcy none (some (e.1, unlabelled h r.popped e.2)) true true true
    | none => .punt 528 0x14 true true
  else if code = 2 ∨ code = 9 then
    match edit with
    | some e => if nhPort r.ent < 512 ∧ nhArg r.ent < 983040 then .fwd (nhPort r.ent) (nhSub r.ent) (nhArg r.ent) (some e)
                else .routeDrop .invalid
    | none => .punt 528 0x14 true true
  else if code = 3 ∨ code = 4 ∨ code = 5 then
    if ((code ≠ 4 ∧ v4) ∨ (code ≠ 3 ∧ v6)) ∧ ¬ ((h.slot 4).ty = 34 ∧ h.srhSl ≠ 0) then
      .rcy vrf (some ((h.slot 6).off, etherFor d v6)) false false true
    else .drop ACT_DROP_SID true
  else if code = 0x20 then
    let t5 := (h.slot 5).ty
    if 1 ≤ t5 ∧ t5 ≤ 4 then .rcy vrf (some ((h.slot 5).off, [])) false false true else .drop ACT_DROP_SID true
  else if code = 0x21 then
    if v4 ∨ v6 then .rcy vrf (some ((h.slot 6).off, etherFor d v6)) false false true else .drop ACT_DROP_SID true
  else .routeDrop .invalid

/-- The plan of a route result (R174). -/
def routePlan (b : Body) (seq g : Nat) (r : Route) (h : HV) (d : List Byte) (dec : Nat) : Plan :=
  match r.drop with
  | some x => .routeDrop x
  | none =>
    match nhType r.ent with
    | 1 => if nhPort r.ent < 512 ∧ nhArg r.ent < 983040 then .fwd (nhPort r.ent) (nhSub r.ent) (nhArg r.ent) none
           else .routeDrop .invalid
    | 4 => if 520 ≤ nhPort r.ent ∧ nhPort r.ent ≤ 528 ∧ 0x40 ≤ nhAux r.ent then
             .punt (nhPort r.ent) (nhAux r.ent) true true
           else .routeDrop .invalid
    | 5 => .drop ACT_DROP_NH true
    | 6 =>
      let q := (h.slot 2).off
      .rcy (some (nhVrf r.ent)) (if r.popped then some (q, unlabelled h true (d.take q)) else none) false true true
    | 7 => b.sidPlan seq g r h d dec
    | _ => .routeDrop .invalid

/-- The plan of the combined result with the route result (R173). -/
def plan (b : Body) (seq g : Nat) (c : Comb) (r : Route) (h : HV) (d : List Byte) (dec : Nat) : Plan :=
  match c.disp with
  | 1 => .drop ACT_DROP_CLS false
  | 2 => .punt 528 0x12 true false
  | 3 => .punt (520 + g) 0x12 true false
  | 4 => .rcy none none false true false
  | _ => b.routePlan seq g r h d dec

end Body

/-- Whether a plan recirculates. -/
def Plan.isRcy : Plan → Bool
  | .rcy _ _ _ _ _ => true
  | _ => false

/-! The rewrite descriptor. -/

/-- Whether a kind's block may have `n` bytes (R186). -/
def kindLen (k n : Nat) : Bool :=
  match k with
  | 1 => n == 0
  | 2 => n % 4 == 0 && decide (4 ≤ n ∧ n ≤ 64)
  | 3 => n == 64 || n == 80 || n == 96
  | 4 => n == 40 || n == 64 || n == 80 || n == 96
  | 5 => n == 24 || n == 28
  | 6 => n == 44 || n == 48
  | 7 => n == 24 || n == 28
  | 8 => n == 44 || n == 48
  | 9 => n == 36
  | 10 => n == 56
  | _ => false

/-- What a packet carries under its new headers. -/
inductive Carried where
  | eth | mpls | ip4 | ip6 | other
deriving DecidableEq, Repr

def Carried.etype (own : Nat) : Carried → Nat
  | .ip4 => 0x0800 | .ip6 => 0x86DD | .mpls => 0x8847 | .eth => 0x6558 | .other => own

def Carried.proto (own : Nat) : Carried → Nat
  | .ip4 => 4 | .ip6 => 41 | .mpls => 137 | _ => own

/-- A label entry's fields: TC, bottom of stack, TTL. -/
def lseSet (e : Nat) (tc : Option Nat) (s : Option Bool) (ttl : Option Nat) : Nat :=
  let e := match tc with | some c => setBitField e 11 9 c | none => e
  let e := match s with | some x => setBitField e 8 8 (b2n x) | none => e
  match ttl with | some t => setBitField e 7 0 t | none => e

/-- The pushed labels of an MPLS block (R187, R192): `n` labels remain, T and C are absent in pipe mode, and of a swap the
last one takes them all the same. -/
def pushLabels (bottom : Bool) (t c tl cl : Option Nat) : List Byte → List Byte
  | a :: b :: d :: e :: rest =>
    let last := rest.isEmpty
    let v := lseSet (beNat [a, b, d, e]) (if last then cl else c) (some (last && bottom)) (if last then tl else t)
    beBytes 4 v ++ pushLabels bottom t c tl cl rest
  | _ => []

/-- The template of an outer IPv4 header as filled (R187, R192). -/
def fillIp4 (kb : List Byte) (ident proto : Nat) (t c : Option Nat) : List Byte :=
  let kb := patchBytes kb 4 (beBytes 2 ident)
  let kb := patchBytes kb 9 [BitVec.ofNat 8 proto]
  let kb := match t with | some t => patchBytes kb 8 [BitVec.ofNat 8 t] | none => kb
  match c with | some c => patchBytes kb 1 [BitVec.ofNat 8 (c * 32 + beAt kb 1 1 % 4)] | none => kb

/-- The template of an outer IPv6 header as filled (R187, R192). -/
def fillIp6 (kb : List Byte) (proto hash : Nat) (t c : Option Nat) : List Byte :=
  let kb := patchBytes kb 6 [BitVec.ofNat 8 proto]
  let kb := match t with | some t => patchBytes kb 7 [BitVec.ofNat 8 t] | none => kb
  let w := beAt kb 0 4
  let w := match c with | some c => setBitField w 27 20 (c * 32 + bitField w 27 20 % 4) | none => w
  let w := if w % 2 ^ 20 = 0 then w + (if hash % 2 ^ 20 = 0 then 1 else hash % 2 ^ 20) else w
  patchBytes kb 0 (beBytes 4 w)

/-- The UDP header of a VXLAN block as filled. -/
def fillUdp (kb : List Byte) (at_ hash : Nat) : List Byte :=
  let h16 := (hash / 2 ^ 16) ^^^ (hash % 2 ^ 16)
  patchBytes (patchBytes kb at_ (beBytes 2 (0xC000 + h16 % 0x4000))) (at_ + 6) [0, 0]

namespace Body

/-- The IPv4 identification of a new outer header: 0 with DF, else the Gallery's counter, which goes up by 1 (R187). -/
def nextIpId (b : Body) (g : Nat) (df : Bool) : Body × Nat :=
  if df then (b, 0)
  else
    let v := Sp.get 0 b.pipe.ipId g
    ({ b with pipe := { b.pipe with ipId := Sp.set 0 b.pipe.ipId g ((v + 1) % 0x10000) } }, v)

/-- The descriptor of a forwarded packet (R185 to R193): `dec` tells whether the pass decrements, `dscp` is a remark, `sid`
an endpoint's frame start. Answers a drop where the encapsulation or the pop is not possible. -/
def describe (b : Body) (seq g : Nat) (p : Pkt) (r : Route) (enc : Nat) (dec : Bool) (dscp : Option Nat)
    (sid : Option (Nat × List Byte)) : Body × ((Option RouteDrop) ⊕ Pkt) :=
  match b.encRead seq enc with
  | (b, .inl d) => (b, .inl (some d))
  | (b, .inr (kind, data)) =>
    let tags := beAt data 12 1 / 64
    let l2n := 16 + 4 * tags
    let kb := data.drop l2n
    if tags = 3 ∨ data.length < l2n ∨ ¬ kindLen kind kb.length ∨ (sid.isSome ∧ kind ≠ 1) then
      (b, .inl (some .invalid))
    else
      let h := p.hv
      let flen := p.len - 4
      let lab := (h.slot 1).ty == 8 && !r.popped && sid.isNone
      let s1 := (h.slot 1).off
      let s2 := (h.slot 2).off
      let v4 := (h.slot 2).ty == 16 || (h.slot 2).ty == 17
      let ip := Body.hasIp h
      let eth := decide (7 ≤ kind)
      let m := if eth then 0 else nhPop r.ent
      if lab ∧ (h.labelCnt < m ∨ (m = h.labelCnt ∧ ¬ ip)) then (b, .inl none)
      else
        let rem := lab && decide (m < h.labelCnt)
        let carried : Carried := if eth then .eth else if rem then .mpls
          else if ip then (if v4 then .ip4 else .ip6) else .other
        -- where the frame is cut, before any header that is rebuilt
        let c0 := if eth then 0 else if lab then s1 + 4 * m else if ip then s2 else 14 + 4 * h.vlanCnt
        -- T and C (R192)
        let labTtl := lab && !r.ipCase
        let top := beAt p.data s1 4
        let ft := if labTtl then some (top % 256) else if ip then some h.ottl else none
        let t := ft.map fun x => if dec then x - 1 else x
        let tosV := match dscp with | some x => x * 4 + h.otos % 4 | none => h.otos
        let c := if lab then some (bitField top 11 9) else if ip then some (tosV / 32) else none
        let ttlPipe := bitOn (beAt data 12 1) 5
        let tcPipe := bitOn (beAt data 12 1) 4
        -- the top label that stays is put back rewritten
        let lblAt := s1 + 4 * m
        let lbl := beAt p.data lblAt 4
        let newTtl := match t with
          | some t => if m = 0 then (if labTtl then t else lbl % 256)
                      else if ttlPipe then lbl % 256 else min (lbl % 256) t
          | none => lbl % 256
        let edLbl := rem && newTtl != lbl % 256
        let strip := match sid with | some (q, _) => q | none => if edLbl then lblAt + 4 else c0
        let pre := match sid with
          | some (_, x) => x.drop s2
          | none => if edLbl then slice p.data c0 (lblAt - c0) ++ beBytes 4 (lseSet lbl none none (some newTtl)) else []
        -- edits of the slot 2 header
        let edTtl := ip && sid.isNone && ft.isSome && !(t == some h.ottl) &&
          (!lab || r.ipCase || (!rem && !ttlPipe))
        let edTos := ip && dscp.isSome
        let dl := if v4 then beAt p.data (s2 + 2) 2 else beAt p.data (s2 + 4) 2 + 40
        let l3 := carried == .ip4 || carried == .ip6
        let trim := l3 && decide (s2 + dl < flen)
        let et := carried.etype h.etype
        let l2 := data.take 12 ++ slice data 16 (4 * tags)
        let o := l2.length + 2
        let up := fun (x : Option Nat) => if ttlPipe then (none : Option Nat) else x
        let uc := fun (x : Option Nat) => if tcPipe then none else x
        let swap := lab && decide (1 ≤ m) && (m == h.labelCnt || (m == 1 && kb.length == 4))
        let (b, etOut, kb', lfix) : Body × Nat × List Byte × List (Nat × Nat) :=
          if kind = 1 then (b, et, [], [])
          else if kind = 2 then
            (b, 0x8847, pushLabels (carried != .mpls) (up t) (uc c) (if swap then t else up t) (if swap then c else uc c) kb,
              [])
          else if kind = 5 ∨ kind = 7 ∨ kind = 9 then
            let (b, ident) := b.nextIpId g (bitOn (beAt kb 6 1) 6)
            let k := fillIp4 kb ident (if kind = 9 then 17 else 47) (up t) (uc c)
            if kind = 9 then (b, 0x0800, fillUdp k 20 h.flowHash, [(1, o), (3, o + 20)])
            else (b, 0x0800, patchBytes k 22 (beBytes 2 (carried.etype (beAt k 22 2))), [(1, o)])
          else
            let srh := decide (kind = 3 ∨ kind = 4) && decide (40 < kb.length)
            let own := beAt kb (if srh then 40 else 6) 1
            let nh := if srh then 43 else if kind = 6 ∨ kind = 8 then 47 else if kind = 10 then 17
              else carried.proto own
            let k := fillIp6 kb nh h.flowHash (up t) (uc c)
            if srh then (b, 0x86DD, patchBytes k 40 [BitVec.ofNat 8 (carried.proto own)], [(2, o)])
            else if kind = 10 then (b, 0x86DD, fillUdp k 40 h.flowHash, [(2, o), (3, o + 40)])
            else if kind = 6 ∨ kind = 8 then
              (b, 0x86DD, patchBytes k 42 (beBytes 2 (carried.etype (beAt k 42 2))), [(2, o)])
            else (b, 0x86DD, k, [(2, o)])
        let ins := l2 ++ beBytes 2 etOut ++ kb' ++ pre
        let off := match sid with | some _ => l2.length + 2 | none => ins.length + s2 - strip
        let rw : Rewrite :=
          { p.rw with
            strip := strip, ins := ins, editTtl := edTtl, editTos := edTos
            ip4csum := v4 && (edTtl || edTos), trim := trim, lateLen := !l3
            ttl := if edTtl then t.getD 0 else 0, tos := if edTos then tosV else 0
            editOff := if edTtl || edTos then off else 0
            lfix := (lfix ++ [(0, 0), (0, 0), (0, 0)]).take 3 }
        (b, .inr { p with rw := rw.seal, keep := some (if trim then s2 + dl else flen) })

/-- The punt record of R196. -/
def puntRecord (p : Pkt) (reason : Nat) (copy trunc : Bool) (nh rule : Nat) : List Byte :=
  let h := p.hv
  let ns := p.ts / 65536
  leBytes 1 reason ++
  leBytes 1 (p.colour * 64 + h.inPrio * 16 + h.epoch * 4 + b2n h.pass2 * 2 + b2n copy) ++
  leBytes 2 (h.inPort * 64) ++ leBytes 2 h.vrf ++ leBytes 2 h.metaData ++ leBytes 4 h.flowHash ++
  leBytes 4 nh ++ leBytes 10 (ns / 1000000000 * 2 ^ 32 + ns % 1000000000) ++ leBytes 2 h.len ++
  leBytes 4 (b2n trunc * 2 ^ 31 + rule)

/-- A packet, or a copy, sent to a Grotto port or the host port (R175, R194, R195): none where the queue's node is under
another port. -/
def punted (b : Body) (seq g : Nat) (p : Pkt) (port reason : Nat) (copy : Bool) (nh rule : Nat) : Option Pkt :=
  let a := Pg.act g
  let nib := b.rdV seq a R.ACT_PUNT_CLS (reason / 8) / 16 ^ (reason % 8) % 16
  let sub := b.rdV seq a R.ACT_PUNT_SUB (if port = 528 then 8 else port - 520)
  if b.subPort sub ≠ some port then none
  else
    let cut := b.rdV seq a R.ACT_PUNT_TRUNC
    let flen := p.len - 4
    let trunc := decide (8 ≤ nib ∧ cut < flen)
    let rw : Rewrite := { puntRec := true, ins := puntRecord p reason copy trunc nh rule }
    some { p with outPort := port, queue := 8 * sub + nib % 8, copy := copy, reason := reason,
                  keep := some (if trunc then cut else flen), rw := rw.seal, disp := .enqueue, nh := nh, rule := rule }

end Body

/-- A packet dropped at stage 7 under one counter of its Gallery's action page. -/
def Pkt.dropAs (p : Pkt) (g ctr : Nat) (stats : List Nat) : Pkt :=
  { p with disp := .drop, cnts := p.cnts ++ [(Pg.act g, ctr)], stats := stats }

namespace Body

/-- A route drop, booked where it is found or with the packet (R139, R148, R159, R162, R188). -/
def bookRoute (b : Body) (g : Nat) (d : RouteDrop) (p : Pkt) (stats : List Nat) : Body × Pkt :=
  let p' := { p with disp := .drop, stats := stats }
  match d with
  | .noVrf => (b.sat Pg.lpm R.LPM_NO_VRF, p')
  | .verifyExh => (b.sat Pg.ds R.DS_VERIFY_EXH, p')
  | .invalid => ((b.sat Pg.lkp R.LKP_NH_INVALID).fire Pg.lkp R.LKP_EVT_INVALID, p')
  | .parity => (b, p')
  | .chain => (b, p')
  | .popNoIp => (b, p.dropAs g ACT_DROP_POP stats)

/-- The malformed action taken (R109 to R111): the packet's only count is its reason's, also where it was injected and where the queue of
its punt is under another port (R110). -/
def takeMal (b : Body) (seq g : Nat) (p : Pkt) (r act : Nat) : Body × Pkt :=
  let p := { p with mal := r, malAct := act, cnts := [(Pg.parser g, r - 1)],
                    echo := { p.echo with mal := b.malEcho seq g r } }
  if act = 2 ∨ act = 3 then
    match b.punted seq g p (if act = 2 then 528 else 520 + g) r false 0xFFFFFF 0x3FFFF with
    | some p => (b, p)
    | none => (b, { p with disp := .drop })
  else (b, { p with disp := .drop })

/-- A policer's colour action: the remark it makes, and whether it drops (R180). -/
def colourAct (col c : Nat) (dscp : Option Nat) : Option Nat × Bool :=
  let a := if col = 1 then polYAct c else if col = 2 then polRAct c else 0
  (if a = 1 then some (if col = 1 then polYDscp c else polRDscp c) else dscp, a == 2)

/-- Steps 4 and 5: policer A, then policer B (R178, R180). Answers the packet with its colour, the DSCP to write and
whether a policer drops it. -/
def policers (b : Body) (seq g : Nat) (p : Pkt) (c : Comb) : Body × Pkt × Option Nat × Bool :=
  let one := fun (b : Body) (p : Pkt) (i : Option Nat) (dscp : Option Nat) (drop : Bool) =>
    match i with
    | none => (b, p, dscp, drop)
    | some i =>
      match b.police seq g i (if p.colour = 3 then 0 else p.colour) p.hv.len with
      | (b, none, cn) => (b, { p with cnts := p.cnts ++ cn }, dscp, drop)
      | (b, some (col, cfg), cn) =>
        let (d, x) := colourAct col cfg dscp
        (b, { p with colour := col, cnts := p.cnts ++ cn }, d, drop || x)
  let (b, p, d, x) := one b p c.polA c.dscp false
  let (b, p, d, x) := one b p c.polB d x
  let p := if p.colour = 3 then p else { p with cnts := p.cnts ++ [(Pg.act g, ACT_GREEN + p.colour)] }
  (b, p, if hasIp p.hv then d else none, x)

/-- The copies of R120: to the host, then to the Gallery's Grotto port. -/
def copies (b : Body) (seq g : Nat) (p : Pkt) (c : Comb) (nh : Nat) : List Pkt :=
  let one := fun (port : Nat) (rule : Option Nat) =>
    match rule with
    | none => []
    | some ru =>
      let q := { p with rw := {}, cnts := [], stats := [], echo := {} }
      match b.punted seq g q port 0x13 true nh ru with
      | some q => [{ q with cnts := [(Pg.act g, ACT_COPY)] }]
      | none => [({ q with copy := true }).dropAs g ACT_DROP_QPORT []]
  one 528 c.copyHost ++ one (520 + g) c.copyGrt

/-- The queue class of a packet that is not punted (R175). -/
def queueClass (b : Body) (seq g : Nat) (c : Comb) (prio : Nat) : Nat :=
  match c.qclass with
  | some x => x
  | none => b.rdV seq (Pg.act g) R.ACT_DEF_QCLASS / 8 ^ prio % 8

/-- The rewrite of a recirculated packet: an endpoint's or a termination's frame start, and a remark of the slot 2 header
where it stays (R124, R180, R190). -/
def rcyRewrite (p : Pkt) (sid : Option (Nat × List Byte)) (keepIp : Bool) (dscp : Option Nat) : Pkt :=
  let h := p.hv
  let v4 := (h.slot 2).ty == 16 || (h.slot 2).ty == 17
  let ed := keepIp && hasIp h && dscp.isSome
  let rw : Rewrite :=
    { p.rw with strip := match sid with | some (q, _) => q | none => 0
                ins := match sid with | some (_, x) => x | none => []
                editTos := ed, ip4csum := ed && v4
                tos := if ed then dscp.getD 0 * 4 + h.otos % 4 else 0
                editOff := if ed then (h.slot 2).off + (sid.map fun x => x.2.length).getD 0 - (sid.map (·.1)).getD 0 else 0 }
  { p with rw := rw.seal, keep := some (p.len - 4) }

/-- Steps 6 to 9 for a packet that is not removed: TTL, queue and port check, descriptor, copies (R172). -/
def finishAct (b : Body) (seq g : Nat) (p : Pkt) (c : Comb) (r : Route) (pl : Plan) (dec : Bool) (dscp : Option Nat) :
    Body × Pkt × List Pkt :=
  let cc := c.counters
  let nhc := if nhCounter r.ent = 0 then [] else [nhCounter r.ent]
  let ttlApplies : Bool := match pl with
    | .fwd _ _ _ _ => dec
    | .rcy _ _ e _ _ => dec && e
    | _ => false
  let isEnd : Bool := match pl with
    | .fwd _ _ _ s => s.isSome
    | .rcy _ _ e _ _ => e
    | _ => false
  if ttlApplies ∧ (p.hv.fTtlLe1 ∨ (isEnd ∧ p.hv.ottl ≤ 1)) then
    let p := { p with cnts := p.cnts ++ [(Pg.act g, ACT_TTL_EXP)], stats := cc }
    match b.rdV seq (Pg.act g) R.ACT_TTL_ACT with
    | 0 => (b, p.dropAs g ACT_DROP_TTL cc, [])
    | a =>
      match b.punted seq g p (if a = 1 then 528 else 520 + g) 0x11 false r.nh c.rule with
      | some q => (b, { q with cnts := q.cnts ++ [(Pg.act g, if a = 1 then ACT_PUNT_HOST else ACT_PUNT_GRT)]
                               echo := { q.echo with cls := c.echo } }, [])
      | none => (b, p.dropAs g ACT_DROP_QPORT cc, [])
  else
    let done := fun (b : Body) (p : Pkt) (nh : Bool) =>
      (b, { p with stats := if nh then cc ++ nhc else cc, echo := { p.echo with cls := c.echo } })
    match pl with
    | .fwd port sub enc sid =>
      if b.subPort sub ≠ some port then (b, p.dropAs g ACT_DROP_QPORT cc, [])
      else
        let p := { p with outPort := port, queue := 8 * sub + b.queueClass seq g c p.hv.inPrio, nh := r.nh, rule := c.rule }
        match b.describe seq g p r enc dec dscp sid with
        | (b, .inl (some d)) =>
          let (b, p) := b.bookRoute g d p (cc ++ nhc)
          (b, p, [])
        | (b, .inl none) => (b, p.dropAs g ACT_DROP_POP (cc ++ nhc), [])
        | (b, .inr q) =>
          let (b, q) := done b q true
          (b, q, b.copies seq g p c r.nh)
    | .punt port reason counted nh =>
      match b.punted seq g p port reason false (if nh then r.nh else 0xFFFFFF) c.rule with
      | none => (b, p.dropAs g ACT_DROP_QPORT cc, [])
      | some q =>
        let q := if counted then
            { q with cnts := q.cnts ++ [(Pg.act g, if port = 528 then ACT_PUNT_HOST else ACT_PUNT_GRT)] } else q
        let (b, q) := done b q nh
        (b, q, b.copies seq g p c (if nh then r.nh else 0xFFFFFF))
    | .rcy vrf sid endB keepIp nh =>
      let sub := b.rdV seq (Pg.act g) R.ACT_RCY_SUB
      let p := match vrf with | some v => { p with hv := p.hv.update fun h => { h with vrf := v } } | none => p
      if b.subPort sub ≠ some (512 + g) then (b, p.dropAs g ACT_DROP_QPORT cc, [])
      else
        let q := { p with outPort := 512 + g, queue := 8 * sub + b.queueClass seq g c p.hv.inPrio
                          ttlDone := endB && dec, nh := if nh then r.nh else 0xFFFFFF, rule := c.rule }
        let (b, q) := done b (rcyRewrite q sid keepIp dscp) nh
        (b, q, b.copies seq g p c (if nh then r.nh else 0xFFFFFF))
    | .drop ctr nh => (b, p.dropAs g ctr (if nh then cc ++ nhc else cc), [])
    | .routeDrop d =>
      let (b, p) := b.bookRoute g d p cc
      (b, p, [])

/-- The counter of the terminal next hop, where its disposition is the packet's (R182): a lookup or a chain that fails names none. -/
def nhCount (r : Route) : List Nat :=
  let own : Bool := match r.drop with
    | none => true
    | some .invalid => nhValid r.ent && (nhType r.ent == 0 || decide (8 ≤ nhType r.ent))
    | _ => false
  if own && decide (nhCounter r.ent ≠ 0) then [nhCounter r.ent] else []

/-- A failed HV_CHECK (R199): its count, event and fault, and what becomes of the packet. -/
def hvErr (b : Body) (g : Nat) : Body :=
  ((b.count (Pg.act g) ACT_HCHK_ERR).fire (Pg.act g) R.ACT_EVT_HCHK).fault (Pg.act g) R.ACT_FLT_HCHK { access := 6, inj := true }
def hvLost (p : Pkt) : Pkt := { p with disp := .lost 1, cnts := [] }

/-- Steps 3 to 9 for a packet with no malformed action to take, and its reason 16 where it would recirculate a second
time (R126, R172). `ra` and `rb` are the results of the searches. Where reason 16 is taken with CONTINUE and the RECIRCULATE it ignores
is the route result's, nothing is left to stand: the packet is dropped as INVALID (DESIGN CHOICE, log entry 41). -/
def actForward (b : Body) (seq g port : Nat) (p : Pkt) (ra rb : Option ClsRes) (noRcy : Bool) :
    Body × Pkt × List Pkt × Bool :=
  let c := combine noRcy ra rb
  let hv := if c.vrf.isSome || c.metaD.isSome then
      p.hv.update fun h => { h with vrf := c.vrf.getD h.vrf, metaData := c.metaD.getD h.metaData }
    else p.hv
  let p0 := p
  let p := { p with hv := hv }
  let (b1, r) := b.route seq port hv (if c.disp = 5 then some c.nh else none)
  let dec := !(p.pass2 && hv.ttlDone)
  let pl := b1.plan seq g c r hv p.data (b2n dec)
  if p.pass2 ∧ pl.isRcy ∧ ¬ noRcy then (b1, p0, [], true)
  else
    let lost := p.pass2 && pl.isRcy
    let pl := if lost then .routeDrop .invalid else pl
    match pl with
    | .drop ctr nh =>
      (b1, p.dropAs g ctr (if nh ∧ nhCounter r.ent ≠ 0 then c.counters ++ [nhCounter r.ent] else c.counters), [], false)
    | .routeDrop d =>
      let (b2, p) := b1.bookRoute g d p (if lost then c.counters else c.counters ++ nhCount r)
      (b2, p, [], false)
    | _ =>
      let (b2, p, dscp, pdrop) := b1.policers seq g p c
      if pdrop then (b2, p.dropAs g ACT_DROP_POL c.counters, [], false)
      else
        let (b3, p, cs) := b2.finishAct seq g p c r pl dec dscp
        -- AE3 has computed REW_CHECK and verifies the check of the vector it was given (R199, R268)
        if p.hv.checkOk then (b3, p, cs, false) else (b3.hvErr g, hvLost p, [], false)

/-- The reason that decides a packet's malformed action, and that action (R107). -/
def malDecides (b : Body) (seq g : Nat) (h : HV) : Option (Nat × Nat) :=
  (malReason h.malMask).map fun r => (r, b.malAct seq g r)

/-- A malformed reason added to the vector by a later stage. -/
def addReason (p : Pkt) (r : Nat) : Pkt :=
  if bitOn p.hv.malMask (r - 1) then p
  else { p with hv := p.hv.update fun h => { h with malMask := h.malMask + 2 ^ (r - 1) } }

/-- The count of a reason whose action is CONTINUE (R111). -/
def noteContinue (b : Body) (seq g : Nat) (p : Pkt) (m : Option (Nat × Nat)) : Pkt :=
  match m with
  | some (r, _) => { p with mal := r, cnts := p.cnts ++ [(Pg.parser g, r - 1)]
                            echo := { p.echo with mal := b.malEcho seq g r } }
  | none => p

/-- Stages 5 and 6 for a packet whose vector is parsed and sealed (R172). `inj` is the inject control record. -/
def pipeline (b : Body) (seq g port : Nat) (p : Pkt) (inj : Option (List Byte)) : Body × Pkt × List Pkt :=
  let win := p.data.take (min 512 (p.len - 4))
  let lport := lkpSource g port p.pass2
  let (b, ra, rb, exh) := b.classify seq g port p.pass2 p.hv win
  let p := if exh then addReason p 15 else p
  -- step 1: an armed corruption at AE0's input, then the check of the vector
  let n := b.rd (Pg.act g) R.ACT_INJ_CNT
  let (b, p) := if n = 0 then (b, p)
    else (b.wr (Pg.act g) R.ACT_INJ_CNT (n - 1), { p with hv := { p.hv with check := p.hv.check ^^^ 0xFFFF } })
  if b.pipe.ucodeArm.contains g then
    let b := { b with pipe := { b.pipe with ucodeArm := b.pipe.ucodeArm.erase g } }
    (b.fault (Pg.act g) R.ACT_FLT_UCODE { access := 6, inj := true }, { p with disp := .lost 0, cnts := [] }, [])
  else if ¬ p.hv.checkOk then
    (b.hvErr g, hvLost p, [])
  else
    let (badInj, direct, p) : Bool × Bool × Pkt := match inj with
      | none => (false, false, p)
      | some r =>
        let mode := beAt r 0 1 / 64
        let ptp := beAt r 0 1 / 16 % 4
        if 2 ≤ mode ∨ ptp = 3 then (true, false, p)
        else (false, mode == 1,
          { p with rw := { p.rw with ptp := ptp, token := leNat (slice r 8 4) }
                   cnts := p.cnts ++ [(Pg.act g, if mode = 1 then ACT_INJ_DIRECT else ACT_INJ_LOOKUP)] })
    if badInj then (b, p.dropAs g ACT_INJ_BAD [], [])
    else if direct then
      -- the searches and the lookup are made and their results ignored (R198)
      let (b, _) := b.route seq lport p.hv none
      let r := inj.getD []
      let out := leNat (slice r 2 2) / 64
      let sub := leNat (slice r 4 4) % 2 ^ 17
      if b.subPort sub ≠ some out then (b, p.dropAs g ACT_DROP_QPORT [], [])
      else (b, { p with outPort := out, queue := 8 * sub + beAt r 0 1 % 8, rw := p.rw.seal, keep := some (p.len - 4) }, [])
    else
      match b.malDecides seq g p.hv with
      | some (r, 0) => let (b, p) := b.takeMal seq g p r 0; (b, p, [])
      | some (r, 2) => let (b, p) := b.takeMal seq g p r 2; (b, p, [])
      | some (r, 3) => let (b, p) := b.takeMal seq g p r 3; (b, p, [])
      | m =>
        match b.actForward seq g lport (b.noteContinue seq g p m) ra rb false with
        | (b', p', cs, false) => (b', p', cs)
        | (b', _, _, true) =>
          -- reason 16: a second RECIRCULATE (R126)
          let p := addReason p 16
          match b'.malDecides seq g p.hv with
          | some (r, 1) =>
            let x := b.actForward seq g lport (b.noteContinue seq g p (some (r, 1))) ra rb true
            (x.1, x.2.1, x.2.2.1)
          | some (r, a) => let (b, p) := b'.takeMal seq g p r a; (b, p, [])
          | none => (b', p, [])

end Body

end Sys2Proof.Machine
end

