-- ==== Sys2Proof/Machine/Far.lean ====
section
/-! DEFINITION. Far memory as the Far controllers reach it (R343, R345 to R348). -/

namespace Sys2Proof.Machine

/-! Counters of a far port (R354). -/
def FAR_RD_BYTES : Nat := 0
def FAR_WR_BYTES : Nat := 1
def FAR_REPLAY : Nat := 2
def FAR_POISON : Nat := 3
def FAR_TIMEOUT_CNT : Nat := 4
def FAR_SIDE_MISM : Nat := 5
def FAR_LINK_DOWN : Nat := 6
def FAR_RECOVERY : Nat := 7
def FAR_MIG_ABANDON : Nat := 8

namespace Body

/-- A register field of page 0 of far port `p`. -/
def frd (b : Body) (p : Nat) (f : Fld) : Nat := b.rd (Pg.far p 0) f

/-- Whether a far port serves requests (R345). -/
def farReady (b : Body) (p : Nat) : Bool := b.frd p R.FAR_STATE == 3

/-- The bytes of the memory behind a port. -/
def farMem (b : Body) (p : Nat) : List Host.Cell := if p = 0 then b.mem.far0 else b.mem.far1
def setFarMem (b : Body) (p : Nat) (m : List Host.Cell) : Body :=
  if p = 0 then { b with mem := { b.mem with far0 := m } } else { b with mem := { b.mem with far1 := m } }

/-- Bytes written to far memory. -/
def farWrite (b : Body) (p addr : Nat) (l : List Byte) : Body :=
  (b.setFarMem p (Mem.write (b.farMem p) addr l)).count (Pg.far p 0) FAR_WR_BYTES l.length

/-- Bytes read from far memory, and whether they come poisoned (R348). -/
def farRead (b : Body) (p addr n : Nat) : Body × List Byte × Bool :=
  let l := Mem.read (b.farMem p) addr n
  let b := b.count (Pg.far p 0) FAR_RD_BYTES n
  if b.far.armPoison.contains p then
    let b := { b with far := { b.far with armPoison := b.far.armPoison.erase p } }
    ((b.count (Pg.far p 0) FAR_POISON).fault (Pg.far p 0) R.FAR_FLT_POISON { access := 3, space := 3 + p, addr := addr, inj := true }, l,
      true)
  else (b, l, false)

/-- The side record of the far span at a data address (R346). -/
def farSide (b : Body) (p addr : Nat) : Nat :=
  b.frd p R.FAR_SIDE_BASE * 2 ^ 30 + (addr - b.frd p R.FAR_DATA_BASE * 2 ^ 30) / 32

/-- FAR_STATE moved; every change sets FAR_EVT_LINK (R345). It ends a Recovery that the RETRAIN loop began (R30). -/
def farMove (b : Body) (p st : Nat) : Body :=
  if b.frd p R.FAR_STATE = st then b
  else (((if st = 5 then b.mark (Mk.farFailed p) else b).wr (Pg.far p 0) R.FAR_STATE st).fire (Pg.far p 0) R.FAR_EVT_LINK).govEnd LOOP_RETRAIN (0x300 + p)

end Body

end Sys2Proof.Machine
end

