-- ==== Sys2Proof/Machine/Stats.lean ====
section
/-! DEFINITION. The statistics cache (R182 to R184, R477 to R480). -/

namespace Sys2Proof.Machine

namespace Body

/-- The delta line of a pair. -/
def statLine (b : Body) (k : Nat) : Delta := Sp.get {} b.stat.lines k
def setLine (b : Body) (k : Nat) (d : Delta) : Body :=
  let since := if d = {} then Sp.del b.stat.since k else if b.statLine k = {} then Sp.ins b.stat.since k b.clk else b.stat.since
  { b with stat := { b.stat with lines := Sp.set {} b.stat.lines k d, since := since } }

/-- Deltas that leave the cache for the Sump. -/
def statMove (b : Body) (k : Nat) (d : Delta) : Body :=
  let l := b.statLine k
  (((b.setLine k { pkts := l.pkts - d.pkts, bytes := l.bytes - d.bytes }).pairAdd k d.pkts d.bytes).ledOut ledStatPkts
    d.pkts).ledOut ledStatBytes d.bytes

/-- The delta line of a pair is read: an armed error destroys it (R183). -/
def statCheck (b : Body) (k : Nat) : Body :=
  let l := b.statLine k
  if b.stat.bad.contains k ∧ l ≠ {} then
    let (ok, b) := b.mirrored
    let b := b.setLine k {}
    let b := { b with stat := { b.stat with bad := b.stat.bad.erase k, flush := Sp.del b.stat.flush k } }
    ((((b.lose ledStatPkts (if ok then l.pkts else 0)).lose ledStatBytes (if ok then l.bytes else 0)).sat Pg.stc R.STC_LOST).fire Pg.stc R.STC_EVT_ECC).fault
      Pg.stc R.STC_FLT_ECC { access := 6, space := 6, addr := 0x0A * 2 ^ 56 + k, inj := true }
  else b

/-- A delta line written back whole (R183). -/
def statWriteback (b : Body) (k : Nat) : Body :=
  if b.statLine k = {} then b
  else
    let b := b.statCheck k
    if b.statLine k = {} then b
    else
      let b := (b.statMove k (b.statLine k)).sat Pg.stc R.STC_WB
      { b with stat := { b.stat with flush := Sp.del b.stat.flush k } }

/-- The lines whose first delta came STC_WB_MAX ms ago, 0 acting as 1, are written back (R183). -/
def statAge (b : Body) : Body :=
  (b.stat.since.filter fun e => decide (e.2 + max 1 (b.rd Pg.stc R.STC_WB_MAX) * 1000000 ≤ b.clk)).foldl (fun b e => b.statWriteback e.1) b

/-- The lines that the cache holds at most (R183). -/
def statCap : Nat := 8388608

/-- A counter-pair update (R182, R183): 1 packet and `n` bytes. Where the cache is full, one of its lines is evicted; the spec
does not say which. -/
def statAdd (b : Body) (k n : Nat) : Body :=
  let b := ((b.ledIn ledStatPkts 1).ledIn ledStatBytes n).statCheck k
  let miss := b.statLine k == {}
  let b := if miss then b.sat Pg.stc R.STC_MISS else b
  let b := if miss && decide (statCap ≤ b.stat.lines.length) then
      let (i, b) := b.free 23
      b.statWriteback ((b.stat.lines.getD i (0, {})).1)
    else b
  let l := b.statLine k
  let b := b.setLine k { pkts := l.pkts + 1, bytes := l.bytes + n }
  if 2 ^ 31 ≤ l.pkts + 1 ∨ 2 ^ 47 ≤ l.bytes + n then b.statWriteback k else b

/-- STC_FLUSH written 1 (R184). -/
def stcFlush (b : Body) : Body :=
  { (b.wr Pg.stc R.STC_FLUSH 1) with stat := { b.stat with flush := b.stat.lines } }

/-- Every delta that was present at the flush has reached the Sump (R184); what came later stays in the cache. -/
def stcFlushDone (b : Body) : Body :=
  if b.on Pg.stc R.STC_FLUSH then
    let b := b.stat.flush.foldl (fun b e =>
      let b := b.statCheck e.1
      if b.statLine e.1 = {} then b else (b.statMove e.1 e.2).sat Pg.stc R.STC_WB) b
    ({ (b.wr Pg.stc R.STC_FLUSH 0) with stat := { b.stat with flush := [] } }).fire Pg.stc R.STC_EVT_FLUSHED
  else b

/-- STC_INJ_GO (R203). -/
def stcInject (b : Body) : Body :=
  let i := b.rd Pg.stc R.STC_INJ_IDX
  if b.on Pg.stc R.STC_INJ_POL then { b with pipe := { b.pipe with polBad := insertNat i b.pipe.polBad } }
  else { b with stat := { b.stat with bad := insertNat i b.stat.bad } }

/-- A pair as a read shows it (R478): the Sump line plus the cached delta; all ones where the line is uncorrectable (R480). -/
def pairRead (b : Body) (k : Nat) : Body × Nat :=
  let b := b.statCheck k
  match b.sumpRead 3 (Sump.pairAddr k) 16 with
  | (b, _, true) => (b, 2 ^ 128 - 1)
  | (b, m, false) =>
    let l := b.statLine k
    (b, (leNat (m.take 8) + l.pkts) % 2 ^ 64 + 2 ^ 64 * ((leNat (m.drop 8) + l.bytes) % 2 ^ 64))

/-- A pair written (R479): its delta goes into the Sump, then the line is set. -/
def pairWrite (b : Body) (k v : Nat) : Body :=
  let b := b.statCheck k
  let b := if b.statLine k = {} then b else b.statMove k (b.statLine k)
  { (b.sumpWrite 3 (Sump.pairAddr k) (leBytes 16 v)) with stat := { b.stat with flush := Sp.del b.stat.flush k } }

end Body

end Sys2Proof.Machine
end

