-- ==== Sys2Proof/Machine/Chamber.lean ====
section
/-! DEFINITION. The Chamber: packets, cells and their charges (R204 to R207), queues and their sections (R208), the drops that
remove packets from a queue, and PFC from the Chamber (R213). -/

namespace Sys2Proof.Machine

/-! Counters of Chamber page 0 (R230) and of a profile (R233). -/
def CHM_NOCELL : Nat := 0
def ADM_DROP_PROF : Nat := 1
def CHM_CHK_ERR : Nat := 2
def CHM_LINK_ERR : Nat := 3
def CHM_ORPHAN : Nat := 4
def SUMP_UE_SPANS : Nat := 5
def FAR_UE_SPANS : Nat := 6
def LOST_ERR_PKTS : Nat := 7
def SPILL_NOSPAN : Nat := 8
def FAR_NOSPAN : Nat := 9
def REFILL_LATE : Nat := 10
def SUMP_SPANS_WR : Nat := 11
def SUMP_SPANS_RD : Nat := 12
def FAR_SPANS_WR : Nat := 13
def FAR_PIECES_RD : Nat := 14
def ADM_PKTS : Nat := 0
def ADM_CELLS : Nat := 1
def ADM_DROP_MAX : Nat := 2
def ADM_DROP_SHARE : Nat := 5
def ADM_DROP_SHARED : Nat := 6
def ADM_DROP_HDRM : Nat := 7
def ADM_DROP_BKLG : Nat := 8
def ADM_DROP_SPAN : Nat := 9
def ADM_PUSHED : Nat := 10
def ADM_PUSHER : Nat := 11
def ADM_SPANS : Nat := 12
def ADM_FAR : Nat := 13
def ADM_LOST_ERR : Nat := 14

/-! The fields of an admission profile (R231). -/
def prValid (e : Nat) : Bool := bitOn e 31
def prSpill (e : Nat) : Bool := bitOn e 30
def prLossless (e : Nat) : Bool := bitOn e 29
def prPush (e : Nat) : Nat := bitField e 28 27
def prShare (e : Nat) : Nat := bitField e 21 0
def prShareMin (e : Nat) : Nat := bitField e 53 32
def prShareMax (e : Nat) : Nat := bitField e 85 64
def prMax (e colour : Nat) : Nat := bitField e (127 + 32 * colour) (96 + 32 * colour)
def prSumpShare (e : Nat) : Nat := bitField e 216 192
def prLo (e : Nat) : Nat := bitField e 239 224
def prHi (e : Nat) : Nat := bitField e 255 240

/-- The cells of a packet of `len` bytes: a record cell and the data cells (R204). -/
def cellsOf (len : Nat) : Nat := 1 + ceilDiv len 256

def Queue.chm (x : Queue) : Nat := x.head.length + x.tail.length
def Queue.sump (x : Queue) : Nat := (x.spans.filter (fun s => !s.far)).length
def Queue.farSpans (x : Queue) : Nat := (x.spans.filter (fun s => s.far)).length
/-- The depth of a queue in cells (R209). -/
def Queue.depth (x : Queue) : Nat := x.chm + 16 * x.sump + 4096 * x.farSpans
def Queue.isEmpty (x : Queue) : Bool := x.head.isEmpty && x.spans.isEmpty && x.tail.isEmpty

/-- The packet at the front of the head section, where it lies there whole: its number and cells (R216). -/
def Queue.front (x : Queue) (cells : Nat → Nat) : Option (Nat × List QCell) :=
  match x.head with
  | [] => none
  | c :: _ =>
    let l := x.head.takeWhile fun d => d.pid == c.pid
    if c.pos = 0 ∧ l.length = cells c.pid then some (c.pid, l) else none

/-- Bytes of a packet record (R204). -/
def pktRecord (p : Pkt) : List Byte :=
  leBytes 2 (p.colour * 0x4000 + p.len % 0x4000) ++
  leBytes 1 (b2n p.ct * 128 + b2n p.copy * 64 + ceilDiv p.len 256 % 64) ++ leBytes 1 0 ++ leBytes 2 (p.inPort * 64) ++
  leBytes 2 (p.outPort * 64) ++ leBytes 4 p.queue ++
  leBytes 10 (p.ts / 65536 % 1000000000 + 2 ^ 32 * (p.ts / 65536 / 1000000000)) ++ leBytes 42 0

/-- The 256 bytes of a cell of a packet: the record cell, then the data cells, the last one filled with zeros (R267). -/
def cellBytes (p : Pkt) (pos : Nat) : List Byte :=
  if pos = 0 then pktRecord p ++ (leBytes 2 p.rw.check ++ p.rw.body)
  else
    let l := slice p.data (256 * (pos - 1)) 256
    l ++ List.replicate (256 - l.length) 0

/-- The check stored with a cell (R267); an injected error corrupts the record cell's (R230). -/
def cellCheck (p : Pkt) (pos : Nat) : Nat := crc32c (cellBytes p pos) ^^^ (if p.chkBad && pos == 0 then 1 else 0)

namespace Body

/-- Packet `pid`, and the packet store with one put or taken out. -/
def pkt (b : Body) (pid : Nat) : Option Pkt := (b.pipe.pkts.find? (fun e => e.1 == pid)).map (·.2)
def putPkt (b : Body) (pid : Nat) (p : Pkt) : Body := { b with pipe := { b.pipe with pkts := Sp.ins b.pipe.pkts pid p } }
def delPkt (b : Body) (pid : Nat) : Body := { b with pipe := { b.pipe with pkts := Sp.del b.pipe.pkts pid } }

/-- The cells of packet `pid`. -/
def pktCells (b : Body) (pid : Nat) : Nat := match b.pkt pid with | some p => cellsOf p.len | none => 0

/-- A cell, and the store with a cell set. -/
def cell (b : Body) (id : Nat) : CellSt := Sp.get {} b.buf.cells id
def setCell (b : Body) (id : Nat) (c : CellSt) : Body := { b with buf := { b.buf with cells := Sp.set {} b.buf.cells id c } }

/-- The Chamber cell that holds cell `pos` of packet `pid` as written at entry; data cells are those of its original. -/
def cellId (owner pid pos : Nat) : Nat := if pos = 0 then 64 * pid else 64 * owner + pos

/-- The cells of a packet in order. -/
def qcells (p : Pkt) (pid : Nat) : List QCell :=
  (List.range (cellsOf p.len)).map fun i => { pid := pid, pos := i, cell := cellId p.owner pid i }

/-- Physical cells in all (R204). -/
def chmTotal : Nat := 2097152

/-- The cells of a class, and of all. -/
def classUsed (b : Body) (c : Cls) : Nat := (b.buf.cells.filter (fun e => e.2.cls == some c)).length
def cellsHeld (b : Body) : Nat := b.buf.cells.length

/-- The Chamber's gauges brought up to date (R230). A peak that a read has cleared starts again from the gauges as they stood (log entry
44). -/
def chmRefresh (b : Body) : Body :=
  let s := b.classUsed .shared
  let h := b.classUsed .hdrm
  let k := b.classUsed .bklg
  let r := b.classUsed .refill
  let was := b.rd Pg.chm R.CHM_SHARED_USED + b.rd Pg.chm R.CHM_HDRM_USED + b.rd Pg.chm R.CHM_BKLG_USED + b.rd Pg.chm R.CHM_REFILL_USED
  let b := ((b.wr Pg.chm R.CHM_SHARED_USED s).wr Pg.chm R.CHM_HDRM_USED h).wr Pg.chm R.CHM_BKLG_USED k
  let b := (b.wr Pg.chm R.CHM_REFILL_USED r).wr Pg.chm R.CHM_FREE b.buf.freeList
  b.wr Pg.chm R.CHM_PEAK (max was (max (s + h + k + r) (b.rd Pg.chm R.CHM_PEAK)))

/-- Entries put back in the free list, or taken from it. -/
def freePut (b : Body) (n : Nat) : Body := { b with buf := { b.buf with freeList := b.buf.freeList + n } }
def freeTake (b : Body) (n : Nat) : Body := { b with buf := { b.buf with freeList := b.buf.freeList - n } }

/-- An uncorrectable entry of the free list (R277): its cell is out of service. -/
def freeListErr (b : Body) : Body :=
  if b.buf.freeList = 0 then b
  else
    let b := b.freeTake 1
    let b := { b with buf := { b.buf with outSvc := b.buf.outSvc + 1 } }
    (({ b with rim := { b.rim with lost := Sp.set 0 b.rim.lost ledCells ((Sp.get 0 b.rim.lost ledCells + 1) % 2 ^ 64) } }).fire Pg.rim
      R.RIM_EVT_LOST).wr Pg.chm R.CHM_FREE b.buf.freeList

/-- Cells taken with one more reference each, uncharged: one that had none comes from the free list. -/
def takeCells (b : Body) (l : List Nat) : Body :=
  l.foldl (fun b i =>
    let c := b.cell i
    let b := if c.refs = 0 then b.freeTake 1 else b
    b.setCell i { refs := c.refs + 1, cls := c.cls }) b

/-- Cells given up: each returns to the free list with its last reference (R206). -/
def freeCells (b : Body) (l : List Nat) : Body :=
  l.foldl (fun b i =>
    let c := b.cell i
    if c.refs ≤ 1 then (if c.refs = 1 then b.freePut 1 else b).setCell i {} else b.setCell i { c with refs := c.refs - 1 }) b

/-- Cells charged to a class; a shared cell keeps the class of the first packet admitted (R206). -/
def chargeCells (b : Body) (l : List Nat) (c : Cls) : Body :=
  l.foldl (fun b i => if (b.cell i).cls.isNone then b.setCell i { (b.cell i) with cls := some c } else b) b

/-- The room of a class; negative where its limit was lowered below its use (R207). -/
def clsFree (b : Body) (c : Cls) : Int :=
  let f := match c with
    | .shared => R.CHM_SHARED_LIMIT | .hdrm => R.CHM_HDRM_LIMIT | .bklg => R.CHM_BKLG_LIMIT | .refill => R.CHM_REFILL_LIMIT
  (b.rd Pg.chm f : Int) - (b.classUsed c : Int)

/-- A queue, its profile number, its profile, and whether it is long-haul. -/
def queueOf (b : Body) (q : Nat) : Queue := Sp.get {} b.buf.queues q
def qProf (b : Body) (q : Nat) : Nat := bitField (b.ent Tbl.queue q) 5 0
def qLong (b : Body) (q : Nat) : Bool := bitOn (b.ent Tbl.queue q) 7
def prof (b : Body) (q : Nat) : Nat := b.ent Tbl.profile (b.qProf q)

/-- A counter of the profile of a queue. -/
def profCount (b : Body) (q i : Nat) (n : Nat := 1) : Body := b.count Pg.chmPC (16 * b.qProf q + i) n

/-- A queue set; a change of its depth bucket is noted (R212). -/
def setQueue (b : Body) (q : Nat) (x : Queue) : Body :=
  let old := (b.queueOf q).chm
  let new := x.chm
  if new ≠ 0 ∧ (old = 0 ∨ Nat.log2 old ≠ Nat.log2 new) then
    { b with buf := { b.buf with queues := Sp.set {} b.buf.queues q { x with bucketAt := b.buf.seq }, seq := b.buf.seq + 1 } }
  else { b with buf := { b.buf with queues := Sp.set {} b.buf.queues q x } }

/-- Whether a packet is still named by a queue, by stage 7 or by egress. -/
def pktNamed (b : Body) (pid q : Nat) : Bool :=
  let x := b.queueOf q
  let has := fun (l : List QCell) => l.any fun c => c.pid == pid
  b.pipe.stage7.contains pid || has x.head || has x.tail || x.spans.any (fun s => has s.cells) ||
    b.sch.egr.any fun e => e.pid == pid

/-- The record of a packet that nothing names any more is dropped. -/
def reap (b : Body) (pid q : Nat) : Body := if b.pktNamed pid q then b else b.delPkt pid

/-- The cells that the queues hold in the Chamber for packets of one ingress port and PFC priority in lossless queues, those
that egress has yet to read among them (R213); PFC does not apply to a packet in its second pass (R125). -/
def chmPfcCells (b : Body) (port prio : Nat) : Nat :=
  let mine := fun (c : QCell) => match b.pkt c.pid with
    | some p => p.inPort == port && p.pfcPrio == prio && !p.pass2
    | none => false
  let inQ := (b.buf.queues.filter fun e => prLossless (b.prof e.1)).map fun e =>
    ((e.2.head ++ e.2.tail).filter mine).length
  let inE := (b.sch.egr.filter fun e => prLossless (b.prof e.queue)).map fun e => (e.cells.filter mine).length
  (inQ ++ inE).foldl (· + ·) 0

/-- The Chamber's hold on one priority of a port, with the PFC frames that a change sends (R213). -/
def chmPfc (b : Body) (port prio : Nat) : Body :=
  if 512 ≤ port then b
  else
    let n := b.chmPfcCells port prio
    let k := 8 * port + prio
    let held := b.net.chmXoff.contains k
    if b.rd Pg.chm R.CHM_PFC_XOFF * 32 ≤ n ∧ ¬ held then
      ({ b with net := { b.net with chmXoff := insertNat k b.net.chmXoff } }).xoffUpdate port
    else if n < b.rd Pg.chm R.CHM_PFC_XON * 32 ∧ held then
      ({ b with net := { b.net with chmXoff := b.net.chmXoff.erase k } }).xoffUpdate port
    else b

/-- The Chamber's hold re-evaluated for every priority that it holds, and for the packets of a list of cells. -/
def chmPfcAll (b : Body) (ks : List (Nat × Nat)) : Body :=
  let held := b.net.chmXoff.map fun k => (k / 8, k % 8)
  (ks ++ held).eraseDups.foldl (fun b k => b.chmPfc k.1 k.2) b

/-- The ingress port and PFC priority of the packets of some cells. -/
def pfcKeys (b : Body) (l : List QCell) : List (Nat × Nat) :=
  (l.filterMap fun c => (b.pkt c.pid).map fun p => (p.inPort, p.pfcPrio)).eraseDups

/-- What a change of the Chamber entails: gauges and PFC. -/
def chmChanged (b : Body) (ks : List (Nat × Nat)) : Body := (b.chmPfcAll ks).chmRefresh

/-- Whether the front of a queue is late: spilling, cells in its spill section, and no complete packet in front (R216). -/
def isLate (b : Body) (q : Nat) : Bool :=
  let x := b.queueOf q
  x.spill && !x.spans.isEmpty && (x.front b.pktCells).isNone

/-- A queue that has just become late is counted (R216). -/
def noteLate (b : Body) (q : Nat) (before : Bool) : Body :=
  if b.isLate q && !before then (b.count Pg.chm REFILL_LATE).fire Pg.chm R.CHM_EVT_REFILL_LATE else b

/-- Cells in the head section that belong to packets lost to an error are discarded when they are reached (R221). -/
def trimHoles (b : Body) (q : Nat) : Body :=
  let x := b.queueOf q
  let hole := fun (c : QCell) => match b.pkt c.pid with | some p => p.hole | none => true
  let dead := x.head.takeWhile hole
  if dead.isEmpty then b
  else
    let b := (b.freeCells (dead.map (·.cell))).setQueue q { x with head := x.head.drop dead.length }
    (dead.map (·.pid)).eraseDups.foldl (fun b pid => b.reap pid q) b

/-- The reads of a queue's spill section in flight, in cells. -/
def inFlight (x : Queue) : Nat := (x.spans.map (fun s => 16 * s.flight)).foldl (· + ·) 0

/-- The join of R208 and R217: a spilling queue whose head is below ADM_REFILL_LO, with nothing in its spill section and no
read or migration in flight, takes its tail into its head. -/
def tryJoin (b : Body) (q : Nat) : Body :=
  let x := b.queueOf q
  if x.spill ∧ x.spans.isEmpty ∧ x.head.length < prLo (b.prof q) then
    b.setQueue q { x with head := x.head ++ x.tail, tail := [], spill := decide (prShare (b.prof q) < x.chm), refilling := false }
  else b

/-- The join with the cells of lost packets discarded before it and after it. -/
def joinQueue (b : Body) (q : Nat) : Body := (((b.trimHoles q).tryJoin q).trimHoles q).tryJoin q

/-- After a change at the front: holes are discarded, the join is tried, lateness noted, gauges and PFC updated. -/
def settle (b : Body) (q : Nat) (late : Bool) (keys : List (Nat × Nat)) : Body := ((b.joinQueue q).noteLate q late).chmChanged keys

/-- A packet of a queue booked as lost to error, once, and left as a hole (R221, R222, R273). -/
def bookHole (b : Body) (pid : Nat) : Body :=
  match b.pkt pid with
  | none => b
  | some p => if p.hole then b else (b.putPkt pid { p with hole := true }).lose ledQueue 1

/-- A packet of a queue booked as lost to error once, and left as a hole (R221). -/
def losePkt (b : Body) (q pid : Nat) : Body :=
  match b.pkt pid with
  | none => b
  | some p =>
    if p.hole then b else ((b.bookHole pid).count Pg.chm LOST_ERR_PKTS).profCount q ADM_LOST_ERR

/-- Cells beyond a broken link: those that nothing else refers to are orphans, the others lose a reference (R206, R222). -/
def orphan (b : Body) (l : List Nat) : Body :=
  l.foldl (fun b i =>
    if 1 < (b.cell i).refs then b.freeCells [i]
    else { b with buf := { b.buf with orphans := b.buf.orphans ++ [i], orphanBooked := b.buf.orphanBooked + 1 } }) b

/-- A link break in the cells of one Chamber section (R222, R278): the packets from `pid` on are lost, and the cells beyond
the broken link are orphans. Answers the cells that stay. -/
def breakCells (b : Body) (q pid : Nat) (l : List QCell) : Body × List QCell :=
  let keep := l.takeWhile fun c => c.pid != pid
  let cut := l.drop keep.length
  let pids := (cut.map (·.pid)).eraseDups
  let b := pids.foldl (fun b i => b.bookHole i) b
  let b := (b.freeCells ((cut.take 1).map (·.cell))).orphan ((cut.drop 1).map (·.cell))
  let b := (b.count Pg.chm CHM_LINK_ERR).fault Pg.chm R.CHM_FLT_LINK { access := 6, space := 8, detail := q, inj := true }
  (b, keep)

/-- The orphan sweep (R222): the cells come back to the free list. -/
def orphanSweep (b : Body) : Body :=
  if b.buf.orphans = [] then b
  else
    let n := b.buf.orphans.length
    let b := b.freeCells b.buf.orphans
    let b := { b with buf := { b.buf with orphans := [], orphanBooked := 0 } }
    ((b.count Pg.chm CHM_ORPHAN n).fire Pg.chm R.CHM_EVT_ORPHAN).chmRefresh

/-- A packet that has left its queue: stage 7, where it has yet to count it, finds nothing more to take out. -/
def leaves (b : Body) (pid : Nat) : Body :=
  if b.pipe.stage7.contains pid then b.modPkt pid fun p => { p with gone := true } else b

/-- The last packet of a queue taken out whole and released (R212). -/
def dropLastPkt (b : Body) (q : Nat) : Body :=
  let x := b.queueOf q
  match x.head.getLast? with
  | none => b
  | some c =>
    let mine := x.head.filter fun d => d.pid == c.pid
    let b := b.setQueue q { x with head := x.head.filter fun d => d.pid != c.pid }
    (((b.freeCells (mine.map (·.cell))).ledOut ledQueue 1).leaves c.pid).reap c.pid q

end Body

end Sys2Proof.Machine
end

