-- ==== Sys2Proof/Machine/Admit.lean ====
section
/-! DEFINITION. Admission and push-out (R209 to R212, R219), stage 7 (R182, R111), and the dispatch of heads through stages 4 to
6 (R79, R82, R84, R95, R124, R125, R211). -/

namespace Sys2Proof.Machine

namespace Body

/-- The level of the Sump span pool (R219): the lowest-numbered enabled pool with owner bit 2. With none, spill is allowed and the
span requests fail (R513). -/
def spillLevel (b : Body) : Nat :=
  match (List.range 16).find? fun n => b.poolOn n && bitOn (b.prd' n R.POOL_OWNERS) 2 with
  | some n => b.poolLevel n
  | none => 0

/-- Whether spill is allowed for a colour (R219); a packet that is not metered counts as green. -/
def spillAllowed (b : Body) (colour : Nat) (enter : Bool) : Bool :=
  let c := if colour = 3 then 0 else colour
  match b.spillLevel with
  | 0 => true
  | 1 => if enter then c == 0 else decide (c ≤ 1)
  | _ => !enter && c == 0

/-- The victims that push-out may take (R212), each the last packet of a queue, whole in the Chamber: the queue, its push level, its depth bucket and when it entered it. -/
def victims (b : Body) (lvl : Nat) : List (Nat × Nat × Nat × Nat) :=
  b.buf.queues.filterMap fun e =>
    let pr := b.prof e.1
    match e.2.head.getLast? with
    | none => none
    | some c =>
      let p := (b.pkt c.pid).getD {}
      let whole := decide ((e.2.head.filter fun d => d.pid == c.pid).length = cellsOf p.len) && !p.hole && p.verdict != .unknown
      if ¬ e.2.spill ∧ prPush pr < lvl ∧ ¬ prLossless pr ∧ ¬ p.started ∧ whole then
        some (e.1, prPush pr, Nat.log2 e.2.chm, e.2.bucketAt)
      else none

/-- Whether the first of two victims is taken before the second. -/
def victimFirst (x y : Nat × Nat × Nat × Nat) : Bool :=
  if x.2.1 ≠ y.2.1 then decide (x.2.1 < y.2.1)
  else if x.2.2.1 ≠ y.2.2.1 then decide (y.2.2.1 < x.2.2.1)
  else decide (x.2.2.2 < y.2.2.2)

/-- Victims taken one by one until they free `k` SHARED cells; `n` more may be chosen. Answers none where they do not
suffice. -/
def pushStep (b : Body) (lvl : Nat) (k : Int) : Nat → Option Body
  | 0 => none
  | n + 1 =>
    match (b.victims lvl).foldl (fun a v => match a with
      | none => some v
      | some w => if victimFirst v w then some v else a) none with
    | none => none
    | some v =>
      let used := b.classUsed .shared
      let b' := (b.dropLastPkt v.1).profCount v.1 ADM_PUSHED
      let left := k - ((used : Int) - (b'.classUsed .shared : Int))
      if left ≤ 0 then some b' else pushStep b' lvl left n

/-- push_out of R212 for an arrival of queue `q`. -/
def pushOut (b : Body) (q : Nat) (k : Int) : Option Body :=
  let lvl := prPush (b.prof q)
  if b.on Pg.chm R.CHM_PUSH_EN ∧ 1 ≤ lvl then
    (b.pushStep lvl k (b.rd Pg.chm R.CHM_PUSH_MAX)).map fun b =>
      (b.profCount q ADM_PUSHER).fire Pg.chm R.CHM_EVT_PUSHOUT
  else none

/-- What R209 decides for a packet: charged to a class, or dropped under a counter of its profile, or for its profile. -/
inductive AdmRes where
  | charge (c : Cls)
  | drop (ctr : Nat)
  | noProf
deriving DecidableEq, Repr

/-- The code of R209. Answers the body after push-out and entry to SPILL, and the decision. -/
def admDecide (b : Body) (q colour n : Nat) : Body × AdmRes :=
  let pr := b.prof q
  let x := b.queueOf q
  let col := if colour = 3 then 0 else colour
  if ¬ prValid pr then (b, .noProf)
  else if prMax pr col < (x.depth + n + 15) / 16 then (b, .drop (ADM_DROP_MAX + col))
  else
    let tail := fun (b : Body) =>
      if ¬ b.spillAllowed colour false then (b, AdmRes.drop ADM_DROP_SPAN)
      else if b.clsFree .bklg < n then (b.fire Pg.chm R.CHM_EVT_BKLG_FULL, AdmRes.drop ADM_DROP_BKLG)
      else (b, AdmRes.charge .bklg)
    if x.spill then tail b
    else if x.chm + n ≤ prShare pr then
      if (n : Int) ≤ b.clsFree .shared then (b, .charge .shared)
      else
        match b.pushOut q (n - b.clsFree .shared) with
        | some b => (b, .charge .shared)
        | none =>
          if prLossless pr ∧ (n : Int) ≤ b.clsFree .hdrm then (b, .charge .hdrm)
          else (b, .drop (if prLossless pr then ADM_DROP_HDRM else ADM_DROP_SHARED))
    else if ¬ prSpill pr ∨ ¬ b.spillAllowed colour true then
      if prLossless pr ∧ (n : Int) ≤ b.clsFree .hdrm then (b, .charge .hdrm)
      else (b, .drop (if prLossless pr then ADM_DROP_HDRM else ADM_DROP_SHARE))
    else tail (b.setQueue q { b.queueOf q with spill := true })

/-- Admission of packet `pid` (R209): charged and queued, or refused. Whether it was admitted is the second answer; the cells
of a refused packet are the caller's to release. -/
def admitPkt (b : Body) (pid : Nat) (p : Pkt) : Body × Bool :=
  let q := p.queue
  let n := cellsOf p.len
  match b.admDecide q p.colour n with
  | (b, .noProf) => (b.count Pg.chm ADM_DROP_PROF, false)
  | (b, .drop i) => (b.profCount q i, false)
  | (b, .charge c) =>
    let x := b.queueOf q
    let cs := qcells p pid
    let b := b.putPkt pid { p with admitted := true, chkBad := p.chkBad || x.chkArm, linkBad := x.linkArm }
    let b := b.chargeCells (cs.map (·.cell)) c
    let x := { x with chkArm := false, linkArm := false }
    let b := b.setQueue q (if x.spill then { x with tail := x.tail ++ cs } else { x with head := x.head ++ cs })
    let b := ((b.profCount q ADM_PKTS).profCount q ADM_CELLS n).ledIn ledQueue 1
    (b.joinQueue q, true)

/-- The cells of a packet that is not in a queue given up, and its record dropped. -/
def release (b : Body) (pid : Nat) (p : Pkt) : Body := (b.freeCells ((qcells p pid).map (·.cell))).delPkt pid

/-- The counts of a packet with a good verdict (R111, R182). -/
def bookGood (b : Body) (p : Pkt) : Body :=
  let b := p.cnts.foldl (fun b c =>
    let b := b.count c.1 c.2
    if c.1 = Pg.parser p.gal ∧ c.2 < 16 then b.fire c.1 R.PAR_EVT_MAL else b) b
  p.stats.foldl (fun b k => b.statAdd k p.len) b

/-- The count of a packet with a bad verdict, at its ingress port (R75, R77, R205). -/
def bookBad (b : Body) (p : Pkt) : Body :=
  match p.verdict with
  | .badFcs => b.count (Pg.lane p.inPort) RX_FCS_ERR
  | .oversize => b.count (Pg.lane p.inPort) RX_OVERSIZE
  | .aborted => if p.admitted then b else b.count (Pg.lane p.inPort) RX_ABORT_PIPE
  | .noCell => b.count Pg.chm CHM_NOCELL
  | _ => b

/-- A cut-through packet whose verdict proves bad before egress took it leaves its queue (R96, R211). -/
def dropCt (b : Body) (pid : Nat) (p : Pkt) : Body :=
  let x := b.queueOf p.queue
  if x.head.any fun c => c.pid == pid then
    let mine := x.head.filter fun c => c.pid == pid
    let b := (b.setQueue p.queue { x with head := x.head.filter fun c => c.pid != pid }).freeCells (mine.map (·.cell))
    (b.ledOut ledQueue 1).delPkt pid
  else b

/-- Stage 7 for the oldest packet of a source (R209, R210): it waits for its verdict. Sources are ports 0 to 511, 512 + g the
recirculation and 520 + g the inject source of Gallery g. -/
def admission (b : Body) (src : Nat) : Body :=
  match b.pipe.stage7.find? fun i => match b.pkt i with | some p => p.src == src | none => false with
  | none => b
  | some pid =>
    match b.pkt pid with
    | none => b
    | some p =>
      if p.verdict = .unknown then b
      else
        let b := { b with pipe := { b.pipe with stage7 := b.pipe.stage7.erase pid } }
        let good := p.verdict == .good
        let key := [(p.inPort, p.pfcPrio)]
        let pipe := ledPipe p.gal
        if p.admitted then
          -- a cut-through packet, admitted at its header (R211)
          let b := (if good then b.bookGood p else b.bookBad p).echoIn p (!good) true
          let b := if p.gone then b.delPkt pid else if good then b else b.dropCt pid p
          b.chmChanged key
        else
          match p.disp with
          | .lost _ => (((b.lose pipe 1).echoIn p (!good) false).release pid p).chmChanged key
          | .drop =>
            let b := if good then b.bookGood p else if p.copy then b else b.bookBad p
            let b := if p.copy then b else b.ledOut pipe 1
            ((b.echoIn p (!good) false).release pid p).chmChanged key
          | .enqueue =>
            let b := if good then b.bookGood p else if p.copy then b else b.bookBad p
            let b := if p.copy then b else b.ledOut pipe 1
            if ¬ good then ((b.echoIn p true false).release pid p).chmChanged key
            else
              match b.admitPkt pid p with
              | (b, true) => (b.echoIn p false true).chmChanged key
              | (b, false) => ((b.echoIn p false false).release pid p).chmChanged key

/-! Dispatch (R82). -/

/-- A packet number not used before. -/
def newPid (b : Body) : Nat × Body := (b.pipe.nextPid, { b with pipe := { b.pipe with nextPid := b.pipe.nextPid + 1 } })

/-- Whether the dispatcher of a Gallery issues heads: active and not in reset (R282, R291). -/
def canDispatch (b : Body) (g : Nat) : Bool := decide (b.galState g ≤ 3) && !b.galInReset g

/-- The flip that a head dispatched now is tagged with: within 20 ns of a flip the Gallery may still tag with the old value
(R19), which `lag` chooses. From then on it tags with the new one. -/
def tagHead (b : Body) (g : Nat) (lag : Bool) : Nat × Body :=
  if lag then (b.tagOf g, b)
  else (b.cairn.flips, { b with cairn := { b.cairn with galTag := Sp.set 0 b.cairn.galTag g b.cairn.flips } })

/-- The parser's injected reason (R112). -/
def parInject (b : Body) (g : Nat) (h : HV) : Body × HV :=
  let pg := Pg.parser g
  let n := b.rd pg R.PAR_INJ_CNT
  let r := b.rd pg R.PAR_INJ_REASON
  if n = 0 ∨ r = 0 ∨ 16 < r then (b, h)
  else (b.wr pg R.PAR_INJ_CNT (n - 1),
        { h with malMask := if bitOn h.malMask (r - 1) then h.malMask else h.malMask + 2 ^ (r - 1) })

/-- Whether a packet goes cut-through (R95). -/
def cutThrough (b : Body) (p : Pkt) : Bool :=
  p.disp == .enqueue && decide (p.inPort < 512 ∧ p.outPort < 512) && p.src == p.inPort && p.verdict == .unknown &&
  b.prd p.inPort R.PORT_CT_EN == 1 && b.prd p.outPort R.PORT_CT_EN == 1 &&
  decide (b.portGb p.outPort ≤ b.portGb p.inPort) && (b.queueOf p.queue).isEmpty && !b.classPaused p.outPort (p.queue % 8)

/-- A head dispatched, as the POWER loop and Survey count it (R298, R471): of its Gallery, and of an internal source with its bytes. The spec does not
say how many Vault lines its lookups read: an open number. -/
def noteHead (b : Body) (g src len : Nat) : Body :=
  let (n, b) := b.free 8
  let b := (((b.galBusy g).headCount g).svyBump 1 g 0 1).svyBump 2 0 0 n
  if src < 512 then b else ((b.svyBump 0 src 0 1).svyBump 0 src 1 len).svyBump 0 src 2 (len + 20)

/-- Stages 3 to 6 for a packet whose source fields are set: its cells, the parse, the pipeline, its copies, and cut-through
admission, which no packet of its port overtakes at stage 7 (R14, R205, R210, R211). `par` is the port whose parser entry and lookups apply, `vrf` the VRF that it starts with. -/
def runPipeline (b : Body) (seq g par vrf : Nat) (p : Pkt) (inj : Option (List Byte)) : Body :=
  let (pid, b) := b.newPid
  let n := cellsOf p.len
  let b := (b.ledIn (ledPipe g) 1).noteHead g (if p.inPort = 528 then 528 else p.src) p.len
  let p := { p with owner := pid, gal := g, dataCells := n - 1, epoch := seq % 4 }
  let full : Bool := decide (b.buf.freeList < n)
  let p := if full then { p with verdict := .noCell } else p
  let b := if full then b else b.takeCells ((List.range n).map fun i => cellId pid pid i)
  let first : Bool := b.pipe.stage7.all fun i => match b.pkt i with | some x => x.src != p.src || x.admitted | none => true
  let done := fun (b : Body) (p : Pkt) (cs : List Pkt) =>
    let b := (b.putPkt pid p)
    let b := { b with pipe := { b.pipe with stage7 := b.pipe.stage7 ++ [pid] } }
    let b := if b.cutThrough p && first && !full then
        match b.admitPkt pid { p with ct := true } with
        | (b, true) => b.ledOut (ledPipe g) 1
        | (b, false) => b.putPkt pid { p with disp := .drop }
      else b
    let b := cs.foldl (fun b c =>
      let (cid, b) := b.newPid
      let full := full || b.buf.freeList == 0
      let b := if full then b else b.takeCells (((List.range n).map fun i => cellId pid cid i))
      let b := b.putPkt cid { c with owner := pid, src := p.src, gal := g, copy := true, verdict := if full then .noCell else p.verdict }
      { b with pipe := { b.pipe with stage7 := b.pipe.stage7 ++ [cid] } }) b
    b.chmRefresh
  if b.pipe.parserArm.contains g then
    let b := { b with pipe := { b.pipe with parserArm := b.pipe.parserArm.erase g } }
    done (b.fault (Pg.parser g) R.PAR_FLT_PARSER { access := 6, inj := true }) { p with disp := .lost 2 } []
  else
    let h := parse (b.parCfg seq g) p.data
    let (b, h) := b.parInject g h
    let h := { h with inPort := p.inPort, inPrio := p.inPrio, epoch := seq % 4, pass2 := p.pass2, inj := p.inj,
                      vrf := vrf, ttlDone := p.ttlDone, metaData := p.metaData }
    let p := { p with hv := h.seal }
    let (b, p, cs) := b.pipeline seq g par p inj
    done b p cs

/-- The head of a network port dispatched (R79, R82, R84). A frame still in reception is eligible with 512 bytes arrived,
which a shorter frame never is before its end. -/
def dispatchPort (b : Body) (port : Nat) (lag : Bool) : Body :=
  let g := port / 64
  match b.fifo port with
  | [] => b
  | e :: rest =>
    if ¬ e.complete ∧ e.held < 512 then b
    else
      let b := (b.setFifo port rest)
      if b.net.entEcc.contains g then
        let b := { b with net := { b.net with entEcc := b.net.entEcc.erase g } }
        let b := if e.complete then b else b.setRx port ((b.rxOf port).map fun f => { f with place := .gone })
        (((b.lose (ledEntrance g) 1).fault (Pg.preclass g) R.ENT_FLT_ECC { access := 6, inj := true })).entChanged port
      else
        let b := b.ledOut (ledEntrance g) 1
        let b := if e.complete then b
          else b.setRx port ((b.rxOf port).map fun f => { f with place := .pipe b.pipe.nextPid })
        let b := b.entChanged port
        let (seq, b) := b.tagHead g lag
        let data := if e.complete then e.data else e.data.take (b.prd port R.PORT_MAX_FRAME + 1)
        b.runPipeline seq g port (b.rdV seq (Pg.parserPort g) R.PAR_VRF (parIdx port false))
          { data := data, len := data.length, inPort := port, inPrio := e.prio, pfcPrio := e.pfcPrio, ts := e.ts,
            verdict := if e.complete then e.verdict else .unknown, src := port } none

/-- The head of the recirculation holding buffer dispatched (R124, R125). -/
def dispatchRcy (b : Body) (g : Nat) (lag : Bool) : Body :=
  match Sp.get [] b.pipe.rcyHold g with
  | [] => b
  | pid :: rest =>
    match b.pkt pid with
    | none => b
    | some p =>
      let b := { b with pipe := { b.pipe with rcyHold := Sp.set [] b.pipe.rcyHold g rest } }
      let b := (b.freeCells ((qcells p pid).map (·.cell))).delPkt pid
      let (seq, b) := b.tagHead g lag
      b.runPipeline seq g p.inPort p.vrf
        { data := p.data, len := p.len, inPort := p.inPort, inPrio := p.inPrio, pfcPrio := p.pfcPrio, ts := p.ts,
          pass2 := true, inj := p.inj, vrf := p.vrf, metaData := p.metaData, ttlDone := p.ttlDone, verdict := p.verdict,
          src := 512 + g, echoed := p.echoed } none

/-- The head of the inject source dispatched (R82, R197). -/
def dispatchInj (b : Body) (g : Nat) (lag : Bool) : Body :=
  match Sp.get [] b.pipe.injQ g with
  | [] => b
  | x :: rest =>
    let b := { b with pipe := { b.pipe with injQ := Sp.set [] b.pipe.injQ g rest } }
    let port := if x.host then 528 else 520 + g
    let (seq, b) := b.tagHead g lag
    let b := b.runPipeline seq g port (b.rdV seq (Pg.parserPort g) R.PAR_VRF (parIdx port false))
      { data := x.data, len := x.data.length, inPort := port, inj := true, ts := x.ts, verdict := .good,
        ptpSrc := if x.host then 1 + x.src else 0x1000 + x.src, src := 520 + g } (some x.rec_)
    x.stage.foldl (fun b s => b.poolFree s.1 s.2 0x3FF) b

/-! The requesters of a dispatcher, in weighted round robin (R82, R83): in a round each is served up to its weight while another waits. Which
of those still owed a head comes next the spec does not say: the command names it. -/

/-- Whether a source has a head that may be dispatched (R79). -/
def headReady (b : Body) (src : Nat) : Bool :=
  if src < 512 then match b.fifo src with | [] => false | e :: _ => e.complete || decide (512 ≤ e.held)
  else if src < 520 then !(Sp.get [] b.pipe.rcyHold (src - 512)).isEmpty
  else !(Sp.get [] b.pipe.injQ (src - 520)).isEmpty

/-- The weight of a source: a port's lanes, GAL_DISP_RECIRC, GAL_DISP_INJ. -/
def headWeight (b : Body) (src : Nat) : Nat :=
  if src < 512 then max 1 (modeLanes (b.prd src R.PORT_MODE))
  else b.rd (Pg.preclass ((src - 512) % 8)) (if src < 520 then R.GAL_DISP_RECIRC else R.GAL_DISP_INJ)

/-- Whether a source is still owed a head in its dispatcher's round. -/
def headOwed (b : Body) (src : Nat) : Bool := b.headReady src && decide (Sp.get 0 b.pipe.disp src < b.headWeight src)

/-- The requesters of a Gallery. -/
def headSources (g : Nat) : List Nat := (List.range 64).map (64 * g + ·) ++ [512 + g, 520 + g]

/-- Whether a source may be served: it has a head, and is owed one or no other is. -/
def headTurn (b : Body) (g src : Nat) : Bool :=
  b.headReady src && (b.headOwed src || (headSources g).all fun s => !b.headOwed s)

/-- A source served; with none owed a head, a round begins. -/
def headServe (b : Body) (g src : Nat) : Body :=
  let m := if b.headOwed src then b.pipe.disp else (headSources g).foldl (fun m s => Sp.del m s) b.pipe.disp
  { b with pipe := { b.pipe with disp := Sp.set 0 m src (Sp.get 0 m src + 1) } }

/-- The dispatcher hands a head to a pipeline (R82): of a port, of the recirculation source 512 + g or of the inject source
520 + g. -/
def headDispatch (b : Body) (src : Nat) (lag : Bool) : Body :=
  let g := if src < 512 then src / 64 else (src - 512) % 8
  if ¬ b.canDispatch g ∨ ¬ b.headTurn g src then b
  else
  let b := b.headServe g src
  if src < 512 then b.dispatchPort src lag
  else if src < 520 then b.dispatchRcy g lag
  else if src < 528 then b.dispatchInj g lag
  else b

/-- A full bank request queue has drained after so many Gallery clocks in which dispatchers issued no head (R137), or a write-back that
stalled dispatch has ended (R183), which STC_STALL counts and VLT_STALL does not (DEDUCED, log entry 45). -/
def vaultStallEnd (b : Body) : StallEnd → Body
  | .bank n => (b.sat Pg.vault R.VLT_STALL n).fire Pg.vault R.VLT_EVT_STALL
  | .writeback n => b.sat Pg.stc R.STC_STALL n

end Body

end Sys2Proof.Machine
end

