-- ==== Sys2Proof/Machine/Tiers.lean ====
section
/-! DEFINITION. The tiers of a queue: spill to the Sump (R214), far migration (R215, R335), refill (R216, R221, R324), injected
buffer errors (R230) and the BUFFER loop (R229). -/

namespace Sys2Proof.Machine

/-- The 128-byte side record of a group of 16 cells (R323). -/
def sideRecord (b : Body) (q seq gen : Nat) (void : Bool) (l : List QCell) : List Byte :=
  let p := fun (c : QCell) => (b.pkt c.pid).getD {}
  (l.map fun c => leBytes 4 (cellCheck (p c) c.pos)).flatten ++
  (l.map fun c => leBytes 1 (b2n (c.pos == 0) + 2 * b2n (c.pos != 0 && c.pos + 1 == cellsOf (p c).len))).flatten ++
  leBytes 4 (b2n void * 2 ^ 31 + q) ++ leBytes 4 seq ++ leBytes 2 gen ++ leBytes 38 0

namespace Body

/-- The bytes of cells in order. -/
def cellsBytes (b : Body) (l : List QCell) : List Byte :=
  (l.map fun c => cellBytes ((b.pkt c.pid).getD {}) c.pos).flatten

/-- Whether every stack's controller is enabled: a span lies on all four (R325, R349). -/
def sumpServes (b : Body) : Bool := (List.range 4).all fun s => b.on (Pg.hbm s 0) R.PG_EN

/-- The spill writer at a queue whose tail holds 16 complete cells (R214). -/
def spillSpan (b : Body) (q : Nat) : Body :=
  let x := b.queueOf q
  if ¬ x.spill ∨ x.tail.length < 16 ∨ ¬ b.sumpServes then b
  else
    match (x.tail.take 16).find? fun c => match b.pkt c.pid with | some p => p.linkBad | none => false with
    | some c =>
      -- the writer meets a broken link of the tail section (R222)
      let late := b.isLate q
      let keys := b.pfcKeys x.tail
      let (b, keep) := b.breakCells q c.pid x.tail
      let gone := ((x.tail.drop keep.length).map (·.pid)).eraseDups
      let b := b.setQueue q { x with tail := keep }
      (gone.foldl (fun b i => b.reap i q) b).settle q late keys
    | none =>
      let l := x.tail.take 16
      match b.poolReq 2 1 4096 with
      | (b, .ok n i) =>
        let a := b.bufAddr n i
        let s : Span := { pool := n, buf := i, cells := l, seq := x.spanSeq % 2 ^ 32 }
        let b := (b.sumpWrite 0 a (b.cellsBytes l)).sumpWrite 0 (Sump.sideAddr a) (sideRecord b q s.seq 0 false l)
        let keys := b.pfcKeys l
        let b := b.setQueue q { x with tail := x.tail.drop 16, spans := x.spans ++ [s], spanSeq := x.spanSeq + 1 }
        let b := (b.freeCells (l.map (·.cell))).count Pg.chm SUMP_SPANS_WR
        let b := b.profCount q ADM_SPANS
        let b := { b with buf := { b.buf with wrote := insertNat (b.qProf q) b.buf.wrote } }
        b.chmChanged keys
      | (b, _) => b.count Pg.chm SPILL_NOSPAN

/-! Refill (R216). -/

/-- The pieces of 16 cells that a span still has to be read, beyond those read or in flight. -/
def Span.unread (s : Span) : Nat := (if s.far then 256 else 1) - s.pieces - s.flight

/-- Reads issued along the spill section while the head is short and REFILL has room: `need` cells to reach the high mark,
`room` cells of REFILL. -/
def issueReads (now need room : Nat) : List Span → List Span
  | [] => []
  | s :: t =>
    let k := min (Span.unread s) (min (ceilDiv need 16) (room / 16))
    { s with flight := s.flight + k, since := if s.flight = 0 then now else s.since } ::
      (if k < Span.unread s then t else issueReads now (need - 16 * k) (room - 16 * k) t)

/-- The cells that refill reads in flight will bring, of all queues. -/
def refillFlight (b : Body) : Nat := (b.buf.queues.map fun e => inFlight e.2).foldl (· + ·) 0

/-- Whether a span is one of the 256 of a migration: span numbers run modulo 2^32 (R324). -/
def migrHas (m : Migr) (s : Span) : Bool := !s.far && decide ((s.seq + 2 ^ 32 - m.first) % 2 ^ 32 < 256)

/-- A spilling queue below ADM_REFILL_LO issues reads of the front of its spill section, and goes on until they reach ADM_REFILL_HI
(R216). A span under migration that a read touches ends the migration (R215). -/
def refillRead (b : Body) (q : Nat) : Body :=
  let x := b.queueOf q
  let pr := b.prof q
  let have_ := x.head.length + inFlight x
  if ¬ x.spill ∨ ¬ (have_ < prLo pr ∨ (x.refilling ∧ have_ < prHi pr)) then b
  else
    let room := (b.clsFree .refill - (b.refillFlight : Int)).toNat
    let spans := issueReads b.clk (prHi pr - have_) room x.spans
    let hit : Bool := match x.migr with
      | some m => spans.any fun s => s.flight != 0 && migrHas m s
      | none => false
    let y := { x with spans := spans, migr := if hit then none else x.migr }
    let b := b.setQueue q { y with refilling := decide (y.head.length + inFlight y < prHi pr) }
    match hit, x.migr with
    | true, some m => b.spanFree true m.pool m.buf
    | _, _ => b

/-- An unreadable span or piece (R221): its packets are lost, and the count and the fault of its tier are raised. -/
def unreadable (b : Body) (q : Nat) (far : Bool) (addr : Nat) (l : List QCell) (port : Nat := 0)
    (inj : Bool := true) : Body :=
  let b := ((l.map (·.pid)).eraseDups).foldl (fun b i => b.losePkt q i) b
  if far then (b.count Pg.chm FAR_UE_SPANS).fault Pg.chm R.CHM_FLT_FAR_UE
    { access := 6, space := 3 + port, addr := addr, detail := q, inj := inj }
  else (b.count Pg.chm SUMP_UE_SPANS).fault Pg.chm R.CHM_FLT_SUMP_UE { access := 6, space := 2, addr := addr, detail := q, inj := inj }

/-- Cells read back, in new Chamber cells charged to REFILL, behind the head section. -/
def refillCells (b : Body) (q : Nat) (l : List QCell) : Body :=
  let l := l.map fun c => { c with cell := 2 ^ 40 + 64 * c.pid + c.pos }
  let ids := l.map (·.cell)
  let b := (b.takeCells ids).chargeCells ids .refill
  let x := b.queueOf q
  b.setQueue q { x with head := x.head ++ l }

/-- Whether a side record is the one expected (R324): its queue, its span number, and on a far port its generation. -/
def sideOk (r : List Byte) (q seq gen : Nat) : Bool :=
  leNat (slice r 80 4) % 2 ^ 20 == q && leNat (slice r 84 4) == seq && leNat (slice r 88 2) == gen

/-- A mismatch of a Sump side record (R324). -/
def sideMism (b : Body) (addr : Nat) : Body :=
  let pg := Pg.hbm (b.hbmLoc addr).stack 3
  ((b.count pg 4).fire pg R.HBM_EVT_SIDE).fault pg R.HBM_FLT_SIDE { access := 3, space := 2, addr := addr, detail := 1, inj := true }

/-- The read of the Sump span in front completes (R216). -/
def refillSump (b : Body) (q : Nat) (x : Queue) (s : Span) (rest : List Span) : Body :=
  let late := b.isLate q
  let keys := b.pfcKeys s.cells
  let a := b.bufAddr s.pool s.buf
  let (b, _, ue) := b.sumpRead 1 a 4096
  let (b, side, ue2) := b.sumpRead 1 (Sump.sideAddr a) 128
  let ok := sideOk side q s.seq 0
  let b := b.setQueue q { x with spans := rest, sumpUeArm := false }
  let bad := ue || ue2 || x.sumpUeArm
  let b := (b.spanFree false s.pool s.buf).count Pg.chm SUMP_SPANS_RD
  let b := if bad then b.unreadable q false a s.cells
    else if ¬ ok then (b.sideMism (Sump.sideAddr a)).unreadable q false a s.cells
    else b.refillCells q s.cells
  let b := (s.cells.map (·.pid)).eraseDups.foldl (fun b i => match b.pkt i with
    | some p => if p.hole then b.reap i q else b
    | none => b) b
  b.settle q late keys

/-- The read of the next piece of the far span in front completes, or comes back unreadable (`fail`) (R216, R348). -/
def refillFar (b : Body) (q : Nat) (x : Queue) (s : Span) (rest : List Span) (fail : Bool) : Body :=
  let late := b.isLate q
  let i := s.pieces
  let cells := (s.cells.drop (16 * i)).take 16
  let keys := b.pfcKeys cells
  let base := b.bufAddr s.pool s.buf
  let a := base + 4096 * i
  let sa := b.farSide s.port base + 128 * i
  let (b, _, pz) := if fail then (b, [], true) else b.farRead s.port a 4096
  let (b, side, pz2) := if fail then (b, [], true) else b.farRead s.port sa 128
  let ok := sideOk side q ((s.seq + i) % 2 ^ 32) (b.frd s.port R.FAR_LINK_GEN)
  let left : Span := { s with pieces := i + 1, flight := s.flight - 1, since := b.clk }
  let b := b.setQueue q { x with spans := if i + 1 = 256 then rest else left :: rest, farUeArm := false }
  let b := if i + 1 = 256 then b.spanFree true s.pool s.buf else b
  let b := b.count Pg.chm FAR_PIECES_RD
  let b := if s.void.contains i then b
    else if pz || pz2 || x.farUeArm then b.unreadable q true a cells s.port (!fail)
    else if ¬ ok then
      let pg := Pg.hbm 0 3
      (((b.count (Pg.far s.port 0) FAR_SIDE_MISM).fire pg R.HBM_EVT_SIDE).fault pg R.HBM_FLT_SIDE
        { access := 3, space := 3 + s.port, addr := sa, detail := q }).unreadable q true a cells s.port false
    else b.refillCells q cells
  let b := (cells.map (·.pid)).eraseDups.foldl (fun b i => match b.pkt i with
    | some p => if p.hole then b.reap i q else b
    | none => b) b
  b.settle q late keys

/-- A refill read of a queue completes (R216): the Sump read in front, as queue order asks. -/
def refillComplete (b : Body) (q : Nat) : Body :=
  let x := b.queueOf q
  match x.spans with
  | [] => b
  | s :: rest =>
    if s.flight = 0 ∨ ¬ b.sumpServes then b
    else if s.far then b
    else b.refillSump q x s rest

/-- The far read in front of a queue completes (R348). It waits while its port is not READY (R345); an injection withholds
one completion (R354). -/
def farReadComplete (b : Body) (q : Nat) : Body :=
  let x := b.queueOf q
  match x.spans with
  | [] => b
  | s :: rest =>
    if s.flight = 0 ∨ ¬ s.far ∨ ¬ b.farReady s.port ∨ b.far.heldRead.contains q then b
    else if b.far.armHold.contains s.port then
      { b with far := { b.far with armHold := b.far.armHold.erase s.port, heldRead := insertNat q b.far.heldRead } }
    else b.refillFar q x s rest false

/-! Far migration (R215). -/

/-- Whether the last 256 spans of a spill section are Sump spans with no read of them in flight. -/
def lastSump (l : List Span) : Bool :=
  decide (256 ≤ l.length) && (l.drop (l.length - 256)).all fun s => !s.far && s.flight == 0

/-- The far writer takes up a long-haul queue beyond its Sump share, towards far port `port` (R215, R226, R348). -/
def farMigrate (b : Body) (q port : Nat) : Body :=
  let x := b.queueOf q
  if ¬ b.qLong q ∨ ¬ x.spill ∨ x.sump ≤ prSumpShare (b.prof q) ∨ ¬ lastSump x.spans ∨ x.migr.isSome ∨ ¬ b.farReady port then b
  else
    let low := match b.poolFor 3 (2 + port) 1048576 with | some n => b.poolLevel n == 2 | none => false
    if low then b
    else
      match b.poolReq 3 (2 + port) 1048576 with
      | (b, .ok n i) =>
        let first := ((x.spans.drop (x.spans.length - 256)).head?.map (·.seq)).getD 0
        b.setQueue q { x with migr := some { port := port, pool := n, buf := i, first := first, since := b.clk } }
      | (b, _) => b.count Pg.chm FAR_NOSPAN

/-- The copy of one Sump span into piece `i` of a far span (R335): answers whether the piece is void. The read honours an injected
error (R230). -/
def copyPiece (b : Body) (q port base gen i : Nat) (s : Span) : Body × Bool :=
  let a := b.bufAddr s.pool s.buf
  let sa := b.farSide port base + 128 * i
  let (b, data, ue) := b.sumpRead 2 a 4096
  let (b, side, ue2) := b.sumpRead 2 (Sump.sideAddr a) 128
  let armed := (b.queueOf q).sumpUeArm
  let b := if armed then b.setQueue q { b.queueOf q with sumpUeArm := false } else b
  let gone := ue || ue2 || armed
  let b := if gone then b.unreadable q false a s.cells else b
  let b := b.farWrite port (base + 4096 * i) data
  let side := if gone then sideRecord b q s.seq gen true s.cells else patchBytes side 88 (leBytes 2 gen)
  (b.farWrite port sa side, gone)

/-- The far copy completes (R215): the far span takes the place of the 256 Sump spans, which are freed. -/
def farCopyComplete (b : Body) (q : Nat) : Body :=
  let x := b.queueOf q
  match x.migr with
  | none => b
  | some m =>
    if ¬ b.farReady m.port ∨ ¬ b.sumpServes ∨ b.far.heldCopy.contains q then b
    else if b.far.armHold.contains m.port then
      { b with far := { b.far with armHold := b.far.armHold.erase m.port, heldCopy := insertNat q b.far.heldCopy } }
    else
      let mine := migrHas m
      let old := x.spans.filter mine
      let gen := b.frd m.port R.FAR_LINK_GEN
      let base := b.bufAddr m.pool m.buf
      let (b, void) := old.zipIdx.foldl (fun (a : Body × List Nat) e =>
        match a.1.copyPiece q m.port base gen e.2 e.1 with
        | (b, v) => (b, if v then a.2 ++ [e.2] else a.2)) (b, [])
      let far : Span := { far := true, port := m.port, pool := m.pool, buf := m.buf, cells := (old.map (·.cells)).flatten,
                          void := void, seq := m.first, gen := gen }
      let front := x.spans.takeWhile fun s => !mine s
      let back := x.spans.drop (front.length + old.length)
      let b := b.setQueue q { b.queueOf q with spans := front ++ [far] ++ back, migr := none }
      let b := old.foldl (fun b s => b.spanFree false s.pool s.buf) b
      (b.count Pg.chm FAR_SPANS_WR).profCount q ADM_FAR

/-- A migration abandoned (R348): its Sump spans stay, its far span goes back to its pool. -/
def abandonMigr (b : Body) (q : Nat) : Body :=
  let x := b.queueOf q
  match x.migr with
  | none => b
  | some m =>
    let b := { b with far := { b.far with heldCopy := b.far.heldCopy.erase q } }
    ((b.setQueue q { x with migr := none }).spanFree true m.pool m.buf).count (Pg.far m.port 0) FAR_MIG_ABANDON

/-- Whether a far request begun at `t` is not completed within FAR_TIMEOUT µs, 0 acting as 1 (R348). -/
def farLate (b : Body) (p t : Nat) : Bool := decide (t + max 1 (b.frd p R.FAR_TIMEOUT) * 1000 ≤ b.clk)

/-- A far read, or a write of a far copy, is not completed within FAR_TIMEOUT (R348). -/
def farRequestTimeout (b : Body) (q : Nat) (wr : Bool) : Body :=
  let x := b.queueOf q
  let late := fun (b : Body) (p acc : Nat) =>
    (b.count (Pg.far p 0) FAR_TIMEOUT_CNT).fault (Pg.far p 0) R.FAR_FLT_TIMEOUT { access := acc, space := 3 + p, detail := q, inj := b.far.heldRead.contains q || b.far.heldCopy.contains q }
  if wr then
    match x.migr with
    | none => b
    | some m => if b.farLate m.port m.since then b.abandonMigr q else b
  else match x.spans with
    | [] => b
    | s :: rest =>
      if s.flight = 0 ∨ ¬ s.far ∨ ¬ b.farLate s.port s.since then b
      else
        let b := late b s.port 3
        ({ b with far := { b.far with heldRead := b.far.heldRead.erase q } }).refillFar q x s rest true

/-- CHM_INJ_GO (R230): an error armed on queue CHM_INJ_Q. -/
def chmInject (b : Body) : Body :=
  let q := b.rd Pg.chm R.CHM_INJ_Q
  let x := b.queueOf q
  b.setQueue q (match b.rd Pg.chm R.CHM_INJ_KIND with
    | 0 => { x with chkArm := true }
    | 1 => { x with linkArm := true }
    | 2 => { x with sumpUeArm := true }
    | _ => { x with farUeArm := true })

/-! The BUFFER loop (R229). -/

/-- ADM_SHARE of a profile set. -/
def setShare (p v : Nat) (b : Body) : Body := b.setEnt Tbl.profile p (setBitField (b.ent Tbl.profile p) 21 0 v)

/-- The BUFFER loop at the end of a 1 ms period (R28, R229). LOG_INPUT is the occupancy in whole hundredths of a percent. -/
def bufferLoop (b : Body) : Body :=
  let used := b.rd Pg.chm R.CHM_SHARED_USED * 10000
  let limit := max 1 (b.rd Pg.chm R.CHM_SHARED_LIMIT)
  let occ := used / limit
  let lo := b.rd Pg.chm R.CHM_BUF_LO
  let hi := b.rd Pg.chm R.CHM_BUF_HI
  let wrote := b.buf.wrote
  let b := (List.range 64).foldl (fun b p =>
    let e := b.ent Tbl.profile p
    let s := prShare e
    if ¬ prValid e ∨ ¬ prSpill e then b
    else if prShareMax e < s then
      b.govAct LOOP_BUFFER p 2 RSN_ENVELOPE occ (prShareMax e) s (prShareMax e) (setShare p (prShareMax e))
    else if s < prShareMin e then
      b.govAct LOOP_BUFFER p 1 RSN_ENVELOPE occ (prShareMin e) s (prShareMin e) (setShare p (prShareMin e))
    else if used < lo * limit ∧ wrote.contains p then
      let n := min (s * 5 / 4) (prShareMax e)
      if n ≤ s then b else b.govAct LOOP_BUFFER p 1 LOAD_LOW occ lo s n (setShare p n)
    else if hi * limit < used then
      let n := max (s * 4 / 5) (prShareMin e)
      if s ≤ n then b else b.govAct LOOP_BUFFER p 2 LOAD_HIGH occ hi s n (setShare p n)
    else b) b
  { b with buf := { b.buf with wrote := [] } }

end Body

end Sys2Proof.Machine
end

