-- ==== Sys2Proof/Machine/Sched.lean ====
section
/-! DEFINITION. The Scheduler (R235 to R258): the tree, eligibility, start-time fair queuing, credit shapers, discards, errors,
and what a change of the tree does. -/

namespace Sys2Proof.Machine

/-! Counters of Scheduler page 0 (R260). -/
def SCH_DETACH_DROP : Nat := 0
def SCH_DOWN_DROP : Nat := 1
def SCH_SLOT_SHORT : Nat := 2
def SCH_STATE_ERR : Nat := 3
def SCH_CFG_ERR : Nat := 4
def SCH_REFILLS : Nat := 5
def SCH_WAKE_REQ : Nat := 6

/-- A node as the decisions use it: level among its siblings, weight, rate and cap codes, overhead index, parent index and
whether it is valid (R240, R246). -/
structure SchNode where
  prio : Nat := 0
  weight : Nat := 1
  rate : Nat := 0xFFFF
  cap : Nat := 0
  ovh : Nat := 0
  parent : Nat := 0
  valid : Bool := true
deriving DecidableEq, Repr

/-- The key of node `i` of level `l`: 0 queues, 1 subscriber nodes, 2 service nodes, 3 ports. -/
def nodeKey (l i : Nat) : Nat := l * 2 ^ 20 + i

/-- The number of nodes of a level (R235). -/
def levelSize (l : Nat) : Nat := match l with | 0 => 1048576 | 1 => 131072 | 2 => 16384 | _ => 529

/-- A rate code in bits per second (R246). -/
def rateBits (c : Nat) : Nat := c % 2 ^ 12 * 2 ^ (c / 2 ^ 12) * 16000
/-- A cap code in bytes (R246). -/
def capBytes (c : Nat) : Nat := (16 + c % 16) * 2 ^ (c / 16) * 64

/-- The later of two 48-bit tags (R242). -/
def later48 (a b : Nat) : Nat := if (b + 2 ^ 48 - a) % 2 ^ 48 < 2 ^ 47 then b else a

/-- The scheduled length of a packet (R241). -/
def schedLen (p : Pkt) : Nat := p.len - p.rw.strip + p.rw.ins.length

namespace Body

/-- Service node `s`'s rate and cap codes (R263). -/
def svcRate (b : Body) (s : Nat) : Nat :=
  b.rd (Pg.schPage (32 + s / 512)) (if s % 2 = 0 then R.SCH_SVC_RATE_EVEN else R.SCH_SVC_RATE_ODD) (s % 512 / 2)
def svcCap (b : Body) (s : Nat) : Nat :=
  let f := match s % 4 with
    | 0 => R.SCH_SVC_CAP0 | 1 => R.SCH_SVC_CAP1 | 2 => R.SCH_SVC_CAP2 | _ => R.SCH_SVC_CAP3
  b.rd (Pg.schPage (32 + s / 512)) f (s % 512 / 4)

/-- Node `i` of level `l` (R261 to R265). -/
def node (b : Body) (l i : Nat) : SchNode :=
  match l with
  | 0 =>
    let e := b.ent Tbl.schQ i
    { prio := bitField e 13 12, weight := bitField e 11 0, rate := bitField e 31 16, cap := bitField e 39 32,
      ovh := bitField e 42 40, parent := i / 8 }
  | 1 =>
    let e := b.ent Tbl.schSub i
    { prio := bitField e 29 28, weight := bitField e 27 16, rate := bitField e 47 32, cap := bitField e 55 48,
      ovh := bitField e 58 56, parent := bitField e 13 0, valid := bitOn e 127 }
  | 2 =>
    let e := b.ent Tbl.schSvc i
    { prio := bitField e 29 28, weight := bitField e 27 16, rate := b.svcRate i, cap := b.svcCap i,
      ovh := bitField e 34 32, parent := bitField e 9 0, valid := bitOn e 127 }
  | _ =>
    let e := b.ent Tbl.schPort i
    { rate := bitField e 15 0, cap := bitField e 23 16, ovh := bitField e 26 24 }

/-- SCH_PORT_DOWN_ACT of a port: DISCARD, on a network port (R253, R261). -/
def downDiscard (b : Body) (p : Nat) : Bool := decide (p < 512) && bitOn (b.ent Tbl.schPort p) 27

/-- The port that a node is attached to (R235). -/
def attached (b : Body) (l i : Nat) : Option Nat :=
  match l with
  | 0 => b.subPort (i / 8)
  | 1 => b.subPort i
  | 2 => if (b.node 2 i).valid then some (b.node 2 i).parent else none
  | _ => some i

/-- Start tag, virtual time, credit and fraction of a node (R242, R248). -/
def tagOfNode (b : Body) (k : Nat) : Nat := Sp.get 0 b.sch.s k
def vOf (b : Body) (k lvl : Nat) : Nat := Sp.get 0 b.sch.v (4 * k + lvl)
def creditOf (b : Body) (k : Nat) : Int := Sp.get 0 b.sch.credit k
def setTag (b : Body) (k v : Nat) : Body := { b with sch := { b.sch with s := Sp.set 0 b.sch.s k (v % 2 ^ 48) } }
def setV (b : Body) (k lvl v : Nat) : Body := { b with sch := { b.sch with v := Sp.set 0 b.sch.v (4 * k + lvl) v } }
def setCredit (b : Body) (k : Nat) (v : Int) : Body := { b with sch := { b.sch with credit := Sp.set 0 b.sch.credit k v } }
def setFrac (b : Body) (k v : Nat) : Body := { b with sch := { b.sch with frac := Sp.set 0 b.sch.frac k v } }

/-- The overhead at an index, signed (R241). -/
def ovh (b : Body) (i : Nat) : Int := signed 8 (b.rd Pg.sch R.SCH_OVH i)

/-- The shaped length of a packet at a node (R241). -/
def shapedLen (b : Body) (n : SchNode) (len : Nat) : Nat := (max 1 ((len : Int) + b.ovh n.ovh)).toNat

/-- The slice whose ledger holds a node's credit. -/
def nodeSlice (b : Body) (l i : Nat) : Nat := match b.attached l i with | some p => portGal p | none => 0

/-- Credit booked into or out of a slice's ledger, with its sign (R276). -/
def creditBook (b : Body) (g : Nat) (v : Int) : Body :=
  if 0 ≤ v then b.ledIn (ledCredit g) v.toNat else b.ledOut (ledCredit g) (-v).toNat

/-- The credit of a node discarded: its shaper is turned off, or it is made invalid (R248, R276). -/
def dropCredit (b : Body) (l i : Nat) : Body :=
  let k := nodeKey l i
  ((b.creditBook (b.nodeSlice l i) (- b.creditOf k)).setCredit k 0).setFrac k 0

/-- Whether a node's shaper lets it be chosen (R248). -/
def shaperOk (b : Body) (l i : Nat) (n : SchNode) : Bool := n.rate == 0xFFFF || decide (0 ≤ b.creditOf (nodeKey l i))

/-- Whether a node's own state lets it be chosen: valid, its configuration readable, its shaper's credit not negative. -/
def nodeOk (b : Body) (l i : Nat) : Bool :=
  let n := b.node l i
  n.valid && !b.sch.badCfg.contains (nodeKey l i) && b.shaperOk l i n

/-! Errors (R258). -/

/-- An uncorrectable error in a node's state found at its read. A port has no parent level: its virtual times take open
values. -/
def stateErr (b : Body) (l i : Nat) : Body :=
  let k := nodeKey l i
  let n := b.node l i
  let (ok, b) := b.mirrored
  let c := if ok then b.creditOf k else 0
  let g := b.nodeSlice l i
  let (w, b) := b.free 48
  let v := if l = 3 then w else b.vOf (nodeKey (l + 1) n.parent) n.prio
  let b := (List.range 4).foldl (fun b j => if l = 0 then b else b.setV k j v) b
  let b := if l = 3 then b else b.setTag k v
  let b := ((b.creditBook g (-c)).setCredit k 0).setFrac k 0
  let lost := encSigned 64 (((Sp.get 0 b.rim.lost (ledCredit g) : Nat) : Int) + c)
  let b := ({ b with rim := { b.rim with lost := Sp.set 0 b.rim.lost (ledCredit g) lost } }).fire Pg.rim R.RIM_EVT_LOST
  let b := { b with sch := { b.sch with armState := b.sch.armState.erase k } }
  let b := (b.wr Pg.sch R.SCH_ERR_LVL l).wr Pg.sch R.SCH_ERR_NODE i
  ((b.count Pg.sch SCH_STATE_ERR).fire Pg.sch R.SCH_EVT_STATE).fault Pg.sch R.SCH_FLT_STATE_ECC
    { access := 6, detail := k, inj := true }

/-- An uncorrectable error in a node's configuration found at its read: it is ineligible until rewritten. -/
def cfgErr (b : Body) (l i : Nat) : Body :=
  let k := nodeKey l i
  let b := { b with sch := { b.sch with armCfg := b.sch.armCfg.erase k, badCfg := insertNat k b.sch.badCfg } }
  let b := (b.wr Pg.sch R.SCH_ERR_LVL l).wr Pg.sch R.SCH_ERR_NODE i
  (b.count Pg.sch SCH_CFG_ERR).fault Pg.sch R.SCH_FLT_CFG_ECC { access := 6, detail := k, inj := true }

/-- The nodes of a list read: armed errors among them come to light. -/
def readNodes (b : Body) (l : List (Nat × Nat)) : Body :=
  l.foldl (fun b n =>
    let b := if b.sch.armState.contains (nodeKey n.1 n.2) then b.stateErr n.1 n.2 else b
    if b.sch.armCfg.contains (nodeKey n.1 n.2) then b.cfgErr n.1 n.2 else b) b

/-- SCH_INJ_GO (R260). -/
def schInject (b : Body) : Body :=
  let l := b.rd Pg.sch R.SCH_INJ_LVL
  let i := b.rd Pg.sch R.SCH_INJ_IDX
  if levelSize l ≤ i then b
  else if b.on Pg.sch R.SCH_INJ_CFG then
    { b with sch := { b.sch with armCfg := insertNat (nodeKey l i) b.sch.armCfg } }
  else { b with sch := { b.sch with armState := insertNat (nodeKey l i) b.sch.armState } }

/-! Eligibility (R237, R239). -/

/-- The packet at the front of a queue, complete in the Chamber, and its cells. -/
def frontOf (b : Body) (q : Nat) : Option (Nat × List QCell) := (b.queueOf q).front b.pktCells

/-- Whether a queue is eligible (R239): a packet marked for discard is never sent (R254). -/
def queueElig (b : Body) (q : Nat) : Bool :=
  match b.attached 0 q, b.frontOf q with
  | some p, some (pid, _) =>
    b.nodeOk 0 q && !(p < 512 && b.classPaused p (q % 8)) &&
      (match b.pkt pid with | some x => !x.discard | none => false)
  | _, _ => false

/-- The queues with packets, rising. -/
def backlog (b : Body) : List Nat := (b.buf.queues.filter fun e => !e.2.isEmpty).map (·.1)

/-- The eligible queues, subscriber nodes and service nodes. -/
def eligQ (b : Body) : List Nat := b.backlog.filter b.queueElig
def eligSub (b : Body) : List Nat := ((b.eligQ.map (· / 8)).eraseDups).filter (b.nodeOk 1)
def eligSvc (b : Body) : List Nat := ((b.eligSub.map fun s => (b.node 1 s).parent).eraseDups).filter (b.nodeOk 2)

/-- The keys of every eligible child. -/
def eligKeys (b : Body) : List Nat :=
  b.eligQ.map (nodeKey 0) ++ b.eligSub.map (nodeKey 1) ++ b.eligSvc.map (nodeKey 2)

/-- A child that has become eligible takes the later of its tag and the current virtual time of its level (R242, R243). -/
def wakeTag (b : Body) (k : Nat) : Body :=
  let l := k / 2 ^ 20
  let n := b.node l (k % 2 ^ 20)
  b.setTag k (later48 (b.vOf (nodeKey (l + 1) n.parent) n.prio) (b.tagOfNode k))

/-- Eligibility brought up to date. Virtual times move only in a decision, so this is done around each. -/
def schSync (b : Body) : Body :=
  let now := b.eligKeys
  let b := (now.filter fun k => !b.sch.elig.contains k).foldl (fun b k => b.wakeTag k) b
  { b with sch := { b.sch with elig := now } }

/-- Bytes held in a Gallery's recirculation holding buffer (R124). -/
def rcyBytes (b : Body) (g : Nat) : Nat :=
  ((Sp.get [] b.pipe.rcyHold g).map fun i => match b.pkt i with | some p => p.len | none => 0).foldl (· + ·) 0

/-- Bytes that egress of a port has yet to finish, as scheduled. -/
def egrBytes (b : Body) (p : Nat) : Nat :=
  ((b.sch.egr.filter fun e => e.port == p).map fun e =>
    match b.pkt e.pid with | some x => schedLen x | none => 0).foldl (· + ·) 0

/-- Whether a port can take a packet of scheduled length `n` (R237). A network port's MAC has room when the decision is asked
for; an internal port's receiver signals it. -/
def canTake (b : Body) (p n : Nat) : Bool :=
  if p < 512 then b.portSends p
  else if p < 520 then decide (b.rcyBytes (p - 512) + b.egrBytes p + n ≤ 65536)
  else if p < 528 then b.grtRoom (p - 520)
  else b.hostRoom

/-- The child of a node to serve (R240): lowest level, then smallest start tag from the level's virtual time, then lowest
index. `cs` are the eligible children's indices at level `l`, rising. -/
def choose (b : Body) (parent l : Nat) (cs : List Nat) : Option Nat :=
  let rank := fun i =>
    let n := b.node l i
    (n.prio, (b.tagOfNode (nodeKey l i) + 2 ^ 48 - b.vOf parent n.prio) % 2 ^ 48)
  cs.foldl (fun a i => match a with
    | none => some i
    | some j =>
      let x := rank i
      let y := rank j
      if x.1 < y.1 ∨ (x.1 = y.1 ∧ x.2 < y.2) then some i else a) none

/-- The walk from a port down to a queue (R240): service node, subscriber node, queue. -/
def walk (b : Body) (p : Nat) : Option (Nat × Nat × Nat) :=
  match b.choose (nodeKey 3 p) 2 ((b.eligSvc.filter fun s => (b.node 2 s).parent == p).foldr insertNat []) with
  | none => none
  | some v =>
    match b.choose (nodeKey 2 v) 1 ((b.eligSub.filter fun s => (b.node 1 s).parent == v).foldr insertNat []) with
    | none => none
    | some s =>
      (b.choose (nodeKey 1 s) 0 (b.eligQ.filter fun q => q / 8 == s)).map fun q => (v, s, q)

/-- One packet served through child `i` of level `l` (R242, R248). -/
def serve (b : Body) (l i len : Nat) : Body :=
  let k := nodeKey l i
  let n := b.node l i
  let sl := b.shapedLen n len
  let s := b.tagOfNode k
  let b := (b.setV (nodeKey (l + 1) n.parent) n.prio s).setTag k (s + ceilDiv (sl * 65536) n.weight)
  if n.rate = 0xFFFF then b
  else (b.setCredit k (b.creditOf k - sl * 65536)).ledOut (ledCredit (b.nodeSlice l i)) (sl * 65536)

/-- The port's own debit. -/
def servePort (b : Body) (p len : Nat) : Body :=
  let n := b.node 3 p
  let sl := b.shapedLen n len
  if n.rate = 0xFFFF then b
  else (b.setCredit (nodeKey 3 p) (b.creditOf (nodeKey 3 p) - sl * 65536)).ledOut (ledCredit (portGal p)) (sl * 65536)

/-- The front packet of a queue taken off its head section. -/
def takeFront (b : Body) (q n : Nat) : Body :=
  let x := b.queueOf q
  b.setQueue q { x with head := x.head.drop n }

/-- The front packet of a queue discarded as if sent, with no debit (R253, R254). -/
def discardFront (b : Body) (q ctr : Nat) : Body :=
  match b.frontOf q with
  | none => b
  | some (pid, cs) =>
    let late := b.isLate q
    let keys := b.pfcKeys cs
    let b := (((b.takeFront q cs.length).freeCells (cs.map (·.cell))).ledOut ledQueue 1).count Pg.sch ctr
    let b := b.reap pid q
    b.settle q late keys

/-- A discard in a slot that no eligible port of the slice wants: a packet marked by a detach first, then one of a port that
is down with DISCARD (R253, R254). -/
def discardSlot (b : Body) (p : Nat) : Body :=
  let marked := b.backlog.find? fun q => match b.frontOf q with
    | some (pid, _) => (match b.pkt pid with | some x => x.discard | none => false)
    | none => false
  match marked with
  | some q => b.discardFront q SCH_DETACH_DROP
  | none =>
    if b.downDiscard p ∧ ¬ b.portSends p then
      match b.backlog.find? fun q => b.attached 0 q == some p && (b.frontOf q).isSome with
      | some q => b.discardFront q SCH_DOWN_DROP
      | none => b
    else b

/-- Whether a Gallery is in the active state: in no resting state, not waking, and not in reset (R282, R291). -/
def galActive (b : Body) (g : Nat) : Bool := decide (b.galState g ≤ 3) && !b.galInReset g

/-- Whether a port is eligible with what its walk would send (R237); and that queue's packet. -/
def portElig (b : Body) (p : Nat) : Option (Nat × Nat × Nat × Nat × List QCell) :=
  if ¬ b.galActive (portGal p) ∨ ¬ b.nodeOk 3 p then none
  else
    match b.walk p with
    | none => none
    | some (v, s, q) =>
      match b.frontOf q with
      | none => none
      | some (pid, cs) =>
        let n := match b.pkt pid with | some x => schedLen x | none => 0
        if b.canTake p n then some (v, s, q, pid, cs) else none

/-- The ports of the slice of a port (R236). -/
def slicePorts (g : Nat) : List Nat :=
  (List.range 64).map (64 * g + ·) ++ [512 + g, 520 + g] ++ (if g = 0 then [528] else [])

/-! The eight decisions of a D13 clock (R236, R238). With more requests than that the slice serves its ports by weighted round robin: in a
round each is served up to its weight while another waits. Which of those still owed a decision comes next the spec does not say: the command
names it. A D13 clock is up to eight decisions of a slice at one time (DESIGN CHOICE, log entry 45). -/

/-- The ports of a slice that request a decision. -/
def slotRequests (b : Body) (g : Nat) : List Nat := (slicePorts g).filter fun p => (b.portElig p).isSome

/-- The weight of a port: its rate in units of 10 Gbit/s. -/
def slotWeight (b : Body) (p : Nat) : Nat :=
  if p < 512 then b.portGb p / 10 else if p < 520 then 160 else if p < 528 then 20 else 32

/-- Whether a port is still owed a decision in its slice's round. -/
def slotOwed (b : Body) (p : Nat) : Bool := decide (Sp.get 0 b.sch.turn p < b.slotWeight p)

/-- Whether a port may be served next, of those that request. -/
def slotTurn (b : Body) (p : Nat) (reqs : List Nat) : Bool :=
  decide (reqs.length ≤ 8) || b.slotOwed p || reqs.all fun x => !b.slotOwed x

/-- A decision made for a port: with no port owed one a round begins. -/
def slotServe (b : Body) (p : Nat) (reqs : List Nat) : Body :=
  let m := if reqs.any b.slotOwed then b.sch.turn else (slicePorts (portGal p)).foldl (fun m x => Sp.del m x) b.sch.turn
  { b with sch := { b.sch with turn := Sp.set 0 m p (Sp.get 0 m p + 1) } }

/-- The D13 clock of a decision of slice `g` with `n` ports that request. At the first one of a clock, more requests than decisions are counted,
with an event where the slice was not short before. -/
def slotClock (b : Body) (g n : Nat) : Body :=
  let (t, k) := Sp.get (0, 0) b.sch.slot g
  if t = b.clk ∧ 1 ≤ k ∧ k < 8 then { b with sch := { b.sch with slot := Sp.set (0, 0) b.sch.slot g (t, k + 1) } }
  else
    let was := b.sch.short.contains g
    let b := { b with sch := { b.sch with slot := Sp.set (0, 0) b.sch.slot g (b.clk, 1),
                                          short := if 8 < n then insertNat g b.sch.short else b.sch.short.erase g } }
    if n ≤ 8 then b
    else if was then b.count Pg.sch SCH_SLOT_SHORT
    else (b.count Pg.sch SCH_SLOT_SHORT).fire Pg.sch R.SCH_EVT_SLOT

/-- The Scheduler asks a resting Gallery to wake (R237). -/
def wakeRequest (b : Body) (g : Nat) : Body :=
  if 4 ≤ b.galState g ∧ b.galState g ≤ 7 ∧ ¬ b.sch.wake.contains g then
    ({ b with sch := { b.sch with wake := insertNat g b.sch.wake } }).count Pg.sch SCH_WAKE_REQ
  else b

/-- A decision of a slice for a port (R240): the front packet of the chosen queue goes to egress. With nothing to send for
the port, a resting Gallery with an eligible packet for it is asked to wake (R237), or a spare slot discards (R253, R254). -/
def schedulerDecision (b : Body) (p : Nat) : Body :=
  if 529 ≤ p then b
  else
    let g := portGal p
    let qs := b.backlog.filter fun q => b.attached 0 q == some p
    let subs := (qs.map (· / 8)).eraseDups
    let svcs := (subs.map fun s => (b.node 1 s).parent).eraseDups
    let b := b.readNodes (qs.map (0, ·) ++ subs.map (1, ·) ++ svcs.map (2, ·) ++ [(3, p)])
    let b := b.schSync.svyBump 4 g 0 1
    let reqs := b.slotRequests g
    match b.portElig p with
    | none =>
      if ¬ b.galActive g ∧ b.eligQ.any (fun q => b.attached 0 q == some p) then b.wakeRequest g
      else if reqs = [] then (b.discardSlot p).schSync
      else b
    | some (v, s, q, pid, cs) =>
      if ¬ b.slotTurn p reqs then b
      else
        let b := ((b.slotServe p reqs).slotClock g reqs.length).galBusy g
        let len := match b.pkt pid with | some x => schedLen x | none => 0
        let late := b.isLate q
        let b := (((b.serve 0 q len).serve 1 s len).serve 2 v len).servePort p len
        let b := (b.takeFront q cs.length).ledOut ledQueue 1
        let b := b.ledIn (ledEgress g) 1
        let e : EgrPkt := { slice := g, port := p, pid := pid, queue := q, cells := cs }
        let b := { b with sch := { b.sch with egr := b.sch.egr ++ [e] } }
        (b.settle q late (b.pfcKeys cs)).schSync

/-! Refill boundaries (R247 to R249). -/

/-- The nodes whose shaper may be on. -/
def shapedNodes (b : Body) : List (Nat × Nat) :=
  let svc := (b.regs.filterMap fun e =>
    let a := e.1 / 32
    let pg := a / 0x1000 - 0x920
    let off := a % 0x1000
    if 32 ≤ pg ∧ pg < 64 ∧ 0x80 ≤ off ∧ off < 0x480 then
      some (512 * (pg - 32) + 2 * ((off - 0x80) / 4) + (if e.1 % 32 = 16 then 1 else 0))
    else none).eraseDups
  ((b.entIdxs Tbl.schQ).map (0, ·) ++ (b.entIdxs Tbl.schSub).map (1, ·) ++ svc.map (2, ·) ++
    (b.entIdxs Tbl.schPort).map (3, ·)).filter fun n => (b.node n.1 n.2).rate != 0xFFFF && (b.node n.1 n.2).valid

/-- The accrual of one node over a period (R248). -/
def accrueNode (b : Body) (per l i : Nat) : Body :=
  let k := nodeKey l i
  let n := b.node l i
  let num := rateBits n.rate * per * 8192 + Sp.get 0 b.sch.frac k
  let c := b.creditOf k
  let c' := min (c + (num / 10 ^ 9 : Nat)) (max c (capBytes n.cap * 65536 : Nat))
  ((b.setFrac k (num % 10 ^ 9)).setCredit k c').ledIn (ledCredit (b.nodeSlice l i)) (c' - c).toNat

/-- A refill boundary (R247, R248): every shaper accrues, and a new period starts, so that the boundaries keep their distance from reset. -/
def refillBoundary (b : Body) : Body :=
  let ns := b.shapedNodes
  let b := b.readNodes ns
  let b := ns.foldl (fun b n => b.accrueNode b.sch.period n.1 n.2) b
  let per := b.rd Pg.sch R.SCH_REFILL_NS
  let b := { b with sch := { b.sch with period := per, next := b.sch.next + per } }
  (b.count Pg.sch SCH_REFILLS).schSync

/-! Changes of the tree (R245, R248, R254, R255). -/

/-- Every packet queued in a subtree that a write detached is marked for discard (R254). `was` gives each backlogged queue
with the port that it was attached to. -/
def markDetached (b : Body) (was : List (Nat × Option Nat)) : Body :=
  was.foldl (fun b w =>
    match w.2 with
    | none => b
    | some p =>
      if b.attached 0 w.1 = some p then b
      else
        let x := b.queueOf w.1
        let pids := ((x.head ++ (x.spans.map (·.cells)).flatten ++ x.tail).map (·.pid)).eraseDups
        pids.foldl (fun b i => b.modPkt i fun y => { y with discard := true }) b) b

/-- Changes of the tree made by `f`, as one (R59, R254): `ns` are the nodes that it changes. What a node was detached from is judged by the
tree before and the tree after. -/
def detaching (b : Body) (ns : List (Nat × Nat)) (f : Body → Body) : Body :=
  if ns = [] then f b
  else
    let was := b.backlog.map fun q => (q, b.attached 0 q)
    let c := (f b).markDetached was
    if ns.any fun n => (b.attached n.1 n.2).isSome && c.attached n.1 n.2 != b.attached n.1 n.2 then c.fire Pg.sch R.SCH_EVT_DETACH else c

/-- The credits of the nodes that are in another slice than in `was` booked from one CREDIT ledger into the other; a detached node's stands in
slice 0's (DESIGN CHOICE, log entry 45). -/
def creditMoved (was b : Body) : Body :=
  b.sch.credit.foldl (fun b e =>
    let g := was.nodeSlice (e.1 / 2 ^ 20) (e.1 % 2 ^ 20)
    let h := b.nodeSlice (e.1 / 2 ^ 20) (e.1 % 2 ^ 20)
    if g = h then b else (b.creditBook g (-e.2)).creditBook h e.2) b

/-- What a change of a node's entry (`entry`) or registers entails, made by `f`: credit and tag (R245, R248, R255). A service node's entry
written with its parent and weight as they were joins its level anew; where the weight differs the tag is kept (DESIGN CHOICE, log entry
45). -/
def nodeChange (b : Body) (l i : Nat) (entry : Bool) (f : Body → Body) : Body :=
  let k := nodeKey l i
  let old := b.node l i
  let off := fun (n : SchNode) => n.rate == 0xFFFF || !n.valid
  let new := (f b).node l i
  -- credit leaves the ledger of the slice that the node belonged to
  let b := if off new && !off old then b.dropCredit l i else b
  let b := creditMoved b (f b)
  let b := if !off new && off old then (b.setCredit k 0).setFrac k 0 else b
  let b := { b with sch := { b.sch with badCfg := b.sch.badCfg.erase k } }
  if l = 3 then b
  else if old.prio ≠ new.prio ∨ old.parent ≠ new.parent ∨ (l = 2 ∧ entry ∧ old.weight = new.weight) then
    b.setTag k (b.vOf (nodeKey (l + 1) new.parent) new.prio)
  else b

/-- Whether a queue holds a packet marked for discard (R254). -/
def queueMarked (b : Body) (q : Nat) : Bool :=
  let x := b.queueOf q
  (x.head ++ (x.spans.map (·.cells)).flatten ++ x.tail).any fun c => match b.pkt c.pid with | some p => p.discard | none => false

/-- The 64-byte state entry of a node (R266). -/
def nodeState (b : Body) (l i : Nat) : Nat :=
  if levelSize l ≤ i then 0
  else
    let b := b.schSync
    let k := nodeKey l i
    let n := b.node l i
    let mine := b.backlog.filter fun q => match l with
      | 0 => q == i
      | 1 => q / 8 == i
      | 2 => (b.node 1 (q / 8)).parent == i
      | _ => b.attached 0 q == some i
    let paused := l == 0 && (match b.attached 0 i with | some p => p < 512 && b.classPaused p (i % 8) | none => false)
    let disc := mine.any fun q => match b.attached 0 q with
      | some p => (b.downDiscard p && !b.portSends p) || b.queueMarked q
      | none => true
    let credit := if n.rate = 0xFFFF then 0 else encSigned 64 (b.creditOf k)
    let v := fun j => if l = 0 then 0 else b.vOf k j
    credit + (if l = 3 then 0 else b.tagOfNode k) * 2 ^ 64 + v 0 * 2 ^ 128 + v 1 * 2 ^ 192 + v 2 * 2 ^ 256 + v 3 * 2 ^ 320 +
      (b2n (if l = 3 then (b.portElig i).isSome else b.sch.elig.contains k) * 128 + b2n (!mine.isEmpty) * 64 +
        b2n paused * 32 + b2n disc * 16 + b2n (b.attached l i).isSome * 8) * 2 ^ 384

end Body

end Sys2Proof.Machine
end

