-- ==== Sys2Proof/Machine/Egress.lean ====
section
/-! DEFINITION. Egress: the checks of a packet's cells and descriptor, the rewrite, and what leaves on a network port, by
recirculation, to a Grotto port and to the host port (R94 to R96, R124, R185 to R194, R200, R269 to R272, R373, R435). -/

namespace Sys2Proof.Machine

/-! Counters of the egress rewrite page (R202). -/
def REW_DCHK_ERR : Nat := 0
def REW_TRIM_PKTS : Nat := 1
def REW_PTP_1STEP : Nat := 2
def REW_PTP_2STEP : Nat := 3
def REW_LATE_LEN_PKTS : Nat := 4
def RCY_PKTS : Nat := 16
def RCY_BYTES : Nat := 17
def RCY_OVERSIZE : Nat := 18

/-! The rewrite (R185). -/

/-- A 16-bit ones' complement sum updated for a change of `old` to `new` bytes (RFC 1624). -/
def csumUpdate (c : Nat) (old new : List Byte) : Nat :=
  let s := (0xFFFF - c) + (0xFFFF - inetFold old 0) + inetFold new 0
  let f := s % 0x10000 + s / 0x10000
  0xFFFF - (f % 0x10000 + f / 0x10000)

/-- Bytes of an IPv4 header at `o` replaced, with the incremental update of its checksum (R193). The words that change stay
within the 16-bit word at an even offset `w`. -/
def ip4Edit (d : List Byte) (o w : Nat) (new : List Byte) : List Byte :=
  let old := slice d (o + w) 2
  patchBytes (patchBytes d (o + w) new) (o + 10) (beBytes 2 (csumUpdate (beAt d (o + 10) 2) old new))

/-- The TTL and TOS edits of the header at the edit offset. -/
def editIp (r : Rewrite) (d : List Byte) : List Byte :=
  let o := r.editOff
  if ¬ (r.editTtl || r.editTos) then d
  else if beAt d o 1 / 16 = 4 then
    let put := fun (d : List Byte) (w : Nat) (new : List Byte) =>
      if r.ip4csum then ip4Edit d o w new else patchBytes d (o + w) new
    let d := if r.editTos then put d 0 (slice d o 1 ++ [BitVec.ofNat 8 r.tos]) else d
    if r.editTtl then put d 8 (BitVec.ofNat 8 r.ttl :: slice d (o + 9) 1) else d
  else
    let d := if r.editTos then
        patchBytes d o (beBytes 2 (beAt d o 2 / 0x1000 * 0x1000 + r.tos * 16 + beAt d o 2 % 16)) else d
    if r.editTtl then patchBytes d (o + 7) [BitVec.ofNat 8 r.ttl] else d

/-- One length field (R185): 1 an IPv4 total length with the checksum of the whole header, 2 an IPv6 payload length, 3 a UDP
length. -/
def lenFix (d : List Byte) (f : Nat × Nat) : List Byte :=
  let o := f.2
  match f.1 with
  | 1 =>
    let d := patchBytes (patchBytes d (o + 2) (beBytes 2 (d.length - o))) (o + 10) [0, 0]
    patchBytes d (o + 10) (beBytes 2 (inetCsum (slice d o (beAt d o 1 % 16 * 4))))
  | 2 => patchBytes d (o + 4) (beBytes 2 (d.length - o - 40))
  | 3 => patchBytes d (o + 4) (beBytes 2 (d.length - o))
  | _ => d

/-- The bytes that leave, without FCS and before any PTP operation: strip, insert, edit, lengths. -/
def rewritten (p : Pkt) : List Byte :=
  let d := p.data.take (p.keep.getD (p.len - 4))
  let d := p.rw.ins ++ d.drop p.rw.strip
  p.rw.lfix.foldl lenFix (editIp p.rw d)

/-- Where the PTP message of a packet lies in the rewritten bytes, and the UDP header in front of it if there is one (R94). -/
def ptpAt (p : Pkt) : Option (Nat × Option Nat) :=
  let h := p.hv
  let sh := fun (o : Nat) => if p.rw.strip ≤ o then some (o - p.rw.strip + p.rw.ins.length) else none
  if ¬ h.fPtp then none
  else if h.etype = 0x88F7 then (sh (14 + 4 * h.vlanCnt)).map fun o => (o, none)
  else
    let s := h.slots.getD 3 {}
    if s.ty = 25 then (sh s.off).map fun o => (o + 8, some o) else none

/-- One-step operation (R94): originTimestamp is written, or the residence time is added to correctionField. Which of the
two the engine does for a message type is left open. A UDP checksum that comes to zero is sent as 0xFFFF, since zero means none. -/
def ptpOneStep (d : List Byte) (o : Nat) (udp : Option Nat) (inTs outTs : Nat) : List Byte :=
  let origin := Config.ptpOrigin (beAt d o 1 % 16)
  let (w, new) := if origin then (o + 34, beBytes 6 (outTs / 65536 / 1000000000) ++ beBytes 4 (outTs / 65536 % 1000000000))
    else (o + 8, beBytes 8 (beAt d (o + 8) 8 + outTs + (2 ^ 64 - inTs % 2 ^ 64)))
  let old := slice d w new.length
  let d' := patchBytes d w new
  match udp with
  | none => d'
  | some u =>
    let c := csumUpdate (beAt d (u + 6) 2) old new
    if beAt d (u + 6) 2 = 0 then d' else patchBytes d' (u + 6) (beBytes 2 (if c = 0 then 0xFFFF else c))

namespace Body

/-- The next packet that a slice handed to egress of a port, with its record. -/
def egrNext (b : Body) (port : Nat) : Option (EgrPkt × Pkt) :=
  match b.sch.egr.find? fun e => e.port == port with
  | none => none
  | some e => (b.pkt e.pid).map fun p => (e, p)

/-- A packet that an internal port sends, as Survey counts it (R471). -/
def noteSent (b : Body) (port n : Nat) : Body :=
  ((b.svyBump 0 port 3 1).svyBump 0 port 4 n).svyBump 0 port 5 (n + 20)

/-- A packet leaves egress: its cells are given up, and its record is dropped unless stage 7 has yet to count it. -/
def egrDone (b : Body) (e : EgrPkt) : Body :=
  let keys := b.pfcKeys e.cells
  let b := { b with sch := { b.sch with egr := b.sch.egr.erase e } }
  let b := b.freeCells (e.cells.map (·.cell))
  let b := if b.pipe.stage7.contains e.pid then b.modPkt e.pid (fun p => { p with gone := true }) else b.delPkt e.pid
  b.chmChanged keys

/-- A packet lost to error in egress. -/
def egrLose (b : Body) (e : EgrPkt) : Body := (b.lose (ledEgress e.slice) 1).egrDone e

/-- A broken link in the cells of a packet that egress reads (R222, R278): this packet is lost, and every packet behind it in
its head section; the cells beyond the break are orphans. -/
def egrBreak (b : Body) (e : EgrPkt) : Body :=
  let x := b.queueOf e.queue
  let late := b.isLate e.queue
  let keys := b.pfcKeys x.head
  let rest := (x.head.map (·.pid)).eraseDups
  let b := rest.foldl (fun b i => b.bookHole i) b
  let b := b.orphan ((e.cells.drop 1 ++ x.head).map (·.cell))
  let b := b.setQueue e.queue { x with head := [] }
  let b := rest.foldl (fun b i => b.reap i e.queue) b
  let b := (b.count Pg.chm CHM_LINK_ERR).fault Pg.chm R.CHM_FLT_LINK { access := 6, space := 8, detail := e.queue, inj := true }
  let b := { b with sch := { b.sch with egr := b.sch.egr.erase e } }
  ((b.lose (ledEgress e.slice) 1).egrDone { e with cells := e.cells.take 1 }).settle e.queue late keys

/-- A cell check that fails as egress reads (R222). -/
def chkError (b : Body) (e : EgrPkt) : Body :=
  (b.count Pg.chm CHM_CHK_ERR).fault Pg.chm R.CHM_FLT_CELLCHK
    { access := 6, space := 8, addr := (e.cells.headD { pid := 0, pos := 0, cell := 0 }).cell, detail := e.queue, inj := true }

/-- An armed corruption of REW_CHECK in the slice of a packet (R202). -/
def rewArm (b : Body) (g : Nat) (p : Pkt) : Body × Pkt :=
  let n := b.rd (Pg.rew g) R.REW_INJ_CNT
  if n = 0 then (b, p)
  else (b.wr (Pg.rew g) R.REW_INJ_CNT (n - 1), { p with rw := { p.rw with check := p.rw.check ^^^ 1 } })

/-- The descriptor checked (R200): the packet, or none where it is lost. -/
def rewCheck (b : Body) (e : EgrPkt) (p : Pkt) : Body × Option Pkt :=
  let (b, p) := b.rewArm e.slice p
  if p.rw.checkOk then (b, some p)
  else
    let b := (b.count (Pg.rew e.slice) REW_DCHK_ERR).fire (Pg.rew e.slice) R.REW_EVT_DCHK
    let b := b.fault (Pg.rew e.slice) R.REW_FLT_DCHK { access := 6, inj := true }
    (b.egrLose e, none)

/-- The counts of what a rewrite did. -/
def rewCounts (b : Body) (g : Nat) (p : Pkt) : Body :=
  let b := if p.rw.trim then b.count (Pg.rew g) REW_TRIM_PKTS else b
  if p.rw.lateLen then b.count (Pg.rew g) REW_LATE_LEN_PKTS else b

/-- The two-step timestamp returned to the sender of an injected packet (R94, R375, R433). -/
def tsReturn (b : Body) (p : Pkt) (t : Nat) : Body :=
  if 0x1000 ≤ p.ptpSrc then b.tsToGrotto p.outPort p.rw.token t
  else if p.ptpSrc ≠ 0 then b.tsToRing (p.ptpSrc - 1) p.outPort p.rw.token t
  else b.fire (Pg.rew (portGal p.outPort)) R.REW_EVT_PTP

/-- The PTP operation of a packet that leaves at time `t`. -/
def ptpOp (b : Body) (g : Nat) (p : Pkt) (d : List Byte) (t : Nat) : Body × List Byte :=
  match p.rw.ptp with
  | 1 =>
    let b := b.count (Pg.rew g) REW_PTP_1STEP
    match ptpAt p with
    | some (o, u) => (b, ptpOneStep d o u p.ts t)
    | none => (b, d)
  | 2 => ((b.count (Pg.rew g) REW_PTP_2STEP).tsReturn p t, d)
  | _ => (b, d)

/-- `n` bytes of padding, whose values the spec leaves open. -/
def padBytes (b : Body) : Nat → Body × List Byte
  | 0 => (b, [])
  | n + 1 =>
    let (v, b) := b.free 8
    let (b, l) := padBytes b n
    (b, BitVec.ofNat 8 v :: l)

/-- A frame short of 60 bytes brought to the Ethernet minimum. -/
def padFrame (b : Body) (d : List Byte) : Body × List Byte :=
  let (b, l) := b.padBytes (60 - d.length)
  (b, d ++ l)

/-- The counter of a stomp's cause (R96). -/
def stompCtr : Verdict → Nat
  | .badFcs => STOMP_FCS
  | .badIcv => STOMP_ICV
  | .oversize => STOMP_OVERSIZE
  | .aborted => STOMP_ABORT
  | _ => STOMP_CELLCHK

/-- Codewords of a frame of `n` bytes corrupted on a port's lanes while LANE_INJ_CNT lasts (R97): whether more than 15 symbols of one make it
uncorrectable. A codeword carries 5,120 bits of frames; those of idles are not counted (DESIGN CHOICE, log entry 40). -/
def laneInject (b : Body) (p n : Nat) : Body × Bool :=
  let hit := (b.portLanes p).filter fun l => b.prd l R.LANE_INJ_CNT != 0
  let sym := (hit.map fun l => b.prd l R.LANE_INJ_SYM).foldl (· + ·) 0
  (hit.foldl (fun b l => b.pwr l R.LANE_INJ_CNT (b.prd l R.LANE_INJ_CNT - ceilDiv ((n + 20) * 8) 5120)) b, decide (15 < sym))

/-- A frame put on a port's lanes, in error where it is stomped or its codewords are uncorrectable; what the lanes loop (R97). -/
def emitFrame (b : Body) (p : Nat) (w : List Byte) (err : Bool) : Body :=
  let (b, bad) := b.laneInject p w.length
  match b.portLoop p with
  | 1 => b.frameIn p (if bad && fcsOk w then w.dropLast ++ [~~~(w.getLast?.getD 0)] else w)
  | 2 => b
  | _ => b.emit (.frame p w (err || bad))

/-- A stomp (R96): the bytes held, the inverse of their FCS, an error control block. An aborted frame's held bytes are as many
as had arrived, which the end of the frame did not say. -/
def stomp (b : Body) (e : EgrPkt) (v : Verdict) (d : List Byte) : Body :=
  let pg := Pg.lane e.port
  let (n, b) := if v = .aborted then (let (k, b) := b.free 14; (k % (d.length + 1), b)) else (d.length, b)
  let d := d.take n
  let b := ((b.count pg TX_STOMP).count pg (stompCtr v)).fire pg R.PORT_EVT_STOMP
  b.emitFrame e.port (d ++ (fcsBytes d).map fun x => ~~~x) true

/-- Armed corruptions of transmitted frames (R97): the ICV's last byte, or the FCS inverted. -/
def txArm (b : Body) (p : Nat) : Body × Bool × Bool :=
  let n := b.prd p R.PORT_INJ_CNT
  if n = 0 then (b, false, false)
  else (b.pwr p R.PORT_INJ_CNT (n - 1), b.prd p R.PORT_INJ_FCS == 1, b.prd p R.PORT_INJ_ICV == 1)

/-- A frame sent on a network port: MACsec, padding, FCS, the maximum length, the counts (R77, R90, R92, R97). A cut-through packet that has
begun is stomped where its length proves too long. -/
def sendFrame (b : Body) (e : EgrPkt) (p : Pkt) (d : List Byte) : Body :=
  let pg := Pg.lane e.port
  let secy := b.prd e.port R.PORT_MACSEC_EN = 1
  match (if secy then b.msecTx e.port d else (b, some d)) with
  | (b, none) => b
  | (b, some w) =>
    let (b, w) := b.padFrame w
    let (b, xf, xi) := b.txArm e.port
    let w := if xi ∧ secy then w.dropLast ++ [(w.getLast?.getD 0) ^^^ 1] else w
    if b.prd e.port R.PORT_MAX_FRAME < w.length + 4 then
      if p.ct ∧ p.started then b.stomp e .oversize w
      else
        let b := if secy then b.count (Pg.msec (e.port / 64)) (secyCtr (e.port % 64) 1) else b
        b.count pg TX_OVERSIZE
    else
      let fcs := if xf then (fcsBytes w).map (fun x => ~~~x) else fcsBytes w
      ((b.count pg TX_OK).count pg TX_BYTES (w.length + 4)).emitFrame e.port (w ++ fcs) false

/-- The checks before a packet's first byte leaves: its record cell's (R269, R272), then its descriptor's (R200). Answers the packet as
checked, or none where it is lost. -/
def egrCheck (b : Body) (e : EgrPkt) (p : Pkt) : Body × Option Pkt :=
  if p.chkBad then ((b.chkError e).egrLose e, none) else b.rewCheck e p

/-- The egress timestamp of a packet whose first bit leaves now (R93). -/
def txStamp (b : Body) (port : Nat) : Nat := b.stamp (b.prd port R.PORT_TS_TX_ADJ)

/-- A packet that egress sends whole, its first bit at time `t`. -/
def egrSend (b : Body) (e : EgrPkt) (p : Pkt) (t : Nat) : Body :=
  let b := b.rewCounts e.slice p
  let (b, d) := b.ptpOp e.slice p (rewritten p) t
  let b := b.sendFrame e p d
  let b := b.echoOut p (withFcs d) t
  (b.ledOut (ledEgress e.slice) 1).egrDone e

/-- A cut-through packet that has begun is stomped with its bytes as begun (R96): the PTP operation and MACsec stand in them, the ICV, which
would come behind them, does not. -/
def egrStomp (b : Body) (e : EgrPkt) (p : Pkt) : Body :=
  let (b, d) := if p.rw.ptp = 1 then b.ptpOp e.slice p (rewritten p) p.outTs else (b, rewritten p)
  let (b, d) := if b.prd e.port R.PORT_MACSEC_EN = 1 then
      match b.msecTx e.port d with
      | (b, some w) => (b, if w.length ≤ d.length then w else w.take (w.length - 16))
      | (b, none) => (b, d)
    else (b, d)
  ((b.stomp e p.verdict d).ledOut (ledEgress e.slice) 1).egrDone e

/-- Egress of a network port sends its next packet (R269), where the port sends or has begun the packet (R73, R74). A cut-through packet
whose verdict is not in yet begins, or waits for its last cell where its length comes late (R189); it ends at a later PACKET_TRANSMIT. -/
def packetTransmit (b : Body) (port : Nat) : Body :=
  if 512 ≤ port then b
  else
    match b.egrNext port with
    | none => b
    | some (e, p) =>
      if ¬ p.started ∧ ¬ b.portSends port then b
      else if p.linkBad then b.egrBreak e
      else if p.ct ∧ p.verdict = .unknown then
        if p.rw.lateLen ∨ p.started then b
        else match b.egrCheck e p with
          | (b, none) => b
          | (b, some p) => b.modPkt e.pid fun q => { q with rw := p.rw, started := true, outTs := b.txStamp port }
      else if p.ct ∧ p.verdict ≠ .good then
        if p.started then b.egrStomp e p else (b.ledOut (ledEgress e.slice) 1).egrDone e
      else if p.started then b.egrSend e p p.outTs
      else
        match b.egrCheck e p with
        | (b, none) => b
        | (b, some p) => b.egrSend e p (b.txStamp port)

/-- A packet that leaves recirculation port 512 + g (R124, R271): rewritten into new cells, into the holding buffer. -/
def recirculateEgress (b : Body) (g : Nat) : Body :=
  match b.egrNext (512 + g) with
  | none => b
  | some (e, p) =>
    if p.linkBad then b.egrBreak e
    else if p.chkBad then (b.chkError e).egrLose e
    else
      match b.rewCheck e p with
      | (b, none) => b
      | (b, some p) =>
        let d := withFcs (rewritten p)
        let b := b.rewCounts e.slice p
        if 10240 < d.length then
          ((b.count (Pg.parser g) RCY_OVERSIZE).ledOut (ledEgress e.slice) 1).egrDone e
        else
          let (pid, b) := b.newPid
          let n := cellsOf d.length
          let full := decide (b.buf.freeList < n)
          let b := if full then b else b.takeCells ((List.range n).map fun i => cellId pid pid i)
          let q : Pkt := { data := d, len := d.length, gal := g, inPort := p.inPort, inPrio := p.inPrio, pfcPrio := p.pfcPrio,
                           ts := p.ts, inj := p.inj, vrf := p.hv.vrf, metaData := p.hv.metaData, ttlDone := p.ttlDone,
                           verdict := if full then .noCell else .good, owner := pid, echoed := p.echoed, ptpSrc := p.ptpSrc }
          let b := b.putPkt pid q
          let b := { b with pipe := { b.pipe with rcyHold := Sp.set [] b.pipe.rcyHold g (Sp.get [] b.pipe.rcyHold g ++ [pid]) } }
          let b := ((b.count (Pg.parser g) RCY_PKTS).count (Pg.parser g) RCY_BYTES d.length).noteSent (512 + g) d.length
          (b.ledOut (ledEgress e.slice) 1).egrDone e

/-- The bytes of a packet that leaves to the Grotto or the host: its punt record and its bytes as received (R194). None where
the packet is lost on the way. -/
def puntOut (b : Body) (port : Nat) : Option (Body × Option (EgrPkt × Pkt × List Byte)) :=
  match b.egrNext port with
  | none => none
  | some (e, p) =>
    if p.linkBad then some (b.egrBreak e, none)
    else if p.chkBad then some ((b.chkError e).egrLose e, none)
    else
      match b.rewCheck e p with
      | (b, none) => some (b, none)
      | (b, some p) => some (b, some (e, p, rewritten p))

/-- A packet that leaves Grotto port 520 + g (R373): it waits while its channel has no slot. -/
def grottoPortDeliver (b : Body) (g : Nat) : Body :=
  let ch := b.rd (Pg.cplx 0) R.GRT_PORT_CH g
  if ¬ b.grtRoom g then b
  else
    match b.puntOut (520 + g) with
    | none => b
    | some (b, none) => b
    | some (b, some (e, _, l)) =>
      let cap := chSlot (b.chEnt ch)
      let cut := decide (cap < l.length)
      let l' := if cut then (patchBytes l 31 [l.getD 31 0 ||| 0x80]).take cap else l
      match b.chDeliver ch l' with
      | none => b
      | some b =>
        let b := if cut then b.count (Pg.cplx 1) g else b
        ((b.noteSent (520 + g) l.length).ledOut (ledEgress e.slice) 1).egrDone e

/-- A packet that leaves the host port (R435 to R438); first, a packet that is held is offered again. -/
def hostPunt (b : Body) : Body :=
  match b.host.held with
  | some h => b.puntHeld h
  | none =>
    match b.puntOut 528 with
    | none => b
    | some (b, none) => b
    | some (b, some (e, p, l)) =>
      let b := ((b.noteSent 528 l.length).ledOut (ledEgress e.slice) 1).egrDone e
      b.puntArrive (e.queue % 8) p.hv.flowHash l

end Body

end Sys2Proof.Machine
end

