-- ==== Sys2Proof/Machine/Entries.lean ====
section
/-! DEFINITION. Entries of tables and windows: what each holds as it reads, the checks on a write of one, what a write of one
entails, and what validation asks of a set of staged ones (R22, R50, R58, and each table's own rules). -/

namespace Sys2Proof.Machine

/-- The stride in bytes of a table of R49. -/
def tblStride (tid : Nat) : Nat :=
  match tid with
  | 1 => 16 | 2 => 32 | 3 => 64 | 4 => 32 | 5 => 64 | 6 => 16 | 7 => 16 | 8 => 64 | 9 => 64 | 10 => 16 | _ => 0

/-- The number of entries of a table of R49. -/
def tblCount (tid : Nat) : Nat :=
  match tid with
  | 1 => 33554432 | 2 => 1024 | 3 => 6291456 | 4 => 65536 | 5 => 262144 | 6 => 4194304 | 7 => 8650752 | 8 => 983040
  | 9 => 1048576 | 10 => 1073741824 | _ => 0

/-- Whether a window's table holds MACsec SA entries, whose keys and salts read as zero (R91). -/
def isSaTbl (tid : Nat) : Bool := tid % 0x100 == 0x25 || tid % 0x100 == 0x27

/-- The kind of a Survey event (R471): 0 occurrence, 1 bytes, 2 condition; none where the block, the instance or the event is
not listed. -/
def svyKind (blk inst ev : Nat) : Option Nat :=
  match blk with
  | 0 => if 528 < inst then none else
      if ev = 0 ∨ ev = 3 then some 0 else if ev = 1 ∨ ev = 2 ∨ ev = 4 ∨ ev = 5 then some 1
      else if 6 ≤ ev ∧ ev ≤ 8 then some 2 else none
  | 1 => if 8 ≤ inst then none else
      if ev = 0 ∨ ev = 1 ∨ ev = 2 ∨ ev = 5 ∨ (0x100 ≤ ev ∧ ev ≤ 0x10A) ∨ ev = 0x110 then some 0
      else if ev = 3 ∨ ev = 4 then some 2 else none
  | 2 => if inst ≠ 0 then none else
      if ev = 0 ∨ ev = 1 ∨ ev = 0x100 ∨ ev = 0x101 then some 0 else if ev = 2 then some 2 else none
  | 3 => if inst = 0 ∧ ev ≤ 5 then some 0 else none
  | 4 => if 8 ≤ inst then none else if ev = 0 then some 0 else if ev = 1 then some 2 else none
  | 5 => if 4 ≤ inst then none else if ev ≤ 1 then some 1 else if ev ≤ 4 then some 2 else none
  | 6 => if 2 ≤ inst then none else if ev ≤ 1 then some 1 else if ev = 2 then some 0 else none
  | 7 => if 32 ≤ inst then none else if ev ≤ 1 then some 0 else if ev = 2 then some 2 else none
  | 8 => if inst < 240 ∧ ev ≤ 1 then some 0 else none
  | 9 => if inst ≠ 0 then none else if ev = 0 then some 0 else if ev = 1 then some 2 else none
  | _ => none

/-! Fields of a Survey configuration entry (R470). -/
def svyEn (e : Nat) : Bool := bitOn e 31
def svyMode (e : Nat) : Nat := bitField e 30 29
def svyBlk (e : Nat) : Nat := bitField e 28 25
def svyInst (e : Nat) : Nat := bitField e 24 15
def svyEvt (e : Nat) : Nat := bitField e 14 6

/-- Whether a configuration names an event that its mode may count (R470, R472). -/
def svyOk (e : Nat) : Bool :=
  match svyKind (svyBlk e) (svyInst e) (svyEvt e) with
  | none => false
  | some k => svyMode e != 3 && (svyMode e != 1 || k == 2)

/-- Whether a comparator source is one of R289. -/
def glowSrcOk (s : Nat) : Bool := decide (s ≤ 0x27 ∨ (0x30 ≤ s ∧ s ≤ 0x41))

/-- Whether a policer configuration may be valid (R177). -/
def polCfgOk (c : Nat) : Bool :=
  polMode c != 3 && polYAct c != 3 && polRAct c != 3 && decide (-64 ≤ polOverhead c) &&
  !(polMode c == 1 && decide (polPir c < polCir c)) && !(polCbs c == 0 && polCir c != 0) &&
  !(polMode c == 1 && polPbs c == 0 && polPir c != 0)

/-- The bytes of a grant, and whether it keeps to R361. -/
def grantOk (e : Nat) : Bool :=
  let n := 2 ^ bitField e 23 21
  let o := bitField e 6 0
  o % n == 0 && decide (o + n ≤ 128)

/-- Whether a register range keeps to R385. -/
def rangeOk (e : Nat) : Bool :=
  let s := bitField e 18 14
  decide (12 ≤ s ∧ s ≤ 26) && bitField e 13 0 % 2 ^ (s - 12) == 0

namespace Body

/-! What an entry reads as. -/

/-- An entry as it stands, with the parts that other state supplies. A counter pair is the Sump line and its delta. -/
def entNow (b : Body) (tid idx : Nat) : Nat :=
  if tid = Tbl.stat then
    let m := b.pairMem idx
    let l := b.statLine idx
    (m.1 + l.pkts) % 2 ^ 64 + 2 ^ 64 * ((m.2 + l.bytes) % 2 ^ 64)
  else if tid = Tbl.pol then
    let s := b.polSt idx
    b.ent tid idx % 2 ^ 256 + 2 ^ 256 * (s.tc % 2 ^ 64) + 2 ^ 320 * (s.tp % 2 ^ 64) + 2 ^ 384 * s.last
  else if tid = Tbl.queue then
    let q := b.queueOf idx
    b.ent tid idx + 2 ^ 32 * (q.chm % 2 ^ 22 + 2 ^ 30 * b2n q.spill) + 2 ^ 64 * (q.sump % 2 ^ 25) + 2 ^ 96 * (q.farSpans % 2 ^ 23)
  else if tid = Tbl.icu 0 ∨ tid = Tbl.icu 1 then
    let x := b.icu (tid - Tbl.icu 0) idx
    x.tgt + 2 ^ 64 * x.minInt + 2 ^ 87 * b2n x.mask + 2 ^ 88 * x.lastTgt + 2 ^ 94 * x.st.code + 2 ^ 96 * (x.deliv % 2 ^ 32)
  else if tid = Tbl.chan then
    let c := b.chan idx
    b.ent tid idx + 2 ^ 128 * (c.ready.length % 2 ^ 13) + 2 ^ 144 * (c.free.length % 2 ^ 13) + 2 ^ 160 * (c.commits % 2 ^ 32) +
      2 ^ 192 * (c.abandons % 2 ^ 32)
  else b.ent tid idx

/-- A read of an entry by any reader but a packet's lookup: bad parity is counted and its page's event fires; the entry itself reads as
it stands. The copies of the two CAMs are checked by verification alone (R162). -/
def parityRead (b : Body) (tid idx : Nat) : Body :=
  if ¬ b.parityBad tid idx then b
  else if tid = Tbl.exm then b.exmParity [.slot idx]
  else if tid = Tbl.stash then b.exmParity [.stash idx]
  else if tid = Tbl.trie ∨ tid = Tbl.root then b.lpmParity
  else if tid = Tbl.nh ∨ tid = Tbl.ecmp ∨ tid = Tbl.encap then b.nhParity
  else if tid = Tbl.pol then (b.sat Pg.stc R.POL_PAR).fire Pg.stc R.POL_EVT_PAR
  else b

/-- An entry as a read through a window, an aperture or READ_ENTRY shows it (R51, R91, R478): parity is checked (R162), and a policer's
state that an injection has made uncorrectable is found so and zeroed (R181, R203). -/
def entShow (b : Body) (tid idx : Nat) : Body × Nat :=
  let b := b.parityRead tid idx
  if tid = Tbl.stat then b.pairRead idx
  else if tid = Tbl.pol then (fun b => (b, b.entNow tid idx)) (b.polHeal idx)
  else if isSaTbl tid then (b, b.entNow tid idx / 2 ^ 352 * 2 ^ 352)
  else (b, b.entNow tid idx)

/-! The value that a write leaves, with read-only parts kept. -/

/-- What a write of `v` to an entry stores: read-only parts keep their values. -/
def entStored (b : Body) (tid idx v : Nat) : Nat :=
  let old := b.ent tid idx
  if tid = Tbl.pol then v % 2 ^ 256
  else if tid = Tbl.queue then v % 2 ^ 32
  else if tid = Tbl.chan then v % 2 ^ 128
  else if tid = Tbl.ds then setBitField v 199 192 (dsGen old + 1)
  else if tid = Tbl.glow then
    if 18 ≤ idx then (setBitField v 159 96 (bitField old 159 96)) % 2 ^ 253 + 2 ^ 255 * bitField v 255 255 +
      2 ^ 254 * bitField old 254 254
    else if 8 ≤ idx ∧ idx < 16 then setBitField old 95 32 (bitField v 95 32)
    else old
  else v

/-! Checks. -/

/-- The entries that the rule of a classifier head occupies, after the head (R115). -/
def clsTail (e i : Nat) : List Nat := (List.range (bitField e 509 508)).map (i + 1 + ·)

/-- Whether a valid head satisfies R115, R118 and R119 in a table. -/
def clsHeadOk (b : Body) (i e : Nat) : Bool :=
  let n := bitField e 509 508 + 1
  decide (i % 4 + n ≤ 4) && bitField e 327 324 < 8 &&
  (clsTail e i).all fun k =>
    let c := b.ent Tbl.cls k
    bitOn c 511 && !bitOn c 510 && bitField c 507 506 == k - i && bitField c 509 508 == n - 1 &&
      bitField c 505 498 == bitField e 505 498

/-- Whether a valid classifier entry has a position that fits its kind (R118). -/
def clsPartOk (e : Nat) : Bool := bitOn e 510 == (bitField e 507 506 == 0)

/-- Whether a write of `v` to a channel entry is accepted (R372): `now` is the engine as it stands, `b` the tables with the
write made. -/
def chanOk (now b : Body) (i v : Nat) : Bool :=
  let old := now.ent Tbl.chan i
  if chValid old then
    !chValid v && (now.chan i).free.length == chCount old &&
    ((List.range 8).all fun g =>
      !(now.on (Pg.cplx 0) R.GRT_PORT_EN g && now.rd (Pg.cplx 0) R.GRT_PORT_CH g == i) &&
      !(now.on (Pg.cplx 0) R.GRT_INJ_EN g && now.rd (Pg.cplx 0) R.GRT_INJ_CH g == i)) &&
    !(now.on (Pg.cplx 0) R.GRT_TS_EN && now.rd (Pg.cplx 0) R.GRT_TS_CH == i)
  else if ¬ chValid v then true
  else
    let size := chCount v * chSlot v
    let lo := chBase v
    decide (chS v ≤ 8 ∧ 2 ≤ chN v ∧ chN v ≤ 12 ∧ size ≤ 0x80000) && lo % chSlot v == 0 &&
    decide (lo % 0x80000 + size ≤ 0x80000 ∧ lo < 0x8000000) && epKind (chWr v) != 3 && epKind (chRd v) != 3 &&
    (b.entIdxs Tbl.chan).all fun j =>
      let e := b.ent Tbl.chan j
      j == i || !chValid e || decide (lo + size ≤ chBase e ∨ chBase e + chCount e * chSlot e ≤ lo)

/-- Why a write of an entry is dropped: the event that each page's rules name, or none where it is accepted. `now` is the
engine as it stands, `b` the tables with the write made, `v` the value written. -/
def entRefused (now b : Body) (tid idx v : Nat) : List (Nat × Nat) :=
  let g := tid / 0x100
  match tid % 0x100 with
  | 0x03 => if bitOn v 511 && bitField v 450 448 == 0 then [(Pg.lpm, R.LPM_EVT_BADENT)] else []
  | 0x04 => if dsValid v && decide (famBits (dsAf v) < dsLen v) then [(Pg.ds, R.DS_EVT_BADENT)] else []
  | 0x05 =>
    if bitOn v 511 && !(clsPartOk v && (!bitOn v 510 || b.clsHeadOk idx v)) then [(Pg.cls, R.CLS_EVT_BADENT)] else []
  | 0x09 => if polValid v && !polCfgOk v then [(Pg.stc, R.POL_EVT_BADENT)] else []
  | 0x28 =>
    let sh := prShare v
    if prShareMax v < prShareMin v ∨ (!now.loopAuto LOOP_BUFFER && (decide (sh < prShareMin v) || decide (prShareMax v < sh))) ∨
        prMax v 0 < prMax v 1 ∨ prMax v 1 < prMax v 2 ∨ prHi v ≤ prLo v ∨ prHi v < 64 then
      [(Pg.chm, R.CHM_EVT_BADPROF)] else []
  | 0x2B => if bitField v 27 16 = 0 ∨ 528 < bitField v 9 0 then [(Pg.sch, R.SCH_EVT_BADCFG)] else []
  | 0x2C => if bitField v 27 16 = 0 then [(Pg.sch, R.SCH_EVT_BADCFG)] else []
  | 0x2D => if bitField v 11 0 = 0 then [(Pg.sch, R.SCH_EVT_BADCFG)] else []
  | 0x2E =>
    if (18 ≤ idx ∧ ¬ (glowSrcOk (v % 256) ∧ bitField v 15 12 ≤ 1)) ∨
        (8 ≤ idx ∧ idx < 16 ∧ ¬ (1 ≤ bitField v 63 32 ∧ bitField v 63 32 ≤ 16384)) then
      [(Pg.lamp, R.LAMP_EVT_BADCFG)] else []
  | 0x32 => if ¬ grantOk v then [(Pg.core g 0, R.GRT_EVT_BADCFG)] else []
  | 0x33 => if bitOn v 31 && !rangeOk v then [(Pg.core g 0, R.GRT_EVT_BADCFG)] else []
  | 0x34 =>
    if ¬ chanOk now b idx v then [(Pg.core (chBase v / 0x400000 % 32) 0, R.GRT_EVT_BADCFG), (Pg.cplx 0, R.GRT_EVT_CHCFG)]
    else []
  | 0x36 => if ¬ svyOk v then [(Pg.survey, R.SVY_EVT_BADCFG)] else []
  | _ => []

/-! What a write entails. -/

/-- The digest regions of lines outside the exact-match table (R163). -/
def lineRegions (tid idx : Nat) : List Nat :=
  if tid = Tbl.trie then [512 + idx / 16384]
  else if tid = Tbl.nh then [896 + idx / 65536]
  else if tid = Tbl.ecmp then [896 + 64 + idx / 65536]
  else if tid = Tbl.encap then [896 + 196 + idx / 16384]
  else []

/-- DS_EVT_HIGH where the occupancy has reached DS_HIGH_THR (R152). -/
def dsHigh (b : Body) : Body := b.holdEvent Pg.ds R.DS_EVT_HIGH

/-- A policer configuration written (R177): its buckets start full when it becomes valid and are discarded when it becomes
invalid. -/
def polPut (b : Body) (i v : Nat) : Body :=
  let was := polValid (b.ent Tbl.pol i)
  let s := b.polSt i
  let b := b.putEnt Tbl.pol i v
  if polValid v ∧ ¬ was then
    (b.setPol i { tc := polCbs v * 1024, tp := polPbs v * 1024, last := b.polNow }).ledIn ledTokens ((polCbs v + polPbs v) * 1024)
  else if ¬ polValid v ∧ was then (b.setPol i { last := s.last }).ledOut ledTokens (s.tc + s.tp)
  else b

/-- The level of the Scheduler that a table holds. -/
def schLevel (tid : Nat) : Option Nat :=
  if tid = Tbl.schQ then some 0 else if tid = Tbl.schSub then some 1 else if tid = Tbl.schSvc then some 2
  else if tid = Tbl.schPort then some 3 else none

/-- The node that an entry configures, if it does. -/
def schNode (tid idx : Nat) : List (Nat × Nat) := match schLevel tid with | some l => [(l, idx)] | none => []

/-- An entry that takes a value: the store, and what the write entails for the block. -/
def entTake (b : Body) (tid idx v : Nat) : Body :=
  let s := b.entStored tid idx v
  if tid = Tbl.exm ∨ tid = Tbl.stash then
    let b := b.exmSet tid idx s
    let bad := xValid (s % 2 ^ 128) && !(decide (1 ≤ xType (s % 2 ^ 128) ∧ xType (s % 2 ^ 128) ≤ 3))
    let b := if bad then b.fire Pg.exm R.EXM_EVT_BADCFG else b
    if tid = Tbl.stash ∧ b.stashCnt = b.rd Pg.exm R.EXM_STASH_THR ∧ xValid (s % 2 ^ 128) then b.fire Pg.exm R.EXM_EVT_STASH else b
  else if tid = Tbl.stat then b.pairWrite idx v
  else if tid = Tbl.pol then b.polPut idx s
  else if tid = Tbl.ds then (b.putEnt tid idx s).dsHigh
  else if tid = Tbl.icu 0 ∨ tid = Tbl.icu 1 then
    let bank := tid - Tbl.icu 0
    b.setIcu bank idx { (b.icu bank idx) with tgt := v % 2 ^ 64, minInt := bitField v 79 64, mask := bitOn v 87 }
  else if tid = Tbl.chan then
    let was := chValid (b.ent tid idx)
    let b := b.putEnt tid idx s
    if chValid s ∧ ¬ was then b.setChan idx { free := List.range (chCount s) } else b
  else if tid = Tbl.svy then
    let b := b.putEnt tid idx s
    let b := { b with svy := { b.svy with cnt := Sp.del b.svy.cnt idx, last := Sp.del b.svy.last idx } }
    b.wr Pg.survey R.SVY_WRAP (setBitField (b.rd Pg.survey R.SVY_WRAP (idx / 32)) (idx % 32) (idx % 32) 0) (idx / 32)
  else if tid = Tbl.echoPort then
    let b := b.putEnt tid idx s
    { b with echo := { b.echo with cnt := Sp.del b.echo.cnt idx } }
  else if tid % 0x100 = 0x24 then
    let b := b.putEnt tid idx s
    if bitOn s 47 ∧ ¬ secyOk s then b.fire (Pg.msec (tid / 0x100)) R.MSEC_EVT_BADENT else b
  else if isSaTbl tid then
    let key := saKeyIdx (tid / 0x100) (tid % 0x100 == 0x25) idx
    let b := b.putEnt tid idx s
    { b with net := { b.net with keyBad := b.net.keyBad.erase key } }
  else if tid = Tbl.root then
    let made := bitOn s 63 && !bitOn (b.ent tid idx) 63 && b.loopAuto LOOP_MIGRATE
    let b := (b.putEnt tid idx s).digMark (lineRegions tid idx)
    { b with pipe := { b.pipe with newRoots := if made then insertNat idx b.pipe.newRoots
                                               else if bitOn s 63 then b.pipe.newRoots else b.pipe.newRoots.erase idx } }
  else match schLevel tid with
    | some l => b.nodeChange l idx true fun b => b.putEnt tid idx s
    | none => (b.putEnt tid idx s).digMark (lineRegions tid idx)

/-- An immediate write of an entry (R22): dropped with its event, or in force at once for every view. Answers whether it was
accepted. -/
def entWrite (b : Body) (tid idx v : Nat) : Body × Bool :=
  let r := entRefused b (b.setEnt tid idx (b.entStored tid idx v)) tid idx v
  if r ≠ [] then
    let b := r.foldl (fun b e => b.fire e.1 e.2) b
    (b, false)
  else ((b.detaching (schNode tid idx) fun b => b.entTake tid idx v).discardOld (.ent tid idx), true)

/-! Validation of staged entries (R58). -/

/-- The value that a staged entry brings: the bits it keeps stand as the entry holds them. -/
def stagedVal (b : Body) (s : Staged) (tid idx : Nat) : Nat :=
  if s.keep = 0 then s.val else (s.val ^^^ (s.val &&& s.keep)) ||| (b.entNow tid idx &&& s.keep)

/-- The engine's tables with staged entries in place; a write of an entry corrects its parity (R162). -/
def overlay (b : Body) (l : List Staged) : Body :=
  l.foldl (fun b s => match s.tgt with
    | .ent t i =>
      if t = Tbl.stat then b
      else
        let b := b.setEnt t i (b.entStored t i (b.stagedVal s t i))
        { b with pipe := { b.pipe with parBad := b.pipe.parBad.filter (· ≠ (t, i)) } }
    | _ => b) b

/-- Whether some valid head whose rule takes in classifier entry `i` breaks R115 or R118. A continuation staged with CLS_VALID = 0 under
a valid head that is not staged breaks the head's rule in the final state, which R118 has checked, though R118 also says that such an
entry is always accepted (DESIGN CHOICE, log entry 41). -/
def clsRuleBad (b : Body) (i : Nat) : Bool :=
  (List.range (i % 4 + 1)).any fun d =>
    let h := i - d
    let e := b.ent Tbl.cls h
    bitOn e 511 && bitOn e 510 && decide (d ≤ bitField e 509 508) && !b.clsHeadOk h e

/-- The key that an exact-match slot takes part in, given both halves of a wide entry; none where it has none. -/
def exmKeyOf (b : Body) (n : Nat) : Option XKey :=
  if xWide (b.ent Tbl.exm n) then b.exmKeyAt (n / 2 * 2) else b.exmKeyAt n

/-- The places, as table and entry, that hold a key among the listed ones. -/
def exmHolders (b : Body) (k : XKey) : List (Nat × Nat) :=
  (((b.entIdxs Tbl.exm).filter fun n => b.exmKeyAt n == some k).map (Tbl.exm, ·)) ++
    (((b.entIdxs Tbl.stash).filter fun n => b.stashKeyAt n == some k).map (Tbl.stash, ·))

/-- Whether a staged exact-match entry breaks R157 in the final tables. -/
def exmStagedBad (b : Body) (tid idx : Nat) : Bool :=
  let e := b.ent tid idx % 2 ^ 128
  if ¬ xValid e then
    let other := if idx % 2 = 0 then idx + 1 else idx - 1
    let half := b.ent tid idx / 2 ^ 128
    (tid == Tbl.stash && xValid half && xWide half) ||
    (tid == Tbl.exm && xValid (b.ent tid other % 2 ^ 128) && xWide (b.ent tid other) && (b.exmKeyOf other).isNone)
  else
    let key := if tid = Tbl.exm then b.exmKeyOf idx else b.stashKeyAt idx
    match key with
    | none => xWide e
    | some k => (tid == Tbl.exm && !(b.exmBuckets k).contains (idx / 4)) || decide (1 < (b.exmHolders k).length)

/-- Whether a staged entry fails validation: `b` is the engine as it stands, `f` its tables with everything staged. -/
def entInvalid (b f : Body) (tid idx v : Nat) : Bool :=
  entRefused b f tid idx v != [] || (tid == Tbl.cls && f.clsRuleBad idx) ||
  ((tid == Tbl.exm || tid == Tbl.stash) && f.exmStagedBad tid idx)

end Body

end Sys2Proof.Machine
end

