-- ==== Sys2Proof/Machine/Regs.lean ====
section
/-! DEFINITION. Registers as words: the fields at an address, their value, and what a write of staged (RWS) fields leaves and
entails, whether it is immediate or applied by Cairn. -/

namespace Sys2Proof.Machine

/-- The block fields of the register at an offset, each with its indices. -/
def PK.fieldsAt (k : PK) (off : Nat) : List (Fld × Nat × Nat) :=
  k.flds.filterMap fun f => (f.indexAt off).map fun x => (f, x.1, x.2)

/-- The Gallery of a page address in the Gallery regions. -/
def galOf (page : Nat) : Nat := page / 0x100000 - 1

/-- The key profile that a register of a key page belongs to (R130): Gallery and profile. -/
def profileOf (addr : Nat) : Option (Nat × Nat) :=
  if kindAt addr = some .parserKey ∧ 0x80 ≤ addr % 0x1000 then
    let p := 20 * (addr / 0x1000 % 0x100 - 0x62) + (addr % 0x1000 - 0x80) / 0x60
    if p < 64 then some (galOf addr, p) else none
  else none

/-- The block fields of the register at a BAR0 address; the last key page holds only profiles 60 to 63. -/
def fieldsOf (addr : Nat) : List (Fld × Nat × Nat) :=
  match kindAt addr with
  | none => []
  | some k => if k = .parserKey ∧ profileOf addr = none then [] else k.fieldsAt (addr % 0x1000)

/-- Whether a register holds RWS fields (R48). -/
def isRws (addr : Nat) : Bool := (fieldsOf addr).any fun x => x.1.acc == .rws

/-- The bits of a field in a word. -/
def Fld.of (f : Fld) (v : Nat) : Nat := bitField v f.hi f.lo

/-- Whether a value written to an RWS field is one that its register's rule ignores: the malformed actions 4 to 7 (R128), the
miss dispositions 8 to 15 (R130), the action page's ranges (R201), an overhead below −64 (R256). -/
def rwsFieldBad (f : Fld) (x : Nat) : Bool :=
  if f = R.KP_MISS_DISP then decide (8 ≤ x)
  else if f = R.ACT_TTL_ACT then x == 3
  else if f = R.ACT_CSID_BLK then decide (x < 2 ∨ 8 < x)
  else if f = R.ACT_PUNT_TRUNC then decide (x < 64 ∨ 10240 < x)
  else if f = R.SCH_OVH then decide (signed 8 x < -64)
  else false

/-- Whether the write of a malformed-action register is ignored whole (R128). -/
def malWordBad (addr v : Nat) : Bool :=
  kindAt addr == some .parser && decide (addr % 0x1000 = 0x80 ∨ addr % 0x1000 = 0x84) &&
  (List.range 8).any fun r => bitOn v (4 * r + 2)

/-- The fields of a written word that are ignored. -/
def rwsBad (addr v : Nat) : List (Fld × Nat × Nat) :=
  (fieldsOf addr).filter fun x => malWordBad addr v || rwsFieldBad x.1 (x.1.of v)

/-- The event of an ignored value of an RWS register. -/
def rwsBadEvent (addr : Nat) : Nat × Nat :=
  match kindAt addr with
  | some .act => (Pg.act (galOf addr), R.ACT_EVT_BADCFG)
  | some .sch => (Pg.sch, R.SCH_EVT_BADCFG)
  | _ => (Pg.parser (galOf addr), R.PAR_EVT_BADCFG)

/-- The service nodes whose shaper a register sets (R263), with the field of each. -/
def svcNodesOf (addr : Nat) : List (Nat × Fld) :=
  if kindAt addr = some .schSvcShp then
    let base := 512 * (addr / 0x1000 - 0x940)
    let off := addr % 0x1000
    if 0x80 ≤ off ∧ off < 0x480 then
      let j := (off - 0x80) / 4
      [(base + 2 * j, R.SCH_SVC_RATE_EVEN), (base + 2 * j + 1, R.SCH_SVC_RATE_ODD)]
    else if 0x480 ≤ off ∧ off < 0x680 then
      let j := (off - 0x480) / 4
      [(base + 4 * j, R.SCH_SVC_CAP0), (base + 4 * j + 1, R.SCH_SVC_CAP1), (base + 4 * j + 2, R.SCH_SVC_CAP2),
        (base + 4 * j + 3, R.SCH_SVC_CAP3)]
    else []
  else []

namespace Body

/-- The word that fields spell. -/
def wordOf (b : Body) (page : Nat) (l : List (Fld × Nat × Nat)) : Nat :=
  l.foldl (fun v x => v + b.rd page x.1 x.2.1 x.2.2 * 2 ^ x.1.lo) 0

/-- The register at an address as its stored fields hold it. -/
def regWord (b : Body) (addr : Nat) : Nat := b.wordOf (pageOf addr) (fieldsOf addr)

/-- Fields set from a word. -/
def putFields (b : Body) (page : Nat) (l : List (Fld × Nat × Nat)) (v : Nat) : Body :=
  l.foldl (fun b x => b.wr page x.1 (x.1.of v) x.2.1 x.2.2) b

/-- The RW fields of the register at an address set from a word. -/
def putRw (b : Body) (addr v : Nat) : Body :=
  b.putFields (pageOf addr) ((fieldsOf addr).filter fun x => x.1.acc == .rw) v

/-- PAR_EVT_KPOVER where a profile as it stands places bytes below key bit 0 (R114). -/
def kpTest (b : Body) (gp : Nat × Nat) : Body :=
  if b.profileOver gp.1 gp.2 then b.fire (Pg.parser gp.1) R.PAR_EVT_KPOVER else b

/-- The RWS fields of a register take the values of a word, but for the ignored ones. -/
def rwsTake (b : Body) (addr v : Nat) : Body :=
  let page := pageOf addr
  let bad := rwsBad addr v
  match svcNodesOf addr with
  | [] => b.putFields page ((fieldsOf addr).filter fun x => x.1.acc == .rws && !bad.contains x) v
  | ns => ns.foldl (fun b n => b.nodeChange 2 n.1 false fun b =>
      b.putFields page ((fieldsOf addr).filter fun x => x.1 == n.2) v) b

/-- An immediate write of an RWS register (R22): an ignored value raises the event of its register. -/
def rwsWrite (b : Body) (addr v : Nat) : Body :=
  let b := if rwsBad addr v = [] then b else b.fire (rwsBadEvent addr).1 (rwsBadEvent addr).2
  let b := (b.rwsTake addr v).discardOld (.reg addr)
  match profileOf addr with
  | some gp => b.kpTest gp
  | none => b

end Body

end Sys2Proof.Machine
end

