-- ==== Sys2Proof/Machine/Uop.lean ====
section
/-! DEFINITION. The microcode stores. The Grotto store (R408, R411): the micro-ops of a core, where each is fetched from, and the sequence
that an instruction takes. It says how a core carries an instruction out, and nothing of it shows: what the instruction does is R409
and R410 whichever store it comes from (R413). The action-engine store (R170, R406): the microwords of a Gallery, and where a packet's view
of it fetches them from; the ROM carries out the chapter's behaviour (R170). -/

namespace Sys2Proof.Machine

/-- The fields of a micro-op (R411). -/
def uopDecode (w : Nat) : Uop :=
  { op := bitField w 31 26, d := bitField w 25 21, a := bitField w 20 16, b := bitField w 15 11,
    last := bitOn w 10, tmp := bitOn w 9, x := bitField w 8 0 }

/-- A micro-op as the word that holds it. -/
def uopEncode (u : Uop) : Nat :=
  u.op * 2 ^ 26 + u.d * 2 ^ 21 + u.a * 2 ^ 16 + u.b * 2 ^ 11 + b2n u.last * 2 ^ 10 + b2n u.tmp * 2 ^ 9 + u.x

/-- The fields of a microword (R170). -/
def uwDecode (w : Nat) : Microword :=
  { next := bitField w 159 146, cond := bitField w 145 140, alu0 := bitField w 139 116, alu1 := bitField w 115 92,
    vecWr := bitField w 91 72, desc := bitField w 71 56, meter := bitField w 55 44, count := bitField w 43 32,
    tbl := bitField w 31 16, disp := bitField w 15 8, chk := bitField w 7 0 }

namespace Body

/-- The match register that holds the block of a micro-op address, if a valid one does (R408). -/
def uopMatch (b : Body) (a : Nat) : Option Nat := (b.boot.grtMatch.find? fun e => e.2 == a / 32).map (·.1)

/-- The micro-op that a core fetches at a 16-bit address: of the patch RAM where a match register holds its block, else of the ROM
(R408). -/
def uopFetch (b : Body) (a : Nat) : Uop :=
  uopDecode (match b.uopMatch a with
    | some i => Sp.get 0 b.boot.grtUops (32 * i + a % 32)
    | none => Config.grtRom a)

/-- Micro-ops from an address up to the one that ends the instruction, `n` at most. -/
def uopsFrom (b : Body) : Nat → Nat → List Uop
  | 0, _ => []
  | n + 1, a => if (b.uopFetch a).last then [b.uopFetch a] else b.uopFetch a :: b.uopsFrom n (a + 1)

/-- The micro-ops of an opcode, in its own block: 1 to 6 of them, of which the divide's loop through a helper block is not one (R408,
R411). -/
def uopsOf (b : Body) (op : Nat) : List Uop := b.uopsFrom 6 (32 * op)

/-- A Grotto patch put into every core: its match registers and its patch micro-ops (R408). -/
def putGrtPatch (b : Body) (p : List Byte) (ver : Nat) : Body :=
  let m := (List.range 64).filterMap fun i => (Config.grtPatchMatch p i).map fun o => (i, o)
  let w := (List.range 2048).foldl (fun l k => Sp.set 0 l k (Config.grtPatchUop p k % 2 ^ 32)) []
  ({ b with boot := { b.boot with grtMatch := m, grtUops := w } }).wr Pg.boot R.BOOT_GRT_PATCH_VER ver

/-- A register's value as match registers are staged: valid in bit 31, the block in bits 9 to 0. -/
def aeMatchWord (b : Body) (g i : Nat) : Nat := b.rd (Pg.act1 g) R.ACT_M_VALID i * 2 ^ 31 + b.rd (Pg.act1 g) R.ACT_M_BLOCK i

/-- The match register of Gallery `g` that, in view `seq`, holds the block of a microword address, if a valid one does (R406, R17). -/
def aeMatchOf (b : Body) (seq g a : Nat) : Option Nat :=
  (List.range 32).find? fun i =>
    let v := b.viewed seq (.matchReg g i) (b.aeMatchWord g i)
    bitOn v 31 && v % 1024 == a / 16 % 1024

/-- The microword that a packet of view `seq` executes from a 14-bit address: of the patch RAM where a match register holds its block, else of
the ROM; none in a spare block of the ROM, whose words drop the packet as R171 does (R406). -/
def aeFetch (b : Body) (seq g a : Nat) : Option Microword :=
  match b.aeMatchOf seq g a with
  | some i =>
    let w := 16 * i + a % 16
    some (uwDecode (b.viewed seq (.patch g w) (Sp.get 0 b.tbls (entKey (Tbl.patch g) w))))
  | none => if 0x3E00 ≤ a % 0x4000 then none else some (uwDecode (Config.aeRom (a % 0x4000)))

end Body

end Sys2Proof.Machine
end

