-- ==== Sys2Proof/Machine/Cairn.lean ====
section
/-! DEFINITION. Cairn (R53 to R70, R522): staging, the commands of a slot, validation, the apply instant and the version store,
and views (R16 to R24). -/

namespace Sys2Proof.Machine

/-! States and results of a slot (R70). -/
def CS_IDLE : Nat := 0
def CS_OPEN : Nat := 1
def CS_POISONED : Nat := 2
def CS_VALIDATE : Nat := 3
def CS_PENDING : Nat := 4
def CS_DONE : Nat := 5
def CR_NONE : Nat := 0
def CR_APPLIED : Nat := 1
def CR_CONFLICT : Nat := 2
def CR_FULL_REG : Nat := 3
def CR_FULL_ENTRY : Nat := 4
def CR_INVALID : Nat := 5
def CR_TIME_PAST : Nat := 6
def CR_TIME_BAD : Nat := 7
def CR_TOD_INVALID : Nat := 8
def CR_ECC : Nat := 9
def CR_ABORTED : Nat := 10
def CR_BAD_MODE : Nat := 11

/-- The entries that the version store holds at most (R21). -/
def versionRoom : Nat := 262144

/-- Whether a target counts as a register, or as a table entry (R54, R406). -/
def Target.isReg : Target → Bool
  | .reg _ => true
  | .matchReg _ _ => true
  | _ => false

/-- Whether a target is epoch-governed state (R17). -/
def Target.governed : Target → Bool
  | .reg a => decide (0x100000 ≤ a ∧ a < 0x900000)
  | .ent t _ => t == Tbl.exm || t == Tbl.stash || t == Tbl.trie || t == Tbl.ds || t == Tbl.cls || t == Tbl.nh || t == Tbl.ecmp ||
      t == Tbl.encap || t == Tbl.pol || t == Tbl.root
  | _ => true

namespace Body

/-- A field of slot `n` of the Cairn page, and its working part. -/
def crd (b : Body) (f : Fld) (n : Nat) : Nat := b.rd Pg.cairn f n
def cwr (b : Body) (f : Fld) (n v : Nat) : Body := b.wr Pg.cairn f v n
def slot (b : Body) (n : Nat) : Slot' := Sp.get {} b.cairn.slots n
def setSlot (b : Body) (n : Nat) (x : Slot') : Body := { b with cairn := { b.cairn with slots := Sp.set {} b.cairn.slots n x } }

/-- Whether a slot is in OPEN, POISONED, VALIDATE or PENDING. -/
def slotLive (b : Body) (n : Nat) : Bool :=
  let s := b.crd R.CAIRN_STATE n
  decide (CS_OPEN ≤ s ∧ s ≤ CS_PENDING)

/-- The slot bound to a master (R53). -/
def boundSlot (b : Body) (m : Nat) : Option Nat := (List.range 8).find? fun n => (b.slot n).bound == some m

/-- A slot enters DONE with a result: unbound, with nothing staged (R69). -/
def slotDone (b : Body) (n r : Nat) : Body :=
  let b := b.setSlot n {}
  ((b.cwr R.CAIRN_STATE n CS_DONE).cwr R.CAIRN_RESULT n r).fire Pg.cairn (R.CAIRN_EVT_DONE + n)

/-! Staging (R53 to R57, R522). -/

/-- A slot becomes POISONED by a write at an address. -/
def poison (b : Body) (n r addr : Nat) : Body :=
  (((b.cwr R.CAIRN_STATE n CS_POISONED).cwr R.CAIRN_RESULT n r).cwr R.CAIRN_ERRADDR n addr).fire Pg.cairn R.CAIRN_EVT_POISON

/-- Whether a target is staged in another slot that holds it (R55). -/
def stagedElsewhere (b : Body) (n : Nat) (t : Target) : Bool :=
  (List.range 8).any fun m => m != n && b.slotLive m && (b.slot m).staged.any fun s => s.tgt == t

/-- A write staged in slot `n` (R54, R55, R57). Answers whether it was staged. -/
def stage (b : Body) (n : Nat) (s : Staged) : Body × Bool :=
  if b.crd R.CAIRN_STATE n ≠ CS_OPEN then (b, false)
  else if b.stagedElsewhere n s.tgt then (b.poison n CR_CONFLICT s.addr, false)
  else
    let x := b.slot n
    if x.staged.any fun y => y.tgt == s.tgt then
      (b.setSlot n { x with staged := x.staged.map fun y => if y.tgt = s.tgt then s else y }, true)
    else if s.tgt.isReg then
      if 4096 ≤ b.crd R.CAIRN_REG_CNT n then (b.poison n CR_FULL_REG s.addr, false)
      else ((b.setSlot n { x with staged := x.staged ++ [s] }).cwr R.CAIRN_REG_CNT n (b.crd R.CAIRN_REG_CNT n + 1), true)
    else if 65536 ≤ b.crd R.CAIRN_ENT_CNT n then (b.poison n CR_FULL_ENTRY s.addr, false)
    else ((b.setSlot n { x with staged := x.staged ++ [s] }).cwr R.CAIRN_ENT_CNT n (b.crd R.CAIRN_ENT_CNT n + 1), true)

/-- A write of a table entry by a master (R50, R53): staged where it has a bound slot, else immediate. Answers whether it was
staged or accepted. -/
def entPutBy (b : Body) (master addr tid idx v keep : Nat) : Body × Bool :=
  match b.boundSlot master with
  | some n => b.stage n { tgt := .ent tid idx, val := v, addr := addr, keep := keep }
  | none => b.entWrite tid idx v

/-- A write of an RWS register by a master (R7, R53). Answers whether it was staged or took effect. -/
def rwsPutBy (b : Body) (master addr v : Nat) : Body × Bool :=
  match b.boundSlot master with
  | some n => b.stage n { tgt := .reg addr, val := v, addr := addr }
  | none => (b.rwsWrite addr v, rwsBad addr v == [])

/-! Commands (R58, R66 to R69). -/

/-- The target of an AT_TIME slot in ns since the epoch. -/
def slotTarget (b : Body) (n : Nat) : Nat :=
  (b.crd R.CAIRN_TSECLO n + 2 ^ 32 * b.crd R.CAIRN_TSECHI n) * 1000000000 + b.crd R.CAIRN_TNS n

/-- Whether R69 lists a command for the state of a slot. -/
def cairnListed (b : Body) (n code : Nat) : Bool :=
  let st := b.crd R.CAIRN_STATE n
  match code with
  | 1 => st == CS_IDLE || st == CS_DONE
  | 2 => st == CS_OPEN || st == CS_POISONED
  | 3 => b.slotLive n
  | 4 => st == CS_DONE
  | _ => false

/-- Whether a command comes from a master that R67 turns away: any but the owner, except the host's ABORT and a BEGIN on an IDLE or
DONE slot. -/
def cairnForeign (b : Body) (n master code : Nat) : Bool :=
  b.crd R.CAIRN_OWNER n != master && !(code == 1 && b.cairnListed n 1) && !(code == 3 && master == Master.host)

/-- Whether a command is ignored as one that the slot cannot take: not listed for its state, or a BEGIN of a master that has a bound
slot (R67, R69). -/
def cairnBad (b : Body) (n master code : Nat) : Bool :=
  !b.cairnListed n code || (code == 1 && (b.boundSlot master).isSome)

/-- Whether Cairn takes a command (R66, R67, R69). -/
def cairnTakes (b : Body) (n master code : Nat) : Bool := !b.cairnForeign n master code && !b.cairnBad n master code

/-- BEGIN on a slot that takes it (R67). -/
def cairnBegin (b : Body) (n master : Nat) : Body :=
  let b := b.setSlot n { bound := some master }
  let b := ((b.cwr R.CAIRN_STATE n CS_OPEN).cwr R.CAIRN_OWNER n master).cwr R.CAIRN_RESULT n CR_NONE
  [R.CAIRN_EPOCH_TO, R.CAIRN_REG_CNT, R.CAIRN_ENT_CNT, R.CAIRN_ERRADDR, R.CAIRN_APSEC, R.CAIRN_APNS, R.CAIRN_LATE].foldl
    (fun b f => b.cwr f n 0) b

/-- The pre-check of COMMIT that fails first (R58, R62). -/
def commitFails (b : Body) (n : Nat) : Option Nat :=
  let m := b.crd R.CAIRN_MODE n
  if m = 3 then some CR_BAD_MODE
  else if m ≠ 2 then none
  else if 999999999 < b.crd R.CAIRN_TNS n then some CR_TIME_BAD
  else if ¬ b.on Pg.lamp R.TOD_VALID then some CR_TOD_INVALID
  else if b.slotTarget n * 65536 ≤ b.tod then some CR_TIME_PAST
  else none

/-- COMMIT on a slot that takes it (R58, R69). -/
def cairnCommit (b : Body) (n : Nat) : Body :=
  if b.crd R.CAIRN_STATE n = CS_POISONED then b.slotDone n (b.crd R.CAIRN_RESULT n)
  else match b.commitFails n with
    | some r => b.slotDone n r
    | none => (b.setSlot n { (b.slot n) with bound := none }).cwr R.CAIRN_STATE n CS_VALIDATE

/-- A write of CAIRN_CMD (R66 to R70): a command that the slot does not take is ignored with the events of R67 and R69. -/
def cairnCmd (b : Body) (n master code : Nat) : Body :=
  let foreign := b.cairnForeign n master code
  let bad := b.cairnBad n master code
  if foreign || bad then
    let b := if foreign then b.fire Pg.cairn R.CAIRN_EVT_OWNER else b
    if bad then b.fire Pg.cairn R.CAIRN_EVT_BADCMD else b
  else if code = 1 then b.cairnBegin n master
  else if code = 2 then b.cairnCommit n
  else if code = 3 then b.slotDone n CR_ABORTED
  else (b.cwr R.CAIRN_STATE n CS_IDLE).cwr R.CAIRN_RESULT n CR_NONE

/-- Whether a write of a slot's mode or target is accepted: the owner's, in OPEN (R70). -/
def slotCfgOk (b : Body) (n master : Nat) : Bool :=
  b.crd R.CAIRN_STATE n == CS_OPEN && b.crd R.CAIRN_OWNER n == master

/-! Validation (R58). -/

/-- The match registers of a Gallery with a slot's staged values in place (R406): block and index of each valid one. -/
def matchesWith (b : Body) (g : Nat) (l : List Staged) : List (Nat × Nat) :=
  (List.range 32).filterMap fun i =>
    let v := match l.find? (fun s => s.tgt == .matchReg g i) with
      | some s => s.val
      | none => b.aeMatchWord g i
    if bitOn v 31 then some (v % 1024, i) else none

/-- Whether a staged target fails its chapter's rules. -/
def targetFails (b f : Body) (l : List Staged) (s : Staged) : Bool :=
  match s.tgt with
  | .reg a => rwsBad a s.val != []
  | .ent t i => b.entInvalid f t i (b.entStored t i (b.stagedVal s t i))
  | .patch _ _ => false
  | .matchReg g i =>
    bitOn s.val 31 && (b.matchesWith g l).any fun x => x.1 == s.val % 1024 && x.2 != i

/-- The slot enters PENDING (R65). -/
def slotPending (b : Body) (n : Nat) : Body :=
  let b := b.cwr R.CAIRN_STATE n CS_PENDING
  if b.rd Pg.cairn R.CAIRN_WAIT_LIMIT = 0 then
    (b.setSlot n { (b.slot n) with since := b.clk, waitSeen := true }).fire Pg.cairn R.CAIRN_EVT_WAIT
  else b.setSlot n { (b.slot n) with since := b.clk }

/-- The addresses of a slot's staged targets that its staging store holds with an uncorrectable error (R58). -/
def stagedEcc (b : Body) (n : Nat) : List Nat :=
  ((b.slot n).staged.filter fun s => Config.stagingEcc b.fresh s.addr).map (·.addr)

/-- The addresses of a slot's staged targets that fail their blocks' rules (R58). -/
def stagedBad (b : Body) (n : Nat) : List Nat :=
  let l := (b.slot n).staged
  (l.filter fun s => b.targetFails (b.overlay l) l s).map (·.addr)

/-- The end of validation of a slot (R58, R522). -/
def cairnValidateDone (b : Body) (n : Nat) : Body :=
  if b.crd R.CAIRN_STATE n ≠ CS_VALIDATE then b
  else
    let ecc := b.stagedEcc n
    let bad := b.stagedBad n
    let b := { b with fresh := b.fresh + 1 }
    let b := match ecc ++ bad with
      | [] => b
      | a :: t => b.cwr R.CAIRN_ERRADDR n (t.foldl min a)
    if ecc ≠ [] then b.slotDone n CR_ECC
    else if bad ≠ [] then b.slotDone n CR_INVALID
    else b.slotPending n

/-! Views and the apply instant (R16 to R22, R59 to R62). -/

/-- The oldest flip that some Gallery still tags with. A Gallery that rests or wakes has no packet in flight (R24). -/
def oldestTag (b : Body) : Nat :=
  ((List.range 8).filter fun g => decide (b.galState g < 4)).foldl (fun m g => min m (b.tagOf g)) b.cairn.flips

/-- Views no Gallery tags with any more have retired, and the values kept for them are freed (R20, R21). -/
def retireViews (b : Body) : Body :=
  let m := b.oldestTag
  { b with cairn := { b.cairn with old := b.cairn.old.filter fun o => decide (m < o.flip) } }

/-- Every Gallery tags with the flips that are 20 ns old, or with a later one (R19), and older views retire. -/
def tagsCatchUp (b : Body) : Body :=
  let fresh := fun (e : Nat × Nat) => decide (b.clk < e.2 + 20)
  let last := (b.cairn.flipAt.filter fun e => !fresh e).foldl (fun m e => max m e.1) 0
  let tag := (List.range 8).foldl (fun m g => Sp.set 0 m g (max (Sp.get 0 m g) last)) b.cairn.galTag
  ({ b with cairn := { b.cairn with galTag := tag, flipAt := b.cairn.flipAt.filter fresh } }).retireViews

/-- The entries that the version store holds. -/
def versionUsed (b : Body) : Nat := (b.cairn.old.filter fun o => !o.tgt.isReg).length

/-- Whether the view that last carried the next epoch has retired and the version store has room (R60). -/
def applyRoom (b : Body) (n : Nat) : Bool :=
  decide (b.cairn.flips < 3 ∨ b.cairn.flips - 3 < b.oldestTag) &&
  decide (b.versionUsed + ((b.slot n).staged.filter fun s => s.tgt.governed && !s.tgt.isReg).length ≤ versionRoom)

/-- The value that a target holds. -/
def targetNow (b : Body) (t : Target) : Nat :=
  match t with
  | .reg a => b.regWord a
  | .ent t i => b.entNow t i
  | .patch g w => Sp.get 0 b.tbls (entKey (Tbl.patch g) w)
  | .matchReg g i => b.aeMatchWord g i

/-- A target takes its staged value; an entry keeps the bits that `keep` names (R29, R479). -/
def targetTake (b : Body) (s : Staged) : Body :=
  match s.tgt with
  | .reg a => b.rwsTake a s.val
  | .ent t i => b.entTake t i (b.stagedVal s t i)
  | .patch g w => { b with tbls := Sp.set 0 b.tbls (entKey (Tbl.patch g) w) s.val }
  | .matchReg g i => (b.wr (Pg.act1 g) R.ACT_M_VALID (bitField s.val 31 31) i).wr (Pg.act1 g) R.ACT_M_BLOCK (s.val % 1024) i

/-- Everything a slot stages takes effect at one edge: old values go to the version store, then the epoch flips (R59). -/
def stagedTake (b : Body) (l : List Staged) : Body :=
  let f := b.cairn.flips + 1
  let olds := (l.filter fun s => s.tgt.governed).map fun s => ({ flip := f, tgt := s.tgt, val := b.targetNow s.tgt } : OldVal)
  let ns := (l.map fun s => match s.tgt with | .ent t i => schNode t i | _ => []).flatten
  let b := b.detaching ns fun b => l.foldl (fun b s => b.targetTake s) b
  let b := { b with cairn := { b.cairn with flips := f, flipAt := b.cairn.flipAt ++ [(f, b.clk)], old := b.cairn.old ++ olds } }
  let b := (b.wr Pg.cairn R.CAIRN_EPOCH_CUR (f % 4)).wr Pg.cairn R.CAIRN_FLIP_CNT f
  let gps := (l.filterMap fun s => match s.tgt with | .reg a => profileOf a | _ => none).eraseDups
  gps.foldl (fun b gp => b.kpTest gp) b

/-- The lateness of an AT_TIME slot that applies now, in 2^-16 ns. -/
def slotLate (b : Body) (n : Nat) : Nat := b.tod - b.slotTarget n * 65536

/-- A slot applies (R59, R61, R62, R69). Its lateness is added in whole nanoseconds, rounded down (DESIGN CHOICE, log entry 38). -/
def slotApply (b : Body) (n : Nat) : Body :=
  let x := b.slot n
  let late := if b.crd R.CAIRN_MODE n = 2 then b.slotLate n else 0
  let b := b.stagedTake x.staged
  let b := match x.patch with
    | some v => b.wr Pg.boot R.BOOT_AE_PATCH_VER v
    | none => b
  let b := match x.svn with
    | some v => { b with boot := { b.boot with svnDue := max b.boot.svnDue v } }
    | none => b
  let b := ((b.cwr R.CAIRN_EPOCH_TO n b.cairn.flips).cwr R.CAIRN_APSEC n b.todSec).cwr R.CAIRN_APNS n b.todNs
  let b := if 2 * 65536 < late then
      (b.cwr R.CAIRN_LATE n (min (b.crd R.CAIRN_LATE n + late / 65536) (2 ^ 32 - 1))).fire Pg.cairn R.CAIRN_EVT_LATE else b
  b.slotDone n CR_APPLIED

/-- Whether the mode condition of a PENDING slot holds (R60). -/
def modeDue (b : Body) (n : Nat) : Bool :=
  match b.crd R.CAIRN_MODE n with
  | 0 => true
  | 1 => decide (b.sch.next ≤ b.clk)
  | _ => decide (b.slotTarget n * 65536 ≤ b.tod)

/-- A slot applies if it is due at this edge (R60). -/
def applyDue (b : Body) (n : Nat) : Body :=
  let b := b.retireViews
  if b.crd R.CAIRN_STATE n = CS_PENDING ∧ b.applyRoom n ∧ b.modeDue n then b.slotApply n else b

/-- The apply instant of a slot (R59 to R61): at its edge the slots before it that are due apply first, in ascending order. -/
def cairnApply (b : Body) (n : Nat) : Body :=
  if b.crd R.CAIRN_STATE n = CS_PENDING ∧ b.modeDue n then
    ((List.range n).foldl (fun b k => b.applyDue k) b).applyDue n
  else b

/-- A refill boundary (R60, R61, R247), where one is due: PENDING slots in REFILL mode apply in ascending order, then every shaper accrues. -/
def refillEdge (b : Body) : Body :=
  if b.clk < b.sch.next then b
  else
  let b := (List.range 8).foldl (fun b n =>
    let b := b.retireViews
    if b.crd R.CAIRN_STATE n = CS_PENDING ∧ b.crd R.CAIRN_MODE n = 1 ∧ b.applyRoom n then b.slotApply n else b) b
  b.refillBoundary

/-- Whether a PENDING slot has waited for longer than CAIRN_WAIT_LIMIT: an AT_TIME slot from its target time, another from its entry to
PENDING (R65). -/
def waitOver (b : Body) (n : Nat) : Bool :=
  let lim := b.rd Pg.cairn R.CAIRN_WAIT_LIMIT * 1000
  if b.crd R.CAIRN_MODE n = 2 then decide ((b.slotTarget n + lim) * 65536 < b.tod) else decide ((b.slot n).since + lim < b.clk)

/-- A slot has stayed in PENDING for longer than CAIRN_WAIT_LIMIT (R65). -/
def cairnWaitExceeded (b : Body) (n : Nat) : Body :=
  if b.crd R.CAIRN_STATE n = CS_PENDING ∧ ¬ (b.slot n).waitSeen ∧ b.waitOver n then
    (b.setSlot n { (b.slot n) with waitSeen := true }).fire Pg.cairn R.CAIRN_EVT_WAIT
  else b

/-- A soft reset of the Cairn page (R68). -/
def cairnReset (b : Body) : Body :=
  let b := (List.range 8).foldl (fun b n => if b.slotLive n then b.slotDone n CR_ABORTED else b) b
  let b := (List.range 8).foldl (fun b n =>
    [R.CAIRN_MODE, R.CAIRN_TNS, R.CAIRN_TSECLO, R.CAIRN_TSECHI].foldl (fun b f => b.cwr f n 0) b) b
  b.wr Pg.cairn R.CAIRN_WAIT_LIMIT 100

/-- The staged writes to a page as PG_TXN shows them (R42): the slots and the count, which wraps at 65,536 (DESIGN CHOICE, log entry
38: the spec does not say what it reads beyond). -/
def pgTxn (b : Body) (page : Nat) : Nat :=
  let per := (List.range 8).map fun n =>
    if b.slotLive n then ((b.slot n).staged.filter fun s => decide (s.addr < 0x1000000) && pageOf s.addr == page).length else 0
  let slots := ((List.range 8).map fun n => if per.getD n 0 = 0 then 0 else 2 ^ n).foldl (· + ·) 0
  slots * 2 ^ 16 + (per.foldl (· + ·) 0) % 2 ^ 16

end Body

end Sys2Proof.Machine
end

