-- ==== Sys2Proof/Machine/Lamp.lean ====
section
/-! DEFINITION. The Lamp (chapter 10): the time of day (R301 to R307), PLLs and recovered clocks (R285, R287, R308, R317), the
Gallery power states (R291 to R297) and Gallery reset (R282), the comparators (R289, R290), sensors and thermal limits (R310 to
R314). -/

namespace Sys2Proof.Machine

namespace Body

/-! The time of day. -/

/-- The fraction of 2^-16 ns in which the accumulator of R301 and the slew of R302 work: 10^-9 of it. -/
def todUnit : Nat := 1000000000

/-- The time of day moved by an amount in 2^-16 × 10^-9 ns; it wraps with its 48-bit seconds. -/
def todAdd (b : Body) (d : Int) : Body :=
  let t : Int := (b.tod * todUnit + b.lamp.todRem : Nat) + d
  let m : Int := (2 ^ 48 * 1000000000 * 65536 * todUnit : Nat)
  let u := (t % m).toNat
  { b with tod := u / todUnit, lamp := { b.lamp with todRem := u % todUnit } }

/-- The amount that a slew moves in `n` ns (R302): TOD_SLEW ppm, 0 acting as 1 and more than 1,000 as 1,000. -/
def slewStep (b : Body) (n : Nat) : Int :=
  let ppm := max 1 (min 1000 (b.rd Pg.lamp R.TOD_SLEW))
  let d : Int := (n * ppm * 65536000 : Nat)
  if 0 ≤ b.lamp.slew then min d b.lamp.slew else max (-d) b.lamp.slew

/-- `n` ns of D17 or D0 pass for the time of day (R288, R301, R302). -/
def todRun (b : Body) (n : Nat) : Body :=
  let sl := b.slewStep n
  let d : Int := (n * 65536 * todUnit : Nat) + (n : Int) * signed 32 (b.rd Pg.lamp R.TOD_FREQ_ADJ) + sl
  let b := { b with lamp := { b.lamp with slew := b.lamp.slew - sl } }
  b.todAdd d

/-- A write of TOD_PHASE_ADJ (R302): a new slew in place of any in progress. -/
def todPhaseAdj (b : Body) (v : Nat) : Body :=
  { b with lamp := { b.lamp with slew := signed 32 v * (65536 * todUnit : Nat) } }

/-- What TOD_PHASE_ADJ reads: the whole nanoseconds still to apply. -/
def todPhaseRd (b : Body) : Nat := encSigned 32 (b.lamp.slew.tdiv (65536 * todUnit : Nat))

/-- The slew's amount is used up (R302). -/
def todSlewEnd (b : Body) : Body :=
  let d := b.lamp.slew
  ({ b with lamp := { b.lamp with slew := 0 } }).todAdd d

/-- TOD_STEP (R302). -/
def todStep (b : Body) : Body :=
  let ns := b.rd Pg.lamp R.TOD_SET_NS
  if 999999999 < ns then b.fire Pg.lamp R.LAMP_EVT_BADCFG
  else
    let sec := b.rd Pg.lamp R.TOD_SET_SECHI * 2 ^ 32 + b.rd Pg.lamp R.TOD_SET_SECLO
    let b := { b with tod := (sec * 1000000000 + ns) * 65536, lamp := { b.lamp with todRem := 0, slew := 0 } }
    b.fire Pg.lamp R.TOD_EVT_STEP

/-- A read of TOD_RD_FRAC latches the time for its master (R303). -/
def todLatch (b : Body) (master : Nat) : Body :=
  { b with lamp := { b.lamp with latch := Sp.set 0 b.lamp.latch master b.tod } }

/-- The time of day latched for a master. -/
def latched (b : Body) (master : Nat) : Nat := Sp.get 0 b.lamp.latch master

/-- Whether a condition lasts that keeps TOD_VALID at 0 (R307). -/
def todLoss (b : Body) : Bool :=
  b.lamp.refLost || (b.on Pg.lamp R.TOD_PPS_REQ && b.lamp.ppsLost) || b.sup.mode != .running

/-- TOD_VALID cleared (R307). -/
def todInvalid (b : Body) : Body :=
  if b.on Pg.lamp R.TOD_VALID then (b.wr Pg.lamp R.TOD_VALID 0).fire Pg.lamp R.TOD_EVT_INVALID else b

/-- A write of 1 to TOD_VALID_SET. -/
def todValidSet (b : Body) : Body := if b.todLoss then b else b.wr Pg.lamp R.TOD_VALID 1

/-- A loss condition has come or been asked for: it clears TOD_VALID. -/
def todCheck (b : Body) : Body := if b.todLoss then b.todInvalid else b

/-- The system reference input is lost, or returns (R307). -/
def sysrefLoss (b : Body) : Body :=
  if b.lamp.refLost then b
  else (({ b with lamp := { b.lamp with refLost := true } }).fire Pg.lamp R.TOD_EVT_REF_LOSS).todInvalid
def sysrefReturn (b : Body) : Body := { b with lamp := { b.lamp with refLost := false } }

/-- A rising edge of the 1PPS input (R305): the time, less the adjustment in ps, is captured. -/
def ppsIn (b : Body) : Body :=
  let t := ((b.tod : Int) - signed 16 (b.rd Pg.lamp R.TOD_PPS_IN_ADJ) * 65536 / 1000).toNat / 65536
  let b := (b.wr Pg.lamp R.TOD_PPS_CAP_NS (t % 1000000000)).wr Pg.lamp R.TOD_PPS_CAP_SEC (t / 1000000000)
  ({ b.mark Mk.pps with lamp := { b.lamp with ppsLost := false } }).fire Pg.lamp R.TOD_EVT_PPS

/-- No edge for 1.1 s (R305, R307). -/
def ppsLoss (b : Body) : Body :=
  if ¬ b.passed Mk.pps 1100000000 then b
  else (({ b with lamp := { b.lamp with ppsLost := true } }).fire Pg.lamp R.TOD_EVT_PPS_LOSS).todCheck

/-- The 1PPS output's width in ns: 0, or 1 s and more, act as 100 ms (R306). -/
def ppsWidth (b : Body) : Nat :=
  let w := b.rd Pg.lamp R.TOD_PPS_WIDTH * 10000
  if w = 0 ∨ 1000000000 ≤ w then 100000000 else w

/-- The whole seconds that the time of day has passed, shifted by TOD_PPS_OUT_ADJ in ps (R306). -/
def ppsSeconds (b : Body) : Int := ((b.tod * 1000 : Nat) - signed 16 (b.rd Pg.lamp R.TOD_PPS_OUT_ADJ) * 65536) / (65536 * 10 ^ 12)

/-- Time passes by `f`; where it passes such a second the 1PPS output is due to rise. -/
def ppsWatch (b : Body) (f : Body → Body) : Body :=
  let c := f b
  if b.ppsSeconds < c.ppsSeconds then { c with lamp := { c.lamp with ppsDue := true } } else c

/-- The 1PPS output rises where it is due and on (R306); it falls after its width. -/
def ppsOutEdge (b : Body) : Body :=
  if ¬ b.lamp.ppsDue then b
  else
    let b := { b with lamp := { b.lamp with ppsDue := false } }
    if b.on Pg.lamp R.TOD_PPS_OUT_EN then { b with lamp := { b.lamp with ppsOut := true, ppsOff := b.clk + b.ppsWidth } } else b

/-! Gallery power. -/

def gp (b : Body) (g : Nat) : GalPwr := Sp.get {} b.lamp.gal g
def setGp (b : Body) (g : Nat) (x : GalPwr) : Body := { b with lamp := { b.lamp with gal := Sp.set {} b.lamp.gal g x } }

def gprd (b : Body) (g : Nat) (f : Fld) : Nat := b.rd (Pg.galPower g) f
def gpwr (b : Body) (g : Nat) (f : Fld) (v : Nat) : Body := b.wr (Pg.galPower g) f v
def gpReq (b : Body) (g : Nat) : Nat := b.gprd g R.PG_PWR_REQ

/-! Counters of a Gallery power page (R318). -/
def GAL_WAKE_DOZE : Nat := 0
def GAL_PARK_DROP : Nat := 3
def GAL_WAKE_LATE : Nat := 4
def GAL_BOOST : Nat := 5
def GAL_THROTTLE_NS : Nat := 6
def GAL_DOZE_NS : Nat := 7

def throttled (b : Body) : Bool := b.on Pg.lamp R.TH_THROTTLED

/-- The step in force (R292): of the request, TH_CAP and the throttle, the slowest. A boost asks for step 0. -/
def stepInForce (b : Body) (g : Nat) : Nat :=
  max (max (if (b.gp g).boost then 0 else b.gpReq g % 4) (b.rd Pg.lamp R.TH_CAP)) (if b.throttled then 3 else 0)

/-- A Gallery in a state, with the voltage code of R495: a step's own, code 3 in NAP and PARK, unchanged in DOZE. -/
def galSet (b : Body) (g st : Nat) : Body :=
  let x := b.gp g
  let vid := if st ≤ 3 then st else if st = 5 ∨ st = 6 then 3 else if st = 7 ∧ x.left ≠ 4 then 0 else x.vid
  (b.setGp g { x with vid := vid }).gpwr g R.PG_PWR_STATE st

/-- The step in force taken by an active Gallery. -/
def stepUpdate (b : Body) (g : Nat) : Body := if b.galState g ≤ 3 then b.galSet g (b.stepInForce g) else b

/-- The same for every Gallery. -/
def stepAll (b : Body) : Body := (List.range 8).foldl (fun b g => b.stepUpdate g) b

/-- A wake source wakes a resting Gallery (R293, R295): 1 traffic, 2 entrance level, 3 Scheduler, 4 inject, 5 PG_PWR_REQ, 6
Gallery reset, 7 PLL relock. DOZE keeps its voltage. -/
def wakeStart (b : Body) (g cause : Nat) : Body :=
  let st := b.galState g
  if 4 ≤ st ∧ st ≤ 6 then
    let x := b.gp g
    let b := b.setGp g { x with left := st, since := b.clk, good := st == 4, late := false, withheld := x.arm && st != 4,
                                arm := x.arm && st == 4 }
    let b := (b.galSet g 7).gpwr g R.GAL_WAKE_CAUSE cause
    let b := { b with sch := { b.sch with wake := b.sch.wake.erase g } }
    b.count (Pg.galPower g) (GAL_WAKE_DOZE + (st - 4))
  else b

/-- Whether a wake source is there (R293): comparator g or 8 + g tripped, a Scheduler wake request, a packet at the inject source. The other
causes act where they arise: a write of PG_PWR_REQ, a Gallery reset, a relock. -/
def wakeSource (b : Body) (g cause : Nat) : Bool :=
  match cause with
  | 1 => bitOn (b.ent Tbl.glow g) 254
  | 2 => bitOn (b.ent Tbl.glow (8 + g)) 254
  | 3 => b.sch.wake.contains g
  | 4 => !(Sp.get [] b.pipe.injQ g).isEmpty
  | _ => false

/-- A wake source that a command names wakes the Gallery, where it is there. -/
def galleryWake (b : Body) (g cause : Nat) : Body := if b.wakeSource g cause then b.wakeStart g cause else b

/-- A late power-good counted once for its wake (R296). -/
def wakeLate (b : Body) (g : Nat) : Body :=
  let x := b.gp g
  if x.late then b
  else ((b.setGp g { x with late := true }).count (Pg.galPower g) GAL_WAKE_LATE).fire (Pg.galPower g) R.GAL_EVT_WAKE_LATE

/-- Power-good of a waking Gallery (R295, R296): later than 1.2 µs after the request, it is late. An injection withholds it. -/
def powerGood (b : Body) (g : Nat) : Body :=
  let x := b.gp g
  if b.galState g ≠ 7 ∨ x.good ∨ x.withheld then b
  else
    let b := if x.since + 1200 < b.clk then b.wakeLate g else b
    b.setGp g { b.gp g with good := true }

/-- Power-good has not come 10 µs after the request (R296): the Gallery goes on waiting. -/
def powerGoodTimeout (b : Body) (g : Nat) : Body :=
  let x := b.gp g
  if b.galState g ≠ 7 ∨ x.good ∨ b.clk < x.since + 10000 then b
  else
    let b := b.wakeLate g
    (b.setGp g { b.gp g with withheld := false }).fault (Pg.galPower g) R.GAL_FLT_PGOOD { detail := g, inj := x.withheld }

/-- A number of recovery drops of a Gallery (R282, R284). -/
def rcvDrop (b : Body) (g : Nat) (n : Nat := 1) : Body := b.count Pg.rim (128 + g) n

/-- The entrance frames of a port dropped in a Gallery reset. -/
def dropEntrance (b : Body) (p : Nat) : Body :=
  let n := (b.fifo p).length
  let b := ((b.setFifo p []).ledOut (ledEntrance (p / 64)) n).rcvDrop (p / 64) n
  let b := match b.rxOf p with
    | some f => if f.place = .entrance then b.setRx p (some { f with place := .gone }) else b
    | none => b
  if n = 0 then b else b.entChanged p

/-- The heads of a Gallery between dispatch and admission dropped, and with them the copies that were to follow. -/
def dropHeads (b : Body) (g : Nat) : Body :=
  let mine := b.pipe.stage7.filter fun i => match b.pkt i with
    | some p => p.gal == g && !p.admitted
    | none => false
  let b := { b with pipe := { b.pipe with stage7 := b.pipe.stage7.filter fun i => !mine.contains i } }
  mine.foldl (fun b i => match b.pkt i with
    | some p => if p.copy then b.release i p else ((b.release i p).ledOut (ledPipe g) 1).rcvDrop g
    | none => b) b

/-- The packets handed to a Gallery's egress and not begun dropped. -/
def dropEgress (b : Body) (g : Nat) : Body :=
  let mine := b.sch.egr.filter fun e => e.slice == g &&
    (match b.pkt e.pid with | some p => !(p.ct && p.started) | none => true)
  mine.foldl (fun b e => ((b.ledOut (ledEgress g) 1).rcvDrop g).egrDone e) b

/-- A Gallery reset (R282): what its entrance buffer, its pipeline and its egress hold is dropped, each a recovery drop; the
queues are untouched. -/
def galReset (b : Body) (g : Nat) : Body :=
  let b := (List.range 64).foldl (fun b i => b.dropEntrance (64 * g + i)) b
  ((b.dropHeads g).dropEgress g).chmRefresh

/-- A Gallery reset asked for: a resting Gallery wakes first (R293). -/
def galResetReq (b : Body) (g : Nat) : Body :=
  let st := b.galState g
  if st ≤ 3 then b.galReset g
  else (b.setGp g { b.gp g with resetDue := true }).wakeStart g 6

/-- A request of PG_PWR_REQ taken (R292, R293, R297). -/
def pwrReqTake (b : Body) (g v : Nat) : Body :=
  let b := b.gpwr g R.PG_PWR_REQ v
  let st := b.galState g
  let x := b.gp g
  if st = 7 then b.setGp g { x with held := some v }
  else if st ≤ 3 then (b.setGp g { x with boost := false }).stepUpdate g
  else
    let rest := v / 4 % 4
    let b := b.setGp g { x with boost := false }
    if rest = 0 ∨ rest + 3 < st then b.wakeStart g 5 else b

/-- A write of PG_PWR_REQ of a Gallery power page by a master (R29, R292, R300). -/
def galleryPowerRequest (b : Body) (g master v : Nat) : Body :=
  let v := v % 16
  if b.ownerRefuses LOOP_POWER master then b.fire Pg.governor R.GOV_EVT_OWNER
  else if ¬ b.loopAuto LOOP_POWER ∧ (b.gprd g R.GAL_ENV_STEP < v % 4 ∨ b.gprd g R.GAL_ENV_REST < v / 4) then
    b.fire (Pg.galPower g) R.GAL_EVT_BADREQ
  else b.pwrReqTake g v

/-- The woken Gallery is ready for its first head (R295). A wake from NAP or PARK runs boosted until the next request (R292);
a request written meanwhile takes effect; it tags with the current epoch (R24). -/
def wakeDone (b : Body) (g : Nat) : Body :=
  let x := b.gp g
  if b.galState g ≠ 7 ∨ ¬ x.good then b
  else
    let b := b.setGp g { x with left := 0, boost := (x.boost || x.left != 4) && x.held.isNone, held := none, resetDue := false }
    let b := (b.galSet g (b.stepInForce g)).gpwr g R.GAL_WAKE_MAX (max (b.gprd g R.GAL_WAKE_MAX) (min (b.clk - x.since) 0xFFFFFFFF))
    let b := { b with cairn := { b.cairn with galTag := Sp.set 0 b.cairn.galTag g b.cairn.flips },
                      lamp := { b.lamp with lost := b.lamp.lost.erase (5 + g) } }
    (if x.resetDue then b.galReset g else b).govEnd LOOP_POWER g

/-- Whether a Gallery is idle (R293). -/
def galIdle (b : Body) (g : Nat) : Bool :=
  ((List.range 64).all fun i => (b.fifo (64 * g + i)).isEmpty) &&
  (Sp.get [] b.pipe.rcyHold g).isEmpty && (Sp.get [] b.pipe.injQ g).isEmpty &&
  (b.pipe.stage7.all fun i => match b.pkt i with | some p => p.gal != g | none => true) &&
  (b.sch.egr.all fun e => e.slice != g) &&
  (b.eligQ.all fun q => match b.attached 0 q with | some p => portGal p != g | none => true) &&
  !b.on (Pg.preclass g) R.ENT_OVERLOAD

/-- Since when an active Gallery has been idle, brought up to date. -/
def idleWatch (b : Body) (g : Nat) : Body :=
  if b.galState g ≤ 3 ∧ b.galIdle g then
    (if (b.gp g).idleAt.isSome then b else b.setGp g { b.gp g with idleAt := some b.clk })
  else b.galBusy g

/-- Whether a Gallery has been idle for GAL_IDLE_NS, less than 100 acting as 100 (R293). -/
def idleLong (b : Body) (g : Nat) : Bool :=
  match (b.gp g).idleAt with
  | some t => b.galIdle g && decide (t + max 100 (b.gprd g R.GAL_IDLE_NS) ≤ b.clk)
  | none => false

/-- The PARK condition (R294): each enabled port not UP, or allowed and quiet. -/
def parkOk (b : Body) (g : Nat) : Bool :=
  (b.galPorts g).all fun p =>
    let i := p % 64
    let allowed := if i < 32 then bitOn (b.gprd g R.GAL_PARK_OK_LO) i else bitOn (b.gprd g R.GAL_PARK_OK_HI) (i - 32)
    let quiet := max 1 (b.gprd g R.GAL_PARK_QUIET) * 1000000
    let still := match b.net.heard.find? (fun e => e.1 == p) with
      | some e => decide (e.2 + quiet ≤ b.clk)
      | none => true
    !b.portUp p || (allowed && still)

/-- The cover check for NAP and for DOZE (R296). -/
def napOk (b : Body) (g : Nat) : Bool := decide (b.gprd g R.GAL_FILL_NAP ≤ b.rd (Pg.preclass g) R.ENT_THR 3)
def dozeOk (b : Body) (g : Nat) : Bool := decide (b.gprd g R.GAL_FILL_DOZE ≤ b.rd (Pg.preclass g) R.ENT_THR 3)

/-- The resting state that a request of `r` comes to (R294), as a power state code, or none. -/
def restOf (b : Body) (g r : Nat) : Option Nat :=
  if r = 3 ∧ b.parkOk g then some 6
  else if 2 ≤ r ∧ b.napOk g then some 5
  else if 1 ≤ r ∧ b.dozeOk g then some 4
  else none

/-- GAL_REST_BLOCK: what stands against a resting state `r` (R294). A read computes it for the state requested. -/
def restBlock (b : Body) (g r : Nat) : Nat :=
  b2n (b.on (Pg.preclass g) R.ENT_OVERLOAD) +
  2 * b2n ((decide (2 ≤ r) && !(r == 3 && b.parkOk g) && !b.napOk g) || (decide (1 ≤ r) && !(r == 3 && b.parkOk g) && !b.dozeOk g)) +
  4 * b2n (r == 3 && !b.parkOk g)

/-- A Gallery idle for GAL_IDLE_NS enters its resting state, or a shallower one (R293, R294). -/
def restEntry (b : Body) (g : Nat) : Body :=
  let r := b.gpReq g / 4 % 4
  if 3 < b.galState g ∨ r = 0 then b
  else
    if ¬ b.idleLong g then b
    else match b.restOf g r with
      | none => b
      | some st =>
        let b := if st = r + 3 then b else b.fire (Pg.galPower g) R.GAL_EVT_REST_BLOCK
        (b.galBusy g).galSet g st

/-! Clocks. -/

/-- A PLL loses lock (R287): its domain's bits, its fault and event; a Gallery resets and relocks as from PARK, any other
domain stops. D0 has no PLL. -/
def pllLoss (b : Body) (d : Nat) : Body :=
  if d = 0 ∨ 18 ≤ d then b
  else
    let b := ((b.wr Pg.clocks R.CLK_LOL_SEEN 1 d).fault Pg.clocks R.CLK_FLT_LOL { detail := d }).fire Pg.clocks R.CLK_EVT_LOL
    let b := { b with lamp := { b.lamp with lost := insertNat d b.lamp.lost } }
    if 5 ≤ d ∧ d ≤ 12 then
      let g := d - 5
      ((b.galReset g).galSet g 6).wakeStart g 7
    else b

/-- CLK_INJ_GO (R317): a Gallery's PLL has the full effect; any other domain sets its detector and goes on. -/
def clkInject (b : Body) : Body :=
  let d := b.rd Pg.clocks R.CLK_INJ_DOM
  if d = 0 ∨ 18 ≤ d then b
  else if 5 ≤ d ∧ d ≤ 12 then b.pllLoss d
  else ((b.wr Pg.clocks R.CLK_LOL_SEEN 1 d).fault Pg.clocks R.CLK_FLT_LOL { detail := d, inj := true }).fire Pg.clocks
    R.CLK_EVT_LOL

/-- Whether clock domain `d` runs (R285): a Gallery's core in its active states, D4 while a far controller is enabled,
D16 while no stack's is stopped by a pin-rate step (R337). Number 18 stands for D16 at the stacks that no step stops. -/
def clkRuns (b : Body) (d : Nat) : Bool :=
  if d = 0 then b.sup.mode != .off
  else b.sup.mode == .running && !b.lamp.lost.contains d &&
    (if d = 4 then b.on (Pg.far 0 0) R.PG_EN || b.on (Pg.far 1 0) R.PG_EN
     else if 5 ≤ d ∧ d ≤ 12 then decide (b.galState (d - 5) ≤ 3)
     else if d = 16 then b.hbm.stalled.isEmpty
     else if d = 18 then !b.lamp.lost.contains 16
     else true)

/-! The comparators. -/

/-- The fields of a comparator entry (R316). -/
def glwSrc (e : Nat) : Nat := e % 256
def glwAct (e : Nat) : Nat := bitField e 15 12
def glwDir (e : Nat) : Bool := bitOn e 8
def glwDebounce (e : Nat) : Nat := bitField e 31 16
def glwThr (e : Nat) : Int := signed 32 (bitField e 63 32)
def glwHyst (e : Nat) : Nat := bitField e 95 64
def glwValue (e : Nat) : Int := signed 32 (bitField e 127 96)
def glwFires (e : Nat) : Nat := bitField e 159 128
def glwTripped (e : Nat) : Bool := bitOn e 254
def glwValid (e : Nat) : Bool := bitOn e 255

/-- Whether a sample is beyond the threshold, and whether it is on the other side of the re-arm point. -/
def glwBeyond (e : Nat) (v : Int) : Bool := if glwDir e then decide (v ≤ glwThr e) else decide (glwThr e ≤ v)
def glwBack (e : Nat) (v : Int) : Bool :=
  if glwDir e then decide (glwThr e + glwHyst e < v) else decide (v < glwThr e - glwHyst e)

/-- A sample of comparator `n`: its value, and how many in a row are beyond the threshold. -/
def glwSample (b : Body) (n : Nat) (v : Int) : Body :=
  let e := b.ent Tbl.glow n
  if ¬ glwValid e then b
  else
    let b := b.setEnt Tbl.glow n (setBitField e 127 96 (encSigned 32 v))
    let c := if glwBeyond e v then Sp.get 0 b.lamp.run n + 1 else 0
    { b with lamp := { b.lamp with run := Sp.set 0 b.lamp.run n c } }

/-- The present value of a source sampled at every D0 clock: entrance occupancy in 256 bytes as ENT_OCC shows it, or the traffic detector (R289). -/
def glwLive (b : Body) (src : Nat) : Option Int :=
  if src < 8 then some ((ceilDiv (b.entOcc src) 256 : Nat) : Int)
  else if src < 16 then some ((Sp.get 0 b.lamp.traffic (src - 8) : Nat) : Int)
  else none

/-- A sensor's or monitor's sample, or the power estimate, seen by every comparator on that source. -/
def glwSource (b : Body) (src : Nat) (v : Int) : Body :=
  (List.range 64).foldl (fun b n => if glwSrc (b.ent Tbl.glow n) = src then b.glwSample n v else b) b

/-- A thermal trip (R314): every clock but D0 stops until an engine reset; THERMTRIP_N and FAULT_N are held. -/
def thermTrip (b : Body) (inj : Bool := false) : Body :=
  let b := ((b.wr Pg.lamp R.TH_TRIP_LAST 1).wr Pg.fmu R.FMU_TRIP_HOLD 1).todInvalid
  { b with sup := { b.sup with mode := .tripped, tripDue := true, tripInj := inj } }

/-- The action of a comparator that trips (R290). -/
def glwAction (b : Body) (n e : Nat) : Body :=
  match glwAct e with
  | 8 => b.wakeStart n 1
  | 9 =>
    let g := n - 8
    let b := (b.count (Pg.galPower g) GAL_BOOST).fire (Pg.galPower g) R.GAL_EVT_BOOST
    let b := b.setGp g { b.gp g with boost := true }
    if 4 ≤ b.galState g ∧ b.galState g ≤ 6 then b.wakeStart g 2 else b.stepUpdate g
  | 10 => ((b.wr Pg.lamp R.TH_THROTTLED 1).fire Pg.lamp R.TH_EVT_THROTTLE).stepAll
  | 11 => b.thermTrip
  | a =>
    let b := b.fire Pg.lamp R.LAMP_EVT_GLW
    if a = 1 then b.fault Pg.lamp R.GLW_FLT_TRIP { detail := n } else b

/-- GLW_FIRED bit `n`. -/
def glwFired (b : Body) (n : Nat) : Body :=
  if n < 32 then b.wr Pg.lamp R.GLW_FIRED_LO (setBitField (b.rd Pg.lamp R.GLW_FIRED_LO) n n 1)
  else b.wr Pg.lamp R.GLW_FIRED_HI (setBitField (b.rd Pg.lamp R.GLW_FIRED_HI) (n - 32) (n - 32) 1)

/-- A comparator trips: its count and its bits. -/
def glwMark (b : Body) (n : Nat) : Body :=
  let e := b.ent Tbl.glow n
  (b.setEnt Tbl.glow n (setBitField (setBitField e 159 128 (glwFires e + 1)) 254 254 1)).glwFired n

/-- A comparator trips, and takes its action. -/
def glwFire (b : Body) (n : Nat) : Body := (b.glwMark n).glwAction n (b.ent Tbl.glow n)

/-- A comparator trips after GLW_DEBOUNCE + 1 samples beyond its threshold (R289). A source sampled at every D0 clock is
sampled here. With only VDD_LAMP powered, supply sources and sensor 11 act (R288). -/
def glwTrip (b : Body) (n : Nat) : Body :=
  let e := b.ent Tbl.glow n
  let src := glwSrc e
  if 64 ≤ n ∨ ¬ glwValid e ∨ glwTripped e then b
  else if b.sup.mode ≠ .running ∧ n < 16 then b
  else if b.sup.lampOnly ∧ ¬ (0x30 ≤ src ∧ src ≤ 0x3F) ∧ src ≠ 0x1B then b
  else
    let due := fun (b : Body) => decide (glwDebounce e < Sp.get 0 b.lamp.run n)
    let b := match (if due b then none else b.glwLive src) with | some v => b.glwSample n v | none => b
    if due b then b.glwFire n else b

/-- A tripped comparator re-arms after a sample on the other side (R289). The throttle ends with comparator 16's (R313). -/
def glwRearm (b : Body) (n : Nat) : Body :=
  let e := b.ent Tbl.glow n
  if 64 ≤ n ∨ ¬ glwValid e ∨ ¬ glwTripped e then b
  else
    let b := match b.glwLive (glwSrc e) with | some v => b.glwSample n v | none => b
    let e := b.ent Tbl.glow n
    if ¬ glwBack e (glwValue e) then b
    else
      let b := { b.setEnt Tbl.glow n (setBitField e 254 254 0) with lamp := { b.lamp with run := Sp.set 0 b.lamp.run n 0 } }
      if glwAct e = 10 then (b.wr Pg.lamp R.TH_THROTTLED 0).stepAll else b

/-! Sensors (R310, R311). -/

/-- Temperature sensor `i` reads a value, or fails its self-check. -/
def tempSample (b : Body) (i : Nat) (x : Option Nat) : Body :=
  match x with
  | none => (b.wr Pg.lamp R.TEMP_OK 0 i).fault Pg.lamp R.TH_FLT_SENSOR { detail := i }
  | some v => ((b.wr Pg.lamp R.TEMP_OK 1 i).wr Pg.lamp R.TEMP v i).glwSource (0x10 + i) (signed 16 v)

/-- Supply monitor `r`. -/
def voltSample (b : Body) (r : Nat) (x : Option Nat) : Body :=
  match x with
  | none => (b.wr Pg.lamp R.VMON_OK 0 r).fault Pg.lamp R.TH_FLT_SENSOR { detail := 24 + r }
  | some v => ((b.wr Pg.lamp R.VMON_OK 1 r).wr Pg.lamp R.VMON v r).glwSource (0x30 + r) ((v % 65536 : Nat) : Int)

/-- The sensors of the junction temperature (R311). -/
def junction : List Nat := (List.range 16) ++ [20, 21, 22, 23]

/-- TH_JMAX: the highest valid reading of those sensors, as it was where none is valid. With only VDD_LAMP powered the source reads 0
(R288). -/
def jmaxUpdate (b : Body) : Body :=
  let l := (junction.filter fun i => b.on Pg.lamp R.TEMP_OK i).map fun i => signed 16 (b.rd Pg.lamp R.TEMP i)
  match l with
  | [] => b
  | x :: t =>
    let m := t.foldl max x
    (b.wr Pg.lamp R.TH_JMAX (encSigned 16 m)).glwSource 0x40 (if b.sup.lampOnly then 0 else m)

/-- The junction temperature in 1/8 °C. -/
def jmax (b : Body) : Int := signed 16 (b.rd Pg.lamp R.TH_JMAX)

/-- Since when a condition holds: kept while it does, begun now where it has just come, none where it does not. -/
def holdsSince (old : Option Nat) (c : Bool) (now : Nat) : Option Nat :=
  if c then some (old.getD now) else none

/-- Whether the power estimate is above the limit, and whether it is below 95 % of it (R315). -/
def powHigh (b : Body) : Bool :=
  b.rd Pg.lamp R.TH_PWR_LIMIT != 0 && decide (b.rd Pg.lamp R.TH_PWR_LIMIT < b.rd Pg.lamp R.TH_PWR_EST)
def powLow (b : Body) : Bool :=
  b.rd Pg.lamp R.TH_PWR_LIMIT == 0 || decide (b.rd Pg.lamp R.TH_PWR_EST * 100 < b.rd Pg.lamp R.TH_PWR_LIMIT * 95)

/-- The conditions that the THERMAL loop watches, brought up to date. -/
def thermWatch (b : Body) : Body :=
  let hot := (b.rd Pg.lamp R.TH_HOT * 8 : Nat)
  let l := b.lamp
  { b with lamp := { l with
      hotAt := holdsSince l.hotAt (decide ((hot : Int) ≤ b.jmax)) b.clk,
      powAt := holdsSince l.powAt b.powHigh b.clk,
      coolAt := holdsSince l.coolAt (decide (b.jmax < (hot : Int) - (b.rd Pg.lamp R.TH_HYST * 8 : Nat)) && b.powLow) b.clk } }

/-- The temperature of an HBM stack, from its own sensor (R331). -/
def stackTemp (b : Body) (s : Nat) : Int := signed 16 (b.rd Pg.lamp R.TEMP (16 + s))

/-- The refresh factor of a stack (R331). -/
def refFactor (b : Body) (s : Nat) : Nat := if b.stackTemp s ≤ 680 then 1 else if b.stackTemp s ≤ 760 then 2 else 4

/-- What a stack's temperature sets (R331). -/
def stackHot (b : Body) (s : Nat) : Body :=
  if ¬ b.on Pg.lamp R.TEMP_OK (16 + s) then b
  else
    let b := if 760 < b.stackTemp s then b.fireLasting (Pg.hbm s 0) R.HBM_EVT_HOT else b
    if 840 ≤ b.stackTemp s ∧ ¬ b.on (Pg.hbm s 0) (fltStat R.HBM_FLT_OVERTEMP) then
      b.fault (Pg.hbm s 0) R.HBM_FLT_OVERTEMP { detail := s }
    else b

/-- The samples of every 10 µs (R289, R311, R331), and of every 100 µs the power estimate where there is one. With only VDD_LAMP
powered, the supply monitors and sensor 11 are read and every other source reads 0 (R288). -/
def sensorSample (b : Body) (temps volts : List (Option Nat)) (est : Option Nat) : Body :=
  let run := b.sup.mode == .running
  let b := (List.range 24).foldl (fun b i =>
    if ¬ b.sup.lampOnly ∨ i = 11 then b.tempSample i (temps.getD i (some 0)) else b.tempSample i (some 0)) b
  let b := (List.range 16).foldl (fun b r => b.voltSample r (volts.getD r (some 0))) b
  let b := match est with
    | some w => if run then (b.wr Pg.lamp R.TH_PWR_EST w).glwSource 0x41 ((w % 2048 : Nat) : Int) else if b.sup.lampOnly then b.glwSource 0x41 0 else b
    | none => b
  let b := b.jmaxUpdate
  let b := b.holdEvent Pg.lamp R.TH_EVT_HOT
  ((List.range 4).foldl (fun b s => if run then b.stackHot s else b) b).thermWatch

/-! The pins of the Lamp (R314, R465, R495). -/

/-- THERMTRIP_N is asserted: after a trip until the release of RESET_N, and while the engine is held hot (R501, R511). -/
def thermTripped (b : Body) : Bool := b.sup.mode == .tripped || b.sup.mode == .hot || b.on Pg.fmu R.FMU_TRIP_HOLD

/-- FAULT_N is asserted: by a reported fault, the Lamp's hold, or the brown-out hold (R465, R499). -/
def faultPin (b : Body) : Bool := b.faultN || b.sup.mode == .brownout

end Body

end Sys2Proof.Machine
end

