-- ==== Sys2Proof/Machine/Hbm.lean ====
section
/-! DEFINITION. The HBM controllers (chapter 11): service of requests (R326 to R329), refresh and scrubbing (R331, R336), pin-rate
steps (R337, R338), training helpers (R340, R351), and injections (R352). -/

namespace Sys2Proof.Machine

/-! Counters of HBM page 3 (R352). -/
def HBM_SCRUB_FIX : Nat := 2
def HBM_SCRUB_UE : Nat := 3
def HBM_DL_MISS : Nat := 8
def HBM_STEPS : Nat := 9
def HBM_REF_POSTPONE : Nat := 10
def HBM_BYTES (port : Nat) : Nat := 11 + port

/-- The peak of a stack at a rate code, in tenths of GB/s (R320). -/
def ratePeak (r : Nat) : Nat := [15360, 14336, 12288, 10240, 8192, 6144, 4096].getD r 0

namespace Body

/-- A register field of page 0 of a stack. -/
def hrd (b : Body) (s : Nat) (f : Fld) : Nat := b.rd (Pg.hbm s 0) f
def hwr (b : Body) (s : Nat) (f : Fld) (v : Nat) : Body := b.wr (Pg.hbm s 0) f v

/-- Whether a step stalls a stack. -/
def stackStalled (b : Body) (s : Nat) : Bool := b.hbm.stalled.any fun e => e.1 == s

/-- Whether a stack's controller serves: enabled (R349), and not in the stall of a step (R338). -/
def stackServes (b : Body) (s : Nat) : Bool := b.hrd s R.PG_EN == 1 && !b.stackStalled s

/-- The order in which a queue is served in NORMAL (R327): aged requests, then open rows, then age; the earliest in arrival
order of the best class. -/
def pickNormal (b : Body) (s : Nat) (l : List HbmReq) : Option HbmReq :=
  let aged := l.find? fun r => decide (r.since + b.rd (Pg.hbm s 1) R.HBM_AGE_MAX ≤ b.clk)
  let hit := l.find? fun r =>
    b.hbm.rows.any fun e => e.1 == bankKey { stack := r.stack, pc := r.pc, bank := r.bank, row := r.row } && e.2 == r.row
  match aged, hit with
  | some r, _ => some r
  | none, some r => some r
  | none, none => l.head?

/-- The urgency of a request in DEADLINE, by the deadline that it was stamped with (R329). -/
def urgency (b : Body) (r : HbmReq) : Nat :=
  let slack : Int := (r.due : Int) - (b.clk : Int)
  if slack ≤ 0 then 3 else if 4 * slack ≤ r.tgt then 2 else if 2 * slack ≤ r.tgt then 1 else 0

/-- The request that a pseudo-channel serves next (R327, R329). -/
def hbmNext (b : Body) (s pc : Nat) : Option HbmReq :=
  let rds := b.hbmWaiting s pc false
  let wrs := b.hbmWaiting s pc true
  let drain := b.hbm.drain.contains (pcKey s pc)
  if b.on (Pg.hbm s 1) R.HBM_QOS_MODE then
    let l := if drain then wrs else rds ++ wrs
    [3, 2, 1, 0].findSome? fun u => l.find? fun r => b.urgency r == u
  else
    let first := rds.filter fun r => r.port == 1
    if b.hbm.panic.contains s ∧ wrs.length < 64 ∧ ¬ first.isEmpty then b.pickNormal s first
    else if drain then b.pickNormal s wrs
    else if rds.isEmpty then b.pickNormal s wrs else b.pickNormal s rds

/-- A pseudo-channel serves a request (R327): its bank's row is open then, its bytes are counted, and in DEADLINE a late one
is counted (R329). A stack in the stall of a step serves none (R338), nor does one whose controller is not enabled (R349). -/
def hbmRequest (b : Body) (s pc : Nat) : Body :=
  if ¬ b.stackServes s then b
  else match b.hbmNext s pc with
    | none => b
    | some r =>
      let k := bankKey { stack := r.stack, pc := r.pc, bank := r.bank, row := r.row }
      let late := b.on (Pg.hbm s 1) R.HBM_QOS_MODE && decide (r.due < b.clk)
      let b := { b with hbm := { b.hbm with queue := b.hbm.queue.erase r, rows := Sp.ins b.hbm.rows k r.row } }
      let b := (b.hbmCount s (HBM_BYTES r.port) 64).svyBump 5 s (b2n r.wr) 64
      let b := if late then b.hbmCount s HBM_DL_MISS else b
      (b.hbmDrainUpdate s pc).hbmPanicUpdate s

/-- A per-bank refresh of a pseudo-channel at its interval (R331): behind a bank with a request waiting it is postponed, at
most 8 times; it closes the bank's row. -/
def hbmRefresh (b : Body) (s pc : Nat) : Body :=
  let k := pcKey s pc
  let bank := Sp.get 0 b.hbm.refBank k
  let n := Sp.get 0 b.hbm.postponed k
  let busy := b.hbm.queue.any fun r => r.stack == s && r.pc == pc && r.bank == bank
  if ¬ b.stackServes s then b
  else if busy ∧ n < 8 then
    ({ b with hbm := { b.hbm with postponed := Sp.set 0 b.hbm.postponed k (n + 1) } }).hbmCount s HBM_REF_POSTPONE
  else
    let key := bankKey { stack := s, pc := pc, bank := bank, row := 0 }
    { b with hbm := { b.hbm with postponed := Sp.set 0 b.hbm.postponed k 0, rows := Sp.del b.hbm.rows key,
                                 refBank := Sp.set 0 b.hbm.refBank k ((bank + 1) % 48) } }

/-- The scrubber reads a line (R336): a corrected one is rewritten unless a write to it is queued (R328), an uncorrectable
one is rewritten with the poison code word. -/
def hbmScrub (b : Body) (line : Nat) : Body :=
  let a := line * 64
  let s := (b.hbmLoc a).stack
  if Sump.scratchEnd ≤ a ∨ ¬ b.on (Pg.hbm s 3) R.HBM_SCRUB_EN ∨ ¬ b.stackServes s then b
  else
    let queued := b.hbm.queue.any fun r => r.wr && r.addr == a
    let b := (b.hbmPut 6 false a).lineError 6 a
    if b.lineBad a then (b.hbmCount s HBM_SCRUB_UE).hbmPut 6 true a
    else if b.hbm.ce.contains a ∧ ¬ queued then
      let b := { b with hbm := { b.hbm with ce := b.hbm.ce.erase a } }
      (b.hbmCount s HBM_SCRUB_FIX).hbmPut 6 true a
    else b

/-! Pin-rate steps (R337, R338). -/

/-- Whether a stack may step to a rate: its timing entry is valid and the rate trained. -/
def rateOk (b : Body) (s r : Nat) : Bool :=
  decide (r < 7) && bitOn (b.ent (Tbl.timing s) r) 119 && bitOn (b.hrd s R.HBM_TRAINED) r

/-- A 16-byte timing entry put into the shadow or the active set. -/
def timPut (b : Body) (s : Nat) (f : Fld) (e : Nat) : Body :=
  (List.range 4).foldl (fun b i => b.wr (Pg.hbm s 0) f (e / 2 ^ (32 * i)) i) b

/-- The 16 bytes of a set. -/
def timGet (b : Body) (s : Nat) (f : Fld) : Nat :=
  ((List.range 4).map fun i => b.rd (Pg.hbm s 0) f i * 2 ^ (32 * i)).foldl (· + ·) 0

/-- The shadow set becomes active, and the active set moves into the shadow (step 5). -/
def timSwap (b : Body) (s : Nat) : Body :=
  let sh := b.timGet s R.HBM_TIMS
  let ac := b.timGet s R.HBM_TIMA
  (b.timPut s R.HBM_TIMS ac).timPut s R.HBM_TIMA sh

/-- A step towards the requested rate begins, where it differs from the rate in force (steps 1 and 2). -/
def stepBegin (b : Body) (s : Nat) : Body :=
  let r := b.hrd s R.HBM_RATE_REQ
  if r = b.hrd s R.HBM_RATE_CUR ∨ b.hrd s R.HBM_STEP_BUSY = 1 ∨ ¬ b.rateOk s r then b
  else
    let b := (b.hwr s R.HBM_STEP_BUSY 1).timPut s R.HBM_TIMS (b.ent (Tbl.timing s) r)
    { b with hbm := { b.hbm with target := Sp.ins b.hbm.target s r } }

/-- A stack that steps no more: an action of the POWER loop on it has completed (R30). -/
def stepRests (b : Body) (s : Nat) : Body := if b.hrd s R.HBM_STEP_BUSY = 1 then b else b.govEnd LOOP_POWER (0x100 + s)

/-- HBM_RATE_REQ takes a rate, or the request is ignored (R337). During a step it takes effect when the step ends (R338). -/
def rateTake (b : Body) (s r : Nat) : Body :=
  if ¬ b.rateOk s r then b.fire (Pg.hbm s 0) R.HBM_EVT_BADCFG
  else (b.hwr s R.HBM_RATE_REQ r).stepBegin s

/-- A write of HBM_RATE_REQ by a master; it is an actuator of the POWER loop (R29, R337). -/
def hbmRateRequest (b : Body) (s master r : Nat) : Body :=
  if b.ownerRefuses LOOP_POWER master then b.fire Pg.governor R.GOV_EVT_OWNER else b.rateTake s (r % 16)

/-- The spare output has locked and the stack stalls (steps 3 to 6). -/
def stepStall (b : Body) (s : Nat) : Body :=
  if b.hrd s R.HBM_STEP_BUSY = 0 ∨ b.stackStalled s then b
  else { b with hbm := { b.hbm with stalled := Sp.ins b.hbm.stalled s b.clk,
                                    rows := b.hbm.rows.filter fun e => e.1 / 2048 != s } }

/-- Commands resume at the new rate (step 7). -/
def stepDone (b : Body) (s : Nat) : Body :=
  match b.hbm.stalled.find? (fun e => e.1 == s), b.hbm.target.find? (fun e => e.1 == s) with
  | some (_, t), some (_, r) =>
    let b := (b.hwr s R.HBM_RATE_CUR r).timSwap s
    let b := (b.hwr s R.HBM_STEP_NS (min 65535 (b.clk - t))).hwr s R.HBM_STEP_BUSY 0
    let b := { b with hbm := { b.hbm with stalled := Sp.del b.hbm.stalled s, target := Sp.del b.hbm.target s } }
    (((b.hbmCount s HBM_STEPS).fire (Pg.hbm s 0) R.HBM_EVT_STEP_DONE).stepBegin s).stepRests s
  | _, _ => b

/-- The spare output has not locked 50 µs after the request: the step is abandoned before its stall (R337). -/
def stepFail (b : Body) (s : Nat) : Body :=
  if b.hrd s R.HBM_STEP_BUSY = 0 ∨ b.stackStalled s then b
  else
    let r := Sp.get 16 b.hbm.target s
    let b := (b.hwr s R.HBM_STEP_BUSY 0).fire (Pg.hbm s 0) R.HBM_EVT_STEP_FAIL
    let b := { b with hbm := { b.hbm with target := Sp.del b.hbm.target s } }
    (if b.hrd s R.HBM_RATE_REQ = r then b else b.stepBegin s).stepRests s

/-! Training helpers (R340, R351). -/

/-- The Sump address of the `i`-th scratch line of a pseudo-channel (R322, R325). -/
def scratchLine (b : Body) (s pc i : Nat) : Nat :=
  let q := Sump.scratchBase / 64 / 0x8000 + i / 256
  let f := (List.range 7).foldl (fun v j => v + (popcount (q &&& b.rd Pg.sump R.SUMP_MAP j) 17 % 2) * 2 ^ j) 0
  let ch := (4 * pc + s) ^^^ f
  (q * 0x8000 + i % 256 / 4 * 512 + ch * 4 + i % 4) * 64

/-- The pattern of a scratch line (R351): mode 4 is the user pattern; of the other modes the spec does not give the order in which their bits
fill a line, so they are open. -/
def patternLine (b : Body) (s i : Nat) : Nat :=
  let mode := b.rd (Pg.hbm s 2) R.HBM_PG_MODE
  if mode = 4 then b.ent (Tbl.pattern s) 0 else Config.hbmPattern mode (b.rd (Pg.hbm s 2) R.HBM_PG_SEED) i

/-- `n` scratch lines of a pseudo-channel take the pattern. -/
def patternWrite (b : Body) (s pc : Nat) : Nat → Body
  | 0 => b
  | n + 1 =>
    (patternWrite b s pc n).sumpWrite 7 (b.scratchLine s pc n) (leBytes 64 (b.patternLine s n))

/-- HBM_PG_GO (R351): the generator writes, where it is to, and the compare helper reads, both through port 7 (R326), the scratch region of a pseudo-channel. Modes 6 and 7 run
nothing; a run in progress goes on. -/
def hbmPgRun (b : Body) (s : Nat) : Body :=
  let pg := Pg.hbm s 2
  if 6 ≤ b.rd pg R.HBM_PG_MODE ∨ b.on pg R.HBM_CMP_BUSY then b
  else
    let b := (b.wr pg R.HBM_CMP_BUSY 1).wr pg R.HBM_CMP_ERRS 0
    let b := { b with hbm := { b.hbm with laneErr := Sp.clearRange b.hbm.laneErr (64 * s) (64 * s + 64) } }
    let pc := b.rd pg R.HBM_PG_PC
    let n := min 524288 (ceilDiv (b.rd pg R.HBM_PG_BURSTS) 2)
    let b := if b.on pg R.HBM_PG_WRITE then b.patternWrite s pc n else b
    (List.range n).foldl (fun b i => (b.sumpRead 7 (b.scratchLine s pc i) 64).1) b

/-- A run ends with the errors that each lane showed (R351). -/
def hbmCmpDone (b : Body) (s : Nat) (errs : List Nat) : Body :=
  let pg := Pg.hbm s 2
  if ¬ b.on pg R.HBM_CMP_BUSY ∨ ¬ b.stackServes s then b
  else
    let l := (List.range 40).map fun i => errs.getD i 0
    let b := { b with hbm := { b.hbm with laneErr := l.zipIdx.foldl (fun (m : List (Nat × Nat)) (x : Nat × Nat) =>
      Sp.set 0 m (64 * s + x.2) (min x.1 0xFFFFFFFF)) b.hbm.laneErr } }
    let b := (b.wr pg R.HBM_CMP_BUSY 0).wr pg R.HBM_CMP_ERRS (min (l.foldl (· + ·) 0) 0x7FFFFFFF)
    b.fire pg R.HBM_EVT_CMP_DONE

/-- The key of a lane's setting. -/
def delayKey (s rate pc kind lane : Nat) : Nat := (((s * 8 + rate) * 32 + pc) * 8 + kind) * 64 + lane

/-- A write of HBM_DLY_SEL (R340, R351): the setting is stored for its rate. -/
def hbmDelaySet (b : Body) (s v : Nat) : Body :=
  let pg := Pg.hbm s 2
  let rate := bitField v 31 28
  let kind := bitField v 27 25
  let pc := bitField v 24 20
  let lane := bitField v 19 14
  if 6 ≤ kind ∨ 40 ≤ lane then b
  else
    let b := ((b.wr pg R.HBM_DLY_RATE rate).wr pg R.HBM_DLY_KIND kind).wr pg R.HBM_DLY_PC pc
    let b := (b.wr pg R.HBM_DLY_LANE lane).wr pg R.HBM_DLY_VAL v
    if 7 ≤ rate then b
    else { b with hbm := { b.hbm with delay := Sp.set 0 b.hbm.delay (delayKey s rate pc kind lane) (v % 1024) } }

/-- HBM_TRN_GO (R351). -/
def hbmTrnMark (b : Body) (s : Nat) : Body :=
  let pg := Pg.hbm s 2
  let r := b.rd pg R.HBM_TRN_RATE
  if 7 ≤ r then b
  else b.hwr s R.HBM_TRAINED (setBitField (b.hrd s R.HBM_TRAINED) r r (b.rd pg R.HBM_TRN_VALUE))

/-- HBM_INJ_GO (R352). -/
def hbmEccInject (b : Body) (s : Nat) : Body :=
  let k := b.rd (Pg.hbm s 3) R.HBM_INJ_KIND
  if k = 3 then b
  else { b with hbm := { b.hbm with arm := Sp.ins b.hbm.arm (8 * s + b.rd (Pg.hbm s 3) R.HBM_INJ_PORT) k } }

end Body

end Sys2Proof.Machine
end

