-- ==== Sys2Proof/Machine/Link.lean ====
section
/-! DEFINITION. The Far controllers' links (R343 to R348, R354, R355). -/

namespace Sys2Proof.Machine

/-! The codes of FAR_STATE (R345). -/
def FAR_OFF : Nat := 0
def FAR_TRAINING : Nat := 1
def FAR_ENUM : Nat := 2
def FAR_READY : Nat := 3
def FAR_RECOVERY_ST : Nat := 4
def FAR_FAILED : Nat := 5

namespace Body

def fwr (b : Body) (p : Nat) (f : Fld) (v : Nat) : Body := b.wr (Pg.far p 0) f v

/-- The far reads in front of their queues that a lost link leaves unreadable: each in turn (R348). -/
def failReads (b : Body) (p q : Nat) : Nat → Body
  | 0 => b
  | n + 1 =>
    let x := b.queueOf q
    match x.spans with
    | [] => b
    | s :: rest =>
      if s.far ∧ s.port = p ∧ s.flight ≠ 0 then failReads (b.refillFar q x s rest true) p q n else b

/-- The requests outstanding on a port that loses its link: reads are unreadable, migrations abandoned (R348). -/
def farLoseRequests (b : Body) (p : Nat) : Body :=
  (b.buf.queues.map (·.1)).foldl (fun b q =>
    let b := match (b.queueOf q).migr with
      | some m => if m.port = p then b.abandonMigr q else b
      | none => b
    b.failReads p q (inFlight (b.queueOf q))) b

/-- A write of FAR_LINK_EN that changes it (R344, R345). -/
def farLinkEnable (b : Body) (p : Nat) (on : Bool) : Body :=
  let was := b.frd p R.FAR_STATE
  let b := if on then b.mark (Mk.farOn p) else b
  let b := b.fwr p R.FAR_LINK_EN (b2n on)
  if on then b
  else
    let b := b.farMove p FAR_OFF
    if was = FAR_READY ∨ was = FAR_RECOVERY_ST then b.farLoseRequests p else b

/-- PERST_N released after FAR_PERST_MS: training begins (R344). -/
def farPerstRelease (b : Body) (p : Nat) : Body :=
  if b.on (Pg.far p 0) R.PG_EN ∧ b.frd p R.FAR_LINK_EN = 1 ∧ b.frd p R.FAR_STATE = FAR_OFF ∧
      b.passed (Mk.farOn p) (max 100 (b.frd p R.FAR_PERST_MS) * 1000000) then b.farMove p FAR_TRAINING else b

/-- The link reaches L0 in Flit mode (R344), at a speed code and a width. -/
def farLinkTrained (b : Body) (p speed width : Nat) : Body :=
  if b.frd p R.FAR_STATE = FAR_TRAINING then
    ((b.fwr p R.FAR_SPEED speed).fwr p R.FAR_WIDTH width).farMove p FAR_ENUM
  else b

/-- HDM decoder 0 is programmed: the port is READY with a device of `gib` GiB (R344, R346). -/
def farEnumDone (b : Body) (p gib : Nat) : Body :=
  if b.frd p R.FAR_STATE = FAR_ENUM then
    let b := ((b.fwr p R.FAR_MEM_SIZE (min gib 2048)).fwr p R.FAR_ENUM_RC 0).fwr p R.FAR_LINK_GEN (b.frd p R.FAR_LINK_GEN + 1)
    b.farMove p FAR_READY
  else b

/-- Training or enumeration fails (R344): 1 no CXL.mem, 2 no memory range, 3 Memory_Active timeout; in training, 4. -/
def farEnumFail (b : Body) (p rc : Nat) : Body :=
  let st := b.frd p R.FAR_STATE
  if st = FAR_TRAINING ∨ st = FAR_ENUM then
    let b := b.fwr p R.FAR_ENUM_RC (if st = FAR_TRAINING then 4 else rc)
    (b.farMove p FAR_FAILED).fire (Pg.far p 0) R.FAR_EVT_ENUM_FAIL
  else b

/-- A FAILED port tries again from step 2 of R344, 1 s after it failed. -/
def farRetry (b : Body) (p : Nat) : Body :=
  if ¬ b.passed (Mk.farFailed p) 1000000000 then b
  else if b.frd p R.FAR_STATE = FAR_FAILED ∧ b.frd p R.FAR_LINK_EN = 1 ∧ b.on (Pg.far p 0) R.PG_EN then b.farMove p FAR_TRAINING else b

/-- The link enters Recovery: requests are held (R345). -/
def farRecovery (b : Body) (p : Nat) : Body :=
  if b.frd p R.FAR_STATE = FAR_READY then (b.farMove p FAR_RECOVERY_ST).count (Pg.far p 0) FAR_RECOVERY else b

/-- A Recovery returns to L0 (R345). -/
def farRecoveryExit (b : Body) (p : Nat) : Body :=
  if b.frd p R.FAR_STATE = FAR_RECOVERY_ST then b.farMove p FAR_READY else b

/-- A failed Recovery, or a loss of the link (R345, R348). -/
def farLinkDown (b : Body) (p : Nat) : Body :=
  let st := b.frd p R.FAR_STATE
  if st = FAR_READY ∨ st = FAR_RECOVERY_ST then
    let b := (b.farMove p FAR_FAILED).count (Pg.far p 0) FAR_LINK_DOWN
    (b.fault (Pg.far p 0) R.FAR_FLT_LINK { detail := p }).farLoseRequests p
  else b

/-- A flit CRC error (R348): replayed, counted, and beyond RT_CXL_REPLAY in a millisecond reported. -/
def farFlitCrc (b : Body) (p : Nat) : Body :=
  let ms := b.clk / 1000000
  let l := (Sp.get [] b.far.replays p).filter fun e => decide (ms < e.1 + 11)
  let n := Sp.get 0 l ms + 1
  let b := { b with far := { b.far with replays := Sp.set [] b.far.replays p ((ms, n) :: l.filter fun e => e.1 != ms) } }
  let b := b.count (Pg.far p 0) FAR_REPLAY
  if b.rd Pg.sump R.RT_CXL_REPLAY < n then b.fire (Pg.far p 0) R.FAR_EVT_REPLAY_HI else b

/-- FAR_INJ_GO (R354). -/
def farInject (b : Body) (p : Nat) : Body :=
  match b.frd p R.FAR_INJ_KIND with
  | 0 => b.farFlitCrc p
  | 1 => { b with far := { b.far with armPoison := insertNat p b.far.armPoison } }
  | 2 => { b with far := { b.far with armHold := insertNat p b.far.armHold } }
  | _ => b.farRecovery p

/-- FAR_IO_GO: the request goes to the device (R355). -/
def farIoAccess (b : Body) (p : Nat) : Body :=
  let pg := Pg.far p 1
  if b.on pg R.FAR_IO_BUSY ∨ 2 ≤ b.rd pg R.FAR_IO_SPACE then b
  else if ¬ b.farReady p then b.wr pg R.FAR_IO_RC 4
  else
    let mem := b.rd pg R.FAR_IO_SPACE == 1
    (b.wr pg R.FAR_IO_BUSY 1).emit (.cxlIo p (b.on pg R.FAR_IO_WR) mem
      (if mem then b.rd pg R.FAR_IO_ADDR_LO + 2 ^ 32 * b.rd pg R.FAR_IO_ADDR_HI else b.rd pg R.FAR_IO_ADDR_LO % 2 ^ 15)
      (b.rd pg R.FAR_IO_DATA) (b.rd pg R.FAR_IO_BE))

/-- The access ends with a result (0 OK, 1 Unsupported Request, 2 Completer Abort, 3 timeout) and the device's data (R355). -/
def farIoDone (b : Body) (p rc data : Nat) : Body :=
  let pg := Pg.far p 1
  if ¬ b.on pg R.FAR_IO_BUSY then b
  else
    let b := (b.wr pg R.FAR_IO_BUSY 0).wr pg R.FAR_IO_RC rc
    if rc = 0 ∧ b.rd pg R.FAR_IO_WR = 0 then b.wr pg R.FAR_IO_DATA data else b

/-- CXLp_PERST_N is asserted while the port is OFF (R345). -/
def perstPin (b : Body) (p : Nat) : Bool := b.sup.mode == .running && b.frd p R.FAR_STATE == FAR_OFF

/-- The level of output `o` (R502): as an engine reset leaves it, or as its block drives it since. While the test logic holds the pins the
boundary-scan register drives them (R507). -/
def pinLevel (b : Body) (o : Pin) : Level :=
  let run := b.sup.mode == .running
  let low := fun (x : Bool) => if x then Level.low else Level.high
  if b.sup.testPins then
    (match o with | .tdo => .data | .thermtripN => low b.thermTripped | _ => .scan)
  else match o with
    | .netTx p => if run && (b.laneOwner p).isSome && b.rd (Pg.lane p) R.PG_PWR_STATE == 0 then .data else .idle
    | .pcieTx => if run && 5 ≤ b.boot.reached then .data else .idle
    | .cxlTx p => if run && b.frd p R.FAR_STATE != FAR_OFF then .data else .idle
    | .cxlRefclk p => if run && b.on (Pg.far p 0) R.PG_EN then .data else .idle
    | .cxlPerstN p => low (b.perstPin p)
    | .xspiRstN => low (b.sup.mode == .off || b.sup.mode == .held)
    | .xspiCsN => .high
    | .xspiClk => .low
    | .synce k => match b.synceDivider k with | some _ => if run then .data else .low | none => .low
    | .ppsOut => low (!b.lamp.ppsOut)
    | .tdo => .float
    | .faultN => low b.faultPin
    | .thermtripN => low b.thermTripped

end Body

end Sys2Proof.Machine
end

