-- ==== Sys2Proof/Machine/Loops.lean ====
section
/-! DEFINITION. The Governor's loops that act on power, the Sump's rates, refresh, retraining and the step cap (R298, R299,
R315, R332, R339, R342). What a loop measures over time it takes from what the engine has counted; a read-eye margin reaches it as the
command's operand. -/

namespace Sys2Proof.Machine

namespace Body

/-- The capacity of a step in hundredths of a percent (R298). -/
def stepCap (s : Nat) : Nat := [10000, 7500, 5000, 2500].getD s 2500

/-- The largest step up to `env` whose capacity covers a load with the headroom; 0 where none does. -/
def stepFor (load head : Nat) : Nat → Nat
  | 0 => 0
  | s + 1 => if load * (100 + head) ≤ stepCap (s + 1) * 100 then s + 1 else stepFor load head s

/-! What the POWER loop measures every 100 µs (R298, R339). -/

/-- The averages, oldest first, with one at `now` added: those of the last `2 n` ms are kept, and one before them. -/
def meterAdd (l : List (Nat × Nat)) (now n v : Nat) : List (Nat × Nat) :=
  let old := l.filter fun e => decide (e.1 + 2 * n * 1000000 ≤ now)
  old.drop (old.length - 1) ++ (l.filter fun e => !decide (e.1 + 2 * n * 1000000 ≤ now)) ++ [(now, v)]

/-- The highest of the averages of the last `n` ms. -/
def meterMax (l : List (Nat × Nat)) (now n : Nat) : Nat :=
  ((l.filter fun e => decide (now < e.1 + n * 1000000)).map (·.2)).foldl max 0

/-- Whether the averages go back `n` ms. -/
def meterSpans (l : List (Nat × Nat)) (now n : Nat) : Bool := l.any fun e => decide (e.1 + n * 1000000 ≤ now)

/-- The time since the last average, 100 µs for the first one. -/
def meterSince (l : List (Nat × Nat)) (now : Nat) : Nat := match l.getLast? with | some e => now - e.1 | none => 100000

/-- GAL_DWELL and HBM_DWELL in ms: 0 acts as 1. -/
def galDwell (b : Body) (g : Nat) : Nat := max 1 (b.gprd g R.GAL_DWELL)
def hbmDwell (b : Body) (s : Nat) : Nat := max 1 (b.hrd s R.HBM_DWELL)

/-- The averages of a Gallery's load, and of a stack's demand. -/
def loadOf (b : Body) (g : Nat) : List (Nat × Nat) := Sp.get [] b.lamp.load g
def demandOf (b : Body) (s : Nat) : List (Nat × Nat) := Sp.get [] b.hbm.load s

/-- The load of a Gallery since it was last measured, in hundredths of a percent of 10.8 Gpps, rounded down. -/
def loadMeasure (b : Body) (g : Nat) : Body :=
  let l := b.loadOf g
  let v := Sp.get 0 b.lamp.heads g * 100000 / (108 * meterSince l b.clk)
  { b with lamp := { b.lamp with heads := Sp.del b.lamp.heads g,
                                 load := Sp.set [] b.lamp.load g (meterAdd l b.clk (b.galDwell g) v) } }

/-- The bytes that a stack has served, over every port. -/
def servedBytes (b : Body) (s : Nat) : Nat := ((List.range 8).map fun p => b.ctr (Pg.hbm s 3) (HBM_BYTES p)).foldl (· + ·) 0

/-- The demand of a stack since it was last measured, in GB/s, rounded down. -/
def demandMeasure (b : Body) (s : Nat) : Body :=
  let l := b.demandOf s
  let v := (b.servedBytes s - Sp.get 0 b.hbm.served s) / meterSince l b.clk
  { b with hbm := { b.hbm with served := Sp.set 0 b.hbm.served s (b.servedBytes s),
                               load := Sp.set [] b.hbm.load s (meterAdd l b.clk (b.hbmDwell s) v) } }

/-- Whether 100 µs have passed since a loop last measured. -/
def meterDue (l : List (Nat × Nat)) (now : Nat) : Bool := decide (100000 ≤ meterSince l now)

/-- PG_PWR_REQ taken from the POWER loop; the loop's action runs on while the Gallery wakes (R30). -/
def powerTake (g v : Nat) (b : Body) : Body :=
  let b := b.pwrReqTake g v
  b.govBegin LOOP_POWER g (b.galState g == 7)

/-- The POWER loop on a Gallery (R298): L is the highest average of the last GAL_DWELL, and what must have held throughout GAL_DWELL is asked of
the highest L in it. A setting outside the envelope goes to the nearest one inside (R28). -/
def powerDecide (b : Body) (g : Nat) : Body :=
  let n := b.galDwell g
  let load := meterMax (b.loadOf g) b.clk n
  let peak := meterMax (b.loadOf g) b.clk (2 * n)
  let long := meterSpans (b.loadOf g) b.clk n
  let req := b.gpReq g
  let old := req % 4
  let env := b.gprd g R.GAL_ENV_STEP
  let head := b.gprd g R.GAL_HEADROOM
  let up := stepFor load head env
  let down := stepFor peak head env
  let step := if up < old then up else if old < down ∧ long then down else old
  let er := b.gprd g R.GAL_ENV_REST
  let rest := if er = 3 ∧ b.parkOk g then 3 else if 2 ≤ er ∧ long ∧ peak < b.gprd g R.GAL_NAP_THR then 2 else if 1 ≤ er then 1 else 0
  let v := step + 4 * rest
  if env < old ∨ er < req / 4 then
    let w := min old env + 4 * min (req / 4) er
    b.govAct LOOP_POWER g (if env < old then 1 else 2) RSN_ENVELOPE load (if env < old then env else er) req w (powerTake g w)
  else if v = req then b
  else
    let rsn := if old < step ∨ (old = step ∧ req / 4 < rest) then LOAD_LOW else LOAD_HIGH
    let act := if step = old then 2 else 1
    let bound := if step = old then b.gprd g R.GAL_NAP_THR else stepCap (max old step) * 100 / (100 + head)
    b.govAct LOOP_POWER g act rsn load bound req v (powerTake g v)

/-- A decision of the POWER loop on a Gallery, every 100 µs (R298): it measures, and acts. -/
def powerLoop (b : Body) (g : Nat) : Body :=
  if meterDue (b.loadOf g) b.clk then (b.loadMeasure g).powerDecide g else b

/-- The slowest trained rate of the envelope that carries a demand of `d` GB/s with the headroom (R339), looked for from
`slow` down to `fast`. -/
def rateFor (b : Body) (s d fast : Nat) : Nat → Nat
  | 0 => fast
  | n + 1 =>
    let r := fast + n
    if b.rateOk s r ∧ d * (100 + b.hrd s R.HBM_HEADROOM) * 1000 ≤ 92 * ratePeak r * 100 then r else b.rateFor s d fast n

/-- A pin rate taken from the POWER loop; the loop's action runs on while the stack steps (R30). -/
def sumpTake (s r : Nat) (b : Body) : Body :=
  let b := b.rateTake s r
  b.govBegin LOOP_POWER (0x100 + s) (b.hrd s R.HBM_STEP_BUSY == 1)

/-- The trained rate of an envelope that is nearest to a rate outside it (R28). -/
def rateNearest (b : Body) (s cur fast slow : Nat) : Nat :=
  let l := ((List.range (slow + 1 - fast)).map (fast + ·)).filter fun r => b.rateOk s r
  if cur < fast then l.headD cur else l.getLastD cur

/-- The POWER loop's choice of a stack's pin rate (R299, R339): the demand is the highest average of the last HBM_DWELL, and a step down must
have qualified throughout it. One stack steps at a time. A rate outside the envelope goes to the nearest one inside (R28). -/
def rateDecide (b : Body) (s : Nat) : Body :=
  let n := b.hbmDwell s
  let d := meterMax (b.demandOf s) b.clk n
  let peak := meterMax (b.demandOf s) b.clk (2 * n)
  let long := meterSpans (b.demandOf s) b.clk n
  let cur := b.hrd s R.HBM_RATE_REQ
  let fast := b.hrd s R.HBM_ENV_FAST
  let slow := b.hrd s R.HBM_ENV_SLOW
  let up := b.rateFor s d fast (slow + 1 - fast)
  let down := b.rateFor s peak fast (slow + 1 - fast)
  let out := decide (cur < fast ∨ slow < cur)
  let r := if out then b.rateNearest s cur fast slow else if up < cur then up else if cur < down ∧ long then down else cur
  if r = cur ∨ (List.range 4).any (fun i => b.hrd i R.HBM_STEP_BUSY == 1) then b
  else
    let rsn := if out then RSN_ENVELOPE else if cur < r then LOAD_LOW else LOAD_HIGH
    let bound := if out then (if cur < fast then fast else slow) else ratePeak (max cur r) * 92 / 1000
    b.govAct LOOP_POWER (0x100 + s) 3 rsn d bound cur r (sumpTake s r)

/-- The same every 100 µs. -/
def sumpRate (b : Body) (s : Nat) : Body :=
  if meterDue (b.demandOf s) b.clk then (b.demandMeasure s).rateDecide s else b

/-! What the REFRESH loop measures (R332): the corrected errors counted at its decisions of the last 11 s. -/

/-- The count at a time: that of the last decision by then, none where there was none. -/
def errsAt (l : List (Nat × Nat)) (t : Nat) : Option Nat := ((l.filter fun e => decide (e.1 ≤ t)).getLast?).map (·.2)

/-- The corrected errors of the `k`-th second before `now`, where the decisions go back so far. -/
def errsIn (l : List (Nat × Nat)) (now k : Nat) : Option Nat :=
  if now < (k + 1) * 1000000000 then none
  else match errsAt l (now - k * 1000000000), errsAt l (now - (k + 1) * 1000000000) with
    | some x, some y => some (x - y)
    | _, _ => none

/-- A decision's count added. -/
def errsMeasure (b : Body) (s : Nat) : Body :=
  let l := Sp.get [] b.hbm.errs s
  let old := l.filter fun e => decide (e.1 + 10000000000 ≤ b.clk)
  let l := old.drop (old.length - 1) ++ (l.filter fun e => !decide (e.1 + 10000000000 ≤ b.clk)) ++ [(b.clk, b.ctr (Pg.hbm s 3) 0)]
  { b with hbm := { b.hbm with errs := Sp.set [] b.hbm.errs s l } }

/-- The REFRESH loop on a stack (R332): it goes by the corrected errors of the last second, and down by those of each of the last 10. -/
def refreshLoop (b : Body) (s : Nat) : Body :=
  let b := b.errsMeasure s
  let secs := (List.range 10).map (errsIn (Sp.get [] b.hbm.errs s) b.clk)
  let ce := ((secs.headD none).getD 0)
  let m := b.hrd s R.HBM_REF_MULT
  let env := b.hrd s R.HBM_REF_ENV
  let hi := b.hrd s R.HBM_CE_HI
  let lo := b.hrd s R.HBM_CE_LO
  let b := if hi < ce then b.fire (Pg.hbm s 0) R.HBM_EVT_CE_HI else b
  let set := fun v (b : Body) => b.hwr s R.HBM_REF_MULT v
  if env < m then b.govAct LOOP_REFRESH s 2 RSN_ENVELOPE ce env m env (set env)
  else if hi < ce then (if m < env then b.govAct LOOP_REFRESH s 1 RSN_ERROR_RATE ce hi m (m + 1) (set (m + 1)) else b)
  else if secs.all (fun x => match x with | some n => decide (n < lo) | none => false) ∧ 1 < m then b.govAct LOOP_REFRESH s 2 RSN_ERROR_RATE ce lo m (m - 1) (set (m - 1))
  else b

/-- The step cap set, and the Galleries' steps with it. -/
def setCap (v : Nat) (b : Body) : Body := (b.wr Pg.lamp R.TH_CAP v).stepAll

/-- Whether a condition has held for `n` ns. -/
def heldFor (b : Body) (t : Option Nat) (n : Nat) : Bool := match t with | some a => decide (a + n ≤ b.clk) | none => false

/-- The THERMAL loop (R315). -/
def thermalLoop (b : Body) : Body :=
  let cap := b.rd Pg.lamp R.TH_CAP
  let hot := b.heldFor b.lamp.hotAt 10000000
  let input := if hot then b.rd Pg.lamp R.TH_JMAX else b.rd Pg.lamp R.TH_PWR_EST
  let bound := if hot then b.rd Pg.lamp R.TH_HOT * 8 else b.rd Pg.lamp R.TH_PWR_LIMIT
  if hot ∨ b.heldFor b.lamp.powAt 10000000 then
    if cap < 3 then b.govAct LOOP_THERMAL 0xFF 1 RSN_TEMP input bound cap (cap + 1) (setCap (cap + 1)) else b
  else if b.heldFor b.lamp.coolAt 100000000 ∧ 0 < cap then
    b.govAct LOOP_THERMAL 0xFF 2 RSN_TEMP (b.rd Pg.lamp R.TH_JMAX)
      ((b.rd Pg.lamp R.TH_HOT - b.rd Pg.lamp R.TH_HYST) * 8) cap (cap - 1) (setCap (cap - 1))
  else b

/-! The RETRAIN loop (R342). -/

/-- A pseudo-channel retrained at the current rate: its stored settings for that rate become the controller's own again. -/
def pcRetrained (s pc : Nat) (b : Body) : Body :=
  let lo := delayKey s (b.hrd s R.HBM_RATE_CUR) pc 0 0
  { b with hbm := { b.hbm with delay := Sp.clearRange b.hbm.delay lo (lo + 512) } }

/-- Whether a stack's demand, as last measured, is below RT_DEMAND_MAX % of its sustained rate: 92 % of peak (R321). -/
def demandLow (b : Body) (s : Nat) : Bool :=
  let d := match (b.demandOf s).getLast? with | some e => e.2 | none => 0
  decide (d * 1000 * 100 < 92 * ratePeak (b.hrd s R.HBM_RATE_CUR) * b.rd Pg.sump R.RT_DEMAND_MAX)

/-- HBM_PC_RETRAIN: by a pseudo-channel's read-eye margin in percent of the UI and its corrected errors of the last second; whether this is
the periodic check, which comes every RT_CHECK_S (R342). A pin-rate step is waited for (R338). -/
def pcRetrain (b : Body) (s pc margin : Nat) (periodic : Bool) : Body :=
  if periodic ∧ ¬ b.passed (Mk.check (pcKey s pc)) (max 1 (b.rd Pg.sump R.RT_CHECK_S) * 1000000000) then b else
  let b := if periodic then b.mark (Mk.check (pcKey s pc)) else b
  let lim := b.rd Pg.sump R.RT_HBM_MARGIN
  let thr := b.rd Pg.sump R.RT_CE_THR
  let ce := ((Sp.get [] b.hbm.pcErr (pcKey s pc)).filter fun t => decide (b.clk < t + 1000000000)).length
  if ¬ b.on Pg.sump R.RT_HBM_EN ∨ ¬ b.demandLow s ∨ b.hrd s R.HBM_STEP_BUSY = 1 then b
  else if margin < lim then
    b.govAct LOOP_RETRAIN s 1 (if periodic then RSN_WINDOW else RSN_ERROR_RATE) margin lim pc pc (pcRetrained s pc)
  else if thr < ce then b.govAct LOOP_RETRAIN s 1 RSN_ERROR_RATE ce thr pc pc (pcRetrained s pc)
  else b

/-- A re-adaptation of a port noted; after the third within 1 s the loop leaves the port (R342). -/
def readaptNote (p : Nat) (b : Body) : Body :=
  let l := (Sp.get [] b.gov.readapt p).filter (fun t => b.clk < t + 1000000000) ++ [b.clk]
  let b := { b with gov := { b.gov with readapt := Sp.set [] b.gov.readapt p l } }
  if 3 ≤ l.length then
    ({ b with gov := { b.gov with giveUp := insertNat p b.gov.giveUp } }).fire Pg.sump R.RT_EVT_SER_GIVEUP
  else b

/-- SERDES_READAPT: PORT_HI_SER has been set throughout RT_SER_DWELL (R342). -/
def serdesReadapt (b : Body) (p : Nat) : Body :=
  if ¬ b.on Pg.sump R.RT_SER_EN ∨ b.prd p R.PORT_HI_SER = 0 ∨ b.gov.giveUp.contains p ∨
      ¬ b.passed (Mk.hiSer p) (b.rd Pg.sump R.RT_SER_DWELL * 1000000) then b
  else b.govAct LOOP_RETRAIN (0x200 + p / 8) 2 RSN_ERROR_RATE (b.prd p R.PORT_HI_SER) (b.rd Pg.sump R.RT_SER_DWELL) p p (readaptNote p)

/-- The replays of a link in each of the last 10 whole milliseconds, the fewest (R342). -/
def replaysLow (b : Body) (p : Nat) : Nat :=
  let now := b.clk / 1000000
  let l := (List.range 10).map fun k => if now < k + 1 then 0 else Sp.get 0 (Sp.get [] b.far.replays p) (now - (k + 1))
  l.foldl min (l.headD 0)

/-- CXL_RECOVERY: a link's replays have been above RT_CXL_REPLAY in every one of the last 10 ms (R342); LOG_INPUT shows the fewest. -/
def cxlRecovery (b : Body) (p : Nat) : Body :=
  let lim := b.rd Pg.sump R.RT_CXL_REPLAY
  let replays := b.replaysLow p
  if ¬ b.on Pg.sump R.RT_CXL_EN ∨ replays ≤ lim ∨ ¬ b.farReady p then b
  else
    let gen := b.frd p R.FAR_LINK_GEN
    b.govAct LOOP_RETRAIN (0x300 + p) 3 RSN_ERROR_RATE replays lim gen gen fun b =>
      (b.farRecovery p).govBegin LOOP_RETRAIN (0x300 + p) true

end Body

end Sys2Proof.Machine
end

