-- ==== Sys2Proof/Machine/Rim.lean ====
section
/-! DEFINITION. Rimstone: the audit snapshot, the evaluation of the ledgers, and the injection (R273 to R279, R284). -/

namespace Sys2Proof.Machine

namespace Body

def sumNat (l : List Nat) : Nat := l.foldl (· + ·) 0

/-- The packets in queues that no error has taken out of them. -/
def queued (b : Body) : Nat :=
  sumNat (b.buf.queues.map fun e =>
    let x := e.2
    let cells := x.head ++ (x.spans.map (·.cells)).flatten ++ x.tail
    (((cells.map (·.pid)).eraseDups).filter fun i => match b.pkt i with | some p => !p.hole | none => false).length)

/-- The sum of the credits of a slice (R276), signed. -/
def creditSum (b : Body) (g : Nat) : Int :=
  ((b.sch.credit.filter fun e => b.nodeSlice (e.1 / 2 ^ 20) (e.1 % 2 ^ 20) == g).map (·.2)).foldl (· + ·) 0

/-- The cells wherever they are: free, held by packets, booked as orphans, out of service. -/
def cellSum (b : Body) : Nat :=
  b.buf.freeList + (b.buf.cells.filter fun e => !b.buf.orphans.contains e.1).length + b.buf.orphanBooked + b.buf.outSvc

/-- The balance of a ledger (R276). -/
def balance (b : Body) (l : Nat) : Nat :=
  if l < 8 then sumNat ((List.range 64).map fun i => (b.fifo (64 * l + i)).length)
  else if l < 16 then
    (b.pipe.stage7.filter fun i => match b.pkt i with
      | some p => p.gal == l - 8 && !p.copy && !p.admitted
      | none => false).length
  else if l < 24 then (b.sch.egr.filter fun e => e.slice == l - 16).length
  else if l = 24 then b.cellSum
  else if l = 25 then b.queued
  else if l = 26 then sumNat (b.buf.queues.map fun e => e.2.sump)
  else if l = 27 then sumNat (b.buf.queues.map fun e => e.2.farSpans + (if e.2.migr.isSome then 1 else 0))
  else if l < 44 then (b.allocOf (l - 28)).length
  else if l < 52 then encSigned 64 (b.creditSum (l - 44))
  else if l = 52 then
    sumNat ((b.pipe.pol.filter fun e => polValid (b.ent Tbl.pol e.1)).map fun e => e.2.tc + e.2.tp)
  else if l = 53 then sumNat (b.stat.lines.map fun e => e.2.pkts)
  else sumNat (b.stat.lines.map fun e => e.2.bytes)

/-- The difference of a total from the value that it is fixed at (R275): the cells, and the buffers of each enabled pool. -/
def fixDiff (b : Body) (l : Nat) : Nat :=
  if l = 24 then wrapSub 64 b.cellSum chmTotal
  else if 28 ≤ l ∧ l < 44 ∧ b.poolOn (l - 28) then
    wrapSub 64 ((b.allocOf (l - 28)).length + b.prd' (l - 28) R.POOL_FREE_CNT + (b.deadOf (l - 28)).length) (b.prd' (l - 28) R.POOL_COUNT)
  else 0

/-- A number for each of the 55 ledgers. -/
def ledgers (f : Nat → Nat) : List (Nat × Nat) := ((List.range 55).map fun l => (l, f l)).filter fun e => e.2 != 0

/-- An audit snapshot is due (R274): every ledger is copied at one edge with its time, or the snapshot is skipped while an evaluation runs. -/
def rimSnapshot (b : Body) : Body :=
  if ¬ b.on Pg.rim R.RIM_EN then b
  else if b.rim.snapOpen then (b.sat Pg.rim R.RIM_OVR).fire Pg.rim R.RIM_EVT_OVR
  else
    let arm := b.rim.selfNext.foldl (fun m e => Sp.set 0 m e.1 (wrapAdd 64 (Sp.get 0 m e.1) e.2)) b.rim.arm
    let ns := b.tod / 65536
    let b := (b.wr Pg.rim R.RIM_AUD_SEC (ns / 1000000000)).wr Pg.rim R.RIM_AUD_NS (ns % 1000000000)
    { b with rim := { b.rim with snapOpen := true, snapAt := b.tod, snapArm := arm, arm := [], selfNext := b.rim.selfArm, selfArm := [],
                                 snapBal := ledgers b.balance, snapFix := ledgers b.fixDiff,
                                 snapIn := ledgers fun l => Sp.get 0 b.rim.ins l,
                                 snapOut := ledgers fun l => Sp.get 0 b.rim.outs l } }

/-- The discrepancy of a ledger at the snapshot (R275): the balance's change, with what an injection adds, less what entered
and left; or what its total has come to differ from its fixed value. -/
def discrepancy (b : Body) (l : Nat) : Nat :=
  let r := b.rim
  let change := wrapSub 64 (wrapAdd 64 (Sp.get 0 r.snapBal l) (Sp.get 0 r.snapArm l)) (Sp.get 0 r.prevBal l)
  let flow := wrapSub 64 (wrapSub 64 (Sp.get 0 r.snapIn l) (Sp.get 0 r.prevIn l))
    (wrapSub 64 (Sp.get 0 r.snapOut l) (Sp.get 0 r.prevOut l))
  let d := wrapSub 64 change flow
  if d = 0 then wrapSub 64 (Sp.get 0 r.snapFix l) (Sp.get 0 r.prevFix l) else d

/-- A discrepancy reported (R279): its ledger and size, its total, count, event and fault; the record's time is the
snapshot's. -/
def rimReport (b : Body) (l d : Nat) : Body :=
  let b := { b with rim := { b.rim with disc := Sp.set 0 b.rim.disc l (wrapAdd 64 (Sp.get 0 b.rim.disc l) d) } }
  let b := (b.wr Pg.rim R.RIM_DISC_LEDGER l).wr Pg.rim R.RIM_DISC_SIZE_LO d
  let b := ((b.wr Pg.rim R.RIM_DISC_SIZE_HI (d / 2 ^ 32)).sat Pg.rim R.RIM_DISC_CNT).fire Pg.rim R.RIM_EVT_DISC
  let now := b.tod
  let b := ({ b with tod := b.rim.snapAt }).fault Pg.rim R.RIM_FLT_DISC
    { access := 9, space := 9, addr := d, detail := l, inj := Sp.get 0 b.rim.snapArm l != 0 }
  { b with tod := now }

/-- The evaluation of the ledgers ends (R274, R275, R279). The balances kept for the next audit are the real ones, and an
injection is used up. -/
def rimAudit (b : Body) : Body :=
  if ¬ b.rim.snapOpen then b
  else
    let ds := ((List.range 55).map fun l => (l, b.discrepancy l)).filter fun e => e.2 != 0
    let b := ds.foldl (fun b e => b.rimReport e.1 e.2) b
    let b := b.inc Pg.rim R.RIM_AUD_CNT
    { b with rim := { b.rim with snapOpen := false, prevBal := b.rim.snapBal, prevIn := b.rim.snapIn,
                                 prevOut := b.rim.snapOut, prevFix := b.rim.snapFix, snapFix := [], snapBal := [], snapIn := [], snapOut := [], snapArm := [] } }

/-- A parity error in Rimstone's own state (R279): the ledger that it touches, and the amount that its audit finds, are open. The audit after
next reports it. -/
def selfCheck (b : Body) : Body :=
  let (l, b) := b.free 8
  let (v, b) := b.free 64
  { b with rim := { b.rim with selfArm := Sp.set 0 b.rim.selfArm (l % 55) (1 + v % (2 ^ 64 - 1)) } }

/-- RIM_INJ_GO (R284): an amount for the audit of the next snapshot. -/
def rimInject (b : Body) : Body :=
  let l := b.rd Pg.rim R.RIM_INJ_LEDGER
  if 55 ≤ l then b
  else
    let v := encSigned 64 (signed 32 (b.rd Pg.rim R.RIM_INJ_AMT))
    { b with rim := { b.rim with arm := Sp.set 0 b.rim.arm l v } }

end Body

end Sys2Proof.Machine
end

