-- ==== Sys2Proof/Machine/Fmu.lean ====
section
/-! DEFINITION. The FMU (R457 to R469): records and merges, first-error capture, containment, and the clearing of faults. -/

namespace Sys2Proof.Machine

namespace Body

/-- A register field of the FMU page. -/
def mrd (b : Body) (f : Fld) : Nat := b.rd Pg.fmu f
def mwr (b : Body) (f : Fld) (v : Nat) : Body := b.wr Pg.fmu f v

/-- The record that a first fault makes (R462). -/
def recordOf (n : Nat) (r : Report) : FmuRec :=
  { sec := r.tod / 65536 / 1000000000 % 2 ^ 32, ns := r.tod / 65536 % 1000000000, seq := n, page := r.page / 0x1000,
    fatal := r.fatal, todValid := r.todValid, inj := r.info.inj, bit := r.bit, access := r.info.access, space := r.info.space,
    addr := r.info.addr, master := r.info.master, merge := 0, detail := r.info.detail }

/-- The bytes of a record, as a number (R462). -/
def recordBits (r : FmuRec) : Nat :=
  r.ns % 2 ^ 30 + 2 ^ 32 * r.sec + 2 ^ 64 * r.seq + 2 ^ 96 * (r.page % 2 ^ 12) +
  2 ^ 112 * (r.bit % 32 + 32 * b2n r.inj + 64 * b2n r.todValid + 128 * b2n r.fatal) +
  2 ^ 120 * (r.space % 16 + 16 * (r.access % 16)) + 2 ^ 128 * (r.addr % 2 ^ 64) + 2 ^ 192 * (r.master % 1024) +
  2 ^ 208 * (r.merge % 2 ^ 16) + 2 ^ 224 * (r.detail % 2 ^ 32)

/-- The record at a position of the ring, as a window read shows it; a position with an uncorrectable error reads zero
(R467). -/
def recordShow (b : Body) (pos : Nat) : Nat :=
  if b.irq.recBad.contains pos then 0
  else match b.irq.recs.find? (fun e => e.1 == pos) with
    | some e => recordBits e.2
    | none => 0

/-- First-error capture of a report whose fault is in record `n` (R464). -/
def firstError (b : Body) (n : Nat) (r : Report) : Body :=
  if b.mrd R.FMU_FE_VALID = 1 then b
  else
    let x := recordOf n r
    [(R.FMU_FE_VALID, 1), (R.FMU_FE_FATAL, b2n x.fatal), (R.FMU_FE_INJ, b2n x.inj), (R.FMU_FE_TOD_VALID, b2n x.todValid),
      (R.FMU_FE_ACCESS, x.access), (R.FMU_FE_SPACE, x.space), (R.FMU_FE_BIT, x.bit), (R.FMU_FE_PAGE, x.page),
      (R.FMU_FE_MASTER, x.master), (R.FMU_FE_ADDR_LO, x.addr), (R.FMU_FE_ADDR_HI, x.addr / 2 ^ 32), (R.FMU_FE_SEC, x.sec),
      (R.FMU_FE_NS, x.ns), (R.FMU_FE_SEQ, n), (R.FMU_FE_DETAIL, x.detail)].foldl (fun b e => b.mwr e.1 e.2) b

/-- The action of FMU_FATAL_ACT for a fatal fault of a page (R466). -/
def fmuContain (b : Body) (page : Nat) : Body :=
  let sc := scopeOf page
  if b.mrd R.FMU_FATAL_ACT ≠ 1 then b
  else if 0x10000 ≤ sc ∧ sc < 0x10008 then
    let g := sc - 0x10000
    if b.galInReset g ∨ (b.gp g).resetDue then b else (b.galResetReq g).wr (Pg.gallery g) R.PG_RESET_BUSY 1
  else if 0x10400 ≤ sc then b.ringReset (sc - 0x10400) false
  else b

/-- A fatal fault: its event, and the action (R458). -/
def fmuFatal (b : Body) (r : Report) : Body :=
  if r.fatal then (b.fire Pg.fmu R.FMU_EVT_FATAL).fmuContain r.page else b

/-- A new record (R460, R463, R467). -/
def fmuNew (b : Body) (r : Report) : Body :=
  let n := b.mrd R.FMU_REC_WR
  let pos := n % 1024
  let b := if 1024 ≤ wrapSub 32 n (b.mrd R.FMU_REC_RD) then (b.sat Pg.fmu R.FMU_REC_LOST).fire Pg.fmu R.FMU_EVT_LOST else b
  let hit := b.irq.recArm
  let b := { b with irq := { b.irq with
    recs := Sp.ins b.irq.recs pos (recordOf n r), recArm := false,
    recBad := if hit then insertNat pos b.irq.recBad else b.irq.recBad.erase pos,
    opened := Sp.ins b.irq.opened (scopeOf r.page) n } }
  let b := ((b.mwr R.FMU_REC_WR (n + 1)).firstError n r).closeScopes
  let b := b.fire Pg.fmu R.FMU_EVT_REC
  let b := b.holdEvent Pg.fmu R.FMU_EVT_HIGH
  let b := if hit then b.fault Pg.fmu R.FMU_FLT_REC_ECC { inj := true } else b
  b.fmuFatal r

/-- A fault merged into its scope's open record `n` (R460, R463). -/
def fmuMerge (b : Body) (n : Nat) (r : Report) : Body :=
  let b := b.sat Pg.fmu R.FMU_MERGE_TOTAL
  let b := match b.irq.recs.find? (fun e => e.1 == n % 1024) with
    | some (_, x) =>
      if x.seq = n then
        { b with irq := { b.irq with
          recs := Sp.ins b.irq.recs (n % 1024) { x with merge := min (x.merge + 1) 65535, fatal := x.fatal || r.fatal } } }
      else b
    | none => b
  (b.firstError n r).fmuFatal r

/-- The report that the FMU takes next: of those of one instant the lowest page, then the lowest bit (R460). -/
def nextReport (b : Body) : Option Report :=
  match b.irq.reports with
  | [] => none
  | r :: t =>
    some ((t.filter fun x => x.at_ == r.at_).foldl
      (fun m x => if x.page < m.page ∨ (x.page = m.page ∧ x.bit < m.bit) then x else m) r)

/-- The FMU takes a reported fault or a repeat (R460). -/
def fmuRecord (b : Body) : Body :=
  match b.nextReport with
  | none => b
  | some r =>
    let b := { b with irq := { b.irq with reports := b.irq.reports.erase r } }
    match b.irq.opened.find? (fun e => e.1 == scopeOf r.page) with
    | some e => b.fmuMerge e.2 r
    | none => b.fmuNew r

/-- FLT_STAT bits cleared by W1C (R457): a fault whose condition lasts stays set. -/
def fltClear (b : Body) (page v : Nat) : Body :=
  match kindAt page with
  | none => b
  | some k =>
    let lasts := fun (b : Body) (n : Nat) =>
      n == R.HBM_FLT_OVERTEMP && (List.range 4).any fun s => page == Pg.hbm s 0 && decide (840 ≤ b.stackTemp s)
    (k.fltBits.foldl (fun b n => if bitOn v n ∧ ¬ lasts b n then b.wr page (fltStat n) 0 else b) b).closeScopes

/-- A write of FLT_EN (R457): a set bit that becomes enabled is a reported fault. -/
def fltEnWrite (b : Body) (page v : Nat) : Body :=
  match kindAt page with
  | none => b
  | some k =>
    (k.fltBits.foldl (fun b n =>
      let was := b.on page (fltEn n)
      let b := b.wr page (fltEn n) (bitField v n n)
      if bitOn v n ∧ ¬ was ∧ b.on page (fltStat n) then b.report page n {} else b) b).closeScopes

/-- A write of FMU_REC_RD (R463). -/
def fmuRecRd (b : Body) (v : Nat) : Body :=
  if b.mrd R.FMU_REC_WR < v then b.fire Pg.fmu R.FMU_EVT_BADCFG else (b.mwr R.FMU_REC_RD v).holdEvent Pg.fmu R.FMU_EVT_HIGH

end Body

end Sys2Proof.Machine
end

