-- ==== Sys2Proof/Machine/Svy.lean ====
section
/-! DEFINITION. Survey counters (R470 to R476): what each event counts, how the counters follow it, windows and latches. -/

namespace Sys2Proof.Machine

namespace Body

/-! Events (R471). -/

/-- The occurrences, or bytes, so far of an event of kind E or B. Implementation events read as zero. -/
def svyTotal (b : Body) (blk inst ev : Nat) : Nat :=
  let c := fun i => b.ctr (Pg.lane inst) i
  let profs := fun (l : List Nat) => (List.range 64).foldl (fun n p => l.foldl (fun n i => n + b.ctr Pg.chmPC (16 * p + i)) n) 0
  match blk with
  | 0 =>
    if 512 ≤ inst then Sp.get 0 b.svy.ev (svyKey 0 inst ev)
    else match ev with
      | 0 => c RX_OK | 1 => c RX_BYTES | 2 => c RX_BYTES + 20 * c RX_OK
      | 3 => c TX_OK | 4 => c TX_BYTES | 5 => c TX_BYTES + 20 * c TX_OK
      | _ => 0
  | 1 =>
    match ev with
    | 0 => Sp.get 0 b.svy.ev (svyKey 1 inst 0)
    | 1 => Sp.get 0 b.svy.ev (svyKey 1 inst 1)
    | 2 => (List.range 64).foldl (fun n i => (List.range 4).foldl (fun n p => n + b.ctr (Pg.lane (64 * inst + i)) (ENT_DROP p)) n) 0
    | 5 => (List.range 3).foldl (fun n i => n + b.ctr (Pg.galPower inst) (GAL_WAKE_DOZE + i)) 0
    | _ => 0
  | 2 => if ev ≤ 1 then Sp.get 0 b.svy.ev (svyKey 2 0 ev) else 0
  | 3 =>
    match ev with
    | 0 => profs [ADM_PKTS]
    | 1 => profs [2, 3, 4, 5, 6, 7, 8, 9] + b.ctr Pg.chm ADM_DROP_PROF
    | 2 => profs [ADM_PUSHED]
    | 3 => b.ctr Pg.chm SUMP_SPANS_WR
    | 4 => b.ctr Pg.chm SUMP_SPANS_RD
    | 5 => b.ctr Pg.chm REFILL_LATE
    | _ => 0
  | 4 => if ev = 0 then Sp.get 0 b.svy.ev (svyKey 4 inst 0) else 0
  | 5 => if ev ≤ 1 then Sp.get 0 b.svy.ev (svyKey 5 inst ev) else 0
  | 6 =>
    match ev with
    | 0 => b.ctr (Pg.far inst 0) FAR_RD_BYTES
    | 1 => b.ctr (Pg.far inst 0) FAR_WR_BYTES
    | 2 => b.ctr (Pg.far inst 0) FAR_REPLAY
    | _ => 0
  | 7 => if ev ≤ 1 then Sp.get 0 b.svy.ev (svyKey 7 inst ev) else 0
  | 8 => if ev ≤ 1 then b.ctr (Pg.ring inst) (RING_JOBS + ev) else 0
  | 9 => if ev = 0 then b.cairn.flips else 0
  | _ => 0

/-- Whether a condition of kind L holds. Stalled dispatch is counted where a stall ends, by its length. -/
def svyCond (b : Body) (blk inst ev : Nat) : Bool :=
  match blk with
  | 0 =>
    if 512 ≤ inst then false
    else match ev with
      | 6 => (List.range 8).any fun i => Sp.get 0 b.net.pause (16 * inst + i) != 0
      | 7 => b.prd inst R.PORT_PFC_XOFF != 0
      | 8 => b.portUp inst
      | _ => false
  | 1 => if ev = 3 then b.on (Pg.preclass inst) R.ENT_OVERLOAD else if ev = 4 then decide (4 ≤ b.galState inst ∧ b.galState inst ≤ 6)
         else false
  | 4 => ev == 1 && b.sch.short.contains inst
  | 5 =>
    match ev with
    | 2 => b.hbm.panic.contains inst
    | 3 => b.hbm.drain.any fun k => k / 32 == inst
    | 4 => b.hbm.stalled.any fun e => e.1 == inst
    | _ => false
  | 7 =>
    ev == 2 && (List.range 8).all fun t =>
      let st := b.tst (8 * inst + t)
      st == TH_IDLE || st == TH_WAIT || st == TH_HALTED
  | 9 => ev == 1 && (List.range 8).any fun n => b.crd R.CAIRN_STATE n == CS_PENDING
  | _ => false

/-! Counters (R472). -/

/-- A counter's running count, and its count moved on by `n`: past 2^48 − 1 it continues from zero (R472). -/
def svyCount (b : Body) (i : Nat) : Nat := Sp.get 0 b.svy.cnt i
def svyAdd (b : Body) (i n : Nat) : Body :=
  let v := b.svyCount i + n
  let b := { b with svy := { b.svy with cnt := Sp.set 0 b.svy.cnt i (v % 2 ^ 48) } }
  if 2 ^ 48 ≤ v then
    (b.wr Pg.survey R.SVY_WRAP (setBitField (b.rd Pg.survey R.SVY_WRAP (i / 32)) (i % 32) (i % 32) 1) (i / 32)).fire Pg.survey
      R.SVY_EVT_WRAP
  else b

/-- The counters that are on, with their configurations. -/
def svyOn (b : Body) : List (Nat × Nat) :=
  (((b.entIdxs Tbl.svy).filter (· < 64)).map fun i => (i, b.ent Tbl.svy i)).filter fun e => svyEn e.2

/-- How much a counter in EDGE or WINDOW counts between two states. -/
def svyDelta (was b : Body) (e : Nat) : Nat :=
  let k := svyKind (svyBlk e) (svyInst e) (svyEvt e)
  if svyMode e = 1 then 0
  else if k = some 2 then
    b2n (b.svyCond (svyBlk e) (svyInst e) (svyEvt e) && !was.svyCond (svyBlk e) (svyInst e) (svyEvt e))
  else b.svyTotal (svyBlk e) (svyInst e) (svyEvt e) - was.svyTotal (svyBlk e) (svyInst e) (svyEvt e)

/-- The counters after a command that took the engine from one state to another (R472). A counter that the command configured
starts with the next one. -/
def svyNote (was b : Body) : Body :=
  if b.rd Pg.survey R.SVY_RUN = 0 ∨ was.rd Pg.survey R.SVY_RUN = 0 then b
  else
    b.svyOn.foldl (fun c e =>
      let n := if was.ent Tbl.svy e.1 = e.2 then svyDelta was b e.2 else 0
      if n = 0 then c else c.svyAdd e.1 n) b

/-- `n` ns pass for the counters in LEVEL (R472). -/
def svyLevel (b : Body) (n : Nat) : Body :=
  if b.rd Pg.survey R.SVY_RUN = 0 then b
  else
    (b.svyOn.filter fun e => svyMode e.2 == 1 && b.svyCond (svyBlk e.2) (svyInst e.2) (svyEvt e.2)).foldl
      (fun b e => b.svyAdd e.1 n) b

/-- A count entry (R470). -/
def svyShow (b : Body) (i : Nat) : Nat := b.svyCount i + 2 ^ 64 * Sp.get 0 b.svy.last i

/-! Windows and latches. -/

/-- A record offered to a telemetry ring; one that the ring does not take is discarded (R443). Ring 0xFF is none. -/
def telSend (b : Body) (n type : Nat) (body : List Byte) : Body :=
  if 239 < n then b
  else match b.telRecord n type body with
    | some b => b
    | none => b.count Pg.hif HIF_TEL_DROP

/-- A counter's record at a window end (R488). -/
def svyTel (b : Body) (i : Nat) : Body :=
  if b.on Pg.survey R.SVY_TEL_EN ∧ bitOn (b.rd Pg.survey R.SVY_TELSEL (i / 32)) (i % 32) then
    b.telSend (b.rd Pg.survey R.SVY_TEL_RING) 0x11
      (leBytes 1 i ++ leBytes 3 0 ++ leBytes 8 (Sp.get 0 b.svy.last i) ++ timeBytes b.tod ++ leBytes 38 0)
  else b

/-- A dispatch stall of `n` ns has ended (R471): the counters on that condition count it once, or in LEVEL its time. -/
def svyStall (b : Body) (n : Nat) : Body :=
  if b.rd Pg.survey R.SVY_RUN = 0 then b
  else (b.svyOn.filter fun e => svyBlk e.2 == 2 && svyEvt e.2 == 2).foldl
    (fun b e => b.svyAdd e.1 (if svyMode e.2 = 1 then n else 1)) b

/-- A dispatch stall ends (R137, R183): its clocks, of a Gallery at 1.8 GHz or of D15, are its length for Survey (DESIGN CHOICE, log entry
47). -/
def stallEnd (b : Body) (x : StallEnd) : Body :=
  (b.vaultStallEnd x).svyStall (match x with | .bank n => n * 5 / 9 | .writeback n => n / 2)

/-- `n` ns pass for a Gallery's pipeline slots, six each clock of an active one: those that no head took are unused (R82, R471). -/
def svySlots (b : Body) (g n : Nat) : Body :=
  let st := b.galState g
  let heads := Sp.get 0 b.svy.ev (svyKey 1 g 0)
  let (x, was) := Sp.get (0, 0) b.svy.slots g
  let x := if st ≤ 3 then x + n * 6 * 450 * (4 - st) else x
  let b := { b with svy := { b.svy with slots := Sp.set (0, 0) b.svy.slots g (x % 1000, heads) } }
  if heads - was < x / 1000 then b.svyBump 1 g 1 (x / 1000 - (heads - was)) else b

/-- Time passes by `f`; where the time of day passes a whole multiple of the window in force its end is due (R473). -/
def winWatch (b : Body) (f : Body → Body) : Body :=
  let c := f b
  let w := 1000 * max 1 b.svy.win
  if b.ns / w ≠ c.ns / w then { c with svy := { c.svy with winDue := true } } else c

/-- The window in progress ends (R473): a write of SVY_WIN_US applies from here. With SVY_RUN = 0 every count holds. -/
def svyWindow (b : Body) : Body :=
  let b := { b with svy := { b.svy with winDue := false, win := b.rd Pg.survey R.SVY_WIN_US } }
  let run := b.rd Pg.survey R.SVY_RUN == 1
  let b := (b.svyOn.filter fun e => svyMode e.2 == 2).foldl (fun b e =>
    let b := if run then
        { b with svy := { b.svy with last := Sp.set 0 b.svy.last e.1 (b.svyCount e.1), cnt := Sp.del b.svy.cnt e.1 } }
      else b
    b.svyTel e.1) b
  b.fire Pg.survey R.SVY_EVT_WINDOW

/-- A window ends where its end is due (R473). -/
def svyWindowEnd (b : Body) : Body := if b.svy.winDue then b.svyWindow else b

/-- A write of TOD_STEP (R302, R473): an accepted step ends the window in progress. -/
def todStepWrite (b : Body) : Body :=
  if 999999999 < b.rd Pg.lamp R.TOD_SET_NS then b.todStep else b.todStep.svyWindow

/-- SVY_LATCH (R474). -/
def svyLatch (b : Body) : Body :=
  let b := (b.svyOn.filter fun e => svyMode e.2 != 2).foldl (fun b e =>
    { b with svy := { b.svy with last := Sp.set 0 b.svy.last e.1 (b.svyCount e.1) } }) b
  (b.wr Pg.survey R.SVY_LATCH_SEC b.todSec).wr Pg.survey R.SVY_LATCH_NS b.todNs

/-- A write of counter `i`'s configuration by a master (R475): a customer thread's needs its mask bit. -/
def svyConfig (b : Body) (master i v : Nat) : Body :=
  if Master.isCustomer master ∧ ¬ bitOn (b.rd Pg.survey R.SVY_USER_CFG (i / 32)) (i % 32) then
    b.fire Pg.survey R.SVY_EVT_DENIED
  else (b.entPutBy master (Pg.survey + 0xC00 + 16 * i + 12) Tbl.svy i v 0).1

end Body

end Sys2Proof.Machine
end

