-- ==== Sys2Proof/Machine/Snap.lean ====
section
/-! DEFINITION. Statistics snapshots (R481, R482, R490) and the Echo archive (R487). -/

namespace Sys2Proof.Machine

/-! The codes of SNP_RC (R490). -/
def SNP_OK : Nat := 1
def SNP_LINK : Nat := 2
def SNP_FAR : Nat := 3
def SNP_TOD_INVALID : Nat := 4

namespace Body

/-- A register field of the snapshot page. -/
def nrd (b : Body) (f : Fld) : Nat := b.rd Pg.snp f
def nwr (b : Body) (f : Fld) (v : Nat) : Body := b.wr Pg.snp f v

/-- The far address and the target time of a snapshot. -/
def snpAddr (b : Body) : Nat := b.nrd R.SNP_ADDR_LO + 2 ^ 32 * b.nrd R.SNP_ADDR_HI
def snpTarget (b : Body) : Nat :=
  ((b.nrd R.SNP_TSECLO + 2 ^ 32 * b.nrd R.SNP_TSECHI) * 1000000000 + b.nrd R.SNP_TNS) * 65536

/-- Whether SNP_GO is ignored (R482, R490). -/
def snpBad (b : Body) : Bool :=
  let p := b.nrd R.SNP_PORT
  let n := b.nrd R.SNP_COUNT
  let lo := b.snpAddr
  let hi := lo + 64 + 16 * n
  let d := b.frd p R.FAR_DATA_BASE * 2 ^ 30
  let dn := b.frd p R.FAR_DATA_SIZE * 2 ^ 30
  let sb := b.frd p R.FAR_SIDE_BASE * 2 ^ 30
  b.nrd R.SNP_BUSY == 1 || n == 0 || decide (2 ^ 30 < b.nrd R.SNP_FIRST + n) || lo % 64 != 0 ||
  decide (999999999 < b.nrd R.SNP_TNS) || decide (b.frd p R.FAR_MEM_SIZE * 2 ^ 30 < hi) ||
  decide (d < hi ∧ lo < d + dn) || decide (sb < hi ∧ lo < sb + dn / 32)

/-- The telemetry record of a snapshot that ends now (R488). -/
def snpTel (b : Body) : Body :=
  b.telSend (b.nrd R.SNP_TEL_RING) 0x12
    (leBytes 4 (b.nrd R.SNP_SEQ) ++ leBytes 1 (b.nrd R.SNP_RC) ++ leBytes 1 b.snp.port ++ leBytes 2 0 ++ leBytes 8 b.snpAddr ++
      leBytes 4 (b.nrd R.SNP_FIRST) ++ leBytes 4 (b.nrd R.SNP_COUNT) ++ timeBytes b.snp.start ++ timeBytes b.tod ++ leBytes 12 0)

/-- A snapshot ends without a header (R482). -/
def snpEnd (b : Body) (rc : Nat) : Body :=
  (({ b with snp := { b.snp with waiting := false } }).nwr R.SNP_BUSY 0 |>.nwr R.SNP_RC rc).snpTel

/-- A pair write has failed, or the port has left READY (R482). -/
def snpAbort (b : Body) : Body :=
  ((b.snpEnd SNP_FAR).fire Pg.snp R.SNP_EVT_FAIL).fault Pg.snp R.SNP_FLT_FAR { access := 4, space := 3 + b.snp.port, addr := b.snpAddr }

/-- The start of a snapshot (R481): every delta present goes into the Sump. -/
def snpBegin (b : Body) : Body :=
  let b := { b with snp := { b.snp with waiting := false, start := b.tod } }
  if ¬ b.farReady b.snp.port then b.snpEnd SNP_LINK
  else (b.stat.lines.map (·.1)).foldl (fun b k => b.statWriteback k) b

/-- SNP_GO (R481, R482). -/
def snpGo (b : Body) : Body :=
  if b.snpBad then b.fire Pg.snp R.SNP_EVT_BADCFG
  else
    let b := (b.nwr R.SNP_BUSY 1).nwr R.SNP_RC 0
    let b := { b with snp := { waiting := true, port := b.nrd R.SNP_PORT, start := b.tod } }
    if b.nrd R.SNP_AT_EN = 0 then b.snpBegin
    else if ¬ b.on Pg.lamp R.TOD_VALID then b.snpEnd SNP_TOD_INVALID
    else if b.snpTarget ≤ b.tod then b.snpBegin
    else b

/-- The time of day reaches the target of an armed snapshot (R481). -/
def snpStart (b : Body) : Body := if b.snp.waiting ∧ b.snpTarget ≤ b.tod then b.snpBegin else b

/-- One pair copied (R478, R481). -/
def snpPair (b : Body) (i : Nat) : Body :=
  match b.pairRead (b.nrd R.SNP_FIRST + i) with
  | (b, v) => b.farWrite b.snp.port (b.snpAddr + 64 + 16 * i) (leBytes 16 v)

/-- Every pair write completes, and the header is written (R481). Where a completion is withheld (R354), the write fails after
FAR_TIMEOUT. -/
def snpDone (b : Body) : Body :=
  let p := b.snp.port
  if b.nrd R.SNP_BUSY = 0 ∨ b.snp.waiting ∨ ¬ b.farReady p then b
  else if b.far.armHold.contains p then
    ({ b with far := { b.far with armHold := b.far.armHold.erase p } }).snpAbort
  else
    let b := (List.range (b.nrd R.SNP_COUNT)).foldl (fun b i => b.snpPair i) b
    let n := b.nrd R.SNP_SEQ
    let h := leBytes 4 n ++ leBytes 4 (b.nrd R.SNP_FIRST) ++ leBytes 4 (b.nrd R.SNP_COUNT) ++ timeBytes b.snp.start ++
      timeBytes b.tod ++ leBytes 31 0 ++ [0x80]
    let b := ((b.farWrite p b.snpAddr h).nwr R.SNP_BUSY 0).nwr R.SNP_RC SNP_OK
    (b.snpTel.nwr R.SNP_SEQ (n + 1)).fire Pg.snp R.SNP_EVT_DONE

/-- A write of the snapshot fails, or its port has left READY (R482). -/
def snpFail (b : Body) : Body := if b.nrd R.SNP_BUSY = 1 ∧ ¬ b.snp.waiting then b.snpAbort else b

/-! The Echo archive (R487). -/

/-- The record at a position of the live ring as a read shows it, and whether it is uncorrectable: then it has ECHO_UE alone
(R487). -/
def echoShow (b : Body) (pos : Nat) : Body × List Byte × Bool :=
  match b.sumpRead 4 (Sump.echoBase + 256 * pos) 256 with
  | (b, l, false) => (b, l, false)
  | (b, _, true) => (b.count (Pg.echo 0) ECHO_UE_CNT, List.replicate 18 0 ++ [0x20] ++ List.replicate 237 0, true)

/-- Whether a complete block is due for the archive. -/
def archDue (b : Body) : Bool :=
  b.on (Pg.echo 0) R.ECHO_ARCH_EN && decide (4096 ≤ wrapSub 32 (b.rd (Pg.echo 0) R.ECHO_WR) (4096 * b.echo.arch))

/-- The next block, whatever became of this one. -/
def archStep (b : Body) : Body :=
  let n := (b.echo.arch + 1) % 2 ^ 20
  ({ b with echo := { b.echo with arch := n } }).wr (Pg.echo 0) R.ECHO_ARCH_NEXT n

/-- A block skipped. -/
def archSkip (b : Body) : Body :=
  ((b.count (Pg.echo 0) ECHO_ARCH_SKIP).fire (Pg.echo 0) R.ECHO_EVT_SKIP).archStep

/-- One record copied; counts those that are unreadable. -/
def archCopy (b : Body) (port base blk x i : Nat) : Body × Nat :=
  match b.echoShow ((4096 * blk + i) % 2 ^ 25) with
  | (b, l, ue) => (b.farWrite port (base + 256 * i) l, x + b2n ue)

/-- A complete block is archived into a buffer of a far port's memory, or skipped, or abandoned (R487). -/
def echoArchive (b : Body) (port : Nat) : Body :=
  let blk := b.echo.arch
  if ¬ b.archDue then b
  else
    match b.poolFor 4 (2 + port) 1048576 with
    | none => b.archSkip
    | some n =>
      if b.poolLevel n = 2 ∨ 2 ^ 25 < wrapSub 32 (b.rd (Pg.echo 0) R.ECHO_WR) (4096 * blk) then b.archSkip
      else match b.poolReq 4 (2 + port) 1048576 with
        | (b, .ok n i) =>
          if b.far.armHold.contains port ∨ ¬ b.farReady port then
            let b := ({ b with far := { b.far with armHold := b.far.armHold.erase port } }).poolFree n i 0x3FF
            ((b.count (Pg.echo 0) ECHO_ARCH_FAIL).fault (Pg.echo 0) R.ECHO_FLT_ARCH { access := 4, space := 3 + port }).archStep
          else
            let base := b.bufAddr n i
            let (b, ue) := (List.range 4096).foldl (fun x k => x.1.archCopy port base blk x.2 k) (b, 0)
            let ts := fun k => Mem.read (b.farMem port) (base + 256 * k + 4) 10
            let b := b.telSend (b.rd (Pg.echo 0) R.ECHO_TEL_RING) 0x10
              (leBytes 4 blk ++ leBytes 1 n ++ leBytes 3 0 ++ leBytes 4 i ++ ts 0 ++ ts 4095 ++ leBytes 4 ue ++ leBytes 24 0)
            ((b.count (Pg.echo 0) ECHO_ARCH_BLOCKS).fire (Pg.echo 0) R.ECHO_EVT_ARCH).archStep
        | (b, _) => b.archSkip

end Body

end Sys2Proof.Machine
end

