-- ==== Sys2Proof/Machine/Tables.lean ====
section
/-! DEFINITION. The registers of the lookup tables: exact-match contexts (R156, R157, R166), LPM_DRAIN (R144), Dripstone
compare-and-clear (R150), the CAM scrubbers (R123, R148), the injections (R131, R162, R167), and the digest comparator
(R163). -/

namespace Sys2Proof.Machine

/-- EXM_RC codes (R166). -/
def XRC_BAD_TYPE : Nat := 4
def XRC_STAGED : Nat := 5

namespace Body

/-! Exact-match contexts. -/

/-- The key that a context's registers hold (R166). -/
def ctxKey (b : Body) (c : Nat) : XKey :=
  let w := fun i => b.rd (Pg.exmCtx c) R.EXM_KEY i
  let half := fun i => w i + 2 ^ 32 * w (i + 1) + 2 ^ 64 * w (i + 2)
  let ty := b.rd (Pg.exmCtx c) R.EXM_TYPE
  { ty := ty, k1 := half 0, k2 := if ty = 3 then half 3 else 0 }

/-- The outcome of a command in its context's registers. -/
def ctxOut (b : Body) (c : Nat) (x : XOut) : Body :=
  let p := Pg.exmCtx c
  let b := (b.wr p R.EXM_RC x.rc).wr p R.EXM_MOVES x.moves
  let b := match x.loc with
    | some l => (b.wr p R.EXM_LOC l.code).wr p R.EXM_IN_STASH (match l with | .stash _ => 1 | .slot _ => 0)
    | none => b.wr p R.EXM_IN_STASH 0
  match x.res with
  | some r => b.wr p R.EXM_RES r
  | none => b

/-- HASH: the candidate buckets of the key, where it has two. -/
def ctxHash (b : Body) (c : Nat) : Body :=
  let p := Pg.exmCtx c
  match b.exmBuckets (b.ctxKey c) with
  | [x, y] => ((b.ctxOut c { rc := 0 }).wr p R.EXM_H0 x).wr p R.EXM_H1 y
  | _ => b.ctxOut c { rc := 0 }

/-- A write of EXM_OPCTL (R156, R157, R166). -/
def exmOp (b : Body) (c master ty op : Nat) : Body :=
  let p := Pg.exmCtx c
  let b := b.wr p R.EXM_TYPE ty
  if op = 0 ∨ 6 ≤ op then b
  else if b.on p R.EXM_BUSY then b.fire Pg.exm R.EXM_EVT_BADCFG
  else if (b.boundSlot master).isSome then b.ctxOut c { rc := XRC_STAGED }
  else if ¬ (1 ≤ ty ∧ ty ≤ 3) then b.ctxOut c { rc := XRC_BAD_TYPE }
  else if op = 5 then b.ctxHash c
  else
    let (b, x) := b.exmCommand op (b.ctxKey c) (b.rd p R.EXM_RES)
    b.ctxOut c x

/-! LPM_DRAIN. -/

/-- A write of 1 to LPM_DRAIN (R144). -/
def lpmDrain (b : Body) : Body := b.wr Pg.lpm R.LPM_DRAIN 1

/-! Dripstone. -/

/-- The valid entries of Dripstone, rising. -/
def dsValidIdxs (b : Body) : List Nat := (b.entIdxs Tbl.ds).filter fun i => dsValid (b.ent Tbl.ds i)

/-- The valid withdraw entries. -/
def dsWdCnt (b : Body) : Nat := (b.dsValidIdxs.filter fun i => dsWithdraw (b.ent Tbl.ds i)).length

/-- The lowest invalid address at or above `i`, among `n` addresses. -/
def dsFreeFrom (b : Body) : Nat → Nat → Option Nat
  | 0, _ => none
  | n + 1, i => if dsValid (b.ent Tbl.ds i) then b.dsFreeFrom n (i + 1) else some i

/-- The lowest invalid address (DS_FREE_HINT). -/
def dsFreeHint (b : Body) : Option Nat := b.dsFreeFrom 65536 0

/-- Compare-and-clear (R150): DS_CAC_RC, 1 cleared, 2 another generation, 3 invalid. The clear is a write, so it counts in
DS_GEN (R146). -/
def dsClear (b : Body) (i gen : Nat) : Body × Nat :=
  let e := b.ent Tbl.ds i
  if ¬ dsValid e then (b, 3)
  else if dsGen e ≠ gen then (b, 2)
  else (((b.putEnt Tbl.ds i (setBitField 0 199 192 (dsGen e + 1))).discardOld (.ent Tbl.ds i)), 1)

/-- The loop's compare-and-clear of an entry it has acted on. -/
def dsRetire (b : Body) (i gen : Nat) : Body :=
  let (b, rc) := b.dsClear i gen
  b.wr Pg.ds R.DS_CAC_RC rc

/-- DS_CAC_GO. -/
def dsCac (b : Body) : Body :=
  let (b, rc) := b.dsClear (b.rd Pg.ds R.DS_CAC_IDX) (b.rd Pg.ds R.DS_CAC_GEN)
  b.wr Pg.ds R.DS_CAC_RC rc

/-! Scrubbers. -/

/-- A CAM entry rewritten from its copy. -/
def camFix (b : Body) (tid i : Nat) : Body :=
  { b with pipe := { b.pipe with camFlip := Sp.del b.pipe.camFlip (entKey tid i) } }

/-- The classifier's scrubber reads an entry, one every CLS_SCRUB_INT ns (R123). -/
def clsScrub (b : Body) (i : Nat) : Body :=
  if ¬ b.on Pg.cls R.CLS_SCRUB_EN ∨ 262144 ≤ i then b
  else b.paced Mk.clsScrub (max 16 (b.rd Pg.cls R.CLS_SCRUB_INT)) fun b =>
  if b.parityBad Tbl.cls i then b.fault Pg.cls R.CLS_FLT_COPY { access := 9, space := 6, addr := Tbl.cls * 2 ^ 56 + i, inj := true }
  else if b.camFlip Tbl.cls i = 0 then b
  else
    let b := (((b.camFix Tbl.cls i).sat Pg.cls R.CLS_SCRUB_FIX).wr Pg.cls R.CLS_ERR_KIND 3).wr Pg.cls R.CLS_ERR_IDX i
    b.fire Pg.cls R.CLS_EVT_SCRUB

/-- Dripstone's scrubber reads an entry, one every DS_SCRUB_INT ns (R148). -/
def dsScrub (b : Body) (i : Nat) : Body :=
  if ¬ b.on Pg.ds R.DS_SCRUB_EN ∨ 65536 ≤ i then b
  else b.paced Mk.dsScrub (max 16 (b.rd Pg.ds R.DS_SCRUB_INT)) fun b =>
  if b.parityBad Tbl.ds i then b.fault Pg.ds R.DS_FLT_COPY { access := 9, space := 6, addr := Tbl.ds * 2 ^ 56 + i, inj := true }
  else if b.camFlip Tbl.ds i = 0 then b
  else ((b.camFix Tbl.ds i).sat Pg.ds R.DS_SCRUB_FIX).fire Pg.ds R.DS_EVT_SCRUB

/-! Injections. -/

/-- The stored parity of an entry made wrong. -/
def breakParity (b : Body) (tid i : Nat) : Body :=
  if b.parityBad tid i then b else { b with pipe := { b.pipe with parBad := b.pipe.parBad ++ [(tid, i)] } }

/-- A key bit of a CAM entry turned over. -/
def flipCam (b : Body) (tid i bit : Nat) : Body :=
  { b with pipe := { b.pipe with camFlip := Sp.set 0 b.pipe.camFlip (entKey tid i) (b.camFlip tid i ^^^ 2 ^ bit) } }

/-- CLS_INJ_GO (R131). -/
def clsInject (b : Body) : Body :=
  let i := b.rd Pg.cls R.CLS_INJ_IDX
  let bit := b.rd Pg.cls R.CLS_INJ_BIT
  if b.on Pg.cls R.CLS_INJ_COPY then b.breakParity Tbl.cls i
  else if 160 ≤ bit then b else b.flipCam Tbl.cls i bit

/-- DS_INJ_GO (R167). -/
def dsInject (b : Body) : Body :=
  let i := b.rd Pg.ds R.DS_INJ_IDX
  let bit := b.rd Pg.ds R.DS_INJ_BIT
  if b.on Pg.ds R.DS_INJ_COPY then b.breakParity Tbl.ds i
  else if 176 ≤ bit then b else b.flipCam Tbl.ds i bit

/-- VLT_INJ_GO (R162, R165). -/
def vltInject (b : Body) : Body :=
  let t := b.rd Pg.vault R.VLT_INJ_TABLE
  let i := b.rd Pg.vault R.VLT_INJ_IDX
  if 1 ≤ t ∧ t ≤ 9 ∧ i < tblCount t then b.breakParity t i else b

/-! Digests (R163). -/

/-- The digest of one exact-match entry: type, key and result. -/
def entryDigest (k : XKey) (res : Nat) : Nat := crc32c (k.bytes ++ leBytes 3 res)

/-- The digest of exact-match region `r`. -/
def exmDigest (b : Body) (r : Nat) : Nat :=
  let t := (b.entIdxs Tbl.exm).filterMap fun n => (b.exmKeyAt n).map fun k => (k, xRes (b.ent Tbl.exm n))
  let s := (b.entIdxs Tbl.stash).filterMap fun n => (b.stashKeyAt n).map fun k => (k, xRes (b.ent Tbl.stash n % 2 ^ 128))
  (t ++ s).foldl (fun d x => if (b.exmRegion x.1).contains r then d ^^^ entryDigest x.1 x.2 else d) 0

/-- The CRC-32C of `n` entries of a table from `i` on. -/
def lineDigest (b : Body) (tid i n : Nat) : Nat :=
  ((List.range n).foldl (fun c k => crc32cFrom c (leBytes (tblStride tid) (b.ent tid (i + k)))) 0xFFFFFFFF) ^^^ 0xFFFFFFFF

/-- The digest of a region as the tables stand. -/
def regionDigest (b : Body) (r : Nat) : Nat :=
  if r < 512 then b.exmDigest r
  else if r < 896 then b.lineDigest Tbl.trie (16384 * (r - 512)) 16384
  else if r < 960 then b.lineDigest Tbl.nh (65536 * (r - 896)) 65536
  else if r < 1092 then b.lineDigest Tbl.ecmp (65536 * (r - 960)) 65536
  else b.lineDigest Tbl.encap (16384 * (r - 1092)) 16384

/-- The comparison of a region at the end of its pass. -/
def digestCompare (b : Body) (r : Nat) : Body :=
  let e := b.ent Tbl.digest r
  if ¬ bitOn e 63 then b
  else if b.pipe.digDirty.contains r then b.sat Pg.vault R.VLT_DIG_SKIP
  else if b.regionDigest r = e % 2 ^ 32 then b
  else
    let b := (b.sat Pg.vault R.VLT_DIG_MISM).wr Pg.vault R.VLT_DIG_LAST r
    (b.fire Pg.vault R.VLT_EVT_DIGEST).fault Pg.vault R.VLT_FLT_DIGEST { access := 9, detail := r }

/-- Whether the comparator reads an entry in the pass of region `r`. The lines of the exact-match table, which regions 0 to 511 share, are
read in the pass of their bucket modulo 512 (DESIGN CHOICE, log entry 42). -/
def digReads (r : Nat) (e : Nat × Nat) : Bool :=
  if e.1 = Tbl.exm then e.2 / 4 % 512 == r else (lineRegions e.1 e.2).contains r

/-- The lines of a region: 18,874,368 in 1,152 regions. -/
def regionLines : Nat := 16384

/-- A region's pass ends, once its lines have been read at one every VLT_DIG_INT ns, with the parity of its lines checked as they are read (R162), and the next region's begins; a pass over all
of them counts in VLT_DIG_PASS. -/
def digestCheck (b : Body) : Body :=
  let r := b.pipe.digPass
  if ¬ b.on Pg.vault R.VLT_DIG_EN then b
  else b.paced Mk.digest (regionLines * max 2 (b.rd Pg.vault R.VLT_DIG_INT)) fun b =>
    let b := (b.pipe.parBad.filter (digReads r)).foldl (fun b e => b.parityRead e.1 e.2) b
    let b := b.digestCompare r
    let n := (r + 1) % 1152
    let b := { b with pipe := { b.pipe with digPass := n, digDirty := b.pipe.digDirty.filter (· ≠ n) } }
    if n = 0 then b.inc Pg.vault R.VLT_DIG_PASS else b

end Body

end Sys2Proof.Machine
end

