-- ==== Sys2Proof/Machine/Migrate.lean ====
section
/-! DEFINITION. The MIGRATE loop (R143, R144, R150, R158, R167): the trie of a root as a set of prefixes, its nodes rebuilt in
free lines with the root's node rewritten in place, and the loop's five actions. -/

namespace Sys2Proof.Machine

/-- A prefix below a node: its bits past the node's position, as count and number, and its next hop. -/
abbrev Pfx := Nat × Nat × Nat

/-- The stride of a node at position `p` of an address of `w` bits (R141): 7, or what is left with one more bit for the
longest length. -/
def strideAt (w p : Nat) : Nat := min 7 (w + 1 - p)

/-- A prefix of `len` bits added to a set, or its next hop replaced. -/
def pfxPut (l : List (Nat × Nat × Nat)) (len v nh : Nat) : List (Nat × Nat × Nat) :=
  (l.filter fun x => !(x.1 == len && x.2.1 == v)) ++ [(len, v, nh)]

/-- A prefix of `len` bits removed from a set. -/
def pfxDel (l : List (Nat × Nat × Nat)) (len v : Nat) : List (Nat × Nat × Nat) :=
  l.filter fun x => !(x.1 == len && x.2.1 == v)

/-- The words of a result line. -/
def resLine (l : List Nat) : Nat := (l.foldr (fun nh v => nh % 2 ^ 24 + 2 ^ 32 * v) 0)

/-- Lists of at most 16 elements. -/
def sixteens : Nat → List Nat → List (List Nat)
  | 0, _ => []
  | n + 1, l => if l = [] then [] else l.take 16 :: sixteens n (l.drop 16)

/-- The node at `line` for the prefixes below position `p`, with everything under it in lines from `cur` on: the lines with
their values, deepest first, and the next line (R140, R141). `fuel` levels may still follow. -/
def layout (w : Nat) : Nat → Nat → List Pfx → Nat → Nat → List (Nat × Nat) × Nat
  | 0, _, _, _, cur => ([], cur)
  | fuel + 1, p, l, line, cur =>
    let s := strideAt w p
    let inner := ((l.filter fun x => decide (x.1 < s)).map fun x => (2 ^ x.1 - 1 + x.2.1, x.2.2)).foldr
      (Body.insSorted fun x y => decide (x.1 ≤ y.1)) []
    let below := l.filter fun x => decide (s ≤ x.1)
    let vs := (below.map fun x => x.2.1 / 2 ^ (x.1 - s)).foldr Body.insertNat []
    let res := (sixteens inner.length (inner.map (·.2))).map resLine
    let base := cur + res.length
    let node := (vs.foldl (fun m v => m + 2 ^ v) 0) + 2 ^ 128 * (inner.foldl (fun m x => m + 2 ^ x.1) 0) + 2 ^ 256 * base +
      2 ^ 288 * (16 * cur) + 2 ^ 448 * s + 2 ^ 456 * p + 2 ^ 511
    let start : List (Nat × Nat) × Nat := ((List.range res.length).map (fun i => (cur + i, res.getD i 0)), base + vs.length)
    let r := (List.range vs.length).foldl (fun (acc : List (Nat × Nat) × Nat) i =>
      let v := vs.getD i 0
      let sub := (below.filter fun x => x.2.1 / 2 ^ (x.1 - s) == v).map fun x => (x.1 - s, x.2.1 % 2 ^ (x.1 - s), x.2.2)
      let r := layout w fuel (p + s) sub (base + i) acc.2
      (acc.1 ++ r.1, r.2)) start
    (r.1 ++ [(line, node)], r.2)

namespace Body

/-- The node of a line at a position, where a walk would take it (R142). -/
def trieNode (b : Body) (line p : Nat) : Option Nat :=
  let e := b.ent Tbl.trie line
  if b.parityBad Tbl.trie line ∨ ¬ tnValid e ∨ tnBitpos e ≠ p then none else some e

/-- The prefixes of a subtree, as length, bits and next hop, and the lines it occupies. `v` is the bits above. -/
def triePfxs (b : Body) (w : Nat) : Nat → Nat → Nat → Nat → List (Nat × Nat × Nat) × List Nat
  | 0, _, _, _ => ([], [])
  | fuel + 1, line, p, v =>
    match b.trieNode line p with
    | none => ([], [line])
    | some e =>
      let s := tnStride e
      let at_ := (List.range s).flatMap fun j => (List.range (2 ^ j)).filterMap fun t =>
        let pos := 2 ^ j - 1 + t
        if p + j ≤ w ∧ bitOn (tnPfx e) pos then some (j, t, tnResBase e + popcount (tnPfx e) pos) else none
      let here := at_.filterMap fun x => (b.trieRes b.nowSeq x.2.2).map fun nh => (p + x.1, v * 2 ^ x.1 + x.2.1, nh)
      let lines := line :: (at_.map fun x => x.2.2 / 16).eraseDups
      if p + s ≤ w then
        ((List.range (2 ^ s)).filter fun c => bitOn (tnChild e) c).foldl (fun acc c =>
          let r := b.triePfxs w fuel (tnChildBase e + popcount (tnChild e) c) (p + s) (v * 2 ^ s + c)
          (acc.1 ++ r.1, acc.2 ++ r.2)) (here, lines)
      else (here, lines)

/-- The prefixes and lines of a root's trie. -/
def rootPfxs (b : Body) (idx : Nat) : List (Nat × Nat × Nat) × List Nat :=
  let e := b.ent Tbl.root idx
  if ¬ bitOn e 63 ∨ bitOn e 31 then ([], []) else b.triePfxs (famBits (idx % 2)) 128 (e % 2 ^ 23) 0 0

/-- The roots other than `idx` that have a trie. -/
def otherRoots (b : Body) (idx : Nat) : List Nat :=
  (b.entIdxs Tbl.root).filter fun i => i != idx && bitOn (b.ent Tbl.root i) 63 && !bitOn (b.ent Tbl.root i) 31

/-- The lines that hold something, that some root other than `idx` reaches, or that wait to be freed, rising. -/
def trieUsed (b : Body) (idx : Nat) : List Nat :=
  (b.pipe.trieFree ++ (b.otherRoots idx).flatMap fun i => (b.rootPfxs i).2).foldr insertNat (b.entIdxs Tbl.trie)

/-- The loop's read of a root and its trie: bad parity is counted (R162). -/
def trieRead (b : Body) (idx : Nat) : Body :=
  ((b.rootPfxs idx).2.eraseDups).foldl (fun b l => b.parityRead Tbl.trie l) (b.parityRead Tbl.root idx)

/-- The lowest run of `n` lines that takes no line of a rising list, from line `cur` on. -/
def runIn (n : Nat) : List Nat → Nat → Option Nat
  | [], cur => if cur + n ≤ 6291456 then some cur else none
  | u :: t, cur => if cur + n ≤ u then some cur else runIn n t (max cur (u + 1))

/-- A trie line written by the loop, seen at once by every view (R22, R144). -/
def trieWr (b : Body) (line v : Nat) : Body :=
  ((b.putEnt Tbl.trie line v).discardOld (.ent Tbl.trie line)).digMark (lineRegions Tbl.trie line)

/-- The digests of the regions of trie lines, where they are enabled, after the loop's writes (R163). -/
def keepDigests (b : Body) (lines : List Nat) : Body :=
  ((lines.flatMap fun l => lineRegions Tbl.trie l).eraseDups).foldl (fun b r =>
    let e := b.ent Tbl.digest r
    if bitOn e 63 then b.setEnt Tbl.digest r (setBitField e 31 0 (b.regionDigest r)) else b) b

/-- A root's trie given a new set of prefixes: new nodes and result lines in free lines, the root's node rewritten in place, and
the replaced lines put among those that LPM_DRAIN is to free (R144); none where the free lines do not suffice. -/
def rebuild (b : Body) (idx : Nat) (l : List (Nat × Nat × Nat)) : Option Body :=
  let w := famBits (idx % 2)
  let root := b.ent Tbl.root idx % 2 ^ 23
  let n := (layout w 32 0 l root 0).2
  let used := insertNat root ((b.rootPfxs idx).2.foldr insertNat (b.trieUsed idx))
  match runIn n used 0 with
  | none => none
  | some base =>
    let new := (layout w 32 0 l root base).1
    let old := ((b.rootPfxs idx).2.eraseDups).filter fun x =>
      x != root && !((b.otherRoots idx).any fun i => (b.rootPfxs i).2.contains x)
    let b := (new.foldl (fun b x => b.trieWr x.1 x.2) b).keepDigests (new.map (·.1))
    some { b with pipe := { b.pipe with trieFree := old.foldr insertNat b.pipe.trieFree } }

/-- A root whose trie the loop may change: valid, of good parity and not empty. -/
def rootReady (b : Body) (idx : Nat) : Bool :=
  bitOn (b.ent Tbl.root idx) 63 && !bitOn (b.ent Tbl.root idx) 31 && !b.parityBad Tbl.root idx && !b.pipe.newRoots.contains idx

/-- The loop's wait for the walks that may read replaced lines: it sets LPM_DRAIN, and its action runs on until LPM_DRAIN has returned
to 0 (R144). -/
def drainWait (b : Body) : Body := b.lpmDrain.govBegin LOOP_MIGRATE Tbl.trie true

/-- An entry that the loop clears once LPM_DRAIN has returned to 0 (R150). -/
def dsLater (b : Body) (i gen : Nat) : Body :=
  { b with pipe := { b.pipe with dsWait := b.pipe.dsWait.filter (fun e => e.1 ≠ i) ++ [(i, gen)] } }

/-- Every walk that began before the write of LPM_DRAIN has ended (R144): the loop frees the lines it has replaced and clears the
Dripstone entries it has acted on, and its action is complete. -/
def lpmDrainDone (b : Body) : Body :=
  let lines := b.pipe.trieFree
  let ents := b.pipe.dsWait
  let b := b.wr Pg.lpm R.LPM_DRAIN 0
  let b := { b with pipe := { b.pipe with trieFree := [], dsWait := [] } }
  let b := (lines.foldl (fun b l => b.trieWr l 0) b).keepDigests lines
  let b := ents.foldl (fun b e => b.dsRetire e.1 e.2) b
  b.govEnd LOOP_MIGRATE Tbl.trie

/-- The root, length and bits of the prefix of a Dripstone entry. -/
def dsRoot (e : Nat) : Nat := 2 * dsVrf e + dsAf e
def dsBits (e : Nat) : Nat := walkBits (famBits (dsAf e)) (dsAddr e % 2 ^ famBits (dsAf e)) 0 (dsLen e)

/-- An action of the MIGRATE loop: an action number, the table acted on, the measured count and its threshold; the spec gives
the loop no old and new actuator values. -/
def migrAct (b : Body) (action table input bound : Nat) (apply : Body → Body) : Body :=
  let (o, b) := b.free 32
  let (n, b) := b.free 32
  b.govAct LOOP_MIGRATE table action RSN_OCCUPANCY input bound o n apply

/-- MIGRATE (R150): a route entry's prefix goes into the trie; the entry is cleared once LPM_DRAIN has returned to 0, as the example
of R152 has it. -/
def migrate (b : Body) (i : Nat) : Body :=
  let e := b.ent Tbl.ds i
  let r := dsRoot e
  if ¬ dsValid e ∨ dsWithdraw e ∨ b.parityBad Tbl.ds i ∨ ¬ b.rootReady r then b
  else match b.rebuild r (pfxPut (b.rootPfxs r).1 (dsLen e) (dsBits e) (dsNh e)) with
    | none => b
    | some _ =>
      b.migrAct 1 Tbl.trie b.dsValidIdxs.length (b.rd Pg.ds R.DS_HIGH_THR) fun b =>
        let b := b.trieRead r
        (((b.rebuild r (pfxPut (b.rootPfxs r).1 (dsLen e) (dsBits e) (dsNh e))).getD b).dsLater i (dsGen e)).drainWait

/-- WITHDRAW (R150): the prefix leaves the trie, if it is there; the withdraw entry is cleared once LPM_DRAIN has returned to 0. -/
def withdraw (b : Body) (i : Nat) : Body :=
  let e := b.ent Tbl.ds i
  let r := dsRoot e
  let set := pfxDel (b.rootPfxs r).1 (dsLen e) (dsBits e)
  let there := b.rootReady r && decide (set.length < (b.rootPfxs r).1.length)
  if ¬ dsValid e ∨ ¬ dsWithdraw e ∨ b.parityBad Tbl.ds i ∨ (there ∧ (b.rebuild r set).isNone) then b
  else
    b.migrAct 2 Tbl.trie b.dsValidIdxs.length (b.rd Pg.ds R.DS_HIGH_THR) fun b =>
      let b := b.trieRead r
      ((if there then (b.rebuild r set).getD b else b).dsLater i (dsGen e)).drainWait

/-- STASH_REINSERT (R158): a stash entry is put into the table by the path of INSERT and then cleared; where the table has no
place it stays. -/
def stashReinsert (b : Body) (i : Nat) : Body :=
  match b.stashKeyAt i with
  | none => b
  | some k =>
    b.migrAct 3 Tbl.exm b.stashCnt (b.rd Pg.exm R.EXM_STASH_THR) fun b =>
      match b.exmInsertNew k (xRes (b.ent Tbl.stash i % 2 ^ 128)) with
      | (b', { rc := 0, loc := some (.slot _), .. }) => b'.exmErase k.wide (.stash i)
      | _ => if b.exmBuckets k = [] then b else b.inc Pg.exm R.EXM_ROT

/-- TRIE_COMPACT (R167): a root's trie is rebuilt in the lowest free lines. -/
def trieCompact (b : Body) (idx : Nat) : Body :=
  if ¬ b.rootReady idx ∨ (b.rebuild idx (b.rootPfxs idx).1).isNone then b
  else
    let (x, b) := b.free 32
    b.migrAct 4 Tbl.trie b.dsValidIdxs.length x fun b =>
      let b := b.trieRead idx
      ((b.rebuild idx (b.rootPfxs idx).1).getD b).drainWait

/-- ROOT_BUILD (R143): the root node of a newly valid VRF, or of one that is valid and has no trie, in a free line, then word 0 of
its root entry in one write. -/
def rootBuild (b : Body) (idx : Nat) : Body :=
  let e := b.ent Tbl.root idx
  if ¬ bitOn e 63 ∨ ¬ (bitOn e 31 ∨ b.pipe.newRoots.contains idx) then b
  else match runIn 1 (b.trieUsed idx) 0 with
    | none => b
    | some line =>
      let (x, b) := b.free 32
      b.migrAct 5 0xFF idx x fun b =>
        let new := (layout (famBits (idx % 2)) 32 0 [] line 0).1
        let b := new.foldl (fun b x => b.trieWr x.1 x.2) b
        let b := { b with pipe := { b.pipe with newRoots := b.pipe.newRoots.erase idx } }
        ((b.keepDigests [line]).putEnt Tbl.root idx (setBitField e 31 0 line)).discardOld (.ent Tbl.root idx)

end Body

end Sys2Proof.Machine
end

