-- ==== Sys2Proof/Machine/Views.lean ====
section
/-! DEFINITION. Windows and apertures (R35, R49 to R52): what each address in one shows, reads with their snapshots, and the
assembly of entries from word writes. -/

namespace Sys2Proof.Machine

/-- A place in a window: what the entry is, its stride in bytes, the byte of the entry, and whether reads show it as it stands
at each read (R35) instead of a snapshot. -/
structure View where
  of : Shown
  stride : Nat
  off : Nat
  live : Bool := false
deriving DecidableEq, Repr

/-- A place that shows nothing. -/
def View.zero : View := { of := .none, stride := 4, off := 0, live := true }

/-- Entry `i` of a run of `n` entries of a stride, at a byte offset of the run. -/
def viewIn (stride n off : Nat) (f : Nat → Shown) : View :=
  if off / stride < n then { of := f (off / stride), stride := stride, off := off % stride } else View.zero

/-- The 64-bit counters of a page's window. -/
def viewCtr (page off : Nat) : View := viewIn 8 64 off (Shown.ctr page)

/-- The bits of a decision-log entry (R33). -/
def logBits (e : LogEntry) : Nat :=
  e.ns + 2 ^ 32 * e.sec + 2 ^ 64 * e.seq + 2 ^ 96 * (e.loop % 256 + 256 * (e.inst % 256)) +
  2 ^ 112 * (e.reason % 256 + 256 * (e.action % 128) + 32768 * b2n e.adv) + 2 ^ 128 * e.input + 2 ^ 160 * e.bound +
  2 ^ 192 * e.old + 2 ^ 224 * e.new

namespace Body

/-! What a window shows. -/

/-- Whether a lane's page is another port's: the lane belongs to an enabled port and is not its first (R97). -/
def notPort (b : Body) (lane : Nat) : Bool := match b.laneOwner lane with | some p => p != lane | none => false

/-- An access to the window of a lane page that is another port's sets PORT_EVT_NOTPORT (R97). -/
def noteNotPort (b : Body) (addr : Nat) : Body :=
  let page := pageOf addr
  if addr < 0x1000000 ∧ kindAt addr = some .lane ∧ b.notPort (64 * galOf page + (page / 0x1000 % 0x100 - 0x10)) then
    b.fire page R.PORT_EVT_NOTPORT
  else b

/-- The window of a MACsec page (R91, R92). -/
def viewMsec (b : Body) (g off : Nat) : View :=
  let base := b.rd (Pg.msec g) R.MSEC_WIN_BASE
  let at_ := fun stride count (f : Nat → Shown) =>
    viewIn stride 128 off fun i => if base + i < count then f (base + i) else .none
  match b.rd (Pg.msec g) R.MSEC_WIN_TBL with
  | 0 => at_ 16 64 (.ent (Tbl.secy g))
  | 1 => at_ 64 256 (.ent (Tbl.txSa g))
  | 2 => at_ 16 512 (.ent (Tbl.rxSc g))
  | 3 => at_ 64 2048 (.ent (Tbl.rxSa g))
  | 4 => at_ 128 64 (.secy g)
  | 5 => at_ 64 2304 (.sa g)
  | _ => View.zero

/-- Entries of a table through a window of `n`, from `base` on, where the table has `count`. -/
def viewTbl (tid stride n base count off : Nat) : View :=
  viewIn stride n off fun i => if base + i < count then .ent tid (base + i) else .none

/-- The window of a device-wide page. -/
def viewWide (b : Body) (page off : Nat) : View :=
  if page = Pg.lamp then viewIn 32 64 off (.ent Tbl.glow)
  else if page = Pg.governor then
    { viewIn 32 64 off (fun i => .log (64 * b.rd page R.GOV_LOG_WIN + i)) with live := true }
  else if page = Pg.icu 0 ∨ page = Pg.icu 1 then
    let bank := if page = Pg.icu 0 then 0 else 1
    let w := b.rd page R.ICU_WIN
    if w < 32 then viewIn 16 128 off fun i => .ent (Tbl.icu bank) (128 * w + i)
    else if off < 0x400 then { of := .bits bank (off % 0x200 / 4) (decide (0x200 ≤ off)), stride := 4, off := 0, live := true }
    else View.zero
  else if page = Pg.fmu then
    let w := b.rd page R.FMU_WIN
    if w < 16 then { viewIn 32 64 off (fun i => .rec_ (64 * w + i)) with live := true }
    else if w = 16 ∧ off < 0x200 then { of := .faults (off / 4), stride := 4, off := 0, live := true }
    else View.zero
  else if page = Pg.survey then
    if off < 0x400 then viewIn 16 64 off .count else viewIn 16 64 (off - 0x400) (.ent Tbl.svy)
  else View.zero

/-- The window of a page in a Gallery's region. -/
def viewGal (b : Body) (page off : Nat) : View :=
  let g := galOf page
  match kindAt page with
  | some .galPower => viewCtr page off
  | some .preclass => viewIn 32 32 off (.ent (Tbl.preRule g))
  | some .lane => if b.notPort (64 * g + (page / 0x1000 % 0x100 - 0x10)) then View.zero else viewCtr page off
  | some .msec => b.viewMsec g off
  | some .parser => viewCtr page off
  | some .act => viewCtr page off
  | some .rew => viewCtr page off
  | _ => View.zero

/-- The window of a page of the Chamber, the Scheduler or Rimstone. -/
def viewBuf (b : Body) (page off : Nat) : View :=
  match kindAt page with
  | some .chm => viewCtr page off
  | some .chmCtr => viewIn 32 64 off (.ent Tbl.profile)
  | some .chmQ => viewIn 16 128 off fun i => .ent Tbl.queue (128 * b.rd page R.Q_WIN + i)
  | some .chmPC => viewIn 8 15 off fun i => .ctr Pg.chmPC (16 * b.rd page R.CHM_CNT_SEL + i)
  | some .sch => viewCtr page off
  | some .schPort => viewTbl Tbl.schPort 16 128 (128 * b.rd page R.SCH_PORT_WIN) 529 off
  | some .schSvc => viewTbl Tbl.schSvc 16 128 (128 * b.rd page R.SCH_SVC_WIN) 16384 off
  | some .schSub => viewTbl Tbl.schSub 16 128 (128 * b.rd page R.SCH_SUB_WIN) 131072 off
  | some .schQ => viewTbl Tbl.schQ 16 128 (128 * b.rd page R.SCH_Q_WIN) 1048576 off
  | some .schState =>
    let l := b.rd page R.SCH_ST_LVL
    viewIn 64 32 off fun i =>
      if 32 * b.rd page R.SCH_ST_WIN + i < levelSize l then .node l (32 * b.rd page R.SCH_ST_WIN + i) else .none
  | some .rim => if off < 0x400 then viewIn 16 55 off .ledger else viewIn 8 8 (off - 0x400) fun i => .ctr page (128 + i)
  | _ => View.zero

/-- The window of a page of the lookup tables. -/
def viewLkp (b : Body) (page off : Nat) : View :=
  match kindAt page with
  | some .vault => viewTbl Tbl.digest 8 256 (256 * b.rd page R.VLT_DIG_WIN) 1152 off
  | some .lpm => viewTbl Tbl.root 8 256 (256 * b.rd page R.LPM_ROOT_WIN) 131072 off
  | some .lkp => viewTbl Tbl.lkp 16 128 (128 * b.rd page R.LKP_WIN) 529 off
  | _ => View.zero

/-- The window of a page of the Sump or of a far port. -/
def viewMem (b : Body) (page off : Nat) : View :=
  let s := (page - 0x00B00000) / 0x40000
  match kindAt page with
  | some .hbm0 => viewIn 16 7 off (.ent (Tbl.timing s))
  | some .hbm2 => if off < 160 then { of := .lane s (off / 4), stride := 4, off := 0 }
    else if 0x200 ≤ off ∧ off < 0x240 then viewIn 64 1 (off - 0x200) (.ent (Tbl.pattern s)) else View.zero
  | some .hbm3 => viewCtr page off
  | some .sump => { of := .sump (2 ^ 11 * b.rd page R.SUMP_WIN_ADDR_LO + 2 ^ 32 * b.rd page R.SUMP_WIN_ADDR_HI + off / 4 * 4),
                    stride := 4, off := 0, live := true }
  | some .far0 => viewCtr page off
  | _ => View.zero

/-- The window of a page of the Grotto. -/
def viewGrt (b : Body) (page off : Nat) : View :=
  if page < 0x00D80000 then
    let c := (page - 0x00D00000) / 0x4000
    match page / 0x1000 % 4 with
    | 0 => if off < 0x80 then viewIn 16 8 off (.ent (Tbl.grant c))
      else if 0x100 ≤ off ∧ off < 0x180 then viewIn 16 8 (off - 0x100) (.ent (Tbl.range c)) else View.zero
    | 3 => viewCtr page off
    | _ => View.zero
  else if page = Pg.cplx 0 then viewIn 32 64 off fun i => .ent Tbl.chan (64 * b.rd page R.GRT_CH_WIN + i)
  else if page = Pg.cplx 1 then viewCtr page off
  else View.zero

/-- The window of a page of the host interface, a ring or Echo. -/
def viewHost (b : Body) (page off : Nat) : View :=
  match kindAt page with
  | some .hif => viewCtr page off
  | some .boot => { of := .ent Tbl.ldBuf (512 * b.rd page R.BOOT_LD_WIN + off / 4), stride := 4, off := 0 }
  | some .ring => viewCtr page off
  | some .echo0 => if off < 0x400 then
      viewIn 4 128 off fun i => if 128 * b.rd page R.ECHO_PORT_WIN + i < 529 then .ent Tbl.echoPort (128 * b.rd page R.ECHO_PORT_WIN + i)
        else .none
    else viewCtr page (off - 0x400)
  | some .echo1 => viewIn 256 8 off fun i => .echo (8 * b.rd page R.ECHO_WIN_POS + i)
  | _ => View.zero

/-- What an address at offset 0x800 or above of a page shows. -/
def viewPage (b : Body) (addr : Nat) : View :=
  let page := pageOf addr
  let off := addr % 0x1000 - 0x800
  if page < 0x00100000 then b.viewWide page off
  else if page < 0x00900000 then b.viewGal page off
  else if page < 0x00A00000 then b.viewBuf page off
  else if page < 0x00B00000 then b.viewLkp page off
  else if page < 0x00D00000 then b.viewMem page off
  else if page < 0x00E00000 then b.viewGrt page off
  else b.viewHost page off

/-- What an address in a bulk aperture shows (R49). -/
def viewAp (b : Body) (addr : Nat) : View :=
  let a := (addr - 0x1000000) / 0x400000
  let t := b.rd Pg.aperture R.TBL_AP_TABLE a
  let s := tblStride t
  if s = 0 then View.zero
  else
    let off := addr % 0x400000
    let n := b.rd Pg.aperture R.TBL_AP_BASE a * (0x400000 / s) + off / s
    if n < tblCount t then { of := .ent t n, stride := s, off := off % s } else View.zero

/-- The window that an address lies in: a page's address or an aperture's base. -/
def winOf (addr : Nat) : Nat := if 0x1000000 ≤ addr then addr / 0x400000 * 0x400000 else pageOf addr

/-- What a window address shows. -/
def viewOf (b : Body) (addr : Nat) : View := if 0x1000000 ≤ addr then b.viewAp addr else b.viewPage addr

/-! Reads. -/

/-- The P or A bits of sources 32w to 32w + 31 of a bank (R455). -/
def srcBits (b : Body) (bank w : Nat) (active : Bool) : Nat :=
  ((List.range 32).map fun i =>
    let st := (b.icu bank (32 * w + i)).st
    b2n (if active then st == .active || st == .activePending else st == .pending || st == .activePending) * 2 ^ i).foldl (· + ·) 0

/-- The bits of the fault map of pages 32w to 32w + 31 (R469). -/
def faultBits (b : Body) (w : Nat) : Nat :=
  ((List.range 32).map fun i => b2n (b.pageFaulty (0x1000 * (32 * w + i))) * 2 ^ i).foldl (· + ·) 0

/-- The counters of consecutive indices as the words of one entry. -/
def ctrRun (b : Body) (page i n : Nat) : Nat := ((List.range n).map fun k => b.ctr page (i + k) * 2 ^ (64 * k)).foldl (· + ·) 0

/-- The value of an entry as a read shows it, with what the read does. -/
def shownVal (b : Body) : Shown → Body × Nat
  | .ent t i => b.entShow t i
  | .ctr p i => (b, b.ctr p i)
  | .log pos => (b, match b.gov.log.find? (fun e => e.1 == pos) with | some e => logBits e.2 | none => 0)
  | .rec_ pos => (b, b.recordShow pos)
  | .faults w => (b, b.faultBits w)
  | .bits bank w act => (b, b.srcBits bank w act)
  | .count i => (b, b.svyShow i)
  | .secy g i => (b, b.ctrRun (Pg.msec g) (secyCtr i 0) 12)
  | .sa g i => (b, b.ctrRun (Pg.msec g) (saCtr i 0) (if i < 256 then 2 else 8))
  | .node l i => (b, b.nodeState l i)
  | .ledger i => (b, Sp.get 0 b.rim.lost i + 2 ^ 64 * (Sp.get 0 b.rim.disc i % 2 ^ 64))
  | .lane s i => (b, Sp.get 0 b.hbm.laneErr (64 * s + i))
  | .sump a =>
    match b.sumpRead 5 a 4 with
    | (b, l, ue) => (if ue then b.wr Pg.sump R.SUMP_WIN_UE 1 else b, leNat l)
  | .echo pos =>
    match b.echoShow pos with
    | (b, l, _) => (b, leNat l)
  | .none => (b, 0)

/-- Whether a customer thread may not see an entry of the Survey page (R475). -/
def svyHidden (b : Body) (master : Nat) (x : Shown) : Bool :=
  let no := fun i => Master.isCustomer master && !bitOn (b.rd Pg.survey R.SVY_USER_RD (i / 32)) (i % 32)
  match x with
  | .count i => no i
  | .ent t i => t == Tbl.svy && no i
  | _ => false

/-- A snapshot of a reader taken, in place of the one it had in the window. -/
def setSnap (b : Body) (win m : Nat) (x : Option Snapshot) : Body :=
  let l := b.win.snaps.filter fun s => !(s.win == win && s.reader == m)
  { b with win := { b.win with snaps := match x with | some s => l ++ [s] | none => l } }

/-- A read of a word of a window or aperture (R51). The first word read of an entry takes the snapshot; the read of its highest
word ends it. -/
def winRead (b : Body) (master addr : Nat) : Body × Nat :=
  let v := b.viewOf addr
  let win := winOf addr
  let word := fun val => bitField val (8 * v.off + 31) (8 * v.off)
  let b := b.noteNotPort addr
  if v.of = .none then (b, 0)
  else if b.svyHidden master v.of then (b, 0)
  else if v.live then
    match b.shownVal v.of with
    | (b, val) => (b, word val)
  else
    let last := decide (v.stride ≤ v.off + 4)
    match b.win.snaps.find? (fun s => s.win == win && s.reader == master && s.of == v.of) with
    | some s => (if last then b.setSnap win master none else b, word s.val)
    | none =>
      match b.shownVal v.of with
      | (b, val) =>
        (b.setSnap win master (if last then none else some { win := win, reader := master, of := v.of, val := val }), word val)

/-! Writes. -/

/-- Whether an entry may be written through a window. -/
def Shown.writable : Shown → Bool
  | .ent _ _ => true
  | .sump _ => true
  | _ => false

/-- The words of an assembly over an entry's value. -/
def overWords (v : Nat) (l : List (Nat × Nat)) : Nat := l.foldl (fun v w => setBitField v (32 * w.1 + 31) (32 * w.1) w.2) v

/-- The bits of an entry of a stride that an assembly left unwritten. -/
def keepMask (stride : Nat) (l : List (Nat × Nat)) : Nat := overWords (2 ^ (8 * stride) - 1) (l.map fun w => (w.1, 0))

/-- The value an assembly writes over: what the entry reads as, but for SA entries, whose keys it keeps. -/
def asmBase (b : Body) (tid idx : Nat) : Nat := b.entNow tid idx

/-- Whether a master's write to the trie is dropped: the host's, while the MIGRATE loop is in AUTO (R143). -/
def trieOwned (b : Body) (master tid : Nat) : Bool := tid == Tbl.trie && b.ownerRefuses LOOP_MIGRATE master

/-- The words of a root entry or an admission profile that the loops let a master write (R143, R229), and whether a word or a field
was refused. -/
def ownWords (b : Body) (master tid idx : Nat) (l : List (Nat × Nat)) : List (Nat × Nat) × Bool :=
  if tid = Tbl.root ∧ b.ownerRefuses LOOP_MIGRATE master ∧ l.any (fun w => w.1 == 0) then (l.filter fun w => w.1 != 0, true)
  else if tid = Tbl.profile ∧ b.ownerRefuses LOOP_BUFFER master ∧ l.any (fun w => w.1 == 0) then
    (l.map fun w => if w.1 = 0 then (0, setBitField w.2 21 0 (prShare (b.ent tid idx))) else w, true)
  else (l, false)

/-- The bits of an entry that a staged write leaves to its apply instant (R29, R479): of a counter pair the words that were not written,
and of a root entry or a profile that the host writes the actuator of a loop in AUTO. -/
def stagedKeep (b : Body) (master tid stride : Nat) (l : List (Nat × Nat)) : Nat :=
  if tid = Tbl.stat then keepMask stride l
  else if tid = Tbl.root ∧ b.ownerRefuses LOOP_MIGRATE master then 2 ^ 32 - 1
  else if tid = Tbl.profile ∧ b.ownerRefuses LOOP_BUFFER master then 2 ^ 22 - 1
  else 0

/-- An assembled entry written by its owner: refused or cut by the loop that owns it, else staged or immediate (R50, R53). Answers
whether it was staged or accepted. -/
def entCommit (b : Body) (master addr tid idx stride : Nat) (l : List (Nat × Nat)) : Body × Bool :=
  if b.trieOwned master tid then (b.fire Pg.governor R.GOV_EVT_OWNER, false)
  else
    let (l', cut) := b.ownWords master tid idx l
    let b := if cut then b.fire Pg.governor R.GOV_EVT_OWNER else b
    let v := overWords (b.asmBase tid idx) l'
    if tid = Tbl.svy then (b.svyConfig master idx v, true)
    else if tid = Tbl.ldBuf then b.entWrite tid idx v
    else b.entPutBy master addr tid idx v (b.stagedKeep master tid stride l')

/-- A Sump word written through the window of page 4 (R353). -/
def sumpWinWrite (b : Body) (a v : Nat) : Body :=
  if Sump.scratchBase ≤ a ∧ a < Sump.scratchEnd then b.sumpWrite 5 a (leBytes 4 v) else b.fire Pg.sump R.SUMP_EVT_BADCFG

/-- A read snapshot ends when its reader writes a word of another entry of the window (R52). -/
def snapOther (b : Body) (win m : Nat) (x : Shown) : Body :=
  { b with win := { b.win with snaps := b.win.snaps.filter fun s => !(s.win == win && s.reader == m && s.of != x) } }

/-- A write of a word of an entry (R50): it is dropped while another master assembles in the window; it begins an assembly, ending
the owner's of another entry; and the highest word writes the entry. -/
def asmWrite (b : Body) (master addr win : Nat) (v : View) (tid idx x : Nat) : Body :=
  let w := v.off / 4
  let b := if b.win.asm.any (fun a => a.win == win && a.owner != master) then b else b.snapOther win master v.of
  match b.win.asm.find? (fun a => a.win == win) with
  | some a =>
    if a.owner ≠ master then
      let b := if 0x1000000 ≤ win then b.sat Pg.aperture R.TBL_AP_DROPS 1 ((win - 0x1000000) / 0x400000) else b
      b.fault (if 0x1000000 ≤ win then Pg.aperture else win) FLT_ACCESS { access := 2, space := 1, addr := addr, master := master }
    else
      let b := if a.of = v.of then b else b.asmEnd win
      let l := (if a.of = v.of then a.words.filter (fun y => y.1 != w) else []) ++ [(w, x)]
      let b := { b with win := { b.win with asm := b.win.asm.filter fun a => a.win != win } }
      if v.stride ≤ v.off + 4 then (b.entCommit master addr tid idx v.stride l).1
      else { b with win := { b.win with asm := b.win.asm ++ [{ win := win, owner := master, of := v.of, words := l }] } }
  | none =>
    if v.stride ≤ v.off + 4 then (b.entCommit master addr tid idx v.stride [(w, x)]).1
    else { b with win := { b.win with asm := b.win.asm ++ [{ win := win, owner := master, of := v.of, words := [(w, x)] }] } }

/-- A write of a word of a window or aperture. -/
def winWrite (b : Body) (master addr x : Nat) : Body :=
  let v := b.viewOf addr
  match v.of with
  | .ent t i => b.asmWrite master addr (winOf addr) v t i x
  | .sump a => b.sumpWinWrite a x
  | _ => b.noteNotPort addr

/-- 100 µs without a write of its owner end an assembly, and a snapshot of the master (R52). -/
def assemblyTimeout (b : Body) (win master : Nat) : Body :=
  let b := if b.win.asm.any (fun a => a.win == win && a.owner == master) then b.asmEnd win else b
  b.setSnap win master none

end Body

end Sys2Proof.Machine
end

