-- ==== Sys2Proof/Machine/Image.lean ====
section
/-! DEFINITION. Images (R393 to R402): the flash directory, the header, the checks and the payloads. -/

namespace Sys2Proof.Machine

/-! Error codes (R403). -/
def BE_NONE : Nat := 0
def BE_ROM_SELF : Nat := 1
def BE_FLASH : Nat := 2
def BE_SIG : Nat := 3
def BE_DECRYPT : Nat := 4
def BE_KEY : Nat := 5
def BE_SVN : Nat := 6
def BE_COMPAT : Nat := 7
def BE_FORMAT : Nat := 8
def BE_TARGET : Nat := 9
def BE_TRAIN : Nat := 10
def BE_MEMINIT : Nat := 11
def BE_TYPE : Nat := 12
def BE_SIZE : Nat := 13
def BE_NO_SLOT : Nat := 14
def BE_BUSY_TARGET : Nat := 15

/-! Image types (R400). -/
def IT_BOOT_CFG : Nat := 1
def IT_GRT_FW : Nat := 2
def IT_GRT_PATCH : Nat := 3
def IT_AE_PATCH : Nat := 4
def IT_CUSTOMER : Nat := 5

/-! The header (R395). Bytes beyond an image read as absent. -/

/-- The little-endian number in `n` bytes of an image at an offset. -/
def leAt (l : List Byte) (o n : Nat) : Nat := leNat (slice l o n)

def imgType (l : List Byte) : Nat := leAt l 5 1
def imgKeySlot (l : List Byte) : Nat := leAt l 6 1
def imgCommit (l : List Byte) : Bool := bitOn (leAt l 7 1) 0
def imgStepMask (l : List Byte) : Nat := leAt l 10 2
def imgVersion (l : List Byte) : Nat := leAt l 12 4
def imgSvn (l : List Byte) : Nat := leAt l 16 1
def imgLen (l : List Byte) : Nat := leAt l 20 4
/-- Whether the image's range holds a COMPAT_GEN. -/
def imgServes (l : List Byte) (gen : Nat) : Bool := decide (leAt l 8 1 ≤ gen ∧ gen ≤ leAt l 9 1)
/-- The bytes that the slot's hash is over. -/
def imgKeys (l : List Byte) : List Byte := slice l 96 97 ++ slice l 256 1952

/-- Whether the magic and format are right and the image lies within `room` bytes. -/
def imgFormatOk (l : List Byte) (room : Nat) : Bool :=
  leAt l 0 4 == 0x4D495A54 && leAt l 4 1 == 1 && decide (8192 + imgLen l ≤ room)

/-- Whether a type may be signed with a key slot (R400). -/
def typeKeyOk (ty slot : Nat) : Bool :=
  if ty = IT_BOOT_CFG ∨ ty = IT_CUSTOMER then decide (1 ≤ slot ∧ slot ≤ 3)
  else decide (2 ≤ ty ∧ ty ≤ 4) && slot == 0

/-- Whether the host's path takes a type (R400, R404): in WAIT_HOST every type. -/
def typeHostOk (ty : Nat) (waiting : Bool) : Bool := waiting || ty == IT_AE_PATCH || ty == IT_CUSTOMER

/-! Payloads. -/

/-- The register list of a boot configuration (R401). -/
def cfgList (p : List Byte) : List (Nat × Nat) :=
  (List.range (leAt p 4 2)).map fun i => (leAt p (8 + 8 * i) 4, leAt p (12 + 8 * i) 4)

/-- The rates of the training list. -/
def cfgTraining (p : List Byte) : Nat := leAt p 1 1 % 128

/-- Whether a segment names a customer thread (or a vendor thread, for firmware) and stays in its slice (R402). -/
def segOk (cust : Bool) (s : Nat × Nat × Nat × Bool × List Byte) : Bool :=
  Master.isThread s.1 && (Master.isCustomer s.1 == cust) && decide (s.2.1 + s.2.2.2.2.length ≤ 0x80000)

/-- The threads that a payload's segments name. -/
def segThreads (p : List Byte) : List Nat := ((Config.imgSegments p).map fun s => s.1 - 0x100).eraseDups

/-- The match words and the microwords of an action-engine patch: a 16-byte header, 32 words and 512 microwords of 20 bytes. -/
def aeMatch (p : List Byte) (i : Nat) : Nat := leAt p (16 + 4 * i) 4
def aeWord (p : List Byte) (w : Nat) : Nat := leAt p (144 + 20 * w) 20

/-- Whether two valid match words name one block (R406). -/
def aeTwice (p : List Byte) : Bool :=
  (List.range 32).any fun i => (List.range i).any fun j =>
    bitOn (aeMatch p i) 31 && bitOn (aeMatch p j) 31 && aeMatch p i % 1024 == aeMatch p j % 1024

/-- Check 8 of R396: the payload checks of a type. -/
def payloadError (ty : Nat) (host : Bool) (p : List Byte) : Nat :=
  if ty = IT_BOOT_CFG then
    if p.length < 8 ∨ 4096 < leAt p 4 2 ∨ p.length < 8 + 8 * leAt p 4 2 then BE_SIZE
    else if leAt p 0 1 ≠ 1 then BE_COMPAT
    else if cfgTraining p = 0 then BE_TARGET else BE_NONE
  else if ty = IT_GRT_FW then (if (Config.imgSegments p).all (segOk false) then BE_NONE else BE_TARGET)
  else if ty = IT_CUSTOMER then
    if 16 < (Config.imgSegments p).length then BE_SIZE
    else if (Config.imgSegments p).all (segOk true) then BE_NONE else BE_TARGET
  else if ty = IT_AE_PATCH then
    if p.length ≠ 10384 then BE_SIZE else if ¬ host ∧ aeTwice p then BE_TARGET else BE_NONE
  else BE_NONE

/-- The customer threads that an image in the load buffer writes, where it is a customer image (R402). -/
def loadTargets (l : List Byte) : List Nat :=
  if imgType l = IT_CUSTOMER then (segThreads (Config.imgDecrypt l)).filter isCust else []

namespace Body

/-- The first `n` bytes of the load buffer. -/
def loadImage (b : Body) (n : Nat) : List Byte :=
  ((List.range (ceilDiv n 4)).flatMap fun w => leBytes 4 (b.ent Tbl.ldBuf w)).take n

end Body

/-! Checks (R396). -/

namespace Sticky

/-- Whether a key slot is provisioned and not revoked, and the hash it holds is the image's keys'. -/
def keyOk (k : Sticky) (l : List Byte) : Bool :=
  let n := imgKeySlot l
  let hash := if n = 0 then some Config.vendorHash else (k.prov.find? fun e => e.1 == n).map (·.2)
  !k.revoked.contains n && hash == some (Config.sha384 (imgKeys l))

/-- The fused security version of a slot's class (R398). -/
def svn (k : Sticky) (slot : Nat) : Nat := if slot = 0 then k.svnV else k.svnC

/-- The counter of an image's class raised where the image commits it (R398). -/
def commitSvn (k : Sticky) (l : List Byte) : Sticky :=
  if ¬ imgCommit l then k
  else if imgKeySlot l = 0 then { k with svnV := max k.svnV (imgSvn l % 64) }
  else { k with svnC := max k.svnC (imgSvn l % 64) }

/-- The first failing check of an image (R396) that lies within `room` bytes and came by a path that admits its type or does
not; `arm` is the injection (R415). -/
def imgError (k : Sticky) (l : List Byte) (room : Nat) (typeOk host : Bool) (arm : Option Nat) : Nat :=
  if ¬ imgFormatOk l room then BE_FORMAT
  else if ¬ typeOk ∨ ¬ typeKeyOk (imgType l) (imgKeySlot l) then BE_TYPE
  else if ¬ imgServes l 1 then BE_COMPAT
  else if ¬ k.keyOk l then BE_KEY
  else if imgSvn l < k.svn (imgKeySlot l) then BE_SVN
  else if arm = some 0 ∨ arm = some 1 ∨ ¬ Config.sigEcdsaOk l ∨ ¬ Config.sigMldsaOk l then BE_SIG
  else if arm = some 2 ∨ ¬ Config.imgTagOk l then BE_DECRYPT
  else payloadError (imgType l) host (Config.imgDecrypt l)

/-! The flash (R393, R394). -/

/-- The bytes of the flash. -/
def flashBytes (k : Sticky) (a n : Nat) : List Byte := Mem.read k.flash a n

/-- A directory copy, where it is valid: its entries and its sequence number. -/
def dirAt (k : Sticky) (a : Nat) : Option (Nat × List (List Byte)) :=
  let h := k.flashBytes a 64
  let n := leAt h 4 1
  let es := k.flashBytes (a + 64) (32 * n)
  if leAt h 0 4 = 0x31524944 ∧ 1 ≤ n ∧ n ≤ 32 ∧ leAt h 60 4 = crc32c (h.take 60 ++ es) then
    some (leAt h 8 4, (List.range n).map fun i => slice es (32 * i) 32)
  else none

/-- The entries of the directory copy that Asuth uses: the valid one with the later DIR_SEQ. -/
def directory (k : Sticky) : Option (List (List Byte)) :=
  match k.dirAt 0, k.dirAt 0x1000 with
  | some a, some b => some (if wrapSub 32 b.1 a.1 < 2 ^ 31 then b.2 else a.2)
  | some a, none => some a.2
  | none, some b => some b.2
  | none, none => none

end Sticky

/-- The parts of a directory entry. -/
def entType (e : List Byte) : Nat := leAt e 0 1
def entAlt (e : List Byte) : Nat := leAt e 1 1
def entOffset (e : List Byte) : Nat := leAt e 4 4
def entLen (e : List Byte) : Nat := leAt e 8 4

/-- The entries that Asuth visits, in order: those that are no other entry's alternate (R394). -/
def dirVisited (l : List (List Byte)) : List (Nat × List Byte) :=
  ((List.range l.length).zip l).filter fun x => !l.any fun e => entAlt e == x.1

namespace Sticky

/-- The image that a directory entry points to. -/
def imageAt (k : Sticky) (e : List Byte) : List Byte :=
  let h := k.flashBytes (entOffset e) 8192
  if 8192 + imgLen h ≤ entLen e then k.flashBytes (entOffset e) (8192 + imgLen h) else h

end Sticky

end Sys2Proof.Machine
end

