-- ==== Sys2Proof/Machine/Store.lean ====
section
/-! DEFINITION. Writes of block registers (offsets 0x080 to 0x7FF of a page): what each register's own rules make of a written
word. A store answers the engine after it and whether every part of the write was accepted (R441). -/

namespace Sys2Proof.Machine

/-- The field's index where the register at an address holds it. -/
def fieldAt (a : Nat) (f : Fld) : Option Nat := ((fieldsOf a).find? fun x => x.1 == f).map (·.2.1)

/-- Whether the register at an address holds a field, and a written word sets its bit. -/
def goes (a v : Nat) (f : Fld) : Bool := (fieldAt a f).isSome && f.of v == 1

/-- The lane of a lane page (R97). -/
def laneOf (a : Nat) : Nat := 64 * galOf a + (a / 0x1000 % 0x100 - 0x10)

/-- Whether a register has a field that a write reaches: the others ignore it (R7). -/
def writable (a : Nat) : Bool := (fieldsOf a).any fun x => x.1.acc != .ro && x.1.acc != .rc

/-- The fault information of a dropped register write (R461). -/
def dropInfo (m a : Nat) : FltInfo := { access := 2, space := 1, addr := a, master := m }

namespace Body

/-- The RW, W1C and W1S fields of a register take the bits of a word (R7), but for those in `bad`. -/
def takeBits (b : Body) (a v : Nat) (bad : List Fld := []) : Body :=
  let page := pageOf a
  (fieldsOf a).foldl (fun b x =>
    if bad.contains x.1 then b
    else
      let old := b.rd page x.1 x.2.1 x.2.2
      let new := x.1.of v
      match x.1.acc with
      | .rw => b.wr page x.1 new x.2.1 x.2.2
      | .w1c => b.wr page x.1 (old - (old &&& new)) x.2.1 x.2.2
      | .w1s => b.wr page x.1 (old ||| new) x.2.1 x.2.2
      | _ => b) b

/-- The fields of a word, but for the ignored ones, whose write raises an event. -/
def takeBut (b : Body) (a v : Nat) (bad : List Fld) (page ev : Nat) : Body × Bool :=
  let b := b.takeBits a v bad
  if bad = [] then (b, true) else (b.fire page ev, false)

/-- A word taken whole, or ignored with an event of its page. -/
def takeIf (b : Body) (a v : Nat) (ok : Bool) (ev : Nat) : Body × Bool :=
  if ok then (b.takeBits a v, true) else (b.fire (pageOf a) ev, false)

/-- A word taken, and then the action of its GO field. -/
def takeGo (b : Body) (a v : Nat) (f : Fld) (act : Body → Body) : Body × Bool :=
  let b := b.takeBits a v
  (if goes a v f then act b else b, true)

/-- A write to RWL fields (R7, R46). -/
def storeRwl (b : Body) (m a v : Nat) (locked : Bool) : Body × Bool :=
  match (fieldsOf a).filter fun x => x.1.acc == .rwl with
  | [] => (b, true)
  | l => if locked then (b.fault (pageOf a) FLT_LOCK_VIOL (dropInfo m a), false) else (b.putFields (pageOf a) l v, true)

/-! Device-wide pages. -/

/-- The Governor page (R36): the heartbeat, the modes, the log's read index. -/
def storeGov (b : Body) (m a v : Nat) : Body × Bool :=
  if (fieldAt a R.GOV_HEARTBEAT).isSome then (b.govHeartbeat m v, Master.isGovernor m)
  else if (fieldAt a R.GOV_LOG_RD).isSome then (b.govLogRd v, decide (v ≤ b.rd Pg.governor R.GOV_LOG_WR))
  else
    let b := b.takeBits a v [R.GOV_MODE]
    match fieldAt a R.GOV_MODE with
    | some n => (b.govModeWrite n (R.GOV_MODE.of v), decide (R.GOV_MODE.of v < 2))
    | none => (b, true)

/-- The Cairn page (R70). -/
def storeCairn (b : Body) (m a v : Nat) : Body × Bool :=
  match fieldAt a R.CAIRN_CMD with
  | some n => (b.cairnCmd n m (R.CAIRN_CMD.of v), b.cairnTakes n m (R.CAIRN_CMD.of v))
  | none =>
    match [R.CAIRN_MODE, R.CAIRN_TNS, R.CAIRN_TSECLO, R.CAIRN_TSECHI].findSome? (fieldAt a) with
    | some n => if b.slotCfgOk n m then (b.takeBits a v, true) else (b, false)
    | none => (b.takeBits a v, true)

/-- An ICU bank page (R455). -/
def storeIcu (b : Body) (a v : Nat) : Body × Bool :=
  let bank := a / 0x1000 - 4
  if (fieldAt a R.ICU_TGT_EN_LO).isSome || (fieldAt a R.ICU_TGT_EN_HI).isSome || (fieldAt a R.ICU_TGT_SLEEP_LO).isSome then
    (b.icuTargets bank fun b => b.takeBits a v, true)
  else if (fieldAt a R.ICU_ACK_TGT).isSome then
    let t := R.ICU_ACK_TGT.of v
    let s := R.ICU_ACK_SRC.of v
    let x := b.icu bank s
    (b.icuAck bank t s, (x.st == .active || x.st == .activePending) && x.lastTgt == t)
  else if (fieldAt a R.ICU_MASK_SET).isSome then (b.icuMask bank (R.ICU_MASK_SET.of v) true, true)
  else if (fieldAt a R.ICU_MASK_CLR).isSome then (b.icuMask bank (R.ICU_MASK_CLR.of v) false, true)
  else if (fieldAt a R.ICU_WIN).isSome then b.takeIf a v (decide (R.ICU_WIN.of v ≤ 32)) R.ICU_EVT_BADCFG
  else (b.takeBits a v, true)

/-- The FMU page (R463, R469). -/
def storeFmu (b : Body) (a v : Nat) : Body × Bool :=
  if (fieldAt a R.FMU_REC_RD).isSome then (b.fmuRecRd v, decide (v ≤ b.mrd R.FMU_REC_WR))
  else if (fieldAt a R.FMU_FATAL_ACT).isSome then b.takeIf a v (decide (R.FMU_FATAL_ACT.of v < 2)) R.FMU_EVT_BADCFG
  else (b.takeBits a v, true)

/-- The Survey permission page (R475, R476): a customer thread's writes to block registers are ignored. -/
def storeSvy (b : Body) (m a v : Nat) (locked : Bool) : Body × Bool :=
  if Master.isCustomer m then (b.fire Pg.survey R.SVY_EVT_DENIED, false)
  else
    match b.storeRwl m a v locked with
    | (b, ok) => ((b.takeGo a v R.SVY_LATCH fun b => b.svyLatch).1, ok)

/-- The Lamp page (R316): the time of day, the temperature registers. -/
def storeLamp (b : Body) (m a v : Nat) : Body × Bool :=
  if (fieldAt a R.TOD_STEP).isSome then
    let b := (b.takeBits a v).todCheck
    let b := if R.TOD_STEP.of v = 1 then b.todStepWrite else b
    (if R.TOD_VALID_CLR.of v = 1 then b.todInvalid else if R.TOD_VALID_SET.of v = 1 then b.todValidSet else b, true)
  else if (fieldAt a R.TOD_PHASE_ADJ).isSome then (b.todPhaseAdj v, true)
  else if (fieldAt a R.TH_HOT).isSome then
    let hot := R.TH_HOT.of v
    let hy := R.TH_HYST.of v
    let bad := (if 80 ≤ hot ∧ hot ≤ 104 then [] else [R.TH_HOT]) ++ (if 1 ≤ hy ∧ hy ≤ 15 then [] else [R.TH_HYST])
    let b := (b.takeBits a v (R.TH_CAP :: bad)).holdEvent Pg.lamp R.TH_EVT_HOT
    let b := if bad = [] then b else b.fire Pg.lamp R.LAMP_EVT_BADCFG
    if b.ownerRefuses LOOP_THERMAL m then (b.fire Pg.governor R.GOV_EVT_OWNER, false)
    else (b.setCap (R.TH_CAP.of v), bad == [])
  else (b.takeBits a v, true)

/-- The Clocks page (R317). -/
def storeClocks (b : Body) (a v : Nat) : Body × Bool :=
  match b.takeGo a v R.CLK_INJ_GO fun b => b.clkInject with
  | (b, ok) => (if (fieldAt a R.SYNCE_EN).isSome then b.synceUpdate else b, ok)

/-! Gallery pages. -/

/-- PORT_CFG (R73, R97). A write that enables the port while it names a frame length out of range enables nothing. While the port is
enabled, a write of the PORT_MODE that stands is no change and raises no event (DESIGN CHOICE, log entry 38). -/
def storePort (b : Body) (p a v : Nat) : Body × Bool :=
  let en := b.prd p R.PORT_EN
  let mf := R.PORT_MAX_FRAME.of v
  let bad := (if en = 1 ∧ R.PORT_MODE.of v ≠ b.prd p R.PORT_MODE then [R.PORT_MODE] else []) ++
    (if 64 ≤ mf ∧ mf ≤ 10240 then [] else [R.PORT_MAX_FRAME])
  let b := b.takeBits a v (R.PORT_EN :: bad)
  let b := if bad = [] then b else b.fire (Pg.lane p) R.PORT_EVT_BADCFG
  if R.PORT_EN.of v = 0 then (if en = 1 then b.portDisable p else b, bad == [])
  else if bad.contains R.PORT_MAX_FRAME then (b, false)
  else
    let b := b.portEnable p
    (b, bad == [] && b.prd p R.PORT_EN == 1)

/-- A lane page (R97): the PORT_ registers act only on a first lane's page. -/
def storeLane (b : Body) (m a v : Nat) (locked : Bool) : Body × Bool :=
  let l := laneOf a
  if 0x100 ≤ a % 0x1000 then
    if b.notPort l then (b.fire (Pg.lane l) R.PORT_EVT_NOTPORT, false)
    else if (fieldAt a R.PORT_EN).isSome then b.storePort l a v
    else if (fieldAt a R.PORT_PFC_XOFF_THR).isSome then
      let x := R.PORT_PFC_XOFF_THR.of v
      match b.takeIf a v (decide (R.PORT_PFC_XON_THR.of v < x ∧ x ≤ 16384)) R.PORT_EVT_BADCFG with
      | (b, ok) => (b.pfcEntrance l, ok)
    else if (fieldAt a R.PORT_PFC_TX_EN).isSome then ((b.takeBits a v).pfcEntrance l, true)
    else (b.takeBits a v, true)
  else
    match b.storeRwl m a v locked with
    | (b, ok) => (b.takeBits a v (if R.LANE_LOOP.of v = 3 then [R.LANE_LOOP] else []), ok)

/-- The pre-classifier page (R81, R98). -/
def storePre (b : Body) (a v : Nat) : Body × Bool :=
  let g := galOf a
  let pg := Pg.preclass g
  match fieldAt a R.ENT_THR with
  | some p =>
    let t := fun i => if i = p then R.ENT_THR.of v else b.rd pg R.ENT_THR i
    b.takeIf a v (decide (t 3 ≤ t 2 ∧ t 2 ≤ t 1 ∧ t 1 ≤ t 0 ∧ t 0 ≤ 16384)) R.ENT_EVT_BADTHR
  | none =>
    let bad := (if R.GAL_DISP_RECIRC.of v = 0 then [R.GAL_DISP_RECIRC] else []) ++
      (if R.GAL_DISP_INJ.of v = 0 then [R.GAL_DISP_INJ] else [])
    if (fieldAt a R.GAL_DISP_INJ).isSome then (b.takeBits a v bad, bad == []) else (b.takeBits a v, true)

/-! Lookup pages. -/

/-- Page 0 of the exact-match group (R153, R166): seeds and the wide region change only while the table is empty. -/
def storeExm (b : Body) (a v : Nat) : Body × Bool :=
  let wide := (fieldAt a R.EXM_WIDE_BKTS).isSome
  if wide || (fieldAt a R.EXM_SEED0).isSome || (fieldAt a R.EXM_SEED1).isSome then
    b.takeIf a v (b.exmCnt == 0 && b.stashCnt == 0 && (!wide || decide (R.EXM_WIDE_BKTS.of v ≤ 8388608))) R.EXM_EVT_BADCFG
  else (b.takeBits a v, true)

/-- A context page of the exact-match group (R156, R166). -/
def storeCtx (b : Body) (m a v : Nat) : Body × Bool :=
  if (fieldAt a R.EXM_OP).isSome then
    let c := a / 0x1000 % 0x10 - 1
    let op := R.EXM_OP.of v
    let ok := decide (1 ≤ op ∧ op ≤ 5) && !b.on (Pg.exmCtx c) R.EXM_BUSY
    (b.exmOp c m (R.EXM_TYPE.of v) op, ok)
  else (b.takeBits a v, true)

/-- The LPM page (R144, R167). -/
def storeLpm (b : Body) (a v : Nat) : Body × Bool :=
  let n := R.LPM_MAX_NODES.of v
  let e := R.LPM_MIG_MAX.of v
  if (fieldAt a R.LPM_MAX_NODES).isSome then (if 1 ≤ n ∧ n ≤ 20 then (b.takeBits a v, true) else (b, false))
  else if (fieldAt a R.LPM_MIG_MAX).isSome then b.takeIf a v (decide (1 ≤ e ∧ e ≤ 32)) R.LPM_EVT_BADENV
  else if goes a v R.LPM_DRAIN then (b.lpmDrain, true)
  else (b.takeBits a v, true)

/-- The Dripstone page (R150, R152, R167). -/
def storeDs (b : Body) (a v : Nat) : Body × Bool :=
  if (fieldAt a R.DS_HIGH_THR).isSome then ((b.takeBits a v).dsHigh, true)
  else if goes a v R.DS_CAC_GO then ((b.takeBits a v).dsCac, true)
  else b.takeGo a v R.DS_INJ_GO fun b => b.dsInject

/-- The statistics and policer page (R184, R203). -/
def storeStc (b : Body) (a v : Nat) : Body × Bool :=
  if (fieldAt a R.STC_FLUSH).isSome then
    let b := b.takeBits a v [R.STC_FLUSH]
    (if R.STC_FLUSH.of v = 1 then b.stcFlush else b, true)
  else b.takeGo a v R.STC_INJ_GO fun b => b.stcInject

/-- The bulk aperture control page (R49): a write of a control register ends the assembly and the snapshots there. -/
def storeAperture (b : Body) (a v : Nat) : Body × Bool :=
  match fieldAt a R.TBL_AP_TABLE with
  | some n =>
    let win := 0x1000000 + 0x400000 * n
    let b := (b.takeBits a v).asmEnd win
    ({ b with win := { b.win with snaps := b.win.snaps.filter fun s => s.win != win } }, true)
  | none => (b, true)

/-! Buffering, scheduling and integrity. -/

/-- Chamber page 0 (R212, R213, R229, R230). -/
def storeChm (b : Body) (a v : Nat) : Body × Bool :=
  let has := fun f => (fieldAt a f).isSome
  let limits := [R.CHM_WR_RSV, R.CHM_SHARED_LIMIT, R.CHM_HDRM_LIMIT, R.CHM_BKLG_LIMIT, R.CHM_REFILL_LIMIT]
  if limits.any has then
    let sum := (limits.map fun f => if has f then f.of v else b.rd Pg.chm f).foldl (· + ·) 0
    b.takeIf a v (decide (sum ≤ chmTotal)) R.CHM_EVT_BADCFG
  else if has R.CHM_PUSH_MAX then
    let x := R.CHM_PUSH_MAX.of v
    b.takeBut a v (if 1 ≤ x ∧ x ≤ 4 then [] else [R.CHM_PUSH_MAX]) Pg.chm R.CHM_EVT_BADCFG
  else if has R.CHM_BUF_HI then b.takeIf a v (decide (R.CHM_BUF_LO.of v < R.CHM_BUF_HI.of v)) R.CHM_EVT_BADCFG
  else if has R.CHM_PFC_XOFF then
    match b.takeIf a v (decide (R.CHM_PFC_XON.of v < R.CHM_PFC_XOFF.of v)) R.CHM_EVT_BADCFG with
    | (b, ok) =>
      let ks := (b.net.chmXoff.map fun k => (k / 8, k % 8)) ++ (b.pipe.pkts.map fun e => (e.2.inPort, e.2.pfcPrio))
      (b.chmPfcAll ks.eraseDups, ok)
  else b.takeGo a v R.CHM_INJ_GO fun b => b.chmInject

/-- A pool page (R225, R228, R234). -/
def storePool (b : Body) (m a v : Nat) : Body × Bool :=
  let n := a / 0x1000 % 0x10
  let has := fun f => (fieldAt a f).isSome
  if has R.POOL_ALLOC_GO then (if R.POOL_ALLOC_GO.of v = 1 then b.poolAllocGo n else b, true)
  else if has R.POOL_FREE_IDX then (b.poolFree n (R.POOL_FREE_IDX.of v) m, (b.allocOf n).contains (R.POOL_FREE_IDX.of v))
  else if ¬ writable a then (b, true)
  else b.takeIf a v (!b.poolOn n) R.POOL_EVT_BADCFG

/-- Scheduler page 0 (R247, R260). -/
def storeSch (b : Body) (a v : Nat) : Body × Bool :=
  let x := R.SCH_REFILL_NS.of v
  if (fieldAt a R.SCH_REFILL_NS).isSome then b.takeIf a v (decide (32 ≤ x ∧ x ≤ 8192) && x % 2 == 0) R.SCH_EVT_BADCFG
  else b.takeGo a v R.SCH_INJ_GO fun b => b.schInject

/-! Power, HBM and far memory. -/

/-- HBM page 0 of a stack (R332, R337, R339, R349): the rate and the multiplier are actuators (R29). -/
def storeHbm0 (b : Body) (m a v : Nat) : Body × Bool :=
  let s := (a / 0x40000) % 4
  let pg := Pg.hbm s 0
  if (fieldAt a R.HBM_RATE_REQ).isSome then
    let empty := decide (R.HBM_ENV_SLOW.of v < R.HBM_ENV_FAST.of v)
    let b := b.takeBits a v (R.HBM_RATE_REQ :: if empty then [R.HBM_ENV_SLOW, R.HBM_ENV_FAST] else [])
    let b := if empty then b.fire pg R.HBM_EVT_BADCFG else b
    let r := R.HBM_RATE_REQ.of v
    (b.hbmRateRequest s m r, !empty && !b.ownerRefuses LOOP_POWER m && b.rateOk s r)
  else if (fieldAt a R.HBM_REF_MULT).isSome then
    let env := R.HBM_REF_ENV.of v
    let mult := R.HBM_REF_MULT.of v
    let held := b.ownerRefuses LOOP_REFRESH m
    let bad := (if 1 ≤ env ∧ env ≤ 4 then [] else [R.HBM_REF_ENV]) ++
      (if held ∨ (1 ≤ mult ∧ mult ≤ 4) then [] else [R.HBM_REF_MULT])
    let b := b.takeBits a v (if held then R.HBM_REF_MULT :: bad else bad)
    let b := if bad = [] then b else b.fire pg R.HBM_EVT_BADCFG
    (if held then b.fire Pg.governor R.GOV_EVT_OWNER else b, bad == [] && !held)
  else (b.takeBits a v, true)

/-- HBM page 1 (R350). -/
def storeHbm1 (b : Body) (a v : Nat) : Body × Bool :=
  if (fieldAt a R.HBM_WR_HI).isSome then
    b.takeIf a v (decide (R.HBM_WR_LO.of v < R.HBM_WR_HI.of v ∧ R.HBM_WR_HI.of v ≤ 64)) R.HBM_EVT_QOSCFG
  else if (fieldAt a R.HBM_PANIC_ON).isSome then
    b.takeIf a v (decide (R.HBM_PANIC_OFF.of v < R.HBM_PANIC_ON.of v ∧ R.HBM_PANIC_ON.of v ≤ 64)) R.HBM_EVT_QOSCFG
  else (b.takeBits a v, true)

/-- HBM page 2 (R340, R351). -/
def storeHbm2 (b : Body) (a v : Nat) : Body × Bool :=
  let s := (a / 0x40000) % 4
  if (fieldAt a R.HBM_DLY_VAL).isSome then
    (b.hbmDelaySet s v, decide (R.HBM_DLY_KIND.of v < 6 ∧ R.HBM_DLY_LANE.of v < 40))
  else
    let b := b.takeBits a v
    let b := if goes a v R.HBM_PG_GO then b.hbmPgRun s else b
    (if goes a v R.HBM_TRN_GO then b.hbmTrnMark s else b, true)

/-- The Sump page (R325, R353). -/
def storeSump (b : Body) (a v : Nat) : Body × Bool :=
  if (fieldAt a R.SUMP_MAP).isSome then
    match b.takeIf a v ((List.range 4).all fun s => !b.on (Pg.hbm s 0) R.PG_EN) R.SUMP_EVT_BADCFG with
    | (c, ok) => (sumpRemap b c, ok)
  else (b.takeBits a v, true)

/-- Whether a far layout is accepted: no pool of the port's memory is enabled, both ranges lie in the memory and they do not
overlap (R346, R354). -/
def farLayoutOk (b : Body) (p base size side : Nat) : Bool :=
  let mem := b.frd p R.FAR_MEM_SIZE
  let n := size / 32
  ((List.range 16).all fun i => !(b.poolOn i && b.prd' i R.POOL_MEM == 2 + p)) && size % 32 == 0 &&
  decide (base + size ≤ mem ∧ side + n ≤ mem ∧ (base + size ≤ side ∨ side + n ≤ base))

/-- Far page 0 (R344, R346, R354). -/
def storeFar0 (b : Body) (a v : Nat) : Body × Bool :=
  let p := (a / 0x80000) % 2
  let pick := fun (f : Fld) => if (fieldAt a f).isSome then f.of v else b.frd p f
  if [R.FAR_DATA_BASE, R.FAR_DATA_SIZE, R.FAR_SIDE_BASE].any fun f => (fieldAt a f).isSome then
    b.takeIf a v (b.farLayoutOk p (pick R.FAR_DATA_BASE) (pick R.FAR_DATA_SIZE) (pick R.FAR_SIDE_BASE)) R.FAR_EVT_BADCFG
  else if (fieldAt a R.FAR_LINK_EN).isSome then
    let was := b.frd p R.FAR_LINK_EN
    let b := b.takeBits a v [R.FAR_LINK_EN]
    (if R.FAR_LINK_EN.of v = was then b else b.farLinkEnable p (R.FAR_LINK_EN.of v == 1), true)
  else b.takeGo a v R.FAR_INJ_GO fun b => b.farInject p

/-- Far page 1 (R355). -/
def storeFar1 (b : Body) (a v : Nat) : Body × Bool :=
  let p := (a / 0x80000) % 2
  b.takeGo a v R.FAR_IO_GO fun b => b.farIoAccess p

/-! The Grotto. -/

/-- The number of issue slots that thread 0 holds, with a word in place of slots 8k to 8k + 7 (R357). -/
def slotsOf0 (b : Body) (c k v : Nat) : Nat :=
  let own := (List.range 8).map fun i => bitField v (4 * i + 3) (4 * i)
  let rest := ((List.range 8).filter (· ≠ k)).flatMap fun j =>
    [R.GRT_SLOT0, R.GRT_SLOT1, R.GRT_SLOT2, R.GRT_SLOT3, R.GRT_SLOT4, R.GRT_SLOT5, R.GRT_SLOT6, R.GRT_SLOT7].map fun f =>
      b.rd (Pg.core c 0) f j
  ((own ++ rest).filter (· == 0)).length

/-- Core page 0 (R357, R366, R378, R385). -/
def storeCore0 (b : Body) (m a v : Nat) : Body × Bool :=
  let c := (a / 0x4000) % 32
  if goes a v R.GRT_CORE_RESTART then (b.coreRestart c m, m == Master.host || m == Master.jtag)
  else if (fieldAt a R.GRT_POL_DL).isSome then
    b.takeBut a v ((if R.GRT_POL_DL.of v = 3 then [R.GRT_POL_DL] else []) ++
      (if 2 ≤ R.GRT_POL_FLT.of v then [R.GRT_POL_FLT] else [])) (pageOf a) R.GRT_EVT_BADCFG
  else match fieldAt a R.GRT_SLOT0 with
    | some k => b.takeIf a v (decide (4 ≤ b.slotsOf0 c k v)) R.GRT_EVT_BADCFG
    | none => (b.takeBits a v, true)

/-- A thread command written to GRT_TH_CMD (R364, R386). -/
def threadCmd (b : Body) (th m code : Nat) : Body :=
  match code with
  | 1 => b.threadStart th m
  | 2 => b.threadRestart th m
  | 3 => b.threadHalt th m
  | 4 => b.threadKill th m
  | _ => b

/-- Core page 1 (R365, R386). -/
def storeCore1 (b : Body) (m a v : Nat) : Body × Bool :=
  let c := (a / 0x4000) % 32
  match fieldAt a R.GRT_TH_CMD with
  | some t =>
    let code := R.GRT_TH_CMD.of v
    (b.threadCmd (8 * c + t) m code,
      decide (1 ≤ code ∧ code ≤ 4) && tcmdOk (8 * c + t) m && (code != 1 || b.tst (8 * c + t) == TH_IDLE))
  | none =>
    match fieldAt a R.GRT_TH_ENTRY with
    | some t =>
      if ¬ tcmdOk (8 * c + t) m then (b.fire (Pg.core c 0) R.GRT_EVT_DENIED, false)
      else if v % 4 = 0 ∧ v < 0x80000 then (b.takeBits a v, true)
      else (b.fire (Pg.core c 0) R.GRT_EVT_BADCFG, false)
    | none => (b, true)

/-- A debugger operation (R381). -/
def dbgOp (b : Body) (th m op : Nat) : Body :=
  match op with
  | 1 => b.dbgStop th m
  | 2 => b.dbgResume th m
  | 3 => b.dbgStep th m
  | 4 => b.dbgAbandon th m
  | 5 => b.dbgRead th m
  | 6 => b.dbgWrite th m
  | _ => b.dbg th m fun b => b.dbgRc th 3

/-- Core page 2 (R381, R387). GO is ignored while an operation runs. -/
def storeCore2 (b : Body) (m a v : Nat) : Body × Bool :=
  let c := (a / 0x4000) % 32
  if goes a v R.GRT_DBG_GO then
    let busy := b.on (Pg.core c 2) R.GRT_DBG_BUSY
    let b := b.takeBits a v
    (b.dbgOp (8 * c + R.GRT_DBG_THREAD.of v) m (R.GRT_DBG_OP.of v), !busy)
  else b.takeGo a v R.GRT_INJ_GO fun b => b.grtInject c

/-- The channels that engine bindings other than register `a` name (R375). -/
def boundElsewhere (b : Body) (a ch : Nat) : Bool :=
  let pg := Pg.cplx 0
  let hit := fun (e c : Fld) (g : Nat) => e.addr pg g 0 != a && b.on pg e g && b.rd pg c g == ch
  (List.range 8).any (fun g => hit R.GRT_PORT_EN R.GRT_PORT_CH g || hit R.GRT_INJ_EN R.GRT_INJ_CH g) ||
    hit R.GRT_TS_EN R.GRT_TS_CH 0

/-- Complex page 0 (R373 to R375, R389): a binding that is switched on must name a valid channel of the engine's that no other
binding names. -/
def storeCplx (b : Body) (a v : Nat) : Body × Bool :=
  let e := b.chEnt (v % 1024)
  let ok := fun (w : Nat) => !bitOn v 31 || (chValid e && epKind w == 2 && !b.boundElsewhere a (v % 1024))
  let put := fun (ok : Bool) => if ok then (b.takeBits a v, true)
    else ((b.fire (Pg.core (chBase e / 0x400000 % 32) 0) R.GRT_EVT_BADCFG).fire (Pg.cplx 0) R.GRT_EVT_CHCFG, false)
  if (fieldAt a R.GRT_PORT_EN).isSome || (fieldAt a R.GRT_TS_EN).isSome then put (ok (chWr e))
  else if (fieldAt a R.GRT_INJ_EN).isSome then put (ok (chRd e))
  else (b.takeBits a v, true)

/-! The host interface, boot and telemetry. -/

/-- Endpoint page 0 (R435, R444). -/
def storeHif (b : Body) (a v : Nat) : Body × Bool :=
  if (fieldAt a R.HIF_PUNT_SPREAD).isSome then
    b.takeBut a v (if 4 ≤ R.HIF_PUNT_SPREAD.of v then [R.HIF_PUNT_SPREAD] else []) Pg.hif R.HIF_EVT_BADCFG
  else b.takeGo a v R.HIF_INJ_GO fun b => b.hifInject

/-- A ring page (R427 to R429, R445). Outside DISABLED only the clearing of RING_EN acts; any other change is ignored. -/
def storeRing (b : Body) (a v : Nat) : Body × Bool :=
  let n := a / 0x1000 - 0xE10
  let off := b.rrd n R.RING_STATE == RING_DISABLED
  if (fieldAt a R.RING_EN).isSome then
    if off then
      let b := b.takeBits a v [R.RING_EN]
      if R.RING_EN.of v = 1 then
        let b := b.ringEnable n
        (b, b.on (Pg.ring n) R.RING_EN)
      else (b, true)
    else
      let same := v % 2 ^ 31 / 2 ^ 19 == b.regWord a % 2 ^ 31 / 2 ^ 19 && R.RING_AUX.of v == b.rrd n R.RING_AUX
      let stop := R.RING_EN.of v == 0 && b.on (Pg.ring n) R.RING_EN
      let b := if same && stop then b else b.fire (Pg.ring n) R.RING_EVT_BADCFG
      (if stop then b.ringReset n true else b, same && stop)
  else if (fieldAt a R.RING_RESET).isSome then
    (if R.RING_RESET.of v = 1 then b.ringReset n false else b, !off)
  else if ¬ writable a then (b, true)
  else b.takeIf a v off R.RING_EVT_BADCFG

/-- Echo page 0 (R484, R489). -/
def storeEcho (b : Body) (a v : Nat) : Body × Bool :=
  if (fieldAt a R.ECHO_SEED).isSome then (b.echoSeedWrite v, true)
  else if (fieldAt a R.ECHO_RATE).isSome then
    let r := R.ECHO_RATE.of v
    b.takeBut a v (if 1 ≤ r ∧ r ≤ 400 then [] else [R.ECHO_RATE]) (Pg.echo 0) R.ECHO_EVT_BADCFG
  else (b.takeBits a v, true)

/-- The snapshot page (R481, R482, R490). -/
def storeSnp (b : Body) (a v : Nat) : Body × Bool :=
  if (fieldAt a R.SNP_GO).isSome then
    let b := b.takeBits a v
    if R.SNP_GO.of v = 1 then (b.snpGo, !b.snpBad) else (b, true)
  else if ¬ writable a then (b, true)
  else b.takeIf a v (!b.on Pg.snp R.SNP_BUSY) R.SNP_EVT_BADCFG

/-- The next load fails as BOOT_INJ_KIND says (R415). -/
def bootInject (b : Body) : Body :=
  let k := b.rd Pg.boot R.BOOT_INJ_KIND
  if k = 3 then b else { b with boot := { b.boot with arm := some k } }

/-- BOOT_LD_GO (R405): the checks begin; those of a customer image's target threads begin with it (R402). -/
def bootLdGo (b : Body) (m : Nat) : Body :=
  if b.on Pg.boot R.BOOT_LD_BUSY then b.fire Pg.boot R.BOOT_EVT_BADCMD
  else
    let len := b.rd Pg.boot R.BOOT_LD_LEN
    let l := loadTargets (b.loadImage len)
    ({ b with boot := { b.boot with master := m, len := len, tgts := l, tgtBusy := l.any fun th => b.tst th != TH_IDLE } }).wr
      Pg.boot R.BOOT_LD_BUSY 1

/-- The boot page (R397, R405, R415), but for the actions that reach the fuses or go on with boot. -/
def storeBoot (b : Body) (m a v : Nat) : Body × Bool :=
  if (fieldAt a R.BOOT_INJ_GO).isSome then b.takeGo a v R.BOOT_INJ_GO fun b => b.bootInject
  else if (fieldAt a R.BOOT_LD_GO).isSome then
    if ¬ Master.mayLoad m then (b.fire Pg.boot R.BOOT_EVT_BADCMD, false)
    else
      let busy := b.on Pg.boot R.BOOT_LD_BUSY
      let b := b.takeBits a v
      if R.BOOT_LD_GO.of v = 1 then (b.bootLdGo m, !busy) else (b, true)
  else if (fieldAt a R.BOOT_PROV_GO).isSome ∧ m ≠ Master.jtag then (b.fire Pg.boot R.BOOT_EVT_BADCMD, false)
  else (b.takeBits a v, true)

/-- What the rules of a page's kind make of a write to one of its block registers. -/
def pageStore (b : Body) (k : PK) (m a v : Nat) (locked : Bool) : Body × Bool :=
  match k with
  | .governor => b.storeGov m a v
  | .cairn => b.storeCairn m a v
  | .icu => b.storeIcu a v
  | .fmu => b.storeFmu a v
  | .survey => b.storeSvy m a v locked
  | .lamp => b.storeLamp m a v
  | .clocks => b.storeClocks a v
  | .lane => b.storeLane m a v locked
  | .preclass => b.storePre a v
  | .galPower => (b.takeBits a v, true)
  | .exm => b.storeExm a v
  | .exmCtx => b.storeCtx m a v
  | .lpm => b.storeLpm a v
  | .ds => b.storeDs a v
  | .cls => b.takeGo a v R.CLS_INJ_GO fun b => b.clsInject
  | .vault => b.takeGo a v R.VLT_INJ_GO fun b => b.vltInject
  | .stc => b.storeStc a v
  | .aperture => b.storeAperture a v
  | .chm => b.storeChm a v
  | .pool => b.storePool m a v
  | .sch => b.storeSch a v
  | .rim => b.takeGo a v R.RIM_INJ_GO fun b => b.rimInject
  | .hbm0 => b.storeHbm0 m a v
  | .hbm1 => b.storeHbm1 a v
  | .hbm2 => b.storeHbm2 a v
  | .hbm3 => b.takeGo a v R.HBM_INJ_GO fun b => b.hbmEccInject ((a / 0x40000) % 4)
  | .sump => b.storeSump a v
  | .far0 => b.storeFar0 a v
  | .far1 => b.storeFar1 a v
  | .core0 => b.storeCore0 m a v
  | .core1 => b.storeCore1 m a v
  | .core2 => b.storeCore2 m a v
  | .cplx0 => b.storeCplx a v
  | .hif => b.storeHif a v
  | .ring => b.storeRing a v
  | .echo0 => b.storeEcho a v
  | .snp => b.storeSnp a v
  | .boot => b.storeBoot m a v
  | _ => (b.takeBits a v, true)

/-- A write of a block register by a master (R7, R44): dropped during a soft reset, staged or applied where its fields are RWS,
otherwise what its page's rules make of it. -/
def regStore (b : Body) (m a v : Nat) (locked : Bool) : Body × Bool :=
  match kindAt a with
  | none => (b, false)
  | some k =>
    if fieldsOf a = [] then (b, true)
    else if b.on (pageOf a) R.PG_RESET_BUSY then (b, false)
    else if isRws a then b.rwsPutBy m a v
    else b.pageStore k m a v locked

end Body

end Sys2Proof.Machine
end

