-- ==== Sys2Proof/Machine/Header.lean ====
section
/-! DEFINITION. The common page header (R42 to R46): soft resets, the power request, events and faults as the host writes and
injects them. -/

namespace Sys2Proof.Machine

/-- The fields of a page that show what its block is doing at present: a state, a level, a count of what it holds, an operation in
progress. They read so again as soon as a soft reset, which resets registers, has returned them (DEDUCED, log entry 39); a record of
what has been is a register like any other. -/
def PK.shows : PK → List Fld
  | .governor => [R.GOV_MODE_EFF, R.GOV_BUSY]
  | .lane => [R.LANE_RATE, R.LANE_SNR, R.LANE_TRAINED, R.LANE_CDR_LOCK, R.LANE_SIG_DET, R.LANE_MEMBER, R.PORT_LINK_STATE,
      R.PORT_LOCAL_FAULT, R.PORT_REMOTE_FAULT, R.PORT_HI_SER, R.PORT_PFC_PAUSED, R.PORT_PFC_XOFF]
  | .preclass => [R.ENT_OVERLOAD, R.ENT_OCC]
  | .clocks => [R.CLK_FREQ_MHZ, R.CLK_RUN, R.CLK_LOCK, R.SYNCE_SQUELCHED]
  | .galPower => [R.GAL_FILL_NAP, R.GAL_FILL_DOZE]
  | .lamp => [R.TH_THROTTLED, R.TH_JMAX, R.TH_PWR_EST, R.TEMP_OK, R.TEMP, R.VMON_OK, R.VMON]
  | .hbm0 => [R.HBM_RATE_CUR, R.HBM_STEP_BUSY, R.HBM_REF_TFACT, R.HBM_TIMA]
  | .hbm2 => [R.HBM_CMP_BUSY]
  | .far0 => [R.FAR_STATE]
  | .far1 => [R.FAR_IO_BUSY]
  | .core1 => [R.GRT_TH_STATE, R.GRT_TH_CAUSE, R.GRT_TH_PRIOR]
  | .core2 => [R.GRT_DBG_BUSY]
  | .boot => [R.BOOT_STAGE, R.BOOT_LD_BUSY]
  | .hif => [R.HIF_SPEED, R.HIF_WIDTH, R.HIF_LINK_UP, R.HIF_BME]
  | .ring => [R.RING_STATE]
  | .icu => [R.ICU_TGT_SLEEP_HI]
  | .fmu => [R.FMU_TRIP_HOLD]
  | .snp => [R.SNP_BUSY]
  | .chm => [R.CHM_FREE, R.CHM_SHARED_USED, R.CHM_HDRM_USED, R.CHM_BKLG_USED, R.CHM_REFILL_USED]
  | _ => []

/-- The fields that a soft reset of an enabled pool's page leaves (R228). -/
def poolKeeps : List Fld :=
  [R.POOL_MEM, R.POOL_OWNERS, R.POOL_SIZE, R.POOL_BASE_LO, R.POOL_BASE_HI, R.POOL_COUNT, R.POOL_FREE_CNT, R.POOL_WARN,
    R.POOL_CRIT, R.POOL_LOST]

namespace Body

/-- The block registers of a page at their reset values, but for RWL fields and the fields in `keep` (R44). -/
def regsReset (b : Body) (page : Nat) (k : PK) (keep : List Fld) : Body :=
  let kept := fun (key : Nat) => (k.fieldsAt (key / 32 - page)).any fun x =>
    x.1.lo == key % 32 && (x.1.acc == .rwl || keep.contains x.1)
  let stay := fun (e : Nat × Nat) => decide (e.1 < (page + 0x80) * 32) || decide ((page + 0x800) * 32 ≤ e.1) || kept e.1
  let held := fun (o : OldVal) => match o.tgt with
    | .reg a => pageOf a != page
    | _ => true
  { b with regs := b.regs.filter stay, cairn := { b.cairn with old := b.cairn.old.filter held } }

/-- What a soft reset ends before the registers return to reset: an enabled port, a running ring, a far link, assemblies in the
apertures, the slew and the validity of the time of day, shapers of the service nodes. -/
def softBefore (b : Body) (page : Nat) (k : PK) : Body :=
  match k with
  | .lane => let l := laneOf page; if b.prd l R.PORT_EN = 1 then b.portDisable l else b
  | .ring => b.ringReset (page / 0x1000 - 0xE10) true
  | .far0 => let p := page / 0x80000 % 2; if b.frd p R.FAR_LINK_EN = 1 then b.farLinkEnable p false else b
  | .aperture => (List.range 12).foldl (fun b n => (b.storeAperture (Pg.aperture + 0x80 + 8 * n) 0).1) b
  | .lamp => let b := b.todInvalid; ({ b with lamp := { b.lamp with slew := 0, latch := [] } }).setCap 0
  | .schSvcShp => (List.range 384).foldl (fun b i =>
      let a := page + 0x80 + 4 * i
      let v := (fieldsOf a).foldl (fun v x => v + x.1.reset x.2.1 * 2 ^ x.1.lo) 0
      if b.regWord a = v then b else b.rwsTake a v) b
  | _ => b

/-- What a soft reset entails after the registers have returned to reset. -/
def softAfter (b : Body) (page : Nat) (k : PK) : Body :=
  match k with
  | .governor => (List.range 6).foldl (fun b n => b.govModeApply n) b
  | .clocks => b.synceUpdate
  | .chm => b.chmRefresh
  | .ds => b.dsHigh
  | .pool => b.minClear (page / 0x1000 % 0x10)
  | .lane => b.pfcEntrance (laneOf page)
  | .echo0 => { b with echo := { b.echo with drawn := 0, arch := 0 } }
  | .blank => if page % 0x100000 = 0 ∧ 0x100000 ≤ page ∧ page < 0x900000 then b.galResetReq (galOf page) else b
  | _ => b

/-- A write of 1 to PG_SRST (R44, R68, R228, R282). The reset masks of SUMP_MAP apply to the lines as they are stored (R325). -/
def softReset (b : Body) (page : Nat) : Body :=
  match kindAt page with
  | none => b
  | some k =>
    let b := if k = .cairn then b.cairnReset
      else
        let b := b.softBefore page k
        let keep := if k = .pool ∧ b.on page R.PG_EN then poolKeeps else k.shows
        let b := if k = .icu then b.icuTargets (page / 0x1000 - 4) fun b => b.regsReset page k keep
          else if k = .sump then sumpRemap b (b.regsReset page k keep)
          else b.regsReset page k keep
        b.softAfter page k
    b.wr page R.PG_RESET_BUSY 1

/-- The soft reset of a page ends (R44). -/
def softResetDone (b : Body) (page : Nat) : Body := b.wr page R.PG_RESET_BUSY 0

/-! Events and faults as written. -/

/-- A write of EVT_PEND: W1C, and a lasting event whose condition holds is set again (R447). -/
def evtClear (b : Body) (page v : Nat) : Body :=
  match kindAt page with
  | none => b
  | some k =>
    k.evts.foldl (fun b n =>
      if bitOn v n ∧ b.on page (evtPend n) then
        (b.wr page (evtPend n) 0).holdEvent page n
      else b) b

/-- A change to what a page's events present to the banks: an input that rises is a new occurrence there (R447, R449). -/
def evtRoute (b : Body) (page : Nat) (f : Body → Body) : Body :=
  let was := [0, 1].map fun k => b.icuInput k page
  let b := f b
  [0, 1].foldl (fun b k => if b.icuInput k page ∧ ¬ was.getD k false then b.icuEdge k page else b) b

/-- A word written to the bits of EVT_EN, EVT_CLASS or FLT_SEV that the page defines. -/
def setBits (b : Body) (page v : Nat) (l : List Nat) (f : Nat → Fld) : Body :=
  l.foldl (fun b n => b.wr page (f n) (bitField v n n)) b

/-- An event fired by EVT_INJ, exactly as its source would (R42): a Governor stall stalls (R32). -/
def evtInject (b : Body) (page v : Nat) : Body :=
  match kindAt page with
  | none => b
  | some k =>
    k.evts.foldl (fun b n =>
      if ¬ bitOn v n then b
      else if page = Pg.governor ∧ n = R.GOV_EVT_STALL then b.govStall true
      else b.fire page n) b

/-- A detector fired by FLT_INJ with its full effect (R42, R468): one that finds its error in a packet, a buffer, a record or a
wake is armed for the next. -/
def fltFire (b : Body) (page : Nat) (k : PK) (n : Nat) : Body :=
  let g := galOf page
  let info : FltInfo := { inj := true }
  match k, n with
  | .lamp, 0 => (b.glwMark 17).thermTrip true
  | .galPower, 0 => b.setGp g { b.gp g with arm := true }
  | .fmu, 0 => { b with irq := { b.irq with recArm := true } }
  | .icu, 0 => (b.icuStateFault (page / 0x1000 - 4)).fault page n info
  | .pool, 0 =>
    let p := page / 0x1000 % 0x10
    if b.buf.bitArm.contains p then b
    else match b.allocOf p with
      | i :: _ => if b.buf.bitBad.contains (p, i) then b else { b with buf := { b.buf with bitBad := (p, i) :: b.buf.bitBad } }
      | [] => { b with buf := { b.buf with bitArm := p :: b.buf.bitArm } }
  | .chm, 3 => b.freeListErr.fault page n info
  | .rim, 0 => (b.selfCheck).fault page n info
  | .core0, 2 => b.deadlockFire (page / 0x4000 % 32) true
  | .parser, 0 => { b with pipe := { b.pipe with parserArm := insertNat g b.pipe.parserArm } }
  | .act, 1 => { b with pipe := { b.pipe with ucodeArm := insertNat g b.pipe.ucodeArm } }
  | .msec, 0 => (b.keyInject g).fault page n info
  | .preclass, 0 => { b with net := { b.net with entEcc := insertNat g b.net.entEcc } }
  | _, _ => b.fault page n info

/-- A write of FLT_INJ (R42). -/
def fltInject (b : Body) (page v : Nat) : Body :=
  match kindAt page with
  | none => b
  | some k => k.fltBits.foldl (fun b n => if bitOn v n then b.fltFire page k n else b) b

/-- A write of PG_CTRL (R42, R44, R45, R228). -/
def ctrlStore (b : Body) (page v : Nat) (k : PK) : Body × Bool :=
  let en := v % 2
  let b := match k with
    | .pool => let n := page / 0x1000 % 0x10; if en = 1 then b.poolEnable n else b.poolDisable n
    | _ => b.wr page R.PG_EN en
  let ok := b.rd page R.PG_EN == en
  (if bitOn v 1 then b.softReset page else b, ok)

/-- A write of PG_PWR (R42): lanes (R97), Galleries (R292); other blocks support only full operation. -/
def pwrStore (b : Body) (m page v : Nat) (k : PK) : Body × Bool :=
  let r := v % 16
  match k with
  | .lane => let b := b.lanePower (laneOf page) r; (b, b.rd page R.PG_PWR_REQ == r)
  | .galPower => let b := b.galleryPowerRequest (galOf page) m r; (b, b.rd page R.PG_PWR_REQ == r)
  | _ => (b, r == 0)

/-- A write of a header register other than PG_LOCK by a master. -/
def hdrStore (b : Body) (m a v : Nat) : Body × Bool :=
  let page := pageOf a
  match kindAt a with
  | none => (b, false)
  | some k =>
    match a % 0x1000 with
    | 0x10 => b.ctrlStore page v k
    | 0x18 => b.pwrStore m page v k
    | 0x20 => (b.evtClear page v, true)
    | 0x24 => (b.evtRoute page fun b => b.setBits page v k.evts evtEn, true)
    | 0x28 => (b.evtRoute page fun b => b.setBits page v k.evts evtClass, true)
    | 0x2C => (b.evtInject page v, true)
    | 0x40 => (b.fltClear page v, true)
    | 0x44 => (b.fltEnWrite page v, true)
    | 0x48 => (b.fltInject page v, true)
    | 0x4C => (b.setBits page v k.fltBits fltSev, true)
    | _ => (b, true)

end Body

end Sys2Proof.Machine
end

