-- ==== Sys2Proof/Machine/Bus.lean ====
section
/-! DEFINITION. BAR0 accesses (R38 to R42): what each address reads as, and where a write goes. A register access is made at the
level of the whole engine, since locks and fuses are sticky. -/

namespace Sys2Proof.Machine

/-- Where a BAR0 address lies: the common header of a page, its block registers, a table-access window or a bulk aperture, or
behind no page. -/
inductive Place where
  | header | block | window | nothing
deriving DecidableEq, Repr

/-- The place of an address (R41, R42, R49). -/
def placeOf (a : Nat) : Place :=
  if 0x4000000 ≤ a then .nothing
  else if 0x1000000 ≤ a then .window
  else if (kindAt a).isNone then .nothing
  else if a % 0x1000 < 0x80 then .header
  else if a % 0x1000 < 0x800 then .block
  else .window

/-- Whether a page of a kind has a table-access window. -/
def PK.window : PK → Bool
  | .lamp | .governor | .icu | .fmu | .survey | .galPower | .preclass | .lane | .msec | .parser | .act | .rew | .chm | .chmCtr
  | .chmQ | .chmPC | .sch | .schPort | .schSvc | .schSub | .schQ | .schState | .rim | .vault | .lpm | .lkp | .hbm0 | .hbm2
  | .hbm3 | .sump | .far0 | .core0 | .cplx0 | .cplx1 | .hif | .boot | .ring | .echo0 | .echo1 => true
  | _ => false

/-- The number of a page within its page group (R41); the device-wide pages are in no group. -/
def pgIndex (page : Nat) : Nat :=
  let n := page / 0x1000
  if n < 0x100 then Config.pgIndexWide page % 256
  else if n < 0x900 then
    let q := n % 0x100
    if q < 0x10 then q else if q < 0x50 then q - 0x10 else if q < 0x80 then q % 8 else q % 4
  else if 0xB00 ≤ n ∧ n < 0xC00 then n % 0x40
  else if 0xC00 ≤ n ∧ n < 0xD00 then n % 0x80
  else if 0xD00 ≤ n ∧ n < 0xD80 then n % 4
  else if 0xD80 ≤ n ∧ n < 0xE00 then n % 8
  else if 0xE10 ≤ n ∧ n < 0xF00 then n - 0xE10
  else if 0x920 ≤ n ∧ n < 0x960 then n - 0x920
  else n % 16

/-- The block instance of a page (R42): the number of its Gallery, HBM stack, far port or core. -/
def pgInst (page : Nat) : Nat :=
  let n := page / 0x1000
  if 0x100 ≤ n ∧ n < 0x900 then n / 0x100 - 1
  else if 0xB00 ≤ n ∧ n < 0xC00 then (n - 0xB00) / 0x40
  else if 0xC00 ≤ n ∧ n < 0xD00 then (n - 0xC00) / 0x80
  else if 0xD00 ≤ n ∧ n < 0xD80 then (n - 0xD00) / 4
  else Config.pgInst page % 256

/-- Whether a page is page 3 of a Grotto core, which has a window of counters and no block registers (R388). -/
def corePage3 (page : Nat) : Bool := decide (0xD00000 ≤ page ∧ page < 0xD80000) && page / 0x1000 % 4 == 3

/-- PG_ID and the capability words of a page (R42). -/
def pgIdent (page : Nat) : Nat := (1 + Config.pgType page % 4095) * 2 ^ 20 + pgInst page * 2 ^ 12 + 0x100 + pgIndex page
def pgCap0 (page : Nat) (k : PK) : Nat :=
  b2n (k.window || corePage3 page) * 2 ^ 31 + b2n (k.flds.any fun f => f.acc == .rws) * 2 ^ 30 +
  b2n (k.flds.any fun f => f.acc == .rwl) * 2 ^ 29 + Config.pgCapBlk0 page % 2 ^ 29

/-- The frequency in MHz of a clock domain while it runs (R285). -/
def clkNominal (d : Nat) : Nat := [25, 200, 500, 1000, 1000, 1800, 1800, 1800, 1800, 1800, 1800, 1800, 1800, 1800, 1500, 2000,
  1500, 1000].getD d 0

/-- The step of boot at whose end PG_READY of a page rises (R521). -/
def readyStep (page : Nat) : Nat :=
  if decide (0x900000 ≤ page ∧ page < 0x910000) || decide (0xA00000 ≤ page ∧ page < 0xA60000) then 6
  else match kindAt page with
    | some .preclass => 6
    | some .rew => 6
    | _ =>
      if 0xB00000 ≤ page ∧ page < 0xC00000 then 8
      else if 0xD00000 ≤ page ∧ page < 0xD80000 then 9
      else 5

namespace Body

/-- PG_READY (R521). -/
def pageReady (b : Body) (page : Nat) : Bool := decide (readyStep page ≤ b.boot.reached)

/-- Header bits of a page as a word. -/
def bitsOf (b : Body) (page : Nat) (l : List Nat) (f : Nat → Fld) : Nat :=
  (l.map fun n => b.rd page (f n) * 2 ^ n).foldl (· + ·) 0

/-- Whether a domain's PLL has lock: it is not lost, and a parked Gallery's is off, until power-good of its wake (R285, R287, R295). -/
def clkLocked (b : Body) (d : Nat) : Bool :=
  b.sup.mode == .running && !b.lamp.lost.contains d && !(decide (5 ≤ d ∧ d ≤ 12) &&
    (b.galState (d - 5) == 6 || (b.galState (d - 5) == 7 && (b.gp (d - 5)).left == 6 && !(b.gp (d - 5)).good)))

/-- The rate code that every stack is at, where they agree. -/
def rateAll (b : Body) : Option Nat :=
  let r := b.hrd 0 R.HBM_RATE_CUR
  if (List.range 4).all fun s => b.hrd s R.HBM_RATE_CUR == r then some r else none

/-- The measured frequency of a domain (R317): of a Gallery at its step, of D16 where the stacks are at one rate; an open value
for D16 at several. A stopped clock measures zero. -/
def clkFreq (b : Body) (d : Nat) : Body × Nat :=
  if ¬ b.clkRuns d then (b, 0)
  else if 5 ≤ d ∧ d ≤ 12 then (b, [1800, 1350, 900, 450].getD (b.galState (d - 5)) 0)
  else if d = 16 then
    match b.rateAll with
    | some r => (b, ratePeak r * 1500 / 15360)
    | none => let (v, b) := b.free 16; (b, v)
  else (b, clkNominal d)

/-- The valid entries of the classifier CAM. -/
def clsCnt (b : Body) : Nat := ((b.entIdxs Tbl.cls).filter fun i => ceValid (b.ent Tbl.cls i)).length

/-- A field of the Lamp that a read computes: the time latched for the reading master (R303), the slew that is left (R302). -/
def liveLamp (b : Body) (m : Nat) (f : Fld) : Option Nat :=
  let t := b.latched m
  let s := t / 65536 / 1000000000
  if f = R.TOD_RD_FRAC then some (t % 65536)
  else if f = R.TOD_RD_NS then some (t / 65536 % 1000000000)
  else if f = R.TOD_RD_SECLO then some (s % 2 ^ 32)
  else if f = R.TOD_RD_SECHI then some (s / 2 ^ 32 % 2 ^ 16)
  else if f = R.TOD_PHASE_ADJ then some b.todPhaseRd
  else none

/-- A field of a lookup page that a read computes: counts of entries. -/
def liveLookup (b : Body) (f : Fld) : Option Nat :=
  if f = R.CLS_VALID_CNT then some b.clsCnt
  else if f = R.EXM_VALID_CNT then some b.exmCnt
  else if f = R.EXM_STASH_CNT then some b.stashCnt
  else if f = R.DS_VALID_CNT then some b.dsValidIdxs.length
  else if f = R.DS_WD_CNT then some b.dsWdCnt
  else if f = R.DS_NONE_FREE then some (b2n b.dsFreeHint.isNone)
  else if f = R.DS_FREE_HINT then some (b.dsFreeHint.getD 0)
  else none

/-- A field of a Grotto core's thread block that a read computes. -/
def liveThread (b : Body) (th : Nat) (f : Fld) : Option Nat :=
  if f = R.GRT_TH_PC then some (b.thr th).pc
  else if f = R.GRT_TH_WMASK then some (b.effMask th)
  else if f = R.GRT_TH_EVT then some (b.pendBits th)
  else none

/-- A field of any other page that a read computes. -/
def liveField (b : Body) (m page : Nat) (k : PK) (f : Fld) (i : Nat) : Option Nat :=
  match k with
  | .lamp => b.liveLamp m f
  | .cairn =>
    if f = R.CAIRN_MYSLOT then some ((b.boundSlot m).getD 15)
    else if f = R.CAIRN_VS_USED then some b.versionUsed
    else none
  | .galPower =>
    let g := page / 0x100000 - 1
    if f = R.GAL_REST_BLOCK then some (b.restBlock g (b.gpReq g / 4 % 4)) else none
  | .clocks =>
    if f = R.CLK_RUN then some (b2n (b.clkRuns i)) else if f = R.CLK_LOCK then some (b2n (b.clkLocked i)) else none
  | .cls => b.liveLookup f
  | .exm => b.liveLookup f
  | .ds => b.liveLookup f
  | .sch => if f = R.SCH_REFILL_NEXT then some (b.sch.next - b.clk) else none
  | .aperture => if f = R.TBL_AP_STRIDE then some (tblStride (b.rd page R.TBL_AP_TABLE i)) else none
  | .hbm0 =>
    if f = R.HBM_REF_TFACT then some (b.refFactor ((page - 0xB00000) / 0x40000) / 2) else none
  | .core1 => b.liveThread (8 * ((page - 0xD00000) / 0x4000) + i) f
  | .icu =>
    let s := b.icuNext (page / 0x1000 - 4) i
    if f = R.ICU_NEXT_VALID then some (b2n s.isSome) else if f = R.ICU_NEXT_SRC then some (s.getD 0) else none
  | .fmu =>
    if f = R.FMU_FAULT_N then some (b2n b.faultPin)
    else if f = R.FMU_FAULT_PAGES then some (min b.faultyPages.length 4095)
    else none
  | _ => none

end Body

namespace Body

/-! Access rights of threads (R362). -/

/-- Whether a register range of the thread's core opens a BAR0 address to it. -/
def rangeOpens (b : Body) (th a i : Nat) (wr : Bool) : Bool :=
  let e := b.ent (Tbl.range (th / 8)) i
  let n := 2 ^ bitField e 18 14
  let lo := bitField e 13 0 * 4096
  bitOn e 31 && (!wr || bitOn e 30) && bitOn e (32 + th % 8) && decide (lo ≤ a ∧ a < lo + n)

/-- Whether a thread may access a BAR0 address. -/
def barReach (b : Body) (th a : Nat) (wr : Bool) : Bool :=
  !isCust th || (!decide (0xD00000 ≤ a ∧ a < 0xE00000) && (List.range 8).any fun i => b.rangeOpens th a i wr)

/-- The same for any master: the others reach every address. -/
def masterReach (b : Body) (m a : Nat) (wr : Bool) : Bool := !Master.isThread m || b.barReach (m - 0x100) a wr

end Body

namespace Dev

/-- BOOT_FUSE as the fuses hold it (R397, R398, R415). -/
def fuseField (d : Dev) (f : Fld) : Option Nat :=
  let bits := fun (l : List Nat) => (l.map fun n => 2 ^ n).foldl (· + ·) 0
  if f = R.BOOT_KEY_PROV then some (bits (0 :: d.sticky.prov.map (·.1)))
  else if f = R.BOOT_KEY_REVOKED then some (bits d.sticky.revoked)
  else if f = R.BOOT_SVN_V then some d.sticky.svnV
  else if f = R.BOOT_SVN_C then some d.sticky.svnC
  else none

/-- Whether a page is locked (R46). -/
def pageLocked (d : Dev) (page : Nat) : Bool := d.sticky.locked.contains page

/-- A read of a field (R7): an RC field is cleared by it. -/
def readField (d : Dev) (m page : Nat) (k : PK) (x : Fld × Nat × Nat) : Dev × Nat :=
  let b := d.body
  let (f, i, j) := x
  if f.acc = .wo then (d, 0)
  else if f = R.POOL_MIN ∧ k = .pool then ({ d with body := b.minClear (page / 0x1000 % 0x10) }, b.rd page f)
  else if f.acc = .rc then ({ d with body := b.wr page f 0 i j }, b.rd page f i j)
  else if f = R.LANE_SNR ∧ k = .lane then
    let (v, b) := b.free 16
    ({ d with body := b }, v)
  else if f = R.CLK_FREQ_MHZ ∧ k = .clocks then
    let (b, v) := b.clkFreq i
    ({ d with body := b }, v)
  else
    let v := match (if k = .boot then d.fuseField f else none) with
      | some v => v
      | none => (b.liveField m page k f i).getD (b.rd page f i j)
    (d, v % 2 ^ f.width)

/-- A read of a block register (R7, R9, R44, R97, R303). -/
def readBlock (d : Dev) (m a : Nat) (k : PK) : Dev × Nat :=
  let page := pageOf a
  let l := fieldsOf a
  if d.body.on page R.PG_RESET_BUSY then
    (d, l.foldl (fun v x => v + (if x.1.acc = .wo then 0 else x.1.reset x.2.1) * 2 ^ x.1.lo) 0)
  else if k = .lane ∧ 0x100 ≤ a % 0x1000 ∧ d.body.notPort (laneOf a) then
    ({ d with body := d.body.fire page R.PORT_EVT_NOTPORT }, 0)
  else
    let d := if (fieldAt a R.TOD_RD_FRAC).isSome then { d with body := d.body.todLatch m } else d
    l.foldl (fun r x => ((r.1.readField m page k x).1, r.2 + (r.1.readField m page k x).2 * 2 ^ x.1.lo)) (d, 0)

/-- A read of a register of the common header (R42). -/
def readHeader (d : Dev) (a : Nat) (k : PK) : Dev × Nat :=
  let page := pageOf a
  let b := d.body
  match a % 0x1000 with
  | 0x00 => (d, pgIdent page)
  | 0x04 => (d, Config.pgStep % 256 * 2 ^ 24 + b.rd page R.PG_COMPAT * 2 ^ 16 + Config.pgBlkRev page % 2 ^ 16)
  | 0x08 => (d, pgCap0 page k)
  | 0x0C => (d, Config.pgCapBlk1 page % 2 ^ 32)
  | 0x10 => (d, b.rd page R.PG_EN)
  | 0x14 => (d, b2n (d.pageLocked page) * 4 + b.rd page R.PG_RESET_BUSY * 2 + b2n (b.pageReady page))
  | 0x18 => (d, b.rd page R.PG_PWR_STATE * 256 + b.rd page R.PG_PWR_REQ)
  | 0x20 => (d, b.bitsOf page k.evts evtPend)
  | 0x24 => (d, b.bitsOf page k.evts evtEn)
  | 0x28 => (d, b.bitsOf page k.evts evtClass)
  | 0x30 => ({ d with body := b.wr page R.EVT_OVR 0 }, b.rd page R.EVT_OVR)
  | 0x40 => (d, b.bitsOf page k.fltBits fltStat)
  | 0x44 => (d, b.bitsOf page k.fltBits fltEn)
  | 0x4C => (d, b.bitsOf page k.fltBits fltSev)
  | 0x60 => (d, b.pgTxn page)
  | 0x64 => (d, b2n (d.pageLocked page))
  | _ => (d, 0)

/-- What the word at an address reads as, and what the read does (R38, R41). -/
def readAt (d : Dev) (m addr : Nat) : Dev × Nat :=
  let a := addr / 4 * 4
  match placeOf a with
  | .nothing => (d, 0)
  | .window => let r := d.body.winRead m a; ({ d with body := r.1 }, r.2)
  | .header => match kindAt a with | some k => d.readHeader a k | none => (d, 0)
  | .block => match kindAt a with | some k => d.readBlock m a k | none => (d, 0)

/-- An access that no range allows is not made, and faults the running thread (R362). -/
def denied (d : Dev) (m addr : Nat) (wr : Bool) : Dev :=
  if d.body.tst (m - 0x100) = TH_RUN then
    { d with body := d.body.tfault (m - 0x100) CS_REG_DENIED addr { access := 1 + b2n wr, space := 1, addr := addr } }
  else d

/-- A read of a BAR0 word by a master. Before boot step 5 nothing answers (R390). -/
def busRead (d : Dev) (m addr : Nat) : Dev × Nat :=
  if ¬ d.body.boot.bar0 then (d, 0)
  else if ¬ d.body.masterReach m addr false then (d.denied m addr false, 0)
  else d.readAt m addr

/-- A write of PG_LOCK (R46). -/
def lockPage (d : Dev) (page v : Nat) : Dev :=
  if bitOn v 0 ∧ ¬ d.pageLocked page then { d with sticky := { d.sticky with locked := d.sticky.locked ++ [page] } } else d

/-- Whether a window write reaches the load buffer from a master that may not use the load path, or while checks run (R405). -/
def loadBufRefused (b : Body) (m a : Nat) : Option Body :=
  if a / 0x1000 * 0x1000 ≠ Pg.boot then none
  else if m ≠ Master.host ∧ m ≠ Master.jtag then some (b.fire Pg.boot R.BOOT_EVT_BADCMD)
  else if b.on Pg.boot R.BOOT_LD_BUSY then some b
  else none

/-- A write of a BAR0 word by a master that reaches the page (R7, R41, R42, R50); the actions of the boot page that reach beyond
its registers are not among it. Answers whether the write was accepted. -/
def pageWrite (d : Dev) (m addr v : Nat) : Dev × Bool :=
  let a := addr / 4 * 4
  let page := pageOf a
  match placeOf a with
  | .nothing => (d, true)
  | .window =>
    match loadBufRefused d.body m a with
    | some b => ({ d with body := b }, false)
    | none => ({ d with body := d.body.winWrite m a v }, true)
  | .header =>
    if a % 0x1000 = 0x64 then (d.lockPage page v, true)
    else let r := d.body.hdrStore m a v; ({ d with body := r.1 }, r.2)
  | .block => let r := d.body.regStore m a v (d.pageLocked page); ({ d with body := r.1 }, r.2)

/-- A write whose byte enables do not cover all four bytes (R38). -/
def busPartial (d : Dev) (m addr : Nat) : Dev :=
  let a := addr / 4 * 4
  let info : FltInfo := { access := 2, space := 1, addr := a, master := m }
  if ¬ d.body.boot.bar0 then d
  else if placeOf a = .nothing then d
  else { d with body := d.body.fault (if 0x1000000 ≤ a then Pg.aperture else pageOf a) FLT_ACCESS info }

end Dev

end Sys2Proof.Machine
end

