-- ==== Sys2Proof/Machine/Boot.lean ====
section
/-! DEFINITION. Resets and boot (R288, R314, R390 to R406, R420, R497 to R501): what a reset clears, Asuth's steps, the host load
path, key slots, and the reset of the host interface. -/

namespace Sys2Proof.Machine

def STAGE_ROM : Nat := 0
def STAGE_CONFIG : Nat := 1
def STAGE_DONE : Nat := 8
def STAGE_WAIT_HOST : Nat := 9
def STAGE_FAILED : Nat := 10

/-- The pages behind BAR0 (R41). -/
def allPages : List Nat := ((List.range 0x1000).filter fun n => (pageKind n).isSome).map (· * 0x1000)

/-- Whether Asuth sets PG_EN of a page: every page but the pool pages and the far pages (R45). -/
def bootEnables (page : Nat) : Bool := !(decide (0xC00000 ≤ page ∧ page < 0xD00000) || decide (0xF00000 ≤ page ∧ page < 0xF10000))

namespace Body

/-! Resets (R497). -/

/-- The device-wide pages, whose PG_EN resets to 1 (R42). -/
def widePages : List Nat := (List.range 8).map (· * 0x1000)

/-- A comparator entry that an engine reset leaves acting (R497): its reset value, tripped as it was, with its last sample. -/
def glowKept (b : Body) (n : Nat) : Nat :=
  let e := b.ent Tbl.glow n
  setBitField (setBitField (glowFixed n) 127 96 (bitField e 127 96)) 254 254 (bitField e 254 254)

/-- The engine with everything cleared but time, what has been shown, the far and host memories, the pins' sources and the I3C and
test ports; where the Lamp kept its power, also TH_TRIP_LAST, the time of day and comparators 0 to 17 (R497). -/
def engineClear (b : Body) (por : Bool) : Body :=
  let z : Body := { clk := b.clk, fresh := b.fresh, out := b.out, rdata := b.rdata,
                    mem := { far0 := b.mem.far0, far1 := b.mem.far1, host := b.mem.host }, sup := b.sup,
                    svc := if por then { instr := b.svc.instr } else b.svc }
  let z := { z with lamp := { z.lamp with refLost := b.lamp.refLost }, sch := { z.sch with next := b.clk + 128 } }
  let z := widePages.foldl (fun z p => z.wr p R.PG_EN 1) z
  if por then z
  else
    let z := { z with tod := b.tod, lamp := { z.lamp with todRem := b.lamp.todRem, run := b.lamp.run.filter fun e => e.1 < 18 } }
    let z := z.wr Pg.lamp R.TH_TRIP_LAST (b.rd Pg.lamp R.TH_TRIP_LAST)
    let z := (List.range 18).foldl (fun z n => z.setEnt Tbl.glow n (b.glowKept n)) z
    if glwTripped (b.ent Tbl.glow 16) then (z.wr Pg.lamp R.TH_THROTTLED 1).stepAll else z

/-! Failures (R404). -/

/-- BOOT_STAGE, and the error with its directory entry. -/
def bootStage (b : Body) (s : Nat) : Body := b.wr Pg.boot R.BOOT_STAGE s
def bootError (b : Body) (code ent : Nat) : Body := (b.wr Pg.boot R.BOOT_ERR code).wr Pg.boot R.BOOT_ERR_ENT ent
def bootHalt (b : Body) : Body := b.fault Pg.boot R.BOOT_FLT_HALT

/-- Boot stops in FAILED. -/
def bootFail (b : Body) (code : Nat) : Body := ((b.bootStage STAGE_FAILED).wr Pg.boot R.BOOT_ERR code).bootHalt

/-- Boot has come to a step. -/
def reach (b : Body) (n : Nat) : Body := { b with boot := { b.boot with reached := max b.boot.reached n } }

/-- Step 5: D2 and the other domains start, and BAR0 answers; a trip's fault is recorded at the first D2 clock (R316). -/
def bootClocks (b : Body) : Body :=
  let b := (b.bootStage 2).reach 5
  if b.sup.tripDue then
    ({ b with sup := { b.sup with tripDue := false, tripInj := false } }).fault Pg.lamp R.TH_FLT_TRIP { inj := b.sup.tripInj }
  else b

/-- Boot pauses in WAIT_HOST at a step. The host can load only through BAR0, so the clocks have started. -/
def bootPause (b : Body) (step : Nat) : Body :=
  let b := if b.boot.bar0 then b else b.bootClocks
  (({ b with boot := { b.boot with paused := step } }).bootStage STAGE_WAIT_HOST).bootHalt

/-! What images put in place. -/

/-- The segments of a payload written into their threads' slices, with the entries (R402). -/
def putSegments (b : Body) (p : List Byte) : Body :=
  (Config.imgSegments p).foldl (fun b s =>
    let th := s.1 - 0x100
    (b.grtWrite (sliceBase th + s.2.1) s.2.2.2.2).twr th R.GRT_TH_ENTRY s.2.2.1) b

/-- The threads of the segments whose START bit is set are started. -/
def startSegments (b : Body) (p : List Byte) : Body :=
  (((Config.imgSegments p).filter fun s => s.2.2.2.1).map fun s => s.1 - 0x100).eraseDups.foldl (fun b th => b.tstart th) b

/-- A boot configuration taken (R401). -/
def putConfig (b : Body) (p : List Byte) : Body :=
  { b with boot := { b.boot with regList := cfgList p, training := cfgTraining p } }

/-- An action-engine patch written by the boot port: every patch word and match register of every Gallery (R406, R407). -/
def putAePatch (b : Body) (p : List Byte) (ver : Nat) : Body :=
  let b := (List.range 8).foldl (fun b g =>
    let b := (List.range 512).foldl (fun b w => { b with tbls := Sp.set 0 b.tbls (entKey (Tbl.patch g) w) (aeWord p w) }) b
    (List.range 32).foldl (fun b i =>
      (b.wr (Pg.act1 g) R.ACT_M_VALID (aeMatch p i / 2 ^ 31) i).wr (Pg.act1 g) R.ACT_M_BLOCK (aeMatch p i % 1024) i) b) b
  b.wr Pg.boot R.BOOT_AE_PATCH_VER ver

/-! Steps without images. -/

/-- Step 7: every stack trained at every listed rate. A rate that fails stays untrained (R341). -/
def trainAll (b : Body) : Body :=
  let n := b.fresh
  (List.range 4).foldl (fun b s =>
    let rates := (List.range 7).filter fun r => bitOn b.boot.training r && Config.hbmTrains n s r
    (b.wr (Pg.hbm s 0) R.PG_EN 1).hwr s R.HBM_TRAINED ((rates.map fun r => 2 ^ r).foldl (· + ·) 0))
    { b with fresh := n + 1 }

/-- Step 8: the Sump written to zero; each stack left at its fastest trained rate, in DEADLINE (R329). -/
def sumpInit (b : Body) : Body :=
  let b := { b with mem := { b.mem with sump := [] }, hbm := { b.hbm with ce := [], ue := [], coded := [] } }
  (List.range 4).foldl (fun b s =>
    let r := ((List.range 7).find? fun r => bitOn (b.hrd s R.HBM_TRAINED) r).getD 6
    ((b.hwr s R.HBM_RATE_CUR r).hwr s R.HBM_RATE_REQ r).wr (Pg.hbm s 1) R.HBM_QOS_MODE 1) b

/-- The vendor threads start, with the core pages' fault reports on (R25, R380). -/
def startVendor (b : Body) : Body :=
  let b := (List.range 32).foldl (fun b c =>
    (List.range 4).foldl (fun b n => b.wr (Pg.core c 0) (fltEn n) 1) b) b
  ((List.range 256).filter fun th => !isCust th).foldl (fun b th => b.tstart th) b

end Body

namespace Dev

/-- The body changed. -/
def on (d : Dev) (f : Body → Body) : Dev := { d with body := f d.body }

/-- An image tried (R396), from the flash: with the flash released, the load fails with FLASH (R392). The injection is used up. -/
def tryImage (d : Dev) (ty : Nat) (e : List Byte) : Dev × Nat × List Byte :=
  let l := d.sticky.imageAt e
  let err := if d.body.on Pg.boot R.BOOT_FLASH_REL then BE_FLASH
    else d.sticky.imgError l (entLen e) (imgType l == ty) false d.body.boot.arm
  (d.on fun b => { b with boot := { b.boot with arm := none } }, err, l)

/-- Entry `n` of a directory loaded, or its alternate, tried once (R394, R404): the image, where one of them is accepted. -/
def loadEntry (d : Dev) (dir : List (List Byte)) (n : Nat) (e : List Byte) : Dev × Option (List Byte) :=
  let good := fun (d : Dev) (i : Nat) (l : List Byte) =>
    ({ sticky := d.sticky.commitSvn l,
       body := d.body.wr Pg.boot R.BOOT_IMG_OK (setBitField (d.body.rd Pg.boot R.BOOT_IMG_OK) i i 1) : Dev }, some l)
  let bad := fun (d : Dev) (code : Nat) =>
    (d.on fun b => (b.bootError code n).wr Pg.boot R.BOOT_IMG_FAIL (setBitField (b.rd Pg.boot R.BOOT_IMG_FAIL) n n 1), none)
  match d.tryImage (entType e) e with
  | (d, err, l) =>
    if err = BE_NONE then good d n l
    else match dir[entAlt e]? with
      | none => bad d err
      | some a =>
        match d.tryImage (entType e) a with
        | (d, err, l) => if err = BE_NONE then good d (entAlt e) l else bad d err

/-- The optional images of a type at some entries: each that loads is put in place, each that fails is shown (R404). -/
def loadOptional (d : Dev) (dir : List (List Byte)) (put : Body → List Byte → Body) : List (Nat × List Byte) → Dev
  | [] => d
  | x :: t =>
    match d.loadEntry dir x.1 x.2 with
    | (d, some l) => (d.on fun b => put b l).loadOptional dir put t
    | (d, none) => (d.on fun b => b.fire Pg.boot R.BOOT_EVT_IMG_FAIL).loadOptional dir put t

/-- The mandatory images of a type: every entry loads, or one fails. -/
def loadMandatory (d : Dev) (dir : List (List Byte)) (put : Body → List Byte → Body) : List (Nat × List Byte) → Dev × Bool
  | [] => (d, true)
  | x :: t =>
    match d.loadEntry dir x.1 x.2 with
    | (d, some l) => (d.on fun b => put b l).loadMandatory dir put t
    | (d, none) => (d, false)

/-- The payload that the host has loaded in WAIT_HOST for a step of boot. -/
def heldImage (d : Dev) (ty : Nat) : Option (List Byte) := (d.body.boot.held.find? fun e => e.1 == ty).map (·.2)

/-- A step's mandatory image: the host's where it has loaded one, else the flash's; without one, boot pauses. -/
def mandatory (d : Dev) (step ty : Nat) (put : Body → List Byte → Body) : Dev × Bool :=
  match d.heldImage ty with
  | some p => (d.on fun b => put b p, true)
  | none =>
    let none_ := (d.on fun b => (b.bootError BE_FLASH 0).bootPause step, false)
    if d.body.on Pg.boot R.BOOT_FLASH_REL then none_
    else match d.sticky.directory with
      | none => none_
      | some dir =>
        match (dirVisited dir).filter fun x => entType x.2 == ty with
        | [] => none_
        | xs =>
          match d.loadMandatory dir (fun b l => put b (Config.imgDecrypt l)) xs with
          | (d, true) => (d, true)
          | (d, false) => (d.on fun b => b.bootPause step, false)

/-- The directory as the optional loads of boot see it. -/
def bootDir (d : Dev) : List (List Byte) := d.sticky.directory.getD []

/-- The first entry of a patch type that serves this part (R394). -/
def patchEntry (d : Dev) (ty : Nat) : List (Nat × List Byte) :=
  ((dirVisited d.bootDir).filter fun x => entType x.2 == ty &&
    bitOn (imgStepMask (d.sticky.imageAt x.2)) (Config.pgStep / 16 % 16) && imgServes (d.sticky.imageAt x.2) 1).take 1

/-- Step 9: patches, vendor firmware, vendor threads. -/
def bootFirmware (d : Dev) : Dev × Bool :=
  let d := d.on fun b => b.bootStage 6
  let d := match d.heldImage IT_GRT_PATCH with
    | some p => d.on fun b => b.putGrtPatch (p.drop 4) (leAt p 0 4)
    | none => d.loadOptional d.bootDir (fun b l => b.putGrtPatch (Config.imgDecrypt l) (imgVersion l)) (d.patchEntry IT_GRT_PATCH)
  let d := d.loadOptional d.bootDir (fun b l => b.putAePatch (Config.imgDecrypt l) (imgVersion l)) (d.patchEntry IT_AE_PATCH)
  match d.mandatory 9 IT_GRT_FW fun b p => b.putSegments p with
  | (d, true) => (d.on fun b => b.startVendor.reach 9, true)
  | (d, false) => (d, false)

/-- Step 10: PG_EN where it has no effect (R45), then the register list as master 0x201 (R401). -/
def bootRegisters (d : Dev) : Dev :=
  let d := d.on fun b => (allPages.filter bootEnables).foldl (fun b p => b.wr p R.PG_EN 1) b
  d.body.boot.regList.foldl (fun d x => (d.pageWrite Master.asuth x.1 x.2).1) d

/-- Step 11: customer images; entries of reserved types fail (R400). -/
def bootCustomer (d : Dev) : Dev :=
  let d := d.on fun b => b.bootStage 7
  d.loadOptional d.bootDir (fun b l => (b.putSegments (Config.imgDecrypt l)).startSegments (Config.imgDecrypt l))
    ((dirVisited d.bootDir).filter fun x => entType x.2 == 0 || decide (5 ≤ entType x.2))

/-- Step 12: DONE. -/
def bootDone (d : Dev) : Dev := d.on fun b =>
  let (t, b) := b.free 32
  (((b.bootStage STAGE_DONE).wr Pg.boot R.BOOT_TIME_MS t).reach 12).fire Pg.boot R.BOOT_EVT_DONE

/-- A test of a step that this start passes or fails. -/
def bootTest (d : Dev) (step : Nat) : Dev × Bool :=
  (d.on fun b => { b with fresh := b.fresh + 1 }, Config.bootTest step d.body.fresh)

/-- A step of R390, and whether boot goes on after it. -/
def bootStep (d : Dev) (n : Nat) : Dev × Bool :=
  match n with
  | 2 =>
    match (d.on fun b => b.bootStage STAGE_ROM).bootTest 2 with
    | (d, false) => (d.on fun b => b.bootFail BE_ROM_SELF, false)
    | (d, true) =>
      match d.bootTest 3 with
      | (d, true) => (d, true)
      | (d, false) => (d.on fun b => let (c, b) := b.free 4; (b.fault Pg.boot R.BOOT_FLT_FUSE).bootFail c, false)
  | 4 => (d.on fun b => b.bootStage STAGE_CONFIG).mandatory 4 IT_BOOT_CFG fun b p => b.putConfig p
  | 5 => (d.on fun b => b.bootClocks, true)
  | 6 =>
    match (d.on fun b => b.bootStage 3).bootTest 6 with
    | (d, true) => (d.on fun b =>
        ({ b with mem := { b.mem with grt := [] }, grt := { b.grt with bad := [] } }).reach 6, true)
    | (d, false) => (d.on fun b => b.bootFail BE_MEMINIT, false)
  | 7 =>
    let d := d.on fun b => (b.bootStage 4).trainAll
    if (List.range 4).all fun s => d.body.hrd s R.HBM_TRAINED != 0 then (d, true)
    else (d.on fun b => b.bootFail BE_TRAIN, false)
  | 8 => (d.on fun b => ((b.bootStage 5).sumpInit).reach 8, true)
  | 9 => d.bootFirmware
  | 10 => (d.bootRegisters, true)
  | 11 => (d.bootCustomer, true)
  | 12 => (d.bootDone, true)
  | _ => (d, true)

/-- The steps of boot in order, until one stops it. -/
def bootSteps (d : Dev) : List Nat → Dev
  | [] => d
  | n :: t =>
    match d.bootStep n with
    | (d, true) => d.bootSteps t
    | (d, false) => d

/-- Asuth boots (R390), but under the manufacturing test strap (R500). -/
def asuth (d : Dev) : Dev := if d.body.sup.straps.test then d else d.bootSteps ((List.range 13).drop 2)

/-- An engine reset ends (R497): everything is cleared and unlocked, and Asuth starts. -/
def resetEnd (d : Dev) (por : Bool) : Dev :=
  let b := d.body.engineClear por
  let b := { b with sup := { b.sup with mode := .running, released := true, lampOnly := false,
                                        testPins := b.svc.instr.takesPins } }
  let b := if b.sup.straps.flashRel then b.wr Pg.boot R.BOOT_FLASH_REL 1 else b
  ({ sticky := { d.sticky with locked := [] }, body := b } : Dev).asuth

/-- What holds the engine in reset at a release of RESET_N (R498, R501): the reference is absent, or the junction is hot. -/
def resetTry (d : Dev) (por : Bool) : Dev :=
  if d.body.lamp.refLost then d.on fun b => { b with sup := { b.sup with mode := .held } }
  else if 840 ≤ d.body.jmax then
    d.on fun b => ({ b with sup := { b.sup with mode := .hot, lampOnly := false } }).wr Pg.fmu R.FMU_TRIP_HOLD 0
  else d.resetEnd por

/-- RESET_N falls (R501): every domain but D0 stops; the time of day goes on unadjusted and not valid (R497). -/
def resetAssert (d : Dev) : Dev :=
  if d.body.sup.mode = .off then d
  else d.on fun b =>
    let b := b.todInvalid.wr Pg.lamp R.TOD_FREQ_ADJ 0
    { b with sup := { b.sup with mode := .held, released := false }, lamp := { b.lamp with slew := 0 } }

/-- RESET_N rises with the straps as they are (R500, R501). -/
def resetRelease (d : Dev) (straps : Straps) : Dev :=
  if d.body.sup.mode ≠ .held ∨ d.body.sup.released then d
  else (d.on fun b => { b with sup := { b.sup with released := true, straps := straps } }).resetTry false

/-- The system reference returns (R307): a reset that waited for it ends (R498). -/
def sysrefReturn (d : Dev) : Dev :=
  let d := d.on fun b => b.sysrefReturn
  if d.body.sup.mode = .held ∧ d.body.sup.released then d.resetTry false else d

/-- The hold of R501 ends below 102 °C. -/
def hotEnd (d : Dev) : Dev := if d.body.sup.mode = .hot ∧ d.body.jmax < 816 then d.resetEnd false else d

/-- A rail below 90 % of nominal for 2 µs while RESET_N is released starts the brown-out hold (R499). -/
def brownoutStart (d : Dev) : Dev :=
  if d.body.sup.mode ≠ .running then d
  else d.on fun b =>
    let b := b.todInvalid.wr Pg.lamp R.TOD_FREQ_ADJ 0
    { b with sup := { b.sup with mode := .brownout }, lamp := { b.lamp with slew := 0 } }

/-- The hold ends and the engine boots. -/
def brownoutEnd (d : Dev) : Dev := if d.body.sup.mode = .brownout then d.resetEnd false else d

/-- The Lamp's power-on reset releases (R497, R500) with the straps of the I3C address; the engine boots where RESET_N is already
released and every rail is up. -/
def lampPowerOn (d : Dev) (sa : Nat) (ready : Bool) (straps : Straps) : Dev :=
  if d.body.sup.mode ≠ .off then d
  else
    let d := d.on fun b =>
      { b.engineClear true with sup := { mode := .held, released := ready, straps := if ready then straps else {}, sa := sa % 4,
                                         lampOnly := true } }
    if ready then d.resetTry true else d

/-- VDD_LAMP falls below 0.69 V: the Lamp's power-on reset asserts (R497). -/
def lampPowerLoss (d : Dev) : Dev := d.on fun b => { b.engineClear true with sup := { mode := .off } }

/-! WAIT_HOST and the host load path. -/

/-- BOOT_LD_RESUME (R404): boot goes on from the step that paused. -/
def bootResume (d : Dev) : Dev :=
  if d.body.rd Pg.boot R.BOOT_STAGE ≠ STAGE_WAIT_HOST then d
  else
    let p := d.body.boot.paused
    let need := if p = 4 then IT_BOOT_CFG else IT_GRT_FW
    let d := d.on fun b => if (d.heldImage need).isSome then b.wr Pg.boot R.BOOT_FROM_HOST 1 else b
    d.bootSteps ((List.range 13).drop p)

/-- The targets of an action-engine patch staged in a slot (R406, R522). -/
def stagePatch (b : Body) (n : Nat) (p : List Byte) : Body :=
  (List.range 8).foldl (fun b g =>
    let b := (List.range 512).foldl (fun b w =>
      (b.stage n { tgt := .patch g w, val := aeWord p w, addr := Pg.act1 g + 0x800 + 4 * w }).1) b
    (List.range 32).foldl (fun b i =>
      (b.stage n { tgt := .matchReg g i, val := aeMatch p i, addr := Pg.act1 g + 0x100 + 4 * i }).1) b) b

/-- An accepted host image put in place, or staged. -/
def putHostImage (d : Dev) (l : List Byte) : Dev :=
  let p := Config.imgDecrypt l
  let ty := imgType l
  if ty = IT_AE_PATCH then
    match d.body.boundSlot d.body.boot.master with
    | none => d
    | some n => d.on fun b =>
      let b := stagePatch b n p
      let x := b.slot n
      if b.crd R.CAIRN_STATE n ≠ CS_OPEN then b
      else b.setSlot n { x with patch := some (imgVersion l % 2 ^ 16), svn := if imgCommit l then some (imgSvn l % 64) else none }
  else
    let d := { d with sticky := d.sticky.commitSvn l }
    if ty = IT_CUSTOMER then d.on fun b => b.putSegments p
    else d.on fun b =>
      let p := if ty = IT_GRT_PATCH then leBytes 4 (imgVersion l) ++ p else p
      { b with boot := { b.boot with held := (b.boot.held.filter fun e => e.1 != ty) ++ [(ty, p)] } }

/-- The error of the image in the load buffer (R396, R402, R405, R406). -/
def loadError (d : Dev) (l : List Byte) : Nat :=
  let x := d.body.boot
  let waiting := d.body.rd Pg.boot R.BOOT_STAGE == STAGE_WAIT_HOST
  if 0x100000 < x.len then BE_SIZE
  else
    let e := d.sticky.imgError l x.len (typeHostOk (imgType l) waiting) true x.arm
    if e ≠ BE_NONE then e
    else if imgType l = IT_AE_PATCH ∧ (d.body.boundSlot x.master).isNone then BE_NO_SLOT
    else if imgType l = IT_CUSTOMER ∧ x.tgtBusy then BE_BUSY_TARGET
    else BE_NONE

/-- The checks of a host load complete (R405). -/
def loadDone (d : Dev) : Dev :=
  if ¬ d.body.on Pg.boot R.BOOT_LD_BUSY then d
  else
    let l := d.body.loadImage (min d.body.boot.len 0x100000)
    let err := d.loadError l
    let d := if err = BE_NONE then d.putHostImage l else d
    d.on fun b =>
      let b := { b with boot := { b.boot with arm := none, tgts := [], tgtBusy := false } }
      ((b.wr Pg.boot R.BOOT_LD_BUSY 0).wr Pg.boot R.BOOT_LD_RC err).fire Pg.boot R.BOOT_EVT_LD_DONE

/-- BOOT_PROV_GO from the JTAG debugger (R397). -/
def provGo (d : Dev) : Dev :=
  let n := d.body.rd Pg.boot R.BOOT_PROV_SLOT
  if d.body.on Pg.boot R.BOOT_PROV_REVOKE then
    if n = 0 ∨ d.sticky.revoked.contains n then d
    else { d with sticky := { d.sticky with revoked := d.sticky.revoked ++ [n] } }
  else if n = 0 ∨ d.sticky.prov.any fun e => e.1 == n then d.on fun b => b.fire Pg.boot R.BOOT_EVT_BADCMD
  else { d with sticky := { d.sticky with prov := d.sticky.prov ++ [(n, leNat (d.body.loadImage 48))] } }

/-- A security version that an applied action-engine patch commits is fused (R398). -/
def fuseDue (d : Dev) : Dev :=
  { sticky := { d.sticky with svnV := max d.sticky.svnV d.body.boot.svnDue },
    body := { d.body with boot := { d.body.boot with svnDue := 0 } } }

/-! The bus with the boot page's actions. -/

/-- A write of a BAR0 word by a master (R7, R38, R41). Before boot step 5 nothing takes it; the BMC mirror only reads (R37). -/
def busWrite (d : Dev) (m addr v : Nat) : Dev × Bool :=
  let a := addr / 4 * 4
  if ¬ d.body.boot.bar0 ∨ m = Master.bmc then (d, false)
  else if ¬ d.body.masterReach m addr true then (d.denied m addr true, false)
  else
    let r := d.pageWrite m a v
    if pageOf a ≠ Pg.boot ∨ d.body.on Pg.boot R.PG_RESET_BUSY then r
    else if goes a v R.BOOT_LD_RESUME ∧ Master.mayLoad m then (r.1.bootResume, r.2)
    else if goes a v R.BOOT_PROV_GO ∧ m = Master.jtag then (r.1.provGo, r.2)
    else r

/-- The same, where only the engine after it matters. -/
def write (d : Dev) (m addr v : Nat) : Dev := (d.busWrite m addr v).1

end Dev

end Sys2Proof.Machine
end

