-- ==== Sys2Proof/Machine/Service.lean ====
section
/-! DEFINITION. The reset of the host interface (R420), the I3C mirror (R506) and the test access port (R507). -/

namespace Sys2Proof.Machine

namespace Body

/-- The registers of a page at their reset values, but for those in `keep`. -/
def pageReset (b : Body) (page : Nat) (keep : List Fld) : Body :=
  let kept := fun (key : Nat) => keep.any fun f => f.off == key / 32 - page && f.lo == key % 32
  { b with regs := b.regs.filter fun e => e.1 < page * 32 || (page + 0x1000) * 32 ≤ e.1 || kept e.1 }

/-- FLR, hot reset or PERST_N (R420, R52): every ring ends DISABLED; the ring pages, endpoint page 0 and the MSI-X table are reset;
the host's Cairn slot aborts. -/
def hostReset (b : Body) : Body :=
  let b := (List.range 240).foldl (fun b n => (b.ringReset n true).ringResetDone n) b
  let b := (List.range 240).foldl (fun b n => b.pageReset (Pg.ring n) []) b
  let b := b.pageReset Pg.hif [R.HIF_SPEED, R.HIF_WIDTH, R.HIF_LINK_UP]
  let b := { b with host := { rings := [], held := b.host.held, last := b.host.last } }
  let b := match b.boundSlot Master.host with | some n => b.slotDone n CR_ABORTED | none => b
  let b := (b.asmEndOf Master.host).closeScopes
  (b.count Pg.hif HIF_FLR).fire Pg.hif R.HIF_EVT_FLR

end Body

namespace Dev

/-! I3C (R506). -/

/-- A private write: four bytes set the read address. -/
def i3cWrite (d : Dev) (l : List Byte) : Dev :=
  if d.body.sup.mode = .off ∨ l.length ≠ 4 then d
  else d.on fun b => { b with svc := { b.svc with addr := leNat l / 4 * 4, wrAt := some b.clk } }

/-- Whether a private read comes too early after the address write or the previous read. -/
def i3cEarly (b : Body) : Bool :=
  (match b.svc.wrAt with | some t => decide (b.clk < t + 2000) | none => false) ||
  (match b.svc.rdAt with | some t => decide (b.clk < t + 5000) | none => false)

/-- Words read one after another from an address on; without the other rails, only the Lamp page's. -/
def i3cWords (d : Dev) (a : Nat) : Nat → Dev × List Byte
  | 0 => (d, [])
  | n + 1 =>
    let r := if (d.body.boot.bar0 ∧ d.body.sup.mode = .running) ∨ pageOf a = Pg.lamp then d.readAt Master.bmc a else (d, 0)
    let t := r.1.i3cWords (a + 4) n
    (t.1, leBytes 4 r.2 ++ t.2)

/-- A private read of `n` bytes, at most 16; one that comes too early is refused at its address. -/
def i3cRead (d : Dev) (n : Nat) : Dev :=
  if d.body.sup.mode = .off then d
  else if i3cEarly d.body then d.on fun b => { b with rdata := [] }
  else
    let k := min n 16
    let a := d.body.svc.addr
    let r := d.i3cWords (a / 4 * 4) (if k = 0 then 0 else (a + k - 1) / 4 + 1 - a / 4)
    r.1.on fun b => { b with rdata := (slice r.2 (a % 4) k).map BitVec.toNat,
                             svc := { b.svc with addr := (a + k) % 2 ^ 32, rdAt := some b.clk } }

/-- A common command code. -/
def i3cCcc (d : Dev) (c : I3cCode) : Dev :=
  if d.body.sup.mode = .off then d
  else
    let answer := fun (w v : Nat) => d.on fun b => { b with rdata := (beBytes w v).map BitVec.toNat }
    match c with
    | .entdaa a => d.on fun b => { b with svc := { b.svc with dyn := some (a % 128) } }
    | .setdasa a => d.on fun b => { b with svc := { b.svc with dyn := some (a % 128) } }
    | .rstdaa => d.on fun b => { b with svc := { b.svc with dyn := none } }
    | .getpid => answer 6 Config.i3cPid
    | .getbcr => answer 1 0
    | .getdcr => answer 1 Config.i3cDcr
    | .getstatus =>
      let n := d.body.fresh
      d.on fun b => { b with fresh := n + 1, rdata := (beBytes 2 (Config.i3cStatus n)).map BitVec.toNat }
    | .getmwl => answer 2 Config.i3cMwl
    | .getmrl => answer 2 Config.i3cMrl
    | .enec => d
    | .disec => d

/-! JTAG (R507). -/

/-- IDCODE: the stepping letter, 0x1024, 0x62D and 1. -/
def idcode : Nat := Config.pgStep / 16 % 16 * 2 ^ 28 + 0x1024 * 2 ^ 12 + 0xC5B

/-- Every link goes down: the network ports, the CXL ports, PCIe. -/
def linksDown (b : Body) : Body :=
  let b := ((List.range 512).filter fun p => b.portUp p).foldl (fun b p => b.linkLoss p p true) b
  ([0, 1].foldl (fun b p => b.farLinkDown p) b).hostLinkDown

/-- A new instruction takes effect; without VDD_IO the port is unpowered. One that takes the pins brings every link down, until an engine reset. -/
def jtagInstr (d : Dev) (i : JtagInstr) : Dev :=
  if d.body.sup.mode = .off ∨ d.body.sup.lampOnly then d else
  let d := d.on fun b => { b with svc := { b.svc with instr := i } }
  let d := if i = .idcode then d.on fun b => { b with rdata := [idcode] } else d
  if i.takesPins ∧ d.body.sup.mode = .running then
    d.on fun b => { linksDown b with sup := { b.sup with testPins := true } }
  else d

/-- A DBG_REG access: a register access as master 0x200. -/
def jtagAccess (d : Dev) (addr : Nat) (wr : Option Nat) : Dev :=
  if d.body.svc.instr ≠ .dbgReg then d
  else match wr with
    | some v => d.write Master.jtag addr (v % 2 ^ 32)
    | none => let r := d.busRead Master.jtag addr; r.1.on fun b => { b with rdata := [r.2] }

end Dev

end Sys2Proof.Machine
end

