-- ==== Sys2Proof/Machine/TblCmd.lean ====
section
/-! DEFINITION. The commands of TABLE_CMD rings (R439 to R442). The engine executes the entries of a ring's job in order, as master
0x000; jobs of several rings are taken round robin, a whole job at a time. -/

namespace Sys2Proof.Machine

/-! CMD_STATUS (R439). -/
def CMD_OK : Nat := 0
def CMD_BAD_OP : Nat := 1
def CMD_BAD_TARGET : Nat := 2
def CMD_REFUSED : Nat := 3
def CMD_EXM : Nat := 4
def CMD_CAIRN : Nat := 5
def CMD_SKIPPED : Nat := 6

/-- How a command stands after its execution: complete with a status and a value, or its ring waits at it. -/
inductive CmdRes where
  | done (status value : Nat)
  | wait
deriving DecidableEq, Repr

/-- The row of the opcode table that executes an opcode: an unlisted one is executed as NOP is, with status BAD_OP. -/
def cmdRow (op : Nat) : Nat := if op ≤ 7 then op else 0

/-- The data of a WRITE_ENTRY with the CONT entries that follow it. -/
def cmdAllData (e : List Byte) (rest : List (List Byte)) : List Byte :=
  cmdData e ++ (rest.takeWhile fun x => cmdOp x == 1).flatMap cmdData

namespace Body

/-- Whether a table ID and an index of a command name an entry. -/
def cmdEntryOk (e : List Byte) : Bool :=
  decide (1 ≤ cmdArg e % 256 ∧ cmdArg e % 256 ≤ 10 ∧ cmdTarget e < tblCount (cmdArg e % 256))

/-- Whether a ring has a job that it may execute. -/
def cmdReady (b : Body) (n : Nat) : Bool :=
  b.ringRuns n KIND_CMD && b.dmaOk && (match b.jobAt n with | .job _ => true | _ => false)

/-- Whether a ring is inside a job and does not wait. -/
def cmdInside (b : Body) (n : Nat) : Bool := b.ringRuns n KIND_CMD && (b.run n).idx != 0 && !(b.run n).waiting

/-- The ring that round robin takes next. -/
def cmdNext (b : Body) : Option Nat :=
  ((List.range 240).map fun i => (b.host.last + 1 + i) % 240).find? fun n => b.cmdReady n && !(b.run n).waiting

/-- Whether ring `n` is the one whose entry is executed: it is inside its job, or no other ring is and it goes on waiting, or its
job is next. -/
def cmdTurn (b : Body) (n : Nat) : Bool :=
  if (List.range 240).any fun m => b.cmdInside m then b.cmdInside n
  else (b.run n).waiting || b.cmdNext == some n

/-- The result of the entry at position `i` of a job of `len` entries written into it, and the job moved on (R439, R442). -/
def cmdComplete (b : Body) (n i len status value : Nat) : Body :=
  let b := b.hostWrite (b.entryAddr n ((b.ringFront n + i) % 2 ^ 32) + 12) (leBytes 4 (status * 2 ^ 28 + value % 2 ^ 28))
  let b := b.count Pg.hif HIF_CMDS
  let b := if status = CMD_OK then b else b.count (Pg.ring n) RING_CMD_ERR
  let x := b.run n
  if i + 1 = len then b.setRun n { x with idx := 0, failed := false, waiting := false, done := x.done ++ [(len, 0)] }
  else b.setRun n { x with idx := i + 1, failed := x.failed || status != CMD_OK, waiting := false }

/-- The lowest Dripstone address at or above `i`, among `k`, that is invalid and not staged in any slot. -/
def dsAddFree (b : Body) : Nat → Nat → Option Nat
  | 0, _ => none
  | k + 1, i =>
    if dsValid (b.ent Tbl.ds i) || (List.range 8).any fun s => (b.slot s).staged.any fun t => t.tgt == .ent Tbl.ds i then
      b.dsAddFree k (i + 1)
    else some i

/-- The address that DS_ADD takes (R152). -/
def dsAddAt (b : Body) : Option Nat := b.dsAddFree (65536 - b.rd Pg.ds R.DS_ADD_FLOOR) (b.rd Pg.ds R.DS_ADD_FLOOR)

end Body

namespace Dev

/-- NOP, and an opcode that R440 does not list. -/
def cmdNop (d : Dev) (e : List Byte) (_ : List (List Byte)) (_ : Bool) : Dev × CmdRes :=
  (d, if cmdOp e = 0 then .done CMD_OK 0 else .done CMD_BAD_OP 0)

/-- CONT: its data belongs to the WRITE_ENTRY before it. -/
def cmdCont (d : Dev) (_ : List Byte) (_ : List (List Byte)) (_ : Bool) : Dev × CmdRes := (d, .done CMD_OK 0)

/-- WRITE_ENTRY: the whole entry at once; bytes that no CONT gives are open. -/
def cmdWriteEntry (d : Dev) (e : List Byte) (rest : List (List Byte)) (_ : Bool) : Dev × CmdRes :=
  let t := cmdArg e % 256
  if ¬ Body.cmdEntryOk e then (d, .done CMD_BAD_TARGET 0)
  else
    let s := tblStride t
    let data := cmdAllData e rest
    let (fill, b) := if data.length < s then d.body.free (8 * (s - data.length)) else (0, d.body)
    let v := leNat (data.take s) + 2 ^ (8 * data.length) * fill
    let words := (List.range (s / 4)).map fun w => (w, bitField v (32 * w + 31) (32 * w))
    let (b, ok) := b.entCommit Master.host 0xFFFFFFFF t (cmdTarget e) s words
    ({ d with body := b }, .done (if ok then CMD_OK else CMD_REFUSED) 0)

/-- READ_ENTRY. -/
def cmdReadEntry (d : Dev) (e : List Byte) (_ : List (List Byte)) (_ : Bool) : Dev × CmdRes :=
  let t := cmdArg e % 256
  if ¬ Body.cmdEntryOk e then (d, .done CMD_BAD_TARGET 0)
  else
    let (b, v) := d.body.entShow t (cmdTarget e)
    ({ d with body := b.hostWrite (leNat ((cmdData e).take 8)) (leBytes (tblStride t) v) }, .done CMD_OK 0)

/-- REG_WRITE: a write that is dropped or not staged is REFUSED. -/
def cmdRegWrite (d : Dev) (e : List Byte) (_ : List (List Byte)) (_ : Bool) : Dev × CmdRes :=
  if 0x4000000 ≤ cmdTarget e then (d, .done CMD_BAD_TARGET 0)
  else
    let (d, ok) := d.busWrite Master.host (cmdTarget e) (cmdArg e)
    (d, .done (if ok then CMD_OK else CMD_REFUSED) 0)

/-- DS_ADD: the entry, made valid, at the lowest free address; its ring waits while there is none. -/
def cmdDsAdd (d : Dev) (e : List Byte) (_ : List (List Byte)) (_ : Bool) : Dev × CmdRes :=
  match d.body.dsAddAt with
  | none => (d, .wait)
  | some i =>
    let v := setBitField (leNat ((cmdData e).take 32)) 255 255 1
    let (b, ok) := d.body.entPutBy Master.host 0xFFFFFFFF Tbl.ds i v 0
    ({ d with body := b }, if ok then .done CMD_OK i else .done CMD_REFUSED 0)

/-- EXM: one exact-match command; a code other than OK is its value. -/
def cmdExm (d : Dev) (e : List Byte) (_ : List (List Byte)) (_ : Bool) : Dev × CmdRes :=
  let op := cmdArg e % 8
  let ty := bitField (cmdArg e) 7 4
  if op = 0 ∨ 5 ≤ op then (d, .done CMD_BAD_OP 0)
  else if (d.body.boundSlot Master.host).isSome then (d, .done CMD_EXM XRC_STAGED)
  else if ty = 0 ∨ 4 ≤ ty then (d, .done CMD_EXM XRC_BAD_TYPE)
  else
    let k : XKey := { ty := ty, k1 := leNat ((cmdData e).take 12), k2 := if ty = 3 then leNat (slice (cmdData e) 12 12) else 0 }
    let (b, x) := d.body.exmCommand op k (cmdTarget e % 2 ^ 24)
    ({ d with body := b },
      if x.rc ≠ 0 then .done CMD_EXM x.rc
      else if op = 4 then .done CMD_OK (x.res.getD 0)
      else .done CMD_OK (match x.loc with | some l => l.code | none => 0))

/-- Where a command that waits for its slot stands: complete once the slot is DONE, or has been released since. -/
def cmdCairnWait (d : Dev) (n : Nat) : CmdRes :=
  let st := d.body.crd R.CAIRN_STATE n
  if st = CS_DONE ∨ st = CS_IDLE then .done CMD_OK (d.body.crd R.CAIRN_RESULT n) else .wait

/-- CAIRN: the mode and target where SET_MODE is set, then the command; with WAIT_DONE it waits for the slot. -/
def cmdCairn (d : Dev) (e : List Byte) (_ : List (List Byte)) (waiting : Bool) : Dev × CmdRes :=
  let a := cmdArg e
  let n := bitField a 10 8
  let at_ := fun (f : Fld) => f.addr Pg.cairn n 0
  if waiting then (d, d.cmdCairnWait n)
  else
    let put := fun (d : Dev) (f : Fld) (v : Nat) => d.write Master.host (at_ f) v
    let d := if bitOn a 3 then
        put (put (put (put d R.CAIRN_MODE (bitField a 5 4)) R.CAIRN_TSECLO (leNat ((cmdData e).take 4)))
          R.CAIRN_TSECHI (leNat (slice (cmdData e) 4 2))) R.CAIRN_TNS (leNat (slice (cmdData e) 6 4))
      else d
    let (d, ok) := d.busWrite Master.host (at_ R.CAIRN_CMD) (a % 8)
    if ¬ ok then (d, .done CMD_CAIRN 0)
    else if bitOn a 31 then (d, d.cmdCairnWait n)
    else (d, .done CMD_OK 0)

/-- The entry next in the job of ring `n`, where it is of a row: executed by `f`, or skipped after a failure under CMD_STOP
(R442). -/
def tblCmd (d : Dev) (n row : Nat) (f : Dev → List Byte → List (List Byte) → Bool → Dev × CmdRes) : Dev :=
  let b := d.body
  if ¬ b.cmdReady n ∨ ¬ b.cmdTurn n then d
  else
    match b.jobAt n with
    | .job l =>
      let x := b.run n
      match l.drop x.idx with
      | [] => d
      | e :: rest =>
        if cmdRow (cmdOp e) ≠ row then d
        else
          let d := if x.idx = 0 ∧ ¬ x.waiting then { d with body := { b with host := { b.host with last := n } } } else d
          if x.failed ∧ (l.head?.map cmdStop).getD false then
            { d with body := d.body.cmdComplete n x.idx l.length CMD_SKIPPED 0 }
          else
            match f d e rest x.waiting with
            | (d, .done st v) => { d with body := d.body.cmdComplete n x.idx l.length st v }
            | (d, .wait) => { d with body := d.body.setRun n { (d.body.run n) with waiting := true } }
    | _ => d

end Dev

end Sys2Proof.Machine
end

