-- ==== Sys2Proof/Machine/GrtExec.lean ====
section
/-! DEFINITION. What a Grotto thread does at an instruction (R356 to R363, R368, R376, R377, R409, R410): the fetch, each
operation's value, loads and stores with the memory map of a thread, and its control block. -/

namespace Sys2Proof.Machine

/-! Fields of an instruction word (R409). -/
def uOp (w : Nat) : Nat := bitField w 31 26
def uD (w : Nat) : Nat := bitField w 25 21
def uA (w : Nat) : Nat := bitField w 20 16
def uB (w : Nat) : Nat := bitField w 15 11
/-- The immediate, sign-extended to 64 bits, and zero-extended. -/
def uSx (w : Nat) : Nat := encSigned 64 (signed 16 (w % 2 ^ 16))
def uZx (w : Nat) : Nat := w % 2 ^ 16
/-- A 64-bit result. -/
def u64 (v : Nat) : Nat := v % 2 ^ 64
/-- A value of `n` bytes as a load leaves it in a register. -/
def extLoad (sx : Bool) (n v : Nat) : Nat := if sx then encSigned 64 (signed (8 * n) v) else v % 2 ^ (8 * n)

/-- Whether an opcode is reserved (R410). -/
def opReserved (op : Nat) : Bool :=
  op == 0x1F || decide (0x24 ≤ op ∧ op ≤ 0x27) || op == 0x37 || decide (0x39 ≤ op)

/-- Whether an opcode has the REG format as R410 labels it. -/
def opReg (op : Nat) : Bool := decide (op ≤ 7 ∨ (0x10 ≤ op ∧ op ≤ 0x17))

/-- Whether a word is an undefined instruction (R377, R410). -/
def undefinedWord (w : Nat) : Bool :=
  opReserved (uOp w) || (opReg (uOp w) && w % 2 ^ 11 != 0) ||
  (decide (0x30 ≤ uOp w) && w % 2 ^ 11 != 0 && Config.wordUndefined w)

/-- Whether an instruction reads a register: not LIH, CALL or FENCE. -/
def readsReg (w : Nat) : Bool := uOp w != 0x0F && uOp w != 0x2E && uOp w != 0x38

/-! The values of the operations. -/

def valShl (x n : Nat) : Nat := if n < 64 then u64 (x * 2 ^ n) else u64 (Config.wideShift 0 x n)
def valShr (x n : Nat) : Nat := if n < 64 then x / 2 ^ n else u64 (Config.wideShift 1 x n)
def valSar (x n : Nat) : Nat := if n < 64 then encSigned 64 (signed 64 x / (2 ^ n : Nat)) else u64 (Config.wideShift 2 x n)
def valMulh (x y : Nat) : Nat :=
  if Config.mulhSigned then encSigned 64 (signed 64 x * signed 64 y / (2 ^ 64 : Nat)) else x * y / 2 ^ 64
/-- Signed division: all ones by zero; the quotient where it is exact or the signs agree. -/
def valDiv (x y : Nat) : Nat :=
  let a := signed 64 x
  let b := signed 64 y
  if y = 0 then 2 ^ 64 - 1
  else if decide (a < 0) = decide (b < 0) ∧ a.natAbs / b.natAbs < 2 ^ 63 then a.natAbs / b.natAbs
  else if a % b = 0 ∧ decide (a < 0) ≠ decide (b < 0) then encSigned 64 (a / b)
  else u64 (Config.divSigned x y)
def valDivu (x y : Nat) : Nat := if y = 0 then 2 ^ 64 - 1 else x / y
/-- The remainder: the dividend by zero; of operands below 2^63 it does not depend on their signs. -/
def valRem (x y : Nat) : Nat :=
  if y = 0 then x else if x < 2 ^ 63 ∧ y < 2 ^ 63 then x % y else u64 (Config.remSigned x y)
def valBswap (x : Nat) : Nat := leNat (leBytes 8 x).reverse
/-- The zero bits above the highest one bit of 64. -/
def valClz (x : Nat) : Nat := if x = 0 then 64 else 63 - Nat.log2 x
def valExtr (w x y : Nat) : Nat := u64 (x / 2 ^ Config.bitPos w y % 2 ^ Config.bitLen w y)
def valInsr (w old x y : Nat) : Nat :=
  if Config.bitLen w y = 0 then old
  else u64 (setBitField old (Config.bitPos w y + Config.bitLen w y - 1) (Config.bitPos w y) x)

/-- Where a thread address lies (R359): local memory, a channel window, BAR0, the control block, or nowhere. -/
inductive MemAt where
  | mem (gl : Nat)
  | window (w off : Nat)
  | bar (a : Nat)
  | tcb (off : Nat)
  | none
deriving DecidableEq, Repr

/-- The place of an address of thread `th`. -/
def memAt (th a : Nat) : MemAt :=
  if a < 0x80000 then .mem (sliceBase th + a)
  else if 0x1000000 ≤ a ∧ a < 0x1010000 then .window ((a - 0x1000000) / 0x4000) (a % 0x4000)
  else if 0x2000000 ≤ a ∧ a < 0xA000000 then .mem (a - 0x2000000)
  else if 0x10000000 ≤ a ∧ a < 0x14000000 then .bar (a - 0x10000000)
  else if 0x20000000 ≤ a ∧ a < 0x20005000 then .tcb (a - 0x20000000)
  else .none

/-- The access that fails at an address of a thread, as a fault record tells it (R461): of local memory or of BAR0; a window or the control
block is in none of the spaces. -/
def accessAt (th a : Nat) (wr : Bool) : FltInfo :=
  match memAt th a with
  | .mem gl => { access := 3 + b2n wr, space := 7, addr := gl }
  | .bar x => { access := 1 + b2n wr, space := 1, addr := x }
  | _ => { access := 3 + b2n wr }

/-- The same for the fetch of an instruction. -/
def fetchAt (th pc : Nat) : FltInfo := { accessAt th pc false with access := 5 }

/-- What a load or a store of the control block does. -/
inductive TcbRes where
  | val (b : Body) (v : Nat)
  | blocks (on : WaitOn)
  | fault (cause : Nat)
deriving DecidableEq, Repr

namespace Body

/-! Access rights (R361, R362). -/

/-- Whether grant `i` of a core opens an address of local memory to a thread. -/
def grantOpens (b : Body) (th gl i : Nat) (wr : Bool) : Bool :=
  let e := b.ent (Tbl.grant (gl / 0x400000)) i
  let lo := bitField e 6 0 * 4096
  let off := gl % 0x80000
  bitOn e 31 && (!wr || bitOn e 30) && bitField e 18 16 == gl / 0x80000 % 8 &&
  decide (lo ≤ off ∧ off < lo + 4096 * 2 ^ bitField e 23 21) && (bitOn e 63 || bitField e 41 32 == 0x100 + th)

/-- Whether a thread reaches an address of local memory. -/
def glReach (b : Body) (th gl : Nat) (wr : Bool) : Bool :=
  gl / 0x80000 == th || (List.range 8).any fun i => b.grantOpens th gl i wr

/-! Fetch and retirement. -/

/-- An uncorrectable error of local memory met at an address: counted and reported (R363). -/
def memUe (b : Body) (th gl access : Nat) : Body :=
  let c := gl / 0x400000
  (b.count (Pg.core c 3) 35).fault (Pg.core c 0) R.GRT_FLT_MEM_UE
    { access := access, space := 7, addr := gl, master := 0x100 + th, detail := c, inj := true }

/-- Whether a thread issues: it runs, or it is stepped, and its core is neither stopped nor restarting. -/
def issues (b : Body) (th : Nat) : Bool :=
  decide (th < 256) && b.clkRuns 14 && !b.grt.restarting.contains (th / 8) &&
  (b.tst th == TH_RUN ||
    (b.tst th == TH_STOPPED && (match (b.thr th).steps with | some n => decide (0 < n) | none => false)))

/-- The word at a thread's program counter, or the cause of a fault (R359, R363). -/
def fetch (b : Body) (th : Nat) : Except Nat Nat :=
  let pc := (b.thr th).pc
  if pc % 4 ≠ 0 then .error CS_MEM_ALIGN
  else if 0x80000 ≤ pc then .error CS_MEM_ACCESS
  else if b.grtBad (sliceBase th + pc) 4 then .error CS_MEM_UE
  else .ok (leNat (b.grtBytes (sliceBase th + pc) 4))

/-- An instruction that a thread has issued is counted; each issues in a clock of its own (R388, R471). The deadlock detector takes
note of it (R380). -/
def issued (b : Body) (th : Nat) : Body :=
  (((((b.dlIssue th).tcount th 0).count (Pg.core (th / 8) 3) 33).svyBump 7 (th / 8) 0 1).svyBump 7 (th / 8) 1 1)

/-- An instruction leaves the count of a STEP. -/
def stepped (b : Body) (th : Nat) : Body :=
  let x := b.thr th
  b.setThr th { x with steps := x.steps.map (· - 1) }

/-- An instruction that completes: the program counter passes it. -/
def retire (b : Body) (th : Nat) : Body := ((b.issued th).stepped th).nextPc th

/-- The program counter moved by a branch. -/
def setPc (b : Body) (th pc : Nat) : Body := b.setThr th { (b.thr th) with pc := pc % 2 ^ 64 }

/-- A result in a register of a thread, and the next instruction. -/
def result (b : Body) (th d v : Nat) : Body := (b.retire th).setG th d v

/-- A branch or the next instruction. -/
def branch (b : Body) (th off : Nat) (taken : Bool) : Body :=
  let pc := (b.thr th).pc
  let b := b.retire th
  if taken then b.setPc th (pc + (if Config.branchNext then 4 else 0) + off) else b

/-! The control block (R368, R371, R376). -/

/-- A pool request by a thread (R376). The pool and index of an error are open. -/
def tcbAlloc (b : Body) (th m : Nat) : Body × Nat :=
  match b.poolReq 0 m (b.thr th).psize with
  | (b, .ok n i) => (b, n * 2 ^ 32 + i % 2 ^ 28)
  | (b, .empty n) => let (v, b) := b.free 28; (b, 2 ^ 63 + 2 ^ 61 + n * 2 ^ 32 + v)
  | (b, .noPool) =>
    let (n, b) := b.free 4
    let (v, b) := b.free 28
    (b, 2 ^ 63 + 2 ^ 62 + n * 2 ^ 32 + v)

/-- Every pool's back-pressure level. -/
def tcbLevels (b : Body) : Nat := (List.range 16).foldl (fun v n => v + b.poolLevel n * 4 ^ n) 0

/-- A load of `n` bytes from the control block. -/
def tcbLoad (b : Body) (th off n : Nat) : TcbRes :=
  let x := b.thr th
  if 0x1000 ≤ off then
    let ch := off % 0x1000 / 4
    if n ≠ 4 then .fault CS_MEM_ACCESS
    else match off / 0x1000 with
      | 1 => let r := b.chReserve th ch; .val r.1 r.2
      | 2 => .blocks (.reserve ch)
      | 3 => let r := b.chAcquire th ch; .val r.1 r.2
      | _ => .blocks (.acquire ch)
  else if off = 0x000 ∧ n = 8 then .blocks .events
  else if off = 0x008 ∧ n = 8 then .val b (b.pendBits th)
  else if off = 0x010 ∧ n = 8 then .val b x.wmask
  else if off = 0x020 ∧ n = 4 then .val b (match x.timer with | some t => t - b.clk | none => 0)
  else if 0x180 ≤ off ∧ off < 0x1A0 ∧ off % 8 = 0 ∧ n = 4 then .val b (b.winStat th ((off - 0x180) / 8))
  else if 0x208 ≤ off ∧ off < 0x228 ∧ off % 8 = 0 ∧ n = 8 then let r := b.tcbAlloc th ((off - 0x208) / 8); .val r.1 r.2
  else if off = 0x248 ∧ n = 4 then .val b b.tcbLevels
  else if off = 0x250 ∧ n = 4 then .val b (0x100 + th)
  else .fault CS_MEM_ACCESS

/-- A buffer freed by a thread (R376). -/
def tcbFree (b : Body) (th v : Nat) : Body :=
  let n := bitField v 35 32
  if bitOn (b.prd' n R.POOL_OWNERS) 0 then b.poolFree n (v % 2 ^ 28) (0x100 + th) else b.sat (Pg.pool n) R.POOL_BADIDX

/-- A store of `n` bytes to the control block: the engine after it, or the cause of a fault. -/
def tcbStore (b : Body) (th off n v : Nat) : Except Nat Body :=
  let x := b.thr th
  if off = 0x010 ∧ n = 8 then .ok (b.setThr th { x with wmask := v % 2 ^ 32 })
  else if off = 0x018 ∧ n = 4 then .ok (b.setBit (th / 8 * 8 + bitField v 6 4) (v % 16))
  else if off = 0x020 ∧ n = 4 then
    .ok (b.setThr th { x with timer := if v % 2 ^ 32 = 0 then none else some (b.clk + v % 2 ^ 32) })
  else if 0x040 ≤ off ∧ off < 0x080 ∧ off % 8 = 0 ∧ n = 4 then
    .ok (b.setThr th { x with binds := Sp.set 0 x.binds ((off - 0x040) / 8) (setBitField (v % 2 ^ 32) 29 10 0) })
  else if 0x100 ≤ off ∧ off < 0x120 ∧ off % 8 = 0 ∧ n = 4 then
    (match b.chCommit th ((off - 0x100) / 8) (v % 2 ^ 32) with | some b => .ok b | none => .error CS_CHANNEL)
  else if 0x140 ≤ off ∧ off < 0x160 ∧ off % 8 = 0 ∧ n = 4 then
    (match b.chRelease th ((off - 0x140) / 8) with | some b => .ok b | none => .error CS_CHANNEL)
  else if off = 0x200 ∧ n = 4 then .ok (b.setThr th { x with psize := v % 2 ^ 32 })
  else if off = 0x240 ∧ n = 8 then .ok (b.tcbFree th v)
  else .error CS_MEM_ACCESS

/-! Local memory and windows. -/

/-- Where `n` bytes of a window lie, or the cause of a fault (R370, R383). -/
def winAt (b : Body) (th w off n : Nat) (wr : Bool) : Except Nat Nat :=
  let x := b.win' th w
  if x.st = 3 then .error CS_CHANNEL
  else if x.st = 0 ∨ (x.st = 2 ∧ wr) ∨ chSlot (b.chEnt x.ch) < off + n then .error CS_MEM_ACCESS
  else .ok (b.slotAddr x.ch x.slot + off)

/-- A blocking load carried out, or waited for; under a STEP that cannot complete it ends the step, not performed (R381). -/
def blockOn (b : Body) (th : Nat) (x : Waiting) : Body :=
  match b.waitTry th x with
  | some b => (b.issued th).stepped th
  | none =>
    let t := b.thr th
    if t.steps.isSome then b.setThr th { t with steps := some 0 }
    else ((b.setThr th { t with wait := some x }).tmove th TH_WAIT).issued th

/-- A load of `n` bytes from local memory into a register. An armed error makes the word bad (R387). -/
def loadGl (b : Body) (th a gl n d : Nat) (sx : Bool) : Body :=
  let x := b.thr th
  let b := if x.ueArm then
      { b.setThr th { x with ueArm := false } with grt := { (b.setThr th { x with ueArm := false }).grt with bad := insertNat (gl / 8) b.grt.bad } }
    else b
  if b.grtBad gl n then (b.memUe th gl 3).tfault th CS_MEM_UE a { access := 3, space := 7, addr := gl }
  else b.result th d (extLoad sx n (leNat (b.grtBytes gl n)))

end Body

namespace Dev

/-- A fault at the instruction of a thread. -/
def tfault (d : Dev) (th cause addr : Nat) (at_ : FltInfo) : Dev := d.on fun b => b.tfault th cause addr at_

/-- A thread issues its next instruction, where it is one that `row` names: a fetch that fails or an undefined word faults the thread
whatever the row (R377, R410); a register-file error armed is met by the first instruction that reads a register (R387). -/
def issue (d : Dev) (th : Nat) (row : Nat → Bool) (f : Dev → Nat → Dev) : Dev :=
  let b := d.body
  let pc := (b.thr th).pc
  if ¬ b.issues th then d
  else
    match b.fetch th with
    | .error c => d.on fun b => (if c = CS_MEM_UE then b.memUe th (sliceBase th + pc) 5 else b).tfault th c pc (fetchAt th pc)
    | .ok w =>
      if undefinedWord w then d.tfault th CS_ILLEGAL pc (fetchAt th pc)
      else if ¬ row w then d
      else if (b.thr th).rfArm ∧ readsReg w then
        (d.on fun b => b.setThr th { (b.thr th) with rfArm := false }).tfault th CS_REGFILE pc {}
      else f d w

/-- An instruction by its opcode. -/
def issueOp (d : Dev) (th op : Nat) (f : Dev → Nat → Dev) : Dev := d.issue th (fun w => uOp w == op) f

/-- An instruction on two registers. -/
def opReg2 (d : Dev) (th op : Nat) (f : Nat → Nat → Nat) : Dev :=
  d.issueOp th op fun d w => d.on fun b => b.result th (uD w) (f (b.greg th (uA w)) (b.greg th (uB w)))

/-- An instruction on a register and the instruction word. -/
def opRegW (d : Dev) (th op : Nat) (f : Nat → Nat → Nat) : Dev :=
  d.issueOp th op fun d w => d.on fun b => b.result th (uD w) (f (b.greg th (uA w)) w)

/-- A conditional branch on the registers of R409's BR format. -/
def opBranch (d : Dev) (th op : Nat) (f : Nat → Nat → Bool) : Dev :=
  d.issueOp th op fun d w => d.on fun b => b.branch th (4 * uSx w) (f (b.greg th (uD w)) (b.greg th (uA w)))

/-- CALL: the link register takes the address of the next instruction. -/
def opCall (d : Dev) (th : Nat) : Dev :=
  d.issueOp th 0x2E fun d w => d.on fun b =>
    let pc := (b.thr th).pc
    (b.branch th (4 * encSigned 64 (signed 21 (w % 2 ^ 21))) true).setG th (uD w) (u64 (pc + 4))

/-- JR: the address is in register a. -/
def opJump (d : Dev) (th : Nat) : Dev :=
  d.issueOp th 0x2F fun d w => d.on fun b => (b.retire th).setPc th (b.greg th (uD w))

/-- An instruction of opcodes 0x34 to 0x36: on the word, the old value of d, and registers a and b. -/
def opField (d : Dev) (th op : Nat) (f : Nat → Nat → Nat → Nat → Nat) : Dev :=
  d.issueOp th op fun d w => d.on fun b =>
    b.result th (uD w) (f w (b.greg th (uD w)) (b.greg th (uA w)) (b.greg th (uB w)))

/-- FENCE: every earlier access of the thread has completed, since accesses complete in order. -/
def opFence (d : Dev) (th : Nat) : Dev := d.issueOp th 0x38 fun d _ => d.on fun b => b.retire th

/-- The address of a load or store. -/
def effAddr (b : Body) (th w : Nat) : Nat := u64 (b.greg th (uA w) + uSx w)

/-- A register-fabric load. -/
def loadBar (d : Dev) (th a n r : Nat) (sx : Bool) : Dev :=
  let m := 0x100 + th
  let lo := d.busRead m a
  let hi := if n = 8 then lo.1.busRead m (a + 4) else (lo.1, 0)
  hi.1.on fun b => b.result th r (extLoad sx n (lo.2 + 2 ^ 32 * hi.2))

/-- A load of `n` bytes at an address into register `r` (R359 to R363, R368). -/
def load (d : Dev) (th a n r : Nat) (sx : Bool) : Dev :=
  let b := d.body
  let stop := fun (c : Nat) => d.tfault th c a (accessAt th a false)
  if a % n ≠ 0 then stop CS_MEM_ALIGN
  else
    match memAt th a with
    | .mem gl => if b.glReach th gl false then d.on fun b => b.loadGl th a gl n r sx else stop CS_MEM_ACCESS
    | .window w off =>
      (match b.winAt th w off n false with
       | .ok gl => d.on fun b => b.loadGl th a gl n r sx
       | .error c => stop c)
    | .bar x =>
      if n < 4 then stop CS_MEM_ALIGN
      else if b.barReach th x false then d.loadBar th x n r sx else stop CS_REG_DENIED
    | .tcb off =>
      (match b.tcbLoad th off n with
       | .val b v => { d with body := b.result th r (extLoad sx n v) }
       | .blocks on => d.on fun b => b.blockOn th { on := on, d := r, sx := sx }
       | .fault c => stop c)
    | .none => stop CS_MEM_ACCESS

/-- A register-fabric store. The program counter has passed it before it takes effect, since it may reach the thread itself. -/
def storeBar (d : Dev) (th a n v : Nat) : Dev :=
  let m := 0x100 + th
  let d := (d.on fun b => b.retire th).write m a (v % 2 ^ 32)
  if n = 8 then d.write m (a + 4) (v / 2 ^ 32 % 2 ^ 32) else d

/-- A store of the low `n` bytes of a value at an address. -/
def store (d : Dev) (th a n v : Nat) : Dev :=
  let b := d.body
  let stop := fun (c : Nat) => d.tfault th c a (accessAt th a true)
  let put := fun (gl : Nat) => d.on fun b => (b.retire th).grtWrite gl (leBytes n v)
  if a % n ≠ 0 then stop CS_MEM_ALIGN
  else
    match memAt th a with
    | .mem gl => if b.glReach th gl true then put gl else stop CS_MEM_ACCESS
    | .window w off =>
      (match b.winAt th w off n true with
       | .ok gl => put gl
       | .error c => stop c)
    | .bar x =>
      if n < 4 then stop CS_MEM_ALIGN
      else if b.barReach th x true then d.storeBar th x n v else stop CS_REG_DENIED
    | .tcb off =>
      (match b.tcbStore th off n v with
       | .ok b => { d with body := b.retire th }
       | .error c => stop c)
    | .none => stop CS_MEM_ACCESS

/-- A load instruction. -/
def opLoad (d : Dev) (th op n : Nat) (sx : Bool) : Dev :=
  d.issueOp th op fun d w => d.load th (effAddr d.body th w) n (uD w) sx

/-- A store instruction. -/
def opStore (d : Dev) (th op n : Nat) : Dev :=
  d.issueOp th op fun d w => d.store th (effAddr d.body th w) n (d.body.greg th (uD w))

/-- A load that addresses the control block at an offset `at_` names, by an instruction of the width that R368 asks: the rows
of the control block are loads and stores of the thread. -/
def opTcbLoad (d : Dev) (th n : Nat) (at_ : Nat → Bool) : Dev :=
  let here := fun w => match memAt th (effAddr d.body th w) with | .tcb off => at_ off | _ => false
  d.issue th (fun w => here w && (if n = 8 then uOp w == 0x1B else uOp w == 0x1A || uOp w == 0x1E)) fun d w =>
    d.load th (effAddr d.body th w) n (uD w) (uOp w == 0x1A)

/-- A store that addresses the control block at an offset `at_` names. -/
def opTcbStore (d : Dev) (th n : Nat) (at_ : Nat → Bool) : Dev :=
  let here := fun w => match memAt th (effAddr d.body th w) with | .tcb off => at_ off | _ => false
  d.issue th (fun w => here w && (if n = 8 then uOp w == 0x23 else uOp w == 0x22)) fun d w =>
    d.store th (effAddr d.body th w) n (d.body.greg th (uD w))

/-- A row of the control block that is loaded or stored. -/
def opTcbBoth (d : Dev) (th n : Nat) (at_ : Nat → Bool) : Dev :=
  let here := fun w => match memAt th (effAddr d.body th w) with | .tcb off => at_ off | _ => false
  let ld := fun w => if n = 8 then uOp w == 0x1B else uOp w == 0x1A || uOp w == 0x1E
  d.issue th (fun w => here w && (ld w || (if n = 8 then uOp w == 0x23 else uOp w == 0x22))) fun d w =>
    if ld w then d.load th (effAddr d.body th w) n (uD w) (uOp w == 0x1A)
    else d.store th (effAddr d.body th w) n (d.body.greg th (uD w))

end Dev

end Sys2Proof.Machine
end

