-- ==== Sys2Proof/WellFormed.lean ====
section
/-! DEFINITION. Which commands are well formed: every operand names a thing that the engine has, and every word fits. -/

namespace Sys2Proof

open Sys2Proof.Machine

/-- A master that issues accesses (R37). -/
def Machine.Master.known (m : Nat) : Bool :=
  m == Master.host || Master.isThread m || m == Master.jtag || m == Master.asuth || m == Master.bmc

/-- A word address of BAR0 (R38, R41). -/
def addrOk (a : Nat) : Bool := decide (a < 0x4000000) && a % 4 == 0

/-- The address of a page (R41). -/
def pageOk (a : Nat) : Bool := a % 0x1000 == 0 && (kindAt a).isSome

/-- A word address in the window of a page or in a bulk aperture (R41, R49). -/
def winOk (a : Nat) : Bool :=
  addrOk a && (decide (0x1000000 ≤ a) || (decide (0x800 ≤ a % 0x1000) && (kindAt a).isSome))

/-- A sample fits the 16 bits of its register, or failed its check. -/
def sampleOk (x : Option Nat) : Bool := x.all fun v => decide (v < 65536)

/-- The operands of the service and host configuration commands (R418, R419, R506). -/
def PcieCfg.wf : PcieCfg → Bool
  | .bme _ => true
  | .power _ => true
  | .bar n a => (n == 0 || n == 2 || n == 4) && decide (a < 2 ^ 64)

def MsixWrite.wf : MsixWrite → Bool
  | .dword v i x => decide (v < 2048 ∧ i < 4 ∧ x < 2 ^ 32)
  | .fnMask _ => true

def I3cCode.wf : I3cCode → Bool
  | .entdaa a => decide (a < 128)
  | .setdasa a => decide (a < 128)
  | _ => true

/-- Whether a command names things that the engine has. -/
def Instr.wf (i : Instr) : Bool :=
  match i with
  | .registerWrite m addr v _ => Master.known m && addrOk addr && decide (v < 2 ^ 32)
  | .clearOnRead m addr => Master.known m && addrOk addr
  | .softReset page m => pageOk page && Master.known m
  | .softResetDone page => pageOk page
  | .pageLock page m => pageOk page && Master.known m
  | .eventInject page m v => pageOk page && Master.known m && decide (v < 2 ^ 32)
  | .faultInject page m v => pageOk page && Master.known m && decide (v < 2 ^ 32)
  | .windowWordWrite m addr v => Master.known m && winOk addr && decide (v < 2 ^ 32)
  | .assemblyTimeout win m => winOk win && Master.known m
  | .windowSnapshotRead m addr => Master.known m && winOk addr
  | .apertureCtrlWrite a m v => decide (a < 12) && Master.known m && decide (v < 2 ^ 32)
  | .cairnBegin n m => decide (n < 8) && Master.known m
  | .cairnCommit n m => decide (n < 8) && Master.known m
  | .cairnAbort n m => decide (n < 8) && Master.known m
  | .cairnRelease n m => decide (n < 8) && Master.known m
  | .cairnValidateDone n => decide (n < 8)
  | .cairnApply n => decide (n < 8)
  | .cairnWaitExceeded n => decide (n < 8)
  | .govModeWrite loop mode m => decide (loop < 6) && decide (mode < 4) && Master.known m
  | .govModeApply loop => decide (loop < 6)
  | .govHeartbeat m v => Master.known m && decide (v < 2 ^ 32)
  | .govStall => true
  | .govLogRdWrite m v => Master.known m && decide (v < 2 ^ 32)
  | .portEnable p m => decide (p < 512) && Master.known m
  | .portDisable p m => decide (p < 512) && Master.known m
  | .signalDetected p _ => decide (p < 512)
  | .trainingComplete p => decide (p < 512)
  | .trainingTimeout p => decide (p < 512)
  | .linkUp p => decide (p < 512)
  | .linkLoss p l _ => decide (p < 512) && decide (l < 512)
  | .remoteFaultChange p _ => decide (p < 512)
  | .fecWindowEnd p hist _ => decide (p < 512) && hist.length == 16
  | .lanePowerRequest l req m => decide (l < 512) && decide (req < 16) && Master.known m
  | .frameStart p _ => decide (p < 512)
  | .entranceAdmit p => decide (p < 512)
  | .frameReceive p => decide (p < 512)
  | .pfcReceive p vec quanta => decide (p < 512) && decide (vec < 256) && (quanta.length == 8 && quanta.all fun x => decide (x < 65536))
  | .pauseReceive p quanta => decide (p < 512) && decide (quanta < 65536)
  | .pfcPauseExpire p t => decide (p < 512) && decide (t < 9)
  | .pfcWatchdog p i => decide (p < 512) && decide (i < 8)
  | .pfcResend p => decide (p < 512)
  | .entOverloadClear g => decide (g < 8)
  | .headDispatch src _ => decide (src < 528)
  | .vaultStallEnd _ => true
  | .admission src => decide (src < 528)
  | .spillSpanWrite q => decide (q < 1048576)
  | .farMigrate q port => decide (q < 1048576) && decide (port < 2)
  | .farCopyComplete q => decide (q < 1048576)
  | .refillRead q => decide (q < 1048576)
  | .refillComplete q => decide (q < 1048576)
  | .orphanSweep => true
  | .poolEnable n m => decide (n < 16) && Master.known m
  | .poolDisable n m => decide (n < 16) && Master.known m
  | .poolAlloc n m => decide (n < 16) && Master.known m
  | .poolFree n i m => decide (n < 16) && decide (i < 2 ^ 28) && Master.known m
  | .bufferLoopDecision => true
  | .schedulerDecision p => decide (p < 529)
  | .refillBoundary => true
  | .packetTransmit p => decide (p < 512)
  | .recirculateEgress g => decide (g < 8)
  | .grottoPortDeliver g => decide (g < 8)
  | .hostPunt => true
  | .lpmDrain m => Master.known m
  | .lpmDrainDone => true
  | .dsCompareAndClear m => Master.known m
  | .exmInsert c m ty => decide (c < 4) && Master.known m && decide (ty < 16)
  | .exmDelete c m ty => decide (c < 4) && Master.known m && decide (ty < 16)
  | .exmUpdate c m ty => decide (c < 4) && Master.known m && decide (ty < 16)
  | .exmLookup c m ty => decide (c < 4) && Master.known m && decide (ty < 16)
  | .exmHash c m ty => decide (c < 4) && Master.known m && decide (ty < 16)
  | .migrate i => decide (i < 65536)
  | .withdraw i => decide (i < 65536)
  | .stashReinsert i => decide (i < 1024)
  | .trieCompact i => decide (i < 131072)
  | .rootBuild i => decide (i < 131072)
  | .clsScrub i => decide (i < 262144)
  | .dsScrub i => decide (i < 65536)
  | .digestCheck => true
  | .clsInject m => Master.known m
  | .dsInject m => Master.known m
  | .vltParInject m => Master.known m
  | .stcFlush m => Master.known m
  | .stcFlushDone => true
  | .statWriteback k => decide (k < 1073741824)
  | .stcInject m => Master.known m
  | .chmInject m => Master.known m
  | .schInject m => Master.known m
  | .rimstoneSnapshot => true
  | .rimstoneAudit => true
  | .rimInject m => Master.known m
  | .pllLossOfLock x => decide (x < 18)
  | .clkInject m => Master.known m
  | .glowwormTrip n => decide (n < 64)
  | .glowwormRearm n => decide (n < 64)
  | .galleryPowerRequest g m req => decide (g < 8) && Master.known m && decide (req < 16)
  | .galleryRestEntry g => decide (g < 8)
  | .galleryWake g cause => decide (g < 8) && decide (1 ≤ cause ∧ cause ≤ 4)
  | .galleryPowerGood g => decide (g < 8)
  | .galleryWakeDone g => decide (g < 8)
  | .powerGoodTimeout g => decide (g < 8)
  | .powerLoopDecision g _ _ => decide (g < 8)
  | .sumpRateDecision k _ _ => decide (k < 4)
  | .thermalLoopDecision => true
  | .todPhaseAdj m v => Master.known m && decide (v < 2 ^ 32)
  | .todSlewEnd => true
  | .todStep m => Master.known m
  | .todReadLatch m => Master.known m
  | .todValidSet m => Master.known m
  | .todValidClr m => Master.known m
  | .ppsInEdge => true
  | .ppsLoss => true
  | .ppsOutEdge => true
  | .sysrefLoss => true
  | .hbmRequest k pc => decide (k < 4) && decide (pc < 32)
  | .hbmRefresh k pc => decide (k < 4) && decide (pc < 32)
  | .hbmScrub line => decide (line < 2147483648)
  | .hbmRateRequest k m rate => decide (k < 4) && Master.known m && decide (rate < 16)
  | .hbmStepStall k => decide (k < 4)
  | .hbmStepDone k => decide (k < 4)
  | .hbmStepFail k => decide (k < 4)
  | .refreshLoopDecision k _ _ => decide (k < 4)
  | .hbmPcRetrain k pc _ _ _ _ => decide (k < 4) && decide (pc < 32)
  | .serdesReadapt p => decide (p < 512)
  | .cxlRecovery p _ => decide (p < 2)
  | .hbmPgRun k m => decide (k < 4) && Master.known m
  | .hbmCmpDone k errs => decide (k < 4) && errs.length == 40
  | .hbmDelaySet k v m => decide (k < 4) && decide (v < 2 ^ 32) && Master.known m
  | .hbmTrnMark k m => decide (k < 4) && Master.known m
  | .hbmEccInject k m => decide (k < 4) && Master.known m
  | .farLinkEnable p _ m => decide (p < 2) && Master.known m
  | .farPerstRelease p => decide (p < 2)
  | .farLinkTrained p speed width => decide (p < 2) && decide (speed < 16) && decide (width < 256)
  | .farEnumDone p _ => decide (p < 2)
  | .farEnumFail p rc => decide (p < 2) && decide (rc < 16)
  | .farRetry p => decide (p < 2)
  | .farRecoveryExit p => decide (p < 2)
  | .farLinkDown p => decide (p < 2)
  | .farReadComplete q => decide (q < 1048576)
  | .farRequestTimeout q _ => decide (q < 1048576)
  | .farIoAccess p m => decide (p < 2) && Master.known m
  | .farIoDone p rc data => decide (p < 2) && decide (rc < 16) && decide (data < 2 ^ 32)
  | .farInject p m => decide (p < 2) && Master.known m
  | .threadStart th m => decide (th < 256) && Master.known m
  | .threadRestart th m => decide (th < 256) && Master.known m
  | .threadHalt th m => decide (th < 256) && Master.known m
  | .threadKill th m => decide (th < 256) && Master.known m
  | .coreRestart c m => decide (c < 32) && Master.known m
  | .coreRestartDone c => decide (c < 32)
  | .threadWake th => decide (th < 256)
  | .supervisorFaultPolicy th => decide (th < 256)
  | .supervisorIcuForward c => decide (c < 32)
  | .deadlockDetect c => decide (c < 32)
  | .supervisorDeadlockPolicy c => decide (c < 32)
  | .tcbTimerExpire th => decide (th < 256)
  | .tcbWait th => decide (th < 256)
  | .tcbPoll th => decide (th < 256)
  | .tcbWaitMask th => decide (th < 256)
  | .tcbSend th => decide (th < 256)
  | .tcbTimer th => decide (th < 256)
  | .tcbBind th => decide (th < 256)
  | .tcbCommit th => decide (th < 256)
  | .tcbRelease th => decide (th < 256)
  | .tcbWstat th => decide (th < 256)
  | .tcbPoolSize th => decide (th < 256)
  | .tcbPoolAlloc th => decide (th < 256)
  | .tcbPoolFree th => decide (th < 256)
  | .tcbPoolBp th => decide (th < 256)
  | .tcbId th => decide (th < 256)
  | .tcbReserve th => decide (th < 256)
  | .tcbReserveWait th => decide (th < 256)
  | .tcbAcquire th => decide (th < 256)
  | .tcbAcquireWait th => decide (th < 256)
  | .grottoInjectTake g => decide (g < 8)
  | .dbgStop th m => decide (th < 256) && Master.known m
  | .dbgResume th m => decide (th < 256) && Master.known m
  | .dbgStep th m => decide (th < 256) && Master.known m
  | .dbgStepEnd th => decide (th < 256)
  | .dbgAbandon th m => decide (th < 256) && Master.known m
  | .dbgReadReg th m => decide (th < 256) && Master.known m
  | .dbgWriteReg th m => decide (th < 256) && Master.known m
  | .grtInject c m => decide (c < 32) && Master.known m
  | .add th => decide (th < 256)
  | .sub th => decide (th < 256)
  | .and th => decide (th < 256)
  | .or th => decide (th < 256)
  | .xor th => decide (th < 256)
  | .shl th => decide (th < 256)
  | .shr th => decide (th < 256)
  | .sar th => decide (th < 256)
  | .addi th => decide (th < 256)
  | .andi th => decide (th < 256)
  | .ori th => decide (th < 256)
  | .xori th => decide (th < 256)
  | .shli th => decide (th < 256)
  | .shri th => decide (th < 256)
  | .sari th => decide (th < 256)
  | .lih th => decide (th < 256)
  | .clt th => decide (th < 256)
  | .cltu th => decide (th < 256)
  | .ceq th => decide (th < 256)
  | .mul th => decide (th < 256)
  | .mulh th => decide (th < 256)
  | .div th => decide (th < 256)
  | .divu th => decide (th < 256)
  | .rem th => decide (th < 256)
  | .lb th => decide (th < 256)
  | .lh th => decide (th < 256)
  | .lw th => decide (th < 256)
  | .ld th => decide (th < 256)
  | .lbu th => decide (th < 256)
  | .lhu th => decide (th < 256)
  | .lwu th => decide (th < 256)
  | .sb th => decide (th < 256)
  | .sh th => decide (th < 256)
  | .sw th => decide (th < 256)
  | .sd th => decide (th < 256)
  | .beq th => decide (th < 256)
  | .bne th => decide (th < 256)
  | .blt th => decide (th < 256)
  | .bge th => decide (th < 256)
  | .bltu th => decide (th < 256)
  | .bgeu th => decide (th < 256)
  | .call th => decide (th < 256)
  | .jr th => decide (th < 256)
  | .crc32c th => decide (th < 256)
  | .popcnt th => decide (th < 256)
  | .clz th => decide (th < 256)
  | .bswap th => decide (th < 256)
  | .extr th => decide (th < 256)
  | .insr th => decide (th < 256)
  | .csel th => decide (th < 256)
  | .fence th => decide (th < 256)
  | .engineResetAssert => true
  | .engineResetRelease _ _ _ => true
  | .lampPowerOn sa _ _ _ _ => decide (sa < 4)
  | .brownoutStart => true
  | .brownoutEnd => true
  | .thermalResetHoldEnd => true
  | .bootLdGo m => Master.known m
  | .bootLdDone => true
  | .bootLdResume m => Master.known m
  | .keyProvision slot m => decide (slot < 4) && Master.known m
  | .keyRevoke slot m => decide (slot < 4) && Master.known m
  | .flashRelease _ m => Master.known m
  | .bootInject m => Master.known m
  | .hostInterfaceReset => true
  | .hostLinkDown => true
  | .ringEnable n m => decide (n < 240) && Master.known m
  | .ringDoorbell n v => decide (n < 240) && decide (v < 2 ^ 32)
  | .ringReset n m => decide (n < 240) && Master.known m
  | .ringResetDone n => decide (n < 240)
  | .ringJobComplete n => decide (n < 240)
  | .ringNotify n => decide (n < 240)
  | .injectJob n => decide (n < 240)
  | .injectFetchRetry n => decide (n < 240)
  | .tblCmdNop n => decide (n < 240)
  | .tblCmdCont n => decide (n < 240)
  | .tblCmdWriteEntry n => decide (n < 240)
  | .tblCmdReadEntry n => decide (n < 240)
  | .tblCmdRegWrite n => decide (n < 240)
  | .tblCmdDsAdd n => decide (n < 240)
  | .tblCmdExm n => decide (n < 240)
  | .tblCmdCairn n => decide (n < 240)
  | .hifInject m => Master.known m
  | .icuDeliver bank => decide (bank < 2)
  | .icuAck bank t src m => decide (bank < 2) && decide (t < 64) && decide (src < 4096) && Master.known m
  | .icuMaskSet bank src m => decide (bank < 2) && decide (src < 4096) && Master.known m
  | .icuMaskClr bank src m => decide (bank < 2) && decide (src < 4096) && Master.known m
  | .fmuRecord => true
  | .svyConfig i m v => decide (i < 64) && Master.known m && decide (v < 2 ^ 128)
  | .svyWindowEnd => true
  | .svyLatch m => Master.known m
  | .statPairRead k => decide (k < 1073741824)
  | .statPairWrite k v => decide (k < 1073741824) && decide (v < 2 ^ 128)
  | .snpGo m => Master.known m
  | .snpStart => true
  | .snpDone => true
  | .snpFail => true
  | .echoArchive port => decide (port < 2)
  | .echoSeedWrite v m => decide (v < 2 ^ 32) && Master.known m
  | .i3cAddressWrite _ => true
  | .i3cPrivateRead _ => true
  | .i3cCcc c => c.wf
  | .jtagInstruction _ => true
  | .jtagDbgRegAccess addr v => addrOk addr && (v.all fun x => decide (x < 2 ^ 32))
  | .sensorSample temps volts est => temps.length == 24 && temps.all sampleOk && volts.length == 16 && volts.all sampleOk && (est.all fun x => decide (x < 2048))
  | .lampPowerLoss => true
  | .hostLinkUp speed width => decide (speed < 16) && decide (width < 256)
  | .pcieConfigWrite c => c.wf
  | .msixTableWrite w => w.wf
  | .ringDmaError n => decide (n < 240)
  | .farLinkRecovery p => decide (p < 2)
  | .farFlitCrcError p => decide (p < 2)
  | .sysrefReturn => true

end Sys2Proof
end

