-- ==== Sys2Proof/Machine/Tick.lean ====
section
/-! DEFINITION. The passage of time: what one period of the register-fabric clock D2, 2 ns, does by itself (R247, R285, R289, R301,
R318, R388, R472), and the form of every command's effect. A step on an empty queue is one such period. -/

namespace Sys2Proof.Machine

namespace Body

/-- The comparators on sources that are sampled at every D0 clock take a sample, and the traffic detectors start again (R289). -/
def d0Sample (b : Body) : Body :=
  let b := (List.range 64).foldl (fun b n =>
    match b.glwLive (glwSrc (b.ent Tbl.glow n)) with
    | some v => b.glwSample n v
    | none => b) b
  { b with lamp := { b.lamp with traffic := [] } }

/-- Whether a D0 edge, one every 40 ns, falls on the present time. -/
def d0Edge (b : Body) : Bool := b.clk % 40 == 0

/-- 2 ns pass for the residence and throttle times of a Gallery (R318). -/
def galTime (b : Body) (g : Nat) : Body :=
  let st := b.galState g
  let pg := Pg.galPower g
  let b := if 4 ≤ st ∧ st ≤ 6 then b.count pg (GAL_DOZE_NS + (st - 4)) 2 else b
  if b.throttled then b.count pg GAL_THROTTLE_NS 2 else b

/-- Three clocks of D14 pass for the threads that wait (R388), and for the deadlock detectors (R380). -/
def waitTime (b : Body) : Body :=
  if ¬ b.clkRuns 14 then b
  else (List.range 256).foldl (fun b th => if b.tst th = TH_WAIT then b.count (Pg.core (th / 8) 3) (4 * (th % 8) + 1) 3 else b)
    ((List.range 32).foldl (fun b c => b.dlWatch c) b)

/-- The 1PPS output falls at the end of its width (R306). -/
def ppsFall (b : Body) : Body :=
  if b.lamp.ppsOut ∧ b.lamp.ppsOff ≤ b.clk then { b with lamp := { b.lamp with ppsOut := false } } else b

/-- 2 ns pass in a running engine. -/
def tickRun (b : Body) : Body :=
  let b := if b.clkRuns 17 then b.ppsWatch fun b => b.winWatch fun b => b.todRun 2 else b
  let b := b.tagsCatchUp.ppsFall.rxGrow
  let b := (List.range 8).foldl (fun b g => ((b.galTime g).idleWatch g).svySlots g 2) b
  let b := if b.clkRuns 15 then b.statAge else b
  let b := (b.svyLevel 2).waitTime
  if b.d0Edge then b.d0Sample else b

/-- 2 ns pass. While every domain but D0 stands, the time of day goes on in steps of D0 (R288, R497). -/
def elapse (b : Body) : Body :=
  if b.sup.mode = .off then b
  else
    let b := { b with clk := b.clk + 2 }
    if b.sup.mode = .running then b.tickRun
    else if b.d0Edge then b.todRun 40 else b

/-! The form of a command. -/

/-- The pools of the Grotto's owner bit whose back-pressure level differs between two states (R226, R367). -/
def levelMoved (was b : Body) : Bool :=
  (List.range 16).any fun n => bitOn (b.prd' n R.POOL_OWNERS) 0 && was.poolLevel n != b.poolLevel n

/-- Event bit 25 of every thread where such a level changed (R367). -/
def poolNote (was b : Body) : Body :=
  if levelMoved was b then (List.range 256).foldl (fun b th => b.setBit th 25) b else b

/-- What a change of state entails for the counters of Survey and for the threads that watch the pools. -/
def note (was b : Body) : Body := svyNote was (poolNote was b)

/-- A period of the register-fabric clock, with what its changes entail. -/
def tick (b : Body) : Body := note b b.elapse

end Body

/-- The engine after an effect, with what the change entails. -/
def Dev.after (d : Dev) (f : Dev → Dev) : Dev :=
  let x := f d
  { x with body := Body.note d.body x.body }

/-- Whether a command of some clock domains finds them running. -/
def Dev.runs (d : Dev) (doms : List Nat) : Bool := d.body.sup.mode == .running && doms.all fun x => d.body.clkRuns x

/-- A command that has its effect whatever state the engine is in. It has none where an operand names nothing that the engine
has: `ok` says that every operand does. -/
def State.always (s : State) (ok : Bool) (f : Dev → Dev) : Host.Outcome State Fault Refusal :=
  .next { s with dev := if ok then s.dev.after f else s.dev }

/-- A command of the running engine: it has no effect while the engine is held in reset or one of its clock domains stands. -/
def State.live (s : State) (ok : Bool) (doms : List Nat) (f : Dev → Dev) : Host.Outcome State Fault Refusal :=
  .next { s with dev := if ok && s.dev.runs doms then s.dev.after f else s.dev }

/-- The same for an effect that leaves what is sticky, and for one of the Lamp. -/
def State.body (s : State) (ok : Bool) (doms : List Nat) (f : Body → Body) : Host.Outcome State Fault Refusal :=
  s.live ok doms fun d => d.on f
def State.lampBody (s : State) (ok : Bool) (f : Body → Body) : Host.Outcome State Fault Refusal :=
  s.always ok fun d => d.on f

/-! Registers that a command writes or reads. -/

namespace Body

/-- The writable fields of a register as they stand, but for one. -/
def keepWord (b : Body) (addr : Nat) (but : Fld) : Nat :=
  (fieldsOf addr).foldl (fun v x =>
    if x.1 = but ∨ ¬ (x.1.acc = .rw ∨ x.1.acc = .rws ∨ x.1.acc = .rwl) then v
    else v + b.rd (pageOf addr) x.1 x.2.1 x.2.2 * 2 ^ x.1.lo) 0

/-- A counter pair shown to its reader (R478): 16 bytes as two numbers. -/
def pairShow (b : Body) (k : Nat) : Body :=
  let r := b.pairRead k
  { r.1 with rdata := [r.2 % 2 ^ 64, r.2 / 2 ^ 64] }

end Body

namespace Dev

/-- A master writes a field of a register and the register's other writable fields as they stand. -/
def put (d : Dev) (m page : Nat) (f : Fld) (i x : Nat) : Dev :=
  let a := f.addr page i 0
  d.write m a (d.body.keepWord a f + x % 2 ^ f.width * 2 ^ f.lo)

/-- A master reads a register; the answer is what the engine shows. -/
def read (d : Dev) (m addr : Nat) : Dev :=
  let r := d.busRead m addr
  r.1.on fun b => { b with rdata := [r.2] }

/-- A master writes GRT_DBG_CMD with GO, an operation and a thread; the window and the count stand as they are. -/
def dbgGo (d : Dev) (m th op : Nat) : Dev :=
  let a := R.GRT_DBG_GO.addr (Pg.core (th / 8) 2) 0 0
  let w := setBitField (setBitField (d.body.keepWord a R.GRT_DBG_GO) 30 28 op) 26 24 (th % 8)
  d.write m a (2 ^ 31 + w)

end Dev

end Sys2Proof.Machine
end

