-- ==== Sys2Proof/Machine/AluCmds.lean ====
section
/-! DEFINITION. The Grotto instructions (R409, R410). Each meaning is one operation on the engine. -/

namespace Sys2Proof.Machine

/-- ADD (R410). Grotto instruction ADD writes the sum of two registers. -/
def execAdd (th : Nat) (s : State) : Host.Outcome State Fault Refusal :=
  s.live (decide (th < 256)) [14] fun d => d.opReg2 th 0x00 fun x y => u64 (x + y)

/-- SUB (R410). Grotto instruction SUB writes the difference of two registers. -/
def execSub (th : Nat) (s : State) : Host.Outcome State Fault Refusal :=
  s.live (decide (th < 256)) [14] fun d => d.opReg2 th 0x01 fun x y => wrapSub 64 x y

/-- AND (R410). Grotto instruction AND writes the bitwise AND of two registers. -/
def execAnd (th : Nat) (s : State) : Host.Outcome State Fault Refusal :=
  s.live (decide (th < 256)) [14] fun d => d.opReg2 th 0x02 fun x y => x &&& y

/-- OR (R410). Grotto instruction OR writes the bitwise OR of two registers. -/
def execOr (th : Nat) (s : State) : Host.Outcome State Fault Refusal :=
  s.live (decide (th < 256)) [14] fun d => d.opReg2 th 0x03 fun x y => x ||| y

/-- XOR (R410). Grotto instruction XOR writes the bitwise XOR of two registers. -/
def execXor (th : Nat) (s : State) : Host.Outcome State Fault Refusal :=
  s.live (decide (th < 256)) [14] fun d => d.opReg2 th 0x04 fun x y => x ^^^ y

/-- SHL (R410). Grotto instruction SHL shifts a register left by a register. -/
def execShl (th : Nat) (s : State) : Host.Outcome State Fault Refusal :=
  s.live (decide (th < 256)) [14] fun d => d.opReg2 th 0x05 valShl

/-- SHR (R410). Grotto instruction SHR shifts a register right logically by a register. -/
def execShr (th : Nat) (s : State) : Host.Outcome State Fault Refusal :=
  s.live (decide (th < 256)) [14] fun d => d.opReg2 th 0x06 valShr

/-- SAR (R410). Grotto instruction SAR shifts a register right arithmetically by a register. -/
def execSar (th : Nat) (s : State) : Host.Outcome State Fault Refusal :=
  s.live (decide (th < 256)) [14] fun d => d.opReg2 th 0x07 valSar

/-- ADDI (R410). Grotto instruction ADDI adds a sign-extended immediate. -/
def execAddi (th : Nat) (s : State) : Host.Outcome State Fault Refusal :=
  s.live (decide (th < 256)) [14] fun d => d.opRegW th 0x08 fun x w => u64 (x + uSx w)

/-- ANDI (R410). Grotto instruction ANDI ANDs a zero-extended immediate. -/
def execAndi (th : Nat) (s : State) : Host.Outcome State Fault Refusal :=
  s.live (decide (th < 256)) [14] fun d => d.opRegW th 0x09 fun x w => x &&& uZx w

/-- ORI (R410). Grotto instruction ORI ORs a zero-extended immediate. -/
def execOri (th : Nat) (s : State) : Host.Outcome State Fault Refusal :=
  s.live (decide (th < 256)) [14] fun d => d.opRegW th 0x0A fun x w => x ||| uZx w

/-- XORI (R410). Grotto instruction XORI XORs a zero-extended immediate. -/
def execXori (th : Nat) (s : State) : Host.Outcome State Fault Refusal :=
  s.live (decide (th < 256)) [14] fun d => d.opRegW th 0x0B fun x w => x ^^^ uZx w

/-- SHLI (R410). Grotto instruction SHLI shifts left by an immediate. -/
def execShli (th : Nat) (s : State) : Host.Outcome State Fault Refusal :=
  s.live (decide (th < 256)) [14] fun d => d.opRegW th 0x0C fun x w => valShl x (uSx w)

/-- SHRI (R410). Grotto instruction SHRI shifts right logically by an immediate. -/
def execShri (th : Nat) (s : State) : Host.Outcome State Fault Refusal :=
  s.live (decide (th < 256)) [14] fun d => d.opRegW th 0x0D fun x w => valShr x (uSx w)

/-- SARI (R410). Grotto instruction SARI shifts right arithmetically by an immediate. -/
def execSari (th : Nat) (s : State) : Host.Outcome State Fault Refusal :=
  s.live (decide (th < 256)) [14] fun d => d.opRegW th 0x0E fun x w => valSar x (uSx w)

/-- LIH (R410). Grotto instruction LIH loads an immediate shifted left by 16. -/
def execLih (th : Nat) (s : State) : Host.Outcome State Fault Refusal :=
  s.live (decide (th < 256)) [14] fun d => d.opRegW th 0x0F fun _ w => u64 (uSx w * 2 ^ 16)

/-- CLT (R410). Grotto instruction CLT compares signed less-than. -/
def execClt (th : Nat) (s : State) : Host.Outcome State Fault Refusal :=
  s.live (decide (th < 256)) [14] fun d => d.opReg2 th 0x10 fun x y => b2n (decide (signed 64 x < signed 64 y))

/-- CLTU (R410). Grotto instruction CLTU compares unsigned less-than. -/
def execCltu (th : Nat) (s : State) : Host.Outcome State Fault Refusal :=
  s.live (decide (th < 256)) [14] fun d => d.opReg2 th 0x11 fun x y => b2n (decide (x < y))

/-- CEQ (R410). Grotto instruction CEQ compares for equality. -/
def execCeq (th : Nat) (s : State) : Host.Outcome State Fault Refusal :=
  s.live (decide (th < 256)) [14] fun d => d.opReg2 th 0x12 fun x y => b2n (x == y)

/-- MUL (R410). Grotto instruction MUL writes the low product. -/
def execMul (th : Nat) (s : State) : Host.Outcome State Fault Refusal :=
  s.live (decide (th < 256)) [14] fun d => d.opReg2 th 0x13 fun x y => u64 (x * y)

/-- MULH (R410). Grotto instruction MULH writes the high product. -/
def execMulh (th : Nat) (s : State) : Host.Outcome State Fault Refusal :=
  s.live (decide (th < 256)) [14] fun d => d.opReg2 th 0x14 valMulh

/-- DIV (R410). Grotto instruction DIV divides signed, returning all ones on divide by zero. -/
def execDiv (th : Nat) (s : State) : Host.Outcome State Fault Refusal :=
  s.live (decide (th < 256)) [14] fun d => d.opReg2 th 0x15 valDiv

/-- DIVU (R410). Grotto instruction DIVU divides unsigned, returning all ones on divide by zero. -/
def execDivu (th : Nat) (s : State) : Host.Outcome State Fault Refusal :=
  s.live (decide (th < 256)) [14] fun d => d.opReg2 th 0x16 valDivu

/-- REM (R410). Grotto instruction REM returns the remainder, or the dividend on divide by zero. -/
def execRem (th : Nat) (s : State) : Host.Outcome State Fault Refusal :=
  s.live (decide (th < 256)) [14] fun d => d.opReg2 th 0x17 valRem

/-- LB (R410). Grotto instruction LB loads a sign-extended byte. -/
def execLb (th : Nat) (s : State) : Host.Outcome State Fault Refusal :=
  s.live (decide (th < 256)) [14] fun d => d.opLoad th 0x18 1 true

/-- LH (R410). Grotto instruction LH loads a sign-extended halfword. -/
def execLh (th : Nat) (s : State) : Host.Outcome State Fault Refusal :=
  s.live (decide (th < 256)) [14] fun d => d.opLoad th 0x19 2 true

/-- LW (R410). Grotto instruction LW loads a sign-extended word. -/
def execLw (th : Nat) (s : State) : Host.Outcome State Fault Refusal :=
  s.live (decide (th < 256)) [14] fun d => d.opLoad th 0x1A 4 true

/-- LD (R410). Grotto instruction LD loads a doubleword from memory, a window, the control block or BAR0. -/
def execLd (th : Nat) (s : State) : Host.Outcome State Fault Refusal :=
  s.live (decide (th < 256)) [14] fun d => d.opLoad th 0x1B 8 false

/-- LBU (R410). Grotto instruction LBU loads a zero-extended byte. -/
def execLbu (th : Nat) (s : State) : Host.Outcome State Fault Refusal :=
  s.live (decide (th < 256)) [14] fun d => d.opLoad th 0x1C 1 false

/-- LHU (R410). Grotto instruction LHU loads a zero-extended halfword. -/
def execLhu (th : Nat) (s : State) : Host.Outcome State Fault Refusal :=
  s.live (decide (th < 256)) [14] fun d => d.opLoad th 0x1D 2 false

/-- LWU (R410). Grotto instruction LWU loads a zero-extended word. -/
def execLwu (th : Nat) (s : State) : Host.Outcome State Fault Refusal :=
  s.live (decide (th < 256)) [14] fun d => d.opLoad th 0x1E 4 false

/-- SB (R410). Grotto instruction SB stores a byte. -/
def execSb (th : Nat) (s : State) : Host.Outcome State Fault Refusal :=
  s.live (decide (th < 256)) [14] fun d => d.opStore th 0x20 1

/-- SH (R410). Grotto instruction SH stores a halfword. -/
def execSh (th : Nat) (s : State) : Host.Outcome State Fault Refusal :=
  s.live (decide (th < 256)) [14] fun d => d.opStore th 0x21 2

/-- SW (R410). Grotto instruction SW stores a word. -/
def execSw (th : Nat) (s : State) : Host.Outcome State Fault Refusal :=
  s.live (decide (th < 256)) [14] fun d => d.opStore th 0x22 4

/-- SD (R410). Grotto instruction SD stores a doubleword. -/
def execSd (th : Nat) (s : State) : Host.Outcome State Fault Refusal :=
  s.live (decide (th < 256)) [14] fun d => d.opStore th 0x23 8

/-- BEQ (R410). Grotto instruction BEQ branches if equal. -/
def execBeq (th : Nat) (s : State) : Host.Outcome State Fault Refusal :=
  s.live (decide (th < 256)) [14] fun d => d.opBranch th 0x28 fun x y => x == y

/-- BNE (R410). Grotto instruction BNE branches if not equal. -/
def execBne (th : Nat) (s : State) : Host.Outcome State Fault Refusal :=
  s.live (decide (th < 256)) [14] fun d => d.opBranch th 0x29 fun x y => x != y

/-- BLT (R410). Grotto instruction BLT branches if signed less. -/
def execBlt (th : Nat) (s : State) : Host.Outcome State Fault Refusal :=
  s.live (decide (th < 256)) [14] fun d => d.opBranch th 0x2A fun x y => decide (signed 64 x < signed 64 y)

/-- BGE (R410). Grotto instruction BGE branches if signed greater or equal. -/
def execBge (th : Nat) (s : State) : Host.Outcome State Fault Refusal :=
  s.live (decide (th < 256)) [14] fun d => d.opBranch th 0x2B fun x y => decide (signed 64 y ≤ signed 64 x)

/-- BLTU (R410). Grotto instruction BLTU branches if unsigned less. -/
def execBltu (th : Nat) (s : State) : Host.Outcome State Fault Refusal :=
  s.live (decide (th < 256)) [14] fun d => d.opBranch th 0x2C fun x y => decide (x < y)

/-- BGEU (R410). Grotto instruction BGEU branches if unsigned greater or equal. -/
def execBgeu (th : Nat) (s : State) : Host.Outcome State Fault Refusal :=
  s.live (decide (th < 256)) [14] fun d => d.opBranch th 0x2D fun x y => decide (y ≤ x)

/-- CALL (R410). Grotto instruction CALL branches and writes the link register. -/
def execCall (th : Nat) (s : State) : Host.Outcome State Fault Refusal :=
  s.live (decide (th < 256)) [14] fun d => d.opCall th

/-- JR (R410). Grotto instruction JR jumps to a register address. -/
def execJr (th : Nat) (s : State) : Host.Outcome State Fault Refusal :=
  s.live (decide (th < 256)) [14] fun d => d.opJump th

/-- CRC32C (R410). Grotto instruction CRC32C computes a CRC-32C step. -/
def execCrc32c (th : Nat) (s : State) : Host.Outcome State Fault Refusal :=
  s.live (decide (th < 256)) [14] fun d => d.opReg2 th 0x30 fun x y => u64 (Config.crcStep x y)

/-- POPCNT (R410). Grotto instruction POPCNT counts set bits. -/
def execPopcnt (th : Nat) (s : State) : Host.Outcome State Fault Refusal :=
  s.live (decide (th < 256)) [14] fun d => d.opRegW th 0x31 fun x _ => popcount x 64

/-- CLZ (R410). Grotto instruction CLZ counts leading zeros. -/
def execClz (th : Nat) (s : State) : Host.Outcome State Fault Refusal :=
  s.live (decide (th < 256)) [14] fun d => d.opRegW th 0x32 fun x _ => valClz x

/-- BSWAP (R410). Grotto instruction BSWAP reverses byte order. -/
def execBswap (th : Nat) (s : State) : Host.Outcome State Fault Refusal :=
  s.live (decide (th < 256)) [14] fun d => d.opRegW th 0x33 fun x _ => valBswap x

/-- EXTR (R410). Grotto instruction EXTR extracts a bit field. -/
def execExtr (th : Nat) (s : State) : Host.Outcome State Fault Refusal :=
  s.live (decide (th < 256)) [14] fun d => d.opField th 0x34 fun w _ x y => valExtr w x y

/-- INSR (R410). Grotto instruction INSR inserts a bit field. -/
def execInsr (th : Nat) (s : State) : Host.Outcome State Fault Refusal :=
  s.live (decide (th < 256)) [14] fun d => d.opField th 0x35 valInsr

/-- CSEL (R410). Grotto instruction CSEL selects conditionally. -/
def execCsel (th : Nat) (s : State) : Host.Outcome State Fault Refusal :=
  s.live (decide (th < 256)) [14] fun d => d.opField th 0x36 fun w old x y => if Config.cselFirst w old x y then x else y

/-- FENCE (R410). Grotto instruction FENCE waits until every earlier access of the thread has completed. -/
def execFence (th : Nat) (s : State) : Host.Outcome State Fault Refusal :=
  s.live (decide (th < 256)) [14] fun d => d.opFence th

end Sys2Proof.Machine
end

