-- ==== Sys2Proof/Machine/CairnCmds.lean ====
section
/-! DEFINITION. The commands of Cairn and of the Governor (chapters 01 and 02). Each meaning is one operation on the engine. -/

namespace Sys2Proof.Machine

/-- CAIRN_BEGIN (R67). BEGIN binds an IDLE or DONE slot to the issuing master and zeroes its status fields. -/
def execCairnBegin (n m : Nat) (s : State) : Host.Outcome State Fault Refusal :=
  s.live (decide (n < 8) && Master.known m) [2] fun d => d.write m (R.CAIRN_CMD.addr Pg.cairn n 0) 1

/-- CAIRN_COMMIT (R58). COMMIT unbinds a slot and either rolls it back on a failed pre-check or moves it to VALIDATE. -/
def execCairnCommit (n m : Nat) (s : State) : Host.Outcome State Fault Refusal :=
  s.live (decide (n < 8) && Master.known m) [2] fun d => d.write m (R.CAIRN_CMD.addr Pg.cairn n 0) 2

/-- CAIRN_ABORT (R66). ABORT discards every staged write of a slot and moves it to DONE with result ABORTED. -/
def execCairnAbort (n m : Nat) (s : State) : Host.Outcome State Fault Refusal :=
  s.live (decide (n < 8) && Master.known m) [2] fun d => d.write m (R.CAIRN_CMD.addr Pg.cairn n 0) 3

/-- CAIRN_RELEASE (R67). RELEASE returns a DONE slot to IDLE with result NONE. -/
def execCairnRelease (n m : Nat) (s : State) : Host.Outcome State Fault Refusal :=
  s.live (decide (n < 8) && Master.known m) [2] fun d => d.write m (R.CAIRN_CMD.addr Pg.cairn n 0) 4

/-- CAIRN_VALIDATE_DONE (R58). Validation of a slot's staged targets ends, moving the slot to PENDING or to DONE with ECC or
INVALID. -/
def execCairnValidateDone (n : Nat) (s : State) : Host.Outcome State Fault Refusal :=
  s.body (decide (n < 8)) [2] fun b => b.cairnValidateDone n

/-- CAIRN_APPLY (R59). At the apply instant every staged value of a PENDING slot takes effect, old values go to the version
store and the epoch flips. -/
def execCairnApply (n : Nat) (s : State) : Host.Outcome State Fault Refusal :=
  s.live (decide (n < 8)) [2] fun d => (d.on fun b => b.cairnApply n).fuseDue

/-- CAIRN_WAIT_EXCEEDED (R65). A slot that stays in PENDING beyond CAIRN_WAIT_LIMIT sets CAIRN_EVT_WAIT once. -/
def execCairnWaitExceeded (n : Nat) (s : State) : Host.Outcome State Fault Refusal :=
  s.body (decide (n < 8)) [2] fun b => b.cairnWaitExceeded n

/-- GOV_MODE_WRITE (R27). A write of GOV_LOOP_CTRLn requests AUTO or HANDS_OFF for a loop, or is refused with GOV_EVT_BADMODE.
-/
def execGovModeWrite (loop mode m : Nat) (s : State) : Host.Outcome State Fault Refusal :=
  s.live (decide (loop < 6) && decide (mode < 4) && Master.known m) [2] fun d => d.put m (Pg.governor) R.GOV_MODE loop mode

/-- GOV_MODE_APPLY (R30). A requested mode takes effect once the loop's current action has completed. -/
def execGovModeApply (loop : Nat) (s : State) : Host.Outcome State Fault Refusal :=
  s.body (decide (loop < 6)) [2] fun b => b.govModeApply loop

/-- GOV_HEARTBEAT (R32). A write of GOV_HEARTBEAT from a Governor thread counts as a heartbeat; from any other master it is
ignored and sets GOV_EVT_OWNER. -/
def execGovHeartbeat (m v : Nat) (s : State) : Host.Outcome State Fault Refusal :=
  s.live (Master.known m && decide (v < 2 ^ 32)) [2] fun d => d.write m (R.GOV_HEARTBEAT.addr Pg.governor 0 0) v

/-- GOV_STALL (R32). After 10 ms without a heartbeat every loop goes HANDS_OFF, actuators freeze and a Governor-stall fault is
recorded. -/
def execGovStall (s : State) : Host.Outcome State Fault Refusal :=
  s.body true [2] fun b => b.govStall false

/-- GOV_LOG_RD_WRITE (R34). A write of GOV_LOG_RD records entries consumed, or is ignored with GOV_EVT_BADRD if above
GOV_LOG_WR. -/
def execGovLogRdWrite (m v : Nat) (s : State) : Host.Outcome State Fault Refusal :=
  s.live (Master.known m && decide (v < 2 ^ 32)) [2] fun d => d.write m (R.GOV_LOG_RD.addr Pg.governor 0 0) v

end Sys2Proof.Machine
end

