-- ==== Sys2Proof/Machine/HostCmds.lean ====
section
/-! DEFINITION. The commands of the host interface and its rings (chapter 14). Each meaning is one operation on the engine. -/

namespace Sys2Proof.Machine

/-- HOST_INTERFACE_RESET (R420). An FLR, hot reset or PERST_N resets every ring, the host-interface pages and MSI-X and aborts
the host's Cairn slot. -/
def execHostInterfaceReset (s : State) : Host.Outcome State Fault Refusal :=
  s.body true [3] fun b => b.hostReset

/-- HOST_LINK_DOWN (R420). The PCIe link leaving L0 stops every RUNNING ring with cause LINK. -/
def execHostLinkDown (s : State) : Host.Outcome State Fault Refusal :=
  s.body true [3] fun b => b.hostLinkDown

/-- RING_ENABLE (R429). A write of RING_EN = 1 validates the ring's configuration and makes it RUNNING. -/
def execRingEnable (n m : Nat) (s : State) : Host.Outcome State Fault Refusal :=
  s.live (decide (n < 240) && Master.known m) [2] fun d => d.put m (Pg.ring n) R.RING_EN 0 1

/-- RING_DOORBELL (R423). A doorbell write advances RING_PROD, or is a protocol error with cause DOORBELL. -/
def execRingDoorbell (n v : Nat) (s : State) : Host.Outcome State Fault Refusal :=
  s.body (decide (n < 240) && decide (v < 2 ^ 32)) [3] fun b => if b.boot.bar0 then b.ringDoorbell n v else b

/-- RING_RESET (R427). RING_RESET or clearing RING_EN moves the ring to RESETTING and stops fetching. -/
def execRingReset (n m : Nat) (s : State) : Host.Outcome State Fault Refusal :=
  s.live (decide (n < 240) && Master.known m) [2] fun d => d.put m (Pg.ring n) R.RING_RESET 0 1

/-- RING_RESET_DONE (R427). Begun work finishes, both indices become 0, the write-back is sent and the ring ends RUNNING or
DISABLED. -/
def execRingResetDone (n : Nat) (s : State) : Host.Outcome State Fault Refusal :=
  s.body (decide (n < 240)) [3] fun b => b.ringResetDone n

/-- RING_JOB_COMPLETE (R426). A job completes in index order, RING_CONS advances and the write-back is sent. -/
def execRingJobComplete (n : Nat) (s : State) : Host.Outcome State Fault Refusal :=
  s.body (decide (n < 240)) [3] fun b => b.ringJobComplete n

/-- RING_NOTIFY (R431). A ring notifies by vector and RING_EVT_CMPL after RING_COAL_JOBS jobs or RING_COAL_US µs. -/
def execRingNotify (n : Nat) (s : State) : Host.Outcome State Fault Refusal :=
  s.body (decide (n < 240)) [3] fun b => b.ringNotify n

/-- INJECT_JOB (R432). An INJECT job's packet is read from host buffers, staged and handed to a Gallery's inject source or
dropped. -/
def execInjectJob (n : Nat) (s : State) : Host.Outcome State Fault Refusal :=
  s.body (decide (n < 240)) [3] fun b => b.injectJob n

/-- INJECT_FETCH_RETRY (R432). An inject fetch delayed by an empty staging pool retries every 1 µs. -/
def execInjectFetchRetry (n : Nat) (s : State) : Host.Outcome State Fault Refusal :=
  s.body (decide (n < 240)) [3] fun b => b.injectFetchRetry n

/-- TBL_CMD_NOP (R440). Table command NOP completes with value 0. -/
def execTblCmdNop (n : Nat) (s : State) : Host.Outcome State Fault Refusal :=
  s.live (decide (n < 240)) [3] fun d => d.tblCmd n 0 Dev.cmdNop

/-- TBL_CMD_CONT (R440). Table command CONT continues the data of the preceding WRITE_ENTRY. -/
def execTblCmdCont (n : Nat) (s : State) : Host.Outcome State Fault Refusal :=
  s.live (decide (n < 240)) [3] fun d => d.tblCmd n 1 Dev.cmdCont

/-- TBL_CMD_WRITE_ENTRY (R441). Table command WRITE_ENTRY writes or stages one table entry as one unit. -/
def execTblCmdWriteEntry (n : Nat) (s : State) : Host.Outcome State Fault Refusal :=
  s.live (decide (n < 240)) [3] fun d => d.tblCmd n 2 Dev.cmdWriteEntry

/-- TBL_CMD_READ_ENTRY (R440). Table command READ_ENTRY writes a whole table entry to a host address. -/
def execTblCmdReadEntry (n : Nat) (s : State) : Host.Outcome State Fault Refusal :=
  s.live (decide (n < 240)) [3] fun d => d.tblCmd n 3 Dev.cmdReadEntry

/-- TBL_CMD_REG_WRITE (R441). Table command REG_WRITE writes or stages a BAR0 register as the host. -/
def execTblCmdRegWrite (n : Nat) (s : State) : Host.Outcome State Fault Refusal :=
  s.live (decide (n < 240)) [3] fun d => d.tblCmd n 4 Dev.cmdRegWrite

/-- TBL_CMD_DS_ADD (R441). Table command DS_ADD writes a Dripstone entry at the lowest free address at or above DS_ADD_FLOOR,
waiting while none is free. -/
def execTblCmdDsAdd (n : Nat) (s : State) : Host.Outcome State Fault Refusal :=
  s.live (decide (n < 240)) [3] fun d => d.tblCmd n 5 Dev.cmdDsAdd

/-- TBL_CMD_EXM (R441). Table command EXM joins the exact-match command order and runs the selected operation. -/
def execTblCmdExm (n : Nat) (s : State) : Host.Outcome State Fault Refusal :=
  s.live (decide (n < 240)) [3] fun d => d.tblCmd n 6 Dev.cmdExm

/-- TBL_CMD_CAIRN (R441). Table command CAIRN writes a Cairn command, optionally mode and target, and optionally waits for
DONE. -/
def execTblCmdCairn (n : Nat) (s : State) : Host.Outcome State Fault Refusal :=
  s.live (decide (n < 240)) [3] fun d => d.tblCmd n 7 Dev.cmdCairn

/-- HIF_INJECT (R444). HIF_INJ_GO makes the next DMA read of a ring end in an error. -/
def execHifInject (m : Nat) (s : State) : Host.Outcome State Fault Refusal :=
  s.live (Master.known m) [2] fun d => d.put m (Pg.hif) R.HIF_INJ_GO 0 1

/-- HOST_LINK_UP (R420). The PCIe link returns to L0, HIF_LINK_UP changes and HIF_EVT_LINK is set. -/
def execHostLinkUp (speed width : Nat) (s : State) : Host.Outcome State Fault Refusal :=
  s.body (decide (speed < 16) && decide (width < 256)) [3] fun b => if b.sup.testPins then b else b.hostLinkUp speed width

/-- PCIE_CONFIG_WRITE (R420). A host configuration write changes Bus Master Enable, the power state or BAR assignment,
stopping or resuming ring DMA. -/
def execPcieConfigWrite (c : PcieCfg) (s : State) : Host.Outcome State Fault Refusal :=
  s.body c.wf [3] fun b => b.pcieConfig c

/-- MSIX_TABLE_WRITE (R419). A host write to the MSI-X table or function mask masks or unmasks a vector, sending one merged
message if its pending bit is set. -/
def execMsixTableWrite (w : MsixWrite) (s : State) : Host.Outcome State Fault Refusal :=
  s.body w.wf [3] fun b => b.msixWrite w

/-- RING_DMA_ERROR (R425). A ring or buffer DMA read completes with Unsupported Request, Completer Abort, poison or a
completion timeout, stopping the ring in ERROR with cause DMA. -/
def execRingDmaError (n : Nat) (s : State) : Host.Outcome State Fault Refusal :=
  s.body (decide (n < 240)) [3] fun b => b.ringDmaError n

end Sys2Proof.Machine
end

