-- ==== Sys2Proof/Machine/MemoryCmds.lean ====
section
/-! DEFINITION. The commands of HBM and of far memory (chapter 11). Each meaning is one operation on the engine. -/

namespace Sys2Proof.Machine

/-- HBM_REQUEST (R327). A pseudo-channel serves a queued read, write or atomic pair addition under its scheduling and quality-
of-service rules. -/
def execHbmRequest (k pc : Nat) (s : State) : Host.Outcome State Fault Refusal :=
  s.body (decide (k < 4) && decide (pc < 32)) [18] fun b => b.hbmRequest k pc

/-- HBM_REFRESH (R331). A pseudo-channel issues a per-bank refresh at its interval, postponing at most 8 times. -/
def execHbmRefresh (k pc : Nat) (s : State) : Host.Outcome State Fault Refusal :=
  s.body (decide (k < 4) && decide (pc < 32)) [18] fun b => b.hbmRefresh k pc

/-- HBM_SCRUB (R336). The scrubber reads a Sump line, rewriting it corrected or poisoned. -/
def execHbmScrub (line : Nat) (s : State) : Host.Outcome State Fault Refusal :=
  s.body (decide (line < 2147483648)) [18] fun b => b.hbmScrub line

/-- HBM_RATE_REQUEST (R337). A write of HBM_RATE_REQ starts a pin-rate step, or is ignored for an untrained rate. -/
def execHbmRateRequest (k m rate : Nat) (s : State) : Host.Outcome State Fault Refusal :=
  s.live (decide (k < 4) && Master.known m && decide (rate < 16)) [2] fun d => d.put m (Pg.hbm k 0) R.HBM_RATE_REQ 0 rate

/-- HBM_STEP_STALL (R337). The spare PLL output locks and the stack stalls through self-refresh to switch rate. -/
def execHbmStepStall (k : Nat) (s : State) : Host.Outcome State Fault Refusal :=
  s.body (decide (k < 4)) [18] fun b => b.stepStall k

/-- HBM_STEP_DONE (R337). Commands resume at the new rate, HBM_STEP_NS is recorded and HBM_EVT_STEP_DONE is set. -/
def execHbmStepDone (k : Nat) (s : State) : Host.Outcome State Fault Refusal :=
  s.body (decide (k < 4)) [18] fun b => b.stepDone k

/-- HBM_STEP_FAIL (R337). The spare output not locked 50 µs after the request abandons the step and sets HBM_EVT_STEP_FAIL. -/
def execHbmStepFail (k : Nat) (s : State) : Host.Outcome State Fault Refusal :=
  s.body (decide (k < 4)) [18] fun b => b.stepFail k

/-- REFRESH_LOOP_DECISION (R332). The REFRESH loop raises or lowers HBM_REF_MULT by the corrected-error rate. -/
def execRefreshLoopDecision (k _ce _peak : Nat) (s : State) : Host.Outcome State Fault Refusal :=
  s.body (decide (k < 4)) [2] fun b => b.refreshLoop k

/-- HBM_PC_RETRAIN (R342). The RETRAIN loop retrains one pseudo-channel in 8 stalling steps. -/
def execHbmPcRetrain (k pc margin _ce _demand : Nat) (periodic : Bool) (s : State) : Host.Outcome State Fault Refusal :=
  s.body (decide (k < 4) && decide (pc < 32)) [18] fun b => b.pcRetrain k pc margin periodic

/-- SERDES_READAPT (R342). The RETRAIN loop re-adapts the receivers of a port's lanes in service. -/
def execSerdesReadapt (p : Nat) (s : State) : Host.Outcome State Fault Refusal :=
  s.body (decide (p < 512)) [2] fun b => b.serdesReadapt p

/-- CXL_RECOVERY (R342). The RETRAIN loop takes a CXL link through Recovery with equalisation redone. -/
def execCxlRecovery (p _replays : Nat) (s : State) : Host.Outcome State Fault Refusal :=
  s.body (decide (p < 2)) [4] fun b => b.cxlRecovery p

/-- HBM_PG_RUN (R351). HBM_PG_GO runs the pattern generator and compare helper on a pseudo-channel's scratch region. -/
def execHbmPgRun (k m : Nat) (s : State) : Host.Outcome State Fault Refusal :=
  s.live (decide (k < 4) && Master.known m) [2] fun d => d.put m (Pg.hbm k 2) R.HBM_PG_GO 0 1

/-- HBM_CMP_DONE (R351). A pattern run ends with its lane error counts and HBM_EVT_CMP_DONE set. -/
def execHbmCmpDone (k : Nat) (errs : List Nat) (s : State) : Host.Outcome State Fault Refusal :=
  s.body (decide (k < 4) && errs.length == 40) [18] fun b => b.hbmCmpDone k errs

/-- HBM_DELAY_SET (R340). A write of HBM_DLY_SEL stores a lane setting for a rate, applying at once for the rate in force. -/
def execHbmDelaySet (k v m : Nat) (s : State) : Host.Outcome State Fault Refusal :=
  s.live (decide (k < 4) && decide (v < 2 ^ 32) && Master.known m) [2] fun d => d.write m (R.HBM_DLY_VAL.addr (Pg.hbm k 2) 0 0) v

/-- HBM_TRN_MARK (R351). HBM_TRN_GO marks a rate trained or untrained on the stack. -/
def execHbmTrnMark (k m : Nat) (s : State) : Host.Outcome State Fault Refusal :=
  s.live (decide (k < 4) && Master.known m) [2] fun d => d.put m (Pg.hbm k 2) R.HBM_TRN_GO 0 1

/-- HBM_ECC_INJECT (R352). HBM_INJ_GO arms an ECC or SIDE_SEQ error on the next write from a port. -/
def execHbmEccInject (k m : Nat) (s : State) : Host.Outcome State Fault Refusal :=
  s.live (decide (k < 4) && Master.known m) [2] fun d => d.put m (Pg.hbm k 3) R.HBM_INJ_GO 0 1

/-- FAR_LINK_ENABLE (R344). A write of FAR_LINK_EN starts or stops the bring-up of a CXL port. -/
def execFarLinkEnable (p : Nat) (on : Bool) (m : Nat) (s : State) : Host.Outcome State Fault Refusal :=
  s.live (decide (p < 2) && Master.known m) [2] fun d => d.put m (Pg.far p 0) R.FAR_LINK_EN 0 (b2n on)

/-- FAR_PERST_RELEASE (R344). After FAR_PERST_MS the Far controller deasserts the port's PERST_N and training begins. -/
def execFarPerstRelease (p : Nat) (s : State) : Host.Outcome State Fault Refusal :=
  s.body (decide (p < 2)) [4] fun b => b.farPerstRelease p

/-- FAR_LINK_TRAINED (R344). The link reaches L0 in Flit mode and the port moves to ENUM. -/
def execFarLinkTrained (p speed width : Nat) (s : State) : Host.Outcome State Fault Refusal :=
  s.body (decide (p < 2) && decide (speed < 16) && decide (width < 256)) [4] fun b => b.farLinkTrained p speed width

/-- FAR_ENUM_DONE (R344). HDM decoder 0 is programmed, FAR_MEM_SIZE set, FAR_LINK_GEN incremented and the port is READY. -/
def execFarEnumDone (p gib : Nat) (s : State) : Host.Outcome State Fault Refusal :=
  s.body (decide (p < 2)) [4] fun b => b.farEnumDone p gib

/-- FAR_ENUM_FAIL (R344). Training or enumeration fails and the port enters FAILED with FAR_ENUM_RC. -/
def execFarEnumFail (p rc : Nat) (s : State) : Host.Outcome State Fault Refusal :=
  s.body (decide (p < 2) && decide (rc < 16)) [4] fun b => b.farEnumFail p rc

/-- FAR_RETRY (R344). A FAILED port with FAR_LINK_EN = 1 retries bring-up from step 2 every second. -/
def execFarRetry (p : Nat) (s : State) : Host.Outcome State Fault Refusal :=
  s.body (decide (p < 2)) [4] fun b => b.farRetry p

/-- FAR_RECOVERY_EXIT (R345). A Recovery that returns to L0 returns the port to READY. -/
def execFarRecoveryExit (p : Nat) (s : State) : Host.Outcome State Fault Refusal :=
  s.body (decide (p < 2)) [4] fun b => b.farRecoveryExit p

/-- FAR_LINK_DOWN (R345). A failed Recovery or link loss moves the port to FAILED and makes outstanding reads unreadable. -/
def execFarLinkDown (p : Nat) (s : State) : Host.Outcome State Fault Refusal :=
  s.body (decide (p < 2)) [4] fun b => b.farLinkDown p

/-- FAR_READ_COMPLETE (R348). A far read completion returns data, or poisoned data that makes the piece unreadable. -/
def execFarReadComplete (q : Nat) (s : State) : Host.Outcome State Fault Refusal :=
  s.body (decide (q < 1048576)) [4] fun b => b.farReadComplete q

/-- FAR_REQUEST_TIMEOUT (R348). A far read or write not completed within FAR_TIMEOUT makes the piece unreadable or abandons
the migration. -/
def execFarRequestTimeout (q : Nat) (wr : Bool) (s : State) : Host.Outcome State Fault Refusal :=
  s.body (decide (q < 1048576)) [4] fun b => b.farRequestTimeout q wr

/-- FAR_IO_ACCESS (R355). FAR_IO_GO issues a CXL.io configuration or memory access to the device. -/
def execFarIoAccess (p m : Nat) (s : State) : Host.Outcome State Fault Refusal :=
  s.live (decide (p < 2) && Master.known m) [2] fun d => d.put m (Pg.far p 1) R.FAR_IO_GO 0 1

/-- FAR_IO_DONE (R355). The CXL.io access completes with FAR_IO_RC and its read data. -/
def execFarIoDone (p rc data : Nat) (s : State) : Host.Outcome State Fault Refusal :=
  s.body (decide (p < 2) && decide (rc < 16) && decide (data < 2 ^ 32)) [4] fun b => b.farIoDone p rc data

/-- FAR_INJECT (R354). FAR_INJ_GO injects a flit CRC error, poison, withheld completion or forced Recovery. -/
def execFarInject (p m : Nat) (s : State) : Host.Outcome State Fault Refusal :=
  s.live (decide (p < 2) && Master.known m) [2] fun d => d.put m (Pg.far p 0) R.FAR_INJ_GO 0 1

/-- FAR_LINK_RECOVERY (R345). A CXL link enters Recovery of its own accord, FAR_STATE becomes RECOVERY and far requests are
held. -/
def execFarLinkRecovery (p : Nat) (s : State) : Host.Outcome State Fault Refusal :=
  s.body (decide (p < 2)) [4] fun b => b.farRecovery p

/-- FAR_FLIT_CRC_ERROR (R348). A flit CRC error on a CXL link causes a link-layer replay, counts FAR_REPLAY and may set
FAR_EVT_REPLAY_HI. -/
def execFarFlitCrcError (p : Nat) (s : State) : Host.Outcome State Fault Refusal :=
  s.body (decide (p < 2)) [4] fun b => b.farFlitCrc p

end Sys2Proof.Machine
end

