-- ==== Sys2Proof/Machine/PacketCmds.lean ====
section
/-! DEFINITION. The commands of the packet path: dispatch, buffering, pools, scheduling, egress and Rimstone (chapters 04 to 09). Each meaning is one operation on the engine. -/

namespace Sys2Proof.Machine

/-- HEAD_DISPATCH (R82). The dispatcher hands an eligible head to a pipeline by weighted round robin and the packet passes
stages 4 to 6. -/
def execHeadDispatch (src : Nat) (lag : Bool) (s : State) : Host.Outcome State Fault Refusal :=
  s.body (decide (src < 528)) [15] fun b => b.headDispatch src lag

/-- VAULT_STALL_END (R137, R183). A full bank request queue drains, or a statistics write-back that stalled dispatch ends, and the
stalled dispatchers resume issuing heads. -/
def execVaultStallEnd (stall : StallEnd) (s : State) : Host.Outcome State Fault Refusal :=
  s.body true [15] fun b => b.stallEnd stall

/-- ADMISSION (R209). At stage 7 with its verdict known a packet is charged to its queue, spills, pushes out or is dropped,
and its counters update. -/
def execAdmission (src : Nat) (s : State) : Host.Outcome State Fault Refusal :=
  s.body (decide (src < 528)) [13] fun b => b.admission src

/-- SPILL_SPAN_WRITE (R214). A tail section holding 16 complete cells requests a Sump span, writes the cells and side record
and appends the span. -/
def execSpillSpanWrite (q : Nat) (s : State) : Host.Outcome State Fault Refusal :=
  s.body (decide (q < 1048576)) [13, 18] fun b => b.spillSpan q

/-- FAR_MIGRATE (R215). A long-haul queue over its Sump share copies 256 Sump spans into one far span. -/
def execFarMigrate (q port : Nat) (s : State) : Host.Outcome State Fault Refusal :=
  s.body (decide (q < 1048576) && decide (port < 2)) [13, 4] fun b => b.farMigrate q port

/-- FAR_COPY_COMPLETE (R215). The far copy completes; the far span replaces the 256 Sump spans, which are freed. -/
def execFarCopyComplete (q : Nat) (s : State) : Host.Outcome State Fault Refusal :=
  s.body (decide (q < 1048576)) [13, 4] fun b => b.farCopyComplete q

/-- REFILL_READ (R216). A spilling queue's head below ADM_REFILL_LO issues reads of the front of its spill section. -/
def execRefillRead (q : Nat) (s : State) : Host.Outcome State Fault Refusal :=
  s.body (decide (q < 1048576)) [13] fun b => b.refillRead q

/-- REFILL_COMPLETE (R216). A Sump span or far piece read completes into new REFILL head-section cells, with side-record
checks. -/
def execRefillComplete (q : Nat) (s : State) : Host.Outcome State Fault Refusal :=
  s.body (decide (q < 1048576)) [13] fun b => b.refillComplete q

/-- ORPHAN_SWEEP (R222). The orphan sweep returns allocated cells that no chain reaches to the free list within 10 ms. -/
def execOrphanSweep (s : State) : Host.Outcome State Fault Refusal :=
  s.body true [13] fun b => b.orphanSweep

/-- POOL_ENABLE (R228). A write of PG_EN = 1 on a pool page validates the configuration and enables the pool with every buffer
free. -/
def execPoolEnable (n m : Nat) (s : State) : Host.Outcome State Fault Refusal :=
  s.live (decide (n < 16) && Master.known m) [2] fun d => d.write m (Pg.pool n + 0x10) 1

/-- POOL_DISABLE (R228). A write of PG_EN = 0 disables a pool, or is ignored while any buffer is allocated. -/
def execPoolDisable (n m : Nat) (s : State) : Host.Outcome State Fault Refusal :=
  s.live (decide (n < 16) && Master.known m) [2] fun d => d.write m (Pg.pool n + 0x10) 0

/-- POOL_ALLOC (R225). POOL_ALLOC_GO makes a register-port request for owner bit 5 served under R224. -/
def execPoolAlloc (n m : Nat) (s : State) : Host.Outcome State Fault Refusal :=
  s.live (decide (n < 16) && Master.known m) [2] fun d => d.put m (Pg.pool n) R.POOL_ALLOC_GO 0 1

/-- POOL_FREE (R227). A write of POOL_FREE_IDX frees a buffer, or is ignored for a double free or a bad index. -/
def execPoolFree (n i m : Nat) (s : State) : Host.Outcome State Fault Refusal :=
  s.live (decide (n < 16) && decide (i < 2 ^ 28) && Master.known m) [2] fun d => d.put m (Pg.pool n) R.POOL_FREE_IDX 0 i

/-- BUFFER_LOOP_DECISION (R229). Every 1 ms the BUFFER loop raises or lowers ADM_SHARE of each spill-enabled profile within
its envelope. -/
def execBufferLoopDecision (s : State) : Host.Outcome State Fault Refusal :=
  s.body true [2] fun b => b.bufferLoop

/-- SCHEDULER_DECISION (R240). A slice walks from an eligible port down to a queue and hands its front packet to egress,
updating tags and credits. -/
def execSchedulerDecision (p : Nat) (s : State) : Host.Outcome State Fault Refusal :=
  s.body (decide (p < 529)) [13] fun b => b.schedulerDecision p

/-- REFILL_BOUNDARY (R248). At each refill boundary every shaper accrues credit up to its cap, and a new refill period takes
effect. -/
def execRefillBoundary (s : State) : Host.Outcome State Fault Refusal :=
  s.live true [13] fun d => (d.on fun b => b.refillEdge).fuseDue

/-- PACKET_TRANSMIT (R269). Egress reads and verifies a packet's cells, applies the rewrite descriptor, computes the FCS,
encrypts and sends it with an egress timestamp. -/
def execPacketTransmit (p : Nat) (s : State) : Host.Outcome State Fault Refusal :=
  s.body (decide (p < 512)) [5 + portGal p] fun b => b.packetTransmit p

/-- RECIRCULATE_EGRESS (R124). A packet leaving a recirculation port is rewritten into new cells and enters the recirculation
holding buffer. -/
def execRecirculateEgress (g : Nat) (s : State) : Host.Outcome State Fault Refusal :=
  s.body (decide (g < 8)) [5 + g] fun b => b.recirculateEgress g

/-- GROTTO_PORT_DELIVER (R373). A packet leaving a Grotto port is written with its punt record into a slot of the bound
channel and committed. -/
def execGrottoPortDeliver (g : Nat) (s : State) : Host.Outcome State Fault Refusal :=
  s.body (decide (g < 8)) [14] fun b => b.grottoPortDeliver g

/-- HOST_PUNT (R435). A packet leaving the host port is written into buffers of its chosen PUNT ring, held, or dropped. -/
def execHostPunt (s : State) : Host.Outcome State Fault Refusal :=
  s.body true [3] fun b => b.hostPunt

/-- CHM_INJECT (R230). CHM_INJ_GO arms a cell-check, link, Sump span or far piece error on a queue. -/
def execChmInject (m : Nat) (s : State) : Host.Outcome State Fault Refusal :=
  s.live (Master.known m) [2] fun d => d.put m (Pg.chm) R.CHM_INJ_GO 0 1

/-- SCH_INJECT (R260). SCH_INJ_GO makes a Scheduler state or configuration entry uncorrectable at its next read. -/
def execSchInject (m : Nat) (s : State) : Host.Outcome State Fault Refusal :=
  s.live (Master.known m) [2] fun d => d.put m (Pg.sch) R.SCH_INJ_GO 0 1

/-- RIMSTONE_SNAPSHOT (R274). Each millisecond Rimstone copies every ledger counter and in-flight count at one edge, or skips
if the last evaluation is unfinished. -/
def execRimstoneSnapshot (s : State) : Host.Outcome State Fault Refusal :=
  s.body true [13] fun b => b.rimSnapshot

/-- RIMSTONE_AUDIT (R275). Rimstone's evaluation of every ledger ends and each discrepancy is recorded and reported. -/
def execRimstoneAudit (s : State) : Host.Outcome State Fault Refusal :=
  s.body true [13] fun b => b.rimAudit

/-- RIM_INJECT (R284). RIM_INJ_GO adds an amount to a ledger's balance for the next audit only. -/
def execRimInject (m : Nat) (s : State) : Host.Outcome State Fault Refusal :=
  s.live (Master.known m) [2] fun d => d.put m (Pg.rim) R.RIM_INJ_GO 0 1

end Sys2Proof.Machine
end

