-- ==== Sys2Proof/Machine/PortCmds.lean ====
section
/-! DEFINITION. The commands of ports, lanes and the entrance (chapter 03). Each meaning is one operation on the engine. -/

namespace Sys2Proof.Machine

/-- PORT_ENABLE (R73). A write setting PORT_EN is validated and enables the port into WAIT_SIGNAL, or sets PORT_EVT_BADCFG. -/
def execPortEnable (p m : Nat) (s : State) : Host.Outcome State Fault Refusal :=
  s.live (decide (p < 512) && Master.known m) [2] fun d => d.put m (Pg.lane p) R.PORT_EN 0 1

/-- PORT_DISABLE (R73). Clearing PORT_EN finishes the frame in transmission, aborts the frame in reception and moves the port
to DISABLED. -/
def execPortDisable (p m : Nat) (s : State) : Host.Outcome State Fault Refusal :=
  s.live (decide (p < 512) && Master.known m) [2] fun d => d.put m (Pg.lane p) R.PORT_EN 0 0

/-- SIGNAL_DETECTED (R74). Signal on every lane of the port moves it from WAIT_SIGNAL to TRAINING or ALIGNING. -/
def execSignalDetected (p : Nat) (kr : Bool) (s : State) : Host.Outcome State Fault Refusal :=
  s.body (decide (p < 512)) [] fun b => if b.sup.testPins then b else b.signalDetected p kr

/-- TRAINING_COMPLETE (R74). Training completes on every lane and the port moves to ALIGNING with LANE_TRAINED set. -/
def execTrainingComplete (p : Nat) (s : State) : Host.Outcome State Fault Refusal :=
  s.body (decide (p < 512)) [] fun b => b.trainingComplete p

/-- TRAINING_TIMEOUT (R74). 500 ms of training without completion returns the port to WAIT_SIGNAL and sets PORT_EVT_TRAIN_TO.
-/
def execTrainingTimeout (p : Nat) (s : State) : Host.Outcome State Fault Refusal :=
  s.body (decide (p < 512)) [] fun b => b.trainingTimeout p

/-- LINK_UP (R74). Lane alignment, FEC lock and no local fault move the port to UP and set PORT_EVT_LINK. -/
def execLinkUp (p : Nat) (s : State) : Host.Outcome State Fault Refusal :=
  s.body (decide (p < 512)) [] fun b => if b.sup.testPins then b else b.linkUp p

/-- LINK_LOSS (R74). Loss of signal, alignment or FEC lock on any lane moves an UP port to WAIT_SIGNAL and aborts the frame in
reception. -/
def execLinkLoss (p l : Nat) (sig : Bool) (s : State) : Host.Outcome State Fault Refusal :=
  s.body (decide (p < 512) && decide (l < 512)) [] fun b => b.linkLoss p l sig

/-- REMOTE_FAULT_CHANGE (R74). A remote fault received or cleared makes the MAC send idles only and the Scheduler stop or
resume selecting the port. -/
def execRemoteFaultChange (p : Nat) (on : Bool) (s : State) : Host.Outcome State Fault Refusal :=
  s.body (decide (p < 512)) [] fun b => b.remoteFault p on

/-- FEC_WINDOW_END (R76). At the end of each 1 ms window PORT_HI_SER is set or cleared against PORT_FEC_DEG_THR. -/
def execFecWindowEnd (p : Nat) (hist : List Nat) (unc : Nat) (s : State) : Host.Outcome State Fault Refusal :=
  s.body (decide (p < 512) && hist.length == 16) [] fun b => b.fecWindow p hist unc

/-- LANE_POWER_REQUEST (R97). A write of PG_PWR_REQ on a lane page powers the lane down or up, ignored for a lane of an
enabled port. -/
def execLanePowerRequest (l req m : Nat) (s : State) : Host.Outcome State Fault Refusal :=
  s.live (decide (l < 512) && decide (req < 16) && Master.known m) [2] fun d => d.write m (Pg.lane l + 0x18) req

/-- FRAME_START (R93). The first bit after the start delimiter crosses the receive balls; the ingress timestamp is taken and
the traffic detector counts it. -/
def execFrameStart (p : Nat) (wire : List Byte) (s : State) : Host.Outcome State Fault Refusal :=
  s.body (decide (p < 512)) [] fun b => b.frameStart p wire

/-- ENTRANCE_ADMIT (R81). With 64 bytes arrived the pre-classifier assigns an ingress priority and the frame is admitted or
dropped whole. -/
def execEntranceAdmit (p : Nat) (s : State) : Host.Outcome State Fault Refusal :=
  s.body (decide (p < 512)) [] fun b => b.entranceAdmit p

/-- FRAME_RECEIVE (R77). A frame ends at the MAC; runts, oversize frames and MAC Control frames are handled and the FCS
verdict is declared. -/
def execFrameReceive (p : Nat) (s : State) : Host.Outcome State Fault Refusal :=
  s.body (decide (p < 512)) [] fun b => b.frameReceive p

/-- PFC_RECEIVE (R85). A received PFC frame reloads or ends the pause timers of the priorities it names. -/
def execPfcReceive (p vec : Nat) (quanta : List Nat) (s : State) : Host.Outcome State Fault Refusal :=
  s.body (decide (p < 512) && decide (vec < 256) && (quanta.length == 8 && quanta.all fun x => decide (x < 65536))) [] fun b => b.pfcReceive p vec quanta

/-- PAUSE_RECEIVE (R87). A received PAUSE frame pauses every queue class of the port when PAUSE is honoured, and is otherwise
counted and ignored. -/
def execPauseReceive (p quanta : Nat) (s : State) : Host.Outcome State Fault Refusal :=
  s.body (decide (p < 512) && decide (quanta < 65536)) [] fun b => b.pauseReceive p quanta

/-- PFC_PAUSE_EXPIRE (R85). A priority's pause timer runs out and the Scheduler may start its packets again. -/
def execPfcPauseExpire (p t : Nat) (s : State) : Host.Outcome State Fault Refusal :=
  s.body (decide (p < 512) && decide (t < 9)) [] fun b => b.pauseExpire p t

/-- PFC_WATCHDOG (R85). A priority paused for longer than PORT_PFC_WD fires PORT_EVT_PFC_WD. -/
def execPfcWatchdog (p i : Nat) (s : State) : Host.Outcome State Fault Refusal :=
  s.body (decide (p < 512) && decide (i < 8)) [] fun b => b.pfcWatchdog p i

/-- PFC_RESEND (R86). While a priority stays in XOFF the engine resends the PFC frame each time half the quanta time passes.
-/
def execPfcResend (p : Nat) (s : State) : Host.Outcome State Fault Refusal :=
  s.body (decide (p < 512)) [] fun b => b.pfcResend p

/-- ENT_OVERLOAD_CLEAR (R83). ENT_OVERLOAD falls after ENT_OVL_HOLD µs with no entrance drop. -/
def execEntOverloadClear (g : Nat) (s : State) : Host.Outcome State Fault Refusal :=
  s.body (decide (g < 8)) [] fun b => b.overloadClear g

end Sys2Proof.Machine
end

