-- ==== Sys2Proof/Machine/PowerCmds.lean ====
section
/-! DEFINITION. The commands of clocks, power and time (chapter 10). Each meaning is one operation on the engine. -/

namespace Sys2Proof.Machine

/-- PLL_LOSS_OF_LOCK (R287). A PLL loses lock; a Gallery PLL causes a Gallery reset and relock, any other stops its domain. -/
def execPllLossOfLock (x : Nat) (s : State) : Host.Outcome State Fault Refusal :=
  s.body (decide (x < 18)) [] fun b => b.pllLoss x

/-- CLK_INJECT (R317). CLK_INJ_GO signals loss of lock on a chosen domain. -/
def execClkInject (m : Nat) (s : State) : Host.Outcome State Fault Refusal :=
  s.live (Master.known m) [2] fun d => d.put m (Pg.clocks) R.CLK_INJ_GO 0 1

/-- GLOWWORM_TRIP (R289). A comparator trips after GLW_DEBOUNCE + 1 samples beyond its threshold and takes its action. -/
def execGlowwormTrip (n : Nat) (s : State) : Host.Outcome State Fault Refusal :=
  s.lampBody (decide (n < 64)) fun b => if b.sup.mode = .off then b else b.glwTrip n

/-- GLOWWORM_REARM (R289). A tripped comparator re-arms after a sample on the other side of its hysteresis point. -/
def execGlowwormRearm (n : Nat) (s : State) : Host.Outcome State Fault Refusal :=
  s.lampBody (decide (n < 64)) fun b => if b.sup.mode = .off then b else b.glwRearm n

/-- GALLERY_POWER_REQUEST (R292). A write of PG_PWR_REQ on a Gallery power page sets its active step and resting state. -/
def execGalleryPowerRequest (g m req : Nat) (s : State) : Host.Outcome State Fault Refusal :=
  s.live (decide (g < 8) && Master.known m && decide (req < 16)) [2] fun d => d.write m (Pg.galPower g + 0x18) req

/-- GALLERY_REST_ENTRY (R293). A Gallery idle for GAL_IDLE_NS enters its permitted resting state, or a shallower one with
GAL_REST_BLOCK set. -/
def execGalleryRestEntry (g : Nat) (s : State) : Host.Outcome State Fault Refusal :=
  s.body (decide (g < 8)) [] fun b => b.restEntry g

/-- GALLERY_WAKE (R293). A wake source starts the wake of a resting Gallery, or turns round an entry in progress. -/
def execGalleryWake (g cause : Nat) (s : State) : Host.Outcome State Fault Refusal :=
  s.body (decide (g < 8) && decide (1 ≤ cause ∧ cause ≤ 4)) [] fun b => b.galleryWake g cause

/-- GALLERY_POWER_GOOD (R295). VDD_GALg reports power-good and the core clock switches to its step. -/
def execGalleryPowerGood (g : Nat) (s : State) : Host.Outcome State Fault Refusal :=
  s.body (decide (g < 8)) [] fun b => b.powerGood g

/-- GALLERY_WAKE_DONE (R295). The woken Gallery dispatches its first head. -/
def execGalleryWakeDone (g : Nat) (s : State) : Host.Outcome State Fault Refusal :=
  s.body (decide (g < 8)) [] fun b => b.wakeDone g

/-- POWER_GOOD_TIMEOUT (R296). Power-good not reported 10 µs after a request sets GAL_FLT_PGOOD. -/
def execPowerGoodTimeout (g : Nat) (s : State) : Host.Outcome State Fault Refusal :=
  s.body (decide (g < 8)) [] fun b => b.powerGoodTimeout g

/-- POWER_LOOP_DECISION (R298). Every 100 µs the POWER loop sets each Gallery's step and resting state from its load. -/
def execPowerLoopDecision (g _load _peak : Nat) (s : State) : Host.Outcome State Fault Refusal :=
  s.body (decide (g < 8)) [2] fun b => b.powerLoop g

/-- SUMP_RATE_DECISION (R339). The POWER loop chooses a stack's pin rate from its demand and headroom. -/
def execSumpRateDecision (k _demand _peak : Nat) (s : State) : Host.Outcome State Fault Refusal :=
  s.body (decide (k < 4)) [2] fun b => b.sumpRate k

/-- THERMAL_LOOP_DECISION (R315). Every 1 ms the THERMAL loop raises or lowers TH_CAP by temperature and power estimate. -/
def execThermalLoopDecision (s : State) : Host.Outcome State Fault Refusal :=
  s.body true [2] fun b => b.thermalLoop

/-- TOD_PHASE_ADJ (R302). A write of TOD_PHASE_ADJ replaces any slew in progress with a new slew at TOD_SLEW ppm. -/
def execTodPhaseAdj (m v : Nat) (s : State) : Host.Outcome State Fault Refusal :=
  s.live (Master.known m && decide (v < 2 ^ 32)) [2] fun d => d.write m (R.TOD_PHASE_ADJ.addr Pg.lamp 0 0) v

/-- TOD_SLEW_END (R302). The slew amount is used up and the slew ends. -/
def execTodSlewEnd (s : State) : Host.Outcome State Fault Refusal :=
  s.body true [17] fun b => b.todSlewEnd

/-- TOD_STEP (R302). TOD_STEP sets the time of day at the next D17 edge, cancels the slew and sets TOD_EVT_STEP. -/
def execTodStep (m : Nat) (s : State) : Host.Outcome State Fault Refusal :=
  s.live (Master.known m) [2] fun d => d.put m (Pg.lamp) R.TOD_STEP 0 1

/-- TOD_READ_LATCH (R303). A read of TOD_RD_FRAC latches the whole time of day for that master. -/
def execTodReadLatch (m : Nat) (s : State) : Host.Outcome State Fault Refusal :=
  s.live (Master.known m) [2] fun d => d.read m (R.TOD_RD_FRAC.addr Pg.lamp 0 0)

/-- TOD_VALID_SET (R307). TOD_VALID_SET sets TOD_VALID unless a loss condition holds. -/
def execTodValidSet (m : Nat) (s : State) : Host.Outcome State Fault Refusal :=
  s.live (Master.known m) [2] fun d => d.put m (Pg.lamp) R.TOD_VALID_SET 0 1

/-- TOD_VALID_CLR (R307). TOD_VALID_CLR clears TOD_VALID and sets TOD_EVT_INVALID. -/
def execTodValidClr (m : Nat) (s : State) : Host.Outcome State Fault Refusal :=
  s.live (Master.known m) [2] fun d => d.put m (Pg.lamp) R.TOD_VALID_CLR 0 1

/-- PPS_IN_EDGE (R305). A rising 1PPS input edge captures the time into TOD_PPS_CAP and sets TOD_EVT_PPS. -/
def execPpsInEdge (s : State) : Host.Outcome State Fault Refusal :=
  s.body true [17] fun b => b.ppsIn

/-- PPS_LOSS (R305). No 1PPS edge for 1.1 s sets TOD_EVT_PPS_LOSS. -/
def execPpsLoss (s : State) : Host.Outcome State Fault Refusal :=
  s.body true [17] fun b => b.ppsLoss

/-- PPS_OUT_EDGE (R306). The 1PPS output rises at each whole second plus TOD_PPS_OUT_ADJ. -/
def execPpsOutEdge (s : State) : Host.Outcome State Fault Refusal :=
  s.body true [17] fun b => b.ppsOutEdge

/-- SYSREF_LOSS (R307). Loss of the system reference clears TOD_VALID and sets TOD_EVT_REF_LOSS. -/
def execSysrefLoss (s : State) : Host.Outcome State Fault Refusal :=
  s.lampBody true fun b => if b.sup.mode = .off then b else b.sysrefLoss

/-- SENSOR_SAMPLE (R289). Every 10 µs the temperature sensors and supply monitors are sampled, updating TEMP, VMON, TH_JMAX,
TH_EVT_HOT, the HBM refresh factor and HBM_EVT_HOT or HBM_FLT_OVERTEMP. -/
def execSensorSample (temps volts : List (Option Nat)) (est : Option Nat) (s : State) : Host.Outcome State Fault Refusal :=
  s.lampBody (temps.length == 24 && temps.all sampleOk && volts.length == 16 && volts.all sampleOk && (est.all fun x => decide (x < 2048))) fun b => if b.sup.mode = .off then b else b.sensorSample temps volts est

/-- SYSREF_RETURN (R307). The system reference input returns, ending the loss condition so that TOD_VALID_SET is accepted
again. -/
def execSysrefReturn (s : State) : Host.Outcome State Fault Refusal :=
  s.always true fun d => if d.body.sup.mode = .off then d else d.sysrefReturn

end Sys2Proof.Machine
end

