-- ==== Sys2Proof/Machine/RegCmds.lean ====
section
/-! DEFINITION. The commands on registers, windows and apertures (chapter 02). Each meaning is one operation on the engine. -/

namespace Sys2Proof.Machine

/-- REGISTER_WRITE (R7). A BAR0 write to a register field with no row of its own takes effect, is staged or is dropped
according to the field's access type. -/
def execRegisterWrite (m addr v : Nat) (full : Bool) (s : State) : Host.Outcome State Fault Refusal :=
  s.live (Master.known m && addrOk addr && decide (v < 2 ^ 32)) [2] fun d => if full then d.write m addr v else d.busPartial m addr

/-- CLEAR_ON_READ (R9). A read of a register with an RC field returns the value and clears the field, whichever master reads
it. -/
def execClearOnRead (m addr : Nat) (s : State) : Host.Outcome State Fault Refusal :=
  s.live (Master.known m && addrOk addr) [2] fun d => d.read m addr

/-- SOFT_RESET (R44). A write of 1 to PG_SRST returns the page's block registers to reset values and sets PG_RESET_BUSY. -/
def execSoftReset (page m : Nat) (s : State) : Host.Outcome State Fault Refusal :=
  s.live (pageOk page && Master.known m) [2] fun d => d.write m (page + 0x10) (2 + d.body.rd page R.PG_EN)

/-- SOFT_RESET_DONE (R44). PG_RESET_BUSY clears within 10 µs of the soft reset and the page's block registers accept writes
again. -/
def execSoftResetDone (page : Nat) (s : State) : Host.Outcome State Fault Refusal :=
  s.body (pageOk page) [2] fun b => b.softResetDone page

/-- PAGE_LOCK (R46). A write of 1 to PG_LOCK_SET locks the page's RWL fields until engine reset. -/
def execPageLock (page m : Nat) (s : State) : Host.Outcome State Fault Refusal :=
  s.live (pageOk page && Master.known m) [2] fun d => d.write m (page + 0x64) 1

/-- EVENT_INJECT (R42). A write to EVT_INJ fires each selected event of the page exactly as its source would. -/
def execEventInject (page m v : Nat) (s : State) : Host.Outcome State Fault Refusal :=
  s.live (pageOk page && Master.known m && decide (v < 2 ^ 32)) [2] fun d => d.write m (page + 0x2C) v

/-- FAULT_INJECT (R42). A write to FLT_INJ makes each selected fault detector of the page fire with its full effect. -/
def execFaultInject (page m v : Nat) (s : State) : Host.Outcome State Fault Refusal :=
  s.live (pageOk page && Master.known m && decide (v < 2 ^ 32)) [2] fun d => d.write m (page + 0x48) v

/-- WINDOW_WORD_WRITE (R50). A 32-bit write to a table-access window or bulk aperture begins or continues assembly of an
entry, or is dropped for a collision. -/
def execWindowWordWrite (m addr v : Nat) (s : State) : Host.Outcome State Fault Refusal :=
  s.live (Master.known m && winOk addr && decide (v < 2 ^ 32)) [2] fun d => d.write m addr v

/-- ASSEMBLY_TIMEOUT (R52). An assembly whose owner has made no write for 100 µs ends and its partial entry is discarded. -/
def execAssemblyTimeout (win m : Nat) (s : State) : Host.Outcome State Fault Refusal :=
  s.body (winOk win && Master.known m) [2] fun b => b.assemblyTimeout (Body.winOf win) m

/-- WINDOW_SNAPSHOT_READ (R51). A read of an entry's first-read word through a window or aperture takes a snapshot of the
whole entry. -/
def execWindowSnapshotRead (m addr : Nat) (s : State) : Host.Outcome State Fault Refusal :=
  s.live (Master.known m && winOk addr) [2] fun d => d.read m addr

/-- APERTURE_CTRL_WRITE (R49). A write to TBL_APn_CTRL selects table and base and discards any partial entry, counting
TBL_AP_DROPS. -/
def execApertureCtrlWrite (a m v : Nat) (s : State) : Host.Outcome State Fault Refusal :=
  s.live (decide (a < 12) && Master.known m && decide (v < 2 ^ 32)) [2] fun d => d.write m (R.TBL_AP_TABLE.addr Pg.aperture a 0) v

end Sys2Proof.Machine
end

