-- ==== Sys2Proof/Machine/ResetCmds.lean ====
section
/-! DEFINITION. The commands of resets, boot and image loads (chapters 13 and 17). Each meaning is one operation on the engine. -/

namespace Sys2Proof.Machine

/-- ENGINE_RESET_ASSERT (R501). RESET_N falling stops every domain except D0 and puts outputs in their reset states. -/
def execEngineResetAssert (s : State) : Host.Outcome State Fault Refusal :=
  s.always true fun d => d.resetAssert

/-- ENGINE_RESET_RELEASE (R497). Release of RESET_N samples the straps, returns every page to reset values and starts Asuth.
-/
def execEngineResetRelease (flashRel slow test : Bool) (s : State) : Host.Outcome State Fault Refusal :=
  s.always true fun d => d.resetRelease { flashRel := flashRel, slow := slow, test := test }

/-- LAMP_POWER_ON (R497). The Lamp's power-on reset releases 1 ms after VDD_LAMP and LAMP_CLK are present and clears
everything. -/
def execLampPowerOn (sa : Nat) (ready flashRel slow test : Bool) (s : State) : Host.Outcome State Fault Refusal :=
  s.always (decide (sa < 4)) fun d => d.lampPowerOn sa ready { flashRel := flashRel, slow := slow, test := test }

/-- BROWNOUT_START (R499). A rail below 90 % of nominal for 2 µs starts the brown-out hold with FAULT_N asserted. -/
def execBrownoutStart (s : State) : Host.Outcome State Fault Refusal :=
  s.always true fun d => d.brownoutStart

/-- BROWNOUT_END (R499). The brown-out hold ends 1 ms after every rail is back in tolerance and the engine boots. -/
def execBrownoutEnd (s : State) : Host.Outcome State Fault Refusal :=
  s.always true fun d => d.brownoutEnd

/-- THERMAL_RESET_HOLD_END (R501). A reset held at high temperature is released once the junction falls below 102 °C. -/
def execThermalResetHoldEnd (s : State) : Host.Outcome State Fault Refusal :=
  s.always true fun d => d.hotEnd

/-- BOOT_LD_GO (R405). BOOT_LD_GO starts the checks of an image written into the load buffer. -/
def execBootLdGo (m : Nat) (s : State) : Host.Outcome State Fault Refusal :=
  s.live (Master.known m) [1, 2] fun d => d.put m (Pg.boot) R.BOOT_LD_GO 0 1

/-- BOOT_LD_DONE (R405). The load checks complete, the image is written or staged, BOOT_LD_RC is set and BOOT_EVT_LD_DONE
fires. -/
def execBootLdDone (s : State) : Host.Outcome State Fault Refusal :=
  s.live true [1] fun d => d.loadDone

/-- BOOT_LD_RESUME (R404). BOOT_LD_RESUME continues a boot paused in WAIT_HOST from the paused step. -/
def execBootLdResume (m : Nat) (s : State) : Host.Outcome State Fault Refusal :=
  s.live (Master.known m) [1, 2] fun d => d.put m (Pg.boot) R.BOOT_LD_RESUME 0 1

/-- KEY_PROVISION (R397). BOOT_PROV_GO from JTAG fuses a key slot's hash from the load buffer. -/
def execKeyProvision (slot m : Nat) (s : State) : Host.Outcome State Fault Refusal :=
  s.live (decide (slot < 4) && Master.known m) [1, 2] fun d => d.write m (R.BOOT_PROV_GO.addr Pg.boot 0 0) (2 ^ 31 + slot)

/-- KEY_REVOKE (R397). BOOT_PROV_GO with BOOT_PROV_REVOKE permanently revokes a key slot. -/
def execKeyRevoke (slot m : Nat) (s : State) : Host.Outcome State Fault Refusal :=
  s.live (decide (slot < 4) && Master.known m) [1, 2] fun d => d.write m (R.BOOT_PROV_GO.addr Pg.boot 0 0) (2 ^ 31 + 2 ^ 30 + slot)

/-- FLASH_RELEASE (R392). A write of BOOT_FLASH_REL puts the xSPI pins in or out of high impedance. -/
def execFlashRelease (on : Bool) (m : Nat) (s : State) : Host.Outcome State Fault Refusal :=
  s.live (Master.known m) [2] fun d => d.put m (Pg.boot) R.BOOT_FLASH_REL 0 (b2n on)

/-- BOOT_INJECT (R415). BOOT_INJ_GO arms a signature or tag failure for the next load. -/
def execBootInject (m : Nat) (s : State) : Host.Outcome State Fault Refusal :=
  s.live (Master.known m) [2] fun d => d.put m (Pg.boot) R.BOOT_INJ_GO 0 1

/-- LAMP_POWER_LOSS (R497). VDD_LAMP falling below 0.69 V asserts the Lamp's power-on reset, clearing TH_TRIP_LAST and the
time of day. -/
def execLampPowerLoss (s : State) : Host.Outcome State Fault Refusal :=
  s.always true fun d => d.lampPowerLoss

end Sys2Proof.Machine
end

