-- ==== Sys2Proof/Machine/TableCmds.lean ====
section
/-! DEFINITION. The commands of the lookup tables and of statistics (chapters 05 and 06). Each meaning is one operation on the engine. -/

namespace Sys2Proof.Machine

/-- LPM_DRAIN (R144). A write of 1 to LPM_DRAIN sets it to wait for every walk begun before the write. -/
def execLpmDrain (m : Nat) (s : State) : Host.Outcome State Fault Refusal :=
  s.live (Master.known m) [2] fun d => d.put m (Pg.lpm) R.LPM_DRAIN 0 1

/-- LPM_DRAIN_DONE (R144). The engine clears LPM_DRAIN once every earlier walk has ended. -/
def execLpmDrainDone (s : State) : Host.Outcome State Fault Refusal :=
  s.body true [15] fun b => b.lpmDrainDone

/-- DS_COMPARE_AND_CLEAR (R150). DS_CAC_GO clears a Dripstone entry only if valid with the given generation and reports
DS_CAC_RC. -/
def execDsCompareAndClear (m : Nat) (s : State) : Host.Outcome State Fault Refusal :=
  s.live (Master.known m) [2] fun d => d.put m (Pg.ds) R.DS_CAC_GO 0 1

/-- EXM_INSERT (R156). INSERT places a key in a free candidate slot, relocates along a path, or uses the stash, returning OK,
DUPLICATE, FULL or RETRY. -/
def execExmInsert (c m ty : Nat) (s : State) : Host.Outcome State Fault Refusal :=
  s.live (decide (c < 4) && Master.known m && decide (ty < 16)) [2] fun d => d.write m (R.EXM_OP.addr (Pg.exmCtx c) 0 0) (16 * ty + 1)

/-- EXM_DELETE (R156). DELETE clears an exact-match entry or returns NOT_FOUND. -/
def execExmDelete (c m ty : Nat) (s : State) : Host.Outcome State Fault Refusal :=
  s.live (decide (c < 4) && Master.known m && decide (ty < 16)) [2] fun d => d.write m (R.EXM_OP.addr (Pg.exmCtx c) 0 0) (16 * ty + 2)

/-- EXM_UPDATE (R156). UPDATE rewrites EXM_RESULT in place or returns NOT_FOUND. -/
def execExmUpdate (c m ty : Nat) (s : State) : Host.Outcome State Fault Refusal :=
  s.live (decide (c < 4) && Master.known m && decide (ty < 16)) [2] fun d => d.write m (R.EXM_OP.addr (Pg.exmCtx c) 0 0) (16 * ty + 3)

/-- EXM_LOOKUP (R156). LOOKUP returns the result and location of a key. -/
def execExmLookup (c m ty : Nat) (s : State) : Host.Outcome State Fault Refusal :=
  s.live (decide (c < 4) && Master.known m && decide (ty < 16)) [2] fun d => d.write m (R.EXM_OP.addr (Pg.exmCtx c) 0 0) (16 * ty + 4)

/-- EXM_HASH (R156). HASH returns the two candidate buckets of a key without table access. -/
def execExmHash (c m ty : Nat) (s : State) : Host.Outcome State Fault Refusal :=
  s.live (decide (c < 4) && Master.known m && decide (ty < 16)) [2] fun d => d.write m (R.EXM_OP.addr (Pg.exmCtx c) 0 0) (16 * ty + 5)

/-- MIGRATE (R150). The MIGRATE loop inserts a Dripstone route into the trie and then compare-and-clears the entry. -/
def execMigrate (i : Nat) (s : State) : Host.Outcome State Fault Refusal :=
  s.body (decide (i < 65536)) [15] fun b => b.migrate i

/-- WITHDRAW (R150). The MIGRATE loop removes a withdrawn prefix from the trie, waits for drain and clears the withdraw entry.
-/
def execWithdraw (i : Nat) (s : State) : Host.Outcome State Fault Refusal :=
  s.body (decide (i < 65536)) [15] fun b => b.withdraw i

/-- STASH_REINSERT (R158). The MIGRATE loop re-inserts a stash entry into the table and clears it once the copy is valid. -/
def execStashReinsert (i : Nat) (s : State) : Host.Outcome State Fault Refusal :=
  s.body (decide (i < 1024)) [15] fun b => b.stashReinsert i

/-- TRIE_COMPACT (R167). The MIGRATE loop compacts trie lines by copy-on-write. -/
def execTrieCompact (i : Nat) (s : State) : Host.Outcome State Fault Refusal :=
  s.body (decide (i < 131072)) [15] fun b => b.trieCompact i

/-- ROOT_BUILD (R143). The MIGRATE loop builds the root node of a newly valid VRF and writes word 0 of its root entry. -/
def execRootBuild (i : Nat) (s : State) : Host.Outcome State Fault Refusal :=
  s.body (decide (i < 131072)) [15] fun b => b.rootBuild i

/-- CLS_SCRUB (R123). The scrubber compares one classifier CAM entry with its copy every CLS_SCRUB_INT ns and repairs a
mismatch. -/
def execClsScrub (i : Nat) (s : State) : Host.Outcome State Fault Refusal :=
  s.body (decide (i < 262144)) [15] fun b => b.clsScrub i

/-- DS_SCRUB (R148). The scrubber compares one Dripstone entry with its copy every DS_SCRUB_INT ns and repairs a mismatch. -/
def execDsScrub (i : Nat) (s : State) : Host.Outcome State Fault Refusal :=
  s.body (decide (i < 65536)) [15] fun b => b.dsScrub i

/-- DIGEST_CHECK (R163). The digest comparator completes a region's pass and compares its digest, skipping written regions. -/
def execDigestCheck (s : State) : Host.Outcome State Fault Refusal :=
  s.body true [15] fun b => b.digestCheck

/-- CLS_INJECT (R131). CLS_INJ_GO flips a CAM key bit or corrupts a copy's parity. -/
def execClsInject (m : Nat) (s : State) : Host.Outcome State Fault Refusal :=
  s.live (Master.known m) [2] fun d => d.put m (Pg.cls) R.CLS_INJ_GO 0 1

/-- DS_INJECT (R167). DS_INJ_GO flips a Dripstone key bit or corrupts a copy's parity. -/
def execDsInject (m : Nat) (s : State) : Host.Outcome State Fault Refusal :=
  s.live (Master.known m) [2] fun d => d.put m (Pg.ds) R.DS_INJ_GO 0 1

/-- VLT_PAR_INJECT (R162). VLT_INJ_GO makes the stored parity of one chosen entry wrong. -/
def execVltParInject (m : Nat) (s : State) : Host.Outcome State Fault Refusal :=
  s.live (Master.known m) [2] fun d => d.put m (Pg.vault) R.VLT_INJ_GO 0 1

/-- STC_FLUSH (R184). A write of 1 to STC_FLUSH starts adding every present delta into the Sump. -/
def execStcFlush (m : Nat) (s : State) : Host.Outcome State Fault Refusal :=
  s.live (Master.known m) [2] fun d => d.put m (Pg.stc) R.STC_FLUSH 0 1

/-- STC_FLUSH_DONE (R184). Every delta present at the flush write has reached the Sump; STC_FLUSH clears and STC_EVT_FLUSHED
is set. -/
def execStcFlushDone (s : State) : Host.Outcome State Fault Refusal :=
  s.body true [15] fun b => b.stcFlushDone

/-- STAT_WRITEBACK (R183). A delta line is added into the Sump on eviction, half range, flush or STC_WB_MAX expiry. -/
def execStatWriteback (k : Nat) (s : State) : Host.Outcome State Fault Refusal :=
  s.body (decide (k < 1073741824)) [15] fun b => b.statWriteback k

/-- STC_INJECT (R203). STC_INJ_GO makes a delta line or policer state uncorrectable at its next read. -/
def execStcInject (m : Nat) (s : State) : Host.Outcome State Fault Refusal :=
  s.live (Master.known m) [2] fun d => d.put m (Pg.stc) R.STC_INJ_GO 0 1

end Sys2Proof.Machine
end

