-- ==== Sys2Proof/Machine/TcbCmds.lean ====
section
/-! DEFINITION. The accesses of a thread to its control block (R368 to R376). Each meaning is one operation on the engine. -/

namespace Sys2Proof.Machine

/-- TCB_WAIT (R368). A load of TCB_WAIT waits until pending events meet the mask and returns them, clearing latched ones. -/
def execTcbWait (th : Nat) (s : State) : Host.Outcome State Fault Refusal :=
  s.live (decide (th < 256)) [14] fun d => d.opTcbLoad th 8 fun off => off == 0x000

/-- TCB_POLL (R368). A load of TCB_POLL returns the pending event bits. -/
def execTcbPoll (th : Nat) (s : State) : Host.Outcome State Fault Refusal :=
  s.live (decide (th < 256)) [14] fun d => d.opTcbLoad th 8 fun off => off == 0x008

/-- TCB_WAIT_MASK (R368). A load or store of TCB_WAIT_MASK reads or sets the wait mask. -/
def execTcbWaitMask (th : Nat) (s : State) : Host.Outcome State Fault Refusal :=
  s.live (decide (th < 256)) [14] fun d => d.opTcbBoth th 8 fun off => off == 0x010

/-- TCB_SEND (R368). A store to TCB_SEND sets an event bit of a thread of the same core. -/
def execTcbSend (th : Nat) (s : State) : Host.Outcome State Fault Refusal :=
  s.live (decide (th < 256)) [14] fun d => d.opTcbStore th 4 fun off => off == 0x018

/-- TCB_TIMER (R368). A store to TCB_TIMER arms or cancels the thread's timer; a load returns the time remaining. -/
def execTcbTimer (th : Nat) (s : State) : Host.Outcome State Fault Refusal :=
  s.live (decide (th < 256)) [14] fun d => d.opTcbBoth th 4 fun off => off == 0x020

/-- TCB_BIND (R368). A store to TCB_BIND binds an event bit to a channel's NOT_EMPTY or NOT_FULL condition. -/
def execTcbBind (th : Nat) (s : State) : Host.Outcome State Fault Refusal :=
  s.live (decide (th < 256)) [14] fun d => d.opTcbStore th 4 fun off => decide (0x040 ≤ off ∧ off < 0x080)

/-- TCB_COMMIT (R370). A store to TCB_COMMIT appends a reserved slot to the channel's ready list with its length. -/
def execTcbCommit (th : Nat) (s : State) : Host.Outcome State Fault Refusal :=
  s.live (decide (th < 256)) [14] fun d => d.opTcbStore th 4 fun off => decide (0x100 ≤ off ∧ off < 0x120)

/-- TCB_RELEASE (R371). A store to TCB_RELEASE cancels a reservation, returns an acquired slot or frees an abandoned window.
-/
def execTcbRelease (th : Nat) (s : State) : Host.Outcome State Fault Refusal :=
  s.live (decide (th < 256)) [14] fun d => d.opTcbStore th 4 fun off => decide (0x140 ≤ off ∧ off < 0x160)

/-- TCB_WSTAT (R368). A load of TCB_WSTAT returns a window's state, channel and length. -/
def execTcbWstat (th : Nat) (s : State) : Host.Outcome State Fault Refusal :=
  s.live (decide (th < 256)) [14] fun d => d.opTcbLoad th 4 fun off => decide (0x180 ≤ off ∧ off < 0x1A0)

/-- TCB_POOL_SIZE (R376). A store to TCB_POOL_SIZE sets the size of the next pool request. -/
def execTcbPoolSize (th : Nat) (s : State) : Host.Outcome State Fault Refusal :=
  s.live (decide (th < 256)) [14] fun d => d.opTcbStore th 4 fun off => off == 0x200

/-- TCB_POOL_ALLOC (R376). A load of TCB_POOL_ALLOC requests a buffer for owner bit 0 and returns its pool and index. -/
def execTcbPoolAlloc (th : Nat) (s : State) : Host.Outcome State Fault Refusal :=
  s.live (decide (th < 256)) [14] fun d => d.opTcbLoad th 8 fun off => decide (0x208 ≤ off ∧ off < 0x228)

/-- TCB_POOL_FREE (R376). A store to TCB_POOL_FREE frees a pool buffer. -/
def execTcbPoolFree (th : Nat) (s : State) : Host.Outcome State Fault Refusal :=
  s.live (decide (th < 256)) [14] fun d => d.opTcbStore th 8 fun off => off == 0x240

/-- TCB_POOL_BP (R368). A load of TCB_POOL_BP returns every pool's back-pressure level. -/
def execTcbPoolBp (th : Nat) (s : State) : Host.Outcome State Fault Refusal :=
  s.live (decide (th < 256)) [14] fun d => d.opTcbLoad th 4 fun off => off == 0x248

/-- TCB_ID (R368). A load of TCB_ID returns the thread's master ID. -/
def execTcbId (th : Nat) (s : State) : Host.Outcome State Fault Refusal :=
  s.live (decide (th < 256)) [14] fun d => d.opTcbLoad th 4 fun off => off == 0x250

/-- TCB_RESERVE (R371). A load of TCB_RESERVE maps the head free slot of a channel to a window, or returns an error at once.
-/
def execTcbReserve (th : Nat) (s : State) : Host.Outcome State Fault Refusal :=
  s.live (decide (th < 256)) [14] fun d => d.opTcbLoad th 4 fun off => decide (0x1000 ≤ off ∧ off < 0x2000)

/-- TCB_RESERVE_WAIT (R371). A load of TCB_RESERVE_WAIT reserves a slot, waiting while the channel is full. -/
def execTcbReserveWait (th : Nat) (s : State) : Host.Outcome State Fault Refusal :=
  s.live (decide (th < 256)) [14] fun d => d.opTcbLoad th 4 fun off => decide (0x2000 ≤ off ∧ off < 0x3000)

/-- TCB_ACQUIRE (R371). A load of TCB_ACQUIRE maps the oldest committed slot read-only, or returns an error at once. -/
def execTcbAcquire (th : Nat) (s : State) : Host.Outcome State Fault Refusal :=
  s.live (decide (th < 256)) [14] fun d => d.opTcbLoad th 4 fun off => decide (0x3000 ≤ off ∧ off < 0x4000)

/-- TCB_ACQUIRE_WAIT (R371). A load of TCB_ACQUIRE_WAIT acquires a slot, waiting while the channel is empty. -/
def execTcbAcquireWait (th : Nat) (s : State) : Host.Outcome State Fault Refusal :=
  s.live (decide (th < 256)) [14] fun d => d.opTcbLoad th 4 fun off => decide (0x4000 ≤ off ∧ off < 0x5000)

end Sys2Proof.Machine
end

