-- ==== Sys2Proof/Machine/TelemCmds.lean ====
section
/-! DEFINITION. The commands of interrupts, faults, telemetry and the service ports (chapters 15, 16 and 18). Each meaning is one operation on the engine. -/

namespace Sys2Proof.Machine

/-- ICU_DELIVER (R450). A PENDING source is delivered to the next available target of its set by MSI-X or Grotto event bit. -/
def execIcuDeliver (bank : Nat) (s : State) : Host.Outcome State Fault Refusal :=
  s.body (decide (bank < 2)) [2] fun b => b.icuDeliver bank

/-- ICU_ACK (R449). ICU_ACK from the recorded target returns an ACTIVE source to IDLE or PENDING, or is refused as a bad
acknowledge. -/
def execIcuAck (bank t src m : Nat) (s : State) : Host.Outcome State Fault Refusal :=
  s.live (decide (bank < 2) && decide (t < 64) && decide (src < 4096) && Master.known m) [2] fun d => d.write m (R.ICU_ACK_TGT.addr (Pg.icu bank) 0 0) (t * 2 ^ 16 + src)

/-- ICU_MASK_SET (R451). ICU_MASK_SET masks a source's delivery. -/
def execIcuMaskSet (bank src m : Nat) (s : State) : Host.Outcome State Fault Refusal :=
  s.live (decide (bank < 2) && decide (src < 4096) && Master.known m) [2] fun d => d.put m (Pg.icu bank) R.ICU_MASK_SET 0 src

/-- ICU_MASK_CLR (R451). ICU_MASK_CLR unmasks a source's delivery. -/
def execIcuMaskClr (bank src m : Nat) (s : State) : Host.Outcome State Fault Refusal :=
  s.live (decide (bank < 2) && decide (src < 4096) && Master.known m) [2] fun d => d.put m (Pg.icu bank) R.ICU_MASK_CLR 0 src

/-- FMU_RECORD (R460). A reported fault writes a new record, or merges into its scope's open record, and may start a contain
action. -/
def execFmuRecord (s : State) : Host.Outcome State Fault Refusal :=
  s.body true [2] fun b => b.fmuRecord

/-- SVY_CONFIG (R470). A Survey configuration write is checked, zeroes the counter and takes effect at the next D17 edge. -/
def execSvyConfig (i m v : Nat) (s : State) : Host.Outcome State Fault Refusal :=
  s.body (decide (i < 64) && Master.known m && decide (v < 2 ^ 128)) [2] fun b => if b.boot.bar0 && b.masterReach m Pg.survey true then b.svyConfig m i v else b

/-- SVY_WINDOW_END (R473). At each window end WINDOW counters move to SVY_LAST, restart and may export a SURVEY_WINDOW record.
-/
def execSvyWindowEnd (s : State) : Host.Outcome State Fault Refusal :=
  s.body true [17] fun b => b.svyWindowEnd

/-- SVY_LATCH (R474). SVY_LATCH copies every EDGE and LEVEL count into SVY_LAST at one D17 edge. -/
def execSvyLatch (m : Nat) (s : State) : Host.Outcome State Fault Refusal :=
  s.live (Master.known m) [2] fun d => d.put m (Pg.survey) R.SVY_LATCH 0 1

/-- STAT_PAIR_READ (R478). A read of a counter pair returns the Sump line plus its cached delta at one D15 clock. -/
def execStatPairRead (k : Nat) (s : State) : Host.Outcome State Fault Refusal :=
  s.body (decide (k < 1073741824)) [15] fun b => b.pairShow k

/-- STAT_PAIR_WRITE (R479). A write of a counter pair adds its delta into the Sump and then sets the line to the written
value. -/
def execStatPairWrite (k v : Nat) (s : State) : Host.Outcome State Fault Refusal :=
  s.body (decide (k < 1073741824) && decide (v < 2 ^ 128)) [15] fun b => b.pairWrite k v

/-- SNP_GO (R481). SNP_GO starts a statistics snapshot at once or arms it for a target time, or is refused. -/
def execSnpGo (m : Nat) (s : State) : Host.Outcome State Fault Refusal :=
  s.live (Master.known m) [2] fun d => d.put m (Pg.snp) R.SNP_GO 0 1

/-- SNP_START (R481). An armed snapshot starts when the time of day reaches its target, flushing present deltas. -/
def execSnpStart (s : State) : Host.Outcome State Fault Refusal :=
  s.body true [17] fun b => b.snpStart

/-- SNP_DONE (R481). Every pair write completes, the header is written and SNP_EVT_DONE is set. -/
def execSnpDone (s : State) : Host.Outcome State Fault Refusal :=
  s.body true [2] fun b => b.snpDone

/-- SNP_FAIL (R482). A far failure or port leaving READY ends the snapshot without a header and sets SNP_EVT_FAIL. -/
def execSnpFail (s : State) : Host.Outcome State Fault Refusal :=
  s.body true [2] fun b => b.snpFail

/-- ECHO_ARCHIVE (R487). A complete block of 4,096 Echo records is copied to a far buffer, or skipped, and reported. -/
def execEchoArchive (port : Nat) (s : State) : Host.Outcome State Fault Refusal :=
  s.body (decide (port < 2)) [2] fun b => b.echoArchive port

/-- ECHO_SEED_WRITE (R484). A write of ECHO_SEED reseeds the sampling LFSR. -/
def execEchoSeedWrite (v m : Nat) (s : State) : Host.Outcome State Fault Refusal :=
  s.live (decide (v < 2 ^ 32) && Master.known m) [2] fun d => d.write m (R.ECHO_SEED.addr (Pg.echo 0) 0 0) v

/-- I3C_ADDRESS_WRITE (R506). An I3C private write of 4 bytes sets the mirror's read address. -/
def execI3cAddressWrite (l : List Byte) (s : State) : Host.Outcome State Fault Refusal :=
  s.always true fun d => d.i3cWrite l

/-- I3C_PRIVATE_READ (R506). An I3C private read returns up to 16 bytes of registers and advances the address, or is NACKed if
too early. -/
def execI3cPrivateRead (n : Nat) (s : State) : Host.Outcome State Fault Refusal :=
  s.always true fun d => d.i3cRead n

/-- I3C_CCC (R506). The I3C target answers a common command code such as ENTDAA or GETPID. -/
def execI3cCcc (c : I3cCode) (s : State) : Host.Outcome State Fault Refusal :=
  s.always c.wf fun d => d.i3cCcc c

/-- JTAG_INSTRUCTION (R507). A new JTAG instruction takes effect; boundary-scan instructions take the pins and bring every
link down. -/
def execJtagInstruction (i : JtagInstr) (s : State) : Host.Outcome State Fault Refusal :=
  s.always true fun d => d.jtagInstr i

/-- JTAG_DBG_REG_ACCESS (R507). A DBG_REG access carries a register access as master 0x200. -/
def execJtagDbgRegAccess (addr : Nat) (v : Option Nat) (s : State) : Host.Outcome State Fault Refusal :=
  s.live (addrOk addr && (v.all fun x => decide (x < 2 ^ 32))) [2] fun d => d.jtagAccess addr v

end Sys2Proof.Machine
end

