-- ==== Sys2Proof/Machine/ThreadCmds.lean ====
section
/-! DEFINITION. The commands of Grotto threads, their supervisor and their debugger (chapter 12). Each meaning is one operation on the engine. -/

namespace Sys2Proof.Machine

/-- THREAD_START (R364). START runs an IDLE thread from GRT_TH_ENTRY with zeroed registers. -/
def execThreadStart (th m : Nat) (s : State) : Host.Outcome State Fault Refusal :=
  s.live (decide (th < 256) && Master.known m) [2] fun d => d.write m (R.GRT_TH_CMD.addr (Pg.core (th / 8) 1) (th % 8) 0) 1

/-- THREAD_RESTART (R364). RESTART abandons windows, clears binds, timer and events and runs the thread from its entry. -/
def execThreadRestart (th m : Nat) (s : State) : Host.Outcome State Fault Refusal :=
  s.live (decide (th < 256) && Master.known m) [2] fun d => d.write m (R.GRT_TH_CMD.addr (Pg.core (th / 8) 1) (th % 8) 0) 2

/-- THREAD_HALT (R364). HALT moves a thread to HALTED with cause COMMAND. -/
def execThreadHalt (th m : Nat) (s : State) : Host.Outcome State Fault Refusal :=
  s.live (decide (th < 256) && Master.known m) [2] fun d => d.write m (R.GRT_TH_CMD.addr (Pg.core (th / 8) 1) (th % 8) 0) 3

/-- THREAD_KILL (R364). KILL acts as RESTART but leaves the thread IDLE. -/
def execThreadKill (th m : Nat) (s : State) : Host.Outcome State Fault Refusal :=
  s.live (decide (th < 256) && Master.known m) [2] fun d => d.write m (R.GRT_TH_CMD.addr (Pg.core (th / 8) 1) (th % 8) 0) 4

/-- CORE_RESTART (R366). GRT_CORE_RESTART restarts every vendor thread and kills every customer thread of the core. -/
def execCoreRestart (c m : Nat) (s : State) : Host.Outcome State Fault Refusal :=
  s.live (decide (c < 32) && Master.known m) [2] fun d => d.put m (Pg.core c 0) R.GRT_CORE_RESTART 0 1

/-- CORE_RESTART_DONE (R366). A core restart completes; on cores 30 and 31 the Governor resumes and its loops log RESUME. -/
def execCoreRestartDone (c : Nat) (s : State) : Host.Outcome State Fault Refusal :=
  s.body (decide (c < 32)) [14] fun b => b.coreRestartDone c

/-- THREAD_WAKE (R369). A waiting thread's wait or blocking channel operation is satisfied and it returns to RUN. -/
def execThreadWake (th : Nat) (s : State) : Host.Outcome State Fault Refusal :=
  s.body (decide (th < 256)) [14] fun b => b.threadWake th

/-- SUPERVISOR_FAULT_POLICY (R378). Thread 0 acts on a halted customer thread within 10 µs by GRT_POL_FLT. -/
def execSupervisorFaultPolicy (th : Nat) (s : State) : Host.Outcome State Fault Refusal :=
  s.body (decide (th < 256)) [14] fun b => b.faultPolicy th

/-- SUPERVISOR_ICU_FORWARD (R378). Thread 0 passes an ICU delivery on bit 26 to the configured thread by SEND. -/
def execSupervisorIcuForward (c : Nat) (s : State) : Host.Outcome State Fault Refusal :=
  s.body (decide (c < 32)) [14] fun b => b.icuForward c

/-- DEADLOCK_DETECT (R380). All customer threads closed-waiting for GRT_DL_CYC clocks fires the detector and sets bit 28 of
thread 0. -/
def execDeadlockDetect (c : Nat) (s : State) : Host.Outcome State Fault Refusal :=
  s.body (decide (c < 32)) [14] fun b => b.deadlockDetect c

/-- SUPERVISOR_DEADLOCK_POLICY (R380). Thread 0 applies GRT_POL_DL within 10 µs of a detection. -/
def execSupervisorDeadlockPolicy (c : Nat) (s : State) : Host.Outcome State Fault Refusal :=
  s.body (decide (c < 32)) [14] fun b => b.deadlockPolicy c

/-- TCB_TIMER_EXPIRE (R367). A thread's timer expires and latches event bit 24. -/
def execTcbTimerExpire (th : Nat) (s : State) : Host.Outcome State Fault Refusal :=
  s.body (decide (th < 256)) [14] fun b => b.timerExpire th

/-- GROTTO_INJECT_TAKE (R374). The inject source takes a ready slot of a Gallery's inject channel, copies the packet into
cells and frees the slot. -/
def execGrottoInjectTake (g : Nat) (s : State) : Host.Outcome State Fault Refusal :=
  s.body (decide (g < 8)) [14] fun b => b.grottoInjectTake g

/-- DBG_STOP (R381). STOP moves a thread to STOPPED within 64 clocks, keeping its windows, binds, timer and events. -/
def execDbgStop (th m : Nat) (s : State) : Host.Outcome State Fault Refusal :=
  s.live (decide (th < 256) && Master.known m) [2] fun d => d.dbgGo m th 1

/-- DBG_RESUME (R381). RESUME returns a stopped thread to its prior state. -/
def execDbgResume (th m : Nat) (s : State) : Host.Outcome State Fault Refusal :=
  s.live (decide (th < 256) && Master.known m) [2] fun d => d.dbgGo m th 2

/-- DBG_STEP (R381). STEP executes GRT_DBG_COUNT instructions of a stopped thread. -/
def execDbgStep (th m : Nat) (s : State) : Host.Outcome State Fault Refusal :=
  s.live (decide (th < 256) && Master.known m) [2] fun d => d.dbgGo m th 3

/-- DBG_STEP_END (R381). The stepped instruction count runs out, or a blocking load ends it, and the thread stops again. -/
def execDbgStepEnd (th : Nat) (s : State) : Host.Outcome State Fault Refusal :=
  s.body (decide (th < 256)) [14] fun b => b.dbgStepEnd th

/-- DBG_ABANDON (R383). ABANDON returns the slot of a stopped thread's window and marks the window ABANDONED. -/
def execDbgAbandon (th m : Nat) (s : State) : Host.Outcome State Fault Refusal :=
  s.live (decide (th < 256) && Master.known m) [2] fun d => d.dbgGo m th 4

/-- DBG_READ_REG (R382). READ_REG returns a stopped thread's selected register through GRT_DBG_DATA. -/
def execDbgReadReg (th m : Nat) (s : State) : Host.Outcome State Fault Refusal :=
  s.live (decide (th < 256) && Master.known m) [2] fun d => d.dbgGo m th 5

/-- DBG_WRITE_REG (R382). WRITE_REG writes a stopped thread's selected register from GRT_DBG_DATA. -/
def execDbgWriteReg (th m : Nat) (s : State) : Host.Outcome State Fault Refusal :=
  s.live (decide (th < 256) && Master.known m) [2] fun d => d.dbgGo m th 6

/-- GRT_INJECT (R387). GRT_INJ_GO arms a local-memory or register-file error on a thread's next read. -/
def execGrtInject (c m : Nat) (s : State) : Host.Outcome State Fault Refusal :=
  s.live (decide (c < 32) && Master.known m) [2] fun d => d.put m (Pg.core c 2) R.GRT_INJ_GO 0 1

end Sys2Proof.Machine
end

