-- ==== Sys2Proof/Machine/Dispatch.lean ====
section
/-! DEFINITION. Every command goes to its meaning. -/

namespace Sys2Proof.Machine

def exec (i : Instr) (s : State) : Host.Outcome State Fault Refusal :=
  match i with
  | .registerWrite m addr v full => Sys2Proof.Machine.execRegisterWrite m addr v full s
  | .clearOnRead m addr => Sys2Proof.Machine.execClearOnRead m addr s
  | .softReset page m => Sys2Proof.Machine.execSoftReset page m s
  | .softResetDone page => Sys2Proof.Machine.execSoftResetDone page s
  | .pageLock page m => Sys2Proof.Machine.execPageLock page m s
  | .eventInject page m v => Sys2Proof.Machine.execEventInject page m v s
  | .faultInject page m v => Sys2Proof.Machine.execFaultInject page m v s
  | .windowWordWrite m addr v => Sys2Proof.Machine.execWindowWordWrite m addr v s
  | .assemblyTimeout win m => Sys2Proof.Machine.execAssemblyTimeout win m s
  | .windowSnapshotRead m addr => Sys2Proof.Machine.execWindowSnapshotRead m addr s
  | .apertureCtrlWrite a m v => Sys2Proof.Machine.execApertureCtrlWrite a m v s
  | .cairnBegin n m => Sys2Proof.Machine.execCairnBegin n m s
  | .cairnCommit n m => Sys2Proof.Machine.execCairnCommit n m s
  | .cairnAbort n m => Sys2Proof.Machine.execCairnAbort n m s
  | .cairnRelease n m => Sys2Proof.Machine.execCairnRelease n m s
  | .cairnValidateDone n => Sys2Proof.Machine.execCairnValidateDone n s
  | .cairnApply n => Sys2Proof.Machine.execCairnApply n s
  | .cairnWaitExceeded n => Sys2Proof.Machine.execCairnWaitExceeded n s
  | .govModeWrite loop mode m => Sys2Proof.Machine.execGovModeWrite loop mode m s
  | .govModeApply loop => Sys2Proof.Machine.execGovModeApply loop s
  | .govHeartbeat m v => Sys2Proof.Machine.execGovHeartbeat m v s
  | .govStall => Sys2Proof.Machine.execGovStall s
  | .govLogRdWrite m v => Sys2Proof.Machine.execGovLogRdWrite m v s
  | .portEnable p m => Sys2Proof.Machine.execPortEnable p m s
  | .portDisable p m => Sys2Proof.Machine.execPortDisable p m s
  | .signalDetected p kr => Sys2Proof.Machine.execSignalDetected p kr s
  | .trainingComplete p => Sys2Proof.Machine.execTrainingComplete p s
  | .trainingTimeout p => Sys2Proof.Machine.execTrainingTimeout p s
  | .linkUp p => Sys2Proof.Machine.execLinkUp p s
  | .linkLoss p l sig => Sys2Proof.Machine.execLinkLoss p l sig s
  | .remoteFaultChange p on => Sys2Proof.Machine.execRemoteFaultChange p on s
  | .fecWindowEnd p hist unc => Sys2Proof.Machine.execFecWindowEnd p hist unc s
  | .lanePowerRequest l req m => Sys2Proof.Machine.execLanePowerRequest l req m s
  | .frameStart p wire => Sys2Proof.Machine.execFrameStart p wire s
  | .entranceAdmit p => Sys2Proof.Machine.execEntranceAdmit p s
  | .frameReceive p => Sys2Proof.Machine.execFrameReceive p s
  | .pfcReceive p vec quanta => Sys2Proof.Machine.execPfcReceive p vec quanta s
  | .pauseReceive p quanta => Sys2Proof.Machine.execPauseReceive p quanta s
  | .pfcPauseExpire p t => Sys2Proof.Machine.execPfcPauseExpire p t s
  | .pfcWatchdog p j => Sys2Proof.Machine.execPfcWatchdog p j s
  | .pfcResend p => Sys2Proof.Machine.execPfcResend p s
  | .entOverloadClear g => Sys2Proof.Machine.execEntOverloadClear g s
  | .headDispatch src lag => Sys2Proof.Machine.execHeadDispatch src lag s
  | .vaultStallEnd stall => Sys2Proof.Machine.execVaultStallEnd stall s
  | .admission src => Sys2Proof.Machine.execAdmission src s
  | .spillSpanWrite q => Sys2Proof.Machine.execSpillSpanWrite q s
  | .farMigrate q port => Sys2Proof.Machine.execFarMigrate q port s
  | .farCopyComplete q => Sys2Proof.Machine.execFarCopyComplete q s
  | .refillRead q => Sys2Proof.Machine.execRefillRead q s
  | .refillComplete q => Sys2Proof.Machine.execRefillComplete q s
  | .orphanSweep => Sys2Proof.Machine.execOrphanSweep s
  | .poolEnable n m => Sys2Proof.Machine.execPoolEnable n m s
  | .poolDisable n m => Sys2Proof.Machine.execPoolDisable n m s
  | .poolAlloc n m => Sys2Proof.Machine.execPoolAlloc n m s
  | .poolFree n j m => Sys2Proof.Machine.execPoolFree n j m s
  | .bufferLoopDecision => Sys2Proof.Machine.execBufferLoopDecision s
  | .schedulerDecision p => Sys2Proof.Machine.execSchedulerDecision p s
  | .refillBoundary => Sys2Proof.Machine.execRefillBoundary s
  | .packetTransmit p => Sys2Proof.Machine.execPacketTransmit p s
  | .recirculateEgress g => Sys2Proof.Machine.execRecirculateEgress g s
  | .grottoPortDeliver g => Sys2Proof.Machine.execGrottoPortDeliver g s
  | .hostPunt => Sys2Proof.Machine.execHostPunt s
  | .lpmDrain m => Sys2Proof.Machine.execLpmDrain m s
  | .lpmDrainDone => Sys2Proof.Machine.execLpmDrainDone s
  | .dsCompareAndClear m => Sys2Proof.Machine.execDsCompareAndClear m s
  | .exmInsert c m ty => Sys2Proof.Machine.execExmInsert c m ty s
  | .exmDelete c m ty => Sys2Proof.Machine.execExmDelete c m ty s
  | .exmUpdate c m ty => Sys2Proof.Machine.execExmUpdate c m ty s
  | .exmLookup c m ty => Sys2Proof.Machine.execExmLookup c m ty s
  | .exmHash c m ty => Sys2Proof.Machine.execExmHash c m ty s
  | .migrate j => Sys2Proof.Machine.execMigrate j s
  | .withdraw j => Sys2Proof.Machine.execWithdraw j s
  | .stashReinsert j => Sys2Proof.Machine.execStashReinsert j s
  | .trieCompact j => Sys2Proof.Machine.execTrieCompact j s
  | .rootBuild j => Sys2Proof.Machine.execRootBuild j s
  | .clsScrub j => Sys2Proof.Machine.execClsScrub j s
  | .dsScrub j => Sys2Proof.Machine.execDsScrub j s
  | .digestCheck => Sys2Proof.Machine.execDigestCheck s
  | .clsInject m => Sys2Proof.Machine.execClsInject m s
  | .dsInject m => Sys2Proof.Machine.execDsInject m s
  | .vltParInject m => Sys2Proof.Machine.execVltParInject m s
  | .stcFlush m => Sys2Proof.Machine.execStcFlush m s
  | .stcFlushDone => Sys2Proof.Machine.execStcFlushDone s
  | .statWriteback k => Sys2Proof.Machine.execStatWriteback k s
  | .stcInject m => Sys2Proof.Machine.execStcInject m s
  | .chmInject m => Sys2Proof.Machine.execChmInject m s
  | .schInject m => Sys2Proof.Machine.execSchInject m s
  | .rimstoneSnapshot => Sys2Proof.Machine.execRimstoneSnapshot s
  | .rimstoneAudit => Sys2Proof.Machine.execRimstoneAudit s
  | .rimInject m => Sys2Proof.Machine.execRimInject m s
  | .pllLossOfLock x => Sys2Proof.Machine.execPllLossOfLock x s
  | .clkInject m => Sys2Proof.Machine.execClkInject m s
  | .glowwormTrip n => Sys2Proof.Machine.execGlowwormTrip n s
  | .glowwormRearm n => Sys2Proof.Machine.execGlowwormRearm n s
  | .galleryPowerRequest g m req => Sys2Proof.Machine.execGalleryPowerRequest g m req s
  | .galleryRestEntry g => Sys2Proof.Machine.execGalleryRestEntry g s
  | .galleryWake g cause => Sys2Proof.Machine.execGalleryWake g cause s
  | .galleryPowerGood g => Sys2Proof.Machine.execGalleryPowerGood g s
  | .galleryWakeDone g => Sys2Proof.Machine.execGalleryWakeDone g s
  | .powerGoodTimeout g => Sys2Proof.Machine.execPowerGoodTimeout g s
  | .powerLoopDecision g load peak => Sys2Proof.Machine.execPowerLoopDecision g load peak s
  | .sumpRateDecision k demand peak => Sys2Proof.Machine.execSumpRateDecision k demand peak s
  | .thermalLoopDecision => Sys2Proof.Machine.execThermalLoopDecision s
  | .todPhaseAdj m v => Sys2Proof.Machine.execTodPhaseAdj m v s
  | .todSlewEnd => Sys2Proof.Machine.execTodSlewEnd s
  | .todStep m => Sys2Proof.Machine.execTodStep m s
  | .todReadLatch m => Sys2Proof.Machine.execTodReadLatch m s
  | .todValidSet m => Sys2Proof.Machine.execTodValidSet m s
  | .todValidClr m => Sys2Proof.Machine.execTodValidClr m s
  | .ppsInEdge => Sys2Proof.Machine.execPpsInEdge s
  | .ppsLoss => Sys2Proof.Machine.execPpsLoss s
  | .ppsOutEdge => Sys2Proof.Machine.execPpsOutEdge s
  | .sysrefLoss => Sys2Proof.Machine.execSysrefLoss s
  | .hbmRequest k pc => Sys2Proof.Machine.execHbmRequest k pc s
  | .hbmRefresh k pc => Sys2Proof.Machine.execHbmRefresh k pc s
  | .hbmScrub line => Sys2Proof.Machine.execHbmScrub line s
  | .hbmRateRequest k m rate => Sys2Proof.Machine.execHbmRateRequest k m rate s
  | .hbmStepStall k => Sys2Proof.Machine.execHbmStepStall k s
  | .hbmStepDone k => Sys2Proof.Machine.execHbmStepDone k s
  | .hbmStepFail k => Sys2Proof.Machine.execHbmStepFail k s
  | .refreshLoopDecision k ce peak => Sys2Proof.Machine.execRefreshLoopDecision k ce peak s
  | .hbmPcRetrain k pc margin ce demand periodic => Sys2Proof.Machine.execHbmPcRetrain k pc margin ce demand periodic s
  | .serdesReadapt p => Sys2Proof.Machine.execSerdesReadapt p s
  | .cxlRecovery p replays => Sys2Proof.Machine.execCxlRecovery p replays s
  | .hbmPgRun k m => Sys2Proof.Machine.execHbmPgRun k m s
  | .hbmCmpDone k errs => Sys2Proof.Machine.execHbmCmpDone k errs s
  | .hbmDelaySet k v m => Sys2Proof.Machine.execHbmDelaySet k v m s
  | .hbmTrnMark k m => Sys2Proof.Machine.execHbmTrnMark k m s
  | .hbmEccInject k m => Sys2Proof.Machine.execHbmEccInject k m s
  | .farLinkEnable p on m => Sys2Proof.Machine.execFarLinkEnable p on m s
  | .farPerstRelease p => Sys2Proof.Machine.execFarPerstRelease p s
  | .farLinkTrained p speed width => Sys2Proof.Machine.execFarLinkTrained p speed width s
  | .farEnumDone p gib => Sys2Proof.Machine.execFarEnumDone p gib s
  | .farEnumFail p rc => Sys2Proof.Machine.execFarEnumFail p rc s
  | .farRetry p => Sys2Proof.Machine.execFarRetry p s
  | .farRecoveryExit p => Sys2Proof.Machine.execFarRecoveryExit p s
  | .farLinkDown p => Sys2Proof.Machine.execFarLinkDown p s
  | .farReadComplete q => Sys2Proof.Machine.execFarReadComplete q s
  | .farRequestTimeout q wr => Sys2Proof.Machine.execFarRequestTimeout q wr s
  | .farIoAccess p m => Sys2Proof.Machine.execFarIoAccess p m s
  | .farIoDone p rc data => Sys2Proof.Machine.execFarIoDone p rc data s
  | .farInject p m => Sys2Proof.Machine.execFarInject p m s
  | .threadStart th m => Sys2Proof.Machine.execThreadStart th m s
  | .threadRestart th m => Sys2Proof.Machine.execThreadRestart th m s
  | .threadHalt th m => Sys2Proof.Machine.execThreadHalt th m s
  | .threadKill th m => Sys2Proof.Machine.execThreadKill th m s
  | .coreRestart c m => Sys2Proof.Machine.execCoreRestart c m s
  | .coreRestartDone c => Sys2Proof.Machine.execCoreRestartDone c s
  | .threadWake th => Sys2Proof.Machine.execThreadWake th s
  | .supervisorFaultPolicy th => Sys2Proof.Machine.execSupervisorFaultPolicy th s
  | .supervisorIcuForward c => Sys2Proof.Machine.execSupervisorIcuForward c s
  | .deadlockDetect c => Sys2Proof.Machine.execDeadlockDetect c s
  | .supervisorDeadlockPolicy c => Sys2Proof.Machine.execSupervisorDeadlockPolicy c s
  | .tcbTimerExpire th => Sys2Proof.Machine.execTcbTimerExpire th s
  | .tcbWait th => Sys2Proof.Machine.execTcbWait th s
  | .tcbPoll th => Sys2Proof.Machine.execTcbPoll th s
  | .tcbWaitMask th => Sys2Proof.Machine.execTcbWaitMask th s
  | .tcbSend th => Sys2Proof.Machine.execTcbSend th s
  | .tcbTimer th => Sys2Proof.Machine.execTcbTimer th s
  | .tcbBind th => Sys2Proof.Machine.execTcbBind th s
  | .tcbCommit th => Sys2Proof.Machine.execTcbCommit th s
  | .tcbRelease th => Sys2Proof.Machine.execTcbRelease th s
  | .tcbWstat th => Sys2Proof.Machine.execTcbWstat th s
  | .tcbPoolSize th => Sys2Proof.Machine.execTcbPoolSize th s
  | .tcbPoolAlloc th => Sys2Proof.Machine.execTcbPoolAlloc th s
  | .tcbPoolFree th => Sys2Proof.Machine.execTcbPoolFree th s
  | .tcbPoolBp th => Sys2Proof.Machine.execTcbPoolBp th s
  | .tcbId th => Sys2Proof.Machine.execTcbId th s
  | .tcbReserve th => Sys2Proof.Machine.execTcbReserve th s
  | .tcbReserveWait th => Sys2Proof.Machine.execTcbReserveWait th s
  | .tcbAcquire th => Sys2Proof.Machine.execTcbAcquire th s
  | .tcbAcquireWait th => Sys2Proof.Machine.execTcbAcquireWait th s
  | .grottoInjectTake g => Sys2Proof.Machine.execGrottoInjectTake g s
  | .dbgStop th m => Sys2Proof.Machine.execDbgStop th m s
  | .dbgResume th m => Sys2Proof.Machine.execDbgResume th m s
  | .dbgStep th m => Sys2Proof.Machine.execDbgStep th m s
  | .dbgStepEnd th => Sys2Proof.Machine.execDbgStepEnd th s
  | .dbgAbandon th m => Sys2Proof.Machine.execDbgAbandon th m s
  | .dbgReadReg th m => Sys2Proof.Machine.execDbgReadReg th m s
  | .dbgWriteReg th m => Sys2Proof.Machine.execDbgWriteReg th m s
  | .grtInject c m => Sys2Proof.Machine.execGrtInject c m s
  | .add th => Sys2Proof.Machine.execAdd th s
  | .sub th => Sys2Proof.Machine.execSub th s
  | .and th => Sys2Proof.Machine.execAnd th s
  | .or th => Sys2Proof.Machine.execOr th s
  | .xor th => Sys2Proof.Machine.execXor th s
  | .shl th => Sys2Proof.Machine.execShl th s
  | .shr th => Sys2Proof.Machine.execShr th s
  | .sar th => Sys2Proof.Machine.execSar th s
  | .addi th => Sys2Proof.Machine.execAddi th s
  | .andi th => Sys2Proof.Machine.execAndi th s
  | .ori th => Sys2Proof.Machine.execOri th s
  | .xori th => Sys2Proof.Machine.execXori th s
  | .shli th => Sys2Proof.Machine.execShli th s
  | .shri th => Sys2Proof.Machine.execShri th s
  | .sari th => Sys2Proof.Machine.execSari th s
  | .lih th => Sys2Proof.Machine.execLih th s
  | .clt th => Sys2Proof.Machine.execClt th s
  | .cltu th => Sys2Proof.Machine.execCltu th s
  | .ceq th => Sys2Proof.Machine.execCeq th s
  | .mul th => Sys2Proof.Machine.execMul th s
  | .mulh th => Sys2Proof.Machine.execMulh th s
  | .div th => Sys2Proof.Machine.execDiv th s
  | .divu th => Sys2Proof.Machine.execDivu th s
  | .rem th => Sys2Proof.Machine.execRem th s
  | .lb th => Sys2Proof.Machine.execLb th s
  | .lh th => Sys2Proof.Machine.execLh th s
  | .lw th => Sys2Proof.Machine.execLw th s
  | .ld th => Sys2Proof.Machine.execLd th s
  | .lbu th => Sys2Proof.Machine.execLbu th s
  | .lhu th => Sys2Proof.Machine.execLhu th s
  | .lwu th => Sys2Proof.Machine.execLwu th s
  | .sb th => Sys2Proof.Machine.execSb th s
  | .sh th => Sys2Proof.Machine.execSh th s
  | .sw th => Sys2Proof.Machine.execSw th s
  | .sd th => Sys2Proof.Machine.execSd th s
  | .beq th => Sys2Proof.Machine.execBeq th s
  | .bne th => Sys2Proof.Machine.execBne th s
  | .blt th => Sys2Proof.Machine.execBlt th s
  | .bge th => Sys2Proof.Machine.execBge th s
  | .bltu th => Sys2Proof.Machine.execBltu th s
  | .bgeu th => Sys2Proof.Machine.execBgeu th s
  | .call th => Sys2Proof.Machine.execCall th s
  | .jr th => Sys2Proof.Machine.execJr th s
  | .crc32c th => Sys2Proof.Machine.execCrc32c th s
  | .popcnt th => Sys2Proof.Machine.execPopcnt th s
  | .clz th => Sys2Proof.Machine.execClz th s
  | .bswap th => Sys2Proof.Machine.execBswap th s
  | .extr th => Sys2Proof.Machine.execExtr th s
  | .insr th => Sys2Proof.Machine.execInsr th s
  | .csel th => Sys2Proof.Machine.execCsel th s
  | .fence th => Sys2Proof.Machine.execFence th s
  | .engineResetAssert => Sys2Proof.Machine.execEngineResetAssert s
  | .engineResetRelease flashRel slow test => Sys2Proof.Machine.execEngineResetRelease flashRel slow test s
  | .lampPowerOn sa ready flashRel slow test => Sys2Proof.Machine.execLampPowerOn sa ready flashRel slow test s
  | .brownoutStart => Sys2Proof.Machine.execBrownoutStart s
  | .brownoutEnd => Sys2Proof.Machine.execBrownoutEnd s
  | .thermalResetHoldEnd => Sys2Proof.Machine.execThermalResetHoldEnd s
  | .bootLdGo m => Sys2Proof.Machine.execBootLdGo m s
  | .bootLdDone => Sys2Proof.Machine.execBootLdDone s
  | .bootLdResume m => Sys2Proof.Machine.execBootLdResume m s
  | .keyProvision slot m => Sys2Proof.Machine.execKeyProvision slot m s
  | .keyRevoke slot m => Sys2Proof.Machine.execKeyRevoke slot m s
  | .flashRelease on m => Sys2Proof.Machine.execFlashRelease on m s
  | .bootInject m => Sys2Proof.Machine.execBootInject m s
  | .hostInterfaceReset => Sys2Proof.Machine.execHostInterfaceReset s
  | .hostLinkDown => Sys2Proof.Machine.execHostLinkDown s
  | .ringEnable n m => Sys2Proof.Machine.execRingEnable n m s
  | .ringDoorbell n v => Sys2Proof.Machine.execRingDoorbell n v s
  | .ringReset n m => Sys2Proof.Machine.execRingReset n m s
  | .ringResetDone n => Sys2Proof.Machine.execRingResetDone n s
  | .ringJobComplete n => Sys2Proof.Machine.execRingJobComplete n s
  | .ringNotify n => Sys2Proof.Machine.execRingNotify n s
  | .injectJob n => Sys2Proof.Machine.execInjectJob n s
  | .injectFetchRetry n => Sys2Proof.Machine.execInjectFetchRetry n s
  | .tblCmdNop n => Sys2Proof.Machine.execTblCmdNop n s
  | .tblCmdCont n => Sys2Proof.Machine.execTblCmdCont n s
  | .tblCmdWriteEntry n => Sys2Proof.Machine.execTblCmdWriteEntry n s
  | .tblCmdReadEntry n => Sys2Proof.Machine.execTblCmdReadEntry n s
  | .tblCmdRegWrite n => Sys2Proof.Machine.execTblCmdRegWrite n s
  | .tblCmdDsAdd n => Sys2Proof.Machine.execTblCmdDsAdd n s
  | .tblCmdExm n => Sys2Proof.Machine.execTblCmdExm n s
  | .tblCmdCairn n => Sys2Proof.Machine.execTblCmdCairn n s
  | .hifInject m => Sys2Proof.Machine.execHifInject m s
  | .icuDeliver bank => Sys2Proof.Machine.execIcuDeliver bank s
  | .icuAck bank t src m => Sys2Proof.Machine.execIcuAck bank t src m s
  | .icuMaskSet bank src m => Sys2Proof.Machine.execIcuMaskSet bank src m s
  | .icuMaskClr bank src m => Sys2Proof.Machine.execIcuMaskClr bank src m s
  | .fmuRecord => Sys2Proof.Machine.execFmuRecord s
  | .svyConfig j m v => Sys2Proof.Machine.execSvyConfig j m v s
  | .svyWindowEnd => Sys2Proof.Machine.execSvyWindowEnd s
  | .svyLatch m => Sys2Proof.Machine.execSvyLatch m s
  | .statPairRead k => Sys2Proof.Machine.execStatPairRead k s
  | .statPairWrite k v => Sys2Proof.Machine.execStatPairWrite k v s
  | .snpGo m => Sys2Proof.Machine.execSnpGo m s
  | .snpStart => Sys2Proof.Machine.execSnpStart s
  | .snpDone => Sys2Proof.Machine.execSnpDone s
  | .snpFail => Sys2Proof.Machine.execSnpFail s
  | .echoArchive port => Sys2Proof.Machine.execEchoArchive port s
  | .echoSeedWrite v m => Sys2Proof.Machine.execEchoSeedWrite v m s
  | .i3cAddressWrite l => Sys2Proof.Machine.execI3cAddressWrite l s
  | .i3cPrivateRead n => Sys2Proof.Machine.execI3cPrivateRead n s
  | .i3cCcc c => Sys2Proof.Machine.execI3cCcc c s
  | .jtagInstruction j => Sys2Proof.Machine.execJtagInstruction j s
  | .jtagDbgRegAccess addr v => Sys2Proof.Machine.execJtagDbgRegAccess addr v s
  | .sensorSample temps volts est => Sys2Proof.Machine.execSensorSample temps volts est s
  | .lampPowerLoss => Sys2Proof.Machine.execLampPowerLoss s
  | .hostLinkUp speed width => Sys2Proof.Machine.execHostLinkUp speed width s
  | .pcieConfigWrite c => Sys2Proof.Machine.execPcieConfigWrite c s
  | .msixTableWrite w => Sys2Proof.Machine.execMsixTableWrite w s
  | .ringDmaError n => Sys2Proof.Machine.execRingDmaError n s
  | .farLinkRecovery p => Sys2Proof.Machine.execFarLinkRecovery p s
  | .farFlitCrcError p => Sys2Proof.Machine.execFarFlitCrcError p s
  | .sysrefReturn => Sys2Proof.Machine.execSysrefReturn s

end Sys2Proof.Machine
end

