-- ==== Sys2Proof/Safety.lean ====
section
/-! DEFINITION. The terms that statements use: what a reader sees of a state, when a write is taken, what may never be taken back,
and the canonical forms of what is kept sparse. -/

namespace Sys2Proof.Machine

/-- The value of a register field. -/
def State.reg (s : State) (page : Nat) (f : Fld) (i : Nat := 0) (j : Nat := 0) : Nat := s.dev.body.rd page f i j

/-- Whether an event bit of a page is pending. -/
def State.evt (s : State) (page n : Nat) : Prop := s.reg page (evtPend n) = 1

/-- Whether a fault bit of a page is set. -/
def State.flt (s : State) (page n : Nat) : Prop := s.reg page (fltStat n) = 1

/-- Counter `i` of a page. -/
def State.ctr (s : State) (page i : Nat) : Nat := s.dev.body.ctr page i

/-- The entry of a table. -/
def State.ent (s : State) (tid idx : Nat) : Nat := s.dev.body.ent tid idx

/-- The engine runs, with the clock domains that a command needs. -/
def State.runs (s : State) (doms : List Nat) : Prop := s.dev.runs doms = true

/-- A write of a word of BAR0 by a master is carried out: the engine runs with the register fabric, BAR0 answers (R390), the
master is one that writes (R37) and reaches the address (R362). -/
structure State.reaches (s : State) (m a : Nat) : Prop where
  runs : s.runs [2]
  bar0 : s.dev.body.boot.bar0 = true
  known : Master.known m = true
  notBmc : m ≠ Master.bmc
  reach : s.dev.body.masterReach m a true = true

/-- A write of a block register by a master is taken: it is carried out, and no soft reset of the page is under way (R44). -/
structure State.takes (s : State) (m a : Nat) : Prop extends s.reaches m a where
  idle : s.reg (pageOf a) R.PG_RESET_BUSY = 0

/-- A read of a word of BAR0 by a master is answered. -/
structure State.answers (s : State) (m a : Nat) : Prop where
  runs : s.runs [2]
  bar0 : s.dev.body.boot.bar0 = true
  known : Master.known m = true
  reach : s.dev.body.masterReach m a false = true

/-- A page of a kind, by its address (R41). -/
structure PageIs (p : Nat) (k : PK) : Prop where
  aligned : p % 0x1000 = 0
  inside : p < 0x1000000
  kind : pageKind (p / 0x1000) = some k

/-- The registers that an effect may change by what follows it: the coalesce counts of the ICU's banks (R449), and Survey's pending
events, event overruns and wraps (R472). -/
def notedAt (a : Nat) : Bool :=
  a == 0x40A4 || a == 0x50A4 || a == 0x7020 || a == 0x7030 || a == 0x7098 || a == 0x709C

/-- What follows an effect leaves a register alone: Survey stands still, or the register is none of those it may change. -/
def State.steady (s : State) (a : Nat) : Prop :=
  s.reg Pg.survey R.SVY_RUN = 0 ∨ notedAt a = false

/-- Every register outside some pages holds what it held, but for those that what follows an effect may change. -/
def State.sameRegs (s t : State) (pages : List Nat) : Prop :=
  ∀ (q : Nat) (g : Fld) (x y : Nat), g.lo < 32 → notedAt (g.addr q x y) = false → pageOf (g.addr q x y) ∉ pages →
    t.reg q g x y = s.reg q g x y

/-- What a command leaves alone: every register outside some pages, every counter, entry and memory, and what is sticky. -/
structure State.keeps (s t : State) (pages : List Nat) : Prop where
  regs : s.sameRegs t pages
  ctrs : t.dev.body.ctrs = s.dev.body.ctrs
  tbls : t.dev.body.tbls = s.dev.body.tbls
  mem : t.dev.body.mem = s.dev.body.mem
  sticky : t.dev.sticky = s.dev.sticky

/-- A thread issues an instruction: it runs, the word at its program counter is read without fault and is a defined instruction, and no
error of its register file is armed. -/
structure State.issues (s : State) (th w : Nat) : Prop where
  runs : s.runs [14]
  here : s.dev.body.issues th = true
  word : s.dev.body.fetch th = .ok w
  defined : undefinedWord w = false
  sound : (s.dev.body.thr th).rfArm = false

/-- An instruction of a thread completes: the value is in its destination register (G0 stays zero), every other register holds what it
held, the program counter is where the instruction leaves it, and no other thread's registers have changed. -/
structure State.retires (s t : State) (th d v pc : Nat) : Prop where
  dest : t.dev.body.greg th d = if d = 0 then 0 else v
  others : ∀ r, r ≠ d → t.dev.body.greg th r = s.dev.body.greg th r
  pc : (t.dev.body.thr th).pc = pc
  threads : ∀ j, j ≠ th → (t.dev.body.thr j).regs = (s.dev.body.thr j).regs ∧ (t.dev.body.thr j).pc = (s.dev.body.thr j).pc

/-- Outside its thread an instruction leaves alone every block register, entry and byte of memory, and what is sticky. -/
structure State.within (s t : State) : Prop where
  regs : s.sameRegs t []
  tbls : t.dev.body.tbls = s.dev.body.tbls
  mem : t.dev.body.mem = s.dev.body.mem
  sticky : t.dev.sticky = s.dev.sticky

/-- A thread faults at its instruction (R377): it is HALTED with the cause and the address, counted and reported, and the instruction has
no effect. A customer thread's fault tells thread 0 of its core. -/
structure State.faults (s t : State) (th cause addr : Nat) : Prop where
  halted : t.reg (Pg.core (th / 8) 1) R.GRT_TH_STATE (th % 8) = TH_HALTED
  cause : t.reg (Pg.core (th / 8) 1) R.GRT_TH_CAUSE (th % 8) = cause
  addr : t.reg (Pg.core (th / 8) 1) R.GRT_TH_FADDR (th % 8) = addr % 2 ^ 32
  count : t.ctr (Pg.core (th / 8) 3) (4 * (th % 8) + 2) = (s.ctr (Pg.core (th / 8) 3) (4 * (th % 8) + 2) + 1) % 2 ^ 64
  regs : (t.dev.body.thr th).regs = (s.dev.body.thr th).regs
  pc : (t.dev.body.thr th).pc = (s.dev.body.thr th).pc
  mem : t.dev.body.mem = s.dev.body.mem
  tbls : t.dev.body.tbls = s.dev.body.tbls
  customer : isCust th = true → bitOn (t.dev.body.thr (8 * (th / 8))).pend 27 = true ∧ t.flt (Pg.core (th / 8) 0) R.GRT_FLT_THREAD
  vendor : isCust th = false → t.flt (Pg.core (th / 8) 0) R.GRT_FLT_SUPV

/-- The kinds of pages whose block registers take a written word by access type alone. -/
def plainKinds : List PK :=
  [.msec, .parser, .act, .rew, .chmQ, .chmPC, .schPort, .schSvc, .schSub, .schQ, .schState, .lkp, .echo1]

/-- The kinds of pages whose block does nothing that a soft reset must end or that its registers show. -/
def stillKinds : List PK :=
  [.vault, .exm, .exmCtx, .lpm, .cls, .lkp, .stc, .rim, .sump, .hbm1, .hbm3, .cplx0, .rew, .msec, .parser, .parserPort, .act,
    .schPort, .schSvc, .schSub, .schQ, .schState, .chmQ, .chmPC]

/-- The fuses and the flash only move forward: a provisioned key slot keeps its hash, a revoked slot stays revoked, a security
version never falls (R397, R398), and the boot flash keeps every byte (R392). -/
structure Sticky.Le (x y : Sticky) : Prop where
  prov : ∀ e ∈ x.prov, e ∈ y.prov
  revoked : ∀ n ∈ x.revoked, n ∈ y.revoked
  svnV : x.svnV ≤ y.svnV
  svnC : x.svnC ≤ y.svnC
  flash : y.flash = x.flash

/-- Every memory of the engine lists its bytes in the canonical form. -/
def Memory.wf (m : MemSt) : Bool := Mem.wf m.sump && Mem.wf m.far0 && Mem.wf m.far1 && Mem.wf m.grt && Mem.wf m.host

end Sys2Proof.Machine

namespace Sys2Proof

/-- The commands that act whatever state the engine is in: resets, the Lamp's power and sensors, and the service ports. -/
def Instr.always (i : Instr) : Bool :=
  match i with
  | .engineResetAssert => true
  | .engineResetRelease _ _ _ => true
  | .lampPowerOn _ _ _ _ _ => true
  | .lampPowerLoss => true
  | .brownoutStart => true
  | .brownoutEnd => true
  | .thermalResetHoldEnd => true
  | .glowwormTrip _ => true
  | .glowwormRearm _ => true
  | .sysrefLoss => true
  | .sysrefReturn => true
  | .sensorSample _ _ _ => true
  | .i3cAddressWrite _ => true
  | .i3cPrivateRead _ => true
  | .i3cCcc _ => true
  | .jtagInstruction _ => true
  | _ => false

end Sys2Proof
end

