-- ==== Sys2Proof/Certificates/Slice0/Obligations.lean ====
section
/-! DEFINITION. The statements about the model. -/

open Sys2Proof Sys2Proof.Machine

/-! Steps and the form of a command. -/

/-- For every command and state, a step with the command at the front of the queue is the command's effect on the state with the
rest of the queue. -/
def Obligations.StepRunsFrontCommand : Prop :=
  ∀ (c : Instr) (s : State), step { s with pending := c :: s.pending } = exec c s

/-- With no command waiting a step is 2 ns of time: nothing but time goes by where VDD_LAMP is absent, and elsewhere the clock
moves by 2 ns (the model's choice: log entry 2). -/
def Obligations.IdleStepPassesTime : Prop :=
  ∀ s : State, s.pending = [] →
    ∃ t, step s = .next t ∧ t.pending = [] ∧ t.dev.sticky = s.dev.sticky ∧
      (s.dev.body.sup.mode = .off → t = s) ∧
      (s.dev.body.sup.mode ≠ .off → t.dev.body.clk = s.dev.body.clk + 2)

/-- Every command answers a next state, and leaves the queue alone: no command faults, none is refused. -/
def Obligations.EveryCommandAnswers : Prop :=
  ∀ (c : Instr) (s : State), ∃ t, exec c s = .next t ∧ t.pending = s.pending

/-- While the engine is held in reset, in the brown-out hold, too hot, tripped or without power, a command changes nothing unless
it is one of the Lamp's, of the resets or of the service ports (R288, R501). An operand that names nothing the engine has makes a command
change nothing (the model's choice: log entry 3). -/
def Obligations.IgnoredCommandsChangeNothing : Prop :=
  ∀ (c : Instr) (s : State), (s.dev.body.sup.mode ≠ .running ∧ c.always = false) ∨ c.wf = false → exec c s = .next s

/-! Register accesses. -/

/-- A write of a register that holds one RW field, on a page whose block gives its registers no rules of their own, sets the field
from the word's bits. It changes no other field, counter, entry or memory, and nothing that is sticky. -/
def Obligations.RegisterWriteSetsRwField : Prop :=
  ∀ (m p off v : Nat) (k : PK) (f : Fld) (i j : Nat) (s : State), PageIs p k → k ∈ plainKinds → 0x80 ≤ off → off < 0x800 →
    off % 4 = 0 → k.fieldsAt off = [(f, i, j)] → f.acc = .rw → v < 2 ^ 32 → s.takes m (p + off) →
    ∃ t, exec (.registerWrite m (p + off) v true) s = .next t ∧ t.reg p f i j = bitField v f.hi f.lo ∧
      (∀ (q : Nat) (g : Fld) (x y : Nat), g.lo < 32 → notedAt (g.addr q x y) = false → g.key q x y ≠ f.key p i j →
        t.reg q g x y = s.reg q g x y) ∧
      t.dev.body.ctrs = s.dev.body.ctrs ∧ t.dev.body.tbls = s.dev.body.tbls ∧ t.dev.body.mem = s.dev.body.mem ∧
      t.dev.sticky = s.dev.sticky

/-- R38: a write whose byte enables do not cover all four bytes is dropped, and FLT_ACCESS is set in the page it addressed, or in
the bulk aperture control page; at an address with no page behind it, it sets nothing. Nothing else changes. -/
def Obligations.PartialWriteIsDropped : Prop :=
  ∀ (m addr v : Nat) (s : State), s.runs [2] → s.dev.body.boot.bar0 = true → Master.known m = true → addrOk addr = true →
    v < 2 ^ 32 →
    (placeOf addr = .nothing → exec (.registerWrite m addr v false) s = .next s) ∧
    (placeOf addr ≠ .nothing → ∃ t, exec (.registerWrite m addr v false) s = .next t ∧
      t.flt (if 0x1000000 ≤ addr then Pg.aperture else pageOf addr) FLT_ACCESS ∧
      (∀ (q : Nat) (g : Fld) (x y : Nat), g.lo < 32 → s.steady (g.addr q x y) →
        (g.addr q x y ≠ (if 0x1000000 ≤ addr then Pg.aperture else pageOf addr) + 0x40 ∨ g.lo ≠ FLT_ACCESS) →
        t.reg q g x y = s.reg q g x y) ∧
      t.dev.body.ctrs = s.dev.body.ctrs ∧ t.dev.body.tbls = s.dev.body.tbls ∧ t.dev.body.mem = s.dev.body.mem ∧
      t.dev.body.win = s.dev.body.win ∧ t.dev.sticky = s.dev.sticky)

/-- R9: a read of a register that holds an RC field answers its value and clears it, whichever master reads; the lane pages, whose
port registers have a rule of their own, hold no RC field. EVT_OVR of every page is such a field. -/
def Obligations.ReadClearsRcField : Prop :=
  (∀ (m p off : Nat) (k : PK) (f : Fld) (i j : Nat) (s : State), PageIs p k → 0x80 ≤ off → off < 0x800 → off % 4 = 0 →
    k.fieldsAt off = [(f, i, j)] → f.acc = .rc → s.answers m (p + off) → s.reg p R.PG_RESET_BUSY = 0 → s.steady (p + off) →
    ∃ t, exec (.clearOnRead m (p + off)) s = .next t ∧ t.dev.body.rdata = [s.reg p f i j * 2 ^ f.lo] ∧ t.reg p f i j = 0 ∧
      t.dev.body.ctrs = s.dev.body.ctrs ∧ t.dev.body.tbls = s.dev.body.tbls ∧ t.dev.body.mem = s.dev.body.mem ∧
      t.dev.sticky = s.dev.sticky) ∧
  (∀ (m p : Nat) (k : PK) (s : State), PageIs p k → s.answers m (p + 0x30) → s.steady (p + 0x30) →
    ∃ t, exec (.clearOnRead m (p + 0x30)) s = .next t ∧ t.dev.body.rdata = [s.reg p R.EVT_OVR] ∧ t.reg p R.EVT_OVR = 0)

/-- R44: a write of 1 to PG_SRST sets PG_RESET_BUSY. On a page whose block does nothing that a reset must end, it returns every
block register to its reset value, and changes no counter, table entry, memory or lock (on the Sump's page, the reset masks of SUMP_MAP
move what its addresses name). The end of the reset clears
PG_RESET_BUSY and changes no other register. R46: PG_LOCK_SET locks the page, and stays set; a write to an RWL field of a locked page is
dropped and sets FLT_LOCK_VIOL, where the page is the Survey permission page and the master is not a customer thread. -/
def Obligations.PageResetAndLock : Prop :=
  (∀ (m p : Nat) (k : PK) (s : State), PageIs p k → s.reaches m (p + 0x10) →
    ∃ t, exec (.softReset p m) s = .next t ∧ t.reg p R.PG_RESET_BUSY = 1 ∧
      (k ∈ stillKinds → ∀ (f : Fld) (i j : Nat), f ∈ k.flds → f.acc ≠ .rwl → i < f.cnt → j < f.cnt2 →
        t.reg p f i j = f.reset i % 2 ^ f.width) ∧
      (k ∈ stillKinds → t.dev.body.ctrs = s.dev.body.ctrs ∧ t.dev.body.tbls = s.dev.body.tbls ∧
        (k ≠ .sump → t.dev.body.mem = s.dev.body.mem) ∧ t.dev.sticky = s.dev.sticky)) ∧
  (∀ (p : Nat) (k : PK) (s : State), PageIs p k → s.runs [2] →
    ∃ t, exec (.softResetDone p) s = .next t ∧ t.reg p R.PG_RESET_BUSY = 0 ∧
      (∀ (q : Nat) (g : Fld) (x y : Nat), g.lo < 32 → s.steady (g.addr q x y) → g.key q x y ≠ R.PG_RESET_BUSY.key p 0 0 →
        t.reg q g x y = s.reg q g x y) ∧
      t.dev.body.ctrs = s.dev.body.ctrs ∧ t.dev.body.tbls = s.dev.body.tbls ∧ t.dev.sticky = s.dev.sticky) ∧
  (∀ (m p : Nat) (k : PK) (s : State), PageIs p k → s.reaches m (p + 0x64) →
    ∃ t, exec (.pageLock p m) s = .next t ∧ t.dev.pageLocked p = true ∧ t.dev.body = s.dev.body ∧
      (∀ q, s.dev.pageLocked q = true → t.dev.pageLocked q = true)) ∧
  (∀ (m v i : Nat) (s : State), i < 2 → v < 2 ^ 32 → Master.isCustomer m = false → s.takes m (R.SVY_USER_CFG.addr Pg.survey i 0) →
    s.dev.pageLocked Pg.survey = true →
    ∃ t, exec (.registerWrite m (R.SVY_USER_CFG.addr Pg.survey i 0) v true) s = .next t ∧ t.flt Pg.survey FLT_LOCK_VIOL ∧
      t.reg Pg.survey R.SVY_USER_CFG i = s.reg Pg.survey R.SVY_USER_CFG i)

/-- R42: every event of a page that EVT_INJ selects is pending after it, exactly as its source would make it (R43: whether or not it is
enabled), and one that was pending already is counted in EVT_OVR (R447); a Governor stall stalls (R32). A fault that FLT_INJ selects is set,
and reported where FLT_EN is 1 (R457); a detector that finds its error in a packet, a buffer, a record or a wake is armed for the next, and
the Lamp's trips the engine. -/
def Obligations.InjectedEventsAndFaults : Prop :=
  (∀ (m p v : Nat) (k : PK) (s : State), PageIs p k → v < 2 ^ 32 → s.reaches m (p + 0x2C) →
    ∃ t, exec (.eventInject p m v) s = .next t ∧ (∀ n ∈ k.evts, bitOn v n = true → t.evt p n) ∧
      (p = Pg.governor → bitOn v R.GOV_EVT_STALL = true → t.dev.body.gov.frozen = true ∧
        ∀ loop, loop < 6 → t.reg Pg.governor R.GOV_MODE_EFF loop = 1)) ∧
  (∀ (m p n : Nat) (k : PK) (s : State), PageIs p k → n ∈ k.evts → s.reaches m (p + 0x2C) → s.steady (p + 0x20) → s.steady (p + 0x30) →
    ∃ t, exec (.eventInject p m (2 ^ n)) s = .next t ∧
      (s.evt p n → t.reg p R.EVT_OVR = min (s.reg p R.EVT_OVR + 1) (2 ^ 32 - 1)) ∧
      (¬ s.evt p n → t.reg p R.EVT_OVR = s.reg p R.EVT_OVR)) ∧
  (∀ (m p n : Nat) (k : PK) (s : State), PageIs p k → n ∈ k.fltBits → s.reaches m (p + 0x48) →
    let armed : List (PK × Nat) := [(.lamp, 0), (.galPower, 0), (.fmu, 0), (.pool, 0), (.parser, 0), (.act, 1), (.preclass, 0)]
    ∃ t, exec (.faultInject p m (2 ^ n)) s = .next t ∧
      ((k, n) ∉ armed → t.flt p n ∧
        (s.reg p (fltEn n) = 1 → ∃ r, t.dev.body.irq.reports = s.dev.body.irq.reports ++ [r] ∧ r.page = p ∧ r.bit = n ∧
          r.at_ = s.dev.body.clk) ∧
        (s.reg p (fltEn n) = 0 → t.dev.body.irq.reports = s.dev.body.irq.reports)) ∧
      ((k, n) = (.lamp, 0) → t.dev.body.sup.mode = .tripped ∧ t.reg Pg.lamp R.TH_TRIP_LAST = 1) ∧
      ((k, n) = (.galPower, 0) → (t.dev.body.gp (galOf p)).arm = true) ∧
      ((k, n) = (.fmu, 0) → t.dev.body.irq.recArm = true) ∧
      ((k, n) = (.pool, 0) → p / 0x1000 % 0x10 ∈ t.dev.body.buf.bitArm ∨ ∃ i, (p / 0x1000 % 0x10, i) ∈ t.dev.body.buf.bitBad) ∧
      ((k, n) = (.parser, 0) → galOf p ∈ t.dev.body.pipe.parserArm) ∧
      ((k, n) = (.act, 1) → galOf p ∈ t.dev.body.pipe.ucodeArm) ∧
      ((k, n) = (.preclass, 0) → galOf p ∈ t.dev.body.net.entEcc))

/-- R50 to R52, R49: the first write of a word of an entry of several words begins its assembly; a write of another master is
dropped and leaves the assembly; 100 µs end it; so does a write of the aperture's control register, which selects the table and
the base. A read through a window answers the word of the entry as it stands, and the reader's other words come from the snapshot that
its first read took; here the window shows counters of a page. -/
def Obligations.WindowEntries : Prop :=
  (∀ (m addr v tid idx : Nat) (s : State), s.reaches m addr → winOk addr = true → v < 2 ^ 32 → placeOf addr = .window →
    pageOf addr ≠ Pg.boot → (s.dev.body.viewOf addr).of = .ent tid idx →
    (s.dev.body.viewOf addr).off + 4 < (s.dev.body.viewOf addr).stride →
    (∀ a ∈ s.dev.body.win.asm, a.win ≠ Body.winOf addr) →
    ∃ t, exec (.windowWordWrite m addr v) s = .next t ∧
      t.dev.body.win.asm = s.dev.body.win.asm ++
        [{ win := Body.winOf addr, owner := m, of := .ent tid idx, words := [((s.dev.body.viewOf addr).off / 4, v)] }] ∧
      t.dev.body.tbls = s.dev.body.tbls) ∧
  (∀ (m addr v tid idx : Nat) (a : Assembly) (s : State), s.reaches m addr → winOk addr = true → v < 2 ^ 32 →
    placeOf addr = .window → pageOf addr ≠ Pg.boot → (s.dev.body.viewOf addr).of = .ent tid idx →
    s.dev.body.win.asm.find? (fun a => a.win == Body.winOf addr) = some a → a.owner ≠ m →
    ∃ t, exec (.windowWordWrite m addr v) s = .next t ∧ t.dev.body.win = s.dev.body.win ∧ t.dev.body.tbls = s.dev.body.tbls ∧
      t.flt (if 0x1000000 ≤ addr then Pg.aperture else pageOf addr) FLT_ACCESS) ∧
  (∀ (m addr : Nat) (s : State), s.runs [2] → winOk addr = true → Master.known m = true →
    (∃ a ∈ s.dev.body.win.asm, a.win = Body.winOf addr ∧ a.owner = m) →
    ∃ t, exec (.assemblyTimeout addr m) s = .next t ∧ (∀ a ∈ t.dev.body.win.asm, a.win ≠ Body.winOf addr) ∧
      t.dev.body.tbls = s.dev.body.tbls ∧
      (addr < 0x1000000 → t.flt (pageOf addr) FLT_ACCESS)) ∧
  (∀ (a m v : Nat) (s : State), a < 12 → v < 2 ^ 32 → s.takes m (R.TBL_AP_TABLE.addr Pg.aperture a 0) →
    ∃ t, exec (.apertureCtrlWrite a m v) s = .next t ∧ t.reg Pg.aperture R.TBL_AP_TABLE a = bitField v 31 24 ∧
      t.reg Pg.aperture R.TBL_AP_BASE a = bitField v 23 0 ∧
      (∀ x ∈ t.dev.body.win.asm, x.win ≠ 0x1000000 + 0x400000 * a) ∧
      (∀ x ∈ t.dev.body.win.snaps, x.win ≠ 0x1000000 + 0x400000 * a)) ∧
  (∀ (m addr page i : Nat) (s : State), s.answers m addr → winOk addr = true → placeOf addr = .window →
    (s.dev.body.viewOf addr).of = .ctr page i → (s.dev.body.viewOf addr).live = false →
    ∃ t, exec (.windowSnapshotRead m addr) s = .next t ∧ t.dev.body.ctrs = s.dev.body.ctrs ∧
      t.dev.body.tbls = s.dev.body.tbls ∧ t.dev.body.regs = s.dev.body.regs ∧
      (∀ x, s.dev.body.win.snaps.find? (fun x => x.win == Body.winOf addr && x.reader == m && x.of == .ctr page i) = some x →
        t.dev.body.rdata = [bitField x.val (8 * (s.dev.body.viewOf addr).off + 31) (8 * (s.dev.body.viewOf addr).off)]) ∧
      (s.dev.body.win.snaps.find? (fun x => x.win == Body.winOf addr && x.reader == m && x.of == .ctr page i) = none →
        t.dev.body.rdata = [bitField (s.ctr page i) (8 * (s.dev.body.viewOf addr).off + 31) (8 * (s.dev.body.viewOf addr).off)] ∧
        ((s.dev.body.viewOf addr).off + 4 < (s.dev.body.viewOf addr).stride →
          ∃ x ∈ t.dev.body.win.snaps, x.win = Body.winOf addr ∧ x.reader = m ∧ x.of = .ctr page i ∧ x.val = s.ctr page i)))

/-! Cairn and the Governor. -/

/-- R66, R67, R69: what BEGIN, COMMIT, ABORT and RELEASE do to their slot, from a master that may issue them, what they leave alone, and
where they are ignored, with the events that say why: one that the slot's state does not list or a BEGIN of a master that has a bound slot
(BADCMD), one of a master that is not the owner (OWNER), or both. A COMMIT that fails a check of R58 ends the slot with the result of the
first check that fails. -/
def Obligations.CairnSlotCommands : Prop :=
  ∀ (n m : Nat) (s : State), n < 8 → s.takes m (R.CAIRN_CMD.addr Pg.cairn n 0) →
    let st := s.reg Pg.cairn R.CAIRN_STATE n
    let mine := s.reg Pg.cairn R.CAIRN_OWNER n = m
    let zeroed := [R.CAIRN_EPOCH_TO, R.CAIRN_REG_CNT, R.CAIRN_ENT_CNT, R.CAIRN_ERRADDR, R.CAIRN_APSEC, R.CAIRN_APNS, R.CAIRN_LATE]
    let config := [R.CAIRN_MODE, R.CAIRN_TNS, R.CAIRN_TSECLO, R.CAIRN_TSECHI]
    let same := fun (t : State) (l : List Fld) => (∀ f ∈ l, t.reg Pg.cairn f n = s.reg Pg.cairn f n) ∧ s.keeps t [Pg.cairn]
    let ignored := fun (c : Instr) (foreign bad : Prop) => ∃ t, exec c s = .next t ∧
      (foreign → t.evt Pg.cairn R.CAIRN_EVT_OWNER) ∧ (¬ foreign → (t.evt Pg.cairn R.CAIRN_EVT_OWNER ↔ s.evt Pg.cairn R.CAIRN_EVT_OWNER)) ∧
      (bad → t.evt Pg.cairn R.CAIRN_EVT_BADCMD) ∧ (¬ bad → (t.evt Pg.cairn R.CAIRN_EVT_BADCMD ↔ s.evt Pg.cairn R.CAIRN_EVT_BADCMD)) ∧
      t.dev.body.cairn = s.dev.body.cairn ∧ same t (R.CAIRN_STATE :: R.CAIRN_OWNER :: R.CAIRN_RESULT :: zeroed ++ config)
    let done := fun (t : State) (r : Nat) => t.reg Pg.cairn R.CAIRN_STATE n = CS_DONE ∧ t.reg Pg.cairn R.CAIRN_RESULT n = r ∧
      t.dev.body.slot n = {} ∧ t.evt Pg.cairn (R.CAIRN_EVT_DONE + n) ∧ s.keeps t [Pg.cairn]
    let rests := st = CS_IDLE ∨ st = CS_DONE
    let commits := st = CS_OPEN ∨ st = CS_POISONED
    let lives := CS_OPEN ≤ st ∧ st ≤ CS_PENDING
    (rests → s.dev.body.boundSlot m = none →
      ∃ t, exec (.cairnBegin n m) s = .next t ∧ t.reg Pg.cairn R.CAIRN_STATE n = CS_OPEN ∧ t.reg Pg.cairn R.CAIRN_OWNER n = m ∧
        t.reg Pg.cairn R.CAIRN_RESULT n = CR_NONE ∧ t.dev.body.slot n = { bound := some m } ∧
        (∀ f ∈ zeroed, t.reg Pg.cairn f n = 0) ∧ same t config) ∧
    (rests → s.dev.body.boundSlot m ≠ none → ignored (.cairnBegin n m) False True) ∧
    (¬ rests → ignored (.cairnBegin n m) (¬ mine) True) ∧
    (mine → st = CS_OPEN → s.dev.body.commitFails n = none →
      ∃ t, exec (.cairnCommit n m) s = .next t ∧ t.reg Pg.cairn R.CAIRN_STATE n = CS_VALIDATE ∧
        t.dev.body.slot n = { s.dev.body.slot n with bound := none } ∧ s.keeps t [Pg.cairn]) ∧
    (∀ r, mine → st = CS_OPEN → s.dev.body.commitFails n = some r → ∃ t, exec (.cairnCommit n m) s = .next t ∧ done t r) ∧
    (mine → st = CS_POISONED → ∃ t, exec (.cairnCommit n m) s = .next t ∧ done t (s.reg Pg.cairn R.CAIRN_RESULT n)) ∧
    (¬ mine ∨ ¬ commits → ignored (.cairnCommit n m) (¬ mine) (¬ commits)) ∧
    (m = Master.host ∨ mine → lives → ∃ t, exec (.cairnAbort n m) s = .next t ∧ done t CR_ABORTED) ∧
    ((m ≠ Master.host ∧ ¬ mine) ∨ ¬ lives → ignored (.cairnAbort n m) (m ≠ Master.host ∧ ¬ mine) (¬ lives)) ∧
    (mine → st = CS_DONE → ∃ t, exec (.cairnRelease n m) s = .next t ∧ t.reg Pg.cairn R.CAIRN_STATE n = CS_IDLE ∧
      t.reg Pg.cairn R.CAIRN_RESULT n = CR_NONE ∧ t.dev.body.slot n = s.dev.body.slot n ∧
      same t (R.CAIRN_OWNER :: zeroed ++ config)) ∧
    (¬ mine ∨ st ≠ CS_DONE → ignored (.cairnRelease n m) (¬ mine) (st ≠ CS_DONE))

/-- R58, R65, R522: validation of a slot ends in PENDING where no staged target has an uncorrectable error in the staging store and none
fails its block's rules, in DONE with ECC where one has such an error (which ones have is open), and in DONE with INVALID otherwise; either
way CAIRN_ERRADDR holds the lowest failing address. Nothing staged becomes visible. A slot that stays in PENDING for longer than
CAIRN_WAIT_LIMIT sets its event once. R59, R60, R61, R69: a slot that is due leaves PENDING with APPLIED at one edge, where no slot before it
is due there; the epoch is the next one modulo 4 and the slot records it; what it staged is gone from it, and the value that each
epoch-governed target held stands in the version store. Slots before it that are due apply first. Where it stages one word of action-engine
microcode, the word holds the staged value, no other entry changes, and the slot records the time. -/
def Obligations.CairnValidationAndApply : Prop :=
  (∀ (n : Nat) (s : State), n < 8 → s.runs [2] →
    let b := s.dev.body
    let st := s.reg Pg.cairn R.CAIRN_STATE n
    let ecc := fun (x : Staged) => x ∈ (b.slot n).staged ∧ Config.stagingEcc b.fresh x.addr = true
    let bad := fun (x : Staged) => x ∈ (b.slot n).staged ∧
      b.targetFails (b.overlay (b.slot n).staged) (b.slot n).staged x = true
    let fails := fun (x : Staged) => ecc x ∨ bad x
    let lim := s.reg Pg.cairn R.CAIRN_WAIT_LIMIT * 1000
    let late := if s.reg Pg.cairn R.CAIRN_MODE n = 2 then (b.slotTarget n + lim) * 65536 < b.tod else (b.slot n).since + lim < b.clk
    (st = CS_VALIDATE → (∀ x, ¬ fails x) →
      ∃ t, exec (.cairnValidateDone n) s = .next t ∧ t.reg Pg.cairn R.CAIRN_STATE n = CS_PENDING ∧
        (t.dev.body.slot n).staged = (b.slot n).staged ∧ (t.dev.body.slot n).since = b.clk ∧ s.keeps t [Pg.cairn]) ∧
    (st = CS_VALIDATE → ∀ x, fails x → (∀ y, fails y → x.addr ≤ y.addr) → x.addr < 2 ^ 32 →
      ∃ t, exec (.cairnValidateDone n) s = .next t ∧ t.reg Pg.cairn R.CAIRN_STATE n = CS_DONE ∧
        ((∃ y, ecc y) → t.reg Pg.cairn R.CAIRN_RESULT n = CR_ECC) ∧ ((∀ y, ¬ ecc y) → t.reg Pg.cairn R.CAIRN_RESULT n = CR_INVALID) ∧
        t.reg Pg.cairn R.CAIRN_ERRADDR n = x.addr ∧ t.dev.body.slot n = {} ∧ t.evt Pg.cairn (R.CAIRN_EVT_DONE + n) ∧
        s.keeps t [Pg.cairn]) ∧
    (st ≠ CS_VALIDATE → exec (.cairnValidateDone n) s = .next s) ∧
    (st = CS_PENDING → (b.slot n).waitSeen = false → late →
      ∃ t, exec (.cairnWaitExceeded n) s = .next t ∧ t.evt Pg.cairn R.CAIRN_EVT_WAIT ∧
        t.dev.body.slot n = { b.slot n with waitSeen := true } ∧ s.keeps t [Pg.cairn]) ∧
    (st ≠ CS_PENDING ∨ (b.slot n).waitSeen = true ∨ ¬ late → exec (.cairnWaitExceeded n) s = .next s)) ∧
  (∀ (n : Nat) (s : State), n < 8 → s.runs [2] → s.reg Pg.cairn R.CAIRN_STATE n = CS_PENDING → s.dev.body.modeDue n = true →
    let b := s.dev.body.retireViews
    let due := fun (k : Nat) => s.reg Pg.cairn R.CAIRN_STATE k = CS_PENDING ∧ b.applyRoom k = true ∧ b.modeDue k = true
    let f := s.dev.body.cairn.flips + 1
    (due n → (∀ k < n, ¬ due k) →
      ∃ t, exec (.cairnApply n) s = .next t ∧ t.reg Pg.cairn R.CAIRN_STATE n = CS_DONE ∧
        t.reg Pg.cairn R.CAIRN_RESULT n = CR_APPLIED ∧ t.dev.body.slot n = {} ∧ t.evt Pg.cairn (R.CAIRN_EVT_DONE + n) ∧
        t.dev.body.cairn.flips = f ∧ t.reg Pg.cairn R.CAIRN_EPOCH_CUR = f % 4 ∧ t.reg Pg.cairn R.CAIRN_EPOCH_TO n = f % 4 ∧
        (∀ x ∈ (s.dev.body.slot n).staged, x.tgt.governed = true →
          ({ flip := f, tgt := x.tgt, val := b.targetNow x.tgt } : OldVal) ∈ t.dev.body.cairn.old) ∧
        (∀ (g w v a : Nat), (s.dev.body.slot n).staged = [{ tgt := .patch g w, val := v, addr := a }] →
          t.reg Pg.cairn R.CAIRN_APNS n = s.dev.body.todNs % 2 ^ 30 ∧
          t.dev.body.tbls = Sp.set 0 s.dev.body.tbls (entKey (Tbl.patch g) w) v)) ∧
    ((∃ k < n, due k) → ∃ t, exec (.cairnApply n) s = .next t ∧ f ≤ t.dev.body.cairn.flips))

/-- R27, R30, R32, R33, R34: what the commands of the Governor do. A mode requested takes effect where no action runs and the loops are not
frozen, and a change is logged with reason RESUME. The heartbeat counts from a Governor thread alone; a stall puts every loop in HANDS_OFF,
freezes the actuators, and reports a fault, once; the read index may not pass the write index. -/
def Obligations.GovernorCommands : Prop :=
  ∀ (m : Nat) (s : State),
    let free := fun (loop : Nat) => s.dev.body.gov.frozen = false ∧ s.reg Pg.governor R.GOV_BUSY loop = 0
    let wr := s.reg Pg.governor R.GOV_LOG_WR
    let resumed := fun (t : State) (loop : Nat) =>
      t.reg Pg.governor R.GOV_MODE_EFF loop ≠ s.reg Pg.governor R.GOV_MODE_EFF loop → s.reg Pg.governor R.GOV_LOG_EN loop = 1 →
        t.reg Pg.governor R.GOV_LOG_WR = (wr + 1) % 2 ^ 32 ∧ t.reg Pg.governor R.GOV_LAST_REASON loop = RSN_RESUME
    (∀ loop mode, loop < 6 → mode < 2 → s.takes m (R.GOV_MODE.addr Pg.governor loop 0) →
      ∃ t, exec (.govModeWrite loop mode m) s = .next t ∧ t.reg Pg.governor R.GOV_MODE loop = mode ∧
        (free loop → t.reg Pg.governor R.GOV_MODE_EFF loop = mode) ∧
        (¬ free loop → t.reg Pg.governor R.GOV_MODE_EFF loop = s.reg Pg.governor R.GOV_MODE_EFF loop) ∧ resumed t loop ∧
        s.keeps t [Pg.governor]) ∧
    (∀ loop mode, loop < 6 → 2 ≤ mode → mode < 4 → s.takes m (R.GOV_MODE.addr Pg.governor loop 0) →
      ∃ t, exec (.govModeWrite loop mode m) s = .next t ∧ t.evt Pg.governor R.GOV_EVT_BADMODE ∧
        t.reg Pg.governor R.GOV_MODE loop = s.reg Pg.governor R.GOV_MODE loop ∧
        t.reg Pg.governor R.GOV_MODE_EFF loop = s.reg Pg.governor R.GOV_MODE_EFF loop ∧ s.keeps t [Pg.governor]) ∧
    (∀ loop, loop < 6 → s.runs [2] →
      ∃ t, exec (.govModeApply loop) s = .next t ∧ (free loop →
          t.reg Pg.governor R.GOV_MODE_EFF loop = s.reg Pg.governor R.GOV_MODE loop % 2) ∧
        (¬ free loop → t.reg Pg.governor R.GOV_MODE_EFF loop = s.reg Pg.governor R.GOV_MODE_EFF loop) ∧ resumed t loop ∧
        s.keeps t [Pg.governor]) ∧
    (∀ v, v < 2 ^ 32 → s.takes m (R.GOV_HEARTBEAT.addr Pg.governor 0 0) →
      ∃ t, exec (.govHeartbeat m v) s = .next t ∧ s.keeps t [Pg.governor] ∧
        (Master.isGovernor m = true → t.reg Pg.governor R.GOV_HEARTBEAT = v) ∧
        (Master.isGovernor m = false → t.reg Pg.governor R.GOV_HEARTBEAT = s.reg Pg.governor R.GOV_HEARTBEAT ∧
          t.evt Pg.governor R.GOV_EVT_OWNER)) ∧
    (s.runs [2] → s.dev.body.gov.frozen = false →
      ∃ t, exec .govStall s = .next t ∧ t.dev.body.gov.frozen = true ∧
        (∀ loop, loop < 6 → t.reg Pg.governor R.GOV_MODE_EFF loop = 1 ∧
          t.reg Pg.governor R.GOV_MODE loop = s.reg Pg.governor R.GOV_MODE loop) ∧
        t.evt Pg.governor R.GOV_EVT_STALL ∧
        (∃ r, t.dev.body.irq.reports = s.dev.body.irq.reports ++ [r] ∧ r.page = Pg.governor ∧ r.info.inj = false) ∧
        s.keeps t [Pg.governor]) ∧
    (s.runs [2] → s.dev.body.gov.frozen = true → exec .govStall s = .next s) ∧
    (∀ v, v < 2 ^ 32 → s.takes m (R.GOV_LOG_RD.addr Pg.governor 0 0) →
      ∃ t, exec (.govLogRdWrite m v) s = .next t ∧ s.keeps t [Pg.governor] ∧
        (v ≤ wr → t.reg Pg.governor R.GOV_LOG_RD = v) ∧
        (wr < v → t.reg Pg.governor R.GOV_LOG_RD = s.reg Pg.governor R.GOV_LOG_RD ∧ t.evt Pg.governor R.GOV_EVT_BADRD))

/-! Ports, lanes and the entrance. -/

/-- R73, R74: the link of a port follows its table: enabled, it waits for signal on its lanes; with signal it trains or aligns; with
training complete it aligns, and without it waits again; aligned it is UP; and it waits again when a lane is lost. Disabled, it is
DISABLED with its lanes free. Where the port receives no frame, nothing changes but the pages of the port's lanes, of its Gallery's power
and of the clocks. That training is over on every lane of a lost link is the model's choice (log entry 40). -/
def Obligations.PortLinkStates : Prop :=
  ∀ (p : Nat) (s : State), p < 512 → s.runs [] →
    let b := s.dev.body
    let lanes := b.portLanes p
    let pages := Pg.lane p :: Pg.clocks :: Pg.galPower (p / 64) :: lanes.map Pg.lane
    let link := fun (t : State) => t.reg (Pg.lane p) R.PORT_LINK_STATE
    (∀ m, s.takes m (R.PORT_EN.addr (Pg.lane p) 0 0) → s.reg (Pg.lane p) R.PORT_EN = 0 → b.portValid p = true →
      ∃ t, exec (.portEnable p m) s = .next t ∧ t.reg (Pg.lane p) R.PORT_EN = 1 ∧ link t = 1 ∧
        (∀ l ∈ lanes, t.reg (Pg.lane l) R.LANE_MEMBER = 1 ∧
          t.reg (Pg.lane l) R.LANE_RATE = modeLaneRate (s.reg (Pg.lane p) R.PORT_MODE)) ∧
        t.reg (Pg.lane p) R.PORT_MODE = s.reg (Pg.lane p) R.PORT_MODE ∧ s.keeps t pages) ∧
    (∀ m, s.takes m (R.PORT_EN.addr (Pg.lane p) 0 0) → s.reg (Pg.lane p) R.PORT_EN = 1 → b.notPort p = false →
      64 ≤ s.reg (Pg.lane p) R.PORT_MAX_FRAME → s.reg (Pg.lane p) R.PORT_MAX_FRAME ≤ 10240 →
      ∃ t, exec (.portDisable p m) s = .next t ∧ t.reg (Pg.lane p) R.PORT_EN = 0 ∧ link t = 0 ∧
        (∀ l ∈ lanes, t.reg (Pg.lane l) R.LANE_MEMBER = 0) ∧ (b.rxOf p = none → s.keeps t pages)) ∧
    (b.sup.testPins = false → link s = 1 → ∀ kr,
      ∃ t, exec (.signalDetected p kr) s = .next t ∧ link t = (if kr then 2 else 3) ∧
        (∀ l ∈ lanes, t.reg (Pg.lane l) R.LANE_SIG_DET = 1) ∧ s.keeps t pages) ∧
    (link s = 2 → ∃ t, exec (.trainingComplete p) s = .next t ∧ link t = 3 ∧
        (∀ l ∈ lanes, t.reg (Pg.lane l) R.LANE_TRAINED = 1) ∧ s.keeps t pages) ∧
    (link s = 2 → ∃ t, exec (.trainingTimeout p) s = .next t ∧ link t = 1 ∧ t.evt (Pg.lane p) R.PORT_EVT_TRAIN_TO ∧ s.keeps t pages) ∧
    (b.sup.testPins = false → link s = 3 →
      ∃ t, exec (.linkUp p) s = .next t ∧ link t = 4 ∧ t.evt (Pg.lane p) R.PORT_EVT_LINK ∧ s.keeps t pages) ∧
    (link s = 4 → ∀ l ∈ lanes, l < 512 → ∀ sig,
      ∃ t, exec (.linkLoss p l sig) s = .next t ∧ link t = 1 ∧ t.evt (Pg.lane p) R.PORT_EVT_LINK ∧
        (∀ x ∈ lanes, t.reg (Pg.lane x) R.LANE_TRAINED = 0) ∧ (sig = true → t.reg (Pg.lane l) R.LANE_SIG_DET = 0) ∧
        (b.rxOf p = none → s.keeps t pages)) ∧
    (∀ on, ∃ t, exec (.remoteFaultChange p on) s = .next t ∧ t.reg (Pg.lane p) R.PORT_REMOTE_FAULT = b2n on ∧
      (on = true → t.dev.body.portSends p = false) ∧ s.keeps t [Pg.lane p])

/-- R76, R97, R83: the FEC window of a port counts what it saw and compares the symbol errors with the port's threshold; a lane of no
enabled port is powered down and up by its page's request; ENT_OVERLOAD clears once its hold time has passed since the last drop.
Where nothing has begun a wait, it counts as over (the model's choice: log entry 47). -/
def Obligations.LaneAndWindowCommands : Prop :=
  (∀ (p unc : Nat) (hist : List Nat) (s : State), p < 512 → hist.length = 16 → s.runs [] →
    let syms := (hist.zipIdx.map fun x => x.1 * x.2).foldl (· + ·) 0
    let thr := s.reg (Pg.lane p) R.PORT_FEC_DEG_THR
    ∃ t, exec (.fecWindowEnd p hist unc) s = .next t ∧ t.reg (Pg.lane p) R.PORT_HI_SER = b2n (thr != 0 && decide (thr < syms)) ∧
      (thr ≠ 0 → thr < syms → t.evt (Pg.lane p) R.PORT_EVT_HI_SER) ∧
      t.ctr (Pg.lane p) 26 = (s.ctr (Pg.lane p) 26 + unc) % 2 ^ 64 ∧ t.ctr (Pg.lane p) 27 = (s.ctr (Pg.lane p) 27 + syms) % 2 ^ 64 ∧
      (∀ i < 16, t.ctr (Pg.lane p) (28 + i) = (s.ctr (Pg.lane p) (28 + i) + hist.getD i 0) % 2 ^ 64)) ∧
  (∀ (l m : Nat) (s : State), l < 512 → s.reaches m (Pg.lane l + 0x18) → s.dev.body.laneOwner l = none →
    ∃ t, exec (.lanePowerRequest l 1 m) s = .next t ∧ t.reg (Pg.lane l) R.PG_PWR_STATE = 1 ∧ s.keeps t [Pg.lane l]) ∧
  (∀ (l m : Nat) (s : State), l < 512 → s.reaches m (Pg.lane l + 0x18) →
    ∃ t, exec (.lanePowerRequest l 0 m) s = .next t ∧ t.reg (Pg.lane l) R.PG_PWR_STATE = 0 ∧ s.keeps t [Pg.lane l]) ∧
  (∀ (l m : Nat) (s : State), l < 512 → s.reaches m (Pg.lane l + 0x18) → (s.dev.body.laneOwner l).isSome = true →
    ∃ t, exec (.lanePowerRequest l 1 m) s = .next t ∧ t.reg (Pg.lane l) R.PG_PWR_STATE = s.reg (Pg.lane l) R.PG_PWR_STATE) ∧
  (∀ (g : Nat) (s : State), g < 8 → s.runs [] →
    let quiet := s.dev.body.passed (Mk.overload g) (s.reg (Pg.preclass g) R.ENT_OVL_HOLD * 1000)
    (quiet = true →
      ∃ t, exec (.entOverloadClear g) s = .next t ∧ t.reg (Pg.preclass g) R.ENT_OVERLOAD = 0 ∧ s.keeps t [Pg.preclass g]) ∧
    (quiet = false → exec (.entOverloadClear g) s = .next s))

/-- R93, R80, R81, R77: a frame begins on a port that is UP, as MACsec leaves it where the port has it on; with 64 bytes it is admitted to
the entrance buffer under its priority's threshold, or dropped whole and counted; a runt is counted at its end, a whole good frame's bytes
are in the buffer with its verdict, and a packet dispatched before its end gets its verdict then. -/
def Obligations.FramesEnterTheEntrance : Prop :=
  ∀ (p : Nat) (s : State), p < 512 → s.runs [] →
    let b := s.dev.body
    let g := p / 64
    (∀ wire, b.portUp p = true → b.rxOf p = none → b.portLoop p ≠ 1 → b.parked g = false → b.galInReset g = false →
      ∃ t f, exec (.frameStart p wire) s = .next t ∧ t.dev.body.rxOf p = some f ∧ f.wire = wire ∧ f.since = b.clk ∧
        (∀ d, (b.rxView p wire).data = some d → f.data = d ∧ f.place = .mac) ∧ ((b.rxView p wire).data = none → f.place = .gone) ∧
        (s.reg (Pg.lane p) R.PORT_MACSEC_EN = 0 → f.data = wire ∧ f.place = .mac) ∧
        f.ts = b.stamp (s.reg (Pg.lane p) R.PORT_TS_RX_ADJ) ∧ s.keeps t []) ∧
    (∀ f, b.rxOf p = some f → f.place = .mac → 64 ≤ f.wire.length → Body.isMacControl f.wire = false →
      b.entOcc g < s.reg (Pg.preclass g) R.ENT_THR (b.preClassify p f.data) * 256 →
      ∃ t e, exec (.entranceAdmit p) s = .next t ∧ t.dev.body.fifo p = b.fifo p ++ [e] ∧ e.data = f.data ∧
        e.prio = b.preClassify p f.data ∧ e.ts = f.ts ∧ t.dev.body.mem = b.mem) ∧
    (∀ f, b.rxOf p = some f → f.place = .mac → 64 ≤ f.wire.length → Body.isMacControl f.wire = false →
      s.reg (Pg.preclass g) R.ENT_THR (b.preClassify p f.data) * 256 ≤ b.entOcc g →
      ∃ t, exec (.entranceAdmit p) s = .next t ∧ t.dev.body.fifo p = b.fifo p ∧
        t.ctr (Pg.lane p) (ENT_DROP (b.preClassify p f.data)) =
          (s.ctr (Pg.lane p) (ENT_DROP (b.preClassify p f.data)) + 1) % 2 ^ 64 ∧
        t.reg (Pg.preclass g) R.ENT_OVERLOAD = 1) ∧
    (∀ f, b.rxOf p = some f → f.wire.length < 64 → (f.place = .gone → f.why = .msec) →
      ∃ t, exec (.frameReceive p) s = .next t ∧ t.dev.body.rxOf p = none ∧ t.dev.body.fifo p = b.fifo p ∧
        t.ctr (Pg.lane p) RX_RUNT = (s.ctr (Pg.lane p) RX_RUNT + 1) % 2 ^ 64) ∧
    (∀ f pid x, b.rxOf p = some f → f.place = .pipe pid → 64 ≤ f.wire.length → (pid, x) ∈ b.pipe.pkts → x.owner = pid →
      x.verdict = .unknown →
      ∃ t, exec (.frameReceive p) s = .next t ∧ t.dev.body.rxOf p = none ∧
        (pid, { x with verdict := b.rxVerdict p f }) ∈ t.dev.body.pipe.pkts) ∧
    (∀ f e l, b.rxOf p = some f → f.place = .entrance → 64 ≤ f.wire.length → b.rxVerdict p f = .good → b.fifo p = l ++ [e] → b.entOcc g - Body.round64 e.held + Body.round64 f.data.length ≤ 4194304 →
      ∃ t, exec (.frameReceive p) s = .next t ∧ t.dev.body.rxOf p = none ∧
        t.dev.body.fifo p = l ++ [{ e with held := f.data.length, data := e.data.take f.data.length, complete := true, verdict := .good }] ∧
        t.ctr (Pg.lane p) RX_OK = (s.ctr (Pg.lane p) RX_OK + 1) % 2 ^ 64)

/-- R85, R86, R87: a PFC frame loads the timers of the priorities it names and the port honours; a PAUSE frame loads its own where
PAUSE is honoured and PFC is not; a timer whose quanta have passed pauses nothing any more; a pause that lasts too long is told; and a
priority held in XOFF is sent again each half of the quanta time.
Where nothing has begun a wait, it counts as over (the model's choice: log entry 47). -/
def Obligations.PfcAndPause : Prop :=
  ∀ (p : Nat) (s : State), p < 512 → s.runs [] →
    let b := s.dev.body
    (∀ vec quanta, vec < 256 → quanta.length = 8 → (∀ q ∈ quanta, q < 65536) → b.portUp p = true → b.parked (p / 64) = false →
      ∃ t, exec (.pfcReceive p vec quanta) s = .next t ∧
        (∀ i < 8, bitOn vec i = true → bitOn (s.reg (Pg.lane p) R.PORT_PFC_RX_EN) i = true →
          Sp.get 0 t.dev.body.net.pause (16 * p + i) = quanta.getD i 0 ∧
          bitOn (t.reg (Pg.lane p) R.PORT_PFC_PAUSED) i = (quanta.getD i 0 != 0)) ∧
        (∀ i < 8, (bitOn vec i = false ∨ bitOn (s.reg (Pg.lane p) R.PORT_PFC_RX_EN) i = false) →
          Sp.get 0 t.dev.body.net.pause (16 * p + i) = Sp.get 0 b.net.pause (16 * p + i) ∧
          bitOn (t.reg (Pg.lane p) R.PORT_PFC_PAUSED) i = bitOn (s.reg (Pg.lane p) R.PORT_PFC_PAUSED) i) ∧
        t.ctr (Pg.lane p) RX_PFC = (s.ctr (Pg.lane p) RX_PFC + 1) % 2 ^ 64) ∧
    (∀ q, q < 65536 → b.portUp p = true → b.parked (p / 64) = false →
      ∃ t, exec (.pauseReceive p q) s = .next t ∧ t.ctr (Pg.lane p) RX_PAUSE = (s.ctr (Pg.lane p) RX_PAUSE + 1) % 2 ^ 64 ∧
        Sp.get 0 t.dev.body.net.pause (16 * p + 8) =
          (if s.reg (Pg.lane p) R.PORT_PAUSE_EN = 1 ∧ s.reg (Pg.lane p) R.PORT_PFC_RX_EN = 0 then q
           else Sp.get 0 b.net.pause (16 * p + 8)) ∧ s.sameRegs t []) ∧
    (∀ i, i < 9 →
      let late := b.passed (Mk.pause p i) (b.quantaNs p (Sp.get 0 b.net.pause (16 * p + i)))
      (late = true → ∃ t, exec (.pfcPauseExpire p i) s = .next t ∧ Sp.get 0 t.dev.body.net.pause (16 * p + i) = 0 ∧
        (i < 8 → bitOn (t.reg (Pg.lane p) R.PORT_PFC_PAUSED) i = false) ∧ s.keeps t [Pg.lane p]) ∧
      (late = false → exec (.pfcPauseExpire p i) s = .next s)) ∧
    (∀ i, i < 8 → bitOn (s.reg (Pg.lane p) R.PORT_PFC_PAUSED) i = true → s.reg (Pg.lane p) R.PORT_PFC_WD ≠ 0 →
      b.passed (Mk.paused p i) (s.reg (Pg.lane p) R.PORT_PFC_WD * 1000000 + 1) = true →
      ∃ t, exec (.pfcWatchdog p i) s = .next t ∧ t.evt (Pg.lane p) R.PORT_EVT_PFC_WD ∧ s.keeps t [Pg.lane p]) ∧
    (s.reg (Pg.lane p) R.PORT_PFC_XOFF ≠ 0 → b.portSends p = true → b.parked (p / 64) = false →
      b.passed (Mk.xoff p) (ceilDiv (s.reg (Pg.lane p) R.PORT_PFC_QUANTA * 256) (max 1 (b.portGb p))) = true →
      ∃ t, exec (.pfcResend p) s = .next t ∧ t.ctr (Pg.lane p) TX_PFC = (s.ctr (Pg.lane p) TX_PFC + 1) % 2 ^ 64 ∧
        t.dev.body.out = b.out ++ [.pfc p (s.reg (Pg.lane p) R.PORT_PFC_XOFF) (s.reg (Pg.lane p) R.PORT_PFC_QUANTA)] ∧
        s.sameRegs t [])

/-! The packet path: pools, tiers, dispatch, admission, scheduling, egress and Rimstone. -/

/-- R225, R227, R228: a valid pool is enabled with every buffer free, and disabled only with none allocated; a request at the
register port takes a free buffer of the pool that serves it, or says why not; a buffer freed is allocated no more, a double
free or a bad index frees nothing and is counted, and a buffer whose state bit is lost is taken out of service. -/
def Obligations.PoolCommands : Prop :=
  ∀ (n m : Nat) (s : State), n < 16 →
    let b := s.dev.body
    let pg := Pg.pool n
    (s.reaches m (pg + 0x10) →
      (s.reg pg R.PG_EN = 0 → b.poolValid n = true → ∃ t, exec (.poolEnable n m) s = .next t ∧ t.reg pg R.PG_EN = 1 ∧
        t.reg pg R.POOL_FREE_CNT = s.reg pg R.POOL_COUNT ∧ t.reg pg R.POOL_MIN = s.reg pg R.POOL_COUNT ∧
        t.dev.body.allocOf n = [] ∧ s.keeps t [pg]) ∧
      (s.reg pg R.PG_EN = 0 → b.poolValid n = false → ∃ t, exec (.poolEnable n m) s = .next t ∧ t.reg pg R.PG_EN = 0 ∧
        t.evt pg R.POOL_EVT_BADCFG ∧ s.keeps t [pg]) ∧
      (s.reg pg R.PG_EN = 1 → exec (.poolEnable n m) s = .next s) ∧
      (s.reg pg R.PG_EN = 0 → exec (.poolDisable n m) s = .next s) ∧
      (s.reg pg R.PG_EN = 1 → b.allocOf n = [] → ∃ t, exec (.poolDisable n m) s = .next t ∧ t.reg pg R.PG_EN = 0 ∧ s.keeps t [pg]) ∧
      (s.reg pg R.PG_EN = 1 → b.allocOf n ≠ [] → ∃ t, exec (.poolDisable n m) s = .next t ∧ t.reg pg R.PG_EN = 1 ∧
        t.evt pg R.POOL_EVT_BADCFG ∧ t.dev.body.allocOf n = b.allocOf n ∧ s.keeps t [pg])) ∧
    (s.takes m (pg + 0xB4) →
      (∀ k, b.poolFor 5 (s.reg pg R.POOL_MEM) (b.poolSize n) = some k → s.reg (Pg.pool k) R.POOL_FREE_CNT ≠ 0 →
        (b.allocOf k).Pairwise (· < ·) →
        ∃ t i, exec (.poolAlloc n m) s = .next t ∧ t.reg pg R.POOL_ALLOC_RC = 0 ∧ t.reg pg R.POOL_ALLOC_POOL = k ∧
          t.reg pg R.POOL_ALLOC_IDX = i % 2 ^ 28 ∧ i ∉ b.allocOf k ∧ i ∈ t.dev.body.allocOf k ∧
          (∀ j, j ≠ i → (j ∈ t.dev.body.allocOf k ↔ j ∈ b.allocOf k)) ∧
          t.reg (Pg.pool k) R.POOL_FREE_CNT = s.reg (Pg.pool k) R.POOL_FREE_CNT - 1 ∧ s.keeps t [pg, Pg.pool k]) ∧
      (∀ k, b.poolFor 5 (s.reg pg R.POOL_MEM) (b.poolSize n) = some k → s.reg (Pg.pool k) R.POOL_FREE_CNT = 0 →
        ∃ t, exec (.poolAlloc n m) s = .next t ∧ t.reg pg R.POOL_ALLOC_RC = 1 ∧ t.dev.body.buf = b.buf ∧
          s.keeps t [pg, Pg.pool k]) ∧
      (b.poolFor 5 (s.reg pg R.POOL_MEM) (b.poolSize n) = none →
        ∃ t, exec (.poolAlloc n m) s = .next t ∧ t.reg pg R.POOL_ALLOC_RC = 2 ∧ t.dev.body.buf = b.buf ∧ s.keeps t [pg])) ∧
    (∀ i, s.takes m (pg + 0xBC) → i < 2 ^ 28 → (n, i) ∉ b.buf.bitBad →
      (i < s.reg pg R.POOL_COUNT → i ∈ b.allocOf n → ∃ t, exec (.poolFree n i m) s = .next t ∧
        t.dev.body.allocOf n = (b.allocOf n).erase i ∧
        t.reg pg R.POOL_FREE_CNT = (s.reg pg R.POOL_FREE_CNT + 1) % 2 ^ 28 ∧ s.keeps t [pg]) ∧
      (i < s.reg pg R.POOL_COUNT → i ∉ b.allocOf n → ∃ t, exec (.poolFree n i m) s = .next t ∧ t.dev.body.buf = b.buf ∧
        t.flt pg R.POOL_FLT_DFREE ∧ t.reg pg R.POOL_DFREE = min (s.reg pg R.POOL_DFREE + 1) (2 ^ 32 - 1) ∧ s.keeps t [pg] ∧
        (s.reg pg (fltEn R.POOL_FLT_DFREE) = 1 → ∃ r ∈ t.dev.body.irq.reports, r.page = pg ∧ r.bit = R.POOL_FLT_DFREE ∧
          r.info.master = m ∧ r.info.addr = i)) ∧
      (s.reg pg R.POOL_COUNT ≤ i → ∃ t, exec (.poolFree n i m) s = .next t ∧ t.dev.body.buf = b.buf ∧
        t.reg pg R.POOL_BADIDX = min (s.reg pg R.POOL_BADIDX + 1) (2 ^ 32 - 1) ∧ s.keeps t [pg])) ∧
    (∀ i, s.takes m (pg + 0xBC) → i < 2 ^ 28 → (n, i) ∈ b.buf.bitBad → i < s.reg pg R.POOL_COUNT → (b.allocOf n).Nodup →
      ∃ t, exec (.poolFree n i m) s = .next t ∧ t.flt pg R.POOL_FLT_STATE_ECC ∧ i ∈ t.dev.body.deadOf n ∧ i ∉ t.dev.body.allocOf n ∧
        t.reg pg R.POOL_FREE_CNT = s.reg pg R.POOL_FREE_CNT ∧ t.reg pg R.POOL_LOST = min (s.reg pg R.POOL_LOST + 1) (2 ^ 28 - 1) ∧
        s.keeps t [pg, Pg.rim])

/-- R274, R275, R279, R284: a snapshot copies the balance of every ledger at one edge and shows its time, and is skipped while an evaluation runs; an
evaluation that finds nothing counts an audit and no discrepancy, and one that finds a discrepancy in one ledger reports it; an
injected amount is kept for the next snapshot. -/
def Obligations.RimstoneLedgers : Prop :=
  ∀ (s : State),
    let b := s.dev.body
    (s.runs [13] → s.reg Pg.rim R.RIM_EN = 1 → b.rim.snapOpen = false →
      ∃ t, exec .rimstoneSnapshot s = .next t ∧ t.dev.body.rim.snapOpen = true ∧ t.dev.body.rim.snapAt = b.tod ∧
        (∀ l < 55, Sp.get 0 t.dev.body.rim.snapBal l = b.balance l ∧
          Sp.get 0 t.dev.body.rim.snapIn l = Sp.get 0 b.rim.ins l ∧ Sp.get 0 t.dev.body.rim.snapOut l = Sp.get 0 b.rim.outs l) ∧
        t.reg Pg.rim R.RIM_AUD_SEC = b.todNs / 1000000000 % 2 ^ 32 ∧ t.reg Pg.rim R.RIM_AUD_NS = b.todNs % 1000000000 ∧
        s.keeps t [Pg.rim]) ∧
    (s.reg Pg.rim R.RIM_EN = 0 → exec .rimstoneSnapshot s = .next s) ∧
    (s.runs [13] → s.reg Pg.rim R.RIM_EN = 1 → b.rim.snapOpen = true →
      ∃ t, exec .rimstoneSnapshot s = .next t ∧ t.dev.body.rim = b.rim ∧ t.evt Pg.rim R.RIM_EVT_OVR ∧ s.keeps t [Pg.rim]) ∧
    (s.runs [13] → b.rim.snapOpen = true → (∀ l < 55, b.discrepancy l = 0) →
      ∃ t, exec .rimstoneAudit s = .next t ∧ t.dev.body.rim.snapOpen = false ∧
        t.reg Pg.rim R.RIM_AUD_CNT = (s.reg Pg.rim R.RIM_AUD_CNT + 1) % 2 ^ 32 ∧
        t.reg Pg.rim R.RIM_DISC_CNT = s.reg Pg.rim R.RIM_DISC_CNT ∧ t.dev.body.rim.prevBal = b.rim.snapBal ∧ s.keeps t [Pg.rim]) ∧
    (s.runs [13] → b.rim.snapOpen = true → ∀ l < 55, b.discrepancy l ≠ 0 → (∀ k < 55, k ≠ l → b.discrepancy k = 0) →
      ∃ t, exec .rimstoneAudit s = .next t ∧ t.dev.body.rim.snapOpen = false ∧ t.reg Pg.rim R.RIM_DISC_LEDGER = l ∧
        t.reg Pg.rim R.RIM_DISC_SIZE_LO = b.discrepancy l % 2 ^ 32 ∧ t.evt Pg.rim R.RIM_EVT_DISC ∧ t.flt Pg.rim R.RIM_FLT_DISC ∧
        s.keeps t [Pg.rim]) ∧
    (∀ m, s.takes m (Pg.rim + 0xA0) → s.reg Pg.rim R.RIM_INJ_LEDGER < 55 →
      ∃ t, exec (.rimInject m) s = .next t ∧
        Sp.get 0 t.dev.body.rim.arm (s.reg Pg.rim R.RIM_INJ_LEDGER) = encSigned 64 (signed 32 (s.reg Pg.rim R.RIM_INJ_AMT)) ∧
        t.reg Pg.rim R.RIM_INJ_LEDGER = s.reg Pg.rim R.RIM_INJ_LEDGER ∧ s.keeps t [Pg.rim])

/-- R214, R216, R221, R222: a spill moves 16 cells of the tail to a Sump span behind the spill section, or is counted where no span
is to be had; refill reads start below ADM_REFILL_LO and go on to ADM_REFILL_HI along the front of the spill section, for no more cells
than REFILL has room for; a span read back
brings its cells behind the head, and an unreadable one is reported; the orphan sweep returns every orphan. -/
def Obligations.SpillAndRefill : Prop :=
  ∀ (q : Nat) (s : State), q < 2 ^ 20 →
    let b := s.dev.body
    let x := b.queueOf q
    (s.runs [13, 18] → b.sumpServes = true → x.spill = true → 16 ≤ x.tail.length →
      (∀ c ∈ x.tail.take 16, ∀ p, b.pkt c.pid = some p → p.linkBad = false) →
      (∀ n, b.poolFor 2 1 4096 = some n → s.reg (Pg.pool n) R.POOL_FREE_CNT ≠ 0 →
        ∃ t sp, exec (.spillSpanWrite q) s = .next t ∧ (t.dev.body.queueOf q).spans = x.spans ++ [sp] ∧ sp.far = false ∧
          sp.cells = x.tail.take 16 ∧ sp.pool = n ∧ sp.buf ∈ t.dev.body.allocOf n ∧ (t.dev.body.queueOf q).tail = x.tail.drop 16 ∧
          (t.dev.body.queueOf q).head = x.head ∧ (∀ k, k ≠ q → t.dev.body.queueOf k = b.queueOf k)) ∧
      ((b.poolFor 2 1 4096 = none ∨ ∃ n, b.poolFor 2 1 4096 = some n ∧ s.reg (Pg.pool n) R.POOL_FREE_CNT = 0) →
        ∃ t, exec (.spillSpanWrite q) s = .next t ∧ t.dev.body.buf = b.buf ∧
          t.ctr Pg.chm SPILL_NOSPAN = (s.ctr Pg.chm SPILL_NOSPAN + 1) % 2 ^ 64)) ∧
    (s.runs [13] → x.spill = true → (x.head.length + Body.inFlight x < prLo (b.prof q) ∨
        (x.refilling = true ∧ x.head.length + Body.inFlight x < prHi (b.prof q))) →
      ∃ t, exec (.refillRead q) s = .next t ∧
        let y := t.dev.body.queueOf q
        y.refilling = decide (x.head.length + Body.inFlight y < prHi (b.prof q)) ∧
        y.head = x.head ∧ y.tail = x.tail ∧ y.spans.map (·.cells) = x.spans.map (·.cells) ∧
        Body.inFlight x ≤ Body.inFlight y ∧ Body.inFlight y ≤ Body.inFlight x + (b.clsFree .refill - (b.refillFlight : Int)).toNat ∧
        x.head.length + Body.inFlight y ≤ max (x.head.length + Body.inFlight x) (prHi (b.prof q) + 15)) ∧
    (∀ sp rest, s.runs [13] → b.sumpServes = true → x.spans = sp :: rest → sp.flight ≠ 0 → sp.far = false → rest ≠ [] →
      x.sumpUeArm = false →
      let a := b.bufAddr sp.pool sp.buf
      (∀ l ∈ Body.linesOf a 4096 ++ Body.linesOf (Sump.sideAddr a) 128, b.lineBad l = false) → Sump.sideAddr a < Sump.scratchEnd →
      Body.sideOk (Mem.read b.mem.sump (Sump.sideAddr a) 128) q sp.seq 0 = true →
      (∀ c ∈ x.head ++ sp.cells, ∃ p, b.pkt c.pid = some p ∧ p.hole = false) →
      ∃ t, exec (.refillComplete q) s = .next t ∧ (t.dev.body.queueOf q).spans = rest ∧ (t.dev.body.queueOf q).tail = x.tail ∧
        (t.dev.body.queueOf q).head.map (fun c => (c.pid, c.pos)) = (x.head ++ sp.cells).map fun c => (c.pid, c.pos)) ∧
    (∀ sp rest, s.runs [13] → b.sumpServes = true → x.spans = sp :: rest → sp.flight ≠ 0 → sp.far = false → x.sumpUeArm = true →
      ∃ t, exec (.refillComplete q) s = .next t ∧ (t.dev.body.queueOf q).spans = rest ∧ t.flt Pg.chm R.CHM_FLT_SUMP_UE) ∧
    (s.runs [13] → b.buf.orphans ≠ [] →
      ∃ t, exec .orphanSweep s = .next t ∧ t.dev.body.buf.orphans = [] ∧ t.dev.body.buf.orphanBooked = 0 ∧ t.evt Pg.chm R.CHM_EVT_ORPHAN ∧
        t.ctr Pg.chm CHM_ORPHAN = (s.ctr Pg.chm CHM_ORPHAN + b.buf.orphans.length) % 2 ^ 64)

/-- R215, R348: far migration takes up the last 256 Sump spans of a long-haul queue beyond its Sump share, towards a far span; when
the copy completes, the far span takes their place with their cells. -/
def Obligations.FarMigration : Prop :=
  ∀ (q : Nat) (s : State), q < 2 ^ 20 → s.runs [13, 4] →
    let b := s.dev.body
    let x := b.queueOf q
    (∀ port, port < 2 → b.qLong q = true → x.spill = true → prSumpShare (b.prof q) < x.sump → Body.lastSump x.spans = true →
      x.migr = none → b.farReady port = true →
      (∀ n, b.poolFor 3 (2 + port) 1048576 = some n → b.poolLevel n ≠ 2 → s.reg (Pg.pool n) R.POOL_FREE_CNT ≠ 0 →
        ∃ t m, exec (.farMigrate q port) s = .next t ∧ (t.dev.body.queueOf q).migr = some m ∧ m.port = port ∧ m.pool = n ∧
          m.buf ∈ t.dev.body.allocOf n ∧ m.since = b.clk ∧ some m.first = (x.spans.drop (x.spans.length - 256)).head?.map (·.seq) ∧
          (t.dev.body.queueOf q).spans = x.spans ∧ (t.dev.body.queueOf q).head = x.head ∧ (t.dev.body.queueOf q).tail = x.tail) ∧
      (∀ n, b.poolFor 3 (2 + port) 1048576 = some n → b.poolLevel n = 2 → exec (.farMigrate q port) s = .next s) ∧
      (b.poolFor 3 (2 + port) 1048576 = none →
        ∃ t, exec (.farMigrate q port) s = .next t ∧ t.dev.body.buf = b.buf ∧
          t.ctr Pg.chm FAR_NOSPAN = (s.ctr Pg.chm FAR_NOSPAN + 1) % 2 ^ 64)) ∧
    (∀ m, x.migr = some m → b.farReady m.port = true → b.sumpServes = true → q ∉ b.far.heldCopy → m.port ∉ b.far.armHold →
      let mine := fun (s : Span) => !s.far && decide ((s.seq + 2 ^ 32 - m.first) % 2 ^ 32 < 256)
      let old := x.spans.filter mine
      let front := x.spans.takeWhile fun s => !mine s
      ∃ t f, exec (.farCopyComplete q) s = .next t ∧ (t.dev.body.queueOf q).migr = none ∧
        (t.dev.body.queueOf q).spans = front ++ [f] ++ x.spans.drop (front.length + old.length) ∧ f.far = true ∧ f.port = m.port ∧
        f.pool = m.pool ∧ f.buf = m.buf ∧ f.cells = (old.map (·.cells)).flatten ∧
        (t.dev.body.queueOf q).head = x.head ∧ (t.dev.body.queueOf q).tail = x.tail)

/-- R82, R124, R137, R183, R197: where the dispatcher's weighted round robin comes to a source, its head leaves the front of it (an entrance
FIFO, the recirculation buffer, the inject source) and enters stage 7 under a number of its own, and the source is counted served; nothing
that the pipeline does writes a table or a memory. A source whose turn it is not is not served. A head whose bytes are in error is lost. The
dispatchers' stalls are counted. -/
def Obligations.HeadsAreDispatched : Prop :=
  (∀ (src : Nat) (lag : Bool) (s : State), src < 528 → s.runs [15] →
    let b := s.dev.body
    let gal := if src < 512 then src / 64 else (src - 512) % 8
    let goes := fun (t : State) => b.pipe.nextPid ∈ t.dev.body.pipe.stage7 ∧ t.dev.body.pipe.disp = (b.headServe gal src).pipe.disp ∧
      t.dev.body.tbls = b.tbls ∧ t.dev.body.mem = b.mem
    (b.canDispatch gal = false ∨ b.headTurn gal src = false → exec (.headDispatch src lag) s = .next s) ∧
    (b.canDispatch gal = true → b.headTurn gal src = true →
      (∀ e rest, src < 512 → b.fifo src = e :: rest → gal ∉ b.net.entEcc →
        ∃ t, exec (.headDispatch src lag) s = .next t ∧ t.dev.body.fifo src = rest ∧ goes t) ∧
      (∀ e rest, src < 512 → b.fifo src = e :: rest → gal ∈ b.net.entEcc →
        ∃ t, exec (.headDispatch src lag) s = .next t ∧ t.dev.body.fifo src = rest ∧ t.flt (Pg.preclass gal) R.ENT_FLT_ECC ∧
          t.dev.body.pipe.stage7 = b.pipe.stage7) ∧
      (∀ g pid rest p, g < 8 → src = 512 + g → Sp.get [] b.pipe.rcyHold g = pid :: rest → b.pkt pid = some p →
        ∃ t, exec (.headDispatch src lag) s = .next t ∧ Sp.get [] t.dev.body.pipe.rcyHold g = rest ∧ goes t) ∧
      (∀ g x rest, g < 8 → src = 520 + g → Sp.get [] b.pipe.injQ g = x :: rest →
        ∃ t, exec (.headDispatch src lag) s = .next t ∧ Sp.get [] t.dev.body.pipe.injQ g = rest ∧ goes t))) ∧
  (∀ (n : Nat) (s : State), s.runs [15] →
    (∃ t, exec (.vaultStallEnd (.bank n)) s = .next t ∧ t.reg Pg.vault R.VLT_STALL = min (s.reg Pg.vault R.VLT_STALL + n) (2 ^ 32 - 1) ∧
      t.evt Pg.vault R.VLT_EVT_STALL ∧ s.keeps t [Pg.vault]) ∧
    ∃ t, exec (.vaultStallEnd (.writeback n)) s = .next t ∧ t.reg Pg.stc R.STC_STALL = min (s.reg Pg.stc R.STC_STALL + n) (2 ^ 32 - 1) ∧
      s.keeps t [Pg.stc])

/-- R209 to R212, R111: at stage 7 a packet waits for its verdict; one to be dropped is gone, its queue untouched; one that its
profile's depth does not admit is gone; and one that fits its queue's share and the SHARED class is behind the head of its queue. -/
def Obligations.AdmissionDecides : Prop :=
  ∀ (src pid : Nat) (p : Pkt) (s : State), src < 528 → s.runs [13] →
    let b := s.dev.body
    let x := b.queueOf p.queue
    let pr := b.prof p.queue
    let n := cellsOf p.len
    let col := if p.colour = 3 then 0 else p.colour
    b.pipe.stage7.find? (fun i => match b.pkt i with | some p => p.src == src | none => false) = some pid → b.pkt pid = some p →
    (p.verdict = .unknown → exec (.admission src) s = .next s) ∧
    (p.verdict ≠ .unknown → p.admitted = false → p.disp = .drop →
      ∃ t, exec (.admission src) s = .next t ∧ t.dev.body.pipe.stage7 = b.pipe.stage7.erase pid ∧ t.dev.body.pkt pid = none ∧
        t.dev.body.buf.queues = b.buf.queues) ∧
    (p.verdict = .good → p.admitted = false → p.disp = .enqueue → prValid pr = true → prMax pr col < (x.depth + n + 15) / 16 →
      ∃ t, exec (.admission src) s = .next t ∧ t.dev.body.pipe.stage7 = b.pipe.stage7.erase pid ∧ t.dev.body.pkt pid = none ∧
        t.dev.body.buf.queues = b.buf.queues) ∧
    (p.verdict = .good → p.admitted = false → p.disp = .enqueue → prValid pr = true → (x.depth + n + 15) / 16 ≤ prMax pr col →
      x.spill = false → x.chm + n ≤ prShare pr → (n : Int) ≤ b.clsFree .shared → p.hole = false →
      (∀ c ∈ x.head, ∃ p', b.pkt c.pid = some p' ∧ p'.hole = false) →
      ∃ t, exec (.admission src) s = .next t ∧ t.dev.body.pipe.stage7 = b.pipe.stage7.erase pid ∧
        (t.dev.body.queueOf p.queue).head = x.head ++ Body.qcells p pid ∧ (t.dev.body.queueOf p.queue).tail = x.tail ∧
        (∃ p', t.dev.body.pkt pid = some p' ∧ p'.admitted = true ∧ p'.data = p.data) ∧
        (∀ k, k ≠ p.queue → t.dev.body.queueOf k = b.queueOf k))

/-- R237, R238, R240, R247, R248, R260: a decision for an eligible port whose turn it is hands the front packet of the chosen queue to egress,
and no eligible queue of its subscriber has a lower level, or the same level and a smaller tag; more requests than eight at the first decision
of a clock are counted; a resting Gallery with an eligible packet is asked to wake. A refill boundary that is due starts a new period and gives
a shaped node its credit, up to its cap; an injection arms a node.
How the decisions of one clock are told apart is the model's choice (log entry 45). -/
def Obligations.SchedulerAndShapers : Prop :=
  (∀ (p : Nat) (s : State), s.runs [13] → p < 529 →
    let b := s.dev.body
    let g := portGal p
    let c := b.schSync.svyBump 4 g 0 1
    b.sch.armState = [] → b.sch.armCfg = [] →
    (∀ v u q pid cs, c.portElig p = some (v, u, q, pid, cs) → c.slotTurn p (c.slotRequests g) = true →
      ∃ t, exec (.schedulerDecision p) s = .next t ∧
        t.dev.body.sch.egr = b.sch.egr ++ [{ slice := g, port := p, pid := pid, queue := q, cells := cs }] ∧
        q ∈ c.eligQ ∧ q / 8 = u ∧
        (∀ k ∈ c.eligQ, k / 8 = u →
          let rank := fun i => ((c.node 0 i).prio, (c.tagOfNode (nodeKey 0 i) + 2 ^ 48 - c.vOf (nodeKey 1 u) (c.node 0 i).prio) % 2 ^ 48)
          (rank q).1 < (rank k).1 ∨ ((rank q).1 = (rank k).1 ∧ (rank q).2 ≤ (rank k).2)) ∧
        t.dev.body.sch.turn = (c.slotServe p (c.slotRequests g)).sch.turn ∧
        (8 < (c.slotRequests g).length → (Sp.get (0, 0) b.sch.slot g).1 ≠ b.clk →
          t.ctr Pg.sch SCH_SLOT_SHORT = (s.ctr Pg.sch SCH_SLOT_SHORT + 1) % 2 ^ 64) ∧
        t.dev.body.tbls = b.tbls ∧ t.dev.body.mem = b.mem) ∧
    (c.portElig p ≠ none → c.slotTurn p (c.slotRequests g) = false →
      ∃ t, exec (.schedulerDecision p) s = .next t ∧ t.dev.body.sch.egr = b.sch.egr ∧ t.dev.body.buf = b.buf) ∧
    (4 ≤ b.galState g → b.galState g ≤ 7 → g ∉ b.sch.wake → (∃ q ∈ c.eligQ, c.attached 0 q = some p) →
      ∃ t, exec (.schedulerDecision p) s = .next t ∧ g ∈ t.dev.body.sch.wake ∧
        t.ctr Pg.sch SCH_WAKE_REQ = (s.ctr Pg.sch SCH_WAKE_REQ + 1) % 2 ^ 64 ∧ t.dev.body.sch.egr = b.sch.egr)) ∧
  (∀ (s : State), s.runs [13] →
    let b := s.dev.body
    b.sch.next ≤ b.clk → b.sch.armState = [] → b.sch.armCfg = [] → (∀ n < 8, b.crd R.CAIRN_STATE n ≠ CS_PENDING) →
      ∃ t, exec .refillBoundary s = .next t ∧ t.dev.body.sch.period = s.reg Pg.sch R.SCH_REFILL_NS ∧
        t.dev.body.sch.next = b.sch.next + s.reg Pg.sch R.SCH_REFILL_NS ∧ t.ctr Pg.sch SCH_REFILLS = (s.ctr Pg.sch SCH_REFILLS + 1) % 2 ^ 64 ∧
        (b.cairn.old = [] → b.shapedNodes.Nodup → (∀ x ∈ b.shapedNodes, x.2 < 2 ^ 20) → ∀ x ∈ b.shapedNodes,
          let k := nodeKey x.1 x.2
          let acc := rateBits (b.node x.1 x.2).rate * b.sch.period * 8192 + Sp.get 0 b.sch.frac k
          t.dev.body.creditOf k =
            min (b.creditOf k + (acc / 10 ^ 9 : Nat)) (max (b.creditOf k) (capBytes (b.node x.1 x.2).cap * 65536 : Nat)) ∧
          Sp.get 0 t.dev.body.sch.frac k = acc % 10 ^ 9)) ∧
  (∀ (s : State), s.runs [13] → s.dev.body.clk < s.dev.body.sch.next →
    ∃ t, exec .refillBoundary s = .next t ∧ t.dev.body.sch = s.dev.body.sch ∧ t.dev.body.cairn = s.dev.body.cairn) ∧
  (∀ (m : Nat) (s : State), s.takes m (Pg.sch + 0xB0) → s.reg Pg.sch R.SCH_INJ_IDX < levelSize (s.reg Pg.sch R.SCH_INJ_LVL) →
    let k := nodeKey (s.reg Pg.sch R.SCH_INJ_LVL) (s.reg Pg.sch R.SCH_INJ_IDX)
    ∃ t, exec (.schInject m) s = .next t ∧ s.keeps t [Pg.sch] ∧
      (s.reg Pg.sch R.SCH_INJ_CFG = 0 → k ∈ t.dev.body.sch.armState ∧ t.dev.body.sch.armCfg = s.dev.body.sch.armCfg) ∧
      (s.reg Pg.sch R.SCH_INJ_CFG = 1 → k ∈ t.dev.body.sch.armCfg ∧ t.dev.body.sch.armState = s.dev.body.sch.armState))

/-- R74, R77, R95, R124, R269, R270, R373, R435: a packet whose cells and descriptor are good leaves egress: by a network port that sends as the
rewritten bytes, as MACsec leaves them where the port has it on, with their padding and FCS; a cut-through packet whose verdict is not in yet
begins; by a recirculation port into the holding buffer; by a Grotto port as a message of its channel, cut to its slots; by the host port
into a punt ring, and is counted where there is no buffer or no ring that takes it. -/
def Obligations.EgressSends : Prop :=
  (∀ (port : Nat) (e : EgrPkt) (p : Pkt) (s : State), port < 512 → s.runs [5 + portGal port] →
    let b := s.dev.body
    b.egrNext port = some (e, p) → p.linkBad = false →
    (p.started = false → b.portSends port = false → exec (.packetTransmit port) s = .next s) ∧
    (b.portSends port = true → p.chkBad = false → p.rw.checkOk = true → s.reg (Pg.rew e.slice) R.REW_INJ_CNT = 0 →
      (p.ct = false → p.rw.ptp ≠ 1 → p.rw.ptp ≠ 2 → s.reg (Pg.lane port) R.PORT_INJ_CNT = 0 → b.portLoop port = 0 →
        (∀ l ∈ b.portLanes port, s.reg (Pg.lane l) R.LANE_INJ_CNT = 0) → ∀ w,
        (if s.reg (Pg.lane port) R.PORT_MACSEC_EN = 1 then ((b.rewCounts e.slice p).msecTx port (rewritten p)).2 else some (rewritten p)) = some w →
        max 60 w.length + 4 ≤ s.reg (Pg.lane port) R.PORT_MAX_FRAME →
        ∃ t pad, exec (.packetTransmit port) s = .next t ∧ t.dev.body.sch.egr = b.sch.egr.erase e ∧ pad.length = 60 - w.length ∧
          Out.frame port (w ++ pad ++ fcsBytes (w ++ pad)) false ∈ t.dev.body.out ∧
          t.ctr (Pg.lane port) TX_OK = (s.ctr (Pg.lane port) TX_OK + 1) % 2 ^ 64 ∧ t.dev.body.tbls = b.tbls) ∧
      (p.ct = true → p.verdict = .unknown → p.rw.lateLen = false → p.started = false →
        ∃ t p', exec (.packetTransmit port) s = .next t ∧ t.dev.body.sch.egr = b.sch.egr ∧ t.dev.body.out = b.out ∧
          t.dev.body.pkt e.pid = some p' ∧ p'.started = true ∧ p'.data = p.data ∧ p'.outTs = b.txStamp port))) ∧
  (∀ (g : Nat) (e : EgrPkt) (p : Pkt) (s : State), g < 8 → s.runs [5 + g] →
    let b := s.dev.body
    b.egrNext (512 + g) = some (e, p) → p.linkBad = false → p.chkBad = false → p.rw.checkOk = true →
    s.reg (Pg.rew e.slice) R.REW_INJ_CNT = 0 → (rewritten p).length + 4 ≤ 10240 →
      ∃ t, exec (.recirculateEgress g) s = .next t ∧ t.dev.body.sch.egr = b.sch.egr.erase e ∧
        Sp.get [] t.dev.body.pipe.rcyHold g = Sp.get [] b.pipe.rcyHold g ++ [b.pipe.nextPid] ∧ t.dev.body.tbls = b.tbls ∧
        t.dev.body.mem = b.mem) ∧
  (∀ (g : Nat) (e : EgrPkt) (p : Pkt) (s : State), g < 8 → s.runs [14] →
    let b := s.dev.body
    b.grtRoom g = true → b.egrNext (520 + g) = some (e, p) → p.linkBad = false → p.chkBad = false → p.rw.checkOk = true →
    s.reg (Pg.rew e.slice) R.REW_INJ_CNT = 0 →
    let ch := s.reg (Pg.cplx 0) R.GRT_PORT_CH g
    let cap := chSlot (b.chEnt ch)
    ∀ sl rest, (b.chan ch).free = sl :: rest →
      ∃ t, exec (.grottoPortDeliver g) s = .next t ∧ t.dev.body.sch.egr = b.sch.egr.erase e ∧ t.dev.body.tbls = b.tbls ∧
        (t.dev.body.chan ch).free = rest ∧
        (t.dev.body.chan ch).ready = (b.chan ch).ready ++ [(sl, min cap (rewritten p).length)] ∧
        ((rewritten p).length ≤ cap → t.dev.body.mem.grt = Mem.write b.mem.grt (b.slotAddr ch sl) (rewritten p)) ∧
        (cap < (rewritten p).length → t.ctr (Pg.cplx 1) g = (s.ctr (Pg.cplx 1) g + 1) % 2 ^ 64)) ∧
  (∀ (e : EgrPkt) (p : Pkt) (s : State), s.runs [3] →
    let b := s.dev.body
    b.host.held = none → b.egrNext 528 = some (e, p) → p.linkBad = false → p.chkBad = false → p.rw.checkOk = true →
    s.reg (Pg.rew e.slice) R.REW_INJ_CNT = 0 →
    let cls := e.queue % 8
    let n := s.reg Pg.hif R.HIF_PUNT_RING cls + p.hv.flowHash % 2 ^ s.reg Pg.hif R.HIF_PUNT_SPREAD cls
    let takes := n < 240 ∧ b.ringRuns n KIND_PUNT = true ∧ b.dmaOk = true
    let counts := fun (t : State) (i : Nat) => t.ctr Pg.hif i = (s.ctr Pg.hif i + 1) % 2 ^ 64
      ∃ t, exec .hostPunt s = .next t ∧ t.dev.body.sch.egr = b.sch.egr.erase e ∧ t.dev.body.tbls = b.tbls ∧
        ((b.poolFor 1 0 10272 = none ∨ ∃ m, b.poolFor 1 0 10272 = some m ∧ s.reg (Pg.pool m) R.POOL_FREE_CNT = 0) →
          counts t HIF_PUNT_NOBUF ∧ t.dev.body.host = b.host) ∧
        (∀ m, b.poolFor 1 0 10272 = some m → s.reg (Pg.pool m) R.POOL_FREE_CNT ≠ 0 →
          (¬ takes → counts t HIF_PUNT_DROP) ∧
          (∀ l, takes → (∀ x ∈ b.host.arm, x.1 ≠ n) → b.puntPlan n 41 (b.ringFront n) (rewritten p).length = .ok (some l) →
            counts t HIF_PUNT_PKTS ∧ (t.dev.body.run n).done = (b.run n).done ++ [(l.length, (rewritten p).length - 32)])))

/-- R229, R230: the BUFFER loop moves a profile's share only inside the profile's envelope, and nothing else of its entry, and forgets
which profiles wrote spans; a write of CHM_INJ_GO arms the error of its kind on its queue. -/
def Obligations.BufferLoopAndInjection : Prop :=
  (∀ (s : State), s.runs [2] → (∀ p < 64, prShareMin (s.ent Tbl.profile p) ≤ prShareMax (s.ent Tbl.profile p)) →
    ∃ t, exec .bufferLoopDecision s = .next t ∧ t.dev.body.buf.wrote = [] ∧ t.dev.body.buf.queues = s.dev.body.buf.queues ∧
      ∀ p < 64, t.ent Tbl.profile p = s.ent Tbl.profile p ∨
        (prValid (s.ent Tbl.profile p) = true ∧ prSpill (s.ent Tbl.profile p) = true ∧
          ∃ v, t.ent Tbl.profile p = setBitField (s.ent Tbl.profile p) 21 0 v ∧
            prShareMin (s.ent Tbl.profile p) ≤ v ∧ v ≤ prShareMax (s.ent Tbl.profile p))) ∧
  (∀ (m : Nat) (s : State), s.takes m (Pg.chm + 0xB8) →
    let q := s.reg Pg.chm R.CHM_INJ_Q
    let x := s.dev.body.queueOf q
    ∃ t, exec (.chmInject m) s = .next t ∧ s.keeps t [Pg.chm] ∧
      let y := t.dev.body.queueOf q
      (s.reg Pg.chm R.CHM_INJ_KIND = 0 → y.chkArm = true) ∧ (s.reg Pg.chm R.CHM_INJ_KIND = 1 → y.linkArm = true) ∧
      (s.reg Pg.chm R.CHM_INJ_KIND = 2 → y.sumpUeArm = true) ∧ (s.reg Pg.chm R.CHM_INJ_KIND = 3 → y.farUeArm = true) ∧
      y.head = x.head ∧ y.spans = x.spans ∧ y.tail = x.tail ∧
      (∀ k, k ≠ q → t.dev.body.queueOf k = s.dev.body.queueOf k) ∧
      t.reg Pg.chm R.CHM_INJ_KIND = s.reg Pg.chm R.CHM_INJ_KIND ∧ t.reg Pg.chm R.CHM_INJ_Q = q)


/-! Tables. -/

/-- R153 to R157, R166: a command of an exact-match context whose type is reserved answers BAD_TYPE. INSERT of a key that is there
answers DUPLICATE, and of one that is not takes the lowest free slot of its first bucket that has one. DELETE clears the entry, UPDATE
rewrites its result, LOOKUP returns it, and each answers NOT_FOUND for a key that is not there. HASH returns the two buckets. -/
def Obligations.ExactMatchCommands : Prop :=
  ∀ (c m ty : Nat) (s : State), c < 4 → ty < 16 → s.takes m (Pg.exmCtx c + 0x9C) → s.dev.body.boundSlot m = none →
    s.reg (Pg.exmCtx c) R.EXM_BUSY = 0 →
    let p := Pg.exmCtx c
    let b := s.dev.body.wr p R.EXM_TYPE ty
    let k := b.ctxKey c
    let copies := b.exmCopies b.nowSeq k
    let same := fun (t : State) => t.dev.body.tbls = s.dev.body.tbls
    let but := fun (t : State) (tbl n v : Nat) => t.ent tbl n = v ∧ ∀ tid j, entKey tid j ≠ entKey tbl n → t.ent tid j = s.ent tid j
    (ty = 0 ∨ 3 < ty → ∀ i ∈ [Instr.exmInsert c m ty, .exmDelete c m ty, .exmUpdate c m ty, .exmLookup c m ty, .exmHash c m ty],
      ∃ t, exec i s = .next t ∧ t.reg p R.EXM_RC = 4 ∧ same t) ∧
    (1 ≤ ty → ty ≤ 3 →
      (copies ≠ [] → ∃ t, exec (.exmInsert c m ty) s = .next t ∧ t.reg p R.EXM_RC = 1 ∧ same t) ∧
      (copies = [] → ty ≠ 3 → ∀ bk i, (b.exmBuckets k).findSome? (fun bk => (b.exmFreeSlot false bk).map fun i => (bk, i)) = some (bk, i) →
        ∃ t, exec (.exmInsert c m ty) s = .next t ∧ t.reg p R.EXM_RC = 0 ∧ t.reg p R.EXM_LOC = (4 * bk + i) % 2 ^ 26 ∧
          t.reg p R.EXM_MOVES = 0 ∧ but t Tbl.exm (4 * bk + i) (xSlot ty k.k1 (s.reg p R.EXM_RES) false false)) ∧
      (copies = [] → ∀ i ∈ [Instr.exmDelete c m ty, .exmUpdate c m ty, .exmLookup c m ty],
        ∃ t, exec i s = .next t ∧ t.reg p R.EXM_RC = 2 ∧ same t) ∧
      (∀ l r, copies = l :: r →
        let tbl := match l with | .slot _ => Tbl.exm | .stash _ => Tbl.stash
        let n := match l with | .slot n => n | .stash n => n
        (ty ≠ 3 → ∃ t, exec (.exmDelete c m ty) s = .next t ∧ t.reg p R.EXM_RC = 0 ∧ but t tbl n 0) ∧
        (∃ t, exec (.exmUpdate c m ty) s = .next t ∧ t.reg p R.EXM_RC = 0 ∧
          but t tbl n (setBitField (s.ent tbl n) 119 96 (s.reg p R.EXM_RES))) ∧
        (∃ t, exec (.exmLookup c m ty) s = .next t ∧ t.reg p R.EXM_RC = 0 ∧ t.reg p R.EXM_RES = b.exmResAt b.nowSeq l % 2 ^ 24 ∧
          t.reg p R.EXM_LOC = l.code % 2 ^ 26 ∧ same t)) ∧
      (∀ x y, b.exmBuckets k = [x, y] → ∃ t, exec (.exmHash c m ty) s = .next t ∧ t.reg p R.EXM_RC = 0 ∧
        t.reg p R.EXM_H0 = x % 2 ^ 23 ∧ t.reg p R.EXM_H1 = y % 2 ^ 23 ∧ same t))

/-- R123, R131, R144, R148, R150, R162, R167: LPM_DRAIN is set and cleared; when it clears, the trie lines that the MIGRATE loop has replaced are
free and the Dripstone entries that it has acted on are cleared; compare-and-clear clears a Dripstone entry that is valid with
the generation given, and nothing else; a scrubber, one read an interval, repairs a CAM entry that its copy differs from, and reports a copy whose parity is
bad; an injection turns a CAM key bit over or breaks the parity of a copy.
Where nothing has begun a wait, it counts as over (the model's choice: log entry 47). -/
def Obligations.DripstoneAndScrubbers : Prop :=
  (∀ (m : Nat) (s : State), s.takes m (Pg.lpm + 0x84) →
    ∃ t, exec (.lpmDrain m) s = .next t ∧ t.reg Pg.lpm R.LPM_DRAIN = 1 ∧ s.keeps t [Pg.lpm]) ∧
  (∀ (s : State), s.runs [15] →
    let b := s.dev.body
    ∃ t, exec .lpmDrainDone s = .next t ∧ t.reg Pg.lpm R.LPM_DRAIN = 0 ∧ t.dev.body.pipe.trieFree = [] ∧ t.dev.body.pipe.dsWait = [] ∧
      (b.pipe.trieFree = [] → b.pipe.dsWait = [] → s.keeps t [Pg.lpm, Pg.governor]) ∧
      ((∀ l ∈ b.pipe.trieFree, l < 6291456) → (∀ e ∈ b.pipe.dsWait, e.1 < 65536) →
        (∀ l ∈ b.pipe.trieFree, t.ent Tbl.trie l = 0) ∧
        (∀ l, l < 6291456 → l ∉ b.pipe.trieFree → t.ent Tbl.trie l = s.ent Tbl.trie l) ∧
        (∀ e ∈ b.pipe.dsWait, dsValid (s.ent Tbl.ds e.1) = true → dsGen (s.ent Tbl.ds e.1) = e.2 →
          t.ent Tbl.ds e.1 = setBitField 0 199 192 (e.2 + 1)) ∧
        (∀ i, i < 65536 → (∀ e ∈ b.pipe.dsWait, e.1 ≠ i) → t.ent Tbl.ds i = s.ent Tbl.ds i))) ∧
  (∀ (m : Nat) (s : State), s.takes m (Pg.ds + 0x94) →
    let i := s.reg Pg.ds R.DS_CAC_IDX
    let e := s.ent Tbl.ds i
    ∃ t, exec (.dsCompareAndClear m) s = .next t ∧
      (dsValid e = false → t.reg Pg.ds R.DS_CAC_RC = 3 ∧ t.dev.body.tbls = s.dev.body.tbls) ∧
      (dsValid e = true → dsGen e ≠ s.reg Pg.ds R.DS_CAC_GEN → t.reg Pg.ds R.DS_CAC_RC = 2 ∧ t.dev.body.tbls = s.dev.body.tbls) ∧
      (dsValid e = true → dsGen e = s.reg Pg.ds R.DS_CAC_GEN → t.reg Pg.ds R.DS_CAC_RC = 1 ∧
        t.ent Tbl.ds i = setBitField 0 199 192 (dsGen e + 1) ∧ dsValid (t.ent Tbl.ds i) = false ∧
        ∀ j, j ≠ i → t.ent Tbl.ds j = s.ent Tbl.ds j)) ∧
  (∀ (i : Nat) (s : State), s.runs [15] → i < 262144 → s.reg Pg.cls R.CLS_SCRUB_EN = 1 →
    let b := s.dev.body
    let due := b.passed Mk.clsScrub (max 16 (s.reg Pg.cls R.CLS_SCRUB_INT))
    (due = false → exec (.clsScrub i) s = .next s) ∧
    (due = true → b.parityBad Tbl.cls i = false → b.camFlip Tbl.cls i ≠ 0 →
      ∃ t, exec (.clsScrub i) s = .next t ∧ t.dev.body.camFlip Tbl.cls i = 0 ∧ t.reg Pg.cls R.CLS_ERR_KIND = 3 ∧
        t.reg Pg.cls R.CLS_ERR_IDX = i ∧ t.reg Pg.cls R.CLS_SCRUB_FIX = min (s.reg Pg.cls R.CLS_SCRUB_FIX + 1) (2 ^ 32 - 1) ∧
        t.evt Pg.cls R.CLS_EVT_SCRUB ∧ s.keeps t [Pg.cls]) ∧
    (due = true → b.parityBad Tbl.cls i = true →
      ∃ t, exec (.clsScrub i) s = .next t ∧ t.flt Pg.cls R.CLS_FLT_COPY ∧ t.dev.body.camFlip Tbl.cls i = b.camFlip Tbl.cls i ∧
        s.keeps t [Pg.cls]) ∧
    (due = true → b.parityBad Tbl.cls i = false → b.camFlip Tbl.cls i = 0 →
      ∃ t, exec (.clsScrub i) s = .next t ∧ t.dev.body.pipe = b.pipe ∧ s.keeps t [])) ∧
  (∀ (i : Nat) (s : State), s.runs [15] → i < 65536 → s.reg Pg.ds R.DS_SCRUB_EN = 1 →
    let b := s.dev.body
    let due := b.passed Mk.dsScrub (max 16 (s.reg Pg.ds R.DS_SCRUB_INT))
    (due = false → exec (.dsScrub i) s = .next s) ∧
    (due = true → b.parityBad Tbl.ds i = false → b.camFlip Tbl.ds i ≠ 0 →
      ∃ t, exec (.dsScrub i) s = .next t ∧ t.dev.body.camFlip Tbl.ds i = 0 ∧
        t.reg Pg.ds R.DS_SCRUB_FIX = min (s.reg Pg.ds R.DS_SCRUB_FIX + 1) (2 ^ 32 - 1) ∧ t.evt Pg.ds R.DS_EVT_SCRUB ∧ s.keeps t [Pg.ds]) ∧
    (due = true → b.parityBad Tbl.ds i = true →
      ∃ t, exec (.dsScrub i) s = .next t ∧ t.flt Pg.ds R.DS_FLT_COPY ∧ t.dev.body.camFlip Tbl.ds i = b.camFlip Tbl.ds i ∧
        s.keeps t [Pg.ds]) ∧
    (due = true → b.parityBad Tbl.ds i = false → b.camFlip Tbl.ds i = 0 →
      ∃ t, exec (.dsScrub i) s = .next t ∧ t.dev.body.pipe = b.pipe ∧ s.keeps t [])) ∧
  (∀ (m : Nat) (s : State), s.takes m (Pg.cls + 0x98) →
    let i := s.reg Pg.cls R.CLS_INJ_IDX
    let bit := s.reg Pg.cls R.CLS_INJ_BIT
    let flip := s.dev.body.camFlip Tbl.cls i
    ∃ t, exec (.clsInject m) s = .next t ∧ s.keeps t [Pg.cls] ∧
      (s.reg Pg.cls R.CLS_INJ_COPY = 1 → t.dev.body.parityBad Tbl.cls i = true ∧ t.dev.body.camFlip Tbl.cls i = flip) ∧
      (s.reg Pg.cls R.CLS_INJ_COPY = 0 → t.dev.body.camFlip Tbl.cls i = (if bit < 160 then flip ^^^ 2 ^ bit else flip) ∧
        t.dev.body.pipe.parBad = s.dev.body.pipe.parBad)) ∧
  (∀ (m : Nat) (s : State), s.takes m (Pg.ds + 0xA8) →
    let i := s.reg Pg.ds R.DS_INJ_IDX
    let bit := s.reg Pg.ds R.DS_INJ_BIT
    let flip := s.dev.body.camFlip Tbl.ds i
    ∃ t, exec (.dsInject m) s = .next t ∧ s.keeps t [Pg.ds] ∧
      (s.reg Pg.ds R.DS_INJ_COPY = 1 → t.dev.body.parityBad Tbl.ds i = true ∧ t.dev.body.camFlip Tbl.ds i = flip) ∧
      (s.reg Pg.ds R.DS_INJ_COPY = 0 → t.dev.body.camFlip Tbl.ds i = (if bit < 176 then flip ^^^ 2 ^ bit else flip) ∧
        t.dev.body.pipe.parBad = s.dev.body.pipe.parBad)) ∧
  (∀ (m : Nat) (s : State), s.takes m (Pg.vault + 0x98) →
    let k := s.reg Pg.vault R.VLT_INJ_TABLE
    let i := s.reg Pg.vault R.VLT_INJ_IDX
    ∃ t, exec (.vltParInject m) s = .next t ∧ s.keeps t [Pg.vault] ∧
      (1 ≤ k → k ≤ 9 → i < tblCount k → t.dev.body.parityBad k i = true) ∧
      (¬ (1 ≤ k ∧ k ≤ 9 ∧ i < tblCount k) → t.dev.body.pipe.parBad = s.dev.body.pipe.parBad))

/-- R143, R144, R147, R150, R158, R167: the MIGRATE loop in AUTO, with no action on the same table within its interval, puts a route
entry's prefix into the trie or takes a withdrawn one out, and sets LPM_DRAIN, at whose end the Dripstone entry is cleared; it moves a stash entry into the table, where it
has room there; it rebuilds a trie; it builds the root of a newly valid VRF. -/
def Obligations.MigrateLoop : Prop :=
  ∀ (s : State), s.runs [15] → s.reg Pg.governor R.GOV_MODE_EFF LOOP_MIGRATE = 0 →
    let b := s.dev.body
    let ready := fun table => ∀ e ∈ b.gov.lastAct, e.1 = LOOP_MIGRATE * 2 ^ 24 + table →
      e.2 + s.reg Pg.governor R.GOV_MIN_INTERVAL LOOP_MIGRATE * 1000 ≤ b.clk
    let drains := fun (t : State) => t.reg Pg.lpm R.LPM_DRAIN = 1 ∧ t.reg Pg.governor R.GOV_BUSY LOOP_MIGRATE = 1 ∧
      (∀ l ∈ b.pipe.trieFree, l ∈ t.dev.body.pipe.trieFree) ∧ ∀ j, j < 65536 → t.ent Tbl.ds j = s.ent Tbl.ds j
    let waits := fun (t : State) (i : Nat) => drains t ∧ (i, dsGen (s.ent Tbl.ds i)) ∈ t.dev.body.pipe.dsWait
    let trie := fun (t : State) (c : Body) => ∀ n < 6291456, t.ent Tbl.trie n = c.ent Tbl.trie n
    (∀ i c, i < 65536 → ready Tbl.trie → dsValid (b.ent Tbl.ds i) = true → dsWithdraw (b.ent Tbl.ds i) = false →
      b.parityBad Tbl.ds i = false → b.rootReady (Body.dsRoot (b.ent Tbl.ds i)) = true →
      b.rebuild (Body.dsRoot (b.ent Tbl.ds i)) (pfxPut (b.rootPfxs (Body.dsRoot (b.ent Tbl.ds i))).1 (dsLen (b.ent Tbl.ds i)) (Body.dsBits (b.ent Tbl.ds i))
        (dsNh (b.ent Tbl.ds i))) = some c →
        ∃ t, exec (.migrate i) s = .next t ∧ waits t i ∧ trie t c) ∧
    (∀ i c, i < 65536 → ready Tbl.trie → dsValid (b.ent Tbl.ds i) = true → dsWithdraw (b.ent Tbl.ds i) = true →
      b.parityBad Tbl.ds i = false → b.rootReady (Body.dsRoot (b.ent Tbl.ds i)) = true →
      b.rebuild (Body.dsRoot (b.ent Tbl.ds i)) (pfxDel (b.rootPfxs (Body.dsRoot (b.ent Tbl.ds i))).1 (dsLen (b.ent Tbl.ds i))
        (Body.dsBits (b.ent Tbl.ds i))) = some c →
      (pfxDel (b.rootPfxs (Body.dsRoot (b.ent Tbl.ds i))).1 (dsLen (b.ent Tbl.ds i)) (Body.dsBits (b.ent Tbl.ds i))).length <
        (b.rootPfxs (Body.dsRoot (b.ent Tbl.ds i))).1.length →
        ∃ t, exec (.withdraw i) s = .next t ∧ waits t i ∧ trie t c) ∧
    (∀ i, i < 65536 → ready Tbl.trie → dsValid (b.ent Tbl.ds i) = true → dsWithdraw (b.ent Tbl.ds i) = true →
      b.parityBad Tbl.ds i = false →
      (pfxDel (b.rootPfxs (Body.dsRoot (b.ent Tbl.ds i))).1 (dsLen (b.ent Tbl.ds i)) (Body.dsBits (b.ent Tbl.ds i))).length =
        (b.rootPfxs (Body.dsRoot (b.ent Tbl.ds i))).1.length →
        ∃ t, exec (.withdraw i) s = .next t ∧ waits t i ∧ trie t b) ∧
    (∀ i k bk n, i < 1024 → bk < 8388608 → ready Tbl.exm → b.stashKeyAt i = some k → k.wide = false →
      (b.exmBuckets k).findSome? (fun bk => (b.exmFreeSlot false bk).map fun n => (bk, n)) = some (bk, n) →
        ∃ t, exec (.stashReinsert i) s = .next t ∧ t.ent Tbl.stash i = 0 ∧
          t.ent Tbl.exm (4 * bk + n) = xSlot k.ty k.k1 (xRes (s.ent Tbl.stash i % 2 ^ 128)) false false ∧
          ∀ j, j ≠ i → j < 1024 → t.ent Tbl.stash j = s.ent Tbl.stash j) ∧
    (∀ i c, i < 131072 → ready Tbl.trie → b.rootReady i = true → b.rebuild i (b.rootPfxs i).1 = some c →
      ∃ t, exec (.trieCompact i) s = .next t ∧ drains t ∧ trie t c) ∧
    (∀ i line, i < 131072 → ready 0xFF → bitOn (b.ent Tbl.root i) 63 = true →
      bitOn (b.ent Tbl.root i) 31 = true ∨ i ∈ b.pipe.newRoots → Body.runIn 1 (b.trieUsed i) 0 = some line →
        ∃ t, exec (.rootBuild i) s = .next t ∧ t.ent Tbl.root i = setBitField (s.ent Tbl.root i) 31 0 line ∧
          t.dev.body.pipe.newRoots = b.pipe.newRoots.erase i ∧ tnValid (t.ent Tbl.trie line) = true ∧
          ∀ j, j ≠ i → j < 131072 → t.ent Tbl.root j = s.ent Tbl.root j)

/-- R163, R183, R184, R203: the digest comparator, once a region's lines are read, moves to the next region, reports a region whose digest differs and skips one that was
written; a flush marks every delta present, its end adds a marked one into the Sump and fires its event; a write-back adds a delta line into the
Sump and leaves the line empty; an injection arms an error on a delta line or a policer.
Where nothing has begun a wait, it counts as over (the model's choice: log entry 47). -/
def Obligations.DigestsAndStatistics : Prop :=
  (∀ (s : State), s.runs [15] → s.reg Pg.vault R.VLT_DIG_EN = 1 →
    let b := s.dev.body
    let r := b.pipe.digPass
    let e := b.ent Tbl.digest r
    let due := b.passed Mk.digest (Body.regionLines * max 2 (s.reg Pg.vault R.VLT_DIG_INT))
    (due = false → exec .digestCheck s = .next s) ∧
    (due = true → ∃ t, exec .digestCheck s = .next t ∧ t.dev.body.pipe.digPass = (r + 1) % 1152 ∧ t.dev.body.tbls = b.tbls ∧
      (bitOn e 63 = true → r ∉ b.pipe.digDirty → b.regionDigest r ≠ e % 2 ^ 32 →
        t.evt Pg.vault R.VLT_EVT_DIGEST ∧ t.flt Pg.vault R.VLT_FLT_DIGEST ∧ t.reg Pg.vault R.VLT_DIG_LAST = r % 2 ^ 11 ∧
        t.reg Pg.vault R.VLT_DIG_MISM = min (s.reg Pg.vault R.VLT_DIG_MISM + 1) (2 ^ 32 - 1)) ∧
      (bitOn e 63 = true → r ∈ b.pipe.digDirty →
        t.reg Pg.vault R.VLT_DIG_SKIP = min (s.reg Pg.vault R.VLT_DIG_SKIP + 1) (2 ^ 32 - 1) ∧
        t.reg Pg.vault R.VLT_DIG_MISM = s.reg Pg.vault R.VLT_DIG_MISM))) ∧
  (∀ (m : Nat) (s : State), s.takes m (Pg.stc + 0x80) →
    ∃ t, exec (.stcFlush m) s = .next t ∧ t.reg Pg.stc R.STC_FLUSH = 1 ∧ t.dev.body.stat.flush = s.dev.body.stat.lines ∧
      t.dev.body.stat.lines = s.dev.body.stat.lines ∧ t.reg Pg.stc R.STC_WB_MAX = s.reg Pg.stc R.STC_WB_MAX) ∧
  (∀ (s : State), s.runs [15] → s.reg Pg.stc R.STC_FLUSH = 1 →
    ∃ t, exec .stcFlushDone s = .next t ∧ t.reg Pg.stc R.STC_FLUSH = 0 ∧ t.dev.body.stat.flush = [] ∧
      t.evt Pg.stc R.STC_EVT_FLUSHED ∧ t.dev.body.tbls = s.dev.body.tbls ∧
      ∀ k d, s.dev.body.stat.flush = [(k, d)] → k < 1073741824 → k ∉ s.dev.body.stat.bad → s.dev.body.statLine k ≠ {} →
        s.dev.body.lineBad (Sump.pairAddr k / 64 * 64) = false →
        t.dev.body.pairMem k = (((s.dev.body.pairMem k).1 + d.pkts) % 2 ^ 64, ((s.dev.body.pairMem k).2 + d.bytes) % 2 ^ 64)) ∧
  (∀ (k : Nat) (s : State), s.runs [15] → k < 1073741824 → k ∉ s.dev.body.stat.bad →
    let l := s.dev.body.statLine k
    l ≠ {} →
    ∃ t, exec (.statWriteback k) s = .next t ∧ t.dev.body.statLine k = {} ∧
      (∀ j, j ≠ k → t.dev.body.statLine j = s.dev.body.statLine j) ∧
      (s.dev.body.lineBad (Sump.pairAddr k / 64 * 64) = false → t.dev.body.pairMem k =
        (((s.dev.body.pairMem k).1 + l.pkts) % 2 ^ 64, ((s.dev.body.pairMem k).2 + l.bytes) % 2 ^ 64)) ∧
      t.reg Pg.stc R.STC_WB = min (s.reg Pg.stc R.STC_WB + 1) (2 ^ 32 - 1) ∧ t.dev.body.tbls = s.dev.body.tbls) ∧
  (∀ (m : Nat) (s : State), s.takes m (Pg.stc + 0x9C) →
    let i := s.reg Pg.stc R.STC_INJ_IDX
    ∃ t, exec (.stcInject m) s = .next t ∧ s.keeps t [Pg.stc] ∧
      (s.reg Pg.stc R.STC_INJ_POL = 0 → i ∈ t.dev.body.stat.bad ∧ t.dev.body.pipe.polBad = s.dev.body.pipe.polBad) ∧
      (s.reg Pg.stc R.STC_INJ_POL = 1 → i ∈ t.dev.body.pipe.polBad ∧ t.dev.body.stat.bad = s.dev.body.stat.bad))


/-! Time, clocks and power. -/

/-- R302, R303, R305, R306, R307: a write of TOD_PHASE_ADJ replaces the slew; a slew that ends has moved the time by its amount; TOD_STEP
sets the time and ends the slew, or is refused with an event; a read of TOD_RD_FRAC latches the time for its master. TOD_VALID is set only
where no loss condition lasts; the loss of a reference clears it. A 1PPS input edge captures the time, 1.1 s without one is its loss, and the
output, where it is on, rises at a second that has passed.
Where nothing has begun a wait, it counts as over (the model's choice: log entry 47). -/
def Obligations.TimeOfDay : Prop :=
  (∀ (m v : Nat) (s : State), v < 2 ^ 32 → s.takes m (Pg.lamp + 0xA4) →
    ∃ t, exec (.todPhaseAdj m v) s = .next t ∧ t.dev.body.lamp.slew = signed 32 v * (65536 * 1000000000 : Nat) ∧ t.dev.body.tod = s.dev.body.tod ∧
      s.keeps t [Pg.lamp]) ∧
  (∀ (s : State), s.runs [17] →
    ∃ t, exec .todSlewEnd s = .next t ∧ t.dev.body.lamp.slew = 0 ∧
      ((t.dev.body.tod * 1000000000 + t.dev.body.lamp.todRem : Nat) : Int) =
        (((s.dev.body.tod * 1000000000 + s.dev.body.lamp.todRem : Nat) : Int) + s.dev.body.lamp.slew) %
          ((2 ^ 48 * 1000000000 * 65536 * 1000000000 : Nat) : Int)) ∧
  (∀ (m : Nat) (s : State), s.takes m (Pg.lamp + 0x80) →
    (s.reg Pg.lamp R.TOD_SET_NS ≤ 999999999 →
      ∃ t, exec (.todStep m) s = .next t ∧ t.dev.body.lamp.slew = 0 ∧
        t.dev.body.tod = ((s.reg Pg.lamp R.TOD_SET_SECHI * 2 ^ 32 + s.reg Pg.lamp R.TOD_SET_SECLO) * 1000000000 +
          s.reg Pg.lamp R.TOD_SET_NS) * 65536) ∧
    (999999999 < s.reg Pg.lamp R.TOD_SET_NS →
      ∃ t, exec (.todStep m) s = .next t ∧ t.dev.body.tod = s.dev.body.tod ∧ t.dev.body.lamp.slew = s.dev.body.lamp.slew ∧
        t.evt Pg.lamp R.LAMP_EVT_BADCFG) ∧
    (s.dev.body.todLoss = false → ∃ t, exec (.todValidSet m) s = .next t ∧ t.reg Pg.lamp R.TOD_VALID = 1 ∧ s.keeps t [Pg.lamp]) ∧
    (s.dev.body.todLoss = true → ∃ t, exec (.todValidSet m) s = .next t ∧ t.reg Pg.lamp R.TOD_VALID = 0 ∧ s.keeps t [Pg.lamp]) ∧
    (∃ t, exec (.todValidClr m) s = .next t ∧ t.reg Pg.lamp R.TOD_VALID = 0 ∧ s.keeps t [Pg.lamp] ∧
      (s.reg Pg.lamp R.TOD_VALID = 1 → t.evt Pg.lamp R.TOD_EVT_INVALID))) ∧
  (∀ (m : Nat) (s : State), s.answers m (Pg.lamp + 0x90) → s.reg Pg.lamp R.PG_RESET_BUSY = 0 →
    ∃ t, exec (.todReadLatch m) s = .next t ∧ t.dev.body.latched m = s.dev.body.tod ∧ s.keeps t []) ∧
  (∀ (s : State), s.runs [17] →
    let b := s.dev.body
    let at_ := ((b.tod : Int) - signed 16 (s.reg Pg.lamp R.TOD_PPS_IN_ADJ) * 65536 / 1000).toNat / 65536
    (∃ t, exec .ppsInEdge s = .next t ∧ t.reg Pg.lamp R.TOD_PPS_CAP_NS = at_ % 1000000000 ∧
      t.reg Pg.lamp R.TOD_PPS_CAP_SEC = at_ / 1000000000 % 2 ^ 32 ∧ t.dev.body.lamp.ppsLost = false ∧ t.evt Pg.lamp R.TOD_EVT_PPS) ∧
    (b.passed Mk.pps 1100000000 = true →
      ∃ t, exec .ppsLoss s = .next t ∧ t.dev.body.lamp.ppsLost = true ∧ t.evt Pg.lamp R.TOD_EVT_PPS_LOSS ∧
        (s.reg Pg.lamp R.TOD_PPS_REQ = 1 → t.reg Pg.lamp R.TOD_VALID = 0)) ∧
    (b.passed Mk.pps 1100000000 = false → exec .ppsLoss s = .next s) ∧
    (b.lamp.ppsDue = false → exec .ppsOutEdge s = .next s) ∧
    (b.lamp.ppsDue = true → s.reg Pg.lamp R.TOD_PPS_OUT_EN = 1 →
      ∃ t, exec .ppsOutEdge s = .next t ∧ t.dev.body.lamp.ppsOut = true ∧ t.dev.body.lamp.ppsOff = b.clk + b.ppsWidth ∧ s.keeps t [])) ∧
  (∀ (s : State), s.dev.body.sup.mode ≠ .off →
    (s.dev.body.lamp.refLost = false →
      ∃ t, exec .sysrefLoss s = .next t ∧ t.dev.body.lamp.refLost = true ∧ t.reg Pg.lamp R.TOD_VALID = 0 ∧ t.evt Pg.lamp R.TOD_EVT_REF_LOSS) ∧
    (s.dev.body.sup.mode = .running → ∃ t, exec .sysrefReturn s = .next t ∧ t.dev.body.lamp.refLost = false ∧ s.keeps t []))

/-- R287, R289, R290, R311, R313, R314, R317: a PLL other than a Gallery's that loses lock stops its domain, and a Gallery's wakes its
Gallery anew; an injection sets the detector alone. A comparator that has had its samples beyond the threshold trips, counts, and takes
its action, and re-arms on the other side of its hysteresis. Sensors and monitors show their samples. -/
def Obligations.ClocksAndComparators : Prop :=
  (∀ (d : Nat) (s : State), s.runs [] → 1 ≤ d → d < 18 →
    (d < 5 ∨ 12 < d → ∃ t, exec (.pllLossOfLock d) s = .next t ∧ t.dev.body.clkRuns d = false ∧ t.reg Pg.clocks R.CLK_LOL_SEEN d = 1 ∧
      t.evt Pg.clocks R.CLK_EVT_LOL ∧ t.flt Pg.clocks R.CLK_FLT_LOL ∧ s.keeps t [Pg.clocks]) ∧
    (5 ≤ d → d ≤ 12 → ∃ t, exec (.pllLossOfLock d) s = .next t ∧ t.dev.body.galState (d - 5) = 7 ∧
      t.reg (Pg.galPower (d - 5)) R.GAL_WAKE_CAUSE = 7)) ∧
  (∀ (m : Nat) (s : State), s.takes m (Pg.clocks + 0x110) →
    let d := s.reg Pg.clocks R.CLK_INJ_DOM
    1 ≤ d → d < 18 → (d < 5 ∨ 12 < d) →
      ∃ t, exec (.clkInject m) s = .next t ∧ t.dev.body.lamp.lost = s.dev.body.lamp.lost ∧ t.reg Pg.clocks R.CLK_LOL_SEEN d = 1 ∧
        t.evt Pg.clocks R.CLK_EVT_LOL ∧ t.flt Pg.clocks R.CLK_FLT_LOL ∧ s.keeps t [Pg.clocks]) ∧
  (∀ (n : Nat) (s : State), n < 64 → s.dev.body.sup.mode = .running → s.dev.body.sup.lampOnly = false →
    let e := s.ent Tbl.glow n
    Body.glwValid e = true →
    (Body.glwTripped e = false → Body.glwDebounce e < Sp.get 0 s.dev.body.lamp.run n →
      ∃ t, exec (.glowwormTrip n) s = .next t ∧ t.ent Tbl.glow n = setBitField (setBitField e 159 128 (Body.glwFires e + 1)) 254 254 1 ∧
        (∀ j, j ≠ n → t.ent Tbl.glow j = s.ent Tbl.glow j) ∧
        (Body.glwAct e = 0 ∨ Body.glwAct e = 1 → t.evt Pg.lamp R.LAMP_EVT_GLW) ∧ (Body.glwAct e = 1 → t.flt Pg.lamp R.GLW_FLT_TRIP) ∧
        (Body.glwAct e = 10 → t.reg Pg.lamp R.TH_THROTTLED = 1) ∧ (Body.glwAct e = 11 → t.dev.body.sup.mode = .tripped ∧ t.reg Pg.lamp R.TH_TRIP_LAST = 1)) ∧
    (Body.glwTripped e = true → 16 ≤ Body.glwSrc e → Body.glwBack e (Body.glwValue e) = true →
      ∃ t, exec (.glowwormRearm n) s = .next t ∧ t.ent Tbl.glow n = setBitField e 254 254 0 ∧
        (∀ j, j ≠ n → t.ent Tbl.glow j = s.ent Tbl.glow j) ∧ Sp.get 0 t.dev.body.lamp.run n = 0 ∧
        (Body.glwAct e = 10 → t.reg Pg.lamp R.TH_THROTTLED = 0))) ∧
  (∀ (temps volts : List (Option Nat)) (est : Option Nat) (s : State), temps.length = 24 → temps.all sampleOk = true → volts.length = 16 →
    volts.all sampleOk = true → (est.all fun x => decide (x < 2048)) = true → s.dev.body.sup.mode = .running →
    s.dev.body.sup.lampOnly = false →
    ∃ t, exec (.sensorSample temps volts est) s = .next t ∧
      (∀ i v, temps[i]? = some (some v) → t.reg Pg.lamp R.TEMP_OK i = 1 ∧ t.reg Pg.lamp R.TEMP i = v) ∧
      (∀ i, temps[i]? = some none → t.reg Pg.lamp R.TEMP_OK i = 0 ∧ t.reg Pg.lamp R.TEMP i = s.reg Pg.lamp R.TEMP i) ∧
      (∀ i v, volts[i]? = some (some v) → t.reg Pg.lamp R.VMON_OK i = 1 ∧ t.reg Pg.lamp R.VMON i = v) ∧
      (∀ v, est = some v → t.reg Pg.lamp R.TH_PWR_EST = v))

/-- R291 to R297: a power request of an active Gallery sets its step in force, and one of the host is refused while the POWER loop owns
it. A Gallery idle for its time enters the resting state it may; a wake source that is there starts its wake; power-good and the first head end it, with the step in
force, the epoch and the longest wake; a power-good that does not come in 10 µs is reported. -/
def Obligations.GalleryPowerStates : Prop :=
  ∀ (g : Nat) (s : State), g < 8 →
    let b := s.dev.body
    let p := Pg.galPower g
    let x := b.gp g
    let st := s.reg p R.PG_PWR_STATE
    (∀ m req, req < 16 → s.reaches m (p + 0x18) →
      (b.ownerRefuses LOOP_POWER m = true →
        ∃ t, exec (.galleryPowerRequest g m req) s = .next t ∧ t.evt Pg.governor R.GOV_EVT_OWNER ∧ t.reg p R.PG_PWR_REQ = s.reg p R.PG_PWR_REQ ∧
          t.reg p R.PG_PWR_STATE = st) ∧
      (b.ownerRefuses LOOP_POWER m = false → b.loopAuto LOOP_POWER = true ∨ (req % 4 ≤ s.reg p R.GAL_ENV_STEP ∧ req / 4 ≤ s.reg p R.GAL_ENV_REST) →
        st ≤ 3 →
        ∃ t, exec (.galleryPowerRequest g m req) s = .next t ∧ t.reg p R.PG_PWR_REQ = req ∧
          t.reg p R.PG_PWR_STATE = max (max (req % 4) (s.reg Pg.lamp R.TH_CAP)) (if s.reg Pg.lamp R.TH_THROTTLED = 1 then 3 else 0) ∧
          s.keeps t [p])) ∧
    (s.runs [] → st ≤ 3 → s.reg p R.PG_PWR_REQ / 4 ≠ 0 →
      (∀ r, b.idleLong g = true → b.restOf g (s.reg p R.PG_PWR_REQ / 4) = some r →
        ∃ t, exec (.galleryRestEntry g) s = .next t ∧ t.reg p R.PG_PWR_STATE = r ∧ s.keeps t [p]) ∧
      (b.idleLong g = false ∨ b.restOf g (s.reg p R.PG_PWR_REQ / 4) = none → exec (.galleryRestEntry g) s = .next s)) ∧
    (∀ cause, b.wakeSource g cause = false → exec (.galleryWake g cause) s = .next s) ∧
    (∀ cause, s.runs [] → b.wakeSource g cause = true → 4 ≤ st → st ≤ 6 →
      ∃ t, exec (.galleryWake g cause) s = .next t ∧ t.reg p R.PG_PWR_STATE = 7 ∧ t.reg p R.GAL_WAKE_CAUSE = cause ∧
        (t.dev.body.gp g).left = st ∧ (t.dev.body.gp g).since = b.clk ∧
        t.ctr p (st - 4) = (s.ctr p (st - 4) + 1) % 2 ^ 64) ∧
    (s.runs [] → st = 7 → x.good = false →
      (x.withheld = false → ∃ t, exec (.galleryPowerGood g) s = .next t ∧ (t.dev.body.gp g).good = true ∧ t.reg p R.PG_PWR_STATE = 7 ∧
        (x.since + 1200 < b.clk → x.late = false → t.evt p R.GAL_EVT_WAKE_LATE)) ∧
      (b.clk < x.since + 10000 → exec (.powerGoodTimeout g) s = .next s) ∧
      (x.since + 10000 ≤ b.clk → ∃ t, exec (.powerGoodTimeout g) s = .next t ∧ t.flt p R.GAL_FLT_PGOOD ∧ (t.dev.body.gp g).withheld = false ∧ t.reg p R.PG_PWR_STATE = 7)) ∧
    (s.runs [] → st = 7 → x.good = true → x.resetDue = false →
      let boost := (x.boost || x.left != 4) && x.held.isNone
      ∃ t, exec (.galleryWakeDone g) s = .next t ∧
        t.reg p R.PG_PWR_STATE = max (max (if boost = true then 0 else s.reg p R.PG_PWR_REQ % 4) (s.reg Pg.lamp R.TH_CAP))
          (if s.reg Pg.lamp R.TH_THROTTLED = 1 then 3 else 0) ∧
        t.reg p R.GAL_WAKE_MAX = max (s.reg p R.GAL_WAKE_MAX) (min (b.clk - x.since) 0xFFFFFFFF) ∧
        Sp.get 0 t.dev.body.cairn.galTag g = b.cairn.flips)

/-- R28, R298, R299, R315, R332, R339, R342: a loop in AUTO, with no action on the same instance within its interval, acts where its rule asks
for it by what the engine has measured, and counts the action: POWER sets a Gallery's step and resting state and a stack's rate, a setting
outside its envelope to the nearest one inside; THERMAL moves the step cap by one, REFRESH the multiplier by one, RETRAIN retrains a
pseudo-channel, a port or a link. Where nothing calls for an action, THERMAL does nothing.
What the command says of a measured quantity changes nothing. How a loop's inputs are measured is the model's choice (log entry 46), as is what a first wait waits for (log entry 47). -/
def Obligations.PowerAndRetrainLoops : Prop :=
  ∀ (s : State),
    let b := s.dev.body
    let acted := fun (t : State) (loop : Nat) => t.reg Pg.governor R.GOV_ACT_CNT loop = (s.reg Pg.governor R.GOV_ACT_CNT loop + 1) % 2 ^ 16
    let ready := fun (loop inst : Nat) => b.loopAuto loop = true ∧ ∀ e ∈ b.gov.lastAct, e.1 = loop * 2 ^ 24 + inst →
      e.2 + s.reg Pg.governor R.GOV_MIN_INTERVAL loop * 1000 ≤ b.clk
    (∀ g u v, g < 8 → s.runs [2] → ready LOOP_POWER g →
      let p := Pg.galPower g
      let n := b.galDwell g
      let loads := (b.loadMeasure g).loadOf g
      let load := Body.meterMax loads b.clk n
      let peak := Body.meterMax loads b.clk (2 * n)
      let long := Body.meterSpans loads b.clk n
      let req := s.reg p R.PG_PWR_REQ
      let old := req % 4
      let env := s.reg p R.GAL_ENV_STEP
      let er := s.reg p R.GAL_ENV_REST
      let up := Body.stepFor load (s.reg p R.GAL_HEADROOM) env
      let down := Body.stepFor peak (s.reg p R.GAL_HEADROOM) env
      let step := if up < old then up else if old < down ∧ long = true then down else old
      let rest := if er = 3 ∧ b.parkOk g = true then 3
        else if 2 ≤ er ∧ long = true ∧ peak < s.reg p R.GAL_NAP_THR then 2 else if 1 ≤ er then 1 else 0
      let want := if env < old ∨ er < req / 4 then min old env + 4 * min (req / 4) er else step + 4 * rest
      (Body.meterDue (b.loadOf g) b.clk = true → want ≠ req →
        ∃ t, exec (.powerLoopDecision g u v) s = .next t ∧ t.reg p R.PG_PWR_REQ = want ∧ acted t LOOP_POWER) ∧
      (Body.meterDue (b.loadOf g) b.clk = false → exec (.powerLoopDecision g u v) s = .next s)) ∧
    (∀ k u v, k < 4 → s.runs [2] → ready LOOP_POWER (0x100 + k) → (∀ i < 4, s.reg (Pg.hbm i 0) R.HBM_STEP_BUSY = 0) →
      let n := b.hbmDwell k
      let demands := (b.demandMeasure k).demandOf k
      let d := Body.meterMax demands b.clk n
      let peak := Body.meterMax demands b.clk (2 * n)
      let long := Body.meterSpans demands b.clk n
      let cur := s.reg (Pg.hbm k 0) R.HBM_RATE_REQ
      let fast := s.reg (Pg.hbm k 0) R.HBM_ENV_FAST
      let slow := s.reg (Pg.hbm k 0) R.HBM_ENV_SLOW
      let up := b.rateFor k d fast (slow + 1 - fast)
      let down := b.rateFor k peak fast (slow + 1 - fast)
      let r := if cur < fast ∨ slow < cur then b.rateNearest k cur fast slow
        else if up < cur then up else if cur < down ∧ long = true then down else cur
      Body.meterDue (b.demandOf k) b.clk = true → r ≠ cur → b.rateOk k r = true →
        ∃ t, exec (.sumpRateDecision k u v) s = .next t ∧ t.reg (Pg.hbm k 0) R.HBM_RATE_REQ = r ∧ acted t LOOP_POWER ∧
          (r ≠ s.reg (Pg.hbm k 0) R.HBM_RATE_CUR → t.reg (Pg.hbm k 0) R.HBM_STEP_BUSY = 1)) ∧
    (ready LOOP_THERMAL 0xFF → s.runs [2] →
      let cap := s.reg Pg.lamp R.TH_CAP
      (b.heldFor b.lamp.hotAt 10000000 = true ∨ b.heldFor b.lamp.powAt 10000000 = true → cap < 3 →
        ∃ t, exec .thermalLoopDecision s = .next t ∧ t.reg Pg.lamp R.TH_CAP = cap + 1 ∧ acted t LOOP_THERMAL) ∧
      (b.heldFor b.lamp.hotAt 10000000 = false → b.heldFor b.lamp.powAt 10000000 = false → b.heldFor b.lamp.coolAt 100000000 = true → 0 < cap →
        ∃ t, exec .thermalLoopDecision s = .next t ∧ t.reg Pg.lamp R.TH_CAP = cap - 1 ∧ acted t LOOP_THERMAL) ∧
      (b.heldFor b.lamp.hotAt 10000000 = false → b.heldFor b.lamp.powAt 10000000 = false → b.heldFor b.lamp.coolAt 100000000 = false →
        exec .thermalLoopDecision s = .next s)) ∧
    (∀ k u v, k < 4 → ready LOOP_REFRESH k → s.runs [2] →
      let secs := (List.range 10).map (Body.errsIn (Sp.get [] (b.errsMeasure k).hbm.errs k) b.clk)
      let ce := (secs.headD none).getD 0
      let m := s.reg (Pg.hbm k 0) R.HBM_REF_MULT
      let env := s.reg (Pg.hbm k 0) R.HBM_REF_ENV
      (env < m → ∃ t, exec (.refreshLoopDecision k u v) s = .next t ∧ t.reg (Pg.hbm k 0) R.HBM_REF_MULT = env ∧ acted t LOOP_REFRESH) ∧
      (s.reg (Pg.hbm k 0) R.HBM_CE_HI < ce → m < env → m < 7 →
        ∃ t, exec (.refreshLoopDecision k u v) s = .next t ∧ t.reg (Pg.hbm k 0) R.HBM_REF_MULT = m + 1 ∧ acted t LOOP_REFRESH ∧
          t.evt (Pg.hbm k 0) R.HBM_EVT_CE_HI) ∧
      (ce ≤ s.reg (Pg.hbm k 0) R.HBM_CE_HI → m ≤ env → (∀ x ∈ secs, ∃ n, x = some n ∧ n < s.reg (Pg.hbm k 0) R.HBM_CE_LO) → 1 < m →
        ∃ t, exec (.refreshLoopDecision k u v) s = .next t ∧ t.reg (Pg.hbm k 0) R.HBM_REF_MULT = m - 1 ∧ acted t LOOP_REFRESH)) ∧
    (∀ k pc margin u v periodic, k < 4 → pc < 32 → s.runs [18] →
      let due := b.passed (Mk.check (Body.pcKey k pc)) (max 1 (s.reg Pg.sump R.RT_CHECK_S) * 1000000000)
      let ce := ((Sp.get [] b.hbm.pcErr (Body.pcKey k pc)).filter fun t => decide (b.clk < t + 1000000000)).length
      (periodic = true → due = false → exec (.hbmPcRetrain k pc margin u v periodic) s = .next s) ∧
      (ready LOOP_RETRAIN k → (periodic = true → due = true) → s.reg Pg.sump R.RT_HBM_EN = 1 → b.demandLow k = true →
        s.reg (Pg.hbm k 0) R.HBM_STEP_BUSY = 0 → margin < s.reg Pg.sump R.RT_HBM_MARGIN ∨ s.reg Pg.sump R.RT_CE_THR < ce →
        ∃ t, exec (.hbmPcRetrain k pc margin u v periodic) s = .next t ∧ acted t LOOP_RETRAIN ∧
          ∀ kind lane, kind < 8 → lane < 64 →
            Sp.get 0 t.dev.body.hbm.delay (Body.delayKey k (s.reg (Pg.hbm k 0) R.HBM_RATE_CUR) pc kind lane) = 0)) ∧
    (∀ p, p < 512 → s.runs [2] → ready LOOP_RETRAIN (0x200 + p / 8) → s.reg Pg.sump R.RT_SER_EN = 1 → s.reg (Pg.lane p) R.PORT_HI_SER ≠ 0 →
      p ∉ b.gov.giveUp → b.passed (Mk.hiSer p) (s.reg Pg.sump R.RT_SER_DWELL * 1000000) = true →
      ∃ t, exec (.serdesReadapt p) s = .next t ∧ acted t LOOP_RETRAIN ∧ b.clk ∈ Sp.get [] t.dev.body.gov.readapt p) ∧
    (∀ p u, p < 2 → s.runs [4] → ready LOOP_RETRAIN (0x300 + p) → s.reg Pg.sump R.RT_CXL_EN = 1 → s.reg Pg.sump R.RT_CXL_REPLAY < b.replaysLow p →
      b.farReady p = true →
      ∃ t, exec (.cxlRecovery p u) s = .next t ∧ acted t LOOP_RETRAIN ∧ t.reg (Pg.far p 0) R.FAR_STATE = FAR_RECOVERY_ST ∧
        t.reg Pg.governor R.GOV_BUSY LOOP_RETRAIN = 1)

/-! HBM and far memory. -/

/-- R327, R329, R331, R336, R349: a pseudo-channel of a stack whose controller is enabled, and which no step stalls, serves one request of the queue that its mode and its drain choose, in NORMAL an aged one
first, then one of an open row, then the oldest, and in DEADLINE one of the highest urgency; its row is open then and its bytes are
counted. A refresh behind a busy bank is postponed, at most 8 times, and closes the row otherwise. The scrubber rewrites a corrected line
to which no write is queued, and counts it or an uncorrectable one; it changes no byte.
That a request beyond a queue's 64 waits at its port with its age from arrival is the model's choice (log entry 46). -/
def Obligations.HbmServesRequests : Prop :=
  ∀ (k pc : Nat) (s : State), k < 4 → pc < 32 → s.runs [18] → (∀ r ∈ s.dev.body.hbm.queue, r.port < 8) →
    let b := s.dev.body
    let rds := b.hbmWaiting k pc false
    let wrs := b.hbmWaiting k pc true
    let drain := b.hbm.drain.contains (Body.pcKey k pc)
    let key := fun (r : HbmReq) => Body.bankKey { stack := r.stack, pc := r.pc, bank := r.bank, row := r.row }
    let served := fun (r : HbmReq) (t : State) => exec (.hbmRequest k pc) s = .next t ∧ t.dev.body.hbm.queue = b.hbm.queue.erase r ∧
      (key r, r.row) ∈ t.dev.body.hbm.rows ∧
      t.ctr (Pg.hbm k 3) (HBM_BYTES r.port) = (s.ctr (Pg.hbm k 3) (HBM_BYTES r.port) + 64) % 2 ^ 64 ∧
      t.dev.body.mem = b.mem ∧ t.dev.body.tbls = b.tbls
    let aged := fun (r : HbmReq) => r.since + s.reg (Pg.hbm k 1) R.HBM_AGE_MAX ≤ b.clk
    let open_ := fun (r : HbmReq) => (key r, r.row) ∈ b.hbm.rows
    (b.stackServes k = true → s.reg (Pg.hbm k 1) R.HBM_QOS_MODE = 0 →
      let first := rds.filter fun r => r.port == 1
      let l := if b.hbm.panic.contains k = true ∧ wrs.length < 64 ∧ first ≠ [] then first else if drain = true ∨ rds = [] then wrs else rds
      l ≠ [] → ∃ r ∈ l, ∃ t, served r t ∧ ((∃ x ∈ l, aged x) → aged r) ∧
        ((∀ x ∈ l, ¬ aged x) → (∃ x ∈ l, open_ x) → open_ r) ∧ ((∀ x ∈ l, ¬ aged x ∧ ¬ open_ x) → l.head? = some r)) ∧
    (b.stackServes k = true → s.reg (Pg.hbm k 1) R.HBM_QOS_MODE = 1 →
      let l := if drain = true then wrs else rds ++ wrs
      l ≠ [] → ∃ r ∈ l, ∃ t, served r t ∧
        (∀ x ∈ l, b.urgency x ≤ b.urgency r ∧ (b.urgency x = b.urgency r → r.wr = true → x.wr = true)) ∧
        (if r.due < b.clk
          then t.ctr (Pg.hbm k 3) HBM_DL_MISS = (s.ctr (Pg.hbm k 3) HBM_DL_MISS + 1) % 2 ^ 64
          else t.ctr (Pg.hbm k 3) HBM_DL_MISS = s.ctr (Pg.hbm k 3) HBM_DL_MISS)) ∧
    (b.stackServes k = false → exec (.hbmRequest k pc) s = .next s ∧ exec (.hbmRefresh k pc) s = .next s) ∧
    (b.stackServes k = true →
      let n := Sp.get 0 b.hbm.postponed (Body.pcKey k pc)
      let bank := Sp.get 0 b.hbm.refBank (Body.pcKey k pc)
      let busy := ∃ r ∈ b.hbm.queue, r.stack = k ∧ r.pc = pc ∧ r.bank = bank
      (busy → n < 8 → ∃ t, exec (.hbmRefresh k pc) s = .next t ∧ Sp.get 0 t.dev.body.hbm.postponed (Body.pcKey k pc) = n + 1 ∧
        Sp.get 0 t.dev.body.hbm.refBank (Body.pcKey k pc) = bank ∧ t.dev.body.hbm.queue = b.hbm.queue ∧
        t.ctr (Pg.hbm k 3) HBM_REF_POSTPONE = (s.ctr (Pg.hbm k 3) HBM_REF_POSTPONE + 1) % 2 ^ 64) ∧
      (¬ busy ∨ 8 ≤ n → ∃ t, exec (.hbmRefresh k pc) s = .next t ∧ Sp.get 0 t.dev.body.hbm.postponed (Body.pcKey k pc) = 0 ∧
        Sp.get 0 t.dev.body.hbm.refBank (Body.pcKey k pc) = (bank + 1) % 48 ∧ t.dev.body.hbm.queue = b.hbm.queue ∧
        (∀ e ∈ t.dev.body.hbm.rows, e.1 ≠ Body.bankKey { stack := k, pc := pc, bank := bank, row := 0 }) ∧ s.keeps t [])) ∧
    (∀ line, line < 2147483648 → line * 64 < Sump.scratchEnd →
      let a := line * 64
      let h := (b.hbmLoc a).stack
      s.reg (Pg.hbm h 3) R.HBM_SCRUB_EN = 1 → b.stackServes h = true →
      (b.lineBad a = true → ∃ t, exec (.hbmScrub line) s = .next t ∧ t.dev.body.mem = b.mem ∧ t.dev.body.hbm.ue = b.hbm.ue ∧
        t.evt (Pg.hbm h 3) R.HBM_EVT_UE ∧
        t.ctr (Pg.hbm h 3) HBM_SCRUB_UE = (s.ctr (Pg.hbm h 3) HBM_SCRUB_UE + 1) % 2 ^ 64) ∧
      (b.lineBad a = false → a ∈ b.hbm.ce → (∀ r ∈ b.hbm.queue, r.wr = true → r.addr ≠ a) →
        ∃ t, exec (.hbmScrub line) s = .next t ∧ t.dev.body.mem = b.mem ∧ t.dev.body.hbm.ce = b.hbm.ce.erase a ∧
          t.ctr (Pg.hbm h 3) HBM_SCRUB_FIX = (s.ctr (Pg.hbm h 3) HBM_SCRUB_FIX + 1) % 2 ^ 64) ∧
      (b.lineBad a = false → a ∉ b.hbm.ce ∨ (∃ r ∈ b.hbm.queue, r.wr = true ∧ r.addr = a) →
        ∃ t, exec (.hbmScrub line) s = .next t ∧ t.dev.body.mem = b.mem ∧ t.dev.body.hbm.ce = b.hbm.ce ∧
          t.ctr (Pg.hbm h 3) HBM_SCRUB_FIX = s.ctr (Pg.hbm h 3) HBM_SCRUB_FIX))

/-- R337, R338: a write of HBM_RATE_REQ is refused while the POWER loop owns it, is ignored for a rate that is not valid and trained, and
starts a step towards another rate otherwise. The stall closes the stack's rows and loses no request; the end of the step puts the rate
and the shadow set in force; a step whose output does not lock leaves the rate. -/
def Obligations.PinRateSteps : Prop :=
  ∀ (k : Nat) (s : State), k < 4 →
    let b := s.dev.body
    let p := Pg.hbm k 0
    (∀ m r, r < 16 → s.takes m (p + 0x80) →
      (b.ownerRefuses LOOP_POWER m = true → ∃ t, exec (.hbmRateRequest k m r) s = .next t ∧ t.evt Pg.governor R.GOV_EVT_OWNER ∧
        t.reg p R.HBM_RATE_REQ = s.reg p R.HBM_RATE_REQ ∧ t.reg p R.HBM_STEP_BUSY = s.reg p R.HBM_STEP_BUSY) ∧
      (b.ownerRefuses LOOP_POWER m = false → b.rateOk k r = false → ∃ t, exec (.hbmRateRequest k m r) s = .next t ∧
        t.evt p R.HBM_EVT_BADCFG ∧ t.reg p R.HBM_RATE_REQ = s.reg p R.HBM_RATE_REQ ∧ s.keeps t [p]) ∧
      (b.ownerRefuses LOOP_POWER m = false → b.rateOk k r = true → ∃ t, exec (.hbmRateRequest k m r) s = .next t ∧
        t.reg p R.HBM_RATE_REQ = r ∧ t.reg p R.HBM_RATE_CUR = s.reg p R.HBM_RATE_CUR ∧ s.keeps t [p] ∧
        (r ≠ s.reg p R.HBM_RATE_CUR → s.reg p R.HBM_STEP_BUSY = 0 → t.reg p R.HBM_STEP_BUSY = 1 ∧
          Sp.get 16 t.dev.body.hbm.target k = r ∧
          ∀ i < 4, t.reg p R.HBM_TIMS i = s.ent (Tbl.timing k) r / 2 ^ (32 * i) % 2 ^ 32))) ∧
    (s.runs [18] → s.reg p R.HBM_STEP_BUSY = 1 → b.stackStalled k = false →
      (∃ t, exec (.hbmStepStall k) s = .next t ∧ t.dev.body.stackStalled k = true ∧ (∀ e ∈ t.dev.body.hbm.rows, e.1 / 2048 ≠ k) ∧
        t.dev.body.hbm.queue = b.hbm.queue ∧ s.keeps t []) ∧
      (∃ t, exec (.hbmStepFail k) s = .next t ∧ t.reg p R.HBM_RATE_CUR = s.reg p R.HBM_RATE_CUR ∧ t.evt p R.HBM_EVT_STEP_FAIL ∧
        t.dev.body.hbm.queue = b.hbm.queue ∧ s.keeps t [p, Pg.governor] ∧
        (s.reg p R.HBM_RATE_REQ = Sp.get 16 b.hbm.target k → t.reg p R.HBM_STEP_BUSY = 0))) ∧
    (∀ at_ r, s.runs [18] → r < 16 → b.hbm.stalled.find? (fun e => e.1 == k) = some (k, at_) →
      b.hbm.target.find? (fun e => e.1 == k) = some (k, r) →
      ∃ t, exec (.hbmStepDone k) s = .next t ∧ t.reg p R.HBM_RATE_CUR = r ∧ t.dev.body.stackStalled k = false ∧
        t.reg p R.HBM_STEP_NS = min 65535 (b.clk - at_) ∧ t.evt p R.HBM_EVT_STEP_DONE ∧ t.dev.body.hbm.queue = b.hbm.queue ∧
        t.ctr (Pg.hbm k 3) HBM_STEPS = (s.ctr (Pg.hbm k 3) HBM_STEPS + 1) % 2 ^ 64 ∧
        (∀ i < 4, t.reg p R.HBM_TIMA i = s.reg p R.HBM_TIMS i) ∧
        (s.reg p R.HBM_RATE_REQ = r → t.reg p R.HBM_STEP_BUSY = 0 ∧ ∀ i < 4, t.reg p R.HBM_TIMS i = s.reg p R.HBM_TIMA i))

/-- R326, R340, R351, R352: a pattern run clears the errors, reads scratch lines of its pseudo-channel through port 7, and writes none but them; its end shows the errors of
every lane; a lane's setting is stored for its rate; a rate is marked trained or untrained; an injection is armed for its port. -/
def Obligations.HbmTrainingHelpers : Prop :=
  ∀ (k m : Nat) (s : State), k < 4 →
    let b := s.dev.body
    let p := Pg.hbm k 2
    (s.takes m (p + 0x80) →
      (s.reg p R.HBM_PG_MODE < 6 → s.reg p R.HBM_CMP_BUSY = 0 → ∃ t, exec (.hbmPgRun k m) s = .next t ∧ t.reg p R.HBM_CMP_BUSY = 1 ∧
        t.reg p R.HBM_CMP_ERRS = 0 ∧ t.dev.body.tbls = b.tbls ∧
        (s.reg p R.HBM_PG_WRITE = 0 → t.dev.body.mem = b.mem) ∧
        (∀ a, (∀ i < 32768, ¬ (b.scratchLine k (s.reg p R.HBM_PG_PC) i ≤ a ∧ a < b.scratchLine k (s.reg p R.HBM_PG_PC) i + 64)) →
          Mem.get t.dev.body.mem.sump a = Mem.get b.mem.sump a)) ∧
      (6 ≤ s.reg p R.HBM_PG_MODE ∨ s.reg p R.HBM_CMP_BUSY = 1 → ∃ t, exec (.hbmPgRun k m) s = .next t ∧
        t.reg p R.HBM_CMP_BUSY = s.reg p R.HBM_CMP_BUSY ∧ t.reg p R.HBM_CMP_ERRS = s.reg p R.HBM_CMP_ERRS ∧ s.keeps t [p])) ∧
    (∀ errs : List Nat, s.runs [18] → b.stackServes k = true → errs.length = 40 → s.reg p R.HBM_CMP_BUSY = 1 →
      ∃ t, exec (.hbmCmpDone k errs) s = .next t ∧ t.reg p R.HBM_CMP_BUSY = 0 ∧ t.reg p R.HBM_CMP_ERRS = min errs.sum (2 ^ 31 - 1) ∧
        t.evt p R.HBM_EVT_CMP_DONE ∧ s.keeps t [p] ∧
        ∀ i e, errs[i]? = some e → Sp.get 0 t.dev.body.hbm.laneErr (64 * k + i) = min e (2 ^ 32 - 1)) ∧
    (∀ v, v < 2 ^ 32 → s.takes m (p + 0x8C) →
      let rate := bitField v 31 28
      let kind := bitField v 27 25
      let pc := bitField v 24 20
      let lane := bitField v 19 14
      (kind < 6 → lane < 40 → ∃ t, exec (.hbmDelaySet k v m) s = .next t ∧ s.keeps t [p] ∧
        t.reg p R.HBM_DLY_RATE = rate ∧ t.reg p R.HBM_DLY_KIND = kind ∧ t.reg p R.HBM_DLY_PC = pc ∧ t.reg p R.HBM_DLY_LANE = lane ∧
        t.reg p R.HBM_DLY_VAL = v % 1024 ∧
        (rate < 7 → Sp.get 0 t.dev.body.hbm.delay (Body.delayKey k rate pc kind lane) = v % 1024) ∧
        (∀ x, x ≠ Body.delayKey k rate pc kind lane → Sp.get 0 t.dev.body.hbm.delay x = Sp.get 0 b.hbm.delay x)) ∧
      (6 ≤ kind ∨ 40 ≤ lane → ∃ t, exec (.hbmDelaySet k v m) s = .next t ∧ s.keeps t [] ∧ t.dev.body.hbm = b.hbm)) ∧
    (s.takes m (p + 0x90) →
      let r := s.reg p R.HBM_TRN_RATE
      ∃ t, exec (.hbmTrnMark k m) s = .next t ∧ s.keeps t [p, Pg.hbm k 0] ∧
        (r < 7 → bitOn (t.reg (Pg.hbm k 0) R.HBM_TRAINED) r = (s.reg p R.HBM_TRN_VALUE == 1)) ∧
        (∀ j < 7, j ≠ r → bitOn (t.reg (Pg.hbm k 0) R.HBM_TRAINED) j = bitOn (s.reg (Pg.hbm k 0) R.HBM_TRAINED) j)) ∧
    (s.takes m (Pg.hbm k 3 + 0x8C) →
      let kind := s.reg (Pg.hbm k 3) R.HBM_INJ_KIND
      let key := 8 * k + s.reg (Pg.hbm k 3) R.HBM_INJ_PORT
      ∃ t, exec (.hbmEccInject k m) s = .next t ∧ s.keeps t [Pg.hbm k 3] ∧
        (kind ≠ 3 → Sp.get 3 t.dev.body.hbm.arm key = kind) ∧ (kind = 3 → t.dev.body.hbm.arm = b.hbm.arm))

/-- R344, R345, R348, R354, R355: the bring-up of a far port goes through TRAINING and ENUM to READY, or to FAILED and, a second later, again from step 2;
a Recovery and its end, a failed one, and the loss of the link move the port, and every change of FAR_STATE sets FAR_EVT_LINK. A flit CRC
error is counted, and an injection acts as its kind says. A CXL.io access is issued to a READY port, and ends with its result.
Where nothing has begun a wait, it counts as over (the model's choice: log entry 47). -/
def Obligations.FarLinks : Prop :=
  ∀ (p : Nat) (s : State), p < 2 →
    let b := s.dev.body
    let pg := Pg.far p 0
    let io := Pg.far p 1
    let st := s.reg pg R.FAR_STATE
    let moved := fun (t : State) (x : Nat) => t.reg pg R.FAR_STATE = x ∧ t.evt pg R.FAR_EVT_LINK
    (∀ m, s.takes m (pg + 0x80) →
      (s.reg pg R.FAR_LINK_EN = 0 → ∃ t, exec (.farLinkEnable p true m) s = .next t ∧ t.reg pg R.FAR_LINK_EN = 1 ∧
        t.reg pg R.FAR_STATE = st ∧ s.keeps t [pg]) ∧
      (s.reg pg R.FAR_LINK_EN = 1 → st ≠ FAR_OFF → ∃ t, exec (.farLinkEnable p false m) s = .next t ∧ t.reg pg R.FAR_LINK_EN = 0 ∧
        moved t FAR_OFF)) ∧
    (s.runs [4] →
      let perst := b.passed (Mk.farOn p) (max 100 (s.reg pg R.FAR_PERST_MS) * 1000000)
      (st = FAR_OFF → s.reg pg R.FAR_LINK_EN = 1 → s.reg pg R.PG_EN = 1 → perst = true →
        ∃ t, exec (.farPerstRelease p) s = .next t ∧ moved t FAR_TRAINING ∧ s.keeps t [pg, Pg.governor]) ∧
      (perst = false → exec (.farPerstRelease p) s = .next s) ∧
      (∀ speed width, st = FAR_TRAINING → speed < 4 → width < 64 →
        ∃ t, exec (.farLinkTrained p speed width) s = .next t ∧ moved t FAR_ENUM ∧ t.reg pg R.FAR_SPEED = speed ∧
          t.reg pg R.FAR_WIDTH = width ∧ s.keeps t [pg, Pg.governor]) ∧
      (∀ gib, st = FAR_ENUM → ∃ t, exec (.farEnumDone p gib) s = .next t ∧ moved t FAR_READY ∧ t.reg pg R.FAR_MEM_SIZE = min gib 2048 ∧
        t.reg pg R.FAR_LINK_GEN = (s.reg pg R.FAR_LINK_GEN + 1) % 2 ^ 16 ∧ t.reg pg R.FAR_ENUM_RC = 0 ∧
        s.keeps t [pg, Pg.governor]) ∧
      (∀ rc, rc < 16 → st = FAR_TRAINING ∨ st = FAR_ENUM → ∃ t, exec (.farEnumFail p rc) s = .next t ∧ moved t FAR_FAILED ∧
        t.reg pg R.FAR_ENUM_RC = (if st = FAR_TRAINING then 4 else rc) ∧ t.evt pg R.FAR_EVT_ENUM_FAIL ∧
        s.keeps t [pg, Pg.governor]) ∧
      (st = FAR_FAILED → s.reg pg R.FAR_LINK_EN = 1 → s.reg pg R.PG_EN = 1 → b.passed (Mk.farFailed p) 1000000000 = true →
        ∃ t, exec (.farRetry p) s = .next t ∧ moved t FAR_TRAINING ∧ s.keeps t [pg, Pg.governor]) ∧
      (b.passed (Mk.farFailed p) 1000000000 = false → exec (.farRetry p) s = .next s) ∧
      (st = FAR_READY → ∃ t, exec (.farLinkRecovery p) s = .next t ∧ moved t FAR_RECOVERY_ST ∧
        t.ctr pg FAR_RECOVERY = (s.ctr pg FAR_RECOVERY + 1) % 2 ^ 64 ∧ t.dev.body.buf = b.buf) ∧
      (st = FAR_RECOVERY_ST → ∃ t, exec (.farRecoveryExit p) s = .next t ∧ moved t FAR_READY ∧ s.keeps t [pg, Pg.governor]) ∧
      (st = FAR_READY ∨ st = FAR_RECOVERY_ST → ∃ t, exec (.farLinkDown p) s = .next t ∧ moved t FAR_FAILED ∧ t.flt pg R.FAR_FLT_LINK) ∧
      (st ≠ FAR_READY → st ≠ FAR_RECOVERY_ST → exec (.farLinkDown p) s = .next s) ∧
      (let ms := b.clk / 1000000
       let n := Sp.get 0 ((Sp.get [] b.far.replays p).filter fun e => decide (ms < e.1 + 11)) ms + 1
       ∃ t, exec (.farFlitCrcError p) s = .next t ∧ t.ctr pg FAR_REPLAY = (s.ctr pg FAR_REPLAY + 1) % 2 ^ 64 ∧
         (s.reg Pg.sump R.RT_CXL_REPLAY < n → t.evt pg R.FAR_EVT_REPLAY_HI) ∧ t.reg pg R.FAR_STATE = st ∧ t.dev.body.mem = b.mem ∧
         t.dev.body.buf = b.buf)) ∧
    (∀ m, s.takes m (pg + 0x9C) → ∃ t, exec (.farInject p m) s = .next t ∧ t.dev.body.mem = b.mem ∧
      (s.reg pg R.FAR_INJ_KIND = 0 → t.ctr pg FAR_REPLAY = (s.ctr pg FAR_REPLAY + 1) % 2 ^ 64) ∧
      (s.reg pg R.FAR_INJ_KIND = 1 → p ∈ t.dev.body.far.armPoison) ∧ (s.reg pg R.FAR_INJ_KIND = 2 → p ∈ t.dev.body.far.armHold) ∧
      (s.reg pg R.FAR_INJ_KIND = 3 → st = FAR_READY → moved t FAR_RECOVERY_ST)) ∧
    (∀ m, s.takes m (io + 0x8C) → s.reg io R.FAR_IO_BUSY = 0 → s.reg io R.FAR_IO_SPACE < 2 →
      (st = FAR_READY → ∃ t wr mem a d be, exec (.farIoAccess p m) s = .next t ∧ t.reg io R.FAR_IO_BUSY = 1 ∧
        t.dev.body.out = b.out ++ [.cxlIo p wr mem a d be] ∧ s.keeps t [io]) ∧
      (st ≠ FAR_READY → ∃ t, exec (.farIoAccess p m) s = .next t ∧ t.reg io R.FAR_IO_BUSY = 0 ∧ t.reg io R.FAR_IO_RC = 4 ∧ s.keeps t [io])) ∧
    (∀ rc data, s.runs [4] → rc < 8 → data < 2 ^ 32 → s.reg io R.FAR_IO_BUSY = 1 →
      ∃ t, exec (.farIoDone p rc data) s = .next t ∧ t.reg io R.FAR_IO_BUSY = 0 ∧ t.reg io R.FAR_IO_RC = rc ∧ s.keeps t [io] ∧
        t.reg io R.FAR_IO_DATA = if rc = 0 ∧ s.reg io R.FAR_IO_WR = 0 then data else s.reg io R.FAR_IO_DATA)

/-- R221, R324, R346, R348, R354: a far read in front of a queue that completes brings the cells of its next piece behind the head, one
whose data come poisoned or that does not complete in time is unreadable, and an injection withholds it; a copy that does not complete in
time ends the migration, and its far span returns to its pool.
That the time of a read counts from when the last piece began is the model's choice (log entry 47). -/
def Obligations.FarRequestsEnd : Prop :=
  ∀ (q : Nat) (s : State), q < 1048576 → s.runs [4] →
    let b := s.dev.body
    let x := b.queueOf q
    (∀ sp rest, x.spans = sp :: rest → sp.far = true → sp.flight ≠ 0 → sp.port < 2 → sp.pieces < 255 → sp.pieces ∉ sp.void →
      let left : Span := { sp with pieces := sp.pieces + 1, flight := sp.flight - 1, since := b.clk }
      let cells := (sp.cells.drop (16 * sp.pieces)).take 16
      let base := b.bufAddr sp.pool sp.buf
      (b.farReady sp.port = true → q ∉ b.far.heldRead →
        (sp.port ∈ b.far.armHold → ∃ t, exec (.farReadComplete q) s = .next t ∧ q ∈ t.dev.body.far.heldRead ∧ t.dev.body.buf = b.buf ∧
          s.keeps t []) ∧
        (sp.port ∉ b.far.armHold → sp.port ∉ b.far.armPoison → x.farUeArm = false →
          Body.sideOk (Mem.read (b.farMem sp.port) (b.farSide sp.port base + 128 * sp.pieces) 128) q ((sp.seq + sp.pieces) % 2 ^ 32)
            (s.reg (Pg.far sp.port 0) R.FAR_LINK_GEN) = true →
          (∀ c ∈ x.head ++ cells, ∃ p, b.pkt c.pid = some p ∧ p.hole = false) →
          ∃ t, exec (.farReadComplete q) s = .next t ∧ (t.dev.body.queueOf q).spans = left :: rest ∧ (t.dev.body.queueOf q).tail = x.tail ∧
            (t.dev.body.queueOf q).head.map (fun c => (c.pid, c.pos)) = (x.head ++ cells).map (fun c => (c.pid, c.pos)) ∧
            t.ctr (Pg.far sp.port 0) FAR_RD_BYTES = (s.ctr (Pg.far sp.port 0) FAR_RD_BYTES + 4224) % 2 ^ 64) ∧
        (sp.port ∉ b.far.armHold → sp.port ∈ b.far.armPoison →
          ∃ t, exec (.farReadComplete q) s = .next t ∧ (t.dev.body.queueOf q).spans = left :: rest ∧
            t.flt (Pg.far sp.port 0) R.FAR_FLT_POISON ∧ t.flt Pg.chm R.CHM_FLT_FAR_UE)) ∧
      (b.farLate sp.port sp.since = false → exec (.farRequestTimeout q false) s = .next s) ∧
      (b.farLate sp.port sp.since = true → ∃ t, exec (.farRequestTimeout q false) s = .next t ∧ (t.dev.body.queueOf q).spans = left :: rest ∧
        t.flt (Pg.far sp.port 0) R.FAR_FLT_TIMEOUT ∧ t.flt Pg.chm R.CHM_FLT_FAR_UE ∧
        t.ctr (Pg.far sp.port 0) FAR_TIMEOUT_CNT = (s.ctr (Pg.far sp.port 0) FAR_TIMEOUT_CNT + 1) % 2 ^ 64)) ∧
    (∀ m, x.migr = some m → m.pool < 16 → m.port < 2 → m.buf < s.reg (Pg.pool m.pool) R.POOL_COUNT → (m.pool, m.buf) ∉ b.buf.bitBad →
      m.buf ∈ b.allocOf m.pool → b.farLate m.port m.since = true →
      ∃ t, exec (.farRequestTimeout q true) s = .next t ∧ (t.dev.body.queueOf q).migr = none ∧ (t.dev.body.queueOf q).spans = x.spans ∧
        t.dev.body.allocOf m.pool = (b.allocOf m.pool).erase m.buf ∧
        t.reg (Pg.pool m.pool) R.POOL_FREE_CNT = (s.reg (Pg.pool m.pool) R.POOL_FREE_CNT + 1) % 2 ^ 28 ∧
        t.ctr (Pg.far m.port 0) FAR_MIG_ABANDON = (s.ctr (Pg.far m.port 0) FAR_MIG_ABANDON + 1) % 2 ^ 64)


/-! The Grotto: threads, their supervisor and their debugger. -/

/-- R364 to R367, R371, R32: a thread command is taken from the masters that may give it, and sets GRT_EVT_DENIED from any other. START
runs an IDLE thread from its entry with zeroed registers; RESTART and KILL return its windows and clear what it waits for; HALT keeps its
windows. A core restart restarts vendor threads, kills customer threads and leaves local memory; the end of one of cores 30 and 31 brings
the Governor back. -/
def Obligations.ThreadCommands : Prop :=
  (∀ (th m : Nat) (s : State), th < 256 → s.takes m (R.GRT_TH_CMD.addr (Pg.core (th / 8) 1) (th % 8) 0) →
    let p := Pg.core (th / 8) 1
    let i := th % 8
    let x := s.dev.body.thr th
    (Body.tcmdOk th m = false → ∀ c ∈ [Instr.threadStart th m, .threadRestart th m, .threadHalt th m, .threadKill th m],
      ∃ t, exec c s = .next t ∧ t.evt (Pg.core (th / 8) 0) R.GRT_EVT_DENIED ∧ t.reg p R.GRT_TH_STATE i = s.reg p R.GRT_TH_STATE i ∧
        (t.dev.body.thr th).regs = x.regs ∧ (t.dev.body.thr th).pc = x.pc) ∧
    (Body.tcmdOk th m = true →
      (s.reg p R.GRT_TH_STATE i = TH_IDLE → th ∉ s.dev.body.boot.tgts → ∃ t, exec (.threadStart th m) s = .next t ∧
        t.reg p R.GRT_TH_STATE i = TH_RUN ∧ (t.dev.body.thr th).regs = [] ∧ (t.dev.body.thr th).pc = s.reg p R.GRT_TH_ENTRY i) ∧
      (s.reg p R.GRT_TH_STATE i ≠ TH_IDLE ∨ th ∈ s.dev.body.boot.tgts → ∃ t, exec (.threadStart th m) s = .next t ∧
        t.evt (Pg.core (th / 8) 0) R.GRT_EVT_BADCFG ∧ t.reg p R.GRT_TH_STATE i = s.reg p R.GRT_TH_STATE i ∧
        (t.dev.body.thr th).regs = x.regs ∧ (t.dev.body.thr th).pc = x.pc) ∧
      (∀ c st, (c = .threadRestart th m ∧ st = TH_RUN) ∨ (c = .threadKill th m ∧ st = TH_IDLE) → ∃ t, exec c s = .next t ∧
        t.reg p R.GRT_TH_STATE i = st ∧ (t.dev.body.thr th).regs = [] ∧ (t.dev.body.thr th).pc = t.reg p R.GRT_TH_ENTRY i ∧
        (t.dev.body.thr th).binds = [] ∧ (t.dev.body.thr th).timer = none ∧ (∀ n < 32, n ≠ 25 → bitOn (t.dev.body.thr th).pend n = false) ∧
        ∀ w < 4, (t.dev.body.win' th w).st = 0 ∧
          ((s.dev.body.win' th w).st = 1 ∨ (s.dev.body.win' th w).st = 2 →
            (s.dev.body.win' th w).slot ∈ (t.dev.body.chan (s.dev.body.win' th w).ch).free)) ∧
      (s.reg p R.GRT_TH_STATE i ≠ TH_IDLE → ∃ t, exec (.threadHalt th m) s = .next t ∧ t.reg p R.GRT_TH_STATE i = TH_HALTED ∧
        t.reg p R.GRT_TH_CAUSE i = CS_COMMAND ∧ (t.dev.body.thr th).wins = x.wins ∧ (t.dev.body.thr th).regs = x.regs ∧
        (isCust th = true → bitOn (t.dev.body.thr (th / 8 * 8)).pend 27 = true)))) ∧
  (∀ (c m : Nat) (s : State), c < 32 → s.takes m (Pg.core c 0 + 0x80) →
    (m = Master.host ∨ m = Master.jtag → ∃ t, exec (.coreRestart c m) s = .next t ∧ c ∈ t.dev.body.grt.restarting ∧
      t.dev.body.mem = s.dev.body.mem ∧
      ∀ i < 8, t.reg (Pg.core c 1) R.GRT_TH_STATE i = if isCust (8 * c + i) = true then TH_IDLE else TH_RUN) ∧
    (m ≠ Master.host → m ≠ Master.jtag → ∃ t, exec (.coreRestart c m) s = .next t ∧ t.dev.body.grt = s.dev.body.grt ∧
      s.keeps t [Pg.core c 0])) ∧
  (∀ (c : Nat) (s : State), s.runs [14] → c ∈ s.dev.body.grt.restarting →
    let g := Pg.governor
    (c < 30 → ∃ t, exec (.coreRestartDone c) s = .next t ∧ t.dev.body.grt.restarting = s.dev.body.grt.restarting.erase c ∧
      t.dev.body.mem = s.dev.body.mem) ∧
    (c = 30 ∨ c = 31 → ∃ t, exec (.coreRestartDone c) s = .next t ∧
      t.dev.body.grt.restarting = (s.dev.body.grt.restarting.erase 30).erase 31 ∧
      t.reg g R.GOV_HEARTBEAT = (s.reg g R.GOV_HEARTBEAT + 1) % 2 ^ 32 ∧ t.dev.body.gov.frozen = false ∧
      ∀ n < 6, (s.reg g R.GOV_BUSY n = 0 → s.reg g R.GOV_MODE n < 2 → t.reg g R.GOV_MODE_EFF n = s.reg g R.GOV_MODE n) ∧
        (s.reg g R.GOV_LOG_EN n = 1 → t.reg g R.GOV_LAST_REASON n = RSN_RESUME)))

/-- R367 to R369, R371, R378, R380: a wait that is satisfied ends with its result in the register, and one that is not goes on; a timer
whose time has come latches bit 24. Thread 0 restarts a halted customer thread, up to its limit, or leaves it; passes an ICU delivery on; and
applies its policy to the threads of a deadlock, which the detector reports when every thread of the core has for its time waited closed, or been halted or
idle.
That the detector looks at each D2 tick is the model's choice (log entry 47). -/
def Obligations.WaitsAndSupervisor : Prop :=
  (∀ (th : Nat) (w : Waiting) (s : State), th < 256 → s.runs [14] → s.reg (Pg.core (th / 8) 1) R.GRT_TH_STATE (th % 8) = TH_WAIT →
    (s.dev.body.thr th).wait = some w →
    let b := s.dev.body
    let x := b.thr th
    let done := fun (t : State) (v : Nat) => exec (.threadWake th) s = .next t ∧
      t.reg (Pg.core (th / 8) 1) R.GRT_TH_STATE (th % 8) = TH_RUN ∧ (t.dev.body.thr th).wait = none ∧
      (t.dev.body.thr th).pc = (x.pc + 4) % 2 ^ 64 ∧ t.dev.body.greg th w.d = if w.d = 0 then 0 else v
    (b.waitTry th w = none → exec (.threadWake th) s = .next s) ∧
    (∀ v, w.on = .events → v = b.pendBits th &&& b.effMask th → v ≠ 0 →
      ∃ t, done t (v % 2 ^ 64) ∧ ∀ n < 32, n ≠ 25 → bitOn (t.dev.body.thr th).pend n = (bitOn x.pend n && !bitOn v n)) ∧
    (∀ ch k sl rest, w.on = .reserve ch → chValid (b.chEnt ch) = true → epHas (chWr (b.chEnt ch)) th = true → b.freeWin th = some k →
      (b.chan ch).free = sl :: rest →
      ∃ t, done t (k * 2 ^ 26) ∧ t.dev.body.win' th k = { st := 1, ch := ch, slot := sl, len := 0 } ∧ (t.dev.body.chan ch).free = rest) ∧
    (∀ ch k sl len rest, w.on = .acquire ch → chValid (b.chEnt ch) = true → epHas (chRd (b.chEnt ch)) th = true → b.freeWin th = some k →
      (b.chan ch).ready = (sl, len) :: rest → len < 32768 →
      ∃ t, done t (k * 2 ^ 26 + len) ∧ t.dev.body.win' th k = { st := 2, ch := ch, slot := sl, len := len } ∧
        (t.dev.body.chan ch).ready = rest)) ∧
  (∀ (th at_ : Nat) (s : State), th < 256 → s.runs [14] → (s.dev.body.thr th).timer = some at_ →
    (s.dev.body.clk < at_ → exec (.tcbTimerExpire th) s = .next s) ∧
    (at_ ≤ s.dev.body.clk → ∃ t, exec (.tcbTimerExpire th) s = .next t ∧ (t.dev.body.thr th).timer = none ∧ bitOn (t.dev.body.thr th).pend 24 = true ∧ s.keeps t [])) ∧
  (∀ (th : Nat) (s : State), s.runs [14] → isCust th = true →
    let c := th / 8
    let b := s.dev.body
    let cause := s.reg (Pg.core c 1) R.GRT_TH_CAUSE (th % 8)
    let recent := (b.thr th).restarts.filter fun r => decide (b.clk < r + 1000000000)
    (th ∉ b.grt.halts → exec (.supervisorFaultPolicy th) s = .next s) ∧
    (b.supvRuns c = true → s.reg (Pg.core c 1) R.GRT_TH_STATE (th % 8) = TH_HALTED → th ∈ b.grt.halts →
    ∃ t, exec (.supervisorFaultPolicy th) s = .next t ∧ bitOn (t.dev.body.thr (8 * c)).pend 27 = false ∧
      (s.reg (Pg.core c 0) R.GRT_POL_FLT ≠ 1 → t.reg (Pg.core c 1) R.GRT_TH_STATE (th % 8) = TH_HALTED) ∧
      (s.reg (Pg.core c 0) R.GRT_POL_FLT = 1 → 1 ≤ cause → cause ≤ 7 →
        (recent.length < s.reg (Pg.core c 0) R.GRT_RESTART_MAX → t.reg (Pg.core c 1) R.GRT_TH_STATE (th % 8) = TH_RUN ∧
          (t.dev.body.thr th).restarts = recent ++ [b.clk]) ∧
        (s.reg (Pg.core c 0) R.GRT_RESTART_MAX ≤ recent.length → t.reg (Pg.core c 1) R.GRT_TH_STATE (th % 8) = TH_HALTED ∧
          t.evt (Pg.core c 0) R.GRT_EVT_GIVEUP)))) ∧
  (∀ (c : Nat) (s : State), c < 32 → s.runs [14] →
    let b := s.dev.body
    let st := fun th => s.reg (Pg.core c 1) R.GRT_TH_STATE (th % 8)
    let quiet := ∀ th ∈ Body.judged c, st th = TH_HALTED ∨ st th = TH_IDLE ∨ (st th = TH_WAIT ∧ b.waitClosed th = true)
    let some_ := ∃ th ∈ Body.judged c, st th = TH_WAIT
    let zero := st 0 = TH_WAIT ∨ st 0 = TH_HALTED ∨ st 0 = TH_IDLE
    (b.supvRuns c = true → s.reg (Pg.core c 0) R.GRT_ICU_EN = 1 → bitOn (b.thr (8 * c)).pend 26 = true →
      ∃ t, exec (.supervisorIcuForward c) s = .next t ∧ bitOn (t.dev.body.thr (8 * c)).pend 26 = false ∧
        bitOn (t.dev.body.thr (8 * c + s.reg (Pg.core c 0) R.GRT_ICU_THREAD)).pend (s.reg (Pg.core c 0) R.GRT_ICU_BIT) = true) ∧
    let long := b.lasted (Mk.deadlock c) (b.dlTime c)
    (quiet → some_ → zero → long = true → c ∉ b.grt.dlFired →
      ∃ t, exec (.deadlockDetect c) s = .next t ∧ bitOn (t.dev.body.thr (8 * c)).pend 28 = true ∧ c ∈ t.dev.body.grt.dlFired ∧
        t.flt (Pg.core c 0) R.GRT_FLT_DEADLOCK ∧ t.ctr (Pg.core c 3) 32 = (s.ctr (Pg.core c 3) 32 + 1) % 2 ^ 64 ∧
        (∀ i, 1 ≤ i → i < 8 → bitOn (t.reg (Pg.core c 0) R.GRT_DL_THREADS) i = (st i == TH_WAIT)) ∧
        (st 0 ≠ TH_WAIT → t.evt (Pg.core c 0) R.GRT_EVT_DEADLOCK)) ∧
    (¬ quiet ∨ ¬ some_ ∨ ¬ zero ∨ long = false ∨ c ∈ b.grt.dlFired → exec (.deadlockDetect c) s = .next s) ∧
    (b.supvRuns c = true → bitOn (b.thr (8 * c)).pend 28 = true →
      ∃ t, exec (.supervisorDeadlockPolicy c) s = .next t ∧ bitOn (t.dev.body.thr (8 * c)).pend 28 = false ∧
        ∀ i, 1 ≤ i → i < 8 →
          let hit := bitOn (s.reg (Pg.core c 0) R.GRT_DL_THREADS) i = true ∧ st i = TH_WAIT
          (¬ hit ∨ s.reg (Pg.core c 0) R.GRT_POL_DL = 0 → t.reg (Pg.core c 1) R.GRT_TH_STATE i = st i) ∧
          (hit → s.reg (Pg.core c 0) R.GRT_POL_DL = 1 → t.reg (Pg.core c 1) R.GRT_TH_STATE i = TH_RUN) ∧
          (hit → s.reg (Pg.core c 0) R.GRT_POL_DL = 2 → t.reg (Pg.core c 1) R.GRT_TH_STATE i = TH_HALTED ∧
            t.reg (Pg.core c 1) R.GRT_TH_CAUSE i = CS_DEADLOCK)))

/-- R381 to R383, R387, R374: a debugger operation is made by the JTAG debugger, or by the host on a customer thread; STOP, RESUME, STEP,
ABANDON, READ_REG and WRITE_REG act as their codes say, and each that completes sets bit 29 of the thread. An injection arms a thread's
local memory or its register file. The inject source takes the oldest message of its channel. -/
def Obligations.DebuggerAndInjectSource : Prop :=
  (∀ (th m : Nat) (s : State), th < 256 → s.takes m (Pg.core (th / 8) 2 + 0x80) → s.reg (Pg.core (th / 8) 2) R.GRT_DBG_BUSY = 0 →
    let b := s.dev.body
    let p := Pg.core (th / 8) 2
    let st := fun (t : State) => t.reg (Pg.core (th / 8) 1) R.GRT_TH_STATE (th % 8)
    let x := b.thr th
    let may := m = Master.jtag ∨ (m = Master.host ∧ isCust th = true)
    let done := fun (t : State) => t.reg p R.GRT_DBG_RC = 0 ∧ bitOn (t.dev.body.thr th).pend 29 = true
    let sel := s.reg p R.GRT_DBG_SEL
    let v := s.reg p R.GRT_DBG_DATA_LO + 2 ^ 32 * s.reg p R.GRT_DBG_DATA_HI
    let w := s.reg p R.GRT_DBG_WIN
    (¬ may → ∀ c ∈ [Instr.dbgStop th m, .dbgResume th m, .dbgStep th m, .dbgAbandon th m, .dbgReadReg th m, .dbgWriteReg th m],
      ∃ t, exec c s = .next t ∧ t.reg p R.GRT_DBG_RC = 2 ∧ t.evt (Pg.core (th / 8) 0) R.GRT_EVT_DENIED ∧ t.dev.body.grt = b.grt ∧ st t = st s) ∧
    (may → st s ≠ TH_STOPPED → ∀ c ∈ [Instr.dbgResume th m, .dbgStep th m, .dbgAbandon th m, .dbgReadReg th m, .dbgWriteReg th m],
      ∃ t, exec c s = .next t ∧ t.reg p R.GRT_DBG_RC = 1 ∧ t.dev.body.grt = b.grt ∧ st t = st s) ∧
    (may → st s = TH_RUN ∨ st s = TH_WAIT → ∃ t, exec (.dbgStop th m) s = .next t ∧ st t = TH_STOPPED ∧ done t ∧
      t.reg (Pg.core (th / 8) 1) R.GRT_TH_PRIOR (th % 8) = st s ∧ (t.dev.body.thr th).wins = x.wins ∧ (t.dev.body.thr th).binds = x.binds ∧
      (t.dev.body.thr th).timer = x.timer ∧ (t.dev.body.thr th).regs = x.regs ∧ (t.dev.body.thr th).pc = x.pc) ∧
    (may → st s = TH_STOPPED →
      (let prior := s.reg (Pg.core (th / 8) 1) R.GRT_TH_PRIOR (th % 8)
       prior = TH_RUN ∨ (prior = TH_WAIT ∧ x.wait = none) → ∃ t, exec (.dbgResume th m) s = .next t ∧ done t ∧ st t = prior ∧
        (t.dev.body.thr th).regs = x.regs ∧ (t.dev.body.thr th).wins = x.wins) ∧
      (∃ t, exec (.dbgStep th m) s = .next t ∧ st t = TH_STOPPED ∧ t.reg p R.GRT_DBG_BUSY = 1 ∧
        (t.dev.body.thr th).steps = some (max 1 (s.reg p R.GRT_DBG_COUNT)) ∧ (t.dev.body.thr th).regs = x.regs) ∧
      ((b.win' th w).st = 1 ∨ (b.win' th w).st = 2 → ∃ t, exec (.dbgAbandon th m) s = .next t ∧ done t ∧ st t = TH_STOPPED ∧
        (t.dev.body.win' th w).st = 3 ∧
        (t.dev.body.chan (b.win' th w).ch).free = (b.chan (b.win' th w).ch).free ++ [(b.win' th w).slot] ∧
        (t.dev.body.chan (b.win' th w).ch).abandons = ((b.chan (b.win' th w).ch).abandons + 1) % 2 ^ 32) ∧
      ((b.win' th w).st = 0 ∨ (b.win' th w).st = 3 → ∃ t, exec (.dbgAbandon th m) s = .next t ∧ t.reg p R.GRT_DBG_RC = 5 ∧
        t.dev.body.grt = b.grt) ∧
      (∀ y, (sel < 32 ∧ y = b.greg th sel) ∨ (sel = 32 ∧ y = x.pc) ∨ (sel = 33 ∧ y = x.wmask) ∨ (sel = 34 ∧ y = b.pendBits th) ∨
          (36 ≤ sel ∧ sel < 40 ∧ y = b.winStat th (sel - 36)) →
        ∃ t, exec (.dbgReadReg th m) s = .next t ∧ done t ∧ st t = TH_STOPPED ∧ t.reg p R.GRT_DBG_DATA_LO = y % 2 ^ 32 ∧
          t.reg p R.GRT_DBG_DATA_HI = y / 2 ^ 32 % 2 ^ 32) ∧
      (sel = 35 ∨ 40 ≤ sel → ∃ t, exec (.dbgReadReg th m) s = .next t ∧ t.reg p R.GRT_DBG_RC = 4 ∧ t.dev.body.grt = b.grt) ∧
      (sel < 35 → ∃ t, exec (.dbgWriteReg th m) s = .next t ∧ done t ∧ st t = TH_STOPPED ∧
        (sel < 32 → t.dev.body.greg th sel = if sel = 0 then 0 else v) ∧ (sel = 32 → (t.dev.body.thr th).pc = v) ∧
        (sel = 33 → (t.dev.body.thr th).wmask = v % 2 ^ 32) ∧
        (sel = 34 → ∀ n < 32, n ≠ 25 → n ≠ 29 → bitOn (t.dev.body.thr th).pend n = (bitOn v n && bitOn (Body.latchedMask th) n)) ∧
        (∀ r < 32, r ≠ sel → t.dev.body.greg th r = b.greg th r)) ∧
      (35 ≤ sel → ∃ t, exec (.dbgWriteReg th m) s = .next t ∧ t.reg p R.GRT_DBG_RC = 4 ∧ t.dev.body.grt = b.grt))) ∧
  (∀ (th : Nat) (s : State), th < 256 → s.runs [14] → (s.dev.body.thr th).steps = some 0 →
    ∃ t, exec (.dbgStepEnd th) s = .next t ∧ t.reg (Pg.core (th / 8) 1) R.GRT_TH_STATE (th % 8) = TH_STOPPED ∧
      t.reg (Pg.core (th / 8) 1) R.GRT_TH_PRIOR (th % 8) = TH_RUN ∧ t.reg (Pg.core (th / 8) 2) R.GRT_DBG_BUSY = 0 ∧
      t.reg (Pg.core (th / 8) 2) R.GRT_DBG_RC = 0 ∧ (t.dev.body.thr th).steps = none ∧ bitOn (t.dev.body.thr th).pend 29 = true ∧
      (t.dev.body.thr th).regs = (s.dev.body.thr th).regs) ∧
  (∀ (c m : Nat) (s : State), c < 32 → s.takes m (Pg.core c 2 + 0x94) →
    let th := 8 * c + s.reg (Pg.core c 2) R.GRT_INJ_THREAD
    ∃ t, exec (.grtInject c m) s = .next t ∧ s.keeps t [Pg.core c 2] ∧ (t.dev.body.thr th).regs = (s.dev.body.thr th).regs ∧
      (s.reg (Pg.core c 2) R.GRT_INJ_KIND = 0 → (t.dev.body.thr th).ueArm = true) ∧
      (s.reg (Pg.core c 2) R.GRT_INJ_KIND = 1 → (t.dev.body.thr th).rfArm = true)) ∧
  (∀ (g sl len : Nat) (rest : List (Nat × Nat)) (s : State), g < 8 → s.runs [14] → s.reg (Pg.cplx 0) R.GRT_INJ_EN g = 1 →
    let b := s.dev.body
    let ch := s.reg (Pg.cplx 0) R.GRT_INJ_CH g
    let a := b.slotAddr ch sl
    let good := 76 ≤ len ∧ len ≤ 10252 ∧ b.grtBad a len = false
    (b.chan ch).ready = (sl, len) :: rest →
    ∃ t, exec (.grottoInjectTake g) s = .next t ∧ (t.dev.body.chan ch).ready = rest ∧ (t.dev.body.chan ch).free = (b.chan ch).free ++ [sl] ∧
      (good → ∃ y, Sp.get [] t.dev.body.pipe.injQ g = Sp.get [] b.pipe.injQ g ++ [y] ∧ y.rec_ = (b.grtBytes a len).take 16 ∧
        y.data = withFcs ((b.grtBytes a len).drop 16) ∧ y.src = ch ∧ t.dev.body.ctrs = b.ctrs) ∧
      (¬ good → t.dev.body.pipe.injQ = b.pipe.injQ ∧ t.ctr (Pg.cplx 1) (8 + g) = (s.ctr (Pg.cplx 1) (8 + g) + 1) % 2 ^ 64))


/-! The control block of a thread. -/

/-- R367 to R369, R376: a thread's loads and stores of its control block wait for events or read them, read and set its mask, its timer and
its binds, send a bit to a thread of its core, and read its windows, the pools' levels and its master ID. A wait with nothing pending puts
the thread in WAIT. -/
def Obligations.ControlBlockEvents : Prop :=
  ∀ (th w : Nat) (s : State), s.issues th w →
    let b := s.dev.body
    let x := b.thr th
    let pc := (x.pc + 4) % 2 ^ 64
    let at_ := fun off => memAt th (Dev.effAddr b th w) = .tcb off
    let sx := uOp w == 0x1A
    let v := b.greg th (uD w)
    let gives := fun (c : Instr) (y : Nat) => ∃ t, exec c s = .next t ∧ s.retires t th (uD w) y pc ∧ s.within t
    let stores := fun (c : Instr) (p : State → Prop) => ∃ t, exec c s = .next t ∧ s.retires t th 0 0 pc ∧ s.within t ∧ p t
    (uOp w = 0x1B →
      (at_ 0x000 → b.pendBits th &&& b.effMask th ≠ 0 → ∃ t, exec (.tcbWait th) s = .next t ∧
        s.retires t th (uD w) ((b.pendBits th &&& b.effMask th) % 2 ^ 64) pc ∧ s.within t ∧
        ∀ n < 32, n ≠ 25 → bitOn (t.dev.body.thr th).pend n = (bitOn x.pend n && !bitOn (b.pendBits th &&& b.effMask th) n)) ∧
      (at_ 0x000 → b.pendBits th &&& b.effMask th = 0 → x.steps = none → ∃ t, exec (.tcbWait th) s = .next t ∧
        t.reg (Pg.core (th / 8) 1) R.GRT_TH_STATE (th % 8) = TH_WAIT ∧ (t.dev.body.thr th).wait = some { on := .events, d := uD w, sx := false } ∧
        (t.dev.body.thr th).pc = x.pc ∧ (t.dev.body.thr th).regs = x.regs) ∧
      (at_ 0x008 → gives (.tcbPoll th) (b.pendBits th % 2 ^ 64)) ∧
      (at_ 0x010 → gives (.tcbWaitMask th) (x.wmask % 2 ^ 64))) ∧
    (uOp w = 0x1A ∨ uOp w = 0x1E →
      (at_ 0x020 → gives (.tcbTimer th) (extLoad sx 4 (match x.timer with | some t => t - b.clk | none => 0))) ∧
      (∀ k < 4, at_ (0x180 + 8 * k) → gives (.tcbWstat th) (extLoad sx 4 (b.winStat th k))) ∧
      (at_ 0x248 → gives (.tcbPoolBp th) (extLoad sx 4 ((List.range 16).map fun n => b.poolLevel n * 4 ^ n).sum)) ∧
      (at_ 0x250 → gives (.tcbId th) (0x100 + th))) ∧
    (uOp w = 0x23 → at_ 0x010 → stores (.tcbWaitMask th) fun t => (t.dev.body.thr th).wmask = v % 2 ^ 32) ∧
    (uOp w = 0x22 →
      (at_ 0x018 → stores (.tcbSend th) fun t => bitOn (t.dev.body.thr (th / 8 * 8 + bitField v 6 4)).pend (v % 16) = true) ∧
      (at_ 0x020 → stores (.tcbTimer th) fun t =>
        (t.dev.body.thr th).timer = if v % 2 ^ 32 = 0 then none else some (b.clk + v % 2 ^ 32)) ∧
      (∀ k < 8, at_ (0x040 + 8 * k) → stores (.tcbBind th) fun t =>
        Sp.get 0 (t.dev.body.thr th).binds k = bitField v 31 30 * 2 ^ 30 + bitField v 9 0) ∧
      (at_ 0x200 → stores (.tcbPoolSize th) fun t => (t.dev.body.thr th).psize = v % 2 ^ 32))

/-- R370, R371, R376, R377: RESERVE and ACQUIRE map the head of the free or of the ready list to the thread's lowest free window, or answer
the code of what stands against it; their blocking forms wait instead where the channel is full or empty. COMMIT appends the slot with its
length, RELEASE returns it, and each faults with cause CHANNEL where the window does not allow it. A pool request answers its buffer, or
its error with an open pool and index (the model's choice: log entry 4), and a free returns a buffer. -/
def Obligations.ControlBlockChannels : Prop :=
  ∀ (th w : Nat) (s : State), s.issues th w →
    let b := s.dev.body
    let x := b.thr th
    let pc := (x.pc + 4) % 2 ^ 64
    let at_ := fun off => memAt th (Dev.effAddr b th w) = .tcb off
    let sx := uOp w == 0x1A
    let v := b.greg th (uD w)
    let gives := fun (c : Instr) (y : Nat) (p : State → Prop) => ∃ t, exec c s = .next t ∧ s.retires t th (uD w) (extLoad sx 4 y) pc ∧
      s.within t ∧ p t
    let stores := fun (c : Instr) (p : State → Prop) => ∃ t, exec c s = .next t ∧ s.retires t th 0 0 pc ∧ s.within t ∧ p t
    let err := fun (n : Nat) => 2 ^ 31 + n * 2 ^ 28
    (uOp w = 0x1A ∨ uOp w = 0x1E → ∀ ch < 1024,
      (∀ c base, (c = .tcbReserve th ∧ base = 0x1000) ∨ (c = .tcbReserveWait th ∧ base = 0x2000) → at_ (base + 4 * ch) →
        (chValid (b.chEnt ch) = false → gives c (err 3) fun t => t.dev.body.chan ch = b.chan ch) ∧
        (chValid (b.chEnt ch) = true → epHas (chWr (b.chEnt ch)) th = false → gives c (err 4) fun t => t.dev.body.chan ch = b.chan ch) ∧
        (chValid (b.chEnt ch) = true → epHas (chWr (b.chEnt ch)) th = true → b.freeWin th = none →
          gives c (err 2) fun t => t.dev.body.chan ch = b.chan ch) ∧
        (∀ k sl rest, chValid (b.chEnt ch) = true → epHas (chWr (b.chEnt ch)) th = true → b.freeWin th = some k →
          (b.chan ch).free = sl :: rest → gives c (k * 2 ^ 26) fun t => (t.dev.body.chan ch).free = rest ∧
            t.dev.body.win' th k = { st := 1, ch := ch, slot := sl, len := 0 })) ∧
      (∀ k, chValid (b.chEnt ch) = true → epHas (chWr (b.chEnt ch)) th = true → b.freeWin th = some k → (b.chan ch).free = [] →
        (at_ (0x1000 + 4 * ch) → gives (.tcbReserve th) (err 1) fun t => t.dev.body.chan ch = b.chan ch) ∧
        (at_ (0x2000 + 4 * ch) → x.steps = none → ∃ t, exec (.tcbReserveWait th) s = .next t ∧
          t.reg (Pg.core (th / 8) 1) R.GRT_TH_STATE (th % 8) = TH_WAIT ∧
          (t.dev.body.thr th).wait = some { on := .reserve ch, d := uD w, sx := sx } ∧ (t.dev.body.thr th).pc = x.pc)) ∧
      (∀ c base, (c = .tcbAcquire th ∧ base = 0x3000) ∨ (c = .tcbAcquireWait th ∧ base = 0x4000) → at_ (base + 4 * ch) →
        (chValid (b.chEnt ch) = false → gives c (err 3) fun t => t.dev.body.chan ch = b.chan ch) ∧
        (chValid (b.chEnt ch) = true → epHas (chRd (b.chEnt ch)) th = false → gives c (err 4) fun t => t.dev.body.chan ch = b.chan ch) ∧
        (chValid (b.chEnt ch) = true → epHas (chRd (b.chEnt ch)) th = true → b.freeWin th = none →
          gives c (err 2) fun t => t.dev.body.chan ch = b.chan ch) ∧
        (∀ k sl len rest, chValid (b.chEnt ch) = true → epHas (chRd (b.chEnt ch)) th = true → b.freeWin th = some k →
          (b.chan ch).ready = (sl, len) :: rest → gives c (k * 2 ^ 26 + len) fun t => (t.dev.body.chan ch).ready = rest ∧
            t.dev.body.win' th k = { st := 2, ch := ch, slot := sl, len := len })) ∧
      (∀ k, chValid (b.chEnt ch) = true → epHas (chRd (b.chEnt ch)) th = true → b.freeWin th = some k → (b.chan ch).ready = [] →
        (at_ (0x3000 + 4 * ch) → gives (.tcbAcquire th) (err 1) fun t => t.dev.body.chan ch = b.chan ch) ∧
        (at_ (0x4000 + 4 * ch) → x.steps = none → ∃ t, exec (.tcbAcquireWait th) s = .next t ∧
          t.reg (Pg.core (th / 8) 1) R.GRT_TH_STATE (th % 8) = TH_WAIT ∧
          (t.dev.body.thr th).wait = some { on := .acquire ch, d := uD w, sx := sx } ∧ (t.dev.body.thr th).pc = x.pc))) ∧
    (uOp w = 0x22 → ∀ k < 4,
      let y := b.win' th k
      let len := v % 2 ^ 32
      (at_ (0x100 + 8 * k) →
        (y.st = 1 → 1 ≤ len → len ≤ chSlot (b.chEnt y.ch) → stores (.tcbCommit th) fun t =>
          (t.dev.body.chan y.ch).ready = (b.chan y.ch).ready ++ [(y.slot, len)] ∧ (t.dev.body.chan y.ch).free = (b.chan y.ch).free ∧
            (t.dev.body.chan y.ch).commits = ((b.chan y.ch).commits + 1) % 2 ^ 32 ∧ t.dev.body.win' th k = {}) ∧
        (y.st ≠ 1 ∨ len = 0 ∨ chSlot (b.chEnt y.ch) < len → ∃ t, exec (.tcbCommit th) s = .next t ∧
          s.faults t th CS_CHANNEL (Dev.effAddr b th w))) ∧
      (at_ (0x140 + 8 * k) →
        (y.st = 1 ∨ y.st = 2 → stores (.tcbRelease th) fun t =>
          (t.dev.body.chan y.ch).free = (b.chan y.ch).free ++ [y.slot] ∧ t.dev.body.win' th k = {}) ∧
        (y.st = 3 → stores (.tcbRelease th) fun t => t.dev.body.grt.chans = b.grt.chans ∧ t.dev.body.win' th k = {}) ∧
        (y.st = 0 → ∃ t, exec (.tcbRelease th) s = .next t ∧ s.faults t th CS_CHANNEL (Dev.effAddr b th w)))) ∧
    (uOp w = 0x1B → ∀ m < 4, at_ (0x208 + 8 * m) →
      (∀ n i, (b.poolReq 0 m x.psize).2 = .ok n i → ∃ t, exec (.tcbPoolAlloc th) s = .next t ∧
        s.retires t th (uD w) (n * 2 ^ 32 + i % 2 ^ 28) pc ∧ i ∈ t.dev.body.allocOf n) ∧
      (∀ n, (b.poolReq 0 m x.psize).2 = .empty n → ∃ t y, exec (.tcbPoolAlloc th) s = .next t ∧ s.retires t th (uD w) y pc ∧
        bitField y 63 61 = 5) ∧
      ((b.poolReq 0 m x.psize).2 = .noPool → ∃ t y, exec (.tcbPoolAlloc th) s = .next t ∧ s.retires t th (uD w) y pc ∧
        bitField y 63 61 = 6 ∧ t.dev.body.buf = b.buf)) ∧
    (uOp w = 0x23 → at_ 0x240 →
      let n := bitField v 35 32
      let i := v % 2 ^ 28
      (bitOn (s.reg (Pg.pool n) R.POOL_OWNERS) 0 = true → i < s.reg (Pg.pool n) R.POOL_COUNT → (n, i) ∉ b.buf.bitBad →
        i ∈ b.allocOf n → ∃ t, exec (.tcbPoolFree th) s = .next t ∧ s.retires t th 0 0 pc ∧
          t.dev.body.allocOf n = (b.allocOf n).erase i) ∧
      (bitOn (s.reg (Pg.pool n) R.POOL_OWNERS) 0 = false → ∃ t, exec (.tcbPoolFree th) s = .next t ∧ s.retires t th 0 0 pc ∧
        t.dev.body.buf = b.buf ∧ t.reg (Pg.pool n) R.POOL_BADIDX = min (s.reg (Pg.pool n) R.POOL_BADIDX + 1) (2 ^ 32 - 1)))


/-! Grotto instructions. -/

/-- R356, R409, R410: the arithmetic, logic, shift and comparison instructions write their result to register d and pass to the next
instruction; nothing else of the engine changes. Division by zero returns all ones, a remainder by zero the dividend. A shift by 64 or
more, the sign of MULH, and signed divisions and remainders that the spec does not settle give an open value (the model's choice: log
entry 5). -/
def Obligations.ArithmeticInstructions : Prop :=
  ∀ (th w : Nat) (s : State), s.issues th w → (∀ r < 32, s.dev.body.greg th r < 2 ^ 64) →
    let b := s.dev.body
    let x := b.greg th (uA w)
    let y := b.greg th (uB w)
    let pc := ((b.thr th).pc + 4) % 2 ^ 64
    let imm := uSx w
    let gives := fun (c : Instr) (p : Nat → Prop) => ∃ t v, exec c s = .next t ∧ s.retires t th (uD w) v pc ∧ s.within t ∧ p v
    (∀ c op v, (c, op, v) ∈ [(Instr.add th, 0x00, x + y), (.sub th, 0x01, x + (2 ^ 64 - y)), (.and th, 0x02, x &&& y), (.or th, 0x03, x ||| y),
        (.xor th, 0x04, x ^^^ y), (.clt th, 0x10, if signed 64 x < signed 64 y then 1 else 0), (.cltu th, 0x11, if x < y then 1 else 0),
        (.ceq th, 0x12, if x = y then 1 else 0), (.mul th, 0x13, x * y), (.addi th, 0x08, x + imm), (.andi th, 0x09, x &&& w % 2 ^ 16),
        (.ori th, 0x0A, x ||| w % 2 ^ 16), (.xori th, 0x0B, x ^^^ w % 2 ^ 16), (.lih th, 0x0F, imm * 2 ^ 16)] →
      uOp w = op → gives c fun z => z = v % 2 ^ 64) ∧
    (∀ c d e k n, (c, d, e, k, n) ∈ [(Instr.shl th, Instr.shr th, Instr.sar th, 0x05, y), (.shli th, .shri th, .sari th, 0x0C, imm)] →
      (uOp w = k → gives c fun z => n < 64 → z = x * 2 ^ n % 2 ^ 64) ∧
      (uOp w = k + 1 → gives d fun z => n < 64 → z = x / 2 ^ n) ∧
      (uOp w = k + 2 → gives e fun z => n < 64 → signed 64 z = signed 64 x / (2 ^ n : Nat))) ∧
    (uOp w = 0x14 → gives (.mulh th) fun z =>
      z = x * y / 2 ^ 64 ∨ signed 64 z = signed 64 x * signed 64 y / (2 ^ 64 : Nat)) ∧
    (uOp w = 0x15 → gives (.div th) fun z => (y = 0 → z = 2 ^ 64 - 1) ∧
      (y ≠ 0 → x < 2 ^ 63 → y < 2 ^ 63 → z = x / y) ∧
      (y ≠ 0 → signed 64 x < 0 → signed 64 y < 0 → (signed 64 x).natAbs / (signed 64 y).natAbs < 2 ^ 63 →
        z = (signed 64 x).natAbs / (signed 64 y).natAbs) ∧
      (y ≠ 0 → signed 64 x % signed 64 y = 0 → (signed 64 x < 0 ↔ 0 < signed 64 y) → signed 64 z = signed 64 x / signed 64 y)) ∧
    (uOp w = 0x16 → gives (.divu th) fun z => z = if y = 0 then 2 ^ 64 - 1 else x / y) ∧
    (uOp w = 0x17 → gives (.rem th) fun z => (y = 0 → z = x) ∧ (y ≠ 0 → x < 2 ^ 63 → y < 2 ^ 63 → z = x % y))

/-- R409, R410: a branch goes to its target where its condition holds and to the next instruction elsewhere; CALL writes the address of the
next instruction, JR goes to a register's address; whether an offset counts from the branch or from the next instruction is open (the
model's choice: log entry 5), as are the values of CRC32C, EXTR, INSR and CSEL. POPCNT, CLZ and BSWAP have their values; FENCE passes. A word
that is no instruction, a misaligned program counter, a word with an uncorrectable error, and an error of the register file fault the
thread (R363, R377). -/
def Obligations.BranchesAndBitInstructions : Prop :=
  (∀ (th w : Nat) (s : State), s.issues th w → (∀ r < 32, s.dev.body.greg th r < 2 ^ 64) →
    let b := s.dev.body
    let p := (b.thr th).pc
    let next := (p + 4) % 2 ^ 64
    let base := p + (if Config.branchNext then 4 else 0)
    let x := b.greg th (uD w)
    let y := b.greg th (uA w)
    (∀ c op cond, (c, op, cond) ∈ [(Instr.beq th, 0x28, decide (x = y)), (.bne th, 0x29, decide (x ≠ y)),
        (.blt th, 0x2A, decide (signed 64 x < signed 64 y)), (.bge th, 0x2B, decide (signed 64 y ≤ signed 64 x)),
        (.bltu th, 0x2C, decide (x < y)), (.bgeu th, 0x2D, decide (y ≤ x))] → uOp w = op →
      ∃ t, exec c s = .next t ∧ s.retires t th 0 0 (if cond then (base + 4 * uSx w) % 2 ^ 64 else next) ∧ s.within t) ∧
    (uOp w = 0x2E → ∃ t, exec (.call th) s = .next t ∧ s.within t ∧
      s.retires t th (uD w) next ((base + 4 * encSigned 64 (signed 21 (w % 2 ^ 21))) % 2 ^ 64)) ∧
    (uOp w = 0x2F → ∃ t, exec (.jr th) s = .next t ∧ s.within t ∧ s.retires t th 0 0 x) ∧
    (uOp w = 0x38 → ∃ t, exec (.fence th) s = .next t ∧ s.within t ∧ s.retires t th 0 0 next) ∧
    (∀ c op (p : Nat → Prop), (c, op, p) ∈ [(Instr.crc32c th, 0x30, fun _ => True), (.popcnt th, 0x31, fun v => v = popcount y 64),
        (.clz th, 0x32, fun v => (y = 0 → v = 64) ∧ (y ≠ 0 → v < 64 ∧ 2 ^ (63 - v) ≤ y ∧ y < 2 ^ (64 - v))),
        (.bswap th, 0x33, fun v => leBytes 8 v = (leBytes 8 y).reverse), (.extr th, 0x34, fun _ => True), (.insr th, 0x35, fun _ => True),
        (.csel th, 0x36, fun v => v = y ∨ v = b.greg th (uB w))] → uOp w = op →
      ∃ t v, exec c s = .next t ∧ s.retires t th (uD w) v next ∧ s.within t ∧ p v)) ∧
  (∀ (th : Nat) (c : Instr) (s : State), c ∈ [Instr.add th, .lw th, .sd th, .beq th, .fence th, .tcbPoll th] → s.runs [14] →
    s.dev.body.issues th = true →
    let b := s.dev.body
    let p := (b.thr th).pc
    (p % 4 ≠ 0 → ∃ t, exec c s = .next t ∧ s.faults t th CS_MEM_ALIGN p) ∧
    (p % 4 = 0 → 0x80000 ≤ p → ∃ t, exec c s = .next t ∧ s.faults t th CS_MEM_ACCESS p) ∧
    (p % 4 = 0 → p < 0x80000 → b.grtBad (sliceBase th + p) 4 = true → ∃ t, exec c s = .next t ∧ s.faults t th CS_MEM_UE p ∧
      t.flt (Pg.core (th / 8) 0) R.GRT_FLT_MEM_UE) ∧
    (∀ w, b.fetch th = .ok w → undefinedWord w = true → ∃ t, exec c s = .next t ∧ s.faults t th CS_ILLEGAL p)) ∧
  (∀ (th w : Nat) (s : State), s.runs [14] → s.dev.body.issues th = true → s.dev.body.fetch th = .ok w → undefinedWord w = false →
    (s.dev.body.thr th).rfArm = true →
    (uOp w = 0x00 → ∃ t, exec (.add th) s = .next t ∧ s.faults t th CS_REGFILE (s.dev.body.thr th).pc ∧ (t.dev.body.thr th).rfArm = false) ∧
    (uOp w = 0x0F → ∃ t, exec (.lih th) s = .next t ∧ (t.dev.body.thr th).rfArm = true ∧
      s.retires t th (uD w) (uSx w * 2 ^ 16 % 2 ^ 64) (((s.dev.body.thr th).pc + 4) % 2 ^ 64)))

/-- R359 to R363, R370, R377: a load brings the bytes at its address, extended to its register, from the thread's slice, from memory that a
grant opens, from a window or from a register; a store writes its bytes and no other byte of memory. A misaligned access, an address that
the thread does not reach or a window does not allow, a register that no range opens, and a word with an uncorrectable error fault. -/
def Obligations.LoadsAndStores : Prop :=
  ∀ (th w : Nat) (s : State), s.issues th w →
    let b := s.dev.body
    let pc := ((b.thr th).pc + 4) % 2 ^ 64
    let a := Dev.effAddr b th w
    let place := memAt th a
    let v := b.greg th (uD w)
    let halts := fun (c : Instr) (cause : Nat) => ∃ t, exec c s = .next t ∧ s.faults t th cause a
    (∀ c op n sx, (c, op, n, sx) ∈ [(Instr.lb th, 0x18, 1, true), (.lh th, 0x19, 2, true), (.lw th, 0x1A, 4, true), (.ld th, 0x1B, 8, false),
        (.lbu th, 0x1C, 1, false), (.lhu th, 0x1D, 2, false), (.lwu th, 0x1E, 4, false)] → uOp w = op →
      (a % n ≠ 0 → halts c CS_MEM_ALIGN) ∧
      (a % n = 0 →
        (∀ gl, (place = .mem gl ∧ b.glReach th gl false = true) ∨ (∃ k off, place = .window k off ∧ b.winAt th k off n false = .ok gl) →
          (b.thr th).ueArm = false →
          (b.grtBad gl n = false → ∃ t, exec c s = .next t ∧ s.within t ∧ s.retires t th (uD w) (extLoad sx n (leNat (b.grtBytes gl n))) pc) ∧
          (b.grtBad gl n = true → ∃ t, exec c s = .next t ∧ s.faults t th CS_MEM_UE a ∧ t.flt (Pg.core (th / 8) 0) R.GRT_FLT_MEM_UE)) ∧
        (∀ gl, place = .mem gl → b.glReach th gl false = false → halts c CS_MEM_ACCESS) ∧
        (∀ k off e, place = .window k off → b.winAt th k off n false = .error e → halts c e) ∧
        (place = .none → halts c CS_MEM_ACCESS) ∧
        (∀ off e, place = .tcb off → b.tcbLoad th off n = .fault e → halts c e) ∧
        (∀ x, place = .bar x → (n < 4 → halts c CS_MEM_ALIGN) ∧ (4 ≤ n → b.barReach th x false = false → halts c CS_REG_DENIED) ∧
          (n = 4 → b.barReach th x false = true → ∃ t, exec c s = .next t ∧
            s.retires t th (uD w) (extLoad sx 4 (s.dev.busRead (0x100 + th) x).2) pc)))) ∧
    (∀ c op n, (c, op, n) ∈ [(Instr.sb th, 0x20, 1), (.sh th, 0x21, 2), (.sw th, 0x22, 4), (.sd th, 0x23, 8)] → uOp w = op →
      (a % n ≠ 0 → halts c CS_MEM_ALIGN) ∧
      (a % n = 0 →
        (∀ gl, (place = .mem gl ∧ b.glReach th gl true = true) ∨ (∃ k off, place = .window k off ∧ b.winAt th k off n true = .ok gl) →
          ∃ t, exec c s = .next t ∧ s.retires t th 0 0 pc ∧ s.sameRegs t [] ∧ t.dev.body.tbls = b.tbls ∧ t.dev.sticky = s.dev.sticky ∧
            t.dev.body.mem = { b.mem with grt := t.dev.body.mem.grt } ∧
            ∀ j, Mem.get t.dev.body.mem.grt j =
              if gl ≤ j ∧ j < gl + n then BitVec.ofNat 8 (v / 256 ^ (j - gl)) else Mem.get b.mem.grt j) ∧
        (∀ gl, place = .mem gl → b.glReach th gl true = false → halts c CS_MEM_ACCESS) ∧
        (∀ k off e, place = .window k off → b.winAt th k off n true = .error e → halts c e) ∧
        (place = .none → halts c CS_MEM_ACCESS) ∧
        (∀ off e, place = .tcb off → b.tcbStore th off n v = .error e → halts c e) ∧
        (∀ x, place = .bar x → (n < 4 → halts c CS_MEM_ALIGN) ∧ (4 ≤ n → b.barReach th x true = false → halts c CS_REG_DENIED))))


/-! Resets and boot. -/

/-- R314, R497 to R501: RESET_N and the brown-out hold stop the engine and leave every register outside the Lamp page; the time of day goes on
unadjusted and not valid. The Lamp's power-on reset clears it, and waits where RESET_N still falls. A release of RESET_N holds while the reference
is absent, and while the junction is hot. With the test strap nothing boots, and the engine is as an engine reset leaves it: no page is locked,
every register outside the Lamp reads its reset value, every entry but the comparators', every counter and every block but the memories of others
is cleared, and TH_TRIP_LAST, the time of day and what the fixed comparators have tripped are kept. -/
def Obligations.EngineResets : Prop :=
  ∀ (s : State),
    let b := s.dev.body
    let stopped := fun (t : State) (m : Mode) => t.dev.body.sup.mode = m ∧ t.reg Pg.lamp R.TOD_VALID = 0 ∧ t.reg Pg.lamp R.TOD_FREQ_ADJ = 0 ∧
      (s.reg Pg.lamp R.TOD_VALID = 1 → t.evt Pg.lamp R.TOD_EVT_INVALID) ∧
      t.dev.body.lamp.slew = 0 ∧ t.dev.body.tod = b.tod ∧ s.keeps t [Pg.lamp]
    let cold := fun (t : State) =>
      t.dev.body.sup.mode = .running ∧ t.dev.body.boot = {} ∧ t.dev.sticky = { s.dev.sticky with locked := [] } ∧
      (∀ (q : Nat) (g : Fld) (x y : Nat), g.lo < 32 → pageOf (g.addr q x y) ≠ Pg.lamp → pageOf (g.addr q x y) ≠ Pg.boot →
        (g.addr q x y % 0x1000 = 0x10 → 0x8000 ≤ g.addr q x y) → t.reg q g x y = g.reset x % 2 ^ g.width) ∧
      (∀ n < 8, t.reg (0x1000 * n) R.PG_EN = 1) ∧
      (∀ tid idx, tid ≠ Tbl.glow → idx < 2 ^ 40 → t.ent tid idx = tblReset tid idx) ∧
      t.dev.body.ctrs = [] ∧ t.dev.body.cairn = {} ∧ t.dev.body.net = {} ∧ t.dev.body.pipe = {} ∧ t.dev.body.stat = {} ∧
      t.dev.body.buf = {} ∧ t.dev.body.rim = {} ∧ t.dev.body.hbm = {} ∧ t.dev.body.far = {} ∧
      t.dev.body.sch = { next := b.clk + 128 } ∧ t.dev.body.marks = [] ∧
      t.dev.body.grt = {} ∧ t.dev.body.host = {} ∧ t.dev.body.irq = {} ∧ t.dev.body.gov = {} ∧
      t.dev.body.mem = { far0 := b.mem.far0, far1 := b.mem.far1, host := b.mem.host }
    let spared := fun (t : State) => t.reg Pg.lamp R.TH_TRIP_LAST = s.reg Pg.lamp R.TH_TRIP_LAST ∧ t.dev.body.tod = b.tod ∧
      t.reg Pg.lamp R.TOD_VALID = 0 ∧ ∀ n < 18, Body.glwTripped (t.ent Tbl.glow n) = Body.glwTripped (s.ent Tbl.glow n)
    let off := fun (t : State) => t.dev.body.tod = 0 ∧ t.reg Pg.lamp R.TH_TRIP_LAST = 0 ∧ t.reg Pg.lamp R.TOD_VALID = 0
    (b.sup.mode ≠ .off → ∃ t, exec .engineResetAssert s = .next t ∧ stopped t .held ∧ t.dev.body.sup.released = false) ∧
    (b.sup.mode = .running → ∃ t, exec .brownoutStart s = .next t ∧ stopped t .brownout ∧ t.dev.body.faultPin = true) ∧
    (∀ fr slow test, b.sup.mode = .held → b.sup.released = false →
      (b.lamp.refLost = true → ∃ t, exec (.engineResetRelease fr slow test) s = .next t ∧ t.dev.body.sup.mode = .held ∧
        t.dev.body.sup.released = true ∧ t.dev.body.sup.straps = { flashRel := fr, slow := slow, test := test } ∧ s.keeps t []) ∧
      (b.lamp.refLost = false → 840 ≤ b.jmax → ∃ t, exec (.engineResetRelease fr slow test) s = .next t ∧ t.dev.body.sup.mode = .hot ∧
        t.reg Pg.fmu R.FMU_TRIP_HOLD = 0 ∧ s.keeps t [Pg.fmu]) ∧
      (b.lamp.refLost = false → b.jmax < 840 → test = true → Body.glwTripped (s.ent Tbl.glow 16) = false →
        ∃ t, exec (.engineResetRelease fr slow test) s = .next t ∧ cold t ∧ spared t ∧
          t.reg Pg.boot R.BOOT_FLASH_REL = (if fr then 1 else 0))) ∧
    (b.sup.straps.test = true → Body.glwTripped (s.ent Tbl.glow 16) = false →
      (b.sup.mode = .brownout → ∃ t, exec .brownoutEnd s = .next t ∧ cold t ∧ spared t) ∧
      (b.sup.mode = .hot → b.jmax < 816 → ∃ t, exec .thermalResetHoldEnd s = .next t ∧ cold t ∧ spared t)) ∧
    (b.sup.mode = .hot → 816 ≤ b.jmax → exec .thermalResetHoldEnd s = .next s) ∧
    (∃ t, exec .lampPowerLoss s = .next t ∧ t.dev.body.sup.mode = .off ∧ off t ∧ t.dev.sticky = s.dev.sticky) ∧
    (∀ sa ready fr slow test, sa < 4 → b.sup.mode = .off →
      (ready = false → ∃ t, exec (.lampPowerOn sa ready fr slow test) s = .next t ∧ t.dev.body.sup.mode = .held ∧
        t.dev.body.sup.released = false ∧ t.dev.body.sup.sa = sa ∧ t.dev.body.sup.lampOnly = true ∧ off t) ∧
      (ready = true → test = true → b.lamp.refLost = false → ∃ t, exec (.lampPowerOn sa ready fr slow test) s = .next t ∧ cold t ∧
        t.dev.body.sup.sa = sa ∧ off t))

/-- R390, R392, R404: with every rail and the reference present and the junction cool, a release of RESET_N boots the engine. Boot ends in
DONE, with BOOT_EVT_DONE set, in WAIT_HOST or in FAILED, both with BOOT_FLT_HALT set; the fuses only rise and the flash keeps every byte. A ROM
self-check that fails ends in FAILED before BAR0 answers. Where the flash is released or has no valid directory, boot waits for the host at its
first image with error FLASH, and BAR0 answers. BOOT_LD_RESUME goes on from there: without the image it waits again, and with the host's boot goes
on. -/
def Obligations.BootOutcomes : Prop :=
  let ended := fun (s t : State) =>
    ((t.reg Pg.boot R.BOOT_STAGE = STAGE_DONE ∧ t.evt Pg.boot R.BOOT_EVT_DONE) ∨
      ((t.reg Pg.boot R.BOOT_STAGE = STAGE_WAIT_HOST ∨ t.reg Pg.boot R.BOOT_STAGE = STAGE_FAILED) ∧ t.flt Pg.boot R.BOOT_FLT_HALT)) ∧
    (∀ e ∈ s.dev.sticky.prov, e ∈ t.dev.sticky.prov) ∧ s.dev.sticky.svnV ≤ t.dev.sticky.svnV ∧ s.dev.sticky.svnC ≤ t.dev.sticky.svnC ∧
    t.dev.sticky.flash = s.dev.sticky.flash
  let waits := fun (t : State) => t.reg Pg.boot R.BOOT_STAGE = STAGE_WAIT_HOST ∧ t.reg Pg.boot R.BOOT_ERR = BE_FLASH ∧
    t.dev.body.boot.paused = 4 ∧ t.dev.body.boot.bar0 = true ∧ t.flt Pg.boot R.BOOT_FLT_HALT
  (∀ (fr slow : Bool) (s : State), s.dev.body.sup.mode = .held → s.dev.body.sup.released = false → s.dev.body.lamp.refLost = false →
    s.dev.body.jmax < 840 →
    ∃ t, exec (.engineResetRelease fr slow false) s = .next t ∧ ended s t ∧
      (Config.bootTest 2 s.dev.body.fresh = false → t.reg Pg.boot R.BOOT_STAGE = STAGE_FAILED ∧ t.reg Pg.boot R.BOOT_ERR = BE_ROM_SELF ∧
        t.dev.body.boot.bar0 = false) ∧
      (Config.bootTest 2 s.dev.body.fresh = true → Config.bootTest 3 (s.dev.body.fresh + 1) = true →
        fr = true ∨ s.dev.sticky.directory = none → waits t)) ∧
  (∀ (s : State), s.dev.body.sup.mode = .brownout → s.dev.body.sup.straps.test = false →
    ∃ t, exec .brownoutEnd s = .next t ∧ ended s t) ∧
  (∀ (s : State), s.dev.body.sup.mode = .hot → s.dev.body.jmax < 816 → s.dev.body.sup.straps.test = false →
    ∃ t, exec .thermalResetHoldEnd s = .next t ∧ ended s t) ∧
  (∀ (m : Nat) (s : State), Master.mayLoad m = true → s.takes m (Pg.boot + 0x98) → s.runs [1, 2] →
    (s.reg Pg.boot R.BOOT_STAGE ≠ STAGE_WAIT_HOST → ∃ t, exec (.bootLdResume m) s = .next t ∧
      t.reg Pg.boot R.BOOT_STAGE = s.reg Pg.boot R.BOOT_STAGE ∧ s.keeps t []) ∧
    (s.reg Pg.boot R.BOOT_STAGE = STAGE_WAIT_HOST → s.dev.body.boot.paused = 4 →
      (s.dev.heldImage IT_BOOT_CFG = none → s.reg Pg.boot R.BOOT_FLASH_REL = 1 ∨ s.dev.sticky.directory = none →
        ∃ t, exec (.bootLdResume m) s = .next t ∧ waits t) ∧
      (∀ p, s.dev.heldImage IT_BOOT_CFG = some p → ∃ t, exec (.bootLdResume m) s = .next t ∧ ended s t ∧
        (Config.bootTest 6 s.dev.body.fresh = false → t.reg Pg.boot R.BOOT_FROM_HOST = 1 ∧ t.reg Pg.boot R.BOOT_STAGE = STAGE_FAILED ∧
          t.reg Pg.boot R.BOOT_ERR = BE_MEMINIT))))

/-- R396, R397, R398, R403, R405, R415: only the host and the debugger use the load path; BOOT_LD_GO starts the checks, unless they run. Their
end shows the error of the first check that fails and puts nothing in place then; an image accepted raises only the security version of its
class. Only the debugger fuses a key slot, once, and revokes one, but never slot 0. An injection is armed by its kind, and BOOT_FLASH_REL is
written as any field of its register. -/
def Obligations.HostLoadsAndKeys : Prop :=
  ∀ (s : State),
    let b := s.dev.body
    let p := Pg.boot
    let bad := fun (t : State) => t.evt p R.BOOT_EVT_BADCMD ∧ t.dev.sticky = s.dev.sticky ∧ t.dev.body.boot = b.boot ∧ s.keeps t [p]
    (∀ m, s.takes m (p + 0x98) →
      (Master.mayLoad m = false → s.runs [1, 2] → (∃ t, exec (.bootLdGo m) s = .next t ∧ bad t) ∧
        (∃ t, exec (.bootLdResume m) s = .next t ∧ bad t)) ∧
      (Master.mayLoad m = false → ∀ on, ∃ t, exec (.flashRelease on m) s = .next t ∧ bad t ∧
        t.reg p R.BOOT_FLASH_REL = s.reg p R.BOOT_FLASH_REL) ∧
      (Master.mayLoad m = true → s.runs [1, 2] →
        (s.reg p R.BOOT_LD_BUSY = 1 → ∃ t, exec (.bootLdGo m) s = .next t ∧ bad t) ∧
        (s.reg p R.BOOT_LD_BUSY = 0 → ∃ t, exec (.bootLdGo m) s = .next t ∧ t.reg p R.BOOT_LD_BUSY = 1 ∧ t.dev.body.boot.master = m ∧
          t.dev.body.boot.len = s.reg p R.BOOT_LD_LEN ∧ s.keeps t [p])) ∧
      (Master.mayLoad m = true → ∀ on, ∃ t, exec (.flashRelease on m) s = .next t ∧ t.reg p R.BOOT_FLASH_REL = (if on then 1 else 0) ∧
        t.reg p R.BOOT_LD_LEN = s.reg p R.BOOT_LD_LEN ∧ s.keeps t [p])) ∧
    (s.runs [1] →
      let l := b.loadImage (min b.boot.len 0x100000)
      let err := s.dev.loadError l
      (s.reg p R.BOOT_LD_BUSY = 0 → exec .bootLdDone s = .next s) ∧
      (s.reg p R.BOOT_LD_BUSY = 1 → ∃ t, exec .bootLdDone s = .next t ∧ t.reg p R.BOOT_LD_BUSY = 0 ∧ t.reg p R.BOOT_LD_RC = err % 16 ∧
        t.evt p R.BOOT_EVT_LD_DONE ∧ t.dev.body.boot.arm = none ∧
        (err ≠ BE_NONE → t.dev.sticky = s.dev.sticky ∧ t.dev.body.boot.held = b.boot.held ∧ t.dev.body.mem = b.mem ∧
          t.dev.body.tbls = b.tbls ∧ t.dev.body.cairn = b.cairn) ∧
        (err = BE_NONE → imgType l ≠ IT_AE_PATCH → t.dev.sticky = s.dev.sticky.commitSvn l))) ∧
    (∀ m slot, slot < 4 → s.takes m (p + 0xA4) → s.runs [1, 2] →
      (m ≠ Master.jtag → (∃ t, exec (.keyProvision slot m) s = .next t ∧ bad t) ∧ (∃ t, exec (.keyRevoke slot m) s = .next t ∧ bad t)) ∧
      (m = Master.jtag →
        (slot ≠ 0 → (∀ e ∈ s.dev.sticky.prov, e.1 ≠ slot) → ∃ t, exec (.keyProvision slot m) s = .next t ∧
          t.dev.sticky = { s.dev.sticky with prov := s.dev.sticky.prov ++ [(slot, leNat (b.loadImage 48))] }) ∧
        (slot = 0 ∨ (∃ e ∈ s.dev.sticky.prov, e.1 = slot) → ∃ t, exec (.keyProvision slot m) s = .next t ∧ t.dev.sticky = s.dev.sticky ∧
          t.evt p R.BOOT_EVT_BADCMD) ∧
        (slot ≠ 0 → slot ∉ s.dev.sticky.revoked → ∃ t, exec (.keyRevoke slot m) s = .next t ∧
          t.dev.sticky = { s.dev.sticky with revoked := s.dev.sticky.revoked ++ [slot] }) ∧
        (slot = 0 ∨ slot ∈ s.dev.sticky.revoked → ∃ t, exec (.keyRevoke slot m) s = .next t ∧ t.dev.sticky = s.dev.sticky))) ∧
    (∀ m, s.takes m (p + 0xA8) → ∃ t, exec (.bootInject m) s = .next t ∧ s.keeps t [p] ∧
      (s.reg p R.BOOT_INJ_KIND < 3 → t.dev.body.boot.arm = some (s.reg p R.BOOT_INJ_KIND)) ∧
      (s.reg p R.BOOT_INJ_KIND = 3 → t.dev.body.boot.arm = b.boot.arm))


/-! The host interface. -/

/-- R419, R420: a reset of the function resets the ring pages, endpoint page 0 and the MSI-X table, aborts the host's Cairn slot, and resets no
other block register. The link's loss stops every running ring with cause LINK and writes nothing; its return, the Bus Master Enable, the
power state and the base addresses are taken as they are written. A write of the MSI-X table unmasks a vector, which sends its merged message. -/
def Obligations.HostEvents : Prop :=
  ∀ (s : State), s.runs [3] →
    let b := s.dev.body
    let p := Pg.hif
    let ringPage := fun (a : Nat) => ∃ n < 240, pageOf a = Pg.ring n
    let stopped := fun (t : State) (n : Nat) => t.reg (Pg.ring n) R.RING_STATE = RING_STOPPED ∧ t.reg (Pg.ring n) R.RING_ERR = CAUSE_LINK ∧
      t.reg (Pg.ring n) R.RING_CONS = s.reg (Pg.ring n) R.RING_CONS ∧ t.reg (Pg.ring n) R.RING_PROD = s.reg (Pg.ring n) R.RING_PROD ∧
      t.evt (Pg.ring n) R.RING_EVT_PROTO ∧ (t.dev.body.run n).done = []
    ((∀ w ∈ b.win.asm, w.owner = Master.host → w.win % 0x1000 = 0 ∨ 0x1000000 ≤ w.win) → ∃ t, exec .hostInterfaceReset s = .next t ∧
      (∀ (q : Nat) (g : Fld) (x y : Nat), g.lo < 32 → 0x80 ≤ g.addr q x y % 0x1000 →
        (ringPage (g.addr q x y) → t.reg q g x y = g.reset x % 2 ^ g.width) ∧
        (pageOf (g.addr q x y) = p → 0xA0 ≤ g.addr q x y % 0x1000 → t.reg q g x y = g.reset x % 2 ^ g.width) ∧
        (¬ ringPage (g.addr q x y) → pageOf (g.addr q x y) ∉ [p, Pg.cairn, Pg.aperture] → notedAt (g.addr q x y) = false →
          t.reg q g x y = s.reg q g x y)) ∧
      t.reg p R.HIF_BME = 0 ∧ t.evt p R.HIF_EVT_FLR ∧ t.ctr p HIF_FLR = (s.ctr p HIF_FLR + 1) % 2 ^ 64 ∧
      t.dev.body.host.vecs = [] ∧ t.dev.body.host.pba = [] ∧ t.dev.body.host.fnMask = false ∧ t.dev.body.host.rings = [] ∧
      t.dev.body.mem.sump = b.mem.sump ∧ t.dev.body.tbls = b.tbls ∧
      (∀ k, b.boundSlot Master.host = some k → t.reg Pg.cairn R.CAIRN_STATE k = CS_DONE ∧ t.reg Pg.cairn R.CAIRN_RESULT k = CR_ABORTED ∧
        t.dev.body.slot k = {})) ∧
    (s.reg p R.HIF_LINK_UP = 1 → ∃ t, exec .hostLinkDown s = .next t ∧ t.reg p R.HIF_LINK_UP = 0 ∧ t.evt p R.HIF_EVT_LINK ∧
      t.flt p R.HIF_FLT_LINK_DOWN ∧ t.ctr p HIF_LINK_DOWN = (s.ctr p HIF_LINK_DOWN + 1) % 2 ^ 64 ∧ t.dev.body.mem = b.mem ∧
      ∀ n < 240, (s.reg (Pg.ring n) R.RING_STATE = RING_RUNNING → stopped t n) ∧
        (s.reg (Pg.ring n) R.RING_STATE ≠ RING_RUNNING → t.reg (Pg.ring n) R.RING_STATE = s.reg (Pg.ring n) R.RING_STATE)) ∧
    (s.reg p R.HIF_LINK_UP = 0 → exec .hostLinkDown s = .next s) ∧
    (∀ speed width, speed < 16 → width < 64 → b.sup.testPins = false →
      ∃ t, exec (.hostLinkUp speed width) s = .next t ∧ t.reg p R.HIF_LINK_UP = 1 ∧ t.reg p R.HIF_SPEED = speed ∧ t.reg p R.HIF_WIDTH = width ∧
        (s.reg p R.HIF_LINK_UP = 0 → t.evt p R.HIF_EVT_LINK) ∧ t.dev.body.host.rings = b.host.rings ∧ s.keeps t [p]) ∧
    ((∃ t, exec (.pcieConfigWrite (.bme false)) s = .next t ∧ t.reg p R.HIF_BME = 0 ∧ t.dev.body.host = b.host ∧ s.keeps t [p]) ∧
      (∃ t, exec (.pcieConfigWrite (.bme true)) s = .next t ∧ t.reg p R.HIF_BME = 1) ∧
      (∃ t, exec (.pcieConfigWrite (.power true)) s = .next t ∧ t.dev.body.host = { b.host with d3 := true } ∧ s.keeps t []) ∧
      (∃ t, exec (.pcieConfigWrite (.power false)) s = .next t ∧ t.dev.body.host.d3 = false) ∧
      (∀ i a, (PcieCfg.bar i a).wf = true → ∃ t, exec (.pcieConfigWrite (.bar i a)) s = .next t ∧ Sp.get 0 t.dev.body.host.bars i = a ∧
        s.keeps t [])) ∧
    (∃ t, exec (.msixTableWrite (.fnMask true)) s = .next t ∧ t.dev.body.host = { b.host with fnMask := true } ∧ t.dev.body.out = b.out ∧
      s.keeps t []) ∧
    (∃ t, exec (.msixTableWrite (.fnMask false)) s = .next t ∧ t.dev.body.host.fnMask = false ∧ s.keeps t [] ∧
      (b.dmaOk = true → ∀ v ∈ t.dev.body.host.pba, (t.dev.body.vec v).masked = true)) ∧
    (∀ v i x, v < 2048 → i < 4 → x < 2 ^ 32 → ∃ t, exec (.msixTableWrite (.dword v i x)) s = .next t ∧ s.keeps t [] ∧
      (t.dev.body.vec v).addr % 2 ^ 32 = (if i = 0 then x else (b.vec v).addr % 2 ^ 32) ∧
      (i = 2 → (t.dev.body.vec v).data = x) ∧ (i = 3 → (t.dev.body.vec v).masked = bitOn x 0) ∧
      (∀ j, j ≠ v → t.dev.body.vec j = b.vec j) ∧
      (i = 3 → bitOn x 0 = false → v ∈ b.host.pba → b.host.fnMask = false → b.dmaOk = true →
        t.dev.body.out = b.out ++ [.msix v (b.vec v).addr (b.vec v).data] ∧ t.dev.body.host.pba = b.host.pba.erase v) ∧
      (i = 3 → bitOn x 0 = true → t.dev.body.out = b.out ∧ t.dev.body.host.pba = b.host.pba))

/-- R423, R425 to R429, R431, R444: RING_EN enables a ring in DISABLED whose configuration passes every check, and is refused otherwise. A
doorbell of a running ring moves RING_PROD or stops the ring with cause DOORBELL; any other ring ignores it. A reset goes through RESETTING to
RUNNING or DISABLED with both indices at 0. A done job is published with its write-back; once RING_COAL_JOBS jobs are done or RING_COAL_US
has passed since the first of them, a ring notifies by its vector; a DMA error stops it.
Where nothing has begun a wait, it counts as over (the model's choice: log entry 47). -/
def Obligations.RingStates : Prop :=
  ∀ (n : Nat) (s : State), n < 240 →
    let b := s.dev.body
    let p := Pg.ring n
    let st := s.reg p R.RING_STATE
    let x := b.run n
    let prod := s.reg p R.RING_PROD
    let cons := s.reg p R.RING_CONS
    let size := 2 ^ s.reg p R.RING_LOG2
    let kind := s.reg p R.RING_KIND
    let wb := s.reg p R.RING_WB_LO + 2 ^ 32 * s.reg p R.RING_WB_HI
    let writesBack := fun (t : State) (c r st : Nat) => s.reg p R.RING_WB_EN = 1 → b.dmaOk = true →
      Mem.read t.dev.body.mem.host wb 8 = leBytes 4 c ++ leBytes 2 r ++ leBytes 1 st ++ [0]
    let same := fun (t : State) => t.reg p R.RING_STATE = st ∧ t.reg p R.RING_PROD = prod ∧ t.reg p R.RING_CONS = cons ∧
      t.dev.body.host = b.host ∧ t.dev.body.mem = b.mem
    let proto := fun (t : State) (cause i : Nat) => t.reg p R.RING_STATE = RING_ERROR ∧ t.reg p R.RING_ERR = cause ∧
      t.reg p R.RING_ERR_IDX = i ∧ t.evt p R.RING_EVT_PROTO ∧ t.ctr p RING_PROTO_ERR = (s.ctr p RING_PROTO_ERR + 1) % 2 ^ 64
    (∀ m, s.takes m (p + 0x80) →
      let valid := 1 ≤ kind ∧ kind ≤ 4 ∧ 6 ≤ s.reg p R.RING_LOG2 ∧ s.reg p R.RING_LOG2 ≤ 16 ∧ s.reg p R.RING_BASE_LO % 4096 = 0 ∧
        (s.reg p R.RING_WB_LO % 8 = 0 ∨ s.reg p R.RING_WB_EN = 0) ∧
        (s.reg p R.RING_VEC = 0 ∨ (64 ≤ s.reg p R.RING_VEC ∧ s.reg p R.RING_VEC ≤ 2047)) ∧
        (kind = KIND_INJECT → s.reg p R.RING_AUX = 0xFF ∨ s.reg p R.RING_AUX ≤ 239)
      (st = RING_DISABLED → valid → ∃ t, exec (.ringEnable n m) s = .next t ∧ t.reg p R.RING_STATE = RING_RUNNING ∧ t.reg p R.RING_EN = 1 ∧
        s.keeps t [p]) ∧
      (st = RING_DISABLED → ¬ valid → ∃ t, exec (.ringEnable n m) s = .next t ∧ t.reg p R.RING_EN = 0 ∧ same t ∧
        t.evt p R.RING_EVT_BADCFG ∧ s.keeps t [p]) ∧
      (st ≠ RING_DISABLED → ∃ t, exec (.ringEnable n m) s = .next t ∧ t.reg p R.RING_EN = s.reg p R.RING_EN ∧ same t ∧
        t.evt p R.RING_EVT_BADCFG ∧ s.keeps t [p])) ∧
    (∀ v, s.runs [3] → b.boot.bar0 = true → v < 2 ^ 32 →
      (st = RING_RUNNING → v = prod → exec (.ringDoorbell n v) s = .next s) ∧
      (st = RING_RUNNING → v ≠ prod → (v + 2 ^ 32 - prod) % 2 ^ 32 ≤ size → (v + 2 ^ 32 - cons) % 2 ^ 32 ≤ size →
        ∃ t, exec (.ringDoorbell n v) s = .next t ∧ t.reg p R.RING_PROD = v ∧
          (kind = KIND_PUNT ∨ kind = KIND_TEL ∨ b.dmaOk = false → t.reg p R.RING_STATE = RING_RUNNING ∧ t.reg p R.RING_CONS = cons ∧
            t.dev.body.host = b.host ∧ s.keeps t [p]) ∧
          (kind = KIND_INJECT ∨ kind = KIND_CMD → b.dmaOk = true → x.idx = 0 → x.done = [] → v ≠ cons → (∃ k, (n, k) ∈ b.host.arm) →
            proto t CAUSE_DMA cons ∧ t.reg p R.RING_CONS = cons ∧ t.flt p R.RING_FLT_DMA)) ∧
      (st = RING_RUNNING → v ≠ prod → size < (v + 2 ^ 32 - prod) % 2 ^ 32 ∨ size < (v + 2 ^ 32 - cons) % 2 ^ 32 →
        ∃ t, exec (.ringDoorbell n v) s = .next t ∧ proto t CAUSE_DOORBELL v ∧ t.reg p R.RING_PROD = prod) ∧
      (st ≠ RING_RUNNING → ∃ t, exec (.ringDoorbell n v) s = .next t ∧ same t ∧ t.evt p R.RING_EVT_BADCFG ∧ s.keeps t [p])) ∧
    (∀ m, s.takes m (p + 0xA4) →
      (st = RING_DISABLED → ∃ t, exec (.ringReset n m) s = .next t ∧ same t ∧ s.keeps t []) ∧
      (st ≠ RING_DISABLED → ∃ t, exec (.ringReset n m) s = .next t ∧ t.reg p R.RING_STATE = RING_RESETTING ∧ t.reg p R.RING_PROD = prod ∧
        t.reg p R.RING_CONS = cons ∧ s.keeps t [p])) ∧
    (s.runs [3] →
      (st ≠ RING_RESETTING → exec (.ringResetDone n) s = .next s) ∧
      (st = RING_RESETTING → ∃ t, exec (.ringResetDone n) s = .next t ∧ t.reg p R.RING_PROD = 0 ∧ t.reg p R.RING_CONS = 0 ∧
        t.reg p R.RING_RST_CNT = (s.reg p R.RING_RST_CNT + 1) % 2 ^ 16 ∧
        t.reg p R.RING_STATE = (if s.reg p R.RING_EN = 1 then RING_RUNNING else RING_DISABLED) ∧ t.dev.body.run n = {} ∧
        writesBack t 0 ((s.reg p R.RING_RST_CNT + 1) % 2 ^ 16) RING_RESETTING) ∧
      (∀ e k rest, st = RING_RUNNING → x.done = (e, k) :: rest → b.dmaOk = true → kind = KIND_PUNT ∨ kind = KIND_TEL ∨ rest = [] →
        ∃ t, exec (.ringJobComplete n) s = .next t ∧ t.reg p R.RING_CONS = (cons + e) % 2 ^ 32 ∧ t.reg p R.RING_PROD = prod ∧
          (t.dev.body.run n).done = rest ∧ (t.dev.body.run n).note = x.note + 1 ∧
          t.ctr p RING_JOBS = (s.ctr p RING_JOBS + 1) % 2 ^ 64 ∧ t.ctr p RING_ENTRIES = (s.ctr p RING_ENTRIES + e) % 2 ^ 64 ∧
          t.ctr p RING_BYTES = (s.ctr p RING_BYTES + k) % 2 ^ 64 ∧
          (kind = KIND_PUNT ∨ kind = KIND_TEL → writesBack t ((cons + e) % 2 ^ 32) (s.reg p R.RING_RST_CNT) RING_RUNNING)) ∧
      let due := max 1 (s.reg p R.RING_COAL_JOBS) ≤ x.note ∨ b.passed (Mk.ring n) (1000 * max 1 (s.reg p R.RING_COAL_US)) = true
      (x.note = 0 ∨ ¬ due → exec (.ringNotify n) s = .next s) ∧
      (x.note ≠ 0 → due →
        let v := s.reg p R.RING_VEC
        let free := b.host.fnMask = false ∧ (b.vec v).masked = false ∧ b.dmaOk = true
        ∃ t, exec (.ringNotify n) s = .next t ∧ (t.dev.body.run n).note = 0 ∧ t.evt p R.RING_EVT_CMPL ∧ s.keeps t [p] ∧
          (v ≠ 0 → free → t.dev.body.out = b.out ++ [.msix v (b.vec v).addr (b.vec v).data]) ∧
          (v ≠ 0 → ¬ free → v ∈ t.dev.body.host.pba) ∧ (v = 0 ∨ ¬ free → t.dev.body.out = b.out)) ∧
      (st ≠ RING_RUNNING → exec (.ringDmaError n) s = .next s) ∧
      (st = RING_RUNNING → ∃ t, exec (.ringDmaError n) s = .next t ∧ proto t CAUSE_DMA (b.ringFront n) ∧ t.flt p R.RING_FLT_DMA ∧
        t.reg p R.RING_CONS = b.ringFront n ∧ (t.dev.body.run n).done = [])) ∧
    (∀ m, s.takes m (Pg.hif + 0xC0) →
      let k := s.reg Pg.hif R.HIF_INJ_KIND
      let r := s.reg Pg.hif R.HIF_INJ_RING
      ∃ t, exec (.hifInject m) s = .next t ∧ s.keeps t [Pg.hif] ∧ (k ≠ 3 → r < 240 → (r, k) ∈ t.dev.body.host.arm) ∧
        (k = 3 ∨ 239 < r → t.dev.body.host = b.host))

/-- R424, R425, R432: a job of an INJECT ring whose first entry lacks FIRST stops the ring with cause CHAIN, as one whose entry breaks its table
does with cause ENTRY. A packet of a wrong size or without a pool is dropped and its job done; an empty pool delays the fetch; otherwise the
packet is staged and joins the inject source of its Gallery, after the packets of the ring that are there. A delayed fetch is the job's again. -/
def Obligations.InjectJobs : Prop :=
  ∀ (n : Nat) (s : State), n < 240 → s.runs [3] →
    let b := s.dev.body
    let p := Pg.ring n
    let x := b.run n
    let g := s.reg p R.RING_GAL
    let dropped := fun (t : State) (k : Nat) => (t.dev.body.run n).done = x.done ++ [(k, 0)] ∧
      t.ctr Pg.hif HIF_INJ_BAD = (s.ctr Pg.hif HIF_INJ_BAD + 1) % 2 ^ 64 ∧ t.dev.body.pipe = b.pipe ∧ t.dev.body.buf = b.buf ∧ s.sameRegs t []
    (s.reg p R.RING_STATE ≠ RING_RUNNING ∨ s.reg p R.RING_KIND ≠ KIND_INJECT ∨ b.dmaOk = false → exec (.injectJob n) s = .next s) ∧
    (s.reg p R.RING_STATE = RING_RUNNING → s.reg p R.RING_KIND = KIND_INJECT → b.dmaOk = true → (∀ e ∈ b.host.arm, e.1 ≠ n) →
      (∀ c, x.idx = 0 → b.ringLeft n ≠ 0 →
        (entryFirst KIND_INJECT (b.ringEntry n (b.ringFront n)) = false ∧ c = CAUSE_CHAIN) ∨
        (entryFirst KIND_INJECT (b.ringEntry n (b.ringFront n)) = true ∧ entryLast KIND_INJECT (b.ringEntry n (b.ringFront n)) = true ∧
          leNat (slice (b.ringEntry n (b.ringFront n)) 8 2) = 0 ∧ c = CAUSE_ENTRY) →
        ∃ t, exec (.injectJob n) s = .next t ∧ t.reg p R.RING_STATE = RING_ERROR ∧ t.reg p R.RING_ERR = c ∧
          t.reg p R.RING_ERR_IDX = b.ringFront n ∧ t.reg p R.RING_CONS = b.ringFront n ∧ t.evt p R.RING_EVT_PROTO ∧
          t.dev.body.pipe = b.pipe) ∧
      (∀ l, b.jobAt n = .job l →
        let size := (l.map fun e => leNat (slice e 8 2)).sum
        let d := b.gather l
        (size < 76 ∨ 10252 < size → ∃ t, exec (.injectJob n) s = .next t ∧ dropped t l.length) ∧
        (76 ≤ size → size ≤ 10252 →
          (b.poolFor 1 0 size = none → ∃ t, exec (.injectJob n) s = .next t ∧ dropped t l.length) ∧
          (∀ m, b.poolFor 1 0 size = some m →
            (s.reg (Pg.pool m) R.POOL_FREE_CNT = 0 → ∃ t, exec (.injectJob n) s = .next t ∧ t.evt Pg.hif R.HIF_EVT_NOPOOL ∧
              (t.dev.body.run n).delayed = true ∧ (t.dev.body.run n).done = x.done ∧ t.dev.body.pipe = b.pipe) ∧
            (s.reg (Pg.pool m) R.POOL_FREE_CNT ≠ 0 → b.poolLevel m = 2 → exec (.injectJob n) s = .next s) ∧
            (b.poolLevel m ≠ 2 → s.reg (Pg.pool m) R.POOL_FREE_CNT ≠ 0 → ∃ t i, exec (.injectJob n) s = .next t ∧
              (b.poolReq 1 0 size).2 = .ok m i ∧ i ∈ t.dev.body.allocOf m ∧
              Sp.get [] t.dev.body.pipe.injQ g = Sp.get [] b.pipe.injQ g ++
                [{ rec_ := d.take 16, data := withFcs (d.drop 16), host := true, src := n, ts := b.stamp 0, stage := [(m, i)] }] ∧
              (t.dev.body.run n).done = x.done ++ [(l.length, size - 16)] ∧ (t.dev.body.run n).delayed = false ∧
              t.ctr Pg.hif HIF_INJ_PKTS = (s.ctr Pg.hif HIF_INJ_PKTS + 1) % 2 ^ 64))))) ∧
    (x.delayed = false → exec (.injectFetchRetry n) s = .next s) ∧
    (x.delayed = true → ∃ t, exec (.injectFetchRetry n) s = .next t ∧ exec (.injectJob n) s = .next t)

/-- R439 to R442: the entry next in its ring's job is executed when it is the ring's turn, by its opcode. Its status and value go into bytes 12 to
15 of the entry, a failure is counted, and after the last entry the job is done. An unlisted opcode gives BAD_OP, a target out of its range
BAD_TARGET, a write that its block drops REFUSED, and after a failure under CMD_STOP every later command is skipped. DS_ADD waits for a free
address, CAIRN with WAIT_DONE for its slot. -/
def Obligations.TableCommands : Prop :=
  ∀ (n : Nat) (s : State) (l rest : List (List Byte)) (e : List Byte), n < 240 → s.runs [3] →
    let b := s.dev.body
    let x := b.run n
    let at_ := (b.entryAddr n ((b.ringFront n + x.idx) % 2 ^ 32) + 12) % 2 ^ 64
    let a := cmdArg e
    let tgt := cmdTarget e
    let idle := b.boundSlot Master.host = none
    let finished := fun (t : State) (st v : Nat) => Mem.read t.dev.body.mem.host at_ 4 = leBytes 4 (st * 2 ^ 28 + v % 2 ^ 28) ∧
      t.ctr Pg.hif HIF_CMDS = (s.ctr Pg.hif HIF_CMDS + 1) % 2 ^ 64 ∧
      t.ctr (Pg.ring n) RING_CMD_ERR = (s.ctr (Pg.ring n) RING_CMD_ERR + (if st = CMD_OK then 0 else 1)) % 2 ^ 64 ∧
      (t.dev.body.run n).idx = (if x.idx + 1 = l.length then 0 else x.idx + 1) ∧ (t.dev.body.run n).waiting = false ∧
      (t.dev.body.run n).done = (if x.idx + 1 = l.length then x.done ++ [(l.length, 0)] else x.done)
    let rows := [Instr.tblCmdNop n, .tblCmdCont n, .tblCmdWriteEntry n, .tblCmdReadEntry n, .tblCmdRegWrite n, .tblCmdDsAdd n, .tblCmdExm n,
      .tblCmdCairn n]
    s.ctr (Pg.ring n) RING_CMD_ERR < 2 ^ 64 →
    (b.cmdReady n = false ∨ b.cmdTurn n = false → ∀ c ∈ rows, exec c s = .next s) ∧
    (b.cmdReady n = true → b.cmdTurn n = true → b.jobAt n = .job l → l.drop x.idx = e :: rest →
      let stop := (l.head?.map cmdStop).getD false
      (∀ k c, rows[k]? = some c → cmdRow (cmdOp e) ≠ k → exec c s = .next s) ∧
      (x.failed = true → stop = true → ∀ c, rows[cmdRow (cmdOp e)]? = some c → ∃ t, exec c s = .next t ∧ finished t CMD_SKIPPED 0 ∧
        s.sameRegs t [] ∧ t.dev.body.tbls = b.tbls) ∧
      (x.failed = false ∨ stop = false →
        (cmdOp e = 0 → ∃ t, exec (.tblCmdNop n) s = .next t ∧ finished t CMD_OK 0 ∧ s.sameRegs t [] ∧ t.dev.body.tbls = b.tbls) ∧
        (7 < cmdOp e → ∃ t, exec (.tblCmdNop n) s = .next t ∧ finished t CMD_BAD_OP 0 ∧ s.sameRegs t [] ∧ t.dev.body.tbls = b.tbls) ∧
        (cmdOp e = 1 → ∃ t, exec (.tblCmdCont n) s = .next t ∧ finished t CMD_OK 0 ∧ s.sameRegs t [] ∧ t.dev.body.tbls = b.tbls) ∧
        (cmdOp e = 2 →
          (a % 256 = 0 ∨ 10 < a % 256 ∨ tblCount (a % 256) ≤ tgt → ∃ t, exec (.tblCmdWriteEntry n) s = .next t ∧
            finished t CMD_BAD_TARGET 0 ∧ t.dev.body.tbls = b.tbls) ∧
          (∀ tid, a % 256 = tid → tid = Tbl.nh ∨ tid = Tbl.ecmp → tgt < tblCount tid → 16 ≤ (cmdData e).length → idle →
            ∃ t, exec (.tblCmdWriteEntry n) s = .next t ∧ finished t CMD_OK 0 ∧
              t.ent tid tgt % 2 ^ 128 = leNat ((cmdData e).take 16) ∧
              ∀ tid' j, entKey tid' j ≠ entKey tid tgt → t.ent tid' j = s.ent tid' j)) ∧
        (cmdOp e = 3 →
          (a % 256 = 0 ∨ 10 < a % 256 ∨ tblCount (a % 256) ≤ tgt → ∃ t, exec (.tblCmdReadEntry n) s = .next t ∧
            finished t CMD_BAD_TARGET 0) ∧
          (∀ tid, a % 256 = tid → 1 ≤ tid → tid ≤ 8 → tgt < tblCount tid →
            let dst := leNat ((cmdData e).take 8) % 2 ^ 64
            dst + tblStride tid ≤ at_ ∨ at_ + 4 ≤ dst →
            ∃ t, exec (.tblCmdReadEntry n) s = .next t ∧ finished t CMD_OK 0 ∧ t.dev.body.tbls = b.tbls ∧
              Mem.read t.dev.body.mem.host dst (tblStride tid) = leBytes (tblStride tid) (s.ent tid tgt))) ∧
        (cmdOp e = 4 →
          (0x4000000 ≤ tgt → ∃ t, exec (.tblCmdRegWrite n) s = .next t ∧ finished t CMD_BAD_TARGET 0 ∧ s.sameRegs t []) ∧
          (∀ (p off : Nat) (k : PK) (f : Fld) (i j : Nat), tgt = p + off → PageIs p k → k ∈ plainKinds → 0x80 ≤ off → off < 0x800 →
            off % 4 = 0 → k.fieldsAt off = [(f, i, j)] → f.acc = .rw → s.takes Master.host tgt →
            ∃ t, exec (.tblCmdRegWrite n) s = .next t ∧ finished t CMD_OK 0 ∧ t.reg p f i j = bitField a f.hi f.lo) ∧
          (∀ (p off : Nat) (k : PK), tgt = p + off → PageIs p k → k ∈ plainKinds → 0x80 ≤ off → off < 0x800 → off % 4 = 0 →
            k.fieldsAt off ≠ [] → s.reaches Master.host tgt → s.reg p R.PG_RESET_BUSY = 1 →
            ∃ t, exec (.tblCmdRegWrite n) s = .next t ∧ finished t CMD_REFUSED 0 ∧ s.sameRegs t [])) ∧
        (cmdOp e = 5 →
          (b.dsAddAt = none → ∃ t, exec (.tblCmdDsAdd n) s = .next t ∧ (t.dev.body.run n).waiting = true ∧
            (t.dev.body.run n).idx = x.idx ∧ t.dev.body.mem = b.mem ∧ t.dev.body.tbls = b.tbls ∧ s.sameRegs t []) ∧
          (∀ i, b.dsAddAt = some i → idle →
            let v := setBitField (leNat ((cmdData e).take 32)) 255 255 1
            (dsLen v ≤ famBits (dsAf v) → ∃ t, exec (.tblCmdDsAdd n) s = .next t ∧ finished t CMD_OK i ∧
              t.ent Tbl.ds i = setBitField v 199 192 (dsGen (s.ent Tbl.ds i) + 1)) ∧
            (famBits (dsAf v) < dsLen v → ∃ t, exec (.tblCmdDsAdd n) s = .next t ∧ finished t CMD_REFUSED 0 ∧ t.evt Pg.ds R.DS_EVT_BADENT ∧
              t.dev.body.tbls = b.tbls))) ∧
        (cmdOp e = 6 →
          let op := a % 8
          let ty := bitField a 7 4
          let k : XKey := { ty := ty, k1 := leNat ((cmdData e).take 12), k2 := if ty = 3 then leNat (slice (cmdData e) 12 12) else 0 }
          let copies := b.exmCopies b.nowSeq k
          (op = 0 ∨ 5 ≤ op → ∃ t, exec (.tblCmdExm n) s = .next t ∧ finished t CMD_BAD_OP 0 ∧ t.dev.body.tbls = b.tbls) ∧
          (1 ≤ op → op ≤ 4 → ¬ idle → ∃ t, exec (.tblCmdExm n) s = .next t ∧ finished t CMD_EXM XRC_STAGED ∧ t.dev.body.tbls = b.tbls) ∧
          (1 ≤ op → op ≤ 4 → idle → ty = 0 ∨ 4 ≤ ty → ∃ t, exec (.tblCmdExm n) s = .next t ∧ finished t CMD_EXM XRC_BAD_TYPE ∧
            t.dev.body.tbls = b.tbls) ∧
          (idle → 1 ≤ ty → ty ≤ 3 → copies = [] → 2 ≤ op → op ≤ 4 → ∃ t, exec (.tblCmdExm n) s = .next t ∧ finished t CMD_EXM 2 ∧
            t.dev.body.tbls = b.tbls) ∧
          (idle → 1 ≤ ty → ty ≤ 3 → ∀ y r, copies = y :: r →
            (op = 1 → ∃ t, exec (.tblCmdExm n) s = .next t ∧ finished t CMD_EXM 1 ∧ t.dev.body.tbls = b.tbls) ∧
            (op = 4 → ∃ t, exec (.tblCmdExm n) s = .next t ∧ finished t CMD_OK (b.exmResAt b.nowSeq y) ∧ t.dev.body.tbls = b.tbls))) ∧
        (cmdOp e = 7 →
          let k := bitField a 10 8
          let wait := fun (c : Nat) => c = CS_DONE ∨ c = CS_IDLE
          (x.waiting = true →
            (wait (s.reg Pg.cairn R.CAIRN_STATE k) → ∃ t, exec (.tblCmdCairn n) s = .next t ∧
              finished t CMD_OK (s.reg Pg.cairn R.CAIRN_RESULT k) ∧ s.sameRegs t []) ∧
            (¬ wait (s.reg Pg.cairn R.CAIRN_STATE k) → ∃ t, exec (.tblCmdCairn n) s = .next t ∧ (t.dev.body.run n).waiting = true ∧
              (t.dev.body.run n).idx = x.idx ∧ t.dev.body.mem = b.mem ∧ s.sameRegs t [])) ∧
          (x.waiting = false → bitOn a 3 = false → s.takes Master.host (R.CAIRN_CMD.addr Pg.cairn k 0) →
            (a % 8 = 1 → bitOn a 31 = false → wait (s.reg Pg.cairn R.CAIRN_STATE k) → idle →
              ∃ t, exec (.tblCmdCairn n) s = .next t ∧ finished t CMD_OK 0 ∧ t.reg Pg.cairn R.CAIRN_STATE k = CS_OPEN ∧
                t.reg Pg.cairn R.CAIRN_OWNER k = Master.host ∧ t.dev.body.slot k = { bound := some Master.host }) ∧
            (a % 8 = 4 → s.reg Pg.cairn R.CAIRN_STATE k ≠ CS_DONE → ∃ t, exec (.tblCmdCairn n) s = .next t ∧ finished t CMD_CAIRN 0 ∧
              t.reg Pg.cairn R.CAIRN_STATE k = s.reg Pg.cairn R.CAIRN_STATE k) ∧
            (a % 8 = 2 → bitOn a 31 = true → s.reg Pg.cairn R.CAIRN_STATE k = CS_OPEN → s.reg Pg.cairn R.CAIRN_OWNER k = Master.host →
              b.commitFails k = none → ∃ t, exec (.tblCmdCairn n) s = .next t ∧ t.reg Pg.cairn R.CAIRN_STATE k = CS_VALIDATE ∧
                (t.dev.body.run n).waiting = true ∧ (t.dev.body.run n).idx = x.idx ∧ t.dev.body.mem = b.mem)))))


/-! Interrupts, faults, telemetry and the service ports. -/

/-- R448 to R452, R460, R463, R464, R466: a bank delivers, at most once in a clock, its lowest pending source that may be, to the first available target of its set after the
last one, and counts a wait without a target once. ICU_ACK from the recorded target returns the source to PENDING or IDLE, and any other is counted.
A fault without an open record in its scope makes record REC_WR, with first-error capture; one with a record merges; a fatal fault sets its event
and, in CONTAIN, resets its ring. -/
def Obligations.InterruptsAndFaultRecords : Prop :=
  (∀ (bank : Nat) (s : State), bank < 2 →
    let b := s.dev.body
    let p := Pg.icu bank
    let may := fun (x : IcuSrc) (t : Nat) => bitOn x.tgt t = true ∧ b.tgtAvail bank t = true
    (s.runs [2] →
      ((∀ e ∈ b.icuSrcs bank, b.icuReady e.2 = false) → exec (.icuDeliver bank) s = .next s) ∧
      (b.icuBusy bank = true → exec (.icuDeliver bank) s = .next s) ∧
      (∀ n x, b.icuBusy bank = false → (b.icuSrcs bank).find? (fun e => b.icuReady e.2) = some (n, x) → b.icu bank n = x → x.lastTgt < 64 →
        (∀ e ∈ b.icuSrcs bank, b.icuReady e.2 = true → n ≤ e.1) →
        (∀ g < 64, may x g → (∀ u < 64, may x u → (g + 127 - x.lastTgt) % 64 ≤ (u + 127 - x.lastTgt) % 64) →
          ∃ t, exec (.icuDeliver bank) s = .next t ∧
            t.dev.body.icu bank n = { x with st := .active, lastTgt := g, deliv := (x.deliv + 1) % 2 ^ 32, lastAt := some b.clk, waiting := false } ∧
            t.reg p R.ICU_DELIV = min (s.reg p R.ICU_DELIV + 1) (2 ^ 32 - 1) ∧ s.keeps t [p] ∧
            (32 ≤ g → bitOn (t.dev.body.thr (8 * (g - 32))).pend 26 = true ∧ t.dev.body.out = b.out) ∧
            (g < 32 →
              let v := 2 * g + bank
              (b.host.fnMask = false → (b.vec v).masked = false → b.dmaOk = true →
                t.dev.body.out = b.out ++ [.msix v (b.vec v).addr (b.vec v).data]) ∧
              (b.host.fnMask = true ∨ (b.vec v).masked = true ∨ b.dmaOk = false → v ∈ t.dev.body.host.pba ∧ t.dev.body.out = b.out))) ∧
        ((∀ g < 64, ¬ may x g) → (∀ e ∈ b.icuSrcs bank, b.icuReady e.2 = true → e = (n, x)) →
          (x.waiting = true → exec (.icuDeliver bank) s = .next s) ∧
          (x.waiting = false → ∃ t, exec (.icuDeliver bank) s = .next t ∧ t.dev.body.icu bank n = { x with waiting := true } ∧
            t.reg p R.ICU_NOTGT = min (s.reg p R.ICU_NOTGT + 1) (2 ^ 32 - 1) ∧ t.evt Pg.lamp R.LAMP_EVT_NOTGT)))) ∧
    (∀ m g n, g < 64 → n < 4096 → s.takes m (p + 0x90) →
      let x := b.icu bank n
      (x.lastTgt = g → x.st = .active → ∃ t, exec (.icuAck bank g n m) s = .next t ∧
        t.dev.body.icu bank n = { x with st := if b.icuInput bank (0x1000 * n) then .pending else .idle } ∧ s.keeps t []) ∧
      (x.lastTgt = g → x.st = .activePending → ∃ t, exec (.icuAck bank g n m) s = .next t ∧
        t.dev.body.icu bank n = { x with st := .pending } ∧ s.keeps t []) ∧
      (x.lastTgt ≠ g ∨ x.st = .idle ∨ x.st = .pending → ∃ t, exec (.icuAck bank g n m) s = .next t ∧
        t.reg p R.ICU_BADACK = min (s.reg p R.ICU_BADACK + 1) (2 ^ 32 - 1) ∧ t.evt p R.ICU_EVT_BADACK ∧ s.keeps t [p] ∧
        (n ≠ 4 → n ≠ 5 → t.dev.body.icu bank n = x))) ∧
    (∀ m n, n < 4096 → s.takes m (p + 0x94) →
      ∃ t, exec (.icuMaskSet bank n m) s = .next t ∧ t.dev.body.icu bank n = { b.icu bank n with mask := true } ∧ s.keeps t []) ∧
    (∀ m n, n < 4096 → s.takes m (p + 0x98) →
      ∃ t, exec (.icuMaskClr bank n m) s = .next t ∧ t.dev.body.icu bank n = { b.icu bank n with mask := false } ∧ s.keeps t [])) ∧
  (∀ (s : State), s.runs [2] →
    let b := s.dev.body
    let p := Pg.fmu
    let n := s.reg p R.FMU_REC_WR
    (b.irq.reports = [] → exec .fmuRecord s = .next s) ∧
    (∀ r, b.nextReport = some r →
      (∃ t, exec .fmuRecord s = .next t ∧ t.reg p R.FMU_FE_VALID = 1 ∧ (r.fatal = true → t.evt p R.FMU_EVT_FATAL) ∧
        (s.reg p R.FMU_FE_VALID = 1 → t.reg p R.FMU_FE_SEQ = s.reg p R.FMU_FE_SEQ ∧ t.reg p R.FMU_FE_PAGE = s.reg p R.FMU_FE_PAGE) ∧
        (s.reg p R.FMU_FE_VALID = 0 → t.reg p R.FMU_FE_PAGE = r.page / 0x1000 % 2 ^ 12 ∧ t.reg p R.FMU_FE_BIT = r.bit % 2 ^ 5 ∧
          t.reg p R.FMU_FE_SPACE = r.info.space % 2 ^ 4 ∧ t.reg p R.FMU_FE_DETAIL = r.info.detail % 2 ^ 32)) ∧
      ((∀ e ∈ b.irq.opened, e.1 ≠ Body.scopeOf r.page) → b.irq.recArm = false → ∃ t, exec .fmuRecord s = .next t ∧
        t.reg p R.FMU_REC_WR = (n + 1) % 2 ^ 32 ∧ t.evt p R.FMU_EVT_REC ∧
        t.dev.body.irq.recs.find? (fun e => e.1 == n % 1024) = some (n % 1024, Body.recordOf n r) ∧
        (s.reg p R.FMU_FE_VALID = 0 → t.reg p R.FMU_FE_SEQ = n) ∧
        (r.fatal = false → t.dev.body.irq.reports = b.irq.reports.erase r ∧ s.sameRegs t [p]) ∧
        (1024 ≤ (n + 2 ^ 32 - s.reg p R.FMU_REC_RD) % 2 ^ 32 → t.evt p R.FMU_EVT_LOST ∧
          t.reg p R.FMU_REC_LOST = min (s.reg p R.FMU_REC_LOST + 1) (2 ^ 32 - 1)) ∧
        (∀ k < 240, r.fatal = true → s.reg p R.FMU_FATAL_ACT = 1 → r.page = Pg.ring k → s.reg (Pg.ring k) R.RING_STATE = RING_RUNNING →
          t.reg (Pg.ring k) R.RING_STATE = RING_RESETTING)) ∧
      (∀ q, b.irq.opened.find? (fun e => e.1 == Body.scopeOf r.page) = some (Body.scopeOf r.page, q) → ∃ t, exec .fmuRecord s = .next t ∧
        t.reg p R.FMU_REC_WR = n ∧ t.reg p R.FMU_MERGE_TOTAL = min (s.reg p R.FMU_MERGE_TOTAL + 1) (2 ^ 32 - 1) ∧
        (r.fatal = false → t.dev.body.irq.reports = b.irq.reports.erase r ∧ s.sameRegs t [p]) ∧
        (∀ x, b.irq.recs.find? (fun e => e.1 == q % 1024) = some (q % 1024, x) → x.seq = q →
          t.dev.body.irq.recs.find? (fun e => e.1 == q % 1024) =
            some (q % 1024, { x with merge := min (x.merge + 1) 65535, fatal := x.fatal || r.fatal })) ∧
        (∀ x, b.irq.recs.find? (fun e => e.1 == q % 1024) = some (q % 1024, x) → x.seq ≠ q → t.dev.body.irq.recs = b.irq.recs))))

/-- R470 to R475, R478 to R480, R488: an accepted configuration of a Survey counter zeroes it; one that names no event, or a customer's that its
mask does not grant, is dropped with an event. A window end that is due moves every WINDOW count and restarts it, or holds every count where SVY_RUN
is 0; a latch copies the others with its time. A
counter pair reads as its Sump line plus its delta, or as all ones where the line is uncorrectable; a write takes the delta away and sets the
line.
Which value of SVY_WIN_US a window takes is the model's choice (log entry 47). -/
def Obligations.SurveyAndCounterPairs : Prop :=
  (∀ (s : State),
    let b := s.dev.body
    let p := Pg.survey
    (∀ i m v, i < 64 → v < 2 ^ 128 → s.reaches m p →
      let granted := Master.isCustomer m = false ∨ bitOn (s.reg p R.SVY_USER_CFG (i / 32)) (i % 32) = true
      (¬ granted → ∃ t, exec (.svyConfig i m v) s = .next t ∧ t.evt p R.SVY_EVT_DENIED ∧ t.dev.body.tbls = b.tbls) ∧
      (granted → b.boundSlot m = none → svyOk v = false → ∃ t, exec (.svyConfig i m v) s = .next t ∧ t.evt p R.SVY_EVT_BADCFG ∧
        t.dev.body.tbls = b.tbls) ∧
      (granted → b.boundSlot m = none → svyOk v = true → ∃ t, exec (.svyConfig i m v) s = .next t ∧ t.ent Tbl.svy i = v ∧
        t.dev.body.svyCount i = 0 ∧ Sp.get 0 t.dev.body.svy.last i = 0 ∧
        bitOn (t.reg p R.SVY_WRAP (i / 32)) (i % 32) = false ∧ (∀ j, j ≠ i → t.dev.body.svyCount j = b.svyCount j) ∧ s.sameRegs t [p])) ∧
    (s.runs [17] →
      (b.svy.winDue = false → exec .svyWindowEnd s = .next s) ∧
      (b.svy.winDue = true → s.reg p R.SVY_RUN = 1 → ∃ t, exec .svyWindowEnd s = .next t ∧ t.evt p R.SVY_EVT_WINDOW ∧
        (∀ e ∈ b.svyOn, svyMode e.2 = 2 → Sp.get 0 t.dev.body.svy.last e.1 = b.svyCount e.1 ∧ t.dev.body.svyCount e.1 = 0) ∧
        (∀ i, (∀ e ∈ b.svyOn, svyMode e.2 = 2 → e.1 ≠ i) → t.dev.body.svyCount i = b.svyCount i ∧
          Sp.get 0 t.dev.body.svy.last i = Sp.get 0 b.svy.last i) ∧
        (∀ i e r, b.svyOn = [(i, e)] → svyMode e = 2 → s.reg p R.SVY_TEL_EN = 1 → i < 64 →
          bitOn (s.reg p R.SVY_TELSEL (i / 32)) (i % 32) = true → s.reg p R.SVY_TEL_RING = r → r < 240 → b.ringRuns r KIND_TEL = true →
          b.dmaOk = true → (b.run r).tel = [] → b.ringLeft r ≠ 0 →
          Mem.read t.dev.body.mem.host (b.entryAddr r (b.ringFront r) % 2 ^ 64) 16 =
            leBytes 1 0x11 ++ [0] ++ leBytes 2 60 ++ leBytes 1 i ++ leBytes 3 0 ++ leBytes 8 (b.svyCount i))) ∧
      (b.svy.winDue = true → s.reg p R.SVY_RUN = 0 → ∃ t, exec .svyWindowEnd s = .next t ∧ t.evt p R.SVY_EVT_WINDOW ∧
        t.dev.body.svy = { b.svy with winDue := false, win := s.reg p R.SVY_WIN_US })) ∧
    (∀ m, Master.isCustomer m = false → s.takes m (p + 0x80) → ∃ t, exec (.svyLatch m) s = .next t ∧
      (∀ e ∈ b.svyOn, svyMode e.2 ≠ 2 → Sp.get 0 t.dev.body.svy.last e.1 = b.svyCount e.1) ∧
      (∀ e ∈ b.svyOn, svyMode e.2 = 2 → Sp.get 0 t.dev.body.svy.last e.1 = Sp.get 0 b.svy.last e.1) ∧
      t.dev.body.svy.cnt = b.svy.cnt ∧ t.reg p R.SVY_LATCH_SEC = b.todSec % 2 ^ 32 ∧ t.reg p R.SVY_LATCH_NS = b.todNs % 2 ^ 30 ∧
      s.keeps t [p])) ∧
  (∀ (k : Nat) (s : State), k < 2 ^ 30 → s.runs [15] →
    let b := s.dev.body
    let m := b.pairMem k
    let l := b.statLine k
    let line := Sump.pairAddr k / 64 * 64
    (k ∉ b.stat.bad → b.lineBad line = false → ∃ t, exec (.statPairRead k) s = .next t ∧
      t.dev.body.rdata = [(m.1 + l.pkts) % 2 ^ 64, (m.2 + l.bytes) % 2 ^ 64] ∧ t.dev.body.stat = b.stat ∧ t.dev.body.mem = b.mem) ∧
    (k ∉ b.stat.bad → b.lineBad line = true → ∃ t, exec (.statPairRead k) s = .next t ∧ t.dev.body.rdata = [2 ^ 64 - 1, 2 ^ 64 - 1] ∧
      t.dev.body.mem = b.mem) ∧
    (∀ v, v < 2 ^ 128 → k ∉ b.stat.bad → ∃ t, exec (.statPairWrite k v) s = .next t ∧ t.dev.body.pairMem k = (v % 2 ^ 64, v / 2 ^ 64) ∧
      t.dev.body.statLine k = {} ∧ ∀ j, j < 2 ^ 30 → j ≠ k → t.dev.body.pairMem j = b.pairMem j))

/-- R481, R482, R484, R487: SNP_GO starts or arms a snapshot, ends it at once without a ready port or a valid time, or is refused; an armed one
starts at its time. Its end writes the header after the pairs, or none where a far write fails or the port leaves READY. A complete block of Echo
records is copied to a far buffer, skipped where the request fails, or abandoned where the far write fails. A write of ECHO_SEED reseeds. -/
def Obligations.SnapshotsAndEcho : Prop :=
  ∀ (s : State),
    let b := s.dev.body
    let p := Pg.snp
    let e := Pg.echo 0
    let busy := s.reg p R.SNP_BUSY
    let port := s.reg p R.SNP_PORT
    let ends := fun (t : State) (rc : Nat) => t.reg p R.SNP_BUSY = 0 ∧ t.reg p R.SNP_RC = rc ∧ t.reg p R.SNP_SEQ = s.reg p R.SNP_SEQ ∧
      t.dev.body.mem.far0 = b.mem.far0 ∧ t.dev.body.mem.far1 = b.mem.far1
    let runsNow := fun (t : State) => t.reg p R.SNP_BUSY = 1 ∧ t.dev.body.snp.waiting = false ∧ t.dev.body.snp.start = b.tod
    (∀ m, s.takes m (p + 0x80) →
      (busy = 1 ∨ s.reg p R.SNP_COUNT = 0 ∨ 2 ^ 30 < s.reg p R.SNP_FIRST + s.reg p R.SNP_COUNT ∨ b.snpAddr % 64 ≠ 0 ∨
          999999999 < s.reg p R.SNP_TNS ∨ s.reg (Pg.far port 0) R.FAR_MEM_SIZE * 2 ^ 30 < b.snpAddr + 64 + 16 * s.reg p R.SNP_COUNT →
        ∃ t, exec (.snpGo m) s = .next t ∧ t.evt p R.SNP_EVT_BADCFG ∧ t.reg p R.SNP_BUSY = busy ∧ t.dev.body.snp = b.snp ∧ s.keeps t [p]) ∧
      (b.snpBad = false →
        (s.reg p R.SNP_AT_EN = 1 → s.reg Pg.lamp R.TOD_VALID = 0 → ∃ t, exec (.snpGo m) s = .next t ∧ ends t SNP_TOD_INVALID) ∧
        (s.reg p R.SNP_AT_EN = 1 → s.reg Pg.lamp R.TOD_VALID = 1 → b.tod < b.snpTarget → ∃ t, exec (.snpGo m) s = .next t ∧
          t.reg p R.SNP_BUSY = 1 ∧ t.reg p R.SNP_RC = 0 ∧ t.dev.body.snp.waiting = true ∧ t.dev.body.snp.port = port ∧ s.keeps t [p]) ∧
        (s.reg p R.SNP_AT_EN = 0 ∨ (s.reg Pg.lamp R.TOD_VALID = 1 ∧ b.snpTarget ≤ b.tod) →
          (b.farReady port = false → ∃ t, exec (.snpGo m) s = .next t ∧ ends t SNP_LINK) ∧
          (b.farReady port = true → ∃ t, exec (.snpGo m) s = .next t ∧ runsNow t ∧ t.dev.body.snp.port = port)))) ∧
    (s.runs [17] →
      (b.snp.waiting = true → b.snpTarget ≤ b.tod → b.farReady b.snp.port = true → busy = 1 →
        ∃ t, exec .snpStart s = .next t ∧ runsNow t ∧
          ∀ k d, b.stat.lines = [(k, d)] → d ≠ {} → b.stat.bad = [] → b.hbm.ue = [] → b.hbm.coded = [] → k < 2 ^ 30 → t.dev.body.statLine k = {} ∧
            t.dev.body.pairMem k = (((b.pairMem k).1 + d.pkts) % 2 ^ 64, ((b.pairMem k).2 + d.bytes) % 2 ^ 64)) ∧
      (b.snp.waiting = true → b.snpTarget ≤ b.tod → b.farReady b.snp.port = false → ∃ t, exec .snpStart s = .next t ∧ ends t SNP_LINK) ∧
      (b.snp.waiting = false ∨ b.tod < b.snpTarget → exec .snpStart s = .next s)) ∧
    (s.runs [2] → busy = 1 → b.snp.waiting = false →
      let q := b.snp.port
      let farMem := fun (t : State) => if q = 0 then t.dev.body.mem.far0 else t.dev.body.mem.far1
      let count := s.reg p R.SNP_COUNT
      let first := s.reg p R.SNP_FIRST
      (∃ t, exec .snpFail s = .next t ∧ ends t SNP_FAR ∧ t.evt p R.SNP_EVT_FAIL ∧ t.flt p R.SNP_FLT_FAR) ∧
      (b.farReady q = true → q ∈ b.far.armHold → ∃ t, exec .snpDone s = .next t ∧ ends t SNP_FAR ∧ t.evt p R.SNP_EVT_FAIL ∧
        t.flt p R.SNP_FLT_FAR) ∧
      (q < 2 → b.farReady q = true → q ∉ b.far.armHold → ∃ t, exec .snpDone s = .next t ∧ t.reg p R.SNP_BUSY = 0 ∧ t.reg p R.SNP_RC = SNP_OK ∧
        t.reg p R.SNP_SEQ = (s.reg p R.SNP_SEQ + 1) % 2 ^ 32 ∧ t.evt p R.SNP_EVT_DONE ∧
        Mem.read (farMem t) b.snpAddr 64 = leBytes 4 (s.reg p R.SNP_SEQ) ++ leBytes 4 first ++ leBytes 4 count ++
          Body.timeBytes b.snp.start ++ Body.timeBytes b.tod ++ leBytes 31 0 ++ [0x80] ∧
        (b.stat.bad = [] → b.hbm.ue = [] → b.hbm.coded = [] → first + count ≤ 2 ^ 30 → ∀ i < count,
          let m := b.pairMem (first + i)
          let l := b.statLine (first + i)
          Mem.read (farMem t) (b.snpAddr + 64 + 16 * i) 16 = leBytes 8 ((m.1 + l.pkts) % 2 ^ 64) ++ leBytes 8 ((m.2 + l.bytes) % 2 ^ 64)))) ∧
    (∀ m v, v < 2 ^ 32 → s.takes m (e + 0x84) → ∃ t, exec (.echoSeedWrite v m) s = .next t ∧ t.reg e R.ECHO_SEED = v ∧
      t.dev.body.echo = { b.echo with drawn := 0 } ∧ s.keeps t [e]) ∧
    (∀ k < 2, s.runs [2] →
      let blk := b.echo.arch
      let nextBlk := fun (t : State) => t.dev.body.echo.arch = (blk + 1) % 2 ^ 20 ∧ t.reg e R.ECHO_ARCH_NEXT = (blk + 1) % 2 ^ 20 % 2 ^ 13
      let late := 2 ^ 25 < (s.reg e R.ECHO_WR + 2 ^ 32 - 4096 * blk % 2 ^ 32) % 2 ^ 32
      let farMem := fun (t : State) => if k = 0 then t.dev.body.mem.far0 else t.dev.body.mem.far1
      (b.archDue = false → exec (.echoArchive k) s = .next s) ∧
      (b.archDue = true →
        (b.poolFor 4 (2 + k) 1048576 = none ∨ (∃ n, b.poolFor 4 (2 + k) 1048576 = some n ∧ (b.poolLevel n = 2 ∨ late)) →
          ∃ t, exec (.echoArchive k) s = .next t ∧ t.ctr e ECHO_ARCH_SKIP = (s.ctr e ECHO_ARCH_SKIP + 1) % 2 ^ 64 ∧
            t.evt e R.ECHO_EVT_SKIP ∧ nextBlk t ∧ t.dev.body.buf = b.buf ∧ t.dev.body.mem = b.mem) ∧
        (∀ n, b.poolFor 4 (2 + k) 1048576 = some n → b.poolLevel n ≠ 2 → ¬ late → s.reg (Pg.pool n) R.POOL_FREE_CNT ≠ 0 →
          (k ∈ b.far.armHold ∨ b.farReady k = false → ∃ t, exec (.echoArchive k) s = .next t ∧
            t.ctr e ECHO_ARCH_FAIL = (s.ctr e ECHO_ARCH_FAIL + 1) % 2 ^ 64 ∧ t.flt e R.ECHO_FLT_ARCH ∧ nextBlk t ∧ t.dev.body.mem = b.mem) ∧
          (k ∉ b.far.armHold → b.farReady k = true → ∃ t i, exec (.echoArchive k) s = .next t ∧
            (b.poolReq 4 (2 + k) 1048576).2 = .ok n i ∧ i ∈ t.dev.body.allocOf n ∧
            t.ctr e ECHO_ARCH_BLOCKS = (s.ctr e ECHO_ARCH_BLOCKS + 1) % 2 ^ 64 ∧ t.evt e R.ECHO_EVT_ARCH ∧ nextBlk t ∧
            (b.hbm.ue = [] → b.hbm.coded = [] → ∀ j < 4096, Mem.read (farMem t) (b.bufAddr n i + 256 * j) 256 =
              Mem.read b.mem.sump (Sump.echoBase + 256 * ((4096 * blk + j) % 2 ^ 25)) 256)))))

/-- R506, R507: four bytes written over I3C set the read address, and any other length nothing; a read that comes too early is refused, and
any other answers registers as master 0x202 and moves the address. The common command codes set and clear the dynamic address and answer. A JTAG
instruction takes effect, and one that takes the pins of a running engine brings every link down. DBG_REG carries accesses as master 0x200. -/
def Obligations.ServicePorts : Prop :=
  ∀ (s : State),
    let b := s.dev.body
    (b.sup.mode ≠ .off →
      (∀ l : List Byte, l.length = 4 → ∃ t, exec (.i3cAddressWrite l) s = .next t ∧ t.dev.body.svc.addr = leNat l / 4 * 4 ∧
        t.dev.body.svc.wrAt = some b.clk ∧ s.keeps t []) ∧
      (∀ l : List Byte, l.length ≠ 4 → exec (.i3cAddressWrite l) s = .next s) ∧
      (∀ n,
        let early := (∃ x, b.svc.wrAt = some x ∧ b.clk < x + 2000) ∨ (∃ x, b.svc.rdAt = some x ∧ b.clk < x + 5000)
        (early → ∃ t, exec (.i3cPrivateRead n) s = .next t ∧ t.dev.body.rdata = [] ∧ t.dev.body.svc = b.svc ∧ s.keeps t []) ∧
        (¬ early → ∃ t, exec (.i3cPrivateRead n) s = .next t ∧ t.dev.body.svc.addr = (b.svc.addr + min n 16) % 2 ^ 32 ∧
          t.dev.body.svc.rdAt = some b.clk ∧ (t.dev.body.rdata.length = min n 16) ∧
          (n = 4 → b.svc.addr % 4 = 0 →
            ((b.boot.bar0 = true ∧ b.sup.mode = .running) ∨ pageOf b.svc.addr = Pg.lamp →
              t.dev.body.rdata = (leBytes 4 (s.dev.readAt Master.bmc b.svc.addr).2).map BitVec.toNat) ∧
            (b.boot.bar0 = false → pageOf b.svc.addr ≠ Pg.lamp → t.dev.body.rdata = [0, 0, 0, 0] ∧ s.keeps t [])))) ∧
      (∀ a < 128, ∀ c ∈ [I3cCode.entdaa a, .setdasa a], ∃ t, exec (.i3cCcc c) s = .next t ∧ t.dev.body.svc = { b.svc with dyn := some a } ∧
        s.keeps t []) ∧
      (∃ t, exec (.i3cCcc .rstdaa) s = .next t ∧ t.dev.body.svc = { b.svc with dyn := none } ∧ s.keeps t []) ∧
      (∃ t, exec (.i3cCcc .getbcr) s = .next t ∧ t.dev.body.rdata = [0] ∧ s.keeps t []) ∧
      (∀ c k, (c, k) ∈ [(I3cCode.getpid, 6), (.getdcr, 1), (.getstatus, 2), (.getmwl, 2), (.getmrl, 2)] →
        ∃ t, exec (.i3cCcc c) s = .next t ∧ t.dev.body.rdata.length = k ∧ t.dev.body.svc = b.svc ∧ s.keeps t []) ∧
      (∀ c ∈ [I3cCode.enec, .disec], exec (.i3cCcc c) s = .next s)) ∧
    (b.sup.mode ≠ .off → b.sup.lampOnly = false →
      (∀ i : JtagInstr, i.takesPins = false ∨ b.sup.mode ≠ .running → ∃ t, exec (.jtagInstruction i) s = .next t ∧
        t.dev.body.svc = { b.svc with instr := i } ∧ t.dev.body.sup = b.sup ∧ s.keeps t [] ∧
        (i = .idcode → t.dev.body.rdata = [Config.pgStep / 16 % 16 * 2 ^ 28 + 0x1024C5B])) ∧
      (∀ i : JtagInstr, i.takesPins = true → b.sup.mode = .running → ∃ t, exec (.jtagInstruction i) s = .next t ∧
        t.dev.body.svc.instr = i ∧ t.dev.body.sup.testPins = true ∧ t.reg Pg.hif R.HIF_LINK_UP = 0 ∧
        (∀ p < 2, t.reg (Pg.far p 0) R.FAR_STATE ≠ FAR_READY ∧ t.reg (Pg.far p 0) R.FAR_STATE ≠ FAR_RECOVERY_ST) ∧
        (∀ p < 512, b.portLanes p ≠ [] → t.dev.body.portUp p = false))) ∧
    (∀ a, addrOk a = true →
      (b.svc.instr ≠ .dbgReg → ∀ v, (∀ x, v = some x → x < 2 ^ 32) → exec (.jtagDbgRegAccess a v) s = .next s) ∧
      (b.svc.instr = .dbgReg → s.reaches Master.jtag a → ∀ v, v < 2 ^ 32 → ∃ t, exec (.jtagDbgRegAccess a (some v)) s = .next t ∧
        exec (.registerWrite Master.jtag a v true) s = .next t) ∧
      (b.svc.instr = .dbgReg → s.answers Master.jtag a → ∃ t, exec (.jtagDbgRegAccess a none) s = .next t ∧
        exec (.clearOnRead Master.jtag a) s = .next t ∧ t.dev.body.rdata = [(s.dev.readAt Master.jtag a).2]))

/-! What holds of every step. -/

/-- R392, R397, R398: whatever a step does, a provisioned key slot keeps its hash, a revoked slot stays revoked, neither security version
falls, and the boot flash keeps every byte. -/
def Obligations.FusesOnlyMoveForward : Prop :=
  ∀ (s t : State), step s = .next t → Sticky.Le s.dev.sticky t.dev.sticky

/-- The state after reset: RESET_N holds the engine with VDD_LAMP present, no command waits, every register field reads its reset value but for
PG_EN of the device-wide pages, which reads 1 (R42), every table entry and counter its reset value, no page is locked (R497), and every memory is
in its canonical form. That the time of day stands at zero and that memory reads zero is the model's choice (log entry 1). -/
def Obligations.ResetState : Prop :=
  let r := State.reset
  r.pending = [] ∧ r.dev.body.sup.mode = .held ∧ r.dev.sticky.locked = [] ∧ r.dev.body.tod = 0 ∧ Memory.wf r.dev.body.mem = true ∧
  (∀ (q : Nat) (g : Fld) (x y : Nat), g.lo < 32 → (g.addr q x y % 0x1000 = 0x10 → 0x8000 ≤ g.addr q x y) →
    r.reg q g x y = g.reset x % 2 ^ g.width) ∧
  (∀ n < 8, r.reg (0x1000 * n) R.PG_EN = 1) ∧ (∀ p i, r.ctr p i = 0) ∧ (∀ tid i, r.ent tid i = tblReset tid i) ∧
  (∀ a, Mem.get r.dev.body.mem.sump a = 0 ∧ Mem.get r.dev.body.mem.grt a = 0)
end

