-- ==== Sys2Proof/Laws/Sparse.lean ====
section
/-! SUPPORT. The laws of the sparse maps: a read after a write, and the canonical form that every write keeps. -/

namespace Sys2Proof.Machine

namespace Sp

variable {α : Type}

theorem get_ins_self (d : α) (m : List (Nat × α)) (k : Nat) (v : α) : get d (ins m k v) k = v := by
  induction m with
  | nil => simp [ins, get]
  | cons e t ih =>
    simp only [ins]
    split
    · have : e.1 ≠ k := by omega
      simp [get, this, ih]
    · split <;> simp [get]

theorem get_ins_of_ne (d : α) (m : List (Nat × α)) {k j : Nat} (v : α) (h : j ≠ k) : get d (ins m k v) j = get d m j := by
  induction m with
  | nil => simp [ins, get, h.symm]
  | cons e t ih =>
    simp only [ins]
    split
    · simp [get, ih]
    · split
      · rename_i h2
        have : e.1 ≠ j := by omega
        simp [get, h.symm, this]
      · simp [get, h.symm]

theorem get_del_self (d : α) (m : List (Nat × α)) (k : Nat) : get d (del m k) k = d := by
  induction m with
  | nil => simp [del, get]
  | cons e t ih =>
    simp only [del, List.filter_cons] at ih ⊢
    by_cases h : e.1 = k
    · simpa [h] using ih
    · simpa [h, get] using ih

theorem get_del_of_ne (d : α) (m : List (Nat × α)) {k j : Nat} (h : j ≠ k) : get d (del m k) j = get d m j := by
  induction m with
  | nil => simp [del, get]
  | cons e t ih =>
    simp only [del, List.filter_cons] at ih ⊢
    by_cases hk : e.1 = k
    · have : ¬ k = j := fun h' => h h'.symm
      simpa [hk, get, this] using ih
    · simp [hk, get, ih]

theorem get_set_self [DecidableEq α] (d : α) (m : List (Nat × α)) (k : Nat) (v : α) : get d (set d m k v) k = v := by
  unfold set
  split
  · rename_i h
    simp [get_del_self, h]
  · exact get_ins_self d m k v

theorem get_set_of_ne [DecidableEq α] (d e : α) (m : List (Nat × α)) {k j : Nat} (v : α) (h : j ≠ k) :
    get e (set d m k v) j = get e m j := by
  unfold set
  split
  · exact get_del_of_ne e m h
  · exact get_ins_of_ne e m v h

/-- A map with one key set, read anywhere. -/
theorem get_set [DecidableEq α] (d : α) (m : List (Nat × α)) (k j : Nat) (v : α) :
    get d (set d m k v) j = if j = k then v else get d m j := by
  split
  · rename_i h
    rw [h, get_set_self]
  · rename_i h
    exact get_set_of_ne d d m v h

/-! The canonical form. -/

theorem sortedFrom_mono {a b : Nat} (h : a ≤ b) : ∀ m : List (Nat × α), sortedFrom b m = true → sortedFrom a m = true := by
  intro m hm
  cases m with
  | nil => rfl
  | cons e t =>
    simp only [sortedFrom, Bool.and_eq_true, decide_eq_true_eq] at hm ⊢
    exact ⟨by omega, hm.2⟩

theorem sortedFrom_ins (b : Nat) (m : List (Nat × α)) (k : Nat) (v : α) (hb : b ≤ k) (h : sortedFrom b m = true) :
    sortedFrom b (ins m k v) = true := by
  induction m generalizing b with
  | nil => simp [ins, sortedFrom, hb]
  | cons e t ih =>
    simp only [sortedFrom, Bool.and_eq_true, decide_eq_true_eq] at h
    simp only [ins]
    split
    · simp only [sortedFrom, Bool.and_eq_true, decide_eq_true_eq]
      exact ⟨h.1, ih _ (by omega) h.2⟩
    · split
      · rename_i h2
        simp only [sortedFrom, Bool.and_eq_true, decide_eq_true_eq]
        exact ⟨hb, by simpa [h2] using h.2⟩
      · simp only [sortedFrom, Bool.and_eq_true, decide_eq_true_eq]
        exact ⟨hb, by omega, h.2⟩

theorem sortedFrom_filter (p : Nat × α → Bool) (b : Nat) (m : List (Nat × α)) (h : sortedFrom b m = true) :
    sortedFrom b (m.filter p) = true := by
  induction m generalizing b with
  | nil => rfl
  | cons e t ih =>
    simp only [sortedFrom, Bool.and_eq_true, decide_eq_true_eq] at h
    simp only [List.filter_cons]
    split
    · simp only [sortedFrom, Bool.and_eq_true, decide_eq_true_eq]
      exact ⟨h.1, ih _ h.2⟩
    · exact sortedFrom_mono (by omega) _ (ih _ h.2)

theorem mem_ins {m : List (Nat × α)} {k : Nat} {v : α} {e : Nat × α} (h : e ∈ ins m k v) : e = (k, v) ∨ e ∈ m := by
  induction m with
  | nil => simpa [ins] using h
  | cons x t ih =>
    simp only [ins] at h
    split at h
    · rcases List.mem_cons.mp h with h | h
      · exact .inr (by simp [h])
      · rcases ih h with h | h
        · exact .inl h
        · exact .inr (by simp [h])
    · split at h
      · rcases List.mem_cons.mp h with h | h
        · exact .inl h
        · exact .inr (by simp [h])
      · rcases List.mem_cons.mp h with h | h
        · exact .inl h
        · exact .inr h

variable [DecidableEq α]

theorem wf_nil (d : α) : wf d ([] : List (Nat × α)) = true := rfl

/-- A filtered map keeps the canonical form. -/
theorem wf_filter (d : α) (p : Nat × α → Bool) (m : List (Nat × α)) (h : wf d m = true) : wf d (m.filter p) = true := by
  simp only [wf, Bool.and_eq_true, List.all_eq_true] at h ⊢
  exact ⟨sortedFrom_filter p 0 m h.1, fun e he => h.2 e (List.mem_of_mem_filter he)⟩

/-- Setting a key keeps the canonical form. -/
theorem wf_set (d : α) (m : List (Nat × α)) (k : Nat) (v : α) (h : wf d m = true) : wf d (set d m k v) = true := by
  unfold set
  split
  · exact wf_filter d _ m h
  · rename_i hv
    simp only [wf, Bool.and_eq_true, List.all_eq_true] at h ⊢
    refine ⟨sortedFrom_ins 0 m k v (Nat.zero_le _) h.1, fun e he => ?_⟩
    rcases mem_ins he with rfl | he
    · simpa using hv
    · exact h.2 e he

end Sp

namespace Mem

theorem get_set (m : List Host.Cell) (a j : Nat) (v : Byte) : get (set m a v) j = if j = a then v else get m j :=
  Sp.get_set 0 m a j v

theorem wf_set (m : List Host.Cell) (a : Nat) (v : Byte) (h : wf m = true) : wf (set m a v) = true := Sp.wf_set 0 m a v h

/-- Writing bytes keeps the canonical form. -/
theorem wf_write (m : List Host.Cell) (a : Nat) (l : List Byte) (h : wf m = true) : wf (write m a l) = true := by
  induction l generalizing m a with
  | nil => exact h
  | cons v t ih => exact ih _ _ (wf_set m a v h)

/-- What a byte reads as after a run of bytes is written: the run's byte inside it, what it was outside. -/
theorem get_write (m : List Host.Cell) (a j : Nat) (l : List Byte) :
    get (write m a l) j = if a ≤ j ∧ j < a + l.length then l.getD (j - a) 0 else get m j := by
  induction l generalizing m a with
  | nil => simp [write]
  | cons v t ih =>
    simp only [write, ih, get_set, List.length_cons]
    by_cases h1 : a + 1 ≤ j ∧ j < a + 1 + t.length
    · have h2 : a ≤ j ∧ j < a + (t.length + 1) := by omega
      obtain ⟨n, hn⟩ : ∃ n, j - a = n + 1 := ⟨j - a - 1, by omega⟩
      have h3 : j - (a + 1) = n := by omega
      simp [h1, h2, hn, h3]
    · by_cases h4 : j = a
      · subst h4
        simp
      · have h2 : ¬ (a ≤ j ∧ j < a + (t.length + 1)) := by omega
        rw [if_neg h1, if_neg h2, if_neg h4]

end Mem

end Sys2Proof.Machine
end

