-- ==== Sys2Proof/Laws/State.lean ====
section
/-! SUPPORT. What each basic operation on the state leaves as it was, one component a conjunct, and a register field after it
is written. -/

namespace Sys2Proof.Machine

namespace Body

variable (b : Body)

@[simp] theorem wr_rest (p : Nat) (f : Fld) (v i j : Nat) :
    (b.wr p f v i j).clk = b.clk ∧ (b.wr p f v i j).fresh = b.fresh ∧ (b.wr p f v i j).tod = b.tod ∧
    (b.wr p f v i j).ctrs = b.ctrs ∧ (b.wr p f v i j).tbls = b.tbls ∧ (b.wr p f v i j).irq = b.irq ∧
    (b.wr p f v i j).gov = b.gov ∧ (b.wr p f v i j).cairn = b.cairn ∧ (b.wr p f v i j).win = b.win ∧
    (b.wr p f v i j).net = b.net ∧ (b.wr p f v i j).pipe = b.pipe ∧ (b.wr p f v i j).stat = b.stat ∧
    (b.wr p f v i j).buf = b.buf ∧ (b.wr p f v i j).rim = b.rim ∧ (b.wr p f v i j).mem = b.mem ∧
    (b.wr p f v i j).hbm = b.hbm ∧ (b.wr p f v i j).far = b.far ∧ (b.wr p f v i j).echo = b.echo ∧
    (b.wr p f v i j).sch = b.sch ∧ (b.wr p f v i j).grt = b.grt ∧ (b.wr p f v i j).host = b.host ∧
    (b.wr p f v i j).svy = b.svy ∧ (b.wr p f v i j).lamp = b.lamp ∧ (b.wr p f v i j).sup = b.sup ∧
    (b.wr p f v i j).boot = b.boot ∧ (b.wr p f v i j).snp = b.snp ∧ (b.wr p f v i j).svc = b.svc ∧
    (b.wr p f v i j).rdata = b.rdata ∧ (b.wr p f v i j).out = b.out ∧
    (b.wr p f v i j).marks = b.marks := ⟨rfl, rfl, rfl, rfl, rfl, rfl, rfl, rfl, rfl, rfl, rfl, rfl, rfl, rfl, rfl, rfl, rfl, rfl, rfl, rfl, rfl, rfl, rfl, rfl, rfl, rfl, rfl, rfl, rfl, rfl⟩

@[simp] theorem wr_ctr (p : Nat) (f : Fld) (v i j : Nat) (q y : Nat) : (b.wr p f v i j).ctr q y = b.ctr q y := by simp [ctr]

@[simp] theorem wr_ent (p : Nat) (f : Fld) (v i j : Nat) (q y : Nat) : (b.wr p f v i j).ent q y = b.ent q y := by simp [ent]

@[simp] theorem count_rest (p i n : Nat) :
    (b.count p i n).clk = b.clk ∧ (b.count p i n).fresh = b.fresh ∧ (b.count p i n).tod = b.tod ∧
    (b.count p i n).regs = b.regs ∧ (b.count p i n).tbls = b.tbls ∧ (b.count p i n).irq = b.irq ∧
    (b.count p i n).gov = b.gov ∧ (b.count p i n).cairn = b.cairn ∧ (b.count p i n).win = b.win ∧
    (b.count p i n).net = b.net ∧ (b.count p i n).pipe = b.pipe ∧ (b.count p i n).stat = b.stat ∧
    (b.count p i n).buf = b.buf ∧ (b.count p i n).rim = b.rim ∧ (b.count p i n).mem = b.mem ∧ (b.count p i n).hbm = b.hbm ∧
    (b.count p i n).far = b.far ∧ (b.count p i n).echo = b.echo ∧ (b.count p i n).sch = b.sch ∧
    (b.count p i n).grt = b.grt ∧ (b.count p i n).host = b.host ∧ (b.count p i n).svy = b.svy ∧
    (b.count p i n).lamp = b.lamp ∧ (b.count p i n).sup = b.sup ∧ (b.count p i n).boot = b.boot ∧
    (b.count p i n).snp = b.snp ∧ (b.count p i n).svc = b.svc ∧ (b.count p i n).rdata = b.rdata ∧
    (b.count p i n).out = b.out ∧
    (b.count p i n).marks = b.marks := ⟨rfl, rfl, rfl, rfl, rfl, rfl, rfl, rfl, rfl, rfl, rfl, rfl, rfl, rfl, rfl, rfl, rfl, rfl, rfl, rfl, rfl, rfl, rfl, rfl, rfl, rfl, rfl, rfl, rfl, rfl⟩

@[simp] theorem count_rd (p i n : Nat) (q : Nat) (g : Fld) (y z : Nat) : (b.count p i n).rd q g y z = b.rd q g y z := by
  simp [rd]

@[simp] theorem count_ent (p i n : Nat) (q y : Nat) : (b.count p i n).ent q y = b.ent q y := by simp [ent]

@[simp] theorem setCtr_rest (p i v : Nat) :
    (b.setCtr p i v).clk = b.clk ∧ (b.setCtr p i v).fresh = b.fresh ∧ (b.setCtr p i v).tod = b.tod ∧
    (b.setCtr p i v).regs = b.regs ∧ (b.setCtr p i v).tbls = b.tbls ∧ (b.setCtr p i v).irq = b.irq ∧
    (b.setCtr p i v).gov = b.gov ∧ (b.setCtr p i v).cairn = b.cairn ∧ (b.setCtr p i v).win = b.win ∧
    (b.setCtr p i v).net = b.net ∧ (b.setCtr p i v).pipe = b.pipe ∧ (b.setCtr p i v).stat = b.stat ∧
    (b.setCtr p i v).buf = b.buf ∧ (b.setCtr p i v).rim = b.rim ∧ (b.setCtr p i v).mem = b.mem ∧
    (b.setCtr p i v).hbm = b.hbm ∧ (b.setCtr p i v).far = b.far ∧ (b.setCtr p i v).echo = b.echo ∧
    (b.setCtr p i v).sch = b.sch ∧ (b.setCtr p i v).grt = b.grt ∧ (b.setCtr p i v).host = b.host ∧
    (b.setCtr p i v).svy = b.svy ∧ (b.setCtr p i v).lamp = b.lamp ∧ (b.setCtr p i v).sup = b.sup ∧
    (b.setCtr p i v).boot = b.boot ∧ (b.setCtr p i v).snp = b.snp ∧ (b.setCtr p i v).svc = b.svc ∧
    (b.setCtr p i v).rdata = b.rdata ∧ (b.setCtr p i v).out = b.out ∧
    (b.setCtr p i v).marks = b.marks := ⟨rfl, rfl, rfl, rfl, rfl, rfl, rfl, rfl, rfl, rfl, rfl, rfl, rfl, rfl, rfl, rfl, rfl, rfl, rfl, rfl, rfl, rfl, rfl, rfl, rfl, rfl, rfl, rfl, rfl, rfl⟩

@[simp] theorem setCtr_rd (p i v : Nat) (q : Nat) (g : Fld) (y z : Nat) : (b.setCtr p i v).rd q g y z = b.rd q g y z := by
  simp [rd]

@[simp] theorem setCtr_ent (p i v : Nat) (q y : Nat) : (b.setCtr p i v).ent q y = b.ent q y := by simp [ent]

@[simp] theorem setEnt_rest (t i v : Nat) :
    (b.setEnt t i v).clk = b.clk ∧ (b.setEnt t i v).fresh = b.fresh ∧ (b.setEnt t i v).tod = b.tod ∧
    (b.setEnt t i v).regs = b.regs ∧ (b.setEnt t i v).ctrs = b.ctrs ∧ (b.setEnt t i v).irq = b.irq ∧
    (b.setEnt t i v).gov = b.gov ∧ (b.setEnt t i v).cairn = b.cairn ∧ (b.setEnt t i v).win = b.win ∧
    (b.setEnt t i v).net = b.net ∧ (b.setEnt t i v).pipe = b.pipe ∧ (b.setEnt t i v).stat = b.stat ∧
    (b.setEnt t i v).buf = b.buf ∧ (b.setEnt t i v).rim = b.rim ∧ (b.setEnt t i v).mem = b.mem ∧
    (b.setEnt t i v).hbm = b.hbm ∧ (b.setEnt t i v).far = b.far ∧ (b.setEnt t i v).echo = b.echo ∧
    (b.setEnt t i v).sch = b.sch ∧ (b.setEnt t i v).grt = b.grt ∧ (b.setEnt t i v).host = b.host ∧
    (b.setEnt t i v).svy = b.svy ∧ (b.setEnt t i v).lamp = b.lamp ∧ (b.setEnt t i v).sup = b.sup ∧
    (b.setEnt t i v).boot = b.boot ∧ (b.setEnt t i v).snp = b.snp ∧ (b.setEnt t i v).svc = b.svc ∧
    (b.setEnt t i v).rdata = b.rdata ∧ (b.setEnt t i v).out = b.out ∧
    (b.setEnt t i v).marks = b.marks := ⟨rfl, rfl, rfl, rfl, rfl, rfl, rfl, rfl, rfl, rfl, rfl, rfl, rfl, rfl, rfl, rfl, rfl, rfl, rfl, rfl, rfl, rfl, rfl, rfl, rfl, rfl, rfl, rfl, rfl, rfl⟩

@[simp] theorem setEnt_rd (t i v : Nat) (q : Nat) (g : Fld) (y z : Nat) : (b.setEnt t i v).rd q g y z = b.rd q g y z := by
  simp [rd]

@[simp] theorem setEnt_ctr (t i v : Nat) (q y : Nat) : (b.setEnt t i v).ctr q y = b.ctr q y := by simp [ctr]

@[simp] theorem emit_rest (o : Out) :
    (b.emit o).clk = b.clk ∧ (b.emit o).fresh = b.fresh ∧ (b.emit o).tod = b.tod ∧ (b.emit o).regs = b.regs ∧
    (b.emit o).ctrs = b.ctrs ∧ (b.emit o).tbls = b.tbls ∧ (b.emit o).irq = b.irq ∧ (b.emit o).gov = b.gov ∧
    (b.emit o).cairn = b.cairn ∧ (b.emit o).win = b.win ∧ (b.emit o).net = b.net ∧ (b.emit o).pipe = b.pipe ∧
    (b.emit o).stat = b.stat ∧ (b.emit o).buf = b.buf ∧ (b.emit o).rim = b.rim ∧ (b.emit o).mem = b.mem ∧
    (b.emit o).hbm = b.hbm ∧ (b.emit o).far = b.far ∧ (b.emit o).echo = b.echo ∧ (b.emit o).sch = b.sch ∧
    (b.emit o).grt = b.grt ∧ (b.emit o).host = b.host ∧ (b.emit o).svy = b.svy ∧ (b.emit o).lamp = b.lamp ∧
    (b.emit o).sup = b.sup ∧ (b.emit o).boot = b.boot ∧ (b.emit o).snp = b.snp ∧ (b.emit o).svc = b.svc ∧
    (b.emit o).rdata = b.rdata ∧
    (b.emit o).marks = b.marks := ⟨rfl, rfl, rfl, rfl, rfl, rfl, rfl, rfl, rfl, rfl, rfl, rfl, rfl, rfl, rfl, rfl, rfl, rfl, rfl, rfl, rfl, rfl, rfl, rfl, rfl, rfl, rfl, rfl, rfl, rfl⟩

@[simp] theorem emit_rd (o : Out) (q : Nat) (g : Fld) (y z : Nat) : (b.emit o).rd q g y z = b.rd q g y z := by
  simp [rd]

@[simp] theorem emit_ctr (o : Out) (q y : Nat) : (b.emit o).ctr q y = b.ctr q y := by simp [ctr]

@[simp] theorem emit_ent (o : Out) (q y : Nat) : (b.emit o).ent q y = b.ent q y := by simp [ent]

/-- A mark changes nothing but the marks. -/
@[simp] theorem mark_rest (k : Nat) :
    (b.mark k).clk = b.clk ∧ (b.mark k).fresh = b.fresh ∧ (b.mark k).tod = b.tod ∧ (b.mark k).regs = b.regs ∧
    (b.mark k).ctrs = b.ctrs ∧ (b.mark k).tbls = b.tbls ∧ (b.mark k).irq = b.irq ∧ (b.mark k).gov = b.gov ∧
    (b.mark k).cairn = b.cairn ∧ (b.mark k).win = b.win ∧ (b.mark k).net = b.net ∧ (b.mark k).pipe = b.pipe ∧
    (b.mark k).stat = b.stat ∧ (b.mark k).buf = b.buf ∧ (b.mark k).rim = b.rim ∧ (b.mark k).mem = b.mem ∧
    (b.mark k).hbm = b.hbm ∧ (b.mark k).far = b.far ∧ (b.mark k).echo = b.echo ∧ (b.mark k).sch = b.sch ∧
    (b.mark k).grt = b.grt ∧ (b.mark k).host = b.host ∧ (b.mark k).svy = b.svy ∧ (b.mark k).lamp = b.lamp ∧
    (b.mark k).sup = b.sup ∧ (b.mark k).boot = b.boot ∧ (b.mark k).snp = b.snp ∧ (b.mark k).svc = b.svc ∧
    (b.mark k).rdata = b.rdata ∧ (b.mark k).out = b.out := ⟨rfl, rfl, rfl, rfl, rfl, rfl, rfl, rfl, rfl, rfl, rfl, rfl, rfl, rfl, rfl, rfl, rfl, rfl, rfl, rfl, rfl, rfl, rfl, rfl, rfl, rfl, rfl, rfl, rfl, rfl⟩

@[simp] theorem unmark_rest (k : Nat) :
    (b.unmark k).clk = b.clk ∧ (b.unmark k).fresh = b.fresh ∧ (b.unmark k).tod = b.tod ∧ (b.unmark k).regs = b.regs ∧
    (b.unmark k).ctrs = b.ctrs ∧ (b.unmark k).tbls = b.tbls ∧ (b.unmark k).irq = b.irq ∧ (b.unmark k).gov = b.gov ∧
    (b.unmark k).cairn = b.cairn ∧ (b.unmark k).win = b.win ∧ (b.unmark k).net = b.net ∧ (b.unmark k).pipe = b.pipe ∧
    (b.unmark k).stat = b.stat ∧ (b.unmark k).buf = b.buf ∧ (b.unmark k).rim = b.rim ∧ (b.unmark k).mem = b.mem ∧
    (b.unmark k).hbm = b.hbm ∧ (b.unmark k).far = b.far ∧ (b.unmark k).echo = b.echo ∧ (b.unmark k).sch = b.sch ∧
    (b.unmark k).grt = b.grt ∧ (b.unmark k).host = b.host ∧ (b.unmark k).svy = b.svy ∧ (b.unmark k).lamp = b.lamp ∧
    (b.unmark k).sup = b.sup ∧ (b.unmark k).boot = b.boot ∧ (b.unmark k).snp = b.snp ∧ (b.unmark k).svc = b.svc ∧
    (b.unmark k).rdata = b.rdata ∧ (b.unmark k).out = b.out := ⟨rfl, rfl, rfl, rfl, rfl, rfl, rfl, rfl, rfl, rfl, rfl, rfl, rfl, rfl, rfl, rfl, rfl, rfl, rfl, rfl, rfl, rfl, rfl, rfl, rfl, rfl, rfl, rfl, rfl, rfl⟩

@[simp] theorem mark_rd (k q : Nat) (g : Fld) (y z : Nat) : (b.mark k).rd q g y z = b.rd q g y z := rfl

@[simp] theorem unmark_rd (k q : Nat) (g : Fld) (y z : Nat) : (b.unmark k).rd q g y z = b.rd q g y z := rfl

@[simp] theorem mark_ctr (k q y : Nat) : (b.mark k).ctr q y = b.ctr q y := rfl

@[simp] theorem unmark_ctr (k q y : Nat) : (b.unmark k).ctr q y = b.ctr q y := rfl

@[simp] theorem mark_ent (k q y : Nat) : (b.mark k).ent q y = b.ent q y := rfl

@[simp] theorem unmark_ent (k q y : Nat) : (b.unmark k).ent q y = b.ent q y := rfl

@[simp] theorem free_rest (w : Nat) :
    ((b.free w).2).clk = b.clk ∧ ((b.free w).2).tod = b.tod ∧ ((b.free w).2).regs = b.regs ∧ ((b.free w).2).ctrs = b.ctrs ∧
    ((b.free w).2).tbls = b.tbls ∧ ((b.free w).2).irq = b.irq ∧ ((b.free w).2).gov = b.gov ∧
    ((b.free w).2).cairn = b.cairn ∧ ((b.free w).2).win = b.win ∧ ((b.free w).2).net = b.net ∧
    ((b.free w).2).pipe = b.pipe ∧ ((b.free w).2).stat = b.stat ∧ ((b.free w).2).buf = b.buf ∧ ((b.free w).2).rim = b.rim ∧
    ((b.free w).2).mem = b.mem ∧ ((b.free w).2).hbm = b.hbm ∧ ((b.free w).2).far = b.far ∧ ((b.free w).2).echo = b.echo ∧
    ((b.free w).2).sch = b.sch ∧ ((b.free w).2).grt = b.grt ∧ ((b.free w).2).host = b.host ∧ ((b.free w).2).svy = b.svy ∧
    ((b.free w).2).lamp = b.lamp ∧ ((b.free w).2).sup = b.sup ∧ ((b.free w).2).boot = b.boot ∧ ((b.free w).2).snp = b.snp ∧
    ((b.free w).2).svc = b.svc ∧ ((b.free w).2).rdata = b.rdata ∧ ((b.free w).2).out = b.out ∧
    ((b.free w).2).marks = b.marks := ⟨rfl, rfl, rfl, rfl, rfl, rfl, rfl, rfl, rfl, rfl, rfl, rfl, rfl, rfl, rfl, rfl, rfl, rfl, rfl, rfl, rfl, rfl, rfl, rfl, rfl, rfl, rfl, rfl, rfl, rfl⟩

@[simp] theorem free_rd (w : Nat) (q : Nat) (g : Fld) (y z : Nat) : ((b.free w).2).rd q g y z = b.rd q g y z := by
  simp [rd]

@[simp] theorem free_ctr (w : Nat) (q y : Nat) : ((b.free w).2).ctr q y = b.ctr q y := by simp [ctr]

@[simp] theorem free_ent (w : Nat) (q y : Nat) : ((b.free w).2).ent q y = b.ent q y := by simp [ent]

@[simp] theorem discardOld_rest (t : Target) :
    (b.discardOld t).clk = b.clk ∧ (b.discardOld t).fresh = b.fresh ∧ (b.discardOld t).tod = b.tod ∧
    (b.discardOld t).regs = b.regs ∧ (b.discardOld t).ctrs = b.ctrs ∧ (b.discardOld t).tbls = b.tbls ∧
    (b.discardOld t).irq = b.irq ∧ (b.discardOld t).gov = b.gov ∧ (b.discardOld t).win = b.win ∧
    (b.discardOld t).net = b.net ∧ (b.discardOld t).pipe = b.pipe ∧ (b.discardOld t).stat = b.stat ∧
    (b.discardOld t).buf = b.buf ∧ (b.discardOld t).rim = b.rim ∧ (b.discardOld t).mem = b.mem ∧
    (b.discardOld t).hbm = b.hbm ∧ (b.discardOld t).far = b.far ∧ (b.discardOld t).echo = b.echo ∧
    (b.discardOld t).sch = b.sch ∧ (b.discardOld t).grt = b.grt ∧ (b.discardOld t).host = b.host ∧
    (b.discardOld t).svy = b.svy ∧ (b.discardOld t).lamp = b.lamp ∧ (b.discardOld t).sup = b.sup ∧
    (b.discardOld t).boot = b.boot ∧ (b.discardOld t).snp = b.snp ∧ (b.discardOld t).svc = b.svc ∧
    (b.discardOld t).rdata = b.rdata ∧ (b.discardOld t).out = b.out ∧
    (b.discardOld t).marks = b.marks := ⟨rfl, rfl, rfl, rfl, rfl, rfl, rfl, rfl, rfl, rfl, rfl, rfl, rfl, rfl, rfl, rfl, rfl, rfl, rfl, rfl, rfl, rfl, rfl, rfl, rfl, rfl, rfl, rfl, rfl, rfl⟩

@[simp] theorem discardOld_rd (t : Target) (q : Nat) (g : Fld) (y z : Nat) : (b.discardOld t).rd q g y z = b.rd q g y z := by
  simp [rd]

@[simp] theorem discardOld_ctr (t : Target) (q y : Nat) : (b.discardOld t).ctr q y = b.ctr q y := by simp [ctr]

@[simp] theorem discardOld_ent (t : Target) (q y : Nat) : (b.discardOld t).ent q y = b.ent q y := by simp [ent]

@[simp] theorem svyBump_rest (k i e n : Nat) :
    (b.svyBump k i e n).clk = b.clk ∧ (b.svyBump k i e n).fresh = b.fresh ∧ (b.svyBump k i e n).tod = b.tod ∧
    (b.svyBump k i e n).regs = b.regs ∧ (b.svyBump k i e n).ctrs = b.ctrs ∧ (b.svyBump k i e n).tbls = b.tbls ∧
    (b.svyBump k i e n).irq = b.irq ∧ (b.svyBump k i e n).gov = b.gov ∧ (b.svyBump k i e n).cairn = b.cairn ∧
    (b.svyBump k i e n).win = b.win ∧ (b.svyBump k i e n).net = b.net ∧ (b.svyBump k i e n).pipe = b.pipe ∧
    (b.svyBump k i e n).stat = b.stat ∧ (b.svyBump k i e n).buf = b.buf ∧ (b.svyBump k i e n).rim = b.rim ∧
    (b.svyBump k i e n).mem = b.mem ∧ (b.svyBump k i e n).hbm = b.hbm ∧ (b.svyBump k i e n).far = b.far ∧
    (b.svyBump k i e n).echo = b.echo ∧ (b.svyBump k i e n).sch = b.sch ∧ (b.svyBump k i e n).grt = b.grt ∧
    (b.svyBump k i e n).host = b.host ∧ (b.svyBump k i e n).lamp = b.lamp ∧ (b.svyBump k i e n).sup = b.sup ∧
    (b.svyBump k i e n).boot = b.boot ∧ (b.svyBump k i e n).snp = b.snp ∧ (b.svyBump k i e n).svc = b.svc ∧
    (b.svyBump k i e n).rdata = b.rdata ∧ (b.svyBump k i e n).out = b.out ∧
    (b.svyBump k i e n).marks = b.marks := ⟨rfl, rfl, rfl, rfl, rfl, rfl, rfl, rfl, rfl, rfl, rfl, rfl, rfl, rfl, rfl, rfl, rfl, rfl, rfl, rfl, rfl, rfl, rfl, rfl, rfl, rfl, rfl, rfl, rfl, rfl⟩

@[simp] theorem svyBump_rd (k i e n : Nat) (q : Nat) (g : Fld) (y z : Nat) : (b.svyBump k i e n).rd q g y z = b.rd q g y z := by
  simp [rd]

@[simp] theorem svyBump_ctr (k i e n : Nat) (q y : Nat) : (b.svyBump k i e n).ctr q y = b.ctr q y := by simp [ctr]

@[simp] theorem svyBump_ent (k i e n : Nat) (q y : Nat) : (b.svyBump k i e n).ent q y = b.ent q y := by simp [ent]

@[simp] theorem ledIn_rest (l n : Nat) :
    (b.ledIn l n).clk = b.clk ∧ (b.ledIn l n).fresh = b.fresh ∧ (b.ledIn l n).tod = b.tod ∧ (b.ledIn l n).regs = b.regs ∧
    (b.ledIn l n).ctrs = b.ctrs ∧ (b.ledIn l n).tbls = b.tbls ∧ (b.ledIn l n).irq = b.irq ∧ (b.ledIn l n).gov = b.gov ∧
    (b.ledIn l n).cairn = b.cairn ∧ (b.ledIn l n).win = b.win ∧ (b.ledIn l n).net = b.net ∧ (b.ledIn l n).pipe = b.pipe ∧
    (b.ledIn l n).stat = b.stat ∧ (b.ledIn l n).buf = b.buf ∧ (b.ledIn l n).mem = b.mem ∧ (b.ledIn l n).hbm = b.hbm ∧
    (b.ledIn l n).far = b.far ∧ (b.ledIn l n).echo = b.echo ∧ (b.ledIn l n).sch = b.sch ∧ (b.ledIn l n).grt = b.grt ∧
    (b.ledIn l n).host = b.host ∧ (b.ledIn l n).svy = b.svy ∧ (b.ledIn l n).lamp = b.lamp ∧ (b.ledIn l n).sup = b.sup ∧
    (b.ledIn l n).boot = b.boot ∧ (b.ledIn l n).snp = b.snp ∧ (b.ledIn l n).svc = b.svc ∧ (b.ledIn l n).rdata = b.rdata ∧
    (b.ledIn l n).out = b.out ∧
    (b.ledIn l n).marks = b.marks := ⟨rfl, rfl, rfl, rfl, rfl, rfl, rfl, rfl, rfl, rfl, rfl, rfl, rfl, rfl, rfl, rfl, rfl, rfl, rfl, rfl, rfl, rfl, rfl, rfl, rfl, rfl, rfl, rfl, rfl, rfl⟩

@[simp] theorem ledIn_rd (l n : Nat) (q : Nat) (g : Fld) (y z : Nat) : (b.ledIn l n).rd q g y z = b.rd q g y z := by
  simp [rd]

@[simp] theorem ledIn_ctr (l n : Nat) (q y : Nat) : (b.ledIn l n).ctr q y = b.ctr q y := by simp [ctr]

@[simp] theorem ledIn_ent (l n : Nat) (q y : Nat) : (b.ledIn l n).ent q y = b.ent q y := by simp [ent]

@[simp] theorem ledOut_rest (l n : Nat) :
    (b.ledOut l n).clk = b.clk ∧ (b.ledOut l n).fresh = b.fresh ∧ (b.ledOut l n).tod = b.tod ∧
    (b.ledOut l n).regs = b.regs ∧ (b.ledOut l n).ctrs = b.ctrs ∧ (b.ledOut l n).tbls = b.tbls ∧
    (b.ledOut l n).irq = b.irq ∧ (b.ledOut l n).gov = b.gov ∧ (b.ledOut l n).cairn = b.cairn ∧ (b.ledOut l n).win = b.win ∧
    (b.ledOut l n).net = b.net ∧ (b.ledOut l n).pipe = b.pipe ∧ (b.ledOut l n).stat = b.stat ∧ (b.ledOut l n).buf = b.buf ∧
    (b.ledOut l n).mem = b.mem ∧ (b.ledOut l n).hbm = b.hbm ∧ (b.ledOut l n).far = b.far ∧ (b.ledOut l n).echo = b.echo ∧
    (b.ledOut l n).sch = b.sch ∧ (b.ledOut l n).grt = b.grt ∧ (b.ledOut l n).host = b.host ∧ (b.ledOut l n).svy = b.svy ∧
    (b.ledOut l n).lamp = b.lamp ∧ (b.ledOut l n).sup = b.sup ∧ (b.ledOut l n).boot = b.boot ∧ (b.ledOut l n).snp = b.snp ∧
    (b.ledOut l n).svc = b.svc ∧ (b.ledOut l n).rdata = b.rdata ∧ (b.ledOut l n).out = b.out ∧
    (b.ledOut l n).marks = b.marks := ⟨rfl, rfl, rfl, rfl, rfl, rfl, rfl, rfl, rfl, rfl, rfl, rfl, rfl, rfl, rfl, rfl, rfl, rfl, rfl, rfl, rfl, rfl, rfl, rfl, rfl, rfl, rfl, rfl, rfl, rfl⟩

@[simp] theorem ledOut_rd (l n : Nat) (q : Nat) (g : Fld) (y z : Nat) : (b.ledOut l n).rd q g y z = b.rd q g y z := by
  simp [rd]

@[simp] theorem ledOut_ctr (l n : Nat) (q y : Nat) : (b.ledOut l n).ctr q y = b.ctr q y := by simp [ctr]

@[simp] theorem ledOut_ent (l n : Nat) (q y : Nat) : (b.ledOut l n).ent q y = b.ent q y := by simp [ent]

@[simp] theorem report_rest (p n : Nat) (x : FltInfo) :
    (b.report p n x).clk = b.clk ∧ (b.report p n x).fresh = b.fresh ∧ (b.report p n x).tod = b.tod ∧
    (b.report p n x).regs = b.regs ∧ (b.report p n x).ctrs = b.ctrs ∧ (b.report p n x).tbls = b.tbls ∧
    (b.report p n x).gov = b.gov ∧ (b.report p n x).cairn = b.cairn ∧ (b.report p n x).win = b.win ∧
    (b.report p n x).net = b.net ∧ (b.report p n x).pipe = b.pipe ∧ (b.report p n x).stat = b.stat ∧
    (b.report p n x).buf = b.buf ∧ (b.report p n x).rim = b.rim ∧ (b.report p n x).mem = b.mem ∧
    (b.report p n x).hbm = b.hbm ∧ (b.report p n x).far = b.far ∧ (b.report p n x).echo = b.echo ∧
    (b.report p n x).sch = b.sch ∧ (b.report p n x).grt = b.grt ∧ (b.report p n x).host = b.host ∧
    (b.report p n x).svy = b.svy ∧ (b.report p n x).lamp = b.lamp ∧ (b.report p n x).sup = b.sup ∧
    (b.report p n x).boot = b.boot ∧ (b.report p n x).snp = b.snp ∧ (b.report p n x).svc = b.svc ∧
    (b.report p n x).rdata = b.rdata ∧ (b.report p n x).out = b.out ∧
    (b.report p n x).marks = b.marks := ⟨rfl, rfl, rfl, rfl, rfl, rfl, rfl, rfl, rfl, rfl, rfl, rfl, rfl, rfl, rfl, rfl, rfl, rfl, rfl, rfl, rfl, rfl, rfl, rfl, rfl, rfl, rfl, rfl, rfl, rfl⟩

@[simp] theorem report_rd (p n : Nat) (x : FltInfo) (q : Nat) (g : Fld) (y z : Nat) : (b.report p n x).rd q g y z = b.rd q g y z := by
  simp [rd]

@[simp] theorem report_ctr (p n : Nat) (x : FltInfo) (q y : Nat) : (b.report p n x).ctr q y = b.ctr q y := by simp [ctr]

@[simp] theorem report_ent (p n : Nat) (x : FltInfo) (q y : Nat) : (b.report p n x).ent q y = b.ent q y := by simp [ent]

@[simp] theorem sat_rest (p : Nat) (f : Fld) (n i : Nat) :
    (b.sat p f n i).clk = b.clk ∧ (b.sat p f n i).fresh = b.fresh ∧ (b.sat p f n i).tod = b.tod ∧
    (b.sat p f n i).ctrs = b.ctrs ∧ (b.sat p f n i).tbls = b.tbls ∧ (b.sat p f n i).irq = b.irq ∧
    (b.sat p f n i).gov = b.gov ∧ (b.sat p f n i).cairn = b.cairn ∧ (b.sat p f n i).win = b.win ∧
    (b.sat p f n i).net = b.net ∧ (b.sat p f n i).pipe = b.pipe ∧ (b.sat p f n i).stat = b.stat ∧
    (b.sat p f n i).buf = b.buf ∧ (b.sat p f n i).rim = b.rim ∧ (b.sat p f n i).mem = b.mem ∧ (b.sat p f n i).hbm = b.hbm ∧
    (b.sat p f n i).far = b.far ∧ (b.sat p f n i).echo = b.echo ∧ (b.sat p f n i).sch = b.sch ∧
    (b.sat p f n i).grt = b.grt ∧ (b.sat p f n i).host = b.host ∧ (b.sat p f n i).svy = b.svy ∧
    (b.sat p f n i).lamp = b.lamp ∧ (b.sat p f n i).sup = b.sup ∧ (b.sat p f n i).boot = b.boot ∧
    (b.sat p f n i).snp = b.snp ∧ (b.sat p f n i).svc = b.svc ∧ (b.sat p f n i).rdata = b.rdata ∧
    (b.sat p f n i).out = b.out ∧
    (b.sat p f n i).marks = b.marks := ⟨rfl, rfl, rfl, rfl, rfl, rfl, rfl, rfl, rfl, rfl, rfl, rfl, rfl, rfl, rfl, rfl, rfl, rfl, rfl, rfl, rfl, rfl, rfl, rfl, rfl, rfl, rfl, rfl, rfl, rfl⟩

@[simp] theorem sat_ctr (p : Nat) (f : Fld) (n i : Nat) (q y : Nat) : (b.sat p f n i).ctr q y = b.ctr q y := by simp [ctr]

@[simp] theorem sat_ent (p : Nat) (f : Fld) (n i : Nat) (q y : Nat) : (b.sat p f n i).ent q y = b.ent q y := by simp [ent]

@[simp] theorem inc_rest (p : Nat) (f : Fld) (n i : Nat) :
    (b.inc p f n i).clk = b.clk ∧ (b.inc p f n i).fresh = b.fresh ∧ (b.inc p f n i).tod = b.tod ∧
    (b.inc p f n i).ctrs = b.ctrs ∧ (b.inc p f n i).tbls = b.tbls ∧ (b.inc p f n i).irq = b.irq ∧
    (b.inc p f n i).gov = b.gov ∧ (b.inc p f n i).cairn = b.cairn ∧ (b.inc p f n i).win = b.win ∧
    (b.inc p f n i).net = b.net ∧ (b.inc p f n i).pipe = b.pipe ∧ (b.inc p f n i).stat = b.stat ∧
    (b.inc p f n i).buf = b.buf ∧ (b.inc p f n i).rim = b.rim ∧ (b.inc p f n i).mem = b.mem ∧ (b.inc p f n i).hbm = b.hbm ∧
    (b.inc p f n i).far = b.far ∧ (b.inc p f n i).echo = b.echo ∧ (b.inc p f n i).sch = b.sch ∧
    (b.inc p f n i).grt = b.grt ∧ (b.inc p f n i).host = b.host ∧ (b.inc p f n i).svy = b.svy ∧
    (b.inc p f n i).lamp = b.lamp ∧ (b.inc p f n i).sup = b.sup ∧ (b.inc p f n i).boot = b.boot ∧
    (b.inc p f n i).snp = b.snp ∧ (b.inc p f n i).svc = b.svc ∧ (b.inc p f n i).rdata = b.rdata ∧
    (b.inc p f n i).out = b.out ∧
    (b.inc p f n i).marks = b.marks := ⟨rfl, rfl, rfl, rfl, rfl, rfl, rfl, rfl, rfl, rfl, rfl, rfl, rfl, rfl, rfl, rfl, rfl, rfl, rfl, rfl, rfl, rfl, rfl, rfl, rfl, rfl, rfl, rfl, rfl, rfl⟩

@[simp] theorem inc_ctr (p : Nat) (f : Fld) (n i : Nat) (q y : Nat) : (b.inc p f n i).ctr q y = b.ctr q y := by simp [ctr]

@[simp] theorem inc_ent (p : Nat) (f : Fld) (n i : Nat) (q y : Nat) : (b.inc p f n i).ent q y = b.ent q y := by simp [ent]

@[simp] theorem putEnt_rest (t i v : Nat) :
    (b.putEnt t i v).clk = b.clk ∧ (b.putEnt t i v).fresh = b.fresh ∧ (b.putEnt t i v).tod = b.tod ∧
    (b.putEnt t i v).regs = b.regs ∧ (b.putEnt t i v).ctrs = b.ctrs ∧ (b.putEnt t i v).irq = b.irq ∧
    (b.putEnt t i v).gov = b.gov ∧ (b.putEnt t i v).cairn = b.cairn ∧ (b.putEnt t i v).win = b.win ∧
    (b.putEnt t i v).net = b.net ∧ (b.putEnt t i v).stat = b.stat ∧ (b.putEnt t i v).buf = b.buf ∧
    (b.putEnt t i v).rim = b.rim ∧ (b.putEnt t i v).mem = b.mem ∧ (b.putEnt t i v).hbm = b.hbm ∧
    (b.putEnt t i v).far = b.far ∧ (b.putEnt t i v).echo = b.echo ∧ (b.putEnt t i v).sch = b.sch ∧
    (b.putEnt t i v).grt = b.grt ∧ (b.putEnt t i v).host = b.host ∧ (b.putEnt t i v).lamp = b.lamp ∧
    (b.putEnt t i v).sup = b.sup ∧ (b.putEnt t i v).boot = b.boot ∧ (b.putEnt t i v).snp = b.snp ∧
    (b.putEnt t i v).svc = b.svc ∧ (b.putEnt t i v).rdata = b.rdata ∧ (b.putEnt t i v).out = b.out ∧
    (b.putEnt t i v).marks = b.marks := by unfold Body.putEnt; cases vaultTbl t <;> simp

@[simp] theorem putEnt_rd (t i v : Nat) (q : Nat) (g : Fld) (y z : Nat) : (b.putEnt t i v).rd q g y z = b.rd q g y z := by
  simp [rd]

@[simp] theorem putEnt_ctr (t i v : Nat) (q y : Nat) : (b.putEnt t i v).ctr q y = b.ctr q y := by simp [ctr]

@[simp] theorem setIcu_rest (k s : Nat) (x : IcuSrc) :
    (b.setIcu k s x).clk = b.clk ∧ (b.setIcu k s x).fresh = b.fresh ∧ (b.setIcu k s x).tod = b.tod ∧
    (b.setIcu k s x).regs = b.regs ∧ (b.setIcu k s x).ctrs = b.ctrs ∧ (b.setIcu k s x).tbls = b.tbls ∧
    (b.setIcu k s x).gov = b.gov ∧ (b.setIcu k s x).cairn = b.cairn ∧ (b.setIcu k s x).win = b.win ∧
    (b.setIcu k s x).net = b.net ∧ (b.setIcu k s x).pipe = b.pipe ∧ (b.setIcu k s x).stat = b.stat ∧
    (b.setIcu k s x).buf = b.buf ∧ (b.setIcu k s x).rim = b.rim ∧ (b.setIcu k s x).mem = b.mem ∧
    (b.setIcu k s x).hbm = b.hbm ∧ (b.setIcu k s x).far = b.far ∧ (b.setIcu k s x).echo = b.echo ∧
    (b.setIcu k s x).sch = b.sch ∧ (b.setIcu k s x).grt = b.grt ∧ (b.setIcu k s x).host = b.host ∧
    (b.setIcu k s x).svy = b.svy ∧ (b.setIcu k s x).lamp = b.lamp ∧ (b.setIcu k s x).sup = b.sup ∧
    (b.setIcu k s x).boot = b.boot ∧ (b.setIcu k s x).snp = b.snp ∧ (b.setIcu k s x).svc = b.svc ∧
    (b.setIcu k s x).rdata = b.rdata ∧ (b.setIcu k s x).out = b.out ∧
    (b.setIcu k s x).marks = b.marks := by unfold Body.setIcu; split <;> simp

@[simp] theorem setIcu_rd (k s : Nat) (x : IcuSrc) (q : Nat) (g : Fld) (y z : Nat) : (b.setIcu k s x).rd q g y z = b.rd q g y z := by
  simp [rd]

@[simp] theorem setIcu_ctr (k s : Nat) (x : IcuSrc) (q y : Nat) : (b.setIcu k s x).ctr q y = b.ctr q y := by simp [ctr]

@[simp] theorem setIcu_ent (k s : Nat) (x : IcuSrc) (q y : Nat) : (b.setIcu k s x).ent q y = b.ent q y := by simp [ent]

@[simp] theorem icuEdge_rest (k p : Nat) :
    (b.icuEdge k p).clk = b.clk ∧ (b.icuEdge k p).fresh = b.fresh ∧ (b.icuEdge k p).tod = b.tod ∧
    (b.icuEdge k p).ctrs = b.ctrs ∧ (b.icuEdge k p).tbls = b.tbls ∧ (b.icuEdge k p).gov = b.gov ∧
    (b.icuEdge k p).cairn = b.cairn ∧ (b.icuEdge k p).win = b.win ∧ (b.icuEdge k p).net = b.net ∧
    (b.icuEdge k p).pipe = b.pipe ∧ (b.icuEdge k p).stat = b.stat ∧ (b.icuEdge k p).buf = b.buf ∧
    (b.icuEdge k p).rim = b.rim ∧ (b.icuEdge k p).mem = b.mem ∧ (b.icuEdge k p).hbm = b.hbm ∧ (b.icuEdge k p).far = b.far ∧
    (b.icuEdge k p).echo = b.echo ∧ (b.icuEdge k p).sch = b.sch ∧ (b.icuEdge k p).grt = b.grt ∧
    (b.icuEdge k p).host = b.host ∧ (b.icuEdge k p).svy = b.svy ∧ (b.icuEdge k p).lamp = b.lamp ∧
    (b.icuEdge k p).sup = b.sup ∧ (b.icuEdge k p).boot = b.boot ∧ (b.icuEdge k p).snp = b.snp ∧
    (b.icuEdge k p).svc = b.svc ∧ (b.icuEdge k p).rdata = b.rdata ∧ (b.icuEdge k p).out = b.out ∧
    (b.icuEdge k p).marks = b.marks := by unfold Body.icuEdge; dsimp only; split <;> simp

@[simp] theorem icuEdge_ctr (k p : Nat) (q y : Nat) : (b.icuEdge k p).ctr q y = b.ctr q y := by simp [ctr]

@[simp] theorem icuEdge_ent (k p : Nat) (q y : Nat) : (b.icuEdge k p).ent q y = b.ent q y := by simp [ent]

@[simp] theorem fire_rest (p n : Nat) :
    (b.fire p n).clk = b.clk ∧ (b.fire p n).fresh = b.fresh ∧ (b.fire p n).tod = b.tod ∧ (b.fire p n).ctrs = b.ctrs ∧
    (b.fire p n).tbls = b.tbls ∧ (b.fire p n).gov = b.gov ∧ (b.fire p n).cairn = b.cairn ∧ (b.fire p n).win = b.win ∧
    (b.fire p n).net = b.net ∧ (b.fire p n).pipe = b.pipe ∧ (b.fire p n).stat = b.stat ∧ (b.fire p n).buf = b.buf ∧
    (b.fire p n).rim = b.rim ∧ (b.fire p n).mem = b.mem ∧ (b.fire p n).hbm = b.hbm ∧ (b.fire p n).far = b.far ∧
    (b.fire p n).echo = b.echo ∧ (b.fire p n).sch = b.sch ∧ (b.fire p n).grt = b.grt ∧ (b.fire p n).host = b.host ∧
    (b.fire p n).svy = b.svy ∧ (b.fire p n).lamp = b.lamp ∧ (b.fire p n).sup = b.sup ∧ (b.fire p n).boot = b.boot ∧
    (b.fire p n).snp = b.snp ∧ (b.fire p n).svc = b.svc ∧ (b.fire p n).rdata = b.rdata ∧ (b.fire p n).out = b.out ∧
    (b.fire p n).marks = b.marks := by unfold Body.fire; dsimp only; split_ifs <;> simp

@[simp] theorem fire_ctr (p n : Nat) (q y : Nat) : (b.fire p n).ctr q y = b.ctr q y := by simp [ctr]

@[simp] theorem fire_ent (p n : Nat) (q y : Nat) : (b.fire p n).ent q y = b.ent q y := by simp [ent]

@[simp] theorem fireLasting_rest (p n : Nat) :
    (b.fireLasting p n).clk = b.clk ∧ (b.fireLasting p n).fresh = b.fresh ∧ (b.fireLasting p n).tod = b.tod ∧
    (b.fireLasting p n).ctrs = b.ctrs ∧ (b.fireLasting p n).tbls = b.tbls ∧ (b.fireLasting p n).gov = b.gov ∧
    (b.fireLasting p n).cairn = b.cairn ∧ (b.fireLasting p n).win = b.win ∧ (b.fireLasting p n).net = b.net ∧
    (b.fireLasting p n).pipe = b.pipe ∧ (b.fireLasting p n).stat = b.stat ∧ (b.fireLasting p n).buf = b.buf ∧
    (b.fireLasting p n).rim = b.rim ∧ (b.fireLasting p n).mem = b.mem ∧ (b.fireLasting p n).hbm = b.hbm ∧
    (b.fireLasting p n).far = b.far ∧ (b.fireLasting p n).echo = b.echo ∧ (b.fireLasting p n).sch = b.sch ∧
    (b.fireLasting p n).grt = b.grt ∧ (b.fireLasting p n).host = b.host ∧ (b.fireLasting p n).svy = b.svy ∧
    (b.fireLasting p n).lamp = b.lamp ∧ (b.fireLasting p n).sup = b.sup ∧ (b.fireLasting p n).boot = b.boot ∧
    (b.fireLasting p n).snp = b.snp ∧ (b.fireLasting p n).svc = b.svc ∧ (b.fireLasting p n).rdata = b.rdata ∧
    (b.fireLasting p n).out = b.out ∧
    (b.fireLasting p n).marks = b.marks := by unfold Body.fireLasting; split_ifs <;> simp

@[simp] theorem fireLasting_ctr (p n : Nat) (q y : Nat) : (b.fireLasting p n).ctr q y = b.ctr q y := by simp [ctr]

@[simp] theorem fireLasting_ent (p n : Nat) (q y : Nat) : (b.fireLasting p n).ent q y = b.ent q y := by simp [ent]

@[simp] theorem holdEvent_rest (p n : Nat) :
    (b.holdEvent p n).clk = b.clk ∧ (b.holdEvent p n).fresh = b.fresh ∧ (b.holdEvent p n).tod = b.tod ∧
    (b.holdEvent p n).ctrs = b.ctrs ∧ (b.holdEvent p n).tbls = b.tbls ∧ (b.holdEvent p n).gov = b.gov ∧
    (b.holdEvent p n).cairn = b.cairn ∧ (b.holdEvent p n).win = b.win ∧ (b.holdEvent p n).net = b.net ∧
    (b.holdEvent p n).pipe = b.pipe ∧ (b.holdEvent p n).stat = b.stat ∧ (b.holdEvent p n).buf = b.buf ∧
    (b.holdEvent p n).rim = b.rim ∧ (b.holdEvent p n).mem = b.mem ∧ (b.holdEvent p n).hbm = b.hbm ∧
    (b.holdEvent p n).far = b.far ∧ (b.holdEvent p n).echo = b.echo ∧ (b.holdEvent p n).sch = b.sch ∧
    (b.holdEvent p n).grt = b.grt ∧ (b.holdEvent p n).host = b.host ∧ (b.holdEvent p n).svy = b.svy ∧
    (b.holdEvent p n).lamp = b.lamp ∧ (b.holdEvent p n).sup = b.sup ∧ (b.holdEvent p n).boot = b.boot ∧
    (b.holdEvent p n).snp = b.snp ∧ (b.holdEvent p n).svc = b.svc ∧ (b.holdEvent p n).rdata = b.rdata ∧
    (b.holdEvent p n).out = b.out ∧
    (b.holdEvent p n).marks = b.marks := by unfold Body.holdEvent; split_ifs <;> simp

@[simp] theorem holdEvent_ctr (p n : Nat) (q y : Nat) : (b.holdEvent p n).ctr q y = b.ctr q y := by simp [ctr]

@[simp] theorem holdEvent_ent (p n : Nat) (q y : Nat) : (b.holdEvent p n).ent q y = b.ent q y := by simp [ent]

@[simp] theorem fault_rest (p n : Nat) (x : FltInfo) :
    (b.fault p n x).clk = b.clk ∧ (b.fault p n x).fresh = b.fresh ∧ (b.fault p n x).tod = b.tod ∧
    (b.fault p n x).ctrs = b.ctrs ∧ (b.fault p n x).tbls = b.tbls ∧ (b.fault p n x).gov = b.gov ∧
    (b.fault p n x).cairn = b.cairn ∧ (b.fault p n x).win = b.win ∧ (b.fault p n x).net = b.net ∧
    (b.fault p n x).pipe = b.pipe ∧ (b.fault p n x).stat = b.stat ∧ (b.fault p n x).buf = b.buf ∧
    (b.fault p n x).rim = b.rim ∧ (b.fault p n x).mem = b.mem ∧ (b.fault p n x).hbm = b.hbm ∧ (b.fault p n x).far = b.far ∧
    (b.fault p n x).echo = b.echo ∧ (b.fault p n x).sch = b.sch ∧ (b.fault p n x).grt = b.grt ∧
    (b.fault p n x).host = b.host ∧ (b.fault p n x).svy = b.svy ∧ (b.fault p n x).lamp = b.lamp ∧
    (b.fault p n x).sup = b.sup ∧ (b.fault p n x).boot = b.boot ∧ (b.fault p n x).snp = b.snp ∧
    (b.fault p n x).svc = b.svc ∧ (b.fault p n x).rdata = b.rdata ∧ (b.fault p n x).out = b.out ∧
    (b.fault p n x).marks = b.marks := by unfold Body.fault; dsimp only; split_ifs <;> simp

@[simp] theorem fault_ctr (p n : Nat) (x : FltInfo) (q y : Nat) : (b.fault p n x).ctr q y = b.ctr q y := by simp [ctr]

@[simp] theorem fault_ent (p n : Nat) (x : FltInfo) (q y : Nat) : (b.fault p n x).ent q y = b.ent q y := by simp [ent]

@[simp] theorem lose_rest (l n : Nat) :
    (b.lose l n).clk = b.clk ∧ (b.lose l n).fresh = b.fresh ∧ (b.lose l n).tod = b.tod ∧ (b.lose l n).ctrs = b.ctrs ∧
    (b.lose l n).tbls = b.tbls ∧ (b.lose l n).gov = b.gov ∧ (b.lose l n).cairn = b.cairn ∧ (b.lose l n).win = b.win ∧
    (b.lose l n).net = b.net ∧ (b.lose l n).pipe = b.pipe ∧ (b.lose l n).stat = b.stat ∧ (b.lose l n).buf = b.buf ∧
    (b.lose l n).mem = b.mem ∧ (b.lose l n).hbm = b.hbm ∧ (b.lose l n).far = b.far ∧ (b.lose l n).echo = b.echo ∧
    (b.lose l n).sch = b.sch ∧ (b.lose l n).grt = b.grt ∧ (b.lose l n).host = b.host ∧ (b.lose l n).svy = b.svy ∧
    (b.lose l n).lamp = b.lamp ∧ (b.lose l n).sup = b.sup ∧ (b.lose l n).boot = b.boot ∧ (b.lose l n).snp = b.snp ∧
    (b.lose l n).svc = b.svc ∧ (b.lose l n).rdata = b.rdata ∧ (b.lose l n).out = b.out ∧
    (b.lose l n).marks = b.marks := by unfold Body.lose; simp

@[simp] theorem lose_ctr (l n : Nat) (q y : Nat) : (b.lose l n).ctr q y = b.ctr q y := by simp [ctr]

@[simp] theorem lose_ent (l n : Nat) (q y : Nat) : (b.lose l n).ent q y = b.ent q y := by simp [ent]

end Body

end Sys2Proof.Machine
end

