-- ==== Sys2Proof/Laws/Fields.lean ====
section
/-! SUPPORT. A register field read after a write, an event or a fault. -/

namespace Sys2Proof.Machine

theorem Fld.key_ne {f g : Fld} {p q i j k l : Nat} (hf : f.lo < 32) (hg : g.lo < 32)
    (h : g.addr q k l ≠ f.addr p i j ∨ g.lo ≠ f.lo) : g.key q k l ≠ f.key p i j := by
  unfold Fld.key
  omega

namespace Body

variable (b : Body)

theorem rd_lt (p : Nat) (f : Fld) (i j : Nat) : b.rd p f i j < 2 ^ f.width := Nat.mod_lt _ (Nat.two_pow_pos _)

@[simp] theorem rd_wr_self (p : Nat) (f : Fld) (v i j : Nat) : (b.wr p f v i j).rd p f i j = v % 2 ^ f.width := by
  simp [rd, wr, Sp.get_set_self]

theorem rd_wr_of_ne {p q : Nat} {f g : Fld} {i j k l : Nat} (v : Nat) (h : g.key q k l ≠ f.key p i j) :
    (b.wr p f v i j).rd q g k l = b.rd q g k l := by
  simp [rd, wr, Sp.get_set_of_ne _ _ _ _ h]

/-- A write of one field, read through another register or other bits. -/
theorem rd_wr_ne {p q : Nat} {f g : Fld} {i j k l : Nat} (v : Nat) (hf : f.lo < 32) (hg : g.lo < 32)
    (h : g.addr q k l ≠ f.addr p i j ∨ g.lo ≠ f.lo) : (b.wr p f v i j).rd q g k l = b.rd q g k l :=
  b.rd_wr_of_ne v (Fld.key_ne hf hg h)

theorem rd_sat_ne {p q : Nat} {f g : Fld} {n i k l : Nat} (hf : f.lo < 32) (hg : g.lo < 32)
    (h : g.addr q k l ≠ f.addr p i 0 ∨ g.lo ≠ f.lo) : (b.sat p f n i).rd q g k l = b.rd q g k l :=
  b.rd_wr_ne _ hf hg h

/-- The coalesce counts of the ICU's banks. -/
theorem rd_icuEdge {q : Nat} {g : Fld} {k l n p : Nat} (hn : n < 2) (hg : g.lo < 32) (h0 : g.addr q k l ≠ 0x40A4)
    (h1 : g.addr q k l ≠ 0x50A4) : (b.icuEdge n p).rd q g k l = b.rd q g k l := by
  unfold icuEdge
  dsimp only
  split
  · simp
  · rfl
  · simp
  · refine b.rd_sat_ne (by decide) hg (.inl ?_)
    simp only [Fld.addr, Pg.icu, R.ICU_COALESCE] at *
    omega

/-- What an event of a page leaves alone: everything but the page's EVT_PEND and EVT_OVR and the coalesce counts of the ICU. -/
theorem rd_fire {q : Nat} {g : Fld} {k l p n : Nat} (hn : n < 32) (hg : g.lo < 32)
    (h1 : g.addr q k l ≠ p + 0x20 ∨ g.lo ≠ n) (h2 : g.addr q k l ≠ p + 0x30)
    (h3 : g.addr q k l ≠ 0x40A4) (h4 : g.addr q k l ≠ 0x50A4) : (b.fire p n).rd q g k l = b.rd q g k l := by
  have hp : g.addr q k l ≠ (evtPend n).addr p 0 0 ∨ g.lo ≠ (evtPend n).lo := by simpa [Fld.addr, evtPend] using h1
  unfold fire
  dsimp only
  split_ifs
  · exact b.rd_sat_ne (by decide) hg (.inl (by simpa [Fld.addr, R.EVT_OVR] using h2))
  · have hc : (b.wr p (evtPend n) 1).rd p (evtClass n) < 2 := (b.wr p (evtPend n) 1).rd_lt p (evtClass n) 0 0 |>.trans_le (by
      simp [evtClass, Fld.width])
    rw [rd_icuEdge _ hc hg h3 h4, b.rd_wr_ne _ (by simpa [evtPend] using hn) hg hp]
  · exact b.rd_wr_ne _ (by simpa [evtPend] using hn) hg hp

/-- The event is pending. -/
theorem fire_pend {p n : Nat} (hn : n < 32) (hp : p % 0x1000 = 0) : (b.fire p n).rd p (evtPend n) = 1 := by
  have h : (b.wr p (evtPend n) 1).rd p (evtPend n) = 1 := by simp [rd_wr_self, evtPend, Fld.width]
  unfold fire
  dsimp only
  split_ifs with h0
  · rw [rd_sat_ne _ (by decide) (by simpa [evtPend] using hn) (.inl (by simp [Fld.addr, evtPend, R.EVT_OVR]))]
    simpa [on] using h0
  · rw [rd_icuEdge, h]
    · exact (b.wr p (evtPend n) 1).rd_lt p (evtClass n) 0 0 |>.trans_le (by simp [evtClass, Fld.width])
    · simpa [evtPend] using hn
    all_goals simp only [Fld.addr, evtPend]; omega
  · exact h

theorem rd_fault {q : Nat} {g : Fld} {k l p n : Nat} (x : FltInfo) (hn : n < 32) (hg : g.lo < 32)
    (h1 : g.addr q k l ≠ p + 0x40 ∨ g.lo ≠ n) : (b.fault p n x).rd q g k l = b.rd q g k l := by
  have hp : g.addr q k l ≠ (fltStat n).addr p 0 0 ∨ g.lo ≠ (fltStat n).lo := by simpa [Fld.addr, fltStat] using h1
  unfold fault
  dsimp only
  split_ifs
  · simpa using b.rd_wr_ne _ (by simpa [fltStat] using hn) hg hp
  · exact b.rd_wr_ne _ (by simpa [fltStat] using hn) hg hp

/-- The fault bit is set. -/
theorem fault_stat (p n : Nat) (x : FltInfo) : (b.fault p n x).rd p (fltStat n) = 1 := by
  unfold fault
  dsimp only
  split_ifs <;> simp [rd_wr_self, fltStat, Fld.width]

/-- A counter after a count. -/
theorem ctr_count (p i n q j : Nat) (hi : i < 0x1000) (hj : j < 0x1000) :
    (b.count p i n).ctr q j = if q = p ∧ j = i then (b.ctr p i + n) % 2 ^ 64 else b.ctr q j := by
  simp only [ctr, count, Sp.get_set, ctrKey]
  by_cases h : q = p ∧ j = i
  · rw [if_pos h, if_pos (by rw [h.1, h.2])]
  · rw [if_neg h, if_neg (by omega)]

/-- An event makes no report. -/
@[simp] theorem fire_reports (p n : Nat) : (b.fire p n).irq.reports = b.irq.reports ∧ (b.fire p n).irq.recs = b.irq.recs ∧
    (b.fire p n).irq.opened = b.irq.opened := by
  unfold fire icuEdge setIcu
  dsimp only
  split_ifs <;> simp <;> split <;> simp

/-- The report of a fault that is enabled. -/
theorem fault_report {p n : Nat} (x : FltInfo) (hn : n < 32) (ha : p % 0x1000 = 0) (h : b.on p (fltEn n) = true) :
    (b.fault p n x).irq.reports = b.irq.reports ++
      [⟨p, n, b.fltFatal p n, x, b.clk, b.tod, b.on Pg.lamp R.TOD_VALID⟩] := by
  have ne : ∀ {q : Nat} {g : Fld}, g.lo < 32 → (g.addr q 0 0 ≠ p + 0x40 ∨ g.lo ≠ n) →
      (b.wr p (fltStat n) 1).rd q g = b.rd q g := fun hg h => b.rd_wr_ne _ (by simpa [fltStat] using hn) hg (by
    simpa [Fld.addr, fltStat] using h)
  have h1 : (b.wr p (fltStat n) 1).on p (fltEn n) = true := by
    unfold on at h ⊢
    rwa [ne (by simpa [fltEn] using hn) (.inl (by simp [Fld.addr, fltEn]))]
  have h2 : (b.wr p (fltStat n) 1).fltFatal p n = b.fltFatal p n := by
    unfold fltFatal on
    rw [ne (by simpa [fltSev] using hn) (.inl (by simp [Fld.addr, fltSev]))]
  have h3 : (b.wr p (fltStat n) 1).on Pg.lamp R.TOD_VALID = b.on Pg.lamp R.TOD_VALID := by
    unfold on
    by_cases hp : p = 0
    · subst hp
      rw [ne (by decide) (.inl (by decide))]
    · rw [ne (by decide) (.inl (by simp [Fld.addr, Pg.lamp, R.TOD_VALID]; omega))]
  unfold fault
  dsimp only
  rw [if_pos h1]
  unfold report
  rw [h2, h3]
  rfl

end Body

end Sys2Proof.Machine
end

