-- ==== Sys2Proof/Laws/Lift.lean ====
section
/-! SUPPORT. The form of a command: what the lifts of an effect answer, and what the notes that follow every effect (Survey's
counters, the pool events of threads) leave as it was. -/

namespace Sys2Proof.Machine

/-- A property that folding an operation over a list keeps. -/
theorem foldl_keeps {α β : Type} (P : α → Prop) (f : α → β → α) (hf : ∀ a x, P a → P (f a x)) (l : List β) (a : α) (h : P a) :
    P (l.foldl f a) := by
  induction l generalizing a with
  | nil => exact h
  | cons x t ih => exact ih _ (hf a x h)

/-- What every step of a fold leaves alone, the fold leaves alone. -/
theorem foldl_same {α β γ : Type} (g : α → γ) (f : α → β → α) (hf : ∀ a x, g (f a x) = g a) (l : List β) (a : α) :
    g (l.foldl f a) = g a :=
  foldl_keeps (fun x => g x = g a) f (fun x y h => (hf x y).trans h) l a rfl

namespace Body

variable (b : Body)

/-! The notes. -/

/-- Everything of a state but its registers, its interrupts, its threads and Survey's counts. -/
def quiet (b : Body) : Body := { b with regs := [], irq := {}, grt := {}, svy := {} }

theorem svyAdd_quiet (i n : Nat) : (b.svyAdd i n).quiet = b.quiet := by
  unfold svyAdd
  dsimp only
  split_ifs <;> simp [quiet]

theorem svyAdd_grt (i n : Nat) : (b.svyAdd i n).grt = b.grt := by
  unfold svyAdd
  dsimp only
  split_ifs <;> simp

theorem notedAt_page {a : Nat} (h4 : a / 0x1000 ≠ 4) (h5 : a / 0x1000 ≠ 5) (h7 : a / 0x1000 ≠ 7) : notedAt a = false := by
  simp only [notedAt, Bool.or_eq_false_iff, beq_eq_false_iff_ne]
  omega

theorem svyAdd_rd {q : Nat} {g : Fld} {k l : Nat} (hg : g.lo < 32) (h : notedAt (g.addr q k l) = false)
    (i n : Nat) (hi : i < 64) : (b.svyAdd i n).rd q g k l = b.rd q g k l := by
  simp only [notedAt, Bool.or_eq_false_iff, beq_eq_false_iff_ne, ne_eq] at h
  unfold svyAdd
  dsimp only
  split_ifs
  · have hw : g.addr q k l ≠ R.SVY_WRAP.addr Pg.survey (i / 32) 0 := by
      simp only [Fld.addr, Pg.survey, R.SVY_WRAP] at *
      omega
    rw [rd_fire (p := Pg.survey) _ (by decide) hg (.inl h.1.1.1.2) h.1.1.2 h.1.1.1.1.1 h.1.1.1.1.2,
      rd_wr_ne _ _ (by decide) hg (.inl hw)]
    rfl
  · rfl

theorem mem_svyOn_lt {e : Nat × Nat} (h : e ∈ b.svyOn) : e.1 < 64 := by
  simp only [svyOn, List.mem_filter, List.mem_map] at h
  obtain ⟨⟨i, ⟨-, hi⟩, rfl⟩, -⟩ := h
  simpa using hi

theorem svyNote_quiet (was : Body) : (svyNote was b).quiet = b.quiet := by
  unfold svyNote
  split_ifs
  · rfl
  · refine foldl_same quiet _ (fun c e => ?_) _ _
    dsimp only
    split_ifs <;> simp [svyAdd_quiet]

theorem svyNote_grt (was : Body) : (svyNote was b).grt = b.grt := by
  unfold svyNote
  split_ifs
  · rfl
  · refine foldl_same (fun x : Body => x.grt) _ (fun c e => ?_) _ _
    dsimp only
    split_ifs <;> simp [svyAdd_grt]

/-- What every step of a fold over the elements of a list leaves alone, the fold leaves alone. -/
theorem foldl_same_mem {α β γ : Type} (g : α → γ) (f : α → β → α) (l : List β) (a : α)
    (hf : ∀ a, ∀ x ∈ l, g (f a x) = g a) : g (l.foldl f a) = g a := by
  induction l generalizing a with
  | nil => rfl
  | cons x t ih =>
    rw [List.foldl_cons, ih (f a x) fun a y hy => hf a y (List.mem_cons_of_mem x hy)]
    exact hf a x List.mem_cons_self

theorem svyNote_rd (was : Body) {q : Nat} {g : Fld} {k l : Nat} (hg : g.lo < 32)
    (h : notedAt (g.addr q k l) = false) : (svyNote was b).rd q g k l = b.rd q g k l := by
  unfold svyNote
  split_ifs
  · rfl
  · refine foldl_same_mem (fun x : Body => x.rd q g k l) _ _ _ fun c e he => ?_
    dsimp only
    have hi := b.mem_svyOn_lt he
    split_ifs <;> simp [svyAdd_rd _ hg h _ _ hi]

/-- A thread but for its latched events. -/
def calm (t : Thread) : Thread := { t with pend := 0 }

theorem setBit_rest (th n : Nat) : (b.setBit th n).quiet = b.quiet ∧ (b.setBit th n).regs = b.regs ∧
    (b.setBit th n).irq = b.irq ∧ (b.setBit th n).svy = b.svy := ⟨rfl, rfl, rfl, rfl⟩

theorem setBit_chans (th n : Nat) : (b.setBit th n).grt.chans = b.grt.chans ∧ (b.setBit th n).grt.bad = b.grt.bad ∧
    (b.setBit th n).grt.restarting = b.grt.restarting ∧ (b.setBit th n).grt.dlFired = b.grt.dlFired := ⟨rfl, rfl, rfl, rfl⟩

theorem setBit_calm (th n x : Nat) : calm ((b.setBit th n).thr x) = calm (b.thr x) := by
  unfold setBit setThr thr
  by_cases h : x = th
  · subst h
    simp [Sp.get_set_self, calm]
  · simp [Sp.get_set_of_ne _ _ _ _ h]

theorem poolNote_same {γ : Type} (g : Body → γ) (hg : ∀ c n, g (setBit c n 25) = g c) (was : Body) :
    g (poolNote was b) = g b := by
  unfold poolNote
  split_ifs
  · exact foldl_same g _ (fun c n => hg c n) _ _
  · rfl

/-! What the notes leave as it was. -/

theorem note_quiet (was : Body) : (note was b).quiet = b.quiet := by
  unfold note
  rw [svyNote_quiet]
  exact b.poolNote_same quiet (fun _ _ => rfl) was

/-- Everything but registers, interrupts, threads' events and Survey's counts is as the effect left it. -/
@[simp] theorem note_rest (was : Body) :
    (note was b).clk = b.clk ∧ (note was b).fresh = b.fresh ∧ (note was b).tod = b.tod ∧ (note was b).ctrs = b.ctrs ∧
    (note was b).tbls = b.tbls ∧ (note was b).gov = b.gov ∧ (note was b).cairn = b.cairn ∧ (note was b).win = b.win ∧
    (note was b).net = b.net ∧ (note was b).pipe = b.pipe ∧ (note was b).stat = b.stat ∧ (note was b).buf = b.buf ∧
    (note was b).rim = b.rim ∧ (note was b).mem = b.mem ∧ (note was b).hbm = b.hbm ∧ (note was b).far = b.far ∧
    (note was b).echo = b.echo ∧ (note was b).sch = b.sch ∧ (note was b).host = b.host ∧ (note was b).lamp = b.lamp ∧
    (note was b).sup = b.sup ∧ (note was b).boot = b.boot ∧ (note was b).snp = b.snp ∧ (note was b).svc = b.svc ∧
    (note was b).rdata = b.rdata ∧ (note was b).out = b.out ∧ (note was b).marks = b.marks := by
  have h := b.note_quiet was
  simp only [quiet, Body.mk.injEq] at h
  tauto

@[simp] theorem note_ctr (was : Body) (q k : Nat) : (note was b).ctr q k = b.ctr q k := by simp [ctr]

@[simp] theorem note_ent (was : Body) (t k : Nat) : (note was b).ent t k = b.ent t k := by simp [ent]

/-- Every other register is as the effect left it. -/
theorem note_rd (was : Body) {q : Nat} {g : Fld} {k l : Nat} (hg : g.lo < 32)
    (h : notedAt (g.addr q k l) = false) : (note was b).rd q g k l = b.rd q g k l := by
  unfold note
  rw [svyNote_rd _ was hg h]
  exact b.poolNote_same (fun x => x.rd q g k l) (fun _ _ => rfl) was

/-- Survey that stands still leaves every register alone. -/
theorem note_rd_still (was : Body) (h : was.rd Pg.survey R.SVY_RUN = 0) (q : Nat) (g : Fld) (k l : Nat) :
    (note was b).rd q g k l = b.rd q g k l := by
  unfold note svyNote
  rw [if_pos (.inr h)]
  exact b.poolNote_same (fun x => x.rd q g k l) (fun _ _ => rfl) was

/-- A register that is steady at a state is as the effect left it. -/
theorem note_rd_steady {s : State} {q : Nat} {g : Fld} {k l : Nat} (hg : g.lo < 32) (h : s.steady (g.addr q k l)) :
    (note s.dev.body b).rd q g k l = b.rd q g k l := by
  rcases h with h | h
  · exact b.note_rd_still _ h q g k l
  · exact b.note_rd _ hg h

theorem svyDelta_self (e : Nat) : svyDelta b b e = 0 := by
  unfold svyDelta
  split_ifs <;> simp [b2n]

theorem foldl_id {α β : Type} (f : α → β → α) (l : List β) (a : α) (h : ∀ x, f a x = a) : l.foldl f a = a := by
  induction l with
  | nil => rfl
  | cons x t ih => rw [List.foldl_cons, h, ih]

/-- No change entails nothing. -/
@[simp] theorem note_self : note b b = b := by
  have h : poolNote b b = b := by simp [poolNote, levelMoved]
  unfold note
  rw [h]
  unfold svyNote
  split_ifs
  · rfl
  · exact foldl_id _ _ _ fun e => by simp [svyDelta_self]

@[simp] theorem note_reports (was : Body) : (note was b).irq.reports = b.irq.reports ∧ (note was b).irq.recs = b.irq.recs ∧
    (note was b).irq.opened = b.irq.opened := by
  have h : ∀ c : Body, (svyNote was c).irq.reports = c.irq.reports ∧ (svyNote was c).irq.recs = c.irq.recs ∧
      (svyNote was c).irq.opened = c.irq.opened := by
    intro c
    have key : ∀ (d : Body) (i n : Nat), ((d.svyAdd i n).irq.reports, (d.svyAdd i n).irq.recs, (d.svyAdd i n).irq.opened) =
        (d.irq.reports, d.irq.recs, d.irq.opened) := by
      intro d i n
      unfold svyAdd
      dsimp only
      split_ifs <;> simp
    unfold svyNote
    split_ifs
    · simp
    · have h := foldl_same (fun x : Body => (x.irq.reports, x.irq.recs, x.irq.opened))
        (fun (d : Body) (e : Nat × Nat) =>
          let n := if was.ent Tbl.svy e.1 = e.2 then svyDelta was c e.2 else 0
          if n = 0 then d else d.svyAdd e.1 n)
        (fun d e => by dsimp only; split_ifs <;> simp [key]) c.svyOn c
      simpa using h
  unfold note
  have hp : ((poolNote was b).irq) = b.irq := b.poolNote_same (fun x => x.irq) (fun _ _ => rfl) was
  rw [← hp]
  exact h _

@[simp] theorem note_chans (was : Body) : (note was b).grt.chans = b.grt.chans ∧ (note was b).grt.bad = b.grt.bad ∧
    (note was b).grt.restarting = b.grt.restarting ∧ (note was b).grt.dlFired = b.grt.dlFired ∧ (note was b).grt.halts = b.grt.halts := by
  unfold note
  simp only [svyNote_grt]
  exact ⟨b.poolNote_same (fun x => x.grt.chans) (fun _ _ => rfl) was, b.poolNote_same (fun x => x.grt.bad) (fun _ _ => rfl) was,
    b.poolNote_same (fun x => x.grt.restarting) (fun _ _ => rfl) was, b.poolNote_same (fun x => x.grt.dlFired) (fun _ _ => rfl) was,
    b.poolNote_same (fun x => x.grt.halts) (fun _ _ => rfl) was⟩

/-- Threads are as the effect left them, but for latched events. -/
theorem note_thr (was : Body) (th : Nat) : calm ((note was b).thr th) = calm (b.thr th) := by
  have h : (note was b).thr th = (poolNote was b).thr th := by simp [note, thr, svyNote_grt]
  rw [h]
  exact b.poolNote_same (fun x => calm (x.thr th)) (fun c n => setBit_calm c n 25 th) was

/-- A part of a thread that does not depend on its events. -/
theorem note_thr_eq {γ : Type} (f : Thread → γ) (hf : ∀ t, f (calm t) = f t) (was : Body) (th : Nat) :
    f ((note was b).thr th) = f (b.thr th) := by
  rw [← hf, note_thr, hf]

@[simp] theorem note_thr_regs (was : Body) (th : Nat) : ((note was b).thr th).regs = (b.thr th).regs :=
  b.note_thr_eq (·.regs) (fun _ => rfl) was th

@[simp] theorem note_thr_rest (was : Body) (th : Nat) :
    ((note was b).thr th).pc = (b.thr th).pc ∧ ((note was b).thr th).wmask = (b.thr th).wmask ∧
    ((note was b).thr th).binds = (b.thr th).binds ∧ ((note was b).thr th).timer = (b.thr th).timer ∧
    ((note was b).thr th).psize = (b.thr th).psize ∧ ((note was b).thr th).wins = (b.thr th).wins ∧
    ((note was b).thr th).wait = (b.thr th).wait ∧ ((note was b).thr th).steps = (b.thr th).steps ∧
    ((note was b).thr th).ueArm = (b.thr th).ueArm ∧ ((note was b).thr th).rfArm = (b.thr th).rfArm ∧
    ((note was b).thr th).restarts = (b.thr th).restarts :=
  ⟨b.note_thr_eq (·.pc) (fun _ => rfl) was th, b.note_thr_eq (·.wmask) (fun _ => rfl) was th,
   b.note_thr_eq (·.binds) (fun _ => rfl) was th, b.note_thr_eq (·.timer) (fun _ => rfl) was th,
   b.note_thr_eq (·.psize) (fun _ => rfl) was th, b.note_thr_eq (·.wins) (fun _ => rfl) was th,
   b.note_thr_eq (·.wait) (fun _ => rfl) was th, b.note_thr_eq (·.steps) (fun _ => rfl) was th,
   b.note_thr_eq (·.ueArm) (fun _ => rfl) was th, b.note_thr_eq (·.rfArm) (fun _ => rfl) was th,
   b.note_thr_eq (·.restarts) (fun _ => rfl) was th⟩

end Body

/-! The lifts. -/

@[simp] theorem Dev.after_sticky (d : Dev) (f : Dev → Dev) : (d.after f).sticky = (f d).sticky := rfl

@[simp] theorem Dev.after_body (d : Dev) (f : Dev → Dev) : (d.after f).body = Body.note d.body (f d).body := rfl

@[simp] theorem Dev.on_sticky (d : Dev) (f : Body → Body) : (d.on f).sticky = d.sticky := rfl

@[simp] theorem Dev.on_body (d : Dev) (f : Body → Body) : (d.on f).body = f d.body := rfl

/-- An effect on the body alone. -/
theorem Dev.on_eq (d : Dev) {f : Body → Body} {c : Body} (h : f d.body = c) : d.on f = { d with body := c } := by
  rw [← h]
  rfl

/-- A command of the running engine whose operands name things. -/
theorem State.live_runs (s : State) {ok : Bool} {doms : List Nat} (f : Dev → Dev) (ho : ok = true)
    (hr : s.dev.runs doms = true) : s.live ok doms f = .next { s with dev := s.dev.after f } := by
  simp [State.live, ho, hr]

theorem State.body_runs (s : State) {ok : Bool} {doms : List Nat} (f : Body → Body) (ho : ok = true)
    (hr : s.dev.runs doms = true) : s.body ok doms f = .next { s with dev := s.dev.after fun d => d.on f } := by
  simp [State.body, State.live, ho, hr]

theorem State.always_runs (s : State) {ok : Bool} (f : Dev → Dev) (ho : ok = true) :
    s.always ok f = .next { s with dev := s.dev.after f } := by
  simp [State.always, ho]

theorem State.lamp_runs (s : State) {ok : Bool} (f : Body → Body) (ho : ok = true) :
    s.lampBody ok f = .next { s with dev := s.dev.after fun d => d.on f } := by
  simp [State.lampBody, State.always, ho]

/-- A command that finds its engine held or its domains stopped, or that names nothing, changes nothing. -/
theorem State.live_stands (s : State) {ok : Bool} {doms : List Nat} (f : Dev → Dev) (h : ok = false ∨ s.dev.runs doms = false) :
    s.live ok doms f = .next s := by
  rcases h with h | h <;> simp [State.live, h]

theorem State.always_stands (s : State) {ok : Bool} (f : Dev → Dev) (h : ok = false) : s.always ok f = .next s := by
  simp [State.always, h]

/-- A register after a command. -/
theorem State.reg_after (s : State) (F : Dev → Dev) {q k l : Nat} {g : Fld} (hg : g.lo < 32) (h : notedAt (g.addr q k l) = false) :
    ({ s with dev := s.dev.after F } : State).reg q g k l = (F s.dev).body.rd q g k l := Body.note_rd _ _ hg h

/-- An event after a command. -/
theorem State.evt_after (s : State) (F : Dev → Dev) {q n : Nat} (hn : n < 32) (h : notedAt (q + 0x20) = false) :
    ({ s with dev := s.dev.after F } : State).evt q n ↔ (F s.dev).body.rd q (evtPend n) = 1 := by
  unfold State.evt
  rw [s.reg_after F (by simpa [evtPend] using hn) (by simpa [Fld.addr, evtPend] using h)]

end Sys2Proof.Machine
end

