-- ==== Sys2Proof/Laws/Bus.lean ====
section
/-! SUPPORT. Register writes: the kinds of pages, the fields at an address, and a write taken by the page's store. -/

namespace Sys2Proof.Machine

/-! The kinds of pages (R41). -/

theorem pageIs_lamp : PageIs Pg.lamp .lamp := ⟨by decide, by decide, by decide⟩
theorem pageIs_clocks : PageIs Pg.clocks .clocks := ⟨by decide, by decide, by decide⟩
theorem pageIs_governor : PageIs Pg.governor .governor := ⟨by decide, by decide, by decide⟩
theorem pageIs_cairn : PageIs Pg.cairn .cairn := ⟨by decide, by decide, by decide⟩
theorem pageIs_fmu : PageIs Pg.fmu .fmu := ⟨by decide, by decide, by decide⟩
theorem pageIs_survey : PageIs Pg.survey .survey := ⟨by decide, by decide, by decide⟩
theorem pageIs_chm : PageIs Pg.chm .chm := ⟨by decide, by decide, by decide⟩
theorem pageIs_sch : PageIs Pg.sch .sch := ⟨by decide, by decide, by decide⟩
theorem pageIs_rim : PageIs Pg.rim .rim := ⟨by decide, by decide, by decide⟩
theorem pageIs_vault : PageIs Pg.vault .vault := ⟨by decide, by decide, by decide⟩
theorem pageIs_exm : PageIs Pg.exm .exm := ⟨by decide, by decide, by decide⟩
theorem pageIs_lpm : PageIs Pg.lpm .lpm := ⟨by decide, by decide, by decide⟩
theorem pageIs_ds : PageIs Pg.ds .ds := ⟨by decide, by decide, by decide⟩
theorem pageIs_cls : PageIs Pg.cls .cls := ⟨by decide, by decide, by decide⟩
theorem pageIs_stc : PageIs Pg.stc .stc := ⟨by decide, by decide, by decide⟩
theorem pageIs_aperture : PageIs Pg.aperture .aperture := ⟨by decide, by decide, by decide⟩
theorem pageIs_sump : PageIs Pg.sump .sump := ⟨by decide, by decide, by decide⟩
theorem pageIs_hif : PageIs Pg.hif .hif := ⟨by decide, by decide, by decide⟩
theorem pageIs_boot : PageIs Pg.boot .boot := ⟨by decide, by decide, by decide⟩
theorem pageIs_snp : PageIs Pg.snp .snp := ⟨by decide, by decide, by decide⟩
theorem pageIs_echo0 : PageIs (Pg.echo 0) .echo0 := ⟨by decide, by decide, by decide⟩

/-- A family of pages, one a number below a bound. -/
theorem pageIs_below {n : Nat} (p : Nat → Nat) (k : PK)
    (h : ∀ i < n, p i % 0x1000 = 0 ∧ p i < 0x1000000 ∧ pageKind (p i / 0x1000) = some k) {i : Nat} (hi : i < n) : PageIs (p i) k :=
  ⟨(h i hi).1, (h i hi).2.1, (h i hi).2.2⟩

theorem pageIs_icu {n : Nat} (h : n < 2) : PageIs (Pg.icu n) .icu := pageIs_below Pg.icu .icu (by decide) h
theorem pageIs_exmCtx {c : Nat} (h : c < 4) : PageIs (Pg.exmCtx c) .exmCtx := pageIs_below Pg.exmCtx .exmCtx (by decide) h
theorem pageIs_galPower {g : Nat} (h : g < 8) : PageIs (Pg.galPower g) .galPower :=
  pageIs_below Pg.galPower .galPower (by decide) h
theorem pageIs_preclass {g : Nat} (h : g < 8) : PageIs (Pg.preclass g) .preclass :=
  pageIs_below Pg.preclass .preclass (by decide) h
theorem pageIs_pool {n : Nat} (h : n < 16) : PageIs (Pg.pool n) .pool := pageIs_below Pg.pool .pool (by decide) h
theorem pageIs_hbm0 {s : Nat} (h : s < 4) : PageIs (Pg.hbm s 0) .hbm0 := pageIs_below (Pg.hbm · 0) .hbm0 (by decide) h
theorem pageIs_hbm2 {s : Nat} (h : s < 4) : PageIs (Pg.hbm s 2) .hbm2 := pageIs_below (Pg.hbm · 2) .hbm2 (by decide) h
theorem pageIs_hbm3 {s : Nat} (h : s < 4) : PageIs (Pg.hbm s 3) .hbm3 := pageIs_below (Pg.hbm · 3) .hbm3 (by decide) h
theorem pageIs_far0 {p : Nat} (h : p < 2) : PageIs (Pg.far p 0) .far0 := pageIs_below (Pg.far · 0) .far0 (by decide) h
theorem pageIs_far1 {p : Nat} (h : p < 2) : PageIs (Pg.far p 1) .far1 := pageIs_below (Pg.far · 1) .far1 (by decide) h
theorem pageIs_core0 {c : Nat} (h : c < 32) : PageIs (Pg.core c 0) .core0 := pageIs_below (Pg.core · 0) .core0 (by decide) h
theorem pageIs_core1 {c : Nat} (h : c < 32) : PageIs (Pg.core c 1) .core1 := pageIs_below (Pg.core · 1) .core1 (by decide) h
theorem pageIs_core2 {c : Nat} (h : c < 32) : PageIs (Pg.core c 2) .core2 := pageIs_below (Pg.core · 2) .core2 (by decide) h
set_option maxRecDepth 20000 in
theorem pageIs_ring {n : Nat} (h : n < 240) : PageIs (Pg.ring n) .ring := pageIs_below Pg.ring .ring (by decide) h
set_option maxRecDepth 40000 in
theorem pageIs_lane {l : Nat} (h : l < 512) : PageIs (Pg.lane l) .lane := pageIs_below Pg.lane .lane (by decide) h

/-! A register of a page. -/

namespace PageIs

variable {p off : Nat} {k : PK}

theorem pageOf (h : PageIs p k) (ho : off < 0x1000) : pageOf (p + off) = p := by
  have := h.aligned
  unfold Machine.pageOf
  omega

theorem mod (h : PageIs p k) (ho : off < 0x1000) : (p + off) % 0x1000 = off := by
  have := h.aligned
  omega

theorem kindAt (h : PageIs p k) (ho : off < 0x1000) : kindAt (p + off) = some k := by
  have := h.aligned
  unfold Machine.kindAt
  rw [← h.kind]
  congr 1
  omega

theorem kindAt_self (h : PageIs p k) : Machine.kindAt p = some k := h.kind

/-- A block register lies in its page's block. -/
theorem placeOf_block (h : PageIs p k) (h1 : 0x80 ≤ off) (h2 : off < 0x800) : placeOf (p + off) = .block := by
  have hi := h.inside
  have hm := h.mod (off := off) (by omega)
  unfold placeOf
  rw [if_neg (by omega), if_neg (by omega), hm, h.kindAt (by omega)]
  simp only [Option.isNone_some, Bool.false_eq_true, if_false]
  rw [if_neg (by omega), if_pos (by omega)]

theorem placeOf_header (h : PageIs p k) (h2 : off < 0x80) : placeOf (p + off) = .header := by
  have hi := h.inside
  have hm := h.mod (off := off) (by omega)
  unfold placeOf
  rw [if_neg (by omega), if_neg (by omega), hm, h.kindAt (by omega)]
  simp only [Option.isNone_some, Bool.false_eq_true, if_false]
  rw [if_pos (by omega)]

/-- The fields of a register, but for a key page's. -/
theorem fieldsOf (h : PageIs p k) (ho : off < 0x1000) (hk : k ≠ .parserKey) : fieldsOf (p + off) = k.fieldsAt off := by
  unfold Machine.fieldsOf
  rw [h.kindAt ho]
  simp [hk, h.mod ho]

theorem fieldAt (h : PageIs p k) (ho : off < 0x1000) (hk : k ≠ .parserKey) (f : Fld) :
    fieldAt (p + off) f = ((k.fieldsAt off).find? fun x => x.1 == f).map (·.2.1) := by
  unfold Machine.fieldAt
  rw [h.fieldsOf ho hk]

theorem isRws (h : PageIs p k) (ho : off < 0x1000) (hk : k ≠ .parserKey) :
    isRws (p + off) = (k.fieldsAt off).any fun x => x.1.acc == .rws := by
  unfold Machine.isRws
  rw [h.fieldsOf ho hk]

end PageIs

/-- The bits of every field lie in a word. -/
theorem PK.lo_lt {k : PK} : ∀ f ∈ k.flds, f.lo ≤ f.hi ∧ f.hi < 32 := by
  cases k <;> decide

/-- Where a field of a register lies. -/
theorem Fld.indexAt_addr {f : Fld} {off i j : Nat} (h : f.indexAt off = some (i, j)) (p : Nat) : f.addr p i j = p + off := by
  unfold Fld.indexAt at h
  split at h
  · cases h
  · simp only at h
    split at h
    · simp only [Option.some.injEq, Prod.mk.injEq] at h
      obtain ⟨rfl, rfl⟩ := h
      have := Nat.div_add_mod (off - f.off) f.stride
      unfold Fld.addr
      omega
    · cases h

theorem PK.mem_fieldsAt {k : PK} {off : Nat} {x : Fld × Nat × Nat} (h : x ∈ k.fieldsAt off) :
    x.1 ∈ k.flds ∧ x.1.lo < 32 ∧ ∀ p, x.1.addr p x.2.1 x.2.2 = p + off := by
  simp only [PK.fieldsAt, List.mem_filterMap, Option.map_eq_some_iff] at h
  obtain ⟨f, hf, y, hy, rfl⟩ := h
  have := PK.lo_lt f hf
  exact ⟨hf, by dsimp only; omega, fun p => Fld.indexAt_addr hy p⟩

/-- A write that the fabric takes is the store of its page, but for the two boot registers that reach beyond it. -/
theorem Dev.write_block {s : State} {m p off : Nat} {k : PK} (v : Nat) (h : s.takes m (p + off)) (hp : PageIs p k)
    (h1 : 0x80 ≤ off) (h2 : off < 0x800) (h4 : off % 4 = 0) (hb : p ≠ Pg.boot) :
    s.dev.write m (p + off) v =
      { s.dev with body := (s.dev.body.regStore m (p + off) v (s.dev.pageLocked p)).1 } := by
  have ha : (p + off) / 4 * 4 = p + off := by
    have := hp.aligned
    omega
  unfold Dev.write Dev.busWrite
  rw [ha]
  simp only [h.bar0, h.notBmc, h.reach]
  simp [Dev.pageWrite, ha, hp.placeOf_block h1 h2, hp.pageOf (show off < 0x1000 by omega), hb]

/-- A register that the fabric's write reaches: it has fields, none of them staged by Cairn. -/
def PK.plain (k : PK) (off : Nat) : Bool :=
  k != .parserKey && !(k.fieldsAt off).isEmpty && !(k.fieldsAt off).any fun x => x.1.acc == .rws

/-- A write that the fabric takes of a register without staged fields is what the rules of its page make of it. -/
theorem Dev.write_store {s : State} {m p off : Nat} {k : PK} (v : Nat) (h : s.takes m (p + off)) (hp : PageIs p k)
    (h1 : 0x80 ≤ off) (h2 : off < 0x800) (h4 : off % 4 = 0) (hb : p ≠ Pg.boot) (hk : k.plain off = true) :
    s.dev.write m (p + off) v =
      { s.dev with body := (s.dev.body.pageStore k m (p + off) v (s.dev.pageLocked p)).1 } := by
  simp only [PK.plain, Bool.and_eq_true, bne_iff_ne, Bool.not_eq_true', List.isEmpty_eq_false_iff, ne_eq] at hk
  have hi : s.dev.body.on p R.PG_RESET_BUSY = false := by
    have := h.idle
    rw [hp.pageOf (by omega)] at this
    simp [Body.on, show s.dev.body.rd p R.PG_RESET_BUSY = 0 from this]
  rw [Dev.write_block v h hp h1 h2 h4 hb]
  unfold Body.regStore
  simp only [hp.kindAt (show off < 0x1000 by omega), hp.fieldsOf (show off < 0x1000 by omega) hk.1.1, hk.1.2, if_false,
    hp.pageOf (show off < 0x1000 by omega), hi, Bool.false_eq_true, hp.isRws (show off < 0x1000 by omega) hk.1.1, hk.2]

/-- A write of a header register, but for PG_LOCK. -/
theorem Dev.write_header {s : State} {m p off : Nat} {k : PK} (v : Nat) (h : s.reaches m (p + off)) (hp : PageIs p k)
    (h2 : off < 0x80) (h4 : off % 4 = 0) (hl : off ≠ 0x64) :
    s.dev.write m (p + off) v = { s.dev with body := (s.dev.body.hdrStore m (p + off) v).1 } := by
  have ha : (p + off) / 4 * 4 = p + off := by
    have := hp.aligned
    omega
  have hg : pageOf (p + off) = Pg.boot → goes (p + off) v R.BOOT_LD_RESUME = false ∧ goes (p + off) v R.BOOT_PROV_GO = false := by
    intro he
    rw [hp.pageOf (by omega)] at he
    subst he
    have hk : k = .boot := Option.some.inj (hp.kind.symm.trans pageIs_boot.kind)
    subst hk
    have hn : ∀ f ∈ [R.BOOT_LD_RESUME, R.BOOT_PROV_GO], ((PK.boot.fieldsAt off).find? fun x => x.1 == f) = none := by
      intro f hf
      rw [List.find?_eq_none]
      intro x hx
      have := (PK.mem_fieldsAt hx).2.2 0
      have hoff : ∀ g ∈ PK.boot.flds, 0x80 ≤ g.off := by decide
      have := hoff x.1 (PK.mem_fieldsAt hx).1
      simp only [Fld.addr] at *
      omega
    simp [goes, hp.fieldAt (show off < 0x1000 by omega) (by decide), hn]
  unfold Dev.write Dev.busWrite
  rw [ha]
  simp only [h.bar0, h.notBmc, h.reach]
  simp only [Dev.pageWrite, ha, hp.placeOf_header h2, hp.mod (show off < 0x1000 by omega), hl, if_false]
  by_cases he : pageOf (p + off) = Pg.boot
  · simp [hg he]
  · simp [he]

/-- A write of PG_LOCK. -/
theorem Dev.write_lock {s : State} {m p : Nat} {k : PK} (v : Nat) (h : s.reaches m (p + 0x64)) (hp : PageIs p k) :
    s.dev.write m (p + 0x64) v = s.dev.lockPage p v := by
  have ha : (p + 0x64) / 4 * 4 = p + 0x64 := by
    have := hp.aligned
    omega
  have hg : pageOf (p + 0x64) = Pg.boot → goes (p + 0x64) v R.BOOT_LD_RESUME = false ∧ goes (p + 0x64) v R.BOOT_PROV_GO = false := by
    intro he
    rw [hp.pageOf (by omega)] at he
    subst he
    have hk : k = .boot := Option.some.inj (hp.kind.symm.trans pageIs_boot.kind)
    subst hk
    have hn : ∀ f : Fld, ((PK.boot.fieldsAt 0x64).find? fun x => x.1 == f) = none := by
      intro f
      rw [show PK.boot.fieldsAt 0x64 = [] by decide]
      rfl
    simp [goes, hp.fieldAt (show 0x64 < 0x1000 by omega) (by decide), hn]
  unfold Dev.write Dev.busWrite
  rw [ha]
  simp only [h.bar0, h.notBmc, h.reach]
  simp only [Dev.pageWrite, ha, hp.placeOf_header (show 0x64 < 0x80 by omega), hp.mod (show 0x64 < 0x1000 by omega), if_true,
    hp.pageOf (show 0x64 < 0x1000 by omega)]
  by_cases he : p = Pg.boot
  · simp [hg (by rw [hp.pageOf (by omega)]; exact he)]
  · simp [he]

end Sys2Proof.Machine
end

