-- ==== Sys2Proof/Laws/Frame.lean ====
section
/-! SUPPORT. Frames: what the operations leave alone, in a form that composes. -/

namespace Sys2Proof.Machine

/-- The registers outside some pages, the counters, entries and memories are the same. -/
structure Body.Keeps (pages : List Nat) (b c : Body) : Prop where
  regs : ∀ (q : Nat) (g : Fld) (x y : Nat), g.lo < 32 → notedAt (g.addr q x y) = false → pageOf (g.addr q x y) ∉ pages →
    c.rd q g x y = b.rd q g x y
  ctrs : c.ctrs = b.ctrs
  tbls : c.tbls = b.tbls
  mem : c.mem = b.mem

namespace Body.Keeps

variable {ps : List Nat} {b c d : Body}

theorem refl (b : Body) : Keeps ps b b := ⟨fun _ _ _ _ _ _ _ => rfl, rfl, rfl, rfl⟩

theorem trans (h : Keeps ps b c) (h' : Keeps ps c d) : Keeps ps b d :=
  ⟨fun q g x y h1 h2 h3 => (h'.regs q g x y h1 h2 h3).trans (h.regs q g x y h1 h2 h3), h'.ctrs.trans h.ctrs, h'.tbls.trans h.tbls,
    h'.mem.trans h.mem⟩

theorem mono {qs : List Nat} (h : Keeps ps b c) (hs : ∀ x ∈ ps, x ∈ qs) : Keeps qs b c :=
  ⟨fun q g x y h1 h2 h3 => h.regs q g x y h1 h2 fun hm => h3 (hs _ hm), h.ctrs, h.tbls, h.mem⟩

/-- A change of parts that hold no register, counter, entry or memory. -/
theorem of_eq (h : Keeps ps b c) (hr : d.regs = c.regs) (hc : d.ctrs = c.ctrs) (ht : d.tbls = c.tbls) (hm : d.mem = c.mem) :
    Keeps ps b d :=
  h.trans ⟨fun q g x y _ _ _ => by simp only [rd, hr], hc, ht, hm⟩

theorem wr {p i j v : Nat} {f : Fld} (h : Keeps ps b c) (hf : f.lo < 32) (hp : pageOf (f.addr p i j) ∈ ps) :
    Keeps ps b (c.wr p f v i j) :=
  h.trans ⟨fun q g x y hg _ hq => c.rd_wr_ne v hf hg (.inl fun e => hq (e ▸ hp)), by simp, by simp, by simp⟩

theorem sat {p n i : Nat} {f : Fld} (h : Keeps ps b c) (hf : f.lo < 32) (hp : pageOf (f.addr p i 0) ∈ ps) :
    Keeps ps b (c.sat p f n i) := h.wr hf hp

theorem inc {p n i : Nat} {f : Fld} (h : Keeps ps b c) (hf : f.lo < 32) (hp : pageOf (f.addr p i 0) ∈ ps) :
    Keeps ps b (c.inc p f n i) := h.wr hf hp

theorem fire {p n : Nat} (h : Keeps ps b c) (hn : n < 32) (ha : p % 0x1000 = 0) (hp : p ∈ ps) : Keeps ps b (c.fire p n) := by
  refine h.trans ⟨fun q g x y hg hq hm => ?_, by simp, by simp, by simp⟩
  have hk : ∀ k, k < 0x1000 → g.addr q x y ≠ p + k := fun k hk e => hm (by
    rw [e]
    rwa [show pageOf (p + k) = p by unfold pageOf; omega])
  simp only [notedAt, Bool.or_eq_false_iff, beq_eq_false_iff_ne, ne_eq] at hq
  exact c.rd_fire hn hg (.inl (hk 0x20 (by omega))) (hk 0x30 (by omega)) hq.1.1.1.1.1 hq.1.1.1.1.2

theorem fireLasting {p n : Nat} (h : Keeps ps b c) (hn : n < 32) (ha : p % 0x1000 = 0) (hp : p ∈ ps) :
    Keeps ps b (c.fireLasting p n) := by
  unfold Body.fireLasting
  split_ifs
  · exact h
  · exact h.fire hn ha hp

theorem holdEvent {p n : Nat} (h : Keeps ps b c) (hn : n < 32) (ha : p % 0x1000 = 0) (hp : p ∈ ps) :
    Keeps ps b (c.holdEvent p n) := by
  unfold Body.holdEvent
  split_ifs
  · exact h.fireLasting hn ha hp
  · exact h

theorem fault {p n : Nat} {x : FltInfo} (h : Keeps ps b c) (hn : n < 32) (ha : p % 0x1000 = 0) (hp : p ∈ ps) :
    Keeps ps b (c.fault p n x) := by
  refine h.trans ⟨fun q g x y hg _ hm => c.rd_fault _ hn hg (.inl fun e => hm ?_), by simp, by simp, by simp⟩
  rw [e]
  rwa [show pageOf (p + 0x40) = p by unfold pageOf; omega]

theorem report {p n : Nat} {x : FltInfo} (h : Keeps ps b c) : Keeps ps b (c.report p n x) :=
  h.of_eq (by simp) (by simp) (by simp) (by simp)

theorem emit {o : Out} (h : Keeps ps b c) : Keeps ps b (c.emit o) := h.of_eq (by simp) (by simp) (by simp) (by simp)

theorem free {w : Nat} (h : Keeps ps b c) : Keeps ps b (c.free w).2 := h.of_eq (by simp) (by simp) (by simp) (by simp)

/-- What every step of a fold keeps, the fold keeps. -/
theorem foldl {α : Type} {f : Body → α → Body} (l : List α) (h : Keeps ps b c) (hf : ∀ c, ∀ x ∈ l, Keeps ps b c → Keeps ps b (f c x)) :
    Keeps ps b (l.foldl f c) := by
  induction l generalizing c with
  | nil => exact h
  | cons x t ih => exact ih (hf c x List.mem_cons_self h) fun c y hy => hf c y (List.mem_cons_of_mem x hy)

end Body.Keeps

/-- A state whose body is what an effect and its notes made. -/
theorem State.keeps_of {s : State} {d : Dev} {ps : List Nat} (h : Body.Keeps ps s.dev.body d.body) (hs : d.sticky = s.dev.sticky) (f : Dev → Dev)
    (hf : f s.dev = d) : s.keeps { s with dev := s.dev.after f } ps where
  regs q g x y h1 h2 h3 := by
    simp only [State.reg, Dev.after_body, hf]
    rw [Body.note_rd _ _ h1 h2, h.regs q g x y h1 h2 h3]
  ctrs := by simp [hf, h.ctrs]
  tbls := by simp [hf, h.tbls]
  mem := by simp [hf, h.mem]
  sticky := by simp [hf, hs]

/-- The registers alone. -/
theorem State.sameRegs_of {s : State} {F : Dev → Dev} {ps : List Nat} (h : ∀ (q : Nat) (g : Fld) (x y : Nat), g.lo < 32 →
    notedAt (g.addr q x y) = false → pageOf (g.addr q x y) ∉ ps → (F s.dev).body.rd q g x y = s.dev.body.rd q g x y) :
    s.sameRegs { s with dev := s.dev.after F } ps := fun q g x y h1 h2 h3 => by
  rw [State.reg_after _ _ h1 h2, h q g x y h1 h2 h3]
  rfl

/-- The same for a command that changes the body alone. -/
theorem State.keeps_body {s : State} {F : Dev → Dev} {b : Body} {ps : List Nat} (hF : F s.dev = { s.dev with body := b })
    (h : Body.Keeps ps s.dev.body b) : s.keeps { s with dev := s.dev.after F } ps :=
  State.keeps_of (d := { s.dev with body := b }) h rfl F hF

/-- A register of a page's block after an event of a page. -/
theorem Body.rd_fire_block (b : Body) {p n k l : Nat} {g : Fld} (hn : n < 32) (hg : g.lo < 32) (ha : p % 0x1000 = 0) (h1 : 0x80 ≤ g.off)
    (h2 : g.off + g.stride * k + 4 * l < 0x1000) (h4 : p ≠ 0x4000) (h5 : p ≠ 0x5000) :
    (b.fire p n).rd p g k l = b.rd p g k l := by
  refine b.rd_fire hn hg (.inl ?_) ?_ ?_ ?_ <;> simp only [Fld.addr] <;> omega

/-- Another field of a repeating register, at the same index. -/
theorem Body.rd_wr_field (b : Body) {p v i j : Nat} {f g : Fld}
    (h : f.lo < 32 ∧ g.lo < 32 ∧ f.stride = g.stride ∧ (f.off ≠ g.off ∨ f.lo ≠ g.lo)) : (b.wr p f v i j).rd p g i j = b.rd p g i j := by
  refine b.rd_wr_ne v h.1 h.2.1 ?_
  simp only [Fld.addr, h.2.2.1]
  omega

end Sys2Proof.Machine
end

