-- ==== Sys2Proof/Laws/Cairn.lean ====
section
/-! SUPPORT. Cairn: its registers and slots under its own operations. -/

namespace Sys2Proof.Machine

theorem Body.slot_set (b : Body) (n : Nat) (x : Slot') : (b.setSlot n x).slot n = x := by simp [slot, setSlot, Sp.get_set_self]
theorem Body.slot_cwr (b : Body) (f : Fld) (n v k : Nat) : (b.cwr f n v).slot k = b.slot k := by simp [slot, cwr]
theorem Body.slot_fire (b : Body) (p e k : Nat) : (b.fire p e).slot k = b.slot k := by simp [slot]
theorem Body.crd_set (b : Body) (n k : Nat) (x : Slot') (f : Fld) : (b.setSlot n x).crd f k = b.crd f k := rfl
theorem Body.crd_fire (b : Body) {n k : Nat} {f : Fld} (hn : n < 32) (h : f.lo < 32 ∧ 0x80 ≤ f.off ∧ f.off + f.stride * k < 0x1000) :
    (b.fire Pg.cairn n).crd f k = b.crd f k :=
  b.rd_fire_block hn h.1 (by decide) h.2.1 (by omega) (by decide) (by decide)
theorem Body.crd_cwr_ne (b : Body) {n v : Nat} {f g : Fld} 
    (h : f.lo < 32 ∧ g.lo < 32 ∧ f.stride = g.stride ∧ (f.off ≠ g.off ∨ f.lo ≠ g.lo)) :
   
    (b.cwr f n v).crd g n = b.crd g n := b.rd_wr_field h
theorem Body.crd_cwr_self (b : Body) (n v : Nat) (f : Fld) : (b.cwr f n v).crd f n = v % 2 ^ f.width := b.rd_wr_self _ _ _ _ _
theorem Body.Keeps.cwr {b c : Body} {n v : Nat} {f : Fld} (h : Keeps [Pg.cairn] b c) (hn : n < 8) (hf : f.lo < 32 ∧ f.off < 0x140 ∧ f.stride = 0x40) :
    Keeps [Pg.cairn] b (c.cwr f n v) := h.wr hf.1 (by simp only [Fld.addr, hf.2.2, pageOf, Pg.cairn, List.mem_singleton]; omega)
theorem Body.Keeps.setSlot {ps} {b c : Body} {n : Nat} {x : Slot'} (h : Keeps ps b c) : Keeps ps b (c.setSlot n x) := h.of_eq rfl rfl rfl rfl

/-- What the end of a slot leaves. -/
theorem Body.slotDone_spec (b : Body) {n r : Nat} (hn : n < 8) :
    (b.slotDone n r).crd R.CAIRN_STATE n = CS_DONE ∧ (b.slotDone n r).crd R.CAIRN_RESULT n = r % 16 ∧ (b.slotDone n r).slot n = {} ∧
    (b.slotDone n r).rd Pg.cairn (evtPend (R.CAIRN_EVT_DONE + n)) = 1 ∧ Keeps [Pg.cairn] b (b.slotDone n r) := by
  have he : R.CAIRN_EVT_DONE + n < 32 := by simp [R.CAIRN_EVT_DONE]; omega
  unfold slotDone
  refine ⟨?_, ?_, ?_, ?_, ?_⟩
  · rw [crd_fire _ he ⟨by decide, by decide, by simp [R.CAIRN_STATE]; omega⟩, crd_cwr_ne _ (by decide), crd_cwr_self]; rfl
  · rw [crd_fire _ he ⟨by decide, by decide, by simp [R.CAIRN_RESULT]; omega⟩, crd_cwr_self]; rfl
  · simp only [slot_fire, slot_cwr, slot_set]
  · exact fire_pend _ he (by decide)
  · exact (((Keeps.refl b).setSlot.cwr hn (by decide)).cwr hn (by decide)).fire he (by decide) (by simp)

/-- The status fields that BEGIN zeroes (R67), and the slot's own settings, which it leaves. -/
def slotZeroed : List Fld := [R.CAIRN_EPOCH_TO, R.CAIRN_REG_CNT, R.CAIRN_ENT_CNT, R.CAIRN_ERRADDR, R.CAIRN_APSEC, R.CAIRN_APNS, R.CAIRN_LATE]

theorem Body.crd_zeroed (b : Body) (n : Nat) (l : List Fld) {g : Fld}
    (h : ∀ f ∈ l, f.lo < 32 ∧ g.lo < 32 ∧ f.stride = g.stride ∧ (f.off ≠ g.off ∨ f.lo ≠ g.lo)) :
    (l.foldl (fun b f => b.cwr f n 0) b).crd g n = b.crd g n := by
  induction l generalizing b with
  | nil => rfl
  | cons f t ih =>
    rw [List.foldl_cons, ih _ fun f hf => h f (List.mem_cons_of_mem _ hf), crd_cwr_ne _ (h f List.mem_cons_self)]

theorem Body.crd_zeroed_mem (b : Body) (n : Nat) (l : List Fld) {g : Fld} (hg : g ∈ l)
    (h : ∀ f ∈ l, f = g ∨ (f.lo < 32 ∧ g.lo < 32 ∧ f.stride = g.stride ∧ (f.off ≠ g.off ∨ f.lo ≠ g.lo))) :
    (l.foldl (fun b f => b.cwr f n 0) b).crd g n = 0 := by
  have key : ∀ (l : List Fld) (b : Body), (∀ f ∈ l, f = g ∨ (f.lo < 32 ∧ g.lo < 32 ∧ f.stride = g.stride ∧ (f.off ≠ g.off ∨ f.lo ≠ g.lo))) →
      (g ∈ l ∨ b.crd g n = 0) → (l.foldl (fun b f => b.cwr f n 0) b).crd g n = 0 := by
    intro l
    induction l with
    | nil =>
      intro b _ h
      exact h.resolve_left List.not_mem_nil
    | cons f t ih =>
      intro b hl hb
      refine ih _ (fun f hf => hl f (List.mem_cons_of_mem _ hf)) ?_
      by_cases hfg : f = g
      · exact .inr (by rw [hfg, crd_cwr_self, Nat.zero_mod])
      · rcases hb with hb | hb
        · exact .inl ((List.mem_cons.mp hb).resolve_left fun e => hfg e.symm)
        · exact .inr (by rw [crd_cwr_ne _ ((hl f List.mem_cons_self).resolve_left hfg), hb])
  exact key l b h (.inl hg)

theorem Body.slot_zeroed (b : Body) (n k : Nat) (l : List Fld) : (l.foldl (fun b f => b.cwr f n 0) b).slot k = b.slot k :=
  foldl_same (fun b : Body => b.slot k) _ (fun a f => slot_cwr a f n 0 k) l b

theorem Body.Keeps.zeroed {b c : Body} {n : Nat} {l : List Fld} (h : Keeps [Pg.cairn] b c) (hn : n < 8)
    (hl : ∀ f ∈ l, f.lo < 32 ∧ f.off < 0x140 ∧ f.stride = 0x40) : Keeps [Pg.cairn] b (l.foldl (fun b f => b.cwr f n 0) c) :=
  Keeps.foldl l h fun _ f hf hc => hc.cwr hn (hl f hf)

/-- A read of a field of the Cairn page through the notes. -/
theorem cairn_reg {s : State} {F : Dev → Dev} {f : Fld} {n : Nat} {b : Body} (hF : (F s.dev).body = b) (hn : n < 8)
    (hf : f.lo < 32 ∧ f.off < 0x140 ∧ (f.stride = 0x40 ∨ f.stride = 4096)) (hk : f.stride = 4096 → n = 0) :
    ({ s with dev := s.dev.after F } : State).reg Pg.cairn f n = b.crd f n := by
  simp only [State.reg, Dev.after_body, hF]
  refine Body.note_rd _ _ hf.1 ?_
  refine Body.notedAt_page ?_ ?_ ?_ <;> simp only [Fld.addr, Pg.cairn] <;>
    rcases hf.2.2 with h | h <;> first | (have := hk h; subst this; omega) | (rw [h]; omega)


end Sys2Proof.Machine
end

