-- ==== Sys2Proof/Laws/Header.lean ====
section
/-! SUPPORT. The common header: soft resets, injected events and faults. -/

namespace Sys2Proof.Machine

theorem stillKinds_rest {k : PK} (h : k ∈ stillKinds) :
    k ≠ .cairn ∧ k ≠ .pool ∧ k ≠ .icu ∧ k ≠ .parserKey ∧ k ≠ .survey ∧ k.shows = [] ∧ (∀ f ∈ k.flds, f.acc ≠ .rwl) := by
  revert h
  cases k <;> decide

/-- The registers of those pages lie in the block. -/
theorem stillKinds_block {k : PK} (h : k ∈ stillKinds) :
    ∀ f ∈ k.flds, 0x80 ≤ f.off ∧ 0 < f.cnt ∧ 0 < f.cnt2 ∧ f.off + f.stride * (f.cnt - 1) + 4 * (f.cnt2 - 1) < 0x800 := by
  revert h
  cases k <;> decide

namespace Body

variable (b : Body)

theorem softBefore_still {k : PK} (h : k ∈ stillKinds) (p : Nat) : b.softBefore p k = b := by
  revert h
  cases k <;> first | (intro h; exact absurd h (by decide)) | (intro _; rfl)

theorem softAfter_still {k : PK} (h : k ∈ stillKinds) (p : Nat) : b.softAfter p k = b := by
  revert h
  cases k <;> first | (intro h; exact absurd h (by decide)) | (intro _; rfl)

/-- A change of SUMP_MAP moves bytes and the marks of lines: no register, counter or table entry. -/
theorem sumpRemap_kept (was : Body) :
    (was.sumpRemap b).regs = b.regs ∧ (was.sumpRemap b).ctrs = b.ctrs ∧ (was.sumpRemap b).tbls = b.tbls := by
  unfold sumpRemap
  dsimp only
  split <;> exact ⟨rfl, rfl, rfl⟩

/-- A soft reset of a page that has nothing to end; on the Sump's, the lines are found where the reset masks look for them. -/
theorem softReset_still {k : PK} {p : Nat} (hp : PageIs p k) (h : k ∈ stillKinds) :
    b.softReset p = (if k = .sump then b.sumpRemap (b.regsReset p k []) else b.regsReset p k []).wr p R.PG_RESET_BUSY 1 := by
  obtain ⟨h1, h2, h3, -, -, h5, -⟩ := stillKinds_rest h
  unfold softReset
  simp only [hp.kindAt_self, h1, h2, h3, h5, if_false, false_and, softBefore_still _ h, softAfter_still _ h]

end Body

theorem Sp.get_filter_of_not {α : Type} (d : α) (m : List (Nat × α)) (q : Nat × α → Bool) (k : Nat)
    (h : ∀ v, q (k, v) = false) : Sp.get d (m.filter q) k = d := by
  induction m with
  | nil => rfl
  | cons e t ih =>
    rw [List.filter_cons]
    split
    · rename_i he
      have : e.1 ≠ k := by
        rintro rfl
        rw [h e.2] at he
        cases he
      simp [Sp.get, this, ih]
    · exact ih

/-- A block register of a page that has nothing to end, after its reset. -/
theorem Body.rd_regsReset_still (b : Body) {k : PK} {p : Nat} (h : k ∈ stillKinds) {f : Fld} (hf : f ∈ k.flds)
    {i j : Nat} (hi : i < f.cnt) (hj : j < f.cnt2) : (b.regsReset p k []).rd p f i j = f.reset i % 2 ^ f.width := by
  have hb := stillKinds_block h f hf
  have hlo := PK.lo_lt f hf
  have h1 : f.stride * i ≤ f.stride * (f.cnt - 1) := Nat.mul_le_mul_left _ (by omega)
  unfold Body.rd Body.regsReset
  dsimp only
  rw [Sp.get_filter_of_not]
  intro v
  have hk : (k.fieldsAt (f.key p i j / 32 - p)).any (fun x => x.1.lo == f.key p i j % 32 && (x.1.acc == .rwl || [].contains x.1))
      = false := by
    rw [List.any_eq_false]
    intro x hx
    have := (stillKinds_rest h).2.2.2.2.2.2 x.1 (PK.mem_fieldsAt hx).1
    simp [this]
  dsimp only
  rw [hk, Bool.or_false, Bool.or_eq_false_iff]
  constructor <;> refine decide_eq_false ?_ <;> simp only [Fld.key, Fld.addr] <;> omega

/-- A fold over a list without repeats, of which one element does something and the others nothing. -/
theorem foldl_one {α β : Type} [DecidableEq β] (f : α → β → α) (x : β) (l : List β) (a : α) (hn : l.Nodup) (hx : x ∈ l)
    (hf : ∀ a, ∀ y ∈ l, y ≠ x → f a y = a) : l.foldl f a = f a x := by
  induction l generalizing a with
  | nil => cases hx
  | cons y t ih =>
    rw [List.nodup_cons] at hn
    rw [List.foldl_cons]
    by_cases hy : y = x
    · subst hy
      have : ∀ (t : List β) (a : α), (∀ a, ∀ z ∈ t, f a z = a) → t.foldl f a = a := by
        intro t
        induction t with
        | nil => intro a _; rfl
        | cons z t ih => intro a h; rw [List.foldl_cons, h a z List.mem_cons_self, ih a fun a w hw => h a w (List.mem_cons_of_mem z hw)]
      refine this t _ fun a z hz => hf a z (List.mem_cons_of_mem y hz) ?_
      rintro rfl
      exact hn.1 hz
    · rw [hf a y List.mem_cons_self hy]
      exact ih a hn.2 ((List.mem_cons.mp hx).resolve_left (Ne.symm hy)) fun a z hz => hf a z (List.mem_cons_of_mem y hz)

/-- The events and faults of a kind are bits of a word, none named twice. -/
theorem PK.evts_bits (k : PK) : k.evts.Nodup ∧ ∀ n ∈ k.evts, n < 32 := by
  cases k <;> decide

theorem PK.flts_bits (k : PK) : k.fltBits.Nodup ∧ ∀ n ∈ k.fltBits, n < 32 := by
  cases k <;> decide

theorem bitOn_two_pow (n m : Nat) : bitOn (2 ^ n) m = decide (n = m) := by
  have h : bitOn (2 ^ n) m = Nat.testBit (2 ^ n) m := by
    rw [Nat.testBit_eq_decide_div_mod_eq, bitOn, beq_eq_decide]
  rw [h, Nat.testBit_two_pow]

/-- One event injected is the event. -/
theorem Body.evtInject_one (b : Body) {k : PK} {p n : Nat} (hp : PageIs p k) (hn : n ∈ k.evts)
    (hg : ¬ (p = Pg.governor ∧ n = R.GOV_EVT_STALL)) : b.evtInject p (2 ^ n) = b.fire p n := by
  unfold evtInject
  simp only [hp.kindAt_self]
  rw [foldl_one _ n _ _ k.evts_bits.1 hn]
  · simp [bitOn_two_pow, hg]
  · intro a y _ hy
    simp [bitOn_two_pow, Ne.symm hy]

/-- A register parity fault injected is the fault. -/
theorem Body.fltInject_parity (b : Body) {k : PK} {p : Nat} (hp : PageIs p k) :
    b.fltInject p (2 ^ FLT_REG_PARITY) = b.fault p FLT_REG_PARITY { inj := true } := by
  unfold fltInject
  simp only [hp.kindAt_self]
  rw [foldl_one _ FLT_REG_PARITY _ _ k.flts_bits.1 (by simp [PK.fltBits, FLT_REG_PARITY])]
  · simp only [bitOn_two_pow, decide_true, if_true]
    cases k <;> rfl
  · intro a y _ hy
    simp [bitOn_two_pow, Ne.symm hy]

end Sys2Proof.Machine
end

