-- ==== Sys2Proof/Laws/Port.lean ====
section
/-! SUPPORT. Ports: their registers under writes, folds, events and what follows a change of a link. -/

namespace Sys2Proof.Machine

theorem notedAt_big {a : Nat} (h : 0x100000 ≤ a) : notedAt a = false :=
  Body.notedAt_page (by omega) (by omega) (by omega)

theorem Pg.lane_ge (l : Nat) : 0x110000 ≤ Pg.lane l ∧ Pg.lane l % 0x1000 = 0 := by
  unfold Pg.lane Pg.gallery
  omega

theorem Pg.lane_inj {l k : Nat} (h : Pg.lane l = Pg.lane k) : l = k := by
  unfold Pg.lane Pg.gallery at h
  omega

/-- A fold that sets something for each element, and for the others leaves it as it is. -/
theorem foldl_sets {α β : Type} (Q : β → α → Prop) (f : α → β → α) (h1 : ∀ a x, Q x (f a x)) (h2 : ∀ a x y, Q y a → Q y (f a x)) :
    ∀ (l : List β) (a : α), ∀ x ∈ l, Q x (l.foldl f a) := by
  intro l
  induction l with
  | nil => simp
  | cons y t ih =>
    intro a x hx
    rw [List.foldl_cons]
    rcases List.mem_cons.mp hx with rfl | hx
    · exact foldl_keeps (Q x) f (fun a y h => h2 a y x h) t _ (h1 a x)
    · exact ih _ x hx


namespace Body

variable (b : Body)

theorem prd_pwr_self (l v : Nat) (f : Fld) : (b.pwr l f v).prd l f = v % 2 ^ f.width := b.rd_wr_self _ _ _ _ _

theorem prd_pwr_ne {l k v : Nat} {f g : Fld} (h : f.lo < 32 ∧ g.lo < 32 ∧ f.off < 0x1000 ∧ g.off < 0x1000 ∧ (f.off ≠ g.off ∨ f.lo ≠ g.lo)) :
    (b.pwr l f v).prd k g = b.prd k g := by
  refine b.rd_wr_ne v h.1 h.2.1 ?_
  have := (Pg.lane_ge l).2
  have := (Pg.lane_ge k).2
  simp only [Fld.addr]
  omega

theorem prd_pwr (l k v : Nat) {f : Fld} (h : f.lo < 32 ∧ f.off < 0x1000) :
    (b.pwr l f v).prd k f = if k = l then v % 2 ^ f.width else b.prd k f := by
  split_ifs with hk
  · subst hk
    exact b.prd_pwr_self k v f
  · refine b.rd_wr_ne v h.1 h.1 (.inl fun e => hk (Pg.lane_inj ?_))
    simp only [Fld.addr] at e
    omega

theorem prd_fire {k p n : Nat} {g : Fld} (hn : n < 32) (h : g.lo < 32 ∧ 0x80 ≤ g.off ∧ g.off < 0x1000) (hp : p % 0x1000 = 0) :
    (b.fire p n).prd k g = b.prd k g := by
  have := Pg.lane_ge k
  refine b.rd_fire hn h.1 (.inl ?_) ?_ ?_ ?_ <;> simp only [Fld.addr] <;> omega

theorem prd_fire_pend {k n : Nat} (hn : n < 32) : (b.fire (Pg.lane k) n).prd k (evtPend n) = 1 := b.fire_pend hn (Pg.lane_ge k).2

/-- What leaves the lane page alone leaves its registers. -/
theorem Keeps.prd {ps : List Nat} {b c : Body} (h : Keeps ps b c) {k : Nat} {g : Fld} (hg : g.lo < 32 ∧ g.off < 0x1000) (hp : Pg.lane k ∉ ps) :
    c.prd k g = b.prd k g := by
  have := Pg.lane_ge k
  refine h.regs _ _ _ _ hg.1 (notedAt_big (by simp only [Fld.addr]; omega)) ?_
  rwa [show pageOf (g.addr (Pg.lane k) 0 0) = Pg.lane k by unfold pageOf; simp only [Fld.addr]; omega]

theorem Keeps.pwr {ps : List Nat} {b c : Body} {l v : Nat} {f : Fld} (h : Keeps ps b c) (hf : f.lo < 32 ∧ f.off < 0x1000) (hp : Pg.lane l ∈ ps) :
    Keeps ps b (c.pwr l f v) := by
  have := Pg.lane_ge l
  refine h.wr hf.1 ?_
  rwa [show pageOf (f.addr (Pg.lane l) 0 0) = Pg.lane l by unfold pageOf; simp only [Fld.addr]; omega]

/-- The squelch of the recovered clocks changes the clock page alone. -/
theorem Keeps.synce {ps : List Nat} {b c : Body} (h : Keeps ps b c) (hp : Pg.clocks ∈ ps) : Keeps ps b c.synceUpdate := by
  refine Keeps.foldl _ h fun d k hk hd => ?_
  have hk4 : k < 4 := List.mem_range.mp hk
  have hm : pageOf (R.SYNCE_SQUELCHED.addr Pg.clocks k 0) ∈ ps := by
    rwa [show pageOf (R.SYNCE_SQUELCHED.addr Pg.clocks k 0) = Pg.clocks by
      unfold pageOf
      simp only [Fld.addr, Pg.clocks, R.SYNCE_SQUELCHED]
      omega]
  dsimp only
  split_ifs
  · exact (hd.wr (by decide) hm).fire (by decide) (by decide) hp
  · exact hd.wr (by decide) hm

/-- The fill sizes of a Gallery's wake are on its power page. -/
theorem Keeps.wakeFill {ps : List Nat} {b c : Body} {g : Nat} (h : Keeps ps b c) (hp : Pg.galPower g ∈ ps) : Keeps ps b (c.wakeFill g) := by
  have hm : ∀ f ∈ [R.GAL_FILL_NAP, R.GAL_FILL_DOZE], pageOf (f.addr (Pg.galPower g) 0 0) ∈ ps := by
    intro f hf
    rwa [show pageOf (f.addr (Pg.galPower g) 0 0) = Pg.galPower g by
      have : f.off < 0x1000 := by revert f; decide
      unfold pageOf
      simp only [Fld.addr, Pg.galPower, Pg.gallery]
      omega]
  exact (h.wr (by decide) (hm _ (by simp))).wr (by decide) (hm _ (by simp))

theorem Pg.galPower_ne_lane (g l : Nat) : Pg.galPower g ≠ Pg.lane l := by
  unfold Pg.galPower Pg.lane Pg.gallery
  omega

theorem synce_prd (k : Nat) {g : Fld} (hg : g.lo < 32 ∧ g.off < 0x1000) : b.synceUpdate.prd k g = b.prd k g :=
  ((Keeps.refl b).synce (List.mem_singleton.mpr rfl)).prd hg fun h => by
    have := (Pg.lane_ge k).1
    rw [List.mem_singleton.mp h] at this
    simp [Pg.clocks] at this

theorem wakeFill_prd (k n : Nat) {g : Fld} (hg : g.lo < 32 ∧ g.off < 0x1000) : (b.wakeFill n).prd k g = b.prd k g :=
  ((Keeps.refl b).wakeFill (List.mem_singleton.mpr rfl)).prd hg fun h => Pg.galPower_ne_lane n k (List.mem_singleton.mp h).symm

end Body

/-- A register of a lane page after a command. -/
theorem State.prd_after (s : State) (F : Dev → Dev) {k : Nat} {g : Fld} (hg : g.lo < 32) :
    ({ s with dev := s.dev.after F } : State).reg (Pg.lane k) g = (F s.dev).body.prd k g := by
  have := (Pg.lane_ge k).1
  exact s.reg_after F hg (notedAt_big (by simp only [Fld.addr]; omega))

theorem State.lane_evt_after (s : State) (F : Dev → Dev) {k n : Nat} (hn : n < 32) :
    ({ s with dev := s.dev.after F } : State).evt (Pg.lane k) n ↔ (F s.dev).body.prd k (evtPend n) = 1 := by
  have := (Pg.lane_ge k).1
  exact s.evt_after F hn (notedAt_big (by omega))

end Sys2Proof.Machine
end

