-- ==== Sys2Proof/Laws/Pool.lean ====
section
/-! SUPPORT. Pools: a buffer taken is one that was free, and what the operations of the Pool manager leave alone. -/

namespace Sys2Proof.Machine

/-! Rising lists. -/

theorem mem_insertNat {x y : Nat} {l : List Nat} : y ∈ Body.insertNat x l ↔ y = x ∨ y ∈ l := by
  induction l with
  | nil => simp [Body.insertNat]
  | cons z t ih =>
    unfold Body.insertNat
    split_ifs with h1 h2
    · simp
    · subst h2; simp
    · rw [List.mem_cons, ih, List.mem_cons]; tauto

theorem insertNat_rising {x : Nat} {l : List Nat} (h : l.Pairwise (· < ·)) : (Body.insertNat x l).Pairwise (· < ·) := by
  induction l with
  | nil => simp [Body.insertNat]
  | cons z t ih =>
    rw [List.pairwise_cons] at h
    unfold Body.insertNat
    split_ifs with h1 h2
    · refine List.pairwise_cons.mpr ⟨fun y hy => ?_, List.pairwise_cons.mpr h⟩
      rcases List.mem_cons.mp hy with rfl | hy
      · exact h1
      · exact h1.trans (h.1 y hy)
    · exact List.pairwise_cons.mpr h
    · refine List.pairwise_cons.mpr ⟨fun y hy => ?_, ih h.2⟩
      rcases mem_insertNat.mp hy with rfl | hy
      · omega
      · exact h.1 y hy

theorem insertNat_foldl {l : List Nat} : ∀ {a : List Nat}, a.Pairwise (· < ·) →
    (l.foldl (fun l x => Body.insertNat x l) a).Pairwise (· < ·) ∧ ∀ y ∈ a, y ∈ l.foldl (fun l x => Body.insertNat x l) a := by
  induction l with
  | nil => exact fun h => ⟨h, fun _ h => h⟩
  | cons x t ih =>
    intro a h
    have := ih (a := Body.insertNat x a) (insertNat_rising h)
    exact ⟨this.1, fun y hy => this.2 y (mem_insertNat.mpr (.inr hy))⟩

/-- An index counted through the free ones is free. -/
theorem Body.nthFree_notMem {l : List Nat} : ∀ {k : Nat}, l.Pairwise (· < ·) → Body.nthFree k l ∉ l ∧ k ≤ Body.nthFree k l := by
  induction l with
  | nil => simp [Body.nthFree]
  | cons x t ih =>
    intro k h
    rw [List.pairwise_cons] at h
    unfold Body.nthFree
    split
    · rename_i hx
      have := @ih (k + 1) h.2
      refine ⟨?_, by omega⟩
      rw [List.mem_cons, not_or]
      exact ⟨by omega, this.1⟩
    · rename_i hx
      refine ⟨?_, le_refl _⟩
      rw [List.mem_cons, not_or]
      exact ⟨by omega, fun hk => by have := h.1 k hk; omega⟩

theorem Pg.pool_page (n : Nat) : 0xF00000 ≤ Pg.pool n ∧ Pg.pool n % 0x1000 = 0 := by unfold Pg.pool; omega

theorem Pg.pool_inj {n k : Nat} (h : Pg.pool n = Pg.pool k) : n = k := by unfold Pg.pool at h; omega

/-- Another register of a page, or other bits of the same one. -/
theorem Body.rd_wr_other (b : Body) {p v : Nat} {f g : Fld} (h : f.lo < 32 ∧ g.lo < 32 ∧ (f.off ≠ g.off ∨ f.lo ≠ g.lo)) :
    (b.wr p f v).rd p g = b.rd p g := by
  refine b.rd_wr_ne v h.1 h.2.1 ?_
  simp only [Fld.addr]
  omega

/-- A register of another page. -/
theorem Body.rd_wr_page (b : Body) {p q v : Nat} {f g : Fld} (hp : p % 0x1000 = 0) (hq : q % 0x1000 = 0) (h : p ≠ q)
    (hf : f.lo < 32 ∧ g.lo < 32 ∧ f.off < 0x1000 ∧ g.off < 0x1000) : (b.wr p f v).rd q g = b.rd q g := by
  refine b.rd_wr_ne v hf.1 hf.2.1 (.inl ?_)
  simp only [Fld.addr]
  omega


/-- A register of a pool after an event of its page. -/
theorem pool_fire {b : Body} {n e : Nat} {g : Fld} (he : e < 32) (hg : g.lo < 32 ∧ g.off < 0x1000 ∧ (0x80 ≤ g.off ∨ g = R.PG_EN)) :
    (b.fire (Pg.pool n) e).rd (Pg.pool n) g = b.rd (Pg.pool n) g := by
  have := Pg.pool_page n
  refine b.rd_fire he hg.1 (.inl ?_) ?_ ?_ ?_ <;> simp only [Fld.addr] <;>
   rcases hg.2.2 with h | rfl <;> simp [R.PG_EN] at * <;> omega

theorem pool_fire_keeps {b : Body} {n e : Nat} (he : e < 32) : Body.Keeps [Pg.pool n] b (b.fire (Pg.pool n) e) :=
  (Body.Keeps.refl b).fire he (Pg.pool_page n).2 (by simp)

theorem pool_noted (n : Nat) (f : Fld) : notedAt (f.addr (Pg.pool n) 0 0) = false := notedAt_big (by have := Pg.pool_page n; simp only [Fld.addr]; omega)

theorem pool_noted' (n : Nat) : notedAt (Pg.pool n + 0x20) = false := notedAt_big (by have := Pg.pool_page n; omega)

/-- Other fields of a pool's page, or any of another pool's. -/
theorem pool_wr {b : Body} {n k v : Nat} {f g : Fld} (h : f.lo < 32 ∧ g.lo < 32 ∧ f.off < 0x1000 ∧ g.off < 0x1000 ∧ (f.off ≠ g.off ∨ f.lo ≠ g.lo)) :
    (b.wr (Pg.pool n) f v).rd (Pg.pool k) g = b.rd (Pg.pool k) g := by
  by_cases hk : n = k
  · subst hk; exact b.rd_wr_other ⟨h.1, h.2.1, h.2.2.2.2⟩
  · exact b.rd_wr_page (Pg.pool_page n).2 (Pg.pool_page k).2 (fun h => hk (Pg.pool_inj h)) ⟨h.1, h.2.1, h.2.2.1, h.2.2.2.1⟩

theorem pool_in (n : Nat) (f : Fld) (hf : f.off < 0x1000) : pageOf (f.addr (Pg.pool n) 0 0) = Pg.pool n := by
  have := Pg.pool_page n; simp [pageOf, Fld.addr]; omega

/-- The lowest free count noted: another field of a pool, and the components that stay. -/
theorem Body.minNote_rd (b : Body) (n was now k : Nat) {g : Fld} (h : g.lo < 32 ∧ g.off < 0x1000 ∧ (g.off ≠ R.POOL_MIN.off ∨ g.lo ≠ R.POOL_MIN.lo)) :
    (b.minNote n was now).rd (Pg.pool k) g = b.rd (Pg.pool k) g :=
  pool_wr (f := R.POOL_MIN) ⟨by decide, h.1, by decide, h.2.1, by rcases h.2.2 with h | h; exacts [.inl (Ne.symm h), .inr (Ne.symm h)]⟩

@[simp] theorem Body.minNote_rest (b : Body) (n was now : Nat) :
    (b.minNote n was now).allocOf = b.allocOf ∧ (b.minNote n was now).buf.queues = b.buf.queues ∧
    (b.minNote n was now).buf.cells = b.buf.cells ∧ (b.minNote n was now).buf.seq = b.buf.seq ∧
    (b.minNote n was now).pipe = b.pipe ∧ (b.minNote n was now).sch = b.sch ∧ (b.minNote n was now).tbls = b.tbls ∧
    (b.minNote n was now).mem = b.mem ∧ (b.minNote n was now).far = b.far ∧ (b.minNote n was now).hbm = b.hbm ∧
    (b.minNote n was now).marks = b.marks := ⟨rfl, rfl, rfl, rfl, rfl, rfl, rfl, rfl, rfl, rfl, rfl⟩

theorem Body.Keeps.minNote {b c : Body} {n was now : Nat} (h : Body.Keeps [Pg.pool n] b c) : Body.Keeps [Pg.pool n] b (c.minNote n was now) := by
  refine Body.Keeps.of_eq (c := c.wr (Pg.pool n) R.POOL_MIN _) (h.wr (f := R.POOL_MIN) (by decide) ?_) rfl rfl rfl rfl
  rw [pool_in _ _ (by decide)]; simp

/-- A buffer taken was free, is allocated, and one less is free. -/
theorem poolTake_spec (b : Body) (n : Nat) (hr : (b.allocOf n).Pairwise (· < ·)) :
    (b.poolTake n).1 ∉ b.allocOf n ∧ (b.poolTake n).2.allocOf n = Body.insertNat (b.poolTake n).1 (b.allocOf n) ∧
    (b.poolTake n).2.rd (Pg.pool n) R.POOL_FREE_CNT = b.rd (Pg.pool n) R.POOL_FREE_CNT - 1 ∧
    Body.Keeps [Pg.pool n] b (b.poolTake n).2 := by
  set free := b.prd' n R.POOL_FREE_CNT with hfree
  set i := Body.nthFree (Config.freeValue b.fresh 28 % 2 ^ 28 % free) ((b.deadOf n).foldl (fun l x => Body.insertNat x l) (b.allocOf n)) with hi
  have hsort := insertNat_foldl (l := b.deadOf n) hr
  set b1 := ((((b.free 28).2.setAlloc n (Body.insertNat i (b.allocOf n))).wr (Pg.pool n) R.POOL_FREE_CNT (free - 1)).minNote n free (free - 1)) with hb1
  set b2 := if free - 1 = b1.prd' n R.POOL_WARN then b1.fire (Pg.pool n) R.POOL_EVT_WARN else b1 with hb2
  set b3 := if free - 1 = b2.prd' n R.POOL_CRIT then b2.fire (Pg.pool n) R.POOL_EVT_CRIT else b2 with hb3
  set b4 := if free - 1 = 0 then b3.fire (Pg.pool n) R.POOL_EVT_EMPTY else b3 with hb4
  set b5 : Body := if b4.buf.bitArm.contains n then
      { b4 with buf := { b4.buf with bitArm := b4.buf.bitArm.erase n, bitBad := (n, i) :: b4.buf.bitBad } } else b4 with hb5
  have hT : b.poolTake n = (i, b5.ledIn (Body.ledPool n) 1) := rfl
  have hfl : free < 2 ^ 28 := b.rd_lt _ R.POOL_FREE_CNT 0 0
  have ha1 : b1.allocOf n = Body.insertNat i (b.allocOf n) := by
    show Sp.get [] (Sp.set [] _ n _) n = _
    rw [Sp.get_set_self]
  have hr1 : b1.rd (Pg.pool n) R.POOL_FREE_CNT = free - 1 := by
    rw [hb1, Body.minNote_rd _ _ _ _ _ (g := R.POOL_FREE_CNT) (by decide), Body.rd_wr_self]
    exact Nat.mod_eq_of_lt (show free - 1 < 2 ^ 28 by omega)
  have hk1 : Body.Keeps [Pg.pool n] b b1 := by
    have hk0 : Body.Keeps [Pg.pool n] b ((b.free 28).2.setAlloc n (Body.insertNat i (b.allocOf n))) :=
      Body.Keeps.of_eq (c := (b.free 28).2) (Body.Keeps.refl b).free rfl rfl rfl rfl
    exact (hk0.wr (f := R.POOL_FREE_CNT) (by decide) (by rw [pool_in _ _ (by decide)]; simp)).minNote
  have st : ∀ (c d : Body) (p : Prop) [Decidable p] (e : Nat), e < 32 → (c.allocOf n = Body.insertNat i (b.allocOf n) ∧ c.rd (Pg.pool n) R.POOL_FREE_CNT = free - 1 ∧ Body.Keeps [Pg.pool n] b c) →
     d = (if p then c.fire (Pg.pool n) e else c) → (d.allocOf n = Body.insertNat i (b.allocOf n) ∧ d.rd (Pg.pool n) R.POOL_FREE_CNT = free - 1 ∧ Body.Keeps [Pg.pool n] b d) := by
    intro c d p _ e he h hd
    subst hd
    split
    · refine ⟨?_, (pool_fire he (by decide)).trans h.2.1, h.2.2.fire he (Pg.pool_page n).2 (by simp)⟩
      simp only [Body.allocOf, Body.fire_rest]; exact h.1
    · exact h
  have h2 := st b1 b2 _ _ (by decide) ⟨ha1, hr1, hk1⟩ hb2
  have h3 := st b2 b3 _ _ (by decide) h2 hb3
  have h4 := st b3 b4 _ _ (by decide) h3 hb4
  have h5 : b5.allocOf n = Body.insertNat i (b.allocOf n) ∧ b5.rd (Pg.pool n) R.POOL_FREE_CNT = free - 1 ∧ Body.Keeps [Pg.pool n] b b5 := by
    rw [hb5]
    split
    · exact ⟨h4.1, h4.2.1, h4.2.2.of_eq rfl rfl rfl rfl⟩
    · exact h4
  rw [hT]
  refine ⟨fun hc => ?_, ?_, ?_, ?_⟩
  · exact (Body.nthFree_notMem (k := Config.freeValue b.fresh 28 % 2 ^ 28 % free) hsort.1).1 (hsort.2 _ hc)
  · simp only [Body.allocOf, Body.ledIn_rest]; exact h5.1
  · rw [Body.ledIn_rd]; exact h5.2.1
  · exact h5.2.2.of_eq (by simp) (by simp) (by simp) (by simp)

theorem poolFor_lt {b : Body} {o mem size k : Nat} (h : b.poolFor o mem size = some k) : k < 16 := by
  unfold Body.poolFor at h
  have key : ∀ (l : List Nat) (a : Option Nat), (∀ x ∈ l, x < 16) → (∀ x ∈ a, x < 16) → ∀ x ∈ l.foldl (fun x n => match x with
      | none => some n
      | some m => if b.poolSize n < b.poolSize m then some n else x) a, x < 16 := by
    intro l
    induction l with
    | nil => intro a _ h; exact h
    | cons y t ih =>
      intro a hl ha
      refine ih _ (fun x hx => hl x (List.mem_cons_of_mem _ hx)) ?_
      have hy := hl y List.mem_cons_self
      rcases a with _ | m
      · intro x hx; simp at hx; omega
      · dsimp only; split_ifs
        · intro x hx; simp at hx; omega
        · exact ha
  exact key _ none (fun x hx => List.mem_range.mp (List.mem_of_mem_filter hx)) (by simp) k h

/-- What taking a buffer leaves alone. -/
theorem poolTake_rest (b : Body) (n : Nat) : (b.poolTake n).2.buf.queues = b.buf.queues ∧ (b.poolTake n).2.buf.cells = b.buf.cells ∧
    (b.poolTake n).2.buf.seq = b.buf.seq ∧ (b.poolTake n).2.pipe = b.pipe ∧ (b.poolTake n).2.sch = b.sch ∧ (b.poolTake n).2.tbls = b.tbls ∧
    (b.poolTake n).2.mem = b.mem ∧ (b.poolTake n).2.far = b.far ∧ (b.poolTake n).2.hbm = b.hbm := by
  unfold Body.poolTake
  dsimp only
  split_ifs <;> simp [Body.setAlloc]

end Sys2Proof.Machine
end

