-- ==== Sys2Proof/Laws/Chamber.lean ====
section
/-! SUPPORT. The buffers, packets and engines that counts, gauges, events and flow control leave alone, and what the
operations on queues and cells make of them. -/

namespace Sys2Proof.Machine

/-- What registers, counts, events and flow control leave alone. -/
def Body.still (b : Body) : BufSt × PipeSt × SchSt × HbmSt × FarSt × GrtSt × HostSt × StatSt × MemSt × List (Nat × Nat) × EchoSt :=
  (b.buf, b.pipe, b.sch, b.hbm, b.far, b.grt, b.host, b.stat, b.mem, b.tbls, b.echo)

namespace Body

variable (b : Body)

theorem still_eq {b c : Body} (h : c.still = b.still) : c.buf = b.buf ∧ c.pipe = b.pipe ∧ c.sch = b.sch ∧ c.hbm = b.hbm ∧ c.far = b.far ∧
    c.grt = b.grt ∧ c.host = b.host ∧ c.stat = b.stat ∧ c.mem = b.mem ∧ c.tbls = b.tbls ∧ c.echo = b.echo := by
  simpa [still] using h

@[simp] theorem still_wr (p : Nat) (f : Fld) (v i j : Nat) : (b.wr p f v i j).still = b.still := rfl
@[simp] theorem still_pwr (p : Nat) (f : Fld) (v : Nat) : (b.pwr p f v).still = b.still := rfl
@[simp] theorem still_sat (p : Nat) (f : Fld) (n i : Nat) : (b.sat p f n i).still = b.still := rfl
@[simp] theorem still_inc (p : Nat) (f : Fld) (n i : Nat) : (b.inc p f n i).still = b.still := rfl
@[simp] theorem still_count (p i n : Nat) : (b.count p i n).still = b.still := rfl
@[simp] theorem still_emit (o : Out) : (b.emit o).still = b.still := rfl
@[simp] theorem still_free (w : Nat) : (b.free w).2.still = b.still := rfl
@[simp] theorem still_ledIn (l n : Nat) : (b.ledIn l n).still = b.still := rfl
@[simp] theorem still_ledOut (l n : Nat) : (b.ledOut l n).still = b.still := rfl
@[simp] theorem still_svyBump (k i e n : Nat) : (b.svyBump k i e n).still = b.still := by simp [still]
@[simp] theorem still_fire (p n : Nat) : (b.fire p n).still = b.still := by simp [still]
@[simp] theorem still_fireLasting (p n : Nat) : (b.fireLasting p n).still = b.still := by simp [still]
@[simp] theorem still_fault (p n : Nat) (x : FltInfo) : (b.fault p n x).still = b.still := by simp [still]
@[simp] theorem still_lose (l n : Nat) : (b.lose l n).still = b.still := by simp [still]
@[simp] theorem still_net (n : NetSt) : ({ b with net := n } : Body).still = b.still := rfl
@[simp] theorem still_rim (r : RimSt) : ({ b with rim := r } : Body).still = b.still := rfl

@[simp] theorem still_galBusy (g : Nat) : (b.galBusy g).still = b.still := rfl
@[simp] theorem still_headCount (g : Nat) : (b.headCount g).still = b.still := rfl
@[simp] theorem still_mark (k : Nat) : (b.mark k).still = b.still := rfl
@[simp] theorem still_sendPfc (p v q : Nat) : (b.sendPfc p v q).still = b.still := by
  unfold sendPfc; split <;> simp
@[simp] theorem still_xoffUpdate (p : Nat) (r : Bool) : (b.xoffUpdate p r).still = b.still := by
  unfold xoffUpdate; dsimp only; split_ifs <;> simp
@[simp] theorem still_profCount (q i n : Nat) : (b.profCount q i n).still = b.still := rfl
@[simp] theorem still_chmPfc (p i : Nat) : (b.chmPfc p i).still = b.still := by
  unfold chmPfc; dsimp only; split_ifs <;> simp
@[simp] theorem still_chmPfcAll (ks : List (Nat × Nat)) : (b.chmPfcAll ks).still = b.still := by
  unfold chmPfcAll
  exact foldl_same still _ (fun a x => still_chmPfc a _ _) _ _
@[simp] theorem still_chmRefresh : b.chmRefresh.still = b.still := by unfold chmRefresh; simp
@[simp] theorem still_chmChanged (ks : List (Nat × Nat)) : (b.chmChanged ks).still = b.still := by unfold chmChanged; simp
@[simp] theorem still_noteLate (q : Nat) (l : Bool) : (b.noteLate q l).still = b.still := by unfold noteLate; split_ifs <;> simp
@[simp] theorem still_noteHead (g s n : Nat) : (b.noteHead g s n).still = b.still := by
  unfold noteHead; dsimp only; split_ifs <;> simp
@[simp] theorem still_noteSent (p n : Nat) : (b.noteSent p n).still = b.still := by unfold noteSent; simp
@[simp] theorem still_entLevel (g : Nat) : (b.entLevel g).still = b.still := by unfold entLevel; simp
@[simp] theorem still_pfcEntrance (p : Nat) : (b.pfcEntrance p).still = b.still := by
  unfold pfcEntrance; dsimp only; split_ifs <;> simp
@[simp] theorem still_entChanged (p : Nat) : (b.entChanged p).still = b.still := by unfold entChanged; simp

/-- A queue after it is set, and the other queues. -/
theorem queueOf_setQueue (q : Nat) (x : Queue) :
    ∃ n, (b.setQueue q x).queueOf q = { x with bucketAt := n } ∧ ∀ k, k ≠ q → (b.setQueue q x).queueOf k = b.queueOf k := by
  unfold setQueue
  dsimp only
  split
  · refine ⟨b.buf.seq, ?_, fun k hk => ?_⟩
    · show Sp.get ({} : Queue) (Sp.set ({} : Queue) _ q _) q = _
      rw [Sp.get_set_self]
    · exact Sp.get_set_of_ne ({} : Queue) ({} : Queue) _ _ hk
  · refine ⟨x.bucketAt, ?_, fun k hk => ?_⟩
    · show Sp.get ({} : Queue) (Sp.set ({} : Queue) _ q _) q = _
      rw [Sp.get_set_self]
    · exact Sp.get_set_of_ne ({} : Queue) ({} : Queue) _ _ hk

/-- What a queue set leaves alone. -/
@[simp] theorem setQueue_rest (q : Nat) (x : Queue) :
    (b.setQueue q x).buf.cells = b.buf.cells ∧ (b.setQueue q x).buf.alloc = b.buf.alloc ∧ (b.setQueue q x).buf.orphans = b.buf.orphans ∧
    (b.setQueue q x).regs = b.regs ∧ (b.setQueue q x).ctrs = b.ctrs ∧ (b.setQueue q x).pipe = b.pipe ∧ (b.setQueue q x).sch = b.sch ∧
    (b.setQueue q x).hbm = b.hbm ∧ (b.setQueue q x).far = b.far ∧ (b.setQueue q x).grt = b.grt ∧ (b.setQueue q x).host = b.host ∧
    (b.setQueue q x).stat = b.stat ∧ (b.setQueue q x).mem = b.mem ∧ (b.setQueue q x).tbls = b.tbls ∧ (b.setQueue q x).net = b.net ∧
    (b.setQueue q x).rim = b.rim ∧ (b.setQueue q x).out = b.out ∧ (b.setQueue q x).irq = b.irq ∧ (b.setQueue q x).fresh = b.fresh ∧
    (b.setQueue q x).lamp = b.lamp ∧ (b.setQueue q x).cairn = b.cairn := by
  unfold setQueue
  dsimp only
  split <;> exact ⟨rfl, rfl, rfl, rfl, rfl, rfl, rfl, rfl, rfl, rfl, rfl, rfl, rfl, rfl, rfl, rfl, rfl, rfl, rfl, rfl, rfl⟩

/-- Cells taken, given up or charged change the cells and the free list alone. -/
def OnlyCells (b c : Body) : Prop := ∃ l n, c = { b with buf := { b.buf with cells := l, freeList := n } }

theorem OnlyCells.refl : OnlyCells b b := ⟨b.buf.cells, b.buf.freeList, rfl⟩

theorem OnlyCells.foldl {α : Type} {f : Body → α → Body} (hf : ∀ c x, OnlyCells c (f c x)) (l : List α) : ∀ b, OnlyCells b (l.foldl f b) := by
  induction l with
  | nil => exact OnlyCells.refl
  | cons x t ih =>
    intro b
    obtain ⟨k, n, hk⟩ := hf b x
    obtain ⟨m, o, hm⟩ := ih (f b x)
    exact ⟨m, o, by rw [List.foldl_cons, hm, hk]⟩

theorem freeCells_only (l : List Nat) : OnlyCells b (b.freeCells l) :=
  OnlyCells.foldl (fun _ _ => by dsimp only; split_ifs <;> exact ⟨_, _, rfl⟩) l b

theorem takeCells_only (l : List Nat) : OnlyCells b (b.takeCells l) :=
  OnlyCells.foldl (fun _ _ => by dsimp only; split_ifs <;> exact ⟨_, _, rfl⟩) l b

theorem chargeCells_only (l : List Nat) (c : Cls) : OnlyCells b (b.chargeCells l c) :=
  OnlyCells.foldl (fun b _ => by dsimp only; split_ifs; exacts [⟨_, _, rfl⟩, .refl b]) l b

/-- A packet that nothing names any more changes the packets alone. -/
theorem reap_only (pid q : Nat) : ∃ l, b.reap pid q = { b with pipe := { b.pipe with pkts := l } } := by
  unfold reap
  split
  · exact ⟨b.pipe.pkts, rfl⟩
  · exact ⟨_, rfl⟩

/-- Some packets reaped. -/
theorem reaps_only {α : Type} (f : Body → α → Body) (hf : ∀ c x, ∃ l, f c x = { c with pipe := { c.pipe with pkts := l } }) (l : List α) :
    ∀ b, ∃ m, l.foldl f b = { b with pipe := { b.pipe with pkts := m } } := by
  induction l with
  | nil => exact fun b => ⟨b.pipe.pkts, rfl⟩
  | cons x t ih =>
    intro b
    obtain ⟨k, hk⟩ := hf b x
    obtain ⟨m, hm⟩ := ih (f b x)
    exact ⟨m, by rw [List.foldl_cons, hm, hk]⟩

end Body

end Sys2Proof.Machine
end

