-- ==== Sys2Proof/Laws/Flow.lean ====
section
/-! SUPPORT. The lookups and actions of the pipeline: they leave the network side, the places of packets between stages, the
tables and the memories alone. -/

namespace Sys2Proof.Machine

/-- What the stages that look up and act leave alone. -/
def Body.flow (b : Body) : NetSt × List Nat × List (Nat × List Nat) × List (Nat × List InjPkt) × Nat × MemSt × List (Nat × Nat) :=
  (b.net, b.pipe.stage7, b.pipe.rcyHold, b.pipe.injQ, b.pipe.nextPid, b.mem, b.tbls)

namespace Body

variable (b : Body)

theorem flow_eq {b c : Body} (h : c.flow = b.flow) : c.net = b.net ∧ c.pipe.stage7 = b.pipe.stage7 ∧ c.pipe.rcyHold = b.pipe.rcyHold ∧
    c.pipe.injQ = b.pipe.injQ ∧ c.pipe.nextPid = b.pipe.nextPid ∧ c.mem = b.mem ∧ c.tbls = b.tbls := by
  simpa [flow] using h

@[simp] theorem flow_wr (p : Nat) (f : Fld) (v i j : Nat) : (b.wr p f v i j).flow = b.flow := rfl
@[simp] theorem flow_sat (p : Nat) (f : Fld) (n i : Nat) : (b.sat p f n i).flow = b.flow := rfl
@[simp] theorem flow_count (p i n : Nat) : (b.count p i n).flow = b.flow := rfl
@[simp] theorem flow_ledIn (l n : Nat) : (b.ledIn l n).flow = b.flow := rfl
@[simp] theorem flow_ledOut (l n : Nat) : (b.ledOut l n).flow = b.flow := rfl
@[simp] theorem flow_svyBump (k i e n : Nat) : (b.svyBump k i e n).flow = b.flow := by simp [flow]
@[simp] theorem flow_fire (p n : Nat) : (b.fire p n).flow = b.flow := by simp [flow]
@[simp] theorem flow_fault (p n : Nat) (x : FltInfo) : (b.fault p n x).flow = b.flow := by simp [flow]
@[simp] theorem flow_lose (l n : Nat) : (b.lose l n).flow = b.flow := by simp [flow]
@[simp] theorem flow_setPol (i : Nat) (s : PolSt) : (b.setPol i s).flow = b.flow := rfl
@[simp] theorem flow_polBad (l : List Nat) : ({ b with pipe := { b.pipe with polBad := l } } : Body).flow = b.flow := rfl
@[simp] theorem flow_parserArm (l : List Nat) : ({ b with pipe := { b.pipe with parserArm := l } } : Body).flow = b.flow := rfl
@[simp] theorem flow_ucodeArm (l : List Nat) : ({ b with pipe := { b.pipe with ucodeArm := l } } : Body).flow = b.flow := rfl
@[simp] theorem flow_galBusy (g : Nat) : (b.galBusy g).flow = b.flow := rfl
@[simp] theorem flow_headCount (g : Nat) : (b.headCount g).flow = b.flow := rfl
@[simp] theorem flow_mirrored : b.mirrored.2.flow = b.flow := rfl
@[simp] theorem flow_putPkt (i : Nat) (p : Pkt) : (b.putPkt i p).flow = b.flow := rfl
@[simp] theorem flow_delPkt (i : Nat) : (b.delPkt i).flow = b.flow := rfl
@[simp] theorem flow_setCell (i : Nat) (c : CellSt) : (b.setCell i c).flow = b.flow := rfl
@[simp] theorem flow_setQueue (q : Nat) (x : Queue) : (b.setQueue q x).flow = b.flow := by simp [flow]
@[simp] theorem flow_profCount (q i n : Nat) : (b.profCount q i n).flow = b.flow := rfl
@[simp] theorem flow_setAlloc (n : Nat) (l : List Nat) : (b.setAlloc n l).flow = b.flow := rfl

theorem OnlyCells.flow {b c : Body} (h : OnlyCells b c) : c.flow = b.flow := by
  obtain ⟨l, n, rfl⟩ := h
  rfl

@[simp] theorem flow_freeCells (l : List Nat) : (b.freeCells l).flow = b.flow := (b.freeCells_only l).flow
@[simp] theorem flow_takeCells (l : List Nat) : (b.takeCells l).flow = b.flow := (b.takeCells_only l).flow
@[simp] theorem flow_chargeCells (l : List Nat) (c : Cls) : (b.chargeCells l c).flow = b.flow := (b.chargeCells_only l c).flow
@[simp] theorem flow_chmRefresh : b.chmRefresh.flow = b.flow := by unfold chmRefresh; simp

/-! The classifier and the lookups. -/

@[simp] theorem flow_clsReport (k i : Nat) : (b.clsReport k i).flow = b.flow := by unfold clsReport; dsimp only; split_ifs <;> simp

@[simp] theorem flow_clsVerify (seq key w t : Nat) (l : List Nat) : ∀ (n : Nat) (b : Body), (b.clsVerify seq key w t n l).1.flow = b.flow := by
  induction l with
  | nil => intro n b; cases n <;> simp [clsVerify]
  | cons i l ih =>
    intro n b
    cases n with
    | zero => simp [clsVerify]
    | succ n =>
      unfold clsVerify
      split
      · rfl
      · dsimp only
        split_ifs
        · simp
        · rw [ih]; simp

@[simp] theorem flow_clsOne (seq g port : Nat) (p2 : Bool) (fe fp : Fld) (h : HV) (w : List Byte) :
    (b.clsOne seq g port p2 fe fp h w).1.flow = b.flow := by
  unfold clsOne clsSearch
  dsimp only
  split_ifs
  · rfl
  · rfl
  · have := flow_clsVerify seq (b.clsKey seq g (b.rdV seq (Pg.parserPort g) fp (parIdx port p2)) h w)
      (b.rdV seq (Pg.parserKey g (b.rdV seq (Pg.parserPort g) fp (parIdx port p2))) R.KP_WIDTH (b.rdV seq (Pg.parserPort g) fp (parIdx port p2) % 20))
      (b.rdV seq (Pg.parserKey g (b.rdV seq (Pg.parserPort g) fp (parIdx port p2))) R.KP_TAG (b.rdV seq (Pg.parserPort g) fp (parIdx port p2) % 20))
      ((b.entIdxs Tbl.cls).filter (fun i => b.camMatch seq
        (b.clsKey seq g (b.rdV seq (Pg.parserPort g) fp (parIdx port p2)) h w)
        (b.rdV seq (Pg.parserKey g (b.rdV seq (Pg.parserPort g) fp (parIdx port p2))) R.KP_WIDTH (b.rdV seq (Pg.parserPort g) fp (parIdx port p2) % 20))
        (b.rdV seq (Pg.parserKey g (b.rdV seq (Pg.parserPort g) fp (parIdx port p2))) R.KP_TAG (b.rdV seq (Pg.parserPort g) fp (parIdx port p2) % 20)) i)) 4 b
    split <;> (rename_i heq; rw [heq] at this; exact this)

@[simp] theorem flow_classify (seq g port : Nat) (p2 : Bool) (h : HV) (w : List Byte) : (b.classify seq g port p2 h w).1.flow = b.flow := by
  unfold classify
  simp

@[simp] theorem flow_exmParity (l : List XLoc) : (b.exmParity l).flow = b.flow := by
  unfold exmParity
  refine foldl_same flow _ (fun a x => ?_) _ _
  dsimp only
  split_ifs <;> simp

@[simp] theorem flow_exmFind (seq : Nat) (k : XKey) : (b.exmFind seq k).1.flow = b.flow := by
  unfold exmFind
  dsimp only
  split_ifs <;> simp

@[simp] theorem flow_lpmParity : b.lpmParity.flow = b.flow := by unfold lpmParity; simp
@[simp] theorem flow_nhParity : b.nhParity.flow = b.flow := by unfold nhParity; simp
@[simp] theorem flow_chainErr : b.chainErr.flow = b.flow := by unfold chainErr; simp

@[simp] theorem flow_trieWalk (seq w addr : Nat) : ∀ (fuel line p : Nat) (ms : List (Nat × Nat)) (b : Body),
    (b.trieWalk seq w addr fuel line p ms).1.flow = b.flow := by
  intro fuel
  induction fuel with
  | zero => intro line p ms b; simp [trieWalk]
  | succ fuel ih =>
    intro line p ms b
    unfold trieWalk
    dsimp only
    split_ifs
    · simp
    · exact ih _ _ _ _
    · rfl

@[simp] theorem flow_dsVerify (seq vrf fam addr : Nat) (l : List (Nat × Nat × Bool)) : ∀ (n m : Nat) (r : DsRes) (b : Body),
    (b.dsVerify seq vrf fam addr n m l r).1.flow = b.flow := by
  induction l with
  | nil => intro n m r b; cases n <;> simp [dsVerify]
  | cons x l ih =>
    obtain ⟨i, len, wd⟩ := x
    intro n m r b
    cases n with
    | zero => simp [dsVerify]
    | succ n =>
      unfold dsVerify
      dsimp only
      split
      · split
        · simp
        · simp
        · rw [ih]; simp
      · split
        · rw [ih]
        · rfl

@[simp] theorem flow_dsSearch (seq vrf fam addr : Nat) : (b.dsSearch seq vrf fam addr).1.flow = b.flow := by
  unfold dsSearch
  simp

@[simp] theorem flow_longest (seq missNh : Nat) (ds : DsRes) (ms : List (Nat × Nat)) : ∀ (len reads : Nat) (b : Body),
    (b.longest seq missNh ds ms reads len).1.flow = b.flow := by
  intro len
  induction len with
  | zero =>
    intro reads b
    unfold longest
    dsimp only
    repeat' (split <;> try rfl)
    all_goals simp
  | succ len ih =>
    intro reads b
    unfold longest
    dsimp only
    repeat' (split <;> try rfl)
    all_goals (try (rw [ih])) <;> simp

@[simp] theorem flow_lpm (seq vrf fam addr : Nat) : (b.lpm seq vrf fam addr).1.flow = b.flow := by
  unfold lpm
  dsimp only
  split_ifs <;> simp

@[simp] theorem flow_lookupIp (seq lkp vrf : Nat) (h : HV) : (b.lookupIp seq lkp vrf h).1.flow = b.flow := by
  unfold lookupIp
  dsimp only
  split_ifs <;> (try rfl) <;> split <;> simp

@[simp] theorem flow_lookupFirst (seq port : Nat) (h : HV) : (b.lookupFirst seq port h).1.flow = b.flow := by
  unfold lookupFirst
  dsimp only
  split_ifs <;> (try rfl)
  · split <;> simp
  · simp

@[simp] theorem flow_ecmpMember (seq grp hash : Nat) : (b.ecmpMember seq grp hash).1.flow = b.flow := by
  unfold ecmpMember
  dsimp only
  split_ifs <;> simp

@[simp] theorem flow_chain (seq lkp : Nat) (h : HV) : ∀ (fuel nh : Nat) (m : Bool) (r : Route) (b : Body),
    (b.chain seq lkp h fuel nh m r).1.flow = b.flow := by
  intro fuel
  induction fuel with
  | zero => intro nh m r b; simp [chain]
  | succ fuel ih =>
    intro nh m r b
    unfold chain
    dsimp only
    split_ifs <;> (try rfl) <;> (try (simp; done)) <;> split <;> rename_i heq <;>
      have h2 := congrArg (fun y => y.1.flow) heq.symm <;> simp only [flow_ecmpMember, flow_lookupIp] at h2
    all_goals first | exact h2 | (rw [ih]; exact h2)

@[simp] theorem flow_route (seq port : Nat) (h : HV) (rd : Option Nat) : (b.route seq port h rd).1.flow = b.flow := by
  unfold route
  dsimp only
  have := flow_lookupFirst b seq port h
  split
  · rw [flow_chain]; exact this
  · exact this
  · rw [flow_chain]; exact this

@[simp] theorem flow_encRead (seq idx : Nat) : (b.encRead seq idx).1.flow = b.flow := by
  unfold encRead
  dsimp only
  split_ifs <;> simp

/-! The action engines. -/

@[simp] theorem flow_polHeal (i : Nat) : (b.polHeal i).flow = b.flow := by
  unfold polHeal
  dsimp only
  split_ifs
  iterate 2
    · rw [flow_fault, flow_sat]
      refine (flow_polBad _ _).trans ?_
      rw [flow_lose, flow_setPol, flow_mirrored]
  · rfl

@[simp] theorem flow_police (seq g i inp len : Nat) : (b.police seq g i inp len).1.flow = b.flow := by
  unfold police
  split
  · exact flow_fire _ _ _
  · split
    · exact (flow_fire _ _ _).trans (flow_sat _ _ _ _ _)
    · dsimp only
      split
      · exact flow_fire _ _ _
      · split
        · exact (flow_setPol _ _ _).trans ((flow_ledOut _ _ _).trans ((flow_ledIn _ _ _).trans (flow_polHeal _ _)))
        · exact flow_polHeal _ _

@[simp] theorem flow_nextIpId (g : Nat) (df : Bool) : (b.nextIpId g df).1.flow = b.flow := by
  unfold nextIpId; dsimp only; split_ifs <;> rfl

@[simp] theorem flow_bookRoute (g : Nat) (d : RouteDrop) (p : Pkt) (st : List Nat) : (b.bookRoute g d p st).1.flow = b.flow := by
  unfold bookRoute; cases d <;> simp

@[simp] theorem flow_takeMal (seq g : Nat) (p : Pkt) (r act : Nat) : (b.takeMal seq g p r act).1.flow = b.flow := by
  unfold takeMal; dsimp only; split_ifs <;> (try rfl) <;> split <;> rfl

@[simp] theorem flow_policers (seq g : Nat) (p : Pkt) (c : Comb) : (b.policers seq g p c).1.flow = b.flow := by
  have one : ∀ (b : Body) (p : Pkt) (i : Option Nat) (dscp : Option Nat) (drop : Bool),
      (match i with
        | none => (b, p, dscp, drop)
        | some i =>
          match b.police seq g i (if p.colour = 3 then 0 else p.colour) p.hv.len with
          | (b, none, cn) => (b, { p with cnts := p.cnts ++ cn }, dscp, drop)
          | (b, some (col, cfg), cn) =>
            let (d, x) := colourAct col cfg dscp
            (b, { p with colour := col, cnts := p.cnts ++ cn }, d, drop || x)).1.flow = b.flow := by
    intro b p i dscp drop
    cases i with
    | none => rfl
    | some i =>
      have := flow_police b seq g i (if p.colour = 3 then 0 else p.colour) p.hv.len
      dsimp only
      split <;> rename_i heq <;> rw [heq] at this <;> exact this
  unfold policers
  dsimp only
  exact (one _ _ _ _ _).trans (one _ _ _ _ _)

end Body

end Sys2Proof.Machine
end

