-- ==== Sys2Proof/Laws/Go.lean ====
section
/-! SUPPORT. A register written through one of its fields, its other writable fields as they stand: what word is written, and what
the register holds before the action of that field. -/

namespace Sys2Proof.Machine

/-- The bits of a register's fields, the highest first, do not overlap. -/
def fieldsApart (l : List (Fld × Nat × Nat)) : Prop :=
  l.Pairwise (fun x y => y.1.hi < x.1.lo) ∧ ∀ x ∈ l, x.1.lo ≤ x.1.hi ∧ x.1.hi < 32

/-- A word made of the values of fields. -/
def fieldWord (l : List (Fld × Nat × Nat)) (g : Fld × Nat × Nat → Nat) : Nat := (l.map fun x => g x * 2 ^ x.1.lo).sum

theorem fieldWord_lt {l : List (Fld × Nat × Nat)} {g : Fld × Nat × Nat → Nat} (h : fieldsApart l) (hg : ∀ x ∈ l, g x < 2 ^ x.1.width) {n : Nat}
    (hn : ∀ x ∈ l, x.1.hi < n) : fieldWord l g < 2 ^ n := by
  induction l generalizing n with
  | nil => simp [fieldWord]
  | cons x t ih =>
    have hp := List.pairwise_cons.mp h.1
    have ht := ih ⟨hp.2, fun y hy => h.2 y (List.mem_cons_of_mem x hy)⟩ (fun y hy => hg y (List.mem_cons_of_mem x hy)) (n := x.1.lo)
      fun y hy => hp.1 y hy
    have hx := hg x List.mem_cons_self
    have h1 := h.2 x List.mem_cons_self
    have h2 := hn x List.mem_cons_self
    have hw : 2 ^ x.1.width * 2 ^ x.1.lo ≤ 2 ^ n := by
      rw [← Nat.pow_add]
      exact Nat.pow_le_pow_right (by decide) (by unfold Fld.width; omega)
    have : (g x + 1) * 2 ^ x.1.lo ≤ 2 ^ x.1.width * 2 ^ x.1.lo := Nat.mul_le_mul_right _ hx
    simp only [fieldWord, List.map_cons, List.sum_cons] at ht ⊢
    rw [Nat.add_mul] at this
    omega

theorem of_fieldWord {l : List (Fld × Nat × Nat)} {g : Fld × Nat × Nat → Nat} (h : fieldsApart l) (hg : ∀ x ∈ l, g x < 2 ^ x.1.width)
    {x : Fld × Nat × Nat} (hx : x ∈ l) : x.1.of (fieldWord l g) = g x := by
  induction l with
  | nil => simp at hx
  | cons y t ih =>
    have hp := List.pairwise_cons.mp h.1
    have hat : fieldsApart t := ⟨hp.2, fun z hz => h.2 z (List.mem_cons_of_mem y hz)⟩
    have hgt : ∀ z ∈ t, g z < 2 ^ z.1.width := fun z hz => hg z (List.mem_cons_of_mem y hz)
    have hcons : fieldWord (y :: t) g = g y * 2 ^ y.1.lo + fieldWord t g := by simp [fieldWord]
    rw [hcons]
    rcases List.mem_cons.mp hx with rfl | hx
    · have ht := fieldWord_lt hat hgt (n := x.1.lo) hp.1
      have hw : x.1.hi + 1 - x.1.lo = x.1.width := rfl
      unfold Fld.of bitField
      rw [hw, Nat.add_comm, Nat.add_mul_div_right _ _ (Nat.two_pow_pos _), Nat.div_eq_of_lt ht, Nat.zero_add,
        Nat.mod_eq_of_lt (hg x List.mem_cons_self)]
    · have hlt := hp.1 x hx
      have h1 := hat.2 x hx
      obtain ⟨k, hk⟩ : ∃ k, y.1.lo = x.1.lo + (x.1.width + k) := ⟨y.1.lo - x.1.lo - x.1.width, by unfold Fld.width; omega⟩
      rw [← ih hat hgt hx]
      unfold Fld.of bitField
      rw [show x.1.hi + 1 - x.1.lo = x.1.width from rfl, hk, Nat.pow_add, Nat.pow_add, Nat.add_comm,
        show g y * (2 ^ x.1.lo * (2 ^ x.1.width * 2 ^ k)) = g y * (2 ^ x.1.width * 2 ^ k) * 2 ^ x.1.lo by ac_rfl,
        Nat.add_mul_div_right _ _ (Nat.two_pow_pos _),
        show g y * (2 ^ x.1.width * 2 ^ k) = g y * 2 ^ k * 2 ^ x.1.width by ac_rfl, Nat.add_mul_mod_self_right]

/-- The value of a field in the word that `put` writes. -/
def Body.putVal (b : Body) (p : Nat) (f : Fld) (v : Nat) (x : Fld × Nat × Nat) : Nat :=
  if x.1 = f then v % 2 ^ f.width
  else if x.1.acc = .rw ∨ x.1.acc = .rws ∨ x.1.acc = .rwl then b.rd p x.1 x.2.1 x.2.2 else 0

/-- The word that `put` writes. -/
theorem Body.keepWord_put (b : Body) {a p v : Nat} {f : Fld} {l : List (Fld × Nat × Nat)} (hl : fieldsOf a = l) (hp : pageOf a = p)
    (hf : (l.filter fun x => x.1 = f).length = 1) :
    b.keepWord a f + v % 2 ^ f.width * 2 ^ f.lo = fieldWord l (b.putVal p f v) := by
  unfold keepWord
  rw [hl, hp]
  clear hl
  have key : ∀ (l : List (Fld × Nat × Nat)) (n : Nat), l.foldl (fun v x =>
      if x.1 = f ∨ ¬ (x.1.acc = .rw ∨ x.1.acc = .rws ∨ x.1.acc = .rwl) then v
      else v + b.rd p x.1 x.2.1 x.2.2 * 2 ^ x.1.lo) n + (l.filter fun x => x.1 = f).length * (v % 2 ^ f.width * 2 ^ f.lo) =
      n + fieldWord l (b.putVal p f v) := by
    intro l
    induction l with
    | nil => intro n; simp [fieldWord]
    | cons x t ih =>
      intro n
      have hc : fieldWord (x :: t) (b.putVal p f v) = b.putVal p f v x * 2 ^ x.1.lo + fieldWord t (b.putVal p f v) := by simp [fieldWord]
      rw [List.foldl_cons, hc]
      by_cases h1 : x.1 = f
      · have := ih n
        have h2 : b.putVal p f v x = v % 2 ^ f.width := if_pos h1
        rw [if_pos (.inl h1), List.filter_cons_of_pos (by simpa using h1), List.length_cons, Nat.add_mul, h2, h1]
        omega
      · rw [List.filter_cons_of_neg (by simpa using h1)]
        by_cases h3 : x.1.acc = .rw ∨ x.1.acc = .rws ∨ x.1.acc = .rwl
        · have := ih (n + b.rd p x.1 x.2.1 x.2.2 * 2 ^ x.1.lo)
          have h2 : b.putVal p f v x = b.rd p x.1 x.2.1 x.2.2 := (if_neg h1).trans (if_pos h3)
          rw [if_neg (by simp [h1, h3]), h2]
          omega
        · have := ih n
          have h2 : b.putVal p f v x = 0 := (if_neg h1).trans (if_neg h3)
          rw [if_pos (.inr h3), h2]
          omega
  have := key l 0
  rw [hf] at this
  omega

/-- What the store of a register leaves before the action of a field: every field reads as it did. -/
structure Body.Shown (p off : Nat) (l : List (Fld × Nat × Nat)) (b c : Body) : Prop where
  only : c = { b with regs := c.regs }
  same : ∀ (q : Nat) (g : Fld) (i j : Nat), g.lo < 32 → g.addr q i j ≠ p + off → c.rd q g i j = b.rd q g i j
  here : ∀ x ∈ l, c.rd p x.1 x.2.1 x.2.2 = b.rd p x.1 x.2.1 x.2.2

/-- A word whose RW fields hold what they held, and whose other fields change nothing. -/
theorem Body.takeBits_shown (b : Body) {p off v : Nat} {l : List (Fld × Nat × Nat)} (hl : fieldsOf (p + off) = l) (hp : pageOf (p + off) = p)
    (ha : ∀ x ∈ l, x.1.addr p x.2.1 x.2.2 = p + off) (hap : fieldsApart l)
    (hv : ∀ x ∈ l, (x.1.acc = .rw → x.1.of v = b.rd p x.1 x.2.1 x.2.2) ∧ x.1.acc ≠ .w1c ∧ (x.1.acc = .w1s → x.1.of v = 0)) :
    Body.Shown p off l b (b.takeBits (p + off) v) := by
  unfold takeBits
  rw [hl, hp]
  dsimp only
  have key : ∀ (t : List (Fld × Nat × Nat)) (c : Body), (∀ x ∈ t, x ∈ l) → Body.Shown p off l b c →
      Body.Shown p off l b (t.foldl (fun b x =>
        if ([] : List Fld).contains x.1 then b
        else match x.1.acc with
          | .rw => b.wr p x.1 (x.1.of v) x.2.1 x.2.2
          | .w1c => b.wr p x.1 (b.rd p x.1 x.2.1 x.2.2 - (b.rd p x.1 x.2.1 x.2.2 &&& x.1.of v)) x.2.1 x.2.2
          | .w1s => b.wr p x.1 (b.rd p x.1 x.2.1 x.2.2 ||| x.1.of v) x.2.1 x.2.2
          | _ => b) c) := by
    intro t
    induction t with
    | nil => exact fun c _ h => h
    | cons x t ih =>
      intro c ht hc
      rw [List.foldl_cons]
      refine ih _ (fun y hy => ht y (List.mem_cons_of_mem x hy)) ?_
      have hx := ht x List.mem_cons_self
      have hb := hap.2 x hx
      have hput : ∀ n, n = c.rd p x.1 x.2.1 x.2.2 → Body.Shown p off l b (c.wr p x.1 n x.2.1 x.2.2) := by
        intro n hn
        refine ⟨?_, fun q g i j hg hq => ?_, fun y hy => ?_⟩
        · rw [hc.only]; rfl
        · rw [rd_wr_ne _ n (by omega) hg (.inl (by rw [ha x hx]; exact hq)), hc.same q g i j hg hq]
        · by_cases hxy : y = x
          · rw [hxy, rd_wr_self, hn, Nat.mod_eq_of_lt (c.rd_lt _ _ _ _), hc.here x hx]
          · rw [rd_wr_ne _ n (by omega) (by have := hap.2 y hy; omega) (.inr ?_), hc.here y hy]
            have : ∀ (l : List (Fld × Nat × Nat)), l.Pairwise (fun x y => y.1.hi < x.1.lo) → (∀ z ∈ l, z.1.lo ≤ z.1.hi) → x ∈ l → y ∈ l →
                y.1.lo ≠ x.1.lo := by
              intro l
              induction l with
              | nil => intro _ _ h; simp at h
              | cons z u ihu =>
                intro hpw hlo h1 h2
                have hpc := List.pairwise_cons.mp hpw
                rcases List.mem_cons.mp h1 with rfl | k1 <;> rcases List.mem_cons.mp h2 with rfl | k2
                · exact absurd rfl hxy
                · have := hpc.1 y k2; have := hlo y (List.mem_cons_of_mem _ k2); omega
                · have := hpc.1 x k1; have := hlo x (List.mem_cons_of_mem _ k1); omega
                · exact ihu hpc.2 (fun w hw => hlo w (List.mem_cons_of_mem _ hw)) k1 k2
            exact this l hap.1 (fun z hz => (hap.2 z hz).1) hx hy
      have hvx := hv x hx
      rw [if_neg (by simp)]
      split
      · rename_i h; exact hput _ ((hvx.1 h).trans (hc.here x hx).symm)
      · rename_i h; exact absurd h hvx.2.1
      · rename_i h; exact hput _ (by rw [hvx.2.2 h, Nat.or_zero])
      · exact hc
  exact key l b (fun _ h => h) ⟨rfl, fun _ _ _ _ _ _ => rfl, fun _ _ => rfl⟩

/-- The fields of a register as `decide` sees them. -/
def goOk (l : List (Fld × Nat × Nat)) (f : Fld) : Bool :=
  decide (l.Pairwise fun x y => y.1.hi < x.1.lo) && (l.all fun x => decide (x.1.lo ≤ x.1.hi ∧ x.1.hi < 32)) &&
    (l.filter fun x => x.1 = f).length == 1 && f.acc != .rw && f.acc != .w1s && f.acc != .w1c && l.all fun x => x.1.acc != .w1c && x.1.acc != .rws

/-- A write through a field that is itself not stored: the register's fields read as they did, and the field's value stands in the
word. -/
theorem Dev.put_go {s : State} {m p off i v : Nat} {k : PK} {f : Fld} {act : Body → Body} (h : s.takes m (p + off)) (hp : PageIs p k)
    (h1 : 0x80 ≤ off) (h2 : off < 0x800) (h4 : off % 4 = 0) (hb : p ≠ Pg.boot) (hpl : k.plain off = true) (hf : f.addr p i 0 = p + off)
    (hgo : goOk (k.fieldsAt off) f = true)
    (hst : ∀ w lk, f.of w = v % 2 ^ f.width → (∀ x ∈ k.fieldsAt off, x.1.of w = s.dev.body.putVal p f v x) →
      (s.dev.body.pageStore k m (p + off) w lk).1 = act (s.dev.body.takeBits (p + off) w)) :
    ∃ c, Body.Shown p off (k.fieldsAt off) s.dev.body c ∧ s.dev.put m p f i v = { s.dev with body := act c } := by
  have hk : k ≠ .parserKey := by
    have := hpl; simp only [PK.plain, Bool.and_eq_true, bne_iff_ne] at this; exact this.1.1
  have hl := hp.fieldsOf (off := off) (by omega) hk
  simp only [goOk, Bool.and_eq_true, decide_eq_true_eq, List.all_eq_true, beq_iff_eq, bne_iff_ne] at hgo
  obtain ⟨⟨⟨⟨⟨⟨g1, g2⟩, g3⟩, g4⟩, g5⟩, g6⟩, g7⟩ := hgo
  have hap : fieldsApart (k.fieldsAt off) := ⟨g1, fun x hx => by simpa using g2 x hx⟩
  have hw := s.dev.body.keepWord_put (v := v) hl (hp.pageOf (off := off) (by omega)) g3
  have hlt : ∀ x ∈ k.fieldsAt off, s.dev.body.putVal p f v x < 2 ^ x.1.width := by
    intro x hx
    unfold Body.putVal
    split_ifs with a b
    · rw [a]; exact Nat.mod_lt _ (Nat.two_pow_pos _)
    · exact Body.rd_lt _ _ _ _ _
    · exact Nat.two_pow_pos _
  have hof : ∀ x ∈ k.fieldsAt off, x.1.of (fieldWord (k.fieldsAt off) (s.dev.body.putVal p f v)) = s.dev.body.putVal p f v x :=
    fun x hx => of_fieldWord hap hlt hx
  refine ⟨s.dev.body.takeBits (p + off) (fieldWord (k.fieldsAt off) (s.dev.body.putVal p f v)), ?_, ?_⟩
  · refine Body.takeBits_shown _ hl (hp.pageOf (off := off) (by omega)) (fun x hx => (PK.mem_fieldsAt hx).2.2 p) hap fun x hx => ?_
    rw [hof x hx]
    have hx7 := g7 x hx
    refine ⟨fun hr => ?_, hx7.1, fun hs => ?_⟩
    · exact (if_neg (fun e : x.1 = f => g4 (by rw [← e]; exact hr))).trans (if_pos (.inl hr))
    · exact (if_neg (fun e : x.1 = f => g5 (by rw [← e]; exact hs))).trans (if_neg (by rw [hs]; decide))
  · obtain ⟨x, hx, hxf⟩ : ∃ x ∈ k.fieldsAt off, x.1 = f := by
      obtain ⟨x, hx⟩ := List.length_eq_one_iff.mp g3
      have : x ∈ (k.fieldsAt off).filter fun x => x.1 = f := by rw [hx]; exact List.mem_singleton.mpr rfl
      exact ⟨x, (List.mem_filter.mp this).1, by simpa using (List.mem_filter.mp this).2⟩
    unfold Dev.put
    dsimp only
    rw [hf, hw, Dev.write_store _ h hp h1 h2 h4 hb hpl]
    have e := (hof x hx).trans (if_pos hxf)
    rw [hxf] at e
    rw [hst _ _ e hof]

/-- What the store leaves before the action keeps every page but this one. -/
theorem Body.Shown.keeps {p off : Nat} {k : PK} {b c : Body} (h : Body.Shown p off (k.fieldsAt off) b c) (hp : PageIs p k) (ho : off < 0x1000)
    {ps : List Nat} (hm : p ∈ ps) : Body.Keeps ps b c where
  regs q g x y hg _ hq := h.same q g x y hg fun e => hq (by rw [e, hp.pageOf ho]; exact hm)
  ctrs := by rw [h.only]
  tbls := by rw [h.only]
  mem := by rw [h.only]

/-- A word whose GO bit is set acts. -/
theorem Body.takeGo_act (b : Body) {a v : Nat} {f : Fld} (act : Body → Body) (h : (fieldAt a f).isSome = true) (hv : f.of v = 1) :
    (b.takeGo a v f act).1 = act (b.takeBits a v) := by
  unfold takeGo goes
  rw [h, hv]
  rfl

end Sys2Proof.Machine
end

