-- ==== Sys2Proof/Laws/Pipeline.lean ====
section
/-! SUPPORT. The action engines as a whole, and the pipeline. -/

namespace Sys2Proof.Machine
namespace Body
variable (b : Body)
@[simp] theorem flow_describe (seq g : Nat) (p : Pkt) (r : Route) (enc : Nat) (dec : Bool) (dscp : Option Nat) (sid : Option (Nat × List Byte)) :
    (b.describe seq g p r enc dec dscp sid).1.flow = b.flow := by
  unfold describe
  have := flow_encRead b seq enc
  split
  · rename_i heq
    rw [heq] at this
    exact this
  · rename_i heq
    rw [heq] at this
    extract_lets
    split
    · exact this
    · split
      · exact this
      · split
        rename_i heq2
        refine (congrArg (fun y => y.1.flow) heq2.symm).trans (Eq.trans ?_ this)
        clear heq2
        clear * -
        split
        · rfl
        · split
          · rfl
          · split
            · split
              rename_i heq3
              have h3 := congrArg (fun y => y.1.flow) heq3.symm
              simp only [flow_nextIpId] at h3
              extract_lets
              split <;> exact h3
            · split
              · rfl
              · split
                · rfl
                · split <;> rfl

@[simp] theorem flow_finishAct (seq g : Nat) (p : Pkt) (c : Comb) (r : Route) (pl : Plan) (dec : Bool) (dscp : Option Nat) :
    (b.finishAct seq g p c r pl dec dscp).1.flow = b.flow := by
  unfold finishAct
  extract_lets
  split
  · split
    · rfl
    · split <;> rfl
  · split
    · split
      · rfl
      · extract_lets
        split <;> rename_i heq <;> have h2 := congrArg (fun y => y.1.flow) heq.symm <;> simp only [flow_describe] at h2
        · exact (flow_bookRoute _ _ _ _ _).trans h2
        · exact h2
        · exact h2
    · split
      · rfl
      · extract_lets
        split
        rename_i heq
        exact congrArg (fun y => y.1.flow) heq.symm
    · extract_lets
      split
      · rfl
      · split
        rename_i heq
        exact congrArg (fun y => y.1.flow) heq.symm
    · rfl
    · exact flow_bookRoute _ _ _ _ _

@[simp] theorem flow_actForward (seq g port : Nat) (p : Pkt) (ra rb : Option ClsRes) (nr : Bool) :
    (b.actForward seq g port p ra rb nr).1.flow = b.flow := by
  unfold actForward
  extract_lets c hv p0 p' x
  split
  rename_i b1 r heq
  have h1 : b1.flow = b.flow := by
    have := congrArg (fun y => y.1.flow) heq.symm
    simpa using this
  extract_lets pla lost plb
  split
  · exact h1
  · clear_value plb
    cases plb
    · exact h1
    · exact (flow_bookRoute _ _ _ _ _).trans h1
    all_goals
      dsimp only
      split
      · exact (flow_policers _ _ _ _ _).trans h1
      · have h2 : ∀ pl, ((b1.policers seq g p' c).1.finishAct seq g (b1.policers seq g p' c).2.1 c r pl x
            (b1.policers seq g p' c).2.2.1).1.flow = b.flow := fun pl =>
          (flow_finishAct _ _ _ _ _ _ _ _ _).trans ((flow_policers _ _ _ _ _).trans h1)
        split
        · exact h2 _
        · exact (flow_fault _ _ _ _).trans ((flow_fire _ _ _).trans (h2 _))

@[simp] theorem flow_pipeline (seq g port : Nat) (p : Pkt) (inj : Option (List Byte)) : (b.pipeline seq g port p inj).1.flow = b.flow := by
  unfold pipeline
  extract_lets win
  split
  rename_i b1 ra rb exh heq
  have h1 : b1.flow = b.flow := by
    have := congrArg (fun y => y.1.flow) heq.symm
    simpa using this
  extract_lets
  split
  rename_i b2 p2 heq2
  have h2 : b2.flow = b.flow := by
    have := congrArg (fun y => y.1.flow) heq2.symm
    refine this.trans (Eq.trans ?_ h1)
    split <;> rfl
  split
  · exact (flow_fault _ _ _ _).trans h2
  · split
    · exact (flow_fault _ _ _ _).trans ((flow_fire _ _ _).trans h2)
    · split
      split
      · exact h2
      · split
        · split
          rename_i heq4
          have h4 := congrArg (fun y => y.1.flow) heq4.symm
          simp only [flow_route] at h4
          split
          · exact h4.trans h2
          · exact h4.trans h2
        · split
          · exact (flow_takeMal _ _ _ _ _ _).trans h2
          · exact (flow_takeMal _ _ _ _ _ _).trans h2
          · exact (flow_takeMal _ _ _ _ _ _).trans h2
          · split
            · rename_i heq5
              have h5 := congrArg (fun y => y.1.flow) heq5.symm
              simp only [flow_actForward] at h5
              exact h5.trans h2
            · rename_i heq5
              have h5 := congrArg (fun y => y.1.flow) heq5.symm
              simp only [flow_actForward] at h5
              extract_lets
              split
              · exact (flow_actForward _ _ _ _ _ _ _ _).trans h2
              · exact (flow_takeMal _ _ _ _ _ _).trans (h5.trans h2)
              · exact h5.trans h2

/-! Admission and the dispatch of a head. -/

theorem flow_reap (pid q : Nat) : (b.reap pid q).flow = b.flow := by unfold reap; split <;> rfl

theorem flow_leaves (pid : Nat) : (b.leaves pid).flow = b.flow := by unfold leaves modPkt; split <;> rfl

theorem flow_dropLastPkt (q : Nat) : (b.dropLastPkt q).flow = b.flow := by
  unfold dropLastPkt
  extract_lets
  split
  · rfl
  · refine (flow_reap _ _ _).trans ((flow_leaves _ _).trans ?_)
    rw [flow_ledOut, flow_freeCells, flow_setQueue]

theorem flow_pushStep (lvl : Nat) (n : Nat) : ∀ (b : Body) (k : Int) (c : Body), b.pushStep lvl k n = some c → c.flow = b.flow := by
  induction n with
  | zero => intro b k c h; simp [pushStep] at h
  | succ n ih =>
    intro b k c h
    unfold pushStep at h
    split at h
    · cases h
    · rename_i v _
      dsimp only at h
      have h1 : ((b.dropLastPkt v.1).profCount v.1 ADM_PUSHED).flow = b.flow := by rw [flow_profCount, flow_dropLastPkt]
      split at h
      · cases h; exact h1
      · exact (ih _ _ _ h).trans h1

theorem flow_pushOut (q : Nat) (k : Int) (c : Body) (h : b.pushOut q k = some c) : c.flow = b.flow := by
  unfold pushOut at h
  extract_lets at h
  split at h
  · rw [Option.map_eq_some_iff] at h
    obtain ⟨d, hd, rfl⟩ := h
    rw [flow_fire, flow_profCount]
    exact flow_pushStep _ _ _ _ _ hd
  · cases h

theorem flow_admDecide (q colour n : Nat) : (b.admDecide q colour n).1.flow = b.flow := by
  have tail : ∀ b : Body, (if ¬ b.spillAllowed colour false then (b, AdmRes.drop ADM_DROP_SPAN)
      else if b.clsFree .bklg < n then (b.fire Pg.chm R.CHM_EVT_BKLG_FULL, AdmRes.drop ADM_DROP_BKLG)
      else (b, AdmRes.charge .bklg)).1.flow = b.flow := by
    intro b
    split_ifs <;> first | rfl | exact flow_fire _ _ _
  unfold admDecide
  extract_lets pr x col tl
  split
  · rfl
  · split
    · rfl
    · split
      · exact tail _
      · split
        · split
          · rfl
          · split
            · rename_i h; exact flow_pushOut _ _ _ _ h
            · split <;> rfl
        · split
          · split <;> rfl
          · exact (tail _).trans (flow_setQueue _ _ _)

theorem flow_tryJoin (q : Nat) : (b.tryJoin q).flow = b.flow := by
  unfold tryJoin
  extract_lets
  split
  · exact flow_setQueue _ _ _
  · rfl

theorem flow_trimHoles (q : Nat) : (b.trimHoles q).flow = b.flow := by
  unfold trimHoles
  extract_lets
  split
  · rfl
  · refine (foldl_same flow _ (fun c x => flow_reap _ _ _) _ _).trans ?_
    rw [flow_setQueue, flow_freeCells]

theorem flow_joinQueue (q : Nat) : (b.joinQueue q).flow = b.flow := by
  unfold joinQueue
  rw [flow_tryJoin, flow_trimHoles, flow_tryJoin, flow_trimHoles]

theorem flow_admitPkt (pid : Nat) (p : Pkt) : (b.admitPkt pid p).1.flow = b.flow := by
  unfold admitPkt
  extract_lets q n
  split <;> rename_i heq <;> have h1 := (congrArg (fun y => y.1.flow) heq.symm).trans (flow_admDecide _ _ _ _)
  · exact h1
  · exact h1
  · refine Eq.trans ?_ h1
    dsimp only
    rw [flow_joinQueue, flow_ledIn, flow_profCount, flow_profCount, flow_setQueue, flow_chargeCells, flow_putPkt]

theorem flow_parInject (g : Nat) (h : HV) : (b.parInject g h).1.flow = b.flow := by
  unfold parInject; extract_lets; split <;> rfl

theorem flow_noteHead (g s n : Nat) : (b.noteHead g s n).flow = b.flow := by
  unfold noteHead
  split
  rename_i heq
  have h1 : _ = b.flow := (congrArg (fun y => y.2.flow) heq.symm)
  dsimp only
  split_ifs <;> simpa using h1

theorem flow_tagHead (g : Nat) (lag : Bool) : (b.tagHead g lag).2.flow = b.flow := by
  unfold tagHead; split <;> rfl

/-- The places that the rest of the engine holds packets and bytes in. -/
def place (b : Body) : NetSt × List (Nat × List Nat) × List (Nat × List InjPkt) × MemSt × List (Nat × Nat) :=
  (b.net, b.pipe.rcyHold, b.pipe.injQ, b.mem, b.tbls)

theorem flow_place {b c : Body} (h : c.flow = b.flow) : c.place = b.place ∧ c.pipe.stage7 = b.pipe.stage7 := by
  obtain ⟨h1, h2, h3, h4, h5, h6, h7⟩ := flow_eq h
  exact ⟨by simp [place, h1, h3, h4, h6, h7], h2⟩

/-- Copies put into stage 7 leave what is there. -/
theorem copies_enter (pid : Nat) {f : Body → Pkt → Body} (hf : ∀ c x, (f c x).place = c.place ∧ (pid ∈ c.pipe.stage7 → pid ∈ (f c x).pipe.stage7))
    (cs : List Pkt) : ∀ c : Body, (cs.foldl f c).place = c.place ∧ (pid ∈ c.pipe.stage7 → pid ∈ (cs.foldl f c).pipe.stage7) := by
  induction cs with
  | nil => exact fun c => ⟨rfl, id⟩
  | cons x t ih =>
    intro c
    exact ⟨(ih _).1.trans (hf c x).1, fun h => (ih _).2 ((hf c x).2 h)⟩

/-- The head that enters the pipeline waits at stage 7 under the next number; the network side, the sources, the tables and
the memories are as they were. -/
theorem runPipeline_enters (seq g par vrf : Nat) (p : Pkt) (inj : Option (List Byte)) :
    (b.runPipeline seq g par vrf p inj).place = b.place ∧ b.pipe.nextPid ∈ (b.runPipeline seq g par vrf p inj).pipe.stage7 := by
  unfold runPipeline
  split
  rename_i pid b1 heq0
  have hpid : b.pipe.nextPid = pid := congrArg Prod.fst heq0
  have hb1 : b1.place = b.place := (congrArg (fun y => y.2.place) heq0.symm).trans rfl
  rw [hpid]
  clear heq0
  extract_lets n b2 p1 full p2 b3 first done b4
  have hb3 : b3.place = b.place := by
    have h2 : b2.flow = b1.flow := (flow_noteHead _ _ _ _).trans (flow_ledIn _ _ _)
    have h3 : b3.flow = b2.flow := by
      show (if full = true then b2 else _).flow = _
      split
      · rfl
      · exact flow_takeCells _ _
    exact (flow_place h3).1.trans ((flow_place h2).1.trans hb1)
  have hdone : ∀ (c : Body) (q : Pkt) (cs : List Pkt), (done c q cs).place = c.place ∧ pid ∈ (done c q cs).pipe.stage7 := by
    intro c q cs
    have fin : ∀ d : Body, d.chmRefresh.place = d.place ∧ d.chmRefresh.pipe.stage7 = d.pipe.stage7 := fun d => flow_place (flow_chmRefresh d)
    dsimp only [done]
    rw [(fin _).1, (fin _).2]
    have hc := copies_enter pid (f := fun b c =>
      let (cid, b) := b.newPid
      let full := full || b.buf.freeList == 0
      let b := if full then b else b.takeCells (((List.range n).map fun i => cellId pid cid i))
      let b := b.putPkt cid { c with owner := pid, src := q.src, gal := g, copy := true, verdict := if full then .noCell else q.verdict }
      { b with pipe := { b.pipe with stage7 := b.pipe.stage7 ++ [cid] } }) (fun d x => by
        have ht : ∀ (e : Body) (f : Bool) (l : List Nat), (if f = true then e else e.takeCells l).place = e.place ∧
            (if f = true then e else e.takeCells l).pipe.stage7 = e.pipe.stage7 := by
          intro e f l
          split
          · exact ⟨rfl, rfl⟩
          · exact flow_place (flow_takeCells _ _)
        refine ⟨(ht (d.newPid).2 _ _).1, fun h => ?_⟩
        refine List.mem_append_left _ ?_
        exact ((ht (d.newPid).2 _ _).2.trans rfl : _ = d.pipe.stage7) ▸ h) cs
    have hy : ∀ (d : Body) (x y : Pkt), (if (d.cutThrough x && first && !full) = true then
        match d.admitPkt pid y with
        | (b, true) => b.ledOut (ledPipe g) 1
        | (b, false) => b.putPkt pid { x with disp := .drop } else d).flow = d.flow := by
      intro d x y
      split
      · split <;> rename_i heq <;> exact (congrArg (fun y => y.1.flow) heq.symm).trans (flow_admitPkt _ _ _)
      · rfl
    refine ⟨(hc _).1.trans ((flow_place (hy _ _ _)).1.trans rfl), (hc _).2 ?_⟩
    refine (congrArg (fun l => pid ∈ l) (flow_place (hy _ _ _)).2).mpr ?_
    exact List.mem_append_right _ List.mem_cons_self
  split
  · exact ⟨(hdone _ _ _).1.trans ((flow_place (flow_fault _ _ _ _)).1.trans hb3), (hdone _ _ _).2⟩
  · split
    rename_i b5 h' heq
    have h5 : b5.flow = b3.flow := (congrArg (fun y => y.1.flow) heq.symm).trans (flow_parInject _ _ _)
    extract_lets
    split
    rename_i b6 p5 cs heq2
    have h6 : b6.flow = b5.flow := (congrArg (fun y => y.1.flow) heq2.symm).trans (flow_pipeline _ _ _ _ _ _)
    exact ⟨(hdone _ _ _).1.trans ((flow_place h6).1.trans ((flow_place h5).1.trans hb3)), (hdone _ _ _).2⟩

end Body
end Sys2Proof.Machine
end

