-- ==== Sys2Proof/Laws/PortCfg.lean ====
section
/-! SUPPORT. A write of PORT_CFG that changes PORT_EN alone. -/

namespace Sys2Proof.Machine

/-- The fields of PORT_CFG, from the highest bit down. -/
def cfgFlds : List Fld :=
  [R.PORT_EN, R.PORT_MODE, R.PORT_CT_EN, R.PORT_PAUSE_EN, R.PORT_MACSEC_EN, R.PORT_MAX_FRAME, R.PORT_PFC_UNTAG, R.PORT_TRUST, R.PORT_DEF_PRIO]

theorem cfg_at : PK.lane.fieldsAt 0x100 = cfgFlds.map fun f => (f, 0, 0) := by decide

theorem cfg_arith {x V a b c d e f g h : Nat} (h1 : a < 2 ^ R.PORT_MODE.width) (h2 : b < 2 ^ R.PORT_CT_EN.width) (h3 : c < 2 ^ R.PORT_PAUSE_EN.width)
   (h4 : d < 2 ^ R.PORT_MACSEC_EN.width) (h5 : e < 2 ^ R.PORT_MAX_FRAME.width) (h6 : f < 2 ^ R.PORT_PFC_UNTAG.width) (h7 : g < 2 ^ R.PORT_TRUST.width) (h8 : h < 2 ^ R.PORT_DEF_PRIO.width)
   (hx : x < 2) (hV : a * 2 ^ 27 + b * 2 ^ 26 + c * 2 ^ 25 + d * 2 ^ 24 + e * 2 ^ 8 + f * 2 ^ 5 + g * 2 ^ 2 + h * 2 ^ 0 + x % 2 ^ R.PORT_EN.width * 2 ^ R.PORT_EN.lo = V) :
   R.PORT_MODE.of V = a ∧ R.PORT_MAX_FRAME.of V = e ∧ R.PORT_EN.of V = x := by
  simp only [Fld.of, bitField] at *
  simp only [R.PORT_EN, R.PORT_MODE, R.PORT_CT_EN, R.PORT_PAUSE_EN, R.PORT_MACSEC_EN, R.PORT_MAX_FRAME, R.PORT_PFC_UNTAG, R.PORT_TRUST, R.PORT_DEF_PRIO, Fld.width] at *
  omega

theorem pageStore_lane (b : Body) (m a v : Nat) (lk : Bool) : b.pageStore .lane m a v lk = b.storeLane m a v lk := rfl
theorem storeLane_cfg (b : Body) {m a v p : Nat} {lk : Bool} (hl : laneOf a = p) (hn : b.notPort p = false) (hEN : fieldAt a R.PORT_EN = some 0)
    (h : 0x100 ≤ a % 0x1000) : b.storeLane m a v lk = b.storePort p a v := by
  unfold Body.storeLane
  dsimp only
  rw [hl, hn, hEN, if_pos h, if_neg (by decide), if_pos (by decide)]
theorem storePort_cfg (b : Body) {a V p x : Nat} (e1 : R.PORT_MODE.of V = b.rd (Pg.lane p) R.PORT_MODE) (e2 : R.PORT_MAX_FRAME.of V = b.rd (Pg.lane p) R.PORT_MAX_FRAME)
   (e3 : R.PORT_EN.of V = x) (hm2 : 64 ≤ b.rd (Pg.lane p) R.PORT_MAX_FRAME ∧ b.rd (Pg.lane p) R.PORT_MAX_FRAME ≤ 10240) :
   (b.storePort p a V).1 = if x = 0 then (if b.prd p R.PORT_EN = 1 then (b.takeBits a V [R.PORT_EN]).portDisable p else (b.takeBits a V [R.PORT_EN])) else (b.takeBits a V [R.PORT_EN]).portEnable p := by
      unfold Body.storePort
      dsimp only
      rw [e1, e2, e3, if_neg (show ¬ (b.prd p R.PORT_EN = 1 ∧ b.rd (Pg.lane p) R.PORT_MODE ≠ b.prd p R.PORT_MODE) from fun h => h.2 rfl), if_pos hm2]
      rw [List.append_nil, if_pos rfl]
      by_cases hx0 : x = 0
      · rw [if_pos hx0, if_pos hx0]
      · rw [if_neg hx0, if_neg hx0]; rfl

set_option maxRecDepth 4000 in
/-- A write of PORT_CFG that changes PORT_EN alone. -/
theorem cfg_put {p m x : Nat} {s : State} (hp : p < 512) (hx : x < 2) (hs : s.takes m (R.PORT_EN.addr (Pg.lane p) 0 0))
    (hn : s.dev.body.notPort p = false) (hmf : 64 ≤ s.reg (Pg.lane p) R.PORT_MAX_FRAME ∧ s.reg (Pg.lane p) R.PORT_MAX_FRAME ≤ 10240) :
    ∃ c : Body, Body.Keeps [Pg.lane p] s.dev.body c ∧ (∀ k, c.prd k R.PORT_EN = s.dev.body.prd k R.PORT_EN) ∧
      (∀ k, c.prd k R.PORT_MODE = s.dev.body.prd k R.PORT_MODE) ∧ (∀ k, c.prd k R.PORT_MAX_FRAME = s.dev.body.prd k R.PORT_MAX_FRAME) ∧
      (∀ k, c.prd k R.PG_PWR_STATE = s.dev.body.prd k R.PG_PWR_STATE) ∧ c.net = s.dev.body.net ∧
      s.dev.put m (Pg.lane p) R.PORT_EN 0 x = { s.dev with body := if x = 0 then (if s.dev.body.prd p R.PORT_EN = 1 then c.portDisable p else c) else c.portEnable p } := by
  have hpg := pageIs_lane hp
  have hfo := hpg.fieldsOf (off := 0x100) (by omega) (by decide)
  rw [cfg_at] at hfo
  have hpo := hpg.pageOf (off := 0x100) (by omega)
  have ha : R.PORT_EN.addr (Pg.lane p) 0 0 = Pg.lane p + 0x100 := by simp only [Fld.addr, R.PORT_EN]
  have h1 := s.dev.body.rd_lt (Pg.lane p) R.PORT_MODE 0 0
  have h2 := s.dev.body.rd_lt (Pg.lane p) R.PORT_CT_EN 0 0
  have h3 := s.dev.body.rd_lt (Pg.lane p) R.PORT_PAUSE_EN 0 0
  have h4 := s.dev.body.rd_lt (Pg.lane p) R.PORT_MACSEC_EN 0 0
  have h5 := s.dev.body.rd_lt (Pg.lane p) R.PORT_MAX_FRAME 0 0
  have h6 := s.dev.body.rd_lt (Pg.lane p) R.PORT_PFC_UNTAG 0 0
  have h7 := s.dev.body.rd_lt (Pg.lane p) R.PORT_TRUST 0 0
  have h8 := s.dev.body.rd_lt (Pg.lane p) R.PORT_DEF_PRIO 0 0
  have hkw : s.dev.body.keepWord (R.PORT_EN.addr (Pg.lane p) 0 0) R.PORT_EN =
     s.dev.body.rd (Pg.lane p) R.PORT_MODE * 2 ^ 27 + s.dev.body.rd (Pg.lane p) R.PORT_CT_EN * 2 ^ 26 + s.dev.body.rd (Pg.lane p) R.PORT_PAUSE_EN * 2 ^ 25 + s.dev.body.rd (Pg.lane p) R.PORT_MACSEC_EN * 2 ^ 24 + s.dev.body.rd (Pg.lane p) R.PORT_MAX_FRAME * 2 ^ 8 + s.dev.body.rd (Pg.lane p) R.PORT_PFC_UNTAG * 2 ^ 5 + s.dev.body.rd (Pg.lane p) R.PORT_TRUST * 2 ^ 2 + s.dev.body.rd (Pg.lane p) R.PORT_DEF_PRIO * 2 ^ 0 := by
    rw [ha]
    simp only [Body.keepWord, hfo, hpo, cfgFlds, List.map_cons, List.map_nil, List.foldl_cons, List.foldl_nil]
    simp [R.PORT_EN, R.PORT_MODE, R.PORT_CT_EN, R.PORT_PAUSE_EN, R.PORT_MACSEC_EN, R.PORT_MAX_FRAME, R.PORT_PFC_UNTAG, R.PORT_TRUST, R.PORT_DEF_PRIO]
  generalize hV : s.dev.body.keepWord (R.PORT_EN.addr (Pg.lane p) 0 0) R.PORT_EN + x % 2 ^ R.PORT_EN.width * 2 ^ R.PORT_EN.lo = V
  have hw : s.dev.put m (Pg.lane p) R.PORT_EN 0 x = s.dev.write m (Pg.lane p + 0x100) V := by
    unfold Dev.put; dsimp only; rw [hV, ha]
  rw [hkw] at hV
  obtain ⟨e1, e2, e3⟩ := cfg_arith h1 h2 h3 h4 h5 h6 h7 h8 hx hV
  clear hV hkw h2 h3 h4 h6 h7 h8
  set c := s.dev.body.takeBits (Pg.lane p + 0x100) V [R.PORT_EN] with hc
  have hcc : c = ((((((((s.dev.body.pwr p R.PORT_MODE (R.PORT_MODE.of V)).pwr p R.PORT_CT_EN (R.PORT_CT_EN.of V)).pwr p R.PORT_PAUSE_EN (R.PORT_PAUSE_EN.of V)).pwr p R.PORT_MACSEC_EN (R.PORT_MACSEC_EN.of V)).pwr p R.PORT_MAX_FRAME (R.PORT_MAX_FRAME.of V)).pwr p R.PORT_PFC_UNTAG (R.PORT_PFC_UNTAG.of V)).pwr p R.PORT_TRUST (R.PORT_TRUST.of V)).pwr p R.PORT_DEF_PRIO (R.PORT_DEF_PRIO.of V)) := by
    rw [hc]
    simp only [Body.takeBits, hfo, hpo, cfgFlds, List.map_cons, List.map_nil, List.foldl_cons, List.foldl_nil]
    rfl
  refine ⟨c, ?_, ?_, ?_, ?_, ?_, ?_, ?_⟩
  · rw [hcc]
    have : Pg.lane p ∈ [Pg.lane p] := by simp
    exact ((((((((Body.Keeps.refl _).pwr (by decide) this).pwr (by decide) this).pwr (by decide) this).pwr (by decide) this).pwr (by decide) this).pwr (by decide) this).pwr (by decide) this).pwr (by decide) this
  · intro k; rw [hcc]; repeat rw [Body.prd_pwr_ne _ (by decide)]
  · intro k; rw [hcc]
    iterate 7 rw [Body.prd_pwr_ne _ (by decide)]
    rw [Body.prd_pwr _ _ _ _ (by decide)]
    split
    · rename_i h; subst h; rw [e1]; exact Nat.mod_eq_of_lt h1
    · rfl
  · intro k; rw [hcc]
    iterate 3 rw [Body.prd_pwr_ne _ (by decide)]
    rw [Body.prd_pwr _ _ _ _ (by decide)]
    split
    · rename_i h; subst h; rw [e2]; exact Nat.mod_eq_of_lt h5
    · iterate 4 rw [Body.prd_pwr_ne _ (by decide)]
  · intro k; rw [hcc]; repeat rw [Body.prd_pwr_ne _ (by decide)]
  · rw [hcc]; simp [Body.pwr]
  · rw [hw]
    rw [ha] at hs
    rw [Dev.write_store _ hs hpg (by omega) (by omega) (by omega) (by have := (Pg.lane_ge p); unfold Pg.lane Pg.gallery Pg.boot; omega) (by decide)]
    have hl : laneOf (Pg.lane p + 0x100) = p := by
      unfold laneOf galOf Pg.lane Pg.gallery; omega
    have hmod : (Pg.lane p + 0x100) % 0x1000 = 0x100 := hpg.mod (by omega)
    have hEN : fieldAt (Pg.lane p + 0x100) R.PORT_EN = some 0 := by
      rw [hpg.fieldAt (by omega) (by decide), cfg_at]; decide
    have hm2 : 64 ≤ s.dev.body.rd (Pg.lane p) R.PORT_MAX_FRAME ∧ s.dev.body.rd (Pg.lane p) R.PORT_MAX_FRAME ≤ 10240 := hmf
    have q1 := storeLane_cfg s.dev.body (m := m) (v := V) (lk := s.dev.pageLocked (Pg.lane p)) hl hn hEN (by rw [hmod])
    have q2 := storePort_cfg s.dev.body (a := Pg.lane p + 0x100) (x := x) e1 e2 e3 hm2
    rw [← hc] at q2
    have q3 : (s.dev.body.pageStore .lane m (Pg.lane p + 0x100) V (s.dev.pageLocked (Pg.lane p))) = s.dev.body.storeLane m (Pg.lane p + 0x100) V (s.dev.pageLocked (Pg.lane p)) := pageStore_lane _ _ _ _ _
    rw [q3, q1, q2]

end Sys2Proof.Machine
end

