-- ==== Sys2Proof/Laws/Tiers.lean ====
section
/-! SUPPORT. The Sump and far memory as the tiers of a queue use them: what their accesses leave alone. -/

namespace Sys2Proof.Machine

/-- What accesses to the Sump and to far memory leave alone. -/
def Body.hold (b : Body) : BufSt × PipeSt × SchSt × GrtSt × HostSt × List (Nat × Nat) := (b.buf, b.pipe, b.sch, b.grt, b.host, b.tbls)

namespace Body

variable (b : Body)

theorem hold_eq {b c : Body} (h : c.hold = b.hold) : c.buf = b.buf ∧ c.pipe = b.pipe ∧ c.sch = b.sch ∧ c.grt = b.grt ∧ c.host = b.host ∧
    c.tbls = b.tbls := by
  simpa [hold] using h

theorem hold_of_still {b c : Body} (h : c.still = b.still) : c.hold = b.hold := by
  obtain ⟨h1, h2, h3, h4, h5, h6, h7, h8, h9, h10, h11⟩ := still_eq h
  simp [hold, h1, h2, h3, h6, h7, h10]

@[simp] theorem hold_hbm (h : HbmSt) : ({ b with hbm := h } : Body).hold = b.hold := rfl
@[simp] theorem hold_mem (m : MemSt) : ({ b with mem := m } : Body).hold = b.hold := rfl
@[simp] theorem hold_far (m : FarSt) : ({ b with far := m } : Body).hold = b.hold := rfl
@[simp] theorem hold_wr (p : Nat) (f : Fld) (v i j : Nat) : (b.wr p f v i j).hold = b.hold := rfl
@[simp] theorem hold_count (p i n : Nat) : (b.count p i n).hold = b.hold := rfl
@[simp] theorem hold_hbmCount (s i n : Nat) : (b.hbmCount s i n).hold = b.hold := rfl
@[simp] theorem hold_fire (p n : Nat) : (b.fire p n).hold = b.hold := hold_of_still (still_fire b p n)
@[simp] theorem hold_fault (p n : Nat) (x : FltInfo) : (b.fault p n x).hold = b.hold := hold_of_still (still_fault b p n x)

@[simp] theorem hold_hbmDrainUpdate (s pc : Nat) : (b.hbmDrainUpdate s pc).hold = b.hold := by
  unfold hbmDrainUpdate; dsimp only; split_ifs <;> rfl

@[simp] theorem hold_hbmPanicUpdate (s : Nat) : (b.hbmPanicUpdate s).hold = b.hold := by
  unfold hbmPanicUpdate
  dsimp only
  split
  · split <;> rfl
  · split
    · exact (hold_fire _ _ _).trans rfl
    · rfl

@[simp] theorem hold_hbmPut (port : Nat) (wr : Bool) (a : Nat) : (b.hbmPut port wr a).hold = b.hold := by
  unfold hbmPut
  dsimp only
  split_ifs <;> first | rfl | exact (hold_hbmPanicUpdate _ _).trans ((hold_hbmDrainUpdate _ _ _).trans rfl)

@[simp] theorem hold_lineWritten (port a : Nat) : (b.lineWritten port a).hold = b.hold := by
  unfold lineWritten
  dsimp only
  split <;> (try rfl)
  split <;> rfl

@[simp] theorem hold_sumpWrite (port a : Nat) (l : List Byte) : (b.sumpWrite port a l).hold = b.hold := by
  unfold sumpWrite
  split
  · rfl
  · exact (foldl_same hold _ (fun c x => by rw [hold_lineWritten, hold_hbmPut]) _ _).trans rfl

@[simp] theorem hold_lineError (port a : Nat) : (b.lineError port a).hold = b.hold := by
  unfold lineError
  dsimp only
  split_ifs <;> simp

@[simp] theorem hold_sumpRead (port a n : Nat) : (b.sumpRead port a n).1.hold = b.hold := by
  unfold sumpRead
  exact foldl_same hold _ (fun c x => by rw [hold_lineError, hold_hbmPut]) _ _

/-- What a read of the Sump leaves alone besides: the bytes, and which lines are uncorrectable. -/
def bytes (b : Body) : MemSt × List Nat × List Nat × List (Nat × Nat) := (b.mem, b.hbm.ue, b.hbm.ce, b.hbm.coded)

theorem bytes_fire (p n : Nat) : (b.fire p n).bytes = b.bytes := by simp [bytes]
theorem bytes_fault (p n : Nat) (x : FltInfo) : (b.fault p n x).bytes = b.bytes := by simp [bytes]

theorem bytes_hbmPut (port : Nat) (wr : Bool) (a : Nat) : (b.hbmPut port wr a).bytes = b.bytes := by
  have h1 : ∀ (b : Body) (s pc : Nat), (b.hbmDrainUpdate s pc).bytes = b.bytes := by
    intro b s pc; unfold hbmDrainUpdate; dsimp only; split_ifs <;> rfl
  have h2 : ∀ (b : Body) (s : Nat), (b.hbmPanicUpdate s).bytes = b.bytes := by
    intro b s
    unfold hbmPanicUpdate
    dsimp only
    split
    · split <;> rfl
    · split
      · exact (bytes_fire _ _ _).trans rfl
      · rfl
  unfold hbmPut
  dsimp only
  split_ifs <;> first | rfl | exact (h2 _ _).trans ((h1 _ _ _).trans rfl)

theorem bytes_lineError (port a : Nat) : (b.lineError port a).bytes = b.bytes := by
  unfold lineError
  extract_lets
  split
  · rw [bytes_fault]
    exact Eq.trans rfl (bytes_fire _ _ _)
  · split
    · exact (bytes_fire _ _ _).trans rfl
    · rfl

theorem bytes_sumpRead (port a n : Nat) : (b.sumpRead port a n).1.bytes = b.bytes := by
  unfold sumpRead
  exact foldl_same bytes _ (fun c x => by rw [bytes_lineError, bytes_hbmPut]) _ _

@[simp] theorem hold_farWrite (p a : Nat) (l : List Byte) : (b.farWrite p a l).hold = b.hold := by
  unfold farWrite setFarMem; split <;> rfl

@[simp] theorem hold_farRead (p a n : Nat) : (b.farRead p a n).1.hold = b.hold := by
  unfold farRead
  extract_lets
  split
  · exact (hold_fault _ _ _ _).trans rfl
  · rfl

end Body

end Sys2Proof.Machine
end

