-- ==== Sys2Proof/Laws/Sump.lean ====
section
/-! SUPPORT. Accesses to the Sump: all they change is the Sump's bytes, its stacks' state and the registers and counters of the stacks'
pages. -/

namespace Sys2Proof.Machine

/-- Everything but registers, counters, interrupts, free values, memories and the stacks' state. -/
def Body.aside (b : Body) : Body := { b with regs := [], ctrs := [], irq := {}, fresh := 0, mem := {}, hbm := {} }

/-- The pages of the stacks. -/
def sumpPage (p : Nat) : Prop := 0xB00000 ≤ p ∧ p < 0xC00000

/-- What an access to the Sump may have changed. -/
structure Body.OfSump (b c : Body) : Prop where
  rest : c.aside = b.aside
  regs : ∀ (q : Nat) (g : Fld) (x y : Nat), g.lo < 32 → notedAt (g.addr q x y) = false → ¬ sumpPage (g.addr q x y) → c.rd q g x y = b.rd q g x y

namespace Body.OfSump

variable {b c d : Body}

theorem refl (b : Body) : OfSump b b := ⟨rfl, fun _ _ _ _ _ _ _ => rfl⟩

theorem trans (h : OfSump b c) (h' : OfSump c d) : OfSump b d :=
  ⟨h'.rest.trans h.rest, fun q g x y h1 h2 h3 => (h'.regs q g x y h1 h2 h3).trans (h.regs q g x y h1 h2 h3)⟩

theorem of (h : c.aside = b.aside) (hr : c.regs = b.regs) : OfSump b c := ⟨h, fun q g x y _ _ _ => by simp only [rd, hr]⟩

theorem parts (h : OfSump b c) : c.clk = b.clk ∧ c.tod = b.tod ∧ c.tbls = b.tbls ∧ c.gov = b.gov ∧ c.cairn = b.cairn ∧ c.win = b.win ∧ c.net = b.net ∧
    c.pipe = b.pipe ∧ c.stat = b.stat ∧ c.buf = b.buf ∧ c.rim = b.rim ∧ c.far = b.far ∧ c.echo = b.echo ∧ c.sch = b.sch ∧ c.grt = b.grt ∧
    c.host = b.host ∧ c.svy = b.svy ∧ c.lamp = b.lamp ∧ c.sup = b.sup ∧ c.boot = b.boot ∧ c.snp = b.snp ∧ c.svc = b.svc ∧
    c.rdata = b.rdata ∧ c.out = b.out ∧ c.marks = b.marks := by
  have := h.rest
  simp only [aside, Body.mk.injEq] at this
  tauto

theorem page (s n : Nat) (hs : s < 4) (hn : n < 4) : Pg.hbm s n % 0x1000 = 0 ∧ 0xB00000 ≤ Pg.hbm s n ∧ Pg.hbm s n < 0xC00000 := by
  unfold Pg.hbm; omega

theorem wr {p v : Nat} {f : Fld} (h : OfSump b c) (hf : f.lo < 32) (hp : sumpPage (f.addr p 0 0)) : OfSump b (c.wr p f v) :=
  h.trans ⟨rfl, fun _ _ _ _ hg _ hq => c.rd_wr_ne v hf hg (.inl fun e => hq (e ▸ hp))⟩

theorem count {p i n : Nat} (h : OfSump b c) : OfSump b (c.count p i n) := h.trans (.of rfl rfl)

theorem fire {p n : Nat} (h : OfSump b c) (hn : n < 32) (hp : p % 0x1000 = 0) (h1 : 0xB00000 ≤ p) (h2 : p < 0xC00000) : OfSump b (c.fire p n) := by
  refine h.trans ⟨?_, fun q g x y hg hq hm => ?_⟩
  · simp [aside]
  · simp only [notedAt, Bool.or_eq_false_iff, beq_eq_false_iff_ne, ne_eq] at hq
    unfold sumpPage at hm
    exact c.rd_fire hn hg (.inl (by omega)) (by omega) hq.1.1.1.1.1 hq.1.1.1.1.2

theorem fault {p n : Nat} {x : FltInfo} (h : OfSump b c) (hn : n < 32) (hp : p % 0x1000 = 0) (h1 : 0xB00000 ≤ p) (h2 : p < 0xC00000) :
    OfSump b (c.fault p n x) := by
  refine h.trans ⟨?_, fun q g x y hg hq hm => ?_⟩
  · simp [aside]
  · unfold sumpPage at hm
    exact c.rd_fault _ hn hg (.inl (by omega))

theorem foldl {α : Type} {f : Body → α → Body} (h : ∀ c x, OfSump c (f c x)) (l : List α) (b : Body) : OfSump b (l.foldl f b) := by
  induction l generalizing b with
  | nil => exact refl b
  | cons x t ih => exact (h b x).trans (ih _)

end Body.OfSump

namespace Body

variable (b : Body)

theorem hbmLoc_lt (a : Nat) : (b.hbmLoc a).stack < 4 := by
  unfold hbmLoc
  exact Nat.mod_lt _ (by decide)

/-- A request joins the queue of its stack. -/
theorem ofSump_hbmPut (port : Nat) (wr : Bool) (a : Nat) : OfSump b (b.hbmPut port wr a) := by
  have h1 : ∀ (b : Body) (s pc : Nat), OfSump b (b.hbmDrainUpdate s pc) := by
    intro b s pc; unfold hbmDrainUpdate; dsimp only; split_ifs <;> exact .of rfl rfl
  have h2 : ∀ (b : Body) (s : Nat), s < 4 → OfSump b (b.hbmPanicUpdate s) := by
    intro b s hs
    have hp := OfSump.page s 1 hs (by decide)
    unfold hbmPanicUpdate
    dsimp only
    split
    · split <;> exact .of rfl rfl
    · split
      · exact OfSump.fire (.count (.of rfl rfl)) (by decide) hp.1 hp.2.1 hp.2.2
      · exact .refl b
  unfold hbmPut
  dsimp only
  have h3 := b.hbmLoc_lt (a / 64 * 64)
  split_ifs <;> first
    | exact .of rfl rfl
    | (refine OfSump.trans ?_ (h2 _ _ h3)
       refine OfSump.trans ?_ (h1 _ _ _)
       exact .of rfl rfl)

/-- A line is checked as it is read. -/
theorem ofSump_lineError (port a : Nat) : OfSump b (b.lineError port a) := by
  unfold lineError
  extract_lets s pg
  have hp := OfSump.page s 3 (b.hbmLoc_lt _) (by decide)
  have ha : ∀ k, k < 0x1000 → sumpPage (pg + k) := fun k hk => by unfold sumpPage; omega
  split
  · have h1 := OfSump.fire (n := R.HBM_EVT_UE) ((OfSump.refl b).count (p := pg) (i := 1) (n := 1)) (by decide) hp.1 hp.2.1 hp.2.2
    have h2 := h1.wr (p := pg) (v := a) (f := R.HBM_UE_ADDR_LO) (by decide) (ha _ (by decide))
    have h3 := h2.wr (p := pg) (v := a / 2 ^ 32) (f := R.HBM_UE_ADDR_HI) (by decide) (ha _ (by decide))
    have h4 := h3.wr (p := pg) (v := port) (f := R.HBM_UE_PORT) (by decide) (ha _ (by decide))
    exact h4.fault (by decide) hp.1 hp.2.1 hp.2.2
  · split
    · exact OfSump.fire (.count (.of rfl rfl)) (by decide) hp.1 hp.2.1 hp.2.2
    · exact .refl b

theorem ofSump_lineWritten (port a : Nat) : OfSump b (b.lineWritten port a) := by
  unfold lineWritten
  dsimp only
  split <;> (try exact .of rfl rfl)
  split <;> exact .of rfl rfl

theorem ofSump_sumpWrite (port a : Nat) (l : List Byte) : OfSump b (b.sumpWrite port a l) := by
  unfold sumpWrite
  split
  · exact .refl b
  · dsimp only
    refine OfSump.trans ?_ (.foldl (fun c x => (c.ofSump_hbmPut _ _ _).trans (ofSump_lineWritten _ _ _)) _ _)
    exact .of rfl rfl

theorem ofSump_sumpRead (port a n : Nat) : OfSump b (b.sumpRead port a n).1 := by
  unfold sumpRead
  exact .foldl (fun c x => (c.ofSump_hbmPut _ _ _).trans (ofSump_lineError _ _ _)) _ _

/-- A delta is added to its pair in the Sump. -/
theorem ofSump_pairAdd (k p n : Nat) : OfSump b (b.pairAdd k p n) := by
  unfold pairAdd
  extract_lets a line bad old b1 b2
  refine OfSump.trans ?_ (ofSump_sumpWrite _ _ _ _)
  refine OfSump.trans (ofSump_lineError b 3 line) ?_
  change OfSump b1 (if bad = true then _ else b1)
  split <;> [exact .of rfl rfl; exact .refl _]

end Body

end Sys2Proof.Machine
end

