-- ==== Sys2Proof/Laws/Time.lean ====
section
/-! SUPPORT. The passage of time: the clock moves by what a step says, whatever else goes on. -/

namespace Sys2Proof.Machine

namespace Body

variable (b : Body)

theorem todRun_clk (n : Nat) : (b.todRun n).clk = b.clk := by
  unfold todRun todAdd
  rfl

theorem glwSample_clk (n : Nat) (v : Int) : (b.glwSample n v).clk = b.clk := by
  unfold glwSample
  dsimp only
  split_ifs <;> simp

theorem d0Sample_clk : b.d0Sample.clk = b.clk := by
  simp only [d0Sample]
  refine foldl_same Body.clk _ (fun c n => ?_) (List.range 64) b
  split
  · exact c.glwSample_clk _ _
  · rfl

theorem galTime_clk (g : Nat) : (b.galTime g).clk = b.clk := by
  unfold galTime
  dsimp only
  split_ifs <;> simp

theorem svyLevel_clk (n : Nat) : (b.svyLevel n).clk = b.clk := by
  unfold svyLevel
  split_ifs
  · rfl
  · refine foldl_same Body.clk _ (fun c e => ?_) _ b
    have h := congrArg Body.clk (c.svyAdd_quiet e.1 n)
    exact h

theorem ppsFall_clk : b.ppsFall.clk = b.clk := by
  unfold ppsFall
  split_ifs <;> rfl

theorem ppsWatch_clk (f : Body → Body) : (b.ppsWatch f).clk = (f b).clk := by
  unfold ppsWatch
  dsimp only
  split_ifs <;> rfl

theorem winWatch_clk (f : Body → Body) : (b.winWatch f).clk = (f b).clk := by
  unfold winWatch
  dsimp only
  split_ifs <;> rfl

/-! What a frame that grows in the entrance buffer does. -/

theorem sendPfc_clk (p v q : Nat) : (b.sendPfc p v q).clk = b.clk := by unfold sendPfc; split <;> simp

theorem xoffUpdate_clk (p : Nat) (r : Bool) : (b.xoffUpdate p r).clk = b.clk := by
  unfold xoffUpdate; dsimp only; split_ifs <;> simp [sendPfc_clk, pwr]

theorem pfcEntrance_clk (p : Nat) : (b.pfcEntrance p).clk = b.clk := by
  unfold pfcEntrance; dsimp only; split_ifs <;> exact (xoffUpdate_clk _ _ _).trans rfl

theorem entLevel_clk (g : Nat) : (b.entLevel g).clk = b.clk := by unfold entLevel; simp

theorem entChanged_clk (p : Nat) : (b.entChanged p).clk = b.clk := by
  unfold entChanged; rw [pfcEntrance_clk, entLevel_clk]; rfl

theorem overload_clk (g : Nat) : (b.overload g).clk = b.clk := by
  unfold overload headCount; dsimp only; split_ifs <;> simp

theorem entHold_clk (p n : Nat) (v : Option Verdict) : (b.entHold p n v).clk = b.clk := by
  unfold entHold
  dsimp only
  split
  · rfl
  · split
    · rw [overload_clk, entChanged_clk]
      change (if v.isSome = true then _ else _ : Body).clk = _
      split_ifs <;> simp [setRx]
    · exact (entChanged_clk _ _).trans rfl

theorem rxGrow_clk : b.rxGrow.clk = b.clk := by
  unfold rxGrow
  refine foldl_same Body.clk _ (fun c e => ?_) _ b
  split_ifs <;> simp [entHold_clk]

/-! What the other clocks of a period do. -/

theorem idleWatch_clk (g : Nat) : (b.idleWatch g).clk = b.clk := by unfold idleWatch; split_ifs <;> rfl

theorem svySlots_clk (g n : Nat) : (b.svySlots g n).clk = b.clk := by
  unfold svySlots; dsimp only; split_ifs <;> simp

theorem setLine_clk (k : Nat) (d : Delta) : (b.setLine k d).clk = b.clk := rfl

theorem statCheck_clk (k : Nat) : (b.statCheck k).clk = b.clk := by
  unfold statCheck mirrored; dsimp only; split_ifs <;> simp [setLine]

theorem statWriteback_clk (k : Nat) : (b.statWriteback k).clk = b.clk := by
  unfold statWriteback statMove
  dsimp only
  split_ifs
  · rfl
  · exact b.statCheck_clk k
  · have h := fun c : Body => (c.ofSump_pairAdd k ((b.statCheck k).statLine k).pkts ((b.statCheck k).statLine k).bytes).parts.1
    simp [h, setLine_clk, statCheck_clk]

theorem statAge_clk : b.statAge.clk = b.clk := by
  unfold statAge
  exact foldl_same Body.clk _ (fun c (e : Nat × Nat) => c.statWriteback_clk e.1) _ b

theorem dlWatch_clk (c : Nat) : (b.dlWatch c).clk = b.clk := by unfold dlWatch markWhile; split_ifs <;> rfl

theorem waitTime_clk : b.waitTime.clk = b.clk := by
  unfold waitTime
  split
  · rfl
  · refine (foldl_same Body.clk _ (fun c n => ?_) (List.range 256) _).trans (foldl_same Body.clk _ (fun c n => c.dlWatch_clk n) (List.range 32) b)
    split_ifs <;> simp

theorem tagsCatchUp_clk : b.tagsCatchUp.clk = b.clk := rfl

theorem tickRun_clk : b.tickRun.clk = b.clk := by
  unfold tickRun
  extract_lets b1 b2 b3 b4 b5
  have h1 : b1.clk = b.clk := by
    change (if b.clkRuns 17 = true then _ else _ : Body).clk = _
    split_ifs <;> simp [ppsWatch_clk, winWatch_clk, todRun_clk]
  have h2 : b2.clk = b.clk := (rxGrow_clk _).trans ((ppsFall_clk _).trans h1)
  have h3 : b3.clk = b.clk :=
    (foldl_same Body.clk _ (fun d g => by rw [svySlots_clk, idleWatch_clk, galTime_clk]) (List.range 8) b2).trans h2
  have h4 : b4.clk = b.clk := by
    change (if b3.clkRuns 15 = true then _ else _ : Body).clk = _
    split_ifs <;> simp [statAge_clk, h3]
  have h5 : b5.clk = b.clk := (waitTime_clk _).trans ((svyLevel_clk _ 2).trans h4)
  split_ifs <;> simp [d0Sample_clk, h5]

/-- 2 ns pass wherever VDD_LAMP is present. -/
theorem elapse_clk (h : b.sup.mode ≠ .off) : b.elapse.clk = b.clk + 2 := by
  unfold elapse
  dsimp only
  rw [if_neg h]
  split_ifs <;> simp [tickRun_clk, todRun_clk]

theorem tick_clk (h : b.sup.mode ≠ .off) : b.tick.clk = b.clk + 2 := (note_rest _ _).1.trans (b.elapse_clk h)

theorem tick_off (h : b.sup.mode = .off) : b.tick = b := by
  unfold tick elapse
  rw [if_pos h]
  exact b.note_self

end Body

end Sys2Proof.Machine
end

