-- ==== Sys2Proof/Laws/Window.lean ====
section
/-! SUPPORT. Windows and apertures: a write and a read that reach one, and the end of an assembly. -/

namespace Sys2Proof.Machine

/-- A write that reaches a window, but for the load buffer. -/
theorem Dev.write_window {s : State} {m a : Nat} (v : Nat) (h : s.reaches m a) (ha : addrOk a = true) (hp : placeOf a = .window)
    (hb : pageOf a ≠ Pg.boot) : s.dev.write m a v = { s.dev with body := s.dev.body.winWrite m a v } := by
  have h4 : a / 4 * 4 = a := by
    simp only [addrOk, Bool.and_eq_true, beq_iff_eq] at ha
    omega
  have hl : Dev.loadBufRefused s.dev.body m a = none := by
    unfold Dev.loadBufRefused
    rw [if_pos (by simpa [pageOf] using hb)]
  unfold Dev.write Dev.busWrite
  rw [h4]
  simp only [h.bar0, h.notBmc, h.reach]
  simp [Dev.pageWrite, h4, hp, hb, hl]

/-- A read that reaches a window. -/
theorem Dev.busRead_window {s : State} {m a : Nat} (h : s.answers m a) (ha : addrOk a = true) (hp : placeOf a = .window) :
    s.dev.busRead m a = ({ s.dev with body := (s.dev.body.winRead m a).1 }, (s.dev.body.winRead m a).2) := by
  have h4 : a / 4 * 4 = a := by
    simp only [addrOk, Bool.and_eq_true, beq_iff_eq] at ha
    omega
  simp [Dev.busRead, h.bar0, h.reach, Dev.readAt, h4, hp]

namespace Body

variable (b : Body)

/-- Windows and answers are no business of the notes. -/
theorem note_win (w : WinSt) (r : List Nat) : note b { b with win := w, rdata := r } = { b with win := w, rdata := r } := by
  have hd : ∀ e, svyDelta b { b with win := w, rdata := r } e = 0 := by
    intro e
    have h1 : ∀ x y z, svyTotal { b with win := w, rdata := r } x y z = svyTotal b x y z := fun _ _ _ => rfl
    have h2 : ∀ x y z, svyCond { b with win := w, rdata := r } x y z = svyCond b x y z := fun _ _ _ => rfl
    unfold svyDelta
    simp only [h1, h2]
    split_ifs <;> simp [b2n]
  have h : poolNote b { b with win := w, rdata := r } = { b with win := w, rdata := r } := by
    have hl : levelMoved b { b with win := w, rdata := r } = false := by
      have : ∀ n, poolLevel { b with win := w, rdata := r } n = poolLevel b n := fun _ => rfl
      simp [levelMoved, this]
    simp [poolNote, hl]
  unfold note
  rw [h]
  unfold svyNote
  split_ifs
  · rfl
  · exact foldl_id _ _ _ fun e => by simp [hd]

/-- The end of an assembly, seen in the windows. -/
theorem asmEnd_win (w : Nat) : ∀ a ∈ (b.asmEnd w).win.asm, a.win ≠ w := by
  unfold asmEnd
  split
  · rename_i h
    intro a ha
    have := List.find?_eq_none.mp h a ha
    simpa using this
  · intro a ha
    unfold asmDrop at ha
    split_ifs at ha <;> simp only [sat_rest, fault_rest, List.mem_filter, bne_iff_ne, ne_eq] at ha <;> exact ha.2

theorem asmEnd_rest (w : Nat) : (b.asmEnd w).tbls = b.tbls ∧ (b.asmEnd w).ctrs = b.ctrs ∧ (b.asmEnd w).win.snaps = b.win.snaps ∧
    (b.asmEnd w).mem = b.mem := by
  unfold asmEnd
  split
  · simp
  · unfold asmDrop
    split_ifs <;> simp

/-- The end of an assembly changes TBL_APn_STAT of an aperture, or FLT_STAT of a page. -/
theorem rd_asmEnd {w q : Nat} {g : Fld} {k l : Nat} (hg : g.lo < 32)
    (h : 0x1000000 ≤ w → g.addr q k l ≠ R.TBL_AP_DROPS.addr Pg.aperture ((w - 0x1000000) / 0x400000) 0 ∨ g.lo ≠ 16)
    (h2 : w < 0x1000000 → g.addr q k l ≠ w + 0x40 ∨ g.lo ≠ FLT_ACCESS) : (b.asmEnd w).rd q g k l = b.rd q g k l := by
  unfold asmEnd
  split
  · rfl
  · unfold asmDrop
    split_ifs with hw
    · rw [rd_sat_ne _ (by decide) hg (h hw)]; rfl
    · rw [rd_fault _ _ (by decide) hg (h2 (by omega))]; rfl

end Body

end Sys2Proof.Machine
end

