-- ==== Sys2Proof/Tests/Slice0.lean ====
section
/-! SUPPORT. Tests of the model: ill-formed commands are refused by WellFormed; a few single steps whose results the spec or a published
value gives; and, for every statement of Obligations, states and operands that meet the hypotheses of its clauses. -/

namespace Sys2Proof.Tests

open Sys2Proof Sys2Proof.Machine

-- The tests are elaborated one after another: each evaluation in the kernel waits for the declarations before it, and a thread that waits
-- holds its whole stack.
set_option Elab.async false

/-! One ill-formed command for each check of WellFormed: the check refuses it. -/

theorem test_ill_formed_refused_0 : ∀ i ∈ ([
    .registerWrite 0x1FF00 0 0 true, .registerWrite 0x200 0x4000000 0 true, .registerWrite 0x200 2 0 true, .registerWrite 0x200 0 (2 ^ 32) true,
    .clearOnRead 0x1FF00 0, .clearOnRead 0x200 0x4000000, .clearOnRead 0x200 2, .softReset 0x6000 0x1FF00, .softReset 0xFFF000 0x200,
    .softReset 4 0x200, .softResetDone 0xFFF000, .softResetDone 4, .pageLock 0x6000 0x1FF00, .pageLock 0xFFF000 0x200, .pageLock 4 0x200,
    .eventInject 0x6000 0x1FF00 0, .eventInject 0xFFF000 0x200 0, .eventInject 4 0x200 0, .eventInject 0x6000 0x200 (2 ^ 32),
    .faultInject 0x6000 0x1FF00 0, .faultInject 0xFFF000 0x200 0, .faultInject 4 0x200 0, .faultInject 0x6000 0x200 (2 ^ 32),
    .windowWordWrite 0x1FF00 0x1800000 0, .windowWordWrite 0x200 0x6000 0, .windowWordWrite 0x200 0x1000002 0,
    .windowWordWrite 0x200 0x1800000 (2 ^ 32), .assemblyTimeout 0x1800000 0x1FF00, .assemblyTimeout 0x6000 0x200, .assemblyTimeout 0x1000002 0x200,
    .windowSnapshotRead 0x1FF00 0x1800000, .windowSnapshotRead 0x200 0x6000, .windowSnapshotRead 0x200 0x1000002, .apertureCtrlWrite 0 0x1FF00 0,
    .apertureCtrlWrite 12 0x200 0, .apertureCtrlWrite 0 0x200 (2 ^ 32), .cairnBegin 0 0x1FF00, .cairnBegin 8 0x200, .cairnCommit 0 0x1FF00,
    .cairnCommit 8 0x200] : List Instr), i.wf = false := by decide

theorem test_ill_formed_refused_1 : ∀ i ∈ ([
    .cairnAbort 0 0x1FF00, .cairnAbort 8 0x200, .cairnRelease 0 0x1FF00, .cairnRelease 8 0x200, .cairnValidateDone 8, .cairnApply 8,
    .cairnWaitExceeded 8, .govModeWrite 0 0 0x1FF00, .govModeWrite 6 0 0x200, .govModeWrite 0 4 0x200, .govModeApply 6, .govHeartbeat 0x1FF00 0,
    .govHeartbeat 0x200 (2 ^ 32), .govLogRdWrite 0x1FF00 0, .govLogRdWrite 0x200 (2 ^ 32), .portEnable 0 0x1FF00, .portEnable 512 0x200,
    .portDisable 0 0x1FF00, .portDisable 512 0x200, .signalDetected 512 true, .trainingComplete 512, .trainingTimeout 512, .linkUp 512,
    .linkLoss 512 0 true, .linkLoss 0 512 true, .remoteFaultChange 512 true, .fecWindowEnd 512 (List.replicate 16 0) 0,
    .fecWindowEnd 0 (List.replicate 15 0) 0, .lanePowerRequest 0 0 0x1FF00, .lanePowerRequest 512 0 0x200, .lanePowerRequest 0 16 0x200,
    .frameStart 512 [], .entranceAdmit 512, .frameReceive 512, .pfcReceive 512 0 (List.replicate 8 0), .pfcReceive 0 256 (List.replicate 8 0),
    .pfcReceive 0 0 (List.replicate 8 65536), .pfcReceive 0 0 (List.replicate 7 0), .pauseReceive 512 0, .pauseReceive 0 65536] : List Instr), i.wf = false := by decide

theorem test_ill_formed_refused_2 : ∀ i ∈ ([
    .pfcPauseExpire 512 0, .pfcPauseExpire 0 9, .pfcWatchdog 512 0, .pfcWatchdog 0 8, .pfcResend 512, .entOverloadClear 8, .headDispatch 528 true,
    .admission 528, .spillSpanWrite 1048576, .farMigrate 1048576 0, .farMigrate 0 2, .farCopyComplete 1048576, .refillRead 1048576,
    .refillComplete 1048576, .poolEnable 0 0x1FF00, .poolEnable 16 0x200, .poolDisable 0 0x1FF00, .poolDisable 16 0x200, .poolAlloc 0 0x1FF00,
    .poolAlloc 16 0x200, .poolFree 0 0 0x1FF00, .poolFree 16 0 0x200, .poolFree 0 (2 ^ 28) 0x200, .schedulerDecision 529, .packetTransmit 512,
    .recirculateEgress 8, .grottoPortDeliver 8, .lpmDrain 0x1FF00, .dsCompareAndClear 0x1FF00, .exmInsert 0 0x1FF00 0, .exmInsert 4 0x200 0,
    .exmInsert 0 0x200 16, .exmDelete 0 0x1FF00 0, .exmDelete 4 0x200 0, .exmDelete 0 0x200 16, .exmUpdate 0 0x1FF00 0, .exmUpdate 4 0x200 0,
    .exmUpdate 0 0x200 16, .exmLookup 0 0x1FF00 0, .exmLookup 4 0x200 0] : List Instr), i.wf = false := by decide

theorem test_ill_formed_refused_3 : ∀ i ∈ ([
    .exmLookup 0 0x200 16, .exmHash 0 0x1FF00 0, .exmHash 4 0x200 0, .exmHash 0 0x200 16, .migrate 65536, .withdraw 65536, .stashReinsert 1024,
    .trieCompact 131072, .rootBuild 131072, .clsScrub 262144, .dsScrub 65536, .clsInject 0x1FF00, .dsInject 0x1FF00, .vltParInject 0x1FF00,
    .stcFlush 0x1FF00, .statWriteback 1073741824, .stcInject 0x1FF00, .chmInject 0x1FF00, .schInject 0x1FF00, .rimInject 0x1FF00, .pllLossOfLock 18,
    .clkInject 0x1FF00, .glowwormTrip 64, .glowwormRearm 64, .galleryPowerRequest 0 0x1FF00 0, .galleryPowerRequest 8 0x200 0,
    .galleryPowerRequest 0 0x200 16, .galleryRestEntry 8, .galleryWake 8 1, .galleryWake 0 0, .galleryWake 0 5, .galleryPowerGood 8,
    .galleryWakeDone 8, .powerGoodTimeout 8, .powerLoopDecision 8 0 0, .sumpRateDecision 4 0 0, .todPhaseAdj 0x1FF00 0, .todPhaseAdj 0x200 (2 ^ 32),
    .todStep 0x1FF00, .todReadLatch 0x1FF00] : List Instr), i.wf = false := by decide

theorem test_ill_formed_refused_4 : ∀ i ∈ ([
    .todValidSet 0x1FF00, .todValidClr 0x1FF00, .hbmRequest 4 0, .hbmRequest 0 32, .hbmRefresh 4 0, .hbmRefresh 0 32, .hbmScrub 2147483648,
    .hbmRateRequest 0 0x1FF00 0, .hbmRateRequest 4 0x200 0, .hbmRateRequest 0 0x200 16, .hbmStepStall 4, .hbmStepDone 4, .hbmStepFail 4,
    .refreshLoopDecision 4 0 0, .hbmPcRetrain 4 0 0 0 0 true, .hbmPcRetrain 0 32 0 0 0 true, .serdesReadapt 512, .cxlRecovery 2 0,
    .hbmPgRun 0 0x1FF00, .hbmPgRun 4 0x200, .hbmCmpDone 4 (List.replicate 40 0), .hbmCmpDone 0 (List.replicate 41 0), .hbmDelaySet 0 0 0x1FF00,
    .hbmDelaySet 4 0 0x200, .hbmDelaySet 0 (2 ^ 32) 0x200, .hbmTrnMark 0 0x1FF00, .hbmTrnMark 4 0x200, .hbmEccInject 0 0x1FF00, .hbmEccInject 4 0x200,
    .farLinkEnable 0 true 0x1FF00, .farLinkEnable 2 true 0x200, .farPerstRelease 2, .farLinkTrained 2 0 0, .farLinkTrained 0 16 0,
    .farLinkTrained 0 0 256, .farEnumDone 2 0, .farEnumFail 2 0, .farEnumFail 0 16, .farRetry 2, .farRecoveryExit 2] : List Instr), i.wf = false := by decide

theorem test_ill_formed_refused_5 : ∀ i ∈ ([
    .farLinkDown 2, .farReadComplete 1048576, .farRequestTimeout 1048576 true, .farIoAccess 0 0x1FF00, .farIoAccess 2 0x200, .farIoDone 2 0 0,
    .farIoDone 0 16 0, .farIoDone 0 0 (2 ^ 32), .farInject 0 0x1FF00, .farInject 2 0x200, .threadStart 0 0x1FF00, .threadStart 256 0x200,
    .threadRestart 0 0x1FF00, .threadRestart 256 0x200, .threadHalt 0 0x1FF00, .threadHalt 256 0x200, .threadKill 0 0x1FF00, .threadKill 256 0x200,
    .coreRestart 0 0x1FF00, .coreRestart 32 0x200, .coreRestartDone 32, .threadWake 256, .supervisorFaultPolicy 256, .supervisorIcuForward 32,
    .deadlockDetect 32, .supervisorDeadlockPolicy 32, .tcbTimerExpire 256, .tcbWait 256, .tcbPoll 256, .tcbWaitMask 256, .tcbSend 256, .tcbTimer 256,
    .tcbBind 256, .tcbCommit 256, .tcbRelease 256, .tcbWstat 256, .tcbPoolSize 256, .tcbPoolAlloc 256, .tcbPoolFree 256, .tcbPoolBp 256] : List Instr), i.wf = false := by decide

theorem test_ill_formed_refused_6 : ∀ i ∈ ([
    .tcbId 256, .tcbReserve 256, .tcbReserveWait 256, .tcbAcquire 256, .tcbAcquireWait 256, .grottoInjectTake 8, .dbgStop 0 0x1FF00,
    .dbgStop 256 0x200, .dbgResume 0 0x1FF00, .dbgResume 256 0x200, .dbgStep 0 0x1FF00, .dbgStep 256 0x200, .dbgStepEnd 256, .dbgAbandon 0 0x1FF00,
    .dbgAbandon 256 0x200, .dbgReadReg 0 0x1FF00, .dbgReadReg 256 0x200, .dbgWriteReg 0 0x1FF00, .dbgWriteReg 256 0x200, .grtInject 0 0x1FF00,
    .grtInject 32 0x200, .add 256, .sub 256, .and 256, .or 256, .xor 256, .shl 256, .shr 256, .sar 256, .addi 256, .andi 256, .ori 256, .xori 256,
    .shli 256, .shri 256, .sari 256, .lih 256, .clt 256, .cltu 256, .ceq 256] : List Instr), i.wf = false := by decide

theorem test_ill_formed_refused_7 : ∀ i ∈ ([
    .mul 256, .mulh 256, .div 256, .divu 256, .rem 256, .lb 256, .lh 256, .lw 256, .ld 256, .lbu 256, .lhu 256, .lwu 256, .sb 256, .sh 256, .sw 256,
    .sd 256, .beq 256, .bne 256, .blt 256, .bge 256, .bltu 256, .bgeu 256, .call 256, .jr 256, .crc32c 256, .popcnt 256, .clz 256, .bswap 256,
    .extr 256, .insr 256, .csel 256, .fence 256, .lampPowerOn 4 true true true true, .bootLdGo 0x1FF00, .bootLdResume 0x1FF00,
    .keyProvision 0 0x1FF00, .keyProvision 4 0x200, .keyRevoke 0 0x1FF00, .keyRevoke 4 0x200, .flashRelease true 0x1FF00] : List Instr), i.wf = false := by decide

theorem test_ill_formed_refused_8 : ∀ i ∈ ([
    .bootInject 0x1FF00, .ringEnable 0 0x1FF00, .ringEnable 240 0x200, .ringDoorbell 240 0, .ringDoorbell 0 (2 ^ 32), .ringReset 0 0x1FF00,
    .ringReset 240 0x200, .ringResetDone 240, .ringJobComplete 240, .ringNotify 240, .injectJob 240, .injectFetchRetry 240, .tblCmdNop 240,
    .tblCmdCont 240, .tblCmdWriteEntry 240, .tblCmdReadEntry 240, .tblCmdRegWrite 240, .tblCmdDsAdd 240, .tblCmdExm 240, .tblCmdCairn 240,
    .hifInject 0x1FF00, .icuDeliver 2, .icuAck 0 0 0 0x1FF00, .icuAck 2 0 0 0x200, .icuAck 0 64 0 0x200, .icuAck 0 0 4096 0x200,
    .icuMaskSet 0 0 0x1FF00, .icuMaskSet 2 0 0x200, .icuMaskSet 0 4096 0x200, .icuMaskClr 0 0 0x1FF00, .icuMaskClr 2 0 0x200,
    .icuMaskClr 0 4096 0x200, .svyConfig 0 0x1FF00 0, .svyConfig 64 0x200 0, .svyConfig 0 0x200 (2 ^ 128), .svyLatch 0x1FF00,
    .statPairRead 1073741824, .statPairWrite 1073741824 0, .statPairWrite 0 (2 ^ 128), .snpGo 0x1FF00] : List Instr), i.wf = false := by decide

theorem test_ill_formed_refused_9 : ∀ i ∈ ([
    .echoArchive 2, .echoSeedWrite 0 0x1FF00, .echoSeedWrite (2 ^ 32) 0x200, .i3cCcc (.entdaa 128), .i3cCcc (.setdasa 128),
    .jtagDbgRegAccess 0x4000000 none, .jtagDbgRegAccess 2 none, .jtagDbgRegAccess 0 (some (2 ^ 32)),
    .sensorSample (List.replicate 23 none) (List.replicate 16 none) none,
    .sensorSample (List.replicate 24 (some 65536)) (List.replicate 16 none) none,
    .sensorSample (List.replicate 24 none) (List.replicate 17 none) none,
    .sensorSample (List.replicate 24 none) (List.replicate 16 (some 65536)) none,
    .sensorSample (List.replicate 24 none) (List.replicate 16 none) (some 2048), .hostLinkUp 16 0, .hostLinkUp 0 256, .pcieConfigWrite (.bar 1 0),
    .pcieConfigWrite (.bar 0 (2 ^ 64)), .msixTableWrite (.dword 2048 0 0), .msixTableWrite (.dword 0 4 0), .msixTableWrite (.dword 0 0 (2 ^ 32)),
    .ringDmaError 240, .farLinkRecovery 2, .farFlitCrcError 2] : List Instr), i.wf = false := by decide

/-! The same commands with operands in range are taken. -/

theorem test_well_formed_taken_0 : ∀ i ∈ ([
    .registerWrite 0x200 0 0 true, .clearOnRead 0x200 0, .softReset 0x6000 0x200, .softResetDone 0x6000, .pageLock 0x6000 0x200,
    .eventInject 0x6000 0x200 0, .faultInject 0x6000 0x200 0, .windowWordWrite 0x200 0x1800000 0, .assemblyTimeout 0x1800000 0x200,
    .windowSnapshotRead 0x200 0x1800000, .apertureCtrlWrite 0 0x200 0, .cairnBegin 0 0x200, .cairnCommit 0 0x200, .cairnAbort 0 0x200,
    .cairnRelease 0 0x200, .cairnValidateDone 0, .cairnApply 0, .cairnWaitExceeded 0, .govModeWrite 0 0 0x200, .govModeApply 0, .govHeartbeat 0x200 0,
    .govLogRdWrite 0x200 0, .portEnable 0 0x200, .portDisable 0 0x200, .signalDetected 0 true, .trainingComplete 0, .trainingTimeout 0, .linkUp 0,
    .linkLoss 0 0 true, .remoteFaultChange 0 true, .fecWindowEnd 0 (List.replicate 16 0) 0, .lanePowerRequest 0 0 0x200, .frameStart 0 [],
    .entranceAdmit 0, .frameReceive 0, .pfcReceive 0 0 (List.replicate 8 0), .pauseReceive 0 0, .pfcPauseExpire 0 0, .pfcWatchdog 0 0, .pfcResend 0] : List Instr), i.wf = true := by decide

theorem test_well_formed_taken_1 : ∀ i ∈ ([
    .entOverloadClear 0, .headDispatch 0 true, .admission 0, .spillSpanWrite 0, .farMigrate 0 0, .farCopyComplete 0, .refillRead 0, .refillComplete 0,
    .poolEnable 0 0x200, .poolDisable 0 0x200, .poolAlloc 0 0x200, .poolFree 0 0 0x200, .schedulerDecision 0, .packetTransmit 0, .recirculateEgress 0,
    .grottoPortDeliver 0, .lpmDrain 0x200, .dsCompareAndClear 0x200, .exmInsert 0 0x200 0, .exmDelete 0 0x200 0, .exmUpdate 0 0x200 0,
    .exmLookup 0 0x200 0, .exmHash 0 0x200 0, .migrate 0, .withdraw 0, .stashReinsert 0, .trieCompact 0, .rootBuild 0, .clsScrub 0, .dsScrub 0,
    .clsInject 0x200, .dsInject 0x200, .vltParInject 0x200, .stcFlush 0x200, .statWriteback 0, .stcInject 0x200, .chmInject 0x200, .schInject 0x200,
    .rimInject 0x200, .pllLossOfLock 0] : List Instr), i.wf = true := by decide

theorem test_well_formed_taken_2 : ∀ i ∈ ([
    .clkInject 0x200, .glowwormTrip 0, .glowwormRearm 0, .galleryPowerRequest 0 0x200 0, .galleryRestEntry 0, .galleryWake 0 1, .galleryPowerGood 0,
    .galleryWakeDone 0, .powerGoodTimeout 0, .powerLoopDecision 0 0 0, .sumpRateDecision 0 0 0, .todPhaseAdj 0x200 0, .todStep 0x200,
    .todReadLatch 0x200, .todValidSet 0x200, .todValidClr 0x200, .hbmRequest 0 0, .hbmRefresh 0 0, .hbmScrub 0, .hbmRateRequest 0 0x200 0,
    .hbmStepStall 0, .hbmStepDone 0, .hbmStepFail 0, .refreshLoopDecision 0 0 0, .hbmPcRetrain 0 0 0 0 0 true, .serdesReadapt 0, .cxlRecovery 0 0,
    .hbmPgRun 0 0x200, .hbmCmpDone 0 (List.replicate 40 0), .hbmDelaySet 0 0 0x200, .hbmTrnMark 0 0x200, .hbmEccInject 0 0x200,
    .farLinkEnable 0 true 0x200, .farPerstRelease 0, .farLinkTrained 0 0 0, .farEnumDone 0 0, .farEnumFail 0 0, .farRetry 0, .farRecoveryExit 0,
    .farLinkDown 0] : List Instr), i.wf = true := by decide

theorem test_well_formed_taken_3 : ∀ i ∈ ([
    .farReadComplete 0, .farRequestTimeout 0 true, .farIoAccess 0 0x200, .farIoDone 0 0 0, .farInject 0 0x200, .threadStart 0 0x200,
    .threadRestart 0 0x200, .threadHalt 0 0x200, .threadKill 0 0x200, .coreRestart 0 0x200, .coreRestartDone 0, .threadWake 0,
    .supervisorFaultPolicy 0, .supervisorIcuForward 0, .deadlockDetect 0, .supervisorDeadlockPolicy 0, .tcbTimerExpire 0, .tcbWait 0, .tcbPoll 0,
    .tcbWaitMask 0, .tcbSend 0, .tcbTimer 0, .tcbBind 0, .tcbCommit 0, .tcbRelease 0, .tcbWstat 0, .tcbPoolSize 0, .tcbPoolAlloc 0, .tcbPoolFree 0,
    .tcbPoolBp 0, .tcbId 0, .tcbReserve 0, .tcbReserveWait 0, .tcbAcquire 0, .tcbAcquireWait 0, .grottoInjectTake 0, .dbgStop 0 0x200,
    .dbgResume 0 0x200, .dbgStep 0 0x200, .dbgStepEnd 0] : List Instr), i.wf = true := by decide

theorem test_well_formed_taken_4 : ∀ i ∈ ([
    .dbgAbandon 0 0x200, .dbgReadReg 0 0x200, .dbgWriteReg 0 0x200, .grtInject 0 0x200, .add 0, .sub 0, .and 0, .or 0, .xor 0, .shl 0, .shr 0, .sar 0,
    .addi 0, .andi 0, .ori 0, .xori 0, .shli 0, .shri 0, .sari 0, .lih 0, .clt 0, .cltu 0, .ceq 0, .mul 0, .mulh 0, .div 0, .divu 0, .rem 0, .lb 0,
    .lh 0, .lw 0, .ld 0, .lbu 0, .lhu 0, .lwu 0, .sb 0, .sh 0, .sw 0, .sd 0, .beq 0] : List Instr), i.wf = true := by decide

theorem test_well_formed_taken_5 : ∀ i ∈ ([
    .bne 0, .blt 0, .bge 0, .bltu 0, .bgeu 0, .call 0, .jr 0, .crc32c 0, .popcnt 0, .clz 0, .bswap 0, .extr 0, .insr 0, .csel 0, .fence 0,
    .lampPowerOn 0 true true true true, .bootLdGo 0x200, .bootLdResume 0x200, .keyProvision 0 0x200, .keyRevoke 0 0x200, .flashRelease true 0x200,
    .bootInject 0x200, .ringEnable 0 0x200, .ringDoorbell 0 0, .ringReset 0 0x200, .ringResetDone 0, .ringJobComplete 0, .ringNotify 0, .injectJob 0,
    .injectFetchRetry 0, .tblCmdNop 0, .tblCmdCont 0, .tblCmdWriteEntry 0, .tblCmdReadEntry 0, .tblCmdRegWrite 0, .tblCmdDsAdd 0, .tblCmdExm 0,
    .tblCmdCairn 0, .hifInject 0x200, .icuDeliver 0] : List Instr), i.wf = true := by decide

theorem test_well_formed_taken_6 : ∀ i ∈ ([
    .icuAck 0 0 0 0x200, .icuMaskSet 0 0 0x200, .icuMaskClr 0 0 0x200, .svyConfig 0 0x200 0, .svyLatch 0x200, .statPairRead 0, .statPairWrite 0 0,
    .snpGo 0x200, .echoArchive 0, .echoSeedWrite 0 0x200, .jtagDbgRegAccess 0 none,
    .sensorSample (List.replicate 24 none) (List.replicate 16 none) none, .hostLinkUp 0 0, .ringDmaError 0, .farLinkRecovery 0, .farFlitCrcError 0] : List Instr), i.wf = true := by decide

/-! The engine as it runs after boot, and how a test changes it. -/

/-- The engine runs, boot has ended, every register reads its reset value. -/
def ready : State :=
  { State.reset with dev := { State.reset.dev with body := { State.reset.dev.body with sup := { mode := .running }, boot := { reached := 12 } } } }

/-- The state with its body changed. -/
def chg (s : State) (f : Body → Body) : State := { s with dev := { s.dev with body := f s.dev.body } }

/-- The state with register fields set: page, field, index, value. -/
def regs (s : State) (l : List (Nat × Fld × Nat × Nat)) : State :=
  chg s fun b => l.foldl (fun b x => b.wr x.1 x.2.1 x.2.2.2 x.2.2.1) b

/-- The state with table entries set: table, index, value. -/
def ents (s : State) (l : List (Nat × Nat × Nat)) : State := chg s fun b => l.foldl (fun b x => b.setEnt x.1 x.2.1 x.2.2) b

/-- A write of an address by a master is carried out. -/
def reachB (s : State) (m a : Nat) : Bool :=
  s.dev.runs [2] && s.dev.body.boot.bar0 && Master.known m && m != Master.bmc && s.dev.body.masterReach m a true

theorem reaches_of {s : State} {m a : Nat} (h : reachB s m a = true) : s.reaches m a := by
  simp only [reachB, Bool.and_eq_true, bne_iff_ne] at h
  exact ⟨h.1.1.1.1, h.1.1.1.2, h.1.1.2, h.1.2, h.2⟩

/-- A write of an address by a master is taken. -/
def takeB (s : State) (m a : Nat) : Bool := reachB s m a && s.reg (pageOf a) R.PG_RESET_BUSY == 0

theorem takes_of {s : State} {m a : Nat} (h : takeB s m a = true) : s.takes m a := by
  simp only [takeB, Bool.and_eq_true, beq_iff_eq] at h
  exact ⟨reaches_of h.1, h.2⟩

/-- A read of an address by a master is answered. -/
def answerB (s : State) (m a : Nat) : Bool :=
  s.dev.runs [2] && s.dev.body.boot.bar0 && Master.known m && s.dev.body.masterReach m a false

theorem answers_of {s : State} {m a : Nat} (h : answerB s m a = true) : s.answers m a := by
  simp only [answerB, Bool.and_eq_true] at h
  exact ⟨h.1.1.1, h.1.1.2, h.1.2, h.2⟩

/-- A page of a kind. -/
def pageB (p : Nat) (k : PK) : Bool := p % 0x1000 == 0 && decide (p < 0x1000000) && pageKind (p / 0x1000) == some k

theorem page_of {p : Nat} {k : PK} (h : pageB p k = true) : PageIs p k := by
  simp only [pageB, Bool.and_eq_true, beq_iff_eq, decide_eq_true_eq] at h
  exact ⟨h.1.1, h.1.2, h.2⟩

/-- A thread issues a defined instruction. -/
def issueB (s : State) (th w : Nat) : Bool :=
  s.dev.runs [14] && s.dev.body.issues th && decide (s.dev.body.fetch th = .ok w) && !undefinedWord w && !(s.dev.body.thr th).rfArm

theorem issues_of {s : State} {th w : Nat} (h : issueB s th w = true) : s.issues th w := by
  simp only [issueB, Bool.and_eq_true, decide_eq_true_eq, Bool.not_eq_true'] at h
  exact ⟨h.1.1.1.1, h.1.1.1.2, h.1.1.2, h.1.2, h.2⟩

/-! For each statement, states and operands that meet the hypotheses of its clauses. -/

theorem witness_IdleStepPassesTime :
    ready.pending = [] ∧ ready.dev.body.sup.mode ≠ .off ∧
    (chg ready fun b => { b with sup := { mode := .off } }).dev.body.sup.mode = .off := by decide

theorem witness_IgnoredCommandsChangeNothing :
    (State.reset.dev.body.sup.mode ≠ .running ∧ (Instr.add 0).always = false) ∧ (Instr.add 256).wf = false := by decide

theorem witness_RegisterWriteSetsRwField :
    pageB (Pg.rew 7) .rew ∧ PK.rew ∈ plainKinds ∧ PK.rew.fieldsAt 0x80 = [(R.REW_INJ_CNT, 0, 0)] ∧ R.REW_INJ_CNT.acc = .rw ∧
    takeB ready Master.host (Pg.rew 7 + 0x80) := by decide

theorem witness_PartialWriteIsDropped :
    ready.dev.runs [2] ∧ ready.dev.body.boot.bar0 ∧ Master.known Master.jtag ∧ addrOk 0x3FFFFFC ∧ addrOk 0xFFFFFC ∧
    placeOf 0xFFFFFC = .nothing ∧ placeOf 0x3FFFFFC ≠ .nothing ∧ placeOf 0 ≠ .nothing := by decide

theorem witness_ReadClearsRcField :
    (pageB Pg.stc .stc ∧ PK.stc.fieldsAt 0x90 = [(R.STC_LOST, 0, 0)] ∧ R.STC_LOST.acc = .rc ∧ answerB ready Master.bmc (Pg.stc + 0x90) ∧
      ready.reg Pg.stc R.PG_RESET_BUSY = 0 ∧ notedAt (Pg.stc + 0x90) = false) ∧
    (let s := regs ready [(Pg.survey, R.SVY_RUN, 0, 0)]
     pageB Pg.survey .survey ∧ answerB s Master.host (Pg.survey + 0x30) ∧ s.reg Pg.survey R.SVY_RUN = 0) := by decide

theorem witness_PageResetAndLock :
    (pageB Pg.vault .vault ∧ reachB ready Master.host (Pg.vault + 0x10) ∧ PK.vault ∈ stillKinds) ∧
    (pageB Pg.survey .survey ∧ ready.dev.runs [2] ∧ reachB ready Master.host (Pg.survey + 0x64)) ∧
    (let s := { ready with dev := { ready.dev with sticky := { locked := [Pg.survey] } } }
     s.dev.pageLocked Pg.survey ∧ ∀ i < 2, takeB s Master.host (R.SVY_USER_CFG.addr Pg.survey i 0)) := by decide

theorem witness_InjectedEventsAndFaults :
    (let s := regs ready [(Pg.lamp, evtPend R.LAMP_EVT_GLW, 0, 1), (Pg.fmu, fltEn FLT_REG_PARITY, 0, 0)]
     pageB Pg.lamp .lamp ∧ R.LAMP_EVT_GLW ∈ PK.lamp.evts ∧ Pg.lamp ≠ Pg.governor ∧ reachB s Master.host (Pg.lamp + 0x2C) ∧
      notedAt (Pg.lamp + 0x20) = false ∧ notedAt (Pg.lamp + 0x30) = false ∧ s.reg Pg.lamp (evtPend R.LAMP_EVT_GLW) = 1 ∧
      ready.reg Pg.lamp (evtPend R.LAMP_EVT_GLW) ≠ 1 ∧
      pageB Pg.fmu .fmu ∧ reachB s Master.host (Pg.fmu + 0x48) ∧ s.reg Pg.fmu (fltEn FLT_REG_PARITY) = 0 ∧
      ready.reg Pg.fmu (fltEn FLT_REG_PARITY) = 1) ∧
    (pageB Pg.governor .governor ∧ reachB ready Master.host (Pg.governor + 0x2C) ∧ bitOn (2 ^ 32 - 1) R.GOV_EVT_STALL) ∧
    (∀ x ∈ [(Pg.lamp, PK.lamp, 0), (Pg.galPower 7, PK.galPower, 0), (Pg.fmu, PK.fmu, 0), (Pg.pool 15, PK.pool, 0), (Pg.parser 7, PK.parser, 0),
        (Pg.act 7, PK.act, 1), (Pg.preclass 7, PK.preclass, 0)],
      pageB x.1 x.2.1 ∧ x.2.2 ∈ x.2.1.fltBits ∧ reachB ready Master.host (x.1 + 0x48)) := by decide +kernel

theorem witness_WindowEntries :
    let ap := regs ready [(Pg.aperture, R.TBL_AP_TABLE, 11, Tbl.nh)]
    let a := 0x1000000 + 0x400000 * 11
    let open_ := chg ap fun b => { b with win := { asm := [{ win := a, owner := Master.host, of := .ent Tbl.nh 0, words := [(0, 1)] }] } }
    let c := Pg.lane 0 + 0x800
    let snap := chg ready fun b => { b with win := { snaps := [{ win := Pg.lane 0, reader := Master.host, of := .ctr (Pg.lane 0) 0, val := 7 }] } }
    (reachB ap Master.host a ∧ winOk a ∧ placeOf a = .window ∧ pageOf a ≠ Pg.boot ∧ (ap.dev.body.viewOf a).of = .ent Tbl.nh 0 ∧
      (ap.dev.body.viewOf a).off + 4 < (ap.dev.body.viewOf a).stride ∧ ∀ x ∈ ap.dev.body.win.asm, x.win ≠ Body.winOf a) ∧
    (reachB open_ Master.jtag a ∧ (open_.dev.body.win.asm.find? fun x => x.win == Body.winOf a).map (·.owner) = some Master.host ∧
      ∃ x ∈ open_.dev.body.win.asm, x.win = Body.winOf a ∧ x.owner = Master.host) ∧
    takeB ready Master.host (R.TBL_AP_TABLE.addr Pg.aperture 11 0) ∧
    (answerB ready Master.host c ∧ winOk c ∧ placeOf c = .window ∧ (ready.dev.body.viewOf c).of = .ctr (Pg.lane 0) 0 ∧
      (ready.dev.body.viewOf c).live = false ∧ (ready.dev.body.viewOf c).off + 4 < (ready.dev.body.viewOf c).stride ∧
      snap.dev.body.win.snaps.find? (fun x => x.win == Body.winOf c && x.reader == Master.host && x.of == .ctr (Pg.lane 0) 0) =
        some { win := Pg.lane 0, reader := Master.host, of := .ctr (Pg.lane 0) 0, val := 7 }) := by decide

theorem witness_CairnSlotCommands :
    let a := R.CAIRN_CMD.addr Pg.cairn 7 0
    let slot := fun st own => regs ready [(Pg.cairn, R.CAIRN_STATE, 7, st), (Pg.cairn, R.CAIRN_OWNER, 7, own)]
    let timed := regs (slot CS_OPEN 0x200) [(Pg.cairn, R.CAIRN_MODE, 7, 3)]
    let bound := chg (slot CS_DONE 0x200) fun b => b.setSlot 0 { bound := some 0x200 }
    (∀ st ∈ [CS_IDLE, CS_OPEN, CS_VALIDATE, CS_PENDING, CS_DONE, CS_POISONED], takeB (slot st 0x200) 0x200 a ∧
      (slot st 0x200).reg Pg.cairn R.CAIRN_STATE 7 = st ∧ (slot st 0x200).reg Pg.cairn R.CAIRN_OWNER 7 = 0x200 ∧
      (slot st 0x200).dev.body.boundSlot 0x200 = none ∧ takeB (slot st 0x200) Master.host a ∧
      (slot st 0x200).reg Pg.cairn R.CAIRN_OWNER 7 ≠ Master.host) ∧
    bound.dev.body.boundSlot 0x200 ≠ none ∧ (slot CS_OPEN 0x200).dev.body.commitFails 7 = none ∧
    timed.dev.body.commitFails 7 = some CR_BAD_MODE ∧ takeB timed 0x200 a := by decide

theorem witness_CairnValidationAndApply :
    let slot := fun st x => chg (regs ready [(Pg.cairn, R.CAIRN_STATE, 7, st)]) fun b => b.setSlot 7 x
    let bad : Staged := { tgt := .ent Tbl.schQ 5, val := 0, addr := 64 }
    let p : Staged := { tgt := .patch 7 1023, val := 5, addr := 4 }
    let b := (slot CS_VALIDATE { staged := [bad] }).dev.body
    let w := slot CS_PENDING { staged := [p] }
    let two := regs w [(Pg.cairn, R.CAIRN_STATE, 6, CS_PENDING)]
    let lim := ready.reg Pg.cairn R.CAIRN_WAIT_LIMIT * 1000
    let waited := fun mode n => chg (regs (slot CS_PENDING {}) [(Pg.cairn, R.CAIRN_MODE, 7, mode)]) fun b => { b with clk := n, tod := n * 65536 }
    (∀ x ∈ [({} : Slot'), { staged := [bad] }], (slot CS_VALIDATE x).dev.runs [2] ∧ (slot CS_VALIDATE x).reg Pg.cairn R.CAIRN_STATE 7 = CS_VALIDATE) ∧
    (((slot CS_VALIDATE {}).dev.body.slot 7).staged = [] ∧ (b.slot 7).staged = [bad] ∧ bad.addr < 2 ^ 32 ∧
      b.targetFails (b.overlay (b.slot 7).staged) (b.slot 7).staged bad) ∧
    (∀ mode ∈ [0, 2], (∀ n ∈ [lim, lim + 1], (waited mode n).reg Pg.cairn R.CAIRN_STATE 7 = CS_PENDING ∧
      ((waited mode n).dev.body.slot 7).waitSeen = false ∧ (waited mode n).reg Pg.cairn R.CAIRN_MODE 7 = mode) ∧
      ¬ ((waited mode lim).dev.body.slot 7).since + lim < (waited mode lim).dev.body.clk ∧
      ((waited mode (lim + 1)).dev.body.slot 7).since + lim < (waited mode (lim + 1)).dev.body.clk ∧
      ((waited mode (lim + 1)).dev.body.slotTarget 7 + lim) * 65536 < (waited mode (lim + 1)).dev.body.tod) ∧
    (w.dev.runs [2] ∧ w.reg Pg.cairn R.CAIRN_STATE 7 = CS_PENDING ∧ w.dev.body.modeDue 7 ∧ w.dev.body.retireViews.applyRoom 7 ∧
      w.dev.body.retireViews.modeDue 7 ∧ (∀ k < 7, w.reg Pg.cairn R.CAIRN_STATE k ≠ CS_PENDING) ∧ (w.dev.body.slot 7).staged = [p]) ∧
    (two.dev.runs [2] ∧ two.dev.body.modeDue 7 ∧ two.reg Pg.cairn R.CAIRN_STATE 6 = CS_PENDING ∧ two.dev.body.retireViews.applyRoom 6 ∧
      two.dev.body.retireViews.modeDue 6) := by decide +kernel

theorem witness_GovernorCommands :
    (∀ loop < 6, takeB ready Master.host (R.GOV_MODE.addr Pg.governor loop 0) ∧ ready.reg Pg.governor R.GOV_BUSY loop = 0 ∧
      (regs ready [(Pg.governor, R.GOV_BUSY, loop, 1)]).reg Pg.governor R.GOV_BUSY loop = 1) ∧
    ready.dev.body.gov.frozen = false ∧ Master.isGovernor 0x1FF ∧ takeB ready 0x1FF (R.GOV_HEARTBEAT.addr Pg.governor 0 0) ∧
    Master.isGovernor Master.host = false ∧ takeB ready Master.host (R.GOV_HEARTBEAT.addr Pg.governor 0 0) ∧
    takeB ready Master.host (R.GOV_LOG_RD.addr Pg.governor 0 0) ∧ ready.reg Pg.governor R.GOV_LOG_WR < 1 := by decide

/-- A packet on its way, with its verdict good. -/
def pkt0 : Pkt := { data := List.replicate 60 0, len := 64, verdict := .good }

/-- A port's link in a state, the port enabled. -/
def link (p st : Nat) : State := regs ready [(Pg.lane p, R.PORT_MODE, 0, if p % 8 = 0 then 8 else 1), (Pg.lane p, R.PORT_EN, 0, 1), (Pg.lane p, R.PORT_LINK_STATE, 0, st), (Pg.preclass (p / 64), R.PG_EN, 0, 1)]

theorem witness_PortLinkStates :
    (let s := regs (link 504 0) [(Pg.lane 504, R.PORT_EN, 0, 0)]
     takeB s Master.host (R.PORT_EN.addr (Pg.lane 504) 0 0) ∧ s.reg (Pg.lane 504) R.PORT_EN = 0 ∧ s.dev.body.portValid 504) ∧
    (let s := link 504 4
     takeB s Master.host (R.PORT_EN.addr (Pg.lane 504) 0 0) ∧ s.reg (Pg.lane 504) R.PORT_EN = 1 ∧ s.dev.body.notPort 504 = false ∧
      s.dev.body.rxOf 504 = none ∧ 64 ≤ s.reg (Pg.lane 504) R.PORT_MAX_FRAME ∧ s.reg (Pg.lane 504) R.PORT_MAX_FRAME ≤ 10240 ∧
      s.dev.body.sup.testPins = false ∧ 511 ∈ s.dev.body.portLanes 504) ∧
    (∀ st < 5, (link 504 st).dev.runs [] ∧ (link 504 st).reg (Pg.lane 504) R.PORT_LINK_STATE = st) := by decide +kernel

theorem witness_LaneAndWindowCommands :
    let thr := regs ready [(Pg.lane 511, R.PORT_FEC_DEG_THR, 0, 14)]
    let on := link 504 4
    (ready.dev.runs [] ∧ (List.replicate 15 0 ++ [1]).length = 16 ∧ thr.reg (Pg.lane 511) R.PORT_FEC_DEG_THR = 14) ∧
    (reachB ready Master.host (Pg.lane 511 + 0x18) ∧ ready.dev.body.laneOwner 511 = none) ∧
    (reachB on Master.host (Pg.lane 511 + 0x18) ∧ (on.dev.body.laneOwner 511).isSome) ∧
    (let hold := ready.reg (Pg.preclass 7) R.ENT_OVL_HOLD * 1000
     ready.dev.body.passed (Mk.overload 7) hold ∧ (chg ready fun b => { b with marks := [(Mk.overload 7, 0)] }).dev.body.passed (Mk.overload 7) hold = false) := by decide +kernel

theorem witness_FramesEnterTheEntrance :
    let up := link 511 4
    let good := withFcs (List.replicate 60 0)
    let f : RxFrame := { wire := good, data := good.take 60, ts := 0 }
    let runt : RxFrame := { f with wire := List.replicate 63 0 }
    let rx := fun (f : RxFrame) => chg up fun b => { b with net := { b.net with rx := [(511, f)] } }
    let full := regs (rx f) [(Pg.preclass 7, R.ENT_THR, 3, 0)]
    let e : EntFrame := { data := good, ts := 0, prio := 3, pfcPrio := 0, held := 0 }
    let f' : RxFrame := { f with place := .entrance }
    let held := chg (rx f') fun b => { b with net := { b.net with ent := [(511, [e])] } }
    (up.dev.runs [] ∧ up.dev.body.portUp 511 ∧ up.dev.body.rxOf 511 = none ∧ up.dev.body.parked 7 = false ∧ up.dev.body.galInReset 7 = false ∧
      up.dev.body.portLoop 511 ≠ 1 ∧ up.reg (Pg.lane 511) R.PORT_MACSEC_EN = 0 ∧ (up.dev.body.rxView 511 good).data = some good) ∧
    ((rx f).dev.body.rxOf 511 = some f ∧ f.place = .mac ∧ f.wire.length = 64 ∧ Body.isMacControl f.wire = false ∧
      (rx f).dev.body.entOcc 7 < (rx f).reg (Pg.preclass 7) R.ENT_THR ((rx f).dev.body.preClassify 511 f.data) * 256) ∧
    full.reg (Pg.preclass 7) R.ENT_THR (full.dev.body.preClassify 511 f.data) * 256 ≤ full.dev.body.entOcc 7 ∧
    ((rx runt).dev.body.rxOf 511 = some runt ∧ runt.wire.length = 63 ∧ runt.place ≠ .gone) ∧
    (let g : RxFrame := { runt with place := .gone, why := .msec }
     (rx g).dev.body.rxOf 511 = some g) ∧
    (let x : Pkt := { pkt0 with verdict := .unknown, owner := 5 }
     let g : RxFrame := { f with place := .pipe 5 }
     let s := chg (rx g) fun b => { b with pipe := { b.pipe with pkts := [(5, x)] } }
     s.dev.body.rxOf 511 = some g ∧ (5, x) ∈ s.dev.body.pipe.pkts) ∧
    (held.dev.body.rxOf 511 = some f' ∧ held.dev.body.rxVerdict 511 f' = .good ∧ held.dev.body.fifo 511 = [] ++ [e] ∧
      held.dev.body.entOcc 7 - Body.round64 e.held + Body.round64 f'.data.length ≤ 4194304) := by decide +kernel

theorem witness_PfcAndPause :
    let up := regs (link 511 4) [(Pg.lane 511, R.PORT_PFC_RX_EN, 0, 0x80), (Pg.lane 511, R.PORT_PFC_PAUSED, 0, 0x80), (Pg.lane 511, R.PORT_PFC_XOFF, 0, 1)]
    up.dev.runs [] ∧ up.dev.body.portUp 511 ∧ up.dev.body.parked 7 = false ∧ bitOn 0x80 7 ∧ bitOn (up.reg (Pg.lane 511) R.PORT_PFC_RX_EN) 7 ∧
    bitOn 0x80 0 = false ∧ bitOn (up.reg (Pg.lane 511) R.PORT_PFC_PAUSED) 7 ∧ up.reg (Pg.lane 511) R.PORT_PFC_WD ≠ 0 ∧
    up.reg (Pg.lane 511) R.PORT_PFC_XOFF ≠ 0 ∧ up.dev.body.portSends 511 ∧
    (let held := chg up fun b => { b with marks := [(Mk.pause 511 7, 0)], net := { b.net with pause := [(16 * 511 + 7, 65535)] } }
     let n := held.dev.body.quantaNs 511 (Sp.get 0 held.dev.body.net.pause (16 * 511 + 7))
     held.dev.body.passed (Mk.pause 511 7) n = false ∧ up.dev.body.passed (Mk.pause 511 7) n) ∧
    up.dev.body.passed (Mk.paused 511 7) (up.reg (Pg.lane 511) R.PORT_PFC_WD * 1000000 + 1) ∧
    up.dev.body.passed (Mk.xoff 511) (ceilDiv (up.reg (Pg.lane 511) R.PORT_PFC_QUANTA * 256) (max 1 (up.dev.body.portGb 511))) := by decide +kernel

/-- Pool 15 in a memory: 4 buffers of some bytes, on, with some buffers allocated. -/
def pool15 (mem size own : Nat) (alloc : List Nat) : State :=
  chg (regs ready [(Pg.pool 15, R.POOL_MEM, 0, mem), (Pg.pool 15, R.POOL_SIZE, 0, size / 64), (Pg.pool 15, R.POOL_COUNT, 0, 4),
    (Pg.pool 15, R.POOL_WARN, 0, 1), (Pg.pool 15, R.POOL_OWNERS, 0, own), (Pg.pool 15, R.PG_EN, 0, 1),
    (Pg.pool 15, R.POOL_FREE_CNT, 0, 4 - alloc.length)]) fun b => b.setAlloc 15 alloc

theorem witness_PoolCommands :
    let own := 2 ^ 5
    let off := fun n => regs (pool15 0 64 own []) [(Pg.pool 15, R.PG_EN, 0, 0), (Pg.pool 15, R.POOL_COUNT, 0, n)]
    let some_ := pool15 0 64 own [0, 3]
    let all := pool15 0 64 own [0, 1, 2, 3]
    let lost := chg some_ fun b => { b with buf := { b.buf with bitBad := [(15, 3)] } }
    (reachB (off 4) Master.host (Pg.pool 15 + 0x10) ∧ (off 4).reg (Pg.pool 15) R.PG_EN = 0 ∧ (off 4).dev.body.poolValid 15 ∧
      (off 0).dev.body.poolValid 15 = false) ∧
    (reachB some_ Master.host (Pg.pool 15 + 0x10) ∧ some_.reg (Pg.pool 15) R.PG_EN = 1 ∧ some_.dev.body.allocOf 15 ≠ [] ∧
      (pool15 0 64 own []).dev.body.allocOf 15 = []) ∧
    (takeB some_ Master.host (Pg.pool 15 + 0xB4) ∧ some_.dev.body.poolFor 5 0 64 = some 15 ∧ some_.dev.body.poolSize 15 = 64 ∧
      some_.reg (Pg.pool 15) R.POOL_FREE_CNT ≠ 0 ∧ (some_.dev.body.allocOf 15).Pairwise (· < ·)) ∧
    (all.dev.body.poolFor 5 0 64 = some 15 ∧ all.reg (Pg.pool 15) R.POOL_FREE_CNT = 0) ∧ (off 4).dev.body.poolFor 5 0 64 = none ∧
    (takeB some_ Master.host (Pg.pool 15 + 0xBC) ∧ (15, 3) ∉ some_.dev.body.buf.bitBad ∧ some_.reg (Pg.pool 15) R.POOL_COUNT = 4 ∧
      3 ∈ some_.dev.body.allocOf 15 ∧ 2 ∉ some_.dev.body.allocOf 15 ∧ (15, 3) ∈ lost.dev.body.buf.bitBad ∧ (lost.dev.body.allocOf 15).Nodup) := by decide +kernel

theorem witness_RimstoneLedgers :
    let open_ := chg ready fun b => { b with rim := { b.rim with snapOpen := true, snapBal := [(24, 2097152)] } }
    let off1 := chg open_ fun b => { b with rim := { b.rim with snapBal := [(24, 2097152), (54, 1)] } }
    (ready.dev.runs [13] ∧ ready.reg Pg.rim R.RIM_EN = 1 ∧ ready.dev.body.rim.snapOpen = false) ∧ open_.dev.body.rim.snapOpen ∧
    (∀ l < 55, open_.dev.body.discrepancy l = 0) ∧ (off1.dev.body.discrepancy 54 ≠ 0 ∧ ∀ k < 55, k ≠ 54 → off1.dev.body.discrepancy k = 0) ∧
    (let s := regs ready [(Pg.rim, R.RIM_INJ_LEDGER, 0, 54)]
     takeB s Master.host (Pg.rim + 0xA0) ∧ s.reg Pg.rim R.RIM_INJ_LEDGER = 54) := by decide +kernel

/-- The stacks' controllers are enabled. -/
def sumpOn (s : State) : State := regs s ((List.range 4).map fun k => (Pg.hbm k 0, R.PG_EN, 0, 1))

theorem witness_SpillAndRefill :
    let q := 2 ^ 20 - 1
    let cs := (List.range 16).map fun i => ({ pid := 0, pos := i, cell := i } : QCell)
    let st := fun (x : Queue) (s : State) => chg s fun b => { b with pipe := { b.pipe with pkts := [(0, pkt0)] }, buf := { b.buf with queues := [(q, x)] } }
    let s1 := st { spill := true, tail := cs } (sumpOn (pool15 1 4096 4 []))
    let sp : Span := { pool := 15, buf := 1, cells := cs, flight := 1 }
    let s2 := st { spill := true, spans := [{ sp with flight := 0 }] } (pool15 1 4096 4 [1])
    let a := (pool15 1 4096 4 [1]).dev.body.bufAddr 15 1
    let s3 := chg (st { spill := true, spans := [sp, sp] } (sumpOn (pool15 1 4096 4 [1]))) fun b =>
      { b with mem := { b.mem with sump := Mem.write [] (Sump.sideAddr a + 80) (leBytes 4 q) } }
    let s4 := st { spill := true, spans := [sp, sp], sumpUeArm := true } (sumpOn (pool15 1 4096 4 [1]))
    let s5 := st { spill := true, head := (List.range 300).map fun i => ({ pid := 0, pos := i, cell := i } : QCell), spans := [sp], refilling := true }
      (ents (pool15 1 4096 4 [1]) [(Tbl.queue, q, 0x80)])
    (s1.dev.runs [13, 18] ∧ s1.dev.body.sumpServes ∧ (s1.dev.body.queueOf q).spill ∧ 16 ≤ (s1.dev.body.queueOf q).tail.length ∧ pkt0.linkBad = false ∧
      s1.dev.body.poolFor 2 1 4096 = some 15 ∧ s1.reg (Pg.pool 15) R.POOL_FREE_CNT ≠ 0 ∧
      (st { spill := true, tail := cs } ready).dev.body.poolFor 2 1 4096 = none) ∧
    ((s2.dev.body.queueOf q).head.length + Body.inFlight (s2.dev.body.queueOf q) < prLo (s2.dev.body.prof q)) ∧
    ((s5.dev.body.queueOf q).refilling ∧ (s5.dev.body.queueOf q).head.length + Body.inFlight (s5.dev.body.queueOf q) < prHi (s5.dev.body.prof q)) ∧
    (s3.dev.body.sumpServes ∧ (s3.dev.body.queueOf q).spans = [sp, sp] ∧ sp.flight ≠ 0 ∧ sp.far = false ∧ (s3.dev.body.queueOf q).sumpUeArm = false ∧
      (∀ l ∈ Body.linesOf a 4096 ++ Body.linesOf (Sump.sideAddr a) 128, s3.dev.body.lineBad l = false) ∧ Sump.sideAddr a < Sump.scratchEnd ∧
      Body.sideOk (Mem.read s3.dev.body.mem.sump (Sump.sideAddr a) 128) q sp.seq 0 ∧ s3.dev.body.pkt 0 = some pkt0 ∧ pkt0.hole = false) ∧
    (s4.dev.body.sumpServes ∧ (s4.dev.body.queueOf q).spans = [sp, sp] ∧ (s4.dev.body.queueOf q).sumpUeArm) ∧
    (chg ready fun b => { b with buf := { b.buf with orphans := [7] } }).dev.body.buf.orphans ≠ [] := by decide +kernel

/-- A queue in the buffer, with packet 0 on its way. -/
def inQueue (q : Nat) (x : Queue) (p : Pkt) (s : State) : State :=
  chg s fun b => { b with pipe := { b.pipe with pkts := [(0, p)], nextPid := 1 }, buf := { b.buf with queues := [(q, x)] } }

theorem witness_FarMigration :
    let q := 2 ^ 20 - 1
    let spans := (List.range 256).map fun i => ({ seq := i } : Span)
    let m : Migr := { port := 1, pool := 15, buf := 0, first := 0 }
    let far := fun (s : State) x => inQueue q x pkt0 (regs (ents s [(Tbl.queue, q, 0x80), (Tbl.profile, 0, 2 ^ 31 + 2 ^ 30)]) [(Pg.far 1 0, R.FAR_STATE, 0, 3), (Pg.far 1 0, R.PG_EN, 0, 1)])
    let s1 := far (pool15 3 1048576 8 []) { spill := true, spans := spans }
    let s2 := far ready { spill := true, spans := spans }
    let s3 := far (sumpOn (pool15 3 1048576 8 [0])) { spill := true, spans := spans, migr := some m }
    (s1.dev.runs [13, 4] ∧ s1.dev.body.qLong q ∧ (s1.dev.body.queueOf q).spill ∧
      prSumpShare (s1.dev.body.prof q) < (s1.dev.body.queueOf q).sump ∧ Body.lastSump (s1.dev.body.queueOf q).spans ∧
      (s1.dev.body.queueOf q).migr = none ∧ s1.dev.body.farReady 1 ∧ s1.dev.body.poolFor 3 3 1048576 = some 15 ∧
      s1.dev.body.poolLevel 15 ≠ 2 ∧ s1.reg (Pg.pool 15) R.POOL_FREE_CNT ≠ 0) ∧ s2.dev.body.poolFor 3 3 1048576 = none ∧
    ((s3.dev.body.queueOf q).migr = some m ∧ s3.dev.body.farReady 1 ∧ s3.dev.body.sumpServes ∧ q ∉ s3.dev.body.far.heldCopy ∧ 1 ∉ s3.dev.body.far.armHold) := by decide +kernel

/-- Gallery 7 in a power state, as its power page and the Lamp show it. -/
def gal7 (st req : Nat) (x : GalPwr) : State :=
  chg (regs ready [(Pg.galPower 7, R.PG_PWR_STATE, 0, st), (Pg.galPower 7, R.PG_PWR_REQ, 0, req), (Pg.governor, R.GOV_MODE_EFF, LOOP_POWER, 1)])
    fun b => { b with lamp := { b.lamp with gal := [(7, x)] } }

theorem witness_HeadsAreDispatched :
    let e : EntFrame := { data := List.replicate 512 0, ts := 0, prio := 3, pfcPrio := 0, held := 512 }
    let s1 := chg ready fun b => { b with net := { b.net with ent := [(511, [e])] } }
    let s2 := chg (inQueue 0 {} pkt0 ready) fun b => { b with pipe := { b.pipe with rcyHold := [(7, [0])] } }
    let s3 := chg ready fun b => { b with pipe := { b.pipe with injQ := [(7, [{ rec_ := [], data := [], host := true, src := 0, ts := 0 }])] } }
    (∀ ecc ∈ [[], [7]], let s := chg s1 fun b => { b with net := { b.net with entEcc := ecc } }
      s.dev.runs [15] ∧ s.dev.body.canDispatch 7 ∧ s.dev.body.headTurn 7 511 ∧ s.dev.body.fifo 511 = [e] ∧ s.dev.body.net.entEcc = ecc) ∧
    (s1.dev.body.headTurn 7 510 = false ∧ (gal7 7 0 {}).dev.body.canDispatch 7 = false) ∧
    (s2.dev.runs [15] ∧ s2.dev.body.canDispatch 7 ∧ s2.dev.body.headTurn 7 519 ∧ Sp.get [] s2.dev.body.pipe.rcyHold 7 = [0] ∧
      s2.dev.body.pkt 0 = some pkt0) ∧
    (s3.dev.runs [15] ∧ s3.dev.body.canDispatch 7 ∧ s3.dev.body.headTurn 7 527 ∧ (Sp.get [] s3.dev.body.pipe.injQ 7).length = 1) := by decide +kernel

theorem witness_AdmissionDecides :
    let at7 := fun (p : Pkt) q (s : State) => chg (inQueue q {} p s) fun b => { b with pipe := { b.pipe with stage7 := [0] } }
    let p0 : Pkt := { pkt0 with src := 527, queue := 2 ^ 20 - 1 }
    let found := fun (s : State) => s.dev.body.pipe.stage7.find? (fun i => match s.dev.body.pkt i with | some p => p.src == 527 | none => false)
    let small := ents ready [(Tbl.profile, 0, 2 ^ 31)]
    let s := at7 p0 p0.queue ready
    (∀ p ∈ [{ p0 with verdict := .unknown }, { p0 with disp := .drop }, p0], (at7 p p.queue ready).dev.runs [13] ∧
      found (at7 p p.queue ready) = some 0 ∧ (at7 p p.queue ready).dev.body.pkt 0 = some p ∧ p.admitted = false) ∧
    (prValid ((at7 p0 p0.queue small).dev.body.prof p0.queue) ∧ prMax ((at7 p0 p0.queue small).dev.body.prof p0.queue) 0 < (0 + cellsOf p0.len + 15) / 16) ∧
    (prValid (s.dev.body.prof p0.queue) ∧ (0 + cellsOf p0.len + 15) / 16 ≤ prMax (s.dev.body.prof p0.queue) 0 ∧
      0 + cellsOf p0.len ≤ prShare (s.dev.body.prof p0.queue) ∧ (cellsOf p0.len : Int) ≤ s.dev.body.clsFree .shared) := by decide +kernel

theorem witness_SchedulerAndShapers :
    let cs := (List.range 2).map fun i => ({ pid := 0, pos := i, cell := i } : QCell)
    let s := inQueue (8 * 511) { head := cs } { pkt0 with queue := 8 * 511, admitted := true, dataCells := 1 } (link 511 4)
    let c := s.dev.body.schSync.svyBump 4 (portGal 511) 0 1
    let shaped := chg (ents ready [(Tbl.schPort, 528, 0)]) fun b => { b with clk := 128 }
    let rest := regs s [(Pg.galPower 7, R.PG_PWR_STATE, 0, 4)]
    let c' := rest.dev.body.schSync.svyBump 4 (portGal 511) 0 1
    (s.dev.runs [13] ∧ s.dev.body.sch.armState = [] ∧ s.dev.body.sch.armCfg = [] ∧ (c.portElig 511).isSome ∧
      c.slotTurn 511 (c.slotRequests 7)) ∧
    (rest.dev.runs [13] ∧ 7 ∉ rest.dev.body.sch.wake ∧ rest.dev.body.galState 7 = 4 ∧ 8 * 511 ∈ c'.eligQ ∧ c'.attached 0 (8 * 511) = some 511) ∧
    (ready.dev.body.clk < ready.dev.body.sch.next ∧ shaped.dev.body.sch.next ≤ shaped.dev.body.clk) ∧
    (shaped.dev.runs [13] ∧ shaped.dev.body.sch.armState = [] ∧ shaped.dev.body.sch.armCfg = [] ∧ (∀ n < 8, shaped.dev.body.crd R.CAIRN_STATE n ≠ CS_PENDING) ∧ shaped.dev.body.cairn.old = [] ∧
      shaped.dev.body.shapedNodes.Nodup ∧ shaped.dev.body.shapedNodes = [(3, 528)]) ∧
    (∀ k < 2, let s := regs ready [(Pg.sch, R.SCH_INJ_LVL, 0, 3), (Pg.sch, R.SCH_INJ_IDX, 0, 528), (Pg.sch, R.SCH_INJ_CFG, 0, k)]
      takeB s Master.host (Pg.sch + 0xB0) ∧ s.reg Pg.sch R.SCH_INJ_IDX < levelSize (s.reg Pg.sch R.SCH_INJ_LVL) ∧ s.reg Pg.sch R.SCH_INJ_CFG = k) := by decide +kernel

/-- Nine ports of slice 7 that all have a packet: eight network ports and the recirculation port. -/
def crowd : State :=
  let ports := [504, 505, 506, 507, 508, 509, 510, 511, 519].zipIdx
  regs (chg ready fun b => { b with
      pipe := { b.pipe with pkts := ports.map fun x => (x.2, { pkt0 with queue := 8 * x.1, admitted := true, dataCells := 1 }), nextPid := 9 },
      buf := { b.buf with queues := ports.map fun x => (8 * x.1, ({ head := (List.range 2).map fun i => ({ pid := x.2, pos := i, cell := 2 * x.2 + i } : QCell) } : Queue)) },
      sch := { b.sch with turn := [(511, 1000)] } })
    (((List.range 8).map fun i => [(Pg.lane (504 + i), R.PORT_MODE, 0, 1), (Pg.lane (504 + i), R.PORT_EN, 0, 1),
      (Pg.lane (504 + i), R.PORT_LINK_STATE, 0, 4)]).flatten)

theorem witness_SchedulerAndShapers_turns :
    let c := crowd.dev.body.schSync.svyBump 4 (portGal 511) 0 1
    8 < (c.slotRequests 7).length ∧ c.slotTurn 511 (c.slotRequests 7) = false ∧ (c.portElig 511).isSome ∧ c.slotTurn 510 (c.slotRequests 7) ∧
      (c.portElig 510).isSome ∧ (Sp.get (0, 0) (chg crowd fun b => { b with clk := 2 }).dev.body.sch.slot 7).1 ≠ 2 := by decide +kernel

set_option maxRecDepth 100000 in
theorem witness_EgressSends :
    let p : Pkt := { pkt0 with data := List.replicate 64 0, rw := ({} : Rewrite).seal }
    let out := fun port g s => chg (inQueue 0 {} p s) fun b => { b with sch := { b.sch with egr := [{ slice := g, port := port, pid := 0, queue := 0, cells := [] }] } }
    let s1 := out 511 7 (link 511 4)
    let s2 := out 519 7 ready
    let s3 := chg (out 527 7 (regs ready [(Pg.cplx 0, R.GRT_PORT_EN, 7, 1)])) fun b => b.setChan 0 { free := [0] }
    let s4 := out 528 0 ready
    (∀ x ∈ [(s1, 511, 12), (s2, 519, 12), (s3, 527, 14), (s4, 528, 3)], x.1.dev.runs [x.2.2] ∧ (x.1.dev.body.egrNext x.2.1).map (·.2) = some p) ∧
    (p.linkBad = false ∧ p.ct = false ∧ p.chkBad = false ∧ p.rw.checkOk ∧ p.rw.ptp = 0 ∧ (rewritten p).length = 60) ∧
    (s1.reg (Pg.lane 511) R.PORT_REMOTE_FAULT = 0 ∧ s1.reg (Pg.rew 7) R.REW_INJ_CNT = 0 ∧ s1.reg (Pg.lane 511) R.PORT_MACSEC_EN = 0 ∧
      s1.dev.body.portSends 511 ∧ ready.dev.body.portSends 511 = false ∧ s1.reg (Pg.lane 511) R.PORT_INJ_CNT = 0 ∧ s1.dev.body.portLoop 511 = 0 ∧
      (∀ l ∈ s1.dev.body.portLanes 511, s1.reg (Pg.lane l) R.LANE_INJ_CNT = 0) ∧ 64 ≤ s1.reg (Pg.lane 511) R.PORT_MAX_FRAME) ∧
    s3.dev.body.grtRoom 7 ∧ s4.dev.body.host.held = none ∧ s4.reg (Pg.rew 0) R.REW_INJ_CNT = 0 := by decide +kernel

theorem witness_BufferLoopAndInjection :
    (ready.dev.runs [2] ∧ ∀ p < 64, prShareMin (ready.ent Tbl.profile p) ≤ prShareMax (ready.ent Tbl.profile p)) ∧
    (∀ k < 4, let s := regs ready [(Pg.chm, R.CHM_INJ_KIND, 0, k), (Pg.chm, R.CHM_INJ_Q, 0, 2 ^ 20 - 1)]
      takeB s Master.host (Pg.chm + 0xB8) ∧ s.reg Pg.chm R.CHM_INJ_KIND = k) := by decide +kernel

theorem witness_ExactMatchCommands :
    let s := ready
    let p := Pg.exmCtx 3
    let b := s.dev.body.wr p R.EXM_TYPE 1
    let k := b.ctxKey 3
    let slot := 4 * (b.exmBuckets k).headD 0
    let full := ents ready [(Tbl.exm, slot, xSlot 1 0 9 false false)]
    let f := full.dev.body.wr p R.EXM_TYPE 1
    (takeB s Master.host (p + 0x9C) ∧ s.dev.body.boundSlot Master.host = none ∧ s.reg p R.EXM_BUSY = 0) ∧
    (b.exmCopies b.nowSeq k = [] ∧ ((b.exmBuckets k).findSome? fun bk => (b.exmFreeSlot false bk).map fun i => (bk, i)).isSome ∧
      (b.exmBuckets k).length = 2) ∧
    (takeB full Master.host (p + 0x9C) ∧ f.exmCopies f.nowSeq (f.ctxKey 3) ≠ []) := by decide +kernel

theorem witness_DripstoneAndScrubbers :
    let e := 2 ^ 255 + 5 * 2 ^ 192
    let ds := fun gen => ents (regs ready [(Pg.ds, R.DS_CAC_IDX, 0, 65535), (Pg.ds, R.DS_CAC_GEN, 0, gen)]) [(Tbl.ds, 65535, e)]
    let par := fun t i => chg ready fun b => { b with pipe := { b.pipe with parBad := [(t, i)] } }
    let flip := fun t i => chg ready fun b => { b with pipe := { b.pipe with camFlip := [(entKey t i, 1)] } }
    takeB ready Master.host (Pg.lpm + 0x84) ∧ ready.dev.runs [15] ∧ ready.dev.body.pipe.trieFree = [] ∧ ready.dev.body.pipe.dsWait = [] ∧
    (let s := chg (ds 5) fun b => { b with pipe := { b.pipe with trieFree := [6291455], dsWait := [(65535, 5)] } }
     s.dev.runs [15] ∧ (∀ l ∈ s.dev.body.pipe.trieFree, l < 6291456) ∧ (∀ x ∈ s.dev.body.pipe.dsWait, x.1 < 65536) ∧
      dsValid (s.ent Tbl.ds 65535) ∧ dsGen (s.ent Tbl.ds 65535) = 5) ∧
    (∀ k ∈ [Mk.clsScrub, Mk.dsScrub], ready.dev.body.passed k 2 ∧ (chg ready fun b => { b with marks := [(k, 0)] }).dev.body.passed k 2 = false) ∧
    (takeB (ds 5) Master.host (Pg.ds + 0x94) ∧ dsValid (ready.ent Tbl.ds (ready.reg Pg.ds R.DS_CAC_IDX)) = false ∧
      (ds 5).reg Pg.ds R.DS_CAC_IDX = 65535 ∧ dsValid ((ds 5).ent Tbl.ds 65535) ∧ dsGen ((ds 5).ent Tbl.ds 65535) = (ds 5).reg Pg.ds R.DS_CAC_GEN ∧
      dsGen ((ds 6).ent Tbl.ds 65535) ≠ (ds 6).reg Pg.ds R.DS_CAC_GEN) ∧
    (∀ x ∈ [(Tbl.cls, 262143), (Tbl.ds, 65535)], (par x.1 x.2).dev.body.parityBad x.1 x.2 ∧ (flip x.1 x.2).dev.body.parityBad x.1 x.2 = false ∧
      (flip x.1 x.2).dev.body.camFlip x.1 x.2 ≠ 0 ∧ ready.dev.body.parityBad x.1 x.2 = false ∧ ready.dev.body.camFlip x.1 x.2 = 0) ∧
    (ready.reg Pg.cls R.CLS_SCRUB_EN = 1 ∧ ready.reg Pg.ds R.DS_SCRUB_EN = 1 ∧ takeB ready Master.host (Pg.cls + 0x98) ∧
      takeB ready Master.host (Pg.ds + 0xA8) ∧ takeB ready Master.host (Pg.vault + 0x98)) ∧
    (∀ k < 2, (regs ready [(Pg.cls, R.CLS_INJ_COPY, 0, k)]).reg Pg.cls R.CLS_INJ_COPY = k ∧ (regs ready [(Pg.ds, R.DS_INJ_COPY, 0, k)]).reg Pg.ds R.DS_INJ_COPY = k) ∧
    (let s := regs ready [(Pg.vault, R.VLT_INJ_TABLE, 0, 9)]
     s.reg Pg.vault R.VLT_INJ_TABLE = 9 ∧ s.reg Pg.vault R.VLT_INJ_IDX < tblCount 9 ∧ ready.reg Pg.vault R.VLT_INJ_TABLE = 0) := by decide +kernel

theorem witness_MigrateLoop :
    let ds := fun wd => ents ready [(Tbl.root, 0, 2 ^ 63), (Tbl.trie, 0, 2 ^ 511), (Tbl.ds, 65535, 2 ^ 255 + wd * 2 ^ 158 + 8 * 2 ^ 144 + 7 * 2 ^ 160)]
    let s1 := ds 0
    let b1 := s1.dev.body
    let r := Body.dsRoot (b1.ent Tbl.ds 65535)
    let have_ := (b1.rebuild r (pfxPut (b1.rootPfxs r).1 8 0 7)).getD b1
    let s2 := ents { ready with dev := { ready.dev with body := have_ } } [(Tbl.ds, 65535, 2 ^ 255 + 2 ^ 158 + 8 * 2 ^ 144)]
    let b2 := s2.dev.body
    let st := ents ready [(Tbl.stash, 1023, xSlot 1 5 9 false false)]
    let k : XKey := { ty := 1, k1 := 5 }
    let nw := chg (ents ready [(Tbl.root, 131071, 2 ^ 63 + 2 ^ 31)]) fun b => { b with pipe := { b.pipe with newRoots := [131071] } }
    (s1.dev.runs [15] ∧ s1.reg Pg.governor R.GOV_MODE_EFF LOOP_MIGRATE = 0 ∧ b1.gov.lastAct = [] ∧ dsValid (b1.ent Tbl.ds 65535) ∧
      dsWithdraw (b1.ent Tbl.ds 65535) = false ∧ b1.parityBad Tbl.ds 65535 = false ∧ b1.rootReady r ∧
      (b1.rebuild r (pfxPut (b1.rootPfxs r).1 (dsLen (b1.ent Tbl.ds 65535)) (Body.dsBits (b1.ent Tbl.ds 65535)) (dsNh (b1.ent Tbl.ds 65535)))).isSome) ∧
    (s2.dev.runs [15] ∧ dsValid (b2.ent Tbl.ds 65535) ∧ dsWithdraw (b2.ent Tbl.ds 65535) ∧ b2.parityBad Tbl.ds 65535 = false ∧ b2.rootReady r ∧
      (b2.rebuild r (pfxDel (b2.rootPfxs r).1 (dsLen (b2.ent Tbl.ds 65535)) (Body.dsBits (b2.ent Tbl.ds 65535)))).isSome ∧
      (pfxDel (b2.rootPfxs r).1 (dsLen (b2.ent Tbl.ds 65535)) (Body.dsBits (b2.ent Tbl.ds 65535))).length < (b2.rootPfxs r).1.length) ∧
    (st.dev.body.stashKeyAt 1023 = some k ∧ k.wide = false ∧
      (((st.dev.body.exmBuckets k).findSome? fun bk => (st.dev.body.exmFreeSlot false bk).map fun n => (bk, n)).any fun x => decide (x.1 < 8388608)) ∧
      st.reg Pg.governor R.GOV_MODE_EFF LOOP_MIGRATE = 0) ∧
    (let w := (ents ready [(Tbl.root, 0, 2 ^ 63), (Tbl.trie, 0, 2 ^ 511), (Tbl.ds, 65535, 2 ^ 255 + 2 ^ 158 + 8 * 2 ^ 144)]).dev.body
     dsValid (w.ent Tbl.ds 65535) ∧ dsWithdraw (w.ent Tbl.ds 65535) ∧ w.parityBad Tbl.ds 65535 = false ∧
      (pfxDel (w.rootPfxs 0).1 (dsLen (w.ent Tbl.ds 65535)) (Body.dsBits (w.ent Tbl.ds 65535))).length = (w.rootPfxs 0).1.length) ∧
    (b1.rootReady 0 ∧ (b1.rebuild 0 (b1.rootPfxs 0).1).isSome) ∧
    (nw.dev.runs [15] ∧ bitOn (nw.ent Tbl.root 131071) 63 ∧ 131071 ∈ nw.dev.body.pipe.newRoots ∧
      (Body.runIn 1 (nw.dev.body.trieUsed 131071) 0).isSome) := by decide +kernel

theorem witness_DigestsAndStatistics :
    let s0 := chg ready fun b => { b with pipe := { b.pipe with digPass := 1100 } }
    let dirty := chg (ents s0 [(Tbl.digest, 1100, 2 ^ 63)]) fun b => { b with pipe := { b.pipe with digDirty := [1100] } }
    let line := chg ready fun b => { b with stat := { b.stat with lines := [(2 ^ 30 - 1, { pkts := 1, bytes := 64 })] } }
    let fl := chg (regs line [(Pg.stc, R.STC_FLUSH, 0, 1)]) fun b => { b with stat := { b.stat with flush := b.stat.lines } }
    (s0.dev.body.passed Mk.digest (Body.regionLines * 2) ∧
      (chg s0 fun b => { b with marks := [(Mk.digest, 0)] }).dev.body.passed Mk.digest (Body.regionLines * 2) = false) ∧
    (s0.dev.runs [15] ∧ s0.reg Pg.vault R.VLT_DIG_EN = 1 ∧ bitOn (dirty.ent Tbl.digest 1100) 63 ∧ 1100 ∈ dirty.dev.body.pipe.digDirty) ∧
    takeB ready Master.host (Pg.stc + 0x80) ∧
    (fl.dev.runs [15] ∧ fl.reg Pg.stc R.STC_FLUSH = 1 ∧ fl.dev.body.stat.flush = [(2 ^ 30 - 1, { pkts := 1, bytes := 64 })] ∧
      2 ^ 30 - 1 ∉ fl.dev.body.stat.bad ∧ fl.dev.body.statLine (2 ^ 30 - 1) ≠ {} ∧
      fl.dev.body.lineBad (Sump.pairAddr (2 ^ 30 - 1) / 64 * 64) = false) ∧
    (line.dev.runs [15] ∧ 2 ^ 30 - 1 ∉ line.dev.body.stat.bad ∧ line.dev.body.statLine (2 ^ 30 - 1) ≠ {}) ∧
    (∀ k < 2, let s := regs ready [(Pg.stc, R.STC_INJ_POL, 0, k)]
      takeB s Master.host (Pg.stc + 0x9C) ∧ s.reg Pg.stc R.STC_INJ_POL = k) := by decide +kernel
/-- Region 1100 has a digest, which the comparator is about to look at. -/
def digested (v : Nat) : State :=
  chg ready fun b => { b with tbls := [(entKey Tbl.digest 1100, 2 ^ 63 + v)], pipe := { b.pipe with digPass := 1100 } }

theorem lineDigest_congr (b c : Body) (tid i n : Nat) (h : ∀ k < n, b.ent tid (i + k) = c.ent tid (i + k)) :
    b.lineDigest tid i n = c.lineDigest tid i n := by
  unfold Body.lineDigest
  congr 1
  exact List.foldl_ext _ _ _ fun x k hk => by rw [h k (List.mem_range.mp hk)]

theorem digested_ent (v k : Nat) (hk : k < 2 ^ 40) : (digested v).dev.body.ent Tbl.encap k = 0 := by
  have h1 : entKey Tbl.digest 1100 ≠ entKey Tbl.encap k := by simp only [entKey, Tbl.digest, Tbl.encap]; omega
  have h2 : tblReset Tbl.encap k = 0 := by simp [tblReset, Tbl.encap, Tbl.profile, Tbl.schPort, Tbl.schSvc, Tbl.schSub, Tbl.schQ, Tbl.glow]
  simp only [Body.ent, digested, chg, h2]
  simp [Sp.get, h1]

theorem digested_same (v w : Nat) : (digested v).dev.body.regionDigest 1100 = (digested w).dev.body.regionDigest 1100 := by
  unfold Body.regionDigest
  rw [if_neg (by decide), if_neg (by decide), if_neg (by decide), if_neg (by decide), if_neg (by decide), if_neg (by decide),
    if_neg (by decide), if_neg (by decide)]
  exact lineDigest_congr _ _ _ _ _ fun k hk => by rw [digested_ent _ _ (by omega), digested_ent _ _ (by omega)]

theorem witness_DigestsAndStatistics_differs :
    ∃ v < 2, bitOn ((digested v).ent Tbl.digest 1100) 63 ∧ 1100 ∉ (digested v).dev.body.pipe.digDirty ∧
      (digested v).dev.body.regionDigest 1100 ≠ (digested v).ent Tbl.digest 1100 % 2 ^ 32 := by
  have h0 : (digested 0).ent Tbl.digest 1100 % 2 ^ 32 = 0 := by decide
  have h1 : (digested 1).ent Tbl.digest 1100 % 2 ^ 32 = 1 := by decide
  by_cases h : (digested 0).dev.body.regionDigest 1100 = 0
  · exact ⟨1, by decide, by decide, by decide, by rw [h1, digested_same 1 0, h]; decide⟩
  · exact ⟨0, by decide, by decide, by decide, by rw [h0]; exact h⟩

theorem witness_TimeOfDay :
    (takeB ready Master.host (Pg.lamp + 0xA4) ∧ ready.dev.runs [17] ∧ takeB ready Master.host (Pg.lamp + 0x80) ∧
      answerB ready Master.host (Pg.lamp + 0x90) ∧ ready.reg Pg.lamp R.PG_RESET_BUSY = 0) ∧
    (ready.reg Pg.lamp R.TOD_SET_NS ≤ 999999999 ∧
      999999999 < (regs ready [(Pg.lamp, R.TOD_SET_NS, 0, 1000000000)]).reg Pg.lamp R.TOD_SET_NS) ∧
    (ready.dev.body.todLoss = false ∧ (chg ready fun b => { b with lamp := { b.lamp with refLost := true } }).dev.body.todLoss) ∧
    (regs ready [(Pg.lamp, R.TOD_VALID, 0, 1)]).reg Pg.lamp R.TOD_VALID = 1 ∧
    (regs ready [(Pg.lamp, R.TOD_PPS_REQ, 0, 1)]).reg Pg.lamp R.TOD_PPS_REQ = 1 ∧
    (let s := chg (regs ready [(Pg.lamp, R.TOD_PPS_OUT_EN, 0, 1)]) fun b => { b with lamp := { b.lamp with ppsDue := true } }
     s.reg Pg.lamp R.TOD_PPS_OUT_EN = 1 ∧ s.dev.body.lamp.ppsDue ∧ ready.dev.body.lamp.ppsDue = false) ∧
    (ready.dev.body.passed Mk.pps 1100000000 ∧ (chg ready fun b => { b with marks := [(Mk.pps, 0)] }).dev.body.passed Mk.pps 1100000000 = false) ∧
    ready.dev.body.lamp.refLost = false ∧ ready.dev.body.sup.mode = .running := by decide +kernel

theorem witness_ClocksAndComparators :
    (ready.dev.runs [] ∧ ∀ d ∈ [1, 4, 13, 17], let s := regs ready [(Pg.clocks, R.CLK_INJ_DOM, 0, d)]
      takeB s Master.host (Pg.clocks + 0x110) ∧ s.reg Pg.clocks R.CLK_INJ_DOM = d) ∧
    (∀ n ∈ [17, 63], ∀ act ∈ [0, 1, 10, 11],
      let s := chg (ents ready [(Tbl.glow, n, glowEnt 0x40 act 840 24)]) fun b => { b with lamp := { b.lamp with run := [(n, 1)] } }
      Body.glwValid (s.ent Tbl.glow n) ∧ Body.glwTripped (s.ent Tbl.glow n) = false ∧ Body.glwAct (s.ent Tbl.glow n) = act ∧
      Body.glwDebounce (s.ent Tbl.glow n) < Sp.get 0 s.dev.body.lamp.run n) ∧
    (let s := ents ready [(Tbl.glow, 63, glowEnt 0x40 10 840 24 + 2 ^ 254)]
     Body.glwValid (s.ent Tbl.glow 63) ∧ Body.glwTripped (s.ent Tbl.glow 63) ∧ 16 ≤ Body.glwSrc (s.ent Tbl.glow 63) ∧
      Body.glwBack (s.ent Tbl.glow 63) (Body.glwValue (s.ent Tbl.glow 63)) ∧ Body.glwAct (s.ent Tbl.glow 63) = 10) ∧
    (let temps := some 65535 :: List.replicate 23 none
     let volts := List.replicate 16 (some 0)
     temps.length = 24 ∧ temps.all sampleOk ∧ volts.length = 16 ∧ volts.all sampleOk ∧ (some 2047).all fun x => decide (x < 2048)) := by decide +kernel

theorem witness_GalleryPowerStates :
    let auto := regs (gal7 0 0 {}) [(Pg.governor, R.GOV_MODE_EFF, LOOP_POWER, 0)]
    let inj := fun (s : State) => chg s fun b => { b with pipe := { b.pipe with injQ := [(7, [{ rec_ := [], data := [], host := true, src := 0, ts := 0 }])] } }
    let idle := chg (gal7 3 12 { idleAt := some 0 }) fun b => { b with clk := 2 ^ 20 }
    let at_ := fun n => chg (gal7 7 0 {}) fun b => { b with clk := n }
    (reachB auto Master.host (Pg.galPower 7 + 0x18) ∧ auto.dev.body.ownerRefuses LOOP_POWER Master.host) ∧
    (reachB (gal7 0 0 {}) Master.host (Pg.galPower 7 + 0x18) ∧ (gal7 0 0 {}).dev.body.ownerRefuses LOOP_POWER Master.host = false ∧
      0 % 4 ≤ (gal7 0 0 {}).reg (Pg.galPower 7) R.GAL_ENV_STEP ∧ 0 / 4 ≤ (gal7 0 0 {}).reg (Pg.galPower 7) R.GAL_ENV_REST) ∧
    (idle.dev.runs [] ∧ idle.reg (Pg.galPower 7) R.PG_PWR_STATE = 3 ∧ idle.reg (Pg.galPower 7) R.PG_PWR_REQ / 4 ≠ 0 ∧
      idle.dev.body.idleLong 7 ∧ (idle.dev.body.restOf 7 (idle.reg (Pg.galPower 7) R.PG_PWR_REQ / 4)).isSome ∧
      (inj idle).dev.body.idleLong 7 = false) ∧
    (∀ st ∈ [4, 5, 6], (inj (gal7 st 0 {})).dev.runs [] ∧ (inj (gal7 st 0 {})).reg (Pg.galPower 7) R.PG_PWR_STATE = st ∧
      (inj (gal7 st 0 {})).dev.body.wakeSource 7 4 ∧ (gal7 st 0 {}).dev.body.wakeSource 7 4 = false) ∧
    (∀ n ∈ [1201, 9999, 10000], ((at_ n).dev.body.gp 7).since = 0 ∧ (at_ n).dev.body.clk = n ∧ ((at_ n).dev.body.gp 7).late = false) ∧
    ((gal7 7 0 {}).reg (Pg.galPower 7) R.PG_PWR_STATE = 7 ∧ ((gal7 7 0 {}).dev.body.gp 7).good = false ∧
      ((gal7 7 0 {}).dev.body.gp 7).withheld = false ∧ ((gal7 7 0 { good := true }).dev.body.gp 7).good ∧
      ((gal7 7 0 { good := true }).dev.body.gp 7).resetDue = false) := by decide +kernel

theorem witness_PowerAndRetrainLoops :
    let auto := fun loop => regs ready [(Pg.governor, R.GOV_MODE_EFF, loop, 0)]
    let hot := chg (auto LOOP_THERMAL) fun b => { b with clk := 2 ^ 40, lamp := { b.lamp with hotAt := some 0 } }
    let cool := chg (regs (auto LOOP_THERMAL) [(Pg.lamp, R.TH_CAP, 0, 3)]) fun b => { b with clk := 2 ^ 40, lamp := { b.lamp with coolAt := some 0 } }
    let pw := fun env req => regs (auto LOOP_POWER) [(Pg.galPower 7, R.GAL_ENV_STEP, 0, env), (Pg.galPower 7, R.GAL_ENV_REST, 0, 1), (Pg.galPower 7, R.PG_PWR_REQ, 0, req)]
    let seen := chg (pw 3 0) fun b => { b with lamp := { b.lamp with load := [(7, [(0, 0)])] } }
    let tr := fun fast => chg (ents (regs (auto LOOP_POWER) [(Pg.hbm 3 0, R.HBM_ENV_FAST, 0, fast), (Pg.hbm 3 0, R.HBM_ENV_SLOW, 0, 6), (Pg.hbm 3 0, R.HBM_TRAINED, 0, 127)])
      ((List.range 7).map fun r => (Tbl.timing 3, r, 2 ^ 128 - 1))) fun b => { b with clk := 100000, hbm := { b.hbm with load := [(3, [(0, 10 ^ 9)])] } }
    let rt := chg (regs (auto LOOP_RETRAIN) [(Pg.sump, R.RT_HBM_EN, 0, 1), (Pg.sump, R.RT_SER_EN, 0, 1), (Pg.sump, R.RT_CXL_EN, 0, 1),
      (Pg.lane 511, R.PORT_HI_SER, 0, 1), (Pg.far 1 0, R.FAR_STATE, 0, 3), (Pg.far 1 0, R.PG_EN, 0, 1), (Pg.sump, R.RT_CXL_REPLAY, 0, 4)]) fun b =>
        { b with clk := 11000000, far := { b.far with replays := [(1, (List.range 10).map fun i => (i + 1, 5))] } }
    let rf := fun mult env hi n => chg (regs (auto LOOP_REFRESH) [(Pg.hbm 3 0, R.HBM_REF_ENV, 0, env), (Pg.hbm 3 0, R.HBM_CE_HI, 0, hi), (Pg.hbm 3 0, R.HBM_CE_LO, 0, 1),
      (Pg.hbm 3 0, R.HBM_REF_MULT, 0, mult)]) fun b => ({ b with clk := 10 ^ 10, hbm := { b.hbm with errs := [(3, [(0, 0)])] } }).count (Pg.hbm 3 3) 0 n
    let secs := fun (s : State) => (List.range 10).map (Body.errsIn (Sp.get [] (s.dev.body.errsMeasure 3).hbm.errs 3) s.dev.body.clk)
    (∀ x ∈ [(3, 0), (2, 3)], (pw x.1 x.2).dev.runs [2] ∧ (pw x.1 x.2).dev.body.gov.lastAct = [] ∧ (pw x.1 x.2).dev.body.loopAuto LOOP_POWER ∧
      (pw x.1 x.2).reg (Pg.galPower 7) R.PG_PWR_REQ = x.2 ∧ Body.meterDue ((pw x.1 x.2).dev.body.loadOf 7) 0) ∧
    ((pw 2 3).reg (Pg.galPower 7) R.GAL_ENV_STEP < 3 ∧ Body.meterDue (seen.dev.body.loadOf 7) seen.dev.body.clk = false) ∧
    (let s := tr 0
     s.dev.runs [2] ∧ s.dev.body.loopAuto LOOP_POWER ∧ (∀ i < 4, s.reg (Pg.hbm i 0) R.HBM_STEP_BUSY = 0) ∧ Body.meterDue (s.dev.body.demandOf 3) s.dev.body.clk ∧
      s.reg (Pg.hbm 3 0) R.HBM_RATE_REQ = 6 ∧ s.reg (Pg.hbm 3 0) R.HBM_ENV_FAST = 0 ∧ s.reg (Pg.hbm 3 0) R.HBM_ENV_SLOW = 6 ∧
      s.dev.body.rateFor 3 (Body.meterMax ((s.dev.body.demandMeasure 3).demandOf 3) s.dev.body.clk (s.dev.body.hbmDwell 3)) 0 7 = 0 ∧ s.dev.body.rateOk 3 0) ∧
    (hot.dev.runs [2] ∧ hot.dev.body.loopAuto LOOP_THERMAL ∧ hot.dev.body.heldFor hot.dev.body.lamp.hotAt 10000000 ∧ hot.reg Pg.lamp R.TH_CAP < 3) ∧
    (cool.dev.body.heldFor cool.dev.body.lamp.hotAt 10000000 = false ∧ cool.dev.body.heldFor cool.dev.body.lamp.powAt 10000000 = false ∧
      cool.dev.body.heldFor cool.dev.body.lamp.coolAt 100000000 ∧ 0 < cool.reg Pg.lamp R.TH_CAP ∧
      (auto LOOP_THERMAL).dev.body.heldFor (auto LOOP_THERMAL).dev.body.lamp.coolAt 100000000 = false) ∧
    (∀ x ∈ [(2, 1, 0, 0), (1, 2, 0, 5), (2, 2, 5, 0)], let s := rf x.1 x.2.1 x.2.2.1 x.2.2.2
      s.dev.runs [2] ∧ s.dev.body.loopAuto LOOP_REFRESH ∧ s.reg (Pg.hbm 3 0) R.HBM_REF_MULT = x.1 ∧ s.reg (Pg.hbm 3 0) R.HBM_REF_ENV = x.2.1 ∧
      s.reg (Pg.hbm 3 0) R.HBM_CE_HI = x.2.2.1 ∧ secs s = some x.2.2.2 :: List.replicate 9 (some 0)) ∧
    (rt.dev.body.loopAuto LOOP_RETRAIN ∧ rt.dev.runs [18] ∧ rt.dev.runs [2] ∧ rt.dev.runs [4] ∧ rt.reg Pg.sump R.RT_HBM_EN = 1 ∧
      rt.dev.body.demandLow 3 ∧ rt.reg (Pg.hbm 3 0) R.HBM_STEP_BUSY = 0 ∧ 0 < rt.reg Pg.sump R.RT_HBM_MARGIN ∧
      rt.dev.body.passed (Mk.check (Body.pcKey 3 31)) 1000000000 ∧
      (chg rt fun b => { b with marks := [(Mk.check (Body.pcKey 3 31), 0)] }).dev.body.passed (Mk.check (Body.pcKey 3 31)) 1000000000 = false ∧
      rt.reg Pg.sump R.RT_SER_EN = 1 ∧ rt.reg (Pg.lane 511) R.PORT_HI_SER ≠ 0 ∧ 511 ∉ rt.dev.body.gov.giveUp ∧
      rt.dev.body.passed (Mk.hiSer 511) (rt.reg Pg.sump R.RT_SER_DWELL * 1000000) ∧
      rt.reg Pg.sump R.RT_CXL_EN = 1 ∧ rt.reg Pg.sump R.RT_CXL_REPLAY < rt.dev.body.replaysLow 1 ∧ rt.dev.body.farReady 1) := by decide +kernel

/-- A request that waits at pseudo-channel 31 of stack 3. -/
def req (bank row port : Nat) (wr : Bool) (since : Nat) : HbmReq := { stack := 3, pc := 31, bank := bank, row := row, port := port, wr := wr, addr := 0, since := since }

/-- The engine at a later time with requests at the HBM. -/
def hbmAt (l : List HbmReq) (f : HbmSt → HbmSt) (s : State) : State :=
  chg s fun b => { b with clk := 100000, hbm := f { b.hbm with queue := l } }

theorem witness_HbmServesRequests :
    let r1 := req 47 5 1 false 100000
    let r2 := req 3 6 7 false 99999
    let w := req 46 7 0 true 100000
    let openRow := fun (h : HbmSt) => { h with rows := [(Body.bankKey { stack := 3, pc := 31, bank := 3, row := 6 }, 6)] }
    let ready := sumpOn ready
    let n := hbmAt [r1, r2, w] openRow (regs ready [(Pg.hbm 3 1, R.HBM_QOS_MODE, 0, 0)])
    let dl := hbmAt [r1, r2, w] id (regs ready [(Pg.hbm 3 1, R.HBM_QOS_MODE, 0, 1)])
    let stall := hbmAt [] (fun h => { h with stalled := [(3, 0)] }) ready
    let post := fun k => hbmAt [req 0 0 1 false 0] (fun h => { h with postponed := Sp.set 0 [] (Body.pcKey 3 31) k }) ready
    let scrub := fun ce ue l => hbmAt l (fun h => { h with ce := ce, ue := ue }) (regs ready ((List.range 4).map fun k => (Pg.hbm k 3, R.HBM_SCRUB_EN, 0, 1)))
    (n.dev.runs [18] ∧ (∀ r ∈ n.dev.body.hbm.queue, r.port < 8) ∧ n.dev.body.stackServes 3 ∧ n.reg (Pg.hbm 3 1) R.HBM_QOS_MODE = 0 ∧
      n.dev.body.hbmWaiting 3 31 false = [r1, r2] ∧ n.dev.body.hbm.drain.contains (Body.pcKey 3 31) = false ∧
      (Body.bankKey { stack := 3, pc := 31, bank := 3, row := 6 }, 6) ∈ n.dev.body.hbm.rows) ∧
    (dl.reg (Pg.hbm 3 1) R.HBM_QOS_MODE = 1 ∧ dl.dev.body.hbmWaiting 3 31 false ≠ [] ∧ dl.dev.body.stackServes 3) ∧
    stall.dev.body.stackServes 3 = false ∧
    (∀ k ∈ [0, 7, 8], Sp.get 0 (post k).dev.body.hbm.postponed (Body.pcKey 3 31) = k ∧ (post k).dev.body.stackServes 3 ∧
      Sp.get 0 (post k).dev.body.hbm.refBank (Body.pcKey 3 31) = 0 ∧ ((post k).dev.body.hbm.queue.map (·.bank)) = [0]) ∧
    (∀ line ∈ [1, 2147483647], line * 64 < Sump.scratchEnd ∧ (scrub [line * 64] [] []).dev.runs [18] ∧
      (scrub [line * 64] [] []).reg (Pg.hbm ((scrub [line * 64] [] []).dev.body.hbmLoc (line * 64)).stack 3) R.HBM_SCRUB_EN = 1 ∧
      (scrub [line * 64] [] []).dev.body.stackServes ((scrub [line * 64] [] []).dev.body.hbmLoc (line * 64)).stack ∧
      (scrub [line * 64] [] []).dev.body.lineBad (line * 64) = false ∧ (scrub [] [line * 64] []).dev.body.lineBad (line * 64) ∧
      line * 64 ∈ (scrub [line * 64] [] []).dev.body.hbm.ce) := by decide +kernel

theorem witness_PinRateSteps :
    let tr := ents (regs ready [(Pg.hbm 3 0, R.HBM_TRAINED, 0, 127), (Pg.governor, R.GOV_MODE_EFF, LOOP_POWER, 1)]) [(Tbl.timing 3, 5, 2 ^ 128 - 1)]
    let auto := regs ready [(Pg.governor, R.GOV_MODE_EFF, LOOP_POWER, 0)]
    let busy := regs tr [(Pg.hbm 3 0, R.HBM_STEP_BUSY, 0, 1)]
    let stall := chg busy fun b => { b with hbm := { b.hbm with stalled := [(3, 0)], target := [(3, 5)] } }
    (takeB auto Master.host (Pg.hbm 3 0 + 0x80) ∧ auto.dev.body.ownerRefuses LOOP_POWER Master.host) ∧
    (takeB tr Master.host (Pg.hbm 3 0 + 0x80) ∧ tr.dev.body.ownerRefuses LOOP_POWER Master.host = false ∧ tr.dev.body.rateOk 3 15 = false ∧
      tr.dev.body.rateOk 3 5 ∧ 5 ≠ tr.reg (Pg.hbm 3 0) R.HBM_RATE_CUR ∧ tr.reg (Pg.hbm 3 0) R.HBM_STEP_BUSY = 0) ∧
    (busy.dev.runs [18] ∧ busy.reg (Pg.hbm 3 0) R.HBM_STEP_BUSY = 1 ∧ busy.dev.body.stackStalled 3 = false) ∧
    (stall.dev.runs [18] ∧ stall.dev.body.hbm.stalled.find? (fun e => e.1 == 3) = some (3, 0) ∧
      stall.dev.body.hbm.target.find? (fun e => e.1 == 3) = some (3, 5)) := by decide +kernel

theorem witness_HbmTrainingHelpers :
    let pg := fun m busy => regs ready [(Pg.hbm 3 2, R.HBM_PG_MODE, 0, m), (Pg.hbm 3 2, R.HBM_CMP_BUSY, 0, busy)]
    let dly := fun k l => 2 ^ 28 * 6 + 2 ^ 25 * k + 2 ^ 20 * 31 + 2 ^ 14 * l + 1023
    (∀ x ∈ [(5, 0), (6, 0), (5, 1)], takeB (pg x.1 x.2) Master.host (Pg.hbm 3 2 + 0x80) ∧ (pg x.1 x.2).reg (Pg.hbm 3 2) R.HBM_PG_MODE = x.1 ∧
      (pg x.1 x.2).reg (Pg.hbm 3 2) R.HBM_CMP_BUSY = x.2) ∧
    ((pg 5 1).dev.runs [18] ∧ (sumpOn (pg 5 1)).dev.body.stackServes 3 ∧ (List.replicate 39 0 ++ [2 ^ 32]).length = 40) ∧
    (takeB ready Master.host (Pg.hbm 3 2 + 0x8C) ∧ dly 5 39 < 2 ^ 32 ∧ bitField (dly 5 39) 27 25 = 5 ∧ bitField (dly 5 39) 19 14 = 39 ∧
      bitField (dly 6 39) 27 25 = 6 ∧ bitField (dly 5 40) 19 14 = 40) ∧
    takeB ready Master.host (Pg.hbm 3 2 + 0x90) ∧ takeB ready Master.host (Pg.hbm 3 3 + 0x8C) ∧
    (regs ready [(Pg.hbm 3 3, R.HBM_INJ_KIND, 0, 3)]).reg (Pg.hbm 3 3) R.HBM_INJ_KIND = 3 := by decide +kernel

/-- Far port 1 enabled in a state. -/
def far1 (st en : Nat) : State := regs ready [(Pg.far 1 0, R.FAR_STATE, 0, st), (Pg.far 1 0, R.FAR_LINK_EN, 0, en), (Pg.far 1 0, R.PG_EN, 0, 1)]

theorem witness_FarLinks :
    (∀ en < 2, takeB (far1 3 en) Master.host (Pg.far 1 0 + 0x80) ∧ (far1 3 en).reg (Pg.far 1 0) R.FAR_LINK_EN = en) ∧
    (∀ st < 6, (far1 st 1).dev.runs [4] ∧ (far1 st 1).reg (Pg.far 1 0) R.FAR_STATE = st ∧ (far1 st 1).reg (Pg.far 1 0) R.PG_EN = 1) ∧
    (∀ k ∈ [Mk.farOn 1, Mk.farFailed 1], ready.dev.body.passed k 100000000 ∧ (chg ready fun b => { b with marks := [(k, 0)] }).dev.body.passed k 100000000 = false) ∧
    (∀ k < 4, let s := regs (far1 3 1) [(Pg.far 1 0, R.FAR_INJ_KIND, 0, k)]
      takeB s Master.host (Pg.far 1 0 + 0x9C) ∧ s.reg (Pg.far 1 0) R.FAR_INJ_KIND = k) ∧
    (∀ st ∈ [0, 3], takeB (far1 st 1) Master.host (Pg.far 1 1 + 0x8C) ∧ (far1 st 1).reg (Pg.far 1 1) R.FAR_IO_BUSY = 0 ∧
      (far1 st 1).reg (Pg.far 1 1) R.FAR_IO_SPACE < 2) ∧
    (regs (far1 3 1) [(Pg.far 1 1, R.FAR_IO_BUSY, 0, 1)]).reg (Pg.far 1 1) R.FAR_IO_BUSY = 1 := by decide +kernel

/-- The cells of a packet that lie in a far span. -/
def farCells : List QCell := (List.range 2).map fun i => { pid := 0, pos := i, cell := i }

/-- A far span of queue 0 in front, a read of it in flight. -/
def farFront : State :=
  let sp : Span := { far := true, port := 1, pool := 15, buf := 0, cells := farCells, flight := 1, seq := 0 }
  inQueue 0 { spill := true, spans := [sp] } { pkt0 with admitted := true, dataCells := 1 }
    (regs (pool15 3 1048576 8 [0, 3]) [(Pg.far 1 0, R.FAR_STATE, 0, 3), (Pg.far 1 0, R.PG_EN, 0, 1)])

theorem witness_FarRequestsEnd :
    let s := farFront
    let x := s.dev.body.queueOf 0
    let m : Migr := { port := 1, pool := 15, buf := 3, first := 0 }
    let s2 := chg s fun b => b.setQueue 0 { x with migr := some m }
    (s.dev.runs [4] ∧ x.spans.map (fun sp => (sp.far, sp.port, sp.flight, sp.pieces, sp.void)) = [(true, 1, 1, 0, [])] ∧
      s.dev.body.farReady 1 ∧ 0 ∉ s.dev.body.far.heldRead ∧ 1 ∉ s.dev.body.far.armHold ∧ 1 ∉ s.dev.body.far.armPoison ∧ x.farUeArm = false ∧
      Body.sideOk (Mem.read (s.dev.body.farMem 1) (s.dev.body.farSide 1 (s.dev.body.bufAddr 15 0)) 128) 0 0
        (s.reg (Pg.far 1 0) R.FAR_LINK_GEN) ∧
      (x.head ++ farCells).all fun c => (s.dev.body.pkt c.pid).any fun p => !p.hole) ∧
    (∀ t ∈ [0, 2 ^ 40], (chg s fun b => { b with clk := t }).dev.body.farLate 1 0 = (t != 0)) ∧
    ((s2.dev.body.queueOf 0).migr = some m ∧ 3 < s2.reg (Pg.pool 15) R.POOL_COUNT ∧ (15, 3) ∉ s2.dev.body.buf.bitBad ∧
      3 ∈ s2.dev.body.allocOf 15) := by decide +kernel

/-- A thread in a state of the engine that runs: its program counter, registers and other fields given. -/
def thrAt (th st : Nat) (x : Thread) (s : State) : State :=
  chg (regs s [(Pg.core (th / 8) 1, R.GRT_TH_STATE, th % 8, st)]) fun b => b.setThr th x

/-- A channel's entry: its slot size code, slot count code, base, writer and reader words. -/
def chanEnt (sz n base wr rd : Nat) : Nat := 2 ^ 31 + 2 ^ 24 * sz + 2 ^ 20 * n + 2 ^ 32 * base + 2 ^ 64 * wr + 2 ^ 96 * rd

/-- An endpoint word of the threads of a core. -/
def thrEp (core mask : Nat) : Nat := 2 ^ 8 * core + mask

/-- Channel 1023 from threads to threads of core 31, with its lists. -/
def chanAt (x : Chan) (s : State) : State :=
  chg (ents s [(Tbl.chan, 1023, chanEnt 8 1 0x7C00000 (thrEp 31 255) (thrEp 31 255))]) fun b => b.setChan 1023 x

theorem witness_ThreadCommands :
    let a := fun th => R.GRT_TH_CMD.addr (Pg.core (th / 8) 1) (th % 8) 0
    let st := fun th k => thrAt th k {} ready
    let rst := chg ready fun b => { b with grt := { b.grt with restarting := [0, 29, 30, 31] } }
    (∀ th ∈ [0, 255], takeB ready Master.host (a th) ∧ Body.tcmdOk th Master.host = false ∧ takeB ready Master.jtag (a th) ∧ Body.tcmdOk th Master.jtag) ∧
    (∀ k < 5, takeB (st 239 k) Master.host (a 239) ∧ Body.tcmdOk 239 Master.host ∧ isCust 239 ∧ (st 239 k).reg (Pg.core 29 1) R.GRT_TH_STATE 7 = k ∧
      239 ∉ (st 239 k).dev.body.boot.tgts) ∧
    (takeB ready Master.host (Pg.core 31 0 + 0x80) ∧ takeB ready (Master.thread 31 0) (Pg.core 31 0 + 0x80)) ∧
    (rst.dev.runs [14] ∧ 0 ∈ rst.dev.body.grt.restarting ∧ 29 ∈ rst.dev.body.grt.restarting ∧ 30 ∈ rst.dev.body.grt.restarting ∧
      31 ∈ rst.dev.body.grt.restarting) ∧
    (ready.reg Pg.governor R.GOV_BUSY 5 = 0 ∧ ready.reg Pg.governor R.GOV_MODE 5 < 2 ∧
      (regs ready [(Pg.governor, R.GOV_LOG_EN, 5, 1)]).reg Pg.governor R.GOV_LOG_EN 5 = 1) := by decide +kernel

theorem witness_WaitsAndSupervisor :
    let ev : Waiting := { on := .events, d := 31, sx := false }
    let rs : Waiting := { on := .reserve 1023, d := 31, sx := true }
    let aq : Waiting := { on := .acquire 1023, d := 31, sx := true }
    let w := fun x => chanAt { free := [1], ready := [(0, 16384)] } (thrAt 255 TH_WAIT x ready)
    let pol := fun (n : Nat) => thrAt 232 TH_WAIT { pend := 2 ^ 26 + 2 ^ 27 + 2 ^ 28 } (thrAt 239 TH_HALTED {}
      (regs ready [(Pg.core 29 1, R.GRT_TH_CAUSE, 7, 7), (Pg.core 29 0, R.GRT_POL_FLT, 0, 1), (Pg.core 29 0, R.GRT_RESTART_MAX, 0, n), (Pg.core 29 0, R.GRT_ICU_EN, 0, 1)]))
    let dl := (List.range 7).foldl (fun s i => thrAt (233 + i) TH_WAIT { wait := some { on := .events, d := 0, sx := false } } s) (thrAt 232 TH_HALTED {} ready)
    ((w { wait := some ev }).dev.runs [14] ∧ (w { wait := some ev }).reg (Pg.core 31 1) R.GRT_TH_STATE 7 = TH_WAIT ∧
      (w { wait := some ev }).dev.body.waitTry 255 ev = none) ∧
    (let s := w { wait := some ev, pend := 2 ^ 24, wmask := 2 ^ 24 }
     s.dev.body.pendBits 255 &&& s.dev.body.effMask 255 ≠ 0 ∧ (s.dev.body.thr 255).wait = some ev) ∧
    (let s := w { wait := some rs }
     chValid (s.dev.body.chEnt 1023) ∧ epHas (chWr (s.dev.body.chEnt 1023)) 255 ∧ epHas (chRd (s.dev.body.chEnt 1023)) 255 ∧
      s.dev.body.freeWin 255 = some 0 ∧ (s.dev.body.chan 1023).free = [1] ∧ (s.dev.body.chan 1023).ready = [(0, 16384)] ∧
      (s.dev.body.thr 255).wait = some rs ∧ ((w { wait := some aq }).dev.body.thr 255).wait = some aq) ∧
    (((w { timer := some 0 }).dev.body.thr 255).timer = some 0 ∧ (w {}).dev.body.clk < 1) ∧
    (∀ h ∈ [[], [239]], (chg (pol 1) fun b => { b with grt := { b.grt with halts := h } }).dev.body.grt.halts = h) ∧
    (isCust 239 ∧ ∀ n < 2, (pol n).dev.runs [14] ∧ (pol n).dev.body.supvRuns 29 ∧ (pol n).reg (Pg.core 29 1) R.GRT_TH_STATE 7 = TH_HALTED ∧
      bitOn ((pol n).dev.body.thr 232).pend 26 ∧ bitOn ((pol n).dev.body.thr 232).pend 27 ∧ bitOn ((pol n).dev.body.thr 232).pend 28 ∧
      (pol n).reg (Pg.core 29 0) R.GRT_ICU_EN = 1 ∧
      (pol n).reg (Pg.core 29 1) R.GRT_TH_CAUSE 7 = 7 ∧ (pol n).reg (Pg.core 29 0) R.GRT_RESTART_MAX = n) ∧
    (dl.dev.runs [14] ∧ (∀ th ∈ Body.judged 29, dl.reg (Pg.core 29 1) R.GRT_TH_STATE (th % 8) = TH_WAIT ∧ dl.dev.body.waitClosed th) ∧
      dl.reg (Pg.core 29 1) R.GRT_TH_STATE 0 = TH_HALTED ∧ 29 ∉ dl.dev.body.grt.dlFired ∧
      dl.dev.body.lasted (Mk.deadlock 29) (dl.dev.body.dlTime 29) = false) ∧
    (let long := chg dl fun b => { b with clk := 2 ^ 40, marks := [(Mk.deadlock 29, 0)] }
     long.dev.body.lasted (Mk.deadlock 29) (long.dev.body.dlTime 29) ∧ ∀ th ∈ Body.judged 29, long.dev.body.waitClosed th) := by decide +kernel

theorem witness_DebuggerAndInjectSource :
    let st := fun k prior sel => regs (thrAt 239 k { wins := [(3, { st := 1, ch := 1023, slot := 1 })] } (chanAt { ready := [(0, 76)] } ready))
      [(Pg.core 29 1, R.GRT_TH_PRIOR, 7, prior), (Pg.core 29 2, R.GRT_DBG_SEL, 0, sel), (Pg.core 29 2, R.GRT_DBG_WIN, 0, 3)]
    let a := Pg.core 29 2 + 0x80
    let inj := fun len => regs (chanAt { ready := [(0, len)] } ready) [(Pg.cplx 0, R.GRT_INJ_EN, 7, 1), (Pg.cplx 0, R.GRT_INJ_CH, 7, 1023)]
    (takeB (st 1 0 0) (Master.thread 29 0) a ∧ takeB (st 1 0 0) Master.jtag a ∧ takeB (st 1 0 0) Master.host a ∧ isCust 239 ∧
      (st 1 0 0).reg (Pg.core 29 2) R.GRT_DBG_BUSY = 0) ∧
    (∀ k < 5, (st k 0 0).reg (Pg.core 29 1) R.GRT_TH_STATE 7 = k) ∧
    (∀ k ∈ [TH_RUN, TH_WAIT], (st TH_STOPPED k 0).reg (Pg.core 29 1) R.GRT_TH_PRIOR 7 = k ∧ ((st TH_STOPPED k 0).dev.body.thr 239).wait = none) ∧
    (((st 4 0 0).dev.body.win' 239 3).st = 1 ∧ ((st 4 0 0).dev.body.win' 239 2).st = 0 ∧ (st 4 0 0).reg (Pg.core 29 2) R.GRT_DBG_WIN = 3) ∧
    (∀ sel ∈ [0, 31, 32, 33, 34, 35, 39, 40, 63], (st 4 0 sel).reg (Pg.core 29 2) R.GRT_DBG_SEL = sel) ∧
    (let s := thrAt 255 TH_STOPPED { steps := some 0 } ready
     s.dev.runs [14] ∧ (s.dev.body.thr 255).steps = some 0) ∧
    takeB ready Master.host (Pg.core 31 2 + 0x94) ∧
    (∀ len ∈ [75, 76, 10252, 10253], (inj len).dev.runs [14] ∧ (inj len).reg (Pg.cplx 0) R.GRT_INJ_EN 7 = 1 ∧
      ((inj len).dev.body.chan ((inj len).reg (Pg.cplx 0) R.GRT_INJ_CH 7)).ready = [(0, len)] ∧ (inj len).dev.body.grtBad 0 len = false) := by decide +kernel

/-- Thread 255 runs at the last word of its slice, which holds a word; G1 holds an address and G30 a value. -/
def issueAt (w a v : Nat) (x : Thread) (s : State) : State :=
  chg (thrAt 255 TH_RUN { x with pc := 0x7FFFC, regs := Sp.set 0 (Sp.set 0 [] 1 a) 30 v } s) fun b =>
    { b with mem := { b.mem with grt := Mem.write b.mem.grt (sliceBase 255 + 0x7FFFC) (leBytes 4 w) } }

/-- A word of a load or a store: opcode, register, address register and immediate. -/
def lsWord (op r a imm : Nat) : Nat := op * 2 ^ 26 + r * 2 ^ 21 + a * 2 ^ 16 + imm

/-- Thread 255 accesses its control block at an offset with G30. -/
def tcbAt (op off v : Nat) (x : Thread) (s : State) : State := issueAt (lsWord op 30 1 off) 0x20000000 v x s

theorem witness_ControlBlockEvents :
    let ok := fun (s : State) op off => issueB s 255 (lsWord op 30 1 off) && uOp (lsWord op 30 1 off) == op &&
      decide (memAt 255 (Dev.effAddr s.dev.body 255 (lsWord op 30 1 off)) = .tcb off)
    (∀ off ∈ [0x000, 0x008, 0x010], ok (tcbAt 0x1B off 0 {} ready) 0x1B off) ∧
    (let s := tcbAt 0x1B 0 0 { pend := 2 ^ 24, wmask := 2 ^ 24 } ready
     ok s 0x1B 0 ∧ s.dev.body.pendBits 255 &&& s.dev.body.effMask 255 ≠ 0) ∧
    (let s := tcbAt 0x1B 0 0 {} ready
     s.dev.body.pendBits 255 &&& s.dev.body.effMask 255 = 0 ∧ (s.dev.body.thr 255).steps = none) ∧
    (∀ op ∈ [0x1A, 0x1E], ∀ off ∈ [0x020, 0x180, 0x198, 0x248, 0x250], ok (tcbAt op off 0 { timer := some 5 } ready) op off) ∧
    ok (tcbAt 0x23 0x010 (2 ^ 64 - 1) {} ready) 0x23 0x010 ∧
    (∀ off ∈ [0x018, 0x020, 0x040, 0x078, 0x200], ok (tcbAt 0x22 off (2 ^ 64 - 1) {} ready) 0x22 off) := by decide +kernel

theorem witness_ControlBlockChannels :
    let ok := fun (s : State) op off => issueB s 255 (lsWord op 30 1 off) && uOp (lsWord op 30 1 off) == op &&
      decide (memAt 255 (Dev.effAddr s.dev.body 255 (lsWord op 30 1 off)) = .tcb off)
    let wins := fun st => (List.range 4).map fun k => (k, ({ st := st, ch := 1023, slot := 1 } : Win))
    let closed := ents ready [(Tbl.chan, 1023, chanEnt 8 1 0x7C00000 (thrEp 30 255) (thrEp 31 127))]
    (∀ op ∈ [0x1A, 0x1E], ∀ base ∈ [0x1000, 0x2000, 0x3000, 0x4000], ∀ ch ∈ [0, 1023], ok (tcbAt op (base + 4 * ch) 0 {} ready) op (base + 4 * ch)) ∧
    (let s := tcbAt 0x1A 0x1FFC 0 {} ready
     chValid (s.dev.body.chEnt 1023) = false) ∧
    (let s := tcbAt 0x1A 0x1FFC 0 {} closed
     chValid (s.dev.body.chEnt 1023) ∧ epHas (chWr (s.dev.body.chEnt 1023)) 255 = false ∧ epHas (chRd (s.dev.body.chEnt 1023)) 255 = false) ∧
    (let s := tcbAt 0x1A 0x1FFC 0 { wins := wins 1 } (chanAt {} ready)
     chValid (s.dev.body.chEnt 1023) ∧ epHas (chWr (s.dev.body.chEnt 1023)) 255 ∧ epHas (chRd (s.dev.body.chEnt 1023)) 255 ∧ s.dev.body.freeWin 255 = none) ∧
    (let s := tcbAt 0x1A 0x1FFC 0 { wins := (wins 1).take 3 } (chanAt {} ready)
     s.dev.body.freeWin 255 = some 3 ∧ (s.dev.body.chan 1023).free = [] ∧ (s.dev.body.chan 1023).ready = [] ∧ (s.dev.body.thr 255).steps = none) ∧
    (let s := tcbAt 0x1A 0x1FFC 0 {} (chanAt { free := [1], ready := [(0, 16384)] } ready)
     s.dev.body.freeWin 255 = some 0 ∧ (s.dev.body.chan 1023).free = [1] ∧ (s.dev.body.chan 1023).ready = [(0, 16384)]) ∧
    (∀ st < 4, ∀ off ∈ [0x100, 0x118, 0x140, 0x158], ok (tcbAt 0x22 off 0 { wins := wins st } (chanAt {} ready)) 0x22 off ∧
      ((tcbAt 0x22 off 0 { wins := wins st } (chanAt {} ready)).dev.body.win' 255 3).st = st ∧
      chSlot ((tcbAt 0x22 off 0 { wins := wins st } (chanAt {} ready)).dev.body.chEnt 1023) = 16384) := by decide +kernel

theorem witness_ControlBlockChannels_pools :
    let ok := fun (s : State) op off => issueB s 255 (lsWord op 30 1 off) && uOp (lsWord op 30 1 off) == op &&
      decide (memAt 255 (Dev.effAddr s.dev.body 255 (lsWord op 30 1 off)) = .tcb off)
    (∀ off ∈ [0x208, 0x220], ok (tcbAt 0x1B off 0 { psize := 64 } ready) 0x1B off) ∧
    (let none_ := tcbAt 0x1B 0x220 0 { psize := 64 } ready
     let empty := tcbAt 0x1B 0x220 0 { psize := 64 } (pool15 3 64 1 [0, 1, 2, 3])
     let some_ := tcbAt 0x1B 0x220 0 { psize := 64 } (pool15 3 64 1 [0, 1, 3])
     (none_.dev.body.poolReq 0 3 64).2 = .noPool ∧ (empty.dev.body.poolReq 0 3 64).2 = .empty 15 ∧
      (match (some_.dev.body.poolReq 0 3 64).2 with | .ok n _ => n | _ => 16) = 15) ∧
    (∀ own < 2, let s := tcbAt 0x23 0x240 (15 * 2 ^ 32 + 3) {} (pool15 3 64 own [0, 3])
     ok s 0x23 0x240 ∧ bitField (s.dev.body.greg 255 30) 35 32 = 15 ∧ (bitOn (s.reg (Pg.pool 15) R.POOL_OWNERS) 0 ↔ own = 1) ∧
      3 < s.reg (Pg.pool 15) R.POOL_COUNT ∧ (15, 3) ∉ s.dev.body.buf.bitBad ∧ 3 ∈ s.dev.body.allocOf 15) := by decide +kernel

/-- Thread 255 with a word of two register operands: G1 and G30. -/
def opAt (op x y : Nat) : State := issueAt (op * 2 ^ 26 + 29 * 2 ^ 21 + 1 * 2 ^ 16 + 30 * 2 ^ 11) x y {} ready

/-- The word of a register operation. -/
def opWord (op : Nat) : Nat := op * 2 ^ 26 + 29 * 2 ^ 21 + 1 * 2 ^ 16 + 30 * 2 ^ 11

theorem witness_ArithmeticInstructions :
    (∀ op ∈ [0x00, 0x07, 0x10, 0x13, 0x14, 0x15, 0x16, 0x17], let s := opAt op (2 ^ 64 - 1) (2 ^ 63)
      issueB s 255 (opWord op) ∧ uOp (opWord op) = op ∧ ∀ r < 32, s.dev.body.greg 255 r < 2 ^ 64) ∧
    (∀ op ∈ [0x08, 0x0B, 0x0C, 0x0E, 0x0F], let s := issueAt (lsWord op 30 1 0xFFFF) 0 (2 ^ 63) {} ready
      issueB s 255 (lsWord op 30 1 0xFFFF) ∧ uOp (lsWord op 30 1 0xFFFF) = op) ∧
    (∀ y ∈ [0, 2 ^ 63 - 1, 2 ^ 64 - 1], (opAt 0x15 7 y).dev.body.greg 255 (uB (opWord 0x15)) = y) := by decide +kernel

theorem witness_BranchesAndBitInstructions :
    (∀ op ∈ [0x28, 0x2D, 0x2E, 0x2F, 0x38, 0x30, 0x33, 0x36], let s := opAt op (2 ^ 64 - 1) 0
      let w := if 0x30 ≤ op then op * 2 ^ 26 else opWord op
      let s := issueAt w (2 ^ 64 - 1) 0 {} s
      issueB s 255 w ∧ uOp w = op ∧ ∀ r < 32, s.dev.body.greg 255 r < 2 ^ 64) ∧
    (∀ p ∈ [2, 0x80000, 2 ^ 64 - 4, 0x7FFFC], let s := thrAt 255 TH_RUN { pc := p } ready
      s.dev.runs [14] ∧ s.dev.body.issues 255 ∧ (s.dev.body.thr 255).pc = p) ∧
    (chg ready fun b => { b with grt := { b.grt with bad := [(sliceBase 255 + 0x7FFFC) / 8] } }).dev.body.grtBad (sliceBase 255 + 0x7FFFC) 4 ∧
    (let s := issueAt (2 ^ 32 - 1) 0 0 {} ready
     s.dev.body.issues 255 ∧ s.dev.body.fetch 255 = .ok (2 ^ 32 - 1) ∧ undefinedWord (2 ^ 32 - 1)) ∧
    (∀ op ∈ [0x00, 0x0F], let s := issueAt (op * 2 ^ 26) 0 0 { rfArm := true } ready
      s.dev.runs [14] ∧ s.dev.body.issues 255 ∧ s.dev.body.fetch 255 = .ok (op * 2 ^ 26) ∧ undefinedWord (op * 2 ^ 26) = false ∧
      (s.dev.body.thr 255).rfArm ∧ uOp (op * 2 ^ 26) = op) := by decide +kernel

/-- Thread 255 accesses memory at an address with G30. -/
def lsAt (op a : Nat) (s : State) : State := issueAt (lsWord op 30 1 0) a (2 ^ 64 - 1) {} s

theorem witness_LoadsAndStores :
    let w := fun op => lsWord op 30 1 0
    let ea := fun op a => Dev.effAddr (lsAt op a ready).dev.body 255 (w op)
    (∀ x ∈ [(0x18, 0, 1), (0x19, 2, 2), (0x1A, 4, 4), (0x1B, 8, 8), (0x20, 0, 1), (0x23, 0x7FFF0, 8)], let s := lsAt x.1 x.2.1 ready
      issueB s 255 (w x.1) ∧ uOp (w x.1) = x.1 ∧ ea x.1 x.2.1 = x.2.1 ∧ x.2.1 % x.2.2 = 0 ∧ memAt 255 x.2.1 = .mem (sliceBase 255 + x.2.1) ∧
        (∀ wr ∈ [false, true], s.dev.body.glReach 255 (sliceBase 255 + x.2.1) wr) ∧ (s.dev.body.thr 255).ueArm = false) ∧
    (ea 0x1B 4 % 8 = 4 ∧ ea 0x23 4 % 8 = 4) ∧
    (∀ op ∈ [0x18, 0x20], memAt 255 (ea op 0x2000000) = .mem 0 ∧ memAt 255 (ea op 0x1000000) = .window 0 0 ∧ memAt 255 (ea op 0xFFFFFFF) = .none ∧
      memAt 255 (ea op 0x20000004) = .tcb 4 ∧ memAt 255 (ea op 0x13FFFFFF) = .bar 0x3FFFFFF) ∧
    (let s := thrAt 255 TH_RUN { wins := [(3, { st := 1, ch := 1023, slot := 1 })] } (chanAt {} ready)
     (match s.dev.body.winAt 255 3 0x3FF8 8 true with | .error _ => 0 | .ok gl => gl) = 0x7C00000 + 16384 + 0x3FF8) ∧
    (ready.dev.body.glReach 239 0 false = false ∧ ready.dev.body.glReach 239 0 true = false ∧
      (match ready.dev.body.winAt 255 0 0 8 false with | .error e => e | .ok _ => 0) ≠ 0 ∧
      (match ready.dev.body.winAt 255 0 0 8 true with | .error e => e | .ok _ => 0) ≠ 0 ∧
      (ready.dev.body.barReach 239 0 false = false) ∧ ready.dev.body.barReach 255 0 false ∧
      (match ready.dev.body.tcbStore 255 4 1 0 with | .error e => e | .ok _ => 0) ≠ 0) := by decide +kernel

/-- The engine in another mode of its supervision, with a junction temperature in 1/8 °C. -/
def modeAt (m : Mode) (j : Nat) (f : PwrSt → PwrSt) (s : State) : State :=
  chg (regs s [(Pg.lamp, R.TH_JMAX, 0, j)]) fun b => { b with sup := f { b.sup with mode := m } }

theorem witness_EngineResets :
    let lost := fun (s : State) => chg s fun b => { b with lamp := { b.lamp with refLost := true } }
    let test := fun (x : PwrSt) => { x with straps := { x.straps with test := true } }
    ready.dev.body.sup.mode = .running ∧
    (let s := lost (modeAt .held 0 id ready)
     s.dev.body.sup.mode = .held ∧ s.dev.body.sup.released = false ∧ s.dev.body.lamp.refLost) ∧
    (∀ j ∈ [839, 840], let s := modeAt .held j id ready
      s.dev.body.lamp.refLost = false ∧ s.dev.body.jmax = j ∧ Body.glwTripped (s.ent Tbl.glow 16) = false) ∧
    (let s := modeAt .brownout 0 test ready
     s.dev.body.sup.straps.test ∧ s.dev.body.sup.mode = .brownout) ∧
    (∀ j ∈ [815, 816], let s := modeAt .hot j test ready
      s.dev.body.sup.mode = .hot ∧ s.dev.body.jmax = j ∧ s.dev.body.sup.straps.test) ∧
    (let s := modeAt .off 0 id ready
     s.dev.body.sup.mode = .off ∧ s.dev.body.lamp.refLost = false) := by decide +kernel

theorem witness_BootOutcomes :
    let held := modeAt .held 839 id ready
    let wait := fun (h : List (Nat × List Byte)) => chg (regs ready [(Pg.boot, R.BOOT_STAGE, 0, STAGE_WAIT_HOST)]) fun b =>
      { b with boot := { b.boot with paused := 4, held := h } }
    (held.dev.body.sup.mode = .held ∧ held.dev.body.sup.released = false ∧ held.dev.body.lamp.refLost = false ∧ held.dev.body.jmax < 840 ∧
      held.dev.sticky.directory = none) ∧
    ((modeAt .brownout 0 id ready).dev.body.sup.straps.test = false) ∧ (modeAt .hot 815 id ready).dev.body.jmax < 816 ∧
    (∀ m ∈ [Master.host, Master.jtag], Master.mayLoad m ∧ takeB (wait []) m (Pg.boot + 0x98) ∧ (wait []).dev.runs [1, 2]) ∧
    ready.reg Pg.boot R.BOOT_STAGE ≠ STAGE_WAIT_HOST ∧
    ((wait []).reg Pg.boot R.BOOT_STAGE = STAGE_WAIT_HOST ∧ (wait []).dev.body.boot.paused = 4 ∧ (wait []).dev.heldImage IT_BOOT_CFG = none ∧
      (wait [(IT_BOOT_CFG, [])]).dev.heldImage IT_BOOT_CFG = some []) := by decide +kernel

theorem witness_HostLoadsAndKeys :
    let busy := regs ready [(Pg.boot, R.BOOT_LD_BUSY, 0, 1)]
    let prov := { ready with dev := { ready.dev with sticky := { ready.dev.sticky with prov := [(3, 5)], revoked := [3] } } }
    (takeB ready (Master.thread 31 0) (Pg.boot + 0x98) ∧ Master.mayLoad (Master.thread 31 0) = false ∧ ready.dev.runs [1, 2]) ∧
    (takeB busy Master.host (Pg.boot + 0x98) ∧ busy.reg Pg.boot R.BOOT_LD_BUSY = 1 ∧ ready.reg Pg.boot R.BOOT_LD_BUSY = 0 ∧
      takeB ready Master.host (Pg.boot + 0x98)) ∧
    (takeB ready Master.host (Pg.boot + 0xA4) ∧ takeB ready Master.jtag (Pg.boot + 0xA4) ∧ (∀ e ∈ ready.dev.sticky.prov, e.1 ≠ 3) ∧
      3 ∉ ready.dev.sticky.revoked ∧ (∃ e ∈ prov.dev.sticky.prov, e.1 = 3) ∧ 3 ∈ prov.dev.sticky.revoked) ∧
    (∀ k < 4, takeB (regs ready [(Pg.boot, R.BOOT_INJ_KIND, 0, k)]) Master.host (Pg.boot + 0xA8) ∧
      (regs ready [(Pg.boot, R.BOOT_INJ_KIND, 0, k)]).reg Pg.boot R.BOOT_INJ_KIND = k) := by decide +kernel

/-- Ring 239 in a state, of a kind, with 64 entries at 0x7000 in host memory; DMA is possible. -/
def ringAt (kind st prod cons : Nat) (l : List Byte) (f : HostSt → HostSt) (s : State) : State :=
  chg (regs s [(Pg.ring 239, R.RING_KIND, 0, kind), (Pg.ring 239, R.RING_STATE, 0, st), (Pg.ring 239, R.RING_LOG2, 0, 6),
    (Pg.ring 239, R.RING_BASE_LO, 0, 0x7000), (Pg.ring 239, R.RING_PROD, 0, prod), (Pg.ring 239, R.RING_CONS, 0, cons),
    (Pg.ring 239, R.RING_EN, 0, 1), (Pg.ring 239, R.PG_EN, 0, 1), (Pg.hif, R.HIF_LINK_UP, 0, 1), (Pg.hif, R.HIF_BME, 0, 1)])
    fun b => { b with host := f b.host, mem := { b.mem with host := Mem.write b.mem.host 0x7000 l } }

/-- An entry of a TABLE_CMD ring: opcode, flags, target, argument and data. -/
def cmdEnt (op fl tgt arg : Nat) (data : List Byte) : List Byte :=
  leBytes 2 0 ++ leBytes 1 op ++ leBytes 1 fl ++ leBytes 4 tgt ++ leBytes 4 arg ++ leBytes 4 0 ++ data ++ List.replicate (48 - data.length) 0

/-- An entry of an INJECT ring: address, length and flags. -/
def injEnt (a len fl : Nat) : List Byte := leBytes 8 a ++ leBytes 2 len ++ leBytes 1 fl ++ leBytes 5 0

set_option maxRecDepth 100000 in
theorem witness_EgressSends_more :
    let p : Pkt := { pkt0 with data := List.replicate 200 0, len := 204, rw := ({} : Rewrite).seal }
    let out := fun port g p s => chg (inQueue 0 {} p s) fun b => { b with sch := { b.sch with egr := [{ slice := g, port := port, pid := 0, queue := 0, cells := [] }] } }
    let cut := { p with ct := true, verdict := .unknown }
    let s1 := out 511 7 cut (link 511 4)
    let s2 := chg (out 527 7 p (regs ready [(Pg.cplx 0, R.GRT_PORT_EN, 7, 1)])) fun b => b.setChan 0 { free := [0] }
    let pool := regs (pool15 0 10304 2 []) [(Pg.hif, R.HIF_PUNT_RING, 0, 239)]
    let ent := leBytes 8 0x9000 ++ leBytes 2 16384 ++ leBytes 6 0
    let s3 := fun s => out 528 0 p (ringAt KIND_PUNT RING_RUNNING 1 0 ent id s)
    let n := fun (s : State) => s.reg Pg.hif R.HIF_PUNT_RING 0 + p.hv.flowHash % 2 ^ s.reg Pg.hif R.HIF_PUNT_SPREAD 0
    ((s1.dev.body.egrNext 511).map (·.2) = some cut ∧ cut.rw.lateLen = false ∧ cut.started = false ∧ s1.dev.body.portSends 511) ∧
    (s2.dev.body.grtRoom 7 ∧ (s2.dev.body.chan 0).free = [0] ∧ chSlot (s2.dev.body.chEnt 0) < (rewritten p).length ∧
      60 ≤ chSlot (s2.dev.body.chEnt 0)) ∧
    ((s3 ready).dev.runs [3] ∧ (s3 ready).dev.body.poolFor 1 0 10272 = none) ∧
    ((s3 pool).dev.body.poolFor 1 0 10272 = some 15 ∧ (s3 pool).reg (Pg.pool 15) R.POOL_FREE_CNT ≠ 0 ∧ n (s3 pool) = 239 ∧
      (s3 pool).dev.body.ringRuns 239 KIND_PUNT ∧ (s3 pool).dev.body.dmaOk ∧ (s3 pool).dev.body.host.arm = [] ∧
      (match (s3 pool).dev.body.puntPlan 239 41 ((s3 pool).dev.body.ringFront 239) (rewritten p).length with | .ok (some l) => l.length | _ => 0) = 1) ∧
    (n (s3 (regs pool [(Pg.hif, R.HIF_PUNT_RING, 0, 238)])) = 238 ∧
      (s3 (regs pool [(Pg.hif, R.HIF_PUNT_RING, 0, 238)])).dev.body.ringRuns 238 KIND_PUNT = false) := by decide +kernel

theorem witness_HostEvents :
    let up := ringAt KIND_PUNT RING_RUNNING 3 1 [] id ready
    let bound := regs (chg ready fun b => { b with cairn := { b.cairn with slots := [(7, { bound := some Master.host })] } }) [(Pg.cairn, R.CAIRN_STATE, 7, CS_OPEN)]
    let pend := chg up fun b => { b with host := { b.host with pba := [2047] } }
    (ready.dev.runs [3] ∧ bound.dev.runs [3] ∧ bound.dev.body.boundSlot Master.host = some 7 ∧
      (∀ w ∈ ready.dev.body.win.asm, w.owner = Master.host → w.win % 0x1000 = 0 ∨ 0x1000000 ≤ w.win)) ∧
    (up.dev.runs [3] ∧ up.reg Pg.hif R.HIF_LINK_UP = 1 ∧ up.reg (Pg.ring 239) R.RING_STATE = RING_RUNNING ∧
      up.reg (Pg.ring 0) R.RING_STATE ≠ RING_RUNNING) ∧
    (ready.reg Pg.hif R.HIF_LINK_UP = 0 ∧ ready.dev.body.sup.testPins = false ∧ (PcieCfg.bar 0 0x4000000).wf) ∧
    (2047 ∈ pend.dev.body.host.pba ∧ pend.dev.body.host.fnMask = false ∧ pend.dev.body.dmaOk) := by decide +kernel

theorem witness_RingStates :
    let st := fun k => ringAt KIND_PUNT k 63 0 [] id ready
    let off := fun kind => regs (ringAt kind RING_DISABLED 0 0 [] id ready) [(Pg.ring 239, R.RING_EN, 0, 0), (Pg.ring 239, R.RING_AUX, 0, 239), (Pg.ring 239, R.RING_VEC, 0, 2047)]
    let arm := ringAt KIND_CMD RING_RUNNING 63 0 [] (fun h => { h with arm := [(239, 2)] }) ready
    let done := fun kind l note => ringAt kind RING_RUNNING 63 0 [] (fun h => { h with rings := [(239, { done := l, note := note })] }) ready
    let vec := fun v masked => regs (chg (done KIND_PUNT [] 1) fun b => { b with host := { b.host with vecs := [(2047, { masked := masked })] } }) [(Pg.ring 239, R.RING_VEC, 0, v)]
    (∀ kind ∈ [KIND_INJECT, 5], let s := off kind
      takeB s Master.host (Pg.ring 239 + 0x80) ∧ s.reg (Pg.ring 239) R.RING_STATE = RING_DISABLED ∧ s.reg (Pg.ring 239) R.RING_KIND = kind ∧
      s.reg (Pg.ring 239) R.RING_LOG2 = 6 ∧ s.reg (Pg.ring 239) R.RING_BASE_LO % 4096 = 0 ∧ s.reg (Pg.ring 239) R.RING_WB_LO % 8 = 0 ∧
      s.reg (Pg.ring 239) R.RING_VEC = 2047 ∧ s.reg (Pg.ring 239) R.RING_AUX = 239) ∧
    (∀ k < 5, takeB (st k) Master.host (Pg.ring 239 + 0xA4) ∧ (st k).dev.runs [3] ∧ (st k).dev.body.boot.bar0 ∧ (st k).reg (Pg.ring 239) R.RING_STATE = k ∧
      (st k).reg (Pg.ring 239) R.RING_PROD = 63 ∧ (st k).reg (Pg.ring 239) R.RING_CONS = 0) ∧
    ((64 + 2 ^ 32 - 63) % 2 ^ 32 ≤ 2 ^ 6 ∧ (64 + 2 ^ 32 - 0) % 2 ^ 32 ≤ 2 ^ 6 ∧ 2 ^ 6 < (65 + 2 ^ 32 - 0) % 2 ^ 32) ∧
    (arm.dev.body.dmaOk ∧ (arm.dev.body.run 239).idx = 0 ∧ (arm.dev.body.run 239).done = [] ∧ (239, 2) ∈ arm.dev.body.host.arm) ∧
    (∀ x ∈ [(KIND_PUNT, [(2, 100), (1, 60)]), (KIND_CMD, [(63, 0)])], (done x.1 x.2 0).dev.body.dmaOk ∧
      ((done x.1 x.2 0).dev.body.run 239).done = x.2 ∧ ((done x.1 x.2 0).dev.body.run 239).note = 0) ∧
    (∀ v ∈ [0, 2047], ∀ masked ∈ [false, true], (vec v masked).reg (Pg.ring 239) R.RING_VEC = v ∧ ((vec v masked).dev.body.run 239).note = 1 ∧
      ((vec v masked).dev.body.vec 2047).masked = masked ∧ (vec v masked).dev.body.host.fnMask = false ∧ (vec v masked).dev.body.dmaOk) ∧
    (let s := chg (regs (done KIND_PUNT [] 1) [(Pg.ring 239, R.RING_COAL_JOBS, 0, 2)]) fun b => { b with marks := [(Mk.ring 239, 0)] }
     (s.dev.body.run 239).note = 1 ∧ s.reg (Pg.ring 239) R.RING_COAL_JOBS = 2 ∧
      s.dev.body.passed (Mk.ring 239) (1000 * max 1 (s.reg (Pg.ring 239) R.RING_COAL_US)) = false ∧
      (done KIND_PUNT [] 1).dev.body.passed (Mk.ring 239) (1000 * max 1 ((done KIND_PUNT [] 1).reg (Pg.ring 239) R.RING_COAL_US))) ∧
    takeB ready Master.host (Pg.hif + 0xC0) := by decide +kernel

theorem witness_InjectJobs :
    let inj := fun len fl s => ringAt KIND_INJECT RING_RUNNING 1 0 (injEnt 0x9000 len fl) id s
    (ready.dev.runs [3] ∧ ready.reg (Pg.ring 239) R.RING_STATE ≠ RING_RUNNING) ∧
    (∀ x ∈ [(76, 0x40), (0, 0xC0)], let s := inj x.1 x.2 ready
      s.dev.runs [3] ∧ s.reg (Pg.ring 239) R.RING_STATE = RING_RUNNING ∧ s.reg (Pg.ring 239) R.RING_KIND = KIND_INJECT ∧ s.dev.body.dmaOk ∧
      s.dev.body.host.arm = [] ∧ (s.dev.body.run 239).idx = 0 ∧ s.dev.body.ringLeft 239 = 1 ∧ s.dev.body.ringFront 239 = 0 ∧
      s.dev.body.ringEntry 239 0 = injEnt 0x9000 x.1 x.2 ∧
      leNat (slice (injEnt 0x9000 x.1 x.2) 8 2) = x.1 ∧ (entryFirst KIND_INJECT (injEnt 0x9000 x.1 x.2) ↔ x.1 = 0)) ∧
    (∀ len ∈ [75, 76, 10252], (inj len 0xC0 ready).dev.body.jobAt 239 = .job [injEnt 0x9000 len 0xC0]) ∧
    (∀ len ∈ [76, 10252], (inj len 0xC0 ready).dev.body.poolFor 1 0 len = none) ∧
    (∀ x ∈ [([0, 1, 2, 3], 0, 2), ([0, 1], 2, 0), ([0, 1, 2], 1, 1)],
      let s := inj 76 0xC0 (regs (pool15 0 64 2 x.1) [(Pg.pool 15, R.POOL_SIZE, 0, 2)])
      s.dev.body.poolFor 1 0 76 = some 15 ∧ s.reg (Pg.pool 15) R.POOL_FREE_CNT = x.2.1 ∧ s.dev.body.poolLevel 15 = x.2.2) ∧
    (let s := inj 76 0xC0 (regs (pool15 0 64 2 [0, 1, 2]) [(Pg.pool 15, R.POOL_SIZE, 0, 2), (Pg.pool 15, R.POOL_CRIT, 0, 1)])
     s.dev.body.poolLevel 15 = 2 ∧ s.reg (Pg.pool 15) R.POOL_FREE_CNT ≠ 0) ∧
    ((ringAt KIND_INJECT RING_RUNNING 1 0 [] (fun h => { h with rings := [(239, { delayed := true })] }) ready).dev.body.run 239).delayed := by decide +kernel

/-- A TABLE_CMD ring with one command, the first of its job, that is also the last. -/
def cmdOne (e : List Byte) (x : RingRun) (s : State) : State := ringAt KIND_CMD RING_RUNNING 1 0 e (fun h => { h with rings := [(239, x)], last := 238 }) s

/-- The ring may execute its command now. -/
def cmdNow (s : State) (e : List Byte) : Bool :=
  s.dev.runs [3] && s.dev.body.cmdReady 239 && s.dev.body.cmdTurn 239 && decide (s.dev.body.jobAt 239 = .job [e]) &&
    s.ctr (Pg.ring 239) RING_CMD_ERR == 0 && (s.dev.body.run 239).idx == 0

theorem witness_TableCommands :
    let now := fun e x s => cmdNow (cmdOne e x s) e
    (ready.dev.body.cmdReady 239 = false ∧ ready.dev.body.cmdTurn 239 = false) ∧
    (∀ op ∈ [0, 7, 255], let e := cmdEnt op 0xC0 0 0 []
      now e {} ready ∧ cmdOp e = op) ∧
    (let l := [cmdEnt 2 0xA0 0 1 [], cmdEnt 1 0x40 0 0 []]
     let s := ringAt KIND_CMD RING_RUNNING 2 0 l.flatten (fun h => { h with rings := [(239, { idx := 1, failed := true })], last := 238 }) ready
     s.dev.body.cmdReady 239 ∧ s.dev.body.cmdTurn 239 ∧ s.dev.body.jobAt 239 = .job l ∧ l.drop 1 = [cmdEnt 1 0x40 0 0 []] ∧
      (l.head?.map cmdStop).getD false ∧ (s.dev.body.run 239).failed) ∧
    (∀ t ∈ [0, 11], let e := cmdEnt 3 0xC0 3 t (leBytes 8 0x9000)
      now e {} ready ∧ cmdArg e % 256 = t ∧ cmdTarget e = 3 ∧ leNat ((cmdData e).take 8) = 0x9000 ∧ 16 ≤ (cmdData e).length) ∧
    (3 < tblCount Tbl.nh ∧ 3 < tblCount Tbl.ecmp ∧ 3 < tblCount 8 ∧ 0x9000 + tblStride 8 ≤ 2 ^ 32 ∧ ready.dev.body.boundSlot Master.host = none) := by decide +kernel

theorem witness_TableCommands_reg :
    let e := fun a => cmdEnt 4 0xC0 a 0xFFFFFFFF []
    let s := cmdOne (e (Pg.parser 0 + 0x80)) {} (regs ready [(Pg.parser 0, R.PG_RESET_BUSY, 0, 1)])
    (cmdNow (cmdOne (e 0x4000000) {} ready) (e 0x4000000) ∧ cmdTarget (e 0x4000000) = 0x4000000) ∧
    (cmdTarget (e (Pg.rew 7 + 0x80)) = Pg.rew 7 + 0x80 ∧ pageB (Pg.rew 7) .rew ∧ PK.rew ∈ plainKinds ∧
      PK.rew.fieldsAt 0x80 = [(R.REW_INJ_CNT, 0, 0)] ∧ R.REW_INJ_CNT.acc = .rw ∧ takeB ready Master.host (Pg.rew 7 + 0x80)) ∧
    (cmdNow s (e (Pg.parser 0 + 0x80)) ∧ pageB (Pg.parser 0) .parser ∧ PK.parser ∈ plainKinds ∧ PK.parser.fieldsAt 0x80 ≠ [] ∧
      reachB s Master.host (Pg.parser 0 + 0x80) ∧ s.reg (Pg.parser 0) R.PG_RESET_BUSY = 1) := by decide +kernel

theorem witness_TableCommands_more :
    let slot := fun st => regs ready [(Pg.cairn, R.CAIRN_STATE, 7, st)]
    let opn := chg (slot CS_OPEN) fun b => { b with cairn := { b.cairn with slots := [(7, { bound := some Master.host })] } }
    let key := List.replicate 24 (1 : Byte)
    (let e := cmdEnt 5 0xC0 0 0 []
     let v := setBitField (leNat ((cmdData e).take 32)) 255 255 1
     let f := cmdEnt 5 0xC0 0 0 (List.replicate 32 255)
     let w := setBitField (leNat ((cmdData f).take 32)) 255 255 1
     cmdNow (cmdOne e {} ready) e ∧ (cmdOne e {} ready).dev.body.dsAddAt = some 0 ∧ dsLen v ≤ famBits (dsAf v) ∧
      cmdNow (cmdOne f {} ready) f ∧ famBits (dsAf w) < dsLen w) ∧
    (let s := ents (regs ready [(Pg.ds, R.DS_ADD_FLOOR, 0, 65535)]) [(Tbl.ds, 65535, 2 ^ 255)]
     s.dev.body.dsAddAt = none) ∧
    (∀ x ∈ [(0, 0), (1, 4), (4, 3), (5, 15)], let e := cmdEnt 6 0xC0 77 (16 * x.2 + x.1) key
      cmdNow (cmdOne e {} ready) e ∧ cmdArg e % 8 = x.1 ∧ bitField (cmdArg e) 7 4 = x.2) ∧
    (let k : XKey := { ty := 3, k1 := leNat (key.take 12), k2 := leNat (slice key 12 12) }
     ready.dev.body.exmCopies ready.dev.body.nowSeq k = []) ∧
    opn.dev.body.boundSlot Master.host ≠ none ∧
    (∀ c ∈ [1, 4, 2 ^ 31 + 2], let e := cmdEnt 7 0xC0 0 (7 * 256 + c) []
      cmdNow (cmdOne e {} ready) e ∧ cmdNow (cmdOne e { waiting := true } ready) e ∧ bitField (cmdArg e) 10 8 = 7 ∧ bitOn (cmdArg e) 3 = false ∧
      bitOn (cmdArg e) 31 = decide (2 ^ 31 ≤ c)) ∧
    (takeB ready Master.host (R.CAIRN_CMD.addr Pg.cairn 7 0) ∧ (slot CS_OPEN).reg Pg.cairn R.CAIRN_STATE 7 = CS_OPEN ∧
      (slot CS_DONE).reg Pg.cairn R.CAIRN_STATE 7 = CS_DONE ∧ opn.reg Pg.cairn R.CAIRN_OWNER 7 = Master.host ∧
      opn.dev.body.commitFails 7 = none) := by decide +kernel

/-- A pending source of a bank. -/
def srcAt (bank n : Nat) (x : IcuSrc) (s : State) : State := chg s fun b => b.setIcu bank n x

/-- A report of a page at the FMU. -/
def repOf (page : Nat) (fatal : Bool) : Report := { page := page, bit := 0, fatal := fatal, info := { detail := 7 }, at_ := 0, tod := 0, todValid := false }

theorem witness_InterruptsAndFaultRecords :
    let x : IcuSrc := { st := .pending, tgt := 2 ^ 31 + 2 ^ 63, lastTgt := 63 }
    let s := srcAt 1 4095 x (regs ready [(Pg.icu 1, R.ICU_TGT_EN_LO, 0, 2 ^ 31), (Pg.icu 1, R.ICU_TGT_EN_HI, 0, 2 ^ 31)])
    let no := srcAt 1 4095 x (regs ready [(Pg.icu 1, R.ICU_TGT_EN_LO, 0, 0), (Pg.icu 1, R.ICU_TGT_EN_HI, 0, 0)])
    let rep := fun r (f : IrqSt → IrqSt) => chg ready fun b => { b with irq := f { b.irq with reports := [r] } }
    let page := Pg.ring 239
    (s.dev.runs [2] ∧ (s.dev.body.icuSrcs 1).find? (fun e => s.dev.body.icuReady e.2) = some (4095, x) ∧ s.dev.body.icu 1 4095 = x ∧
      (s.dev.body.icuSrcs 1).map (·.1) = [4095] ∧ bitOn x.tgt 31 ∧ s.dev.body.tgtAvail 1 31 ∧
      (∀ u < 64, bitOn x.tgt u → (31 + 127 - x.lastTgt) % 64 ≤ (u + 127 - x.lastTgt) % 64)) ∧
    (∀ e ∈ ready.dev.body.icuSrcs 1, ready.dev.body.icuReady e.2 = false) ∧
    (s.dev.body.icuBusy 1 = false ∧ (srcAt 1 4095 { x with lastAt := some 0 } s).dev.body.icuBusy 1) ∧
    ((∀ g < 64, no.dev.body.tgtAvail 1 g = false) ∧ (no.dev.body.icuSrcs 1).find? (fun e => no.dev.body.icuReady e.2) = some (4095, x)) ∧
    (∀ a ∈ [0x90, 0x94, 0x98], takeB s Master.host (Pg.icu 1 + a)) ∧
    (∀ st ∈ [SrcState.idle, .pending, .active, .activePending], ((srcAt 0 4095 { st := st, lastTgt := 63 } ready).dev.body.icu 0 4095).st = st ∧
      ((srcAt 0 4095 { st := st, lastTgt := 63 } ready).dev.body.icu 0 4095).lastTgt = 63) ∧
    ready.dev.body.irq.reports = [] ∧
    (∀ fatal ∈ [false, true], let s := rep (repOf page fatal) id
      s.dev.runs [2] ∧ s.dev.body.nextReport = some (repOf page fatal) ∧ s.dev.body.irq.opened = [] ∧ s.dev.body.irq.recArm = false ∧
      s.reg Pg.fmu R.FMU_FE_VALID = 0) ∧
    (let s := ringAt KIND_PUNT RING_RUNNING 0 0 [] id (regs (rep (repOf page true) id) [(Pg.fmu, R.FMU_FATAL_ACT, 0, 1), (Pg.fmu, R.FMU_REC_WR, 0, 1024)])
     s.reg Pg.fmu R.FMU_FATAL_ACT = 1 ∧ s.reg page R.RING_STATE = RING_RUNNING ∧
      1024 ≤ (s.reg Pg.fmu R.FMU_REC_WR + 2 ^ 32 - s.reg Pg.fmu R.FMU_REC_RD) % 2 ^ 32) ∧
    (∀ q ∈ [5, 1029], let y := Body.recordOf 5 (repOf page false)
      let s := rep (repOf page false) fun i => { i with opened := [(Body.scopeOf page, q)], recs := [(5, y)] }
      s.dev.body.irq.opened.find? (fun e => e.1 == Body.scopeOf page) = some (Body.scopeOf page, q) ∧
      s.dev.body.irq.recs.find? (fun e => e.1 == q % 1024) = some (q % 1024, y) ∧ (y.seq = q ↔ q = 5)) := by decide +kernel

/-- Survey counter 63 counts frames in a window. -/
def winCfg : Nat := 2 ^ 31 + 2 ^ 30

theorem witness_SurveyAndCounterPairs :
    let cust := Master.thread 29 7
    let open_ := ents ready [(Tbl.range 29, 0, 2 ^ 39 + 2 ^ 31 + 2 ^ 30 + 12 * 2 ^ 14 + Pg.survey / 4096)]
    let on := ents (regs (ringAt KIND_TEL RING_RUNNING 1 0 [] id ready) [(Pg.survey, R.SVY_RUN, 0, 1), (Pg.survey, R.SVY_TEL_EN, 0, 1),
      (Pg.survey, R.SVY_TELSEL, 1, 2 ^ 31), (Pg.survey, R.SVY_TEL_RING, 0, 239)]) [(Tbl.svy, 63, winCfg)]
    let bad := chg ready fun b => { b with stat := { b.stat with bad := [2 ^ 30 - 1] }, hbm := { b.hbm with ue := [Sump.pairAddr (2 ^ 30 - 1) / 64 * 64] } }
    (reachB ready Master.host Pg.survey ∧ reachB open_ cust Pg.survey ∧ Master.isCustomer cust ∧ Master.isCustomer Master.host = false ∧
      bitOn (open_.reg Pg.survey R.SVY_USER_CFG 1) 31 = false ∧ ready.dev.body.boundSlot Master.host = none ∧ svyOk winCfg ∧ winCfg < 2 ^ 128 ∧
      svyOk (2 ^ 128 - 1) = false) ∧
    (on.dev.runs [17] ∧ (∀ due ∈ [false, true], (chg on fun b => { b with svy := { b.svy with winDue := due } }).dev.body.svy.winDue = due) ∧
      on.reg Pg.survey R.SVY_RUN = 1 ∧ on.dev.body.svyOn = [(63, winCfg)] ∧ svyMode winCfg = 2 ∧ on.reg Pg.survey R.SVY_TEL_EN = 1 ∧
      bitOn (on.reg Pg.survey R.SVY_TELSEL 1) 31 ∧ on.reg Pg.survey R.SVY_TEL_RING = 239 ∧ on.dev.body.ringRuns 239 KIND_TEL ∧ on.dev.body.dmaOk ∧
      (on.dev.body.run 239).tel = [] ∧ on.dev.body.ringLeft 239 ≠ 0) ∧
    (regs ready [(Pg.survey, R.SVY_RUN, 0, 0)]).reg Pg.survey R.SVY_RUN = 0 ∧ takeB ready Master.host (Pg.survey + 0x80) ∧
    (ready.dev.runs [15] ∧ 2 ^ 30 - 1 ∉ ready.dev.body.stat.bad ∧ ready.dev.body.lineBad (Sump.pairAddr (2 ^ 30 - 1) / 64 * 64) = false ∧
      bad.dev.body.lineBad (Sump.pairAddr (2 ^ 30 - 1) / 64 * 64)) := by decide +kernel

theorem witness_SnapshotsAndEcho :
    let far := fun (s : State) => regs s [(Pg.far 1 0, R.FAR_STATE, 0, 3), (Pg.far 1 0, R.PG_EN, 0, 1), (Pg.far 1 0, R.FAR_MEM_SIZE, 0, 1)]
    let go := fun (l : List (Nat × Fld × Nat × Nat)) => far (regs ready ([(Pg.snp, R.SNP_PORT, 0, 1), (Pg.snp, R.SNP_COUNT, 0, 1), (Pg.snp, R.SNP_FIRST, 0, 2 ^ 30 - 1)] ++ l))
    let late := [(Pg.snp, R.SNP_AT_EN, 0, 1), (Pg.snp, R.SNP_TSECLO, 0, 1)]
    let run := chg (go [(Pg.snp, R.SNP_BUSY, 0, 1)]) fun b => { b with snp := { b.snp with port := 1 } }
    let wait := chg (go [(Pg.snp, R.SNP_BUSY, 0, 1)]) fun b => { b with snp := { waiting := true, port := 1 }, stat := { b.stat with lines := [(2 ^ 30 - 1, { pkts := 1, bytes := 64 })] } }
    let arch := fun s => regs s [(Pg.echo 0, R.ECHO_ARCH_EN, 0, 1), (Pg.echo 0, R.ECHO_WR, 0, 4096)]
    let room := arch (far (pool15 3 1048576 16 []))
    (takeB (go []) Master.host (Pg.snp + 0x80) ∧ (∀ c ∈ [0, 2], (go [(Pg.snp, R.SNP_COUNT, 0, c)]).reg Pg.snp R.SNP_COUNT = c) ∧
      (go []).dev.body.snpBad = false ∧ (go []).reg Pg.snp R.SNP_AT_EN = 0 ∧ (go []).dev.body.farReady 1 ∧
      (regs (go []) [(Pg.far 1 0, R.FAR_STATE, 0, 2)]).dev.body.farReady 1 = false) ∧
    (∀ v < 2, let s := go (late ++ [(Pg.lamp, R.TOD_VALID, 0, v)])
      s.dev.body.snpBad = false ∧ s.reg Pg.snp R.SNP_AT_EN = 1 ∧ s.reg Pg.lamp R.TOD_VALID = v ∧ s.dev.body.tod < s.dev.body.snpTarget) ∧
    (wait.dev.runs [17] ∧ wait.dev.body.snp.waiting ∧ wait.dev.body.snpTarget ≤ wait.dev.body.tod ∧ wait.dev.body.farReady wait.dev.body.snp.port ∧
      wait.reg Pg.snp R.SNP_BUSY = 1 ∧ wait.dev.body.stat.bad = [] ∧ wait.dev.body.hbm.ue = [] ∧ wait.dev.body.hbm.coded = [] ∧
      (regs wait [(Pg.far 1 0, R.FAR_STATE, 0, 2)]).dev.body.farReady 1 = false) ∧
    (run.dev.runs [2] ∧ run.reg Pg.snp R.SNP_BUSY = 1 ∧ run.dev.body.snp.waiting = false ∧ run.dev.body.farReady run.dev.body.snp.port ∧
      run.dev.body.snp.port ∉ run.dev.body.far.armHold ∧ run.reg Pg.snp R.SNP_FIRST + run.reg Pg.snp R.SNP_COUNT ≤ 2 ^ 30) ∧
    takeB ready Master.host (Pg.echo 0 + 0x84) ∧
    (ready.dev.body.archDue = false ∧ (arch ready).dev.body.archDue ∧ (arch ready).dev.body.poolFor 4 3 1048576 = none ∧
      room.dev.body.archDue ∧ room.dev.body.poolFor 4 3 1048576 = some 15 ∧ room.dev.body.poolLevel 15 ≠ 2 ∧
      room.reg (Pg.pool 15) R.POOL_FREE_CNT ≠ 0 ∧ 1 ∉ room.dev.body.far.armHold ∧ room.dev.body.farReady 1) := by decide +kernel

theorem witness_ServicePorts :
    let dbg := chg ready fun b => { b with svc := { b.svc with instr := .dbgReg } }
    let held := chg ready fun b => { b with boot := { b.boot with reached := 4 }, svc := { b.svc with addr := 0x100000 } }
    (ready.dev.body.sup.mode ≠ .off ∧ ready.dev.body.svc.wrAt = none ∧ ready.dev.body.svc.rdAt = none ∧ ready.dev.body.svc.addr % 4 = 0) ∧
    (chg ready fun b => { b with svc := { b.svc with rdAt := some 0 }, clk := 4999 }).dev.body.clk < 0 + 5000 ∧
    (held.dev.body.boot.bar0 = false ∧ pageOf held.dev.body.svc.addr ≠ Pg.lamp) ∧
    (ready.dev.body.sup.lampOnly = false ∧ ready.dev.body.sup.mode = .running ∧ JtagInstr.takesPins .idcode = false ∧
      JtagInstr.takesPins .extest) ∧
    (addrOk 0x3FFFFFC ∧ ready.dev.body.svc.instr ≠ .dbgReg ∧ dbg.dev.body.svc.instr = .dbgReg ∧ reachB dbg Master.jtag Pg.survey ∧
      answerB dbg Master.jtag Pg.survey) := by decide +kernel

/-! One step each; the expected results come from the spec's words and examples. -/

/-- The state that an answer gives, or the reset state where it gives none. -/
def nextOf (o : Host.Outcome State Fault Refusal) : State := match o with | .next t => t | _ => State.reset

/-- What thread 255 holds in G29 after an operation on two values. -/
def opGives (c : Instr) (op x y : Nat) : Nat := (nextOf (exec c (opAt op x y))).dev.body.greg 255 29

/-- R246: the spec's examples of a rate code and of a cap code. -/
theorem test_rate_and_cap_codes : rateBits 0xDBEC = 400031744000 ∧ rateBits 0xCBEC = 200015872000 ∧ capBytes 0x60 = 65536 ∧
    capBytes 0x50 = 32768 := by decide

/-- The published check values of CRC-32C, of the IEEE 802.3 frame check and of R105's CRC-16 over the digits 1 to 9. -/
theorem test_crc_check_values :
    let l : List Byte := [0x31, 0x32, 0x33, 0x34, 0x35, 0x36, 0x37, 0x38, 0x39]
    crc32c l = 0xE3069283 ∧ fcs32 l = 0xCBF43926 ∧ crc16 l = 0x29B1 := by decide +kernel

/-- FIPS 197: the examples of a product (4.2) and of a substitution (5.1.1). -/
theorem test_aes_published_values : gfMul 8 0x57 0x83 = 0xC1 ∧ aesSub 0x53 = 0xED := by decide +kernel

/-- The opcode table gives no bits: no word spells a command. -/
theorem test_no_word_spells_a_command : ∀ n ∈ [0, 8, 32, 64], ∀ w ∈ [0, 1, 0xFFFFFFFF], decodeTableWord n w = none ∧
    (ready.withFetchWord n w) = ready := by decide +kernel

/-- Commands are taken first in, first out. -/
theorem test_step_takes_front :
    (nextOf (step { ready with pending := [.todValidClr Master.host, .ppsInEdge] })).pending = [.ppsInEdge] := by decide +kernel

theorem test_add_sub_wrap : opGives (.add 255) 0x00 (2 ^ 64 - 1) 1 = 0 ∧ opGives (.sub 255) 0x01 0 1 = 2 ^ 64 - 1 := by decide +kernel

theorem test_bitwise : opGives (.and 255) 0x02 12 10 = 8 ∧ opGives (.or 255) 0x03 12 10 = 14 ∧ opGives (.xor 255) 0x04 12 10 = 6 := by decide +kernel

theorem test_shifts : opGives (.shl 255) 0x05 3 63 = 2 ^ 63 ∧ opGives (.shr 255) 0x06 (2 ^ 63) 63 = 1 ∧
    opGives (.sar 255) 0x07 (2 ^ 63) 63 = 2 ^ 64 - 1 := by decide +kernel

theorem test_compares : opGives (.clt 255) 0x10 (2 ^ 64 - 1) 1 = 1 ∧ opGives (.cltu 255) 0x11 (2 ^ 64 - 1) 1 = 0 ∧
    opGives (.ceq 255) 0x12 7 7 = 1 := by decide +kernel

theorem test_mul_div : opGives (.mul 255) 0x13 (2 ^ 64 - 1) 2 = 2 ^ 64 - 2 ∧ opGives (.divu 255) 0x16 (2 ^ 63) 3 = 3074457345618258602 ∧
    opGives (.div 255) 0x15 100 0 = 2 ^ 64 - 1 ∧ opGives (.rem 255) 0x17 100 0 = 100 := by decide +kernel

/-- R359, R409: a store of two bytes writes its two bytes, low byte first, and a load of a byte extends its sign. -/
theorem test_store_and_load :
    (let t := nextOf (exec (.sh 255) (lsAt 0x21 64 ready))
     Mem.read t.dev.body.mem.grt (sliceBase 255 + 64) 3 = [0xFF, 0xFF, 0]) ∧
    (let s := chg (lsAt 0x18 64 ready) fun b => { b with mem := { b.mem with grt := Mem.write b.mem.grt (sliceBase 255 + 64) [0x80] } }
     (nextOf (exec (.lb 255) s)).dev.body.greg 255 30 = 2 ^ 64 - 128) := by decide +kernel

/-- R356: a write of G0 is lost. -/
theorem test_register_zero :
    (nextOf (exec (.add 255) (issueAt (1 * 2 ^ 16 + 1 * 2 ^ 11) 5 0 {} ready))).dev.body.greg 255 0 = 0 := by decide +kernel

/-- R53, R67: BEGIN of an idle slot opens it for its master. -/
theorem test_cairn_begin :
    let t := nextOf (exec (.cairnBegin 3 Master.host) ready)
    t.reg Pg.cairn R.CAIRN_STATE 3 = CS_OPEN ∧ t.reg Pg.cairn R.CAIRN_OWNER 3 = Master.host := by decide +kernel

/-- R43: an injected event sets EVT_PEND with EVT_EN clear. -/
theorem test_event_inject :
    (nextOf (exec (.eventInject Pg.stc Master.host 1) ready)).reg Pg.stc (evtPend 0) = 1 := by decide +kernel

/-- A pool's buffer is freed: FREE_CNT rises by 1. -/
theorem test_pool_free :
    let t := nextOf (exec (.poolFree 15 3 Master.host) (pool15 3 64 2 [0, 3]))
    t.reg (Pg.pool 15) R.POOL_FREE_CNT = 3 ∧ t.dev.body.allocOf 15 = [0] := by decide +kernel

/-- R302: a step of the time of day outside 0 to 999,999,999 ns is refused with LAMP_EVT_BADCFG. -/
theorem test_tod_step_refused :
    (nextOf (exec (.todStep Master.host) (regs ready [(Pg.lamp, R.TOD_SET_NS, 0, 1000000000)]))).reg Pg.lamp (evtPend R.LAMP_EVT_BADCFG) = 1 ∧
    (nextOf (exec (.todStep Master.host) (regs ready [(Pg.lamp, R.TOD_SET_NS, 0, 999999999)]))).dev.body.tod = 999999999 * 65536 := by decide +kernel

/-- R30: GOV_MODE holds the mode written. -/
theorem test_gov_mode :
    (nextOf (exec (.govModeWrite 4 1 Master.host) ready)).reg Pg.governor R.GOV_MODE 4 = 1 := by decide +kernel

/-- Before the boot processor runs the engine, a command of the running engine changes nothing. -/
theorem test_reset_ignores_instructions : nextOf (exec (.add 0) State.reset) = State.reset := by decide +kernel

end Sys2Proof.Tests
end

section
/-! O11: what the commands of a Cairn slot do (R66, R67, R69). A command is a write of CAIRN_CMDn; the first part says what that write
makes of the state, the second what `Body.cairnCmd` makes of the slot, and the last puts the clauses together. -/

namespace Sys2Proof.Machine

/-! The write of a slot's command register. -/

/-- The state after a command code is written to slot `n`'s command register by a master. -/
def State.slotCmd (s : State) (n m code : Nat) : State :=
  { s with dev := s.dev.after fun d => d.write m (R.CAIRN_CMD.addr Pg.cairn n 0) code }

/-- The command register of a slot lies in the block of the Cairn page and holds the command field alone, at the slot's index. -/
theorem cairnCmd_register {n : Nat} (hn : n < 8) :
    PK.cairn.plain (0x100 + 0x40 * n) = true ∧
    fieldAt (Pg.cairn + (0x100 + 0x40 * n)) R.CAIRN_CMD = some n := by
  refine ⟨(by decide : ∀ n < 8, PK.cairn.plain (0x100 + 0x40 * n) = true) n hn, ?_⟩
  rw [pageIs_cairn.fieldAt (by omega) (by decide)]
  exact (by decide : ∀ n < 8,
    ((PK.cairn.fieldsAt (0x100 + 0x40 * n)).find? fun x => x.1 == R.CAIRN_CMD).map (·.2.1) = some n) n hn

theorem cairnCmd_addr (n : Nat) : R.CAIRN_CMD.addr Pg.cairn n 0 = Pg.cairn + (0x100 + 0x40 * n) := by
  simp only [Fld.addr, R.CAIRN_CMD]
  omega

/-- A write of a slot's command register is the command of its three bits. -/
theorem Dev.write_cairnCmd {s : State} {n m code : Nat} (hn : n < 8) (hc : code < 8)
    (h : s.takes m (R.CAIRN_CMD.addr Pg.cairn n 0)) :
    s.dev.write m (R.CAIRN_CMD.addr Pg.cairn n 0) code = { s.dev with body := s.dev.body.cairnCmd n m code } := by
  obtain ⟨hplain, hfield⟩ := cairnCmd_register hn
  have hcode : R.CAIRN_CMD.of code = code := by
    simpa [Fld.of, bitField, R.CAIRN_CMD] using Nat.mod_eq_of_lt hc
  rw [cairnCmd_addr] at h ⊢
  rw [Dev.write_store code h pageIs_cairn (by omega) (by omega) (by omega) (by decide) hplain]
  simp only [Body.pageStore, Body.storeCairn, hfield, hcode]

section
variable {s : State} {n m code : Nat} (hn : n < 8) (h : s.takes m (R.CAIRN_CMD.addr Pg.cairn n 0))
include hn h

/-! Each of the four commands is the write of its code. -/

theorem exec_cairnBegin : exec (.cairnBegin n m) s = .next (s.slotCmd n m 1) :=
  s.live_runs _ (by simp [hn, h.known]) h.runs

theorem exec_cairnCommit : exec (.cairnCommit n m) s = .next (s.slotCmd n m 2) :=
  s.live_runs _ (by simp [hn, h.known]) h.runs

theorem exec_cairnAbort : exec (.cairnAbort n m) s = .next (s.slotCmd n m 3) :=
  s.live_runs _ (by simp [hn, h.known]) h.runs

theorem exec_cairnRelease : exec (.cairnRelease n m) s = .next (s.slotCmd n m 4) :=
  s.live_runs _ (by simp [hn, h.known]) h.runs

/-! What a reader sees of the state after a command. -/

variable (hc : code < 8)
include hc

theorem slotCmd_cairn : (s.slotCmd n m code).dev.body.cairn = (s.dev.body.cairnCmd n m code).cairn := by
  simp [State.slotCmd, Dev.write_cairnCmd hn hc h]

theorem slotCmd_slot (k : Nat) : (s.slotCmd n m code).dev.body.slot k = (s.dev.body.cairnCmd n m code).slot k := by
  simp only [Body.slot, slotCmd_cairn hn h hc]

theorem slotCmd_reg {f : Fld} (hf : f.lo < 32 ∧ f.off < 0x140 ∧ f.stride = 0x40) :
    (s.slotCmd n m code).reg Pg.cairn f n = (s.dev.body.cairnCmd n m code).crd f n :=
  cairn_reg (by rw [Dev.write_cairnCmd hn hc h]) hn ⟨hf.1, hf.2.1, .inl hf.2.2⟩ (by omega)

theorem slotCmd_evt {e : Nat} (he : e < 32) :
    (s.slotCmd n m code).evt Pg.cairn e ↔ (s.dev.body.cairnCmd n m code).rd Pg.cairn (evtPend e) = 1 := by
  rw [State.slotCmd, State.evt_after _ _ he (by decide), Dev.write_cairnCmd hn hc h]

theorem slotCmd_keeps (hk : Body.Keeps [Pg.cairn] s.dev.body (s.dev.body.cairnCmd n m code)) :
    s.keeps (s.slotCmd n m code) [Pg.cairn] :=
  State.keeps_body (Dev.write_cairnCmd hn hc h) hk

end

/-! The fields of a slot. -/

/-- A slot's own settings, which BEGIN leaves (R67). -/
def slotSettings : List Fld := [R.CAIRN_MODE, R.CAIRN_TNS, R.CAIRN_TSECLO, R.CAIRN_TSECHI]

/-- What a slot shows of itself: its state, owner and result, the status fields of R67 and its settings. -/
def slotShown : List Fld := R.CAIRN_STATE :: R.CAIRN_OWNER :: R.CAIRN_RESULT :: slotZeroed ++ slotSettings

/-- Every field that a slot shows repeats with the slots, within the Cairn page's block. -/
theorem slotShown_place : ∀ f ∈ slotShown, f.lo < 32 ∧ 0x80 ≤ f.off ∧ f.off < 0x140 ∧ f.stride = 0x40 := by decide

/-- Two fields of a slot that lie in different registers or different bits. -/
abbrev Fld.Apart (f g : Fld) : Prop := f.lo < 32 ∧ g.lo < 32 ∧ f.stride = g.stride ∧ (f.off ≠ g.off ∨ f.lo ≠ g.lo)

/-! When Cairn turns a command away (R67, R69), and what a command does that it takes. -/

namespace Body

variable (b : Body) (n m : Nat)

theorem cairnForeign_begin : b.cairnForeign n m 1 = true ↔
    b.crd R.CAIRN_OWNER n ≠ m ∧ ¬ (b.crd R.CAIRN_STATE n = CS_IDLE ∨ b.crd R.CAIRN_STATE n = CS_DONE) := by
  simp [cairnForeign, cairnListed]

theorem cairnForeign_commit : b.cairnForeign n m 2 = true ↔ b.crd R.CAIRN_OWNER n ≠ m := by
  simp [cairnForeign]

theorem cairnForeign_abort : b.cairnForeign n m 3 = true ↔ m ≠ Master.host ∧ b.crd R.CAIRN_OWNER n ≠ m := by
  simp [cairnForeign, and_comm]

theorem cairnForeign_release : b.cairnForeign n m 4 = true ↔ b.crd R.CAIRN_OWNER n ≠ m := by
  simp [cairnForeign]

theorem cairnBad_begin : b.cairnBad n m 1 = true ↔
    ¬ (b.crd R.CAIRN_STATE n = CS_IDLE ∨ b.crd R.CAIRN_STATE n = CS_DONE) ∨ b.boundSlot m ≠ none := by
  simp [cairnBad, cairnListed, Option.isSome_iff_ne_none]

theorem cairnBad_commit : b.cairnBad n m 2 = true ↔
    ¬ (b.crd R.CAIRN_STATE n = CS_OPEN ∨ b.crd R.CAIRN_STATE n = CS_POISONED) := by
  simp [cairnBad, cairnListed]

theorem cairnBad_abort : b.cairnBad n m 3 = true ↔
    ¬ (CS_OPEN ≤ b.crd R.CAIRN_STATE n ∧ b.crd R.CAIRN_STATE n ≤ CS_PENDING) := by
  simp [cairnBad, cairnListed, slotLive, imp_iff_not_or]

theorem cairnBad_release : b.cairnBad n m 4 = true ↔ b.crd R.CAIRN_STATE n ≠ CS_DONE := by
  simp [cairnBad, cairnListed]

/-- An event of the Cairn page, where a condition holds. -/
def fireIf (x : Bool) (e : Nat) : Body := if x then b.fire Pg.cairn e else b

variable {n m}

/-- A command that is turned away raises its events and does nothing else. -/
theorem cairnCmd_refused {code : Nat} (h : b.cairnForeign n m code = true ∨ b.cairnBad n m code = true) :
    b.cairnCmd n m code =
      (b.fireIf (b.cairnForeign n m code) R.CAIRN_EVT_OWNER).fireIf (b.cairnBad n m code) R.CAIRN_EVT_BADCMD := by
  simp only [cairnCmd, fireIf, Bool.or_eq_true, h, if_true]

/-- A command that is not turned away has its effect. -/
theorem cairnCmd_taken {code : Nat} (hf : ¬ b.cairnForeign n m code = true) (hb : ¬ b.cairnBad n m code = true) :
    b.cairnCmd n m code = if code = 1 then b.cairnBegin n m else if code = 2 then b.cairnCommit n
      else if code = 3 then b.slotDone n CR_ABORTED
      else (b.cwr R.CAIRN_STATE n CS_IDLE).cwr R.CAIRN_RESULT n CR_NONE := by
  simp only [cairnCmd, Bool.or_eq_true, hf, hb, Bool.false_eq_true, or_self, if_false]

theorem fireIf_cairn (x : Bool) (e : Nat) : (b.fireIf x e).cairn = b.cairn := by
  cases x <;> simp [fireIf]

theorem crd_fireIf (x : Bool) {e : Nat} {f : Fld} (he : e < 32) (hf : f.lo < 32 ∧ 0x80 ≤ f.off ∧ f.off + f.stride * n < 0x1000) :
    (b.fireIf x e).crd f n = b.crd f n := by
  cases x
  · rfl
  · exact b.crd_fire he hf

theorem Keeps.fireIf {b c : Body} (h : Keeps [Pg.cairn] b c) (x : Bool) {e : Nat} (he : e < 32) :
    Keeps [Pg.cairn] b (c.fireIf x e) := by
  cases x
  · exact h
  · exact h.fire he (by decide) (by simp)

/-- The pending bits of the Cairn page after an event that a condition raises. -/
theorem rd_fireIf_pend (x : Bool) {e k : Nat} (he : e < 32) (hk : k < 32) :
    (b.fireIf x e).rd Pg.cairn (evtPend k) = 1 ↔ (x = true ∧ e = k) ∨ b.rd Pg.cairn (evtPend k) = 1 := by
  cases x
  · simp [fireIf]
  · by_cases hek : e = k
    · subst hek
      simpa [fireIf] using b.fire_pend he (by decide)
    · have hne : (b.fire Pg.cairn e).rd Pg.cairn (evtPend k) = b.rd Pg.cairn (evtPend k) :=
        b.rd_fire he hk (.inr fun hke => hek hke.symm) (by simp [Fld.addr, evtPend]) (by simp [Fld.addr, evtPend, Pg.cairn])
          (by simp [Fld.addr, evtPend, Pg.cairn])
      simp [fireIf, hek, hne]

/-! A command that its slot takes from its master, by its code. -/

theorem cairnCmd_begin (hrests : b.crd R.CAIRN_STATE n = CS_IDLE ∨ b.crd R.CAIRN_STATE n = CS_DONE)
    (hfree : b.boundSlot m = none) : b.cairnCmd n m 1 = b.cairnBegin n m := by
  rw [b.cairnCmd_taken (by rw [cairnForeign_begin]; exact fun x => x.2 hrests)
    (by rw [cairnBad_begin]; exact fun x => x.elim (· hrests) (· hfree)), if_pos rfl]

theorem cairnCmd_commit (hmine : b.crd R.CAIRN_OWNER n = m)
    (hst : b.crd R.CAIRN_STATE n = CS_OPEN ∨ b.crd R.CAIRN_STATE n = CS_POISONED) :
    b.cairnCmd n m 2 = b.cairnCommit n := by
  rw [b.cairnCmd_taken (by rw [cairnForeign_commit]; exact fun x => x hmine) (by rw [cairnBad_commit]; exact fun x => x hst),
    if_neg (by decide), if_pos rfl]

theorem cairnCmd_abort (hmay : m = Master.host ∨ b.crd R.CAIRN_OWNER n = m)
    (hlives : CS_OPEN ≤ b.crd R.CAIRN_STATE n ∧ b.crd R.CAIRN_STATE n ≤ CS_PENDING) :
    b.cairnCmd n m 3 = b.slotDone n CR_ABORTED := by
  rw [b.cairnCmd_taken (by rw [cairnForeign_abort]; exact fun x => hmay.elim x.1 x.2)
    (by rw [cairnBad_abort]; exact fun x => x hlives), if_neg (by decide), if_neg (by decide), if_pos rfl]

theorem cairnCmd_release (hmine : b.crd R.CAIRN_OWNER n = m) (hdone : b.crd R.CAIRN_STATE n = CS_DONE) :
    b.cairnCmd n m 4 = (b.cwr R.CAIRN_STATE n CS_IDLE).cwr R.CAIRN_RESULT n CR_NONE := by
  rw [b.cairnCmd_taken (by rw [cairnForeign_release]; exact fun x => x hmine)
    (by rw [cairnBad_release]; exact fun x => x hdone), if_neg (by decide), if_neg (by decide), if_neg (by decide)]

/-! What BEGIN and COMMIT make of their slot. -/

/-- BEGIN binds the slot, sets its state, owner and result, and zeroes the rest of its status. -/
theorem cairnBegin_eq : b.cairnBegin n m = slotZeroed.foldl (fun b f => b.cwr f n 0)
    ((((b.setSlot n { bound := some m }).cwr R.CAIRN_STATE n CS_OPEN).cwr R.CAIRN_OWNER n m).cwr R.CAIRN_RESULT n CR_NONE) := rfl

/-- What BEGIN leaves (R67). -/
theorem cairnBegin_spec (hn : n < 8) (hm : m < 1024) :
    (b.cairnBegin n m).slot n = { bound := some m } ∧ (b.cairnBegin n m).crd R.CAIRN_STATE n = CS_OPEN ∧
    (b.cairnBegin n m).crd R.CAIRN_OWNER n = m ∧ (b.cairnBegin n m).crd R.CAIRN_RESULT n = CR_NONE ∧
    (∀ f ∈ slotZeroed, (b.cairnBegin n m).crd f n = 0) ∧
    (∀ f ∈ slotSettings, (b.cairnBegin n m).crd f n = b.crd f n) ∧ Keeps [Pg.cairn] b (b.cairnBegin n m) := by
  have hz : ∀ g ∈ R.CAIRN_STATE :: R.CAIRN_OWNER :: R.CAIRN_RESULT :: slotSettings, ∀ f ∈ slotZeroed, Fld.Apart f g := by decide
  have hs : ∀ f ∈ slotSettings,
      Fld.Apart R.CAIRN_RESULT f ∧ Fld.Apart R.CAIRN_OWNER f ∧ Fld.Apart R.CAIRN_STATE f := by decide
  have hzz : ∀ g ∈ slotZeroed, ∀ f ∈ slotZeroed, f = g ∨ Fld.Apart f g := by decide
  rw [cairnBegin_eq]
  refine ⟨?_, ?_, ?_, ?_, fun f hf => crd_zeroed_mem _ n slotZeroed hf (hzz f hf), fun f hf => ?_, ?_⟩
  · simp only [slot_zeroed, slot_cwr, slot_set]
  · rw [crd_zeroed _ n slotZeroed (hz R.CAIRN_STATE (by simp)), crd_cwr_ne _ (by decide), crd_cwr_ne _ (by decide), crd_cwr_self]
    rfl
  · rw [crd_zeroed _ n slotZeroed (hz R.CAIRN_OWNER (by simp)), crd_cwr_ne _ (by decide), crd_cwr_self]
    exact Nat.mod_eq_of_lt hm
  · rw [crd_zeroed _ n slotZeroed (hz R.CAIRN_RESULT (by simp)), crd_cwr_self]
    rfl
  · obtain ⟨hresult, howner, hstate⟩ := hs f hf
    rw [crd_zeroed _ n slotZeroed (hz f (by simp [hf])), crd_cwr_ne _ hresult, crd_cwr_ne _ howner, crd_cwr_ne _ hstate, crd_set]
  · exact ((((Keeps.refl b).setSlot.cwr hn (by decide)).cwr hn (by decide)).cwr hn (by decide)).zeroed hn (by decide)

/-- COMMIT of an OPEN slot that passes the checks of R58 moves it to VALIDATE, unbound. -/
theorem cairnCommit_passes (h : b.crd R.CAIRN_STATE n = CS_OPEN) (hpass : b.commitFails n = none) :
    b.cairnCommit n = (b.setSlot n { (b.slot n) with bound := none }).cwr R.CAIRN_STATE n CS_VALIDATE := by
  unfold cairnCommit
  rw [if_neg (by rw [h]; decide), hpass]

/-- COMMIT of an OPEN slot ends it with the check of R58 that fails first. -/
theorem cairnCommit_fails (h : b.crd R.CAIRN_STATE n = CS_OPEN) {r : Nat} (hfail : b.commitFails n = some r) :
    b.cairnCommit n = b.slotDone n r := by
  unfold cairnCommit
  rw [if_neg (by rw [h]; decide), hfail]

/-- COMMIT of a POISONED slot ends it with the result that poisoned it (R57). -/
theorem cairnCommit_poisoned (h : b.crd R.CAIRN_STATE n = CS_POISONED) :
    b.cairnCommit n = b.slotDone n (b.crd R.CAIRN_RESULT n) := by
  unfold cairnCommit
  rw [if_pos h]

end Body

/-- The numbers of the masters fit the owner field (R37). -/
theorem Master.lt_of_known {m : Nat} (h : Master.known m = true) : m < 1024 := by
  simp only [Master.known, Master.isThread, Master.host, Master.jtag, Master.asuth, Master.bmc, Bool.or_eq_true, beq_iff_eq,
    decide_eq_true_eq] at h
  omega

/-! The clauses of the statement, as relations between the states before and after. -/

/-- Some fields of a slot are as they were, and so is everything outside the Cairn page. -/
def State.SlotSame (s t : State) (n : Nat) (l : List Fld) : Prop :=
  (∀ f ∈ l, t.reg Pg.cairn f n = s.reg Pg.cairn f n) ∧ s.keeps t [Pg.cairn]

/-- A command is turned away: it raises the events that say why, and changes nothing that a slot shows or stages. -/
def State.CmdIgnored (s t : State) (n : Nat) (foreign bad : Prop) : Prop :=
  (foreign → t.evt Pg.cairn R.CAIRN_EVT_OWNER) ∧
  (¬ foreign → (t.evt Pg.cairn R.CAIRN_EVT_OWNER ↔ s.evt Pg.cairn R.CAIRN_EVT_OWNER)) ∧
  (bad → t.evt Pg.cairn R.CAIRN_EVT_BADCMD) ∧
  (¬ bad → (t.evt Pg.cairn R.CAIRN_EVT_BADCMD ↔ s.evt Pg.cairn R.CAIRN_EVT_BADCMD)) ∧
  t.dev.body.cairn = s.dev.body.cairn ∧ s.SlotSame t n slotShown

/-- A slot ends with a result. -/
def State.SlotEnds (s t : State) (n r : Nat) : Prop :=
  t.reg Pg.cairn R.CAIRN_STATE n = CS_DONE ∧ t.reg Pg.cairn R.CAIRN_RESULT n = r ∧ t.dev.body.slot n = {} ∧
  t.evt Pg.cairn (R.CAIRN_EVT_DONE + n) ∧ s.keeps t [Pg.cairn]

/-- The results of R70 fit the result field. -/
theorem commitFails_lt {b : Body} {n r : Nat} (h : b.commitFails n = some r) : r < 16 := by
  unfold Body.commitFails at h
  dsimp only at h
  split_ifs at h <;> cases h <;> decide

section
variable {s : State} {n m : Nat} (hn : n < 8) (h : s.takes m (R.CAIRN_CMD.addr Pg.cairn n 0))
include hn h

theorem slotCmd_reg_shown {code : Nat} (hc : code < 8) {f : Fld} (hf : f ∈ slotShown) :
    (s.slotCmd n m code).reg Pg.cairn f n = (s.dev.body.cairnCmd n m code).crd f n := by
  obtain ⟨hlo, -, hoff, hstride⟩ := slotShown_place f hf
  exact slotCmd_reg hn h hc ⟨hlo, hoff, hstride⟩

/-- A command that is foreign or bad is ignored, with the events that say which (R67, R69). -/
theorem slotCmd_ignored {code : Nat} (hc : code < 8) {foreign bad : Prop}
    (hf : s.dev.body.cairnForeign n m code = true ↔ foreign) (hb : s.dev.body.cairnBad n m code = true ↔ bad)
    (ht : foreign ∨ bad) : s.CmdIgnored (s.slotCmd n m code) n foreign bad := by
  have hcmd := s.dev.body.cairnCmd_refused (by rwa [hf, hb] : _ ∨ s.dev.body.cairnBad n m code = true)
  have hevt : ∀ e < 32, (s.slotCmd n m code).evt Pg.cairn e ↔
      (bad ∧ R.CAIRN_EVT_BADCMD = e) ∨ (foreign ∧ R.CAIRN_EVT_OWNER = e) ∨ s.evt Pg.cairn e := fun e he => by
    rw [slotCmd_evt hn h hc he, hcmd, Body.rd_fireIf_pend _ _ (by decide) he, Body.rd_fireIf_pend _ _ (by decide) he, hf, hb]
    rfl
  have howner : (s.slotCmd n m code).evt Pg.cairn R.CAIRN_EVT_OWNER ↔ foreign ∨ s.evt Pg.cairn R.CAIRN_EVT_OWNER := by
    simp [hevt R.CAIRN_EVT_OWNER (by decide), show R.CAIRN_EVT_BADCMD ≠ R.CAIRN_EVT_OWNER by decide]
  have hbad : (s.slotCmd n m code).evt Pg.cairn R.CAIRN_EVT_BADCMD ↔ bad ∨ s.evt Pg.cairn R.CAIRN_EVT_BADCMD := by
    simp [hevt R.CAIRN_EVT_BADCMD (by decide), show R.CAIRN_EVT_OWNER ≠ R.CAIRN_EVT_BADCMD by decide]
  refine ⟨fun x => howner.2 (.inl x), fun x => by rw [howner, or_iff_right x], fun x => hbad.2 (.inl x),
    fun x => by rw [hbad, or_iff_right x], ?_, fun f hs => ?_, ?_⟩
  · rw [slotCmd_cairn hn h hc, hcmd, Body.fireIf_cairn, Body.fireIf_cairn]
  · obtain ⟨hlo, hblock, hoff, hstride⟩ := slotShown_place f hs
    have hplace : f.lo < 32 ∧ 0x80 ≤ f.off ∧ f.off + f.stride * n < 0x1000 := ⟨hlo, hblock, by rw [hstride]; omega⟩
    rw [slotCmd_reg_shown hn h hc hs, hcmd, Body.crd_fireIf _ _ (by decide) hplace, Body.crd_fireIf _ _ (by decide) hplace]
    rfl
  · refine slotCmd_keeps hn h hc ?_
    rw [hcmd]
    exact ((Body.Keeps.refl _).fireIf _ (by decide)).fireIf _ (by decide)

/-- A command that ends the slot. -/
theorem slotCmd_ends {code r : Nat} (hc : code < 8) (hr : r < 16)
    (hcmd : s.dev.body.cairnCmd n m code = s.dev.body.slotDone n r) : s.SlotEnds (s.slotCmd n m code) n r := by
  obtain ⟨hstate, hresult, hslot, hevt, hkeeps⟩ := s.dev.body.slotDone_spec (n := n) (r := r) hn
  refine ⟨?_, ?_, ?_, ?_, ?_⟩
  · rw [slotCmd_reg_shown hn h hc (by decide), hcmd, hstate]
  · rw [slotCmd_reg_shown hn h hc (by decide), hcmd, hresult, Nat.mod_eq_of_lt hr]
  · rw [slotCmd_slot hn h hc, hcmd, hslot]
  · rw [slotCmd_evt hn h hc (by simp only [R.CAIRN_EVT_DONE]; omega), hcmd, hevt]
  · exact slotCmd_keeps hn h hc (hcmd ▸ hkeeps)

/-- BEGIN on a slot that takes it (R67). -/
theorem slotCmd_begins (hrests : s.reg Pg.cairn R.CAIRN_STATE n = CS_IDLE ∨ s.reg Pg.cairn R.CAIRN_STATE n = CS_DONE)
    (hfree : s.dev.body.boundSlot m = none) :
    (s.slotCmd n m 1).reg Pg.cairn R.CAIRN_STATE n = CS_OPEN ∧ (s.slotCmd n m 1).reg Pg.cairn R.CAIRN_OWNER n = m ∧
    (s.slotCmd n m 1).reg Pg.cairn R.CAIRN_RESULT n = CR_NONE ∧ (s.slotCmd n m 1).dev.body.slot n = { bound := some m } ∧
    (∀ f ∈ slotZeroed, (s.slotCmd n m 1).reg Pg.cairn f n = 0) ∧ s.SlotSame (s.slotCmd n m 1) n slotSettings := by
  have hcmd := s.dev.body.cairnCmd_begin hrests hfree
  obtain ⟨hslot, hstate, howner, hresult, hzero, hset, hkeeps⟩ := s.dev.body.cairnBegin_spec hn (Master.lt_of_known h.known)
  refine ⟨?_, ?_, ?_, ?_, fun f hf => ?_, fun f hf => ?_, ?_⟩
  · rw [slotCmd_reg_shown hn h (by decide) (by decide), hcmd, hstate]
  · rw [slotCmd_reg_shown hn h (by decide) (by decide), hcmd, howner]
  · rw [slotCmd_reg_shown hn h (by decide) (by decide), hcmd, hresult]
  · rw [slotCmd_slot hn h (by decide), hcmd, hslot]
  · rw [slotCmd_reg_shown hn h (by decide) (by simp [slotShown, hf]), hcmd, hzero f hf]
  · rw [slotCmd_reg_shown hn h (by decide) (by simp [slotShown, hf]), hcmd, hset f hf]
    rfl
  · exact slotCmd_keeps hn h (by decide) (hcmd ▸ hkeeps)

/-- COMMIT that passes the checks of R58. -/
theorem slotCmd_validates (hmine : s.reg Pg.cairn R.CAIRN_OWNER n = m) (hopen : s.reg Pg.cairn R.CAIRN_STATE n = CS_OPEN)
    (hpass : s.dev.body.commitFails n = none) :
    (s.slotCmd n m 2).reg Pg.cairn R.CAIRN_STATE n = CS_VALIDATE ∧
    (s.slotCmd n m 2).dev.body.slot n = { s.dev.body.slot n with bound := none } ∧ s.keeps (s.slotCmd n m 2) [Pg.cairn] := by
  have hcmd := (s.dev.body.cairnCmd_commit hmine (.inl hopen)).trans (s.dev.body.cairnCommit_passes hopen hpass)
  refine ⟨?_, ?_, slotCmd_keeps hn h (by decide) ?_⟩
  · rw [slotCmd_reg_shown hn h (by decide) (by decide), hcmd, Body.crd_cwr_self]
    rfl
  · rw [slotCmd_slot hn h (by decide), hcmd, Body.slot_cwr, Body.slot_set]
  · rw [hcmd]
    exact (Body.Keeps.refl _).setSlot.cwr hn (by decide)

/-- RELEASE that the owner issues to a DONE slot (R67). -/
theorem slotCmd_releases (hmine : s.reg Pg.cairn R.CAIRN_OWNER n = m) (hdone : s.reg Pg.cairn R.CAIRN_STATE n = CS_DONE) :
    (s.slotCmd n m 4).reg Pg.cairn R.CAIRN_STATE n = CS_IDLE ∧ (s.slotCmd n m 4).reg Pg.cairn R.CAIRN_RESULT n = CR_NONE ∧
    (s.slotCmd n m 4).dev.body.slot n = s.dev.body.slot n ∧
    s.SlotSame (s.slotCmd n m 4) n (R.CAIRN_OWNER :: slotZeroed ++ slotSettings) := by
  have hcmd := s.dev.body.cairnCmd_release hmine hdone
  have hapart : ∀ f ∈ R.CAIRN_OWNER :: slotZeroed ++ slotSettings,
      f ∈ slotShown ∧ Fld.Apart R.CAIRN_STATE f ∧ Fld.Apart R.CAIRN_RESULT f := by decide
  refine ⟨?_, ?_, ?_, fun f hf => ?_, slotCmd_keeps hn h (by decide) ?_⟩
  · rw [slotCmd_reg_shown hn h (by decide) (by decide), hcmd, Body.crd_cwr_ne _ (by decide), Body.crd_cwr_self]
    rfl
  · rw [slotCmd_reg_shown hn h (by decide) (by decide), hcmd, Body.crd_cwr_self]
    rfl
  · rw [slotCmd_slot hn h (by decide), hcmd, Body.slot_cwr, Body.slot_cwr]
  · obtain ⟨hshown, hstate, hresult⟩ := hapart f hf
    rw [slotCmd_reg_shown hn h (by decide) hshown, hcmd, Body.crd_cwr_ne _ hresult, Body.crd_cwr_ne _ hstate]
    rfl
  · rw [hcmd]
    exact ((Body.Keeps.refl _).cwr hn (by decide)).cwr hn (by decide)

end

end Sys2Proof.Machine

namespace Sys2Proof

open Machine

/-- Settles O11: each clause is a command that Cairn takes, with its effect, or one that it turns away, with its events. -/
theorem cairnSlotCommands : Obligations.CairnSlotCommands := by
  intro n m s hn h st mine zeroed config same ignored done rests commits lives
  have refused : ∀ {c code foreign bad}, exec c s = .next (s.slotCmd n m code) → code < 8 →
      (s.dev.body.cairnForeign n m code = true ↔ foreign) → (s.dev.body.cairnBad n m code = true ↔ bad) → foreign ∨ bad →
      ignored c foreign bad :=
    fun hexec hc hf hb ht => ⟨_, hexec, slotCmd_ignored hn h hc hf hb ht⟩
  have hbegin := exec_cairnBegin hn h
  have hcommit := exec_cairnCommit hn h
  have habort := exec_cairnAbort hn h
  have hrelease := exec_cairnRelease hn h
  refine ⟨fun hrests hfree => ⟨_, hbegin, slotCmd_begins hn h hrests hfree⟩, fun hrests hbound => ?_, fun hbusy => ?_,
    fun hmine hopen hpass => ⟨_, hcommit, slotCmd_validates hn h hmine hopen hpass⟩, fun r hmine hopen hfail => ?_,
    fun hmine hpoisoned => ?_,
    refused hcommit (by decide) (s.dev.body.cairnForeign_commit n m) (s.dev.body.cairnBad_commit n m), fun hmay hlives => ?_,
    refused habort (by decide) (s.dev.body.cairnForeign_abort n m) (s.dev.body.cairnBad_abort n m),
    fun hmine hdone => ⟨_, hrelease, slotCmd_releases hn h hmine hdone⟩,
    refused hrelease (by decide) (s.dev.body.cairnForeign_release n m) (s.dev.body.cairnBad_release n m)⟩
  · refine refused hbegin (by decide) ?_ ?_ (.inr trivial)
    · rw [Body.cairnForeign_begin]
      exact iff_false_intro fun x => x.2 hrests
    · rw [Body.cairnBad_begin]
      exact iff_true_intro (.inr hbound)
  · refine refused hbegin (by decide) ?_ ?_ (.inr trivial)
    · rw [Body.cairnForeign_begin]
      exact and_iff_left hbusy
    · rw [Body.cairnBad_begin]
      exact iff_true_intro (.inl hbusy)
  · exact ⟨_, hcommit, slotCmd_ends hn h (by decide) (commitFails_lt hfail)
      ((s.dev.body.cairnCmd_commit hmine (.inl hopen)).trans (s.dev.body.cairnCommit_fails hopen hfail))⟩
  · exact ⟨_, hcommit, slotCmd_ends hn h (by decide) (s.dev.body.rd_lt Pg.cairn R.CAIRN_RESULT n 0)
      ((s.dev.body.cairnCmd_commit hmine (.inr hpoisoned)).trans (s.dev.body.cairnCommit_poisoned hpoisoned))⟩
  · exact ⟨_, habort, slotCmd_ends hn h (by decide) (by decide) (s.dev.body.cairnCmd_abort hmay hlives)⟩

end Sys2Proof
end

section
/-! O18: the commands of a pool (R224, R225, R227, R228). A command is a write of a register of the pool's page that leaves the engine with
a body made by the Pool manager. The first part says what a reader sees of such a state, the second which body each command leaves, the
third what the Pool manager's operations do, case by case, and the last puts the clauses together. -/

namespace Sys2Proof.Machine

/-! What a reader sees of the state after a command that leaves the engine with some body. -/

/-- The state whose engine has a body, with the notes that follow every effect. -/
def State.withBody (s : State) (c : Body) : State := { s with dev := s.dev.after fun d => { d with body := c } }

/-- A command of the running engine whose effect leaves it with a body. -/
theorem State.live_withBody {s : State} {ok : Bool} {doms : List Nat} {F : Dev → Dev} {c : Body} (ho : ok = true) (hr : s.runs doms)
    (hF : F s.dev = { s.dev with body := c }) : s.live ok doms F = .next (s.withBody c) := by
  rw [s.live_runs F ho hr]
  simp only [State.withBody, Dev.after, hF]

section
variable {s : State} {c : Body} {n : Nat}

@[simp] theorem State.withBody_self (s : State) : s.withBody s.dev.body = s := by
  simp only [State.withBody, Dev.after, Body.note_self]

@[simp] theorem State.withBody_buf : (s.withBody c).dev.body.buf = c.buf := by simp [State.withBody]

@[simp] theorem State.withBody_allocOf : (s.withBody c).dev.body.allocOf n = c.allocOf n := by simp [Body.allocOf]

@[simp] theorem State.withBody_deadOf : (s.withBody c).dev.body.deadOf n = c.deadOf n := by simp [Body.deadOf]

@[simp] theorem State.withBody_reports : (s.withBody c).dev.body.irq.reports = c.irq.reports := by simp [State.withBody]

/-- A register of a pool's page reads as the body has it. -/
theorem State.withBody_poolReg {f : Fld} {v : Nat} (h : c.rd (Pg.pool n) f = v) (hf : f.lo < 32 := by decide) :
    (s.withBody c).reg (Pg.pool n) f = v :=
  (s.reg_after _ hf (pool_noted n f)).trans h

theorem State.withBody_keeps {ps : List Nat} (h : Body.Keeps ps s.dev.body c) : s.keeps (s.withBody c) ps :=
  State.keeps_body rfl h

/-- A configuration that a pool refuses is told by its event, and the pool stays as it is (R228). -/
theorem State.withBody_badCfg {v : Nat} (hen : s.reg (Pg.pool n) R.PG_EN = v) :
    (s.withBody (s.dev.body.fire (Pg.pool n) R.POOL_EVT_BADCFG)).reg (Pg.pool n) R.PG_EN = v ∧
    (s.withBody (s.dev.body.fire (Pg.pool n) R.POOL_EVT_BADCFG)).evt (Pg.pool n) R.POOL_EVT_BADCFG ∧
    (s.withBody (s.dev.body.fire (Pg.pool n) R.POOL_EVT_BADCFG)).dev.body.allocOf n = s.dev.body.allocOf n ∧
    s.keeps (s.withBody (s.dev.body.fire (Pg.pool n) R.POOL_EVT_BADCFG)) [Pg.pool n] :=
  ⟨State.withBody_poolReg ((pool_fire (by decide) (by decide)).trans hen),
    State.withBody_poolReg (f := evtPend R.POOL_EVT_BADCFG) (Body.fire_pend _ (by decide) (Pg.pool_page n).2), by simp [Body.allocOf],
    State.withBody_keeps (pool_fire_keeps (by decide))⟩

end

/-! The body that each command leaves. -/

/-- A register with no writable field but one has nothing to keep when that field is written. -/
theorem Body.keepWord_eq_zero (b : Body) {a : Nat} {f : Fld}
    (h : ∀ x ∈ fieldsOf a, x.1 = f ∨ ¬ (x.1.acc = .rw ∨ x.1.acc = .rws ∨ x.1.acc = .rwl)) : b.keepWord a f = 0 :=
  Body.foldl_same_mem id _ _ 0 fun _ x hx => if_pos (h x hx)

/-- A field as it stands in a word that holds nothing else. -/
theorem Fld.of_shifted {f : Fld} {v : Nat} (hv : v < 2 ^ f.width) : f.of (0 + v % 2 ^ f.width * 2 ^ f.lo) = v := by
  rw [Fld.of, bitField, Nat.zero_add, Nat.mul_div_cancel _ (Nat.two_pow_pos _), ← Fld.width, Nat.mod_mod, Nat.mod_eq_of_lt hv]

/-- The number of the pool whose page an address lies in. -/
theorem pool_number {n off : Nat} (hn : n < 16) (ho : off < 0x1000) : (Pg.pool n + off) / 0x1000 % 0x10 = n := by
  unfold Pg.pool
  omega

section
variable {s : State} {n m : Nat} (hn : n < 16)
include hn

/-- A write of a pool's PG_CTRL that asks for no soft reset. -/
theorem Dev.write_poolCtrl {en : Nat} (he : en < 2) (h : s.reaches m (Pg.pool n + 0x10)) :
    s.dev.write m (Pg.pool n + 0x10) en =
      { s.dev with body := if en = 1 then s.dev.body.poolEnable n else s.dev.body.poolDisable n } := by
  have hp := pageIs_pool hn
  have hsoft : bitOn en 1 = false := by
    simp only [bitOn, beq_eq_false_iff_ne]
    omega
  rw [Dev.write_header en h hp (by decide) (by decide) (by decide)]
  simp only [Body.hdrStore, hp.kindAt (off := 0x10) (by decide), hp.mod (off := 0x10) (by decide),
    hp.pageOf (off := 0x10) (by decide), Body.ctrlStore, Nat.mod_eq_of_lt he, hsoft, Bool.false_eq_true, if_false]
  rw [show Pg.pool n / 0x1000 % 0x10 = n from pool_number (off := 0) hn (by decide)]

/-- A write of a register of a pool's page through its only writable field, which is not stored. -/
theorem Dev.put_pool {off v : Nat} {f : Fld} (h : s.takes m (Pg.pool n + off)) (ho : f.addr (Pg.pool n) 0 0 = Pg.pool n + off)
    (hb : 0x80 ≤ off ∧ off < 0x800 ∧ off % 4 = 0) (hpl : PK.pool.plain off = true) (hv : v < 2 ^ f.width)
    (hf : ∀ x ∈ PK.pool.fieldsAt off, x.1 = f ∨ ¬ (x.1.acc = .rw ∨ x.1.acc = .rws ∨ x.1.acc = .rwl)) :
    ∃ w, f.of w = v ∧ s.dev.put m (Pg.pool n) f 0 v =
      { s.dev with body := (s.dev.body.storePool m (Pg.pool n + off) w).1 } := by
  have hp := pageIs_pool hn
  obtain ⟨hlo, hhi, hword⟩ := hb
  refine ⟨0 + v % 2 ^ f.width * 2 ^ f.lo, Fld.of_shifted hv, ?_⟩
  unfold Dev.put
  dsimp only
  rw [ho, Body.keepWord_eq_zero _ (by rwa [hp.fieldsOf (by omega) (by decide)]),
    Dev.write_store _ h hp hlo hhi hword (by simp only [Pg.pool, Pg.boot]; omega) hpl]
  rfl

/-- A write of POOL_ALLOC_GO is the request of R225. -/
theorem Dev.put_poolAlloc (h : s.takes m (Pg.pool n + 0xB4)) :
    s.dev.put m (Pg.pool n) R.POOL_ALLOC_GO 0 1 = { s.dev with body := s.dev.body.poolAllocGo n } := by
  obtain ⟨w, hw, hput⟩ := Dev.put_pool (v := 1) (f := R.POOL_ALLOC_GO) hn h rfl (by decide) (by decide) (by decide) (by decide)
  have hfield : fieldAt (Pg.pool n + 0xB4) R.POOL_ALLOC_GO = some 0 := by
    rw [(pageIs_pool hn).fieldAt (by decide) (by decide)]
    decide
  rw [hput]
  simp [Body.storePool, hfield, hw, pool_number hn (off := 0xB4) (by decide)]

/-- A write of POOL_FREE_IDX frees the buffer that it names (R227). -/
theorem Dev.put_poolFree {i : Nat} (hi : i < 2 ^ 28) (h : s.takes m (Pg.pool n + 0xBC)) :
    s.dev.put m (Pg.pool n) R.POOL_FREE_IDX 0 i = { s.dev with body := s.dev.body.poolFree n i m } := by
  obtain ⟨w, hw, hput⟩ := Dev.put_pool (v := i) (f := R.POOL_FREE_IDX) hn h rfl (by decide) (by decide) hi (by decide)
  have hfield : fieldAt (Pg.pool n + 0xBC) R.POOL_FREE_IDX = some 0 ∧ fieldAt (Pg.pool n + 0xBC) R.POOL_ALLOC_GO = none := by
    rw [(pageIs_pool hn).fieldAt (by decide) (by decide), (pageIs_pool hn).fieldAt (by decide) (by decide)]
    decide
  rw [hput]
  simp [Body.storePool, hfield, hw, pool_number hn (off := 0xBC) (by decide)]

theorem exec_poolEnable (h : s.reaches m (Pg.pool n + 0x10)) :
    exec (.poolEnable n m) s = .next (s.withBody (s.dev.body.poolEnable n)) :=
  State.live_withBody (by simp [hn, h.known]) h.runs (Dev.write_poolCtrl hn (by decide) h)

theorem exec_poolDisable (h : s.reaches m (Pg.pool n + 0x10)) :
    exec (.poolDisable n m) s = .next (s.withBody (s.dev.body.poolDisable n)) :=
  State.live_withBody (by simp [hn, h.known]) h.runs (Dev.write_poolCtrl hn (by decide) h)

theorem exec_poolAlloc (h : s.takes m (Pg.pool n + 0xB4)) :
    exec (.poolAlloc n m) s = .next (s.withBody (s.dev.body.poolAllocGo n)) :=
  State.live_withBody (by simp [hn, h.known]) h.runs (Dev.put_poolAlloc hn h)

theorem exec_poolFree {i : Nat} (hi : i < 2 ^ 28) (h : s.takes m (Pg.pool n + 0xBC)) :
    exec (.poolFree n i m) s = .next (s.withBody (s.dev.body.poolFree n i m)) :=
  State.live_withBody (by simp only [hn, hi, h.known, decide_true, Bool.and_true]) h.runs (Dev.put_poolFree hn hi h)

end

/-! A pool's registers and buffers under the operations that its commands are made of. -/

namespace Body

variable (b : Body) (n : Nat)

theorem rd_mod (p : Nat) (f : Fld) : b.rd p f % 2 ^ f.width = b.rd p f := Nat.mod_eq_of_lt (b.rd_lt p f 0 0)

theorem rd_sat_self (p : Nat) (f : Fld) : (b.sat p f).rd p f = min (b.rd p f + 1) (2 ^ f.width - 1) := by
  have := Nat.two_pow_pos f.width
  rw [sat, rd_wr_self, Nat.mod_eq_of_lt (by omega)]

theorem pool_sat {f g : Fld} (h : f.lo < 32 ∧ g.lo < 32 ∧ f.off < 0x1000 ∧ g.off < 0x1000 ∧ (f.off ≠ g.off ∨ f.lo ≠ g.lo)) :
    (b.sat (Pg.pool n) f).rd (Pg.pool n) g = b.rd (Pg.pool n) g := pool_wr h

theorem pool_fault {e : Nat} {x : FltInfo} {g : Fld} (he : e < 32) (hg : g.lo < 32 ∧ g.off ≠ 0x40) :
    (b.fault (Pg.pool n) e x).rd (Pg.pool n) g = b.rd (Pg.pool n) g :=
  b.rd_fault x he hg.1 (.inl (by simp only [Fld.addr]; omega))

/-- An event of Rimstone changes no register of a pool. -/
theorem pool_lose {l : Nat} {g : Fld} (hg : g.lo < 32) : (b.lose l 1).rd (Pg.pool n) g = b.rd (Pg.pool n) g := by
  have hfar : ∀ a < 0xF00000, g.addr (Pg.pool n) 0 0 ≠ a := fun a ha => by
    have := (Pg.pool_page n).1
    simp only [Fld.addr]
    omega
  unfold lose
  dsimp only
  rw [rd_fire _ (by decide) hg (.inl (hfar _ (by decide))) (hfar _ (by decide)) (hfar _ (by decide)) (hfar _ (by decide))]
  rfl

variable {b n} {c : Body} {ps : List Nat} {f : Fld}

theorem Keeps.poolWr {v : Nat} (h : Keeps ps b c) (hf : f.lo < 32 ∧ f.off < 0x1000) (hp : Pg.pool n ∈ ps) :
    Keeps ps b (c.wr (Pg.pool n) f v) := h.wr hf.1 (by rwa [pool_in n f hf.2])

theorem Keeps.poolSat (h : Keeps ps b c) (hf : f.lo < 32 ∧ f.off < 0x1000) (hp : Pg.pool n ∈ ps) :
    Keeps ps b (c.sat (Pg.pool n) f) := h.poolWr hf hp

theorem Keeps.poolFault {e : Nat} {x : FltInfo} (h : Keeps ps b c) (he : e < 32) (hp : Pg.pool n ∈ ps) :
    Keeps ps b (c.fault (Pg.pool n) e x) := h.fault he (Pg.pool_page n).2 hp

theorem Keeps.lose {l : Nat} (h : Keeps ps b c) (hp : Pg.rim ∈ ps) : Keeps ps b (c.lose l 1) := by
  have hled : Keeps ps b { c.ledOut l 1 with rim := { (c.ledOut l 1).rim with
      lost := Sp.set 0 (c.ledOut l 1).rim.lost l ((Sp.get 0 (c.ledOut l 1).rim.lost l + 1) % 2 ^ 64) } } :=
    h.of_eq rfl rfl rfl rfl
  exact hled.fire (by decide) (by decide) hp

theorem Keeps.ledOut {l k : Nat} (h : Keeps ps b c) : Keeps ps b (c.ledOut l k) := h.of_eq rfl rfl rfl rfl

@[simp] theorem allocOf_setAlloc (l : List Nat) : (b.setAlloc n l).allocOf n = l := Sp.get_set_self ..

@[simp] theorem allocOf_wr (k p v : Nat) : (b.wr p f v).allocOf k = b.allocOf k := rfl

/-! Enabling and disabling (R228). -/

theorem poolOn_iff : b.poolOn n = true ↔ b.rd (Pg.pool n) R.PG_EN = 1 := by simp [poolOn, on]

theorem poolEnable_on (hon : b.rd (Pg.pool n) R.PG_EN = 1) : b.poolEnable n = b :=
  if_pos (poolOn_iff.2 hon)

theorem poolEnable_invalid (hoff : b.rd (Pg.pool n) R.PG_EN = 0) (hv : b.poolValid n = false) :
    b.poolEnable n = b.fire (Pg.pool n) R.POOL_EVT_BADCFG := by
  simp [poolEnable, poolOn_iff, hoff, hv]

/-- The body with every buffer of a pool free and in service. -/
def poolCleared (b : Body) (n : Nat) : Body :=
  { b.setAlloc n [] with
    buf := { (b.setAlloc n []).buf with
      dead := Sp.del b.buf.dead n, bitBad := b.buf.bitBad.filter (fun x => x.1 != n), minClr := b.buf.minClr.erase n } }

theorem poolEnable_valid (hoff : b.rd (Pg.pool n) R.PG_EN = 0) (hv : b.poolValid n = true) :
    b.poolEnable n =
      ((((b.poolCleared n).wr (Pg.pool n) R.PG_EN 1).wr (Pg.pool n) R.POOL_FREE_CNT (b.rd (Pg.pool n) R.POOL_COUNT)).wr
        (Pg.pool n) R.POOL_MIN (b.rd (Pg.pool n) R.POOL_COUNT)).wr (Pg.pool n) R.POOL_LOST 0 := by
  unfold poolEnable
  rw [if_neg (by simp [poolOn_iff, hoff]), if_neg (by simp [hv])]
  rfl

/-- What enabling a valid pool leaves: the pool is on, and its free buffers are as many as it has. -/
theorem poolEnable_valid_spec (hoff : b.rd (Pg.pool n) R.PG_EN = 0) (hv : b.poolValid n = true) :
    (b.poolEnable n).rd (Pg.pool n) R.PG_EN = 1 ∧
    (b.poolEnable n).rd (Pg.pool n) R.POOL_FREE_CNT = b.rd (Pg.pool n) R.POOL_COUNT ∧
    (b.poolEnable n).rd (Pg.pool n) R.POOL_MIN = b.rd (Pg.pool n) R.POOL_COUNT ∧
    (b.poolEnable n).allocOf n = [] ∧ Keeps [Pg.pool n] b (b.poolEnable n) := by
  have hcleared : Keeps [Pg.pool n] b (b.poolCleared n) := (Keeps.refl b).of_eq rfl rfl rfl rfl
  rw [poolEnable_valid hoff hv]
  refine ⟨?_, ?_, ?_, allocOf_setAlloc [], ?_⟩
  · rw [pool_wr (by decide), pool_wr (by decide), pool_wr (by decide), rd_wr_self]
    rfl
  · rw [pool_wr (by decide), pool_wr (by decide), rd_wr_self]
    exact b.rd_mod _ R.POOL_COUNT
  · rw [pool_wr (by decide), rd_wr_self]
    exact b.rd_mod _ R.POOL_COUNT
  · exact (((hcleared.poolWr (by decide) (by simp)).poolWr (by decide) (by simp)).poolWr (by decide) (by simp)).poolWr (by decide)
      (by simp)

theorem poolDisable_off (hoff : b.rd (Pg.pool n) R.PG_EN = 0) : b.poolDisable n = b :=
  if_pos (by simp [poolOn_iff, hoff])

theorem poolDisable_busy (hon : b.rd (Pg.pool n) R.PG_EN = 1) (hused : b.allocOf n ≠ []) :
    b.poolDisable n = b.fire (Pg.pool n) R.POOL_EVT_BADCFG := by
  simp [poolDisable, poolOn_iff, hon, hused]

theorem poolDisable_free (hon : b.rd (Pg.pool n) R.PG_EN = 1) (hfree : b.allocOf n = []) :
    b.poolDisable n = b.wr (Pg.pool n) R.PG_EN 0 := by
  simp [poolDisable, poolOn_iff, hon, hfree]

/-! The register port (R224, R225). -/

theorem poolAllocGo_takes {k : Nat} (hfor : b.poolFor 5 (b.rd (Pg.pool n) R.POOL_MEM) (b.poolSize n) = some k)
    (hfree : b.rd (Pg.pool k) R.POOL_FREE_CNT ≠ 0) :
    b.poolAllocGo n = (((b.poolTake k).2.wr (Pg.pool n) R.POOL_ALLOC_RC 0).wr (Pg.pool n) R.POOL_ALLOC_IDX (b.poolTake k).1).wr
      (Pg.pool n) R.POOL_ALLOC_POOL k := by
  simp [poolAllocGo, poolReq, prd', hfor, hfree]

/-- What a request that a pool serves leaves: one buffer, free before, is allocated, and the port shows it. -/
theorem poolAllocGo_takes_spec {k : Nat} (hfor : b.poolFor 5 (b.rd (Pg.pool n) R.POOL_MEM) (b.poolSize n) = some k)
    (hfree : b.rd (Pg.pool k) R.POOL_FREE_CNT ≠ 0) (hrise : (b.allocOf k).Pairwise (· < ·)) :
    (b.poolAllocGo n).rd (Pg.pool n) R.POOL_ALLOC_RC = 0 ∧ (b.poolAllocGo n).rd (Pg.pool n) R.POOL_ALLOC_POOL = k ∧
    (b.poolAllocGo n).rd (Pg.pool n) R.POOL_ALLOC_IDX = (b.poolTake k).1 % 2 ^ 28 ∧ (b.poolTake k).1 ∉ b.allocOf k ∧
    (b.poolAllocGo n).allocOf k = insertNat (b.poolTake k).1 (b.allocOf k) ∧
    (b.poolAllocGo n).rd (Pg.pool k) R.POOL_FREE_CNT = b.rd (Pg.pool k) R.POOL_FREE_CNT - 1 ∧
    Keeps [Pg.pool n, Pg.pool k] b (b.poolAllocGo n) := by
  obtain ⟨hnew, halloc, hcnt, hkeeps⟩ := poolTake_spec b k hrise
  have hpages : Keeps [Pg.pool n, Pg.pool k] b (b.poolTake k).2 := hkeeps.mono (by simp)
  rw [poolAllocGo_takes hfor hfree]
  refine ⟨?_, ?_, ?_, hnew, by simpa using halloc, ?_, ?_⟩
  · rw [pool_wr (by decide), pool_wr (by decide), rd_wr_self]
    rfl
  · rw [rd_wr_self]
    exact Nat.mod_eq_of_lt (poolFor_lt hfor)
  · rw [pool_wr (by decide), rd_wr_self, show R.POOL_ALLOC_IDX.width = 28 from rfl]
  · rw [pool_wr (by decide), pool_wr (by decide), pool_wr (by decide), hcnt]
  · exact ((hpages.poolWr (by decide) (by simp)).poolWr (by decide) (by simp)).poolWr (by decide) (by simp)

theorem poolAllocGo_empty {k : Nat} (hfor : b.poolFor 5 (b.rd (Pg.pool n) R.POOL_MEM) (b.poolSize n) = some k)
    (hfree : b.rd (Pg.pool k) R.POOL_FREE_CNT = 0) :
    b.poolAllocGo n = (b.sat (Pg.pool k) R.POOL_FAIL).wr (Pg.pool n) R.POOL_ALLOC_RC 1 := by
  simp [poolAllocGo, poolReq, prd', hfor, hfree]

theorem poolAllocGo_noPool (hfor : b.poolFor 5 (b.rd (Pg.pool n) R.POOL_MEM) (b.poolSize n) = none) :
    b.poolAllocGo n = b.wr (Pg.pool n) R.POOL_ALLOC_RC 2 := by
  simp [poolAllocGo, poolReq, prd', hfor]

/-! A buffer freed (R227), by the cases of the rule. -/

variable {i m : Nat}

theorem poolFree_badIndex (hi : b.rd (Pg.pool n) R.POOL_COUNT ≤ i) : b.poolFree n i m = b.sat (Pg.pool n) R.POOL_BADIDX :=
  if_pos hi

theorem poolFree_allocated (hi : i < b.rd (Pg.pool n) R.POOL_COUNT) (hgood : (n, i) ∉ b.buf.bitBad) (ha : i ∈ b.allocOf n) :
    b.poolFree n i m =
      (((b.setAlloc n ((b.allocOf n).erase i)).wr (Pg.pool n) R.POOL_FREE_CNT (b.rd (Pg.pool n) R.POOL_FREE_CNT + 1)).minNote n
        (b.rd (Pg.pool n) R.POOL_FREE_CNT) (b.rd (Pg.pool n) R.POOL_FREE_CNT + 1)).ledOut (ledPool n) 1 := by
  unfold poolFree
  dsimp only
  rw [if_neg (by simpa [prd'] using hi), if_neg (by simpa using hgood), if_neg (by simpa using ha)]
  rfl

/-- What a freed buffer leaves: it is allocated no more, and one more is free. -/
theorem poolFree_allocated_spec (hi : i < b.rd (Pg.pool n) R.POOL_COUNT) (hgood : (n, i) ∉ b.buf.bitBad) (ha : i ∈ b.allocOf n) :
    (b.poolFree n i m).allocOf n = (b.allocOf n).erase i ∧
    (b.poolFree n i m).rd (Pg.pool n) R.POOL_FREE_CNT = (b.rd (Pg.pool n) R.POOL_FREE_CNT + 1) % 2 ^ 28 ∧
    Keeps [Pg.pool n] b (b.poolFree n i m) := by
  have htaken : Keeps [Pg.pool n] b (b.setAlloc n ((b.allocOf n).erase i)) := (Keeps.refl b).of_eq rfl rfl rfl rfl
  rw [poolFree_allocated hi hgood ha]
  refine ⟨allocOf_setAlloc _, ?_, ?_⟩
  · rw [ledOut_rd, minNote_rd _ _ _ _ _ (by decide), rd_wr_self]
    rfl
  · exact (htaken.poolWr (f := R.POOL_FREE_CNT) (by decide) (by simp)).minNote.ledOut

theorem poolFree_double (hi : i < b.rd (Pg.pool n) R.POOL_COUNT) (hgood : (n, i) ∉ b.buf.bitBad) (ha : i ∉ b.allocOf n) :
    b.poolFree n i m = (b.sat (Pg.pool n) R.POOL_DFREE).fault (Pg.pool n) R.POOL_FLT_DFREE
      { space := 10, addr := i, master := m, detail := n } := by
  unfold poolFree
  dsimp only
  rw [if_neg (by simpa [prd'] using hi), if_neg (by simpa using hgood), if_pos (by simpa using ha)]

/-- What a double free leaves: its count and its fault, reported where the fault is enabled. -/
theorem poolFree_double_spec (hi : i < b.rd (Pg.pool n) R.POOL_COUNT) (hgood : (n, i) ∉ b.buf.bitBad) (ha : i ∉ b.allocOf n) :
    (b.poolFree n i m).buf = b.buf ∧ (b.poolFree n i m).rd (Pg.pool n) (fltStat R.POOL_FLT_DFREE) = 1 ∧
    (b.poolFree n i m).rd (Pg.pool n) R.POOL_DFREE = min (b.rd (Pg.pool n) R.POOL_DFREE + 1) (2 ^ 32 - 1) ∧
    Keeps [Pg.pool n] b (b.poolFree n i m) ∧
    (b.rd (Pg.pool n) (fltEn R.POOL_FLT_DFREE) = 1 → ∃ r ∈ (b.poolFree n i m).irq.reports,
      r.page = Pg.pool n ∧ r.bit = R.POOL_FLT_DFREE ∧ r.info.master = m ∧ r.info.addr = i) := by
  rw [poolFree_double hi hgood ha]
  refine ⟨by simp, fault_stat _ _ _ _, ?_, ((Keeps.refl b).poolSat (by decide) (by simp)).poolFault (by decide) (by simp), fun hen => ?_⟩
  · rw [pool_fault _ _ (by decide) (by decide), rd_sat_self]
    rfl
  · have hon : (b.sat (Pg.pool n) R.POOL_DFREE).on (Pg.pool n) (fltEn R.POOL_FLT_DFREE) = true := by
      rw [on, pool_sat _ _ (by decide), hen]
      rfl
    rw [fault_report _ _ (by decide) (Pg.pool_page n).2 hon]
    exact ⟨_, List.mem_append_right _ List.mem_cons_self, rfl, rfl, rfl, rfl⟩

/-- The body with a buffer of a pool out of service. -/
def poolRetired (b : Body) (n i : Nat) : Body :=
  ({ b with buf := { b.buf with
      bitBad := b.buf.bitBad.erase (n, i), dead := Sp.set [] b.buf.dead n (insertNat i (b.deadOf n)) } }).setAlloc n
    ((b.allocOf n).erase i)

theorem poolFree_lost (hi : i < b.rd (Pg.pool n) R.POOL_COUNT) (hbad : (n, i) ∈ b.buf.bitBad) :
    b.poolFree n i m = (((b.poolRetired n i).sat (Pg.pool n) R.POOL_LOST).lose (ledPool n) 1).fault (Pg.pool n) R.POOL_FLT_STATE_ECC
      { space := 10, addr := i, master := m, detail := n, inj := true } := by
  unfold poolFree
  dsimp only
  rw [if_neg (by simpa [prd'] using hi), if_pos (by simpa using hbad)]
  rfl

/-- What the free of a buffer whose state bit is lost leaves: the buffer is out of service, counted and reported. -/
theorem poolFree_lost_spec (hi : i < b.rd (Pg.pool n) R.POOL_COUNT) (hbad : (n, i) ∈ b.buf.bitBad) (hnodup : (b.allocOf n).Nodup) :
    (b.poolFree n i m).rd (Pg.pool n) (fltStat R.POOL_FLT_STATE_ECC) = 1 ∧
    i ∈ (b.poolFree n i m).deadOf n ∧ i ∉ (b.poolFree n i m).allocOf n ∧
    (b.poolFree n i m).rd (Pg.pool n) R.POOL_FREE_CNT = b.rd (Pg.pool n) R.POOL_FREE_CNT ∧
    (b.poolFree n i m).rd (Pg.pool n) R.POOL_LOST = min (b.rd (Pg.pool n) R.POOL_LOST + 1) (2 ^ 28 - 1) ∧
    Keeps [Pg.pool n, Pg.rim] b (b.poolFree n i m) := by
  have hretired : Keeps [Pg.pool n, Pg.rim] b (b.poolRetired n i) := (Keeps.refl b).of_eq rfl rfl rfl rfl
  have hdead : (b.poolRetired n i).deadOf n = insertNat i (b.deadOf n) := Sp.get_set_self ..
  have halloc : (b.poolRetired n i).allocOf n = (b.allocOf n).erase i := allocOf_setAlloc _
  have hbuf : (b.poolFree n i m).buf = (b.poolRetired n i).buf := by rw [poolFree_lost hi hbad]; simp
  refine ⟨?_, ?_, ?_, ?_, ?_, ?_⟩
  · rw [poolFree_lost hi hbad, fault_stat]
  · rw [deadOf, hbuf, ← deadOf, hdead, mem_insertNat]
    exact .inl rfl
  · rw [allocOf, hbuf, ← allocOf, halloc]
    exact hnodup.not_mem_erase
  · rw [poolFree_lost hi hbad, pool_fault _ _ (by decide) (by decide), pool_lose _ _ (by decide), pool_sat _ _ (by decide)]
    rfl
  · rw [poolFree_lost hi hbad, pool_fault _ _ (by decide) (by decide), pool_lose _ _ (by decide), rd_sat_self]
    rfl
  · rw [poolFree_lost hi hbad]
    exact ((hretired.poolSat (by decide) (by simp)).lose (by simp)).poolFault (by decide) (by simp)

end Body

end Sys2Proof.Machine

namespace Sys2Proof

open Machine

/-- Settles O18: each clause is one case of the Pool manager's operation, as the state after the command shows it. -/
theorem poolCommands : Obligations.PoolCommands := by
  intro n m s hn
  dsimp only
  refine ⟨fun h => ⟨fun hoff hv => ?_, fun hoff hv => ?_, fun hon => ?_, fun hoff => ?_, fun hon hfree => ?_, fun hon hused => ?_⟩,
    fun h => ⟨fun k hfor hfree hrise => ?_, fun k hfor hfree => ?_, fun hfor => ?_⟩,
    fun i h hi hgood => ⟨fun hlt ha => ?_, fun hlt ha => ?_, fun hge => ?_⟩,
    fun i h hi hbad hlt hnodup => ?_⟩
  · obtain ⟨hen, hcnt, hmin, halloc, hkeeps⟩ := Body.poolEnable_valid_spec hoff hv
    exact ⟨_, exec_poolEnable hn h, State.withBody_poolReg hen, State.withBody_poolReg hcnt,
      State.withBody_poolReg hmin, State.withBody_allocOf.trans halloc, State.withBody_keeps hkeeps⟩
  · refine ⟨_, exec_poolEnable hn h, ?_⟩
    obtain ⟨hen, hevt, -, hkeeps⟩ := State.withBody_badCfg hoff
    exact Body.poolEnable_invalid hoff hv ▸ ⟨hen, hevt, hkeeps⟩
  · rw [exec_poolEnable hn h, Body.poolEnable_on hon, State.withBody_self]
  · rw [exec_poolDisable hn h, Body.poolDisable_off hoff, State.withBody_self]
  · refine ⟨_, exec_poolDisable hn h, ?_⟩
    rw [Body.poolDisable_free hon hfree]
    exact ⟨State.withBody_poolReg (Body.rd_wr_self ..), State.withBody_keeps ((Body.Keeps.refl _).poolWr (by decide) (by simp))⟩
  · refine ⟨_, exec_poolDisable hn h, ?_⟩
    exact Body.poolDisable_busy hon hused ▸ State.withBody_badCfg hon
  · obtain ⟨hrc, hpool, hidx, hnew, halloc, hcnt, hkeeps⟩ := Body.poolAllocGo_takes_spec hfor hfree hrise
    refine ⟨_, _, exec_poolAlloc hn h, State.withBody_poolReg hrc, State.withBody_poolReg hpool,
      State.withBody_poolReg hidx, hnew, ?_, fun j hj => ?_, State.withBody_poolReg hcnt,
      State.withBody_keeps hkeeps⟩
    · rw [State.withBody_allocOf, halloc, mem_insertNat]
      exact .inl rfl
    · rw [State.withBody_allocOf, halloc, mem_insertNat, or_iff_right hj]
  · refine ⟨_, exec_poolAlloc hn h, ?_⟩
    rw [Body.poolAllocGo_empty hfor hfree]
    exact ⟨State.withBody_poolReg (Body.rd_wr_self ..), by simp,
      State.withBody_keeps (((Body.Keeps.refl _).poolSat (by decide) (by simp)).poolWr (by decide) (by simp))⟩
  · refine ⟨_, exec_poolAlloc hn h, ?_⟩
    rw [Body.poolAllocGo_noPool hfor]
    exact ⟨State.withBody_poolReg (Body.rd_wr_self ..), by simp,
      State.withBody_keeps ((Body.Keeps.refl _).poolWr (by decide) (by simp))⟩
  · obtain ⟨halloc, hcnt, hkeeps⟩ := Body.poolFree_allocated_spec hlt hgood ha
    exact ⟨_, exec_poolFree hn hi h, State.withBody_allocOf.trans halloc, State.withBody_poolReg hcnt,
      State.withBody_keeps hkeeps⟩
  · obtain ⟨hbuf, hflt, hcnt, hkeeps, hreport⟩ := Body.poolFree_double_spec hlt hgood ha
    refine ⟨_, exec_poolFree hn hi h, State.withBody_buf.trans hbuf, State.withBody_poolReg hflt,
      State.withBody_poolReg hcnt, State.withBody_keeps hkeeps, fun hen => ?_⟩
    rw [State.withBody_reports]
    exact hreport hen
  · refine ⟨_, exec_poolFree hn hi h, ?_⟩
    rw [Body.poolFree_badIndex hge]
    exact ⟨by simp, State.withBody_poolReg (Body.rd_sat_self ..),
      State.withBody_keeps ((Body.Keeps.refl _).poolSat (by decide) (by simp))⟩
  · obtain ⟨hflt, hdead, halloc, hcnt, hlost, hkeeps⟩ := Body.poolFree_lost_spec hlt hbad hnodup
    exact ⟨_, exec_poolFree hn hi h, State.withBody_poolReg hflt, State.withBody_deadOf.symm ▸ hdead,
      State.withBody_allocOf.symm ▸ halloc, State.withBody_poolReg hcnt, State.withBody_poolReg hlost,
      State.withBody_keeps hkeeps⟩

end Sys2Proof
end

section
/-! O52: the states of a ring (R423, R425 to R429, R431, R444). The first part says what a reader of a ring's page sees after each basic
operation, the second what the operations on a ring do (write-back, publication, stop, fetch, notification), the third which body each
command leaves, and the last puts the clauses together. -/

namespace Sys2Proof.Machine

/-! The pages of the rings, and bytes read back. -/

theorem Pg.ring_page (n : Nat) : 0xE10000 ≤ Pg.ring n ∧ Pg.ring n % 0x1000 = 0 := by unfold Pg.ring; omega

/-- The number of the ring whose page an address lies in. -/
theorem ring_number {n off : Nat} (ho : off < 0x1000) : (Pg.ring n + off) / 0x1000 - 0xE10 = n := by unfold Pg.ring; omega

theorem ring_in (n : Nat) {f : Fld} (hf : f.off < 0x1000) : pageOf (f.addr (Pg.ring n) 0 0) = Pg.ring n := by
  have := (Pg.ring_page n).2
  simp only [pageOf, Fld.addr]
  omega

/-- Bytes written are read back. -/
theorem Mem.read_write (m : List Host.Cell) (a : Nat) (l : List Byte) : Mem.read (Mem.write m a l) a l.length = l := by
  refine List.ext_getElem (by simp [Mem.read]) fun i hi hl => ?_
  simp [Mem.read, Mem.get_write, hl]

namespace Body

variable {b : Body} {n v : Nat} {f g : Fld}

/-! A ring's register, what it holds beside its page, and its counters under the basic operations. -/

theorem rrd_rwr_self : (b.rwr n f v).rrd n f = v % 2 ^ f.width := b.rd_wr_self ..

theorem rrd_mod (b : Body) (n : Nat) (f : Fld) : b.rrd n f % 2 ^ f.width = b.rrd n f := b.rd_mod ..

theorem rrd_rwr (h : f.lo < 32 ∧ g.lo < 32 ∧ (f.off ≠ g.off ∨ f.lo ≠ g.lo)) : (b.rwr n f v).rrd n g = b.rrd n g := b.rd_wr_other h

theorem rrd_fire {e : Nat} (he : e < 32) (hg : g.lo < 32 ∧ g.off ≠ 0x20 ∧ g.off ≠ 0x30) :
    (b.fire (Pg.ring n) e).rrd n g = b.rrd n g := by
  have := Pg.ring_page n
  refine b.rd_fire he hg.1 (.inl ?_) ?_ ?_ ?_ <;> simp only [Fld.addr] <;> omega

theorem rrd_fire_pend {e : Nat} (he : e < 32) : (b.fire (Pg.ring n) e).rrd n (evtPend e) = 1 := b.fire_pend he (Pg.ring_page n).2

theorem rrd_fault {e : Nat} {x : FltInfo} (he : e < 32) (hg : g.lo < 32 ∧ g.off ≠ 0x40) :
    (b.fault (Pg.ring n) e x).rrd n g = b.rrd n g :=
  b.rd_fault x he hg.1 (.inl (by simp only [Fld.addr]; omega))

@[simp] theorem rwr_rest : (b.rwr n f v).host = b.host ∧ (b.rwr n f v).ctrs = b.ctrs ∧ (b.rwr n f v).mem = b.mem := ⟨rfl, rfl, rfl⟩

@[simp] theorem rrd_setRun (x : RingRun) : (b.setRun n x).rrd n g = b.rrd n g := rfl

@[simp] theorem run_setRun (x : RingRun) : (b.setRun n x).run n = x := Sp.get_set_self ..

@[simp] theorem rrd_count (p i k : Nat) : (b.count p i k).rrd n g = b.rrd n g := b.count_rd ..

theorem run_of_host {c : Body} (h : c.host = b.host) : c.run n = b.run n := by rw [run, run, h]

theorem fire_host (p e : Nat) : (b.fire p e).host = b.host := by simp

theorem fire_out (p e : Nat) : (b.fire p e).out = b.out := by simp

@[simp] theorem run_fire (p e : Nat) : (b.fire p e).run n = b.run n := run_of_host (fire_host p e)

theorem ctr_of_ctrs {c : Body} (h : c.ctrs = b.ctrs) (p i : Nat) : c.ctr p i = b.ctr p i := by rw [ctr, ctr, h]

/-- A counter of a page after another of its counters moves. -/
theorem ctr_count_ne {p i j k : Nat} (hi : i < 0x1000) (hj : j < 0x1000) (h : j ≠ i) : (b.count p i k).ctr p j = b.ctr p j := by
  rw [ctr_count _ _ _ _ _ _ hi hj, if_neg fun e => h e.2]

theorem ctr_count_self {p i k : Nat} (hi : i < 0x1000) : (b.count p i k).ctr p i = (b.ctr p i + k) % 2 ^ 64 := by
  rw [ctr_count _ _ _ _ _ _ hi hi, if_pos ⟨rfl, rfl⟩]

theorem ctr_rwr (p i : Nat) : (b.rwr n f v).ctr p i = b.ctr p i := rfl

/-- A ring's registers do not say whether the engine reaches host memory. -/
theorem dmaOk_rwr (hf : f.lo < 32) : (b.rwr n f v).dmaOk = b.dmaOk := by
  have hne : ∀ h : Fld, h.lo < 32 → h.off < 0x1000 → (b.rwr n f v).rd Pg.hif h = b.rd Pg.hif h := fun h hlo hoff =>
    b.rd_wr_ne v hf hlo (.inl (by have := (Pg.ring_page n).1; simp only [Fld.addr, Pg.hif]; omega))
  simp only [dmaOk, on, hne R.HIF_LINK_UP (by decide) (by decide), hne R.HIF_BME (by decide) (by decide), rwr_rest]

theorem Keeps.rwr {ps : List Nat} {c : Body} (h : Keeps ps b c) (hf : f.lo < 32 ∧ f.off < 0x1000) (hp : Pg.ring n ∈ ps) :
    Keeps ps b (c.rwr n f v) := h.wr hf.1 (by rwa [ring_in n hf.2])

theorem Keeps.setRun {ps : List Nat} {c : Body} {x : RingRun} (h : Keeps ps b c) : Keeps ps b (c.setRun n x) :=
  h.of_eq rfl rfl rfl rfl

theorem Keeps.ringFire {ps : List Nat} {c : Body} {e : Nat} (h : Keeps ps b c) (he : e < 32) (hp : Pg.ring n ∈ ps) :
    Keeps ps b (c.fire (Pg.ring n) e) := h.fire he (Pg.ring_page n).2 hp

/-! The write-back (R426): it changes host memory alone. -/

/-- Where a ring's write-back goes. -/
def wbAddr (b : Body) (n : Nat) : Nat := b.rrd n R.RING_WB_LO + 2 ^ 32 * b.rrd n R.RING_WB_HI

theorem wbAddr_lt (b : Body) (n : Nat) : b.wbAddr n < 2 ^ 64 := by
  have hlo : b.rrd n R.RING_WB_LO < 2 ^ 32 := b.rd_lt ..
  have hhi : b.rrd n R.RING_WB_HI < 2 ^ 32 := b.rd_lt ..
  unfold wbAddr
  omega

theorem ringWb_regs (b : Body) (n : Nat) : (b.ringWb n).regs = b.regs := by
  unfold ringWb
  split_ifs <;> rfl

theorem ringWb_ctrs (b : Body) (n : Nat) : (b.ringWb n).ctrs = b.ctrs := by
  unfold ringWb
  split_ifs <;> rfl

theorem ringWb_host (b : Body) (n : Nat) : (b.ringWb n).host = b.host := by
  unfold ringWb
  split_ifs <;> rfl

@[simp] theorem rrd_ringWb : (b.ringWb n).rrd n g = b.rrd n g := by simp only [rrd, rd, ringWb_regs]

@[simp] theorem run_ringWb : (b.ringWb n).run n = b.run n := run_of_host (b.ringWb_host n)

@[simp] theorem ctr_ringWb (p i : Nat) : (b.ringWb n).ctr p i = b.ctr p i := ctr_of_ctrs (b.ringWb_ctrs n) p i

/-- What a write-back that is enabled and possible leaves in host memory. -/
theorem ringWb_read (hen : b.rrd n R.RING_WB_EN = 1) (hdma : b.dmaOk = true) :
    Mem.read (b.ringWb n).mem.host (b.wbAddr n) 8 =
      leBytes 4 (b.rrd n R.RING_CONS) ++ leBytes 2 (b.rrd n R.RING_RST_CNT) ++ leBytes 1 (b.rrd n R.RING_STATE) ++ [0] := by
  have hon : b.on (Pg.ring n) R.RING_WB_EN = true := beq_iff_eq.2 hen
  rw [ringWb, if_pos ⟨hon, hdma⟩, hostWrite, ← wbAddr, Nat.mod_eq_of_lt (b.wbAddr_lt n)]
  exact Mem.read_write ..

/-! Publication: RING_CONS passes the jobs that are done (R426). -/

/-- What publishing its first done job makes of a ring. -/
structure Published (b c : Body) (n : Nat) (j : Nat × Nat) (rest : List (Nat × Nat)) : Prop where
  cons : c.rrd n R.RING_CONS = (b.rrd n R.RING_CONS + j.1) % 2 ^ 32
  other : ∀ g : Fld, g.lo < 32 → g.off ≠ 0x98 → c.rrd n g = b.rrd n g
  run : c.run n = { b.run n with done := rest, note := (b.run n).note + 1 }
  jobs : c.ctr (Pg.ring n) RING_JOBS = (b.ctr (Pg.ring n) RING_JOBS + 1) % 2 ^ 64
  entries : c.ctr (Pg.ring n) RING_ENTRIES = (b.ctr (Pg.ring n) RING_ENTRIES + j.1) % 2 ^ 64
  bytes : c.ctr (Pg.ring n) RING_BYTES = (b.ctr (Pg.ring n) RING_BYTES + j.2) % 2 ^ 64
  errors : c.ctr (Pg.ring n) RING_PROTO_ERR = b.ctr (Pg.ring n) RING_PROTO_ERR
  dma : c.dmaOk = b.dmaOk

/-- The body with a ring's first done job taken off its list, and the time of the first completion not yet notified marked. -/
def jobTaken (b : Body) (n : Nat) (rest : List (Nat × Nat)) : Body :=
  (if (b.run n).note = 0 then b.mark (Mk.ring n) else b).setRun n { b.run n with done := rest, note := (b.run n).note + 1 }

theorem ringPublish_cons {j : Nat × Nat} {rest : List (Nat × Nat)} (h : (b.run n).done = j :: rest) :
    b.ringPublish n =
      ((((b.jobTaken n rest).rwr n R.RING_CONS ((b.jobTaken n rest).rrd n R.RING_CONS + j.1)).count (Pg.ring n) RING_JOBS).count
        (Pg.ring n) RING_ENTRIES j.1).count (Pg.ring n) RING_BYTES j.2 := by
  rw [ringPublish, h]
  rfl

theorem jobTaken_rest (b : Body) (n : Nat) (rest : List (Nat × Nat)) :
    (b.jobTaken n rest).regs = b.regs ∧ (b.jobTaken n rest).ctrs = b.ctrs ∧ (b.jobTaken n rest).dmaOk = b.dmaOk := by
  unfold jobTaken
  split_ifs <;> exact ⟨rfl, rfl, rfl⟩

theorem ringPublish_spec {j : Nat × Nat} {rest : List (Nat × Nat)} (h : (b.run n).done = j :: rest) :
    Published b (b.ringPublish n) n j rest := by
  obtain ⟨hregs, hctrs, hdma⟩ := b.jobTaken_rest n rest
  have hrrd : ∀ g, (b.jobTaken n rest).rrd n g = b.rrd n g := fun g => by simp only [rrd, rd, hregs]
  have hctr : ∀ i, (b.jobTaken n rest).ctr (Pg.ring n) i = b.ctr (Pg.ring n) i := ctr_of_ctrs hctrs (Pg.ring n)
  rw [ringPublish_cons h, hrrd]
  refine ⟨rrd_rwr_self, fun g hg ho => ?_, run_setRun _, ?_, ?_, ?_, ?_, (dmaOk_rwr (by decide)).trans hdma⟩
  · exact (rrd_rwr ⟨by decide, hg, .inl ho.symm⟩).trans (hrrd g)
  all_goals simp (disch := decide) only [ctr_count_self, ctr_count_ne, ctr_rwr, hctr]

/-- Every job of a ring that is done, published. -/
def publishAll (b : Body) (n : Nat) : Body := (b.run n).done.foldl (fun b _ => b.ringPublish n) b

/-- What publishing every done job leaves: RING_CONS stands at the front, and nothing waits to be published. -/
theorem publishAll_spec (b : Body) (n : Nat) :
    (b.publishAll n).rrd n R.RING_CONS = b.ringFront n ∧ ((b.publishAll n).run n).done = [] ∧
    (∀ g : Fld, g.lo < 32 → g.off ≠ 0x98 → (b.publishAll n).rrd n g = b.rrd n g) ∧
    (b.publishAll n).ctr (Pg.ring n) RING_PROTO_ERR = b.ctr (Pg.ring n) RING_PROTO_ERR := by
  have key : ∀ (l : List (Nat × Nat)) (b : Body), (b.run n).done = l →
      let c := l.foldl (fun b _ => b.ringPublish n) b
      c.rrd n R.RING_CONS = (b.rrd n R.RING_CONS + (l.map (·.1)).sum) % 2 ^ 32 ∧ (c.run n).done = [] ∧
      (∀ g : Fld, g.lo < 32 → g.off ≠ 0x98 → c.rrd n g = b.rrd n g) ∧
      c.ctr (Pg.ring n) RING_PROTO_ERR = b.ctr (Pg.ring n) RING_PROTO_ERR := by
    intro l
    induction l with
    | nil => exact fun b h => ⟨(b.rrd_mod n R.RING_CONS).symm, h, fun _ _ _ => rfl, rfl⟩
    | cons j rest ih =>
      intro b h
      have hp := ringPublish_spec h
      obtain ⟨hcons, hdone, hother, hctr⟩ := ih (b.ringPublish n) (by rw [hp.run])
      refine ⟨?_, hdone, fun g hg ho => (hother g hg ho).trans (hp.other g hg ho), hctr.trans hp.errors⟩
      rw [List.foldl_cons, hcons, hp.cons, Nat.mod_add_mod, List.map_cons, List.sum_cons, Nat.add_assoc]
  have h := key _ b rfl
  rwa [List.sum_eq_foldl_nat] at h

/-! A ring that stops (R425). -/

/-- What a stop makes of a ring: its state, the cause and the index shown, the event and the count. -/
structure Halted (b c : Body) (n st why idx : Nat) : Prop where
  state : c.rrd n R.RING_STATE = st % 2 ^ 4
  cause : c.rrd n R.RING_ERR = why % 2 ^ 4
  index : c.rrd n R.RING_ERR_IDX = idx % 2 ^ 32
  event : c.rrd n (evtPend R.RING_EVT_PROTO) = 1
  other : ∀ g : Fld, g.lo < 32 → g.off ∉ [0x20, 0x30, 0x9C, 0xA0] → c.rrd n g = b.rrd n g
  done : (c.run n).done = (b.run n).done
  note : (c.run n).note = (b.run n).note
  errors : c.ctr (Pg.ring n) RING_PROTO_ERR = (b.ctr (Pg.ring n) RING_PROTO_ERR + 1) % 2 ^ 64
  counts : ∀ i < 0x1000, i ≠ RING_PROTO_ERR → c.ctr (Pg.ring n) i = b.ctr (Pg.ring n) i

/-- The body with the state of a stopped ring, the cause and the index, and no job in execution. -/
def haltShown (b : Body) (n st cause idx : Nat) : Body :=
  let c := ((b.rwr n R.RING_STATE st).rwr n R.RING_ERR cause).rwr n R.RING_ERR_IDX idx
  c.setRun n { c.run n with idx := 0, failed := false, waiting := false, delayed := false }

theorem ringStop_eq (b : Body) (n st cause idx : Nat) :
    b.ringStop n st cause idx =
      (((b.haltShown n st cause idx).fire (Pg.ring n) R.RING_EVT_PROTO).count (Pg.ring n) RING_PROTO_ERR).ringWb n := rfl

theorem ringStop_spec (b : Body) (n st cause idx : Nat) : Halted b (b.ringStop n st cause idx) n st cause idx := by
  have hrrd : ∀ g : Fld, g.lo < 32 → g.off ≠ 0x20 → g.off ≠ 0x30 →
      (b.ringStop n st cause idx).rrd n g = (b.haltShown n st cause idx).rrd n g := fun g hg h1 h2 => by
    rw [ringStop_eq, rrd_ringWb, rrd_count, rrd_fire (by decide) ⟨hg, h1, h2⟩]
  have hrun : (b.ringStop n st cause idx).run n = (b.haltShown n st cause idx).run n := by
    rw [ringStop_eq, run_ringWb]
    exact run_fire ..
  have hctr : ∀ i, ((b.haltShown n st cause idx).fire (Pg.ring n) R.RING_EVT_PROTO).ctr (Pg.ring n) i = b.ctr (Pg.ring n) i :=
    fun i => fire_ctr ..
  refine ⟨?_, ?_, ?_, ?_, fun g hg ho => ?_, ?_, ?_, ?_, fun i hi hne => ?_⟩
  · simp (disch := decide) only [hrrd, haltShown, rrd_setRun, rrd_rwr, rrd_rwr_self]
    rfl
  · simp (disch := decide) only [hrrd, haltShown, rrd_setRun, rrd_rwr, rrd_rwr_self]
    rfl
  · simp (disch := decide) only [hrrd, haltShown, rrd_setRun, rrd_rwr_self]
    rfl
  · rw [ringStop_eq, rrd_ringWb, rrd_count, rrd_fire_pend (by decide)]
  · simp only [List.mem_cons, List.not_mem_nil, or_false, not_or] at ho
    obtain ⟨h1, h2, h3, h4⟩ := ho
    rw [hrrd g hg h1 h2, haltShown, rrd_setRun, rrd_rwr ⟨by decide, hg, .inl (Ne.symm h4)⟩,
      rrd_rwr ⟨by decide, hg, .inl (Ne.symm h3)⟩, rrd_rwr ⟨by decide, hg, .inl (Ne.symm h3)⟩]
  · rw [hrun, haltShown, run_setRun]
    rfl
  · rw [hrun, haltShown, run_setRun]
    rfl
  · rw [ringStop_eq, ctr_ringWb, ctr_count_self (by decide), hctr]
  · rw [ringStop_eq, ctr_ringWb, ctr_count_ne (by decide) hi hne, hctr]

/-- What a protocol error makes of a ring: it is in ERROR with the cause and the index, and every done job is published. -/
structure Errs (b c : Body) (n why idx : Nat) : Prop where
  state : c.rrd n R.RING_STATE = RING_ERROR
  cause : c.rrd n R.RING_ERR = why
  index : c.rrd n R.RING_ERR_IDX = idx
  event : c.rrd n (evtPend R.RING_EVT_PROTO) = 1
  errors : c.ctr (Pg.ring n) RING_PROTO_ERR = (b.ctr (Pg.ring n) RING_PROTO_ERR + 1) % 2 ^ 64
  cons : c.rrd n R.RING_CONS = b.ringFront n
  done : (c.run n).done = []
  fault : why = CAUSE_DMA → c.rrd n (fltStat R.RING_FLT_DMA) = 1

/-- The body with the fault that a DMA error raises. -/
def dmaFault (b : Body) (n cause : Nat) (x : FltInfo) : Body :=
  if cause = CAUSE_DMA then b.fault (Pg.ring n) R.RING_FLT_DMA x else b

theorem ringError_eq (b : Body) (n cause idx : Nat) (inj : Bool) :
    ∃ x, b.ringError n cause idx inj = ((b.publishAll n).dmaFault n cause x).ringStop n RING_ERROR cause idx := ⟨_, rfl⟩

theorem dmaFault_rest (b : Body) (n cause : Nat) (x : FltInfo) :
    (b.dmaFault n cause x).host = b.host ∧ (b.dmaFault n cause x).ctrs = b.ctrs ∧
    ∀ g : Fld, g.lo < 32 → g.off ≠ 0x40 → (b.dmaFault n cause x).rrd n g = b.rrd n g := by
  unfold dmaFault
  split_ifs
  · exact ⟨by simp, by simp, fun g hg ho => rrd_fault (by decide) ⟨hg, ho⟩⟩
  · exact ⟨rfl, rfl, fun _ _ _ => rfl⟩

/-- A protocol error leaves RING_PROD as it is. -/
theorem ringError_prod (b : Body) (n cause idx : Nat) (inj : Bool) :
    (b.ringError n cause idx inj).rrd n R.RING_PROD = b.rrd n R.RING_PROD := by
  obtain ⟨x, heq⟩ := b.ringError_eq n cause idx inj
  obtain ⟨-, -, hother, -⟩ := b.publishAll_spec n
  obtain ⟨-, -, hrrd⟩ := (b.publishAll n).dmaFault_rest n cause x
  rw [heq, (ringStop_spec ..).other _ (by decide) (by decide), hrrd _ (by decide) (by decide), hother _ (by decide) (by decide)]

theorem ringError_spec (b : Body) (n cause idx : Nat) (inj : Bool) (hc : cause < 16) (hi : idx < 2 ^ 32) :
    Errs b (b.ringError n cause idx inj) n cause idx := by
  obtain ⟨x, heq⟩ := b.ringError_eq n cause idx inj
  obtain ⟨hcons, hdone, -, herr⟩ := b.publishAll_spec n
  obtain ⟨hhost, hctrs, hrrd⟩ := (b.publishAll n).dmaFault_rest n cause x
  have hs := ((b.publishAll n).dmaFault n cause x).ringStop_spec n RING_ERROR cause idx
  rw [heq]
  refine ⟨hs.state, hs.cause.trans (Nat.mod_eq_of_lt hc), hs.index.trans (Nat.mod_eq_of_lt hi), hs.event, ?_, ?_, ?_, fun hdma => ?_⟩
  · rw [hs.errors, ctr_of_ctrs hctrs, herr]
  · rw [hs.other _ (by decide) (by decide), hrrd _ (by decide) (by decide), hcons]
  · rw [hs.done, run_of_host hhost, hdone]
  · rw [hs.other _ (by decide) (by decide), dmaFault, if_pos hdma]
    exact fault_stat _ _ _ _

/-- What a fetch leaves of a ring whose done jobs are all published: its indices, its jobs and its counts but that of protocol errors. -/
structure Rests (b c : Body) (n : Nat) : Prop where
  cons : c.rrd n R.RING_CONS = b.rrd n R.RING_CONS
  prod : c.rrd n R.RING_PROD = b.rrd n R.RING_PROD
  done : (c.run n).done = (b.run n).done
  note : (c.run n).note = (b.run n).note
  counts : ∀ i < 0x1000, i ≠ RING_PROTO_ERR → c.ctr (Pg.ring n) i = b.ctr (Pg.ring n) i

/-- A protocol error with no done job publishes nothing. -/
theorem ringError_rests (n cause idx : Nat) (inj : Bool) (h : (b.run n).done = []) : Rests b (b.ringError n cause idx inj) n := by
  obtain ⟨x, heq⟩ := b.ringError_eq n cause idx inj
  have hpub : b.publishAll n = b := by rw [publishAll, h, List.foldl_nil]
  rw [hpub] at heq
  obtain ⟨hhost, hctrs, hrrd⟩ := b.dmaFault_rest n cause x
  have hs := (b.dmaFault n cause x).ringStop_spec n RING_ERROR cause idx
  rw [heq]
  refine ⟨?_, ?_, ?_, ?_, fun i hi hne => ?_⟩
  · rw [hs.other _ (by decide) (by decide), hrrd _ (by decide) (by decide)]
  · rw [hs.other _ (by decide) (by decide), hrrd _ (by decide) (by decide)]
  · rw [hs.done, run_of_host hhost]
  · rw [hs.note, run_of_host hhost]
  · rw [hs.counts i hi hne, ctr_of_ctrs hctrs]

/-! The fetch (R424, R425, R444). -/

/-- The body with other armed errors. -/
def withArm (b : Body) (a : List (Nat × Nat)) : Body := { b with host := { b.host with arm := a } }

theorem ringRuns_iff {k : Nat} : b.ringRuns n k = true ↔ b.rrd n R.RING_STATE = RING_RUNNING ∧ b.rrd n R.RING_KIND = k := by
  simp [ringRuns]

theorem ringFront_lt (b : Body) (n : Nat) : b.ringFront n < 2 ^ 32 := Nat.mod_lt _ (by decide)

theorem ringFront_idle (h : (b.run n).done = []) : b.ringFront n = b.rrd n R.RING_CONS := by
  rw [ringFront, h, List.map_nil, List.foldl_nil, Nat.add_zero]
  exact b.rrd_mod n R.RING_CONS

/-- Only INJECT and TABLE_CMD rings fetch, and none where DMA is stopped. -/
theorem ringFetch_none (h : b.rrd n R.RING_KIND = KIND_PUNT ∨ b.rrd n R.RING_KIND = KIND_TEL ∨ b.dmaOk = false) :
    b.ringFetch n = b := by
  rw [ringFetch, if_pos]
  rcases h with h | h | h <;> simp [ringRuns, h, KIND_INJECT, KIND_CMD, KIND_PUNT, KIND_TEL]

/-- A fetch does nothing, or stops its ring with a protocol error. -/
theorem ringFetch_cases (b : Body) (n : Nat) :
    b.ringFetch n = b ∨ ∃ a cause idx inj, b.ringFetch n = (b.withArm a).ringError n cause idx inj := by
  rw [ringFetch]
  split_ifs
  · exact .inl rfl
  · cases b.host.arm.find? (fun e => e.1 == n) with
    | some e => exact .inr ⟨b.host.arm.erase e, CAUSE_DMA, b.ringFront n, true, rfl⟩
    | none =>
      cases b.jobAt n with
      | err cause idx => exact .inr ⟨b.host.arm, cause, idx, false, rfl⟩
      | wait => exact .inl rfl
      | job l => exact .inl rfl

/-- A fetch leaves RING_PROD as it is. -/
theorem ringFetch_prod (b : Body) (n : Nat) : (b.ringFetch n).rrd n R.RING_PROD = b.rrd n R.RING_PROD := by
  rcases b.ringFetch_cases n with hf | ⟨a, cause, idx, inj, hf⟩
  · rw [hf]
  · rw [hf]
    exact ringError_prod ..

theorem ringFetch_rests (h : b.rrd n R.RING_KIND = KIND_PUNT ∨ b.rrd n R.RING_KIND = KIND_TEL ∨ (b.run n).done = []) :
    Rests b (b.ringFetch n) n := by
  have hself : Rests b b n := ⟨rfl, rfl, rfl, rfl, fun _ _ _ => rfl⟩
  rcases h with h | h | h
  · rwa [ringFetch_none (.inl h)]
  · rwa [ringFetch_none (.inr (.inl h))]
  · rcases b.ringFetch_cases n with hf | ⟨a, cause, idx, inj, hf⟩
    · rwa [hf]
    · rw [hf]
      obtain ⟨hcons, hprod, hdone, hnote, hctr⟩ := ringError_rests (b := b.withArm a) n cause idx inj h
      exact ⟨hcons, hprod, hdone, hnote, hctr⟩

/-- The fetch of a ring for which an error is armed ends in that error. -/
theorem ringFetch_armed (hruns : b.rrd n R.RING_STATE = RING_RUNNING)
    (hkind : b.rrd n R.RING_KIND = KIND_INJECT ∨ b.rrd n R.RING_KIND = KIND_CMD) (hdma : b.dmaOk = true) (hidx : (b.run n).idx = 0)
    (hleft : b.ringLeft n ≠ 0) (harm : ∃ k, (n, k) ∈ b.host.arm) :
    ∃ a, b.ringFetch n = (b.withArm a).ringError n CAUSE_DMA (b.ringFront n) true := by
  have hrun : (b.ringRuns n KIND_INJECT || b.ringRuns n KIND_CMD) = true := by
    rw [Bool.or_eq_true, ringRuns_iff, ringRuns_iff]
    exact hkind.imp (⟨hruns, ·⟩) (⟨hruns, ·⟩)
  have hfind : ∃ e, b.host.arm.find? (fun e => e.1 == n) = some e := by
    obtain ⟨k, hk⟩ := harm
    exact Option.isSome_iff_exists.1 (List.find?_isSome.2 ⟨_, hk, beq_self_eq_true n⟩)
  obtain ⟨e, he⟩ := hfind
  rw [ringFetch, if_neg (by simp [hrun, hdma, hidx, hleft]), he]
  exact ⟨_, rfl⟩

/-! What the commands of a ring do, case by case. -/

/-- Subtraction modulo 2^32 of a value of 32 bits. -/
theorem wrapSub_eq {a c : Nat} (h : c < 2 ^ 32) : wrapSub 32 a c = (a + 2 ^ 32 - c) % 2 ^ 32 := by
  rw [wrapSub, Nat.mod_eq_of_lt h]

theorem ringDoorbell_stopped (h : b.rrd n R.RING_STATE ≠ RING_RUNNING) :
    b.ringDoorbell n v = b.fire (Pg.ring n) R.RING_EVT_BADCFG := if_pos h

theorem ringDoorbell_same (h : b.rrd n R.RING_STATE = RING_RUNNING) (hv : v = b.rrd n R.RING_PROD) : b.ringDoorbell n v = b := by
  rw [ringDoorbell, if_neg (not_not.2 h), if_pos hv]

theorem ringDmaError_stopped (h : b.rrd n R.RING_STATE ≠ RING_RUNNING) : b.ringDmaError n = b := if_pos h

theorem ringDmaError_running (h : b.rrd n R.RING_STATE = RING_RUNNING) :
    b.ringDmaError n = b.ringError n CAUSE_DMA (b.ringFront n) := if_neg (not_not.2 h)

/-- A doorbell within the ring's size (R423). -/
def bellFits (b : Body) (n v : Nat) : Prop :=
  (v + 2 ^ 32 - b.rrd n R.RING_PROD) % 2 ^ 32 ≤ 2 ^ b.rrd n R.RING_LOG2 ∧
  (v + 2 ^ 32 - b.rrd n R.RING_CONS) % 2 ^ 32 ≤ 2 ^ b.rrd n R.RING_LOG2

theorem ringDoorbell_moves (h : b.rrd n R.RING_STATE = RING_RUNNING) (hv : v ≠ b.rrd n R.RING_PROD) :
    (b.bellFits n v → b.ringDoorbell n v = (b.rwr n R.RING_PROD v).ringFetch n) ∧
    (¬ b.bellFits n v → b.ringDoorbell n v = b.ringError n CAUSE_DOORBELL v) := by
  have hfits : wrapSub 32 v (b.rrd n R.RING_PROD) ≤ b.ringSize n ∧ wrapSub 32 v (b.rrd n R.RING_CONS) ≤ b.ringSize n ↔
      b.bellFits n v := by
    rw [wrapSub_eq (b.rd_lt ..), wrapSub_eq (b.rd_lt ..)]
    rfl
  rw [ringDoorbell, if_neg (not_not.2 h), if_neg hv]
  exact ⟨fun hf => if_pos (hfits.2 hf), fun hf => if_neg (mt hfits.1 hf)⟩

/-- Entries stand between the front of an idle ring and a doorbell that moves it. -/
theorem ringLeft_bell (hdone : (b.run n).done = []) (hv : v < 2 ^ 32) (hne : v ≠ b.rrd n R.RING_CONS) :
    (b.rwr n R.RING_PROD v).ringLeft n ≠ 0 := by
  have hcons : b.rrd n R.RING_CONS < 2 ^ 32 := b.rd_lt ..
  have hfront : (b.rwr n R.RING_PROD v).ringFront n = b.rrd n R.RING_CONS := by
    rw [ringFront_idle (b := b.rwr n R.RING_PROD v) hdone, rrd_rwr (by decide)]
  rw [ringLeft, hfront, rrd_rwr_self, wrapSub_eq hcons, show R.RING_PROD.width = 32 from rfl]
  omega

theorem ringJobComplete_done {j : Nat × Nat} {rest : List (Nat × Nat)} (h : b.rrd n R.RING_STATE = RING_RUNNING)
    (hdone : (b.run n).done = j :: rest) (hdma : b.dmaOk = true) :
    b.ringJobComplete n = ((b.ringPublish n).ringWb n).ringFetch n := by
  simp [ringJobComplete, h, hdone, hdma]

/-- What completing a ring's first done job leaves, where the fetch that follows finds no other done job to publish. -/
theorem ringJobComplete_spec {j : Nat × Nat} {rest : List (Nat × Nat)} (h : b.rrd n R.RING_STATE = RING_RUNNING)
    (hdone : (b.run n).done = j :: rest) (hdma : b.dmaOk = true)
    (hlast : b.rrd n R.RING_KIND = KIND_PUNT ∨ b.rrd n R.RING_KIND = KIND_TEL ∨ rest = []) :
    let c := b.ringJobComplete n
    c.rrd n R.RING_CONS = (b.rrd n R.RING_CONS + j.1) % 2 ^ 32 ∧ c.rrd n R.RING_PROD = b.rrd n R.RING_PROD ∧
    (c.run n).done = rest ∧ (c.run n).note = (b.run n).note + 1 ∧
    c.ctr (Pg.ring n) RING_JOBS = (b.ctr (Pg.ring n) RING_JOBS + 1) % 2 ^ 64 ∧
    c.ctr (Pg.ring n) RING_ENTRIES = (b.ctr (Pg.ring n) RING_ENTRIES + j.1) % 2 ^ 64 ∧
    c.ctr (Pg.ring n) RING_BYTES = (b.ctr (Pg.ring n) RING_BYTES + j.2) % 2 ^ 64 := by
  have hp := ringPublish_spec hdone
  have hkind : (b.ringPublish n).rrd n R.RING_KIND = b.rrd n R.RING_KIND := hp.other _ (by decide) (by decide)
  have hr : Rests ((b.ringPublish n).ringWb n) (b.ringJobComplete n) n := by
    rw [ringJobComplete_done h hdone hdma]
    refine ringFetch_rests ?_
    rwa [rrd_ringWb, run_ringWb, hkind, hp.run]
  obtain ⟨hcons, hprod, hjobs, hnote, hctr⟩ := hr
  simp only [rrd_ringWb, run_ringWb, ctr_ringWb, hp.run] at hcons hprod hjobs hnote hctr
  refine ⟨hcons.trans hp.cons, hprod.trans (hp.other _ (by decide) (by decide)), hjobs, hnote, ?_, ?_, ?_⟩
  · rw [hctr _ (by decide) (by decide), hp.jobs]
  · rw [hctr _ (by decide) (by decide), hp.entries]
  · rw [hctr _ (by decide) (by decide), hp.bytes]

/-- The write-back of a completed job, where no fetch follows it. -/
theorem ringJobComplete_writeBack {j : Nat × Nat} {rest : List (Nat × Nat)} (h : b.rrd n R.RING_STATE = RING_RUNNING)
    (hdone : (b.run n).done = j :: rest) (hdma : b.dmaOk = true)
    (hkind : b.rrd n R.RING_KIND = KIND_PUNT ∨ b.rrd n R.RING_KIND = KIND_TEL) (hen : b.rrd n R.RING_WB_EN = 1) :
    Mem.read (b.ringJobComplete n).mem.host (b.wbAddr n) 8 =
      leBytes 4 ((b.rrd n R.RING_CONS + j.1) % 2 ^ 32) ++ leBytes 2 (b.rrd n R.RING_RST_CNT) ++ leBytes 1 RING_RUNNING ++ [0] := by
  have hp := ringPublish_spec hdone
  have hsame : ∀ g : Fld, g.lo < 32 → g.off ≠ 0x98 → (b.ringPublish n).rrd n g = b.rrd n g := hp.other
  have haddr : (b.ringPublish n).wbAddr n = b.wbAddr n := by
    rw [wbAddr, hsame _ (by decide) (by decide), hsame _ (by decide) (by decide), wbAddr]
  have hfetch : ((b.ringPublish n).ringWb n).ringFetch n = (b.ringPublish n).ringWb n := by
    refine ringFetch_none ?_
    rw [rrd_ringWb, hsame _ (by decide) (by decide)]
    exact hkind.imp_right .inl
  rw [ringJobComplete_done h hdone hdma, hfetch, ← haddr,
    ringWb_read ((hsame _ (by decide) (by decide)).trans hen) (hp.dma.trans hdma), hp.cons, hsame R.RING_RST_CNT (by decide) (by decide),
    hsame R.RING_STATE (by decide) (by decide), h]

/-! The end of a reset (R427). -/

/-- The body with the ring's work gone, its indices and its cause at 0, and the reset counted. -/
def resetCleared (b : Body) (n : Nat) : Body :=
  let c := ((b.setRun n {}).rwr n R.RING_PROD 0).rwr n R.RING_CONS 0
  ((c.rwr n R.RING_RST_CNT (c.rrd n R.RING_RST_CNT + 1)).rwr n R.RING_ERR 0).rwr n R.RING_ERR_IDX 0

theorem ringResetDone_stands (h : b.rrd n R.RING_STATE ≠ RING_RESETTING) : b.ringResetDone n = b := if_pos h

theorem ringResetDone_eq (h : b.rrd n R.RING_STATE = RING_RESETTING) :
    b.ringResetDone n = ((b.resetCleared n).ringWb n).rwr n R.RING_STATE
      (if (b.resetCleared n).rrd n R.RING_EN = 1 then RING_RUNNING else RING_DISABLED) := by
  rw [ringResetDone, if_neg (not_not.2 h)]
  simp only [on, beq_iff_eq]
  rfl

theorem resetCleared_spec (b : Body) (n : Nat) :
    (b.resetCleared n).rrd n R.RING_PROD = 0 ∧ (b.resetCleared n).rrd n R.RING_CONS = 0 ∧
    (b.resetCleared n).rrd n R.RING_RST_CNT = (b.rrd n R.RING_RST_CNT + 1) % 2 ^ 16 ∧ (b.resetCleared n).run n = {} ∧
    (b.resetCleared n).dmaOk = b.dmaOk ∧
    ∀ g ∈ [R.RING_STATE, R.RING_EN, R.RING_WB_EN, R.RING_WB_LO, R.RING_WB_HI], (b.resetCleared n).rrd n g = b.rrd n g := by
  have hapart : ∀ g ∈ [R.RING_STATE, R.RING_EN, R.RING_WB_EN, R.RING_WB_LO, R.RING_WB_HI],
      ∀ f ∈ [R.RING_PROD, R.RING_CONS, R.RING_RST_CNT, R.RING_ERR, R.RING_ERR_IDX],
        f.lo < 32 ∧ g.lo < 32 ∧ (f.off ≠ g.off ∨ f.lo ≠ g.lo) := by decide
  unfold resetCleared
  refine ⟨?_, ?_, ?_, run_setRun _, ?_, fun g hg => ?_⟩
  · simp (disch := decide) only [rrd_rwr, rrd_rwr_self, Nat.zero_mod]
  · simp (disch := decide) only [rrd_rwr, rrd_rwr_self, Nat.zero_mod]
  · simp (disch := decide) only [rrd_rwr, rrd_rwr_self, rrd_setRun]
    rfl
  · simp (disch := decide) only [dmaOk_rwr]
    rfl
  · rw [rrd_rwr (hapart g hg _ (by simp)), rrd_rwr (hapart g hg _ (by simp)), rrd_rwr (hapart g hg _ (by simp)),
      rrd_rwr (hapart g hg _ (by simp)), rrd_rwr (hapart g hg _ (by simp)), rrd_setRun]

/-- What the end of a reset leaves (steps 3 to 5 of R427). -/
theorem ringResetDone_spec (h : b.rrd n R.RING_STATE = RING_RESETTING) :
    let c := b.ringResetDone n
    c.rrd n R.RING_PROD = 0 ∧ c.rrd n R.RING_CONS = 0 ∧ c.rrd n R.RING_RST_CNT = (b.rrd n R.RING_RST_CNT + 1) % 2 ^ 16 ∧
    c.rrd n R.RING_STATE = (if b.rrd n R.RING_EN = 1 then RING_RUNNING else RING_DISABLED) ∧ c.run n = {} ∧
    (b.rrd n R.RING_WB_EN = 1 → b.dmaOk = true → Mem.read c.mem.host (b.wbAddr n) 8 =
      leBytes 4 0 ++ leBytes 2 ((b.rrd n R.RING_RST_CNT + 1) % 2 ^ 16) ++ leBytes 1 RING_RESETTING ++ [0]) := by
  obtain ⟨hprod, hcons, hcnt, hrun, hdma, hother⟩ := b.resetCleared_spec n
  rw [ringResetDone_eq h]
  refine ⟨?_, ?_, ?_, ?_, ?_, fun hen hok => ?_⟩
  · rw [rrd_rwr (by decide), rrd_ringWb, hprod]
  · rw [rrd_rwr (by decide), rrd_ringWb, hcons]
  · rw [rrd_rwr (by decide), rrd_ringWb, hcnt]
  · rw [rrd_rwr_self, hother R.RING_EN (by simp)]
    split_ifs <;> rfl
  · exact run_ringWb.trans hrun
  · have haddr : (b.resetCleared n).wbAddr n = b.wbAddr n := by
      rw [wbAddr, hother _ (by simp), hother _ (by simp), wbAddr]
    have hread := ringWb_read ((hother R.RING_WB_EN (by simp)).trans hen) (hdma.trans hok)
    rwa [haddr, hcons, hcnt, hother R.RING_STATE (by simp), h] at hread

/-- A reset that begins (R427): the ring is in RESETTING, its indices as they were. -/
theorem ringReset_spec (h : b.rrd n R.RING_STATE ≠ RING_DISABLED) :
    let c := b.ringReset n false
    c.rrd n R.RING_STATE = RING_RESETTING ∧ c.rrd n R.RING_PROD = b.rrd n R.RING_PROD ∧ c.rrd n R.RING_CONS = b.rrd n R.RING_CONS ∧
    Keeps [Pg.ring n] b c := by
  by_cases hr : b.rrd n R.RING_STATE = RING_RESETTING
  · have hc : b.ringReset n false = b := by simp [ringReset, hr]
    rw [hc]
    exact ⟨hr, rfl, rfl, .refl b⟩
  · have hc : ∃ x, b.ringReset n false = (b.rwr n R.RING_STATE RING_RESETTING).setRun n x := by
      simp only [ringReset, if_neg h, if_neg hr, Bool.false_eq_true, if_false]
      exact ⟨_, rfl⟩
    obtain ⟨x, hc⟩ := hc
    rw [hc]
    refine ⟨?_, ?_, ?_, ((Keeps.refl b).rwr (by decide) (by simp)).setRun⟩
    · rw [rrd_setRun, rrd_rwr_self]
      rfl
    · rw [rrd_setRun, rrd_rwr (by decide)]
    · rw [rrd_setRun, rrd_rwr (by decide)]

theorem ringReset_disabled (h : b.rrd n R.RING_STATE = RING_DISABLED) (off : Bool) : b.ringReset n off = b := if_pos h

/-! Notification (R419, R431). -/

/-- A message of a vector may go out. -/
def vecFree (b : Body) (v : Nat) : Prop := b.host.fnMask = false ∧ (b.vec v).masked = false ∧ b.dmaOk = true

/-- The body with other pending vectors. -/
def withPba (b : Body) (l : List Nat) : Body := { b with host := { b.host with pba := l } }

theorem vecNotify_free (h : b.vecFree v) :
    ∃ l, b.vecNotify v = (b.withPba l).emit (.msix v (b.vec v).addr (b.vec v).data) := by
  obtain ⟨hfn, hmask, hdma⟩ := h
  have hpend : (insertNat v b.host.pba).contains v = true := List.contains_iff_mem.2 (mem_insertNat.2 (.inl rfl))
  refine ⟨(insertNat v b.host.pba).erase v, if_pos ⟨hpend, ?_, ?_, hdma⟩⟩
  · exact Bool.eq_false_iff.1 hfn
  · exact Bool.eq_false_iff.1 hmask

theorem vecNotify_held (h : ¬ b.vecFree v) : b.vecNotify v = b.withPba (insertNat v b.host.pba) := by
  refine if_neg ?_
  rintro ⟨-, hfn, hmask, hdma⟩
  exact h ⟨Bool.eq_false_iff.2 hfn, Bool.eq_false_iff.2 hmask, hdma⟩

/-- What a notification of a vector leaves: the registers and the rings are as they were, and its message is out or pending. -/
theorem vecNotify_spec (b : Body) (v : Nat) :
    (b.vecNotify v).host.rings = b.host.rings ∧ (∀ ps, Keeps ps b (b.vecNotify v)) ∧
    (b.vecFree v → (b.vecNotify v).out = b.out ++ [.msix v (b.vec v).addr (b.vec v).data]) ∧
    (¬ b.vecFree v → v ∈ (b.vecNotify v).host.pba ∧ (b.vecNotify v).out = b.out) := by
  by_cases h : b.vecFree v
  · obtain ⟨l, hl⟩ := vecNotify_free h
    rw [hl]
    exact ⟨rfl, fun ps => (Keeps.refl b).of_eq rfl rfl rfl rfl, fun _ => rfl, fun hn => absurd h hn⟩
  · rw [vecNotify_held h]
    exact ⟨rfl, fun ps => (Keeps.refl b).of_eq rfl rfl rfl rfl, fun hf => absurd hf h, fun _ => ⟨mem_insertNat.2 (.inl rfl), rfl⟩⟩

/-- A ring's notification is due: enough jobs are done, or enough time has passed since the first. -/
def notifyDue (b : Body) (n : Nat) : Prop :=
  max 1 (b.rrd n R.RING_COAL_JOBS) ≤ (b.run n).note ∨ b.passed (Mk.ring n) (1000 * max 1 (b.rrd n R.RING_COAL_US)) = true

theorem ringNotify_waits (h : (b.run n).note = 0 ∨ ¬ b.notifyDue n) : b.ringNotify n = b := by
  refine if_pos (h.imp_right fun hd => ?_)
  rwa [notifyDue, Nat.mul_comm, not_or, not_le] at hd

/-- The body with nothing of a ring left to notify. -/
def noted (b : Body) (n : Nat) : Body := b.setRun n { b.run n with note := 0 }

theorem ringNotify_due (hn : (b.run n).note ≠ 0) (h : b.notifyDue n) :
    b.ringNotify n = (if b.rrd n R.RING_VEC = 0 then b.noted n else (b.noted n).vecNotify (b.rrd n R.RING_VEC)).fire
      (Pg.ring n) R.RING_EVT_CMPL := by
  rw [notifyDue, Nat.mul_comm] at h
  refine if_neg fun hw => ?_
  rcases hw with hw | ⟨hjobs, htime⟩
  · exact hn hw
  · exact h.elim (not_le.2 hjobs) htime

/-- What a notification leaves. -/
theorem ringNotify_spec (hn : (b.run n).note ≠ 0) (h : b.notifyDue n) :
    let c := b.ringNotify n
    let v := b.rrd n R.RING_VEC
    (c.run n).note = 0 ∧ c.rrd n (evtPend R.RING_EVT_CMPL) = 1 ∧ Keeps [Pg.ring n] b c ∧
    (v ≠ 0 → b.vecFree v → c.out = b.out ++ [.msix v (b.vec v).addr (b.vec v).data]) ∧
    (v ≠ 0 → ¬ b.vecFree v → v ∈ c.host.pba) ∧ (v = 0 ∨ ¬ b.vecFree v → c.out = b.out) := by
  have hnoted : Keeps [Pg.ring n] b (b.noted n) := (Keeps.refl b).setRun
  have hnote : ((b.noted n).run n).note = 0 := congrArg RingRun.note (run_setRun _)
  obtain ⟨hrings, hkeeps, hfree, hheld⟩ := (b.noted n).vecNotify_spec (b.rrd n R.RING_VEC)
  rw [ringNotify_due hn h]
  by_cases hv : b.rrd n R.RING_VEC = 0
  · rw [if_pos hv]
    refine ⟨?_, rrd_fire_pend (by decide), hnoted.ringFire (by decide) (by simp), fun hz => absurd hv hz, fun hz => absurd hv hz,
      fun _ => ?_⟩
    · rw [run_fire, hnote]
    · rw [fire_out]
      rfl
  · rw [if_neg hv]
    refine ⟨?_, rrd_fire_pend (by decide), (hnoted.trans (hkeeps _)).ringFire (by decide) (by simp), fun _ hf => ?_, fun _ hf => ?_,
      fun hf => ?_⟩
    · rw [run_fire, run, hrings, ← run, hnote]
    · rw [fire_out]
      exact hfree hf
    · rw [fire_host]
      exact (hheld hf).1
    · rw [fire_out]
      exact (hheld (hf.resolve_left hv)).2

/-! Enabling (R428, R429). -/

/-- A configuration that R429 accepts. -/
def ringFit (b : Body) (n : Nat) : Prop :=
  1 ≤ b.rrd n R.RING_KIND ∧ b.rrd n R.RING_KIND ≤ 4 ∧ 6 ≤ b.rrd n R.RING_LOG2 ∧ b.rrd n R.RING_LOG2 ≤ 16 ∧
  b.rrd n R.RING_BASE_LO % 4096 = 0 ∧ (b.rrd n R.RING_WB_LO % 8 = 0 ∨ b.rrd n R.RING_WB_EN = 0) ∧
  (b.rrd n R.RING_VEC = 0 ∨ (64 ≤ b.rrd n R.RING_VEC ∧ b.rrd n R.RING_VEC ≤ 2047)) ∧
  (b.rrd n R.RING_KIND = KIND_INJECT → b.rrd n R.RING_AUX = 0xFF ∨ b.rrd n R.RING_AUX ≤ 239)

theorem ringValid_iff : b.ringValid n = true ↔ b.ringFit n := by
  have hwb : b.on (Pg.ring n) R.RING_WB_EN = false ↔ b.rrd n R.RING_WB_EN = 0 := by
    have hbit : b.rrd n R.RING_WB_EN < 2 := b.rd_lt ..
    rw [on, beq_eq_false_iff_ne, ← rrd]
    omega
  simp only [ringValid, ringFit, Bool.and_eq_true, Bool.or_eq_true, decide_eq_true_eq, beq_iff_eq, bne_iff_ne, Bool.not_eq_true', hwb,
    and_assoc, imp_iff_not_or, ne_eq, or_assoc]

/-- A body whose ring page shows what another's shows: registers alone differ, and those of no other page. -/
structure SameRing (b c : Body) (n : Nat) : Prop where
  only : c = { b with regs := c.regs }
  here : ∀ f ∈ PK.ring.flds, c.rrd n f = b.rrd n f
  keeps : Keeps [Pg.ring n] b c

/-- Two fields of a ring's page lie in different registers or different bits. -/
theorem ring_fields_apart : ∀ f ∈ PK.ring.flds,
    f.lo < 32 ∧ f.off < 0x1000 ∧ ∀ g ∈ PK.ring.flds, g ≠ f → f.off ≠ g.off ∨ f.lo ≠ g.lo := by
  decide

/-- A field that is written with what it holds. -/
theorem SameRing.rwr {c : Body} (h : SameRing b c n) (hf : f ∈ PK.ring.flds) (hv : v = b.rrd n f) : SameRing b (c.rwr n f v) n := by
  obtain ⟨hlo, hoff, hapart⟩ := ring_fields_apart f hf
  refine ⟨by rw [h.only]; rfl, fun g hg => ?_, h.keeps.rwr ⟨hlo, hoff⟩ (by simp)⟩
  by_cases hfg : g = f
  · rw [hfg, rrd_rwr_self, hv, rrd_mod]
  · rw [rrd_rwr ⟨hlo, (ring_fields_apart g hg).1, hapart g hg hfg⟩, h.here g hg]

/-- Fields that are written with what they hold. -/
theorem SameRing.foldl {w : Nat} {l : List Fld} {c : Body} (h : SameRing b c n)
    (hl : ∀ f ∈ l, f ∈ PK.ring.flds ∧ f.of w = b.rrd n f) : SameRing b (l.foldl (fun c f => c.rwr n f (f.of w)) c) n := by
  induction l generalizing c with
  | nil => exact h
  | cons f t ih =>
    obtain ⟨hf, hw⟩ := hl f List.mem_cons_self
    exact ih (h.rwr hf hw) fun g hg => hl g (List.mem_cons_of_mem f hg)

theorem SameRing.host {c : Body} (h : SameRing b c n) : c.host = b.host := by rw [h.only]

theorem SameRing.ringFit {c : Body} (h : SameRing b c n) : c.ringFit n ↔ b.ringFit n := by
  simp only [Body.ringFit, h.here R.RING_KIND (by decide), h.here R.RING_LOG2 (by decide), h.here R.RING_BASE_LO (by decide),
    h.here R.RING_WB_LO (by decide), h.here R.RING_WB_EN (by decide), h.here R.RING_VEC (by decide), h.here R.RING_AUX (by decide)]

/-- What enabling makes of a ring in DISABLED. -/
theorem ringEnable_spec (h : b.rrd n R.RING_STATE = RING_DISABLED) :
    (b.ringFit n → (b.ringEnable n).rrd n R.RING_STATE = RING_RUNNING ∧ (b.ringEnable n).rrd n R.RING_EN = 1 ∧
      Keeps [Pg.ring n] b (b.ringEnable n)) ∧
    (¬ b.ringFit n → b.ringEnable n = (b.rwr n R.RING_EN 0).fire (Pg.ring n) R.RING_EVT_BADCFG) := by
  rw [ringEnable, if_neg (not_not.2 h), ← ringValid_iff]
  refine ⟨fun hv => ?_, fun hv => if_neg hv⟩
  rw [if_pos hv]
  refine ⟨?_, ?_, ((Keeps.refl b).rwr (by decide) (by simp)).rwr (by decide) (by simp)⟩
  · rw [rrd_rwr_self]
    rfl
  · rw [rrd_rwr (by decide), rrd_rwr_self]
    rfl

end Body

/-! The body that each command leaves. -/

/-- The fields beside RING_EN in a ring's configuration register (R445). -/
def ringCfgKept : List Fld := [R.RING_KIND, R.RING_LOG2, R.RING_GAL, R.RING_WB_EN, R.RING_AUX]

/-- The value of a field in the word that a write through another field carries fits the field. -/
theorem Body.putVal_lt (b : Body) (p v : Nat) (f : Fld) (x : Fld × Nat × Nat) : b.putVal p f v x < 2 ^ x.1.width := by
  unfold Body.putVal
  split_ifs with hx
  · rw [hx]
    exact Nat.mod_lt _ (Nat.two_pow_pos _)
  · exact b.rd_lt ..
  · exact Nat.two_pow_pos _

section
variable {s : State} {n m : Nat} (hn : n < 240)
include hn

/-- A write of RING_EN = 1 carries the rest of the configuration as it stands. -/
theorem Dev.put_ringEn (h : s.takes m (Pg.ring n + 0x80)) :
    ∃ w, R.RING_EN.of w = 1 ∧ (∀ f ∈ ringCfgKept, f.of w = s.dev.body.rrd n f) ∧
      s.dev.put m (Pg.ring n) R.RING_EN 0 1 = { s.dev with body := (s.dev.body.storeRing (Pg.ring n + 0x80) w).1 } := by
  have hp := pageIs_ring hn
  have hl : fieldsOf (Pg.ring n + 0x80) = PK.ring.fieldsAt 0x80 := hp.fieldsOf (by decide) (by decide)
  have hword := s.dev.body.keepWord_put (v := 1) (f := R.RING_EN) hl (hp.pageOf (by decide)) (by decide)
  have hval : ∀ x ∈ PK.ring.fieldsAt 0x80, x.1.of (fieldWord (PK.ring.fieldsAt 0x80) (s.dev.body.putVal (Pg.ring n) R.RING_EN 1)) =
      s.dev.body.putVal (Pg.ring n) R.RING_EN 1 x := fun x hx =>
    of_fieldWord (by unfold fieldsApart; decide) (fun y _ => s.dev.body.putVal_lt ..) hx
  have hkept : ∀ f ∈ ringCfgKept, (f, 0, 0) ∈ PK.ring.fieldsAt 0x80 ∧ f ≠ R.RING_EN ∧ f.acc = .rw := by decide
  refine ⟨_, hval (R.RING_EN, 0, 0) (by decide), fun f hf => ?_, ?_⟩
  · obtain ⟨hmem, hne, hacc⟩ := hkept f hf
    exact (hval (f, 0, 0) hmem).trans ((if_neg hne).trans (if_pos (.inl hacc)))
  · unfold Dev.put
    dsimp only
    rw [show R.RING_EN.addr (Pg.ring n) 0 0 = Pg.ring n + 0x80 from rfl, hword,
      Dev.write_store _ h hp (by decide) (by decide) (by decide) (by simp only [Pg.ring, Pg.boot]; omega) (by decide)]
    rfl

/-- What the configuration register's rules make of such a word: a ring in DISABLED is enabled, any other refuses. -/
theorem Body.storeRing_cfg (b : Body) {w : Nat} (hw : R.RING_EN.of w = 1) (hkept : ∀ f ∈ ringCfgKept, f.of w = b.rrd n f) :
    (b.rrd n R.RING_STATE = RING_DISABLED →
      ∃ c, Body.SameRing b c n ∧ (b.storeRing (Pg.ring n + 0x80) w).1 = c.ringEnable n) ∧
    (b.rrd n R.RING_STATE ≠ RING_DISABLED →
      (b.storeRing (Pg.ring n + 0x80) w).1 = b.fire (Pg.ring n) R.RING_EVT_BADCFG) := by
  have hp := pageIs_ring hn
  have hfield : (fieldAt (Pg.ring n + 0x80) R.RING_EN).isSome = true := by
    rw [hp.fieldAt (by decide) (by decide)]
    decide
  have htake : b.takeBits (Pg.ring n + 0x80) w [R.RING_EN] = ringCfgKept.foldl (fun c f => c.rwr n f (f.of w)) b := by
    unfold Body.takeBits
    rw [hp.fieldsOf (by decide) (by decide), hp.pageOf (by decide)]
    rfl
  have hin : ∀ f ∈ ringCfgKept, f ∈ PK.ring.flds := by decide
  unfold Body.storeRing
  simp only [ring_number (n := n) (off := 0x80) (by decide), hfield, if_true, hw]
  refine ⟨fun hoff => ⟨ringCfgKept.foldl (fun c f => c.rwr n f (f.of w)) b, ?_, ?_⟩, fun hon => ?_⟩
  · exact Body.SameRing.foldl ⟨rfl, fun _ _ => rfl, .refl b⟩ fun f hf => ⟨hin f hf, hkept f hf⟩
  · rw [htake, if_pos (beq_iff_eq.2 hoff)]
  · rw [if_neg (mt beq_iff_eq.1 hon)]
    simp

/-- A write of RING_RESET begins the reset of R427. -/
theorem Dev.put_ringReset (h : s.takes m (Pg.ring n + 0xA4)) :
    s.dev.put m (Pg.ring n) R.RING_RESET 0 1 = { s.dev with body := s.dev.body.ringReset n false } := by
  have hp := pageIs_ring hn
  have hkeep : s.dev.body.keepWord (Pg.ring n + 0xA4) R.RING_RESET = 0 := by
    refine Body.keepWord_eq_zero _ ?_
    rw [hp.fieldsOf (by decide) (by decide)]
    decide
  have hfield : fieldAt (Pg.ring n + 0xA4) R.RING_EN = none ∧ fieldAt (Pg.ring n + 0xA4) R.RING_RESET = some 0 := by
    rw [hp.fieldAt (by decide) (by decide), hp.fieldAt (by decide) (by decide)]
    decide
  have hone : R.RING_RESET.of (0 + 1 % 2 ^ R.RING_RESET.width * 2 ^ R.RING_RESET.lo) = 1 := Fld.of_shifted (by decide)
  unfold Dev.put
  dsimp only
  rw [show R.RING_RESET.addr (Pg.ring n) 0 0 = Pg.ring n + 0xA4 from rfl, hkeep,
    Dev.write_store _ h hp (by decide) (by decide) (by decide) (by simp only [Pg.ring, Pg.boot]; omega) (by decide)]
  generalize 0 + 1 % 2 ^ R.RING_RESET.width * 2 ^ R.RING_RESET.lo = w at hone ⊢
  simp [Body.pageStore, Body.storeRing, hfield, hone, ring_number (n := n) (off := 0xA4) (by decide)]

theorem exec_ringEnable (h : s.takes m (Pg.ring n + 0x80)) :
    (s.reg (Pg.ring n) R.RING_STATE = RING_DISABLED →
      ∃ c, Body.SameRing s.dev.body c n ∧ exec (.ringEnable n m) s = .next (s.withBody (c.ringEnable n))) ∧
    (s.reg (Pg.ring n) R.RING_STATE ≠ RING_DISABLED →
      exec (.ringEnable n m) s = .next (s.withBody (s.dev.body.fire (Pg.ring n) R.RING_EVT_BADCFG))) := by
  obtain ⟨w, hw, hkept, hput⟩ := Dev.put_ringEn hn h
  obtain ⟨hdisabled, helse⟩ := s.dev.body.storeRing_cfg hn hw hkept
  refine ⟨fun hst => ?_, fun hst => ?_⟩
  · obtain ⟨c, hsame, hstore⟩ := hdisabled hst
    exact ⟨c, hsame, State.live_withBody (by simp [hn, h.known]) h.runs (by rw [hput, hstore])⟩
  · exact State.live_withBody (by simp [hn, h.known]) h.runs (by rw [hput, helse hst])

theorem exec_ringReset (h : s.takes m (Pg.ring n + 0xA4)) :
    exec (.ringReset n m) s = .next (s.withBody (s.dev.body.ringReset n false)) :=
  State.live_withBody (by simp [hn, h.known]) h.runs (Dev.put_ringReset hn h)

theorem exec_ringDoorbell {v : Nat} (hr : s.runs [3]) (hbar : s.dev.body.boot.bar0 = true) (hv : v < 2 ^ 32) :
    exec (.ringDoorbell n v) s = .next (s.withBody (s.dev.body.ringDoorbell n v)) :=
  State.live_withBody (by rw [decide_eq_true hn, decide_eq_true hv]; rfl) hr (s.dev.on_eq (if_pos hbar))

variable (hr : s.runs [3])
include hr

theorem exec_ringResetDone : exec (.ringResetDone n) s = .next (s.withBody (s.dev.body.ringResetDone n)) :=
  State.live_withBody (decide_eq_true hn) hr rfl

theorem exec_ringJobComplete : exec (.ringJobComplete n) s = .next (s.withBody (s.dev.body.ringJobComplete n)) :=
  State.live_withBody (decide_eq_true hn) hr rfl

theorem exec_ringNotify : exec (.ringNotify n) s = .next (s.withBody (s.dev.body.ringNotify n)) :=
  State.live_withBody (decide_eq_true hn) hr rfl

theorem exec_ringDmaError : exec (.ringDmaError n) s = .next (s.withBody (s.dev.body.ringDmaError n)) :=
  State.live_withBody (decide_eq_true hn) hr rfl

end

/-- A write of HIF_INJ_GO arms the error that the register's other fields name (R444). -/
theorem exec_hifInject {s : State} {m : Nat} (h : s.takes m (Pg.hif + 0xC0)) :
    ∃ c, Body.Shown Pg.hif 0xC0 (PK.hif.fieldsAt 0xC0) s.dev.body c ∧ exec (.hifInject m) s = .next (s.withBody c.hifInject) := by
  have hfield : fieldAt (Pg.hif + 0xC0) R.HIF_PUNT_SPREAD = none ∧ (fieldAt (Pg.hif + 0xC0) R.HIF_INJ_GO).isSome = true := by decide
  obtain ⟨c, hshown, hput⟩ := Dev.put_go (v := 1) (i := 0) (f := R.HIF_INJ_GO) (act := Body.hifInject) h pageIs_hif (by decide) (by decide)
    (by decide) (by decide) (by decide) rfl (by decide) fun w _ hw _ => by
      simp only [Body.pageStore, Body.storeHif, hfield.1, Option.isSome_none, Bool.false_eq_true, if_false]
      exact Body.takeGo_act _ _ hfield.2 hw
  exact ⟨c, hshown, State.live_withBody h.known h.runs hput⟩

/-! What a reader sees of the state after a command of a ring. -/

section
variable {s : State} {c : Body} {n : Nat}

/-- A register of a ring's page reads as the body has it. -/
theorem State.withBody_ring {f : Fld} {v : Nat} (h : c.rrd n f = v) (hf : f.lo < 32 := by decide) :
    (s.withBody c).reg (Pg.ring n) f = v :=
  (s.reg_after _ hf (notedAt_big (by have := (Pg.ring_page n).1; simp only [Fld.addr]; omega))).trans h

@[simp] theorem State.withBody_host : (s.withBody c).dev.body.host = c.host := by simp [State.withBody]

@[simp] theorem State.withBody_mem : (s.withBody c).dev.body.mem = c.mem := by simp [State.withBody]

@[simp] theorem State.withBody_out : (s.withBody c).dev.body.out = c.out := by simp [State.withBody]

@[simp] theorem State.withBody_ctrs : (s.withBody c).dev.body.ctrs = c.ctrs := by simp [State.withBody]

theorem State.withBody_ctr (p i : Nat) : (s.withBody c).ctr p i = c.ctr p i := Body.ctr_of_ctrs State.withBody_ctrs p i

theorem State.withBody_run : (s.withBody c).dev.body.run n = c.run n := Body.run_of_host State.withBody_host

/-- A ring's state and indices, the rings' work and all memory are as they were. -/
def State.SameRing (s t : State) (n : Nat) : Prop :=
  t.reg (Pg.ring n) R.RING_STATE = s.reg (Pg.ring n) R.RING_STATE ∧ t.reg (Pg.ring n) R.RING_PROD = s.reg (Pg.ring n) R.RING_PROD ∧
  t.reg (Pg.ring n) R.RING_CONS = s.reg (Pg.ring n) R.RING_CONS ∧ t.dev.body.host = s.dev.body.host ∧ t.dev.body.mem = s.dev.body.mem

/-- A ring is in ERROR with a cause and an index, and tells so (R425). -/
def State.RingErrs (s t : State) (n cause i : Nat) : Prop :=
  t.reg (Pg.ring n) R.RING_STATE = RING_ERROR ∧ t.reg (Pg.ring n) R.RING_ERR = cause ∧ t.reg (Pg.ring n) R.RING_ERR_IDX = i ∧
  t.evt (Pg.ring n) R.RING_EVT_PROTO ∧ t.ctr (Pg.ring n) RING_PROTO_ERR = (s.ctr (Pg.ring n) RING_PROTO_ERR + 1) % 2 ^ 64

/-- A write that a ring refuses is told by its event, and the ring stays as it is. -/
theorem State.withBody_refused (hf : ∀ f ∈ [R.RING_STATE, R.RING_PROD, R.RING_CONS], c.rrd n f = s.dev.body.rrd n f)
    (hh : c.host = s.dev.body.host) (hk : Body.Keeps [Pg.ring n] s.dev.body c) :
    s.SameRing (s.withBody (c.fire (Pg.ring n) R.RING_EVT_BADCFG)) n ∧
    (s.withBody (c.fire (Pg.ring n) R.RING_EVT_BADCFG)).evt (Pg.ring n) R.RING_EVT_BADCFG ∧
    s.keeps (s.withBody (c.fire (Pg.ring n) R.RING_EVT_BADCFG)) [Pg.ring n] := by
  have hreg : ∀ f ∈ [R.RING_STATE, R.RING_PROD, R.RING_CONS], f.lo < 32 ∧ f.off ≠ 0x20 ∧ f.off ≠ 0x30 := by decide
  have hsame : ∀ f ∈ [R.RING_STATE, R.RING_PROD, R.RING_CONS],
      (s.withBody (c.fire (Pg.ring n) R.RING_EVT_BADCFG)).reg (Pg.ring n) f = s.reg (Pg.ring n) f := fun f hm =>
    State.withBody_ring ((Body.rrd_fire (by decide) (hreg f hm)).trans (hf f hm)) (hreg f hm).1
  refine ⟨⟨hsame _ (by simp), hsame _ (by simp), hsame _ (by simp), ?_, ?_⟩, ?_,
    State.withBody_keeps (hk.ringFire (by decide) (by simp))⟩
  · rw [State.withBody_host, Body.fire_host, hh]
  · rw [State.withBody_mem, ← hk.mem]
    simp
  · exact State.withBody_ring (f := evtPend R.RING_EVT_BADCFG) (Body.rrd_fire_pend (by decide))

/-- What a reader sees of a protocol error. -/
theorem State.withBody_errs {b : Body} {cause idx : Nat} (h : Body.Errs b c n cause idx)
    (hb : b.ctr (Pg.ring n) RING_PROTO_ERR = s.dev.body.ctr (Pg.ring n) RING_PROTO_ERR) : s.RingErrs (s.withBody c) n cause idx :=
  ⟨State.withBody_ring h.state, State.withBody_ring h.cause, State.withBody_ring h.index,
    State.withBody_ring (f := evtPend R.RING_EVT_PROTO) h.event, by rw [State.withBody_ctr, h.errors, hb]; rfl⟩

/-! What the commands of a ring show, case by case. -/

/-- RING_EN of a ring in DISABLED, whose page shows what the write kept (R429). -/
theorem State.withBody_enabled {c : Body} (hs : Body.SameRing s.dev.body c n) (hst : s.reg (Pg.ring n) R.RING_STATE = RING_DISABLED)
    (hfit : s.dev.body.ringFit n) :
    (s.withBody (c.ringEnable n)).reg (Pg.ring n) R.RING_STATE = RING_RUNNING ∧
    (s.withBody (c.ringEnable n)).reg (Pg.ring n) R.RING_EN = 1 ∧ s.keeps (s.withBody (c.ringEnable n)) [Pg.ring n] := by
  have hoff : c.rrd n R.RING_STATE = RING_DISABLED := (hs.here _ (by decide)).trans hst
  obtain ⟨hstate, hen, hkeeps⟩ := (Body.ringEnable_spec hoff).1 (hs.ringFit.2 hfit)
  exact ⟨State.withBody_ring hstate, State.withBody_ring hen, State.withBody_keeps (hs.keeps.trans hkeeps)⟩

theorem State.withBody_unfit {c : Body} (hs : Body.SameRing s.dev.body c n) (hst : s.reg (Pg.ring n) R.RING_STATE = RING_DISABLED)
    (hfit : ¬ s.dev.body.ringFit n) :
    (s.withBody (c.ringEnable n)).reg (Pg.ring n) R.RING_EN = 0 ∧ s.SameRing (s.withBody (c.ringEnable n)) n ∧
    (s.withBody (c.ringEnable n)).evt (Pg.ring n) R.RING_EVT_BADCFG ∧ s.keeps (s.withBody (c.ringEnable n)) [Pg.ring n] := by
  have hoff : c.rrd n R.RING_STATE = RING_DISABLED := (hs.here _ (by decide)).trans hst
  have hshown : ∀ f ∈ [R.RING_STATE, R.RING_PROD, R.RING_CONS],
      f ∈ PK.ring.flds ∧ R.RING_EN.lo < 32 ∧ f.lo < 32 ∧ (R.RING_EN.off ≠ f.off ∨ R.RING_EN.lo ≠ f.lo) := by decide
  rw [(Body.ringEnable_spec hoff).2 (mt hs.ringFit.1 hfit)]
  refine ⟨State.withBody_ring ?_, State.withBody_refused (fun f hf => ?_) hs.host (hs.keeps.rwr (by decide) (by simp))⟩
  · rw [Body.rrd_fire (by decide) (by decide), Body.rrd_rwr_self]
    rfl
  · rw [Body.rrd_rwr (hshown f hf).2, hs.here f (hshown f hf).1]

/-- A doorbell that moves RING_PROD, where the ring has nothing to fetch. -/
theorem State.withBody_bell {v : Nat} (hst : s.reg (Pg.ring n) R.RING_STATE = RING_RUNNING)
    (h : s.reg (Pg.ring n) R.RING_KIND = KIND_PUNT ∨ s.reg (Pg.ring n) R.RING_KIND = KIND_TEL ∨ s.dev.body.dmaOk = false) :
    let t := s.withBody ((s.dev.body.rwr n R.RING_PROD v).ringFetch n)
    t.reg (Pg.ring n) R.RING_STATE = RING_RUNNING ∧ t.reg (Pg.ring n) R.RING_CONS = s.reg (Pg.ring n) R.RING_CONS ∧
    t.dev.body.host = s.dev.body.host ∧ s.keeps t [Pg.ring n] := by
  have hfetch : (s.dev.body.rwr n R.RING_PROD v).ringFetch n = s.dev.body.rwr n R.RING_PROD v := by
    refine Body.ringFetch_none ?_
    rwa [Body.rrd_rwr (by decide), Body.dmaOk_rwr (by decide)]
  rw [hfetch]
  exact ⟨State.withBody_ring ((Body.rrd_rwr (by decide)).trans hst), State.withBody_ring (Body.rrd_rwr (by decide)),
    State.withBody_host, State.withBody_keeps ((Body.Keeps.refl _).rwr (by decide) (by simp))⟩

/-- A doorbell that moves RING_PROD moves it whatever the fetch finds. -/
theorem State.withBody_bell_prod {v : Nat} (hv : v < 2 ^ 32) :
    (s.withBody ((s.dev.body.rwr n R.RING_PROD v).ringFetch n)).reg (Pg.ring n) R.RING_PROD = v := by
  refine State.withBody_ring ?_
  rw [Body.ringFetch_prod, Body.rrd_rwr_self]
  exact Nat.mod_eq_of_lt hv

/-- A doorbell that brings an idle ring entries to fetch, where a DMA error is armed for it (R425, R444). -/
theorem State.withBody_bell_armed {v : Nat} (hv : v < 2 ^ 32) (hst : s.reg (Pg.ring n) R.RING_STATE = RING_RUNNING)
    (hkind : s.reg (Pg.ring n) R.RING_KIND = KIND_INJECT ∨ s.reg (Pg.ring n) R.RING_KIND = KIND_CMD) (hdma : s.dev.body.dmaOk = true)
    (hidx : (s.dev.body.run n).idx = 0) (hdone : (s.dev.body.run n).done = []) (hne : v ≠ s.reg (Pg.ring n) R.RING_CONS)
    (harm : ∃ k, (n, k) ∈ s.dev.body.host.arm) :
    let t := s.withBody ((s.dev.body.rwr n R.RING_PROD v).ringFetch n)
    s.RingErrs t n CAUSE_DMA (s.reg (Pg.ring n) R.RING_CONS) ∧ t.reg (Pg.ring n) R.RING_CONS = s.reg (Pg.ring n) R.RING_CONS ∧
    t.flt (Pg.ring n) R.RING_FLT_DMA := by
  obtain ⟨a, hfetch⟩ := Body.ringFetch_armed (b := s.dev.body.rwr n R.RING_PROD v) ((Body.rrd_rwr (by decide)).trans hst)
    (by rwa [Body.rrd_rwr (by decide)]) ((Body.dmaOk_rwr (by decide)).trans hdma) hidx (Body.ringLeft_bell hdone hv hne) harm
  have hfront : (s.dev.body.rwr n R.RING_PROD v).ringFront n = s.reg (Pg.ring n) R.RING_CONS :=
    (Body.ringFront_idle (b := s.dev.body.rwr n R.RING_PROD v) hdone).trans (Body.rrd_rwr (by decide))
  have herr := ((s.dev.body.rwr n R.RING_PROD v).withArm a).ringError_spec n CAUSE_DMA _ true (by decide)
    (Body.ringFront_lt (s.dev.body.rwr n R.RING_PROD v) n)
  rw [← hfetch, hfront] at herr
  exact ⟨State.withBody_errs herr rfl, State.withBody_ring (herr.cons.trans hfront),
    State.withBody_ring (f := fltStat R.RING_FLT_DMA) (herr.fault rfl)⟩

/-- HIF_INJ_GO arms an error for the ring and of the kind that the page names, where it names both (R444). -/
theorem Body.hifInject_spec (c : Body) {k r : Nat} (hk : c.rd Pg.hif R.HIF_INJ_KIND = k) (hr : c.rd Pg.hif R.HIF_INJ_RING = r) :
    (∀ ps, Body.Keeps ps c c.hifInject) ∧ (k ≠ 3 → r < 240 → (r, k) ∈ c.hifInject.host.arm) ∧
    (k = 3 ∨ 239 < r → c.hifInject = c) := by
  subst hk hr
  by_cases h : c.rd Pg.hif R.HIF_INJ_KIND = 3 ∨ 239 < c.rd Pg.hif R.HIF_INJ_RING
  · have hc : c.hifInject = c := if_pos h
    rw [hc]
    exact ⟨fun _ => .refl c, fun h3 hlt => absurd h (by omega), fun _ => rfl⟩
  · rw [Body.hifInject, if_neg h]
    exact ⟨fun _ => (Body.Keeps.refl c).of_eq rfl rfl rfl rfl, fun _ _ => List.mem_cons_self, fun hc => absurd hc h⟩

end
end Sys2Proof.Machine

namespace Sys2Proof

open Machine

/-- Settles O52: each clause is one case of a ring's operation, as the state after the command shows it. -/
theorem ringStates : Obligations.RingStates := by
  intro n s hn b p st x prod cons size kind wb writesBack same proto
  refine ⟨fun m h => ?_, fun v hr hbar hv => ⟨fun hst heq => ?_, fun hst hne hp hc => ?_, fun hst hne hbad => ?_, fun hst => ?_⟩,
    fun m h => ⟨fun hst => ?_, fun hst => ?_⟩,
    fun hr => ⟨fun hst => ?_, fun hst => ?_, fun e k rest hst hdone hdma hlast => ?_, ?_⟩, fun m h => ?_⟩
  · intro valid
    obtain ⟨henable, hrefuse⟩ := exec_ringEnable hn h
    refine ⟨fun hst hv => ?_, fun hst hv => ?_, fun hst => ⟨_, hrefuse hst, ?_, ?_⟩⟩
    · obtain ⟨c, hc, hexec⟩ := henable hst
      exact ⟨_, hexec, State.withBody_enabled hc hst hv⟩
    · obtain ⟨c, hc, hexec⟩ := henable hst
      exact ⟨_, hexec, State.withBody_unfit hc hst hv⟩
    · exact State.withBody_ring (Body.rrd_fire (by decide) (by decide))
    · exact State.withBody_refused (fun _ _ => rfl) rfl (.refl _)
  · rw [exec_ringDoorbell hn hr hbar hv, Body.ringDoorbell_same hst heq, State.withBody_self]
  · refine ⟨_, exec_ringDoorbell hn hr hbar hv, ?_⟩
    rw [(Body.ringDoorbell_moves hst hne).1 ⟨hp, hc⟩]
    refine ⟨State.withBody_bell_prod hv, fun hk => State.withBody_bell hst hk, fun hk hdma hidx hdone hv' harm => ?_⟩
    exact State.withBody_bell_armed hv hst hk hdma hidx hdone hv' harm
  · refine ⟨_, exec_ringDoorbell hn hr hbar hv, ?_⟩
    have hunfit : ¬ s.dev.body.bellFits n v := fun hf => hbad.elim (not_lt.2 hf.1) (not_lt.2 hf.2)
    rw [(Body.ringDoorbell_moves hst hne).2 hunfit]
    exact ⟨State.withBody_errs (Body.ringError_spec _ n _ v _ (by decide) hv) rfl, State.withBody_ring (Body.ringError_prod ..)⟩
  · refine ⟨_, exec_ringDoorbell hn hr hbar hv, ?_⟩
    rw [Body.ringDoorbell_stopped hst]
    exact State.withBody_refused (fun _ _ => rfl) rfl (.refl _)
  · refine ⟨s, ?_, ⟨rfl, rfl, rfl, rfl, rfl⟩, ⟨fun _ _ _ _ _ _ _ => rfl, rfl, rfl, rfl, rfl⟩⟩
    rw [exec_ringReset hn h, Body.ringReset_disabled hst, State.withBody_self]
  · obtain ⟨hstate, hprod, hcons, hkeeps⟩ := Body.ringReset_spec hst
    exact ⟨_, exec_ringReset hn h, State.withBody_ring hstate, State.withBody_ring hprod, State.withBody_ring hcons,
      State.withBody_keeps hkeeps⟩
  · rw [exec_ringResetDone hn hr, Body.ringResetDone_stands hst, State.withBody_self]
  · obtain ⟨hprod, hcons, hcnt, hstate, hrun, hwb⟩ := Body.ringResetDone_spec hst
    refine ⟨_, exec_ringResetDone hn hr, State.withBody_ring hprod, State.withBody_ring hcons, State.withBody_ring hcnt,
      State.withBody_ring hstate, State.withBody_run.trans hrun, fun hen hdma => ?_⟩
    rw [State.withBody_mem]
    exact hwb hen hdma
  · obtain ⟨hcons, hprod, hjobs, hnote, hcount, hentries, hbytes⟩ := Body.ringJobComplete_spec hst hdone hdma hlast
    refine ⟨_, exec_ringJobComplete hn hr, State.withBody_ring hcons, State.withBody_ring hprod, ?_, ?_, (State.withBody_ctr ..).trans hcount,
      (State.withBody_ctr ..).trans hentries, (State.withBody_ctr ..).trans hbytes, fun hkind hen _ => ?_⟩
    · rw [State.withBody_run, hjobs]
    · rw [State.withBody_run, hnote]
    · rw [State.withBody_mem]
      exact Body.ringJobComplete_writeBack hst hdone hdma hkind hen
  · intro due
    refine ⟨fun hw => ?_, fun hnote hdue => ?_, fun hst => ?_, fun hst => ?_⟩
    · rw [exec_ringNotify hn hr, Body.ringNotify_waits hw, State.withBody_self]
    · intro v free
      obtain ⟨hzero, hevt, hkeeps, hfree, hheld, hout⟩ := Body.ringNotify_spec hnote hdue
      refine ⟨_, exec_ringNotify hn hr, ?_, State.withBody_ring (f := evtPend R.RING_EVT_CMPL) hevt, State.withBody_keeps hkeeps, ?_⟩
      · rw [State.withBody_run, hzero]
      · rw [State.withBody_host, State.withBody_out]
        exact ⟨hfree, hheld, hout⟩
    · rw [exec_ringDmaError hn hr, Body.ringDmaError_stopped hst, State.withBody_self]
    · refine ⟨_, exec_ringDmaError hn hr, ?_⟩
      have herr := s.dev.body.ringError_spec n CAUSE_DMA _ false (by decide) (s.dev.body.ringFront_lt n)
      rw [Body.ringDmaError_running hst]
      exact ⟨State.withBody_errs herr rfl, State.withBody_ring (f := fltStat R.RING_FLT_DMA) (herr.fault rfl),
        State.withBody_ring herr.cons, by rw [State.withBody_run, herr.done]⟩
  · intro k r
    obtain ⟨c, hshown, hexec⟩ := exec_hifInject h
    obtain ⟨hkeeps, harms, hnone⟩ := c.hifInject_spec (hshown.here (R.HIF_INJ_KIND, 0, 0) (by decide))
      (hshown.here (R.HIF_INJ_RING, 0, 0) (by decide))
    have hhost : c.host = s.dev.body.host := by rw [hshown.only]
    refine ⟨_, hexec, State.withBody_keeps ((hshown.keeps pageIs_hif (by decide) (by simp)).trans (hkeeps _)), ?_, fun hk => ?_⟩
    · rwa [State.withBody_host]
    · rw [State.withBody_host, hnone hk, hhost]

end Sys2Proof
end

section
/-! O56: Survey counters and counter pairs (R470 to R475, R478 to R480). The first part says which effects Survey itself does not see, so
that the notes that follow them count nothing; the second what a configuration, a window end and a latch make of the counters; the third
what a read and a write of a counter pair make of the Sump; and the last puts the clauses together. -/

namespace Sys2Proof.Machine

/-! Effects that Survey does not see. -/

/-- An effect on nothing that a Survey event or a pool's level depends on: of the registers it changes none outside the Survey page, of the
counters none but HIF_TEL_DROP. -/
structure Body.Unseen (b c : Body) : Prop where
  regs : ∀ (q : Nat) (g : Fld) (x y : Nat), g.lo < 32 → notedAt (g.addr q x y) = false → pageOf (g.addr q x y) ∉ [Pg.survey] →
    c.rd q g x y = b.rd q g x y
  ctrs : ∀ p i, i < 0x1000 → p ≠ Pg.hif ∨ i ≠ HIF_TEL_DROP → c.ctr p i = b.ctr p i
  net : c.net = b.net
  flips : c.cairn.flips = b.cairn.flips
  sch : c.sch = b.sch
  hbm : c.hbm = b.hbm
  ev : c.svy.ev = b.svy.ev

namespace Body.Unseen

variable {b c d : Body}

theorem refl (b : Body) : Unseen b b := ⟨fun _ _ _ _ _ _ _ => rfl, fun _ _ _ _ => rfl, rfl, rfl, rfl, rfl, rfl⟩

theorem trans (h : Unseen b c) (h' : Unseen c d) : Unseen b d where
  regs q g x y hg hq hp := (h'.regs q g x y hg hq hp).trans (h.regs q g x y hg hq hp)
  ctrs p i hi hp := (h'.ctrs p i hi hp).trans (h.ctrs p i hi hp)
  net := h'.net.trans h.net
  flips := h'.flips.trans h.flips
  sch := h'.sch.trans h.sch
  hbm := h'.hbm.trans h.hbm
  ev := h'.ev.trans h.ev

/-- An effect on memory, on what the rings hold and on what Survey has counted. -/
theorem of_eq (hregs : c.regs = b.regs) (hctrs : c.ctrs = b.ctrs) (hnet : c.net = b.net) (hcairn : c.cairn = b.cairn) (hsch : c.sch = b.sch)
    (hhbm : c.hbm = b.hbm) (hev : c.svy.ev = b.svy.ev) : Unseen b c where
  regs _ _ _ _ _ _ _ := by simp only [Body.rd, hregs]
  ctrs p i _ _ := ctr_of_ctrs hctrs p i
  net := hnet
  flips := by rw [hcairn]
  sch := hsch
  hbm := hhbm
  ev := hev

/-- An effect that keeps every page but Survey's. -/
theorem of_keeps (h : Keeps [Pg.survey] b c) (hnet : c.net = b.net) (hcairn : c.cairn = b.cairn) (hsch : c.sch = b.sch) (hhbm : c.hbm = b.hbm)
    (hsvy : c.svy = b.svy) : Unseen b c where
  regs := h.regs
  ctrs p i _ _ := ctr_of_ctrs h.ctrs p i
  net := hnet
  flips := by rw [hcairn]
  sch := hsch
  hbm := hhbm
  ev := by rw [hsvy]

theorem wr {f : Fld} {v i : Nat} (hf : f.lo < 32) (hp : pageOf (f.addr Pg.survey i 0) = Pg.survey) :
    Unseen b (b.wr Pg.survey f v i) :=
  of_keeps ((Keeps.refl b).wr hf (List.mem_singleton.2 hp)) rfl rfl rfl rfl rfl

theorem fire {e : Nat} (he : e < 32) : Unseen b (b.fire Pg.survey e) :=
  of_keeps ((Keeps.refl b).fire he rfl (List.mem_singleton.2 rfl)) (by simp) (by simp) (by simp) (by simp) (by simp)

/-- A register outside the pages of the ICU, the FMU and Survey. -/
theorem rd (h : Unseen b c) {q : Nat} {g : Fld} {x y : Nat} (hg : g.lo < 32) (ha : g.addr q x y < 0x4000 ∨ 0x8000 ≤ g.addr q x y) :
    c.rd q g x y = b.rd q g x y := by
  refine h.regs q g x y hg (notedAt_page (by omega) (by omega) (by omega)) fun hp => ?_
  have := List.mem_singleton.1 hp
  simp only [pageOf, Pg.survey] at this
  omega

/-- A register of a page beyond the device-wide ones. -/
theorem rd_above (h : Unseen b c) {q : Nat} {g : Fld} {x y : Nat} (hg : g.lo < 32) (hq : 0x8000 ≤ q) : c.rd q g x y = b.rd q g x y :=
  h.rd hg (.inr (by unfold Fld.addr; omega))

/-- Every count of occurrences or bytes stands. -/
theorem svyTotal (h : Unseen b c) (blk inst ev : Nat) : c.svyTotal blk inst ev = b.svyTotal blk inst ev := by
  have hctr : ∀ p i, i < 0x1000 → i ≠ HIF_TEL_DROP → c.ctr p i = b.ctr p i := fun p i hi hn => h.ctrs p i hi (.inr hn)
  have hprofs : ∀ l : List Nat, (∀ i ∈ l, i < 16) →
      (List.range 64).foldl (fun n p => l.foldl (fun n i => n + c.ctr Pg.chmPC (16 * p + i)) n) 0 =
        (List.range 64).foldl (fun n p => l.foldl (fun n i => n + b.ctr Pg.chmPC (16 * p + i)) n) 0 := by
    refine fun l hl => List.foldl_ext _ _ _ fun n p hp => List.foldl_ext _ _ _ fun n i hi => ?_
    have := hl i hi
    have := List.mem_range.1 hp
    rw [h.ctrs _ _ (by omega) (.inl (by decide))]
  have hdrops : (List.range 64).foldl (fun n i => (List.range 4).foldl (fun n p => n + c.ctr (Pg.lane (64 * inst + i)) (ENT_DROP p)) n) 0 =
      (List.range 64).foldl (fun n i => (List.range 4).foldl (fun n p => n + b.ctr (Pg.lane (64 * inst + i)) (ENT_DROP p)) n) 0 := by
    refine List.foldl_ext _ _ _ fun n i _ => List.foldl_ext _ _ _ fun n p hp => ?_
    have := List.mem_range.1 hp
    rw [hctr _ _ (by unfold ENT_DROP; omega) (by unfold ENT_DROP HIF_TEL_DROP; omega)]
  have hwakes : (List.range 3).foldl (fun n i => n + c.ctr (Pg.galPower inst) (GAL_WAKE_DOZE + i)) 0 =
      (List.range 3).foldl (fun n i => n + b.ctr (Pg.galPower inst) (GAL_WAKE_DOZE + i)) 0 := by
    refine List.foldl_ext _ _ _ fun n i hi => ?_
    have := List.mem_range.1 hi
    rw [hctr _ _ (by unfold GAL_WAKE_DOZE; omega) (by unfold GAL_WAKE_DOZE HIF_TEL_DROP; omega)]
  have hjobs : (if ev ≤ 1 then c.ctr (Pg.ring inst) (RING_JOBS + ev) else 0) =
      if ev ≤ 1 then b.ctr (Pg.ring inst) (RING_JOBS + ev) else 0 :=
    if_ctx_congr .rfl (fun hev => hctr _ _ (by unfold RING_JOBS; omega) (by unfold RING_JOBS HIF_TEL_DROP; omega)) fun _ => rfl
  unfold Body.svyTotal
  simp (disch := decide) only [h.ev, h.flips, hprofs, hdrops, hwakes, hjobs, hctr]

/-- Every condition that lasts stands. -/
theorem svyCond (h : Unseen b c) (blk inst ev : Nat) : c.svyCond blk inst ev = b.svyCond blk inst ev := by
  have hlane : ∀ l (f : Fld), f.lo < 32 → c.prd l f = b.prd l f := fun l f hf =>
    h.rd_above hf (by unfold Pg.lane Pg.gallery; omega)
  have hload : c.on (Pg.preclass inst) R.ENT_OVERLOAD = b.on (Pg.preclass inst) R.ENT_OVERLOAD := by
    unfold Body.on
    rw [h.rd_above (by decide) (by unfold Pg.preclass Pg.gallery; omega)]
  have hgal : c.galState inst = b.galState inst := h.rd_above (by decide) (by unfold Pg.galPower Pg.gallery; omega)
  have hthread : ∀ t, c.tst t = b.tst t := fun t => h.rd_above (by decide) (by unfold Pg.core; omega)
  have hslots : ((List.range 8).any fun n => c.crd R.CAIRN_STATE n == CS_PENDING) =
      (List.range 8).any fun n => b.crd R.CAIRN_STATE n == CS_PENDING := by
    rw [Bool.eq_iff_iff, List.any_eq_true, List.any_eq_true]
    refine exists_congr fun n => and_congr_right fun hn => ?_
    have := List.mem_range.1 hn
    rw [crd, h.rd (by decide) (.inl (by simp only [Fld.addr, Pg.cairn, R.CAIRN_STATE]; omega)), ← crd]
  unfold Body.svyCond portUp
  simp (disch := decide) only [h.net, h.sch, h.hbm, hlane, hload, hgal, hthread, hslots]

theorem svyDelta (h : Unseen b c) (e : Nat) : Body.svyDelta b c e = 0 := by
  rw [← b.svyDelta_self e]
  simp only [Body.svyDelta, h.svyTotal, h.svyCond]

/-- No pool's level moves. -/
theorem poolNote (h : Unseen b c) : Body.poolNote b c = c := by
  have hpool : ∀ n (f : Fld), f.lo < 32 → c.prd' n f = b.prd' n f := fun n f hf => h.rd_above hf (by unfold Pg.pool; omega)
  have hlevel : ∀ n, c.poolLevel n = b.poolLevel n := fun n => by
    simp (disch := decide) only [poolLevel, hpool]
  simp [Body.poolNote, levelMoved, hlevel]

/-- Such an effect entails nothing. -/
theorem note (h : Unseen b c) : Body.note b c = c := by
  unfold Body.note svyNote
  rw [h.poolNote]
  split_ifs
  · rfl
  · exact foldl_id _ _ _ fun e => by simp [h.svyDelta]

end Body.Unseen

/-- The engine has the body that such an effect leaves. -/
theorem State.withBody_unseen {s : State} {c : Body} (h : Body.Unseen s.dev.body c) : (s.withBody c).dev.body = c := by
  rw [State.withBody, Dev.after_body, h.note]

/-- An event of the Survey page is told, and no entry changes. -/
theorem State.withBody_surveyEvent (s : State) {e : Nat} (he : e < 32) :
    (s.withBody (s.dev.body.fire Pg.survey e)).evt Pg.survey e ∧ (s.withBody (s.dev.body.fire Pg.survey e)).dev.body.tbls = s.dev.body.tbls := by
  rw [State.evt, State.reg, State.withBody_unseen (.fire he)]
  exact ⟨Body.fire_pend _ he rfl, by simp⟩


/-! A configuration (R470, R475). -/

/-- A bit set to 0 is 0. -/
theorem bitOn_setBitField_zero (v n : Nat) : bitOn (setBitField v n n 0) n = false := by
  have hquot : setBitField v n n 0 / 2 ^ n = v / 2 ^ n - v / 2 ^ n % 2 := by
    rw [setBitField, bitField, Nat.zero_mod, Nat.zero_mul, Nat.add_zero, Nat.mul_comm, Nat.sub_mul_div, Nat.add_sub_cancel_left, Nat.pow_one]
  rw [bitOn, hquot, beq_eq_false_iff_ne]
  omega

theorem setBitField_zero_le (v n : Nat) : setBitField v n n 0 ≤ v := by
  rw [setBitField, Nat.zero_mod, Nat.zero_mul, Nat.add_zero]
  exact Nat.sub_le ..

namespace Body

variable {b : Body} {m i v : Nat}

/-- A master may configure a counter: it is no customer's thread, or the counter's mask bit is set (R475). -/
def svyGranted (b : Body) (m i : Nat) : Prop :=
  Master.isCustomer m = false ∨ bitOn (b.rd Pg.survey R.SVY_USER_CFG (i / 32)) (i % 32) = true

/-- The body with counter `i` configured: its counts and its wrap bit are zero (R470). -/
def svyConfigured (b : Body) (i v : Nat) : Body :=
  let c := b.putEnt Tbl.svy i v
  (({ c with svy := { c.svy with cnt := Sp.del c.svy.cnt i, last := Sp.del c.svy.last i } }).wr Pg.survey R.SVY_WRAP
    (setBitField (b.rd Pg.survey R.SVY_WRAP (i / 32)) (i % 32) (i % 32) 0) (i / 32)).discardOld (.ent Tbl.svy i)

theorem svyConfig_denied (h : ¬ b.svyGranted m i) : b.svyConfig m i v = b.fire Pg.survey R.SVY_EVT_DENIED := by
  rw [svyGranted, not_or, Bool.not_eq_false] at h
  exact if_pos h

theorem svyConfig_granted (h : b.svyGranted m i) (hslot : b.boundSlot m = none) : b.svyConfig m i v = (b.entWrite Tbl.svy i v).1 := by
  have hnot : ¬ (Master.isCustomer m ∧ ¬ bitOn (b.rd Pg.survey R.SVY_USER_CFG (i / 32)) (i % 32)) := fun hd =>
    h.elim (fun hc => by simp [hc] at hd) hd.2
  rw [svyConfig, if_neg hnot, entPutBy, hslot]

/-- What the rules of R470 say to a configuration. -/
theorem entRefused_svy (c : Body) : entRefused b c Tbl.svy i v = if svyOk v = true then [] else [(Pg.survey, R.SVY_EVT_BADCFG)] := by
  cases h : svyOk v <;> simp [entRefused, Tbl.svy, h]

theorem svyConfig_refused (h : b.svyGranted m i) (hslot : b.boundSlot m = none) (hok : svyOk v = false) :
    b.svyConfig m i v = b.fire Pg.survey R.SVY_EVT_BADCFG := by
  rw [svyConfig_granted h hslot, entWrite, entRefused_svy, hok]
  rfl

theorem svyConfig_taken (h : b.svyGranted m i) (hslot : b.boundSlot m = none) (hok : svyOk v = true) :
    b.svyConfig m i v = b.svyConfigured i v := by
  rw [svyConfig_granted h hslot, entWrite, entRefused_svy, hok]
  rfl

theorem unseen_svyConfigured (b : Body) (i v : Nat) (hi : i < 64) : Unseen b (b.svyConfigured i v) where
  regs _ _ _ _ hg _ hp := b.rd_wr_ne _ (by decide) hg (.inl fun e => hp (by
    rw [e]
    simp only [Fld.addr, pageOf, Pg.survey, R.SVY_WRAP, List.mem_singleton]
    omega))
  ctrs _ _ _ _ := rfl
  net := rfl
  flips := rfl
  sch := rfl
  hbm := rfl
  ev := rfl

/-- What an accepted configuration leaves. -/
theorem svyConfigured_spec (b : Body) (i v : Nat) :
    let c := b.svyConfigured i v
    c.ent Tbl.svy i = v ∧ c.svyCount i = 0 ∧ Sp.get 0 c.svy.last i = 0 ∧ bitOn (c.rd Pg.survey R.SVY_WRAP (i / 32)) (i % 32) = false ∧
    ∀ j, j ≠ i → c.svyCount j = b.svyCount j := by
  refine ⟨Sp.get_set_self .., Sp.get_del_self .., Sp.get_del_self .., ?_, fun j hj => Sp.get_del_of_ne _ _ hj⟩
  have hwrap : (b.svyConfigured i v).rd Pg.survey R.SVY_WRAP (i / 32) =
      setBitField (b.rd Pg.survey R.SVY_WRAP (i / 32)) (i % 32) (i % 32) 0 :=
    (b.rd_wr_self ..).trans (Nat.mod_eq_of_lt ((setBitField_zero_le ..).trans_lt (b.rd_lt ..)))
  rw [hwrap, bitOn_setBitField_zero]

end Body

theorem exec_svyConfig {s : State} {m i v : Nat} (hi : i < 64) (hv : v < 2 ^ 128) (h : s.reaches m Pg.survey) :
    exec (.svyConfig i m v) s = .next (s.withBody (s.dev.body.svyConfig m i v)) :=
  State.live_withBody (by simp only [hi, hv, h.known, decide_true, Bool.and_true]) h.runs
    (Dev.on_eq _ (if_pos (by rw [h.bar0, h.reach]; rfl)))

/-! A window end (R473). -/

namespace Body

variable {b c : Body} {n type : Nat} {l : List Byte}

/-- What a record that a telemetry ring takes changes: host memory, and what the ring holds. -/
theorem telRecord_eq_some (h : b.telRecord n type l = some c) : ∃ mem host, c = { b with mem := mem, host := host } := by
  unfold telRecord at h
  dsimp only at h
  split_ifs at h
  · exact ⟨_, _, (Option.some.inj h).symm⟩
  · exact ⟨_, _, (Option.some.inj h).symm⟩

/-- The bytes of a record's entry (R443). -/
def telEntry (type : Nat) (l : List Byte) : List Byte :=
  leBytes 1 type ++ [0] ++ leBytes 2 l.length ++ l ++ List.replicate (60 - l.length) 0

/-- A record that a running ring with room takes while DMA runs is written at the ring's front (R443). -/
theorem telRecord_written (hn : n < 240) (hrun : b.ringRuns n KIND_TEL = true) (hdma : b.dmaOk = true) (htel : (b.run n).tel = [])
    (hleft : b.ringLeft n ≠ 0) :
    ∃ host, b.telRecord n type l = some { b.hostWrite (b.entryAddr n (b.ringFront n)) (telEntry type l) with host := host } := by
  have htakes : ¬ (239 < n ∨ ¬ b.ringRuns n KIND_TEL = true) := not_or.2 ⟨by omega, not_not.2 hrun⟩
  have hroom : ¬ b.ringLeft n ≤ (b.run n).tel.length := by
    rw [htel, List.length_nil]
    omega
  unfold telRecord
  dsimp only
  rw [if_neg htakes, if_neg hroom, if_pos ⟨hdma, htel⟩]
  exact ⟨_, rfl⟩

/-- A record that is offered changes host memory and its ring alone, or is counted as dropped. -/
theorem telSend_cases (b : Body) (n type : Nat) (l : List Byte) :
    (∃ mem host, b.telSend n type l = { b with mem := mem, host := host }) ∨ b.telSend n type l = b.count Pg.hif HIF_TEL_DROP := by
  unfold telSend
  split_ifs
  · exact .inl ⟨b.mem, b.host, rfl⟩
  · split
    · rename_i h
      exact .inl (telRecord_eq_some h)
    · exact .inr rfl

theorem telSend_spec (b : Body) (n type : Nat) (l : List Byte) :
    (b.telSend n type l).svy = b.svy ∧ Unseen b (b.telSend n type l) := by
  rcases b.telSend_cases n type l with ⟨mem, host, h⟩ | h
  · rw [h]
    exact ⟨rfl, .of_eq rfl rfl rfl rfl rfl rfl rfl⟩
  · rw [h]
    refine ⟨rfl, fun _ _ _ _ _ _ _ => rfl, fun p i hi hp => ?_, rfl, rfl, rfl, rfl, rfl⟩
    rw [ctr_count _ _ _ _ _ _ (by decide) hi, if_neg (by tauto)]

theorem svyTel_spec (b : Body) (i : Nat) : (b.svyTel i).svy = b.svy ∧ Unseen b (b.svyTel i) := by
  unfold svyTel
  split_ifs
  · exact b.telSend_spec ..
  · exact ⟨rfl, .refl b⟩

/-- The record of a counter (R488). -/
def svyRecord (b : Body) (i : Nat) : List Byte :=
  leBytes 1 i ++ leBytes 3 0 ++ leBytes 8 (Sp.get 0 b.svy.last i) ++ timeBytes b.tod ++ leBytes 38 0

/-- The record of a counter reaches a telemetry ring with room. -/
theorem svyTel_written {i : Nat} (hen : b.rd Pg.survey R.SVY_TEL_EN = 1) (hsel : bitOn (b.rd Pg.survey R.SVY_TELSEL (i / 32)) (i % 32) = true)
    (hring : b.rd Pg.survey R.SVY_TEL_RING = n) (hn : n < 240) (hrun : b.ringRuns n KIND_TEL = true) (hdma : b.dmaOk = true)
    (htel : (b.run n).tel = []) (hleft : b.ringLeft n ≠ 0) :
    (b.svyTel i).mem.host = Mem.write b.mem.host (b.entryAddr n (b.ringFront n) % 2 ^ 64) (telEntry 0x11 (b.svyRecord i)) := by
  have hon : b.on Pg.survey R.SVY_TEL_EN = true := by rw [on, hen]; rfl
  have hsend : b.svyTel i = b.telSend n 0x11 (b.svyRecord i) := by rw [svyTel, if_pos ⟨hon, hsel⟩, hring, svyRecord]
  obtain ⟨host, hrec⟩ := telRecord_written (type := 0x11) (l := b.svyRecord i) hn hrun hdma htel hleft
  rw [hsend, telSend, if_neg (by omega), hrec, hostWrite]

/-- The count of a WINDOW counter moves, and starts again. -/
def windowMoved (b : Body) (i : Nat) : Body :=
  { b with svy := { b.svy with last := Sp.set 0 b.svy.last i (b.svyCount i), cnt := Sp.del b.svy.cnt i } }

/-- What a window end does for one WINDOW counter. -/
def windowStep (run : Bool) (b : Body) (e : Nat × Nat) : Body := (if run then b.windowMoved e.1 else b).svyTel e.1

/-- The window in progress is over. -/
def windowOver (b : Body) : Body := { b with svy := { b.svy with winDue := false, win := b.rd Pg.survey R.SVY_WIN_US } }

/-- The counters that are on in WINDOW, with their configurations. -/
def svyWindows (b : Body) : List (Nat × Nat) := b.svyOn.filter fun e => svyMode e.2 == 2

theorem svyWindow_eq (b : Body) : b.svyWindow =
    (b.svyWindows.foldl (windowStep (b.rd Pg.survey R.SVY_RUN == 1)) b.windowOver).fire Pg.survey R.SVY_EVT_WINDOW := rfl

theorem svyWindowEnd_idle (h : b.svy.winDue = false) : b.svyWindowEnd = b := by simp [svyWindowEnd, h]

theorem svyWindowEnd_due (h : b.svy.winDue = true) : b.svyWindowEnd = b.svyWindow := if_pos h

/-- The counters that are on are listed once each. -/
theorem svyOn_nodup (b : Body) : (b.svyOn.map (·.1)).Nodup := by
  have hidxs : (b.entIdxs Tbl.svy).Nodup := by
    refine List.Pairwise.imp (fun h => Nat.ne_of_lt h) (?_ : (b.entIdxs Tbl.svy).Pairwise (· < ·))
    exact List.foldrRecOn (motive := fun l : List Nat => l.Pairwise (· < ·)) _ _ .nil fun _ h _ _ => insertNat_rising h
  have hsub : (b.svyOn.map (·.1)).Sublist (((b.entIdxs Tbl.svy).filter (· < 64)).map fun i => i) := by
    have := (List.filter_sublist (p := fun e => svyEn e.2)
      (l := ((b.entIdxs Tbl.svy).filter (· < 64)).map fun i => (i, b.ent Tbl.svy i))).map Prod.fst
    rwa [List.map_map] at this
  rw [List.map_id'] at hsub
  exact (hsub.trans List.filter_sublist).nodup hidxs

theorem windowStep_svy (run : Bool) (b : Body) (e : Nat × Nat) :
    (windowStep run b e).svy = if run then (b.windowMoved e.1).svy else b.svy := by
  rw [windowStep, (svyTel_spec _ _).1]
  split_ifs <;> rfl

theorem unseen_windowMoved (b : Body) (i : Nat) : Unseen b (b.windowMoved i) :=
  .of_eq rfl rfl rfl rfl rfl rfl rfl

theorem unseen_windowStep (run : Bool) (b : Body) (e : Nat × Nat) : Unseen b (windowStep run b e) := by
  refine Unseen.trans (c := if run then b.windowMoved e.1 else b) ?_ (svyTel_spec _ _).2
  split_ifs
  · exact b.unseen_windowMoved e.1
  · exact .refl b

theorem unseen_svyWindow (b : Body) : Unseen b b.svyWindow := by
  rw [svyWindow_eq]
  refine Unseen.trans (foldl_keeps (Unseen b) _ (fun c e h => h.trans (unseen_windowStep _ c e)) _ _ ?_) (.fire (by decide))
  exact .of_eq rfl rfl rfl rfl rfl rfl rfl

theorem svyWindow_evt (b : Body) : b.svyWindow.rd Pg.survey (evtPend R.SVY_EVT_WINDOW) = 1 := by
  rw [svyWindow_eq]
  exact fire_pend _ (by decide) rfl

/-- With SVY_RUN = 0 every count holds. -/
theorem svyWindow_held (h : b.rd Pg.survey R.SVY_RUN = 0) : b.svyWindow.svy = b.windowOver.svy := by
  rw [svyWindow_eq, h]
  simp only [fire_rest]
  exact foldl_same Body.svy _ (fun c e => windowStep_svy _ c e) _ _

/-- The counts after a window end has moved one counter's. -/
theorem windowStep_true (b : Body) (e : Nat × Nat) (i : Nat) :
    (windowStep true b e).svyCount i = Sp.get 0 (Sp.del b.svy.cnt e.1) i ∧
    Sp.get 0 (windowStep true b e).svy.last i = Sp.get 0 (Sp.set 0 b.svy.last e.1 (b.svyCount e.1)) i := by
  rw [svyCount, windowStep_svy]
  exact ⟨rfl, rfl⟩

/-- A counter that a window end does not name keeps its counts. -/
theorem windowStep_foldl_other {i : Nat} (l : List (Nat × Nat)) (b : Body) (h : i ∉ l.map (·.1)) :
    (l.foldl (windowStep true) b).svyCount i = b.svyCount i ∧
    Sp.get 0 (l.foldl (windowStep true) b).svy.last i = Sp.get 0 b.svy.last i := by
  induction l generalizing b with
  | nil => exact ⟨rfl, rfl⟩
  | cons e l ih =>
    rw [List.map_cons, List.mem_cons, not_or] at h
    obtain ⟨hcount, hlast⟩ := ih (windowStep true b e) h.2
    rw [List.foldl_cons, hcount, hlast, (windowStep_true b e i).1, (windowStep_true b e i).2]
    exact ⟨Sp.get_del_of_ne _ _ h.1, Sp.get_set_of_ne _ _ _ _ h.1⟩

/-- A counter that a window end names once moves its count and starts again. -/
theorem windowStep_foldl_moved {i : Nat} (l : List (Nat × Nat)) (b : Body) (hl : (l.map (·.1)).Nodup) (hi : i ∈ l.map (·.1)) :
    Sp.get 0 (l.foldl (windowStep true) b).svy.last i = b.svyCount i ∧ (l.foldl (windowStep true) b).svyCount i = 0 := by
  induction l generalizing b with
  | nil => simp at hi
  | cons e l ih =>
    rw [List.map_cons, List.nodup_cons] at hl
    rw [List.foldl_cons]
    by_cases he : i = e.1
    · obtain ⟨hcount, hlast⟩ := windowStep_foldl_other l (windowStep true b e) (he ▸ hl.1)
      rw [hcount, hlast, (windowStep_true b e i).1, (windowStep_true b e i).2, he]
      exact ⟨Sp.get_set_self .., Sp.get_del_self ..⟩
    · rw [List.map_cons, List.mem_cons] at hi
      obtain ⟨hlast, hcount⟩ := ih (windowStep true b e) hl.2 (hi.resolve_left he)
      rw [hcount, hlast, (windowStep_true b e i).1]
      exact ⟨Sp.get_del_of_ne _ _ he, rfl⟩

/-- A window end that is not held: the counts of the WINDOW counters move, the others stand. -/
theorem svyWindow_moved (h : b.rd Pg.survey R.SVY_RUN = 1) (i : Nat) :
    (i ∈ b.svyWindows.map (·.1) → Sp.get 0 b.svyWindow.svy.last i = b.svyCount i ∧ b.svyWindow.svyCount i = 0) ∧
    (i ∉ b.svyWindows.map (·.1) → b.svyWindow.svyCount i = b.svyCount i ∧ Sp.get 0 b.svyWindow.svy.last i = Sp.get 0 b.svy.last i) := by
  have hnodup : (b.svyWindows.map (·.1)).Nodup := (List.filter_sublist.map _).nodup b.svyOn_nodup
  rw [svyWindow_eq, h]
  simp only [svyCount, fire_rest]
  exact ⟨windowStep_foldl_moved b.svyWindows b.windowOver hnodup, windowStep_foldl_other b.svyWindows b.windowOver⟩

end Body

/-! Bytes of a memory beside and within a run that is written. -/

theorem Mem.length_read (m : List Host.Cell) (a n : Nat) : (Mem.read m a n).length = n := by simp [Mem.read]

/-- The first bytes of a run that is written. -/
theorem Mem.read_write_take (m : List Host.Cell) (a : Nat) (l : List Byte) {n : Nat} (hn : n ≤ l.length) :
    Mem.read (Mem.write m a l) a n = l.take n := by
  refine List.ext_getElem (by simp [Mem.length_read, hn]) fun j hj _ => ?_
  rw [Mem.length_read] at hj
  simp only [Mem.read, List.getElem_map, List.getElem_range, List.getElem_take, Mem.get_write]
  rw [if_pos ⟨by omega, by omega⟩, Nat.add_sub_cancel_left]
  exact List.getD_eq_getElem ..

namespace Body

/-- The record that the end of a window writes for the one WINDOW counter there is (R488). -/
theorem svyWindow_record {b : Body} {i e n : Nat} (hon : b.svyOn = [(i, e)]) (hmode : svyMode e = 2) (hsvy : b.rd Pg.survey R.SVY_RUN = 1)
    (hen : b.rd Pg.survey R.SVY_TEL_EN = 1) (hsel : bitOn (b.rd Pg.survey R.SVY_TELSEL (i / 32)) (i % 32) = true)
    (hring : b.rd Pg.survey R.SVY_TEL_RING = n) (hn : n < 240) (hrun : b.ringRuns n KIND_TEL = true) (hdma : b.dmaOk = true)
    (htel : (b.run n).tel = []) (hleft : b.ringLeft n ≠ 0) :
    Mem.read b.svyWindow.mem.host (b.entryAddr n (b.ringFront n) % 2 ^ 64) 16 =
      leBytes 1 0x11 ++ [0] ++ leBytes 2 60 ++ leBytes 1 i ++ leBytes 3 0 ++ leBytes 8 (b.svyCount i) := by
  have hone : b.svyWindows = [(i, e)] := by simp [svyWindows, hon, hmode]
  have hlast : Sp.get 0 (b.windowOver.windowMoved i).svy.last i = b.svyCount i := Sp.get_set_self ..
  have hwritten := svyTel_written (b := b.windowOver.windowMoved i) hen hsel hring hn hrun hdma htel hleft
  rw [svyWindow_eq, hone, hsvy]
  simp only [fire_rest]
  change Mem.read ((b.windowOver.windowMoved i).svyTel i).mem.host _ 16 = _
  rw [hwritten]
  refine (Mem.read_write_take _ _ _ (by decide : 16 ≤ 64)).trans ?_
  rw [svyRecord, hlast]
  rfl

end Body

theorem exec_svyWindowEnd {s : State} (h : s.runs [17]) : exec .svyWindowEnd s = .next (s.withBody s.dev.body.svyWindowEnd) :=
  State.live_withBody rfl h rfl

/-! A latch (R474). -/

namespace Body

variable {b : Body}

/-- The count of a counter copied. -/
def svyCopied (b : Body) (e : Nat × Nat) : Body := { b with svy := { b.svy with last := Sp.set 0 b.svy.last e.1 (b.svyCount e.1) } }

/-- The body with every EDGE and LEVEL count copied. -/
def svyLatched (b : Body) : Body := (b.svyOn.filter fun e => svyMode e.2 != 2).foldl svyCopied b

theorem svyLatch_eq (b : Body) :
    b.svyLatch = (b.svyLatched.wr Pg.survey R.SVY_LATCH_SEC b.svyLatched.todSec).wr Pg.survey R.SVY_LATCH_NS b.svyLatched.todNs := rfl

/-- Copies change what is latched alone, each counter's to its count. -/
theorem svyCopied_foldl (l : List (Nat × Nat)) (b : Body) : ∃ last, l.foldl svyCopied b = { b with svy := { b.svy with last := last } } ∧
    (∀ i ∈ l.map (·.1), Sp.get 0 last i = b.svyCount i) ∧ ∀ i ∉ l.map (·.1), Sp.get 0 last i = Sp.get 0 b.svy.last i := by
  induction l generalizing b with
  | nil => exact ⟨b.svy.last, rfl, by simp, fun _ _ => rfl⟩
  | cons e l ih =>
    obtain ⟨last, heq, hin, hout⟩ := ih (b.svyCopied e)
    refine ⟨last, by rw [List.foldl_cons, heq]; rfl, fun i hi => ?_, fun i hi => ?_⟩
    · by_cases hl : i ∈ l.map (·.1)
      · exact hin i hl
      · rw [List.map_cons, List.mem_cons] at hi
        rw [hout i hl, hi.resolve_right hl]
        exact Sp.get_set_self ..
    · rw [List.map_cons, List.mem_cons, not_or] at hi
      rw [hout i hi.2]
      exact Sp.get_set_of_ne _ _ _ _ hi.1

/-- A counter's configuration is the one that it is listed with. -/
theorem svyOn_ent {e : Nat × Nat} (h : e ∈ b.svyOn) : e.2 = b.ent Tbl.svy e.1 := by
  simp only [svyOn, List.mem_filter, List.mem_map] at h
  obtain ⟨⟨i, -, rfl⟩, -⟩ := h
  rfl

/-- What a latch leaves. -/
theorem svyLatch_spec (b : Body) :
    let c := b.svyLatch
    (∀ e ∈ b.svyOn, svyMode e.2 ≠ 2 → Sp.get 0 c.svy.last e.1 = b.svyCount e.1) ∧
    (∀ e ∈ b.svyOn, svyMode e.2 = 2 → Sp.get 0 c.svy.last e.1 = Sp.get 0 b.svy.last e.1) ∧ c.svy.cnt = b.svy.cnt ∧
    c.rd Pg.survey R.SVY_LATCH_SEC = b.todSec % 2 ^ 32 ∧ c.rd Pg.survey R.SVY_LATCH_NS = b.todNs % 2 ^ 30 ∧
    Keeps [Pg.survey] b c ∧ Unseen b c := by
  obtain ⟨last, heq, hin, hout⟩ := svyCopied_foldl (b.svyOn.filter fun e => svyMode e.2 != 2) b
  have hkeeps : Keeps [Pg.survey] b b.svyLatched := by
    rw [svyLatched, heq]
    exact (Keeps.refl b).of_eq rfl rfl rfl rfl
  have hunseen : Unseen b b.svyLatched := by
    rw [svyLatched, heq]
    exact .of_eq rfl rfl rfl rfl rfl rfl rfl
  have hsvy : b.svyLatch.svy = { b.svy with last := last } := by
    rw [svyLatch_eq, svyLatched, heq]
    rfl
  have htod : b.svyLatched.todSec = b.todSec ∧ b.svyLatched.todNs = b.todNs := by
    rw [svyLatched, heq]
    exact ⟨rfl, rfl⟩
  dsimp only
  rw [hsvy, svyLatch_eq, htod.1, htod.2]
  refine ⟨fun e he hmode => ?_, fun e he hmode => ?_, rfl, ?_, ?_, ?_, ?_⟩
  · exact hin _ (List.mem_map_of_mem (List.mem_filter.2 ⟨he, bne_iff_ne.2 hmode⟩))
  · refine hout _ fun hmem => ?_
    obtain ⟨x, hx, hxe⟩ := List.mem_map.1 hmem
    obtain ⟨hxon, hxmode⟩ := List.mem_filter.1 hx
    rw [svyOn_ent hxon, hxe, ← svyOn_ent he, hmode] at hxmode
    exact absurd hxmode (by decide)
  · rw [rd_wr_ne _ _ (by decide) (by decide) (.inl (by decide)), rd_wr_self]
    rfl
  · rw [rd_wr_self]
    rfl
  · exact (hkeeps.wr (by decide) (by decide)).wr (by decide) (by decide)
  · exact (hunseen.trans (.wr (by decide) (by decide))).trans (.wr (by decide) (by decide))

end Body

/-- What a latch leaves after a write that changes nothing else that shows. -/
theorem Body.Shown.svyLatch {b c : Body} (h : Body.Shown Pg.survey 0x80 (PK.survey.fieldsAt 0x80) b c) :
    (∀ e ∈ b.svyOn, svyMode e.2 ≠ 2 → Sp.get 0 c.svyLatch.svy.last e.1 = b.svyCount e.1) ∧
    (∀ e ∈ b.svyOn, svyMode e.2 = 2 → Sp.get 0 c.svyLatch.svy.last e.1 = Sp.get 0 b.svy.last e.1) ∧ c.svyLatch.svy.cnt = b.svy.cnt ∧
    c.svyLatch.rd Pg.survey R.SVY_LATCH_SEC = b.todSec % 2 ^ 32 ∧ c.svyLatch.rd Pg.survey R.SVY_LATCH_NS = b.todNs % 2 ^ 30 ∧
    Body.Keeps [Pg.survey] b c.svyLatch ∧ Body.Unseen b c.svyLatch := by
  have hkept : Body.Keeps [Pg.survey] b c := h.keeps pageIs_survey (by decide) (List.mem_singleton.2 rfl)
  have hunseen : Body.Unseen b c := .of_keeps hkept (by rw [h.only]) (by rw [h.only]) (by rw [h.only]) (by rw [h.only]) (by rw [h.only])
  have hrest : c.svyOn = b.svyOn ∧ c.svyCount = b.svyCount ∧ c.svy = b.svy ∧ c.todSec = b.todSec ∧ c.todNs = b.todNs := by
    rw [h.only]
    exact ⟨rfl, rfl, rfl, rfl, rfl⟩
  obtain ⟨hon, hcount, hsvy, hsec, hns⟩ := hrest
  obtain ⟨hcopied, hheld, hcnt, hlatchSec, hlatchNs, hkeeps, hseen⟩ := c.svyLatch_spec
  rw [hon] at hcopied hheld
  rw [hcount] at hcopied
  rw [hsvy] at hheld hcnt
  rw [hsec] at hlatchSec
  rw [hns] at hlatchNs
  exact ⟨hcopied, hheld, hcnt, hlatchSec, hlatchNs, hkept.trans hkeeps, hunseen.trans hseen⟩

/-- A write of SVY_LATCH by a master that is no customer's thread is a latch, the page's other fields as they stand. -/
theorem exec_svyLatch {s : State} {m : Nat} (hm : Master.isCustomer m = false) (h : s.takes m (Pg.survey + 0x80)) :
    ∃ c, Body.Shown Pg.survey 0x80 (PK.survey.fieldsAt 0x80) s.dev.body c ∧ exec (.svyLatch m) s = .next (s.withBody c.svyLatch) := by
  have hfield : (fieldAt (Pg.survey + 0x80) R.SVY_LATCH).isSome = true := by
    rw [pageIs_survey.fieldAt (by decide) (by decide)]
    decide
  have hrwl : ((fieldsOf (Pg.survey + 0x80)).filter fun x => x.1.acc == .rwl) = [] := by
    rw [pageIs_survey.fieldsOf (by decide) (by decide)]
    decide
  obtain ⟨c, hshown, hput⟩ := Dev.put_go (v := 1) (i := 0) (f := R.SVY_LATCH) (act := Body.svyLatch) h pageIs_survey (by decide) (by decide)
    (by decide) (by decide) (by decide) rfl (by decide) fun w lk hw _ => by
      simp only [Body.pageStore, Body.storeSvy, hm, Bool.false_eq_true, if_false, Body.storeRwl, hrwl]
      exact Body.takeGo_act _ _ hfield hw
  exact ⟨c, hshown, State.live_withBody h.known h.runs hput⟩

/-! Numbers as bytes. -/

theorem length_leBytes (n v : Nat) : (leBytes n v).length = n := by
  induction n generalizing v with
  | zero => rfl
  | succ n ih => rw [leBytes, List.length_cons, ih]

theorem leNat_leBytes (n v : Nat) : leNat (leBytes n v) = v % 256 ^ n := by
  induction n generalizing v with
  | zero => rw [leBytes, leNat, Nat.pow_zero, Nat.mod_one]
  | succ n ih =>
    have hsplit : v % 256 ^ (n + 1) = v % 256 + 256 * (v / 256 % 256 ^ n) := by rw [Nat.pow_succ', Nat.mod_mul]
    rw [leBytes, leNat, ih, BitVec.toNat_ofNat, hsplit]

/-- The bytes of a number in two parts. -/
theorem leBytes_add (n k v : Nat) : leBytes (n + k) v = leBytes n v ++ leBytes k (v / 256 ^ n) := by
  induction n generalizing v with
  | zero => simp [leBytes]
  | succ n ih => rw [Nat.succ_add, leBytes, leBytes, ih, List.cons_append, Nat.div_div_eq_div_mul, Nat.pow_succ']

/-- A run of bytes read in two parts. -/
theorem Mem.read_add (m : List Host.Cell) (a n k : Nat) : Mem.read m a (n + k) = Mem.read m a n ++ Mem.read m (a + n) k := by
  simp [Mem.read, List.range_add, Nat.add_assoc]

/-- A run of bytes beside one that is written. -/
theorem Mem.read_write_beside (m : List Host.Cell) (a c n : Nat) (l : List Byte) (h : c + n ≤ a ∨ a + l.length ≤ c) :
    Mem.read (Mem.write m a l) c n = Mem.read m c n := by
  refine List.map_congr_left fun i hi => ?_
  have := List.mem_range.1 hi
  rw [Mem.get_write, if_neg (by omega)]

/-! The Sump's bytes under the accesses to a counter pair's line. -/

/-- The line of a counter pair. -/
def pairLine (k : Nat) : Nat := Sump.pairAddr k / 64 * 64

namespace Body

variable (b : Body)

theorem hbmDrainUpdate_mem (s pc : Nat) : (b.hbmDrainUpdate s pc).mem = b.mem := by
  unfold hbmDrainUpdate hbmCount
  dsimp only
  split_ifs <;> rfl

theorem hbmPanicUpdate_mem (s : Nat) : (b.hbmPanicUpdate s).mem = b.mem := by
  unfold hbmPanicUpdate hbmCount
  dsimp only
  split_ifs <;> simp

theorem hbmPut_mem (port : Nat) (wr : Bool) (a : Nat) : (b.hbmPut port wr a).mem = b.mem := by
  unfold hbmPut
  dsimp only
  split_ifs <;> simp [hbmPanicUpdate_mem, hbmDrainUpdate_mem]

theorem lineError_mem (port a : Nat) : (b.lineError port a).mem = b.mem := by
  unfold lineError hbmCount
  dsimp only
  split_ifs <;> simp

/-- A line outside the side records takes nothing else from an armed injection but its error (R352). -/
theorem lineWritten_mem (port : Nat) {a : Nat} (ha : Sump.statBase ≤ a) : (b.lineWritten port a).mem = b.mem := by
  have hside : ¬ (decide (Sump.sideBase ≤ a ∧ a < Sump.statBase) = true ∧ a % 128 = 64) := fun h => by
    have := (of_decide_eq_true h.1).2
    omega
  unfold lineWritten
  dsimp only
  split
  · rfl
  · rfl
  · rw [if_neg hside]
  · rfl

theorem pairLine_stat (k : Nat) : Sump.statBase ≤ pairLine k := by
  unfold pairLine Sump.pairAddr Sump.statBase
  omega

variable {b} {k : Nat}

/-- A pair lies in one line. -/
theorem linesOf_pair (k : Nat) : linesOf (Sump.pairAddr k) 16 = [pairLine k] := by
  have hone : (Sump.pairAddr k + 16 - 1) / 64 - Sump.pairAddr k / 64 + 1 = 1 := by
    unfold Sump.pairAddr Sump.statBase
    omega
  rw [linesOf, if_neg (by decide), hone, pairLine]
  simp

theorem pairAddr_inside (hk : k < 2 ^ 30) : ¬ Sump.scratchEnd ≤ Sump.pairAddr k := by
  unfold Sump.scratchEnd Sump.pairAddr Sump.statBase
  omega

/-- A write of a pair's bytes. -/
theorem sumpWrite_pair_mem (hk : k < 2 ^ 30) {l : List Byte} (hl : l.length = 16) :
    (b.sumpWrite 3 (Sump.pairAddr k) l).mem.sump = Mem.write b.mem.sump (Sump.pairAddr k) l := by
  rw [sumpWrite, if_neg (pairAddr_inside hk), hl, linesOf_pair, List.foldl_cons, List.foldl_nil, lineWritten_mem _ _ (pairLine_stat k), hbmPut_mem]

/-- An access to the Sump leaves the statistics cache as it was. -/
theorem stat_ofSump {c : Body} (h : OfSump b c) : c.stat = b.stat := by
  obtain ⟨-, -, -, -, -, -, -, -, hstat, -⟩ := h.parts
  exact hstat

/-- A read of a pair's bytes finds its line uncorrectable, or its bytes, and leaves all memory and the statistics cache as they were. -/
theorem sumpRead_pair (hk : k < 2 ^ 30) : ∃ c, b.sumpRead 3 (Sump.pairAddr k) 16 =
    (c, Mem.read b.mem.sump (Sump.pairAddr k) 16, b.lineBad (pairLine k)) ∧ c.mem = b.mem ∧ c.stat = b.stat := by
  have hmem : (b.sumpRead 3 (Sump.pairAddr k) 16).1.mem = b.mem :=
    foldl_same Body.mem _ (fun c a => (lineError_mem _ _ _).trans (hbmPut_mem _ _ _ _)) _ _
  have hread : ((b.hbmPut 3 false (pairLine k)).lineError 3 (pairLine k)).mem = b.mem := (lineError_mem _ _ _).trans (hbmPut_mem _ _ _ _)
  refine ⟨(b.sumpRead 3 (Sump.pairAddr k) 16).1, ?_, hmem, stat_ofSump (b.ofSump_sumpRead ..)⟩
  simp only [sumpRead, linesOf_pair, List.foldl_cons, List.foldl_nil, List.any_cons, List.any_nil, Bool.or_false, if_neg (pairAddr_inside hk), hread]

/-- The pair in a memory. -/
theorem pairMem_of_sump {c : Body} (h : c.mem.sump = b.mem.sump) (k : Nat) : c.pairMem k = b.pairMem k := by rw [pairMem, pairMem, h]

/-- The bytes of a pair, read together. -/
theorem pairMem_eq (b : Body) (k : Nat) : b.pairMem k = (leNat ((Mem.read b.mem.sump (Sump.pairAddr k) 16).take 8),
    leNat ((Mem.read b.mem.sump (Sump.pairAddr k) 16).drop 8)) := by
  rw [Mem.read_add _ _ 8 8, List.take_left' (Mem.length_read ..), List.drop_left' (Mem.length_read ..), pairMem]

/-- Another pair is not written. -/
theorem pairMem_sumpWrite_other (hk : k < 2 ^ 30) {l : List Byte} (hl : l.length = 16) {j : Nat} (hj : j ≠ k) :
    (b.sumpWrite 3 (Sump.pairAddr k) l).pairMem j = b.pairMem j := by
  rw [pairMem_eq, pairMem_eq, sumpWrite_pair_mem hk hl, Mem.read_write_beside]
  unfold Sump.pairAddr
  omega

/-- The pair that is written. -/
theorem pairMem_sumpWrite_self (hk : k < 2 ^ 30) {v : Nat} (hv : v < 2 ^ 128) :
    (b.sumpWrite 3 (Sump.pairAddr k) (leBytes 16 v)).pairMem k = (v % 2 ^ 64, v / 2 ^ 64) := by
  have hread : Mem.read (Mem.write b.mem.sump (Sump.pairAddr k) (leBytes 16 v)) (Sump.pairAddr k) 16 = leBytes 8 v ++ leBytes 8 (v / 2 ^ 64) := by
    have := Mem.read_write b.mem.sump (Sump.pairAddr k) (leBytes 16 v)
    rw [length_leBytes] at this
    exact this.trans (leBytes_add 8 8 v)
  rw [pairMem_eq, sumpWrite_pair_mem hk (length_leBytes 16 v), hread, List.take_left' (length_leBytes ..), List.drop_left' (length_leBytes ..),
    leNat_leBytes, leNat_leBytes]
  congr 1
  exact Nat.mod_eq_of_lt (by omega)

/-! A pair as it is read and written (R478 to R480). -/

/-- The delta line of a pair without an armed error is sound. -/
theorem statCheck_sound (h : k ∉ b.stat.bad) : b.statCheck k = b := by
  have hnot : ¬ (b.stat.bad.contains k = true ∧ b.statLine k ≠ {}) := fun hb => h (List.contains_iff_mem.1 hb.1)
  unfold statCheck
  exact if_neg hnot

/-- What a read of a pair answers. -/
theorem pairShow_spec (hk : k < 2 ^ 30) (hbad : k ∉ b.stat.bad) :
    (b.pairShow k).mem = b.mem ∧ (b.pairShow k).stat = b.stat ∧
    (b.lineBad (pairLine k) = false → (b.pairShow k).rdata =
      [((b.pairMem k).1 + (b.statLine k).pkts) % 2 ^ 64, ((b.pairMem k).2 + (b.statLine k).bytes) % 2 ^ 64]) ∧
    (b.lineBad (pairLine k) = true → (b.pairShow k).rdata = [2 ^ 64 - 1, 2 ^ 64 - 1]) := by
  obtain ⟨c, hread, hmem, hstat⟩ := sumpRead_pair (b := b) hk
  have hline : c.statLine k = b.statLine k := by rw [statLine, statLine, hstat]
  cases hl : b.lineBad (pairLine k) with
  | true =>
    have hpair : b.pairRead k = (c, 2 ^ 128 - 1) := by rw [pairRead, statCheck_sound hbad, hread, hl]
    rw [pairShow, hpair]
    exact ⟨hmem, hstat, fun h => absurd h (by decide), fun _ => by norm_num⟩
  | false =>
    have hpair : b.pairRead k = (c, ((b.pairMem k).1 + (b.statLine k).pkts) % 2 ^ 64 +
        2 ^ 64 * (((b.pairMem k).2 + (b.statLine k).bytes) % 2 ^ 64)) := by
      rw [pairRead, statCheck_sound hbad, hread, hl, pairMem_eq]
      dsimp only
      rw [hline]
    rw [pairShow, hpair]
    refine ⟨hmem, hstat, fun _ => ?_, fun h => absurd h (by decide)⟩
    dsimp only
    congr 1
    · omega
    · congr 1
      omega

/-- An addition to a pair touches no other. -/
theorem pairMem_pairAdd_other (hk : k < 2 ^ 30) (b : Body) (p n : Nat) {j : Nat} (hj : j ≠ k) : (b.pairAdd k p n).pairMem j = b.pairMem j := by
  unfold pairAdd
  dsimp only
  rw [pairMem_sumpWrite_other hk (by rw [List.length_append, length_leBytes, length_leBytes]) hj]
  refine pairMem_of_sump ?_ j
  split_ifs
  · exact congrArg MemSt.sump (lineError_mem b _ _)
  · exact congrArg MemSt.sump (lineError_mem b _ _)

/-- A delta line moved whole into the Sump leaves the cache, and no other pair is touched. -/
theorem statMove_spec (hk : k < 2 ^ 30) (b : Body) :
    (b.statMove k (b.statLine k)).statLine k = {} ∧ ∀ j, j ≠ k → (b.statMove k (b.statLine k)).pairMem j = b.pairMem j := by
  have hstat : (b.statMove k (b.statLine k)).stat = (b.setLine k {}).stat := by
    simp only [statMove, Nat.sub_self, ledOut_rest]
    exact stat_ofSump (ofSump_pairAdd ..)
  refine ⟨?_, fun j hj => pairMem_pairAdd_other hk (b.setLine k _) _ _ hj⟩
  rw [statLine, hstat]
  exact Sp.get_set_self {} b.stat.lines k {}

/-- What a write of a pair leaves: the pair as it is written, nothing of it in the cache, and every other pair. -/
theorem pairWrite_spec (hk : k < 2 ^ 30) (hbad : k ∉ b.stat.bad) {v : Nat} (hv : v < 2 ^ 128) :
    (b.pairWrite k v).pairMem k = (v % 2 ^ 64, v / 2 ^ 64) ∧ (b.pairWrite k v).statLine k = {} ∧
    ∀ j, j ≠ k → (b.pairWrite k v).pairMem j = b.pairMem j := by
  obtain ⟨d, hd, hline, hother⟩ : ∃ d, (if b.statLine k = {} then b else b.statMove k (b.statLine k)) = d ∧ d.statLine k = {} ∧
      ∀ j, j ≠ k → d.pairMem j = b.pairMem j := by
    refine ⟨_, rfl, ?_⟩
    split_ifs with h
    · exact ⟨h, fun _ _ => rfl⟩
    · exact statMove_spec hk b
  unfold pairWrite
  rw [statCheck_sound hbad]
  dsimp only
  rw [hd]
  exact ⟨pairMem_sumpWrite_self (b := d) hk hv, hline,
    fun j hj => (pairMem_sumpWrite_other (b := d) hk (length_leBytes 16 v) hj).trans (hother j hj)⟩

end Body

theorem exec_statPairRead {s : State} {k : Nat} (hk : k < 2 ^ 30) (h : s.runs [15]) :
    exec (.statPairRead k) s = .next (s.withBody (s.dev.body.pairShow k)) :=
  State.live_withBody (decide_eq_true hk) h rfl

theorem exec_statPairWrite {s : State} {k v : Nat} (hk : k < 2 ^ 30) (hv : v < 2 ^ 128) (h : s.runs [15]) :
    exec (.statPairWrite k v) s = .next (s.withBody (s.dev.body.pairWrite k v)) :=
  State.live_withBody (Bool.and_eq_true_iff.2 ⟨decide_eq_true hk, decide_eq_true hv⟩) h rfl

end Sys2Proof.Machine

namespace Sys2Proof

open Machine

/-- Settles O56: each clause is one case of a Survey command or of a pair's access. Survey sees none of its own commands' effects, so the
state after one has the body that the command left. -/
theorem surveyAndCounterPairs : Obligations.SurveyAndCounterPairs := by
  unfold Obligations.SurveyAndCounterPairs
  dsimp only
  refine ⟨fun s => ⟨fun i m v hi hv h => ⟨fun hno => ?_, fun hg hslot hok => ?_, fun hg hslot hok => ?_⟩,
    fun hr => ⟨fun hdue => ?_, fun hdue hrun => ?_, fun hdue hrun => ?_⟩, fun m hm h => ?_⟩,
    fun k s hk hr => ⟨fun hbad hl => ?_, fun hbad hl => ?_, fun v hv hbad => ?_⟩⟩
  · refine ⟨_, exec_svyConfig hi hv h, ?_⟩
    rw [Body.svyConfig_denied hno]
    exact s.withBody_surveyEvent (by decide)
  · refine ⟨_, exec_svyConfig hi hv h, ?_⟩
    rw [Body.svyConfig_refused hg hslot hok]
    exact s.withBody_surveyEvent (by decide)
  · have hunseen := s.dev.body.unseen_svyConfigured i v hi
    obtain ⟨hent, hcount, hlast, hwrap, hother⟩ := s.dev.body.svyConfigured_spec i v
    refine ⟨_, exec_svyConfig hi hv h, ?_⟩
    rw [Body.svyConfig_taken hg hslot hok, State.ent, State.reg, State.withBody_unseen hunseen]
    exact ⟨hent, hcount, hlast, hwrap, hother, State.sameRegs_of hunseen.regs⟩
  · rw [exec_svyWindowEnd hr, Body.svyWindowEnd_idle hdue, State.withBody_self]
  · refine ⟨_, exec_svyWindowEnd hr, ?_⟩
    rw [Body.svyWindowEnd_due hdue, State.evt, State.reg, State.withBody_unseen s.dev.body.unseen_svyWindow]
    refine ⟨s.dev.body.svyWindow_evt, fun e he hmode => ?_, fun i hi => ?_, fun i e r hone hmode hen hlt hsel hring hr240 hruns hdma htel hleft => ?_⟩
    · exact (Body.svyWindow_moved hrun e.1).1 (List.mem_map_of_mem (List.mem_filter.2 ⟨he, beq_iff_eq.2 hmode⟩))
    · refine (Body.svyWindow_moved hrun i).2 fun hmem => ?_
      obtain ⟨e, he, hei⟩ := List.mem_map.1 hmem
      obtain ⟨hon, hmode⟩ := List.mem_filter.1 he
      exact hi e hon (beq_iff_eq.1 hmode) hei
    · exact Body.svyWindow_record hone hmode hrun hen hsel hring hr240 hruns hdma htel hleft
  · refine ⟨_, exec_svyWindowEnd hr, ?_⟩
    rw [Body.svyWindowEnd_due hdue, State.evt, State.reg, State.withBody_unseen s.dev.body.unseen_svyWindow]
    exact ⟨s.dev.body.svyWindow_evt, Body.svyWindow_held hrun⟩
  · obtain ⟨c, hshown, hexec⟩ := exec_svyLatch hm h
    obtain ⟨hcopied, hheld, hcnt, hsec, hns, hkeeps, hunseen⟩ := hshown.svyLatch
    refine ⟨_, hexec, ?_⟩
    rw [State.reg, State.reg, State.withBody_unseen hunseen]
    exact ⟨hcopied, hheld, hcnt, hsec, hns, State.withBody_keeps hkeeps⟩
  · obtain ⟨hmem, hstat, hgood, -⟩ := Body.pairShow_spec hk hbad
    refine ⟨_, exec_statPairRead hk hr, ?_⟩
    simp only [State.withBody, Dev.after_body, Body.note_rest]
    exact ⟨hgood hl, hstat, hmem⟩
  · obtain ⟨hmem, -, -, hones⟩ := Body.pairShow_spec hk hbad
    refine ⟨_, exec_statPairRead hk hr, ?_⟩
    simp only [State.withBody, Dev.after_body, Body.note_rest]
    exact ⟨hones hl, hmem⟩
  · obtain ⟨hself, hline, hother⟩ := Body.pairWrite_spec hk hbad hv
    refine ⟨_, exec_statPairWrite hk hv hr, ?_⟩
    simp only [Body.statLine, Body.pairMem, State.withBody, Dev.after_body, Body.note_rest]
    exact ⟨hself, hline, fun j _ => hother j⟩

end Sys2Proof
end

section
/-! O1 to O4, O59, O60: the form of every command, and what no step takes back (R392, R397, R398, R501). The first part follows what is
sticky through the operations that can reach it; the second says once that every command is an effect on the engine, made or left out, and
that the effect takes back no fuse. -/

namespace Sys2Proof.Machine

/-! What only moves forward. -/

namespace Sticky.Le

variable {x y z : Sticky}

theorem refl (x : Sticky) : Le x x := ⟨fun _ h => h, fun _ h => h, le_rfl, le_rfl, rfl⟩

theorem trans (h : Le x y) (h' : Le y z) : Le x z :=
  ⟨fun e he => h'.prov e (h.prov e he), fun n hn => h'.revoked n (h.revoked n hn), h.svnV.trans h'.svnV, h.svnC.trans h'.svnC,
    h'.flash.trans h.flash⟩

theorem of_eq (h : y = x) : Le x y := h ▸ refl x

/-- Locks are not fuses. -/
theorem locked (x : Sticky) (l : List Nat) : Le x { x with locked := l } := ⟨fun _ h => h, fun _ h => h, le_rfl, le_rfl, rfl⟩

/-- A device whose body changes keeps what is sticky. -/
theorem body (h : Le x y) (b : Body) : Le x (Dev.mk y b).sticky := h

/-- A security version is raised, never lowered (R398). -/
theorem commitSvn (x : Sticky) (l : List Byte) : Le x (x.commitSvn l) := by
  unfold Sticky.commitSvn
  split_ifs
  · exact ⟨fun _ h => h, fun _ h => h, le_max_left _ _, le_rfl, rfl⟩
  · exact ⟨fun _ h => h, fun _ h => h, le_rfl, le_max_left _ _, rfl⟩
  · exact refl x

end Sticky.Le

open Sticky (Le)

namespace Dev

variable (d : Dev)

/-! Reads and writes of BAR0. -/

theorem readField_sticky (m p : Nat) (k : PK) (x : Fld × Nat × Nat) : (d.readField m p k x).1.sticky = d.sticky := by
  unfold readField
  dsimp only
  split_ifs <;> rfl

theorem readBlock_sticky (m a : Nat) (k : PK) : (d.readBlock m a k).1.sticky = d.sticky := by
  have key : ∀ (l : List (Fld × Nat × Nat)) (r : Dev × Nat), (l.foldl (fun r x => ((r.1.readField m (pageOf a) k x).1,
      r.2 + (r.1.readField m (pageOf a) k x).2 * 2 ^ x.1.lo)) r).1.sticky = r.1.sticky := by
    intro l r
    refine foldl_same (fun r : Dev × Nat => r.1.sticky) _ (fun r x => ?_) l r
    exact readField_sticky ..
  unfold readBlock
  dsimp only
  split_ifs
  · rfl
  · rfl
  all_goals exact key _ _

theorem readHeader_sticky (a : Nat) (k : PK) : (d.readHeader a k).1.sticky = d.sticky := by
  unfold readHeader
  dsimp only
  split <;> rfl

theorem readAt_sticky (m a : Nat) : (d.readAt m a).1.sticky = d.sticky := by
  unfold readAt
  dsimp only
  split
  · rfl
  · rfl
  · split
    · exact readHeader_sticky ..
    · rfl
  · split
    · exact readBlock_sticky ..
    · rfl

theorem denied_sticky (m a : Nat) (wr : Bool) : (d.denied m a wr).sticky = d.sticky := by
  unfold denied
  split_ifs <;> rfl

theorem busRead_sticky (m a : Nat) : (d.busRead m a).1.sticky = d.sticky := by
  unfold busRead
  split_ifs
  · exact readAt_sticky ..
  · exact denied_sticky ..
  · rfl

theorem read_sticky (m a : Nat) : (d.read m a).sticky = d.sticky := busRead_sticky ..

theorem busPartial_sticky (m a : Nat) : (d.busPartial m a).sticky = d.sticky := by
  unfold busPartial
  dsimp only
  split_ifs <;> rfl

theorem pageWrite_fuses (m a v : Nat) : Le d.sticky (d.pageWrite m a v).1.sticky := by
  unfold pageWrite lockPage
  dsimp only
  split
  · exact .refl _
  · split <;> exact .refl _
  · split_ifs
    · exact .locked _ _
    · exact .refl _
    · exact .refl _
  · exact .refl _

/-! Boot. -/

theorem bootTest_sticky (n : Nat) : (d.bootTest n).1.sticky = d.sticky := rfl

theorem tryImage_sticky (ty : Nat) (e : List Byte) : (d.tryImage ty e).1.sticky = d.sticky := rfl

/-- An image loaded from the flash raises at most a security version. -/
theorem loadEntry_fuses (dir : List (List Byte)) (n : Nat) (e : List Byte) : Le d.sticky (d.loadEntry dir n e).1.sticky := by
  unfold loadEntry
  dsimp only
  split
  · exact d.tryImage_sticky (entType e) e ▸ .commitSvn ..
  · split
    · exact .of_eq (d.tryImage_sticky (entType e) e)
    · rename_i a _
      have h := ((d.tryImage (entType e) e).1.tryImage_sticky (entType e) a).trans (d.tryImage_sticky (entType e) e)
      split
      · exact h ▸ .commitSvn ..
      · exact .of_eq h

theorem loadOptional_fuses (dir : List (List Byte)) (put : Body → List Byte → Body) (l : List (Nat × List Byte)) (d : Dev) :
    Le d.sticky (d.loadOptional dir put l).sticky := by
  induction l generalizing d with
  | nil => exact .refl _
  | cons x t ih =>
    have h := d.loadEntry_fuses dir x.1 x.2
    unfold loadOptional
    split <;> rename_i he <;> rw [he] at h <;> exact h.trans (ih (Dev.on _ _))

theorem loadMandatory_fuses (dir : List (List Byte)) (put : Body → List Byte → Body) (l : List (Nat × List Byte)) (d : Dev) :
    Le d.sticky (d.loadMandatory dir put l).1.sticky := by
  induction l generalizing d with
  | nil => exact .refl _
  | cons x t ih =>
    have h := d.loadEntry_fuses dir x.1 x.2
    unfold loadMandatory
    split <;> rename_i he <;> rw [he] at h
    · exact h.trans (ih (Dev.on _ _))
    · exact h

theorem mandatory_fuses (step ty : Nat) (put : Body → List Byte → Body) : Le d.sticky (d.mandatory step ty put).1.sticky := by
  unfold mandatory
  dsimp only
  split
  · exact .refl _
  · split_ifs
    · exact .refl _
    · split
      · exact .refl _
      · split
        · exact .refl _
        · generalize hx : Dev.loadMandatory _ _ _ _ = x
          have h : Le d.sticky x.1.sticky := hx ▸ loadMandatory_fuses ..
          obtain ⟨c, _ | _⟩ := x <;> exact h

theorem bootFirmware_fuses : Le d.sticky d.bootFirmware.1.sticky := by
  unfold bootFirmware
  dsimp only
  generalize hx : Dev.mandatory _ 9 IT_GRT_FW _ = x
  have h : Le d.sticky x.1.sticky := by
    rw [← hx]
    refine Le.trans ?_ (mandatory_fuses _ _ _ _)
    refine Le.trans ?_ (loadOptional_fuses _ _ _ _)
    split
    · exact .refl _
    · exact (Le.of_eq (d.on_sticky _)).trans (loadOptional_fuses _ _ _ _)
  obtain ⟨c, _ | _⟩ := x
  · dsimp only
    exact h
  · dsimp only
    exact h.trans (.of_eq (c.on_sticky _))


theorem bootRegisters_fuses : Le d.sticky d.bootRegisters.sticky := by
  unfold bootRegisters
  exact foldl_keeps (fun c : Dev => Le d.sticky c.sticky) _ (fun c x h => h.trans (c.pageWrite_fuses _ x.1 x.2)) _ _
    (.of_eq (d.on_sticky _))

theorem bootCustomer_fuses : Le d.sticky d.bootCustomer.sticky :=
  (Le.of_eq (d.on_sticky _)).trans (loadOptional_fuses _ _ _ _)

theorem bootStep_fuses (n : Nat) : Le d.sticky (d.bootStep n).1.sticky := by
  unfold bootStep
  split
  · generalize hx : Dev.bootTest _ 2 = x
    have h : x.1.sticky = d.sticky := by rw [← hx, bootTest_sticky, on_sticky]
    obtain ⟨c, _ | _⟩ := x
    · exact .of_eq ((c.on_sticky _).trans h)
    · dsimp only
      generalize hy : c.bootTest 3 = y
      have h' : y.1.sticky = d.sticky := by rw [← hy, bootTest_sticky, h]
      obtain ⟨e, _ | _⟩ := y
      · exact .of_eq ((e.on_sticky _).trans h')
      · exact .of_eq h'
  · exact (Le.of_eq (d.on_sticky _)).trans (mandatory_fuses _ _ _ _)
  · exact .of_eq (d.on_sticky _)
  · generalize hx : Dev.bootTest _ 6 = x
    have h : x.1.sticky = d.sticky := by rw [← hx, bootTest_sticky, on_sticky]
    obtain ⟨c, _ | _⟩ := x <;> exact .of_eq ((c.on_sticky _).trans h)
  · generalize hx : d.on (fun b => (b.bootStage 4).trainAll) = x
    have h : x.sticky = d.sticky := by rw [← hx, on_sticky]
    dsimp only
    split
    · exact .of_eq h
    · exact .of_eq ((x.on_sticky _).trans h)
  · exact .of_eq (d.on_sticky _)
  · exact d.bootFirmware_fuses
  · exact d.bootRegisters_fuses
  · exact d.bootCustomer_fuses
  · exact .of_eq (d.on_sticky _)
  · exact .refl _

/-- However far boot comes, it takes back no fuse. -/
theorem bootSteps_fuses (l : List Nat) (d : Dev) : Le d.sticky (d.bootSteps l).sticky := by
  induction l generalizing d with
  | nil => exact .refl _
  | cons n t ih =>
    have h := d.bootStep_fuses n
    unfold bootSteps
    split <;> rename_i he <;> rw [he] at h
    · exact h.trans (ih _)
    · exact h

theorem asuth_fuses : Le d.sticky d.asuth.sticky := by
  unfold asuth
  split_ifs
  · exact .refl _
  · exact bootSteps_fuses _ d

/-! Resets. -/

theorem resetEnd_fuses (por : Bool) : Le d.sticky (d.resetEnd por).sticky :=
  (Le.locked d.sticky []).trans
    (asuth_fuses { sticky := { d.sticky with locked := [] }, body := _ })

theorem resetTry_fuses (por : Bool) : Le d.sticky (d.resetTry por).sticky := by
  unfold resetTry
  split_ifs
  · exact .refl _
  · exact .refl _
  · exact d.resetEnd_fuses por

theorem resetAssert_fuses : Le d.sticky d.resetAssert.sticky := by
  unfold resetAssert
  split_ifs <;> exact .refl _

theorem resetRelease_fuses (x : Straps) : Le d.sticky (d.resetRelease x).sticky := by
  unfold resetRelease
  split_ifs
  · exact .refl _
  · exact (Le.of_eq (d.on_sticky _)).trans (resetTry_fuses _ _)

theorem sysrefReturn_fuses : Le d.sticky d.sysrefReturn.sticky := by
  unfold sysrefReturn
  dsimp only
  split_ifs
  · exact (Le.of_eq (d.on_sticky _)).trans (resetTry_fuses _ _)
  · exact .refl _

theorem hotEnd_fuses : Le d.sticky d.hotEnd.sticky := by
  unfold hotEnd
  split_ifs
  · exact d.resetEnd_fuses _
  · exact .refl _

theorem brownoutStart_fuses : Le d.sticky d.brownoutStart.sticky := by
  unfold brownoutStart
  split_ifs <;> exact .refl _

theorem brownoutEnd_fuses : Le d.sticky d.brownoutEnd.sticky := by
  unfold brownoutEnd
  split_ifs
  · exact d.resetEnd_fuses _
  · exact .refl _

theorem lampPowerOn_fuses (sa : Nat) (ready : Bool) (x : Straps) : Le d.sticky (d.lampPowerOn sa ready x).sticky := by
  unfold lampPowerOn
  dsimp only
  split_ifs
  · exact .refl _
  · exact (Le.of_eq (d.on_sticky _)).trans (resetTry_fuses _ _)
  · exact .refl _

/-! The load path, the key slots, and the writes that reach them. -/

theorem bootResume_fuses : Le d.sticky d.bootResume.sticky := by
  unfold bootResume
  split_ifs
  · exact .refl _
  · exact (Le.of_eq (d.on_sticky _)).trans (bootSteps_fuses _ _)

theorem putHostImage_fuses (l : List Byte) : Le d.sticky (d.putHostImage l).sticky := by
  unfold putHostImage
  dsimp only
  split
  · split
    · exact .refl _
    · exact .of_eq (d.on_sticky _)
  · split <;> exact .commitSvn _ _

theorem loadDone_fuses : Le d.sticky d.loadDone.sticky := by
  unfold loadDone
  dsimp only
  split_ifs
  · exact d.putHostImage_fuses _
  · exact .refl _
  · exact .refl _

/-- A key slot is only ever added, as is a revocation (R397). -/
theorem provGo_fuses : Le d.sticky d.provGo.sticky := by
  unfold provGo
  dsimp only
  split_ifs
  · exact .refl _
  · exact ⟨fun _ h => h, fun _ h => List.mem_append_left _ h, le_rfl, le_rfl, rfl⟩
  · exact .refl _
  · exact ⟨fun _ h => List.mem_append_left _ h, fun _ h => h, le_rfl, le_rfl, rfl⟩

theorem fuseDue_fuses : Le d.sticky d.fuseDue.sticky :=
  ⟨fun _ h => h, fun _ h => h, le_max_left _ _, le_rfl, rfl⟩

theorem busWrite_fuses (m a v : Nat) : Le d.sticky (d.busWrite m a v).1.sticky := by
  have h := d.pageWrite_fuses m (a / 4 * 4) v
  unfold busWrite
  dsimp only
  split
  · exact .refl _
  · split
    · exact .of_eq (d.denied_sticky ..)
    · split
      · exact h
      · split
        · exact h.trans (bootResume_fuses _)
        · split
          · exact h.trans (provGo_fuses _)
          · exact h

theorem write_fuses (m a v : Nat) : Le d.sticky (d.write m a v).sticky := d.busWrite_fuses m a v

theorem put_fuses (m p : Nat) (f : Fld) (i x : Nat) : Le d.sticky (d.put m p f i x).sticky := d.write_fuses ..

theorem dbgGo_fuses (m th op : Nat) : Le d.sticky (d.dbgGo m th op).sticky := d.write_fuses ..

theorem jtagAccess_fuses (a : Nat) (v : Option Nat) : Le d.sticky (d.jtagAccess a v).sticky := by
  unfold jtagAccess
  split_ifs
  · exact .refl _
  · split
    · exact d.write_fuses ..
    · exact .of_eq (d.busRead_sticky ..)

/-! The service ports. -/

theorem i3cWords_sticky (n : Nat) (d : Dev) (a : Nat) : (d.i3cWords a n).1.sticky = d.sticky := by
  induction n generalizing d a with
  | zero => rfl
  | succ n ih =>
    unfold i3cWords
    refine (ih _ _).trans ?_
    split_ifs
    · exact d.readAt_sticky ..
    · rfl

theorem i3cRead_sticky (n : Nat) : (d.i3cRead n).sticky = d.sticky := by
  unfold i3cRead
  split_ifs
  · rfl
  · rfl
  · exact i3cWords_sticky ..

theorem i3cWrite_sticky (l : List Byte) : (d.i3cWrite l).sticky = d.sticky := by
  unfold i3cWrite
  split_ifs <;> rfl

theorem i3cCcc_sticky (c : I3cCode) : (d.i3cCcc c).sticky = d.sticky := by
  unfold i3cCcc
  split_ifs
  · rfl
  · cases c <;> rfl

theorem jtagInstr_sticky (i : JtagInstr) : (d.jtagInstr i).sticky = d.sticky := by
  unfold jtagInstr
  dsimp only
  split_ifs <;> simp only [on_sticky]

/-! Table commands of a ring. -/

/-- What an entry's opcode does takes back no fuse. -/
def CmdForward (f : Dev → List Byte → List (List Byte) → Bool → Dev × CmdRes) : Prop :=
  ∀ d e l w, Le d.sticky (f d e l w).1.sticky

theorem tblCmd_fuses (n row : Nat) {f : Dev → List Byte → List (List Byte) → Bool → Dev × CmdRes} (hf : CmdForward f) :
    Le d.sticky (d.tblCmd n row f).sticky := by
  simp only [tblCmd]
  split
  · exact .refl _
  · split
    · split
      · exact .refl _
      · split
        · exact .refl _
        · rename_i e rest _ _
          generalize hc : ite ((d.body.run n).idx = 0 ∧ ¬ (d.body.run n).waiting = true) _ d = c
          have hd : Le d.sticky c.sticky := by
            rw [← hc]
            split
            · exact Le.body (.refl _) _
            · exact .refl _
          refine hd.trans ?_
          split
          · exact Le.body (.refl _) _
          · have h : Le c.sticky (f c e rest (d.body.run n).waiting).1.sticky := hf ..
            split <;> rename_i he <;> rw [he] at h <;> exact Le.body h _
    · exact .refl _

theorem cmdNop_forward : CmdForward cmdNop := fun _ _ _ _ => .refl _
theorem cmdCont_forward : CmdForward cmdCont := fun _ _ _ _ => .refl _
theorem cmdWriteEntry_forward : CmdForward cmdWriteEntry := fun d e l w => by
  unfold cmdWriteEntry
  dsimp only
  split_ifs <;> exact .refl _
theorem cmdReadEntry_forward : CmdForward cmdReadEntry := fun d e l w => by
  unfold cmdReadEntry
  dsimp only
  split_ifs <;> exact .refl _
theorem cmdRegWrite_forward : CmdForward cmdRegWrite := fun d e l w => by
  unfold cmdRegWrite
  dsimp only
  split
  · exact .refl _
  · exact d.busWrite_fuses ..
theorem cmdDsAdd_forward : CmdForward cmdDsAdd := fun d e l w => by
  unfold cmdDsAdd
  split <;> exact .refl _
theorem cmdExm_forward : CmdForward cmdExm := fun d e l w => by
  unfold cmdExm
  dsimp only
  split_ifs <;> exact .refl _
theorem cmdCairn_forward : CmdForward cmdCairn := fun d e l w => by
  unfold cmdCairn
  dsimp only
  split
  · exact .refl _
  · generalize hc : ite (bitOn (cmdArg e) 3 = true) _ d = c
    have h : Le d.sticky c.sticky := by
      rw [← hc]
      split
      · exact (((d.write_fuses ..).trans (write_fuses ..)).trans (write_fuses ..)).trans (write_fuses ..)
      · exact .refl _
    have h' := h.trans (c.busWrite_fuses Master.host (R.CAIRN_CMD.addr Pg.cairn (bitField (cmdArg e) 10 8) 0) (cmdArg e % 8))
    split
    · exact h'
    · split <;> exact h'

/-! Instructions of threads. -/

/-- What an instruction does, once issued, takes back no fuse. -/
def OpForward (f : Dev → Nat → Dev) : Prop := ∀ d w, Le d.sticky (f d w).sticky

theorem issue_fuses (th : Nat) (row : Nat → Bool) {f : Dev → Nat → Dev} (hf : OpForward f) : Le d.sticky (d.issue th row f).sticky := by
  unfold issue
  dsimp only
  split
  · exact .refl _
  · split
    · exact .refl _
    · split
      · exact .refl _
      · split
        · exact .refl _
        · split
          · exact .refl _
          · exact hf ..

theorem loadBar_sticky (th a n r : Nat) (sx : Bool) : (d.loadBar th a n r sx).sticky = d.sticky := by
  unfold loadBar
  dsimp only
  rw [on_sticky]
  split_ifs
  · exact (busRead_sticky ..).trans (busRead_sticky ..)
  · exact busRead_sticky ..

theorem load_sticky (th a n r : Nat) (sx : Bool) : (d.load th a n r sx).sticky = d.sticky := by
  unfold load
  dsimp only
  split
  · rfl
  · split
    · split <;> rfl
    · split <;> rfl
    · split
      · rfl
      · split
        · exact d.loadBar_sticky ..
        · rfl
    · split <;> rfl
    · rfl

theorem storeBar_fuses (th a n v : Nat) : Le d.sticky (d.storeBar th a n v).sticky := by
  have h := (Le.of_eq (d.on_sticky fun b => b.retire th)).trans (write_fuses _ (0x100 + th) a (v % 2 ^ 32))
  unfold storeBar
  dsimp only
  split
  · exact h.trans (write_fuses ..)
  · exact h

theorem store_fuses (th a n v : Nat) : Le d.sticky (d.store th a n v).sticky := by
  unfold store
  dsimp only
  split
  · exact .refl _
  · split
    · split <;> exact .refl _
    · split <;> exact .refl _
    · split
      · exact .refl _
      · split
        · exact d.storeBar_fuses ..
        · exact .refl _
    · split <;> exact .refl _
    · exact .refl _

end Dev

/-! The form of a command. -/

/-- A command answers the engine after an effect, or the engine as it was: where an operand names nothing, or the engine does not run and the
command is not one that acts all the same. The effect takes back no fuse. -/
structure State.Acts (c : Instr) (s : State) (ok : Bool) (f : Dev → Dev) : Prop where
  next : exec c s = .next { s with dev := if ok then s.dev.after f else s.dev }
  void : (s.dev.body.sup.mode ≠ .running ∧ c.always = false) ∨ c.wf = false → ok = false
  fuses : ∀ d : Dev, Le d.sticky (f d).sticky

namespace State.Acts

variable {c : Instr} {s : State} {ok : Bool} {f : Dev → Dev}

theorem live {doms : List Nat} (h : exec c s = s.live ok doms f) (hw : c.wf = ok) (hf : ∀ d : Dev, Le d.sticky (f d).sticky) :
    ∃ ok f, s.Acts c ok f := by
  refine ⟨ok && s.dev.runs doms, f, h, ?_, hf⟩
  rintro (⟨hm, -⟩ | hw')
  · simp [Dev.runs, hm]
  · simp [← hw, hw']

theorem body {doms : List Nat} {g : Body → Body} (h : exec c s = s.body ok doms g) (hw : c.wf = ok) : ∃ ok f, s.Acts c ok f :=
  live h hw fun d => .of_eq (d.on_sticky g)

theorem always (h : exec c s = s.always ok f) (hw : c.wf = ok) (ha : c.always = true) (hf : ∀ d : Dev, Le d.sticky (f d).sticky) :
    ∃ ok f, s.Acts c ok f := by
  refine ⟨ok, f, h, ?_, hf⟩
  rintro (⟨-, ha'⟩ | hw')
  · simp [ha] at ha'
  · rw [← hw, hw']

theorem lampBody {g : Body → Body} (h : exec c s = s.lampBody ok g) (hw : c.wf = ok) (ha : c.always = true) : ∃ ok f, s.Acts c ok f :=
  always h hw ha fun d => .of_eq (d.on_sticky g)

end State.Acts

theorem Dev.writeOrPartial_fuses (d : Dev) (full : Bool) (m a v : Nat) :
    Le d.sticky (if full then d.write m a v else d.busPartial m a).sticky := by
  split
  · exact d.write_fuses ..
  · exact .of_eq (d.busPartial_sticky ..)

theorem Dev.onFuse_fuses (d : Dev) (g : Body → Body) : Le d.sticky (d.on g).fuseDue.sticky :=
  (Le.of_eq (d.on_sticky g)).trans (fuseDue_fuses _)

theorem Dev.loadOrStore_fuses (d : Dev) (ld : Bool) (th a n r v : Nat) (sx : Bool) :
    Le d.sticky (if ld then d.load th a n r sx else d.store th a n v).sticky := by
  split
  · exact .of_eq (d.load_sticky ..)
  · exact d.store_fuses ..

theorem Dev.sysrefReturnOn_fuses (d : Dev) : Le d.sticky (if d.body.sup.mode = .off then d else d.sysrefReturn).sticky := by
  split
  · exact .refl _
  · exact d.sysrefReturn_fuses

open State.Acts in
/-- Every command has this form. Those that reach what is sticky, or act whatever state the engine is in, come first; every other is an
effect on the body alone. -/
theorem exec_acts (c : Instr) (s : State) : ∃ ok f, s.Acts c ok f := by
  cases c
  case softReset | pageLock | eventInject | faultInject | windowWordWrite | apertureCtrlWrite | cairnBegin | cairnCommit |
      cairnAbort | cairnRelease | govHeartbeat | govLogRdWrite | lanePowerRequest | poolEnable | poolDisable | exmInsert |
      exmDelete | exmUpdate | exmLookup | exmHash | galleryPowerRequest | todPhaseAdj | hbmDelaySet | threadStart |
      threadRestart | threadHalt | threadKill | keyProvision | keyRevoke | icuAck | echoSeedWrite =>
    exact live rfl rfl fun d => d.write_fuses ..
  case govModeWrite | portEnable | portDisable | poolAlloc | poolFree | lpmDrain | dsCompareAndClear | clsInject |
      dsInject | vltParInject | stcFlush | stcInject | chmInject | schInject | rimInject | clkInject | todStep |
      todValidSet | todValidClr | hbmRateRequest | hbmPgRun | hbmTrnMark | hbmEccInject | farLinkEnable | farIoAccess |
      farInject | coreRestart | grtInject | bootLdGo | bootLdResume | flashRelease | bootInject | ringEnable | ringReset |
      hifInject | icuMaskSet | icuMaskClr | svyLatch | snpGo =>
    exact live rfl rfl fun d => d.put_fuses ..
  case dbgStop | dbgResume | dbgStep | dbgAbandon | dbgReadReg | dbgWriteReg =>
    exact live rfl rfl fun d => d.dbgGo_fuses ..
  case registerWrite =>
    exact live rfl rfl fun d => d.writeOrPartial_fuses ..
  case clearOnRead | windowSnapshotRead | todReadLatch =>
    exact live rfl rfl fun d => .of_eq (d.read_sticky ..)
  case jtagDbgRegAccess =>
    exact live rfl rfl fun d => d.jtagAccess_fuses ..
  case cairnApply | refillBoundary =>
    exact live rfl rfl fun d => d.onFuse_fuses _
  case bootLdDone =>
    exact live rfl rfl fun d => d.loadDone_fuses
  case add | sub | and | or | xor | shl | shr | sar | clt | cltu | ceq | mul | mulh | div | divu | rem | crc32c | addi |
      andi | ori | xori | shli | shri | sari | lih | popcnt | clz | bswap | beq | bne | blt | bge | bltu | bgeu | extr |
      insr | csel | call | jr | fence =>
    exact live rfl rfl fun d => d.issue_fuses _ _ fun _ _ => .body (.refl _) _
  case lb | lh | lw | ld | lbu | lhu | lwu | tcbWait | tcbPoll | tcbWstat | tcbPoolAlloc | tcbPoolBp | tcbId |
      tcbReserve | tcbReserveWait | tcbAcquire | tcbAcquireWait =>
    exact live rfl rfl fun d => d.issue_fuses _ _ fun c _ => .of_eq (c.load_sticky ..)
  case sb | sh | sw | sd | tcbSend | tcbBind | tcbCommit | tcbRelease | tcbPoolSize | tcbPoolFree =>
    exact live rfl rfl fun d => d.issue_fuses _ _ fun c _ => c.store_fuses ..
  case tcbWaitMask | tcbTimer =>
    exact live rfl rfl fun d => d.issue_fuses _ _ fun c _ => c.loadOrStore_fuses ..
  case tblCmdNop =>
    exact live rfl rfl fun d => d.tblCmd_fuses _ _ Dev.cmdNop_forward
  case tblCmdCont =>
    exact live rfl rfl fun d => d.tblCmd_fuses _ _ Dev.cmdCont_forward
  case tblCmdWriteEntry =>
    exact live rfl rfl fun d => d.tblCmd_fuses _ _ Dev.cmdWriteEntry_forward
  case tblCmdReadEntry =>
    exact live rfl rfl fun d => d.tblCmd_fuses _ _ Dev.cmdReadEntry_forward
  case tblCmdRegWrite =>
    exact live rfl rfl fun d => d.tblCmd_fuses _ _ Dev.cmdRegWrite_forward
  case tblCmdDsAdd =>
    exact live rfl rfl fun d => d.tblCmd_fuses _ _ Dev.cmdDsAdd_forward
  case tblCmdExm =>
    exact live rfl rfl fun d => d.tblCmd_fuses _ _ Dev.cmdExm_forward
  case tblCmdCairn =>
    exact live rfl rfl fun d => d.tblCmd_fuses _ _ Dev.cmdCairn_forward
  case glowwormTrip | glowwormRearm | sysrefLoss | sensorSample =>
    exact lampBody rfl rfl rfl
  case engineResetAssert =>
    exact always rfl rfl rfl fun d => d.resetAssert_fuses
  case engineResetRelease =>
    exact always rfl rfl rfl fun d => d.resetRelease_fuses _
  case lampPowerOn =>
    exact always rfl rfl rfl fun d => d.lampPowerOn_fuses ..
  case brownoutStart =>
    exact always rfl rfl rfl fun d => d.brownoutStart_fuses
  case brownoutEnd =>
    exact always rfl rfl rfl fun d => d.brownoutEnd_fuses
  case thermalResetHoldEnd =>
    exact always rfl rfl rfl fun d => d.hotEnd_fuses
  case lampPowerLoss =>
    exact always rfl rfl rfl fun d => .of_eq (d.on_sticky _)
  case i3cAddressWrite =>
    exact always rfl rfl rfl fun d => .of_eq (d.i3cWrite_sticky _)
  case i3cPrivateRead =>
    exact always rfl rfl rfl fun d => .of_eq (d.i3cRead_sticky _)
  case i3cCcc =>
    exact always rfl rfl rfl fun d => .of_eq (d.i3cCcc_sticky _)
  case jtagInstruction =>
    exact always rfl rfl rfl fun d => .of_eq (d.jtagInstr_sticky _)
  case sysrefReturn =>
    exact always rfl rfl rfl fun d => d.sysrefReturnOn_fuses
  all_goals exact body rfl rfl

end Sys2Proof.Machine

namespace Sys2Proof

open Machine

/-- Settles O3: a command answers a next state, and its effect is on the engine. -/
theorem everyCommandAnswers : Obligations.EveryCommandAnswers := by
  intro c s
  obtain ⟨ok, f, h⟩ := exec_acts c s
  exact ⟨_, h.next, rfl⟩

/-- Settles O4: a command that nothing lets act leaves the engine as it is. -/
theorem ignoredCommandsChangeNothing : Obligations.IgnoredCommandsChangeNothing := by
  intro c s hvoid
  obtain ⟨ok, f, h⟩ := exec_acts c s
  rw [h.next, h.void hvoid]
  rfl

/-- Settles O1. -/
theorem stepRunsFrontCommand : Obligations.StepRunsFrontCommand := fun _ _ => rfl

/-- Settles O59: time leaves what is sticky as it is, and no command's effect takes back a fuse. -/
theorem fusesOnlyMoveForward : Obligations.FusesOnlyMoveForward := by
  intro s t h
  unfold step at h
  split at h
  · cases h
    exact .refl _
  · rename_i c rest _
    obtain ⟨ok, f, hact⟩ := exec_acts c { s with pending := rest }
    rw [hact.next] at h
    cases h
    dsimp only
    split
    · exact hact.fuses s.dev
    · exact .refl _

/-- Settles O2: a step on an empty queue is the passing of time. -/
theorem idleStepPassesTime : Obligations.IdleStepPassesTime := by
  intro s hq
  refine ⟨{ s with dev := { s.dev with body := s.dev.body.tick } }, by simp only [step, hq], hq, rfl, fun hoff => ?_,
    fun hon => s.dev.body.tick_clk hon⟩
  rw [s.dev.body.tick_off hoff]

end Sys2Proof

namespace Sys2Proof.Machine

/-- A key that no entry of a sparse map has reads the default. -/
theorem Sp.get_of_notMem {α : Type} (d : α) (m : List (Nat × α)) (k : Nat) (h : ∀ e ∈ m, e.1 ≠ k) : Sp.get d m k = d := by
  induction m with
  | nil => rfl
  | cons e t ih =>
    simp only [Sp.get, h e List.mem_cons_self, if_false]
    exact ih fun x hx => h x (List.mem_cons_of_mem e hx)

/-- Right after reset only PG_EN of the device-wide pages differs from its reset value (R42). -/
theorem State.reset_reg (q : Nat) (g : Fld) (x y : Nat) (hlo : g.lo < 32)
    (hen : g.addr q x y % 0x1000 = 0x10 → 0x8000 ≤ g.addr q x y) : State.reset.reg q g x y = g.reset x % 2 ^ g.width := by
  unfold State.reg Body.rd
  rw [Sp.get_of_notMem]
  intro e he
  obtain ⟨n, hn, rfl⟩ := List.mem_map.mp he
  have hn8 : n < 8 := List.mem_range.mp hn
  simp only [Fld.key]
  omega

end Sys2Proof.Machine

namespace Sys2Proof

open Machine

/-- Settles O60: the state after reset lists nothing but PG_EN of the device-wide pages. -/
theorem resetState : Obligations.ResetState :=
  ⟨rfl, rfl, rfl, rfl, rfl, State.reset_reg, by decide, fun _ _ => rfl, fun _ _ => rfl, fun _ => ⟨rfl, rfl⟩⟩

end Sys2Proof
end

section
/-! O5 to O7: writes and reads of single registers (R9, R38). -/

namespace Sys2Proof.Machine

/-! What a reader sees of a state after an effect that leaves the engine with some body. -/

section
variable {s : State} {c : Body}

theorem State.live_self {ok : Bool} {doms : List Nat} {F : Dev → Dev} (ho : ok = true) (hr : s.runs doms) (hF : F s.dev = s.dev) :
    s.live ok doms F = .next s := by
  rw [State.live_withBody (c := s.dev.body) ho hr (by rw [hF]), State.withBody_self]

theorem State.body_withBody {ok : Bool} {doms : List Nat} {f : Body → Body} (ho : ok = true) (hr : s.runs doms)
    (hf : f s.dev.body = c) : s.body ok doms f = .next (s.withBody c) :=
  State.live_withBody ho hr (s.dev.on_eq hf)

theorem State.always_withBody {ok : Bool} {F : Dev → Dev} (ho : ok = true) (hF : F s.dev = { s.dev with body := c }) :
    s.always ok F = .next (s.withBody c) := by
  rw [s.always_runs F ho]
  simp only [State.withBody, Dev.after, hF]

theorem State.lamp_withBody {ok : Bool} {f : Body → Body} (ho : ok = true) (hf : f s.dev.body = c) :
    s.lampBody ok f = .next (s.withBody c) := by
  rw [s.lamp_runs f ho]
  simp only [State.withBody, Dev.after, s.dev.on_eq hf]

@[simp] theorem State.withBody_rest :
    (s.withBody c).dev.body.clk = c.clk ∧ (s.withBody c).dev.body.fresh = c.fresh ∧ (s.withBody c).dev.body.tod = c.tod ∧
    (s.withBody c).dev.body.tbls = c.tbls ∧ (s.withBody c).dev.body.gov = c.gov ∧ (s.withBody c).dev.body.cairn = c.cairn ∧
    (s.withBody c).dev.body.win = c.win ∧ (s.withBody c).dev.body.net = c.net ∧ (s.withBody c).dev.body.pipe = c.pipe ∧
    (s.withBody c).dev.body.stat = c.stat ∧ (s.withBody c).dev.body.rim = c.rim ∧ (s.withBody c).dev.body.hbm = c.hbm ∧
    (s.withBody c).dev.body.far = c.far ∧ (s.withBody c).dev.body.echo = c.echo ∧ (s.withBody c).dev.body.sch = c.sch ∧
    (s.withBody c).dev.body.lamp = c.lamp ∧ (s.withBody c).dev.body.sup = c.sup ∧ (s.withBody c).dev.body.boot = c.boot ∧
    (s.withBody c).dev.body.snp = c.snp ∧ (s.withBody c).dev.body.svc = c.svc ∧ (s.withBody c).dev.body.rdata = c.rdata ∧
    (s.withBody c).dev.body.marks = c.marks := by
  simp [State.withBody]

@[simp] theorem State.withBody_sticky : (s.withBody c).dev.sticky = s.dev.sticky := rfl

@[simp] theorem State.withBody_ent (q k : Nat) : (s.withBody c).ent q k = c.ent q k := Body.note_ent _ _ _ _

@[simp] theorem State.withBody_irq : (s.withBody c).dev.body.irq.recs = c.irq.recs ∧
    (s.withBody c).dev.body.irq.opened = c.irq.opened := (Body.note_reports _ _).2

/-- A register that what follows an effect leaves alone reads as the body has it. -/
theorem State.withBody_reg {q k l : Nat} {g : Fld} (hg : g.lo < 32) (h : notedAt (g.addr q k l) = false) :
    (s.withBody c).reg q g k l = c.rd q g k l :=
  s.reg_after _ hg h

theorem State.withBody_reg_steady {q k l : Nat} {g : Fld} (hg : g.lo < 32) (h : s.steady (g.addr q k l)) :
    (s.withBody c).reg q g k l = c.rd q g k l :=
  Body.note_rd_steady _ hg h

theorem State.withBody_evt {q n : Nat} (hn : n < 32) (h : notedAt (q + 0x20) = false) :
    (s.withBody c).evt q n ↔ c.rd q (evtPend n) = 1 :=
  s.evt_after _ hn h

end

/-- A register that does not repeat. -/
theorem Fld.addr_zero (f : Fld) (p : Nat) : f.addr p 0 0 = p + f.off := rfl

/-- No word of a header but the events' is changed by what follows an effect. -/
theorem notedAt_header {p n : Nat} (hp : p % 0x1000 = 0) (hn : n < 0x80) (h : n ≠ 0x20 ∧ n ≠ 0x30) : notedAt (p + n) = false := by
  simp only [notedAt, Bool.or_eq_false_iff, beq_eq_false_iff_ne]
  omega

/-- A fault is set whatever follows. -/
theorem State.withBody_flt {s : State} {c : Body} {p n : Nat} (hp : p % 0x1000 = 0) (hn : n < 32) :
    (s.withBody c).flt p n ↔ c.rd p (fltStat n) = 1 := by
  unfold State.flt
  rw [State.withBody_reg hn (by rw [Fld.addr_zero]; exact notedAt_header (n := 0x40) hp (by decide) (by decide))]

/-! Pages. -/

theorem pageKind_pool : ∀ i < 64, ∀ j < 64, pageKind (64 * i + j) = some .pool → i = 60 ∧ j < 16 := by decide

/-- A pool's page by its number. -/
theorem PageIs.pool_eq {p : Nat} (h : PageIs p .pool) : Pg.pool (p / 0x1000 % 0x10) = p := by
  obtain ⟨ha, hi, hk⟩ := h
  have := pageKind_pool (p / 0x1000 / 64) (by omega) (p / 0x1000 % 64) (Nat.mod_lt _ (by decide))
    (by rw [Nat.div_add_mod]; exact hk)
  simp only [Pg.pool]
  omega

/-- What follows an effect changes registers of the ICU's and Survey's pages alone. -/
theorem PageIs.notNoted {p off : Nat} {k : PK} (h : PageIs p k) (ho : off < 0x1000) (hi : k ≠ .icu) (hs : k ≠ .survey) :
    notedAt (p + off) = false := by
  have hn : ∀ n, p / 0x1000 = n → pageKind n = some k := fun n hn => hn ▸ h.kind
  have hne : ∀ n ∈ [4, 5], p / 0x1000 ≠ n := fun n hm hp =>
    hi (Option.some.inj ((hn n hp).symm.trans ((by decide : ∀ n ∈ [4, 5], pageKind n = some .icu) n hm)))
  have h7 : p / 0x1000 ≠ 7 := fun hp => hs (Option.some.inj ((hn 7 hp).symm.trans (by decide)))
  have := hne 4 (by decide)
  have := hne 5 (by decide)
  have := h.aligned
  exact Body.notedAt_page (by omega) (by omega) (by omega)

/-- The single field at an offset of a page: its place. -/
theorem PK.only_field {k : PK} {off i j : Nat} {f : Fld} (h : k.fieldsAt off = [(f, i, j)]) :
    f ∈ k.flds ∧ f.lo < 32 ∧ ∀ p, f.addr p i j = p + off :=
  PK.mem_fieldsAt (k := k) (x := (f, i, j)) (h ▸ List.mem_singleton_self _)

/-- The indices at which a field of a page stands. -/
theorem PK.fieldsAt_lt {k : PK} {off : Nat} {x : Fld × Nat × Nat} (h : x ∈ k.fieldsAt off) : x.2.1 < x.1.cnt ∧ x.2.2 < x.1.cnt2 := by
  simp only [PK.fieldsAt, List.mem_filterMap, Option.map_eq_some_iff] at h
  obtain ⟨f, -, y, hy, rfl⟩ := h
  simp only [Fld.indexAt, Option.ite_none_left_eq_some, Option.ite_none_right_eq_some, Option.some.injEq] at hy
  obtain ⟨-, ⟨h1, -, h2⟩, rfl⟩ := hy
  exact ⟨h1, h2⟩

theorem fieldsAt_parserKey (off : Nat) (x : Fld × Nat × Nat) (h : x ∈ PK.parserKey.fieldsAt off) : x.1.acc = .rws :=
  (by decide : ∀ f ∈ PK.parserKey.flds, f.acc = .rws) _ (PK.mem_fieldsAt h).1

/-! A write of one RW field. -/

/-- The rules of these pages are the access types alone. -/
theorem Body.pageStore_plain (b : Body) {k : PK} (h : k ∈ plainKinds) (m a v : Nat) (lk : Bool) :
    b.pageStore k m a v lk = (b.takeBits a v, true) := by
  simp only [plainKinds, List.mem_cons, List.not_mem_nil, or_false] at h
  rcases h with rfl | rfl | rfl | rfl | rfl | rfl | rfl | rfl | rfl | rfl | rfl | rfl | rfl <;> rfl

theorem plainKinds_rest {k : PK} (h : k ∈ plainKinds) : k ≠ .boot ∧ k ≠ .parserKey ∧ k ≠ .icu ∧ k ≠ .survey :=
  (by decide : ∀ k ∈ plainKinds, k ≠ .boot ∧ k ≠ .parserKey ∧ k ≠ .icu ∧ k ≠ .survey) k h

/-- The word of a register of one RW field. -/
theorem Body.takeBits_rw (b : Body) {a i j : Nat} {f : Fld} (v : Nat) (h : fieldsOf a = [(f, i, j)]) (hr : f.acc = .rw) :
    b.takeBits a v = b.wr (pageOf a) f (f.of v) i j := by
  simp [takeBits, h, hr]

/-- A register write of a master is its store. -/
theorem exec_registerWrite {m addr v : Nat} {s : State} {c : Body} (h : s.reaches m addr) (ha : addrOk addr = true) (hv : v < 2 ^ 32)
    (hw : s.dev.write m addr v = { s.dev with body := c }) : exec (.registerWrite m addr v true) s = .next (s.withBody c) :=
  State.live_withBody (by rw [h.known, ha, decide_eq_true hv]; rfl) h.runs hw

theorem PageIs.addrOk {p off : Nat} {k : PK} (h : PageIs p k) (h4 : off % 4 = 0) (ho : off < 0x1000) : Sys2Proof.addrOk (p + off) = true := by
  have ha := h.aligned
  have hi := h.inside
  simp only [Sys2Proof.addrOk, Bool.and_eq_true, decide_eq_true_eq, beq_iff_eq]
  omega

/-! A write without all byte enables. -/

/-- The page that a dropped write marks. -/
def accessPage (addr : Nat) : Nat := if 0x1000000 ≤ addr then Pg.aperture else pageOf addr

theorem accessPage_aligned (addr : Nat) : accessPage addr % 0x1000 = 0 := by
  unfold accessPage
  split_ifs
  · decide
  · exact Nat.mul_mod_left ..

theorem Dev.busPartial_eq (d : Dev) (m : Nat) {addr : Nat} (h : addr % 4 = 0) (hb : d.body.boot.bar0 = true) :
    d.busPartial m addr = if placeOf addr = .nothing then d else
      { d with body := d.body.fault (accessPage addr) FLT_ACCESS { access := 2, space := 1, addr := addr, master := m } } := by
  have ha : addr / 4 * 4 = addr := by omega
  simp [busPartial, ha, hb, accessPage]

/-! A read of an RC field. -/

/-- A master's read shows the word. -/
theorem Dev.read_eq {d : Dev} {m addr v : Nat} {b : Body} (h : d.busRead m addr = ({ d with body := b }, v)) :
    d.read m addr = { d with body := { b with rdata := [v] } } := by
  simp [read, h, Dev.on]

/-- A read of a register that the fabric answers. -/
theorem exec_clearOnRead {m addr v : Nat} {s : State} {b : Body} (h : s.answers m addr) (ha : addrOk addr = true)
    (hr : s.dev.busRead m addr = ({ s.dev with body := b }, v)) :
    exec (.clearOnRead m addr) s = .next (s.withBody { b with rdata := [v] }) :=
  State.live_withBody (by rw [h.known, ha]; rfl) h.runs (Dev.read_eq hr)

theorem Dev.busRead_at {s : State} {m addr : Nat} (h : s.answers m addr) : s.dev.busRead m addr = s.dev.readAt m addr := by
  simp [Dev.busRead, h.bar0, h.reach]

/-- A read of a header register. -/
theorem Dev.busRead_header {s : State} {m p off : Nat} {k : PK} (h : s.answers m (p + off)) (hp : PageIs p k) (h4 : off % 4 = 0)
    (h2 : off < 0x80) : s.dev.busRead m (p + off) = s.dev.readHeader (p + off) k := by
  have ha : (p + off) / 4 * 4 = p + off := by have := hp.aligned; omega
  rw [Dev.busRead_at h]
  simp [Dev.readAt, ha, hp.placeOf_header h2, hp.kindAt (show off < 0x1000 by omega)]

/-- A read of a block register. -/
theorem Dev.busRead_block {s : State} {m p off : Nat} {k : PK} (h : s.answers m (p + off)) (hp : PageIs p k) (h4 : off % 4 = 0)
    (h1 : 0x80 ≤ off) (h2 : off < 0x800) : s.dev.busRead m (p + off) = s.dev.readBlock m (p + off) k := by
  have ha : (p + off) / 4 * 4 = p + off := by have := hp.aligned; omega
  rw [Dev.busRead_at h]
  simp [Dev.readAt, ha, hp.placeOf_block h1 h2, hp.kindAt (show off < 0x1000 by omega)]

theorem Body.rd_rdata (b : Body) (r : List Nat) (q : Nat) (g : Fld) (x y : Nat) : ({ b with rdata := r } : Body).rd q g x y = b.rd q g x y := rfl

/-- A read of EVT_OVR. -/
theorem Dev.readHeader_ovr (d : Dev) {p : Nat} {k : PK} (hp : PageIs p k) :
    d.readHeader (p + 0x30) k = ({ d with body := d.body.wr p R.EVT_OVR 0 }, d.body.rd p R.EVT_OVR) := by
  simp only [readHeader, hp.mod (show 0x30 < 0x1000 by decide), hp.pageOf (show 0x30 < 0x1000 by decide)]

theorem laneFields_not_rc : ∀ f ∈ PK.lane.flds, f.acc ≠ .rc := by decide

theorem minClear_spec (b : Body) (n : Nat) : (b.minClear n).rd (Pg.pool n) R.POOL_MIN = 0 ∧ (b.minClear n).ctrs = b.ctrs ∧
    (b.minClear n).tbls = b.tbls ∧ (b.minClear n).mem = b.mem :=
  ⟨(b.rd_wr_self (Pg.pool n) R.POOL_MIN 0 0 0).trans (Nat.zero_mod _), rfl, rfl, rfl⟩

/-- What the read of an RC field answers and leaves: the field's value, and zero in it. -/
theorem Dev.readField_rc (d : Dev) {p : Nat} {k : PK} {f : Fld} {i j : Nat} (hp : PageIs p k) (hf : f.acc = .rc)
    (hi : f = R.POOL_MIN → i = 0 ∧ j = 0) (m : Nat) :
    ∃ b, d.readField m p k (f, i, j) = ({ d with body := b }, d.body.rd p f i j) ∧ b.rd p f i j = 0 ∧ b.ctrs = d.body.ctrs ∧
      b.tbls = d.body.tbls ∧ b.mem = d.body.mem := by
  by_cases hpool : f = R.POOL_MIN ∧ k = .pool
  · obtain ⟨rfl, rfl⟩ := hpool
    obtain ⟨rfl, rfl⟩ := hi rfl
    refine ⟨d.body.minClear (p / 0x1000 % 0x10), by simp [readField, R.POOL_MIN], ?_⟩
    have := minClear_spec d.body (p / 0x1000 % 0x10)
    rwa [hp.pool_eq] at this
  · refine ⟨d.body.wr p f 0 i j, ?_, (Body.rd_wr_self ..).trans (Nat.zero_mod _), by simp, by simp, by simp⟩
    simp only [readField, hf, hpool, reduceCtorEq, if_false, if_true]

/-- The read of a register that holds one RC field. -/
theorem Dev.readBlock_rc (d : Dev) {m p off i j : Nat} {k : PK} {f : Fld} (hp : PageIs p k) (ho : off < 0x800)
    (hf : k.fieldsAt off = [(f, i, j)]) (hr : f.acc = .rc) (hi : d.body.rd p R.PG_RESET_BUSY = 0) :
    ∃ b, d.readBlock m (p + off) k = ({ d with body := b }, d.body.rd p f i j * 2 ^ f.lo) ∧ b.rd p f i j = 0 ∧ b.ctrs = d.body.ctrs ∧
      b.tbls = d.body.tbls ∧ b.mem = d.body.mem := by
  obtain ⟨hm, -, haddr⟩ := PK.only_field hf
  have hk : k ≠ .parserKey := by
    rintro rfl
    have := fieldsAt_parserKey off (f, i, j) (hf ▸ List.mem_singleton_self _)
    simp [hr] at this
  have hl : k ≠ .lane := by
    rintro rfl
    exact laneFields_not_rc f hm hr
  have hfs := (hp.fieldsOf (show off < 0x1000 by omega) hk).trans hf
  have htod : fieldAt (p + off) R.TOD_RD_FRAC = none := by
    have : f ≠ R.TOD_RD_FRAC := by rintro rfl; simp [R.TOD_RD_FRAC] at hr
    simp [fieldAt, hfs, this]
  have hlt := PK.fieldsAt_lt (x := (f, i, j)) (hf ▸ List.mem_singleton_self _)
  have h0 : f = R.POOL_MIN → i = 0 ∧ j = 0 := by
    rintro rfl
    exact ⟨Nat.lt_one_iff.mp hlt.1, Nat.lt_one_iff.mp hlt.2⟩
  obtain ⟨b, hb, hrest⟩ := d.readField_rc hp hr h0 m
  refine ⟨b, ?_, hrest⟩
  simp [readBlock, hp.pageOf (show off < 0x1000 by omega), Body.on, hi, hl, htod, hfs, hb]

end Sys2Proof.Machine

namespace Sys2Proof
open Machine

/-- Settles O5: the store of such a page is the write of its one field. -/
theorem registerWriteSetsRwField : Obligations.RegisterWriteSetsRwField := by
  intro m p off v k f i j s hp hk h1 h2 h4 hf hr hv ht
  obtain ⟨hb, hpk, hi, hs⟩ := plainKinds_rest hk
  obtain ⟨-, hlo, haddr⟩ := PK.only_field hf
  have hpb : p ≠ Pg.boot := fun e => hb (Option.some.inj (hp.kind.symm.trans (e ▸ pageIs_boot.kind)))
  have hfs : fieldsOf (p + off) = [(f, i, j)] := (hp.fieldsOf (by omega) hpk).trans hf
  have hw : s.dev.write m (p + off) v = { s.dev with body := s.dev.body.wr p f (f.of v) i j } := by
    rw [Dev.write_store v ht hp h1 h2 h4 hpb (by simp [PK.plain, hpk, hf, hr]), Body.pageStore_plain _ hk]
    dsimp only
    rw [Body.takeBits_rw _ v hfs hr, hp.pageOf (by omega)]
  refine ⟨_, exec_registerWrite ht.toreaches (hp.addrOk h4 (by omega)) hv hw, ?_, fun q g x y hg hn hne => ?_, ?_, ?_, ?_, ?_⟩
  · rw [State.withBody_reg hlo (by rw [haddr]; exact hp.notNoted (by omega) hi hs)]
    exact (Body.rd_wr_self ..).trans (Nat.mod_eq_of_lt (Nat.mod_lt _ (Nat.two_pow_pos _)))
  · rw [State.withBody_reg hg hn]
    exact Body.rd_wr_of_ne _ _ hne
  all_goals simp

/-- Settles O6: all that happens is the fault. -/
theorem partialWriteIsDropped : Obligations.PartialWriteIsDropped := by
  intro m addr v s hrun hb hm ha hv
  have h4 : addr % 4 = 0 := by simp only [addrOk, Bool.and_eq_true, decide_eq_true_eq, beq_iff_eq] at ha; omega
  have hok : (Master.known m && addrOk addr && decide (v < 2 ^ 32)) = true := by rw [hm, ha, decide_eq_true hv]; rfl
  have hd := s.dev.busPartial_eq m h4 hb
  refine ⟨fun hn => State.live_self hok hrun (hd.trans (if_pos hn)), fun hn =>
    ⟨_, State.live_withBody hok hrun (hd.trans (if_neg hn)), ?_, fun q g x y hg hst hne => ?_, ?_, ?_, ?_, ?_, ?_⟩⟩
  · exact (State.withBody_flt (accessPage_aligned addr) (by decide)).mpr (Body.fault_stat ..)
  · rw [State.withBody_reg_steady hg hst]
    exact Body.rd_fault _ _ (by decide) hg hne
  all_goals simp

/-- Settles O7: the read of the one field, and of EVT_OVR. -/
theorem readClearsRcField : Obligations.ReadClearsRcField := by
  refine ⟨fun m p off k f i j s hp h1 h2 h4 hf hr ha hi hst => ?_, fun m p k s hp ha hst => ?_⟩
  · obtain ⟨-, hlo, haddr⟩ := PK.only_field hf
    obtain ⟨b, hb, h0, hc, ht, hme⟩ := s.dev.readBlock_rc (m := m) hp h2 hf hr hi
    refine ⟨_, exec_clearOnRead ha (hp.addrOk h4 (by omega)) ((Dev.busRead_block ha hp h4 h1 h2).trans hb), by simp [State.reg], ?_,
      by simpa, by simpa, by simpa, rfl⟩
    rw [State.withBody_reg_steady hlo (haddr p ▸ hst)]
    exact h0
  · refine ⟨_, exec_clearOnRead ha (hp.addrOk (by decide) (by decide))
      ((Dev.busRead_header ha hp (by decide) (by decide)).trans (s.dev.readHeader_ovr hp)), by simp [State.reg], ?_⟩
    rw [State.withBody_reg_steady (by decide) (by rw [Fld.addr_zero]; exact hst)]
    exact (Body.rd_wr_self ..).trans (Nat.zero_mod _)

end Sys2Proof
end

section
/-! O8: soft reset and lock of a page (R44, R46). -/

namespace Sys2Proof.Machine

/-- A register of the common header, but for the events, reads as the body has it. -/
theorem State.withBody_header {s : State} {c : Body} {p : Nat} {f : Fld} (hp : p % 0x1000 = 0) (hf : f.lo < 32)
    (h : f.off < 0x80 ∧ f.off ≠ 0x20 ∧ f.off ≠ 0x30) : (s.withBody c).reg p f = c.rd p f :=
  State.withBody_reg hf (by rw [Fld.addr_zero]; exact notedAt_header hp h.1 h.2)

/-- A page of BAR0, as a command names it. -/
theorem PageIs.pageOk {p : Nat} {k : PK} (h : PageIs p k) : pageOk p = true := by
  simp [Sys2Proof.pageOk, h.aligned, h.kindAt_self]

/-- A write of PG_CTRL with PG_SRST and the PG_EN that stands: the reset, of the page as the control of its block leaves it. -/
theorem Body.hdrStore_ctrl (b : Body) {m p v : Nat} {k : PK} (hp : PageIs p k) (hv : bitOn v 1 = true) :
    ∃ c, (b.hdrStore m (p + 0x10) v).1 = c.softReset p ∧ (k ≠ .pool → c = b.wr p R.PG_EN (v % 2)) := by
  simp only [hdrStore, hp.kindAt (show 0x10 < 0x1000 by decide), hp.mod (show 0x10 < 0x1000 by decide),
    hp.pageOf (show 0x10 < 0x1000 by decide), ctrlStore, hv, if_true]
  refine ⟨_, rfl, fun hk => ?_⟩
  split
  · exact absurd rfl hk
  · rfl

theorem bitOn_two_add {e : Nat} (h : e < 2) : bitOn (2 + e) 1 = true := by
  simp only [bitOn, beq_iff_eq]
  omega

theorem Body.softReset_busy (b : Body) {p : Nat} {k : PK} (hp : PageIs p k) : (b.softReset p).rd p R.PG_RESET_BUSY = 1 := by
  unfold softReset
  simp only [hp.kindAt_self]
  exact Body.rd_wr_self ..

/-- The soft reset of a page whose block does nothing that it must end: the block registers read their reset values. -/
theorem Body.softReset_still_rd (b : Body) {p : Nat} {k : PK} (hp : PageIs p k) (h : k ∈ stillKinds) {f : Fld} (hf : f ∈ k.flds)
    {i j : Nat} (hi : i < f.cnt) (hj : j < f.cnt2) : (b.softReset p).rd p f i j = f.reset i % 2 ^ f.width := by
  have hb := stillKinds_block h f hf
  have hlo := PK.lo_lt f hf
  have hr : (if k = .sump then b.sumpRemap (b.regsReset p k []) else b.regsReset p k []).regs = (b.regsReset p k []).regs := by
    split_ifs
    · exact (Body.sumpRemap_kept _ _).1
    · rfl
  rw [Body.softReset_still _ hp h, Body.rd_wr_ne _ _ (by decide) (by omega) (.inl ?_)]
  · unfold Body.rd
    rw [hr]
    exact Body.rd_regsReset_still b h hf hi hj
  · simp only [Fld.addr, show R.PG_RESET_BUSY.off = 0x14 from rfl]
    omega

theorem Body.softReset_still_rest (b : Body) {p : Nat} {k : PK} (hp : PageIs p k) (h : k ∈ stillKinds) :
    (b.softReset p).ctrs = b.ctrs ∧ (b.softReset p).tbls = b.tbls ∧ (k ≠ .sump → (b.softReset p).mem = b.mem) := by
  rw [Body.softReset_still _ hp h]
  by_cases hk : k = .sump
  · obtain ⟨-, hc, ht⟩ := Body.sumpRemap_kept (b.regsReset p k []) b
    simp only [if_pos hk, Body.wr_rest, hc, ht]
    exact ⟨rfl, rfl, fun hs => absurd hk hs⟩
  · simp only [if_neg hk, Body.wr_rest]
    exact ⟨rfl, rfl, fun _ => rfl⟩

/-- A write of PG_LOCK_SET locks the page (R46). -/
theorem Dev.lockPage_spec (d : Dev) (p : Nat) : ∃ e, d.lockPage p 1 = e ∧ e.pageLocked p = true ∧ e.body = d.body ∧
    ∀ q, d.pageLocked q = true → e.pageLocked q = true := by
  refine ⟨_, rfl, ?_⟩
  unfold lockPage
  cases hl : d.pageLocked p
  · simp only [pageLocked, show bitOn 1 0 = true from rfl, Bool.false_eq_true, not_false_eq_true, and_self, if_true]
    simp +contextual
  · simp [hl]

/-- The two registers that hold what Survey may show of a customer. -/
theorem userCfg_at : ∀ i < 2, PK.survey.fieldsAt (0x90 + 4 * i) = [(R.SVY_USER_CFG, i, 0)] := by decide

/-- A write of a locked page's RWL register is a fault (R46). -/
theorem Body.storeSvy_locked (b : Body) {m i : Nat} (v : Nat) (hi : i < 2) (hm : Master.isCustomer m = false) :
    ∃ x, (b.storeSvy m (Pg.survey + (0x90 + 4 * i)) v true).1 = b.fault Pg.survey FLT_LOCK_VIOL x := by
  have hf : fieldsOf (Pg.survey + (0x90 + 4 * i)) = [(R.SVY_USER_CFG, i, 0)] :=
    (pageIs_survey.fieldsOf (by omega) (by decide)).trans (userCfg_at i hi)
  refine ⟨dropInfo m (Pg.survey + (0x90 + 4 * i)), ?_⟩
  simp only [storeSvy, hm, Bool.false_eq_true, if_false, storeRwl, hf, takeGo, takeBits, goes, fieldAt,
    pageIs_survey.pageOf (show 0x90 + 4 * i < 0x1000 by omega)]
  rfl

end Sys2Proof.Machine

namespace Sys2Proof
open Machine

/-- Settles O8: the reset and its end, the lock, and a write that the lock drops. -/
theorem pageResetAndLock : Obligations.PageResetAndLock := by
  refine ⟨fun m p k s hp h => ?_, fun p k s hp h => ?_, fun m p k s hp h => ?_, fun m v i s hi hv hm ht hl => ?_⟩
  · obtain ⟨c, hc, hpool⟩ := s.dev.body.hdrStore_ctrl (m := m) (v := 2 + s.dev.body.rd p R.PG_EN) hp
      (bitOn_two_add (s.dev.body.rd_lt p R.PG_EN 0 0))
    have hw := Dev.write_header (2 + s.dev.body.rd p R.PG_EN) h hp (by decide) (by decide) (by decide)
    rw [hc] at hw
    refine ⟨_, State.live_withBody (by rw [hp.pageOk, h.known]; rfl) h.runs hw, ?_, fun hk f i j hf _ hi hj => ?_, fun hk => ?_⟩
    · rw [State.withBody_header hp.aligned (by decide) (by decide)]
      exact Body.softReset_busy _ hp
    · have hb := stillKinds_block hk f hf
      obtain ⟨-, -, hicu, -, hsvy, -, -⟩ := stillKinds_rest hk
      have h1 : f.stride * i ≤ f.stride * (f.cnt - 1) := Nat.mul_le_mul_left _ (by omega)
      have hlo := PK.lo_lt f hf
      rw [State.withBody_reg (by omega) ?_, Body.softReset_still_rd _ hp hk hf hi hj]
      rw [Fld.addr, Nat.add_assoc, Nat.add_assoc]
      exact hp.notNoted (by omega) hicu hsvy
    · obtain ⟨h1, h2, h3⟩ := c.softReset_still_rest hp hk
      have hkp := (stillKinds_rest hk).2.1
      rw [hpool hkp] at h1 h2 h3 ⊢
      exact ⟨State.withBody_ctrs.trans (h1.trans (by simp)), by rw [State.withBody_rest.2.2.2.1, h2]; simp,
        fun hs => State.withBody_mem.trans ((h3 hs).trans (by simp)), rfl⟩
  · refine ⟨_, State.body_withBody hp.pageOk h rfl, ?_, fun q g x y hg hst hne => ?_, ?_, ?_, rfl⟩
    · rw [State.withBody_header hp.aligned (by decide) (by decide)]
      exact Body.rd_wr_self ..
    · rw [State.withBody_reg_steady hg hst]
      exact Body.rd_wr_of_ne _ _ hne
    all_goals simp [Body.softResetDone]
  · obtain ⟨d, hd, hl, hb, hq⟩ := s.dev.lockPage_spec p
    refine ⟨{ s with dev := d }, ?_, hl, hb, hq⟩
    refine (State.live_runs s _ (by rw [hp.pageOk, h.known]; rfl) h.runs).trans ?_
    simp only [Dev.after, Dev.write_lock 1 h hp, hd, hb, Body.note_self]
    rw [← hb]
  · have ha : R.SVY_USER_CFG.addr Pg.survey i 0 = Pg.survey + (0x90 + 4 * i) := by simp only [Fld.addr, R.SVY_USER_CFG]; omega
    rw [ha] at ht ⊢
    obtain ⟨x, hx⟩ := s.dev.body.storeSvy_locked v hi hm
    have hpl : PK.survey.plain (0x90 + 4 * i) = true := by simp [PK.plain, userCfg_at i hi, R.SVY_USER_CFG]
    have hw := Dev.write_store v ht pageIs_survey (by omega) (by omega) (by omega) (by decide) hpl
    rw [hl] at hw
    replace hw := hw.trans (congrArg (fun b => ({ s.dev with body := b } : Dev)) hx)
    refine ⟨_, exec_registerWrite ht.toreaches (pageIs_survey.addrOk (by omega) (by omega)) hv hw,
      (State.withBody_flt (by decide) (by decide)).mpr (Body.fault_stat ..), ?_⟩
    rw [State.withBody_reg (by decide) (by rw [ha]; simp only [notedAt, Pg.survey, Bool.or_eq_false_iff, beq_eq_false_iff_ne]; omega)]
    exact Body.rd_fault _ _ (by decide) (by decide) (.inl (by rw [ha]; omega))

end Sys2Proof
end

section
/-! O9: injected events and faults (R42, R43, R447, R457). -/

namespace Sys2Proof.Machine

/-- What every step of a fold keeps, for the elements that it runs over. -/
theorem foldl_keeps_mem {α β : Type} (P : α → Prop) (f : α → β → α) (l : List β) (a : α) (hf : ∀ a, ∀ x ∈ l, P a → P (f a x)) (h : P a) :
    P (l.foldl f a) := by
  induction l generalizing a with
  | nil => exact h
  | cons x t ih => exact ih _ (fun a y hy => hf a y (List.mem_cons_of_mem x hy)) (hf a x List.mem_cons_self h)

/-- What holds after a fold because one of its steps makes it hold and no step ends it. -/
theorem foldl_sets_of {α β : Type} (Q : α → Prop) (f : α → β → α) {l : List β} {x : β} (hx : x ∈ l) (h1 : ∀ a, Q (f a x))
    (h2 : ∀ a, ∀ y ∈ l, Q a → Q (f a y)) (a : α) : Q (l.foldl f a) := by
  induction l generalizing a with
  | nil => cases hx
  | cons y t ih =>
    have ht : ∀ a, ∀ z ∈ t, Q a → Q (f a z) := fun a z hz => h2 a z (List.mem_cons_of_mem y hz)
    rw [List.foldl_cons]
    by_cases hxt : x ∈ t
    · exact ih hxt ht _
    · obtain rfl := (List.mem_cons.mp hx).resolve_right hxt
      exact foldl_keeps_mem Q f t _ ht (h1 a)

namespace Body

variable (b : Body)

/-! Pending events. -/

/-- An event pending stays pending through another. -/
theorem fire_keeps_pend {p q n m : Nat} (hn : n < 32) (hm : m < 32) (hp : p % 0x1000 = 0) (hq : q % 0x1000 = 0)
    (h : b.rd p (evtPend n) = 1) : (b.fire q m).rd p (evtPend n) = 1 := by
  by_cases he : p = q ∧ n = m
  · obtain ⟨rfl, rfl⟩ := he
    exact b.fire_pend hn hp
  · have ha : (evtPend n).addr p 0 0 = p + 0x20 := rfl
    rw [b.rd_fire hm (g := evtPend n) hn, h]
    all_goals rw [ha]
    · by_cases hpq : p = q
      · exact .inr fun e : n = m => he ⟨hpq, e⟩
      · exact .inl (by omega)
    all_goals omega

theorem note_keeps_pend (was : Body) {p n : Nat} (hn : n < 32) (hp : p % 0x1000 = 0) (h : b.rd p (evtPend n) = 1) :
    (note was b).rd p (evtPend n) = 1 := by
  have hadd : ∀ (c : Body) (i m : Nat), i < 64 → c.rd p (evtPend n) = 1 → (c.svyAdd i m).rd p (evtPend n) = 1 := by
    intro c i m hi hc
    unfold svyAdd
    dsimp only
    split_ifs
    · refine fire_keeps_pend _ hn (by decide) hp (by decide) ?_
      rw [rd_wr_ne _ _ (by decide) hn (.inl ?_)]
      · exact hc
      · have ha : (evtPend n).addr p 0 0 = p + 0x20 := rfl
        rw [ha]
        simp only [Fld.addr, Pg.survey, R.SVY_WRAP]
        omega
    · exact hc
  unfold note svyNote
  have hpool : (poolNote was b).rd p (evtPend n) = 1 := (b.poolNote_same (fun c => c.rd p (evtPend n)) (fun _ _ => rfl) was).trans h
  split_ifs
  · exact hpool
  · refine foldl_keeps_mem (fun c : Body => c.rd p (evtPend n) = 1) _ _ _ (fun c e he hc => ?_) hpool
    have hone : ∀ k, (if k = 0 then c else c.svyAdd e.1 k).rd p (evtPend n) = 1 := fun k => by
      split
      · exact hc
      · exact hadd _ _ _ (mem_svyOn_lt _ he) hc
    exact hone _

/-- EVT_OVR counts an event that was pending (R447). -/
theorem fire_ovr {p n : Nat} (hn : n < 32) (hp : p % 0x1000 = 0) : (b.fire p n).rd p R.EVT_OVR =
    if b.on p (evtPend n) then min (b.rd p R.EVT_OVR + 1) (2 ^ 32 - 1) else b.rd p R.EVT_OVR := by
  have ha : R.EVT_OVR.addr p 0 0 = p + 0x30 := rfl
  unfold fire
  dsimp only
  split_ifs
  · refine (rd_wr_self ..).trans (Nat.mod_eq_of_lt ?_)
    have : R.EVT_OVR.width = 32 := rfl
    rw [this]
    omega
  · rw [rd_icuEdge _ _ (by decide) (by rw [ha]; omega) (by rw [ha]; omega)]
    · exact rd_wr_ne _ _ hn (by decide) (.inl (by rw [ha]; simp only [Fld.addr, evtPend]; omega))
    · exact (b.wr p (evtPend n) 1).rd_lt p (evtClass n) 0 0 |>.trans_le (by simp [evtClass, Fld.width])
  · exact rd_wr_ne _ _ hn (by decide) (.inl (by rw [ha]; simp only [Fld.addr, evtPend]; omega))

/-- Every loop put in HANDS_OFF. -/
def handsOff : Body := (List.range 6).foldl (fun b n => b.wr Pg.governor R.GOV_MODE_EFF 1 n) b

theorem handsOff_mode {loop : Nat} (hl : loop < 6) : b.handsOff.rd Pg.governor R.GOV_MODE_EFF loop = 1 := by
  unfold handsOff
  refine foldl_sets_of (fun c : Body => c.rd Pg.governor R.GOV_MODE_EFF loop = 1) (fun c n => c.wr Pg.governor R.GOV_MODE_EFF 1 n)
    (List.mem_range.mpr hl) (fun c => by rw [rd_wr_self]; rfl) (fun c n _ hc => ?_) _
  by_cases hn : n = loop
  · rw [hn, rd_wr_self]; rfl
  · rw [rd_wr_ne _ _ (by decide) (by decide) (.inl (by simp only [Fld.addr, R.GOV_MODE_EFF]; omega))]
    exact hc

theorem handsOff_header {q : Nat} {g : Fld} (hg : g.lo < 32) (hq : q % 0x1000 = 0) (ho : g.off < 0x80) : b.handsOff.rd q g = b.rd q g := by
  unfold handsOff
  refine foldl_same_mem (fun c : Body => c.rd q g) (fun c n => c.wr Pg.governor R.GOV_MODE_EFF 1 n) _ _ fun c n hn => ?_
  have := List.mem_range.mp hn
  have : g.addr q 0 0 = q + g.off := g.addr_zero q
  exact rd_wr_ne _ _ (by decide) hg (.inl (by rw [this]; simp only [Fld.addr, R.GOV_MODE_EFF, Pg.governor]; omega))

theorem handsOff_gov : b.handsOff.gov = b.gov := foldl_same (fun c : Body => c.gov) _ (fun c n => by simp) _ _

/-- The Governor's stall by injection: the loops are frozen in HANDS_OFF before its event (R32). -/
theorem govStall_spec : ∃ c : Body, b.govStall true = c.fire Pg.governor R.GOV_EVT_STALL ∧ c.gov.frozen = true ∧
    (∀ loop < 6, c.rd Pg.governor R.GOV_MODE_EFF loop = 1) ∧
    ∀ (q : Nat) (g : Fld), g.lo < 32 → q % 0x1000 = 0 → g.off < 0x80 → c.rd q g = b.rd q g := by
  let f : Body := handsOff { b with gov := { b.gov with frozen := true } }
  refine ⟨(f.free 5).2.report Pg.governor (f.free 5).1 { inj := true }, by simp only [govStall, not_true_eq_false, and_false, if_false]; rfl,
    ?_, fun loop hl => ?_, fun q g hg hq ho => ?_⟩
  · rw [(report_rest ..).2.2.2.2.2.2.1, (free_rest ..).2.2.2.2.2.2.1]
    exact congrArg GovSt.frozen (handsOff_gov _)
  · rw [report_rd, free_rd]
    exact handsOff_mode _ hl
  · rw [report_rd, free_rd]
    exact handsOff_header _ hg hq ho

/-! Events injected. -/

/-- A write of EVT_INJ is the injection. -/
theorem hdrStore_evtInj {m p v : Nat} {k : PK} (hp : PageIs p k) : (b.hdrStore m (p + 0x2C) v).1 = b.evtInject p v := by
  simp only [hdrStore, hp.kindAt (show 0x2C < 0x1000 by decide), hp.mod (show 0x2C < 0x1000 by decide),
    hp.pageOf (show 0x2C < 0x1000 by decide)]

/-- A write of FLT_INJ is the injection. -/
theorem hdrStore_fltInj {m p v : Nat} {k : PK} (hp : PageIs p k) : (b.hdrStore m (p + 0x48) v).1 = b.fltInject p v := by
  simp only [hdrStore, hp.kindAt (show 0x48 < 0x1000 by decide), hp.mod (show 0x48 < 0x1000 by decide),
    hp.pageOf (show 0x48 < 0x1000 by decide)]

/-- What EVT_INJ makes of one event of a page. -/
def evtStep (p v : Nat) (b : Body) (n : Nat) : Body :=
  if ¬ bitOn v n then b else if p = Pg.governor ∧ n = R.GOV_EVT_STALL then b.govStall true else b.fire p n

theorem evtInject_eq {p : Nat} {k : PK} (hp : PageIs p k) (v : Nat) : b.evtInject p v = k.evts.foldl (evtStep p v) b := by
  unfold evtInject
  simp only [hp.kindAt_self]
  rfl

/-- The Governor's loops frozen in HANDS_OFF. -/
def Stalled : Prop := b.gov.frozen = true ∧ ∀ loop < 6, b.rd Pg.governor R.GOV_MODE_EFF loop = 1

theorem Stalled.fire {b : Body} (h : b.Stalled) {p n : Nat} (hp : p % 0x1000 = 0) (hn : n < 32) : (b.fire p n).Stalled := by
  refine ⟨by rw [(fire_rest ..).2.2.2.2.2.1]; exact h.1, fun loop hl => ?_⟩
  have ha : R.GOV_MODE_EFF.addr Pg.governor loop 0 = 0x20A0 + 4 * loop := by simp only [Fld.addr, R.GOV_MODE_EFF, Pg.governor]; omega
  rw [rd_fire _ hn (by decide) (by rw [ha]; omega) (by rw [ha]; omega) (by rw [ha]; omega) (by rw [ha]; omega)]
  exact h.2 loop hl

theorem govStall_stalled : (b.govStall true).Stalled := by
  obtain ⟨c, hc, hf, hm, -⟩ := b.govStall_spec
  rw [hc]
  exact Stalled.fire ⟨hf, hm⟩ (by decide) (by decide)

theorem govStall_keeps_pend {p n : Nat} (hn : n < 32) (hp : p % 0x1000 = 0) (h : b.rd p (evtPend n) = 1) :
    (b.govStall true).rd p (evtPend n) = 1 := by
  obtain ⟨c, hc, -, -, hrd⟩ := b.govStall_spec
  rw [hc]
  exact c.fire_keeps_pend hn (by decide) hp (by decide) ((hrd p _ hn hp (by simp [evtPend])).trans h)

theorem evtStep_keeps_pend {p n m v : Nat} (hn : n < 32) (hm : m < 32) (hp : p % 0x1000 = 0) (h : b.rd p (evtPend n) = 1) :
    (evtStep p v b m).rd p (evtPend n) = 1 := by
  unfold evtStep
  split_ifs
  · exact b.govStall_keeps_pend hn hp h
  · exact b.fire_keeps_pend hn hm hp hp h
  · exact h

theorem evtStep_pend {p n v : Nat} (hn : n < 32) (hp : p % 0x1000 = 0) (hv : bitOn v n = true) : (evtStep p v b n).rd p (evtPend n) = 1 := by
  unfold evtStep
  rw [hv, if_neg (by simp)]
  split_ifs with h
  · obtain ⟨rfl, rfl⟩ := h
    obtain ⟨c, hc, -⟩ := b.govStall_spec
    rw [hc]
    exact c.fire_pend hn hp
  · exact b.fire_pend hn hp

/-- Every event selected is pending (R42). -/
theorem evtInject_pend {p n v : Nat} {k : PK} (hp : PageIs p k) (hk : n ∈ k.evts) (hv : bitOn v n = true) :
    (b.evtInject p v).rd p (evtPend n) = 1 := by
  have hn := k.evts_bits.2 n hk
  rw [b.evtInject_eq hp]
  exact foldl_sets_of (fun c : Body => c.rd p (evtPend n) = 1) _ hk (fun c => c.evtStep_pend hn hp.aligned hv)
    (fun c m hm hc => c.evtStep_keeps_pend hn (k.evts_bits.2 m hm) hp.aligned hc) b

/-- A stall injected stalls (R32). -/
theorem evtInject_stalled {v : Nat} (hv : bitOn v R.GOV_EVT_STALL = true) : (b.evtInject Pg.governor v).Stalled := by
  rw [b.evtInject_eq pageIs_governor]
  refine foldl_sets_of Stalled _ (x := R.GOV_EVT_STALL) (by decide) (fun c => ?_) (fun c m hm hc => ?_) b
  · simp only [evtStep, hv, not_true_eq_false, if_false, and_self, if_true]
    exact c.govStall_stalled
  · unfold evtStep
    split_ifs
    · exact c.govStall_stalled
    · exact hc.fire (p := Pg.governor) (by decide) (PK.governor.evts_bits.2 m hm)
    · exact hc

/-- One event injected is the event of a body that differs in no header. -/
theorem evtInject_fire {p n : Nat} {k : PK} (hp : PageIs p k) (hn : n ∈ k.evts) :
    ∃ c : Body, b.evtInject p (2 ^ n) = c.fire p n ∧ ∀ g : Fld, g.lo < 32 → g.off < 0x80 → c.rd p g = b.rd p g := by
  by_cases hg : p = Pg.governor ∧ n = R.GOV_EVT_STALL
  · obtain ⟨rfl, rfl⟩ := hg
    obtain ⟨c, hc, -, -, hrd⟩ := b.govStall_spec
    refine ⟨c, ?_, fun g hg ho => hrd _ g hg (by decide) ho⟩
    rw [b.evtInject_eq hp, foldl_one _ R.GOV_EVT_STALL _ _ k.evts_bits.1 hn, ← hc]
    · simp [evtStep, bitOn_two_pow]
    · intro a y _ hy
      simp [evtStep, bitOn_two_pow, Ne.symm hy]
  · exact ⟨b, b.evtInject_one hp hn hg, fun _ _ _ => rfl⟩

/-! Faults injected. -/

/-- The detectors that FLT_INJ arms, or that trip the engine, instead of setting their bit. -/
def armedFlts : List (PK × Nat) := [(.lamp, 0), (.galPower, 0), (.fmu, 0), (.pool, 0), (.parser, 0), (.act, 1), (.preclass, 0)]

theorem fltInject_one {p n : Nat} {k : PK} (hp : PageIs p k) (hn : n ∈ k.fltBits) : b.fltInject p (2 ^ n) = b.fltFire p k n := by
  unfold fltInject
  simp only [hp.kindAt_self]
  rw [foldl_one _ n _ _ k.flts_bits.1 hn]
  · simp [bitOn_two_pow]
  · intro a y _ hy
    simp [bitOn_two_pow, Ne.symm hy]

/-- A fault that is not enabled is not reported. -/
theorem fault_unreported {p n : Nat} (x : FltInfo) (hn : n < 32) (h : b.rd p (fltEn n) = 0) :
    (b.fault p n x).irq.reports = b.irq.reports := by
  have h1 : (b.wr p (fltStat n) 1).on p (fltEn n) = false := by
    unfold on
    rw [rd_wr_ne _ _ hn hn (.inl (by simp [Fld.addr, fltEn, fltStat])), h]
    rfl
  unfold fault
  simp [h1]

/-- A body that differs in nothing that a report of fault `n` of a page shows. -/
structure Told (p n : Nat) (b c : Body) : Prop where
  reports : c.irq.reports = b.irq.reports
  clk : c.clk = b.clk
  en : c.rd p (fltEn n) = b.rd p (fltEn n)

/-- The effect of a detector that sets its bit: it is the fault of such a body. -/
structure Faulted (p n : Nat) (b c : Body) : Prop where
  set : c.rd p (fltStat n) = 1
  told : b.rd p (fltEn n) = 1 → ∃ r, c.irq.reports = b.irq.reports ++ [r] ∧ r.page = p ∧ r.bit = n ∧ r.at_ = b.clk
  untold : b.rd p (fltEn n) = 0 → c.irq.reports = b.irq.reports

theorem Told.fault {p n : Nat} {b c : Body} (h : Told p n b c) (x : FltInfo) (hn : n < 32) (hp : p % 0x1000 = 0) :
    Faulted p n b (c.fault p n x) where
  set := c.fault_stat ..
  told he := ⟨_, by rw [c.fault_report x hn hp (by rw [on, h.en, he]; rfl), h.reports], rfl, rfl, h.clk⟩
  untold he := (c.fault_unreported x hn (h.en.trans he)).trans h.reports

theorem Faulted.fire {p n q m : Nat} {b c : Body} (h : Faulted p n b c) (hn : n < 32) (hm : m < 32) (hp : p % 0x1000 = 0)
    (hq : q % 0x1000 = 0) : Faulted p n b (c.fire q m) where
  set := by
    have ha : (fltStat n).addr p 0 0 = p + 0x40 := rfl
    rw [rd_fire _ hm hn (by rw [ha]; omega) (by rw [ha]; omega) (by rw [ha]; omega) (by rw [ha]; omega)]
    exact h.set
  told he := by rw [(fire_reports ..).1]; exact h.told he
  untold he := by rw [(fire_reports ..).1]; exact h.untold he

theorem Faulted.grt {p n : Nat} {b c : Body} (h : Faulted p n b c) (g : GrtSt) : Faulted p n b { c with grt := g } :=
  ⟨h.set, h.told, h.untold⟩

theorem Told.refl (p n : Nat) : Told p n b b := ⟨rfl, rfl, rfl⟩

theorem setIcu_told (k i : Nat) (x : IcuSrc) (p n : Nat) : Told p n b (b.setIcu k i x) := by
  refine ⟨?_, by simp, by simp⟩
  unfold setIcu
  split_ifs <;> rfl

theorem icuStateFault_told (k p n : Nat) : Told p n b (b.icuStateFault k) := by
  unfold icuStateFault
  split
  · exact b.setIcu_told ..
  · exact .refl ..

theorem freeListErr_told {p n : Nat} (hn : n < 32) (hp : p % 0x1000 = 0) : Told p n b b.freeListErr := by
  unfold freeListErr
  split_ifs
  · exact .refl ..
  · have ha : (fltEn n).addr p 0 0 = p + 0x44 := rfl
    refine ⟨by simp [freeTake], by simp [freeTake], ?_⟩
    rw [rd_wr_ne _ _ (by decide) hn (.inl (by rw [ha]; simp only [Fld.addr, Pg.chm, R.CHM_FREE]; omega)),
      rd_fire _ (by decide) hn (by rw [ha]; simp only [Pg.rim]; omega) (by rw [ha]; simp only [Pg.rim]; omega) (by rw [ha]; omega)
        (by rw [ha]; omega)]
    rfl

theorem keyInject_told (g p n : Nat) : Told p n b (b.keyInject g) := by
  unfold keyInject
  dsimp only
  split
  · exact .refl ..
  · exact ⟨by simp, by simp, rfl⟩

theorem deadlockFire_faulted {c n : Nat} (hn : n = R.GRT_FLT_DEADLOCK) : Faulted (Pg.core c 0) n b (b.deadlockFire c true) := by
  subst hn
  have hp : Pg.core c 0 % 0x1000 = 0 := by simp only [Pg.core]; omega
  have ht : ∀ v, Told (Pg.core c 0) R.GRT_FLT_DEADLOCK b
      ((((b.setBit (8 * c) 28).wr (Pg.core c 0) R.GRT_DL_THREADS v).count (Pg.core c 3) 32)) := fun v => by
    refine ⟨by simp [setBit_rest], by simp; rfl, ?_⟩
    rw [count_rd, rd_wr_other _ (by decide)]
    rfl
  unfold deadlockFire
  dsimp only
  have hf := fun v => (ht v).fault { access := 0, space := 7, master := 0x100 + 8 * c, detail := c, inj := true } (by decide) hp
  generalize hv : List.foldl (fun x y : Nat => x + y) 0 _ = v
  replace hf := (hf v).grt
  generalize hd : Body.fault _ (Pg.core c 0) R.GRT_FLT_DEADLOCK _ = d at hf ⊢
  split
  · exact (hf _).fire (by decide) (by decide) hp hp
  · exact hf _

theorem pageKind_core0 : ∀ i < 64, ∀ j < 64, pageKind (64 * i + j) = some .core0 → 52 ≤ i ∧ i < 54 ∧ j % 4 = 0 := by decide

theorem PageIs_core0_eq {p : Nat} (h : PageIs p .core0) : Pg.core (p / 0x4000 % 32) 0 = p := by
  obtain ⟨ha, hi, hk⟩ := h
  have := pageKind_core0 (p / 0x1000 / 64) (by omega) (p / 0x1000 % 64) (Nat.mod_lt _ (by decide)) (by rw [Nat.div_add_mod]; exact hk)
  simp only [Pg.core]
  omega

/-- A detector that is not armed sets its bit, with its full effect. -/
theorem fltFire_faulted {p n : Nat} {k : PK} (hp : PageIs p k) (hn : n < 32) (ha : (k, n) ∉ armedFlts) :
    Faulted p n b (b.fltFire p k n) := by
  have ht := fun (c : Body) (h : Told p n b c) => h.fault { inj := true } hn hp.aligned
  unfold fltFire
  dsimp only
  split
  · exact absurd (by decide) ha
  · exact absurd (by decide) ha
  · exact absurd (by decide) ha
  · exact ht _ (b.icuStateFault_told ..)
  · exact absurd (by decide) ha
  · exact ht _ (b.freeListErr_told hn hp.aligned)
  · exact ht _ ⟨by simp [selfCheck], by simp [selfCheck], rfl⟩
  · have := b.deadlockFire_faulted (c := p / 0x4000 % 32) (n := 2) rfl
    rwa [PageIs_core0_eq hp] at this
  · exact absurd (by decide) ha
  · exact absurd (by decide) ha
  · exact ht _ (b.keyInject_told ..)
  · exact absurd (by decide) ha
  · exact ht b (.refl ..)

end Body

/-- What follows an effect leaves the FMU's armed detector. -/
theorem Body.note_recArm (was b : Body) : (Body.note was b).irq.recArm = b.irq.recArm := by
  have hfire : ∀ (c : Body) (p n : Nat), (c.fire p n).irq.recArm = c.irq.recArm := by
    intro c p n
    unfold Body.fire Body.icuEdge Body.setIcu
    dsimp only
    split_ifs <;> simp <;> split <;> simp
  have hadd : ∀ (c : Body) (i m : Nat), (c.svyAdd i m).irq.recArm = c.irq.recArm := by
    intro c i m
    unfold Body.svyAdd
    dsimp only
    split_ifs
    · rw [hfire, (Body.wr_rest ..).2.2.2.2.2.1]
    · rfl
  have hpool : (Body.poolNote was b).irq.recArm = b.irq.recArm := b.poolNote_same (fun c => c.irq.recArm) (fun _ _ => rfl) was
  unfold Body.note Body.svyNote
  split_ifs
  · exact hpool
  · refine (foldl_same (fun c : Body => c.irq.recArm) _ (fun c e => ?_) _ _).trans hpool
    dsimp only
    have hone : ∀ k, (if k = 0 then c else c.svyAdd e.1 k).irq.recArm = c.irq.recArm := fun k => by
      split
      · rfl
      · exact hadd ..
    exact hone _

/-- A pool's detector is armed for a buffer that is allocated, or for the next. -/
theorem Body.fltFire_pool (b : Body) (p : Nat) : p / 0x1000 % 0x10 ∈ (b.fltFire p .pool 0).buf.bitArm ∨
    ∃ i, (p / 0x1000 % 0x10, i) ∈ (b.fltFire p .pool 0).buf.bitBad := by
  have he : b.fltFire p .pool 0 =
      if b.buf.bitArm.contains (p / 0x1000 % 0x10) then b
      else match b.allocOf (p / 0x1000 % 0x10) with
        | i :: _ => if b.buf.bitBad.contains (p / 0x1000 % 0x10, i) then b
          else { b with buf := { b.buf with bitBad := (p / 0x1000 % 0x10, i) :: b.buf.bitBad } }
        | [] => { b with buf := { b.buf with bitArm := p / 0x1000 % 0x10 :: b.buf.bitArm } } := rfl
  rw [he]
  split
  · rename_i h
    exact .inl (List.contains_iff_mem.mp h)
  · split
    · rename_i i _ _
      split
      · rename_i h
        exact .inr ⟨i, List.contains_iff_mem.mp h⟩
      · exact .inr ⟨i, List.mem_cons_self ..⟩
    · exact .inl (List.mem_cons_self ..)

/-- Only the register of the comparator's page and its bits change with a thermal trip. -/
theorem Body.thermTrip_spec (b : Body) (inj : Bool) : (b.thermTrip inj).sup.mode = .tripped ∧
    (b.thermTrip inj).rd Pg.lamp R.TH_TRIP_LAST = 1 := by
  refine ⟨rfl, ?_⟩
  have h1 : ((b.wr Pg.lamp R.TH_TRIP_LAST 1).wr Pg.fmu R.FMU_TRIP_HOLD 1).rd Pg.lamp R.TH_TRIP_LAST = 1 := by
    rw [Body.rd_wr_ne _ _ (by decide) (by decide) (by decide), Body.rd_wr_self]
    rfl
  change Body.rd (Body.todInvalid _) Pg.lamp R.TH_TRIP_LAST = 1
  unfold Body.todInvalid
  split_ifs
  · rw [Body.rd_fire _ (by decide) (by decide) (by decide) (by decide) (by decide) (by decide),
      Body.rd_wr_ne _ _ (by decide) (by decide) (by decide)]
    exact h1
  · exact h1

end Sys2Proof.Machine

namespace Sys2Proof
open Machine

/-- Settles O9: events by their fold, faults by their detectors. -/
theorem injectedEventsAndFaults : Obligations.InjectedEventsAndFaults := by
  refine ⟨fun m p v k s hp hv h => ?_, fun m p n k s hp hn h hs1 hs2 => ?_, fun m p n k s hp hn h => ?_⟩
  · have hw := Dev.write_header v h hp (by decide) (by decide) (by decide)
    rw [Body.hdrStore_evtInj _ hp] at hw
    refine ⟨_, State.live_withBody (by rw [hp.pageOk, h.known, decide_eq_true hv]; rfl) h.runs hw, fun n hn hb => ?_, ?_⟩
    · exact Body.note_keeps_pend _ _ (k.evts_bits.2 n hn) hp.aligned (Body.evtInject_pend _ hp hn hb)
    · rintro rfl hb
      obtain ⟨hf, hm⟩ := s.dev.body.evtInject_stalled hb
      refine ⟨by rw [State.withBody_rest.2.2.2.2.1]; exact hf, fun loop hl => ?_⟩
      rw [State.withBody_reg (by decide) (Body.notedAt_page ?_ ?_ ?_)]
      · exact hm loop hl
      all_goals simp only [Fld.addr, R.GOV_MODE_EFF, Pg.governor]; omega
  · have hw := Dev.write_header (2 ^ n) h hp (by decide) (by decide) (by decide)
    have hn32 := k.evts_bits.2 n hn
    obtain ⟨c, hc, hrd⟩ := s.dev.body.evtInject_fire hp hn
    rw [Body.hdrStore_evtInj _ hp, hc] at hw
    have hpend : c.on p (evtPend n) = true ↔ s.evt p n := by
      unfold Body.on
      rw [hrd _ hn32 (by simp [evtPend]), beq_iff_eq]
      rfl
    have hovr : (s.withBody (c.fire p n)).reg p R.EVT_OVR = _ :=
      (State.withBody_reg_steady (by decide) (by rw [Fld.addr_zero]; exact hs2)).trans (c.fire_ovr hn32 hp.aligned)
    rw [hrd R.EVT_OVR (by decide) (by decide)] at hovr
    refine ⟨_, State.live_withBody (by rw [hp.pageOk, h.known, decide_eq_true (Nat.pow_lt_pow_right (by decide) hn32)]; rfl) h.runs hw,
      fun he => ?_, fun he => ?_⟩
    · exact hovr.trans (if_pos (hpend.mpr he))
    · exact hovr.trans (if_neg (mt hpend.mp he))
  · have hn32 := k.flts_bits.2 n hn
    have hw := Dev.write_header (2 ^ n) h hp (by decide) (by decide) (by decide)
    rw [Body.hdrStore_fltInj _ hp, s.dev.body.fltInject_one hp hn] at hw
    refine ⟨_, State.live_withBody (by rw [hp.pageOk, h.known, decide_eq_true (Nat.pow_lt_pow_right (by decide) hn32)]; rfl) h.runs hw,
      fun ha => ?_, ?_, ?_, ?_, ?_, ?_, ?_, ?_⟩
    · obtain ⟨h1, h2, h3⟩ := s.dev.body.fltFire_faulted hp hn32 ha
      rw [State.withBody_flt hp.aligned hn32, State.withBody_reports]
      exact ⟨h1, h2, h3⟩
    · rintro ⟨⟩
      obtain ⟨hm, hr⟩ := (s.dev.body.glwMark 17).thermTrip_spec true
      refine ⟨by rw [State.withBody_rest.2.2.2.2.2.2.2.2.2.2.2.2.2.2.2.2.1]; exact hm, ?_⟩
      exact (State.withBody_reg (by decide) (by decide)).trans hr
    · rintro ⟨⟩
      simp only [Body.gp, State.withBody_rest, Body.fltFire, Body.setGp, Sp.get_set_self]
    · rintro ⟨⟩
      exact Body.note_recArm _ _
    · rintro ⟨⟩
      rw [State.withBody_buf]
      exact s.dev.body.fltFire_pool p
    · rintro ⟨⟩
      simp only [State.withBody_rest, Body.fltFire, mem_insertNat, true_or]
    · rintro ⟨⟩
      simp only [State.withBody_rest, Body.fltFire, mem_insertNat, true_or]
    · rintro ⟨⟩
      simp only [State.withBody_rest, Body.fltFire, mem_insertNat, true_or]

end Sys2Proof
end

section
/-! O10: windows and apertures (R49 to R52). -/

namespace Sys2Proof.Machine

theorem winOk_addrOk {addr : Nat} (h : winOk addr = true) : addrOk addr = true := by
  simp only [winOk, Bool.and_eq_true] at h
  exact h.1

theorem winOf_ge (addr : Nat) : 0x1000000 ≤ Body.winOf addr ↔ 0x1000000 ≤ addr := by
  unfold Body.winOf pageOf
  split <;> omega

namespace Body

variable (b : Body)

/-! Writes of a word. -/

theorem winWrite_ent {m addr v tid idx : Nat} (h : (b.viewOf addr).of = .ent tid idx) :
    b.winWrite m addr v = b.asmWrite m addr (winOf addr) (b.viewOf addr) tid idx v := by
  simp only [winWrite, h]

/-- The first write of a word of an entry of several words (R50). -/
theorem asmWrite_first {m addr w tid idx x : Nat} {v : View} (hs : v.off + 4 < v.stride) (hn : ∀ a ∈ b.win.asm, a.win ≠ w) :
    (b.asmWrite m addr w v tid idx x).win.asm = b.win.asm ++ [{ win := w, owner := m, of := v.of, words := [(v.off / 4, x)] }] ∧
      (b.asmWrite m addr w v tid idx x).tbls = b.tbls := by
  have hany : b.win.asm.any (fun a => a.win == w && a.owner != m) = false := by
    rw [List.any_eq_false]
    intro a ha
    simp [hn a ha]
  have hfind : b.win.asm.find? (fun a => a.win == w) = none := List.find?_eq_none.mpr fun a ha => by simpa using hn a ha
  have hf : (b.snapOther w m v.of).win.asm.find? (fun a => a.win == w) = none := hfind
  simp only [asmWrite, hany, Bool.false_eq_true, if_false, hf, Nat.not_le.mpr hs]
  exact ⟨rfl, rfl⟩

/-- A write of another master while one assembles in the window (R50). -/
theorem asmWrite_foreign {m addr w tid idx x : Nat} {v : View} {a : Assembly}
    (hf : b.win.asm.find? (fun a => a.win == w) = some a) (ho : a.owner ≠ m) :
    ∃ c : Body, b.asmWrite m addr w v tid idx x = c.fault (if 0x1000000 ≤ w then Pg.aperture else w) FLT_ACCESS
        { access := 2, space := 1, addr := addr, master := m } ∧ c.win = b.win ∧ c.tbls = b.tbls := by
  have ha := List.find?_some hf
  have hany : b.win.asm.any (fun a => a.win == w && a.owner != m) = true :=
    List.any_eq_true.mpr ⟨a, List.mem_of_find?_eq_some hf, by simpa [ho] using ha⟩
  simp only [asmWrite, hany, if_true, hf, ne_eq, ho, not_false_eq_true]
  refine ⟨_, rfl, ?_⟩
  split <;> simp

/-! The end of an assembly. -/

theorem setSnap_rest (w m : Nat) (x : Option Snapshot) : (b.setSnap w m x).win.asm = b.win.asm ∧ (b.setSnap w m x).tbls = b.tbls ∧
    (b.setSnap w m x).regs = b.regs := ⟨rfl, rfl, rfl⟩

theorem asmEnd_flt {w : Nat} (h : ∃ a ∈ b.win.asm, a.win = w) (hw : w < 0x1000000) : (b.asmEnd w).rd w (fltStat FLT_ACCESS) = 1 := by
  unfold asmEnd
  split
  · rename_i hf
    obtain ⟨a, ha, rfl⟩ := h
    simpa using List.find?_eq_none.mp hf a ha
  · unfold asmDrop
    rw [if_neg (by omega)]
    exact fault_stat ..

theorem assemblyTimeout_owner {w m : Nat} (h : ∃ a ∈ b.win.asm, a.win = w ∧ a.owner = m) :
    b.assemblyTimeout w m = (b.asmEnd w).setSnap w m none := by
  obtain ⟨a, ha, h1, h2⟩ := h
  have : b.win.asm.any (fun a => a.win == w && a.owner == m) = true := List.any_eq_true.mpr ⟨a, ha, by simp [h1, h2]⟩
  simp only [assemblyTimeout, this, if_true]

/-! The control registers of the apertures. -/

theorem apCtrl_at : ∀ a < 12, PK.aperture.fieldsAt (0x80 + 8 * a) = [(R.TBL_AP_TABLE, a, 0), (R.TBL_AP_BASE, a, 0)] := by decide

/-- A write of an aperture's control register selects its table and base, and ends what is under way there. -/
theorem storeAperture_spec {a v : Nat} (ha : a < 12) :
    ∃ c, (b.storeAperture (Pg.aperture + (0x80 + 8 * a)) v).1 = c ∧ c.rd Pg.aperture R.TBL_AP_TABLE a = bitField v 31 24 ∧
      c.rd Pg.aperture R.TBL_AP_BASE a = bitField v 23 0 ∧ (∀ x ∈ c.win.asm, x.win ≠ 0x1000000 + 0x400000 * a) ∧
      (∀ x ∈ c.win.snaps, x.win ≠ 0x1000000 + 0x400000 * a) := by
  have ho : 0x80 + 8 * a < 0x1000 := by omega
  have hf := (pageIs_aperture.fieldsOf ho (by decide)).trans (apCtrl_at a ha)
  have hfa : fieldAt (Pg.aperture + (0x80 + 8 * a)) R.TBL_AP_TABLE = some a := by
    simp [pageIs_aperture.fieldAt ho (by decide), apCtrl_at a ha]
  have ht : b.takeBits (Pg.aperture + (0x80 + 8 * a)) v =
      (b.wr Pg.aperture R.TBL_AP_TABLE (bitField v 31 24) a).wr Pg.aperture R.TBL_AP_BASE (bitField v 23 0) a := by
    simp only [takeBits, hf, pageIs_aperture.pageOf ho]
    rfl
  have hrd : ∀ f ∈ [R.TBL_AP_TABLE, R.TBL_AP_BASE], ∀ c : Body,
      (c.asmEnd (0x1000000 + 0x400000 * a)).rd Pg.aperture f a = c.rd Pg.aperture f a := by
    intro f hf c
    have hoff : f.lo < 32 ∧ f.off = 0x80 ∧ f.stride = 8 := (by decide : ∀ f ∈ [R.TBL_AP_TABLE, R.TBL_AP_BASE],
      f.lo < 32 ∧ f.off = 0x80 ∧ f.stride = 8) f hf
    refine c.rd_asmEnd hoff.1 (fun _ => .inl ?_) (fun h => by omega)
    simp only [Fld.addr, hoff, R.TBL_AP_DROPS]
    omega
  refine ⟨_, rfl, ?_⟩
  simp only [storeAperture, hfa, ht]
  refine ⟨(hrd _ (by decide) _).trans ?_, (hrd _ (by decide) _).trans ?_, asmEnd_win _ _, fun x hx => ?_⟩
  · rw [rd_wr_field _ (by decide), rd_wr_self]
    exact Nat.mod_eq_of_lt (Nat.mod_lt _ (by decide))
  · rw [rd_wr_self]
    exact Nat.mod_eq_of_lt (Nat.mod_lt _ (by decide))
  · simpa using (List.mem_filter.mp hx).2

/-! Reads through a window that shows counters. -/

theorem pageKind_lane : ∀ i < 64, ∀ j < 64, pageKind (64 * i + j) = some .lane → 4 ≤ i ∧ i < 36 := by decide

/-- A window that shows a counter is no lane's that belongs to another port. -/
theorem noteNotPort_ctr {addr page i : Nat} (h : (b.viewOf addr).of = .ctr page i) : b.noteNotPort addr = b := by
  unfold noteNotPort
  dsimp only
  split_ifs with hc
  · exfalso
    obtain ⟨ha, hk, hp⟩ := hc
    have hk' : pageKind (addr / 0x1000) = some .lane := hk
    have := pageKind_lane (addr / 0x1000 / 64) (by omega) (addr / 0x1000 % 64) (Nat.mod_lt _ (by decide)) (by rw [Nat.div_add_mod]; exact hk')
    have hkp : kindAt (pageOf addr) = some .lane := by
      rw [kindAt, pageOf, Nat.mul_div_cancel _ (by decide)]
      exact hk'
    have h1 : ¬ pageOf addr < 0x100000 := by simp only [pageOf]; omega
    have h2 : pageOf addr < 0x900000 := by simp only [pageOf]; omega
    have hv : b.viewOf addr = View.zero := by
      simp only [viewOf, Nat.not_le.mpr ha, if_false, viewPage, h1, h2, if_true, viewGal, hkp, hp]
    rw [hv] at h
    cases h
  · rfl

/-- The word of a counter that an address in a window shows. -/
def ctrWord (v : View) (val : Nat) : Nat := bitField val (8 * v.off + 31) (8 * v.off)

/-- A read of a counter through a window (R51): the reader's snapshot answers where it has one. -/
theorem winRead_ctr {m addr page i : Nat} (h : (b.viewOf addr).of = .ctr page i) (hl : (b.viewOf addr).live = false) :
    ∃ w val, b.winRead m addr = ({ b with win := w }, ctrWord (b.viewOf addr) val) ∧
      (∀ x, b.win.snaps.find? (fun x => x.win == winOf addr && x.reader == m && x.of == .ctr page i) = some x → val = x.val) ∧
      (b.win.snaps.find? (fun x => x.win == winOf addr && x.reader == m && x.of == .ctr page i) = none → val = b.ctr page i ∧
        ((b.viewOf addr).off + 4 < (b.viewOf addr).stride →
          ∃ x ∈ w.snaps, x.win = winOf addr ∧ x.reader = m ∧ x.of = .ctr page i ∧ x.val = b.ctr page i)) := by
  have hn := b.noteNotPort_ctr h
  have hh : b.svyHidden m (.ctr page i) = false := rfl
  cases hf : b.win.snaps.find? (fun x => x.win == winOf addr && x.reader == m && x.of == .ctr page i) with
  | some x =>
    simp only [winRead, hn, h, hl, hh, hf, reduceCtorEq, Bool.false_eq_true, if_false]
    split
    · exact ⟨_, x.val, rfl, fun y hy => by cases hy; rfl, nofun⟩
    · exact ⟨b.win, x.val, rfl, fun y hy => by cases hy; rfl, nofun⟩
  | none =>
    simp only [winRead, hn, h, hl, hh, hf, reduceCtorEq, Bool.false_eq_true, if_false, shownVal]
    refine ⟨_, b.ctr page i, rfl, nofun, fun _ => ⟨rfl, fun hs => ?_⟩⟩
    rw [decide_eq_false (Nat.not_le.mpr hs)]
    exact ⟨_, List.mem_append_right _ (List.mem_singleton_self _), rfl, rfl, rfl, rfl⟩

end Body

/-- A state whose windows and answers alone differ. -/
theorem State.withBody_win {s : State} (w : WinSt) (r : List Nat) :
    (s.withBody { s.dev.body with win := w, rdata := r }).dev.body = { s.dev.body with win := w, rdata := r } :=
  s.dev.body.note_win w r

end Sys2Proof.Machine

namespace Sys2Proof
open Machine

/-- Settles O10: the first word, another master's word, the time-out, the control register and the snapshot. -/
theorem windowEntries : Obligations.WindowEntries := by
  have hok : ∀ {m addr v : Nat} {s : State}, s.reaches m addr → winOk addr = true → v < 2 ^ 32 →
      (Master.known m && winOk addr && decide (v < 2 ^ 32)) = true := fun h hw hv => by rw [h.known, hw, decide_eq_true hv]; rfl
  refine ⟨fun m addr v tid idx s h hw hv hp hb ht hs hn => ?_, fun m addr v tid idx a s h hw hv hp hb ht hf ho => ?_,
    fun m addr s hr hw hm ha => ?_, fun a m v s ha hv h => ?_, fun m addr page i s h hw hp hc hl => ?_⟩
  · have hwr := Dev.write_window v h (winOk_addrOk hw) hp hb
    rw [Body.winWrite_ent _ ht] at hwr
    obtain ⟨h1, h2⟩ := s.dev.body.asmWrite_first (m := m) (addr := addr) (tid := tid) (idx := idx) (x := v) hs hn
    refine ⟨_, State.live_withBody (hok h hw hv) h.runs hwr, ?_, ?_⟩
    · simp only [State.withBody_rest, h1, ht]
    · simp only [State.withBody_rest, h2]
  · have hwr := Dev.write_window v h (winOk_addrOk hw) hp hb
    obtain ⟨c, hc, h1, h2⟩ := s.dev.body.asmWrite_foreign (addr := addr) (tid := tid) (idx := idx) (x := v) (v := s.dev.body.viewOf addr) hf ho
    rw [Body.winWrite_ent _ ht, hc] at hwr
    have hpage : (if 0x1000000 ≤ Body.winOf addr then Pg.aperture else Body.winOf addr) = accessPage addr := by
      unfold accessPage
      rw [if_congr (winOf_ge addr) rfl rfl]
      split
      · rfl
      · exact if_neg (by assumption)
    rw [hpage] at hwr
    refine ⟨_, State.live_withBody (hok h hw hv) h.runs hwr, ?_, ?_,
      (State.withBody_flt (accessPage_aligned addr) (by decide)).mpr (Body.fault_stat ..)⟩
    · simp [h1]
    · simp [h2]
  · have hrest := s.dev.body.asmEnd_rest (Body.winOf addr)
    refine ⟨_, State.body_withBody (by rw [hw, hm]; rfl) hr (s.dev.body.assemblyTimeout_owner ha), ?_, ?_, fun hlt => ?_⟩
    · simp only [State.withBody_rest, Body.setSnap_rest]
      exact Body.asmEnd_win _ _
    · simp only [State.withBody_rest, Body.setSnap_rest, hrest]
    · have hw' : Body.winOf addr = pageOf addr := if_neg (by omega)
      rw [State.withBody_flt (p := pageOf addr) (Nat.mul_mod_left ..) (n := FLT_ACCESS) (by decide)]
      rw [hw'] at ha ⊢
      obtain ⟨x, hx, h1, -⟩ := ha
      exact Body.asmEnd_flt _ ⟨x, hx, h1⟩ (by simp only [pageOf]; omega)
  · have had : R.TBL_AP_TABLE.addr Pg.aperture a 0 = Pg.aperture + (0x80 + 8 * a) := by simp only [Fld.addr, R.TBL_AP_TABLE]; omega
    rw [had] at h
    have hpl : PK.aperture.plain (0x80 + 8 * a) = true := by simp [PK.plain, Body.apCtrl_at a ha, R.TBL_AP_TABLE, R.TBL_AP_BASE]
    have hwr := Dev.write_store v h pageIs_aperture (by omega) (by omega) (by omega) (by decide) hpl
    obtain ⟨c, hc, h1, h2, h3, h4⟩ := s.dev.body.storeAperture_spec (v := v) ha
    replace hwr := hwr.trans (congrArg (fun b => ({ s.dev with body := b } : Dev)) hc)
    rw [← had] at hwr
    have hst : ∀ f ∈ [R.TBL_AP_TABLE, R.TBL_AP_BASE], notedAt (f.addr Pg.aperture a 0) = false := fun f hf =>
      notedAt_big (by have : Pg.aperture = 0xA60000 := rfl; simp only [Fld.addr]; omega)
    refine ⟨_, State.live_withBody (by rw [decide_eq_true ha, h.known, decide_eq_true hv]; rfl) h.runs hwr, ?_, ?_, ?_, ?_⟩
    · exact (State.withBody_reg (by decide) (hst _ (by decide))).trans h1
    · exact (State.withBody_reg (by decide) (hst _ (by decide))).trans h2
    · simp only [State.withBody_rest]; exact h3
    · simp only [State.withBody_rest]; exact h4
  · obtain ⟨w, val, hr, hs, hn⟩ := s.dev.body.winRead_ctr (m := m) hc hl
    have hbr := Dev.busRead_window h (winOk_addrOk hw) hp
    rw [hr] at hbr
    refine ⟨_, State.live_withBody (by rw [h.known, hw]; rfl) h.runs (Dev.read_eq hbr), ?_⟩
    rw [State.withBody_win]
    refine ⟨rfl, rfl, rfl, fun x hx => ?_, fun hx => ?_⟩
    · rw [← hs x hx]; rfl
    · obtain ⟨hval, hsnap⟩ := hn hx
      rw [hval]
      exact ⟨rfl, hsnap⟩

end Sys2Proof
end

section
/-! A register written through one of its fields, where the page's rules take some of its fields themselves. -/

namespace Sys2Proof.Machine

/-- The fields of a register lie apart, one of them once. -/
def putOk (l : List (Fld × Nat × Nat)) (f : Fld) : Bool :=
  decide (l.Pairwise fun x y => y.1.hi < x.1.lo) && (l.all fun x => decide (x.1.lo ≤ x.1.hi ∧ x.1.hi < 32)) &&
    (l.filter fun x => x.1 = f).length == 1

theorem putOk_iff {l : List (Fld × Nat × Nat)} {f : Fld} (h : putOk l f = true) :
    fieldsApart l ∧ (l.filter fun x => x.1 = f).length = 1 := by
  simp only [putOk, Bool.and_eq_true, decide_eq_true_eq, List.all_eq_true, beq_iff_eq] at h
  exact ⟨⟨h.1.1, fun x hx => by simpa using h.1.2 x hx⟩, h.2⟩

theorem Body.putVal_width (b : Body) (p : Nat) (f : Fld) (v : Nat) (x : Fld × Nat × Nat) : b.putVal p f v x < 2 ^ x.1.width := by
  unfold Body.putVal
  split_ifs with h
  · rw [h]; exact Nat.mod_lt _ (Nat.two_pow_pos _)
  · exact Body.rd_lt _ _ _ _ _
  · exact Nat.two_pow_pos _

/-- The store of a register written through one field: the word's other writable fields are as they stand. -/
theorem Dev.put_word {s : State} {m p off i : Nat} {k : PK} {f : Fld} (v : Nat) (h : s.takes m (p + off)) (hp : PageIs p k)
    (h1 : 0x80 ≤ off) (h2 : off < 0x800) (h4 : off % 4 = 0) (hb : p ≠ Pg.boot) (hpl : k.plain off = true) (hf : f.addr p i 0 = p + off)
    (hok : putOk (k.fieldsAt off) f = true) :
    ∃ w, (∀ x ∈ k.fieldsAt off, x.1.of w = s.dev.body.putVal p f v x) ∧
      s.dev.put m p f i v = { s.dev with body := (s.dev.body.pageStore k m (p + off) w (s.dev.pageLocked p)).1 } := by
  have hk : k ≠ .parserKey := by
    have := hpl; simp only [PK.plain, Bool.and_eq_true, bne_iff_ne] at this; exact this.1.1
  have hl := hp.fieldsOf (off := off) (by omega) hk
  obtain ⟨hap, hone⟩ := putOk_iff hok
  refine ⟨_, fun x hx => of_fieldWord hap (fun y _ => s.dev.body.putVal_width p f v y) hx, ?_⟩
  unfold Dev.put
  dsimp only
  rw [hf, s.dev.body.keepWord_put hl (hp.pageOf (by omega)) hone, Dev.write_store _ h hp h1 h2 h4 hb hpl]

namespace Body

variable {b c : Body} {p off : Nat} {l : List (Fld × Nat × Nat)}

theorem Shown.refl (b : Body) : Shown p off l b b := ⟨rfl, fun _ _ _ _ _ _ => rfl, fun _ _ => rfl⟩

/-- Fields that lie apart differ in their lowest bits. -/
theorem fieldsApart_lo (hap : fieldsApart l) {x y : Fld × Nat × Nat} (hx : x ∈ l) (hy : y ∈ l) (h : y ≠ x) : y.1.lo ≠ x.1.lo := by
  obtain ⟨hpw, hlo⟩ := hap
  induction l with
  | nil => cases hx
  | cons z t ih =>
    obtain ⟨hz, ht⟩ := List.pairwise_cons.mp hpw
    rcases List.mem_cons.mp hx with rfl | hx' <;> rcases List.mem_cons.mp hy with rfl | hy'
    · exact absurd rfl h
    · have := hz y hy'; have := hlo y hy; omega
    · have := hz x hx'; have := hlo x hx; omega
    · exact ih hx' hy' ht fun w hw => hlo w (List.mem_cons_of_mem _ hw)

/-- A field written as it stands. -/
theorem Shown.wr (h : Shown p off l b c) (hap : fieldsApart l) (ha : ∀ x ∈ l, x.1.addr p x.2.1 x.2.2 = p + off) {x : Fld × Nat × Nat}
    (hx : x ∈ l) {n : Nat} (hn : n = c.rd p x.1 x.2.1 x.2.2) : Shown p off l b (c.wr p x.1 n x.2.1 x.2.2) := by
  have hb := hap.2 x hx
  refine ⟨by rw [h.only]; rfl, fun q g i j hg hq => ?_, fun y hy => ?_⟩
  · rw [rd_wr_ne _ n (by omega) hg (.inl (by rw [ha x hx]; exact hq)), h.same q g i j hg hq]
  · by_cases hxy : y = x
    · rw [hxy, rd_wr_self, hn, Nat.mod_eq_of_lt (c.rd_lt _ _ _ _), h.here x hx]
    · rw [rd_wr_ne _ n (by omega) (by have := hap.2 y hy; omega) (.inr (fieldsApart_lo hap hx hy hxy)), h.here y hy]

/-- What is taken of a word that leaves the register as it stands, but for the fields that the page's rules take. -/
theorem takeBits_but (b : Body) {w : Nat} (bad : List Fld) (hl : fieldsOf (p + off) = l) (hp : pageOf (p + off) = p)
    (ha : ∀ x ∈ l, x.1.addr p x.2.1 x.2.2 = p + off) (hap : fieldsApart l)
    (hv : ∀ x ∈ l, bad.contains x.1 = false → (x.1.acc = .rw → x.1.of w = b.rd p x.1 x.2.1 x.2.2) ∧
      (x.1.acc = .w1c ∨ x.1.acc = .w1s → x.1.of w = 0)) :
    Shown p off l b (b.takeBits (p + off) w bad) := by
  unfold takeBits
  rw [hl, hp]
  dsimp only
  refine foldl_keeps_mem (Shown p off l b) _ _ _ (fun c x hx hc => ?_) (.refl b)
  split
  · exact hc
  · rename_i hbad
    have hvx := hv x hx (by simpa using hbad)
    split
    · rename_i h
      exact hc.wr hap ha hx ((hvx.1 h).trans (hc.here x hx).symm)
    · rename_i h
      exact hc.wr hap ha hx (by rw [hvx.2 (.inl h), Nat.and_zero, Nat.sub_zero])
    · rename_i h
      exact hc.wr hap ha hx (by rw [hvx.2 (.inr h), Nat.or_zero])
    · exact hc

/-- The same for the word that a write through one field makes, where that field is none that the store takes. -/
theorem takeBits_put {k : PK} (b : Body) {f : Fld} {v w : Nat} (bad : List Fld) (hp : PageIs p k) (ho : off < 0x1000) (hk : k ≠ .parserKey)
    (hok : putOk (k.fieldsAt off) f = true) (hw : ∀ x ∈ k.fieldsAt off, x.1.of w = b.putVal p f v x)
    (hf : bad.contains f = true ∨ (f.acc ≠ .rw ∧ f.acc ≠ .w1c ∧ f.acc ≠ .w1s)) :
    Shown p off (k.fieldsAt off) b (b.takeBits (p + off) w bad) := by
  refine b.takeBits_but bad (hp.fieldsOf ho hk) (hp.pageOf ho) (fun x hx => (PK.mem_fieldsAt hx).2.2 p) (putOk_iff hok).1 fun x hx hbad => ?_
  rw [hw x hx]
  have hne : x.1 = f → f.acc ≠ .rw ∧ f.acc ≠ .w1c ∧ f.acc ≠ .w1s := fun e => hf.resolve_left (by rw [← e, hbad]; simp)
  refine ⟨fun hr => ?_, fun hr => ?_⟩
  · exact (if_neg fun e => (hne e).1 (e ▸ hr)).trans (if_pos (.inl hr))
  · refine (if_neg fun e => ?_).trans (if_neg ?_)
    · exact hr.elim (fun h => (hne e).2.1 (e ▸ h)) fun h => (hne e).2.2 (e ▸ h)
    · rcases hr with h | h <;> simp [h]

/-- The value that the word holds for the field itself. -/
theorem putVal_self (b : Body) (p : Nat) (f : Fld) (v i j : Nat) : b.putVal p f v (f, i, j) = v % 2 ^ f.width := if_pos rfl

end Body

end Sys2Proof.Machine
end

section
/-! O13: the Governor (R27 to R34). -/

namespace Sys2Proof.Machine

namespace Body

variable (b : Body)

/-! Its registers. -/

/-- A block register of the Governor under an event of its page. -/
theorem grd_fire {n i : Nat} {g : Fld} (hn : n < 32) (h : g.lo < 32 ∧ 0x80 ≤ g.off ∧ g.off + g.stride * i < 0x1000) :
    (b.fire Pg.governor n).rd Pg.governor g i = b.rd Pg.governor g i :=
  b.rd_fire_block hn h.1 (by decide) h.2.1 (by omega) (by decide) (by decide)

/-- The registers of a loop that stand at stride 4, and those that stand alone, by their addresses. -/
theorem grd_wr {f g : Fld} {v i j : Nat} (hf : f.lo < 32) (hg : g.lo < 32) (h : f.off + f.stride * i ≠ g.off + g.stride * j ∨ f.lo ≠ g.lo) :
    (b.wr Pg.governor f v i).rd Pg.governor g j = b.rd Pg.governor g j :=
  b.rd_wr_ne v hf hg (h.imp (fun h => by simp only [Fld.addr]; omega) Ne.symm)

theorem holdEvent_rd_gov {n i : Nat} {g : Fld} (hn : n < 32) (h : g.lo < 32 ∧ 0x80 ≤ g.off ∧ g.off + g.stride * i < 0x1000) :
    (b.holdEvent Pg.governor n).rd Pg.governor g i = b.rd Pg.governor g i := by
  unfold holdEvent fireLasting
  split_ifs
  · rfl
  · exact b.grd_fire hn h
  · rfl

theorem Keeps.gwr {b c : Body} {f : Fld} {v i : Nat} (h : Keeps [Pg.governor] b c) (hf : f.lo < 32)
    (ho : f.off + f.stride * i < 0x1000) : Keeps [Pg.governor] b (c.wr Pg.governor f v i) :=
  h.wr hf (by simp only [Fld.addr, pageOf, Pg.governor, List.mem_singleton]; omega)

theorem Keeps.gfire {b c : Body} {n : Nat} (h : Keeps [Pg.governor] b c) (hn : n < 32) : Keeps [Pg.governor] b (c.fire Pg.governor n) :=
  h.fire hn (by decide) (by simp)

/-! The decision log. -/

/-- The log before an entry is put: one that it has no room for is lost (R34). -/
def logRoom : Body :=
  if b.logAtLeast 4096 then (b.sat Pg.governor R.GOV_LOG_LOST).fire Pg.governor R.GOV_EVT_LOST else b

theorem logRoom_rd {g : Fld} {i : Nat} (h : g.lo < 32 ∧ 0x80 ≤ g.off ∧ g.off + g.stride * i < 0x1000)
    (hg : g.off + g.stride * i ≠ 0xC8) : b.logRoom.rd Pg.governor g i = b.rd Pg.governor g i := by
  unfold logRoom
  split_ifs
  · rw [grd_fire _ (by decide) h]
    exact grd_wr _ (by decide) h.1 (.inl fun e => hg (e ▸ rfl))
  · rfl

theorem logRoom_keeps : Keeps [Pg.governor] b b.logRoom := by
  unfold logRoom
  split_ifs
  · exact (Keeps.gwr (.refl b) (by decide) (by decide)).gfire (by decide)
  · exact .refl b

/-- A register of a loop that the log does not write. -/
def offLog (g : Fld) (i : Nat) : Prop :=
  (g.lo < 32 ∧ 0x80 ≤ g.off ∧ g.off + g.stride * i < 0x1000) ∧ g.off + g.stride * i ≠ 0xC8 ∧ g.off + g.stride * i ≠ 0xC0 ∧ g.lo ≠ 8

/-- The event of a log that fills, after an entry (R34). -/
def tellHigh : Body := if b.logAtLeast 3072 then b.fireLasting Pg.governor R.GOV_EVT_HIGH else b

theorem tellHigh_rd {g : Fld} {i : Nat} (h : g.lo < 32 ∧ 0x80 ≤ g.off ∧ g.off + g.stride * i < 0x1000) :
    b.tellHigh.rd Pg.governor g i = b.rd Pg.governor g i := by
  unfold tellHigh fireLasting
  split_ifs
  · rfl
  · exact b.grd_fire (by decide) h
  · rfl

theorem tellHigh_keeps : Keeps [Pg.governor] b b.tellHigh := by
  unfold tellHigh
  split_ifs
  · exact (Keeps.refl b).fireLasting (by decide) (by decide) (by simp)
  · exact .refl b

/-- An entry written: its sequence number is the index, and the loop shows its reason. -/
def logEntered (e : LogEntry) (reason loop : Nat) : Body :=
  ((b.logPut e).wr Pg.governor R.GOV_LOG_WR (b.rd Pg.governor R.GOV_LOG_WR + 1)).wr Pg.governor R.GOV_LAST_REASON reason loop

theorem logEntered_wr (e : LogEntry) (reason loop : Nat) :
    (b.logEntered e reason loop).rd Pg.governor R.GOV_LOG_WR = (b.rd Pg.governor R.GOV_LOG_WR + 1) % 2 ^ 32 :=
  (grd_wr _ (by decide) (by decide) (.inr (by decide))).trans (rd_wr_self ..)

theorem logEntered_reason (e : LogEntry) {reason : Nat} (loop : Nat) (h : reason < 256) :
    (b.logEntered e reason loop).rd Pg.governor R.GOV_LAST_REASON loop = reason :=
  (rd_wr_self ..).trans (Nat.mod_eq_of_lt h)

theorem logEntered_rd (e : LogEntry) (reason loop : Nat) {g : Fld} {i : Nat} (h : offLog g i) :
    (b.logEntered e reason loop).rd Pg.governor g i = b.rd Pg.governor g i := by
  obtain ⟨⟨hg, -, -⟩, -, hwr, hlo⟩ := h
  refine (grd_wr _ (by decide) hg (.inr (Ne.symm hlo))).trans (grd_wr (b.logPut e) (by decide) hg (.inl fun e => hwr (e ▸ rfl)))

theorem logEntered_keeps (e : LogEntry) (reason : Nat) {loop : Nat} (h : loop < 6) : Keeps [Pg.governor] b (b.logEntered e reason loop) :=
  have h0 : Keeps [Pg.governor] b (b.logPut e) := .of_eq (.refl b) rfl rfl rfl rfl
  (h0.gwr (f := R.GOV_LOG_WR) (i := 0) (by decide) (by decide)).gwr (f := R.GOV_LAST_REASON) (by decide)
    (by simp only [R.GOV_LAST_REASON]; omega)

theorem logWrite_eq (loop inst : Nat) (adv : Bool) (action reason input bound old new : Nat) :
    ∃ e, b.logWrite loop inst adv action reason input bound old new = (b.logRoom.logEntered e reason loop).tellHigh := by
  have h : b.logRoom.rd Pg.governor R.GOV_LOG_WR = b.rd Pg.governor R.GOV_LOG_WR := b.logRoom_rd (by decide) (by decide)
  unfold logEntered
  rw [h]
  exact ⟨_, rfl⟩

/-! The modes. -/

/-- What a loop that logs RESUME leaves (R33): its mode stands. -/
structure Resumed (b c : Body) (loop : Nat) : Prop where
  same : ∀ g i, offLog g i → c.rd Pg.governor g i = b.rd Pg.governor g i
  told : b.rd Pg.governor R.GOV_LOG_EN loop = 1 → c.rd Pg.governor R.GOV_LOG_WR = (b.rd Pg.governor R.GOV_LOG_WR + 1) % 2 ^ 32 ∧
    c.rd Pg.governor R.GOV_LAST_REASON loop = RSN_RESUME
  keeps : Keeps [Pg.governor] b c

theorem logWrite_resumed {loop inst action input bound old new : Nat} {adv : Bool} (hl : loop < 6) :
    Resumed b (b.logWrite loop inst adv action RSN_RESUME input bound old new) loop := by
  obtain ⟨e, he⟩ := b.logWrite_eq loop inst adv action RSN_RESUME input bound old new
  rw [he]
  refine ⟨fun g i h => ?_, fun _ => ⟨?_, ?_⟩, ?_⟩
  · rw [tellHigh_rd _ h.1, logEntered_rd _ _ _ _ h, logRoom_rd _ h.1 h.2.1]
  · rw [tellHigh_rd _ (by decide), logEntered_wr, logRoom_rd _ (by decide) (by decide)]
  · rw [tellHigh_rd _ ⟨by decide, by decide, by simp only [R.GOV_LAST_REASON]; omega⟩, logEntered_reason _ _ _ (by decide)]
  · exact b.logRoom_keeps.trans ((logEntered_keeps _ _ _ hl).trans (tellHigh_keeps _))

theorem govResumeLog_resumed {loop : Nat} (hl : loop < 6) : Resumed b (b.govResumeLog loop) loop := by
  unfold govResumeLog
  split_ifs with h
  · dsimp only
    generalize hc : (((((b.free 7).2.free 32).2.free 32).2.free 32).2.free 32).2 = c
    have hk : Keeps [Pg.governor] b c := hc ▸ Keeps.free (.free (.free (.free (.free (.refl b)))))
    have hrd : ∀ g j, c.rd Pg.governor g j = b.rd Pg.governor g j := fun g j => by rw [← hc]; simp only [free_rd]
    obtain ⟨h1, h2, h3⟩ := c.logWrite_resumed hl
    refine ⟨fun g i hg => (h1 g i hg).trans (hrd g i), fun he => ?_, hk.trans h3⟩
    rw [← hrd] at he ⊢
    exact h2 he
  · refine ⟨fun _ _ _ => rfl, fun he => absurd ?_ h, .refl b⟩
    rw [on, he]
    rfl

/-- Whether the loop is free to take a mode: no action of it runs, and the Governor runs (R30, R32). -/
def loopFree (loop : Nat) : Prop := b.gov.frozen = false ∧ b.rd Pg.governor R.GOV_BUSY loop = 0

/-- The mode requested of a loop takes effect where it is free to (R30). -/
structure Applied (b c : Body) (loop : Nat) : Prop where
  mode : c.rd Pg.governor R.GOV_MODE loop = b.rd Pg.governor R.GOV_MODE loop
  eff : b.loopFree loop → c.rd Pg.governor R.GOV_MODE_EFF loop = b.rd Pg.governor R.GOV_MODE loop % 2
  stands : ¬ b.loopFree loop → c.rd Pg.governor R.GOV_MODE_EFF loop = b.rd Pg.governor R.GOV_MODE_EFF loop
  resumed : c.rd Pg.governor R.GOV_MODE_EFF loop ≠ b.rd Pg.governor R.GOV_MODE_EFF loop → b.rd Pg.governor R.GOV_LOG_EN loop = 1 →
    c.rd Pg.governor R.GOV_LOG_WR = (b.rd Pg.governor R.GOV_LOG_WR + 1) % 2 ^ 32 ∧ c.rd Pg.governor R.GOV_LAST_REASON loop = RSN_RESUME
  keeps : Keeps [Pg.governor] b c

theorem govModeTake_spec {loop : Nat} (hl : loop < 6) :
    (b.loopFree loop → (b.govModeTake loop).rd Pg.governor R.GOV_MODE_EFF loop = b.rd Pg.governor R.GOV_MODE loop % 2) ∧
    (¬ b.loopFree loop → b.govModeTake loop = b) ∧
    (∀ (g : Fld) i, g.lo < 32 → g.off + g.stride * i ≠ 0xA0 + 4 * loop → (b.govModeTake loop).rd Pg.governor g i = b.rd Pg.governor g i) ∧
    Keeps [Pg.governor] b (b.govModeTake loop) := by
  have hbusy : b.on Pg.governor R.GOV_BUSY loop = false ↔ b.rd Pg.governor R.GOV_BUSY loop = 0 := by
    have : b.rd Pg.governor R.GOV_BUSY loop < 2 := b.rd_lt Pg.governor R.GOV_BUSY loop 0
    simp only [on, beq_eq_false_iff_ne]
    omega
  unfold govModeTake
  by_cases h : b.loopFree loop
  · rw [if_neg (by rw [h.1, hbusy.mpr h.2]; simp)]
    refine ⟨fun _ => rd_wr_self .., fun hn => absurd h hn, fun g i hg ho => ?_, ?_⟩
    · exact b.grd_wr (by decide) hg (.inl fun e => ho (by rw [← e]; rfl))
    · exact Keeps.gwr (.refl b) (by decide) (by simp only [R.GOV_MODE_EFF]; omega)
  · have hc : b.gov.frozen = true ∨ b.on Pg.governor R.GOV_BUSY loop = true := by
      by_contra hcon
      simp only [not_or, Bool.not_eq_true] at hcon
      exact h ⟨hcon.1, hbusy.mp hcon.2⟩
    rw [if_pos hc]
    exact ⟨fun hf => absurd hf h, fun _ => rfl, fun _ _ _ _ => rfl, .refl b⟩

theorem govModeApply_applied {loop : Nat} (hl : loop < 6) : Applied b (b.govModeApply loop) loop := by
  obtain ⟨hf, hs, hrd, hk⟩ := b.govModeTake_spec hl
  have hoff : ∀ g ∈ [R.GOV_MODE, R.GOV_MODE_EFF], offLog g loop := by
    intro g hg
    have := (by decide : ∀ g ∈ [R.GOV_MODE, R.GOV_MODE_EFF], g.lo = 0 ∧ 0x80 ≤ g.off ∧ g.off ≤ 0xA0 ∧ g.stride = 4) g hg
    refine ⟨⟨by omega, by omega, ?_⟩, ?_, ?_, by omega⟩ <;> rw [this.2.2.2] <;> omega
  have hmode := hrd R.GOV_MODE loop (by decide) (by simp only [R.GOV_MODE]; omega)
  have hen := hrd R.GOV_LOG_EN loop (by decide) (by simp only [R.GOV_LOG_EN]; omega)
  have hwr := hrd R.GOV_LOG_WR 0 (by decide) (by simp only [R.GOV_LOG_WR]; omega)
  have hr := (b.govModeTake loop).govResumeLog_resumed hl
  unfold govModeApply
  dsimp only
  split_ifs with he
  · exact ⟨hmode, hf, fun hn => by rw [hs hn], fun hne => absurd he hne, hk⟩
  · refine ⟨(hr.same _ _ (hoff _ (by simp))).trans hmode, fun h => (hr.same _ _ (hoff _ (by simp))).trans (hf h), fun hn => ?_,
      fun _ h => ?_, hk.trans hr.keeps⟩
    · exact absurd (by rw [hs hn]) he
    · have := hr.told (hen.trans h)
      rwa [hwr] at this

/-! A stall. -/

/-- A stall that is not noted yet (R32). -/
theorem govStall_first (h : b.gov.frozen = false) : ∃ (c : Body) (r : Report), b.govStall false = c.fire Pg.governor R.GOV_EVT_STALL ∧
    c.gov.frozen = true ∧ c.irq.reports = b.irq.reports ++ [r] ∧ r.page = Pg.governor ∧ r.info.inj = false ∧
    (∀ g i, c.rd Pg.governor g i = b.handsOff.rd Pg.governor g i) ∧ Keeps [Pg.governor] b c := by
  let f : Body := handsOff { b with gov := { b.gov with frozen := true } }
  have hf : f.irq = b.irq := foldl_same (fun c : Body => c.irq) _ (fun c n => by simp) _ _
  have hrd : ∀ (l : List Nat) (c d : Body), c.regs = d.regs → (l.foldl (fun b n => b.wr Pg.governor R.GOV_MODE_EFF 1 n) c).regs =
      (l.foldl (fun b n => b.wr Pg.governor R.GOV_MODE_EFF 1 n) d).regs := by
    intro l
    induction l with
    | nil => exact fun _ _ h => h
    | cons n t ih => exact fun c d h => ih _ _ (by simp only [wr, h])
  have hregs : f.regs = b.handsOff.regs := hrd _ _ _ rfl
  refine ⟨(f.free 5).2.report Pg.governor (f.free 5).1 {}, _, by simp only [govStall, h, Bool.false_eq_true, false_and, if_false]; rfl,
    ?_, congrArg (· ++ _) (congrArg IrqSt.reports hf), rfl, rfl, fun g i => ?_, Keeps.report (.free ?_)⟩
  · rw [(report_rest ..).2.2.2.2.2.2.1, (free_rest ..).2.2.2.2.2.2.1]
    exact congrArg GovSt.frozen (handsOff_gov _)
  · rw [report_rd, free_rd]
    simp only [rd, hregs]
  · refine Keeps.foldl _ (.of_eq (.refl b) rfl rfl rfl rfl) fun c n hn hc => hc.gwr (by decide) ?_
    have := List.mem_range.mp hn
    simp only [R.GOV_MODE_EFF]
    omega

theorem handsOff_requested {loop : Nat} (hl : loop < 6) : b.handsOff.rd Pg.governor R.GOV_MODE loop = b.rd Pg.governor R.GOV_MODE loop := by
  unfold handsOff
  refine foldl_same_mem (fun c : Body => c.rd Pg.governor R.GOV_MODE loop) (fun c n => c.wr Pg.governor R.GOV_MODE_EFF 1 n) _ _ fun c n _ => ?_
  exact c.grd_wr (by decide) (by decide) (.inl (by simp only [R.GOV_MODE_EFF, R.GOV_MODE]; omega))

end Body

/-! Its registers as they are written. -/

theorem govMode_at : ∀ loop < 6, putOk (PK.governor.fieldsAt (0x80 + 4 * loop)) R.GOV_MODE = true ∧
    PK.governor.plain (0x80 + 4 * loop) = true ∧ (R.GOV_MODE, loop, 0) ∈ PK.governor.fieldsAt (0x80 + 4 * loop) ∧
    (R.GOV_LOG_EN, loop, 0) ∈ PK.governor.fieldsAt (0x80 + 4 * loop) ∧
    ((PK.governor.fieldsAt (0x80 + 4 * loop)).find? fun x => x.1 == R.GOV_HEARTBEAT) = none ∧
    ((PK.governor.fieldsAt (0x80 + 4 * loop)).find? fun x => x.1 == R.GOV_LOG_RD) = none ∧
    ((PK.governor.fieldsAt (0x80 + 4 * loop)).find? fun x => x.1 == R.GOV_MODE).map (·.2.1) = some loop := by decide

/-- A mode written to a loop: the write of its field to a body whose registers read as they did. -/
theorem Dev.put_govMode {s : State} {m loop mode : Nat} (hl : loop < 6) (hm : mode < 4)
    (h : s.takes m (R.GOV_MODE.addr Pg.governor loop 0)) :
    ∃ c, Body.Shown Pg.governor (0x80 + 4 * loop) (PK.governor.fieldsAt (0x80 + 4 * loop)) s.dev.body c ∧
      s.dev.put m Pg.governor R.GOV_MODE loop mode = { s.dev with body := c.govModeWrite loop mode } := by
  obtain ⟨hok, hpl, hmem, -, hhb, hrd, hmd⟩ := govMode_at loop hl
  have ha : R.GOV_MODE.addr Pg.governor loop 0 = Pg.governor + (0x80 + 4 * loop) := by simp only [Fld.addr, R.GOV_MODE]; omega
  rw [ha] at h
  have ho : 0x80 + 4 * loop < 0x1000 := by omega
  obtain ⟨w, hw, hput⟩ := Dev.put_word mode h pageIs_governor (by omega) (by omega) (by omega) (by decide) hpl ha hok
  refine ⟨_, s.dev.body.takeBits_put [R.GOV_MODE] pageIs_governor ho (by decide) hok hw (.inl (by decide)), hput.trans ?_⟩
  have hof : R.GOV_MODE.of w = mode := (hw _ hmem).trans ((Body.putVal_self ..).trans (Nat.mod_eq_of_lt hm))
  simp only [Body.pageStore, Body.storeGov, pageIs_governor.fieldAt ho (by decide), hhb, hrd, hmd, Option.map_none, Option.isSome_none,
    Bool.false_eq_true, if_false, hof]

/-- A write of the heartbeat, and of the log's read index. -/
theorem Dev.write_govHeartbeat {s : State} {m v : Nat} (h : s.takes m (R.GOV_HEARTBEAT.addr Pg.governor 0 0)) :
    s.dev.write m (R.GOV_HEARTBEAT.addr Pg.governor 0 0) v = { s.dev with body := s.dev.body.govHeartbeat m v } := by
  have hw := Dev.write_store v (off := 0xD0) h pageIs_governor (by decide) (by decide) (by decide) (by decide) (by decide)
  refine hw.trans ?_
  have hf : (fieldAt (Pg.governor + 0xD0) R.GOV_HEARTBEAT).isSome = true := by decide
  simp only [Body.pageStore, Body.storeGov, hf, if_true]

theorem Dev.write_govLogRd {s : State} {m v : Nat} (h : s.takes m (R.GOV_LOG_RD.addr Pg.governor 0 0)) :
    s.dev.write m (R.GOV_LOG_RD.addr Pg.governor 0 0) v = { s.dev with body := s.dev.body.govLogRd v } := by
  have hw := Dev.write_store v (off := 0xC4) h pageIs_governor (by decide) (by decide) (by decide) (by decide) (by decide)
  refine hw.trans ?_
  have hf : (fieldAt (Pg.governor + 0xC4) R.GOV_HEARTBEAT).isSome = false := by decide
  have hf' : (fieldAt (Pg.governor + 0xC4) R.GOV_LOG_RD).isSome = true := by decide
  simp only [Body.pageStore, Body.storeGov, hf, hf', if_true, Bool.false_eq_true, if_false]

/-- A register of the Governor reads as the body has it. -/
theorem State.withBody_gov {s : State} {c : Body} {f : Fld} {i v : Nat} (h : c.rd Pg.governor f i = v) (hf : f.lo < 32 := by decide)
    (ho : f.off + f.stride * i < 0x1000 := by decide) : (s.withBody c).reg Pg.governor f i = v :=
  (State.withBody_reg hf (Body.notedAt_page (by simp only [Fld.addr, Pg.governor]; omega) (by simp only [Fld.addr, Pg.governor]; omega)
    (by simp only [Fld.addr, Pg.governor]; omega))).trans h

end Sys2Proof.Machine

namespace Sys2Proof
open Machine

/-- Settles O13: a mode through its register, the modes applied, the heartbeat, the stall and the read index. -/
theorem governorCommands : Obligations.GovernorCommands := by
  intro m s
  have hoff : ∀ {loop}, loop < 6 → ∀ g ∈ [R.GOV_MODE, R.GOV_MODE_EFF, R.GOV_LAST_REASON], g.off + g.stride * loop < 0x1000 := by
    intro loop hl g hg
    have := (by decide : ∀ g ∈ [R.GOV_MODE, R.GOV_MODE_EFF, R.GOV_LAST_REASON], g.off ≤ 0xA0 ∧ g.stride = 4) g hg
    rw [this.2]
    omega
  dsimp only
  refine ⟨fun loop mode hl hm h => ?_, fun loop mode hl hm hm4 h => ?_, fun loop hl h => ?_, fun v hv h => ?_, fun h hf => ?_,
    fun h hf => ?_, fun v hv h => ?_⟩
  · obtain ⟨c, hc, hput⟩ := Dev.put_govMode hl (show mode < 4 by omega) h
    have hck := hc.keeps (ps := [Pg.governor]) pageIs_governor (by omega) (by simp)
    have hrd : ∀ (g : Fld) i, g.lo < 32 → g.off + g.stride * i ≠ 0x80 + 4 * loop →
        (c.wr Pg.governor R.GOV_MODE mode loop).rd Pg.governor g i = s.dev.body.rd Pg.governor g i := fun g i hg ho => by
      rw [c.grd_wr (by decide) hg (.inl fun e => ho (e ▸ by rfl)), hc.same _ _ _ _ hg (fun e => ho (by simp only [Fld.addr] at e; omega))]
    have hen : (c.wr Pg.governor R.GOV_MODE mode loop).rd Pg.governor R.GOV_LOG_EN loop = s.dev.body.rd Pg.governor R.GOV_LOG_EN loop := by
      rw [c.grd_wr (by decide) (by decide) (.inr (by decide))]
      exact hc.here _ (govMode_at loop hl).2.2.2.1
    have hmode : (c.wr Pg.governor R.GOV_MODE mode loop).rd Pg.governor R.GOV_MODE loop = mode :=
      (Body.rd_wr_self ..).trans (Nat.mod_eq_of_lt (show mode < 4 by omega))
    have heff := hrd R.GOV_MODE_EFF loop (by decide) (by simp only [R.GOV_MODE_EFF]; omega)
    have hbusy := hrd R.GOV_BUSY loop (by decide) (by simp only [R.GOV_BUSY]; omega)
    have hwr := hrd R.GOV_LOG_WR 0 (by decide) (by simp only [R.GOV_LOG_WR]; omega)
    have hgov : (c.wr Pg.governor R.GOV_MODE mode loop).gov = s.dev.body.gov := by rw [(Body.wr_rest ..).2.2.2.2.2.2.1, hc.only]
    have ha := (c.wr Pg.governor R.GOV_MODE mode loop).govModeApply_applied hl
    have hstore : c.govModeWrite loop mode = (c.wr Pg.governor R.GOV_MODE mode loop).govModeApply loop := by
      rw [Body.govModeWrite, if_neg (by omega), if_neg (by omega)]
    rw [hstore] at hput
    have hkeep := hck.trans ((Body.Keeps.gwr (.refl c) (by decide) (by simp only [R.GOV_MODE]; omega)).trans ha.keeps)
    generalize c.wr Pg.governor R.GOV_MODE mode loop = d at *
    have hfree : d.loopFree loop ↔ s.dev.body.loopFree loop := by unfold Body.loopFree; rw [hgov, hbusy]
    refine ⟨_, State.live_withBody (by rw [decide_eq_true hl, decide_eq_true (show mode < 4 by omega), h.known]; rfl) h.runs hput,
      State.withBody_gov (ha.mode.trans hmode) (by decide) (hoff hl _ (by simp)), fun hf => ?_, fun hf => ?_, fun hne he => ?_,
      State.withBody_keeps hkeep⟩
    · refine State.withBody_gov ((ha.eff (hfree.mpr hf)).trans ?_) (by decide) (hoff hl _ (by simp))
      rw [hmode]
      exact Nat.mod_eq_of_lt hm
    · exact State.withBody_gov ((ha.stands (mt hfree.mp hf)).trans heff) (by decide) (hoff hl _ (by simp))
    · rw [State.withBody_gov rfl (by decide) (hoff hl _ (by simp))] at hne
      obtain ⟨h1, h2⟩ := ha.resumed (heff.symm ▸ hne) (hen.trans he)
      rw [hwr] at h1
      exact ⟨State.withBody_gov h1, State.withBody_gov h2 (by decide) (hoff hl _ (by simp))⟩
  · obtain ⟨c, hc, hput⟩ := Dev.put_govMode hl hm4 h
    have hck := hc.keeps (ps := [Pg.governor]) pageIs_governor (by omega) (by simp)
    have hstore : c.govModeWrite loop mode = c.fire Pg.governor R.GOV_EVT_BADMODE := by
      rw [Body.govModeWrite, if_neg (by omega), if_pos hm]
    rw [hstore] at hput
    refine ⟨_, State.live_withBody (by rw [decide_eq_true hl, decide_eq_true hm4, h.known]; rfl) h.runs hput,
      (State.withBody_evt (by decide) (by decide)).mpr (Body.fire_pend _ (by decide) (by decide)),
      State.withBody_gov ?_ (by decide) (hoff hl _ (by simp)), State.withBody_gov ?_ (by decide) (hoff hl _ (by simp)),
      State.withBody_keeps (hck.gfire (by decide))⟩
    · rw [c.grd_fire (by decide) ⟨by decide, by decide, hoff hl _ (by simp)⟩]
      exact hc.here _ (govMode_at loop hl).2.2.1
    · rw [c.grd_fire (by decide) ⟨by decide, by decide, hoff hl _ (by simp)⟩]
      exact hc.same _ _ _ _ (by decide) (by simp only [Fld.addr, R.GOV_MODE_EFF]; omega)
  · have ha := s.dev.body.govModeApply_applied hl
    refine ⟨_, State.body_withBody (decide_eq_true hl) h rfl, fun hf => ?_, fun hf => ?_, fun hne he => ?_, State.withBody_keeps ha.keeps⟩
    · exact State.withBody_gov (ha.eff hf) (by decide) (hoff hl _ (by simp))
    · exact State.withBody_gov (ha.stands hf) (by decide) (hoff hl _ (by simp))
    · rw [State.withBody_gov rfl (by decide) (hoff hl _ (by simp))] at hne
      obtain ⟨h1, h2⟩ := ha.resumed hne he
      exact ⟨State.withBody_gov h1, State.withBody_gov h2 (by decide) (hoff hl _ (by simp))⟩
  · refine ⟨_, State.live_withBody (by rw [h.known, decide_eq_true hv]; rfl) h.runs (Dev.write_govHeartbeat h), ?_, fun hg => ?_,
      fun hg => ?_⟩
    · refine State.withBody_keeps ?_
      unfold Body.govHeartbeat
      split_ifs
      · exact Body.Keeps.gwr (.refl _) (by decide) (by decide)
      · exact Body.Keeps.gfire (.refl _) (by decide)
    · rw [Body.govHeartbeat, if_pos hg]
      exact State.withBody_gov ((Body.rd_wr_self ..).trans (Nat.mod_eq_of_lt hv))
    · rw [Body.govHeartbeat, if_neg (by simp [hg])]
      exact ⟨State.withBody_gov (Body.grd_fire _ (by decide) (by decide)),
        (State.withBody_evt (by decide) (by decide)).mpr (Body.fire_pend _ (by decide) (by decide))⟩
  · obtain ⟨c, r, hc, hfr, hrep, hpg, hinj, hrd, hk⟩ := s.dev.body.govStall_first hf
    refine ⟨_, State.body_withBody rfl h hc, ?_, fun loop hl => ⟨?_, ?_⟩, ?_, ⟨r, ?_, hpg, hinj⟩, State.withBody_keeps (hk.gfire (by decide))⟩
    · rw [State.withBody_rest.2.2.2.2.1, (Body.fire_rest ..).2.2.2.2.2.1]
      exact hfr
    · refine State.withBody_gov ?_ (by decide) (hoff hl _ (by simp))
      rw [c.grd_fire (by decide) ⟨by decide, by decide, hoff hl _ (by simp)⟩, hrd]
      exact Body.handsOff_mode _ hl
    · refine State.withBody_gov ?_ (by decide) (hoff hl _ (by simp))
      rw [c.grd_fire (by decide) ⟨by decide, by decide, hoff hl _ (by simp)⟩, hrd]
      exact Body.handsOff_requested _ hl
    · exact (State.withBody_evt (by decide) (by decide)).mpr (Body.fire_pend _ (by decide) (by decide))
    · rw [State.withBody_reports, (Body.fire_reports ..).1]
      exact hrep
  · refine State.live_self rfl h (s.dev.on_eq ?_)
    simp only [Body.govStall, hf, Bool.false_eq_true, not_false_eq_true, and_self, if_true]
  · refine ⟨_, State.live_withBody (by rw [h.known, decide_eq_true hv]; rfl) h.runs (Dev.write_govLogRd h), ?_, fun hle => ?_, fun hlt => ?_⟩
    · refine State.withBody_keeps ?_
      unfold Body.govLogRd
      split_ifs
      · exact Body.Keeps.gfire (.refl _) (by decide)
      · exact (Body.Keeps.gwr (.refl _) (by decide) (by decide)).holdEvent (by decide) (by decide) (by simp)
    · rw [Body.govLogRd, if_neg (show ¬ s.dev.body.rd Pg.governor R.GOV_LOG_WR < v from Nat.not_lt.mpr hle)]
      refine State.withBody_gov ?_
      rw [Body.holdEvent_rd_gov _ (by decide) (by decide), Body.rd_wr_self]
      exact Nat.mod_eq_of_lt hv
    · rw [Body.govLogRd, if_pos (show s.dev.body.rd Pg.governor R.GOV_LOG_WR < v from hlt)]
      exact ⟨State.withBody_gov (Body.grd_fire _ (by decide) (by decide)),
        (State.withBody_evt (by decide) (by decide)).mpr (Body.fire_pend _ (by decide) (by decide))⟩

end Sys2Proof
end

section
/-! O45: what a thread's instruction leaves behind it, and the values of the arithmetic instructions (R356, R409, R410). -/

namespace Sys2Proof.Machine

namespace Body
variable (b : Body)

/-! A thread read after one is set. -/

theorem thr_setThr (th j : Nat) (x : Thread) : (b.setThr th x).thr j = if j = th then x else b.thr j := by
  simp [thr, setThr, Sp.get_set]

@[simp] theorem thr_setThr_self (th : Nat) (x : Thread) : (b.setThr th x).thr th = x := by rw [thr_setThr, if_pos rfl]

theorem greg_setThr (th r : Nat) (x : Thread) : (b.setThr th x).greg th r = if r = 0 then 0 else Sp.get 0 x.regs r := by
  rw [greg, thr_setThr_self]

/-- The instruction counts leave every thread as it is. -/
@[simp] theorem issued_thr (th j : Nat) : (b.issued th).thr j = b.thr j := by
  unfold issued dlIssue
  split_ifs <;> rfl

theorem retire_thr (th j : Nat) : (b.retire th).thr j =
    if j = th then { b.thr th with steps := (b.thr th).steps.map (· - 1), pc := ((b.thr th).pc + 4) % 2 ^ 64 } else b.thr j := by
  simp only [retire, nextPc, stepped, thr_setThr, issued_thr, if_true]
  split_ifs <;> rfl

/-- A thread that retires an instruction changes no register outside itself, no entry and no memory. -/
structure Inner (b c : Body) : Prop where
  regs : c.regs = b.regs
  tbls : c.tbls = b.tbls
  mem : c.mem = b.mem

variable {b}

theorem Inner.refl : Inner b b := ⟨rfl, rfl, rfl⟩

theorem Inner.setThr {c : Body} (h : Inner b c) (th : Nat) (x : Thread) : Inner b (c.setThr th x) := ⟨h.regs, h.tbls, h.mem⟩

theorem Inner.count {c : Body} (h : Inner b c) (p i n : Nat) : Inner b (c.count p i n) := ⟨h.regs, h.tbls, h.mem⟩

theorem Inner.svyBump {c : Body} (h : Inner b c) (k i e n : Nat) : Inner b (c.svyBump k i e n) := ⟨h.regs, h.tbls, h.mem⟩

theorem Inner.dlIssue {c : Body} (h : Inner b c) (th : Nat) : Inner b (c.dlIssue th) := by
  unfold Body.dlIssue
  split_ifs
  exacts [h, ⟨h.regs, h.tbls, h.mem⟩]

theorem Inner.issued {c : Body} (h : Inner b c) (th : Nat) : Inner b (c.issued th) :=
  ((((h.dlIssue th).count ..).count ..).svyBump ..).svyBump ..

theorem Inner.retire {c : Body} (h : Inner b c) (th : Nat) : Inner b (c.retire th) := ((h.issued th).setThr _ _).setThr _ _

theorem Inner.setG {c : Body} (h : Inner b c) (th r v : Nat) : Inner b (c.setG th r v) := by
  unfold Body.setG
  split_ifs
  exacts [h, h.setThr _ _]

theorem Inner.rd {c : Body} (h : Inner b c) (q : Nat) (g : Fld) (i j : Nat) : c.rd q g i j = b.rd q g i j := by
  simp only [Body.rd, h.regs]

end Body

section
variable {s : State} {c : Body} {th d v pc : Nat}

theorem State.withBody_within (h : s.dev.body.Inner c) : s.within (s.withBody c) where
  regs _ _ _ _ hg hn _ := (State.withBody_reg hg hn).trans (h.rd ..)
  tbls := State.withBody_rest.2.2.2.1.trans h.tbls
  mem := (Body.note_rest _ _).2.2.2.2.2.2.2.2.2.2.2.2.2.1.trans h.mem
  sticky := rfl

theorem State.withBody_greg (j r : Nat) : (s.withBody c).dev.body.greg j r = c.greg j r := by
  simp only [Body.greg, State.withBody, Dev.after_body, Body.note_thr_regs]

@[simp] theorem State.withBody_thr_regs (j : Nat) : ((s.withBody c).dev.body.thr j).regs = (c.thr j).regs := Body.note_thr_regs ..

/-- A thread of the state with a body, but for its latched events. -/
@[simp] theorem State.withBody_thr (j : Nat) :
    ((s.withBody c).dev.body.thr j).pc = (c.thr j).pc ∧ ((s.withBody c).dev.body.thr j).wmask = (c.thr j).wmask ∧
    ((s.withBody c).dev.body.thr j).binds = (c.thr j).binds ∧ ((s.withBody c).dev.body.thr j).timer = (c.thr j).timer ∧
    ((s.withBody c).dev.body.thr j).psize = (c.thr j).psize ∧ ((s.withBody c).dev.body.thr j).wins = (c.thr j).wins ∧
    ((s.withBody c).dev.body.thr j).wait = (c.thr j).wait ∧ ((s.withBody c).dev.body.thr j).steps = (c.thr j).steps ∧
    ((s.withBody c).dev.body.thr j).ueArm = (c.thr j).ueArm ∧ ((s.withBody c).dev.body.thr j).rfArm = (c.thr j).rfArm ∧
    ((s.withBody c).dev.body.thr j).restarts = (c.thr j).restarts :=
  Body.note_thr_rest ..

/-- What makes an instruction of a thread complete: what the thread's registers and program counter are, and the other threads. -/
theorem State.withBody_retires {x : Thread} (hx : c.thr th = x) (hv : v < 2 ^ 64) (hpc : x.pc = pc)
    (hr : x.regs = if d = 0 then (s.dev.body.thr th).regs else Sp.set 0 (s.dev.body.thr th).regs d (v % 2 ^ 64))
    (ho : ∀ j, j ≠ th → (c.thr j).regs = (s.dev.body.thr j).regs ∧ (c.thr j).pc = (s.dev.body.thr j).pc) :
    s.retires (s.withBody c) th d v pc := by
  have hg : ∀ r, (s.withBody c).dev.body.greg th r = if r = 0 then 0 else Sp.get 0 x.regs r := fun r => by
    rw [State.withBody_greg, Body.greg, hx]
  refine ⟨?_, fun r hrd => ?_, ?_, fun j hj => ?_⟩
  · rw [hg, hr]
    split_ifs with hd
    · rfl
    · rw [Sp.get_set_self, Nat.mod_eq_of_lt hv]
  · rw [hg, hr, Body.greg]
    split_ifs with hr0 hd
    · rfl
    · rfl
    · rw [Sp.get_set_of_ne _ _ _ _ hrd]
  · rw [(State.withBody_thr th).1, hx, hpc]
  · rw [State.withBody_thr_regs, (State.withBody_thr j).1]
    exact ho j hj

/-- An instruction that leaves its result in a register passes to the next. -/
theorem State.withBody_result (hv : v < 2 ^ 64) : s.retires (s.withBody (s.dev.body.result th d v)) th d v
    (((s.dev.body.thr th).pc + 4) % 2 ^ 64) ∧ s.within (s.withBody (s.dev.body.result th d v)) := by
  refine ⟨?_, State.withBody_within ((Body.Inner.refl.retire th).setG ..)⟩
  unfold Body.result Body.setG
  split_ifs with hd
  · exact State.withBody_retires (by rw [Body.retire_thr, if_pos rfl]) hv rfl (by rw [if_pos hd]) fun j hj => by
      rw [Body.retire_thr, if_neg hj]; exact ⟨rfl, rfl⟩
  · exact State.withBody_retires (by rw [Body.thr_setThr_self]) hv (by rw [Body.retire_thr, if_pos rfl])
      (by rw [Body.retire_thr, if_pos rfl, if_neg hd]) fun j hj => by
      rw [Body.thr_setThr, if_neg hj, Body.retire_thr, if_neg hj]; exact ⟨rfl, rfl⟩

end

/-! An instruction that a thread issues. -/

section
variable {s : State} {th w op : Nat} {c : Instr}

theorem State.issues.lt (h : s.issues th w) : th < 256 := by
  have := h.here
  simp only [Body.issues, Bool.and_eq_true, decide_eq_true_eq] at this
  exact this.1.1.1

/-- The instruction at the program counter has the effect of the row that names it. -/
theorem Dev.issue_runs {row : Nat → Bool} (f : Dev → Nat → Dev) (h : s.issues th w) (hr : row w = true) :
    s.dev.issue th row f = f s.dev w := by
  simp [Dev.issue, h.here, h.word, h.defined, h.sound, hr]

theorem Dev.issueOp_runs (f : Dev → Nat → Dev) (h : s.issues th w) (hop : uOp w = op) : s.dev.issueOp th op f = f s.dev w :=
  Dev.issue_runs f h (by rw [hop, beq_self_eq_true])

/-- An instruction whose effect leaves the engine with a body. -/
theorem State.issueOp_next {f : Dev → Nat → Dev} {b : Body} (h : s.issues th w) (hop : uOp w = op)
    (hf : f s.dev w = { s.dev with body := b }) :
    s.live (decide (th < 256)) [14] (fun d => d.issueOp th op f) = .next (s.withBody b) :=
  State.live_withBody (decide_eq_true h.lt) h.runs ((Dev.issueOp_runs f h hop).trans hf)

/-- What an instruction with a result gives. -/
def State.gives (s : State) (th w : Nat) (c : Instr) (v : Nat) : Prop :=
  ∃ t, exec c s = .next t ∧ s.retires t th (uD w) v (((s.dev.body.thr th).pc + 4) % 2 ^ 64) ∧ s.within t

theorem State.issueOp_gives {val : Dev → Nat → Nat} (h : s.issues th w) (hop : uOp w = op) (hv : val s.dev w < 2 ^ 64)
    (hc : exec c s = s.live (decide (th < 256)) [14] fun d => d.issueOp th op fun d w =>
      { d with body := d.body.result th (uD w) (val d w) }) : s.gives th w c (val s.dev w) :=
  ⟨_, hc.trans (State.issueOp_next h hop rfl), State.withBody_result hv⟩

theorem State.opReg2_gives {f : Nat → Nat → Nat} (h : s.issues th w) (hop : uOp w = op)
    (hv : f (s.dev.body.greg th (uA w)) (s.dev.body.greg th (uB w)) < 2 ^ 64)
    (hc : exec c s = s.live (decide (th < 256)) [14] fun d => d.opReg2 th op f) :
    s.gives th w c (f (s.dev.body.greg th (uA w)) (s.dev.body.greg th (uB w))) :=
  State.issueOp_gives (val := fun d w => f (d.body.greg th (uA w)) (d.body.greg th (uB w))) h hop hv hc

theorem State.opRegW_gives {f : Nat → Nat → Nat} (h : s.issues th w) (hop : uOp w = op)
    (hv : f (s.dev.body.greg th (uA w)) w < 2 ^ 64)
    (hc : exec c s = s.live (decide (th < 256)) [14] fun d => d.opRegW th op f) :
    s.gives th w c (f (s.dev.body.greg th (uA w)) w) :=
  State.issueOp_gives (val := fun d w => f (d.body.greg th (uA w)) w) h hop hv hc

end

/-! Two's complement values of 64 bits. -/

theorem signed_eq {x : Nat} (hx : x < 2 ^ 64) :
    (x < 2 ^ 63 ∧ signed 64 x = x) ∨ (2 ^ 63 ≤ x ∧ signed 64 x = (x : Int) - 2 ^ 64) := by
  rw [signed, Nat.mod_eq_of_lt hx]
  split_ifs with h
  · exact .inl ⟨h, rfl⟩
  · exact .inr ⟨Nat.not_lt.mp h, rfl⟩

theorem signed_range (x : Nat) : -2 ^ 63 ≤ signed 64 x ∧ signed 64 x < 2 ^ 63 := by
  have := Nat.mod_lt x (by decide : 0 < 2 ^ 64)
  unfold signed
  split_ifs with h <;> simp only [Nat.add_one_sub_one, Nat.reducePow] at * <;> omega

theorem encSigned_lt (v : Int) : encSigned 64 v < 2 ^ 64 := by
  unfold encSigned
  omega

theorem signed_encSigned {v : Int} (h : -2 ^ 63 ≤ v ∧ v < 2 ^ 63) : signed 64 (encSigned 64 v) = v := by
  have hv := encSigned_lt v
  have he : (encSigned 64 v : Int) = v % 2 ^ 64 := by unfold encSigned; omega
  rcases signed_eq hv with ⟨hs, h'⟩ | ⟨hs, h'⟩ <;> rw [h', he] <;> omega

theorem signed_eq_zero {x : Nat} (hx : x < 2 ^ 64) : signed 64 x = 0 ↔ x = 0 := by
  rcases signed_eq hx with ⟨hs, h'⟩ | ⟨hs, h'⟩ <;> rw [h'] <;> omega

theorem u64_lt (v : Nat) : u64 v < 2 ^ 64 := Nat.mod_lt _ (by decide)

theorem b2n_lt (p : Bool) : b2n p < 2 ^ 64 := by cases p <;> decide

/-- A quotient is no farther from zero than its dividend. -/
theorem ediv_range {a b : Int} (ha : -2 ^ 63 ≤ a ∧ a < 2 ^ 63) (hb : 0 < b) : -2 ^ 63 ≤ a / b ∧ a / b < 2 ^ 63 := by
  constructor
  · rw [Int.le_ediv_iff_mul_le hb]; nlinarith
  · rw [Int.ediv_lt_iff_lt_mul hb]; nlinarith

theorem wrapSub_eq (x : Nat) {y : Nat} (hy : y < 2 ^ 64) : wrapSub 64 x y = (x + (2 ^ 64 - y)) % 2 ^ 64 := by
  rw [wrapSub, Nat.mod_eq_of_lt hy]
  congr 1
  omega

/-! The values of the operations (R409, R410). -/

section
variable {x y n : Nat}

theorem valShl_lt : valShl x n < 2 ^ 64 := by unfold valShl; split_ifs <;> exact u64_lt _

theorem valShl_of_lt (h : n < 64) : valShl x n = x * 2 ^ n % 2 ^ 64 := if_pos h

theorem valShr_lt (hx : x < 2 ^ 64) : valShr x n < 2 ^ 64 := by
  unfold valShr
  split_ifs
  exacts [(Nat.div_le_self _ _).trans_lt hx, u64_lt _]

theorem valShr_of_lt (h : n < 64) : valShr x n = x / 2 ^ n := if_pos h

theorem valSar_lt : valSar x n < 2 ^ 64 := by
  unfold valSar
  split_ifs
  exacts [encSigned_lt _, u64_lt _]

theorem valSar_of_lt (h : n < 64) : signed 64 (valSar x n) = signed 64 x / (2 ^ n : Nat) := by
  rw [valSar, if_pos h]
  exact signed_encSigned (ediv_range (signed_range x) (by exact_mod_cast Nat.two_pow_pos n))

theorem valMulh_spec (hx : x < 2 ^ 64) (hy : y < 2 ^ 64) : valMulh x y < 2 ^ 64 ∧
    (valMulh x y = x * y / 2 ^ 64 ∨ signed 64 (valMulh x y) = signed 64 x * signed 64 y / (2 ^ 64 : Nat)) := by
  unfold valMulh
  split_ifs
  · refine ⟨encSigned_lt _, .inr (signed_encSigned ?_)⟩
    have hmul : |signed 64 x * signed 64 y| ≤ 2 ^ 63 * 2 ^ 63 := by
      rw [abs_mul]
      have h := signed_range x
      have h' := signed_range y
      gcongr <;> rw [abs_le] <;> omega
    rw [abs_le] at hmul
    generalize signed 64 x * signed 64 y = z at hmul
    omega
  · refine ⟨Nat.div_lt_of_lt_mul ?_, .inl rfl⟩
    exact Nat.mul_lt_mul'' hx hy

theorem natAbs_signed {x : Nat} (h : x < 2 ^ 63) : signed 64 x = x := by
  rcases signed_eq (h.trans (by decide)) with ⟨-, h'⟩ | ⟨h', -⟩
  · exact h'
  · omega

theorem valDiv_lt : valDiv x y < 2 ^ 64 := by
  unfold valDiv
  dsimp only
  split_ifs with h1 h2 h3
  · decide
  · exact h2.2.trans (by decide)
  · exact encSigned_lt _
  · exact u64_lt _

theorem valDiv_same (hy : y ≠ 0) (hs : signed 64 x < 0 ↔ signed 64 y < 0)
    (hq : (signed 64 x).natAbs / (signed 64 y).natAbs < 2 ^ 63) :
    valDiv x y = (signed 64 x).natAbs / (signed 64 y).natAbs := by
  rw [valDiv, if_neg hy, if_pos ⟨decide_eq_decide.mpr hs, hq⟩]

theorem valDiv_exact (hy : y ≠ 0) (hd : ¬(signed 64 x < 0 ↔ signed 64 y < 0)) (hm : signed 64 x % signed 64 y = 0) :
    valDiv x y = encSigned 64 (signed 64 x / signed 64 y) := by
  rw [valDiv, if_neg hy, if_neg fun h => hd (decide_eq_decide.mp h.1), if_pos ⟨hm, fun h => hd (decide_eq_decide.mp h)⟩]

theorem valDiv_spec (hy : y < 2 ^ 64) : (y = 0 → valDiv x y = 2 ^ 64 - 1) ∧
    (y ≠ 0 → x < 2 ^ 63 → y < 2 ^ 63 → valDiv x y = x / y) ∧
    (y ≠ 0 → signed 64 x < 0 → signed 64 y < 0 → (signed 64 x).natAbs / (signed 64 y).natAbs < 2 ^ 63 →
      valDiv x y = (signed 64 x).natAbs / (signed 64 y).natAbs) ∧
    (y ≠ 0 → signed 64 x % signed 64 y = 0 → (signed 64 x < 0 ↔ 0 < signed 64 y) →
      signed 64 (valDiv x y) = signed 64 x / signed 64 y) := by
  refine ⟨fun h => if_pos h, fun h hx63 hy63 => ?_, fun h hx0 hy0 hq => valDiv_same h (iff_of_true hx0 hy0) hq, fun h hm hs => ?_⟩
  · have hsx := natAbs_signed hx63
    have hsy := natAbs_signed hy63
    rw [valDiv_same h (by rw [hsx, hsy]; omega) (by rw [hsx, hsy]; exact (Nat.div_le_self _ _).trans_lt hx63), hsx, hsy]
    rfl
  · have h0 := mt (signed_eq_zero hy).mp h
    rw [valDiv_exact h (by omega) hm, signed_encSigned]
    have hr := signed_range x
    have hr' := signed_range y
    obtain hp | hn := lt_or_gt_of_ne h0
    · have := Int.ediv_neg (signed 64 x) (signed 64 y)
      have hq : (signed 64 x) / (-signed 64 y) ≤ signed 64 x := Int.ediv_le_self _ (by omega)
      have hq' : 0 ≤ (signed 64 x) / (-signed 64 y) := Int.ediv_nonneg (by omega) (by omega)
      omega
    · exact ediv_range hr hn

theorem valDivu_lt (hx : x < 2 ^ 64) : valDivu x y < 2 ^ 64 := by
  unfold valDivu
  split_ifs
  exacts [by decide, (Nat.div_le_self _ _).trans_lt hx]

theorem valRem_spec (hx : x < 2 ^ 64) : valRem x y < 2 ^ 64 ∧ (y = 0 → valRem x y = x) ∧
    (y ≠ 0 → x < 2 ^ 63 → y < 2 ^ 63 → valRem x y = x % y) := by
  refine ⟨?_, fun h => if_pos h, fun h h1 h2 => ?_⟩
  · unfold valRem
    split_ifs
    exacts [hx, (Nat.mod_le _ _).trans_lt hx, u64_lt _]
  · rw [valRem, if_neg h, if_pos ⟨h1, h2⟩]

end
end Sys2Proof.Machine

namespace Sys2Proof
open Machine

/-- Settles O45. -/
theorem arithmeticInstructions : Obligations.ArithmeticInstructions := by
  intro th w s h hg b x y pc imm gives
  have hB : uB w < 32 := Nat.mod_lt _ (by decide)
  have hx : x < 2 ^ 64 := hg _ (Nat.mod_lt _ (by decide))
  have hy : y < 2 ^ 64 := hg _ hB
  have hz : w % 2 ^ 16 < 2 ^ 64 := (Nat.mod_lt _ (by decide)).trans (by decide)
  have of : ∀ {c : Instr} {v : Nat} {p : Nat → Prop}, s.gives th w c v → p v → gives c p := fun hc hp => by
    obtain ⟨t, ht, hr, hw⟩ := hc
    exact ⟨t, _, ht, hr, hw, hp⟩
  have ite_b2n : ∀ (p : Prop) [Decidable p], b2n (decide p) = (if p then 1 else 0) % 2 ^ 64 := fun p _ => by
    unfold b2n
    split_ifs <;> simp_all
  refine ⟨fun c op v hm hop => ?_, fun c d e k n hm => ?_, fun hop => ?_, fun hop => ?_, fun hop => ?_, fun hop => ?_⟩
  · simp only [List.mem_cons, Prod.mk.injEq, List.not_mem_nil, or_false] at hm
    rcases hm with ⟨rfl, rfl, rfl⟩ | ⟨rfl, rfl, rfl⟩ | ⟨rfl, rfl, rfl⟩ | ⟨rfl, rfl, rfl⟩ | ⟨rfl, rfl, rfl⟩ | ⟨rfl, rfl, rfl⟩ |
      ⟨rfl, rfl, rfl⟩ | ⟨rfl, rfl, rfl⟩ | ⟨rfl, rfl, rfl⟩ | ⟨rfl, rfl, rfl⟩ | ⟨rfl, rfl, rfl⟩ | ⟨rfl, rfl, rfl⟩ | ⟨rfl, rfl, rfl⟩ |
      ⟨rfl, rfl, rfl⟩
    · exact of (State.opReg2_gives (f := fun x y => u64 (x + y)) h hop (u64_lt _) rfl) rfl
    · exact of (State.opReg2_gives (f := fun x y => wrapSub 64 x y) h hop (Nat.mod_lt _ (by decide)) rfl) (wrapSub_eq _ hy)
    · exact of (State.opReg2_gives (f := fun x y => x &&& y) h hop (Nat.and_lt_two_pow _ hy) rfl)
        (Nat.mod_eq_of_lt (Nat.and_lt_two_pow _ hy)).symm
    · exact of (State.opReg2_gives (f := fun x y => x ||| y) h hop (Nat.or_lt_two_pow hx hy) rfl)
        (Nat.mod_eq_of_lt (Nat.or_lt_two_pow hx hy)).symm
    · exact of (State.opReg2_gives (f := fun x y => x ^^^ y) h hop (Nat.xor_lt_two_pow hx hy) rfl)
        (Nat.mod_eq_of_lt (Nat.xor_lt_two_pow hx hy)).symm
    · exact of (State.opReg2_gives (f := fun x y => b2n (decide (signed 64 x < signed 64 y))) h hop (b2n_lt _) rfl) (ite_b2n _)
    · exact of (State.opReg2_gives (f := fun x y => b2n (decide (x < y))) h hop (b2n_lt _) rfl) (ite_b2n _)
    · exact of (State.opReg2_gives (f := fun x y => b2n (x == y)) h hop (b2n_lt _) rfl) (ite_b2n _)
    · exact of (State.opReg2_gives (f := fun x y => u64 (x * y)) h hop (u64_lt _) rfl) rfl
    · exact of (State.opRegW_gives (f := fun x w => u64 (x + uSx w)) h hop (u64_lt _) rfl) rfl
    · exact of (State.opRegW_gives (f := fun x w => x &&& uZx w) h hop (Nat.and_lt_two_pow _ hz) rfl)
        (Nat.mod_eq_of_lt (Nat.and_lt_two_pow _ hz)).symm
    · exact of (State.opRegW_gives (f := fun x w => x ||| uZx w) h hop (Nat.or_lt_two_pow hx hz) rfl)
        (Nat.mod_eq_of_lt (Nat.or_lt_two_pow hx hz)).symm
    · exact of (State.opRegW_gives (f := fun x w => x ^^^ uZx w) h hop (Nat.xor_lt_two_pow hx hz) rfl)
        (Nat.mod_eq_of_lt (Nat.xor_lt_two_pow hx hz)).symm
    · exact of (State.opRegW_gives (f := fun _ w => u64 (uSx w * 2 ^ 16)) h hop (u64_lt _) rfl) rfl
  · simp only [List.mem_cons, Prod.mk.injEq, List.not_mem_nil, or_false] at hm
    rcases hm with ⟨rfl, rfl, rfl, rfl, rfl⟩ | ⟨rfl, rfl, rfl, rfl, rfl⟩
    · exact ⟨fun hop => of (State.opReg2_gives (f := valShl) h hop valShl_lt rfl) valShl_of_lt,
        fun hop => of (State.opReg2_gives (f := valShr) h hop (valShr_lt hx) rfl) valShr_of_lt,
        fun hop => of (State.opReg2_gives (f := valSar) h hop valSar_lt rfl) valSar_of_lt⟩
    · exact ⟨fun hop => of (State.opRegW_gives (f := fun x w => valShl x (uSx w)) h hop valShl_lt rfl) valShl_of_lt,
        fun hop => of (State.opRegW_gives (f := fun x w => valShr x (uSx w)) h hop (valShr_lt hx) rfl) valShr_of_lt,
        fun hop => of (State.opRegW_gives (f := fun x w => valSar x (uSx w)) h hop valSar_lt rfl) valSar_of_lt⟩
  · exact of (State.opReg2_gives (f := valMulh) h hop (valMulh_spec hx hy).1 rfl) (valMulh_spec hx hy).2
  · exact of (State.opReg2_gives (f := valDiv) h hop valDiv_lt rfl) (valDiv_spec hy)
  · exact of (State.opReg2_gives (f := valDivu) h hop (valDivu_lt hx) rfl) rfl
  · exact of (State.opReg2_gives (f := valRem) h hop (valRem_spec hx).1 rfl) (valRem_spec hx).2

end Sys2Proof
end

section
/-! O46: branches, jumps and bit instructions (R409, R410). -/

namespace Sys2Proof.Machine

section
variable {s : State} {th w op pc v d : Nat} {c : Instr}

/-! Branches and jumps. -/

/-- An instruction that moves the program counter after it has retired. -/
theorem State.withBody_setPc (p : Nat) : s.retires (s.withBody ((s.dev.body.retire th).setPc th p)) th 0 0 (p % 2 ^ 64) ∧
    s.within (s.withBody ((s.dev.body.retire th).setPc th p)) :=
  ⟨State.withBody_retires (by rw [Body.setPc, Body.thr_setThr_self]) (by decide) rfl (by rw [Body.retire_thr, if_pos rfl]; rfl)
      fun j hj => by rw [Body.setPc, Body.thr_setThr, if_neg hj, Body.retire_thr, if_neg hj]; exact ⟨rfl, rfl⟩,
    State.withBody_within ((Body.Inner.refl.retire th).setThr _ _)⟩

theorem State.withBody_retire : s.retires (s.withBody (s.dev.body.retire th)) th 0 0 (((s.dev.body.thr th).pc + 4) % 2 ^ 64) ∧
    s.within (s.withBody (s.dev.body.retire th)) :=
  State.withBody_result (d := 0) (v := 0) (by decide)

theorem Body.branch_eq (b : Body) (off : Nat) (t : Bool) : b.branch th off t =
    if t then (b.retire th).setPc th ((b.thr th).pc + (if Config.branchNext then 4 else 0) + off) else b.retire th := rfl

theorem State.withBody_branch (off : Nat) (taken : Bool) :
    s.retires (s.withBody (s.dev.body.branch th off taken)) th 0 0 (if taken then
      ((s.dev.body.thr th).pc + (if Config.branchNext then 4 else 0) + off) % 2 ^ 64 else ((s.dev.body.thr th).pc + 4) % 2 ^ 64) ∧
    s.within (s.withBody (s.dev.body.branch th off taken)) := by
  rw [Body.branch_eq]
  cases taken
  · exact State.withBody_retire
  · exact State.withBody_setPc _

theorem State.opBranch_next {f : Nat → Nat → Bool} (h : s.issues th w) (hop : uOp w = op)
    (hc : exec c s = s.live (decide (th < 256)) [14] fun d => d.opBranch th op f) :
    ∃ t, exec c s = .next t ∧ s.retires t th 0 0 (if f (s.dev.body.greg th (uD w)) (s.dev.body.greg th (uA w)) then
      ((s.dev.body.thr th).pc + (if Config.branchNext then 4 else 0) + 4 * uSx w) % 2 ^ 64
      else ((s.dev.body.thr th).pc + 4) % 2 ^ 64) ∧ s.within t :=
  have hn := State.live_withBody (F := fun d => d.opBranch th op f) (decide_eq_true h.lt) h.runs (Dev.issueOp_runs _ h hop)
  ⟨_, hc.trans hn, State.withBody_branch ..⟩

/-- The link register takes the address of the next instruction. -/
theorem State.withBody_call (off : Nat) :
    let c := (s.dev.body.branch th off true).setG th d (u64 ((s.dev.body.thr th).pc + 4))
    s.within (s.withBody c) ∧ s.retires (s.withBody c) th d (((s.dev.body.thr th).pc + 4) % 2 ^ 64)
      (((s.dev.body.thr th).pc + (if Config.branchNext then 4 else 0) + off) % 2 ^ 64) := by
  intro c
  refine ⟨State.withBody_within (((Body.Inner.refl.retire th).setThr _ _).setG ..), ?_⟩
  simp only [c, Body.branch, if_true, Body.setG, Body.setPc]
  by_cases hd : d = 0
  · rw [if_pos hd]
    exact State.withBody_retires (by rw [Body.thr_setThr_self]) (Nat.mod_lt _ (by decide)) rfl
      (by rw [if_pos hd, Body.retire_thr, if_pos rfl])
      fun j hj => by rw [Body.thr_setThr, if_neg hj, Body.retire_thr, if_neg hj]; exact ⟨rfl, rfl⟩
  · rw [if_neg hd]
    exact State.withBody_retires (by rw [Body.thr_setThr_self]) (Nat.mod_lt _ (by decide)) (by rw [Body.thr_setThr_self])
      (by rw [Body.thr_setThr_self, if_neg hd, Body.retire_thr, if_pos rfl]; rfl)
      fun j hj => by rw [Body.thr_setThr, if_neg hj, Body.thr_setThr, if_neg hj, Body.retire_thr, if_neg hj]; exact ⟨rfl, rfl⟩

theorem State.opField_gives {f : Nat → Nat → Nat → Nat → Nat} (h : s.issues th w) (hop : uOp w = op)
    (hv : f w (s.dev.body.greg th (uD w)) (s.dev.body.greg th (uA w)) (s.dev.body.greg th (uB w)) < 2 ^ 64)
    (hc : exec c s = s.live (decide (th < 256)) [14] fun d => d.opField th op f) :
    s.gives th w c (f w (s.dev.body.greg th (uD w)) (s.dev.body.greg th (uA w)) (s.dev.body.greg th (uB w))) :=
  State.issueOp_gives (val := fun d w => f w (d.body.greg th (uD w)) (d.body.greg th (uA w)) (d.body.greg th (uB w))) h hop hv hc

end

/-! The values of the bit instructions. -/

theorem popcount_le (v : Nat) : ∀ n, popcount v n ≤ n
  | 0 => Nat.le_refl 0
  | n + 1 => by
    have h := popcount_le v n
    have hb : b2n (bitOn v n) ≤ 1 := by cases bitOn v n <;> decide
    simp only [popcount]
    omega

theorem valClz_spec {y : Nat} (hy : y < 2 ^ 64) : valClz y < 2 ^ 64 ∧ (y = 0 → valClz y = 64) ∧
    (y ≠ 0 → valClz y < 64 ∧ 2 ^ (63 - valClz y) ≤ y ∧ y < 2 ^ (64 - valClz y)) := by
  by_cases h : y = 0
  · subst h
    exact ⟨by decide, fun _ => rfl, fun h => absurd rfl h⟩
  · have hl : Nat.log2 y < 64 := (Nat.log2_lt h).mpr hy
    rw [valClz, if_neg h]
    refine ⟨by omega, fun h' => absurd h' h, fun _ => ⟨by omega, ?_, ?_⟩⟩
    · rw [show 63 - (63 - Nat.log2 y) = Nat.log2 y by omega]
      exact Nat.log2_self_le h
    · rw [show 64 - (63 - Nat.log2 y) = Nat.log2 y + 1 by omega]
      exact Nat.lt_log2_self

theorem leBytes_leNat : ∀ l : List Byte, leBytes l.length (leNat l) = l
  | [] => rfl
  | b :: l => by
    have hb := b.isLt
    rw [List.length_cons, leBytes, leNat, show (b.toNat + 256 * leNat l) / 256 = leNat l by omega, leBytes_leNat l]
    congr 1
    apply BitVec.eq_of_toNat_eq
    rw [BitVec.toNat_ofNat]
    omega

theorem leNat_lt : ∀ l : List Byte, leNat l < 2 ^ (8 * l.length)
  | [] => by decide
  | b :: l => by
    have hb := b.isLt
    have := leNat_lt l
    rw [leNat, List.length_cons, Nat.mul_add, Nat.pow_add]
    omega

theorem valBswap_spec (y : Nat) : valBswap y < 2 ^ 64 ∧ leBytes 8 (valBswap y) = (leBytes 8 y).reverse := by
  have hl : (leBytes 8 y).reverse.length = 8 := by rw [List.length_reverse, length_leBytes]
  have h := leNat_lt (leBytes 8 y).reverse
  have h' := leBytes_leNat (leBytes 8 y).reverse
  rw [hl] at h h'
  exact ⟨h, h'⟩

/-- The first clause of O46, the instructions that have their effect. -/
theorem branches_and_bits {th w : Nat} {s : State} (h : s.issues th w) (hg : ∀ r < 32, s.dev.body.greg th r < 2 ^ 64) :
    let b := s.dev.body
    let p := (b.thr th).pc
    let next := (p + 4) % 2 ^ 64
    let base := p + (if Config.branchNext then 4 else 0)
    let x := b.greg th (uD w)
    let y := b.greg th (uA w)
    (∀ c op cond, (c, op, cond) ∈ [(Instr.beq th, 0x28, decide (x = y)), (.bne th, 0x29, decide (x ≠ y)),
        (.blt th, 0x2A, decide (signed 64 x < signed 64 y)), (.bge th, 0x2B, decide (signed 64 y ≤ signed 64 x)),
        (.bltu th, 0x2C, decide (x < y)), (.bgeu th, 0x2D, decide (y ≤ x))] → uOp w = op →
      ∃ t, exec c s = .next t ∧ s.retires t th 0 0 (if cond then (base + 4 * uSx w) % 2 ^ 64 else next) ∧ s.within t) ∧
    (uOp w = 0x2E → ∃ t, exec (.call th) s = .next t ∧ s.within t ∧
      s.retires t th (uD w) next ((base + 4 * encSigned 64 (signed 21 (w % 2 ^ 21))) % 2 ^ 64)) ∧
    (uOp w = 0x2F → ∃ t, exec (.jr th) s = .next t ∧ s.within t ∧ s.retires t th 0 0 x) ∧
    (uOp w = 0x38 → ∃ t, exec (.fence th) s = .next t ∧ s.within t ∧ s.retires t th 0 0 next) ∧
    (∀ c op (p : Nat → Prop), (c, op, p) ∈ [(Instr.crc32c th, 0x30, fun _ => True), (.popcnt th, 0x31, fun v => v = popcount y 64),
        (.clz th, 0x32, fun v => (y = 0 → v = 64) ∧ (y ≠ 0 → v < 64 ∧ 2 ^ (63 - v) ≤ y ∧ y < 2 ^ (64 - v))),
        (.bswap th, 0x33, fun v => leBytes 8 v = (leBytes 8 y).reverse), (.extr th, 0x34, fun _ => True), (.insr th, 0x35, fun _ => True),
        (.csel th, 0x36, fun v => v = y ∨ v = b.greg th (uB w))] → uOp w = op →
      ∃ t v, exec c s = .next t ∧ s.retires t th (uD w) v next ∧ s.within t ∧ p v) := by
  intro b p next base x y
  have hx : x < 2 ^ 64 := hg _ (Nat.mod_lt _ (by decide))
  have hy : y < 2 ^ 64 := hg _ (Nat.mod_lt _ (by decide))
  have hz : b.greg th (uB w) < 2 ^ 64 := hg _ (Nat.mod_lt _ (by decide))
  have of : ∀ {c : Instr} {v : Nat} {p : Nat → Prop}, s.gives th w c v → p v →
      ∃ t v, exec c s = .next t ∧ s.retires t th (uD w) v next ∧ s.within t ∧ p v := fun hc hp => by
    obtain ⟨t, ht, hr, hw⟩ := hc
    exact ⟨t, _, ht, hr, hw, hp⟩
  refine ⟨fun c op cond hm hop => ?_, fun hop => ?_, fun hop => ?_, fun hop => ?_, fun c op p hm hop => ?_⟩
  · simp only [List.mem_cons, Prod.mk.injEq, List.not_mem_nil, or_false] at hm
    rcases hm with ⟨rfl, rfl, rfl⟩ | ⟨rfl, rfl, rfl⟩ | ⟨rfl, rfl, rfl⟩ | ⟨rfl, rfl, rfl⟩ | ⟨rfl, rfl, rfl⟩ | ⟨rfl, rfl, rfl⟩
    · exact State.opBranch_next (f := fun x y => x == y) h hop rfl
    · have := State.opBranch_next (c := .bne th) (f := fun x y => x != y) h hop rfl
      simpa only [bne_iff_ne, decide_eq_true_eq] using this
    · exact State.opBranch_next (f := fun x y => decide (signed 64 x < signed 64 y)) h hop rfl
    · exact State.opBranch_next (f := fun x y => decide (signed 64 y ≤ signed 64 x)) h hop rfl
    · exact State.opBranch_next (f := fun x y => decide (x < y)) h hop rfl
    · exact State.opBranch_next (f := fun x y => decide (y ≤ x)) h hop rfl
  · exact ⟨_, (show exec (.call th) s = s.live (decide (th < 256)) [14] fun d => d.opCall th from rfl).trans
      (State.issueOp_next h hop rfl), State.withBody_call _⟩
  · have := State.withBody_setPc (s := s) (th := th) x
    rw [Nat.mod_eq_of_lt hx] at this
    exact ⟨_, (show exec (.jr th) s = s.live (decide (th < 256)) [14] fun d => d.opJump th from rfl).trans
      (State.issueOp_next h hop rfl), this.2, this.1⟩
  · exact ⟨_, (show exec (.fence th) s = s.live (decide (th < 256)) [14] fun d => d.opFence th from rfl).trans
      (State.issueOp_next h hop rfl), State.withBody_retire.2, State.withBody_retire.1⟩
  · simp only [List.mem_cons, Prod.mk.injEq, List.not_mem_nil, or_false] at hm
    rcases hm with ⟨rfl, rfl, rfl⟩ | ⟨rfl, rfl, rfl⟩ | ⟨rfl, rfl, rfl⟩ | ⟨rfl, rfl, rfl⟩ | ⟨rfl, rfl, rfl⟩ | ⟨rfl, rfl, rfl⟩ | ⟨rfl, rfl, rfl⟩
    · exact of (State.opReg2_gives (f := fun x y => u64 (Config.crcStep x y)) h hop (u64_lt _) rfl) trivial
    · exact of (State.opRegW_gives (f := fun x _ => popcount x 64) h hop ((popcount_le _ _).trans_lt (by decide)) rfl) rfl
    · exact of (State.opRegW_gives (f := fun x _ => valClz x) h hop (valClz_spec hy).1 rfl) (valClz_spec hy).2
    · exact of (State.opRegW_gives (f := fun x _ => valBswap x) h hop (valBswap_spec y).1 rfl) (valBswap_spec y).2
    · exact of (State.opField_gives (f := fun w _ x y => valExtr w x y) h hop (u64_lt _) rfl) trivial
    · refine of (State.opField_gives (f := valInsr) h hop ?_ rfl) trivial
      unfold valInsr
      split_ifs
      exacts [hx, u64_lt _]
    · have hcs : (if Config.cselFirst w x y (b.greg th (uB w)) then y else b.greg th (uB w)) = y ∨
          (if Config.cselFirst w x y (b.greg th (uB w)) then y else b.greg th (uB w)) = b.greg th (uB w) := by
        split_ifs
        exacts [.inl rfl, .inr rfl]
      have hlt : (if Config.cselFirst w x y (b.greg th (uB w)) then y else b.greg th (uB w)) < 2 ^ 64 := by
        split_ifs
        exacts [hy, hz]
      exact of (State.opField_gives (f := fun w old x y => if Config.cselFirst w old x y then x else y) h hop hlt rfl) hcs

end Sys2Proof.Machine
end

section
/-! O46, its faults: the fetch and the register file (R363, R377, R410). -/

namespace Sys2Proof.Machine

theorem pageOf_addr {p i j : Nat} {f : Fld} (hp : p % 0x1000 = 0) (h : f.off + f.stride * i + 4 * j < 0x1000) : pageOf (f.addr p i j) = p := by
  unfold pageOf Fld.addr
  omega

theorem core_aligned (c n : Nat) : Pg.core c n % 0x1000 = 0 := by unfold Pg.core; omega

/-- A core page is not one of the first pages of BAR0. -/
theorem core_notNoted (c n : Nat) {a : Nat} (h : pageOf a = Pg.core c n) : notedAt a = false := by
  unfold pageOf Pg.core at h
  exact Body.notedAt_page (by omega) (by omega) (by omega)

theorem core_ne_icu (c n : Nat) : Pg.core c n ∉ [Pg.icu 0, Pg.icu 1] := by
  simp only [Pg.core, Pg.icu, List.mem_cons, List.not_mem_nil, or_false]
  omega

namespace Body
variable {b c : Body} {ps : List Nat} {th : Nat}

/-! Frames of what moves a thread's state. -/

theorem Keeps.wrAt {p i j v : Nat} {f : Fld} (h : Keeps ps b c) (hp : p % 0x1000 = 0) (hf : f.lo < 32 := by decide)
    (ho : f.off + f.stride * i + 4 * j < 0x1000 := by decide) (hm : p ∈ ps := by simp) : Keeps ps b (c.wr p f v i j) :=
  h.wr hf (by rw [pageOf_addr hp ho]; exact hm)

theorem Keeps.rd (h : Keeps ps b c) {p i j : Nat} {g : Fld} (hg : g.lo < 32) (hp : pageOf (g.addr p i j) ∉ ps)
    (hn : notedAt (g.addr p i j) = false) : c.rd p g i j = b.rd p g i j := h.regs _ _ _ _ hg hn hp

theorem Keeps.setThr (h : Keeps ps b c) (th : Nat) (x : Thread) : Keeps ps b (c.setThr th x) := h.of_eq rfl rfl rfl rfl

theorem icuRequeue_frame {bank : Nat} (t : Nat) (hb : bank < 2) :
    Keeps [Pg.icu 0, Pg.icu 1] b (b.icuRequeue bank t) ∧ (b.icuRequeue bank t).grt = b.grt ∧ (b.icuRequeue bank t).marks = b.marks := by
  have hp : Pg.icu bank ∈ [Pg.icu 0, Pg.icu 1] := by interval_cases bank <;> decide
  have ha := (pageIs_icu hb).aligned
  unfold icuRequeue
  refine ⟨(Keeps.refl b).foldl _ fun c x _ h => ?_, foldl_same Body.grt _ (fun a x => ?_) _ _, foldl_same Body.marks _ (fun a x => ?_) _ _⟩
  · exact ((h.of_eq (by simp) (by simp) (by simp) (by simp)).sat (by decide) (by rwa [pageOf_addr ha (by decide)])).fire (by decide) ha hp
  all_goals simp

theorem icuTargets_frame {bank : Nat} (f : Body → Body) (hb : bank < 2) (hf : Keeps [Pg.icu 0, Pg.icu 1] b (f b)) :
    Keeps [Pg.icu 0, Pg.icu 1] b (b.icuTargets bank f) ∧ (b.icuTargets bank f).grt = (f b).grt ∧
      (b.icuTargets bank f).marks = (f b).marks := by
  unfold icuTargets
  exact ⟨hf.foldl _ fun c x _ h => h.trans (icuRequeue_frame x hb).1, foldl_same Body.grt _ (fun a x => (icuRequeue_frame x hb).2.1) _ _,
    foldl_same Body.marks _ (fun a x => (icuRequeue_frame x hb).2.2) _ _⟩

/-- The sleep bit of a core is in the ICU's pages. -/
theorem coreSleep_frame (c : Nat) : Keeps [Pg.icu 0, Pg.icu 1] b (b.coreSleep c) ∧ (b.coreSleep c).grt = b.grt ∧
    (b.coreSleep c).marks = b.marks := by
  unfold coreSleep
  dsimp only [List.foldl_cons, List.foldl_nil]
  generalize (b.grt.restarting.contains c || (b.tst (8 * c) != TH_RUN && b.tst (8 * c) != TH_WAIT)) = z
  have h0 := icuTargets_frame (b := b) (bank := 0)
    (fun b => b.wr (Pg.icu 0) R.ICU_TGT_SLEEP_HI (setBitField (b.rd (Pg.icu 0) R.ICU_TGT_SLEEP_HI) c c (b2n z))) (by decide)
    ((Keeps.refl b).wrAt (by decide))
  generalize b.icuTargets 0 _ = d at h0
  have h1 := icuTargets_frame (b := d) (bank := 1)
    (fun b => b.wr (Pg.icu 1) R.ICU_TGT_SLEEP_HI (setBitField (b.rd (Pg.icu 1) R.ICU_TGT_SLEEP_HI) c c (b2n z))) (by decide)
    ((Keeps.refl d).wrAt (by decide))
  exact ⟨h0.1.trans h1.1, h1.2.1.trans h0.2.1, h1.2.2.trans h0.2.2⟩

/-- A thread's state moved, on its core's page, with the sleep bit of the core. -/
theorem tmove_frame (st : Nat) : Keeps [Pg.core (th / 8) 1, Pg.icu 0, Pg.icu 1] b (b.tmove th st) ∧ (b.tmove th st).grt = b.grt := by
  have h : Keeps [Pg.core (th / 8) 1, Pg.icu 0, Pg.icu 1] b ((b.unmark (Mk.deadlock (th / 8))).twr th R.GRT_TH_STATE st) :=
    Keeps.wrAt (f := R.GRT_TH_STATE) ((Keeps.refl b).of_eq (d := b.unmark _) rfl rfl rfl rfl) (core_aligned _ _)
      (ho := by simp only [R.GRT_TH_STATE]; omega)
  unfold tmove
  dsimp only
  split_ifs
  · exact ⟨h.trans ((coreSleep_frame _).1.mono fun x hx => List.mem_cons_of_mem _ hx), (coreSleep_frame _).2.1⟩
  · exact ⟨h, rfl⟩

/-- A register of a core's page after a thread's state has moved. -/
theorem rd_tmove {st n i j k : Nat} {g : Fld} (hg : g.lo < 32) (hp : pageOf (g.addr (Pg.core k n) i j) = Pg.core k n) :
    (b.tmove th st).rd (Pg.core k n) g i j = (b.twr th R.GRT_TH_STATE st).rd (Pg.core k n) g i j := by
  unfold tmove
  dsimp only
  split_ifs
  · exact (coreSleep_frame _).1.rd hg (by rw [hp]; exact core_ne_icu _ _) (core_notNoted _ _ hp)
  · rfl

theorem tmove_state {st : Nat} : (b.tmove th st).tst th = st % 16 := by
  rw [tst, trd, rd_tmove (by decide) (pageOf_addr (core_aligned _ _) (by simp only [R.GRT_TH_STATE]; omega)), twr, rd_wr_self]
  rfl

/-! A fault before it is told (R377). -/

/-- A thread that halts at a fault, before its fault bit is set. -/
def halting (b : Body) (th cause addr : Nat) : Body :=
  let b' := (((b.twr th R.GRT_TH_CAUSE cause).twr th R.GRT_TH_FADDR addr).tcount th 2).dlIssue th
  let b' := match (b.thr th).steps with
    | some _ => b'.stepEnd th TH_RUN
    | none => b'
  (b'.setThr th { (b'.thr th) with wait := none, steps := none }).tmove th TH_HALTED

/-- The report of a thread's fault. -/
def faultInfo (th cause : Nat) (at_ : FltInfo) : FltInfo :=
  { at_ with master := 0x100 + th, detail := cause, inj := cause == CS_MEM_UE || cause == CS_REGFILE }

theorem tfault_eq (b : Body) (th cause addr : Nat) (at_ : FltInfo) : b.tfault th cause addr at_ =
    if isCust th then ((b.halting th cause addr).haltNote th).fault (Pg.core (th / 8) 0) R.GRT_FLT_THREAD (faultInfo th cause at_)
    else (b.halting th cause addr).fault (Pg.core (th / 8) 0) R.GRT_FLT_SUPV (faultInfo th cause at_) := rfl

/-- The pages that a fault changes before it is told. -/
def haltPages (th : Nat) : List Nat := [Pg.core (th / 8) 1, Pg.core (th / 8) 2, Pg.icu 0, Pg.icu 1]

/-- A thread keeps its registers, its program counter and an armed error of its register file. -/
def sameThr (x y : Thread) : Prop := x.regs = y.regs ∧ x.pc = y.pc ∧ x.rfArm = y.rfArm

theorem sameThr.trans {x y z : Thread} (h : sameThr x y) (h' : sameThr y z) : sameThr x z :=
  ⟨h.1.trans h'.1, h.2.1.trans h'.2.1, h.2.2.trans h'.2.2⟩

theorem tmove_thr (st j : Nat) : (b.tmove th st).thr j = b.thr j := by
  rw [thr, (tmove_frame st).2, thr]

theorem dlIssue_thr (j : Nat) : (b.dlIssue th).thr j = b.thr j := by
  unfold dlIssue
  split_ifs <;> rfl

theorem Keeps.dlIssue (h : Keeps ps b c) (th : Nat) : Keeps ps b (c.dlIssue th) := by
  unfold Body.dlIssue
  split_ifs
  exacts [h, h.of_eq rfl rfl rfl rfl]

theorem setBit_sameThr (t n j : Nat) : sameThr ((b.setBit t n).thr j) (b.thr j) := by
  rw [setBit, thr_setThr]
  split_ifs with h
  · subst h; exact ⟨rfl, rfl, rfl⟩
  · exact ⟨rfl, rfl, rfl⟩

theorem setBit_rd (t n q : Nat) (g : Fld) (i j : Nat) : (b.setBit t n).rd q g i j = b.rd q g i j := rfl

theorem setThr_rd (t : Nat) (x : Thread) (q : Nat) (g : Fld) (i j : Nat) : (b.setThr t x).rd q g i j = b.rd q g i j := rfl

/-- A register of a thread's block lies on the core's page. -/
theorem thrPage {f : Fld} (h : f.off < 0x100 ∧ f.stride = 0x20) (t : Nat) : pageOf (f.addr (Pg.core (t / 8) 1) (t % 8) 0) = Pg.core (t / 8) 1 :=
  pageOf_addr (core_aligned _ _) (by obtain ⟨ho, hs⟩ := h; rw [hs]; omega)

theorem stepEnd_frame (prior : Nat) : Keeps (haltPages th) b (b.stepEnd th prior) ∧ sameThr ((b.stepEnd th prior).thr th) (b.thr th) := by
  unfold stepEnd
  dsimp only
  refine ⟨?_, (setBit_sameThr ..).trans ?_⟩
  · refine Keeps.setThr (Keeps.wrAt (Keeps.wrAt ?_ (core_aligned _ _) (hm := by simp [haltPages])) (core_aligned _ _) (hm := by simp [haltPages])) _ _
    refine Keeps.trans (Keeps.wr ((Keeps.refl b).setThr _ _) (by decide) ?_)
      ((tmove_frame _).1.mono (by simp only [haltPages, List.mem_cons]; tauto))
    rw [thrPage (by decide)]
    simp [haltPages]
  · show sameThr ((tmove _ th TH_STOPPED).thr th) _
    rw [tmove_thr]
    show sameThr ((b.setThr th _).thr th) _
    rw [thr_setThr_self]
    exact ⟨rfl, rfl, rfl⟩

/-- A register of a thread's block but for its state and the state before it, at the end of a STEP. -/
theorem stepEnd_rd (prior : Nat) {f : Fld} (h : f.off < 0x100 ∧ f.stride = 0x20) (hf : f.lo < 32)
    (hne : f.off ≠ 0x84 ∨ f.lo ∉ [20, 28]) : (b.stepEnd th prior).rd (Pg.core (th / 8) 1) f (th % 8) = b.rd (Pg.core (th / 8) 1) f (th % 8) := by
  have hp := thrPage h th
  have haddr : f.addr (Pg.core (th / 8) 1) (th % 8) 0 = Pg.core (th / 8) 1 + f.off + 0x20 * (th % 8) := by rw [Fld.addr, h.2]; rfl
  simp only [List.mem_cons, List.not_mem_nil, or_false, not_or] at hne
  have hcore2 : f.addr (Pg.core (th / 8) 1) (th % 8) 0 ≠ Pg.core (th / 8) 2 + 0x90 := by
    intro e
    rw [e] at hp
    unfold pageOf Pg.core at hp
    omega
  have hother : ∀ g : Fld, g.off = 0x84 → g.stride = 0x20 → (g.lo = 20 ∨ g.lo = 28) →
      f.addr (Pg.core (th / 8) 1) (th % 8) 0 ≠ g.addr (Pg.core (th / 8) 1) (th % 8) 0 ∨ f.lo ≠ g.lo := by
    intro g h1 h2 h3
    rw [haddr, Fld.addr, h1, h2]
    omega
  unfold stepEnd
  dsimp only
  rw [setBit_rd, rd_wr_ne _ _ (by decide) hf (.inl hcore2), rd_wr_ne _ _ (by decide) hf (.inl hcore2), rd_tmove hf hp, twr,
    rd_wr_ne _ _ (by decide) hf (hother _ rfl rfl (.inr rfl)), twr, rd_wr_ne _ _ (by decide) hf (hother _ rfl rfl (.inl rfl)), setThr_rd]

section
variable (b) (th cause addr : Nat)

/-- What a halting thread keeps, and what its block shows. -/
theorem halting_spec : Keeps (haltPages th) (b.tcount th 2) (b.halting th cause addr) ∧
    sameThr ((b.halting th cause addr).thr th) (b.thr th) ∧
    (b.halting th cause addr).rd (Pg.core (th / 8) 1) R.GRT_TH_STATE (th % 8) = TH_HALTED ∧
    (b.halting th cause addr).rd (Pg.core (th / 8) 1) R.GRT_TH_CAUSE (th % 8) = cause % 16 ∧
    (b.halting th cause addr).rd (Pg.core (th / 8) 1) R.GRT_TH_FADDR (th % 8) = addr % 2 ^ 32 := by
  have hpage : ∀ {f : Fld}, f.off < 0x100 ∧ f.stride = 0x20 → pageOf (f.addr (Pg.core (th / 8) 1) (th % 8) 0) ∈ haltPages th :=
    fun h => by rw [thrPage h]; simp [haltPages]
  have hdl : ∀ (x : Body) (q : Nat) (g : Fld) (i : Nat), (x.dlIssue th).rd q g i = x.rd q g i := fun x q g i => by
    unfold dlIssue
    split_ifs <;> rfl
  unfold halting
  dsimp only
  generalize hd : (((b.twr th R.GRT_TH_CAUSE cause).twr th R.GRT_TH_FADDR addr).tcount th 2).dlIssue th = d
  have hkeep : Keeps (haltPages th) (b.tcount th 2) d := by
    rw [← hd]
    refine Keeps.dlIssue (c := ((b.tcount th 2).twr th R.GRT_TH_CAUSE cause).twr th R.GRT_TH_FADDR addr) ?_ th
    exact ((Keeps.refl _).wr (by decide) (hpage (by decide))).wr (by decide) (hpage (by decide))
  have hthr : d.thr th = b.thr th := by rw [← hd, dlIssue_thr]; rfl
  have hcause : d.rd (Pg.core (th / 8) 1) R.GRT_TH_CAUSE (th % 8) = cause % 16 := by
    rw [← hd, hdl]
    show ((b.twr th R.GRT_TH_CAUSE cause).wr (Pg.core (th / 8) 1) R.GRT_TH_FADDR addr (th % 8)).rd _ _ _ = _
    rw [rd_wr_ne _ _ (by decide) (by decide) (.inr (by decide)), twr, rd_wr_self]
    rfl
  have haddr : d.rd (Pg.core (th / 8) 1) R.GRT_TH_FADDR (th % 8) = addr % 2 ^ 32 := by
    rw [← hd, hdl]
    exact rd_wr_self ..
  obtain ⟨e, he, hek, het, hec, hea⟩ : ∃ e, (match (b.thr th).steps with | some _ => d.stepEnd th TH_RUN | none => d) = e ∧
      Keeps (haltPages th) d e ∧ sameThr (e.thr th) (d.thr th) ∧
      e.rd (Pg.core (th / 8) 1) R.GRT_TH_CAUSE (th % 8) = d.rd (Pg.core (th / 8) 1) R.GRT_TH_CAUSE (th % 8) ∧
      e.rd (Pg.core (th / 8) 1) R.GRT_TH_FADDR (th % 8) = d.rd (Pg.core (th / 8) 1) R.GRT_TH_FADDR (th % 8) := by
    cases (b.thr th).steps
    · exact ⟨d, rfl, Keeps.refl d, ⟨rfl, rfl, rfl⟩, rfl, rfl⟩
    · exact ⟨_, rfl, (stepEnd_frame _).1, (stepEnd_frame _).2, stepEnd_rd _ (by decide) (by decide) (by decide),
        stepEnd_rd _ (by decide) (by decide) (by decide)⟩
  rw [he]
  have hmove : ∀ (x : Thread) {f : Fld}, f.off < 0x100 ∧ f.stride = 0x20 → f.lo < 28 →
      ((e.setThr th x).tmove th TH_HALTED).rd (Pg.core (th / 8) 1) f (th % 8) = e.rd (Pg.core (th / 8) 1) f (th % 8) := fun x f h hl => by
    rw [rd_tmove (by omega) (thrPage h th), twr, rd_wr_ne _ _ (by decide) (by omega) (.inr (Nat.ne_of_lt hl))]
    rfl
  refine ⟨hkeep.trans (hek.trans ((Keeps.setThr (Keeps.refl e) _ _).trans
    ((tmove_frame _).1.mono (by simp only [haltPages, List.mem_cons]; tauto)))), ?_, tmove_state, ?_, ?_⟩
  · rw [tmove_thr, thr_setThr_self, ← hthr]
    exact sameThr.trans ⟨rfl, rfl, rfl⟩ het
  · rw [hmove _ (by decide) (by decide), hec, hcause]
  · rw [hmove _ (by decide) (by decide), hea, haddr]

end

end Body

/-- A bit after one bit is set to a value. -/
theorem bitOn_setBitField (v n m x : Nat) : bitOn (setBitField v n n x) m = if m = n then x % 2 == 1 else bitOn v m := by
  have hpos := Nat.two_pow_pos n
  have hset : setBitField v n n x = v % 2 ^ n + 2 ^ n * (v / 2 ^ n / 2 * 2 + x % 2) := by
    have hv := Nat.div_add_mod v (2 ^ n)
    have hq := Nat.div_add_mod (v / 2 ^ n) 2
    rw [setBitField, bitField, Nat.add_sub_cancel_left, Nat.pow_one]
    generalize v / 2 ^ n = q at *
    generalize v % 2 ^ n = r at *
    generalize q / 2 = h at *
    generalize hqr : q % 2 = z at *
    subst hq hv
    rw [Nat.mul_comm z, Nat.mul_comm (x % 2), Nat.mul_add, Nat.mul_add, Nat.mul_comm h 2]
    omega
  have hr : v % 2 ^ n < 2 ^ n := Nat.mod_lt _ hpos
  rw [hset, bitOn, bitOn]
  split_ifs with h
  · rw [h, Nat.add_mul_div_left _ _ hpos, Nat.div_eq_of_lt hr, Nat.zero_add, show ∀ a, (a * 2 + x % 2) % 2 = x % 2 from fun a => by omega]
  · rcases Nat.lt_or_gt_of_ne h with h | h
    · obtain ⟨k, rfl⟩ := Nat.exists_eq_add_of_lt h
      have hp : 2 ^ (m + k + 1) = 2 ^ m * (2 * 2 ^ k) := by rw [Nat.pow_succ, Nat.pow_add]; ac_rfl
      conv_rhs => rw [← Nat.mod_add_div v (2 ^ (m + k + 1))]
      rw [hp, Nat.mul_assoc, Nat.mul_assoc, Nat.mul_assoc, Nat.mul_assoc, Nat.add_mul_div_left _ _ (Nat.two_pow_pos m),
        Nat.add_mul_div_left _ _ (Nat.two_pow_pos m), Nat.add_mul_mod_self_left, Nat.add_mul_mod_self_left]
    · obtain ⟨k, rfl⟩ := Nat.exists_eq_add_of_lt h
      have hp : ∀ z, z / 2 ^ (n + k + 1) = z / 2 ^ n / 2 / 2 ^ k := fun z => by
        rw [Nat.div_div_eq_div_mul, Nat.div_div_eq_div_mul, Nat.pow_succ, Nat.pow_add]; ac_rfl
      rw [hp, hp, Nat.add_mul_div_left _ _ hpos, Nat.div_eq_of_lt hr, Nat.zero_add,
        show (v / 2 ^ n / 2 * 2 + x % 2) / 2 = v / 2 ^ n / 2 by omega]


theorem Body.setBit_bitOn (b : Body) (t n j m : Nat) :
    bitOn ((b.setBit t n).thr j).pend m = if j = t ∧ m = n then true else bitOn (b.thr j).pend m := by
  rw [Body.setBit, Body.thr_setThr]
  by_cases h : j = t
  · simp only [h, if_true, bitOn_setBitField, true_and]
    rfl
  · simp only [h, if_false, false_and]

/-- What follows an effect latches event 25 alone (R367). -/
theorem Body.note_bitOn (was b : Body) (j : Nat) {m : Nat} (hm : m ≠ 25) :
    bitOn ((Body.note was b).thr j).pend m = bitOn (b.thr j).pend m := by
  have h : (Body.note was b).thr j = (Body.poolNote was b).thr j := by simp [Body.note, Body.thr, Body.svyNote_grt]
  rw [h]
  exact b.poolNote_same (fun x => bitOn (x.thr j).pend m) (fun c n => by rw [c.setBit_bitOn, if_neg fun h => hm h.2]) was

theorem State.withBody_bitOn {s : State} {c : Body} (j : Nat) {m : Nat} (hm : m ≠ 25) :
    bitOn ((s.withBody c).dev.body.thr j).pend m = bitOn (c.thr j).pend m := Body.note_bitOn _ _ _ hm

/-! A fault in a state. -/

section
variable {s : State} {th w cause addr : Nat} {b : Body} {at_ : FltInfo}

/-- A body at which the instruction of a thread has had no effect yet. -/
structure Body.Before (th : Nat) (b c : Body) : Prop where
  count : c.ctr (Pg.core (th / 8) 3) (4 * (th % 8) + 2) = b.ctr (Pg.core (th / 8) 3) (4 * (th % 8) + 2)
  regs : (c.thr th).regs = (b.thr th).regs
  pc : (c.thr th).pc = (b.thr th).pc
  mem : c.mem = b.mem
  tbls : c.tbls = b.tbls

theorem Body.Before.refl : Body.Before th b b := ⟨rfl, rfl, rfl, rfl, rfl⟩

/-- The body that a fault leaves, by the fault bit that tells it. -/
theorem Body.tfault_cases (b : Body) (th cause addr : Nat) (at_ : FltInfo) : ∃ (c : Body) (n : Nat) (x : FltInfo),
    b.tfault th cause addr at_ = c.fault (Pg.core (th / 8) 0) n x ∧ n < 32 ∧ c.regs = (b.halting th cause addr).regs ∧
    c.ctrs = (b.halting th cause addr).ctrs ∧ c.mem = (b.halting th cause addr).mem ∧ c.tbls = (b.halting th cause addr).tbls ∧
    (∀ j, Body.sameThr (c.thr j) ((b.halting th cause addr).thr j)) ∧
    (isCust th = true → n = R.GRT_FLT_THREAD ∧ bitOn (c.thr (8 * (th / 8))).pend 27 = true) ∧ (isCust th = false → n = R.GRT_FLT_SUPV) := by
  rw [Body.tfault_eq]
  split_ifs with h
  · exact ⟨_, _, _, rfl, by decide, rfl, rfl, rfl, rfl, fun j => Body.setBit_sameThr .., fun _ => ⟨rfl, by
      rw [Body.haltNote, Body.setBit_bitOn, if_pos ⟨Nat.mul_comm .., rfl⟩]⟩, fun h' => absurd h (by simp [h'])⟩
  · exact ⟨_, _, _, rfl, by decide, rfl, rfl, rfl, rfl, fun j => ⟨rfl, rfl, rfl⟩, fun h' => absurd h' h, fun _ => rfl⟩

theorem Body.fault_grt (b : Body) (p n : Nat) (x : FltInfo) (j : Nat) : (b.fault p n x).thr j = b.thr j := by
  simp [Body.thr]

/-- A thread's fault, from a body at which its instruction has had no effect (R377). -/
theorem State.withBody_tfault (h : Body.Before th s.dev.body b) (hc : cause < 16) :
    s.faults (s.withBody (b.tfault th cause addr at_)) th cause addr ∧
    ((s.withBody (b.tfault th cause addr at_)).dev.body.thr th).rfArm = (b.thr th).rfArm ∧
    ∀ m < 32, b.rd (Pg.core (th / 8) 0) (fltStat m) = 1 → (s.withBody (b.tfault th cause addr at_)).flt (Pg.core (th / 8) 0) m := by
  obtain ⟨c, n, x, heq, hn, hregs, hctrs, hmem, htbls, hthr, hcust, hvend⟩ := b.tfault_cases th cause addr at_
  obtain ⟨hk, hsame, hst, hcs, had⟩ := b.halting_spec th cause addr
  have hrd : ∀ (f : Fld), f.off < 0x100 ∧ f.stride = 0x20 → f.lo < 32 →
      (s.withBody (b.tfault th cause addr at_)).reg (Pg.core (th / 8) 1) f (th % 8) =
      (b.halting th cause addr).rd (Pg.core (th / 8) 1) f (th % 8) := fun f h hf => by
    have hp := Body.thrPage h th
    rw [State.withBody_reg hf (core_notNoted _ _ hp), heq, Body.rd_fault _ _ hn hf (.inl fun e => ?_)]
    · simp only [Body.rd, hregs]
    · rw [e] at hp
      unfold pageOf Pg.core at hp
      omega
  have hflt : ∀ m < 32, (s.withBody (b.tfault th cause addr at_)).flt (Pg.core (th / 8) 0) m ↔
      (c.fault (Pg.core (th / 8) 0) n x).rd (Pg.core (th / 8) 0) (fltStat m) = 1 := fun m hm => by
    rw [State.withBody_flt (core_aligned _ _) hm, heq]
  have ht := hthr th
  refine ⟨⟨?_, ?_, ?_, ?_, ?_, ?_, ?_, ?_, fun hv => ?_, fun hv => ?_⟩, ?_, fun m hm h1 => ?_⟩
  · rw [hrd _ (by decide) (by decide), hst]
  · rw [hrd _ (by decide) (by decide), hcs, Nat.mod_eq_of_lt hc]
  · rw [hrd _ (by decide) (by decide), had]
  · simp only [State.ctr, State.withBody, Dev.after_body, Body.note_ctr, heq, Body.fault_ctr]
    rw [Body.ctr, hctrs, hk.ctrs, ← Body.ctr, Body.tcount, Body.ctr_count _ _ _ _ _ _ (by omega) (by omega), if_pos ⟨rfl, rfl⟩, h.count]
  · rw [State.withBody_thr_regs, heq, Body.fault_grt, ht.1, hsame.1, h.regs]
  · rw [(State.withBody_thr th).1, heq, Body.fault_grt, ht.2.1, hsame.2.1, h.pc]
  · simp only [State.withBody, Dev.after_body, Body.note_rest, heq, Body.fault_rest]
    rw [hmem, hk.mem, ← h.mem]
    rfl
  · simp only [State.withBody_rest, heq, Body.fault_rest]
    rw [htbls, hk.tbls, ← h.tbls]
    rfl
  · obtain ⟨hn', hb⟩ := hcust hv
    refine ⟨?_, ?_⟩
    · rw [State.withBody_bitOn _ (by decide), heq, Body.fault_grt, hb]
    · rw [hflt _ (by decide), hn', Body.fault_stat]
  · rw [hflt _ (by decide), hvend hv, Body.fault_stat]
  · rw [(State.withBody_thr th).2.2.2.2.2.2.2.2.2.1, heq, Body.fault_grt, ht.2.2, hsame.2.2]
  · rw [hflt m hm]
    by_cases hnm : m = n
    · rw [hnm, Body.fault_stat]
    · rw [Body.rd_fault _ _ hn hm (.inr hnm)]
      have hp : pageOf ((fltStat m).addr (Pg.core (th / 8) 0) 0 0) = Pg.core (th / 8) 0 :=
        pageOf_addr (core_aligned _ _) (show 0x40 + 4096 * 0 + 4 * 0 < 0x1000 by decide)
      have hkeep := hk.rd (g := fltStat m) (p := Pg.core (th / 8) 0) (i := 0) (j := 0) hm
        (by rw [hp]; simp only [Body.haltPages, Pg.core, Pg.icu, List.mem_cons, List.not_mem_nil, or_false]; omega) (core_notNoted _ _ hp)
      simp only [Body.rd, hregs] at hkeep ⊢
      rw [hkeep]
      exact h1

/-- A word with an uncorrectable error is reported, and the instruction has had no effect. -/
theorem Body.memUe_before (b : Body) (th gl a : Nat) : Body.Before th b (b.memUe th gl a) ∧
    (b.memUe th gl a).rd (Pg.core (gl / 0x400000) 0) (fltStat R.GRT_FLT_MEM_UE) = 1 := by
  unfold Body.memUe
  refine ⟨⟨?_, ?_, ?_, by simp, by simp⟩, Body.fault_stat ..⟩
  · rw [Body.fault_ctr, Body.ctr_count _ _ _ _ _ _ (by decide) (by omega), if_neg (by omega)]
  · rw [Body.fault_grt]; rfl
  · rw [Body.fault_grt]; rfl

/-! The faults of an instruction before it has its effect. -/

/-- A command that is the issue of an instruction. -/
def Instr.IsIssue (c : Instr) (th : Nat) : Prop :=
  ∀ s : State, ∃ (row : Dev → Nat → Bool) (f : Dev → Nat → Dev), exec c s = s.live (decide (th < 256)) [14] fun d => d.issue th (row d) f

theorem isIssue_of_mem {c : Instr} (h : c ∈ [Instr.add th, .lw th, .sd th, .beq th, .fence th, .tcbPoll th]) : Instr.IsIssue c th := by
  intro s
  simp only [List.mem_cons, List.not_mem_nil, or_false] at h
  rcases h with rfl | rfl | rfl | rfl | rfl | rfl
  · exact ⟨fun _ => _, _, show _ = s.live _ _ fun d => d.opReg2 th _ _ from rfl⟩
  · exact ⟨fun _ => _, _, show _ = s.live _ _ fun d => d.opLoad th _ _ _ from rfl⟩
  · exact ⟨fun _ => _, _, show _ = s.live _ _ fun d => d.opStore th _ _ from rfl⟩
  · exact ⟨fun _ => _, _, show _ = s.live _ _ fun d => d.opBranch th _ _ from rfl⟩
  · exact ⟨fun _ => _, _, show _ = s.live _ _ fun d => d.opFence th from rfl⟩
  · exact ⟨_, _, show _ = s.live _ _ fun d => d.opTcbLoad th _ _ from rfl⟩

theorem issues_lt (h : s.dev.body.issues th = true) : th < 256 := by
  simp only [Body.issues, Bool.and_eq_true, decide_eq_true_eq] at h
  exact h.1.1.1

/-- An issue whose effect leaves the engine with a body. -/
theorem Instr.IsIssue.next {c : Instr} (hc : Instr.IsIssue c th) (hr : s.runs [14]) (hi : s.dev.body.issues th = true)
    (hf : ∀ row f, s.dev.issue th row f = { s.dev with body := b }) : exec c s = .next (s.withBody b) := by
  obtain ⟨row, f, he⟩ := hc s
  rw [he]
  exact State.live_withBody (decide_eq_true (issues_lt hi)) hr (hf _ _)

/-- A fetch that fails faults the thread (R359, R363). -/
theorem Instr.IsIssue.fetchFault {c : Instr} {e : Nat} (hc : Instr.IsIssue c th) (hr : s.runs [14]) (hi : s.dev.body.issues th = true)
    (he : s.dev.body.fetch th = .error e) (hlt : e < 16) : ∃ t, exec c s = .next t ∧ s.faults t th e (s.dev.body.thr th).pc ∧
      (e = CS_MEM_UE → (sliceBase th + (s.dev.body.thr th).pc) / 0x400000 = th / 8 → t.flt (Pg.core (th / 8) 0) R.GRT_FLT_MEM_UE) := by
  have hn := hc.next (b := (if e = CS_MEM_UE then s.dev.body.memUe th (sliceBase th + (s.dev.body.thr th).pc) 5 else s.dev.body).tfault th e
    (s.dev.body.thr th).pc (fetchAt th (s.dev.body.thr th).pc)) hr hi fun row f => by simp [Dev.issue, hi, he, Dev.on]
  obtain ⟨hbef, hue⟩ := s.dev.body.memUe_before th (sliceBase th + (s.dev.body.thr th).pc) 5
  by_cases h : e = CS_MEM_UE
  · rw [if_pos h] at hn
    obtain ⟨hf, -, hb⟩ := State.withBody_tfault (addr := (s.dev.body.thr th).pc) (at_ := fetchAt th (s.dev.body.thr th).pc) hbef hlt
    exact ⟨_, hn, hf, fun _ hcore => hb _ (by decide) (hcore ▸ hue)⟩
  · rw [if_neg h] at hn
    exact ⟨_, hn, (State.withBody_tfault Body.Before.refl hlt).1, fun h' => absurd h' h⟩

/-- An undefined word faults the thread (R377, R410). -/
theorem Instr.IsIssue.illegal {c : Instr} (hc : Instr.IsIssue c th) (hr : s.runs [14]) (hi : s.dev.body.issues th = true)
    (hw : s.dev.body.fetch th = .ok w) (hu : undefinedWord w = true) :
    ∃ t, exec c s = .next t ∧ s.faults t th CS_ILLEGAL (s.dev.body.thr th).pc :=
  ⟨_, hc.next hr hi fun row f => by simp only [Dev.issue, hi, hw, hu, not_true, if_false, if_true]; rfl,
    (State.withBody_tfault Body.Before.refl (by decide)).1⟩

end

/-- The faults of a fetch, by the program counter. -/
theorem Body.fetch_faults (b : Body) (th : Nat) :
    ((b.thr th).pc % 4 ≠ 0 → b.fetch th = .error CS_MEM_ALIGN) ∧
    ((b.thr th).pc % 4 = 0 → 0x80000 ≤ (b.thr th).pc → b.fetch th = .error CS_MEM_ACCESS) ∧
    ((b.thr th).pc % 4 = 0 → (b.thr th).pc < 0x80000 → b.grtBad (sliceBase th + (b.thr th).pc) 4 = true → b.fetch th = .error CS_MEM_UE) := by
  unfold Body.fetch
  dsimp only
  refine ⟨fun h => if_pos h, fun h h' => ?_, fun h h' h'' => ?_⟩
  · rw [if_neg (by omega), if_pos h']
  · rw [if_neg (by omega), if_neg (by omega), if_pos h'']

end Sys2Proof.Machine

namespace Sys2Proof
open Machine

/-- Settles O46. -/
theorem branchesAndBitInstructions : Obligations.BranchesAndBitInstructions := by
  refine ⟨fun th w s h hg => branches_and_bits h hg, fun th c s hm hr hi => ?_, fun th w s hr hi hw hd harm => ?_⟩
  · intro b p
    have hc := isIssue_of_mem hm
    obtain ⟨halign, haccess, hue⟩ := b.fetch_faults th
    refine ⟨fun h => ?_, fun h h' => ?_, fun h h' hb => ?_, fun w hw hu => hc.illegal hr hi hw hu⟩
    · obtain ⟨t, ht, hf, -⟩ := hc.fetchFault hr hi (halign h) (by decide)
      exact ⟨t, ht, hf⟩
    · obtain ⟨t, ht, hf, -⟩ := hc.fetchFault hr hi (haccess h h') (by decide)
      exact ⟨t, ht, hf⟩
    · obtain ⟨t, ht, hf, hflt⟩ := hc.fetchFault hr hi (hue h h' hb) (by decide)
      have hcore : (sliceBase th + p) / 0x400000 = th / 8 := by unfold sliceBase; omega
      exact ⟨t, ht, hf, hflt rfl hcore⟩
  · have hnext : ∀ {op : Nat} {f : Dev → Nat → Dev}, uOp w = op → readsReg w = true → s.dev.issueOp th op f =
        (s.dev.on fun b => b.setThr th { (b.thr th) with rfArm := false }).tfault th CS_REGFILE (s.dev.body.thr th).pc {} := by
      intro op f hop hreads
      simp [Dev.issueOp, Dev.issue, hi, hw, hd, hop, harm, hreads]
    refine ⟨fun hop => ?_, fun hop => ?_⟩
    · have hn : exec (.add th) s = .next (s.withBody ((s.dev.body.setThr th { (s.dev.body.thr th) with rfArm := false }).tfault th
          CS_REGFILE (s.dev.body.thr th).pc {})) :=
        (show exec (.add th) s = s.live (decide (th < 256)) [14] fun d => d.opReg2 th 0x00 fun x y => u64 (x + y) from rfl).trans
          (State.live_withBody (decide_eq_true (issues_lt hi)) hr (hnext hop (by simp [readsReg, hop])))
      obtain ⟨hf, hrf, -⟩ := State.withBody_tfault (s := s) (th := th) (addr := (s.dev.body.thr th).pc) (at_ := {}) (cause := CS_REGFILE)
        (b := s.dev.body.setThr th { (s.dev.body.thr th) with rfArm := false })
        ⟨rfl, by rw [Body.thr_setThr_self], by rw [Body.thr_setThr_self], rfl, rfl⟩ (by decide)
      exact ⟨_, hn, hf, by rw [hrf, Body.thr_setThr_self]⟩
    · have hn : exec (.lih th) s = .next (s.withBody (s.dev.body.result th (uD w) (u64 (uSx w * 2 ^ 16)))) :=
        (show exec (.lih th) s = s.live (decide (th < 256)) [14] fun d => d.opRegW th 0x0F fun _ w => u64 (uSx w * 2 ^ 16) from rfl).trans
          (State.live_withBody (decide_eq_true (issues_lt hi)) hr (by
            simp [Dev.opRegW, Dev.issueOp, Dev.issue, hi, hw, hd, hop, readsReg, Dev.on]))
      refine ⟨_, hn, ?_, (State.withBody_result (u64_lt _)).1⟩
      rw [(State.withBody_thr th).2.2.2.2.2.2.2.2.2.1, Body.result, Body.setG]
      split_ifs
      · rw [Body.retire_thr, if_pos rfl]; exact harm
      · rw [Body.thr_setThr_self, Body.retire_thr, if_pos rfl]; exact harm

end Sys2Proof
end

section
/-! O47: an uncorrectable error that a load meets is reported by the core whose memory holds the word (R363). -/

namespace Sys2Proof
open Machine Tests

/-- Thread 255, of core 31, loads the first byte of core 0's memory, which a grant opens to every thread and whose word is bad. -/
def crossCoreLoad : State :=
  chg (lsAt 0x18 0x2000000 (ents ready [(Tbl.grant 0, 0, 2 ^ 31 + 2 ^ 63)])) fun b => { b with grt := { b.grt with bad := [0] } }

/-- Whether an outcome is a state in which a fault bit of a page is set. -/
def nextFlt (o : Host.Outcome State Fault Refusal) (page n : Nat) : Bool :=
  match o with
  | .next t => t.reg page (fltStat n) == 1
  | _ => false

theorem crossCoreLoad_told : nextFlt (exec (.lb 255) crossCoreLoad) (Pg.core 31 0) R.GRT_FLT_MEM_UE = false := by decide +kernel

/-- Refutes O47: the load of a word of another core's memory that has an uncorrectable error sets GRT_FLT_MEM_UE of that core, not of
the thread's. -/
theorem not_loadsAndStores : ¬ Obligations.LoadsAndStores := by
  intro h
  have hi : crossCoreLoad.issues 255 (lsWord 0x18 30 1 0) := issues_of (by decide +kernel)
  obtain ⟨hload, -⟩ := h 255 _ _ hi
  obtain ⟨-, hok⟩ := hload (.lb 255) 0x18 1 true (by simp) (by decide)
  obtain ⟨hmem, -⟩ := hok (Nat.mod_one _)
  have hplace : memAt 255 (Dev.effAddr crossCoreLoad.dev.body 255 (lsWord 0x18 30 1 0)) = .mem 0 := by decide +kernel
  have hreach : crossCoreLoad.dev.body.glReach 255 0 false = true := by decide +kernel
  obtain ⟨-, hbad⟩ := hmem 0 (.inl ⟨hplace, hreach⟩) (by decide +kernel)
  obtain ⟨t, ht, -, hflt⟩ := hbad (by decide +kernel)
  have htold := crossCoreLoad_told
  rw [ht, nextFlt] at htold
  exact absurd (beq_iff_eq.mpr hflt) (by rw [htold]; decide)

end Sys2Proof
end

section
/-! O43: the loads and stores of a thread's control block, its events, masks, timer and binds (R367 to R369, R376). -/

namespace Sys2Proof.Machine

/-! An effect inside the Grotto that comes before an instruction retires. -/

/-- Every thread's registers and program counter, every register of the engine, entry and byte of memory are the same. -/
structure Body.Like (b c : Body) : Prop extends Body.Inner b c where
  threads : ∀ j, (c.thr j).regs = (b.thr j).regs ∧ (c.thr j).pc = (b.thr j).pc

section
variable {b c : Body} {th : Nat}

theorem Body.Like.refl : Body.Like b b := ⟨Body.Inner.refl, fun _ => ⟨rfl, rfl⟩⟩

theorem Body.Like.setThr (h : Body.Like b c) {x : Thread} (hr : x.regs = (c.thr th).regs) (hp : x.pc = (c.thr th).pc) :
    Body.Like b (c.setThr th x) :=
  ⟨h.toInner.setThr _ _, fun j => by
    rw [Body.thr_setThr]
    split_ifs with hj
    · rw [hj, hr, hp]; exact h.threads th
    · exact h.threads j⟩

theorem Body.Like.setBit (h : Body.Like b c) (t n : Nat) : Body.Like b (c.setBit t n) := h.setThr rfl rfl

theorem Body.Like.setChan (h : Body.Like b c) (ch : Nat) (x : Chan) : Body.Like b (c.setChan ch x) :=
  ⟨⟨h.regs, h.tbls, h.mem⟩, h.threads⟩

theorem Body.Like.setWin (h : Body.Like b c) (t w : Nat) (x : Win) : Body.Like b (c.setWin t w x) := h.setThr rfl rfl

theorem Body.Like.count (h : Body.Like b c) (p i n : Nat) : Body.Like b (c.count p i n) :=
  ⟨h.toInner.count _ _ _, h.threads⟩

end

section
variable {s : State} {c : Body} {th d v : Nat}

/-- An instruction that leaves its result in a register, after an effect that keeps every thread's registers and program counter. -/
theorem State.withBody_result_retires (h : ∀ j, (c.thr j).regs = (s.dev.body.thr j).regs ∧ (c.thr j).pc = (s.dev.body.thr j).pc)
    (hv : v < 2 ^ 64) : s.retires (s.withBody (c.result th d v)) th d v (((s.dev.body.thr th).pc + 4) % 2 ^ 64) := by
  obtain ⟨hr, hp⟩ := h th
  have hothers : ∀ j, j ≠ th → ((c.retire th).thr j).regs = (s.dev.body.thr j).regs ∧ ((c.retire th).thr j).pc = (s.dev.body.thr j).pc :=
    fun j hj => by rw [Body.retire_thr, if_neg hj]; exact h j
  unfold Body.result Body.setG
  split_ifs with hd
  · exact State.withBody_retires (by rw [Body.retire_thr, if_pos rfl]) hv (by rw [hp]) (by rw [if_pos hd, hr]) hothers
  · exact State.withBody_retires (by rw [Body.thr_setThr_self]) hv (by rw [Body.retire_thr, if_pos rfl, hp])
      (by rw [Body.retire_thr, if_pos rfl, if_neg hd, hr]) fun j hj => by
      rw [Body.thr_setThr, if_neg hj]; exact hothers j hj

/-- The same after an effect inside the Grotto. -/
theorem State.withBody_result_of (h : Body.Like s.dev.body c) (hv : v < 2 ^ 64) :
    s.retires (s.withBody (c.result th d v)) th d v (((s.dev.body.thr th).pc + 4) % 2 ^ 64) ∧ s.within (s.withBody (c.result th d v)) :=
  ⟨State.withBody_result_retires h.threads hv, State.withBody_within ((h.toInner.retire th).setG ..)⟩

/-- The same of an instruction without a result. -/
theorem State.withBody_retire_of (h : Body.Like s.dev.body c) :
    s.retires (s.withBody (c.retire th)) th 0 0 (((s.dev.body.thr th).pc + 4) % 2 ^ 64) ∧ s.within (s.withBody (c.retire th)) :=
  State.withBody_result_of (d := 0) (v := 0) h (by decide)

end

/-! An access of the control block. -/

theorem extLoad_lt (sx : Bool) {n : Nat} (v : Nat) (hn : n ≤ 8) : extLoad sx n v < 2 ^ 64 := by
  unfold extLoad
  split_ifs
  · exact encSigned_lt _
  · exact (Nat.mod_lt _ (Nat.two_pow_pos _)).trans_le (Nat.pow_le_pow_right (by decide) (by omega))

/-- A doubleword is loaded as it is. -/
theorem extLoad_dword (v : Nat) : extLoad (0x1B == 0x1A) 8 v = v % 2 ^ 64 := rfl

/-- The address of an access of the control block. -/
theorem memAt_tcb {th a off : Nat} (h : memAt th a = .tcb off) : a = 0x20000000 + off := by
  unfold memAt at h
  split_ifs at h
  rw [MemAt.tcb.injEq] at h
  omega

/-- The opcodes of a load and of a store of `n` bytes of the control block (R368). -/
def tcbLd (n op : Nat) : Bool := if n = 8 then op == 0x1B else op == 0x1A || op == 0x1E
def tcbSt (n op : Nat) : Bool := if n = 8 then op == 0x23 else op == 0x22

theorem tcbLd_tcbSt {n op : Nat} (h : tcbSt n op = true) : tcbLd n op = false := by
  unfold tcbSt tcbLd at *
  split_ifs at * <;> rw [beq_iff_eq] at h <;> subst h <;> decide

/-- A command that loads from, or stores to, the control block at the offsets of a row. -/
def Instr.Loads (c : Instr) (th n : Nat) (row : Nat → Bool) : Prop :=
  ∀ s : State, exec c s = s.live (decide (th < 256)) [14] (fun d => d.opTcbLoad th n row) ∨
    exec c s = s.live (decide (th < 256)) [14] (fun d => d.opTcbBoth th n row)

def Instr.Stores (c : Instr) (th n : Nat) (row : Nat → Bool) : Prop :=
  ∀ s : State, exec c s = s.live (decide (th < 256)) [14] (fun d => d.opTcbStore th n row) ∨
    exec c s = s.live (decide (th < 256)) [14] (fun d => d.opTcbBoth th n row)

section
variable {s : State} {th w n off : Nat} {row : Nat → Bool} {c : Instr} {b : Body}

/-- A load of the control block, as far as its address. -/
theorem Instr.Loads.runs (hc : Instr.Loads c th n row) (h : s.issues th w) (hop : tcbLd n (uOp w) = true)
    (ha : memAt th (Dev.effAddr s.dev.body th w) = .tcb off) (hrow : row off = true)
    (hb : s.dev.load th (Dev.effAddr s.dev.body th w) n (uD w) (uOp w == 0x1A) = { s.dev with body := b }) :
    exec c s = .next (s.withBody b) := by
  have hop' := hop
  unfold tcbLd at hop'
  rcases hc s with he | he <;> rw [he] <;> refine State.live_withBody (decide_eq_true h.lt) h.runs (Eq.trans ?_ hb)
  · simp only [Dev.opTcbLoad]
    exact Dev.issue_runs _ h (by simp only [ha, hrow, hop', Bool.and_true])
  · simp only [Dev.opTcbBoth]
    rw [Dev.issue_runs _ h (by simp only [ha, hrow, hop', Bool.true_or, Bool.and_true]), if_pos hop']

/-- A store to the control block, as far as its address. -/
theorem Instr.Stores.runs (hc : Instr.Stores c th n row) (h : s.issues th w) (hop : tcbSt n (uOp w) = true)
    (ha : memAt th (Dev.effAddr s.dev.body th w) = .tcb off) (hrow : row off = true)
    (hb : s.dev.store th (Dev.effAddr s.dev.body th w) n (s.dev.body.greg th (uD w)) = { s.dev with body := b }) :
    exec c s = .next (s.withBody b) := by
  have hop' := hop
  have hld := tcbLd_tcbSt hop
  unfold tcbSt at hop'
  unfold tcbLd at hld
  rcases hc s with he | he <;> rw [he] <;> refine State.live_withBody (decide_eq_true h.lt) h.runs (Eq.trans ?_ hb)
  · simp only [Dev.opTcbStore]
    exact Dev.issue_runs _ h (by simp only [ha, hrow, hop', Bool.and_true])
  · simp only [Dev.opTcbBoth]
    rw [Dev.issue_runs _ h (by simp only [ha, hrow, hop', Bool.or_true, Bool.and_true]), if_neg (by simp [hld])]

/-- An aligned load of the control block. -/
theorem Dev.load_tcb {d : Dev} {a r : Nat} {sx : Bool} (ha : memAt th a = .tcb off) (h : off % n = 0) (h8 : 0x20000000 % n = 0) :
    d.load th a n r sx = match d.body.tcbLoad th off n with
      | .val b v => { d with body := b.result th r (extLoad sx n v) }
      | .blocks on => d.on fun b => b.blockOn th { on := on, d := r, sx := sx }
      | .fault c => d.tfault th c a (accessAt th a false) := by
  have hm : a % n = 0 := by rw [memAt_tcb ha, Nat.add_mod, h, h8, Nat.zero_mod]
  simp only [Dev.load, hm, ne_eq, not_true, if_false, ha] <;> rfl

theorem Dev.store_tcb {d : Dev} {a v : Nat} (ha : memAt th a = .tcb off) (h : off % n = 0) (h8 : 0x20000000 % n = 0) :
    d.store th a n v = match d.body.tcbStore th off n v with
      | .ok b => { d with body := b.retire th }
      | .error c => d.tfault th c a (accessAt th a true) := by
  have hm : a % n = 0 := by rw [memAt_tcb ha, Nat.add_mod, h, h8, Nat.zero_mod]
  simp only [Dev.store, hm, ne_eq, not_true, if_false, ha] <;> rfl

/-- A load of the control block that has a value. -/
theorem Instr.Loads.val {v : Nat} (hc : Instr.Loads c th n row) (h : s.issues th w) (hop : tcbLd n (uOp w) = true)
    (ha : memAt th (Dev.effAddr s.dev.body th w) = .tcb off) (hrow : row off = true) (hn : off % n = 0) (hn8 : n = 4 ∨ n = 8)
    (hv : s.dev.body.tcbLoad th off n = .val b v) :
    exec c s = .next (s.withBody (b.result th (uD w) (extLoad (uOp w == 0x1A) n v))) :=
  hc.runs h hop ha hrow (by rw [Dev.load_tcb ha hn (by rcases hn8 with rfl | rfl <;> decide), hv])

/-- A load of the control block that waits where it must. -/
theorem Instr.Loads.blocks {on : WaitOn} (hc : Instr.Loads c th n row) (h : s.issues th w) (hop : tcbLd n (uOp w) = true)
    (ha : memAt th (Dev.effAddr s.dev.body th w) = .tcb off) (hrow : row off = true) (hn : off % n = 0) (hn8 : n = 4 ∨ n = 8)
    (hv : s.dev.body.tcbLoad th off n = .blocks on) :
    exec c s = .next (s.withBody (s.dev.body.blockOn th { on := on, d := uD w, sx := uOp w == 0x1A })) :=
  hc.runs h hop ha hrow (by rw [Dev.load_tcb ha hn (by rcases hn8 with rfl | rfl <;> decide), hv]; rfl)

/-- A store to the control block that is taken. -/
theorem Instr.Stores.ok (hc : Instr.Stores c th n row) (h : s.issues th w) (hop : tcbSt n (uOp w) = true)
    (ha : memAt th (Dev.effAddr s.dev.body th w) = .tcb off) (hrow : row off = true) (hn : off % n = 0) (hn8 : n = 4 ∨ n = 8)
    (hv : s.dev.body.tcbStore th off n (s.dev.body.greg th (uD w)) = .ok b) : exec c s = .next (s.withBody (b.retire th)) :=
  hc.runs h hop ha hrow (by rw [Dev.store_tcb ha hn (by rcases hn8 with rfl | rfl <;> decide), hv])

/-- A load of the control block that changes nothing. -/
theorem Instr.Loads.gives {v : Nat} (hc : Instr.Loads c th n row) (h : s.issues th w) (hop : tcbLd n (uOp w) = true)
    (ha : memAt th (Dev.effAddr s.dev.body th w) = .tcb off) (hrow : row off = true) (hn : off % n = 0) (hn8 : n = 4 ∨ n = 8)
    (hv : s.dev.body.tcbLoad th off n = .val s.dev.body v) : s.gives th w c (extLoad (uOp w == 0x1A) n v) :=
  ⟨_, hc.val h hop ha hrow hn hn8 hv, State.withBody_result (extLoad_lt _ _ (by omega))⟩

/-- A store to the control block that changes a thread inside. -/
theorem Instr.Stores.stores (hc : Instr.Stores c th n row) (h : s.issues th w) (hop : tcbSt n (uOp w) = true)
    (ha : memAt th (Dev.effAddr s.dev.body th w) = .tcb off) (hrow : row off = true) (hn : off % n = 0) (hn8 : n = 4 ∨ n = 8)
    (hv : s.dev.body.tcbStore th off n (s.dev.body.greg th (uD w)) = .ok b) (hl : Body.Like s.dev.body b) {p : State → Prop}
    (hp : p (s.withBody (b.retire th))) :
    ∃ t, exec c s = .next t ∧ s.retires t th 0 0 (((s.dev.body.thr th).pc + 4) % 2 ^ 64) ∧ s.within t ∧ p t :=
  ⟨_, hc.ok h hop ha hrow hn hn8 hv, (State.withBody_retire_of hl).1, (State.withBody_retire_of hl).2, hp⟩

end

/-! The rows of the control block (R368). -/

theorem loads_tcbWait (th : Nat) : Instr.Loads (.tcbWait th) th 8 (· == 0x000) := fun _ => .inl rfl
theorem loads_tcbPoll (th : Nat) : Instr.Loads (.tcbPoll th) th 8 (· == 0x008) := fun _ => .inl rfl
theorem loads_tcbWaitMask (th : Nat) : Instr.Loads (.tcbWaitMask th) th 8 (· == 0x010) := fun _ => .inr rfl
theorem stores_tcbWaitMask (th : Nat) : Instr.Stores (.tcbWaitMask th) th 8 (· == 0x010) := fun _ => .inr rfl
theorem stores_tcbSend (th : Nat) : Instr.Stores (.tcbSend th) th 4 (· == 0x018) := fun _ => .inl rfl
theorem loads_tcbTimer (th : Nat) : Instr.Loads (.tcbTimer th) th 4 (· == 0x020) := fun _ => .inr rfl
theorem stores_tcbTimer (th : Nat) : Instr.Stores (.tcbTimer th) th 4 (· == 0x020) := fun _ => .inr rfl
theorem stores_tcbBind (th : Nat) : Instr.Stores (.tcbBind th) th 4 (fun off => decide (0x040 ≤ off ∧ off < 0x080)) := fun _ => .inl rfl
theorem loads_tcbWstat (th : Nat) : Instr.Loads (.tcbWstat th) th 4 (fun off => decide (0x180 ≤ off ∧ off < 0x1A0)) := fun _ => .inl rfl
theorem stores_tcbPoolSize (th : Nat) : Instr.Stores (.tcbPoolSize th) th 4 (· == 0x200) := fun _ => .inl rfl
theorem loads_tcbPoolBp (th : Nat) : Instr.Loads (.tcbPoolBp th) th 4 (· == 0x248) := fun _ => .inl rfl
theorem loads_tcbId (th : Nat) : Instr.Loads (.tcbId th) th 4 (· == 0x250) := fun _ => .inl rfl

/-! What a load and a store of an offset of the control block do. -/

section
variable (b : Body) (th : Nat)

theorem Body.tcbLoad_wait : b.tcbLoad th 0x000 8 = .blocks .events := rfl
theorem Body.tcbLoad_poll : b.tcbLoad th 0x008 8 = .val b (b.pendBits th) := rfl
theorem Body.tcbLoad_mask : b.tcbLoad th 0x010 8 = .val b (b.thr th).wmask := rfl
theorem Body.tcbLoad_timer : b.tcbLoad th 0x020 4 = .val b (match (b.thr th).timer with | some t => t - b.clk | none => 0) := rfl
theorem Body.tcbLoad_levels : b.tcbLoad th 0x248 4 = .val b b.tcbLevels := rfl
theorem Body.tcbLoad_id : b.tcbLoad th 0x250 4 = .val b (0x100 + th) := rfl

theorem Body.tcbLoad_wstat {k : Nat} (hk : k < 4) : b.tcbLoad th (0x180 + 8 * k) 4 = .val b (b.winStat th k) := by
  interval_cases k <;> rfl

theorem Body.tcbStore_mask (v : Nat) : b.tcbStore th 0x010 8 v = .ok (b.setThr th { (b.thr th) with wmask := v % 2 ^ 32 }) := rfl
theorem Body.tcbStore_send (v : Nat) : b.tcbStore th 0x018 4 v = .ok (b.setBit (th / 8 * 8 + bitField v 6 4) (v % 16)) := rfl
theorem Body.tcbStore_timer (v : Nat) : b.tcbStore th 0x020 4 v =
    .ok (b.setThr th { (b.thr th) with timer := if v % 2 ^ 32 = 0 then none else some (b.clk + v % 2 ^ 32) }) := rfl
theorem Body.tcbStore_psize (v : Nat) : b.tcbStore th 0x200 4 v = .ok (b.setThr th { (b.thr th) with psize := v % 2 ^ 32 }) := rfl

theorem Body.tcbStore_bind {k : Nat} (hk : k < 8) (v : Nat) : b.tcbStore th (0x040 + 8 * k) 4 v =
    .ok (b.setThr th { (b.thr th) with binds := Sp.set 0 (b.thr th).binds k (setBitField (v % 2 ^ 32) 29 10 0) }) := by
  interval_cases k <;> rfl

/-- Every pool's back-pressure level in its two bits. -/
theorem Body.tcbLevels_eq : b.tcbLevels = ((List.range 16).map fun n => b.poolLevel n * 4 ^ n).sum := by
  rw [Body.tcbLevels, List.sum_eq_foldl, List.foldl_map]

end

/-- The bits that a bind keeps (R368). -/
theorem bind_bits (v : Nat) : setBitField (v % 2 ^ 32) 29 10 0 = bitField v 31 30 * 2 ^ 30 + bitField v 9 0 := by
  simp only [setBitField, bitField]
  omega

theorem Body.retire_like (b : Body) (th j : Nat) : ((b.retire th).thr j).wmask = (b.thr j).wmask ∧
    ((b.retire th).thr j).timer = (b.thr j).timer ∧ ((b.retire th).thr j).binds = (b.thr j).binds ∧
    ((b.retire th).thr j).psize = (b.thr j).psize ∧ ((b.retire th).thr j).pend = (b.thr j).pend ∧
    ((b.retire th).thr j).wins = (b.thr j).wins := by
  rw [Body.retire_thr]
  split_ifs with h
  · rw [h]; exact ⟨rfl, rfl, rfl, rfl, rfl, rfl⟩
  · exact ⟨rfl, rfl, rfl, rfl, rfl, rfl⟩

/-! A wait (R368, R369). -/

/-- A wait whose condition does not hold puts the thread in WAIT, its registers as they are. -/
theorem Body.blockOn_none {b : Body} {th : Nat} {x : Waiting} (h : b.waitTry th x = none) (hs : (b.thr th).steps = none) :
    b.blockOn th x = ((b.setThr th { (b.thr th) with wait := some x }).tmove th TH_WAIT).issued th := by
  rw [Body.blockOn, h]
  simp [hs]

theorem State.withBody_waits {s : State} {th : Nat} {x : Waiting} (h : s.dev.body.waitTry th x = none) (hs : (s.dev.body.thr th).steps = none) :
    let t := s.withBody (s.dev.body.blockOn th x)
    t.reg (Pg.core (th / 8) 1) R.GRT_TH_STATE (th % 8) = TH_WAIT ∧ (t.dev.body.thr th).wait = some x ∧
      (t.dev.body.thr th).pc = (s.dev.body.thr th).pc ∧ (t.dev.body.thr th).regs = (s.dev.body.thr th).regs := by
  intro t
  have hp := Body.thrPage (f := R.GRT_TH_STATE) (by decide) th
  simp only [t, Body.blockOn_none h hs]
  rw [State.withBody_reg (by decide) (core_notNoted _ _ hp), (Body.Inner.refl.issued th).rd]
  simp only [State.withBody_thr, State.withBody_thr_regs, Body.issued_thr, Body.tmove_thr, Body.thr_setThr_self, and_self, and_true]
  exact Body.tmove_state

/-- A blocking load that is carried out: its result is in the register and the next instruction follows. -/
def Body.waited (b : Body) (th d v : Nat) : Body := (((b.setG th d v).nextPc th).issued th).stepped th

theorem Body.blockOn_some {b c : Body} {th v : Nat} {x : Waiting} (h : b.waitTry th x = some ((c.setG th x.d v).nextPc th)) :
    b.blockOn th x = c.waited th x.d v := by
  rw [Body.blockOn, h, Body.waited]

theorem Body.setG_thr (b : Body) (th d v : Nat) : (b.setG th d v).thr th =
    { b.thr th with regs := if d = 0 then (b.thr th).regs else Sp.set 0 (b.thr th).regs d (v % 2 ^ 64) } := by
  unfold Body.setG
  split_ifs
  · rfl
  · rw [Body.thr_setThr_self]

theorem Body.setG_thr_ne (b : Body) {th j : Nat} (d v : Nat) (h : j ≠ th) : (b.setG th d v).thr j = b.thr j := by
  unfold Body.setG
  split_ifs
  · rfl
  · rw [Body.thr_setThr, if_neg h]

theorem Body.waited_thr (b : Body) (th d v : Nat) : (b.waited th d v).thr th =
    { b.thr th with regs := if d = 0 then (b.thr th).regs else Sp.set 0 (b.thr th).regs d (v % 2 ^ 64),
                    pc := ((b.thr th).pc + 4) % 2 ^ 64, steps := (b.thr th).steps.map (· - 1) } := by
  rw [Body.waited, Body.stepped, Body.thr_setThr_self, Body.issued_thr, Body.nextPc, Body.thr_setThr_self, Body.setG_thr]

theorem State.withBody_waited {s : State} {c : Body} {th d v : Nat} (h : Body.Like s.dev.body c) :
    s.retires (s.withBody (c.waited th d v)) th d (v % 2 ^ 64) (((s.dev.body.thr th).pc + 4) % 2 ^ 64) ∧
    s.within (s.withBody (c.waited th d v)) := by
  obtain ⟨hr, hp⟩ := h.threads th
  refine ⟨State.withBody_retires (c.waited_thr th d v) (Nat.mod_lt _ (by decide)) (by rw [hp]) (by rw [hr, Nat.mod_mod]) fun j hj => ?_,
    State.withBody_within ((((h.toInner.setG _ _ _).setThr _ _).issued _).setThr _ _)⟩
  rw [Body.waited, Body.stepped, Body.thr_setThr, if_neg hj, Body.issued_thr, Body.nextPc, Body.thr_setThr, if_neg hj, c.setG_thr_ne _ _ hj]
  exact h.threads j

/-- A latched event after those that a wait returns are cleared. -/
theorem bitOn_sub_and (p v n : Nat) : bitOn (p - (p &&& v)) n = (bitOn p n && !bitOn v n) := by
  induction n generalizing p v with
  | zero =>
    have h := @Nat.and_mod_two_eq_one p v
    have hle := Nat.and_le_left (n := p) (m := v)
    simp only [bitOn, Nat.pow_zero, Nat.div_one]
    have hp : (p - (p &&& v)) % 2 = (p % 2 + (p &&& v) % 2) % 2 := by omega
    have hz : (p &&& v) % 2 = p % 2 * (v % 2) := by
      rcases Nat.mod_two_eq_zero_or_one p with h1 | h1 <;> rcases Nat.mod_two_eq_zero_or_one v with h2 | h2 <;> rw [h1, h2] <;> omega
    rw [hp, hz]
    rcases Nat.mod_two_eq_zero_or_one p with h1 | h1 <;> rcases Nat.mod_two_eq_zero_or_one v with h2 | h2 <;> rw [h1, h2] <;> rfl
  | succ n ih =>
    have hdiv : ∀ z, bitOn z (n + 1) = bitOn (z / 2) n := fun z => by
      rw [bitOn, bitOn, Nat.div_div_eq_div_mul, Nat.pow_succ, Nat.mul_comm]
    have h := @Nat.and_mod_two_eq_one p v
    have hle := Nat.and_le_left (n := p) (m := v)
    have hsub : (p - (p &&& v)) / 2 = p / 2 - (p / 2 &&& v / 2) := by
      rw [← Nat.and_div_two]
      rcases Nat.mod_two_eq_zero_or_one p with h1 | h1 <;> omega
    rw [hdiv, hdiv, hdiv, hsub, ih]

end Sys2Proof.Machine

namespace Sys2Proof
open Machine

/-- Settles O43. -/
theorem controlBlockEvents : Obligations.ControlBlockEvents := by
  intro th w s h b x pc at_ sx v gives stores
  refine ⟨fun hop => ⟨fun ha hne => ?_, fun ha h0 hs => ?_, fun ha => ?_, fun ha => ?_⟩,
    fun hop => ?_, fun hop ha => ?_,
    fun hop => ⟨fun ha => ?_, fun ha => ?_, fun k hk ha => ?_, fun ha => ?_⟩⟩
  · have htry : b.waitTry th { on := .events, d := uD w, sx := uOp w == 0x1A } =
        some (((b.setThr th { x with pend := x.pend - (x.pend &&& (b.pendBits th &&& b.effMask th)) }).setG th (uD w)
          (b.pendBits th &&& b.effMask th)).nextPc th) := by
      simp only [Body.waitTry]
      rw [if_neg hne]
    have hl : Body.Like b (b.setThr th { x with pend := x.pend - (x.pend &&& (b.pendBits th &&& b.effMask th)) }) :=
      Body.Like.refl.setThr rfl rfl
    have hn := (loads_tcbWait th).blocks h (by rw [hop]; rfl) ha rfl (by decide) (.inr rfl) (b.tcbLoad_wait th)
    rw [Body.blockOn_some htry] at hn
    obtain ⟨hret, hwithin⟩ := State.withBody_waited (th := th) (d := uD w) (v := b.pendBits th &&& b.effMask th) hl
    refine ⟨_, hn, hret, hwithin, fun n _ hn25 => ?_⟩
    rw [State.withBody_bitOn _ hn25, Body.waited_thr, Body.thr_setThr_self]
    exact bitOn_sub_and _ _ _
  · have hn := (loads_tcbWait th).blocks h (by rw [hop]; rfl) ha rfl (by decide) (.inr rfl) (b.tcbLoad_wait th)
    rw [hop] at hn
    exact ⟨_, hn, State.withBody_waits (by simp only [Body.waitTry]; rw [if_pos h0]) hs⟩
  · have hg := (loads_tcbPoll th).gives h (by rw [hop]; rfl) ha rfl (by decide) (.inr rfl) (b.tcbLoad_poll th)
    rwa [hop, extLoad_dword] at hg
  · have hg := (loads_tcbWaitMask th).gives h (by rw [hop]; rfl) ha rfl (by decide) (.inr rfl) (b.tcbLoad_mask th)
    rwa [hop, extLoad_dword] at hg
  · have hld : tcbLd 4 (uOp w) = true := by rcases hop with e | e <;> rw [e] <;> rfl
    refine ⟨fun ha => ?_, fun k hk ha => ?_, fun ha => ?_, fun ha => ?_⟩
    · exact (loads_tcbTimer th).gives h hld ha rfl (by decide) (.inl rfl) (b.tcbLoad_timer th)
    · exact (loads_tcbWstat th).gives h hld ha (by simp only [decide_eq_true_eq]; omega) (by omega) (.inl rfl) (b.tcbLoad_wstat th hk)
    · exact b.tcbLevels_eq ▸ (loads_tcbPoolBp th).gives h hld ha rfl (by decide) (.inl rfl) (b.tcbLoad_levels th)
    · have hid : extLoad sx 4 (0x100 + th) = 0x100 + th := by
        have := h.lt
        unfold extLoad
        split_ifs
        · rw [signed, if_pos (by omega), Nat.mod_eq_of_lt (by omega), encSigned]
          omega
        · omega
      exact hid ▸ (loads_tcbId th).gives h hld ha rfl (by decide) (.inl rfl) (b.tcbLoad_id th)
  · refine (stores_tcbWaitMask th).stores h (by rw [hop]; rfl) ha rfl (by decide) (.inr rfl) (b.tcbStore_mask th v)
      (Body.Like.refl.setThr rfl rfl) ?_
    rw [(State.withBody_thr th).2.1, (Body.retire_like ..).1, Body.thr_setThr_self]
  · refine (stores_tcbSend th).stores h (by rw [hop]; rfl) ha rfl (by decide) (.inl rfl) (b.tcbStore_send th v) (Body.Like.refl.setBit ..) ?_
    rw [State.withBody_bitOn _ (by omega), (Body.retire_like ..).2.2.2.2.1, Body.setBit_bitOn, if_pos ⟨rfl, rfl⟩]
  · refine (stores_tcbTimer th).stores h (by rw [hop]; rfl) ha rfl (by decide) (.inl rfl) (b.tcbStore_timer th v)
      (Body.Like.refl.setThr rfl rfl) ?_
    rw [(State.withBody_thr th).2.2.2.1, (Body.retire_like ..).2.1, Body.thr_setThr_self]
  · refine (stores_tcbBind th).stores h (by rw [hop]; rfl) ha (by simp only [decide_eq_true_eq]; omega) (by omega) (.inl rfl)
      (b.tcbStore_bind th hk v) (Body.Like.refl.setThr rfl rfl) ?_
    rw [(State.withBody_thr th).2.2.1, (Body.retire_like ..).2.2.1, Body.thr_setThr_self, Sp.get_set_self, bind_bits]
  · refine (stores_tcbPoolSize th).stores h (by rw [hop]; rfl) ha rfl (by decide) (.inl rfl) (b.tcbStore_psize th v)
      (Body.Like.refl.setThr rfl rfl) ?_
    rw [(State.withBody_thr th).2.2.2.2.1, (Body.retire_like ..).2.2.2.1, Body.thr_setThr_self]

end Sys2Proof
end

section
/-! O44: the channels and pools of a thread's control block (R370, R371, R376, R377). -/

namespace Sys2Proof.Machine

/-! The rows of the control block. -/

theorem loads_tcbReserve (th : Nat) : Instr.Loads (.tcbReserve th) th 4 (fun off => decide (0x1000 ≤ off ∧ off < 0x2000)) := fun _ => .inl rfl
theorem loads_tcbReserveWait (th : Nat) : Instr.Loads (.tcbReserveWait th) th 4 (fun off => decide (0x2000 ≤ off ∧ off < 0x3000)) := fun _ => .inl rfl
theorem loads_tcbAcquire (th : Nat) : Instr.Loads (.tcbAcquire th) th 4 (fun off => decide (0x3000 ≤ off ∧ off < 0x4000)) := fun _ => .inl rfl
theorem loads_tcbAcquireWait (th : Nat) : Instr.Loads (.tcbAcquireWait th) th 4 (fun off => decide (0x4000 ≤ off ∧ off < 0x5000)) := fun _ => .inl rfl
theorem stores_tcbCommit (th : Nat) : Instr.Stores (.tcbCommit th) th 4 (fun off => decide (0x100 ≤ off ∧ off < 0x120)) := fun _ => .inl rfl
theorem stores_tcbRelease (th : Nat) : Instr.Stores (.tcbRelease th) th 4 (fun off => decide (0x140 ≤ off ∧ off < 0x160)) := fun _ => .inl rfl
theorem loads_tcbPoolAlloc (th : Nat) : Instr.Loads (.tcbPoolAlloc th) th 8 (fun off => decide (0x208 ≤ off ∧ off < 0x228)) := fun _ => .inl rfl
theorem stores_tcbPoolFree (th : Nat) : Instr.Stores (.tcbPoolFree th) th 8 (· == 0x240) := fun _ => .inl rfl

section
variable {b c : Body} {th ch k : Nat}

/-! The offsets of the channels' rows. -/

/-- The row and the channel that an offset names. -/
theorem tcbRow {ch : Nat} (hch : ch < 1024) (n : Nat) : (0x1000 * n + 4 * ch) % 0x1000 / 4 = ch ∧ (0x1000 * n + 4 * ch) / 0x1000 = n := by omega

theorem Body.tcbLoad_reserve (hch : ch < 1024) : b.tcbLoad th (0x1000 + 4 * ch) 4 = .val (b.chReserve th ch).1 (b.chReserve th ch).2 := by
  obtain ⟨hoff, hrow⟩ := tcbRow hch 1
  simp only [Body.tcbLoad]
  rw [if_pos (by omega), if_neg (by decide), hoff, hrow]
  rfl

theorem Body.tcbLoad_reserveWait (hch : ch < 1024) : b.tcbLoad th (0x2000 + 4 * ch) 4 = .blocks (.reserve ch) := by
  obtain ⟨hoff, hrow⟩ := tcbRow hch 2
  simp only [Body.tcbLoad]
  rw [if_pos (by omega), if_neg (by decide), hoff, hrow]
  rfl

theorem Body.tcbLoad_acquire (hch : ch < 1024) : b.tcbLoad th (0x3000 + 4 * ch) 4 = .val (b.chAcquire th ch).1 (b.chAcquire th ch).2 := by
  obtain ⟨hoff, hrow⟩ := tcbRow hch 3
  simp only [Body.tcbLoad]
  rw [if_pos (by omega), if_neg (by decide), hoff, hrow]
  rfl

theorem Body.tcbLoad_acquireWait (hch : ch < 1024) : b.tcbLoad th (0x4000 + 4 * ch) 4 = .blocks (.acquire ch) := by
  obtain ⟨hoff, hrow⟩ := tcbRow hch 4
  simp only [Body.tcbLoad]
  rw [if_pos (by omega), if_neg (by decide), hoff, hrow]
  rfl

/-! RESERVE and ACQUIRE (R371). -/

theorem Body.chReserve_invalid (h : chValid (b.chEnt ch) = false) : b.chReserve th ch = (b, chErr 3) := if_pos (by simp [h])

theorem Body.chReserve_denied (h : chValid (b.chEnt ch) = true) (hw : epHas (chWr (b.chEnt ch)) th = false) :
    b.chReserve th ch = (b, chErr 4) := by simp [Body.chReserve, h, hw]

theorem Body.chReserve_full (h : chValid (b.chEnt ch) = true) (hw : epHas (chWr (b.chEnt ch)) th = true) (hk : b.freeWin th = none) :
    b.chReserve th ch = (b, chErr 2) := by simp [Body.chReserve, h, hw, hk]

theorem Body.chReserve_taken {sl : Nat} {rest : List Nat} (h : chValid (b.chEnt ch) = true) (hw : epHas (chWr (b.chEnt ch)) th = true)
    (hk : b.freeWin th = some k) (hf : (b.chan ch).free = sl :: rest) : b.chReserve th ch =
      ((b.setChan ch { b.chan ch with free := rest }).setWin th k { st := 1, ch := ch, slot := sl, len := 0 }, k * 2 ^ 26) := by
  simp [Body.chReserve, h, hw, hk, Body.slotTake, hf]

theorem Body.chReserve_none (h : chValid (b.chEnt ch) = true) (hw : epHas (chWr (b.chEnt ch)) th = true)
    (hk : b.freeWin th = some k) (hf : (b.chan ch).free = []) : b.chReserve th ch = (b.tcount th 3, chErr 1) := by
  simp [Body.chReserve, h, hw, hk, Body.slotTake, hf]

theorem Body.chAcquire_invalid (h : chValid (b.chEnt ch) = false) : b.chAcquire th ch = (b, chErr 3) := if_pos (by simp [h])

theorem Body.chAcquire_denied (h : chValid (b.chEnt ch) = true) (hw : epHas (chRd (b.chEnt ch)) th = false) :
    b.chAcquire th ch = (b, chErr 4) := by simp [Body.chAcquire, h, hw]

theorem Body.chAcquire_full (h : chValid (b.chEnt ch) = true) (hw : epHas (chRd (b.chEnt ch)) th = true) (hk : b.freeWin th = none) :
    b.chAcquire th ch = (b, chErr 2) := by simp [Body.chAcquire, h, hw, hk]

theorem Body.chAcquire_taken {sl len : Nat} {rest : List (Nat × Nat)} (h : chValid (b.chEnt ch) = true)
    (hw : epHas (chRd (b.chEnt ch)) th = true) (hk : b.freeWin th = some k) (hf : (b.chan ch).ready = (sl, len) :: rest) :
    b.chAcquire th ch = ((b.setChan ch { b.chan ch with ready := rest }).setWin th k { st := 2, ch := ch, slot := sl, len := len },
      k * 2 ^ 26 + len) := by
  simp [Body.chAcquire, h, hw, hk, hf]

theorem Body.chAcquire_none (h : chValid (b.chEnt ch) = true) (hw : epHas (chRd (b.chEnt ch)) th = true)
    (hk : b.freeWin th = some k) (hf : (b.chan ch).ready = []) : b.chAcquire th ch = (b, chErr 1) := by
  simp [Body.chAcquire, h, hw, hk, hf]

/-- A channel or a window read after one is set. -/
@[simp] theorem Body.chan_setChan (x : Chan) : (b.setChan ch x).chan ch = x := Sp.get_set_self ..

@[simp] theorem Body.chan_setWin (j : Nat) (x : Win) : (b.setWin th k x).chan j = b.chan j := rfl

@[simp] theorem Body.win_setWin (x : Win) : (b.setWin th k x).win' th k = x := by
  rw [Body.win', Body.setWin, Body.thr_setThr_self, Sp.get_set_self]

end

/-! A load of a channel's row in a state. -/

theorem Body.setG_grt (b : Body) (th d v : Nat) : (b.setG th d v).grt.chans = b.grt.chans := by
  unfold Body.setG
  split_ifs <;> rfl

theorem Body.issued_grt (b : Body) (th : Nat) : (b.issued th).grt.chans = b.grt.chans := by
  unfold Body.issued Body.dlIssue
  split_ifs <;> rfl

theorem Body.result_grt (b : Body) (th d v : Nat) : (b.result th d v).grt.chans = b.grt.chans := by
  rw [Body.result, Body.setG_grt]
  exact b.issued_grt th

theorem Body.waited_grt (b : Body) (th d v : Nat) : (b.waited th d v).grt.chans = b.grt.chans := by
  refine ((b.setG th d v).nextPc th).issued_grt th |>.trans ?_
  exact b.setG_grt th d v

theorem Body.result_wins (b : Body) (th d v : Nat) : ((b.result th d v).thr th).wins = (b.thr th).wins := by
  rw [Body.result, Body.setG_thr, Body.retire_thr, if_pos rfl]

theorem State.withBody_chans {s : State} {c : Body} : (s.withBody c).dev.body.grt.chans = c.grt.chans := (Body.note_chans _ _).1

section
variable {s : State} {th w ch v : Nat} {b' : Body}

/-- What a load of a channel's row gives: its result, and the channels and windows as its effect leaves them. -/
def State.chanGives (s : State) (th w : Nat) (c : Instr) (b' : Body) (v : Nat) : Prop :=
  ∃ t, exec c s = .next t ∧ s.retires t th (uD w) (extLoad (uOp w == 0x1A) 4 v) (((s.dev.body.thr th).pc + 4) % 2 ^ 64) ∧ s.within t ∧
    t.dev.body.grt.chans = b'.grt.chans ∧ (t.dev.body.thr th).wins = (b'.thr th).wins

theorem State.chanGives.imp {c : Instr} {p : State → Prop} (h : s.chanGives th w c b' v)
    (hp : ∀ t : State, (∀ j, t.dev.body.chan j = b'.chan j) → (∀ k, t.dev.body.win' th k = b'.win' th k) → p t) :
    ∃ t, exec c s = .next t ∧ s.retires t th (uD w) (extLoad (uOp w == 0x1A) 4 v) (((s.dev.body.thr th).pc + 4) % 2 ^ 64) ∧
      s.within t ∧ p t := by
  obtain ⟨t, ht, hr, hw, hch, hwin⟩ := h
  exact ⟨t, ht, hr, hw, hp t (fun j => by rw [Body.chan, hch]; rfl) fun k => by rw [Body.win', hwin]; rfl⟩

/-- A load whose value is at hand. -/
theorem State.chanGives_result {c : Instr} (hl : Body.Like s.dev.body b')
    (hc : exec c s = .next (s.withBody (b'.result th (uD w) (extLoad (uOp w == 0x1A) 4 v)))) : s.chanGives th w c b' v := by
  obtain ⟨hr, hw⟩ := State.withBody_result_of (th := th) (d := uD w) (v := extLoad (uOp w == 0x1A) 4 v) hl (extLoad_lt _ _ (by decide))
  exact ⟨_, hc, hr, hw, by rw [State.withBody_chans, Body.result_grt], by rw [(State.withBody_thr th).2.2.2.2.2.1, Body.result_wins]⟩

/-- A blocking load that need not wait. -/
theorem State.chanGives_waited {c : Instr} (hl : Body.Like s.dev.body b')
    (hc : exec c s = .next (s.withBody (b'.waited th (uD w) (Body.ext32 (uOp w == 0x1A) v)))) : s.chanGives th w c b' v := by
  obtain ⟨hr, hw⟩ := State.withBody_waited (th := th) (d := uD w) (v := Body.ext32 (uOp w == 0x1A) v) hl
  have he : Body.ext32 (uOp w == 0x1A) v % 2 ^ 64 = extLoad (uOp w == 0x1A) 4 v := Nat.mod_eq_of_lt (extLoad_lt _ (n := 4) _ (by decide))
  rw [he] at hr
  exact ⟨_, hc, hr, hw, by rw [State.withBody_chans, Body.waited_grt], by rw [(State.withBody_thr th).2.2.2.2.2.1, Body.waited_thr]⟩

theorem tcbLd_word {op : Nat} (h : op = 0x1A ∨ op = 0x1E) : tcbLd 4 op = true := by rcases h with rfl | rfl <;> rfl

/-- RESERVE, and RESERVE_WAIT where it need not wait. -/
theorem State.reserve_gives {c : Instr} {base : Nat} (h : s.issues th w) (hop : uOp w = 0x1A ∨ uOp w = 0x1E) (hch : ch < 1024)
    (hc : (c = .tcbReserve th ∧ base = 0x1000) ∨ (c = .tcbReserveWait th ∧ base = 0x2000))
    (ha : memAt th (Dev.effAddr s.dev.body th w) = .tcb (base + 4 * ch)) (hr : s.dev.body.chReserve th ch = (b', v))
    (hgo : chValid (s.dev.body.chEnt ch) = false ∨ epHas (chWr (s.dev.body.chEnt ch)) th = false ∨ s.dev.body.freeWin th = none ∨
      (s.dev.body.chan ch).free ≠ []) (hl : Body.Like s.dev.body b') : s.chanGives th w c b' v := by
  rcases hc with ⟨rfl, rfl⟩ | ⟨rfl, rfl⟩
  · refine State.chanGives_result hl ((loads_tcbReserve th).val h (tcbLd_word hop) ha (by simp only [decide_eq_true_eq]; omega) (by omega) (.inl rfl) ?_)
    rw [Body.tcbLoad_reserve hch, hr]
  · have hn := (loads_tcbReserveWait th).blocks (on := .reserve ch) h (tcbLd_word hop) ha (by simp only [decide_eq_true_eq]; omega) (by omega) (.inl rfl)
      (Body.tcbLoad_reserveWait hch)
    refine State.chanGives_waited hl (hn.trans ?_)
    rw [Body.blockOn_some (c := b') (v := Body.ext32 (uOp w == 0x1A) v)]
    simp only [Body.waitTry]
    rw [if_neg (by
      simp only [Bool.and_eq_true, List.isEmpty_iff, Option.isSome_iff_ne_none]
      rcases hgo with e | e | e | e <;> simp [e]), hr]

/-- ACQUIRE, and ACQUIRE_WAIT where it need not wait. -/
theorem State.acquire_gives {c : Instr} {base : Nat} (h : s.issues th w) (hop : uOp w = 0x1A ∨ uOp w = 0x1E) (hch : ch < 1024)
    (hc : (c = .tcbAcquire th ∧ base = 0x3000) ∨ (c = .tcbAcquireWait th ∧ base = 0x4000))
    (ha : memAt th (Dev.effAddr s.dev.body th w) = .tcb (base + 4 * ch)) (hr : s.dev.body.chAcquire th ch = (b', v))
    (hgo : chValid (s.dev.body.chEnt ch) = false ∨ epHas (chRd (s.dev.body.chEnt ch)) th = false ∨ s.dev.body.freeWin th = none ∨
      (s.dev.body.chan ch).ready ≠ []) (hl : Body.Like s.dev.body b') : s.chanGives th w c b' v := by
  rcases hc with ⟨rfl, rfl⟩ | ⟨rfl, rfl⟩
  · refine State.chanGives_result hl ((loads_tcbAcquire th).val h (tcbLd_word hop) ha (by simp only [decide_eq_true_eq]; omega) (by omega) (.inl rfl) ?_)
    rw [Body.tcbLoad_acquire hch, hr]
  · have hn := (loads_tcbAcquireWait th).blocks (on := .acquire ch) h (tcbLd_word hop) ha (by simp only [decide_eq_true_eq]; omega) (by omega) (.inl rfl)
      (Body.tcbLoad_acquireWait hch)
    refine State.chanGives_waited hl (hn.trans ?_)
    rw [Body.blockOn_some (c := b') (v := Body.ext32 (uOp w == 0x1A) v)]
    simp only [Body.waitTry]
    rw [if_neg (by
      simp only [Bool.and_eq_true, List.isEmpty_iff, Option.isSome_iff_ne_none]
      rcases hgo with e | e | e | e <;> simp [e]), hr]

end

/-! COMMIT and RELEASE (R371). -/

section
variable {b : Body} {th k v : Nat}

theorem Body.tcbStore_commit (hk : k < 4) : b.tcbStore th (0x100 + 8 * k) 4 v =
    match b.chCommit th k (v % 2 ^ 32) with | some b => .ok b | none => .error CS_CHANNEL := by
  interval_cases k <;> rfl

theorem Body.tcbStore_commits {c : Body} (hk : k < 4) (h : b.chCommit th k (v % 2 ^ 32) = some c) :
    b.tcbStore th (0x100 + 8 * k) 4 v = .ok c := by rw [Body.tcbStore_commit hk, h]

theorem Body.tcbStore_commitFault (hk : k < 4) (h : b.chCommit th k (v % 2 ^ 32) = none) :
    b.tcbStore th (0x100 + 8 * k) 4 v = .error CS_CHANNEL := by rw [Body.tcbStore_commit hk, h]

theorem Body.tcbStore_release (hk : k < 4) : b.tcbStore th (0x140 + 8 * k) 4 v =
    match b.chRelease th k with | some b => .ok b | none => .error CS_CHANNEL := by
  interval_cases k <;> rfl

theorem Body.tcbStore_releases {c : Body} (hk : k < 4) (h : b.chRelease th k = some c) : b.tcbStore th (0x140 + 8 * k) 4 v = .ok c := by
  rw [Body.tcbStore_release hk, h]

theorem Body.tcbStore_releaseFault (hk : k < 4) (h : b.chRelease th k = none) :
    b.tcbStore th (0x140 + 8 * k) 4 v = .error CS_CHANNEL := by rw [Body.tcbStore_release hk, h]

theorem Body.chCommit_some (h1 : (b.win' th k).st = 1) (h2 : 1 ≤ v) (h3 : v ≤ chSlot (b.chEnt (b.win' th k).ch)) :
    b.chCommit th k v = some ((b.slotCommit (b.win' th k).ch (b.win' th k).slot v).setWin th k {}) := by
  rw [Body.chCommit, if_neg (by omega)]

theorem Body.chCommit_none (h : (b.win' th k).st ≠ 1 ∨ v = 0 ∨ chSlot (b.chEnt (b.win' th k).ch) < v) : b.chCommit th k v = none := by
  rw [Body.chCommit, if_pos h]

theorem Body.chRelease_held (h : (b.win' th k).st = 1 ∨ (b.win' th k).st = 2) :
    b.chRelease th k = some ((b.slotFree (b.win' th k).ch (b.win' th k).slot).setWin th k {}) := by
  rcases h with h | h <;> simp only [Body.chRelease, h]

theorem Body.chRelease_abandoned (h : (b.win' th k).st = 3) : b.chRelease th k = some (b.setWin th k {}) := by
  simp only [Body.chRelease, h]

theorem Body.chRelease_free (h : (b.win' th k).st = 0) : b.chRelease th k = none := by simp only [Body.chRelease, h]

theorem State.withBody_retire_chans {s : State} : (s.withBody (b.retire th)).dev.body.grt.chans = b.grt.chans := by
  rw [State.withBody_chans]
  exact b.issued_grt th

theorem Body.setWin_chans (x : Win) : (b.setWin th k x).grt.chans = b.grt.chans := rfl

theorem State.withBody_retire_chan {s : State} (j : Nat) : (s.withBody (b.retire th)).dev.body.chan j = b.chan j := by
  rw [Body.chan, State.withBody_chans]
  exact congrArg (fun x => Sp.get {} x j) (b.issued_grt th)

theorem State.withBody_retire_win {s : State} : (s.withBody (b.retire th)).dev.body.win' th k = b.win' th k := by
  rw [Body.win', (State.withBody_thr th).2.2.2.2.2.1, (Body.retire_like ..).2.2.2.2.2, Body.win']

/-- A store to the control block that faults. -/
theorem Instr.Stores.faults {s : State} {w n off e : Nat} {row : Nat → Bool} {c : Instr} (hc : Instr.Stores c th n row) (h : s.issues th w)
    (hop : tcbSt n (uOp w) = true) (ha : memAt th (Dev.effAddr s.dev.body th w) = .tcb off) (hrow : row off = true) (hn : off % n = 0)
    (hn8 : n = 4 ∨ n = 8) (hv : s.dev.body.tcbStore th off n (s.dev.body.greg th (uD w)) = .error e) (he : e < 16) :
    ∃ t, exec c s = .next t ∧ s.faults t th e (Dev.effAddr s.dev.body th w) :=
  ⟨_, hc.runs h hop ha hrow (by rw [Dev.store_tcb ha hn (by rcases hn8 with rfl | rfl <;> decide), hv]; rfl),
    (State.withBody_tfault Body.Before.refl he).1⟩

end

/-! Pool buffers (R376). -/

section
variable {b : Body} {th n i m : Nat}

theorem Body.minNote_grt (b : Body) (n was now : Nat) : (b.minNote n was now).grt = b.grt := rfl

/-- What a buffer taken leaves of the Grotto, and that it is allocated. -/
theorem Body.poolTake_alloc (b : Body) (n : Nat) : (b.poolTake n).1 ∈ (b.poolTake n).2.allocOf n ∧ (b.poolTake n).2.grt = b.grt := by
  unfold poolTake
  dsimp only
  generalize nthFree _ _ = i
  generalize hd : Body.minNote _ _ _ _ = d
  have hd1 : i ∈ d.allocOf n := by
    rw [← hd, (Body.minNote_rest ..).1, allocOf_wr, allocOf_setAlloc, mem_insertNat]
    exact .inl rfl
  have hd2 : d.grt = b.grt := by rw [← hd]; rfl
  have hfire : ∀ (c : Body) (p : Prop) [Decidable p] (e : Nat), i ∈ c.allocOf n ∧ c.grt = b.grt →
      i ∈ (if p then c.fire (Pg.pool n) e else c).allocOf n ∧ (if p then c.fire (Pg.pool n) e else c).grt = b.grt := by
    intro c p _ e h
    split_ifs
    · simpa [allocOf] using h
    · exact h
  have h1 := hfire d (b.prd' n R.POOL_FREE_CNT - 1 = d.prd' n R.POOL_WARN) R.POOL_EVT_WARN ⟨hd1, hd2⟩
  generalize (if b.prd' n R.POOL_FREE_CNT - 1 = d.prd' n R.POOL_WARN then d.fire (Pg.pool n) R.POOL_EVT_WARN else d) = d1 at h1 ⊢
  have h2 := hfire d1 (b.prd' n R.POOL_FREE_CNT - 1 = d1.prd' n R.POOL_CRIT) R.POOL_EVT_CRIT h1
  generalize (if b.prd' n R.POOL_FREE_CNT - 1 = d1.prd' n R.POOL_CRIT then d1.fire (Pg.pool n) R.POOL_EVT_CRIT else d1) = d2 at h2 ⊢
  have h3 := hfire d2 (b.prd' n R.POOL_FREE_CNT - 1 = 0) R.POOL_EVT_EMPTY h2
  generalize (if b.prd' n R.POOL_FREE_CNT - 1 = 0 then d2.fire (Pg.pool n) R.POOL_EVT_EMPTY else d2) = d3 at h3 ⊢
  split_ifs <;> exact h3

/-- A request to the Pool manager keeps the Grotto; what it answers names a pool, and an allocated buffer. -/
theorem Body.poolReq_spec (b : Body) (m size : Nat) : (b.poolReq 0 m size).1.grt = b.grt ∧
    (∀ n i, (b.poolReq 0 m size).2 = .ok n i → n < 16 ∧ i ∈ (b.poolReq 0 m size).1.allocOf n) ∧
    (∀ n, (b.poolReq 0 m size).2 = .empty n → n < 16) ∧
    ((b.poolReq 0 m size).2 = .noPool → (b.poolReq 0 m size).1 = b) := by
  unfold poolReq
  cases hf : b.poolFor 0 m size with
  | none => simp
  | some n =>
    have hn := poolFor_lt hf
    by_cases h0 : b.prd' n R.POOL_FREE_CNT = 0
    · simp only [h0, if_true]
      refine ⟨by simp, fun _ _ h => (nomatch h), fun k h => ?_, fun h => (nomatch h)⟩
      rw [PoolRes.empty.injEq] at h
      exact h ▸ hn
    · obtain ⟨halloc, hgrt⟩ := b.poolTake_alloc n
      simp only [h0, if_false]
      refine ⟨hgrt, fun k i h => ?_, fun _ h => (nomatch h), fun h => (nomatch h)⟩
      rw [PoolRes.ok.injEq] at h
      exact ⟨h.1 ▸ hn, h.1 ▸ h.2 ▸ halloc⟩

theorem Body.tcbLoad_alloc {k : Nat} (hk : k < 4) :
    b.tcbLoad th (0x208 + 8 * k) 8 = .val (b.tcbAlloc th k).1 (b.tcbAlloc th k).2 := by
  interval_cases k <;> rfl

theorem Body.tcbStore_free (v : Nat) : b.tcbStore th 0x240 8 v = .ok (b.tcbFree th v) := rfl

/-- The error results of a pool request, in bits 63 to 61. -/
theorem poolError_bits {n v : Nat} (hn : n < 16) (hv : v < 2 ^ 28) :
    bitField (2 ^ 63 + 2 ^ 61 + n * 2 ^ 32 + v) 63 61 = 5 ∧ 2 ^ 63 + 2 ^ 61 + n * 2 ^ 32 + v < 2 ^ 64 ∧
    bitField (2 ^ 63 + 2 ^ 62 + n * 2 ^ 32 + v) 63 61 = 6 ∧ 2 ^ 63 + 2 ^ 62 + n * 2 ^ 32 + v < 2 ^ 64 := by
  simp only [bitField]
  omega

theorem free_lt (b : Body) (w : Nat) : (b.free w).1 < 2 ^ w := Nat.mod_lt _ (Nat.two_pow_pos w)

/-- What a pool request of a thread gives. -/
theorem Body.tcbAlloc_spec (b : Body) (th m : Nat) : (b.tcbAlloc th m).1.grt = b.grt ∧
    (∀ n i, (b.poolReq 0 m (b.thr th).psize).2 = .ok n i → (b.tcbAlloc th m).2 = n * 2 ^ 32 + i % 2 ^ 28 ∧ n < 16 ∧
      i ∈ (b.tcbAlloc th m).1.allocOf n) ∧
    (∀ n, (b.poolReq 0 m (b.thr th).psize).2 = .empty n → bitField (b.tcbAlloc th m).2 63 61 = 5 ∧ (b.tcbAlloc th m).2 < 2 ^ 64) ∧
    ((b.poolReq 0 m (b.thr th).psize).2 = .noPool → bitField (b.tcbAlloc th m).2 63 61 = 6 ∧ (b.tcbAlloc th m).2 < 2 ^ 64 ∧
      (b.tcbAlloc th m).1.buf = b.buf) := by
  obtain ⟨hgrt, hok, hempty, hnone⟩ := b.poolReq_spec m (b.thr th).psize
  unfold tcbAlloc
  generalize b.poolReq 0 m (b.thr th).psize = r at *
  obtain ⟨c, r⟩ := r
  cases r with
  | ok n i =>
    refine ⟨hgrt, fun _ _ h => ?_, fun _ h => (nomatch h), fun h => (nomatch h)⟩
    rw [PoolRes.ok.injEq] at h
    obtain ⟨rfl, rfl⟩ := h
    exact ⟨rfl, hok _ _ rfl⟩
  | empty n =>
    obtain ⟨h1, h2, -⟩ := poolError_bits (hempty n rfl) (free_lt c 28)
    exact ⟨hgrt, fun _ _ h => (nomatch h), fun _ _ => ⟨h1, h2⟩, fun h => (nomatch h)⟩
  | noPool =>
    obtain ⟨-, -, h1, h2⟩ := poolError_bits (free_lt c 4) (free_lt (c.free 4).2 28)
    exact ⟨hgrt, fun _ _ h => (nomatch h), fun _ h => (nomatch h), fun _ => ⟨h1, h2, by show c.buf = b.buf; rw [show c = b from hnone rfl]⟩⟩

end

section
variable {s : State} {th w m : Nat}

/-- An effect that keeps the Grotto keeps its threads. -/
theorem Body.thr_of_grt {b c : Body} (h : c.grt = b.grt) (j : Nat) : (c.thr j).regs = (b.thr j).regs ∧ (c.thr j).pc = (b.thr j).pc := by
  simp only [Body.thr, h, and_self]

theorem Body.retire_buf (b : Body) (th : Nat) : (b.retire th).buf = b.buf := by
  have h : (b.issued th).buf = b.buf := by
    unfold Body.issued Body.dlIssue
    split_ifs <;> rfl
  exact h

theorem Body.result_buf (b : Body) (th d v : Nat) : (b.result th d v).buf = b.buf := by
  have h : ∀ c : Body, (c.setG th d v).buf = c.buf := fun c => by
    unfold Body.setG
    split_ifs <;> rfl
  exact (h _).trans (b.retire_buf th)

/-- A load of TCB_POOL_ALLOC gives the answer of its request. -/
theorem State.poolAlloc_gives (h : s.issues th w) (hop : uOp w = 0x1B) (hm : m < 4)
    (ha : memAt th (Dev.effAddr s.dev.body th w) = .tcb (0x208 + 8 * m)) (hg : (s.dev.body.tcbAlloc th m).1.grt = s.dev.body.grt)
    (hv : (s.dev.body.tcbAlloc th m).2 < 2 ^ 64) : ∃ t, exec (.tcbPoolAlloc th) s = .next t ∧
      s.retires t th (uD w) (s.dev.body.tcbAlloc th m).2 (((s.dev.body.thr th).pc + 4) % 2 ^ 64) ∧
      t.dev.body.buf = (s.dev.body.tcbAlloc th m).1.buf := by
  have hn := (loads_tcbPoolAlloc th).val h (by rw [hop]; rfl) ha (by simp only [decide_eq_true_eq]; omega) (by omega) (.inr rfl)
    (Body.tcbLoad_alloc hm)
  rw [hop, extLoad_dword, Nat.mod_eq_of_lt hv] at hn
  exact ⟨_, hn, State.withBody_result_retires (Body.thr_of_grt hg) hv, by rw [State.withBody_buf, Body.result_buf]⟩

/-- A store to TCB_POOL_FREE passes. -/
theorem State.poolFree_retires (h : s.issues th w) (hop : uOp w = 0x23) (ha : memAt th (Dev.effAddr s.dev.body th w) = .tcb 0x240)
    (hg : (s.dev.body.tcbFree th (s.dev.body.greg th (uD w))).grt = s.dev.body.grt) :
    exec (.tcbPoolFree th) s = .next (s.withBody ((s.dev.body.tcbFree th (s.dev.body.greg th (uD w))).retire th)) ∧
    s.retires (s.withBody ((s.dev.body.tcbFree th (s.dev.body.greg th (uD w))).retire th)) th 0 0 (((s.dev.body.thr th).pc + 4) % 2 ^ 64) :=
  ⟨(stores_tcbPoolFree th).ok h (by rw [hop]; rfl) ha rfl (by decide) (.inr rfl) (Body.tcbStore_free _),
    State.withBody_result_retires (d := 0) (v := 0) (Body.thr_of_grt hg) (by decide)⟩

end

end Sys2Proof.Machine

namespace Sys2Proof
open Machine

/-- Settles O44. -/
theorem controlBlockChannels : Obligations.ControlBlockChannels := by
  intro th w s h b x pc at_ sx v gives stores err
  refine ⟨fun hop ch hch => ⟨fun c base hc ha => ⟨fun hv => ?_, fun hv hw => ?_, fun hv hw hk => ?_, fun k sl rest hv hw hk hf => ?_⟩,
      fun k hv hw hk hf => ⟨fun ha => ?_, fun ha hs => ?_⟩,
      fun c base hc ha => ⟨fun hv => ?_, fun hv hw => ?_, fun hv hw hk => ?_, fun k sl len rest hv hw hk hf => ?_⟩,
      fun k hv hw hk hf => ⟨fun ha => ?_, fun ha hs => ?_⟩⟩,
    fun hop k hk => ⟨fun ha => ⟨fun hst h1 h2 => ?_, fun hbad => ?_⟩, fun ha => ⟨fun hst => ?_, fun hst => ?_, fun hst => ?_⟩⟩,
    fun hop m hm ha => ⟨fun n i hr => ?_, fun n hr => ?_, fun hr => ?_⟩, fun hop ha => ?_⟩
  · exact (State.reserve_gives h hop hch hc ha (Body.chReserve_invalid hv) (.inl hv) .refl).imp fun t hch _ => hch ch
  · exact (State.reserve_gives h hop hch hc ha (Body.chReserve_denied hv hw) (.inr (.inl hw)) .refl).imp fun t hch _ => hch ch
  · exact (State.reserve_gives h hop hch hc ha (Body.chReserve_full hv hw hk) (.inr (.inr (.inl hk))) .refl).imp fun t hch _ => hch ch
  · refine (State.reserve_gives h hop hch hc ha (Body.chReserve_taken hv hw hk hf) (.inr (.inr (.inr (by simp only [b] at hf; simp [hf]))))
      ((Body.Like.refl.setChan ..).setWin ..)).imp fun t hch hwin => ⟨?_, ?_⟩
    · rw [hch, Body.chan_setWin, Body.chan_setChan]
    · rw [hwin, Body.win_setWin]
  · refine State.chanGives.imp (State.chanGives_result (b' := b.tcount th 3) (Body.Like.refl.count ..) ?_) fun t hch _ => hch ch
    exact (loads_tcbReserve th).val h (tcbLd_word hop) ha (by simp only [decide_eq_true_eq]; omega) (by omega) (.inl rfl)
      (by rw [Body.tcbLoad_reserve hch, Body.chReserve_none hv hw hk hf]; rfl)
  · have hn := (loads_tcbReserveWait th).blocks h (tcbLd_word hop) ha (by simp only [decide_eq_true_eq]; omega) (by omega) (.inl rfl)
      (Body.tcbLoad_reserveWait hch)
    obtain ⟨h1, h2, h3, -⟩ := State.withBody_waits (x := { on := .reserve ch, d := uD w, sx := uOp w == 0x1A })
      (by simp only [Body.waitTry]; rw [if_pos (by simp only [b] at *; simp [hv, hw, hk, hf])]) hs
    exact ⟨_, hn, h1, h2, h3⟩
  · exact (State.acquire_gives h hop hch hc ha (Body.chAcquire_invalid hv) (.inl hv) .refl).imp fun t hch _ => hch ch
  · exact (State.acquire_gives h hop hch hc ha (Body.chAcquire_denied hv hw) (.inr (.inl hw)) .refl).imp fun t hch _ => hch ch
  · exact (State.acquire_gives h hop hch hc ha (Body.chAcquire_full hv hw hk) (.inr (.inr (.inl hk))) .refl).imp fun t hch _ => hch ch
  · refine (State.acquire_gives h hop hch hc ha (Body.chAcquire_taken hv hw hk hf) (.inr (.inr (.inr (by simp only [b] at hf; simp [hf]))))
      ((Body.Like.refl.setChan ..).setWin ..)).imp fun t hch hwin => ⟨?_, ?_⟩
    · rw [hch, Body.chan_setWin, Body.chan_setChan]
    · rw [hwin, Body.win_setWin]
  · refine State.chanGives.imp (State.chanGives_result Body.Like.refl ?_) fun t hch _ => hch ch
    exact (loads_tcbAcquire th).val h (tcbLd_word hop) ha (by simp only [decide_eq_true_eq]; omega) (by omega) (.inl rfl)
      (by rw [Body.tcbLoad_acquire hch, Body.chAcquire_none hv hw hk hf]; rfl)
  · have hn := (loads_tcbAcquireWait th).blocks h (tcbLd_word hop) ha (by simp only [decide_eq_true_eq]; omega) (by omega) (.inl rfl)
      (Body.tcbLoad_acquireWait hch)
    obtain ⟨h1, h2, h3, -⟩ := State.withBody_waits (x := { on := .acquire ch, d := uD w, sx := uOp w == 0x1A })
      (by simp only [Body.waitTry]; rw [if_pos (by simp only [b] at *; simp [hv, hw, hk, hf])]) hs
    exact ⟨_, hn, h1, h2, h3⟩
  · refine (stores_tcbCommit th).stores h (by rw [hop]; rfl) ha (by simp only [decide_eq_true_eq]; omega) (by omega) (.inl rfl)
      (Body.tcbStore_commits hk (Body.chCommit_some hst h1 h2)) (Body.Like.refl.setChan _ _ |>.setWin ..) ?_
    simp only [State.withBody_retire_chan, State.withBody_retire_win, Body.win_setWin, Body.chan_setWin, Body.slotCommit, Body.chan_setChan,
      and_self, b, v]
  · exact (stores_tcbCommit th).faults h (by rw [hop]; rfl) ha (by simp only [decide_eq_true_eq]; omega) (by omega) (.inl rfl)
      (Body.tcbStore_commitFault hk (Body.chCommit_none hbad)) (by decide)
  · refine (stores_tcbRelease th).stores h (by rw [hop]; rfl) ha (by simp only [decide_eq_true_eq]; omega) (by omega) (.inl rfl)
      (Body.tcbStore_releases hk (Body.chRelease_held hst)) (Body.Like.refl.setChan _ _ |>.setWin ..) ?_
    simp only [State.withBody_retire_chan, State.withBody_retire_win, Body.win_setWin, Body.chan_setWin, Body.slotFree, Body.chan_setChan,
      and_self, b]
  · refine (stores_tcbRelease th).stores h (by rw [hop]; rfl) ha (by simp only [decide_eq_true_eq]; omega) (by omega) (.inl rfl)
      (Body.tcbStore_releases hk (Body.chRelease_abandoned hst)) (Body.Like.refl.setWin ..) ⟨?_, ?_⟩
    · rw [State.withBody_retire_chans, Body.setWin_chans]
    · rw [State.withBody_retire_win, Body.win_setWin]
  · exact (stores_tcbRelease th).faults h (by rw [hop]; rfl) ha (by simp only [decide_eq_true_eq]; omega) (by omega) (.inl rfl)
      (Body.tcbStore_releaseFault hk (Body.chRelease_free hst)) (by decide)
  · obtain ⟨hgrt, hok, -, -⟩ := b.tcbAlloc_spec th m
    obtain ⟨hval, hn, hal⟩ := hok n i hr
    have hlt : (b.tcbAlloc th m).2 < 2 ^ 64 := by rw [hval]; omega
    have hg := State.poolAlloc_gives h hop hm ha hgrt hlt
    rw [hval] at hg
    exact hg.imp fun t ⟨ht, hr, hb⟩ => ⟨ht, hr, by rw [Body.allocOf, hb]; exact hal⟩
  · obtain ⟨hgrt, -, hempty, -⟩ := b.tcbAlloc_spec th m
    obtain ⟨hbits, hlt⟩ := hempty n hr
    obtain ⟨t, ht, hr, -⟩ := State.poolAlloc_gives h hop hm ha hgrt hlt
    exact ⟨t, _, ht, hr, hbits⟩
  · obtain ⟨hgrt, -, -, hnone⟩ := b.tcbAlloc_spec th m
    obtain ⟨hbits, hlt, hbuf⟩ := hnone hr
    obtain ⟨t, ht, hr, hb⟩ := State.poolAlloc_gives h hop hm ha hgrt hlt
    exact ⟨t, _, ht, hr, hbits, hb.trans hbuf⟩
  · intro n i
    refine ⟨fun ho hi hbit hal => ?_, fun ho => ?_⟩
    · have hfree : b.tcbFree th v = b.poolFree n i (0x100 + th) := if_pos ho
      obtain ⟨hal', -, -⟩ := Body.poolFree_allocated_spec (m := 0x100 + th) hi hbit hal
      have hgrt : (b.poolFree n i (0x100 + th)).grt = b.grt := by rw [Body.poolFree_allocated hi hbit hal]; rfl
      obtain ⟨hn, hr⟩ := State.poolFree_retires h hop ha (by rw [hfree, hgrt])
      refine ⟨_, hn, hr, ?_⟩
      rw [State.withBody_allocOf, hfree, Body.allocOf, Body.retire_buf]
      exact hal'
    · have hfree : b.tcbFree th v = b.sat (Pg.pool n) R.POOL_BADIDX := if_neg (Bool.not_eq_true _ ▸ ho)
      obtain ⟨hn, hr⟩ := State.poolFree_retires h hop ha (by rw [hfree]; rfl)
      refine ⟨_, hn, hr, ?_, ?_⟩
      · rw [State.withBody_buf, hfree, Body.retire_buf]
        rfl
      · refine State.withBody_poolReg ?_
        rw [hfree, (Body.Inner.refl.retire th).rd]
        exact Body.rd_sat_self ..

end Sys2Proof
end

section
/-! O40: thread commands and core restarts (R32, R364 to R367, R371). -/

namespace Sys2Proof.Machine

namespace Body

/-! What RESTART and KILL do to a thread's windows (R371). -/

/-- An effect on the windows of one thread and on the channels, whose free lists only grow. -/
structure WinsDropped (th : Nat) (b c : Body) : Prop where
  rest : c = { b with grt := { b.grt with ths := c.grt.ths, chans := c.grt.chans } }
  others : ∀ j, j ≠ th → c.thr j = b.thr j
  own : c.thr th = { b.thr th with wins := (c.thr th).wins }
  free : ∀ ch x, x ∈ (b.chan ch).free → x ∈ (c.chan ch).free

section
variable {b c d : Body} {th : Nat}

theorem WinsDropped.refl : WinsDropped th b b := ⟨rfl, fun _ _ => rfl, rfl, fun _ _ h => h⟩

theorem WinsDropped.trans (h : WinsDropped th b c) (h' : WinsDropped th c d) : WinsDropped th b d where
  rest := by rw [h'.rest, h.rest]
  others j hj := (h'.others j hj).trans (h.others j hj)
  own := by rw [h'.own, h.own]
  free ch x hx := h'.free ch x (h.free ch x hx)

theorem WinsDropped.setWin (h : WinsDropped th b c) (w : Nat) (x : Win) : WinsDropped th b (c.setWin th w x) where
  rest := by rw [h.rest]; rfl
  others j hj := by rw [Body.setWin, thr_setThr, if_neg hj, h.others j hj]
  own := by rw [Body.setWin, thr_setThr_self, h.own]
  free := h.free

/-- A channel whose free list has grown. -/
theorem WinsDropped.setChan (h : WinsDropped th b c) (ch : Nat) (x : Chan) (hx : ∀ y ∈ (c.chan ch).free, y ∈ x.free) :
    WinsDropped th b (c.setChan ch x) where
  rest := by rw [h.rest]; rfl
  others := h.others
  own := h.own
  free k y hy := by
    have := h.free k y hy
    by_cases hk : k = ch
    · subst hk
      rw [chan_setChan]
      exact hx y this
    · rw [Body.chan, Body.setChan]
      dsimp only
      rw [Sp.get_set_of_ne _ _ _ _ hk]
      exact this

theorem mem_slotFree (b : Body) (ch slot : Nat) : slot ∈ ((b.slotFree ch slot).chan ch).free ∧ WinsDropped th b (b.slotFree ch slot) := by
  refine ⟨by rw [slotFree, chan_setChan]; simp, WinsDropped.setChan .refl _ _ fun y hy => by simp [hy]⟩

theorem slotAbandon_dropped (b : Body) (ch slot : Nat) : WinsDropped th b (b.slotAbandon ch slot) := by
  unfold slotAbandon
  exact (mem_slotFree b ch slot).2.setChan _ _ fun y hy => hy

theorem win_setWin_ne {w k : Nat} (h : k ≠ w) (x : Win) : (b.setWin th w x).win' th k = b.win' th k := by
  rw [win', setWin, thr_setThr_self, Sp.get_set_of_ne _ _ _ _ h, win']

theorem winDrop_spec (b : Body) (th w : Nat) : WinsDropped th b (b.winDrop th w) ∧ ((b.winDrop th w).win' th w).st = 0 ∧
    (∀ k, k ≠ w → (b.winDrop th w).win' th k = b.win' th k) ∧
    ((b.win' th w).st = 1 ∨ (b.win' th w).st = 2 → (b.win' th w).slot ∈ ((b.winDrop th w).chan (b.win' th w).ch).free) := by
  unfold winDrop
  dsimp only
  generalize hx : b.win' th w = x
  obtain ⟨hfree, hdrop⟩ := mem_slotFree (th := th) b x.ch x.slot
  split
  · next h0 => exact ⟨.refl, by rw [hx, h0], fun _ _ => rfl, fun h => by omega⟩
  · exact ⟨hdrop.setWin _ _, by rw [win_setWin], fun k hk => by rw [win_setWin_ne hk]; rfl, fun _ => hfree⟩
  · refine ⟨WinsDropped.setWin (slotAbandon_dropped b x.ch x.slot) _ _, by rw [win_setWin], fun k hk => by rw [win_setWin_ne hk]; rfl, fun _ => ?_⟩
    rw [chan_setWin, slotAbandon, chan_setChan]
    exact hfree
  · next h0 h1 h2 => exact ⟨WinsDropped.refl.setWin _ _, by rw [win_setWin], fun k hk => win_setWin_ne hk _, fun h => (h.elim h1 h2).elim⟩

/-- Every window of a thread dropped. -/
theorem winsDrop_spec (b : Body) (th n : Nat) : WinsDropped th b ((List.range n).foldl (fun b w => b.winDrop th w) b) ∧
    (∀ k, n ≤ k → ((List.range n).foldl (fun b w => b.winDrop th w) b).win' th k = b.win' th k) ∧
    ∀ w < n, (((List.range n).foldl (fun b w => b.winDrop th w) b).win' th w).st = 0 ∧
      ((b.win' th w).st = 1 ∨ (b.win' th w).st = 2 →
        (b.win' th w).slot ∈ (((List.range n).foldl (fun b w => b.winDrop th w) b).chan (b.win' th w).ch).free) := by
  induction n with
  | zero => exact ⟨.refl, fun _ _ => rfl, fun w hw => absurd hw (Nat.not_lt_zero w)⟩
  | succ n ih =>
    obtain ⟨hd, hkeep, hw⟩ := ih
    rw [List.range_succ, List.foldl_append, List.foldl_cons, List.foldl_nil]
    generalize (List.range n).foldl (fun b w => b.winDrop th w) b = c at hd hkeep hw ⊢
    obtain ⟨hd', hst, hne, hslot⟩ := c.winDrop_spec th n
    refine ⟨hd.trans hd', fun k hk => (hne k (by omega)).trans (hkeep k (by omega)), fun w hwn => ?_⟩
    by_cases h : w = n
    · subst h
      rw [hkeep w (Nat.le_refl w)] at hslot
      exact ⟨hst, hslot⟩
    · rw [hne w h]
      exact ⟨(hw w (by omega)).1, fun hx => hd'.free _ _ ((hw w (by omega)).2 hx)⟩

end

/-! The end of a master's assemblies. -/

theorem asmEnd_grt (b : Body) (w : Nat) : (b.asmEnd w).grt = b.grt := by
  unfold asmEnd
  split
  · rfl
  · unfold asmDrop
    split_ifs <;> simp

theorem asmEndOf_spec (b : Body) (m : Nat) : (b.asmEndOf m).grt = b.grt ∧ (b.asmEndOf m).mem = b.mem ∧
    ∀ (q : Nat) (g : Fld) (i j : Nat), g.lo < 32 → g.lo ≠ 16 → g.lo ≠ 30 → (b.asmEndOf m).rd q g i j = b.rd q g i j := by
  unfold asmEndOf
  refine ⟨foldl_same Body.grt _ (fun a w => a.asmEnd_grt w) _ _, foldl_same Body.mem _ (fun a w => (a.asmEnd_rest w).2.2.2) _ _,
    fun q g i j hg h16 h30 => foldl_same (fun c : Body => c.rd q g i j) _ (fun a w => ?_) _ _⟩
  exact a.rd_asmEnd hg (fun _ => .inr h16) fun _ => .inr h30

/-! RESTART and KILL (R364). -/

section
variable {b c : Body} {th : Nat}

/-- What the commands that begin a thread anew leave. -/
structure Renewed (th : Nat) (b c : Body) : Prop where
  regs : (c.thr th).regs = []
  pc : (c.thr th).pc = c.trd th R.GRT_TH_ENTRY
  pend : (c.thr th).pend = 0
  binds : (c.thr th).binds = []
  timer : (c.thr th).timer = none
  restarts : (c.thr th).restarts = (b.thr th).restarts
  wins : ∀ w < 4, (c.win' th w).st = 0 ∧ ((b.win' th w).st = 1 ∨ (b.win' th w).st = 2 → (b.win' th w).slot ∈ (c.chan (b.win' th w).ch).free)
  others : ∀ j, j ≠ th → c.thr j = b.thr j
  mem : c.mem = b.mem
  restarting : c.grt.restarting = b.grt.restarting
  halts : c.grt.halts = b.grt.halts.erase th

/-- A register that no assembly's end and no cut STEP changes. -/
def offDrop (g : Fld) : Prop := g.lo < 32 ∧ g.lo ≠ 16 ∧ g.lo ≠ 30 ∧ g.lo ≠ 31

theorem stepDrop_rest (b : Body) (th : Nat) : (b.stepDrop th).grt = b.grt ∧ (b.stepDrop th).mem = b.mem ∧
    ∀ (q : Nat) (g : Fld) (i j : Nat), offDrop g → (b.stepDrop th).rd q g i j = b.rd q g i j := by
  unfold stepDrop
  split_ifs
  · exact ⟨rfl, rfl, fun q g i j h => rd_wr_ne _ _ (by decide) h.1 (.inr h.2.2.2)⟩
  · exact ⟨rfl, rfl, fun _ _ _ _ _ => rfl⟩

theorem tclear_spec (b : Body) (th : Nat) : Renewed th b (b.tclear th) ∧
    ∀ (q : Nat) (g : Fld) (i j : Nat), offDrop g → (b.tclear th).rd q g i j = b.rd q g i j := by
  obtain ⟨hsg, hsm, hsr⟩ := b.stepDrop_rest th
  obtain ⟨hd, -, hw⟩ := (b.stepDrop th).winsDrop_spec th 4
  unfold tclear
  generalize b.stepDrop th = a at *
  generalize (List.range 4).foldl (fun b w => b.winDrop th w) a = c at *
  obtain ⟨hag, ham, har⟩ := c.asmEndOf_spec (0x100 + th)
  generalize c.asmEndOf (0x100 + th) = e at *
  have hthr : ∀ j, a.thr j = b.thr j := fun j => by rw [thr, hsg, thr]
  have hethr : ∀ j, e.thr j = c.thr j := fun j => by rw [thr, hag, thr]
  have hwin : ∀ k, a.win' th k = b.win' th k := fun k => by rw [win', hthr, win']
  dsimp only
  refine ⟨⟨by rw [thr_setThr_self], by rw [thr_setThr_self]; rfl, by rw [thr_setThr_self], by rw [thr_setThr_self],
    by rw [thr_setThr_self], ?_, fun w hlt => ?_, fun j hj => ?_, ?_, ?_, ?_⟩, fun q g i j h => ?_⟩
  · rw [thr_setThr_self]
    show (e.thr th).restarts = _
    rw [hethr, hd.own, hthr]
  · obtain ⟨h0, hslot⟩ := hw w hlt
    rw [hwin] at hslot
    refine ⟨?_, fun hx => ?_⟩
    · rw [win', thr_setThr_self]
      show (Sp.get {} (e.thr th).wins w).st = 0
      rw [hethr]
      exact h0
    · have := hslot hx
      rw [chan, ← hag] at this
      exact this
  · rw [thr_setThr, if_neg hj]
    show e.thr j = _
    rw [hethr, hd.others j hj, hthr]
  · show e.mem = _
    rw [ham, hd.rest, ← hsm]
  · show e.grt.restarting = _
    rw [hag, hd.rest, ← hsg]
  · show e.grt.halts.erase th = _
    rw [hag, hd.rest, ← hsg]
  · show e.rd q g i j = _
    rw [har q g i j h.1 h.2.1 h.2.2.1, ← hsr q g i j h, hd.rest]
    rfl

/-- A field that is not the state of a thread. -/
def offState (th page : Nat) (g : Fld) (i j : Nat) : Prop := g.addr page i j ≠ R.GRT_TH_STATE.addr (Pg.core (th / 8) 1) (th % 8) 0 ∨ g.lo ≠ 28

/-- A thread's state moved by a command: the thread, the channels and the memory are the same. -/
theorem cmdMove_spec (b : Body) (th st : Nat) : Keeps [Pg.core (th / 8) 1, Pg.icu 0, Pg.icu 1] b (b.cmdMove th st) ∧
    (∀ j, (b.cmdMove th st).thr j = b.thr j) ∧ (b.cmdMove th st).grt.chans = b.grt.chans ∧
    (b.cmdMove th st).grt.restarting = b.grt.restarting ∧ (b.cmdMove th st).grt.halts = b.grt.halts ∧
    (b.cmdMove th st).tst th = st % 16 ∧
    ∀ (k n i j : Nat) (g : Fld), g.lo < 32 → pageOf (g.addr (Pg.core k n) i j) = Pg.core k n → offState th (Pg.core k n) g i j →
      (b.cmdMove th st).rd (Pg.core k n) g i j = b.rd (Pg.core k n) g i j := by
  obtain ⟨hk, hg⟩ := tmove_frame (b := b) (th := th) st
  have h : ∃ l, b.cmdMove th st = { b.tmove th st with grt := { (b.tmove th st).grt with dlFired := l } } := by
    unfold cmdMove
    split_ifs
    · exact ⟨(b.tmove th st).grt.dlFired, rfl⟩
    · exact ⟨_, rfl⟩
  obtain ⟨l, hl⟩ := h
  refine ⟨hl ▸ hk.of_eq rfl rfl rfl rfl, fun j => ?_, ?_, ?_, ?_, ?_, fun k n i j g hg hp ho => ?_⟩
  · rw [hl]; exact tmove_thr st j
  · rw [hl]; exact (congrArg GrtSt.chans hg : (b.tmove th st).grt.chans = _)
  · rw [hl]; exact (congrArg GrtSt.restarting hg : (b.tmove th st).grt.restarting = _)
  · rw [hl]; exact (congrArg GrtSt.halts hg : (b.tmove th st).grt.halts = _)
  · rw [hl]; exact tmove_state
  · rw [hl]; exact (rd_tmove hg hp).trans (rd_wr_ne _ _ (by decide) hg ho)

/-- A thread begun anew in a state. -/
theorem renew_spec (b : Body) (th st : Nat) : Renewed th b ((b.tclear th).cmdMove th st) ∧ ((b.tclear th).cmdMove th st).tst th = st % 16 ∧
    ∀ (k n i j : Nat) (g : Fld), offDrop g → pageOf (g.addr (Pg.core k n) i j) = Pg.core k n → offState th (Pg.core k n) g i j →
      ((b.tclear th).cmdMove th st).rd (Pg.core k n) g i j = b.rd (Pg.core k n) g i j := by
  obtain ⟨h, hrd⟩ := b.tclear_spec th
  obtain ⟨hk, hthr, hch, hres, hhalts, hst, hrd'⟩ := (b.tclear th).cmdMove_spec th st
  generalize (b.tclear th).cmdMove th st = c at *
  refine ⟨⟨?_, ?_, ?_, ?_, ?_, ?_, fun w hw => ?_, fun j hj => ?_, ?_, ?_, ?_⟩, hst, fun k n i j g hg hp ho =>
    (hrd' k n i j g hg.1 hp ho).trans (hrd _ _ _ _ hg)⟩
  · rw [hthr, h.regs]
  · rw [hthr, h.pc, trd, trd, hrd' _ _ _ _ _ (by decide) (thrPage (by decide) th) (.inr (by decide))]
  · rw [hthr, h.pend]
  · rw [hthr, h.binds]
  · rw [hthr, h.timer]
  · rw [hthr, h.restarts]
  · rw [win', hthr, chan, hch]
    exact h.wins w hw
  · rw [hthr, h.others j hj]
  · rw [hk.mem, h.mem]
  · rw [hres, h.restarting]
  · rw [hhalts, h.halts]

/-- The states of other threads. -/
theorem offState_ne {th j : Nat} (h : j ≠ th) : offState th (Pg.core (j / 8) 1) R.GRT_TH_STATE (j % 8) 0 := by
  refine .inl fun e => h ?_
  simp only [Fld.addr, R.GRT_TH_STATE, Pg.core] at e
  omega

theorem renew_others {b : Body} {th st j : Nat} (h : j ≠ th) : ((b.tclear th).cmdMove th st).tst j = b.tst j :=
  (b.renew_spec th st).2.2 _ _ _ _ _ (by unfold offDrop; decide) (thrPage (by decide) j) (offState_ne h)

/-! HALT (R364). -/

theorem thalt_idle {b : Body} {th cause : Nat} (h : b.tst th = TH_IDLE) : b.thalt th cause = b := if_pos h

theorem thalt_spec {b : Body} {th cause : Nat} (h : b.tst th ≠ TH_IDLE) (hc : cause < 16) :
    (b.thalt th cause).tst th = TH_HALTED ∧ (b.thalt th cause).trd th R.GRT_TH_CAUSE = cause ∧
    (((b.thalt th cause).thr th).wins = (b.thr th).wins ∧ ((b.thalt th cause).thr th).regs = (b.thr th).regs) ∧
    (isCust th = true → bitOn ((b.thalt th cause).thr (th / 8 * 8)).pend 27 = true) ∧
    (∀ j n, n ≠ 27 → bitOn ((b.thalt th cause).thr j).pend n = bitOn (b.thr j).pend n) ∧
    (∀ (k n i j : Nat) (g : Fld), offDrop g → pageOf (g.addr (Pg.core k n) i j) = Pg.core k n → offState th (Pg.core k n) g i j →
      (g.addr (Pg.core k n) i j ≠ R.GRT_TH_CAUSE.addr (Pg.core (th / 8) 1) (th % 8) 0 ∨ g.lo ≠ 24) →
      (b.thalt th cause).rd (Pg.core k n) g i j = b.rd (Pg.core k n) g i j) := by
  obtain ⟨hsg, -, hsr⟩ := b.stepDrop_rest th
  generalize hd : ((b.stepDrop th).setThr th { b.thr th with wait := none, steps := none }).twr th R.GRT_TH_CAUSE cause = d
  have hthr : ∀ j, d.thr j = if j = th then { b.thr th with wait := none, steps := none } else b.thr j := fun j => by
    rw [← hd]
    show ((b.stepDrop th).setThr th _).thr j = _
    rw [thr_setThr]
    split_ifs
    · rfl
    · rw [thr, hsg, thr]
  obtain ⟨-, hmthr, -, -, -, hst, hrd⟩ := d.cmdMove_spec th TH_HALTED
  have hcause : (d.cmdMove th TH_HALTED).trd th R.GRT_TH_CAUSE = cause := by
    rw [trd, hrd _ _ _ _ _ (by decide) (thrPage (by decide) th) (.inr (by decide)), ← hd, twr, rd_wr_self]
    exact Nat.mod_eq_of_lt hc
  have hframe : ∀ (k n i j : Nat) (g : Fld), offDrop g → pageOf (g.addr (Pg.core k n) i j) = Pg.core k n → offState th (Pg.core k n) g i j →
      (g.addr (Pg.core k n) i j ≠ R.GRT_TH_CAUSE.addr (Pg.core (th / 8) 1) (th % 8) 0 ∨ g.lo ≠ 24) →
      (d.cmdMove th TH_HALTED).rd (Pg.core k n) g i j = b.rd (Pg.core k n) g i j := fun k n i j g hg hp ho hca => by
    rw [hrd _ _ _ _ _ hg.1 hp ho, ← hd, twr, rd_wr_ne _ _ (by decide) hg.1 hca, setThr_rd, hsr _ _ _ _ hg]
  have hbit : ∀ j n, bitOn ((d.cmdMove th TH_HALTED).thr j).pend n = bitOn (b.thr j).pend n := fun j n => by
    rw [hmthr, hthr]
    split_ifs with hj
    · rw [hj]
    · rfl
  have heq : b.thalt th cause = if isCust th then (d.cmdMove th TH_HALTED).haltNote th else d.cmdMove th TH_HALTED := by
    rw [thalt, if_neg h, ← hd]
  have hnote : ∀ c : Body, (∀ q g i j, (c.haltNote th).rd q g i j = c.rd q g i j) ∧ (∀ j, ((c.haltNote th).thr j).wins = (c.thr j).wins ∧
      ((c.haltNote th).thr j).regs = (c.thr j).regs) ∧ ∀ j n, bitOn ((c.haltNote th).thr j).pend n =
        if j = th / 8 * 8 ∧ n = 27 then true else bitOn (c.thr j).pend n := fun c => by
    refine ⟨fun _ _ _ _ => rfl, fun j => ?_, fun j n => ?_⟩
    · rw [haltNote, setBit, thr_setThr]
      split_ifs with hj
      · rw [hj]; exact ⟨rfl, rfl⟩
      · exact ⟨rfl, rfl⟩
    · rw [haltNote, setBit_bitOn]
      rfl
  obtain ⟨hnr, hnt, hnb⟩ := hnote (d.cmdMove th TH_HALTED)
  have hwins : ((d.cmdMove th TH_HALTED).thr th).wins = (b.thr th).wins ∧ ((d.cmdMove th TH_HALTED).thr th).regs = (b.thr th).regs := by
    rw [hmthr, hthr, if_pos rfl]
    exact ⟨rfl, rfl⟩
  rw [heq]
  split_ifs with hcu
  · refine ⟨hst, hcause, ⟨(hnt th).1.trans hwins.1, (hnt th).2.trans hwins.2⟩, fun _ => ?_, fun j n hn => ?_, fun k n i j g hg hp ho hca =>
      (hnr _ _ _ _).trans (hframe k n i j g hg hp ho hca)⟩
    · rw [hnb, if_pos ⟨rfl, rfl⟩]
    · rw [hnb, if_neg fun h => hn h.2, hbit]
  · exact ⟨hst, hcause, hwins, fun h => absurd h hcu, fun j n _ => hbit j n, hframe⟩

end

end Body
end Sys2Proof.Machine
end

section
/-! O40, continued: the writes of the thread commands and the core restarts. -/

namespace Sys2Proof.Machine

theorem threadCmd_at : ∀ i < 8, PK.core1.plain (0x80 + 0x20 * i) = true ∧
    ((PK.core1.fieldsAt (0x80 + 0x20 * i)).find? fun x => x.1 == R.GRT_TH_CMD) = some (R.GRT_TH_CMD, i, 0) := by decide

/-- A command written to a thread (R364). -/
theorem Dev.write_threadCmd {s : State} {m th code : Nat} (h : th < 256) (hc : code < 8)
    (ht : s.takes m (R.GRT_TH_CMD.addr (Pg.core (th / 8) 1) (th % 8) 0)) :
    s.dev.write m (R.GRT_TH_CMD.addr (Pg.core (th / 8) 1) (th % 8) 0) code = { s.dev with body := s.dev.body.threadCmd th m code } := by
  obtain ⟨hpl, hf⟩ := threadCmd_at (th % 8) (by omega)
  have hp : PageIs (Pg.core (th / 8) 1) .core1 := pageIs_core1 (by omega)
  have ha : R.GRT_TH_CMD.addr (Pg.core (th / 8) 1) (th % 8) 0 = Pg.core (th / 8) 1 + (0x80 + 0x20 * (th % 8)) := by
    simp only [Fld.addr, R.GRT_TH_CMD]; omega
  have hcore : (Pg.core (th / 8) 1 + (0x80 + 0x20 * (th % 8))) / 0x4000 % 32 = th / 8 := by unfold Pg.core; omega
  have hth : 8 * (th / 8) + th % 8 = th := Nat.div_add_mod th 8
  have hcode : R.GRT_TH_CMD.of code = code := by simp only [Fld.of, bitField, R.GRT_TH_CMD]; omega
  rw [ha] at ht ⊢
  rw [Dev.write_store code ht hp (by omega) (by omega) (by omega) (by unfold Pg.core Pg.boot; omega) hpl]
  simp only [Body.pageStore, Body.storeCore1, hp.fieldAt (show 0x80 + 0x20 * (th % 8) < 0x1000 by omega) (by decide), hf, Option.map_some,
    hcore, hth, hcode]

namespace Body

section
variable {b : Body} {th m : Nat}

theorem tcmd_denied (h : tcmdOk th m = false) (f : Body → Body) : b.tcmd th m f = b.fire (Pg.core (th / 8) 0) R.GRT_EVT_DENIED := by
  rw [tcmd, h]; rfl

theorem tcmd_ok (h : tcmdOk th m = true) (f : Body → Body) : b.tcmd th m f = f b := by
  rw [tcmd, h]; rfl

/-- START (R364). -/
theorem tstart_spec (b : Body) (th : Nat) : (b.tstart th).tst th = TH_RUN ∧ ((b.tstart th).thr th).regs = [] ∧
    ((b.tstart th).thr th).pc = b.trd th R.GRT_TH_ENTRY := by
  unfold tstart
  dsimp only
  obtain ⟨-, hthr, -, -, -, hst, -⟩ := (b.setThr th { b.thr th with regs := [], pc := b.trd th R.GRT_TH_ENTRY, wait := none, steps := none }).cmdMove_spec
    th TH_RUN
  refine ⟨hst, ?_, ?_⟩ <;> rw [hthr, thr_setThr_self]

end

/-! A core restarted (R366). -/

/-- The state of a thread after its core's restart. -/
def anew (th : Nat) : Nat := if isCust th = true then TH_IDLE else TH_RUN

/-- A thread begun anew with its core. -/
def threadAnew (b : Body) (th : Nat) : Body := (b.tclear th).cmdMove th (anew th)

/-- The threads of a core begun anew, and the core asleep. -/
def coreAnew (b : Body) (c : Nat) : Body :=
  ((List.range 8).foldl (fun (b : Body) t => b.threadAnew (8 * c + t))
    { b with grt := { b.grt with restarting := insertNat c b.grt.restarting } }).coreSleep c

theorem threadAnew_eq (b : Body) (th : Nat) : (if isCust th = true then b.tkill th else b.trestart th) = b.threadAnew th := by
  unfold threadAnew anew tkill trestart
  split_ifs <;> rfl

theorem coreRestart_eq {b : Body} {c m : Nat} (h : m = Master.host ∨ m = Master.jtag) :
    b.coreRestart c m = (if c = 30 ∨ c = 31 then [30, 31] else [c]).foldl coreAnew b := by
  rw [coreRestart, if_neg (by rintro ⟨h1, h2⟩; exact h.elim h1 h2)]
  refine congrArg (fun f => List.foldl f b _) ?_
  funext b c
  refine congrArg (fun f => Body.coreSleep (List.foldl f _ _) c) ?_
  funext b t
  exact threadAnew_eq b (8 * c + t)

theorem threadsAnew_spec (b : Body) (c n : Nat) :
    let d := (List.range n).foldl (fun (b : Body) t => b.threadAnew (8 * c + t)) b
    d.grt.restarting = b.grt.restarting ∧ d.mem = b.mem ∧
    (∀ j, (∀ t < n, j ≠ 8 * c + t) → d.tst j = b.tst j) ∧ ∀ t < n, d.tst (8 * c + t) = anew (8 * c + t) := by
  induction n with
  | zero => exact ⟨rfl, rfl, fun _ _ => rfl, fun t ht => absurd ht (Nat.not_lt_zero t)⟩
  | succ n ih =>
    obtain ⟨hr, hm, ho, ht⟩ := ih
    dsimp only
    rw [List.range_succ, List.foldl_append, List.foldl_cons, List.foldl_nil]
    generalize (List.range n).foldl (fun (b : Body) t => b.threadAnew (8 * c + t)) b = d at hr hm ho ht ⊢
    obtain ⟨hn, hst, -⟩ := d.renew_spec (8 * c + n) (anew (8 * c + n))
    rw [threadAnew]
    refine ⟨hn.restarting.trans hr, hn.mem.trans hm, fun j hj => ?_, fun t hlt => ?_⟩
    · rw [renew_others (hj n (by omega)), ho j fun t h => hj t (by omega)]
    · by_cases h : t = n
      · subst h
        rw [hst]
        unfold anew
        split_ifs <;> rfl
      · rw [renew_others (by omega), ht t (by omega)]

/-- What changes only the ICU's pages leaves the registers of the cores. -/
theorem Keeps.core_rd {b c : Body} (h : Keeps [Pg.icu 0, Pg.icu 1] b c) {k n i j : Nat} {g : Fld} (hg : g.lo < 32)
    (hp : pageOf (g.addr (Pg.core k n) i j) = Pg.core k n) : c.rd (Pg.core k n) g i j = b.rd (Pg.core k n) g i j :=
  h.regs _ _ _ _ hg (core_notNoted _ _ hp) (by rw [hp]; exact core_ne_icu k n)

theorem coreSleep_tst (b : Body) (c j : Nat) : (b.coreSleep c).tst j = b.tst j :=
  Keeps.core_rd (b.coreSleep_frame c).1 (by decide) (thrPage (by decide) j)

/-- A core begun anew. -/
theorem coreAnew_spec (b : Body) (c : Nat) : c ∈ (b.coreAnew c).grt.restarting ∧
    (∀ k ∈ b.grt.restarting, k ∈ (b.coreAnew c).grt.restarting) ∧ (b.coreAnew c).mem = b.mem ∧
    (∀ j, j / 8 ≠ c → (b.coreAnew c).tst j = b.tst j) ∧ ∀ t < 8, (b.coreAnew c).tst (8 * c + t) = anew (8 * c + t) := by
  obtain ⟨hr, hm, ho, ht⟩ := threadsAnew_spec { b with grt := { b.grt with restarting := insertNat c b.grt.restarting } } c 8
  unfold coreAnew
  generalize (List.range 8).foldl (fun (b : Body) t => b.threadAnew (8 * c + t)) _ = d at *
  obtain ⟨hk, hg, -⟩ := d.coreSleep_frame c
  refine ⟨?_, fun k h => ?_, hk.mem.trans hm, fun j hj => (coreSleep_tst _ _ _).trans (ho j fun t h => by omega),
    fun t h => (coreSleep_tst _ _ _).trans (ht t h)⟩
  · rw [hg, hr]; exact mem_insertNat.mpr (.inl rfl)
  · rw [hg, hr]; exact mem_insertNat.mpr (.inr h)

/-- A core restarted: cores 30 and 31 together. -/
theorem coreRestart_spec {b : Body} {c m : Nat} (h : m = Master.host ∨ m = Master.jtag) :
    c ∈ (b.coreRestart c m).grt.restarting ∧ (b.coreRestart c m).mem = b.mem ∧
    ∀ t < 8, (b.coreRestart c m).tst (8 * c + t) = anew (8 * c + t) := by
  rw [coreRestart_eq h]
  clear h
  split_ifs with hc
  · obtain ⟨h1, h2, h3, h4, h5⟩ := b.coreAnew_spec 30
    obtain ⟨g1, g2, g3, g4, g5⟩ := (b.coreAnew 30).coreAnew_spec 31
    rw [List.foldl_cons, List.foldl_cons, List.foldl_nil]
    refine ⟨?_, g3.trans h3, fun t ht => ?_⟩
    · rcases hc with rfl | rfl
      · exact g2 _ h1
      · exact g1
    · rcases hc with rfl | rfl
      · rw [g4 _ (by omega), h5 t ht]
      · exact g5 t ht
  · obtain ⟨h1, h2, h3, h4, h5⟩ := b.coreAnew_spec c
    rw [List.foldl_cons, List.foldl_nil]
    exact ⟨h1, h3, h5⟩

/-- A restart by any other master does nothing. -/
theorem coreRestart_other {b : Body} {c m : Nat} (h : m ≠ Master.host) (h' : m ≠ Master.jtag) : b.coreRestart c m = b := if_pos ⟨h, h'⟩

/-! The end of a core restart (R32, R366). -/

/-- A core whose restart has ended. -/
def coreBack (b : Body) (c : Nat) : Body := ({ b with grt := { b.grt with restarting := b.grt.restarting.erase c } }).coreSleep c

theorem coreBack_spec (b : Body) (c : Nat) : Keeps [Pg.icu 0, Pg.icu 1] b (b.coreBack c) ∧
    (b.coreBack c).grt.restarting = b.grt.restarting.erase c := by
  unfold coreBack
  generalize hd : ({ b with grt := { b.grt with restarting := b.grt.restarting.erase c } } : Body) = d
  have hb : Keeps [Pg.icu 0, Pg.icu 1] b d := hd ▸ .of_eq (.refl b) rfl rfl rfl rfl
  obtain ⟨hk, hg, -⟩ := d.coreSleep_frame c
  exact ⟨hb.trans hk, (congrArg GrtSt.restarting hg).trans (hd ▸ rfl)⟩

theorem coreRestartDone_one {b : Body} {c : Nat} (h : c ∈ b.grt.restarting) (hc : c < 30) : b.coreRestartDone c = b.coreBack c := by
  rw [coreRestartDone, if_neg (by simpa using h)]
  simp only [show ¬ (c = 30 ∨ c = 31) by omega, if_false]
  rfl

theorem coreRestartDone_pair {b : Body} {c : Nat} (h : c ∈ b.grt.restarting) (hc : c = 30 ∨ c = 31) :
    b.coreRestartDone c = ((b.coreBack 30).coreBack 31).govRestart := by
  rw [coreRestartDone, if_neg (by simpa using h)]
  simp only [hc, if_true]
  rfl

/-! The Governor restarted. -/

section
variable {b : Body}

theorem govModeTake_gov (b : Body) (n : Nat) : (b.govModeTake n).gov = b.gov ∧ (b.govModeTake n).grt = b.grt := by
  unfold govModeTake
  split_ifs <;> simp

theorem free_gov (b : Body) (n : Nat) : (b.free n).2.gov = b.gov ∧ (b.free n).2.grt = b.grt := ⟨rfl, rfl⟩

theorem free_regs (b : Body) (n : Nat) : (b.free n).2.regs = b.regs := rfl

theorem fireLasting_gov (b : Body) (p n : Nat) : (b.fireLasting p n).gov = b.gov ∧ (b.fireLasting p n).grt = b.grt := by simp

theorem logRoom_gov (b : Body) : b.logRoom.gov = b.gov ∧ b.logRoom.grt = b.grt := by
  unfold logRoom
  split_ifs <;> simp

theorem tellHigh_gov (b : Body) : b.tellHigh.gov = b.gov ∧ b.tellHigh.grt = b.grt := by
  unfold tellHigh
  split_ifs
  · exact b.fireLasting_gov _ _
  · exact ⟨rfl, rfl⟩

/-- A body as it is, or with an entry RESUME of a loop in its log. -/
def ResumeEntered (n : Nat) (b d : Body) : Prop := d = b ∨ ∃ (c : Body) (e : LogEntry),
  (c.gov = b.gov ∧ c.grt = b.grt ∧ c.regs = b.regs) ∧ d = (c.logRoom.logEntered e RSN_RESUME n).tellHigh

theorem logWrite_entered {b c : Body} {n inst action input bound old new : Nat} {adv : Bool} (hc : c.gov = b.gov ∧ c.grt = b.grt ∧ c.regs = b.regs) :
    ResumeEntered n b (c.logWrite n inst adv action RSN_RESUME input bound old new) := by
  obtain ⟨e, he⟩ := c.logWrite_eq n inst adv action RSN_RESUME input bound old new
  exact .inr ⟨c, e, hc, he⟩

theorem govResumeLog_entered (b : Body) (n : Nat) : ResumeEntered n b (b.govResumeLog n) := by
  unfold govResumeLog
  split_ifs
  · dsimp only
    generalize hc : (((((b.free 7).2.free 32).2.free 32).2.free 32).2.free 32).2 = c
    have hcb : c.gov = b.gov ∧ c.grt = b.grt ∧ c.regs = b.regs := by
      rw [← hc]
      simp only [free_gov, free_regs, and_self]
    exact logWrite_entered hcb
  · exact .inl rfl

theorem logPut_rd (b : Body) (e : LogEntry) (g : Fld) (i : Nat) : (b.logPut e).rd Pg.governor g i = b.rd Pg.governor g i := by
  simp only [rd, logPut]

theorem logEntered_gov (b : Body) (e : LogEntry) (r n : Nat) : (b.logEntered e r n).gov.frozen = b.gov.frozen ∧ (b.logEntered e r n).grt = b.grt := by
  simp [logEntered, logPut]

theorem govResumeLog_rest (b : Body) {n : Nat} : (b.govResumeLog n).gov.frozen = b.gov.frozen ∧ (b.govResumeLog n).grt = b.grt ∧
    ∀ k < 6, k ≠ n → (b.govResumeLog n).rd Pg.governor R.GOV_LAST_REASON k = b.rd Pg.governor R.GOV_LAST_REASON k := by
  obtain h | ⟨c, e, ⟨hg, hgr, hr⟩, h⟩ := b.govResumeLog_entered n
  · rw [h]; exact ⟨rfl, rfl, fun _ _ _ => rfl⟩
  · obtain ⟨g1, g2⟩ := (c.logRoom.logEntered e RSN_RESUME n).tellHigh_gov
    obtain ⟨l1, l2⟩ := c.logRoom_gov
    obtain ⟨f1, f2⟩ := c.logRoom.logEntered_gov e RSN_RESUME n
    refine ⟨?_, ?_, fun k hk hkn => ?_⟩
    · rw [h, g1, f1, l1, hg]
    · rw [h, g2, f2, l2, hgr]
    · have hblk : R.GOV_LAST_REASON.lo < 32 ∧ 0x80 ≤ R.GOV_LAST_REASON.off ∧ R.GOV_LAST_REASON.off + R.GOV_LAST_REASON.stride * k < 0x1000 := by
        simp only [R.GOV_LAST_REASON]; omega
      rw [h, tellHigh_rd _ hblk, logEntered, grd_wr _ (by decide) (by decide) (.inl (by simp only [R.GOV_LAST_REASON]; omega)),
        grd_wr _ (by decide) (by decide) (.inr (by decide)), logPut_rd, c.logRoom_rd hblk (by simp only [R.GOV_LAST_REASON]; omega)]
      simp only [rd, hr]

theorem govModeTake_rd (b : Body) (n : Nat) {g : Fld} {i : Nat} (hg : g.lo < 32) (h : g.off + g.stride * i ≠ 0xA0 + 4 * n ∨ g.lo ≠ 0) :
    (b.govModeTake n).rd Pg.governor g i = b.rd Pg.governor g i := by
  unfold govModeTake
  split_ifs
  · rfl
  · exact b.grd_wr (by decide) hg (h.imp (fun h e => h (by rw [← e]; rfl)) fun h e => h (by rw [← e]; rfl))

/-- The modes taken by the loops up to one. -/
theorem modesTaken_spec (b : Body) {n : Nat} (hn : n ≤ 6) :
    let c := (List.range n).foldl (fun b n => b.govModeTake n) b
    c.gov = b.gov ∧ c.grt = b.grt ∧
    (∀ k < n, b.loopFree k → c.rd Pg.governor R.GOV_MODE_EFF k = b.rd Pg.governor R.GOV_MODE k % 2) ∧
    ∀ (g : Fld) i, g.lo < 32 → (∀ k < n, g.off + g.stride * i ≠ 0xA0 + 4 * k ∨ g.lo ≠ 0) → c.rd Pg.governor g i = b.rd Pg.governor g i := by
  induction n with
  | zero => exact ⟨rfl, rfl, fun k hk => absurd hk (Nat.not_lt_zero k), fun _ _ _ _ => rfl⟩
  | succ n ih =>
    obtain ⟨hg, hgr, heff, ho⟩ := ih (by omega)
    dsimp only
    rw [List.range_succ, List.foldl_append, List.foldl_cons, List.foldl_nil]
    generalize (List.range n).foldl (fun b n => b.govModeTake n) b = c at hg hgr heff ho ⊢
    obtain ⟨h1, -, -, -⟩ := c.govModeTake_spec (loop := n) (by omega)
    obtain ⟨e1, e2⟩ := c.govModeTake_gov n
    have hmode : ∀ k < 6, c.rd Pg.governor R.GOV_MODE k = b.rd Pg.governor R.GOV_MODE k := fun k hk =>
      ho _ _ (by decide) fun j hj => .inl (by simp only [R.GOV_MODE]; omega)
    have hbusy : ∀ k < 6, c.rd Pg.governor R.GOV_BUSY k = b.rd Pg.governor R.GOV_BUSY k := fun k hk =>
      ho _ _ (by decide) fun j hj => .inr (by decide)
    refine ⟨e1.trans hg, e2.trans hgr, fun k hk hf => ?_, fun g i hlo hne => (c.govModeTake_rd n hlo (hne n (by omega))).trans
      (ho g i hlo fun k hk => hne k (by omega))⟩
    by_cases hkn : k = n
    · subst hkn
      rw [h1 ⟨hg ▸ hf.1, (hbusy k (by omega)).trans hf.2⟩, hmode k (by omega)]
    · rw [c.govModeTake_rd n (by decide) (.inl (by simp only [R.GOV_MODE_EFF]; omega)), heff k (by omega) hf]

/-- RESUME logged by the loops up to one. -/
theorem resumesLogged_spec (b : Body) {n : Nat} (hn : n ≤ 6) :
    let c := (List.range n).foldl (fun b n => b.govResumeLog n) b
    c.gov.frozen = b.gov.frozen ∧ c.grt = b.grt ∧ (∀ g i, offLog g i → c.rd Pg.governor g i = b.rd Pg.governor g i) ∧
    ∀ k < n, b.rd Pg.governor R.GOV_LOG_EN k = 1 → c.rd Pg.governor R.GOV_LAST_REASON k = RSN_RESUME := by
  induction n with
  | zero => exact ⟨rfl, rfl, fun _ _ _ => rfl, fun k hk => absurd hk (Nat.not_lt_zero k)⟩
  | succ n ih =>
    obtain ⟨hg, hgr, ho, hlog⟩ := ih (by omega)
    dsimp only
    rw [List.range_succ, List.foldl_append, List.foldl_cons, List.foldl_nil]
    generalize (List.range n).foldl (fun b n => b.govResumeLog n) b = c at hg hgr ho hlog ⊢
    have hn6 : n < 6 := by omega
    obtain ⟨h1, h2, -⟩ := c.govResumeLog_resumed hn6
    obtain ⟨e1, e2, e3⟩ := c.govResumeLog_rest (n := n)
    refine ⟨e1.trans hg, e2.trans hgr, fun g i h => (h1 g i h).trans (ho g i h), fun k hk he => ?_⟩
    by_cases hkn : k = n
    · subst hkn
      refine (h2 ((ho _ _ ?_).trans he)).2
      unfold offLog
      simp only [R.GOV_LOG_EN]
      omega
    · rw [e3 k (by omega) hkn, hlog k (by omega) he]

/-- The Governor brought back (R32): its heartbeat counts, the free loops take their modes, and each that logs shows RESUME. -/
theorem govRestart_spec (b : Body) : b.govRestart.gov.frozen = false ∧ b.govRestart.grt = b.grt ∧
    b.govRestart.rd Pg.governor R.GOV_HEARTBEAT = (b.rd Pg.governor R.GOV_HEARTBEAT + 1) % 2 ^ 32 ∧
    ∀ n < 6, (b.rd Pg.governor R.GOV_BUSY n = 0 → b.govRestart.rd Pg.governor R.GOV_MODE_EFF n = b.rd Pg.governor R.GOV_MODE n % 2) ∧
      (b.rd Pg.governor R.GOV_LOG_EN n = 1 → b.govRestart.rd Pg.governor R.GOV_LAST_REASON n = RSN_RESUME) := by
  unfold govRestart
  generalize ha : ({ b with gov := { b.gov with frozen := false } } : Body) = a
  have hafr : a.gov.frozen = false ∧ a.grt = b.grt := ha ▸ ⟨rfl, rfl⟩
  have hard : ∀ g i, a.rd Pg.governor g i = b.rd Pg.governor g i := fun g i => by rw [← ha]; simp only [rd]
  obtain ⟨hg, hgr, heff, ho⟩ := (a.inc Pg.governor R.GOV_HEARTBEAT).modesTaken_spec (Nat.le_refl 6)
  dsimp only at hg hgr heff ho ⊢
  generalize (List.range 6).foldl (fun b n => b.govModeTake n) (a.inc Pg.governor R.GOV_HEARTBEAT) = d at *
  obtain ⟨rf, rg, rr, rl⟩ := d.resumesLogged_spec (Nat.le_refl 6)
  have hinc : ∀ {g i}, g.lo < 32 → g.off + g.stride * i ≠ 0xD0 → (a.inc Pg.governor R.GOV_HEARTBEAT).rd Pg.governor g i = b.rd Pg.governor g i :=
    fun hlo h => (a.grd_wr (by decide) hlo (.inl fun e => h (by rw [← e]; rfl))).trans (hard _ _)
  have hincg : (a.inc Pg.governor R.GOV_HEARTBEAT).gov = a.gov ∧ (a.inc Pg.governor R.GOV_HEARTBEAT).grt = a.grt := by simp [inc]
  refine ⟨?_, ?_, ?_, fun n hn => ⟨fun hb => ?_, fun hl => ?_⟩⟩
  · rw [rf, hg, hincg.1, hafr.1]
  · rw [rg, hgr, hincg.2, hafr.2]
  · rw [rr _ _ (by unfold offLog; decide), ho _ _ (by decide) fun k hk => .inl (by simp only [R.GOV_HEARTBEAT]; omega)]
    exact (rd_wr_self ..).trans (by rw [hard]; rfl)
  · rw [rr _ _ (by unfold offLog; simp only [R.GOV_MODE_EFF]; omega), heff n hn ⟨by rw [hincg.1, hafr.1], ?_⟩,
      hinc (by decide) (by simp only [R.GOV_MODE]; omega)]
    rw [hinc (by decide) (by simp only [R.GOV_BUSY]; omega), hb]
  · refine rl n hn ?_
    rw [ho _ _ (by decide) fun k hk => .inr (by decide), hinc (by decide) (by simp only [R.GOV_LOG_EN]; omega), hl]

end

end Body

/-! The commands in a state. -/

section
variable {s : State} {th m : Nat}

/-- A register of a thread's block reads as the body has it. -/
theorem State.withBody_trd {c : Body} (th : Nat) {f : Fld} (hf : f.lo < 32 := by decide) (h : f.off < 0x100 ∧ f.stride = 0x20 := by decide) :
    (s.withBody c).reg (Pg.core (th / 8) 1) f (th % 8) = c.trd th f :=
  State.withBody_reg hf (core_notNoted _ _ (Body.thrPage h th))

/-- The thread commands with the codes they write. -/
inductive Instr.ThreadCmd (th m : Nat) : Instr → Nat → Prop
  | start : ThreadCmd th m (.threadStart th m) 1
  | restart : ThreadCmd th m (.threadRestart th m) 2
  | halt : ThreadCmd th m (.threadHalt th m) 3
  | kill : ThreadCmd th m (.threadKill th m) 4

theorem Instr.ThreadCmd.exec_eq {c : Instr} {code : Nat} (hc : Instr.ThreadCmd th m c code) (h : th < 256)
    (ht : s.takes m (R.GRT_TH_CMD.addr (Pg.core (th / 8) 1) (th % 8) 0)) :
    exec c s = .next (s.withBody (s.dev.body.threadCmd th m code)) := by
  have hok : (decide (th < 256) && Master.known m) = true := by rw [ht.known, decide_eq_true h]; rfl
  have hrun : ∀ n < 8, (s.live (decide (th < 256) && Master.known m) [2] fun d => d.write m (R.GRT_TH_CMD.addr (Pg.core (th / 8) 1) (th % 8) 0) n) =
      .next (s.withBody (s.dev.body.threadCmd th m n)) := fun n hn => State.live_withBody hok ht.runs (Dev.write_threadCmd h hn ht)
  cases hc with
  | start => exact hrun 1 (by decide)
  | restart => exact hrun 2 (by decide)
  | halt => exact hrun 3 (by decide)
  | kill => exact hrun 4 (by decide)

theorem Instr.ThreadCmd.denied {c : Instr} {code : Nat} (hc : Instr.ThreadCmd th m c code) (h : Body.tcmdOk th m = false) (b : Body) :
    b.threadCmd th m code = b.fire (Pg.core (th / 8) 0) R.GRT_EVT_DENIED := by
  cases hc with
  | start => rw [Body.threadCmd, Body.threadStart, Body.tcmd_denied h]
  | restart => rw [Body.threadCmd, Body.threadRestart, Body.tcmd_denied h]
  | halt => rw [Body.threadCmd, Body.threadHalt, Body.tcmd_denied h]
  | kill => rw [Body.threadCmd, Body.threadKill, Body.tcmd_denied h]

/-- What follows an effect restarts no core. -/
theorem State.withBody_restarting {c : Body} : (s.withBody c).dev.body.grt.restarting = c.grt.restarting :=
  (Body.note_chans _ _).2.2.1

theorem State.keeps_self (s : State) (ps : List Nat) : s.keeps s ps :=
  ⟨fun _ _ _ _ _ _ _ => rfl, rfl, rfl, rfl, rfl⟩

/-- What a command that is refused leaves of its thread. -/
theorem State.fired_thread {e : Nat} (he : e < 32) :
    let t := s.withBody (s.dev.body.fire (Pg.core (th / 8) 0) e)
    t.evt (Pg.core (th / 8) 0) e ∧
    t.reg (Pg.core (th / 8) 1) R.GRT_TH_STATE (th % 8) = s.reg (Pg.core (th / 8) 1) R.GRT_TH_STATE (th % 8) ∧
    (t.dev.body.thr th).regs = (s.dev.body.thr th).regs ∧ (t.dev.body.thr th).pc = (s.dev.body.thr th).pc := by
  have hpage : pageOf (R.GRT_TH_STATE.addr (Pg.core (th / 8) 1) (th % 8) 0) = Pg.core (th / 8) 1   := Body.thrPage (by decide) th
  have hthr : (s.dev.body.fire (Pg.core (th / 8) 0) e).thr th = s.dev.body.thr th := by simp [Body.thr]
  refine ⟨(State.withBody_evt he (core_notNoted (th / 8) 0 (by unfold pageOf Pg.core; omega))).mpr (Body.fire_pend _ he (core_aligned _ _)),
    (State.withBody_trd th).trans ?_, ?_, ?_⟩
  · exact ((Body.Keeps.refl s.dev.body).fire he (core_aligned _ _) (List.mem_singleton_self _)).regs _ _ _ _ (by decide) (core_notNoted _ _ hpage)
      (by rw [hpage]; simp [Pg.core])
  · rw [State.withBody_thr_regs, hthr]
  · rw [(State.withBody_thr th).1, hthr]

/-- GRT_CORE_RESTART written (R366). -/
theorem exec_coreRestart {c : Nat} (hc : c < 32) (ht : s.takes m (Pg.core c 0 + 0x80)) :
    exec (.coreRestart c m) s = .next (s.withBody (s.dev.body.coreRestart c m)) := by
  have hp := pageIs_core0 hc
  obtain ⟨w, hw, hput⟩ := Dev.put_word 1 (f := R.GRT_CORE_RESTART) (i := 0) ht hp (by decide) (by decide) (by decide)
    (by unfold Pg.core Pg.boot; omega) (by decide) rfl (by decide)
  have hof : R.GRT_CORE_RESTART.of w = 1 := (hw (R.GRT_CORE_RESTART, 0, 0) (by decide)).trans (Body.putVal_self ..)
  have hcore : (Pg.core c 0 + 0x80) / 0x4000 % 32 = c := by unfold Pg.core; omega
  have hf : (fieldAt (Pg.core c 0 + 0x80) R.GRT_CORE_RESTART).isSome = true := by
    rw [hp.fieldAt (by decide) (by decide)]; decide
  refine State.live_withBody (by rw [ht.known, decide_eq_true hc]; rfl) ht.runs (hput.trans ?_)
  simp only [Body.pageStore, Body.storeCore0, goes, hf, hof, hcore, beq_self_eq_true, Bool.and_self, if_true]

end

end Sys2Proof.Machine

namespace Sys2Proof
open Machine

/-- Settles O40: a command's write is the command's effect on its thread, a core restart is one renewal for each thread, and the end of one brings the
Governor back. -/
theorem threadCommands : Obligations.ThreadCommands := by
  unfold Obligations.ThreadCommands
  refine ⟨fun th m s hth ht => ⟨fun hno c hc => ?_, fun hok => ⟨fun hidle hload => ?_, fun hbad => ?_, fun c st hc => ?_, fun hrun => ?_⟩⟩,
    fun c m s hc ht => ⟨fun hm => ?_, fun h1 h2 => ?_⟩, fun c s hr hc => ⟨fun h30 => ?_, fun h30 => ?_⟩⟩
  · obtain ⟨code, hm⟩ : ∃ code, Instr.ThreadCmd th m c code := by
      simp only [List.mem_cons, List.not_mem_nil, or_false] at hc
      obtain rfl | rfl | rfl | rfl := hc
      · exact ⟨1, .start⟩
      · exact ⟨2, .restart⟩
      · exact ⟨3, .halt⟩
      · exact ⟨4, .kill⟩
    exact ⟨_, (hm.exec_eq hth ht).trans (by rw [hm.denied hno]), State.fired_thread (by decide)⟩
  · have heff : s.dev.body.threadCmd th m 1 = s.dev.body.tstart th := by
      rw [Body.threadCmd, Body.threadStart, Body.tcmd_ok hok]
      exact if_neg fun h => h.elim (fun h => h hidle) fun h => hload (List.contains_iff_mem.mp h)
    obtain ⟨h1, h2, h3⟩ := s.dev.body.tstart_spec th
    exact ⟨_, (Instr.ThreadCmd.start.exec_eq hth ht).trans (by rw [heff]), (State.withBody_trd th).trans h1,
      by rw [State.withBody_thr_regs, h2], (State.withBody_thr th).1.trans h3⟩
  · have heff : s.dev.body.threadCmd th m 1 = s.dev.body.fire (Pg.core (th / 8) 0) R.GRT_EVT_BADCFG := by
      rw [Body.threadCmd, Body.threadStart, Body.tcmd_ok hok]
      exact if_pos (hbad.imp_right List.contains_iff_mem.mpr)
    exact ⟨_, (Instr.ThreadCmd.start.exec_eq hth ht).trans (by rw [heff]), State.fired_thread (by decide)⟩
  · obtain ⟨code, hm, heff⟩ : ∃ code, Instr.ThreadCmd th m c code ∧ s.dev.body.threadCmd th m code = (s.dev.body.tclear th).cmdMove th st := by
      obtain ⟨rfl, rfl⟩ | ⟨rfl, rfl⟩ := hc
      · exact ⟨2, .restart, by rw [Body.threadCmd, Body.threadRestart, Body.tcmd_ok hok, Body.trestart]⟩
      · exact ⟨4, .kill, by rw [Body.threadCmd, Body.threadKill, Body.tcmd_ok hok, Body.tkill]⟩
    have hst16 : st % 16 = st := by obtain ⟨-, rfl⟩ | ⟨-, rfl⟩ := hc <;> rfl
    refine ⟨_, (hm.exec_eq hth ht).trans (by rw [heff]), ?_⟩
    obtain ⟨hn, hst, -⟩ := s.dev.body.renew_spec th st
    generalize (s.dev.body.tclear th).cmdMove th st = d at hn hst ⊢
    obtain ⟨hpc, -, hbinds, htimer, -, hwins, -⟩ := State.withBody_thr (s := s) (c := d) th
    refine ⟨(State.withBody_trd th).trans (hst.trans hst16), by rw [State.withBody_thr_regs, hn.regs],
      hpc.trans (hn.pc.trans (State.withBody_trd th).symm), hbinds.trans hn.binds, htimer.trans hn.timer, fun n _ hn25 => ?_, fun w hw => ?_⟩
    · rw [State.withBody_bitOn th hn25, hn.pend]
      simp [bitOn]
    · rw [Body.win', hwins, Body.chan, State.withBody_chans]
      exact hn.wins w hw
  · have heff : s.dev.body.threadCmd th m 3 = s.dev.body.thalt th CS_COMMAND := by
      rw [Body.threadCmd, Body.threadHalt, Body.tcmd_ok hok]
    refine ⟨_, (Instr.ThreadCmd.halt.exec_eq hth ht).trans (by rw [heff]), ?_⟩
    obtain ⟨hst, hcause, ⟨hw, hre⟩, hb, -⟩ := Body.thalt_spec (cause := CS_COMMAND) hrun (by decide)
    refine ⟨(State.withBody_trd th).trans hst,
      (State.withBody_trd th).trans hcause, (State.withBody_thr th).2.2.2.2.2.1.trans hw, by rw [State.withBody_thr_regs, hre], fun hcu => ?_⟩
    rw [State.withBody_bitOn _ (by decide)]
    exact hb hcu
  · refine ⟨_, exec_coreRestart hc ht, ?_⟩
    obtain ⟨h1, h2, h3⟩ := Body.coreRestart_spec (b := s.dev.body) (c := c) hm
    generalize s.dev.body.coreRestart c m = d at h1 h2 h3 ⊢
    refine ⟨by rw [State.withBody_restarting]; exact h1, State.withBody_mem.trans h2, fun i hi => ?_⟩
    have hreg := State.withBody_trd (s := s) (c := d) (8 * c + i) (f := R.GRT_TH_STATE)
    rw [show (8 * c + i) / 8 = c by omega, show (8 * c + i) % 8 = i by omega] at hreg
    exact hreg.trans (h3 i hi)
  · have hs := exec_coreRestart hc ht
    rw [Body.coreRestart_other h1 h2, State.withBody_self] at hs
    exact ⟨s, hs, rfl, s.keeps_self _⟩
  · refine ⟨_, State.body_withBody (by rw [decide_eq_true]; omega) hr (Body.coreRestartDone_one hc h30), ?_⟩
    obtain ⟨hk, hg⟩ := s.dev.body.coreBack_spec c
    exact ⟨by rw [State.withBody_restarting, hg], State.withBody_mem.trans hk.mem⟩
  · refine ⟨_, State.body_withBody (by rw [decide_eq_true]; omega) hr (Body.coreRestartDone_pair hc h30), ?_⟩
    obtain ⟨hk, hg⟩ := s.dev.body.coreBack_spec 30
    obtain ⟨hk', hg'⟩ := (s.dev.body.coreBack 30).coreBack_spec 31
    have hrd : ∀ g i, g.lo < 32 → 0x80 ≤ g.off → g.off + g.stride * i < 0x1000 →
        ((s.dev.body.coreBack 30).coreBack 31).rd Pg.governor g i = s.reg Pg.governor g i := fun g i hlo h1 h2 => by
      have ha : g.addr Pg.governor i 0 = Pg.governor + (g.off + g.stride * i) := by simp only [Fld.addr]; omega
      refine (hk.trans hk').regs _ _ _ _ hlo ?_ ?_
      · rw [ha]; exact pageIs_governor.notNoted h2 (by decide) (by decide)
      · rw [ha, pageIs_governor.pageOf h2]; decide
    generalize (s.dev.body.coreBack 30).coreBack 31 = d at hg' hrd ⊢
    obtain ⟨hfr, hgrt, hhb, hl⟩ := d.govRestart_spec
    generalize d.govRestart = e at hfr hgrt hhb hl ⊢
    refine ⟨by rw [State.withBody_restarting, hgrt, hg', hg], State.withBody_gov (hhb.trans (by rw [hrd _ _ (by decide) (by decide) (by decide)])),
      by simpa using hfr, fun n hn => ⟨fun hb hm => ?_, fun hlog => ?_⟩⟩
    · rw [← hrd _ _ (by decide) (by decide) (by simp only [R.GOV_BUSY]; omega)] at hb
      refine State.withBody_gov (((hl n hn).1 hb).trans ?_) (by decide) (by simp only [R.GOV_MODE_EFF]; omega)
      rw [hrd _ _ (by decide) (by decide) (by simp only [R.GOV_MODE]; omega), Nat.mod_eq_of_lt hm]
    · rw [← hrd _ _ (by decide) (by decide) (by simp only [R.GOV_LOG_EN]; omega)] at hlog
      exact State.withBody_gov ((hl n hn).2 hlog) (by decide) (by simp only [R.GOV_LAST_REASON]; omega)

end Sys2Proof
end

section
/-! O41: waits end, timers expire, and thread 0 applies its policies (R367 to R369, R378, R380). -/

namespace Sys2Proof.Machine

namespace Body

section
variable {b : Body} {th : Nat}

/-! A wait that is satisfied (R369). -/

/-- A thread whose wait has ended with a value in its register. -/
def woken (b : Body) (th d v : Nat) : Body :=
  (((b.setG th d v).nextPc th).setThr th { (((b.setG th d v).nextPc th).thr th) with wait := none }).tmove th TH_RUN

theorem woken_spec (b : Body) (th d v : Nat) : (b.woken th d v).tst th = TH_RUN ∧ (b.woken th d v).grt.chans = b.grt.chans ∧
    (b.woken th d v).thr th = { b.thr th with
      regs := if d = 0 then (b.thr th).regs else Sp.set 0 (b.thr th).regs d (v % 2 ^ 64), pc := ((b.thr th).pc + 4) % 2 ^ 64, wait := none } := by
  unfold woken
  refine ⟨tmove_state, ?_, ?_⟩
  · rw [(tmove_frame _).2]
    exact b.setG_grt th d v
  · rw [tmove_thr, thr_setThr_self, nextPc, thr_setThr_self, setG_thr]

theorem waitTry_wakes {w : Waiting} {c : Body} {v : Nat} (h : b.tst th = TH_WAIT) (hw : (b.thr th).wait = some w)
    (ht : b.waitTry th w = some ((c.setG th w.d v).nextPc th)) : b.threadWake th = c.woken th w.d v := by
  rw [threadWake, if_neg (by simp [h]), hw]
  dsimp only
  rw [ht]
  rfl

theorem waitTry_waits {w : Waiting} (hw : (b.thr th).wait = some w) (ht : b.waitTry th w = none) : b.threadWake th = b := by
  rw [threadWake]
  split_ifs
  · rfl
  · rw [hw]
    dsimp only
    rw [ht]

/-- A wait for events with some pending takes them. -/
theorem waitTry_events {w : Waiting} (h : w.on = .events) (hv : b.pendBits th &&& b.effMask th ≠ 0) :
    b.waitTry th w = some (((b.setThr th { b.thr th with pend := (b.thr th).pend - ((b.thr th).pend &&& (b.pendBits th &&& b.effMask th)) }).setG th w.d
      (b.pendBits th &&& b.effMask th)).nextPc th) := by
  rw [waitTry, h]
  exact if_neg hv

theorem waitTry_reserve {w : Waiting} {ch : Nat} {sl : Nat} {rest : List Nat} (h : w.on = .reserve ch) (hf : (b.chan ch).free = sl :: rest) :
    b.waitTry th w = some ((((b.chReserve th ch).1).setG th w.d (ext32 w.sx (b.chReserve th ch).2)).nextPc th) := by
  rw [waitTry, h]
  exact if_neg (by simp [hf])

theorem waitTry_acquire {w : Waiting} {ch : Nat} {x : Nat × Nat} {rest : List (Nat × Nat)} (h : w.on = .acquire ch)
    (hf : (b.chan ch).ready = x :: rest) :
    b.waitTry th w = some ((((b.chAcquire th ch).1).setG th w.d (ext32 w.sx (b.chAcquire th ch).2)).nextPc th) := by
  rw [waitTry, h]
  exact if_neg (by simp [hf])

theorem freeWin_lt {k : Nat} (h : b.freeWin th = some k) : k < 4 := List.mem_range.mp (List.mem_of_find?_eq_some h)

theorem ext32_small {sx : Bool} {v : Nat} (h : v < 2 ^ 31) : ext32 sx v = v := by
  unfold ext32 encSigned signed
  split_ifs <;> omega

/-! A timer that expires (R367). -/

theorem timerExpire_early {at_ : Nat} (h : (b.thr th).timer = some at_) (hc : b.clk < at_) : b.timerExpire th = b := by
  rw [timerExpire, h]
  exact if_pos hc

theorem timerExpire_due {at_ : Nat} (h : (b.thr th).timer = some at_) (hc : at_ ≤ b.clk) :
    b.timerExpire th = (b.setThr th { b.thr th with timer := none }).setBit th 24 := by
  rw [timerExpire, h]
  exact if_neg (Nat.not_lt.mpr hc)

/-! Latched bits taken by thread 0 (R378). -/

theorem takeBit_bitOn (b : Body) (t n j m : Nat) :
    bitOn ((b.takeBit t n).thr j).pend m = if j = t ∧ m = n then false else bitOn (b.thr j).pend m := by
  rw [takeBit, thr_setThr]
  by_cases h : j = t
  · simp only [h, if_true, bitOn_setBitField, true_and]
    rfl
  · simp [h]

theorem takeBit_sameThr (t n j : Nat) : ((b.takeBit t n).thr j).restarts = (b.thr j).restarts := by
  rw [takeBit, thr_setThr]
  split_ifs with h
  · rw [h]
  · rfl

/-- Thread 0 takes note of a halted customer thread. -/
def haltTaken (b : Body) (th : Nat) : Body := ({ b with grt := { b.grt with halts := b.grt.halts.erase th } } : Body).takeBit (8 * (th / 8)) 27

theorem haltTaken_spec (b : Body) (th : Nat) : (∀ p f i j, (b.haltTaken th).rd p f i j = b.rd p f i j) ∧ (b.haltTaken th).clk = b.clk ∧
    (∀ j, ((b.haltTaken th).thr j).restarts = (b.thr j).restarts) ∧ bitOn ((b.haltTaken th).thr (8 * (th / 8))).pend 27 = false := by
  refine ⟨fun _ _ _ _ => rfl, rfl, fun j => takeBit_sameThr _ _ _, ?_⟩
  rw [haltTaken, takeBit_bitOn, if_pos ⟨rfl, rfl⟩]

/-- The restarts of a thread within the last second (R378). -/
def recent (b : Body) (th : Nat) : List Nat := (b.thr th).restarts.filter fun r => decide (b.clk < r + 1000000000)

section
variable (hr : b.supvRuns (th / 8) = true) (hcu : isCust th = true) (hst : b.tst th = TH_HALTED) (hh : th ∈ b.grt.halts)
include hr hcu hst hh

theorem faultPolicy_eq : b.faultPolicy th =
    if (b.haltTaken th).rd (Pg.core (th / 8) 0) R.GRT_POL_FLT ≠ 1 ∨ b.trd th R.GRT_TH_CAUSE = 0 ∨ 7 < b.trd th R.GRT_TH_CAUSE then b.haltTaken th
    else if ((b.haltTaken th).recent th).length < (b.haltTaken th).rd (Pg.core (th / 8) 0) R.GRT_RESTART_MAX then
      ((b.haltTaken th).setThr th { (b.haltTaken th).thr th with restarts := (b.haltTaken th).recent th ++ [b.clk] }).trestart th
    else (b.haltTaken th).fire (Pg.core (th / 8) 0) R.GRT_EVT_GIVEUP := by
  rw [faultPolicy]
  dsimp only
  rw [if_neg (by simp [hr, hcu, hst, hh])]
  rfl

end

theorem recent_haltTaken : (b.haltTaken th).recent th = b.recent th := by
  obtain ⟨-, hclk, hres, -⟩ := b.haltTaken_spec th
  rw [recent, hclk, hres, recent]

/-- The number of a customer thread (R25). -/
theorem isCust_iff : isCust th = true ↔ th < 240 ∧ th % 8 ≠ 0 := by
  unfold isCust Master.isCustomer
  rw [decide_eq_true_iff]
  omega

/-- Thread 0 acts on a halted customer thread (R378). -/
theorem faultPolicy_spec (hr : b.supvRuns (th / 8) = true) (hcu : isCust th = true) (hst : b.tst th = TH_HALTED) (hh : th ∈ b.grt.halts) :
    bitOn ((b.faultPolicy th).thr (8 * (th / 8))).pend 27 = false ∧
    (b.rd (Pg.core (th / 8) 0) R.GRT_POL_FLT ≠ 1 → (b.faultPolicy th).tst th = TH_HALTED) ∧
    (b.rd (Pg.core (th / 8) 0) R.GRT_POL_FLT = 1 → 1 ≤ b.trd th R.GRT_TH_CAUSE → b.trd th R.GRT_TH_CAUSE ≤ 7 →
      ((b.recent th).length < b.rd (Pg.core (th / 8) 0) R.GRT_RESTART_MAX →
        (b.faultPolicy th).tst th = TH_RUN ∧ ((b.faultPolicy th).thr th).restarts = b.recent th ++ [b.clk]) ∧
      (b.rd (Pg.core (th / 8) 0) R.GRT_RESTART_MAX ≤ (b.recent th).length →
        (b.faultPolicy th).tst th = TH_HALTED ∧ (b.faultPolicy th).rd (Pg.core (th / 8) 0) (evtPend R.GRT_EVT_GIVEUP) = 1)) := by
  obtain ⟨hrd, hclk, hres, hbit⟩ := b.haltTaken_spec th
  obtain ⟨-, hne⟩ := isCust_iff.mp hcu
  rw [faultPolicy_eq hr hcu hst hh, hrd, hrd, recent_haltTaken]
  have ht : (b.haltTaken th).tst th = TH_HALTED := hst
  split_ifs with hc hlt
  · exact ⟨hbit, fun _ => ht, fun h1 h2 h3 => by omega⟩
  · obtain ⟨hn, hs, -⟩ := ((b.haltTaken th).setThr th { (b.haltTaken th).thr th with restarts := b.recent th ++ [b.clk] }).renew_spec th TH_RUN
    refine ⟨?_, fun h => absurd (.inl h) hc, fun _ _ _ => ⟨fun _ => ⟨hs, ?_⟩, fun h => by omega⟩⟩
    · rw [trestart, hn.others _ (by omega), thr_setThr, if_neg (by omega), hbit]
    · rw [trestart, hn.restarts, thr_setThr_self]
  · refine ⟨?_, fun h => absurd (.inl h) hc, fun _ _ _ => ⟨fun h => absurd h hlt, fun _ => ⟨?_, fire_pend _ (by decide) (core_aligned _ _)⟩⟩⟩
    · rw [← hbit]
      simp [thr]
    · have hp : pageOf (R.GRT_TH_STATE.addr (Pg.core (th / 8) 1) (th % 8) 0) = Pg.core (th / 8) 1 := thrPage (by decide) th
      refine (((Keeps.refl (b.haltTaken th)).fire (n := R.GRT_EVT_GIVEUP) (by decide) (core_aligned (th / 8) 0) (List.mem_singleton_self _)).regs
        _ _ _ _ (by decide) (core_notNoted _ _ hp) ?_).trans ht
      rw [hp]
      simp [Pg.core]

/-! An ICU delivery passed on (R378). -/

theorem icuForward_eq {c : Nat} (hr : b.supvRuns c = true) (he : b.rd (Pg.core c 0) R.GRT_ICU_EN = 1) (hb : bitOn (b.thr (8 * c)).pend 26 = true) :
    b.icuForward c = (b.takeBit (8 * c) 26).setBit (8 * c + b.rd (Pg.core c 0) R.GRT_ICU_THREAD) (b.rd (Pg.core c 0) R.GRT_ICU_BIT) := by
  rw [icuForward]
  exact if_neg (by simp [hr, hb, on, he])

/-! The deadlock detector (R380). -/

theorem mem_judged {c i : Nat} : i ∈ judged c ↔ i / 8 = c ∧ i % 8 ≠ 0 := by
  simp only [judged, List.mem_map, List.mem_range]
  constructor
  · rintro ⟨k, hk, rfl⟩; omega
  · rintro ⟨h1, h2⟩; exact ⟨i % 8 - 1, by omega, by omega⟩

/-- The word of GRT_DL_THREADS: a bit for each thread that waits. -/
def waitWord (p : Nat → Bool) : Nat := ((((List.range 7).map (1 + ·)).filter p).map (2 ^ ·)).foldl (· + ·) 0

theorem waitWord_eq (p : Nat → Bool) : waitWord p = [(p 1, 2), (p 2, 4), (p 3, 8), (p 4, 16), (p 5, 32), (p 6, 64), (p 7, 128)].foldl
    (fun a x => if x.1 then a + x.2 else a) 0 := by
  simp only [waitWord, show (List.range 7).map (1 + ·) = [1, 2, 3, 4, 5, 6, 7] from rfl, List.filter_cons, List.filter_nil]
  cases p 1 <;> cases p 2 <;> cases p 3 <;> cases p 4 <;> cases p 5 <;> cases p 6 <;> cases p 7 <;> rfl

theorem waitWord_bits (p : Nat → Bool) : waitWord p < 256 ∧ ∀ i, 1 ≤ i → i < 8 → bitOn (waitWord p) i = p i := by
  have h : ∀ p1 p2 p3 p4 p5 p6 p7 : Bool,
      let w := [(p1, 2), (p2, 4), (p3, 8), (p4, 16), (p5, 32), (p6, 64), (p7, 128)].foldl (fun a x => if x.1 then a + x.2 else a) 0
      w < 256 ∧ bitOn w 1 = p1 ∧ bitOn w 2 = p2 ∧ bitOn w 3 = p3 ∧ bitOn w 4 = p4 ∧ bitOn w 5 = p5 ∧ bitOn w 6 = p6 ∧ bitOn w 7 = p7 := by decide
  obtain ⟨h0, h1, h2, h3, h4, h5, h6, h7⟩ := h (p 1) (p 2) (p 3) (p 4) (p 5) (p 6) (p 7)
  rw [waitWord_eq]
  refine ⟨h0, fun i hi hi8 => ?_⟩
  interval_cases i
  exacts [h1, h2, h3, h4, h5, h6, h7]

/-- The threads of a core that wait, as a word. -/
theorem judged_word (b : Body) (c : Nat) :
    ((((judged c).filter fun th => b.tst th == TH_WAIT).map fun th => 2 ^ (th % 8)).foldl (· + ·) 0) = waitWord fun i => b.tst (8 * c + i) == TH_WAIT := by
  have h : (judged c).filter (fun th => b.tst th == TH_WAIT) =
      (((List.range 7).map (1 + ·)).filter fun i => b.tst (8 * c + i) == TH_WAIT).map (8 * c + ·) := by
    rw [judged, List.filter_map, List.filter_map, List.map_map]
    simp only [Function.comp_def, Nat.add_assoc]
  rw [waitWord, h, List.map_map]
  refine congrArg (fun l : List Nat => l.foldl (· + ·) 0) (List.map_congr_left fun i hi => ?_)
  have hlt : i < 8 := by
    simp only [List.mem_filter, List.mem_map, List.mem_range] at hi
    obtain ⟨⟨k, hk, rfl⟩, -⟩ := hi
    omega
  rw [Function.comp_apply, show (8 * c + i) % 8 = i by omega]

/-- The detector before the threads' supervisor is told to act: bit 28, the threads that wait, and the fault. -/
def deadlockTold (b : Body) (c : Nat) (inj : Bool) : Body :=
  (((b.setBit (8 * c) 28).wr (Pg.core c 0) R.GRT_DL_THREADS (waitWord fun i => b.tst (8 * c + i) == TH_WAIT)).count (Pg.core c 3) 32).fault
    (Pg.core c 0) R.GRT_FLT_DEADLOCK { access := 0, space := 7, master := 0x100 + 8 * c, detail := c, inj := inj }

/-- The detector's latch. -/
def deadlockLatched (b : Body) (c : Nat) : Body := { b with grt := { b.grt with dlFired := insertNat c b.grt.dlFired } }

theorem deadlockLatched_spec (b : Body) (c : Nat) : (∀ p f i j, (b.deadlockLatched c).rd p f i j = b.rd p f i j) ∧
    (∀ j, (b.deadlockLatched c).thr j = b.thr j) ∧ (∀ p i, (b.deadlockLatched c).ctr p i = b.ctr p i) ∧ c ∈ (b.deadlockLatched c).grt.dlFired :=
  ⟨fun _ _ _ _ => rfl, fun _ => rfl, fun _ _ => rfl, mem_insertNat.mpr (.inl rfl)⟩

theorem deadlockFire_eq (b : Body) (c : Nat) (inj : Bool) : b.deadlockFire c inj =
    if ((b.deadlockTold c inj).deadlockLatched c).tst (8 * c) = TH_HALTED ∨ ((b.deadlockTold c inj).deadlockLatched c).tst (8 * c) = TH_IDLE then
      ((b.deadlockTold c inj).deadlockLatched c).fire (Pg.core c 0) R.GRT_EVT_DEADLOCK else (b.deadlockTold c inj).deadlockLatched c := by
  unfold deadlockTold
  rw [← judged_word]
  rfl

theorem deadlockTold_spec (b : Body) (c : Nat) (inj : Bool) :
    Keeps [Pg.core c 0] b ({ (b.deadlockTold c inj) with ctrs := b.ctrs }) ∧ bitOn ((b.deadlockTold c inj).thr (8 * c)).pend 28 = true ∧
    (b.deadlockTold c inj).rd (Pg.core c 0) (fltStat R.GRT_FLT_DEADLOCK) = 1 ∧
    (b.deadlockTold c inj).ctr (Pg.core c 3) 32 = (b.ctr (Pg.core c 3) 32 + 1) % 2 ^ 64 ∧
    (b.deadlockTold c inj).rd (Pg.core c 0) R.GRT_DL_THREADS = waitWord fun i => b.tst (8 * c + i) == TH_WAIT := by
  have hp : pageOf (R.GRT_DL_THREADS.addr (Pg.core c 0) 0 0) = Pg.core c 0 := pageOf_addr (core_aligned c 0) (by decide)
  unfold deadlockTold
  generalize hw : (waitWord fun i => b.tst (8 * c + i) == TH_WAIT) = w
  have hlt : w < 256 := hw ▸ (waitWord_bits _).1
  refine ⟨?_, ?_, fault_stat .., ?_, ?_⟩
  · have h1 : Keeps [Pg.core c 0] b ((b.setBit (8 * c) 28).wr (Pg.core c 0) R.GRT_DL_THREADS w) :=
      Keeps.wr (.of_eq (.refl b) rfl rfl rfl rfl) (by decide) (by rw [hp]; exact List.mem_singleton_self _)
    have h2 : Keeps [Pg.core c 0] _ ((((b.setBit (8 * c) 28).wr (Pg.core c 0) R.GRT_DL_THREADS w).count (Pg.core c 3) 32).fault (Pg.core c 0)
      R.GRT_FLT_DEADLOCK { access := 0, space := 7, master := 0x100 + 8 * c, detail := c, inj := inj }) :=
      Keeps.fault (.refl (((b.setBit (8 * c) 28).wr (Pg.core c 0) R.GRT_DL_THREADS w).count (Pg.core c 3) 32)) (by decide) (core_aligned c 0)
        (List.mem_singleton_self _)
    exact ⟨fun q g x y hg hn hq => (h2.regs q g x y hg hn hq).trans ((count_rd ..).trans (h1.regs q g x y hg hn hq)), rfl,
      h2.tbls.trans ((by simp : _ = _).trans h1.tbls), h2.mem.trans ((by simp : _ = _).trans h1.mem)⟩
  · rw [fault_grt]
    have : (((b.setBit (8 * c) 28).wr (Pg.core c 0) R.GRT_DL_THREADS w).count (Pg.core c 3) 32).thr (8 * c) = (b.setBit (8 * c) 28).thr (8 * c) := by
      simp [thr]
    rw [this, setBit_bitOn, if_pos ⟨rfl, rfl⟩]
  · rw [fault_ctr, ctr_count _ _ _ _ _ _ (by decide) (by decide), if_pos ⟨rfl, rfl⟩]
    rfl
  · rw [rd_fault _ _ (by decide) (by decide) (.inl (by simp only [Fld.addr, R.GRT_DL_THREADS]; omega)), count_rd, rd_wr_self]
    exact Nat.mod_eq_of_lt hlt

/-- Every thread's state is as it was when the detector fires. -/
theorem deadlockFire_spec (b : Body) (c : Nat) (inj : Bool) :
    bitOn ((b.deadlockFire c inj).thr (8 * c)).pend 28 = true ∧ c ∈ (b.deadlockFire c inj).grt.dlFired ∧
    (b.deadlockFire c inj).rd (Pg.core c 0) (fltStat R.GRT_FLT_DEADLOCK) = 1 ∧
    (b.deadlockFire c inj).ctr (Pg.core c 3) 32 = (b.ctr (Pg.core c 3) 32 + 1) % 2 ^ 64 ∧
    (∀ i, 1 ≤ i → i < 8 → bitOn ((b.deadlockFire c inj).rd (Pg.core c 0) R.GRT_DL_THREADS) i = (b.tst (8 * c + i) == TH_WAIT)) ∧
    (b.tst (8 * c) = TH_HALTED ∨ b.tst (8 * c) = TH_IDLE → (b.deadlockFire c inj).rd (Pg.core c 0) (evtPend R.GRT_EVT_DEADLOCK) = 1) := by
  obtain ⟨hk, hb, hf, hct, hw⟩ := b.deadlockTold_spec c inj
  obtain ⟨hlr, hlt, hlc, hd⟩ := (b.deadlockTold c inj).deadlockLatched_spec c
  have hst : ((b.deadlockTold c inj).deadlockLatched c).tst (8 * c) = b.tst (8 * c) := by
    have hp : pageOf (R.GRT_TH_STATE.addr (Pg.core (8 * c / 8) 1) (8 * c % 8) 0) = Pg.core (8 * c / 8) 1 := thrPage (by decide) (8 * c)
    refine (hlr _ _ _ _).trans (hk.regs _ _ _ _ (by decide) (core_notNoted _ _ hp) ?_)
    rw [hp]
    simp only [Pg.core, List.mem_singleton]
    omega
  rw [deadlockFire_eq, hst]
  have hdrd := hlr (Pg.core c 0)
  generalize (b.deadlockTold c inj).deadlockLatched c = d at hd hdrd hlt hlc ⊢
  split_ifs with h
  · have hoff : ∀ f : Fld, f.lo < 32 → f.off < 0x1000 → f.off ≠ 0x20 → f.off ≠ 0x30 → (d.fire (Pg.core c 0) R.GRT_EVT_DEADLOCK).rd (Pg.core c 0) f = d.rd (Pg.core c 0) f := fun f h1 h2 h3 h4 => by
      refine d.rd_fire (by decide) h1 (.inl ?_) ?_ ?_ ?_ <;> simp only [Fld.addr, Pg.core] <;> omega
    refine ⟨?_, ?_, ?_, ?_, fun i h1 h8 => ?_, fun _ => fire_pend _ (by decide) (core_aligned c 0)⟩
    · rw [show (d.fire (Pg.core c 0) R.GRT_EVT_DEADLOCK).thr (8 * c) = d.thr (8 * c) by simp [thr], hlt, hb]
    · simpa using hd
    · rw [hoff _ (by decide) (by decide) (by decide) (by decide), hdrd, hf]
    · rw [fire_ctr, hlc, hct]
    · rw [hoff _ (by decide) (by decide) (by decide) (by decide), hdrd, hw, (waitWord_bits _).2 i h1 h8]
  · refine ⟨by rw [hlt, hb], hd, by rw [hdrd, hf], by rw [hlc, hct], fun i h1 h8 => ?_, fun hs => absurd hs h⟩
    rw [hdrd, hw, (waitWord_bits _).2 i h1 h8]

/-- The conditions of the detector. -/
theorem dlQuiet_iff {c : Nat} : b.dlQuiet c = true ↔
    (∀ th ∈ judged c, b.rd (Pg.core c 1) R.GRT_TH_STATE (th % 8) = TH_HALTED ∨ b.rd (Pg.core c 1) R.GRT_TH_STATE (th % 8) = TH_IDLE ∨
      (b.rd (Pg.core c 1) R.GRT_TH_STATE (th % 8) = TH_WAIT ∧ b.waitClosed th = true)) ∧
    (∃ th ∈ judged c, b.rd (Pg.core c 1) R.GRT_TH_STATE (th % 8) = TH_WAIT) ∧
    (b.rd (Pg.core c 1) R.GRT_TH_STATE 0 = TH_WAIT ∨ b.rd (Pg.core c 1) R.GRT_TH_STATE 0 = TH_HALTED ∨
      b.rd (Pg.core c 1) R.GRT_TH_STATE 0 = TH_IDLE) := by
  have ht : ∀ th ∈ judged c, b.tst th = b.rd (Pg.core c 1) R.GRT_TH_STATE (th % 8) := fun th h => by
    rw [tst, trd, (mem_judged.mp h).1]
  have h0 : b.tst (8 * c) = b.rd (Pg.core c 1) R.GRT_TH_STATE 0 := by
    rw [tst, trd, show 8 * c / 8 = c by omega, show 8 * c % 8 = 0 by omega]
  rw [dlQuiet, Bool.and_eq_true, Bool.and_eq_true, List.all_eq_true, List.any_eq_true, and_assoc, h0]
  refine and_congr (forall₂_congr fun th h => ?_) (and_congr (exists_congr fun th => and_congr_right fun h => ?_) ?_)
  · rw [ht th h]
    simp [or_assoc]
  · rw [ht th h, beq_iff_eq]
  · simp [or_assoc]

/-- A customer thread of a deadlock begun anew leaves thread 0's events and the other threads' states. -/
theorem trestarts_spec (l : List Nat) (b : Body) (t : Nat) (h : t ∉ l) :
    (∀ j ∈ l, (l.foldl trestart b).tst j = TH_RUN) ∧ (∀ j, j ∉ l → (l.foldl trestart b).tst j = b.tst j) ∧
    (l.foldl trestart b).thr t = b.thr t := by
  induction l generalizing b with
  | nil => exact ⟨fun j hj => absurd hj List.not_mem_nil, fun _ _ => rfl, rfl⟩
  | cons x l ih =>
    obtain ⟨htx, htl⟩ := not_or.mp (mt List.mem_cons.mpr h)
    obtain ⟨hn, hst, -⟩ := b.renew_spec x TH_RUN
    obtain ⟨h1, h2, h3⟩ := ih (b.trestart x) htl
    rw [List.foldl_cons]
    refine ⟨fun j hj => ?_, fun j hj => ?_, h3.trans (hn.others t htx)⟩
    · by_cases hjl : j ∈ l
      · exact h1 j hjl
      · obtain rfl := (List.mem_cons.mp hj).resolve_right hjl
        exact (h2 j hjl).trans hst
    · obtain ⟨hjx, hjl⟩ := not_or.mp (mt List.mem_cons.mpr hj)
      exact (h2 j hjl).trans (renew_others hjx)

theorem thalts_spec (l : List Nat) (b : Body) {cause : Nat} (hc : cause < 16) (h : ∀ j ∈ l, b.tst j ≠ TH_IDLE) :
    (∀ j ∈ l, (l.foldl (fun b th => b.thalt th cause) b).tst j = TH_HALTED ∧ (l.foldl (fun b th => b.thalt th cause) b).trd j R.GRT_TH_CAUSE = cause) ∧
    (∀ j, j ∉ l → (l.foldl (fun b th => b.thalt th cause) b).tst j = b.tst j ∧
      (l.foldl (fun b th => b.thalt th cause) b).trd j R.GRT_TH_CAUSE = b.trd j R.GRT_TH_CAUSE) ∧
    ∀ j n, n ≠ 27 → bitOn ((l.foldl (fun b th => b.thalt th cause) b).thr j).pend n = bitOn (b.thr j).pend n := by
  induction l generalizing b with
  | nil => exact ⟨fun j hj => absurd hj List.not_mem_nil, fun _ _ => ⟨rfl, rfl⟩, fun _ _ _ => rfl⟩
  | cons x l ih =>
    obtain ⟨hst, hca, -, -, hbit, hrd⟩ := thalt_spec (h x List.mem_cons_self) hc
    have hcause : ∀ {j}, j ≠ x → R.GRT_TH_CAUSE.addr (Pg.core (j / 8) 1) (j % 8) 0 ≠ R.GRT_TH_CAUSE.addr (Pg.core (x / 8) 1) (x % 8) 0 := by
      intro j hj e
      simp only [Fld.addr, R.GRT_TH_CAUSE, Pg.core] at e
      omega
    have hother : ∀ {j}, j ≠ x → (b.thalt x cause).tst j = b.tst j ∧ (b.thalt x cause).trd j R.GRT_TH_CAUSE = b.trd j R.GRT_TH_CAUSE := fun {j} hj =>
      ⟨hrd _ _ _ _ _ (by unfold offDrop; decide) (thrPage (by decide) j) (offState_ne hj) (.inr (by decide)),
        hrd _ _ _ _ _ (by unfold offDrop; decide) (thrPage (by decide) j) (.inr (by decide)) (.inl (hcause hj))⟩
    obtain ⟨h1, h2, h3⟩ := ih (b.thalt x cause) fun j hj => by
      by_cases hjx : j = x
      · rw [hjx, hst]; decide
      · rw [(hother hjx).1]; exact h j (List.mem_cons_of_mem x hj)
    rw [List.foldl_cons]
    refine ⟨fun j hj => ?_, fun j hj => ?_, fun j n hn => (h3 j n hn).trans (hbit j n hn)⟩
    · by_cases hjl : j ∈ l
      · exact h1 j hjl
      · obtain rfl := (List.mem_cons.mp hj).resolve_right hjl
        obtain ⟨e1, e2⟩ := h2 j hjl
        exact ⟨e1.trans hst, e2.trans hca⟩
    · obtain ⟨hjx, hjl⟩ := not_or.mp (mt List.mem_cons.mpr hj)
      obtain ⟨e1, e2⟩ := h2 j hjl
      obtain ⟨o1, o2⟩ := hother hjx
      exact ⟨e1.trans o1, e2.trans o2⟩

/-- The threads that thread 0's policy acts on: those of the deadlock that still wait. -/
def deadlocked (b : Body) (c : Nat) : List Nat :=
  (judged c).filter fun th => bitOn (b.rd (Pg.core c 0) R.GRT_DL_THREADS) (th % 8) && b.tst th == TH_WAIT

theorem deadlockPolicy_eq {c : Nat} (hr : b.supvRuns c = true) (hb : bitOn (b.thr (8 * c)).pend 28 = true) :
    b.deadlockPolicy c = match b.rd (Pg.core c 0) R.GRT_POL_DL with
      | 1 => (b.deadlocked c).foldl trestart (b.takeBit (8 * c) 28)
      | 2 => (b.deadlocked c).foldl (fun b th => b.thalt th CS_DEADLOCK) (b.takeBit (8 * c) 28)
      | _ => b.takeBit (8 * c) 28 := by
  rw [deadlockPolicy]
  exact if_neg (by simp [hr, hb])

theorem mem_deadlocked {c i : Nat} (h1 : 1 ≤ i) (h8 : i < 8) :
    8 * c + i ∈ b.deadlocked c ↔ bitOn (b.rd (Pg.core c 0) R.GRT_DL_THREADS) i = true ∧ b.tst (8 * c + i) = TH_WAIT := by
  rw [deadlocked, List.mem_filter, mem_judged, show (8 * c + i) % 8 = i by omega, Bool.and_eq_true, beq_iff_eq]
  exact and_iff_right ⟨by omega, by omega⟩

/-- Thread 0 applies its policy (R380). -/
theorem deadlockPolicy_spec {c : Nat} (hr : b.supvRuns c = true) (hb : bitOn (b.thr (8 * c)).pend 28 = true) :
    bitOn ((b.deadlockPolicy c).thr (8 * c)).pend 28 = false ∧ ∀ j,
      (j ∉ b.deadlocked c ∨ b.rd (Pg.core c 0) R.GRT_POL_DL = 0 → (b.deadlockPolicy c).tst j = b.tst j) ∧
      (j ∈ b.deadlocked c → b.rd (Pg.core c 0) R.GRT_POL_DL = 1 → (b.deadlockPolicy c).tst j = TH_RUN) ∧
      (j ∈ b.deadlocked c → b.rd (Pg.core c 0) R.GRT_POL_DL = 2 →
        (b.deadlockPolicy c).tst j = TH_HALTED ∧ (b.deadlockPolicy c).trd j R.GRT_TH_CAUSE = CS_DEADLOCK) := by
  have htst : ∀ j, (b.takeBit (8 * c) 28).tst j = b.tst j := fun _ => rfl
  have hbit : bitOn ((b.takeBit (8 * c) 28).thr (8 * c)).pend 28 = false := by rw [takeBit_bitOn, if_pos ⟨rfl, rfl⟩]
  have h0 : 8 * c ∉ b.deadlocked c := fun h => (mem_judged.mp (List.mem_of_mem_filter h)).2 (by omega)
  have hwait : ∀ j ∈ b.deadlocked c, b.tst j = TH_WAIT := fun j hj => by
    have := (List.mem_filter.mp hj).2
    rw [Bool.and_eq_true, beq_iff_eq] at this
    exact this.2
  rw [deadlockPolicy_eq hr hb]
  split
  · next h =>
    obtain ⟨h1, h2, h3⟩ := trestarts_spec (b.deadlocked c) (b.takeBit (8 * c) 28) (8 * c) h0
    exact ⟨by rw [h3, hbit], fun j => ⟨fun hj => h2 j (hj.resolve_right (by omega)), fun hj _ => h1 j hj, fun _ _ => by omega⟩⟩
  · next h =>
    obtain ⟨h1, h2, h3⟩ := thalts_spec (cause := CS_DEADLOCK) (b.deadlocked c) (b.takeBit (8 * c) 28) (by decide)
      fun j hj => by rw [htst, hwait j hj]; decide
    exact ⟨by rw [h3 _ _ (by decide), hbit], fun j => ⟨fun hj => (h2 j (hj.resolve_right (by omega))).1, fun _ _ => by omega, fun hj _ => h1 j hj⟩⟩
  · next h1 h2 => exact ⟨hbit, fun j => ⟨fun _ => rfl, fun _ h => absurd h h1, fun _ h => absurd h h2⟩⟩

end

end Body

/-! The commands in a state. -/

section
variable {s : State} {th : Nat}

theorem State.body_self {ok : Bool} {doms : List Nat} {f : Body → Body} (ho : ok = true) (hr : s.runs doms) (hf : f s.dev.body = s.dev.body) :
    s.body ok doms f = .next s := by
  rw [State.body_withBody ho hr hf, State.withBody_self]

/-- A thread woken with a value. -/
theorem State.withBody_woken {c : Body} {d v : Nat} (hpc : (c.thr th).pc = (s.dev.body.thr th).pc) :
    let t := s.withBody (c.woken th d v)
    t.reg (Pg.core (th / 8) 1) R.GRT_TH_STATE (th % 8) = TH_RUN ∧ (t.dev.body.thr th).wait = none ∧
    (t.dev.body.thr th).pc = ((s.dev.body.thr th).pc + 4) % 2 ^ 64 ∧ t.dev.body.greg th d = if d = 0 then 0 else v % 2 ^ 64 := by
  obtain ⟨hst, -, hthr⟩ := c.woken_spec th d v
  generalize c.woken th d v = e at hst hthr ⊢
  refine ⟨(State.withBody_trd th).trans hst, ?_, ?_, ?_⟩
  · rw [(State.withBody_thr th).2.2.2.2.2.2.1, hthr]
  · rw [(State.withBody_thr th).1, hthr, hpc]
  · rw [State.withBody_greg, Body.greg, hthr]
    split_ifs
    · rfl
    · exact Sp.get_set_self ..

/-- A thread's state by its core and its place there. -/
theorem State.tst_core (s : State) (c : Nat) {i : Nat} (h : i < 8) : s.reg (Pg.core c 1) R.GRT_TH_STATE i = s.dev.body.tst (8 * c + i) := by
  rw [Body.tst, Body.trd, show (8 * c + i) / 8 = c by omega, show (8 * c + i) % 8 = i by omega]
  rfl

theorem State.withBody_dlFired {c : Body} : (s.withBody c).dev.body.grt.dlFired = c.grt.dlFired :=
  (Body.note_chans _ _).2.2.2.1

theorem exec_threadWake {c : Body} {w : Waiting} {v : Nat} (h : th < 256) (hr : s.runs [14])
    (hst : s.reg (Pg.core (th / 8) 1) R.GRT_TH_STATE (th % 8) = TH_WAIT) (hw : (s.dev.body.thr th).wait = some w)
    (ht : s.dev.body.waitTry th w = some ((c.setG th w.d v).nextPc th)) :
    exec (.threadWake th) s = .next (s.withBody (c.woken th w.d v)) :=
  State.body_withBody (by rw [decide_eq_true h]) hr (Body.waitTry_wakes hst hw ht)

/-- The channels and windows of a thread woken. -/
theorem State.withBody_woken_chans {c : Body} {d v : Nat} : (∀ ch, (s.withBody (c.woken th d v)).dev.body.chan ch = c.chan ch) ∧
    ∀ k, (s.withBody (c.woken th d v)).dev.body.win' th k = c.win' th k := by
  obtain ⟨-, hch, hthr⟩ := c.woken_spec th d v
  generalize c.woken th d v = e at hch hthr ⊢
  refine ⟨fun ch => by rw [Body.chan, State.withBody_chans, hch, Body.chan], fun k => ?_⟩
  rw [Body.win', (State.withBody_thr th).2.2.2.2.2.1, hthr, Body.win']

end

end Sys2Proof.Machine

namespace Sys2Proof
open Machine

/-- Settles O41: each wait's result is written as it ends, and each policy acts thread by thread. -/
theorem waitsAndSupervisor : Obligations.WaitsAndSupervisor := by
  unfold Obligations.WaitsAndSupervisor
  refine ⟨fun th w s hth hr hst hw => ⟨fun hn => ?_, fun v hon hv h0 => ?_, fun ch k sl rest hon hv he hk hf => ?_,
    fun ch k sl len rest hon hv he hk hf hlen => ?_⟩, fun th at_ s hth hr ht => ⟨fun hlt => ?_, fun hle => ?_⟩,
    fun th s hr hcu => ⟨fun hno => ?_, fun hrun hst hh => ?_⟩, fun c s hc hr => ⟨fun hrun he hb => ?_, fun hq hso hz hl hd => ?_, fun hno => ?_,
      fun hrun hb => ?_⟩⟩
  · exact State.body_self (by rw [decide_eq_true hth]) hr (Body.waitTry_waits hw hn)
  · refine ⟨_, ⟨exec_threadWake hth hr hst hw (Body.waitTry_events hon (hv ▸ h0)), ?_⟩, fun n hn hn25 => ?_⟩
    · rw [← hv]
      exact State.withBody_woken (by rw [Body.thr_setThr_self])
    · rw [State.withBody_bitOn th hn25, (Body.woken_spec ..).2.2, Body.thr_setThr_self, bitOn_sub_and, hv]
  · have hk4 := Body.freeWin_lt hk
    refine ⟨_, ⟨exec_threadWake hth hr hst hw (Body.waitTry_reserve hon hf), ?_⟩, ?_, ?_⟩
    · rw [Body.chReserve_taken hv he hk hf, Body.ext32_small (by omega)]
      refine (State.withBody_woken ?_).imp_right fun h => h.imp_right fun h => h.imp_right fun h => h.trans ?_
      · rw [Body.setWin, Body.thr_setThr_self]; rfl
      · rw [Nat.mod_eq_of_lt (by omega)]
    · rw [State.withBody_woken_chans.2, Body.chReserve_taken hv he hk hf, Body.win_setWin]
    · rw [State.withBody_woken_chans.1, Body.chReserve_taken hv he hk hf, Body.chan_setWin, Body.chan_setChan]
  · have hk4 := Body.freeWin_lt hk
    refine ⟨_, ⟨exec_threadWake hth hr hst hw (Body.waitTry_acquire hon hf), ?_⟩, ?_, ?_⟩
    · rw [Body.chAcquire_taken hv he hk hf, Body.ext32_small (by omega)]
      refine (State.withBody_woken ?_).imp_right fun h => h.imp_right fun h => h.imp_right fun h => h.trans ?_
      · rw [Body.setWin, Body.thr_setThr_self]; rfl
      · rw [Nat.mod_eq_of_lt (by omega)]
    · rw [State.withBody_woken_chans.2, Body.chAcquire_taken hv he hk hf, Body.win_setWin]
    · rw [State.withBody_woken_chans.1, Body.chAcquire_taken hv he hk hf, Body.chan_setWin, Body.chan_setChan]
  · exact State.body_self (by rw [decide_eq_true hth]) hr (Body.timerExpire_early ht hlt)
  · refine ⟨_, State.body_withBody (by rw [decide_eq_true hth]) hr (Body.timerExpire_due ht hle), ?_, ?_, ?_⟩
    · rw [(State.withBody_thr th).2.2.2.1, Body.setBit, Body.thr_setThr_self, Body.thr_setThr_self]
    · rw [State.withBody_bitOn th (by decide), Body.setBit_bitOn, if_pos ⟨rfl, rfl⟩]
    · exact State.withBody_keeps (.of_eq (.refl _) rfl rfl rfl rfl)
  · refine State.body_self (by rw [decide_eq_true]; have := (Body.isCust_iff.mp hcu).1; omega) hr ?_
    rw [Body.faultPolicy]
    exact if_pos (.inr (.inr (.inr (by simpa using hno))))
  · refine ⟨_, State.body_withBody (by rw [decide_eq_true]; have := (Body.isCust_iff.mp hcu).1; omega) hr rfl, ?_⟩
    obtain ⟨h1, h2, h3⟩ := Body.faultPolicy_spec hrun hcu hst hh
    generalize s.dev.body.faultPolicy th = d at h1 h2 h3 ⊢
    refine ⟨by rw [State.withBody_bitOn _ (by decide), h1], fun hp => (State.withBody_trd th).trans (h2 hp), fun hp hc1 hc7 => ?_⟩
    obtain ⟨g1, g2⟩ := h3 hp hc1 hc7
    refine ⟨fun hlt => ?_, fun hle => ?_⟩
    · obtain ⟨e1, e2⟩ := g1 hlt
      exact ⟨(State.withBody_trd th).trans e1, by rw [(State.withBody_thr th).2.2.2.2.2.2.2.2.2.2, e2]; rfl⟩
    · obtain ⟨e1, e2⟩ := g2 hle
      exact ⟨(State.withBody_trd th).trans e1, (State.withBody_evt (by decide) (core_notNoted (th / 8) 0 (by unfold pageOf Pg.core; omega))).mpr e2⟩
  · have hbit : s.dev.body.rd (Pg.core c 0) R.GRT_ICU_BIT < 16 := s.dev.body.rd_lt _ _ _ _
    refine ⟨_, State.body_withBody (by rw [decide_eq_true hc]) hr (Body.icuForward_eq hrun he hb), ?_, ?_⟩
    · rw [State.withBody_bitOn _ (by decide), Body.setBit_bitOn, if_neg fun h => absurd (h.2 ▸ hbit) (by decide), Body.takeBit_bitOn, if_pos ⟨rfl, rfl⟩]
    · exact (State.withBody_bitOn _ (ne_of_lt (lt_trans hbit (by decide)))).trans ((Body.setBit_bitOn ..).trans (if_pos ⟨rfl, rfl⟩))
  · have hfire : s.dev.body.deadlockDetect c = s.dev.body.deadlockFire c := by
      rw [Body.deadlockDetect]
      exact if_pos (by simp [Body.dlQuiet_iff.mpr ⟨hq, hso, hz⟩, hl, hd])
    refine ⟨_, State.body_withBody (by rw [decide_eq_true hc]) hr hfire, ?_⟩
    obtain ⟨h1, h2, h3, h4, h5, h6⟩ := s.dev.body.deadlockFire_spec c false
    generalize s.dev.body.deadlockFire c = d at h1 h2 h3 h4 h5 h6 ⊢
    have hp : pageOf (R.GRT_DL_THREADS.addr (Pg.core c 0) 0 0) = Pg.core c 0 := pageOf_addr (core_aligned c 0) (by decide)
    refine ⟨by rw [State.withBody_bitOn _ (by decide), h1], by rw [State.withBody_dlFired]; exact h2, (State.withBody_flt (core_aligned c 0) (by decide)).mpr h3,
      (State.withBody_ctr _ _).trans h4, fun i hi h8 => ?_, fun hw => ?_⟩
    · rw [State.withBody_reg (by decide) (core_notNoted c 0 hp), h5 i hi h8, ← State.tst_core s c h8]
      simp only [Nat.mod_eq_of_lt h8]
    · refine (State.withBody_evt (by decide) (core_notNoted c 0 (by unfold pageOf Pg.core; omega))).mpr (h6 ?_)
      have := State.tst_core s c (i := 0) (by decide)
      rw [Nat.add_zero] at this
      rw [← this]
      exact hz.resolve_left hw
  · refine State.body_self (by rw [decide_eq_true hc]) hr ?_
    rw [Body.deadlockDetect]
    refine if_neg fun h => ?_
    rw [Bool.and_eq_true, Bool.and_eq_true, Bool.not_eq_true', Body.dlQuiet_iff] at h
    obtain ⟨⟨⟨hq, hso, hz⟩, hl⟩, hd⟩ := h
    rcases hno with h | h | h | h | h
    · exact h hq
    · exact h hso
    · exact h hz
    · rw [hl] at h; cases h
    · rw [List.contains_iff_mem.mpr h] at hd; cases hd
  · refine ⟨_, State.body_withBody (by rw [decide_eq_true hc]) hr rfl, ?_⟩
    obtain ⟨h1, h2⟩ := Body.deadlockPolicy_spec hrun hb
    generalize s.dev.body.deadlockPolicy c = d at h1 h2 ⊢
    refine ⟨by rw [State.withBody_bitOn _ (by decide), h1], fun i hi h8 => ?_⟩
    obtain ⟨g1, g2, g3⟩ := h2 (8 * c + i)
    have hreg : ∀ f : Fld, f.lo < 32 → f.off < 0x100 ∧ f.stride = 0x20 → (s.withBody d).reg (Pg.core c 1) f i = d.trd (8 * c + i) f := fun f hf hs => by
      have := State.withBody_trd (s := s) (c := d) (8 * c + i) hf hs
      rwa [show (8 * c + i) / 8 = c by omega, show (8 * c + i) % 8 = i by omega] at this
    rw [Body.mem_deadlocked hi h8, ← State.tst_core s c h8] at g1 g2 g3
    simp only [Nat.mod_eq_of_lt h8]
    rw [hreg _ (by decide) (by decide), hreg _ (by decide) (by decide)]
    exact ⟨g1, g2, g3⟩

end Sys2Proof
end

section
/-! O42: the debugger and the inject source of the Grotto (R374, R381 to R383, R387). -/

namespace Sys2Proof.Machine

/-- What follows an effect that leaves the pools' pages alone changes no thread. -/
theorem State.withBody_grt {s : State} {c : Body} {ps : List Nat} (hk : Body.Keeps ps s.dev.body c) (hps : ∀ q ∈ ps, q < 0xF00000) :
    (s.withBody c).dev.body.grt = c.grt := by
  have hrd : ∀ n (f : Fld), f.lo < 32 → 0x80 ≤ f.off → f.off < 0x1000 → c.prd' n f = s.dev.body.prd' n f := fun n f hf h1 h2 => by
    refine hk.regs _ _ _ _ hf (Body.notedAt_page ?_ ?_ ?_) fun hm => ?_
    · simp only [Fld.addr, Pg.pool]; omega
    · simp only [Fld.addr, Pg.pool]; omega
    · simp only [Fld.addr, Pg.pool]; omega
    · have := hps _ hm
      simp only [pageOf, Fld.addr, Pg.pool] at this
      omega
  have hlevel : ∀ n, c.poolLevel n = s.dev.body.poolLevel n := fun n => by simp (disch := decide) only [Body.poolLevel, hrd]
  have hnote : Body.poolNote s.dev.body c = c := by simp [Body.poolNote, Body.levelMoved, hlevel]
  show (Body.note s.dev.body c).grt = c.grt
  rw [Body.note, hnote, Body.svyNote_grt]

theorem core_below {c n : Nat} (hc : c < 32) (hn : n < 4) : Pg.core c n < 0xF00000 := by unfold Pg.core; omega

theorem bitOn_and (v w n : Nat) : bitOn (v &&& w) n = (bitOn v n && bitOn w n) := by
  have h : ∀ x, bitOn x n = x.testBit n := fun x => by rw [Nat.testBit_eq_decide_div_mod_eq]; rfl
  rw [h, h, h, Nat.testBit_and]

/-! A write of GRT_DBG_GO. -/

/-- The operation's register taken: nothing else has changed, and the window and the count stand. -/
structure Body.DbgTaken (p : Nat) (b c : Body) : Prop where
  only : c = { b with regs := c.regs }
  same : ∀ (q : Nat) (g : Fld) (i j : Nat), g.lo < 32 → g.addr q i j ≠ p + 0x80 → c.rd q g i j = b.rd q g i j
  win : c.rd p R.GRT_DBG_WIN = b.rd p R.GRT_DBG_WIN
  count : c.rd p R.GRT_DBG_COUNT = b.rd p R.GRT_DBG_COUNT

theorem Body.takeBits_dbg (b : Body) {c v : Nat} (hc : c < 32) (hw : R.GRT_DBG_WIN.of v = b.rd (Pg.core c 2) R.GRT_DBG_WIN)
    (hn : R.GRT_DBG_COUNT.of v = b.rd (Pg.core c 2) R.GRT_DBG_COUNT) :
    Body.DbgTaken (Pg.core c 2) b (b.takeBits (Pg.core c 2 + 0x80) v) := by
  have hp := pageIs_core2 hc
  have hl : PK.core2.fieldsAt 0x80 = [(R.GRT_DBG_GO, 0, 0), (R.GRT_DBG_OP, 0, 0), (R.GRT_DBG_THREAD, 0, 0), (R.GRT_DBG_WIN, 0, 0),
    (R.GRT_DBG_COUNT, 0, 0)] := by decide
  have heq : b.takeBits (Pg.core c 2 + 0x80) v = (((b.wr (Pg.core c 2) R.GRT_DBG_OP (R.GRT_DBG_OP.of v)).wr (Pg.core c 2) R.GRT_DBG_THREAD
      (R.GRT_DBG_THREAD.of v)).wr (Pg.core c 2) R.GRT_DBG_WIN (R.GRT_DBG_WIN.of v)).wr (Pg.core c 2) R.GRT_DBG_COUNT (R.GRT_DBG_COUNT.of v) := by
    rw [Body.takeBits, hp.fieldsOf (by decide) (by decide), hl, hp.pageOf (by decide)]
    rfl
  rw [heq, hw, hn]
  refine ⟨rfl, fun q g i j hg h => ?_, ?_, ?_⟩
  · have ha : ∀ f : Fld, f.off = 0x80 → g.addr q i j ≠ f.addr (Pg.core c 2) 0 0 := fun f hf => by rw [Fld.addr_zero, hf]; exact h
    rw [Body.rd_wr_ne _ _ (by decide) hg (.inl (ha _ rfl)), Body.rd_wr_ne _ _ (by decide) hg (.inl (ha _ rfl)),
      Body.rd_wr_ne _ _ (by decide) hg (.inl (ha _ rfl)), Body.rd_wr_ne _ _ (by decide) hg (.inl (ha _ rfl))]
  · rw [Body.rd_wr_ne _ _ (by decide) (by decide) (.inr (by decide)), Body.rd_wr_self]
    exact Nat.mod_eq_of_lt (Body.rd_lt ..)
  · rw [Body.rd_wr_self]
    exact Nat.mod_eq_of_lt (Body.rd_lt ..)

theorem Dev.dbgGo_eq {s : State} {m th op : Nat} (h : th < 256) (hop : op < 8) (ht : s.takes m (Pg.core (th / 8) 2 + 0x80)) :
    ∃ c, Body.DbgTaken (Pg.core (th / 8) 2) s.dev.body c ∧ s.dev.dbgGo m th op = { s.dev with body := c.dbgOp th m op } := by
  have hc : th / 8 < 32 := by omega
  have hp := pageIs_core2 hc
  have hl : PK.core2.fieldsAt 0x80 = [(R.GRT_DBG_GO, 0, 0), (R.GRT_DBG_OP, 0, 0), (R.GRT_DBG_THREAD, 0, 0), (R.GRT_DBG_WIN, 0, 0),
    (R.GRT_DBG_COUNT, 0, 0)] := by decide
  have hkeep : s.dev.body.keepWord (Pg.core (th / 8) 2 + 0x80) R.GRT_DBG_GO =
      s.dev.body.rd (Pg.core (th / 8) 2) R.GRT_DBG_OP * 2 ^ 28 + s.dev.body.rd (Pg.core (th / 8) 2) R.GRT_DBG_THREAD * 2 ^ 24 +
        s.dev.body.rd (Pg.core (th / 8) 2) R.GRT_DBG_WIN * 2 ^ 20 + s.dev.body.rd (Pg.core (th / 8) 2) R.GRT_DBG_COUNT * 2 ^ 0 := by
    rw [Body.keepWord, hp.fieldsOf (by decide) (by decide), hl, hp.pageOf (by decide)]
    simp [R.GRT_DBG_GO, R.GRT_DBG_OP, R.GRT_DBG_THREAD, R.GRT_DBG_WIN, R.GRT_DBG_COUNT]
  have h1 : s.dev.body.rd (Pg.core (th / 8) 2) R.GRT_DBG_OP < 8 := Body.rd_lt ..
  have h2 : s.dev.body.rd (Pg.core (th / 8) 2) R.GRT_DBG_THREAD < 8 := Body.rd_lt ..
  have h3 : s.dev.body.rd (Pg.core (th / 8) 2) R.GRT_DBG_WIN < 4 := Body.rd_lt ..
  have h4 : s.dev.body.rd (Pg.core (th / 8) 2) R.GRT_DBG_COUNT < 65536 := Body.rd_lt ..
  generalize hv : 2 ^ 31 + setBitField (setBitField (s.dev.body.keepWord (Pg.core (th / 8) 2 + 0x80) R.GRT_DBG_GO) 30 28 op) 26 24 (th % 8) = v
  have hword : v = 2 ^ 31 + op * 2 ^ 28 + th % 8 * 2 ^ 24 + s.dev.body.rd (Pg.core (th / 8) 2) R.GRT_DBG_WIN * 2 ^ 20 +
      s.dev.body.rd (Pg.core (th / 8) 2) R.GRT_DBG_COUNT := by
    rw [← hv, hkeep]
    generalize s.dev.body.rd (Pg.core (th / 8) 2) R.GRT_DBG_OP = x1 at *
    generalize s.dev.body.rd (Pg.core (th / 8) 2) R.GRT_DBG_THREAD = x2 at *
    generalize s.dev.body.rd (Pg.core (th / 8) 2) R.GRT_DBG_WIN = x3 at *
    generalize s.dev.body.rd (Pg.core (th / 8) 2) R.GRT_DBG_COUNT = x4 at *
    simp only [setBitField, bitField]
    omega
  have hgo : goes (Pg.core (th / 8) 2 + 0x80) v R.GRT_DBG_GO = true := by
    rw [goes, hp.fieldAt (by decide) (by decide)]
    have : R.GRT_DBG_GO.of v = 1 := by simp only [Fld.of, bitField, R.GRT_DBG_GO]; omega
    rw [this]
    decide
  have hth : 8 * (th / 8) + R.GRT_DBG_THREAD.of v = th := by simp only [Fld.of, bitField, R.GRT_DBG_THREAD]; omega
  have hopv : R.GRT_DBG_OP.of v = op := by simp only [Fld.of, bitField, R.GRT_DBG_OP]; omega
  have hcore : (Pg.core (th / 8) 2 + 0x80) / 0x4000 % 32 = th / 8 := by unfold Pg.core; omega
  refine ⟨_, s.dev.body.takeBits_dbg (v := v) hc (by simp only [Fld.of, bitField, R.GRT_DBG_WIN] at *; omega)
    (by simp only [Fld.of, bitField, R.GRT_DBG_COUNT] at *; omega), ?_⟩
  refine (congrArg (s.dev.write m (Pg.core (th / 8) 2 + 0x80)) hv).trans ?_
  rw [Dev.write_store v ht hp (by decide) (by decide) (by decide) (by unfold Pg.core Pg.boot; omega) (by decide)]
  simp only [Body.pageStore, Body.storeCore2, hgo, if_true, hcore, hth, hopv]

namespace Body

section
variable {b c d : Body} {th m : Nat} {f : Body → Body}

/-! Who may operate the debugger (R381). -/

theorem dbg_denied (hb : d.on (Pg.core (th / 8) 2) R.GRT_DBG_BUSY = false) (hm : ¬ (m = Master.jtag ∨ (m = Master.host ∧ isCust th = true))) :
    d.dbg th m f = (d.wr (Pg.core (th / 8) 2) R.GRT_DBG_RC 2).fire (Pg.core (th / 8) 0) R.GRT_EVT_DENIED := by
  rw [dbg, if_neg (by simp [hb]), if_neg hm]

theorem dbg_may (hb : d.on (Pg.core (th / 8) 2) R.GRT_DBG_BUSY = false) (hm : m = Master.jtag ∨ (m = Master.host ∧ isCust th = true)) :
    d.dbg th m f = f d := by
  rw [dbg, if_neg (by simp [hb]), if_pos hm]

theorem dbgStopped_not (hb : d.on (Pg.core (th / 8) 2) R.GRT_DBG_BUSY = false) (hm : m = Master.jtag ∨ (m = Master.host ∧ isCust th = true))
    (h : d.tst th ≠ TH_STOPPED) : d.dbgStopped th m f = d.dbgRc th 1 := by
  rw [dbgStopped, dbg_may hb hm, if_neg h]

theorem dbgStopped_is (hb : d.on (Pg.core (th / 8) 2) R.GRT_DBG_BUSY = false) (hm : m = Master.jtag ∨ (m = Master.host ∧ isCust th = true))
    (h : d.tst th = TH_STOPPED) : d.dbgStopped th m f = f d := by
  rw [dbgStopped, dbg_may hb hm, if_pos h]

/-! The result of an operation. -/

/-- The result is in the core's page 2. -/
theorem dbgRc_rd {rc : Nat} (hrc : rc < 8) : (d.dbgRc th rc).rd (Pg.core (th / 8) 2) R.GRT_DBG_RC = rc := by
  rw [dbgRc]
  split_ifs
  · exact (rd_wr_self ..).trans (Nat.mod_eq_of_lt hrc)
  · exact (rd_wr_self ..).trans (Nat.mod_eq_of_lt hrc)

theorem dbgRc_same {rc q i j : Nat} {g : Fld} (hg : g.lo < 32) (h : g.addr q i j ≠ Pg.core (th / 8) 2 + 0x90 ∨ g.lo ≠ 28) :
    (d.dbgRc th rc).rd q g i j = d.rd q g i j := by
  rw [dbgRc]
  split_ifs
  · exact d.rd_wr_ne _ (by decide) hg h
  · exact d.rd_wr_ne _ (by decide) hg h

theorem dbgRc_keeps {rc : Nat} : Keeps [Pg.core (th / 8) 2] d (d.dbgRc th rc) := by
  have h : Keeps [Pg.core (th / 8) 2] d (d.wr (Pg.core (th / 8) 2) R.GRT_DBG_RC rc) :=
    Keeps.wrAt (.refl d) (core_aligned _ _) (ho := by decide)
  rw [dbgRc]
  split_ifs
  · exact h.of_eq rfl rfl rfl rfl
  · exact h

theorem dbgRc_failed {rc : Nat} (h : rc ≠ 0) : (d.dbgRc th rc).grt = d.grt := by rw [dbgRc, if_neg h]; rfl

theorem dbgRc_done : (d.dbgRc th 0).grt.chans = d.grt.chans ∧ (∀ j, sameThr ((d.dbgRc th 0).thr j) (d.thr j)) ∧
    (∀ j, ((d.dbgRc th 0).thr j).wmask = (d.thr j).wmask ∧ ((d.dbgRc th 0).thr j).binds = (d.thr j).binds ∧
      ((d.dbgRc th 0).thr j).timer = (d.thr j).timer ∧ ((d.dbgRc th 0).thr j).wins = (d.thr j).wins ∧
      ((d.dbgRc th 0).thr j).wait = (d.thr j).wait) ∧
    ∀ j n, bitOn ((d.dbgRc th 0).thr j).pend n = if j = th ∧ n = 29 then true else bitOn (d.thr j).pend n := by
  rw [dbgRc, if_pos rfl]
  refine ⟨rfl, fun j => setBit_sameThr (b := d.wr (Pg.core (th / 8) 2) R.GRT_DBG_RC 0) th 29 j, fun j => ?_, fun j n => setBit_bitOn ..⟩
  rw [setBit, thr_setThr]
  split_ifs with h
  · rw [h]; exact ⟨rfl, rfl, rfl, rfl, rfl⟩
  · exact ⟨rfl, rfl, rfl, rfl, rfl⟩

/-- The registers that the operations read, after the operation's register is taken. -/
theorem DbgTaken.core1 (h : DbgTaken (Pg.core (th / 8) 2) b c) {f : Fld} (hf : f.lo < 32) (hs : f.off < 0x100 ∧ f.stride = 0x20) :
    c.trd th f = b.trd th f := by
  refine h.same _ _ _ _ hf fun e => ?_
  have := thrPage hs th
  rw [e] at this
  unfold pageOf Pg.core at this
  omega

theorem DbgTaken.core2 (h : DbgTaken (Pg.core (th / 8) 2) b c) {f : Fld} (hf : f.lo < 32) (hs : f.off ≠ 0x80) :
    c.rd (Pg.core (th / 8) 2) f = b.rd (Pg.core (th / 8) 2) f :=
  h.same _ _ _ _ hf (by rw [Fld.addr_zero]; omega)

theorem DbgTaken.grt (h : DbgTaken (Pg.core (th / 8) 2) b c) : c.grt = b.grt := by rw [h.only]

theorem DbgTaken.pendBits (h : DbgTaken (Pg.core (th / 8) 2) b c) : c.pendBits th = b.pendBits th := by
  rw [h.only]; rfl

theorem DbgTaken.keeps (h : DbgTaken (Pg.core (th / 8) 2) b c) : Keeps [Pg.core (th / 8) 2] b c := by
  refine ⟨fun q g x y hg _ hq => h.same q g x y hg fun e => hq ?_, ?_, ?_, ?_⟩
  · rw [e, List.mem_singleton]
    unfold pageOf Pg.core
    omega
  · rw [h.only]
  · rw [h.only]
  · rw [h.only]

end

end Body

/-! The operations in a state. -/

/-- The debugger's operations with their codes. -/
inductive Instr.DbgOp (th m : Nat) : Instr → Nat → Prop
  | stop : DbgOp th m (.dbgStop th m) 1
  | resume : DbgOp th m (.dbgResume th m) 2
  | step : DbgOp th m (.dbgStep th m) 3
  | abandon : DbgOp th m (.dbgAbandon th m) 4
  | read : DbgOp th m (.dbgReadReg th m) 5
  | write : DbgOp th m (.dbgWriteReg th m) 6

section
variable {s : State} {th m code : Nat} {c : Instr}

theorem Instr.DbgOp.exec_eq (hc : Instr.DbgOp th m c code) (h : th < 256) (ht : s.takes m (Pg.core (th / 8) 2 + 0x80)) :
    ∃ d, Body.DbgTaken (Pg.core (th / 8) 2) s.dev.body d ∧ exec c s = .next (s.withBody (d.dbgOp th m code)) := by
  have hok : (decide (th < 256) && Master.known m) = true := by rw [ht.known, decide_eq_true h]; rfl
  have hrun : ∀ n < 8, ∃ d, Body.DbgTaken (Pg.core (th / 8) 2) s.dev.body d ∧
      (s.live (decide (th < 256) && Master.known m) [2] fun d => d.dbgGo m th n) = .next (s.withBody (d.dbgOp th m n)) := fun n hn => by
    obtain ⟨d, hd, he⟩ := Dev.dbgGo_eq h hn ht
    exact ⟨d, hd, State.live_withBody hok ht.runs he⟩
  cases hc with
  | stop => exact hrun 1 (by decide)
  | resume => exact hrun 2 (by decide)
  | step => exact hrun 3 (by decide)
  | abandon => exact hrun 4 (by decide)
  | read => exact hrun 5 (by decide)
  | write => exact hrun 6 (by decide)

theorem Instr.DbgOp.denied (hc : Instr.DbgOp th m c code) {d : Body} (hb : d.on (Pg.core (th / 8) 2) R.GRT_DBG_BUSY = false)
    (hm : ¬ (m = Master.jtag ∨ (m = Master.host ∧ isCust th = true))) :
    d.dbgOp th m code = (d.wr (Pg.core (th / 8) 2) R.GRT_DBG_RC 2).fire (Pg.core (th / 8) 0) R.GRT_EVT_DENIED := by
  cases hc with
  | stop => rw [Body.dbgOp, Body.dbgStop, Body.dbg_denied hb hm]
  | resume => rw [Body.dbgOp, Body.dbgResume, Body.dbg_denied hb hm]
  | step => rw [Body.dbgOp, Body.dbgStep, Body.dbgStopped, Body.dbg_denied hb hm]
  | abandon => rw [Body.dbgOp, Body.dbgAbandon, Body.dbgStopped, Body.dbg_denied hb hm]
  | read => rw [Body.dbgOp, Body.dbgRead, Body.dbgStopped, Body.dbg_denied hb hm]
  | write => rw [Body.dbgOp, Body.dbgWrite, Body.dbgStopped, Body.dbg_denied hb hm]

theorem Instr.DbgOp.notStopped (hc : Instr.DbgOp th m c code) (h1 : code ≠ 1) {d : Body} (hb : d.on (Pg.core (th / 8) 2) R.GRT_DBG_BUSY = false)
    (hm : m = Master.jtag ∨ (m = Master.host ∧ isCust th = true)) (hs : d.tst th ≠ TH_STOPPED) : d.dbgOp th m code = d.dbgRc th 1 := by
  cases hc with
  | stop => exact absurd rfl h1
  | resume => rw [Body.dbgOp, Body.dbgResume, Body.dbg_may hb hm, if_pos hs]
  | step => rw [Body.dbgOp, Body.dbgStep, Body.dbgStopped_not hb hm hs]
  | abandon => rw [Body.dbgOp, Body.dbgAbandon, Body.dbgStopped_not hb hm hs]
  | read => rw [Body.dbgOp, Body.dbgRead, Body.dbgStopped_not hb hm hs]
  | write => rw [Body.dbgOp, Body.dbgWrite, Body.dbgStopped_not hb hm hs]

/-- GRT_INJ_GO written (R387). -/
theorem exec_grtInject {n : Nat} (hn : n < 32) (ht : s.takes m (Pg.core n 2 + 0x94)) :
    ∃ d, Body.Shown (Pg.core n 2) 0x94 (PK.core2.fieldsAt 0x94) s.dev.body d ∧ exec (.grtInject n m) s = .next (s.withBody (d.grtInject n)) := by
  have hp := pageIs_core2 hn
  have hcore : (Pg.core n 2 + 0x94) / 0x4000 % 32 = n := by unfold Pg.core; omega
  have hgo : ∀ v, goes (Pg.core n 2 + 0x94) v R.GRT_DBG_GO = false := fun v => by
    rw [goes, hp.fieldAt (by decide) (by decide)]
    rfl
  obtain ⟨d, hshown, hput⟩ := Dev.put_go (v := 1) (i := 0) (f := R.GRT_INJ_GO) (act := fun b => b.grtInject n) ht hp (by decide) (by decide)
    (by decide) (by unfold Pg.core Pg.boot; omega) (by decide) rfl (by decide) fun w _ hw _ => by
      simp only [Body.pageStore, Body.storeCore2, hgo, Bool.false_eq_true, if_false, hcore]
      exact Body.takeGo_act _ _ (by rw [hp.fieldAt (by decide) (by decide)]; rfl) hw
  exact ⟨d, hshown, State.live_withBody (by rw [ht.known, decide_eq_true hn]; rfl) ht.runs hput⟩

/-- A register of a core's page 2 reads as the body has it. -/
theorem State.withBody_core2 {e : Body} (n : Nat) {f : Fld} (hf : f.lo < 32 := by decide) (h : f.off < 0x1000 := by decide) :
    (s.withBody e).reg (Pg.core n 2) f = e.rd (Pg.core n 2) f :=
  State.withBody_reg hf (core_notNoted n 2 (pageOf_addr (core_aligned n 2) (by omega)))

/-- An operation that completes: its result, bit 29 of the thread, and the thread as the operation leaves it. -/
structure State.DbgDone (th : Nat) (e : Body) (t : State) : Prop where
  rc : t.reg (Pg.core (th / 8) 2) R.GRT_DBG_RC = 0
  told : bitOn (t.dev.body.thr th).pend 29 = true
  trd : ∀ f : Fld, f.lo < 32 → f.off < 0x100 ∧ f.stride = 0x20 → t.reg (Pg.core (th / 8) 1) f (th % 8) = e.trd th f
  core2 : ∀ f : Fld, f.lo < 28 → f.off < 0x1000 → t.reg (Pg.core (th / 8) 2) f = e.rd (Pg.core (th / 8) 2) f
  regs : (t.dev.body.thr th).regs = (e.thr th).regs
  pc : (t.dev.body.thr th).pc = (e.thr th).pc
  wmask : (t.dev.body.thr th).wmask = (e.thr th).wmask
  binds : (t.dev.body.thr th).binds = (e.thr th).binds
  timer : (t.dev.body.thr th).timer = (e.thr th).timer
  wins : (t.dev.body.thr th).wins = (e.thr th).wins
  chans : t.dev.body.grt.chans = e.grt.chans
  pend : ∀ n, n ≠ 25 → n ≠ 29 → bitOn (t.dev.body.thr th).pend n = bitOn (e.thr th).pend n

theorem State.dbgDone (s : State) (th : Nat) (e : Body) : State.DbgDone th e (s.withBody (e.dbgRc th 0)) := by
  obtain ⟨hch, hsame, hrest, hbit⟩ := Body.dbgRc_done (d := e) (th := th)
  have hrd := @Body.dbgRc_same e th 0
  have hrc := Body.dbgRc_rd (d := e) (th := th) (rc := 0) (by decide)
  generalize e.dbgRc th 0 = x at hch hsame hrest hbit hrd hrc ⊢
  obtain ⟨hr, hpc, -⟩ := hsame th
  obtain ⟨hwm, hbi, hti, hwi, -⟩ := hrest th
  obtain ⟨ht1, ht2, ht3, ht4, -, ht6, -⟩ := State.withBody_thr (s := s) (c := x) th
  refine ⟨(State.withBody_core2 _).trans hrc, ?_, fun f hf hs => (State.withBody_trd th hf hs).trans (hrd hf (.inl ?_)),
    fun f hf ho => (State.withBody_core2 _ (by omega) ho).trans (hrd (by omega) (.inr (by omega))), (State.withBody_thr_regs th).trans hr,
    ht1.trans hpc, ht2.trans hwm, ht3.trans hbi, ht4.trans hti, ht6.trans hwi, State.withBody_chans.trans hch, fun n h25 h29 => ?_⟩
  · rw [State.withBody_bitOn _ (by decide), hbit, if_pos ⟨rfl, rfl⟩]
  · intro e
    have := Body.thrPage hs th
    rw [e] at this
    unfold pageOf Pg.core at this
    omega
  · rw [State.withBody_bitOn _ h25, hbit, if_neg fun h => h29 h.2]

/-- An operation that fails leaves every thread as it is. -/
theorem State.dbgFailed {d : Body} {rc : Nat} (hth : th < 256) (hd : Body.DbgTaken (Pg.core (th / 8) 2) s.dev.body d) (h : rc ≠ 0) (h8 : rc < 8) :
    let t := s.withBody (d.dbgRc th rc)
    t.reg (Pg.core (th / 8) 2) R.GRT_DBG_RC = rc ∧ t.dev.body.grt = s.dev.body.grt ∧
      t.reg (Pg.core (th / 8) 1) R.GRT_TH_STATE (th % 8) = s.reg (Pg.core (th / 8) 1) R.GRT_TH_STATE (th % 8) := by
  have hk := hd.keeps.trans (d.dbgRc_keeps (th := th) (rc := rc))
  have hp := Body.thrPage (f := R.GRT_TH_STATE) (by decide) th
  refine ⟨(State.withBody_core2 _).trans (Body.dbgRc_rd h8), ?_, (State.withBody_trd th).trans ?_⟩
  · rw [State.withBody_grt hk fun q hq => by rw [List.mem_singleton.mp hq]; exact core_below (by omega) (by decide),
      Body.dbgRc_failed h, hd.grt]
  · refine hk.regs _ _ _ _ (by decide) (core_notNoted _ _ hp) ?_
    rw [hp]
    simp [Pg.core]

/-- An operation that its master may not make. -/
theorem State.dbgDenied {d : Body} (hth : th < 256) (hd : Body.DbgTaken (Pg.core (th / 8) 2) s.dev.body d) :
    let t := s.withBody ((d.wr (Pg.core (th / 8) 2) R.GRT_DBG_RC 2).fire (Pg.core (th / 8) 0) R.GRT_EVT_DENIED)
    t.reg (Pg.core (th / 8) 2) R.GRT_DBG_RC = 2 ∧ t.evt (Pg.core (th / 8) 0) R.GRT_EVT_DENIED ∧ t.dev.body.grt = s.dev.body.grt ∧
      t.reg (Pg.core (th / 8) 1) R.GRT_TH_STATE (th % 8) = s.reg (Pg.core (th / 8) 1) R.GRT_TH_STATE (th % 8) := by
  have hk : Body.Keeps [Pg.core (th / 8) 2, Pg.core (th / 8) 0] s.dev.body
      ((d.wr (Pg.core (th / 8) 2) R.GRT_DBG_RC 2).fire (Pg.core (th / 8) 0) R.GRT_EVT_DENIED) :=
    .fire (.wrAt (hd.keeps.mono (by simp)) (core_aligned _ _) (ho := by decide)) (by decide) (core_aligned _ _) (by simp)
  have hp := Body.thrPage (f := R.GRT_TH_STATE) (by decide) th
  refine ⟨(State.withBody_core2 _).trans ?_, (State.withBody_evt (by decide) (core_notNoted (th / 8) 0 (by unfold pageOf Pg.core; omega))).mpr
    (Body.fire_pend _ (by decide) (core_aligned _ _)), ?_, (State.withBody_trd th).trans ?_⟩
  · rw [Body.rd_fire _ (by decide) (by decide) (.inl (by simp only [Fld.addr, R.GRT_DBG_RC, Pg.core]; omega))
      (by simp only [Fld.addr, R.GRT_DBG_RC, Pg.core]; omega) (by simp only [Fld.addr, R.GRT_DBG_RC, Pg.core]; omega)
      (by simp only [Fld.addr, R.GRT_DBG_RC, Pg.core]; omega), Body.rd_wr_self]
    rfl
  · rw [State.withBody_grt hk]
    · simp only [Body.fire_rest, Body.wr_rest, hd.grt]
    · intro q hq
      simp only [List.mem_cons, List.not_mem_nil, or_false] at hq
      rcases hq with rfl | rfl
      · exact core_below (by omega) (by decide)
      · exact core_below (by omega) (by decide)
  · refine hk.regs _ _ _ _ (by decide) (core_notNoted _ _ hp) ?_
    rw [hp]
    simp [Pg.core]

end

namespace Body

section
variable {b d : Body} {th m : Nat} (hb : d.on (Pg.core (th / 8) 2) R.GRT_DBG_BUSY = false)
  (hm : m = Master.jtag ∨ (m = Master.host ∧ isCust th = true))
include hb hm

theorem dbgStop_eq (h : d.tst th = TH_RUN ∨ d.tst th = TH_WAIT) :
    d.dbgOp th m 1 = ((d.twr th R.GRT_TH_PRIOR (d.tst th)).cmdMove th TH_STOPPED).dbgRc th 0 := by
  rw [dbgOp, dbgStop, dbg_may hb hm]
  exact if_pos h

variable (hs : d.tst th = TH_STOPPED)
include hs

theorem dbgResume_eq (h : d.trd th R.GRT_TH_PRIOR = TH_RUN ∨ (d.trd th R.GRT_TH_PRIOR = TH_WAIT ∧ (d.thr th).wait = none)) :
    d.dbgOp th m 2 = (d.cmdMove th (d.trd th R.GRT_TH_PRIOR)).dbgRc th 0 := by
  rw [dbgOp, dbgResume, dbg_may hb hm, if_neg (by simp [hs])]
  dsimp only
  generalize d.trd th R.GRT_TH_PRIOR = p at h ⊢
  obtain ⟨-, hthr, -, -, -, hst, -⟩ := d.cmdMove_spec th p
  generalize d.cmdMove th p = e at hthr hst ⊢
  have hte : (e.dbgRc th 0).tst th = p % 16 :=
    (dbgRc_same (by decide) (.inl fun he => by
      have := thrPage (f := R.GRT_TH_STATE) (by decide) th
      rw [he] at this
      unfold pageOf Pg.core at this
      omega)).trans hst
  have hw : ((e.dbgRc th 0).thr th).wait = (d.thr th).wait := by
    rw [(dbgRc_done.2.2.1 th).2.2.2.2, hthr]
  rw [threadWake, hte]
  rcases h with rfl | ⟨rfl, h⟩
  · exact if_pos (by decide)
  · rw [if_neg (by decide), hw, h]

theorem dbgStep_eq : d.dbgOp th m 3 =
    ((d.setThr th { d.thr th with steps := some (max 1 (d.rd (Pg.core (th / 8) 2) R.GRT_DBG_COUNT)), wait := none }).twr th R.GRT_TH_PRIOR TH_RUN).wr
      (Pg.core (th / 8) 2) R.GRT_DBG_BUSY 1 := by
  rw [dbgOp, dbgStep, dbgStopped_is hb hm hs]

theorem dbgAbandon_eq {w : Nat} (hw : d.rd (Pg.core (th / 8) 2) R.GRT_DBG_WIN = w) (h : (d.win' th w).st = 1 ∨ (d.win' th w).st = 2) :
    d.dbgOp th m 4 = ((d.slotAbandon (d.win' th w).ch (d.win' th w).slot).setWin th w { d.win' th w with st := 3 }).dbgRc th 0 := by
  rw [dbgOp, dbgAbandon, dbgStopped_is hb hm hs, hw, winAbandon, if_pos h]

theorem dbgAbandon_none {w : Nat} (hw : d.rd (Pg.core (th / 8) 2) R.GRT_DBG_WIN = w) (h : (d.win' th w).st = 0 ∨ (d.win' th w).st = 3) :
    d.dbgOp th m 4 = d.dbgRc th 5 := by
  rw [dbgOp, dbgAbandon, dbgStopped_is hb hm hs, hw, winAbandon, if_neg (by omega)]

/-- The register that READ_REG selects. -/
theorem dbgRead_eq {sel y : Nat} (hsel : d.rd (Pg.core (th / 8) 2) R.GRT_DBG_SEL = sel)
    (h : (sel < 32 ∧ y = d.greg th sel) ∨ (sel = 32 ∧ y = (d.thr th).pc) ∨ (sel = 33 ∧ y = (d.thr th).wmask) ∨ (sel = 34 ∧ y = d.pendBits th) ∨
      (36 ≤ sel ∧ sel < 40 ∧ y = d.winStat th (sel - 36))) :
    d.dbgOp th m 5 = ((d.wr (Pg.core (th / 8) 2) R.GRT_DBG_DATA_LO y).wr (Pg.core (th / 8) 2) R.GRT_DBG_DATA_HI (y / 2 ^ 32)).dbgRc th 0 := by
  rw [dbgOp, dbgRead, dbgStopped_is hb hm hs]
  dsimp only
  rw [hsel]
  rcases h with ⟨h, rfl⟩ | ⟨rfl, rfl⟩ | ⟨rfl, rfl⟩ | ⟨rfl, rfl⟩ | ⟨h1, h2, rfl⟩
  · rw [if_pos h]
  · rfl
  · rfl
  · rfl
  · rw [if_neg (by omega), if_neg (by omega), if_neg (by omega), if_neg (by omega), if_pos ⟨h1, h2⟩]

theorem dbgRead_bad {sel : Nat} (hsel : d.rd (Pg.core (th / 8) 2) R.GRT_DBG_SEL = sel) (h : sel = 35 ∨ 40 ≤ sel) : d.dbgOp th m 5 = d.dbgRc th 4 := by
  rw [dbgOp, dbgRead, dbgStopped_is hb hm hs]
  dsimp only
  rw [hsel]
  rw [if_neg (by omega), if_neg (by omega), if_neg (by omega), if_neg (by omega), if_neg (by omega)]

theorem dbgWrite_bad {sel : Nat} (hsel : d.rd (Pg.core (th / 8) 2) R.GRT_DBG_SEL = sel) (h : 35 ≤ sel) : d.dbgOp th m 6 = d.dbgRc th 4 := by
  rw [dbgOp, dbgWrite, dbgStopped_is hb hm hs]
  dsimp only
  rw [hsel]
  rw [if_neg (by omega), if_neg (by omega), if_neg (by omega), if_neg (by omega)]

end

/-- What WRITE_REG leaves of its thread (R382). -/
def selWritten (d : Body) (th sel v : Nat) : Body :=
  if sel < 32 then d.setG th sel v
  else d.setThr th (if sel = 32 then { d.thr th with pc := v } else if sel = 33 then { d.thr th with wmask := v % 2 ^ 32 }
    else { d.thr th with pend := v &&& latchedMask th })

theorem dbgWrite_eq {d : Body} {th m sel v : Nat} (hb : d.on (Pg.core (th / 8) 2) R.GRT_DBG_BUSY = false)
    (hm : m = Master.jtag ∨ (m = Master.host ∧ isCust th = true)) (hs : d.tst th = TH_STOPPED)
    (hsel : d.rd (Pg.core (th / 8) 2) R.GRT_DBG_SEL = sel)
    (hv : d.rd (Pg.core (th / 8) 2) R.GRT_DBG_DATA_LO + 2 ^ 32 * d.rd (Pg.core (th / 8) 2) R.GRT_DBG_DATA_HI = v) (h : sel < 35) :
    d.dbgOp th m 6 = (d.selWritten th sel v).dbgRc th 0 := by
  rw [dbgOp, dbgWrite, dbgStopped_is hb hm hs, selWritten]
  dsimp only
  rw [hsel, hv]
  split_ifs with h1 h2 h3 h4
  · rfl
  · rfl
  · rfl
  · rfl
  · omega

theorem selWritten_spec (d : Body) (th sel : Nat) {v : Nat} (hv : v < 2 ^ 64) (h : sel < 35) :
    (∀ p f i j, (d.selWritten th sel v).rd p f i j = d.rd p f i j) ∧
    (sel < 32 → (d.selWritten th sel v).greg th sel = if sel = 0 then 0 else v) ∧ (sel = 32 → ((d.selWritten th sel v).thr th).pc = v) ∧
    (sel = 33 → ((d.selWritten th sel v).thr th).wmask = v % 2 ^ 32) ∧
    (sel = 34 → ((d.selWritten th sel v).thr th).pend = v &&& latchedMask th) ∧
    ∀ r < 32, r ≠ sel → (d.selWritten th sel v).greg th r = d.greg th r := by
  obtain h32 | rfl | rfl | rfl : sel < 32 ∨ sel = 32 ∨ sel = 33 ∨ sel = 34 := by omega
  · rw [selWritten, if_pos h32]
    refine ⟨fun p f i j => ?_, fun _ => ?_, fun h => by omega, fun h => by omega, fun h => by omega, fun r _ hr => ?_⟩
    · unfold setG
      split_ifs <;> rfl
    · rw [greg, setG_thr]
      split_ifs
      · rfl
      · rw [Sp.get_set_self, Nat.mod_eq_of_lt hv]
    · rw [greg, greg, setG_thr]
      by_cases h0 : sel = 0
      · rw [if_pos h0]
      · simp only [if_neg h0, Sp.get_set_of_ne _ _ _ _ hr]
  · refine ⟨fun _ _ _ _ => rfl, fun h => by omega, fun _ => ?_, fun h => by omega, fun h => by omega, fun r _ _ => ?_⟩
    · exact congrArg Thread.pc (d.thr_setThr_self ..)
    · exact (d.greg_setThr ..).trans (by rw [greg]; rfl)
  · refine ⟨fun _ _ _ _ => rfl, fun h => by omega, fun h => by omega, fun _ => ?_, fun h => by omega, fun r _ _ => ?_⟩
    · exact congrArg Thread.wmask (d.thr_setThr_self ..)
    · exact (d.greg_setThr ..).trans (by rw [greg]; rfl)
  · refine ⟨fun _ _ _ _ => rfl, fun h => by omega, fun h => by omega, fun h => by omega, fun _ => ?_, fun r _ _ => ?_⟩
    · exact congrArg Thread.pend (d.thr_setThr_self ..)
    · exact (d.greg_setThr ..).trans (by rw [greg]; rfl)

/-- A STEP begun. -/
theorem stepBegun (d : Body) (th : Nat) (x : Thread) :
    let e := ((d.setThr th x).twr th R.GRT_TH_PRIOR TH_RUN).wr (Pg.core (th / 8) 2) R.GRT_DBG_BUSY 1
    e.tst th = d.tst th ∧ e.rd (Pg.core (th / 8) 2) R.GRT_DBG_BUSY = 1 ∧ (e.thr th).steps = x.steps ∧ (e.thr th).regs = x.regs := by
  have hne : R.GRT_TH_STATE.addr (Pg.core (th / 8) 1) (th % 8) 0 ≠ R.GRT_DBG_BUSY.addr (Pg.core (th / 8) 2) 0 0 := by
    simp only [Fld.addr, R.GRT_TH_STATE, R.GRT_DBG_BUSY, Pg.core]; omega
  have hthr : (((d.setThr th x).twr th R.GRT_TH_PRIOR TH_RUN).wr (Pg.core (th / 8) 2) R.GRT_DBG_BUSY 1).thr th = x := d.thr_setThr_self th x
  refine ⟨?_, rd_wr_self .., by rw [hthr], by rw [hthr]⟩
  exact (rd_wr_ne _ _ (by decide) (by decide) (.inl hne)).trans (rd_wr_ne _ _ (by decide) (by decide) (.inr (by decide)))

/-! The end of a STEP (R381). -/

theorem stepEnd_ends (b : Body) (th : Nat) : (b.stepEnd th TH_RUN).tst th = TH_STOPPED ∧ (b.stepEnd th TH_RUN).trd th R.GRT_TH_PRIOR = TH_RUN ∧
    (b.stepEnd th TH_RUN).rd (Pg.core (th / 8) 2) R.GRT_DBG_BUSY = 0 ∧ (b.stepEnd th TH_RUN).rd (Pg.core (th / 8) 2) R.GRT_DBG_RC = 0 ∧
    ((b.stepEnd th TH_RUN).thr th).steps = none ∧ bitOn ((b.stepEnd th TH_RUN).thr th).pend 29 = true ∧
    ((b.stepEnd th TH_RUN).thr th).regs = (b.thr th).regs := by
  have hoff : ∀ {f g : Fld}, f.off < 0x100 ∧ f.stride = 0x20 → g.off = 0x90 → f.addr (Pg.core (th / 8) 1) (th % 8) 0 ≠ g.addr (Pg.core (th / 8) 2) 0 0 := by
    intro f g hf hg e
    have := thrPage hf th
    rw [e, Fld.addr_zero, hg] at this
    unfold pageOf Pg.core at this
    omega
  unfold stepEnd
  dsimp only
  generalize ha : (b.setThr th { b.thr th with steps := none }).twr th R.GRT_TH_PRIOR TH_RUN = a
  have hthr : a.thr th = { b.thr th with steps := none } := ha ▸ thr_setThr_self ..
  have hm : (a.tmove th TH_STOPPED).thr th = { b.thr th with steps := none } := (tmove_thr _ _).trans hthr
  have hst : (a.tmove th TH_STOPPED).tst th = TH_STOPPED := tmove_state
  have hpr : (a.tmove th TH_STOPPED).trd th R.GRT_TH_PRIOR = TH_RUN := by
    rw [trd, rd_tmove (by decide) (thrPage (by decide) th), twr, rd_wr_ne _ _ (by decide) (by decide) (.inr (by decide)), ← ha, twr, rd_wr_self]
    rfl
  generalize a.tmove th TH_STOPPED = e at hm hst hpr ⊢
  have hth : ∀ {t : Thread}, (((e.wr (Pg.core (th / 8) 2) R.GRT_DBG_BUSY 0).wr (Pg.core (th / 8) 2) R.GRT_DBG_RC 0).setBit th 29).thr th = t ↔
      { b.thr th with steps := none, pend := setBitField (b.thr th).pend 29 29 1 } = t := by
    intro t
    rw [setBit, thr_setThr_self, show ((e.wr (Pg.core (th / 8) 2) R.GRT_DBG_BUSY 0).wr (Pg.core (th / 8) 2) R.GRT_DBG_RC 0).thr th = e.thr th from rfl, hm]
  have hrd : ∀ q f i j, (((e.wr (Pg.core (th / 8) 2) R.GRT_DBG_BUSY 0).wr (Pg.core (th / 8) 2) R.GRT_DBG_RC 0).setBit th 29).rd q f i j =
      ((e.wr (Pg.core (th / 8) 2) R.GRT_DBG_BUSY 0).wr (Pg.core (th / 8) 2) R.GRT_DBG_RC 0).rd q f i j := fun _ _ _ _ => rfl
  have hcore1 : ∀ f : Fld, f.lo < 32 → f.off < 0x100 ∧ f.stride = 0x20 →
      ((e.wr (Pg.core (th / 8) 2) R.GRT_DBG_BUSY 0).wr (Pg.core (th / 8) 2) R.GRT_DBG_RC 0).rd (Pg.core (th / 8) 1) f (th % 8) = e.trd th f :=
    fun f hf hs => (rd_wr_ne _ _ (by decide) hf (.inl (hoff hs rfl))).trans (rd_wr_ne _ _ (by decide) hf (.inl (hoff hs rfl)))
  refine ⟨?_, ?_, ?_, ?_, ?_, ?_, ?_⟩
  · rw [tst, trd, hrd, hcore1 _ (by decide) (by decide)]
    exact hst
  · rw [trd, hrd, hcore1 _ (by decide) (by decide), hpr]
  · rw [hrd, rd_wr_ne _ _ (by decide) (by decide) (.inr (by decide)), rd_wr_self]
    rfl
  · rw [hrd, rd_wr_self]
    rfl
  · rw [hth.mpr rfl]
  · rw [hth.mpr rfl, bitOn_setBitField, if_pos rfl]
    rfl
  · rw [hth.mpr rfl]

/-! The inject source (R374). -/

/-- A ready message taken: its slot is at the tail of the free list. -/
def injTaken (b : Body) (ch sl : Nat) (rest : List (Nat × Nat)) : Body := (b.setChan ch { b.chan ch with ready := rest }).slotFree ch sl

theorem injTaken_spec (b : Body) (ch sl : Nat) (rest : List (Nat × Nat)) : ((b.injTaken ch sl rest).chan ch).ready = rest ∧
    ((b.injTaken ch sl rest).chan ch).free = (b.chan ch).free ++ [sl] ∧ (b.injTaken ch sl rest).pipe = b.pipe ∧ (b.injTaken ch sl rest).ctrs = b.ctrs := by
  rw [injTaken, slotFree, chan_setChan, chan_setChan]
  exact ⟨rfl, rfl, rfl, rfl⟩

/-- A message as the inject source queues it. -/
def injQueued (c : Body) (g : Nat) (y : InjPkt) : Body :=
  { c with pipe := { c.pipe with injQ := Sp.set [] c.pipe.injQ g (Sp.get [] c.pipe.injQ g ++ [y]) } }

theorem grottoInjectTake_eq {b : Body} {g ch sl len : Nat} {rest : List (Nat × Nat)} (he : b.rd (Pg.cplx 0) R.GRT_INJ_EN g = 1)
    (hch : b.rd (Pg.cplx 0) R.GRT_INJ_CH g = ch) (hx : (b.chan ch).ready = (sl, len) :: rest) : b.grottoInjectTake g =
      if (decide (len < 76 ∨ 10252 < len) || b.grtBad (b.slotAddr ch sl) len) = true then (b.injTaken ch sl rest).count (Pg.cplx 1) (8 + g)
      else (b.injTaken ch sl rest).injQueued g
        { rec_ := (b.grtBytes (b.slotAddr ch sl) len).take 16, data := withFcs ((b.grtBytes (b.slotAddr ch sl) len).drop 16), host := false,
          src := ch, ts := (b.injTaken ch sl rest).stamp 0 } := by
  rw [grottoInjectTake, if_neg (by simp [on, he])]
  dsimp only
  rw [hch, hx]
  rfl

/-- The oldest ready message taken (R374). -/
theorem grottoInjectTake_spec {b : Body} {g ch sl len : Nat} {rest : List (Nat × Nat)} (hg : g < 8) (he : b.rd (Pg.cplx 0) R.GRT_INJ_EN g = 1)
    (hch : b.rd (Pg.cplx 0) R.GRT_INJ_CH g = ch) (hx : (b.chan ch).ready = (sl, len) :: rest) :
    let good := 76 ≤ len ∧ len ≤ 10252 ∧ b.grtBad (b.slotAddr ch sl) len = false
    ((b.grottoInjectTake g).chan ch).ready = rest ∧ ((b.grottoInjectTake g).chan ch).free = (b.chan ch).free ++ [sl] ∧
    (good → ∃ y, Sp.get [] (b.grottoInjectTake g).pipe.injQ g = Sp.get [] b.pipe.injQ g ++ [y] ∧
      y.rec_ = (b.grtBytes (b.slotAddr ch sl) len).take 16 ∧ y.data = withFcs ((b.grtBytes (b.slotAddr ch sl) len).drop 16) ∧ y.src = ch ∧
      (b.grottoInjectTake g).ctrs = b.ctrs) ∧
    (¬ good → (b.grottoInjectTake g).pipe.injQ = b.pipe.injQ ∧
      (b.grottoInjectTake g).ctr (Pg.cplx 1) (8 + g) = (b.ctr (Pg.cplx 1) (8 + g) + 1) % 2 ^ 64) := by
  have hgood : (decide (len < 76 ∨ 10252 < len) || b.grtBad (b.slotAddr ch sl) len) = true ↔
      ¬ (76 ≤ len ∧ len ≤ 10252 ∧ b.grtBad (b.slotAddr ch sl) len = false) := by
    generalize b.grtBad _ _ = x
    cases x
    · simp; omega
    · simp
  obtain ⟨h1, h2, h3, h4⟩ := b.injTaken_spec ch sl rest
  rw [grottoInjectTake_eq he hch hx]
  generalize b.injTaken ch sl rest = d at h1 h2 h3 h4 ⊢
  split_ifs with hb
  · have hgrt : (d.count (Pg.cplx 1) (8 + g)).grt = d.grt := by simp
    have hpipe : (d.count (Pg.cplx 1) (8 + g)).pipe = d.pipe := by simp
    refine ⟨?_, ?_, fun h => absurd h (hgood.mp hb), fun _ => ⟨?_, ?_⟩⟩
    · rw [chan, hgrt, ← chan, h1]
    · rw [chan, hgrt, ← chan, h2]
    · rw [hpipe, h3]
    · rw [ctr_count _ _ _ _ _ _ (by omega) (by omega), if_pos ⟨rfl, rfl⟩, ctr, h4, ← ctr]
  · exact ⟨h1, h2, fun _ => ⟨_, (Sp.get_set_self ..).trans (by rw [h3]), rfl, rfl, rfl, h4⟩, fun h => absurd (hgood.mpr h) hb⟩

end Body
end Sys2Proof.Machine
namespace Sys2Proof
open Machine

/-- Settles O42: each operation of the debugger by its code, the end of a STEP, the armed errors and the inject source. -/
theorem debuggerAndInjectSource : Obligations.DebuggerAndInjectSource := by
  unfold Obligations.DebuggerAndInjectSource
  refine ⟨fun th m s hth ht hbusy => ?_, fun th s hth hr hst => ?_, fun c m s hc ht => ?_, fun g sl len rest s hg hr hen => ?_⟩
  · dsimp only
    have hb : ∀ {d : Body}, Body.DbgTaken (Pg.core (th / 8) 2) s.dev.body d → d.on (Pg.core (th / 8) 2) R.GRT_DBG_BUSY = false := fun {d} hd => by
      rw [Body.on, hd.core2 (by decide) (by decide), show s.dev.body.rd (Pg.core (th / 8) 2) R.GRT_DBG_BUSY = 0 from hbusy]
      rfl
    have htst : ∀ {d : Body}, Body.DbgTaken (Pg.core (th / 8) 2) s.dev.body d → d.tst th = s.reg (Pg.core (th / 8) 1) R.GRT_TH_STATE (th % 8) :=
      fun hd => hd.core1 (by decide) (by decide)
    have hthr : ∀ {d : Body}, Body.DbgTaken (Pg.core (th / 8) 2) s.dev.body d → d.thr th = s.dev.body.thr th := fun hd => by
      rw [Body.thr, hd.grt, Body.thr]
    refine ⟨fun hno c hc => ?_, fun hm hns c hc => ?_, fun hm hrw => ?_, fun hm hs => ⟨fun hpr => ?_, ?_, fun hw => ?_, fun hw => ?_, fun y hy => ?_,
      fun hsel => ?_, fun hsel => ?_, fun hsel => ?_⟩⟩
    · obtain ⟨code, hop⟩ : ∃ code, Instr.DbgOp th m c code := by
        simp only [List.mem_cons, List.not_mem_nil, or_false] at hc
        obtain rfl | rfl | rfl | rfl | rfl | rfl := hc
        · exact ⟨1, .stop⟩
        · exact ⟨2, .resume⟩
        · exact ⟨3, .step⟩
        · exact ⟨4, .abandon⟩
        · exact ⟨5, .read⟩
        · exact ⟨6, .write⟩
      obtain ⟨d, hd, he⟩ := hop.exec_eq hth ht
      exact ⟨_, he.trans (by rw [hop.denied (hb hd) hno]), State.dbgDenied hth hd⟩
    · obtain ⟨code, hop, h1⟩ : ∃ code, Instr.DbgOp th m c code ∧ code ≠ 1 := by
        simp only [List.mem_cons, List.not_mem_nil, or_false] at hc
        obtain rfl | rfl | rfl | rfl | rfl := hc
        · exact ⟨2, .resume, by decide⟩
        · exact ⟨3, .step, by decide⟩
        · exact ⟨4, .abandon, by decide⟩
        · exact ⟨5, .read, by decide⟩
        · exact ⟨6, .write, by decide⟩
      obtain ⟨d, hd, he⟩ := hop.exec_eq hth ht
      exact ⟨_, he.trans (by rw [hop.notStopped h1 (hb hd) hm (by rw [htst hd]; exact hns)]), State.dbgFailed hth hd (by decide) (by decide)⟩
    · obtain ⟨d, hd, he⟩ := Instr.DbgOp.stop.exec_eq hth ht
      refine ⟨_, he.trans (by rw [Body.dbgStop_eq (hb hd) hm (by rw [htst hd]; exact hrw)]), ?_⟩
      obtain ⟨-, hmt, -, -, -, hmst, hmrd⟩ := (d.twr th R.GRT_TH_PRIOR (d.tst th)).cmdMove_spec th TH_STOPPED
      have hprior : ((d.twr th R.GRT_TH_PRIOR (d.tst th)).cmdMove th TH_STOPPED).trd th R.GRT_TH_PRIOR = d.tst th := by
        rw [Body.trd, hmrd _ _ _ _ _ (by decide) (Body.thrPage (by decide) th) (.inr (by decide)), Body.twr, Body.rd_wr_self]
        exact Nat.mod_eq_of_lt (d.rd_lt ..)
      generalize (d.twr th R.GRT_TH_PRIOR (d.tst th)).cmdMove th TH_STOPPED = e at hmt hmst hprior ⊢
      have hdone := s.dbgDone th e
      have het : e.thr th = s.dev.body.thr th := ((hmt th).trans (show _ = d.thr th from rfl)).trans (hthr hd)
      exact ⟨(hdone.trd _ (by decide) (by decide)).trans hmst, ⟨hdone.rc, hdone.told⟩,
        (hdone.trd _ (by decide) (by decide)).trans (hprior.trans (htst hd)), by rw [hdone.wins, het], by rw [hdone.binds, het],
        by rw [hdone.timer, het], by rw [hdone.regs, het], by rw [hdone.pc, het]⟩
    · obtain ⟨d, hd, he⟩ := Instr.DbgOp.resume.exec_eq hth ht
      have hdpr : d.trd th R.GRT_TH_PRIOR = s.reg (Pg.core (th / 8) 1) R.GRT_TH_PRIOR (th % 8) := hd.core1 (by decide) (by decide)
      refine ⟨_, he.trans (by rw [Body.dbgResume_eq (hb hd) hm (by rw [htst hd]; exact hs) (by rw [hdpr, hthr hd]; exact hpr)]), ?_⟩
      rw [hdpr]
      obtain ⟨-, hmt, -, -, -, hmst, -⟩ := d.cmdMove_spec th (s.reg (Pg.core (th / 8) 1) R.GRT_TH_PRIOR (th % 8))
      generalize d.cmdMove th (s.reg (Pg.core (th / 8) 1) R.GRT_TH_PRIOR (th % 8)) = e at hmt hmst ⊢
      have hdone := s.dbgDone th e
      have het : e.thr th = s.dev.body.thr th := (hmt th).trans (hthr hd)
      exact ⟨⟨hdone.rc, hdone.told⟩, (hdone.trd _ (by decide) (by decide)).trans (hmst.trans (Nat.mod_eq_of_lt (s.dev.body.rd_lt ..))),
        by rw [hdone.regs, het], by rw [hdone.wins, het]⟩
    · obtain ⟨d, hd, he⟩ := Instr.DbgOp.step.exec_eq hth ht
      refine ⟨_, he.trans (by rw [Body.dbgStep_eq (hb hd) hm (by rw [htst hd]; exact hs), hd.count, hthr hd]), ?_⟩
      obtain ⟨h1, h2, h3, h4⟩ := d.stepBegun th { s.dev.body.thr th with
        steps := some (max 1 (s.dev.body.rd (Pg.core (th / 8) 2) R.GRT_DBG_COUNT)), wait := none }
      generalize ((d.setThr th { s.dev.body.thr th with
        steps := some (max 1 (s.dev.body.rd (Pg.core (th / 8) 2) R.GRT_DBG_COUNT)), wait := none }).twr th R.GRT_TH_PRIOR TH_RUN).wr
        (Pg.core (th / 8) 2) R.GRT_DBG_BUSY 1 = e at h1 h2 h3 h4 ⊢
      exact ⟨(State.withBody_trd th).trans (h1.trans ((htst hd).trans hs)), (State.withBody_core2 _).trans h2,
        by rw [(State.withBody_thr th).2.2.2.2.2.2.2.1, h3]; rfl, by rw [State.withBody_thr_regs, h4]⟩
    · obtain ⟨d, hd, he⟩ := Instr.DbgOp.abandon.exec_eq hth ht
      have hwin : d.win' th (s.reg (Pg.core (th / 8) 2) R.GRT_DBG_WIN) = s.dev.body.win' th (s.reg (Pg.core (th / 8) 2) R.GRT_DBG_WIN) := by
        rw [Body.win', hthr hd, Body.win']
      have hchan : ∀ ch, d.chan ch = s.dev.body.chan ch := fun ch => by rw [Body.chan, hd.grt, Body.chan]
      refine ⟨_, he.trans (by rw [Body.dbgAbandon_eq (hb hd) hm (by rw [htst hd]; exact hs) hd.win (by rw [← State.reg, hwin]; exact hw)]), ?_⟩
      rw [← State.reg, hwin]
      have hdone := s.dbgDone th ((d.slotAbandon (s.dev.body.win' th (s.reg (Pg.core (th / 8) 2) R.GRT_DBG_WIN)).ch
        (s.dev.body.win' th (s.reg (Pg.core (th / 8) 2) R.GRT_DBG_WIN)).slot).setWin th (s.reg (Pg.core (th / 8) 2) R.GRT_DBG_WIN)
        { s.dev.body.win' th (s.reg (Pg.core (th / 8) 2) R.GRT_DBG_WIN) with st := 3 })
      refine ⟨⟨hdone.rc, hdone.told⟩, (hdone.trd _ (by decide) (by decide)).trans ((htst hd).trans hs), ?_, ?_, ?_⟩
      · rw [Body.win', hdone.wins, ← Body.win', Body.win_setWin]
      · rw [Body.chan, hdone.chans, ← Body.chan, Body.chan_setWin, Body.slotAbandon, Body.chan_setChan, Body.slotFree, Body.chan_setChan, hchan]
      · rw [Body.chan, hdone.chans, ← Body.chan, Body.chan_setWin, Body.slotAbandon, Body.chan_setChan, Body.slotFree, Body.chan_setChan, hchan]
    · obtain ⟨d, hd, he⟩ := Instr.DbgOp.abandon.exec_eq hth ht
      have hwin : d.win' th (s.reg (Pg.core (th / 8) 2) R.GRT_DBG_WIN) = s.dev.body.win' th (s.reg (Pg.core (th / 8) 2) R.GRT_DBG_WIN) := by
        rw [Body.win', hthr hd, Body.win']
      refine ⟨_, he.trans (by rw [Body.dbgAbandon_none (hb hd) hm (by rw [htst hd]; exact hs) hd.win (by rw [← State.reg, hwin]; exact hw)]), ?_⟩
      obtain ⟨h1, h2, -⟩ := State.dbgFailed hth hd (rc := 5) (by decide) (by decide)
      exact ⟨h1, h2⟩
    · obtain ⟨d, hd, he⟩ := Instr.DbgOp.read.exec_eq hth ht
      have hdsel : d.rd (Pg.core (th / 8) 2) R.GRT_DBG_SEL = s.reg (Pg.core (th / 8) 2) R.GRT_DBG_SEL := hd.core2 (by decide) (by decide)
      have hpend : d.pendBits th = s.dev.body.pendBits th := hd.pendBits
      have hstat : ∀ k, d.winStat th k = s.dev.body.winStat th k := fun k => by rw [Body.winStat, Body.win', hthr hd]; rfl
      have hgreg : ∀ k, d.greg th k = s.dev.body.greg th k := fun k => by rw [Body.greg, hthr hd]; rfl
      refine ⟨_, he.trans (by rw [Body.dbgRead_eq (y := y) (hb hd) hm (by rw [htst hd]; exact hs) hdsel (by rw [hpend, hstat, hgreg, hthr hd]; exact hy)]), ?_⟩
      have hdone := s.dbgDone th ((d.wr (Pg.core (th / 8) 2) R.GRT_DBG_DATA_LO y).wr (Pg.core (th / 8) 2) R.GRT_DBG_DATA_HI (y / 2 ^ 32))
      have hst : ((d.wr (Pg.core (th / 8) 2) R.GRT_DBG_DATA_LO y).wr (Pg.core (th / 8) 2) R.GRT_DBG_DATA_HI (y / 2 ^ 32)).tst th = d.tst th := by
        have hne : ∀ o < 0x1000, R.GRT_TH_STATE.addr (Pg.core (th / 8) 1) (th % 8) 0 ≠ Pg.core (th / 8) 2 + o := fun o ho => by
          simp only [Fld.addr, R.GRT_TH_STATE, Pg.core]; omega
        exact (Body.rd_wr_ne _ _ (by decide) (by decide) (.inl (hne 0x8C (by decide)))).trans
          (Body.rd_wr_ne _ _ (by decide) (by decide) (.inl (hne 0x88 (by decide))))
      refine ⟨⟨hdone.rc, hdone.told⟩, (hdone.trd _ (by decide) (by decide)).trans (hst.trans ((htst hd).trans hs)),
        (hdone.core2 _ (by decide) (by decide)).trans ?_, (hdone.core2 _ (by decide) (by decide)).trans (Body.rd_wr_self ..)⟩
      rw [Body.rd_wr_ne _ _ (by decide) (by decide) (.inl (by simp only [Fld.addr, R.GRT_DBG_DATA_LO, R.GRT_DBG_DATA_HI]; omega)), Body.rd_wr_self]
      rfl
    · obtain ⟨d, hd, he⟩ := Instr.DbgOp.read.exec_eq hth ht
      refine ⟨_, he.trans (by rw [Body.dbgRead_bad (hb hd) hm (by rw [htst hd]; exact hs) (hd.core2 (by decide) (by decide)) hsel]), ?_⟩
      obtain ⟨h1, h2, -⟩ := State.dbgFailed hth hd (rc := 4) (by decide) (by decide)
      exact ⟨h1, h2⟩
    · obtain ⟨d, hd, he⟩ := Instr.DbgOp.write.exec_eq hth ht
      have hlo : d.rd (Pg.core (th / 8) 2) R.GRT_DBG_DATA_LO = s.reg (Pg.core (th / 8) 2) R.GRT_DBG_DATA_LO := hd.core2 (by decide) (by decide)
      have hhi : d.rd (Pg.core (th / 8) 2) R.GRT_DBG_DATA_HI = s.reg (Pg.core (th / 8) 2) R.GRT_DBG_DATA_HI := hd.core2 (by decide) (by decide)
      have hlo' : s.reg (Pg.core (th / 8) 2) R.GRT_DBG_DATA_LO < 2 ^ 32 := s.dev.body.rd_lt ..
      have hhi' : s.reg (Pg.core (th / 8) 2) R.GRT_DBG_DATA_HI < 2 ^ 32 := s.dev.body.rd_lt ..
      refine ⟨_, he.trans (by rw [Body.dbgWrite_eq (hb hd) hm (by rw [htst hd]; exact hs) (hd.core2 (by decide) (by decide)) (by rw [hlo, hhi]) hsel]), ?_⟩
      obtain ⟨hrd, hg, hpc, hwm, hpe, hother⟩ := d.selWritten_spec th (s.dev.body.rd (Pg.core (th / 8) 2) R.GRT_DBG_SEL)
        (v := s.reg (Pg.core (th / 8) 2) R.GRT_DBG_DATA_LO + 2 ^ 32 * s.reg (Pg.core (th / 8) 2) R.GRT_DBG_DATA_HI) (by omega) hsel
      generalize d.selWritten th (s.dev.body.rd (Pg.core (th / 8) 2) R.GRT_DBG_SEL) _ = e at *
      have hdone := s.dbgDone th e
      have hgt : ∀ r, (s.withBody (e.dbgRc th 0)).dev.body.greg th r = e.greg th r := fun r => by rw [Body.greg, hdone.regs]; rfl
      refine ⟨⟨hdone.rc, hdone.told⟩, (hdone.trd _ (by decide) (by decide)).trans ?_, fun h => (hgt _).trans (hg h), fun h => hdone.pc.trans (hpc h),
        fun h => hdone.wmask.trans (hwm h), fun h n _ h25 h29 => ?_, fun r h hr => ?_⟩
      · exact (hrd _ _ _ _).trans ((htst hd).trans hs)
      · rw [hdone.pend n h25 h29, hpe h, bitOn_and]
      · rw [hgt, hother r h hr, Body.greg, hthr hd]; rfl
    · obtain ⟨d, hd, he⟩ := Instr.DbgOp.write.exec_eq hth ht
      refine ⟨_, he.trans (by rw [Body.dbgWrite_bad (hb hd) hm (by rw [htst hd]; exact hs) (hd.core2 (by decide) (by decide)) hsel]), ?_⟩
      obtain ⟨h1, h2, -⟩ := State.dbgFailed hth hd (rc := 4) (by decide) (by decide)
      exact ⟨h1, h2⟩
  · refine ⟨_, State.body_withBody (by rw [decide_eq_true hth]) hr (if_pos hst), ?_⟩
    obtain ⟨h1, h2, h3, h4, h5, h6, h7⟩ := s.dev.body.stepEnd_ends th
    generalize s.dev.body.stepEnd th TH_RUN = e at h1 h2 h3 h4 h5 h6 h7 ⊢
    exact ⟨(State.withBody_trd th).trans h1, (State.withBody_trd th).trans h2, (State.withBody_core2 _).trans h3, (State.withBody_core2 _).trans h4,
      (State.withBody_thr th).2.2.2.2.2.2.2.1.trans h5, (State.withBody_bitOn _ (by decide)).trans h6, (State.withBody_thr_regs th).trans h7⟩
  · obtain ⟨d, hd, he⟩ := exec_grtInject hc ht
    refine ⟨_, he, ?_⟩
    have hp := pageIs_core2 hc
    have hthread : d.rd (Pg.core c 2) R.GRT_INJ_THREAD = s.reg (Pg.core c 2) R.GRT_INJ_THREAD := hd.here (R.GRT_INJ_THREAD, 0, 0) (by decide)
    have hkind : d.rd (Pg.core c 2) R.GRT_INJ_KIND = s.reg (Pg.core c 2) R.GRT_INJ_KIND := hd.here (R.GRT_INJ_KIND, 0, 0) (by decide)
    have hthr : ∀ j, d.thr j = s.dev.body.thr j := fun j => by rw [hd.only]; rfl
    have hk := hd.keeps hp (by decide) (List.mem_singleton_self _)
    rw [Body.grtInject, hthread, hkind, hthr]
    refine ⟨State.withBody_keeps (hk.setThr _ _), ?_, fun h0 => ?_, fun h1 => ?_⟩
    · rw [State.withBody_thr_regs, Body.thr_setThr_self]
      split_ifs <;> rfl
    · rw [(State.withBody_thr _).2.2.2.2.2.2.2.2.1, Body.thr_setThr_self, if_pos h0]
    · rw [(State.withBody_thr _).2.2.2.2.2.2.2.2.2.1, Body.thr_setThr_self, if_neg (by rw [h1]; decide)]
  · dsimp only
    intro hx
    refine ⟨_, State.body_withBody (by rw [decide_eq_true hg]) hr rfl, ?_⟩
    obtain ⟨h1, h2, h3, h4⟩ := Body.grottoInjectTake_spec hg hen rfl hx
    generalize s.dev.body.grottoInjectTake g = e at h1 h2 h3 h4 ⊢
    refine ⟨?_, ?_, fun hgood => ?_, fun hbad => ?_⟩
    · rw [Body.chan, State.withBody_chans]; exact h1
    · rw [Body.chan, State.withBody_chans]; exact h2
    · rw [State.withBody_rest.2.2.2.2.2.2.2.2.1, State.withBody_ctrs]
      exact h3 hgood
    · rw [State.withBody_rest.2.2.2.2.2.2.2.2.1, State.withBody_ctr]
      exact h4 hbad

end Sys2Proof
end

section
/-! O14: the link states of a port (R73, R74). -/

namespace Sys2Proof.Machine
namespace Body

section
variable {b c : Body} {p : Nat}

/-! The end of a frame in reception leaves the port's registers, but for the priorities held in XOFF. -/

/-- A register that no end of a frame changes. -/
def offXoff (g : Fld) : Prop := g.lo < 32 ∧ g.off < 0x1000 ∧ (g.off ≠ R.PORT_PFC_XOFF.off ∨ g.lo ≠ R.PORT_PFC_XOFF.lo)

theorem lane_ne_preclass (k g : Nat) : Pg.lane k ≠ Pg.preclass g := by
  unfold Pg.lane Pg.preclass Pg.gallery
  omega

theorem prd_wr_preclass {k n v : Nat} {f g : Fld} (hf : f.lo < 32 ∧ f.off < 0x1000) (hg : g.lo < 32 ∧ g.off < 0x1000) :
    (b.wr (Pg.preclass n) f v).prd k g = b.prd k g :=
  b.rd_wr_page (by unfold Pg.preclass Pg.gallery; omega) (Pg.lane_ge k).2 (lane_ne_preclass k n).symm ⟨hf.1, hg.1, hf.2, hg.2⟩

theorem sendPfc_prd (p v q k : Nat) (g : Fld) : (b.sendPfc p v q).prd k g = b.prd k g := by
  unfold sendPfc
  split_ifs
  · exact (b.mark (Mk.xoff p)).count_rd (Pg.lane p) TX_PFC 1 (Pg.lane k) g 0 0
  · rfl

theorem xoffUpdate_prd (p k : Nat) (again : Bool) {g : Fld} (hg : offXoff g) : (b.xoffUpdate p again).prd k g = b.prd k g := by
  have hw : ∀ v, (b.pwr p R.PORT_PFC_XOFF v).prd k g = b.prd k g := fun v =>
    b.prd_pwr_ne ⟨by decide, hg.1, by decide, hg.2.1, hg.2.2.imp Ne.symm Ne.symm⟩
  unfold xoffUpdate
  dsimp only
  split_ifs
  · rw [sendPfc_prd, sendPfc_prd, hw]
  · rw [sendPfc_prd, hw]
  · rw [sendPfc_prd, hw]
  · rw [hw]

theorem pfcEntrance_prd (p k : Nat) {g : Fld} (hg : offXoff g) : (b.pfcEntrance p).prd k g = b.prd k g := by
  unfold pfcEntrance
  dsimp only
  rw [xoffUpdate_prd _ _ _ hg]
  split_ifs <;> rfl

theorem entLevel_prd (n k : Nat) {g : Fld} (hg : g.lo < 32 ∧ g.off < 0x1000) : (b.entLevel n).prd k g = b.prd k g := by
  unfold entLevel
  dsimp only
  rw [prd_wr_preclass (by decide) hg, prd_wr_preclass (by decide) hg]

theorem entChanged_prd (p k : Nat) {g : Fld} (hg : offXoff g) : (b.entChanged p).prd k g = b.prd k g := by
  unfold entChanged
  rw [pfcEntrance_prd _ _ hg, entLevel_prd _ _ ⟨hg.1, hg.2.1⟩]
  rfl

theorem rxAbort_prd (p k : Nat) {g : Fld} (hg : offXoff g) : (b.rxAbort p).prd k g = b.prd k g := by
  have hc : ∀ (d : Body) n, (d.count (Pg.lane p) n).prd k g = d.prd k g := fun d n => d.count_rd (Pg.lane p) n 1 (Pg.lane k) g 0 0
  have hrx : (b.setRx p none).prd k g = b.prd k g := rfl
  have hled : ∀ (d : Body) l n, (d.ledOut l n).prd k g = d.prd k g := fun _ _ _ => rfl
  have hfifo : ∀ (d : Body) l, (d.setFifo p l).prd k g = d.prd k g := fun _ _ => rfl
  have hver : ∀ (d : Body) i v, (d.setVerdict i v).prd k g = d.prd k g := fun _ _ _ => rfl
  unfold rxAbort
  split
  · rfl
  · dsimp only
    split
    · split_ifs
      · rw [hc, hrx]
      · rw [hrx]
    · rw [hc, hrx]
    · rw [entChanged_prd _ _ hg, hfifo, hled, hc, hc, hrx]
    · rw [hver, hc, hrx]

theorem rxAbort_none (h : b.rxOf p = none) : b.rxAbort p = b := by
  rw [rxAbort, h]

/-! Registers set on each lane. -/

/-- Registers set on every lane of a list. -/
def setLanes (b : Body) (l : List Nat) (fs : List (Fld × Nat)) : Body := l.foldl (fun b x => fs.foldl (fun b e => b.pwr x e.1 e.2) b) b

/-- Two registers apart. -/
def apart (f g : Fld) : Bool := decide (f.lo < 32 ∧ g.lo < 32 ∧ f.off < 0x1000 ∧ g.off < 0x1000 ∧ (f.off ≠ g.off ∨ f.lo ≠ g.lo))

theorem pwr_apart {x k v : Nat} {f g : Fld} (h : apart f g = true) : (b.pwr x f v).prd k g = b.prd k g :=
  b.prd_pwr_ne (of_decide_eq_true h)

theorem pwrs_other {fs : List (Fld × Nat)} {x k : Nat} {g : Fld} (h : ∀ e ∈ fs, apart e.1 g = true) (b : Body) :
    (fs.foldl (fun b e => b.pwr x e.1 e.2) b).prd k g = b.prd k g := by
  induction fs generalizing b with
  | nil => rfl
  | cons e fs ih => rw [List.foldl_cons, ih fun y hy => h y (List.mem_cons_of_mem e hy), pwr_apart (h e List.mem_cons_self)]

/-- The other registers of the lane pages stand. -/
theorem setLanes_other {l : List Nat} {fs : List (Fld × Nat)} {k : Nat} {g : Fld} (h : ∀ e ∈ fs, apart e.1 g = true) (b : Body) :
    (b.setLanes l fs).prd k g = b.prd k g := by
  unfold setLanes
  induction l generalizing b with
  | nil => rfl
  | cons x l ih => rw [List.foldl_cons, ih, pwrs_other h]

/-- A register that is set reads so on every lane of the list. -/
theorem setLanes_mem {l : List Nat} {fs gs : List (Fld × Nat)} {k v : Nat} {f : Fld} (hk : k ∈ l) (hf : f.lo < 32 ∧ f.off < 0x1000) (hv : v < 2 ^ f.width)
    (h1 : ∀ e ∈ fs, apart e.1 f = true) (h2 : ∀ e ∈ gs, apart e.1 f = true) (b : Body) : (b.setLanes l (fs ++ (f, v) :: gs)).prd k f = v := by
  unfold setLanes
  refine foldl_sets (fun x (b : Body) => b.prd x f = v) (fun (b : Body) x => (fs ++ (f, v) :: gs).foldl (fun b e => b.pwr x e.1 e.2) b)
    (fun a x => ?_) (fun a x y hy => ?_) l b k hk
  · rw [List.foldl_append, List.foldl_cons, pwrs_other h2, prd_pwr_self, Nat.mod_eq_of_lt hv]
  · rw [List.foldl_append, List.foldl_cons, pwrs_other h2, prd_pwr _ _ _ _ hf, pwrs_other h1]
    split_ifs
    · exact Nat.mod_eq_of_lt hv
    · exact hy

theorem setLanes_net (l : List Nat) (fs : List (Fld × Nat)) (b : Body) : (b.setLanes l fs).net = b.net :=
  foldl_same Body.net _ (fun c x => foldl_same Body.net _ (fun c e => by simp [pwr]) fs c) l b

theorem Keeps.setLanes {ps : List Nat} {l : List Nat} {fs : List (Fld × Nat)} (h : Keeps ps b c) (hl : ∀ x ∈ l, Pg.lane x ∈ ps)
    (hf : ∀ e ∈ fs, e.1.lo < 32 ∧ e.1.off < 0x1000) : Keeps ps b (c.setLanes l fs) :=
  h.foldl l fun _ x hx hd => hd.foldl fs fun _ e he hd => hd.pwr (hf e he) (hl x hx)

/-- The pages that a change of a port's link may change. -/
def linkPages (b : Body) (p : Nat) : List Nat := Pg.lane p :: Pg.clocks :: Pg.galPower (p / 64) :: (b.portLanes p).map Pg.lane

theorem lane_mem_linkPages {l : Nat} (h : l ∈ b.portLanes p) : Pg.lane l ∈ b.linkPages p := by
  simp only [linkPages, List.mem_cons, List.mem_map]
  exact .inr (.inr (.inr ⟨l, h, rfl⟩))

theorem port_mem_linkPages : Pg.lane p ∈ b.linkPages p := List.mem_cons_self

theorem clocks_mem_linkPages : Pg.clocks ∈ b.linkPages p := by simp [linkPages]

theorem galPower_mem_linkPages : Pg.galPower (p / 64) ∈ b.linkPages p := by simp [linkPages]

theorem self_mem_portLanes (h : modeLanes (b.prd p R.PORT_MODE) ≠ 0) : p ∈ b.portLanes p :=
  List.mem_map.mpr ⟨0, List.mem_range.mpr (Nat.pos_of_ne_zero h), rfl⟩

/-- The conditions of R73. -/
theorem portValid_iff : b.portValid p = true ↔
    (∀ l ∈ b.portLanes p, b.laneOwner l = none ∧ b.prd l R.PG_PWR_STATE = 0) ∧ modeLanes (b.prd p R.PORT_MODE) ≠ 0 ∧
    p % 64 % modeLanes (b.prd p R.PORT_MODE) = 0 ∧ 64 ≤ b.prd p R.PORT_MAX_FRAME ∧ b.prd p R.PORT_MAX_FRAME ≤ 10240 := by
  have hprd : ∀ l, b.rd (Pg.lane l) R.PG_PWR_STATE = b.prd l R.PG_PWR_STATE := fun _ => rfl
  rw [portValid]
  simp only [Bool.and_eq_true, List.all_eq_true, bne_iff_ne, beq_iff_eq, decide_eq_true_iff, Option.isNone_iff_eq_none, hprd]
  tauto

/-- A remote fault received or cleared (R74). -/
theorem remoteFault_spec (on : Bool) : (b.remoteFault p on).prd p R.PORT_REMOTE_FAULT = b2n on ∧ Keeps [Pg.lane p] b (b.remoteFault p on) := by
  refine ⟨(prd_pwr_self ..).trans ?_, (Keeps.refl b).pwr (by decide) (List.mem_singleton_self _)⟩
  cases on <;> rfl

/-- PORT_EN set on a port that may be (R73). -/
theorem portEnable_spec (h0 : b.prd p R.PORT_EN = 0) (hv : b.portValid p = true) :
    (b.portEnable p).prd p R.PORT_EN = 1 ∧ (b.portEnable p).prd p R.PORT_LINK_STATE = 1 ∧
    (∀ l ∈ b.portLanes p, (b.portEnable p).prd l R.LANE_MEMBER = 1 ∧ (b.portEnable p).prd l R.LANE_RATE = modeLaneRate (b.prd p R.PORT_MODE)) ∧
    (b.portEnable p).prd p R.PORT_MODE = b.prd p R.PORT_MODE ∧ Keeps (b.linkPages p) b (b.portEnable p) := by
  have hrate : modeLaneRate (b.prd p R.PORT_MODE) < 4 := by
    have h : b.prd p R.PORT_MODE < 16 := b.rd_lt ..
    revert h
    generalize b.prd p R.PORT_MODE = m
    revert m
    decide
  have heq : b.portEnable p = ((((b.setLanes (b.portLanes p) [(R.LANE_MEMBER, 1), (R.LANE_RATE, modeLaneRate (b.prd p R.PORT_MODE))]).pwr p R.PORT_EN 1).pwr p
      R.PORT_LINK_STATE 1).wakeFill (p / 64)).synceUpdate := by
    rw [portEnable, if_neg (by omega), if_neg (by simp [hv])]
    rfl
  generalize hd : b.setLanes (b.portLanes p) [(R.LANE_MEMBER, 1), (R.LANE_RATE, modeLaneRate (b.prd p R.PORT_MODE))] = d at heq
  have hrd : ∀ k g, g.lo < 32 ∧ g.off < 0x1000 → (b.portEnable p).prd k g = ((d.pwr p R.PORT_EN 1).pwr p R.PORT_LINK_STATE 1).prd k g := fun k g hg => by
    rw [heq, synce_prd _ _ hg, wakeFill_prd _ _ _ hg]
  have hk : Keeps (b.linkPages p) b d := hd ▸ (Keeps.refl b).setLanes (fun _ => lane_mem_linkPages) (by simp; decide)
  refine ⟨?_, ?_, fun l hl => ⟨?_, ?_⟩, ?_, ?_⟩
  · rw [hrd _ _ (by decide), pwr_apart (by decide), prd_pwr_self]; rfl
  · rw [hrd _ _ (by decide), prd_pwr_self]; rfl
  · rw [hrd _ _ (by decide), pwr_apart (by decide), pwr_apart (by decide), ← hd]
    exact setLanes_mem (fs := []) hl (by decide) (by decide) (by simp) (by simp; decide) b
  · rw [hrd _ _ (by decide), pwr_apart (by decide), pwr_apart (by decide), ← hd]
    exact setLanes_mem (fs := [(R.LANE_MEMBER, 1)]) hl (by decide) hrate (by decide) (by simp) b
  · rw [hrd _ _ (by decide), pwr_apart (by decide), pwr_apart (by decide), ← hd]
    exact setLanes_other (by simp; decide) b
  · rw [heq]
    exact (((hk.pwr (by decide) port_mem_linkPages).pwr (by decide) port_mem_linkPages).wakeFill galPower_mem_linkPages).synce clocks_mem_linkPages

/-- PORT_EN cleared (R73). -/
theorem portDisable_spec (h1 : b.prd p R.PORT_EN = 1) : (b.portDisable p).prd p R.PORT_EN = 0 ∧ (b.portDisable p).prd p R.PORT_LINK_STATE = 0 ∧
    (∀ l ∈ b.portLanes p, (b.portDisable p).prd l R.LANE_MEMBER = 0) ∧ (b.rxOf p = none → Keeps (b.linkPages p) b (b.portDisable p)) := by
  have hlanes : (b.rxAbort p).portLanes p = b.portLanes p := by
    rw [portLanes, rxAbort_prd _ _ (by unfold offXoff; decide), portLanes]
  have heq : b.portDisable p = (((((b.rxAbort p).setLanes (b.portLanes p) [(R.LANE_MEMBER, 0), (R.LANE_RATE, 0), (R.LANE_TRAINED, 0)]).pwr p R.PORT_EN 0).pwr p
      R.PORT_LINK_STATE 0).wakeFill (p / 64)).synceUpdate := by
    rw [portDisable, if_neg (by omega), ← hlanes]
    rfl
  have hrd : ∀ k g, g.lo < 32 ∧ g.off < 0x1000 → (b.portDisable p).prd k g =
      ((((b.rxAbort p).setLanes (b.portLanes p) [(R.LANE_MEMBER, 0), (R.LANE_RATE, 0), (R.LANE_TRAINED, 0)]).pwr p R.PORT_EN 0).pwr p R.PORT_LINK_STATE 0).prd k g :=
    fun k g hg => by rw [heq, synce_prd _ _ hg, wakeFill_prd _ _ _ hg]
  refine ⟨?_, ?_, fun l hl => ?_, fun hn => ?_⟩
  · rw [hrd _ _ (by decide), pwr_apart (by decide), prd_pwr_self]; rfl
  · rw [hrd _ _ (by decide), prd_pwr_self]; rfl
  · rw [hrd _ _ (by decide), pwr_apart (by decide), pwr_apart (by decide)]
    exact setLanes_mem (fs := []) hl (by decide) (by decide) (by simp) (by decide) _
  · rw [heq, rxAbort_none hn]
    exact (((((Keeps.refl b).setLanes (fun _ => lane_mem_linkPages) (by decide)).pwr (by decide) port_mem_linkPages).pwr (by decide)
      port_mem_linkPages).wakeFill galPower_mem_linkPages).synce clocks_mem_linkPages

/-- Signal on every lane (R74). -/
theorem signalDetected_spec (h : b.prd p R.PORT_LINK_STATE = 1) (kr : Bool) :
    (b.signalDetected p kr).prd p R.PORT_LINK_STATE = (if kr then 2 else 3) ∧
    (∀ l ∈ b.portLanes p, (b.signalDetected p kr).prd l R.LANE_SIG_DET = 1) ∧ Keeps (b.linkPages p) b (b.signalDetected p kr) := by
  have heq : b.signalDetected p kr = ((b.setLanes (b.portLanes p) [(R.LANE_SIG_DET, 1), (R.LANE_CDR_LOCK, 1)]).pwr p R.PORT_LINK_STATE
      (if kr then 2 else 3)).synceUpdate := by
    rw [signalDetected, if_neg (by omega)]
    rfl
  rw [heq]
  refine ⟨?_, fun l hl => ?_, (((Keeps.refl b).setLanes (fun _ => lane_mem_linkPages) (by decide)).pwr (by decide) port_mem_linkPages).synce clocks_mem_linkPages⟩
  · rw [synce_prd _ _ (by decide), prd_pwr_self]
    cases kr <;> rfl
  · rw [synce_prd _ _ (by decide), pwr_apart (by decide)]
    exact setLanes_mem (fs := []) hl (by decide) (by decide) (by simp) (by decide) b

theorem trainingComplete_spec (h : b.prd p R.PORT_LINK_STATE = 2) : (b.trainingComplete p).prd p R.PORT_LINK_STATE = 3 ∧
    (∀ l ∈ b.portLanes p, (b.trainingComplete p).prd l R.LANE_TRAINED = 1) ∧ Keeps (b.linkPages p) b (b.trainingComplete p) := by
  have heq : b.trainingComplete p = (b.setLanes (b.portLanes p) [(R.LANE_TRAINED, 1)]).pwr p R.PORT_LINK_STATE 3 := by
    rw [trainingComplete, if_neg (by omega)]
    rfl
  rw [heq]
  refine ⟨?_, fun l hl => ?_, ((Keeps.refl b).setLanes (fun _ => lane_mem_linkPages) (by decide)).pwr (by decide) port_mem_linkPages⟩
  · rw [prd_pwr_self]; rfl
  · rw [pwr_apart (by decide)]
    exact setLanes_mem (fs := []) hl (by decide) (by decide) (by simp) (by simp) b

theorem trainingTimeout_spec (h : b.prd p R.PORT_LINK_STATE = 2) : (b.trainingTimeout p).prd p R.PORT_LINK_STATE = 1 ∧
    (b.trainingTimeout p).prd p (evtPend R.PORT_EVT_TRAIN_TO) = 1 ∧ Keeps (b.linkPages p) b (b.trainingTimeout p) := by
  rw [trainingTimeout, if_neg (by omega)]
  refine ⟨?_, prd_fire_pend _ (by decide), ((Keeps.refl b).pwr (by decide) port_mem_linkPages).fire (by decide) (Pg.lane_ge p).2 port_mem_linkPages⟩
  rw [prd_fire _ (by decide) (by decide) (Pg.lane_ge p).2, prd_pwr_self]
  rfl

theorem linkUp_spec (h : b.prd p R.PORT_LINK_STATE = 3) : (b.linkUp p).prd p R.PORT_LINK_STATE = 4 ∧
    (b.linkUp p).prd p (evtPend R.PORT_EVT_LINK) = 1 ∧ Keeps (b.linkPages p) b (b.linkUp p) := by
  rw [linkUp, if_neg (by omega)]
  refine ⟨?_, ?_, ((((Keeps.refl b).pwr (by decide) port_mem_linkPages).pwr (by decide) port_mem_linkPages).fire (by decide) (Pg.lane_ge p).2
    port_mem_linkPages).synce clocks_mem_linkPages⟩
  · rw [synce_prd _ _ (by decide), prd_fire _ (by decide) (by decide) (Pg.lane_ge p).2, pwr_apart (by decide), prd_pwr_self]
    rfl
  · rw [synce_prd _ _ (by decide), prd_fire_pend _ (by decide)]

/-- Loss on a lane of a port that is UP (R74). -/
theorem linkLoss_spec (h : b.prd p R.PORT_LINK_STATE = 4) {l : Nat} (hl : l ∈ b.portLanes p) (sig : Bool) :
    (b.linkLoss p l sig).prd p R.PORT_LINK_STATE = 1 ∧ (b.linkLoss p l sig).prd p (evtPend R.PORT_EVT_LINK) = 1 ∧
    (∀ x ∈ b.portLanes p, (b.linkLoss p l sig).prd x R.LANE_TRAINED = 0) ∧ (sig = true → (b.linkLoss p l sig).prd l R.LANE_SIG_DET = 0) ∧
    (b.rxOf p = none → Keeps (b.linkPages p) b (b.linkLoss p l sig)) ∧
    ∀ k (g : Fld), offXoff g → 0x80 ≤ g.off → apart R.LANE_TRAINED g = true → apart R.LANE_SIG_DET g = true → apart R.LANE_CDR_LOCK g = true →
      apart R.PORT_LINK_STATE g = true ∨ k ≠ p → (b.linkLoss p l sig).prd k g = b.prd k g := by
  generalize hd : (if sig then ((b.setLanes (b.portLanes p) [(R.LANE_TRAINED, 0)]).pwr l R.LANE_SIG_DET 0).pwr l R.LANE_CDR_LOCK 0
    else b.setLanes (b.portLanes p) [(R.LANE_TRAINED, 0)]) = d
  have heq : b.linkLoss p l sig = (((d.pwr p R.PORT_LINK_STATE 1).fire (Pg.lane p) R.PORT_EVT_LINK).rxAbort p).synceUpdate := by
    rw [linkLoss, if_neg (by simp [h, hl]), ← hd]
    rfl
  have hk : Keeps (b.linkPages p) b d := by
    have hs : Keeps (b.linkPages p) b (b.setLanes (b.portLanes p) [(R.LANE_TRAINED, 0)]) :=
      (Keeps.refl b).setLanes (fun _ => lane_mem_linkPages) (by decide)
    rw [← hd]
    split_ifs
    · exact (hs.pwr (by decide) (lane_mem_linkPages hl)).pwr (by decide) (lane_mem_linkPages hl)
    · exact hs
  have hrd : ∀ k g, offXoff g → 0x80 ≤ g.off → (b.linkLoss p l sig).prd k g = (d.pwr p R.PORT_LINK_STATE 1).prd k g := fun k g hg h80 => by
    rw [heq, synce_prd _ _ ⟨hg.1, hg.2.1⟩, rxAbort_prd _ _ hg, prd_fire _ (by decide) ⟨hg.1, h80, hg.2.1⟩ (Pg.lane_ge p).2]
  refine ⟨?_, ?_, fun x hx => ?_, fun hs => ?_, fun hn => ?_, fun k g hg h80 ht hsd hcd hls => ?_⟩
  · rw [hrd _ _ (by unfold offXoff; decide) (by decide), prd_pwr_self]; rfl
  · rw [heq, synce_prd _ _ (by decide), rxAbort_prd _ _ (by unfold offXoff; decide), prd_fire_pend _ (by decide)]
  · rw [hrd _ _ (by unfold offXoff; decide) (by decide), pwr_apart (by decide), ← hd]
    have hset := setLanes_mem (fs := []) (gs := []) (f := R.LANE_TRAINED) (v := 0) hx (by decide) (by decide) (by simp) (by simp) b
    split_ifs
    · rw [pwr_apart (by decide), pwr_apart (by decide)]; exact hset
    · exact hset
  · rw [hrd _ _ (by unfold offXoff; decide) (by decide), pwr_apart (by decide), ← hd, if_pos hs, pwr_apart (by decide), prd_pwr_self]
    rfl
  · rw [heq, rxAbort_none]
    · exact ((hk.pwr (by decide) port_mem_linkPages).fire (by decide) (Pg.lane_ge p).2 port_mem_linkPages).synce clocks_mem_linkPages
    · have hnet : ((d.pwr p R.PORT_LINK_STATE 1).fire (Pg.lane p) R.PORT_EVT_LINK).net = b.net := by
        rw [← hd]
        split_ifs <;> simp [pwr, setLanes_net]
      rw [rxOf, hnet]
      exact hn
  · rw [hrd _ _ hg h80]
    have hw : (d.pwr p R.PORT_LINK_STATE 1).prd k g = d.prd k g := by
      rcases hls with hls | hls
      · exact pwr_apart hls
      · refine d.rd_wr_ne _ (by decide) hg.1 (.inl fun e => hls (Pg.lane_inj ?_))
        have := Pg.lane_ge k
        have := Pg.lane_ge p
        have hoff : R.PORT_LINK_STATE.off < 0x1000 := by decide
        have := hg.2.1
        rw [Fld.addr_zero, Fld.addr_zero] at e
        omega
    have hset : (b.setLanes (b.portLanes p) [(R.LANE_TRAINED, 0)]).prd k g = b.prd k g := setLanes_other (by simpa using ht) b
    rw [hw, ← hd]
    split_ifs
    · rw [pwr_apart hcd, pwr_apart hsd, hset]
    · exact hset

end

end Body

/-- A register of a lane page reads as the body has it. -/
theorem State.withBody_prd {s : State} {c : Body} {k v : Nat} {g : Fld} (h : c.prd k g = v) (hg : g.lo < 32 := by decide) :
    (s.withBody c).reg (Pg.lane k) g = v := by
  have := (Pg.lane_ge k).1
  exact (State.withBody_reg hg (notedAt_big (by simp only [Fld.addr]; omega))).trans h

theorem State.withBody_lane_evt {s : State} {c : Body} {k n : Nat} (h : c.prd k (evtPend n) = 1) (hn : n < 32 := by decide) :
    (s.withBody c).evt (Pg.lane k) n := by
  have := (Pg.lane_ge k).1
  exact (State.withBody_evt hn (notedAt_big (by omega))).mpr h

end Sys2Proof.Machine

namespace Sys2Proof
open Machine

/-- Settles O14: each change of a link is what it sets on the port's lanes, and its frame. -/
theorem portLinkStates : Obligations.PortLinkStates := by
  unfold Obligations.PortLinkStates
  intro p s hp hr
  have hok : decide (p < 512) = true := decide_eq_true hp
  refine ⟨fun m ht h0 hv => ?_, fun m ht h1 hn hm1 hm2 => ?_, fun htp h1 kr => ?_, fun h2 => ?_, fun h2 => ?_, fun htp h3 => ?_,
    fun h4 l hl hl5 sig => ?_, fun on => ?_⟩
  · obtain ⟨hlanes, hown⟩ := Body.portValid_iff.mp hv
    have hn : s.dev.body.notPort p = false := by
      rw [Body.notPort, (hlanes p (Body.self_mem_portLanes hown.1)).1]
    obtain ⟨c, hk, hen, hmode, hmf, hpwr, -, hput⟩ := cfg_put hp (x := 1) (by decide) ht hn hown.2.2
    have hpl : c.portLanes p = s.dev.body.portLanes p := by rw [Body.portLanes, hmode, Body.portLanes]
    have howner : ∀ l, c.laneOwner l = s.dev.body.laneOwner l := fun l => by simp only [Body.laneOwner, hen, hmode]
    have hcv : c.portValid p = true := by
      rw [Body.portValid_iff, hpl, hmode, hmf]
      exact ⟨fun l hl => by rw [howner, hpwr]; exact hlanes l hl, hown⟩
    obtain ⟨e1, e2, e3, e4, e5⟩ := Body.portEnable_spec ((hen p).trans h0) hcv
    refine ⟨_, State.live_withBody (by rw [ht.known, hok]; rfl) ht.runs (hput.trans (by rw [if_neg (by decide)])), ?_⟩
    generalize c.portEnable p = e at e1 e2 e3 e4 e5 ⊢
    rw [hpl, hmode] at e3
    refine ⟨State.withBody_prd e1, State.withBody_prd e2, fun l hl => ⟨State.withBody_prd (e3 l hl).1, State.withBody_prd (e3 l hl).2⟩,
      State.withBody_prd (e4.trans (hmode p)), State.withBody_keeps ((hk.mono ?_).trans (e5.mono ?_))⟩
    · simp
    · rw [Body.linkPages, hpl]; exact fun x hx => hx
  · obtain ⟨c, hk, hen, hmode, -, -, hnet, hput⟩ := cfg_put hp (x := 0) (by decide) ht hn ⟨hm1, hm2⟩
    have hpl : c.portLanes p = s.dev.body.portLanes p := by rw [Body.portLanes, hmode, Body.portLanes]
    obtain ⟨e1, e2, e3, e4⟩ := Body.portDisable_spec ((hen p).trans h1)
    refine ⟨_, State.live_withBody (by rw [ht.known, hok]; rfl) ht.runs (hput.trans (by rw [if_pos rfl, if_pos (show s.dev.body.prd p R.PORT_EN = 1 from h1)])), ?_⟩
    generalize c.portDisable p = e at e1 e2 e3 e4 ⊢
    rw [hpl] at e3
    refine ⟨State.withBody_prd e1, State.withBody_prd e2, fun l hl => State.withBody_prd (e3 l hl), fun hrx =>
      State.withBody_keeps ((hk.mono ?_).trans ((e4 (by rw [Body.rxOf, hnet]; exact hrx)).mono ?_))⟩
    · simp
    · rw [Body.linkPages, hpl]; exact fun x hx => hx
  · obtain ⟨e1, e2, e3⟩ := Body.signalDetected_spec h1 kr
    exact ⟨_, State.body_withBody hok hr (if_neg (by simp [htp])), State.withBody_prd e1, fun l hl => State.withBody_prd (e2 l hl),
      State.withBody_keeps e3⟩
  · obtain ⟨e1, e2, e3⟩ := Body.trainingComplete_spec h2
    exact ⟨_, State.body_withBody hok hr rfl, State.withBody_prd e1, fun l hl => State.withBody_prd (e2 l hl), State.withBody_keeps e3⟩
  · obtain ⟨e1, e2, e3⟩ := Body.trainingTimeout_spec h2
    exact ⟨_, State.body_withBody hok hr rfl, State.withBody_prd e1, State.withBody_lane_evt e2, State.withBody_keeps e3⟩
  · obtain ⟨e1, e2, e3⟩ := Body.linkUp_spec h3
    exact ⟨_, State.body_withBody hok hr (if_neg (by simp [htp])), State.withBody_prd e1, State.withBody_lane_evt e2, State.withBody_keeps e3⟩
  · obtain ⟨e1, e2, e3, e4, e5, -⟩ := Body.linkLoss_spec h4 hl sig
    exact ⟨_, State.body_withBody (by rw [hok, decide_eq_true hl5]; rfl) hr rfl, State.withBody_prd e1, State.withBody_lane_evt e2,
      fun x hx => State.withBody_prd (e3 x hx), fun hs => State.withBody_prd (e4 hs), fun hn => State.withBody_keeps (e5 hn)⟩
  · refine ⟨_, State.body_withBody hok hr rfl, State.withBody_prd (Body.remoteFault_spec on).1, fun ho => ?_, State.withBody_keeps (Body.remoteFault_spec on).2⟩
    have hrf := (State.withBody_prd (s := s) (Body.remoteFault_spec (b := s.dev.body) (p := p) on).1)
    subst ho
    rw [Body.portSends, show (s.withBody (s.dev.body.remoteFault p true)).dev.body.prd p R.PORT_REMOTE_FAULT = 1 from hrf]
    exact Bool.and_false _

end Sys2Proof
end

section
/-! O15: the FEC window, lane power and the end of overload (R76, R83, R97). -/

namespace Sys2Proof.Machine
namespace Body

section
variable {b : Body} {p : Nat}

theorem prd_count (q i n k : Nat) (g : Fld) : (b.count q i n).prd k g = b.prd k g := b.count_rd q i n (Pg.lane k) g 0 0

theorem prd_mark (m k : Nat) (g : Fld) : (b.mark m).prd k g = b.prd k g := rfl

theorem pwr_ctr (k v q i : Nat) (f : Fld) : (b.pwr k f v).ctr q i = b.ctr q i := b.wr_ctr ..

/-- A run of counters of a page counted, each once. -/
def countRun (b : Body) (q base : Nat) (l : List (Nat × Nat)) : Body := l.foldl (fun b x => b.count q (base + x.2) x.1) b

theorem countRun_prd (q base : Nat) (l : List (Nat × Nat)) (k : Nat) (g : Fld) (b : Body) : (b.countRun q base l).prd k g = b.prd k g :=
  foldl_same (fun c : Body => c.prd k g) _ (fun c _ => prd_count q _ _ k g) l b

theorem countRun_ctr_below {q base i : Nat} {l : List (Nat × Nat)} (hi : i < base) (hl : ∀ x ∈ l, base + x.2 < 0x1000) (b : Body) :
    (b.countRun q base l).ctr q i = b.ctr q i :=
  foldl_same_mem (fun c : Body => c.ctr q i) (fun (b : Body) (x : Nat × Nat) => b.count q (base + x.2) x.1) l b fun c x hx => by
    have := hl x hx
    exact ctr_count_ne (by omega) (by omega) (by omega)

theorem countRun_ctr {q base : Nat} (vs : List Nat) : ∀ (k : Nat), base + k + vs.length ≤ 0x1000 → ∀ (b : Body) (i : Nat), k ≤ i → i < k + vs.length →
    (b.countRun q base (vs.zipIdx k)).ctr q (base + i) = (b.ctr q (base + i) + vs.getD (i - k) 0) % 2 ^ 64 := by
  induction vs with
  | nil => intro k _ b i h1 h2; simp only [List.length_nil] at h2; omega
  | cons v vs ih =>
    intro k hk b i h1 h2
    rw [List.length_cons] at hk h2
    rw [List.zipIdx_cons, countRun, List.foldl_cons]
    have hcons : ∀ c : Body, List.foldl (fun (b : Body) (x : Nat × Nat) => b.count q (base + x.2) x.1) c (vs.zipIdx (k + 1)) = c.countRun q base (vs.zipIdx (k + 1)) :=
      fun _ => rfl
    rw [hcons]
    by_cases h : i = k
    · subst h
      rw [Nat.sub_self, List.getD_cons_zero, ← ctr_count_self (b := b) (p := q) (k := v) (show base + i < 0x1000 by omega)]
      refine foldl_same_mem (fun c : Body => c.ctr q (base + i)) (fun (b : Body) (x : Nat × Nat) => b.count q (base + x.2) x.1) _ _ fun c x hx => ?_
      obtain ⟨hx1, hx2, -⟩ := List.mem_zipIdx (x := x.1) (i := x.2) hx
      exact ctr_count_ne (by omega) (by omega) (by omega)
    · rw [ih (k + 1) (by omega) _ i (by omega) (by omega), ctr_count_ne (by omega) (by omega) (by omega),
        show i - k = (i - (k + 1)) + 1 by omega, List.getD_cons_succ]

/-- The symbol errors of a FEC window. -/
def fecSyms (hist : List Nat) : Nat := (hist.zipIdx.map fun x => x.1 * x.2).foldl (· + ·) 0

/-- A FEC window's counters (R76). -/
def fecCounts (b : Body) (p : Nat) (hist : List Nat) (unc : Nat) : Body :=
  (((b.count (Pg.lane p) 25 ((hist.drop 1).foldl (· + ·) 0)).count (Pg.lane p) 26 unc).count (Pg.lane p) 27 (fecSyms hist)).countRun (Pg.lane p) 28 hist.zipIdx

theorem fecCounts_prd (hist : List Nat) (unc k : Nat) (g : Fld) : (b.fecCounts p hist unc).prd k g = b.prd k g := by
  rw [fecCounts, countRun_prd, prd_count, prd_count, prd_count]

theorem fecCounts_ctr {hist : List Nat} (hh : hist.length = 16) (unc : Nat) :
    (b.fecCounts p hist unc).ctr (Pg.lane p) 26 = (b.ctr (Pg.lane p) 26 + unc) % 2 ^ 64 ∧
    (b.fecCounts p hist unc).ctr (Pg.lane p) 27 = (b.ctr (Pg.lane p) 27 + fecSyms hist) % 2 ^ 64 ∧
    ∀ i < 16, (b.fecCounts p hist unc).ctr (Pg.lane p) (28 + i) = (b.ctr (Pg.lane p) (28 + i) + hist.getD i 0) % 2 ^ 64 := by
  have hl : ∀ x ∈ hist.zipIdx, 28 + x.2 < 0x1000 := fun x hx => by
    obtain ⟨-, hx2, -⟩ := List.mem_zipIdx (x := x.1) (i := x.2) hx
    omega
  unfold fecCounts
  refine ⟨?_, ?_, fun i hi => ?_⟩
  · rw [countRun_ctr_below (by decide) hl, ctr_count_ne (by decide) (by decide) (by decide), ctr_count_self (by decide), ctr_count_ne (by decide) (by decide) (by decide)]
  · rw [countRun_ctr_below (by decide) hl, ctr_count_self (by decide), ctr_count_ne (by decide) (by decide) (by decide),
      ctr_count_ne (by decide) (by decide) (by decide)]
  · rw [countRun_ctr hist 0 (by omega) _ i (by omega) (by omega), ctr_count_ne (by omega) (by omega) (by omega),
      ctr_count_ne (by omega) (by omega) (by omega), ctr_count_ne (by omega) (by omega) (by omega), Nat.sub_zero]

/-- The end of a FEC window (R76): what it counts, and PORT_HI_SER by the threshold. -/
theorem fecWindow_spec {hist : List Nat} (hh : hist.length = 16) (unc : Nat) :
    let c := b.fecWindow p hist unc
    let thr := b.prd p R.PORT_FEC_DEG_THR
    c.prd p R.PORT_HI_SER = b2n (thr != 0 && decide (thr < fecSyms hist)) ∧
    (thr ≠ 0 → thr < fecSyms hist → c.prd p (evtPend R.PORT_EVT_HI_SER) = 1) ∧
    ∀ i, c.ctr (Pg.lane p) i = (b.fecCounts p hist unc).ctr (Pg.lane p) i := by
  intro c thr
  have htake : hist.take 16 = hist := List.take_of_length_le (by omega)
  have hthr : (b.fecCounts p hist unc).prd p R.PORT_FEC_DEG_THR = thr := fecCounts_prd ..
  have hc : c = b.fecWindow p hist unc := rfl
  by_cases h : thr ≠ 0 ∧ thr < fecSyms hist
  · have heq : c = ((if (b.fecCounts p hist unc).prd p R.PORT_HI_SER = 1 then b.fecCounts p hist unc else (b.fecCounts p hist unc).mark (Mk.hiSer p)).pwr p
        R.PORT_HI_SER 1).fire (Pg.lane p) R.PORT_EVT_HI_SER := by
      rw [hc, fecWindow, htake]
      exact if_pos (show (b.fecCounts p hist unc).prd p R.PORT_FEC_DEG_THR ≠ 0 ∧ (b.fecCounts p hist unc).prd p R.PORT_FEC_DEG_THR < fecSyms hist by rwa [hthr])
    refine ⟨?_, fun _ _ => heq ▸ prd_fire_pend _ (by decide), fun i => ?_⟩
    · rw [heq, prd_fire _ (by decide) (by decide) (Pg.lane_ge p).2, prd_pwr_self]
      simp [h.1, h.2, b2n, Fld.width, R.PORT_HI_SER]
    · rw [heq, fire_ctr, pwr_ctr]
      split_ifs <;> rfl
  · have heq : c = { (b.fecCounts p hist unc).pwr p R.PORT_HI_SER 0 with
        gov := { (b.fecCounts p hist unc).gov with giveUp := (b.fecCounts p hist unc).gov.giveUp.erase p } } := by
      rw [hc, fecWindow, htake]
      exact if_neg (show ¬ ((b.fecCounts p hist unc).prd p R.PORT_FEC_DEG_THR ≠ 0 ∧ (b.fecCounts p hist unc).prd p R.PORT_FEC_DEG_THR < fecSyms hist) by rwa [hthr])
    have hprd : c.prd p R.PORT_HI_SER = ((b.fecCounts p hist unc).pwr p R.PORT_HI_SER 0).prd p R.PORT_HI_SER := by rw [heq]; rfl
    refine ⟨?_, fun h1 h2 => absurd ⟨h1, h2⟩ h, fun i => ?_⟩
    · rw [hprd, prd_pwr_self]
      have : (thr != 0 && decide (thr < fecSyms hist)) = false := by
        rw [Bool.and_eq_false_iff, bne_eq_false_iff_eq, decide_eq_false_iff_not]
        tauto
      rw [this]
      rfl
    · rw [heq]
      exact pwr_ctr (b := b.fecCounts p hist unc) p 0 (Pg.lane p) i R.PORT_HI_SER

/-- A lane's power request (R97). -/
theorem lanePower_spec (l : Nat) :
    (b.laneOwner l = none → (b.lanePower l 1).prd l R.PG_PWR_STATE = 1 ∧ Keeps [Pg.lane l] b (b.lanePower l 1)) ∧
    ((b.lanePower l 0).prd l R.PG_PWR_STATE = 0 ∧ Keeps [Pg.lane l] b (b.lanePower l 0)) ∧
    ((b.laneOwner l).isSome = true → b.lanePower l 1 = b) := by
  have hk : ∀ v, Keeps [Pg.lane l] b ((b.pwr l R.PG_PWR_REQ v).pwr l R.PG_PWR_STATE v) := fun v =>
    ((Keeps.refl b).pwr (by decide) (List.mem_singleton_self _)).pwr (by decide) (List.mem_singleton_self _)
  refine ⟨fun h => ?_, ?_, fun h => if_pos h⟩
  · rw [lanePower, if_pos rfl, if_neg (by simp [h])]
    exact ⟨prd_pwr_self .., hk 1⟩
  · exact ⟨prd_pwr_self .., hk 0⟩

/-- ENT_OVERLOAD cleared once its hold time has passed (R83). -/
theorem overloadClear_spec {g : Nat} (h : b.passed (Mk.overload g) (b.rd (Pg.preclass g) R.ENT_OVL_HOLD * 1000) = true) :
    (b.overloadClear g).rd (Pg.preclass g) R.ENT_OVERLOAD = 0 ∧ Keeps [Pg.preclass g] b (b.overloadClear g) := by
  rw [overloadClear, if_pos h]
  refine ⟨rd_wr_self .., (Keeps.refl b).wr (by decide) ?_⟩
  rw [List.mem_singleton, Fld.addr_zero]
  unfold pageOf Pg.preclass Pg.gallery
  have : R.ENT_OVERLOAD.off < 0x1000 := by decide
  omega

end

end Body

/-- A write of PG_PWR on a lane page is the lane's power request. -/
theorem Dev.write_lanePower {s : State} {l m req : Nat} (hl : l < 512) (hreq : req < 16) (h : s.reaches m (Pg.lane l + 0x18)) :
    s.dev.write m (Pg.lane l + 0x18) req = { s.dev with body := s.dev.body.lanePower l req } := by
  have hp := pageIs_lane hl
  have hof : laneOf (Pg.lane l) = l := by
    unfold laneOf galOf Pg.lane Pg.gallery
    omega
  rw [Dev.write_header req h hp (by decide) (by decide) (by decide)]
  simp only [Body.hdrStore, hp.kindAt (off := 0x18) (by decide), hp.mod (off := 0x18) (by decide), hp.pageOf (off := 0x18) (by decide), Body.pwrStore,
    Nat.mod_eq_of_lt hreq, hof]

theorem exec_lanePowerRequest {s : State} {l m req : Nat} (hl : l < 512) (hreq : req < 16) (h : s.reaches m (Pg.lane l + 0x18)) :
    exec (.lanePowerRequest l req m) s = .next (s.withBody (s.dev.body.lanePower l req)) :=
  State.live_withBody (by rw [h.known, decide_eq_true hl, decide_eq_true hreq]; rfl) h.runs (Dev.write_lanePower hl hreq h)

/-- A register of a pre-classifier's page reads as the body has it. -/
theorem State.withBody_preclass {s : State} {c : Body} {n v : Nat} {f : Fld} (h : c.rd (Pg.preclass n) f = v) (hf : f.lo < 32 := by decide) :
    (s.withBody c).reg (Pg.preclass n) f = v :=
  (State.withBody_reg hf (notedAt_big (by simp only [Fld.addr, Pg.preclass, Pg.gallery]; omega))).trans h

end Sys2Proof.Machine

namespace Sys2Proof
open Machine

/-- Settles O15: the window's counts and threshold, the write of PG_PWR as the lane's request, and the hold time of ENT_OVERLOAD. -/
theorem laneAndWindowCommands : Obligations.LaneAndWindowCommands := by
  unfold Obligations.LaneAndWindowCommands
  refine ⟨fun p unc hist s hp hh hr => ?_, fun l m s hl ht hn => ?_, fun l m s hl ht => ?_, fun l m s hl ht ho => ?_, fun g s hg hr => ⟨fun hq => ?_, fun hq => ?_⟩⟩
  · obtain ⟨e1, e2, e3⟩ := Body.fecWindow_spec (b := s.dev.body) (p := p) hh unc
    obtain ⟨c1, c2, c3⟩ := Body.fecCounts_ctr (b := s.dev.body) (p := p) hh unc
    refine ⟨_, State.body_withBody (by rw [decide_eq_true hp, hh]; rfl) hr rfl, State.withBody_prd e1, fun h1 h2 => State.withBody_lane_evt (e2 h1 h2), ?_, ?_, fun i hi => ?_⟩
    · rw [State.withBody_ctr, e3]; exact c1
    · rw [State.withBody_ctr, e3]; exact c2
    · rw [State.withBody_ctr, e3]; exact c3 i hi
  · obtain ⟨h1, -, -⟩ := Body.lanePower_spec (b := s.dev.body) l
    exact ⟨_, exec_lanePowerRequest hl (by decide) ht, State.withBody_prd (h1 hn).1, State.withBody_keeps (h1 hn).2⟩
  · obtain ⟨-, h2, -⟩ := Body.lanePower_spec (b := s.dev.body) l
    exact ⟨_, exec_lanePowerRequest hl (by decide) ht, State.withBody_prd h2.1, State.withBody_keeps h2.2⟩
  · obtain ⟨-, -, h3⟩ := Body.lanePower_spec (b := s.dev.body) l
    refine ⟨_, exec_lanePowerRequest hl (by decide) ht, ?_⟩
    rw [h3 ho, State.withBody_self]
  · obtain ⟨e1, e2⟩ := Body.overloadClear_spec hq
    exact ⟨_, State.body_withBody (decide_eq_true hg) hr rfl, State.withBody_preclass e1, State.withBody_keeps e2⟩
  · exact State.body_self (decide_eq_true hg) hr (if_neg (Bool.eq_false_iff.mp hq))

end Sys2Proof
end

section
/-! O17: PFC and PAUSE received, their timers and watchdog, and the resend (R85, R86, R87). -/

namespace Sys2Proof.Machine

theorem bitOn_mod {v n i : Nat} (h : i < n) : bitOn (v % 2 ^ n) i = bitOn v i := by
  have hb : ∀ x, bitOn x i = x.testBit i := fun x => by rw [Nat.testBit_eq_decide_div_mod_eq]; rfl
  rw [hb, hb, Nat.testBit_mod_two_pow, decide_eq_true h, Bool.true_and]

/-- A choice made by the rest of a list, else by its head. -/
theorem ite_mem_cons {α : Type} (i j : Nat) (l : List Nat) (q : Prop) [Decidable q] (x y : α) :
    (if i ∈ l ∧ q then x else if i = j ∧ q then x else y) = if i ∈ j :: l ∧ q then x else y := by
  by_cases hq : q <;> by_cases hj : i = j <;> by_cases hl : i ∈ l <;> simp [hq, hj, hl]

namespace Body

section
variable {b : Body} {p : Nat}

/-- What is left of a pause timer of a port, in quanta (R85, R87). -/
def pauseOf (b : Body) (p t : Nat) : Nat := Sp.get 0 b.net.pause (16 * p + t)

theorem pauseOf_setPause (t q k : Nat) : (b.setPause p t q).pauseOf p k = if k = t then q else b.pauseOf p k := by
  rw [pauseOf, setPause, Sp.get_set]
  exact if_congr (by omega) rfl rfl

theorem pauseOf_setPaused (i k : Nat) (on : Bool) : (b.setPaused p i on).pauseOf p k = b.pauseOf p k := by
  unfold setPaused
  dsimp only
  split_ifs <;> rfl

/-- A bit of PORT_PFC_PAUSED. -/
def pausedBit (b : Body) (p i : Nat) : Bool := bitOn (b.prd p R.PORT_PFC_PAUSED) i

theorem pausedBit_setPaused {i k : Nat} (hk : k < 8) (on : Bool) : (b.setPaused p i on).pausedBit p k = if k = i then on else b.pausedBit p k := by
  have hon : (b2n on % 2 == 1) = on := by cases on <;> rfl
  have hset : ∀ c : Body, c.prd p R.PORT_PFC_PAUSED = b.prd p R.PORT_PFC_PAUSED →
      (c.pwr p R.PORT_PFC_PAUSED (setBitField (c.prd p R.PORT_PFC_PAUSED) i i (b2n on))).pausedBit p k = if k = i then on else b.pausedBit p k := fun c hc => by
    rw [pausedBit, prd_pwr_self, bitOn_mod (show k < R.PORT_PFC_PAUSED.width from hk), bitOn_setBitField, hon, hc, pausedBit]
  unfold setPaused
  dsimp only
  by_cases hb : (on && !bitOn (b.prd p R.PORT_PFC_PAUSED) i) = true
  · rw [if_pos hb]
    exact hset _ (prd_mark ..)
  · rw [if_neg hb]
    exact hset _ rfl

theorem setPaused_prd (i k : Nat) (on : Bool) {g : Fld} (hg : apart R.PORT_PFC_PAUSED g = true) : (b.setPaused p i on).prd k g = b.prd k g := by
  unfold setPaused
  dsimp only
  split_ifs <;> exact pwr_apart hg

theorem setPaused_ctr (i q n : Nat) (on : Bool) : (b.setPaused p i on).ctr q n = b.ctr q n := by
  unfold setPaused
  dsimp only
  split_ifs <;> exact pwr_ctr ..

theorem Keeps.setPaused {ps : List Nat} {c : Body} {i : Nat} {on : Bool} (h : Keeps ps b c) (hp : Pg.lane p ∈ ps) : Keeps ps b (c.setPaused p i on) := by
  unfold Body.setPaused
  dsimp only
  split_ifs
  · exact (h.of_eq rfl rfl rfl rfl : Keeps ps b (c.mark _)).pwr (by decide) hp
  · exact h.pwr (by decide) hp

/-- What a PFC frame does to one priority (R85). -/
def pfcLoad (vec : Nat) (quanta : List Nat) (p : Nat) (b : Body) (i : Nat) : Body :=
  if bitOn vec i ∧ bitOn (b.prd p R.PORT_PFC_RX_EN) i then
    let q := quanta.getD i 0 % 0x10000
    (b.setPause p i q).setPaused p i (q != 0)
  else b

theorem pfcLoad_prd (vec : Nat) (quanta : List Nat) (i k : Nat) {g : Fld} (hg : apart R.PORT_PFC_PAUSED g = true) :
    (pfcLoad vec quanta p b i).prd k g = b.prd k g := by
  unfold pfcLoad
  split_ifs
  · exact setPaused_prd _ _ _ hg
  · rfl

theorem pfcLoad_ctr (vec : Nat) (quanta : List Nat) (i q n : Nat) : (pfcLoad vec quanta p b i).ctr q n = b.ctr q n := by
  unfold pfcLoad
  split_ifs
  · exact setPaused_ctr ..
  · rfl

/-- Whether a PFC frame names a priority that the port honours. -/
def pfcTakes (b : Body) (p vec i : Nat) : Bool := bitOn vec i && bitOn (b.prd p R.PORT_PFC_RX_EN) i

theorem pfcLoad_eq (vec : Nat) (quanta : List Nat) (i : Nat) : pfcLoad vec quanta p b i =
    if b.pfcTakes p vec i = true then (b.setPause p i (quanta.getD i 0 % 0x10000)).setPaused p i (quanta.getD i 0 % 0x10000 != 0) else b :=
  if_congr (Bool.and_eq_true _ _ ▸ Iff.rfl) rfl rfl

theorem pfcLoad_spec {vec : Nat} {quanta : List Nat} {j i : Nat} (hi : i < 8) :
    (pfcLoad vec quanta p b j).pauseOf p i = (if i = j ∧ b.pfcTakes p vec i = true then quanta.getD i 0 % 0x10000 else b.pauseOf p i) ∧
    (pfcLoad vec quanta p b j).pausedBit p i = (if i = j ∧ b.pfcTakes p vec i = true then quanta.getD i 0 % 0x10000 != 0 else b.pausedBit p i) := by
  rw [pfcLoad_eq]
  by_cases hij : i = j
  · subst hij
    by_cases ht : b.pfcTakes p vec i = true
    · rw [if_pos ht, if_pos ⟨rfl, ht⟩, if_pos ⟨rfl, ht⟩, pauseOf_setPaused, pauseOf_setPause, if_pos rfl, pausedBit_setPaused hi, if_pos rfl]
      exact ⟨rfl, rfl⟩
    · rw [if_neg ht, if_neg fun e => ht e.2, if_neg fun e => ht e.2]
      exact ⟨rfl, rfl⟩
  · rw [if_neg (fun e => hij e.1 : ¬ (i = j ∧ _)), if_neg (fun e => hij e.1 : ¬ (i = j ∧ _))]
    by_cases ht : b.pfcTakes p vec j = true
    · rw [if_pos ht, pauseOf_setPaused, pauseOf_setPause, if_neg hij, pausedBit_setPaused hi, if_neg hij]
      exact ⟨rfl, rfl⟩
    · rw [if_neg ht]
      exact ⟨rfl, rfl⟩

/-- A run of priorities loaded. -/
theorem pfcLoads_spec {vec : Nat} {quanta : List Nat} {i : Nat} (hi : i < 8) (l : List Nat) : ∀ b : Body,
    (l.foldl (pfcLoad vec quanta p) b).pauseOf p i = (if i ∈ l ∧ b.pfcTakes p vec i = true then quanta.getD i 0 % 0x10000 else b.pauseOf p i) ∧
    (l.foldl (pfcLoad vec quanta p) b).pausedBit p i = (if i ∈ l ∧ b.pfcTakes p vec i = true then quanta.getD i 0 % 0x10000 != 0 else b.pausedBit p i) := by
  induction l with
  | nil => intro b; simp
  | cons j l ih =>
    intro b
    have htk : (pfcLoad vec quanta p b j).pfcTakes p vec i = b.pfcTakes p vec i := by
      unfold pfcTakes
      rw [pfcLoad_prd _ _ _ _ (by decide)]
    obtain ⟨h1, h2⟩ := ih (pfcLoad vec quanta p b j)
    obtain ⟨e1, e2⟩ := pfcLoad_spec (b := b) (vec := vec) (quanta := quanta) (j := j) (p := p) hi
    rw [List.foldl_cons, h1, h2, e1, e2, htk]
    exact ⟨ite_mem_cons i j l _ _ _, ite_mem_cons i j l _ _ _⟩

/-- A PFC frame received (R85). -/
theorem pfcReceive_spec {vec : Nat} {quanta : List Nat} (hq : ∀ q ∈ quanta, q < 65536) (hup : b.portUp p = true) (hpk : b.parked (p / 64) = false) :
    let c := b.pfcReceive p vec quanta
    (∀ i < 8, b.pfcTakes p vec i = true → c.pauseOf p i = quanta.getD i 0 ∧ c.pausedBit p i = (quanta.getD i 0 != 0)) ∧
    (∀ i < 8, ¬ b.pfcTakes p vec i = true → c.pauseOf p i = b.pauseOf p i ∧ c.pausedBit p i = b.pausedBit p i) ∧
    c.ctr (Pg.lane p) RX_PFC = (b.ctr (Pg.lane p) RX_PFC + 1) % 2 ^ 64 := by
  intro c
  have hc : c = (List.range 8).foldl (pfcLoad vec quanta p) (b.count (Pg.lane p) RX_PFC) := if_neg (by simp [hup, hpk])
  have htk : ∀ i, (b.count (Pg.lane p) RX_PFC).pfcTakes p vec i = b.pfcTakes p vec i := fun i => by unfold pfcTakes; rw [prd_count]
  have hpb : ∀ i, (b.count (Pg.lane p) RX_PFC).pausedBit p i = b.pausedBit p i := fun i => by rw [pausedBit, prd_count, pausedBit]
  have hmod : ∀ i, quanta.getD i 0 % 0x10000 = quanta.getD i 0 := fun i => Nat.mod_eq_of_lt <| by
    rw [List.getD_eq_getElem?_getD]
    cases he : quanta[i]? with
    | none => decide
    | some q => exact hq q (List.mem_of_getElem? he)
  refine ⟨fun i hi ht => ?_, fun i hi ht => ?_, ?_⟩
  · obtain ⟨h1, h2⟩ := pfcLoads_spec (p := p) (vec := vec) (quanta := quanta) hi (List.range 8) (b.count (Pg.lane p) RX_PFC)
    have hin := And.intro (List.mem_range.mpr hi) ((htk i).trans ht)
    rw [hc, h1, h2, if_pos hin, if_pos hin, hmod]
    exact ⟨rfl, rfl⟩
  · obtain ⟨h1, h2⟩ := pfcLoads_spec (p := p) (vec := vec) (quanta := quanta) hi (List.range 8) (b.count (Pg.lane p) RX_PFC)
    have hout : ¬ (i ∈ List.range 8 ∧ (b.count (Pg.lane p) RX_PFC).pfcTakes p vec i = true) := fun e => ht (htk i ▸ e.2)
    rw [hc, h1, h2, if_neg hout, if_neg hout, hpb]
    exact ⟨rfl, rfl⟩
  · rw [hc, ← ctr_count_self (by decide)]
    exact foldl_same (fun c : Body => c.ctr (Pg.lane p) RX_PFC) _ (fun c j => pfcLoad_ctr _ _ _ _ _) _ _

/-- A PAUSE frame received (R87). -/
theorem pauseReceive_spec {q : Nat} (hq : q < 65536) (hup : b.portUp p = true) (hpk : b.parked (p / 64) = false) :
    let c := b.pauseReceive p q
    c.ctr (Pg.lane p) RX_PAUSE = (b.ctr (Pg.lane p) RX_PAUSE + 1) % 2 ^ 64 ∧
    c.pauseOf p 8 = (if b.prd p R.PORT_PAUSE_EN = 1 ∧ b.prd p R.PORT_PFC_RX_EN = 0 then q else b.pauseOf p 8) ∧ c.regs = b.regs := by
  intro c
  have hc : c = if b.prd p R.PORT_PAUSE_EN = 1 ∧ b.prd p R.PORT_PFC_RX_EN = 0 then (b.count (Pg.lane p) RX_PAUSE).setPause p 8 (q % 0x10000)
      else b.count (Pg.lane p) RX_PAUSE := by
    refine (if_neg (by simp [hup, hpk])).trans (if_congr ?_ rfl rfl)
    rw [prd_count, prd_count]
  rw [hc]
  have hcnt : (b.count (Pg.lane p) RX_PAUSE).ctr (Pg.lane p) RX_PAUSE = (b.ctr (Pg.lane p) RX_PAUSE + 1) % 2 ^ 64 := ctr_count_self (by decide)
  split_ifs
  · exact ⟨hcnt, by rw [pauseOf_setPause, if_pos rfl, Nat.mod_eq_of_lt hq], rfl⟩
  · exact ⟨hcnt, rfl, rfl⟩

/-- A pause timer that has run out (R85, R87). -/
theorem pauseExpire_spec {i : Nat} (h : b.passed (Mk.pause p i) (b.quantaNs p (b.pauseOf p i)) = true) :
    let c := b.pauseExpire p i
    c.pauseOf p i = 0 ∧ (i < 8 → c.pausedBit p i = false) ∧ Keeps [Pg.lane p] b c ∨ 9 ≤ i := by
  intro c
  have hk : Keeps [Pg.lane p] b (b.setPause p i 0) := (Keeps.refl b).of_eq rfl rfl rfl rfl
  have hp : (b.setPause p i 0).pauseOf p i = 0 := by rw [pauseOf_setPause, if_pos rfl]
  rcases lt_trichotomy i 8 with hi | hi | hi
  · have hc : c = (b.setPause p i 0).setPaused p i false := (if_neg (not_not_intro h)).trans (if_pos hi)
    rw [hc]
    exact .inl ⟨by rw [pauseOf_setPaused, hp], fun _ => by rw [pausedBit_setPaused hi, if_pos rfl], hk.setPaused (List.mem_singleton_self _)⟩
  · have hc : c = b.setPause p i 0 := (if_neg (not_not_intro h)).trans ((if_neg (by omega)).trans (by rw [hi]))
    rw [hc]
    exact .inl ⟨hp, fun h8 => by omega, hk⟩
  · exact .inr hi

end

end Body

section
variable {s : State} {c : Body}

theorem State.withBody_sameRegs {ps : List Nat} (h : ∀ (q : Nat) (g : Fld) (x y : Nat), pageOf (g.addr q x y) ∉ ps → c.rd q g x y = s.dev.body.rd q g x y) :
    s.sameRegs (s.withBody c) ps := fun q g x y h1 h2 h3 => (State.withBody_reg h1 h2).trans (h q g x y h3)

theorem Body.rd_of_regs {b : Body} (h : c.regs = b.regs) (q : Nat) (g : Fld) (x y : Nat) : c.rd q g x y = b.rd q g x y := by
  rw [Body.rd, h, Body.rd]

theorem State.withBody_pausedBit (p i : Nat) : bitOn ((s.withBody c).reg (Pg.lane p) R.PORT_PFC_PAUSED) i = c.pausedBit p i := by
  rw [State.withBody_prd rfl]
  rfl

theorem State.withBody_pauseOf (p t : Nat) : Sp.get 0 (s.withBody c).dev.body.net.pause (16 * p + t) = c.pauseOf p t := by
  rw [Body.pauseOf]
  simp

end

end Sys2Proof.Machine

namespace Sys2Proof
open Machine

/-- Settles O17: each priority's timer under a PFC frame, PAUSE's own, their expiry, the watchdog and the resend. -/
theorem pfcAndPause : Obligations.PfcAndPause := by
  unfold Obligations.PfcAndPause
  intro p s hp hr
  have hok : decide (p < 512) = true := decide_eq_true hp
  refine ⟨fun vec quanta hv hl hq hup hpk => ?_, fun q hq hup hpk => ?_, fun i hi => ⟨fun hl => ?_, fun hl => ?_⟩, fun i hi hb hw hps => ?_, fun hx hs hpk hps => ?_⟩
  · obtain ⟨h1, h2, h3⟩ := Body.pfcReceive_spec (b := s.dev.body) (vec := vec) hq hup hpk
    refine ⟨_, State.body_withBody ?_ hr rfl, fun i hi hvi hen => ?_, fun i hi hno => ?_, ?_⟩
    · rw [hok, decide_eq_true hv, hl, List.all_eq_true.mpr fun x hx => decide_eq_true (hq x hx)]
      rfl
    · rw [State.withBody_pauseOf, State.withBody_pausedBit]
      exact h1 i hi (Bool.and_eq_true _ _ ▸ ⟨hvi, hen⟩)
    · rw [State.withBody_pauseOf, State.withBody_pausedBit]
      refine h2 i hi (Bool.eq_false_iff.mp ?_)
      rw [Body.pfcTakes, Bool.and_eq_false_iff]
      exact hno
    · rw [State.withBody_ctr]
      exact h3
  · obtain ⟨h1, h2, h3⟩ := Body.pauseReceive_spec (b := s.dev.body) hq hup hpk
    refine ⟨_, State.body_withBody (by rw [hok, decide_eq_true hq]; rfl) hr rfl, ?_, ?_, State.withBody_sameRegs fun q g x y _ => Body.rd_of_regs h3 q g x y⟩
    · rw [State.withBody_ctr]
      exact h1
    · rw [State.withBody_pauseOf]
      exact h2
  · rcases Body.pauseExpire_spec (b := s.dev.body) (p := p) (i := i) hl with ⟨h1, h2, h3⟩ | h9
    · refine ⟨_, State.body_withBody (by rw [hok, decide_eq_true hi]; rfl) hr rfl, ?_, fun h8 => ?_, State.withBody_keeps h3⟩
      · rw [State.withBody_pauseOf, h1]
      · rw [State.withBody_pausedBit, h2 h8]
    · omega
  · exact State.body_self (by rw [hok, decide_eq_true hi]; rfl) hr (if_pos (Bool.eq_false_iff.mp hl))
  · exact ⟨_, State.body_withBody (by rw [hok, decide_eq_true hi]; rfl) hr (if_pos ⟨hb, hw, hps⟩), State.withBody_lane_evt (Body.prd_fire_pend _ (by decide)),
      State.withBody_keeps ((Body.Keeps.refl _).fire (by decide) (Pg.lane_ge p).2 (List.mem_singleton_self _))⟩
  · have hsend : s.dev.body.pfcResend p = ((s.dev.body.mark (Mk.xoff p)).count (Pg.lane p) TX_PFC).emit
        (.pfc p (s.dev.body.prd p R.PORT_PFC_XOFF) (s.dev.body.prd p R.PORT_PFC_QUANTA)) :=
      (if_neg (by rw [not_or, not_not]; exact ⟨hx, hps⟩)).trans (if_pos (by rw [hs, hpk]; rfl))
    refine ⟨_, State.body_withBody hok hr hsend, ?_, ?_, State.withBody_sameRegs fun q g x y _ => ?_⟩
    · rw [State.withBody_ctr, Body.emit_ctr]
      exact Body.ctr_count_self (by decide)
    · rw [State.withBody_out]
      rfl
    · rw [Body.emit_rd, Body.count_rd, Body.mark_rd]

end Sys2Proof
end

section
/-! O16: frames at the MAC and in the entrance buffer (R77, R80, R81, R93). -/

namespace Sys2Proof.Machine

namespace Sp

variable {α : Type}

/-- A key's entry in a list, by the first entry that names it. -/
theorem find_ins (m : List (Nat × α)) (k : Nat) (v : α) : ((ins m k v).find? fun e => e.1 == k) = some (k, v) := by
  induction m with
  | nil => simp [ins]
  | cons e t ih =>
    rw [ins]
    split_ifs with h1 h2
    · rw [List.find?_cons_of_neg (by simp; omega), ih]
    · simp
    · simp

theorem find_del (m : List (Nat × α)) (k : Nat) : ((del m k).find? fun e => e.1 == k) = none := by
  rw [List.find?_eq_none]
  intro e he
  have := (List.mem_filter.mp he).2
  simpa using this

end Sp

namespace Body

section
variable {b c d : Body} {p : Nat}

theorem rxOf_setRx (f : Option RxFrame) : (b.setRx p f).rxOf p = f := by
  cases f with
  | none => rw [rxOf, setRx, Sp.find_del]; rfl
  | some f => rw [rxOf, setRx, Sp.find_ins]; rfl

theorem fifo_setFifo (l : List EntFrame) : (b.setFifo p l).fifo p = l := by rw [fifo, setFifo, Sp.get_set_self]

/-- A count of one key changes no other. -/
theorem ctr_count_key {q i n r j : Nat} (h : ctrKey r j ≠ ctrKey q i) : (b.count q i n).ctr r j = b.ctr r j := by
  rw [ctr, count, Sp.get_set, if_neg h, ctr]

theorem ctr_count_same (q i n : Nat) : (b.count q i n).ctr q i = (b.ctr q i + n) % 2 ^ 64 := by
  rw [ctr, count, Sp.get_set_self]

/-- What the entrance's gauges and PFC leave alone: FIFOs, frames in reception, packets, memories, and a port's counters of received frames. -/
structure EntSame (p : Nat) (b c : Body) : Prop where
  ent : c.net.ent = b.net.ent
  rx : c.net.rx = b.net.rx
  pipe : c.pipe = b.pipe
  mem : c.mem = b.mem
  ctr : ∀ i < TX_PFC, c.ctr (Pg.lane p) i = b.ctr (Pg.lane p) i

theorem EntSame.refl (p : Nat) (b : Body) : EntSame p b b := ⟨rfl, rfl, rfl, rfl, fun _ _ => rfl⟩

theorem EntSame.trans (h : EntSame p b c) (h' : EntSame p c d) : EntSame p b d :=
  ⟨h'.ent.trans h.ent, h'.rx.trans h.rx, h'.pipe.trans h.pipe, h'.mem.trans h.mem, fun i hi => (h'.ctr i hi).trans (h.ctr i hi)⟩

theorem EntSame.fifo (h : EntSame p b c) (k : Nat) : c.fifo k = b.fifo k := by rw [Body.fifo, h.ent, Body.fifo]

theorem EntSame.rxOf (h : EntSame p b c) (k : Nat) : c.rxOf k = b.rxOf k := by rw [Body.rxOf, h.rx, Body.rxOf]

theorem EntSame.wr (q : Nat) (f : Fld) (v : Nat) : EntSame p b (b.wr q f v) := ⟨rfl, rfl, rfl, rfl, fun i _ => b.wr_ctr q f v 0 0 _ i⟩

theorem sendPfc_same (vec q : Nat) : EntSame p b (b.sendPfc p vec q) := by
  unfold sendPfc
  split_ifs
  · exact ⟨rfl, rfl, rfl, rfl, fun i hi => by
      rw [emit_ctr, ctr_count_ne (by decide) (by unfold TX_PFC at hi; omega) (by omega), mark_ctr]⟩
  · exact .refl p b

theorem xoffUpdate_same (again : Bool) : EntSame p b (b.xoffUpdate p again) := by
  unfold xoffUpdate
  dsimp only
  split_ifs
  · exact ((EntSame.wr ..).trans (sendPfc_same ..)).trans (sendPfc_same ..)
  · exact (EntSame.wr ..).trans (sendPfc_same ..)
  · exact (EntSame.wr ..).trans (sendPfc_same ..)
  · exact EntSame.wr ..

theorem pfcEntrance_same : EntSame p b (b.pfcEntrance p) := by
  unfold pfcEntrance
  dsimp only
  refine EntSame.trans ?_ (xoffUpdate_same _)
  split_ifs <;> exact ⟨rfl, rfl, rfl, rfl, fun _ _ => rfl⟩

/-- The entrance's gauges and a port's PFC. -/
theorem entChanged_same : EntSame p b (b.entChanged p) := by
  unfold entChanged entLevel
  have hbusy : EntSame p b (b.galBusy (p / 64)) := ⟨rfl, rfl, rfl, rfl, fun _ _ => rfl⟩
  exact ((hbusy.trans (EntSame.wr ..)).trans (EntSame.wr ..)).trans pfcEntrance_same

/-- A lane's counters are below those of its Gallery's MACsec page. -/
theorem lane_key_lt (p i j : Nat) (hi : i < 0x1000) : ctrKey (Pg.lane p) i < ctrKey (Pg.msec (p / 64)) j := by
  unfold ctrKey Pg.lane Pg.msec
  omega

theorem msecNote_same (r : MsecRx) : EntSame p b (b.msecNote (p / 64) r) := by
  have hcounts : ∀ (l : List (Nat × Nat)) (b : Body), EntSame p b (l.foldl (fun b x => b.count (Pg.msec (p / 64)) x.1 x.2) b) := fun l => by
    induction l with
    | nil => exact fun b => .refl p b
    | cons x l ih =>
      intro b
      have hone : EntSame p b (b.count (Pg.msec (p / 64)) x.1 x.2) := ⟨rfl, rfl, rfl, rfl, fun i hi =>
        ctr_count_key (Nat.ne_of_lt (lane_key_lt p i x.1 (Nat.lt_trans hi (by decide))))⟩
      exact hone.trans (ih _)
  have hent : ∀ (c : Body) t i v, EntSame p c (c.setEnt t i v) := fun c t i v => ⟨rfl, rfl, rfl, rfl, fun k _ => setEnt_ctr c t i v (Pg.lane p) k⟩
  have hnote := hcounts r.ctrs b
  generalize hd : r.ctrs.foldl (fun (b : Body) (x : Nat × Nat) => b.count (Pg.msec (p / 64)) x.1 x.2) b = d at hnote
  cases hpn : r.pn with
  | none => rw [msecNote, hd, hpn]; exact hnote
  | some x => rw [msecNote, hd, hpn]; exact hnote.trans (hent ..)

/-- A frame begins on a port that is UP, where no PARK or reset takes it (R93). -/
theorem frameStart_spec {wire : List Byte} (hup : b.portUp p = true) (hrx : b.rxOf p = none) (hloop : b.portLoop p ≠ 1) (hpk : b.parked (p / 64) = false)
    (hgr : b.galInReset (p / 64) = false) :
    (b.frameStart p wire).rxOf p = some
      { wire := wire, data := (b.rxView p wire).data.getD wire, ts := b.stamp (b.prd p R.PORT_TS_RX_ADJ), icvBad := (b.rxView p wire).icvBad,
        place := if (b.rxView p wire).data.isNone then .gone else .mac, since := b.clk, why := .msec } ∧
    Keeps [] b (b.frameStart p wire) := by
  generalize hd : ({ b with net := { b.net with heard := Sp.ins b.net.heard p b.clk } } : Body) = d
  generalize he : (if isMacControl wire then d else d.noteTraffic (p / 64)) = e
  have hk : Keeps [] b e := by
    rw [← he, ← hd]
    split_ifs <;> exact (Keeps.refl b).of_eq rfl rfl rfl rfl
  have hpe : e.parked (p / 64) = false := by
    rw [← he, ← hd, ← hpk]
    split_ifs <;> rfl
  have hge : e.galInReset (p / 64) = false := by
    rw [← he, ← hd, ← hgr]
    split_ifs <;> rfl
  have hfs : b.frameStart p wire = e.setRx p (some
      { wire := wire, data := (d.rxView p wire).data.getD wire, ts := d.stamp (d.prd p R.PORT_TS_RX_ADJ), icvBad := (d.rxView p wire).icvBad,
        place := if (d.rxView p wire).data.isNone then .gone else .mac, since := b.clk, why := .msec }) := by
    rw [frameStart, if_neg hloop, frameIn, if_neg (by simp [hup, hrx])]
    dsimp only
    rw [hd, he, if_neg (by simp [hpe]), if_neg (by simp [hge])]
  rw [hfs]
  refine ⟨?_, hk.of_eq rfl rfl rfl rfl⟩
  rw [rxOf_setRx, ← hd]
  rfl

theorem entranceAdmit_skip {f : RxFrame} (hrx : b.rxOf p = some f) (h : f.place ≠ .mac ∨ f.wire.length < 64) : b.entranceAdmit p = b := by
  rw [entranceAdmit, hrx]
  exact if_pos (by tauto)

/-- The entrance frame that admission makes of a frame with 64 bytes (R80, R81). -/
def entFrameOf (b : Body) (p : Nat) (f : RxFrame) : EntFrame :=
  { data := f.data, ts := f.ts, prio := b.preClassify p f.data, held := min 64 f.data.length, pfcPrio := (preHdr f.data).pcp.getD (b.prd p R.PORT_PFC_UNTAG) }

theorem entranceAdmit_takes {f : RxFrame} (hrx : b.rxOf p = some f) (hpl : f.place = .mac) (hlen : 64 ≤ f.wire.length) (hmc : isMacControl f.wire = false)
    (hroom : b.entOcc (p / 64) < b.rd (Pg.preclass (p / 64)) R.ENT_THR (b.preClassify p f.data) * 256) :
    (b.entranceAdmit p).fifo p = b.fifo p ++ [b.entFrameOf p f] ∧ (b.entranceAdmit p).mem = b.mem := by
  have heq : b.entranceAdmit p = (((b.setFifo p (b.fifo p ++ [b.entFrameOf p f])).setRx p (some { f with place := .entrance, why := .lost })).ledIn
      (ledEntrance (p / 64)) 1).entChanged p := by
    rw [entranceAdmit, hrx]
    exact (if_neg (by simp [hpl, hmc, hlen])).trans (if_pos hroom)
  rw [heq, entChanged_same.fifo, entChanged_same.mem]
  exact ⟨fifo_setFifo _, rfl⟩

theorem entranceAdmit_drops {f : RxFrame} (hrx : b.rxOf p = some f) (hpl : f.place = .mac) (hlen : 64 ≤ f.wire.length) (hmc : isMacControl f.wire = false)
    (hfull : b.rd (Pg.preclass (p / 64)) R.ENT_THR (b.preClassify p f.data) * 256 ≤ b.entOcc (p / 64)) :
    (b.entranceAdmit p).fifo p = b.fifo p ∧
    (b.entranceAdmit p).ctr (Pg.lane p) (ENT_DROP (b.preClassify p f.data)) = (b.ctr (Pg.lane p) (ENT_DROP (b.preClassify p f.data)) + 1) % 2 ^ 64 ∧
    (b.entranceAdmit p).rd (Pg.preclass (p / 64)) R.ENT_OVERLOAD = 1 := by
  have heq : b.entranceAdmit p = ((b.count (Pg.lane p) (ENT_DROP (b.preClassify p f.data))).setRx p
      (some { f with place := .gone, why := .entrance })).overload (p / 64) := by
    rw [entranceAdmit, hrx]
    exact (if_neg (by simp [hpl, hmc, hlen])).trans (if_neg (Nat.not_lt.mpr hfull))
  generalize hd : (b.count (Pg.lane p) (ENT_DROP (b.preClassify p f.data))).setRx p (some { f with place := .gone, why := .entrance }) = d at heq
  generalize he : (if (d.mark (Mk.overload (p / 64))).on (Pg.preclass (p / 64)) R.ENT_OVERLOAD then d.mark (Mk.overload (p / 64))
    else (d.mark (Mk.overload (p / 64))).fire (Pg.preclass (p / 64)) R.ENT_EVT_OVERLOAD) = e
  have hov : b.entranceAdmit p = (e.wr (Pg.preclass (p / 64)) R.ENT_OVERLOAD 1).headCount (p / 64) := by rw [heq, ← he]; rfl
  have hnet : e.net.ent = b.net.ent := by
    rw [← he, ← hd]
    split_ifs <;> simp [setRx]
  have hctr : ∀ i, e.ctr (Pg.lane p) i = d.ctr (Pg.lane p) i := fun i => by
    rw [← he]
    split_ifs <;> simp
  refine ⟨?_, ?_, ?_⟩
  · rw [hov, fifo, fifo, ← hnet]
    rfl
  · rw [hov]
    refine ((e.wr_ctr (Pg.preclass (p / 64)) R.ENT_OVERLOAD 1 0 0 _ _).trans (hctr _)).trans ?_
    rw [← hd]
    exact ctr_count_same ..
  · rw [hov]
    exact e.rd_wr_self (Pg.preclass (p / 64)) R.ENT_OVERLOAD 1 0 0

/-! The end of a frame (R77). -/

/-- What the end of a frame that admission leaves alone starts from: no frame in reception, and a far-end loop's frame sent. -/
def rxEnded (b : Body) (p : Nat) (f : RxFrame) : Body := if (b.setRx p none).portLoop p = 2 then (b.setRx p none).emit (.frame p f.wire false) else b.setRx p none

theorem rxEnded_rxOf (f : RxFrame) : (b.rxEnded p f).rxOf p = none := by
  unfold rxEnded
  split_ifs
  · exact rxOf_setRx none
  · exact rxOf_setRx none

theorem rxEnded_rest (f : RxFrame) : (b.rxEnded p f).net.ent = b.net.ent ∧ (b.rxEnded p f).pipe = b.pipe ∧ (b.rxEnded p f).ctrs = b.ctrs ∧ (b.rxEnded p f).regs = b.regs := by
  unfold rxEnded
  split_ifs <;> exact ⟨rfl, rfl, rfl, rfl⟩

theorem rxEnded_ctr (f : RxFrame) (q i : Nat) : (b.rxEnded p f).ctr q i = b.ctr q i := ctr_of_ctrs (rxEnded_rest f).2.2.1 q i

theorem rxEnded_fifo (f : RxFrame) : (b.rxEnded p f).fifo p = b.fifo p := by
  rw [fifo, (rxEnded_rest f).1, fifo]

theorem rxEnded_verdict (f g : RxFrame) : (b.rxEnded p f).rxVerdict p g = b.rxVerdict p g := by
  rw [rxVerdict, prd, rd, (rxEnded_rest f).2.2.2]
  rfl

theorem frameReceive_runt {f : RxFrame} (hrx : b.rxOf p = some f) (hlen : f.wire.length < 64) (hw : f.place = .gone → f.why = .msec) :
    (b.frameReceive p).rxOf p = none ∧ (b.frameReceive p).fifo p = b.fifo p ∧
    (b.frameReceive p).ctr (Pg.lane p) RX_RUNT = (b.ctr (Pg.lane p) RX_RUNT + 1) % 2 ^ 64 := by
  have heq : b.frameReceive p = (b.rxEnded p f).count (Pg.lane p) RX_RUNT := by
    rw [frameReceive, entranceAdmit_skip hrx (.inr hlen)]
    simp only [hrx]
    exact (if_neg fun h => h.2 (hw h.1)).trans (if_pos hlen)
  rw [heq]
  exact ⟨rxEnded_rxOf f, rxEnded_fifo f, (ctr_count_same ..).trans (by rw [rxEnded_ctr])⟩

theorem frameReceive_pipe {f : RxFrame} {pid : Nat} {x : Pkt} (hrx : b.rxOf p = some f) (hlen : 64 ≤ f.wire.length) (hpl : f.place = .pipe pid)
    (hx : (pid, x) ∈ b.pipe.pkts) (ho : x.owner = pid) (hv : x.verdict = .unknown) :
    (b.frameReceive p).rxOf p = none ∧ (pid, { x with verdict := b.rxVerdict p f }) ∈ (b.frameReceive p).pipe.pkts := by
  generalize hg : (if b.rxVerdict p f = .good then ((b.rxEnded p f).count (Pg.lane p) RX_OK).count (Pg.lane p) RX_BYTES f.wire.length else b.rxEnded p f) = g
  generalize hm : (if fcsOk f.wire then g.msecNote (p / 64) (g.rxView p f.wire) else g) = m
  have heq : b.frameReceive p = m.setVerdict pid (b.rxVerdict p f) := by
    rw [frameReceive, entranceAdmit_skip hrx (.inl (by rw [hpl]; exact fun h => by cases h))]
    simp only [hrx]
    refine (if_neg (by simp [hpl])).trans ((if_neg (by omega)).trans ?_)
    have hver : (b.rxEnded p f).rxVerdict p f = b.rxVerdict p f := rxEnded_verdict f f
    unfold rxEnded at hver
    rw [hpl]
    dsimp only
    rw [hver, ← hm, ← hg]
    rfl
  have hsame : m.rxOf p = none ∧ m.pipe = b.pipe := by
    have hgs : g.rxOf p = none ∧ g.pipe = b.pipe := by
      rw [← hg]
      split_ifs <;> exact ⟨rxEnded_rxOf f, (rxEnded_rest f).2.1⟩
    rw [← hm]
    split_ifs
    · exact ⟨((msecNote_same _).rxOf p).trans hgs.1, (msecNote_same _).pipe.trans hgs.2⟩
    · exact hgs
  rw [heq]
  refine ⟨hsame.1, List.mem_map.mpr ⟨(pid, x), hsame.2 ▸ hx, if_pos ⟨ho, hv⟩⟩⟩

/-- A whole good frame in the entrance buffer, for which there is room (R77, R79). -/
theorem frameReceive_entrance {f : RxFrame} {e : EntFrame} {l : List EntFrame} (hrx : b.rxOf p = some f) (hpl : f.place = .entrance) (hlen : 64 ≤ f.wire.length)
    (hv : b.rxVerdict p f = .good) (hl : b.fifo p = l ++ [e]) (hroom : b.entOcc (p / 64) - round64 e.held + round64 f.data.length ≤ 4194304) :
    (b.frameReceive p).rxOf p = none ∧
    (b.frameReceive p).fifo p = l ++ [{ e with held := f.data.length, data := e.data.take f.data.length, complete := true, verdict := .good }] ∧
    (b.frameReceive p).ctr (Pg.lane p) RX_OK = (b.ctr (Pg.lane p) RX_OK + 1) % 2 ^ 64 := by
  have hfull : ∀ c : Body, c.net.ent = b.net.ent → c.entFull p f.data.length = false := fun c hc => by
    have hfc : c.fifo p = l ++ [e] := by rw [fifo, hc, ← fifo, hl]
    rw [entFull, hfc, List.getLast?_concat]
    refine decide_eq_false ?_
    rw [entOcc, hc, ← entOcc]
    omega
  generalize hg : ((b.rxEnded p f).count (Pg.lane p) RX_OK).count (Pg.lane p) RX_BYTES f.wire.length = g
  generalize hm : (if fcsOk f.wire then g.msecNote (p / 64) (g.rxView p f.wire) else g) = m
  have hgs : EntSame p g m := by
    rw [← hm]
    split_ifs
    · exact msecNote_same _
    · exact .refl p g
  have hge : g.net.ent = b.net.ent := by rw [← hg]; exact (rxEnded_rest f).1
  have heq : b.frameReceive p = m.entHold p f.data.length (some .good) := by
    rw [frameReceive, entranceAdmit_skip hrx (.inl (by rw [hpl]; exact fun h => by cases h))]
    simp only [hrx]
    refine (if_neg (by simp [hpl])).trans ((if_neg (by omega)).trans ?_)
    have hver : (b.rxEnded p f).rxVerdict p f = .good := (rxEnded_verdict f f).trans hv
    unfold rxEnded at hver
    rw [hpl]
    dsimp only
    rw [hver]
    have hf : (b.rxEnded p f).entFull p f.data.length = false := hfull _ (rxEnded_rest f).1
    unfold rxEnded at hf
    simp only [show ¬ (Verdict.good = Verdict.oversize) by decide, if_false, hf, Bool.false_eq_true, if_true]
    rw [← hm, ← hg]
    rfl
  have hml : m.fifo p = l ++ [e] := by rw [fifo, hgs.ent, hge, ← fifo, hl]
  have hhold : m.entHold p f.data.length (some .good) =
      (m.setFifo p (l ++ [{ e with held := f.data.length, data := e.data.take f.data.length, complete := true, verdict := .good }])).entChanged p := by
    rw [entHold, hml, List.getLast?_concat]
    dsimp only
    rw [hfull m (hgs.ent.trans hge), if_neg (by decide), List.dropLast_concat]
    rfl
  rw [heq, hhold, entChanged_same.rxOf, entChanged_same.fifo, entChanged_same.ctr _ (by decide)]
  refine ⟨?_, fifo_setFifo _, ?_⟩
  · refine (hgs.rxOf p).trans ?_
    rw [← hg]
    exact rxEnded_rxOf f
  · refine (hgs.ctr RX_OK (by decide)).trans ?_
    rw [← hg, ctr_count_ne (by decide) (by decide) (by decide), ctr_count_self (by decide), rxEnded_ctr]

end

end Body

section
variable {s : State} {c : Body}

theorem State.withBody_rxOf (p : Nat) : (s.withBody c).dev.body.rxOf p = c.rxOf p := by simp [Body.rxOf]

theorem State.withBody_fifo (p : Nat) : (s.withBody c).dev.body.fifo p = c.fifo p := by simp [Body.fifo]

end

end Sys2Proof.Machine

namespace Sys2Proof
open Machine

/-- Settles O16: a frame's beginning, its admission or drop, and the three places where its end finds it. -/
theorem framesEnterTheEntrance : Obligations.FramesEnterTheEntrance := by
  unfold Obligations.FramesEnterTheEntrance
  intro p s hp hr
  have hok : decide (p < 512) = true := decide_eq_true hp
  refine ⟨fun wire hup hrx hloop hpk hgr => ?_, fun f hrx hpl hlen hmc hroom => ?_, fun f hrx hpl hlen hmc hfull => ?_, fun f hrx hlen hw => ?_,
    fun f pid x hrx hpl hlen hx ho hv => ?_, fun f e l hrx hpl hlen hv hl hroom => ?_⟩
  · obtain ⟨e1, e2⟩ := Body.frameStart_spec (wire := wire) hup hrx hloop hpk hgr
    refine ⟨_, _, State.body_withBody hok hr rfl, (State.withBody_rxOf p).trans e1, rfl, rfl, fun d hd => ⟨?_, ?_⟩, fun hd => ?_, fun hm => ?_, rfl, State.withBody_keeps e2⟩
    · rw [hd]; rfl
    · rw [hd]; rfl
    · rw [hd]; rfl
    · have hv : s.dev.body.rxView p wire = { data := some wire } := if_neg fun h => by
        rw [show s.dev.body.prd p R.PORT_MACSEC_EN = 0 from hm] at h
        exact absurd h.1 (by decide)
      rw [hv]
      exact ⟨rfl, rfl⟩
  · obtain ⟨e1, e2⟩ := Body.entranceAdmit_takes hrx hpl hlen hmc hroom
    exact ⟨_, s.dev.body.entFrameOf p f, State.body_withBody hok hr rfl, (State.withBody_fifo p).trans e1, rfl, rfl, rfl, State.withBody_mem.trans e2⟩
  · obtain ⟨e1, e2, e3⟩ := Body.entranceAdmit_drops hrx hpl hlen hmc hfull
    exact ⟨_, State.body_withBody hok hr rfl, (State.withBody_fifo p).trans e1, (State.withBody_ctr ..).trans e2, State.withBody_preclass e3⟩
  · obtain ⟨e1, e2, e3⟩ := Body.frameReceive_runt hrx hlen hw
    exact ⟨_, State.body_withBody hok hr rfl, (State.withBody_rxOf p).trans e1, (State.withBody_fifo p).trans e2, (State.withBody_ctr ..).trans e3⟩
  · obtain ⟨e1, e2⟩ := Body.frameReceive_pipe hrx hlen hpl hx ho hv
    exact ⟨_, State.body_withBody hok hr rfl, (State.withBody_rxOf p).trans e1, by simpa using e2⟩
  · obtain ⟨e1, e2, e3⟩ := Body.frameReceive_entrance hrx hpl hlen hv hl hroom
    exact ⟨_, State.body_withBody hok hr rfl, (State.withBody_rxOf p).trans e1, (State.withBody_fifo p).trans e2, (State.withBody_ctr ..).trans e3⟩

end Sys2Proof
end

section
/-! The fields of a page: what a write, an event and a fault leave alone on it. -/

namespace Sys2Proof.Machine
namespace Body

section
variable {b c : Body}

/-! The fields of one page under its own operations. -/

theorem rd_wr_apart {p v : Nat} {f g : Fld} (h : apart f g = true) : (b.wr p f v).rd p g = b.rd p g := by
  obtain ⟨h1, h2, -, -, h3⟩ := of_decide_eq_true h
  refine b.rd_wr_ne _ h1 h2 (h3.imp (fun e => ?_) Ne.symm)
  rw [Fld.addr_zero, Fld.addr_zero]
  omega

theorem rd_fire_field {p n : Nat} {g : Fld} (hp : p % 0x1000 = 0 ∧ 0x8000 ≤ p) (hn : n < 32) (hg : g.lo < 32 ∧ 0x80 ≤ g.off ∧ g.off < 0x1000) :
    (b.fire p n).rd p g = b.rd p g :=
  b.rd_fire_block hn hg.1 hp.1 hg.2.1 (by omega) (by omega) (by omega)

theorem rd_fault_field {p n : Nat} {g : Fld} (x : FltInfo) (hn : n < 32) (hg : g.lo < 32 ∧ g.off ≠ 0x40) : (b.fault p n x).rd p g = b.rd p g := by
  refine b.rd_fault x hn hg.1 (.inl ?_)
  rw [Fld.addr_zero]
  omega

theorem Keeps.wrPage {ps : List Nat} {p v : Nat} {f : Fld} (h : Keeps ps b c) (hp : p ∈ ps) (ha : p % 0x1000 = 0) (hf : f.lo < 32 ∧ f.off < 0x1000) :
    Keeps ps b (c.wr p f v) := by
  refine h.wr hf.1 ?_
  rw [pageOf_addr ha (by omega)]
  exact hp

end

end Body

section
variable {s : State} {c : Body} {p : Nat}

/-- A register of a page above Survey's reads as the body has it. -/
theorem State.withBody_page {f : Fld} (hp : 0x8000 ≤ p) (hf : f.lo < 32) : (s.withBody c).reg p f = c.rd p f := by
  refine State.withBody_reg hf ?_
  rw [Fld.addr_zero]
  simp only [notedAt, Bool.or_eq_false_iff, beq_eq_false_iff_ne]
  omega

theorem State.withBody_page_evt {n : Nat} (hp : 0x8000 ≤ p) (hn : n < 32) (h : c.rd p (evtPend n) = 1) : (s.withBody c).evt p n :=
  (State.withBody_page hp hn).trans h

theorem State.withBody_page_flt {n : Nat} (hp : 0x8000 ≤ p) (hn : n < 32) (h : c.rd p (fltStat n) = 1) : (s.withBody c).flt p n :=
  (State.withBody_page hp hn).trans h

end

end Sys2Proof.Machine
end

section
/-! O19: the seconds of an audit snapshot (R274). -/

namespace Sys2Proof
open Machine Tests

/-- The engine at work, one second after the epoch of its time of day. -/
def secondPassed : State := chg ready fun b => { b with tod := 65536 * 1000000000 }

/-- The seconds that an outcome's audit snapshot shows. -/
def nextAudSec (o : Host.Outcome State Fault Refusal) : Option Nat :=
  match o with
  | .next t => some (t.reg Pg.rim R.RIM_AUD_SEC)
  | _ => none

theorem secondPassed_snapshot : nextAudSec (exec .rimstoneSnapshot secondPassed) = some 1 := by decide +kernel

/-- Refutes O19: a snapshot one second after the epoch shows RIM_AUD_SEC 1, where the statement divides the nanoseconds within the second,
`todNs`, by a second. -/
theorem not_rimstoneLedgers : ¬ Obligations.RimstoneLedgers := by
  intro h
  obtain ⟨hsnap, -⟩ := h secondPassed
  have hruns : secondPassed.dev.runs [13] = true := by decide +kernel
  obtain ⟨t, ht, -, -, -, hsec, -⟩ := hsnap hruns (by decide +kernel) (by decide +kernel)
  have hone := secondPassed_snapshot
  rw [ht, nextAudSec, hsec] at hone
  exact absurd hone (by decide +kernel)

end Sys2Proof
end

section
/-! O26: the BUFFER loop and the Chamber's injection (R229, R230). -/

namespace Sys2Proof.Machine
namespace Body

section
variable {b c : Body}

/-! Entries of a table, and a loop's action. -/

theorem ent_setEnt_self (t i v : Nat) : (b.setEnt t i v).ent t i = v := by
  rw [ent, setEnt, Sp.get_set_self]

theorem ent_setEnt_ne {t i v u j : Nat} (h : entKey u j ≠ entKey t i) : (b.setEnt t i v).ent u j = b.ent u j := by
  rw [ent, setEnt, Sp.get_set_of_ne _ _ _ _ h, ent]

theorem still_logWrite (loop inst : Nat) (adv : Bool) (action reason input bound old new : Nat) :
    (b.logWrite loop inst adv action reason input bound old new).still = b.still := by
  obtain ⟨e, he⟩ := b.logWrite_eq loop inst adv action reason input bound old new
  have hroom : b.logRoom.still = b.still := by
    unfold logRoom
    split_ifs
    · rw [still_fire, still_sat]
    · rfl
  have hhigh : ∀ d : Body, d.tellHigh.still = d.still := fun d => by
    unfold tellHigh
    split_ifs
    · exact still_fireLasting ..
    · rfl
  have hput : ∀ d : Body, (d.logPut e).still = d.still := fun _ => rfl
  rw [he, hhigh, logEntered, still_wr, still_wr, hput, hroom]

/-- A loop's action takes effect, or changes its own records alone (R27, R36). -/
theorem govAct_still (loop inst action reason input bound old new : Nat) (act : Body → Body) :
    (b.govAct loop inst action reason input bound old new act).still = (act b).still ∨
    (b.govAct loop inst action reason input bound old new act).still = b.still := by
  unfold govAct
  by_cases ha : b.loopAuto loop = true
  · rw [if_pos ha]
    dsimp only
    split_ifs
    · exact .inr rfl
    · exact .inl (still_logWrite ..)
    · exact .inl rfl
  · rw [if_neg ha]
    split_ifs
    · exact .inr (still_logWrite ..)
    · exact .inr rfl

theorem ent_of_tbls (h : c.tbls = b.tbls) (t i : Nat) : c.ent t i = b.ent t i := by rw [ent, h, ent]

/-! The BUFFER loop. -/

/-- What the BUFFER loop may make of a profile's entry (R229). -/
def shareMoved (e e' : Nat) : Prop :=
  e' = e ∨ (prValid e = true ∧ prSpill e = true ∧ ∃ v, e' = setBitField e 21 0 v ∧ prShareMin e ≤ v ∧ v ≤ prShareMax e)

/-- A move of one profile's share, and nothing else of the tables and the buffers. -/
structure ShareStep (p : Nat) (b c : Body) : Prop where
  buf : c.buf = b.buf
  other : ∀ k, k ≠ p → c.ent Tbl.profile k = b.ent Tbl.profile k
  moved : shareMoved (b.ent Tbl.profile p) (c.ent Tbl.profile p)

theorem ShareStep.refl (p : Nat) (b : Body) : ShareStep p b b := ⟨rfl, fun _ _ => rfl, .inl rfl⟩

theorem ShareStep.govAct {p v : Nat} (inst action reason input bound old new : Nat) (h1 : prValid (b.ent Tbl.profile p) = true)
    (h2 : prSpill (b.ent Tbl.profile p) = true) (hmin : prShareMin (b.ent Tbl.profile p) ≤ v) (hmax : v ≤ prShareMax (b.ent Tbl.profile p)) :
    ShareStep p b (b.govAct LOOP_BUFFER inst action reason input bound old new (setShare p v)) := by
  rcases govAct_still (b := b) LOOP_BUFFER inst action reason input bound old new (setShare p v) with h | h
  · obtain ⟨hbuf, -, -, -, -, -, -, -, -, htbls, -⟩ := still_eq h
    refine ⟨hbuf, fun k hk => ?_, .inr ⟨h1, h2, v, ?_, hmin, hmax⟩⟩
    · rw [ent_of_tbls htbls, setShare, ent_setEnt_ne (by unfold entKey; omega)]
    · rw [ent_of_tbls htbls, setShare, ent_setEnt_self]
  · obtain ⟨hbuf, -, -, -, -, -, -, -, -, htbls, -⟩ := still_eq h
    exact ⟨hbuf, fun k _ => ent_of_tbls htbls _ _, .inl (ent_of_tbls htbls _ _)⟩

/-- What the BUFFER loop does with one profile, by the occupancy and the profiles that wrote spans (R229). -/
def shareStep (used limit lo hi : Nat) (wrote : List Nat) (b : Body) (p : Nat) : Body :=
  let e := b.ent Tbl.profile p
  let s := prShare e
  if ¬ prValid e ∨ ¬ prSpill e then b
  else if prShareMax e < s then
    b.govAct LOOP_BUFFER p 2 RSN_ENVELOPE (used / limit) (prShareMax e) s (prShareMax e) (setShare p (prShareMax e))
  else if s < prShareMin e then
    b.govAct LOOP_BUFFER p 1 RSN_ENVELOPE (used / limit) (prShareMin e) s (prShareMin e) (setShare p (prShareMin e))
  else if used < lo * limit ∧ wrote.contains p then
    let n := min (s * 5 / 4) (prShareMax e)
    if n ≤ s then b else b.govAct LOOP_BUFFER p 1 LOAD_LOW (used / limit) lo s n (setShare p n)
  else if hi * limit < used then
    let n := max (s * 4 / 5) (prShareMin e)
    if s ≤ n then b else b.govAct LOOP_BUFFER p 2 LOAD_HIGH (used / limit) hi s n (setShare p n)
  else b

theorem shareStep_spec (used limit lo hi : Nat) (wrote : List Nat) {p : Nat}
    (henv : prShareMin (b.ent Tbl.profile p) ≤ prShareMax (b.ent Tbl.profile p)) : ShareStep p b (shareStep used limit lo hi wrote b p) := by
  unfold shareStep
  dsimp only
  by_cases hv : ¬ prValid (b.ent Tbl.profile p) = true ∨ ¬ prSpill (b.ent Tbl.profile p) = true
  · rw [if_pos hv]
    exact .refl p b
  · rw [if_neg hv]
    obtain ⟨h1, h2⟩ := not_or.mp hv
    rw [not_not] at h1 h2
    split_ifs
    · exact .govAct _ _ _ _ _ _ _ h1 h2 henv le_rfl
    · exact .govAct _ _ _ _ _ _ _ h1 h2 le_rfl henv
    · exact .refl p b
    · exact .govAct _ _ _ _ _ _ _ h1 h2 (by omega) (by omega)
    · exact .refl p b
    · exact .govAct _ _ _ _ _ _ _ h1 h2 (by omega) (by omega)
    · exact .refl p b

theorem shareSteps_spec (used limit lo hi : Nat) (wrote l : List Nat) (hn : l.Nodup) : ∀ b : Body,
    (∀ p ∈ l, prShareMin (b.ent Tbl.profile p) ≤ prShareMax (b.ent Tbl.profile p)) →
    (l.foldl (shareStep used limit lo hi wrote) b).buf = b.buf ∧
    (∀ k, k ∉ l → (l.foldl (shareStep used limit lo hi wrote) b).ent Tbl.profile k = b.ent Tbl.profile k) ∧
    ∀ p ∈ l, shareMoved (b.ent Tbl.profile p) ((l.foldl (shareStep used limit lo hi wrote) b).ent Tbl.profile p) := by
  induction l with
  | nil => exact fun b _ => ⟨rfl, fun _ _ => rfl, fun p hp => absurd hp List.not_mem_nil⟩
  | cons x l ih =>
    intro b henv
    obtain ⟨hx, hn⟩ := List.nodup_cons.mp hn
    have hone := shareStep_spec used limit lo hi wrote (henv x List.mem_cons_self)
    obtain ⟨i1, i2, i3⟩ := ih hn (shareStep used limit lo hi wrote b x) fun p hp => by
      rw [hone.other p fun e => hx (e ▸ hp)]
      exact henv p (List.mem_cons_of_mem x hp)
    rw [List.foldl_cons]
    refine ⟨i1.trans hone.buf, fun k hk => ?_, fun p hp => ?_⟩
    · obtain ⟨h1, h2⟩ := not_or.mp (mt List.mem_cons.mpr hk)
      rw [i2 k h2, hone.other k h1]
    · rcases List.mem_cons.mp hp with rfl | hp
      · rw [i2 _ hx]
        exact hone.moved
      · rw [← hone.other p fun e => hx (e ▸ hp)]
        exact i3 p hp

/-- The loop runs over the profiles, and forgets which wrote spans. -/
def shareSteps (b : Body) (l : List Nat) : Body :=
  l.foldl (shareStep (b.rd Pg.chm R.CHM_SHARED_USED * 10000) (max 1 (b.rd Pg.chm R.CHM_SHARED_LIMIT)) (b.rd Pg.chm R.CHM_BUF_LO)
    (b.rd Pg.chm R.CHM_BUF_HI) b.buf.wrote) b

theorem bufferLoop_eq : b.bufferLoop = { b.shareSteps (List.range 64) with buf := { (b.shareSteps (List.range 64)).buf with wrote := [] } } := by
  unfold bufferLoop
  generalize List.range 64 = l
  rfl

theorem bufferLoop_spec (henv : ∀ p < 64, prShareMin (b.ent Tbl.profile p) ≤ prShareMax (b.ent Tbl.profile p)) :
    b.bufferLoop.buf.wrote = [] ∧ b.bufferLoop.buf.queues = b.buf.queues ∧
    ∀ p < 64, shareMoved (b.ent Tbl.profile p) (b.bufferLoop.ent Tbl.profile p) := by
  obtain ⟨h1, -, h3⟩ := shareSteps_spec (b.rd Pg.chm R.CHM_SHARED_USED * 10000) (max 1 (b.rd Pg.chm R.CHM_SHARED_LIMIT)) (b.rd Pg.chm R.CHM_BUF_LO)
    (b.rd Pg.chm R.CHM_BUF_HI) b.buf.wrote (List.range 64) List.nodup_range b fun p hp => henv p (List.mem_range.mp hp)
  have hq : (b.shareSteps (List.range 64)).buf.queues = b.buf.queues := congrArg BufSt.queues h1
  rw [bufferLoop_eq]
  exact ⟨rfl, hq, fun p hp => h3 p (List.mem_range.mpr hp)⟩

/-- The injection's kind arms its error on the queue, and leaves every other queue (R230). -/
theorem chmInject_spec {q k : Nat} (hq : b.rd Pg.chm R.CHM_INJ_Q = q) (hk : b.rd Pg.chm R.CHM_INJ_KIND = k) :
    let y := b.chmInject.queueOf q
    (k = 0 → y.chkArm = true) ∧ (k = 1 → y.linkArm = true) ∧ (k = 2 → y.sumpUeArm = true) ∧ (k = 3 → y.farUeArm = true) ∧
    y.head = (b.queueOf q).head ∧ y.spans = (b.queueOf q).spans ∧ y.tail = (b.queueOf q).tail ∧
    (∀ j, j ≠ q → b.chmInject.queueOf j = b.queueOf j) ∧ Keeps [] b b.chmInject := by
  have hset : ∃ x : Queue, b.chmInject = b.setQueue q x ∧ (k = 0 → x.chkArm = true) ∧ (k = 1 → x.linkArm = true) ∧ (k = 2 → x.sumpUeArm = true) ∧
      (k = 3 → x.farUeArm = true) ∧ x.head = (b.queueOf q).head ∧ x.spans = (b.queueOf q).spans ∧ x.tail = (b.queueOf q).tail := by
    rw [chmInject, hq, hk]
    match k with
    | 0 => exact ⟨_, rfl, fun _ => rfl, fun h => absurd h (by decide), fun h => absurd h (by decide), fun h => absurd h (by decide), rfl, rfl, rfl⟩
    | 1 => exact ⟨_, rfl, fun h => absurd h (by decide), fun _ => rfl, fun h => absurd h (by decide), fun h => absurd h (by decide), rfl, rfl, rfl⟩
    | 2 => exact ⟨_, rfl, fun h => absurd h (by decide), fun h => absurd h (by decide), fun _ => rfl, fun h => absurd h (by decide), rfl, rfl, rfl⟩
    | k + 3 => exact ⟨_, rfl, fun h => absurd h (by omega), fun h => absurd h (by omega), fun h => absurd h (by omega), fun _ => rfl, rfl, rfl, rfl⟩
  obtain ⟨x, hx, h0, h1, h2, h3, h4, h5, h6⟩ := hset
  obtain ⟨n, hn, ho⟩ := b.queueOf_setQueue q x
  have hrest := b.setQueue_rest q x
  rw [hx, hn]
  exact ⟨h0, h1, h2, h3, h4, h5, h6, ho, .of_eq (.refl b) (by simp) (by simp) (by simp) (by simp)⟩

end

end Body

theorem State.withBody_queueOf {s : State} {c : Body} (q : Nat) : (s.withBody c).dev.body.queueOf q = c.queueOf q := by simp [Body.queueOf]

/-- CHM_INJ_GO written (R230). -/
theorem exec_chmInject {s : State} {m : Nat} (ht : s.takes m (Pg.chm + 0xB8)) :
    ∃ d, Body.Shown Pg.chm 0xB8 (PK.chm.fieldsAt 0xB8) s.dev.body d ∧ exec (.chmInject m) s = .next (s.withBody d.chmInject) := by
  obtain ⟨d, hshown, hput⟩ := Dev.put_go (v := 1) (i := 0) (f := R.CHM_INJ_GO) (act := fun b => b.chmInject) ht pageIs_chm (by decide) (by decide)
    (by decide) (by decide) (by decide) rfl (by decide) fun w _ hw _ => by
      simp only [Body.pageStore]
      exact Body.takeGo_act _ _ (by rw [pageIs_chm.fieldAt (by decide) (by decide)]; rfl) hw
  exact ⟨d, hshown, State.live_withBody ht.known ht.runs hput⟩

end Sys2Proof.Machine

namespace Sys2Proof
open Machine

/-- Settles O26: the loop's step on each profile, and the queue that the injection arms. -/
theorem bufferLoopAndInjection : Obligations.BufferLoopAndInjection := by
  unfold Obligations.BufferLoopAndInjection
  refine ⟨fun s hr henv => ?_, fun m s ht => ?_⟩
  · obtain ⟨h1, h2, h3⟩ := Body.bufferLoop_spec henv
    refine ⟨_, State.body_withBody rfl hr rfl, ?_, ?_, fun p hp => ?_⟩
    · rw [State.withBody_buf, h1]
    · rw [State.withBody_buf, h2]
    · rw [State.withBody_ent]
      exact h3 p hp
  · obtain ⟨d, hd, he⟩ := exec_chmInject ht
    have hq : d.rd Pg.chm R.CHM_INJ_Q = s.reg Pg.chm R.CHM_INJ_Q := hd.here (R.CHM_INJ_Q, 0, 0) (by decide)
    have hk : d.rd Pg.chm R.CHM_INJ_KIND = s.reg Pg.chm R.CHM_INJ_KIND := hd.here (R.CHM_INJ_KIND, 0, 0) (by decide)
    have hqueue : ∀ k, d.queueOf k = s.dev.body.queueOf k := fun k => by rw [hd.only]; rfl
    have hkeeps : Body.Keeps [Pg.chm] s.dev.body d := hd.keeps pageIs_chm (by decide) (List.mem_singleton_self _)
    obtain ⟨h0, h1, h2, h3, h4, h5, h6, h7, h8⟩ := Body.chmInject_spec hq hk
    refine ⟨_, he, State.withBody_keeps (hkeeps.trans (h8.mono (by simp))), ?_⟩
    generalize d.chmInject = e at h0 h1 h2 h3 h4 h5 h6 h7 h8 ⊢
    rw [hqueue] at h4 h5 h6
    rw [State.withBody_queueOf, State.withBody_page (by decide) (by decide), State.withBody_page (by decide) (by decide)]
    refine ⟨h0, h1, h2, h3, h4, h5, h6, fun k hk => ?_, ?_, ?_⟩
    · rw [State.withBody_queueOf, h7 k hk, hqueue]
    · exact (h8.regs _ _ _ _ (by decide) (by decide) (by simp)).trans hk
    · exact (h8.regs _ _ _ _ (by decide) (by decide) (by simp)).trans hq

end Sys2Proof
end

section
/-! O36: steps of the pin rate of a stack (R337, R338). -/

namespace Sys2Proof.Machine
namespace Body

section
variable {b c : Body} {k : Nat}

theorem hbm_page {n : Nat} (hn : n < 16) : Pg.hbm k n % 0x1000 = 0 ∧ 0x8000 ≤ Pg.hbm k n := by unfold Pg.hbm; omega

theorem Keeps.hwr {ps : List Nat} {f : Fld} {v : Nat} (h : Keeps ps b c) (hf : f.lo < 32 ∧ f.off < 0x1000) (hp : Pg.hbm k 0 ∈ ps) :
    Keeps ps b (c.hwr k f v) :=
  h.wrPage hp (hbm_page (by decide)).1 hf

theorem hwr_rest (f : Fld) (v : Nat) : (b.hwr k f v).hbm = b.hbm ∧ (b.hwr k f v).ctrs = b.ctrs := ⟨rfl, rfl⟩

/-! The timing sets. -/

/-- The two timing sets of a stack. -/
def timSet (f : Fld) : Prop := f = R.HBM_TIMS ∨ f = R.HBM_TIMA

theorem timSet.shape {f : Fld} (h : timSet f) : f.lo = 0 ∧ f.width = 32 ∧ f.stride = 4 ∧ 0xA0 ≤ f.off ∧ f.off ≤ 0xB0 := by
  rcases h with rfl | rfl <;> decide

theorem timPut_eq (f : Fld) (e : Nat) : b.timPut k f e = ((((b.wr (Pg.hbm k 0) f (e / 2 ^ (32 * 0)) 0).wr (Pg.hbm k 0) f (e / 2 ^ (32 * 1)) 1).wr (Pg.hbm k 0) f
    (e / 2 ^ (32 * 2)) 2).wr (Pg.hbm k 0) f (e / 2 ^ (32 * 3)) 3) := by
  rw [timPut, show List.range 4 = [0, 1, 2, 3] from rfl]
  rfl

theorem timPut_other {f g : Fld} {e i : Nat} (hf : timSet f) (hg : g.lo < 32) (h : ∀ j < 4, g.off + g.stride * i ≠ f.off + 4 * j) :
    (b.timPut k f e).rd (Pg.hbm k 0) g i = b.rd (Pg.hbm k 0) g i := by
  obtain ⟨hlo, -, hst, -, -⟩ := hf.shape
  unfold timPut
  refine foldl_same_mem (fun c : Body => c.rd (Pg.hbm k 0) g i) _ _ _ fun c j hj => c.rd_wr_ne _ (by omega) hg (.inl ?_)
  have := h j (List.mem_range.mp hj)
  unfold Fld.addr
  rw [hst]
  omega

theorem timPut_self {f : Fld} {e i : Nat} (hf : timSet f) (hi : i < 4) : (b.timPut k f e).rd (Pg.hbm k 0) f i = e / 2 ^ (32 * i) % 2 ^ 32 := by
  obtain ⟨hlo, hw, hst, -, -⟩ := hf.shape
  have hset : ∀ (c : Body) v j, (c.wr (Pg.hbm k 0) f v j).rd (Pg.hbm k 0) f j = v % 2 ^ 32 := fun c v j => by rw [rd_wr_self, hw]
  have hoth : ∀ (c : Body) v {j i : Nat}, j ≠ i → (c.wr (Pg.hbm k 0) f v j).rd (Pg.hbm k 0) f i = c.rd (Pg.hbm k 0) f i := fun c v j i hj =>
    c.rd_wr_ne v (by omega) (by omega) (.inl (by unfold Fld.addr; rw [hst]; omega))
  rw [timPut_eq]
  obtain rfl | rfl | rfl | rfl : i = 0 ∨ i = 1 ∨ i = 2 ∨ i = 3 := by omega
  · rw [hoth _ _ (by decide), hoth _ _ (by decide), hoth _ _ (by decide), hset]
  · rw [hoth _ _ (by decide), hoth _ _ (by decide), hset]
  · rw [hoth _ _ (by decide), hset]
  · rw [hset]

theorem timPut_rest (f : Fld) (e : Nat) : (b.timPut k f e).hbm = b.hbm ∧ (b.timPut k f e).clk = b.clk ∧ (b.timPut k f e).tbls = b.tbls ∧
    (b.timPut k f e).ctrs = b.ctrs := by
  rw [timPut_eq]
  exact ⟨rfl, rfl, rfl, rfl⟩

theorem Keeps.timPut {ps : List Nat} {f : Fld} {e : Nat} (h : Keeps ps b c) (hf : timSet f) (hp : Pg.hbm k 0 ∈ ps) : Keeps ps b (c.timPut k f e) := by
  obtain ⟨hlo, -, hst, -, hoff⟩ := hf.shape
  refine h.foldl _ fun d j hj hd => hd.wr (by omega) ?_
  have := List.mem_range.mp hj
  rw [pageOf_addr (hbm_page (by decide)).1 (by rw [hst]; omega)]
  exact hp

/-- Each word of a 16-byte set. -/
theorem word_of_four {r0 r1 r2 r3 w : Nat} (h0 : r0 < w) (h1 : r1 < w) (h2 : r2 < w) (h3 : r3 < w) :
    (r0 + r1 * w + r2 * w ^ 2 + r3 * w ^ 3) % w = r0 ∧ (r0 + r1 * w + r2 * w ^ 2 + r3 * w ^ 3) / w % w = r1 ∧
    (r0 + r1 * w + r2 * w ^ 2 + r3 * w ^ 3) / w ^ 2 % w = r2 ∧ (r0 + r1 * w + r2 * w ^ 2 + r3 * w ^ 3) / w ^ 3 % w = r3 := by
  have hw : 0 < w := by omega
  have hd : ∀ {x y}, x < w → (x + w * y) / w = y ∧ (x + w * y) % w = x := fun {x y} hx => by
    rw [Nat.add_mul_div_left _ _ hw, Nat.div_eq_of_lt hx, Nat.add_mul_mod_self_left, Nat.mod_eq_of_lt hx, Nat.zero_add]
    exact ⟨rfl, rfl⟩
  rw [show r0 + r1 * w + r2 * w ^ 2 + r3 * w ^ 3 = r0 + w * (r1 + w * (r2 + w * r3)) by ring, show w ^ 2 = w * w by ring,
    show w ^ 3 = w * w * w by ring, ← Nat.div_div_eq_div_mul, ← Nat.div_div_eq_div_mul, ← Nat.div_div_eq_div_mul, (hd h0).1, (hd h1).1, (hd h2).1,
    (hd h0).2, (hd h1).2, (hd h2).2, Nat.mod_eq_of_lt h3]
  exact ⟨rfl, rfl, rfl, rfl⟩

theorem sum_range_four (g : Nat → Nat) : ((List.range 4).map g).foldl (· + ·) 0 = g 0 + g 1 + g 2 + g 3 := by
  rw [show List.range 4 = [0, 1, 2, 3] from rfl]
  simp only [List.map_cons, List.map_nil, List.foldl_cons, List.foldl_nil, zero_add]

theorem timGet_eq (f : Fld) : b.timGet k f = b.rd (Pg.hbm k 0) f 0 + b.rd (Pg.hbm k 0) f 1 * 2 ^ 32 + b.rd (Pg.hbm k 0) f 2 * (2 ^ 32) ^ 2 +
    b.rd (Pg.hbm k 0) f 3 * (2 ^ 32) ^ 3 := by
  rw [timGet, sum_range_four, pow_mul, pow_mul, pow_mul, pow_mul, pow_zero, pow_one, mul_one]

theorem timGet_part {f : Fld} {i : Nat} (hf : timSet f) (hi : i < 4) : b.timGet k f / 2 ^ (32 * i) % 2 ^ 32 = b.rd (Pg.hbm k 0) f i := by
  have hlt : ∀ j, b.rd (Pg.hbm k 0) f j < 2 ^ 32 := fun j => by
    have := b.rd_lt (Pg.hbm k 0) f j 0
    rwa [hf.shape.2.1] at this
  obtain ⟨w0, w1, w2, w3⟩ := word_of_four (hlt 0) (hlt 1) (hlt 2) (hlt 3)
  rw [← timGet_eq] at w0 w1 w2 w3
  rw [pow_mul]
  obtain rfl | rfl | rfl | rfl : i = 0 ∨ i = 1 ∨ i = 2 ∨ i = 3 := by omega
  · rw [pow_zero, Nat.div_one, w0]
  · rw [pow_one, w1]
  · exact w2
  · exact w3

/-- The sets change places (R337). -/
theorem timSwap_spec : (∀ i < 4, (b.timSwap k).rd (Pg.hbm k 0) R.HBM_TIMA i = b.rd (Pg.hbm k 0) R.HBM_TIMS i ∧
      (b.timSwap k).rd (Pg.hbm k 0) R.HBM_TIMS i = b.rd (Pg.hbm k 0) R.HBM_TIMA i) ∧
    (∀ g : Fld, g.lo < 32 → g.off < 0xA0 → (b.timSwap k).rd (Pg.hbm k 0) g = b.rd (Pg.hbm k 0) g) ∧
    ((b.timSwap k).hbm = b.hbm ∧ (b.timSwap k).clk = b.clk ∧ (b.timSwap k).tbls = b.tbls ∧ (b.timSwap k).ctrs = b.ctrs) := by
  have hs : timSet R.HBM_TIMS := .inl rfl
  have ha : timSet R.HBM_TIMA := .inr rfl
  unfold timSwap
  dsimp only
  refine ⟨fun i hi => ⟨?_, ?_⟩, fun g hg ho => ?_, ?_⟩
  · rw [timPut_self ha hi, timGet_part hs hi]
  · rw [timPut_other ha (by decide) fun j hj => by simp only [R.HBM_TIMS, R.HBM_TIMA]; omega, timPut_self hs hi, timGet_part ha hi]
  · rw [timPut_other ha hg fun j hj => by simp only [R.HBM_TIMA]; omega, timPut_other hs hg fun j hj => by simp only [R.HBM_TIMS]; omega]
  · obtain ⟨h1, h2, h3, h4⟩ := timPut_rest (b := b.timPut k R.HBM_TIMS (b.timGet k R.HBM_TIMA)) (k := k) R.HBM_TIMA (b.timGet k R.HBM_TIMS)
    obtain ⟨e1, e2, e3, e4⟩ := timPut_rest (b := b) (k := k) R.HBM_TIMS (b.timGet k R.HBM_TIMA)
    exact ⟨h1.trans e1, h2.trans e2, h3.trans e3, h4.trans e4⟩

/-! A step begins. -/

/-- What a step that may begin leaves: on the stack's page 0 only the step's busy bit and its shadow set, and its target rate. -/
structure StepFrame (k : Nat) (b c : Body) : Prop where
  regs : ∀ g : Fld, g.lo < 32 → g.off < 0xA0 → apart R.HBM_STEP_BUSY g = true → c.rd (Pg.hbm k 0) g = b.rd (Pg.hbm k 0) g
  tima : ∀ i < 4, c.rd (Pg.hbm k 0) R.HBM_TIMA i = b.rd (Pg.hbm k 0) R.HBM_TIMA i
  queue : c.hbm.queue = b.hbm.queue
  stalled : c.hbm.stalled = b.hbm.stalled
  keeps : Keeps [Pg.hbm k 0] b c

/-- The first registers of a step (R337). -/
def stepSet (b : Body) (k r : Nat) : Body := (b.hwr k R.HBM_STEP_BUSY 1).timPut k R.HBM_TIMS (b.ent (Tbl.timing k) r)

theorem stepSet_spec (r : Nat) :
    (∀ g : Fld, g.lo < 32 → g.off < 0xA0 → apart R.HBM_STEP_BUSY g = true → (b.stepSet k r).rd (Pg.hbm k 0) g = b.rd (Pg.hbm k 0) g) ∧
    (∀ i < 4, (b.stepSet k r).rd (Pg.hbm k 0) R.HBM_TIMA i = b.rd (Pg.hbm k 0) R.HBM_TIMA i) ∧
    (∀ i < 4, (b.stepSet k r).rd (Pg.hbm k 0) R.HBM_TIMS i = b.ent (Tbl.timing k) r / 2 ^ (32 * i) % 2 ^ 32) ∧
    (b.stepSet k r).rd (Pg.hbm k 0) R.HBM_STEP_BUSY = 1 ∧ (b.stepSet k r).hbm = b.hbm ∧ Keeps [Pg.hbm k 0] b (b.stepSet k r) := by
  have hs : timSet R.HBM_TIMS := .inl rfl
  have hm : Pg.hbm k 0 ∈ [Pg.hbm k 0] := List.mem_singleton_self _
  unfold stepSet
  refine ⟨fun g hg ho ha => ?_, fun i hi => ?_, fun i hi => timPut_self hs hi, ?_, (timPut_rest ..).1, ((Keeps.refl b).hwr (by decide) hm).timPut hs hm⟩
  · rw [timPut_other hs hg (fun j hj => by simp only [R.HBM_TIMS]; omega), hwr, rd_wr_apart ha]
  · rw [timPut_other hs (by decide) (fun j hj => by simp only [R.HBM_TIMS, R.HBM_TIMA]; omega), hwr,
      b.rd_wr_ne 1 (by decide) (by decide) (.inl (by simp only [Fld.addr, R.HBM_TIMA, R.HBM_STEP_BUSY]; omega))]
  · rw [timPut_other hs (by decide) (fun j hj => by simp only [R.HBM_TIMS, R.HBM_STEP_BUSY]; omega), hwr, rd_wr_self]
    rfl

/-- A step's target noted. -/
def stepAim (b : Body) (k r : Nat) : Body := { b with hbm := { b.hbm with target := Sp.ins b.hbm.target k r } }

theorem stepBegin_eq : b.stepBegin k =
    if b.hrd k R.HBM_RATE_REQ = b.hrd k R.HBM_RATE_CUR ∨ b.hrd k R.HBM_STEP_BUSY = 1 ∨ ¬ b.rateOk k (b.hrd k R.HBM_RATE_REQ) then b
    else (b.stepSet k (b.hrd k R.HBM_RATE_REQ)).stepAim k (b.hrd k R.HBM_RATE_REQ) := rfl

theorem stepAim_rd (r : Nat) (q : Nat) (g : Fld) (i : Nat) : (b.stepAim k r).rd q g i = b.rd q g i := rd_of_regs rfl _ _ _ _

theorem stepBegin_frame : StepFrame k b (b.stepBegin k) := by
  rw [stepBegin_eq]
  split_ifs
  · exact ⟨fun _ _ _ _ => rfl, fun _ _ => rfl, rfl, rfl, .refl b⟩
  · generalize b.hrd k R.HBM_RATE_REQ = r
    obtain ⟨h1, h2, -, -, h5, h6⟩ := stepSet_spec (b := b) (k := k) r
    generalize b.stepSet k r = d at *
    have hq : d.hbm.queue = b.hbm.queue := congrArg HbmSt.queue h5
    have hs : d.hbm.stalled = b.hbm.stalled := congrArg HbmSt.stalled h5
    exact ⟨fun g hg ho ha => (stepAim_rd ..).trans (h1 g hg ho ha), fun i hi => (stepAim_rd ..).trans (h2 i hi), hq, hs, h6.of_eq rfl rfl rfl rfl⟩

theorem stepBegin_same (h : b.hrd k R.HBM_RATE_REQ = b.hrd k R.HBM_RATE_CUR) : b.stepBegin k = b := if_pos (.inl h)

/-- A step towards another rate (R337). -/
theorem stepBegin_spec {r : Nat} (hr : b.hrd k R.HBM_RATE_REQ = r) (hne : r ≠ b.hrd k R.HBM_RATE_CUR) (hb : b.hrd k R.HBM_STEP_BUSY = 0) (hok : b.rateOk k r = true) :
    (b.stepBegin k).rd (Pg.hbm k 0) R.HBM_STEP_BUSY = 1 ∧ Sp.get 16 (b.stepBegin k).hbm.target k = r ∧
    ∀ i < 4, (b.stepBegin k).rd (Pg.hbm k 0) R.HBM_TIMS i = b.ent (Tbl.timing k) r / 2 ^ (32 * i) % 2 ^ 32 := by
  rw [stepBegin_eq, hr, if_neg (by simp [hne, hb, hok])]
  obtain ⟨-, -, h3, h4, -, -⟩ := stepSet_spec (b := b) (k := k) r
  generalize b.stepSet k r = d at *
  exact ⟨(stepAim_rd ..).trans h4, Sp.get_ins_self .., fun i hi => (stepAim_rd ..).trans (h3 i hi)⟩

theorem stepRests_keeps : Keeps [Pg.governor] b (b.stepRests k) ∧ (b.stepRests k).hbm = b.hbm := by
  have hbusy : ∀ d : Body, Keeps [Pg.governor] d (d.govBusy LOOP_POWER) := fun d => Keeps.gwr (.refl d) (by decide) (by decide)
  have hend : Keeps [Pg.governor] b (b.govEnd LOOP_POWER (0x100 + k)) ∧ (b.govEnd LOOP_POWER (0x100 + k)).hbm = b.hbm := by
    unfold govEnd
    split_ifs
    · refine ⟨Keeps.trans (c := { b with gov := { b.gov with running := b.gov.running.filter (· ≠ (LOOP_POWER, 0x100 + k)) } }) ?_ (hbusy _), rfl⟩
      exact (Keeps.refl b).of_eq rfl rfl rfl rfl
    · exact ⟨.refl b, rfl⟩
  unfold stepRests
  split_ifs
  · exact ⟨.refl b, rfl⟩
  · exact hend

/-- A register of a stack's page 0 stands where only the Governor's page changes. -/
theorem Keeps.hbm0 (h : Keeps [Pg.governor] b c) {g : Fld} {i : Nat} (hg : g.lo < 32 ∧ g.off + g.stride * i < 0x1000) :
    c.rd (Pg.hbm k 0) g i = b.rd (Pg.hbm k 0) g i := by
  have hp := hbm_page (k := k) (n := 0) (by decide)
  refine h.regs _ _ _ _ hg.1 ?_ ?_
  · unfold Fld.addr
    simp only [notedAt, Bool.or_eq_false_iff, beq_eq_false_iff_ne]
    omega
  · rw [pageOf_addr hp.1 (by omega), List.mem_singleton]
    unfold Pg.governor
    omega

theorem stackStalled_ins {v : Nat} {m : List (Nat × Nat)} : (Sp.ins m k v).any (fun e => e.1 == k) = true := by
  have h := Sp.find_ins m k v
  exact List.any_eq_true.mpr ⟨_, List.mem_of_find?_eq_some h, beq_self_eq_true k⟩

/-- The stall of a step (R338). -/
theorem stepStall_spec (hb : b.hrd k R.HBM_STEP_BUSY = 1) (hs : b.stackStalled k = false) :
    (b.stepStall k).stackStalled k = true ∧ (∀ e ∈ (b.stepStall k).hbm.rows, e.1 / 2048 ≠ k) ∧ (b.stepStall k).hbm.queue = b.hbm.queue ∧
    Keeps [] b (b.stepStall k) := by
  rw [stepStall, if_neg (by simp [hb, hs])]
  exact ⟨stackStalled_ins, fun e he => by simpa using (List.mem_filter.mp he).2, rfl, (Keeps.refl b).of_eq rfl rfl rfl rfl⟩

/-- A step abandoned (R337). -/
theorem stepFail_spec (hb : b.hrd k R.HBM_STEP_BUSY = 1) (hs : b.stackStalled k = false) :
    let c := b.stepFail k
    c.rd (Pg.hbm k 0) R.HBM_RATE_CUR = b.rd (Pg.hbm k 0) R.HBM_RATE_CUR ∧ c.rd (Pg.hbm k 0) (evtPend R.HBM_EVT_STEP_FAIL) = 1 ∧ c.hbm.queue = b.hbm.queue ∧
    Keeps [Pg.hbm k 0, Pg.governor] b c ∧
    (b.hrd k R.HBM_RATE_REQ = Sp.get 16 b.hbm.target k → c.rd (Pg.hbm k 0) R.HBM_STEP_BUSY = 0) := by
  have hp := hbm_page (k := k) (n := 0) (by decide)
  have hm : Pg.hbm k 0 ∈ [Pg.hbm k 0] := List.mem_singleton_self _
  generalize hd : (b.hwr k R.HBM_STEP_BUSY 0).fire (Pg.hbm k 0) R.HBM_EVT_STEP_FAIL = d
  generalize he : ({ d with hbm := { d.hbm with target := Sp.del d.hbm.target k } } : Body) = e
  generalize hf : (if e.hrd k R.HBM_RATE_REQ = Sp.get 16 b.hbm.target k then e else e.stepBegin k) = f
  have heq : b.stepFail k = f.stepRests k := by
    rw [stepFail, if_neg (by simp [hb, hs]), ← hf, ← he, ← hd]
  have hde : ∀ g : Fld, e.rd (Pg.hbm k 0) g = d.rd (Pg.hbm k 0) g := fun g => by rw [← he]; rfl
  have hdb : ∀ g : Fld, g.lo < 32 ∧ 0x80 ≤ g.off ∧ g.off < 0x1000 → e.rd (Pg.hbm k 0) g = (b.hwr k R.HBM_STEP_BUSY 0).rd (Pg.hbm k 0) g := fun g hg => by
    rw [hde, ← hd, rd_fire_field hp (by decide) hg]
  have hframe : StepFrame k e f := by
    rw [← hf]
    split_ifs
    · exact ⟨fun _ _ _ _ => rfl, fun _ _ => rfl, rfl, rfl, .refl e⟩
    · exact stepBegin_frame
  obtain ⟨hrk, hrh⟩ := stepRests_keeps (b := f) (k := k)
  have heh : e.hbm.queue = b.hbm.queue := by
    rw [← he, ← hd]
    have hh : ((b.hwr k R.HBM_STEP_BUSY 0).fire (Pg.hbm k 0) R.HBM_EVT_STEP_FAIL).hbm = b.hbm := by simp [hwr]
    rw [hh]
  have hke : Keeps [Pg.hbm k 0] b e := by
    rw [← he, ← hd]
    exact (((Keeps.refl b).hwr (by decide) hm).fire (by decide) hp.1 hm).of_eq rfl rfl rfl rfl
  intro c
  have hc : c = f.stepRests k := heq
  rw [hc]
  refine ⟨?_, ?_, ?_, ?_, fun hreq => ?_⟩
  · rw [hrk.hbm0 (by decide), hframe.regs _ (by decide) (by decide) (by decide), hdb _ (by decide)]
    exact rd_wr_apart (by decide)
  · rw [hrk.hbm0 (by decide), hframe.regs _ (by decide) (by decide) (by decide), hde, ← hd, fire_pend _ (by decide) hp.1]
  · rw [hrh, hframe.queue, heh]
  · exact ((hke.trans hframe.keeps).mono (by simp)).trans (hrk.mono (by simp))
  · have hsame : f = e := by
      rw [← hf]
      refine if_pos (Eq.trans ?_ hreq)
      exact (hdb _ (by decide)).trans (rd_wr_apart (by decide))
    rw [hrk.hbm0 (by decide), hsame, hdb _ (by decide)]
    exact b.rd_wr_self (Pg.hbm k 0) R.HBM_STEP_BUSY 0 0 0

/-- The registers that the end of a step sets before the next may begin: the rate, the sets, the time it took (R337). -/
def stepEnded (b : Body) (k r since : Nat) : Body :=
  let b := (b.hwr k R.HBM_RATE_CUR r).timSwap k
  (b.hwr k R.HBM_STEP_NS (min 65535 (b.clk - since))).hwr k R.HBM_STEP_BUSY 0

theorem stepEnded_spec {r since : Nat} (hr : r < 16) :
    let c := b.stepEnded k r since
    c.hrd k R.HBM_RATE_CUR = r ∧ c.hrd k R.HBM_STEP_NS = min 65535 (b.clk - since) ∧ c.hrd k R.HBM_STEP_BUSY = 0 ∧
    c.hrd k R.HBM_RATE_REQ = b.hrd k R.HBM_RATE_REQ ∧
    (∀ i < 4, c.rd (Pg.hbm k 0) R.HBM_TIMA i = b.rd (Pg.hbm k 0) R.HBM_TIMS i ∧ c.rd (Pg.hbm k 0) R.HBM_TIMS i = b.rd (Pg.hbm k 0) R.HBM_TIMA i) ∧
    c.hbm = b.hbm ∧ c.ctrs = b.ctrs := by
  obtain ⟨h1, h2, h3, h4, h5, h6⟩ := timSwap_spec (b := b.hwr k R.HBM_RATE_CUR r) (k := k)
  have hfar : ∀ (d : Body) (f g : Fld) v i, f.lo < 32 → g.lo < 32 → f.off < 0x90 → 0x90 ≤ g.off → (d.hwr k f v).rd (Pg.hbm k 0) g i = d.rd (Pg.hbm k 0) g i :=
    fun d f g v i hf hg h1 h2 => d.rd_wr_ne v hf hg (.inl (by unfold Fld.addr; omega))
  intro c
  have hc : c = (((b.hwr k R.HBM_RATE_CUR r).timSwap k).hwr k R.HBM_STEP_NS (min 65535 (b.clk - since))).hwr k R.HBM_STEP_BUSY 0 := by
    show b.stepEnded k r since = _
    unfold stepEnded
    dsimp only
    rw [h4]
    rfl
  rw [hc]
  refine ⟨?_, ?_, rd_wr_self .., ?_, fun i hi => ⟨?_, ?_⟩, ?_, ?_⟩
  · refine (rd_wr_apart (by decide)).trans ((rd_wr_apart (by decide)).trans ((h2 _ (by decide) (by decide)).trans ((rd_wr_self ..).trans ?_)))
    exact Nat.mod_eq_of_lt hr
  · refine (rd_wr_apart (by decide)).trans ((rd_wr_self ..).trans (Nat.mod_eq_of_lt ?_))
    have hwidth : R.HBM_STEP_NS.width = 16 := rfl
    rw [hwidth]
    omega
  · exact (rd_wr_apart (by decide)).trans ((rd_wr_apart (by decide)).trans ((h2 _ (by decide) (by decide)).trans (rd_wr_apart (by decide))))
  · rw [hfar _ _ _ _ _ (by decide) (by decide) (by decide) (by decide), hfar _ _ _ _ _ (by decide) (by decide) (by decide) (by decide), (h1 i hi).1,
      hfar _ _ _ _ _ (by decide) (by decide) (by decide) (by decide)]
  · rw [hfar _ _ _ _ _ (by decide) (by decide) (by decide) (by decide), hfar _ _ _ _ _ (by decide) (by decide) (by decide) (by decide), (h1 i hi).2,
      hfar _ _ _ _ _ (by decide) (by decide) (by decide) (by decide)]

  · rw [(hwr_rest ..).1, (hwr_rest ..).1, h3, (hwr_rest ..).1]
  · rw [(hwr_rest ..).2, (hwr_rest ..).2, h6, (hwr_rest ..).2]

theorem stackStalled_del {m : List (Nat × Nat)} : (Sp.del m k).any (fun e => e.1 == k) = false := by
  rw [List.any_eq_false]
  intro e he
  simpa using (List.mem_filter.mp he).2

/-- A stack's step over: neither its stall nor its target stands. -/
def stepClear (b : Body) (k : Nat) : Body := { b with hbm := { b.hbm with stalled := Sp.del b.hbm.stalled k, target := Sp.del b.hbm.target k } }

/-- The end of a step told and counted. -/
def stepTold (b : Body) (k : Nat) : Body := (b.hbmCount k HBM_STEPS).fire (Pg.hbm k 0) R.HBM_EVT_STEP_DONE

theorem stepTold_spec : (b.stepTold k).hbm = b.hbm ∧ (b.stepTold k).rd (Pg.hbm k 0) (evtPend R.HBM_EVT_STEP_DONE) = 1 ∧
    (b.stepTold k).ctr (Pg.hbm k 3) HBM_STEPS = (b.ctr (Pg.hbm k 3) HBM_STEPS + 1) % 2 ^ 64 ∧
    ∀ (g : Fld) i, g.lo < 32 ∧ 0x80 ≤ g.off ∧ g.off + g.stride * i < 0x1000 → (b.stepTold k).rd (Pg.hbm k 0) g i = b.rd (Pg.hbm k 0) g i := by
  have hp := hbm_page (k := k) (n := 0) (by decide)
  unfold stepTold
  refine ⟨by simp [hbmCount], fire_pend _ (by decide) hp.1, ?_, fun g i hg => ?_⟩
  · rw [fire_ctr, hbmCount, ctr_count_same]
  · rw [rd_fire_block _ (by decide) hg.1 hp.1 hg.2.1 (by omega) (by omega) (by omega), hbmCount, count_rd]

theorem stepDone_eq {since r : Nat} (hs : b.hbm.stalled.find? (fun e => e.1 == k) = some (k, since))
    (ht : b.hbm.target.find? (fun e => e.1 == k) = some (k, r)) :
    b.stepDone k = ((((b.stepEnded k r since).stepClear k).stepTold k).stepBegin k).stepRests k := by
  simp only [stepDone, hs, ht, stepEnded, stepClear, stepTold]

theorem stepClear_spec : (∀ (g : Fld) i, (b.stepClear k).rd (Pg.hbm k 0) g i = b.rd (Pg.hbm k 0) g i) ∧
    (b.stepClear k).hbm.queue = b.hbm.queue ∧ (b.stepClear k).stackStalled k = false ∧ (b.stepClear k).ctrs = b.ctrs :=
  ⟨fun _ _ => rd_of_regs rfl _ _ _ _, rfl, stackStalled_del, rfl⟩

/-- The end of a step (R337). -/
theorem stepDone_spec {since r : Nat} (hr : r < 16) (hs : b.hbm.stalled.find? (fun e => e.1 == k) = some (k, since))
    (ht : b.hbm.target.find? (fun e => e.1 == k) = some (k, r)) :
    let c := b.stepDone k
    c.rd (Pg.hbm k 0) R.HBM_RATE_CUR = r ∧ c.stackStalled k = false ∧ c.rd (Pg.hbm k 0) R.HBM_STEP_NS = min 65535 (b.clk - since) ∧
    c.rd (Pg.hbm k 0) (evtPend R.HBM_EVT_STEP_DONE) = 1 ∧ c.hbm.queue = b.hbm.queue ∧
    c.ctr (Pg.hbm k 3) HBM_STEPS = (b.ctr (Pg.hbm k 3) HBM_STEPS + 1) % 2 ^ 64 ∧
    (∀ i < 4, c.rd (Pg.hbm k 0) R.HBM_TIMA i = b.rd (Pg.hbm k 0) R.HBM_TIMS i) ∧
    (b.hrd k R.HBM_RATE_REQ = r → c.rd (Pg.hbm k 0) R.HBM_STEP_BUSY = 0 ∧ ∀ i < 4, c.rd (Pg.hbm k 0) R.HBM_TIMS i = b.rd (Pg.hbm k 0) R.HBM_TIMA i) := by
  obtain ⟨e1, e2, e3, e4, e5, e6, e7⟩ := stepEnded_spec (b := b) (k := k) (since := since) hr
  rw [stepDone_eq hs ht]
  generalize b.stepEnded k r since = d at e1 e2 e3 e4 e5 e6 e7 ⊢
  obtain ⟨hdq, hqueue, hstall, hctrs⟩ := stepClear_spec (b := d) (k := k)
  rw [e6] at hqueue
  have hctr := fun (p o : Nat) => ctr_of_ctrs (hctrs.trans e7) p o
  clear hctrs
  generalize d.stepClear k = q at hdq hqueue hstall hctr
  obtain ⟨f1, f2, f3, f4⟩ := stepTold_spec (b := q) (k := k)
  generalize q.stepTold k = f at f1 f2 f3 f4
  have hfd : ∀ (g : Fld) i, g.lo < 32 ∧ 0x80 ≤ g.off ∧ g.off + g.stride * i < 0x1000 → f.rd (Pg.hbm k 0) g i = d.rd (Pg.hbm k 0) g i := fun g i hg =>
    (f4 g i hg).trans (hdq g i)
  have hframe := stepBegin_frame (b := f) (k := k)
  obtain ⟨hrk, hrh⟩ := stepRests_keeps (b := f.stepBegin k) (k := k)
  refine ⟨?_, ?_, ?_, ?_, ?_, ?_, fun i hi => ?_, fun hreq => ?_⟩
  · rw [hrk.hbm0 (by decide), hframe.regs _ (by decide) (by decide) (by decide), hfd _ _ (by decide)]
    exact e1
  · rw [stackStalled, hrh, hframe.stalled, f1]
    exact hstall
  · rw [hrk.hbm0 (by decide), hframe.regs _ (by decide) (by decide) (by decide), hfd _ _ (by decide)]
    exact e2
  · rw [hrk.hbm0 (by decide), hframe.regs _ (by decide) (by decide) (by decide), f2]
  · rw [hrh, hframe.queue, f1, hqueue]
  · rw [ctr_of_ctrs hrk.ctrs, ctr_of_ctrs hframe.keeps.ctrs, f3, hctr]
  · rw [hrk.hbm0 (by simp only [R.HBM_TIMA]; omega), hframe.tima i hi, hfd _ _ (by simp only [R.HBM_TIMA]; omega), (e5 i hi).1]
  · have hsame : f.stepBegin k = f := stepBegin_same <| by
      refine (hfd R.HBM_RATE_REQ 0 (by decide)).trans (Eq.trans ?_ (hfd R.HBM_RATE_CUR 0 (by decide)).symm)
      exact (e4.trans hreq).trans e1.symm
    rw [hsame] at hrk
    rw [hsame]
    refine ⟨?_, fun i hi => ?_⟩
    · rw [hrk.hbm0 (by decide), hfd _ _ (by decide)]
      exact e3
    · rw [hrk.hbm0 (by simp only [R.HBM_TIMS]; omega), hfd _ _ (by simp only [R.HBM_TIMS]; omega), (e5 i hi).2]

/-- HBM_RATE_REQ written where the POWER loop does not own it (R337). -/
theorem rateTake_spec {r : Nat} (hr : r < 16) :
    (b.rateOk k r = false → (b.rateTake k r).rd (Pg.hbm k 0) (evtPend R.HBM_EVT_BADCFG) = 1 ∧
      (b.rateTake k r).rd (Pg.hbm k 0) R.HBM_RATE_REQ = b.rd (Pg.hbm k 0) R.HBM_RATE_REQ ∧ Keeps [Pg.hbm k 0] b (b.rateTake k r)) ∧
    (b.rateOk k r = true → (b.rateTake k r).rd (Pg.hbm k 0) R.HBM_RATE_REQ = r ∧
      (b.rateTake k r).rd (Pg.hbm k 0) R.HBM_RATE_CUR = b.rd (Pg.hbm k 0) R.HBM_RATE_CUR ∧ Keeps [Pg.hbm k 0] b (b.rateTake k r) ∧
      (r ≠ b.rd (Pg.hbm k 0) R.HBM_RATE_CUR → b.rd (Pg.hbm k 0) R.HBM_STEP_BUSY = 0 → (b.rateTake k r).rd (Pg.hbm k 0) R.HBM_STEP_BUSY = 1 ∧
        Sp.get 16 (b.rateTake k r).hbm.target k = r ∧
        ∀ i < 4, (b.rateTake k r).rd (Pg.hbm k 0) R.HBM_TIMS i = b.ent (Tbl.timing k) r / 2 ^ (32 * i) % 2 ^ 32)) := by
  have hp := hbm_page (k := k) (n := 0) (by decide)
  have hm : Pg.hbm k 0 ∈ [Pg.hbm k 0] := List.mem_singleton_self _
  refine ⟨fun h => ?_, fun h => ?_⟩
  · rw [rateTake, if_pos (by simp [h])]
    exact ⟨fire_pend _ (by decide) hp.1, rd_fire_field hp (by decide) (by decide), (Keeps.refl b).fire (by decide) hp.1 hm⟩
  · rw [rateTake, if_neg (by simp [h])]
    generalize hd : b.hwr k R.HBM_RATE_REQ r = d
    have hreq : d.rd (Pg.hbm k 0) R.HBM_RATE_REQ = r := by rw [← hd, hwr, rd_wr_self]; exact Nat.mod_eq_of_lt hr
    have hoth : ∀ g, apart R.HBM_RATE_REQ g = true → d.rd (Pg.hbm k 0) g = b.rd (Pg.hbm k 0) g := fun g hg => by rw [← hd, hwr, rd_wr_apart hg]
    have hok : d.rateOk k r = true := by
      rw [← h, rateOk, hrd, hoth _ (by decide), rateOk, hrd, ← hd, hwr, wr_ent]
    have hk : Keeps [Pg.hbm k 0] b d := hd ▸ (Keeps.refl b).hwr (by decide) hm
    have hent : d.ent (Tbl.timing k) r = b.ent (Tbl.timing k) r := ent_of_tbls hk.tbls _ _
    have hframe := stepBegin_frame (b := d) (k := k)
    refine ⟨(hframe.regs _ (by decide) (by decide) (by decide)).trans hreq, (hframe.regs _ (by decide) (by decide) (by decide)).trans (hoth _ (by decide)),
      hk.trans hframe.keeps, fun hne hb => ?_⟩
    obtain ⟨h1, h2, h3⟩ := stepBegin_spec hreq (fun e => hne (e.trans (hoth _ (by decide)))) ((hoth _ (by decide)).trans hb) hok
    exact ⟨h1, h2, fun i hi => (h3 i hi).trans (by rw [hent])⟩

end

end Body

section
variable {s : State} {k : Nat}

/-- HBM_RATE_REQ written: the store leaves the register as it stands, with the event of an empty envelope where it holds one. -/
theorem exec_hbmRateRequest {m r : Nat} (hk : k < 4) (hr : r < 16) (ht : s.takes m (Pg.hbm k 0 + 0x80)) :
    ∃ c d : Body, Body.Shown (Pg.hbm k 0) 0x80 (PK.hbm0.fieldsAt 0x80) s.dev.body c ∧
      (d = c ∨ d = c.fire (Pg.hbm k 0) R.HBM_EVT_BADCFG) ∧ exec (.hbmRateRequest k m r) s = .next (s.withBody (d.hbmRateRequest k m r)) := by
  have hp := pageIs_hbm0 hk
  obtain ⟨w, hw, hput⟩ := Dev.put_word (i := 0) (f := R.HBM_RATE_REQ) r ht hp (by decide) (by decide) (by decide) (by unfold Pg.hbm Pg.boot; omega)
    (by decide) rfl (by decide)
  have hof : R.HBM_RATE_REQ.of w = r := (hw (R.HBM_RATE_REQ, 0, 0) (by decide)).trans ((Body.putVal_self ..).trans (Nat.mod_eq_of_lt hr))
  have hstack : (Pg.hbm k 0 + 0x80) / 0x40000 % 4 = k := by unfold Pg.hbm; omega
  have hrate : (fieldAt (Pg.hbm k 0 + 0x80) R.HBM_RATE_REQ).isSome = true := by
    rw [hp.fieldAt (by decide) (by decide)]
    rfl
  simp only [Body.pageStore, Body.storeHbm0, hrate, hstack, hof, if_true] at hput
  refine ⟨_, _, s.dev.body.takeBits_put (R.HBM_RATE_REQ :: if decide (R.HBM_ENV_SLOW.of w < R.HBM_ENV_FAST.of w) then [R.HBM_ENV_SLOW, R.HBM_ENV_FAST] else [])
    hp (by decide) (by decide) (by decide) hw (.inl (by simp)), ?_,
    State.live_withBody (by rw [ht.known, decide_eq_true hk, decide_eq_true hr]; rfl) ht.runs hput⟩
  split_ifs
  · exact .inr rfl
  · exact .inl rfl

/-- A register of a stack's page 0 reads as the body has it. -/
theorem State.withBody_hbm {c : Body} (n : Nat) {f : Fld} (i : Nat) (hf : f.lo < 32 := by decide) : (s.withBody c).reg (Pg.hbm k n) f i = c.rd (Pg.hbm k n) f i := by
  refine State.withBody_reg hf ?_
  unfold Fld.addr Pg.hbm
  simp only [notedAt, Bool.or_eq_false_iff, beq_eq_false_iff_ne]
  omega

theorem hbm_ne_gov (k : Nat) : pageOf (R.GOV_MODE_EFF.addr Pg.governor LOOP_POWER 0) ∉ [Pg.hbm k 0] := by
  rw [List.mem_singleton, pageOf_addr (by decide) (by decide)]
  unfold Pg.hbm Pg.governor
  omega

theorem State.withBody_hbmSt {c : Body} : (s.withBody c).dev.body.hbm = c.hbm := by simp

end

end Sys2Proof.Machine

namespace Sys2Proof
open Machine

/-- Settles O36: the request by what stands against it, the stall, and the two ends of a step. -/
theorem pinRateSteps : Obligations.PinRateSteps := by
  unfold Obligations.PinRateSteps
  intro k s hk
  have hp := Body.hbm_page (k := k) (n := 0) (by decide)
  have hok : decide (k < 4) = true := decide_eq_true hk
  refine ⟨fun m r hr16 ht => ?_, fun hr hb hs => ⟨?_, ?_⟩, fun at_ r hr hr16 hst htg => ?_⟩
  · obtain ⟨c, d, hc, hd, he⟩ := exec_hbmRateRequest hk hr16 ht
    have hpk := pageIs_hbm0 hk
    have hm : Pg.hbm k 0 ∈ [Pg.hbm k 0] := List.mem_singleton_self _
    have hkeeps : Body.Keeps [Pg.hbm k 0] s.dev.body d := by
      have h0 := hc.keeps hpk (by decide) hm
      rcases hd with rfl | rfl
      · exact h0
      · exact h0.fire (by decide) hp.1 hm
    have hdc : ∀ (g : Fld) i, g.lo < 32 → 0x80 ≤ g.off → g.off + g.stride * i < 0x1000 → d.rd (Pg.hbm k 0) g i = c.rd (Pg.hbm k 0) g i := fun g i h1 h2 h3 => by
      rcases hd with rfl | rfl
      · rfl
      · exact c.rd_fire_block (by decide) h1 hp.1 h2 (by omega) (by omega) (by omega)
    have hreq : d.rd (Pg.hbm k 0) R.HBM_RATE_REQ = s.reg (Pg.hbm k 0) R.HBM_RATE_REQ :=
      (hdc _ _ (by decide) (by decide) (by decide)).trans (hc.here (R.HBM_RATE_REQ, 0, 0) (by decide))
    have hcur : d.rd (Pg.hbm k 0) R.HBM_RATE_CUR = s.reg (Pg.hbm k 0) R.HBM_RATE_CUR :=
      (hdc _ _ (by decide) (by decide) (by decide)).trans (hc.here (R.HBM_RATE_CUR, 0, 0) (by decide))
    have h84 : ∀ g : Fld, g.lo < 32 → g.off = 0x84 → d.rd (Pg.hbm k 0) g = s.reg (Pg.hbm k 0) g := fun g h1 h2 =>
      (hdc _ _ h1 (by omega) (by omega)).trans (hc.same _ _ _ _ h1 (by rw [Fld.addr_zero]; omega))
    have hown : d.ownerRefuses LOOP_POWER m = s.dev.body.ownerRefuses LOOP_POWER m := by
      unfold Body.ownerRefuses Body.loopAuto
      rw [hkeeps.regs _ _ _ _ (by decide) (by decide) (hbm_ne_gov k)]
    have hrate : d.rateOk k r = s.dev.body.rateOk k r := by
      rw [Body.rateOk, Body.hrd, h84 R.HBM_TRAINED (by decide) rfl, Body.ent_of_tbls hkeeps.tbls]
      rfl
    obtain ⟨hbadcfg, htakes⟩ := Body.rateTake_spec (b := d) (k := k) hr16
    refine ⟨fun ho => ?_, fun ho hbad => ?_, fun ho hgood => ?_⟩
    · refine ⟨_, he, ?_⟩
      rw [Body.hbmRateRequest, if_pos (hown.trans ho), State.withBody_hbm, State.withBody_hbm]
      have hfire : ∀ g : Fld, g.lo < 32 → g.off < 0x1000 → (d.fire Pg.governor R.GOV_EVT_OWNER).rd (Pg.hbm k 0) g = d.rd (Pg.hbm k 0) g := fun g h1 h2 =>
        ((Body.Keeps.refl d).fire (by decide) (by decide) (List.mem_singleton_self _)).hbm0 ⟨h1, by omega⟩
      refine ⟨(State.withBody_evt (by decide) (by decide)).mpr (Body.fire_pend _ (by decide) (by decide)), ?_, ?_⟩
      · rw [hfire _ (by decide) (by decide), hreq]
      · rw [hfire _ (by decide) (by decide), h84 _ (by decide) rfl]
    · obtain ⟨h1, h2, h3⟩ := hbadcfg (hrate.trans hbad)
      refine ⟨_, he, ?_⟩
      rw [Body.hbmRateRequest, if_neg (by rw [hown, ho]; decide), Nat.mod_eq_of_lt hr16, State.withBody_hbm]
      exact ⟨State.withBody_page_evt hp.2 (by decide) h1, h2.trans hreq, State.withBody_keeps (hkeeps.trans h3)⟩
    · obtain ⟨h1, h2, h3, h4⟩ := htakes (hrate.trans hgood)
      refine ⟨_, he, ?_⟩
      rw [Body.hbmRateRequest, if_neg (by rw [hown, ho]; decide), Nat.mod_eq_of_lt hr16, State.withBody_hbm, State.withBody_hbm, State.withBody_hbm,
        State.withBody_hbmSt]
      refine ⟨h1, h2.trans hcur, State.withBody_keeps (hkeeps.trans h3), fun hne hbusy => ?_⟩
      obtain ⟨g1, g2, g3⟩ := h4 (fun e => hne (e.trans hcur)) ((h84 _ (by decide) rfl).trans hbusy)
      refine ⟨g1, g2, fun i hi => ?_⟩
      rw [State.withBody_hbm, g3 i hi, Body.ent_of_tbls hkeeps.tbls]
      rfl
  · obtain ⟨h1, h2, h3, h4⟩ := Body.stepStall_spec hb hs
    refine ⟨_, State.body_withBody hok hr rfl, ?_⟩
    rw [Body.stackStalled, State.withBody_hbmSt]
    exact ⟨h1, h2, h3, State.withBody_keeps h4⟩
  · obtain ⟨h1, h2, h3, h4, h5⟩ := Body.stepFail_spec hb hs
    refine ⟨_, State.body_withBody hok hr rfl, ?_⟩
    rw [State.withBody_hbm, State.withBody_hbm, State.withBody_hbmSt]
    exact ⟨h1, State.withBody_page_evt hp.2 (by decide) h2, h3, State.withBody_keeps h4, h5⟩
  · obtain ⟨h1, h2, h3, h4, h5, h6, h7, h8⟩ := Body.stepDone_spec hr16 hst htg
    refine ⟨_, State.body_withBody hok hr rfl, ?_⟩
    rw [Body.stackStalled, State.withBody_hbm, State.withBody_hbm, State.withBody_hbm, State.withBody_hbmSt, State.withBody_ctr]
    refine ⟨h1, h2, h3, State.withBody_page_evt hp.2 (by decide) h4, h5, h6, fun i hi => ?_, fun hreq => ⟨(h8 hreq).1, fun i hi => ?_⟩⟩
    · rw [State.withBody_hbm]
      exact h7 i hi
    · rw [State.withBody_hbm]
      exact (h8 hreq).2 i hi

end Sys2Proof
end

section
/-! O37: pattern runs of a stack, its lane settings, its trained rates and its injections (R340, R351, R352). -/

namespace Sys2Proof.Machine

/-- The pages of the stacks on which an access to the Sump tells what it found: pages 1 and 3 (R329, R333). -/
def stackPages : List Nat := (List.range 4).flatMap fun s => [Pg.hbm s 1, Pg.hbm s 3]

theorem mem_stackPages {k n : Nat} (hk : k < 4) (hn : n = 1 ∨ n = 3) : Pg.hbm k n ∈ stackPages :=
  List.mem_flatMap.mpr ⟨k, List.mem_range.mpr hk, by rcases hn with rfl | rfl <;> simp⟩

theorem pageOf_stackPages {a q : Nat} (hq : q ∈ stackPages) (h : pageOf a ∉ stackPages) : q % 0x1000 = 0 ∧ 0xB00000 ≤ q ∧ ∀ x < 0x1000, a ≠ q + x := by
  obtain ⟨s, hs, hm⟩ := List.mem_flatMap.mp hq
  have hs4 := List.mem_range.mp hs
  have hp : q % 0x1000 = 0 ∧ 0xB00000 ≤ q := by
    simp only [List.mem_cons, List.not_mem_nil, or_false] at hm
    rcases hm with rfl | rfl <;> unfold Pg.hbm <;> omega
  refine ⟨hp.1, hp.2, fun x hx e => h ?_⟩
  have : pageOf a = q := by unfold pageOf; omega
  rw [this]
  exact hq

namespace Body

/-- What an access to the Sump keeps: the tables, the clock and every register but those of the stacks' pages 1 and 3. -/
structure StacksTold (b c : Body) : Prop where
  regs : ∀ (q : Nat) (g : Fld) (x y : Nat), g.lo < 32 → notedAt (g.addr q x y) = false → pageOf (g.addr q x y) ∉ stackPages → c.rd q g x y = b.rd q g x y
  tbls : c.tbls = b.tbls

namespace StacksTold
variable {b c d : Body} {p n v : Nat}

theorem refl (b : Body) : StacksTold b b := ⟨fun _ _ _ _ _ _ _ => rfl, rfl⟩

theorem trans (h : StacksTold b c) (h' : StacksTold c d) : StacksTold b d :=
  ⟨fun q g x y h1 h2 h3 => (h'.regs q g x y h1 h2 h3).trans (h.regs q g x y h1 h2 h3), h'.tbls.trans h.tbls⟩

theorem of (hr : c.regs = b.regs) (ht : c.tbls = b.tbls) : StacksTold b c := ⟨fun _ _ _ _ _ _ _ => rd_of_regs hr _ _ _ _, ht⟩

theorem wr {f : Fld} (h : StacksTold b c) (hp : p ∈ stackPages) (hf : f.lo < 32 ∧ f.off < 0x1000) : StacksTold b (c.wr p f v) :=
  h.trans ⟨fun _ _ _ _ hg _ hq => c.rd_wr_ne v hf.1 hg (.inl (by rw [Fld.addr_zero]; exact (pageOf_stackPages hp hq).2.2 _ hf.2)), rfl⟩

theorem count {i m : Nat} (h : StacksTold b c) : StacksTold b (c.count p i m) := h.trans (of rfl rfl)

theorem fire (h : StacksTold b c) (hp : p ∈ stackPages) (hn : n < 32) : StacksTold b (c.fire p n) := by
  refine h.trans ⟨fun q g x y hg hm hq => ?_, by simp⟩
  obtain ⟨-, -, hne⟩ := pageOf_stackPages hp hq
  obtain ⟨h1, h2⟩ := by
    simp only [notedAt, Bool.or_eq_false_iff, beq_eq_false_iff_ne, ne_eq] at hm
    exact hm.1.1.1.1
  exact c.rd_fire hn hg (.inl (hne _ (by decide))) (hne _ (by decide)) h1 h2

theorem fault {x : FltInfo} (h : StacksTold b c) (hp : p ∈ stackPages) (hn : n < 32) : StacksTold b (c.fault p n x) :=
  h.trans ⟨fun _ _ _ _ hg _ hq => c.rd_fault x hn hg (.inl ((pageOf_stackPages hp hq).2.2 _ (by decide))), by simp⟩

theorem foldl {α : Type} {f : Body → α → Body} (h : ∀ c x, StacksTold c (f c x)) (l : List α) (b : Body) : StacksTold b (l.foldl f b) := by
  induction l generalizing b with
  | nil => exact refl b
  | cons x t ih => exact (h b x).trans (ih _)

end StacksTold

section
variable {b : Body}

theorem told_drainUpdate (s pc : Nat) : StacksTold b (b.hbmDrainUpdate s pc) := by
  unfold hbmDrainUpdate
  dsimp only
  split_ifs
  · exact .of rfl rfl
  · exact .refl b
  · exact .count (.of rfl rfl)
  · exact .refl b
  · exact .count (.of rfl rfl)
  · exact .refl b

theorem told_panicUpdate {s : Nat} (hs : s < 4) : StacksTold b (b.hbmPanicUpdate s) := by
  unfold hbmPanicUpdate
  dsimp only
  split_ifs
  · exact .of rfl rfl
  · exact .refl b
  · exact StacksTold.fire (.count (.of rfl rfl)) (mem_stackPages hs (.inl rfl)) (by decide)
  · exact .refl b

/-- A request joins the queue of its stack (R327, R328). -/
theorem told_hbmPut (port : Nat) (wr : Bool) (a : Nat) : StacksTold b (b.hbmPut port wr a) := by
  have hs := b.hbmLoc_lt (a / 64 * 64)
  unfold hbmPut
  dsimp only
  split_ifs
  · exact .of rfl rfl
  · refine StacksTold.trans ?_ (told_panicUpdate hs)
    refine StacksTold.trans ?_ (told_drainUpdate _ _)
    exact .of rfl rfl
  · exact .refl b
  · refine StacksTold.trans ?_ (told_panicUpdate hs)
    refine StacksTold.trans ?_ (told_drainUpdate _ _)
    exact .of rfl rfl

/-- A line is checked as it is read (R333). -/
theorem told_lineError (port a : Nat) : StacksTold b (b.lineError port a) := by
  have hp := mem_stackPages (b.hbmLoc_lt a) (.inr (rfl : 3 = 3))
  unfold lineError
  dsimp only
  split_ifs
  · exact (((((StacksTold.refl b).count.fire hp (by decide)).wr hp (by decide)).wr hp (by decide)).wr hp (by decide)).fault hp (by decide)
  · exact StacksTold.fire (.count (.of rfl rfl)) hp (by decide)
  · exact .refl b

theorem told_lineWritten (port a : Nat) : StacksTold b (b.lineWritten port a) := by
  have h := b.ofSump_lineWritten port a
  refine ⟨fun q g x y hg hn hq => rd_of_regs ?_ _ _ _ _, h.parts.2.2.1⟩
  unfold lineWritten
  dsimp only
  split
  · rfl
  · rfl
  · split_ifs <;> rfl
  · rfl

theorem told_sumpRead (port a n : Nat) : StacksTold b (b.sumpRead port a n).1 :=
  .foldl (fun c _ => (told_hbmPut (b := c) _ _ _).trans (told_lineError _ _)) _ _

theorem told_sumpWrite (port a : Nat) (l : List Byte) : StacksTold b (b.sumpWrite port a l) := by
  unfold sumpWrite
  split_ifs
  · exact .refl b
  · refine StacksTold.trans ?_ (.foldl (fun c _ => (told_hbmPut (b := c) _ _ _).trans (told_lineWritten _ _)) _ _)
    exact .of rfl rfl

theorem sumpRead_mem (port a n : Nat) : (b.sumpRead port a n).1.mem = b.mem :=
  foldl_same Body.mem _ (fun c _ => (lineError_mem _ _ _).trans (hbmPut_mem c _ _ _)) _ _

/-- One line at its address. -/
theorem linesOf_line (x : Nat) : linesOf (x * 64) 64 = [x * 64] := by
  rw [linesOf, if_neg (by decide), show (x * 64 + 64 - 1) / 64 - x * 64 / 64 + 1 = 1 by omega, show x * 64 / 64 = x by omega]
  rfl

/-- A line written past the side records puts its bytes in memory, and no others. -/
theorem sumpWrite_line (port : Nat) {x : Nat} {l : List Byte} (hx : Sump.statBase ≤ x * 64) (hl : l.length = 64) {a : Nat}
    (ha : ¬ (x * 64 ≤ a ∧ a < x * 64 + 64)) : Mem.get (b.sumpWrite port (x * 64) l).mem.sump a = Mem.get b.mem.sump a := by
  unfold sumpWrite
  split_ifs
  · rfl
  · rw [hl, linesOf_line, List.foldl_cons, List.foldl_nil, lineWritten_mem _ _ hx, hbmPut_mem, Mem.get_write, hl, if_neg ha]

end

section
variable {b c : Body} {k : Nat}

/-- A scratch line is a line of the scratch region (R322). -/
theorem scratchLine_line (pc i : Nat) : ∃ x, b.scratchLine k pc i = x * 64 ∧ Sump.statBase ≤ x * 64 := by
  refine ⟨_, rfl, ?_⟩
  unfold Sump.statBase Sump.scratchBase
  omega

theorem scratchLine_congr (h : ∀ j < 7, c.rd Pg.sump R.SUMP_MAP j = b.rd Pg.sump R.SUMP_MAP j) (pc i : Nat) : c.scratchLine k pc i = b.scratchLine k pc i := by
  have hfold : ∀ q : Nat, (List.range 7).foldl (fun v j => v + (popcount (q &&& c.rd Pg.sump R.SUMP_MAP j) 17 % 2) * 2 ^ j) 0 =
      (List.range 7).foldl (fun v j => v + (popcount (q &&& b.rd Pg.sump R.SUMP_MAP j) 17 % 2) * 2 ^ j) 0 := fun q =>
    List.foldl_ext _ _ _ fun v j hj => by rw [h j (List.mem_range.mp hj)]
  simp only [scratchLine, hfold]

/-- The scratch lines written take the pattern; no byte beside them changes (R351). -/
theorem patternWrite_spec (pc n : Nat) : StacksTold b (b.patternWrite k pc n) ∧
    ∀ a, (∀ i < n, ¬ (b.scratchLine k pc i ≤ a ∧ a < b.scratchLine k pc i + 64)) → Mem.get (b.patternWrite k pc n).mem.sump a = Mem.get b.mem.sump a := by
  induction n with
  | zero => exact ⟨.refl b, fun _ _ => rfl⟩
  | succ n ih =>
    obtain ⟨x, hx, hbase⟩ := scratchLine_line (b := b) (k := k) pc n
    refine ⟨ih.1.trans (told_sumpWrite ..), fun a ha => ?_⟩
    have hlast := ha n (Nat.lt_succ_self n)
    rw [hx] at hlast
    rw [patternWrite, hx, sumpWrite_line 7 hbase (length_leBytes ..) hlast]
    exact ih.2 a fun i hi => ha i (hi.trans (Nat.lt_succ_self n))

/-- A run begins: it is busy, and shows no error. -/
def patternBegin (b : Body) (k : Nat) : Body :=
  let b := (b.wr (Pg.hbm k 2) R.HBM_CMP_BUSY 1).wr (Pg.hbm k 2) R.HBM_CMP_ERRS 0
  { b with hbm := { b.hbm with laneErr := Sp.clearRange b.hbm.laneErr (64 * k) (64 * k + 64) } }

theorem patternBegin_rd (p : Nat) (g : Fld) (i : Nat) :
    (b.patternBegin k).rd p g i = ((b.wr (Pg.hbm k 2) R.HBM_CMP_BUSY 1).wr (Pg.hbm k 2) R.HBM_CMP_ERRS 0).rd p g i := rd_of_regs rfl _ _ _ _

theorem patternBegin_rest : (b.patternBegin k).tbls = b.tbls ∧ (b.patternBegin k).mem = b.mem := ⟨rfl, rfl⟩

/-- The lines that a run writes and reads (R351). -/
def patternLines (b : Body) (k : Nat) : Nat := min 524288 (ceilDiv (b.rd (Pg.hbm k 2) R.HBM_PG_BURSTS) 2)

theorem patternLines_le : b.patternLines k ≤ 32768 := by
  have h : b.rd (Pg.hbm k 2) R.HBM_PG_BURSTS < 2 ^ 16 := b.rd_lt (Pg.hbm k 2) R.HBM_PG_BURSTS 0 0
  unfold patternLines ceilDiv
  omega

/-- The scratch region as a run finds it when it reads: with its pattern, where it writes one. -/
def patternSet (b : Body) (k : Nat) : Body :=
  let c := b.patternBegin k
  if c.on (Pg.hbm k 2) R.HBM_PG_WRITE then c.patternWrite k (c.rd (Pg.hbm k 2) R.HBM_PG_PC) (c.patternLines k) else c

theorem hbmPgRun_reads (hm : b.rd (Pg.hbm k 2) R.HBM_PG_MODE < 6) (hb : b.rd (Pg.hbm k 2) R.HBM_CMP_BUSY = 0) :
    StacksTold (b.patternSet k) (b.hbmPgRun k) ∧ (b.hbmPgRun k).mem = (b.patternSet k).mem := by
  have hidle : ¬ (6 ≤ b.rd (Pg.hbm k 2) R.HBM_PG_MODE ∨ b.on (Pg.hbm k 2) R.HBM_CMP_BUSY = true) := by simp [on, hb, hm]
  rw [hbmPgRun, if_neg hidle]
  exact ⟨.foldl (fun c _ => told_sumpRead (b := c) ..) _ _, foldl_same Body.mem _ (fun c _ => sumpRead_mem (b := c) ..) _ _⟩

theorem hbm2_apart {x : Nat} (hx : x < 0x1000) : notedAt (Pg.hbm k 2 + x) = false ∧ pageOf (Pg.hbm k 2 + x) ∉ stackPages := by
  have hp : pageOf (Pg.hbm k 2 + x) = Pg.hbm k 2 := by unfold pageOf Pg.hbm; omega
  refine ⟨?_, fun h => ?_⟩
  · simp only [notedAt, Bool.or_eq_false_iff, beq_eq_false_iff_ne, ne_eq, Pg.hbm]
    omega
  · rw [hp] at h
    obtain ⟨s, -, hm⟩ := List.mem_flatMap.mp h
    simp only [List.mem_cons, List.not_mem_nil, or_false, Pg.hbm] at hm
    omega

/-- A run (R351): busy, without an error yet, and nothing written but scratch lines of its pseudo-channel. -/
theorem hbmPgRun_spec (hm : b.rd (Pg.hbm k 2) R.HBM_PG_MODE < 6) (hb : b.rd (Pg.hbm k 2) R.HBM_CMP_BUSY = 0) :
    let c := b.hbmPgRun k
    c.rd (Pg.hbm k 2) R.HBM_CMP_BUSY = 1 ∧ c.rd (Pg.hbm k 2) R.HBM_CMP_ERRS = 0 ∧ c.tbls = b.tbls ∧
    (b.rd (Pg.hbm k 2) R.HBM_PG_WRITE = 0 → c.mem = b.mem) ∧
    ∀ a, (∀ i < 32768, ¬ (b.scratchLine k (b.rd (Pg.hbm k 2) R.HBM_PG_PC) i ≤ a ∧ a < b.scratchLine k (b.rd (Pg.hbm k 2) R.HBM_PG_PC) i + 64)) →
      Mem.get c.mem.sump a = Mem.get b.mem.sump a := by
  obtain ⟨htold, hmem⟩ := hbmPgRun_reads hm hb
  have hbegin : ∀ (g : Fld), g.off < 0x88 → g.lo < 32 → (b.patternBegin k).rd (Pg.hbm k 2) g = b.rd (Pg.hbm k 2) g := fun g h1 h2 => by
    rw [patternBegin_rd, rd_wr_ne _ _ (by decide) h2 (.inl (by simp only [Fld.addr_zero, R.HBM_CMP_ERRS]; omega)),
      rd_wr_ne _ _ (by decide) h2 (.inl (by simp only [Fld.addr_zero, R.HBM_CMP_BUSY]; omega))]
  have hset : StacksTold (b.patternBegin k) (b.patternSet k) ∧ (b.rd (Pg.hbm k 2) R.HBM_PG_WRITE = 0 → (b.patternSet k).mem = b.mem) ∧
      ∀ a, (∀ i < 32768, ¬ (b.scratchLine k (b.rd (Pg.hbm k 2) R.HBM_PG_PC) i ≤ a ∧ a < b.scratchLine k (b.rd (Pg.hbm k 2) R.HBM_PG_PC) i + 64)) →
        Mem.get (b.patternSet k).mem.sump a = Mem.get b.mem.sump a := by
    have hmap : ∀ j < 7, (b.patternBegin k).rd Pg.sump R.SUMP_MAP j = b.rd Pg.sump R.SUMP_MAP j := fun j hj => by
      have hne : ∀ g : Fld, g.off < 0x1000 → R.SUMP_MAP.addr Pg.sump j 0 ≠ g.addr (Pg.hbm k 2) 0 0 := fun g hg => by
        simp only [Fld.addr, R.SUMP_MAP, Pg.hbm, Pg.sump]
        omega
      rw [patternBegin_rd, rd_wr_ne _ _ (by decide) (by decide) (.inl (hne _ (by decide))), rd_wr_ne _ _ (by decide) (by decide) (.inl (hne _ (by decide)))]
    unfold patternSet
    dsimp only
    split_ifs with hw
    · obtain ⟨h1, h2⟩ := patternWrite_spec (b := b.patternBegin k) (k := k) ((b.patternBegin k).rd (Pg.hbm k 2) R.HBM_PG_PC) ((b.patternBegin k).patternLines k)
      refine ⟨h1, fun h0 => ?_, fun a ha => ?_⟩
      · rw [on, hbegin _ (by decide) (by decide), h0] at hw
        exact absurd hw (by decide)
      · refine (h2 a fun i hi => ?_).trans rfl
        rw [scratchLine_congr hmap, hbegin _ (by decide) (by decide)]
        exact ha i (hi.trans_le patternLines_le)
    · exact ⟨.refl _, fun _ => rfl, fun _ _ => rfl⟩
  have hreg : ∀ g : Fld, g.off < 0x1000 → g.lo < 32 → (b.hbmPgRun k).rd (Pg.hbm k 2) g = (b.patternBegin k).rd (Pg.hbm k 2) g := fun g h1 h2 =>
    (hset.1.trans htold).regs _ _ _ _ h2 (by rw [Fld.addr_zero]; exact (hbm2_apart h1).1) (by rw [Fld.addr_zero]; exact (hbm2_apart h1).2)
  refine ⟨?_, ?_, (hset.1.trans htold).tbls, fun h0 => hmem.trans (hset.2.1 h0), fun a ha => by rw [hmem]; exact hset.2.2 a ha⟩
  · rw [hreg _ (by decide) (by decide), patternBegin_rd, rd_wr_apart (by decide)]
    exact rd_wr_self ..
  · rw [hreg _ (by decide) (by decide), patternBegin_rd]
    exact rd_wr_self ..

theorem hbmPgRun_idle (h : 6 ≤ b.rd (Pg.hbm k 2) R.HBM_PG_MODE ∨ b.rd (Pg.hbm k 2) R.HBM_CMP_BUSY = 1) : b.hbmPgRun k = b := by
  rw [hbmPgRun, if_pos (by simpa [on] using h)]

/-! The end of a run, lane settings, trained rates and injections. -/

/-- Each lane's errors take their place (R351). -/
def laneErrors (k : Nat) (m : List (Nat × Nat)) (l : List (Nat × Nat)) : List (Nat × Nat) :=
  l.foldl (fun (m : List (Nat × Nat)) (x : Nat × Nat) => Sp.set 0 m (64 * k + x.2) (min x.1 0xFFFFFFFF)) m

theorem laneErrors_before (l : List Nat) (n i : Nat) (m : List (Nat × Nat)) (h : i < n) :
    Sp.get 0 (laneErrors k m (l.zipIdx n)) (64 * k + i) = Sp.get 0 m (64 * k + i) := by
  induction l generalizing n m with
  | nil => rfl
  | cons e l ih =>
    rw [List.zipIdx_cons, laneErrors, List.foldl_cons]
    refine (ih (n + 1) _ (by omega)).trans (Sp.get_set_of_ne _ _ _ _ ?_)
    dsimp only
    omega

theorem laneErrors_at (l : List Nat) (n i e : Nat) (m : List (Nat × Nat)) (h : l[i]? = some e) :
    Sp.get 0 (laneErrors k m (l.zipIdx n)) (64 * k + (n + i)) = min e 0xFFFFFFFF := by
  induction l generalizing n i m with
  | nil => simp at h
  | cons x l ih =>
    rw [List.zipIdx_cons, laneErrors, List.foldl_cons]
    cases i with
    | zero =>
      obtain rfl : x = e := by simpa using h
      exact (laneErrors_before l (n + 1) n _ (by omega)).trans (Sp.get_set_self ..)
    | succ i =>
      have := ih (n + 1) i (Sp.set 0 m (64 * k + n) (min x 0xFFFFFFFF)) (by simpa using h)
      rwa [show n + 1 + i = n + (i + 1) by omega] at this

theorem hbmCmpDone_spec {errs : List Nat} (hl : errs.length = 40) (hb : b.rd (Pg.hbm k 2) R.HBM_CMP_BUSY = 1) (hs : b.stackServes k = true) :
    let c := b.hbmCmpDone k errs
    c.rd (Pg.hbm k 2) R.HBM_CMP_BUSY = 0 ∧ c.rd (Pg.hbm k 2) R.HBM_CMP_ERRS = min errs.sum (2 ^ 31 - 1) ∧
    c.rd (Pg.hbm k 2) (evtPend R.HBM_EVT_CMP_DONE) = 1 ∧ Keeps [Pg.hbm k 2] b c ∧
    ∀ i e, errs[i]? = some e → Sp.get 0 c.hbm.laneErr (64 * k + i) = min e (2 ^ 32 - 1) := by
  have hp := hbm_page (k := k) (n := 2) (by decide)
  have hlist : (List.range 40).map (fun i => errs.getD i 0) = errs := List.ext_getElem (by simp [hl]) fun i h1 h2 => by simp [h2]
  have hbusy : ¬ (¬ b.on (Pg.hbm k 2) R.HBM_CMP_BUSY = true ∨ ¬ b.stackServes k = true) := by simp [on, hb, hs]
  intro c
  have hc : c = (((({ b with hbm := { b.hbm with laneErr := laneErrors k b.hbm.laneErr errs.zipIdx } } : Body).wr (Pg.hbm k 2) R.HBM_CMP_BUSY 0).wr (Pg.hbm k 2)
      R.HBM_CMP_ERRS (min errs.sum 0x7FFFFFFF)).fire (Pg.hbm k 2) R.HBM_EVT_CMP_DONE) := by
    show b.hbmCmpDone k errs = _
    unfold hbmCmpDone
    dsimp only
    rw [if_neg hbusy, hlist, ← List.sum_eq_foldl]
    rfl
  clear_value c
  rw [hc]
  generalize hd : ({ b with hbm := { b.hbm with laneErr := laneErrors k b.hbm.laneErr errs.zipIdx } } : Body) = d
  have hkeep : Keeps [Pg.hbm k 2] b d := hd ▸ (Keeps.refl b).of_eq rfl rfl rfl rfl
  have hlane : d.hbm.laneErr = laneErrors k b.hbm.laneErr errs.zipIdx := by rw [← hd]
  have hm : Pg.hbm k 2 ∈ [Pg.hbm k 2] := List.mem_singleton_self _
  refine ⟨?_, ?_, fire_pend _ (by decide) hp.1, ?_, fun i e he => ?_⟩
  · rw [rd_fire_field hp (by decide) (by decide), rd_wr_apart (by decide)]
    exact rd_wr_self ..
  · rw [rd_fire_field hp (by decide) (by decide)]
    refine (rd_wr_self ..).trans (Nat.mod_eq_of_lt ?_)
    have hwidth : R.HBM_CMP_ERRS.width = 31 := rfl
    rw [hwidth]
    omega
  · exact ((hkeep.wrPage hm hp.1 (by decide)).wrPage hm hp.1 (by decide)).fire (by decide) hp.1 hm
  · have h0 := laneErrors_at (k := k) errs 0 i e b.hbm.laneErr he
    rw [Nat.zero_add, ← hlane] at h0
    simpa using h0

/-- The fields of HBM_DLY_SEL take the word's (R351). -/
def delayShown (b : Body) (k v : Nat) : Body :=
  let b := ((b.wr (Pg.hbm k 2) R.HBM_DLY_RATE (bitField v 31 28)).wr (Pg.hbm k 2) R.HBM_DLY_KIND (bitField v 27 25)).wr (Pg.hbm k 2) R.HBM_DLY_PC (bitField v 24 20)
  (b.wr (Pg.hbm k 2) R.HBM_DLY_LANE (bitField v 19 14)).wr (Pg.hbm k 2) R.HBM_DLY_VAL v

theorem delayShown_spec (v : Nat) : let c := b.delayShown k v
    c.rd (Pg.hbm k 2) R.HBM_DLY_RATE = bitField v 31 28 ∧ c.rd (Pg.hbm k 2) R.HBM_DLY_KIND = bitField v 27 25 ∧
    c.rd (Pg.hbm k 2) R.HBM_DLY_PC = bitField v 24 20 ∧ c.rd (Pg.hbm k 2) R.HBM_DLY_LANE = bitField v 19 14 ∧
    c.rd (Pg.hbm k 2) R.HBM_DLY_VAL = v % 1024 ∧ Keeps [Pg.hbm k 2] b c ∧ c.hbm = b.hbm := by
  have hp := hbm_page (k := k) (n := 2) (by decide)
  have hm : Pg.hbm k 2 ∈ [Pg.hbm k 2] := List.mem_singleton_self _
  have hfield : ∀ hi lo, bitField v hi lo % 2 ^ (hi + 1 - lo) = bitField v hi lo := fun hi lo => Nat.mod_mod ..
  unfold delayShown
  refine ⟨?_, ?_, ?_, ?_, rd_wr_self .., ?_, rfl⟩
  · rw [rd_wr_apart (by decide), rd_wr_apart (by decide), rd_wr_apart (by decide), rd_wr_apart (by decide), rd_wr_self]
    exact hfield 31 28
  · rw [rd_wr_apart (by decide), rd_wr_apart (by decide), rd_wr_apart (by decide), rd_wr_self]
    exact hfield 27 25
  · rw [rd_wr_apart (by decide), rd_wr_apart (by decide), rd_wr_self]
    exact hfield 24 20
  · rw [rd_wr_apart (by decide), rd_wr_self]
    exact hfield 19 14
  · exact (((((Keeps.refl b).wrPage hm hp.1 (by decide)).wrPage hm hp.1 (by decide)).wrPage hm hp.1 (by decide)).wrPage hm hp.1 (by decide)).wrPage hm hp.1 (by decide)

/-- HBM_DLY_SEL written with a kind and a lane that there are (R340, R351). -/
theorem hbmDelaySet_takes {v : Nat} (hkind : bitField v 27 25 < 6) (hlane : bitField v 19 14 < 40) :
    let key := delayKey k (bitField v 31 28) (bitField v 24 20) (bitField v 27 25) (bitField v 19 14)
    ∃ m : List (Nat × Nat), b.hbmDelaySet k v = { b.delayShown k v with hbm := { (b.delayShown k v).hbm with delay := m } } ∧
      (bitField v 31 28 < 7 → Sp.get 0 m key = v % 1024) ∧ ∀ x, x ≠ key → Sp.get 0 m x = Sp.get 0 b.hbm.delay x := by
  have hok : ¬ (6 ≤ bitField v 27 25 ∨ 40 ≤ bitField v 19 14) := by omega
  rw [hbmDelaySet, if_neg hok]
  by_cases hr : 7 ≤ bitField v 31 28
  · exact ⟨b.hbm.delay, if_pos hr, fun h => absurd hr (by omega), fun _ _ => rfl⟩
  · exact ⟨_, if_neg hr, fun _ => Sp.get_set_self .., fun x hx => Sp.get_set_of_ne _ _ _ _ hx⟩

/-- HBM_TRN_GO (R351). -/
theorem hbmTrnMark_spec {r x : Nat} (hr : b.rd (Pg.hbm k 2) R.HBM_TRN_RATE = r) (hx : b.rd (Pg.hbm k 2) R.HBM_TRN_VALUE = x) :
    let c := b.hbmTrnMark k
    Keeps [Pg.hbm k 2, Pg.hbm k 0] b c ∧ (r < 7 → bitOn (c.rd (Pg.hbm k 0) R.HBM_TRAINED) r = (x == 1)) ∧
    ∀ j < 7, j ≠ r → bitOn (c.rd (Pg.hbm k 0) R.HBM_TRAINED) j = bitOn (b.rd (Pg.hbm k 0) R.HBM_TRAINED) j := by
  have hx1 : x < 2 := by rw [← hx]; exact b.rd_lt (Pg.hbm k 2) R.HBM_TRN_VALUE 0 0
  intro c
  by_cases h7 : 7 ≤ r
  · have hc : c = b := by
      show b.hbmTrnMark k = b
      rw [hbmTrnMark, hr]
      exact if_pos h7
    rw [hc]
    exact ⟨.refl b, fun h => absurd h7 (by omega), fun _ _ _ => rfl⟩
  · have hc : c = b.hwr k R.HBM_TRAINED (setBitField (b.hrd k R.HBM_TRAINED) r r x) := by
      show b.hbmTrnMark k = _
      rw [hbmTrnMark, hr, hx]
      exact if_neg h7
    have hrd : c.rd (Pg.hbm k 0) R.HBM_TRAINED = setBitField (b.rd (Pg.hbm k 0) R.HBM_TRAINED) r r x % 2 ^ 7 := by
      rw [hc]
      exact rd_wr_self ..
    rw [hrd]
    refine ⟨hc ▸ (Keeps.refl b).hwr (by decide) (by simp), fun hr7 => ?_, fun j hj hjr => ?_⟩
    · rw [bitOn_mod hr7, bitOn_setBitField, if_pos rfl, Nat.mod_eq_of_lt hx1]
    · rw [bitOn_mod hj, bitOn_setBitField, if_neg hjr]

/-- HBM_INJ_GO (R352). -/
theorem hbmEccInject_spec {n x : Nat} (hn : b.rd (Pg.hbm k 3) R.HBM_INJ_KIND = n) (hx : b.rd (Pg.hbm k 3) R.HBM_INJ_PORT = x) :
    let c := b.hbmEccInject k
    Keeps [] b c ∧ (n ≠ 3 → Sp.get 3 c.hbm.arm (8 * k + x) = n) ∧ (n = 3 → c.hbm.arm = b.hbm.arm) := by
  intro c
  by_cases h3 : n = 3
  · have hc : c = b := by
      show b.hbmEccInject k = b
      rw [hbmEccInject, hn]
      exact if_pos h3
    rw [hc]
    exact ⟨.refl b, fun h => absurd h3 h, fun _ => rfl⟩
  · have hc : c = { b with hbm := { b.hbm with arm := Sp.ins b.hbm.arm (8 * k + x) n } } := by
      show b.hbmEccInject k = _
      rw [hbmEccInject, hn, hx]
      exact if_neg h3
    rw [hc]
    exact ⟨(Keeps.refl b).of_eq rfl rfl rfl rfl, fun _ => Sp.get_ins_self .., fun h => absurd h h3⟩

end
end Body

section
variable {s : State} {k m : Nat}

theorem hbm_stack (hk : k < 4) {n x : Nat} (hn : n < 16) (hx : x < 0x1000) : (Pg.hbm k n + x) / 0x40000 % 4 = k := by
  unfold Pg.hbm
  omega

theorem hbm_ne_boot {n : Nat} (hn : n < 15) : Pg.hbm k n ≠ Pg.boot := by
  simp only [Pg.hbm, Pg.boot, ne_eq]
  omega

/-- HBM_PG_GO written (R351). -/
theorem exec_hbmPgRun (hk : k < 4) (ht : s.takes m (Pg.hbm k 2 + 0x80)) :
    ∃ d, Body.Shown (Pg.hbm k 2) 0x80 (PK.hbm2.fieldsAt 0x80) s.dev.body d ∧ exec (.hbmPgRun k m) s = .next (s.withBody (d.hbmPgRun k)) := by
  have hp := pageIs_hbm2 hk
  have hfld : (fieldAt (Pg.hbm k 2 + 0x80) R.HBM_DLY_VAL).isSome = false := by rw [hp.fieldAt (by decide) (by decide)]; rfl
  have hgo : ∀ w, R.HBM_PG_GO.of w = 1 → goes (Pg.hbm k 2 + 0x80) w R.HBM_PG_GO = true := fun w hw => by
    rw [goes, hp.fieldAt (by decide) (by decide), hw]
    rfl
  have htrn : ∀ w, goes (Pg.hbm k 2 + 0x80) w R.HBM_TRN_GO = false := fun w => by
    rw [goes, hp.fieldAt (by decide) (by decide)]
    rfl
  obtain ⟨d, hshown, hput⟩ := Dev.put_go (v := 1) (i := 0) (f := R.HBM_PG_GO) (act := fun b => b.hbmPgRun k) ht hp (by decide) (by decide)
    (by decide) (hbm_ne_boot (by decide)) (by decide) rfl (by decide) fun w _ hw _ => by
      simp only [Body.pageStore, Body.storeHbm2, hfld, hgo w hw, htrn, hbm_stack hk (n := 2) (x := 0x80) (by decide) (by decide), Bool.false_eq_true, if_false, if_true]
  exact ⟨d, hshown, State.live_withBody (by rw [ht.known, decide_eq_true hk]; rfl) ht.runs hput⟩

/-- HBM_TRN_GO written (R351). -/
theorem exec_hbmTrnMark (hk : k < 4) (ht : s.takes m (Pg.hbm k 2 + 0x90)) :
    ∃ d, Body.Shown (Pg.hbm k 2) 0x90 (PK.hbm2.fieldsAt 0x90) s.dev.body d ∧ exec (.hbmTrnMark k m) s = .next (s.withBody (d.hbmTrnMark k)) := by
  have hp := pageIs_hbm2 hk
  have hfld : (fieldAt (Pg.hbm k 2 + 0x90) R.HBM_DLY_VAL).isSome = false := by rw [hp.fieldAt (by decide) (by decide)]; rfl
  have hgo : ∀ w, R.HBM_TRN_GO.of w = 1 → goes (Pg.hbm k 2 + 0x90) w R.HBM_TRN_GO = true := fun w hw => by
    rw [goes, hp.fieldAt (by decide) (by decide), hw]
    rfl
  have hpg : ∀ w, goes (Pg.hbm k 2 + 0x90) w R.HBM_PG_GO = false := fun w => by
    rw [goes, hp.fieldAt (by decide) (by decide)]
    rfl
  obtain ⟨d, hshown, hput⟩ := Dev.put_go (v := 1) (i := 0) (f := R.HBM_TRN_GO) (act := fun b => b.hbmTrnMark k) ht hp (by decide) (by decide)
    (by decide) (hbm_ne_boot (by decide)) (by decide) rfl (by decide) fun w _ hw _ => by
      simp only [Body.pageStore, Body.storeHbm2, hfld, hgo w hw, hpg, hbm_stack hk (n := 2) (x := 0x90) (by decide) (by decide), Bool.false_eq_true, if_false, if_true]
  exact ⟨d, hshown, State.live_withBody (by rw [ht.known, decide_eq_true hk]; rfl) ht.runs hput⟩

/-- HBM_INJ_GO written (R352). -/
theorem exec_hbmEccInject (hk : k < 4) (ht : s.takes m (Pg.hbm k 3 + 0x8C)) :
    ∃ d, Body.Shown (Pg.hbm k 3) 0x8C (PK.hbm3.fieldsAt 0x8C) s.dev.body d ∧ exec (.hbmEccInject k m) s = .next (s.withBody (d.hbmEccInject k)) := by
  have hp := pageIs_hbm3 hk
  obtain ⟨d, hshown, hput⟩ := Dev.put_go (v := 1) (i := 0) (f := R.HBM_INJ_GO) (act := fun b => b.hbmEccInject k) ht hp (by decide) (by decide)
    (by decide) (hbm_ne_boot (by decide)) (by decide) rfl (by decide) fun w _ hw _ => by
      simp only [Body.pageStore, hbm_stack hk (n := 3) (x := 0x8C) (by decide) (by decide)]
      exact Body.takeGo_act _ _ (by rw [hp.fieldAt (by decide) (by decide)]; rfl) hw
  exact ⟨d, hshown, State.live_withBody (by rw [ht.known, decide_eq_true hk]; rfl) ht.runs hput⟩

/-- HBM_DLY_SEL written (R340). -/
theorem exec_hbmDelaySet {v : Nat} (hk : k < 4) (hv : v < 2 ^ 32) (ht : s.takes m (Pg.hbm k 2 + 0x8C)) :
    exec (.hbmDelaySet k v m) s = .next (s.withBody (s.dev.body.hbmDelaySet k v)) := by
  have hp := pageIs_hbm2 hk
  have hfld : (fieldAt (Pg.hbm k 2 + 0x8C) R.HBM_DLY_VAL).isSome = true := by rw [hp.fieldAt (by decide) (by decide)]; rfl
  have hw := Dev.write_store v ht hp (by decide) (by decide) (by decide) (hbm_ne_boot (by decide)) (by decide)
  simp only [Body.pageStore, Body.storeHbm2, hfld, hbm_stack hk (n := 2) (x := 0x8C) (by decide) (by decide), if_true] at hw
  exact State.live_withBody (by rw [ht.known, decide_eq_true hk, decide_eq_true hv]; rfl) ht.runs hw

end

end Sys2Proof.Machine

namespace Sys2Proof
open Machine

/-- Settles O37: each helper by the registers it reads. -/
theorem hbmTrainingHelpers : Obligations.HbmTrainingHelpers := by
  unfold Obligations.HbmTrainingHelpers
  intro k m s hk
  have hp := Body.hbm_page (k := k) (n := 2) (by decide)
  have hm : Pg.hbm k 2 ∈ [Pg.hbm k 2] := List.mem_singleton_self _
  refine ⟨fun ht => ?_, fun errs hr hs hl hb => ?_, fun v hv ht => ⟨fun hkind hlane => ?_, fun hbad => ?_⟩, fun ht => ?_, fun ht => ?_⟩
  · obtain ⟨d, hshown, he⟩ := exec_hbmPgRun hk ht
    have hmode : d.rd (Pg.hbm k 2) R.HBM_PG_MODE = s.reg (Pg.hbm k 2) R.HBM_PG_MODE := hshown.here (R.HBM_PG_MODE, 0, 0) (by decide)
    have hwrite : d.rd (Pg.hbm k 2) R.HBM_PG_WRITE = s.reg (Pg.hbm k 2) R.HBM_PG_WRITE := hshown.here (R.HBM_PG_WRITE, 0, 0) (by decide)
    have hpc : d.rd (Pg.hbm k 2) R.HBM_PG_PC = s.reg (Pg.hbm k 2) R.HBM_PG_PC := hshown.here (R.HBM_PG_PC, 0, 0) (by decide)
    have hcmp : ∀ g : Fld, g.lo < 32 → g.off = 0x88 → d.rd (Pg.hbm k 2) g = s.reg (Pg.hbm k 2) g := fun g h1 h2 =>
      hshown.same _ _ _ _ h1 (by rw [Fld.addr_zero]; omega)
    refine ⟨fun h6 hb => ?_, fun h => ?_⟩
    · obtain ⟨h1, h2, h3, h4, h5⟩ := Body.hbmPgRun_spec (hmode ▸ h6) ((hcmp R.HBM_CMP_BUSY (by decide) rfl).trans hb)
      have hline : ∀ i, d.scratchLine k (s.reg (Pg.hbm k 2) R.HBM_PG_PC) i = s.dev.body.scratchLine k (s.reg (Pg.hbm k 2) R.HBM_PG_PC) i := fun i =>
        Body.scratchLine_congr (fun j hj => hshown.same _ _ _ _ (by decide) (by simp only [Fld.addr, R.SUMP_MAP, Pg.hbm, Pg.sump]; omega)) _ i
      refine ⟨_, he, ?_⟩
      rw [State.withBody_hbm, State.withBody_hbm, State.withBody_mem, (by simp : (s.withBody (d.hbmPgRun k)).dev.body.tbls = (d.hbmPgRun k).tbls)]
      refine ⟨h1, h2, h3.trans (by rw [hshown.only]), fun h0 => (h4 (hwrite.trans h0)).trans (by rw [hshown.only]), fun a ha => ?_⟩
      rw [hpc] at h5
      exact (h5 a fun i hi => by rw [hline]; exact ha i hi).trans (by rw [hshown.only])
    · have hidle := Body.hbmPgRun_idle (b := d) (k := k) (by rw [hmode, hcmp R.HBM_CMP_BUSY (by decide) rfl]; exact h)
      refine ⟨_, he, ?_⟩
      rw [hidle, State.withBody_hbm, State.withBody_hbm]
      exact ⟨hcmp _ (by decide) rfl, hcmp _ (by decide) rfl, State.withBody_keeps (hshown.keeps (pageIs_hbm2 hk) (by decide) hm)⟩
  · obtain ⟨h1, h2, h3, h4, h5⟩ := Body.hbmCmpDone_spec hl hb hs
    refine ⟨_, State.body_withBody (by rw [decide_eq_true hk, hl]; rfl) hr rfl, ?_⟩
    rw [State.withBody_hbm, State.withBody_hbm, State.withBody_hbmSt]
    exact ⟨h1, h2, State.withBody_page_evt hp.2 (by decide) h3, State.withBody_keeps h4, h5⟩
  · obtain ⟨mp, heq, h1, h2⟩ := Body.hbmDelaySet_takes (b := s.dev.body) (k := k) hkind hlane
    obtain ⟨g1, g2, g3, g4, g5, g6, g7⟩ := Body.delayShown_spec (b := s.dev.body) (k := k) v
    refine ⟨_, exec_hbmDelaySet hk hv ht, ?_⟩
    rw [heq, State.withBody_hbm, State.withBody_hbm, State.withBody_hbm, State.withBody_hbm, State.withBody_hbm, State.withBody_hbmSt]
    generalize s.dev.body.delayShown k v = e at g1 g2 g3 g4 g5 g6 g7
    exact ⟨State.withBody_keeps (g6.of_eq rfl rfl rfl rfl), g1, g2, g3, g4, g5, h1, h2⟩
  · refine ⟨_, exec_hbmDelaySet hk hv ht, ?_⟩
    rw [Body.hbmDelaySet, if_pos hbad, State.withBody_hbmSt]
    exact ⟨State.withBody_keeps (.refl _), rfl⟩
  · obtain ⟨d, hshown, he⟩ := exec_hbmTrnMark hk ht
    have htrained : d.rd (Pg.hbm k 0) R.HBM_TRAINED = s.reg (Pg.hbm k 0) R.HBM_TRAINED :=
      hshown.same _ _ _ _ (by decide) (by simp only [Fld.addr_zero, R.HBM_TRAINED, Pg.hbm]; omega)
    obtain ⟨h1, h2, h3⟩ := Body.hbmTrnMark_spec (hshown.here (R.HBM_TRN_RATE, 0, 0) (by decide)) (hshown.here (R.HBM_TRN_VALUE, 0, 0) (by decide))
    refine ⟨_, he, ?_⟩
    rw [State.withBody_hbm]
    exact ⟨State.withBody_keeps ((hshown.keeps (pageIs_hbm2 hk) (by decide) (by simp)).trans h1), h2, fun j hj hjr => by rw [h3 j hj hjr, htrained]⟩
  · obtain ⟨d, hshown, he⟩ := exec_hbmEccInject hk ht
    obtain ⟨h1, h2, h3⟩ := Body.hbmEccInject_spec (hshown.here (R.HBM_INJ_KIND, 0, 0) (by decide)) (hshown.here (R.HBM_INJ_PORT, 0, 0) (by decide))
    refine ⟨_, he, ?_⟩
    rw [State.withBody_hbmSt]
    refine ⟨State.withBody_keeps ((hshown.keeps (pageIs_hbm3 hk) (by decide) (List.mem_singleton_self _)).trans (h1.mono (by simp))), h2, fun h => (h3 h).trans (by rw [hshown.only])⟩

end Sys2Proof
end

section
/-! Which registers and counters the operations on queues, cells and tiers may change: each by the addresses that it touches. -/

namespace Sys2Proof.Machine

namespace Body

/-- What leaves every register and counter alone but at some addresses, and clears no event. A counter stands at its page's address. -/
structure Touch (P : Nat → Nat → Prop) (b c : Body) : Prop where
  regs : ∀ (q : Nat) (g : Fld) (x y : Nat), g.lo < 32 → ¬ P (g.addr q x y) g.lo → c.rd q g x y = b.rd q g x y
  pend : ∀ p n, n < 32 → p % 0x1000 = 0 → b.rd p (evtPend n) = 1 → c.rd p (evtPend n) = 1
  ctrs : ∀ k, ¬ P (k / 0x1000) 0 → Sp.get 0 c.ctrs k = Sp.get 0 b.ctrs k

namespace Touch
variable {P Q : Nat → Nat → Prop} {b c d : Body} {p n v i : Nat}

theorem refl (b : Body) : Touch P b b := ⟨fun _ _ _ _ _ _ => rfl, fun _ _ _ _ h => h, fun _ _ => rfl⟩

theorem trans (h : Touch P b c) (h' : Touch P c d) : Touch P b d where
  regs q g x y hg hq := (h'.regs q g x y hg hq).trans (h.regs q g x y hg hq)
  pend p n hn hp hb := h'.pend p n hn hp (h.pend p n hn hp hb)
  ctrs k hk := (h'.ctrs k hk).trans (h.ctrs k hk)

theorem mono (h : Touch P b c) (hPQ : ∀ a l, P a l → Q a l) : Touch Q b c where
  regs q g x y hg hq := h.regs q g x y hg fun hP => hq (hPQ _ _ hP)
  pend := h.pend
  ctrs k hk := h.ctrs k fun hP => hk (hPQ _ _ hP)

theorem of (h : Touch P b c) (hr : d.regs = c.regs) (hc : d.ctrs = c.ctrs) : Touch P b d :=
  h.trans ⟨fun _ _ _ _ _ _ => rd_of_regs hr _ _ _ _, fun p n _ _ hb => (rd_of_regs hr p (evtPend n) 0 0).trans hb, fun _ _ => by rw [hc]⟩

/-- A counter of a page that is not touched. -/
theorem ctr (h : Touch P b c) (hi : i < 0x1000) (hp : ¬ P p 0) : c.ctr p i = b.ctr p i :=
  h.ctrs _ (by rwa [ctrKey, show (p * 0x1000 + i) / 0x1000 = p by omega])

theorem wr {f : Fld} {x y : Nat} (h : Touch P b c) (hf : f.lo < 32 ∧ f.addr p x y % 0x1000 ≠ 0x20) (hp : P (f.addr p x y) f.lo) :
    Touch P b (c.wr p f v x y) := by
  refine h.trans ⟨fun q g k l hg hq => c.rd_wr_ne v hf.1 hg (or_iff_not_imp_left.mpr fun e el => hq ((not_not.mp e).symm ▸ el.symm ▸ hp)), fun q n hn hq hb => ?_, fun _ _ => rfl⟩
  refine (c.rd_wr_ne v hf.1 (by exact hn) (.inl fun e => hf.2 ?_)).trans hb
  rw [← e, show (evtPend n).addr q 0 0 = q + 0x20 from rfl]
  omega

theorem count {m : Nat} (h : Touch P b c) (hi : i < 0x1000) (hp : P p 0) : Touch P b (c.count p i m) := by
  refine h.trans ⟨fun q g x y _ _ => c.count_rd p i m q g x y, fun q n _ _ hb => (c.count_rd p i m q (evtPend n) 0 0).trans hb, fun k hk => ?_⟩
  refine Sp.get_set_of_ne _ _ _ _ fun e => hk ?_
  rw [e, ctrKey, show (p * 0x1000 + i) / 0x1000 = p by omega]
  exact hp

theorem fire (h : Touch P b c) (hn : n < 32) (hp : p % 0x1000 = 0) (h1 : P (p + 0x20) n) (h2 : ∀ l, P (p + 0x30) l) (h3 : ∀ l, P 0x40A4 l)
    (h4 : ∀ l, P 0x50A4 l) :
    Touch P b (c.fire p n) := by
  refine h.trans ⟨fun q g x y hg hq => ?_, fun q m hm hq hb => c.fire_keeps_pend hm hn hq hp hb, fun _ _ => by simp⟩
  exact c.rd_fire hn hg (or_iff_not_imp_left.mpr fun e el => hq ((not_not.mp e).symm ▸ el.symm ▸ h1)) (fun e => hq (e ▸ h2 _)) (fun e => hq (e ▸ h3 _)) fun e => hq (e ▸ h4 _)

theorem fault {x : FltInfo} (h : Touch P b c) (hn : n < 32) (hp : p % 0x1000 = 0) (h1 : P (p + 0x40) n) : Touch P b (c.fault p n x) := by
  refine h.trans ⟨fun q g k l hg hq => c.rd_fault x hn hg (or_iff_not_imp_left.mpr fun e el => hq ((not_not.mp e).symm ▸ el.symm ▸ h1)), fun q m hm hq hb => ?_, fun _ _ => by simp⟩
  refine (c.rd_fault x hn (by exact hm) (.inl ?_)).trans hb
  rw [show (evtPend m).addr q 0 0 = q + 0x20 from rfl]
  omega

theorem foldl {α : Type} {f : Body → α → Body} (h : ∀ c x, Touch P c (f c x)) (l : List α) (b : Body) : Touch P b (l.foldl f b) := by
  induction l generalizing b with
  | nil => exact refl b
  | cons x t ih => exact (h b x).trans (ih _)

theorem ofOnlyCells (h : Touch P b c) (hd : OnlyCells c d) : Touch P b d := by
  obtain ⟨l, m, rfl⟩ := hd
  exact h.of rfl rfl

end Touch

/-! The Chamber and what its changes entail (R208, R213, R216, R221). -/

/-- What a change of the Chamber may touch: the lanes' fields at bit 0 and counters, the Chamber's pages but its faults, and the events of the ledgers. -/
def chmAddr (a l : Nat) : Prop :=
  a = 0x40A4 ∨ a = 0x50A4 ∨ (0x100000 ≤ a ∧ a < 0x900000 ∧ l = 0) ∨ (Pg.chm ≤ a ∧ a < Pg.chm + 0x4000 ∧ a ≠ Pg.chm + 0x40) ∨ a = Pg.rim + 0x20 ∨ a = Pg.rim + 0x30

/-- What a loss in the tiers may touch besides: the Chamber's faults. -/
def lossAddr (a l : Nat) : Prop := chmAddr a l ∨ a = Pg.chm + 0x40

/-- What an access of a queue to its tiers may touch besides: the pools' pages. -/
def tierAddr (a l : Nat) : Prop := lossAddr a l ∨ 0xF00000 ≤ a

section
variable {P : Nat → Nat → Prop} {b c : Body}

theorem touch_ledOut (l n : Nat) : Touch P b (b.ledOut l n) := .of (.refl b) rfl rfl

theorem touch_setAlloc (n : Nat) (l : List Nat) : Touch P b (b.setAlloc n l) := .of (.refl b) rfl rfl

theorem touch_lose (h : ∀ a l, chmAddr a l → P a l) (l n : Nat) : Touch P b (b.lose l n) := by
  unfold lose
  exact Touch.fire (Touch.of (.refl b) rfl rfl) (by decide) (by decide) (h _ _ (by unfold chmAddr; simp)) (fun _ => h _ _ (by unfold chmAddr; simp))
    (fun _ => h _ _ (.inl rfl)) fun _ => h _ _ (.inr (.inl rfl))

theorem touch_setQueue (q : Nat) (x : Queue) : Touch P b (b.setQueue q x) := Touch.of (.refl b) (by simp) (by simp)

theorem touch_reap (pid q : Nat) : Touch P b (b.reap pid q) := by
  obtain ⟨l, hl⟩ := b.reap_only pid q
  rw [hl]
  exact .of (.refl b) rfl rfl

theorem lanePage {p : Nat} (hp : p < 512) : 0x100000 ≤ Pg.lane p ∧ Pg.lane p + 0x1000 ≤ 0x900000 ∧ Pg.lane p % 0x1000 = 0 := by
  unfold Pg.lane Pg.gallery
  omega

theorem lane_chm {p x : Nat} (hp : p < 512) (hx : x < 0x1000) : chmAddr (Pg.lane p + x) 0 :=
  .inr (.inr (.inl (by have := lanePage hp; omega)))

theorem touch_sendPfc {p : Nat} (hp : p < 512) (v m : Nat) : Touch chmAddr b (b.sendPfc p v m) := by
  unfold sendPfc
  split_ifs
  · exact (Touch.count (Touch.of (.refl b) rfl rfl) (by decide) (lane_chm (x := 0) hp (by decide))).of rfl rfl
  · exact .refl b

theorem touch_xoffUpdate {p : Nat} (hp : p < 512) (again : Bool) : Touch chmAddr b (b.xoffUpdate p again) := by
  have hw : ∀ v, Touch chmAddr b (b.pwr p R.PORT_PFC_XOFF v) := fun v => by
    refine (Touch.refl b).wr ⟨by decide, ?_⟩ ?_
    · have := lanePage hp
      simp only [Fld.addr_zero, R.PORT_PFC_XOFF]
      omega
    · rw [Fld.addr_zero]
      exact lane_chm hp (by decide)
  unfold xoffUpdate
  dsimp only
  split_ifs
  · exact ((hw _).trans (touch_sendPfc hp _ _)).trans (touch_sendPfc hp _ _)
  · exact (hw _).trans (touch_sendPfc hp _ _)
  · exact (hw _).trans (touch_sendPfc hp _ _)
  · exact hw _

theorem touch_chmPfc (p i : Nat) : Touch chmAddr b (b.chmPfc p i) := by
  unfold chmPfc
  dsimp only
  by_cases hp : 512 ≤ p
  · rw [if_pos hp]
    exact .refl b
  · have hlt : p < 512 := Nat.lt_of_not_le hp
    rw [if_neg hp]
    split_ifs
    · refine Touch.trans ?_ (touch_xoffUpdate hlt _)
      exact .of (.refl b) rfl rfl
    · refine Touch.trans ?_ (touch_xoffUpdate hlt _)
      exact .of (.refl b) rfl rfl
    · exact .refl b

/-- A register of the Chamber's page beside its header. -/
theorem chm_block {f : Fld} {l : Nat} (h : 0x80 ≤ f.off ∧ f.off < 0x1000) : f.addr Pg.chm 0 0 % 0x1000 ≠ 0x20 ∧ chmAddr (f.addr Pg.chm 0 0) l := by
  rw [Fld.addr_zero]
  refine ⟨by unfold Pg.chm; omega, .inr (.inr (.inr (.inl (by omega))))⟩

theorem touch_chmRefresh : Touch chmAddr b b.chmRefresh := by
  have hw : ∀ {d : Body} {f : Fld} {v : Nat}, Touch chmAddr b d → f.lo < 32 ∧ 0x80 ≤ f.off ∧ f.off < 0x1000 → Touch chmAddr b (d.wr Pg.chm f v) :=
    fun h hf => h.wr ⟨hf.1, (chm_block (l := 0) hf.2).1⟩ (chm_block hf.2).2
  unfold chmRefresh
  exact hw (hw (hw (hw (hw (hw (.refl b) (by decide)) (by decide)) (by decide)) (by decide)) (by decide)) (by decide)

theorem touch_chmChanged (ks : List (Nat × Nat)) : Touch chmAddr b (b.chmChanged ks) :=
  Touch.trans (.foldl (fun c _ => touch_chmPfc (b := c) _ _) _ _) touch_chmRefresh

theorem chm_page {x l : Nat} (hx : x < 0x1000) (h : x ≠ 0x40) : chmAddr (Pg.chm + x) l := .inr (.inr (.inr (.inl (by omega))))

theorem touch_noteLate (q : Nat) (l : Bool) : Touch chmAddr b (b.noteLate q l) := by
  unfold noteLate
  split_ifs
  · exact Touch.fire ((Touch.refl b).count (by decide) (chm_page (x := 0) (by decide) (by decide))) (by decide) (by decide) (chm_page (by decide) (by decide))
      (fun _ => chm_page (by decide) (by decide)) (fun _ => .inl rfl) fun _ => .inr (.inl rfl)
  · exact .refl b

theorem touch_trimHoles (q : Nat) : Touch P b (b.trimHoles q) := by
  unfold trimHoles
  dsimp only
  split_ifs
  · exact .refl b
  · refine Touch.trans ?_ (.foldl (fun c _ => touch_reap (b := c) _ _) _ _)
    exact ((Touch.refl b).ofOnlyCells (freeCells_only _ _)).trans (touch_setQueue _ _)

theorem touch_tryJoin (q : Nat) : Touch P b (b.tryJoin q) := by
  unfold tryJoin
  dsimp only
  split_ifs
  · exact touch_setQueue _ _
  · exact .refl b

theorem touch_joinQueue (q : Nat) : Touch P b (b.joinQueue q) :=
  (((touch_trimHoles q).trans (touch_tryJoin q)).trans (touch_trimHoles q)).trans (touch_tryJoin q)

theorem touch_settle (q : Nat) (late : Bool) (ks : List (Nat × Nat)) : Touch chmAddr b (b.settle q late ks) :=
  ((touch_joinQueue q).trans (touch_noteLate q late)).trans (touch_chmChanged ks)

/-! Losses and refills of a queue. -/

theorem touch_bookHole (h : ∀ a l, chmAddr a l → P a l) (pid : Nat) : Touch P b (b.bookHole pid) := by
  unfold bookHole
  split
  · exact .refl b
  · split_ifs
    · exact .refl b
    · refine Touch.trans ?_ (touch_lose h _ _)
      exact .of (.refl b) rfl rfl

/-- A counter of a profile stands on the page of the profiles' counters. -/
theorem touch_profCount (h : ∀ a l, chmAddr a l → P a l) {d : Body} (hd : Touch P b d) (q : Nat) {i n : Nat} (hi : i < 16) : Touch P b (d.profCount q i n) := by
  have hq : d.qProf q < 2 ^ 6 := Nat.mod_lt _ (by decide)
  exact hd.count (by omega) (h _ _ (.inr (.inr (.inr (.inl (by decide))))))

theorem touch_losePkt (h : ∀ a l, chmAddr a l → P a l) (q pid : Nat) : Touch P b (b.losePkt q pid) := by
  unfold losePkt
  split
  · exact .refl b
  · split_ifs
    · exact .refl b
    · exact touch_profCount h ((touch_bookHole h pid).count (by decide) (h _ _ (chm_page (x := 0) (by decide) (by decide)))) q (by decide)

theorem touch_unreadable (q : Nat) (far : Bool) (a : Nat) (l : List QCell) (port : Nat) (inj : Bool) : Touch lossAddr b (b.unreadable q far a l port inj) := by
  have hl : ∀ a l, chmAddr a l → lossAddr a l := fun _ _ => .inl
  have hfold : Touch lossAddr b (((l.map (·.pid)).eraseDups).foldl (fun b i => b.losePkt q i) b) := .foldl (fun c _ => touch_losePkt (b := c) hl _ _) _ _
  unfold unreadable
  dsimp only
  split_ifs
  · exact (hfold.count (by decide) (hl _ _ (chm_page (x := 0) (by decide) (by decide)))).fault (by decide) (by decide) (.inr rfl)
  · exact (hfold.count (by decide) (hl _ _ (chm_page (x := 0) (by decide) (by decide)))).fault (by decide) (by decide) (.inr rfl)

theorem touch_refillCells (q : Nat) (l : List QCell) : Touch P b (b.refillCells q l) := by
  unfold refillCells
  exact ((((Touch.refl b).ofOnlyCells (takeCells_only _ _)).ofOnlyCells (chargeCells_only _ _ _))).trans (touch_setQueue _ _)

theorem pool_tier {n x l : Nat} : tierAddr (Pg.pool n + x) l := .inr (by unfold Pg.pool; omega)

theorem touch_minNote (n was now : Nat) : Touch tierAddr b (b.minNote n was now) := by
  unfold minNote
  refine Touch.of (Touch.wr (.refl b) ⟨by decide, ?_⟩ ?_) rfl rfl
  · simp only [Fld.addr_zero, R.POOL_MIN, Pg.pool]
    omega
  · rw [Fld.addr_zero]
    exact pool_tier

theorem touch_poolWr (n : Nat) {f : Fld} {v : Nat} (hf : f.lo < 32 ∧ 0x80 ≤ f.off ∧ f.off < 0x1000) (h : Touch tierAddr b c) :
    Touch tierAddr b (c.wr (Pg.pool n) f v) := by
  refine h.wr ⟨hf.1, ?_⟩ (by rw [Fld.addr_zero]; exact pool_tier)
  simp only [Fld.addr_zero, Pg.pool]
  omega

theorem touch_poolFree (n i m : Nat) : Touch tierAddr b (b.poolFree n i m) := by
  have hp : Pg.pool n % 0x1000 = 0 := by unfold Pg.pool; omega
  have hchm : ∀ a l, chmAddr a l → tierAddr a l := fun _ _ h => .inl (.inl h)
  unfold poolFree
  dsimp only
  split_ifs
  · exact touch_poolWr n (f := R.POOL_BADIDX) (by decide) (.refl b)
  · refine Touch.fault ?_ (by decide) hp pool_tier
    refine Touch.trans ?_ (touch_lose hchm _ _)
    refine touch_poolWr n (by decide) (Touch.trans ?_ (touch_setAlloc _ _))
    exact .of (.refl b) rfl rfl
  · refine Touch.trans ?_ (touch_ledOut _ _)
    refine Touch.trans ?_ (touch_minNote _ _ _)
    exact touch_poolWr n (by decide) (touch_setAlloc _ _)
  · exact Touch.fault (touch_poolWr n (f := R.POOL_DFREE) (by decide) (.refl b)) (by decide) hp pool_tier

theorem touch_spanFree (far : Bool) (n i : Nat) : Touch tierAddr b (b.spanFree far n i) := (touch_poolFree n i _).of rfl rfl

theorem touch_reapHoles (q : Nat) (l : List Nat) :
    Touch P b (l.foldl (fun b i => match b.pkt i with | some p => if p.hole then b.reap i q else b | none => b) b) := by
  refine .foldl (fun c i => ?_) _ _
  split
  · split_ifs
    · exact touch_reap _ _
    · exact .refl c
  · exact .refl c

/-- A piece of a far span that does not come: nothing but the Chamber's and the pools' registers moves (R348). -/
theorem touch_refillFar_fail (q : Nat) (x : Queue) (s : Span) (rest : List Span) : Touch tierAddr b (b.refillFar q x s rest true) := by
  have hchm : ∀ a l, chmAddr a l → tierAddr a l := fun _ _ h => .inl (.inl h)
  have hcount : ∀ d : Body, Touch tierAddr d (d.count Pg.chm FAR_PIECES_RD) := fun d =>
    (Touch.refl d).count (by decide) (hchm _ _ (chm_page (x := 0) (by decide) (by decide)))
  have hlost : ∀ (d : Body) a l, Touch tierAddr d (d.unreadable q true a l s.port (!true)) := fun d a l =>
    (touch_unreadable (b := d) q true a l s.port (!true)).mono fun _ _ h => .inl h
  unfold refillFar
  dsimp only
  refine Touch.trans ?_ ((touch_settle q _ _).mono hchm)
  refine Touch.trans ?_ (touch_reapHoles q _)
  simp only [if_true, Bool.true_or]
  split_ifs
  · refine Touch.trans ?_ (hcount _)
    exact (touch_setQueue q _).trans (touch_spanFree _ _ _)
  · exact (touch_setQueue q _).trans (hcount _)
  · refine Touch.trans (Touch.trans ?_ (hcount _)) (hlost _ _ _)
    exact (touch_setQueue q _).trans (touch_spanFree _ _ _)
  · exact ((touch_setQueue q _).trans (hcount _)).trans (hlost _ _ _)

end
end Body
end Sys2Proof.Machine
end

section
/-! O38: the links of the far ports and their CXL.io accesses (R344, R345, R348, R354, R355). -/

namespace Sys2Proof.Machine

namespace Body

section
variable {b c d : Body} {p : Nat}

theorem far_page {p n : Nat} (hn : n < 16) : Pg.far p n % 0x1000 = 0 ∧ 0x8000 ≤ Pg.far p n := by unfold Pg.far; omega

/-- A loop's action that ends moves nothing but the Governor's page (R30). -/
theorem govEnd_keeps (loop inst : Nat) (hl : loop < 16) : Keeps [Pg.governor] b (b.govEnd loop inst) := by
  have hbusy : ∀ d : Body, Keeps [Pg.governor] d (d.govBusy loop) := fun d => Keeps.gwr (.refl d) (by decide) (by simp only [R.GOV_BUSY]; omega)
  unfold govEnd
  split_ifs
  · refine Keeps.trans ?_ (hbusy _)
    exact (Keeps.refl b).of_eq rfl rfl rfl rfl
  · exact .refl b

/-- A register of a page stands where only the Governor's page changes. -/
theorem Keeps.aside (h : Keeps [Pg.governor] b c) {q : Nat} {g : Fld} (hq : q % 0x1000 = 0 ∧ 0x8000 ≤ q) (hg : g.lo < 32 ∧ g.off < 0x1000) :
    c.rd q g = b.rd q g := by
  refine h.regs _ _ _ _ hg.1 ?_ ?_
  · rw [Fld.addr_zero]
    simp only [notedAt, Bool.or_eq_false_iff, beq_eq_false_iff_ne]
    omega
  · rw [pageOf_addr hq.1 (by omega), List.mem_singleton]
    unfold Pg.governor
    omega

/-- A move of FAR_STATE (R345). -/
theorem farMove_spec {x : Nat} (hx : x < 16) (hne : b.frd p R.FAR_STATE ≠ x) :
    (b.farMove p x).rd (Pg.far p 0) R.FAR_STATE = x ∧ (b.farMove p x).rd (Pg.far p 0) (evtPend R.FAR_EVT_LINK) = 1 ∧
    Keeps [Pg.far p 0, Pg.governor] b (b.farMove p x) ∧
    (∀ g : Fld, apart R.FAR_STATE g = true → g.lo < 32 ∧ 0x80 ≤ g.off ∧ g.off < 0x1000 → (b.farMove p x).rd (Pg.far p 0) g = b.rd (Pg.far p 0) g) ∧
    (b.farMove p x).buf = b.buf := by
  have hp := far_page (p := p) (n := 0) (by decide)
  have hm : Pg.far p 0 ∈ [Pg.far p 0, Pg.governor] := by simp
  rw [farMove, if_neg hne]
  generalize hd : (if x = 5 then b.mark (Mk.farFailed p) else b) = d
  have hdk : Keeps [Pg.far p 0, Pg.governor] b d := by
    rw [← hd]
    split_ifs
    · exact (Keeps.refl b).of_eq rfl rfl rfl rfl
    · exact .refl b
  have hdr : ∀ (q : Nat) (g : Fld), d.rd q g = b.rd q g := fun q g => by rw [← hd]; split_ifs <;> rfl
  have hdb : d.buf = b.buf := by rw [← hd]; split_ifs <;> rfl
  generalize he : (d.wr (Pg.far p 0) R.FAR_STATE x).fire (Pg.far p 0) R.FAR_EVT_LINK = e
  have hend := govEnd_keeps (b := e) LOOP_RETRAIN (0x300 + p) (by decide)
  refine ⟨?_, ?_, ?_, fun g ha hg => ?_, ?_⟩
  · rw [hend.aside hp (by decide), ← he, rd_fire_field hp (by decide) (by decide)]
    exact (rd_wr_self ..).trans (Nat.mod_eq_of_lt hx)
  · rw [hend.aside hp (by decide), ← he, fire_pend _ (by decide) hp.1]
  · refine Keeps.trans ?_ (hend.mono (by simp))
    rw [← he]
    exact (hdk.wrPage hm hp.1 (by decide)).fire (by decide) hp.1 hm
  · rw [hend.aside hp ⟨hg.1, hg.2.2⟩, ← he, rd_fire_field hp (by decide) hg, rd_wr_apart ha, hdr]
  · have hbuf : (e.govEnd LOOP_RETRAIN (0x300 + p)).buf = e.buf := by
      unfold govEnd
      split_ifs <;> rfl
    rw [hbuf, ← he]
    simp [hdb]

/-- A lost link's requests: all that moves is the Chamber's, the pools' and a counter of the port (R348). -/
theorem touch_farLoseRequests : Touch (fun a l => tierAddr a l ∨ a = Pg.far p 0) b (b.farLoseRequests p) := by
  have htier : ∀ a l, tierAddr a l → tierAddr a l ∨ a = Pg.far p 0 := fun _ _ => .inl
  have hread : ∀ (n q : Nat) (d : Body), Touch tierAddr d (d.failReads p q n) := fun n q => by
    induction n with
    | zero => exact fun d => .refl d
    | succ n ih =>
      intro d
      unfold failReads
      dsimp only
      split
      · exact .refl d
      · split_ifs
        · exact (touch_refillFar_fail _ _ _ _).trans (ih _)
        · exact .refl d
  have hmigr : ∀ (q : Nat) (m : Migr) (d : Body), m.port = p → (d.queueOf q).migr = some m →
      Touch (fun a l => tierAddr a l ∨ a = Pg.far p 0) d (d.abandonMigr q) := fun q m d hm hq => by
    unfold abandonMigr
    dsimp only
    rw [hq]
    refine Touch.count (Touch.trans ?_ ((touch_spanFree true m.pool m.buf).mono htier)) (by decide) (by rw [hm]; exact .inr rfl)
    refine Touch.trans ?_ (touch_setQueue q _)
    exact .of (.refl d) rfl rfl
  unfold farLoseRequests
  refine .foldl (fun d q => ?_) _ _
  dsimp only
  refine Touch.trans ?_ ((hread _ _ _).mono htier)
  split
  · rename_i m hm
    split_ifs with hp
    · exact hmigr q m d hp hm
    · exact .refl d
  · exact .refl d

/-- A register or a fault of the port's page, and any event, after a lost link's requests. -/
theorem farLoseRequests_rd {g : Fld} (hp2 : p < 2) (hg : g.lo < 32 ∧ 0 < g.off ∧ g.off < 0x1000) :
    (b.farLoseRequests p).rd (Pg.far p 0) g = b.rd (Pg.far p 0) g := by
  refine touch_farLoseRequests.regs _ _ _ _ hg.1 ?_
  rw [Fld.addr_zero]
  simp only [tierAddr, lossAddr, chmAddr, Pg.far, Pg.chm, Pg.rim]
  omega

/-- What a far port's bring-up leaves: its state moved with the event, and nothing but its page and the Governor's changed. -/
def FarMoved (p x : Nat) (b c : Body) : Prop :=
  c.rd (Pg.far p 0) R.FAR_STATE = x ∧ c.rd (Pg.far p 0) (evtPend R.FAR_EVT_LINK) = 1 ∧ Keeps [Pg.far p 0, Pg.governor] b c

theorem farMoved_of {x : Nat} (hx : x < 16) (h : Keeps [Pg.far p 0, Pg.governor] b d) (hne : d.frd p R.FAR_STATE ≠ x) : FarMoved p x b (d.farMove p x) := by
  obtain ⟨h1, h2, h3, -, -⟩ := farMove_spec hx hne
  exact ⟨h1, h2, h.trans h3⟩

theorem Keeps.fwr {f : Fld} {v : Nat} (h : Keeps [Pg.far p 0, Pg.governor] b c) (hf : f.lo < 32 ∧ f.off < 0x1000) :
    Keeps [Pg.far p 0, Pg.governor] b (c.fwr p f v) :=
  h.wrPage (by simp) (far_page (by decide)).1 hf

theorem farPerstRelease_spec (hst : b.frd p R.FAR_STATE = FAR_OFF) (hen : b.rd (Pg.far p 0) R.FAR_LINK_EN = 1)
    (hpg : b.rd (Pg.far p 0) R.PG_EN = 1) (ht : b.passed (Mk.farOn p) (max 100 (b.rd (Pg.far p 0) R.FAR_PERST_MS) * 1000000) = true) :
    FarMoved p FAR_TRAINING b (b.farPerstRelease p) := by
  rw [farPerstRelease, if_pos ⟨by simp [on, hpg], hen, hst, ht⟩]
  exact farMoved_of (by decide) (.refl b) (by rw [hst]; decide)

theorem farLinkTrained_spec {speed width : Nat} (hs : speed < 4) (hw : width < 64) (hst : b.frd p R.FAR_STATE = FAR_TRAINING) :
    let c := b.farLinkTrained p speed width
    FarMoved p FAR_ENUM b c ∧ c.rd (Pg.far p 0) R.FAR_SPEED = speed ∧ c.rd (Pg.far p 0) R.FAR_WIDTH = width := by
  have hrd0 : b.rd (Pg.far p 0) R.FAR_STATE = _ := hst
  rw [farLinkTrained, if_pos hst]
  generalize hd : (b.fwr p R.FAR_SPEED speed).fwr p R.FAR_WIDTH width = d
  have hne : d.frd p R.FAR_STATE ≠ FAR_ENUM := by
    rw [← hd, frd, fwr, fwr, rd_wr_apart (by decide), rd_wr_apart (by decide), hrd0]
    decide
  obtain ⟨-, -, -, hrd, -⟩ := farMove_spec (b := d) (p := p) (x := FAR_ENUM) (by decide) hne
  refine ⟨farMoved_of (by decide) (hd ▸ ((Keeps.refl b).fwr (by decide)).fwr (by decide)) hne, ?_, ?_⟩
  · rw [hrd _ (by decide) (by decide), ← hd, fwr, fwr, rd_wr_apart (by decide)]
    exact (rd_wr_self ..).trans (Nat.mod_eq_of_lt hs)
  · rw [hrd _ (by decide) (by decide), ← hd]
    exact (rd_wr_self ..).trans (Nat.mod_eq_of_lt hw)

theorem farEnumDone_spec (gib : Nat) (hst : b.frd p R.FAR_STATE = FAR_ENUM) :
    let c := b.farEnumDone p gib
    FarMoved p FAR_READY b c ∧ c.rd (Pg.far p 0) R.FAR_MEM_SIZE = min gib 2048 ∧
    c.rd (Pg.far p 0) R.FAR_LINK_GEN = (b.rd (Pg.far p 0) R.FAR_LINK_GEN + 1) % 2 ^ 16 ∧ c.rd (Pg.far p 0) R.FAR_ENUM_RC = 0 := by
  have hrd0 : b.rd (Pg.far p 0) R.FAR_STATE = _ := hst
  rw [farEnumDone, if_pos hst]
  generalize hd : ((b.fwr p R.FAR_MEM_SIZE (min gib 2048)).fwr p R.FAR_ENUM_RC 0).fwr p R.FAR_LINK_GEN (b.frd p R.FAR_LINK_GEN + 1) = d
  have hne : d.frd p R.FAR_STATE ≠ FAR_READY := by
    rw [← hd, frd, fwr, fwr, fwr, rd_wr_apart (by decide), rd_wr_apart (by decide), rd_wr_apart (by decide), hrd0]
    decide
  obtain ⟨-, -, -, hrd, -⟩ := farMove_spec (b := d) (p := p) (x := FAR_READY) (by decide) hne
  refine ⟨farMoved_of (by decide) (hd ▸ (((Keeps.refl b).fwr (by decide)).fwr (by decide)).fwr (by decide)) hne, ?_, ?_, ?_⟩
  · rw [hrd _ (by decide) (by decide), ← hd, fwr, fwr, fwr, rd_wr_apart (by decide), rd_wr_apart (by decide)]
    refine (rd_wr_self ..).trans (Nat.mod_eq_of_lt ?_)
    have hwidth : R.FAR_MEM_SIZE.width = 12 := rfl
    rw [hwidth]
    omega
  · rw [hrd _ (by decide) (by decide), ← hd]
    exact rd_wr_self ..
  · rw [hrd _ (by decide) (by decide), ← hd, fwr, rd_wr_apart (by decide)]
    exact rd_wr_self ..

theorem farEnumFail_spec {rc : Nat} (hrc : rc < 16) (hst : b.frd p R.FAR_STATE = FAR_TRAINING ∨ b.frd p R.FAR_STATE = FAR_ENUM) :
    let c := b.farEnumFail p rc
    FarMoved p FAR_FAILED b c ∧ c.rd (Pg.far p 0) R.FAR_ENUM_RC = (if b.frd p R.FAR_STATE = FAR_TRAINING then 4 else rc) ∧
    c.rd (Pg.far p 0) (evtPend R.FAR_EVT_ENUM_FAIL) = 1 := by
  have hp := far_page (p := p) (n := 0) (by decide)
  rw [farEnumFail, if_pos hst]
  generalize hv : (if b.frd p R.FAR_STATE = FAR_TRAINING then 4 else rc) = v
  have hv16 : v < 16 := by rw [← hv]; split_ifs <;> omega
  generalize hd : b.fwr p R.FAR_ENUM_RC v = d
  have hne : d.frd p R.FAR_STATE ≠ FAR_FAILED := by
    rw [← hd, frd, fwr, rd_wr_apart (by decide), ← frd]
    rcases hst with h | h <;> rw [h] <;> decide
  obtain ⟨h1, h2, h3, hrd, -⟩ := farMove_spec (b := d) (p := p) (x := FAR_FAILED) (by decide) hne
  dsimp only
  generalize d.farMove p FAR_FAILED = e at h1 h2 h3 hrd
  refine ⟨⟨?_, fire_keeps_pend _ (by decide) (by decide) hp.1 hp.1 h2, ?_⟩, ?_, fire_pend _ (by decide) hp.1⟩
  · rw [rd_fire_field hp (by decide) (by decide), h1]
  · exact (Keeps.trans (hd ▸ (Keeps.refl b).fwr (f := R.FAR_ENUM_RC) (by decide)) h3).fire (by decide) hp.1 (by simp)
  · rw [rd_fire_field hp (by decide) (by decide), hrd _ (by decide) (by decide), ← hd]
    exact (rd_wr_self ..).trans (Nat.mod_eq_of_lt hv16)

theorem farRetry_spec (hst : b.frd p R.FAR_STATE = FAR_FAILED) (hen : b.rd (Pg.far p 0) R.FAR_LINK_EN = 1)
    (hpg : b.rd (Pg.far p 0) R.PG_EN = 1) (ht : b.passed (Mk.farFailed p) 1000000000 = true) : FarMoved p FAR_TRAINING b (b.farRetry p) := by
  rw [farRetry, if_neg (by simp [ht]), if_pos ⟨hst, hen, by simp [on, hpg]⟩]
  exact farMoved_of (by decide) (.refl b) (by rw [hst]; decide)

theorem farRecovery_spec (hst : b.frd p R.FAR_STATE = FAR_READY) :
    let c := b.farRecovery p
    c.rd (Pg.far p 0) R.FAR_STATE = FAR_RECOVERY_ST ∧ c.rd (Pg.far p 0) (evtPend R.FAR_EVT_LINK) = 1 ∧
    c.ctr (Pg.far p 0) FAR_RECOVERY = (b.ctr (Pg.far p 0) FAR_RECOVERY + 1) % 2 ^ 64 ∧ c.buf = b.buf ∧ c.mem = b.mem := by
  obtain ⟨h1, h2, h3, -, h5⟩ := farMove_spec (b := b) (p := p) (x := FAR_RECOVERY_ST) (by decide) (by rw [hst]; decide)
  rw [farRecovery, if_pos hst]
  refine ⟨?_, ?_, ?_, h5, h3.mem⟩
  · rw [count_rd, h1]
  · rw [count_rd, h2]
  · rw [ctr_count_same, ctr_of_ctrs h3.ctrs]

theorem farRecoveryExit_spec (hst : b.frd p R.FAR_STATE = FAR_RECOVERY_ST) : FarMoved p FAR_READY b (b.farRecoveryExit p) := by
  rw [farRecoveryExit, if_pos hst]
  exact farMoved_of (by decide) (.refl b) (by rw [hst]; decide)

/-- The loss of a far link (R345, R348). -/
theorem farLinkDown_spec (hp2 : p < 2) (hst : b.frd p R.FAR_STATE = FAR_READY ∨ b.frd p R.FAR_STATE = FAR_RECOVERY_ST) :
    let c := b.farLinkDown p
    c.rd (Pg.far p 0) R.FAR_STATE = FAR_FAILED ∧ c.rd (Pg.far p 0) (evtPend R.FAR_EVT_LINK) = 1 ∧ c.rd (Pg.far p 0) (fltStat R.FAR_FLT_LINK) = 1 := by
  have hp := far_page (p := p) (n := 0) (by decide)
  have hne : b.frd p R.FAR_STATE ≠ FAR_FAILED := by
    rcases hst with h | h <;> rw [h] <;> decide
  obtain ⟨h1, h2, -, -, -⟩ := farMove_spec (b := b) (p := p) (x := FAR_FAILED) (by decide) hne
  rw [farLinkDown, if_pos hst]
  generalize b.farMove p FAR_FAILED = d at h1 h2
  dsimp only
  generalize he : (d.count (Pg.far p 0) FAR_LINK_DOWN).fault (Pg.far p 0) R.FAR_FLT_LINK { detail := p } = e
  refine ⟨?_, ?_, ?_⟩
  · rw [farLoseRequests_rd hp2 (by decide), ← he, rd_fault_field _ (by decide) (by decide), count_rd, h1]
  · refine touch_farLoseRequests.pend _ _ (by decide) hp.1 ?_
    rw [← he, rd_fault _ _ (by decide) (by decide) (.inl ?_), count_rd, h2]
    rw [Fld.addr_zero]
    simp only [evtPend]
    omega
  · rw [farLoseRequests_rd hp2 (by decide), ← he]
    exact fault_stat ..

theorem farLinkDown_idle (h1 : b.rd (Pg.far p 0) R.FAR_STATE ≠ FAR_READY) (h2 : b.rd (Pg.far p 0) R.FAR_STATE ≠ FAR_RECOVERY_ST) : b.farLinkDown p = b := by
  have hidle : ¬ (b.frd p R.FAR_STATE = FAR_READY ∨ b.frd p R.FAR_STATE = FAR_RECOVERY_ST) := fun h => h.elim h1 h2
  rw [farLinkDown, if_neg hidle]

/-- The flit CRC errors of a port in the millisecond that runs, with one more (R348). -/
def farReplays (b : Body) (p : Nat) : Nat :=
  Sp.get 0 ((Sp.get [] b.far.replays p).filter fun e => decide (b.clk / 1000000 < e.1 + 11)) (b.clk / 1000000) + 1

/-- A flit CRC error (R348). -/
theorem farFlitCrc_spec :
    let c := b.farFlitCrc p
    c.ctr (Pg.far p 0) FAR_REPLAY = (b.ctr (Pg.far p 0) FAR_REPLAY + 1) % 2 ^ 64 ∧
    (b.rd Pg.sump R.RT_CXL_REPLAY < b.farReplays p → c.rd (Pg.far p 0) (evtPend R.FAR_EVT_REPLAY_HI) = 1) ∧
    c.rd (Pg.far p 0) R.FAR_STATE = b.rd (Pg.far p 0) R.FAR_STATE ∧ c.mem = b.mem ∧ c.buf = b.buf := by
  have hp := far_page (p := p) (n := 0) (by decide)
  intro c
  obtain ⟨m, hc⟩ : ∃ m, c = if b.rd Pg.sump R.RT_CXL_REPLAY < b.farReplays p
      then (({ b with far := { b.far with replays := m } } : Body).count (Pg.far p 0) FAR_REPLAY).fire (Pg.far p 0) R.FAR_EVT_REPLAY_HI
      else ({ b with far := { b.far with replays := m } } : Body).count (Pg.far p 0) FAR_REPLAY := ⟨_, rfl⟩
  generalize hd : ({ b with far := { b.far with replays := m } } : Body) = d at hc
  have hr : ∀ (q : Nat) (g : Fld), d.rd q g = b.rd q g := fun q g => by rw [← hd]; rfl
  have hctr : d.ctr (Pg.far p 0) FAR_REPLAY = b.ctr (Pg.far p 0) FAR_REPLAY := ctr_of_ctrs (by rw [← hd]) _ _
  have hmem : d.mem = b.mem ∧ d.buf = b.buf := by rw [← hd]; exact ⟨rfl, rfl⟩
  rw [hc]
  split_ifs with h
  · refine ⟨by rw [fire_ctr, ctr_count_same, hctr], fun _ => fire_pend _ (by decide) hp.1, ?_, ?_, ?_⟩
    · rw [rd_fire_field hp (by decide) (by decide), count_rd, hr]
    · simpa using hmem.1
    · simpa using hmem.2
  · exact ⟨by rw [ctr_count_same, hctr], fun h' => absurd h' h, by rw [count_rd, hr], hmem.1, hmem.2⟩

/-- FAR_INJ_GO (R354). -/
theorem farInject_spec {n : Nat} (hn : b.rd (Pg.far p 0) R.FAR_INJ_KIND = n) :
    let c := b.farInject p
    c.mem = b.mem ∧ (n = 0 → c.ctr (Pg.far p 0) FAR_REPLAY = (b.ctr (Pg.far p 0) FAR_REPLAY + 1) % 2 ^ 64) ∧
    (n = 1 → p ∈ c.far.armPoison) ∧ (n = 2 → p ∈ c.far.armHold) ∧
    (n = 3 → b.rd (Pg.far p 0) R.FAR_STATE = FAR_READY →
      c.rd (Pg.far p 0) R.FAR_STATE = FAR_RECOVERY_ST ∧ c.rd (Pg.far p 0) (evtPend R.FAR_EVT_LINK) = 1) := by
  have h4 : n < 4 := by rw [← hn]; exact b.rd_lt (Pg.far p 0) R.FAR_INJ_KIND 0 0
  rw [farInject, frd, hn]
  match n, h4 with
  | 0, _ =>
    obtain ⟨h1, -, -, h5, -⟩ := farFlitCrc_spec (b := b) (p := p)
    exact ⟨h5, fun _ => h1, fun h => absurd h (by decide), fun h => absurd h (by decide), fun h => absurd h (by decide)⟩
  | 1, _ => exact ⟨rfl, fun h => absurd h (by decide), fun _ => mem_insertNat.mpr (.inl rfl), fun h => absurd h (by decide), fun h => absurd h (by decide)⟩
  | 2, _ => exact ⟨rfl, fun h => absurd h (by decide), fun h => absurd h (by decide), fun _ => mem_insertNat.mpr (.inl rfl), fun h => absurd h (by decide)⟩
  | 3, _ =>
    refine ⟨?_, fun h => absurd h (by decide), fun h => absurd h (by decide), fun h => absurd h (by decide), fun _ hst => ?_⟩
    · by_cases hst : b.frd p R.FAR_STATE = FAR_READY
      · exact (farRecovery_spec hst).2.2.2.2
      · show (b.farRecovery p).mem = b.mem
        rw [farRecovery, if_neg hst]
    · obtain ⟨h1, h2, -⟩ := farRecovery_spec hst
      exact ⟨h1, h2⟩

/-- FAR_IO_GO to a READY port (R355). -/
theorem farIoAccess_goes (hb : b.rd (Pg.far p 1) R.FAR_IO_BUSY = 0) (hs : b.rd (Pg.far p 1) R.FAR_IO_SPACE < 2) (hst : b.frd p R.FAR_STATE = FAR_READY) :
    ∃ wr mem a d be, b.farIoAccess p = (b.wr (Pg.far p 1) R.FAR_IO_BUSY 1).emit (.cxlIo p wr mem a d be) := by
  have hidle : ¬ (b.on (Pg.far p 1) R.FAR_IO_BUSY = true ∨ 2 ≤ b.rd (Pg.far p 1) R.FAR_IO_SPACE) := by simp [on, hb, hs]
  have hready : b.farReady p = true := by rw [farReady, hst]; rfl
  rw [farIoAccess, if_neg hidle, if_neg (by simp [hready])]
  exact ⟨_, _, _, _, _, rfl⟩

theorem farIoAccess_refused (hb : b.rd (Pg.far p 1) R.FAR_IO_BUSY = 0) (hs : b.rd (Pg.far p 1) R.FAR_IO_SPACE < 2) (hst : b.frd p R.FAR_STATE ≠ FAR_READY) :
    b.farIoAccess p = b.wr (Pg.far p 1) R.FAR_IO_RC 4 := by
  have hidle : ¬ (b.on (Pg.far p 1) R.FAR_IO_BUSY = true ∨ 2 ≤ b.rd (Pg.far p 1) R.FAR_IO_SPACE) := by simp [on, hb, hs]
  have hready : b.farReady p = false := by rw [farReady]; exact beq_eq_false_iff_ne.mpr hst
  rw [farIoAccess, if_neg hidle, if_pos (by simp [hready])]

/-- The end of a CXL.io access (R355). -/
theorem farIoDone_spec {rc data : Nat} (hrc : rc < 8) (hdata : data < 2 ^ 32) (hb : b.rd (Pg.far p 1) R.FAR_IO_BUSY = 1) :
    let c := b.farIoDone p rc data
    c.rd (Pg.far p 1) R.FAR_IO_BUSY = 0 ∧ c.rd (Pg.far p 1) R.FAR_IO_RC = rc ∧ Keeps [Pg.far p 1] b c ∧
    c.rd (Pg.far p 1) R.FAR_IO_DATA = if rc = 0 ∧ b.rd (Pg.far p 1) R.FAR_IO_WR = 0 then data else b.rd (Pg.far p 1) R.FAR_IO_DATA := by
  have hp := far_page (p := p) (n := 1) (by decide)
  have hm : Pg.far p 1 ∈ [Pg.far p 1] := List.mem_singleton_self _
  rw [farIoDone, if_neg (by simp [on, hb])]
  generalize hd : (b.wr (Pg.far p 1) R.FAR_IO_BUSY 0).wr (Pg.far p 1) R.FAR_IO_RC rc = d
  have h1 : d.rd (Pg.far p 1) R.FAR_IO_BUSY = 0 := by rw [← hd, rd_wr_apart (by decide)]; exact rd_wr_self ..
  have h2 : d.rd (Pg.far p 1) R.FAR_IO_RC = rc := by rw [← hd]; exact (rd_wr_self ..).trans (Nat.mod_eq_of_lt hrc)
  have h3 : ∀ g : Fld, apart R.FAR_IO_BUSY g = true → apart R.FAR_IO_RC g = true → d.rd (Pg.far p 1) g = b.rd (Pg.far p 1) g := fun g ha hb => by
    rw [← hd, rd_wr_apart hb, rd_wr_apart ha]
  have h4 : Keeps [Pg.far p 1] b d := hd ▸ ((Keeps.refl b).wrPage hm hp.1 (by decide)).wrPage hm hp.1 (by decide)
  have hwr : d.rd (Pg.far p 1) R.FAR_IO_WR = b.rd (Pg.far p 1) R.FAR_IO_WR := h3 _ (by decide) (by decide)
  dsimp only
  rw [hwr]
  split_ifs
  · refine ⟨(rd_wr_apart (by decide)).trans h1, (rd_wr_apart (by decide)).trans h2, h4.wrPage hm hp.1 (by decide), ?_⟩
    exact (rd_wr_self ..).trans (Nat.mod_eq_of_lt hdata)
  · exact ⟨h1, h2, h4, h3 _ (by decide) (by decide)⟩

/-- FAR_LINK_EN set (R344). -/
theorem farLinkEnable_on : Keeps [Pg.far p 0] b (b.farLinkEnable p true) ∧ (b.farLinkEnable p true).rd (Pg.far p 0) R.FAR_LINK_EN = 1 ∧
    (b.farLinkEnable p true).rd (Pg.far p 0) R.FAR_STATE = b.rd (Pg.far p 0) R.FAR_STATE := by
  have hm : Pg.far p 0 ∈ [Pg.far p 0] := List.mem_singleton_self _
  show Keeps [Pg.far p 0] b ((b.mark (Mk.farOn p)).wr (Pg.far p 0) R.FAR_LINK_EN 1) ∧ _
  refine ⟨Keeps.wrPage ?_ hm (far_page (by decide)).1 (by decide), rd_wr_self .., ?_⟩
  · exact (Keeps.refl b).of_eq rfl rfl rfl rfl
  · exact (rd_wr_apart (b := b.mark (Mk.farOn p)) (by decide)).trans rfl

/-- FAR_LINK_EN cleared (R345). -/
theorem farLinkEnable_off (hp2 : p < 2) (hst : b.frd p R.FAR_STATE ≠ FAR_OFF) :
    let c := b.farLinkEnable p false
    c.rd (Pg.far p 0) R.FAR_LINK_EN = 0 ∧ c.rd (Pg.far p 0) R.FAR_STATE = FAR_OFF ∧ c.rd (Pg.far p 0) (evtPend R.FAR_EVT_LINK) = 1 := by
  generalize hd : b.fwr p R.FAR_LINK_EN 0 = d
  have hne : d.frd p R.FAR_STATE ≠ FAR_OFF := by
    rw [← hd, frd, fwr, rd_wr_apart (by decide)]
    exact hst
  obtain ⟨h1, h2, -, h4, -⟩ := farMove_spec (b := d) (p := p) (x := FAR_OFF) (by decide) hne
  have hen : (d.farMove p FAR_OFF).rd (Pg.far p 0) R.FAR_LINK_EN = 0 := by
    rw [h4 _ (by decide) (by decide), ← hd]
    exact rd_wr_self ..
  have hc : b.farLinkEnable p false = if b.frd p R.FAR_STATE = FAR_READY ∨ b.frd p R.FAR_STATE = FAR_RECOVERY_ST then (d.farMove p FAR_OFF).farLoseRequests p
      else d.farMove p FAR_OFF := by
    rw [← hd]
    rfl
  rw [hc]
  generalize d.farMove p FAR_OFF = e at h1 h2 hen
  split_ifs
  · exact ⟨(farLoseRequests_rd hp2 (by decide)).trans hen, (farLoseRequests_rd hp2 (by decide)).trans h1,
      touch_farLoseRequests.pend _ _ (by decide) (far_page (by decide)).1 h2⟩
  · exact ⟨hen, h1, h2⟩

end

end Body

section
variable {s : State} {p m : Nat}

theorem far_port (hp : p < 2) {n x : Nat} (hn : n < 16) (hx : x < 0x1000) : (Pg.far p n + x) / 0x80000 % 2 = p := by
  unfold Pg.far
  omega

theorem far_ne_boot {n : Nat} (hp : p < 2) (hn : n < 16) : Pg.far p n ≠ Pg.boot := by
  simp only [Pg.far, Pg.boot, ne_eq]
  omega

/-- FAR_LINK_EN written with another value than it holds (R344). -/
theorem exec_farLinkEnable {on : Bool} (hp2 : p < 2) (ht : s.takes m (Pg.far p 0 + 0x80)) (hne : s.reg (Pg.far p 0) R.FAR_LINK_EN ≠ b2n on) :
    ∃ d, Body.Shown (Pg.far p 0) 0x80 (PK.far0.fieldsAt 0x80) s.dev.body d ∧
      exec (.farLinkEnable p on m) s = .next (s.withBody (d.farLinkEnable p on)) := by
  have hp := pageIs_far0 hp2
  obtain ⟨w, hw, hput⟩ := Dev.put_word (i := 0) (f := R.FAR_LINK_EN) (b2n on) ht hp (by decide) (by decide) (by decide) (far_ne_boot hp2 (by decide))
    (by decide) rfl (by decide)
  have hof : R.FAR_LINK_EN.of w = b2n on := (hw (R.FAR_LINK_EN, 0, 0) (by decide)).trans ((Body.putVal_self ..).trans (by cases on <;> rfl))
  have hlayout : ([R.FAR_DATA_BASE, R.FAR_DATA_SIZE, R.FAR_SIDE_BASE].any fun f => (fieldAt (Pg.far p 0 + 0x80) f).isSome) = false := by
    simp only [List.any_cons, List.any_nil, hp.fieldAt (off := 0x80) (by decide) (by decide)]
    rfl
  have hen : (fieldAt (Pg.far p 0 + 0x80) R.FAR_LINK_EN).isSome = true := by rw [hp.fieldAt (by decide) (by decide)]; rfl
  have hwas : ¬ b2n on = s.dev.body.frd p R.FAR_LINK_EN := fun h => hne h.symm
  have hon : (b2n on == 1) = on := by cases on <;> rfl
  simp only [Body.pageStore, Body.storeFar0, hlayout, hen, far_port hp2 (n := 0) (x := 0x80) (by decide) (by decide), hof, if_neg hwas, hon, if_true,
    Bool.false_eq_true, if_false] at hput
  exact ⟨_, s.dev.body.takeBits_put [R.FAR_LINK_EN] hp (by decide) (by decide) (by decide) hw (.inl (by simp)),
    State.live_withBody (by rw [ht.known, decide_eq_true hp2]; rfl) ht.runs hput⟩

/-- FAR_INJ_GO written (R354). -/
theorem exec_farInject (hp2 : p < 2) (ht : s.takes m (Pg.far p 0 + 0x9C)) :
    ∃ d, Body.Shown (Pg.far p 0) 0x9C (PK.far0.fieldsAt 0x9C) s.dev.body d ∧ exec (.farInject p m) s = .next (s.withBody (d.farInject p)) := by
  have hp := pageIs_far0 hp2
  have hlayout : ([R.FAR_DATA_BASE, R.FAR_DATA_SIZE, R.FAR_SIDE_BASE].any fun f => (fieldAt (Pg.far p 0 + 0x9C) f).isSome) = false := by
    simp only [List.any_cons, List.any_nil, hp.fieldAt (off := 0x9C) (by decide) (by decide)]
    rfl
  have hen : (fieldAt (Pg.far p 0 + 0x9C) R.FAR_LINK_EN).isSome = false := by rw [hp.fieldAt (by decide) (by decide)]; rfl
  obtain ⟨d, hshown, hput⟩ := Dev.put_go (v := 1) (i := 0) (f := R.FAR_INJ_GO) (act := fun b => b.farInject p) ht hp (by decide) (by decide)
    (by decide) (far_ne_boot hp2 (by decide)) (by decide) rfl (by decide) fun w _ hw _ => by
      simp only [Body.pageStore, Body.storeFar0, hlayout, hen, Bool.false_eq_true, if_false, far_port hp2 (n := 0) (x := 0x9C) (by decide) (by decide)]
      exact Body.takeGo_act _ _ (by rw [hp.fieldAt (by decide) (by decide)]; rfl) hw
  exact ⟨d, hshown, State.live_withBody (by rw [ht.known, decide_eq_true hp2]; rfl) ht.runs hput⟩

/-- FAR_IO_GO written (R355). -/
theorem exec_farIoAccess (hp2 : p < 2) (ht : s.takes m (Pg.far p 1 + 0x8C)) :
    ∃ d, Body.Shown (Pg.far p 1) 0x8C (PK.far1.fieldsAt 0x8C) s.dev.body d ∧ exec (.farIoAccess p m) s = .next (s.withBody (d.farIoAccess p)) := by
  have hp := pageIs_far1 hp2
  obtain ⟨d, hshown, hput⟩ := Dev.put_go (v := 1) (i := 0) (f := R.FAR_IO_GO) (act := fun b => b.farIoAccess p) ht hp (by decide) (by decide)
    (by decide) (far_ne_boot hp2 (by decide)) (by decide) rfl (by decide) fun w _ hw _ => by
      simp only [Body.pageStore, Body.storeFar1, far_port hp2 (n := 1) (x := 0x8C) (by decide) (by decide)]
      exact Body.takeGo_act _ _ (by rw [hp.fieldAt (by decide) (by decide)]; rfl) hw
  exact ⟨d, hshown, State.live_withBody (by rw [ht.known, decide_eq_true hp2]; rfl) ht.runs hput⟩

/-- A register of a far port's page reads as the body has it. -/
theorem State.withBody_far {c : Body} (n : Nat) {f : Fld} (hf : f.lo < 32 := by decide) : (s.withBody c).reg (Pg.far p n) f = c.rd (Pg.far p n) f :=
  State.withBody_page (by unfold Pg.far; omega) hf

/-- A far port's state moved, as the state after the command shows it. -/
theorem State.farMoved {c : Body} {x : Nat} (h1 : c.rd (Pg.far p 0) R.FAR_STATE = x) (h2 : c.rd (Pg.far p 0) (evtPend R.FAR_EVT_LINK) = 1) :
    (s.withBody c).reg (Pg.far p 0) R.FAR_STATE = x ∧ (s.withBody c).evt (Pg.far p 0) R.FAR_EVT_LINK :=
  ⟨(State.withBody_far 0).trans h1, State.withBody_page_evt (Body.far_page (by decide)).2 (by decide) h2⟩

end

end Sys2Proof.Machine

namespace Sys2Proof
open Machine

/-- Settles O38: each command by the state that it finds the port in. -/
theorem farLinks : Obligations.FarLinks := by
  unfold Obligations.FarLinks
  intro p s hp2
  have hpg := Body.far_page (p := p) (n := 0) (by decide)
  have hio := Body.far_page (p := p) (n := 1) (by decide)
  have hok : decide (p < 2) = true := decide_eq_true hp2
  refine ⟨fun m ht => ⟨fun hen => ?_, fun hen hst => ?_⟩, fun hr => ?_, fun m ht => ?_, fun m ht hb hs => ⟨fun hst => ?_, fun hst => ?_⟩, fun rc data hr hrc hdata hb => ?_⟩
  · obtain ⟨d, hshown, he⟩ := exec_farLinkEnable (on := true) hp2 ht (by rw [hen]; decide)
    obtain ⟨h1, h2, h3⟩ := Body.farLinkEnable_on (b := d) (p := p)
    refine ⟨_, he, ?_⟩
    rw [State.withBody_far, State.withBody_far]
    refine ⟨h2, h3.trans ?_, State.withBody_keeps ((hshown.keeps (pageIs_far0 hp2) (by decide) (by simp)).trans h1)⟩
    exact hshown.same _ _ _ _ (by decide) (by simp only [Fld.addr_zero, R.FAR_STATE]; omega)
  · obtain ⟨d, hshown, he⟩ := exec_farLinkEnable (on := false) hp2 ht (by rw [hen]; decide)
    have hsame : d.rd (Pg.far p 0) R.FAR_STATE = s.reg (Pg.far p 0) R.FAR_STATE :=
      hshown.same _ _ _ _ (by decide) (by simp only [Fld.addr_zero, R.FAR_STATE]; omega)
    obtain ⟨h1, h2, h3⟩ := Body.farLinkEnable_off (b := d) hp2 (by rw [Body.frd, hsame]; exact hst)
    exact ⟨_, he, (State.withBody_far 0).trans h1, State.farMoved h2 h3⟩
  · refine ⟨fun hst hen hon ht => ?_, fun hf => ?_, fun speed width hst hs hw => ?_, fun gib hst => ?_, fun rc hrc hst => ?_, fun hst hen hon ht => ?_, fun hf => ?_,
      fun hst => ?_, fun hst => ?_, fun hst => ?_, fun h1 h2 => ?_, ?_⟩
    · obtain ⟨h1, h2, h3⟩ := Body.farPerstRelease_spec hst hen hon ht
      exact ⟨_, State.body_withBody hok hr rfl, State.farMoved h1 h2, State.withBody_keeps h3⟩
    · exact State.body_self hok hr (if_neg fun h => Bool.false_ne_true (hf.symm.trans h.2.2.2))
    · obtain ⟨⟨h1, h2, h3⟩, h4, h5⟩ := Body.farLinkTrained_spec hs hw hst
      refine ⟨_, State.body_withBody (by rw [hok, decide_eq_true (by omega : speed < 16), decide_eq_true (by omega : width < 256)]; rfl) hr rfl, State.farMoved h1 h2, ?_⟩
      rw [State.withBody_far, State.withBody_far]
      exact ⟨h4, h5, State.withBody_keeps h3⟩
    · obtain ⟨⟨h1, h2, h3⟩, h4, h5, h6⟩ := Body.farEnumDone_spec gib hst
      refine ⟨_, State.body_withBody hok hr rfl, State.farMoved h1 h2, ?_⟩
      rw [State.withBody_far, State.withBody_far, State.withBody_far]
      exact ⟨h4, h5, h6, State.withBody_keeps h3⟩
    · obtain ⟨⟨h1, h2, h3⟩, h4, h5⟩ := Body.farEnumFail_spec hrc hst
      refine ⟨_, State.body_withBody (by rw [hok, decide_eq_true hrc]; rfl) hr rfl, State.farMoved h1 h2, ?_⟩
      rw [State.withBody_far]
      exact ⟨h4, State.withBody_page_evt hpg.2 (by decide) h5, State.withBody_keeps h3⟩
    · obtain ⟨h1, h2, h3⟩ := Body.farRetry_spec hst hen hon ht
      exact ⟨_, State.body_withBody hok hr rfl, State.farMoved h1 h2, State.withBody_keeps h3⟩
    · exact State.body_self hok hr (if_pos (by simp [show s.dev.body.passed _ _ = false from hf]))
    · obtain ⟨h1, h2, h3, h4, -⟩ := Body.farRecovery_spec hst
      refine ⟨_, State.body_withBody hok hr rfl, State.farMoved h1 h2, ?_⟩
      rw [State.withBody_ctr, State.withBody_buf]
      exact ⟨h3, h4⟩
    · obtain ⟨h1, h2, h3⟩ := Body.farRecoveryExit_spec hst
      exact ⟨_, State.body_withBody hok hr rfl, State.farMoved h1 h2, State.withBody_keeps h3⟩
    · obtain ⟨h1, h2, h3⟩ := Body.farLinkDown_spec hp2 hst
      exact ⟨_, State.body_withBody hok hr rfl, State.farMoved h1 h2, State.withBody_page_flt hpg.2 (by decide) h3⟩
    · exact State.body_self hok hr (Body.farLinkDown_idle h1 h2)
    · obtain ⟨h1, h2, h3, h4, h5⟩ := Body.farFlitCrc_spec (b := s.dev.body) (p := p)
      refine ⟨_, State.body_withBody hok hr rfl, ?_⟩
      rw [State.withBody_ctr, State.withBody_far, State.withBody_mem, State.withBody_buf]
      exact ⟨h1, fun h => State.withBody_page_evt hpg.2 (by decide) (h2 h), h3, h4, h5⟩
  · obtain ⟨d, hshown, he⟩ := exec_farInject hp2 ht
    have hsame : d.rd (Pg.far p 0) R.FAR_STATE = s.reg (Pg.far p 0) R.FAR_STATE :=
      hshown.same _ _ _ _ (by decide) (by simp only [Fld.addr_zero, R.FAR_STATE]; omega)
    obtain ⟨h1, h2, h3, h4, h5⟩ := Body.farInject_spec (b := d) (p := p) (hshown.here (R.FAR_INJ_KIND, 0, 0) (by decide))
    refine ⟨_, he, ?_⟩
    rw [State.withBody_mem, State.withBody_ctr, (by simp : (s.withBody (d.farInject p)).dev.body.far = (d.farInject p).far)]
    refine ⟨h1.trans (by rw [hshown.only]), fun h => (h2 h).trans ?_, h3, h4, fun h hst => ?_⟩
    · rw [Body.ctr_of_ctrs (by rw [hshown.only] : d.ctrs = s.dev.body.ctrs)]
      rfl
    · obtain ⟨g1, g2⟩ := h5 h (hsame.trans hst)
      exact State.farMoved g1 g2
  · obtain ⟨d, hshown, he⟩ := exec_farIoAccess hp2 ht
    have hspace : d.rd (Pg.far p 1) R.FAR_IO_SPACE = s.reg (Pg.far p 1) R.FAR_IO_SPACE := hshown.here (R.FAR_IO_SPACE, 0, 0) (by decide)
    have hbusy : d.rd (Pg.far p 1) R.FAR_IO_BUSY = s.reg (Pg.far p 1) R.FAR_IO_BUSY :=
      hshown.same _ _ _ _ (by decide) (by simp only [Fld.addr_zero, R.FAR_IO_BUSY]; omega)
    have hsame : d.rd (Pg.far p 0) R.FAR_STATE = s.reg (Pg.far p 0) R.FAR_STATE :=
      hshown.same _ _ _ _ (by decide) (by simp only [Fld.addr_zero, R.FAR_STATE, Pg.far]; omega)
    obtain ⟨wr, mem, a, x, be, hc⟩ := Body.farIoAccess_goes (hbusy.trans hb) (by rw [hspace]; exact hs) (hsame.trans hst)
    refine ⟨_, wr, mem, a, x, be, he, ?_⟩
    rw [hc, State.withBody_far, State.withBody_out, Body.emit_rd, Body.rd_wr_self]
    have hk : Body.Keeps [Pg.far p 1] s.dev.body (d.wr (Pg.far p 1) R.FAR_IO_BUSY 1) :=
      (hshown.keeps (pageIs_far1 hp2) (by decide) (by simp)).wrPage (by simp) hio.1 (by decide)
    refine ⟨rfl, ?_, State.withBody_keeps hk.emit⟩
    have hout : d.out = s.dev.body.out := by rw [hshown.only]
    exact congrArg (· ++ [Out.cxlIo p wr mem a x be]) hout
  · obtain ⟨d, hshown, he⟩ := exec_farIoAccess hp2 ht
    have hspace : d.rd (Pg.far p 1) R.FAR_IO_SPACE = s.reg (Pg.far p 1) R.FAR_IO_SPACE := hshown.here (R.FAR_IO_SPACE, 0, 0) (by decide)
    have hbusy : d.rd (Pg.far p 1) R.FAR_IO_BUSY = s.reg (Pg.far p 1) R.FAR_IO_BUSY :=
      hshown.same _ _ _ _ (by decide) (by simp only [Fld.addr_zero, R.FAR_IO_BUSY]; omega)
    have hsame : d.rd (Pg.far p 0) R.FAR_STATE = s.reg (Pg.far p 0) R.FAR_STATE :=
      hshown.same _ _ _ _ (by decide) (by simp only [Fld.addr_zero, R.FAR_STATE, Pg.far]; omega)
    have hc := Body.farIoAccess_refused (hbusy.trans hb) (by rw [hspace]; exact hs) (by rw [Body.frd, hsame]; exact hst)
    refine ⟨_, he, ?_⟩
    rw [hc, State.withBody_far, State.withBody_far, Body.rd_wr_apart (by decide), Body.rd_wr_self]
    exact ⟨hbusy.trans hb, rfl, State.withBody_keeps ((hshown.keeps (pageIs_far1 hp2) (by decide) (by simp)).wrPage (by simp) hio.1 (by decide))⟩
  · obtain ⟨h1, h2, h3, h4⟩ := Body.farIoDone_spec hrc hdata hb
    refine ⟨_, State.body_withBody (by rw [hok, decide_eq_true (by omega : rc < 16), decide_eq_true hdata]; rfl) hr rfl, ?_⟩
    rw [State.withBody_far, State.withBody_far, State.withBody_far]
    exact ⟨h1, h2, State.withBody_keeps h3, h4⟩

end Sys2Proof
end

section
/-! O51: a reset of the host interface that ends an assembly beyond the last aperture (R52, R420). -/

namespace Sys2Proof
open Machine Tests

/-- An assembly of the host's in a window past the twelve apertures, of which the statement asks only that it lie above the pages. -/
def strayWindow : State := chg ready fun b => { b with win := { b.win with asm := [{ win := 0x1000000 + 0x400000 * 512, owner := Master.host, of := .ent 0 0, words := [] }] } }

/-- What an outcome shows where the drop is counted: 0x84 bytes into the page behind the aperture control page. -/
def nextStrayDrops (o : Host.Outcome State Fault Refusal) : Option Nat :=
  match o with
  | .next t => some (t.reg Pg.aperture R.TBL_AP_DROPS 512)
  | _ => none

theorem strayWindow_reset : nextStrayDrops (exec .hostInterfaceReset strayWindow) = some 1 := by decide +kernel

/-- Refutes O51: a reset of the function counts the drop of an assembly in a window past the apertures behind their counters, in a page that the
statement says no reset of the function changes. -/
theorem not_hostEvents : ¬ Obligations.HostEvents := by
  intro h
  have hruns : strayWindow.dev.runs [3] = true := by decide +kernel
  obtain ⟨hreset, -⟩ := h strayWindow hruns
  have hwin : ∀ w ∈ strayWindow.dev.body.win.asm, w.owner = Master.host → w.win % 0x1000 = 0 ∨ 0x1000000 ≤ w.win := by decide +kernel
  obtain ⟨t, ht, hregs, -⟩ := hreset hwin
  have hpage : pageOf (R.TBL_AP_DROPS.addr Pg.aperture 512 0) = 0xA61000 := by decide +kernel
  have hring : ¬ ∃ n < 240, pageOf (R.TBL_AP_DROPS.addr Pg.aperture 512 0) = Pg.ring n := by
    rintro ⟨n, -, hn⟩
    rw [hpage, Pg.ring] at hn
    omega
  have hsame := (hregs Pg.aperture R.TBL_AP_DROPS 512 0 (by decide) (by decide +kernel)).2.2 hring (by rw [hpage]; decide) (by decide +kernel)
  have hone := strayWindow_reset
  rw [ht, nextStrayDrops, hsame] at hone
  exact absurd hone (by decide +kernel)

end Sys2Proof
end

section
/-! What the links, the buffers and their ledgers leave alone: time, boot and the service ports. -/

namespace Sys2Proof.Machine

/-- What no operation of the links, the buffers or the rings writes. -/
def Body.offside (b : Body) : Nat × Nat × List (Nat × Nat) × CairnSt × WinSt × SvySt × PwrSt × BootSt × SnpSt × SvcSt :=
  (b.clk, b.tod, b.tbls, b.cairn, b.win, b.svy, b.sup, b.boot, b.snp, b.svc)

namespace Body

section
variable (b : Body)

theorem offside_eq {b c : Body} (h : c.offside = b.offside) : c.clk = b.clk ∧ c.tod = b.tod ∧ c.tbls = b.tbls ∧ c.cairn = b.cairn ∧ c.win = b.win ∧
    c.svy = b.svy ∧ c.sup = b.sup ∧ c.boot = b.boot ∧ c.snp = b.snp ∧ c.svc = b.svc := by
  simpa [offside] using h

@[simp] theorem offside_wr (p : Nat) (f : Fld) (v i j : Nat) : (b.wr p f v i j).offside = b.offside := rfl
@[simp] theorem offside_pwr (p : Nat) (f : Fld) (v : Nat) : (b.pwr p f v).offside = b.offside := rfl
@[simp] theorem offside_count (p i n : Nat) : (b.count p i n).offside = b.offside := rfl
@[simp] theorem offside_emit (o : Out) : (b.emit o).offside = b.offside := rfl
@[simp] theorem offside_mark (k : Nat) : (b.mark k).offside = b.offside := rfl
@[simp] theorem offside_ledOut (l n : Nat) : (b.ledOut l n).offside = b.offside := rfl
@[simp] theorem offside_setAlloc (n : Nat) (l : List Nat) : (b.setAlloc n l).offside = b.offside := rfl
@[simp] theorem offside_fire (p n : Nat) : (b.fire p n).offside = b.offside := by simp [offside]
@[simp] theorem offside_fault (p n : Nat) (x : FltInfo) : (b.fault p n x).offside = b.offside := by simp [offside]
@[simp] theorem offside_lose (l n : Nat) : (b.lose l n).offside = b.offside := by simp [offside]
@[simp] theorem offside_sat (p : Nat) (f : Fld) (n i : Nat) : (b.sat p f n i).offside = b.offside := rfl

@[simp] theorem offside_setQueue (q : Nat) (x : Queue) : (b.setQueue q x).offside = b.offside := by
  unfold setQueue; dsimp only; split <;> rfl

@[simp] theorem offside_poolFree (n i m : Nat) : (b.poolFree n i m).offside = b.offside := by
  unfold poolFree
  dsimp only
  split_ifs
  · simp
  · exact (offside_fault _ _ _ _).trans ((offside_lose _ _ _).trans rfl)
  · exact (offside_ledOut _ _ _).trans rfl
  · simp

@[simp] theorem offside_spanFree (far : Bool) (n i : Nat) : (b.spanFree far n i).offside = b.offside := offside_poolFree ..

@[simp] theorem offside_sendPfc (p v q : Nat) : (b.sendPfc p v q).offside = b.offside := by
  unfold sendPfc; split <;> simp

@[simp] theorem offside_xoffUpdate (p : Nat) (r : Bool) : (b.xoffUpdate p r).offside = b.offside := by
  unfold xoffUpdate; dsimp only; split_ifs <;> simp

@[simp] theorem offside_chmPfc (p i : Nat) : (b.chmPfc p i).offside = b.offside := by
  unfold chmPfc
  dsimp only
  split_ifs
  · rfl
  · exact (offside_xoffUpdate _ _ _).trans rfl
  · exact (offside_xoffUpdate _ _ _).trans rfl
  · rfl

@[simp] theorem offside_chmRefresh : b.chmRefresh.offside = b.offside := by unfold chmRefresh; simp

@[simp] theorem offside_chmChanged (ks : List (Nat × Nat)) : (b.chmChanged ks).offside = b.offside := by
  unfold chmChanged chmPfcAll
  exact (offside_chmRefresh _).trans (foldl_same offside _ (fun a x => offside_chmPfc a _ _) _ _)

@[simp] theorem offside_noteLate (q : Nat) (l : Bool) : (b.noteLate q l).offside = b.offside := by unfold noteLate; split_ifs <;> simp

@[simp] theorem offside_reap (pid q : Nat) : (b.reap pid q).offside = b.offside := by unfold reap; split <;> rfl

@[simp] theorem offside_freeCells (l : List Nat) : (b.freeCells l).offside = b.offside :=
  foldl_same offside _ (fun c i => by dsimp only; split_ifs <;> rfl) l b

@[simp] theorem offside_takeCells (l : List Nat) : (b.takeCells l).offside = b.offside :=
  foldl_same offside _ (fun c i => by dsimp only; split_ifs <;> rfl) l b

@[simp] theorem offside_chargeCells (l : List Nat) (k : Cls) : (b.chargeCells l k).offside = b.offside :=
  foldl_same offside _ (fun c i => by dsimp only; split_ifs <;> rfl) l b

@[simp] theorem offside_trimHoles (q : Nat) : (b.trimHoles q).offside = b.offside := by
  unfold trimHoles
  dsimp only
  split
  · rfl
  · exact (foldl_same offside (fun (b : Body) pid => b.reap pid q) (fun a x => offside_reap a _ _) _ _).trans (by simp)

@[simp] theorem offside_tryJoin (q : Nat) : (b.tryJoin q).offside = b.offside := by unfold tryJoin; dsimp only; split <;> simp

@[simp] theorem offside_settle (q : Nat) (late : Bool) (ks : List (Nat × Nat)) : (b.settle q late ks).offside = b.offside := by
  unfold settle joinQueue; simp

@[simp] theorem offside_bookHole (pid : Nat) : (b.bookHole pid).offside = b.offside := by
  unfold bookHole
  split
  · rfl
  · split_ifs
    · rfl
    · exact (offside_lose ..).trans rfl

@[simp] theorem offside_losePkt (q pid : Nat) : (b.losePkt q pid).offside = b.offside := by
  unfold losePkt profCount
  split
  · rfl
  · split_ifs <;> simp

@[simp] theorem offside_unreadable (q : Nat) (far : Bool) (a : Nat) (l : List QCell) (port : Nat) (inj : Bool) :
    (b.unreadable q far a l port inj).offside = b.offside := by
  have hlost : (((l.map (·.pid)).eraseDups).foldl (fun b i => b.losePkt q i) b).offside = b.offside :=
    foldl_same offside _ (fun c i => offside_losePkt c q i) _ _
  unfold unreadable
  dsimp only
  split
  · exact (offside_fault ..).trans hlost
  · exact (offside_fault ..).trans hlost

@[simp] theorem offside_refillCells (q : Nat) (l : List QCell) : (b.refillCells q l).offside = b.offside := by
  unfold refillCells; simp

@[simp] theorem offside_farRead (p a n : Nat) : (b.farRead p a n).1.offside = b.offside := by
  unfold farRead
  dsimp only
  split
  · exact (offside_fault ..).trans rfl
  · rfl

@[simp] theorem offside_refillFar (q : Nat) (x : Queue) (s : Span) (rest : List Span) (fail : Bool) :
    (b.refillFar q x s rest fail).offside = b.offside := by
  have hreap : ∀ (c : Body) (l : List Nat), (l.foldl (fun (b : Body) i => match b.pkt i with
      | some p => if p.hole then b.reap i q else b
      | none => b) c).offside = c.offside := fun c l => foldl_same offside _ (fun d i => by
    split
    · split_ifs <;> simp
    · rfl) _ _
  unfold refillFar
  dsimp only
  refine (offside_settle ..).trans ((hreap _ _).trans ?_)
  split_ifs <;> simp

@[simp] theorem offside_failReads (p q n : Nat) : ∀ b : Body, (b.failReads p q n).offside = b.offside := by
  induction n with
  | zero => exact fun b => rfl
  | succ n ih =>
    intro b
    unfold failReads
    dsimp only
    split
    · rfl
    · split_ifs
      · exact (ih _).trans (offside_refillFar ..)
      · rfl

@[simp] theorem offside_abandonMigr (q : Nat) : (b.abandonMigr q).offside = b.offside := by
  unfold abandonMigr
  dsimp only
  split
  · rfl
  · exact (offside_count ..).trans ((offside_spanFree ..).trans ((offside_setQueue ..).trans rfl))

@[simp] theorem offside_farLoseRequests (p : Nat) : (b.farLoseRequests p).offside = b.offside := by
  refine foldl_same offside _ (fun c q => ?_) _ _
  rw [offside_failReads]
  split
  · split_ifs <;> simp
  · rfl

@[simp] theorem offside_govEnd (loop inst : Nat) : (b.govEnd loop inst).offside = b.offside := by
  unfold govEnd; split <;> rfl

@[simp] theorem offside_farMove (p st : Nat) : (b.farMove p st).offside = b.offside := by
  unfold farMove
  split_ifs <;> simp

@[simp] theorem offside_farLinkDown (p : Nat) : (b.farLinkDown p).offside = b.offside := by
  unfold farLinkDown
  dsimp only
  split_ifs <;> simp

@[simp] theorem offside_synceUpdate : b.synceUpdate.offside = b.offside :=
  foldl_same offside _ (fun c k => by dsimp only; split_ifs <;> simp) _ _

@[simp] theorem offside_pfcEntrance (p : Nat) : (b.pfcEntrance p).offside = b.offside := by
  unfold pfcEntrance
  dsimp only
  rw [offside_xoffUpdate]
  split_ifs <;> rfl

@[simp] theorem offside_entChanged (p : Nat) : (b.entChanged p).offside = b.offside :=
  (offside_pfcEntrance _ _).trans rfl

@[simp] theorem offside_setFifo (p : Nat) (l : List EntFrame) : (b.setFifo p l).offside = b.offside := rfl
@[simp] theorem offside_setRx (p : Nat) (f : Option RxFrame) : (b.setRx p f).offside = b.offside := rfl
@[simp] theorem offside_setVerdict (pid : Nat) (v : Verdict) : (b.setVerdict pid v).offside = b.offside := rfl

@[simp] theorem offside_rxAbort (p : Nat) : (b.rxAbort p).offside = b.offside := by
  unfold rxAbort
  split
  · rfl
  · dsimp only
    split
    · split_ifs <;> simp
    all_goals simp

@[simp] theorem offside_linkLoss (p l : Nat) (sig : Bool) : (b.linkLoss p l sig).offside = b.offside := by
  have htrained : ((b.portLanes p).foldl (fun b x => b.pwr x R.LANE_TRAINED 0) b).offside = b.offside :=
    foldl_same offside (fun (b : Body) x => b.pwr x R.LANE_TRAINED 0) (fun c x => rfl) _ _
  unfold linkLoss
  dsimp only
  split_ifs
  · rfl
  · simp [htrained]
  · simp [htrained]

@[simp] theorem offside_ringStop (n st cause idx : Nat) : (b.ringStop n st cause idx).offside = b.offside := by
  unfold ringStop ringWb
  dsimp only
  split_ifs
  · exact Eq.trans rfl ((offside_fire ..).trans rfl)
  · exact (offside_count ..).trans ((offside_fire ..).trans rfl)

@[simp] theorem offside_hostLinkDown : b.hostLinkDown.offside = b.offside := by
  unfold hostLinkDown
  dsimp only
  split_ifs
  · rw [offside_fault, offside_count]
    refine (foldl_same offside _ (fun c n => ?_) _ _).trans (by simp)
    split_ifs
    · exact Eq.trans rfl (offside_ringStop ..)
    · rfl
  · rfl

theorem offside_linksDown : (Dev.linksDown b).offside = b.offside := by
  have hlost : (((List.range 512).filter fun p => b.portUp p).foldl (fun b p => b.linkLoss p p true) b).offside = b.offside :=
    foldl_same offside _ (fun c p => offside_linkLoss c p p true) _ _
  unfold Dev.linksDown
  simp only [List.foldl_cons, List.foldl_nil, offside_hostLinkDown, offside_farLinkDown, hlost]

end

end Body

end Sys2Proof.Machine
end

section
/-! O58: the I3C mirror and the test access port (R506, R507). -/

namespace Sys2Proof.Machine

namespace Body

/-! A read leaves the clock. -/

section
variable {b : Body}

theorem parityRead_clk (tid idx : Nat) : (b.parityRead tid idx).clk = b.clk := by
  have hexm : ∀ l, (b.exmParity l).clk = b.clk := fun l => foldl_same Body.clk _ (fun c x => by dsimp only; split_ifs <;> simp) l b
  unfold parityRead lpmParity nhParity
  split_ifs
  · exact hexm _
  · exact hexm _
  all_goals simp

theorem pairRead_clk (k : Nat) : (b.pairRead k).1.clk = b.clk := by
  have h := ((b.statCheck k).ofSump_sumpRead 3 (Sump.pairAddr k) 16).parts.1.trans (b.statCheck_clk k)
  unfold pairRead
  dsimp only
  split <;> (rename_i heq; rw [heq] at h; exact h)

theorem polHeal_clk (i : Nat) : (b.polHeal i).clk = b.clk := by
  unfold polHeal mirrored setPol
  dsimp only
  split_ifs <;> simp

theorem entShow_clk (tid idx : Nat) : (b.entShow tid idx).1.clk = b.clk := by
  unfold entShow
  dsimp only
  split_ifs
  · exact (pairRead_clk _).trans (parityRead_clk _ _)
  · exact (polHeal_clk _).trans (parityRead_clk _ _)
  · exact parityRead_clk _ _
  · exact parityRead_clk _ _

theorem shownVal_clk (x : Machine.Shown) : (b.shownVal x).1.clk = b.clk := by
  cases x with
  | ent t i => exact entShow_clk t i
  | sump a =>
    have h := (b.ofSump_sumpRead 5 a 4).parts.1
    simp only [shownVal]
    split_ifs
    · exact h
    · exact h
  | echo pos =>
    have h := (b.ofSump_sumpRead 4 (Sump.echoBase + 256 * pos) 256).parts.1
    simp only [shownVal, echoShow]
    split <;> (rename_i hs; rw [hs] at h; exact h)
  | _ => rfl

theorem winRead_clk (m a : Nat) : (b.winRead m a).1.clk = b.clk := by
  have hnote : (b.noteNotPort a).clk = b.clk := by
    unfold noteNotPort
    dsimp only
    split_ifs <;> simp
  have hshown : ∀ x, ((b.noteNotPort a).shownVal x).1.clk = b.clk := fun x => (shownVal_clk x).trans hnote
  have hsnap : ∀ (c : Body) w x, (c.setSnap w m x).clk = c.clk := fun _ _ _ => rfl
  unfold winRead
  dsimp only
  split_ifs
  · exact hnote
  · exact hnote
  · exact hshown _
  · split
    · exact (hsnap _ _ _).trans hnote
    · exact (hsnap _ _ _).trans (hshown _)
  · split
    · exact hnote
    · exact (hsnap _ _ _).trans (hshown _)

end

end Body

namespace Dev
variable {d : Dev}

theorem readField_clk (m p : Nat) (k : PK) (x : Fld × Nat × Nat) : (d.readField m p k x).1.body.clk = d.body.clk := by
  have hfreq : ∀ i, (d.body.clkFreq i).1.clk = d.body.clk := fun i => by
    unfold Body.clkFreq
    split_ifs
    · rfl
    · split <;> rfl
    · rfl
    · rfl
  unfold readField
  dsimp only
  split_ifs
  · rfl
  · rfl
  · rfl
  · rfl
  · exact hfreq _
  all_goals rfl

theorem readBlock_clk (m a : Nat) (k : PK) : (d.readBlock m a k).1.body.clk = d.body.clk := by
  have hfold : ∀ (e : Dev), (((fieldsOf a).foldl (fun (r : Dev × Nat) x => ((r.1.readField m (pageOf a) k x).1,
      r.2 + (r.1.readField m (pageOf a) k x).2 * 2 ^ x.1.lo)) (e, 0)).1).body.clk = e.body.clk := fun e =>
    foldl_same (fun r : Dev × Nat => r.1.body.clk) (fun (r : Dev × Nat) x => ((r.1.readField m (pageOf a) k x).1,
      r.2 + (r.1.readField m (pageOf a) k x).2 * 2 ^ x.1.lo)) (fun r x => readField_clk (d := r.1) m (pageOf a) k x) (fieldsOf a) (e, 0)
  unfold readBlock
  dsimp only
  split_ifs
  · rfl
  · simp
  · exact hfold _
  · exact hfold _

theorem readHeader_clk (a : Nat) (k : PK) : (d.readHeader a k).1.body.clk = d.body.clk := by
  unfold readHeader
  dsimp only
  split <;> rfl

theorem readAt_clk (m a : Nat) : (d.readAt m a).1.body.clk = d.body.clk := by
  unfold readAt
  dsimp only
  split
  · rfl
  · exact Body.winRead_clk _ _
  · split
    · exact readHeader_clk _ _
    · rfl
  · split
    · exact readBlock_clk _ _ _
    · rfl

/-- Words read over I3C: the clock and what is sticky stand, and each word is four bytes (R506). -/
theorem i3cWords_spec (n : Nat) : ∀ (d : Dev) (a : Nat), (d.i3cWords a n).1.sticky = d.sticky ∧ (d.i3cWords a n).1.body.clk = d.body.clk ∧
    (d.i3cWords a n).2.length = 4 * n := by
  induction n with
  | zero => exact fun d a => ⟨rfl, rfl, rfl⟩
  | succ n ih =>
    intro d a
    unfold i3cWords
    dsimp only
    obtain ⟨h1, h2, h3⟩ := ih (if d.body.boot.bar0 = true ∧ d.body.sup.mode = .running ∨ pageOf a = Pg.lamp then d.readAt Master.bmc a else (d, 0)).1 (a + 4)
    refine ⟨h1.trans ?_, h2.trans ?_, ?_⟩
    · split_ifs
      · exact d.readAt_sticky ..
      · rfl
    · split_ifs
      · exact readAt_clk ..
      · rfl
    · rw [List.length_append, length_leBytes, h3]
      omega

/-- An I3C read in time moves the address behind what it answers (R506). -/
theorem i3cRead_late (hoff : d.body.sup.mode ≠ .off) (h : i3cEarly d.body = false) (n : Nat) :
    (d.i3cRead n).body.svc.addr = (d.body.svc.addr + min n 16) % 2 ^ 32 ∧ (d.i3cRead n).body.svc.rdAt = some d.body.clk ∧
    (d.i3cRead n).body.rdata.length = min n 16 := by
  obtain ⟨-, hclk, hlen⟩ := i3cWords_spec (if min n 16 = 0 then 0 else (d.body.svc.addr + min n 16 - 1) / 4 + 1 - d.body.svc.addr / 4) d (d.body.svc.addr / 4 * 4)
  rw [i3cRead, if_neg hoff, if_neg (by simp [h])]
  refine ⟨rfl, congrArg some hclk, ?_⟩
  simp only [on, List.length_map, slice, List.length_take, List.length_drop, hlen]
  split_ifs with h0
  · omega
  · generalize d.body.svc.addr = a
    omega

/-- An I3C read of the word at its address, in time (R506). -/
theorem i3cRead_word (hoff : d.body.sup.mode ≠ .off) (h : i3cEarly d.body = false) (ha : d.body.svc.addr % 4 = 0) {e : Dev × Nat}
    (he : (if (d.body.boot.bar0 = true ∧ d.body.sup.mode = .running) ∨ pageOf d.body.svc.addr = Pg.lamp then d.readAt Master.bmc d.body.svc.addr else (d, 0)) = e) :
    ∃ svc, (d.i3cRead 4).body = { e.1.body with rdata := (leBytes 4 e.2).map BitVec.toNat, svc := svc } := by
  have hone : (if min 4 16 = 0 then 0 else (d.body.svc.addr + min 4 16 - 1) / 4 + 1 - d.body.svc.addr / 4) = 1 := by
    rw [if_neg (by decide), show min 4 16 = 4 from rfl]
    generalize d.body.svc.addr = a at ha
    omega
  have hwords : d.i3cWords (d.body.svc.addr / 4 * 4) 1 = (e.1, leBytes 4 e.2) := by
    rw [show d.body.svc.addr / 4 * 4 = d.body.svc.addr by omega, ← he]
    exact Prod.ext rfl (List.append_nil _)
  rw [i3cRead, if_neg hoff, if_neg (by simp [h])]
  dsimp only
  rw [hone, hwords, ha]
  exact ⟨_, rfl⟩

/-- IDCODE of some fields. The model's value unfolds to it, and a sum of variables is not evaluated. -/
def idcodeOf (x m y n k : Nat) : Nat := x / 16 % 16 * 2 ^ m + y * 2 ^ n + k

theorem idcodeOf_eq (x m y n k : Nat) : idcodeOf x m y n k = x / 16 % 16 * 2 ^ m + (y * 2 ^ n + k) := Nat.add_assoc ..

theorem idcode_idcodeOf : idcode = idcodeOf Config.pgStep 28 0x1024 12 0xC5B := rfl

theorem idcode_eq : idcode = Config.pgStep / 16 % 16 * 2 ^ 28 + 0x1024C5B := by
  have h : 0x1024 * 2 ^ 12 + 0xC5B = 0x1024C5B := by norm_num
  exact idcode_idcodeOf.trans ((idcodeOf_eq ..).trans (congrArg (_ + ·) h))

/-- A new instruction that takes no pins, or none of a running engine (R507). -/
theorem jtagInstr_quiet (hoff : d.body.sup.mode ≠ .off) (hl : d.body.sup.lampOnly = false) {i : JtagInstr}
    (h : ¬ (i.takesPins = true ∧ d.body.sup.mode = .running)) : d.jtagInstr i =
      { d with body := { d.body with svc := { d.body.svc with instr := i }, rdata := if i = .idcode then [idcode] else d.body.rdata } } := by
  unfold jtagInstr
  rw [if_neg (fun h => h.elim hoff fun h => Bool.noConfusion (hl.symm.trans h))]
  by_cases hi : i = .idcode
  · simp only [hi, if_true, on] at h ⊢
    rw [if_neg h]
  · simp only [hi, if_false, on]
    rw [if_neg h]

/-- One that takes the pins of the running engine (R507). -/
theorem jtagInstr_pins (hl : d.body.sup.lampOnly = false) {i : JtagInstr} (hi : i.takesPins = true) (hr : d.body.sup.mode = .running) :
    d.jtagInstr i = { d with body := { linksDown { d.body with svc := { d.body.svc with instr := i } } with sup := { d.body.sup with testPins := true } } } := by
  have hid : i ≠ .idcode := fun h => by simp [h, JtagInstr.takesPins] at hi
  unfold jtagInstr
  rw [if_neg (fun h => h.elim (by simp [hr]) fun h => Bool.noConfusion (hl.symm.trans h))]
  simp only [hid, if_false, on]
  rw [if_pos ⟨hi, hr⟩]

theorem eq_withBody {d e : Dev} (h : e.sticky = d.sticky) : e = { d with body := e.body } := by
  rw [← h]

end Dev

namespace Body

section
variable {b c : Body} {p : Nat}

/-! The links that an instruction that takes the pins brings down (R507). -/

/-- A port whose link is lost, or was not up: no port's link comes up, and its own is not up where its lanes are there. -/
structure LinkLost (p : Nat) (b c : Body) : Prop where
  en : ∀ k, c.prd k R.PORT_EN = b.prd k R.PORT_EN
  mode : ∀ k, c.prd k R.PORT_MODE = b.prd k R.PORT_MODE
  up : ∀ k, c.prd k R.PORT_LINK_STATE = 4 → b.prd k R.PORT_LINK_STATE = 4
  down : p ∈ b.portLanes p → c.prd p R.PORT_LINK_STATE ≠ 4

theorem linkLoss_lost : LinkLost p b (b.linkLoss p p true) := by
  by_cases h : b.prd p R.PORT_LINK_STATE ≠ 4 ∨ p ∉ b.portLanes p
  · rw [linkLoss, if_pos h]
    exact ⟨fun _ => rfl, fun _ => rfl, fun _ h => h, fun hp => h.resolve_right (not_not.mpr hp)⟩
  · push Not at h
    obtain ⟨h4, hl⟩ := h
    obtain ⟨h1, -, -, -, -, h6⟩ := linkLoss_spec h4 hl true
    have hoff : ∀ g : Fld, g.lo < 32 ∧ g.off < 0x1000 ∧ (g.off ≠ R.PORT_PFC_XOFF.off ∨ g.lo ≠ R.PORT_PFC_XOFF.lo) → offXoff g := fun _ h => h
    refine ⟨fun k => h6 k _ (hoff _ (by decide)) (by decide) (by decide) (by decide) (by decide) (.inl (by decide)),
      fun k => h6 k _ (hoff _ (by decide)) (by decide) (by decide) (by decide) (by decide) (.inl (by decide)), fun k hk => ?_, fun _ => by rw [h1]; decide⟩
    by_cases hkp : k = p
    · rw [hkp]
      exact h4
    · rwa [h6 k _ (hoff _ (by decide)) (by decide) (by decide) (by decide) (by decide) (.inr hkp)] at hk

/-- Each of some ports loses its link. -/
theorem linksLost (l : List Nat) : ∀ b : Body,
    (∀ k, (l.foldl (fun b p => b.linkLoss p p true) b).prd k R.PORT_EN = b.prd k R.PORT_EN) ∧
    (∀ k, (l.foldl (fun b p => b.linkLoss p p true) b).prd k R.PORT_LINK_STATE = 4 → b.prd k R.PORT_LINK_STATE = 4) ∧
    ∀ p ∈ l, p ∈ b.portLanes p → (l.foldl (fun b p => b.linkLoss p p true) b).prd p R.PORT_LINK_STATE ≠ 4 := by
  induction l with
  | nil => exact fun b => ⟨fun _ => rfl, fun _ h => h, fun _ h => absurd h List.not_mem_nil⟩
  | cons q l ih =>
    intro b
    have hq := linkLoss_lost (b := b) (p := q)
    obtain ⟨h1, h2, h3⟩ := ih (b.linkLoss q q true)
    have hlanes : ∀ p, (b.linkLoss q q true).portLanes p = b.portLanes p := fun p => by rw [portLanes, hq.mode, portLanes]
    refine ⟨fun k => (h1 k).trans (hq.en k), fun k hk => hq.up k (h2 k hk), fun p hp hl => ?_⟩
    rcases List.mem_cons.mp hp with rfl | hp
    · exact fun h => hq.down hl (h2 p h)
    · exact h3 p hp (by rw [hlanes]; exact hl)

/-- What a far link that is lost leaves: the registers between the lanes' fields at bit 0 and the far ports. -/
def farAside (a l : Nat) : Prop := notedAt a = false ∧ ¬ tierAddr a l ∧ pageOf a ≠ Pg.governor

theorem farLinkDown_aside {q : Nat} {g : Fld} {x y : Nat} (hg : g.lo < 32) (h : farAside (g.addr q x y) g.lo) (hq : pageOf (g.addr q x y) ≠ Pg.far p 0) :
    (b.farLinkDown p).rd q g x y = b.rd q g x y := by
  obtain ⟨hn, ht, hgov⟩ := h
  have hp := far_page (p := p) (n := 0) (by decide)
  have hne : ∀ z < 0x1000, g.addr q x y ≠ Pg.far p 0 + z := fun z hz e => hq (by rw [e, pageOf]; omega)
  unfold farLinkDown
  dsimp only
  split_ifs with hst
  · have hmove : Keeps [Pg.far p 0, Pg.governor] b (b.farMove p FAR_FAILED) :=
      (farMove_spec (by decide) (by rcases hst with h | h <;> rw [h] <;> decide)).2.2.1
    rw [touch_farLoseRequests.regs _ _ _ _ hg (fun hP => hP.elim ht (hne 0 (by decide))), rd_fault _ _ (by decide) hg (.inl (hne _ (by decide))), count_rd,
      hmove.regs _ _ _ _ hg hn (by simp [hq, hgov])]
  · rfl

/-- What the loss of the host's link may touch: the ring pages and the events of the ICU. -/
def ringAddr (a _l : Nat) : Prop := a = 0x40A4 ∨ a = 0x50A4 ∨ (Pg.ring 0 ≤ a ∧ a < Pg.ring 240)

theorem ring_ringAddr {n x l : Nat} (hn : n < 240) (hx : x < 0x1000) : ringAddr (Pg.ring n + x) l := .inr (.inr (by unfold Pg.ring; omega))

theorem touch_ringStop {n : Nat} (hn : n < 240) (st cause idx : Nat) : Touch ringAddr b (b.ringStop n st cause idx) := by
  have hp := Pg.ring_page n
  have hw : ∀ {d : Body} {f : Fld} {v : Nat}, Touch ringAddr b d → f.lo < 32 ∧ 0x80 ≤ f.off ∧ f.off < 0x1000 → Touch ringAddr b (d.rwr n f v) := fun h hf =>
    h.wr ⟨hf.1, by rw [Fld.addr_zero]; unfold Pg.ring; omega⟩ (by rw [Fld.addr_zero]; exact ring_ringAddr hn hf.2.2)
  have hwb : ∀ d : Body, Touch ringAddr b d → Touch ringAddr b (d.ringWb n) := fun d h => by
    unfold ringWb
    split_ifs
    · exact h.of rfl rfl
    · exact h
  unfold ringStop
  dsimp only
  refine hwb _ (Touch.count (Touch.fire ?_ (by decide) (by unfold Pg.ring; omega) (ring_ringAddr hn (by decide)) (fun _ => ring_ringAddr hn (by decide))
    (fun _ => .inl rfl) fun _ => .inr (.inl rfl)) (by decide) (ring_ringAddr (x := 0) hn (by decide)))
  exact Touch.of (hw (hw (hw (.refl b) (by decide)) (by decide)) (by decide)) rfl rfl

/-- Each running ring stops as the link is lost (R420). -/
theorem touch_ringsLost (l : List Nat) (hl : ∀ n ∈ l, n < 240) : ∀ b : Body, Touch ringAddr b (l.foldl (fun b n =>
      if b.rrd n R.RING_STATE = RING_RUNNING then
        let b := b.ringStop n RING_STOPPED CAUSE_LINK (b.rrd n R.RING_CONS)
        b.setRun n { (b.run n) with tel := [], done := [] }
      else b) b) := by
  induction l with
  | nil => exact fun b => .refl b
  | cons n l ih =>
    intro b
    rw [List.foldl_cons]
    refine Touch.trans ?_ (ih (fun m hm => hl m (List.mem_cons_of_mem _ hm)) _)
    split_ifs
    · exact (touch_ringStop (hl n List.mem_cons_self) _ _ _).of rfl rfl
    · exact .refl b

/-- The loss of the host's link: the link is down, and beside the interface's and the rings' pages no register moves (R420). -/
theorem hostLinkDown_spec : (b.hostLinkDown).rd Pg.hif R.HIF_LINK_UP = 0 ∧
    ∀ (q : Nat) (g : Fld) (x y : Nat), g.lo < 32 → notedAt (g.addr q x y) = false → pageOf (g.addr q x y) ≠ Pg.hif → ¬ ringAddr (g.addr q x y) g.lo →
      b.hostLinkDown.rd q g x y = b.rd q g x y := by
  have h2 : b.rd Pg.hif R.HIF_LINK_UP < 2 ^ 1 := b.rd_lt Pg.hif R.HIF_LINK_UP 0 0
  by_cases hup : b.on Pg.hif R.HIF_LINK_UP = true
  · have hrings := touch_ringsLost (List.range 240) (fun n hn => List.mem_range.mp hn) ((b.wr Pg.hif R.HIF_LINK_UP 0).fire Pg.hif R.HIF_EVT_LINK)
    rw [hostLinkDown, if_neg (by simp [hup])]
    dsimp only
    generalize List.foldl _ ((b.wr Pg.hif R.HIF_LINK_UP 0).fire Pg.hif R.HIF_EVT_LINK) (List.range 240) = e at hrings
    refine ⟨?_, fun q g x y hg hn hq hr => ?_⟩
    · rw [rd_fault_field _ (by decide) (by decide), count_rd, hrings.regs _ _ _ _ (by decide) (by unfold ringAddr; decide), rd_fire_field (by decide) (by decide) (by decide)]
      exact rd_wr_self ..
    · have hne : ∀ z < 0x1000, g.addr q x y ≠ Pg.hif + z := fun z hz e => hq (by rw [e, pageOf, Pg.hif]; omega)
      have hk : Keeps [Pg.hif] b ((b.wr Pg.hif R.HIF_LINK_UP 0).fire Pg.hif R.HIF_EVT_LINK) :=
        ((Keeps.refl b).wrPage (by simp) (by decide) (by decide)).fire (by decide) (by decide) (by simp)
      rw [rd_fault _ _ (by decide) hg (.inl (hne _ (by decide))), count_rd, hrings.regs _ _ _ _ hg hr, hk.regs _ _ _ _ hg hn (by simpa using hq)]
  · rw [hostLinkDown, if_pos hup]
    refine ⟨?_, fun _ _ _ _ _ _ _ _ => rfl⟩
    simp only [on, beq_iff_eq] at hup
    omega

/-- Every link goes down (R507). -/
theorem linksDown_spec : let c := Dev.linksDown b
    c.rd Pg.hif R.HIF_LINK_UP = 0 ∧
    (∀ p < 2, c.rd (Pg.far p 0) R.FAR_STATE ≠ FAR_READY ∧ c.rd (Pg.far p 0) R.FAR_STATE ≠ FAR_RECOVERY_ST) ∧
    ∀ p < 512, b.portLanes p ≠ [] → c.prd p R.PORT_EN ≠ 1 ∨ c.prd p R.PORT_LINK_STATE ≠ 4 := by
  generalize hl : (List.range 512).filter (fun p => b.portUp p) = l
  obtain ⟨h1, h2, h3⟩ := linksLost l b
  generalize hd : l.foldl (fun b p => b.linkLoss p p true) b = d at h1 h2 h3
  generalize he : (d.farLinkDown 0).farLinkDown 1 = e
  have hc : Dev.linksDown b = e.hostLinkDown := by
    unfold Dev.linksDown
    dsimp only
    rw [hl, hd, List.foldl_cons, List.foldl_cons, List.foldl_nil, he]
  obtain ⟨hup, hrest⟩ := hostLinkDown_spec (b := e)
  have hfar : ∀ (p : Nat) (b : Body), p < 2 → (b.farLinkDown p).rd (Pg.far p 0) R.FAR_STATE ≠ FAR_READY ∧ (b.farLinkDown p).rd (Pg.far p 0) R.FAR_STATE ≠ FAR_RECOVERY_ST := by
    intro p b hp
    by_cases hst : b.frd p R.FAR_STATE = FAR_READY ∨ b.frd p R.FAR_STATE = FAR_RECOVERY_ST
    · rw [(farLinkDown_spec hp hst).1]
      decide
    · push Not at hst
      rw [farLinkDown_idle hst.1 hst.2]
      exact hst
  have hother : ∀ b : Body, (b.farLinkDown 1).rd (Pg.far 0 0) R.FAR_STATE = b.rd (Pg.far 0 0) R.FAR_STATE := fun b =>
    farLinkDown_aside (by decide) ⟨notedAt_big (by simp only [Fld.addr_zero, Pg.far, R.FAR_STATE]; omega),
      by simp only [tierAddr, lossAddr, chmAddr, Fld.addr_zero, Pg.far, Pg.chm, Pg.rim, R.FAR_STATE]; omega,
      by rw [pageOf_addr (far_page (by decide)).1 (by decide)]; unfold Pg.far Pg.governor; omega⟩
      (by rw [pageOf_addr (far_page (by decide)).1 (by decide)]; unfold Pg.far; omega)
  have hlane : ∀ (p : Nat) (g : Fld), p < 512 → g.lo < 32 ∧ g.lo ≠ 0 ∧ g.off < 0x1000 → e.hostLinkDown.prd p g = d.prd p g := by
    intro p g hp hg
    have hpage := lanePage hp
    have hpo : pageOf (g.addr (Pg.lane p) 0 0) = Pg.lane p := by rw [Fld.addr_zero, pageOf]; omega
    have haside : farAside (g.addr (Pg.lane p) 0 0) g.lo := by
      refine ⟨notedAt_big (by rw [Fld.addr_zero]; omega), ?_, by rw [hpo]; unfold Pg.governor; omega⟩
      rw [Fld.addr_zero]
      simp only [tierAddr, lossAddr, chmAddr, Pg.chm, Pg.rim]
      omega
    have hne : ∀ k, pageOf (g.addr (Pg.lane p) 0 0) ≠ Pg.far k 0 := fun k => by rw [hpo]; unfold Pg.far; omega
    unfold prd
    rw [hrest _ _ _ _ hg.1 haside.1 (by rw [hpo]; unfold Pg.hif; omega) (by rw [Fld.addr_zero]; simp only [ringAddr, Pg.ring]; omega), ← he,
      farLinkDown_aside hg.1 haside (hne 1), farLinkDown_aside hg.1 haside (hne 0)]
  have hstate : ∀ p < 2, e.hostLinkDown.rd (Pg.far p 0) R.FAR_STATE = e.rd (Pg.far p 0) R.FAR_STATE := fun p hp => by
    refine hrest _ _ _ _ (by decide) (notedAt_big (by simp only [Fld.addr_zero, Pg.far, R.FAR_STATE]; omega)) ?_ ?_
    · rw [pageOf_addr (far_page (by decide)).1 (by decide)]
      unfold Pg.far Pg.hif
      omega
    · simp only [Fld.addr_zero, ringAddr, Pg.ring, Pg.far, R.FAR_STATE]
      omega
  intro c
  have hcc : c = e.hostLinkDown := hc
  rw [hcc]
  refine ⟨hup, fun p hp => ?_, fun p hp hne => ?_⟩
  · rw [hstate p hp, ← he]
    have hp01 : p = 0 ∨ p = 1 := by omega
    rcases hp01 with rfl | rfl
    · rw [hother]
      exact hfar 0 d (by decide)
    · exact hfar 1 _ (by decide)
  · rw [hlane p _ hp (by decide), hlane p _ hp (by decide)]
    by_cases hmem : p ∈ l
    · refine .inr (h3 p hmem (self_mem_portLanes fun h0 => hne ?_))
      rw [portLanes, h0]
      rfl
    · have hnot : ¬ (b.prd p R.PORT_EN = 1 ∧ b.prd p R.PORT_LINK_STATE = 4) := fun h => hmem (by
        rw [← hl]
        exact List.mem_filter.mpr ⟨List.mem_range.mpr hp, by simp [portUp, h.1, h.2]⟩)
      rw [h1]
      by_cases hen : b.prd p R.PORT_EN = 1
      · exact .inr fun h4 => hnot ⟨hen, h2 p h4⟩
      · exact .inl hen

end

end Body

section
variable {s : State}

theorem exec_i3cRead (n : Nat) : exec (.i3cPrivateRead n) s = .next (s.withBody (s.dev.i3cRead n).body) := by
  refine State.always_withBody rfl (Dev.eq_withBody ?_)
  unfold Dev.i3cRead
  dsimp only
  split_ifs
  · rfl
  · rfl
  all_goals exact (Dev.i3cWords_spec _ _ _).1

/-- An I3C read too early, or in time (R506). -/
theorem i3cEarly_iff : Dev.i3cEarly s.dev.body = true ↔
    (∃ x, s.dev.body.svc.wrAt = some x ∧ s.dev.body.clk < x + 2000) ∨ ∃ x, s.dev.body.svc.rdAt = some x ∧ s.dev.body.clk < x + 5000 := by
  unfold Dev.i3cEarly
  rw [Bool.or_eq_true]
  refine or_congr ?_ ?_ <;> split <;> simp_all

end

section
variable {s : State}

/-! What a command of the service ports leaves. -/

/-- An I3C command that changes the mirror and what it answers alone (R506). -/
theorem exec_i3cCcc {c : I3cCode} (hc : c.wf = true) {d : Body}
    (h : s.dev.i3cCcc c = { s.dev with body := d }) : exec (.i3cCcc c) s = .next (s.withBody d) :=
  State.always_withBody hc h

/-- The codes that answer some bytes of the target's (R506). -/
theorem i3cCcc_answer (ho : s.dev.body.sup.mode ≠ .off) {c : I3cCode} {k : Nat}
    (hc : (c, k) ∈ [(I3cCode.getpid, 6), (.getdcr, 1), (.getstatus, 2), (.getmwl, 2), (.getmrl, 2)]) :
    ∃ n v, s.dev.i3cCcc c = { s.dev with body := { s.dev.body with fresh := n, rdata := (beBytes k v).map BitVec.toNat } } ∧ c.wf = true := by
  simp only [List.mem_cons, Prod.mk.injEq, List.not_mem_nil, or_false] at hc
  unfold Dev.i3cCcc
  rw [if_neg ho]
  rcases hc with ⟨rfl, rfl⟩ | ⟨rfl, rfl⟩ | ⟨rfl, rfl⟩ | ⟨rfl, rfl⟩ | ⟨rfl, rfl⟩
  all_goals exact ⟨_, _, rfl, rfl⟩

theorem exec_jtagInstruction {i : JtagInstr} {c : Body} (h : s.dev.jtagInstr i = { s.dev with body := c }) :
    exec (.jtagInstruction i) s = .next (s.withBody c) :=
  State.always_withBody rfl h

end

end Sys2Proof.Machine

namespace Sys2Proof

open Machine

/-- Settles O58: the mirror's and the port's operations case by case; the links that an instruction takes down one after another. -/
theorem servicePorts : Obligations.ServicePorts := by
  unfold Obligations.ServicePorts
  intro s b
  refine ⟨fun (hoff : s.dev.body.sup.mode ≠ .off) => ⟨fun l hl => ?_, fun l hl => ?_, fun n => ?_, fun a ha c hc => ?_, ?_, ?_, fun c k hc => ?_, fun c hc => ?_⟩,
    fun hoff hlamp => ⟨fun i hi => ?_, fun i hi hrun => ?_⟩, fun a ha => ⟨fun hi v hv => ?_, fun hi hr v hv => ?_, fun hi hans => ?_⟩⟩
  · refine ⟨_, State.always_withBody (c := { b with svc := { b.svc with addr := leNat l / 4 * 4, wrAt := some b.clk } }) rfl ?_, ?_, ?_, ?_⟩
    · rw [Dev.i3cWrite, if_neg (by simp only [not_or, not_not]; exact ⟨hoff, hl⟩)]
      rfl
    · simp
    · simp
    · exact State.withBody_keeps ⟨fun _ _ _ _ _ _ _ => rfl, rfl, rfl, rfl⟩
  · have h : exec (.i3cAddressWrite l) s = .next (s.withBody s.dev.body) := State.always_withBody rfl (by rw [Dev.i3cWrite, if_pos (.inr hl)])
    rw [h, State.withBody_self]
  · intro early
    refine ⟨fun h => ?_, fun h => ?_⟩
    · refine ⟨s.withBody { b with rdata := [] }, (exec_i3cRead n).trans ?_, by simp, by simp, State.withBody_keeps ⟨fun _ _ _ _ _ _ _ => rfl, rfl, rfl, rfl⟩⟩
      rw [Dev.i3cRead, if_neg hoff, if_pos (i3cEarly_iff.mpr h)]
      rfl
    · have hlate : Dev.i3cEarly b = false := by
        rw [Bool.eq_false_iff]
        exact fun he => h (i3cEarly_iff.mp he)
      obtain ⟨haddr, hat, hlen⟩ := Dev.i3cRead_late hoff hlate n
      refine ⟨_, exec_i3cRead n, by simpa using haddr, by simpa using hat, by simpa using hlen, fun hn ha => ⟨fun hc => ?_, fun hc hl => ?_⟩⟩
      · obtain ⟨svc, hbody⟩ := Dev.i3cRead_word hoff hlate ha (if_pos hc)
        rw [hn, hbody]
        simp [b]
      · obtain ⟨svc, hbody⟩ := Dev.i3cRead_word hoff hlate ha (if_neg (by simp [hc, hl, b]))
        rw [hn, hbody]
        exact ⟨by simp [leBytes], State.withBody_keeps ⟨fun _ _ _ _ _ _ _ => rfl, rfl, rfl, rfl⟩⟩
  · have ha' : a % 128 = a := Nat.mod_eq_of_lt ha
    rcases List.mem_pair.mp hc with rfl | rfl
    all_goals
      refine ⟨_, exec_i3cCcc (d := { b with svc := { b.svc with dyn := some a } }) (by simpa [I3cCode.wf] using ha) ?_, by simp,
        State.withBody_keeps ⟨fun _ _ _ _ _ _ _ => rfl, rfl, rfl, rfl⟩⟩
      simp only [Dev.i3cCcc, if_neg hoff, ha']
      rfl
  · refine ⟨_, exec_i3cCcc (d := { b with svc := { b.svc with dyn := none } }) rfl ?_, by simp,
      State.withBody_keeps ⟨fun _ _ _ _ _ _ _ => rfl, rfl, rfl, rfl⟩⟩
    simp only [Dev.i3cCcc, if_neg hoff]
    rfl
  · refine ⟨_, exec_i3cCcc (d := { b with rdata := [0] }) rfl ?_, by simp, State.withBody_keeps ⟨fun _ _ _ _ _ _ _ => rfl, rfl, rfl, rfl⟩⟩
    simp only [Dev.i3cCcc, if_neg hoff]
    rfl
  · obtain ⟨n, v, h, hwf⟩ := i3cCcc_answer hoff hc
    exact ⟨_, exec_i3cCcc hwf h, by simp [beBytes, length_leBytes], by simp [b], State.withBody_keeps ⟨fun _ _ _ _ _ _ _ => rfl, rfl, rfl, rfl⟩⟩
  · have h : exec (.i3cCcc c) s = .next (s.withBody s.dev.body) := by
      rcases List.mem_pair.mp hc with rfl | rfl
      all_goals exact exec_i3cCcc rfl (by simp only [Dev.i3cCcc, if_neg hoff])
    rw [h, State.withBody_self]
  · have hpins : ¬ (i.takesPins = true ∧ b.sup.mode = .running) := fun h => hi.elim (by simp [h.1]) fun hm => hm h.2
    refine ⟨_, exec_jtagInstruction (Dev.jtagInstr_quiet hoff hlamp hpins), by simp [b], by simp [b],
      State.withBody_keeps ⟨fun _ _ _ _ _ _ _ => rfl, rfl, rfl, rfl⟩, fun h => ?_⟩
    rw [(by simp : ∀ c : Body, (s.withBody c).dev.body.rdata = c.rdata), if_pos h, Dev.idcode_eq]
  · obtain ⟨hup, hfar, hport⟩ := Body.linksDown_spec (b := { b with svc := { b.svc with instr := i } })
    have hinstr := Body.offside_linksDown { b with svc := { b.svc with instr := i } }
    have hF := Dev.jtagInstr_pins hlamp hi hrun
    generalize hc : Dev.linksDown { b with svc := { b.svc with instr := i } } = c at hup hfar hport hinstr
    rw [show Dev.linksDown { s.dev.body with svc := { s.dev.body.svc with instr := i } } = c from hc] at hF
    refine ⟨_, exec_jtagInstruction hF, ?_, by simp, ?_, fun p hp => ?_, fun p hp hl => ?_⟩
    · rw [(by simp : ∀ c : Body, (s.withBody c).dev.body.svc = c.svc)]
      exact congrArg SvcSt.instr (Body.offside_eq hinstr).2.2.2.2.2.2.2.2.2
    · exact (State.withBody_page (by decide) (by decide)).trans hup
    · rw [State.withBody_far 0]
      exact hfar p hp
    · have h := hport p hp hl
      generalize hd : ({ c with sup := { s.dev.body.sup with testPins := true } } : Body) = d
      have h1 : (s.withBody d).reg (Pg.lane p) R.PORT_EN = c.prd p R.PORT_EN := State.withBody_prd (by rw [← hd]; rfl)
      have h2 : (s.withBody d).reg (Pg.lane p) R.PORT_LINK_STATE = c.prd p R.PORT_LINK_STATE := State.withBody_prd (by rw [← hd]; rfl)
      rw [← h1, ← h2] at h
      unfold Body.portUp
      rw [Bool.and_eq_false_iff, beq_eq_false_iff_ne, beq_eq_false_iff_ne]
      exact h
  · have hstand : exec (.jtagDbgRegAccess a v) s = .next (s.withBody s.dev.body) := by
      by_cases hr : s.runs [2]
      · refine State.live_withBody ?_ hr ?_
        · rw [ha]
          cases v with
          | none => rfl
          | some x => exact decide_eq_true (hv x rfl)
        · unfold Dev.jtagAccess
          rw [if_pos hi]
      · rw [State.withBody_self]
        exact s.live_stands _ (.inr (by simpa [State.runs] using hr))
    rw [hstand, State.withBody_self]
  · refine ⟨_, s.live_runs _ (by rw [ha]; exact decide_eq_true hv) hr.runs, (s.live_runs _ (by rw [ha, hr.known]; exact decide_eq_true hv) hr.runs).trans ?_⟩
    have hi' : ¬ s.dev.body.svc.instr ≠ .dbgReg := not_not.mpr hi
    simp only [Dev.after, Dev.jtagAccess, if_neg hi', Nat.mod_eq_of_lt hv, if_true]
  · have hread : s.dev.busRead Master.jtag a = ({ s.dev with body := (s.dev.busRead Master.jtag a).1.body }, (s.dev.readAt Master.jtag a).2) :=
      Prod.ext (Dev.eq_withBody (s.dev.busRead_sticky ..)) (by rw [Dev.busRead_at hans])
    refine ⟨_, State.live_withBody (by rw [ha]; rfl) hans.runs ?_, exec_clearOnRead hans ha hread, by simp⟩
    unfold Dev.jtagAccess
    rw [if_neg (not_not.mpr hi)]
    exact Dev.read_eq hread

end Sys2Proof
end

section
/-! O31: the time of day (R301 to R307). -/

namespace Sys2Proof.Machine

namespace Body

section
variable {b c : Body}

/-! The time of day, its slew and what makes it valid. -/

/-- The time moved is exact in the accumulator's unit, up to the wrap of its seconds (R301). -/
theorem todAdd_total (d : Int) : (((b.todAdd d).tod * 1000000000 + (b.todAdd d).lamp.todRem : Nat) : Int) =
    (((b.tod * 1000000000 + b.lamp.todRem : Nat) : Int) + d) % ((2 ^ 48 * 1000000000 * 65536 * 1000000000 : Nat) : Int) := by
  have hm : (0 : Int) < ((2 ^ 48 * 1000000000 * 65536 * todUnit : Nat) : Int) := by unfold todUnit; norm_num
  have h0 := Int.emod_nonneg (((b.tod * todUnit + b.lamp.todRem : Nat) : Int) + d) hm.ne'
  unfold todAdd
  simp only [todUnit] at h0 ⊢
  rw [Nat.div_add_mod', Int.toNat_of_nonneg h0]

theorem svyWindow_tod : (b.svyWindow).tod = b.tod ∧ b.svyWindow.lamp = b.lamp := by
  have htel : ∀ (c : Body) i, (c.svyTel i).tod = c.tod ∧ (c.svyTel i).lamp = c.lamp := fun c i => by
    unfold svyTel
    split_ifs
    · rcases c.telSend_cases _ _ _ with ⟨mem, host, h⟩ | h <;> rw [h] <;> exact ⟨rfl, rfl⟩
    · exact ⟨rfl, rfl⟩
  have hstep : ∀ (run : Bool) (c : Body) e, (windowStep run c e).tod = c.tod ∧ (windowStep run c e).lamp = c.lamp := fun run c e => by
    obtain ⟨h1, h2⟩ := htel (if run then c.windowMoved e.1 else c) e.1
    refine ⟨h1.trans ?_, h2.trans ?_⟩ <;> split_ifs <;> rfl
  rw [svyWindow_eq]
  simp only [fire_rest]
  exact ⟨(foldl_same Body.tod _ (fun c e => (hstep _ c e).1) _ _).trans rfl, (foldl_same Body.lamp _ (fun c e => (hstep _ c e).2) _ _).trans rfl⟩

/-- A step that is accepted (R302). -/
theorem todStepWrite_taken (h : b.rd Pg.lamp R.TOD_SET_NS ≤ 999999999) : b.todStepWrite.lamp.slew = 0 ∧
    b.todStepWrite.tod = ((b.rd Pg.lamp R.TOD_SET_SECHI * 2 ^ 32 + b.rd Pg.lamp R.TOD_SET_SECLO) * 1000000000 + b.rd Pg.lamp R.TOD_SET_NS) * 65536 := by
  have hn : ¬ 999999999 < b.rd Pg.lamp R.TOD_SET_NS := by omega
  obtain ⟨h1, h2⟩ := svyWindow_tod (b := b.todStep)
  rw [todStepWrite, if_neg hn, h1, h2, todStep]
  dsimp only
  rw [if_neg hn]
  simp

/-- A step of more nanoseconds than a second has is told (R302). -/
theorem todStepWrite_bad (h : 999999999 < b.rd Pg.lamp R.TOD_SET_NS) : b.todStepWrite = b.fire Pg.lamp R.LAMP_EVT_BADCFG := by
  rw [todStepWrite, if_pos h, todStep]
  exact if_pos h

/-- TOD_VALID cleared (R307). -/
theorem todInvalid_valid : b.todInvalid.rd Pg.lamp R.TOD_VALID = 0 := by
  have h2 : b.rd Pg.lamp R.TOD_VALID < 2 ^ 1 := b.rd_lt Pg.lamp R.TOD_VALID 0 0
  unfold todInvalid
  split_ifs with h
  · rw [rd_fire _ (by decide) (by decide) (.inl (by decide)) (by decide) (by decide) (by decide), rd_wr_self]
    rfl
  · simp only [on, beq_iff_eq] at h
    omega

theorem todInvalid_same {f : Fld} (hf : f.lo < 32 ∧ 0x80 ≤ f.off ∧ f.off < 0x1000) (h0 : f.off ≠ 0x80 ∨ f.lo ≠ 0) :
    b.todInvalid.rd Pg.lamp f = b.rd Pg.lamp f := by
  have ha : f.addr Pg.lamp 0 0 = f.off := by rw [Fld.addr_zero]; exact Nat.zero_add _
  unfold todInvalid
  split_ifs
  · rw [rd_fire _ (by decide) hf.1 (by rw [ha]; simp only [Pg.lamp]; omega) (by rw [ha]; simp only [Pg.lamp]; omega) (by omega) (by omega),
      rd_wr_ne _ _ (by decide) hf.1 (h0.imp (fun h => by rw [ha]; exact h) fun h => h)]
  · rfl

theorem todInvalid_rest : b.todInvalid.lamp = b.lamp ∧ b.todInvalid.tod = b.tod ∧ b.todInvalid.sup = b.sup := by
  unfold todInvalid
  split_ifs
  · simp
  · exact ⟨rfl, rfl, rfl⟩

theorem todInvalid_told (h : b.rd Pg.lamp R.TOD_VALID = 1) : b.todInvalid.rd Pg.lamp (evtPend R.TOD_EVT_INVALID) = 1 := by
  rw [todInvalid, if_pos (by rw [on, h]; rfl)]
  exact fire_pend _ (by decide) (by decide)

theorem todInvalid_pend {n : Nat} (hn : n < 32) (h : b.rd Pg.lamp (evtPend n) = 1) : b.todInvalid.rd Pg.lamp (evtPend n) = 1 := by
  unfold todInvalid
  split_ifs
  · refine fire_keeps_pend _ hn (by decide) (by decide) (by decide) ?_
    rwa [rd_wr_ne _ _ (by decide) (by simpa [evtPend] using hn) (.inl (by simp [Fld.addr, evtPend, R.TOD_VALID]))]
  · exact h

theorem Keeps.todInvalid (h : Keeps [Pg.lamp] b c) : Keeps [Pg.lamp] b c.todInvalid := by
  unfold Body.todInvalid
  split_ifs
  · exact (h.wr (by decide) (by decide)).fire (by decide) (by decide) (by simp)
  · exact h

theorem Keeps.todCheck (h : Keeps [Pg.lamp] b c) : Keeps [Pg.lamp] b c.todCheck := by
  unfold Body.todCheck
  split_ifs
  · exact h.todInvalid
  · exact h

theorem todCheck_same {f : Fld} (hf : f.lo < 32 ∧ 0x80 ≤ f.off ∧ f.off < 0x1000) (h0 : f.off ≠ 0x80 ∨ f.lo ≠ 0) :
    b.todCheck.rd Pg.lamp f = b.rd Pg.lamp f := by
  unfold todCheck
  split_ifs
  · exact todInvalid_same hf h0
  · rfl

theorem todCheck_rest : b.todCheck.lamp = b.lamp ∧ b.todCheck.tod = b.tod ∧ b.todCheck.sup = b.sup := by
  unfold todCheck
  split_ifs
  · exact todInvalid_rest
  · exact ⟨rfl, rfl, rfl⟩

theorem todCheck_loss : b.todCheck.todLoss = b.todLoss := by
  obtain ⟨h1, -, h3⟩ := todCheck_rest (b := b)
  have h2 : b.todCheck.rd Pg.lamp R.TOD_PPS_REQ = b.rd Pg.lamp R.TOD_PPS_REQ := todCheck_same (by decide) (by decide)
  rw [todLoss, h1, h3, on, h2, todLoss, on]

/-- TOD_VALID set where nothing stands against it (R307). -/
theorem todValidSet_spec : (b.todLoss = false → b.todCheck.todValidSet.rd Pg.lamp R.TOD_VALID = 1) ∧
    (b.todLoss = true → b.todCheck.todValidSet.rd Pg.lamp R.TOD_VALID = 0) ∧ Keeps [Pg.lamp] b b.todCheck.todValidSet := by
  refine ⟨fun h => ?_, fun h => ?_, ?_⟩
  · rw [todValidSet, todCheck_loss, h]
    exact (rd_wr_self ..).trans rfl
  · rw [todValidSet, todCheck_loss, h, if_pos rfl, todCheck, if_pos h]
    exact todInvalid_valid
  · unfold todValidSet
    split_ifs
    · exact (Keeps.refl b).todCheck
    · exact (Keeps.refl b).todCheck.wr (by decide) (by decide)

/-- TOD_VALID cleared on request (R307). -/
theorem todValidClr_told (h : b.rd Pg.lamp R.TOD_VALID = 1) : b.todCheck.todInvalid.rd Pg.lamp (evtPend R.TOD_EVT_INVALID) = 1 := by
  unfold todCheck
  split_ifs
  · exact todInvalid_pend (by decide) (todInvalid_told h)
  · exact todInvalid_told h

/-- The time captured at an edge of the 1PPS input (R305). -/
def ppsAt (b : Body) : Nat := ((b.tod : Int) - signed 16 (b.rd Pg.lamp R.TOD_PPS_IN_ADJ) * 65536 / 1000).toNat / 65536

theorem ppsIn_spec : b.ppsIn.rd Pg.lamp R.TOD_PPS_CAP_NS = b.ppsAt % 1000000000 ∧ b.ppsIn.rd Pg.lamp R.TOD_PPS_CAP_SEC = b.ppsAt / 1000000000 % 2 ^ 32 ∧
    b.ppsIn.lamp.ppsLost = false ∧ b.ppsIn.rd Pg.lamp (evtPend R.TOD_EVT_PPS) = 1 := by
  unfold ppsIn
  dsimp only
  rw [← ppsAt]
  generalize b.ppsAt = t
  refine ⟨?_, ?_, ?_, fire_pend _ (by decide) (by decide)⟩
  · rw [rd_fire _ (by decide) (by decide) (.inl (by decide)) (by decide) (by decide) (by decide)]
    refine ((rd_wr_ne _ _ (by decide) (by decide) (.inl (by decide))).trans (rd_wr_self ..)).trans (Nat.mod_eq_of_lt ?_)
    exact (Nat.mod_lt t (by decide)).trans (by decide)
  · rw [rd_fire _ (by decide) (by decide) (.inl (by decide)) (by decide) (by decide) (by decide)]
    exact rd_wr_self ..
  · rw [(fire_rest _ _ _).2.2.2.2.2.2.2.2.2.2.2.2.2.2.2.2.2.2.2.2.2.1]

theorem todCheck_pend {n : Nat} (hn : n < 32) (h : b.rd Pg.lamp (evtPend n) = 1) : b.todCheck.rd Pg.lamp (evtPend n) = 1 := by
  unfold todCheck
  split_ifs
  · exact todInvalid_pend hn h
  · exact h

/-- No edge of the 1PPS input in time (R305, R307). -/
theorem ppsLoss_spec (h : b.passed Mk.pps 1100000000 = true) : b.ppsLoss.lamp.ppsLost = true ∧ b.ppsLoss.rd Pg.lamp (evtPend R.TOD_EVT_PPS_LOSS) = 1 ∧
    (b.rd Pg.lamp R.TOD_PPS_REQ = 1 → b.ppsLoss.rd Pg.lamp R.TOD_VALID = 0) := by
  unfold ppsLoss
  rw [if_neg (by simp [h])]
  generalize hc : ({ b with lamp := { b.lamp with ppsLost := true } } : Body).fire Pg.lamp R.TOD_EVT_PPS_LOSS = c
  have hlost : c.lamp.ppsLost = true := by rw [← hc]; simp
  refine ⟨by rw [todCheck_rest.1]; exact hlost, todCheck_pend (by decide) (by rw [← hc]; exact fire_pend _ (by decide) (by decide)), fun hq => ?_⟩
  have hreq : c.rd Pg.lamp R.TOD_PPS_REQ = 1 := by
    rw [← hc, rd_fire _ (by decide) (by decide) (.inl (by decide)) (by decide) (by decide) (by decide)]
    exact hq
  have hloss : c.todLoss = true := by simp [todLoss, on, hreq, hlost]
  rw [todCheck, if_pos hloss]
  exact todInvalid_valid

/-- The loss of the system reference (R307). -/
theorem sysrefLoss_spec (h : b.lamp.refLost = false) : b.sysrefLoss.lamp.refLost = true ∧ b.sysrefLoss.rd Pg.lamp R.TOD_VALID = 0 ∧
    b.sysrefLoss.rd Pg.lamp (evtPend R.TOD_EVT_REF_LOSS) = 1 := by
  rw [sysrefLoss, if_neg (by simp [h])]
  refine ⟨?_, todInvalid_valid, todInvalid_pend (by decide) (fire_pend _ (by decide) (by decide))⟩
  rw [todInvalid_rest.1]
  simp

/-- The output of 1PPS rises (R306). -/
theorem ppsOutEdge_on (hd : b.lamp.ppsDue = true) (hon : b.rd Pg.lamp R.TOD_PPS_OUT_EN = 1) :
    b.ppsOutEdge = { b with lamp := { b.lamp with ppsDue := false, ppsOut := true, ppsOff := b.clk + b.ppsWidth } } := by
  have hon' : on { b with lamp := { b.lamp with ppsDue := false } } Pg.lamp R.TOD_PPS_OUT_EN = true :=
    beq_iff_eq.mpr hon
  rw [ppsOutEdge, if_neg (by simp [hd])]
  dsimp only
  rw [if_pos hon']
  rfl

end

end Body

section
variable {s : State} {m : Nat}

/-- A word of the register of TOD_STEP, by its bits (R302, R307). -/
theorem storeLamp_tod (b : Body) (w : Nat) (lk : Bool) : (b.pageStore .lamp m (Pg.lamp + 0x80) w lk).1 =
    if R.TOD_VALID_CLR.of w = 1 then (if R.TOD_STEP.of w = 1 then (b.takeBits (Pg.lamp + 0x80) w).todCheck.todStepWrite else (b.takeBits (Pg.lamp + 0x80) w).todCheck).todInvalid
    else if R.TOD_VALID_SET.of w = 1 then (if R.TOD_STEP.of w = 1 then (b.takeBits (Pg.lamp + 0x80) w).todCheck.todStepWrite else (b.takeBits (Pg.lamp + 0x80) w).todCheck).todValidSet
    else (if R.TOD_STEP.of w = 1 then (b.takeBits (Pg.lamp + 0x80) w).todCheck.todStepWrite else (b.takeBits (Pg.lamp + 0x80) w).todCheck) := by
  have h : (fieldAt (Pg.lamp + 0x80) R.TOD_STEP).isSome = true := by rw [pageIs_lamp.fieldAt (by decide) (by decide)]; rfl
  rw [Body.pageStore, Body.storeLamp, if_pos h]

/-- Its word with one of the bits that act. -/
theorem tod_bits {b : Body} {w : Nat} {f : Fld} (hw : ∀ x ∈ PK.lamp.fieldsAt 0x80, x.1.of w = b.putVal Pg.lamp f 1 x) :
    (R.TOD_STEP.of w = if R.TOD_STEP = f then 1 % 2 ^ f.width else 0) ∧ (R.TOD_VALID_CLR.of w = if R.TOD_VALID_CLR = f then 1 % 2 ^ f.width else 0) ∧
    (R.TOD_VALID_SET.of w = if R.TOD_VALID_SET = f then 1 % 2 ^ f.width else 0) :=
  ⟨(hw (R.TOD_STEP, 0, 0) (by decide)).trans rfl, (hw (R.TOD_VALID_CLR, 0, 0) (by decide)).trans rfl, (hw (R.TOD_VALID_SET, 0, 0) (by decide)).trans rfl⟩

section
variable (ht : s.takes m (Pg.lamp + 0x80))
include ht

theorem exec_todStep : ∃ d, Body.Shown Pg.lamp 0x80 (PK.lamp.fieldsAt 0x80) s.dev.body d ∧
    exec (.todStep m) s = .next (s.withBody d.todCheck.todStepWrite) := by
  obtain ⟨d, hd, hput⟩ := Dev.put_go (v := 1) (i := 0) (f := R.TOD_STEP) (act := fun b => b.todCheck.todStepWrite) ht pageIs_lamp (by decide) (by decide)
    (by decide) (by decide) (by decide) rfl (by decide) fun w lk _ hw => by
      obtain ⟨h1, h2, h3⟩ := tod_bits hw
      rw [storeLamp_tod, h1, h2, h3]
      rfl
  exact ⟨d, hd, State.live_withBody ht.known ht.runs hput⟩

theorem exec_todValidSet : ∃ d, Body.Shown Pg.lamp 0x80 (PK.lamp.fieldsAt 0x80) s.dev.body d ∧
    exec (.todValidSet m) s = .next (s.withBody d.todCheck.todValidSet) := by
  obtain ⟨d, hd, hput⟩ := Dev.put_go (v := 1) (i := 0) (f := R.TOD_VALID_SET) (act := fun b => b.todCheck.todValidSet) ht pageIs_lamp (by decide) (by decide)
    (by decide) (by decide) (by decide) rfl (by decide) fun w lk _ hw => by
      obtain ⟨h1, h2, h3⟩ := tod_bits hw
      rw [storeLamp_tod, h1, h2, h3]
      rfl
  exact ⟨d, hd, State.live_withBody ht.known ht.runs hput⟩

theorem exec_todValidClr : ∃ d, Body.Shown Pg.lamp 0x80 (PK.lamp.fieldsAt 0x80) s.dev.body d ∧
    exec (.todValidClr m) s = .next (s.withBody d.todCheck.todInvalid) := by
  obtain ⟨d, hd, hput⟩ := Dev.put_go (v := 1) (i := 0) (f := R.TOD_VALID_CLR) (act := fun b => b.todCheck.todInvalid) ht pageIs_lamp (by decide) (by decide)
    (by decide) (by decide) (by decide) rfl (by decide) fun w lk _ hw => by
      obtain ⟨h1, h2, h3⟩ := tod_bits hw
      rw [storeLamp_tod, h1, h2, h3]
      rfl
  exact ⟨d, hd, State.live_withBody ht.known ht.runs hput⟩

end

theorem exec_todPhaseAdj {v : Nat} (hv : v < 2 ^ 32) (ht : s.takes m (Pg.lamp + 0xA4)) :
    exec (.todPhaseAdj m v) s = .next (s.withBody (s.dev.body.todPhaseAdj v)) := by
  refine State.live_withBody (by rw [ht.known, decide_eq_true hv]; rfl) ht.runs ?_
  have h1 : (fieldAt (Pg.lamp + 0xA4) R.TOD_STEP).isSome = false := by rw [pageIs_lamp.fieldAt (by decide) (by decide)]; rfl
  have h2 : (fieldAt (Pg.lamp + 0xA4) R.TOD_PHASE_ADJ).isSome = true := by rw [pageIs_lamp.fieldAt (by decide) (by decide)]; rfl
  refine (Dev.write_store v ht pageIs_lamp (by decide) (by decide) (by decide) (by decide) (by decide)).trans ?_
  rw [Body.pageStore, Body.storeLamp, if_neg (by rw [h1]; decide), if_pos h2]

/-- The store of the word leaves what bears on TOD_VALID (R307). -/
theorem shown_loss {d : Body} (hd : Body.Shown Pg.lamp 0x80 (PK.lamp.fieldsAt 0x80) s.dev.body d) : d.todLoss = s.dev.body.todLoss := by
  have h : d.rd Pg.lamp R.TOD_PPS_REQ = s.dev.body.rd Pg.lamp R.TOD_PPS_REQ := hd.here (R.TOD_PPS_REQ, 0, 0) (by decide)
  rw [Body.todLoss, Body.on, h, hd.only, Body.todLoss, Body.on]

/-- A read of TOD_RD_FRAC (R303). -/
theorem exec_todReadLatch (h : s.answers m (Pg.lamp + 0x90)) (hi : s.reg Pg.lamp R.PG_RESET_BUSY = 0) :
    ∃ v, exec (.todReadLatch m) s = .next (s.withBody { s.dev.body.todLatch m with rdata := [v] }) := by
  have hfs : fieldsOf (Pg.lamp + 0x90) = [(R.TOD_RD_FRAC, 0, 0)] := by rw [pageIs_lamp.fieldsOf (by decide) (by decide)]; rfl
  have hfrac : (fieldAt (Pg.lamp + 0x90) R.TOD_RD_FRAC).isSome = true := by rw [pageIs_lamp.fieldAt (by decide) (by decide)]; rfl
  have hbusy : s.dev.body.on (pageOf (Pg.lamp + 0x90)) R.PG_RESET_BUSY = false := by
    rw [Body.on, beq_eq_false_iff_ne, show s.dev.body.rd (pageOf (Pg.lamp + 0x90)) R.PG_RESET_BUSY = 0 from hi]
    decide
  have hfield : ∀ d : Dev, ∃ v, d.readField m (pageOf (Pg.lamp + 0x90)) .lamp (R.TOD_RD_FRAC, 0, 0) = (d, v) := fun d => by
    unfold Dev.readField
    dsimp only
    rw [if_neg (by decide), if_neg (by decide), if_neg (by decide), if_neg (by decide), if_neg (by decide)]
    exact ⟨_, rfl⟩
  obtain ⟨v, hv⟩ := hfield { s.dev with body := s.dev.body.todLatch m }
  have hread : s.dev.busRead m (Pg.lamp + 0x90) = ({ s.dev with body := s.dev.body.todLatch m }, v) := by
    rw [Dev.busRead_block h pageIs_lamp (by decide) (by decide) (by decide), Dev.readBlock]
    simp only [hbusy, hfrac, hfs, if_true, Bool.false_eq_true, if_false, List.foldl_cons, List.foldl_nil, hv]
    rw [if_neg (by simp)]
    simp [R.TOD_RD_FRAC]
  exact ⟨v, State.live_withBody h.known h.runs (Dev.read_eq hread)⟩

theorem State.withBody_lamp (c : Body) : (s.withBody c).dev.body.lamp = c.lamp := by simp

theorem State.withBody_tod (c : Body) : (s.withBody c).dev.body.tod = c.tod := by simp

/-- An event of the Lamp page after a command. -/
theorem State.lamp_evt {c : Body} {n : Nat} (hn : n < 32) (h : c.rd Pg.lamp (evtPend n) = 1) : (s.withBody c).evt Pg.lamp n :=
  (State.withBody_evt hn (by decide)).mpr h

/-- A register of the Lamp page after a command. -/
theorem State.lamp_reg {c : Body} {f : Fld} (hf : f.lo < 32) (h : notedAt (f.addr Pg.lamp 0 0) = false) : (s.withBody c).reg Pg.lamp f = c.rd Pg.lamp f :=
  State.withBody_reg hf h

end

end Sys2Proof.Machine

namespace Sys2Proof

open Machine

/-- Settles O31: the operations of the time of day one by one. -/
theorem timeOfDay : Obligations.TimeOfDay := by
  unfold Obligations.TimeOfDay
  refine ⟨fun m v s hv ht => ?_, fun s hr => ?_, fun m s ht => ⟨fun hns => ?_, fun hns => ?_, fun hl => ?_, fun hl => ?_, ?_⟩, fun m s h hi => ?_,
    fun s hr => ?_, fun s hoff => ⟨fun href => ?_, fun hrun => ?_⟩⟩
  · exact ⟨_, exec_todPhaseAdj hv ht, by rw [State.withBody_lamp]; rfl, by simp [Body.todPhaseAdj], State.withBody_keeps ⟨fun _ _ _ _ _ _ _ => rfl, rfl, rfl, rfl⟩⟩
  · refine ⟨_, State.body_withBody rfl hr rfl, ?_, ?_⟩
    · rw [State.withBody_lamp]
      rfl
    · rw [State.withBody_lamp, State.withBody_tod]
      exact Body.todAdd_total _
  · obtain ⟨d, hd, he⟩ := exec_todStep ht
    obtain ⟨-, htod, -⟩ := Body.todCheck_rest (b := d)
    have hset : ∀ f ∈ [R.TOD_SET_NS, R.TOD_SET_SECHI, R.TOD_SET_SECLO], d.todCheck.rd Pg.lamp f = s.reg Pg.lamp f := fun f hf => by
      have hoff : f.lo < 32 ∧ 0x80 ≤ f.off ∧ f.off < 0x1000 ∧ f.off ≠ 0x80 := by revert f; decide
      rw [Body.todCheck_same ⟨hoff.1, hoff.2.1, hoff.2.2.1⟩ (.inl hoff.2.2.2)]
      exact hd.same _ _ _ _ hoff.1 (by rw [Fld.addr_zero]; simp only [Pg.lamp]; omega)
    obtain ⟨h1, h2⟩ := Body.todStepWrite_taken (b := d.todCheck) (by rw [hset _ (by simp)]; exact hns)
    rw [hset _ (by simp), hset _ (by simp), hset _ (by simp)] at h2
    exact ⟨_, he, by rw [State.withBody_lamp]; exact h1, by rw [State.withBody_tod]; exact h2⟩
  · obtain ⟨d, hd, he⟩ := exec_todStep ht
    obtain ⟨hlamp, htod, -⟩ := Body.todCheck_rest (b := d)
    have hset : d.todCheck.rd Pg.lamp R.TOD_SET_NS = s.reg Pg.lamp R.TOD_SET_NS :=
      (Body.todCheck_same (by decide) (by decide)).trans (hd.same _ _ _ _ (by decide) (by decide))
    rw [Body.todStepWrite_bad (by rw [hset]; exact hns)] at he
    refine ⟨_, he, ?_, ?_, State.lamp_evt (by decide) (Body.fire_pend _ (by decide) (by decide))⟩
    · rw [State.withBody_tod, (by simp : (d.todCheck.fire Pg.lamp R.LAMP_EVT_BADCFG).tod = d.todCheck.tod), htod, hd.only]
    · rw [State.withBody_lamp, (by simp : (d.todCheck.fire Pg.lamp R.LAMP_EVT_BADCFG).lamp = d.todCheck.lamp), hlamp, hd.only]
  · obtain ⟨d, hd, he⟩ := exec_todValidSet ht
    obtain ⟨h1, -, h3⟩ := Body.todValidSet_spec (b := d)
    exact ⟨_, he, (State.lamp_reg (by decide) (by decide)).trans (h1 ((shown_loss hd).trans hl)),
      State.withBody_keeps ((hd.keeps pageIs_lamp (by decide) (by simp)).trans h3)⟩
  · obtain ⟨d, hd, he⟩ := exec_todValidSet ht
    obtain ⟨-, h2, h3⟩ := Body.todValidSet_spec (b := d)
    exact ⟨_, he, (State.lamp_reg (by decide) (by decide)).trans (h2 ((shown_loss hd).trans hl)),
      State.withBody_keeps ((hd.keeps pageIs_lamp (by decide) (by simp)).trans h3)⟩
  · obtain ⟨d, hd, he⟩ := exec_todValidClr ht
    refine ⟨_, he, (State.lamp_reg (by decide) (by decide)).trans Body.todInvalid_valid,
      State.withBody_keeps ((hd.keeps pageIs_lamp (by decide) (by simp)).trans (Body.Keeps.refl d).todCheck.todInvalid), fun hv => ?_⟩
    exact State.lamp_evt (by decide) (Body.todValidClr_told ((hd.here (R.TOD_VALID, 0, 0) (by decide)).trans hv))
  · obtain ⟨v, he⟩ := exec_todReadLatch h hi
    refine ⟨_, he, ?_, State.withBody_keeps ⟨fun _ _ _ _ _ _ _ => rfl, rfl, rfl, rfl⟩⟩
    rw [Body.latched, State.withBody_lamp]
    exact Sp.get_set_self ..
  · intro b at_
    obtain ⟨h1, h2, h3, h4⟩ := Body.ppsIn_spec (b := b)
    refine ⟨⟨_, State.body_withBody rfl hr rfl, (State.lamp_reg (by decide) (by decide)).trans h1, (State.lamp_reg (by decide) (by decide)).trans h2, ?_,
      State.lamp_evt (by decide) h4⟩, fun hp => ⟨_, State.body_withBody rfl hr rfl, ?_, ?_, fun hq => ?_⟩, fun hp => ?_, fun hd => ?_, fun hd hon => ?_⟩
    · rw [State.withBody_lamp]
      exact h3
    · rw [State.withBody_lamp]
      exact (Body.ppsLoss_spec hp).1
    · exact State.lamp_evt (by decide) (Body.ppsLoss_spec hp).2.1
    · exact (State.lamp_reg (by decide) (by decide)).trans ((Body.ppsLoss_spec hp).2.2 hq)
    · have h : exec .ppsLoss s = .next (s.withBody s.dev.body) := State.body_withBody rfl hr (if_pos (by simp [show s.dev.body.passed Mk.pps 1100000000 = false from hp]))
      rw [h, State.withBody_self]
    · have h : exec .ppsOutEdge s = .next (s.withBody s.dev.body) := State.body_withBody rfl hr (if_pos (by simp [show s.dev.body.lamp.ppsDue = false from hd]))
      rw [h, State.withBody_self]
    · refine ⟨_, State.body_withBody rfl hr (Body.ppsOutEdge_on hd hon), ?_, ?_, State.withBody_keeps ⟨fun _ _ _ _ _ _ _ => rfl, rfl, rfl, rfl⟩⟩
      · rw [State.withBody_lamp]
      · rw [State.withBody_lamp]
  · obtain ⟨h1, h2, h3⟩ := Body.sysrefLoss_spec href
    exact ⟨_, State.lamp_withBody rfl (if_neg hoff), by rw [State.withBody_lamp]; exact h1, (State.lamp_reg (by decide) (by decide)).trans h2,
      State.lamp_evt (by decide) h3⟩
  · have hheld : ¬ (s.dev.body.sysrefReturn.sup.mode = .held ∧ s.dev.body.sysrefReturn.sup.released = true) := fun h => by
      have := h.1.symm.trans (show s.dev.body.sysrefReturn.sup.mode = .running from hrun)
      cases this
    refine ⟨s.withBody s.dev.body.sysrefReturn, State.always_withBody rfl ?_, ?_, State.withBody_keeps ⟨fun _ _ _ _ _ _ _ => rfl, rfl, rfl, rfl⟩⟩
    · rw [if_neg hoff]
      exact if_neg hheld
    · rw [State.withBody_lamp]
      rfl

end Sys2Proof
end

section
/-! O33: the power states of a Gallery (R291 to R297). -/

namespace Sys2Proof.Machine

theorem gal_page (g : Nat) : Pg.galPower g % 0x1000 = 0 ∧ 0x8000 ≤ Pg.galPower g := by unfold Pg.galPower Pg.gallery; omega

namespace Body

section
variable {b c : Body} {g : Nat}

/-! What sets a Gallery's state, and its step in force. -/

@[simp] theorem gp_setGp (x : GalPwr) : (b.setGp g x).gp g = x := Sp.get_set_self ..

theorem gp_of_lamp (h : c.lamp = b.lamp) : c.gp g = b.gp g := by rw [gp, h, gp]

theorem Keeps.setGp {ps : List Nat} {x : GalPwr} (h : Keeps ps b c) : Keeps ps b (c.setGp g x) := h.trans ⟨fun _ _ _ _ _ _ _ => rfl, rfl, rfl, rfl⟩

theorem Keeps.gpwr {ps : List Nat} {f : Fld} {v : Nat} (h : Keeps ps b c) (hp : Pg.galPower g ∈ ps) (hf : f.lo < 32 ∧ f.off < 0x1000) :
    Keeps ps b (c.gpwr g f v) := h.wrPage hp (gal_page g).1 hf

theorem Keeps.galSet {ps : List Nat} {st : Nat} (h : Keeps ps b c) (hp : Pg.galPower g ∈ ps) : Keeps ps b (c.galSet g st) :=
  h.setGp.gpwr hp (by decide)

theorem gprd_gpwr_self {f : Fld} {v : Nat} (hv : v < 2 ^ f.width) : (b.gpwr g f v).gprd g f = v :=
  (rd_wr_self ..).trans (Nat.mod_eq_of_lt hv)

theorem galState_galSet {st : Nat} (h : st < 16) : (b.galSet g st).galState g = st := gprd_gpwr_self (f := R.PG_PWR_STATE) h

theorem gprd_galSet {st : Nat} {f : Fld} (h : apart R.PG_PWR_STATE f = true) : (b.galSet g st).gprd g f = b.gprd g f :=
  rd_wr_apart h

/-- A Gallery set to a state keeps what is known of it, but for its voltage. -/
theorem gp_galSet (st : Nat) : ∃ vid, (b.galSet g st).gp g = { b.gp g with vid := vid } :=
  ⟨_, gp_setGp _⟩

/-- The step in force, by what bears on it (R292). -/
theorem stepInForce_lt (hcap : b.rd Pg.lamp R.TH_CAP < 4) : b.stepInForce g < 16 := by
  unfold stepInForce
  split_ifs <;> omega

theorem galState_fire {n : Nat} (hn : n < 32) : (b.fire (Pg.galPower g) n).galState g = b.galState g := by
  obtain ⟨h1, h2⟩ := gal_page g
  have ha : R.PG_PWR_STATE.addr (Pg.galPower g) 0 0 = Pg.galPower g + 0x18 := Fld.addr_zero ..
  exact rd_fire _ hn (by decide) (.inl (by omega)) (by omega) (by omega) (by omega)

/-- What is known of a resting Gallery that begins to wake (R293). -/
def galWoken (b : Body) (g : Nat) : GalPwr :=
  { b.gp g with left := b.galState g, since := b.clk, good := b.galState g == 4, late := false, withheld := (b.gp g).arm && b.galState g != 4,
                arm := (b.gp g).arm && b.galState g == 4 }

theorem wakeStart_eq (cause : Nat) (h4 : 4 ≤ b.galState g) (h6 : b.galState g ≤ 6) : ∃ sch, b.wakeStart g cause =
    ({ ((b.setGp g (b.galWoken g)).galSet g 7).gpwr g R.GAL_WAKE_CAUSE cause with sch := sch } : Body).count (Pg.galPower g) (GAL_WAKE_DOZE + (b.galState g - 4)) :=
  ⟨_, if_pos ⟨h4, h6⟩⟩

/-- A resting Gallery wakes (R293). -/
theorem wakeStart_spec (cause : Nat) (hc : cause < 16) (h4 : 4 ≤ b.galState g) (h6 : b.galState g ≤ 6) :
    (b.wakeStart g cause).galState g = 7 ∧ (b.wakeStart g cause).gprd g R.GAL_WAKE_CAUSE = cause ∧
    ((b.wakeStart g cause).gp g).left = b.galState g ∧ ((b.wakeStart g cause).gp g).since = b.clk ∧
    (b.wakeStart g cause).ctr (Pg.galPower g) (b.galState g - 4) = (b.ctr (Pg.galPower g) (b.galState g - 4) + 1) % 2 ^ 64 := by
  obtain ⟨sch, he⟩ := wakeStart_eq cause h4 h6
  obtain ⟨vid, hvid⟩ := gp_galSet (b := b.setGp g (b.galWoken g)) (g := g) 7
  rw [gp_setGp] at hvid
  rw [he]
  refine ⟨?_, gprd_gpwr_self (b := (b.setGp g (b.galWoken g)).galSet g 7) (f := R.GAL_WAKE_CAUSE) hc, congrArg GalPwr.left hvid, congrArg GalPwr.since hvid, ?_⟩
  · exact (rd_wr_apart (by decide)).trans (galState_galSet (by decide))
  · rw [show GAL_WAKE_DOZE + (b.galState g - 4) = b.galState g - 4 by unfold GAL_WAKE_DOZE; omega]
    exact ctr_count_same ..

theorem fault_lamp {p n : Nat} {x : FltInfo} : (b.fault p n x).lamp = b.lamp := by simp

/-- A late power-good is told, once (R296). -/
theorem wakeLate_spec : ((b.wakeLate g).gp g) = { b.gp g with late := true } ∧ (b.wakeLate g).galState g = b.galState g ∧
    ((b.gp g).late = false → (b.wakeLate g).rd (Pg.galPower g) (evtPend R.GAL_EVT_WAKE_LATE) = 1) := by
  unfold wakeLate
  dsimp only
  split_ifs with h
  · exact ⟨by rw [← h], rfl, fun h0 => by simp [h] at h0⟩
  · refine ⟨?_, galState_fire (by decide), fun _ => fire_pend _ (by decide) (gal_page g).1⟩
    rw [gp_of_lamp (fire_rest _ _ _).2.2.2.2.2.2.2.2.2.2.2.2.2.2.2.2.2.2.2.2.2.1]
    exact gp_setGp _

/-- Power-good of a waking Gallery (R295, R296). -/
theorem powerGood_spec (hst : b.galState g = 7) (hg : (b.gp g).good = false) (hw : (b.gp g).withheld = false) :
    ((b.powerGood g).gp g).good = true ∧ (b.powerGood g).galState g = 7 ∧
    ((b.gp g).since + 1200 < b.clk → (b.gp g).late = false → (b.powerGood g).rd (Pg.galPower g) (evtPend R.GAL_EVT_WAKE_LATE) = 1) := by
  obtain ⟨-, h2, h3⟩ := wakeLate_spec (b := b) (g := g)
  rw [powerGood, if_neg (by simp [hst, hg, hw])]
  have hstate : (if (b.gp g).since + 1200 < b.clk then b.wakeLate g else b).galState g = 7 := by
    split_ifs
    · rw [h2, hst]
    · exact hst
  refine ⟨congrArg GalPwr.good (gp_setGp _), hstate, fun hl h0 => ?_⟩
  · rw [if_pos hl]
    exact h3 h0

/-- Power-good that does not come (R296). -/
theorem powerGoodTimeout_spec (hst : b.galState g = 7) (hg : (b.gp g).good = false) (ht : (b.gp g).since + 10000 ≤ b.clk) :
    (b.powerGoodTimeout g).rd (Pg.galPower g) (fltStat R.GAL_FLT_PGOOD) = 1 ∧ ((b.powerGoodTimeout g).gp g).withheld = false ∧
    (b.powerGoodTimeout g).galState g = 7 := by
  obtain ⟨-, h2, -⟩ := wakeLate_spec (b := b) (g := g)
  rw [powerGoodTimeout, if_neg (by rw [hst, hg]; simp; omega)]
  refine ⟨fault_stat .., ?_, ?_⟩
  · exact congrArg GalPwr.withheld ((gp_of_lamp fault_lamp).trans (gp_setGp _))
  · exact (rd_fault_field _ (by decide) (by decide)).trans (h2.trans hst)

theorem Keeps.galBusy {ps : List Nat} (h : Keeps ps b c) : Keeps ps b (c.galBusy g) := h.trans ⟨fun _ _ _ _ _ _ _ => rfl, rfl, rfl, rfl⟩

/-- A Gallery idle for its time rests (R293, R294). -/
theorem restEntry_spec {r : Nat} (hst : b.galState g ≤ 3) (hq : b.gpReq g / 4 ≠ 0) (hi : b.idleLong g = true) (hr : b.restOf g (b.gpReq g / 4) = some r) :
    (b.restEntry g).galState g = r ∧ Keeps [Pg.galPower g] b (b.restEntry g) := by
  have hq16 : b.gpReq g < 2 ^ 4 := b.rd_lt (Pg.galPower g) R.PG_PWR_REQ 0 0
  have hmod : b.gpReq g / 4 % 4 = b.gpReq g / 4 := by omega
  have hr16 : r < 16 := by
    unfold restOf at hr
    split_ifs at hr <;> (cases hr; decide)
  unfold restEntry
  dsimp only
  rw [hmod, if_neg (by omega), if_neg (by simp [hi]), hr]
  dsimp only
  refine ⟨galState_galSet hr16, Keeps.galSet (Keeps.galBusy ?_) (by simp)⟩
  split_ifs
  · exact .refl b
  · exact (Keeps.refl b).fire (by decide) (gal_page g).1 (by simp)

theorem restEntry_idle (h : b.idleLong g = false ∨ b.restOf g (b.gpReq g / 4) = none) : b.restEntry g = b := by
  have hq16 : b.gpReq g < 2 ^ 4 := b.rd_lt (Pg.galPower g) R.PG_PWR_REQ 0 0
  have hmod : b.gpReq g / 4 % 4 = b.gpReq g / 4 := by omega
  unfold restEntry
  dsimp only
  rw [hmod]
  split_ifs with h1 h2
  · rfl
  · rw [h.resolve_left (by simp [h2])]
  · rfl

/-- The request of an active Gallery taken (R292). -/
theorem pwrReqTake_spec {v : Nat} (hv : v < 16) (hst : b.galState g ≤ 3) : (b.pwrReqTake g v).gprd g R.PG_PWR_REQ = v ∧
    (b.pwrReqTake g v).galState g = max (max (v % 4) (b.rd Pg.lamp R.TH_CAP)) (if b.rd Pg.lamp R.TH_THROTTLED = 1 then 3 else 0) ∧
    Keeps [Pg.galPower g] b (b.pwrReqTake g v) := by
  have hreq : (b.gpwr g R.PG_PWR_REQ v).gprd g R.PG_PWR_REQ = v := gprd_gpwr_self (f := R.PG_PWR_REQ) hv
  have hstate : (b.gpwr g R.PG_PWR_REQ v).galState g = b.galState g := rd_wr_apart (by decide)
  have hlamp : ∀ f : Fld, f.lo < 32 → f.off < 0x1000 → (b.gpwr g R.PG_PWR_REQ v).rd Pg.lamp f = b.rd Pg.lamp f := fun f hf ho =>
    rd_wr_ne _ _ (by decide) hf (.inl (by have := (gal_page g).2; rw [Fld.addr_zero, Fld.addr_zero]; simp only [Pg.lamp]; omega))
  generalize hd : b.gpwr g R.PG_PWR_REQ v = d at hreq hstate hlamp
  have hkeep : Keeps [Pg.galPower g] b d := hd ▸ (Keeps.refl b).gpwr (by simp) (by decide)
  generalize hx : ({ d.gp g with boost := false } : GalPwr) = x
  have hforce : (d.setGp g x).stepInForce g = max (max (v % 4) (b.rd Pg.lamp R.TH_CAP)) (if b.rd Pg.lamp R.TH_THROTTLED = 1 then 3 else 0) := by
    have hboost : ((d.setGp g x).gp g).boost = false := by rw [gp_setGp, ← hx]
    have hthr : (d.setGp g x).throttled = (b.rd Pg.lamp R.TH_THROTTLED == 1) := congrArg (· == 1) (hlamp R.TH_THROTTLED (by decide) (by decide))
    rw [stepInForce, hboost, hthr, show (d.setGp g x).gpReq g = v from hreq,
      show (d.setGp g x).rd Pg.lamp R.TH_CAP = b.rd Pg.lamp R.TH_CAP from hlamp R.TH_CAP (by decide) (by decide)]
    simp
  have hlt : (d.setGp g x).stepInForce g < 16 := stepInForce_lt ((d.setGp g x).rd_lt Pg.lamp R.TH_CAP 0 0)
  have he : b.pwrReqTake g v = (d.setGp g x).galSet g ((d.setGp g x).stepInForce g) := by
    have h3 : (d.setGp g x).galState g ≤ 3 := by rw [show (d.setGp g x).galState g = d.galState g from rfl, hstate]; exact hst
    rw [pwrReqTake, hd]
    dsimp only
    rw [if_neg (by omega), if_pos (by omega), hx, stepUpdate, if_pos h3]
  rw [he]
  exact ⟨(gprd_galSet (by decide)).trans hreq, (galState_galSet hlt).trans hforce, hkeep.setGp.galSet (by simp)⟩

/-- The woken Gallery is ready (R295). -/
theorem wakeDone_spec (hst : b.galState g = 7) (hgood : (b.gp g).good = true) (hdue : (b.gp g).resetDue = false) :
    (b.wakeDone g).galState g = max (max (if ((b.gp g).boost || (b.gp g).left != 4) && (b.gp g).held.isNone then 0 else b.gpReq g % 4) (b.rd Pg.lamp R.TH_CAP))
      (if b.rd Pg.lamp R.TH_THROTTLED = 1 then 3 else 0) ∧
    (b.wakeDone g).gprd g R.GAL_WAKE_MAX = max (b.gprd g R.GAL_WAKE_MAX) (min (b.clk - (b.gp g).since) 0xFFFFFFFF) ∧
    Sp.get 0 (b.wakeDone g).cairn.galTag g = b.cairn.flips := by
  rw [wakeDone, if_neg (by simp [hst, hgood])]
  dsimp only
  rw [if_neg (by simp [hdue])]
  generalize hx : ({ b.gp g with left := 0, boost := ((b.gp g).boost || (b.gp g).left != 4) && (b.gp g).held.isNone, held := none, resetDue := false } : GalPwr) = x
  generalize hd : b.setGp g x = d
  have hforce : d.stepInForce g = max (max (if ((b.gp g).boost || (b.gp g).left != 4) && (b.gp g).held.isNone then 0 else b.gpReq g % 4) (b.rd Pg.lamp R.TH_CAP))
      (if b.rd Pg.lamp R.TH_THROTTLED = 1 then 3 else 0) := by
    have hboost : (d.gp g).boost = (((b.gp g).boost || (b.gp g).left != 4) && (b.gp g).held.isNone) := by rw [← hd, gp_setGp, ← hx]
    have hthr : d.throttled = (b.rd Pg.lamp R.TH_THROTTLED == 1) := by rw [← hd]; rfl
    rw [stepInForce, hboost, hthr, show d.gpReq g = b.gpReq g by rw [← hd]; rfl, show d.rd Pg.lamp R.TH_CAP = b.rd Pg.lamp R.TH_CAP by rw [← hd]; rfl]
    simp
  have hlt : d.stepInForce g < 16 := stepInForce_lt (d.rd_lt Pg.lamp R.TH_CAP 0 0)
  have hcairn : d.cairn = b.cairn := by rw [← hd]; rfl
  have hmax : d.gprd g R.GAL_WAKE_MAX = b.gprd g R.GAL_WAKE_MAX := by rw [← hd]; rfl
  have hold : b.gprd g R.GAL_WAKE_MAX < 2 ^ 32 := b.rd_lt (Pg.galPower g) R.GAL_WAKE_MAX 0 0
  have hclk : d.clk = b.clk := by rw [← hd]; rfl
  rw [hclk]
  have hset := galState_galSet (b := d) (g := g) hlt
  have hcairn' : (d.galSet g (d.stepInForce g)).cairn = b.cairn := hcairn
  generalize d.galSet g (d.stepInForce g) = e at hset hcairn'
  generalize hm : max (d.gprd g R.GAL_WAKE_MAX) (min (b.clk - (b.gp g).since) 0xFFFFFFFF) = v
  have hv : v < 2 ^ R.GAL_WAKE_MAX.width := by rw [← hm, hmax]; exact Nat.max_lt.mpr ⟨hold, (Nat.min_le_right _ _).trans_lt (by decide)⟩
  have hwake := gprd_gpwr_self (b := e) (g := g) hv
  have hstate : (e.gpwr g R.GAL_WAKE_MAX v).galState g = e.galState g := rd_wr_apart (by decide)
  have hcw : (e.gpwr g R.GAL_WAKE_MAX v).cairn = b.cairn := hcairn'
  generalize e.gpwr g R.GAL_WAKE_MAX v = w at hwake hstate hcw
  have hend := fun (c : Body) (f : Fld) => (govEnd_keeps (b := c) LOOP_POWER g (by decide)).aside (q := Pg.galPower g) (g := f) (gal_page g)
  refine ⟨?_, ?_, ?_⟩
  · exact (hend _ _ (by decide)).trans (hstate.trans (hset.trans hforce))
  · rw [← hmax, hm]
    exact (hend _ _ (by decide)).trans hwake
  · rw [(offside_eq (offside_govEnd _ _ _)).2.2.2.1, hcw]
    exact Sp.get_set_self ..

end

end Body

section
variable {s : State} {g : Nat}

theorem State.withBody_gp (c : Body) : (s.withBody c).dev.body.gp g = c.gp g := Body.gp_of_lamp (State.withBody_lamp c)

theorem State.gal_reg {c : Body} {f : Fld} (hf : f.lo < 32) : (s.withBody c).reg (Pg.galPower g) f = c.gprd g f :=
  State.withBody_page (gal_page g).2 hf

theorem galOf_galPower (g : Nat) : galOf (Pg.galPower g) = g := by
  have h : Pg.galPower g = 0x00100000 + 0x00100000 * g + 0x1000 := rfl
  rw [h, galOf]
  omega

/-- A write of PG_PWR of a page, by its kind. -/
theorem Body.hdrStore_pwr {b : Body} {m req a p : Nat} {k : PK} (hk : kindAt a = some k) (hm : a % 0x1000 = 0x18) (hp : pageOf a = p) :
    b.hdrStore m a req = b.pwrStore m p req k := by
  unfold Body.hdrStore
  dsimp only
  rw [hk, hp]
  dsimp only
  rw [hm]
  rfl

theorem Body.pwrStore_galPower {b : Body} {m req : Nat} (hq : req < 16) :
    (b.pwrStore m (Pg.galPower g) req .galPower).1 = b.galleryPowerRequest g m req := by
  have h : (b.pwrStore m (Pg.galPower g) req .galPower).1 = b.galleryPowerRequest (galOf (Pg.galPower g)) m (req % 16) := rfl
  rw [h, galOf_galPower, Nat.mod_eq_of_lt hq]

theorem Dev.write_galPower {m req : Nat} (hg : g < 8) (hq : req < 16) (h : s.reaches m (Pg.galPower g + 0x18)) :
    s.dev.write m (Pg.galPower g + 0x18) req = { s.dev with body := s.dev.body.galleryPowerRequest g m req } := by
  have hp := pageIs_galPower hg
  rw [Dev.write_header req h hp (by decide) (by decide) (by decide),
    Body.hdrStore_pwr (hp.kindAt (off := 0x18) (by decide)) (hp.mod (off := 0x18) (by decide)) (hp.pageOf (off := 0x18) (by decide)),
    Body.pwrStore_galPower hq]

/-- A write of PG_PWR_REQ of a Gallery. -/
theorem exec_galleryPowerRequest {m req : Nat} (hg : g < 8) (hq : req < 16) (h : s.reaches m (Pg.galPower g + 0x18)) :
    exec (.galleryPowerRequest g m req) s = .next (s.withBody (s.dev.body.galleryPowerRequest g m req)) :=
  State.live_withBody (by rw [h.known, decide_eq_true hg, decide_eq_true hq]; rfl) h.runs (Dev.write_galPower hg hq h)

end

end Sys2Proof.Machine

namespace Sys2Proof

open Machine

/-- Settles O33: the operations on a Gallery's power one by one. -/
theorem galleryPowerStates : Obligations.GalleryPowerStates := by
  unfold Obligations.GalleryPowerStates
  intro g s hg b p x st
  refine ⟨fun m req hq h => ⟨fun ho => ?_, fun ho henv hst => ?_⟩, fun hr hst hq => ⟨fun r hi hrest => ?_, fun h => ?_⟩, fun cause hw => ?_,
    fun cause hr hw h4 h6 => ?_, fun hr hst hgood => ⟨fun hw => ?_, fun ht => ?_, fun ht => ?_⟩, fun hr hst hgood hdue => ?_⟩
  · refine ⟨_, exec_galleryPowerRequest hg hq h, ?_⟩
    have he : s.dev.body.galleryPowerRequest g m req = s.dev.body.fire Pg.governor R.GOV_EVT_OWNER := if_pos ho
    rw [he]
    have hsame := fun f => ((Body.Keeps.refl s.dev.body).fire (p := Pg.governor) (n := R.GOV_EVT_OWNER) (by decide) (by decide)
      (List.mem_singleton_self _)).aside (q := Pg.galPower g) (g := f) (gal_page g)
    exact ⟨(State.withBody_evt (by decide) (by decide)).mpr (Body.fire_pend _ (by decide) (by decide)), (State.gal_reg (by decide)).trans (hsame _ (by decide)),
      (State.gal_reg (by decide)).trans (hsame _ (by decide))⟩
  · obtain ⟨h1, h2, h3⟩ := Body.pwrReqTake_spec (b := b) (g := g) hq hst
    have he : s.dev.body.galleryPowerRequest g m req = s.dev.body.pwrReqTake g req := by
      unfold Body.galleryPowerRequest
      dsimp only
      rw [Nat.mod_eq_of_lt hq, if_neg (by simp [show s.dev.body.ownerRefuses LOOP_POWER m = false from ho]), if_neg]
      rintro ⟨h1, h2⟩
      rcases henv with h | ⟨h3, h4⟩
      · exact h1 h
      · exact h2.elim (Nat.not_lt.mpr h3) (Nat.not_lt.mpr h4)
    exact ⟨_, exec_galleryPowerRequest hg hq h, by rw [he]; exact (State.gal_reg (by decide)).trans h1, by rw [he]; exact (State.gal_reg (by decide)).trans h2,
      by rw [he]; exact State.withBody_keeps h3⟩
  · obtain ⟨h1, h2⟩ := Body.restEntry_spec (b := b) (g := g) hst hq hi hrest
    exact ⟨_, State.body_withBody (decide_eq_true hg) hr rfl, (State.gal_reg (by decide)).trans h1, State.withBody_keeps h2⟩
  · have he : exec (.galleryRestEntry g) s = .next (s.withBody s.dev.body) := State.body_withBody (decide_eq_true hg) hr (Body.restEntry_idle h)
    rw [he, State.withBody_self]
  · by_cases hr : s.runs []
    · by_cases hok : (decide (g < 8) && decide (1 ≤ cause ∧ cause ≤ 4)) = true
      · have he : exec (.galleryWake g cause) s = .next (s.withBody s.dev.body) := State.body_withBody hok hr (if_neg (by simp [show s.dev.body.wakeSource g cause = false from hw]))
        rw [he, State.withBody_self]
      · exact s.live_stands _ (.inl (by simpa using hok))
    · exact s.live_stands _ (.inr (by simpa [State.runs] using hr))
  · have hc : 1 ≤ cause ∧ cause ≤ 4 := by
      unfold Body.wakeSource at hw
      split at hw
      iterate 4 omega
      exact absurd hw Bool.false_ne_true
    obtain ⟨h1, h2, h3, h4', h5⟩ := Body.wakeStart_spec (b := b) (g := g) cause (by omega) h4 h6
    refine ⟨_, State.body_withBody (by rw [decide_eq_true hg, decide_eq_true hc]; rfl) hr (if_pos hw), (State.gal_reg (by decide)).trans h1, (State.gal_reg (by decide)).trans h2, ?_, ?_, ?_⟩
    · rw [State.withBody_gp]
      exact h3
    · rw [State.withBody_gp]
      exact h4'
    · rw [State.withBody_ctr]
      exact h5
  · obtain ⟨h1, h2, h3⟩ := Body.powerGood_spec (b := b) hst hgood hw
    exact ⟨_, State.body_withBody (decide_eq_true hg) hr rfl, by rw [State.withBody_gp]; exact h1, (State.gal_reg (by decide)).trans h2,
      fun hl h0 => State.withBody_page_evt (gal_page g).2 (by decide) (h3 hl h0)⟩
  · have he : exec (.powerGoodTimeout g) s = .next (s.withBody s.dev.body) :=
      State.body_withBody (decide_eq_true hg) hr (if_pos (.inr (.inr ht)))
    rw [he, State.withBody_self]
  · obtain ⟨h1, h2, h3⟩ := Body.powerGoodTimeout_spec (b := b) hst hgood ht
    exact ⟨_, State.body_withBody (decide_eq_true hg) hr rfl, State.withBody_page_flt (gal_page g).2 (by decide) h1, by rw [State.withBody_gp]; exact h2,
      (State.gal_reg (by decide)).trans h3⟩
  · obtain ⟨h1, h2, h3⟩ := Body.wakeDone_spec (b := b) hst hgood hdue
    refine ⟨_, State.body_withBody (decide_eq_true hg) hr rfl, (State.gal_reg (by decide)).trans h1, (State.gal_reg (by decide)).trans h2, ?_⟩
    rw [(by simp : ∀ c : Body, (s.withBody c).dev.body.cairn = c.cairn)]
    exact h3

end Sys2Proof
end

section
/-! O32: clock domains, comparators and sensors (R287 to R290, R310 to R317). -/

namespace Sys2Proof.Machine

namespace Body

section
variable {b c : Body} {d n : Nat}

/-! The loss of a PLL's lock (R287, R317). -/

/-- The detector of a domain's PLL, with its event and its fault. -/
def pllSeen (b : Body) (d : Nat) (x : FltInfo) : Body :=
  ((b.wr Pg.clocks R.CLK_LOL_SEEN 1 d).fault Pg.clocks R.CLK_FLT_LOL x).fire Pg.clocks R.CLK_EVT_LOL

theorem pllSeen_spec (hd : d < 18) (x : FltInfo) : (b.pllSeen d x).rd Pg.clocks R.CLK_LOL_SEEN d = 1 ∧
    (b.pllSeen d x).rd Pg.clocks (evtPend R.CLK_EVT_LOL) = 1 ∧ (b.pllSeen d x).rd Pg.clocks (fltStat R.CLK_FLT_LOL) = 1 ∧
    Keeps [Pg.clocks] b (b.pllSeen d x) ∧ (b.pllSeen d x).lamp = b.lamp := by
  have ha : R.CLK_LOL_SEEN.addr Pg.clocks d 0 = 0x1080 + 4 * d := by simp only [Fld.addr, R.CLK_LOL_SEEN, Pg.clocks]; omega
  refine ⟨?_, fire_pend _ (by decide) (by decide), ?_, ?_, by simp [pllSeen]⟩
  · unfold pllSeen
    rw [rd_fire _ (by decide) (by decide) (.inl (by rw [ha]; simp only [Pg.clocks]; omega)) (by rw [ha]; simp only [Pg.clocks]; omega) (by omega) (by omega),
      rd_fault _ _ (by decide) (by decide) (.inl (by rw [ha]; simp only [Pg.clocks]; omega))]
    exact rd_wr_self ..
  · exact (rd_fire _ (by decide) (by decide) (.inl (by decide)) (by decide) (by decide) (by decide)).trans (fault_stat ..)
  · refine Keeps.fire (Keeps.fault (Keeps.wr (.refl b) (by decide) ?_) (by decide) (by decide) (by simp)) (by decide) (by decide) (by simp)
    rw [ha, List.mem_singleton]
    simp only [pageOf, Pg.clocks]
    omega

theorem pllLoss_eq (h1 : 1 ≤ d) (h2 : d < 18) (h : d < 5 ∨ 12 < d) : b.pllLoss d =
    { b.pllSeen d { detail := d } with lamp := { (b.pllSeen d { detail := d }).lamp with lost := insertNat d (b.pllSeen d { detail := d }).lamp.lost } } := by
  unfold pllLoss
  rw [if_neg (by omega)]
  dsimp only
  rw [if_neg (by omega)]
  rfl

/-- A Gallery whose PLL loses lock wakes anew (R287). -/
theorem pllLoss_gallery (h1 : 5 ≤ d) (h2 : d ≤ 12) : (b.pllLoss d).galState (d - 5) = 7 ∧ (b.pllLoss d).gprd (d - 5) R.GAL_WAKE_CAUSE = 7 := by
  unfold pllLoss
  rw [if_neg (by omega)]
  dsimp only
  rw [if_pos ⟨h1, h2⟩]
  generalize galReset _ (d - 5) = e
  have hst : (e.galSet (d - 5) 6).galState (d - 5) = 6 := galState_galSet (by decide)
  obtain ⟨h3, h4, -⟩ := wakeStart_spec (b := e.galSet (d - 5) 6) (g := d - 5) 7 (by decide) (by omega) (by omega)
  exact ⟨h3, h4⟩

theorem clkInject_eq (h1 : 1 ≤ b.rd Pg.clocks R.CLK_INJ_DOM) (h2 : b.rd Pg.clocks R.CLK_INJ_DOM < 18)
    (h : b.rd Pg.clocks R.CLK_INJ_DOM < 5 ∨ 12 < b.rd Pg.clocks R.CLK_INJ_DOM) :
    b.clkInject = b.pllSeen (b.rd Pg.clocks R.CLK_INJ_DOM) { detail := b.rd Pg.clocks R.CLK_INJ_DOM, inj := true } := by
  unfold clkInject
  dsimp only
  rw [if_neg (by omega), if_neg (by omega)]
  rfl

theorem clkRuns_lost (hd : d ≠ 0) (h : d ∈ b.lamp.lost) : b.clkRuns d = false := by
  rw [clkRuns, if_neg hd, List.contains_iff_mem.mpr h]
  simp

/-! The comparators (R289, R290). -/

/-- What the Galleries' power leaves alone: the entries, what the Lamp has counted, and the registers below the Galleries. -/
structure PowerSame (b c : Body) : Prop where
  tbls : c.tbls = b.tbls
  run : c.lamp.run = b.lamp.run
  low : ∀ f : Fld, f.lo < 32 → f.off < 0x1000 → c.rd Pg.lamp f = b.rd Pg.lamp f

namespace PowerSame

theorem refl (b : Body) : PowerSame b b := ⟨rfl, rfl, fun _ _ _ => rfl⟩

theorem trans {e : Body} (h : PowerSame b c) (h' : PowerSame c e) : PowerSame b e :=
  ⟨h'.tbls.trans h.tbls, h'.run.trans h.run, fun f h1 h2 => (h'.low f h1 h2).trans (h.low f h1 h2)⟩

theorem gpwr (g v : Nat) {f : Fld} (hf : f.lo < 32) : PowerSame b (b.gpwr g f v) :=
  ⟨rfl, rfl, fun f' h1 h2 => rd_wr_ne _ _ hf h1 (.inl (by have := (gal_page g).2; rw [Fld.addr_zero, Fld.addr_zero]; simp only [Pg.lamp]; omega))⟩

theorem galSet (g st : Nat) : PowerSame b (b.galSet g st) :=
  PowerSame.trans (c := b.setGp g _) ⟨rfl, rfl, fun _ _ _ => rfl⟩ (gpwr g st (by decide))

theorem stepAll : PowerSame b b.stepAll := by
  have hstep : ∀ (c : Body) g, PowerSame c (c.stepUpdate g) := fun c g => by
    unfold stepUpdate
    split_ifs
    · exact galSet ..
    · exact refl c
  exact foldl_keeps (PowerSame b) _ (fun c g h => h.trans (hstep c g)) _ _ (refl b)

theorem wakeStart (g cause : Nat) : PowerSame b (b.wakeStart g cause) := by
  by_cases h : 4 ≤ b.galState g ∧ b.galState g ≤ 6
  · obtain ⟨sch, he⟩ := wakeStart_eq (b := b) (g := g) cause h.1 h.2
    rw [he]
    refine PowerSame.trans (c := ((b.setGp g (b.galWoken g)).galSet g 7).gpwr g R.GAL_WAKE_CAUSE cause) ?_ ⟨rfl, rfl, fun _ _ _ => rfl⟩
    exact PowerSame.trans (PowerSame.trans (c := b.setGp g (b.galWoken g)) ⟨rfl, rfl, fun _ _ _ => rfl⟩ (galSet g 7)) (gpwr g cause (by decide))
  · rw [Body.wakeStart, if_neg h]
    exact refl b

end PowerSame

theorem todInvalid_tbls : b.todInvalid.tbls = b.tbls := by
  unfold todInvalid
  split_ifs
  · simp
  · rfl

/-- The action of a comparator writes no entry (R290). -/
theorem glwAction_tbls (n e : Nat) : (b.glwAction n e).tbls = b.tbls := by
  unfold glwAction
  split
  · exact (PowerSame.wakeStart ..).tbls
  · dsimp only
    split_ifs
    · refine (PowerSame.wakeStart ..).tbls.trans ?_
      simp [setGp]
    · refine Eq.trans ?_ ((fire_rest b (Pg.galPower (n - 8)) R.GAL_EVT_BOOST).2.2.2.2.1)
      unfold stepUpdate
      split_ifs
      · refine (PowerSame.galSet ..).tbls.trans ?_
        simp [setGp]
      · simp [setGp]
  · exact PowerSame.stepAll.tbls.trans (by simp)
  · exact todInvalid_tbls.trans rfl
  · dsimp only
    split_ifs <;> simp

theorem glwFired_tbls (n : Nat) : (b.glwFired n).tbls = b.tbls := by
  unfold glwFired
  split_ifs <;> rfl

/-- A comparator that trips: its entry, and what its action does (R289, R290). -/
theorem glwFire_spec (n : Nat) : (b.glwFire n).ent Tbl.glow n = setBitField (setBitField (b.ent Tbl.glow n) 159 128 (glwFires (b.ent Tbl.glow n) + 1)) 254 254 1 ∧
    ∀ j, j ≠ n → (b.glwFire n).ent Tbl.glow j = b.ent Tbl.glow j := by
  have h : ∀ j, (b.glwFire n).ent Tbl.glow j =
      (b.setEnt Tbl.glow n (setBitField (setBitField (b.ent Tbl.glow n) 159 128 (glwFires (b.ent Tbl.glow n) + 1)) 254 254 1)).ent Tbl.glow j := fun j => by
    rw [ent, glwFire, glwAction_tbls, glwMark, glwFired_tbls, ← ent]
  refine ⟨(h n).trans (ent_setEnt_self ..), fun j hj => (h j).trans (ent_setEnt_ne ?_)⟩
  unfold entKey
  omega

theorem glwTrip_due {e : Nat} (hn : n < 64) (he : b.ent Tbl.glow n = e) (hm : b.sup.mode = .running) (hl : b.sup.lampOnly = false) (hv : glwValid e = true)
    (ht : glwTripped e = false) (hd : glwDebounce e < Sp.get 0 b.lamp.run n) : b.glwTrip n = b.glwFire n := by
  unfold glwTrip
  rw [he]
  dsimp only
  rw [if_neg (by simp [hv, ht]; omega), if_neg (by simp [hm]), if_neg (by simp [hl])]
  simp [hd]

/-- What the actions that the Lamp itself takes come to (R290). -/
theorem glwAction_spec (n e : Nat) : (glwAct e = 0 ∨ glwAct e = 1 → (b.glwAction n e).rd Pg.lamp (evtPend R.LAMP_EVT_GLW) = 1) ∧
    (glwAct e = 1 → (b.glwAction n e).rd Pg.lamp (fltStat R.GLW_FLT_TRIP) = 1) ∧
    (glwAct e = 10 → (b.glwAction n e).rd Pg.lamp R.TH_THROTTLED = 1) ∧
    (glwAct e = 11 → (b.glwAction n e).sup.mode = .tripped ∧ (b.glwAction n e).rd Pg.lamp R.TH_TRIP_LAST = 1) := by
  have h0 : (b.fire Pg.lamp R.LAMP_EVT_GLW).rd Pg.lamp (evtPend R.LAMP_EVT_GLW) = 1 := fire_pend _ (by decide) (by decide)
  refine ⟨fun h => ?_, fun h => ?_, fun h => ?_, fun h => ?_⟩
  · rcases h with h | h
    · simp only [glwAction, h]
      exact h0
    · simp only [glwAction, h]
      exact (rd_fault _ _ (by decide) (by decide) (.inl (by decide))).trans h0
  · simp only [glwAction, h]
    exact fault_stat ..
  · simp only [glwAction, h]
    refine (PowerSame.stepAll.low R.TH_THROTTLED (by decide) (by decide)).trans ?_
    rw [rd_fire _ (by decide) (by decide) (.inl (by decide)) (by decide) (by decide) (by decide)]
    exact rd_wr_self ..
  · simp only [glwAction, h]
    exact b.thermTrip_spec false

/-- A comparator that re-arms (R289, R313). -/
theorem glwRearm_spec {e : Nat} (hn : n < 64) (he : b.ent Tbl.glow n = e) (hv : glwValid e = true) (ht : glwTripped e = true) (hsrc : 16 ≤ glwSrc e)
    (hback : glwBack e (glwValue e) = true) : (b.glwRearm n).ent Tbl.glow n = setBitField e 254 254 0 ∧
    (∀ j, j ≠ n → (b.glwRearm n).ent Tbl.glow j = b.ent Tbl.glow j) ∧ Sp.get 0 (b.glwRearm n).lamp.run n = 0 ∧
    (glwAct e = 10 → (b.glwRearm n).rd Pg.lamp R.TH_THROTTLED = 0) := by
  have hlive : b.glwLive (glwSrc e) = none := by
    unfold glwLive
    rw [if_neg (by omega), if_neg (by omega)]
  generalize hd : ({ b.setEnt Tbl.glow n (setBitField e 254 254 0) with lamp := { b.lamp with run := Sp.set 0 b.lamp.run n 0 } } : Body) = d
  have hrearm : b.glwRearm n = if glwAct e = 10 then (d.wr Pg.lamp R.TH_THROTTLED 0).stepAll else d := by
    unfold glwRearm
    rw [he]
    dsimp only
    rw [if_neg (by simp [hv, ht]; omega), hlive]
    dsimp only
    rw [he, if_neg (by simp [hback]), ← hd]
  have hsame : PowerSame (if glwAct e = 10 then d.wr Pg.lamp R.TH_THROTTLED 0 else d) (b.glwRearm n) := by
    rw [hrearm]
    split_ifs
    · exact PowerSame.stepAll
    · exact .refl d
  have hrest : (if glwAct e = 10 then d.wr Pg.lamp R.TH_THROTTLED 0 else d).tbls = d.tbls ∧
      (if glwAct e = 10 then d.wr Pg.lamp R.TH_THROTTLED 0 else d).lamp = d.lamp := by
    split_ifs
    · exact ⟨rfl, rfl⟩
    · exact ⟨rfl, rfl⟩
  have htbls : (b.glwRearm n).tbls = (b.setEnt Tbl.glow n (setBitField e 254 254 0)).tbls := hsame.tbls.trans (hrest.1.trans (by rw [← hd]))
  have hrun : (b.glwRearm n).lamp.run = Sp.set 0 b.lamp.run n 0 := hsame.run.trans ((congrArg LampSt.run hrest.2).trans (by rw [← hd]))
  have hent : ∀ j, (b.glwRearm n).ent Tbl.glow j = (b.setEnt Tbl.glow n (setBitField e 254 254 0)).ent Tbl.glow j := fun j => by
    rw [ent, htbls, ← ent]
  refine ⟨(hent n).trans (ent_setEnt_self ..), fun j hj => (hent j).trans (ent_setEnt_ne ?_), ?_, fun ha => ?_⟩
  · unfold entKey
    omega
  · rw [hrun]
    exact Sp.get_set_self ..
  · refine (hsame.low R.TH_THROTTLED (by decide) (by decide)).trans ?_
    rw [if_pos ha]
    exact rd_wr_self ..

/-! Sensors (R310, R311). -/

/-- The samples leave the registers between two addresses of the Lamp's page. -/
def LampSame (lo hi : Nat) (b c : Body) : Prop := ∀ (f : Fld) (i : Nat), f.lo < 32 → lo ≤ f.addr Pg.lamp i 0 → f.addr Pg.lamp i 0 < hi →
  c.rd Pg.lamp f i = b.rd Pg.lamp f i

namespace LampSame
variable {lo hi : Nat}

theorem refl (b : Body) : LampSame lo hi b b := fun _ _ _ _ _ => rfl

theorem trans {e : Body} (h : LampSame lo hi b c) (h' : LampSame lo hi c e) : LampSame lo hi b e :=
  fun f i h1 h2 h3 => (h' f i h1 h2 h3).trans (h f i h1 h2 h3)

theorem of_regs (h : c.regs = b.regs) : LampSame lo hi b c := fun f i _ _ _ => by rw [rd, h, rd]

theorem wr {f : Fld} {i v : Nat} (hf : f.lo < 32) (ha : f.addr Pg.lamp i 0 < lo ∨ hi ≤ f.addr Pg.lamp i 0) : LampSame lo hi b (b.wr Pg.lamp f v i) :=
  fun g j h1 h2 h3 => rd_wr_ne _ _ hf h1 (.inl (by omega))

theorem fault {p n : Nat} (x : FltInfo) (hn : n < 32) (hp : p + 0x40 < lo ∨ hi ≤ p + 0x40) : LampSame lo hi b (b.fault p n x) :=
  fun g j h1 h2 h3 => rd_fault _ _ hn h1 (.inl (by omega))

theorem fireLasting {p n : Nat} (hn : n < 32) (hp : p + 0x30 < lo ∨ hi ≤ p + 0x20) (h1 : hi ≤ 0x40A4) : LampSame lo hi b (b.fireLasting p n) := by
  unfold Body.fireLasting
  split_ifs
  · exact refl b
  · exact fun g j h2 h3 h4 => rd_fire _ hn h2 (.inl (by omega)) (by omega) (by omega) (by omega)

/-- A sample of a comparator changes its entry and its run alone (R289). -/
theorem glwSample_cases (c : Body) (n : Nat) (v : Int) : c.glwSample n v = c ∨ ∃ x l, c.glwSample n v = { c.setEnt Tbl.glow n x with lamp := l } := by
  by_cases h : glwValid (c.ent Tbl.glow n) = true
  · exact .inr ⟨_, _, if_neg (not_not.mpr h)⟩
  · exact .inl (if_pos h)

theorem glwSample_regs (c : Body) (n : Nat) (v : Int) : (c.glwSample n v).regs = c.regs := by
  rcases glwSample_cases c n v with h | ⟨x, l, h⟩
  · rw [h]
  · rw [h]
    rfl

theorem glwSource (src : Nat) (v : Int) : LampSame lo hi b (b.glwSource src v) := by
  refine of_regs ?_
  unfold Body.glwSource
  refine foldl_same Body.regs (fun (b : Body) n => if glwSrc (b.ent Tbl.glow n) = src then b.glwSample n v else b) (fun c n => ?_) _ b
  split_ifs
  · exact glwSample_regs c n v
  · rfl

theorem foldl {f : Body → Nat → Body} (l : List Nat) (h : ∀ c, ∀ x ∈ l, LampSame lo hi c (f c x)) : ∀ b, LampSame lo hi b (l.foldl f b) := by
  induction l with
  | nil => exact fun b => refl b
  | cons x l ih => exact fun b => (h b x List.mem_cons_self).trans (ih (fun c y hy => h c y (List.mem_cons_of_mem _ hy)) _)

end LampSame

theorem glwSource_sup (src : Nat) (v : Int) : (b.glwSource src v).sup = b.sup := by
  unfold glwSource
  refine foldl_same Body.sup (fun (b : Body) n => if glwSrc (b.ent Tbl.glow n) = src then b.glwSample n v else b) (fun c n => ?_) _ b
  split_ifs
  · rcases LampSame.glwSample_cases c n v with h | ⟨x, l, h⟩
    · rw [h]
    · rw [h]
      rfl
  · rfl

/-- The two fields of a row of sensors: whether each reads, and its reading. -/
def rowOk (ok val : Fld) : Bool :=
  decide (ok.off = val.off ∧ ok.stride = 4 ∧ val.stride = 4 ∧ ok.lo = 31 ∧ val.lo = 0 ∧ ok.width = 1 ∧ val.width = 16 ∧ 0x100 ≤ ok.off)

/-- One of a row of sensors reads a value, or fails its self-check (R310). -/
def rowSample (b : Body) (ok val : Fld) (i detail src : Nat) (w : Int) (x : Option Nat) : Body :=
  match x with
  | none => (b.wr Pg.lamp ok 0 i).fault Pg.lamp R.TH_FLT_SENSOR { detail := detail }
  | some v => ((b.wr Pg.lamp ok 1 i).wr Pg.lamp val v i).glwSource src w

theorem tempSample_row (i : Nat) (x : Option Nat) : b.tempSample i x = b.rowSample R.TEMP_OK R.TEMP i i (0x10 + i) (signed 16 (x.getD 0)) x := by
  cases x <;> rfl

theorem voltSample_row (i : Nat) (x : Option Nat) :
    b.voltSample i x = b.rowSample R.VMON_OK R.VMON i (24 + i) (0x30 + i) ((x.getD 0 % 65536 : Nat) : Int) x := by
  cases x <;> rfl

section
variable {ok val : Fld} (hrow : rowOk ok val = true)
include hrow

theorem row_addr (i : Nat) : ok.addr Pg.lamp i 0 = ok.off + 4 * i ∧ val.addr Pg.lamp i 0 = ok.off + 4 * i := by
  obtain ⟨h1, h2, h3, -⟩ := of_decide_eq_true hrow
  simp only [Fld.addr, Pg.lamp, h1, h2, h3]
  omega

theorem rowSample_spec (i detail src : Nat) (w : Int) (x : Option Nat) :
    (b.rowSample ok val i detail src w x).rd Pg.lamp ok i = b2n x.isSome ∧
    (b.rowSample ok val i detail src w x).rd Pg.lamp val i = (x.getD (b.rd Pg.lamp val i)) % 2 ^ 16 ∧
    (b.rowSample ok val i detail src w x).sup = b.sup ∧
    ∀ lo hi, 0x80 ≤ lo → ok.off + 4 * i < lo ∨ hi ≤ ok.off + 4 * i → LampSame lo hi b (b.rowSample ok val i detail src w x) := by
  obtain ⟨ha, ha'⟩ := row_addr hrow i
  obtain ⟨-, -, -, h4, h5, h6, h7, h8⟩ := of_decide_eq_true hrow
  have hapart : val.addr Pg.lamp i 0 ≠ ok.addr Pg.lamp i 0 ∨ val.lo ≠ ok.lo := .inr (by omega)
  cases x with
  | none =>
    simp only [rowSample]
    refine ⟨?_, ?_, by simp, fun lo hi hlo h => ?_⟩
    · rw [rd_fault _ _ (by decide) (by omega) (.inl (by rw [ha]; simp only [Pg.lamp]; omega)), rd_wr_self, h6]
      rfl
    · rw [rd_fault _ _ (by decide) (by omega) (.inl (by rw [ha']; simp only [Pg.lamp]; omega)), rd_wr_ne _ _ (by omega) (by omega) hapart]
      exact (Nat.mod_eq_of_lt (by rw [← h7]; exact b.rd_lt ..)).symm
    · exact (LampSame.wr (by omega) (by rw [ha]; exact h)).trans (LampSame.fault _ (by decide) (.inl (by simp only [Pg.lamp]; omega)))
  | some v =>
    simp only [rowSample]
    have hsrc : ∀ (c : Body) (f : Fld), f.lo < 32 → (c.glwSource src w).rd Pg.lamp f i = c.rd Pg.lamp f i := fun c f hf =>
      LampSame.glwSource (b := c) (lo := 0) (hi := f.addr Pg.lamp i 0 + 1) src w f i hf (Nat.zero_le _) (Nat.lt_succ_self _)
    refine ⟨?_, ?_, glwSource_sup .., fun lo hi hlo h => ?_⟩
    · rw [hsrc _ _ (by omega), rd_wr_ne _ _ (by omega) (by omega) (.inr (by omega)), rd_wr_self, h6]
      rfl
    · rw [hsrc _ _ (by omega), rd_wr_self, h7]
      rfl
    · refine LampSame.trans ?_ (LampSame.glwSource src w)
      exact (LampSame.wr (by omega) (by rw [ha]; exact h)).trans (LampSame.wr (by omega) (by rw [ha']; exact h))

/-- The samples of a row, one sensor after another. -/
theorem rowSamples_spec {step : Body → Nat → Body} {x : Nat → Option Nat} (b : Body)
    (hstep : ∀ c i, c.sup = b.sup → ∃ detail src w, step c i = c.rowSample ok val i detail src w (x i)) (n : Nat) :
    ((List.range n).foldl step b).sup = b.sup ∧
    (∀ i < n, ((List.range n).foldl step b).rd Pg.lamp ok i = b2n (x i).isSome ∧
      ((List.range n).foldl step b).rd Pg.lamp val i = (x i).getD (b.rd Pg.lamp val i) % 2 ^ 16) ∧
    ∀ lo hi, 0x80 ≤ lo → ok.off + 4 * n ≤ lo ∨ hi ≤ ok.off → LampSame lo hi b ((List.range n).foldl step b) := by
  induction n with
  | zero => exact ⟨rfl, fun i h => absurd h (Nat.not_lt_zero i), fun _ _ _ _ => LampSame.refl b⟩
  | succ n ih =>
    obtain ⟨hsup, hread, hsame⟩ := ih
    rw [List.range_succ, List.foldl_append, List.foldl_cons, List.foldl_nil]
    generalize (List.range n).foldl step b = c at hsup hread hsame
    obtain ⟨detail, src, w, he⟩ := hstep c n hsup
    obtain ⟨h1, h2, h3, h4⟩ := rowSample_spec (b := c) hrow n detail src w (x n)
    obtain ⟨-, -, -, k4, k5, -, -, k8⟩ := of_decide_eq_true hrow
    rw [he]
    refine ⟨h3.trans hsup, fun i hi => ?_, fun lo hi hlo h => (hsame lo hi hlo (by omega)).trans (h4 lo hi hlo (by omega))⟩
    rcases Nat.lt_succ_iff_lt_or_eq.mp hi with hi | rfl
    · obtain ⟨ha, ha'⟩ := row_addr hrow i
      have hs := h4 (ok.off + 4 * i) (ok.off + 4 * i + 1) (by omega) (by omega)
      rw [hs ok i (by omega) (by omega) (by omega), hs val i (by omega) (by omega) (by omega)]
      exact hread i hi
    · obtain ⟨ha, ha'⟩ := row_addr hrow i
      refine ⟨h1, h2.trans ?_⟩
      rw [hsame (ok.off + 4 * i) (ok.off + 4 * i + 1) (by omega) (.inl (by omega)) val i (by omega) (by omega) (by omega)]

end

/-- What follows the samples leaves the sensors and the estimate (R311, R315, R331). -/
def sensorsNoted (b : Body) (run : Bool) : Body :=
  ((List.range 4).foldl (fun b s => if run then b.stackHot s else b) (b.jmaxUpdate.holdEvent Pg.lamp R.TH_EVT_HOT)).thermWatch

theorem sensorsNoted_same (run : Bool) : LampSame 0xCC 0x1C0 b (b.sensorsNoted run) := by
  have hjmax : LampSame 0xCC 0x1C0 b b.jmaxUpdate := by
    unfold jmaxUpdate
    dsimp only
    split
    · exact .refl b
    · exact (LampSame.wr (by decide) (.inl (by decide))).trans (LampSame.glwSource _ _)
  have hhold : ∀ c : Body, LampSame 0xCC 0x1C0 c (c.holdEvent Pg.lamp R.TH_EVT_HOT) := fun c => by
    unfold holdEvent
    split_ifs
    · exact LampSame.fireLasting (by decide) (.inl (by decide)) (by decide)
    · exact .refl c
  have hpage : ∀ s, 0x1C0 ≤ Pg.hbm s 0 := fun s => by unfold Pg.hbm; omega
  have hstack : ∀ (c : Body) s, LampSame 0xCC 0x1C0 c (c.stackHot s) := fun c s => by
    have hp := hpage s
    have hhot : LampSame 0xCC 0x1C0 c (if 760 < c.stackTemp s then c.fireLasting (Pg.hbm s 0) R.HBM_EVT_HOT else c) := by
      split_ifs
      · exact LampSame.fireLasting (by decide) (.inr (by omega)) (by decide)
      · exact .refl c
    by_cases hon : ¬ c.on Pg.lamp R.TEMP_OK (16 + s)
    · rw [stackHot, if_pos hon]
      exact .refl c
    · rw [stackHot, if_neg hon]
      dsimp only
      generalize (if 760 < c.stackTemp s then c.fireLasting (Pg.hbm s 0) R.HBM_EVT_HOT else c) = d at hhot
      split_ifs
      · exact hhot.trans (LampSame.fault _ (by decide) (.inr (by omega)))
      · exact hhot
  have hall : ∀ c : Body, LampSame 0xCC 0x1C0 c ((List.range 4).foldl (fun b s => if run then b.stackHot s else b) c) := LampSame.foldl _ fun c s _ => by
    split_ifs
    · exact hstack c s
    · exact .refl c
  have hwatch : ∀ c : Body, LampSame 0xCC 0x1C0 c c.thermWatch := fun c => LampSame.of_regs rfl
  exact ((hjmax.trans (hhold _)).trans (hall _)).trans (hwatch _)

/-- The samples of every 10 µs of the running engine (R289, R310, R311, R315). -/
theorem sensorSample_spec {temps volts : List (Option Nat)} {est : Option Nat} (hm : b.sup.mode = .running) (hl : b.sup.lampOnly = false)
    (he : ∀ v, est = some v → v < 2048) :
    (∀ i < 24, (b.sensorSample temps volts est).rd Pg.lamp R.TEMP_OK i = b2n (temps.getD i (some 0)).isSome ∧
      (b.sensorSample temps volts est).rd Pg.lamp R.TEMP i = (temps.getD i (some 0)).getD (b.rd Pg.lamp R.TEMP i) % 2 ^ 16) ∧
    (∀ i < 16, (b.sensorSample temps volts est).rd Pg.lamp R.VMON_OK i = b2n (volts.getD i (some 0)).isSome ∧
      ∀ v, volts.getD i (some 0) = some v → (b.sensorSample temps volts est).rd Pg.lamp R.VMON i = v % 2 ^ 16) ∧
    ∀ v, est = some v → (b.sensorSample temps volts est).rd Pg.lamp R.TH_PWR_EST = v := by
  have htemp : rowOk R.TEMP_OK R.TEMP = true := by decide
  have hvolt : rowOk R.VMON_OK R.VMON = true := by decide
  obtain ⟨hsup, h1, -⟩ := rowSamples_spec (x := fun i => temps.getD i (some 0)) htemp b
    (step := fun b i => if ¬ b.sup.lampOnly ∨ i = 11 then b.tempSample i (temps.getD i (some 0)) else b.tempSample i (some 0))
    (fun c i hc => ⟨_, _, _, (if_pos (.inl (by rw [hc, hl]; decide))).trans (tempSample_row ..)⟩) 24
  generalize ht : (List.range 24).foldl (fun b i => if ¬ b.sup.lampOnly ∨ i = 11 then b.tempSample i (temps.getD i (some 0)) else b.tempSample i (some 0)) b = t at hsup h1
  obtain ⟨hsup', h2, hsame⟩ := rowSamples_spec (x := fun r => volts.getD r (some 0)) hvolt t (step := fun b r => b.voltSample r (volts.getD r (some 0)))
    (fun c i _ => ⟨_, _, _, voltSample_row ..⟩) 16
  generalize hu : (List.range 16).foldl (fun b r => b.voltSample r (volts.getD r (some 0))) t = u at hsup' h2 hsame
  generalize hw : (match est with
    | some w => (u.wr Pg.lamp R.TH_PWR_EST w).glwSource 0x41 ((w % 2048 : Nat) : Int)
    | none => u) = w
  have hfin : b.sensorSample temps volts est = w.sensorsNoted true := by
    unfold sensorSample sensorsNoted
    dsimp only
    rw [ht, hu, ← hw, hm]
    cases est <;> rfl
  have hnoted := sensorsNoted_same (b := w) true
  have hest : LampSame 0x100 0x1C0 u w ∧ ∀ v, est = some v → w.rd Pg.lamp R.TH_PWR_EST = v := by
    cases est with
    | none => exact ⟨hw ▸ .refl u, fun v h => by cases h⟩
    | some x =>
      refine ⟨hw ▸ (LampSame.wr (by decide) (.inl (by decide))).trans (LampSame.glwSource _ _), fun v h => ?_⟩
      obtain rfl := Option.some.inj h
      rw [← hw]
      refine (LampSame.glwSource (lo := 0) (hi := 0x1C0) _ _ R.TH_PWR_EST 0 (by decide) (by decide) (by decide)).trans ?_
      exact (rd_wr_self ..).trans (Nat.mod_eq_of_lt (he x rfl))
  have hafter : LampSame 0x100 0x1C0 u (b.sensorSample temps volts est) := by
    rw [hfin]
    exact hest.1.trans fun f i h3 h4 h5 => hnoted f i h3 (by omega) h5
  have hvsame := hsame 0x100 0x180 (by decide) (.inr (by decide))
  refine ⟨fun i hi => ?_, fun i hi => ?_, fun v hv => ?_⟩
  · obtain ⟨ha, ha'⟩ := row_addr htemp i
    have hoff : R.TEMP_OK.off = 0x100 := rfl
    obtain ⟨h3, h4⟩ := h1 i hi
    have hboth : ∀ f : Fld, f.lo < 32 → f.addr Pg.lamp i 0 = R.TEMP_OK.off + 4 * i → (b.sensorSample temps volts est).rd Pg.lamp f i = t.rd Pg.lamp f i := fun f hf hadr =>
      (hafter f i hf (by omega) (by omega)).trans (hvsame f i hf (by omega) (by omega))
    exact ⟨(hboth _ (by decide) ha).trans h3, (hboth _ (by decide) ha').trans h4⟩
  · obtain ⟨ha, ha'⟩ := row_addr hvolt i
    have hoff : R.VMON_OK.off = 0x180 := rfl
    obtain ⟨h3, h4⟩ := h2 i hi
    refine ⟨(hafter _ i (by decide) (by omega) (by omega)).trans h3, fun v hv => (hafter _ i (by decide) (by omega) (by omega)).trans (h4.trans ?_)⟩
    rw [hv]
    rfl
  · rw [hfin]
    exact (hnoted R.TH_PWR_EST 0 (by decide) (by decide) (by decide)).trans (hest.2 v hv)

end

end Body

section
variable {s : State} {m : Nat}

/-- CLK_INJ_GO written (R317). -/
theorem exec_clkInject (ht : s.takes m (Pg.clocks + 0x110)) :
    ∃ d, Body.Shown Pg.clocks 0x110 (PK.clocks.fieldsAt 0x110) s.dev.body d ∧ exec (.clkInject m) s = .next (s.withBody d.clkInject) := by
  have hgo : (fieldAt (Pg.clocks + 0x110) R.CLK_INJ_GO).isSome = true := by rw [pageIs_clocks.fieldAt (by decide) (by decide)]; rfl
  have hen : (fieldAt (Pg.clocks + 0x110) R.SYNCE_EN).isSome = false := by rw [pageIs_clocks.fieldAt (by decide) (by decide)]; rfl
  obtain ⟨d, hshown, hput⟩ := Dev.put_go (v := 1) (i := 0) (f := R.CLK_INJ_GO) (act := fun b => b.clkInject) ht pageIs_clocks (by decide) (by decide)
    (by decide) (by decide) (by decide) rfl (by decide) fun w lk hv _ => by
      have hact := s.dev.body.takeGo_act (a := Pg.clocks + 0x110) (v := w) (f := R.CLK_INJ_GO) (fun b => b.clkInject) hgo (hv.trans rfl)
      simp only [Body.pageStore, Body.storeClocks, hen, Bool.false_eq_true, if_false]
      exact hact
  exact ⟨d, hshown, State.live_withBody ht.known ht.runs hput⟩

/-- What shows the loss of a PLL's lock after a command (R287). -/
theorem State.withBody_lol {c : Body} {d : Nat} (hd : d < 18) : (s.withBody c).reg Pg.clocks R.CLK_LOL_SEEN d = c.rd Pg.clocks R.CLK_LOL_SEEN d := by
  refine State.withBody_reg (by decide) ?_
  simp only [notedAt, Fld.addr, R.CLK_LOL_SEEN, Pg.clocks, Bool.or_eq_false_iff, beq_eq_false_iff_ne]
  omega

/-- A sensor of the Lamp's page after a command. -/
theorem State.withBody_row {c : Body} {ok val f : Fld} {i : Nat} (hrow : Body.rowOk ok val = true) (ho : ok.off ≤ 0x200) (hi : i < 24) (hf : f = ok ∨ f = val) :
    (s.withBody c).reg Pg.lamp f i = c.rd Pg.lamp f i := by
  obtain ⟨ha, ha'⟩ := Body.row_addr hrow i
  obtain ⟨-, -, -, h4, h5, -, -, h8⟩ := of_decide_eq_true hrow
  have hadr : f.addr Pg.lamp i 0 = ok.off + 4 * i := by rcases hf with rfl | rfl <;> assumption
  refine State.withBody_reg (by rcases hf with rfl | rfl <;> omega) ?_
  simp only [notedAt, hadr, Bool.or_eq_false_iff, beq_eq_false_iff_ne]
  omega

end

end Sys2Proof.Machine

namespace Sys2Proof

open Machine

/-- Settles O32: what each PLL, comparator and sensor shows, and what the actions leave. -/
theorem clocksAndComparators : Obligations.ClocksAndComparators := by
  unfold Obligations.ClocksAndComparators
  refine ⟨fun d s hr h1 h18 => ⟨fun hd => ?_, fun h5 h12 => ?_⟩, fun m s ht => ?_, fun n s hn hm hl => ?_,
    fun temps volts est s h1 h2 h3 h4 h5 hm hl => ?_⟩
  · obtain ⟨e1, e2, e3, e4, -⟩ := Body.pllSeen_spec (b := s.dev.body) h18 { detail := d }
    generalize he : s.dev.body.pllSeen d { detail := d } = c at e1 e2 e3 e4
    have hloss : s.dev.body.pllLoss d = { c with lamp := { c.lamp with lost := Body.insertNat d c.lamp.lost } } := he ▸ Body.pllLoss_eq h1 h18 hd
    refine ⟨_, State.body_withBody (decide_eq_true h18) hr hloss, Body.clkRuns_lost (by omega) ?_, (State.withBody_lol h18).trans e1,
      (State.withBody_evt (by decide) (by decide)).mpr e2, (State.withBody_flt (by decide) (by decide)).mpr e3, State.withBody_keeps (e4.trans ⟨fun _ _ _ _ _ _ _ => rfl, rfl, rfl, rfl⟩)⟩
    rw [State.withBody_lamp]
    exact mem_insertNat.mpr (.inl rfl)
  · obtain ⟨e1, e2⟩ := Body.pllLoss_gallery (b := s.dev.body) h5 h12
    exact ⟨_, State.body_withBody (decide_eq_true h18) hr rfl, (State.gal_reg (by decide)).trans e1, (State.gal_reg (by decide)).trans e2⟩
  · intro d h1 h18 hd
    obtain ⟨c, hc, he⟩ := exec_clkInject ht
    have hdom : c.rd Pg.clocks R.CLK_INJ_DOM = d := hc.here (R.CLK_INJ_DOM, 0, 0) (by decide)
    obtain ⟨e1, e2, e3, e4, e5⟩ := Body.pllSeen_spec (b := c) h18 { detail := d, inj := true }
    rw [Body.clkInject_eq (by rw [hdom]; exact h1) (by rw [hdom]; exact h18) (by rw [hdom]; exact hd), hdom] at he
    refine ⟨_, he, ?_, (State.withBody_lol h18).trans e1, (State.withBody_evt (by decide) (by decide)).mpr e2, (State.withBody_flt (by decide) (by decide)).mpr e3,
      State.withBody_keeps ((hc.keeps pageIs_clocks (by decide) (by simp)).trans e4)⟩
    rw [State.withBody_lamp, e5, hc.only]
  · intro e hv
    refine ⟨fun htr hdue => ?_, fun htr hsrc hback => ?_⟩
    · have hfire : s.dev.body.glwTrip n = s.dev.body.glwFire n := Body.glwTrip_due hn rfl hm hl hv htr hdue
      obtain ⟨e1, e2⟩ := Body.glwFire_spec (b := s.dev.body) n
      obtain ⟨a1, a2, a3, a4⟩ := Body.glwAction_spec (b := s.dev.body.glwMark n) n e
      refine ⟨_, State.lamp_withBody (decide_eq_true hn) ((if_neg (by rw [hm]; decide)).trans hfire), ?_, fun j hj => ?_, fun ha => State.lamp_evt (by decide) (a1 ha),
        fun ha => (State.withBody_flt (by decide) (by decide)).mpr (a2 ha), fun ha => (State.lamp_reg (by decide) (by decide)).trans (a3 ha), fun ha => ⟨?_, ?_⟩⟩
      · rw [State.withBody_ent]
        exact e1
      · rw [State.withBody_ent]
        exact e2 j hj
      · rw [(by simp : ∀ c : Body, (s.withBody c).dev.body.sup = c.sup)]
        exact (a4 ha).1
      · exact (State.lamp_reg (by decide) (by decide)).trans (a4 ha).2
    · obtain ⟨e1, e2, e3, e4⟩ := Body.glwRearm_spec (b := s.dev.body) hn rfl hv htr hsrc hback
      refine ⟨_, State.lamp_withBody (decide_eq_true hn) (if_neg (by rw [hm]; decide)), ?_, fun j hj => ?_, ?_, fun ha => (State.lamp_reg (by decide) (by decide)).trans (e4 ha)⟩
      · rw [State.withBody_ent]
        exact e1
      · rw [State.withBody_ent]
        exact e2 j hj
      · rw [State.withBody_lamp]
        exact e3
  · have hest : ∀ v, est = some v → v < 2048 := fun v hv => by
      rw [hv] at h5
      exact of_decide_eq_true h5
    have hsample : ∀ {l : List (Option Nat)} {i v : Nat}, l.all sampleOk = true → l[i]? = some (some v) → v % 2 ^ 16 = v := fun hl hv =>
      Nat.mod_eq_of_lt (of_decide_eq_true (List.all_eq_true.mp hl _ (List.mem_of_getElem? hv)))
    have hget : ∀ {l : List (Option Nat)} {i : Nat} {x : Option Nat}, l[i]? = some x → l.getD i (some 0) = x ∧ i < l.length := fun h =>
      ⟨by rw [List.getD_eq_getElem?_getD, h]; rfl, (List.getElem?_eq_some_iff.mp h).1⟩
    obtain ⟨e1, e2, e3⟩ := Body.sensorSample_spec (b := s.dev.body) (temps := temps) (volts := volts) hm hl hest
    have htemp : Body.rowOk R.TEMP_OK R.TEMP = true := by decide
    have hvolt : Body.rowOk R.VMON_OK R.VMON = true := by decide
    refine ⟨_, State.lamp_withBody (by rw [h1, h2, h3, h4, h5]; rfl) (if_neg (by rw [hm]; decide)), fun i v hv => ?_, fun i hv => ?_, fun i v hv => ?_,
      fun v hv => (State.lamp_reg (by decide) (by decide)).trans (e3 v hv)⟩
    · obtain ⟨hg, hi⟩ := hget hv
      obtain ⟨k1, k2⟩ := e1 i (h1 ▸ hi)
      rw [State.withBody_row htemp (by decide) (h1 ▸ hi) (.inl rfl), State.withBody_row htemp (by decide) (h1 ▸ hi) (.inr rfl), k1, k2, hg]
      exact ⟨rfl, hsample h2 hv⟩
    · obtain ⟨hg, hi⟩ := hget hv
      obtain ⟨k1, k2⟩ := e1 i (h1 ▸ hi)
      rw [State.withBody_row htemp (by decide) (h1 ▸ hi) (.inl rfl), State.withBody_row htemp (by decide) (h1 ▸ hi) (.inr rfl), k1, k2, hg]
      exact ⟨rfl, Nat.mod_eq_of_lt (s.dev.body.rd_lt Pg.lamp R.TEMP i 0)⟩
    · obtain ⟨hg, hi⟩ := hget hv
      rw [h3] at hi
      obtain ⟨k1, k2⟩ := e2 i hi
      rw [State.withBody_row hvolt (by decide) (by omega) (.inl rfl), State.withBody_row hvolt (by decide) (by omega) (.inr rfl), k1, k2 v hg, hg]
      exact ⟨rfl, hsample h4 hv⟩

end Sys2Proof
end

section
/-! O34: the loops on power, rates, refresh and retraining (R28, R298, R299, R315, R332, R339, R342). -/

namespace Sys2Proof.Machine

namespace Body

section
variable {b c : Body} {g : Nat}

/-! A loop's action: what it counts and logs stands beside what it does (R27, R36). -/

/-- What a loop's action leaves of the engine that it has acted on: its count, and its records. -/
structure Acted (loop : Nat) (e c : Body) : Prop where
  cnt : c.rd Pg.governor R.GOV_ACT_CNT loop = (e.rd Pg.governor R.GOV_ACT_CNT loop + 1) % 2 ^ 16
  busy : c.rd Pg.governor R.GOV_BUSY loop = e.rd Pg.governor R.GOV_BUSY loop
  keeps : Keeps [Pg.governor] e c
  still : c.still = e.still
  readapt : c.gov.readapt = e.gov.readapt

theorem logEntered_readapt (e : LogEntry) (reason loop : Nat) : (b.logEntered e reason loop).gov.readapt = b.gov.readapt := by
  simp [logEntered, logPut]

theorem logWrite_readapt (loop inst : Nat) (adv : Bool) (action reason input bound old new : Nat) :
    (b.logWrite loop inst adv action reason input bound old new).gov.readapt = b.gov.readapt := by
  obtain ⟨e, he⟩ := b.logWrite_eq loop inst adv action reason input bound old new
  rw [he, (tellHigh_gov _).1, logEntered_readapt, (logRoom_gov _).1]

theorem logWrite_rd {loop inst action reason input bound old new : Nat} {adv : Bool} {f : Fld} {i : Nat} (h : offLog f i) :
    (b.logWrite loop inst adv action reason input bound old new).rd Pg.governor f i = b.rd Pg.governor f i := by
  obtain ⟨e, he⟩ := b.logWrite_eq loop inst adv action reason input bound old new
  rw [he, tellHigh_rd _ h.1, logEntered_rd _ _ _ _ h, logRoom_rd _ h.1 h.2.1]

theorem logWrite_keeps {loop inst action reason input bound old new : Nat} {adv : Bool} (hl : loop < 6) :
    Keeps [Pg.governor] b (b.logWrite loop inst adv action reason input bound old new) := by
  obtain ⟨e, he⟩ := b.logWrite_eq loop inst adv action reason input bound old new
  rw [he]
  exact b.logRoom_keeps.trans ((logEntered_keeps _ _ _ hl).trans (tellHigh_keeps _))

/-- Whether a loop may act on what it governs (R36). -/
def loopReady (b : Body) (loop inst : Nat) : Prop :=
  b.loopAuto loop = true ∧ ∀ e ∈ b.gov.lastAct, e.1 = loop * 2 ^ 24 + inst → e.2 + b.rd Pg.governor R.GOV_MIN_INTERVAL loop * 1000 ≤ b.clk

/-- The time of an action noted, and the action counted. -/
def actNoted (e : Body) (loop key now : Nat) : Body :=
  ({ e with gov := { e.gov with lastAct := Sp.ins e.gov.lastAct key now } } : Body).inc Pg.governor R.GOV_ACT_CNT 1 loop

theorem actNoted_acted {loop : Nat} (hl : loop < 6) (key now : Nat) : Acted loop c (c.actNoted loop key now) :=
  ⟨rd_wr_self .., grd_wr _ (by decide) (by decide) (.inr (by decide)), Keeps.gwr ⟨fun _ _ _ _ _ _ _ => rfl, rfl, rfl, rfl⟩ (by decide) (by simp only [R.GOV_ACT_CNT]; omega), rfl, rfl⟩

/-- A loop that may act acts (R27, R36). -/
theorem govAct_acted {loop inst : Nat} (hl : loop < 6) (h : b.loopReady loop inst) (action reason input bound old new : Nat) (act : Body → Body) :
    Acted loop (act b) (b.govAct loop inst action reason input bound old new act) := by
  obtain ⟨hauto, hsoon⟩ := h
  have hlate : (match b.gov.lastAct.find? (fun e => e.1 == loop * 2 ^ 24 + inst) with
      | some e => decide (b.clk < e.2 + b.rd Pg.governor R.GOV_MIN_INTERVAL loop * 1000)
      | none => false) = false := by
    split
    · rename_i e he
      have := hsoon e (List.mem_of_find?_eq_some he) (by simpa using List.find?_some he)
      exact decide_eq_false (by omega)
    · rfl
  have he : b.govAct loop inst action reason input bound old new act =
      if ((act b).actNoted loop (loop * 2 ^ 24 + inst) (act b).clk).on Pg.governor R.GOV_LOG_EN loop then
        ((act b).actNoted loop (loop * 2 ^ 24 + inst) (act b).clk).logWrite loop inst false action reason input bound old new
      else (act b).actNoted loop (loop * 2 ^ 24 + inst) (act b).clk := by
    unfold govAct
    rw [if_pos hauto]
    dsimp only
    refine (if_neg ?_).trans rfl
    intro hs
    exact Bool.noConfusion (hlate.symm.trans hs)
  have hn := actNoted_acted (c := act b) hl (loop * 2 ^ 24 + inst) (act b).clk
  rw [he]
  generalize (act b).actNoted loop (loop * 2 ^ 24 + inst) (act b).clk = d at hn
  split_ifs
  · have hoff : ∀ f ∈ [R.GOV_ACT_CNT, R.GOV_BUSY], offLog f loop := fun f hf => by
      simp only [List.mem_cons, List.not_mem_nil, or_false] at hf
      rcases hf with rfl | rfl <;> simp only [offLog, R.GOV_ACT_CNT, R.GOV_BUSY] <;> omega
    exact ⟨(logWrite_rd (hoff _ (by simp))).trans hn.cnt, (logWrite_rd (hoff _ (by simp))).trans hn.busy, hn.keeps.trans (logWrite_keeps hl),
      (still_logWrite ..).trans hn.still, (logWrite_readapt ..).trans hn.readapt⟩
  · exact hn

/-! What a Gallery's power leaves below the Galleries' pages. -/

/-- The registers below the Galleries' pages stand. -/
structure LowSame (b c : Body) : Prop where
  low : ∀ (q : Nat) (f : Fld) (x y : Nat), f.lo < 32 → f.addr q x y < 0x100000 → c.rd q f x y = b.rd q f x y

namespace LowSame

theorem refl (b : Body) : LowSame b b := ⟨fun _ _ _ _ _ _ => rfl⟩

theorem trans {e : Body} (h : LowSame b c) (h' : LowSame c e) : LowSame b e :=
  ⟨fun q f x y h1 h2 => (h'.low q f x y h1 h2).trans (h.low q f x y h1 h2)⟩

theorem of (h : c.regs = b.regs) : LowSame b c := ⟨fun q f x y _ _ => by rw [rd, h, rd]⟩

theorem gpwr (v : Nat) {f : Fld} (hf : f.lo < 32) : LowSame b (b.gpwr g f v) :=
  ⟨fun q f' x y h1 h2 => rd_wr_ne _ _ hf h1 (.inl (by rw [Fld.addr_zero]; simp only [Pg.galPower, Pg.gallery]; omega))⟩

theorem galSet (st : Nat) : LowSame b (b.galSet g st) := LowSame.trans (c := b.setGp g _) (.of rfl) (gpwr st (by decide))

theorem stepUpdate : LowSame b (b.stepUpdate g) := by
  unfold Body.stepUpdate
  split_ifs
  · exact galSet ..
  · exact refl b

theorem stepAll : LowSame b b.stepAll :=
  foldl_keeps (LowSame b) _ (fun _ _ h => h.trans stepUpdate) _ _ (refl b)

theorem wakeStart (cause : Nat) : LowSame b (b.wakeStart g cause) := by
  by_cases h : 4 ≤ b.galState g ∧ b.galState g ≤ 6
  · obtain ⟨sch, he⟩ := wakeStart_eq (b := b) (g := g) cause h.1 h.2
    rw [he]
    refine LowSame.trans (c := ((b.setGp g (b.galWoken g)).galSet g 7).gpwr g R.GAL_WAKE_CAUSE cause) ?_ (.of rfl)
    exact LowSame.trans (LowSame.trans (c := b.setGp g (b.galWoken g)) (.of rfl) (galSet 7)) (gpwr cause (by decide))
  · rw [Body.wakeStart, if_neg h]
    exact refl b

end LowSame

/-- A request of PG_PWR_REQ is kept, whatever the Gallery's state (R292). -/
theorem pwrReqTake_req {v : Nat} (hv : v < 16) : (b.pwrReqTake g v).gprd g R.PG_PWR_REQ = v ∧ LowSame b (b.pwrReqTake g v) := by
  have hreq : (b.gpwr g R.PG_PWR_REQ v).gprd g R.PG_PWR_REQ = v := gprd_gpwr_self (f := R.PG_PWR_REQ) hv
  have hlow : LowSame b (b.gpwr g R.PG_PWR_REQ v) := .gpwr v (by decide)
  have hset : ∀ (c : Body) x, (c.setGp g x).gprd g R.PG_PWR_REQ = c.gprd g R.PG_PWR_REQ ∧ LowSame c (c.setGp g x) := fun c x => ⟨rfl, .of rfl⟩
  have hstep : ∀ c : Body, (c.stepUpdate g).gprd g R.PG_PWR_REQ = c.gprd g R.PG_PWR_REQ := fun c => by
    unfold stepUpdate
    split_ifs
    · exact gprd_galSet (by decide)
    · rfl
  have hwake : ∀ c : Body, (c.wakeStart g 5).gprd g R.PG_PWR_REQ = c.gprd g R.PG_PWR_REQ := fun c => by
    by_cases h : 4 ≤ c.galState g ∧ c.galState g ≤ 6
    · obtain ⟨sch, he⟩ := wakeStart_eq (b := c) (g := g) 5 h.1 h.2
      rw [he]
      have h1 : (((c.setGp g (c.galWoken g)).galSet g 7).gpwr g R.GAL_WAKE_CAUSE 5).gprd g R.PG_PWR_REQ = ((c.setGp g (c.galWoken g)).galSet g 7).gprd g R.PG_PWR_REQ :=
        rd_wr_apart (by decide)
      exact h1.trans ((gprd_galSet (by decide)).trans (hset c _).1)
    · rw [wakeStart, if_neg h]
  unfold pwrReqTake
  generalize b.gpwr g R.PG_PWR_REQ v = d at hreq hlow
  dsimp only
  split_ifs
  · exact ⟨((hset d _).1).trans hreq, hlow.trans (hset d _).2⟩
  · exact ⟨((hstep _).trans (hset d _).1).trans hreq, (hlow.trans (hset d _).2).trans .stepUpdate⟩
  · exact ⟨((hwake _).trans (hset d _).1).trans hreq, (hlow.trans (hset d _).2).trans (.wakeStart 5)⟩
  · exact ⟨((hset d _).1).trans hreq, hlow.trans (hset d _).2⟩

/-- A loop's action that goes on (R30). -/
theorem govBegin_spec (loop inst : Nat) (hl : loop < 6) (runs : Bool) : Keeps [Pg.governor] b (b.govBegin loop inst runs) ∧
    (∀ i, (b.govBegin loop inst runs).rd Pg.governor R.GOV_ACT_CNT i = b.rd Pg.governor R.GOV_ACT_CNT i) ∧
    (runs = true → (b.govBegin loop inst runs).rd Pg.governor R.GOV_BUSY loop = 1) := by
  unfold govBegin
  split_ifs with h
  · refine ⟨?_, fun i => ?_, fun _ => ?_⟩
    · refine Keeps.trans (c := { b with gov := { b.gov with running := (loop, inst) :: b.gov.running.filter (· ≠ (loop, inst)) } }) ⟨fun _ _ _ _ _ _ _ => rfl, rfl, rfl, rfl⟩ ?_
      exact Keeps.gwr (.refl _) (by decide) (by simp only [R.GOV_BUSY]; omega)
    · exact grd_wr _ (by decide) (by decide) (.inr (by decide))
    · refine (rd_wr_self ..).trans ?_
      simp [b2n, R.GOV_BUSY, Fld.width]
  · exact ⟨.refl b, fun _ => rfl, fun hr => absurd hr h⟩

/-- A counter of the Governor lies below every Gallery's pages. -/
theorem actCnt_low {loop : Nat} (hl : loop < 6) : R.GOV_ACT_CNT.addr Pg.governor loop 0 < 0x100000 := by
  simp only [Fld.addr, R.GOV_ACT_CNT, Pg.governor]
  omega

/-! The POWER loop on a Gallery (R298). -/

/-- What the POWER loop asks of a Gallery (R298). -/
def powerWant (b : Body) (g : Nat) : Nat :=
  let n := b.galDwell g
  let load := meterMax (b.loadOf g) b.clk n
  let peak := meterMax (b.loadOf g) b.clk (2 * n)
  let long := meterSpans (b.loadOf g) b.clk n
  let req := b.gpReq g
  let old := req % 4
  let env := b.gprd g R.GAL_ENV_STEP
  let er := b.gprd g R.GAL_ENV_REST
  let up := stepFor load (b.gprd g R.GAL_HEADROOM) env
  let down := stepFor peak (b.gprd g R.GAL_HEADROOM) env
  let step := if up < old then up else if old < down ∧ long then down else old
  let rest := if er = 3 ∧ b.parkOk g then 3 else if 2 ≤ er ∧ long ∧ peak < b.gprd g R.GAL_NAP_THR then 2 else if 1 ≤ er then 1 else 0
  if env < old ∨ er < req / 4 then min old env + 4 * min (req / 4) er else step + 4 * rest

theorem stepFor_le (load head : Nat) : ∀ env, stepFor load head env ≤ env
  | 0 => Nat.le_refl 0
  | n + 1 => by
    unfold stepFor
    split_ifs
    · exact Nat.le_refl _
    · exact Nat.le_succ_of_le (stepFor_le load head n)

theorem powerWant_lt : b.powerWant g < 16 := by
  have henv : b.gprd g R.GAL_ENV_STEP < 2 ^ 2 := b.rd_lt (Pg.galPower g) R.GAL_ENV_STEP 0 0
  have her : b.gprd g R.GAL_ENV_REST < 2 ^ 2 := b.rd_lt (Pg.galPower g) R.GAL_ENV_REST 0 0
  have hup := stepFor_le (meterMax (b.loadOf g) b.clk (b.galDwell g)) (b.gprd g R.GAL_HEADROOM) (b.gprd g R.GAL_ENV_STEP)
  have hdown := stepFor_le (meterMax (b.loadOf g) b.clk (2 * b.galDwell g)) (b.gprd g R.GAL_HEADROOM) (b.gprd g R.GAL_ENV_STEP)
  unfold powerWant
  dsimp only
  generalize stepFor (meterMax (b.loadOf g) b.clk (b.galDwell g)) _ _ = up at hup
  generalize stepFor (meterMax (b.loadOf g) b.clk (2 * b.galDwell g)) _ _ = down at hdown
  split_ifs <;> omega

theorem powerDecide_acts (h : b.powerWant g ≠ b.gpReq g) : ∃ a r i o n v,
    b.powerDecide g = b.govAct LOOP_POWER g a r i o n v (powerTake g (b.powerWant g)) := by
  unfold powerDecide
  unfold powerWant at h ⊢
  dsimp only at h ⊢
  by_cases hout : b.gprd g R.GAL_ENV_STEP < b.gpReq g % 4 ∨ b.gprd g R.GAL_ENV_REST < b.gpReq g / 4
  · rw [if_pos hout, if_pos hout]
    exact ⟨_, _, _, _, _, _, rfl⟩
  · rw [if_neg hout] at h
    rw [if_neg hout, if_neg hout, if_neg h]
    exact ⟨_, _, _, _, _, _, rfl⟩

theorem powerTake_spec {v : Nat} (hv : v < 16) : (powerTake g v b).gprd g R.PG_PWR_REQ = v ∧
    ∀ i < 6, (powerTake g v b).rd Pg.governor R.GOV_ACT_CNT i = b.rd Pg.governor R.GOV_ACT_CNT i := by
  obtain ⟨h1, h2⟩ := pwrReqTake_req (b := b) (g := g) hv
  unfold powerTake
  dsimp only
  obtain ⟨k1, k2, -⟩ := govBegin_spec (b := b.pwrReqTake g v) LOOP_POWER g (by decide) ((b.pwrReqTake g v).galState g == 7)
  exact ⟨(k1.aside (gal_page g) (by decide)).trans h1, fun i hi => (k2 i).trans (h2.low _ _ _ _ (by decide) (actCnt_low hi))⟩

theorem powerLoop_acts (hdue : meterDue (b.loadOf g) b.clk = true) (hready : b.loopReady LOOP_POWER g) {v : Nat} (hv : (b.loadMeasure g).powerWant g = v)
    (hne : v ≠ b.gpReq g) : (b.powerLoop g).gprd g R.PG_PWR_REQ = v ∧
      (b.powerLoop g).rd Pg.governor R.GOV_ACT_CNT LOOP_POWER = (b.rd Pg.governor R.GOV_ACT_CNT LOOP_POWER + 1) % 2 ^ 16 := by
  subst hv
  obtain ⟨a, r, i, o, n, w, he⟩ := powerDecide_acts (b := b.loadMeasure g) (g := g) hne
  obtain ⟨h1, h2⟩ := powerTake_spec (b := b.loadMeasure g) (g := g) powerWant_lt
  have hact := govAct_acted (b := b.loadMeasure g) (loop := LOOP_POWER) (inst := g) (by decide) hready a r i o n w (powerTake g ((b.loadMeasure g).powerWant g))
  rw [powerLoop, if_pos hdue, he]
  refine ⟨(hact.keeps.aside (gal_page g) (by decide)).trans h1, ?_⟩
  rw [hact.cnt, h2 _ (by decide)]
  rfl

/-! The THERMAL loop (R315). -/

theorem setCap_spec {v : Nat} (hv : v < 4) : (setCap v b).rd Pg.lamp R.TH_CAP = v ∧
    ∀ i < 6, (setCap v b).rd Pg.governor R.GOV_ACT_CNT i = b.rd Pg.governor R.GOV_ACT_CNT i := by
  unfold setCap
  refine ⟨(LowSame.stepAll.low _ _ _ _ (by decide) (by decide)).trans ((rd_wr_self ..).trans (Nat.mod_eq_of_lt hv)), fun i hi => ?_⟩
  refine (LowSame.stepAll.low _ _ _ _ (by decide) (actCnt_low hi)).trans ?_
  exact rd_wr_ne _ _ (by decide) (by decide) (.inl (by simp only [Fld.addr, R.GOV_ACT_CNT, R.TH_CAP, Pg.governor, Pg.lamp]; omega))

theorem thermal_acted (hready : b.loopReady LOOP_THERMAL 0xFF) {v : Nat} (hv : v < 4) (a r i o n w : Nat) :
    (b.govAct LOOP_THERMAL 0xFF a r i o n w (setCap v)).rd Pg.lamp R.TH_CAP = v ∧
    (b.govAct LOOP_THERMAL 0xFF a r i o n w (setCap v)).rd Pg.governor R.GOV_ACT_CNT LOOP_THERMAL = (b.rd Pg.governor R.GOV_ACT_CNT LOOP_THERMAL + 1) % 2 ^ 16 := by
  obtain ⟨h1, h2⟩ := setCap_spec (b := b) hv
  have hact := govAct_acted (loop := LOOP_THERMAL) (by decide) hready a r i o n w (setCap v)
  refine ⟨(hact.keeps.regs _ _ _ _ (by decide) (by decide) (by decide)).trans h1, ?_⟩
  rw [hact.cnt, h2 _ (by decide)]

theorem thermalLoop_up (hready : b.loopReady LOOP_THERMAL 0xFF) (h : b.heldFor b.lamp.hotAt 10000000 = true ∨ b.heldFor b.lamp.powAt 10000000 = true)
    (hcap : b.rd Pg.lamp R.TH_CAP < 3) : b.thermalLoop.rd Pg.lamp R.TH_CAP = b.rd Pg.lamp R.TH_CAP + 1 ∧
      b.thermalLoop.rd Pg.governor R.GOV_ACT_CNT LOOP_THERMAL = (b.rd Pg.governor R.GOV_ACT_CNT LOOP_THERMAL + 1) % 2 ^ 16 := by
  unfold thermalLoop
  dsimp only
  rw [if_pos h, if_pos hcap]
  exact thermal_acted hready (by omega) _ _ _ _ _ _

theorem thermalLoop_down (hready : b.loopReady LOOP_THERMAL 0xFF) (h1 : b.heldFor b.lamp.hotAt 10000000 = false) (h2 : b.heldFor b.lamp.powAt 10000000 = false)
    (h3 : b.heldFor b.lamp.coolAt 100000000 = true) (hcap : 0 < b.rd Pg.lamp R.TH_CAP) : b.thermalLoop.rd Pg.lamp R.TH_CAP = b.rd Pg.lamp R.TH_CAP - 1 ∧
      b.thermalLoop.rd Pg.governor R.GOV_ACT_CNT LOOP_THERMAL = (b.rd Pg.governor R.GOV_ACT_CNT LOOP_THERMAL + 1) % 2 ^ 16 := by
  have hlt : b.rd Pg.lamp R.TH_CAP < 2 ^ 2 := b.rd_lt Pg.lamp R.TH_CAP 0 0
  unfold thermalLoop
  dsimp only
  rw [if_neg (by simp [h1, h2]), if_pos ⟨h3, hcap⟩]
  exact thermal_acted hready (by omega) _ _ _ _ _ _

theorem thermalLoop_idle (h1 : b.heldFor b.lamp.hotAt 10000000 = false) (h2 : b.heldFor b.lamp.powAt 10000000 = false)
    (h3 : b.heldFor b.lamp.coolAt 100000000 = false) : b.thermalLoop = b := by
  unfold thermalLoop
  dsimp only
  rw [if_neg (by simp [h1, h2]), if_neg (by simp [h3])]

/-! The loops on a stack (R299, R332, R339, R342). -/

theorem actCnt_hbm {k n loop : Nat} (hl : loop < 6) (hn : n < 16) (h : Keeps [Pg.hbm k n] b c) :
    c.rd Pg.governor R.GOV_ACT_CNT loop = b.rd Pg.governor R.GOV_ACT_CNT loop := by
  obtain ⟨h1, h2⟩ := hbm_page (k := k) hn
  refine h.regs _ _ _ _ (by decide) ?_ ?_
  · simp only [notedAt, Fld.addr, R.GOV_ACT_CNT, Pg.governor, Bool.or_eq_false_iff, beq_eq_false_iff_ne]
    omega
  · rw [List.mem_singleton]
    simp only [pageOf, Fld.addr, R.GOV_ACT_CNT, Pg.governor]
    omega

/-- A register of a stack's page where only the Governor's page changes. -/
theorem Keeps.hbmAside (h : Keeps [Pg.governor] b c) (k : Nat) {f : Fld} (hf : f.lo < 32 ∧ f.off < 0x1000) :
    c.rd (Pg.hbm k 0) f = b.rd (Pg.hbm k 0) f := h.aside (hbm_page (n := 0) (by decide)) hf

/-- What the POWER loop asks of a stack (R299, R339). -/
def rateWant (b : Body) (k : Nat) : Nat :=
  let n := b.hbmDwell k
  let d := meterMax (b.demandOf k) b.clk n
  let peak := meterMax (b.demandOf k) b.clk (2 * n)
  let long := meterSpans (b.demandOf k) b.clk n
  let cur := b.hrd k R.HBM_RATE_REQ
  let fast := b.hrd k R.HBM_ENV_FAST
  let slow := b.hrd k R.HBM_ENV_SLOW
  let up := b.rateFor k d fast (slow + 1 - fast)
  let down := b.rateFor k peak fast (slow + 1 - fast)
  if cur < fast ∨ slow < cur then b.rateNearest k cur fast slow else if up < cur then up else if cur < down ∧ long then down else cur

theorem rateFor_measured (j k d fast : Nat) : ∀ n, (b.demandMeasure j).rateFor k d fast n = b.rateFor k d fast n
  | 0 => rfl
  | n + 1 => by
    unfold rateFor
    rw [rateFor_measured j k d fast n]
    rfl

/-- What the loop asks of a stack once it has measured it. -/
theorem rateWant_measured (k : Nat) : (b.demandMeasure k).rateWant k =
    (let demands := (b.demandMeasure k).demandOf k
     let cur := b.hrd k R.HBM_RATE_REQ
     let fast := b.hrd k R.HBM_ENV_FAST
     let slow := b.hrd k R.HBM_ENV_SLOW
     let up := b.rateFor k (meterMax demands b.clk (b.hbmDwell k)) fast (slow + 1 - fast)
     let down := b.rateFor k (meterMax demands b.clk (2 * b.hbmDwell k)) fast (slow + 1 - fast)
     if cur < fast ∨ slow < cur then b.rateNearest k cur fast slow
     else if up < cur then up else if cur < down ∧ meterSpans demands b.clk (b.hbmDwell k) then down else cur) := by
  unfold rateWant
  simp only [rateFor_measured]
  rfl

theorem rateDecide_acts {k : Nat} (hbusy : ∀ i < 4, b.hrd i R.HBM_STEP_BUSY = 0) (h : b.rateWant k ≠ b.hrd k R.HBM_RATE_REQ) : ∃ a r i o n v,
    b.rateDecide k = b.govAct LOOP_POWER (0x100 + k) a r i o n v (sumpTake k (b.rateWant k)) := by
  have hany : (List.range 4).any (fun i => b.hrd i R.HBM_STEP_BUSY == 1) = false := by
    rw [List.any_eq_false]
    intro i hi
    simp [hbusy i (List.mem_range.mp hi)]
  unfold rateDecide
  unfold rateWant at h ⊢
  simp only [decide_eq_true_eq] at h ⊢
  rw [if_neg (by rw [hany]; simpa using h)]
  exact ⟨_, _, _, _, _, _, rfl⟩

theorem sumpTake_spec {k r : Nat} (hok : b.rateOk k r = true) (hbusy : b.hrd k R.HBM_STEP_BUSY = 0) :
    (sumpTake k r b).rd (Pg.hbm k 0) R.HBM_RATE_REQ = r ∧
    (r ≠ b.rd (Pg.hbm k 0) R.HBM_RATE_CUR → (sumpTake k r b).rd (Pg.hbm k 0) R.HBM_STEP_BUSY = 1) ∧
    ∀ i < 6, (sumpTake k r b).rd Pg.governor R.GOV_ACT_CNT i = b.rd Pg.governor R.GOV_ACT_CNT i := by
  have hr : r < 7 := by
    simp only [rateOk, Bool.and_eq_true, decide_eq_true_eq] at hok
    exact hok.1.1
  obtain ⟨h1, -, h3, h4⟩ := (rateTake_spec (b := b) (k := k) (r := r) (by omega)).2 hok
  unfold sumpTake
  dsimp only
  obtain ⟨k1, k2, -⟩ := govBegin_spec (b := b.rateTake k r) LOOP_POWER (0x100 + k) (by decide) ((b.rateTake k r).hrd k R.HBM_STEP_BUSY == 1)
  exact ⟨(k1.hbmAside k (by decide)).trans h1, fun hne => (k1.hbmAside k (by decide)).trans (h4 hne hbusy).1,
    fun i hi => (k2 i).trans (actCnt_hbm hi (by decide) h3)⟩

theorem sumpRate_acts {k r : Nat} (hdue : meterDue (b.demandOf k) b.clk = true) (hready : b.loopReady LOOP_POWER (0x100 + k)) (hk : k < 4)
    (hbusy : ∀ i < 4, b.hrd i R.HBM_STEP_BUSY = 0) (hr : (b.demandMeasure k).rateWant k = r) (hne : r ≠ b.hrd k R.HBM_RATE_REQ)
    (hok : b.rateOk k r = true) : (b.sumpRate k).rd (Pg.hbm k 0) R.HBM_RATE_REQ = r ∧
      (b.sumpRate k).rd Pg.governor R.GOV_ACT_CNT LOOP_POWER = (b.rd Pg.governor R.GOV_ACT_CNT LOOP_POWER + 1) % 2 ^ 16 ∧
      (r ≠ b.rd (Pg.hbm k 0) R.HBM_RATE_CUR → (b.sumpRate k).rd (Pg.hbm k 0) R.HBM_STEP_BUSY = 1) := by
  subst hr
  obtain ⟨a, r, i, o, n, w, he⟩ := rateDecide_acts (b := b.demandMeasure k) (k := k) hbusy hne
  obtain ⟨h1, h2, h3⟩ := sumpTake_spec (b := b.demandMeasure k) (k := k) hok (hbusy k hk)
  have hact := govAct_acted (b := b.demandMeasure k) (loop := LOOP_POWER) (inst := 0x100 + k) (by decide) hready a r i o n w (sumpTake k ((b.demandMeasure k).rateWant k))
  rw [sumpRate, if_pos hdue, he]
  refine ⟨(hact.keeps.hbmAside k (by decide)).trans h1, ?_, fun hne => (hact.keeps.hbmAside k (by decide)).trans (h2 hne)⟩
  rw [hact.cnt, h3 _ (by decide)]
  rfl

/-- The multiplier that the REFRESH loop sets (R332). -/
def setMult (k v : Nat) (b : Body) : Body := b.hwr k R.HBM_REF_MULT v

theorem refresh_acted {k v : Nat} (hready : b.loopReady LOOP_REFRESH k) (hv : v < 8) (a r i o n w : Nat) :
    (b.govAct LOOP_REFRESH k a r i o n w (setMult k v)).rd (Pg.hbm k 0) R.HBM_REF_MULT = v ∧
    (b.govAct LOOP_REFRESH k a r i o n w (setMult k v)).rd Pg.governor R.GOV_ACT_CNT LOOP_REFRESH = (b.rd Pg.governor R.GOV_ACT_CNT LOOP_REFRESH + 1) % 2 ^ 16 ∧
    (b.rd (Pg.hbm k 0) (evtPend R.HBM_EVT_CE_HI) = 1 → (b.govAct LOOP_REFRESH k a r i o n w (setMult k v)).rd (Pg.hbm k 0) (evtPend R.HBM_EVT_CE_HI) = 1) := by
  have hact := govAct_acted (loop := LOOP_REFRESH) (by decide) hready a r i o n w (setMult k v)
  have hkeep : Keeps [Pg.hbm k 0] b (setMult k v b) := (Keeps.refl b).wrPage (by simp) (hbm_page (n := 0) (by decide)).1 (by decide)
  refine ⟨(hact.keeps.hbmAside k (by decide)).trans ((rd_wr_self ..).trans (Nat.mod_eq_of_lt hv)), ?_, fun h => (hact.keeps.hbmAside k (by decide)).trans ?_⟩
  · rw [hact.cnt, actCnt_hbm (by decide) (by decide) hkeep]
  · refine Eq.trans ?_ h
    exact rd_wr_apart (by decide)

/-- A register of the Governor where only a stack's page 0 changes. -/
theorem gov_hbm {k : Nat} {f : Fld} {i : Nat} (h : Keeps [Pg.hbm k 0] b c) (hf : f.lo < 32 ∧ f.stride = 4 ∧ f.off < 0x800 ∧ i < 6) :
    c.rd Pg.governor f i = b.rd Pg.governor f i := by
  obtain ⟨hlo, hs, ho, hi⟩ := hf
  obtain ⟨h1, h2⟩ := hbm_page (k := k) (n := 0) (by decide)
  refine h.regs _ _ _ _ hlo ?_ ?_
  · simp only [notedAt, Fld.addr, Pg.governor, Bool.or_eq_false_iff, beq_eq_false_iff_ne, hs]
    omega
  · rw [List.mem_singleton]
    simp only [pageOf, Fld.addr, Pg.governor, hs]
    omega

theorem loopReady_hbm {k loop inst : Nat} (hl : loop < 6) (h : Keeps [Pg.hbm k 0] b c) (hg : c.gov = b.gov) (hc : c.clk = b.clk) (hr : b.loopReady loop inst) :
    c.loopReady loop inst := by
  obtain ⟨h1, h2⟩ := hr
  refine ⟨?_, ?_⟩
  · rw [loopAuto, gov_hbm h ⟨by decide, by decide, by decide, hl⟩]
    exact h1
  · rw [hg, hc, gov_hbm h ⟨by decide, by decide, by decide, hl⟩]
    exact h2

/-! The REFRESH loop (R332): its cases. -/

/-- The corrected errors of the last ten seconds that a decision sees. -/
def errSecs (b : Body) (k : Nat) : List (Option Nat) := (List.range 10).map (errsIn (Sp.get [] (b.errsMeasure k).hbm.errs k) b.clk)

/-- Those of the last second. -/
def errNow (b : Body) (k : Nat) : Nat := ((b.errSecs k).headD none).getD 0

/-- What the loop has measured, with the event of a high error rate. -/
def refreshSeen (b : Body) (k : Nat) : Body :=
  if b.rd (Pg.hbm k 0) R.HBM_CE_HI < b.errNow k then (b.errsMeasure k).fire (Pg.hbm k 0) R.HBM_EVT_CE_HI else b.errsMeasure k

/-- The loop found nothing in any of the seconds that reaches the lower bound. -/
def errsLow (l : List (Option Nat)) (lo : Nat) : Bool := l.all fun x => match x with | some n => decide (n < lo) | none => false

theorem refreshLoop_eq (k : Nat) : b.refreshLoop k =
    (let m := b.rd (Pg.hbm k 0) R.HBM_REF_MULT
     let env := b.rd (Pg.hbm k 0) R.HBM_REF_ENV
     let hi := b.rd (Pg.hbm k 0) R.HBM_CE_HI
     let lo := b.rd (Pg.hbm k 0) R.HBM_CE_LO
     let c := b.refreshSeen k
     if env < m then c.govAct LOOP_REFRESH k 2 RSN_ENVELOPE (b.errNow k) env m env (setMult k env)
     else if hi < b.errNow k then (if m < env then c.govAct LOOP_REFRESH k 1 RSN_ERROR_RATE (b.errNow k) hi m (m + 1) (setMult k (m + 1)) else c)
     else if errsLow (b.errSecs k) lo ∧ 1 < m then c.govAct LOOP_REFRESH k 2 RSN_ERROR_RATE (b.errNow k) lo m (m - 1) (setMult k (m - 1))
     else c) := rfl

theorem refreshSeen_spec (k : Nat) : Keeps [Pg.hbm k 0] b (b.refreshSeen k) ∧ (b.refreshSeen k).gov = b.gov ∧ (b.refreshSeen k).clk = b.clk ∧
    (b.rd (Pg.hbm k 0) R.HBM_CE_HI < b.errNow k → (b.refreshSeen k).rd (Pg.hbm k 0) (evtPend R.HBM_EVT_CE_HI) = 1) := by
  have hp := hbm_page (k := k) (n := 0) (by decide)
  have hm : Keeps [Pg.hbm k 0] b (b.errsMeasure k) := (Keeps.refl b).of_eq rfl rfl rfl rfl
  unfold refreshSeen
  split_ifs with h
  · exact ⟨hm.fire (by decide) hp.1 (by simp), by simp [errsMeasure], by simp [errsMeasure],
      fun _ => fire_pend _ (by decide) hp.1⟩
  · exact ⟨hm, rfl, rfl, fun hh => absurd hh h⟩

/-- An action of the REFRESH loop on what it has seen. -/
theorem refreshSeen_acts {k v : Nat} (hready : b.loopReady LOOP_REFRESH k) (hv : v < 8) (a r i o n w : Nat) :
    ((b.refreshSeen k).govAct LOOP_REFRESH k a r i o n w (setMult k v)).rd (Pg.hbm k 0) R.HBM_REF_MULT = v ∧
    ((b.refreshSeen k).govAct LOOP_REFRESH k a r i o n w (setMult k v)).rd Pg.governor R.GOV_ACT_CNT LOOP_REFRESH = (b.rd Pg.governor R.GOV_ACT_CNT LOOP_REFRESH + 1) % 2 ^ 16 ∧
    (b.rd (Pg.hbm k 0) R.HBM_CE_HI < b.errNow k →
      ((b.refreshSeen k).govAct LOOP_REFRESH k a r i o n w (setMult k v)).rd (Pg.hbm k 0) (evtPend R.HBM_EVT_CE_HI) = 1) := by
  obtain ⟨h1, h2, h3, h4⟩ := refreshSeen_spec (b := b) k
  obtain ⟨k1, k2, k3⟩ := refresh_acted (loopReady_hbm (by decide) h1 h2 h3 hready) hv a r i o n w
  refine ⟨k1, ?_, fun h => k3 (h4 h)⟩
  rw [k2, gov_hbm h1 (by decide)]

/-- The loop sets the multiplier, and counts that. -/
def Multiplied (b : Body) (k v : Nat) (c : Body) : Prop :=
  c.rd (Pg.hbm k 0) R.HBM_REF_MULT = v ∧ c.rd Pg.governor R.GOV_ACT_CNT LOOP_REFRESH = (b.rd Pg.governor R.GOV_ACT_CNT LOOP_REFRESH + 1) % 2 ^ 16 ∧
    (b.rd (Pg.hbm k 0) R.HBM_CE_HI < b.errNow k → c.rd (Pg.hbm k 0) (evtPend R.HBM_EVT_CE_HI) = 1)

theorem refreshLoop_envelope {k : Nat} (hready : b.loopReady LOOP_REFRESH k) (h : b.rd (Pg.hbm k 0) R.HBM_REF_ENV < b.rd (Pg.hbm k 0) R.HBM_REF_MULT) :
    b.Multiplied k (b.rd (Pg.hbm k 0) R.HBM_REF_ENV) (b.refreshLoop k) := by
  have hm : b.rd (Pg.hbm k 0) R.HBM_REF_MULT < 2 ^ 3 := b.rd_lt (Pg.hbm k 0) R.HBM_REF_MULT 0 0
  rw [refreshLoop_eq]
  dsimp only
  rw [if_pos h]
  exact refreshSeen_acts hready (by omega) _ _ _ _ _ _

theorem refreshLoop_up {k : Nat} (hready : b.loopReady LOOP_REFRESH k) (hce : b.rd (Pg.hbm k 0) R.HBM_CE_HI < b.errNow k)
    (h : b.rd (Pg.hbm k 0) R.HBM_REF_MULT < b.rd (Pg.hbm k 0) R.HBM_REF_ENV) (h7 : b.rd (Pg.hbm k 0) R.HBM_REF_MULT < 7) :
    b.Multiplied k (b.rd (Pg.hbm k 0) R.HBM_REF_MULT + 1) (b.refreshLoop k) := by
  rw [refreshLoop_eq]
  dsimp only
  rw [if_neg (Nat.not_lt.mpr (Nat.le_of_lt h)), if_pos hce, if_pos h]
  exact refreshSeen_acts hready (by omega) _ _ _ _ _ _

theorem refreshLoop_down {k : Nat} (hready : b.loopReady LOOP_REFRESH k) (hce : b.errNow k ≤ b.rd (Pg.hbm k 0) R.HBM_CE_HI)
    (h : b.rd (Pg.hbm k 0) R.HBM_REF_MULT ≤ b.rd (Pg.hbm k 0) R.HBM_REF_ENV)
    (hlow : ∀ x ∈ b.errSecs k, ∃ n, x = some n ∧ n < b.rd (Pg.hbm k 0) R.HBM_CE_LO) (h1 : 1 < b.rd (Pg.hbm k 0) R.HBM_REF_MULT) :
    b.Multiplied k (b.rd (Pg.hbm k 0) R.HBM_REF_MULT - 1) (b.refreshLoop k) := by
  have hm : b.rd (Pg.hbm k 0) R.HBM_REF_MULT < 2 ^ 3 := b.rd_lt (Pg.hbm k 0) R.HBM_REF_MULT 0 0
  have hall : errsLow (b.errSecs k) (b.rd (Pg.hbm k 0) R.HBM_CE_LO) = true := by
    refine List.all_eq_true.mpr fun x hx => ?_
    obtain ⟨n, rfl, hn⟩ := hlow x hx
    exact decide_eq_true hn
  rw [refreshLoop_eq]
  dsimp only
  rw [if_neg (Nat.not_lt.mpr h), if_neg (Nat.not_lt.mpr hce), if_pos ⟨hall, h1⟩]
  exact refreshSeen_acts hready (by omega) _ _ _ _ _ _

/-! The RETRAIN loop (R342). -/

/-- The periodic check of a pseudo-channel noted. -/
def checked (b : Body) (k pc : Nat) (periodic : Bool) : Body := if periodic then b.mark (Mk.check (pcKey k pc)) else b

theorem checked_cases (k pc : Nat) (periodic : Bool) : ∃ l, b.checked k pc periodic = { b with marks := l } := by
  unfold checked
  split_ifs
  · exact ⟨_, rfl⟩
  · exact ⟨b.marks, rfl⟩

/-- A pseudo-channel's own settings are gone for the current rate. -/
theorem pcRetrained_delay {k pc kind lane : Nat} (hkind : kind < 8) (hlane : lane < 64) :
    Sp.get 0 (pcRetrained k pc b).hbm.delay (delayKey k (b.rd (Pg.hbm k 0) R.HBM_RATE_CUR) pc kind lane) = 0 := by
  refine Sp.get_of_notMem _ _ _ fun e he hk => ?_
  have h := (List.mem_filter.mp he).2
  rw [hk] at h
  have hin : delayKey k (b.rd (Pg.hbm k 0) R.HBM_RATE_CUR) pc 0 0 ≤ delayKey k (b.rd (Pg.hbm k 0) R.HBM_RATE_CUR) pc kind lane ∧
      delayKey k (b.rd (Pg.hbm k 0) R.HBM_RATE_CUR) pc kind lane < delayKey k (b.rd (Pg.hbm k 0) R.HBM_RATE_CUR) pc 0 0 + 512 := by
    unfold delayKey
    omega
  simp only [Bool.or_eq_true, decide_eq_true_eq] at h
  have h' : delayKey k (b.rd (Pg.hbm k 0) R.HBM_RATE_CUR) pc kind lane < delayKey k (b.rd (Pg.hbm k 0) R.HBM_RATE_CUR) pc 0 0 ∨
      delayKey k (b.rd (Pg.hbm k 0) R.HBM_RATE_CUR) pc 0 0 + 512 ≤ delayKey k (b.rd (Pg.hbm k 0) R.HBM_RATE_CUR) pc kind lane := h
  omega

theorem pcRetrain_idle {k pc margin : Nat} (h : b.passed (Mk.check (pcKey k pc)) (max 1 (b.rd Pg.sump R.RT_CHECK_S) * 1000000000) = false) :
    b.pcRetrain k pc margin true = b := by
  unfold pcRetrain
  rw [if_pos ⟨rfl, by rw [h]; decide⟩]

/-- The corrected errors of a pseudo-channel in the last second. -/
def pcErrors (b : Body) (k pc : Nat) : Nat := ((Sp.get [] b.hbm.pcErr (pcKey k pc)).filter fun t => decide (b.clk < t + 1000000000)).length

/-- What the loop does of a pseudo-channel that it looks at. -/
def pcJudged (b : Body) (k pc margin : Nat) (periodic : Bool) : Body :=
  if ¬ b.on Pg.sump R.RT_HBM_EN ∨ ¬ b.demandLow k ∨ b.hrd k R.HBM_STEP_BUSY = 1 then b
  else if margin < b.rd Pg.sump R.RT_HBM_MARGIN then
    b.govAct LOOP_RETRAIN k 1 (if periodic then RSN_WINDOW else RSN_ERROR_RATE) margin (b.rd Pg.sump R.RT_HBM_MARGIN) pc pc (pcRetrained k pc)
  else if b.rd Pg.sump R.RT_CE_THR < b.pcErrors k pc then
    b.govAct LOOP_RETRAIN k 1 RSN_ERROR_RATE (b.pcErrors k pc) (b.rd Pg.sump R.RT_CE_THR) pc pc (pcRetrained k pc)
  else b

theorem pcRetrain_eq (k pc margin : Nat) (periodic : Bool) : b.pcRetrain k pc margin periodic =
    if periodic ∧ ¬ b.passed (Mk.check (pcKey k pc)) (max 1 (b.rd Pg.sump R.RT_CHECK_S) * 1000000000) then b
    else (b.checked k pc periodic).pcJudged k pc margin periodic := rfl

theorem pcJudged_acts {k pc margin : Nat} {periodic : Bool} (hen : b.rd Pg.sump R.RT_HBM_EN = 1) (hlow : b.demandLow k = true)
    (hbusy : b.rd (Pg.hbm k 0) R.HBM_STEP_BUSY = 0) (h : margin < b.rd Pg.sump R.RT_HBM_MARGIN ∨ b.rd Pg.sump R.RT_CE_THR < b.pcErrors k pc) :
    ∃ a r i o n v, b.pcJudged k pc margin periodic = b.govAct LOOP_RETRAIN k a r i o n v (pcRetrained k pc) := by
  unfold pcJudged
  rw [if_neg]
  · by_cases hm : margin < b.rd Pg.sump R.RT_HBM_MARGIN
    · exact ⟨_, _, _, _, _, _, if_pos hm⟩
    · exact ⟨_, _, _, _, _, _, (if_neg hm).trans (if_pos (h.resolve_left hm))⟩
  · rintro (h1 | h1 | h1)
    · exact h1 (by rw [on]; exact beq_iff_eq.mpr hen)
    · exact h1 hlow
    · exact absurd (hbusy.symm.trans h1) (by decide)

theorem pcRetrain_spec {k pc margin : Nat} {periodic : Bool} (hready : b.loopReady LOOP_RETRAIN k)
    (hdue : periodic = true → b.passed (Mk.check (pcKey k pc)) (max 1 (b.rd Pg.sump R.RT_CHECK_S) * 1000000000) = true)
    (hen : b.rd Pg.sump R.RT_HBM_EN = 1) (hlow : b.demandLow k = true) (hbusy : b.rd (Pg.hbm k 0) R.HBM_STEP_BUSY = 0)
    (h : margin < b.rd Pg.sump R.RT_HBM_MARGIN ∨ b.rd Pg.sump R.RT_CE_THR < b.pcErrors k pc) :
    (b.pcRetrain k pc margin periodic).rd Pg.governor R.GOV_ACT_CNT LOOP_RETRAIN = (b.rd Pg.governor R.GOV_ACT_CNT LOOP_RETRAIN + 1) % 2 ^ 16 ∧
    ∀ kind lane, kind < 8 → lane < 64 →
      Sp.get 0 (b.pcRetrain k pc margin periodic).hbm.delay (delayKey k (b.rd (Pg.hbm k 0) R.HBM_RATE_CUR) pc kind lane) = 0 := by
  obtain ⟨l, hl⟩ := checked_cases (b := b) k pc periodic
  obtain ⟨a, r, i, o, n, v, he⟩ := pcJudged_acts (b := { b with marks := l }) (periodic := periodic) hen hlow hbusy h
  have hact := govAct_acted (b := { b with marks := l }) (loop := LOOP_RETRAIN) (by decide) hready a r i o n v (pcRetrained k pc)
  rw [pcRetrain_eq, if_neg (by rintro ⟨h1, h2⟩; exact h2 (hdue h1)), hl, he]
  refine ⟨hact.cnt, fun kind lane h1 h2 => ?_⟩
  rw [(still_eq hact.still).2.2.2.1]
  exact pcRetrained_delay (b := { b with marks := l }) h1 h2

theorem readaptNote_spec (p : Nat) : b.clk ∈ Sp.get [] (readaptNote p b).gov.readapt p ∧
    ∀ i < 6, (readaptNote p b).rd Pg.governor R.GOV_ACT_CNT i = b.rd Pg.governor R.GOV_ACT_CNT i := by
  unfold readaptNote
  dsimp only
  split_ifs
  · refine ⟨?_, fun i hi => ?_⟩
    · rw [(fire_rest _ _ _).2.2.2.2.2.1]
      dsimp only
      rw [Sp.get_set_self]
      simp
    · refine (rd_fire _ (by decide) (by decide) (.inl ?_) ?_ ?_ ?_).trans rfl <;>
        simp only [Fld.addr, R.GOV_ACT_CNT, Pg.governor, Pg.sump] <;> omega
  · refine ⟨?_, fun i hi => rfl⟩
    dsimp only
    rw [Sp.get_set_self]
    simp

theorem serdesReadapt_spec {p : Nat} (hready : b.loopReady LOOP_RETRAIN (0x200 + p / 8)) (hen : b.rd Pg.sump R.RT_SER_EN = 1)
    (hhi : b.rd (Pg.lane p) R.PORT_HI_SER ≠ 0) (hgive : p ∉ b.gov.giveUp)
    (hdue : b.passed (Mk.hiSer p) (b.rd Pg.sump R.RT_SER_DWELL * 1000000) = true) :
    (b.serdesReadapt p).rd Pg.governor R.GOV_ACT_CNT LOOP_RETRAIN = (b.rd Pg.governor R.GOV_ACT_CNT LOOP_RETRAIN + 1) % 2 ^ 16 ∧
    b.clk ∈ Sp.get [] (b.serdesReadapt p).gov.readapt p := by
  obtain ⟨h1, h2⟩ := readaptNote_spec (b := b) p
  unfold serdesReadapt
  rw [if_neg]
  · have hact := govAct_acted (loop := LOOP_RETRAIN) (by decide) hready 2 RSN_ERROR_RATE (b.prd p R.PORT_HI_SER) (b.rd Pg.sump R.RT_SER_DWELL) p p (readaptNote p)
    exact ⟨by rw [hact.cnt, h2 _ (by decide)], by rw [hact.readapt]; exact h1⟩
  · rintro (h | h | h | h)
    · exact h (by rw [on]; exact beq_iff_eq.mpr hen)
    · exact hhi h
    · exact hgive (List.contains_iff_mem.mp h)
    · exact h hdue

theorem actCnt_govEnd (loop inst i : Nat) : (b.govEnd loop inst).rd Pg.governor R.GOV_ACT_CNT i = b.rd Pg.governor R.GOV_ACT_CNT i := by
  unfold govEnd govBusy
  split_ifs
  · exact grd_wr _ (by decide) (by decide) (.inr (by decide))
  · rfl

/-- A register of the Governor where only a far port's page changes. -/
theorem actCnt_far {p i : Nat} (hi : i < 6) (h : Keeps [Pg.far p 0] b c) : c.rd Pg.governor R.GOV_ACT_CNT i = b.rd Pg.governor R.GOV_ACT_CNT i := by
  obtain ⟨h1, h2⟩ := far_page (p := p) (n := 0) (by decide)
  have hlow : Pg.far p 0 ≠ Pg.governor := by simp only [Pg.far, Pg.governor]; omega
  refine h.regs _ _ _ _ (by decide) ?_ ?_
  · simp only [notedAt, Fld.addr, R.GOV_ACT_CNT, Pg.governor, Bool.or_eq_false_iff, beq_eq_false_iff_ne]
    omega
  · rw [List.mem_singleton]
    simp only [pageOf, Fld.addr, R.GOV_ACT_CNT]
    unfold Pg.governor at hlow ⊢
    omega

theorem farMove_actCnt {p i : Nat} (hi : i < 6) (x : Nat) : (b.farMove p x).rd Pg.governor R.GOV_ACT_CNT i = b.rd Pg.governor R.GOV_ACT_CNT i := by
  have hp := far_page (p := p) (n := 0) (by decide)
  have hmoved : ∀ d : Body, Keeps [Pg.far p 0] d ((d.wr (Pg.far p 0) R.FAR_STATE x).fire (Pg.far p 0) R.FAR_EVT_LINK) := fun d =>
    ((Keeps.refl d).wrPage (by simp) hp.1 (by decide)).fire (by decide) hp.1 (by simp)
  unfold farMove
  split_ifs
  · rfl
  · rw [actCnt_govEnd]
    exact (actCnt_far hi (hmoved (b.mark _))).trans rfl
  · rw [actCnt_govEnd]
    exact actCnt_far hi (hmoved b)

/-- A link taken into Recovery as an action of the loop (R342). -/
def recover (p : Nat) (b : Body) : Body := (b.farRecovery p).govBegin LOOP_RETRAIN (0x300 + p) true

theorem recover_spec {p : Nat} (h : b.frd p R.FAR_STATE = FAR_READY) : (recover p b).rd (Pg.far p 0) R.FAR_STATE = FAR_RECOVERY_ST ∧
    (recover p b).rd Pg.governor R.GOV_BUSY LOOP_RETRAIN = 1 ∧ ∀ i < 6, (recover p b).rd Pg.governor R.GOV_ACT_CNT i = b.rd Pg.governor R.GOV_ACT_CNT i := by
  have hmove := (farMove_spec (b := b) (p := p) (x := FAR_RECOVERY_ST) (by decide) (by rw [h]; decide)).1
  have hcnt := fun i hi => farMove_actCnt (b := b) (p := p) (i := i) hi FAR_RECOVERY_ST
  have he : b.farRecovery p = (b.farMove p FAR_RECOVERY_ST).count (Pg.far p 0) FAR_RECOVERY := if_pos h
  unfold recover
  rw [he]
  generalize b.farMove p FAR_RECOVERY_ST = d at hmove hcnt
  obtain ⟨k1, k2, k3⟩ := govBegin_spec (b := d.count (Pg.far p 0) FAR_RECOVERY) LOOP_RETRAIN (0x300 + p) (by decide) true
  refine ⟨(k1.aside (far_page (by decide)) (by decide)).trans ((count_rd ..).trans hmove), k3 rfl, fun i hi => ?_⟩
  rw [k2, count_rd, hcnt i hi]

theorem cxlRecovery_spec {p : Nat} (hready : b.loopReady LOOP_RETRAIN (0x300 + p)) (hen : b.rd Pg.sump R.RT_CXL_EN = 1)
    (hlow : b.rd Pg.sump R.RT_CXL_REPLAY < b.replaysLow p) (hup : b.farReady p = true) :
    (b.cxlRecovery p).rd Pg.governor R.GOV_ACT_CNT LOOP_RETRAIN = (b.rd Pg.governor R.GOV_ACT_CNT LOOP_RETRAIN + 1) % 2 ^ 16 ∧
    (b.cxlRecovery p).rd (Pg.far p 0) R.FAR_STATE = FAR_RECOVERY_ST ∧ (b.cxlRecovery p).rd Pg.governor R.GOV_BUSY LOOP_RETRAIN = 1 := by
  obtain ⟨h1, h2, h3⟩ := recover_spec (b := b) (p := p) (beq_iff_eq.mp hup)
  have hact := fun a r i o n v => govAct_acted (loop := LOOP_RETRAIN) (by decide) hready a r i o n v (recover p)
  unfold cxlRecovery
  dsimp only
  rw [if_neg]
  · refine ⟨(hact _ _ _ _ _ _).cnt.trans ?_, ((hact _ _ _ _ _ _).keeps.aside (far_page (by decide)) (by decide)).trans h1, (hact _ _ _ _ _ _).busy.trans h2⟩
    rw [h3 _ (by decide)]
  · rintro (h | h | h)
    · exact h (by rw [on]; exact beq_iff_eq.mpr hen)
    · omega
    · exact h hup

end

end Body

end Sys2Proof.Machine

namespace Sys2Proof
open Machine

/-- Settles O34: every loop's action is `govAct`'s, whose count and records stand beside what the loop sets. -/
theorem powerAndRetrainLoops : Obligations.PowerAndRetrainLoops := by
  unfold Obligations.PowerAndRetrainLoops
  intro s b acted ready
  have hacted : ∀ {c : Body} {loop : Nat}, loop < 6 →
      c.rd Pg.governor R.GOV_ACT_CNT loop = (b.rd Pg.governor R.GOV_ACT_CNT loop + 1) % 2 ^ 16 → acted (s.withBody c) loop := fun hl h =>
    State.withBody_gov h (by decide) (by simp only [R.GOV_ACT_CNT]; omega)
  refine ⟨fun g u v hg hr hready => ?_, fun k u v hk hr hready hbusy => ?_, fun hready hr => ?_, fun k u v hk hready hr => ?_,
    fun k pc margin u v periodic hk hpc hr => ?_, fun p hp hr hready hen hhi hgive hdue => ?_, fun p u hp hr hready hen hlow hup => ?_⟩
  · intro p n loads load peak long req old env er up down step rest want
    refine ⟨fun hdue hne => ?_, fun hidle => ?_⟩
    · obtain ⟨h1, h2⟩ := Body.powerLoop_acts hdue hready (v := want) rfl hne
      exact ⟨_, State.body_withBody (decide_eq_true hg) hr rfl, (State.gal_reg (by decide)).trans h1, hacted (by decide) h2⟩
    · have he : exec (.powerLoopDecision g u v) s = .next (s.withBody b) :=
        State.body_withBody (decide_eq_true hg) hr (if_neg (by rw [hidle]; decide))
      rw [he, State.withBody_self]
  · intro n demands d peak long cur fast slow up down r hdue hne hok
    obtain ⟨h1, h2, h3⟩ := Body.sumpRate_acts hdue hready hk hbusy (r := r) (Body.rateWant_measured k) hne hok
    exact ⟨_, State.body_withBody (decide_eq_true hk) hr rfl, (State.withBody_hbm 0 0).trans h1, hacted (by decide) h2,
      fun h => (State.withBody_hbm 0 0).trans (h3 h)⟩
  · intro cap
    have hexec : exec .thermalLoopDecision s = .next (s.withBody b.thermalLoop) := State.body_withBody rfl hr rfl
    have hcap : ∀ c : Body, (s.withBody c).reg Pg.lamp R.TH_CAP = c.rd Pg.lamp R.TH_CAP := fun c => State.lamp_reg (by decide) (by decide)
    refine ⟨fun h hlt => ?_, fun h1 h2 h3 hlt => ?_, fun h1 h2 h3 => ?_⟩
    · obtain ⟨k1, k2⟩ := Body.thermalLoop_up hready h hlt
      exact ⟨_, hexec, (hcap _).trans k1, hacted (by decide) k2⟩
    · obtain ⟨k1, k2⟩ := Body.thermalLoop_down hready h1 h2 h3 hlt
      exact ⟨_, hexec, (hcap _).trans k1, hacted (by decide) k2⟩
    · rw [hexec, Body.thermalLoop_idle h1 h2 h3, State.withBody_self]
  · intro secs ce m env
    have hexec : exec (.refreshLoopDecision k u v) s = .next (s.withBody (b.refreshLoop k)) := State.body_withBody (decide_eq_true hk) hr rfl
    have hset : ∀ {v : Nat} {c : Body}, b.Multiplied k v c → (s.withBody c).reg (Pg.hbm k 0) R.HBM_REF_MULT = v ∧ acted (s.withBody c) LOOP_REFRESH :=
      fun h => ⟨(State.withBody_hbm 0 0).trans h.1, hacted (by decide) h.2.1⟩
    refine ⟨fun h => ⟨_, hexec, hset (Body.refreshLoop_envelope hready h)⟩, fun hce hlt h7 => ?_,
      fun hce hle hlow hlt => ⟨_, hexec, hset (Body.refreshLoop_down hready hce hle hlow hlt)⟩⟩
    have hup := Body.refreshLoop_up hready hce hlt h7
    exact ⟨_, hexec, (hset hup).1, (hset hup).2, State.withBody_page_evt (Body.hbm_page (by decide)).2 (by decide) (hup.2.2 hce)⟩
  · intro due ce
    have hexec : exec (.hbmPcRetrain k pc margin u v periodic) s = .next (s.withBody (b.pcRetrain k pc margin periodic)) :=
      State.body_withBody (by rw [decide_eq_true hk, decide_eq_true hpc]; rfl) hr rfl
    refine ⟨fun hper hdue => ?_, fun hready hdue hen hlow hbusy h => ?_⟩
    · subst hper
      rw [hexec, Body.pcRetrain_idle hdue, State.withBody_self]
    · obtain ⟨h1, h2⟩ := Body.pcRetrain_spec hready hdue hen hlow hbusy h
      refine ⟨_, hexec, hacted (by decide) h1, fun kind lane hkind hlane => ?_⟩
      rw [State.withBody_hbmSt]
      exact h2 kind lane hkind hlane
  · obtain ⟨h1, h2⟩ := Body.serdesReadapt_spec hready hen hhi hgive hdue
    refine ⟨_, State.body_withBody (decide_eq_true hp) hr rfl, hacted (by decide) h1, ?_⟩
    rw [(by simp : ∀ c : Body, (s.withBody c).dev.body.gov = c.gov)]
    exact h2
  · obtain ⟨h1, h2, h3⟩ := Body.cxlRecovery_spec hready hen hlow hup
    exact ⟨_, State.body_withBody (decide_eq_true hp) hr rfl, hacted (by decide) h1, (State.withBody_far 0).trans h2, State.withBody_gov h3⟩

end Sys2Proof
end

section
/-! O12: validation, waiting and apply of a Cairn slot (R58 to R65, R69, R522). -/

namespace Sys2Proof.Machine

namespace Body

section
variable {b c : Body} {n : Nat}

/-! What the end of a slot leaves of the Cairn page. -/

/-- Other fields of the Cairn page than a slot's state and result. -/
theorem crd_slotDone (hn : n < 8) {r k : Nat} {g : Fld} (hg : g.lo < 32 ∧ 0x80 ≤ g.off ∧ g.off + g.stride * k < 0x1000)
    (hne : g.off + g.stride * k ≠ 0x114 + 0x40 * n ∨ (g.lo ≠ 28 ∧ g.lo ≠ 24)) : (b.slotDone n r).crd g k = b.crd g k := by
  have hset : ∀ (d : Body) (f : Fld) (v : Nat), f.lo < 32 ∧ f.off = 0x114 ∧ f.stride = 0x40 ∧ (f.lo = 28 ∨ f.lo = 24) →
      (d.cwr f n v).crd g k = d.crd g k := fun d f v ⟨h1, h2, h3, h4⟩ => by
    refine d.rd_wr_ne v h1 hg.1 ?_
    simp only [Fld.addr, h2, h3]
    omega
  unfold slotDone
  dsimp only
  rw [crd_fire _ (by simp only [R.CAIRN_EVT_DONE]; omega) hg, hset _ _ _ (by decide), hset _ _ _ (by decide)]
  rfl

theorem slotDone_cairn (n r : Nat) : (b.slotDone n r).cairn = (b.setSlot n {}).cairn ∧ (b.slotDone n r).tbls = b.tbls := by
  simp [slotDone, cwr, setSlot]

/-! Validation (R58). -/

theorem cairnValidateDone_passes (hst : b.crd R.CAIRN_STATE n = CS_VALIDATE) (hecc : b.stagedEcc n = []) (hbad : b.stagedBad n = []) :
    b.cairnValidateDone n = ({ b with fresh := b.fresh + 1 } : Body).slotPending n := by
  unfold cairnValidateDone
  rw [if_neg (not_not.mpr hst), hecc, hbad]
  rfl

theorem cairnValidateDone_fails (hst : b.crd R.CAIRN_STATE n = CS_VALIDATE) {a : Nat} {t : List Nat} (h : b.stagedEcc n ++ b.stagedBad n = a :: t) :
    b.cairnValidateDone n = (({ b with fresh := b.fresh + 1 } : Body).cwr R.CAIRN_ERRADDR n (t.foldl min a)).slotDone n
      (if b.stagedEcc n ≠ [] then CR_ECC else CR_INVALID) := by
  unfold cairnValidateDone
  rw [if_neg (not_not.mpr hst)]
  dsimp only
  rw [h]
  dsimp only
  by_cases hecc : b.stagedEcc n = []
  · have hbad : b.stagedBad n ≠ [] := fun hb => by simp [hecc, hb] at h
    rw [if_neg (not_not.mpr hecc), if_pos hbad, if_neg (not_not.mpr hecc)]
  · rw [if_pos hecc, if_pos hecc]

theorem slotPending_spec (hn : n < 8) : (b.slotPending n).crd R.CAIRN_STATE n = CS_PENDING ∧
    ((b.slotPending n).slot n).staged = (b.slot n).staged ∧ ((b.slotPending n).slot n).since = b.clk ∧ Keeps [Pg.cairn] b (b.slotPending n) := by
  have hstate : (b.cwr R.CAIRN_STATE n CS_PENDING).crd R.CAIRN_STATE n = CS_PENDING := crd_cwr_self ..
  have hk : Keeps [Pg.cairn] b (b.cwr R.CAIRN_STATE n CS_PENDING) := (Keeps.refl b).cwr hn (by decide)
  unfold slotPending
  dsimp only
  split_ifs
  · refine ⟨?_, ?_, ?_, hk.setSlot.fire (by decide) (by decide) (by simp)⟩
    · rw [crd_fire _ (by decide) ⟨by decide, by decide, by simp only [R.CAIRN_STATE]; omega⟩]
      exact hstate
    · rw [slot_fire, slot_set, slot_cwr]
    · rw [slot_fire, slot_set]
      rfl
  · refine ⟨hstate, ?_, ?_, hk.setSlot⟩
    · rw [slot_set, slot_cwr]
    · rw [slot_set]
      rfl

theorem stagedEcc_nil : b.stagedEcc n = [] ↔ ∀ x, ¬ (x ∈ (b.slot n).staged ∧ Config.stagingEcc b.fresh x.addr = true) := by
  simp [stagedEcc, List.filter_eq_nil_iff]

theorem mem_staged_fails (a : Nat) : a ∈ b.stagedEcc n ++ b.stagedBad n ↔ ∃ x, ((x ∈ (b.slot n).staged ∧ Config.stagingEcc b.fresh x.addr = true) ∨
    (x ∈ (b.slot n).staged ∧ b.targetFails (b.overlay (b.slot n).staged) (b.slot n).staged x = true)) ∧ x.addr = a := by
  simp only [stagedEcc, stagedBad, List.mem_append, List.mem_map, List.mem_filter]
  constructor
  · rintro (⟨x, h, rfl⟩ | ⟨x, h, rfl⟩)
    · exact ⟨x, .inl h, rfl⟩
    · exact ⟨x, .inr h, rfl⟩
  · rintro ⟨x, h | h, rfl⟩
    · exact .inl ⟨x, h, rfl⟩
    · exact .inr ⟨x, h, rfl⟩

/-- The least of a list as validation finds it. -/
theorem foldl_min_eq {m a : Nat} {t : List Nat} (hm : m ∈ a :: t) (hle : ∀ y ∈ a :: t, m ≤ y) : t.foldl min a = m := by
  have h : (a :: t).min? = some m := List.min?_eq_some_iff.mpr ⟨hm, hle⟩
  rw [List.min?_cons'] at h
  exact Option.some.inj h

theorem cairnWaitExceeded_waits (hst : b.crd R.CAIRN_STATE n = CS_PENDING) (hseen : (b.slot n).waitSeen = false) (hlate : b.waitOver n = true) :
    b.cairnWaitExceeded n = (b.setSlot n { (b.slot n) with waitSeen := true }).fire Pg.cairn R.CAIRN_EVT_WAIT := by
  unfold cairnWaitExceeded
  rw [if_pos ⟨hst, by simp [hseen], hlate⟩]

theorem waitOver_iff : b.waitOver n = true ↔ (if b.crd R.CAIRN_MODE n = 2 then
    (b.slotTarget n + b.rd Pg.cairn R.CAIRN_WAIT_LIMIT * 1000) * 65536 < b.tod else (b.slot n).since + b.rd Pg.cairn R.CAIRN_WAIT_LIMIT * 1000 < b.clk) := by
  unfold waitOver
  dsimp only
  split_ifs <;> exact decide_eq_true_iff

/-! The apply instant (R59). -/

/-- The parser's test of a key profile leaves Cairn alone. -/
theorem kpTest_cairn (gp : Nat × Nat) : (b.kpTest gp).cairn = b.cairn ∧ (b.kpTest gp).rd Pg.cairn R.CAIRN_EPOCH_CUR = b.rd Pg.cairn R.CAIRN_EPOCH_CUR := by
  unfold kpTest
  split_ifs
  · refine ⟨by simp, ?_⟩
    refine b.rd_fire (by decide) (by decide) ?_ ?_ (by decide) (by decide) <;>
      simp only [Fld.addr, R.CAIRN_EPOCH_CUR, Pg.parser, Pg.gallery, Pg.cairn] <;> omega
  · exact ⟨rfl, rfl⟩

/-- The old values that an apply keeps (R21). -/
def oldValues (b : Body) (l : List Staged) : List OldVal :=
  (l.filter fun s => s.tgt.governed).map fun s => { flip := b.cairn.flips + 1, tgt := s.tgt, val := b.targetNow s.tgt }

/-- The nodes whose entries a slot stages. -/
def stagedNodes (l : List Staged) : List (Nat × Nat) := (l.map fun s => match s.tgt with | .ent t i => schNode t i | _ => []).flatten

/-- The engine with the staged values in place. -/
def stagedPut (b : Body) (l : List Staged) : Body := b.detaching (stagedNodes l) fun b => l.foldl (fun b s => b.targetTake s) b

/-- The epoch flips. -/
def epochFlip (c : Body) (f : Nat) (olds : List OldVal) : Body :=
  let d := { c with cairn := { c.cairn with flips := f, flipAt := c.cairn.flipAt ++ [(f, c.clk)], old := c.cairn.old ++ olds } }
  (d.wr Pg.cairn R.CAIRN_EPOCH_CUR (f % 4)).wr Pg.cairn R.CAIRN_FLIP_CNT f

/-- The key profiles whose registers a slot stages. -/
def stagedProfiles (l : List Staged) : List (Nat × Nat) :=
  (l.filterMap fun s => match s.tgt with | .reg a => profileOf a | _ => none).eraseDups

theorem stagedTake_eq (l : List Staged) : b.stagedTake l =
    (stagedProfiles l).foldl (fun b gp => b.kpTest gp) ((b.stagedPut l).epochFlip (b.cairn.flips + 1) (b.oldValues l)) := rfl

theorem epochFlip_spec (f : Nat) (olds : List OldVal) : (c.epochFlip f olds).cairn.flips = f ∧ (c.epochFlip f olds).cairn.old = c.cairn.old ++ olds ∧
    (c.epochFlip f olds).rd Pg.cairn R.CAIRN_EPOCH_CUR = f % 4 := by
  refine ⟨rfl, rfl, ?_⟩
  unfold epochFlip
  refine (rd_wr_ne _ _ (by decide) (by decide) (.inr (by decide))).trans ((rd_wr_self ..).trans ?_)
  exact Nat.mod_mod f 4

theorem stagedTake_spec (l : List Staged) : (b.stagedTake l).cairn.flips = b.cairn.flips + 1 ∧
    (∀ o ∈ b.oldValues l, o ∈ (b.stagedTake l).cairn.old) ∧ (b.stagedTake l).rd Pg.cairn R.CAIRN_EPOCH_CUR = (b.cairn.flips + 1) % 4 := by
  obtain ⟨h1, h2, h3⟩ := epochFlip_spec (c := b.stagedPut l) (b.cairn.flips + 1) (b.oldValues l)
  rw [stagedTake_eq]
  generalize (b.stagedPut l).epochFlip (b.cairn.flips + 1) (b.oldValues l) = d at h1 h2 h3
  have hkp := foldl_keeps (fun e : Body => e.cairn = d.cairn ∧ e.rd Pg.cairn R.CAIRN_EPOCH_CUR = d.rd Pg.cairn R.CAIRN_EPOCH_CUR)
    (fun (b : Body) gp => b.kpTest gp) (fun e gp ⟨k1, k2⟩ => ⟨(kpTest_cairn gp).1.trans k1, (kpTest_cairn gp).2.trans k2⟩) (stagedProfiles l) d ⟨rfl, rfl⟩
  obtain ⟨k1, k2⟩ := hkp
  rw [k1, k2]
  exact ⟨h1, fun o ho => by rw [h2]; exact List.mem_append_right _ ho, h3⟩

/-- One staged word of microcode: the word, and nothing else outside Cairn. -/
theorem stagedTake_patch (g w v a : Nat) :
    (b.stagedTake [{ tgt := .patch g w, val := v, addr := a }]).tbls = Sp.set 0 b.tbls (entKey (Tbl.patch g) w) v ∧
    (b.stagedTake [{ tgt := .patch g w, val := v, addr := a }]).tod = b.tod :=
  ⟨rfl, rfl⟩

/-- What an apply takes: the staged values, the patch's version, and the security version that is due. -/
def applyTaken (b : Body) (x : Slot') : Body :=
  let b := b.stagedTake x.staged
  let b := match x.patch with
    | some v => b.wr Pg.boot R.BOOT_AE_PATCH_VER v
    | none => b
  match x.svn with
    | some v => { b with boot := { b.boot with svnDue := max b.boot.svnDue v } }
    | none => b

/-- What an apply notes of its slot. -/
def applyStamped (c : Body) (n late : Nat) : Body :=
  let b := ((c.cwr R.CAIRN_EPOCH_TO n c.cairn.flips).cwr R.CAIRN_APSEC n c.todSec).cwr R.CAIRN_APNS n c.todNs
  if 2 * 65536 < late then
    (b.cwr R.CAIRN_LATE n (min (b.crd R.CAIRN_LATE n + late / 65536) (2 ^ 32 - 1))).fire Pg.cairn R.CAIRN_EVT_LATE else b

theorem slotApply_eq (n : Nat) : ∃ late, b.slotApply n = ((b.applyTaken (b.slot n)).applyStamped n late).slotDone n CR_APPLIED := ⟨_, rfl⟩

theorem applyTaken_spec (x : Slot') : (b.applyTaken x).cairn = (b.stagedTake x.staged).cairn ∧ (b.applyTaken x).tbls = (b.stagedTake x.staged).tbls ∧
    (b.applyTaken x).tod = (b.stagedTake x.staged).tod ∧
    (b.applyTaken x).rd Pg.cairn R.CAIRN_EPOCH_CUR = (b.stagedTake x.staged).rd Pg.cairn R.CAIRN_EPOCH_CUR := by
  have hboot : ∀ (d : Body) v, (d.wr Pg.boot R.BOOT_AE_PATCH_VER v).rd Pg.cairn R.CAIRN_EPOCH_CUR = d.rd Pg.cairn R.CAIRN_EPOCH_CUR := fun d v =>
    rd_wr_ne _ _ (by decide) (by decide) (.inl (by decide))
  unfold applyTaken
  cases x.patch with
  | none => cases x.svn <;> exact ⟨rfl, rfl, rfl, rfl⟩
  | some v => cases x.svn <;> exact ⟨rfl, rfl, rfl, hboot _ v⟩

theorem applyStamped_spec (hn : n < 8) (late : Nat) : (c.applyStamped n late).cairn = c.cairn ∧ (c.applyStamped n late).tbls = c.tbls ∧
    (c.applyStamped n late).crd R.CAIRN_EPOCH_CUR 0 = c.crd R.CAIRN_EPOCH_CUR 0 ∧
    (c.applyStamped n late).crd R.CAIRN_EPOCH_TO n = c.cairn.flips % 4 ∧ (c.applyStamped n late).crd R.CAIRN_APNS n = c.todNs % 2 ^ 30 := by
  have hcur : ∀ (d : Body) (f : Fld) (v : Nat), f.lo < 32 ∧ f.off ≠ 0x80 ∧ 0x100 ≤ f.off → (d.cwr f n v).crd R.CAIRN_EPOCH_CUR 0 = d.crd R.CAIRN_EPOCH_CUR 0 :=
    fun d f v h => rd_wr_ne _ _ h.1 (by decide) (.inl (by simp only [Fld.addr, R.CAIRN_EPOCH_CUR]; omega))
  have hto : (((c.cwr R.CAIRN_EPOCH_TO n c.cairn.flips).cwr R.CAIRN_APSEC n c.todSec).cwr R.CAIRN_APNS n c.todNs).crd R.CAIRN_EPOCH_TO n = c.cairn.flips % 4 := by
    rw [crd_cwr_ne _ (by decide), crd_cwr_ne _ (by decide), crd_cwr_self]
    rfl
  have hns : (((c.cwr R.CAIRN_EPOCH_TO n c.cairn.flips).cwr R.CAIRN_APSEC n c.todSec).cwr R.CAIRN_APNS n c.todNs).crd R.CAIRN_APNS n = c.todNs % 2 ^ 30 := by
    rw [crd_cwr_self]
    rfl
  have h0 : (((c.cwr R.CAIRN_EPOCH_TO n c.cairn.flips).cwr R.CAIRN_APSEC n c.todSec).cwr R.CAIRN_APNS n c.todNs).crd R.CAIRN_EPOCH_CUR 0 =
      c.crd R.CAIRN_EPOCH_CUR 0 := by
    rw [hcur _ _ _ (by decide), hcur _ _ _ (by decide), hcur _ _ _ (by decide)]
  have hc : (((c.cwr R.CAIRN_EPOCH_TO n c.cairn.flips).cwr R.CAIRN_APSEC n c.todSec).cwr R.CAIRN_APNS n c.todNs).cairn = c.cairn ∧
    (((c.cwr R.CAIRN_EPOCH_TO n c.cairn.flips).cwr R.CAIRN_APSEC n c.todSec).cwr R.CAIRN_APNS n c.todNs).tbls = c.tbls := ⟨rfl, rfl⟩
  unfold applyStamped
  generalize ((c.cwr R.CAIRN_EPOCH_TO n c.cairn.flips).cwr R.CAIRN_APSEC n c.todSec).cwr R.CAIRN_APNS n c.todNs = d at hto hns h0 hc
  dsimp only
  split_ifs
  · refine ⟨by simp [cwr, hc.1], by simp [cwr, hc.2], ?_, ?_, ?_⟩
    · rw [crd_fire _ (by decide) (by decide), hcur _ _ _ (by decide), h0]
    · rw [crd_fire _ (by decide) ⟨by decide, by decide, by simp only [R.CAIRN_EPOCH_TO]; omega⟩, crd_cwr_ne _ (by decide), hto]
    · rw [crd_fire _ (by decide) ⟨by decide, by decide, by simp only [R.CAIRN_APNS]; omega⟩, crd_cwr_ne _ (by decide), hns]
  · exact ⟨hc.1, hc.2, h0, hto, hns⟩

/-- What a slot that applies leaves (R59, R61, R69). -/
structure SlotApplied (b : Body) (n : Nat) (c : Body) : Prop where
  state : c.crd R.CAIRN_STATE n = CS_DONE
  result : c.crd R.CAIRN_RESULT n = CR_APPLIED
  slot : c.slot n = {}
  told : c.rd Pg.cairn (evtPend (R.CAIRN_EVT_DONE + n)) = 1
  flips : c.cairn.flips = b.cairn.flips + 1
  epoch : c.rd Pg.cairn R.CAIRN_EPOCH_CUR = (b.cairn.flips + 1) % 4
  epochTo : c.crd R.CAIRN_EPOCH_TO n = (b.cairn.flips + 1) % 4
  old : ∀ o ∈ b.oldValues (b.slot n).staged, o ∈ c.cairn.old
  patch : ∀ g w v a, (b.slot n).staged = [{ tgt := .patch g w, val := v, addr := a }] →
    c.crd R.CAIRN_APNS n = b.todNs % 2 ^ 30 ∧ c.tbls = Sp.set 0 b.tbls (entKey (Tbl.patch g) w) v

theorem slotApply_spec (hn : n < 8) : SlotApplied b n (b.slotApply n) := by
  obtain ⟨late, he⟩ := b.slotApply_eq n
  obtain ⟨h1, h2, h3⟩ := stagedTake_spec (b := b) (b.slot n).staged
  obtain ⟨k1, k2, k3, k4⟩ := applyTaken_spec (b := b) (b.slot n)
  rw [he]
  generalize b.applyTaken (b.slot n) = d at k1 k2 k3 k4
  obtain ⟨l1, l2, l3, l4, l5⟩ := applyStamped_spec (c := d) hn late
  generalize d.applyStamped n late = e at l1 l2 l3 l4 l5
  obtain ⟨s1, s2, s3, s4, -⟩ := e.slotDone_spec (r := CR_APPLIED) hn
  obtain ⟨m1, m2⟩ := slotDone_cairn (b := e) n CR_APPLIED
  refine ⟨s1, s2, s3, s4, ?_, ?_, ?_, fun o ho => ?_, fun g w v a hs => ⟨?_, ?_⟩⟩
  · rw [m1]
    exact (congrArg CairnSt.flips (l1.trans k1)).trans h1
  · exact (crd_slotDone hn (k := 0) (by decide) (.inl (by simp only [R.CAIRN_EPOCH_CUR]; omega))).trans (l3.trans (k4.trans h3))
  · rw [crd_slotDone hn ⟨by decide, by decide, by simp only [R.CAIRN_EPOCH_TO]; omega⟩ (.inr (by decide)), l4, k1, h1]
  · rw [m1]
    exact (congrArg CairnSt.old (l1.trans k1)) ▸ h2 o ho
  · rw [crd_slotDone hn ⟨by decide, by decide, by simp only [R.CAIRN_APNS]; omega⟩ (.inl (by simp only [R.CAIRN_APNS]; omega)), l5]
    rw [hs] at k3
    have htod : d.tod = b.tod := k3.trans (stagedTake_patch g w v a).2
    simp only [todNs, ns, htod]
  · rw [m2, l2, k2, hs]
    exact (stagedTake_patch g w v a).1

/-! The slots before a slot (R60). -/

theorem retireViews_twice : b.retireViews.retireViews = b.retireViews := by
  have hm : b.retireViews.oldestTag = b.oldestTag := rfl
  have hold : (b.cairn.old.filter fun o => decide (b.oldestTag < o.flip)).filter (fun o => decide (b.oldestTag < o.flip)) =
      b.cairn.old.filter fun o => decide (b.oldestTag < o.flip) := by
    rw [List.filter_filter]
    simp
  conv_lhs => rw [retireViews, hm]
  unfold retireViews
  dsimp only
  rw [hold]

/-- Whether a slot applies at an edge (R60), where the views that may retire have. -/
def dueAt (b : Body) (k : Nat) : Prop := b.crd R.CAIRN_STATE k = CS_PENDING ∧ b.applyRoom k = true ∧ b.modeDue k = true

theorem applyDue_of (h : dueAt b.retireViews n) : b.applyDue n = b.retireViews.slotApply n := if_pos h

theorem applyDue_of_not (h : ¬ dueAt b.retireViews n) : b.applyDue n = b.retireViews := if_neg h

theorem applyDue_retired : b.retireViews.applyDue n = b.applyDue n := by
  unfold applyDue
  rw [retireViews_twice]

theorem applyDue_flips (hn : n < 8) : b.cairn.flips ≤ (b.applyDue n).cairn.flips := by
  by_cases h : dueAt b.retireViews n
  · rw [applyDue_of h, (slotApply_spec hn).flips]
    exact Nat.le_succ _
  · rw [applyDue_of_not h]
    exact Nat.le_refl _

/-- Up to the first slot that is due, nothing changes but that views retire; with it the epoch flips. -/
theorem applyScan (k : Nat) (hk : k ≤ 8) : let c := (List.range k).foldl (fun b k => b.applyDue k) b
    ((∀ j < k, ¬ dueAt b.retireViews j) → c = b ∨ c = b.retireViews) ∧ ((∃ j < k, dueAt b.retireViews j) → b.cairn.flips + 1 ≤ c.cairn.flips) := by
  induction k with
  | zero => exact ⟨fun _ => .inl rfl, fun ⟨j, hj, _⟩ => absurd hj (Nat.not_lt_zero j)⟩
  | succ k ih =>
    obtain ⟨ih1, ih2⟩ := ih (by omega)
    rw [List.range_succ, List.foldl_append, List.foldl_cons, List.foldl_nil]
    generalize (List.range k).foldl (fun b k => b.applyDue k) b = c at ih1 ih2
    have hsame : (∀ j < k, ¬ dueAt b.retireViews j) → c.applyDue k = b.applyDue k := fun h => by
      rcases ih1 h with rfl | rfl
      · rfl
      · exact applyDue_retired
    refine ⟨fun h => .inr ?_, fun ⟨j, hj, hdue⟩ => ?_⟩
    · rw [hsame fun j hj => h j (by omega), applyDue_of_not (h k (by omega))]
    · by_cases hbefore : ∃ i < k, dueAt b.retireViews i
      · exact Nat.le_trans (ih2 hbefore) (applyDue_flips (by omega))
      · have hjk : j = k := by
          by_contra hne
          exact hbefore ⟨j, by omega, hdue⟩
        subst hjk
        rw [hsame fun i hi hd => hbefore ⟨i, hi, hd⟩, applyDue_of hdue, (slotApply_spec (by omega)).flips]
        exact Nat.le_refl _

theorem cairnApply_first (hn : n < 8) (hst : b.crd R.CAIRN_STATE n = CS_PENDING) (hmode : b.modeDue n = true) (hdue : dueAt b.retireViews n)
    (hfirst : ∀ k < n, ¬ dueAt b.retireViews k) : b.cairnApply n = b.retireViews.slotApply n := by
  unfold cairnApply
  rw [if_pos ⟨hst, hmode⟩]
  rcases (applyScan (b := b) n (by omega)).1 hfirst with h | h
  · rw [h, applyDue_of hdue]
  · rw [h, applyDue_retired, applyDue_of hdue]

theorem cairnApply_later (hn : n < 8) (hst : b.crd R.CAIRN_STATE n = CS_PENDING) (hmode : b.modeDue n = true)
    (hbefore : ∃ k < n, dueAt b.retireViews k) : b.cairn.flips + 1 ≤ (b.cairnApply n).cairn.flips := by
  unfold cairnApply
  rw [if_pos ⟨hst, hmode⟩]
  exact Nat.le_trans ((applyScan (b := b) n (by omega)).2 hbefore) (applyDue_flips hn)

end

end Body

/-- The state whose engine has a body, with the security version that an apply makes due fused. -/
def State.fused (s : State) (c : Body) : State := { s with dev := s.dev.after fun d => ({ d with body := c } : Dev).fuseDue }

section
variable {s : State} {c : Body}

theorem State.fused_reg {f : Fld} {i : Nat} (hf : f.lo < 32) (ho : 0x80 ≤ f.off ∧ f.off + f.stride * i < 0x1000) :
    (s.fused c).reg Pg.cairn f i = c.rd Pg.cairn f i :=
  s.reg_after _ hf (Body.notedAt_page (by simp only [Fld.addr, Pg.cairn]; omega) (by simp only [Fld.addr, Pg.cairn]; omega) (by simp only [Fld.addr, Pg.cairn]; omega))

theorem State.fused_evt {n : Nat} (hn : n < 32) : (s.fused c).evt Pg.cairn n ↔ c.rd Pg.cairn (evtPend n) = 1 := s.evt_after _ hn (by decide)

theorem State.fused_cairn : (s.fused c).dev.body.cairn = c.cairn := by simp [State.fused, Dev.fuseDue]

theorem State.fused_tbls : (s.fused c).dev.body.tbls = c.tbls := by simp [State.fused, Dev.fuseDue]

theorem State.exec_cairnApply {n : Nat} (hn : n < 8) (hr : s.runs [2]) : exec (.cairnApply n) s = .next (s.fused (s.dev.body.cairnApply n)) :=
  s.live_runs _ (decide_eq_true hn) hr

end

end Sys2Proof.Machine

namespace Sys2Proof
open Machine

/-- Settles O12: validation by the errors that the staging store and the blocks find, the apply by `slotApply` at the first slot that is due. -/
theorem cairnValidationAndApply : Obligations.CairnValidationAndApply := by
  unfold Obligations.CairnValidationAndApply
  refine ⟨fun n s hn hr => ?_, fun n s hn hr hst hmode => ?_⟩
  · intro b st ecc bad fails lim late
    have hexec : exec (.cairnValidateDone n) s = .next (s.withBody (b.cairnValidateDone n)) := State.body_withBody (decide_eq_true hn) hr rfl
    have hwait : exec (.cairnWaitExceeded n) s = .next (s.withBody (b.cairnWaitExceeded n)) := State.body_withBody (decide_eq_true hn) hr rfl
    have hreg : ∀ {c : Body} {f : Fld}, f.lo < 32 ∧ 0x80 ≤ f.off ∧ f.off + f.stride * n < 0x1000 → (s.withBody c).reg Pg.cairn f n = c.crd f n :=
      fun hf => State.withBody_reg hf.1 (Body.notedAt_page (by simp only [Fld.addr, Pg.cairn]; omega) (by simp only [Fld.addr, Pg.cairn]; omega) (by simp only [Fld.addr, Pg.cairn]; omega))
    have hslot : ∀ c : Body, (s.withBody c).dev.body.slot n = c.slot n := fun c => by simp [Body.slot]
    have hover : b.waitOver n = true ↔ late := Body.waitOver_iff
    have hadd : ∀ a, a ∈ b.stagedEcc n ++ b.stagedBad n ↔ ∃ x, fails x ∧ x.addr = a := b.mem_staged_fails (n := n)
    rw [hexec, hwait]
    refine ⟨fun h hok => ?_, fun h x hx hmin hlt => ?_, fun h => ?_, fun h hseen hlate => ?_, fun h => ?_⟩
    · have hfresh : Body.Keeps [Pg.cairn] b { b with fresh := b.fresh + 1 } := (Body.Keeps.refl b).of_eq rfl rfl rfl rfl
      have hnil : b.stagedEcc n ++ b.stagedBad n = [] := List.eq_nil_iff_forall_not_mem.mpr fun a ha => by
        obtain ⟨x, hx, -⟩ := (hadd a).mp ha
        exact hok x hx
      obtain ⟨h1, h2⟩ := List.append_eq_nil_iff.mp hnil
      obtain ⟨k1, k2, k3, k4⟩ := Body.slotPending_spec (b := { b with fresh := b.fresh + 1 }) hn
      rw [Body.cairnValidateDone_passes h h1 h2]
      refine ⟨_, rfl, (hreg ⟨by decide, by decide, by simp only [R.CAIRN_STATE]; omega⟩).trans k1, ?_, ?_, State.withBody_keeps (hfresh.trans k4)⟩
      · rw [hslot]
        exact k2
      · rw [hslot]
        exact k3
    · obtain ⟨a, t, hl⟩ := List.exists_cons_of_ne_nil (List.ne_nil_of_mem ((hadd x.addr).mpr ⟨x, hx, rfl⟩))
      have hleast : t.foldl min a = x.addr := Body.foldl_min_eq (hl ▸ (hadd x.addr).mpr ⟨x, hx, rfl⟩) fun y hy => by
        obtain ⟨z, hz, rfl⟩ := (hadd y).mp (hl ▸ hy)
        exact hmin z hz
      rw [Body.cairnValidateDone_fails h hl, hleast]
      have hk : Body.Keeps [Pg.cairn] b (({ b with fresh := b.fresh + 1 } : Body).cwr R.CAIRN_ERRADDR n x.addr) :=
        Body.Keeps.cwr (.of_eq (.refl b) rfl rfl rfl rfl) hn (by decide)
      have herr : (({ b with fresh := b.fresh + 1 } : Body).cwr R.CAIRN_ERRADDR n x.addr).crd R.CAIRN_ERRADDR n = x.addr :=
        (Body.crd_cwr_self ..).trans (Nat.mod_eq_of_lt hlt)
      generalize ({ b with fresh := b.fresh + 1 } : Body).cwr R.CAIRN_ERRADDR n x.addr = c at hk herr
      obtain ⟨k1, k2, k3, k4, k5⟩ := c.slotDone_spec (r := if b.stagedEcc n ≠ [] then CR_ECC else CR_INVALID) hn
      refine ⟨_, rfl, (hreg ⟨by decide, by decide, by simp only [R.CAIRN_STATE]; omega⟩).trans k1, fun ⟨y, hy⟩ => ?_, fun hno => ?_, ?_, ?_, ?_,
        State.withBody_keeps (hk.trans k5)⟩
      · have hne : b.stagedEcc n ≠ [] := fun he => Body.stagedEcc_nil.mp he y hy
        rw [hreg ⟨by decide, by decide, by simp only [R.CAIRN_RESULT]; omega⟩, k2, if_pos hne]
        rfl
      · rw [hreg ⟨by decide, by decide, by simp only [R.CAIRN_RESULT]; omega⟩, k2, if_neg (not_not.mpr (Body.stagedEcc_nil.mpr hno))]
        rfl
      · rw [hreg ⟨by decide, by decide, by simp only [R.CAIRN_ERRADDR]; omega⟩,
          Body.crd_slotDone hn ⟨by decide, by decide, by simp only [R.CAIRN_ERRADDR]; omega⟩ (.inl (by simp only [R.CAIRN_ERRADDR]; omega))]
        exact herr
      · rw [hslot]
        exact k3
      · exact (State.withBody_evt (by simp only [R.CAIRN_EVT_DONE]; omega) (by decide)).mpr k4
    · have hidle : b.cairnValidateDone n = b := if_pos h
      rw [hidle, State.withBody_self]
    · rw [Body.cairnWaitExceeded_waits h hseen (hover.mpr hlate)]
      refine ⟨_, rfl, (State.withBody_evt (by decide) (by decide)).mpr (Body.fire_pend _ (by decide) (by decide)), ?_,
        State.withBody_keeps ((Body.Keeps.refl b).setSlot.fire (by decide) (by decide) (by simp))⟩
      rw [hslot, Body.slot_fire, Body.slot_set]
    · rw [Body.cairnWaitExceeded, if_neg, State.withBody_self]
      rintro ⟨h1, h2, h3⟩
      rcases h with h | h | h
      · exact h h1
      · exact h2 h
      · exact h (hover.mp h3)
  · intro b due f
    rw [State.exec_cairnApply hn hr]
    refine ⟨fun hdue hfirst => ?_, fun hbefore => ⟨_, rfl, ?_⟩⟩
    · have hap := Body.slotApply_spec (b := s.dev.body.retireViews) hn
      rw [Body.cairnApply_first hn hst hmode hdue hfirst]
      generalize s.dev.body.retireViews.slotApply n = c at hap
      have hreg : ∀ {g : Fld}, g.lo < 32 ∧ 0x80 ≤ g.off ∧ g.off + g.stride * n < 0x1000 → (s.fused c).reg Pg.cairn g n = c.crd g n :=
        fun hg => State.fused_reg hg.1 hg.2
      refine ⟨_, rfl, (hreg ⟨by decide, by decide, by simp only [R.CAIRN_STATE]; omega⟩).trans hap.state,
        (hreg ⟨by decide, by decide, by simp only [R.CAIRN_RESULT]; omega⟩).trans hap.result, ?_,
        (State.fused_evt (by simp only [R.CAIRN_EVT_DONE]; omega)).mpr hap.told, ?_, (State.fused_reg (by decide) (by decide)).trans hap.epoch,
        (hreg ⟨by decide, by decide, by simp only [R.CAIRN_EPOCH_TO]; omega⟩).trans hap.epochTo, fun x hx hg => ?_, fun g w v a hs => ⟨?_, ?_⟩⟩
      · rw [Body.slot, State.fused_cairn]
        exact hap.slot
      · rw [State.fused_cairn]
        exact hap.flips
      · rw [State.fused_cairn]
        exact hap.old _ (List.mem_map.mpr ⟨x, List.mem_filter.mpr ⟨hx, hg⟩, rfl⟩)
      · exact (hreg ⟨by decide, by decide, by simp only [R.CAIRN_APNS]; omega⟩).trans (hap.patch g w v a hs).1
      · rw [State.fused_tbls]
        exact (hap.patch g w v a hs).2
    · rw [State.fused_cairn]
      exact Body.cairnApply_later hn hst hmode hbefore

end Sys2Proof
end

section
/-! O27: the commands of an exact-match context (R153 to R157, R166). -/

namespace Sys2Proof.Machine

/-- The table and the index of a location. -/
def XLoc.tbl : XLoc → Nat
  | .slot _ => Tbl.exm
  | .stash _ => Tbl.stash

def XLoc.idx : XLoc → Nat
  | .slot n => n
  | .stash n => n

namespace Body

section
variable {b d : Body} {c : Nat}

/-- A search leaves what a later look goes by: the entries, the version store, what parity spoils, and the hash registers. -/
structure Searched (b d : Body) : Prop where
  tbls : d.tbls = b.tbls
  cairn : d.cairn = b.cairn
  pipe : d.pipe = b.pipe
  hash : ∀ f ∈ [R.EXM_SEED0, R.EXM_SEED1, R.EXM_WIDE_BKTS], d.rd Pg.exm f = b.rd Pg.exm f

theorem Searched.refl (b : Body) : Searched b b := ⟨rfl, rfl, rfl, fun _ _ => rfl⟩

theorem Searched.trans {e : Body} (h : Searched b d) (h' : Searched d e) : Searched b e :=
  ⟨h'.tbls.trans h.tbls, h'.cairn.trans h.cairn, h'.pipe.trans h.pipe, fun f hf => (h'.hash f hf).trans (h.hash f hf)⟩

/-- A count of the exact-match page with its event. -/
theorem searched_told {f : Fld} {n : Nat} (hf : f ∈ [R.EXM_PAR, R.EXM_DUP]) (hn : n < 32) : Searched b ((b.sat Pg.exm f).fire Pg.exm n) := by
  refine ⟨by simp, by simp, by simp, fun g hg => ?_⟩
  have hapart : f.lo < 32 ∧ g.lo < 32 ∧ 0x80 ≤ g.off ∧ g.off < 0x1000 ∧ f.off ≠ g.off := by
    revert f g
    decide
  obtain ⟨h1, h2, h3, h4, h5⟩ := hapart
  rw [rd_fire_field (by decide) hn ⟨h2, h3, h4⟩]
  exact rd_wr_ne _ _ h1 h2 (.inl (by rw [Fld.addr_zero, Fld.addr_zero]; omega))

theorem searched_parity (ls : List XLoc) : Searched b (b.exmParity ls) := by
  refine foldl_keeps (Searched b) _ (fun d l h => ?_) ls b (.refl b)
  dsimp only
  split_ifs
  · exact h.trans (searched_told (by simp) (by decide))
  · exact h

/-- A search answers the first copy (R155). -/
theorem exmFind_spec (seq : Nat) (k : XKey) : (b.exmFind seq k).2 = (b.exmCopies seq k).head? ∧ Searched b (b.exmFind seq k).1 := by
  refine ⟨rfl, ?_⟩
  unfold exmFind
  dsimp only
  split_ifs
  · exact (searched_parity _).trans (searched_told (by simp) (by decide))
  · exact searched_parity _

theorem Searched.freeSlot (h : Searched b d) (wide : Bool) (bk : Nat) : d.exmFreeSlot wide bk = b.exmFreeSlot wide bk := by
  simp only [exmFreeSlot, exmFree, exmSlotFree, ent, parityBad, h.tbls, h.pipe]

theorem Searched.buckets (h : Searched b d) (k : XKey) : d.exmBuckets k = b.exmBuckets k := by
  have h0 := h.hash R.EXM_SEED0 (by simp)
  have h1 := h.hash R.EXM_SEED1 (by simp)
  have h2 := h.hash R.EXM_WIDE_BKTS (by simp)
  simp only [exmBuckets, exmWide, h2, List.map_cons, List.map_nil, h0, h1]

theorem Searched.resAt (h : Searched b d) (l : XLoc) : d.exmResAt d.nowSeq l = b.exmResAt b.nowSeq l := by
  have hv : ∀ seq tid i, d.entV seq tid i = b.entV seq tid i := fun seq tid i => by
    unfold entV viewed
    rw [h.cairn, ent_of_tbls h.tbls]
  cases l <;> simp only [exmResAt, nowSeq, hv, h.cairn]

/-- An entry of the exact-match table or the stash rewritten by the engine. -/
theorem exmPut_ent {tid n v : Nat} : (b.exmPut tid n v).ent tid n = v ∧
    ∀ u j, entKey u j ≠ entKey tid n → (b.exmPut tid n v).ent u j = b.ent u j := by
  have ht : (b.exmPut tid n v).tbls = (b.setEnt tid n v).tbls := by
    simp [exmPut, exmSet, digMark, putEnt]
    split_ifs <;> rfl
  exact ⟨(ent_of_tbls ht _ _).trans (ent_setEnt_self ..), fun u j h => (ent_of_tbls ht _ _).trans (ent_setEnt_ne h)⟩

/-- The outcome of a command as its context shows it (R166). -/
theorem ctxOut_spec (x : XOut) : (b.ctxOut c x).rd (Pg.exmCtx c) R.EXM_RC = x.rc % 16 ∧ (b.ctxOut c x).rd (Pg.exmCtx c) R.EXM_MOVES = x.moves % 32 ∧
    (∀ l, x.loc = some l → (b.ctxOut c x).rd (Pg.exmCtx c) R.EXM_LOC = l.code % 2 ^ 26) ∧
    (∀ r, x.res = some r → (b.ctxOut c x).rd (Pg.exmCtx c) R.EXM_RES = r % 2 ^ 24) ∧ (b.ctxOut c x).tbls = b.tbls := by
  obtain ⟨rc, moves, loc, res⟩ := x
  unfold ctxOut
  generalize Pg.exmCtx c = p
  dsimp only
  have hrc : ((b.wr p R.EXM_RC rc).wr p R.EXM_MOVES moves).rd p R.EXM_RC = rc % 16 := (rd_wr_apart (by decide)).trans (rd_wr_self ..)
  have hmv : ((b.wr p R.EXM_RC rc).wr p R.EXM_MOVES moves).rd p R.EXM_MOVES = moves % 32 := rd_wr_self ..
  generalize hd : (b.wr p R.EXM_RC rc).wr p R.EXM_MOVES moves = d at hrc hmv
  have ht : d.tbls = b.tbls := by rw [← hd]; rfl
  have hlast : ∀ (e : Body), e.rd p R.EXM_RC = rc % 16 → e.rd p R.EXM_MOVES = moves % 32 → (∀ l, loc = some l → e.rd p R.EXM_LOC = l.code % 2 ^ 26) →
      e.tbls = b.tbls →
      ((match res with | some r => e.wr p R.EXM_RES r | none => e).rd p R.EXM_RC = rc % 16 ∧
      (match res with | some r => e.wr p R.EXM_RES r | none => e).rd p R.EXM_MOVES = moves % 32 ∧
      (∀ l, loc = some l → (match res with | some r => e.wr p R.EXM_RES r | none => e).rd p R.EXM_LOC = l.code % 2 ^ 26) ∧
      (∀ r, res = some r → (match res with | some r => e.wr p R.EXM_RES r | none => e).rd p R.EXM_RES = r % 2 ^ 24) ∧
      (match res with | some r => e.wr p R.EXM_RES r | none => e).tbls = b.tbls) := fun e h1 h2 h3 h4 => by
    cases res with
    | none => exact ⟨h1, h2, h3, (fun r (hr : none = some r) => nomatch hr), h4⟩
    | some r =>
      refine ⟨(rd_wr_apart (by decide)).trans h1, (rd_wr_apart (by decide)).trans h2, fun l hl => (rd_wr_apart (by decide)).trans (h3 l hl), fun r' hr => ?_, h4⟩
      rw [← Option.some.inj hr]
      exact rd_wr_self ..
  cases loc with
  | none =>
    exact hlast _ ((rd_wr_apart (by decide)).trans hrc) ((rd_wr_apart (by decide)).trans hmv) (fun l (hl : none = some l) => nomatch hl) ht
  | some l =>
    refine hlast _ ((rd_wr_apart (by decide)).trans ((rd_wr_apart (by decide)).trans hrc)) ((rd_wr_apart (by decide)).trans ((rd_wr_apart (by decide)).trans hmv))
      (fun l' hl => ?_) ht
    rw [← Option.some.inj hl]
    exact (rd_wr_apart (by decide)).trans (rd_wr_self ..)

/-! The commands (R156). -/

/-- A command of a context that is free for it. -/
theorem exmOp_eq {m ty op : Nat} (hbusy : b.rd (Pg.exmCtx c) R.EXM_BUSY = 0) (hfree : b.boundSlot m = none) (hop : 1 ≤ op ∧ op ≤ 5) :
    b.exmOp c m ty op =
      (let e := b.wr (Pg.exmCtx c) R.EXM_TYPE ty
       if ¬ (1 ≤ ty ∧ ty ≤ 3) then e.ctxOut c { rc := XRC_BAD_TYPE } else if op = 5 then e.ctxHash c
       else (e.exmCommand op (e.ctxKey c) (e.rd (Pg.exmCtx c) R.EXM_RES)).1.ctxOut c (e.exmCommand op (e.ctxKey c) (e.rd (Pg.exmCtx c) R.EXM_RES)).2) := by
  have hb : (b.wr (Pg.exmCtx c) R.EXM_TYPE ty).on (Pg.exmCtx c) R.EXM_BUSY = false := by
    rw [on, rd_wr_apart (by decide), hbusy]
    rfl
  have hs : ((b.wr (Pg.exmCtx c) R.EXM_TYPE ty).boundSlot m).isSome = false := by
    have : (b.wr (Pg.exmCtx c) R.EXM_TYPE ty).boundSlot m = none := hfree
    rw [this]
    rfl
  unfold exmOp
  dsimp only
  rw [if_neg (by omega), hb, hs]
  rfl

theorem exmCommand_found {res : Nat} {k : XKey} {l : XLoc} {r : List XLoc} (h : b.exmCopies b.nowSeq k = l :: r) : ∃ d, Searched b d ∧
    b.exmCommand 1 k res = (d, { rc := 1, loc := some l }) ∧ b.exmCommand 2 k res = (d.exmErase k.wide l, { rc := 0, loc := some l }) ∧
    b.exmCommand 3 k res = (d.exmPut l.tbl l.idx (setBitField (d.ent l.tbl l.idx) 119 96 res), { rc := 0, loc := some l }) ∧
    b.exmCommand 4 k res = (d, { rc := 0, loc := some l, res := some (d.exmResAt d.nowSeq l) }) := by
  obtain ⟨h1, h2⟩ := b.exmFind_spec b.nowSeq k
  rw [h] at h1
  have he : b.exmFind b.nowSeq k = ((b.exmFind b.nowSeq k).1, some l) := Prod.ext rfl h1
  unfold exmCommand
  rw [he]
  cases l <;> exact ⟨_, h2, rfl, rfl, rfl, rfl⟩

theorem exmCommand_absent {res : Nat} {k : XKey} (h : b.exmCopies b.nowSeq k = []) : ∃ d, Searched b d ∧
    b.exmCommand 1 k res = d.exmInsertNew k res ∧ ∀ op ∈ [2, 3, 4], b.exmCommand op k res = (d, { rc := 2 }) := by
  obtain ⟨h1, h2⟩ := b.exmFind_spec b.nowSeq k
  rw [h] at h1
  have he : b.exmFind b.nowSeq k = ((b.exmFind b.nowSeq k).1, none) := Prod.ext rfl h1
  refine ⟨_, h2, ?_, fun op hop => ?_⟩
  · unfold exmCommand
    rw [he]
    rfl
  · simp only [List.mem_cons, List.not_mem_nil, or_false] at hop
    rcases hop with rfl | rfl | rfl <;> · unfold exmCommand; rw [he]; rfl

/-- An entry of one slot cleared. -/
theorem exmErase_narrow (l : XLoc) : b.exmErase false l = b.exmPut l.tbl l.idx 0 := by
  cases l <;> rfl

theorem exmInsertNew_places {k : XKey} {res bk i : Nat}
    (h : (b.exmBuckets k).findSome? (fun bk => (b.exmFreeSlot k.wide bk).map fun i => (bk, i)) = some (bk, i)) :
    b.exmInsertNew k res = (b.exmPlace k res bk i, { rc := 0, loc := some (.slot (Body.exmSlotNo k.wide bk i)) }) := by
  unfold exmInsertNew
  dsimp only
  rw [h]

end

end Body

section
variable {s : State} {c m ty op : Nat}

/-- A command written to a context. -/
theorem exec_exmOp (hc : c < 4) (hty : ty < 16) (hop : 1 ≤ op ∧ op ≤ 5) (ht : s.takes m (Pg.exmCtx c + 0x9C)) :
    s.live (decide (c < 4) && Master.known m && decide (ty < 16)) [2] (fun d => d.write m (R.EXM_OP.addr (Pg.exmCtx c) 0 0) (16 * ty + op)) =
      .next (s.withBody (s.dev.body.exmOp c m ty op)) := by
  have hp := pageIs_exmCtx hc
  have hno : (Pg.exmCtx c + 0x9C) / 0x1000 % 0x10 - 1 = c := by
    unfold Pg.exmCtx
    omega
  have h1 : R.EXM_OP.of (16 * ty + op) = op := by
    simp only [Fld.of, bitField, R.EXM_OP]
    omega
  have h2 : R.EXM_TYPE.of (16 * ty + op) = ty := by
    simp only [Fld.of, bitField, R.EXM_TYPE]
    omega
  refine State.live_withBody (by rw [decide_eq_true hc, decide_eq_true hty, ht.known]; rfl) ht.runs ?_
  refine (Dev.write_store _ ht hp (by decide) (by decide) (by decide) (by unfold Pg.exmCtx Pg.boot; omega) (by decide)).trans ?_
  simp only [Body.pageStore, Body.storeCtx, hp.fieldAt (f := R.EXM_OP) (off := 0x9C) (by decide) (by decide), hno, h1, h2]
  rfl

end

end Sys2Proof.Machine

namespace Sys2Proof
open Machine

/-- Settles O27: each command by what the search of its key finds. -/
theorem exactMatchCommands : Obligations.ExactMatchCommands := by
  unfold Obligations.ExactMatchCommands
  intro c m ty s hc hty ht hfree hbusy p b k copies same but
  have hk : k.wide = (ty == 3) := by
    have : k.ty = ty := (Body.rd_wr_self ..).trans (Nat.mod_eq_of_lt hty)
    rw [XKey.wide, this]
  have hreg : ∀ (e : Body) (f : Fld), f.lo < 32 → (s.withBody e).reg p f = e.rd p f := fun e f hf =>
    State.withBody_page (by simp only [p, Pg.exmCtx]; omega) hf
  have hsame : ∀ e : Body, e.tbls = b.tbls → same (s.withBody e) := fun e he => by
    rw [show same (s.withBody e) = ((s.withBody e).dev.body.tbls = s.dev.body.tbls) from rfl, (by simp : (s.withBody e).dev.body.tbls = e.tbls), he]
    rfl
  have hbut : ∀ {e d : Body} {tbl n v : Nat}, e.tbls = (d.exmPut tbl n v).tbls → d.tbls = b.tbls → but (s.withBody e) tbl n v := fun {e d tbl n v} he hd => by
    obtain ⟨h1, h2⟩ := Body.exmPut_ent (b := d) (tid := tbl) (n := n) (v := v)
    refine ⟨?_, fun u j hne => ?_⟩
    · rw [State.withBody_ent, Body.ent_of_tbls he, h1]
    · rw [State.withBody_ent, Body.ent_of_tbls he, h2 u j hne, Body.ent_of_tbls hd]
      rfl
  have hop : ∀ op, 1 ≤ op ∧ op ≤ 5 → _ := fun op h => Body.exmOp_eq (b := s.dev.body) (ty := ty) hbusy hfree h
  refine ⟨fun hbad i hi => ?_, fun h1 h3 => ⟨fun hne => ?_, fun hnil hnarrow bk i hplace => ?_, fun hnil i hi => ?_, fun l r hl => ?_, fun x y hxy => ?_⟩⟩
  · have hout : ∀ op, 1 ≤ op ∧ op ≤ 5 → s.dev.body.exmOp c m ty op = b.ctxOut c { rc := XRC_BAD_TYPE } := fun op h => by
      rw [hop op h]
      exact if_pos (by omega)
    obtain ⟨o1, -, -, -, o5⟩ := Body.ctxOut_spec (b := b) (c := c) { rc := XRC_BAD_TYPE }
    have hall : ∀ op, 1 ≤ op ∧ op ≤ 5 → ∃ t, s.live (decide (c < 4) && Master.known m && decide (ty < 16)) [2]
        (fun d => d.write m (R.EXM_OP.addr (Pg.exmCtx c) 0 0) (16 * ty + op)) = .next t ∧ t.reg p R.EXM_RC = 4 ∧ same t := fun op h =>
      ⟨_, exec_exmOp hc hty h ht, by rw [hout op h, hreg _ _ (by decide)]; exact o1, by rw [hout op h]; exact hsame _ o5⟩
    simp only [List.mem_cons, List.not_mem_nil, or_false] at hi
    rcases hi with rfl | rfl | rfl | rfl | rfl
    · exact hall 1 (by decide)
    · exact hall 2 (by decide)
    · exact hall 3 (by decide)
    · exact hall 4 (by decide)
    · exact hall 5 (by decide)
  all_goals
    have hres : b.rd p R.EXM_RES = s.reg p R.EXM_RES := Body.rd_wr_apart (by decide)
    have hrun : ∀ op, 1 ≤ op ∧ op ≤ 4 → ∀ d x, b.exmCommand op k (s.reg p R.EXM_RES) = (d, x) → s.live (decide (c < 4) && Master.known m && decide (ty < 16)) [2]
        (fun d => d.write m (R.EXM_OP.addr (Pg.exmCtx c) 0 0) (16 * ty + op)) = .next (s.withBody (d.ctxOut c x)) := fun op h d x hx => by
      rw [exec_exmOp hc hty (by omega) ht, hop op (by omega)]
      dsimp only
      rw [if_neg (not_not.mpr ⟨h1, h3⟩), if_neg (by omega), hres, hx]
    have hout : ∀ (d : Body) (x : Body.XOut), _ := fun d x => Body.ctxOut_spec (b := d) (c := c) x
  · obtain ⟨l, r, hl⟩ := List.exists_cons_of_ne_nil hne
    obtain ⟨d, hd, hx, -⟩ := Body.exmCommand_found (res := s.reg p R.EXM_RES) hl
    obtain ⟨o1, -, -, -, o5⟩ := hout d { rc := 1, loc := some l }
    exact ⟨_, hrun 1 (by decide) _ _ hx, (hreg _ _ (by decide)).trans o1, hsame _ (o5.trans hd.tbls)⟩
  · have hw : k.wide = false := by rw [hk]; exact beq_eq_false_iff_ne.mpr hnarrow
    obtain ⟨d, hd, hx, -⟩ := Body.exmCommand_absent (res := s.reg p R.EXM_RES) hnil
    have hpl : (d.exmBuckets k).findSome? (fun bk => (d.exmFreeSlot k.wide bk).map fun i => (bk, i)) = some (bk, i) := by
      simp only [hd.buckets, hd.freeSlot, hw]
      exact hplace
    rw [Body.exmInsertNew_places hpl] at hx
    obtain ⟨o1, o2, o3, -, o5⟩ := hout (d.exmPlace k (s.reg p R.EXM_RES) bk i) { rc := 0, loc := some (.slot (Body.exmSlotNo k.wide bk i)) }
    have hput : d.exmPlace k (s.reg p R.EXM_RES) bk i = d.exmPut Tbl.exm (4 * bk + i) (xSlot ty k.k1 (s.reg p R.EXM_RES) false false) := by
      have hkt : k.ty = ty := (Body.rd_wr_self ..).trans (Nat.mod_eq_of_lt hty)
      simp only [Body.exmPlace, hw, hkt, Bool.false_eq_true, if_false, Body.exmSlotNo]
    have hno : Body.exmSlotNo k.wide bk i = 4 * bk + i := by rw [hw]; rfl
    refine ⟨_, hrun 1 (by decide) _ _ hx, (hreg _ _ (by decide)).trans o1, ?_, (hreg _ _ (by decide)).trans o2, hbut (o5.trans (congrArg Body.tbls hput)) hd.tbls⟩
    rw [hreg _ _ (by decide), o3 _ rfl, hno]
    rfl
  · obtain ⟨d, hd, -, hx⟩ := Body.exmCommand_absent (res := s.reg p R.EXM_RES) hnil
    obtain ⟨o1, -, -, -, o5⟩ := hout d { rc := 2 }
    have hall : ∀ op ∈ [2, 3, 4], ∃ t, s.live (decide (c < 4) && Master.known m && decide (ty < 16)) [2]
        (fun d => d.write m (R.EXM_OP.addr (Pg.exmCtx c) 0 0) (16 * ty + op)) = .next t ∧ t.reg p R.EXM_RC = 2 ∧ same t := fun op h =>
      ⟨_, hrun op (by revert h; decide +revert) _ _ (hx op h), (hreg _ _ (by decide)).trans o1, hsame _ (o5.trans hd.tbls)⟩
    simp only [List.mem_cons, List.not_mem_nil, or_false] at hi
    rcases hi with rfl | rfl | rfl
    · exact hall 2 (by simp)
    · exact hall 3 (by simp)
    · exact hall 4 (by simp)
  · intro tbl n
    have htn : tbl = l.tbl ∧ n = l.idx := by cases l <;> exact ⟨rfl, rfl⟩
    obtain ⟨d, hd, -, hx2, hx3, hx4⟩ := Body.exmCommand_found (res := s.reg p R.EXM_RES) hl
    rw [htn.1, htn.2]
    refine ⟨fun hnarrow => ?_, ?_, ?_⟩
    · have hw : k.wide = false := by rw [hk]; exact beq_eq_false_iff_ne.mpr hnarrow
      rw [hw, Body.exmErase_narrow] at hx2
      obtain ⟨o1, -, -, -, o5⟩ := hout (d.exmPut l.tbl l.idx 0) { rc := 0, loc := some l }
      exact ⟨_, hrun 2 (by decide) _ _ hx2, (hreg _ _ (by decide)).trans o1, hbut o5 hd.tbls⟩
    · have he : d.ent l.tbl l.idx = s.ent l.tbl l.idx := (Body.ent_of_tbls hd.tbls _ _).trans rfl
      rw [he] at hx3
      obtain ⟨o1, -, -, -, o5⟩ := hout (d.exmPut l.tbl l.idx (setBitField (s.ent l.tbl l.idx) 119 96 (s.reg p R.EXM_RES))) { rc := 0, loc := some l }
      exact ⟨_, hrun 3 (by decide) _ _ hx3, (hreg _ _ (by decide)).trans o1, hbut o5 hd.tbls⟩
    · rw [hd.resAt] at hx4
      obtain ⟨o1, -, o3, o4, o5⟩ := hout d { rc := 0, loc := some l, res := some (b.exmResAt b.nowSeq l) }
      exact ⟨_, hrun 4 (by decide) _ _ hx4, (hreg _ _ (by decide)).trans o1, (hreg _ _ (by decide)).trans (o4 _ rfl), (hreg _ _ (by decide)).trans (o3 _ rfl),
        hsame _ (o5.trans hd.tbls)⟩
  · have hhash : s.dev.body.exmOp c m ty 5 = ((b.ctxOut c { rc := 0 }).wr p R.EXM_H0 x).wr p R.EXM_H1 y := by
      rw [hop 5 (by decide)]
      dsimp only
      rw [if_neg (not_not.mpr ⟨h1, h3⟩), if_pos rfl, Body.ctxHash, hxy]
    obtain ⟨o1, -, -, -, o5⟩ := hout b { rc := 0 }
    refine ⟨_, exec_exmOp hc hty (op := 5) (by decide) ht, ?_, ?_, ?_, ?_⟩ <;> rw [hhash]
    · exact (hreg _ _ (by decide)).trans ((Body.rd_wr_apart (by decide)).trans ((Body.rd_wr_apart (by decide)).trans o1))
    · exact (hreg _ _ (by decide)).trans ((Body.rd_wr_apart (by decide)).trans (Body.rd_wr_self ..))
    · exact (hreg _ _ (by decide)).trans (Body.rd_wr_self ..)
    · have hwr : ∀ e : Body, ((e.wr p R.EXM_H0 x).wr p R.EXM_H1 y).tbls = e.tbls := fun e => by simp
      exact hsame _ ((hwr _).trans o5)

end Sys2Proof
end

section
/-! O28: LPM_DRAIN, compare-and-clear, the CAM scrubbers and the injections of the tables (R123, R131, R144, R148, R150, R162, R167). -/

namespace Sys2Proof.Machine

/-- An entry that compare-and-clear has cleared holds the next generation, and is invalid. -/
theorem dsValid_cleared (n : Nat) : dsValid (setBitField 0 199 192 n) = false := by
  have h : setBitField 0 199 192 n < 2 ^ 200 := by
    simp only [setBitField]
    omega
  rw [dsValid, bitOn, Nat.div_eq_of_lt (by omega)]
  rfl

namespace Body

section
variable {b c : Body} {i g : Nat}

/-- The engine writes an entry of a table, seen at once by every view (R22). -/
theorem putEnt_ent {tid n v : Nat} : (b.putEnt tid n v).ent tid n = v ∧ ∀ u j, entKey u j ≠ entKey tid n → (b.putEnt tid n v).ent u j = b.ent u j := by
  have ht : (b.putEnt tid n v).tbls = (b.setEnt tid n v).tbls := by
    simp only [putEnt]
    split_ifs <;> rfl
  exact ⟨(ent_of_tbls ht _ _).trans (ent_setEnt_self ..), fun u j h => (ent_of_tbls ht _ _).trans (ent_setEnt_ne h)⟩

/-! The end of LPM_DRAIN (R144, R150). -/

theorem trieWr_ent (l v : Nat) : (b.trieWr l v).ent Tbl.trie l = v ∧ ∀ u j, entKey u j ≠ entKey Tbl.trie l → (b.trieWr l v).ent u j = b.ent u j := by
  have ht : (b.trieWr l v).tbls = (b.putEnt Tbl.trie l v).tbls := by simp [trieWr, digMark]
  obtain ⟨h1, h2⟩ := putEnt_ent (b := b) (tid := Tbl.trie) (n := l) (v := v)
  exact ⟨(ent_of_tbls ht _ _).trans h1, fun u j h => (ent_of_tbls ht _ _).trans (h2 u j h)⟩

theorem triesFreed_ent (lines : List Nat) : ∀ b : Body, ((∀ l ∈ lines, (lines.foldl (fun b l => b.trieWr l 0) b).ent Tbl.trie l = 0) ∧
    ∀ u j, (∀ l ∈ lines, entKey u j ≠ entKey Tbl.trie l) → (lines.foldl (fun b l => b.trieWr l 0) b).ent u j = b.ent u j) := by
  induction lines with
  | nil => exact fun b => ⟨fun l hl => absurd hl (List.not_mem_nil), fun _ _ _ => rfl⟩
  | cons x xs ih =>
    intro b
    obtain ⟨h1, h2⟩ := ih (b.trieWr x 0)
    obtain ⟨k1, k2⟩ := trieWr_ent (b := b) x 0
    refine ⟨fun l hl => ?_, fun u j h => ?_⟩
    · by_cases hxs : l ∈ xs
      · exact h1 l hxs
      · have hlx : l = x := (List.mem_cons.mp hl).resolve_right hxs
        subst hlx
        refine (h2 Tbl.trie l fun l' hl' he => hxs ?_).trans k1
        have : l = l' := by
          unfold entKey at he
          omega
        rwa [this]
    · exact (h2 u j fun l hl => h l (List.mem_cons_of_mem x hl)).trans (k2 u j (h x List.mem_cons_self))

/-- The digests that follow the loop's writes are entries of their own table. -/
theorem keepDigests_ent {lines : List Nat} (hl : ∀ l ∈ lines, l < 6291456) {u j : Nat} (hu : u ≠ Tbl.digest) (hj : j < 2 ^ 40) :
    (b.keepDigests lines).ent u j = b.ent u j := by
  have hreg : ∀ r ∈ (lines.flatMap fun l => lineRegions Tbl.trie l).eraseDups, r < 2 ^ 40 := fun r hr => by
    obtain ⟨l, hm, hr⟩ := List.mem_flatMap.mp (List.mem_eraseDups.mp hr)
    have := hl l hm
    simp only [lineRegions, if_true, List.mem_singleton] at hr
    omega
  unfold keepDigests
  refine foldl_same_mem (fun c : Body => c.ent u j) _ _ _ fun c r hr => ?_
  dsimp only
  split_ifs
  · refine ent_setEnt_ne fun he => hu ?_
    have := hreg r hr
    unfold entKey at he
    omega
  · rfl

/-- What compare-and-clear makes of an entry (R150). -/
theorem dsRetire_ent : (b.dsRetire i g).ent Tbl.ds i = (if dsValid (b.ent Tbl.ds i) = true ∧ dsGen (b.ent Tbl.ds i) = g then
      setBitField 0 199 192 (g + 1) else b.ent Tbl.ds i) ∧ ∀ u j, entKey u j ≠ entKey Tbl.ds i → (b.dsRetire i g).ent u j = b.ent u j := by
  have hwr : ∀ (d : Body) v u j, (d.wr Pg.ds R.DS_CAC_RC v).ent u j = d.ent u j := fun _ _ _ _ => rfl
  unfold dsRetire dsClear
  dsimp only
  by_cases hv : dsValid (b.ent Tbl.ds i) = true
  · by_cases hg : dsGen (b.ent Tbl.ds i) = g
    · rw [if_neg (not_not.mpr hv), if_neg (not_not.mpr hg), if_pos ⟨hv, hg⟩, hg]
      simp only [hwr, discardOld_ent]
      exact putEnt_ent
    · rw [if_neg (not_not.mpr hv), if_pos hg, if_neg fun h => hg h.2]
      exact ⟨rfl, fun _ _ _ => rfl⟩
  · rw [if_pos hv, if_neg fun h => hv h.1]
    exact ⟨rfl, fun _ _ _ => rfl⟩

theorem dsRetires_ent (ents : List (Nat × Nat)) (i : Nat) : ∀ b : Body, (ents.foldl (fun b e => b.dsRetire e.1 e.2) b).ent Tbl.ds i =
    if dsValid (b.ent Tbl.ds i) = true ∧ (i, dsGen (b.ent Tbl.ds i)) ∈ ents then setBitField 0 199 192 (dsGen (b.ent Tbl.ds i) + 1) else b.ent Tbl.ds i := by
  induction ents with
  | nil => exact fun b => (if_neg fun h => absurd h.2 (List.not_mem_nil)).symm
  | cons x xs ih =>
    intro b
    rw [List.foldl_cons, ih]
    obtain ⟨h1, h2⟩ := dsRetire_ent (b := b) (i := x.1) (g := x.2)
    by_cases hx : x.1 = i
    · subst hx
      by_cases hc : dsValid (b.ent Tbl.ds x.1) = true ∧ dsGen (b.ent Tbl.ds x.1) = x.2
      · rw [h1, if_pos hc, if_neg (by simp [dsValid_cleared]), if_pos ⟨hc.1, by simp [hc.2]⟩, hc.2]
      · rw [h1, if_neg hc]
        refine if_congr (and_congr_right fun hv => ?_) rfl rfl
        have hne : (x.1, dsGen (b.ent Tbl.ds x.1)) ≠ x := fun he => hc ⟨hv, congrArg Prod.snd he⟩
        simp [hne]
    · rw [h2 Tbl.ds i (by unfold entKey; omega)]
      refine if_congr (and_congr_right fun _ => ?_) rfl rfl
      have hne : (i, dsGen (b.ent Tbl.ds i)) ≠ x := fun he => hx (congrArg Prod.fst he).symm
      simp [hne]

theorem dsRetires_ent_ne (ents : List (Nat × Nat)) {u j : Nat} (h : u ≠ Tbl.ds) (hj : j < 2 ^ 40) (hl : ∀ e ∈ ents, e.1 < 65536) :
    (ents.foldl (fun b e => b.dsRetire e.1 e.2) b).ent u j = b.ent u j :=
  foldl_same_mem (fun c : Body => c.ent u j) _ _ _ fun c e he => (dsRetire_ent (b := c)).2 u j fun hk => h (by
    have := hl e he
    unfold entKey at hk
    omega)

/-- LPM_DRAIN is over, and nothing waits for it. -/
def Drained (c : Body) : Prop := c.rd Pg.lpm R.LPM_DRAIN = 0 ∧ c.pipe.trieFree = [] ∧ c.pipe.dsWait = []

/-- An entry that the engine writes is not of the drain. -/
theorem drained_putEnt (tid n v : Nat) (x : Target) (h : b.Drained) : ((b.putEnt tid n v).discardOld x).Drained := by
  obtain ⟨h1, h2, h3⟩ := h
  refine ⟨by rw [discardOld_rd, putEnt_rd, h1], ?_, ?_⟩
  · simp only [discardOld, putEnt]
    split_ifs <;> exact h2
  · simp only [discardOld, putEnt]
    split_ifs <;> exact h3

theorem drained_trieWr (l v : Nat) (h : b.Drained) : (b.trieWr l v).Drained := by
  have hmark : ∀ (d : Body) rs, d.Drained → (d.digMark rs).Drained := fun _ _ h => h
  exact hmark _ _ (drained_putEnt _ _ _ _ h)

theorem drained_keepDigests (lines : List Nat) (h : b.Drained) : (b.keepDigests lines).Drained := by
  refine foldl_keeps Drained _ (fun c r hc => ?_) _ _ h
  dsimp only
  split_ifs
  · exact hc
  · exact hc

theorem dsClear_cases (i g : Nat) : (b.dsClear i g).1 = b ∨ ∃ v, (b.dsClear i g).1 = (b.putEnt Tbl.ds i v).discardOld (.ent Tbl.ds i) := by
  unfold dsClear
  dsimp only
  split
  · exact .inl rfl
  · split
    · exact .inl rfl
    · exact .inr ⟨_, rfl⟩

theorem drained_dsClear (h : b.Drained) : (b.dsClear i g).1.Drained := by
  rcases dsClear_cases (b := b) i g with he | ⟨v, he⟩
  · rwa [he]
  · rw [he]
    exact drained_putEnt _ _ _ _ h

theorem drained_dsRetire (h : b.Drained) : (b.dsRetire i g).Drained := by
  obtain ⟨h1, h2, h3⟩ := drained_dsClear (i := i) (g := g) h
  exact ⟨(rd_wr_ne _ _ (by decide) (by decide) (.inl (by decide))).trans h1, h2, h3⟩

theorem govEnd_aside (loop inst : Nat) : (b.govEnd loop inst).tbls = b.tbls ∧ (b.govEnd loop inst).pipe = b.pipe := by
  unfold govEnd
  split_ifs <;> exact ⟨rfl, rfl⟩

/-- The drain ended, before what waited for it is done. -/
def drainOver (b : Body) : Body :=
  { b.wr Pg.lpm R.LPM_DRAIN 0 with pipe := { b.pipe with trieFree := [], dsWait := [] } }

/-- What waited for the drain, done. -/
def drainDone (b : Body) : Body :=
  b.pipe.dsWait.foldl (fun b e => b.dsRetire e.1 e.2) ((b.pipe.trieFree.foldl (fun b l => b.trieWr l 0) b.drainOver).keepDigests b.pipe.trieFree)

theorem lpmDrainDone_eq : b.lpmDrainDone = b.drainDone.govEnd LOOP_MIGRATE Tbl.trie := rfl

theorem drainDone_drained : b.drainDone.Drained := by
  have h0 : b.drainOver.Drained := ⟨(b.rd_wr_self Pg.lpm R.LPM_DRAIN 0 0 0).trans (Nat.zero_mod _), rfl, rfl⟩
  have h1 := foldl_keeps Drained (fun b l => b.trieWr l 0) (fun _ l h => drained_trieWr l 0 h) b.pipe.trieFree _ h0
  exact foldl_keeps Drained (fun b (e : Nat × Nat) => b.dsRetire e.1 e.2) (fun _ _ h => drained_dsRetire h) _ _ (drained_keepDigests _ h1)

theorem lpmDrainDone_drained : b.lpmDrainDone.Drained := by
  obtain ⟨h1, h2, h3⟩ := drainDone_drained (b := b)
  rw [lpmDrainDone_eq]
  refine ⟨((govEnd_keeps LOOP_MIGRATE Tbl.trie (by decide)).aside (by decide) (by decide)).trans h1, ?_, ?_⟩
  · rw [(govEnd_aside ..).2, h2]
  · rw [(govEnd_aside ..).2, h3]

theorem lpmDrainDone_keeps (h1 : b.pipe.trieFree = []) (h2 : b.pipe.dsWait = []) : Keeps [Pg.lpm, Pg.governor] b b.lpmDrainDone := by
  have he : b.drainDone = b.drainOver := by
    rw [drainDone, h1, h2]
    rfl
  have hover : Keeps [Pg.lpm, Pg.governor] b b.drainOver :=
    ((Keeps.refl b).wrPage (p := Pg.lpm) (f := R.LPM_DRAIN) (v := 0) (by simp) (by decide) (by decide)).of_eq rfl rfl rfl rfl
  rw [lpmDrainDone_eq, he]
  exact hover.trans ((govEnd_keeps LOOP_MIGRATE Tbl.trie (by decide)).mono (by simp))

/-- The lines that the loop has replaced are free, and the entries that it has acted on are cleared. -/
theorem lpmDrainDone_ents (hlines : ∀ l ∈ b.pipe.trieFree, l < 6291456) (hents : ∀ e ∈ b.pipe.dsWait, e.1 < 65536) :
    (∀ l ∈ b.pipe.trieFree, b.lpmDrainDone.ent Tbl.trie l = 0) ∧
    (∀ l, l < 6291456 → l ∉ b.pipe.trieFree → b.lpmDrainDone.ent Tbl.trie l = b.ent Tbl.trie l) ∧
    ∀ i < 65536, b.lpmDrainDone.ent Tbl.ds i = if dsValid (b.ent Tbl.ds i) = true ∧ (i, dsGen (b.ent Tbl.ds i)) ∈ b.pipe.dsWait then
      setBitField 0 199 192 (dsGen (b.ent Tbl.ds i) + 1) else b.ent Tbl.ds i := by
  obtain ⟨f1, f2⟩ := triesFreed_ent b.pipe.trieFree b.drainOver
  have hend : ∀ u j, b.lpmDrainDone.ent u j = b.drainDone.ent u j := fun u j => by
    rw [lpmDrainDone_eq]
    exact ent_of_tbls (govEnd_aside ..).1 u j
  have htrie : ∀ l < 6291456, b.lpmDrainDone.ent Tbl.trie l = (b.pipe.trieFree.foldl (fun b l => b.trieWr l 0) b.drainOver).ent Tbl.trie l := fun l hl => by
    rw [hend, drainDone, dsRetires_ent_ne _ (by decide) (by omega) hents, keepDigests_ent hlines (by decide) (by omega)]
  refine ⟨fun l hl => ?_, fun l hl hm => ?_, fun i hi => ?_⟩
  · rw [htrie l (hlines l hl), f1 l hl]
  · rw [htrie l hl, f2 Tbl.trie l fun l' hl' he => hm ?_]
    · rfl
    · have : l = l' := by
        unfold entKey at he
        omega
      rwa [this]
  · have hds : ((b.pipe.trieFree.foldl (fun b l => b.trieWr l 0) b.drainOver).keepDigests b.pipe.trieFree).ent Tbl.ds i = b.ent Tbl.ds i := by
      rw [keepDigests_ent hlines (by decide) (by omega), f2 Tbl.ds i]
      · rfl
      · intro l hl he
        have := hlines l hl
        simp only [entKey, Tbl.ds, Tbl.trie] at he
        omega
    rw [hend, drainDone, dsRetires_ent, hds]

/-! Compare-and-clear by a master (R150). -/

theorem dsCac_spec (hi : b.rd Pg.ds R.DS_CAC_IDX = i) (hg : b.rd Pg.ds R.DS_CAC_GEN = g) :
    (dsValid (b.ent Tbl.ds i) = false → b.dsCac.rd Pg.ds R.DS_CAC_RC = 3 ∧ b.dsCac.tbls = b.tbls) ∧
    (dsValid (b.ent Tbl.ds i) = true → dsGen (b.ent Tbl.ds i) ≠ g → b.dsCac.rd Pg.ds R.DS_CAC_RC = 2 ∧ b.dsCac.tbls = b.tbls) ∧
    (dsValid (b.ent Tbl.ds i) = true → dsGen (b.ent Tbl.ds i) = g → b.dsCac.rd Pg.ds R.DS_CAC_RC = 1 ∧
      b.dsCac.ent Tbl.ds i = setBitField 0 199 192 (g + 1) ∧ ∀ j, j ≠ i → b.dsCac.ent Tbl.ds j = b.ent Tbl.ds j) := by
  have he : b.dsCac = b.dsRetire i g := by
    unfold dsCac dsRetire
    rw [hi, hg]
  have hrc : b.dsCac.rd Pg.ds R.DS_CAC_RC = (b.dsClear i g).2 % 4 := by
    rw [he]
    exact rd_wr_self ..
  have htb : b.dsCac.tbls = (b.dsClear i g).1.tbls := by
    rw [he]
    rfl
  obtain ⟨h1, h2⟩ := dsRetire_ent (b := b) (i := i) (g := g)
  refine ⟨fun hv => ?_, fun hv hne => ?_, fun hv heq => ?_⟩
  · have hc : b.dsClear i g = (b, 3) := if_pos (by simp [hv])
    rw [hrc, htb, hc]
    exact ⟨rfl, rfl⟩
  · have hc : b.dsClear i g = (b, 2) := (if_neg (by simp [hv])).trans (if_pos hne)
    rw [hrc, htb, hc]
    exact ⟨rfl, rfl⟩
  · have hc : (b.dsClear i g).2 = 1 := by
      unfold dsClear
      dsimp only
      rw [if_neg (by simp [hv]), if_neg (not_not.mpr heq)]
    rw [hrc, hc, he, h1, if_pos ⟨hv, heq⟩]
    exact ⟨rfl, rfl, fun j hj => h2 Tbl.ds j (by unfold entKey; omega)⟩

end

end Body

end Sys2Proof.Machine
end

section
/-! O28: the scrubbers and the injections, and the statement. -/

namespace Sys2Proof.Machine

namespace Body

section
variable {b c : Body} {i : Nat}

theorem clsScrub_due (hi : i < 262144) (hen : b.rd Pg.cls R.CLS_SCRUB_EN = 1) : b.clsScrub i =
    b.paced Mk.clsScrub (max 16 (b.rd Pg.cls R.CLS_SCRUB_INT)) fun b =>
      if b.parityBad Tbl.cls i then b.fault Pg.cls R.CLS_FLT_COPY { access := 9, space := 6, addr := Tbl.cls * 2 ^ 56 + i, inj := true }
      else if b.camFlip Tbl.cls i = 0 then b
      else ((((b.camFix Tbl.cls i).sat Pg.cls R.CLS_SCRUB_FIX).wr Pg.cls R.CLS_ERR_KIND 3).wr Pg.cls R.CLS_ERR_IDX i).fire Pg.cls R.CLS_EVT_SCRUB := by
  refine if_neg ?_
  rintro (h | h)
  · exact h (by rw [on]; exact beq_iff_eq.mpr hen)
  · omega

theorem dsScrub_due (hi : i < 65536) (hen : b.rd Pg.ds R.DS_SCRUB_EN = 1) : b.dsScrub i =
    b.paced Mk.dsScrub (max 16 (b.rd Pg.ds R.DS_SCRUB_INT)) fun b =>
      if b.parityBad Tbl.ds i then b.fault Pg.ds R.DS_FLT_COPY { access := 9, space := 6, addr := Tbl.ds * 2 ^ 56 + i, inj := true }
      else if b.camFlip Tbl.ds i = 0 then b
      else ((b.camFix Tbl.ds i).sat Pg.ds R.DS_SCRUB_FIX).fire Pg.ds R.DS_EVT_SCRUB := by
  refine if_neg ?_
  rintro (h | h)
  · exact h (by rw [on]; exact beq_iff_eq.mpr hen)
  · omega

/-- The cases of a read by the scrubber of the classifier (R123). -/
theorem clsScrub_waits (hi : i < 262144) (hen : b.rd Pg.cls R.CLS_SCRUB_EN = 1) (hd : b.passed Mk.clsScrub (max 16 (b.rd Pg.cls R.CLS_SCRUB_INT)) = false) :
    b.clsScrub i = b := (b.clsScrub_due hi hen).trans (if_neg (by rw [hd]; decide))

theorem clsScrub_reports (hi : i < 262144) (hen : b.rd Pg.cls R.CLS_SCRUB_EN = 1) (hd : b.passed Mk.clsScrub (max 16 (b.rd Pg.cls R.CLS_SCRUB_INT)) = true)
    (hpar : b.parityBad Tbl.cls i = true) : b.clsScrub i =
      (b.mark Mk.clsScrub).fault Pg.cls R.CLS_FLT_COPY { access := 9, space := 6, addr := Tbl.cls * 2 ^ 56 + i, inj := true } :=
  (b.clsScrub_due hi hen).trans ((if_pos hd).trans (if_pos hpar))

theorem clsScrub_finds (hi : i < 262144) (hen : b.rd Pg.cls R.CLS_SCRUB_EN = 1) (hd : b.passed Mk.clsScrub (max 16 (b.rd Pg.cls R.CLS_SCRUB_INT)) = true)
    (hpar : b.parityBad Tbl.cls i = false) (h0 : b.camFlip Tbl.cls i = 0) : b.clsScrub i = b.mark Mk.clsScrub :=
  (b.clsScrub_due hi hen).trans ((if_pos hd).trans ((if_neg (Bool.not_eq_true _ ▸ hpar)).trans (if_pos h0)))

theorem clsScrub_fixes (hi : i < 262144) (hen : b.rd Pg.cls R.CLS_SCRUB_EN = 1) (hd : b.passed Mk.clsScrub (max 16 (b.rd Pg.cls R.CLS_SCRUB_INT)) = true)
    (hpar : b.parityBad Tbl.cls i = false) (h0 : b.camFlip Tbl.cls i ≠ 0) : b.clsScrub i = 
      (((((b.mark Mk.clsScrub).camFix Tbl.cls i).sat Pg.cls R.CLS_SCRUB_FIX).wr Pg.cls R.CLS_ERR_KIND 3).wr Pg.cls R.CLS_ERR_IDX i).fire Pg.cls R.CLS_EVT_SCRUB :=
  (b.clsScrub_due hi hen).trans ((if_pos hd).trans ((if_neg (Bool.not_eq_true _ ▸ hpar)).trans (if_neg h0)))

/-- The cases of a read by the scrubber of Dripstone (R148). -/
theorem dsScrub_waits (hi : i < 65536) (hen : b.rd Pg.ds R.DS_SCRUB_EN = 1) (hd : b.passed Mk.dsScrub (max 16 (b.rd Pg.ds R.DS_SCRUB_INT)) = false) :
    b.dsScrub i = b := (b.dsScrub_due hi hen).trans (if_neg (by rw [hd]; decide))

theorem dsScrub_reports (hi : i < 65536) (hen : b.rd Pg.ds R.DS_SCRUB_EN = 1) (hd : b.passed Mk.dsScrub (max 16 (b.rd Pg.ds R.DS_SCRUB_INT)) = true)
    (hpar : b.parityBad Tbl.ds i = true) : b.dsScrub i =
      (b.mark Mk.dsScrub).fault Pg.ds R.DS_FLT_COPY { access := 9, space := 6, addr := Tbl.ds * 2 ^ 56 + i, inj := true } :=
  (b.dsScrub_due hi hen).trans ((if_pos hd).trans (if_pos hpar))

theorem dsScrub_finds (hi : i < 65536) (hen : b.rd Pg.ds R.DS_SCRUB_EN = 1) (hd : b.passed Mk.dsScrub (max 16 (b.rd Pg.ds R.DS_SCRUB_INT)) = true)
    (hpar : b.parityBad Tbl.ds i = false) (h0 : b.camFlip Tbl.ds i = 0) : b.dsScrub i = b.mark Mk.dsScrub :=
  (b.dsScrub_due hi hen).trans ((if_pos hd).trans ((if_neg (Bool.not_eq_true _ ▸ hpar)).trans (if_pos h0)))

theorem dsScrub_fixes (hi : i < 65536) (hen : b.rd Pg.ds R.DS_SCRUB_EN = 1) (hd : b.passed Mk.dsScrub (max 16 (b.rd Pg.ds R.DS_SCRUB_INT)) = true)
    (hpar : b.parityBad Tbl.ds i = false) (h0 : b.camFlip Tbl.ds i ≠ 0) : b.dsScrub i = 
      (((b.mark Mk.dsScrub).camFix Tbl.ds i).sat Pg.ds R.DS_SCRUB_FIX).fire Pg.ds R.DS_EVT_SCRUB :=
  (b.dsScrub_due hi hen).trans ((if_pos hd).trans ((if_neg (Bool.not_eq_true _ ▸ hpar)).trans (if_neg h0)))

theorem camFlip_fixed (tid i : Nat) : (b.camFix tid i).camFlip tid i = 0 := Sp.get_del_self ..

theorem camFlip_of (h : c.pipe = b.pipe) (tid i : Nat) : c.camFlip tid i = b.camFlip tid i := by rw [camFlip, h, camFlip]

theorem Keeps.camFix {ps : List Nat} (tid i : Nat) : Keeps ps b (b.camFix tid i) := (Keeps.refl b).of_eq rfl rfl rfl rfl

/-- A repair of the classifier's CAM (R123). -/
theorem clsFix_spec (hi : i < 262144) :
    let c := ((((b.camFix Tbl.cls i).sat Pg.cls R.CLS_SCRUB_FIX).wr Pg.cls R.CLS_ERR_KIND 3).wr Pg.cls R.CLS_ERR_IDX i).fire Pg.cls R.CLS_EVT_SCRUB
    c.camFlip Tbl.cls i = 0 ∧ c.rd Pg.cls R.CLS_ERR_KIND = 3 ∧ c.rd Pg.cls R.CLS_ERR_IDX = i ∧
      c.rd Pg.cls R.CLS_SCRUB_FIX = min (b.rd Pg.cls R.CLS_SCRUB_FIX + 1) (2 ^ 32 - 1) ∧ c.rd Pg.cls (evtPend R.CLS_EVT_SCRUB) = 1 ∧ Keeps [Pg.cls] b c := by
  have h0 : (b.camFix Tbl.cls i).rd Pg.cls R.CLS_SCRUB_FIX = b.rd Pg.cls R.CLS_SCRUB_FIX := rfl
  have hflip := camFlip_fixed (b := b) Tbl.cls i
  have hk := Keeps.camFix (b := b) (ps := [Pg.cls]) Tbl.cls i
  generalize b.camFix Tbl.cls i = d at h0 hflip hk
  have hp : Pg.cls % 0x1000 = 0 ∧ 0x8000 ≤ Pg.cls := by decide
  refine ⟨?_, ?_, ?_, ?_, fire_pend _ (by decide) hp.1, ?_⟩
  · rw [camFlip_of (b := d) (by simp), hflip]
  · rw [rd_fire_field hp (by decide) (by decide), rd_wr_apart (by decide)]
    exact rd_wr_self ..
  · rw [rd_fire_field hp (by decide) (by decide)]
    exact (rd_wr_self ..).trans (Nat.mod_eq_of_lt hi)
  · rw [rd_fire_field hp (by decide) (by decide), rd_wr_apart (by decide), rd_wr_apart (by decide), rd_sat_self, h0]
    rfl
  · exact (((hk.sat (by decide) (by decide)).wrPage (by simp) hp.1 (by decide)).wrPage (by simp) hp.1 (by decide)).fire (by decide) hp.1 (by simp)

/-- A repair of Dripstone's (R148). -/
theorem dsFix_spec : let c := ((b.camFix Tbl.ds i).sat Pg.ds R.DS_SCRUB_FIX).fire Pg.ds R.DS_EVT_SCRUB
    c.camFlip Tbl.ds i = 0 ∧ c.rd Pg.ds R.DS_SCRUB_FIX = min (b.rd Pg.ds R.DS_SCRUB_FIX + 1) (2 ^ 32 - 1) ∧ c.rd Pg.ds (evtPend R.DS_EVT_SCRUB) = 1 ∧
      Keeps [Pg.ds] b c := by
  have h0 : (b.camFix Tbl.ds i).rd Pg.ds R.DS_SCRUB_FIX = b.rd Pg.ds R.DS_SCRUB_FIX := rfl
  have hflip := camFlip_fixed (b := b) Tbl.ds i
  have hk := Keeps.camFix (b := b) (ps := [Pg.ds]) Tbl.ds i
  generalize b.camFix Tbl.ds i = d at h0 hflip hk
  have hp : Pg.ds % 0x1000 = 0 ∧ 0x8000 ≤ Pg.ds := by decide
  refine ⟨?_, ?_, fire_pend _ (by decide) hp.1, (hk.sat (by decide) (by decide)).fire (by decide) hp.1 (by simp)⟩
  · rw [camFlip_of (b := d) (by simp), hflip]
  · rw [rd_fire_field hp (by decide) (by decide), rd_sat_self, h0]
    rfl

theorem Keeps.mark {ps : List Nat} (k : Nat) : Keeps ps b (b.mark k) := (Keeps.refl b).of_eq rfl rfl rfl rfl

/-- The parity of an entry broken (R131, R162, R167). -/
theorem breakParity_spec (tid i : Nat) : (b.breakParity tid i).parityBad tid i = true ∧ (∀ t j, (b.breakParity tid i).camFlip t j = b.camFlip t j) ∧
    ∀ ps, Keeps ps b (b.breakParity tid i) := by
  unfold breakParity
  split_ifs with h
  · exact ⟨h, fun _ _ => rfl, fun _ => .refl b⟩
  · exact ⟨by simp [parityBad], fun _ _ => rfl, fun _ => (Keeps.refl b).of_eq rfl rfl rfl rfl⟩

/-- A key bit turned over (R131, R167). -/
theorem flipCam_spec (tid i bit : Nat) : (b.flipCam tid i bit).camFlip tid i = b.camFlip tid i ^^^ 2 ^ bit ∧
    (b.flipCam tid i bit).pipe.parBad = b.pipe.parBad ∧ ∀ ps, Keeps ps b (b.flipCam tid i bit) :=
  ⟨Sp.get_set_self .., rfl, fun _ => (Keeps.refl b).of_eq rfl rfl rfl rfl⟩

/-- An injection into a CAM with keys of `n` bits, or into its copy. -/
def camInject (b : Body) (tid i bit n : Nat) (copy : Bool) : Body :=
  if copy then b.breakParity tid i else if n ≤ bit then b else b.flipCam tid i bit

theorem camInject_spec (tid i bit n : Nat) (copy : Bool) : (∀ ps, Keeps ps b (b.camInject tid i bit n copy)) ∧
    (copy = true → (b.camInject tid i bit n copy).parityBad tid i = true ∧ (b.camInject tid i bit n copy).camFlip tid i = b.camFlip tid i) ∧
    (copy = false → (b.camInject tid i bit n copy).camFlip tid i = (if bit < n then b.camFlip tid i ^^^ 2 ^ bit else b.camFlip tid i) ∧
      (b.camInject tid i bit n copy).pipe.parBad = b.pipe.parBad) := by
  cases copy with
  | true =>
    obtain ⟨h1, h2, h3⟩ := breakParity_spec (b := b) tid i
    exact ⟨h3, fun _ => ⟨h1, h2 tid i⟩, fun h : true = false => nomatch h⟩
  | false =>
    obtain ⟨h1, h2, h3⟩ := flipCam_spec (b := b) tid i bit
    by_cases hn : n ≤ bit
    · have he : b.camInject tid i bit n false = b := (if_neg (by decide)).trans (if_pos hn)
      rw [he, if_neg (Nat.not_lt.mpr hn)]
      exact ⟨fun _ => .refl b, (fun h : false = true => nomatch h), fun _ => ⟨rfl, rfl⟩⟩
    · have he : b.camInject tid i bit n false = b.flipCam tid i bit := (if_neg (by decide)).trans (if_neg hn)
      rw [he, if_pos (Nat.not_le.mp hn)]
      exact ⟨h3, (fun h : false = true => nomatch h), fun _ => ⟨h1, h2⟩⟩

end

end Body

section
variable {s : State} {m : Nat}

/-- LPM_DRAIN written with 1 (R144). -/
theorem exec_lpmDrain (ht : s.takes m (Pg.lpm + 0x84)) : exec (.lpmDrain m) s = .next (s.withBody s.dev.body.lpmDrain) := by
  obtain ⟨w, hw, hput⟩ := Dev.put_word (i := 0) (f := R.LPM_DRAIN) 1 ht pageIs_lpm (by decide) (by decide) (by decide) (by decide) (by decide) rfl (by decide)
  refine State.live_withBody ht.known ht.runs (hput.trans ?_)
  have h1 : (fieldAt (Pg.lpm + 0x84) R.LPM_MAX_NODES).isSome = false := by rw [pageIs_lpm.fieldAt (by decide) (by decide)]; rfl
  have h2 : (fieldAt (Pg.lpm + 0x84) R.LPM_MIG_MAX).isSome = false := by rw [pageIs_lpm.fieldAt (by decide) (by decide)]; rfl
  have h3 : goes (Pg.lpm + 0x84) w R.LPM_DRAIN = true := by
    have hf : R.LPM_DRAIN.of w = 1 := hw (R.LPM_DRAIN, 0, 0) (by decide)
    rw [goes, pageIs_lpm.fieldAt (by decide) (by decide), hf]
    rfl
  simp only [Body.pageStore, Body.storeLpm, h1, h2, h3, Bool.false_eq_true, if_false, if_true]

/-- DS_CAC_GO written (R150). -/
theorem exec_dsCompareAndClear (ht : s.takes m (Pg.ds + 0x94)) : ∃ d, Body.Shown Pg.ds 0x94 (PK.ds.fieldsAt 0x94) s.dev.body d ∧
    exec (.dsCompareAndClear m) s = .next (s.withBody d.dsCac) := by
  have hfld : (fieldAt (Pg.ds + 0x94) R.DS_HIGH_THR).isSome = false := by rw [pageIs_ds.fieldAt (by decide) (by decide)]; rfl
  have hgo : ∀ w, R.DS_CAC_GO.of w = 1 → goes (Pg.ds + 0x94) w R.DS_CAC_GO = true := fun w hw => by
    rw [goes, pageIs_ds.fieldAt (by decide) (by decide), hw]
    rfl
  obtain ⟨d, hshown, hput⟩ := Dev.put_go (v := 1) (i := 0) (f := R.DS_CAC_GO) (act := fun b => b.dsCac) ht pageIs_ds (by decide) (by decide)
    (by decide) (by decide) (by decide) rfl (by decide) fun w _ hw _ => by
      simp only [Body.pageStore, Body.storeDs, hfld, hgo w hw, Bool.false_eq_true, if_false, if_true]
  exact ⟨d, hshown, State.live_withBody ht.known ht.runs hput⟩

/-- CLS_INJ_GO written (R131). -/
theorem exec_clsInject (ht : s.takes m (Pg.cls + 0x98)) : ∃ d, Body.Shown Pg.cls 0x98 (PK.cls.fieldsAt 0x98) s.dev.body d ∧
    exec (.clsInject m) s = .next (s.withBody d.clsInject) := by
  obtain ⟨d, hshown, hput⟩ := Dev.put_go (v := 1) (i := 0) (f := R.CLS_INJ_GO) (act := fun b => b.clsInject) ht pageIs_cls (by decide) (by decide)
    (by decide) (by decide) (by decide) rfl (by decide) fun w _ hw _ => by
      simp only [Body.pageStore]
      exact Body.takeGo_act _ _ (by rw [pageIs_cls.fieldAt (by decide) (by decide)]; rfl) hw
  exact ⟨d, hshown, State.live_withBody ht.known ht.runs hput⟩

/-- DS_INJ_GO written (R167). -/
theorem exec_dsInject (ht : s.takes m (Pg.ds + 0xA8)) : ∃ d, Body.Shown Pg.ds 0xA8 (PK.ds.fieldsAt 0xA8) s.dev.body d ∧
    exec (.dsInject m) s = .next (s.withBody d.dsInject) := by
  have hfld : (fieldAt (Pg.ds + 0xA8) R.DS_HIGH_THR).isSome = false := by rw [pageIs_ds.fieldAt (by decide) (by decide)]; rfl
  have hcac : ∀ w, goes (Pg.ds + 0xA8) w R.DS_CAC_GO = false := fun w => by
    rw [goes, pageIs_ds.fieldAt (by decide) (by decide)]
    rfl
  obtain ⟨d, hshown, hput⟩ := Dev.put_go (v := 1) (i := 0) (f := R.DS_INJ_GO) (act := fun b => b.dsInject) ht pageIs_ds (by decide) (by decide)
    (by decide) (by decide) (by decide) rfl (by decide) fun w _ hw _ => by
      simp only [Body.pageStore, Body.storeDs, hfld, hcac, Bool.false_eq_true, if_false]
      exact Body.takeGo_act _ _ (by rw [pageIs_ds.fieldAt (by decide) (by decide)]; rfl) hw
  exact ⟨d, hshown, State.live_withBody ht.known ht.runs hput⟩

/-- VLT_INJ_GO written (R162). -/
theorem exec_vltParInject (ht : s.takes m (Pg.vault + 0x98)) : ∃ d, Body.Shown Pg.vault 0x98 (PK.vault.fieldsAt 0x98) s.dev.body d ∧
    exec (.vltParInject m) s = .next (s.withBody d.vltInject) := by
  obtain ⟨d, hshown, hput⟩ := Dev.put_go (v := 1) (i := 0) (f := R.VLT_INJ_GO) (act := fun b => b.vltInject) ht pageIs_vault (by decide) (by decide)
    (by decide) (by decide) (by decide) rfl (by decide) fun w _ hw _ => by
      simp only [Body.pageStore]
      exact Body.takeGo_act _ _ (by rw [pageIs_vault.fieldAt (by decide) (by decide)]; rfl) hw
  exact ⟨d, hshown, State.live_withBody ht.known ht.runs hput⟩

/-- What stands before an injection is the body but for one register's page. -/
theorem Body.Shown.pipe {p off : Nat} {l : List (Fld × Nat × Nat)} {b d : Body} (h : Body.Shown p off l b d) : d.pipe = b.pipe := by rw [h.only]

end

end Sys2Proof.Machine

namespace Sys2Proof
open Machine

/-- Settles O28: the drain by what waits for it, each scrubber by what it finds, each injection by the register that chooses it. -/
theorem dripstoneAndScrubbers : Obligations.DripstoneAndScrubbers := by
  unfold Obligations.DripstoneAndScrubbers
  have hpipe : ∀ (s : State) (c : Body), (s.withBody c).dev.body.pipe = c.pipe := fun s c => by simp
  have hflip : ∀ (s : State) (c : Body) tid i, (s.withBody c).dev.body.camFlip tid i = c.camFlip tid i := fun s c => Body.camFlip_of (hpipe s c)
  have hfault : ∀ (d : Body) p n x, (d.fault p n x).pipe = d.pipe := fun d p n x => by simp
  refine ⟨fun m s ht => ?_, fun s hr => ?_, fun m s ht => ?_, fun i s hr hi hen => ?_, fun i s hr hi hen => ?_, fun m s ht => ?_, fun m s ht => ?_,
    fun m s ht => ?_⟩
  · exact ⟨_, exec_lpmDrain ht, (State.withBody_page (by decide) (by decide)).trans (Body.rd_wr_self ..),
      State.withBody_keeps ((Body.Keeps.refl _).wrPage (by simp) (by decide) (by decide))⟩
  · intro b
    obtain ⟨h1, h2, h3⟩ := Body.lpmDrainDone_drained (b := b)
    refine ⟨_, State.body_withBody rfl hr rfl, (State.withBody_page (by decide) (by decide)).trans h1, by rw [hpipe]; exact h2, by rw [hpipe]; exact h3,
      fun ht hd => State.withBody_keeps (Body.lpmDrainDone_keeps ht hd), fun hl he => ?_⟩
    obtain ⟨k1, k2, k3⟩ := Body.lpmDrainDone_ents hl he
    refine ⟨fun l hm => by rw [State.withBody_ent]; exact k1 l hm, fun l hlt hm => by rw [State.withBody_ent]; exact k2 l hlt hm,
      fun e hm hv hg => ?_, fun i hi hno => ?_⟩
    · have hin : dsValid (b.ent Tbl.ds e.1) = true ∧ (e.1, dsGen (b.ent Tbl.ds e.1)) ∈ b.pipe.dsWait := ⟨hv, by rw [show dsGen (b.ent Tbl.ds e.1) = e.2 from hg]; exact hm⟩
      rw [State.withBody_ent, k3 e.1 (he e hm), if_pos hin, show dsGen (b.ent Tbl.ds e.1) = e.2 from hg]
    · rw [State.withBody_ent, k3 i hi, if_neg fun h => hno _ h.2 rfl]
      rfl
  · intro i e
    obtain ⟨d, hshown, hexec⟩ := exec_dsCompareAndClear ht
    have hent : ∀ u j, d.ent u j = s.ent u j := Body.ent_of_tbls (by rw [hshown.only])
    have hreg : ∀ f : Fld, f.lo < 32 ∧ f.off = 0x90 → d.rd Pg.ds f = s.reg Pg.ds f := fun f hf => hshown.same _ _ _ _ hf.1 (by rw [Fld.addr_zero, hf.2]; decide)
    obtain ⟨h1, h2, h3⟩ := Body.dsCac_spec (b := d) (hreg R.DS_CAC_IDX (by decide)) (hreg R.DS_CAC_GEN (by decide))
    simp only [hent] at h1 h2 h3
    have htb : d.dsCac.tbls = d.tbls → (s.withBody d.dsCac).dev.body.tbls = s.dev.body.tbls := fun h => by
      rw [(by simp : (s.withBody d.dsCac).dev.body.tbls = d.dsCac.tbls), h, hshown.only]
    refine ⟨_, hexec, fun hv => ⟨(State.withBody_page (by decide) (by decide)).trans (h1 hv).1, htb (h1 hv).2⟩,
      fun hv hne => ⟨(State.withBody_page (by decide) (by decide)).trans (h2 hv hne).1, htb (h2 hv hne).2⟩, fun hv hg => ?_⟩
    obtain ⟨k1, k2, k3⟩ := h3 hv hg
    have hi : (s.withBody d.dsCac).ent Tbl.ds i = setBitField 0 199 192 (dsGen e + 1) := by
      rw [State.withBody_ent, show dsGen e = s.reg Pg.ds R.DS_CAC_GEN from hg]
      exact k2
    refine ⟨(State.withBody_page (by decide) (by decide)).trans k1, hi, by rw [hi]; exact dsValid_cleared _, fun j hj => ?_⟩
    rw [State.withBody_ent]
    exact k3 j hj
  · intro b due
    have hexec : exec (.clsScrub i) s = .next (s.withBody (b.clsScrub i)) := State.body_withBody (decide_eq_true hi) hr rfl
    have hm : ∀ ps, Body.Keeps ps b (b.mark Mk.clsScrub) := fun _ => .mark _
    rw [hexec]
    refine ⟨fun hd => ?_, fun hd hpar hne => ?_, fun hd hpar => ?_, fun hd hpar h0 => ?_⟩
    · rw [Body.clsScrub_waits hi hen hd, State.withBody_self]
    · rw [Body.clsScrub_fixes hi hen hd hpar hne]
      obtain ⟨h1, h2, h3, h4, h5, h6⟩ := Body.clsFix_spec (b := b.mark Mk.clsScrub) hi
      exact ⟨_, rfl, by rw [hflip]; exact h1, (State.withBody_page (by decide) (by decide)).trans h2, (State.withBody_page (by decide) (by decide)).trans h3,
        (State.withBody_page (by decide) (by decide)).trans h4, State.withBody_page_evt (by decide) (by decide) h5, State.withBody_keeps ((hm _).trans h6)⟩
    · rw [Body.clsScrub_reports hi hen hd hpar]
      refine ⟨_, rfl, State.withBody_page_flt (by decide) (by decide) (Body.fault_stat ..), ?_, State.withBody_keeps ((hm _).fault (by decide) (by decide) (by simp))⟩
      exact (hflip ..).trans (Body.camFlip_of (hfault ..) ..)
    · rw [Body.clsScrub_finds hi hen hd hpar h0]
      exact ⟨_, rfl, by rw [hpipe]; rfl, State.withBody_keeps (hm _)⟩
  · intro b due
    have hexec : exec (.dsScrub i) s = .next (s.withBody (b.dsScrub i)) := State.body_withBody (decide_eq_true hi) hr rfl
    have hm : ∀ ps, Body.Keeps ps b (b.mark Mk.dsScrub) := fun _ => .mark _
    rw [hexec]
    refine ⟨fun hd => ?_, fun hd hpar hne => ?_, fun hd hpar => ?_, fun hd hpar h0 => ?_⟩
    · rw [Body.dsScrub_waits hi hen hd, State.withBody_self]
    · rw [Body.dsScrub_fixes hi hen hd hpar hne]
      obtain ⟨h1, h2, h3, h4⟩ := Body.dsFix_spec (b := b.mark Mk.dsScrub) (i := i)
      exact ⟨_, rfl, by rw [hflip]; exact h1, (State.withBody_page (by decide) (by decide)).trans h2, State.withBody_page_evt (by decide) (by decide) h3,
        State.withBody_keeps ((hm _).trans h4)⟩
    · rw [Body.dsScrub_reports hi hen hd hpar]
      refine ⟨_, rfl, State.withBody_page_flt (by decide) (by decide) (Body.fault_stat ..), ?_, State.withBody_keeps ((hm _).fault (by decide) (by decide) (by simp))⟩
      exact (hflip ..).trans (Body.camFlip_of (hfault ..) ..)
    · rw [Body.dsScrub_finds hi hen hd hpar h0]
      exact ⟨_, rfl, by rw [hpipe]; rfl, State.withBody_keeps (hm _)⟩
  · intro i bit flip
    obtain ⟨d, hshown, hexec⟩ := exec_clsInject ht
    have hin : d.clsInject = d.camInject Tbl.cls i bit 160 (d.on Pg.cls R.CLS_INJ_COPY) := by
      have h1 : d.rd Pg.cls R.CLS_INJ_IDX = i := hshown.here (R.CLS_INJ_IDX, 0, 0) (by decide)
      have h2 : d.rd Pg.cls R.CLS_INJ_BIT = bit := hshown.here (R.CLS_INJ_BIT, 0, 0) (by decide)
      unfold Body.clsInject
      rw [h1, h2]
      rfl
    have hcopy : d.rd Pg.cls R.CLS_INJ_COPY = s.reg Pg.cls R.CLS_INJ_COPY := hshown.here (R.CLS_INJ_COPY, 0, 0) (by decide)
    obtain ⟨h1, h2, h3⟩ := Body.camInject_spec (b := d) Tbl.cls i bit 160 (d.on Pg.cls R.CLS_INJ_COPY)
    have hf : d.camFlip Tbl.cls i = flip := Body.camFlip_of hshown.pipe ..
    rw [hexec, hin]
    refine ⟨_, rfl, State.withBody_keeps ((hshown.keeps pageIs_cls (by decide) (by simp)).trans (h1 _)), fun hc => ?_, fun hc => ?_⟩
    · obtain ⟨k1, k2⟩ := h2 (beq_iff_eq.mpr (hcopy.trans hc))
      exact ⟨by rw [Body.parityBad, hpipe]; exact k1, by rw [hflip, k2, hf]⟩
    · obtain ⟨k1, k2⟩ := h3 (beq_eq_false_iff_ne.mpr (by rw [hcopy, hc]; decide))
      exact ⟨by rw [hflip, k1, hf], by rw [hpipe, k2, hshown.pipe]⟩
  · intro i bit flip
    obtain ⟨d, hshown, hexec⟩ := exec_dsInject ht
    have hin : d.dsInject = d.camInject Tbl.ds i bit 176 (d.on Pg.ds R.DS_INJ_COPY) := by
      have h1 : d.rd Pg.ds R.DS_INJ_IDX = i := hshown.here (R.DS_INJ_IDX, 0, 0) (by decide)
      have h2 : d.rd Pg.ds R.DS_INJ_BIT = bit := hshown.here (R.DS_INJ_BIT, 0, 0) (by decide)
      unfold Body.dsInject
      rw [h1, h2]
      rfl
    have hcopy : d.rd Pg.ds R.DS_INJ_COPY = s.reg Pg.ds R.DS_INJ_COPY := hshown.here (R.DS_INJ_COPY, 0, 0) (by decide)
    obtain ⟨h1, h2, h3⟩ := Body.camInject_spec (b := d) Tbl.ds i bit 176 (d.on Pg.ds R.DS_INJ_COPY)
    have hf : d.camFlip Tbl.ds i = flip := Body.camFlip_of hshown.pipe ..
    rw [hexec, hin]
    refine ⟨_, rfl, State.withBody_keeps ((hshown.keeps pageIs_ds (by decide) (by simp)).trans (h1 _)), fun hc => ?_, fun hc => ?_⟩
    · obtain ⟨k1, k2⟩ := h2 (beq_iff_eq.mpr (hcopy.trans hc))
      exact ⟨by rw [Body.parityBad, hpipe]; exact k1, by rw [hflip, k2, hf]⟩
    · obtain ⟨k1, k2⟩ := h3 (beq_eq_false_iff_ne.mpr (by rw [hcopy, hc]; decide))
      exact ⟨by rw [hflip, k1, hf], by rw [hpipe, k2, hshown.pipe]⟩
  · intro k i
    obtain ⟨d, hshown, hexec⟩ := exec_vltParInject ht
    have hk : d.rd Pg.vault R.VLT_INJ_TABLE = k := hshown.here (R.VLT_INJ_TABLE, 0, 0) (by decide)
    have hi : d.rd Pg.vault R.VLT_INJ_IDX = i := hshown.here (R.VLT_INJ_IDX, 0, 0) (by decide)
    have hin : d.vltInject = if 1 ≤ k ∧ k ≤ 9 ∧ i < tblCount k then d.breakParity k i else d := by
      unfold Body.vltInject
      rw [hk, hi]
    obtain ⟨h1, -, h3⟩ := Body.breakParity_spec (b := d) k i
    have hkeep := hshown.keeps pageIs_vault (ps := [Pg.vault]) (by decide) (by simp)
    rw [hexec, hin]
    by_cases hc : 1 ≤ k ∧ k ≤ 9 ∧ i < tblCount k
    · rw [if_pos hc]
      exact ⟨_, rfl, State.withBody_keeps (hkeep.trans (h3 _)), fun _ _ _ => by rw [Body.parityBad, hpipe]; exact h1, fun h => absurd hc h⟩
    · rw [if_neg hc]
      exact ⟨_, rfl, State.withBody_keeps hkeep, fun a1 a2 a3 => absurd ⟨a1, a2, a3⟩ hc, fun _ => by rw [hpipe, hshown.pipe]⟩

end Sys2Proof
end

section
/-! O29: the line of a new root (R143). -/

namespace Sys2Proof.Machine
namespace Body

/-- The lines from `a` on, `n` of them, and one more past a gap of one. -/
def gapAfter (a n : Nat) : List Nat := List.range' a n ++ [a + n + 1]

theorem gapAfter_succ (a n : Nat) : gapAfter a (n + 1) = a :: gapAfter (a + 1) n := by
  simp only [gapAfter, List.range'_succ, List.cons_append, Nat.add_assoc, Nat.add_comm 1]

/-- The list is rising already. -/
theorem gapAfter_sorted (n : Nat) : ∀ a, (gapAfter a n).foldr insertNat [] = gapAfter a n := by
  induction n with
  | zero => exact fun a => rfl
  | succ n ih =>
    intro a
    rw [gapAfter_succ, List.foldr_cons, ih (a + 1)]
    cases n with
    | zero => exact if_pos (by omega)
    | succ n =>
      rw [gapAfter_succ]
      exact if_pos (by omega)

/-- The gap is the lowest line that is free. -/
theorem runIn_gapAfter (n : Nat) : ∀ a, runIn 1 (gapAfter a n) a = some (a + n) := by
  induction n with
  | zero => exact fun a => if_pos (by omega)
  | succ n ih =>
    intro a
    rw [gapAfter_succ, runIn, if_neg (by omega), Nat.max_eq_right (by omega), ih (a + 1)]
    congr 1
    omega

end Body
end Sys2Proof.Machine

namespace Sys2Proof
open Machine Tests

/-- The line number whose key in the table store is that of the root entry of VRF 0's second family. -/
def aliasLine : Nat := (Tbl.root - Tbl.trie) * 2 ^ 40 + 1

theorem aliasLine_key : entKey Tbl.trie aliasLine = entKey Tbl.root 1 := by decide

/-- The engine at work with one valid root that has no trie, and every line below `aliasLine` waiting to be freed. -/
def linesTaken : State := chg ready fun b =>
  { b with tbls := [(entKey Tbl.root 0, 2 ^ 63 + 2 ^ 31)], pipe := { b.pipe with trieFree := Body.gapAfter 0 aliasLine } }

theorem linesTaken_used : linesTaken.dev.body.trieUsed 0 = Body.gapAfter 0 aliasLine := by
  have hroots : linesTaken.dev.body.otherRoots 0 = [] := by decide +kernel
  have htrie : linesTaken.dev.body.entIdxs Tbl.trie = [] := by decide +kernel
  have hfree : linesTaken.dev.body.pipe.trieFree = Body.gapAfter 0 aliasLine := rfl
  rw [Body.trieUsed, hroots, htrie, hfree, List.flatMap_nil, List.append_nil, Body.gapAfter_sorted]

/-- Refutes O29: nothing bounds the lines that wait to be freed, so the lowest free line may lie beyond the trie, where its key is another
root's; the statement's new node would stand in the entry that the statement leaves alone. -/
theorem not_migrateLoop : ¬ Obligations.MigrateLoop := by
  intro h
  have hruns : linesTaken.dev.runs [15] = true := by decide +kernel
  obtain ⟨-, -, -, -, -, hbuild⟩ := h linesTaken hruns (by decide +kernel)
  have hline : Body.runIn 1 (linesTaken.dev.body.trieUsed 0) 0 = some aliasLine := by
    rw [linesTaken_used, Body.runIn_gapAfter, Nat.zero_add]
  have hlast : linesTaken.dev.body.gov.lastAct = [] := by decide +kernel
  obtain ⟨t, -, -, -, hvalid, hkeep⟩ := hbuild 0 aliasLine (by decide) (fun e he => absurd (hlast ▸ he) List.not_mem_nil) (by decide +kernel)
    (.inl (by decide +kernel)) hline
  have hsame : t.ent Tbl.trie aliasLine = t.ent Tbl.root 1 := by
    simp only [State.ent, Body.ent, aliasLine_key]
    rfl
  have hzero : linesTaken.ent Tbl.root 1 = 0 := by decide +kernel
  rw [hsame, hkeep 1 (by decide) (by decide), hzero] at hvalid
  rw [tnValid, bitOn, Nat.zero_div] at hvalid
  exact absurd hvalid (by decide)

end Sys2Proof
end

section
/-! O30: the digest comparator, the flush and the write-back of statistics (R162, R163, R183, R184, R203). -/

namespace Sys2Proof.Machine

namespace Body

section
variable {b c d : Body} {r k : Nat}

/-! What a pass finds of bad parity (R162, R163). -/

/-- Bad parity told: the tables, the hash registers and the comparator's own registers stand. -/
structure ParityTold (b c : Body) : Prop where
  searched : Searched b c
  vault : ∀ f : Fld, f.lo < 32 ∧ 0x80 ≤ f.off ∧ f.off < 0x1000 → c.rd Pg.vault f = b.rd Pg.vault f

theorem ParityTold.trans (h : ParityTold b c) (h' : ParityTold c d) : ParityTold b d :=
  ⟨h.searched.trans h'.searched, fun f hf => (h'.vault f hf).trans (h.vault f hf)⟩

theorem ParityTold.refl (b : Body) : ParityTold b b := ⟨.refl b, fun _ _ => rfl⟩

/-- A register of a page that a count and an event of another page leave. -/
theorem rd_told_aside {p q n : Nat} {f g : Fld} (hp : p % 0x1000 = 0) (hq : q % 0x1000 = 0 ∧ 0x8000 ≤ q) (hne : q ≠ p) (hn : n < 32)
    (hf : f.lo < 32 ∧ f.off < 0x1000) (hg : g.lo < 32 ∧ g.off < 0x1000) : ((b.sat p f).fire p n).rd q g = b.rd q g := by
  refine (rd_fire _ hn hg.1 (.inl ?_) ?_ ?_ ?_).trans (rd_wr_ne _ _ hf.1 hg.1 (.inl ?_)) <;> simp only [Fld.addr_zero] <;> omega

theorem parityTold_page {p n : Nat} {f : Fld} (hp : p % 0x1000 = 0) (h1 : p ≠ Pg.vault) (h2 : p ≠ Pg.exm) (hn : n < 32) (hf : f.lo < 32 ∧ f.off < 0x1000) :
    ParityTold b ((b.sat p f).fire p n) := by
  refine ⟨⟨by simp, by simp, by simp, fun g hg => rd_told_aside hp (by decide) h2.symm hn hf ?_⟩,
    fun g hg => rd_told_aside hp (by decide) h1.symm hn hf ⟨hg.1, hg.2.2⟩⟩
  revert g
  decide

theorem parityTold_exm (ls : List XLoc) : ParityTold b (b.exmParity ls) := by
  refine foldl_keeps (ParityTold b) _ (fun d l h => ?_) ls b (.refl b)
  dsimp only
  split_ifs
  · exact h.trans ⟨searched_told (by simp) (by decide), fun f hf => rd_told_aside (by decide) (by decide) (by decide) (by decide) (by decide) ⟨hf.1, hf.2.2⟩⟩
  · exact h

theorem parityTold_read (tid i : Nat) : ParityTold b (b.parityRead tid i) := by
  unfold parityRead lpmParity nhParity
  by_cases hbad : b.parityBad tid i = true
  · rw [if_neg (not_not.mpr hbad)]
    by_cases h1 : tid = Tbl.exm
    · rw [if_pos h1]
      exact parityTold_exm _
    by_cases h2 : tid = Tbl.stash
    · rw [if_neg h1, if_pos h2]
      exact parityTold_exm _
    by_cases h3 : tid = Tbl.trie ∨ tid = Tbl.root
    · rw [if_neg h1, if_neg h2, if_pos h3]
      exact parityTold_page (by decide) (by decide) (by decide) (by decide) (by decide)
    by_cases h4 : tid = Tbl.nh ∨ tid = Tbl.ecmp ∨ tid = Tbl.encap
    · rw [if_neg h1, if_neg h2, if_neg h3, if_pos h4]
      exact parityTold_page (by decide) (by decide) (by decide) (by decide) (by decide)
    rw [if_neg h1, if_neg h2, if_neg h3, if_neg h4]
    by_cases h5 : tid = Tbl.pol
    · rw [if_pos h5]
      exact parityTold_page (by decide) (by decide) (by decide) (by decide) (by decide)
    · rw [if_neg h5]
      exact .refl b
  · rw [if_pos hbad]
    exact .refl b

theorem Searched.regionDigest (h : Searched b c) (r : Nat) : c.regionDigest r = b.regionDigest r := by
  have hent : ∀ t i, c.ent t i = b.ent t i := ent_of_tbls h.tbls
  have hidx : ∀ t, c.entIdxs t = b.entIdxs t := fun t => by rw [entIdxs, h.tbls, h.cairn, entIdxs]
  have hpar : ∀ t i, c.parityBad t i = b.parityBad t i := fun t i => by rw [parityBad, h.pipe, parityBad]
  have hkey : ∀ n, c.exmKeyAt n = b.exmKeyAt n := fun n => by simp only [exmKeyAt, hent, hpar]
  have hstash : ∀ n, c.stashKeyAt n = b.stashKeyAt n := fun n => by simp only [stashKeyAt, hent, hpar]
  have hregion : ∀ k, c.exmRegion k = b.exmRegion k := fun k => by rw [exmRegion, h.buckets, exmRegion]
  simp only [Body.regionDigest, exmDigest, lineDigest, hkey, hstash, hregion, hidx, hent]

/-! The comparison of a region (R163). -/

/-- The entry of a region is compared: what it reports. -/
def DigestTold (b : Body) (r : Nat) (c : Body) : Prop :=
  (bitOn (b.ent Tbl.digest r) 63 = true → r ∉ b.pipe.digDirty → b.regionDigest r ≠ b.ent Tbl.digest r % 2 ^ 32 →
    c.rd Pg.vault (evtPend R.VLT_EVT_DIGEST) = 1 ∧ c.rd Pg.vault (fltStat R.VLT_FLT_DIGEST) = 1 ∧ c.rd Pg.vault R.VLT_DIG_LAST = r % 2 ^ 11 ∧
    c.rd Pg.vault R.VLT_DIG_MISM = min (b.rd Pg.vault R.VLT_DIG_MISM + 1) (2 ^ 32 - 1)) ∧
  (bitOn (b.ent Tbl.digest r) 63 = true → r ∈ b.pipe.digDirty →
    c.rd Pg.vault R.VLT_DIG_SKIP = min (b.rd Pg.vault R.VLT_DIG_SKIP + 1) (2 ^ 32 - 1) ∧
    c.rd Pg.vault R.VLT_DIG_MISM = b.rd Pg.vault R.VLT_DIG_MISM)

theorem digestCompare_tbls : (b.digestCompare r).tbls = b.tbls := by
  unfold digestCompare
  dsimp only
  split_ifs <;> simp

theorem digestCompare_told : b.DigestTold r (b.digestCompare r) := by
  have hp : Pg.vault % 0x1000 = 0 ∧ 0x8000 ≤ Pg.vault := by decide
  unfold digestCompare
  refine ⟨fun he hd hne => ?_, fun he hd => ?_⟩
  · dsimp only
    rw [if_neg (not_not.mpr he), if_neg (fun h => hd (List.contains_iff_mem.mp h)), if_neg hne]
    refine ⟨?_, fault_stat .., ?_, ?_⟩
    · rw [rd_fault_field _ (by decide) (by decide), fire_pend _ (by decide) hp.1]
    · rw [rd_fault_field _ (by decide) (by decide), rd_fire_field hp (by decide) (by decide)]
      exact rd_wr_self ..
    · rw [rd_fault_field _ (by decide) (by decide), rd_fire_field hp (by decide) (by decide), rd_wr_apart (by decide), rd_sat_self]
      rfl
  · dsimp only
    rw [if_neg (not_not.mpr he), if_pos (List.contains_iff_mem.mpr hd)]
    refine ⟨rd_sat_self .., ?_⟩
    exact rd_wr_apart (by decide)

/-- The next region's pass begins. -/
def digNext (b : Body) (n : Nat) : Body :=
  let b := { b with pipe := { b.pipe with digPass := n, digDirty := b.pipe.digDirty.filter (· ≠ n) } }
  if n = 0 then b.inc Pg.vault R.VLT_DIG_PASS else b

/-- The region's lines read. -/
def digLines (b : Body) (r : Nat) : Body := (b.pipe.parBad.filter (digReads r)).foldl (fun b e => b.parityRead e.1 e.2) b

theorem digestCheck_due (hen : b.rd Pg.vault R.VLT_DIG_EN = 1) : b.digestCheck =
    b.paced Mk.digest (regionLines * max 2 (b.rd Pg.vault R.VLT_DIG_INT)) fun c =>
      ((c.digLines b.pipe.digPass).digestCompare b.pipe.digPass).digNext ((b.pipe.digPass + 1) % 1152) :=
  if_neg (not_not.mpr (beq_iff_eq.mpr hen))

theorem digNext_spec (n : Nat) : (b.digNext n).pipe.digPass = n ∧ (b.digNext n).tbls = b.tbls ∧
    ∀ g : Fld, g = evtPend R.VLT_EVT_DIGEST ∨ g = fltStat R.VLT_FLT_DIGEST ∨ g ∈ [R.VLT_DIG_LAST, R.VLT_DIG_MISM, R.VLT_DIG_SKIP] →
      (b.digNext n).rd Pg.vault g = b.rd Pg.vault g := by
  unfold digNext
  dsimp only
  split_ifs
  · refine ⟨rfl, rfl, fun g hg => ?_⟩
    refine (rd_wr_ne _ _ (by decide) ?_ ?_).trans rfl
    · rcases hg with rfl | rfl | hg
      · decide
      · decide
      · revert g
        decide
    · rcases hg with rfl | rfl | hg
      · decide
      · decide
      · revert g
        decide
  · exact ⟨rfl, rfl, fun _ _ => rfl⟩

theorem digPassed_spec (r : Nat) : let c := ((b.digLines r).digestCompare r).digNext ((r + 1) % 1152)
    c.pipe.digPass = (r + 1) % 1152 ∧ c.tbls = b.tbls ∧ b.DigestTold r c := by
  have hlines : ParityTold b (b.digLines r) :=
    foldl_keeps (ParityTold b) (fun (b : Body) (e : Nat × Nat) => b.parityRead e.1 e.2) (fun _ e h => h.trans (parityTold_read ..)) _ _ (.refl b)
  generalize b.digLines r = d at hlines
  have ht : (d.digestCompare r).tbls = d.tbls := digestCompare_tbls
  obtain ⟨h1, h2⟩ := digestCompare_told (b := d) (r := r)
  generalize d.digestCompare r = e at ht h1 h2
  obtain ⟨k1, k2, k3⟩ := digNext_spec (b := e) ((r + 1) % 1152)
  have hent : d.ent Tbl.digest r = b.ent Tbl.digest r := ent_of_tbls hlines.searched.tbls _ _
  rw [hent, hlines.searched.pipe, hlines.searched.regionDigest, hlines.vault R.VLT_DIG_MISM (by decide)] at h1
  rw [hent, hlines.searched.pipe, hlines.vault R.VLT_DIG_MISM (by decide), hlines.vault R.VLT_DIG_SKIP (by decide)] at h2
  refine ⟨k1, k2.trans (ht.trans hlines.searched.tbls), fun he hd hne => ?_, fun he hd => ?_⟩
  · rw [k3 _ (.inl rfl), k3 _ (.inr (.inl rfl)), k3 R.VLT_DIG_LAST (.inr (.inr (by simp))), k3 R.VLT_DIG_MISM (.inr (.inr (by simp)))]
    exact h1 he hd hne
  · rw [k3 R.VLT_DIG_SKIP (.inr (.inr (by simp))), k3 R.VLT_DIG_MISM (.inr (.inr (by simp)))]
    exact h2 he hd

/-! The statistics cache (R183, R184). -/

theorem pairMem_pairAdd_self (hk : k < 2 ^ 30) (hbad : b.lineBad (pairLine k) = false) (p n : Nat) :
    (b.pairAdd k p n).pairMem k = (((b.pairMem k).1 + p) % 2 ^ 64, ((b.pairMem k).2 + n) % 2 ^ 64) := by
  have hlen : (leBytes 8 ((b.pairMem k).1 + p) ++ leBytes 8 ((b.pairMem k).2 + n)).length = 16 := by rw [List.length_append, length_leBytes, length_leBytes]
  have he : b.pairAdd k p n = (b.lineError 3 (pairLine k)).sumpWrite 3 (Sump.pairAddr k) (leBytes 8 ((b.pairMem k).1 + p) ++ leBytes 8 ((b.pairMem k).2 + n)) := by
    unfold pairAdd
    dsimp only
    rw [show b.lineBad (Sump.pairAddr k / 64 * 64) = false from hbad]
    rfl
  have hread := Mem.read_write b.mem.sump (Sump.pairAddr k) (leBytes 8 ((b.pairMem k).1 + p) ++ leBytes 8 ((b.pairMem k).2 + n))
  rw [hlen] at hread
  rw [he, pairMem_eq (b := (b.lineError 3 (pairLine k)).sumpWrite ..), sumpWrite_pair_mem hk hlen, lineError_mem, hread, List.take_left' (length_leBytes ..),
    List.drop_left' (length_leBytes ..), leNat_leBytes, leNat_leBytes, show 256 ^ 8 = 2 ^ 64 by norm_num]

theorem setLine_rest (x : Delta) : (b.setLine k x).tbls = b.tbls ∧ (b.setLine k x).hbm = b.hbm ∧ (b.setLine k x).mem = b.mem ∧ (b.setLine k x).regs = b.regs :=
  ⟨rfl, rfl, rfl, rfl⟩

/-- A delta moved into the Sump: what it leaves beside the stacks. -/
theorem statMove_aside (x : Delta) : (b.statMove k x).tbls = b.tbls ∧
    (b.statMove k x).stat = (b.setLine k { pkts := (b.statLine k).pkts - x.pkts, bytes := (b.statLine k).bytes - x.bytes }).stat ∧
    (∀ f : Fld, f.lo < 32 ∧ f.off < 0x1000 → (b.statMove k x).rd Pg.stc f = b.rd Pg.stc f) := by
  have hadd := ofSump_pairAdd (b.setLine k { pkts := (b.statLine k).pkts - x.pkts, bytes := (b.statLine k).bytes - x.bytes }) k x.pkts x.bytes
  have hled : ∀ (e : Body) l n, (e.ledOut l n).tbls = e.tbls ∧ (e.ledOut l n).stat = e.stat ∧ (e.ledOut l n).regs = e.regs := fun _ _ _ => ⟨rfl, rfl, rfl⟩
  have hregs := hadd.regs
  obtain ⟨-, -, htbls, -, -, -, -, -, hstat, -⟩ := hadd.parts
  unfold statMove
  dsimp only
  refine ⟨htbls, hstat, fun f hf => ?_⟩
  refine (hregs Pg.stc f 0 0 hf.1 ?_ ?_).trans rfl
  · rw [Fld.addr_zero]
    simp only [notedAt, Pg.stc, Bool.or_eq_false_iff, beq_eq_false_iff_ne]
    omega
  · rw [Fld.addr_zero]
    simp only [sumpPage, Pg.stc]
    omega

theorem statMove_pairMem (hk : k < 2 ^ 30) (hbad : b.lineBad (pairLine k) = false) (x : Delta) :
    (b.statMove k x).pairMem k = (((b.pairMem k).1 + x.pkts) % 2 ^ 64, ((b.pairMem k).2 + x.bytes) % 2 ^ 64) :=
  pairMem_pairAdd_self (b := b.setLine k { pkts := (b.statLine k).pkts - x.pkts, bytes := (b.statLine k).bytes - x.bytes }) hk hbad x.pkts x.bytes

/-- What the delta check leaves: the tables. -/
theorem statCheck_tbls : (b.statCheck k).tbls = b.tbls := by
  have hlost : ∀ (e : Body) n m x, (((((e.lose ledStatPkts n).lose ledStatBytes m).sat Pg.stc R.STC_LOST).fire Pg.stc R.STC_EVT_ECC).fault Pg.stc R.STC_FLT_ECC x).tbls = e.tbls :=
    fun e n m x => by simp [lose]
  have hfree : b.mirrored.2.tbls = b.tbls := by simp [mirrored]
  rcases hm : b.mirrored with ⟨ok, d⟩
  rw [hm] at hfree
  unfold statCheck
  rw [hm]
  dsimp only
  by_cases h : b.stat.bad.contains k = true ∧ b.statLine k ≠ {}
  · rw [if_pos h, hlost]
    exact hfree
  · rw [if_neg h]

theorem statWriteback_moves (hbad : k ∉ b.stat.bad) (hne : b.statLine k ≠ {}) : b.statWriteback k =
    (let c := (b.statMove k (b.statLine k)).sat Pg.stc R.STC_WB
     { c with stat := { c.stat with flush := Sp.del c.stat.flush k } }) := by
  unfold statWriteback
  rw [if_neg hne, statCheck_sound hbad, if_neg hne]

theorem statWriteback_spec (hk : k < 2 ^ 30) (hbad : k ∉ b.stat.bad) (hne : b.statLine k ≠ {}) :
    (b.statWriteback k).statLine k = {} ∧ (∀ j, j ≠ k → (b.statWriteback k).statLine j = b.statLine j) ∧
    (b.lineBad (pairLine k) = false → (b.statWriteback k).pairMem k =
      (((b.pairMem k).1 + (b.statLine k).pkts) % 2 ^ 64, ((b.pairMem k).2 + (b.statLine k).bytes) % 2 ^ 64)) ∧
    (b.statWriteback k).rd Pg.stc R.STC_WB = min (b.rd Pg.stc R.STC_WB + 1) (2 ^ 32 - 1) ∧ (b.statWriteback k).tbls = b.tbls := by
  rw [statWriteback_moves hbad hne]
  obtain ⟨h1, h2, h3⟩ := statMove_aside (b := b) (k := k) (b.statLine k)
  have hmem := fun hl => statMove_pairMem (b := b) hk hl (b.statLine k)
  simp only [Nat.sub_self] at h2
  generalize b.statMove k (b.statLine k) = d at h1 h2 h3 hmem
  have hline : ∀ j, d.statLine j = (b.setLine k {}).statLine j := fun j => by rw [statLine, h2, statLine]
  have hset : ∀ j, (b.setLine k {}).statLine j = Sp.get {} (Sp.set {} b.stat.lines k {}) j := fun _ => rfl
  have hself : (b.setLine k {}).statLine k = {} := (hset k).trans (Sp.get_set_self {} b.stat.lines k {})
  have hother : ∀ j, j ≠ k → (b.setLine k {}).statLine j = b.statLine j := fun j hj => (hset j).trans (Sp.get_set_of_ne {} {} b.stat.lines {} hj)
  refine ⟨(hline k).trans hself, fun j hj => (hline j).trans (hother j hj), hmem, ?_, h1⟩
  refine (rd_sat_self (b := d) Pg.stc R.STC_WB).trans ?_
  rw [h3 R.STC_WB (by decide)]
  rfl

/-- The lines that a flush covers, moved into the Sump. -/
def statFlushed (b : Body) : Body :=
  b.stat.flush.foldl (fun b e =>
    let b := b.statCheck e.1
    if b.statLine e.1 = {} then b else (b.statMove e.1 e.2).sat Pg.stc R.STC_WB) b

theorem stcFlushDone_eq (h : b.rd Pg.stc R.STC_FLUSH = 1) : b.stcFlushDone =
    ({ (b.statFlushed.wr Pg.stc R.STC_FLUSH 0) with stat := { b.statFlushed.stat with flush := [] } } : Body).fire Pg.stc R.STC_EVT_FLUSHED :=
  if_pos (beq_iff_eq.mpr h)

theorem statFlushed_tbls : b.statFlushed.tbls = b.tbls := by
  refine foldl_same Body.tbls _ (fun c e => ?_) _ _
  dsimp only
  split_ifs
  · exact statCheck_tbls
  · exact (statMove_aside e.2).1.trans statCheck_tbls

theorem statFlushed_one {x : Delta} (hf : b.stat.flush = [(k, x)]) (hbad : k ∉ b.stat.bad) (hne : b.statLine k ≠ {}) :
    b.statFlushed = (b.statMove k x).sat Pg.stc R.STC_WB := by
  unfold statFlushed
  rw [hf, List.foldl_cons, List.foldl_nil, statCheck_sound hbad, if_neg hne]

theorem stcFlushDone_spec (h : b.rd Pg.stc R.STC_FLUSH = 1) : b.stcFlushDone.rd Pg.stc R.STC_FLUSH = 0 ∧ b.stcFlushDone.stat.flush = [] ∧
    b.stcFlushDone.rd Pg.stc (evtPend R.STC_EVT_FLUSHED) = 1 ∧ b.stcFlushDone.tbls = b.tbls ∧ b.stcFlushDone.mem = b.statFlushed.mem := by
  have ht := statFlushed_tbls (b := b)
  rw [stcFlushDone_eq h]
  generalize b.statFlushed = d at ht
  have h0 : ({ (d.wr Pg.stc R.STC_FLUSH 0) with stat := { d.stat with flush := [] } } : Body).rd Pg.stc R.STC_FLUSH = 0 := d.rd_wr_self Pg.stc R.STC_FLUSH 0 0 0
  have hr : ({ (d.wr Pg.stc R.STC_FLUSH 0) with stat := { d.stat with flush := [] } } : Body).stat.flush = [] ∧
    ({ (d.wr Pg.stc R.STC_FLUSH 0) with stat := { d.stat with flush := [] } } : Body).tbls = b.tbls ∧
    ({ (d.wr Pg.stc R.STC_FLUSH 0) with stat := { d.stat with flush := [] } } : Body).mem = d.mem := ⟨rfl, ht, rfl⟩
  generalize ({ (d.wr Pg.stc R.STC_FLUSH 0) with stat := { d.stat with flush := [] } } : Body) = e at h0 hr
  refine ⟨?_, ?_, fire_pend _ (by decide) (by decide), ?_, ?_⟩
  · rw [rd_fire_field (by decide) (by decide) (by decide), h0]
  · simp [hr.1]
  · simp [hr.2.1]
  · simp [hr.2.2]

/-- An injection of the statistics page (R203). -/
theorem stcInject_spec {i : Nat} (hi : b.rd Pg.stc R.STC_INJ_IDX = i) : (∀ ps, Keeps ps b b.stcInject) ∧
    (b.rd Pg.stc R.STC_INJ_POL ≠ 1 → i ∈ b.stcInject.stat.bad ∧ b.stcInject.pipe = b.pipe) ∧
    (b.rd Pg.stc R.STC_INJ_POL = 1 → i ∈ b.stcInject.pipe.polBad ∧ b.stcInject.stat = b.stat) := by
  have hin : b.stcInject = if b.on Pg.stc R.STC_INJ_POL then { b with pipe := { b.pipe with polBad := insertNat i b.pipe.polBad } }
      else { b with stat := { b.stat with bad := insertNat i b.stat.bad } } := by
    rw [← hi]
    rfl
  rw [hin]
  split_ifs with h
  · exact ⟨fun _ => (Keeps.refl b).of_eq rfl rfl rfl rfl, fun hne => absurd (beq_iff_eq.mp h) hne, fun _ => ⟨mem_insertNat.mpr (.inl rfl), rfl⟩⟩
  · exact ⟨fun _ => (Keeps.refl b).of_eq rfl rfl rfl rfl, fun _ => ⟨mem_insertNat.mpr (.inl rfl), rfl⟩, fun he => absurd (beq_iff_eq.mpr he) h⟩

end

end Body

section
variable {s : State} {m : Nat}

/-- STC_FLUSH written with 1 (R184). -/
theorem exec_stcFlush (ht : s.takes m (Pg.stc + 0x80)) : ∃ d, Body.Shown Pg.stc 0x80 (PK.stc.fieldsAt 0x80) s.dev.body d ∧
    exec (.stcFlush m) s = .next (s.withBody d.stcFlush) := by
  obtain ⟨w, hw, hput⟩ := Dev.put_word (i := 0) (f := R.STC_FLUSH) 1 ht pageIs_stc (by decide) (by decide) (by decide) (by decide) (by decide) rfl (by decide)
  have hfld : (fieldAt (Pg.stc + 0x80) R.STC_FLUSH).isSome = true := by rw [pageIs_stc.fieldAt (by decide) (by decide)]; rfl
  have hone : R.STC_FLUSH.of w = 1 := hw (R.STC_FLUSH, 0, 0) (by decide)
  refine ⟨s.dev.body.takeBits (Pg.stc + 0x80) w [R.STC_FLUSH],
    Body.takeBits_put _ [R.STC_FLUSH] pageIs_stc (by decide) (by decide) (by decide) hw (.inl (by decide)), State.live_withBody ht.known ht.runs (hput.trans ?_)⟩
  simp only [Body.pageStore, Body.storeStc, hfld, hone, if_true]

/-- STC_INJ_GO written (R203). -/
theorem exec_stcInject (ht : s.takes m (Pg.stc + 0x9C)) : ∃ d, Body.Shown Pg.stc 0x9C (PK.stc.fieldsAt 0x9C) s.dev.body d ∧
    exec (.stcInject m) s = .next (s.withBody d.stcInject) := by
  have hfld : (fieldAt (Pg.stc + 0x9C) R.STC_FLUSH).isSome = false := by rw [pageIs_stc.fieldAt (by decide) (by decide)]; rfl
  obtain ⟨d, hshown, hput⟩ := Dev.put_go (v := 1) (i := 0) (f := R.STC_INJ_GO) (act := fun b => b.stcInject) ht pageIs_stc (by decide) (by decide)
    (by decide) (by decide) (by decide) rfl (by decide) fun w _ hw _ => by
      simp only [Body.pageStore, Body.storeStc, hfld, Bool.false_eq_true, if_false]
      exact Body.takeGo_act _ _ (by rw [pageIs_stc.fieldAt (by decide) (by decide)]; rfl) hw
  exact ⟨d, hshown, State.live_withBody ht.known ht.runs hput⟩

end

end Sys2Proof.Machine

namespace Sys2Proof
open Machine

/-- Settles O30: a region by its entry's digest, a flush and a write-back by the pair that the Sump holds. -/
theorem digestsAndStatistics : Obligations.DigestsAndStatistics := by
  unfold Obligations.DigestsAndStatistics
  have hstat : ∀ (s : State) (c : Body), (s.withBody c).dev.body.stat = c.stat := fun s c => by simp
  have htbls : ∀ (s : State) (c : Body), (s.withBody c).dev.body.tbls = c.tbls := fun s c => by simp
  have hpipe : ∀ (s : State) (c : Body), (s.withBody c).dev.body.pipe = c.pipe := fun s c => by simp
  have hline : ∀ (s : State) (c : Body) k, (s.withBody c).dev.body.statLine k = c.statLine k := fun s c k => by rw [Body.statLine, hstat, Body.statLine]
  have hmem : ∀ (s : State) (c : Body) k, (s.withBody c).dev.body.pairMem k = c.pairMem k := fun s c k => Body.pairMem_of_sump (by simp) k
  refine ⟨fun s hr hen => ?_, fun m s ht => ?_, fun s hr hon => ?_, fun k s hr hk hbad => ?_, fun m s ht => ?_⟩
  · intro b r e due
    have hexec : exec .digestCheck s = .next (s.withBody b.digestCheck) := State.body_withBody rfl hr rfl
    rw [hexec, Body.digestCheck_due hen]
    refine ⟨fun hd => ?_, fun hd => ?_⟩
    · have hidle : ∀ f : Body → Body, b.paced Mk.digest (Body.regionLines * max 2 (b.rd Pg.vault R.VLT_DIG_INT)) f = b := fun f =>
        if_neg (by rw [show b.passed Mk.digest (Body.regionLines * max 2 (b.rd Pg.vault R.VLT_DIG_INT)) = false from hd]; decide)
      rw [hidle, State.withBody_self]
    · have hgo : ∀ f : Body → Body, b.paced Mk.digest (Body.regionLines * max 2 (b.rd Pg.vault R.VLT_DIG_INT)) f = f (b.mark Mk.digest) := fun f => if_pos hd
      obtain ⟨h1, h2, h3, h4⟩ := Body.digPassed_spec (b := b.mark Mk.digest) r
      rw [hgo]
      refine ⟨_, rfl, by rw [hpipe]; exact h1, (htbls ..).trans h2, fun he hd hne => ?_, fun he hd => ?_⟩
      · obtain ⟨k1, k2, k3, k4⟩ := h3 he hd hne
        exact ⟨State.withBody_page_evt (by decide) (by decide) k1, State.withBody_page_flt (by decide) (by decide) k2,
          (State.withBody_page (by decide) (by decide)).trans k3, (State.withBody_page (by decide) (by decide)).trans k4⟩
      · obtain ⟨k1, k2⟩ := h4 he hd
        exact ⟨(State.withBody_page (by decide) (by decide)).trans k1, (State.withBody_page (by decide) (by decide)).trans k2⟩
  · obtain ⟨d, hshown, hexec⟩ := exec_stcFlush ht
    have hst : d.stat = s.dev.body.stat := by rw [hshown.only]
    have hwb : d.stcFlush.rd Pg.stc R.STC_WB_MAX = d.rd Pg.stc R.STC_WB_MAX :=
      Body.rd_wr_apart (b := d) (p := Pg.stc) (v := 1) (f := R.STC_FLUSH) (g := R.STC_WB_MAX) (by decide)
    refine ⟨_, hexec, (State.withBody_page (by decide) (by decide)).trans (d.rd_wr_self Pg.stc R.STC_FLUSH 1 0 0), ?_, ?_, ?_⟩
    · rw [hstat, ← hst]
      rfl
    · rw [hstat, ← hst]
      rfl
    · rw [State.withBody_page (by decide) (by decide), hwb]
      exact hshown.here (R.STC_WB_MAX, 0, 0) (by decide)
  · obtain ⟨h1, h2, h3, h4, h5⟩ := Body.stcFlushDone_spec (b := s.dev.body) hon
    refine ⟨_, State.body_withBody rfl hr rfl, (State.withBody_page (by decide) (by decide)).trans h1, by rw [hstat]; exact h2,
      State.withBody_page_evt (by decide) (by decide) h3, (htbls ..).trans h4, fun k d hf hk hbad hne hl => ?_⟩
    rw [hmem, Body.pairMem_of_sump (congrArg MemSt.sump h5), Body.statFlushed_one hf hbad hne]
    exact Body.statMove_pairMem hk hl d
  · intro l hne
    obtain ⟨h1, h2, h3, h4, h5⟩ := Body.statWriteback_spec (b := s.dev.body) hk hbad hne
    refine ⟨_, State.body_withBody (decide_eq_true hk) hr rfl, (hline ..).trans h1, fun j hj => (hline ..).trans (h2 j hj), fun hl => (hmem ..).trans (h3 hl),
      (State.withBody_page (by decide) (by decide)).trans h4, (htbls ..).trans h5⟩
  · intro i
    obtain ⟨d, hshown, hexec⟩ := exec_stcInject ht
    have hi : d.rd Pg.stc R.STC_INJ_IDX = i := hshown.here (R.STC_INJ_IDX, 0, 0) (by decide)
    have hpol : d.rd Pg.stc R.STC_INJ_POL = s.reg Pg.stc R.STC_INJ_POL := hshown.here (R.STC_INJ_POL, 0, 0) (by decide)
    have hst : d.stat = s.dev.body.stat ∧ d.pipe = s.dev.body.pipe := by rw [hshown.only]; exact ⟨rfl, rfl⟩
    obtain ⟨h1, h2, h3⟩ := Body.stcInject_spec hi
    refine ⟨_, hexec, State.withBody_keeps ((hshown.keeps pageIs_stc (by decide) (by simp)).trans (h1 _)), fun h0 => ?_, fun hone => ?_⟩
    · obtain ⟨k1, k2⟩ := h2 (by rw [hpol, h0]; decide)
      rw [hstat, hpipe, k2, hst.2]
      exact ⟨k1, rfl⟩
    · obtain ⟨k1, k2⟩ := h3 (hpol.trans hone)
      rw [hstat, hpipe, k2, hst.1]
      exact ⟨k1, rfl⟩

end Sys2Proof
end

section
/-! O35: service of the requests of a pseudo-channel, refreshes and the scrubber (R326 to R336). -/

namespace Sys2Proof.Machine

namespace Body

variable {b c d : Body} {k pc : Nat}

/-- What the queues of a stack and the gauges over them leave alone: memory, tables, the errors of the lines, the open rows, every counter of the
stacks but those of drain and panic, and the events that are pending. -/
structure Queued (b c : Body) : Prop where
  mem : c.mem = b.mem
  tbls : c.tbls = b.tbls
  ce : c.hbm.ce = b.hbm.ce
  ue : c.hbm.ue = b.hbm.ue
  coded : c.hbm.coded = b.hbm.coded
  rows : c.hbm.rows = b.hbm.rows
  ctr : ∀ s i, i < 0x1000 → i ≠ 6 → i ≠ 7 → c.ctr (Pg.hbm s 3) i = b.ctr (Pg.hbm s 3) i
  pend : ∀ p n, n < 32 → p % 0x1000 = 0 → b.rd p (evtPend n) = 1 → c.rd p (evtPend n) = 1

namespace Queued

theorem refl (b : Body) : Queued b b := ⟨rfl, rfl, rfl, rfl, rfl, rfl, fun _ _ _ _ _ => rfl, fun _ _ _ _ h => h⟩

theorem trans (h : Queued b c) (h' : Queued c d) : Queued b d :=
  ⟨h'.mem.trans h.mem, h'.tbls.trans h.tbls, h'.ce.trans h.ce, h'.ue.trans h.ue, h'.coded.trans h.coded, h'.rows.trans h.rows,
    fun s i h1 h2 h3 => (h'.ctr s i h1 h2 h3).trans (h.ctr s i h1 h2 h3), fun p n hn hp hb => h'.pend p n hn hp (h.pend p n hn hp hb)⟩

/-- A change of the stacks' state that leaves errors and rows. -/
theorem of {x : HbmSt} (h : x.ce = b.hbm.ce ∧ x.ue = b.hbm.ue ∧ x.coded = b.hbm.coded ∧ x.rows = b.hbm.rows) : Queued b { b with hbm := x } :=
  ⟨rfl, rfl, h.1, h.2.1, h.2.2.1, h.2.2.2, fun _ _ _ _ _ => rfl, fun _ _ _ _ h => h⟩

theorem count {s i n : Nat} (h : Queued b c) (hi : i = 6 ∨ i = 7) : Queued b (c.hbmCount s i n) := by
  refine h.trans ⟨rfl, rfl, rfl, rfl, rfl, rfl, fun q j hj h6 h7 => ?_, fun _ _ _ _ hb => hb⟩
  exact ctr_count_key (by unfold ctrKey Pg.hbm; omega)

theorem fire {p n : Nat} (h : Queued b c) (hn : n < 32) (hp : p % 0x1000 = 0) : Queued b (c.fire p n) := by
  have hctr : ∀ q i, (c.fire p n).ctr q i = c.ctr q i := fun q i => by
    have he : (c.fire p n).ctrs = c.ctrs := by simp
    rw [Body.ctr, Body.ctr, he]
  refine h.trans ⟨by simp, by simp, ?_, ?_, ?_, ?_, fun _ _ _ _ _ => hctr _ _, fun q m hm hq hb => fire_keeps_pend _ hm hn hq hp hb⟩
  all_goals rw [show (c.fire p n).hbm = c.hbm by simp]

end Queued

theorem queued_drainUpdate (s pc : Nat) : Queued b (b.hbmDrainUpdate s pc) ∧ (b.hbmDrainUpdate s pc).hbm.queue = b.hbm.queue := by
  unfold hbmDrainUpdate
  dsimp only
  split_ifs
  · exact ⟨.of ⟨rfl, rfl, rfl, rfl⟩, rfl⟩
  · exact ⟨.refl b, rfl⟩
  · exact ⟨.count (.of ⟨rfl, rfl, rfl, rfl⟩) (.inr rfl), rfl⟩
  · exact ⟨.refl b, rfl⟩
  · exact ⟨.count (.of ⟨rfl, rfl, rfl, rfl⟩) (.inr rfl), rfl⟩
  · exact ⟨.refl b, rfl⟩

theorem queued_panicUpdate (s : Nat) : Queued b (b.hbmPanicUpdate s) ∧ (b.hbmPanicUpdate s).hbm.queue = b.hbm.queue := by
  unfold hbmPanicUpdate
  dsimp only
  split_ifs
  · exact ⟨.of ⟨rfl, rfl, rfl, rfl⟩, rfl⟩
  · exact ⟨.refl b, rfl⟩
  · refine ⟨Queued.fire (.count (.of ⟨rfl, rfl, rfl, rfl⟩) (.inl rfl)) (by decide) (hbm_page (by decide)).1, ?_⟩
    have he : ∀ (e : Body) p n, (e.fire p n).hbm = e.hbm := fun e p n => by simp
    rw [he]
    rfl
  · exact ⟨.refl b, rfl⟩

/-- A request joins the queue of its stack (R327, R328). -/
theorem queued_hbmPut (port : Nat) (wr : Bool) (a : Nat) : Queued b (b.hbmPut port wr a) := by
  unfold hbmPut
  dsimp only
  split_ifs
  · exact .of ⟨rfl, rfl, rfl, rfl⟩
  · refine Queued.trans ?_ (queued_panicUpdate _).1
    refine Queued.trans ?_ (queued_drainUpdate _ _).1
    exact .of ⟨rfl, rfl, rfl, rfl⟩
  · exact .refl b
  · refine Queued.trans ?_ (queued_panicUpdate _).1
    refine Queued.trans ?_ (queued_drainUpdate _ _).1
    exact .of ⟨rfl, rfl, rfl, rfl⟩

/-! The choice of a request (R327, R329). -/

/-- Whether a request has waited for its age (R327). -/
def Aged (b : Body) (k : Nat) (r : HbmReq) : Prop := r.since + b.rd (Pg.hbm k 1) R.HBM_AGE_MAX ≤ b.clk

/-- The bank of a request. -/
def bankOf (r : HbmReq) : Nat := bankKey { stack := r.stack, pc := r.pc, bank := r.bank, row := r.row }

/-- NORMAL takes an aged request first, then one of an open row, then the oldest (R327). -/
theorem pickNormal_spec {l : List HbmReq} (h : l ≠ []) : ∃ r ∈ l, b.pickNormal k l = some r ∧ ((∃ x ∈ l, b.Aged k x) → b.Aged k r) ∧
    ((∀ x ∈ l, ¬ b.Aged k x) → (∃ x ∈ l, (bankOf x, x.row) ∈ b.hbm.rows) → (bankOf r, r.row) ∈ b.hbm.rows) ∧
    ((∀ x ∈ l, ¬ b.Aged k x ∧ (bankOf x, x.row) ∉ b.hbm.rows) → l.head? = some r) := by
  have hopen : ∀ x : HbmReq, (b.hbm.rows.any fun e => e.1 == bankKey { stack := x.stack, pc := x.pc, bank := x.bank, row := x.row } && e.2 == x.row) = true ↔
      (bankOf x, x.row) ∈ b.hbm.rows := fun x => by
    simp only [List.any_eq_true, Bool.and_eq_true, beq_iff_eq]
    exact ⟨fun ⟨e, he, h1, h2⟩ => by rw [show (bankOf x, x.row) = e from Prod.ext h1.symm h2.symm]; exact he, fun he => ⟨_, he, rfl, rfl⟩⟩
  unfold pickNormal
  dsimp only
  cases ha : l.find? fun r => decide (r.since + b.rd (Pg.hbm k 1) R.HBM_AGE_MAX ≤ b.clk) with
  | some r =>
    have hr : b.Aged k r := of_decide_eq_true (p := r.since + b.rd (Pg.hbm k 1) R.HBM_AGE_MAX ≤ b.clk) <| by simpa using List.find?_some (p := fun r : HbmReq => decide (r.since + b.rd (Pg.hbm k 1) R.HBM_AGE_MAX ≤ b.clk)) ha
    have hm := List.mem_of_find?_eq_some ha
    exact ⟨r, hm, rfl, fun _ => hr, fun hno => absurd hr (hno r hm), fun hno => absurd hr (hno r hm).1⟩
  | none =>
    have hno : ∀ x ∈ l, ¬ b.Aged k x := fun x hx h => List.find?_eq_none.mp ha x hx (decide_eq_true h)
    cases hh : l.find? fun r => b.hbm.rows.any fun e =>
        e.1 == bankKey { stack := r.stack, pc := r.pc, bank := r.bank, row := r.row } && e.2 == r.row with
    | some r =>
      have hr := (hopen r).mp (List.find?_some (p := fun r : HbmReq => b.hbm.rows.any fun e =>
        e.1 == bankKey { stack := r.stack, pc := r.pc, bank := r.bank, row := r.row } && e.2 == r.row) hh)
      have hm := List.mem_of_find?_eq_some hh
      exact ⟨r, hm, rfl, fun ⟨x, hx, hax⟩ => absurd hax (hno x hx), fun _ _ => hr, fun hn => absurd hr (hn r hm).2⟩
    | none =>
      obtain ⟨r, t, rfl⟩ := List.exists_cons_of_ne_nil h
      exact ⟨r, List.mem_cons_self, rfl, fun ⟨x, hx, hax⟩ => absurd hax (hno x hx),
        fun _ ⟨x, hx, hox⟩ => absurd ((hopen x).mpr hox) (List.find?_eq_none.mp hh x hx), fun _ => rfl⟩

theorem urgency_lt (r : HbmReq) : b.urgency r < 4 := by
  unfold urgency
  dsimp only
  split_ifs <;> decide

/-- The first entry of a list with a given urgency stands before every other of it. -/
theorem find_first {l : List HbmReq} (h : l.Pairwise fun x y => x.wr = true → y.wr = true) {u : Nat} {r : HbmReq}
    (hr : l.find? (fun r => b.urgency r == u) = some r) {x : HbmReq} (hx : x ∈ l) (hu : b.urgency x = u) : r.wr = true → x.wr = true := by
  obtain ⟨-, pre, post, rfl, hpre⟩ := List.find?_eq_some_iff_append.mp hr
  rcases List.mem_append.mp hx with hx | hx
  · have := hpre x hx
    rw [hu, beq_self_eq_true] at this
    nomatch this
  · rcases List.mem_cons.mp hx with rfl | hx
    · exact id
    · exact List.rel_of_pairwise_cons (List.pairwise_append.mp h).2.1 hx

/-- DEADLINE takes one of the highest urgency, reads before writes (R329). -/
theorem urgent_spec {l : List HbmReq} (h : l ≠ []) (hl : l.Pairwise fun x y => x.wr = true → y.wr = true) :
    ∃ r ∈ l, ([3, 2, 1, 0].findSome? fun u => l.find? fun r => b.urgency r == u) = some r ∧
      ∀ x ∈ l, b.urgency x ≤ b.urgency r ∧ (b.urgency x = b.urgency r → r.wr = true → x.wr = true) := by
  obtain ⟨x0, hx0⟩ := List.exists_mem_of_ne_nil l h
  have hsome : ([3, 2, 1, 0].findSome? fun u => l.find? fun r => b.urgency r == u) ≠ none := fun hn => by
    have hu : b.urgency x0 ∈ [3, 2, 1, 0] := by
      have := b.urgency_lt x0
      simp only [List.mem_cons, List.not_mem_nil, or_false]
      omega
    have := List.findSome?_eq_none_iff.mp hn _ hu
    exact absurd (beq_self_eq_true _) (List.find?_eq_none.mp this x0 hx0)
  obtain ⟨r, hr⟩ := Option.ne_none_iff_exists'.mp hsome
  obtain ⟨us, u, vs, hsplit, hu, hus⟩ := List.findSome?_eq_some_iff.mp hr
  have hur : b.urgency r = u := beq_iff_eq.mp (List.find?_some (p := fun r => b.urgency r == u) hu)
  refine ⟨r, List.mem_of_find?_eq_some hu, hr, fun x hx => ⟨?_, fun he => find_first hl hu hx (he.trans hur)⟩⟩
  by_contra hlt
  have hxu : b.urgency x ∈ us := by
    have hlt4 := b.urgency_lt x
    have hd : ([3, 2, 1, 0] : List Nat).Pairwise (· > ·) := by decide
    have hm : b.urgency x ∈ [3, 2, 1, 0] := by
      simp only [List.mem_cons, List.not_mem_nil, or_false]
      omega
    rw [hsplit] at hd hm
    rcases List.mem_append.mp hm with hm | hm
    · exact hm
    · rcases List.mem_cons.mp hm with he | hm
      · omega
      · have := List.rel_of_pairwise_cons (List.pairwise_append.mp hd).2.1 hm
        omega
  exact absurd (beq_self_eq_true _) (List.find?_eq_none.mp (hus _ hxu) x hx)

theorem hbmWaiting_wr {w : Bool} {r : HbmReq} (h : r ∈ b.hbmWaiting k pc w) : r.stack = k ∧ r.pc = pc ∧ r.wr = w ∧ r ∈ b.hbm.queue := by
  have := List.mem_filter.mp (List.mem_of_mem_take h)
  simp only [Bool.and_eq_true, beq_iff_eq] at this
  exact ⟨this.2.1.1, this.2.1.2, this.2.2, this.1⟩

/-- Reads stand before writes where both are served. -/
theorem waiting_pairwise (drain : Bool) :
    (if drain then b.hbmWaiting k pc true else b.hbmWaiting k pc false ++ b.hbmWaiting k pc true).Pairwise fun x y => x.wr = true → y.wr = true := by
  have hw : (b.hbmWaiting k pc true).Pairwise fun x y => x.wr = true → y.wr = true :=
    List.pairwise_of_forall_mem_list fun _ _ _ hy _ => (hbmWaiting_wr hy).2.2.1
  split_ifs
  · exact hw
  · refine List.pairwise_append.mpr ⟨List.pairwise_of_forall_mem_list fun _ hx _ _ h => ?_, hw, fun _ _ _ hy _ => (hbmWaiting_wr hy).2.2.1⟩
    rw [(hbmWaiting_wr hx).2.2.1] at h
    nomatch h

/-! Service of a request (R327, R329). -/

/-- What serving the request does before the gauges are updated. -/
def hbmTaken (b : Body) (s : Nat) (r : HbmReq) : Body :=
  (({ b with hbm := { b.hbm with queue := b.hbm.queue.erase r, rows := Sp.ins b.hbm.rows (bankOf r) r.row } }).hbmCount s (HBM_BYTES r.port) 64).svyBump 5 s
    (b2n r.wr) 64

/-- A request served, late or in time. -/
def hbmServed (b : Body) (s pc : Nat) (r : HbmReq) : Body :=
  ((if b.on (Pg.hbm s 1) R.HBM_QOS_MODE && decide (r.due < b.clk) then (b.hbmTaken s r).hbmCount s HBM_DL_MISS else b.hbmTaken s r).hbmDrainUpdate s
    pc).hbmPanicUpdate s

theorem hbmRequest_served {r : HbmReq} (hs : b.stackServes k = true) (h : b.hbmNext k pc = some r) : b.hbmRequest k pc = b.hbmServed k pc r := by
  unfold hbmRequest
  rw [if_neg (not_not_intro hs), h]
  rfl

theorem hbmRequest_stopped (hs : b.stackServes k = false) : b.hbmRequest k pc = b ∧ b.hbmRefresh k pc = b := by
  have hn : ¬ b.stackServes k = true := by rw [hs]; decide
  exact ⟨if_pos hn, if_pos hn⟩

theorem hbmServed_spec {r : HbmReq} (hp : r.port < 8) :
    (b.hbmServed k pc r).hbm.queue = b.hbm.queue.erase r ∧ (bankOf r, r.row) ∈ (b.hbmServed k pc r).hbm.rows ∧
    (b.hbmServed k pc r).ctr (Pg.hbm k 3) (HBM_BYTES r.port) = (b.ctr (Pg.hbm k 3) (HBM_BYTES r.port) + 64) % 2 ^ 64 ∧
    (b.hbmServed k pc r).mem = b.mem ∧ (b.hbmServed k pc r).tbls = b.tbls ∧
    (b.hbmServed k pc r).ctr (Pg.hbm k 3) HBM_DL_MISS =
      if b.on (Pg.hbm k 1) R.HBM_QOS_MODE && decide (r.due < b.clk) then (b.ctr (Pg.hbm k 3) HBM_DL_MISS + 1) % 2 ^ 64 else b.ctr (Pg.hbm k 3) HBM_DL_MISS := by
  have hport : 11 ≤ HBM_BYTES r.port ∧ HBM_BYTES r.port < 19 := by unfold HBM_BYTES; omega
  have hcount : ∀ (e : Body) i j n, i < 0x1000 → j < 0x1000 → i ≠ j → (e.hbmCount k i n).ctr (Pg.hbm k 3) j = e.ctr (Pg.hbm k 3) j :=
    fun e i j n h1 h2 h => ctr_count_ne h1 h2 (Ne.symm h)
  have hself : ∀ (e : Body) i n, (e.hbmCount k i n).ctr (Pg.hbm k 3) i = (e.ctr (Pg.hbm k 3) i + n) % 2 ^ 64 := fun e i n => ctr_count_same _ _ _
  have htake : (b.hbmTaken k r).hbm.queue = b.hbm.queue.erase r ∧ (bankOf r, r.row) ∈ (b.hbmTaken k r).hbm.rows ∧
      (b.hbmTaken k r).mem = b.mem ∧ (b.hbmTaken k r).tbls = b.tbls ∧
      (b.hbmTaken k r).ctr (Pg.hbm k 3) (HBM_BYTES r.port) = (b.ctr (Pg.hbm k 3) (HBM_BYTES r.port) + 64) % 2 ^ 64 ∧
      (b.hbmTaken k r).ctr (Pg.hbm k 3) HBM_DL_MISS = b.ctr (Pg.hbm k 3) HBM_DL_MISS :=
    ⟨rfl, List.mem_of_find?_eq_some (Sp.find_ins _ _ _), rfl, rfl, hself _ _ _, hcount _ _ _ _ (by omega) (by decide) (by unfold HBM_DL_MISS; omega)⟩
  obtain ⟨hq, hr, hm, ht, hb, hd⟩ := htake
  unfold hbmServed
  generalize b.hbmTaken k r = e at hq hr hm ht hb hd
  have hlate : ∀ f : Body, Queued f ((f.hbmDrainUpdate k pc).hbmPanicUpdate k) ∧ ((f.hbmDrainUpdate k pc).hbmPanicUpdate k).hbm.queue = f.hbm.queue := fun f =>
    ⟨(queued_drainUpdate _ _).1.trans (queued_panicUpdate _).1, (queued_panicUpdate _).2.trans (queued_drainUpdate _ _).2⟩
  split_ifs
  · obtain ⟨hQ, hqq⟩ := hlate (e.hbmCount k HBM_DL_MISS)
    refine ⟨hqq.trans hq, ?_, ?_, hQ.mem.trans hm, hQ.tbls.trans ht, ?_⟩
    · rw [hQ.rows]; exact hr
    · rw [hQ.ctr _ _ (by omega) (by omega) (by omega), hcount _ _ _ _ (by decide) (by omega) (by unfold HBM_DL_MISS; omega), hb]
    · rw [hQ.ctr _ _ (by decide) (by decide) (by decide), hself, hd]
  · obtain ⟨hQ, hqq⟩ := hlate e
    refine ⟨hqq.trans hq, ?_, ?_, hQ.mem.trans hm, hQ.tbls.trans ht, ?_⟩
    · rw [hQ.rows]; exact hr
    · rw [hQ.ctr _ _ (by omega) (by omega) (by omega), hb]
    · rw [hQ.ctr _ _ (by decide) (by decide) (by decide), hd]

/-- In NORMAL the choice is from the first of panic reads, the drained writes and the reads (R327, R329). -/
theorem hbmNext_normal (hm : b.rd (Pg.hbm k 1) R.HBM_QOS_MODE = 0) :
    b.hbmNext k pc = b.pickNormal k
      (if b.hbm.panic.contains k = true ∧ (b.hbmWaiting k pc true).length < 64 ∧ (b.hbmWaiting k pc false).filter (fun r => r.port == 1) ≠ [] then
          (b.hbmWaiting k pc false).filter fun r => r.port == 1
        else if b.hbm.drain.contains (pcKey k pc) = true ∨ b.hbmWaiting k pc false = [] then b.hbmWaiting k pc true else b.hbmWaiting k pc false) := by
  have hoff : ¬ b.on (Pg.hbm k 1) R.HBM_QOS_MODE = true := by simp [on, hm]
  unfold hbmNext
  dsimp only
  rw [if_neg hoff]
  by_cases h1 : b.hbm.panic.contains k = true ∧ (b.hbmWaiting k pc true).length < 64 ∧ (b.hbmWaiting k pc false).filter (fun r => r.port == 1) ≠ []
  · rw [if_pos h1, if_pos ⟨h1.1, h1.2.1, by simpa using h1.2.2⟩]
  · rw [if_neg h1, if_neg fun h => h1 ⟨h.1, h.2.1, by simpa using h.2.2⟩]
    by_cases h2 : b.hbm.drain.contains (pcKey k pc) = true
    · rw [if_pos h2, if_pos (.inl h2)]
    · rw [if_neg h2]
      by_cases h3 : b.hbmWaiting k pc false = []
      · rw [if_pos (show (b.hbmWaiting k pc false).isEmpty = true by simp [h3]), if_pos (.inr h3)]
      · rw [if_neg (show ¬ (b.hbmWaiting k pc false).isEmpty = true by simpa using h3), if_neg fun h => h.elim h2 h3]

theorem hbmNext_deadline (hm : b.rd (Pg.hbm k 1) R.HBM_QOS_MODE = 1) :
    b.hbmNext k pc = [3, 2, 1, 0].findSome? fun u => (if b.hbm.drain.contains (pcKey k pc) then b.hbmWaiting k pc true
      else b.hbmWaiting k pc false ++ b.hbmWaiting k pc true).find? fun r => b.urgency r == u := by
  have hon : b.on (Pg.hbm k 1) R.HBM_QOS_MODE = true := by simp [on, hm]
  unfold hbmNext
  dsimp only
  rw [if_pos hon]

/-! Refreshes (R331). -/

theorem get_set_nat (m : List (Nat × Nat)) (i v : Nat) : Sp.get 0 (Sp.set 0 m i v) i = v := Sp.get_set_self _ _ _ _

theorem hbmRefresh_postponed (hs : b.stackServes k = true) (hn : Sp.get 0 b.hbm.postponed (pcKey k pc) < 8)
    (hb : ∃ r ∈ b.hbm.queue, r.stack = k ∧ r.pc = pc ∧ r.bank = Sp.get 0 b.hbm.refBank (pcKey k pc)) :
    b.hbmRefresh k pc = ({ b with hbm := { b.hbm with postponed := Sp.set 0 b.hbm.postponed (pcKey k pc) (Sp.get 0 b.hbm.postponed (pcKey k pc) + 1) } }).hbmCount k
      HBM_REF_POSTPONE := by
  obtain ⟨r, hr, h1, h2, h3⟩ := hb
  have hbusy : (b.hbm.queue.any fun r => r.stack == k && r.pc == pc && r.bank == Sp.get 0 b.hbm.refBank (pcKey k pc)) = true :=
    List.any_eq_true.mpr ⟨r, hr, by simp [h1, h2, h3]⟩
  unfold hbmRefresh
  dsimp only
  rw [if_neg (not_not_intro hs), if_pos ⟨hbusy, hn⟩]

theorem hbmRefresh_done (hs : b.stackServes k = true)
    (h : ¬ (∃ r ∈ b.hbm.queue, r.stack = k ∧ r.pc = pc ∧ r.bank = Sp.get 0 b.hbm.refBank (pcKey k pc)) ∨ 8 ≤ Sp.get 0 b.hbm.postponed (pcKey k pc)) :
    b.hbmRefresh k pc = { b with hbm := { b.hbm with
      postponed := Sp.set 0 b.hbm.postponed (pcKey k pc) 0,
      rows := Sp.del b.hbm.rows (bankKey { stack := k, pc := pc, bank := Sp.get 0 b.hbm.refBank (pcKey k pc), row := 0 }),
      refBank := Sp.set 0 b.hbm.refBank (pcKey k pc) ((Sp.get 0 b.hbm.refBank (pcKey k pc) + 1) % 48) } } := by
  unfold hbmRefresh
  dsimp only
  rw [if_neg (not_not_intro hs), if_neg]
  rintro ⟨hbusy, hn⟩
  rcases h with h | h
  · obtain ⟨r, hr, he⟩ := List.any_eq_true.mp hbusy
    simp only [Bool.and_eq_true, beq_iff_eq] at he
    exact h ⟨r, hr, he.1.1, he.1.2, he.2⟩
  · omega

/-! The scrubber (R336). -/

/-- What the check of a line leaves alone: memory, the lines' errors and every counter of a stack but those of its reads. -/
theorem lineError_rest (port a : Nat) : (b.lineError port a).hbm.ce = b.hbm.ce ∧ (b.lineError port a).hbm.ue = b.hbm.ue ∧
    (b.lineError port a).hbm.coded = b.hbm.coded ∧
    ∀ s i, i < 0x1000 → 2 ≤ i → (b.lineError port a).ctr (Pg.hbm s 3) i = b.ctr (Pg.hbm s 3) i := by
  have hfire : ∀ (e : Body) p n, (e.fire p n).hbm = e.hbm ∧ (e.fire p n).ctrs = e.ctrs := fun e p n => ⟨by simp, by simp⟩
  have hfault : ∀ (e : Body) p n x, (e.fault p n x).hbm = e.hbm ∧ (e.fault p n x).ctrs = e.ctrs := fun e p n x => ⟨by simp, by simp⟩
  have hkey : ∀ (e : Body) q i s j, i < 2 → j < 0x1000 → 2 ≤ j → (e.hbmCount q i).ctr (Pg.hbm s 3) j = e.ctr (Pg.hbm s 3) j :=
    fun e q i s j h1 h2 h3 => ctr_count_key (by unfold ctrKey Pg.hbm; omega)
  unfold lineError
  dsimp only
  split_ifs
  · rw [(hfault _ _ _ _).1]
    refine ⟨congrArg HbmSt.ce (hfire _ _ _).1, congrArg HbmSt.ue (hfire _ _ _).1, congrArg HbmSt.coded (hfire _ _ _).1, fun s i hi h2 => ?_⟩
    refine Eq.trans ?_ (hkey b (b.hbmLoc a).stack 1 s i (by decide) hi h2)
    unfold ctr
    rw [(hfault _ _ _ _).2]
    exact congrArg (fun m => Sp.get 0 m (ctrKey (Pg.hbm s 3) i)) (hfire _ _ _).2
  · rw [(hfire _ _ _).1]
    refine ⟨rfl, rfl, rfl, fun s i hi h2 => ?_⟩
    refine Eq.trans ?_ (hkey b (b.hbmLoc a).stack 0 s i (by decide) hi h2)
    unfold ctr
    rw [(hfire _ _ _).2]
    rfl
  · exact ⟨rfl, rfl, rfl, fun _ _ _ _ => rfl⟩

theorem lineBad_of {a : Nat} (h : c.hbm.ue = b.hbm.ue) (h' : c.hbm.coded = b.hbm.coded) : c.lineBad a = b.lineBad a := by
  rw [lineBad, lineBad, h, h']

/-- An uncorrectable line sets the stack's event (R333). -/
theorem lineError_ue {port a : Nat} (h : b.lineBad a = true) : (b.lineError port a).rd (Pg.hbm (b.hbmLoc a).stack 3) (evtPend R.HBM_EVT_UE) = 1 := by
  have hp := hbm_page (k := (b.hbmLoc a).stack) (n := 3) (by decide)
  have hwr : ∀ (e : Body) (f : Fld) v, f.lo < 32 → f.off ≠ 0x20 → e.rd (Pg.hbm (b.hbmLoc a).stack 3) (evtPend R.HBM_EVT_UE) = 1 →
      (e.wr (Pg.hbm (b.hbmLoc a).stack 3) f v).rd (Pg.hbm (b.hbmLoc a).stack 3) (evtPend R.HBM_EVT_UE) = 1 := fun e f v hf ho h1 => by
    rw [e.rd_wr_ne v hf (by decide) (.inl ?_), h1]
    rw [Fld.addr_zero, Fld.addr_zero]
    exact fun he => ho (Nat.add_left_cancel he).symm
  unfold lineError
  dsimp only
  rw [if_pos h, rd_fault_field _ (by decide) (by decide)]
  · exact hwr _ _ _ (by decide) (by decide) (hwr _ _ _ (by decide) (by decide) (hwr _ _ _ (by decide) (by decide) (fire_pend _ (by decide) hp.1)))

/-- Where a line is depends on the map alone (R325). -/
theorem hbmLoc_congr (h : ∀ i < 11, c.rd Pg.sump R.SUMP_MAP i = b.rd Pg.sump R.SUMP_MAP i) (a : Nat) : c.hbmLoc a = b.hbmLoc a := by
  have hh : ∀ q, c.sumpHash q = b.sumpHash q := fun q => by
    unfold sumpHash
    exact List.foldl_ext _ _ _ fun v i hi => by rw [h i (List.mem_range.mp hi)]
  unfold hbmLoc
  simp only [hh]

theorem notedAt_sumpMap {i : Nat} (hi : i < 11) : notedAt (R.SUMP_MAP.addr Pg.sump i 0) = false := by
  unfold Fld.addr Pg.sump R.SUMP_MAP
  simp only [notedAt, Bool.or_eq_false_iff, beq_eq_false_iff_ne]
  omega

theorem pageOf_sumpMap {i : Nat} (hi : i < 11) : pageOf (R.SUMP_MAP.addr Pg.sump i 0) = Pg.sump := by
  have ha : R.SUMP_MAP.addr Pg.sump i 0 = 0xB04080 + 4 * i := by simp [Fld.addr, R.SUMP_MAP, Pg.sump]
  rw [ha]
  unfold pageOf Pg.sump
  omega

/-- The line read by the scrubber. -/
def scrubRead (b : Body) (a : Nat) : Body := (b.hbmPut 6 false a).lineError 6 a

theorem scrubRead_spec (a : Nat) : (b.scrubRead a).mem = b.mem ∧ (b.scrubRead a).hbm.ce = b.hbm.ce ∧ (b.scrubRead a).hbm.ue = b.hbm.ue ∧
    (b.scrubRead a).lineBad a = b.lineBad a ∧ ∀ s i, i < 0x1000 → 2 ≤ i → i ≠ 6 → i ≠ 7 → (b.scrubRead a).ctr (Pg.hbm s 3) i = b.ctr (Pg.hbm s 3) i := by
  have hQ := queued_hbmPut (b := b) 6 false a
  obtain ⟨hce, hue, hco, hctr⟩ := lineError_rest (b := b.hbmPut 6 false a) 6 a
  exact ⟨(lineError_mem _ _ _).trans hQ.mem, hce.trans hQ.ce, hue.trans hQ.ue, lineBad_of (hue.trans hQ.ue) (hco.trans hQ.coded),
    fun s i h1 h2 h6 h7 => (hctr s i h1 h2).trans (hQ.ctr s i h1 h6 h7)⟩

variable {line : Nat}

/-- What the scrubber does where it runs. -/
theorem hbmScrub_eq (hl : line * 64 < Sump.scratchEnd) (he : b.rd (Pg.hbm (b.hbmLoc (line * 64)).stack 3) R.HBM_SCRUB_EN = 1)
    (hs : b.stackServes (b.hbmLoc (line * 64)).stack = true) :
    b.hbmScrub line = if b.lineBad (line * 64) then
        ((b.scrubRead (line * 64)).hbmCount (b.hbmLoc (line * 64)).stack HBM_SCRUB_UE).hbmPut 6 true (line * 64)
      else if b.hbm.ce.contains (line * 64) ∧ ¬ (b.hbm.queue.any fun r => r.wr && r.addr == line * 64) then
        (({ b.scrubRead (line * 64) with hbm := { (b.scrubRead (line * 64)).hbm with ce := b.hbm.ce.erase (line * 64) } } : Body).hbmCount
          (b.hbmLoc (line * 64)).stack HBM_SCRUB_FIX).hbmPut 6 true (line * 64)
      else b.scrubRead (line * 64) := by
  have hon : b.on (Pg.hbm (b.hbmLoc (line * 64)).stack 3) R.HBM_SCRUB_EN = true := by simp [on, he]
  obtain ⟨-, hce, -, hbad, -⟩ := scrubRead_spec (b := b) (line * 64)
  rw [← hbad, ← hce]
  refine if_neg ?_
  rintro (h | h | h)
  · omega
  · exact h hon
  · exact h hs

theorem hbmScrub_bad (hl : line * 64 < Sump.scratchEnd) (he : b.rd (Pg.hbm (b.hbmLoc (line * 64)).stack 3) R.HBM_SCRUB_EN = 1)
    (hs : b.stackServes (b.hbmLoc (line * 64)).stack = true) (hbad : b.lineBad (line * 64) = true) :
    (b.hbmScrub line).mem = b.mem ∧ (b.hbmScrub line).hbm.ue = b.hbm.ue ∧
    (b.hbmScrub line).rd (Pg.hbm (b.hbmLoc (line * 64)).stack 3) (evtPend R.HBM_EVT_UE) = 1 ∧
    (b.hbmScrub line).ctr (Pg.hbm (b.hbmLoc (line * 64)).stack 3) HBM_SCRUB_UE = (b.ctr (Pg.hbm (b.hbmLoc (line * 64)).stack 3) HBM_SCRUB_UE + 1) % 2 ^ 64 := by
  rw [hbmScrub_eq hl he hs, if_pos hbad]
  obtain ⟨hm, -, hue, -, hctr⟩ := scrubRead_spec (b := b) (line * 64)
  have hQ0 := queued_hbmPut (b := b) 6 false (line * 64)
  have hloc : (b.hbmPut 6 false (line * 64)).hbmLoc (line * 64) = b.hbmLoc (line * 64) := by
    refine hbmLoc_congr (fun i hi => ?_) _
    refine (told_hbmPut (b := b) 6 false (line * 64)).regs _ _ _ _ (by decide) ?_ ?_
    · exact notedAt_sumpMap hi
    · rw [pageOf_sumpMap hi]
      decide
  have hev : (b.scrubRead (line * 64)).rd (Pg.hbm (b.hbmLoc (line * 64)).stack 3) (evtPend R.HBM_EVT_UE) = 1 := by
    have := lineError_ue (b := b.hbmPut 6 false (line * 64)) (port := 6) (a := line * 64) (by rw [lineBad_of hQ0.ue hQ0.coded, hbad])
    rw [hloc] at this
    exact this
  generalize b.scrubRead (line * 64) = e at hm hue hctr hev
  have hQ := queued_hbmPut (b := e.hbmCount (b.hbmLoc (line * 64)).stack HBM_SCRUB_UE) 6 true (line * 64)
  refine ⟨hQ.mem.trans hm, hQ.ue.trans hue, hQ.pend _ _ (by decide) (hbm_page (by decide)).1 hev, ?_⟩
  rw [hQ.ctr _ _ (by decide) (by decide) (by decide)]
  exact (ctr_count_same _ _ _).trans (by rw [hctr _ _ (by decide) (by decide) (by decide) (by decide)])

theorem hbmScrub_fixed (hl : line * 64 < Sump.scratchEnd) (he : b.rd (Pg.hbm (b.hbmLoc (line * 64)).stack 3) R.HBM_SCRUB_EN = 1)
    (hs : b.stackServes (b.hbmLoc (line * 64)).stack = true) (hbad : b.lineBad (line * 64) = false) (hce : line * 64 ∈ b.hbm.ce)
    (hq : ∀ r ∈ b.hbm.queue, r.wr = true → r.addr ≠ line * 64) :
    (b.hbmScrub line).mem = b.mem ∧ (b.hbmScrub line).hbm.ce = b.hbm.ce.erase (line * 64) ∧
    (b.hbmScrub line).ctr (Pg.hbm (b.hbmLoc (line * 64)).stack 3) HBM_SCRUB_FIX = (b.ctr (Pg.hbm (b.hbmLoc (line * 64)).stack 3) HBM_SCRUB_FIX + 1) % 2 ^ 64 := by
  have hno : ¬ (b.hbm.queue.any fun r => r.wr && r.addr == line * 64) = true := fun h => by
    obtain ⟨r, hr, h⟩ := List.any_eq_true.mp h
    simp only [Bool.and_eq_true, beq_iff_eq] at h
    exact hq r hr h.1 h.2
  rw [hbmScrub_eq hl he hs, if_neg (by rw [hbad]; decide), if_pos ⟨by simpa using hce, hno⟩]
  obtain ⟨hm, -, -, -, hctr⟩ := scrubRead_spec (b := b) (line * 64)
  generalize b.scrubRead (line * 64) = e at hm hctr
  have hQ := queued_hbmPut (b := ({ e with hbm := { e.hbm with ce := b.hbm.ce.erase (line * 64) } } : Body).hbmCount (b.hbmLoc (line * 64)).stack
    HBM_SCRUB_FIX) 6 true (line * 64)
  refine ⟨hQ.mem.trans hm, hQ.ce, ?_⟩
  rw [hQ.ctr _ _ (by decide) (by decide) (by decide)]
  refine (ctr_count_same _ _ _).trans ?_
  rw [← hctr _ _ (by decide) (by decide) (by decide) (by decide)]
  rfl

theorem hbmScrub_left (hl : line * 64 < Sump.scratchEnd) (he : b.rd (Pg.hbm (b.hbmLoc (line * 64)).stack 3) R.HBM_SCRUB_EN = 1)
    (hs : b.stackServes (b.hbmLoc (line * 64)).stack = true) (hbad : b.lineBad (line * 64) = false)
    (h : line * 64 ∉ b.hbm.ce ∨ ∃ r ∈ b.hbm.queue, r.wr = true ∧ r.addr = line * 64) :
    (b.hbmScrub line).mem = b.mem ∧ (b.hbmScrub line).hbm.ce = b.hbm.ce ∧
    (b.hbmScrub line).ctr (Pg.hbm (b.hbmLoc (line * 64)).stack 3) HBM_SCRUB_FIX = b.ctr (Pg.hbm (b.hbmLoc (line * 64)).stack 3) HBM_SCRUB_FIX := by
  have hno : ¬ (b.hbm.ce.contains (line * 64) = true ∧ ¬ (b.hbm.queue.any fun r => r.wr && r.addr == line * 64) = true) := by
    rintro ⟨hc, hq⟩
    rcases h with h | ⟨r, hr, h1, h2⟩
    · exact h (by simpa using hc)
    · exact hq (List.any_eq_true.mpr ⟨r, hr, by simp [h1, h2]⟩)
  rw [hbmScrub_eq hl he hs, if_neg (by rw [hbad]; decide), if_neg hno]
  obtain ⟨hm, hce, -, -, hctr⟩ := scrubRead_spec (b := b) (line * 64)
  exact ⟨hm, hce, hctr _ _ (by decide) (by decide) (by decide) (by decide)⟩

end Body

end Sys2Proof.Machine

namespace Sys2Proof
open Machine

/-- Settles O35: the request chosen and what its service changes, the refresh, and what the scrubber does with a line. -/
theorem hbmServesRequests : Obligations.HbmServesRequests := by
  unfold Obligations.HbmServesRequests
  intro k pc s hk hpc hr hport
  have hok : (decide (k < 4) && decide (pc < 32)) = true := by simp [hk, hpc]
  have hstop : s.dev.body.stackServes k = false → exec (.hbmRequest k pc) s = .next s ∧ exec (.hbmRefresh k pc) s = .next s := fun h => by
    obtain ⟨h1, h2⟩ := Body.hbmRequest_stopped (pc := pc) h
    refine ⟨(State.body_withBody hok hr h1).trans ?_, (State.body_withBody hok hr h2).trans ?_⟩ <;> rw [State.withBody_self]
  have hserve : ∀ r, s.dev.body.stackServes k = true → s.dev.body.hbmNext k pc = some r → r ∈ s.dev.body.hbm.queue → ∃ t, (
      exec (.hbmRequest k pc) s = .next t ∧ t.dev.body.hbm.queue = s.dev.body.hbm.queue.erase r ∧ (Body.bankOf r, r.row) ∈ t.dev.body.hbm.rows ∧
      t.ctr (Pg.hbm k 3) (HBM_BYTES r.port) = (s.ctr (Pg.hbm k 3) (HBM_BYTES r.port) + 64) % 2 ^ 64 ∧
      t.dev.body.mem = s.dev.body.mem ∧ t.dev.body.tbls = s.dev.body.tbls) ∧
      t.ctr (Pg.hbm k 3) HBM_DL_MISS = if s.dev.body.on (Pg.hbm k 1) R.HBM_QOS_MODE && decide (r.due < s.dev.body.clk)
        then (s.ctr (Pg.hbm k 3) HBM_DL_MISS + 1) % 2 ^ 64 else s.ctr (Pg.hbm k 3) HBM_DL_MISS := fun r hs hn hm => by
    obtain ⟨h1, h2, h3, h4, h5, h6⟩ := Body.hbmServed_spec (b := s.dev.body) (k := k) (pc := pc) (hport r hm)
    refine ⟨_, ⟨State.body_withBody hok hr (Body.hbmRequest_served hs hn), ?_⟩, ?_⟩
    all_goals generalize s.dev.body.hbmServed k pc r = c at h1 h2 h3 h4 h5 h6
    · rw [State.withBody_hbmSt, State.withBody_mem, State.withBody_ctr]
      exact ⟨h1, h2, h3, h4, (by simp : (s.withBody c).dev.body.tbls = c.tbls).trans h5⟩
    · rw [State.withBody_ctr]
      exact h6
  refine ⟨fun hs hm => ?_, fun hs hm => ?_, hstop, fun hs => ⟨fun hb hn => ?_, fun h => ?_⟩, fun line hl hend => ?_⟩
  · intro first l hne
    obtain ⟨r, hrl, hpick, h1, h2, h3⟩ := Body.pickNormal_spec (b := s.dev.body) (k := k) hne
    have hq : r ∈ s.dev.body.hbm.queue := by
      have : r ∈ s.dev.body.hbmWaiting k pc false ∨ r ∈ s.dev.body.hbmWaiting k pc true := by
        change r ∈ (if _ then first else if _ then _ else _) at hrl
        split_ifs at hrl
        · exact .inl (List.mem_of_mem_filter hrl)
        · exact .inr hrl
        · exact .inl hrl
      exact this.elim (fun h => (Body.hbmWaiting_wr h).2.2.2) fun h => (Body.hbmWaiting_wr h).2.2.2
    obtain ⟨t, ht, -⟩ := hserve r hs ((Body.hbmNext_normal hm).trans hpick) hq
    exact ⟨r, hrl, t, ht, h1, h2, h3⟩
  · intro l hne
    obtain ⟨r, hrl, hfind, hu⟩ := Body.urgent_spec (b := s.dev.body) hne (Body.waiting_pairwise _)
    have hq : r ∈ s.dev.body.hbm.queue := by
      have : r ∈ s.dev.body.hbmWaiting k pc false ∨ r ∈ s.dev.body.hbmWaiting k pc true := by
        change r ∈ (if _ then _ else _) at hrl
        split_ifs at hrl
        · exact .inr hrl
        · exact List.mem_append.mp hrl
      exact this.elim (fun h => (Body.hbmWaiting_wr h).2.2.2) fun h => (Body.hbmWaiting_wr h).2.2.2
    obtain ⟨t, ht, hmiss⟩ := hserve r hs ((Body.hbmNext_deadline hm).trans hfind) hq
    have hon : s.dev.body.on (Pg.hbm k 1) R.HBM_QOS_MODE = true := by
      unfold Body.on
      exact beq_iff_eq.mpr hm
    refine ⟨r, hrl, t, ht, hu, ?_⟩
    rw [hon, Bool.true_and] at hmiss
    by_cases hd : r.due < s.dev.body.clk
    · rw [if_pos (decide_eq_true hd)] at hmiss
      exact (if_pos hd).mpr hmiss
    · rw [if_neg (by simpa using hd)] at hmiss
      exact (if_neg hd).mpr hmiss
  · refine ⟨_, State.body_withBody hok hr (Body.hbmRefresh_postponed hs hn hb), ?_⟩
    rw [State.withBody_hbmSt, State.withBody_ctr]
    exact ⟨Body.get_set_nat s.dev.body.hbm.postponed (Body.pcKey k pc) (Sp.get 0 s.dev.body.hbm.postponed (Body.pcKey k pc) + 1), rfl, rfl, Body.ctr_count_same _ _ _⟩
  · refine ⟨_, State.body_withBody hok hr (Body.hbmRefresh_done hs h), ?_⟩
    rw [State.withBody_hbmSt]
    refine ⟨Body.get_set_nat s.dev.body.hbm.postponed (Body.pcKey k pc) 0,
      Body.get_set_nat s.dev.body.hbm.refBank (Body.pcKey k pc) ((Sp.get 0 s.dev.body.hbm.refBank (Body.pcKey k pc) + 1) % 48), rfl, fun e he hke => ?_, State.withBody_keeps ⟨fun _ _ _ _ _ _ _ => rfl, rfl, rfl, rfl⟩⟩
    have := (List.mem_filter.mp he).2
    simp [hke] at this
  · intro a h' hen hs
    have hokl : decide (line < 2147483648) = true := decide_eq_true hl
    refine ⟨fun hbad => ?_, fun hbad hce hq => ?_, fun hbad h => ?_⟩
    · obtain ⟨h1, h2, h3, h4⟩ := Body.hbmScrub_bad hend hen hs hbad
      refine ⟨_, State.body_withBody hokl hr rfl, ?_⟩
      generalize s.dev.body.hbmScrub line = c at h1 h2 h3 h4
      rw [State.withBody_mem, State.withBody_hbmSt, State.withBody_ctr]
      exact ⟨h1, h2, State.withBody_page_evt (Body.hbm_page (n := 3) (by decide)).2 (by decide) h3, h4⟩
    · obtain ⟨h1, h2, h3⟩ := Body.hbmScrub_fixed hend hen hs hbad hce hq
      refine ⟨_, State.body_withBody hokl hr rfl, ?_⟩
      rw [State.withBody_mem, State.withBody_hbmSt, State.withBody_ctr]
      exact ⟨h1, h2, h3⟩
    · obtain ⟨h1, h2, h3⟩ := Body.hbmScrub_left hend hen hs hbad h
      refine ⟨_, State.body_withBody hokl hr rfl, ?_⟩
      rw [State.withBody_mem, State.withBody_hbmSt, State.withBody_ctr]
      exact ⟨h1, h2, h3⟩

end Sys2Proof
end

section
/-! The queues of the Chamber (R208, R216, R221): what pools, losses, cells and the settling of a queue leave of them. -/

namespace Sys2Proof.Machine

namespace Body

section
variable {b c d : Body} {q : Nat}

/-- What pools, cells and accesses to the tiers leave alone: the queues, the packets, the tables and the scheduler. -/
def lines (b : Body) : List (Nat × Queue) × PipeSt × List (Nat × Nat) × SchSt := (b.buf.queues, b.pipe, b.tbls, b.sch)

theorem lines_eq (h : c.lines = b.lines) : c.buf.queues = b.buf.queues ∧ c.pipe = b.pipe ∧ c.tbls = b.tbls ∧ c.sch = b.sch := by
  simpa [lines] using h

theorem lines_of_hold (h : c.hold = b.hold) : c.lines = b.lines := by
  obtain ⟨h1, h2, h3, -, -, h6⟩ := hold_eq h
  simp [lines, h1, h2, h3, h6]

theorem lines_of_still (h : c.still = b.still) : c.lines = b.lines := lines_of_hold (hold_of_still h)

theorem OnlyCells.lines (h : OnlyCells b c) : c.lines = b.lines := by
  obtain ⟨l, n, rfl⟩ := h
  rfl

theorem queueOf_of (h : c.buf.queues = b.buf.queues) (k : Nat) : c.queueOf k = b.queueOf k := by rw [queueOf, queueOf, h]

theorem lines_queueOf (h : c.lines = b.lines) (k : Nat) : c.queueOf k = b.queueOf k := queueOf_of (lines_eq h).1 k

theorem pkt_of (h : c.pipe = b.pipe) (i : Nat) : c.pkt i = b.pkt i := by rw [pkt, pkt, h]

theorem lines_pkt (h : c.lines = b.lines) (i : Nat) : c.pkt i = b.pkt i := pkt_of (lines_eq h).2.1 i

theorem lines_poolTake (n : Nat) : (b.poolTake n).2.lines = b.lines := by
  obtain ⟨h1, -, -, h4, h5, h6, -⟩ := poolTake_rest b n
  simp [lines, h1, h4, h5, h6]

theorem offside_poolTake (n : Nat) : (b.poolTake n).2.offside = b.offside := by
  unfold poolTake
  dsimp only
  generalize hd : minNote _ _ _ _ = d
  have h0 : d.offside = b.offside := by rw [← hd]; rfl
  have hfire : ∀ (c : Body) (p : Prop) [Decidable p] (e : Nat), c.offside = b.offside → (if p then c.fire (Pg.pool n) e else c).offside = b.offside := by
    intro c p _ e h
    split_ifs
    · rw [offside_fire, h]
    · exact h
  have h1 := hfire d (b.prd' n R.POOL_FREE_CNT - 1 = d.prd' n R.POOL_WARN) R.POOL_EVT_WARN h0
  generalize (if b.prd' n R.POOL_FREE_CNT - 1 = d.prd' n R.POOL_WARN then d.fire (Pg.pool n) R.POOL_EVT_WARN else d) = d1 at h1 ⊢
  have h2 := hfire d1 (b.prd' n R.POOL_FREE_CNT - 1 = d1.prd' n R.POOL_CRIT) R.POOL_EVT_CRIT h1
  generalize (if b.prd' n R.POOL_FREE_CNT - 1 = d1.prd' n R.POOL_CRIT then d1.fire (Pg.pool n) R.POOL_EVT_CRIT else d1) = d2 at h2 ⊢
  have h3 := hfire d2 (b.prd' n R.POOL_FREE_CNT - 1 = 0) R.POOL_EVT_EMPTY h2
  generalize (if b.prd' n R.POOL_FREE_CNT - 1 = 0 then d2.fire (Pg.pool n) R.POOL_EVT_EMPTY else d2) = d3 at h3 ⊢
  split_ifs <;> exact h3

theorem lines_poolFree (n i m : Nat) : (b.poolFree n i m).lines = b.lines := by
  have hs : ∀ {c d : Body}, d.still = c.still → d.lines = c.lines := lines_of_still
  unfold poolFree
  dsimp only
  split_ifs
  · rfl
  · exact (hs (still_fault _ _ _ _)).trans ((hs (still_lose _ _ _)).trans rfl)
  · exact (hs (still_ledOut _ _ _)).trans rfl
  · exact (hs (still_fault _ _ _ _)).trans rfl

theorem lines_spanFree (far : Bool) (n i : Nat) : (b.spanFree far n i).lines = b.lines :=
  (lines_of_still (still_ledOut _ _ _)).trans (lines_poolFree _ _ _)

/-- A request of a tier that a pool serves with a buffer (R224). -/
theorem poolReq_tier {o mem size n : Nat} (hn : b.poolFor o mem size = some n) (hf : b.rd (Pg.pool n) R.POOL_FREE_CNT ≠ 0) :
    ∃ i c, b.poolReq o mem size = (c, .ok n i) ∧ i ∈ c.allocOf n ∧ c.lines = b.lines ∧ c.offside = b.offside := by
  obtain ⟨halloc, -⟩ := b.poolTake_alloc n
  refine ⟨(b.poolTake n).1, (if o = 2 then (b.poolTake n).2.ledIn ledSump 1 else if o = 3 then (b.poolTake n).2.ledIn ledFar 1 else (b.poolTake n).2), ?_, ?_⟩
  · unfold poolReq
    rw [hn]
    exact if_neg hf
  · have hl := lines_poolTake (b := b) n
    have ho := offside_poolTake (b := b) n
    generalize (b.poolTake n).1 = i at halloc
    generalize (b.poolTake n).2 = d at halloc hl ho
    split_ifs
    · exact ⟨halloc, hl, ho⟩
    · exact ⟨halloc, hl, ho⟩
    · exact ⟨halloc, hl, ho⟩

/-- A request that no pool serves, or whose pool is empty (R224). -/
theorem poolReq_none {o mem size : Nat} (h : b.poolFor o mem size = none ∨ ∃ n, b.poolFor o mem size = some n ∧ b.rd (Pg.pool n) R.POOL_FREE_CNT = 0) :
    ∃ c r, b.poolReq o mem size = (c, r) ∧ (∀ n i, r ≠ .ok n i) ∧ c.buf = b.buf ∧ c.ctrs = b.ctrs := by
  rcases h with h | ⟨n, h, hf⟩
  · exact ⟨b, .noPool, by rw [poolReq, h], fun _ _ => PoolRes.noConfusion, rfl, rfl⟩
  · refine ⟨b.sat (Pg.pool n) R.POOL_FAIL, .empty n, ?_, fun _ _ => PoolRes.noConfusion, rfl, rfl⟩
    unfold poolReq
    rw [h]
    exact if_pos hf

/-! Losses and the settling of a queue. -/

theorem queues_reap (pid q : Nat) : (b.reap pid q).buf.queues = b.buf.queues := by
  obtain ⟨l, hl⟩ := b.reap_only pid q
  rw [hl]

theorem queues_bookHole (pid : Nat) : (b.bookHole pid).buf.queues = b.buf.queues := by
  unfold bookHole
  split
  · rfl
  · split_ifs
    · rfl
    · exact congrArg BufSt.queues (still_eq (still_lose _ _ _)).1

theorem queues_losePkt (q pid : Nat) : (b.losePkt q pid).buf.queues = b.buf.queues := by
  unfold losePkt
  split
  · rfl
  · split_ifs
    · rfl
    · exact queues_bookHole pid

theorem queues_unreadable (q : Nat) (far : Bool) (a : Nat) (l : List QCell) (port : Nat) (inj : Bool) :
    (b.unreadable q far a l port inj).buf.queues = b.buf.queues := by
  have hfold : (((l.map (·.pid)).eraseDups).foldl (fun b i => b.losePkt q i) b).buf.queues = b.buf.queues :=
    foldl_same (fun b : Body => b.buf.queues) _ (fun c i => queues_losePkt (b := c) q i) _ _
  have hf : ∀ (d : Body) p n x, (d.fault p n x).buf.queues = d.buf.queues := fun d p n x => congrArg BufSt.queues (still_eq (still_fault d p n x)).1
  unfold unreadable
  dsimp only
  split_ifs
  · exact (hf _ _ _ _).trans hfold
  · exact (hf _ _ _ _).trans hfold

/-- The packets of some cells that were lost are forgotten. -/
def reapHoles (b : Body) (q : Nat) (l : List Nat) : Body :=
  l.foldl (fun b i => match b.pkt i with | some p => if p.hole then b.reap i q else b | none => b) b

theorem queues_reapHoles (q : Nat) (l : List Nat) : (b.reapHoles q l).buf.queues = b.buf.queues := by
  refine foldl_same (fun b : Body => b.buf.queues) _ (fun c i => ?_) _ _
  split
  · split_ifs
    · exact queues_reap i q
    · rfl
  · rfl

/-- Where none of them was lost, nothing is forgotten. -/
theorem reapHoles_none {l : List Nat} (h : ∀ i ∈ l, ∃ p, b.pkt i = some p ∧ p.hole = false) : b.reapHoles q l = b := by
  unfold reapHoles
  induction l with
  | nil => rfl
  | cons i t ih =>
    obtain ⟨p, hp, hh⟩ := h i List.mem_cons_self
    rw [List.foldl_cons, hp]
    dsimp only
    rw [hh, if_neg (by decide)]
    exact ih fun j hj => h j (List.mem_cons_of_mem _ hj)

theorem spans_setQueue (x : Queue) : ((b.setQueue q x).queueOf q).spans = x.spans := by
  obtain ⟨n, hn, -⟩ := queueOf_setQueue b q x
  rw [hn]

theorem spans_trimHoles : ((b.trimHoles q).queueOf q).spans = (b.queueOf q).spans := by
  unfold trimHoles
  dsimp only
  split_ifs
  · rfl
  · rw [queueOf_of (foldl_same (fun b : Body => b.buf.queues) _ (fun c i => queues_reap (b := c) i q) _ _)]
    exact spans_setQueue _

theorem spans_tryJoin : ((b.tryJoin q).queueOf q).spans = (b.queueOf q).spans := by
  unfold tryJoin
  dsimp only
  split_ifs
  · exact spans_setQueue _
  · rfl

/-- The settling of a queue leaves its spill section. -/
theorem spans_settle (late : Bool) (ks : List (Nat × Nat)) : ((b.settle q late ks).queueOf q).spans = (b.queueOf q).spans := by
  unfold settle joinQueue
  rw [lines_queueOf (lines_of_still (still_chmChanged _ _)), lines_queueOf (lines_of_still (still_noteLate _ _ _)), spans_tryJoin, spans_trimHoles,
    spans_tryJoin, spans_trimHoles]

/-- A queue whose head holds no lost packet has nothing to discard. -/
theorem trimHoles_none (h : ∀ x ∈ (b.queueOf q).head, ∃ p, b.pkt x.pid = some p ∧ p.hole = false) : b.trimHoles q = b := by
  unfold trimHoles
  dsimp only
  refine if_pos ?_
  cases hl : (b.queueOf q).head with
  | nil => rfl
  | cons x t =>
    obtain ⟨p, hp, hh⟩ := h x (hl ▸ List.mem_cons_self)
    simp [hp, hh]

/-- A queue with a spill section does not join. -/
theorem tryJoin_none (h : (b.queueOf q).spans ≠ []) : b.tryJoin q = b := by
  unfold tryJoin
  refine if_neg fun hj => h ?_
  simpa using hj.2.1

/-- A queue with a spill section and no lost packet in front settles as it is. -/
theorem queueOf_settle (late : Bool) (ks : List (Nat × Nat)) (hs : (b.queueOf q).spans ≠ [])
    (h : ∀ x ∈ (b.queueOf q).head, ∃ p, b.pkt x.pid = some p ∧ p.hole = false) : (b.settle q late ks).queueOf q = b.queueOf q := by
  have hj : b.joinQueue q = b := by rw [joinQueue, trimHoles_none h, tryJoin_none hs, trimHoles_none h, tryJoin_none hs]
  unfold settle
  rw [hj, lines_queueOf (lines_of_still (still_chmChanged _ _)), lines_queueOf (lines_of_still (still_noteLate _ _ _))]

/-- Cells read back stand behind the head. -/
theorem queueOf_refillCells (l : List QCell) : ∃ n, (b.refillCells q l).queueOf q = { b.queueOf q with
      head := (b.queueOf q).head ++ l.map fun c => { c with cell := 2 ^ 40 + 64 * c.pid + c.pos }, bucketAt := n } ∧ (b.refillCells q l).pipe = b.pipe := by
  have h1 := OnlyCells.lines (takeCells_only b ((l.map fun c : QCell => { c with cell := 2 ^ 40 + 64 * c.pid + c.pos }).map (·.cell)))
  have h2 := OnlyCells.lines (chargeCells_only (b.takeCells ((l.map fun c : QCell => { c with cell := 2 ^ 40 + 64 * c.pid + c.pos }).map (·.cell)))
    ((l.map fun c : QCell => { c with cell := 2 ^ 40 + 64 * c.pid + c.pos }).map (·.cell)) .refill)
  unfold refillCells
  dsimp only
  generalize takeCells b _ = e at h1 h2 ⊢
  generalize chargeCells e _ _ = f at h2 ⊢
  have h := h2.trans h1
  obtain ⟨n, hn, -⟩ := queueOf_setQueue f q { f.queueOf q with head := (f.queueOf q).head ++ l.map fun c => { c with cell := 2 ^ 40 + 64 * c.pid + c.pos } }
  refine ⟨n, ?_, (f.setQueue_rest q _).2.2.2.2.2.1.trans (lines_eq h).2.1⟩
  rw [hn, lines_queueOf h]

theorem spans_refillCells (l : List QCell) : ((b.refillCells q l).queueOf q).spans = (b.queueOf q).spans := by
  obtain ⟨n, hn, -⟩ := queueOf_refillCells (b := b) (q := q) l
  rw [hn]

/-- A piece whose cells come back: they stand behind the head, in order (R216). -/
theorem refill_settled {l : List QCell} (late : Bool) (ks : List (Nat × Nat)) (hs : (b.queueOf q).spans ≠ [])
    (h : ∀ x ∈ (b.queueOf q).head ++ l, ∃ p, b.pkt x.pid = some p ∧ p.hole = false) :
    let t := (((b.refillCells q l).reapHoles q (l.map (·.pid)).eraseDups).settle q late ks).queueOf q
    t.spans = (b.queueOf q).spans ∧ t.tail = (b.queueOf q).tail ∧
      t.head.map (fun x => (x.pid, x.pos)) = ((b.queueOf q).head ++ l).map fun x => (x.pid, x.pos) := by
  intro t
  obtain ⟨n, hn, hpipe⟩ := queueOf_refillCells (b := b) (q := q) l
  have hpkt := pkt_of hpipe
  have hkept : (b.refillCells q l).reapHoles q (l.map (·.pid)).eraseDups = b.refillCells q l := reapHoles_none fun i hi => by
    obtain ⟨x, hx, rfl⟩ := List.mem_map.mp (List.mem_eraseDups.mp hi)
    rw [hpkt]
    exact h x (List.mem_append_right _ hx)
  have hgood : ∀ x ∈ ((b.refillCells q l).queueOf q).head, ∃ p, (b.refillCells q l).pkt x.pid = some p ∧ p.hole = false := fun x hx => by
    rw [hn] at hx
    rw [hpkt]
    rcases List.mem_append.mp hx with hx | hx
    · exact h x (List.mem_append_left _ hx)
    · obtain ⟨y, hy, rfl⟩ := List.mem_map.mp hx
      exact h y (List.mem_append_right _ hy)
  have ht : t = (b.refillCells q l).queueOf q := by
    change (Body.settle _ _ _ _).queueOf q = _
    rw [hkept]
    exact queueOf_settle late ks (by rw [hn]; exact hs) hgood
  rw [ht, hn]
  refine ⟨rfl, rfl, ?_⟩
  simp only [List.map_append, List.map_map]
  rfl

end

end Body

end Sys2Proof.Machine
end

section
/-! O20: spill to the Sump, refill from it and the orphan sweep (R214, R216, R221, R222). -/

namespace Sys2Proof.Machine

namespace Body

section
variable {b c : Body} {q : Nat}

/-! Spill (R214). -/

/-- The spill writer's span, with the buffer that it was given. -/
def spillInto (b : Body) (x : Queue) (q n i : Nat) : Body :=
  let l := x.tail.take 16
  let a := b.bufAddr n i
  let s : Span := { pool := n, buf := i, cells := l, seq := x.spanSeq % 2 ^ 32 }
  let b := (b.sumpWrite 0 a (b.cellsBytes l)).sumpWrite 0 (Sump.sideAddr a) (sideRecord b q s.seq 0 false l)
  let keys := b.pfcKeys l
  let b := b.setQueue q { x with tail := x.tail.drop 16, spans := x.spans ++ [s], spanSeq := x.spanSeq + 1 }
  let b := (b.freeCells (l.map (·.cell))).count Pg.chm SUMP_SPANS_WR
  let b := b.profCount q ADM_SPANS
  let b := { b with buf := { b.buf with wrote := insertNat (b.qProf q) b.buf.wrote } }
  b.chmChanged keys

/-- A queue whose tail holds 16 good cells, with the Sump there to take them (R214). -/
structure Spills (b : Body) (q : Nat) : Prop where
  spill : (b.queueOf q).spill = true
  cells : 16 ≤ (b.queueOf q).tail.length
  serves : b.sumpServes = true
  links : ∀ c ∈ (b.queueOf q).tail.take 16, ∀ p, b.pkt c.pid = some p → p.linkBad = false

theorem Spills.eq (h : b.Spills q) : b.spillSpan q = match b.poolReq 2 1 4096 with
    | (d, .ok n i) => d.spillInto (b.queueOf q) q n i
    | (d, _) => d.count Pg.chm SPILL_NOSPAN := by
  have hgo : ¬ (¬ (b.queueOf q).spill = true ∨ (b.queueOf q).tail.length < 16 ∨ ¬ b.sumpServes = true) := by
    rw [h.spill, h.serves]
    simpa using h.cells
  unfold spillSpan
  dsimp only
  rw [if_neg hgo]
  split
  · next x hx =>
    have hm := List.mem_of_find?_eq_some hx
    have hbad := List.find?_some hx
    cases hp : b.pkt x.pid with
    | none => simp [hp] at hbad
    | some p => simp [hp, h.links x hm p hp] at hbad
  · rfl

theorem Spills.ok (h : b.Spills q) {n i : Nat} (hr : b.poolReq 2 1 4096 = (c, .ok n i)) : b.spillSpan q = c.spillInto (b.queueOf q) q n i := by
  rw [h.eq, hr]

theorem Spills.noSpan (h : b.Spills q) {r : PoolRes} (hr : b.poolReq 2 1 4096 = (c, r)) (hne : ∀ n i, r ≠ .ok n i) :
    b.spillSpan q = c.count Pg.chm SPILL_NOSPAN := by
  rw [h.eq, hr]
  cases r with
  | ok n i => exact absurd rfl (hne n i)
  | empty n => rfl
  | noPool => rfl

theorem spillInto_spec (x : Queue) (n i : Nat) : ∃ sp : Span, ((b.spillInto x q n i).queueOf q).spans = x.spans ++ [sp] ∧ sp.far = false ∧
    sp.cells = x.tail.take 16 ∧ sp.pool = n ∧ sp.buf = i ∧ ((b.spillInto x q n i).queueOf q).tail = x.tail.drop 16 ∧
    ((b.spillInto x q n i).queueOf q).head = x.head ∧ (∀ k, k ≠ q → (b.spillInto x q n i).queueOf k = b.queueOf k) ∧
    (b.spillInto x q n i).buf.alloc = b.buf.alloc := by
  refine ⟨{ pool := n, buf := i, cells := x.tail.take 16, seq := x.spanSeq % 2 ^ 32 }, ?_⟩
  unfold spillInto
  dsimp only
  generalize hw : sumpWrite (sumpWrite b _ _ _) _ _ _ = d
  have hh : d.hold = b.hold := by rw [← hw, hold_sumpWrite, hold_sumpWrite]
  have hd := (hold_eq hh).1
  obtain ⟨m, hm, hother⟩ := queueOf_setQueue d q { x with
    tail := x.tail.drop 16
    spans := x.spans ++ [{ pool := n, buf := i, cells := x.tail.take 16, seq := x.spanSeq % 2 ^ 32 }]
    spanSeq := x.spanSeq + 1 }
  have halloc := (d.setQueue_rest q { x with
    tail := x.tail.drop 16
    spans := x.spans ++ [{ pool := n, buf := i, cells := x.tail.take 16, seq := x.spanSeq % 2 ^ 32 }]
    spanSeq := x.spanSeq + 1 }).2.1
  generalize setQueue d q _ = e at hm hother halloc ⊢
  obtain ⟨cl, fl, hf⟩ := freeCells_only e ((x.tail.take 16).map (·.cell))
  have hlast : ∀ (f : Body) w ks, f.buf.queues = e.buf.queues → f.buf.alloc = e.buf.alloc →
      (({ f with buf := { f.buf with wrote := w } } : Body).chmChanged ks).buf.queues = e.buf.queues ∧
      (({ f with buf := { f.buf with wrote := w } } : Body).chmChanged ks).buf.alloc = e.buf.alloc := fun f w ks h1 h2 => by
    rw [(still_eq (still_chmChanged _ ks)).1]
    exact ⟨h1, h2⟩
  rw [hf]
  obtain ⟨h1, h2⟩ := hlast ((({ e with buf := { e.buf with cells := cl, freeList := fl } } : Body).count Pg.chm SUMP_SPANS_WR).profCount q ADM_SPANS)
    (insertNat (((({ e with buf := { e.buf with cells := cl, freeList := fl } } : Body).count Pg.chm SUMP_SPANS_WR).profCount q ADM_SPANS).qProf q)
      ((({ e with buf := { e.buf with cells := cl, freeList := fl } } : Body).count Pg.chm SUMP_SPANS_WR).profCount q ADM_SPANS).buf.wrote)
    (d.pfcKeys (x.tail.take 16)) rfl rfl
  rw [queueOf_of h1 q, hm]
  refine ⟨rfl, rfl, rfl, rfl, rfl, rfl, rfl, fun k hk => ?_, ?_⟩
  · rw [queueOf_of h1 k, hother k hk, queueOf, queueOf, hd]
  · rw [h2, halloc, hd]

/-! Refill (R216). -/

/-- The cells in flight of some spans. -/
def flightOf (l : List Span) : Nat := (l.map fun s => 16 * s.flight).foldl (· + ·) 0

theorem foldl_add (l : List Nat) (a : Nat) : l.foldl (· + ·) a = a + l.foldl (· + ·) 0 := by
  induction l generalizing a with
  | nil => rfl
  | cons x t ih =>
    rw [List.foldl_cons, List.foldl_cons, ih (a + x), ih (0 + x)]
    omega

theorem flightOf_cons (s : Span) (l : List Span) : flightOf (s :: l) = 16 * s.flight + flightOf l := by
  unfold flightOf
  rw [List.map_cons, List.foldl_cons, foldl_add]
  omega

/-- The reads issued are for no more cells than are needed, in whole groups, or than there is room for (R216). -/
theorem issueReads_flight (now need room : Nat) (l : List Span) : flightOf l ≤ flightOf (issueReads now need room l) ∧
    flightOf (issueReads now need room l) ≤ flightOf l + room ∧ flightOf (issueReads now need room l) ≤ flightOf l + 16 * ceilDiv need 16 := by
  induction l generalizing need room with
  | nil => simp [issueReads]
  | cons s t ih =>
    have hk : min (Span.unread s) (min (ceilDiv need 16) (room / 16)) ≤ ceilDiv need 16 := by omega
    have hr : 16 * min (Span.unread s) (min (ceilDiv need 16) (room / 16)) ≤ room := by omega
    unfold issueReads
    dsimp only
    generalize min (Span.unread s) (min (ceilDiv need 16) (room / 16)) = k at hk hr
    rw [flightOf_cons, flightOf_cons]
    dsimp only
    split_ifs
    · omega
    · obtain ⟨h1, h2, h3⟩ := ih (need - 16 * k) (room - 16 * k)
      have hc : ceilDiv (need - 16 * k) 16 + k ≤ ceilDiv need 16 := by
        unfold ceilDiv at *
        omega
      omega

theorem issueReads_cells (now need room : Nat) (l : List Span) : (issueReads now need room l).map (·.cells) = l.map (·.cells) := by
  induction l generalizing need room with
  | nil => rfl
  | cons s t ih =>
    unfold issueReads
    dsimp only
    split_ifs
    · rfl
    · rw [List.map_cons, List.map_cons, ih]
    · rfl
    · rw [List.map_cons, List.map_cons, ih]

/-- The queue of reads issued. -/
def refillIssued (b : Body) (q : Nat) : List Span :=
  issueReads b.clk (prHi (b.prof q) - ((b.queueOf q).head.length + inFlight (b.queueOf q))) (b.clsFree .refill - (b.refillFlight : Int)).toNat
    (b.queueOf q).spans

theorem refillRead_spec (hs : (b.queueOf q).spill = true)
    (h : (b.queueOf q).head.length + inFlight (b.queueOf q) < prLo (b.prof q) ∨
      ((b.queueOf q).refilling = true ∧ (b.queueOf q).head.length + inFlight (b.queueOf q) < prHi (b.prof q))) :
    ((b.refillRead q).queueOf q).spans = b.refillIssued q ∧ ((b.refillRead q).queueOf q).head = (b.queueOf q).head ∧
    ((b.refillRead q).queueOf q).tail = (b.queueOf q).tail ∧
    ((b.refillRead q).queueOf q).refilling = decide ((b.queueOf q).head.length + flightOf (b.refillIssued q) < prHi (b.prof q)) := by
  have hgo : ¬ (¬ (b.queueOf q).spill = true ∨ ¬ ((b.queueOf q).head.length + inFlight (b.queueOf q) < prLo (b.prof q) ∨
      ((b.queueOf q).refilling = true ∧ (b.queueOf q).head.length + inFlight (b.queueOf q) < prHi (b.prof q)))) := by
    rintro (hn | hn)
    · exact hn hs
    · exact hn h
  have key : ∃ d : Body, (b.refillRead q = d ∨ ∃ far n i, b.refillRead q = d.spanFree far n i) ∧
      ∃ mg, d = b.setQueue q { b.queueOf q with
        spans := b.refillIssued q
        migr := mg
        refilling := decide ((b.queueOf q).head.length + flightOf (b.refillIssued q) < prHi (b.prof q)) } := by
    unfold refillRead
    dsimp only
    rw [if_neg hgo]
    split
    · exact ⟨_, .inr ⟨_, _, _, rfl⟩, _, rfl⟩
    · exact ⟨_, .inl rfl, _, rfl⟩
  obtain ⟨d, hd, mg, rfl⟩ := key
  obtain ⟨m, hm, -⟩ := queueOf_setQueue b q { b.queueOf q with
    spans := b.refillIssued q
    migr := mg
    refilling := decide ((b.queueOf q).head.length + flightOf (b.refillIssued q) < prHi (b.prof q)) }
  have hq : (b.refillRead q).queueOf q = (b.setQueue q { b.queueOf q with
      spans := b.refillIssued q
      migr := mg
      refilling := decide ((b.queueOf q).head.length + flightOf (b.refillIssued q) < prHi (b.prof q)) }).queueOf q := by
    rcases hd with hd | ⟨far, n, i, hd⟩
    · rw [hd]
    · rw [hd, lines_queueOf (lines_spanFree _ _ _)]
  rw [hq, hm]
  exact ⟨rfl, rfl, rfl, rfl⟩

/-! The span read back (R216, R221). -/

theorem chm_flt_apart {n : Nat} : ¬ chmAddr ((fltStat n).addr Pg.chm 0 0) (fltStat n).lo := by
  rw [show (fltStat n).addr Pg.chm 0 0 = Pg.chm + 0x40 from rfl]
  unfold chmAddr Pg.chm Pg.rim
  omega

/-- The span in front read, taken from its queue, and freed. -/
def refillTaken (b : Body) (q : Nat) (x : Queue) (s : Span) (rest : List Span) : Body :=
  ((((b.sumpRead 1 (b.bufAddr s.pool s.buf) 4096).1.sumpRead 1 (Sump.sideAddr (b.bufAddr s.pool s.buf)) 128).1.setQueue q
    { x with spans := rest, sumpUeArm := false }).spanFree false s.pool s.buf).count Pg.chm SUMP_SPANS_RD

/-- Whether the span in front reads uncorrectable. -/
def refillBad (b : Body) (x : Queue) (s : Span) : Bool :=
  (b.sumpRead 1 (b.bufAddr s.pool s.buf) 4096).2.2 ||
    ((b.sumpRead 1 (b.bufAddr s.pool s.buf) 4096).1.sumpRead 1 (Sump.sideAddr (b.bufAddr s.pool s.buf)) 128).2.2 || x.sumpUeArm

/-- The side record of the span in front. -/
def refillSide (b : Body) (s : Span) : List Byte :=
  ((b.sumpRead 1 (b.bufAddr s.pool s.buf) 4096).1.sumpRead 1 (Sump.sideAddr (b.bufAddr s.pool s.buf)) 128).2.1

theorem refillSump_eq (x : Queue) (s : Span) (rest : List Span) : b.refillSump q x s rest =
    ((if b.refillBad x s then (b.refillTaken q x s rest).unreadable q false (b.bufAddr s.pool s.buf) s.cells
      else if ¬ sideOk (b.refillSide s) q s.seq 0 then
        ((b.refillTaken q x s rest).sideMism (Sump.sideAddr (b.bufAddr s.pool s.buf))).unreadable q false (b.bufAddr s.pool s.buf) s.cells
      else (b.refillTaken q x s rest).refillCells q s.cells).reapHoles q (s.cells.map (·.pid)).eraseDups).settle q (b.isLate q) (b.pfcKeys s.cells) := rfl

theorem refillTaken_spec (x : Queue) (s : Span) (rest : List Span) : ∃ m, (b.refillTaken q x s rest).queueOf q =
    { x with spans := rest, sumpUeArm := false, bucketAt := m } ∧ (b.refillTaken q x s rest).pipe = b.pipe := by
  have hh : ((b.sumpRead 1 (b.bufAddr s.pool s.buf) 4096).1.sumpRead 1 (Sump.sideAddr (b.bufAddr s.pool s.buf)) 128).1.hold = b.hold := by
    rw [hold_sumpRead, hold_sumpRead]
  unfold refillTaken
  generalize (Body.sumpRead _ 1 (Sump.sideAddr _) 128).1 = d at hh
  obtain ⟨m, hm, -⟩ := queueOf_setQueue d q { x with spans := rest, sumpUeArm := false }
  have hl : (((d.setQueue q { x with spans := rest, sumpUeArm := false }).spanFree false s.pool s.buf).count Pg.chm SUMP_SPANS_RD).lines =
      (d.setQueue q { x with spans := rest, sumpUeArm := false }).lines :=
    lines_spanFree false s.pool s.buf
  refine ⟨m, (lines_queueOf hl q).trans hm, (lines_eq hl).2.1.trans ?_⟩
  exact (d.setQueue_rest q _).2.2.2.2.2.1.trans (hold_eq hh).2.1

/-- Where no line of the span or of its record is bad, the read is good, and gives the record's bytes. -/
theorem refill_good {x : Queue} {s : Span} (ha : x.sumpUeArm = false)
    (hl : ∀ l ∈ linesOf (b.bufAddr s.pool s.buf) 4096 ++ linesOf (Sump.sideAddr (b.bufAddr s.pool s.buf)) 128, b.lineBad l = false)
    (hs : Sump.sideAddr (b.bufAddr s.pool s.buf) < Sump.scratchEnd) :
    b.refillBad x s = false ∧ b.refillSide s = Mem.read b.mem.sump (Sump.sideAddr (b.bufAddr s.pool s.buf)) 128 := by
  have hb := b.bytes_sumpRead 1 (b.bufAddr s.pool s.buf) 4096
  unfold refillBad refillSide
  have h1 : (b.sumpRead 1 (b.bufAddr s.pool s.buf) 4096).2.2 = false := by
    refine List.any_eq_false.mpr fun l h => ?_
    rw [hl l (List.mem_append_left _ h)]
    decide
  generalize hd : b.sumpRead 1 (b.bufAddr s.pool s.buf) 4096 = r at hb h1 ⊢
  simp only [bytes, Prod.mk.injEq] at hb
  have h2 : (r.1.sumpRead 1 (Sump.sideAddr (b.bufAddr s.pool s.buf)) 128).2.2 = false := by
    refine List.any_eq_false.mpr fun l h => ?_
    rw [lineBad_of hb.2.1 hb.2.2.2, hl l (List.mem_append_right _ h)]
    decide
  refine ⟨by rw [h1, h2, ha]; rfl, ?_⟩
  exact (if_neg (Nat.not_le.mpr hs)).trans (congrArg (fun m => Mem.read m.sump _ 128) ((sumpRead_mem (b := r.1) _ _ _).trans hb.1))

theorem refillComplete_eq {sp : Span} {rest : List Span} (hx : (b.queueOf q).spans = sp :: rest) (hf : sp.flight ≠ 0) (hs : b.sumpServes = true)
    (hfar : sp.far = false) : b.refillComplete q = b.refillSump q (b.queueOf q) sp rest := by
  unfold refillComplete
  dsimp only
  rw [hx]
  dsimp only
  rw [if_neg (by rw [hs]; simpa using hf), hfar]
  rfl

/-- A span read back brings its cells behind the head (R216). -/
theorem refillSump_good {x : Queue} {s : Span} {rest : List Span} (hr : rest ≠ []) (hbad : b.refillBad x s = false)
    (hside : sideOk (b.refillSide s) q s.seq 0 = true) (hp : ∀ c ∈ x.head ++ s.cells, ∃ p, b.pkt c.pid = some p ∧ p.hole = false) :
    ((b.refillSump q x s rest).queueOf q).spans = rest ∧ ((b.refillSump q x s rest).queueOf q).tail = x.tail ∧
    ((b.refillSump q x s rest).queueOf q).head.map (fun c => (c.pid, c.pos)) = (x.head ++ s.cells).map fun c => (c.pid, c.pos) := by
  obtain ⟨m, hm, hpipe⟩ := refillTaken_spec (b := b) (q := q) x s rest
  rw [refillSump_eq, if_neg (by rw [hbad]; decide), if_neg (by rw [hside]; decide)]
  have hpkt := pkt_of hpipe
  generalize b.refillTaken q x s rest = d at hm hpkt
  have h := refill_settled (b := d) (q := q) (l := s.cells) (b.isLate q) (b.pfcKeys s.cells) (by rw [hm]; exact hr) (by
    rw [hm]
    exact fun c hc => by rw [hpkt]; exact hp c hc)
  rw [hm] at h
  exact h

/-- A span that does not read is reported, and gone from its queue (R221). -/
theorem refillSump_bad {x : Queue} {s : Span} {rest : List Span} (hbad : b.refillBad x s = true) :
    ((b.refillSump q x s rest).queueOf q).spans = rest ∧ (b.refillSump q x s rest).rd Pg.chm (fltStat R.CHM_FLT_SUMP_UE) = 1 := by
  obtain ⟨m, hm, -⟩ := refillTaken_spec (b := b) (q := q) x s rest
  rw [refillSump_eq, if_pos hbad]
  generalize b.refillTaken q x s rest = d at hm
  have hflt : (d.unreadable q false (b.bufAddr s.pool s.buf) s.cells).rd Pg.chm (fltStat R.CHM_FLT_SUMP_UE) = 1 := fault_stat _ _ _ _
  have hsp : ((d.unreadable q false (b.bufAddr s.pool s.buf) s.cells).queueOf q).spans = rest := by
    rw [queueOf_of (queues_unreadable _ _ _ _ _ _), hm]
  generalize d.unreadable q false (b.bufAddr s.pool s.buf) s.cells = e at hflt hsp
  refine ⟨?_, ?_⟩
  · rw [spans_settle, queueOf_of (queues_reapHoles _ _), hsp]
  · have h1 := (touch_reapHoles (P := chmAddr) (b := e) q (s.cells.map (·.pid)).eraseDups).regs Pg.chm (fltStat R.CHM_FLT_SUMP_UE) 0 0 (by decide) chm_flt_apart
    exact ((touch_settle q _ _).regs _ _ _ _ (by decide) chm_flt_apart).trans (h1.trans hflt)

/-! The orphan sweep (R222). -/

theorem orphanSweep_spec (h : b.buf.orphans ≠ []) : b.orphanSweep.buf.orphans = [] ∧ b.orphanSweep.buf.orphanBooked = 0 ∧
    b.orphanSweep.rd Pg.chm (evtPend R.CHM_EVT_ORPHAN) = 1 ∧
    b.orphanSweep.ctr Pg.chm CHM_ORPHAN = (b.ctr Pg.chm CHM_ORPHAN + b.buf.orphans.length) % 2 ^ 64 := by
  obtain ⟨cl, fl, hf⟩ := freeCells_only b b.buf.orphans
  unfold orphanSweep
  rw [if_neg h, hf]
  dsimp only
  generalize he : (Body.count _ Pg.chm CHM_ORPHAN _).fire Pg.chm R.CHM_EVT_ORPHAN = e
  have hbuf : e.buf.orphans = [] ∧ e.buf.orphanBooked = 0 := by
    rw [← he, (still_eq (still_fire _ _ _)).1]
    exact ⟨rfl, rfl⟩
  have hpend : e.rd Pg.chm (evtPend R.CHM_EVT_ORPHAN) = 1 := by
    rw [← he]
    exact fire_pend _ (by decide) (by decide)
  have hctr : e.ctrs = (b.count Pg.chm CHM_ORPHAN b.buf.orphans.length).ctrs := by
    rw [← he]
    exact (by simp : ∀ (f : Body), (f.fire Pg.chm R.CHM_EVT_ORPHAN).ctrs = f.ctrs) _
  have hst := (still_eq (still_chmRefresh e)).1
  refine ⟨by rw [hst]; exact hbuf.1, by rw [hst]; exact hbuf.2, (touch_chmRefresh (b := e)).pend _ _ (by decide) (by decide) hpend, ?_⟩
  have hc : e.chmRefresh.ctrs = e.ctrs := rfl
  rw [ctr, hc, hctr]
  exact ctr_count_same _ _ _

end

end Body

end Sys2Proof.Machine

namespace Sys2Proof
open Machine

/-- Settles O20: the spill, the reads issued, the span read back, and the sweep, each by what its operation makes of the queue. -/
theorem spillAndRefill : Obligations.SpillAndRefill := by
  unfold Obligations.SpillAndRefill
  intro q s hq
  have hok : decide (q < 1048576) = true := decide_eq_true hq
  refine ⟨fun hr hserve hspill hlen hlinks => ⟨fun n hn hf => ?_, fun h => ?_⟩, fun hr hspill h => ?_, ?_, ?_, fun hr h => ?_⟩
  · have hS : s.dev.body.Spills q := ⟨hspill, hlen, hserve, hlinks⟩
    obtain ⟨i, c, hreq, halloc, hlines, -⟩ := Body.poolReq_tier hn hf
    obtain ⟨sp, h1, h2, h3, h4, h5, h6, h7, h8, h9⟩ := Body.spillInto_spec (b := c) (q := q) (s.dev.body.queueOf q) n i
    refine ⟨_, sp, State.body_withBody hok hr (hS.ok hreq), ?_⟩
    simp only [State.withBody_queueOf, State.withBody_allocOf]
    refine ⟨h1, h2, h3, h4, ?_, h6, h7, fun k hk => ?_⟩
    · rw [h5, Body.allocOf, h9]
      exact halloc
    · rw [h8 k hk, Body.lines_queueOf hlines]
  · have hS : s.dev.body.Spills q := ⟨hspill, hlen, hserve, hlinks⟩
    obtain ⟨c, r, hreq, hne, hbuf, hctrs⟩ := Body.poolReq_none h
    refine ⟨_, State.body_withBody hok hr (hS.noSpan hreq hne), ?_, ?_⟩
    · rw [State.withBody_buf]
      exact hbuf
    · rw [State.withBody_ctr, Body.ctr_count_same, Body.ctr, hctrs]
      rfl
  · obtain ⟨h1, h2, h3, h4⟩ := Body.refillRead_spec hspill h
    refine ⟨_, State.body_withBody hok hr rfl, ?_⟩
    have hfl : ∀ y : Queue, Body.inFlight y = Body.flightOf y.spans := fun _ => rfl
    obtain ⟨h5, h6, h7⟩ := Body.issueReads_flight s.dev.body.clk
      (prHi (s.dev.body.prof q) - ((s.dev.body.queueOf q).head.length + Body.inFlight (s.dev.body.queueOf q)))
      (s.dev.body.clsFree .refill - (s.dev.body.refillFlight : Int)).toNat (s.dev.body.queueOf q).spans
    have hc := Body.issueReads_cells s.dev.body.clk
      (prHi (s.dev.body.prof q) - ((s.dev.body.queueOf q).head.length + Body.inFlight (s.dev.body.queueOf q)))
      (s.dev.body.clsFree .refill - (s.dev.body.refillFlight : Int)).toNat (s.dev.body.queueOf q).spans
    change _ ≤ Body.flightOf (s.dev.body.refillIssued q) at h5
    change Body.flightOf (s.dev.body.refillIssued q) ≤ _ at h6
    change Body.flightOf (s.dev.body.refillIssued q) ≤ _ at h7
    change (s.dev.body.refillIssued q).map _ = _ at hc
    intro y
    have hy : y = (s.dev.body.refillRead q).queueOf q := State.withBody_queueOf q
    rw [hy, hfl, h1, h2, h3, h4]
    refine ⟨rfl, rfl, rfl, hc, h5, h6, ?_⟩
    rw [hfl] at h7 ⊢
    unfold ceilDiv at h7
    omega
  · intro sp rest hr hserve hx hf hfar hrest harm a hlines hside hsok hp
    obtain ⟨hbad, hrec⟩ := Body.refill_good (b := s.dev.body) (x := s.dev.body.queueOf q) (s := sp) harm hlines hside
    obtain ⟨h1, h2, h3⟩ := Body.refillSump_good (b := s.dev.body) (q := q) (x := s.dev.body.queueOf q) hrest hbad (by rw [hrec]; exact hsok) hp
    refine ⟨_, State.body_withBody hok hr (Body.refillComplete_eq hx hf hserve hfar), ?_⟩
    rw [State.withBody_queueOf]
    exact ⟨h1, h2, h3⟩
  · intro sp rest hr hserve hx hf hfar harm
    obtain ⟨h1, h2⟩ := Body.refillSump_bad (b := s.dev.body) (q := q) (x := s.dev.body.queueOf q) (s := sp) (rest := rest) (by
      unfold Body.refillBad
      rw [harm, Bool.or_true])
    refine ⟨_, State.body_withBody hok hr (Body.refillComplete_eq hx hf hserve hfar), ?_⟩
    rw [State.withBody_queueOf]
    exact ⟨h1, State.withBody_page_flt (by decide) (by decide) h2⟩
  · obtain ⟨h1, h2, h3, h4⟩ := Body.orphanSweep_spec h
    refine ⟨_, State.body_withBody rfl hr rfl, ?_⟩
    generalize s.dev.body.orphanSweep = c at h1 h2 h3 h4
    rw [State.withBody_buf, State.withBody_ctr]
    exact ⟨h1, h2, State.withBody_page_evt (by decide) (by decide) h3, h4⟩

end Sys2Proof
end

section
/-! O39: how far reads and far copies end (R221, R346, R348, R354). -/

namespace Sys2Proof.Machine

namespace Body

section
variable {b c : Body} {q : Nat}

/-! Reads of far memory (R348). -/

theorem farRead_clean {p a n : Nat} (h : p ∉ b.far.armPoison) :
    b.farRead p a n = (b.count (Pg.far p 0) FAR_RD_BYTES n, Mem.read (b.farMem p) a n, false) :=
  if_neg (by simpa [count] using h)

theorem farMem_count (p i n k : Nat) : (b.count p i n).farMem k = b.farMem k := rfl

theorem farRead_poisoned {p a n : Nat} (h : p ∈ b.far.armPoison) : (b.farRead p a n).2.2 = true ∧
    (b.farRead p a n).1.rd (Pg.far p 0) (fltStat R.FAR_FLT_POISON) = 1 := by
  have hc : (b.count (Pg.far p 0) FAR_RD_BYTES n).far.armPoison.contains p = true := by simpa [count] using h
  unfold farRead
  dsimp only
  rw [if_pos hc]
  exact ⟨rfl, fault_stat _ _ _ _⟩

theorem farRead_keeps_flt {p a n : Nat} (h : b.rd (Pg.far p 0) (fltStat R.FAR_FLT_POISON) = 1) :
    (b.farRead p a n).1.rd (Pg.far p 0) (fltStat R.FAR_FLT_POISON) = 1 := by
  by_cases hp : p ∈ b.far.armPoison
  · exact (farRead_poisoned hp).2
  · rw [farRead_clean hp]
    exact (b.count_rd _ _ _ _ _ _ _).trans h

/-! The next piece of the far span in front (R216, R348). -/

/-- The cells of a span's next piece. -/
def pieceCells (s : Span) : List QCell := (s.cells.drop (16 * s.pieces)).take 16

/-- The address of a span's next piece, and of its side record. -/
def pieceAddr (b : Body) (s : Span) : Nat := b.bufAddr s.pool s.buf + 4096 * s.pieces
def pieceSide (b : Body) (s : Span) : Nat := b.farSide s.port (b.bufAddr s.pool s.buf) + 128 * s.pieces

/-- A span with its next piece behind it. -/
def pieceLeft (b : Body) (s : Span) : Span := { s with pieces := s.pieces + 1, flight := s.flight - 1, since := b.clk }

/-- The next piece taken from the spill section and counted. -/
def pieceTaken (b : Body) (q : Nat) (x : Queue) (s : Span) (rest : List Span) : Body :=
  (b.setQueue q { x with spans := b.pieceLeft s :: rest, farUeArm := false }).count Pg.chm FAR_PIECES_RD

/-- The end of a piece: what became of its packets, and the queue settled. -/
def pieceEnd (b : Body) (q : Nat) (s : Span) (late : Bool) (keys : List (Nat × Nat)) : Body :=
  (b.reapHoles q ((pieceCells s).map (·.pid)).eraseDups).settle q late keys

/-- The two reads of a piece: its data and its side record. -/
def pieceRead (b : Body) (s : Span) : Body := ((b.farRead s.port (b.pieceAddr s) 4096).1.farRead s.port (b.pieceSide s) 128).1

/-- Whether either read of a piece comes poisoned. -/
def piecePoison (b : Body) (s : Span) : Bool :=
  (b.farRead s.port (b.pieceAddr s) 4096).2.2 || ((b.farRead s.port (b.pieceAddr s) 4096).1.farRead s.port (b.pieceSide s) 128).2.2

variable {x : Queue} {s : Span} {rest : List Span}

theorem refillFar_fail (hi : s.pieces < 255) (hv : s.pieces ∉ s.void) : b.refillFar q x s rest true =
    ((b.pieceTaken q x s rest).unreadable q true (b.pieceAddr s) (pieceCells s) s.port false).pieceEnd q s (b.isLate q) (b.pfcKeys (pieceCells s)) := by
  have h256 : ¬ s.pieces + 1 = 256 := by omega
  have hvoid : ¬ s.void.contains s.pieces = true := by simpa using hv
  unfold refillFar
  dsimp only
  rw [if_neg h256, if_neg h256, if_neg hvoid]
  rfl

theorem refillFar_poison (hi : s.pieces < 255) (hv : s.pieces ∉ s.void) (h : b.piecePoison s = true) : b.refillFar q x s rest false =
    (((b.pieceRead s).pieceTaken q x s rest).unreadable q true (b.pieceAddr s) (pieceCells s) s.port true).pieceEnd q s (b.isLate q)
      (b.pfcKeys (pieceCells s)) := by
  have h256 : ¬ s.pieces + 1 = 256 := by omega
  have hvoid : ¬ s.void.contains s.pieces = true := by simpa using hv
  unfold refillFar
  dsimp only
  rw [if_neg h256, if_neg h256, if_neg hvoid]
  have hbad : (b.piecePoison s || x.farUeArm) = true := by rw [h, Bool.true_or]
  exact congrArg (fun d : Body => d.pieceEnd q s (b.isLate q) (b.pfcKeys (pieceCells s))) (if_pos hbad)

theorem refillFar_good (hi : s.pieces < 255) (hv : s.pieces ∉ s.void) (h : b.piecePoison s = false) (ha : x.farUeArm = false)
    (hok : sideOk ((b.farRead s.port (b.pieceAddr s) 4096).1.farRead s.port (b.pieceSide s) 128).2.1 q ((s.seq + s.pieces) % 2 ^ 32)
      ((b.pieceRead s).frd s.port R.FAR_LINK_GEN) = true) : b.refillFar q x s rest false =
    (((b.pieceRead s).pieceTaken q x s rest).refillCells q (pieceCells s)).pieceEnd q s (b.isLate q) (b.pfcKeys (pieceCells s)) := by
  have h256 : ¬ s.pieces + 1 = 256 := by omega
  have hvoid : ¬ s.void.contains s.pieces = true := by simpa using hv
  have hbad : ¬ (b.piecePoison s || x.farUeArm) = true := by rw [h, ha]; decide
  unfold refillFar
  dsimp only
  rw [if_neg h256, if_neg h256, if_neg hvoid]
  exact congrArg (fun d : Body => d.pieceEnd q s (b.isLate q) (b.pfcKeys (pieceCells s))) ((if_neg hbad).trans (if_neg (not_not_intro hok)))

theorem pieceTaken_spec : ∃ m, (b.pieceTaken q x s rest).queueOf q = { x with spans := b.pieceLeft s :: rest, farUeArm := false, bucketAt := m } ∧
    (b.pieceTaken q x s rest).pipe = b.pipe ∧ Touch chmAddr b (b.pieceTaken q x s rest) := by
  obtain ⟨m, hm, -⟩ := queueOf_setQueue b q { x with spans := b.pieceLeft s :: rest, farUeArm := false }
  exact ⟨m, hm, (b.setQueue_rest q _).2.2.2.2.2.1, (touch_setQueue q _).count (by decide) (chm_page (x := 0) (by decide) (by decide))⟩

theorem pieceEnd_spec (late : Bool) (keys : List (Nat × Nat)) : ((b.pieceEnd q s late keys).queueOf q).spans = (b.queueOf q).spans ∧
    Touch chmAddr b (b.pieceEnd q s late keys) := by
  refine ⟨?_, (touch_reapHoles q _).trans (touch_settle q _ _)⟩
  unfold pieceEnd
  rw [spans_settle, queueOf_of (queues_reapHoles _ _)]

theorem far_touch {p i : Nat} (hp : p < 2) (hi : i < 0x1000) {l : Nat} : ¬ lossAddr (Pg.far p 0 + i) l := by
  unfold lossAddr chmAddr Pg.far Pg.chm Pg.rim
  omega

theorem far_ctr {p : Nat} (hp : p < 2) {l : Nat} : ¬ lossAddr (Pg.far p 0) l := far_touch (i := 0) hp (by decide)

theorem far_flt {p n : Nat} (hp : p < 2) : ¬ lossAddr ((fltStat n).addr (Pg.far p 0) 0 0) (fltStat n).lo := far_touch (i := 0x40) hp (by decide)

/-- A piece that is lost leaves its queue, and the Chamber's fault tells of it (R221). -/
theorem pieceLost_spec (inj : Bool) (a : Nat) (late : Bool) (keys : List (Nat × Nat)) :
    let t := ((b.pieceTaken q x s rest).unreadable q true a (pieceCells s) s.port inj).pieceEnd q s late keys
    (t.queueOf q).spans = b.pieceLeft s :: rest ∧ t.rd Pg.chm (fltStat R.CHM_FLT_FAR_UE) = 1 ∧ Touch lossAddr b t := by
  intro t
  obtain ⟨m, hm, -, htaken⟩ := pieceTaken_spec (b := b) (q := q) (x := x) (s := s) (rest := rest)
  have hflt : ((b.pieceTaken q x s rest).unreadable q true a (pieceCells s) s.port inj).rd Pg.chm (fltStat R.CHM_FLT_FAR_UE) = 1 := fault_stat _ _ _ _
  have hsp : (((b.pieceTaken q x s rest).unreadable q true a (pieceCells s) s.port inj).queueOf q).spans = b.pieceLeft s :: rest := by
    rw [queueOf_of (queues_unreadable _ _ _ _ _ _), hm]
  obtain ⟨hes, het⟩ := pieceEnd_spec (b := (b.pieceTaken q x s rest).unreadable q true a (pieceCells s) s.port inj) (q := q) (s := s) late keys
  exact ⟨hes.trans hsp, (het.regs _ _ _ _ (by decide) chm_flt_apart).trans hflt,
    ((htaken.mono fun _ _ => .inl).trans (touch_unreadable _ _ _ _ _ _)).trans (het.mono fun _ _ => .inl)⟩

/-- A poisoned piece (R348). -/
theorem refillFar_poison_spec (hport : s.port < 2) (hi : s.pieces < 255) (hv : s.pieces ∉ s.void) (h : s.port ∈ b.far.armPoison) :
    ((b.refillFar q x s rest false).queueOf q).spans = b.pieceLeft s :: rest ∧
    (b.refillFar q x s rest false).rd (Pg.far s.port 0) (fltStat R.FAR_FLT_POISON) = 1 ∧
    (b.refillFar q x s rest false).rd Pg.chm (fltStat R.CHM_FLT_FAR_UE) = 1 := by
  obtain ⟨h1, h2⟩ := farRead_poisoned (b := b) (a := b.pieceAddr s) (n := 4096) h
  have hclk : (b.pieceRead s).clk = b.clk := (offside_eq (by rw [pieceRead, offside_farRead, offside_farRead] : (b.pieceRead s).offside = b.offside)).1
  have hflt : (b.pieceRead s).rd (Pg.far s.port 0) (fltStat R.FAR_FLT_POISON) = 1 := farRead_keeps_flt h2
  have hleft : (b.pieceRead s).pieceLeft s = b.pieceLeft s := by rw [pieceLeft, pieceLeft, hclk]
  rw [refillFar_poison hi hv (by rw [piecePoison, h1, Bool.true_or])]
  obtain ⟨h3, h4, h5⟩ := pieceLost_spec (b := b.pieceRead s) (q := q) (x := x) (s := s) (rest := rest) true (b.pieceAddr s) (b.isLate q)
    (b.pfcKeys (pieceCells s))
  exact ⟨h3.trans (by rw [hleft]), (h5.regs _ _ _ _ (by decide) (far_flt hport)).trans hflt, h4⟩

/-- A piece read: its cells stand behind the head, and its bytes are counted (R216, R354). -/
theorem refillFar_good_spec (hport : s.port < 2) (hi : s.pieces < 255) (hv : s.pieces ∉ s.void) (h : s.port ∉ b.far.armPoison) (ha : x.farUeArm = false)
    (hok : sideOk (Mem.read (b.farMem s.port) (b.pieceSide s) 128) q ((s.seq + s.pieces) % 2 ^ 32) (b.rd (Pg.far s.port 0) R.FAR_LINK_GEN) = true)
    (hp : ∀ c ∈ x.head ++ pieceCells s, ∃ p, b.pkt c.pid = some p ∧ p.hole = false) :
    ((b.refillFar q x s rest false).queueOf q).spans = b.pieceLeft s :: rest ∧ ((b.refillFar q x s rest false).queueOf q).tail = x.tail ∧
    ((b.refillFar q x s rest false).queueOf q).head.map (fun c => (c.pid, c.pos)) = (x.head ++ pieceCells s).map (fun c => (c.pid, c.pos)) ∧
    (b.refillFar q x s rest false).ctr (Pg.far s.port 0) FAR_RD_BYTES = (b.ctr (Pg.far s.port 0) FAR_RD_BYTES + 4224) % 2 ^ 64 := by
  have h1 := farRead_clean (b := b) (a := b.pieceAddr s) (n := 4096) h
  have h2 := farRead_clean (b := b.count (Pg.far s.port 0) FAR_RD_BYTES 4096) (p := s.port) (a := b.pieceSide s) (n := 128) h
  have hread : b.pieceRead s = (b.count (Pg.far s.port 0) FAR_RD_BYTES 4096).count (Pg.far s.port 0) FAR_RD_BYTES 128 := by rw [pieceRead, h1, h2]
  have hpoison : b.piecePoison s = false := by
    unfold piecePoison
    rw [h1, h2]
    rfl
  have hctr : (b.pieceRead s).ctr (Pg.far s.port 0) FAR_RD_BYTES = (b.ctr (Pg.far s.port 0) FAR_RD_BYTES + 4224) % 2 ^ 64 := by
    rw [hread, ctr_count_same, ctr_count_same]
    omega
  have hgen : (b.pieceRead s).frd s.port R.FAR_LINK_GEN = b.rd (Pg.far s.port 0) R.FAR_LINK_GEN := by
    rw [hread, frd, count_rd, count_rd]
  have hsok : sideOk ((b.farRead s.port (b.pieceAddr s) 4096).1.farRead s.port (b.pieceSide s) 128).2.1 q ((s.seq + s.pieces) % 2 ^ 32)
      ((b.pieceRead s).frd s.port R.FAR_LINK_GEN) = true := by
    have hside : ((b.farRead s.port (b.pieceAddr s) 4096).1.farRead s.port (b.pieceSide s) 128).2.1 = Mem.read (b.farMem s.port) (b.pieceSide s) 128 := by
      rw [h1, h2, farMem_count]
    rw [hgen, hside]
    exact hok
  have hcount : ∀ (e : Body) p i n, (e.count p i n).pipe = e.pipe ∧ (e.count p i n).clk = e.clk := fun _ _ _ _ => ⟨rfl, rfl⟩
  have hpipe : (b.pieceRead s).pipe = b.pipe := by rw [hread, (hcount _ _ _ _).1, (hcount _ _ _ _).1]
  have hclk : (b.pieceRead s).clk = b.clk := by rw [hread, (hcount _ _ _ _).2, (hcount _ _ _ _).2]
  have hleft : (b.pieceRead s).pieceLeft s = b.pieceLeft s := by rw [pieceLeft, pieceLeft, hclk]
  rw [refillFar_good hi hv hpoison ha hsok]
  generalize b.pieceRead s = d at hctr hpipe hleft
  obtain ⟨m, hm, hdp, htaken⟩ := pieceTaken_spec (b := d) (q := q) (x := x) (s := s) (rest := rest)
  have hpkt := pkt_of (hdp.trans hpipe)
  generalize d.pieceTaken q x s rest = e at hm hpkt htaken
  have hset := refill_settled (b := e) (q := q) (l := pieceCells s) (b.isLate q) (b.pfcKeys (pieceCells s)) (by rw [hm]; exact List.cons_ne_nil _ _) (by
    rw [hm]
    exact fun c hc => by rw [hpkt]; exact hp c hc)
  rw [hm] at hset
  obtain ⟨h3, h4, h5⟩ := hset
  refine ⟨h3.trans (by rw [hleft]), h4, h5, ?_⟩
  have ht : Touch chmAddr d ((e.refillCells q (pieceCells s)).pieceEnd q s (b.isLate q) (b.pfcKeys (pieceCells s))) :=
    (htaken.trans (touch_refillCells _ _)).trans (pieceEnd_spec _ _).2
  rw [ht.ctr (by decide) (fun h => far_ctr hport (.inl h)), hctr]

/-! Completion, withholding and time-out (R345, R348, R354). -/

theorem farReadComplete_held (hx : (b.queueOf q).spans = s :: rest) (hfar : s.far = true) (hf : s.flight ≠ 0) (hr : b.farReady s.port = true)
    (hq : q ∉ b.far.heldRead) (h : s.port ∈ b.far.armHold) :
    b.farReadComplete q = { b with far := { b.far with armHold := b.far.armHold.erase s.port, heldRead := insertNat q b.far.heldRead } } := by
  unfold farReadComplete
  dsimp only
  rw [hx]
  dsimp only
  rw [if_neg (by simp [hf, hfar, hr, hq]), if_pos (by simpa using h)]

theorem farReadComplete_goes (hx : (b.queueOf q).spans = s :: rest) (hfar : s.far = true) (hf : s.flight ≠ 0) (hr : b.farReady s.port = true)
    (hq : q ∉ b.far.heldRead) (h : s.port ∉ b.far.armHold) : b.farReadComplete q = b.refillFar q (b.queueOf q) s rest false := by
  unfold farReadComplete
  dsimp only
  rw [hx]
  dsimp only
  rw [if_neg (by simp [hf, hfar, hr, hq]), if_neg (by simpa using h)]

/-- A far request that has not completed in time, told by its port. -/
def farTold (b : Body) (q p acc : Nat) : Body :=
  (b.count (Pg.far p 0) FAR_TIMEOUT_CNT).fault (Pg.far p 0) R.FAR_FLT_TIMEOUT
    { access := acc, space := 3 + p, detail := q, inj := b.far.heldRead.contains q || b.far.heldCopy.contains q }

theorem farTold_spec (p acc : Nat) : (b.farTold q p acc).rd (Pg.far p 0) (fltStat R.FAR_FLT_TIMEOUT) = 1 ∧
    (b.farTold q p acc).ctr (Pg.far p 0) FAR_TIMEOUT_CNT = (b.ctr (Pg.far p 0) FAR_TIMEOUT_CNT + 1) % 2 ^ 64 ∧ (b.farTold q p acc).clk = b.clk := by
  refine ⟨fault_stat _ _ _ _, ?_, (offside_eq (offside_fault _ _ _ _)).1⟩
  have hc : ∀ (e : Body) p n x, (e.fault p n x).ctrs = e.ctrs := fun e p n x => by simp
  have hs := ctr_count_same (b := b) (Pg.far p 0) FAR_TIMEOUT_CNT 1
  rw [farTold, ctr, hc]
  exact hs

theorem farRequestTimeout_early (hx : (b.queueOf q).spans = s :: rest) (h : b.farLate s.port s.since = false) : b.farRequestTimeout q false = b := by
  unfold farRequestTimeout
  dsimp only
  rw [if_neg (by decide), hx]
  dsimp only
  rw [if_pos (by simp [h])]

theorem farRequestTimeout_late (hx : (b.queueOf q).spans = s :: rest) (hfar : s.far = true) (hf : s.flight ≠ 0) (h : b.farLate s.port s.since = true) :
    ∃ f, b.farRequestTimeout q false = ({ b.farTold q s.port 3 with far := f } : Body).refillFar q (b.queueOf q) s rest true := by
  refine ⟨{ (b.farTold q s.port 3).far with heldRead := (b.farTold q s.port 3).far.heldRead.erase q }, ?_⟩
  unfold farRequestTimeout
  dsimp only
  rw [if_neg (by decide), hx]
  dsimp only
  rw [if_neg (by simp [hf, hfar, h])]
  rfl

theorem farTimeout_spec (hx : (b.queueOf q).spans = s :: rest) (hfar : s.far = true) (hf : s.flight ≠ 0) (h : b.farLate s.port s.since = true)
    (hport : s.port < 2) (hi : s.pieces < 255) (hv : s.pieces ∉ s.void) :
    ((b.farRequestTimeout q false).queueOf q).spans = b.pieceLeft s :: rest ∧
    (b.farRequestTimeout q false).rd (Pg.far s.port 0) (fltStat R.FAR_FLT_TIMEOUT) = 1 ∧
    (b.farRequestTimeout q false).rd Pg.chm (fltStat R.CHM_FLT_FAR_UE) = 1 ∧
    (b.farRequestTimeout q false).ctr (Pg.far s.port 0) FAR_TIMEOUT_CNT = (b.ctr (Pg.far s.port 0) FAR_TIMEOUT_CNT + 1) % 2 ^ 64 := by
  obtain ⟨f, he⟩ := farRequestTimeout_late hx hfar hf h
  obtain ⟨h1, h2, h3⟩ := farTold_spec (b := b) (q := q) s.port 3
  rw [he, refillFar_fail hi hv]
  have h1' : ({ b.farTold q s.port 3 with far := f } : Body).rd (Pg.far s.port 0) (fltStat R.FAR_FLT_TIMEOUT) = 1 := h1
  have h2' : ({ b.farTold q s.port 3 with far := f } : Body).ctr (Pg.far s.port 0) FAR_TIMEOUT_CNT = (b.ctr (Pg.far s.port 0) FAR_TIMEOUT_CNT + 1) % 2 ^ 64 := h2
  have h3' : ({ b.farTold q s.port 3 with far := f } : Body).clk = b.clk := h3
  generalize ({ b.farTold q s.port 3 with far := f } : Body) = d at h1' h2' h3'
  have hleft : d.pieceLeft s = b.pieceLeft s := by rw [pieceLeft, pieceLeft, h3']
  obtain ⟨h4, h5, h6⟩ := pieceLost_spec (b := d) (q := q) (x := b.queueOf q) (s := s) (rest := rest) false (d.pieceAddr s) (d.isLate q)
    (d.pfcKeys (pieceCells s))
  exact ⟨h4.trans (by rw [hleft]), (h6.regs _ _ _ _ (by decide) (far_flt hport)).trans h1', h5,
    (h6.ctr (by decide) (far_ctr hport)).trans h2'⟩

/-- A migration whose copy is late is abandoned: its spans stay, and its far span is free again (R348). -/
theorem farAbandon_spec {m : Migr} (hm : (b.queueOf q).migr = some m) (hl : b.farLate m.port m.since = true)
    (hbuf : m.buf < b.rd (Pg.pool m.pool) R.POOL_COUNT) (hbit : (m.pool, m.buf) ∉ b.buf.bitBad) (ha : m.buf ∈ b.allocOf m.pool) :
    ((b.farRequestTimeout q true).queueOf q).migr = none ∧ ((b.farRequestTimeout q true).queueOf q).spans = (b.queueOf q).spans ∧
    (b.farRequestTimeout q true).allocOf m.pool = (b.allocOf m.pool).erase m.buf ∧
    (b.farRequestTimeout q true).rd (Pg.pool m.pool) R.POOL_FREE_CNT = (b.rd (Pg.pool m.pool) R.POOL_FREE_CNT + 1) % 2 ^ 28 ∧
    (b.farRequestTimeout q true).ctr (Pg.far m.port 0) FAR_MIG_ABANDON = (b.ctr (Pg.far m.port 0) FAR_MIG_ABANDON + 1) % 2 ^ 64 := by
  have he : b.farRequestTimeout q true = b.abandonMigr q := by
    unfold farRequestTimeout
    dsimp only
    rw [if_pos rfl, hm]
    exact if_pos hl
  have hab : ∃ f : FarSt, b.abandonMigr q = ((({ b with far := f } : Body).setQueue q { b.queueOf q with migr := none }).spanFree true m.pool m.buf).count
      (Pg.far m.port 0) FAR_MIG_ABANDON := by
    refine ⟨{ b.far with heldCopy := b.far.heldCopy.erase q }, ?_⟩
    unfold abandonMigr
    dsimp only
    rw [hm]
  obtain ⟨f, hab⟩ := hab
  rw [he, hab]
  obtain ⟨n, hn, -⟩ := queueOf_setQueue ({ b with far := f } : Body) q { b.queueOf q with migr := none }
  have hrest := ({ b with far := f } : Body).setQueue_rest q { b.queueOf q with migr := none }
  have hbb : (({ b with far := f } : Body).setQueue q { b.queueOf q with migr := none }).buf.bitBad = b.buf.bitBad := by
    unfold setQueue
    dsimp only
    split <;> rfl
  generalize ({ b with far := f } : Body).setQueue q { b.queueOf q with migr := none } = d at hn hrest hbb
  obtain ⟨-, halloc, -, hregs, hctrs, -⟩ := hrest
  have hrd : ∀ g : Fld, d.rd (Pg.pool m.pool) g = b.rd (Pg.pool m.pool) g := fun g => rd_of_regs hregs _ _ _ _
  have hda : d.allocOf m.pool = b.allocOf m.pool := by rw [allocOf, allocOf, halloc]
  obtain ⟨h1, h2, h3⟩ := poolFree_allocated_spec (b := d) (n := m.pool) (i := m.buf) (m := 0x3FF) (by rw [hrd]; exact hbuf) (by rw [hbb]; exact hbit)
    (by rw [hda]; exact ha)
  have hq : ∀ k, (((d.spanFree true m.pool m.buf).count (Pg.far m.port 0) FAR_MIG_ABANDON).queueOf k) = d.queueOf k := fun k =>
    lines_queueOf (lines_spanFree (b := d) true m.pool m.buf) k
  refine ⟨by rw [hq, hn], by rw [hq, hn], ?_, ?_, ?_⟩
  · rw [← hda, ← h1]
    rfl
  · rw [← hrd, ← h2, count_rd]
    exact ledOut_rd ..
  · rw [ctr_count_same, ctr, ctr]
    have hc : (d.spanFree true m.pool m.buf).ctrs = d.ctrs := h3.ctrs
    rw [hc, hctrs]

end

end Body

end Sys2Proof.Machine

namespace Sys2Proof
open Machine

/-- Settles O39: the read that completes, is withheld or comes poisoned, the read that is late, and the copy that is. -/
theorem farRequestsEnd : Obligations.FarRequestsEnd := by
  unfold Obligations.FarRequestsEnd
  intro q s hq hr
  have hok : decide (q < 1048576) = true := decide_eq_true hq
  refine ⟨fun sp rest hx hfar hf hport hi hv => ?_, fun m hm hpool hport hbuf hbit ha hl => ?_⟩
  · intro left cells base
    refine ⟨fun hready hheld => ⟨fun harm => ?_, fun harm hpo hue hside hp => ?_, fun harm hpo => ?_⟩, fun hl => ?_, fun hl => ?_⟩
    · refine ⟨_, State.body_withBody hok hr (Body.farReadComplete_held hx hfar hf hready hheld harm), ?_, ?_, State.withBody_keeps
        ⟨fun _ _ _ _ _ _ _ => rfl, rfl, rfl, rfl⟩⟩
      · rw [(by simp : ∀ c : Body, (s.withBody c).dev.body.far = c.far)]
        exact mem_insertNat.mpr (.inl rfl)
      · rw [State.withBody_buf]
    · obtain ⟨h1, h2, h3, h4⟩ := Body.refillFar_good_spec (b := s.dev.body) (q := q) (rest := rest) hport hi hv hpo hue hside hp
      refine ⟨_, State.body_withBody hok hr (Body.farReadComplete_goes hx hfar hf hready hheld harm), ?_⟩
      rw [State.withBody_queueOf, State.withBody_ctr]
      exact ⟨h1, h2, h3, h4⟩
    · obtain ⟨h1, h2, h3⟩ := Body.refillFar_poison_spec (b := s.dev.body) (q := q) (x := s.dev.body.queueOf q) (rest := rest) hport hi hv hpo
      refine ⟨_, State.body_withBody hok hr (Body.farReadComplete_goes hx hfar hf hready hheld harm), ?_⟩
      rw [State.withBody_queueOf]
      exact ⟨h1, State.withBody_page_flt (Body.far_page (by decide)).2 (by decide) h2, State.withBody_page_flt (by decide) (by decide) h3⟩
    · exact (State.body_withBody hok hr (Body.farRequestTimeout_early hx hl)).trans (by rw [State.withBody_self])
    · obtain ⟨h1, h2, h3, h4⟩ := Body.farTimeout_spec hx hfar hf hl hport hi hv
      refine ⟨_, State.body_withBody hok hr rfl, ?_⟩
      rw [State.withBody_queueOf, State.withBody_ctr]
      exact ⟨h1, State.withBody_page_flt (Body.far_page (n := 0) (by decide)).2 (by decide) h2, State.withBody_page_flt (by decide) (by decide) h3, h4⟩
  · obtain ⟨h1, h2, h3, h4, h5⟩ := Body.farAbandon_spec hm hl hbuf hbit ha
    refine ⟨_, State.body_withBody hok hr rfl, ?_⟩
    rw [State.withBody_queueOf, State.withBody_ctr]
    exact ⟨h1, h2, State.withBody_allocOf.trans h3, State.withBody_poolReg h4, h5⟩

end Sys2Proof
end

section
/-! O21: far migration starts and completes (R215, R348). -/

namespace Sys2Proof.Machine

namespace Body

section
variable {b c : Body} {q port : Nat}

/-- The migration of the last 256 spans of a queue into a buffer of a far pool. -/
def migrOf (x : Queue) (port n i now : Nat) : Migr :=
  { port := port, pool := n, buf := i, first := (((x.spans.drop (x.spans.length - 256)).head?.map (·.seq)).getD 0), since := now }

/-- A long-haul queue beyond its Sump share, with 256 spans to move and a port to take them (R215). -/
structure Migrates (b : Body) (q port : Nat) : Prop where
  long : b.qLong q = true
  spill : (b.queueOf q).spill = true
  beyond : prSumpShare (b.prof q) < (b.queueOf q).sump
  last : lastSump (b.queueOf q).spans = true
  none_ : (b.queueOf q).migr = none
  ready : b.farReady port = true

theorem Migrates.eq (h : b.Migrates q port) : b.farMigrate q port =
    (if (match b.poolFor 3 (2 + port) 1048576 with | some n => b.poolLevel n == 2 | none => false) then b
     else match b.poolReq 3 (2 + port) 1048576 with
      | (d, .ok n i) => d.setQueue q { b.queueOf q with migr := some (migrOf (b.queueOf q) port n i d.clk) }
      | (d, _) => d.count Pg.chm FAR_NOSPAN) := by
  have hgo : ¬ (¬ b.qLong q = true ∨ ¬ (b.queueOf q).spill = true ∨ (b.queueOf q).sump ≤ prSumpShare (b.prof q) ∨ ¬ lastSump (b.queueOf q).spans = true ∨
      (b.queueOf q).migr.isSome = true ∨ ¬ b.farReady port = true) := by
    rw [h.long, h.spill, h.last, h.none_, h.ready]
    simpa using h.beyond
  exact if_neg hgo

theorem Migrates.low (h : b.Migrates q port) {n : Nat} (hn : b.poolFor 3 (2 + port) 1048576 = some n) (hl : b.poolLevel n = 2) : b.farMigrate q port = b := by
  rw [h.eq, hn]
  dsimp only
  rw [if_pos (beq_iff_eq.mpr hl)]

theorem Migrates.starts (h : b.Migrates q port) {n i : Nat} (hn : b.poolFor 3 (2 + port) 1048576 = some n) (hl : b.poolLevel n ≠ 2)
    (hr : b.poolReq 3 (2 + port) 1048576 = (c, .ok n i)) :
    b.farMigrate q port = c.setQueue q { b.queueOf q with migr := some (migrOf (b.queueOf q) port n i c.clk) } := by
  rw [h.eq, hn, hr]
  dsimp only
  rw [if_neg (by simpa using hl)]

theorem Migrates.noPool (h : b.Migrates q port) (hn : b.poolFor 3 (2 + port) 1048576 = none) : b.farMigrate q port = b.count Pg.chm FAR_NOSPAN := by
  have hr : b.poolReq 3 (2 + port) 1048576 = (b, .noPool) := by rw [poolReq, hn]
  rw [h.eq, hn, hr]
  rfl

/-- The first of the 256 spans to move is there. -/
theorem lastSump_first {l : List Span} (h : lastSump l = true) : ∃ s : Span, (l.drop (l.length - 256)).head?.map (·.seq) = some s.seq := by
  unfold lastSump at h
  rw [Bool.and_eq_true, decide_eq_true_eq] at h
  have hlen : (l.drop (l.length - 256)).length = 256 := by rw [List.length_drop]; omega
  cases hd : l.drop (l.length - 256) with
  | nil =>
    rw [hd] at hlen
    nomatch hlen
  | cons s t => exact ⟨s, rfl⟩

theorem Migrates.starts_spec (h : b.Migrates q port) {n i : Nat} (hn : b.poolFor 3 (2 + port) 1048576 = some n) (hl : b.poolLevel n ≠ 2)
    (hr : b.poolReq 3 (2 + port) 1048576 = (c, .ok n i)) (hi : i ∈ c.allocOf n) (hclk : c.clk = b.clk) :
    ∃ m : Migr, ((b.farMigrate q port).queueOf q).migr = some m ∧ m.port = port ∧ m.pool = n ∧ m.buf ∈ (b.farMigrate q port).allocOf n ∧ m.since = b.clk ∧
      some m.first = ((b.queueOf q).spans.drop ((b.queueOf q).spans.length - 256)).head?.map (·.seq) ∧
      ((b.farMigrate q port).queueOf q).spans = (b.queueOf q).spans ∧ ((b.farMigrate q port).queueOf q).head = (b.queueOf q).head ∧
      ((b.farMigrate q port).queueOf q).tail = (b.queueOf q).tail := by
  obtain ⟨s, hs⟩ := lastSump_first h.last
  rw [h.starts hn hl hr]
  obtain ⟨k, hk, -⟩ := queueOf_setQueue c q { b.queueOf q with migr := some (migrOf (b.queueOf q) port n i c.clk) }
  have halloc := (c.setQueue_rest q { b.queueOf q with migr := some (migrOf (b.queueOf q) port n i c.clk) }).2.1
  have hfirst : (migrOf (b.queueOf q) port n i c.clk).first = s.seq := by rw [migrOf, hs]; rfl
  refine ⟨migrOf (b.queueOf q) port n i c.clk, ?_⟩
  rw [hk, hs, hfirst]
  refine ⟨rfl, rfl, rfl, ?_, hclk, rfl, rfl, rfl, rfl⟩
  rw [allocOf, halloc]
  exact hi

/-! The copy (R335). -/

/-- A piece copied leaves the head and the tail of its queue. -/
theorem copyPiece_queue (p base gen i : Nat) (s : Span) : ((b.copyPiece q p base gen i s).1.queueOf q).head = (b.queueOf q).head ∧
    ((b.copyPiece q p base gen i s).1.queueOf q).tail = (b.queueOf q).tail := by
  have hread : ∀ (d : Body) port a n k, (d.sumpRead port a n).1.queueOf k = d.queueOf k := fun d port a n k =>
    lines_queueOf (lines_of_hold (hold_sumpRead d port a n)) k
  have hwrite : ∀ (d : Body) p a l k, (d.farWrite p a l).queueOf k = d.queueOf k := fun d p a l k => lines_queueOf (lines_of_hold (hold_farWrite d p a l)) k
  have harm : ∀ d : Body, ((if (d.queueOf q).sumpUeArm then d.setQueue q { d.queueOf q with sumpUeArm := false } else d).queueOf q).head = (d.queueOf q).head ∧
      ((if (d.queueOf q).sumpUeArm then d.setQueue q { d.queueOf q with sumpUeArm := false } else d).queueOf q).tail = (d.queueOf q).tail := fun d => by
    split_ifs
    · obtain ⟨k, hk, -⟩ := queueOf_setQueue d q { d.queueOf q with sumpUeArm := false }
      rw [hk]
      exact ⟨rfl, rfl⟩
    · exact ⟨rfl, rfl⟩
  have hlost : ∀ (d : Body) (g : Bool) a k, (if g then d.unreadable q false a s.cells else d).queueOf k = d.queueOf k := fun d g a k => by
    split_ifs
    · exact queueOf_of (queues_unreadable _ _ _ _ _ _) k
    · rfl
  have h1 := hread b 2 (b.bufAddr s.pool s.buf) 4096 q
  have h2 := hread (b.sumpRead 2 (b.bufAddr s.pool s.buf) 4096).1 2 (Sump.sideAddr (b.bufAddr s.pool s.buf)) 128 q
  unfold copyPiece
  dsimp only
  generalize b.sumpRead 2 (b.bufAddr s.pool s.buf) 4096 = r at h1 h2 ⊢
  obtain ⟨d, data, ue⟩ := r
  dsimp only at h1 h2 ⊢
  generalize d.sumpRead 2 (Sump.sideAddr (b.bufAddr s.pool s.buf)) 128 = r at h2 ⊢
  obtain ⟨e, side, ue2⟩ := r
  dsimp only at h2 ⊢
  rw [hwrite, hwrite, hlost]
  obtain ⟨h3, h4⟩ := harm e
  exact ⟨h3.trans (by rw [h2, h1]), h4.trans (by rw [h2, h1])⟩

/-- The spans of a migration copied, with the pieces that are void. -/
def copySpans (b : Body) (q p base gen : Nat) (l : List (Span × Nat)) (v : List Nat) : Body × List Nat :=
  l.foldl (fun (a : Body × List Nat) e =>
    match a.1.copyPiece q p base gen e.2 e.1 with
    | (b, v) => (b, if v then a.2 ++ [e.2] else a.2)) (b, v)

theorem copySpans_queue (p base gen : Nat) (l : List (Span × Nat)) (v : List Nat) :
    ((b.copySpans q p base gen l v).1.queueOf q).head = (b.queueOf q).head ∧ ((b.copySpans q p base gen l v).1.queueOf q).tail = (b.queueOf q).tail := by
  induction l generalizing b v with
  | nil => exact ⟨rfl, rfl⟩
  | cons e t ih =>
    obtain ⟨h1, h2⟩ := copyPiece_queue (b := b) (q := q) p base gen e.2 e.1
    obtain ⟨h3, h4⟩ := ih (b := (b.copyPiece q p base gen e.2 e.1).1) (v := if (b.copyPiece q p base gen e.2 e.1).2 then v ++ [e.2] else v)
    exact ⟨h3.trans h1, h4.trans h2⟩

/-- The far span that takes the place of the spans moved. -/
def farSpan (b : Body) (q : Nat) (m : Migr) : Span :=
  { far := true, port := m.port, pool := m.pool, buf := m.buf, cells := (((b.queueOf q).spans.filter (migrHas m)).map (·.cells)).flatten,
    void := (b.copySpans q m.port (b.bufAddr m.pool m.buf) (b.frd m.port R.FAR_LINK_GEN) ((b.queueOf q).spans.filter (migrHas m)).zipIdx []).2,
    seq := m.first, gen := b.frd m.port R.FAR_LINK_GEN }

/-- The spill section with the far span in the place of the spans moved. -/
def spansMoved (b : Body) (q : Nat) (m : Migr) : List Span :=
  (b.queueOf q).spans.takeWhile (fun s => !migrHas m s) ++ [b.farSpan q m] ++
    (b.queueOf q).spans.drop (((b.queueOf q).spans.takeWhile (fun s => !migrHas m s)).length + ((b.queueOf q).spans.filter (migrHas m)).length)

theorem farCopyComplete_eq {m : Migr} (hm : (b.queueOf q).migr = some m) (hr : b.farReady m.port = true) (hs : b.sumpServes = true)
    (hq : q ∉ b.far.heldCopy) (ha : m.port ∉ b.far.armHold) : ∃ d : Body,
    d = (b.copySpans q m.port (b.bufAddr m.pool m.buf) (b.frd m.port R.FAR_LINK_GEN) ((b.queueOf q).spans.filter (migrHas m)).zipIdx []).1 ∧
    b.farCopyComplete q = ((((b.queueOf q).spans.filter (migrHas m)).foldl (fun b s => b.spanFree false s.pool s.buf)
      (d.setQueue q { d.queueOf q with spans := b.spansMoved q m, migr := none })).count Pg.chm FAR_SPANS_WR).profCount q ADM_FAR := by
  refine ⟨_, rfl, ?_⟩
  have hgo : ¬ (¬ b.farReady m.port = true ∨ ¬ b.sumpServes = true ∨ b.far.heldCopy.contains q = true) := by
    rw [hr, hs]
    simpa using hq
  unfold farCopyComplete
  dsimp only
  rw [hm]
  dsimp only
  rw [if_neg hgo, if_neg (by simpa using ha)]
  rfl

theorem lines_farCounted (f : Body) : ((f.count Pg.chm FAR_SPANS_WR).profCount q ADM_FAR).lines = f.lines :=
  lines_of_still ((still_profCount _ _ _ _).trans (still_count _ _ _ _))

theorem lines_spansFreed (l : List Span) (f : Body) : (l.foldl (fun b s => b.spanFree false s.pool s.buf) f).lines = f.lines := by
  induction l generalizing f with
  | nil => rfl
  | cons s t ih => exact (ih _).trans (lines_spanFree _ _ _)

theorem farCopyComplete_spec {m : Migr} (hm : (b.queueOf q).migr = some m) (hr : b.farReady m.port = true) (hs : b.sumpServes = true)
    (hq : q ∉ b.far.heldCopy) (ha : m.port ∉ b.far.armHold) :
    ((b.farCopyComplete q).queueOf q).migr = none ∧
    ((b.farCopyComplete q).queueOf q).spans = b.spansMoved q m ∧
    ((b.farCopyComplete q).queueOf q).head = (b.queueOf q).head ∧ ((b.farCopyComplete q).queueOf q).tail = (b.queueOf q).tail := by
  obtain ⟨d, hd, he⟩ := farCopyComplete_eq hm hr hs hq ha
  obtain ⟨h1, h2⟩ := copySpans_queue (b := b) (q := q) m.port (b.bufAddr m.pool m.buf) (b.frd m.port R.FAR_LINK_GEN)
    ((b.queueOf q).spans.filter (migrHas m)).zipIdx []
  rw [← hd] at h1 h2
  clear hd
  obtain ⟨k, hk, -⟩ := queueOf_setQueue d q { d.queueOf q with spans := b.spansMoved q m, migr := none }
  rw [he]
  generalize setQueue d q _ = e at hk ⊢
  have hl := (lines_farCounted (q := q) _).trans (lines_spansFreed ((b.queueOf q).spans.filter (migrHas m)) e)
  rw [lines_queueOf hl, hk]
  exact ⟨rfl, rfl, h1, h2⟩

end

end Body

end Sys2Proof.Machine

namespace Sys2Proof
open Machine

/-- Settles O21: the migration taken up by what its pool answers, and the far span that the copy puts in place. -/
theorem farMigration : Obligations.FarMigration := by
  unfold Obligations.FarMigration
  intro q s hq hr
  have hok : decide (q < 1048576) = true := decide_eq_true hq
  refine ⟨fun port hport hlong hspill hshare hlast hnone hready => ?_, fun m hm hready hserve hheld harm => ?_⟩
  · have hokp : (decide (q < 1048576) && decide (port < 2)) = true := by rw [hok, decide_eq_true hport]; rfl
    have hM : s.dev.body.Migrates q port := ⟨hlong, hspill, hshare, hlast, hnone, hready⟩
    refine ⟨fun n hn hl hf => ?_, fun n hn hl => ?_, fun hn => ?_⟩
    · obtain ⟨i, c, hreq, hi, -, hoff⟩ := Body.poolReq_tier hn hf
      obtain ⟨m, h1, h2, h3, h4, h5, h6, h7, h8, h9⟩ := hM.starts_spec hn hl hreq hi (Body.offside_eq hoff).1
      refine ⟨_, m, State.body_withBody hokp hr rfl, ?_⟩
      rw [State.withBody_queueOf, State.withBody_allocOf]
      exact ⟨h1, h2, h3, h4, h5, h6, h7, h8, h9⟩
    · exact (State.body_withBody hokp hr (hM.low hn hl)).trans (by rw [State.withBody_self])
    · refine ⟨_, State.body_withBody hokp hr (hM.noPool hn), ?_, ?_⟩
      · rw [State.withBody_buf]
        rfl
      · rw [State.withBody_ctr]
        exact Body.ctr_count_same _ _ _
  · intro mine old front
    obtain ⟨h1, h2, h3, h4⟩ := Body.farCopyComplete_spec hm hready hserve hheld harm
    refine ⟨_, s.dev.body.farSpan q m, State.body_withBody hok hr rfl, ?_⟩
    rw [State.withBody_queueOf]
    exact ⟨h1, h2, rfl, rfl, rfl, rfl, rfl, h3, h4⟩

end Sys2Proof
end

section
/-! O23: admission at stage 7 (R209 to R212, R111). -/

namespace Sys2Proof.Machine

namespace Sp
variable {α : Type}

/-- A key's entry is the same where another's is put or taken out. -/
theorem find_ins_ne {m : List (Nat × α)} {k j : Nat} {v : α} (h : j ≠ k) : ((ins m k v).find? fun e => e.1 == j) = m.find? fun e => e.1 == j := by
  induction m with
  | nil => simp [ins, Ne.symm h]
  | cons e t ih =>
    rw [ins]
    split_ifs with h1 h2
    · by_cases he : e.1 = j
      · rw [List.find?_cons_of_pos (by simpa using he), List.find?_cons_of_pos (by simpa using he)]
      · rw [List.find?_cons_of_neg (by simpa using he), List.find?_cons_of_neg (by simpa using he), ih]
    · rw [List.find?_cons_of_neg (by simpa using Ne.symm h), List.find?_cons_of_neg (by simpa [h2] using Ne.symm h)]
    · rw [List.find?_cons_of_neg (by simpa using Ne.symm h)]

end Sp

namespace Body

section
variable {b c d : Body} {q pid : Nat} {p : Pkt}

theorem pkt_putPkt (i : Nat) : (b.putPkt pid p).pkt i = if i = pid then some p else b.pkt i := by
  unfold putPkt pkt
  split_ifs with h
  · rw [h, Sp.find_ins]
    rfl
  · rw [Sp.find_ins_ne h]

theorem pkt_delPkt : (b.delPkt pid).pkt pid = none := by
  unfold delPkt pkt
  rw [Sp.find_del]
  rfl

/-! The counts of a verdict, and the Echo capture (R111, R182, R484). -/

/-- What the counts and captures of a packet leave alone: buffers, packets, tables, the scheduler, and the Chamber's block registers. -/
structure Booked (b c : Body) : Prop where
  hold : c.hold = b.hold
  regs : ∀ f : Fld, f.lo < 32 → 0x80 ≤ f.off → f.off < 0x1000 → c.rd Pg.chm f = b.rd Pg.chm f

namespace Booked

theorem refl (b : Body) : Booked b b := ⟨rfl, fun _ _ _ _ => rfl⟩

theorem trans (h : Booked b c) (h' : Booked c d) : Booked b d :=
  ⟨h'.hold.trans h.hold, fun f h1 h2 h3 => (h'.regs f h1 h2 h3).trans (h.regs f h1 h2 h3)⟩

theorem of (h : Booked b c) (hh : d.hold = c.hold) (hr : d.regs = c.regs) : Booked b d :=
  h.trans ⟨hh, fun _ _ _ _ => rd_of_regs hr _ _ _ _⟩

theorem wr {pg v : Nat} {f : Fld} (h : Booked b c) (hf : f.lo < 32) (ha : f.addr pg 0 0 < Pg.chm + 0x80 ∨ Pg.chm + 0x1000 ≤ f.addr pg 0 0) :
    Booked b (c.wr pg f v) := by
  refine h.trans ⟨hold_wr _ _ _ _ _ _, fun g h1 h2 h3 => c.rd_wr_ne v hf h1 (.inl ?_)⟩
  rw [g.addr_zero Pg.chm]
  omega

theorem count {pg i n : Nat} (h : Booked b c) : Booked b (c.count pg i n) := h.of rfl rfl

theorem fire {pg n : Nat} (h : Booked b c) (hn : n < 32) (hp : pg % 0x1000 = 0) : Booked b (c.fire pg n) := by
  refine h.trans ⟨hold_fire _ _ _, fun g h1 h2 h3 => ?_⟩
  have ha : g.addr Pg.chm 0 0 = 0x900000 + g.off := g.addr_zero Pg.chm
  exact c.rd_fire hn h1 (.inl (by omega)) (by omega) (by omega) (by omega)

theorem fault {pg n : Nat} {x : FltInfo} (h : Booked b c) (hn : n < 32) (hp : pg % 0x1000 = 0) : Booked b (c.fault pg n x) := by
  refine h.trans ⟨hold_fault _ _ _ _, fun g h1 h2 h3 => ?_⟩
  have ha : g.addr Pg.chm 0 0 = 0x900000 + g.off := g.addr_zero Pg.chm
  exact c.rd_fault x hn h1 (.inl (by omega))

theorem lose {l n : Nat} (h : Booked b c) : Booked b (c.lose l n) := by
  unfold Body.lose
  refine Booked.fire ?_ (by decide) (by decide)
  exact h.of rfl rfl

theorem stat (h : Booked b c) (x : StatSt) : Booked b { c with stat := x } := h.of rfl rfl

theorem echo (h : Booked b c) (x : EchoSt) : Booked b { c with echo := x } := h.of rfl rfl

theorem foldl {α : Type} {f : Body → α → Body} (h : ∀ c x, Booked c (f c x)) (l : List α) (b : Body) : Booked b (l.foldl f b) := by
  induction l generalizing b with
  | nil => exact refl b
  | cons x t ih => exact (h b x).trans (ih _)

/-- What an access to the Sump makes of it. -/
theorem told (h : Booked b c) (hh : d.hold = c.hold) (ht : StacksTold c d) : Booked b d := by
  refine h.trans ⟨hh, fun g h1 h2 h3 => ht.regs _ _ _ _ h1 ?_ ?_⟩
  · rw [g.addr_zero Pg.chm]
    exact notedAt_big (by unfold Pg.chm; omega)
  · have hp : pageOf (Pg.chm + g.off) = Pg.chm := by unfold pageOf Pg.chm; omega
    rw [g.addr_zero Pg.chm, hp]
    decide

end Booked

theorem booked_sat {f : Fld} (h : Booked b c) (hf : f.lo < 32 ∧ f.off < 0x1000) : Booked b (c.sat Pg.stc f) := by
  refine h.wr hf.1 ?_
  rw [f.addr_zero]
  exact .inr (by unfold Pg.stc Pg.chm; omega)

theorem booked_statCheck (k : Nat) : Booked b (b.statCheck k) := by
  have h1 : Booked b (b.mirrored.2.setLine k {}) := (Booked.refl b).of rfl rfl
  unfold statCheck
  dsimp only
  by_cases h : b.stat.bad.contains k = true ∧ b.statLine k ≠ {}
  · rw [if_pos h]
    refine Booked.fault (Booked.fire (booked_sat ?_ (by decide)) (by decide) (by decide)) (by decide) (by decide)
    exact ((h1.stat _).lose).lose
  · rw [if_neg h]
    exact .refl b

theorem booked_pairAdd (k m n : Nat) : Booked b (b.pairAdd k m n) := by
  have h1 := (Booked.refl b).told (hold_lineError b 3 (Sump.pairAddr k / 64 * 64)) (told_lineError 3 _)
  have hw : ∀ (e : Body) a l, Booked e (e.sumpWrite 3 a l) := fun e a l => (Booked.refl e).told (hold_sumpWrite e 3 a l) (told_sumpWrite 3 a l)
  have h2 : ∀ (x : Bool) (e : Body) s i, Booked e (if x then e.hbmCount s i else e) := fun x e s i => by
    split_ifs
    · exact (Booked.refl e).count
    · exact .refl e
  unfold pairAdd
  dsimp only
  exact (h1.trans (h2 _ _ _ _)).trans (hw _ _ _)

theorem booked_statMove (k : Nat) (x : Delta) : Booked b (b.statMove k x) := by
  unfold statMove
  exact ((((Booked.refl b).of (d := b.setLine k _) rfl rfl).trans (booked_pairAdd _ _ _)).of rfl rfl).of rfl rfl

theorem booked_statWriteback (k : Nat) : Booked b (b.statWriteback k) := by
  unfold statWriteback
  dsimp only
  split_ifs
  · exact .refl b
  · exact booked_statCheck k
  · exact (booked_sat ((booked_statCheck k).trans (booked_statMove _ _)) (by decide)).of rfl rfl

theorem booked_statAdd (k n : Nat) : Booked b (b.statAdd k n) := by
  have hmiss : ∀ (x : Bool) (e : Body), Booked e (if x then e.sat Pg.stc R.STC_MISS else e) := fun x e => by
    split_ifs
    · exact booked_sat (.refl e) (by decide)
    · exact .refl e
  have hfull : ∀ (x : Bool) (e : Body), Booked e (if x then (e.free 23).2.statWriteback (((e.free 23).2.stat.lines.getD (e.free 23).1 (0, {})).1) else e) := fun x e => by
    split_ifs
    · exact ((Booked.refl e).of (d := (e.free 23).2) rfl rfl).trans (booked_statWriteback _)
    · exact .refl e
  have hlast : ∀ (x : Prop) [Decidable x] (e : Body) y, Booked e (if x then (e.setLine k y).statWriteback k else e.setLine k y) := fun x _ e y => by
    have h := (Booked.refl e).of (d := e.setLine k y) rfl rfl
    split_ifs
    · exact h.trans (booked_statWriteback _)
    · exact h
  unfold statAdd
  exact ((((((Booked.refl b).of (d := (b.ledIn ledStatPkts 1).ledIn ledStatBytes n) rfl rfl).trans (booked_statCheck k)).trans (hmiss _ _)).trans
    (hfull _ _)).trans (hlast _ _ _))

theorem parser_page (g : Nat) : Pg.parser g % 0x1000 = 0 := by unfold Pg.parser Pg.gallery; omega

theorem booked_bookGood (p : Pkt) : Booked b (b.bookGood p) := by
  unfold bookGood
  refine Booked.trans (.foldl (fun e x => ?_) p.cnts b) (.foldl (fun e k => booked_statAdd _ _) _ _)
  dsimp only
  split_ifs with h
  · exact (Booked.refl e).count.fire (by decide) (by rw [h.1]; exact parser_page _)
  · exact (Booked.refl e).count

theorem booked_bookBad (p : Pkt) : Booked b (b.bookBad p) := by
  unfold bookBad
  split
  · exact (Booked.refl b).count
  · exact (Booked.refl b).count
  · split_ifs
    · exact .refl b
    · exact (Booked.refl b).count
  · exact (Booked.refl b).count
  · exact .refl b

theorem booked_echoRecord (l : List Byte) : Booked b (b.echoRecord l) := by
  have h0 : Booked b b.echoAccrue := (Booked.refl b).of rfl rfl
  unfold echoRecord fireLasting
  dsimp only
  split_ifs
  · exact h0.count
  · exact h0.count.fire (by decide) (by decide)
  · refine Booked.count (Booked.wr ?_ (by decide) (by decide))
    exact (h0.echo _).told (hold_sumpWrite _ _ _ _) (told_sumpWrite _ _ _)

theorem booked_echoIn (p : Pkt) (bad adm : Bool) : Booked b (b.echoIn p bad adm) := by
  have hs : Booked b (b.echoSample p.inPort).1 := by
    unfold echoSample
    dsimp only
    split_ifs
    · exact .refl b
    · exact (Booked.refl b).of rfl rfl
    · exact (Booked.refl b).of rfl rfl
    · exact (Booked.refl b).of rfl rfl
  unfold echoIn
  split
  · exact .refl b
  · dsimp only
    split
    · exact hs
    · exact hs.trans (booked_echoRecord _)

/-! Stage 7 (R209, R210). -/

/-- A packet that leaves stage 7 unnoticed by any queue: its number is gone, and the queues stand as they stood. -/
structure Gone (pid : Nat) (b c : Body) : Prop where
  stage7 : c.pipe.stage7 = b.pipe.stage7.erase pid
  pkt : c.pkt pid = none
  queues : c.buf.queues = b.buf.queues

/-- The packet taken out of stage 7. -/
def stage7Left (b : Body) (pid : Nat) : Body := { b with pipe := { b.pipe with stage7 := b.pipe.stage7.erase pid } }

theorem release_gone (h : Booked (b.stage7Left pid) c) (ks : List (Nat × Nat)) : Gone pid b ((c.release pid p).chmChanged ks) := by
  have hs := still_eq (still_chmChanged (c.release pid p) ks)
  obtain ⟨hbuf, hpipe, -⟩ := hold_eq h.hold
  obtain ⟨l, n, hf⟩ := freeCells_only c ((qcells p pid).map (·.cell))
  refine ⟨?_, ?_, ?_⟩
  · rw [hs.2.1, release, hf]
    change c.pipe.stage7 = _
    rw [hpipe]
    rfl
  · rw [pkt_of hs.2.1]
    exact pkt_delPkt
  · rw [hs.1, release, hf]
    change c.buf.queues = _
    rw [hbuf]
    rfl

/-- What stage 7 does with a packet that was not admitted before. -/
def stage7Next (b : Body) (pid : Nat) (p : Pkt) : Body :=
  let good := p.verdict == .good
  let key := [(p.inPort, p.pfcPrio)]
  let pipe := ledPipe p.gal
  match p.disp with
  | .lost _ => (((b.lose pipe 1).echoIn p (!good) false).release pid p).chmChanged key
  | .drop =>
    let b := if good then b.bookGood p else if p.copy then b else b.bookBad p
    let b := if p.copy then b else b.ledOut pipe 1
    ((b.echoIn p (!good) false).release pid p).chmChanged key
  | .enqueue =>
    let b := if good then b.bookGood p else if p.copy then b else b.bookBad p
    let b := if p.copy then b else b.ledOut pipe 1
    if ¬ good then ((b.echoIn p true false).release pid p).chmChanged key
    else
      match b.admitPkt pid p with
      | (b, true) => (b.echoIn p false true).chmChanged key
      | (b, false) => ((b.echoIn p false false).release pid p).chmChanged key

variable {src : Nat}

/-- The oldest packet of a source at stage 7. -/
structure AtStage7 (b : Body) (src pid : Nat) (p : Pkt) : Prop where
  find : b.pipe.stage7.find? (fun i => match b.pkt i with | some p => p.src == src | none => false) = some pid
  pkt : b.pkt pid = some p

theorem AtStage7.waits (h : b.AtStage7 src pid p) (hv : p.verdict = .unknown) : b.admission src = b := by
  unfold admission
  split
  · rfl
  · next i hi =>
    obtain rfl := Option.some.inj (hi.symm.trans h.find)
    rw [h.pkt]
    exact if_pos hv

theorem AtStage7.next (h : b.AtStage7 src pid p) (hv : p.verdict ≠ .unknown) (ha : p.admitted = false) :
    b.admission src = (b.stage7Left pid).stage7Next pid p := by
  unfold admission
  split
  · next hn => nomatch hn.symm.trans h.find
  · next i hi =>
    obtain rfl := Option.some.inj (hi.symm.trans h.find)
    rw [h.pkt]
    dsimp only
    rw [if_neg hv, if_neg (by rw [ha]; decide)]
    rfl

/-- The counts of a packet at stage 7. -/
def stage7Booked (b : Body) (p : Pkt) : Body :=
  let b := if p.verdict == .good then b.bookGood p else if p.copy then b else b.bookBad p
  if p.copy then b else b.ledOut (ledPipe p.gal) 1

theorem booked_stage7 (p : Pkt) : Booked b (b.stage7Booked p) := by
  have h1 : ∀ e : Body, Booked e (if p.verdict == .good then e.bookGood p else if p.copy then e else e.bookBad p) := fun e => by
    split_ifs
    · exact booked_bookGood p
    · exact .refl e
    · exact booked_bookBad p
  have h2 : ∀ e : Body, Booked e (if p.copy then e else e.ledOut (ledPipe p.gal) 1) := fun e => by
    split_ifs
    · exact .refl e
    · exact (Booked.refl e).of rfl rfl
  exact (h1 b).trans (h2 _)

theorem stage7Next_drop (hd : p.disp = .drop) : b.stage7Next pid p =
    (((b.stage7Booked p).echoIn p (!(p.verdict == .good)) false).release pid p).chmChanged [(p.inPort, p.pfcPrio)] := by
  unfold stage7Next
  rw [hd]
  rfl

theorem stage7Next_enqueue (hd : p.disp = .enqueue) (hv : p.verdict = .good) : b.stage7Next pid p =
    match (b.stage7Booked p).admitPkt pid p with
    | (b, true) => (b.echoIn p false true).chmChanged [(p.inPort, p.pfcPrio)]
    | (b, false) => ((b.echoIn p false false).release pid p).chmChanged [(p.inPort, p.pfcPrio)] := by
  have hg : (p.verdict == .good) = true := by rw [hv]; rfl
  unfold stage7Next
  rw [hd]
  dsimp only
  rw [if_neg (not_not_intro hg)]
  rfl

/-- The colour that a packet's depth is judged by. -/
def admColour (p : Pkt) : Nat := if p.colour = 3 then 0 else p.colour

/-- A packet whose profile's depth does not take it is refused, and counted. -/
theorem admitPkt_deep (hv : prValid (b.prof p.queue) = true)
    (hm : prMax (b.prof p.queue) (admColour p) < ((b.queueOf p.queue).depth + cellsOf p.len + 15) / 16) :
    ∃ i, b.admitPkt pid p = (b.profCount p.queue i, false) := by
  refine ⟨ADM_DROP_MAX + admColour p, ?_⟩
  have hd : b.admDecide p.queue p.colour (cellsOf p.len) = (b, .drop (ADM_DROP_MAX + admColour p)) := by
    unfold admDecide
    dsimp only
    rw [if_neg (not_not_intro hv)]
    exact if_pos hm
  unfold admitPkt
  dsimp only
  rw [hd]

/-- A packet that fits its queue's share and the SHARED class. -/
structure Fits (b : Body) (p : Pkt) : Prop where
  valid : prValid (b.prof p.queue) = true
  deep : ((b.queueOf p.queue).depth + cellsOf p.len + 15) / 16 ≤ prMax (b.prof p.queue) (admColour p)
  spill : (b.queueOf p.queue).spill = false
  share : (b.queueOf p.queue).chm + cellsOf p.len ≤ prShare (b.prof p.queue)
  shared : (cellsOf p.len : Int) ≤ b.clsFree .shared

theorem Fits.decide (h : b.Fits p) : b.admDecide p.queue p.colour (cellsOf p.len) = (b, .charge .shared) := by
  have hdeep : ¬ prMax (b.prof p.queue) (if p.colour = 3 then 0 else p.colour) < ((b.queueOf p.queue).depth + cellsOf p.len + 15) / 16 := Nat.not_lt.mpr h.deep
  unfold admDecide
  dsimp only
  rw [if_neg (not_not_intro h.valid), if_neg hdeep, if_neg (by rw [h.spill]; decide), if_pos h.share, if_pos h.shared]

/-- The packet as its queue holds it. -/
def admittedPkt (b : Body) (p : Pkt) : Pkt :=
  { p with admitted := true, chkBad := p.chkBad || (b.queueOf p.queue).chkArm, linkBad := (b.queueOf p.queue).linkArm }

theorem Fits.accepted (h : b.Fits p) : ∃ e n, OnlyCells (b.putPkt pid (b.admittedPkt p)) e ∧ b.admitPkt pid p =
    (((((e.setQueue p.queue { b.queueOf p.queue with chkArm := false, linkArm := false, head := (b.queueOf p.queue).head ++ qcells p pid }).profCount p.queue
      ADM_PKTS).profCount p.queue ADM_CELLS n).ledIn ledQueue 1).joinQueue p.queue, true) := by
  refine ⟨_, cellsOf p.len, chargeCells_only _ ((qcells p pid).map (·.cell)) .shared, ?_⟩
  have hs : ¬ (b.queueOf p.queue).spill = true := by rw [h.spill]; decide
  unfold admitPkt
  dsimp only
  rw [h.decide]
  dsimp only
  rw [if_neg hs]
  rfl

/-- A queue that does not spill does not join. -/
theorem tryJoin_plain (h : (b.queueOf q).spill = false) : b.tryJoin q = b := by
  unfold tryJoin
  refine if_neg fun hj => ?_
  rw [h] at hj
  nomatch hj.1

theorem joinQueue_plain (hs : (b.queueOf q).spill = false) (h : ∀ x ∈ (b.queueOf q).head, ∃ p, b.pkt x.pid = some p ∧ p.hole = false) : b.joinQueue q = b := by
  rw [joinQueue, trimHoles_none h, tryJoin_plain hs, trimHoles_none h, tryJoin_plain hs]

theorem mem_qcells {x : QCell} (h : x ∈ qcells p pid) : x.pid = pid := by
  obtain ⟨i, -, rfl⟩ := List.mem_map.mp h
  rfl

/-- A packet that fits is behind the head of its queue. -/
theorem Fits.admitted (h : b.Fits p) (hh : p.hole = false) (hx : ∀ x ∈ (b.queueOf p.queue).head, ∃ p', b.pkt x.pid = some p' ∧ p'.hole = false) :
    ∃ c, b.admitPkt pid p = (c, true) ∧ c.pipe.stage7 = b.pipe.stage7 ∧ (c.queueOf p.queue).head = (b.queueOf p.queue).head ++ qcells p pid ∧
      (c.queueOf p.queue).tail = (b.queueOf p.queue).tail ∧ c.pkt pid = some (b.admittedPkt p) ∧ ∀ k, k ≠ p.queue → c.queueOf k = b.queueOf k := by
  obtain ⟨e, n, he, hadm⟩ := h.accepted (pid := pid)
  have hel := OnlyCells.lines he
  obtain ⟨m, hm, hother⟩ := queueOf_setQueue e p.queue { b.queueOf p.queue with chkArm := false, linkArm := false, head := (b.queueOf p.queue).head ++ qcells p pid }
  have hpipe := (e.setQueue_rest p.queue { b.queueOf p.queue with chkArm := false, linkArm := false, head := (b.queueOf p.queue).head ++ qcells p pid }).2.2.2.2.2.1
  generalize setQueue e p.queue _ = f at hadm hm hother hpipe
  have hpkt : ∀ i, f.pkt i = if i = pid then some (b.admittedPkt p) else b.pkt i := fun i => by
    rw [pkt_of hpipe, lines_pkt hel, pkt_putPkt]
  have hcounts : ∀ n, (((f.profCount p.queue ADM_PKTS).profCount p.queue ADM_CELLS n).ledIn ledQueue 1).still = f.still := fun n => by
    rw [still_ledIn, still_profCount, still_profCount]
  have hg := hcounts n
  generalize ((f.profCount p.queue ADM_PKTS).profCount p.queue ADM_CELLS n).ledIn ledQueue 1 = g at hadm hg
  have hgl := lines_of_still hg
  have hgp : ∀ i, g.pkt i = if i = pid then some (b.admittedPkt p) else b.pkt i := fun i => by rw [lines_pkt hgl, hpkt]
  have hgq : g.queueOf p.queue = { b.queueOf p.queue with
      chkArm := false, linkArm := false, head := (b.queueOf p.queue).head ++ qcells p pid, bucketAt := m } := (lines_queueOf hgl _).trans hm
  have hjoin : g.joinQueue p.queue = g := by
    refine joinQueue_plain (by rw [hgq]; exact h.spill) fun x hx' => ?_
    rw [hgq] at hx'
    rw [hgp]
    split_ifs with hxp
    · exact ⟨_, rfl, hh⟩
    · rcases List.mem_append.mp hx' with hx' | hx'
      · exact hx x hx'
      · exact absurd (mem_qcells hx') hxp
  rw [hjoin] at hadm
  refine ⟨g, hadm, ?_, by rw [hgq], by rw [hgq], by rw [hgp, if_pos rfl], fun k hk => ?_⟩
  · rw [(lines_eq hgl).2.1, hpipe, (lines_eq hel).2.1]
    rfl
  · rw [lines_queueOf hgl, hother k hk, lines_queueOf hel]
    rfl

end

end Body

end Sys2Proof.Machine

namespace Sys2Proof
open Machine

/-- Settles O23: each decision of stage 7, from the packet's verdict, its disposition and its queue. -/
theorem admissionDecides : Obligations.AdmissionDecides := by
  unfold Obligations.AdmissionDecides
  intro src pid p s hsrc hr b x pr n col hfind hpkt
  have hok : decide (src < 528) = true := decide_eq_true hsrc
  have hat : s.dev.body.AtStage7 src pid p := ⟨hfind, hpkt⟩
  have hbook := Body.booked_stage7 (b := s.dev.body.stage7Left pid) p
  have hhold := Body.hold_eq hbook.hold
  have hgone : ∀ c : Body, s.dev.body.admission src = c → Body.Gone pid s.dev.body c → ∃ t, exec (.admission src) s = .next t ∧
      t.dev.body.pipe.stage7 = s.dev.body.pipe.stage7.erase pid ∧ t.dev.body.pkt pid = none ∧ t.dev.body.buf.queues = s.dev.body.buf.queues := fun c hc hg => by
    refine ⟨_, State.body_withBody hok hr hc, ?_⟩
    rw [(by simp : (s.withBody c).dev.body.pipe = c.pipe), State.withBody_buf, Body.pkt_of (by simp : (s.withBody c).dev.body.pipe = c.pipe)]
    exact ⟨hg.stage7, hg.pkt, hg.queues⟩
  have hprof : ((s.dev.body.stage7Left pid).stage7Booked p).prof p.queue = s.dev.body.prof p.queue := by
    rw [Body.prof, Body.qProf, Body.ent_of_tbls hhold.2.2.2.2.2, Body.ent_of_tbls hhold.2.2.2.2.2]
    rfl
  have hqueue : ∀ k, ((s.dev.body.stage7Left pid).stage7Booked p).queueOf k = s.dev.body.queueOf k := fun k =>
    Body.queueOf_of (congrArg BufSt.queues hhold.1) k
  refine ⟨fun hv => ?_, fun hv ha hd => ?_, fun hv ha hd hval hdeep => ?_, fun hv ha hd hval hdeep hspill hshare hfree hhole hx => ?_⟩
  · exact (State.body_withBody hok hr (hat.waits hv)).trans (by rw [State.withBody_self])
  · exact hgone _ ((hat.next hv ha).trans (Body.stage7Next_drop hd)) (Body.release_gone (hbook.trans (Body.booked_echoIn _ _ _)) _)
  · have hv' : p.verdict ≠ .unknown := by rw [hv]; decide
    obtain ⟨i, hi⟩ := Body.admitPkt_deep (b := (s.dev.body.stage7Left pid).stage7Booked p) (pid := pid) (by rw [hprof]; exact hval) (by
      rw [hprof, hqueue]
      exact hdeep)
    refine hgone _ ((hat.next hv' ha).trans ((Body.stage7Next_enqueue hd hv).trans (by rw [hi]))) (Body.release_gone ?_ _)
    exact (hbook.trans ((Body.Booked.refl _).count)).trans (Body.booked_echoIn _ _ _)
  · have hv' : p.verdict ≠ .unknown := by rw [hv]; decide
    have hfits : ((s.dev.body.stage7Left pid).stage7Booked p).Fits p := by
      refine ⟨by rw [hprof]; exact hval, by rw [hprof, hqueue]; exact hdeep, by rw [hqueue]; exact hspill, by rw [hprof, hqueue]; exact hshare, ?_⟩
      rw [Body.clsFree, Body.classUsed, hbook.regs _ (by decide) (by decide) (by decide), congrArg BufSt.cells hhold.1]
      exact hfree
    have hp : ∀ i, ((s.dev.body.stage7Left pid).stage7Booked p).pkt i = s.dev.body.pkt i := fun i => Body.pkt_of hhold.2.1 i
    obtain ⟨c, hc, h1, h2, h3, h4, h5⟩ := hfits.admitted (pid := pid) hhole (by
      rw [hqueue]
      exact fun y hy => by rw [hp]; exact hx y hy)
    have hend : s.dev.body.admission src = (c.echoIn p false true).chmChanged [(p.inPort, p.pfcPrio)] :=
      (hat.next hv' ha).trans ((Body.stage7Next_enqueue hd hv).trans (by rw [hc]))
    have he := (Body.hold_of_still (Body.still_chmChanged (c.echoIn p false true) [(p.inPort, p.pfcPrio)])).trans (Body.booked_echoIn p false true).hold
    refine ⟨_, State.body_withBody hok hr hend, ?_⟩
    generalize (c.echoIn p false true).chmChanged [(p.inPort, p.pfcPrio)] = e at he
    obtain ⟨hbuf, hpipe, -⟩ := Body.hold_eq he
    have hq : ∀ k, e.queueOf k = c.queueOf k := Body.queueOf_of (congrArg BufSt.queues hbuf)
    simp only [State.withBody_queueOf]
    rw [(by simp : (s.withBody e).dev.body.pipe = e.pipe), Body.pkt_of (by simp : (s.withBody e).dev.body.pipe = e.pipe), Body.pkt_of hpipe, hpipe, hq]
    rw [hqueue] at h2 h3
    refine ⟨h1.trans (congrArg PipeSt.stage7 hhold.2.1), h2, h3, ⟨_, h4, rfl, rfl⟩, fun k hk => ?_⟩
    rw [hq, h5 k hk, hqueue]

end Sys2Proof
end

section
/-! O24: decisions of the Scheduler, refill boundaries and injection (R237 to R260). -/

namespace Sys2Proof.Machine

namespace Body

section
variable {b c d : Body} {p q g : Nat}

/-- What eligibility brought up to date changes: start tags, and the list of those eligible. -/
theorem schSync_rest : ∃ s e, b.schSync = { b with sch := { b.sch with s := s, elig := e } } := by
  have key : ∀ (l : List Nat) (c : Body), (∃ s, c = { b with sch := { b.sch with s := s } }) →
      ∃ s, l.foldl (fun b k => b.wakeTag k) c = { b with sch := { b.sch with s := s } } := by
    intro l
    induction l with
    | nil => exact fun c h => h
    | cons k t ih =>
      rintro c ⟨s, rfl⟩
      exact ih _ ⟨_, rfl⟩
  obtain ⟨s, hs⟩ := key (b.eligKeys.filter fun k => !b.sch.elig.contains k) b ⟨b.sch.s, rfl⟩
  unfold schSync
  dsimp only
  rw [hs]
  exact ⟨s, _, rfl⟩

/-- Where no error is armed, the nodes read as they are. -/
theorem readNodes_none (h1 : b.sch.armState = []) (h2 : b.sch.armCfg = []) (l : List (Nat × Nat)) : b.readNodes l = b := by
  unfold readNodes
  induction l with
  | nil => rfl
  | cons n t ih =>
    have hs : (if b.sch.armState.contains (nodeKey n.1 n.2) then b.stateErr n.1 n.2 else b) = b := if_neg (by simp [h1])
    have hc : (if b.sch.armCfg.contains (nodeKey n.1 n.2) then b.cfgErr n.1 n.2 else b) = b := if_neg (by simp [h2])
    rw [List.foldl_cons, hs, hc]
    exact ih

/-! The child chosen (R240). -/

/-- The rank by which a child is chosen: its level, then its start tag from the level's virtual time. -/
def childRank (b : Body) (parent l i : Nat) : Nat × Nat :=
  ((b.node l i).prio, (b.tagOfNode (nodeKey l i) + 2 ^ 48 - b.vOf parent (b.node l i).prio) % 2 ^ 48)

/-- Whether one rank is no later than another. -/
def rankLe (x y : Nat × Nat) : Prop := x.1 < y.1 ∨ (x.1 = y.1 ∧ x.2 ≤ y.2)

theorem rankLe_trans {x y z : Nat × Nat} (h : rankLe x y) (h' : rankLe y z) : rankLe x z := by
  unfold rankLe at *
  omega

/-- The child chosen is one of them, and none ranks before it. -/
theorem choose_spec {parent l i : Nat} {cs : List Nat} (h : b.choose parent l cs = some i) :
    i ∈ cs ∧ ∀ k ∈ cs, rankLe (b.childRank parent l i) (b.childRank parent l k) := by
  have key : ∀ (cs : List Nat) (a : Option Nat) (i : Nat), cs.foldl (fun a i => match a with
        | none => some i
        | some j => if (b.childRank parent l i).1 < (b.childRank parent l j).1 ∨
            ((b.childRank parent l i).1 = (b.childRank parent l j).1 ∧ (b.childRank parent l i).2 < (b.childRank parent l j).2) then some i else a) a = some i →
      (a = some i ∨ i ∈ cs) ∧ (∀ j, a = some j → rankLe (b.childRank parent l i) (b.childRank parent l j)) ∧
        ∀ k ∈ cs, rankLe (b.childRank parent l i) (b.childRank parent l k) := by
    intro cs
    induction cs with
    | nil =>
      rintro a i rfl
      exact ⟨.inl rfl, fun j hj => by obtain rfl := Option.some.inj hj; exact .inr ⟨rfl, Nat.le_refl _⟩, fun k hk => by nomatch hk⟩
    | cons x t ih =>
      intro a i h
      rw [List.foldl_cons] at h
      obtain ⟨h1, h2, h3⟩ := ih _ i h
      cases a with
      | none =>
        have hx := h2 x rfl
        refine ⟨.inr ?_, fun j hj => (nomatch hj), fun k hk => ?_⟩
        · rcases h1 with h1 | h1
          · exact Option.some.inj h1 ▸ List.mem_cons_self
          · exact List.mem_cons_of_mem _ h1
        · rcases List.mem_cons.mp hk with rfl | hk
          · exact hx
          · exact h3 k hk
      | some j =>
        dsimp only at h1 h2
        split_ifs at h1 h2 with hc
        · have hx := h2 x rfl
          refine ⟨.inr ?_, fun j' hj' => ?_, fun k hk => ?_⟩
          · rcases h1 with h1 | h1
            · exact Option.some.inj h1 ▸ List.mem_cons_self
            · exact List.mem_cons_of_mem _ h1
          · obtain rfl := Option.some.inj hj'
            exact rankLe_trans hx (by unfold rankLe; omega)
          · rcases List.mem_cons.mp hk with rfl | hk
            · exact hx
            · exact h3 k hk
        · have hj := h2 j rfl
          refine ⟨h1.imp id (List.mem_cons_of_mem _), h2, fun k hk => ?_⟩
          rcases List.mem_cons.mp hk with rfl | hk
          · exact rankLe_trans hj (by unfold rankLe; omega)
          · exact h3 k hk
  obtain ⟨h1, -, h3⟩ := key cs none i h
  exact ⟨h1.resolve_left fun h => (nomatch h), h3⟩

/-- What an eligible port would send: a queue of the subscriber node that the walk came to, that none of its siblings precedes (R240). -/
theorem portElig_spec {v u i pid : Nat} {cs : List QCell} (h : b.portElig p = some (v, u, i, pid, cs)) :
    i ∈ b.eligQ ∧ i / 8 = u ∧ ∀ k ∈ b.eligQ, k / 8 = u → rankLe (b.childRank (nodeKey 1 u) 0 i) (b.childRank (nodeKey 1 u) 0 k) := by
  unfold portElig at h
  split at h
  · nomatch h
  · split at h
    · nomatch h
    · next v' s' q' hw =>
      split at h
      · nomatch h
      · obtain ⟨-, h⟩ := Option.ite_none_right_eq_some.mp h
        simp only [Option.some.injEq, Prod.mk.injEq] at h
        obtain ⟨rfl, rfl, rfl, -, -⟩ := h
        unfold walk at hw
        split at hw
        · nomatch hw
        · split at hw
          · nomatch hw
          · obtain ⟨q0, hq, he⟩ := Option.map_eq_some_iff.mp hw
            simp only [Prod.mk.injEq] at he
            obtain ⟨-, rfl, rfl⟩ := he
            obtain ⟨hm, hmin⟩ := choose_spec hq
            have hm := List.mem_filter.mp hm
            exact ⟨hm.1, beq_iff_eq.mp hm.2, fun k hk hku => hmin k (List.mem_filter.mpr ⟨hk, beq_iff_eq.mpr hku⟩)⟩

/-- A port of a Gallery that is not active is not eligible. -/
theorem portElig_resting (h : 4 ≤ b.galState (portGal p)) : b.portElig p = none := by
  unfold portElig
  refine if_pos (.inl ?_)
  unfold galActive
  rw [decide_eq_false (by omega)]
  simp

/-! A decision made (R238, R240). -/

/-- The engine as a decision for a port finds it. -/
def decisionAt (b : Body) (p : Nat) : Body := b.schSync.svyBump 4 (portGal p) 0 1

/-- The front packet of the chosen queue handed to egress. -/
def handOver (b : Body) (p v s q pid : Nat) (cs : List QCell) : Body :=
  let b := ((b.slotServe p (b.slotRequests (portGal p))).slotClock (portGal p) (b.slotRequests (portGal p)).length).galBusy (portGal p)
  let len := match b.pkt pid with | some x => schedLen x | none => 0
  let late := b.isLate q
  let b := (((b.serve 0 q len).serve 1 s len).serve 2 v len).servePort p len
  let b := (b.takeFront q cs.length).ledOut ledQueue 1
  let b := b.ledIn (ledEgress (portGal p)) 1
  let e : EgrPkt := { slice := portGal p, port := p, pid := pid, queue := q, cells := cs }
  let b := { b with sch := { b.sch with egr := b.sch.egr ++ [e] } }
  (b.settle q late (b.pfcKeys cs)).schSync

theorem schedulerDecision_eq (hp : p < 529) (h1 : b.sch.armState = []) (h2 : b.sch.armCfg = []) : b.schedulerDecision p =
    match (b.decisionAt p).portElig p with
    | none =>
      if ¬ (b.decisionAt p).galActive (portGal p) ∧ (b.decisionAt p).eligQ.any (fun q => (b.decisionAt p).attached 0 q == some p) then
        (b.decisionAt p).wakeRequest (portGal p)
      else if (b.decisionAt p).slotRequests (portGal p) = [] then ((b.decisionAt p).discardSlot p).schSync
      else b.decisionAt p
    | some (v, s, q, pid, cs) =>
      if ¬ (b.decisionAt p).slotTurn p ((b.decisionAt p).slotRequests (portGal p)) then b.decisionAt p
      else (b.decisionAt p).handOver p v s q pid cs := by
  unfold schedulerDecision
  rw [if_neg (by omega)]
  dsimp only
  rw [readNodes_none h1 h2]
  rfl

theorem decisionAt_rest : ∃ s e v, b.decisionAt p = { b with sch := { b.sch with s := s, elig := e }, svy := v } := by
  obtain ⟨s, e, h⟩ := schSync_rest (b := b)
  exact ⟨s, e, _, by rw [decisionAt, h]; rfl⟩

/-- What a decision's bookkeeping leaves alone. -/
structure SchHeld (b c : Body) : Prop where
  egr : c.sch.egr = b.sch.egr
  turn : c.sch.turn = b.sch.turn
  tbls : c.tbls = b.tbls
  mem : c.mem = b.mem
  ctrs : ∀ i < 0x1000, c.ctr Pg.sch i = b.ctr Pg.sch i

namespace SchHeld

theorem refl (b : Body) : SchHeld b b := ⟨rfl, rfl, rfl, rfl, fun _ _ => rfl⟩

theorem trans (h : SchHeld b c) (h' : SchHeld c d) : SchHeld b d :=
  ⟨h'.egr.trans h.egr, h'.turn.trans h.turn, h'.tbls.trans h.tbls, h'.mem.trans h.mem, fun i hi => (h'.ctrs i hi).trans (h.ctrs i hi)⟩

theorem of (h : SchHeld b c) (h1 : d.sch.egr = c.sch.egr ∧ d.sch.turn = c.sch.turn) (h2 : d.tbls = c.tbls ∧ d.mem = c.mem) (h3 : d.ctrs = c.ctrs) : SchHeld b d :=
  h.trans ⟨h1.1, h1.2, h2.1, h2.2, fun i _ => by rw [Body.ctr, Body.ctr, h3]⟩

theorem ledIn (h : SchHeld b c) (l n : Nat) : SchHeld b (c.ledIn l n) := h.of ⟨rfl, rfl⟩ ⟨rfl, rfl⟩ rfl

theorem ledOut (h : SchHeld b c) (l n : Nat) : SchHeld b (c.ledOut l n) := h.of ⟨rfl, rfl⟩ ⟨rfl, rfl⟩ rfl

theorem setV (h : SchHeld b c) (k l v : Nat) : SchHeld b (c.setV k l v) := h.of ⟨rfl, rfl⟩ ⟨rfl, rfl⟩ rfl

theorem setTag (h : SchHeld b c) (k v : Nat) : SchHeld b (c.setTag k v) := h.of ⟨rfl, rfl⟩ ⟨rfl, rfl⟩ rfl

theorem setCredit (h : SchHeld b c) (k : Nat) (v : Int) : SchHeld b (c.setCredit k v) := h.of ⟨rfl, rfl⟩ ⟨rfl, rfl⟩ rfl

theorem serve (h : SchHeld b c) (l i n : Nat) : SchHeld b (c.serve l i n) := by
  unfold Body.serve
  dsimp only
  split
  · exact (h.setV _ _ _).setTag _ _
  · exact (((h.setV _ _ _).setTag _ _).setCredit _ _).ledOut _ _

theorem servePort (h : SchHeld b c) (p n : Nat) : SchHeld b (c.servePort p n) := by
  unfold Body.servePort
  dsimp only
  split
  · exact h
  · exact (h.setCredit _ _).ledOut _ _

theorem setQueue (h : SchHeld b c) (q : Nat) (x : Queue) : SchHeld b (c.setQueue q x) := by
  obtain ⟨-, -, -, -, hctrs, -, hsch, -, -, -, -, -, hmem, htbls, -⟩ := c.setQueue_rest q x
  exact h.of ⟨by rw [hsch], by rw [hsch]⟩ ⟨htbls, hmem⟩ hctrs

theorem schSync (h : SchHeld b c) : SchHeld b c.schSync := by
  obtain ⟨s, e, hs⟩ := schSync_rest (b := c)
  rw [hs]
  exact h.of ⟨rfl, rfl⟩ ⟨rfl, rfl⟩ rfl

theorem settle (h : SchHeld b c) (q : Nat) (late : Bool) (ks : List (Nat × Nat)) : SchHeld b (c.settle q late ks) := by
  have hctr : ∀ i < 0x1000, (c.settle q late ks).ctr Pg.sch i = c.ctr Pg.sch i := fun i hi =>
    (touch_settle q late ks).ctr hi (by unfold chmAddr Pg.sch Pg.chm Pg.rim; omega)
  have hst : ((c.settle q late ks).sch, (c.settle q late ks).tbls, (c.settle q late ks).mem) = (c.sch, c.tbls, c.mem) := by
    have hstill : ∀ {e f : Body}, f.still = e.still → (f.sch, f.tbls, f.mem) = (e.sch, e.tbls, e.mem) := fun h => by
      obtain ⟨-, -, h3, -, -, -, -, -, h9, h10, -⟩ := still_eq h
      rw [h3, h9, h10]
    have hset : ∀ (e : Body) q x, ((e.setQueue q x).sch, (e.setQueue q x).tbls, (e.setQueue q x).mem) = (e.sch, e.tbls, e.mem) := fun e q x => by simp
    have hreap : ∀ (e : Body) i, ((e.reap i q).sch, (e.reap i q).tbls, (e.reap i q).mem) = (e.sch, e.tbls, e.mem) := fun e i => by
      obtain ⟨l, hl⟩ := e.reap_only i q
      rw [hl]
    have hfree : ∀ (e : Body) l, ((e.freeCells l).sch, (e.freeCells l).tbls, (e.freeCells l).mem) = (e.sch, e.tbls, e.mem) := fun e l => by
      obtain ⟨x, n, hf⟩ := e.freeCells_only l
      rw [hf]
    have htrim : ∀ e : Body, ((e.trimHoles q).sch, (e.trimHoles q).tbls, (e.trimHoles q).mem) = (e.sch, e.tbls, e.mem) := fun e => by
      unfold trimHoles
      dsimp only
      split_ifs
      · rfl
      · refine (foldl_same (fun e : Body => (e.sch, e.tbls, e.mem)) _ (fun e i => hreap e i) _ _).trans ((hset _ _ _).trans ?_)
        exact hfree _ _
    have hjoin : ∀ e : Body, ((e.tryJoin q).sch, (e.tryJoin q).tbls, (e.tryJoin q).mem) = (e.sch, e.tbls, e.mem) := fun e => by
      unfold tryJoin
      dsimp only
      split_ifs
      · exact hset _ _ _
      · rfl
    exact (hstill (still_chmChanged _ _)).trans ((hstill (still_noteLate _ _ _)).trans ((hjoin _).trans ((htrim _).trans ((hjoin _).trans (htrim _)))))
  simp only [Prod.mk.injEq] at hst
  exact h.trans ⟨by rw [hst.1], by rw [hst.1], hst.2.1, hst.2.2, hctr⟩

end SchHeld

/-- The D13 clock of a decision: at its first one, more requests than eight are counted (R238). -/
theorem slotClock_spec (n : Nat) : (b.slotClock g n).sch.egr = b.sch.egr ∧ (b.slotClock g n).sch.turn = b.sch.turn ∧ (b.slotClock g n).tbls = b.tbls ∧
    (b.slotClock g n).mem = b.mem ∧
    (8 < n → (Sp.get (0, 0) b.sch.slot g).1 ≠ b.clk → (b.slotClock g n).ctr Pg.sch SCH_SLOT_SHORT = (b.ctr Pg.sch SCH_SLOT_SHORT + 1) % 2 ^ 64) := by
  have hcount : ∀ e : Body, e.ctrs = b.ctrs → (e.count Pg.sch SCH_SLOT_SHORT).ctr Pg.sch SCH_SLOT_SHORT = (b.ctr Pg.sch SCH_SLOT_SHORT + 1) % 2 ^ 64 := fun e he => by
    rw [ctr_count_same, ctr, ctr, he]
  have hfire : ∀ e : Body, ((e.fire Pg.sch R.SCH_EVT_SLOT).sch, (e.fire Pg.sch R.SCH_EVT_SLOT).tbls, (e.fire Pg.sch R.SCH_EVT_SLOT).mem,
      (e.fire Pg.sch R.SCH_EVT_SLOT).ctrs) = (e.sch, e.tbls, e.mem, e.ctrs) := fun e => by simp
  unfold slotClock
  dsimp only
  by_cases h1 : (Sp.get (0, 0) b.sch.slot g).1 = b.clk ∧ 1 ≤ (Sp.get (0, 0) b.sch.slot g).2 ∧ (Sp.get (0, 0) b.sch.slot g).2 < 8
  · rw [if_pos h1]
    exact ⟨rfl, rfl, rfl, rfl, fun _ hne => absurd h1.1 hne⟩
  · rw [if_neg h1]
    generalize he : ({ b with sch := { b.sch with slot := _, short := _ } } : Body) = e
    have hs : e.sch.egr = b.sch.egr ∧ e.sch.turn = b.sch.turn ∧ e.tbls = b.tbls ∧ e.mem = b.mem ∧ e.ctrs = b.ctrs := by
      rw [← he]
      exact ⟨rfl, rfl, rfl, rfl, rfl⟩
    obtain ⟨h2, h3, h4, h5, h6⟩ := hs
    clear he
    split_ifs
    · exact ⟨h2, h3, h4, h5, fun hn => by omega⟩
    · exact ⟨h2, h3, h4, h5, fun _ _ => hcount e h6⟩
    · have hf := hfire (e.count Pg.sch SCH_SLOT_SHORT)
      simp only [Prod.mk.injEq] at hf
      obtain ⟨hf1, hf2, hf3, hf4⟩ := hf
      refine ⟨by rw [hf1]; exact h2, by rw [hf1]; exact h3, by rw [hf2]; exact h4, by rw [hf3]; exact h5, fun _ _ => ?_⟩
      rw [ctr, hf4]
      exact hcount e h6

theorem handOver_spec {v u pid : Nat} {cs : List QCell} :
    (b.handOver p v u q pid cs).sch.egr = b.sch.egr ++ [{ slice := portGal p, port := p, pid := pid, queue := q, cells := cs }] ∧
    (b.handOver p v u q pid cs).sch.turn = (b.slotServe p (b.slotRequests (portGal p))).sch.turn ∧
    (8 < (b.slotRequests (portGal p)).length → (Sp.get (0, 0) b.sch.slot (portGal p)).1 ≠ b.clk →
      (b.handOver p v u q pid cs).ctr Pg.sch SCH_SLOT_SHORT = (b.ctr Pg.sch SCH_SLOT_SHORT + 1) % 2 ^ 64) ∧
    (b.handOver p v u q pid cs).tbls = b.tbls ∧ (b.handOver p v u q pid cs).mem = b.mem := by
  obtain ⟨h1, h2, h3, h4, h5⟩ := slotClock_spec (b := b.slotServe p (b.slotRequests (portGal p))) (g := portGal p) (b.slotRequests (portGal p)).length
  unfold handOver
  dsimp only
  have hserve : ∀ (e : Body) len, SchHeld e (((((((e.serve 0 q len).serve 1 u len).serve 2 v len).servePort p len).takeFront q cs.length).ledOut ledQueue 1).ledIn
      (ledEgress (portGal p)) 1) := fun e len =>
    (((((((SchHeld.refl e).serve 0 q len).serve 1 u len).serve 2 v len).servePort p len).setQueue q _).ledOut _ _).ledIn _ _
  have hend : ∀ (f : Body) late ks, SchHeld f ((f.settle q late ks).schSync) := fun f late ks => ((SchHeld.refl f).settle q late ks).schSync
  generalize (b.slotServe p (b.slotRequests (portGal p))).slotClock (portGal p) (b.slotRequests (portGal p)).length = e at h1 h2 h3 h4 h5
  generalize hl : (match (e.galBusy (portGal p)).pkt pid with | some x => schedLen x | none => 0) = len
  have hs := hserve (e.galBusy (portGal p)) len
  generalize (((((((e.galBusy (portGal p)).serve 0 q len).serve 1 u len).serve 2 v len).servePort p len).takeFront q cs.length).ledOut ledQueue 1).ledIn
      (ledEgress (portGal p)) 1 = f at hs
  have he := hend { f with sch := { f.sch with egr := f.sch.egr ++ [{ slice := portGal p, port := p, pid := pid, queue := q, cells := cs }] } }
    ((e.galBusy (portGal p)).isLate q)
    (({ f with sch := { f.sch with egr := f.sch.egr ++ [{ slice := portGal p, port := p, pid := pid, queue := q, cells := cs }] } } : Body).pfcKeys cs)
  refine ⟨he.egr.trans ?_, he.turn.trans (hs.turn.trans h2), fun hn hne => ?_, he.tbls.trans (hs.tbls.trans h3), he.mem.trans (hs.mem.trans h4)⟩
  · exact congrArg (· ++ _) (hs.egr.trans h1)
  · rw [he.ctrs _ (by decide)]
    exact (hs.ctrs _ (by decide)).trans (h5 hn hne)

/-- A decision for a port that is not eligible asks its resting Gallery to wake, where an eligible queue waits for it (R237). -/
theorem wakeRequest_spec (h : 4 ≤ b.galState g ∧ b.galState g ≤ 7) (hw : g ∉ b.sch.wake) : g ∈ (b.wakeRequest g).sch.wake ∧
    (b.wakeRequest g).ctr Pg.sch SCH_WAKE_REQ = (b.ctr Pg.sch SCH_WAKE_REQ + 1) % 2 ^ 64 ∧ (b.wakeRequest g).sch.egr = b.sch.egr := by
  unfold wakeRequest
  rw [if_pos ⟨h.1, h.2, by simpa using hw⟩]
  exact ⟨mem_insertNat.mpr (.inl rfl), ctr_count_same .., rfl⟩

/-! Refill boundaries (R247, R248). -/

/-- The accrual of a node over a period, before it is divided (R248). -/
def accrual (b : Body) (x : Nat × Nat) : Nat := rateBits (b.node x.1 x.2).rate * b.sch.period * 8192 + Sp.get 0 b.sch.frac (nodeKey x.1 x.2)

/-- The credit of a node after its accrual (R248). -/
def accrued (b : Body) (x : Nat × Nat) : Int :=
  min (b.creditOf (nodeKey x.1 x.2) + (b.accrual x / 10 ^ 9 : Nat))
    (max (b.creditOf (nodeKey x.1 x.2)) (capBytes (b.node x.1 x.2).cap * 65536 : Nat))

/-- What an accrual leaves alone. -/
structure Accruing (b c : Body) : Prop where
  tbls : c.tbls = b.tbls
  regs : c.regs = b.regs
  ctrs : c.ctrs = b.ctrs
  period : c.sch.period = b.sch.period
  next : c.sch.next = b.sch.next

theorem node_congr (ht : c.tbls = b.tbls) (hr : c.regs = b.regs) (l i : Nat) : c.node l i = b.node l i := by
  have he : ∀ t i, c.ent t i = b.ent t i := ent_of_tbls ht
  have hd : ∀ q f x, c.rd q f x = b.rd q f x := fun q f x => rd_of_regs hr q f x 0
  unfold node svcRate svcCap
  simp only [he, hd]

theorem accrueNode_spec (x : Nat × Nat) : Accruing b (b.accrueNode b.sch.period x.1 x.2) ∧
    (∀ k, (b.accrueNode b.sch.period x.1 x.2).creditOf k = if k = nodeKey x.1 x.2 then b.accrued x else b.creditOf k) ∧
    (∀ k, Sp.get 0 (b.accrueNode b.sch.period x.1 x.2).sch.frac k =
      if k = nodeKey x.1 x.2 then b.accrual x % 10 ^ 9 else Sp.get 0 b.sch.frac k) :=
  ⟨⟨rfl, rfl, rfl, rfl, rfl⟩, fun _ => Sp.get_set .., fun _ => Sp.get_set ..⟩

theorem nodeKey_inj {x y : Nat × Nat} (hx : x.2 < 2 ^ 20) (hy : y.2 < 2 ^ 20) (h : nodeKey x.1 x.2 = nodeKey y.1 y.2) : x = y := by
  unfold nodeKey at h
  exact Prod.ext (by omega) (by omega)

/-- Every node of a list accrues, once. -/
theorem accrueNodes_spec (ns : List (Nat × Nat)) : ∀ b : Body, let c := ns.foldl (fun b n => b.accrueNode b.sch.period n.1 n.2) b
    Accruing b c ∧
    (∀ k, (∀ x ∈ ns, k ≠ nodeKey x.1 x.2) → c.creditOf k = b.creditOf k ∧ Sp.get 0 c.sch.frac k = Sp.get 0 b.sch.frac k) ∧
    (ns.Nodup → (∀ x ∈ ns, x.2 < 2 ^ 20) → ∀ x ∈ ns,
      c.creditOf (nodeKey x.1 x.2) = b.accrued x ∧ Sp.get 0 c.sch.frac (nodeKey x.1 x.2) = b.accrual x % 10 ^ 9) := by
  induction ns with
  | nil => exact fun b => ⟨⟨rfl, rfl, rfl, rfl, rfl⟩, fun _ _ => ⟨rfl, rfl⟩, fun _ _ x hx => by nomatch hx⟩
  | cons n t ih =>
    intro b
    dsimp only
    rw [List.foldl_cons]
    obtain ⟨hb, hcredit, hfrac⟩ := accrueNode_spec (b := b) n
    obtain ⟨hc, hkeep, hacc⟩ := ih (b.accrueNode b.sch.period n.1 n.2)
    refine ⟨⟨hc.tbls.trans hb.tbls, hc.regs.trans hb.regs, hc.ctrs.trans hb.ctrs, hc.period.trans hb.period, hc.next.trans hb.next⟩, fun k hk => ?_,
      fun hnd hlt x hx => ?_⟩
    · obtain ⟨h1, h2⟩ := hkeep k fun x hx => hk x (List.mem_cons_of_mem _ hx)
      rw [h1, h2, hcredit, hfrac, if_neg (hk n List.mem_cons_self), if_neg (hk n List.mem_cons_self)]
      exact ⟨rfl, rfl⟩
    · obtain ⟨hn, hnd⟩ := List.nodup_cons.mp hnd
      have hapart : ∀ y ∈ t, nodeKey n.1 n.2 ≠ nodeKey y.1 y.2 := fun y hy he =>
        hn (nodeKey_inj (hlt n List.mem_cons_self) (hlt y (List.mem_cons_of_mem _ hy)) he ▸ hy)
      rcases List.mem_cons.mp hx with rfl | hx
      · obtain ⟨h1, h2⟩ := hkeep (nodeKey x.1 x.2) hapart
        rw [h1, h2, hcredit, hfrac, if_pos rfl, if_pos rfl]
        exact ⟨rfl, rfl⟩
      · obtain ⟨h1, h2⟩ := hacc hnd (fun y hy => hlt y (List.mem_cons_of_mem _ hy)) x hx
        have hold : (b.accrueNode b.sch.period n.1 n.2).creditOf (nodeKey x.1 x.2) = b.creditOf (nodeKey x.1 x.2) := by
          rw [hcredit, if_neg (hapart x hx).symm]
        have hal : (b.accrueNode b.sch.period n.1 n.2).accrual x = b.accrual x := by
          rw [accrual, hfrac, if_neg (hapart x hx).symm, hb.period, node_congr hb.tbls hb.regs, accrual]
        rw [h1, h2, accrued, hold, hal, node_congr hb.tbls hb.regs]
        exact ⟨rfl, rfl⟩

theorem refillBoundary_spec (h1 : b.sch.armState = []) (h2 : b.sch.armCfg = []) :
    b.refillBoundary.sch.period = b.rd Pg.sch R.SCH_REFILL_NS ∧ b.refillBoundary.sch.next = b.sch.next + b.rd Pg.sch R.SCH_REFILL_NS ∧
    b.refillBoundary.ctr Pg.sch SCH_REFILLS = (b.ctr Pg.sch SCH_REFILLS + 1) % 2 ^ 64 ∧
    (b.shapedNodes.Nodup → (∀ x ∈ b.shapedNodes, x.2 < 2 ^ 20) → ∀ x ∈ b.shapedNodes,
      b.refillBoundary.creditOf (nodeKey x.1 x.2) = b.accrued x ∧ Sp.get 0 b.refillBoundary.sch.frac (nodeKey x.1 x.2) = b.accrual x % 10 ^ 9) := by
  obtain ⟨hc, -, hacc⟩ := accrueNodes_spec b.shapedNodes b
  unfold refillBoundary
  dsimp only
  rw [readNodes_none h1 h2]
  generalize b.shapedNodes.foldl (fun b n => b.accrueNode b.sch.period n.1 n.2) b = c at hc hacc ⊢
  obtain ⟨s, e, hs⟩ := schSync_rest (b := ({ c with sch := { c.sch with period := c.rd Pg.sch R.SCH_REFILL_NS, next := c.sch.next + c.rd Pg.sch R.SCH_REFILL_NS } } : Body).count
    Pg.sch SCH_REFILLS)
  rw [hs]
  have hper : c.rd Pg.sch R.SCH_REFILL_NS = b.rd Pg.sch R.SCH_REFILL_NS := rd_of_regs hc.regs _ _ _ _
  refine ⟨hper, (congrArg₂ (· + ·) hc.next hper :), (ctr_count_same ..).trans ?_, hacc⟩
  rw [ctr, ctr, ← hc.ctrs]

/-- A boundary that is not due does nothing; at one that is due no slot applies where none is PENDING, and every shaper accrues. -/
theorem refillEdge_early (h : b.clk < b.sch.next) : b.refillEdge = b := if_pos h

theorem retire_nil (h : b.cairn.old = []) (p : OldVal → Bool) : { b.cairn with old := b.cairn.old.filter p } = b.cairn := by
  rw [h, List.filter_nil, ← h]

theorem refillEdge_due (h : b.sch.next ≤ b.clk) (hp : ∀ n < 8, b.crd R.CAIRN_STATE n ≠ CS_PENDING) :
    ∃ x, (b.cairn.old = [] → x = b.cairn) ∧ b.refillEdge = ({ b with cairn := x } : Body).refillBoundary := by
  have key : ∀ (l : List Nat) (c : Body), (∀ n ∈ l, n < 8) → (∃ x, (b.cairn.old = [] → x = b.cairn) ∧ c = { b with cairn := x }) →
      ∃ x, (b.cairn.old = [] → x = b.cairn) ∧ l.foldl (fun b n =>
        let b := b.retireViews
        if b.crd R.CAIRN_STATE n = CS_PENDING ∧ b.crd R.CAIRN_MODE n = 1 ∧ b.applyRoom n then b.slotApply n else b) c = { b with cairn := x } := by
    intro l
    induction l with
    | nil => exact fun c _ hc => hc
    | cons n t ih =>
      rintro c hl ⟨x, hx, rfl⟩
      rw [List.foldl_cons]
      refine ih _ (fun m hm => hl m (List.mem_cons_of_mem _ hm)) ?_
      dsimp only
      rw [if_neg fun h => hp n (hl n List.mem_cons_self) h.1]
      exact ⟨_, fun h => by rw [hx h]; exact retire_nil h _, rfl⟩
  obtain ⟨x, hnone, hx⟩ := key (List.range 8) b (fun n => List.mem_range.mp) ⟨b.cairn, fun _ => rfl, rfl⟩
  unfold refillEdge
  rw [if_neg (by omega)]
  exact ⟨x, hnone, congrArg refillBoundary hx⟩

/-- SCH_INJ_GO arms the node that the registers name (R260). -/
theorem schInject_spec (h : b.rd Pg.sch R.SCH_INJ_IDX < levelSize (b.rd Pg.sch R.SCH_INJ_LVL)) :
    Keeps [Pg.sch] b b.schInject ∧
    (b.rd Pg.sch R.SCH_INJ_CFG = 0 →
      nodeKey (b.rd Pg.sch R.SCH_INJ_LVL) (b.rd Pg.sch R.SCH_INJ_IDX) ∈ b.schInject.sch.armState ∧ b.schInject.sch.armCfg = b.sch.armCfg) ∧
    (b.rd Pg.sch R.SCH_INJ_CFG = 1 →
      nodeKey (b.rd Pg.sch R.SCH_INJ_LVL) (b.rd Pg.sch R.SCH_INJ_IDX) ∈ b.schInject.sch.armCfg ∧ b.schInject.sch.armState = b.sch.armState) := by
  unfold schInject
  dsimp only
  rw [if_neg (Nat.not_le.mpr h)]
  by_cases hc : b.on Pg.sch R.SCH_INJ_CFG = true
  · rw [if_pos hc]
    exact ⟨⟨fun _ _ _ _ _ _ _ => rfl, rfl, rfl, rfl⟩, fun h0 => by simp [on, h0] at hc, fun _ => ⟨mem_insertNat.mpr (.inl rfl), rfl⟩⟩
  · rw [if_neg hc]
    exact ⟨⟨fun _ _ _ _ _ _ _ => rfl, rfl, rfl, rfl⟩, fun _ => ⟨mem_insertNat.mpr (.inl rfl), rfl⟩, fun h1 => by simp [on, h1] at hc⟩

end

end Body

section
variable {s : State} {c : Body}

theorem State.fused_sch : (s.fused c).dev.body.sch = c.sch := by simp [State.fused, Dev.fuseDue]

theorem State.fused_ctr (p i : Nat) : (s.fused c).ctr p i = c.ctr p i := by simp [State.fused, Dev.fuseDue, State.ctr, Body.ctr]

theorem State.exec_schedulerDecision {p : Nat} (hp : p < 529) (hr : s.runs [13]) :
    exec (.schedulerDecision p) s = .next (s.withBody (s.dev.body.schedulerDecision p)) := State.body_withBody (decide_eq_true hp) hr rfl

theorem State.exec_refillBoundary (hr : s.runs [13]) : exec .refillBoundary s = .next (s.fused s.dev.body.refillEdge) := s.live_runs _ rfl hr

theorem State.exec_schInject {m : Nat} (ht : s.takes m (Pg.sch + 0xB0)) :
    ∃ d, Body.Shown Pg.sch 0xB0 (PK.sch.fieldsAt 0xB0) s.dev.body d ∧ exec (.schInject m) s = .next (s.withBody d.schInject) := by
  obtain ⟨d, hshown, hput⟩ := Dev.put_go (v := 1) (i := 0) (f := R.SCH_INJ_GO) (act := fun b => b.schInject) ht pageIs_sch (by decide) (by decide)
    (by decide) (by decide) (by decide) rfl (by decide) fun w _ hw _ => by
      simp only [Body.pageStore, Body.storeSch]
      exact Body.takeGo_act _ _ (by rw [pageIs_sch.fieldAt (by decide) (by decide)]; rfl) hw
  exact ⟨d, hshown, State.live_withBody ht.known ht.runs hput⟩

end

end Sys2Proof.Machine

namespace Sys2Proof
open Machine

/-- Settles O24: a decision that is made hands its packet over (`handOver_spec`), one that is not leaves egress as it was; a boundary that is
due lets every shaper accrue once (`refillBoundary_spec`). -/
theorem schedulerAndShapers : Obligations.SchedulerAndShapers := by
  unfold Obligations.SchedulerAndShapers
  refine ⟨fun p s hr hp => ?_, fun s hr => ?_, fun s hr hlt => ?_, fun m s ht hidx => ?_⟩
  · dsimp only
    intro h1 h2
    have hexec := State.exec_schedulerDecision hp hr
    rw [Body.schedulerDecision_eq hp h1 h2] at hexec
    have hat : s.dev.body.schSync.svyBump 4 (portGal p) 0 1 = s.dev.body.decisionAt p := rfl
    rw [hat]
    obtain ⟨x, e, v, hrest⟩ := Body.decisionAt_rest (b := s.dev.body) (p := p)
    have hegr : (s.dev.body.decisionAt p).sch.egr = s.dev.body.sch.egr := by rw [hrest]
    have hslot : (s.dev.body.decisionAt p).sch.slot = s.dev.body.sch.slot := by rw [hrest]
    have hwake : (s.dev.body.decisionAt p).sch.wake = s.dev.body.sch.wake := by rw [hrest]
    have hclk : (s.dev.body.decisionAt p).clk = s.dev.body.clk := by rw [hrest]
    have hctr : ∀ i, (s.dev.body.decisionAt p).ctr Pg.sch i = s.ctr Pg.sch i := fun i => by rw [hrest]; rfl
    have htbls : (s.dev.body.decisionAt p).tbls = s.dev.body.tbls := by rw [hrest]
    have hmem : (s.dev.body.decisionAt p).mem = s.dev.body.mem := by rw [hrest]
    have hbuf : (s.dev.body.decisionAt p).buf = s.dev.body.buf := by rw [hrest]
    have hgal : (s.dev.body.decisionAt p).galState (portGal p) = s.dev.body.galState (portGal p) := by rw [hrest]; rfl
    clear hrest hat
    generalize s.dev.body.decisionAt p = c at *
    refine ⟨fun v u q pid cs hel hturn => ?_, fun hel hturn => ?_, fun h4 h7 hnw hq => ?_⟩
    · rw [hel] at hexec
      obtain ⟨hm, hu, hmin⟩ := Body.portElig_spec hel
      obtain ⟨e1, e2, e3, e4, e5⟩ := Body.handOver_spec (b := c) (p := p) (q := q) (v := v) (u := u) (pid := pid) (cs := cs)
      refine ⟨_, hexec.trans (congrArg (fun b => Host.Outcome.next (s.withBody b)) (if_neg (by simp [hturn]))), ?_⟩
      generalize c.handOver p v u q pid cs = d at e1 e2 e3 e4 e5
      rw [State.withBody_ctr, (by simp : (s.withBody d).dev.body.sch = d.sch), (by simp : (s.withBody d).dev.body.tbls = d.tbls), State.withBody_mem]
      refine ⟨by rw [e1, hegr], hm, hu, hmin, e2, fun hn hne => ?_, e4.trans htbls, e5.trans hmem⟩
      rw [e3 hn (by rw [hslot, hclk]; exact hne), hctr]
    · obtain ⟨⟨v, u, q, pid, cs⟩, hel⟩ := Option.ne_none_iff_exists'.mp hel
      rw [hel] at hexec
      refine ⟨_, hexec.trans (congrArg (fun b => Host.Outcome.next (s.withBody b)) (if_pos (by simp [hturn]))), ?_, State.withBody_buf.trans hbuf⟩
      rw [(by simp : (s.withBody c).dev.body.sch = c.sch), hegr]
    · rw [Body.portElig_resting (by omega)] at hexec
      obtain ⟨q, hq, hat⟩ := hq
      have hcond : ¬ c.galActive (portGal p) = true ∧ (c.eligQ.any fun q => c.attached 0 q == some p) = true := by
        refine ⟨?_, List.any_eq_true.mpr ⟨q, hq, beq_iff_eq.mpr hat⟩⟩
        unfold Body.galActive
        rw [decide_eq_false (by omega)]
        simp
      obtain ⟨e1, e2, e3⟩ := Body.wakeRequest_spec (b := c) (g := portGal p) (by omega) (by rw [hwake]; exact hnw)
      refine ⟨_, hexec.trans (congrArg (fun b => Host.Outcome.next (s.withBody b)) (if_pos hcond)), ?_⟩
      rw [State.withBody_ctr, (by simp : (s.withBody (c.wakeRequest (portGal p))).dev.body.sch = (c.wakeRequest (portGal p)).sch)]
      exact ⟨e1, e2.trans (by rw [hctr]), e3.trans hegr⟩
  · dsimp only
    intro hdue h1 h2 hp
    obtain ⟨x, hnone, hx⟩ := Body.refillEdge_due hdue hp
    obtain ⟨e1, e2, e3, e4⟩ := Body.refillBoundary_spec (b := { s.dev.body with cairn := x }) h1 h2
    refine ⟨_, (State.exec_refillBoundary hr).trans (congrArg (fun b => Host.Outcome.next (s.fused b)) hx), ?_⟩
    generalize hc : ({ s.dev.body with cairn := x } : Body).refillBoundary = c at e1 e2 e3 e4 ⊢
    have hcredit : ∀ k, (s.fused c).dev.body.creditOf k = c.creditOf k := fun k => by rw [Body.creditOf, State.fused_sch, Body.creditOf]
    rw [State.fused_ctr, State.fused_sch]
    exact ⟨e1, e2, e3, fun hold => by
      obtain rfl := hnone hold
      simp only [hcredit]
      exact e4⟩
  · exact ⟨_, (State.exec_refillBoundary hr).trans (congrArg (fun b => Host.Outcome.next (s.fused b)) (Body.refillEdge_early hlt)), State.fused_sch, State.fused_cairn⟩
  · obtain ⟨d, hd, he⟩ := State.exec_schInject ht
    have hl : d.rd Pg.sch R.SCH_INJ_LVL = s.reg Pg.sch R.SCH_INJ_LVL := hd.here (R.SCH_INJ_LVL, 0, 0) (by decide)
    have hi : d.rd Pg.sch R.SCH_INJ_IDX = s.reg Pg.sch R.SCH_INJ_IDX := hd.here (R.SCH_INJ_IDX, 0, 0) (by decide)
    have hc : d.rd Pg.sch R.SCH_INJ_CFG = s.reg Pg.sch R.SCH_INJ_CFG := hd.here (R.SCH_INJ_CFG, 0, 0) (by decide)
    have hsch : d.sch = s.dev.body.sch := by rw [hd.only]
    obtain ⟨e1, e2, e3⟩ := Body.schInject_spec (b := d) (by rw [hl, hi]; exact hidx)
    rw [hl, hi, hc, hsch] at e2 e3
    refine ⟨_, he, State.withBody_keeps ((hd.keeps pageIs_sch (by decide) (List.mem_singleton_self _)).trans e1), ?_⟩
    rw [(by simp : (s.withBody d.schInject).dev.body.sch = d.schInject.sch)]
    exact ⟨e2, e3⟩

end Sys2Proof
end

section
/-! O48: the resets of the engine (R314, R497 to R501). -/

namespace Sys2Proof.Machine

theorem Sp.mem_set {α : Type} [DecidableEq α] {d v : α} {m : List (Nat × α)} {k : Nat} {e : Nat × α} (h : e ∈ Sp.set d m k v) : e.1 = k ∨ e ∈ m := by
  unfold Sp.set at h
  split at h
  · exact .inr (List.mem_of_mem_filter h)
  · exact (Sp.mem_ins h).imp (fun h => by rw [h]) id

namespace Body

section
variable {b c d : Body}

/-! What an engine reset clears (R497). -/

/-- The engine after every reset but one that spares something of the Lamp's: PG_EN of the device-wide pages reads 1, and time, what has been
shown, the memories of others and the pins' sources stay. -/
def wiped (b : Body) (por : Bool) : Body where
  clk := b.clk
  fresh := b.fresh
  out := b.out
  rdata := b.rdata
  mem := { far0 := b.mem.far0, far1 := b.mem.far1, host := b.mem.host }
  sup := b.sup
  svc := if por then { instr := b.svc.instr } else b.svc
  lamp := { refLost := b.lamp.refLost }
  sch := { next := b.clk + 128 }
  regs := (List.range 8).map fun n => ((n * 0x1000 + 0x10) * 32, 1)

/-- The same, with what the Lamp keeps where it kept its power, but for the comparators. -/
def wipedKept (b : Body) : Body :=
  ({ b.wiped false with
      tod := b.tod
      lamp := { refLost := b.lamp.refLost, todRem := b.lamp.todRem, run := b.lamp.run.filter fun e => e.1 < 18 } } : Body).wr
    Pg.lamp R.TH_TRIP_LAST (b.rd Pg.lamp R.TH_TRIP_LAST)

theorem engineClear_por : b.engineClear true = b.wiped true := rfl

/-- The comparators that an engine reset leaves acting. -/
theorem keepGlow_spec (k : Nat) : ∃ t, (List.range k).foldl (fun z n => z.setEnt Tbl.glow n (b.glowKept n)) c = { c with tbls := t } ∧
    (∀ e ∈ t, (∃ n < k, e.1 = entKey Tbl.glow n) ∨ e ∈ c.tbls) ∧
    ∀ n < k, Sp.get (tblReset Tbl.glow n) t (entKey Tbl.glow n) = b.glowKept n := by
  induction k with
  | zero => exact ⟨c.tbls, rfl, fun e he => .inr he, fun n hn => by omega⟩
  | succ k ih =>
    obtain ⟨t, h1, h2, h3⟩ := ih
    rw [List.range_succ, List.foldl_append, h1]
    refine ⟨_, rfl, fun e he => ?_, fun n hn => ?_⟩
    · rcases Sp.mem_set he with he | he
      · exact .inl ⟨k, by omega, he⟩
      · exact (h2 e he).imp (fun ⟨n, hn, he⟩ => ⟨n, by omega, he⟩) id
    · by_cases hk : n = k
      · rw [hk]
        exact Sp.get_set_self ..
      · exact (Sp.get_set_of_ne _ _ _ _ (by unfold entKey; omega)).trans (h3 n (by omega))

theorem engineClear_kept (h : glwTripped (b.ent Tbl.glow 16) = false) : ∃ t, b.engineClear false = { b.wipedKept with tbls := t } ∧
    (∀ e ∈ t, ∃ n < 18, e.1 = entKey Tbl.glow n) ∧ ∀ n < 18, Sp.get (tblReset Tbl.glow n) t (entKey Tbl.glow n) = b.glowKept n := by
  obtain ⟨t, h1, h2, h3⟩ := keepGlow_spec (b := b) (c := b.wipedKept) 18
  refine ⟨t, ?_, fun e he => (h2 e he).resolve_right fun h => (nomatch h), h3⟩
  rw [← h1]
  unfold engineClear
  rw [h]
  rfl

/-- An engine on which a reset has ended with nothing booted (R497, R500). -/
structure Cold (b c : Body) : Prop where
  rest : ∃ svc sup lamp tod regs tbls, c = { b.wiped true with svc := svc, sup := sup, lamp := lamp, tod := tod, regs := regs, tbls := tbls }
  regs : ∀ (q : Nat) (g : Fld) (x y : Nat), g.lo < 32 → pageOf (g.addr q x y) ≠ Pg.lamp → pageOf (g.addr q x y) ≠ Pg.boot →
    (g.addr q x y % 0x1000 = 0x10 → 0x8000 ≤ g.addr q x y) → c.rd q g x y = g.reset x % 2 ^ g.width
  enabled : ∀ n < 8, c.rd (0x1000 * n) R.PG_EN = 1
  tbls : ∀ e ∈ c.tbls, ∃ n < 18, e.1 = entKey Tbl.glow n

theorem wiped_rd {por : Bool} {q x y : Nat} {g : Fld} (hg : g.lo < 32) (hen : g.addr q x y % 0x1000 = 0x10 → 0x8000 ≤ g.addr q x y) :
    (b.wiped por).rd q g x y = g.reset x % 2 ^ g.width := by
  unfold rd
  rw [Sp.get_of_notMem]
  intro e he
  obtain ⟨n, hn, rfl⟩ := List.mem_map.mp he
  have hn8 : n < 8 := List.mem_range.mp hn
  simp only [Fld.key]
  omega

theorem wiped_enabled {por : Bool} {n : Nat} (hn : n < 8) : (b.wiped por).rd (0x1000 * n) R.PG_EN = 1 := by
  interval_cases n <;> rfl

theorem cold_wiped (por : Bool) : Cold b (b.wiped por) :=
  ⟨⟨_, _, _, _, _, _, rfl⟩, fun _ _ _ _ hg _ _ hen => wiped_rd hg hen, fun _ hn => wiped_enabled hn, fun _ he => nomatch he⟩

namespace Cold

theorem wr (h : Cold b c) {p v : Nat} {f : Fld} (hf : f.lo < 32) (hp : pageOf (p + f.off) = Pg.lamp ∨ pageOf (p + f.off) = Pg.boot)
    (ho : (p + f.off) % 0x1000 ≠ 0x10) : Cold b (c.wr p f v) := by
  obtain ⟨⟨svc, sup, lamp, tod, regs, tbls, hc⟩, h2, h3, h4⟩ := h
  refine ⟨⟨svc, sup, lamp, tod, _, tbls, by rw [hc]; rfl⟩, fun q g x y hg hl hb hen => ?_, fun n hn => ?_, h4⟩
  · rw [c.rd_wr_ne v hf hg (.inl fun he => ?_), h2 q g x y hg hl hb hen]
    rw [he, Fld.addr_zero] at hl hb
    exact hp.elim hl hb
  · rw [c.rd_wr_ne v hf (by decide) (.inl fun he => ho ?_), h3 n hn]
    rw [Fld.addr_zero, Fld.addr_zero] at he
    have : R.PG_EN.off = 0x10 := rfl
    omega

theorem of_regs (h : Cold b c) (hr : d.regs = c.regs) (hrest : ∃ svc sup lamp tod tbls, d = { c with svc := svc, sup := sup, lamp := lamp, tod := tod, tbls := tbls })
    (ht : ∀ e ∈ d.tbls, ∃ n < 18, e.1 = entKey Tbl.glow n) : Cold b d := by
  obtain ⟨⟨_, _, _, _, regs, _, hc⟩, h2, h3, -⟩ := h
  obtain ⟨svc, sup, lamp, tod, tbls, hd⟩ := hrest
  exact ⟨⟨svc, sup, lamp, tod, regs, tbls, by rw [hd, hc]⟩, fun q g x y hg hl hb hen => (rd_of_regs hr ..).trans (h2 q g x y hg hl hb hen),
    fun n hn => (rd_of_regs hr ..).trans (h3 n hn), ht⟩

/-- Nothing follows from what a reset did: Survey's counters are off, and no pool tells its level. -/
theorem note (h : Cold b c) (was : Body) : Body.note was c = c := by
  have hown : ∀ n ∈ List.range 16, c.rd (Pg.pool n) R.POOL_OWNERS = 0 := fun n hn => by
    have hn := List.mem_range.mp hn
    have ha : R.POOL_OWNERS.addr (Pg.pool n) 0 0 = 0xF00000 + 0x1000 * n + 0x80 := by
      rw [Fld.addr_zero]
      simp only [Pg.pool, R.POOL_OWNERS]
    rw [h.regs _ _ _ _ (by decide) (by rw [ha]; unfold pageOf Pg.lamp; omega) (by rw [ha]; unfold pageOf Pg.boot; omega) (by rw [ha]; omega)]
    rfl
  have hlevel : levelMoved was c = false := by
    rw [levelMoved, List.any_eq_false]
    intro n hn
    rw [prd', hown n hn]
    simp [bitOn]
  have hsvy : c.svyOn = [] := by
    have hold : c.cairn.old = [] := by
      obtain ⟨_, _, _, _, _, _, hc⟩ := h.rest
      rw [hc]
      rfl
    have hcur : c.tbls.filter (fun e => e.1 / 2 ^ 40 == Tbl.svy) = [] := by
      refine List.filter_eq_nil_iff.mpr fun e he => ?_
      obtain ⟨n, hn, he⟩ := h.tbls e he
      rw [he, entKey]
      simp only [beq_iff_eq]
      have h1 : Tbl.glow = 0x2E := rfl
      have h2 : Tbl.svy = 0x36 := rfl
      omega
    unfold svyOn entIdxs
    rw [hcur, hold]
    rfl
  have hpool : poolNote was c = c := if_neg (by simp [hlevel])
  rw [Body.note, hpool, svyNote]
  split
  · rfl
  · rw [hsvy]
    rfl

end Cold

/-- The engine as a reset leaves it (R497). -/
theorem engineClear_spec {por : Bool} (h : por = false → glwTripped (b.ent Tbl.glow 16) = false) : Cold b (b.engineClear por) ∧
    (b.engineClear por).sup = b.sup ∧ (b.engineClear por).rd Pg.boot R.BOOT_FLASH_REL = 0 ∧ (b.engineClear por).rd Pg.lamp R.TOD_VALID = 0 ∧
    (por = false → (b.engineClear por).rd Pg.lamp R.TH_TRIP_LAST = b.rd Pg.lamp R.TH_TRIP_LAST ∧ (b.engineClear por).tod = b.tod ∧
      ∀ n < 18, glwTripped ((b.engineClear por).ent Tbl.glow n) = glwTripped (b.ent Tbl.glow n)) ∧
    (por = true → (b.engineClear por).rd Pg.lamp R.TH_TRIP_LAST = 0 ∧ (b.engineClear por).tod = 0) := by
  cases por with
  | true => exact ⟨cold_wiped true, rfl, rfl, rfl, fun h => (nomatch h), fun _ => ⟨rfl, rfl⟩⟩
  | false =>
    obtain ⟨t, he, h1, h2⟩ := engineClear_kept (h rfl)
    have hw : Cold b b.wipedKept := (((cold_wiped false).of_regs (d := { b.wiped false with
      tod := b.tod
      lamp := { refLost := b.lamp.refLost, todRem := b.lamp.todRem, run := b.lamp.run.filter fun e => e.1 < 18 } }) rfl ⟨_, _, _, _, _, rfl⟩
      fun _ he => nomatch he).wr (p := Pg.lamp) (f := R.TH_TRIP_LAST) (by decide) (.inl rfl) (by decide))
    have htrip : b.wipedKept.rd Pg.lamp R.TH_TRIP_LAST = b.rd Pg.lamp R.TH_TRIP_LAST := (rd_wr_self ..).trans (Nat.mod_eq_of_lt (b.rd_lt ..))
    rw [he]
    refine ⟨hw.of_regs rfl ⟨_, _, _, _, _, rfl⟩ h1, rfl, ?_, ?_, fun _ => ⟨htrip, rfl, fun n hn => ?_⟩, fun h => (nomatch h)⟩
    · exact (rd_wr_of_ne _ _ (by decide)).trans rfl
    · exact (rd_wr_of_ne _ _ (by decide)).trans rfl
    · rw [ent]
      exact (congrArg glwTripped (h2 n hn)).trans (by rw [glowKept, glwTripped, bitOn_setBitField, if_pos rfl]; simp [glwTripped, bitOn, bitField])

end

end Body

/-- The engine cleared by a reset, running. -/
def Body.outOfReset (b : Body) : Body :=
  { b with sup := { b.sup with mode := .running, released := true, lampOnly := false, testPins := b.svc.instr.takesPins } }

theorem Dev.resetEnd_eq (d : Dev) (por : Bool) : d.resetEnd por =
    ({ sticky := { d.sticky with locked := [] },
       body := if (d.body.engineClear por).outOfReset.sup.straps.flashRel then (d.body.engineClear por).outOfReset.wr Pg.boot R.BOOT_FLASH_REL 1
         else (d.body.engineClear por).outOfReset } : Dev).asuth := rfl

/-- Under the manufacturing test strap nothing boots: a reset that ends leaves the engine cold (R497, R500). -/
theorem Dev.resetEnd_cold {d : Dev} {por : Bool} (htest : d.body.sup.straps.test = true) (h : por = false → Body.glwTripped (d.body.ent Tbl.glow 16) = false) :
    ∃ c, d.resetEnd por = { sticky := { d.sticky with locked := [] }, body := c } ∧ Body.Cold d.body c ∧
      (c.sup.mode = .running ∧ c.sup.sa = d.body.sup.sa) ∧
      c.rd Pg.boot R.BOOT_FLASH_REL = (if d.body.sup.straps.flashRel then 1 else 0) ∧ c.rd Pg.lamp R.TOD_VALID = 0 ∧
      (por = false → c.rd Pg.lamp R.TH_TRIP_LAST = d.body.rd Pg.lamp R.TH_TRIP_LAST ∧ c.tod = d.body.tod ∧
        ∀ n < 18, Body.glwTripped (c.ent Tbl.glow n) = Body.glwTripped (d.body.ent Tbl.glow n)) ∧
      (por = true → c.rd Pg.lamp R.TH_TRIP_LAST = 0 ∧ c.tod = 0) := by
  obtain ⟨hcold, hsup, hrel, hvalid, hkept, hpor⟩ := Body.engineClear_spec (b := d.body) h
  rw [Dev.resetEnd_eq]
  generalize d.body.engineClear por = z at *
  have hz : Body.Cold d.body z.outOfReset := hcold.of_regs rfl ⟨_, _, _, _, _, rfl⟩ hcold.tbls
  have hstraps : z.outOfReset.sup.straps = d.body.sup.straps := by rw [← hsup]; rfl
  have hmode : z.outOfReset.sup.mode = .running ∧ z.outOfReset.sup.sa = d.body.sup.sa := by rw [← hsup]; exact ⟨rfl, rfl⟩
  rw [hstraps]
  cases hfr : d.body.sup.straps.flashRel with
  | false => exact ⟨_, if_pos (hstraps ▸ htest), hz, hmode, hrel, hvalid, hkept, hpor⟩
  | true =>
    refine ⟨_, if_pos (hstraps ▸ htest), hz.wr (by decide) (.inr rfl) (by decide), hmode, Body.rd_wr_self .., (Body.rd_wr_of_ne _ _ (by decide)).trans hvalid,
      fun h => ?_, fun h => ?_⟩
    · obtain ⟨h1, h2, h3⟩ := hkept h
      exact ⟨(Body.rd_wr_of_ne _ _ (by decide)).trans h1, h2, h3⟩
    · obtain ⟨h1, h2⟩ := hpor h
      exact ⟨(Body.rd_wr_of_ne _ _ (by decide)).trans h1, h2⟩

/-! What stops the engine (R497, R499). -/

namespace Body

/-- The time of day goes on unadjusted and not valid (R497). -/
def unadjusted (b : Body) (x : PwrSt) : Body :=
  { (b.todInvalid.wr Pg.lamp R.TOD_FREQ_ADJ 0) with sup := x, lamp := { b.lamp with slew := 0 } }

variable {b : Body}

theorem unadjusted_spec (x : PwrSt) : Keeps [Pg.lamp] b (b.unadjusted x) ∧ (b.unadjusted x).rd Pg.lamp R.TOD_VALID = 0 ∧
    (b.unadjusted x).rd Pg.lamp R.TOD_FREQ_ADJ = 0 ∧
    (b.rd Pg.lamp R.TOD_VALID = 1 → (b.unadjusted x).rd Pg.lamp (evtPend R.TOD_EVT_INVALID) = 1) ∧ (b.unadjusted x).tod = b.tod := by
  have hr : (b.unadjusted x).regs = (b.todInvalid.wr Pg.lamp R.TOD_FREQ_ADJ 0).regs := rfl
  refine ⟨((Keeps.todInvalid (.refl b)).wr (p := Pg.lamp) (i := 0) (j := 0) (f := R.TOD_FREQ_ADJ) (v := 0) (by decide) (by decide)).of_eq rfl rfl rfl rfl,
    ?_, ?_, fun h => ?_, todInvalid_rest.2.1⟩
  · rw [rd_of_regs hr, rd_wr_of_ne _ _ (by decide), todInvalid_valid]
  · rw [rd_of_regs hr, rd_wr_self]
    rfl
  · rw [rd_of_regs hr, rd_wr_of_ne _ _ (by decide), todInvalid_told h]

end Body

theorem Dev.resetAssert_eq {d : Dev} (h : d.body.sup.mode ≠ .off) :
    d.resetAssert = { d with body := d.body.unadjusted { d.body.sup with mode := .held, released := false } } := by
  obtain ⟨h1, -, h3⟩ := Body.todInvalid_rest (b := d.body)
  rw [resetAssert, if_neg h, Body.unadjusted, ← h1, ← h3]
  rfl

theorem Dev.brownoutStart_eq {d : Dev} (h : d.body.sup.mode = .running) :
    d.brownoutStart = { d with body := d.body.unadjusted { d.body.sup with mode := .brownout } } := by
  obtain ⟨h1, -, h3⟩ := Body.todInvalid_rest (b := d.body)
  rw [brownoutStart, if_neg (not_not_intro h), Body.unadjusted, ← h1, ← h3]
  rfl

/-- The engine with RESET_N released and the straps sampled. -/
def Dev.released (d : Dev) (straps : Straps) : Dev := { d with body := { d.body with sup := { d.body.sup with released := true, straps := straps } } }

theorem Dev.resetRelease_eq {d : Dev} {x : Straps} (h : d.body.sup.mode = .held) (hr : d.body.sup.released = false) :
    d.resetRelease x = (d.released x).resetTry false := if_neg (by simp [h, hr])

theorem Dev.resetTry_lost {d : Dev} {por : Bool} (h : d.body.lamp.refLost = true) :
    d.resetTry por = { d with body := { d.body with sup := { d.body.sup with mode := .held } } } := if_pos h

theorem Dev.resetTry_hot {d : Dev} {por : Bool} (h : d.body.lamp.refLost = false) (hj : 840 ≤ d.body.jmax) :
    d.resetTry por = { d with body := ({ d.body with sup := { d.body.sup with mode := .hot, lampOnly := false } } : Body).wr Pg.fmu R.FMU_TRIP_HOLD 0 } := by
  rw [resetTry, if_neg (by simp [h]), if_pos hj]
  rfl

theorem Dev.resetTry_cool {d : Dev} {por : Bool} (h : d.body.lamp.refLost = false) (hj : d.body.jmax < 840) : d.resetTry por = d.resetEnd por := by
  rw [resetTry, if_neg (by simp [h]), if_neg (by omega)]

/-- The engine as the Lamp's power-on reset finds it. -/
def Dev.poweredOn (d : Dev) (sa : Nat) (ready : Bool) (straps : Straps) : Dev :=
  { d with body := { d.body.wiped true with
    sup := { mode := .held, released := ready, straps := if ready then straps else {}, sa := sa % 4, lampOnly := true } } }

theorem Dev.lampPowerOn_eq {d : Dev} {sa : Nat} {ready : Bool} {x : Straps} (h : d.body.sup.mode = .off) :
    d.lampPowerOn sa ready x = if ready then (d.poweredOn sa ready x).resetTry true else d.poweredOn sa ready x := if_neg (not_not_intro h)

theorem Dev.poweredOn_cool (d : Dev) (sa : Nat) (ready : Bool) (x : Straps) : (d.poweredOn sa ready x).body.jmax = 0 := by
  have h : (d.poweredOn sa ready x).body.rd Pg.lamp R.TH_JMAX = 0 := Body.wiped_rd (b := d.body) (por := true) (by decide) (by decide)
  rw [Body.jmax, h]
  rfl

theorem Dev.lampPowerLoss_eq (d : Dev) : d.lampPowerLoss = { d with body := { d.body.wiped true with sup := { mode := .off } } } := rfl

/-! What the statement says of a state. -/

/-- The engine is stopped, and its time of day goes on unadjusted. -/
def State.Stopped (s t : State) (m : Mode) : Prop :=
  t.dev.body.sup.mode = m ∧ t.reg Pg.lamp R.TOD_VALID = 0 ∧ t.reg Pg.lamp R.TOD_FREQ_ADJ = 0 ∧
    (s.reg Pg.lamp R.TOD_VALID = 1 → t.evt Pg.lamp R.TOD_EVT_INVALID) ∧ t.dev.body.lamp.slew = 0 ∧ t.dev.body.tod = s.dev.body.tod ∧ s.keeps t [Pg.lamp]

theorem State.stopped_unadjusted (s : State) (x : PwrSt) : s.Stopped (s.withBody (s.dev.body.unadjusted x)) x.mode := by
  obtain ⟨h1, h2, h3, h4, h5⟩ := Body.unadjusted_spec (b := s.dev.body) x
  have hsup : (s.dev.body.unadjusted x).sup = x := rfl
  have hslew : (s.dev.body.unadjusted x).lamp.slew = 0 := rfl
  refine ⟨?_, ?_, ?_, fun h => State.lamp_evt (by decide) (h4 h), ?_, ?_, State.withBody_keeps h1⟩
  · rw [(by simp : (s.withBody (s.dev.body.unadjusted x)).dev.body.sup = (s.dev.body.unadjusted x).sup), hsup]
  · rw [State.lamp_reg (by decide) (by decide), h2]
  · rw [State.lamp_reg (by decide) (by decide), h3]
  · rw [State.withBody_lamp, hslew]
  · rw [State.withBody_tod, h5]

/-- The engine is as an engine reset leaves it. -/
def State.IsCold (s t : State) : Prop :=
  t.dev.body.sup.mode = .running ∧ t.dev.body.boot = {} ∧ t.dev.sticky = { s.dev.sticky with locked := [] } ∧
  (∀ (q : Nat) (g : Fld) (x y : Nat), g.lo < 32 → pageOf (g.addr q x y) ≠ Pg.lamp → pageOf (g.addr q x y) ≠ Pg.boot →
    (g.addr q x y % 0x1000 = 0x10 → 0x8000 ≤ g.addr q x y) → t.reg q g x y = g.reset x % 2 ^ g.width) ∧
  (∀ n < 8, t.reg (0x1000 * n) R.PG_EN = 1) ∧
  (∀ tid idx, tid ≠ Tbl.glow → idx < 2 ^ 40 → t.ent tid idx = tblReset tid idx) ∧
  t.dev.body.ctrs = [] ∧ t.dev.body.cairn = {} ∧ t.dev.body.net = {} ∧ t.dev.body.pipe = {} ∧ t.dev.body.stat = {} ∧
  t.dev.body.buf = {} ∧ t.dev.body.rim = {} ∧ t.dev.body.hbm = {} ∧ t.dev.body.far = {} ∧
  t.dev.body.sch = { next := s.dev.body.clk + 128 } ∧ t.dev.body.marks = [] ∧
  t.dev.body.grt = {} ∧ t.dev.body.host = {} ∧ t.dev.body.irq = {} ∧ t.dev.body.gov = {} ∧
  t.dev.body.mem = { far0 := s.dev.body.mem.far0, far1 := s.dev.body.mem.far1, host := s.dev.body.mem.host }

/-- What an engine reset keeps of the Lamp's. -/
def State.Spares (s t : State) : Prop :=
  t.reg Pg.lamp R.TH_TRIP_LAST = s.reg Pg.lamp R.TH_TRIP_LAST ∧ t.dev.body.tod = s.dev.body.tod ∧
  t.reg Pg.lamp R.TOD_VALID = 0 ∧ ∀ n < 18, Body.glwTripped (t.ent Tbl.glow n) = Body.glwTripped (s.ent Tbl.glow n)

/-- What the Lamp's power-on reset clears too. -/
def State.LampCleared (t : State) : Prop := t.dev.body.tod = 0 ∧ t.reg Pg.lamp R.TH_TRIP_LAST = 0 ∧ t.reg Pg.lamp R.TOD_VALID = 0

theorem Body.Cold.of_sameLasting {b b' c : Body} (h : Body.Cold b' c) (hw : ∀ x, ({ b'.wiped true with sup := x, lamp := {} } : Body) = { b.wiped true with sup := x, lamp := {} }) :
    Body.Cold b c := by
  obtain ⟨⟨svc, sup, lamp, tod, regs, tbls, hc⟩, h2, h3, h4⟩ := h
  refine ⟨⟨svc, sup, lamp, tod, regs, tbls, ?_⟩, h2, h3, h4⟩
  exact hc.trans (congrArg (fun z : Body => { z with svc := svc, lamp := lamp, tod := tod, regs := regs, tbls := tbls }) (hw sup))

section
variable {s : State} {c : Body}

/-- The state after a reset that left its engine cold. -/
def State.cold (s : State) (c : Body) : State := { s with dev := { sticky := { s.dev.sticky with locked := [] }, body := c } }

theorem State.always_cold {F : Dev → Dev} (hc : Body.Cold s.dev.body c)
    (hF : F s.dev = { sticky := { s.dev.sticky with locked := [] }, body := c }) : s.always true F = .next (s.cold c) := by
  rw [s.always_runs F rfl, Dev.after, hF]
  dsimp only
  rw [hc.note]
  rfl

theorem State.isCold_cold (h : Body.Cold s.dev.body c) (hm : c.sup.mode = .running) : s.IsCold (s.cold c) := by
  obtain ⟨⟨svc, sup, lamp, tod, regs, tbls, hc⟩, h2, h3, h4⟩ := h
  refine ⟨hm, ?_, rfl, h2, h3, fun tid idx hne hlt => Sp.get_of_notMem _ _ _ fun e he hk => ?_, ?_⟩
  · rw [State.cold, hc]
    rfl
  · obtain ⟨n, hn, hg⟩ := h4 e he
    rw [hg, entKey, entKey] at hk
    omega
  · rw [State.cold, hc]
    exact ⟨rfl, rfl, rfl, rfl, rfl, rfl, rfl, rfl, rfl, rfl, rfl, rfl, rfl, rfl, rfl, rfl⟩

end

end Sys2Proof.Machine

namespace Sys2Proof
open Machine

/-- Settles O48: what stops the engine leaves every register outside the Lamp page (`Body.unadjusted_spec`); a reset that ends under the test
strap leaves it cold (`Dev.resetEnd_cold`), and nothing follows from that change (`Body.Cold.note`). -/
theorem engineResets : Obligations.EngineResets := by
  unfold Obligations.EngineResets
  intro s
  have hcold : ∀ (F : Dev → Dev) (d : Dev), F s.dev = d.resetEnd false → d.sticky = s.dev.sticky → d.body.sup.straps.test = true →
      (∃ x, d.body = { s.dev.body with sup := x }) → Body.glwTripped (s.ent Tbl.glow 16) = false →
      ∃ t, s.always true F = .next t ∧ s.IsCold t ∧ s.Spares t ∧ t.reg Pg.boot R.BOOT_FLASH_REL = (if d.body.sup.straps.flashRel then 1 else 0) := by
    intro F d hF hsticky htest hbody hglw
    obtain ⟨x, hx⟩ := hbody
    have he : d.body.ent Tbl.glow = s.ent Tbl.glow := by rw [hx]; rfl
    obtain ⟨c, hc, h1, ⟨hm, -⟩, h2, h3, h4, -⟩ := Dev.resetEnd_cold (d := d) (por := false) htest fun _ => he ▸ hglw
    obtain ⟨h5, h6, h7⟩ := h4 rfl
    have h1 : Body.Cold s.dev.body c := h1.of_sameLasting fun y => by rw [hx]; rfl
    refine ⟨_, State.always_cold h1 (by rw [hF, hc, hsticky]), State.isCold_cold h1 hm, ⟨h5.trans (by rw [hx]; rfl), h6.trans (by rw [hx]), h3, fun n hn => ?_⟩, h2⟩
    rw [← he]
    exact h7 n hn
  refine ⟨fun hoff => ?_, fun hrun => ?_, fun fr slow test hheld hrel => ⟨fun hlost => ?_, fun href hhot => ?_, fun href hcool ht hglw => ?_⟩,
    fun ht hglw => ⟨fun hbr => ?_, fun hhot hcool => ?_⟩, fun hhot hj => ?_, ?_, fun sa ready fr slow test hsa hoff => ⟨fun hready => ?_, fun hready ht href => ?_⟩⟩
  · exact ⟨_, State.always_withBody rfl (Dev.resetAssert_eq hoff), s.stopped_unadjusted _, by simp [Body.unadjusted]⟩
  · exact ⟨_, State.always_withBody rfl (Dev.brownoutStart_eq hrun), s.stopped_unadjusted _, by simp [Body.unadjusted, Body.faultPin]⟩
  · refine ⟨_, State.always_withBody rfl ((Dev.resetRelease_eq hheld hrel).trans (Dev.resetTry_lost hlost)), ?_, ?_, ?_,
      State.withBody_keeps ⟨fun _ _ _ _ _ _ _ => rfl, rfl, rfl, rfl⟩⟩
    · simp
    · simp [Dev.released]
    · simp [Dev.released]
  · refine ⟨_, State.always_withBody rfl ((Dev.resetRelease_eq hheld hrel).trans (Dev.resetTry_hot href hhot)), by simp, ?_,
      State.withBody_keeps ?_⟩
    swap
    · have hsame : Body.Keeps [Pg.fmu] s.dev.body { s.dev.body with sup := { s.dev.body.sup with
          mode := .hot, released := true, straps := { flashRel := fr, slow := slow, test := test }, lampOnly := false } } := ⟨fun _ _ _ _ _ _ _ => rfl, rfl, rfl, rfl⟩
      exact hsame.wr (by decide) (by decide)
    rw [State.withBody_reg (by decide) (by decide)]
    exact Body.rd_wr_self ..
  · obtain ⟨t, h1, h2, h3, h4⟩ := hcold (fun d => d.resetRelease { flashRel := fr, slow := slow, test := test }) _
      ((Dev.resetRelease_eq hheld hrel).trans (Dev.resetTry_cool href hcool)) rfl ht ⟨_, rfl⟩ hglw
    exact ⟨t, h1, h2, h3, h4⟩
  · obtain ⟨t, h1, h2, h3, -⟩ := hcold (fun d => d.brownoutEnd) _ (if_pos hbr) rfl ht ⟨_, rfl⟩ hglw
    exact ⟨t, h1, h2, h3⟩
  · obtain ⟨t, h1, h2, h3, -⟩ := hcold (fun d => d.hotEnd) _ (if_pos ⟨hhot, hcool⟩) rfl ht ⟨_, rfl⟩ hglw
    exact ⟨t, h1, h2, h3⟩
  · have hex : exec .thermalResetHoldEnd s = s.always true fun d => d.hotEnd := rfl
    have hstay : s.dev.hotEnd = s.dev := if_neg fun h => absurd h.2 (by omega)
    rw [hex, State.always_withBody (c := s.dev.body) rfl hstay, State.withBody_self]
  · refine ⟨_, State.always_withBody rfl s.dev.lampPowerLoss_eq, by simp, ⟨?_, ?_, ?_⟩, rfl⟩
    · rw [State.withBody_tod]
      rfl
    · rw [State.lamp_reg (by decide) (by decide)]
      rfl
    · rw [State.lamp_reg (by decide) (by decide)]
      rfl
  · have hok : decide (sa < 4) = true := decide_eq_true hsa
    refine ⟨_, State.always_withBody hok ((Dev.lampPowerOn_eq hoff).trans (if_neg (by simp [hready]))), ?_, ?_, ?_, ?_, ⟨?_, ?_, ?_⟩⟩
    · simp
    · simp [hready]
    · simp [Nat.mod_eq_of_lt hsa]
    · simp
    · rw [State.withBody_tod]
      rfl
    · rw [State.lamp_reg (by decide) (by decide)]
      rfl
    · rw [State.lamp_reg (by decide) (by decide)]
      rfl
  · obtain ⟨c, hc, h1, ⟨hm, hsa'⟩, -, h3, -, h4⟩ := Dev.resetEnd_cold (d := s.dev.poweredOn sa true { flashRel := fr, slow := slow, test := test }) (por := true) ht
      fun h => (nomatch h)
    obtain ⟨h5, h6⟩ := h4 rfl
    have h1 : Body.Cold s.dev.body c := h1.of_sameLasting fun y => rfl
    have hex : exec (.lampPowerOn sa ready fr slow test) s = s.always (decide (sa < 4)) fun d => d.lampPowerOn sa ready { flashRel := fr, slow := slow, test := test } := rfl
    have htry : (s.dev.poweredOn sa true { flashRel := fr, slow := slow, test := test }).resetTry true = _ :=
      (Dev.resetTry_cool (show (s.dev.poweredOn sa true { flashRel := fr, slow := slow, test := test }).body.lamp.refLost = false from href)
        (by rw [Dev.poweredOn_cool]; decide)).trans hc
    have hon : s.dev.lampPowerOn sa true { flashRel := fr, slow := slow, test := test } = _ := (Dev.lampPowerOn_eq hoff).trans ((if_pos rfl).trans htry)
    rw [hex, decide_eq_true hsa, hready]
    refine ⟨_, State.always_cold h1 hon,
      State.isCold_cold h1 hm, hsa'.trans (Nat.mod_eq_of_lt hsa), h6, h5, h3⟩

end Sys2Proof
end

section
/-! O50: the host load path, key slots and injection on the boot page (R397, R398, R403, R405, R415). -/

namespace Sys2Proof.Machine

/-! The stores of the boot page. -/

/-- What a write of a register of the boot page goes on to do (R397, R404). -/
def Dev.bootActs (d : Dev) (m a v : Nat) : Dev :=
  if goes a v R.BOOT_LD_RESUME = true ∧ Master.mayLoad m = true then d.bootResume
  else if goes a v R.BOOT_PROV_GO = true ∧ m = Master.jtag then d.provGo else d

/-- A write that the fabric takes of a register of the boot page. -/
theorem Dev.write_boot {s : State} {m off : Nat} (v : Nat) (h : s.takes m (Pg.boot + off)) (h1 : 0x80 ≤ off) (h2 : off < 0x800) (h4 : off % 4 = 0)
    (hk : PK.boot.plain off = true) : s.dev.write m (Pg.boot + off) v =
      ({ s.dev with body := (s.dev.body.storeBoot m (Pg.boot + off) v).1 } : Dev).bootActs m (Pg.boot + off) v := by
  simp only [PK.plain, Bool.and_eq_true, bne_iff_ne, Bool.not_eq_true', List.isEmpty_eq_false_iff, ne_eq] at hk
  have hi : s.dev.body.on Pg.boot R.PG_RESET_BUSY = false := by
    have := h.idle
    rw [pageIs_boot.pageOf (by omega)] at this
    simp [Body.on, show s.dev.body.rd Pg.boot R.PG_RESET_BUSY = 0 from this]
  have ha : (Pg.boot + off) / 4 * 4 = Pg.boot + off := by
    have := pageIs_boot.aligned
    omega
  have hstore : (s.dev.body.regStore m (Pg.boot + off) v (s.dev.pageLocked Pg.boot)).1 = (s.dev.body.storeBoot m (Pg.boot + off) v).1 := by
    unfold Body.regStore
    simp only [pageIs_boot.kindAt (show off < 0x1000 by omega), pageIs_boot.fieldsOf (show off < 0x1000 by omega) hk.1.1, hk.1.2, if_false,
      pageIs_boot.pageOf (show off < 0x1000 by omega), hi, Bool.false_eq_true, pageIs_boot.isRws (show off < 0x1000 by omega) hk.1.1, hk.2, Body.pageStore]
  unfold Dev.write Dev.busWrite Dev.bootActs
  rw [ha]
  simp only [h.bar0, h.notBmc, h.reach]
  simp [Dev.pageWrite, ha, pageIs_boot.placeOf_block h1 h2, pageIs_boot.pageOf (show off < 0x1000 by omega), hi, hstore]
  split_ifs <;> rfl

theorem Dev.put_boot {s : State} {m off : Nat} {f : Fld} (v : Nat) (h : s.takes m (Pg.boot + off)) (h1 : 0x80 ≤ off) (h2 : off < 0x800)
    (h4 : off % 4 = 0) (hk : PK.boot.plain off = true) (hf : f.addr Pg.boot 0 0 = Pg.boot + off) (hok : putOk (PK.boot.fieldsAt off) f = true) :
    ∃ w, (∀ x ∈ PK.boot.fieldsAt off, x.1.of w = s.dev.body.putVal Pg.boot f v x) ∧
      s.dev.put m Pg.boot f 0 v = ({ s.dev with body := (s.dev.body.storeBoot m (Pg.boot + off) w).1 } : Dev).bootActs m (Pg.boot + off) w := by
  have hl := pageIs_boot.fieldsOf (off := off) (by omega) (by decide)
  obtain ⟨hap, hone⟩ := putOk_iff hok
  refine ⟨_, fun x hx => of_fieldWord hap (fun y _ => s.dev.body.putVal_width Pg.boot f v y) hx, ?_⟩
  unfold Dev.put
  dsimp only
  rw [hf, s.dev.body.keepWord_put hl (pageIs_boot.pageOf (by omega)) hone, Dev.write_boot _ h h1 h2 h4 hk]

namespace Body

section
variable {b c : Body} {m w : Nat}

/-- The registers of the load path and of the key slots as a word leaves them. -/
def loadTaken (b : Body) (w : Nat) : Body := (b.wr Pg.boot R.BOOT_FLASH_REL (R.BOOT_FLASH_REL.of w)).wr Pg.boot R.BOOT_LD_LEN (R.BOOT_LD_LEN.of w)
def keyTaken (b : Body) (w : Nat) : Body := (b.wr Pg.boot R.BOOT_PROV_REVOKE (R.BOOT_PROV_REVOKE.of w)).wr Pg.boot R.BOOT_PROV_SLOT (R.BOOT_PROV_SLOT.of w)

theorem takeBits_load : b.takeBits (Pg.boot + 0x98) w = b.loadTaken w := by
  rw [takeBits, pageIs_boot.fieldsOf (by decide) (by decide), pageIs_boot.pageOf (by decide)]
  rfl

theorem takeBits_key : b.takeBits (Pg.boot + 0xA4) w = b.keyTaken w := by
  rw [takeBits, pageIs_boot.fieldsOf (by decide) (by decide), pageIs_boot.pageOf (by decide)]
  rfl

theorem storeBoot_load (h : Master.mayLoad m = true) : (b.storeBoot m (Pg.boot + 0x98) w).1 =
    if R.BOOT_LD_GO.of w = 1 then (b.loadTaken w).bootLdGo m else b.loadTaken w := by
  have h1 : (fieldAt (Pg.boot + 0x98) R.BOOT_INJ_GO).isSome = false := by rw [pageIs_boot.fieldAt (by decide) (by decide)]; rfl
  have h2 : (fieldAt (Pg.boot + 0x98) R.BOOT_LD_GO).isSome = true := by rw [pageIs_boot.fieldAt (by decide) (by decide)]; rfl
  rw [storeBoot, if_neg (by simp [h1]), if_pos h2, if_neg (by simp [h])]
  dsimp only
  rw [takeBits_load]
  split_ifs <;> rfl

theorem storeBoot_load_refused (h : Master.mayLoad m = false) : (b.storeBoot m (Pg.boot + 0x98) w).1 = b.fire Pg.boot R.BOOT_EVT_BADCMD := by
  have h1 : (fieldAt (Pg.boot + 0x98) R.BOOT_INJ_GO).isSome = false := by rw [pageIs_boot.fieldAt (by decide) (by decide)]; rfl
  have h2 : (fieldAt (Pg.boot + 0x98) R.BOOT_LD_GO).isSome = true := by rw [pageIs_boot.fieldAt (by decide) (by decide)]; rfl
  rw [storeBoot, if_neg (by simp [h1]), if_pos h2, if_pos (by simp [h])]

theorem storeBoot_key : (b.storeBoot m (Pg.boot + 0xA4) w).1 = if m = Master.jtag then b.keyTaken w else b.fire Pg.boot R.BOOT_EVT_BADCMD := by
  have h1 : (fieldAt (Pg.boot + 0xA4) R.BOOT_INJ_GO).isSome = false := by rw [pageIs_boot.fieldAt (by decide) (by decide)]; rfl
  have h2 : (fieldAt (Pg.boot + 0xA4) R.BOOT_LD_GO).isSome = false := by rw [pageIs_boot.fieldAt (by decide) (by decide)]; rfl
  have h3 : (fieldAt (Pg.boot + 0xA4) R.BOOT_PROV_GO).isSome = true := by rw [pageIs_boot.fieldAt (by decide) (by decide)]; rfl
  rw [storeBoot, if_neg (by simp [h1]), if_neg (by simp [h2])]
  by_cases h : m = Master.jtag
  · rw [if_neg fun hn => hn.2 h, if_pos h, takeBits_key]
  · rw [if_pos ⟨h3, h⟩, if_neg h]

theorem storeBoot_inject (hw : R.BOOT_INJ_GO.of w = 1) : (b.storeBoot m (Pg.boot + 0xA8) w).1 =
    (b.wr Pg.boot R.BOOT_INJ_KIND (R.BOOT_INJ_KIND.of w)).bootInject := by
  have h1 : (fieldAt (Pg.boot + 0xA8) R.BOOT_INJ_GO).isSome = true := by rw [pageIs_boot.fieldAt (by decide) (by decide)]; rfl
  rw [storeBoot, if_pos h1, b.takeGo_act _ h1 hw, takeBits, pageIs_boot.fieldsOf (by decide) (by decide), pageIs_boot.pageOf (by decide)]
  rfl

theorem loadTaken_spec (hrel : R.BOOT_FLASH_REL.of w < 2) (hlen : R.BOOT_LD_LEN.of w = b.rd Pg.boot R.BOOT_LD_LEN) :
    Keeps [Pg.boot] b (b.loadTaken w) ∧ (b.loadTaken w).rd Pg.boot R.BOOT_FLASH_REL = R.BOOT_FLASH_REL.of w ∧
    (b.loadTaken w).rd Pg.boot R.BOOT_LD_LEN = b.rd Pg.boot R.BOOT_LD_LEN ∧
    (∀ f : Fld, apart R.BOOT_FLASH_REL f = true → apart R.BOOT_LD_LEN f = true → (b.loadTaken w).rd Pg.boot f = b.rd Pg.boot f) :=
  ⟨((Keeps.refl b).wr (by decide) (by decide)).wr (by decide) (by decide),
    (rd_wr_of_ne _ _ (by decide)).trans ((rd_wr_self ..).trans (Nat.mod_eq_of_lt hrel)),
    (rd_wr_self ..).trans (by rw [hlen]; exact Nat.mod_eq_of_lt (b.rd_lt ..)),
    fun f h1 h2 => (rd_wr_apart h2).trans (rd_wr_apart h1)⟩

/-- BOOT_LD_GO starts the checks, unless they run (R405). -/
theorem bootLdGo_spec : Keeps [Pg.boot] b (b.bootLdGo m) ∧
    (b.rd Pg.boot R.BOOT_LD_BUSY = 1 → (b.bootLdGo m).rd Pg.boot (evtPend R.BOOT_EVT_BADCMD) = 1 ∧ (b.bootLdGo m).boot = b.boot) ∧
    (b.rd Pg.boot R.BOOT_LD_BUSY = 0 → (b.bootLdGo m).rd Pg.boot R.BOOT_LD_BUSY = 1 ∧ (b.bootLdGo m).boot.master = m ∧
      (b.bootLdGo m).boot.len = b.rd Pg.boot R.BOOT_LD_LEN) := by
  unfold bootLdGo
  by_cases h : b.on Pg.boot R.BOOT_LD_BUSY = true
  · rw [if_pos h]
    exact ⟨(Keeps.refl b).fire (by decide) (by decide) (by decide), fun _ => ⟨fire_pend _ (by decide) (by decide), by simp⟩, fun h0 => by simp [on, h0] at h⟩
  · rw [if_neg h]
    dsimp only
    have hkeep : ∀ x, Keeps [Pg.boot] b (({ b with boot := x } : Body).wr Pg.boot R.BOOT_LD_BUSY 1) := fun x =>
      (Keeps.of_eq (d := { b with boot := x }) (.refl b) rfl rfl rfl rfl).wr (by decide) (by decide)
    exact ⟨hkeep _, fun h1 => by simp [on, h1] at h, fun _ => ⟨rd_wr_self .., rfl, rfl⟩⟩

/-- An injection is armed by its kind (R415). -/
theorem bootInject_spec : Keeps [Pg.boot] b b.bootInject ∧
    (b.rd Pg.boot R.BOOT_INJ_KIND ≠ 3 → b.bootInject.boot.arm = some (b.rd Pg.boot R.BOOT_INJ_KIND)) ∧
    (b.rd Pg.boot R.BOOT_INJ_KIND = 3 → b.bootInject.boot.arm = b.boot.arm) := by
  unfold bootInject
  by_cases h : b.rd Pg.boot R.BOOT_INJ_KIND = 3
  · rw [if_pos h]
    exact ⟨.refl b, fun hn => absurd h hn, fun _ => rfl⟩
  · rw [if_neg h]
    exact ⟨⟨fun _ _ _ _ _ _ _ => rfl, rfl, rfl, rfl⟩, fun _ => rfl, fun h3 => absurd h3 h⟩

end

end Body

/-! Key slots (R397). -/

/-- What BOOT_PROV_GO does, by the slot and by whether it revokes. -/
theorem Dev.provGo_revoke {d : Dev} {n : Nat} (hn : d.body.rd Pg.boot R.BOOT_PROV_SLOT = n) (hr : d.body.rd Pg.boot R.BOOT_PROV_REVOKE = 1) :
    d.provGo = if n = 0 ∨ n ∈ d.sticky.revoked then d else { d with sticky := { d.sticky with revoked := d.sticky.revoked ++ [n] } } := by
  subst hn
  rw [provGo, if_pos (by rw [Body.on, hr]; rfl)]
  simp only [List.contains_iff_mem]

theorem Dev.provGo_fuse {d : Dev} {n : Nat} (hn : d.body.rd Pg.boot R.BOOT_PROV_SLOT = n) (hr : d.body.rd Pg.boot R.BOOT_PROV_REVOKE = 0) :
    d.provGo = if n = 0 ∨ (∃ e ∈ d.sticky.prov, e.1 = n) then d.on fun b => b.fire Pg.boot R.BOOT_EVT_BADCMD
      else { d with sticky := { d.sticky with prov := d.sticky.prov ++ [(n, leNat (d.body.loadImage 48))] } } := by
  subst hn
  rw [provGo, if_neg (by rw [Body.on, hr]; decide)]
  simp only [List.any_eq_true, beq_iff_eq]

theorem Body.keyTaken_spec {b : Body} {w : Nat} : (b.keyTaken w).rd Pg.boot R.BOOT_PROV_SLOT = R.BOOT_PROV_SLOT.of w ∧
    (b.keyTaken w).rd Pg.boot R.BOOT_PROV_REVOKE = R.BOOT_PROV_REVOKE.of w ∧ ∀ n, (b.keyTaken w).loadImage n = b.loadImage n :=
  ⟨(rd_wr_self ..).trans (Nat.mod_eq_of_lt (Nat.mod_lt _ (Nat.two_pow_pos _))),
    (rd_wr_of_ne _ _ (by decide)).trans ((rd_wr_self ..).trans (Nat.mod_eq_of_lt (Nat.mod_lt _ (Nat.two_pow_pos _)))), fun _ => rfl⟩

section
variable {s : State} {m w slot : Nat}

/-- A write of BOOT_PROV: refused, but to the debugger. -/
theorem Dev.write_key (ht : s.takes m (Pg.boot + 0xA4)) (hw : R.BOOT_PROV_GO.of w = 1) : s.dev.write m (Pg.boot + 0xA4) w =
    if m = Master.jtag then ({ s.dev with body := s.dev.body.keyTaken w } : Dev).provGo
    else { s.dev with body := s.dev.body.fire Pg.boot R.BOOT_EVT_BADCMD } := by
  have h1 : goes (Pg.boot + 0xA4) w R.BOOT_LD_RESUME = false := by rw [goes, pageIs_boot.fieldAt (by decide) (by decide)]; rfl
  have h2 : goes (Pg.boot + 0xA4) w R.BOOT_PROV_GO = true := by rw [goes, pageIs_boot.fieldAt (by decide) (by decide), hw]; rfl
  rw [Dev.write_boot w ht (by decide) (by decide) (by decide) (by decide), Body.storeBoot_key, Dev.bootActs, if_neg (by simp [h1])]
  by_cases h : m = Master.jtag
  · rw [if_pos ⟨h2, h⟩, if_pos h, if_pos h]
  · rw [if_neg fun hn => h hn.2, if_neg h, if_neg h]

/-- A write of a load register through one of its fields. -/
theorem Dev.put_load {f : Fld} {v : Nat} (ht : s.takes m (Pg.boot + 0x98)) (hf : f.addr Pg.boot 0 0 = Pg.boot + 0x98)
    (hok : putOk (PK.boot.fieldsAt 0x98) f = true) : ∃ w, (∀ x ∈ PK.boot.fieldsAt 0x98, x.1.of w = s.dev.body.putVal Pg.boot f v x) ∧
      s.dev.put m Pg.boot f 0 v =
        if Master.mayLoad m = true then
          if R.BOOT_LD_RESUME.of w = 1 then
            ({ s.dev with body := if R.BOOT_LD_GO.of w = 1 then (s.dev.body.loadTaken w).bootLdGo m else s.dev.body.loadTaken w } : Dev).bootResume
          else { s.dev with body := if R.BOOT_LD_GO.of w = 1 then (s.dev.body.loadTaken w).bootLdGo m else s.dev.body.loadTaken w }
        else { s.dev with body := s.dev.body.fire Pg.boot R.BOOT_EVT_BADCMD } := by
  obtain ⟨w, hw, hput⟩ := Dev.put_boot v ht (by decide) (by decide) (by decide) (by decide) hf hok
  refine ⟨w, hw, hput.trans ?_⟩
  have h1 : goes (Pg.boot + 0x98) w R.BOOT_LD_RESUME = (R.BOOT_LD_RESUME.of w == 1) := by rw [goes, pageIs_boot.fieldAt (by decide) (by decide)]; rfl
  have h2 : goes (Pg.boot + 0x98) w R.BOOT_PROV_GO = false := by rw [goes, pageIs_boot.fieldAt (by decide) (by decide)]; rfl
  rw [Dev.bootActs, h1, h2]
  by_cases h : Master.mayLoad m = true
  · rw [Body.storeBoot_load h, if_pos h]
    by_cases hr : R.BOOT_LD_RESUME.of w = 1
    · rw [if_pos ⟨beq_iff_eq.mpr hr, h⟩, if_pos hr]
    · rw [if_neg fun hn => hr (beq_iff_eq.mp hn.1), if_neg hr, if_neg fun hn => (nomatch hn.1)]
  · rw [Body.storeBoot_load_refused (by simpa using h), if_neg h, if_neg fun hn => h hn.2, if_neg fun hn => (nomatch hn.1)]

end

theorem State.withBody_boot {s : State} {c : Body} : (s.withBody c).dev.body.boot = c.boot := by simp

/-! The end of the checks (R405). -/

/-- What the end of the checks shows. -/
def Body.loadEnded (b : Body) (err : Nat) : Body :=
  ((({ b with boot := { b.boot with arm := none, tgts := [], tgtBusy := false } } : Body).wr Pg.boot R.BOOT_LD_BUSY 0).wr Pg.boot R.BOOT_LD_RC err).fire
    Pg.boot R.BOOT_EVT_LD_DONE

theorem Dev.loadDone_busy {d : Dev} {l : List Byte} (hl : l = d.body.loadImage (min d.body.boot.len 0x100000)) (h : d.body.rd Pg.boot R.BOOT_LD_BUSY = 1) :
    d.loadDone = (if d.loadError l = BE_NONE then d.putHostImage l else d).on fun b => b.loadEnded (d.loadError l) := by
  subst hl
  rw [loadDone, if_neg (by simp [Body.on, h])]
  rfl

theorem Body.loadEnded_spec (b : Body) (err : Nat) : (b.loadEnded err).rd Pg.boot R.BOOT_LD_BUSY = 0 ∧ (b.loadEnded err).rd Pg.boot R.BOOT_LD_RC = err % 16 ∧
    (b.loadEnded err).rd Pg.boot (evtPend R.BOOT_EVT_LD_DONE) = 1 ∧ (b.loadEnded err).boot = { b.boot with arm := none, tgts := [], tgtBusy := false } ∧
    (b.loadEnded err).mem = b.mem ∧ (b.loadEnded err).tbls = b.tbls ∧ (b.loadEnded err).cairn = b.cairn := by
  refine ⟨?_, ?_, fire_pend _ (by decide) (by decide), by simp [loadEnded], by simp [loadEnded], by simp [loadEnded], by simp [loadEnded]⟩
  · exact (rd_fire_field (by decide) (by decide) (by decide)).trans ((rd_wr_of_ne _ _ (by decide)).trans (rd_wr_self ..))
  · exact (rd_fire_field (by decide) (by decide) (by decide)).trans (rd_wr_self ..)

theorem Dev.putHostImage_commits {d : Dev} {l : List Byte} (h : imgType l ≠ IT_AE_PATCH) : (d.putHostImage l).sticky = d.sticky.commitSvn l := by
  unfold putHostImage
  dsimp only
  rw [if_neg h]
  split_ifs <;> rfl

end Sys2Proof.Machine

namespace Sys2Proof
open Machine

/-- Settles O50: the load path and the key slots are stores of the boot page (`Dev.put_load`, `Dev.write_key`) and what they go on to do. -/
theorem hostLoadsAndKeys : Obligations.HostLoadsAndKeys := by
  unfold Obligations.HostLoadsAndKeys
  intro s
  have hbad : ∀ c, c = s.dev.body.fire Pg.boot R.BOOT_EVT_BADCMD → (s.withBody c).evt Pg.boot R.BOOT_EVT_BADCMD ∧
      (s.withBody c).dev.sticky = s.dev.sticky ∧ (s.withBody c).dev.body.boot = s.dev.body.boot ∧ s.keeps (s.withBody c) [Pg.boot] := by
    rintro c rfl
    exact ⟨State.withBody_page_evt (by decide) (by decide) (Body.fire_pend _ (by decide) (by decide)), rfl, by simp,
      State.withBody_keeps ((Body.Keeps.refl _).fire (by decide) (by decide) (by decide))⟩
  have hreg : ∀ (c : Body) (f : Fld), f.lo < 32 → f.off < 0x1000 → (s.withBody c).reg Pg.boot f = c.rd Pg.boot f := fun c f hf ho =>
    State.withBody_page (by decide) hf
  refine ⟨fun m ht => ⟨fun hm hr => ⟨?_, ?_⟩, fun hm on => ?_, fun hm hr => ⟨fun hb => ?_, fun hb => ?_⟩, fun hm on => ?_⟩, fun hr => ⟨fun hb => ?_, fun hb => ?_⟩,
    fun m slot hslot ht hr => ⟨fun hm => ⟨?_, ?_⟩, fun hm => ⟨fun h0 hfree => ?_, fun hused => ?_, fun h0 hrev => ?_, fun hrev => ?_⟩⟩, fun m ht => ?_⟩
  · obtain ⟨w, -, hput⟩ := Dev.put_load (f := R.BOOT_LD_GO) (v := 1) ht rfl (by decide)
    exact ⟨_, State.live_withBody ht.known hr (hput.trans (if_neg (by simp [hm]))), hbad _ rfl⟩
  · obtain ⟨w, -, hput⟩ := Dev.put_load (f := R.BOOT_LD_RESUME) (v := 1) ht rfl (by decide)
    exact ⟨_, State.live_withBody ht.known hr (hput.trans (if_neg (by simp [hm]))), hbad _ rfl⟩
  · obtain ⟨w, -, hput⟩ := Dev.put_load (f := R.BOOT_FLASH_REL) (v := b2n on) ht rfl (by decide)
    refine ⟨_, State.live_withBody ht.known ht.runs (hput.trans (if_neg (by simp [hm]))), hbad _ rfl, ?_⟩
    rw [hreg _ _ (by decide) (by decide)]
    exact Body.rd_fire_field (by decide) (by decide) (by decide)
  · obtain ⟨w, hw, hput⟩ := Dev.put_load (f := R.BOOT_LD_GO) (v := 1) ht rfl (by decide)
    have hgo : R.BOOT_LD_GO.of w = 1 := (hw (R.BOOT_LD_GO, 0, 0) (by decide)).trans rfl
    have hres : R.BOOT_LD_RESUME.of w = 0 := (hw (R.BOOT_LD_RESUME, 0, 0) (by decide)).trans rfl
    have hrel : R.BOOT_FLASH_REL.of w = s.dev.body.rd Pg.boot R.BOOT_FLASH_REL := (hw (R.BOOT_FLASH_REL, 0, 0) (by decide)).trans rfl
    have hlen : R.BOOT_LD_LEN.of w = s.dev.body.rd Pg.boot R.BOOT_LD_LEN := (hw (R.BOOT_LD_LEN, 0, 0) (by decide)).trans rfl
    obtain ⟨hk, -, -, hsame⟩ := Body.loadTaken_spec (b := s.dev.body) (w := w) (by rw [hrel]; exact s.dev.body.rd_lt ..) hlen
    have hb' : (s.dev.body.loadTaken w).rd Pg.boot R.BOOT_LD_BUSY = 1 := (hsame _ (by decide) (by decide)).trans hb
    obtain ⟨h1, h2, -⟩ := Body.bootLdGo_spec (b := s.dev.body.loadTaken w) (m := m)
    obtain ⟨h3, h4⟩ := h2 hb'
    refine ⟨_, State.live_withBody ht.known hr (hput.trans ((if_pos hm).trans ((if_neg (by omega)).trans (by rw [if_pos hgo])))), ?_⟩
    exact ⟨State.withBody_page_evt (by decide) (by decide) h3, rfl, State.withBody_boot.trans h4, State.withBody_keeps (hk.trans h1)⟩
  · obtain ⟨w, hw, hput⟩ := Dev.put_load (f := R.BOOT_LD_GO) (v := 1) ht rfl (by decide)
    have hgo : R.BOOT_LD_GO.of w = 1 := (hw (R.BOOT_LD_GO, 0, 0) (by decide)).trans rfl
    have hres : R.BOOT_LD_RESUME.of w = 0 := (hw (R.BOOT_LD_RESUME, 0, 0) (by decide)).trans rfl
    have hrel : R.BOOT_FLASH_REL.of w = s.dev.body.rd Pg.boot R.BOOT_FLASH_REL := (hw (R.BOOT_FLASH_REL, 0, 0) (by decide)).trans rfl
    have hlen : R.BOOT_LD_LEN.of w = s.dev.body.rd Pg.boot R.BOOT_LD_LEN := (hw (R.BOOT_LD_LEN, 0, 0) (by decide)).trans rfl
    obtain ⟨hk, -, hlen', hsame⟩ := Body.loadTaken_spec (b := s.dev.body) (w := w) (by rw [hrel]; exact s.dev.body.rd_lt ..) hlen
    have hb' : (s.dev.body.loadTaken w).rd Pg.boot R.BOOT_LD_BUSY = 0 := (hsame _ (by decide) (by decide)).trans hb
    obtain ⟨h1, -, h2⟩ := Body.bootLdGo_spec (b := s.dev.body.loadTaken w) (m := m)
    obtain ⟨h3, h4, h5⟩ := h2 hb'
    refine ⟨_, State.live_withBody ht.known hr (hput.trans ((if_pos hm).trans ((if_neg (by omega)).trans (by rw [if_pos hgo])))), ?_⟩
    rw [State.withBody_boot, hreg _ _ (by decide) (by decide)]
    exact ⟨h3, h4, h5.trans hlen', State.withBody_keeps (hk.trans h1)⟩
  · obtain ⟨w, hw, hput⟩ := Dev.put_load (f := R.BOOT_FLASH_REL) (v := b2n on) ht rfl (by decide)
    have hgo : R.BOOT_LD_GO.of w = 0 := (hw (R.BOOT_LD_GO, 0, 0) (by decide)).trans rfl
    have hres : R.BOOT_LD_RESUME.of w = 0 := (hw (R.BOOT_LD_RESUME, 0, 0) (by decide)).trans rfl
    have hrel : R.BOOT_FLASH_REL.of w = if on then 1 else 0 := (hw (R.BOOT_FLASH_REL, 0, 0) (by decide)).trans (by cases on <;> rfl)
    have hlen : R.BOOT_LD_LEN.of w = s.dev.body.rd Pg.boot R.BOOT_LD_LEN := (hw (R.BOOT_LD_LEN, 0, 0) (by decide)).trans rfl
    obtain ⟨hk, h1, h2, -⟩ := Body.loadTaken_spec (b := s.dev.body) (w := w) (by rw [hrel]; split <;> decide) hlen
    refine ⟨_, State.live_withBody ht.known ht.runs (hput.trans ((if_pos hm).trans ((if_neg (by omega)).trans (by rw [if_neg (by omega)])))), ?_⟩
    rw [hreg _ _ (by decide) (by decide), hreg _ _ (by decide) (by decide)]
    exact ⟨h1.trans hrel, h2, State.withBody_keeps hk⟩
  · refine State.live_self rfl hr (if_pos ?_)
    have hb : s.dev.body.rd Pg.boot R.BOOT_LD_BUSY = 0 := hb
    simp [Body.on, hb]
  · have hdone := Dev.loadDone_busy (d := s.dev) rfl hb
    generalize s.dev.body.loadImage (min s.dev.body.boot.len 0x100000) = l at hdone ⊢
    generalize s.dev.loadError l = err at hdone ⊢
    have hafter : ∀ f : Fld, f.lo < 32 → f.off < 0x1000 →
        ({ s with dev := s.dev.after fun d => d.loadDone } : State).reg Pg.boot f = s.dev.loadDone.body.rd Pg.boot f := fun f hf ho =>
      s.reg_after _ hf (by
        rw [Fld.addr_zero]
        simp only [notedAt, Pg.boot, Bool.or_eq_false_iff, beq_eq_false_iff_ne]
        omega)
    refine ⟨_, s.live_runs _ rfl hr, ?_⟩
    obtain ⟨e, he⟩ : ∃ e, e = if err = BE_NONE then s.dev.putHostImage l else s.dev := ⟨_, rfl⟩
    rw [← he] at hdone
    obtain ⟨h1, h2, h3, h4, h5, h6, h7⟩ := e.body.loadEnded_spec err
    have hbody : s.dev.loadDone.body = e.body.loadEnded err := by rw [hdone]; rfl
    have hsticky : s.dev.loadDone.sticky = e.sticky := by rw [hdone]; rfl
    have hboot : (s.dev.after fun d => d.loadDone).body.boot = s.dev.loadDone.body.boot := by simp
    refine ⟨(hafter _ (by decide) (by decide)).trans (by rw [hbody, h1]), (hafter _ (by decide) (by decide)).trans (by rw [hbody, h2]),
      (s.evt_after _ (by decide) (by decide)).mpr (by rw [hbody, h3]), ?_, fun hne => ?_, fun hnone hty => ?_⟩
    · rw [hboot, hbody, h4]
    · rw [if_neg hne] at he
      subst he
      refine ⟨hsticky, ?_, ?_, ?_, ?_⟩
      · rw [hboot, hbody, h4]
      · simp [hbody, h5]
      · simp [hbody, h6]
      · simp [hbody, h7]
    · rw [if_pos hnone] at he
      exact hsticky.trans (by rw [he, Dev.putHostImage_commits hty])
  · exact ⟨_, State.live_withBody (by rw [ht.known, decide_eq_true hslot]; rfl) hr ((Dev.write_key ht (by interval_cases slot <;> rfl)).trans (if_neg hm)), hbad _ rfl⟩
  · exact ⟨_, State.live_withBody (by rw [ht.known, decide_eq_true hslot]; rfl) hr ((Dev.write_key ht (by interval_cases slot <;> rfl)).trans (if_neg hm)), hbad _ rfl⟩
  · obtain ⟨h1, h2, h3⟩ := Body.keyTaken_spec (b := s.dev.body) (w := 2 ^ 31 + slot)
    have hd : s.dev.write m (Pg.boot + 0xA4) (2 ^ 31 + slot) = _ := ((Dev.write_key ht (by interval_cases slot <;> rfl)).trans (if_pos hm)).trans
      (Dev.provGo_fuse (n := slot) (h1.trans (by interval_cases slot <;> rfl)) (h2.trans (by interval_cases slot <;> rfl)))
    refine ⟨_, s.live_runs _ (by rw [ht.known, decide_eq_true hslot]; rfl) hr, (congrArg Dev.sticky hd).trans ?_⟩
    rw [if_neg (fun h => h.elim h0 fun ⟨e, he, hs⟩ => hfree e he hs), h3]
  · obtain ⟨h1, h2, -⟩ := Body.keyTaken_spec (b := s.dev.body) (w := 2 ^ 31 + slot)
    have hd : s.dev.write m (Pg.boot + 0xA4) (2 ^ 31 + slot) = _ := ((Dev.write_key ht (by interval_cases slot <;> rfl)).trans (if_pos hm)).trans
      ((Dev.provGo_fuse (n := slot) (h1.trans (by interval_cases slot <;> rfl)) (h2.trans (by interval_cases slot <;> rfl))).trans (if_pos hused))
    refine ⟨_, s.live_runs _ (by rw [ht.known, decide_eq_true hslot]; rfl) hr, (congrArg Dev.sticky hd).trans rfl, (s.evt_after _ (by decide) (by decide)).mpr ?_⟩
    exact (congrArg (fun d : Dev => d.body.rd Pg.boot (evtPend R.BOOT_EVT_BADCMD)) hd).trans (Body.fire_pend _ (by decide) (by decide))
  · obtain ⟨h1, h2, -⟩ := Body.keyTaken_spec (b := s.dev.body) (w := 2 ^ 31 + 2 ^ 30 + slot)
    have hd : s.dev.write m (Pg.boot + 0xA4) (2 ^ 31 + 2 ^ 30 + slot) = _ := ((Dev.write_key ht (by interval_cases slot <;> rfl)).trans (if_pos hm)).trans
      (Dev.provGo_revoke (n := slot) (h1.trans (by interval_cases slot <;> rfl)) (h2.trans (by interval_cases slot <;> rfl)))
    refine ⟨_, s.live_runs _ (by rw [ht.known, decide_eq_true hslot]; rfl) hr, (congrArg Dev.sticky hd).trans ?_⟩
    rw [if_neg (fun h => h.elim h0 hrev)]
  · obtain ⟨h1, h2, -⟩ := Body.keyTaken_spec (b := s.dev.body) (w := 2 ^ 31 + 2 ^ 30 + slot)
    have hd : s.dev.write m (Pg.boot + 0xA4) (2 ^ 31 + 2 ^ 30 + slot) = _ := ((Dev.write_key ht (by interval_cases slot <;> rfl)).trans (if_pos hm)).trans
      ((Dev.provGo_revoke (n := slot) (h1.trans (by interval_cases slot <;> rfl)) (h2.trans (by interval_cases slot <;> rfl))).trans (if_pos hrev))
    exact ⟨_, s.live_runs _ (by rw [ht.known, decide_eq_true hslot]; rfl) hr, (congrArg Dev.sticky hd).trans rfl⟩
  · obtain ⟨w, hw, hput⟩ := Dev.put_boot (f := R.BOOT_INJ_GO) 1 ht (by decide) (by decide) (by decide) (by decide) rfl (by decide)
    have hgo : R.BOOT_INJ_GO.of w = 1 := (hw (R.BOOT_INJ_GO, 0, 0) (by decide)).trans rfl
    have hkind : R.BOOT_INJ_KIND.of w = s.reg Pg.boot R.BOOT_INJ_KIND := (hw (R.BOOT_INJ_KIND, 0, 0) (by decide)).trans rfl
    have h1 : goes (Pg.boot + 0xA8) w R.BOOT_LD_RESUME = false := by rw [goes, pageIs_boot.fieldAt (by decide) (by decide)]; rfl
    have h2 : goes (Pg.boot + 0xA8) w R.BOOT_PROV_GO = false := by rw [goes, pageIs_boot.fieldAt (by decide) (by decide)]; rfl
    rw [Body.storeBoot_inject hgo, Dev.bootActs, h1, h2, if_neg (by simp), if_neg (by simp)] at hput
    obtain ⟨e1, e2, e3⟩ := Body.bootInject_spec (b := s.dev.body.wr Pg.boot R.BOOT_INJ_KIND (R.BOOT_INJ_KIND.of w))
    have hk : (s.dev.body.wr Pg.boot R.BOOT_INJ_KIND (R.BOOT_INJ_KIND.of w)).rd Pg.boot R.BOOT_INJ_KIND = s.reg Pg.boot R.BOOT_INJ_KIND :=
      (Body.rd_wr_self ..).trans (by rw [hkind]; exact Nat.mod_eq_of_lt (s.dev.body.rd_lt ..))
    rw [hk] at e2 e3
    refine ⟨_, State.live_withBody ht.known ht.runs hput, State.withBody_keeps (((Body.Keeps.refl _).wr (by decide) (by decide)).trans e1), ?_⟩
    rw [State.withBody_boot]
    exact ⟨fun h => e2 (by omega), e3⟩

end Sys2Proof
end

section
/-! O49: what a write of BOOT_LD_RESUME stores (R404). -/

namespace Sys2Proof
open Machine Tests

/-- BOOT_LD_LEN and the bit above it, which belongs to no field. -/
def lenAndAbove : Fld := { off := 0x98, hi := 21, lo := 0, acc := .rw, rst := 0x0 }

/-- The engine at work, not in WAIT_HOST, with more than its field's bits listed for BOOT_LD_LEN. -/
def lenTooWide : State := chg ready fun b => { b with regs := Sp.ins b.regs (R.BOOT_LD_LEN.key Pg.boot 0 0) (2 ^ 21) }

theorem lenTooWide_takes : lenTooWide.takes Master.host (Pg.boot + 0x98) where
  runs := by unfold State.runs; decide +kernel
  bar0 := by decide +kernel
  known := by decide
  notBmc := by decide
  reach := by decide +kernel
  idle := by decide +kernel

/-- Whatever the word, the store of the load registers cuts BOOT_LD_LEN to its field. -/
theorem Machine.Body.loadTaken_above (b : Body) (w : Nat) : (b.loadTaken w).rd Pg.boot lenAndAbove < 2 ^ 21 := by
  have hread : (b.loadTaken w).rd Pg.boot lenAndAbove = R.BOOT_LD_LEN.of w % 2 ^ R.BOOT_LD_LEN.width % 2 ^ lenAndAbove.width :=
    congrArg (· % 2 ^ lenAndAbove.width) (Sp.get_set_self ..)
  rw [hread]
  exact Nat.lt_of_le_of_lt (Nat.mod_le _ _) (Nat.mod_lt _ (by decide))

/-- Refutes O49: BOOT_LD_RESUME outside WAIT_HOST still stores its register, which cuts what is listed for BOOT_LD_LEN to the field's 21 bits;
the statement has every field that a page could have read as before. -/
theorem not_bootOutcomes : ¬ Obligations.BootOutcomes := by
  intro h
  obtain ⟨-, -, -, hresume⟩ := h
  have hruns : lenTooWide.runs [1, 2] := by unfold State.runs; decide +kernel
  obtain ⟨hstay, -⟩ := hresume Master.host lenTooWide rfl lenTooWide_takes hruns
  obtain ⟨t, hexec, -, hkeeps⟩ := hstay (by decide +kernel)
  obtain ⟨w, hw, hput⟩ := Dev.put_load (f := R.BOOT_LD_RESUME) (v := 1) lenTooWide_takes rfl (by decide)
  have hgo : R.BOOT_LD_GO.of w = 0 := (hw (R.BOOT_LD_GO, 0, 0) (by decide)).trans rfl
  have hres : R.BOOT_LD_RESUME.of w = 1 := (hw (R.BOOT_LD_RESUME, 0, 0) (by decide)).trans rfl
  rw [if_pos (by decide), if_pos hres, if_neg (by omega)] at hput
  have hstage : (lenTooWide.dev.body.loadTaken w).rd Pg.boot R.BOOT_STAGE ≠ STAGE_WAIT_HOST := by
    rw [Body.loadTaken, Body.rd_wr_apart (by decide), Body.rd_wr_apart (by decide)]
    decide +kernel
  have hnext := (State.live_withBody (doms := [1, 2]) (ok := Master.known Master.host) rfl hruns (hput.trans (if_pos hstage))).symm.trans hexec
  obtain rfl := Host.Outcome.next.inj hnext
  have hsame := hkeeps.regs Pg.boot lenAndAbove 0 0 (by decide) (by decide) (by simp)
  rw [State.withBody_page (by decide) (by decide)] at hsame
  have hlt := lenTooWide.dev.body.loadTaken_above w
  have hwide : lenTooWide.reg Pg.boot lenAndAbove = 2 ^ 21 := by decide +kernel
  omega

end Sys2Proof
end

section
/-! O53: the jobs of an INJECT ring (R424, R425, R432). -/

namespace Sys2Proof.Machine

namespace Body

section
variable {b c : Body} {n : Nat} {l : List (List Byte)}

/-! A fetch that goes wrong leaves the pipeline alone. -/

theorem ringPublish_pipe (b : Body) (n : Nat) : (b.ringPublish n).pipe = b.pipe := by
  unfold ringPublish
  split
  · rfl
  · dsimp only
    split_ifs <;> rfl

theorem ringStop_pipe (b : Body) (n st cause idx : Nat) : (b.ringStop n st cause idx).pipe = b.pipe := by
  have hwb : ∀ c : Body, (c.ringWb n).pipe = c.pipe := fun c => by
    unfold ringWb
    split_ifs <;> rfl
  rw [ringStop_eq, hwb]
  simp [haltShown]
  rfl

theorem ringError_pipe (b : Body) (n cause idx : Nat) (inj : Bool) : (b.ringError n cause idx inj).pipe = b.pipe := by
  obtain ⟨x, h⟩ := b.ringError_eq n cause idx inj
  have hpub : (b.publishAll n).pipe = b.pipe := foldl_same (fun e : Body => e.pipe) _ (fun e _ => e.ringPublish_pipe n) _ _
  have hdma : ((b.publishAll n).dmaFault n cause x).pipe = (b.publishAll n).pipe := by
    unfold dmaFault
    split_ifs
    · simp
    · rfl
  rw [h, ringStop_pipe, hdma, hpub]

/-! The fetch of an INJECT ring with no armed error. -/

/-- What the statement's clauses share: an INJECT ring that runs, with DMA and no armed error. -/
structure Injecting (b : Body) (n : Nat) : Prop where
  state : b.rrd n R.RING_STATE = RING_RUNNING
  kind : b.rrd n R.RING_KIND = KIND_INJECT
  dma : b.dmaOk = true
  sound : ∀ e ∈ b.host.arm, e.1 ≠ n

theorem Injecting.runs (h : b.Injecting n) : b.ringRuns n KIND_INJECT = true := ringRuns_iff.mpr ⟨h.state, h.kind⟩

theorem Injecting.unarmed (h : b.Injecting n) : b.host.arm.find? (fun e => e.1 == n) = none :=
  List.find?_eq_none.mpr fun e he => by simpa using h.sound e he

theorem Injecting.fetch_job (h : b.Injecting n) (hj : b.jobAt n = .job l) : b.ringFetch n = b := by
  unfold ringFetch
  rw [h.unarmed]
  generalize b.jobAt n = r at hj
  subst hj
  split
  · rfl
  · rfl

theorem Injecting.fetch_err (h : b.Injecting n) (hidx : (b.run n).idx = 0) (hleft : b.ringLeft n ≠ 0) {c i : Nat} (hj : b.jobAt n = .err c i) :
    b.ringFetch n = b.ringError n c i := by
  unfold ringFetch
  rw [if_neg (by simp [h.runs, h.dma, hidx, hleft]), h.unarmed]
  generalize b.jobAt n = r at hj
  subst hj
  rfl

/-- The scan of a job looks at its first entry (R424). -/
theorem scanJob_front {kind k left m : Nat} {entry : Nat → List Byte} (hleft : left ≠ 0) (hk : k < 2 ^ 32) :
    scanJob kind entry k left (m + 1) [] = if entryFirst kind (entry k) = false then .err CAUSE_CHAIN k
      else if entryLast kind (entry k) = true then .job [entry k] else scanJob kind entry k left m [entry k] := by
  have hk : (k + ([] : List (List Byte)).length) % 2 ^ 32 = k := Nat.mod_eq_of_lt hk
  rw [scanJob]
  dsimp only
  rw [if_neg (by simpa using hleft), hk]
  cases entryFirst kind (entry k) with
  | false => rfl
  | true => rfl

theorem entryBad_empty {e : List Byte} (h : leNat (slice e 8 2) = 0) : entryBad KIND_INJECT e none = true := by
  rw [entryBad, if_pos rfl, h]
  rfl

/-- What a scan makes of the front of a ring, by the fields of the entries (R425). -/
def jobOf (kind k : Nat) (r : JobRes) : JobRes := match r with
  | .job l => match badEntry kind 0 none l with
    | some i => .err CAUSE_ENTRY ((k + i) % 2 ^ 32)
    | none => .job l
  | r => r

/-- Its definition is unfolded under its name alone, so that the kernel never evaluates a scan of 64 entries. -/
theorem jobAt_eq (b : Body) (n : Nat) : b.jobAt n =
    jobOf (b.rrd n R.RING_KIND) (b.ringFront n) (scanJob (b.rrd n R.RING_KIND) (b.ringEntry n) (b.ringFront n) (b.ringLeft n) 64 []) := by
  obtain ⟨f, hf⟩ : ∃ f, f = @jobAt := ⟨_, rfl⟩
  rw [← hf]
  delta jobAt at hf
  rw [hf]
  beta_reduce
  extract_lets kind k
  generalize scanJob kind (b.ringEntry n) k (b.ringLeft n) 64 [] = r
  cases r with
  | wait => rfl
  | err c i => rfl
  | job l => rfl

theorem jobOf_bad {kind k i : Nat} (h : badEntry kind 0 none l = some i) : jobOf kind k (.job l) = .err CAUSE_ENTRY ((k + i) % 2 ^ 32) := by
  rw [jobOf, h]

/-- The first entry lacks FIRST, or it is a job of its own and has no bytes (R424, R425). -/
theorem Injecting.badFront (h : b.Injecting n) (hleft : b.ringLeft n ≠ 0) {c : Nat}
    (hc : (entryFirst KIND_INJECT (b.ringEntry n (b.ringFront n)) = false ∧ c = CAUSE_CHAIN) ∨
      (entryFirst KIND_INJECT (b.ringEntry n (b.ringFront n)) = true ∧ entryLast KIND_INJECT (b.ringEntry n (b.ringFront n)) = true ∧
        leNat (slice (b.ringEntry n (b.ringFront n)) 8 2) = 0 ∧ c = CAUSE_ENTRY)) : b.jobAt n = .err c (b.ringFront n) := by
  have hscan := scanJob_front (kind := KIND_INJECT) (entry := b.ringEntry n) (m := 63) hleft (b.ringFront_lt n)
  rw [← h.kind] at hscan hc
  rcases hc with ⟨h1, rfl⟩ | ⟨h1, h2, h3, rfl⟩
  · rw [jobAt_eq, hscan.trans (if_pos h1)]
    rfl
  · have hbad : badEntry (b.rrd n R.RING_KIND) 0 none [b.ringEntry n (b.ringFront n)] = some 0 := by
      rw [badEntry, h.kind, entryBad_empty h3]
      rfl
    rw [jobAt_eq, hscan.trans ((if_neg (by rw [h1]; decide)).trans (if_pos h2)), jobOf_bad hbad]
    exact congrArg _ (Nat.mod_eq_of_lt (b.ringFront_lt n))

/-! The packet of a job. -/

/-- A job handed on: done, with its entries and bytes. -/
def jobDone (b : Body) (n k bytes : Nat) : Body := b.setRun n { b.run n with done := (b.run n).done ++ [(k, bytes)], delayed := false }

/-- The bytes of a job. -/
def jobSize (l : List (List Byte)) : Nat := (l.map fun e => leNat (slice e 8 2)).foldl (· + ·) 0

/-- A packet of an INJECT ring joins the inject source of its Gallery. -/
def injJoined (b : Body) (n m i : Nat) (l : List (List Byte)) : Body :=
  { b with pipe := { b.pipe with injQ := Sp.set [] b.pipe.injQ (b.rrd n R.RING_GAL) (Sp.get [] b.pipe.injQ (b.rrd n R.RING_GAL) ++
    [{ rec_ := (b.gather l).take 16, data := withFcs ((b.gather l).drop 16), host := true, src := n, ts := b.stamp 0, stage := [(m, i)] }]) } }

/-- What becomes of a job of a size that is allowed. -/
def injPooled (b : Body) (n : Nat) (l : List (List Byte)) : Body :=
  match b.poolFor 1 0 (jobSize l) with
  | none => (b.count Pg.hif HIF_INJ_BAD).jobDone n l.length 0
  | some m =>
    if b.prd' m R.POOL_FREE_CNT ≠ 0 ∧ b.poolLevel m = 2 then b
    else
      match b.poolReq 1 0 (jobSize l) with
      | (b, .ok m i) => ((b.injJoined n m i l).count Pg.hif HIF_INJ_PKTS).jobDone n l.length (jobSize l - 16)
      | (b, .empty _) => (b.fire Pg.hif R.HIF_EVT_NOPOOL).setRun n { (b.run n) with delayed := true }
      | (b, .noPool) => (b.count Pg.hif HIF_INJ_BAD).jobDone n l.length 0

theorem injectJob_idle (h : b.rrd n R.RING_STATE ≠ RING_RUNNING ∨ b.rrd n R.RING_KIND ≠ KIND_INJECT ∨ b.dmaOk = false) : b.injectJob n = b := by
  refine if_pos ?_
  rcases h with h | h | h
  · exact .inl fun hr => h (ringRuns_iff.mp hr).1
  · exact .inl fun hr => h (ringRuns_iff.mp hr).2
  · exact .inr (by simp [h])

theorem Injecting.injectJob_err (h : b.Injecting n) (hf : b.ringFetch n = c) (hc : c.rrd n R.RING_STATE = RING_ERROR) : b.injectJob n = c := by
  have hruns : ¬ c.ringRuns n KIND_INJECT = true := fun hr => absurd ((ringRuns_iff.mp hr).1.symm.trans hc) (by decide)
  unfold injectJob
  rw [if_neg (by simp [h.runs, h.dma]), hf]
  dsimp only
  rw [if_neg hruns]

theorem Injecting.injectJob_job (h : b.Injecting n) (hj : b.jobAt n = .job l) : b.injectJob n =
    if jobSize l < 76 ∨ 10252 < jobSize l then (b.count Pg.hif HIF_INJ_BAD).jobDone n l.length 0 else b.injPooled n l := by
  have hr : (if b.ringRuns n KIND_INJECT = true then b.jobAt n else JobRes.wait) = .job l := (if_pos h.runs).trans hj
  unfold injectJob
  rw [if_neg (by simp [h.runs, h.dma]), h.fetch_job hj]
  extract_lets e
  generalize (if e.ringRuns n KIND_INJECT = true then e.jobAt n else JobRes.wait) = r at hr
  subst hr
  rfl

/-- What a ring's packet is made of, beside the buffer it is staged in. -/
def besides (b : Body) (n : Nat) : HostSt × Nat × MemSt × List (Nat × Nat) × Nat := (b.host, b.tod, b.mem, b.ctrs, b.rrd n R.RING_GAL)

/-- A buffer taken leaves the rings and their packets alone. -/
theorem poolTake_besides (b : Body) (m n : Nat) (hm : m < 16) (hn : n < 240) : (b.poolTake m).2.besides n = b.besides n := by
  have hpage : Pg.pool m ≠ Pg.ring n := by unfold Pg.pool Pg.ring; omega
  have hled : ∀ c : Body, (c.ledIn (ledPool m) 1).besides n = c.besides n := fun c => rfl
  have hbuf : ∀ (p : Prop) [Decidable p] (c : Body) (x : BufSt), (if p then { c with buf := x } else c).besides n = c.besides n := fun p _ c x => by
    split <;> rfl
  have hfire : ∀ (p : Prop) [Decidable p] (c : Body) (e : Nat), e < 32 → (if p then c.fire (Pg.pool m) e else c).besides n = c.besides n := fun p _ c e he => by
    split
    · have hreg : (c.fire (Pg.pool m) e).rrd n R.RING_GAL = c.rrd n R.RING_GAL := by
        have := Pg.ring_page n
        have := Pg.pool_page m
        refine c.rd_fire he (by decide) (.inl ?_) ?_ ?_ ?_ <;> simp only [Fld.addr, R.RING_GAL] <;> omega
      simp [besides, hreg]
    · rfl
  have hwr : ∀ (c : Body) (f : Fld) (v : Nat), f.lo < 32 ∧ f.off < 0x1000 → (c.wr (Pg.pool m) f v).rrd n R.RING_GAL = c.rrd n R.RING_GAL := fun c f v hf =>
    c.rd_wr_page (Pg.pool_page m).2 (Pg.ring_page n).2 hpage ⟨hf.1, by decide, hf.2, by decide⟩
  unfold poolTake
  dsimp only
  refine (hled _).trans ((hbuf _ _ _).trans ((hfire _ _ _ (by decide)).trans ((hfire _ _ _ (by decide)).trans ((hfire _ _ _ (by decide)).trans ?_))))
  simp only [besides, Prod.mk.injEq]
  exact ⟨rfl, rfl, rfl, rfl, (hwr _ R.POOL_MIN _ (by decide)).trans (hwr _ R.POOL_FREE_CNT _ (by decide))⟩

/-- What a request of an INJECT ring finds (R224). -/
theorem poolReq_inject {m size : Nat} (hm : b.poolFor 1 0 size = some m) :
    b.poolReq 1 0 size = if b.rd (Pg.pool m) R.POOL_FREE_CNT = 0 then (b.sat (Pg.pool m) R.POOL_FAIL, .empty m) else ((b.poolTake m).2, .ok m (b.poolTake m).1) := by
  unfold poolReq
  rw [hm]
  rfl

/-! The cases of a packet whose size is allowed, by its pool (R432). -/

theorem injPooled_none (hm : b.poolFor 1 0 (jobSize l) = none) : b.injPooled n l = (b.count Pg.hif HIF_INJ_BAD).jobDone n l.length 0 := by
  rw [injPooled, hm]

theorem injPooled_empty {m : Nat} (hm : b.poolFor 1 0 (jobSize l) = some m) (h0 : b.rd (Pg.pool m) R.POOL_FREE_CNT = 0) :
    b.injPooled n l = ((b.sat (Pg.pool m) R.POOL_FAIL).fire Pg.hif R.HIF_EVT_NOPOOL).setRun n
      { ((b.sat (Pg.pool m) R.POOL_FAIL).run n) with delayed := true } := by
  rw [injPooled, poolReq_inject hm, if_pos h0, hm]
  dsimp only
  rw [if_neg fun h => h.1 h0]

theorem injPooled_low {m : Nat} (hm : b.poolFor 1 0 (jobSize l) = some m) (hne : b.rd (Pg.pool m) R.POOL_FREE_CNT ≠ 0) (hlow : b.poolLevel m = 2) :
    b.injPooled n l = b := by
  rw [injPooled, hm]
  exact if_pos ⟨hne, hlow⟩

theorem injPooled_ok {m : Nat} (hm : b.poolFor 1 0 (jobSize l) = some m) (hne : b.rd (Pg.pool m) R.POOL_FREE_CNT ≠ 0) (hlow : b.poolLevel m ≠ 2) :
    b.injPooled n l = (((b.poolTake m).2.injJoined n m (b.poolTake m).1 l).count Pg.hif HIF_INJ_PKTS).jobDone n l.length (jobSize l - 16) := by
  rw [injPooled, poolReq_inject hm, if_neg hne, hm]
  dsimp only
  rw [if_neg fun h => hlow h.2]

end

end Body

section
variable {s : State} {b : Body} {n : Nat}

theorem State.exec_injectJob (hn : n < 240) (hr : s.runs [3]) : exec (.injectJob n) s = .next (s.withBody (s.dev.body.injectJob n)) :=
  State.body_withBody (decide_eq_true hn) hr rfl

theorem State.exec_injectFetchRetry (hn : n < 240) (hr : s.runs [3]) :
    exec (.injectFetchRetry n) s = .next (s.withBody (s.dev.body.injectFetchRetry n)) := State.body_withBody (decide_eq_true hn) hr rfl

/-- A packet dropped, its job done. -/
def State.InjDropped (s t : State) (n k : Nat) : Prop :=
  (t.dev.body.run n).done = (s.dev.body.run n).done ++ [(k, 0)] ∧ t.ctr Pg.hif HIF_INJ_BAD = (s.ctr Pg.hif HIF_INJ_BAD + 1) % 2 ^ 64 ∧
    t.dev.body.pipe = s.dev.body.pipe ∧ t.dev.body.buf = s.dev.body.buf ∧ s.sameRegs t []

theorem State.injDropped (s : State) (n k : Nat) : s.InjDropped (s.withBody ((s.dev.body.count Pg.hif HIF_INJ_BAD).jobDone n k 0)) n k := by
  refine ⟨?_, ?_, ?_, ?_, State.withBody_sameRegs fun q g x y _ => s.dev.body.count_rd Pg.hif HIF_INJ_BAD 1 q g x y⟩
  · rw [State.withBody_run, Body.jobDone, Body.run_setRun]
    rfl
  · rw [State.withBody_ctr]
    exact Body.ctr_count_same ..
  · rw [(by simp : ∀ c, (s.withBody c).dev.body.pipe = c.pipe)]
    rfl
  · rw [State.withBody_buf]
    rfl

end

end Sys2Proof.Machine

namespace Sys2Proof
open Machine

/-- Settles O53: an INJECT ring that runs fetches, and its job's packet is dropped, delayed, kept back or staged (`Body.injPooled`). -/
theorem injectJobs : Obligations.InjectJobs := by
  unfold Obligations.InjectJobs
  intro n s hn hr
  dsimp only
  have hexec := State.exec_injectJob hn hr
  refine ⟨fun h => ?_, fun hst hkind hdma harm => ?_, fun hd => ?_, fun hd => ?_⟩
  · rw [hexec, Body.injectJob_idle h, State.withBody_self]
  · have hinj : s.dev.body.Injecting n := ⟨hst, hkind, hdma, harm⟩
    refine ⟨fun c hidx hleft hc => ?_, fun l hj => ?_⟩
    · have hfetch := hinj.fetch_err hidx hleft (hinj.badFront hleft hc)
      have herr := s.dev.body.ringError_spec n c (s.dev.body.ringFront n) false (by rcases hc with ⟨-, rfl⟩ | ⟨-, -, -, rfl⟩ <;> decide) (s.dev.body.ringFront_lt n)
      have hpipe := s.dev.body.ringError_pipe n c (s.dev.body.ringFront n) false
      generalize s.dev.body.ringError n c (s.dev.body.ringFront n) false = e at hfetch herr hpipe
      rw [hinj.injectJob_err hfetch herr.state] at hexec
      refine ⟨_, hexec, State.withBody_ring herr.state, State.withBody_ring herr.cause, State.withBody_ring herr.index, State.withBody_ring herr.cons,
        State.withBody_ring (f := evtPend R.RING_EVT_PROTO) herr.event, ?_⟩
      rw [(by simp : (s.withBody e).dev.body.pipe = e.pipe), hpipe]
    · have hsize : (l.map fun e => leNat (slice e 8 2)).sum = Body.jobSize l := List.sum_eq_foldl_nat
      rw [hsize]
      rw [hinj.injectJob_job hj] at hexec
      refine ⟨fun hbad => ?_, fun h1 h2 => ?_⟩
      · rw [if_pos hbad] at hexec
        exact ⟨_, hexec, s.injDropped n _⟩
      · rw [if_neg (by omega)] at hexec
        refine ⟨fun hp => ?_, fun m hm => ⟨fun h0 => ?_, fun hne hlow => ?_, fun hlow hne => ?_⟩⟩
        · rw [Body.injPooled_none hp] at hexec
          exact ⟨_, hexec, s.injDropped n _⟩
        · rw [Body.injPooled_empty hm h0] at hexec
          refine ⟨_, hexec, State.withBody_page_evt (by decide) (by decide) ?_, ?_, ?_, ?_⟩
          · exact Body.fire_pend _ (by decide) (by decide)
          · rw [State.withBody_run, Body.run_setRun]
          · rw [State.withBody_run, Body.run_setRun]
            rfl
          · rw [(by simp : ∀ c, (s.withBody c).dev.body.pipe = c.pipe)]
            simp [Body.setRun]
        · rw [Body.injPooled_low hm hne hlow] at hexec
          rw [hexec, State.withBody_self]
        · rw [Body.injPooled_ok hm hne hlow] at hexec
          have hreq := (Body.poolReq_inject hm).trans (if_neg hne)
          obtain ⟨halloc, -⟩ := s.dev.body.poolTake_alloc m
          obtain ⟨-, -, -, hpipe, -⟩ := poolTake_rest s.dev.body m
          have hbes := s.dev.body.poolTake_besides m n (poolFor_lt hm) hn
          generalize (s.dev.body.poolTake m).1 = i at *
          generalize (s.dev.body.poolTake m).2 = c at *
          simp only [Body.besides, Prod.mk.injEq] at hbes
          obtain ⟨hhost, htod, hmem, hctrs, hgal⟩ := hbes
          have hgal : c.rrd n R.RING_GAL = s.reg (Pg.ring n) R.RING_GAL := hgal
          have hgather : c.gather l = s.dev.body.gather l := by rw [Body.gather, hmem, Body.gather]
          have hstamp : c.stamp 0 = s.dev.body.stamp 0 := by rw [Body.stamp, htod, Body.stamp]
          have hrun : c.run n = s.dev.body.run n := Body.run_of_host hhost
          refine ⟨_, i, hexec, by rw [hreq], ?_, ?_, ?_, ?_, ?_⟩
          · rw [State.withBody_allocOf]
            exact halloc
          · rw [(by simp : ∀ c, (s.withBody c).dev.body.pipe = c.pipe), ← hgather, ← hstamp, ← hgal, ← hpipe]
            exact Sp.get_set_self ..
          · rw [State.withBody_run, Body.jobDone, Body.run_setRun, ← hrun]
            rfl
          · rw [State.withBody_run, Body.jobDone, Body.run_setRun]
          · rw [State.withBody_ctr]
            have hc : ((c.injJoined n m i l).count Pg.hif HIF_INJ_PKTS).ctr Pg.hif HIF_INJ_PKTS = (c.ctr Pg.hif HIF_INJ_PKTS + 1) % 2 ^ 64 := Body.ctr_count_same ..
            exact hc.trans (by rw [Body.ctr_of_ctrs hctrs]; rfl)
  · have hstay : s.dev.body.injectFetchRetry n = s.dev.body := if_neg (by simp [hd])
    rw [State.exec_injectFetchRetry hn hr, hstay, State.withBody_self]
  · have hgo : s.dev.body.injectFetchRetry n = s.dev.body.injectJob n := if_pos hd
    exact ⟨_, (State.exec_injectFetchRetry hn hr).trans (by rw [hgo]), hexec⟩

end Sys2Proof
end

section
/-! O55, the ICU: deliveries, acknowledges and masks (R448 to R456). -/

namespace Sys2Proof.Machine

namespace Body

/-! What Survey counts, seen from the ICU: none of its own. -/

/-- Everything that Survey's events and the pools' levels depend on is the same. -/
structure Unheard (b c : Body) : Prop where
  regs : ∀ (q : Nat) (g : Fld) (x y : Nat), g.lo < 32 → (0x1000 ≤ g.addr q x y ∧ g.addr q x y < 0x4000) ∨ 0x6000 ≤ g.addr q x y →
    c.rd q g x y = b.rd q g x y
  rest : c.ctrs = b.ctrs ∧ c.tbls = b.tbls ∧ c.cairn = b.cairn ∧ c.net = b.net ∧ c.sch = b.sch ∧ c.hbm = b.hbm ∧ c.svy = b.svy

namespace Unheard
variable {b c d : Body}

theorem refl (b : Body) : Unheard b b := ⟨fun _ _ _ _ _ _ => rfl, rfl, rfl, rfl, rfl, rfl, rfl, rfl⟩

theorem trans (h : Unheard b c) (h' : Unheard c d) : Unheard b d := by
  obtain ⟨h1, h2, h3, h4, h5, h6, h7⟩ := h.rest
  obtain ⟨k1, k2, k3, k4, k5, k6, k7⟩ := h'.rest
  exact ⟨fun q g x y hg ha => (h'.regs q g x y hg ha).trans (h.regs q g x y hg ha),
    k1.trans h1, k2.trans h2, k3.trans h3, k4.trans h4, k5.trans h5, k6.trans h6, k7.trans h7⟩

theorem of_regs (hr : c.regs = b.regs) (h : c.ctrs = b.ctrs ∧ c.tbls = b.tbls ∧ c.cairn = b.cairn ∧ c.net = b.net ∧ c.sch = b.sch ∧
    c.hbm = b.hbm ∧ c.svy = b.svy) : Unheard b c :=
  ⟨fun q g x y _ _ => rd_of_regs hr q g x y, h⟩

/-- The pages of the ICU and of the Lamp. -/
def Near (p : Nat) : Prop := p = 0 ∨ p = 0x4000 ∨ p = 0x5000

theorem near_icu {k : Nat} (hk : k < 2) : Near (Pg.icu k) := by unfold Near Pg.icu; omega

theorem near_lamp : Near Pg.lamp := .inl rfl

theorem sat {p : Nat} {f : Fld} (hp : Near p) (hf : f.lo < 32 ∧ f.off < 0x1000) : Unheard b (b.sat p f) := by
  refine ⟨fun q g x y hg ha => b.rd_sat_ne hf.1 hg (.inl ?_), by simp⟩
  rw [Fld.addr_zero]
  unfold Near at hp
  omega

theorem fire {p n : Nat} (hp : Near p) (hn : n < 32) : Unheard b (b.fire p n) := by
  refine ⟨fun q g x y hg ha => ?_, by simp⟩
  unfold Near at hp
  exact b.rd_fire hn hg (.inl (by omega)) (by omega) (by omega) (by omega)

theorem setIcu (k n : Nat) (x : IcuSrc) : Unheard b (b.setIcu k n x) := .of_regs (by simp) (by simp)

theorem lanes (h : Unheard b c) (p : Nat) {f : Fld} (hf : f.lo < 32) : c.prd p f = b.prd p f :=
  h.regs _ _ _ _ hf (.inr (by rw [Fld.addr_zero]; unfold Pg.lane Pg.gallery; omega))

theorem pages (h : Unheard b c) {p : Nat} {f : Fld} (x : Nat) (hf : f.lo < 32) (hp : 0x6000 ≤ p) : c.rd p f x = b.rd p f x :=
  h.regs _ _ _ _ hf (.inr (by unfold Fld.addr; omega))

theorem slots (h : Unheard b c) {n : Nat} (hn : n < 8) : c.crd R.CAIRN_STATE n = b.crd R.CAIRN_STATE n :=
  h.regs _ _ _ _ (by decide) (.inl (by simp only [Fld.addr, R.CAIRN_STATE, Pg.cairn]; omega))

theorem total (h : Unheard b c) (blk inst ev : Nat) : c.svyTotal blk inst ev = b.svyTotal blk inst ev := by
  obtain ⟨h1, -, h3, -, -, -, h7⟩ := h.rest
  unfold svyTotal
  simp only [ctr, h1, h3, h7]

theorem pending (h : Unheard b c) :
    ((List.range 8).any fun n => c.crd R.CAIRN_STATE n == CS_PENDING) = (List.range 8).any fun n => b.crd R.CAIRN_STATE n == CS_PENDING := by
  rw [Bool.eq_iff_iff]
  simp only [List.any_eq_true, List.mem_range]
  exact exists_congr fun n => and_congr_right fun hn => by rw [h.slots hn]

theorem cond (h : Unheard b c) (blk inst ev : Nat) : c.svyCond blk inst ev = b.svyCond blk inst ev := by
  obtain ⟨-, -, -, h4, h5, h6, -⟩ := h.rest
  have hup : c.portUp inst = b.portUp inst := by unfold portUp; rw [h.lanes _ (by decide), h.lanes _ (by decide)]
  have hover : c.on (Pg.preclass inst) R.ENT_OVERLOAD = b.on (Pg.preclass inst) R.ENT_OVERLOAD := by
    unfold on
    rw [h.pages 0 (by decide) (by unfold Pg.preclass Pg.gallery; omega)]
  have hgal : c.galState inst = b.galState inst := h.pages 0 (by decide) (by unfold Pg.galPower Pg.gallery; omega)
  have hth : ∀ t, c.tst t = b.tst t := fun t => h.pages _ (by decide) (by unfold Pg.core; omega)
  unfold svyCond
  simp only [h4, h5, h6, hup, hover, hgal, hth, h.pending, h.lanes inst (f := R.PORT_PFC_XOFF) (by decide)]

theorem delta (h : Unheard b c) (e : Nat) : svyDelta b c e = 0 := by
  unfold svyDelta
  rw [h.total, h.cond]
  split_ifs <;> simp [b2n]

/-- Nothing follows such a change. -/
theorem note (h : Unheard b c) : note b c = c := by
  have hp : ∀ n f, f.lo < 32 → c.prd' n f = b.prd' n f := fun n f hf => h.pages 0 hf (by unfold Pg.pool; omega)
  have hl : ∀ n, b.poolLevel n = c.poolLevel n := fun n => by
    unfold poolLevel
    rw [hp _ _ (by decide), hp _ _ (by decide), hp _ _ (by decide)]
  have hm : poolNote b c = c := by simp [poolNote, levelMoved, hl]
  unfold Body.note
  rw [hm]
  unfold svyNote
  split_ifs
  · rfl
  · exact foldl_id _ _ _ fun e => by simp [h.delta]

end Unheard

/-! Sources. -/

section
variable {b c : Body} {bank k n m : Nat} {x : IcuSrc}

theorem icu_of_irq (h : c.irq = b.irq) : c.icu bank n = b.icu bank n := by unfold icu icuSrcs; rw [h]

@[simp] theorem icu_setIcu : (b.setIcu bank n x).icu bank n = x := by
  unfold setIcu icu icuSrcs
  split_ifs with h
  · subst h
    exact Sp.get_set_self ..
  · exact Sp.get_set_self ..

theorem icu_setIcu_ne (hk : k < 2) (hb : bank < 2) (h : k ≠ bank ∨ m ≠ n) : (b.setIcu k m x).icu bank n = b.icu bank n := by
  unfold setIcu icu icuSrcs
  split_ifs with h1 h2 h2
  · subst h2
    exact Sp.get_set_of_ne _ _ _ _ (by omega)
  · rfl
  · rfl
  · exact Sp.get_set_of_ne _ _ _ _ (by omega)

/-- An occurrence leaves alone every source but its page's, and that one where it is pending. -/
theorem icu_icuEdge {p : Nat} (hk : k < 2) (hb : bank < 2) (h : p / 0x1000 ≠ n ∨ (b.icu bank n).st = .pending) :
    (b.icuEdge k p).icu bank n = b.icu bank n := by
  have hne : (b.icu k (p / 0x1000)).st ≠ .pending → k ≠ bank ∨ p / 0x1000 ≠ n := fun hs => by
    by_contra hc
    obtain ⟨rfl, rfl⟩ : k = bank ∧ p / 0x1000 = n := by omega
    exact h.elim (fun e => e rfl) hs
  unfold icuEdge
  dsimp only
  split
  · exact icu_setIcu_ne hk hb (hne (by simp [*]))
  · rfl
  · exact icu_setIcu_ne hk hb (hne (by simp [*]))
  · exact icu_of_irq (by simp)

theorem icu_fire {p e : Nat} (hb : bank < 2) (h : p / 0x1000 ≠ n ∨ (b.icu bank n).st = .pending) : (b.fire p e).icu bank n = b.icu bank n := by
  unfold fire
  dsimp only
  split_ifs
  · exact icu_of_irq (by simp)
  · have hc : (b.wr p (evtPend e) 1).rd p (evtClass e) < 2 :=
      (rd_lt _ p (evtClass e) 0 0).trans_le (by simp [evtClass, Fld.width])
    exact icu_icuEdge hc hb h
  · rfl

/-! Targets (R448, R450). -/

/-- The first available target of the set after the last one is the one of least distance. -/
theorem icuTarget_least {g : Nat} (hl : x.lastTgt < 64) (hg : g < 64) (hmay : bitOn x.tgt g = true ∧ b.tgtAvail bank g = true)
    (hmin : ∀ u < 64, bitOn x.tgt u = true ∧ b.tgtAvail bank u = true → (g + 127 - x.lastTgt) % 64 ≤ (u + 127 - x.lastTgt) % 64) :
    b.icuTarget bank x = some g := by
  have hback : (x.lastTgt + 1 + (g + 127 - x.lastTgt) % 64) % 64 = g := by omega
  unfold icuTarget
  rw [List.find?_map, Option.map_eq_some_iff]
  refine ⟨(g + 127 - x.lastTgt) % 64, List.find?_range_eq_some.2 ⟨?_, List.mem_range.2 (Nat.mod_lt _ (by decide)), fun j hj => ?_⟩, hback⟩
  · simp only [Function.comp_apply, hback, hmay, Bool.and_self]
  · by_contra hc
    simp only [Function.comp_apply, Bool.not_eq_true, Bool.not_eq_false', Bool.and_eq_true] at hc
    have := hmin _ (Nat.mod_lt _ (by decide)) hc
    omega

theorem icuTarget_none (h : ∀ g < 64, ¬ (bitOn x.tgt g = true ∧ b.tgtAvail bank g = true)) : b.icuTarget bank x = none := by
  unfold icuTarget
  rw [List.find?_eq_none]
  intro t ht
  obtain ⟨i, -, rfl⟩ := List.mem_map.1 ht
  simpa using h _ (Nat.mod_lt _ (by decide))

/-! Delivery (R448, R450, R452). -/

theorem icuDeliver_idle (h : ∀ e ∈ b.icuSrcs bank, b.icuReady e.2 = false) : b.icuDeliver bank = b := by
  have hr : ((b.icuSrcs bank).filter fun e => b.icuReady e.2) = [] := List.filter_eq_nil_iff.2 fun e he => by simp [h e he]
  unfold icuDeliver
  split_ifs
  · rfl
  · simp [hr]

/-- The lowest ready source has a target. -/
theorem icuDeliver_send {g : Nat} (hbusy : b.icuBusy bank = false)
    (hfirst : (b.icuSrcs bank).find? (fun e => b.icuReady e.2) = some (n, x)) (hx : b.icu bank n = x)
    (hlow : ∀ e ∈ b.icuSrcs bank, b.icuReady e.2 = true → n ≤ e.1) (htgt : b.icuTarget bank x = some g) :
    b.icuDeliver bank = b.icuSend bank n g := by
  have hfind : ((b.icuSrcs bank).filter fun e => b.icuReady e.2).find? (fun e => (b.icuTarget bank e.2).isSome) = some (n, x) := by
    obtain ⟨hr, as, bs, hl, has⟩ := List.find?_eq_some_iff_append.1 hfirst
    rw [List.find?_filter, List.find?_eq_some_iff_append]
    exact ⟨by simp [hr, htgt], as, bs, hl, fun a ha => by simp [has a ha]⟩
  have hbelow : (((b.icuSrcs bank).filter fun e => b.icuReady e.2).filter fun f => f.1 < n) = [] := by
    refine List.filter_eq_nil_iff.2 fun e he => ?_
    obtain ⟨hm, hr⟩ := List.mem_filter.1 he
    simpa using hlow e hm hr
  unfold icuDeliver
  simp only [hbusy, hfind, hbelow, List.foldl_nil, hx, htgt, Bool.false_eq_true, if_false]

theorem icuNoTarget_waits (h : (b.icu bank n).waiting = true) : b.icuNoTarget bank n = b := if_pos h

theorem icuNoTarget_begins (h : (b.icu bank n).waiting = false) : b.icuNoTarget bank n =
    ((b.setIcu bank n { b.icu bank n with waiting := true }).sat (Pg.icu bank) R.ICU_NOTGT).fire Pg.lamp R.LAMP_EVT_NOTGT :=
  if_neg (by simp [h])

theorem icuNoTarget_spec (hb : bank < 2) (hp : (b.icu bank n).st = .pending) (h : (b.icu bank n).waiting = false) :
    (b.icuNoTarget bank n).icu bank n = { b.icu bank n with waiting := true } ∧
    (b.icuNoTarget bank n).rd (Pg.icu bank) R.ICU_NOTGT = min (b.rd (Pg.icu bank) R.ICU_NOTGT + 1) (2 ^ 32 - 1) ∧
    (b.icuNoTarget bank n).rd Pg.lamp (evtPend R.LAMP_EVT_NOTGT) = 1 ∧ Unheard b (b.icuNoTarget bank n) := by
  rw [icuNoTarget_begins h]
  have hset : ((b.setIcu bank n { b.icu bank n with waiting := true }).sat (Pg.icu bank) R.ICU_NOTGT).icu bank n =
      { b.icu bank n with waiting := true } := (icu_of_irq (b := b.setIcu bank n _) (by simp)).trans icu_setIcu
  refine ⟨?_, ?_, fire_pend _ (by decide) (by decide),
    ((Unheard.setIcu ..).trans (.sat (Unheard.near_icu hb) (by decide))).trans (.fire Unheard.near_lamp (by decide))⟩
  · rw [icu_fire hb (.inr (by rw [hset]; exact hp)), hset]
  · rw [rd_fire _ (by decide) (by decide) (.inl ?_) ?_ ?_ ?_, rd_sat_self]
    · simp
      rfl
    all_goals
      simp only [Fld.addr, R.ICU_NOTGT, Pg.icu, Pg.lamp]
      omega

theorem foldl_icuNoTarget_waits {l : List (Nat × IcuSrc)} (hl : ∀ e ∈ l, e.1 = n) (h : (b.icu bank n).waiting = true) :
    l.foldl (fun b e => b.icuNoTarget bank e.1) b = b := by
  induction l with
  | nil => rfl
  | cons e t ih =>
    obtain ⟨he, ht⟩ := List.forall_mem_cons.1 hl
    rw [List.foldl_cons, he, icuNoTarget_waits h, ih ht]

/-- The only ready source has no target. -/
theorem icuDeliver_none (hb : bank < 2) (hbusy : b.icuBusy bank = false)
    (hfirst : (b.icuSrcs bank).find? (fun e => b.icuReady e.2) = some (n, x)) (hx : b.icu bank n = x)
    (hall : ∀ e ∈ b.icuSrcs bank, b.icuReady e.2 = true → e = (n, x)) (htgt : b.icuTarget bank x = none) :
    b.icuDeliver bank = b.icuNoTarget bank n := by
  have hready : b.icuReady x = true := by simpa using List.find?_some hfirst
  have hpend : x.st = .pending := by
    unfold icuReady at hready
    simp only [Bool.and_eq_true, beq_iff_eq] at hready
    exact hready.1.1
  have hmem : ∀ e ∈ (b.icuSrcs bank).filter fun e => b.icuReady e.2, e = (n, x) := fun e he =>
    hall e (List.mem_filter.1 he).1 (List.mem_filter.1 he).2
  have hfind : ((b.icuSrcs bank).filter fun e => b.icuReady e.2).find? (fun e => (b.icuTarget bank e.2).isSome) = none :=
    List.find?_eq_none.2 fun e he => by simp [hmem e he, htgt]
  have hin : (n, x) ∈ (b.icuSrcs bank).filter fun e => b.icuReady e.2 :=
    List.mem_filter.2 ⟨List.mem_of_find?_eq_some hfirst, hready⟩
  have hne := List.ne_nil_of_mem hin
  unfold icuDeliver
  simp only [hbusy, hfind, Bool.false_eq_true, if_false]
  generalize ((b.icuSrcs bank).filter fun e => b.icuReady e.2) = l at hmem hne
  clear hfind hin
  cases l with
  | nil => exact absurd rfl hne
  | cons e t =>
    obtain ⟨rfl, ht⟩ := List.forall_mem_cons.1 hmem
    rw [List.foldl_cons]
    refine foldl_icuNoTarget_waits (n := n) (fun e he => by rw [ht e he]) ?_
    by_cases hw : (b.icu bank n).waiting = true
    · rw [icuNoTarget_waits hw, hw]
    · rw [(icuNoTarget_spec hb (hx ▸ hpend) (by simpa using hw)).1]

/-- A source delivered to a target. -/
def delivered (b : Body) (x : IcuSrc) (g : Nat) : IcuSrc :=
  { x with st := .active, lastTgt := g, deliv := (x.deliv + 1) % 2 ^ 32, lastAt := some b.clk, waiting := false }

/-- The source and the count of a delivery; what the target is told comes after. -/
def icuMoved (b : Body) (bank n g : Nat) : Body :=
  (b.setIcu bank n (b.delivered (b.icu bank n) g)).sat (Pg.icu bank) R.ICU_DELIV

theorem icuSend_eq (g : Nat) : b.icuSend bank n g =
    if g < 32 then (b.icuMoved bank n g).vecNotify (2 * g + bank) else (b.icuMoved bank n g).setBit (8 * (g - 32)) 26 := rfl

theorem icuMoved_spec (hb : bank < 2) (g : Nat) :
    (b.icuMoved bank n g).icu bank n = b.delivered (b.icu bank n) g ∧
    (b.icuMoved bank n g).rd (Pg.icu bank) R.ICU_DELIV = min (b.rd (Pg.icu bank) R.ICU_DELIV + 1) (2 ^ 32 - 1) ∧
    Unheard b (b.icuMoved bank n g) ∧ Keeps [Pg.icu bank] b (b.icuMoved bank n g) ∧ (b.icuMoved bank n g).host = b.host ∧
    (b.icuMoved bank n g).out = b.out ∧ (b.icuMoved bank n g).dmaOk = b.dmaOk := by
  have hkeeps : Keeps [Pg.icu bank] b (b.icuMoved bank n g) := by
    refine ((Keeps.refl b).of_eq (d := b.setIcu bank n _) ?_ ?_ ?_ ?_).sat ?_ ?_ <;> simp [R.ICU_DELIV, pageOf, Fld.addr, Pg.icu]
    omega
  refine ⟨(icu_of_irq (b := b.setIcu bank n _) (by simp [icuMoved])).trans icu_setIcu, ?_, (Unheard.setIcu ..).trans (.sat (Unheard.near_icu hb) (by decide)), hkeeps, ?_, ?_, ?_⟩
  · unfold icuMoved
    rw [rd_sat_self]
    simp
    rfl
  · simp [icuMoved]
  · simp [icuMoved]
  · have hh : (b.icuMoved bank n g).host = b.host := by simp [icuMoved]
    have hr : ∀ f : Fld, f.lo < 32 → (b.icuMoved bank n g).on Pg.hif f = b.on Pg.hif f := fun f hf => by
      unfold on
      rw [((Unheard.setIcu (b := b) ..).trans (.sat (Unheard.near_icu hb) (f := R.ICU_DELIV) (by decide)) : Unheard b (b.icuMoved bank n g)).pages 0 hf
        (by decide)]
    unfold dmaOk
    rw [hr _ (by decide), hr _ (by decide), hh]

/-- What a notification or a bit of a thread leaves of the ICU and of what Survey counts. -/
theorem vecNotify_unheard (v : Nat) : Unheard b (b.vecNotify v) ∧ (b.vecNotify v).irq = b.irq ∧ (b.vecNotify v).regs = b.regs := by
  by_cases h : b.vecFree v
  · obtain ⟨l, hl⟩ := vecNotify_free h
    rw [hl]
    exact ⟨.of_regs rfl ⟨rfl, rfl, rfl, rfl, rfl, rfl, rfl⟩, rfl, rfl⟩
  · rw [vecNotify_held h]
    exact ⟨.of_regs rfl ⟨rfl, rfl, rfl, rfl, rfl, rfl, rfl⟩, rfl, rfl⟩

theorem setBit_unheard (th e : Nat) : Unheard b (b.setBit th e) := .of_regs rfl ⟨rfl, rfl, rfl, rfl, rfl, rfl, rfl⟩

theorem setBit_pend {th e : Nat} : bitOn ((b.setBit th e).thr th).pend e = true := by
  unfold setBit setThr thr
  rw [Sp.get_set_self]
  exact (bitOn_setBitField ..).trans (by simp)

/-- A delivery: to a thread's core by its event bit, to the host by its vector (R448). -/
theorem icuSend_spec (hb : bank < 2) (g : Nat) :
    (b.icuSend bank n g).icu bank n = b.delivered (b.icu bank n) g ∧
    (b.icuSend bank n g).rd (Pg.icu bank) R.ICU_DELIV = min (b.rd (Pg.icu bank) R.ICU_DELIV + 1) (2 ^ 32 - 1) ∧
    Unheard b (b.icuSend bank n g) ∧ Keeps [Pg.icu bank] b (b.icuSend bank n g) ∧
    (32 ≤ g → bitOn ((b.icuSend bank n g).thr (8 * (g - 32))).pend 26 = true ∧ (b.icuSend bank n g).out = b.out) ∧
    (g < 32 → (b.vecFree (2 * g + bank) → (b.icuSend bank n g).out =
        b.out ++ [.msix (2 * g + bank) (b.vec (2 * g + bank)).addr (b.vec (2 * g + bank)).data]) ∧
      (¬ b.vecFree (2 * g + bank) → 2 * g + bank ∈ (b.icuSend bank n g).host.pba ∧ (b.icuSend bank n g).out = b.out)) := by
  rw [icuSend_eq]
  obtain ⟨hicu, hcnt, hseen, hkeeps, hhost, hout, hdma⟩ := icuMoved_spec (b := b) (n := n) hb g
  generalize b.icuMoved bank n g = d at *
  have hvec : ∀ v, d.vec v = b.vec v := fun v => by unfold vec; rw [hhost]
  have hfree : ∀ v, d.vecFree v ↔ b.vecFree v := fun v => by unfold vecFree; rw [hhost, hvec, hdma]
  by_cases hg : g < 32
  · rw [if_pos hg]
    obtain ⟨hu, hirq, hregs⟩ := vecNotify_unheard (b := d) (2 * g + bank)
    obtain ⟨-, hk, hf, hh⟩ := vecNotify_spec d (2 * g + bank)
    refine ⟨(icu_of_irq hirq).trans hicu, ?_, hseen.trans hu, hkeeps.trans (hk _), fun h => absurd hg (Nat.not_lt.2 h), fun _ =>
      ⟨fun h => ?_, fun h => ?_⟩⟩
    · exact (rd_of_regs hregs _ _ _ _).trans hcnt
    · rw [hf ((hfree _).2 h), hout, hvec]
    · obtain ⟨h1, h2⟩ := hh fun h' => h ((hfree _).1 h')
      exact ⟨h1, h2.trans hout⟩
  · rw [if_neg hg]
    exact ⟨(icu_of_irq rfl).trans hicu, hcnt, hseen.trans (setBit_unheard ..), hkeeps.of_eq rfl rfl rfl rfl, fun _ => ⟨setBit_pend, hout⟩,
      fun h => absurd h hg⟩

/-! Acknowledges and masks (R449, R451). -/

theorem setIcu_keeps (ps : List Nat) : Keeps ps b (b.setIcu bank n x) := (Keeps.refl b).of_eq (by simp) (by simp) (by simp) (by simp)

theorem icuAck_active {g : Nat} (hg : (b.icu bank n).lastTgt = g) (hs : (b.icu bank n).st = .active) : b.icuAck bank g n =
    b.setIcu bank n { b.icu bank n with st := if b.icuInput bank (0x1000 * n) then .pending else .idle } := by
  unfold icuAck
  simp only [hg, hs, ne_eq, not_true_eq_false, if_false]

theorem icuAck_again {g : Nat} (hg : (b.icu bank n).lastTgt = g) (hs : (b.icu bank n).st = .activePending) : b.icuAck bank g n =
    b.setIcu bank n { b.icu bank n with st := .pending } := by
  unfold icuAck
  simp only [hg, hs, ne_eq, not_true_eq_false, if_false]

theorem icuAck_bad {g : Nat} (h : (b.icu bank n).lastTgt ≠ g ∨ (b.icu bank n).st = .idle ∨ (b.icu bank n).st = .pending) : b.icuAck bank g n =
    (b.sat (Pg.icu bank) R.ICU_BADACK).fire (Pg.icu bank) R.ICU_EVT_BADACK := by
  unfold icuAck
  dsimp only
  by_cases hg : (b.icu bank n).lastTgt ≠ g
  · rw [if_pos hg]
  · rw [if_neg hg]
    rcases h with h | h | h
    · exact absurd h hg
    · rw [h]
    · rw [h]

theorem badAck_spec (hb : bank < 2) :
    let c := (b.sat (Pg.icu bank) R.ICU_BADACK).fire (Pg.icu bank) R.ICU_EVT_BADACK
    c.rd (Pg.icu bank) R.ICU_BADACK = min (b.rd (Pg.icu bank) R.ICU_BADACK + 1) (2 ^ 32 - 1) ∧
    c.rd (Pg.icu bank) (evtPend R.ICU_EVT_BADACK) = 1 ∧ Unheard b c ∧ Keeps [Pg.icu bank] b c ∧
    (n ≠ 4 → n ≠ 5 → c.icu bank n = b.icu bank n) := by
  intro c
  have hp : Pg.icu bank % 0x1000 = 0 := by unfold Pg.icu; omega
  refine ⟨?_, fire_pend _ (by decide) hp, (Unheard.sat (Unheard.near_icu hb) (by decide)).trans (.fire (Unheard.near_icu hb) (by decide)),
    ((Keeps.refl b).sat (by decide) ?_).fire (by decide) hp (by simp), fun h4 h5 => ?_⟩
  · rw [rd_fire _ (by decide) (by decide) (.inl ?_) ?_ ?_ ?_, rd_sat_self]
    · rfl
    all_goals
      simp only [Fld.addr, R.ICU_BADACK, Pg.icu]
      omega
  · simp [pageOf, Fld.addr, R.ICU_BADACK, Pg.icu]
    omega
  · rw [icu_fire hb (.inl (by unfold Pg.icu; omega))]
    exact icu_of_irq (by simp)

/-- What the stores of the bank's pages do. -/
theorem storeIcu_ack (hb : bank < 2) (v : Nat) : (b.storeIcu (Pg.icu bank + 0x90) v).1 = b.icuAck bank (R.ICU_ACK_TGT.of v) (R.ICU_ACK_SRC.of v) := by
  obtain rfl | rfl : bank = 0 ∨ bank = 1 := by omega
  · rfl
  · rfl

theorem storeIcu_maskSet (hb : bank < 2) (v : Nat) : (b.storeIcu (Pg.icu bank + 0x94) v).1 = b.icuMask bank (R.ICU_MASK_SET.of v) true := by
  obtain rfl | rfl : bank = 0 ∨ bank = 1 := by omega
  · rfl
  · rfl

theorem storeIcu_maskClr (hb : bank < 2) (v : Nat) : (b.storeIcu (Pg.icu bank + 0x98) v).1 = b.icuMask bank (R.ICU_MASK_CLR.of v) false := by
  obtain rfl | rfl : bank = 0 ∨ bank = 1 := by omega
  · rfl
  · rfl

end

end Body

section
variable {s : State} {c : Body} {bank n g m : Nat}

/-- Nothing follows a command of the ICU. -/
theorem State.withBody_unheard (h : Body.Unheard s.dev.body c) : (s.withBody c).dev.body = c := h.note

theorem State.unheard_reg (h : Body.Unheard s.dev.body c) (q : Nat) (f : Fld) : (s.withBody c).reg q f = c.rd q f := by
  rw [State.reg, State.withBody_unheard h]

theorem exec_icuDeliver (hb : bank < 2) (hr : s.runs [2]) (hc : s.dev.body.icuDeliver bank = c) : exec (.icuDeliver bank) s = .next (s.withBody c) :=
  State.body_withBody (decide_eq_true hb) hr hc

theorem exec_icuDeliver_same (hb : bank < 2) (hr : s.runs [2]) (hc : s.dev.body.icuDeliver bank = s.dev.body) :
    exec (.icuDeliver bank) s = .next s := by
  rw [exec_icuDeliver hb hr hc, State.withBody_self]

theorem exec_icuAck (hb : bank < 2) (hg : g < 64) (hn : n < 4096) (h : s.takes m (Pg.icu bank + 0x90)) :
    exec (.icuAck bank g n m) s = .next (s.withBody (s.dev.body.icuAck bank g n)) := by
  refine State.live_withBody (by simp [hb, hg, hn, h.known]) h.runs ?_
  have hw := Dev.write_store (g * 2 ^ 16 + n) h (pageIs_icu hb) (by decide) (by decide) (by decide) (by unfold Pg.icu Pg.boot; omega) (by decide)
  have hs : (s.dev.body.pageStore .icu m (Pg.icu bank + 0x90) (g * 2 ^ 16 + n) (s.dev.pageLocked (Pg.icu bank))).1 = s.dev.body.icuAck bank g n := by
    have ht : R.ICU_ACK_TGT.of (g * 2 ^ 16 + n) = g := by simp only [Fld.of, bitField, R.ICU_ACK_TGT]; omega
    have hsrc : R.ICU_ACK_SRC.of (g * 2 ^ 16 + n) = n := by simp only [Fld.of, bitField, R.ICU_ACK_SRC]; omega
    exact (Body.storeIcu_ack hb _).trans (by rw [ht, hsrc])
  rw [← hs]
  exact hw

theorem exec_icuMaskSet (hb : bank < 2) (hn : n < 4096) (h : s.takes m (Pg.icu bank + 0x94)) :
    exec (.icuMaskSet bank n m) s = .next (s.withBody (s.dev.body.icuMask bank n true)) := by
  refine State.live_withBody (by simp [hb, hn, h.known]) h.runs ?_
  obtain ⟨w, hw, hput⟩ := Dev.put_word (i := 0) (f := R.ICU_MASK_SET) n h (pageIs_icu hb) (by decide) (by decide) (by decide)
    (by unfold Pg.icu Pg.boot; omega) (by decide) rfl (by decide)
  have hsrc : R.ICU_MASK_SET.of w = n := (hw (R.ICU_MASK_SET, 0, 0) (by decide)).trans (by simp [Body.putVal, Fld.width, R.ICU_MASK_SET]; omega)
  rw [hput, ← hsrc]
  exact congrArg _ (Body.storeIcu_maskSet hb w)

theorem exec_icuMaskClr (hb : bank < 2) (hn : n < 4096) (h : s.takes m (Pg.icu bank + 0x98)) :
    exec (.icuMaskClr bank n m) s = .next (s.withBody (s.dev.body.icuMask bank n false)) := by
  refine State.live_withBody (by simp [hb, hn, h.known]) h.runs ?_
  obtain ⟨w, hw, hput⟩ := Dev.put_word (i := 0) (f := R.ICU_MASK_CLR) n h (pageIs_icu hb) (by decide) (by decide) (by decide)
    (by unfold Pg.icu Pg.boot; omega) (by decide) rfl (by decide)
  have hsrc : R.ICU_MASK_CLR.of w = n := (hw (R.ICU_MASK_CLR, 0, 0) (by decide)).trans (by simp [Body.putVal, Fld.width, R.ICU_MASK_CLR]; omega)
  rw [hput, ← hsrc]
  exact congrArg _ (Body.storeIcu_maskClr hb w)

/-- A change of one source of a bank and of nothing else. -/
theorem State.withBody_setIcu {b : Body} (hs : s.dev.body = b) (x : IcuSrc) :
    (s.withBody (b.setIcu bank n x)).dev.body.icu bank n = x ∧ s.keeps (s.withBody (b.setIcu bank n x)) [] := by
  subst hs
  exact ⟨by rw [State.withBody_unheard (.setIcu ..), Body.icu_setIcu], State.withBody_keeps (Body.setIcu_keeps _)⟩

end

end Sys2Proof.Machine
end

section
/-! O55, the FMU: records, merges, first errors and containment (R457 to R469). -/

namespace Sys2Proof.Machine

namespace Body

/-! What a Gallery reset leaves alone: the FMU's page and its records. -/

/-- Addresses outside the FMU's page. -/
def offFmu (a : Nat) (_ : Nat) : Prop := a < 0x6000 ∨ 0x7000 ≤ a

theorem offFmu_chm (a l : Nat) (h : chmAddr a l) : offFmu a l := by
  unfold offFmu
  unfold chmAddr Pg.chm Pg.rim at h
  omega

/-- What leaves the FMU's page and its records alone. -/
structure Aloof (b c : Body) : Prop where
  touch : Touch offFmu b c
  recs : c.irq.recs = b.irq.recs

namespace Aloof
variable {b c d : Body} {p i n : Nat}

theorem refl (b : Body) : Aloof b b := ⟨.refl b, rfl⟩

theorem trans (h : Aloof b c) (h' : Aloof c d) : Aloof b d := ⟨h.touch.trans h'.touch, h'.recs.trans h.recs⟩

theorem of (h : Aloof b c) (hr : d.regs = c.regs) (hc : d.ctrs = c.ctrs) (hi : d.irq = c.irq) : Aloof b d :=
  ⟨h.touch.of hr hc, (congrArg IrqSt.recs hi).trans h.recs⟩

theorem wr {f : Fld} {v : Nat} (h : Aloof b c) (hf : f.lo < 32 ∧ f.off ≠ 0x20 ∧ f.off < 0x1000) (hp : p % 0x1000 = 0 ∧ 0x7000 ≤ p) :
    Aloof b (c.wr p f v) :=
  ⟨h.touch.wr ⟨hf.1, by rw [Fld.addr_zero]; omega⟩ (.inr (by rw [Fld.addr_zero]; omega)), h.recs⟩

theorem count {m : Nat} (h : Aloof b c) (hi : i < 0x1000) (hp : 0x7000 ≤ p) : Aloof b (c.count p i m) :=
  ⟨h.touch.count hi (.inr hp), h.recs⟩

theorem foldl {α : Type} {f : Body → α → Body} (l : List α) (b : Body) (h : ∀ c, ∀ x ∈ l, Aloof c (f c x)) : Aloof b (l.foldl f b) := by
  induction l generalizing b with
  | nil => exact refl b
  | cons x t ih => exact (h b x List.mem_cons_self).trans (ih _ fun c y hy => h c y (List.mem_cons_of_mem _ hy))

theorem ofOnlyCells (h : Aloof b c) (hd : OnlyCells c d) : Aloof b d := by
  obtain ⟨l, m, rfl⟩ := hd
  exact h.of rfl rfl rfl

end Aloof

section
variable {b : Body}

theorem sendPfc_irq (p v m : Nat) : (b.sendPfc p v m).irq = b.irq := by
  unfold sendPfc
  split_ifs <;> rfl

theorem xoffUpdate_irq (p : Nat) (again : Bool) : (b.xoffUpdate p again).irq = b.irq := by
  unfold xoffUpdate
  dsimp only
  split_ifs
  · exact (sendPfc_irq ..).trans (sendPfc_irq ..)
  · exact sendPfc_irq ..
  · exact sendPfc_irq ..
  · rfl

theorem chmPfc_irq (p i : Nat) : (b.chmPfc p i).irq = b.irq := by
  unfold chmPfc
  dsimp only
  split_ifs
  · rfl
  · exact xoffUpdate_irq ..
  · exact xoffUpdate_irq ..
  · rfl

theorem chmRefresh_irq : b.chmRefresh.irq = b.irq := by unfold chmRefresh; simp

theorem aloof_chmRefresh : Aloof b b.chmRefresh := ⟨touch_chmRefresh.mono offFmu_chm, congrArg IrqSt.recs chmRefresh_irq⟩

theorem aloof_chmChanged (ks : List (Nat × Nat)) : Aloof b (b.chmChanged ks) := by
  have hirq : (b.chmPfcAll ks).irq = b.irq := foldl_same (fun x : Body => x.irq) _ (fun c k => chmPfc_irq ..) _ _
  refine ⟨(touch_chmChanged ks).mono offFmu_chm, ?_⟩
  unfold chmChanged
  rw [chmRefresh_irq, hirq]

theorem aloof_xoffUpdate {p : Nat} (hp : p < 512) (again : Bool) : Aloof b (b.xoffUpdate p again) :=
  ⟨(touch_xoffUpdate hp again).mono offFmu_chm, congrArg IrqSt.recs (xoffUpdate_irq ..)⟩

theorem aloof_entChanged {p : Nat} (hp : p < 512) : Aloof b (b.entChanged p) := by
  have hpage : Pg.preclass (p / 64) % 0x1000 = 0 ∧ 0x7000 ≤ Pg.preclass (p / 64) := by unfold Pg.preclass Pg.gallery; omega
  have hlevel : Aloof b ((b.galBusy (p / 64)).entLevel (p / 64)) :=
    Aloof.wr (.wr (.of (.refl b) rfl rfl rfl) (by decide) hpage) (by decide) hpage
  unfold entChanged
  refine hlevel.trans ?_
  generalize (b.galBusy (p / 64)).entLevel (p / 64) = d
  unfold pfcEntrance
  dsimp only
  refine Aloof.trans ?_ (aloof_xoffUpdate hp _)
  split_ifs
  · exact .of (.refl d) rfl rfl rfl
  · exact .of (.refl d) rfl rfl rfl
  · exact .refl d

theorem aloof_rcvDrop {g : Nat} (hg : g < 8) (n : Nat) : Aloof b (b.rcvDrop g n) := Aloof.count (.refl b) (by omega) (by decide)

theorem aloof_dropEntrance {p : Nat} (hp : p < 512) : Aloof b (b.dropEntrance p) := by
  unfold dropEntrance
  dsimp only
  have h1 : ∀ d : Body, Aloof b d → Aloof b (match d.rxOf p with
      | some f => if f.place = .entrance then d.setRx p (some { f with place := .gone }) else d
      | none => d) := fun d hd => by
    split
    · split_ifs
      · exact hd.of rfl rfl rfl
      · exact hd
    · exact hd
  have h2 := h1 _ (Aloof.trans (.of (.refl b) rfl rfl rfl : Aloof b ((b.setFifo p []).ledOut (ledEntrance (p / 64)) (b.fifo p).length))
    (aloof_rcvDrop (g := p / 64) (by omega) (b.fifo p).length))
  split_ifs
  · exact h2
  · exact h2.trans (aloof_entChanged hp)

theorem aloof_release (pid : Nat) (p : Pkt) : Aloof b (b.release pid p) :=
  (Aloof.ofOnlyCells (.refl b) (b.freeCells_only _)).of rfl rfl rfl

theorem aloof_dropHeads {g : Nat} (hg : g < 8) : Aloof b (b.dropHeads g) := by
  unfold dropHeads
  dsimp only
  refine Aloof.trans ?_ (Aloof.foldl _ _ fun c i _ => ?_)
  · exact .of (.refl b) rfl rfl rfl
  split
  · split_ifs
    · exact aloof_release _ _
    · exact (Aloof.of (aloof_release (b := c) i _) rfl rfl rfl : Aloof c ((c.release i _).ledOut (ledPipe g) 1)).trans (aloof_rcvDrop hg 1)
  · exact .refl c

theorem aloof_egrDone (e : EgrPkt) : Aloof b (b.egrDone e) := by
  unfold egrDone
  dsimp only
  refine Aloof.trans ?_ (aloof_chmChanged _)
  have hfree : Aloof b (({ b with sch := { b.sch with egr := b.sch.egr.erase e } } : Body).freeCells (e.cells.map (·.cell))) :=
    Aloof.ofOnlyCells (c := { b with sch := { b.sch with egr := b.sch.egr.erase e } }) (.of (.refl b) rfl rfl rfl) (freeCells_only ..)
  split_ifs
  · exact hfree.of rfl rfl rfl
  · exact hfree.of rfl rfl rfl

theorem aloof_dropEgress {g : Nat} (hg : g < 8) : Aloof b (b.dropEgress g) := by
  unfold dropEgress
  dsimp only
  refine Aloof.foldl _ _ fun c e _ => ?_
  exact ((Aloof.of (.refl c) rfl rfl rfl : Aloof c (c.ledOut (ledEgress g) 1)).trans (aloof_rcvDrop hg 1)).trans (aloof_egrDone e)

theorem aloof_galReset {g : Nat} (hg : g < 8) : Aloof b (b.galReset g) := by
  have hent : Aloof b ((List.range 64).foldl (fun b i => b.dropEntrance (64 * g + i)) b) :=
    Aloof.foldl _ _ fun c i hi => aloof_dropEntrance (by have := List.mem_range.1 hi; omega)
  exact ((hent.trans (aloof_dropHeads hg)).trans (aloof_dropEgress hg)).trans aloof_chmRefresh

theorem aloof_wakeStart {g : Nat} (hg : g < 8) (cause : Nat) : Aloof b (b.wakeStart g cause) := by
  have hpage : Pg.galPower g % 0x1000 = 0 ∧ 0x7000 ≤ Pg.galPower g := by unfold Pg.galPower Pg.gallery; omega
  by_cases h : 4 ≤ b.galState g ∧ b.galState g ≤ 6
  · have hset : ∀ (c : Body) (x : GalPwr), Aloof b c → Aloof b (c.setGp g x) := fun c x hc => hc.of rfl rfl rfl
    have hgal : ∀ (c : Body) (st : Nat), Aloof b c → Aloof b (c.galSet g st) := fun c st hc => (hset c _ hc).wr (by decide) hpage
    obtain ⟨sch, he⟩ := wakeStart_eq (b := b) (g := g) cause h.1 h.2
    rw [he]
    have hw : Aloof b (((b.setGp g (b.galWoken g)).galSet g 7).gpwr g R.GAL_WAKE_CAUSE cause) :=
      (hgal _ _ (hset _ _ (.refl b))).wr (by decide) hpage
    generalize ((b.setGp g (b.galWoken g)).galSet g 7).gpwr g R.GAL_WAKE_CAUSE cause = d at hw
    have hd : Aloof b { d with sch := sch } := hw.of rfl rfl rfl
    exact hd.count (by unfold GAL_WAKE_DOZE; omega) (by omega)
  · rw [wakeStart, if_neg h]
    exact .refl b

theorem aloof_galResetReq {g : Nat} (hg : g < 8) : Aloof b (b.galResetReq g) := by
  unfold galResetReq
  dsimp only
  split_ifs
  · exact aloof_galReset hg
  · generalize hd : b.setGp g { b.gp g with resetDue := true } = d
    have hbd : Aloof b d := hd ▸ .of (.refl b) rfl rfl rfl
    refine hbd.trans ?_
    exact aloof_wakeStart hg 6

theorem aloof_ringReset (n : Nat) : Aloof b (b.ringReset n false) := by
  have hpage : Pg.ring n % 0x1000 = 0 ∧ 0x7000 ≤ Pg.ring n := by unfold Pg.ring; omega
  unfold ringReset
  simp only [Bool.false_eq_true, if_false]
  split_ifs
  · exact .refl b
  · exact .refl b
  · exact (Aloof.wr (f := R.RING_STATE) (v := RING_RESETTING) (.refl b) (by decide) hpage).of rfl rfl rfl

/-- Containment acts on the faulty scope alone (R466). -/
theorem aloof_fmuContain (page : Nat) : Aloof b (b.fmuContain page) := by
  unfold fmuContain
  dsimp only
  split_ifs with h1 h2 h3 h4
  · exact .refl b
  · exact .refl b
  · refine (aloof_galResetReq (by omega)).trans ⟨Touch.wr (.refl _) ⟨by decide, ?_⟩ (.inr ?_), rfl⟩
    all_goals
      simp only [Fld.addr, R.PG_RESET_BUSY, Pg.gallery]
      omega
  · exact aloof_ringReset _
  · exact .refl b

end

end Body

end Sys2Proof.Machine
end

section
/-! O55, the FMU's records and the statement (R457 to R469). -/

namespace Sys2Proof.Machine

namespace Body

section
variable {b c d : Body} {n : Nat} {r : Report}

/-- What the FMU's events and containment leave of its page: the block registers, the pending events and the records. -/
structure Filed (b c : Body) : Prop where
  block : ∀ f : Fld, f.lo < 32 → 0x80 ≤ f.off ∧ f.off < 0x1000 → c.mrd f = b.mrd f
  pend : ∀ e < 32, b.rd Pg.fmu (evtPend e) = 1 → c.rd Pg.fmu (evtPend e) = 1
  recs : c.irq.recs = b.irq.recs

namespace Filed

theorem refl (b : Body) : Filed b b := ⟨fun _ _ _ => rfl, fun _ _ h => h, rfl⟩

theorem trans (h : Filed b c) (h' : Filed c d) : Filed b d :=
  ⟨fun f hf ho => (h'.block f hf ho).trans (h.block f hf ho), fun e he hb => h'.pend e he (h.pend e he hb), h'.recs.trans h.recs⟩

theorem fire {e : Nat} (h : Filed b c) (he : e < 32) : Filed b (c.fire Pg.fmu e) :=
  h.trans ⟨fun _ hf ho => c.rd_fire_block he hf (by decide) ho.1 (by simp; omega) (by decide) (by decide),
    fun _ hn hb => c.fire_keeps_pend hn he (by decide) (by decide) hb, by simp⟩

theorem holdEvent {e : Nat} (h : Filed b c) (he : e < 32) : Filed b (c.holdEvent Pg.fmu e) := by
  unfold Body.holdEvent fireLasting
  split_ifs
  · exact h
  · exact h.fire he
  · exact h

theorem fault {e : Nat} (h : Filed b c) (he : e < 32) (x : FltInfo) : Filed b (c.fault Pg.fmu e x) := by
  refine h.trans ⟨fun f hf ho => c.rd_fault x he hf (.inl (by rw [Fld.addr_zero]; omega)), fun n hn hb => ?_, ?_⟩
  · exact (c.rd_fault x he hn (.inl (by rw [Fld.addr_zero]; simp [evtPend]))).trans hb
  · unfold Body.fault
    dsimp only
    split_ifs <;> rfl

theorem of_irq (h : Filed b c) (hr : d.regs = c.regs) (hi : d.irq.recs = c.irq.recs) : Filed b d :=
  h.trans ⟨fun _ _ _ => rd_of_regs hr _ _ _ _, fun _ _ hb => (rd_of_regs hr _ _ _ _).trans hb, hi⟩

theorem ofAloof (h : Aloof b c) : Filed b c :=
  ⟨fun _ hf ho => h.touch.regs _ _ _ _ hf (by rw [Fld.addr_zero]; unfold offFmu Pg.fmu; omega),
    fun _ he hb => h.touch.pend _ _ he (by decide) hb, h.recs⟩

end Filed

/-! Fatal faults (R458, R466). -/

theorem fmuFatal_mild (h : r.fatal = false) : b.fmuFatal r = b := if_neg (by simp [h])

theorem fmuFatal_eq (h : r.fatal = true) : b.fmuFatal r = (b.fire Pg.fmu R.FMU_EVT_FATAL).fmuContain r.page := if_pos h

theorem fmuFatal_filed : Filed b (b.fmuFatal r) := by
  by_cases h : r.fatal = true
  · rw [fmuFatal_eq h]
    exact (Filed.fire (.refl b) (by decide)).trans (.ofAloof (aloof_fmuContain _))
  · rw [fmuFatal_mild (by simpa using h)]
    exact .refl b

theorem fmuFatal_pend (h : r.fatal = true) : (b.fmuFatal r).rd Pg.fmu (evtPend R.FMU_EVT_FATAL) = 1 := by
  rw [fmuFatal_eq h]
  exact (aloof_fmuContain _).touch.pend _ _ (by decide) (by decide) (fire_pend _ (by decide) (by decide))

theorem scopeOf_ring {k : Nat} (hk : k < 240) : scopeOf (Pg.ring k) = 0x10400 + k := by
  have hn : Pg.ring k / 0x1000 = 0xE10 + k := by unfold Pg.ring; omega
  unfold scopeOf
  simp only [hn]
  rw [if_neg (by omega), if_neg (by omega), if_neg (by omega), if_neg (by omega), if_pos (by omega)]
  omega

/-- A fatal fault of a ring's page contains the ring. -/
theorem fmuFatal_ring {k : Nat} (h : r.fatal = true) (hact : b.mrd R.FMU_FATAL_ACT = 1) (hk : k < 240) (hp : r.page = Pg.ring k)
    (hrun : b.rrd k R.RING_STATE = RING_RUNNING) : (b.fmuFatal r).rrd k R.RING_STATE = RING_RESETTING := by
  have hact' : (b.fire Pg.fmu R.FMU_EVT_FATAL).mrd R.FMU_FATAL_ACT = 1 := ((Filed.refl b).fire (by decide)).block _ (by decide) (by decide) |>.trans hact
  have hrun' : (b.fire Pg.fmu R.FMU_EVT_FATAL).rrd k R.RING_STATE = RING_RUNNING := by
    refine (b.rd_fire (by decide) (by decide) (.inl ?_) ?_ ?_ ?_).trans hrun
    all_goals
      simp only [Fld.addr, Pg.ring, Pg.fmu, R.RING_STATE]
      omega
  have hcontain : (b.fire Pg.fmu R.FMU_EVT_FATAL).fmuContain r.page = (b.fire Pg.fmu R.FMU_EVT_FATAL).ringReset k false := by
    unfold fmuContain
    simp only [hp, scopeOf_ring hk, hact']
    rw [if_neg (by simp), if_neg (by omega), if_pos (by omega), Nat.add_sub_cancel_left]
  rw [fmuFatal_eq h, hcontain]
  exact (ringReset_spec (by rw [hrun']; decide)).1

/-! The first error (R464). -/

/-- The fields of the first error, as a record fills them. -/
def feVals (n : Nat) (x : FmuRec) : List (Fld × Nat) :=
  [(R.FMU_FE_VALID, 1), (R.FMU_FE_FATAL, b2n x.fatal), (R.FMU_FE_INJ, b2n x.inj), (R.FMU_FE_TOD_VALID, b2n x.todValid),
    (R.FMU_FE_ACCESS, x.access), (R.FMU_FE_SPACE, x.space), (R.FMU_FE_BIT, x.bit), (R.FMU_FE_PAGE, x.page),
    (R.FMU_FE_MASTER, x.master), (R.FMU_FE_ADDR_LO, x.addr), (R.FMU_FE_ADDR_HI, x.addr / 2 ^ 32), (R.FMU_FE_SEC, x.sec),
    (R.FMU_FE_NS, x.ns), (R.FMU_FE_SEQ, n), (R.FMU_FE_DETAIL, x.detail)]

def feFlds : List Fld :=
  [R.FMU_FE_VALID, R.FMU_FE_FATAL, R.FMU_FE_INJ, R.FMU_FE_TOD_VALID, R.FMU_FE_ACCESS, R.FMU_FE_SPACE, R.FMU_FE_BIT, R.FMU_FE_PAGE,
    R.FMU_FE_MASTER, R.FMU_FE_ADDR_LO, R.FMU_FE_ADDR_HI, R.FMU_FE_SEC, R.FMU_FE_NS, R.FMU_FE_SEQ, R.FMU_FE_DETAIL]

theorem feVals_flds (x : FmuRec) : (feVals n x).map (·.1) = feFlds := rfl

theorem mwrs_other {l : List (Fld × Nat)} {g : Fld} (h : ∀ f ∈ l.map (·.1), apart f g = true) (b : Body) :
    (l.foldl (fun b e => b.mwr e.1 e.2) b).rd Pg.fmu g = b.rd Pg.fmu g := by
  induction l generalizing b with
  | nil => rfl
  | cons e t ih =>
    obtain ⟨h1, h2⟩ := List.forall_mem_cons.1 h
    exact (ih h2 _).trans (rd_wr_apart h1)

theorem mwrs_each {l : List (Fld × Nat)} {f : Fld} {v : Nat} (hl : (l.map (·.1)).Pairwise fun f g => apart g f = true) (h : (f, v) ∈ l) (b : Body) :
    (l.foldl (fun b e => b.mwr e.1 e.2) b).mrd f = v % 2 ^ f.width := by
  induction l generalizing b with
  | nil => cases h
  | cons e t ih =>
    obtain ⟨h1, h2⟩ := List.pairwise_cons.1 hl
    rcases List.mem_cons.1 h with rfl | h
    · exact (mwrs_other h1 _).trans (rd_wr_self ..)
    · exact ih h2 h _

theorem mwrs_irq (l : List (Fld × Nat)) : (l.foldl (fun b e => b.mwr e.1 e.2) b).irq = b.irq :=
  foldl_same (fun x : Body => x.irq) (fun (b : Body) (e : Fld × Nat) => b.mwr e.1 e.2) (fun _ _ => rfl) _ _

theorem mwrs_keeps {l : List (Fld × Nat)} (h : ∀ f ∈ l.map (·.1), f.lo < 32 ∧ f.off < 0x1000) :
    Keeps [Pg.fmu] b (l.foldl (fun b e => b.mwr e.1 e.2) b) := by
  refine Keeps.foldl _ (.refl b) fun c e he hc => ?_
  obtain ⟨h1, h2⟩ := h _ (List.mem_map_of_mem he)
  refine hc.wr h1 ?_
  simp only [Fld.addr_zero, pageOf, Pg.fmu, List.mem_singleton]
  omega

theorem feFlds_pairwise : feFlds.Pairwise fun f g => apart g f = true := by decide

theorem firstError_later (h : b.mrd R.FMU_FE_VALID = 1) : b.firstError n r = b := if_pos h

theorem firstError_first (h : b.mrd R.FMU_FE_VALID = 0) : b.firstError n r =
    (feVals n (recordOf n r)).foldl (fun b e => b.mwr e.1 e.2) b := if_neg (by simp [h])

theorem feValid_or : b.mrd R.FMU_FE_VALID = 0 ∨ b.mrd R.FMU_FE_VALID = 1 := by
  have : b.mrd R.FMU_FE_VALID < 2 := b.rd_lt Pg.fmu R.FMU_FE_VALID 0 0
  omega

/-- The first-error capture of a record: as it was, or the record's. -/
structure Captured (b c : Body) (n : Nat) (r : Report) : Prop where
  valid : c.mrd R.FMU_FE_VALID = 1
  later : b.mrd R.FMU_FE_VALID = 1 → c.mrd R.FMU_FE_SEQ = b.mrd R.FMU_FE_SEQ ∧ c.mrd R.FMU_FE_PAGE = b.mrd R.FMU_FE_PAGE
  first : b.mrd R.FMU_FE_VALID = 0 → c.mrd R.FMU_FE_PAGE = r.page / 0x1000 % 2 ^ 12 ∧ c.mrd R.FMU_FE_BIT = r.bit % 2 ^ 5 ∧
    c.mrd R.FMU_FE_SPACE = r.info.space % 2 ^ 4 ∧ c.mrd R.FMU_FE_DETAIL = r.info.detail % 2 ^ 32
  seq : b.mrd R.FMU_FE_VALID = 0 → c.mrd R.FMU_FE_SEQ = n % 2 ^ 32

theorem firstError_captured : Captured b (b.firstError n r) n r := by
  rcases feValid_or (b := b) with h | h
  · rw [firstError_first h]
    have each : ∀ {f : Fld} {v : Nat}, (f, v) ∈ feVals n (recordOf n r) →
        ((feVals n (recordOf n r)).foldl (fun b e => b.mwr e.1 e.2) b).mrd f = v % 2 ^ f.width := fun hm => mwrs_each (l := feVals n (recordOf n r)) feFlds_pairwise hm b
    refine ⟨each (v := 1) (by simp [feVals]), fun h' => absurd (h.symm.trans h') (by decide), fun _ => ⟨?_, ?_, ?_, ?_⟩, fun _ => ?_⟩
    · exact each (f := R.FMU_FE_PAGE) (v := r.page / 0x1000) (by simp [feVals, recordOf])
    · exact each (f := R.FMU_FE_BIT) (v := r.bit) (by simp [feVals, recordOf])
    · exact each (f := R.FMU_FE_SPACE) (v := r.info.space) (by simp [feVals, recordOf])
    · exact each (f := R.FMU_FE_DETAIL) (v := r.info.detail) (by simp [feVals, recordOf])
    · exact each (f := R.FMU_FE_SEQ) (v := n) (by simp [feVals])
  · rw [firstError_later h]
    exact ⟨h, fun _ => ⟨rfl, rfl⟩, fun h' => absurd (h'.symm.trans h) (by decide), fun h' => absurd (h'.symm.trans h) (by decide)⟩

theorem firstError_irq : (b.firstError n r).irq = b.irq := by
  rcases feValid_or (b := b) with h | h
  · rw [firstError_first h, mwrs_irq]
  · rw [firstError_later h]

theorem firstError_other {g : Fld} (h : ∀ f ∈ feFlds, apart f g = true) : (b.firstError n r).rd Pg.fmu g = b.rd Pg.fmu g := by
  rcases feValid_or (b := b) with hv | hv
  · rw [firstError_first hv]
    exact mwrs_other (l := feVals n (recordOf n r)) h b
  · rw [firstError_later hv]

theorem firstError_keeps : Keeps [Pg.fmu] b (b.firstError n r) := by
  rcases feValid_or (b := b) with hv | hv
  · rw [firstError_first hv]
    exact mwrs_keeps (by rw [feVals_flds]; decide)
  · rw [firstError_later hv]
    exact .refl b

theorem feFlds_pend : ∀ e < 32, ∀ f ∈ feFlds, apart f (evtPend e) = true := by decide

/-- The first-error fields seen from before a change that leaves them alone, and after one. -/
theorem Captured.of {a e : Body} (h : Captured b c n r) (h0 : ∀ f ∈ feFlds, b.mrd f = a.mrd f) (h1 : Filed c e) : Captured a e n r := by
  have hv := h0 R.FMU_FE_VALID (by simp [feFlds])
  have block : ∀ {f : Fld}, (f.lo < 32 ∧ 0x80 ≤ f.off ∧ f.off < 0x1000) → e.mrd f = c.mrd f := fun hf => h1.block _ hf.1 hf.2
  refine ⟨(block (by decide)).trans h.valid, fun hb => ?_, fun hb => ?_, fun hb => (block (by decide)).trans (h.seq (hv.trans hb))⟩
  · obtain ⟨hs, hp⟩ := h.later (hv.trans hb)
    exact ⟨(block (by decide)).trans (hs.trans (h0 _ (by simp [feFlds]))), (block (by decide)).trans (hp.trans (h0 _ (by simp [feFlds])))⟩
  · rw [block (by decide), block (by decide), block (by decide), block (by decide)]
    exact h.first (hv.trans hb)

/-! New records and merges (R460, R463, R467). -/

/-- A ring of records that is full loses one. -/
def recLost (b : Body) : Body :=
  if 1024 ≤ wrapSub 32 (b.mrd R.FMU_REC_WR) (b.mrd R.FMU_REC_RD) then (b.sat Pg.fmu R.FMU_REC_LOST).fire Pg.fmu R.FMU_EVT_LOST else b

/-- A record put at its place. -/
def recPut (b : Body) (n : Nat) (r : Report) : Body :=
  { b with irq := { b.irq with
    recs := Sp.ins b.irq.recs (n % 1024) (recordOf n r), recArm := false,
    recBad := if b.irq.recArm then insertNat (n % 1024) b.irq.recBad else b.irq.recBad.erase (n % 1024),
    opened := Sp.ins b.irq.opened (scopeOf r.page) n } }

/-- What the events of a new record make of the page. -/
def recTold (b : Body) : Body := (b.closeScopes.fire Pg.fmu R.FMU_EVT_REC).holdEvent Pg.fmu R.FMU_EVT_HIGH

/-- A record that an armed error hits. -/
def recErr (b : Body) (hit : Bool) : Body := if hit then b.fault Pg.fmu R.FMU_FLT_REC_ECC { inj := true } else b

theorem fmuNew_eq (hn : b.mrd R.FMU_REC_WR = n) : b.fmuNew r =
    ((((b.recLost.recPut n r).mwr R.FMU_REC_WR (n + 1)).firstError n r).recTold.recErr b.recLost.irq.recArm).fmuFatal r := by
  subst hn
  rfl

theorem recPut_same : (b.recPut n r).regs = b.regs ∧ (b.recPut n r).ctrs = b.ctrs ∧ (b.recPut n r).tbls = b.tbls ∧ (b.recPut n r).mem = b.mem ∧
    (b.recPut n r).irq.reports = b.irq.reports ∧ (b.recPut n r).irq.recs = Sp.ins b.irq.recs (n % 1024) (recordOf n r) :=
  ⟨rfl, rfl, rfl, rfl, rfl, rfl⟩

theorem recLost_spec : Keeps [Pg.fmu] b b.recLost ∧ b.recLost.irq.recArm = b.irq.recArm ∧ b.recLost.irq.reports = b.irq.reports ∧
    (∀ f : Fld, apart R.FMU_REC_LOST f = true → 0x80 ≤ f.off → b.recLost.mrd f = b.mrd f) ∧
    (1024 ≤ wrapSub 32 (b.mrd R.FMU_REC_WR) (b.mrd R.FMU_REC_RD) → b.recLost.rd Pg.fmu (evtPend R.FMU_EVT_LOST) = 1 ∧
      b.recLost.mrd R.FMU_REC_LOST = min (b.mrd R.FMU_REC_LOST + 1) (2 ^ 32 - 1)) := by
  have harm : ∀ (c : Body) (e : Nat), (c.fire Pg.fmu e).irq.recArm = c.irq.recArm := fun c e => by
    unfold fire icuEdge setIcu
    dsimp only
    split_ifs <;> simp <;> split <;> simp
  unfold recLost
  split_ifs with h
  · refine ⟨(Keeps.sat (.refl b) (by decide) (by decide)).fire (by decide) (by decide) (by simp), harm _ _, by simp, fun f hf ho => ?_, fun _ =>
      ⟨fire_pend _ (by decide) (by decide), ?_⟩⟩
    · have hf' := of_decide_eq_true hf
      exact ((b.sat Pg.fmu R.FMU_REC_LOST).rd_fire_block (by decide) hf'.2.1 (by decide) ho (by simp; omega) (by decide) (by decide)).trans (rd_wr_apart hf)
    · exact (rd_fire_block _ (by decide) (by decide) (by decide) (by decide) (by decide) (by decide) (by decide)).trans (rd_sat_self ..)
  · exact ⟨.refl b, rfl, rfl, fun _ _ _ => rfl, fun h' => absurd h' h⟩

theorem holdEvent_reports (p e : Nat) : (b.holdEvent p e).irq.reports = b.irq.reports := by
  unfold holdEvent fireLasting
  split_ifs <;> simp

theorem recTold_spec : Filed b b.recTold ∧ b.recTold.rd Pg.fmu (evtPend R.FMU_EVT_REC) = 1 ∧ b.recTold.irq.reports = b.irq.reports ∧
    Keeps [Pg.fmu] b b.recTold := by
  have hclose : Filed b b.closeScopes := (Filed.refl b).of_irq rfl rfl
  have hkeep : Keeps [Pg.fmu] b b.closeScopes := (Keeps.refl b).of_eq rfl rfl rfl rfl
  have hrep : b.closeScopes.irq.reports = b.irq.reports := rfl
  unfold recTold
  generalize b.closeScopes = d at *
  have hpend : (d.fire Pg.fmu R.FMU_EVT_REC).rd Pg.fmu (evtPend R.FMU_EVT_REC) = 1 := fire_pend _ (by decide) (by decide)
  have hfire := hclose.fire (e := R.FMU_EVT_REC) (by decide)
  have hkfire := hkeep.fire (n := R.FMU_EVT_REC) (by decide) (by decide) (List.mem_singleton_self Pg.fmu)
  have hrfire := (d.fire_reports Pg.fmu R.FMU_EVT_REC).1.trans hrep
  generalize d.fire Pg.fmu R.FMU_EVT_REC = e at *
  exact ⟨hfire.holdEvent (by decide), (Filed.holdEvent (.refl e) (by decide)).pend _ (by decide) hpend, (holdEvent_reports ..).trans hrfire,
    hkfire.holdEvent (by decide) (by decide) (List.mem_singleton_self _)⟩

theorem recErr_none : b.recErr false = b := if_neg Bool.false_ne_true

theorem recErr_filed (hit : Bool) : Filed b (b.recErr hit) := by
  unfold recErr
  split_ifs
  · exact (Filed.refl b).fault (by decide) _
  · exact .refl b

/-- A new record (R460, R463, R464, R467). -/
theorem fmuNew_spec (hn : b.mrd R.FMU_REC_WR = n) :
    Captured b (b.fmuNew r) n r ∧ (b.fmuNew r).mrd R.FMU_REC_WR = (n + 1) % 2 ^ 32 ∧
    (b.fmuNew r).rd Pg.fmu (evtPend R.FMU_EVT_REC) = 1 ∧
    (b.fmuNew r).irq.recs.find? (fun e => e.1 == n % 1024) = some (n % 1024, recordOf n r) ∧
    (r.fatal = true → (b.fmuNew r).rd Pg.fmu (evtPend R.FMU_EVT_FATAL) = 1) ∧
    (r.fatal = false → b.irq.recArm = false → (b.fmuNew r).irq.reports = b.irq.reports ∧ Keeps [Pg.fmu] b (b.fmuNew r)) ∧
    (1024 ≤ wrapSub 32 n (b.mrd R.FMU_REC_RD) → (b.fmuNew r).rd Pg.fmu (evtPend R.FMU_EVT_LOST) = 1 ∧
      (b.fmuNew r).mrd R.FMU_REC_LOST = min (b.mrd R.FMU_REC_LOST + 1) (2 ^ 32 - 1)) ∧
    (∀ k < 240, b.irq.recArm = false → r.fatal = true → b.mrd R.FMU_FATAL_ACT = 1 → r.page = Pg.ring k → b.rrd k R.RING_STATE = RING_RUNNING →
      (b.fmuNew r).rrd k R.RING_STATE = RING_RESETTING) := by
  rw [fmuNew_eq hn]
  obtain ⟨hlk, harm, hlr, hlf, hll⟩ := recLost_spec (b := b)
  rw [harm]
  rw [hn] at hll
  generalize b.recLost = l at *
  have hother : ∀ {f : Fld}, apart R.FMU_REC_WR f = true → ((l.recPut n r).mwr R.FMU_REC_WR (n + 1)).rd Pg.fmu f = l.rd Pg.fmu f :=
    fun hf => (rd_wr_apart hf).trans (rd_of_regs recPut_same.1 _ _ _ _)
  have hpk : Keeps [Pg.fmu] b ((l.recPut n r).mwr R.FMU_REC_WR (n + 1)) :=
    Keeps.wr (c := l.recPut n r) (f := R.FMU_REC_WR) (hlk.of_eq recPut_same.1 recPut_same.2.1 recPut_same.2.2.1 recPut_same.2.2.2.1) (by decide) (by decide)
  have hrecs : ((l.recPut n r).mwr R.FMU_REC_WR (n + 1)).irq.recs = Sp.ins l.irq.recs (n % 1024) (recordOf n r) := recPut_same.2.2.2.2.2
  have hrep : ((l.recPut n r).mwr R.FMU_REC_WR (n + 1)).irq.reports = b.irq.reports := recPut_same.2.2.2.2.1.trans hlr
  have hwr : ((l.recPut n r).mwr R.FMU_REC_WR (n + 1)).mrd R.FMU_REC_WR = (n + 1) % 2 ^ 32 := rd_wr_self ..
  generalize ((l.recPut n r).mwr R.FMU_REC_WR (n + 1)) = p at *
  have hfe : ∀ f ∈ feFlds, p.mrd f = b.mrd f := fun f hf =>
    (hother ((by decide : ∀ f ∈ feFlds, apart R.FMU_REC_WR f = true) f hf)).trans
      (hlf f ((by decide : ∀ f ∈ feFlds, apart R.FMU_REC_LOST f = true) f hf) ((by decide : ∀ f ∈ feFlds, 0x80 ≤ f.off) f hf))
  have hcap : Captured p (p.firstError n r) n r := firstError_captured
  have hfirst : ∀ {g : Fld}, (∀ f ∈ feFlds, apart f g = true) → (p.firstError n r).rd Pg.fmu g = p.rd Pg.fmu g := firstError_other
  have hirq : (p.firstError n r).irq = p.irq := firstError_irq
  have hek : Keeps [Pg.fmu] b (p.firstError n r) := hpk.trans firstError_keeps
  generalize p.firstError n r = e at *
  obtain ⟨htold, hrecp, htr, htk⟩ := recTold_spec (b := e)
  generalize e.recTold = t at *
  have hsafe : b.irq.recArm = false → t.recErr b.irq.recArm = t := fun ha => by rw [ha]; exact recErr_none
  have herr : Filed t (t.recErr b.irq.recArm) := recErr_filed _
  generalize t.recErr b.irq.recArm = u at *
  have hfatal : Filed u (u.fmuFatal r) := fmuFatal_filed
  have hall := (htold.trans herr).trans hfatal
  refine ⟨hcap.of hfe hall, ?_, (herr.trans hfatal).pend _ (by decide) hrecp, ?_, fmuFatal_pend, fun hm ha => ?_, fun hl => ?_, fun k hk ha hf hact hp hrun => ?_⟩
  · rw [hall.block _ (by decide) (by decide)]
    exact (hfirst (by decide)).trans hwr
  · rw [hall.recs, hirq, hrecs, Sp.find_ins]
  · rw [fmuFatal_mild hm, hsafe ha]
    exact ⟨htr.trans ((congrArg IrqSt.reports hirq).trans hrep), hek.trans htk⟩
  · obtain ⟨h1, h2⟩ := hll hl
    refine ⟨hall.pend _ (by decide) ((hfirst (feFlds_pend _ (by decide))).trans ((hother (by decide)).trans h1)), ?_⟩
    rw [hall.block _ (by decide) (by decide)]
    exact (hfirst (by decide)).trans ((hother (by decide)).trans h2)
  · rw [hsafe ha]
    refine fmuFatal_ring hf ?_ hk hp ?_
    · rw [htold.block _ (by decide) (by decide)]
      exact (hfirst (by decide)).trans ((hother (by decide)).trans ((hlf _ (by decide) (by decide)).trans hact))
    · have hring : Pg.ring k % 0x1000 = 0 ∧ 0xE10000 ≤ Pg.ring k := by unfold Pg.ring; omega
      refine ((hek.trans htk).regs _ _ 0 0 (by decide) (notedAt_big (by simp only [Fld.addr, R.RING_STATE]; omega)) ?_).trans hrun
      simp only [Fld.addr, R.RING_STATE, pageOf, Pg.fmu, List.mem_singleton]
      omega

/-- A record merged into, where it still stands. -/
def recMerged (b : Body) (n : Nat) (r : Report) : Body :=
  match b.irq.recs.find? (fun e => e.1 == n % 1024) with
  | some (_, x) =>
    if x.seq = n then
      { b with irq := { b.irq with
        recs := Sp.ins b.irq.recs (n % 1024) { x with merge := min (x.merge + 1) 65535, fatal := x.fatal || r.fatal } } }
    else b
  | none => b

theorem fmuMerge_eq : b.fmuMerge n r = (((b.sat Pg.fmu R.FMU_MERGE_TOTAL).recMerged n r).firstError n r).fmuFatal r := rfl

theorem recMerged_spec : (b.recMerged n r).regs = b.regs ∧ (b.recMerged n r).ctrs = b.ctrs ∧ (b.recMerged n r).tbls = b.tbls ∧
    (b.recMerged n r).mem = b.mem ∧ (b.recMerged n r).irq.reports = b.irq.reports := by
  unfold recMerged
  split
  · split_ifs <;> exact ⟨rfl, rfl, rfl, rfl, rfl⟩
  · exact ⟨rfl, rfl, rfl, rfl, rfl⟩

theorem recMerged_recs {x : FmuRec} (h : b.irq.recs.find? (fun e => e.1 == n % 1024) = some (n % 1024, x)) :
    (x.seq = n → (b.recMerged n r).irq.recs.find? (fun e => e.1 == n % 1024) =
      some (n % 1024, { x with merge := min (x.merge + 1) 65535, fatal := x.fatal || r.fatal })) ∧
    (x.seq ≠ n → (b.recMerged n r).irq.recs = b.irq.recs) := by
  unfold recMerged
  rw [h]
  dsimp only
  refine ⟨fun hs => ?_, fun hs => ?_⟩
  · rw [if_pos hs]
    exact Sp.find_ins ..
  · rw [if_neg hs]

/-- A merge (R460, R463). -/
theorem fmuMerge_spec :
    Captured b (b.fmuMerge n r) n r ∧ (b.fmuMerge n r).mrd R.FMU_REC_WR = b.mrd R.FMU_REC_WR ∧
    (b.fmuMerge n r).mrd R.FMU_MERGE_TOTAL = min (b.mrd R.FMU_MERGE_TOTAL + 1) (2 ^ 32 - 1) ∧
    (r.fatal = true → (b.fmuMerge n r).rd Pg.fmu (evtPend R.FMU_EVT_FATAL) = 1) ∧
    (r.fatal = false → (b.fmuMerge n r).irq.reports = b.irq.reports ∧ Keeps [Pg.fmu] b (b.fmuMerge n r)) ∧
    (b.fmuMerge n r).irq.recs = ((b.sat Pg.fmu R.FMU_MERGE_TOTAL).recMerged n r).irq.recs := by
  rw [fmuMerge_eq]
  have hsat : ∀ {f : Fld}, apart R.FMU_MERGE_TOTAL f = true → (b.sat Pg.fmu R.FMU_MERGE_TOTAL).rd Pg.fmu f = b.rd Pg.fmu f := rd_wr_apart
  have hself : (b.sat Pg.fmu R.FMU_MERGE_TOTAL).mrd R.FMU_MERGE_TOTAL = min (b.mrd R.FMU_MERGE_TOTAL + 1) (2 ^ 32 - 1) := rd_sat_self ..
  have hsk : Keeps [Pg.fmu] b (b.sat Pg.fmu R.FMU_MERGE_TOTAL) := (Keeps.refl b).sat (by decide) (by decide)
  have hsr : (b.sat Pg.fmu R.FMU_MERGE_TOTAL).irq.reports = b.irq.reports := rfl
  generalize b.sat Pg.fmu R.FMU_MERGE_TOTAL = a at *
  obtain ⟨hregs, hctrs, htbls, hmem, hreps⟩ := recMerged_spec (b := a) (n := n) (r := r)
  have hmk := hsk.of_eq hregs hctrs htbls hmem
  have hrd : ∀ f : Fld, (a.recMerged n r).rd Pg.fmu f = a.rd Pg.fmu f := fun f => rd_of_regs hregs _ _ _ _
  generalize a.recMerged n r = p at *
  have hfe : ∀ f ∈ feFlds, p.mrd f = b.mrd f := fun f hf =>
    (hrd f).trans (hsat ((by decide : ∀ f ∈ feFlds, apart R.FMU_MERGE_TOTAL f = true) f hf))
  have hcap : Captured p (p.firstError n r) n r := firstError_captured
  have hfirst : ∀ {g : Fld}, (∀ f ∈ feFlds, apart f g = true) → (p.firstError n r).rd Pg.fmu g = p.rd Pg.fmu g := firstError_other
  have hirq : (p.firstError n r).irq = p.irq := firstError_irq
  have hek : Keeps [Pg.fmu] b (p.firstError n r) := hmk.trans firstError_keeps
  generalize p.firstError n r = e at *
  have hfatal : Filed e (e.fmuFatal r) := fmuFatal_filed
  refine ⟨hcap.of hfe hfatal, ?_, ?_, fmuFatal_pend, fun hm => ?_, hfatal.recs.trans (congrArg IrqSt.recs hirq)⟩
  · rw [hfatal.block _ (by decide) (by decide)]
    exact (hfirst (by decide)).trans ((hrd _).trans (hsat (by decide)))
  · rw [hfatal.block _ (by decide) (by decide)]
    exact (hfirst (by decide)).trans ((hrd _).trans hself)
  · rw [fmuFatal_mild hm]
    exact ⟨(congrArg IrqSt.reports hirq).trans (hreps.trans hsr), hek⟩

/-- A report taken out of the FMU's queue. -/
def reportTaken (b : Body) (r : Report) : Body := { b with irq := { b.irq with reports := b.irq.reports.erase r } }

theorem fmuRecord_none (h : b.irq.reports = []) : b.fmuRecord = b := by
  have hn : b.nextReport = none := by unfold nextReport; rw [h]
  unfold fmuRecord
  rw [hn]

theorem fmuRecord_new (h : b.nextReport = some r) (ho : ∀ e ∈ b.irq.opened, e.1 ≠ scopeOf r.page) : b.fmuRecord = (b.reportTaken r).fmuNew r := by
  have hf : b.irq.opened.find? (fun e => e.1 == scopeOf r.page) = none := List.find?_eq_none.2 fun e he => by simpa using ho e he
  unfold fmuRecord
  rw [h]
  dsimp only
  rw [hf]
  rfl

theorem fmuRecord_merge {q : Nat} (h : b.nextReport = some r) (ho : b.irq.opened.find? (fun e => e.1 == scopeOf r.page) = some (scopeOf r.page, q)) :
    b.fmuRecord = (b.reportTaken r).fmuMerge q r := by
  unfold fmuRecord
  rw [h]
  dsimp only
  rw [ho]
  rfl

/-- Either way, the first error is captured and a fatal fault tells its event. -/
theorem fmuRecord_captured (h : b.nextReport = some r) : ∃ m, Captured b b.fmuRecord m r ∧
    (r.fatal = true → b.fmuRecord.rd Pg.fmu (evtPend R.FMU_EVT_FATAL) = 1) := by
  have hof : ∀ {c : Body} {m : Nat}, Captured (b.reportTaken r) c m r → Captured b c m r := fun hc => hc.of (fun _ _ => rfl) (.refl _)
  cases hf : b.irq.opened.find? (fun e => e.1 == scopeOf r.page) with
  | none =>
    rw [fmuRecord_new h fun e he => by simpa using List.find?_eq_none.1 hf e he]
    obtain ⟨hc, -, -, -, hp, -⟩ := fmuNew_spec (b := b.reportTaken r) (r := r) rfl
    exact ⟨_, hof hc, hp⟩
  | some e =>
    have he : e.1 = scopeOf r.page := by simpa using List.find?_some hf
    rw [fmuRecord_merge (q := e.2) h (by rw [hf, ← he])]
    obtain ⟨hc, -, -, hp, -⟩ := fmuMerge_spec (b := b.reportTaken r) (n := e.2) (r := r)
    exact ⟨_, hof hc, hp⟩

end

end Body

section
variable {s : State} {c : Body}

theorem exec_fmuRecord (hr : s.runs [2]) : exec .fmuRecord s = .next (s.withBody s.dev.body.fmuRecord) := State.body_withBody rfl hr rfl

/-- What follows a command leaves the FMU's page alone. -/
theorem State.withBody_fmu {f : Fld} (hf : f.lo < 32) (ho : f.off < 0x1000) : (s.withBody c).reg Pg.fmu f = c.mrd f := by
  refine State.withBody_reg hf ?_
  rw [Fld.addr_zero]
  simp only [notedAt, Bool.or_eq_false_iff, beq_eq_false_iff_ne, Pg.fmu]
  omega

theorem State.withBody_fmu_evt {e : Nat} (he : e < 32) (h : c.rd Pg.fmu (evtPend e) = 1) : (s.withBody c).evt Pg.fmu e :=
  (State.withBody_fmu (f := evtPend e) he (show (0x20 : Nat) < 0x1000 by decide)).trans h

end

end Sys2Proof.Machine

namespace Sys2Proof
open Machine

/-- Settles O55: nothing that Survey counts changes with the ICU's state, so what a delivery, an acknowledge or a mask leaves is what its
store leaves; a record and a merge change the FMU's page and records alone, and containment leaves both alone. -/
theorem interruptsAndFaultRecords : Obligations.InterruptsAndFaultRecords := by
  unfold Obligations.InterruptsAndFaultRecords
  refine ⟨fun bank s hb => ⟨fun hr => ⟨fun h => ?_, fun h => ?_, fun n x hbusy hfirst hx hl hlow => ⟨fun g hg hmay hmin => ?_, fun hno hall => ⟨fun hw => ?_, fun hw => ?_⟩⟩⟩,
    fun m g n hg hn h => ⟨fun hlast hst => ?_, fun hlast hst => ?_, fun hbad => ?_⟩, fun m n hn h => ?_, fun m n hn h => ?_⟩,
    fun s hr => ⟨fun h => ?_, fun r hnext => ⟨?_, fun ho ha => ?_, fun q ho => ?_⟩⟩⟩
  · exact exec_icuDeliver_same hb hr (Body.icuDeliver_idle h)
  · exact exec_icuDeliver_same hb hr (if_pos h)
  · obtain ⟨hicu, hcnt, hseen, hkeeps, hcore, hhost⟩ := Body.icuSend_spec (b := s.dev.body) (n := n) hb g
    have hsend := Body.icuDeliver_send hbusy hfirst hx hlow (Body.icuTarget_least hl hg hmay hmin)
    rw [hx] at hicu
    refine ⟨_, exec_icuDeliver hb hr hsend, ?_⟩
    generalize s.dev.body.icuSend bank n g = c at *
    rw [State.unheard_reg hseen, State.withBody_unheard hseen]
    refine ⟨hicu, hcnt, State.withBody_keeps hkeeps, hcore, fun h32 => ⟨fun h1 h2 h3 => (hhost h32).1 ⟨h1, h2, h3⟩, fun hm => (hhost h32).2 ?_⟩⟩
    rintro ⟨h1, h2, h3⟩
    rw [h1, h2, h3] at hm
    simp at hm
  · refine exec_icuDeliver_same hb hr ?_
    rw [Body.icuDeliver_none hb hbusy hfirst hx hall (Body.icuTarget_none hno)]
    exact Body.icuNoTarget_waits (by rw [hx, hw])
  · have hready : s.dev.body.icuReady x = true := by simpa using List.find?_some hfirst
    have hpend : x.st = .pending := by
      unfold Body.icuReady at hready
      simp only [Bool.and_eq_true, beq_iff_eq] at hready
      exact hready.1.1
    obtain ⟨hicu, hcnt, hevt, hseen⟩ := Body.icuNoTarget_spec (b := s.dev.body) (n := n) hb (by rw [hx, hpend]) (by rw [hx, hw])
    rw [hx] at hicu
    refine ⟨_, exec_icuDeliver hb hr (Body.icuDeliver_none hb hbusy hfirst hx hall (Body.icuTarget_none hno)), ?_⟩
    generalize s.dev.body.icuNoTarget bank n = c at *
    refine ⟨by rw [State.withBody_unheard hseen, hicu], (State.unheard_reg hseen ..).trans hcnt, (State.unheard_reg hseen ..).trans hevt⟩
  · obtain ⟨h1, h2⟩ := State.withBody_setIcu (s := s) (bank := bank) (n := n) rfl
      { s.dev.body.icu bank n with st := if s.dev.body.icuInput bank (0x1000 * n) then .pending else .idle }
    exact ⟨_, (exec_icuAck hb hg hn h).trans (by rw [Body.icuAck_active hlast hst]), h1, h2⟩
  · obtain ⟨h1, h2⟩ := State.withBody_setIcu (s := s) (bank := bank) (n := n) rfl { s.dev.body.icu bank n with st := .pending }
    exact ⟨_, (exec_icuAck hb hg hn h).trans (by rw [Body.icuAck_again hlast hst]), h1, h2⟩
  · obtain ⟨hcnt, hevt, hseen, hkeeps, hicu⟩ := Body.badAck_spec (b := s.dev.body) (n := n) hb
    refine ⟨_, (exec_icuAck hb hg hn h).trans (by rw [Body.icuAck_bad hbad]), ?_⟩
    generalize (s.dev.body.sat (Pg.icu bank) R.ICU_BADACK).fire (Pg.icu bank) R.ICU_EVT_BADACK = c at *
    rw [State.withBody_unheard hseen]
    exact ⟨(State.unheard_reg hseen ..).trans hcnt, (State.unheard_reg hseen ..).trans hevt, State.withBody_keeps hkeeps, hicu⟩
  · obtain ⟨h1, h2⟩ := State.withBody_setIcu (s := s) (bank := bank) (n := n) rfl { s.dev.body.icu bank n with mask := true }
    exact ⟨_, exec_icuMaskSet hb hn h, h1, h2⟩
  · obtain ⟨h1, h2⟩ := State.withBody_setIcu (s := s) (bank := bank) (n := n) rfl { s.dev.body.icu bank n with mask := false }
    exact ⟨_, exec_icuMaskClr hb hn h, h1, h2⟩
  · rw [exec_fmuRecord hr, Body.fmuRecord_none h, State.withBody_self]
  · obtain ⟨m, hcap, hevt⟩ := Body.fmuRecord_captured hnext
    refine ⟨_, exec_fmuRecord hr, ?_⟩
    generalize s.dev.body.fmuRecord = c at *
    simp only [State.withBody_fmu (f := R.FMU_FE_VALID) (by decide) (by decide), State.withBody_fmu (f := R.FMU_FE_SEQ) (by decide) (by decide),
      State.withBody_fmu (f := R.FMU_FE_PAGE) (by decide) (by decide), State.withBody_fmu (f := R.FMU_FE_BIT) (by decide) (by decide),
      State.withBody_fmu (f := R.FMU_FE_SPACE) (by decide) (by decide), State.withBody_fmu (f := R.FMU_FE_DETAIL) (by decide) (by decide)]
    exact ⟨hcap.valid, fun hf => State.withBody_fmu_evt (by decide) (hevt hf), hcap.later, hcap.first⟩
  · have hnew := Body.fmuNew_spec (b := s.dev.body.reportTaken r) (r := r) (n := s.reg Pg.fmu R.FMU_REC_WR) rfl
    have hk : Body.Keeps [Pg.fmu] s.dev.body (s.dev.body.reportTaken r) := (Body.Keeps.refl _).of_eq rfl rfl rfl rfl
    refine ⟨_, exec_fmuRecord hr, ?_⟩
    rw [Body.fmuRecord_new hnext ho]
    obtain ⟨hcap, hwr, hevt, hrecs, -, hmild, hlost, hring⟩ := hnew
    generalize (s.dev.body.reportTaken r).fmuNew r = c at *
    refine ⟨(State.withBody_fmu (by decide) (by decide)).trans hwr, State.withBody_fmu_evt (by decide) hevt, by rw [State.withBody_irq.1]; exact hrecs,
      fun hv => (State.withBody_fmu (by decide) (by decide)).trans ((hcap.seq hv).trans ?_), fun hm => ?_, fun hl => ?_, fun k hk' hf hact hp hrun =>
      State.withBody_ring (hring k hk' ha hf hact hp hrun)⟩
    · exact Nat.mod_eq_of_lt (s.dev.body.rd_lt Pg.fmu R.FMU_REC_WR 0 0)
    · obtain ⟨h1, h2⟩ := hmild hm ha
      exact ⟨State.withBody_reports.trans h1, (State.withBody_keeps (hk.trans h2)).regs⟩
    · have hrd : s.reg Pg.fmu R.FMU_REC_RD < 2 ^ 32 := s.dev.body.rd_lt Pg.fmu R.FMU_REC_RD 0 0
      obtain ⟨h1, h2⟩ := hlost (by
        show 1024 ≤ wrapSub 32 _ (s.reg Pg.fmu R.FMU_REC_RD)
        rw [wrapSub, Nat.mod_eq_of_lt hrd]
        exact hl)
      exact ⟨State.withBody_fmu_evt (by decide) h1, (State.withBody_fmu (by decide) (by decide)).trans h2⟩
  · have hmerge := Body.fmuMerge_spec (b := s.dev.body.reportTaken r) (r := r) (n := q)
    have hk : Body.Keeps [Pg.fmu] s.dev.body (s.dev.body.reportTaken r) := (Body.Keeps.refl _).of_eq rfl rfl rfl rfl
    refine ⟨_, exec_fmuRecord hr, ?_⟩
    rw [Body.fmuRecord_merge hnext ho]
    obtain ⟨-, hwr, htot, -, hmild, hrecs⟩ := hmerge
    have hat := fun x h => Body.recMerged_recs (b := (s.dev.body.reportTaken r).sat Pg.fmu R.FMU_MERGE_TOTAL) (n := q) (r := r) (x := x) h
    generalize (s.dev.body.reportTaken r).fmuMerge q r = c at *
    refine ⟨(State.withBody_fmu (by decide) (by decide)).trans hwr, (State.withBody_fmu (by decide) (by decide)).trans htot, fun hm => ?_,
      fun x hx hs => ?_, fun x hx hs => ?_⟩
    · obtain ⟨h1, h2⟩ := hmild hm
      exact ⟨State.withBody_reports.trans h1, (State.withBody_keeps (hk.trans h2)).regs⟩
    · rw [State.withBody_irq.1, hrecs]
      exact (hat x hx).1 hs
    · rw [State.withBody_irq.1, hrecs]
      exact (hat x hx).2 hs

end Sys2Proof
end

section
/-! What the copies of snapshots and of the Echo archive leave alone, and the bytes that they write (R481, R487). -/

namespace Sys2Proof.Machine

/-! Runs of bytes. -/

theorem leBytes_mod (n v : Nat) : leBytes n (v % 256 ^ n) = leBytes n v := by
  have h := leBytes_leNat (leBytes n v)
  rwa [leNat_leBytes, length_leBytes] at h

/-- Chunks of one length written one behind the other. -/
def Mem.chunks (m : List Host.Cell) (a w n : Nat) (f : Nat → List Byte) : List Host.Cell :=
  (List.range n).foldl (fun m i => Mem.write m (a + w * i) (f i)) m

theorem Mem.chunks_succ (m : List Host.Cell) (a w n : Nat) (f : Nat → List Byte) :
    Mem.chunks m a w (n + 1) f = Mem.write (Mem.chunks m a w n f) (a + w * n) (f n) := by
  rw [Mem.chunks, List.range_succ, List.foldl_append]
  rfl

/-- Each chunk reads as it was written. -/
theorem Mem.read_chunks {m : List Host.Cell} {a w n : Nat} {f : Nat → List Byte} (hf : ∀ i < n, (f i).length = w) {i : Nat} (hi : i < n) :
    Mem.read (Mem.chunks m a w n f) (a + w * i) w = f i := by
  induction n with
  | zero => omega
  | succ n ih =>
    rw [Mem.chunks_succ]
    by_cases h : i = n
    · rw [h]
      have := Mem.read_write (Mem.chunks m a w n f) (a + w * n) (f n)
      rwa [hf n (by omega)] at this
    · rw [Mem.read_write_beside, ih (fun j hj => hf j (by omega)) (by omega)]
      left
      have := Nat.mul_le_mul_left w (show i + 1 ≤ n by omega)
      rw [Nat.mul_succ] at this
      omega

namespace Body

/-! What the accesses to the Sump, the statistics cache and far memory leave of the pages above them. -/

/-- The registers of the pages from the far ports' on, Echo's counters but that of unreadable records, and the parts that no access changes. -/
structure Beyond (b c : Body) : Prop where
  regs : ∀ (q : Nat) (g : Fld) (x y : Nat), g.lo < 32 → 0xC00000 ≤ g.addr q x y → c.rd q g x y = b.rd q g x y
  ctrs : ∀ i < 0x1000, i ≠ ECHO_UE_CNT → c.ctr (Pg.echo 0) i = b.ctr (Pg.echo 0) i
  rest : c.snp = b.snp ∧ c.tod = b.tod ∧ c.echo = b.echo ∧ c.buf = b.buf

namespace Beyond
variable {b c d : Body} {p n i v : Nat}

theorem refl (b : Body) : Beyond b b := ⟨fun _ _ _ _ _ _ => rfl, fun _ _ _ => rfl, rfl, rfl, rfl, rfl⟩

theorem trans (h : Beyond b c) (h' : Beyond c d) : Beyond b d := by
  obtain ⟨h1, h2, h3, h4⟩ := h.rest
  obtain ⟨k1, k2, k3, k4⟩ := h'.rest
  exact ⟨fun q g x y hg ha => (h'.regs q g x y hg ha).trans (h.regs q g x y hg ha), fun i hi hn => (h'.ctrs i hi hn).trans (h.ctrs i hi hn),
    k1.trans h1, k2.trans h2, k3.trans h3, k4.trans h4⟩

theorem of (h : Beyond b c) (hr : d.regs = c.regs) (hc : d.ctrs = c.ctrs) (hs : d.snp = c.snp ∧ d.tod = c.tod ∧ d.echo = c.echo ∧ d.buf = c.buf) :
    Beyond b d :=
  h.trans ⟨fun _ _ _ _ _ _ => rd_of_regs hr _ _ _ _, fun i _ _ => ctr_of_ctrs hc _ i, hs⟩

theorem wr {f : Fld} (h : Beyond b c) (hf : f.lo < 32 ∧ f.off < 0x1000) (hp : p % 0x1000 = 0 ∧ p < 0xC00000) : Beyond b (c.wr p f v) := by
  refine h.trans ⟨fun q g x y hg ha => c.rd_wr_ne v hf.1 hg (.inl ?_), fun i _ _ => by simp, by simp⟩
  rw [Fld.addr_zero]
  omega

theorem count (h : Beyond b c) (hi : i < 0x1000) (hp : p ≠ Pg.echo 0 ∨ i = ECHO_UE_CNT) : Beyond b (c.count p i n) := by
  refine h.trans ⟨fun q g x y _ _ => c.count_rd p i n q g x y, fun j hj hn => ?_, by simp⟩
  rw [ctr_count _ _ _ _ _ _ hi hj, if_neg]
  rintro ⟨h1, h2⟩
  exact hp.elim (fun e => e h1.symm) fun e => hn (h2.trans e)

theorem fire (h : Beyond b c) (hn : n < 32) (hp : p % 0x1000 = 0 ∧ p < 0xC00000) : Beyond b (c.fire p n) :=
  h.trans ⟨fun q g x y hg ha => c.rd_fire hn hg (.inl (by omega)) (by omega) (by omega) (by omega), fun _ _ _ => by simp, by simp⟩

theorem fault {x : FltInfo} (h : Beyond b c) (hn : n < 32) (hp : p % 0x1000 = 0 ∧ p < 0xC00000) : Beyond b (c.fault p n x) :=
  h.trans ⟨fun q g _ _ hg ha => c.rd_fault x hn hg (.inl (by omega)), fun _ _ _ => by simp, by simp⟩

theorem lose (h : Beyond b c) (l m : Nat) : Beyond b (c.lose l m) := by
  unfold Body.lose
  exact Beyond.fire (h.of (d := { c.ledOut l m with rim := _ }) rfl rfl ⟨rfl, rfl, rfl, rfl⟩) (by decide) (by decide)

theorem foldl {α : Type} {f : Body → α → Body} (h : ∀ c x, Beyond c (f c x)) (l : List α) (b : Body) : Beyond b (l.foldl f b) := by
  induction l generalizing b with
  | nil => exact refl b
  | cons x t ih => exact (h b x).trans (ih _)

/-- An access to the Sump: its counters are those of the stacks' page 3. -/
theorem ofSump (h : OfSump b c) (hc : ∀ i < 0x1000, c.ctr (Pg.echo 0) i = b.ctr (Pg.echo 0) i) : Beyond b c := by
  have hp := h.parts
  refine ⟨fun q g x y hg ha => h.regs q g x y hg (notedAt_big (by omega)) (by unfold sumpPage; omega), fun i hi _ => hc i hi, ?_⟩
  tauto

end Beyond

section
variable {b : Body}

/-- Counters of Echo's page. -/
theorem ctr_hbmCount (s : Nat) (hs : s < 4) {i : Nat} (hi : i < 0x1000) (n j : Nat) (hj : j < 0x1000) :
    (b.hbmCount s i n).ctr (Pg.echo 0) j = b.ctr (Pg.echo 0) j := by
  rw [hbmCount, ctr_count _ _ _ _ _ _ hi hj, if_neg]
  rintro ⟨h, -⟩
  unfold Pg.echo Pg.hbm at h
  omega

theorem ctr_hbmPut (port : Nat) (wr : Bool) (a j : Nat) (hj : j < 0x1000) : (b.hbmPut port wr a).ctr (Pg.echo 0) j = b.ctr (Pg.echo 0) j := by
  have h1 : ∀ (c : Body) (s pc : Nat), s < 4 → (c.hbmDrainUpdate s pc).ctr (Pg.echo 0) j = c.ctr (Pg.echo 0) j := fun c s pc hs => by
    unfold hbmDrainUpdate
    dsimp only
    split_ifs
    · rfl
    · rfl
    · exact (ctr_hbmCount s hs (by decide) 1 j hj).trans rfl
    · rfl
    · exact (ctr_hbmCount s hs (by decide) 1 j hj).trans rfl
    · rfl
  have h2 : ∀ (c : Body) (s : Nat), s < 4 → (c.hbmPanicUpdate s).ctr (Pg.echo 0) j = c.ctr (Pg.echo 0) j := fun c s hs => by
    unfold hbmPanicUpdate
    dsimp only
    split_ifs
    · rfl
    · rfl
    · exact (fire_ctr _ _ _ _ _).trans ((ctr_hbmCount s hs (by decide) 1 j hj).trans rfl)
    · rfl
  have hs := b.hbmLoc_lt (a / 64 * 64)
  unfold hbmPut
  dsimp only
  split_ifs
  · rfl
  · exact (h2 _ _ hs).trans ((h1 _ _ _ hs).trans rfl)
  · rfl
  · exact (h2 _ _ hs).trans ((h1 _ _ _ hs).trans rfl)

theorem ctr_lineError (port a j : Nat) (hj : j < 0x1000) : (b.lineError port a).ctr (Pg.echo 0) j = b.ctr (Pg.echo 0) j := by
  have hs := b.hbmLoc_lt a
  unfold lineError
  extract_lets s pg
  split_ifs
  · exact (fault_ctr ..).trans ((fire_ctr _ _ _ _ _).trans (ctr_hbmCount s hs (by decide) 1 j hj))
  · exact (fire_ctr _ _ _ _ _).trans ((ctr_hbmCount s hs (by decide) 1 j hj).trans rfl)
  · rfl

theorem beyond_hbmPut (port : Nat) (wr : Bool) (a : Nat) : Beyond b (b.hbmPut port wr a) := .ofSump (ofSump_hbmPut ..) fun j hj => ctr_hbmPut port wr a j hj

theorem beyond_lineError (port a : Nat) : Beyond b (b.lineError port a) := .ofSump (ofSump_lineError ..) fun j hj => ctr_lineError port a j hj

theorem beyond_sumpRead (port a n : Nat) : Beyond b (b.sumpRead port a n).1 := by
  unfold sumpRead
  exact .foldl (fun c x => (beyond_hbmPut (b := c) _ _ _).trans (beyond_lineError ..)) _ _

theorem beyond_lineWritten (port a : Nat) : Beyond b (b.lineWritten port a) := by
  refine .ofSump (ofSump_lineWritten ..) fun j _ => ?_
  unfold lineWritten
  dsimp only
  split
  · rfl
  · rfl
  · split <;> rfl
  · rfl

theorem beyond_sumpWrite (port a : Nat) (l : List Byte) : Beyond b (b.sumpWrite port a l) := by
  unfold sumpWrite
  split_ifs
  · exact .refl b
  · refine Beyond.trans ?_ (.foldl (fun c x => (beyond_hbmPut (b := c) _ _ _).trans (beyond_lineWritten ..)) _ _)
    exact .of (.refl b) rfl rfl ⟨rfl, rfl, rfl, rfl⟩

theorem beyond_pairAdd (k p n : Nat) : Beyond b (b.pairAdd k p n) := by
  have hs := b.hbmLoc_lt (Sump.pairAddr k / 64 * 64)
  unfold pairAdd
  extract_lets a line bad old b1 b2
  have h1 : Beyond b b1 := beyond_lineError 3 line
  have h2 : Beyond b b2 := by
    show Beyond b (if bad = true then _ else b1)
    split
    · exact h1.count (by decide) (.inl (by have := b1.hbmLoc_lt line; unfold Pg.hbm Pg.echo; omega))
    · exact h1
  exact h2.trans (beyond_sumpWrite ..)

theorem beyond_statMove (k : Nat) (x : Delta) : Beyond b (b.statMove k x) := by
  unfold statMove
  dsimp only
  have h1 : Beyond b (b.setLine k { pkts := (b.statLine k).pkts - x.pkts, bytes := (b.statLine k).bytes - x.bytes }) :=
    .of (.refl b) rfl rfl ⟨rfl, rfl, rfl, rfl⟩
  exact (h1.trans (beyond_pairAdd k x.pkts x.bytes)).of rfl rfl ⟨rfl, rfl, rfl, rfl⟩

theorem beyond_statCheck (k : Nat) : Beyond b (b.statCheck k) := by
  have hstc : Pg.stc % 0x1000 = 0 ∧ Pg.stc < 0xC00000 := by decide
  have h1 : Beyond b (b.mirrored.2.setLine k {}) := .of (.refl b) rfl rfl ⟨rfl, rfl, rfl, rfl⟩
  unfold statCheck
  dsimp only
  by_cases h : b.stat.bad.contains k = true ∧ b.statLine k ≠ {}
  · rw [if_pos h]
    refine Beyond.fault (Beyond.fire (Beyond.wr (Beyond.lose (Beyond.lose ?_ _ _) _ _) (by decide) hstc) (by decide) hstc) (by decide) hstc
    exact h1.of rfl rfl ⟨rfl, rfl, rfl, rfl⟩
  · rw [if_neg h]
    exact .refl b

theorem beyond_statWriteback (k : Nat) : Beyond b (b.statWriteback k) := by
  unfold statWriteback
  dsimp only
  split_ifs
  · exact .refl b
  · exact beyond_statCheck k
  · have h := (beyond_statCheck (b := b) k).trans (beyond_statMove k ((b.statCheck k).statLine k))
    generalize (b.statCheck k).statMove k ((b.statCheck k).statLine k) = c at *
    exact Beyond.of (Beyond.wr (f := R.STC_WB) (p := Pg.stc) h (by decide) (by decide)) rfl rfl ⟨rfl, rfl, rfl, rfl⟩

theorem beyond_farWrite {p : Nat} (hp : p < 2) (a : Nat) (l : List Byte) : Beyond b (b.farWrite p a l) := by
  unfold farWrite
  refine Beyond.count ?_ (by decide) (.inl (by unfold Pg.far Pg.echo; omega))
  unfold setFarMem
  split_ifs <;> exact .of (.refl b) rfl rfl ⟨rfl, rfl, rfl, rfl⟩

/-! The bytes of far memory. -/

theorem farMem_farWrite (p a : Nat) (l : List Byte) : (b.farWrite p a l).farMem p = Mem.write (b.farMem p) a l := by
  unfold farWrite setFarMem farMem
  split_ifs <;> rfl

theorem farMem_of_mem {c : Body} (h : c.mem = b.mem) (p : Nat) : c.farMem p = b.farMem p := by rw [farMem, farMem, h]

/-- What a copy leaves of the Sump and of the statistics cache. -/
structure Kept (b c : Body) : Prop where
  sump : c.mem.sump = b.mem.sump
  stat : c.stat = b.stat
  ue : c.hbm.ue = b.hbm.ue
  coded : c.hbm.coded = b.hbm.coded

theorem Kept.refl (b : Body) : Kept b b := ⟨rfl, rfl, rfl, rfl⟩

theorem Kept.trans {c d : Body} (h : Kept b c) (h' : Kept c d) : Kept b d :=
  ⟨h'.sump.trans h.sump, h'.stat.trans h.stat, h'.ue.trans h.ue, h'.coded.trans h.coded⟩

theorem kept_sumpRead (port a n : Nat) : Kept b (b.sumpRead port a n).1 := by
  have h := b.bytes_sumpRead port a n
  simp only [bytes, Prod.mk.injEq] at h
  obtain ⟨h1, h2, -, h4⟩ := h
  exact ⟨congrArg MemSt.sump h1, stat_ofSump (ofSump_sumpRead ..), h2, h4⟩

theorem kept_farWrite (p a : Nat) (l : List Byte) : Kept b (b.farWrite p a l) := by
  unfold farWrite setFarMem
  split_ifs <;> exact ⟨rfl, rfl, rfl, rfl⟩

/-! Telemetry records. -/

/-- A record offered to a ring leaves the registers and far memory alone. -/
theorem telSend_far (n type : Nat) (l : List Byte) : (b.telSend n type l).regs = b.regs ∧ (b.telSend n type l).mem.far0 = b.mem.far0 ∧
    (b.telSend n type l).mem.far1 = b.mem.far1 ∧ Beyond b (b.telSend n type l) := by
  have hrec : ∀ {c : Body}, b.telRecord n type l = some c → c.regs = b.regs ∧ c.mem.far0 = b.mem.far0 ∧ c.mem.far1 = b.mem.far1 ∧ Beyond b c := by
    intro c h
    unfold telRecord at h
    dsimp only at h
    split_ifs at h
    · rw [← Option.some.inj h]
      exact ⟨rfl, rfl, rfl, .of (.refl b) rfl rfl ⟨rfl, rfl, rfl, rfl⟩⟩
    · rw [← Option.some.inj h]
      exact ⟨rfl, rfl, rfl, .of (.refl b) rfl rfl ⟨rfl, rfl, rfl, rfl⟩⟩
  unfold telSend
  split_ifs
  · exact ⟨rfl, rfl, rfl, .refl b⟩
  · split
    · rename_i h
      exact hrec h
    · exact ⟨rfl, rfl, rfl, Beyond.count (.refl b) (by decide) (.inl (by decide))⟩

end

end Body

end Sys2Proof.Machine
end

section
/-! O57, statistics snapshots (R481, R482, R490). -/

namespace Sys2Proof.Machine

namespace Body

section
variable {b c d : Body} {k rc : Nat}

/-- Fields of the snapshot page, and of the pages above the Sump's. -/
theorem Beyond.nrd (h : Beyond b c) {f : Fld} (hf : f.lo < 32) : c.nrd f = b.nrd f :=
  h.regs _ _ _ _ hf (by rw [Fld.addr_zero]; unfold Pg.snp Pg.echo; omega)

theorem Beyond.frd (h : Beyond b c) {f : Fld} (p : Nat) (hf : f.lo < 32) : c.frd p f = b.frd p f :=
  h.regs _ _ _ _ hf (by rw [Fld.addr_zero]; unfold Pg.far; omega)

theorem nwr_other {f g : Fld} {v : Nat} (h : apart f g = true) : (b.nwr f v).nrd g = b.nrd g := rd_wr_apart h

/-! Ends (R482). -/

/-- The snapshot stands still. -/
def snpStill (b : Body) : Body := { b with snp := { b.snp with waiting := false } }

/-- The end of a snapshot before its record is offered. -/
def snpOver (b : Body) (rc : Nat) : Body := (b.snpStill.nwr R.SNP_BUSY 0).nwr R.SNP_RC rc

theorem snpEnd_eq (rc : Nat) : b.snpEnd rc = (b.snpOver rc).snpTel := rfl

/-- What a snapshot's end shows: not busy, the code, the same sequence number; far memory is as it was. -/
structure Ended (b c : Body) (rc : Nat) : Prop where
  busy : c.nrd R.SNP_BUSY = 0
  code : c.nrd R.SNP_RC = rc
  seq : c.nrd R.SNP_SEQ = b.nrd R.SNP_SEQ
  far0 : c.mem.far0 = b.mem.far0
  far1 : c.mem.far1 = b.mem.far1

theorem snpEnd_ended (hrc : rc < 16) : Ended b (b.snpEnd rc) rc := by
  have hbusy : (b.snpOver rc).nrd R.SNP_BUSY = 0 := (nwr_other (by decide)).trans (rd_wr_self ..)
  have hcode : (b.snpOver rc).nrd R.SNP_RC = rc := (rd_wr_self ..).trans (Nat.mod_eq_of_lt hrc)
  have hseq : (b.snpOver rc).nrd R.SNP_SEQ = b.nrd R.SNP_SEQ := (nwr_other (by decide)).trans ((nwr_other (by decide)).trans rfl)
  have h0 : (b.snpOver rc).mem = b.mem := rfl
  rw [snpEnd_eq]
  generalize b.snpOver rc = d at *
  obtain ⟨hr, hf0, hf1, -⟩ := telSend_far (b := d) (d.nrd R.SNP_TEL_RING) 0x12
    (leBytes 4 (d.nrd R.SNP_SEQ) ++ leBytes 1 (d.nrd R.SNP_RC) ++ leBytes 1 d.snp.port ++ leBytes 2 0 ++ leBytes 8 d.snpAddr ++
      leBytes 4 (d.nrd R.SNP_FIRST) ++ leBytes 4 (d.nrd R.SNP_COUNT) ++ timeBytes d.snp.start ++ timeBytes d.tod ++ leBytes 12 0)
  have hrd : ∀ f : Fld, d.snpTel.nrd f = d.nrd f := fun f => rd_of_regs hr _ _ _ _
  refine ⟨(hrd _).trans hbusy, (hrd _).trans hcode, (hrd _).trans hseq, hf0.trans ?_, hf1.trans ?_⟩
  · rw [h0]
  · rw [h0]

theorem Ended.of {a : Body} (h : Ended b c rc) (hseq : b.nrd R.SNP_SEQ = a.nrd R.SNP_SEQ) (hm : b.mem = a.mem) : Ended a c rc :=
  ⟨h.busy, h.code, h.seq.trans hseq, h.far0.trans (by rw [hm]), h.far1.trans (by rw [hm])⟩

theorem snp_page : Pg.snp % 0x1000 = 0 ∧ 0x8000 ≤ Pg.snp := by decide

/-- A far write that fails (R482). -/
theorem snpAbort_spec : Ended b b.snpAbort SNP_FAR ∧ b.snpAbort.rd Pg.snp (evtPend R.SNP_EVT_FAIL) = 1 ∧
    b.snpAbort.rd Pg.snp (fltStat R.SNP_FLT_FAR) = 1 := by
  have hend : Ended b (b.snpEnd SNP_FAR) SNP_FAR := snpEnd_ended (by decide)
  unfold snpAbort
  generalize b.snpEnd SNP_FAR = d at *
  have hrd : ∀ {f : Fld}, f.lo < 32 ∧ 0x80 ≤ f.off ∧ f.off < 0x1000 → ∀ x, ((d.fire Pg.snp R.SNP_EVT_FAIL).fault Pg.snp R.SNP_FLT_FAR x).nrd f = d.nrd f :=
    fun hf x => (rd_fault_field x (by decide) ⟨hf.1, by omega⟩).trans (rd_fire_field snp_page (by decide) hf)
  refine ⟨⟨(hrd (by decide) _).trans hend.busy, (hrd (by decide) _).trans hend.code, (hrd (by decide) _).trans hend.seq, ?_, ?_⟩, ?_, fault_stat ..⟩
  · simpa using hend.far0
  · simpa using hend.far1
  · exact (rd_fault_field _ (by decide) (by decide)).trans (fire_pend _ (by decide) (by decide))

theorem snpFail_eq (hb : b.nrd R.SNP_BUSY = 1) (hw : b.snp.waiting = false) : b.snpFail = b.snpAbort := if_pos ⟨hb, by simp [hw]⟩

/-! The start (R481). -/

/-- The snapshot begins now. -/
def snpNow (b : Body) : Body := { b with snp := { b.snp with waiting := false, start := b.tod } }

theorem snpBegin_link (h : b.farReady b.snp.port = false) : b.snpBegin = b.snpNow.snpEnd SNP_LINK :=
  if_pos (show ¬ b.farReady b.snp.port = true by simp [h])

theorem snpBegin_ready (h : b.farReady b.snp.port = true) : b.snpBegin = (b.stat.lines.map (·.1)).foldl (fun b k => b.statWriteback k) b.snpNow :=
  if_neg (show ¬ ¬ b.farReady b.snp.port = true by simp [h])

theorem snpBegin_ended (h : b.farReady b.snp.port = false) : Ended b b.snpBegin SNP_LINK := by
  rw [snpBegin_link h]
  exact (snpEnd_ended (b := b.snpNow) (by decide)).of rfl rfl

/-- A snapshot under way. -/
theorem snpBegin_runs (h : b.farReady b.snp.port = true) : b.snpBegin.nrd R.SNP_BUSY = b.nrd R.SNP_BUSY ∧
    b.snpBegin.snp = { b.snp with waiting := false, start := b.tod } := by
  rw [snpBegin_ready h]
  have hb : Beyond b.snpNow ((b.stat.lines.map (·.1)).foldl (fun b k => b.statWriteback k) b.snpNow) :=
    .foldl (fun c k => beyond_statWriteback (b := c) k) _ _
  exact ⟨hb.nrd (by decide), hb.rest.1⟩

/-- The only delta line goes into the Sump. -/
theorem snpBegin_line {x : Delta} (h : b.farReady b.snp.port = true) (hl : b.stat.lines = [(k, x)]) (hx : x ≠ {}) (hbad : b.stat.bad = []) (hue : b.hbm.ue = [])
    (hcoded : b.hbm.coded = []) (hk : k < 2 ^ 30) :
    b.snpBegin.statLine k = {} ∧ b.snpBegin.pairMem k = (((b.pairMem k).1 + x.pkts) % 2 ^ 64, ((b.pairMem k).2 + x.bytes) % 2 ^ 64) := by
  have hline : b.snpNow.statLine k = x := by
    show Sp.get {} b.stat.lines k = x
    rw [hl]
    exact if_pos rfl
  have hgood : b.snpNow.lineBad (pairLine k) = false := by
    show (b.hbm.ue.contains _ || b.hbm.coded.any _) = false
    rw [hue, hcoded]
    rfl
  have hnot : k ∉ b.snpNow.stat.bad := by
    show k ∉ b.stat.bad
    rw [hbad]
    exact List.not_mem_nil
  have he : b.snpBegin = b.snpNow.statWriteback k := by
    rw [snpBegin_ready h, hl]
    rfl
  obtain ⟨h1, -, h3, -⟩ := statWriteback_spec (b := b.snpNow) hk hnot (by rw [hline]; exact hx)
  rw [he, h1, h3 hgood, hline]
  exact ⟨rfl, rfl⟩

/-! SNP_GO (R481, R482). -/

/-- A snapshot accepted. -/
def snpArmed (b : Body) : Body :=
  { (b.nwr R.SNP_BUSY 1).nwr R.SNP_RC 0 with snp := { waiting := true, port := b.nrd R.SNP_PORT, start := b.tod } }

theorem snpGo_bad (h : b.snpBad = true) : b.snpGo = b.fire Pg.snp R.SNP_EVT_BADCFG := if_pos h

theorem snpArmed_rd (p : Nat) (f : Fld) : b.snpArmed.rd p f = ((b.nwr R.SNP_BUSY 1).nwr R.SNP_RC 0).rd p f := rd_of_regs rfl _ _ _ _

theorem snpArmed_other {f : Fld} (h1 : apart R.SNP_BUSY f = true) (h2 : apart R.SNP_RC f = true) : b.snpArmed.nrd f = b.nrd f :=
  (snpArmed_rd ..).trans ((nwr_other h2).trans (nwr_other h1))

theorem snpArmed_regs {p : Nat} {f : Fld} (hf : f.lo < 32) (hp : f.addr p 0 0 < Pg.snp) : b.snpArmed.rd p f = b.rd p f := by
  have hne : ∀ (c : Body) (g : Fld) (v : Nat), g.lo < 32 → (c.nwr g v).rd p f = c.rd p f := fun c g v hg =>
    c.rd_wr_ne v hg hf (.inl (by rw [g.addr_zero]; omega))
  rw [snpArmed_rd, hne _ _ _ (by decide), hne _ _ _ (by decide)]

theorem snpArmed_target : b.snpArmed.snpTarget = b.snpTarget := by
  unfold snpTarget
  rw [snpArmed_other (by decide) (by decide), snpArmed_other (by decide) (by decide), snpArmed_other (by decide) (by decide)]

theorem snpArmed_busy : b.snpArmed.nrd R.SNP_BUSY = 1 :=
  (snpArmed_rd ..).trans ((nwr_other (g := R.SNP_BUSY) (by decide)).trans (rd_wr_self ..))

theorem snpArmed_rc : b.snpArmed.nrd R.SNP_RC = 0 := (snpArmed_rd ..).trans (rd_wr_self ..)

theorem snpArmed_keeps : Keeps [Pg.snp] b b.snpArmed := by
  have h : Keeps [Pg.snp] b ((b.nwr R.SNP_BUSY 1).nwr R.SNP_RC 0) :=
    Keeps.wr (f := R.SNP_RC) (p := Pg.snp) (Keeps.wr (f := R.SNP_BUSY) (p := Pg.snp) (.refl b) (by decide) (by decide)) (by decide) (by decide)
  exact h.of_eq rfl rfl rfl rfl

theorem snpArmed_port : (b.nwr R.SNP_BUSY 1 |>.nwr R.SNP_RC 0).nrd R.SNP_PORT = b.nrd R.SNP_PORT :=
  (nwr_other (b := b.nwr R.SNP_BUSY 1) (by decide)).trans (nwr_other (by decide))

theorem snpGo_ok (h : b.snpBad = false) : b.snpGo =
    if b.nrd R.SNP_AT_EN = 0 then b.snpArmed.snpBegin
    else if ¬ b.on Pg.lamp R.TOD_VALID then b.snpArmed.snpEnd SNP_TOD_INVALID
    else if b.snpTarget ≤ b.tod then b.snpArmed.snpBegin else b.snpArmed := by
  have hat : b.snpArmed.nrd R.SNP_AT_EN = b.nrd R.SNP_AT_EN := snpArmed_other (by decide) (by decide)
  have htod : b.snpArmed.on Pg.lamp R.TOD_VALID = b.on Pg.lamp R.TOD_VALID := by
    rw [on, snpArmed_regs (by decide) (by decide), on]
  have harm : ({ (b.nwr R.SNP_BUSY 1).nwr R.SNP_RC 0 with
      snp := { waiting := true, port := ((b.nwr R.SNP_BUSY 1).nwr R.SNP_RC 0).nrd R.SNP_PORT, start := b.tod } } : Body) = b.snpArmed := by
    rw [snpArmed_port]
    rfl
  rw [← hat, ← htod, ← snpArmed_target, ← harm]
  exact if_neg (by simp [h])

theorem snpArmed_ready (p : Nat) : b.snpArmed.farReady p = b.farReady p ∨ 4 ≤ p := by
  by_cases hp : 4 ≤ p
  · exact .inr hp
  · left
    unfold farReady frd
    rw [snpArmed_regs (by decide)]
    simp only [Fld.addr_zero, R.FAR_STATE, Pg.far, Pg.snp, Pg.echo]
    omega

theorem snpPort_lt : b.nrd R.SNP_PORT < 2 := b.rd_lt Pg.snp R.SNP_PORT 0 0

theorem snpArmed_far : b.snpArmed.farReady b.snpArmed.snp.port = b.farReady (b.nrd R.SNP_PORT) :=
  (snpArmed_ready (b := b) (b.nrd R.SNP_PORT)).resolve_right (by have := snpPort_lt (b := b); omega)

/-! The end (R481). -/

theorem snpPair_eq (i : Nat) : b.snpPair i = (b.pairRead (b.nrd R.SNP_FIRST + i)).1.farWrite (b.pairRead (b.nrd R.SNP_FIRST + i)).1.snp.port
    ((b.pairRead (b.nrd R.SNP_FIRST + i)).1.snpAddr + 64 + 16 * i) (leBytes 16 (b.pairRead (b.nrd R.SNP_FIRST + i)).2) := rfl

theorem pairRead_body (k : Nat) : (b.pairRead k).1 = ((b.statCheck k).sumpRead 3 (Sump.pairAddr k) 16).1 := by
  unfold pairRead
  dsimp only
  rcases (b.statCheck k).sumpRead 3 (Sump.pairAddr k) 16 with ⟨c, l, _ | _⟩ <;> rfl

theorem beyond_pairRead (k : Nat) : Beyond b (b.pairRead k).1 := by
  rw [pairRead_body]
  exact (beyond_statCheck k).trans (beyond_sumpRead ..)

theorem beyond_snpPair (hp : b.snp.port < 2) (i : Nat) : Beyond b (b.snpPair i) := by
  rw [snpPair_eq]
  have h := beyond_pairRead (b := b) (b.nrd R.SNP_FIRST + i)
  generalize b.pairRead (b.nrd R.SNP_FIRST + i) = r at *
  have hs : r.1.snp = b.snp := h.rest.1
  exact h.trans (beyond_farWrite (by rw [hs]; exact hp) _ _)

/-- The pairs copied so far. -/
def snpPairs (b : Body) (n : Nat) : Body := (List.range n).foldl (fun b i => b.snpPair i) b

theorem snpPairs_succ (n : Nat) : b.snpPairs (n + 1) = (b.snpPairs n).snpPair n := by
  rw [snpPairs, List.range_succ, List.foldl_append]
  rfl

theorem beyond_snpPairs (hp : b.snp.port < 2) (n : Nat) : Beyond b (b.snpPairs n) := by
  induction n with
  | zero => exact .refl b
  | succ n ih =>
    rw [snpPairs_succ]
    have hs : (b.snpPairs n).snp = b.snp := ih.rest.1
    exact ih.trans (beyond_snpPair (by rw [hs]; exact hp) n)

/-- The bytes of a pair as a snapshot copies it. -/
def pairBytes (b : Body) (k : Nat) : List Byte :=
  leBytes 8 (((b.pairMem k).1 + (b.statLine k).pkts) % 2 ^ 64) ++ leBytes 8 (((b.pairMem k).2 + (b.statLine k).bytes) % 2 ^ 64)

theorem length_pairBytes (k : Nat) : (b.pairBytes k).length = 16 := by rw [pairBytes, List.length_append, length_leBytes, length_leBytes]

theorem pairRead_sound (hk : k < 2 ^ 30) (hbad : b.stat.bad = []) (hue : b.hbm.ue = []) (hcoded : b.hbm.coded = []) :
    leBytes 16 (b.pairRead k).2 = b.pairBytes k ∧ (b.pairRead k).1.mem = b.mem ∧ Kept b (b.pairRead k).1 := by
  have hcheck : b.statCheck k = b := statCheck_sound (by rw [hbad]; exact List.not_mem_nil)
  have hgood : b.lineBad (pairLine k) = false := by rw [lineBad, hue, hcoded]; rfl
  obtain ⟨c, hread, hmem, hstat⟩ := sumpRead_pair (b := b) hk
  have hkept : Kept b c := by
    have := kept_sumpRead (b := b) 3 (Sump.pairAddr k) 16
    rwa [hread] at this
  have hline : c.statLine k = b.statLine k := by rw [statLine, statLine, hstat]
  have hpair : b.pairRead k = (c, ((b.pairMem k).1 + (b.statLine k).pkts) % 2 ^ 64 +
      2 ^ 64 * (((b.pairMem k).2 + (b.statLine k).bytes) % 2 ^ 64)) := by
    rw [pairRead, hcheck, hread, hgood, pairMem_eq]
    dsimp only
    rw [hline]
  rw [hpair]
  refine ⟨?_, hmem, hkept⟩
  unfold pairBytes
  generalize (b.pairMem k).1 + (b.statLine k).pkts = x
  generalize (b.pairMem k).2 + (b.statLine k).bytes = y
  have h1 : (x % 2 ^ 64 + 2 ^ 64 * (y % 2 ^ 64)) % 256 ^ 8 = x % 2 ^ 64 := by omega
  have h2 : (x % 2 ^ 64 + 2 ^ 64 * (y % 2 ^ 64)) / 256 ^ 8 = y % 2 ^ 64 := by omega
  refine (leBytes_add 8 8 _).trans ?_
  rw [h2, ← leBytes_mod 8, h1]

theorem Kept.pairBytes (h : Kept b c) (k : Nat) : c.pairBytes k = b.pairBytes k := by
  unfold Body.pairBytes
  rw [pairMem_of_sump h.sump, statLine, statLine, h.stat]

/-- The pairs in far memory. -/
theorem snpPairs_mem (hp : b.snp.port < 2) (hbad : b.stat.bad = []) (hue : b.hbm.ue = []) (hcoded : b.hbm.coded = []) {n : Nat}
    (hn : b.nrd R.SNP_FIRST + n ≤ 2 ^ 30) : Kept b (b.snpPairs n) ∧
    (b.snpPairs n).farMem b.snp.port = Mem.chunks (b.farMem b.snp.port) (b.snpAddr + 64) 16 n fun i => b.pairBytes (b.nrd R.SNP_FIRST + i) := by
  induction n with
  | zero => exact ⟨.refl b, rfl⟩
  | succ n ih =>
    obtain ⟨hk, hm⟩ := ih (by omega)
    have hb := beyond_snpPairs hp n
    rw [snpPairs_succ, Mem.chunks_succ]
    generalize b.snpPairs n = c at *
    have hfirst : c.nrd R.SNP_FIRST = b.nrd R.SNP_FIRST := hb.nrd (by decide)
    obtain ⟨hv, hmem, hkept⟩ := pairRead_sound (b := c) (k := c.nrd R.SNP_FIRST + n) (by rw [hfirst]; omega) (by rw [hk.stat, hbad]) (by rw [hk.ue, hue])
      (by rw [hk.coded, hcoded])
    have hb' := hb.trans (beyond_pairRead (b := c) (c.nrd R.SNP_FIRST + n))
    rw [snpPair_eq, hv, hfirst, hk.pairBytes]
    rw [hfirst] at hmem hkept hb'
    generalize (c.pairRead (b.nrd R.SNP_FIRST + n)).1 = e at *
    have hs : e.snp = b.snp := hb'.rest.1
    have haddr : e.snpAddr = b.snpAddr := by rw [snpAddr, hb'.nrd (by decide), hb'.nrd (by decide), snpAddr]
    refine ⟨(hk.trans hkept).trans (kept_farWrite ..), ?_⟩
    rw [hs, haddr, farMem_farWrite, farMem_of_mem hmem, hm]

/-- The header of a snapshot (R481). -/
def snpHeader (b : Body) : List Byte :=
  leBytes 4 (b.nrd R.SNP_SEQ) ++ leBytes 4 (b.nrd R.SNP_FIRST) ++ leBytes 4 (b.nrd R.SNP_COUNT) ++ timeBytes b.snp.start ++ timeBytes b.tod ++
    leBytes 31 0 ++ [0x80]

theorem length_snpHeader : b.snpHeader.length = 64 := by
  simp only [snpHeader, timeBytes, List.length_append, length_leBytes, List.length_cons, List.length_nil]

theorem Beyond.snpHeader (h : Beyond b c) : c.snpHeader = b.snpHeader := by
  obtain ⟨hs, ht, -, -⟩ := h.rest
  unfold Body.snpHeader
  rw [h.nrd (by decide), h.nrd (by decide), h.nrd (by decide), hs, ht]

/-- The header's write and the snapshot's end. -/
def snpClose (b : Body) (p : Nat) : Body :=
  ((((b.farWrite p b.snpAddr b.snpHeader).nwr R.SNP_BUSY 0).nwr R.SNP_RC SNP_OK).snpTel.nwr R.SNP_SEQ (b.nrd R.SNP_SEQ + 1)).fire Pg.snp R.SNP_EVT_DONE

theorem snpDone_held (hb : b.nrd R.SNP_BUSY = 1) (hw : b.snp.waiting = false) (hr : b.farReady b.snp.port = true) (ha : b.snp.port ∈ b.far.armHold) :
    b.snpDone = ({ b with far := { b.far with armHold := b.far.armHold.erase b.snp.port } } : Body).snpAbort := by
  unfold snpDone
  dsimp only
  rw [if_neg (by simp [hb, hw, hr]), if_pos (List.contains_iff_mem.2 ha)]

theorem snpDone_ok (hb : b.nrd R.SNP_BUSY = 1) (hw : b.snp.waiting = false) (hr : b.farReady b.snp.port = true) (ha : b.snp.port ∉ b.far.armHold) :
    b.snpDone = (b.snpPairs (b.nrd R.SNP_COUNT)).snpClose b.snp.port := by
  unfold snpDone
  dsimp only
  rw [if_neg (by simp [hb, hw, hr]), if_neg fun h => ha (List.contains_iff_mem.1 h)]
  rfl

theorem snpClose_spec (p : Nat) : (b.snpClose p).nrd R.SNP_BUSY = 0 ∧ (b.snpClose p).nrd R.SNP_RC = SNP_OK ∧
    (b.snpClose p).nrd R.SNP_SEQ = (b.nrd R.SNP_SEQ + 1) % 2 ^ 32 ∧ (b.snpClose p).rd Pg.snp (evtPend R.SNP_EVT_DONE) = 1 ∧
    (b.snpClose p).farMem p = Mem.write (b.farMem p) b.snpAddr b.snpHeader := by
  unfold snpClose
  have hmem := farMem_farWrite (b := b) p b.snpAddr b.snpHeader
  generalize b.farWrite p b.snpAddr b.snpHeader = e at *
  have hbusy : ((e.nwr R.SNP_BUSY 0).nwr R.SNP_RC SNP_OK).nrd R.SNP_BUSY = 0 := (nwr_other (by decide)).trans (rd_wr_self ..)
  have hcode : ((e.nwr R.SNP_BUSY 0).nwr R.SNP_RC SNP_OK).nrd R.SNP_RC = SNP_OK := rd_wr_self ..
  have hm : ((e.nwr R.SNP_BUSY 0).nwr R.SNP_RC SNP_OK).mem = e.mem := rfl
  generalize (e.nwr R.SNP_BUSY 0).nwr R.SNP_RC SNP_OK = d at *
  obtain ⟨hr, hf0, hf1, -⟩ := telSend_far (b := d) (d.nrd R.SNP_TEL_RING) 0x12
    (leBytes 4 (d.nrd R.SNP_SEQ) ++ leBytes 1 (d.nrd R.SNP_RC) ++ leBytes 1 d.snp.port ++ leBytes 2 0 ++ leBytes 8 d.snpAddr ++
      leBytes 4 (d.nrd R.SNP_FIRST) ++ leBytes 4 (d.nrd R.SNP_COUNT) ++ timeBytes d.snp.start ++ timeBytes d.tod ++ leBytes 12 0)
  have hrd : ∀ f : Fld, d.snpTel.nrd f = d.nrd f := fun f => rd_of_regs hr _ _ _ _
  have hfar : d.snpTel.farMem p = d.farMem p := by
    unfold farMem
    split_ifs
    · exact hf0
    · exact hf1
  generalize d.snpTel = u at *
  have hfire : ∀ {f : Fld}, f.lo < 32 ∧ 0x80 ≤ f.off ∧ f.off < 0x1000 → ∀ v, ((u.nwr R.SNP_SEQ v).fire Pg.snp R.SNP_EVT_DONE).nrd f = (u.nwr R.SNP_SEQ v).nrd f :=
    fun hf v => rd_fire_field snp_page (by decide) hf
  refine ⟨?_, ?_, ?_, fire_pend _ (by decide) (by decide), ?_⟩
  · rw [hfire (by decide), nwr_other (by decide), hrd, hbusy]
  · rw [hfire (by decide), nwr_other (by decide), hrd, hcode]
  · rw [hfire (by decide)]
    exact rd_wr_self ..
  · rw [farMem_of_mem (b := u) (by simp [nwr]), hfar, farMem_of_mem hm, hmem]

end

end Body

end Sys2Proof.Machine
end

section
/-! O57, SNP_GO as the fabric writes it (R481, R482). -/

namespace Sys2Proof.Machine

namespace Body

/-- The fields of the snapshot page. -/
def snpFlds : List Fld :=
  [R.SNP_AT_EN, R.SNP_BUSY, R.SNP_RC, R.SNP_PORT, R.SNP_TEL_RING, R.SNP_FIRST, R.SNP_COUNT, R.SNP_ADDR_LO, R.SNP_ADDR_HI, R.SNP_TNS,
    R.SNP_TSECLO, R.SNP_TSECHI, R.SNP_SEQ]

/-- What the write of SNP_GO leaves before it acts. -/
def SnpShown (b d : Body) : Prop := Shown Pg.snp 0x80 (PK.snp.fieldsAt 0x80) b d

section
variable {b c d : Body} {rc : Nat}

theorem SnpShown.nrd (h : SnpShown b d) {f : Fld} (hf : f ∈ snpFlds) : d.nrd f = b.nrd f := by
  have hcase : ∀ f ∈ snpFlds, f.lo < 32 ∧ (f.off ≠ 0x80 ∨ (f, 0, 0) ∈ PK.snp.fieldsAt 0x80) := by decide
  obtain ⟨hlo, hoff | hin⟩ := hcase f hf
  · exact h.same _ _ _ _ hlo (by rw [Fld.addr_zero]; omega)
  · exact h.here _ hin

theorem SnpShown.frd (h : SnpShown b d) (p : Nat) {f : Fld} (hf : f.lo < 32 ∧ f.off < 0x1000) : d.frd p f = b.frd p f :=
  h.same _ _ _ _ hf.1 (by rw [Fld.addr_zero]; unfold Pg.far Pg.snp Pg.echo; omega)

theorem SnpShown.rest (h : SnpShown b d) : d.snp = b.snp ∧ d.tod = b.tod ∧ d.mem = b.mem := by
  have := h.only
  generalize d.regs = r at this
  subst this
  exact ⟨rfl, rfl, rfl⟩

theorem SnpShown.addr (h : SnpShown b d) : d.snpAddr = b.snpAddr := by
  rw [snpAddr, h.nrd (by decide), h.nrd (by decide), snpAddr]

theorem SnpShown.target (h : SnpShown b d) : d.snpTarget = b.snpTarget := by
  rw [snpTarget, h.nrd (by decide), h.nrd (by decide), h.nrd (by decide), snpTarget]

theorem SnpShown.bad (h : SnpShown b d) : d.snpBad = b.snpBad := by
  simp only [snpBad, h.addr, h.nrd (f := R.SNP_PORT) (by decide), h.nrd (f := R.SNP_COUNT) (by decide), h.nrd (f := R.SNP_BUSY) (by decide),
    h.nrd (f := R.SNP_FIRST) (by decide), h.nrd (f := R.SNP_TNS) (by decide), h.frd _ (f := R.FAR_DATA_BASE) (by decide),
    h.frd _ (f := R.FAR_DATA_SIZE) (by decide), h.frd _ (f := R.FAR_SIDE_BASE) (by decide), h.frd _ (f := R.FAR_MEM_SIZE) (by decide)]

theorem SnpShown.ready (h : SnpShown b d) : d.farReady (d.nrd R.SNP_PORT) = b.farReady (b.nrd R.SNP_PORT) := by
  rw [h.nrd (by decide), farReady, h.frd _ (by decide), farReady]

theorem SnpShown.valid (h : SnpShown b d) : d.on Pg.lamp R.TOD_VALID = b.on Pg.lamp R.TOD_VALID := by
  rw [on, h.same _ _ _ _ (by decide) (by decide), on]

theorem SnpShown.keeps (h : SnpShown b d) : Keeps [Pg.snp] b d := Shown.keeps h pageIs_snp (by decide) (List.mem_singleton_self _)

/-- The end of a snapshot that SNP_GO armed. -/
theorem SnpShown.ended (h : SnpShown b d) (he : Ended d.snpArmed c rc) : Ended b c rc :=
  (he.of (snpArmed_other (by decide) (by decide)) rfl).of (h.nrd (by decide)) h.rest.2.2

/-- A request that breaks a rule (R482). -/
theorem snpBad_of (h : b.nrd R.SNP_BUSY = 1 ∨ b.nrd R.SNP_COUNT = 0 ∨ 2 ^ 30 < b.nrd R.SNP_FIRST + b.nrd R.SNP_COUNT ∨ b.snpAddr % 64 ≠ 0 ∨
    999999999 < b.nrd R.SNP_TNS ∨ b.frd (b.nrd R.SNP_PORT) R.FAR_MEM_SIZE * 2 ^ 30 < b.snpAddr + 64 + 16 * b.nrd R.SNP_COUNT) : b.snpBad = true := by
  simp only [snpBad, Bool.or_eq_true, beq_iff_eq, bne_iff_ne, decide_eq_true_eq]
  rcases h with h | h | h | h | h | h <;> simp only [h, true_or, or_true, ne_eq, not_false_eq_true]

/-- SNP_GO ignored. -/
theorem SnpShown.refused (h : SnpShown b d) (hbad : b.snpBad = true) : d.snpGo.rd Pg.snp (evtPend R.SNP_EVT_BADCFG) = 1 ∧
    d.snpGo.nrd R.SNP_BUSY = b.nrd R.SNP_BUSY ∧ d.snpGo.snp = b.snp ∧ Keeps [Pg.snp] b d.snpGo := by
  rw [snpGo_bad (h.bad.trans hbad)]
  refine ⟨fire_pend _ (by decide) (by decide), (rd_fire_field snp_page (by decide) (by decide)).trans (h.nrd (by decide)), ?_,
    h.keeps.fire (by decide) (by decide) (by simp)⟩
  simpa using h.rest.1

/-- Without a valid time, with AT_EN. -/
theorem SnpShown.untimed (h : SnpShown b d) (hbad : b.snpBad = false) (hat : b.nrd R.SNP_AT_EN = 1) (hv : b.on Pg.lamp R.TOD_VALID = false) :
    Ended b d.snpGo SNP_TOD_INVALID := by
  rw [snpGo_ok (h.bad.trans hbad), if_neg (by rw [h.nrd (by decide), hat]; decide), if_pos (by simp [h.valid, hv])]
  exact h.ended (snpEnd_ended (by decide))

/-- Armed for a time to come. -/
theorem SnpShown.armed (h : SnpShown b d) (hbad : b.snpBad = false) (hat : b.nrd R.SNP_AT_EN = 1) (hv : b.on Pg.lamp R.TOD_VALID = true)
    (ht : b.tod < b.snpTarget) : d.snpGo = d.snpArmed := by
  obtain ⟨-, htod, -⟩ := h.rest
  rw [snpGo_ok (h.bad.trans hbad), if_neg (by rw [h.nrd (by decide), hat]; decide), if_neg (by simp [h.valid, hv]),
    if_neg (by rw [h.target, htod]; omega)]

/-- Begun at once. -/
theorem SnpShown.begun (h : SnpShown b d) (hbad : b.snpBad = false)
    (hat : b.nrd R.SNP_AT_EN = 0 ∨ (b.on Pg.lamp R.TOD_VALID = true ∧ b.snpTarget ≤ b.tod)) : d.snpGo = d.snpArmed.snpBegin := by
  obtain ⟨-, htod, -⟩ := h.rest
  rw [snpGo_ok (h.bad.trans hbad)]
  by_cases h0 : d.nrd R.SNP_AT_EN = 0
  · rw [if_pos h0]
  · obtain ⟨hv, ht⟩ := hat.resolve_left fun e => h0 ((h.nrd (by decide)).trans e)
    rw [if_neg h0, if_neg (by simp [h.valid, hv]), if_pos (by rw [h.target, htod]; exact ht)]

/-- Begun at once, on a port that is not ready. -/
theorem SnpShown.unlinked (h : SnpShown b d) (hr : b.farReady (b.nrd R.SNP_PORT) = false) : Ended b d.snpArmed.snpBegin SNP_LINK :=
  h.ended (snpBegin_ended (snpArmed_far.trans (h.ready.trans hr)))

/-- Begun at once, on a port that is ready. -/
theorem SnpShown.running (h : SnpShown b d) (hr : b.farReady (b.nrd R.SNP_PORT) = true) : d.snpArmed.snpBegin.nrd R.SNP_BUSY = 1 ∧
    d.snpArmed.snpBegin.snp.waiting = false ∧ d.snpArmed.snpBegin.snp.start = b.tod ∧ d.snpArmed.snpBegin.snp.port = b.nrd R.SNP_PORT := by
  obtain ⟨-, htod, -⟩ := h.rest
  obtain ⟨h1, h2⟩ := snpBegin_runs (b := d.snpArmed) (snpArmed_far.trans (h.ready.trans hr))
  refine ⟨h1.trans snpArmed_busy, by rw [h2], ?_, ?_⟩
  · rw [h2]
    exact htod
  · rw [h2]
    exact h.nrd (f := R.SNP_PORT) (by decide)

end

end Body

theorem exec_snpGo {s : State} {m : Nat} (ht : s.takes m (Pg.snp + 0x80)) :
    ∃ d, Body.SnpShown s.dev.body d ∧ exec (.snpGo m) s = .next (s.withBody d.snpGo) := by
  have hat : (fieldAt (Pg.snp + 0x80) R.SNP_GO).isSome = true := by rw [pageIs_snp.fieldAt (by decide) (by decide)]; rfl
  obtain ⟨d, hshown, hput⟩ := Dev.put_go (v := 1) (i := 0) (f := R.SNP_GO) (act := fun b => b.snpGo) ht pageIs_snp (by decide) (by decide)
    (by decide) (by decide) (by decide) rfl (by decide) fun w lk hw _ => by
      have hw : R.SNP_GO.of w = 1 := hw
      simp only [Body.pageStore, Body.storeSnp, hat, hw, if_true]
  exact ⟨d, hshown, State.live_withBody ht.known ht.runs hput⟩

section
variable {s : State} {c : Body} {rc : Nat}

/-- A snapshot's end as the state shows it. -/
theorem State.withBody_ended (h : Body.Ended s.dev.body c rc) : (s.withBody c).reg Pg.snp R.SNP_BUSY = 0 ∧ (s.withBody c).reg Pg.snp R.SNP_RC = rc ∧
    (s.withBody c).reg Pg.snp R.SNP_SEQ = s.reg Pg.snp R.SNP_SEQ ∧ (s.withBody c).dev.body.mem.far0 = s.dev.body.mem.far0 ∧
    (s.withBody c).dev.body.mem.far1 = s.dev.body.mem.far1 := by
  rw [State.withBody_page (by decide) (by decide), State.withBody_page (by decide) (by decide), State.withBody_page (by decide) (by decide),
    State.withBody_mem]
  exact ⟨h.busy, h.code, h.seq, h.far0, h.far1⟩

theorem State.withBody_snp : (s.withBody c).dev.body.snp = c.snp := by simp

end

end Sys2Proof.Machine
end

section
/-! O57, the Echo archive (R487). -/

namespace Sys2Proof.Machine

namespace Body

/-- What a pool that gives or takes back a buffer may touch: registers below the far ports', and the pools' pages but the pool's own
configuration. -/
def poolAddr (n : Nat) (a : Nat) (_ : Nat) : Prop := a < 0xC00000 ∨ (0xF00000 ≤ a ∧ a < Pg.echo 0 ∧ ¬ (Pg.pool n + 0x84 ≤ a ∧ a < Pg.pool n + 0x94))

/-- A pool's change: it touches its registers, and no memory. -/
structure Pooled (n : Nat) (b c : Body) : Prop where
  touch : Touch (poolAddr n) b c
  mem : c.mem = b.mem
  echo : c.echo = b.echo
  hbm : c.hbm = b.hbm
  far : c.far = b.far

namespace Pooled
variable {n : Nat} {b c d : Body}

theorem refl (b : Body) : Pooled n b b := ⟨.refl b, rfl, rfl, rfl, rfl⟩

theorem trans (h : Pooled n b c) (h' : Pooled n c d) : Pooled n b d :=
  ⟨h.touch.trans h'.touch, h'.mem.trans h.mem, h'.echo.trans h.echo, h'.hbm.trans h.hbm, h'.far.trans h.far⟩

theorem of (h : Pooled n b c) (hr : d.regs = c.regs ∧ d.ctrs = c.ctrs) (hm : d.mem = c.mem ∧ d.echo = c.echo ∧ d.hbm = c.hbm ∧ d.far = c.far) :
    Pooled n b d := by
  obtain ⟨h1, h2, h3, h4⟩ := hm
  exact ⟨h.touch.of hr.1 hr.2, h1.trans h.mem, h2.trans h.echo, h3.trans h.hbm, h4.trans h.far⟩

theorem wr (h : Pooled n b c) (hn : n < 16) {f : Fld} {v : Nat} (hf : f.lo < 32 ∧ 0x94 ≤ f.off ∧ f.off < 0x1000) : Pooled n b (c.wr (Pg.pool n) f v) := by
  refine ⟨h.touch.wr ⟨hf.1, ?_⟩ ?_, h.mem, h.echo, h.hbm, h.far⟩
  · rw [Fld.addr_zero]
    unfold Pg.pool
    omega
  · rw [Fld.addr_zero]
    unfold poolAddr Pg.pool Pg.echo
    omega

theorem fire (h : Pooled n b c) (hn : n < 16) {e : Nat} (he : e < 32) : Pooled n b (c.fire (Pg.pool n) e) := by
  refine ⟨h.touch.fire he (Pg.pool_page n).2 ?_ (fun _ => ?_) (fun _ => ?_) fun _ => ?_, ?_, ?_, ?_, ?_⟩
  · unfold poolAddr Pg.pool Pg.echo
    omega
  · unfold poolAddr Pg.pool Pg.echo
    omega
  · exact .inl (by decide)
  · exact .inl (by decide)
  · simpa using h.mem
  · simpa using h.echo
  · simpa using h.hbm
  · simpa using h.far

theorem fault (h : Pooled n b c) (hn : n < 16) {e : Nat} {x : FltInfo} (he : e < 32) : Pooled n b (c.fault (Pg.pool n) e x) := by
  refine ⟨h.touch.fault he (Pg.pool_page n).2 ?_, ?_, ?_, ?_, ?_⟩
  · unfold poolAddr Pg.pool Pg.echo
    omega
  · simpa using h.mem
  · simpa using h.echo
  · simpa using h.hbm
  · simpa using h.far

theorem lose (h : Pooled n b c) (l m : Nat) : Pooled n b (c.lose l m) := by
  have hrim : ∀ x y : Nat, x < 0x1000 → poolAddr n (Pg.rim + x) y := fun x _ hx => .inl (by unfold Pg.rim; omega)
  refine ⟨h.touch.trans ?_, ?_, ?_, ?_, ?_⟩
  · unfold Body.lose
    exact Touch.fire (Touch.of (.refl c) rfl rfl) (by decide) (by decide) (hrim 0x20 _ (by decide)) (fun _ => hrim 0x30 _ (by decide))
      (fun _ => .inl (by decide)) fun _ => .inl (by decide)
  · simpa using h.mem
  · exact (still_eq (still_lose c l m)).2.2.2.2.2.2.2.2.2.2.trans h.echo
  · simpa using h.hbm
  · simpa using h.far

end Pooled

section
variable {b c d : Body} {n i k : Nat}

theorem pooled_minNote (h : Pooled n b c) (hn : n < 16) (was now : Nat) : Pooled n b (c.minNote n was now) :=
  (h.wr hn (f := R.POOL_MIN) (by decide)).of ⟨rfl, rfl⟩ ⟨rfl, rfl, rfl, rfl⟩

theorem pooled_poolTake (hn : n < 16) : Pooled n b (b.poolTake n).2 := by
  have hfire : ∀ (p : Prop) [Decidable p] (c : Body) (e : Nat), e < 32 → Pooled n b c → Pooled n b (if p then c.fire (Pg.pool n) e else c) :=
    fun p _ c e he h => by
      split
      · exact h.fire hn he
      · exact h
  have hbuf : ∀ (p : Prop) [Decidable p] (c : Body) (x : BufSt), Pooled n b c → Pooled n b (if p then { c with buf := x } else c) := fun p _ c x h => by
    split
    · exact h.of ⟨rfl, rfl⟩ ⟨rfl, rfl, rfl, rfl⟩
    · exact h
  have h0 : ∀ l, Pooled n b ((b.free 28).2.setAlloc n l) := fun l => .of (.refl b) ⟨rfl, rfl⟩ ⟨rfl, rfl, rfl, rfl⟩
  unfold poolTake
  exact Pooled.of (hbuf _ _ _ (hfire _ _ _ (by decide) (hfire _ _ _ (by decide) (hfire _ _ _ (by decide)
    (pooled_minNote ((h0 _).wr hn (f := R.POOL_FREE_CNT) (by decide)) hn _ _))))) ⟨rfl, rfl⟩ ⟨rfl, rfl, rfl, rfl⟩

theorem pooled_poolReq {o mem size : Nat} (h : b.poolFor o mem size = some n) : Pooled n b (b.poolReq o mem size).1 := by
  have hn := poolFor_lt h
  have ht := pooled_poolTake (b := b) hn
  unfold poolReq
  rw [h]
  dsimp only
  split_ifs
  · exact Pooled.wr (.refl b) hn (f := R.POOL_FAIL) (by decide)
  · exact ht.of ⟨rfl, rfl⟩ ⟨rfl, rfl, rfl, rfl⟩
  · exact ht.of ⟨rfl, rfl⟩ ⟨rfl, rfl, rfl, rfl⟩
  · exact ht

theorem pooled_setAlloc (l : List Nat) : Pooled n b (b.setAlloc n l) := .of (.refl b) ⟨rfl, rfl⟩ ⟨rfl, rfl, rfl, rfl⟩

theorem pooled_ledOut (l m : Nat) : Pooled n b (b.ledOut l m) := .of (.refl b) ⟨rfl, rfl⟩ ⟨rfl, rfl, rfl, rfl⟩

theorem pooled_poolFree (hn : n < 16) (i m : Nat) : Pooled n b (b.poolFree n i m) := by
  unfold poolFree
  dsimp only
  split_ifs
  · exact Pooled.wr (.refl b) hn (f := R.POOL_BADIDX) (by decide)
  · refine Pooled.fault (Pooled.lose ?_ _ _) hn (by decide)
    refine Pooled.wr (Pooled.trans ?_ (pooled_setAlloc _)) hn (f := R.POOL_LOST) (by decide)
    exact .of (.refl b) ⟨rfl, rfl⟩ ⟨rfl, rfl, rfl, rfl⟩
  · exact Pooled.trans (pooled_minNote (Pooled.wr (pooled_setAlloc _) hn (f := R.POOL_FREE_CNT) (by decide)) hn _ _) (pooled_ledOut _ _)
  · exact Pooled.fault (Pooled.wr (.refl b) hn (f := R.POOL_DFREE) (by decide)) hn (by decide)

/-- What a pool's change leaves of the far ports, of the pool's buffers' places and of Echo's counters. -/
theorem Pooled.shown (h : Pooled n b c) (hn : n < 16) : (∀ p < 2, c.farReady p = b.farReady p) ∧ (∀ i, c.bufAddr n i = b.bufAddr n i) ∧
    ∀ i < 0x1000, c.ctr (Pg.echo 0) i = b.ctr (Pg.echo 0) i := by
  have hpool : ∀ f : Fld, f.lo < 32 → 0x84 ≤ f.off → f.off < 0x94 → c.rd (Pg.pool n) f = b.rd (Pg.pool n) f := fun f hf h1 h2 =>
    h.touch.regs _ _ _ _ hf (by rw [Fld.addr_zero]; unfold poolAddr Pg.pool Pg.echo; omega)
  refine ⟨fun p hp => ?_, fun i => ?_, fun i hi => h.touch.ctr hi (by unfold poolAddr Pg.echo; omega)⟩
  · rw [farReady, farReady, frd, frd, h.touch.regs]
    · decide
    · rw [Fld.addr_zero]
      simp only [poolAddr, Pg.far, R.FAR_STATE, Pg.pool, Pg.echo]
      omega
  · simp only [bufAddr, poolBase, poolSize, prd', hpool R.POOL_BASE_LO (by decide) (by decide) (by decide),
      hpool R.POOL_BASE_HI (by decide) (by decide) (by decide), hpool R.POOL_SIZE (by decide) (by decide) (by decide)]

/-! The end of a block. -/

theorem echo_page : Pg.echo 0 % 0x1000 = 0 ∧ 0x8000 ≤ Pg.echo 0 := by decide

/-- The block behind this one is next. -/
def NextBlk (b c : Body) : Prop :=
  c.echo.arch = (b.echo.arch + 1) % 2 ^ 20 ∧ c.rd (Pg.echo 0) R.ECHO_ARCH_NEXT = (b.echo.arch + 1) % 2 ^ 20 % 2 ^ 13

theorem archStep_spec : NextBlk b b.archStep ∧ b.archStep.ctrs = b.ctrs ∧ b.archStep.mem = b.mem ∧ b.archStep.buf = b.buf ∧
    ∀ f : Fld, f.lo < 32 ∧ f.off < 0x80 → b.archStep.rd (Pg.echo 0) f = b.rd (Pg.echo 0) f := by
  refine ⟨⟨rfl, rd_wr_self ..⟩, rfl, rfl, rfl, fun f hf => ?_⟩
  refine (rd_wr_ne _ _ (by decide) hf.1 (.inl ?_)).trans (rd_of_regs rfl _ _ _ _)
  simp only [Fld.addr_zero, R.ECHO_ARCH_NEXT]
  omega

/-- A block that ends with a count and an event. -/
theorem archStep_fire {e : Nat} (hi : i < 0x1000) (he : e < 32) : ((b.count (Pg.echo 0) i).fire (Pg.echo 0) e).archStep.ctr (Pg.echo 0) i =
      (b.ctr (Pg.echo 0) i + 1) % 2 ^ 64 ∧ ((b.count (Pg.echo 0) i).fire (Pg.echo 0) e).archStep.rd (Pg.echo 0) (evtPend e) = 1 ∧
    NextBlk b ((b.count (Pg.echo 0) i).fire (Pg.echo 0) e).archStep ∧ ((b.count (Pg.echo 0) i).fire (Pg.echo 0) e).archStep.buf = b.buf ∧
    ((b.count (Pg.echo 0) i).fire (Pg.echo 0) e).archStep.mem = b.mem := by
  have hc : ((b.count (Pg.echo 0) i).fire (Pg.echo 0) e).ctr (Pg.echo 0) i = (b.ctr (Pg.echo 0) i + 1) % 2 ^ 64 :=
    (fire_ctr ..).trans (ctr_count_self hi)
  have hp : ((b.count (Pg.echo 0) i).fire (Pg.echo 0) e).rd (Pg.echo 0) (evtPend e) = 1 := fire_pend _ he (by decide)
  have hr : ((b.count (Pg.echo 0) i).fire (Pg.echo 0) e).echo = b.echo ∧ ((b.count (Pg.echo 0) i).fire (Pg.echo 0) e).buf = b.buf ∧
      ((b.count (Pg.echo 0) i).fire (Pg.echo 0) e).mem = b.mem := by simp
  generalize (b.count (Pg.echo 0) i).fire (Pg.echo 0) e = c at *
  obtain ⟨hecho, hbuf, hmem⟩ := hr
  obtain ⟨⟨h1, h1'⟩, h2, h3, h4, h5⟩ := archStep_spec (b := c)
  rw [hecho] at h1 h1'
  exact ⟨(ctr_of_ctrs h2 _ _).trans hc, (h5 (evtPend e) ⟨he, show 0x20 < 0x80 by decide⟩).trans hp, ⟨h1, h1'⟩, h4.trans hbuf, h3.trans hmem⟩

/-- A block that ends with a count and a fault. -/
theorem archStep_fault {e : Nat} {x : FltInfo} (hi : i < 0x1000) (he : e < 32) :
    ((b.count (Pg.echo 0) i).fault (Pg.echo 0) e x).archStep.ctr (Pg.echo 0) i = (b.ctr (Pg.echo 0) i + 1) % 2 ^ 64 ∧
    ((b.count (Pg.echo 0) i).fault (Pg.echo 0) e x).archStep.rd (Pg.echo 0) (fltStat e) = 1 ∧
    NextBlk b ((b.count (Pg.echo 0) i).fault (Pg.echo 0) e x).archStep ∧ ((b.count (Pg.echo 0) i).fault (Pg.echo 0) e x).archStep.mem = b.mem := by
  have hc : ((b.count (Pg.echo 0) i).fault (Pg.echo 0) e x).ctr (Pg.echo 0) i = (b.ctr (Pg.echo 0) i + 1) % 2 ^ 64 :=
    (fault_ctr ..).trans (ctr_count_self hi)
  have hp : ((b.count (Pg.echo 0) i).fault (Pg.echo 0) e x).rd (Pg.echo 0) (fltStat e) = 1 := fault_stat ..
  have hr : ((b.count (Pg.echo 0) i).fault (Pg.echo 0) e x).echo = b.echo ∧ ((b.count (Pg.echo 0) i).fault (Pg.echo 0) e x).mem = b.mem := by simp
  generalize (b.count (Pg.echo 0) i).fault (Pg.echo 0) e x = c at *
  obtain ⟨hecho, hmem⟩ := hr
  obtain ⟨⟨h1, h1'⟩, h2, h3, -, h5⟩ := archStep_spec (b := c)
  rw [hecho] at h1 h1'
  exact ⟨(ctr_of_ctrs h2 _ _).trans hc, (h5 (fltStat e) ⟨he, show 0x40 < 0x80 by decide⟩).trans hp, ⟨h1, h1'⟩, h3.trans hmem⟩

/-! The copy. -/

theorem archCopy_eq (port base blk x i : Nat) : (b.archCopy port base blk x i).1 =
    (b.echoShow ((4096 * blk + i) % 2 ^ 25)).1.farWrite port (base + 256 * i) (b.echoShow ((4096 * blk + i) % 2 ^ 25)).2.1 := rfl

theorem beyond_echoShow (pos : Nat) : Beyond b (b.echoShow pos).1 := by
  have h := beyond_sumpRead (b := b) 4 (Sump.echoBase + 256 * pos) 256
  unfold echoShow
  generalize b.sumpRead 4 (Sump.echoBase + 256 * pos) 256 = r at *
  obtain ⟨c, l, _ | _⟩ := r
  · exact h
  · exact h.count (by decide) (.inr rfl)

/-- A record that is read without an error. -/
theorem echoShow_good {pos : Nat} (hpos : pos < 2 ^ 25) (hue : b.hbm.ue = []) (hcoded : b.hbm.coded = []) :
    (b.echoShow pos).2.1 = Mem.read b.mem.sump (Sump.echoBase + 256 * pos) 256 ∧ (b.echoShow pos).1.mem = b.mem ∧ Kept b (b.echoShow pos).1 := by
  have hmem : (b.sumpRead 4 (Sump.echoBase + 256 * pos) 256).1.mem = b.mem :=
    foldl_same Body.mem _ (fun c a => (lineError_mem _ _ _).trans (hbmPut_mem _ _ _ _)) _ _
  have hbytes : (b.sumpRead 4 (Sump.echoBase + 256 * pos) 256).2.1 = Mem.read b.mem.sump (Sump.echoBase + 256 * pos) 256 := by
    refine (if_neg ?_).trans (by rw [show ((linesOf _ _).foldl _ b).mem = b.mem from hmem])
    unfold Sump.scratchEnd Sump.echoBase
    omega
  have hgood : (b.sumpRead 4 (Sump.echoBase + 256 * pos) 256).2.2 = false := by
    refine List.any_eq_false.2 fun a _ => ?_
    rw [lineBad, hue, hcoded]
    exact Bool.false_ne_true
  have hkept := kept_sumpRead (b := b) 4 (Sump.echoBase + 256 * pos) 256
  unfold echoShow
  generalize b.sumpRead 4 (Sump.echoBase + 256 * pos) 256 = r at *
  obtain ⟨c, l, x⟩ := r
  subst hgood
  exact ⟨hbytes, hmem, hkept⟩

/-- The records copied so far. -/
def archCopies (b : Body) (port base blk n : Nat) : Body × Nat := (List.range n).foldl (fun x k => x.1.archCopy port base blk x.2 k) (b, 0)

theorem archCopies_succ (port base blk n : Nat) : (b.archCopies port base blk (n + 1)).1 =
    ((b.archCopies port base blk n).1.archCopy port base blk (b.archCopies port base blk n).2 n).1 := by
  rw [archCopies, List.range_succ, List.foldl_append]
  rfl

theorem beyond_archCopies {port : Nat} (hp : port < 2) (base blk n : Nat) : Beyond b (b.archCopies port base blk n).1 := by
  induction n with
  | zero => exact .refl b
  | succ n ih =>
    rw [archCopies_succ, archCopy_eq]
    exact (ih.trans (beyond_echoShow _)).trans (beyond_farWrite hp _ _)

/-- The record of the live ring at a place of a block. -/
def echoBytes (b : Body) (blk j : Nat) : List Byte := Mem.read b.mem.sump (Sump.echoBase + 256 * ((4096 * blk + j) % 2 ^ 25)) 256

theorem archCopies_mem (port base blk : Nat) (hue : b.hbm.ue = []) (hcoded : b.hbm.coded = []) (n : Nat) : Kept b (b.archCopies port base blk n).1 ∧
    (b.archCopies port base blk n).1.farMem port = Mem.chunks (b.farMem port) base 256 n (b.echoBytes blk) := by
  induction n with
  | zero => exact ⟨.refl b, rfl⟩
  | succ n ih =>
    obtain ⟨hk, hm⟩ := ih
    rw [archCopies_succ, archCopy_eq, Mem.chunks_succ, farMem_farWrite]
    generalize (b.archCopies port base blk n).1 = c at *
    obtain ⟨h1, h2, h3⟩ := echoShow_good (b := c) (pos := (4096 * blk + n) % 2 ^ 25) (Nat.mod_lt _ (by decide)) (by rw [hk.ue, hue]) (by rw [hk.coded, hcoded])
    refine ⟨(hk.trans h3).trans (kept_farWrite ..), ?_⟩
    rw [h1, farMem_of_mem h2, hm, echoBytes, hk.sump]

/-! The cases of an archive. -/

/-- The report of a block copied, and its end. -/
def archClose (x : Body × Nat) (port n i base blk : Nat) : Body :=
  let ts := fun k => Mem.read (x.1.farMem port) (base + 256 * k + 4) 10
  let b := x.1.telSend (x.1.rd (Pg.echo 0) R.ECHO_TEL_RING) 0x10
    (leBytes 4 blk ++ leBytes 1 n ++ leBytes 3 0 ++ leBytes 4 i ++ ts 0 ++ ts 4095 ++ leBytes 4 x.2 ++ leBytes 24 0)
  ((b.count (Pg.echo 0) ECHO_ARCH_BLOCKS).fire (Pg.echo 0) R.ECHO_EVT_ARCH).archStep

/-- The live ring has gone past the block. -/
def archLate (b : Body) : Prop := 2 ^ 25 < wrapSub 32 (b.rd (Pg.echo 0) R.ECHO_WR) (4096 * b.echo.arch)

theorem echoArchive_idle (h : b.archDue = false) : b.echoArchive k = b := if_pos (by simp [h])

theorem echoArchive_skip (h : b.archDue = true) (hs : b.poolFor 4 (2 + k) 1048576 = none ∨
    ∃ n, b.poolFor 4 (2 + k) 1048576 = some n ∧ (b.poolLevel n = 2 ∨ b.archLate)) : b.echoArchive k = b.archSkip := by
  unfold echoArchive
  rw [if_neg (by simp [h])]
  rcases hs with hs | ⟨n, hs, hl⟩
  · rw [hs]
  · rw [hs]
    exact if_pos hl

theorem echoArchive_fail (h : b.archDue = true) (hp : b.poolFor 4 (2 + k) 1048576 = some n) (hl : ¬ (b.poolLevel n = 2 ∨ b.archLate))
    (hr : b.poolReq 4 (2 + k) 1048576 = (c, .ok n i)) (hf : c.far.armHold.contains k = true ∨ ¬ c.farReady k = true) :
    b.echoArchive k = (((({ c with far := { c.far with armHold := c.far.armHold.erase k } } : Body).poolFree n i 0x3FF).count (Pg.echo 0) ECHO_ARCH_FAIL).fault
      (Pg.echo 0) R.ECHO_FLT_ARCH { access := 4, space := 3 + k }).archStep := by
  unfold echoArchive
  rw [if_neg (by simp [h]), hp, hr]
  exact (if_neg hl).trans (if_pos hf)

theorem echoArchive_copy (h : b.archDue = true) (hp : b.poolFor 4 (2 + k) 1048576 = some n) (hl : ¬ (b.poolLevel n = 2 ∨ b.archLate))
    (hr : b.poolReq 4 (2 + k) 1048576 = (c, .ok n i)) (hf : ¬ (c.far.armHold.contains k = true ∨ ¬ c.farReady k = true)) :
    b.echoArchive k = archClose (c.archCopies k (c.bufAddr n i) b.echo.arch 4096) k n i (c.bufAddr n i) b.echo.arch := by
  unfold archCopies echoArchive
  generalize List.range 4096 = l
  rw [if_neg (by simp [h]), hp, hr]
  exact (if_neg hl).trans (if_neg hf)

/-- A block copied (R487). -/
theorem archClose_spec {x : Body × Nat} {base blk : Nat} : (archClose x k n i base blk).ctr (Pg.echo 0) ECHO_ARCH_BLOCKS = (x.1.ctr (Pg.echo 0) ECHO_ARCH_BLOCKS + 1) % 2 ^ 64 ∧
    (archClose x k n i base blk).rd (Pg.echo 0) (evtPend R.ECHO_EVT_ARCH) = 1 ∧ NextBlk x.1 (archClose x k n i base blk) ∧
    (archClose x k n i base blk).buf = x.1.buf ∧ (archClose x k n i base blk).farMem k = x.1.farMem k := by
  unfold archClose
  dsimp only
  generalize leBytes 4 blk ++ leBytes 1 n ++ leBytes 3 0 ++ leBytes 4 i ++ Mem.read _ _ _ ++ Mem.read _ _ _ ++ leBytes 4 x.2 ++ leBytes 24 0 = l
  obtain ⟨-, hf0, hf1, hb⟩ := telSend_far (b := x.1) (x.1.rd (Pg.echo 0) R.ECHO_TEL_RING) 0x10 l
  generalize x.1.telSend (x.1.rd (Pg.echo 0) R.ECHO_TEL_RING) 0x10 l = c at *
  obtain ⟨h1, h2, ⟨h3, h3'⟩, h4, h5⟩ := archStep_fire (b := c) (i := ECHO_ARCH_BLOCKS) (e := R.ECHO_EVT_ARCH) (by decide) (by decide)
  obtain ⟨-, -, hecho, hbuf⟩ := hb.rest
  rw [hecho] at h3 h3'
  refine ⟨h1.trans (by rw [hb.ctrs _ (by decide) (by decide)]), h2, ⟨h3, h3'⟩, h4.trans hbuf, (farMem_of_mem h5 k).trans ?_⟩
  unfold farMem
  rw [hf0, hf1]

end

end Body

/-! A write of ECHO_SEED (R484). -/

theorem exec_echoSeedWrite {s : State} {m v : Nat} (hv : v < 2 ^ 32) (ht : s.takes m (Pg.echo 0 + 0x84)) :
    exec (.echoSeedWrite v m) s = .next (s.withBody (s.dev.body.echoSeedWrite v)) := by
  have hat : (fieldAt (Pg.echo 0 + 0x84) R.ECHO_SEED).isSome = true := by rw [pageIs_echo0.fieldAt (by decide) (by decide)]; rfl
  have hput : s.dev.write m (Pg.echo 0 + 0x84) v = { s.dev with body := s.dev.body.echoSeedWrite v } := by
    rw [Dev.write_store v ht pageIs_echo0 (by decide) (by decide) (by decide) (by decide) (by decide)]
    simp only [Body.pageStore, Body.storeEcho, hat, if_true]
  exact State.live_withBody (by rw [decide_eq_true hv, ht.known]; rfl) ht.runs hput

theorem Body.echoSeedWrite_spec {b : Body} {v : Nat} (hv : v < 2 ^ 32) : (b.echoSeedWrite v).rd (Pg.echo 0) R.ECHO_SEED = v ∧
    (b.echoSeedWrite v).echo = { b.echo with drawn := 0 } ∧ Body.Keeps [Pg.echo 0] b (b.echoSeedWrite v) := by
  refine ⟨(Body.rd_of_regs rfl _ _ _ _).trans ((Body.rd_wr_self ..).trans (Nat.mod_eq_of_lt hv)), rfl, ?_⟩
  exact Body.Keeps.of_eq (Body.Keeps.wr (f := R.ECHO_SEED) (p := Pg.echo 0) (.refl b) (by decide) (by decide)) rfl rfl rfl rfl

end Sys2Proof.Machine
end

section
/-! O57, what the commands show. -/

namespace Sys2Proof.Machine

section
variable {b c : Body} {k n i : Nat}

theorem State.withBody_farMem {s : State} (p : Nat) : (s.withBody c).dev.body.farMem p = c.farMem p := Body.farMem_of_mem State.withBody_mem p

/-- What an archive that takes a buffer starts from. -/
theorem Body.archTaken (hp : b.poolFor 4 (2 + k) 1048576 = some n) (hf : b.rd (Pg.pool n) R.POOL_FREE_CNT ≠ 0) :
    ∃ i c, b.poolReq 4 (2 + k) 1048576 = (c, .ok n i) ∧ i ∈ c.allocOf n ∧ Body.Pooled n b c := by
  obtain ⟨i, c, hreq, hin, -, -⟩ := Body.poolReq_tier hp hf
  refine ⟨i, c, hreq, hin, ?_⟩
  have := Body.pooled_poolReq hp
  rwa [hreq] at this

/-- An archive abandoned (R487). -/
theorem Body.archFail_spec (hk : k < 2) (hd : b.archDue = true) (hp : b.poolFor 4 (2 + k) 1048576 = some n) (hl : ¬ (b.poolLevel n = 2 ∨ b.archLate))
    (hf : b.rd (Pg.pool n) R.POOL_FREE_CNT ≠ 0) (hh : k ∈ b.far.armHold ∨ b.farReady k = false) :
    (b.echoArchive k).ctr (Pg.echo 0) ECHO_ARCH_FAIL = (b.ctr (Pg.echo 0) ECHO_ARCH_FAIL + 1) % 2 ^ 64 ∧
    (b.echoArchive k).rd (Pg.echo 0) (fltStat R.ECHO_FLT_ARCH) = 1 ∧ Body.NextBlk b (b.echoArchive k) ∧ (b.echoArchive k).mem = b.mem := by
  have hn := poolFor_lt hp
  obtain ⟨i, c, hreq, -, hpool⟩ := Body.archTaken hp hf
  obtain ⟨hready, -, -⟩ := hpool.shown hn
  have hstop : c.far.armHold.contains k = true ∨ ¬ c.farReady k = true := by
    rw [hpool.far, hready k hk, List.contains_iff_mem, Bool.not_eq_true]
    exact hh
  rw [Body.echoArchive_fail hd hp hl hreq hstop]
  have hfree : Body.Pooled n { c with far := { c.far with armHold := c.far.armHold.erase k } } _ := Body.pooled_poolFree hn i 0x3FF
  obtain ⟨-, -, hctr⟩ := hfree.shown hn
  obtain ⟨-, -, hctr'⟩ := hpool.shown hn
  have hmem := hfree.mem.trans hpool.mem
  have hecho := hfree.echo.trans hpool.echo
  have hcount := (hctr ECHO_ARCH_FAIL (by decide)).trans (hctr' ECHO_ARCH_FAIL (by decide))
  generalize ({ c with far := { c.far with armHold := c.far.armHold.erase k } } : Body).poolFree n i 0x3FF = d at *
  obtain ⟨h1, h2, ⟨h3, h3'⟩, h4⟩ := Body.archStep_fault (b := d) (i := ECHO_ARCH_FAIL) (e := R.ECHO_FLT_ARCH) (x := { access := 4, space := 3 + k }) (by decide) (by decide)
  rw [hecho] at h3 h3'
  exact ⟨h1.trans (by rw [hcount]), h2, ⟨h3, h3'⟩, h4.trans hmem⟩

/-- A block archived (R487). -/
theorem Body.archCopy_spec (hk : k < 2) (hd : b.archDue = true) (hp : b.poolFor 4 (2 + k) 1048576 = some n) (hl : ¬ (b.poolLevel n = 2 ∨ b.archLate))
    (hf : b.rd (Pg.pool n) R.POOL_FREE_CNT ≠ 0) (hh : k ∉ b.far.armHold) (hr : b.farReady k = true) :
    ∃ i, (b.poolReq 4 (2 + k) 1048576).2 = .ok n i ∧ i ∈ (b.echoArchive k).allocOf n ∧
    (b.echoArchive k).ctr (Pg.echo 0) ECHO_ARCH_BLOCKS = (b.ctr (Pg.echo 0) ECHO_ARCH_BLOCKS + 1) % 2 ^ 64 ∧
    (b.echoArchive k).rd (Pg.echo 0) (evtPend R.ECHO_EVT_ARCH) = 1 ∧ Body.NextBlk b (b.echoArchive k) ∧
    (b.hbm.ue = [] → b.hbm.coded = [] → ∀ j < 4096, Mem.read ((b.echoArchive k).farMem k) (b.bufAddr n i + 256 * j) 256 = b.echoBytes b.echo.arch j) := by
  have hn := poolFor_lt hp
  obtain ⟨i, c, hreq, hin, hpool⟩ := Body.archTaken hp hf
  obtain ⟨hready, haddr, hctr⟩ := hpool.shown hn
  have hgo : ¬ (c.far.armHold.contains k = true ∨ ¬ c.farReady k = true) := by
    rw [hpool.far, hready k hk, List.contains_iff_mem, hr]
    simpa using hh
  rw [Body.echoArchive_copy hd hp hl hreq hgo, haddr]
  have hb := Body.beyond_archCopies (b := c) hk (b.bufAddr n i) b.echo.arch 4096
  have hmem := Body.archCopies_mem (b := c) k (b.bufAddr n i) b.echo.arch
  generalize hx : c.archCopies k (b.bufAddr n i) b.echo.arch 4096 = x at *
  obtain ⟨h1, h2, ⟨h3, h3'⟩, h4, h5⟩ := Body.archClose_spec (x := x) (k := k) (n := n) (i := i) (base := b.bufAddr n i) (blk := b.echo.arch)
  obtain ⟨-, -, hecho, hbuf⟩ := hb.rest
  rw [hecho, hpool.echo] at h3 h3'
  refine ⟨i, by rw [hreq], ?_, h1.trans ?_, h2, ⟨h3, h3'⟩, fun hue hcoded j hj => ?_⟩
  · rw [Body.allocOf, h4, hbuf]
    exact hin
  · rw [hb.ctrs _ (by decide) (by decide), hctr _ (by decide)]
  · have := (hmem (by rw [hpool.hbm, hue]) (by rw [hpool.hbm, hcoded]) 4096).2
    rw [h5, ← hx, this, Mem.read_chunks (f := c.echoBytes b.echo.arch) (fun _ _ => Mem.length_read ..) hj, Body.echoBytes, hpool.mem, Body.echoBytes]

/-- The far memory that a snapshot's end leaves (R481). -/
theorem Body.snpDone_spec (hb : b.nrd R.SNP_BUSY = 1) (hw : b.snp.waiting = false) (hp : b.snp.port < 2) (hr : b.farReady b.snp.port = true)
    (ha : b.snp.port ∉ b.far.armHold) : b.snpDone.nrd R.SNP_BUSY = 0 ∧ b.snpDone.nrd R.SNP_RC = SNP_OK ∧
    b.snpDone.nrd R.SNP_SEQ = (b.nrd R.SNP_SEQ + 1) % 2 ^ 32 ∧ b.snpDone.rd Pg.snp (evtPend R.SNP_EVT_DONE) = 1 ∧
    Mem.read (b.snpDone.farMem b.snp.port) b.snpAddr 64 = b.snpHeader ∧
    (b.stat.bad = [] → b.hbm.ue = [] → b.hbm.coded = [] → b.nrd R.SNP_FIRST + b.nrd R.SNP_COUNT ≤ 2 ^ 30 → ∀ i < b.nrd R.SNP_COUNT,
      Mem.read (b.snpDone.farMem b.snp.port) (b.snpAddr + 64 + 16 * i) 16 = b.pairBytes (b.nrd R.SNP_FIRST + i)) := by
  rw [Body.snpDone_ok hb hw hr ha]
  have hbey := Body.beyond_snpPairs hp (b.nrd R.SNP_COUNT)
  have hmem := fun h1 h2 h3 h4 => (Body.snpPairs_mem (n := b.nrd R.SNP_COUNT) hp h1 h2 h3 h4).2
  generalize b.snpPairs (b.nrd R.SNP_COUNT) = c at *
  obtain ⟨h1, h2, h3, h4, h5⟩ := Body.snpClose_spec (b := c) b.snp.port
  have haddr : c.snpAddr = b.snpAddr := by rw [Body.snpAddr, hbey.nrd (by decide), hbey.nrd (by decide), Body.snpAddr]
  rw [haddr, hbey.snpHeader] at h5
  refine ⟨h1, h2, h3.trans (by rw [hbey.nrd (by decide)]), h4, ?_, fun k1 k2 k3 k4 i hi => ?_⟩
  · have := Mem.read_write (c.farMem b.snp.port) b.snpAddr b.snpHeader
    rw [Body.length_snpHeader] at this
    rw [h5, this]
  · rw [h5, Mem.read_write_beside _ _ _ _ _ (.inr (by rw [Body.length_snpHeader]; omega)), hmem k1 k2 k3 k4,
      Mem.read_chunks (fun _ _ => Body.length_pairBytes _) hi]

end

end Sys2Proof.Machine

namespace Sys2Proof
open Machine

/-- Settles O57: SNP_GO's cases, the start, the end and the failure of a snapshot, and the archive of a block. -/
theorem snapshotsAndEcho : Obligations.SnapshotsAndEcho := by
  unfold Obligations.SnapshotsAndEcho
  intro s
  have he := Body.echo_page
  refine ⟨fun m ht => ?_, fun hr => ⟨fun hw htime hready hbusy => ?_, fun hw htime hready => ?_, fun h => ?_⟩, fun hr hbusy hw => ⟨?_, fun hready hh => ?_, fun hq hready hh => ?_⟩,
    fun m v hv ht => ?_, fun k hk hr => ⟨fun hd => ?_, fun hd => ⟨fun hs => ?_, fun n hp hl hlate hf => ⟨fun hh => ?_, fun hh hready => ?_⟩⟩⟩⟩
  · obtain ⟨d, hd, hexec⟩ := exec_snpGo ht
    refine ⟨fun hbad => ?_, fun hbad => ⟨fun hat hv => ?_, fun hat hv htime => ?_, fun hat => ⟨fun hready => ?_, fun hready => ?_⟩⟩⟩
    · obtain ⟨h1, h2, h3, h4⟩ := hd.refused (Body.snpBad_of hbad)
      exact ⟨_, hexec, State.withBody_page_evt (by decide) (by decide) h1, (State.withBody_page (by decide) (by decide)).trans h2,
        State.withBody_snp.trans h3, State.withBody_keeps h4⟩
    · exact ⟨_, hexec, State.withBody_ended (hd.untimed hbad hat (by rw [Body.on, show s.dev.body.rd Pg.lamp R.TOD_VALID = 0 from hv]; rfl))⟩
    · have hgo := hd.armed hbad hat (by rw [Body.on, show s.dev.body.rd Pg.lamp R.TOD_VALID = 1 from hv]; rfl) htime
      refine ⟨_, hexec, ?_⟩
      rw [hgo, State.withBody_page (by decide) (by decide), State.withBody_page (by decide) (by decide), State.withBody_snp]
      exact ⟨Body.snpArmed_busy, Body.snpArmed_rc, rfl, hd.nrd (f := R.SNP_PORT) (by decide), State.withBody_keeps (hd.keeps.trans Body.snpArmed_keeps)⟩
    · have hgo := hd.begun hbad (hat.imp_right fun ⟨hv, h⟩ => ⟨by rw [Body.on, show s.dev.body.rd Pg.lamp R.TOD_VALID = 1 from hv]; rfl, h⟩)
      refine ⟨_, hexec, ?_⟩
      rw [hgo]
      exact State.withBody_ended (hd.unlinked hready)
    · have hgo := hd.begun hbad (hat.imp_right fun ⟨hv, h⟩ => ⟨by rw [Body.on, show s.dev.body.rd Pg.lamp R.TOD_VALID = 1 from hv]; rfl, h⟩)
      obtain ⟨h1, h2, h3, h4⟩ := hd.running hready
      refine ⟨_, hexec, ?_⟩
      rw [hgo]
      exact ⟨⟨(State.withBody_page (by decide) (by decide)).trans h1, (congrArg SnpSt.waiting State.withBody_snp).trans h2,
        (congrArg SnpSt.start State.withBody_snp).trans h3⟩, (congrArg SnpSt.port State.withBody_snp).trans h4⟩
  · have hstart : s.dev.body.snpStart = s.dev.body.snpBegin := if_pos ⟨hw, htime⟩
    obtain ⟨h1, h2⟩ := Body.snpBegin_runs hready
    refine ⟨_, State.body_withBody rfl hr hstart, ⟨?_, ?_, ?_⟩, fun k d hl hx hbad hue hcoded hk => ?_⟩
    · rw [State.withBody_page (by decide) (by decide)]
      exact h1.trans hbusy
    · rw [State.withBody_snp, h2]
    · rw [State.withBody_snp, h2]
    · obtain ⟨h3, h4⟩ := Body.snpBegin_line hready hl hx hbad hue hcoded hk
      refine ⟨?_, ?_⟩
      · rw [Body.statLine, State.withBody_rest.2.2.2.2.2.2.2.2.2.1]
        exact h3
      · rw [Body.pairMem_of_sump (b := s.dev.body.snpBegin) (by rw [State.withBody_mem])]
        exact h4
  · have hstart : s.dev.body.snpStart = s.dev.body.snpBegin := if_pos ⟨hw, htime⟩
    exact ⟨_, State.body_withBody rfl hr hstart, State.withBody_ended (Body.snpBegin_ended hready)⟩
  · refine State.body_self rfl hr (if_neg fun ⟨h1, h2⟩ => ?_)
    rcases h with h | h
    · exact Bool.false_ne_true (h.symm.trans h1)
    · omega
  · obtain ⟨h1, h2, h3⟩ := Body.snpAbort_spec (b := s.dev.body)
    exact ⟨_, State.body_withBody rfl hr (Body.snpFail_eq hbusy hw), State.withBody_ended h1, State.withBody_page_evt (by decide) (by decide) h2,
      State.withBody_page_flt (by decide) (by decide) h3⟩
  · obtain ⟨h1, h2, h3⟩ := Body.snpAbort_spec (b := { s.dev.body with far := { s.dev.body.far with armHold := s.dev.body.far.armHold.erase s.dev.body.snp.port } })
    exact ⟨_, State.body_withBody rfl hr (Body.snpDone_held hbusy hw hready hh), State.withBody_ended (h1.of rfl rfl), State.withBody_page_evt (by decide) (by decide) h2,
      State.withBody_page_flt (by decide) (by decide) h3⟩
  · obtain ⟨h1, h2, h3, h4, h5, h6⟩ := Body.snpDone_spec hbusy hw hq hready hh
    refine ⟨_, State.body_withBody rfl hr rfl, (State.withBody_page (by decide) (by decide)).trans h1, (State.withBody_page (by decide) (by decide)).trans h2,
      (State.withBody_page (by decide) (by decide)).trans h3, State.withBody_page_evt (by decide) (by decide) h4, ?_, fun k1 k2 k3 k4 i hi => ?_⟩
    · exact (congrArg (Mem.read · s.dev.body.snpAddr 64) (State.withBody_farMem s.dev.body.snp.port)).trans h5
    · exact (congrArg (Mem.read · (s.dev.body.snpAddr + 64 + 16 * i) 16) (State.withBody_farMem s.dev.body.snp.port)).trans (h6 k1 k2 k3 k4 i hi)
  · obtain ⟨h1, h2, h3⟩ := Body.echoSeedWrite_spec (b := s.dev.body) hv
    exact ⟨_, exec_echoSeedWrite hv ht, (State.withBody_page he.2 (by decide)).trans h1, by simpa using h2, State.withBody_keeps h3⟩
  · exact State.body_self (decide_eq_true hk) hr (Body.echoArchive_idle hd)
  · obtain ⟨h1, h2, ⟨h3, h3'⟩, h4, h5⟩ := Body.archStep_fire (b := s.dev.body) (i := ECHO_ARCH_SKIP) (e := R.ECHO_EVT_SKIP) (by decide) (by decide)
    refine ⟨_, State.body_withBody (decide_eq_true hk) hr (Body.echoArchive_skip hd hs), (State.withBody_ctr ..).trans h1, State.withBody_page_evt he.2 (by decide) h2,
      ⟨?_, (State.withBody_page he.2 (by decide)).trans h3'⟩, State.withBody_buf.trans h4, State.withBody_mem.trans h5⟩
    rw [(by simp : ∀ c, (s.withBody c).dev.body.echo = c.echo)]
    exact h3
  · obtain ⟨h1, h2, ⟨h3, h3'⟩, h4⟩ := Body.archFail_spec hk hd hp (not_or.2 ⟨hl, hlate⟩) hf hh
    refine ⟨_, State.body_withBody (decide_eq_true hk) hr rfl, (State.withBody_ctr ..).trans h1, State.withBody_page_flt he.2 (by decide) h2,
      ⟨?_, (State.withBody_page he.2 (by decide)).trans h3'⟩, State.withBody_mem.trans h4⟩
    rw [(by simp : ∀ c, (s.withBody c).dev.body.echo = c.echo)]
    exact h3
  · obtain ⟨i, hreq, hin, h1, h2, ⟨h3, h3'⟩, h4⟩ := Body.archCopy_spec hk hd hp (not_or.2 ⟨hl, hlate⟩) hf hh hready
    refine ⟨_, i, State.body_withBody (decide_eq_true hk) hr rfl, hreq, by rw [State.withBody_allocOf]; exact hin, (State.withBody_ctr ..).trans h1,
      State.withBody_page_evt he.2 (by decide) h2, ⟨?_, (State.withBody_page he.2 (by decide)).trans h3'⟩, fun hue hcoded j hj => ?_⟩
    · rw [(by simp : ∀ c, (s.withBody c).dev.body.echo = c.echo)]
      exact h3
    · exact (congrArg (Mem.read · (s.dev.body.bufAddr n i + 256 * j) 256) (State.withBody_farMem k)).trans (h4 hue hcoded j hj)

end Sys2Proof
end

section
/-! O54: how a table command of a ring is taken and completed (R439, R442). -/

namespace Sys2Proof.Machine

/-- A ring's turn taken: the ring is the last that began a job, where its job begins. -/
def Body.began (b : Body) (n : Nat) : Body :=
  { b with host := if (b.run n).idx = 0 ∧ ¬ (b.run n).waiting = true then { b.host with last := n } else b.host }

/-- The device with a ring's turn taken. -/
def Dev.began (d : Dev) (n : Nat) : Dev := { d with body := d.body.began n }

namespace Body

section
variable {b c : Body} {n : Nat}

theorem run_began : (b.began n).run n = b.run n := by
  show Sp.get {} (ite _ _ _ : HostSt).rings n = _
  split_ifs <;> rfl

/-- What a command leaves that its completion goes by. -/
structure Amid (n : Nat) (b c : Body) : Prop where
  run : c.run n = b.run n
  ring : ∀ f : Fld, f.lo < 32 → f.off < 0x1000 → c.rrd n f = b.rrd n f
  cmds : c.ctr Pg.hif HIF_CMDS = b.ctr Pg.hif HIF_CMDS
  errs : c.ctr (Pg.ring n) RING_CMD_ERR = b.ctr (Pg.ring n) RING_CMD_ERR

theorem amid_began : Amid n b (b.began n) := ⟨run_began, fun _ _ _ => rfl, rfl, rfl⟩

theorem Amid.trans {d : Body} (h : Amid n b c) (h' : Amid n c d) : Amid n b d :=
  ⟨h'.run.trans h.run, fun f h1 h2 => (h'.ring f h1 h2).trans (h.ring f h1 h2), h'.cmds.trans h.cmds, h'.errs.trans h.errs⟩

/-- A command that leaves the ring's page, the counters and the rings' work alone. -/
theorem Amid.of {ps : List Nat} (h : Keeps ps b c) (hp : Pg.ring n ∉ ps) (hh : c.host = b.host) : Amid n b c := by
  refine ⟨run_of_host hh, fun f h1 h2 => ?_, ctr_of_ctrs h.ctrs _ _, ctr_of_ctrs h.ctrs _ _⟩
  refine h.regs _ _ _ _ h1 (notedAt_big ?_) ?_
  · have := (Pg.ring_page n).1
    rw [Fld.addr_zero]
    omega
  · rw [ring_in n h2]
    exact hp

/-! The completion. -/

/-- Where the result of the entry at the ring's position goes. -/
def cmdAt (b : Body) (n : Nat) : Nat := (b.entryAddr n ((b.ringFront n + (b.run n).idx) % 2 ^ 32) + 12) % 2 ^ 64

theorem Amid.cmdAt (h : Amid n b c) : c.cmdAt n = b.cmdAt n := by
  simp only [Body.cmdAt, entryAddr, ringBase, ringSize, ringFront, h.run, h.ring R.RING_BASE_LO (by decide) (by decide),
    h.ring R.RING_BASE_HI (by decide) (by decide), h.ring R.RING_LOG2 (by decide) (by decide), h.ring R.RING_KIND (by decide) (by decide),
    h.ring R.RING_CONS (by decide) (by decide)]

/-- The ring's work after the entry. -/
def ranOn (x : RingRun) (len status : Nat) : RingRun :=
  if x.idx + 1 = len then { x with idx := 0, failed := false, waiting := false, done := x.done ++ [(len, 0)] }
  else { x with idx := x.idx + 1, failed := x.failed || status != CMD_OK, waiting := false }

/-- The result `x` written at `a` and the command counted. -/
def cmdCounted (b : Body) (n a : Nat) (x : List Byte) (good : Prop) [Decidable good] : Body :=
  if good then (b.hostWrite a x).count Pg.hif HIF_CMDS else ((b.hostWrite a x).count Pg.hif HIF_CMDS).count (Pg.ring n) RING_CMD_ERR

section
variable {a : Nat} {x : List Byte} {good : Prop} [Decidable good]

theorem cmdCounted_rest : (b.cmdCounted n a x good).regs = b.regs ∧ (b.cmdCounted n a x good).tbls = b.tbls ∧
    (b.cmdCounted n a x good).cairn = b.cairn ∧ (b.cmdCounted n a x good).host = b.host ∧
    (b.cmdCounted n a x good).mem = { b.mem with host := Mem.write b.mem.host (a % 2 ^ 64) x } := by
  unfold cmdCounted hostWrite
  generalize a % 2 ^ 64 = a'
  by_cases h : good
  · rw [if_pos h]
    exact ⟨rfl, rfl, rfl, rfl, rfl⟩
  · rw [if_neg h]
    exact ⟨rfl, rfl, rfl, rfl, rfl⟩

theorem cmdCounted_ctr : (b.cmdCounted n a x good).ctr Pg.hif HIF_CMDS = (b.ctr Pg.hif HIF_CMDS + 1) % 2 ^ 64 ∧
    (¬ good → (b.cmdCounted n a x good).ctr (Pg.ring n) RING_CMD_ERR = (b.ctr (Pg.ring n) RING_CMD_ERR + 1) % 2 ^ 64) ∧
    (good → (b.cmdCounted n a x good).ctr (Pg.ring n) RING_CMD_ERR = b.ctr (Pg.ring n) RING_CMD_ERR) := by
  have hne : Pg.ring n ≠ Pg.hif := by
    unfold Pg.ring Pg.hif
    omega
  have h0 : ∀ p i, (b.hostWrite a x).ctr p i = b.ctr p i := fun p i => ctr_of_ctrs rfl p i
  have h1 : ((b.hostWrite a x).count Pg.hif HIF_CMDS).ctr (Pg.ring n) RING_CMD_ERR = b.ctr (Pg.ring n) RING_CMD_ERR := by
    rw [ctr_count _ _ _ _ _ _ (by decide) (by decide), if_neg fun h => hne h.1, h0]
  have h2 : ((b.hostWrite a x).count Pg.hif HIF_CMDS).ctr Pg.hif HIF_CMDS = (b.ctr Pg.hif HIF_CMDS + 1) % 2 ^ 64 := by
    rw [ctr_count_self (by decide), h0]
  unfold cmdCounted
  generalize (b.hostWrite a x).count Pg.hif HIF_CMDS = c at *
  by_cases h : good
  · rw [if_pos h]
    exact ⟨h2, fun h' => absurd h h', fun _ => h1⟩
  · rw [if_neg h]
    refine ⟨?_, fun _ => (ctr_count_self (by decide)).trans (by rw [h1]), fun h' => absurd h' h⟩
    rw [ctr_count _ _ _ _ _ _ (by decide) (by decide), if_neg fun h => hne h.1.symm, h2]

end

/-- The bytes of a command's result. -/
def cmdBytes (status value : Nat) : List Byte := leBytes 4 (status * 2 ^ 28 + value % 2 ^ 28)

theorem length_cmdBytes (status value : Nat) : (cmdBytes status value).length = 4 := length_leBytes ..

/-- Where the engine writes the result of the entry at position `i` of the ring's job. -/
def cmdPlace (b : Body) (n i : Nat) : Nat := b.entryAddr n ((b.ringFront n + i) % 2 ^ 32) + 12

theorem cmdComplete_eq (i len status value : Nat) : b.cmdComplete n i len status value =
    (let c := b.cmdCounted n (b.cmdPlace n i) (cmdBytes status value) (status = CMD_OK)
     if i + 1 = len then c.setRun n { c.run n with idx := 0, failed := false, waiting := false, done := (c.run n).done ++ [(len, 0)] }
     else c.setRun n { c.run n with idx := i + 1, failed := (c.run n).failed || status != CMD_OK, waiting := false }) := by
  unfold cmdComplete cmdCounted
  rw [← cmdBytes, ← cmdPlace]

/-- A completion: the result and its count, and the job moved on. -/
theorem cmdComplete_spec (len status value : Nat) : ∃ c, c = b.cmdCounted n (b.cmdPlace n (b.run n).idx) (cmdBytes status value) (status = CMD_OK) ∧
    b.cmdComplete n (b.run n).idx len status value = c.setRun n (ranOn (b.run n) len status) := by
  refine ⟨_, rfl, ?_⟩
  rw [cmdComplete_eq]
  obtain ⟨-, -, -, hhost, -⟩ := cmdCounted_rest (b := b) (n := n) (a := b.cmdPlace n (b.run n).idx) (x := cmdBytes status value) (good := status = CMD_OK)
  generalize b.cmdCounted n (b.cmdPlace n (b.run n).idx) (cmdBytes status value) (status = CMD_OK) = c at *
  unfold ranOn
  dsimp only
  rw [run_of_host hhost]
  by_cases h : (b.run n).idx + 1 = len
  · rw [if_pos h, if_pos h]
  · rw [if_neg h, if_neg h]

end

end Body

/-- A table command complete: its result stands in the entry, it is counted, and the job goes on (R439, R442). -/
def State.Finished (s t : State) (n len st v : Nat) : Prop :=
  Mem.read t.dev.body.mem.host (s.dev.body.cmdAt n) 4 = leBytes 4 (st * 2 ^ 28 + v % 2 ^ 28) ∧
  t.ctr Pg.hif HIF_CMDS = (s.ctr Pg.hif HIF_CMDS + 1) % 2 ^ 64 ∧
  t.ctr (Pg.ring n) RING_CMD_ERR = (s.ctr (Pg.ring n) RING_CMD_ERR + (if st = CMD_OK then 0 else 1)) % 2 ^ 64 ∧
  (t.dev.body.run n).idx = (if (s.dev.body.run n).idx + 1 = len then 0 else (s.dev.body.run n).idx + 1) ∧ (t.dev.body.run n).waiting = false ∧
  (t.dev.body.run n).done = (if (s.dev.body.run n).idx + 1 = len then (s.dev.body.run n).done ++ [(len, 0)] else (s.dev.body.run n).done)

section
variable {s : State} {c : Body} {n len st v : Nat}

/-- A command that leaves its ring's work alone is completed. -/
theorem State.withBody_finished (h : Body.Amid n s.dev.body c) (he : s.ctr (Pg.ring n) RING_CMD_ERR < 2 ^ 64) :
    ∃ d, c.cmdComplete n (s.dev.body.run n).idx len st v = d ∧ s.Finished (s.withBody d) n len st v ∧ d.regs = c.regs ∧ d.tbls = c.tbls ∧ d.cairn = c.cairn ∧
      d.mem = { c.mem with host := Mem.write c.mem.host (s.dev.body.cmdAt n) (Body.cmdBytes st v) } := by
  obtain ⟨d, hd, hc⟩ := Body.cmdComplete_spec (b := c) (n := n) len st v
  obtain ⟨hregs, htbls, hcairn, -, hmem⟩ := Body.cmdCounted_rest (b := c) (n := n) (a := c.cmdPlace n (c.run n).idx) (x := Body.cmdBytes st v) (good := st = CMD_OK)
  obtain ⟨h1, h2, h3⟩ := Body.cmdCounted_ctr (b := c) (n := n) (a := c.cmdPlace n (c.run n).idx) (x := Body.cmdBytes st v) (good := st = CMD_OK)
  rw [← hd] at hregs htbls hcairn hmem h1 h2 h3
  have hat : c.cmdPlace n (c.run n).idx % 2 ^ 64 = s.dev.body.cmdAt n := h.cmdAt
  rw [hat] at hmem
  rw [h.run] at hc
  refine ⟨_, hc, ⟨?_, ?_, ?_, ?_⟩, hregs, htbls, hcairn, hmem⟩
  · rw [State.withBody_mem, show (d.setRun n _).mem = d.mem from rfl, hmem]
    have := Mem.read_write c.mem.host (s.dev.body.cmdAt n) (Body.cmdBytes st v)
    rwa [Body.length_cmdBytes] at this
  · rw [State.withBody_ctr]
    exact h1.trans (by rw [h.cmds]; rfl)
  · rw [State.withBody_ctr]
    by_cases hs : st = CMD_OK
    · rw [if_pos hs, Nat.add_zero, Nat.mod_eq_of_lt he]
      exact (h3 hs).trans h.errs
    · rw [if_neg hs]
      exact (h2 hs).trans (by rw [h.errs]; rfl)
  · rw [State.withBody_run, Body.run_setRun]
    unfold Body.ranOn
    split_ifs <;> exact ⟨rfl, rfl, rfl⟩

end

/-! The command in its turn. -/

section
variable {d : Dev} {n row : Nat} {f : Dev → List Byte → List (List Byte) → Bool → Dev × CmdRes} {l rest : List (List Byte)} {e : List Byte}

theorem Dev.tblCmd_idle (h : d.body.cmdReady n = false ∨ d.body.cmdTurn n = false) : d.tblCmd n row f = d := by
  unfold Dev.tblCmd
  generalize d.body.jobAt n = r
  refine if_pos ?_
  rcases h with h | h
  · exact .inl (by simp [h])
  · exact .inr (by simp [h])

/-- A ring whose turn it is, and the entry that is next in its job. -/
structure Body.Turn (b : Body) (n : Nat) (l : List (List Byte)) (e : List Byte) (rest : List (List Byte)) : Prop where
  ready : b.cmdReady n = true
  turn : b.cmdTurn n = true
  job : b.jobAt n = .job l
  next : l.drop (b.run n).idx = e :: rest

/-- Whether the entry is skipped after a failure (R442). -/
def Body.skips (b : Body) (n : Nat) (l : List (List Byte)) : Prop := (b.run n).failed = true ∧ (l.head?.map cmdStop).getD false = true

theorem Dev.began_eq : d.began n =
    if (d.body.run n).idx = 0 ∧ ¬ (d.body.run n).waiting = true then { d with body := { d.body with host := { d.body.host with last := n } } } else d := by
  unfold Dev.began Body.began
  by_cases h : (d.body.run n).idx = 0 ∧ ¬ (d.body.run n).waiting = true
  · rw [if_pos h, if_pos h]
  · rw [if_neg h, if_neg h]

/-- The entry `e` of a ring's job of `len` entries, taken in its turn: executed, or skipped. -/
def Dev.cmdTaken (d : Dev) (n row len : Nat) (f : Dev → List Byte → List (List Byte) → Bool → Dev × CmdRes) (stop : Bool) (e : List Byte)
    (rest : List (List Byte)) : Dev :=
  if cmdRow (cmdOp e) ≠ row then d
  else if (d.body.run n).failed ∧ stop then { d with body := (d.body.began n).cmdComplete n (d.body.run n).idx len CMD_SKIPPED 0 }
  else match f (d.began n) e rest (d.body.run n).waiting with
    | (d', .done st v) => { d' with body := d'.body.cmdComplete n (d.body.run n).idx len st v }
    | (d', .wait) => { d' with body := d'.body.setRun n { (d'.body.run n) with waiting := true } }

theorem Dev.tblCmd_turn (h : d.body.Turn n l e rest) : d.tblCmd n row f = d.cmdTaken n row l.length f ((l.head?.map cmdStop).getD false) e rest := by
  have hgo : ¬ (¬ d.body.cmdReady n = true ∨ ¬ d.body.cmdTurn n = true) := by simp [h.ready, h.turn]
  have hjob := h.job
  have hnext := h.next
  have hbegan := Dev.began_eq (d := d) (n := n)
  unfold Dev.tblCmd
  refine (if_neg hgo).trans ?_
  generalize d.body.jobAt n = r at hjob ⊢
  subst hjob
  show (match l.drop (d.body.run n).idx with | [] => d | e :: rest => _) = _
  generalize l.drop (d.body.run n).idx = k at hnext ⊢
  subst hnext
  dsimp only at hbegan ⊢
  rw [← hbegan]
  rfl

theorem Dev.tblCmd_other (h : d.body.Turn n l e rest) (hrow : cmdRow (cmdOp e) ≠ row) : d.tblCmd n row f = d := by
  rw [Dev.tblCmd_turn h, Dev.cmdTaken, if_pos hrow]

theorem Dev.tblCmd_skipped (h : d.body.Turn n l e rest) (hrow : cmdRow (cmdOp e) = row) (hs : d.body.skips n l) : d.tblCmd n row f =
    { d with body := (d.body.began n).cmdComplete n (d.body.run n).idx l.length CMD_SKIPPED 0 } := by
  rw [Dev.tblCmd_turn h, Dev.cmdTaken, if_neg (not_not.2 hrow), if_pos (show _ ∧ _ from hs)]

theorem Dev.tblCmd_done {c : Body} {st v : Nat} (h : d.body.Turn n l e rest) (hrow : cmdRow (cmdOp e) = row) (hs : ¬ d.body.skips n l)
    (hf : f (d.began n) e rest (d.body.run n).waiting = ({ d with body := c }, .done st v)) : d.tblCmd n row f =
    { d with body := c.cmdComplete n (d.body.run n).idx l.length st v } := by
  rw [Dev.tblCmd_turn h, Dev.cmdTaken, if_neg (not_not.2 hrow), if_neg (show ¬ (_ ∧ _) from hs), hf]

theorem Dev.tblCmd_waits {c : Body} (h : d.body.Turn n l e rest) (hrow : cmdRow (cmdOp e) = row) (hs : ¬ d.body.skips n l)
    (hf : f (d.began n) e rest (d.body.run n).waiting = ({ d with body := c }, .wait)) : d.tblCmd n row f =
    { d with body := c.setRun n { (c.run n) with waiting := true } } := by
  rw [Dev.tblCmd_turn h, Dev.cmdTaken, if_neg (not_not.2 hrow), if_neg (show ¬ (_ ∧ _) from hs), hf]

end

section
variable {s : State} {n row : Nat} {f : Dev → List Byte → List (List Byte) → Bool → Dev × CmdRes} {l rest : List (List Byte)} {e : List Byte}

/-- A table command of a ring, as the engine takes it. -/
def State.ringCmd (s : State) (n row : Nat) (f : Dev → List Byte → List (List Byte) → Bool → Dev × CmdRes) : Host.Outcome State Fault Refusal :=
  s.live (decide (n < 240)) [3] fun d => d.tblCmd n row f

theorem State.ringCmd_done {c : Body} {st v : Nat} (hn : n < 240) (hr : s.runs [3]) (hc : s.ctr (Pg.ring n) RING_CMD_ERR < 2 ^ 64)
    (h : s.dev.body.Turn n l e rest) (hrow : cmdRow (cmdOp e) = row) (hs : ¬ s.dev.body.skips n l)
    (hf : f (s.dev.began n) e rest (s.dev.body.run n).waiting = ({ s.dev with body := c }, .done st v)) (ha : Body.Amid n s.dev.body c) :
    ∃ d, s.ringCmd n row f = .next (s.withBody d) ∧ s.Finished (s.withBody d) n l.length st v ∧ d.regs = c.regs ∧ d.tbls = c.tbls ∧ d.cairn = c.cairn ∧
      d.mem = { c.mem with host := Mem.write c.mem.host (s.dev.body.cmdAt n) (Body.cmdBytes st v) } := by
  obtain ⟨d, hd, hspec⟩ := State.withBody_finished (len := l.length) (st := st) (v := v) ha hc
  exact ⟨d, State.live_withBody (decide_eq_true hn) hr (hd ▸ Dev.tblCmd_done h hrow hs hf), hspec⟩

theorem State.ringCmd_skipped (hn : n < 240) (hr : s.runs [3]) (hc : s.ctr (Pg.ring n) RING_CMD_ERR < 2 ^ 64)
    (h : s.dev.body.Turn n l e rest) (hrow : cmdRow (cmdOp e) = row) (hs : s.dev.body.skips n l) :
    ∃ d, s.ringCmd n row f = .next (s.withBody d) ∧ s.Finished (s.withBody d) n l.length CMD_SKIPPED 0 ∧ d.regs = s.dev.body.regs ∧ d.tbls = s.dev.body.tbls := by
  obtain ⟨d, hd, h1, h2, h3, -⟩ := State.withBody_finished (len := l.length) (st := CMD_SKIPPED) (v := 0) (c := s.dev.body.began n) Body.amid_began hc
  exact ⟨d, State.live_withBody (decide_eq_true hn) hr (hd ▸ Dev.tblCmd_skipped h hrow hs), h1, h2, h3⟩

theorem State.ringCmd_waits {c : Body} (hn : n < 240) (hr : s.runs [3]) (h : s.dev.body.Turn n l e rest) (hrow : cmdRow (cmdOp e) = row)
    (hs : ¬ s.dev.body.skips n l) (hf : f (s.dev.began n) e rest (s.dev.body.run n).waiting = ({ s.dev with body := c }, .wait))
    (ha : c.run n = s.dev.body.run n) :
    ∃ d, s.ringCmd n row f = .next (s.withBody d) ∧ ((s.withBody d).dev.body.run n).waiting = true ∧ ((s.withBody d).dev.body.run n).idx = (s.dev.body.run n).idx ∧
      d.regs = c.regs ∧ d.tbls = c.tbls ∧ d.mem = c.mem := by
  refine ⟨_, State.live_withBody (decide_eq_true hn) hr (Dev.tblCmd_waits h hrow hs hf), ?_, ?_, rfl, rfl, rfl⟩
  · rw [State.withBody_run, Body.run_setRun]
  · rw [State.withBody_run, Body.run_setRun, ha]

theorem State.ringCmd_same (hn : n < 240) (hr : s.runs [3]) (h : s.dev.tblCmd n row f = s.dev) : s.ringCmd n row f = .next s :=
  State.live_self (decide_eq_true hn) hr h

end

end Sys2Proof.Machine
end

section
/-! O54: the commands that read and write entries and registers (R440, R441). -/

namespace Sys2Proof.Machine

/-! Words of an entry. -/

/-- A word set above a run of words. -/
theorem setBitField_word (v w x : Nat) : setBitField v (32 * w + 31) (32 * w) x % 2 ^ (32 * w + 32) = v % 2 ^ (32 * w) + 2 ^ (32 * w) * (x % 2 ^ 32) := by
  unfold setBitField bitField
  rw [show 32 * w + 31 + 1 - 32 * w = 32 by omega, Nat.pow_add]
  generalize 2 ^ (32 * w) = p
  have hv := Nat.mod_add_div v p
  have hq := Nat.mod_add_div (v / p) (2 ^ 32)
  have hle : v / p % 2 ^ 32 * p ≤ v := by
    calc v / p % 2 ^ 32 * p ≤ v / p * p := Nat.mul_le_mul_right _ (Nat.mod_le _ _)
      _ ≤ v := Nat.div_mul_le_self v p
  have hsub : v - v / p % 2 ^ 32 * p = v % p + p * (2 ^ 32 * (v / p / 2 ^ 32)) := by
    have hmul : p * (v / p) = p * (v / p % 2 ^ 32) + p * (2 ^ 32 * (v / p / 2 ^ 32)) := by rw [← Nat.mul_add, hq]
    rw [Nat.mul_comm _ p]
    omega
  rw [hsub, show v % p + p * (2 ^ 32 * (v / p / 2 ^ 32)) + x % 2 ^ 32 * p = v % p + p * (x % 2 ^ 32) + p * 2 ^ 32 * (v / p / 2 ^ 32) by ring,
    Nat.add_mul_mod_self_left]
  rcases Nat.eq_zero_or_pos p with rfl | hp
  · simp
  · refine Nat.mod_eq_of_lt ?_
    have h1 := Nat.mod_lt v hp
    have h2 : x % 2 ^ 32 < 2 ^ 32 := Nat.mod_lt _ (by decide)
    calc v % p + p * (x % 2 ^ 32) < p + p * (x % 2 ^ 32) := Nat.add_lt_add_right h1 _
      _ = p * (x % 2 ^ 32 + 1) := by ring
      _ ≤ p * 2 ^ 32 := Nat.mul_le_mul_left _ h2

/-- The words of a value. -/
def wordsOf (v k : Nat) : List (Nat × Nat) := (List.range k).map fun w => (w, bitField v (32 * w + 31) (32 * w))

/-- An entry with the words of a value over it holds the value there. -/
theorem overWords_wordsOf (base v k : Nat) : Body.overWords base (wordsOf v k) % 2 ^ (32 * k) = v % 2 ^ (32 * k) := by
  induction k with
  | zero => simp [Nat.mod_one]
  | succ k ih =>
    have hstep : Body.overWords base (wordsOf v (k + 1)) =
        setBitField (Body.overWords base (wordsOf v k)) (32 * k + 31) (32 * k) (bitField v (32 * k + 31) (32 * k)) := by
      rw [wordsOf, List.range_succ, List.map_append, Body.overWords, List.foldl_append]
      rfl
    rw [hstep, Nat.mul_succ, setBitField_word, ih, bitField, show 32 * k + 31 + 1 - 32 * k = 32 by omega, Nat.mod_mod, Nat.pow_add, Nat.mod_mul]

namespace Body

section
variable {b c d : Body} {n tid i v : Nat}

theorem Amid.refl (b : Body) : Amid n b b := ⟨rfl, fun _ _ _ => rfl, rfl, rfl⟩

theorem Amid.same (h : Amid n b c) (hr : d.regs = c.regs) (hc : d.ctrs = c.ctrs) (hh : d.host = c.host) : Amid n b d :=
  h.trans ⟨run_of_host hh, fun _ _ _ => rd_of_regs hr _ _ _ _, ctr_of_ctrs hc _ _, ctr_of_ctrs hc _ _⟩

/-- A count of a page with its event. -/
theorem amid_told {p : Nat} {f : Fld} {e : Nat} (hp : p % 0x1000 = 0 ∧ p < 0xE00000) (hf : f.lo < 32 ∧ f.off < 0x1000) (he : e < 32) :
    Amid n b ((b.sat p f).fire p e) := by
  have hpage : pageOf (f.addr p 0 0) = p := by
    rw [Fld.addr_zero, pageOf]
    omega
  have hk : Keeps [p] b ((b.sat p f).fire p e) := Keeps.fire (Keeps.sat (.refl b) hf.1 (by rw [hpage]; exact List.mem_singleton_self _)) he hp.1 (List.mem_singleton_self _)
  refine .of hk ?_ (by simp)
  rw [List.mem_singleton]
  unfold Pg.ring
  omega

theorem amid_fire {p e : Nat} (hp : p % 0x1000 = 0 ∧ p < 0xE00000) (he : e < 32) : Amid n b (b.fire p e) := by
  refine .of (Keeps.fire (.refl b) he hp.1 (List.mem_singleton_self _)) ?_ (by simp)
  rw [List.mem_singleton]
  unfold Pg.ring
  omega

theorem amid_putEnt : Amid n b (b.putEnt tid i v) := by
  refine .same (.refl b) ?_ ?_ ?_ <;>
  · unfold putEnt
    dsimp only
    split_ifs <;> rfl

/-! WRITE_ENTRY. -/

/-- A write of a next-hop or ECMP entry is always in force (R22). -/
theorem entWrite_hop (h : tid = Tbl.nh ∨ tid = Tbl.ecmp) : b.entWrite tid i v =
    (((b.putEnt tid i v).digMark (lineRegions tid i)).discardOld (.ent tid i), true) := by
  rcases h with rfl | rfl <;> rfl

theorem entNow_hop (h : tid = Tbl.nh ∨ tid = Tbl.ecmp) : b.entNow tid i = b.ent tid i := by
  rcases h with rfl | rfl <;> rfl

theorem entCommit_hop {a stride : Nat} {l : List (Nat × Nat)} (h : tid = Tbl.nh ∨ tid = Tbl.ecmp) (hi : b.boundSlot Master.host = none) :
    b.entCommit Master.host a tid i stride l = b.entWrite tid i (overWords (b.ent tid i) l) := by
  have hput : ∀ v keep, b.entPutBy Master.host a tid i v keep = b.entWrite tid i v := fun v keep => by rw [entPutBy, hi]
  have hnow := entNow_hop (b := b) (i := i) h
  rcases h with rfl | rfl <;> exact (hput _ _).trans (by rw [asmBase, if_neg Bool.false_ne_true, hnow])

/-- An entry written with its parity, digest and version. -/
theorem hopPut_spec : (((b.putEnt tid i v).digMark (lineRegions tid i)).discardOld (.ent tid i)).ent tid i = v ∧
    (∀ u j, entKey u j ≠ entKey tid i → (((b.putEnt tid i v).digMark (lineRegions tid i)).discardOld (.ent tid i)).ent u j = b.ent u j) ∧
    Amid n b (((b.putEnt tid i v).digMark (lineRegions tid i)).discardOld (.ent tid i)) := by
  have ha := amid_putEnt (n := n) (b := b) (tid := tid) (i := i) (v := v)
  obtain ⟨h1, h2⟩ := putEnt_ent (b := b) (tid := tid) (n := i) (v := v)
  generalize b.putEnt tid i v = c at *
  exact ⟨h1, h2, ha.same rfl rfl rfl⟩

/-! READ_ENTRY. -/

theorem amid_exmParity (x : XLoc) : Amid n b (b.exmParity [x]) := by
  unfold exmParity
  rw [List.foldl_cons, List.foldl_nil]
  dsimp only
  split_ifs
  · exact amid_told (by decide) (by decide) (by decide)
  · exact .refl b

theorem tbls_exmParity (x : XLoc) : (b.exmParity [x]).tbls = b.tbls ∧ (b.exmParity [x]).mem = b.mem := by
  unfold exmParity
  rw [List.foldl_cons, List.foldl_nil]
  dsimp only
  split_ifs <;> simp

/-- What a read of an entry outside the statistics and the policers leaves. -/
theorem parityRead_spec (ht : tid ≠ Tbl.pol) : Amid n b (b.parityRead tid i) ∧ (b.parityRead tid i).tbls = b.tbls ∧ (b.parityRead tid i).mem = b.mem := by
  unfold parityRead
  split_ifs
  · exact ⟨amid_exmParity _, tbls_exmParity _⟩
  · exact ⟨amid_exmParity _, tbls_exmParity _⟩
  · exact ⟨amid_told (by decide) (by decide) (by decide), by simp [lpmParity], by simp [lpmParity]⟩
  · exact ⟨amid_told (by decide) (by decide) (by decide), by simp [nhParity], by simp [nhParity]⟩
  · exact ⟨.refl b, rfl, rfl⟩
  · exact ⟨.refl b, rfl, rfl⟩

theorem entShow_plain (h1 : 1 ≤ tid) (h8 : tid ≤ 8) : b.entShow tid i = (b.parityRead tid i, (b.parityRead tid i).ent tid i) := by
  interval_cases tid <;> rfl

/-! DS_ADD. -/

theorem entWrite_ds (hok : dsLen v ≤ famBits (dsAf v)) : b.entWrite Tbl.ds i v =
    ((b.putEnt Tbl.ds i (setBitField v 199 192 (dsGen (b.ent Tbl.ds i) + 1))).dsHigh.discardOld (.ent Tbl.ds i), true) := by
  have hr : entRefused b (b.setEnt Tbl.ds i (b.entStored Tbl.ds i v)) Tbl.ds i v = [] :=
    if_neg (by rw [Bool.and_eq_true, decide_eq_true_eq]; omega)
  unfold entWrite
  rw [hr]
  rfl

theorem entWrite_ds_refused (hv : dsValid v = true) (hbad : famBits (dsAf v) < dsLen v) : b.entWrite Tbl.ds i v = (b.fire Pg.ds R.DS_EVT_BADENT, false) := by
  have hr : entRefused b (b.setEnt Tbl.ds i (b.entStored Tbl.ds i v)) Tbl.ds i v = [(Pg.ds, R.DS_EVT_BADENT)] :=
    if_pos (by rw [Bool.and_eq_true, decide_eq_true_eq]; exact ⟨hv, hbad⟩)
  unfold entWrite
  rw [hr]
  rfl

theorem dsPut_spec : ((b.putEnt Tbl.ds i v).dsHigh.discardOld (.ent Tbl.ds i)).ent Tbl.ds i = v ∧
    Amid n b ((b.putEnt Tbl.ds i v).dsHigh.discardOld (.ent Tbl.ds i)) := by
  have ha := amid_putEnt (n := n) (b := b) (tid := Tbl.ds) (i := i) (v := v)
  obtain ⟨h1, -⟩ := putEnt_ent (b := b) (tid := Tbl.ds) (n := i) (v := v)
  generalize b.putEnt Tbl.ds i v = c at *
  have hk : Keeps [Pg.ds] c c.dsHigh := Keeps.holdEvent (.refl c) (by decide) (by decide) (List.mem_singleton_self _)
  have hh : c.dsHigh.host = c.host := by
    unfold dsHigh holdEvent
    split_ifs <;> simp
  have ha' : Amid n b c.dsHigh := ha.trans (.of hk (by rw [List.mem_singleton]; unfold Pg.ring Pg.ds; omega) hh)
  have ht := hk.tbls
  generalize c.dsHigh = d at *
  exact ⟨(ent_of_tbls ht _ _).trans h1, ha'.same rfl rfl rfl⟩

end

end Body

end Sys2Proof.Machine
end

section
/-! O54: each command's effect in its turn (R440, R441). -/

namespace Sys2Proof.Machine

section
variable {D : Dev} {e : List Byte} {rest : List (List Byte)} {w : Bool} {n tid : Nat}

/-! WRITE_ENTRY and READ_ENTRY. -/

theorem cmdEntryOk_iff : Body.cmdEntryOk e = true ↔ 1 ≤ cmdArg e % 256 ∧ cmdArg e % 256 ≤ 10 ∧ cmdTarget e < tblCount (cmdArg e % 256) := by
  rw [Body.cmdEntryOk, decide_eq_true_eq]

theorem cmdEntry_bad (h : cmdArg e % 256 = 0 ∨ 10 < cmdArg e % 256 ∨ tblCount (cmdArg e % 256) ≤ cmdTarget e) : ¬ Body.cmdEntryOk e = true := by
  rw [cmdEntryOk_iff]
  omega

theorem Dev.cmdWriteEntry_bad (h : ¬ Body.cmdEntryOk e = true) : D.cmdWriteEntry e rest w = (D, .done CMD_BAD_TARGET 0) := if_pos h

theorem Dev.cmdReadEntry_bad (h : ¬ Body.cmdEntryOk e = true) : D.cmdReadEntry e rest w = (D, .done CMD_BAD_TARGET 0) := if_pos h

/-- WRITE_ENTRY of a next hop or of an ECMP line (R441). -/
theorem Dev.cmdWriteEntry_hop (ht : cmdArg e % 256 = tid) (hhop : tid = Tbl.nh ∨ tid = Tbl.ecmp) (hok : cmdTarget e < tblCount tid)
    (hl : 16 ≤ (cmdData e).length) (hi : D.body.boundSlot Master.host = none) :
    ∃ c, D.cmdWriteEntry e rest w = ({ D with body := c }, .done CMD_OK 0) ∧ c.ent tid (cmdTarget e) % 2 ^ 128 = leNat ((cmdData e).take 16) ∧
      (∀ u j, entKey u j ≠ entKey tid (cmdTarget e) → c.ent u j = D.body.ent u j) ∧ Body.Amid n D.body c := by
  have hgood : Body.cmdEntryOk e = true := by
    rw [cmdEntryOk_iff, ht]
    rcases hhop with rfl | rfl <;> exact ⟨by decide, by decide, hok⟩
  have hstride : tblStride tid = 16 := by rcases hhop with rfl | rfl <;> rfl
  have hlen : ¬ (cmdAllData e rest).length < 16 := by
    rw [cmdAllData, List.length_append]
    omega
  have htake : (cmdAllData e rest).take 16 = (cmdData e).take 16 := by rw [cmdAllData, List.take_append_of_le_length hl]
  have hlt : leNat ((cmdData e).take 16) < 2 ^ 128 := by
    have := leNat_lt ((cmdData e).take 16)
    rwa [List.length_take, Nat.min_eq_left hl] at this
  obtain ⟨h1, h2, h3⟩ := Body.hopPut_spec (n := n) (b := D.body) (tid := tid) (i := cmdTarget e)
    (v := Body.overWords (D.body.ent tid (cmdTarget e)) (wordsOf (leNat ((cmdData e).take 16)) 4))
  refine ⟨_, ?_, ?_, h2, h3⟩
  · unfold Dev.cmdWriteEntry
    rw [if_neg (not_not.2 hgood)]
    dsimp only
    rw [ht, hstride, if_neg hlen, htake]
    dsimp only
    rw [Nat.mul_zero, Nat.add_zero, Body.entCommit_hop hhop hi, Body.entWrite_hop hhop]
    rfl
  · rw [h1]
    exact (overWords_wordsOf _ _ 4).trans (Nat.mod_eq_of_lt hlt)

/-- READ_ENTRY (R440). -/
theorem Dev.cmdReadEntry_ok (ht : cmdArg e % 256 = tid) (h1 : 1 ≤ tid) (h8 : tid ≤ 8) (hok : cmdTarget e < tblCount tid) :
    ∃ c, D.cmdReadEntry e rest w = ({ D with body := c }, .done CMD_OK 0) ∧ c.tbls = D.body.tbls ∧ Body.Amid n D.body c ∧
      c.mem.host = Mem.write D.body.mem.host (leNat ((cmdData e).take 8) % 2 ^ 64) (leBytes (tblStride tid) (D.body.ent tid (cmdTarget e))) := by
  have hgood : Body.cmdEntryOk e = true := by
    rw [cmdEntryOk_iff, ht]
    exact ⟨h1, by omega, hok⟩
  obtain ⟨ha, htbls, hmem⟩ := Body.parityRead_spec (n := n) (b := D.body) (tid := tid) (i := cmdTarget e) (by unfold Tbl.pol; omega)
  have hent : (D.body.parityRead tid (cmdTarget e)).ent tid (cmdTarget e) = D.body.ent tid (cmdTarget e) := Body.ent_of_tbls htbls _ _
  have hshow := Body.entShow_plain (b := D.body) (i := cmdTarget e) h1 h8
  rw [hent] at hshow
  generalize D.body.parityRead tid (cmdTarget e) = d at *
  refine ⟨d.hostWrite (leNat ((cmdData e).take 8)) (leBytes (tblStride tid) (D.body.ent tid (cmdTarget e))), ?_, htbls, ha.same rfl rfl rfl, ?_⟩
  · unfold Dev.cmdReadEntry
    rw [if_neg (not_not.2 hgood)]
    dsimp only
    rw [ht, hshow]
  · unfold Body.hostWrite
    rw [hmem]

/-! DS_ADD. -/

theorem Dev.cmdDsAdd_waits (h : D.body.dsAddAt = none) : D.cmdDsAdd e rest w = (D, .wait) := by
  unfold Dev.cmdDsAdd
  rw [h]

/-- The entry that DS_ADD adds. -/
def dsAdded (e : List Byte) : Nat := setBitField (leNat ((cmdData e).take 32)) 255 255 1

theorem dsAdded_valid : dsValid (dsAdded e) = true := by
  rw [dsValid, dsAdded, bitOn_setBitField, if_pos rfl]
  rfl

theorem Dev.cmdDsAdd_ok {i : Nat} (h : D.body.dsAddAt = some i) (hi : D.body.boundSlot Master.host = none)
    (hok : dsLen (dsAdded e) ≤ famBits (dsAf (dsAdded e))) : ∃ c, D.cmdDsAdd e rest w = ({ D with body := c }, .done CMD_OK i) ∧
      c.ent Tbl.ds i = setBitField (dsAdded e) 199 192 (dsGen (D.body.ent Tbl.ds i) + 1) ∧ Body.Amid n D.body c := by
  obtain ⟨h1, h2⟩ := Body.dsPut_spec (n := n) (b := D.body) (i := i) (v := setBitField (dsAdded e) 199 192 (dsGen (D.body.ent Tbl.ds i) + 1))
  refine ⟨_, ?_, h1, h2⟩
  have hw : D.body.entPutBy Master.host 0xFFFFFFFF Tbl.ds i (dsAdded e) 0 = _ := (by rw [Body.entPutBy, hi] : _ = D.body.entWrite Tbl.ds i (dsAdded e)).trans (Body.entWrite_ds hok)
  unfold Dev.cmdDsAdd
  rw [h]
  dsimp only
  rw [← dsAdded, hw]
  rfl

theorem Dev.cmdDsAdd_refused {i : Nat} (h : D.body.dsAddAt = some i) (hi : D.body.boundSlot Master.host = none)
    (hbad : famBits (dsAf (dsAdded e)) < dsLen (dsAdded e)) :
    D.cmdDsAdd e rest w = ({ D with body := D.body.fire Pg.ds R.DS_EVT_BADENT }, .done CMD_REFUSED 0) := by
  have hw : D.body.entPutBy Master.host 0xFFFFFFFF Tbl.ds i (dsAdded e) 0 = _ :=
    (by rw [Body.entPutBy, hi] : _ = D.body.entWrite Tbl.ds i (dsAdded e)).trans (Body.entWrite_ds_refused dsAdded_valid hbad)
  unfold Dev.cmdDsAdd
  rw [h]
  dsimp only
  rw [← dsAdded, hw]
  rfl

/-! EXM. -/

/-- The key of an exact-match command. -/
def cmdKey (e : List Byte) : XKey :=
  { ty := bitField (cmdArg e) 7 4, k1 := leNat ((cmdData e).take 12), k2 := if bitField (cmdArg e) 7 4 = 3 then leNat (slice (cmdData e) 12 12) else 0 }

theorem Dev.cmdExm_bad (h : cmdArg e % 8 = 0 ∨ 5 ≤ cmdArg e % 8) : D.cmdExm e rest w = (D, .done CMD_BAD_OP 0) := if_pos h

theorem Dev.cmdExm_staged (h : ¬ (cmdArg e % 8 = 0 ∨ 5 ≤ cmdArg e % 8)) (hi : D.body.boundSlot Master.host ≠ none) :
    D.cmdExm e rest w = (D, .done CMD_EXM XRC_STAGED) :=
  (if_neg h).trans (if_pos (Option.isSome_iff_ne_none.2 hi))

theorem Dev.cmdExm_type (h : ¬ (cmdArg e % 8 = 0 ∨ 5 ≤ cmdArg e % 8)) (hi : D.body.boundSlot Master.host = none)
    (ht : bitField (cmdArg e) 7 4 = 0 ∨ 4 ≤ bitField (cmdArg e) 7 4) : D.cmdExm e rest w = (D, .done CMD_EXM XRC_BAD_TYPE) :=
  (if_neg h).trans ((if_neg (by rw [hi]; exact Bool.false_ne_true)).trans (if_pos ht))

theorem Dev.cmdExm_run (h : ¬ (cmdArg e % 8 = 0 ∨ 5 ≤ cmdArg e % 8)) (hi : D.body.boundSlot Master.host = none)
    (ht : ¬ (bitField (cmdArg e) 7 4 = 0 ∨ 4 ≤ bitField (cmdArg e) 7 4)) {c : Body} {x : Body.XOut}
    (hx : D.body.exmCommand (cmdArg e % 8) (cmdKey e) (cmdTarget e % 2 ^ 24) = (c, x)) : D.cmdExm e rest w = ({ D with body := c },
      if x.rc ≠ 0 then .done CMD_EXM x.rc
      else if cmdArg e % 8 = 4 then .done CMD_OK (x.res.getD 0)
      else .done CMD_OK (match x.loc with | some l => l.code | none => 0)) := by
  refine (if_neg h).trans ((if_neg (by rw [hi]; exact Bool.false_ne_true)).trans ((if_neg ht).trans ?_))
  dsimp only
  rw [← cmdKey, hx] <;> rfl

/-- A search leaves the rings alone. -/
theorem Body.amid_exmFind {b : Body} (seq : Nat) (k : XKey) : Body.Amid n b (b.exmFind seq k).1 := by
  have hpar : ∀ ls : List XLoc, Body.Amid n b (b.exmParity ls) := fun ls => by
    refine foldl_keeps (Body.Amid n b) _ (fun d l h => ?_) ls b (.refl b)
    dsimp only
    split_ifs
    · exact h.trans (Body.amid_told (by decide) (by decide) (by decide))
    · exact h
  unfold Body.exmFind
  dsimp only
  split_ifs
  · exact (hpar _).trans (Body.amid_told (by decide) (by decide) (by decide))
  · exact hpar _

/-- A command of a key that is there, but for DELETE and UPDATE. -/
theorem Body.exmCommand_there {b : Body} {k : XKey} {l : XLoc} {r : List XLoc} (res : Nat) (h : b.exmCopies b.nowSeq k = l :: r) :
    ∃ d, Body.Amid n b d ∧ d.tbls = b.tbls ∧ b.exmCommand 1 k res = (d, { rc := 1, loc := some l }) ∧
      b.exmCommand 4 k res = (d, { rc := 0, loc := some l, res := some (b.exmResAt b.nowSeq l) }) := by
  obtain ⟨h1, h2⟩ := b.exmFind_spec b.nowSeq k
  have h3 := Body.amid_exmFind (n := n) (b := b) b.nowSeq k
  rw [h] at h1
  have he : b.exmFind b.nowSeq k = ((b.exmFind b.nowSeq k).1, some l) := Prod.ext rfl h1
  refine ⟨_, h3, h2.tbls, ?_, ?_⟩
  · unfold Body.exmCommand
    rw [he]
    rfl
  · rw [← h2.resAt]
    unfold Body.exmCommand
    rw [he]
    rfl

/-- A command but INSERT of a key that is not there. -/
theorem Body.exmCommand_nowhere {b : Body} {k : XKey} (res : Nat) (h : b.exmCopies b.nowSeq k = []) :
    ∃ d, Body.Amid n b d ∧ d.tbls = b.tbls ∧ ∀ op, 2 ≤ op → op ≤ 4 → b.exmCommand op k res = (d, { rc := 2 }) := by
  obtain ⟨h1, h2⟩ := b.exmFind_spec b.nowSeq k
  have h3 := Body.amid_exmFind (n := n) (b := b) b.nowSeq k
  rw [h] at h1
  have he : b.exmFind b.nowSeq k = ((b.exmFind b.nowSeq k).1, none) := Prod.ext rfl h1
  refine ⟨_, h3, h2.tbls, fun op ho1 ho4 => ?_⟩
  unfold Body.exmCommand
  rw [he]
  interval_cases op <;> rfl

end

end Sys2Proof.Machine
end

section
/-! O54: REG_WRITE and CAIRN in their turn (R441). -/

namespace Sys2Proof.Machine

/-- The state with a ring's turn taken. -/
def State.began (s : State) (n : Nat) : State := { s with dev := s.dev.began n }

section
variable {s : State} {n a : Nat}

theorem masterReach_host (b : Body) (a : Nat) (wr : Bool) : b.masterReach Master.host a wr = true := rfl

theorem State.began_reaches (h : s.reaches Master.host a) : (s.began n).reaches Master.host a :=
  ⟨h.runs, h.bar0, h.known, h.notBmc, masterReach_host ..⟩

theorem State.began_takes (h : s.takes Master.host a) : (s.began n).takes Master.host a := ⟨State.began_reaches h.toreaches, h.idle⟩

/-! A write with its answer. -/

/-- A write of a block register that reaches its page, and whether it was taken. -/
theorem Dev.busWrite_block {m p off : Nat} {k : PK} (v : Nat) (h : s.reaches m (p + off)) (hp : PageIs p k) (h1 : 0x80 ≤ off) (h2 : off < 0x800)
    (h4 : off % 4 = 0) (hb : p ≠ Pg.boot) : s.dev.busWrite m (p + off) v =
      ({ s.dev with body := (s.dev.body.regStore m (p + off) v (s.dev.pageLocked p)).1 }, (s.dev.body.regStore m (p + off) v (s.dev.pageLocked p)).2) := by
  have ha : (p + off) / 4 * 4 = p + off := by
    have := hp.aligned
    omega
  unfold Dev.busWrite
  rw [ha]
  simp only [h.bar0, h.notBmc, h.reach]
  simp [Dev.pageWrite, ha, hp.placeOf_block h1 h2, hp.pageOf (show off < 0x1000 by omega), hb]

/-- A register without staged fields takes what the rules of its page make of the write. -/
theorem Body.regStore_plain {b : Body} {m p off v : Nat} {k : PK} {lk : Bool} (hp : PageIs p k) (h2 : off < 0x800) (hk : k.plain off = true)
    (hi : b.rd p R.PG_RESET_BUSY = 0) : b.regStore m (p + off) v lk = b.pageStore k m (p + off) v lk := by
  simp only [PK.plain, Bool.and_eq_true, bne_iff_ne, Bool.not_eq_true', List.isEmpty_eq_false_iff, ne_eq] at hk
  have hidle : b.on p R.PG_RESET_BUSY = false := by
    rw [Body.on, hi]
    rfl
  unfold Body.regStore
  simp only [hp.kindAt (show off < 0x1000 by omega), hp.fieldsOf (show off < 0x1000 by omega) hk.1.1, hk.1.2, if_false,
    hp.pageOf (show off < 0x1000 by omega), hidle, Bool.false_eq_true, hp.isRws (show off < 0x1000 by omega) hk.1.1, hk.2]

/-- A register of a page in its soft reset takes no write (R44). -/
theorem Body.regStore_busy {b : Body} {m p off v : Nat} {k : PK} {lk : Bool} (hp : PageIs p k) (h2 : off < 0x800) (hk : k ≠ .parserKey)
    (hf : k.fieldsAt off ≠ []) (hi : b.rd p R.PG_RESET_BUSY = 1) : b.regStore m (p + off) v lk = (b, false) := by
  have hbusy : b.on p R.PG_RESET_BUSY = true := by
    rw [Body.on, hi]
    rfl
  unfold Body.regStore
  simp only [hp.kindAt (show off < 0x1000 by omega), hp.fieldsOf (show off < 0x1000 by omega) hk, hf, if_false,
    hp.pageOf (show off < 0x1000 by omega), hbusy, if_true]

/-! REG_WRITE. -/

section
variable {e : List Byte} {rest : List (List Byte)} {w : Bool} {p off : Nat} {k : PK}

theorem plainKinds_page {k : PK} (hp : PageIs p k) (hk : k ∈ plainKinds) : p ≠ Pg.boot ∧ (n < 240 → Pg.ring n ≠ p) := by
  obtain ⟨hb, -, -, -⟩ := plainKinds_rest hk
  have hr : k ≠ .ring := (by decide : ∀ k ∈ plainKinds, k ≠ .ring) k hk
  refine ⟨fun e => hb (Option.some.inj (hp.kind.symm.trans (e ▸ pageIs_boot.kind))), fun hn e => hr (Option.some.inj (hp.kind.symm.trans ?_))⟩
  rw [← e]
  exact (pageIs_ring hn).kind

theorem Dev.cmdRegWrite_bad {D : Dev} (h : 0x4000000 ≤ cmdTarget e) : D.cmdRegWrite e rest w = (D, .done CMD_BAD_TARGET 0) := if_pos h

theorem Dev.cmdRegWrite_eq {D : Dev} (h : ¬ 0x4000000 ≤ cmdTarget e) : D.cmdRegWrite e rest w =
    ((D.busWrite Master.host (cmdTarget e) (cmdArg e)).1, .done (if (D.busWrite Master.host (cmdTarget e) (cmdArg e)).2 then CMD_OK else CMD_REFUSED) 0) :=
  if_neg h

theorem PageIs.inBar (hp : PageIs p k) (h2 : off < 0x800) : ¬ 0x4000000 ≤ p + off := by
  have := hp.inside
  omega

theorem Dev.cmdRegWrite_taken {f : Fld} {i j : Nat} (hn : n < 240) (htgt : cmdTarget e = p + off) (hp : PageIs p k) (hk : k ∈ plainKinds) (h1 : 0x80 ≤ off)
    (h2 : off < 0x800) (h4 : off % 4 = 0) (hf : k.fieldsAt off = [(f, i, j)]) (hr : f.acc = .rw) (ht : s.takes Master.host (p + off)) :
    ∃ c, s.dev.cmdRegWrite e rest w = ({ s.dev with body := c }, .done CMD_OK 0) ∧ c.rd p f i j = bitField (cmdArg e) f.hi f.lo ∧ Body.Amid n s.dev.body c := by
  obtain ⟨hb, hring⟩ := plainKinds_page (n := n) hp hk
  obtain ⟨-, hpk, -, -⟩ := plainKinds_rest hk
  obtain ⟨-, hlo, haddr⟩ := PK.only_field hf
  have hfs : fieldsOf (p + off) = [(f, i, j)] := (hp.fieldsOf (by omega) hpk).trans hf
  have hidle : s.dev.body.rd p R.PG_RESET_BUSY = 0 := by
    have := ht.idle
    rwa [hp.pageOf (by omega)] at this
  have hw := Dev.busWrite_block (cmdArg e) ht.toreaches hp h1 h2 h4 hb
  rw [Body.regStore_plain hp h2 (by simp [PK.plain, hpk, hf, hr]) hidle, Body.pageStore_plain _ hk, Body.takeBits_rw _ _ hfs hr, hp.pageOf (by omega)] at hw
  refine ⟨s.dev.body.wr p f (f.of (cmdArg e)) i j, ?_, (Body.rd_wr_self ..).trans (Nat.mod_eq_of_lt (Nat.mod_lt _ (Nat.two_pow_pos _))), ?_⟩
  · rw [Dev.cmdRegWrite_eq (by rw [htgt]; exact hp.inBar h2), htgt, hw]
    rfl
  · refine .of (ps := [p]) (Body.Keeps.wr (.refl _) hlo ?_) (fun h => hring hn (List.mem_singleton.1 h)) rfl
    rw [haddr, hp.pageOf (by omega)]
    exact List.mem_singleton_self _

theorem Dev.cmdRegWrite_dropped (htgt : cmdTarget e = p + off) (hp : PageIs p k) (hk : k ∈ plainKinds) (h1 : 0x80 ≤ off) (h2 : off < 0x800) (h4 : off % 4 = 0)
    (hf : k.fieldsAt off ≠ []) (hr : s.reaches Master.host (p + off)) (hbusy : s.dev.body.rd p R.PG_RESET_BUSY = 1) :
    s.dev.cmdRegWrite e rest w = (s.dev, .done CMD_REFUSED 0) := by
  obtain ⟨hb, -⟩ := plainKinds_page (n := 0) hp hk
  obtain ⟨-, hpk, -, -⟩ := plainKinds_rest hk
  have hw := Dev.busWrite_block (cmdArg e) hr hp h1 h2 h4 hb
  rw [Body.regStore_busy hp h2 hpk hf hbusy] at hw
  rw [Dev.cmdRegWrite_eq (by rw [htgt]; exact hp.inBar h2), htgt, hw]
  rfl

end

/-! CAIRN. -/

/-- A command of a Cairn slot, and whether the slot takes it. -/
theorem Dev.busWrite_cairn {m code k : Nat} (hk : k < 8) (hc : code < 8) (h : s.takes m (R.CAIRN_CMD.addr Pg.cairn k 0)) :
    s.dev.busWrite m (R.CAIRN_CMD.addr Pg.cairn k 0) code = ({ s.dev with body := s.dev.body.cairnCmd k m code }, s.dev.body.cairnTakes k m code) := by
  obtain ⟨hplain, hfield⟩ := cairnCmd_register hk
  have hcode : R.CAIRN_CMD.of code = code := by
    simpa [Fld.of, bitField, R.CAIRN_CMD] using Nat.mod_eq_of_lt hc
  have hidle : s.dev.body.rd Pg.cairn R.PG_RESET_BUSY = 0 := by
    have := h.idle
    rwa [cairnCmd_addr, pageIs_cairn.pageOf (by omega)] at this
  rw [cairnCmd_addr] at h ⊢
  rw [Dev.busWrite_block code h.toreaches pageIs_cairn (by omega) (by omega) (by omega) (by decide), Body.regStore_plain pageIs_cairn (by omega) hplain hidle]
  simp only [Body.pageStore, Body.storeCairn, hfield, hcode]

section
variable {e : List Byte} {rest : List (List Byte)} {k : Nat}

theorem Dev.cmdCairn_waiting {D : Dev} : D.cmdCairn e rest true = (D, D.cmdCairnWait (bitField (cmdArg e) 10 8)) := rfl

/-- CAIRN without SET_MODE. -/
theorem Dev.cmdCairn_eq (hm : bitOn (cmdArg e) 3 = false) (h : s.takes Master.host (R.CAIRN_CMD.addr Pg.cairn (bitField (cmdArg e) 10 8) 0)) :
    s.dev.cmdCairn e rest false =
      ({ s.dev with body := s.dev.body.cairnCmd (bitField (cmdArg e) 10 8) Master.host (cmdArg e % 8) },
        if ¬ s.dev.body.cairnTakes (bitField (cmdArg e) 10 8) Master.host (cmdArg e % 8) then .done CMD_CAIRN 0
        else if bitOn (cmdArg e) 31 then
          Dev.cmdCairnWait { s.dev with body := s.dev.body.cairnCmd (bitField (cmdArg e) 10 8) Master.host (cmdArg e % 8) } (bitField (cmdArg e) 10 8)
        else .done CMD_OK 0) := by
  have hw := Dev.busWrite_cairn (k := bitField (cmdArg e) 10 8) (Nat.mod_lt _ (by decide)) (Nat.mod_lt (cmdArg e) (by decide : 8 > 0)) h
  unfold Dev.cmdCairn
  rw [if_neg Bool.false_ne_true]
  simp only [hm, Bool.false_eq_true, if_false, hw]
  split_ifs <;> rfl

theorem Dev.cmdCairnWait_over {D : Dev} (h : D.body.crd R.CAIRN_STATE k = CS_DONE ∨ D.body.crd R.CAIRN_STATE k = CS_IDLE) :
    D.cmdCairnWait k = .done CMD_OK (D.body.crd R.CAIRN_RESULT k) := if_pos h

theorem Dev.cmdCairnWait_on {D : Dev} (h : ¬ (D.body.crd R.CAIRN_STATE k = CS_DONE ∨ D.body.crd R.CAIRN_STATE k = CS_IDLE)) : D.cmdCairnWait k = .wait := if_neg h

end

end

end Sys2Proof.Machine
end

section
/-! O54, what the table commands show (R439 to R442). -/

namespace Sys2Proof.Machine

section
variable {s : State} {n : Nat} {l rest : List (List Byte)} {e : List Byte} {c : Body}

/-- Each row is the table command of its number. -/
theorem exec_ringCmd {k : Nat} {i : Instr} (h : ([.tblCmdNop n, .tblCmdCont n, .tblCmdWriteEntry n, .tblCmdReadEntry n, .tblCmdRegWrite n, .tblCmdDsAdd n,
    .tblCmdExm n, .tblCmdCairn n] : List Instr)[k]? = some i) : ∃ f, exec i s = s.ringCmd n k f := by
  have hk : k < 8 := (List.getElem?_eq_some_iff.1 h).1
  interval_cases k <;> exact Option.some.inj h ▸ ⟨_, rfl⟩

theorem State.withBody_regs (h : c.regs = s.dev.body.regs) : s.sameRegs (s.withBody c) [] :=
  State.withBody_sameRegs fun q g x y _ => Body.rd_of_regs h q g x y

theorem State.withBody_tbls : (s.withBody c).dev.body.tbls = c.tbls := by simp

theorem State.withBody_crd {f : Fld} {k : Nat} (hk : k < 8) (hf : f.lo < 32 ∧ 0x80 ≤ f.off ∧ f.off < 0x140 ∧ f.stride = 0x40) :
    (s.withBody c).reg Pg.cairn f k = c.crd f k := by
  obtain ⟨h1, h2, h3, h4⟩ := hf
  refine State.withBody_reg h1 (Body.notedAt_page ?_ ?_ ?_) <;> simp only [Fld.addr, Pg.cairn, h4] <;> omega

/-- A ring whose entry is executed. -/
structure State.CmdTurn (s : State) (n : Nat) (l : List (List Byte)) (e : List Byte) (rest : List (List Byte)) : Prop where
  ring : n < 240
  runs : s.runs [3]
  errs : s.ctr (Pg.ring n) RING_CMD_ERR < 2 ^ 64
  turn : s.dev.body.Turn n l e rest
  acts : ¬ s.dev.body.skips n l

variable {row : Nat} {f : Dev → List Byte → List (List Byte) → Bool → Dev × CmdRes} {st v : Nat}

/-- A command that does nothing but complete. -/
theorem State.CmdTurn.idle (h : s.CmdTurn n l e rest) (hrow : cmdRow (cmdOp e) = row)
    (hf : f (s.dev.began n) e rest (s.dev.body.run n).waiting = (s.dev.began n, .done st v)) :
    ∃ t, s.ringCmd n row f = .next t ∧ s.Finished t n l.length st v ∧ s.sameRegs t [] ∧ t.dev.body.tbls = s.dev.body.tbls := by
  obtain ⟨d, h1, h2, h3, h4, -⟩ := State.ringCmd_done h.ring h.runs h.errs h.turn hrow h.acts (c := s.dev.body.began n) hf Body.amid_began
  exact ⟨_, h1, h2, State.withBody_regs h3, State.withBody_tbls.trans h4⟩

/-- A command that completes with an effect. -/
theorem State.CmdTurn.done (h : s.CmdTurn n l e rest) (hrow : cmdRow (cmdOp e) = row)
    (hf : f (s.dev.began n) e rest (s.dev.body.run n).waiting = ({ s.dev.began n with body := c }, .done st v)) (ha : Body.Amid n (s.dev.body.began n) c) :
    ∃ d, s.ringCmd n row f = .next (s.withBody d) ∧ s.Finished (s.withBody d) n l.length st v ∧ d.regs = c.regs ∧ d.tbls = c.tbls ∧ d.cairn = c.cairn ∧
      d.mem = { c.mem with host := Mem.write c.mem.host (s.dev.body.cmdAt n) (Body.cmdBytes st v) } :=
  State.ringCmd_done h.ring h.runs h.errs h.turn hrow h.acts hf (Body.amid_began.trans ha)

/-- A command at which the ring waits. -/
theorem State.CmdTurn.waits (h : s.CmdTurn n l e rest) (hrow : cmdRow (cmdOp e) = row)
    (hf : f (s.dev.began n) e rest (s.dev.body.run n).waiting = ({ s.dev.began n with body := c }, .wait)) (ha : Body.Amid n (s.dev.body.began n) c) :
    ∃ d, s.ringCmd n row f = .next (s.withBody d) ∧ ((s.withBody d).dev.body.run n).waiting = true ∧
      ((s.withBody d).dev.body.run n).idx = (s.dev.body.run n).idx ∧ d.regs = c.regs ∧ d.tbls = c.tbls ∧ d.mem = c.mem :=
  State.ringCmd_waits h.ring h.runs h.turn hrow h.acts hf (Body.amid_began.trans ha).run

/-! EXM. -/

/-- An exact-match command that is run. -/
theorem State.CmdTurn.exm (h : s.CmdTurn n l e rest) (hop : cmdOp e = 6) (h1 : 1 ≤ cmdArg e % 8) (h4 : cmdArg e % 8 ≤ 4)
    (hi : s.dev.body.boundSlot Master.host = none) (ht : 1 ≤ bitField (cmdArg e) 7 4 ∧ bitField (cmdArg e) 7 4 ≤ 3) {x : Body.XOut}
    (hx : (s.dev.body.began n).exmCommand (cmdArg e % 8) (cmdKey e) (cmdTarget e % 2 ^ 24) = (c, x)) (ha : Body.Amid n (s.dev.body.began n) c)
    (htbls : c.tbls = s.dev.body.tbls)
    (hres : (if x.rc ≠ 0 then CmdRes.done CMD_EXM x.rc else if cmdArg e % 8 = 4 then .done CMD_OK (x.res.getD 0)
      else .done CMD_OK (match x.loc with | some l => l.code | none => 0)) = .done st v) :
    ∃ t, exec (.tblCmdExm n) s = .next t ∧ s.Finished t n l.length st v ∧ t.dev.body.tbls = s.dev.body.tbls := by
  have hf := Dev.cmdExm_run (D := s.dev.began n) (e := e) (rest := rest) (w := (s.dev.body.run n).waiting) (by omega) hi (by omega) hx
  obtain ⟨d, k1, k2, -, k4, -⟩ := h.done (row := 6) (f := Dev.cmdExm) (c := c) (st := st) (v := v) (by rw [cmdRow, hop]; rfl) (hres ▸ hf) ha
  exact ⟨_, k1, k2, State.withBody_tbls.trans (k4.trans htbls)⟩

/-! CAIRN. -/

/-- What CAIRN makes of a slot, but for SET_MODE. -/
theorem State.CmdTurn.cairn (hw : (s.dev.body.run n).waiting = false) (hm : bitOn (cmdArg e) 3 = false)
    (ht : s.takes Master.host (R.CAIRN_CMD.addr Pg.cairn (bitField (cmdArg e) 10 8) 0)) :
    Dev.cmdCairn (s.dev.began n) e rest (s.dev.body.run n).waiting =
      ({ s.dev.began n with body := (s.dev.body.began n).cairnCmd (bitField (cmdArg e) 10 8) Master.host (cmdArg e % 8) },
        if ¬ s.dev.body.cairnTakes (bitField (cmdArg e) 10 8) Master.host (cmdArg e % 8) then .done CMD_CAIRN 0
        else if bitOn (cmdArg e) 31 then
          Dev.cmdCairnWait { s.dev.began n with body := (s.dev.body.began n).cairnCmd (bitField (cmdArg e) 10 8) Master.host (cmdArg e % 8) } (bitField (cmdArg e) 10 8)
        else .done CMD_OK 0) := by
  rw [hw]
  exact Dev.cmdCairn_eq (s := s.began n) hm (State.began_takes ht)

/-- A command of Cairn leaves the rings alone. -/
theorem Body.amid_cairn {b : Body} (h : Body.Keeps [Pg.cairn] b c) (hh : c.host = b.host) : Body.Amid n b c :=
  .of h (by rw [List.mem_singleton]; unfold Pg.ring Pg.cairn; omega) hh

theorem Body.cairnBegin_host {b : Body} (k m : Nat) : (b.cairnBegin k m).host = b.host := by
  unfold cairnBegin
  exact (foldl_same Body.host (fun b f => b.cwr f k 0) (fun _ _ => rfl) _ _).trans rfl

theorem Body.dsAddFree_of {b : Body} (ht : c.tbls = b.tbls) (hc : c.cairn = b.cairn) : ∀ k i, c.dsAddFree k i = b.dsAddFree k i
  | 0, _ => rfl
  | k + 1, i => by
    have hslot : ∀ j, c.slot j = b.slot j := fun j => by rw [Body.slot, hc, Body.slot]
    simp only [Body.dsAddFree, Body.ent_of_tbls ht, hslot, Body.dsAddFree_of ht hc k]

theorem Body.dsAddAt_began {b : Body} : (b.began n).dsAddAt = b.dsAddAt := Body.dsAddFree_of (b := b) (c := b.began n) rfl rfl _ _

/-- RELEASE of a slot that is not DONE (R69). -/
theorem Body.cairnCmd_unreleased {b : Body} {k : Nat} (hk : k < 8) (h : b.crd R.CAIRN_STATE k ≠ CS_DONE) : b.cairnTakes k Master.host 4 = false ∧
    (b.cairnCmd k Master.host 4).crd R.CAIRN_STATE k = b.crd R.CAIRN_STATE k ∧ Body.Amid n b (b.cairnCmd k Master.host 4) := by
  have hbad : b.cairnBad k Master.host 4 = true := by rw [Body.cairnBad_release]; exact h
  have hplace : R.CAIRN_STATE.lo < 32 ∧ 0x80 ≤ R.CAIRN_STATE.off ∧ R.CAIRN_STATE.off + R.CAIRN_STATE.stride * k < 0x1000 := by
    simp only [R.CAIRN_STATE]
    omega
  have hh : ∀ (c : Body) (x : Bool) (e : Nat), (c.fireIf x e).host = c.host := fun c x e => by cases x <;> simp [Body.fireIf]
  refine ⟨by simp [Body.cairnTakes, hbad], ?_, ?_⟩
  · rw [b.cairnCmd_refused (.inr hbad), Body.crd_fireIf _ _ (by decide) hplace, Body.crd_fireIf _ _ (by decide) hplace]
  · rw [b.cairnCmd_refused (.inr hbad)]
    exact Body.amid_cairn (((Body.Keeps.refl _).fireIf _ (by decide)).fireIf _ (by decide)) ((hh _ _ _).trans (hh _ _ _))

/-- A command that a slot takes. -/
theorem Body.cairnTakes_begin {b : Body} {k m : Nat} (hrests : b.crd R.CAIRN_STATE k = CS_IDLE ∨ b.crd R.CAIRN_STATE k = CS_DONE)
    (hfree : b.boundSlot m = none) : b.cairnTakes k m 1 = true := by
  have h1 : b.cairnForeign k m 1 = false := by rw [← Bool.not_eq_true, Body.cairnForeign_begin]; exact fun x => x.2 hrests
  have h2 : b.cairnBad k m 1 = false := by rw [← Bool.not_eq_true, Body.cairnBad_begin]; exact fun x => x.elim (· hrests) (· hfree)
  rw [Body.cairnTakes, h1, h2]
  rfl

theorem Body.cairnTakes_commit {b : Body} {k m : Nat} (hmine : b.crd R.CAIRN_OWNER k = m) (hopen : b.crd R.CAIRN_STATE k = CS_OPEN) :
    b.cairnTakes k m 2 = true := by
  have h1 : b.cairnForeign k m 2 = false := by rw [← Bool.not_eq_true, Body.cairnForeign_commit]; exact fun x => x hmine
  have h2 : b.cairnBad k m 2 = false := by rw [← Bool.not_eq_true, Body.cairnBad_commit]; exact fun x => x (.inl hopen)
  rw [Body.cairnTakes, h1, h2]
  rfl

end

end Sys2Proof.Machine

namespace Sys2Proof
open Machine

/-- Settles O54: each row's command in its turn, by its opcode and what it finds. -/
theorem tableCommands : Obligations.TableCommands := by
  unfold Obligations.TableCommands
  intro n s l rest e hn hr b x at_ a tgt idle finished rows herr
  refine ⟨fun h c hc => ?_, fun hready hturn hjob hnext => ?_⟩
  · obtain ⟨k, hk⟩ := List.mem_iff_getElem?.1 hc
    obtain ⟨f, hf⟩ := exec_ringCmd (s := s) hk
    exact hf.trans (State.ringCmd_same hn hr (Dev.tblCmd_idle h))
  have ht : s.dev.body.Turn n l e rest := ⟨hready, hturn, hjob, hnext⟩
  refine ⟨fun k c hk hne => ?_, fun hfail hstop c hc => ?_, fun hgo => ?_⟩
  · obtain ⟨f, hf⟩ := exec_ringCmd (s := s) hk
    exact hf.trans (State.ringCmd_same hn hr (Dev.tblCmd_other ht hne))
  · obtain ⟨f, hf⟩ := exec_ringCmd (s := s) hc
    obtain ⟨d, h1, h2, h3, h4⟩ := State.ringCmd_skipped (f := f) hn hr herr ht rfl ⟨hfail, hstop⟩
    exact ⟨_, hf.trans h1, h2, State.withBody_regs h3, State.withBody_tbls.trans h4⟩
  have hct : s.CmdTurn n l e rest := ⟨hn, hr, herr, ht, fun hs => hgo.elim (fun h => Bool.false_ne_true (h.symm.trans hs.1)) fun h => Bool.false_ne_true (h.symm.trans hs.2)⟩
  have hrow : ∀ k, cmdOp e = k → k ≤ 7 → cmdRow (cmdOp e) = k := fun k h1 h2 => by rw [cmdRow, h1, if_pos h2]
  refine ⟨fun hop => ?_, fun hop => ?_, fun hop => ?_, fun hop => ⟨fun hbad => ?_, fun tid htid hhop hlt hlen hidle => ?_⟩,
    fun hop => ⟨fun hbad => ?_, fun tid htid h1 h8 hlt => ?_⟩,
    fun hop => ⟨fun hbad => ?_, fun p off k f i j htgt hp hk h1 h2 h4 hf hrw htk => ?_, fun p off k htgt hp hk h1 h2 h4 hf hre hbusy => ?_⟩,
    fun hop => ⟨fun hnone => ?_, fun i hsome hidle => ⟨fun hok => ?_, fun hbad => ?_⟩⟩, fun hop => ?_, fun hop => ?_⟩
  · exact hct.idle (row := 0) (f := Dev.cmdNop) (hrow 0 hop (by decide)) (by rw [Dev.cmdNop, if_pos hop])
  · exact hct.idle (row := 0) (f := Dev.cmdNop) (by rw [cmdRow, if_neg (by omega)]) (by rw [Dev.cmdNop, if_neg (by omega)])
  · exact hct.idle (row := 1) (f := Dev.cmdCont) (hrow 1 hop (by decide)) rfl
  · obtain ⟨t, k1, k2, -, k4⟩ := hct.idle (row := 2) (f := Dev.cmdWriteEntry) (hrow 2 hop (by decide)) (Dev.cmdWriteEntry_bad (cmdEntry_bad hbad))
    exact ⟨t, k1, k2, k4⟩
  · obtain ⟨c, hf, k1, k2, k3⟩ := Dev.cmdWriteEntry_hop (D := s.dev.began n) (rest := rest) (w := (s.dev.body.run n).waiting) (n := n) htid hhop hlt hlen hidle
    obtain ⟨d, m1, m2, -, m4, -⟩ := hct.done (row := 2) (f := Dev.cmdWriteEntry) (hrow 2 hop (by decide)) hf k3
    refine ⟨_, m1, m2, ?_, fun u j hne => ?_⟩
    · rw [State.withBody_ent, Body.ent_of_tbls m4]
      exact k1
    · rw [State.withBody_ent, Body.ent_of_tbls m4]
      exact k2 u j hne
  · obtain ⟨t, k1, k2, -⟩ := hct.idle (row := 3) (f := Dev.cmdReadEntry) (hrow 3 hop (by decide)) (Dev.cmdReadEntry_bad (cmdEntry_bad hbad))
    exact ⟨t, k1, k2⟩
  · intro dst hapart
    obtain ⟨c, hf, k1, k2, k3⟩ := Dev.cmdReadEntry_ok (D := s.dev.began n) (rest := rest) (w := (s.dev.body.run n).waiting) (n := n) htid h1 h8 hlt
    obtain ⟨d, m1, m2, -, m4, -, m6⟩ := hct.done (row := 3) (f := Dev.cmdReadEntry) (hrow 3 hop (by decide)) hf k2
    refine ⟨_, m1, m2, State.withBody_tbls.trans (m4.trans k1), ?_⟩
    have hlen : (Body.cmdBytes CMD_OK 0).length = 4 := Body.length_cmdBytes ..
    rw [State.withBody_mem, m6]
    show Mem.read (Mem.write c.mem.host (s.dev.body.cmdAt n) (Body.cmdBytes CMD_OK 0)) dst (tblStride tid) = _
    rw [Mem.read_write_beside _ _ _ _ _ (by rw [hlen]; exact hapart), k3]
    have := Mem.read_write (s.dev.body.mem.host) dst (leBytes (tblStride tid) (s.dev.body.ent tid (cmdTarget e)))
    rw [length_leBytes] at this
    exact this
  · obtain ⟨t, k1, k2, k3, -⟩ := hct.idle (row := 4) (f := Dev.cmdRegWrite) (hrow 4 hop (by decide)) (Dev.cmdRegWrite_bad hbad)
    exact ⟨t, k1, k2, k3⟩
  · obtain ⟨-, -, hicu, hsvy⟩ := plainKinds_rest hk
    obtain ⟨-, hlo, haddr⟩ := PK.only_field hf
    rw [htgt] at htk
    obtain ⟨c, hfc, k1, k2⟩ := Dev.cmdRegWrite_taken (s := s.began n) (rest := rest) (w := (s.dev.body.run n).waiting) hn htgt hp hk h1 h2 h4 hf hrw (State.began_takes htk)
    obtain ⟨d, m1, m2, m3, -⟩ := hct.done (row := 4) (f := Dev.cmdRegWrite) (hrow 4 hop (by decide)) hfc k2
    refine ⟨_, m1, m2, ?_⟩
    rw [State.withBody_reg hlo (by rw [haddr]; exact hp.notNoted (by omega) hicu hsvy)]
    exact (Body.rd_of_regs m3 _ _ _ _).trans k1
  · rw [htgt] at hre
    have hf := Dev.cmdRegWrite_dropped (s := s.began n) (rest := rest) (w := (s.dev.body.run n).waiting) htgt hp hk h1 h2 h4 hf (State.began_reaches hre) hbusy
    obtain ⟨t, k1, k2, k3, -⟩ := hct.idle (row := 4) (f := Dev.cmdRegWrite) (hrow 4 hop (by decide)) hf
    exact ⟨t, k1, k2, k3⟩
  · obtain ⟨d, k1, k2, k3, k4, k5, k6⟩ := hct.waits (row := 5) (f := Dev.cmdDsAdd) (c := s.dev.body.began n) (hrow 5 hop (by decide))
      (Dev.cmdDsAdd_waits (D := s.dev.began n) (Body.dsAddAt_began.trans hnone)) (.refl _)
    exact ⟨_, k1, k2, k3, State.withBody_mem.trans k6, State.withBody_tbls.trans k5, State.withBody_regs k4⟩
  · obtain ⟨c, hf, k1, k2⟩ := Dev.cmdDsAdd_ok (D := s.dev.began n) (rest := rest) (w := (s.dev.body.run n).waiting) (n := n) (Body.dsAddAt_began.trans hsome) hidle hok
    obtain ⟨d, m1, m2, -, m4, -⟩ := hct.done (row := 5) (f := Dev.cmdDsAdd) (hrow 5 hop (by decide)) hf k2
    refine ⟨_, m1, m2, ?_⟩
    rw [State.withBody_ent, Body.ent_of_tbls m4]
    exact k1
  · have hf := Dev.cmdDsAdd_refused (D := s.dev.began n) (rest := rest) (w := (s.dev.body.run n).waiting) (Body.dsAddAt_began.trans hsome) hidle hbad
    obtain ⟨d, m1, m2, m3, m4, -⟩ := hct.done (row := 5) (f := Dev.cmdDsAdd) (hrow 5 hop (by decide)) hf (Body.amid_fire (by decide) (by decide))
    refine ⟨_, m1, m2, State.withBody_page_evt (by decide) (by decide) ((Body.rd_of_regs m3 _ _ _ _).trans (Body.fire_pend _ (by decide) (by decide))),
      State.withBody_tbls.trans (m4.trans ?_)⟩
    simp [Dev.began, Body.began]
    rfl
  · intro op ty k copies
    refine ⟨fun h => ?_, fun h1 h4 hidle => ?_, fun h1 h4 hidle hty => ?_, fun hidle h1 h3 hnil ho1 ho4 => ?_, fun hidle h1 h3 y r hyr => ⟨fun h => ?_, fun h => ?_⟩⟩
    · obtain ⟨t, k1, k2, -, k4⟩ := hct.idle (row := 6) (f := Dev.cmdExm) (hrow 6 hop (by decide)) (Dev.cmdExm_bad h)
      exact ⟨t, k1, k2, k4⟩
    · obtain ⟨t, k1, k2, -, k4⟩ := hct.idle (row := 6) (f := Dev.cmdExm) (hrow 6 hop (by decide)) (Dev.cmdExm_staged (by omega) hidle)
      exact ⟨t, k1, k2, k4⟩
    · obtain ⟨t, k1, k2, -, k4⟩ := hct.idle (row := 6) (f := Dev.cmdExm) (hrow 6 hop (by decide)) (Dev.cmdExm_type (by omega) hidle hty)
      exact ⟨t, k1, k2, k4⟩
    · obtain ⟨c, k1, k2, k3⟩ := Body.exmCommand_nowhere (b := s.dev.body.began n) (n := n) (cmdTarget e % 2 ^ 24) hnil
      exact hct.exm hop (by omega) ho4 hidle ⟨h1, h3⟩ (k3 _ ho1 ho4) k1 k2 rfl
    · obtain ⟨c, k1, k2, k3, -⟩ := Body.exmCommand_there (b := s.dev.body.began n) (n := n) (cmdTarget e % 2 ^ 24) hyr
      exact hct.exm hop (by omega) (by omega) hidle ⟨h1, h3⟩ (by rw [show cmdArg e % 8 = 1 from h]; exact k3) k1 k2 rfl
    · obtain ⟨c, k1, k2, -, k3⟩ := Body.exmCommand_there (b := s.dev.body.began n) (n := n) (cmdTarget e % 2 ^ 24) hyr
      refine hct.exm hop (by omega) (by omega) hidle ⟨h1, h3⟩ (by rw [show cmdArg e % 8 = 4 from h]; exact k3) k1 k2 ?_
      rw [if_neg (not_not.2 rfl), if_pos h]
      rfl
  · intro k wait
    have hk : k < 8 := Nat.mod_lt _ (by decide)
    refine ⟨fun hw => ⟨fun hover => ?_, fun hon => ?_⟩, fun hw hm htk => ⟨fun hcode hnow hrests hidle => ?_, fun hcode hst => ?_, fun hcode hwd hst hown hpass => ?_⟩⟩
    · obtain ⟨t, k1, k2, k3, -⟩ := hct.idle (row := 7) (f := Dev.cmdCairn) (st := CMD_OK) (v := s.reg Pg.cairn R.CAIRN_RESULT k) (hrow 7 hop (by decide))
        (by rw [hw, Dev.cmdCairn_waiting]; exact congrArg _ (Dev.cmdCairnWait_over hover))
      exact ⟨t, k1, k2, k3⟩
    · obtain ⟨d, k1, k2, k3, k4, -, k6⟩ := hct.waits (row := 7) (f := Dev.cmdCairn) (c := s.dev.body.began n) (hrow 7 hop (by decide))
        (by rw [hw, Dev.cmdCairn_waiting]; exact congrArg _ (Dev.cmdCairnWait_on hon)) (.refl _)
      exact ⟨_, k1, k2, k3, State.withBody_mem.trans k6, State.withBody_regs k4⟩
    · have hcmd := (s.dev.body.began n).cairnCmd_begin (n := k) (m := Master.host) hrests.symm hidle
      have htake := Body.cairnTakes_begin (b := s.dev.body) (k := k) (m := Master.host) hrests.symm hidle
      obtain ⟨h1, h2, h3, -, -, -, hkeep⟩ := (s.dev.body.began n).cairnBegin_spec (n := k) (m := Master.host) hk (by decide)
      have hf := State.CmdTurn.cairn (rest := rest) hw hm htk
      rw [hcode, if_neg (not_not.2 htake), if_neg (by rw [hnow]; exact Bool.false_ne_true), hcmd] at hf
      obtain ⟨d, m1, m2, m3, -, m5, -⟩ := hct.done (row := 7) (f := Dev.cmdCairn) (hrow 7 hop (by decide)) hf (Body.amid_cairn hkeep (Body.cairnBegin_host ..))
      refine ⟨_, m1, m2, ?_, ?_, ?_⟩
      · rw [State.withBody_crd hk (by decide)]
        exact (Body.rd_of_regs m3 _ _ _ _).trans h2
      · rw [State.withBody_crd hk (by decide)]
        exact (Body.rd_of_regs m3 _ _ _ _).trans h3
      · rw [Body.slot, (by simp : (s.withBody d).dev.body.cairn = d.cairn), m5]
        exact h1
    · obtain ⟨htake, h1, h2⟩ := Body.cairnCmd_unreleased (n := n) (b := s.dev.body.began n) hk hst
      have hf := State.CmdTurn.cairn (rest := rest) hw hm htk
      rw [hcode, if_pos (by rw [show s.dev.body.cairnTakes (bitField (cmdArg e) 10 8) Master.host 4 = false from htake]; exact Bool.false_ne_true)] at hf
      obtain ⟨d, m1, m2, m3, -⟩ := hct.done (row := 7) (f := Dev.cmdCairn) (hrow 7 hop (by decide)) hf h2
      refine ⟨_, m1, m2, ?_⟩
      rw [State.withBody_crd hk (by decide)]
      exact (Body.rd_of_regs m3 _ _ _ _).trans h1
    · have hcmd := ((s.dev.body.began n).cairnCmd_commit (n := k) (m := Master.host) hown (.inl hst)).trans ((s.dev.body.began n).cairnCommit_passes hst hpass)
      have htake := Body.cairnTakes_commit (b := s.dev.body) (k := k) (m := Master.host) hown hst
      have hf := State.CmdTurn.cairn (rest := rest) hw hm htk
      have hstate : ((s.dev.body.began n).cairnCmd k Master.host 2).crd R.CAIRN_STATE k = CS_VALIDATE := by
        rw [hcmd, Body.crd_cwr_self]
        rfl
      have hamid : Body.Amid n (s.dev.body.began n) ((s.dev.body.began n).cairnCmd k Master.host 2) := by
        rw [hcmd]
        exact Body.amid_cairn ((Body.Keeps.refl _).setSlot.cwr hk (by decide)) rfl
      have hmem : ((s.dev.body.began n).cairnCmd k Master.host 2).mem = s.dev.body.mem := by
        rw [hcmd]
        rfl
      rw [hcode, if_neg (not_not.2 htake), if_pos hwd] at hf
      have hf' := hf.trans (congrArg _ (Dev.cmdCairnWait_on (by
        show ¬ (((s.dev.body.began n).cairnCmd k Master.host 2).crd R.CAIRN_STATE k = CS_DONE ∨ ((s.dev.body.began n).cairnCmd k Master.host 2).crd R.CAIRN_STATE k = CS_IDLE)
        rw [hstate]
        decide)))
      obtain ⟨d, m1, m2, m3, m4, -, m6⟩ := hct.waits (row := 7) (f := Dev.cmdCairn) (hrow 7 hop (by decide)) hf' hamid
      refine ⟨_, m1, ?_, m2, m3, State.withBody_mem.trans (m6.trans hmem)⟩
      rw [State.withBody_crd hk (by decide)]
      exact (Body.rd_of_regs m4 _ _ _ _).trans hstate

end Sys2Proof
end

section
/-! O22: the heads served in the dispatchers' rounds (R82): the lookups and actions of a pipeline leave that account alone. -/

namespace Sys2Proof.Machine

/-- The heads that the dispatchers have served in their rounds. -/
def Body.rounds (b : Body) : List (Nat × Nat) := b.pipe.disp

namespace Body

variable (b : Body)

@[simp] theorem rounds_wr (p : Nat) (f : Fld) (v i j : Nat) : (b.wr p f v i j).rounds = b.rounds := rfl
@[simp] theorem rounds_sat (p : Nat) (f : Fld) (n i : Nat) : (b.sat p f n i).rounds = b.rounds := rfl
@[simp] theorem rounds_count (p i n : Nat) : (b.count p i n).rounds = b.rounds := rfl
@[simp] theorem rounds_ledIn (l n : Nat) : (b.ledIn l n).rounds = b.rounds := rfl
@[simp] theorem rounds_ledOut (l n : Nat) : (b.ledOut l n).rounds = b.rounds := rfl
@[simp] theorem rounds_svyBump (k i e n : Nat) : (b.svyBump k i e n).rounds = b.rounds := by simp [rounds]
@[simp] theorem rounds_fire (p n : Nat) : (b.fire p n).rounds = b.rounds := by simp [rounds]
@[simp] theorem rounds_fault (p n : Nat) (x : FltInfo) : (b.fault p n x).rounds = b.rounds := by simp [rounds]
@[simp] theorem rounds_lose (l n : Nat) : (b.lose l n).rounds = b.rounds := by simp [rounds]
@[simp] theorem rounds_setPol (i : Nat) (s : PolSt) : (b.setPol i s).rounds = b.rounds := rfl
@[simp] theorem rounds_polBad (l : List Nat) : ({ b with pipe := { b.pipe with polBad := l } } : Body).rounds = b.rounds := rfl
@[simp] theorem rounds_parserArm (l : List Nat) : ({ b with pipe := { b.pipe with parserArm := l } } : Body).rounds = b.rounds := rfl
@[simp] theorem rounds_ucodeArm (l : List Nat) : ({ b with pipe := { b.pipe with ucodeArm := l } } : Body).rounds = b.rounds := rfl
@[simp] theorem rounds_galBusy (g : Nat) : (b.galBusy g).rounds = b.rounds := rfl
@[simp] theorem rounds_headCount (g : Nat) : (b.headCount g).rounds = b.rounds := rfl
@[simp] theorem rounds_mirrored : b.mirrored.2.rounds = b.rounds := rfl
@[simp] theorem rounds_putPkt (i : Nat) (p : Pkt) : (b.putPkt i p).rounds = b.rounds := rfl
@[simp] theorem rounds_delPkt (i : Nat) : (b.delPkt i).rounds = b.rounds := rfl
@[simp] theorem rounds_setCell (i : Nat) (c : CellSt) : (b.setCell i c).rounds = b.rounds := rfl
@[simp] theorem rounds_setQueue (q : Nat) (x : Queue) : (b.setQueue q x).rounds = b.rounds := by simp [rounds]
@[simp] theorem rounds_profCount (q i n : Nat) : (b.profCount q i n).rounds = b.rounds := rfl
@[simp] theorem rounds_setAlloc (n : Nat) (l : List Nat) : (b.setAlloc n l).rounds = b.rounds := rfl

theorem OnlyCells.rounds {b c : Body} (h : OnlyCells b c) : c.rounds = b.rounds := by
  obtain ⟨l, n, rfl⟩ := h
  rfl

@[simp] theorem rounds_freeCells (l : List Nat) : (b.freeCells l).rounds = b.rounds := (b.freeCells_only l).rounds
@[simp] theorem rounds_takeCells (l : List Nat) : (b.takeCells l).rounds = b.rounds := (b.takeCells_only l).rounds
@[simp] theorem rounds_chargeCells (l : List Nat) (c : Cls) : (b.chargeCells l c).rounds = b.rounds := (b.chargeCells_only l c).rounds
@[simp] theorem rounds_chmRefresh : b.chmRefresh.rounds = b.rounds := by unfold chmRefresh; simp

/-! The classifier and the lookups. -/

@[simp] theorem rounds_clsReport (k i : Nat) : (b.clsReport k i).rounds = b.rounds := by unfold clsReport; dsimp only; split_ifs <;> simp

@[simp] theorem rounds_clsVerify (seq key w t : Nat) (l : List Nat) : ∀ (n : Nat) (b : Body), (b.clsVerify seq key w t n l).1.rounds = b.rounds := by
  induction l with
  | nil => intro n b; cases n <;> simp [clsVerify]
  | cons i l ih =>
    intro n b
    cases n with
    | zero => simp [clsVerify]
    | succ n =>
      unfold clsVerify
      split
      · rfl
      · dsimp only
        split_ifs
        · simp
        · rw [ih]; simp

@[simp] theorem rounds_clsOne (seq g port : Nat) (p2 : Bool) (fe fp : Fld) (h : HV) (w : List Byte) :
    (b.clsOne seq g port p2 fe fp h w).1.rounds = b.rounds := by
  unfold clsOne clsSearch
  dsimp only
  split_ifs
  · rfl
  · rfl
  · split <;> rename_i heq <;> exact (congrArg (fun y => y.1.rounds) heq.symm).trans (rounds_clsVerify ..)

@[simp] theorem rounds_classify (seq g port : Nat) (p2 : Bool) (h : HV) (w : List Byte) : (b.classify seq g port p2 h w).1.rounds = b.rounds := by
  unfold classify
  simp

@[simp] theorem rounds_exmParity (l : List XLoc) : (b.exmParity l).rounds = b.rounds := by
  unfold exmParity
  refine foldl_same rounds _ (fun a x => ?_) _ _
  dsimp only
  split_ifs <;> simp

@[simp] theorem rounds_exmFind (seq : Nat) (k : XKey) : (b.exmFind seq k).1.rounds = b.rounds := by
  unfold exmFind
  dsimp only
  split_ifs <;> simp

@[simp] theorem rounds_lpmParity : b.lpmParity.rounds = b.rounds := by unfold lpmParity; simp
@[simp] theorem rounds_nhParity : b.nhParity.rounds = b.rounds := by unfold nhParity; simp
@[simp] theorem rounds_chainErr : b.chainErr.rounds = b.rounds := by unfold chainErr; simp

@[simp] theorem rounds_trieWalk (seq w addr : Nat) : ∀ (fuel line p : Nat) (ms : List (Nat × Nat)) (b : Body),
    (b.trieWalk seq w addr fuel line p ms).1.rounds = b.rounds := by
  intro fuel
  induction fuel with
  | zero => intro line p ms b; simp [trieWalk]
  | succ fuel ih =>
    intro line p ms b
    unfold trieWalk
    dsimp only
    split_ifs
    · simp
    · exact ih _ _ _ _
    · rfl

@[simp] theorem rounds_dsVerify (seq vrf fam addr : Nat) (l : List (Nat × Nat × Bool)) : ∀ (n m : Nat) (r : DsRes) (b : Body),
    (b.dsVerify seq vrf fam addr n m l r).1.rounds = b.rounds := by
  induction l with
  | nil => intro n m r b; cases n <;> simp [dsVerify]
  | cons x l ih =>
    obtain ⟨i, len, wd⟩ := x
    intro n m r b
    cases n with
    | zero => simp [dsVerify]
    | succ n =>
      unfold dsVerify
      dsimp only
      split
      · split
        · simp
        · simp
        · rw [ih]; simp
      · split
        · rw [ih]
        · rfl

@[simp] theorem rounds_dsSearch (seq vrf fam addr : Nat) : (b.dsSearch seq vrf fam addr).1.rounds = b.rounds := by
  unfold dsSearch
  simp

@[simp] theorem rounds_longest (seq missNh : Nat) (ds : DsRes) (ms : List (Nat × Nat)) : ∀ (len reads : Nat) (b : Body),
    (b.longest seq missNh ds ms reads len).1.rounds = b.rounds := by
  intro len
  induction len with
  | zero =>
    intro reads b
    unfold longest
    dsimp only
    repeat' split
    all_goals simp
  | succ len ih =>
    intro reads b
    unfold longest
    dsimp only
    repeat' split
    all_goals simp [ih]

@[simp] theorem rounds_lpm (seq vrf fam addr : Nat) : (b.lpm seq vrf fam addr).1.rounds = b.rounds := by
  unfold lpm
  dsimp only
  split_ifs <;> simp

@[simp] theorem rounds_lookupIp (seq lkp vrf : Nat) (h : HV) : (b.lookupIp seq lkp vrf h).1.rounds = b.rounds := by
  unfold lookupIp
  dsimp only
  split_ifs <;> (try rfl) <;> split <;> simp

@[simp] theorem rounds_lookupFirst (seq port : Nat) (h : HV) : (b.lookupFirst seq port h).1.rounds = b.rounds := by
  unfold lookupFirst
  dsimp only
  split_ifs <;> (try rfl)
  · split <;> simp
  · simp

@[simp] theorem rounds_ecmpMember (seq grp hash : Nat) : (b.ecmpMember seq grp hash).1.rounds = b.rounds := by
  unfold ecmpMember
  dsimp only
  split_ifs <;> simp

@[simp] theorem rounds_chain (seq lkp : Nat) (h : HV) : ∀ (fuel nh : Nat) (m : Bool) (r : Route) (b : Body),
    (b.chain seq lkp h fuel nh m r).1.rounds = b.rounds := by
  intro fuel
  induction fuel with
  | zero => intro nh m r b; simp [chain]
  | succ fuel ih =>
    intro nh m r b
    unfold chain
    extract_lets r1 e t r2
    split
    · rfl
    split
    · exact rounds_nhParity _
    split
    · rfl
    split
    · exact rounds_chainErr _
    split
    · split <;> rename_i heq <;> have hb := (congrArg (fun y => y.1.rounds) heq.symm).trans (rounds_ecmpMember ..)
      · exact hb
      · exact (ih ..).trans hb
    split
    · split
      · exact rounds_chainErr _
      split
      · rfl
      · split <;> rename_i heq <;> have hb := (congrArg (fun y => y.1.rounds) heq.symm).trans (rounds_lookupIp ..)
        · exact hb
        · exact (ih ..).trans hb
    · rfl

@[simp] theorem rounds_route (seq port : Nat) (h : HV) (rd : Option Nat) : (b.route seq port h rd).1.rounds = b.rounds := by
  unfold route
  dsimp only
  have := rounds_lookupFirst b seq port h
  split
  · rw [rounds_chain]; exact this
  · exact this
  · rw [rounds_chain]; exact this

@[simp] theorem rounds_encRead (seq idx : Nat) : (b.encRead seq idx).1.rounds = b.rounds := by
  unfold encRead
  dsimp only
  split_ifs <;> simp

/-! The action engines. -/

@[simp] theorem rounds_polHeal (i : Nat) : (b.polHeal i).rounds = b.rounds := by
  unfold polHeal
  dsimp only
  split_ifs
  iterate 2
    · rw [rounds_fault, rounds_sat]
      refine (rounds_polBad _ _).trans ?_
      rw [rounds_lose, rounds_setPol, rounds_mirrored]
  · rfl

@[simp] theorem rounds_police (seq g i inp len : Nat) : (b.police seq g i inp len).1.rounds = b.rounds := by
  unfold police
  split
  · exact rounds_fire _ _ _
  · split
    · exact (rounds_fire _ _ _).trans (rounds_sat _ _ _ _ _)
    · dsimp only
      split
      · exact rounds_fire _ _ _
      · split
        · exact (rounds_setPol _ _ _).trans ((rounds_ledOut _ _ _).trans ((rounds_ledIn _ _ _).trans (rounds_polHeal _ _)))
        · exact rounds_polHeal _ _

@[simp] theorem rounds_nextIpId (g : Nat) (df : Bool) : (b.nextIpId g df).1.rounds = b.rounds := by
  unfold nextIpId; dsimp only; split_ifs <;> rfl

@[simp] theorem rounds_bookRoute (g : Nat) (d : RouteDrop) (p : Pkt) (st : List Nat) : (b.bookRoute g d p st).1.rounds = b.rounds := by
  unfold bookRoute; cases d <;> simp

@[simp] theorem rounds_takeMal (seq g : Nat) (p : Pkt) (r act : Nat) : (b.takeMal seq g p r act).1.rounds = b.rounds := by
  unfold takeMal; dsimp only; split_ifs <;> (try rfl) <;> split <;> rfl

@[simp] theorem rounds_policers (seq g : Nat) (p : Pkt) (c : Comb) : (b.policers seq g p c).1.rounds = b.rounds := by
  have one : ∀ (b : Body) (p : Pkt) (i : Option Nat) (dscp : Option Nat) (drop : Bool),
      (match i with
        | none => (b, p, dscp, drop)
        | some i =>
          match b.police seq g i (if p.colour = 3 then 0 else p.colour) p.hv.len with
          | (b, none, cn) => (b, { p with cnts := p.cnts ++ cn }, dscp, drop)
          | (b, some (col, cfg), cn) =>
            let (d, x) := colourAct col cfg dscp
            (b, { p with colour := col, cnts := p.cnts ++ cn }, d, drop || x)).1.rounds = b.rounds := by
    intro b p i dscp drop
    cases i with
    | none => rfl
    | some i =>
      have := rounds_police b seq g i (if p.colour = 3 then 0 else p.colour) p.hv.len
      dsimp only
      split <;> rename_i heq <;> rw [heq] at this <;> exact this
  unfold policers
  dsimp only
  exact (one _ _ _ _ _).trans (one _ _ _ _ _)

end Body

end Sys2Proof.Machine
end

section
/-! O22: the pipeline as a whole, admission and the dispatch of a head leave the dispatchers' rounds alone. -/

namespace Sys2Proof.Machine

namespace Body

variable (b : Body)

@[simp] theorem rounds_describe (seq g : Nat) (p : Pkt) (r : Route) (enc : Nat) (dec : Bool) (dscp : Option Nat) (sid : Option (Nat × List Byte)) :
    (b.describe seq g p r enc dec dscp sid).1.rounds = b.rounds := by
  unfold describe
  have := rounds_encRead b seq enc
  split
  · rename_i heq
    rw [heq] at this
    exact this
  · rename_i heq
    rw [heq] at this
    extract_lets
    split
    · exact this
    · split
      · exact this
      · split
        rename_i heq2
        refine (congrArg (fun y => y.1.rounds) heq2.symm).trans (Eq.trans ?_ this)
        clear heq2
        clear * -
        split
        · rfl
        · split
          · rfl
          · split
            · split
              rename_i heq3
              have h3 := congrArg (fun y => y.1.rounds) heq3.symm
              simp only [rounds_nextIpId] at h3
              extract_lets
              split <;> exact h3
            · split
              · rfl
              · split
                · rfl
                · split <;> rfl

@[simp] theorem rounds_finishAct (seq g : Nat) (p : Pkt) (c : Comb) (r : Route) (pl : Plan) (dec : Bool) (dscp : Option Nat) :
    (b.finishAct seq g p c r pl dec dscp).1.rounds = b.rounds := by
  unfold finishAct
  extract_lets
  split
  · split
    · rfl
    · split <;> rfl
  · split
    · split
      · rfl
      · extract_lets
        split <;> rename_i heq <;> have h2 := congrArg (fun y => y.1.rounds) heq.symm <;> simp only [rounds_describe] at h2
        · exact (rounds_bookRoute _ _ _ _ _).trans h2
        · exact h2
        · exact h2
    · split
      · rfl
      · extract_lets
        split
        rename_i heq
        exact congrArg (fun y => y.1.rounds) heq.symm
    · extract_lets
      split
      · rfl
      · split
        rename_i heq
        exact congrArg (fun y => y.1.rounds) heq.symm
    · rfl
    · exact rounds_bookRoute _ _ _ _ _

@[simp] theorem rounds_actForward (seq g port : Nat) (p : Pkt) (ra rb : Option ClsRes) (nr : Bool) :
    (b.actForward seq g port p ra rb nr).1.rounds = b.rounds := by
  unfold actForward
  extract_lets c hv p0 p' x
  split
  rename_i b1 r heq
  have h1 : b1.rounds = b.rounds := by
    have := congrArg (fun y => y.1.rounds) heq.symm
    simpa using this
  extract_lets pla lost plb
  split
  · exact h1
  · clear_value plb
    cases plb
    · exact h1
    · exact (rounds_bookRoute _ _ _ _ _).trans h1
    all_goals
      dsimp only
      split
      · exact (rounds_policers _ _ _ _ _).trans h1
      · have h2 : ∀ pl, ((b1.policers seq g p' c).1.finishAct seq g (b1.policers seq g p' c).2.1 c r pl x
            (b1.policers seq g p' c).2.2.1).1.rounds = b.rounds := fun pl =>
          (rounds_finishAct _ _ _ _ _ _ _ _ _).trans ((rounds_policers _ _ _ _ _).trans h1)
        split
        · exact h2 _
        · exact (rounds_fault _ _ _ _).trans ((rounds_fire _ _ _).trans (h2 _))

@[simp] theorem rounds_pipeline (seq g port : Nat) (p : Pkt) (inj : Option (List Byte)) : (b.pipeline seq g port p inj).1.rounds = b.rounds := by
  unfold pipeline
  extract_lets win
  split
  rename_i b1 ra rb exh heq
  have h1 : b1.rounds = b.rounds := by
    have := congrArg (fun y => y.1.rounds) heq.symm
    simpa using this
  extract_lets
  split
  rename_i b2 p2 heq2
  have h2 : b2.rounds = b.rounds := by
    have := congrArg (fun y => y.1.rounds) heq2.symm
    refine this.trans (Eq.trans ?_ h1)
    split <;> rfl
  split
  · exact (rounds_fault _ _ _ _).trans h2
  · split
    · exact (rounds_fault _ _ _ _).trans ((rounds_fire _ _ _).trans h2)
    · split
      split
      · exact h2
      · split
        · split
          rename_i heq4
          have h4 := congrArg (fun y => y.1.rounds) heq4.symm
          simp only [rounds_route] at h4
          split
          · exact h4.trans h2
          · exact h4.trans h2
        · split
          · exact (rounds_takeMal _ _ _ _ _ _).trans h2
          · exact (rounds_takeMal _ _ _ _ _ _).trans h2
          · exact (rounds_takeMal _ _ _ _ _ _).trans h2
          · split
            · rename_i heq5
              have h5 := congrArg (fun y => y.1.rounds) heq5.symm
              simp only [rounds_actForward] at h5
              exact h5.trans h2
            · rename_i heq5
              have h5 := congrArg (fun y => y.1.rounds) heq5.symm
              simp only [rounds_actForward] at h5
              extract_lets
              split
              · exact (rounds_actForward _ _ _ _ _ _ _ _).trans h2
              · exact (rounds_takeMal _ _ _ _ _ _).trans (h5.trans h2)
              · exact h5.trans h2

/-! Admission and the dispatch of a head. -/

theorem rounds_reap (pid q : Nat) : (b.reap pid q).rounds = b.rounds := by unfold reap; split <;> rfl

theorem rounds_leaves (pid : Nat) : (b.leaves pid).rounds = b.rounds := by unfold leaves modPkt; split <;> rfl

theorem rounds_dropLastPkt (q : Nat) : (b.dropLastPkt q).rounds = b.rounds := by
  unfold dropLastPkt
  extract_lets
  split
  · rfl
  · refine (rounds_reap _ _ _).trans ((rounds_leaves _ _).trans ?_)
    rw [rounds_ledOut, rounds_freeCells, rounds_setQueue]

theorem rounds_pushStep (lvl : Nat) (n : Nat) : ∀ (b : Body) (k : Int) (c : Body), b.pushStep lvl k n = some c → c.rounds = b.rounds := by
  induction n with
  | zero => intro b k c h; simp [pushStep] at h
  | succ n ih =>
    intro b k c h
    unfold pushStep at h
    split at h
    · cases h
    · rename_i v _
      dsimp only at h
      have h1 : ((b.dropLastPkt v.1).profCount v.1 ADM_PUSHED).rounds = b.rounds := by rw [rounds_profCount, rounds_dropLastPkt]
      split at h
      · cases h; exact h1
      · exact (ih _ _ _ h).trans h1

theorem rounds_pushOut (q : Nat) (k : Int) (c : Body) (h : b.pushOut q k = some c) : c.rounds = b.rounds := by
  unfold pushOut at h
  extract_lets at h
  split at h
  · rw [Option.map_eq_some_iff] at h
    obtain ⟨d, hd, rfl⟩ := h
    rw [rounds_fire, rounds_profCount]
    exact rounds_pushStep _ _ _ _ _ hd
  · cases h

theorem rounds_admDecide (q colour n : Nat) : (b.admDecide q colour n).1.rounds = b.rounds := by
  have tail : ∀ b : Body, (if ¬ b.spillAllowed colour false then (b, AdmRes.drop ADM_DROP_SPAN)
      else if b.clsFree .bklg < n then (b.fire Pg.chm R.CHM_EVT_BKLG_FULL, AdmRes.drop ADM_DROP_BKLG)
      else (b, AdmRes.charge .bklg)).1.rounds = b.rounds := by
    intro b
    split_ifs
    · exact rounds_fire _ _ _
    · rfl
    · rfl
  unfold admDecide
  extract_lets pr x col tl
  split
  · rfl
  · split
    · rfl
    · split
      · exact tail _
      · split
        · split
          · rfl
          · split
            · rename_i h; exact rounds_pushOut _ _ _ _ h
            · split <;> rfl
        · split
          · split <;> rfl
          · exact (tail _).trans (rounds_setQueue _ _ _)

theorem rounds_tryJoin (q : Nat) : (b.tryJoin q).rounds = b.rounds := by
  unfold tryJoin
  extract_lets
  split
  · exact rounds_setQueue _ _ _
  · rfl

theorem rounds_trimHoles (q : Nat) : (b.trimHoles q).rounds = b.rounds := by
  unfold trimHoles
  extract_lets
  split
  · rfl
  · refine (foldl_same rounds _ (fun c x => rounds_reap _ _ _) _ _).trans ?_
    rw [rounds_setQueue, rounds_freeCells]

theorem rounds_joinQueue (q : Nat) : (b.joinQueue q).rounds = b.rounds := by
  unfold joinQueue
  rw [rounds_tryJoin, rounds_trimHoles, rounds_tryJoin, rounds_trimHoles]

theorem rounds_admitPkt (pid : Nat) (p : Pkt) : (b.admitPkt pid p).1.rounds = b.rounds := by
  unfold admitPkt
  extract_lets q n
  split <;> rename_i heq <;> have h1 := (congrArg (fun y => y.1.rounds) heq.symm).trans (rounds_admDecide _ _ _ _)
  · exact h1
  · exact h1
  · refine Eq.trans ?_ h1
    dsimp only
    rw [rounds_joinQueue, rounds_ledIn, rounds_profCount, rounds_profCount, rounds_setQueue, rounds_chargeCells, rounds_putPkt]

theorem rounds_parInject (g : Nat) (h : HV) : (b.parInject g h).1.rounds = b.rounds := by
  unfold parInject; extract_lets; split <;> rfl

theorem rounds_noteHead (g s n : Nat) : (b.noteHead g s n).rounds = b.rounds := by
  unfold noteHead
  split
  rename_i heq
  have h1 : _ = b.rounds := (congrArg (fun y => y.2.rounds) heq.symm)
  dsimp only
  split_ifs <;> simpa using h1

theorem rounds_tagHead (g : Nat) (lag : Bool) : (b.tagHead g lag).2.rounds = b.rounds := by
  unfold tagHead; split <;> rfl

end Body

end Sys2Proof.Machine
end

section
/-! O22: a head leaves its source and enters stage 7 (R82, R124, R137, R183, R197). -/

namespace Sys2Proof.Machine

namespace Body

variable {b c d : Body}

/-! What the end of a dispatch stall leaves alone, but for Survey's counters. -/

theorem keeps_svyAdd {i : Nat} (hi : i < 64) (n : Nat) : Keeps [] b (b.svyAdd i n) where
  regs _ _ _ _ hg hn _ := svyAdd_rd b hg hn i n hi
  ctrs := by unfold svyAdd; dsimp only; split_ifs <;> simp
  tbls := by unfold svyAdd; dsimp only; split_ifs <;> simp
  mem := by unfold svyAdd; dsimp only; split_ifs <;> simp

theorem keeps_svyStall (n : Nat) : Keeps [] b (b.svyStall n) := by
  unfold svyStall
  split_ifs
  · exact .refl b
  · refine Keeps.foldl _ (.refl b) fun c e he hc => hc.trans (keeps_svyAdd (mem_svyOn_lt b ?_) _)
    exact (List.mem_filter.mp he).1

/-! The pipeline and the dispatchers' rounds. -/

theorem rounds_copies (cs : List Pkt) {f : Body → Pkt → Body} (hf : ∀ c x, (f c x).rounds = c.rounds) (b : Body) :
    (cs.foldl f b).rounds = b.rounds := foldl_same rounds f hf cs b

theorem rounds_takeUnless (full : Bool) (l : List Nat) : (if full = true then b else b.takeCells l).rounds = b.rounds := by
  split
  · rfl
  · exact rounds_takeCells _ _

theorem rounds_runPipeline (seq g par vrf : Nat) (p : Pkt) (inj : Option (List Byte)) :
    (b.runPipeline seq g par vrf p inj).rounds = b.rounds := by
  unfold runPipeline
  split
  rename_i pid b1 hpid
  have h1 : b1.rounds = b.rounds := (congrArg (fun y => y.2.rounds) hpid.symm).trans rfl
  clear hpid
  extract_lets n b2 p1 full p2 b3 first done b4
  have h3 : b3.rounds = b.rounds :=
    (rounds_takeUnless ..).trans ((rounds_noteHead ..).trans ((rounds_ledIn ..).trans h1))
  have hdone : ∀ (c : Body) (q : Pkt) (cs : List Pkt), (done c q cs).rounds = c.rounds := by
    intro c q cs
    have hjoin : ∀ (d : Body) (x y : Pkt), (if (d.cutThrough x && first && !full) = true then
        match d.admitPkt pid y with
        | (b, true) => b.ledOut (ledPipe g) 1
        | (b, false) => b.putPkt pid { x with disp := .drop } else d).rounds = d.rounds := by
      intro d x y
      split
      · split <;> rename_i heq <;> exact (congrArg (fun y => y.1.rounds) heq.symm).trans (rounds_admitPkt _ _ _)
      · rfl
    dsimp only [done]
    rw [rounds_chmRefresh]
    refine (rounds_copies cs ?_ _).trans ((hjoin _ _ _).trans rfl)
    exact fun d x => rounds_takeUnless (b := d.newPid.2) ..
  split
  · exact (hdone ..).trans ((rounds_fault ..).trans h3)
  · split
    rename_i b5 h' heq
    have h5 : b5.rounds = b3.rounds := (congrArg (fun y => y.1.rounds) heq.symm).trans (rounds_parInject _ _ _)
    extract_lets
    split
    rename_i b6 p5 cs heq2
    exact (hdone ..).trans (((congrArg (fun y => y.1.rounds) heq2.symm).trans (rounds_pipeline ..)).trans (h5.trans h3))

/-- A head entered stage 7 under a number; nothing was served meanwhile, nor a table or a memory written. -/
structure Entered (pid : Nat) (b c : Body) : Prop where
  at7 : pid ∈ c.pipe.stage7
  rounds : c.rounds = b.rounds
  tbls : c.tbls = b.tbls
  mem : c.mem = b.mem

theorem runPipeline_entered (seq g par vrf : Nat) (p : Pkt) (inj : Option (List Byte)) :
    Entered b.pipe.nextPid b (b.runPipeline seq g par vrf p inj) ∧ (b.runPipeline seq g par vrf p inj).net = b.net ∧
    (b.runPipeline seq g par vrf p inj).pipe.rcyHold = b.pipe.rcyHold ∧ (b.runPipeline seq g par vrf p inj).pipe.injQ = b.pipe.injQ := by
  obtain ⟨hplace, hin⟩ := b.runPipeline_enters seq g par vrf p inj
  simp only [place, Prod.mk.injEq] at hplace
  obtain ⟨hnet, hrcy, hinj, hmem, htbls⟩ := hplace
  exact ⟨⟨hin, rounds_runPipeline .., htbls, hmem⟩, hnet, hrcy, hinj⟩

/-- The state of a dispatcher before the pipeline: what it has done to a source is all that it changed of what a head's entry is about. -/
structure Waiting (b c : Body) : Prop where
  next : c.pipe.nextPid = b.pipe.nextPid
  stage7 : c.pipe.stage7 = b.pipe.stage7
  rounds : c.rounds = b.rounds
  tbls : c.tbls = b.tbls
  mem : c.mem = b.mem

theorem Waiting.trans (h : Waiting b c) (h' : Waiting c d) : Waiting b d :=
  ⟨h'.next.trans h.next, h'.stage7.trans h.stage7, h'.rounds.trans h.rounds, h'.tbls.trans h.tbls, h'.mem.trans h.mem⟩

theorem Waiting.entered {n : Nat} (h : Waiting b c) (h' : Entered n c d) : Entered n b d :=
  ⟨h'.at7, h'.rounds.trans h.rounds, h'.tbls.trans h.tbls, h'.mem.trans h.mem⟩

theorem sendPfc_regs_tbls (p v m : Nat) : (b.sendPfc p v m).regs = b.regs ∧ (b.sendPfc p v m).tbls = b.tbls := by
  unfold sendPfc
  split_ifs <;> exact ⟨rfl, rfl⟩

/-- PORT_PFC_XOFF is the register that the PFC of a port changes. -/
theorem xoffUpdate_regs_tbls (p : Nat) (again : Bool) :
    (b.xoffUpdate p again).regs = (b.pwr p R.PORT_PFC_XOFF (b.xoffVec p)).regs ∧ (b.xoffUpdate p again).tbls = b.tbls := by
  unfold xoffUpdate
  dsimp only
  split_ifs
  · exact ⟨(sendPfc_regs_tbls ..).1.trans (sendPfc_regs_tbls ..).1, (sendPfc_regs_tbls ..).2.trans (sendPfc_regs_tbls ..).2⟩
  · exact sendPfc_regs_tbls ..
  · exact sendPfc_regs_tbls ..
  · exact ⟨rfl, rfl⟩

theorem entChanged_tbls (p : Nat) : (b.entChanged p).tbls = b.tbls := by
  unfold entChanged pfcEntrance
  dsimp only
  rw [(xoffUpdate_regs_tbls ..).2]
  split_ifs <;> rfl

/-- The fault bits of a Gallery's classifier stage stand when its entrance changes. -/
theorem entChanged_preclass_flt (p g n : Nat) (hn : n < 32) :
    (b.entChanged p).rd (Pg.preclass g) (fltStat n) = b.rd (Pg.preclass g) (fltStat n) := by
  have hlevel : ∀ (d : Body) (f : Fld) (v : Nat), f.lo < 32 → 0x80 ≤ f.off ∧ f.off < 0x1000 →
      (d.wr (Pg.preclass (p / 64)) f v).rd (Pg.preclass g) (fltStat n) = d.rd (Pg.preclass g) (fltStat n) := fun d f v hf ho =>
    d.rd_wr_ne v hf hn (.inl (by simp only [Fld.addr_zero, fltStat, Pg.preclass, Pg.gallery]; omega))
  have hxoff : ∀ (d : Body) again, (d.xoffUpdate p again).rd (Pg.preclass g) (fltStat n) = d.rd (Pg.preclass g) (fltStat n) := fun d again =>
    (rd_of_regs (xoffUpdate_regs_tbls p again).1 ..).trans (d.rd_wr_ne _ (by decide) hn
      (.inl (by simp only [Fld.addr_zero, fltStat, Pg.preclass, Pg.lane, Pg.gallery, R.PORT_PFC_XOFF]; omega)))
  have hgauges : ((b.galBusy (p / 64)).entLevel (p / 64)).rd (Pg.preclass g) (fltStat n) = b.rd (Pg.preclass g) (fltStat n) :=
    (hlevel _ R.ENT_PEAK _ (by decide) (by decide)).trans ((hlevel _ R.ENT_OCC _ (by decide) (by decide)).trans (rd_of_regs rfl ..))
  unfold entChanged
  rw [← hgauges]
  generalize (b.galBusy (p / 64)).entLevel (p / 64) = d
  unfold pfcEntrance
  dsimp only
  rw [hxoff]
  split_ifs <;> exact rd_of_regs rfl ..

theorem waiting_entChanged (p : Nat) : Waiting b (b.entChanged p) where
  next := congrArg (·.nextPid) entChanged_same.pipe
  stage7 := congrArg (·.stage7) entChanged_same.pipe
  rounds := congrArg (·.disp) entChanged_same.pipe
  tbls := entChanged_tbls p
  mem := entChanged_same.mem

theorem waiting_tagHead (g : Nat) (lag : Bool) : Waiting b (b.tagHead g lag).2 := by
  unfold tagHead
  split <;> exact ⟨rfl, rfl, rfl, rfl, rfl⟩

theorem tagHead_rest (g : Nat) (lag : Bool) : (b.tagHead g lag).2.net = b.net ∧ (b.tagHead g lag).2.pipe = b.pipe := by
  unfold tagHead
  split <;> exact ⟨rfl, rfl⟩

/-- A head that has left its source is tagged and goes through the pipeline. -/
theorem tagged_entered (h : Waiting b c) {g seq par vrf : Nat} {lag : Bool} (ht : c.tagHead g lag = (seq, d)) (p : Pkt) (inj : Option (List Byte)) :
    Entered b.pipe.nextPid b (d.runPipeline seq g par vrf p inj) ∧ (d.runPipeline seq g par vrf p inj).net = c.net ∧
    (d.runPipeline seq g par vrf p inj).pipe.rcyHold = c.pipe.rcyHold ∧ (d.runPipeline seq g par vrf p inj).pipe.injQ = c.pipe.injQ := by
  have hd : (c.tagHead g lag).2 = d := congrArg Prod.snd ht
  have hwait : Waiting b d := h.trans (hd ▸ waiting_tagHead g lag)
  obtain ⟨hnet, hpipe⟩ : d.net = c.net ∧ d.pipe = c.pipe := hd ▸ tagHead_rest g lag
  obtain ⟨hin, hn, hr, hi⟩ := d.runPipeline_entered seq g par vrf p inj
  rw [hwait.next] at hin
  exact ⟨hwait.entered hin, hn.trans hnet, by rw [hr, hpipe], by rw [hi, hpipe]⟩

/-- Copies in reception follow their frame into the pipeline or are gone; the frame in reception is of the network side alone. -/
theorem waiting_setRx (h : Waiting b c) (whole : Bool) (p : Nat) (f : Option RxFrame) :
    Waiting b (if whole = true then c else c.setRx p f) ∧ (if whole = true then c else c.setRx p f).net.ent = c.net.ent := by
  split
  · exact ⟨h, rfl⟩
  · exact ⟨⟨h.next, h.stage7, h.rounds, h.tbls, h.mem⟩, rfl⟩

/-! Each source. -/

/-- The head of a port may go, whole or with 512 bytes of it arrived. -/
def mayGo (e : EntFrame) : Prop := e.complete = true ∨ 512 ≤ e.held

theorem dispatchPort_entered {port : Nat} {e : EntFrame} {rest : List EntFrame} (lag : Bool) (hf : b.fifo port = e :: rest) (hgo : mayGo e)
    (hok : port / 64 ∉ b.net.entEcc) :
    Entered b.pipe.nextPid b (b.dispatchPort port lag) ∧ (b.dispatchPort port lag).fifo port = rest := by
  have hout : ¬ (¬ e.complete = true ∧ e.held < 512) := fun ⟨h1, h2⟩ => hgo.elim h1 (Nat.not_le.mpr h2)
  have hecc : ¬ b.net.entEcc.contains (port / 64) = true := fun h => hok (List.contains_iff_mem.mp h)
  generalize hc : b.dispatchPort port lag = c
  unfold dispatchPort at hc
  extract_lets g at hc
  split at hc
  · rename_i h
    cases h.symm.trans hf
  rename_i e' rest' h
  obtain ⟨rfl, rfl⟩ := List.cons.inj (h.symm.trans hf)
  rw [if_neg hout] at hc
  extract_lets b1 src lost gone b2 b3 b4 at hc
  rw [if_neg (show ¬ b1.net.entEcc.contains g = true from hecc)] at hc
  have h2 : Waiting b b2 := ⟨rfl, rfl, rfl, rfl, rfl⟩
  obtain ⟨h3, hent⟩ : Waiting b b3 ∧ b3.net.ent = b2.net.ent := waiting_setRx h2 ..
  split at hc
  rename_i seq d htag
  obtain ⟨hin, hnet, -⟩ := tagged_entered (h3.trans (waiting_entChanged port)) htag _ _
  rw [← hc]
  refine ⟨hin, ?_⟩
  rw [fifo, hnet, entChanged_same.ent, hent]
  exact Sp.get_set_self ..

/-- A head whose bytes are in error is lost. -/
theorem dispatchPort_lost {port : Nat} {e : EntFrame} {rest : List EntFrame} (lag : Bool) (hf : b.fifo port = e :: rest)
    (hgo : mayGo e) (hbad : port / 64 ∈ b.net.entEcc) :
    (b.dispatchPort port lag).fifo port = rest ∧ (b.dispatchPort port lag).rd (Pg.preclass (port / 64)) (fltStat R.ENT_FLT_ECC) = 1 ∧
    (b.dispatchPort port lag).pipe.stage7 = b.pipe.stage7 := by
  have hout : ¬ (¬ e.complete = true ∧ e.held < 512) := fun ⟨h1, h2⟩ => hgo.elim h1 (Nat.not_le.mpr h2)
  generalize hc : b.dispatchPort port lag = c
  unfold dispatchPort at hc
  extract_lets g at hc
  split at hc
  · rename_i h
    cases h.symm.trans hf
  rename_i e' rest' h
  obtain ⟨rfl, rfl⟩ := List.cons.inj (h.symm.trans hf)
  rw [if_neg hout] at hc
  extract_lets b1 src lost gone b2 b3 b4 at hc
  rw [if_pos (show b1.net.entEcc.contains g = true from List.contains_iff_mem.mpr hbad)] at hc
  have h2 : Waiting b lost := ⟨rfl, rfl, rfl, rfl, rfl⟩
  obtain ⟨h3, hent⟩ : Waiting b gone ∧ gone.net.ent = lost.net.ent := waiting_setRx h2 ..
  rw [← hc]
  clear_value gone
  refine ⟨?_, ?_, ?_⟩
  · rw [fifo, entChanged_same.ent]
    simp only [fault_rest, lose_rest, hent]
    exact Sp.get_set_self ..
  · rw [entChanged_preclass_flt _ _ _ (by decide)]
    exact fault_stat ..
  · rw [entChanged_same.pipe]
    simpa using h3.stage7

theorem waiting_of_flow (hf : c.flow = b.flow) (hr : c.rounds = b.rounds) : Waiting b c := by
  obtain ⟨-, h7, -, -, hn, hm, ht⟩ := flow_eq hf
  exact ⟨hn, h7, hr, ht, hm⟩

theorem dispatchRcy_entered {g pid : Nat} {rest : List Nat} {p : Pkt} (lag : Bool) (hq : Sp.get [] b.pipe.rcyHold g = pid :: rest)
    (hp : b.pkt pid = some p) :
    Entered b.pipe.nextPid b (b.dispatchRcy g lag) ∧ Sp.get [] (b.dispatchRcy g lag).pipe.rcyHold g = rest := by
  generalize hc : b.dispatchRcy g lag = c
  unfold dispatchRcy at hc
  split at hc
  · rename_i h
    cases h.symm.trans hq
  rename_i pid' rest' h
  obtain ⟨rfl, rfl⟩ := List.cons.inj (h.symm.trans hq)
  split at hc
  · rename_i h
    cases h.symm.trans hp
  rename_i p' h
  obtain rfl := Option.some.inj (h.symm.trans hp)
  extract_lets src b1 b2 at hc
  have hf : b2.flow = b1.flow := (flow_delPkt ..).trans (flow_freeCells ..)
  have h2 : Waiting b b2 :=
    Waiting.trans (⟨rfl, rfl, rfl, rfl, rfl⟩ : Waiting b b1) (waiting_of_flow hf ((rounds_delPkt ..).trans (rounds_freeCells ..)))
  split at hc
  rename_i seq d htag
  obtain ⟨hin, -, hr, -⟩ := tagged_entered h2 htag _ _
  obtain ⟨-, -, hrcy, -⟩ := flow_eq hf
  rw [← hc]
  refine ⟨hin, ?_⟩
  rw [hr, hrcy]
  exact Sp.get_set_self ..

/-- Buffers freed go back to their pools alone. -/
theorem poolFrees_besides (l : List (Nat × Nat)) (b : Body) :
    (l.foldl (fun b s => b.poolFree s.1 s.2 0x3FF) b).lines = b.lines ∧ (l.foldl (fun b s => b.poolFree s.1 s.2 0x3FF) b).mem = b.mem := by
  have hmem : ∀ (c : Body) (n i m : Nat), (c.poolFree n i m).mem = c.mem := fun c n i m => by
    unfold poolFree
    dsimp only
    split_ifs <;> simp [setAlloc]
  exact ⟨foldl_same lines _ (fun c s => lines_poolFree ..) l b, foldl_same (·.mem) _ (fun c s => hmem ..) l b⟩

theorem dispatchInj_entered {g : Nat} {x : InjPkt} {rest : List InjPkt} (lag : Bool) (hq : Sp.get [] b.pipe.injQ g = x :: rest) :
    Entered b.pipe.nextPid b (b.dispatchInj g lag) ∧ Sp.get [] (b.dispatchInj g lag).pipe.injQ g = rest := by
  generalize hc : b.dispatchInj g lag = c
  unfold dispatchInj at hc
  split at hc
  · rename_i h
    cases h.symm.trans hq
  rename_i x' rest' h
  obtain ⟨rfl, rfl⟩ := List.cons.inj (h.symm.trans hq)
  extract_lets src b1 port at hc
  have h1 : Waiting b b1 := ⟨rfl, rfl, rfl, rfl, rfl⟩
  split at hc
  rename_i seq d htag
  extract_lets e at hc
  obtain ⟨hin, -, -, hi⟩ : Entered b.pipe.nextPid b e ∧ _ := tagged_entered h1 htag _ _
  obtain ⟨hlines, hmem⟩ := poolFrees_besides x'.stage e
  rw [hc] at hlines hmem
  obtain ⟨-, hpipe, htbls, -⟩ := lines_eq hlines
  refine ⟨⟨hpipe ▸ hin.at7, (congrArg (·.disp) hpipe).trans hin.rounds, htbls.trans hin.tbls, hmem.trans hin.mem⟩, ?_⟩
  rw [hpipe, hi]
  exact Sp.get_set_self ..

end Body

end Sys2Proof.Machine
end

section
/-! O22: the dispatcher's turns, and the ends of its stalls (R82, R137, R183). -/

namespace Sys2Proof.Machine

namespace Body

variable {b : Body}

/-! A dispatcher that serves a source hands over its head. -/

theorem headDispatch_idle {src : Nat} (lag : Bool)
    (h : b.canDispatch (if src < 512 then src / 64 else (src - 512) % 8) = false ∨
      b.headTurn (if src < 512 then src / 64 else (src - 512) % 8) src = false) : b.headDispatch src lag = b :=
  if_pos (h.imp (fun h => by simp [h]) fun h => by simp [h])

section
variable {g src : Nat}

/-- A source whose turn it is has a head. -/
theorem headTurn_ready (h : b.headTurn g src = true) : b.headReady src = true := by
  unfold headTurn at h
  exact (Bool.and_eq_true_iff.mp h).1

theorem headDispatch_port (lag : Bool) (hs : src < 512) (hc : b.canDispatch (src / 64) = true) (ht : b.headTurn (src / 64) src = true) :
    b.headDispatch src lag = (b.headServe (src / 64) src).dispatchPort src lag := by
  unfold headDispatch
  simp only [if_pos hs, hc, ht, not_true_eq_false, or_self, if_false]

theorem headDispatch_rcy (lag : Bool) (hg : g < 8) (hc : b.canDispatch g = true) (ht : b.headTurn g (512 + g) = true) :
    b.headDispatch (512 + g) lag = (b.headServe g (512 + g)).dispatchRcy g lag := by
  have hgal : (512 + g - 512) % 8 = g := by omega
  unfold headDispatch
  simp only [if_neg (show ¬ 512 + g < 512 by omega), if_pos (show 512 + g < 520 by omega), hgal, hc, ht, not_true_eq_false, or_self, if_false]

theorem headDispatch_inj (lag : Bool) (hg : g < 8) (hc : b.canDispatch g = true) (ht : b.headTurn g (520 + g) = true) :
    b.headDispatch (520 + g) lag = (b.headServe g (520 + g)).dispatchInj g lag := by
  have hgal : (520 + g - 512) % 8 = g := by omega
  unfold headDispatch
  simp only [if_neg (show ¬ 520 + g < 512 by omega), if_neg (show ¬ 520 + g < 520 by omega), if_pos (show 520 + g < 528 by omega), hgal, hc, ht,
    not_true_eq_false, or_self, if_false]

theorem mayGo_of_turn {e : EntFrame} {rest : List EntFrame} (hs : src < 512) (ht : b.headTurn g src = true) (hf : b.fifo src = e :: rest) :
    mayGo e := by
  have h := headTurn_ready ht
  unfold headReady at h
  rw [if_pos hs, hf] at h
  exact (Bool.or_eq_true_iff.mp h).imp id of_decide_eq_true

end

/-- The end of a stall of the lookups' banks is counted and told. -/
theorem stallEnd_bank (n : Nat) :
    (b.stallEnd (.bank n)).rd Pg.vault R.VLT_STALL = min (b.rd Pg.vault R.VLT_STALL + n) (2 ^ 32 - 1) ∧
    (b.stallEnd (.bank n)).rd Pg.vault (evtPend R.VLT_EVT_STALL) = 1 ∧ Keeps [Pg.vault] b (b.stallEnd (.bank n)) := by
  have hkeeps : Keeps [] ((b.sat Pg.vault R.VLT_STALL n).fire Pg.vault R.VLT_EVT_STALL) (b.stallEnd (.bank n)) := keeps_svyStall _
  refine ⟨?_, ?_, ?_⟩
  · rw [hkeeps.regs _ _ _ _ (by decide) (by decide) (by simp), rd_fire_field (by decide) (by decide) (by decide), sat, rd_wr_self]
    exact Nat.mod_eq_of_lt (Nat.lt_of_le_of_lt (Nat.min_le_right ..) (by decide))
  · rw [hkeeps.regs _ _ _ _ (by decide) (by decide) (by simp)]
    exact fire_pend _ (by decide) (by decide)
  · exact (((Keeps.refl b).sat (by decide) (by decide)).fire (by decide) (by decide) (by simp)).trans (hkeeps.mono (by simp))

/-- The end of a stall by a write-back is counted by the statistics cache (R183). -/
theorem stallEnd_writeback (n : Nat) :
    (b.stallEnd (.writeback n)).rd Pg.stc R.STC_STALL = min (b.rd Pg.stc R.STC_STALL + n) (2 ^ 32 - 1) ∧
    Keeps [Pg.stc] b (b.stallEnd (.writeback n)) := by
  have hkeeps : Keeps [] (b.sat Pg.stc R.STC_STALL n) (b.stallEnd (.writeback n)) := keeps_svyStall _
  refine ⟨?_, ((Keeps.refl b).sat (by decide) (by decide)).trans (hkeeps.mono (by simp))⟩
  rw [hkeeps.regs _ _ _ _ (by decide) (by decide) (by simp), sat, rd_wr_self]
  exact Nat.mod_eq_of_lt (Nat.lt_of_le_of_lt (Nat.min_le_right ..) (by decide))

end Body

theorem State.withBody_pipe {s : State} {c : Body} : (s.withBody c).dev.body.pipe = c.pipe := State.withBody_rest.2.2.2.2.2.2.2.2.1

/-- A head entered stage 7, in the state that follows. -/
theorem State.withBody_entered {s : State} {b c : Body} {pid : Nat} (h : Body.Entered pid b c) :
    pid ∈ (s.withBody c).dev.body.pipe.stage7 ∧ (s.withBody c).dev.body.pipe.disp = b.pipe.disp ∧
    (s.withBody c).dev.body.tbls = b.tbls ∧ (s.withBody c).dev.body.mem = b.mem := by
  simp only [State.withBody_rest, State.withBody_mem]
  exact ⟨h.at7, h.rounds, h.tbls, h.mem⟩

end Sys2Proof.Machine

namespace Sys2Proof

open Machine

/-- Settles O22, source by source: the head that its dispatcher serves leaves the source and waits at stage 7, and what the pipeline does
besides leaves the rounds, the tables and the memories alone. -/
theorem headsAreDispatched : Obligations.HeadsAreDispatched := by
  refine ⟨fun src lag s hsrc hruns => ?_, fun n s hruns => ⟨?_, ?_⟩⟩
  · intro b gal goes
    have hexec : ∀ c, b.headDispatch src lag = c → exec (.headDispatch src lag) s = .next (s.withBody c) := fun c hc =>
      State.body_withBody (decide_eq_true hsrc) hruns hc
    refine ⟨fun h => State.body_self (decide_eq_true hsrc) hruns (Body.headDispatch_idle lag h), fun hcan hturn => ⟨?_, ?_, ?_, ?_⟩⟩
    · intro e rest hs hf hok
      have hgal : gal = src / 64 := if_pos hs
      rw [hgal] at hcan hturn hok
      obtain ⟨hin, hrest⟩ := Body.dispatchPort_entered (b := b.headServe (src / 64) src) lag hf (Body.mayGo_of_turn hs hturn hf) hok
      refine ⟨_, hexec _ (Body.headDispatch_port lag hs hcan hturn), (State.withBody_fifo _).trans hrest, ?_⟩
      simp only [goes, hgal]
      exact State.withBody_entered hin
    · intro e rest hs hf hbad
      have hgal : gal = src / 64 := if_pos hs
      rw [hgal] at hcan hturn hbad ⊢
      obtain ⟨hrest, hflt, h7⟩ := Body.dispatchPort_lost (b := b.headServe (src / 64) src) lag hf (Body.mayGo_of_turn hs hturn hf) hbad
      refine ⟨_, hexec _ (Body.headDispatch_port lag hs hcan hturn), (State.withBody_fifo _).trans hrest,
        (State.withBody_flt (by unfold Pg.preclass Pg.gallery; omega) (by decide)).mpr hflt, ?_⟩
      rw [State.withBody_pipe]
      exact h7
    · intro g pid rest p hg hs hq hp
      have hgal : gal = g := (if_neg (by omega)).trans (by omega)
      subst hs
      rw [hgal] at hcan hturn
      obtain ⟨hin, hrest⟩ := Body.dispatchRcy_entered (b := b.headServe g (512 + g)) lag hq hp
      refine ⟨_, hexec _ (Body.headDispatch_rcy lag hg hcan hturn), ?_, ?_⟩
      · rw [State.withBody_pipe]
        exact hrest
      · simp only [goes, hgal]
        exact State.withBody_entered hin
    · intro g x rest hg hs hq
      have hgal : gal = g := (if_neg (by omega)).trans (by omega)
      subst hs
      rw [hgal] at hcan hturn
      obtain ⟨hin, hrest⟩ := Body.dispatchInj_entered (b := b.headServe g (520 + g)) lag hq
      refine ⟨_, hexec _ (Body.headDispatch_inj lag hg hcan hturn), ?_, ?_⟩
      · rw [State.withBody_pipe]
        exact hrest
      · simp only [goes, hgal]
        exact State.withBody_entered hin
  · obtain ⟨hcount, hevt, hkeeps⟩ := s.dev.body.stallEnd_bank n
    exact ⟨_, State.body_withBody rfl hruns rfl, (State.withBody_reg (by decide) (by decide)).trans hcount,
      (State.withBody_evt (by decide) (by decide)).mpr hevt, State.withBody_keeps hkeeps⟩
  · obtain ⟨hcount, hkeeps⟩ := s.dev.body.stallEnd_writeback n
    exact ⟨_, State.body_withBody rfl hruns rfl, (State.withBody_reg (by decide) (by decide)).trans hcount, State.withBody_keeps hkeeps⟩

end Sys2Proof
end

section
/-! O25: what MACsec writes for a frame that it protects (R91). -/

namespace Sys2Proof

open Machine

/-- A whole packet whose cells and descriptor are good, by a port that sends. -/
theorem Machine.Body.packetTransmit_whole {b : Body} {port : Nat} {e : EgrPkt} {p : Pkt} (hport : port < 512) (hnext : b.egrNext port = some (e, p))
    (hsends : b.portSends port = true) (hlink : p.linkBad = false) (hct : p.ct = false) (hstart : p.started = false) (hchk : p.chkBad = false)
    (hok : p.rw.checkOk = true) (hinj : b.rd (Pg.rew e.slice) R.REW_INJ_CNT = 0) : b.packetTransmit port = b.egrSend e p (b.txStamp port) := by
  have hcheck : b.egrCheck e p = (b, some p) := by
    unfold Body.egrCheck Body.rewCheck Body.rewArm
    simp only [hchk, hinj, hok, if_true, if_false, Bool.false_eq_true]
  unfold Body.packetTransmit
  rw [if_neg (Nat.not_le.mpr hport), hnext]
  simp only [hsends, hlink, hct, hstart, hcheck, not_true_eq_false, and_false, false_and, if_false, Bool.false_eq_true]

theorem exec_packetTransmit {port : Nat} {s : State} {c : Body} (hport : port < 512) (hruns : s.runs [5 + portGal port])
    (h : s.dev.body.packetTransmit port = c) : exec (.packetTransmit port) s = .next (s.withBody c) :=
  State.body_withBody (decide_eq_true hport) hruns h

/-- A descriptor that has been sealed checks. -/
theorem Machine.Rewrite.seal_checkOk (r : Rewrite) : r.seal.checkOk = true := by
  have hbody : r.seal.body = r.body := by simp only [Rewrite.body, Rewrite.seal]
  rw [Rewrite.checkOk, hbody, Rewrite.seal, beq_self_eq_true]

open Tests

/-- A packet of 36 bytes without its FCS, its descriptor good. -/
def goodPkt : Pkt := { pkt0 with data := List.replicate 36 0, len := 40, rw := ({} : Rewrite).seal }

/-- The packet as slice 7 has handed it to egress of port 511. -/
def toPort : EgrPkt := { slice := 7, port := 511, pid := 0, queue := 0, cells := [] }

/-- Port 511 is up with MACsec on, its SecY protects what it sends, its transmit SA is usable, and a packet is next in egress. -/
def secured : State :=
  chg (inQueue 0 {} goodPkt (ents (regs (link 511 4) [(Pg.lane 511, R.PORT_MACSEC_EN, 0, 1)])
    [(Tbl.secy 7, 63, 2 ^ 47 + 2 ^ 36), (Tbl.txSa 7, 252, 2 ^ 455 + 2 ^ 454)])) fun b => { b with sch := { b.sch with egr := [toPort] } }

theorem secured_next : secured.dev.body.egrNext 511 = some (toPort, goodPkt) := rfl

/-- MACsec makes of the packet a frame that needs no padding. -/
theorem secured_frame : ∃ w, ((secured.dev.body.rewCounts 7 goodPkt).msecTx 511 (rewritten goodPkt)).2 = some w ∧ w.length = 60 := by
  have hlen : (((secured.dev.body.rewCounts 7 goodPkt).msecTx 511 (rewritten goodPkt)).2.map (·.length)) = some 60 := by decide +kernel
  obtain ⟨w, hw, hl⟩ := Option.map_eq_some_iff.mp hlen
  exact ⟨w, hw, hl⟩

/-- Refutes O25: a frame that MACsec protects takes a packet number, and the next one is written into the transmit SA's entry; the statement
has every entry as before, with MACsec on too. -/
theorem not_egressSends : ¬ Obligations.EgressSends := by
  intro h
  obtain ⟨htransmit, -⟩ := h
  have hruns : secured.runs [5 + portGal 511] := by unfold State.runs; decide +kernel
  have hsends : secured.dev.body.portSends 511 = true := by decide +kernel
  obtain ⟨-, hgood⟩ := htransmit 511 toPort goodPkt secured (by decide) hruns secured_next rfl
  have hinj : secured.reg (Pg.rew toPort.slice) R.REW_INJ_CNT = 0 := by decide +kernel
  have hok : goodPkt.rw.checkOk = true := Rewrite.seal_checkOk {}
  obtain ⟨hwhole, -⟩ := hgood hsends rfl hok hinj
  obtain ⟨w, hw, hlen⟩ := secured_frame
  obtain ⟨t, pad, hexec, -, -, -, -, htbls⟩ := hwhole rfl (by decide) (by decide) (by decide +kernel) (by decide +kernel) (by decide +kernel) w
    ((if_pos (by decide +kernel)).trans hw) (by rw [hlen]; decide +kernel)
  have hsent : secured.dev.body.packetTransmit 511 = _ :=
    Body.packetTransmit_whole (e := toPort) (p := goodPkt) (by decide) secured_next hsends rfl rfl rfl rfl hok hinj
  have hnext := (exec_packetTransmit (by decide) hruns hsent).symm.trans hexec
  obtain rfl := Host.Outcome.next.inj hnext
  have hsame : saPn ((secured.dev.body.egrSend toPort goodPkt (secured.dev.body.txStamp 511)).ent (Tbl.txSa 7) 252) =
      saPn (secured.dev.body.ent (Tbl.txSa 7) 252) := congrArg saPn (Body.ent_of_tbls (State.withBody_rest.2.2.2.1.symm.trans htbls) ..)
  exact absurd hsame (by decide +kernel)

end Sys2Proof
end
